-- ==== Sys2Proof/Word.lean ====
section
/-! DEFINITION. The words of the machine: the 8-byte scalar word and the byte. -/
namespace Sys2Proof

/-- A byte. -/
abbrev Byte := BitVec 8

/-- The 64-bit word of scalar and address registers and of coherence order (R127, R318). -/
abbrev Word := BitVec 64

end Sys2Proof
end

