-- ==== Sys2Proof/Syntax.lean ====
section
/-! DEFINITION. The syntax: one constructor of Instr per row of spec/opcode_table.json.
The rows are the instructions of the four classes, the step words of the collective engines, and the
indivisible events of engines, routers, firmware and the outside world. An instruction's constructor holds the
fields of its format (R315, R316); an event's constructor holds what the outside brings, or names the unit that acts. -/
namespace Sys2Proof

/-- The cause codes of R246, in code order. -/
inductive Cause where
  | none | illOp | rsvField | blkHeader | priv | streamClass | syncMismatch | loopbuf
  | feTrap | feDouble | queueUnder | queueOver | spillOverflow | divZero | align | lcreg
  | schedMiss | accRange | wbDecomp | tensorDesc | tensorBounds | fmtMismatch | hadamardSize | wbFull
  | spadRange | coreUnmapped | copyPageFault | perm | leaseWait | migrating | scoreboardFull | atomicAlign
  | syncObjInvalid | acqTimeout | relNotHeld | tokenExpired | tokenTableFull | holdQueueFull | fenceRfTimeout | publishConflict
  | linkDown | nakExhausted | chipFencedOff | shootdownTimeout | uetDelivery | unexpectedFull | matchTableFull | windowUnmapped
  | collAbort | collLate | collProgram | collPeer | escapeOverflow | reduceFormat | watchdogHang | preempt
  | taskAbort | taskqFull | breakTrap | matchpoint | undoLogFull | replayDiverge | eccUncorrectable | internal
  deriving DecidableEq, Repr

/-- The party that issues: stream k of a logical tile (R215), a Ferry thread (R99), or a collective engine (R155). -/
inductive Who where
  | stream (tile k : Nat)
  | thread (n : Nat)
  | engine (n : Nat)
  deriving DecidableEq, Repr

/-- Format TRI (R315). -/
structure Tri where
  d : BitVec 6
  a : BitVec 6
  b : BitVec 6
  wa : Bool
  wb : Bool
  deriving DecidableEq, Repr

/-- Format IMM.S (R315). -/
structure ImmS where
  d : BitVec 6
  a : BitVec 6
  imm : BitVec 14
  deriving DecidableEq, Repr

/-- Format IMM.W (R315). -/
structure ImmW where
  d : BitVec 6
  imm : BitVec 20
  deriving DecidableEq, Repr

/-- Format BRA.S (R315). -/
structure BraS where
  a : BitVec 6
  b : BitVec 6
  off : BitVec 14
  deriving DecidableEq, Repr

/-- Format BRA.L (R315). -/
structure BraL where
  d : BitVec 6
  off : BitVec 20
  deriving DecidableEq, Repr

/-- Format MEM (R315), its op field being the constructor. -/
structure MemF where
  d : BitVec 6
  a : BitVec 6
  off : BitVec 11
  deriving DecidableEq, Repr

/-- Format CMD with layout E (R315, R316); the sub is the constructor's (DISP keeps its own, R324). -/
structure CmdE where
  d : BitVec 6
  a : BitVec 6
  b : BitVec 6
  c : BitVec 6
  pv : Bool
  pn : Bool
  pk : BitVec 4
  imm : BitVec 20
  deriving DecidableEq, Repr

/-- Format CMD with layout V (R316). -/
structure VForm where
  d : BitVec 6
  a : BitVec 6
  b : BitVec 6
  c : BitVec 6
  pv : Bool
  pn : Bool
  pk : BitVec 4
  ty : BitVec 4
  ty2 : BitVec 4
  rm : BitVec 2
  fzi : Bool
  fzo : Bool
  sat : Bool
  imm : BitVec 7
  deriving DecidableEq, Repr

/-- Format CMD with layout M (R316), M.RSVD being zero. -/
structure MForm where
  d : BitVec 6
  a : BitVec 6
  b : BitVec 6
  c : BitVec 6
  pv : Bool
  pn : Bool
  pk : BitVec 4
  dt : BitVec 8
  ec : BitVec 2
  rm : BitVec 2
  sat : Bool
  fzo : Bool
  ty : BitVec 4
  deriving DecidableEq, Repr

/-- The compact format C16 (R315): x and y. -/
structure C16 where
  x : BitVec 5
  y : BitVec 5
  deriving DecidableEq, Repr

/-- The compact MNOP's dt (R327). -/
structure MnopC where
  dt : BitVec 8
  deriving DecidableEq, Repr

/-- The block header (R221). -/
structure Hdr where
  len : BitVec 10
  s : Bool
  lcv : Bool
  lcn : BitVec 2
  count : BitVec 12
  deriving DecidableEq, Repr

/-- A data step word of a collective program (R160), its OP being the constructor. -/
structure StepDataF where
  is : Bool
  pk : BitVec 11
  ck : BitVec 11
  cm : BitVec 2
  sb : BitVec 2
  db : BitVec 2
  sf : Bool
  lr : Bool
  wd : Bool
  ns : Bool
  fw : Bool
  iw : Bool
  tr : Bool
  deriving DecidableEq, Repr

/-- A WAIT step word (R161). -/
structure StepWaitF where
  cnt : BitVec 14
  rb : Bool
  thr : BitVec 32
  deriving DecidableEq, Repr

/-- A LOOP step word (R161). -/
structure StepLoopF where
  count : BitVec 16
  nr : Bool
  len : BitVec 10
  deriving DecidableEq, Repr

/-- A flit (R32): its link header's fields, its body and its CRC. -/
structure Flit where
  ftype : BitVec 4
  vc : BitVec 2
  dlc : Bool
  first : Bool
  last : Bool
  rsvd : BitVec 7
  seq : BitVec 16
  ack : BitVec 16
  plen : BitVec 8
  cclass : BitVec 3
  ccount : BitVec 5
  body : List Byte
  crc : BitVec 64
  deriving DecidableEq, Repr

/-- What the boot ROM meets outside the flash record (R22): the public key of the device key that the PUF gives, the firmware image with its
signature and version, whether it loads, and the training results. -/
structure BootInput where
  pufKey : List Byte
  fwImage : List Byte
  fwSig : List Byte
  fwVersion : BitVec 64
  fwLoaded : Bool
  hbmTrained : Bool
  linksTrained : Bool
  pcieTrained : Bool
  deriving DecidableEq, Repr

/-- The kinds of Ultra Ethernet request a port meets (R56, R57). -/
inductive UetKind where
  | taggedSend | rmaWrite | untaggedSend | deferrableSend | rmaRead | atomic | hpc
  deriving DecidableEq, Repr

/-- The delivery modes of the transport (R56). -/
inductive UetMode where
  | rod | rud | rudi | uud
  deriving DecidableEq, Repr

/-- An Ultra Ethernet request (R58, R59): the bytes of its first packet, its whole length, and its port's delivery context that carries it. -/
structure UetRequest where
  kind : UetKind
  mode : UetMode
  port : Nat
  addr : BitVec 128
  v4 : Bool
  pep : BitVec 32
  job : BitVec 24
  tag : BitVec 64
  hdata : Option (BitVec 64)
  len : Nat
  off : BitVec 64
  data : List Byte
  pdc : Nat
  deriving DecidableEq, Repr

/-- The steps of a migration (R121): of a page or of a tensor's chunk, by the Ferry. -/
inductive MigrationStep where
  | beginPage (ctx : Nat) (va : BitVec 57)
  | beginChunk (ctx tensor : Nat) (shadow : Bool) (chunk : Nat)
  | finish (n : Nat) (frame : BitVec 36)
  deriving DecidableEq, Repr

/-- The unit that meets a memory error (R246, R283, R293). -/
inductive ErrorUnit where
  | stream (tile k : Nat) | thread (n : Nat) | copyEngine (n : Nat) | collEngine (n : Nat)
  | tile (n : Nat) | hbmController (n : Nat) | ferrySram | ferryCore (n : Nat)
  deriving DecidableEq, Repr

/-- The events, instructions and step words of the part: one constructor per row of spec/opcode_table.json. -/
inductive Instr where
  /-- PACKAGE_RESET (R21). A rail falling below 90 % of nominal, or RESET_N being asserted, resets the whole package together. -/
  | packageReset
  /-- RESET_N_RELEASE (R22). Release of RESET_N starts the CCC at zero and starts the boot ROM, which runs its stages to READY or to a recovery status. -/
  | resetNRelease (b : BootInput)
  /-- THERMAL_HOT (R19). A die's junction temperature crossing 105 °C halves the effective power limit, and falling back below it restores the limit. -/
  | thermalHot (die : Nat) (degrees : Nat)
  /-- THERMTRIP (R19). A die reaching 115 °C makes the J1 assert THERMTRIP_N. -/
  | thermtrip (die : Nat)
  /-- POWER_PERIOD_END (R18). At the end of each 1 ms averaging period the power manager starts or ends limiting and recomputes the common factor F. -/
  | powerPeriodEnd (power : Nat)
  /-- PKG_LIMIT_WRITE (R18). A write of PKG_LIMIT over I3C sets the package limit, and a value outside 600–1,900 W is ignored. -/
  | pkgLimitWrite (watts : BitVec 16)
  /-- LIFETIME_REWRITE (R26). At most once an hour the firmware rewrites the lifetime part with the lower sequence number, adding the gathered counts. -/
  | lifetimeRewrite (floor : BitVec 64)
  /-- ATTESTATION_REQUEST (R28). Writing the last byte of NONCE, over the host port or over I3C, starts an attestation request. -/
  | attestationRequest (nonce : List Byte)
  /-- ATTESTATION_REPORT_SIGNED (R28). The key store completes the signed report, which then becomes readable at REPORT. -/
  | attestationReportSigned
  /-- SETDASA (R76). The I3C SETDASA command assigns the dynamic address from the static address 0x5A. -/
  | setdasa (static dynamic : BitVec 7)
  /-- ENTDAA (R76). The I3C ENTDAA command takes part in dynamic address assignment. -/
  | entdaa (dynamic : BitVec 7)
  /-- FLIT_RECEIVE (R37). A sequenced flit is accepted when its SEQ equals E and its class is below its limit; otherwise it is discarded with a NAK, and its ACK and credit fields are applied. -/
  | flitReceive (link : Nat) (f : Flit)
  /-- NAK_RECEIVE (R38). A received NAK naming n makes the sender resend from n and treat the later flits as never sent. -/
  | nakReceive (link : Nat) (f : Flit)
  /-- NAK_RESEND_TIMEOUT (R37). After 4,096 link cycles without the expected flit, the receiver sends the NAK again. -/
  | nakResendTimeout (link : Nat)
  /-- GO_BACK_TIMEOUT (R38). After 4,096 link cycles without ACK progress, the sender goes back to its oldest unacknowledged flit. -/
  | goBackTimeout (link : Nat)
  /-- NAK_EXHAUSTED (R39). Sixteen go-backs in a row resending the same SEQ declare the link down. -/
  | nakExhausted (link : Nat)
  /-- LOSS_OF_SIGNAL (R39). Loss of lane lock for 1 µs declares the link down. -/
  | lossOfSignal (link : Nat)
  /-- TRAINING_ATTEMPT (R52). Every 100 ms a down link begins a training attempt, and STATE reads TRAINING. -/
  | trainingAttempt (link : Nat)
  /-- TRAINING_END (R52). A training attempt ends in UP, with SEQ 0 and limits of 64, once lanes lock and the partner completes, or in DOWN after 10 ms. -/
  | trainingEnd (link : Nat) (locked : Bool)
  /-- LEND_PERIOD_END (R41). At the end of each 1,024-link-cycle period the receiver recomputes the class limits and queues a LEND flit. -/
  | lendPeriodEnd (link : Nat)
  /-- LEND_RECEIVE (R41). The sender applies the limits of an arriving LEND flit. -/
  | lendReceive (link : Nat) (f : Flit)
  /-- PACKET_FORWARD (R48). A router forwards a transit packet toward its DST by dimension order, keeping path order. -/
  | packetForward (port : Nat)
  /-- RST_PACKET (R139). A destination takes an RST packet in PSEQ order and writes it into its RX window, holds it under a token, or discards it on a gap. -/
  | rstPacket (port : Nat)
  /-- RACC_PACKET (R169). A destination adds an RACC packet's payload into its RX window, word by word, in coherence order. -/
  | raccPacket (port : Nat)
  /-- MSG_PACKET (R81). A strait MSG packet for this chip becomes an arrival for the Ferry. -/
  | msgPacket (port : Nat)
  /-- RED_PACKET (R50). A router takes a RED packet for its own chip, places it in a reduction slot, and sums the block when INMASK is full. -/
  | redPacket (port : Nat)
  /-- ACK_PACKET (R36). An ACK packet acknowledges the path's packets up to PSEQ, or reports a non-OK status for one packet, to its waiting stores and actions. -/
  | ackPacket (port : Nat)
  /-- TKQ_PACKET (R145). A landing chip answers a token query with TKA, or keeps it in its query list. -/
  | tkqPacket (port : Nat)
  /-- TKA_PACKET (R145). A TKA answer updates the token table and releases the held packets whose tokens it satisfies. -/
  | tkaPacket (port : Nat)
  /-- TKQ_RETRY (R145). One µs after an answer from a full query list, the holder asks again. -/
  | tkqRetry (landing origin : Nat)
  /-- TOKEN_EXPIRY (R147). A packet held longer than CTX.TKEXP is discarded with its path's later held packets, ACK SEQ_GAP is returned, and TOKEN_EXPIRED is reported. -/
  | tokenExpiry (port : Nat)
  /-- HOLD_QUEUE_FULL (R148). A harbour queue that has stayed full for 1 ms reports HOLD_QUEUE_FULL. -/
  | holdQueueFull (port : Nat)
  /-- TOKEN_TABLE_FULL (R146). While every token-table entry is referenced, TOKEN_TABLE_FULL is reported once per millisecond. -/
  | tokenTableFull
  /-- SDOWN_PACKET (R115). A member applies a translation update, clearing an entry and invalidating TLBs as the mode requires, and forwards it down the binomial tree. -/
  | sdownPacket (port : Nat)
  /-- SDACK_PACKET (R115). A node merges a child's acknowledgement map and answers its parent once all its children have answered. -/
  | sdackPacket (port : Nat)
  /-- SDOWN_NODE_TIMEOUT (R115). A node sends its SDACK 4 µs × its subtree height after receiving SDOWN, even when children are missing. -/
  | sdownNodeTimeout (id : Nat)
  /-- SHOOTDOWN_ROOT_TIMEOUT (R116). After SDTMO the root sends SDOWN directly to the missing members; after a second SDTMO it reports SHOOTDOWN_TIMEOUT and, in shoot-down mode, fences them. -/
  | shootdownRootTimeout (id : Nat)
  /-- LEASE_WAIT_EXPIRY (R114). In lease mode a member acknowledges an unmap once 940·(LEASE + 1) cycles have passed since its clear. -/
  | leaseWaitExpiry (id : Nat)
  /-- FENCE_PACKET (R53). A router sets the chip's bit in its fence map, drops its traffic, and marks its links FENCED. -/
  | fencePacket (port : Nat)
  /-- FENCE_CLR_PACKET (R53). FENCE_CLR from a context with system privilege clears a chip's fence bit. -/
  | fenceClrPacket (port : Nat)
  /-- PATHRST_PACKET (R46). PATHRST discards the path's held packets, sets the expected PSEQ and LHW, and ends the source's unacknowledged packets with LINK_DOWN. -/
  | pathrstPacket (port : Nat)
  /-- CTS (R164). A CTS notice from the receiver lets the sender write a transfer into the named staging slot. -/
  | ctsNotice (port : Nat)
  /-- ACCEPT (R164). An ACCEPT notice completes a transfer at the sender. -/
  | acceptNotice (port : Nat)
  /-- REPEAT (R177). A REPEAT notice makes the ranks repeat a step at the next epoch. -/
  | repeatNotice (port : Nat)
  /-- STEPOK (R166). STEPOK completes a tree RRS with FW = 0 at a non-root rank. -/
  | stepokNotice (port : Nat)
  /-- ABORT_NOTICE (R178). An ABORT notice reaches the root, which decides abort, or counts it in STALEAB when it has already decided. -/
  | abortNotice (port : Nat)
  /-- DECIDE (R178). DECIDE commit makes a rank publish and signal LOCAL_READY; DECIDE abort makes it discard its shadows. -/
  | decideNotice (port : Nat)
  /-- REPORT_NOTICE (R178). A REPORT notice moves up the tree, and at the root covering all ranks it yields commit or ALLDONE. -/
  | reportNotice (port : Nat)
  /-- ALLDONE (R166). ALLDONE signals ALL_DONE and ends the collective on the rank. -/
  | alldoneNotice (port : Nat)
  /-- MUSTER_NOTICE (R260). A member's notice that step 2 of MUSTER is complete; with all members' notices the chip enters MUSTERED. -/
  | musterNotice (port : Nat)
  /-- TAGGED_SEND_ARRIVAL (R58). An Ultra Ethernet tagged send produces one arrival, or is refused. -/
  | taggedSendArrival (r : UetRequest)
  /-- RMA_WRITE_ARRIVAL (R59). An Ultra Ethernet RMA write is deposited in its RX window and, with header data, produces a write notice. -/
  | rmaWriteArrival (r : UetRequest)
  /-- CONTINUATION_PACKET (R60). A later packet of a multi-packet send is deposited at the target of the first match, and the last byte updates the counter. -/
  | continuationPacket (pdc : Nat) (off : Nat) (data : List Byte)
  /-- DELIVERY_CONTEXT_FAILURE (R60). A delivery context that fails mid-message leaves the deposited bytes in place and updates no counter. -/
  | deliveryContextFailure (pdc : Nat)
  /-- UUD_PACKET (R56). A UUD packet is dropped and counted in FERRY.UET_DROP. -/
  | uudPacket (port : Nat)
  /-- UET_DELIVERY (R61). Completion or failure of an issued Ultra Ethernet send or RMA write reaches its issuing thread. -/
  | uetDelivery (send : Nat) (ok : Bool)
  /-- HOST_APERTURE_WRITE (R65). A host write into a BAR2 aperture is deposited in its RX window, or dropped and counted. -/
  | hostApertureWrite (aperture off : Nat) (data : List Byte)
  /-- DOORBELL (R66). A 16-byte posted write into a doorbell page produces an arrival after every earlier BAR2 write. -/
  | doorbell (page off : Nat) (data : List Byte)
  /-- HOST_UNSUPPORTED_READ (R68). A host read of BAR2 or BAR4 completes with Unsupported Request. -/
  | hostUnsupportedRead (bar : Nat)
  /-- BAR0_ACCESS (R71). A host access to BAR0 reaches a register with system privilege, or completes with Unsupported Request. -/
  | bar0Access (off size : Nat) (write : Option (BitVec 64))
  /-- ARRIVAL_MATCH (R85). The event unit matches an arrival against the match table and deposits it, counts it, or appends it to the unexpected list. -/
  | arrivalMatch
  /-- DEPOSIT_COMPLETION (R86). A deposit's last byte is written, and its entry's counter receives the CMODE update. -/
  | depositCompletion (entry : Nat)
  /-- WINDOW_DELIVERY (R94). The bytes of one delivered packet or write advance the window's delivery counter. -/
  | windowDelivery
  /-- ENGINE_SIGNAL (R77). A copy or collective engine's signal adds to its counter as an event. -/
  | engineSignal
  /-- COUNTER_REGISTER_WRITE (R88). A system write of FERRY.CNTn is a thread-command event, evaluated like CSET. -/
  | counterRegisterWrite (counter : Nat) (value : BitVec 64)
  /-- ACTION_LAUNCH (R96). A LAUNCH action pushes its task into a queue of every tile of its rectangle. -/
  | actionLaunch
  /-- ACTION_COPY (R96). A COPY action submits a copy to its copy engine. -/
  | actionCopy
  /-- ACTION_SEND (R96). A SEND action sends window bytes as a strait MSG or an Ethernet tagged send. -/
  | actionSend
  /-- ACTION_RST (R96). An RST action reflects window bytes through a TX window, keeping or carrying the list token. -/
  | actionRst
  /-- ACTION_INC (R96). An INC action adds to or sets a counter as a new thread-command event. -/
  | actionInc
  /-- ACTION_KICK (R96). A KICK action sets an itinerary's pending-kick bit together with its patch list. -/
  | actionKick
  /-- ACTION_THREAD (R100). A THREAD action wakes a thread of its group, or queues the wake request. -/
  | actionThread
  /-- ACTION_REL (R96). A REL action releases a sync object with the Ferry as the releasing party. -/
  | actionRel
  /-- THREAD_DISPATCH (R100). A queued wake request is dispatched to an idle thread of its group, with the registers set. -/
  | threadDispatch (group : Nat)
  /-- THREAD_WATCHDOG (R101). A Ferry thread run longer than FERRY.TWDOG is stopped with WATCHDOG_HANG. -/
  | threadWatchdog (thread : Nat)
  /-- ACQ_GRANT (R131). A waiting ACQ is granted a LOCK after a release, or an EVENT wait is satisfied by a generation. -/
  | acqGrant (who : Who) (op : Nat)
  /-- ACQ_TIMEOUT (R135). An ACQ or CWAIT waiting longer than CTX.ACQTMO raises ACQ_TIMEOUT. -/
  | acqTimeout (who : Who) (op : Nat)
  /-- FENCE_RF_TIMEOUT (R141). A FENCE.RF not complete within CTX.RFTMO raises FENCE_RF_TIMEOUT. -/
  | fenceRfTimeout (who : Who)
  /-- PUBLISH_EXCHANGE (R150). Once the operations using the old CTAB have retired, PUBLISH exchanges CTAB and STAB, inverts XP, logs the exchange, and releases SOBJ. -/
  | publishExchange (who : Who)
  /-- VARIABLE_RESULT_WRITE (R231). A variable-latency producer's value is written and its destination's full/empty bit is set. -/
  | variableResultWrite (who : Who) (op : Nat)
  /-- REMOTE_FLAG_SIGNAL (R220). A rectangle-scoped flag signal arrives on a receiving tile as one atomic increment. -/
  | remoteFlagSignal (tile n : Nat)
  /-- LOTTERY_DRAW (R190). With its streams free, a tile draws among its eligible queues and starts or resumes the winner's head. -/
  | lotteryDraw (tile : Nat)
  /-- TASK_RETIRE (R184). When a left task's outstanding operations complete, it releases its output objects and held locks and sends its completion notice. -/
  | taskRetire (tile : Nat)
  /-- TASK_REMOVAL (R256). A task with a fatal cause is flushed, its frames are marked fatal, and it is rolled back and sends its notice. -/
  | taskRemoval (tile : Nat)
  /-- RERUN_SLOT_ENTRY (R186). A rerun descriptor waiting in the rerun slot enters its queue in the first cycle with room. -/
  | rerunSlotEntry (tile : Nat)
  /-- COMMAND_QUEUE_TAKE (R216). An idle stream takes its next command-queue entry once its flag wait is met, and fetches the block. -/
  | commandQueueTake (tile stream : Nat)
  /-- BLOCK_COMPLETE (R216). A block whose results have all been written completes and signals its flag. -/
  | blockComplete (tile stream : Nat)
  /-- LOCKSTEP_ENTRY (R226). When every stream of the lockstep set sits at an S header, the counts are compared, and the set either issues together or stops with SYNC_MISMATCH. -/
  | lockstepEntry (tile : Nat)
  /-- MATCH_POINT_HIT (R288). A stream reaching an armed match point is held, then raises MATCHPOINT or runs the handler. -/
  | matchPointHit (tile stream : Nat)
  /-- HANG_TIMEOUT (R252). When no stream of a task has issued for CTX.HANGTMO, the control stream raises WATCHDOG_HANG. -/
  | hangTimeout (tile : Nat)
  /-- WFE_TIMEOUT (R358). A WFE ends after 940 cycles on a tile, or 1,880 Ferry cycles on a thread, without a wake event. -/
  | wfeTimeout (who : Who)
  /-- SCOREBOARD_STALL_EXPIRY (R120). After 2^20 cycles stalled for scoreboard entries, the access stream raises SCOREBOARD_FULL. -/
  | scoreboardStallExpiry (tile : Nat)
  /-- ENERGY_REFILL (R244). In each cycle with CCC mod 1,024 = 0, each budget is refilled up to its ceiling. -/
  | energyRefill
  /-- PREEMPT_STOP (R253). An asked engine reaches its stop point and acknowledges; the last acknowledgement saves the task and returns it to the head of its queue. -/
  | preemptStop (tile engine : Nat)
  /-- PREEMPT_TIMEOUT (R254). A collector that passes CTX.PRETMO raises WATCHDOG_HANG, and the task is removed. -/
  | preemptTimeout (tile : Nat)
  /-- COPY_PIECE (R373). A copy engine reads and writes one 4 KiB piece, with undo records, or parks it on an absent or migrating page. -/
  | copyPiece (engine n : Nat)
  /-- COPY_RESUME (R118). After the pager sets P, or migration clears M, a parked copy resumes at its faulted piece. -/
  | copyResume (engine n : Nat)
  /-- COPY_RETIRE (R373). A copy with all its pieces written, or failed, frees its scoreboard entries and signals its flag. -/
  | copyRetire (engine n : Nat)
  /-- PAGE_IN (R118). The Ferry pager pages a faulted chunk in and sets P, or reports that it has no backing. -/
  | pageIn (engine n : Nat) (frame : Option (BitVec 36))
  /-- PAGE_MIGRATION (R121). The Ferry migrates a page or chunk: it sets M, removes translations, copies the frame, writes FRAME, and clears M. -/
  | pageMigration (m : MigrationStep)
  /-- DRAIN_COMPLETE (R413). A drain or MACCST writes its last line, sets its nst entry, and adds to its flag. -/
  | drainComplete (tile n : Nat)
  /-- COLLECTIVE_START (R449). An engine takes its next accepted descriptor and starts the collective with its first CTS notices. -/
  | collectiveStart (engine : Nat)
  /-- TRANSFER_TAKE (R164). A transfer's trailer delivered with the expected epoch lets the receiver take the data and send ACCEPT. -/
  | transferTake (engine src : Nat)
  /-- COLL_LATE (R177). An inbound transfer or tree result missing for STEPDL is recorded, and the step is repeated at the next epoch, or aborted. -/
  | collLate (engine : Nat)
  /-- KICK_EXPAND (R199). The scheduler expands a pending kick: it applies the patch list, starts the run, and pushes the ready nodes. -/
  | kickExpand
  /-- NOTICE_TAKE (R199). The scheduler takes a completion notice, updates REMREL, REMRET and LEFT, readies successors, and ends runs. -/
  | noticeTake
  /-- SCHEDULER_TAKEOVER (R209). An uncorrectable instruction-memory error with SBV = 1 holds notices, swaps ACORE and SCORE, and replays the journal. -/
  | schedulerTakeover
  /-- SCHEDULER_STOP (R210). An uncorrectable error with SBV = 0 stops the scheduler and reports INTERNAL and ECC_UNCORRECTABLE. -/
  | schedulerStop
  /-- SAVE_AREA_LOST (R259). An uncorrectable error while the save area is written marks the context LOST and removes its tasks. -/
  | saveAreaLost (ctx off : Nat)
  /-- MUSTER_DRAINED (R260). Once every engine has stopped and the stores are acknowledged, the chip completes DRAINING and notifies the members. -/
  | musterDrained (ctx : Nat)
  /-- UNDO_BLOCK_MOVE (R274). A tile moves a 4 KiB block of its undo buffer to the ring in its HBM slots. -/
  | undoBlockMove (tile : Nat)
  /-- REPLAY_INPUT_INJECT (R285). Under PLAY a recorded input enters at its recorded CCC, and at an END entry the signatures are compared. -/
  | replayInputInject (ctx : Nat)
  /-- PRECISE_STOP_REACHED (R285). The target tile reaches work count n, and every tile of the context stops in that cycle. -/
  | preciseStopReached (ctx : Nat)
  /-- SNAPSHOT_LATCH (R290). At trigger CCC + 256, every block latches its snapshot set. -/
  | snapshotLatch
  /-- TRACE_SAMPLE (R291). Every 2^SPER cycles a tracing tile writes a SAMPLE record. -/
  | traceSample (tile : Nat)
  /-- CONTEXT_CREATE (R73). A write of EXISTS := 1 checks the pinned areas and creates the context, or records ERR. -/
  | contextCreate (ctx : Nat)
  /-- CONTEXT_DESTROY (R257). A write of EXISTS := 0 removes the context's tasks, threads, entries and counters, and unpins the save area. -/
  | contextDestroy (ctx : Nat)
  /-- STRAIT_GEOM_WRITE (R30). A write of STRAIT.GEOM takes effect only while every link is DOWN. -/
  | straitGeomWrite (value : BitVec 64)
  /-- WINDOW_ENTRY_WRITE (R105). A TX or RX window-entry write with VALID = 1 over an unpinned page is ignored and sets XLAT.WERR. -/
  | windowEntryWrite (rx : Bool) (n : Nat) (value : BitVec 128)
  /-- TXDST_WRITE (R137). A destination-slot write with a chip outside MEMBERS is ignored and sets XLAT.WERR. -/
  | txdstWrite (n : Nat) (value : BitVec 64)
  /-- XLAT_CTL_WRITE (R113). A write of MODE = 0 is ignored in a domain of more than 64 packages, and SDTMO is clamped. -/
  | xlatCtlWrite (value : BitVec 64)
  /-- TOWN_WRITE (R201). A tile-ownership write is refused while the tile holds work, and a new owner reseeds the lottery X. -/
  | townWrite (tile : Nat) (value : BitVec 64)
  /-- CENG_OWN_WRITE (R458). A collective-engine assignment write is ignored while the engine runs or holds a descriptor. -/
  | cengOwnWrite (engine : Nat) (value : BitVec 64)
  /-- ITIN_WRITE (R195). A directory write with VALID = 1 is checked, and refused with an IERR code when a condition fails. -/
  | itinWrite (n word : Nat) (value : BitVec 64)
  /-- UNDOWIN_OLDEST_WRITE (R276). A write of OLDEST discards older windows and frees their ring space, within its bounds. -/
  | undowinOldestWrite (ctx : Nat) (value : BitVec 32)
  /-- REPLAY_PLAY_CLEAR (R285). A system write of PLAY := 0 on a MUSTERED context ends the replay and applies the held live inputs. -/
  | replayPlayClear (ctx : Nat)
  /-- REGISTER_WRITE (R5). A write to a register with no row of its own sets its RW fields, clears W1C bits and applies any clamping. -/
  | registerWrite (off : Nat) (value : BitVec 64)
  /-- REGISTER_READ_CLEAR (R5). A read of an RC field returns its value and clears it in the same access. -/
  | registerReadClear (off : Nat)
  /-- BLOCK_HEADER (R221). A block header latches its count and runs the body as a hardware loop, after the header checks. -/
  | blockHeader (f : Hdr)
  /-- ADD (R336). d := a + b. -/
  | add (f : Tri)
  /-- SUB (R336). d := a − b. -/
  | sub (f : Tri)
  /-- AND (R336). d := a and b. -/
  | and (f : Tri)
  /-- OR (R336). d := a or b. -/
  | or (f : Tri)
  /-- XOR (R336). d := a xor b. -/
  | xor (f : Tri)
  /-- ANDN (R336). d := a and not b. -/
  | andn (f : Tri)
  /-- SLL (R336). Shifts a left by b[5:0]. -/
  | sll (f : Tri)
  /-- SRL (R336). Shifts a right logically by b[5:0]. -/
  | srl (f : Tri)
  /-- SRA (R336). Shifts a right arithmetically by b[5:0]. -/
  | sra (f : Tri)
  /-- MUL (R336). d := a·b, with latency 3. -/
  | mul (f : Tri)
  /-- MULH (R336). d := the signed high product. -/
  | mulh (f : Tri)
  /-- MULHN (R336). d := the unsigned high product. -/
  | mulhn (f : Tri)
  /-- DIV (R337). Signed division truncating toward zero; DIV_ZERO when b = 0. -/
  | div (f : Tri)
  /-- DIVN (R337). Unsigned division. -/
  | divn (f : Tri)
  /-- REM (R337). Signed remainder, taking the sign of a. -/
  | rem (f : Tri)
  /-- REMN (R337). Unsigned remainder. -/
  | remn (f : Tri)
  /-- MIN (R336). The signed smaller of a and b. -/
  | min (f : Tri)
  /-- MAX (R336). The signed larger of a and b. -/
  | max (f : Tri)
  /-- MINN (R336). The unsigned smaller of a and b. -/
  | minn (f : Tri)
  /-- MAXN (R336). The unsigned larger of a and b. -/
  | maxn (f : Tri)
  /-- SLT (R336). Signed less-than compare. -/
  | slt (f : Tri)
  /-- SLTN (R336). Unsigned less-than compare. -/
  | sltn (f : Tri)
  /-- SEQ (R336). 1 when a = b. -/
  | seq (f : Tri)
  /-- SNE (R336). 1 when a ≠ b. -/
  | sne (f : Tri)
  /-- SEL (R336). d := a when d ≠ 0, else b. -/
  | sel (f : Tri)
  /-- CLZ (R336). Counts the leading zero bits of a. -/
  | clz (f : Tri)
  /-- CTZ (R336). Counts the trailing zero bits of a. -/
  | ctz (f : Tri)
  /-- POPC (R336). Counts the set bits of a. -/
  | popc (f : Tri)
  /-- SEXT (R336). Sign-extends a from bit position p. -/
  | sext (f : Tri)
  /-- ZEXT (R336). Zero-extends a from bit position p. -/
  | zext (f : Tri)
  /-- BSWAP (R336). Reverses the bytes of a. -/
  | bswap (f : Tri)
  /-- ADDI (R338). d := a + sext(imm14). -/
  | addi (f : ImmS)
  /-- ANDI (R338). d := a and zext(imm14). -/
  | andi (f : ImmS)
  /-- ORI (R338). d := a or zext(imm14). -/
  | ori (f : ImmS)
  /-- XORI (R338). d := a xor zext(imm14). -/
  | xori (f : ImmS)
  /-- SLLI (R338). Shifts left by an immediate amount. -/
  | slli (f : ImmS)
  /-- SRLI (R338). Shifts right logically by an immediate amount. -/
  | srli (f : ImmS)
  /-- SRAI (R338). Shifts right arithmetically by an immediate amount. -/
  | srai (f : ImmS)
  /-- SLTI (R338). Signed compare with a sign-extended immediate. -/
  | slti (f : ImmS)
  /-- SLTNI (R338). Unsigned compare with a sign-extended immediate. -/
  | sltni (f : ImmS)
  /-- LI (R338). d := sext(imm20). -/
  | li (f : ImmW)
  /-- LIH (R338). d := d·2^20 + imm20. -/
  | lih (f : ImmW)
  /-- BEQ (R339). Branches when a = b. -/
  | beq (f : BraS)
  /-- BNE (R339). Branches when a ≠ b. -/
  | bne (f : BraS)
  /-- BLT (R339). Branches when a is less than b, signed. -/
  | blt (f : BraS)
  /-- BGE (R339). Branches when a is at least b, signed. -/
  | bge (f : BraS)
  /-- BLTN (R339). Branches when a is less than b, unsigned. -/
  | bltn (f : BraS)
  /-- BGEN (R339). Branches when a is at least b, unsigned. -/
  | bgen (f : BraS)
  /-- BZ (R339). Branches when a = 0. -/
  | bz (f : BraS)
  /-- BNZ (R339). Branches when a ≠ 0. -/
  | bnz (f : BraS)
  /-- BFULL (R339). Branches when a's full/empty bit is full. -/
  | bfull (f : BraS)
  /-- BEMPTY (R339). Branches when a's full/empty bit is empty. -/
  | bempty (f : BraS)
  /-- J (R340). Jumps to PC + 2·off20. -/
  | j (f : BraL)
  /-- JAL (R340). Jumps relative and links PC + 4 into d. -/
  | jal (f : BraL)
  /-- JR (R340). Jumps to the address in a. -/
  | jr (f : Tri)
  /-- JALR (R340). Jumps to the address in a and links into d. -/
  | jalr (f : Tri)
  /-- LDB (R342). Loads a sign-extended byte. -/
  | ldb (f : MemF)
  /-- LDBZ (R342). Loads a zero-extended byte. -/
  | ldbz (f : MemF)
  /-- LDH (R342). Loads a sign-extended halfword. -/
  | ldh (f : MemF)
  /-- LDHZ (R342). Loads a zero-extended halfword. -/
  | ldhz (f : MemF)
  /-- LDW (R342). Loads a sign-extended word. -/
  | ldw (f : MemF)
  /-- LDWZ (R342). Loads a zero-extended word. -/
  | ldwz (f : MemF)
  /-- LDD (R342). Loads 8 bytes. -/
  | ldd (f : MemF)
  /-- FILL (R345). Loads a spill slot. -/
  | fill (f : MemF)
  /-- STB (R343). Stores a byte, logging it and reflecting it when in a TX window. -/
  | stb (f : MemF)
  /-- STH (R343). Stores a halfword. -/
  | sth (f : MemF)
  /-- STW (R343). Stores a word. -/
  | stw (f : MemF)
  /-- STD (R343). Stores 8 bytes. -/
  | std (f : MemF)
  /-- SPILL (R345). Stores to a spill slot. -/
  | spill (f : MemF)
  /-- AMOADD (R346). Atomic 8-byte add. -/
  | amoadd (f : Tri)
  /-- AMOAND (R346). Atomic 8-byte and. -/
  | amoand (f : Tri)
  /-- AMOOR (R346). Atomic 8-byte or. -/
  | amoor (f : Tri)
  /-- AMOXOR (R346). Atomic 8-byte xor. -/
  | amoxor (f : Tri)
  /-- AMOMIN (R346). Atomic 8-byte signed minimum. -/
  | amomin (f : Tri)
  /-- AMOMAX (R346). Atomic 8-byte signed maximum. -/
  | amomax (f : Tri)
  /-- AMOMINN (R346). Atomic 8-byte unsigned minimum. -/
  | amominn (f : Tri)
  /-- AMOMAXN (R346). Atomic 8-byte unsigned maximum. -/
  | amomaxn (f : Tri)
  /-- AMOSWAP (R346). Atomic 8-byte swap. -/
  | amoswap (f : Tri)
  /-- AMOCAS (R346). Atomic 8-byte compare-and-swap against d. -/
  | amocas (f : Tri)
  /-- AMOADD_I32 (R346). Atomic 4-byte add. -/
  | amoaddI32 (f : Tri)
  /-- AMOAND_I32 (R346). Atomic 4-byte and. -/
  | amoandI32 (f : Tri)
  /-- AMOOR_I32 (R346). Atomic 4-byte or. -/
  | amoorI32 (f : Tri)
  /-- AMOXOR_I32 (R346). Atomic 4-byte xor. -/
  | amoxorI32 (f : Tri)
  /-- AMOMIN_I32 (R346). Atomic 4-byte signed minimum. -/
  | amominI32 (f : Tri)
  /-- AMOMAX_I32 (R346). Atomic 4-byte signed maximum. -/
  | amomaxI32 (f : Tri)
  /-- AMOMINN_N32 (R346). Atomic 4-byte unsigned minimum. -/
  | amominnN32 (f : Tri)
  /-- AMOMAXN_N32 (R346). Atomic 4-byte unsigned maximum. -/
  | amomaxnN32 (f : Tri)
  /-- AMOSWAP_I32 (R346). Atomic 4-byte swap. -/
  | amoswapI32 (f : Tri)
  /-- AMOCAS_I32 (R346). Atomic 4-byte compare-and-swap. -/
  | amocasI32 (f : Tri)
  /-- AMOFADD_F32 (R346). Atomic FP32 add in RNE. -/
  | amofaddF32 (f : Tri)
  /-- ACQ (R131). Acquires a LOCK, or waits for an EVENT generation. -/
  | acq (f : Tri)
  /-- ACQT (R131). Tries to acquire without waiting. -/
  | acqt (f : Tri)
  /-- REL (R131). Releases a sync object and advances GEN. -/
  | rel (f : Tri)
  /-- BIND (R129). Binds a region to a sync object and writes back a status. -/
  | bind (f : Tri)
  /-- UNBIND (R129). Removes the context's binding that starts at sa. -/
  | unbind (f : Tri)
  /-- PUBLISH (R150). Begins publishing a tensor's shadow. -/
  | publish (f : Tri)
  /-- FENCE (R136). Waits until the earlier accesses have been performed. -/
  | fence
  /-- FENCE_RF (R141). Waits for the ACKs of the earlier reflected stores. -/
  | fenceRf
  /-- BAR (R213). Barrier over a subgroup. -/
  | bar (f : Tri)
  /-- FLAGW (R352). Waits until fN ≥ a and subtracts a. -/
  | flagw (f : Tri)
  /-- FLAGS (R352). Signals fN on the tiles of a subgroup. -/
  | flags (f : Tri)
  /-- FLAGC (R352). Clears fN. -/
  | flagc (f : Tri)
  /-- DISP (R353). Appends a block entry to a stream's command queue. -/
  | disp (f : CmdE) (q : BitVec 8)
  /-- NOP (R358). No operation. -/
  | nop
  /-- SYSRD (R355). Reads a system register. -/
  | sysrd (f : Tri)
  /-- SYSWR (R355). Writes a system register. -/
  | syswr (f : Tri)
  /-- TRAP (R356). Raises BREAK with n. -/
  | trap (f : Tri)
  /-- RETI (R251). A Ferry thread resumes a trapped stream from its frame. -/
  | reti (f : Tri)
  /-- MPRET (R288). Ends a match-point handler. -/
  | mpret
  /-- WFE (R358). Stalls until an event or a timeout. -/
  | wfe
  /-- HALT (R354). Acts as TDONE on a tile, and ends the run on a Ferry thread. -/
  | halt
  /-- RDCC (R358). Reads the CCC. -/
  | rdcc (f : Tri)
  /-- RDWORK (R358). Reads the work count. -/
  | rdwork (f : Tri)
  /-- ETRIG (R193). Releases the output objects early and sends the KIND 1 notice. -/
  | etrig
  /-- TDONE (R354). Waits for idle streams, then the task leaves. -/
  | tdone
  /-- MARK (R354). Opens an undo-log window with reason 1. -/
  | mark
  /-- NOP_C (R327). Compact NOP in streams 0–2. -/
  | nopC
  /-- ADD_C (R327). Compact ADD x, x, y. -/
  | addC (f : C16)
  /-- SUB_C (R327). Compact SUB x, x, y. -/
  | subC (f : C16)
  /-- AND_C (R327). Compact AND x, x, y. -/
  | andC (f : C16)
  /-- OR_C (R327). Compact OR x, x, y. -/
  | orC (f : C16)
  /-- XOR_C (R327). Compact XOR x, x, y. -/
  | xorC (f : C16)
  /-- ADDI_C (R327). Compact ADDI x, x, #y. -/
  | addiC (f : C16)
  /-- SLLI_C (R327). Compact SLLI x, x, #y. -/
  | slliC (f : C16)
  /-- SRLI_C (R327). Compact SRLI x, x, #y. -/
  | srliC (f : C16)
  /-- SRAI_C (R327). Compact SRAI x, x, #y. -/
  | sraiC (f : C16)
  /-- LI_C (R327). Compact LI x, #y. -/
  | liC (f : C16)
  /-- ADD_S0_C (R327). Compact ADD x, y, s0. -/
  | addS0C (f : C16)
  /-- LDD_C (R327). Compact LDD x, y, #0. -/
  | lddC (f : C16)
  /-- STD_C (R327). Compact STD x, y, #0. -/
  | stdC (f : C16)
  /-- AADD (R363). Address add. -/
  | aadd (f : Tri)
  /-- ASUB (R363). Address subtract. -/
  | asub (f : Tri)
  /-- AMUL (R363). Address multiply, low 64 bits. -/
  | amul (f : Tri)
  /-- ASHL (R363). Address shift left. -/
  | ashl (f : Tri)
  /-- ASHR (R363). Address logical shift right. -/
  | ashr (f : Tri)
  /-- AAND (R363). Address and. -/
  | aand (f : Tri)
  /-- AMOV (R364). Moves an address register, or writes lc0–lc3. -/
  | amov (f : Tri)
  /-- AADDI (R363). Address add immediate. -/
  | aaddi (f : ImmS)
  /-- ALI (R363). Address load immediate. -/
  | ali (f : ImmW)
  /-- AADD_C (R327). Compact AADD x, x, y. -/
  | aaddC (f : C16)
  /-- AADDI_C (R327). Compact AADDI x, x, #y. -/
  | aaddiC (f : C16)
  /-- AMOV_C (R327). Compact AMOV x, y. -/
  | amovC (f : C16)
  /-- LQ (R366). Loads 256 bytes into an operand queue. -/
  | lq (f : MemF)
  /-- LQB (R366). Loads 64 bytes broadcast four times into an operand queue. -/
  | lqb (f : MemF)
  /-- SQ (R366). Stores a popped 256-byte queue entry. -/
  | sq (f : MemF)
  /-- SQS (R366). Stores the first 64 bytes of a popped entry. -/
  | sqs (f : MemF)
  /-- LQG (R367). Gathers 64 lanes by popped indices into an operand queue. -/
  | lqg (f : Tri)
  /-- LQT (R368). Loads tensor elements or scales into an operand queue. -/
  | lqt (f : CmdE)
  /-- SQT (R368). Stores a popped entry's elements into a tensor. -/
  | sqt (f : CmdE)
  /-- TCOPY (R372). Starts a tensor copy on a copy engine. -/
  | tcopy (f : CmdE)
  /-- TGATHER (R372). Starts an indexed gather copy. -/
  | tgather (f : CmdE)
  /-- TSCATTER (R372). Starts an indexed scatter copy. -/
  | tscatter (f : CmdE)
  /-- TFILL (R372). Starts a pattern fill copy. -/
  | tfill (f : CmdE)
  /-- RST (R377). A reflected store of len bytes into a TX window, optionally carrying a token. -/
  | rst (f : CmdE)
  /-- RST_TK (R377). A reflected store that also returns a causal token. -/
  | rstTk (f : CmdE)
  /-- RACC (R378). Sends remote-accumulate packets into a peer's RX window. -/
  | racc (f : CmdE)
  /-- XWAIT (R375). Waits on a copy's flag, or raises a recorded copy failure. -/
  | xwait (f : Tri)
  /-- SBQ (R375). Reads a scoreboard entry. -/
  | sbq (f : Tri)
  /-- QFLUSH (R375). Discards an operand queue's entries and its reserved loads. -/
  | qflush (f : Tri)
  /-- QMARK (R375). Reads an operand queue's counts. -/
  | qmark (f : Tri)
  /-- VADD (R384). Floating-point vector add. -/
  | vadd (f : VForm)
  /-- VSUB (R384). Floating-point vector subtract. -/
  | vsub (f : VForm)
  /-- VMUL (R384). Floating-point vector multiply. -/
  | vmul (f : VForm)
  /-- VFMA (R384). Fused a·b + c. -/
  | vfma (f : VForm)
  /-- VFMS (R384). Fused a·b − c. -/
  | vfms (f : VForm)
  /-- VFNMA (R384). Fused c − a·b. -/
  | vfnma (f : VForm)
  /-- VMAX (R384). Floating-point maximum. -/
  | vmax (f : VForm)
  /-- VMIN (R384). Floating-point minimum. -/
  | vmin (f : VForm)
  /-- VABS (R384). Absolute value. -/
  | vabs (f : VForm)
  /-- VNEG (R384). Negation. -/
  | vneg (f : VForm)
  /-- VRCP (R384). Reciprocal. -/
  | vrcp (f : VForm)
  /-- VRSQRT (R384). Reciprocal square root. -/
  | vrsqrt (f : VForm)
  /-- VSQRT (R384). Square root. -/
  | vsqrt (f : VForm)
  /-- VEXP2 (R384). Power of two. -/
  | vexp2 (f : VForm)
  /-- VLOG2 (R384). Logarithm base two. -/
  | vlog2 (f : VForm)
  /-- VDIV (R384). Division. -/
  | vdiv (f : VForm)
  /-- VADDI (R385). Integer add, wrapping or saturating. -/
  | vaddi (f : VForm)
  /-- VSUBI (R385). Integer subtract. -/
  | vsubi (f : VForm)
  /-- VMULI (R385). Integer multiply. -/
  | vmuli (f : VForm)
  /-- VAND (R385). Bitwise and. -/
  | vand (f : VForm)
  /-- VOR (R385). Bitwise or. -/
  | vor (f : VForm)
  /-- VXOR (R385). Bitwise xor. -/
  | vxor (f : VForm)
  /-- VNOT (R385). Bitwise complement. -/
  | vnot (f : VForm)
  /-- VSHL (R385). Shift left. -/
  | vshl (f : VForm)
  /-- VSHR (R385). Logical shift right. -/
  | vshr (f : VForm)
  /-- VSRA (R385). Arithmetic shift right. -/
  | vsra (f : VForm)
  /-- VMAXI (R385). Integer maximum. -/
  | vmaxi (f : VForm)
  /-- VMINI (R385). Integer minimum. -/
  | vmini (f : VForm)
  /-- VCMP (R386). Compares elements and writes element and lane masks. -/
  | vcmp (f : VForm)
  /-- VSEL (R387). Selects elements by the predicate. -/
  | vsel (f : VForm)
  /-- VMOV (R387). Moves a register, or writes the element index. -/
  | vmov (f : VForm)
  /-- VMOV_C (R327). Compact VMOV x, y. -/
  | vmovC (f : C16)
  /-- VBCAST (R388). Broadcasts one element. -/
  | vbcast (f : VForm)
  /-- VINS (R388). Inserts a[0] at element e. -/
  | vins (f : VForm)
  /-- VEXT (R388). Extracts element e into d[0]. -/
  | vext (f : VForm)
  /-- VPERM (R388). Permutes elements by index. -/
  | vperm (f : VForm)
  /-- VSHUF (R388). Interleaves or de-interleaves elements. -/
  | vshuf (f : VForm)
  /-- VROT (R388). Rotates elements. -/
  | vrot (f : VForm)
  /-- VRED (R389). Reduces the active elements by a fixed tree. -/
  | vred (f : VForm)
  /-- VSCAN (R389). Prefix-scans the elements. -/
  | vscan (f : VForm)
  /-- VCVT (R391). Converts elements between types. -/
  | vcvt (f : VForm)
  /-- VQUANT (R393). Quantises elements with block scales. -/
  | vquant (f : VForm)
  /-- VDEQUANT (R394). Dequantises elements with block scales. -/
  | vdequant (f : VForm)
  /-- VSCALE (R392). Computes block scales. -/
  | vscale (f : VForm)
  /-- CPUSH (R395). Appends the active lanes to a conditional buffer. -/
  | cpush (f : VForm)
  /-- CPOP (R240). Pops a vector from a conditional buffer. -/
  | cpop (f : VForm)
  /-- CBAL (R240). Closes a conditional buffer. -/
  | cbal (f : VForm)
  /-- KAND (R396). Mask and. -/
  | kand (f : VForm)
  /-- KOR (R396). Mask or. -/
  | kor (f : VForm)
  /-- KXOR (R396). Mask xor. -/
  | kxor (f : VForm)
  /-- KNOT (R396). Mask complement. -/
  | knot (f : VForm)
  /-- KPOP (R396). Mask of the low p lanes. -/
  | kpop (f : VForm)
  /-- KMOV (R396). Mask move. -/
  | kmov (f : VForm)
  /-- VPOP (R397). Pops an operand-queue entry into a vector register. -/
  | vpop (f : VForm)
  /-- VPUSH (R397). Pushes a vector register into oq6 or oq7. -/
  | vpush (f : VForm)
  /-- MNOP (R402). Matrix no-op with its stamp and debit. -/
  | mnop (f : MForm)
  /-- MNOP_C (R327). Compact MNOP with dt. -/
  | mnopC (f : MnopC)
  /-- MSTAMP (R402). Sets P from the issue cycle and opens a stamp run. -/
  | mstamp (f : MForm)
  /-- MSTAMP_AL (R402). Sets an aligned P and opens a stamp run. -/
  | mstampAl (f : MForm)
  /-- MMODE (R402). Sets strict or elastic mode. -/
  | mmode (f : MForm)
  /-- MWAIT (R402). Waits on a flag, or for the earlier drains. -/
  | mwait (f : MForm)
  /-- MTSCALE (R403). Sets ta or tb from an immediate. -/
  | mtscale (f : MForm)
  /-- MTSCALE_Q (R403). Sets ta or tb from a popped entry. -/
  | mtscaleQ (f : MForm)
  /-- MNSTAT (R404). Clears NaN status entries. -/
  | mnstat (f : MForm)
  /-- MROUTE (R405). Writes sys.MXRT from a popped entry. -/
  | mroute (f : MForm)
  /-- MWLD (R407). Loads entries into weight-buffer slots. -/
  | mwld (f : MForm)
  /-- MWSEL (R408). Checks an image and loads it into a plane. -/
  | mwsel (f : MForm)
  /-- MMA (R410). Multiplies A rows by the plane into accumulator rows. -/
  | mma (f : MForm)
  /-- MMAZ (R410). As MMA, zeroing the rows first. -/
  | mmaz (f : MForm)
  /-- MHAD (R411). Applies the block Hadamard transform to rows or a plane. -/
  | mhad (f : MForm)
  /-- MQUANT (R412). Quantises rows into a weight image. -/
  | mquant (f : MForm)
  /-- MDRAIN (R413). Drains rows to the scratchpad, a tensor, a shadow or a peer. -/
  | mdrain (f : MForm)
  /-- MACCLD (R414). Loads raw accumulator rows from a queue. -/
  | maccld (f : MForm)
  /-- MACCST (R414). Stores raw accumulator rows to the scratchpad. -/
  | maccst (f : MForm)
  /-- MZERO (R414). Zeroes accumulator rows. -/
  | mzero (f : MForm)
  /-- CINC (R421). Increments a counter. -/
  | cinc (f : CmdE)
  /-- CSET (R421). Sets a counter. -/
  | cset (f : CmdE)
  /-- CADD (R421). Adds to a counter. -/
  | cadd (f : CmdE)
  /-- CREAD (R421). Reads a counter. -/
  | cread (f : CmdE)
  /-- CWAIT (R421). Waits until a counter passes a threshold. -/
  | cwait (f : CmdE)
  /-- ARM (R423). Arms a match-table entry, scanning the unexpected list and evaluating its trigger. -/
  | arm (f : CmdE)
  /-- DISARM (R84). Disarms an entry, freeing it once OUTST is zero. -/
  | disarm (f : CmdE)
  /-- ARMQ (R424). Copies an entry's 64 bytes to memory. -/
  | armq (f : CmdE)
  /-- TRIG (R84). Fires an entry's list once. -/
  | trig (f : CmdE)
  /-- KICK (R430). Sets an itinerary's pending kick with a patch list. -/
  | kick (f : CmdE)
  /-- LAUNCH (R431). Pushes a task descriptor into a rectangle's queues. -/
  | launch (f : CmdE)
  /-- PATCH (R432). Checks and applies a patch list without a kick. -/
  | patch (f : CmdE)
  /-- PATCH_M (R432). Copies bytes from context memory into Ferry SRAM. -/
  | patchM (f : CmdE)
  /-- QCTL_TICKETS (R433). Sets a queue's tickets. -/
  | qctlTickets (f : CmdE)
  /-- QCTL_FLUSH (R433). Discards a queue's unstarted descriptors. -/
  | qctlFlush (f : CmdE)
  /-- QCTL_PREEMPT (R253). Pre-empts the task holding a tile's streams. -/
  | qctlPreempt (f : CmdE)
  /-- QCTL_READ (R433). Reads sys.TQn. -/
  | qctlRead (f : CmdE)
  /-- COLL (R434). Submits a collective descriptor to an engine. -/
  | coll (f : CmdE)
  /-- COLLABORT (R434). Aborts an engine's collective and its queued descriptors. -/
  | collabort (f : CmdE)
  /-- USEND (R425). Sends a strait MSG or Ethernet tagged send. -/
  | usend (f : CmdE)
  /-- UPUT_RMA (R426). Issues an Ethernet RMA write. -/
  | uputRma (f : CmdE)
  /-- UPUT_HOST (R426). Issues a host write through HOSTMAP. -/
  | uputHost (f : CmdE)
  /-- MRECV (R427). Takes an unexpected record, waiting for one. -/
  | mrecv (f : CmdE)
  /-- MPOLL (R427). Takes an unexpected record without waiting. -/
  | mpoll (f : CmdE)
  /-- MREPLY (R428). Replies to the source of the dispatching arrival. -/
  | mreply (f : CmdE)
  /-- MDONE (R429). Ends a Ferry thread's run. -/
  | mdone (f : CmdE)
  /-- MAP_VA (R437). Installs a page-table entry on every member. -/
  | mapVa (f : CmdE)
  /-- MAP_TENSOR (R437). Installs a tensor descriptor. -/
  | mapTensor (f : CmdE)
  /-- MAP_CHUNK (R437). Writes a chunk-table entry. -/
  | mapChunk (f : CmdE)
  /-- UNMAP_VA (R438). Clears a leaf entry under lease or shoot-down. -/
  | unmapVa (f : CmdE)
  /-- UNMAP_TENSOR (R438). Clears a tensor descriptor's VALID. -/
  | unmapTensor (f : CmdE)
  /-- UNMAP_CHUNK (R438). Clears P of a chunk entry. -/
  | unmapChunk (f : CmdE)
  /-- LEASE (R439). Renews the trace unit's lease. -/
  | lease (f : CmdE)
  /-- SDOWN (R439). Invalidates a page's TLB entries on every member. -/
  | sdown (f : CmdE)
  /-- SNAP (R440). Raises the common trigger. -/
  | snap (f : CmdE)
  /-- MUSTER (R260). Begins mustering a context to a consistent cut. -/
  | muster (f : CmdE)
  /-- MUSTER_RELEASE (R264). Returns a MUSTERED context to RUN, issuing held firings. -/
  | musterRelease (f : CmdE)
  /-- MUSTER_HAMPER (R265). Writes the hamper of a mustered or lost context. -/
  | musterHamper (f : CmdE)
  /-- MUSTER_RESTORE (R268). Restores a context from a hamper. -/
  | musterRestore (f : CmdE)
  /-- ROLLCALL (R269). Writes the package summary. -/
  | rollcall (f : CmdE)
  /-- RSTEP_WINDOW (R280). Undoes a tile's records back to a window. -/
  | rstepWindow (f : CmdE)
  /-- RSTEP_COUNT (R285). Begins a precise stop at an interval and work count. -/
  | rstepCount (f : CmdE)
  /-- RSTEP_OPEN (R280). Opens a window with reason 3. -/
  | rstepOpen (f : CmdE)
  /-- MPSET_POINT (R444). Writes a match point. -/
  | mpsetPoint (f : CmdE)
  /-- MPSET_VEC (R444). Writes sys.MPVEC. -/
  | mpsetVec (f : CmdE)
  /-- STEP_SEND (R163). Sends a chunk to the peer. -/
  | stepSend (f : StepDataF)
  /-- STEP_RECV (R163). Receives a chunk, forwarding or broadcasting it down the tree. -/
  | stepRecv (f : StepDataF)
  /-- STEP_RRS (R163). Reduces a received partial, in a peer or a tree step. -/
  | stepRrs (f : StepDataF)
  /-- STEP_COPY (R163). Copies a chunk locally. -/
  | stepCopy (f : StepDataF)
  /-- STEP_WAIT (R161). Waits until a counter passes a threshold. -/
  | stepWait (f : StepWaitF)
  /-- STEP_LOOP (R161). Repeats the following words count times. -/
  | stepLoop (f : StepLoopF)
  /-- STEP_END (R178). Ends the program and starts the reports toward the decision. -/
  | stepEnd
  /-- UNALLOCATED_ENCODING (R321). A fetched encoding that is no valid instruction for its stream raises ILL_OP, STREAM_CLASS or RSV_FIELD by the order of R321. -/
  | unallocatedEncoding (cause : Cause)
  /-- UNCORRECTABLE_ERROR (R246). An uncorrectable memory error met by a stream, thread or engine raises ECC_UNCORRECTABLE, fatal and reported, and counts in the lifetime counters. -/
  | uncorrectableError (unit : ErrorUnit)
  /-- CORRECTABLE_ERROR (R283). A correctable error is retried after a delay, recorded as a DELAY replay entry, and counted in the lifetime counters. -/
  | correctableError (unit : ErrorUnit) (delay : Nat)
  /-- STORE_PERFORMED (R136). A store or atomic reaches its place in coherence order or its port grant, which frees an outstanding HBM write and lets FENCE complete. -/
  | storePerformed (n : Nat)
  /-- OPERAND_QUEUE_FILL (R365). A queue load's value arrives and its entry enters the operand queue in load order. -/
  | operandQueueFill (tile queue : Nat)
  /-- HOST_WRITE_ACCEPTED (R70). The PCIe transmit layer accepts a host-write TLP, which counts the write as delivered for FENCE.RF and completion events. -/
  | hostWriteAccepted
  /-- SLOT_TABLE_UPDATE (R202). A slot-table write takes effect at the next cycle with CCC mod 256 = 0. -/
  | slotTableUpdate (die : Nat)
  /-- MISSED_HEARTBEATS (R271). After five missed 10 ms firmware heartbeats, a package is detected as failed and recovery begins. -/
  | missedHeartbeats (chip : Nat)
  deriving DecidableEq, Repr

end Sys2Proof
end

