-- ==== Sys2Proof/Machine/State.lean ====
section
/-! DEFINITION. The state of one Urnak J1 package: plain data, holding every piece of state the spec gives it.
Tables are sparse: a key that is not listed holds the table's default, so equal states are equal data. -/
namespace Sys2Proof.Machine
open Sys2Proof

/-- A sparse table: rising keys, none holding the default. -/
abbrev Tab (α : Type) := List (Nat × α)

/-- Bytes by address (Host.Cell), rising, none zero: what is not listed reads zero (log entry 2). -/
abbrev Mem := List Host.Cell

/-- Why a step stops for good: the machine has no next state. -/
inductive Fault where
  /-- Raised by the physical memory operations: a frame outside HBM (R108, physical address 0x80_0000_0000 or
  above) was reached through a page table that system software wrote directly. Safe: nothing runs on. -/
  | hbmHole
  deriving DecidableEq, Repr

/-- Why the model gives a step no meaning. -/
inductive Refusal where
  /-- Raised by exec's arms of instructions that have no meaning yet. Safe: nothing runs on. -/
  | notModelled (mnemonic : String)
  deriving DecidableEq, Repr

/-! ## Streams, results in flight, blocks -/

/-- A fixed-latency result in flight in the control pipeline (R228), with what a replay entry captures (R250, R459). -/
structure Pend where
  id : Nat                 -- place in issue order among the operations in flight
  reg : BitVec 6
  val : Word
  rem : Nat
  insn : BitVec 32
  pc : Word
  opa : Word
  opb : Word
  reread : Bool      -- a load: memory is read again at opa (R459)
  deriving DecidableEq, Repr

/-- What a variable-latency instruction is still waiting for (R231). -/
inductive VarKind where
  | value (v : Word)
  | load (ctx : Nat) (pa : Nat) (size : Nat) (sext : Bool)
  | again (ea : Word) (size : Nat) (sext : Bool)  -- a replayed load whose page is migrating: it translates again (R121, R459)
  | reg (off : Nat)
  | atomic (va : Word) (func : BitVec 6) (operand expected : Word)
  | token
  | acq (obj : Word) (gen : BitVec 32)
  | rel (obj : Word)
  | cwait (counter : Nat) (thr : Word)
  | mrecv (mb ign va : Word) (limit : Nat)
  | send (id : Nat)
  | update (id : Nat)
  | preemption (tile : Nat)
  | mustering (ctx : Nat)
  | preciseStop (ctx : Nat)
  deriving DecidableEq, Repr

/-- A variable-latency operation in flight: its destination is empty until its value is written (R231). -/
structure VarOp where
  id : Nat
  reg : BitVec 6
  insn : BitVec 32
  stream : Nat             -- the stream that issued it
  pc : Word
  notBefore : Word   -- CCC before which the value is not written (R347)
  since : Word       -- CCC of issue, for the limits of R135 and R421
  what : VarKind
  command : Bool     -- a command of majors 0x3A-0x3C: completes in issue order (R417)
  opa : Word         -- first and second source value, for its replay entry (R459)
  opb : Word
  deriving DecidableEq, Repr

/-- The scalar registers of a control stream or a Ferry thread (R231, R335). -/
structure Scalars where
  regs : Tab Word          -- s1-s63; s0 reads zero
  empty : List Nat         -- registers whose full/empty bit is empty
  pend : List Pend         -- fixed-latency results, in issue order
  ops : List VarOp         -- variable-latency operations, in issue order
  deriving DecidableEq, Repr

/-- Why a stream did not issue at its last opportunity (R235, R252, R358). -/
inductive Stall where
  | none | emptyReg | queueEmpty (q : Nat) | queueFull (q : Nat) | flag (f : Nat) | xwait (f : Nat)
  | commandQueue | tdone | barrier | fence | fenceRf | publish | acqHold | scoreboard | migrating | undoLog
  | lockstep | notReady | interlock | engineFull | commandOrder | wfe | writes | port | mdone | matchPoint | condBuffer
  deriving DecidableEq, Repr

/-- A block in a stream's loop buffer (R216, R221-R223, R225). -/
structure Blk where
  hdr : Word               -- address of the header
  body : List (BitVec 16)  -- the halfwords it was loaded with (R218)
  off : Nat                -- halfword offset of the next instruction
  iter : Nat               -- executions not yet begun
  count : Nat              -- latched count n
  lock : Bool              -- S of the header
  sfl : Option Nat         -- flag signalled at completion (SV, SFL of R216)
  issued : Bool            -- every instruction of every repetition has issued
  entered : Bool           -- false while it waits at its header for the lockstep set (R226)
  set : BitVec 4           -- the lockstep set it entered with; zero for an ordinary block
  deriving DecidableEq, Repr

/-- An entry of a command queue (R216). -/
structure Disp where
  baddr : BitVec 57
  wv : Bool
  wf : BitVec 6
  wcnt : BitVec 16
  sv : Bool
  sfl : BitVec 6
  deriving DecidableEq, Repr

/-- How a stream or thread stopped (R246, R247, R253). -/
structure Stopped where
  cause : Cause
  info : Word
  insn : BitVec 32         -- the instruction it stopped at
  ccc : Word
  framed : Bool            -- its frame has been written
  deriving DecidableEq, Repr

/-- One instruction stream (R215) or the issue side of a Ferry thread. -/
structure Stream where
  pc : Word
  blk : Option Blk
  stop : Option Stopped
  stall : Stall
  work : Nat               -- retired work count (R282)
  sig : Word               -- signature S (R286)
  bubbles : Nat            -- issue steps that issue nothing (R228)
  wfe : Option Word        -- CCC at which a WFE issued (R358)
  woken : Bool             -- an event of R358 occurred since
  pass : Bool              -- the held instruction issues without matching again (R288)
  free : Bool              -- the next matrix instruction issues with no stamp check (R242)
  counted : Bool           -- a BAR or PUBLISH under way has been counted at issue (R350)
  fenceSince : Option Word -- CCC at which a FENCE.RF began to wait (R141)
  reached : Option Word    -- CCC at which the stream reached a matrix instruction that waits (R402)
  deriving DecidableEq, Repr

/-! ## The tile -/

/-- Where bits of a queue load or of a reflected store come from (R366-R368, R377, R378): bytes already read, scratchpad bytes of one line
that no port has granted yet, HBM bytes, a tensor element, a gather's lane whose line is not granted, and zero bits. -/
inductive QSrc where
  | data (bs : List Byte)
  | spad (tile off n : Nat)
  | mem (pa : Nat) (n : Nat)
  | elem (pa : Nat) (high : Bool) (w : Nat)
  | lane (tile off : Nat)
  | zeros (w : Nat)
  deriving DecidableEq, Repr

/-- A load that has reserved its place in an operand queue (R365). -/
structure QLoad where
  src : List QSrc
  copies : Nat                     -- LQB enters its bytes four times
  tensor : Option Nat              -- tensor whose CTAB it fixed (R150)
  order : Nat
  port0 : List (Nat × Nat)         -- lines a gather still reads through each load port: tile, line (R367)
  port1 : List (Nat × Nat)
  deriving DecidableEq, Repr

/-- An operand queue (R234, R365, R375). -/
structure OpQueue where
  ents : List (BitVec 2048)
  loads : List QLoad
  entered : BitVec 32
  deriving DecidableEq, Repr

/-- A conditional buffer (R240). -/
structure CondBuf where
  recs : List (BitVec 32)
  closed : Bool
  deriving DecidableEq, Repr

/-- A weight plane (R408): the slot of the image it was loaded from, whether it holds one, and that image's bytes. -/
structure Plane where
  slot : Nat
  valid : Bool
  img : Mem
  deriving DecidableEq, Repr

/-- Queue work a matrix instruction goes on with after issue (R407, R410, R414). -/
inductive MatJob where
  | mwld (queue addr slot slots : Nat)
  | mma (queue : Nat) (scaled : Bool) (row ku plane ty blk sfmt : Nat) (zero : Bool)
  | maccld (queue row half : Nat)
  deriving DecidableEq, Repr

/-- One entry or row a cycle: how many are left, whether it is suppressed, and the cycle of its issue. -/
structure MatRun where
  job : MatJob
  left : Nat
  act : Bool
  born : Nat
  deriving DecidableEq, Repr

/-- A contiguous range that a store writes (R273): its record's AKIND and ADDR, its place, and the bytes; a first low or last
high nibble that is kept; and, for an RST line, where its bytes come from. -/
structure Seg where
  akind : Nat
  addr : Word
  pa : Nat
  len : Nat
  data : List Byte
  keepLow : Bool
  keepHigh : Bool
  src : List QSrc
  deriving DecidableEq, Repr

/-- A drain or MACCST under way (R400, R413, R414): its rows are held, so what it will write is known at issue, as 64-byte lines in row order;
the first of those that are left is written no earlier than a cycle. -/
structure Drain where
  r0 : Nat
  rows : Nat
  lines : List (List Seg)
  shadow : Bool
  tensor : Option Nat            -- tensor whose CTAB it fixed (R150)
  tag : Option Nat               -- none: MACCST
  status : BitVec 2              -- some value is NaN, some value is infinite (R311)
  flag : Nat
  route : Option (Nat × Nat × Nat) -- chip, RX window, OFF (R167)
  data : List Byte               -- what a routed drain sends
  due : Nat                      -- first cycle in which its next line can be written
  act : Bool                     -- not suppressed
  win : BitVec 32                -- undo window at issue (R456)
  deriving DecidableEq, Repr

/-- The matrix unit (R241, R400, R403, R405, R408). -/
structure Matrix where
  strict : Bool
  run : Bool
  smiss : BitVec 32
  p : Word
  ta : BitVec 16
  tb : BitVec 16
  mxrt : BitVec 128
  planes : Tab Plane
  acc : Tab (BitVec 32)          -- acc[i, j] at 128 i + j
  wb : Mem                       -- weight buffer
  arrayFree : Nat                -- first cycle in which the unit is free
  loadFree : Nat
  epiFree : Nat
  rowFree : Tab Nat
  rowMma : List Nat              -- rows whose last writer is an MMA or MMAZ
  slotFree : Tab Nat
  planeFree : Tab Nat
  runs : List MatRun
  drains : List Drain
  deriving DecidableEq, Repr

/-- A copy held by a copy engine (R370-R374). -/
structure Copy where
  desc : BitVec 1024
  tile : Option Nat
  ctx : Nat
  serial : BitVec 16             -- serial of the issuing task
  sgf : Option Nat               -- signal flag
  dcv : Option Nat
  entry : Nat
  act : Nat
  idx : List Nat                 -- the index list, once read
  piece : Nat
  parked : Option (Bool × Word)  -- true: awaiting the pager; false: migrating; and the address of the entry met
  fault : Word                   -- VA or tensor place of the parked piece
  failed : Option Cause
  board : List (Nat × Nat)       -- scoreboard entries (tile, index)
  lifted : List (Nat × BitVec 64) -- the entries' values while its task is pre-empted, by tile (R255)
  srcT : Option (BitVec 512)     -- the tensor descriptors as they were at issue (R150)
  dstT : Option (BitVec 512)
  beats : Option (List (List (Nat × Nat × Bool))) -- beats of the next piece still to come, each with the scratchpad lines that no port has
                                 -- granted it: tile, line, write (R151, R202); none: the piece has not begun
  full : Bool                    -- its last write found the undo log full under policy 2 (R276)
  win : BitVec 32
  stopping : Bool
  after : Nat                    -- store order number before which its first piece waits (R373)
  deriving DecidableEq, Repr

/-- What a pre-empted task keeps beside its slot's bytes: its serial, the locks it holds (R131), the counts of its barriers (R350), the causes of
its failed copies (R374), and its parked copies with their engines (R255). -/
structure Parked where
  serial : BitVec 16 := 0
  locks : List Word := []
  bars : Tab Nat := []
  copyFail : Tab Cause := []
  copies : List (Nat × Copy) := []
  deriving DecidableEq, Repr

/-- A task descriptor in a queue (R182), with the context and rectangle it was pushed with; a pre-empted task is marked. -/
structure QTask where
  desc : BitVec 1024
  ctx : Nat
  rect : BitVec 14
  saved : Bool
  parked : Parked := {}
  deriving DecidableEq, Repr

/-- A task queue (R188). -/
structure TaskQueue where
  tickets : BitVec 8
  starve : Nat
  tasks : List QTask
  deriving DecidableEq, Repr

/-- The task that holds the streams, or has left them (R181, R183). -/
structure Task where
  t : QTask
  q : Nat
  serial : BitVec 16
  firstWin : BitVec 32
  etrig : Bool
  locks : List Word
  fatal : Option Cause
  deriving DecidableEq, Repr

/-- A pre-emption under way: engines acknowledged so far in the order matrix, vector, access, control, copies (R253). -/
structure Collect where
  stage : Nat
  since : Word
  deriving DecidableEq, Repr

/-- A match-point handler under way (R288). -/
structure Handler where
  point : Nat
  stream : Nat
  retPc : Word
  retBlk : Option Blk
  saved : Scalars
  deriving DecidableEq, Repr

/-- A TLB entry (R111). -/
structure TlbEntry where
  ctx : Nat
  vpn : Nat
  frame : Nat
  w : Bool
  lm : Bool
  exp : Word
  deriving DecidableEq, Repr

/-- The trace unit of a tile (R123, R291, R292). -/
structure Trace where
  ctl : BitVec 10
  base : BitVec 57
  size : BitVec 17
  head : BitVec 32
  pos : Nat                      -- bytes written in the current chunk
  lease : Word
  dropped : BitVec 32
  skipped : BitVec 32
  lossPrev : Tab (BitVec 32)
  deriving DecidableEq, Repr

/-- An access of an issuing stream that waits for its banks (R237): who asks, as which requester, for which bytes; the banks that have not
granted it, and the CCC in which it was asked for last. -/
structure PortAsk where
  who : Who
  req : Nat
  off : Nat
  len : Nat
  left : List Nat
  at' : Nat
  deriving DecidableEq, Repr

/-- A logical tile (R215-R245). -/
structure Tile where
  sc : Scalars
  streams : Tab Stream
  cq : Tab (List Disp)
  areg : Tab Word
  abusy : Tab Nat
  vreg : Tab (BitVec 2048)
  vbusy : Tab Nat
  kreg : Tab Word
  kbusy : Tab Nat
  lc : Tab (BitVec 32)
  lcPrev : Tab (BitVec 32)       -- lc as the cycle began: what a block entry latches (R224)
  workPrev : Nat                 -- the tile's work count as the cycle began (R282, R358)
  flags : Tab (BitVec 16)
  flagsat : Word
  oq : Tab OpQueue
  cb : Tab CondBuf
  nst : Tab (BitVec 3)
  ovfptr : BitVec 57
  ovflim : BitVec 40
  lockset : BitVec 4
  bars : Tab Nat
  mx : Matrix
  spad : Mem
  portLast : Tab Nat             -- per bank, one more than the requester last granted (R237)
  asks : List PortAsk            -- accesses of issuing streams that the port has not made (R237)
  captures : List Nat            -- banks that undo capture still has to read (R274)
  loss : Tab (BitVec 32)
  board : Tab (BitVec 64)        -- range scoreboard (R119)
  boardSince : Option Word       -- CCC at which the access stream began to wait for entries (R120)
  copyFail : Tab Cause
  tq : Tab TaskQueue
  lotx : BitVec 32
  task : Option Task
  left : List Task
  rerun : Option (Nat × QTask × BitVec 128)
  late : List (BitVec 128)       -- notices of the tile that found the completion FIFO full: of reruns that have entered their queues (R186), of ETRIGs (R354)
  serial : BitVec 16
  held : Bool                    -- trap-held (R247)
  collect : Option Collect
  lastIssue : Word
  win : BitVec 32                -- window open on the tile (R275)
  undoBuf : Nat                  -- bytes in the on-die undo buffer
  mp : Tab (BitVec 128)
  mpvec : BitVec 57
  handler : Option Handler
  shadow : Tab Word
  trace : Trace
  snap : Tab Word
  image : Mem                    -- the register image as it was written last beside a frame (R251)
  allow : Option (List Nat)      -- at the cycle of a precise stop, the streams that issue in it (R285)
  tlb : List TlbEntry
  deriving DecidableEq, Repr

/-! ## The Ferry -/

/-- An arrival (R54). -/
structure Arrival where
  mb : Word
  skind : Nat
  aop : Bool
  src : Nat
  hdata : Word
  len : Nat
  data : List Byte
  ctx : Nat
  pdc : Option Nat               -- delivery context of a multi-packet send, 4,096 for each port (R60)
  left : Nat                     -- payload bytes still to come (R60)
  more : List (Nat × List Byte)  -- later packets that came before the match, with their offsets (R60)
  recAt : Option Nat             -- replay-ring place of its data while packets are still to come (R283)
  born : Nat                     -- Ferry cycle in which it joined the arrival sequence (R55, R78)
  deriving DecidableEq, Repr

/-- A record of the unexpected list (R89) with its payload. -/
structure UxRec where
  a : Arrival
  grans : List Nat               -- payload granules in pool order
  aseq : Word
  deriving DecidableEq, Repr

/-- A deposit matched and not complete (R86): its bytes are written as they come. -/
structure Deposit where
  entry : Nat
  rxw : Nat
  off : Nat
  add : Option Word              -- the CMODE update
  pdc : Option Nat
  left : Nat                     -- bytes still to come (R60)
  recAt : Option Nat             -- replay-ring place of its arrival's data while packets are still to come (R283)
  born : Nat                     -- Ferry cycle of its last byte (R78)
  deriving DecidableEq, Repr

/-- A write of a counter that waits for the event unit as a thread command: of FERRY.CNT, of an INC action or of a send's DONECNT (R88, R96). -/
structure CtrCmd where
  counter : Nat
  set : Bool
  value : Word
  born : Nat
  deriving DecidableEq, Repr

/-- A REL action that has issued and waits for the Ferry's earlier stores (R96, R131). -/
structure FerryRel where
  entry : Nat
  act : Nat
  ctx : Nat
  va : Word
  order : Nat
  deriving DecidableEq, Repr

/-- A live input that waits at the head of its ingress or behind one that does (R276, R285). -/
inductive LiveInput where
  | aperture (i off : Nat) (data : List Byte)
  | doorbell (page : Nat) (data : List Byte)
  | request (r : UetRequest)
  | more (pdc off : Nat) (data : List Byte)
  deriving DecidableEq, Repr

/-- A posted write that the transmit layer has not accepted (R69, R70): its issuer, and the send that its acceptance ends. -/
structure HostTlp where
  addr : Word
  data : List Byte
  who : Option Who
  run : Nat                      -- start serial of the issuer's task or run
  send : Option Nat
  deriving DecidableEq, Repr

/-- An action list that has fired (R87, R97). -/
structure Firing where
  id : Nat
  entry : Nat
  ctx : Nat
  acts : List (BitVec 256)
  next : Nat
  token : Option Word            -- the list token
  arr : Option Arrival
  value : Word
  ccc : Word
  deriving DecidableEq, Repr

/-- A wake request of a thread group (R100, R248, R75). -/
structure Wake where
  pc : Word
  ctx : Nat
  regs : Tab Word
  arr : Option Arrival
  deriving DecidableEq, Repr

/-- A Ferry thread (R99-R101). -/
structure Thread where
  sc : Scalars
  st : Stream
  ctx : Nat
  running : Bool
  serial : BitVec 16
  start : Word                   -- CCC at which the run began
  arr : Option Arrival
  deriving DecidableEq, Repr

/-- The reflection of a store (R138, R378): its TX window and offset, its token, the slots that were valid when it issued (R137), each with its
chip and RX window, and, for a remote accumulation, its operation. -/
structure Reflect where
  win : Nat
  off : Nat
  tok : Option Word
  slots : List (Nat × Nat × Nat)
  rop : Option Nat
  deriving DecidableEq, Repr

/-- A store, atomic or remote accumulation that has left its issuer and is not yet performed (R136, R343, R347, R378). -/
structure Store where
  who : Option Who               -- none: the Ferry event unit
  run : Nat                      -- start serial of the task, or of the thread's run (R131, R141)
  src : Nat                      -- SRC of its undo record
  ctx : Nat
  segs : List Seg                -- in ascending order; those of an RST are performed one by one (R377)
  op : Option Nat                -- the VarOp it completes: an atomic, or an RST.TK
  atom : Bool
  win : BitVec 32
  tensor : Option Nat            -- tensor whose CTAB it fixed (R150)
  refl : Option Reflect
  adds : List QSrc               -- the bytes of a remote accumulation
  firing : Option (Nat × Nat)    -- entry and action of an RST action (R96)
  list : Option Nat              -- the firing that keeps its token (R96)
  moved : List Byte              -- bytes of the lines performed
  order : Nat
  deriving DecidableEq, Repr

/-- A packet sent on a path and awaiting its acknowledgement (R46, R141), or one already answered. -/
structure Sent where
  who : Option Who
  run : Nat                      -- start serial of the task, or of the thread's run (R141)
  firing : Option (Nat × Nat)    -- entry and action of the Ferry's action (R98)
  send : Option Nat              -- UET or MSG send it belongs to
  ctx : Nat
  order : Nat                    -- issue order of its store
  slot : Nat
  off : Nat
  dst : Nat
  pseq : BitVec 32
  status : Option Nat
  win : BitVec 32                -- undo window of its store's issue (R456)
  deriving DecidableEq, Repr

/-- A send awaiting delivery (R61, R425, R426, R98). -/
structure Send where
  id : Nat
  who : Option Who
  wait : Bool                    -- NW = 0
  ctx : Nat
  firing : Option (Nat × Nat)
  dcv : Option Nat
  deriving DecidableEq, Repr

/-- A packet of the torus (R34, R35). -/
structure Packet where
  src : Nat
  dst : Nat
  pop : Nat
  pseq : BitVec 32
  word2 : BitVec 64              -- header bytes 16-23
  word3 : BitVec 64              -- header bytes 24-31
  vc : Nat
  dlc : Bool
  data : List Byte
  deriving DecidableEq, Repr

/-- Bytes delivered into an RX window, and the packet that is acknowledged after the delivery event (R94). -/
structure WinDel where
  rxw : Nat
  bytes : Nat
  ack : Option (Packet × Nat)
  born : Nat                     -- Ferry cycle of its last byte (R78)
  deriving DecidableEq, Repr

/-- A packet held in a harbour queue (R144). -/
structure Held where
  p : Packet
  since : Word
  deriving DecidableEq, Repr

/-- One strait link: both directions of its link layer (R37-R42, R51, R52). -/
structure Link where
  seq : BitVec 16                -- next SEQ to send
  replay : List Flit             -- sent and not acknowledged, oldest first
  resend : List Flit             -- sequenced flits that count as never sent since a go-back (R38)
  queue : List (Nat × Packet)    -- packets that wait for the output, with their inputs (6: local injection), in order of coming (R45)
  rest : List Flit               -- flits still to come of the packet that holds the output (R45)
  lends : List Flit              -- LEND flits to be sent (R41)
  nakDue : Option Nat            -- reason of a NAK that waits behind a LEND flit (R42)
  credits : Tab Nat              -- per class, flits sent less credits returned
  limits : Tab Nat               -- per class, the sender's limit (default 64)
  turn : Nat                     -- class served last (R45)
  turnIn : Tab Nat               -- per class, the input served last, plus one (R45)
  first : Option Flit            -- first flit of a packet of which the first flits are acknowledged
  acked : BitVec 16              -- ACK of the flit sent last
  owe : Tab Nat                  -- per class, credits not yet returned
  expect : BitVec 16             -- E
  nak : Option Nat               -- reason of the NAK sent since E last advanced
  nakCount : Nat                 -- NAKs in a row that named E
  rxLimits : Tab Nat
  rxHeld : Tab Nat               -- flits held per class
  rxCount : Tab Nat              -- u_i of the period
  period : BitVec 16
  part : Tab (List Flit)         -- flits of a packet not yet complete, per class
  goSeq : BitVec 16
  goCount : Nat                  -- go-backs in a row resending goSeq
  lastAttempt : Option Word      -- start of the last training attempt (R52)
  deriving DecidableEq, Repr

/-- An entry of the token table (R146); the query's TKS, and when an answer did not pass it. -/
structure TokEntry where
  landing : Nat
  origin : Nat
  qout : Bool
  mark : Option (BitVec 32)
  asked : BitVec 32
  short : Option Word
  deriving DecidableEq, Repr

/-- A translation update travelling the tree of R115, at this node. -/
structure Update where
  id : Nat                       -- identity on this chip
  origin : Nat                   -- the root's chip, and the identity there
  ident : Nat
  ctx : Nat
  va : Word
  kind : Nat                     -- 0 UNMAP, 1 MAP, 2 SDOWN, 3 migration
  level : Nat
  entry : Word
  root : Bool
  parent : Nat                   -- chip that is answered
  rank : Nat
  got : BitVec 1024              -- chips that have acknowledged
  waits : List Nat               -- children not yet answered
  applied : Option Word          -- CCC at which this chip applied it (R123 may delay that)
  old : Nat                      -- frame that the page had here
  acked : Bool                   -- this chip has acknowledged
  answered : Bool                -- the parent has been sent an SDACK
  told : BitVec 1024             -- the map of the last SDACK sent
  stage : Nat                    -- at the root: 0 the tree, 1 direct SDOWNs, 2 reported (R116)
  since : Word
  deriving DecidableEq, Repr

/-- A page or chunk being migrated (R121). -/
structure Migration where
  pa : Nat                       -- physical address of its translation entry
  ctx : Nat
  old : Nat                      -- frame it leaves
  upd : Option Nat               -- the update that removes old translations, until it completes
  deriving DecidableEq, Repr

/-- A COPY_PAGE_FAULT signal of a copy engine to the Ferry (R118): the engine and the copy's identity, its context, the tensor and shadow
table with the chunk, or the address of the page, and the translation entry met. -/
structure FaultSig where
  engine : Nat
  copy : Nat
  ctx : Nat
  tensor : Option (Nat × Bool)
  place : Word
  entry : Word
  deriving DecidableEq, Repr

/-- A reduction block in the router (R50). -/
structure RedBlock where
  rid : Nat
  block : Nat
  slots : Tab (List (BitVec 32))
  deriving DecidableEq, Repr

/-- A collective accepted by an engine (R156). -/
structure Coll where
  desc : BitVec 512
  descVa : Word
  ctx : Nat
  rmap : List Nat
  prog : List (BitVec 64)
  base : Tab Word                -- counter values at COLL, for RB (R161)
  tile : Option Nat              -- the tile whose control stream issued it, for its signature (R286)
  deriving DecidableEq, Repr

/-- An inbound transfer a CTS has been sent for (R164). -/
structure Inbound where
  src : Nat                      -- rank
  num : Nat
  epoch : BitVec 32
  off : Nat
  landed : Option Word           -- trailer delivered into its slot
  data : Option (List Byte)      -- what was taken, as it travelled
  deriving DecidableEq, Repr

/-- A transfer that a step sends (R164). -/
structure Xfer where
  dst : Nat                      -- rank
  num : Nat
  data : List Byte               -- as it travels
  epoch : Option (BitVec 32)     -- epoch it was last sent at
  done : Bool                    -- accepted
  deriving DecidableEq, Repr

/-- A running collective (R159-R178). -/
structure CollRun where
  c : Coll
  pc : Nat
  loops : List (Nat × Nat × Nat × Nat) -- first word, end word, count and index of each loop, innermost first
  step : Nat                     -- data and WAIT steps completed so far: the step index
  tree : Nat                     -- tree steps begun so far
  epoch : BitVec 32
  ahead : Option (Nat × BitVec 32) -- a repeat of a tree step that this rank has not begun: its step index and epoch
  phase : Nat                    -- 0 not begun
  start : Word                   -- CCC at which the step, or its repeat, began
  hz : Bool                      -- the step has written its HORIZON record
  rpt : Nat                      -- repeats of this step
  repeats : BitVec 16
  stale : BitVec 16
  nan : Bool
  inf : Bool
  inbound : List Inbound
  owed : List (Nat × Nat)        -- CTS that wait for a free slot: rank, number
  recvNum : Tab Nat              -- per source rank, transfers read from staging
  sendNum : Tab Nat              -- per destination rank, transfers numbered
  cts : List (Nat × Nat × BitVec 32 × Nat)  -- CTS held: rank, number, epoch, offset
  xfers : List Xfer
  part : List Byte               -- the sum of a tree step, once formed
  redSent : Nat                  -- RED blocks of the step sent to the router
  redGot : Tab (List Byte)       -- result blocks from the router
  stepok : Bool
  reports : Tab Nat              -- per child rank, ranks covered
  ended : Bool
  reported : Nat                 -- REPORTs sent
  decided : Option Bool
  published : Bool
  aborted : Option Cause
  told : Bool                    -- COLL_ABORT has been reported
  finish : Option Bool           -- the status word is still to be written
  signalled : BitVec 3
  deriving DecidableEq, Repr

/-- A packet that a collective engine is to inject into its router (R180): an engine-direct store into an RX window at an offset, or a packet
outside path order. -/
structure EngOut where
  ctx : Nat
  dst : Nat
  rst : Option (Nat × Nat)
  pop : Nat
  vc : Nat
  word2 : Word
  word3 : Word
  data : List Byte
  horizon : Option (Nat × Nat)   -- its step's HORIZON record comes before it: first peer's chip, and bytes (R277)
  paid : Nat                     -- of its flits, those that the bucket has let pass
  deriving DecidableEq, Repr

/-- A collective engine (R155). -/
structure CollEng where
  queue : List Coll
  run : Option CollRun
  parked : Bool                  -- stopped by MUSTER (R263)
  outbox : List EngOut           -- packets that wait for the router, oldest first (R180)
  used : Nat                     -- what has left the bucket and is not refilled, in 47ths of a byte (R180)
  deriving DecidableEq, Repr

/-- A PUBLISH under way (R150). -/
structure Pub where
  who : Option Who
  engine : Option Nat
  ctx : Nat
  tensor : Nat
  deriving DecidableEq, Repr

/-- An undo record (R273). -/
structure UndoRec where
  rtype : Nat
  akind : Nat
  atom : Bool
  tile : Nat
  src : Nat
  win : BitVec 32
  addr : Word
  old : List Word
  inBuf : Bool                   -- still in the tile's on-die buffer
  deriving DecidableEq, Repr

/-- The task queues, rerun slot and lottery state of a tile, as an interval image or a hamper carries them (R267, R279). -/
structure TileQueues where
  tq : Tab TaskQueue
  rerun : Option (Nat × QTask × BitVec 128)
  late : List (BitVec 128)
  lotx : BitVec 32
  serial : BitVec 16
  left : List Task
  deriving DecidableEq, Repr, Inhabited

/-- A push the scheduler still has to make (R188, R199); seq: the intent already journalled for it. -/
structure Push where
  itin : Nat
  node : Nat
  tile : Nat
  q : Nat
  last : Bool
  seq : Option Word
  deriving DecidableEq, Repr

/-- A context's state on the chip beside its tiles' memories and its pages: what the sections CONTEXT, FERRY, SCHED, XLAT, CONS and
COLL of a hamper carry (R267, R279). Registers are listed by their place. -/
structure CtxImage where
  regs : Tab Word
  sram : Mem
  entries : Tab (BitVec 512)
  ux : List UxRec
  firings : List Firing
  threads : Tab Thread
  frames : Mem                   -- the thread frames of the save area
  notices : List (BitVec 128 × Option Nat)
  pushes : List Push
  started : List (Nat × Nat × Nat)
  early : List (Nat × Nat × Nat)
  failing : List Nat
  tensors : Tab (BitVec 512)
  bindings : List (BitVec 256)
  pseqOut : Tab (BitVec 32)
  pseqIn : Tab (BitVec 32)
  lhw : Tab (BitVec 32)
  colls : Tab CollEng
  queues : Tab TileQueues
  wakes : Tab (List Wake)
  copies : Tab (List Copy)       -- copies of left tasks and of actions, stopped at a piece
  deriving DecidableEq, Repr, Inhabited

/-- What follows when a context becomes MUSTERED (R260, R285, R286): nothing; the load and the run of a precise stop; the answer at
a stop's end; the run's next recorded interval; the end of the replay; a rollback to the interval's start; a survivor's rollback to its last
checkpoint (R270). -/
inductive AfterMuster where
  | nothing | load | stopped | nextInterval | replayEnd | rewind | checkpoint
  deriving DecidableEq, Repr

/-- What a hamper holds of a context beside its TILE sections (R267): the registers of its page, the tiles and engines it owns with
their lottery X, slot-table entries, the state of its sections, its pages and chunks, and its undo records. -/
structure HamperImage where
  geom : Word
  regs : Tab Word                -- context-page registers by place
  tiles : List Nat
  engines : List Nat
  slots : Tab Word
  img : CtxImage
  pages : List (Nat × Nat × List Byte)             -- VA page, flags W and PIN, 64 KiB
  chunks : List (Nat × Bool × Nat × Nat × List Byte) -- tensor, shadow table, chunk, flags, 64 KiB
  recs : List UndoRec
  wins : Tab Nat                 -- window open on each tile
  deriving DecidableEq, Repr, Inhabited

/-- A context's undo log and replay record, beside its CTX registers (R272, R283, R285). -/
structure CtxLog where
  recs : List UndoRec            -- oldest first
  ring : Nat                     -- ring byte offset of the next record
  full : Bool                    -- a stall has been reported
  rpos : Nat                     -- replay-ring byte offset of the next entry
  rused : Nat                    -- bytes of the previous interval's entries
  rcur : Nat                     -- bytes of the current interval's
  playPos : Nat                  -- ring byte offset of the next recorded input
  playIv : Nat                   -- interval that is being replayed
  playStart : Word               -- CCC at which the replay of that interval began
  playRec : Word                 -- the recorded CCC that stands for it
  closed : Bool                  -- the current interval's recording has its SIG and END entries
  stopWork : List (Nat × Nat × List Nat) -- interval, tile and its streams' work counts where a recorded interval ended; at 256 the cycles
                                 -- from its start to the MUSTER that ended it
  after : AfterMuster
  horizons : Nat                 -- horizons that a precise stop's rollback passed
  ivWins : List (Nat × Nat × BitVec 32) -- interval, tile and the window it opened
  ivCcc : Word                   -- CCC of the interval start
  ivCccOld : Word                -- and of the previous interval's
  ivComplete : Tab Bool          -- intervals recorded from their start without a gap
  target : Option (Nat × Nat × Nat)  -- precise stop: interval, tile, work count
  rstepWork : Tab Nat            -- m of R457, one more, at 256 interval + tile
  opened : Tab Nat               -- window open on each tile, plus one (R275)
  deriving DecidableEq, Repr

/-- A MUSTER under way or done (R260-R264). -/
structure Muster where
  id : Word
  alone : Bool                   -- the muster of a precise stop (R285)
  exact : Bool                   -- every stream stops where it is (R285)
  drained : Bool
  notices : List (Nat × Word)    -- chip and muster id of each notice
  firings : List Firing
  begun : Word                   -- CCC at which STOPPING began
  ccc : Word                     -- CCC at MUSTERED
  deriving DecidableEq, Repr

/-- A flag signal on its way to a tile (R220). -/
structure RemoteFlag where
  src : Nat
  dst : Nat
  flag : Nat
  win : BitVec 32
  deriving DecidableEq, Repr

/-- The scheduler (R199, R207-R210). -/
structure Sched where
  served : Nat                   -- itinerary last served
  seq : Word                     -- next journal SEQ
  ckpt : Word                    -- SEQ of the last CKPT
  since : Nat                    -- journal records written after it (R208)
  jpos : Nat                     -- ring index of the next record
  jbase : Nat                    -- journal ring as the thread group was started with (R74)
  jsize : Nat
  stopped : Bool
  pushes : List Push
  fifo : List (BitVec 128 × Option Nat)  -- completion FIFO; beside each notice, its task's DONECNT when DCV is set (R185)
  started : List (Nat × Nat × Nat) -- itinerary, node, tile: pushed in the run and not counted out (R200)
  early : List (Nat × Nat × Nat)   -- itinerary, node, tile: early release counted in the run (R199)
  failing : List Nat             -- itineraries whose run has met a notice with status 1 (R200)
  deriving DecidableEq, Repr

/-- An Ultra Ethernet send or RMA write that leaves by a port: the peer's index and its entry's JOBID, PEP and address (R61, R62). -/
structure UetOut where
  port : Nat
  peer : Nat
  job : Nat
  pep : Nat
  v4 : Bool
  addr : Nat
  write : Bool
  word : Word                    -- tag, or memory key
  off : Nat
  hdata : Option Word
  data : List Byte
  deriving DecidableEq, Repr

/-- What leaves the package. -/
inductive Out where
  | flit (link : Nat) (f : Flit)
  | tlp (addr : Word) (data : List Byte)
  | msix (vector : Nat)
  | uet (u : UetOut)
  | uetRefused (port : Nat) (address : Bool)
  | nack (port : Nat)
  | unsupportedRequest
  | readData (value : Word)
  | i3c (address : BitVec 7)
  | i3cData (bytes : List Byte)
  deriving DecidableEq, Repr

/-- Power, temperature, boot, record and attestation (R16-R28). -/
structure Package where
  released : Bool                -- RESET_N released
  boot : Nat                     -- STATUS of R76
  pkgLimit : BitVec 16
  factor : Nat
  limiting : Bool
  quiet : Nat
  temps : Tab Nat
  thermtrip : Bool
  flash : Mem
  factory : Nat                  -- which record copy's factory part is used
  life : Option Nat              -- which copy's lifetime part is in force (R25)
  seqNo : Word
  fwFloor : Word
  fwVersion : Word
  fwDigest : BitVec 512          -- SHA-512 of the running firmware image (R28)
  lastRewrite : Word
  gathered : Tab Nat             -- lifetime counts gathered, by record offset (R293)
  attestFlags : BitVec 16
  requests : List (List Byte × Bool) -- nonces waiting, and whether over I3C
  nonce : Tab Byte
  report : List Byte
  dynAddr : Option (BitVec 7)
  deriving DecidableEq, Repr

/-- What moves next: an issue opportunity of a stream or thread, an event, an I3C read of n bytes (R76), a counter write that waits in
the event unit (R77), a REL action's release (R96), a retry of the input that waits at an ingress (R276, R285), the arbitration of a tile's
scratchpad port (R237), or the access that a stream asked it for. -/
inductive Move where
  | issue (w : Who)
  | event (i : Instr)
  | i3cRead (off n : Nat)
  | counterCommand
  | ferryRelease
  | ingress (n : Nat)
  | arbitrate (tile : Nat)
  | retry (w : Who)
  deriving DecidableEq, Repr

/-- The package. -/
structure State where
  agenda : List Move             -- what moves next (the model's own: log entry 1)
  cur : Who                      -- the party whose move this is (the model's own)
  curInsn : BitVec 32            -- first word of the instruction at issue, for frames (R249); a compact one in [15:0]
  freeCount : Nat                -- free values drawn so far (the model's own)
  nextId : Nat                   -- next identity of an operation (the model's own)
  ccc : Word
  hbm : Mem
  sram : Mem
  regs : Tab Word                -- register blocks of R71 by BAR0 offset / 8
  tiles : Tab Tile
  threads : Tab Thread
  coreTlb : Tab (List TlbEntry)  -- TLBs of the Ferry cores (R111)
  entries : Tab (BitVec 512)     -- match table (R82)
  armSeq : Word
  aseq : Word
  arrivals : List Arrival
  ux : List UxRec
  deposits : List Deposit
  disarmed : List Nat            -- entries disarmed with deposits outstanding (R84)
  winDel : List WinDel
  engSig : List (Nat × Nat × Nat) -- engine signals: engine number, counter, Ferry cycle of completion (R77)
  ctrCmds : List CtrCmd          -- counter writes that wait in the event unit (R77, R88)
  evUsed : Nat                   -- events that the unit has accepted in this cycle of the CCC (R78)
  ferryRels : List FerryRel
  heldIn : List LiveInput        -- inputs that wait at their ingress, oldest first
  actions : List Firing
  wakes : Tab (List Wake)
  tensors : Tab (BitVec 512)     -- descriptors by 256 ctx + id (R106)
  bindings : Tab (BitVec 256)    -- binding table (R130)
  stores : List Store
  sent : List Sent
  sends : List Send
  pseqOut : Tab (BitVec 32)      -- next PSEQ to send, by destination
  pseqIn : Tab (BitVec 32)       -- next expected PSEQ, by source
  discarding : List Nat          -- sources whose path discards until PATHRST
  lhw : Tab (BitVec 32)          -- LHW by origin; all ones until the first delivery (R143)
  harbour : Tab (List Held)
  tokens : Tab (Option TokEntry) -- token table (R146)
  tokenUse : List Nat            -- its entries, least recently used first
  tokenTold : Option Word        -- CCC of the last TOKEN_TABLE_FULL (R146)
  holdTold : List Nat            -- ports whose full harbour queue has been reported (R148)
  queries : List (Nat × Nat × BitVec 32) -- TKQ kept: asker, origin, TKS
  links : Tab Link
  inq : Tab (List Packet)        -- complete packets by port: 0-5 the links, 6 local
  fences : BitVec 1024
  reds : List RedBlock
  updates : List Update
  migrations : List Migration
  copies : Tab (List Copy)
  ceLast : Tab Nat               -- per copy engine, one more than the context last served by its round-robin (R202)
  hbmLast : Tab Nat              -- per die, one more than the context last served by its HBM ports' round-robin (R202)
  faultSigs : List FaultSig      -- COPY_PAGE_FAULT signals that the pager has not served (R118)
  colls : Tab CollEng
  pubs : List Pub
  remoteFlags : List RemoteFlag
  sched : Sched
  logs : Tab CtxLog
  musters : Tab Muster
  slotNew : Tab Word             -- slot-table writes waiting for CCC mod 256 = 0
  hostTlps : List HostTlp        -- posted writes not yet accepted, oldest first
  snapAt : Option Word           -- trigger whose latch is to come (R290)
  unitSnap : Tab Word            -- snapshot sets of links, router, Ferry, scheduler and collective engines, by the status register's offset (R290)
  saveFrames : List (Nat × Nat × Nat) -- recorded frames: context, VA page, frame (R122, R272)
  destroying : List Nat          -- contexts whose destruction is under way (R73, R257)
  pkg : Package
  out : List Out                 -- what left the package, latest first
  deriving DecidableEq, Repr

/-! ## Reset -/

def Scalars.idle : Scalars := { regs := [], empty := [], pend := [], ops := [] }

def Stream.idle : Stream :=
  { pc := 0, blk := none, stop := none, stall := .none, work := 0, sig := 0, bubbles := 0, wfe := none, woken := false,
    pass := false, free := false, counted := false, fenceSince := none, reached := none }

def OpQueue.idle : OpQueue := { ents := [], loads := [], entered := 0 }

def CondBuf.idle : CondBuf := { recs := [], closed := false }

def Plane.idle : Plane := { slot := 0, valid := false, img := [] }

def Matrix.idle : Matrix :=
  { strict := false, run := false, smiss := 0, p := 0, ta := 0x3F80, tb := 0x3F80, mxrt := 0, planes := [], acc := [], wb := [],
    arrayFree := 0, loadFree := 0, epiFree := 0, rowFree := [], rowMma := [], slotFree := [], planeFree := [], runs := [], drains := [] }

def TaskQueue.idle : TaskQueue := { tickets := 1, starve := 0, tasks := [] }

/-- sys.TRCTL.SPER resets to 10 and sys.TRSIZE to 1 (R291). -/
def Trace.idle : Trace :=
  { ctl := 0x140, base := 0, size := 1, head := 0, pos := 0, lease := 0, dropped := 0, skipped := 0, lossPrev := [] }

/-- A tile as reset leaves it: idle, every register at the value the spec gives, or zero (log entry 3). -/
def Tile.idle : Tile :=
  { sc := .idle, streams := [], cq := [], areg := [], abusy := [], vreg := [], vbusy := [], kreg := [], kbusy := [], lc := [], lcPrev := [], workPrev := 0,
    flags := [], flagsat := 0, oq := [], cb := [], nst := [], ovfptr := 0, ovflim := 0, lockset := 0, bars := [], mx := .idle,
    spad := [], portLast := [], asks := [], captures := [], loss := [], board := [], boardSince := none, copyFail := [], tq := [], lotx := 0, task := none,
    left := [], rerun := none, late := [], serial := 0, held := false, collect := none, lastIssue := 0, win := 0, undoBuf := 0, mp := [],
    mpvec := 0, handler := none, shadow := [], trace := .idle, snap := [], image := [], allow := none, tlb := [] }

def Thread.idle : Thread :=
  { sc := .idle, st := .idle, ctx := 0, running := false, serial := 0, start := 0, arr := none }

/-- A link at reset: DOWN, limits of 64 from training (R40, R52). -/
def Link.idle : Link :=
  { seq := 0, replay := [], resend := [], queue := [], rest := [], lends := [], nakDue := none, credits := [], limits := [], turn := 7, turnIn := [], first := none, acked := 0, owe := [],
    expect := 0, nak := none, nakCount := 0, rxLimits := [], rxHeld := [], rxCount := [], period := 0, part := [], goSeq := 0, goCount := 0,
    lastAttempt := none }

def CollEng.idle : CollEng := { queue := [], run := none, parked := false, outbox := [], used := 0 }

def CtxLog.idle : CtxLog :=
  { recs := [], ring := 0, full := false, rpos := 0, rused := 0, rcur := 0, playPos := 0, playIv := 0, playStart := 0, playRec := 0,
    closed := false, stopWork := [], after := .nothing, horizons := 0, ivWins := [], ivCcc := 0, ivCccOld := 0, ivComplete := [],
    target := none, rstepWork := [], opened := [] }

def Muster.idle : Muster := { id := 0, alone := false, exact := false, drained := false, notices := [], firings := [], begun := 0, ccc := 0 }

def Sched.idle : Sched :=
  { served := 255, seq := 0, ckpt := 0, since := 0, jpos := 0, jbase := 0, jsize := 8192, stopped := false, pushes := [], fifo := [], started := [],
    early := [], failing := [] }

/-- PKG_LIMIT resets to 1,900 W and F is 1,024 (R18). -/
def Package.idle : Package :=
  { released := false, boot := 0, pkgLimit := 1900, factor := 1024, limiting := false, quiet := 0, temps := [], thermtrip := false,
    flash := [], factory := 0, life := none, seqNo := 0, fwFloor := 0, fwVersion := 0, fwDigest := 0, lastRewrite := 0, gathered := [], attestFlags := 0,
    requests := [], nonce := [], report := [], dynAddr := none }

/-- The state right after reset: RESET_N asserted or just released, nothing booted, no context, no tile owned. -/
def State.reset : State :=
  { agenda := [], cur := .stream 0 0, curInsn := 0, coreTlb := [], freeCount := 0, nextId := 0, ccc := 0, hbm := [], sram := [], regs := [], tiles := [],
    threads := [], entries := [], armSeq := 0, aseq := 0, arrivals := [], ux := [], deposits := [], disarmed := [], winDel := [], engSig := [], ctrCmds := [], evUsed := 0, ferryRels := [], heldIn := [],
    actions := [], wakes := [], tensors := [], bindings := [], stores := [], sent := [], sends := [], pseqOut := [], pseqIn := [],
    discarding := [], lhw := [], harbour := [], tokens := [], tokenUse := [], tokenTold := none, holdTold := [], queries := [],
    links := [], inq := [], fences := 0,
    reds := [], updates := [], migrations := [], copies := [], ceLast := [], hbmLast := [], faultSigs := [], colls := [], pubs := [], remoteFlags := [], sched := .idle,
    logs := [], musters := [], slotNew := [], hostTlps := [], snapAt := none, unitSnap := [], saveFrames := [], destroying := [], pkg := .idle, out := [] }

end Sys2Proof.Machine
end

