-- ==== Sys2Proof/Machine/Table.lean ====
section
/-! DEFINITION. Sparse tables, bytes in tables, and bit fields: the helpers every operation is written over. -/
namespace Sys2Proof.Machine
open Sys2Proof

/-! ## Tables -/

/-- The value of a key, the default where the key is not listed. -/
def tget {α : Type} (d : α) : Tab α → Nat → α
  | [], _ => d
  | (j, v) :: t, k => if j = k then v else tget d t k

/-- Enter a value at its place. -/
def tins {α : Type} (k : Nat) (v : α) : Tab α → Tab α
  | [] => [(k, v)]
  | (j, w) :: t => if k < j then (k, v) :: (j, w) :: t else if j = k then (k, v) :: t else (j, w) :: tins k v t

/-- Set a key; a default is not listed. -/
def tput {α : Type} [DecidableEq α] (d : α) (t : Tab α) (k : Nat) (v : α) : Tab α :=
  if v = d then t.filter (fun e => e.1 != k) else tins k v t

/-- Apply a function to a key's value. -/
def tmod {α : Type} [DecidableEq α] (d : α) (t : Tab α) (k : Nat) (f : α → α) : Tab α := tput d t k (f (tget d t k))

/-- Keys strictly rising and no entry equal to the default: the canonical form. -/
def Tab.canon {α : Type} [DecidableEq α] (d : α) (t : Tab α) : Bool :=
  (t.map (·.1)).Pairwise (· < ·) && t.all (fun e => decide (e.2 ≠ d))

/-! ## Memory -/

/-- The canonical form of a memory: addresses strictly rising, no entry equal to zero, what an unlisted byte reads (log entry 2). -/
abbrev Mem.wf (m : Mem) : Prop := Tab.canon (0 : Byte) m = true

/-- One byte. -/
def mread (m : Mem) (a : Nat) : Byte := tget 0 m a

/-- The n bytes from an address. -/
def mreads (m : Mem) (a : Nat) : Nat → List Byte
  | 0 => []
  | n + 1 => mread m a :: mreads m (a + 1) n

/-- Write bytes from an address. -/
def mwrites (m : Mem) (a : Nat) : List Byte → Mem
  | [] => m
  | b :: bs => mwrites (tput 0 m a b) (a + 1) bs

/-! ## Little-endian values (R2) -/

def leNat : List Byte → Nat
  | [] => 0
  | b :: bs => b.toNat + 256 * leNat bs

def leBytes : Nat → Nat → List Byte
  | 0, _ => []
  | n + 1, v => BitVec.ofNat 8 v :: leBytes n (v / 256)

/-- An n-byte value from memory. -/
def mval (m : Mem) (a n : Nat) : Nat := leNat (mreads m a n)

/-- A 64-bit word from memory. -/
def mword (m : Mem) (a : Nat) : Word := BitVec.ofNat 64 (mval m a 8)

/-- A 64-bit word to memory. -/
def mputw (m : Mem) (a : Nat) (v : Word) : Mem := mwrites m a (leBytes 8 v.toNat)

/-! ## Fields -/

/-- Bits [lo + w - 1 : lo] of a vector, unsigned. -/
def fld {n : Nat} (v : BitVec n) (lo w : Nat) : Nat := (v.toNat >>> lo) % 2 ^ w

/-- A single bit. -/
def bit {n : Nat} (v : BitVec n) (i : Nat) : Bool := v.getLsbD i

/-- Replace a field. -/
def setFld {n : Nat} (v : BitVec n) (lo w x : Nat) : BitVec n :=
  (v &&& ~~~ (BitVec.ofNat n (2 ^ w - 1) <<< lo)) ||| (BitVec.ofNat n (x % 2 ^ w) <<< lo)

/-- A field of a number. -/
def nfld (v lo w : Nat) : Nat := (v >>> lo) % 2 ^ w

/-- 64-bit word i of a wide vector. -/
def wordOf {n : Nat} (v : BitVec n) (i : Nat) : Word := v.extractLsb' (64 * i) 64

/-- Replace 64-bit word i of a wide vector. -/
def setWord {n : Nat} (v : BitVec n) (i : Nat) (x : Word) : BitVec n := setFld v (64 * i) 64 x.toNat

/-- Element k of a list, zero past its end. -/
def nth {α : Type} (d : α) (l : List α) (k : Nat) : α := l.getD k d

/-- A number added with saturation at a limit. -/
def satAdd (limit a b : Nat) : Nat := min limit (a + b)

/-- The wrapped comparison of generations, thresholds and sequence numbers of 32 bits: passed(G, g) (R131). -/
def passed32 (g h : BitVec 32) : Bool := (g - h).toNat < 2 ^ 31

/-- The lowest k below n for which p holds, from k up. -/
def firstBelow (p : Nat → Bool) : Nat → Nat → Option Nat
  | 0, _ => none
  | n + 1, k => if p k then some k else firstBelow p n (k + 1)

/-- CRC64 over bytes: polynomial 0x42F0_E1EB_A9EA_3693, as the CRC of R32. -/
def crcBit (c : Word) : Word := if c.getLsbD 63 then (c <<< 1) ^^^ 0x42F0E1EBA9EA3693#64 else c <<< 1

def crcByte (c : Word) (b : Byte) : Word :=
  crcBit (crcBit (crcBit (crcBit (crcBit (crcBit (crcBit (crcBit (c ^^^ (b.setWidth 64 <<< 56)))))))))

def crc64 (bs : List Byte) : Word := bs.foldl crcByte 0

end Sys2Proof.Machine
end

