-- ==== Sys2Proof/Machine/Alu.lean ====
section
/-! DEFINITION. The integer operations of the control class (R336-R338), by meaning and by instruction word (R459). -/
namespace Sys2Proof.Machine
open Sys2Proof

def boolWord (b : Bool) : Word := if b then 1 else 0

/-- A shift amount is b[5:0] (R336). -/
def amount (b : Word) : Nat := b.toNat % 64

def aluSll (a b : Word) : Word := a <<< amount b
def aluSrl (a b : Word) : Word := a >>> amount b
def aluSra (a b : Word) : Word := a.sshiftRight (amount b)

/-- floor(sx(a) sx(b) / 2^64). -/
def aluMulh (a b : Word) : Word := BitVec.ofInt 64 (a.toInt * b.toInt / 2 ^ 64)
def aluMulhn (a b : Word) : Word := BitVec.ofNat 64 (a.toNat * b.toNat / 2 ^ 64)

/-- Truncating division; R337 gives the corners by 64-bit wrapping. -/
def aluDiv (a b : Word) : Word := BitVec.ofInt 64 (a.toInt.tdiv b.toInt)
def aluRem (a b : Word) : Word := BitVec.ofInt 64 (a.toInt - b.toInt * a.toInt.tdiv b.toInt)
def aluDivn (a b : Word) : Word := BitVec.ofNat 64 (a.toNat / b.toNat)
def aluRemn (a b : Word) : Word := BitVec.ofNat 64 (a.toNat - b.toNat * (a.toNat / b.toNat))

def aluMin (a b : Word) : Word := if a.toInt ≤ b.toInt then a else b
def aluMax (a b : Word) : Word := if a.toInt ≤ b.toInt then b else a
def aluMinn (a b : Word) : Word := if a.toNat ≤ b.toNat then a else b
def aluMaxn (a b : Word) : Word := if a.toNat ≤ b.toNat then b else a
def aluSlt (a b : Word) : Word := boolWord (decide (a.toInt < b.toInt))
def aluSltn (a b : Word) : Word := boolWord (decide (a.toNat < b.toNat))
def aluSeq (a b : Word) : Word := boolWord (a == b)
def aluSne (a b : Word) : Word := boolWord (a != b)

/-- How many of the n bits from i, going by step, are zero before the first set one. -/
def zerosFrom (a : Word) (at' : Nat → Nat) : Nat → Nat → Nat
  | 0, k => k
  | n + 1, k => if a.getLsbD (at' k) then k else zerosFrom a at' n (k + 1)

def aluClz (a : Word) : Word := BitVec.ofNat 64 (zerosFrom a (63 - ·) 64 0)
def aluCtz (a : Word) : Word := BitVec.ofNat 64 (zerosFrom a id 64 0)
def aluPopc (a : Word) : Word := BitVec.ofNat 64 ((List.range 64).countP a.getLsbD)

/-- a[p:0], sign- or zero-extended from bit p. -/
def aluSext (a : Word) (p : Nat) : Word := (a <<< (63 - p)).sshiftRight (63 - p)
def aluZext (a : Word) (p : Nat) : Word := (a <<< (63 - p)) >>> (63 - p)

def aluBswap (a : Word) : Word := BitVec.ofNat 64 (leNat (leBytes 8 a.toNat).reverse)

/-! ## Immediates (R315, R338) -/

def imm14s (i : BitVec 14) : Word := i.signExtend 64
def imm14z (i : BitVec 14) : Word := i.setWidth 64
def imm20s (i : BitVec 20) : Word := i.signExtend 64
def imm5s (i : BitVec 5) : Word := i.signExtend 64
def imm5z (i : BitVec 5) : Word := i.setWidth 64

/-- d 2^20 + imm20. -/
def aluLih (d : Word) (i : BitVec 20) : Word := (d <<< 20) + i.setWidth 64

/-! ## A result computed again from its captured operands (R459) -/

/-- The operation of a major 0x20 word, where it computes from a and b alone. SEXT and ZEXT take their position from the b field. -/
def aluFunc (insn : BitVec 32) : Option (Word → Word → Word) :=
  let p := fld insn 8 6
  match fld insn 0 6 with
  | 0x00 => some (· + ·) | 0x01 => some (· - ·) | 0x02 => some (· &&& ·) | 0x03 => some (· ||| ·)
  | 0x04 => some (· ^^^ ·) | 0x05 => some fun a b => a &&& ~~~ b
  | 0x06 => some aluSll | 0x07 => some aluSrl | 0x08 => some aluSra
  | 0x10 => some (· * ·) | 0x11 => some aluMulh | 0x12 => some aluMulhn
  | 0x13 => some aluDiv | 0x14 => some aluDivn | 0x15 => some aluRem | 0x16 => some aluRemn
  | 0x18 => some aluMin | 0x19 => some aluMax | 0x1A => some aluMinn | 0x1B => some aluMaxn
  | 0x20 => some aluSlt | 0x21 => some aluSltn | 0x22 => some aluSeq | 0x23 => some aluSne
  | 0x28 => some fun a _ => aluClz a | 0x29 => some fun a _ => aluCtz a | 0x2A => some fun a _ => aluPopc a
  | 0x2B => some fun a _ => aluSext a p | 0x2C => some fun a _ => aluZext a p | 0x2D => some fun a _ => aluBswap a
  | _ => none

/-- The operation a replay entry computes again, by its instruction word; a compact word is in the low halfword. -/
def aluOf (insn : BitVec 32) : Option (Word → Word → Word) :=
  if insn.getLsbD 31 then
    match fld insn 26 6 with
    | 0x20 => aluFunc insn
    | 0x21 => some (· + ·) | 0x22 => some fun a b => a &&& imm14z (b.setWidth 14) | 0x23 => some fun a b => a ||| imm14z (b.setWidth 14)
    | 0x24 => some fun a b => a ^^^ imm14z (b.setWidth 14)
    | 0x25 => match fld insn 12 2 with
      | 0 => some aluSll | 1 => some aluSrl | _ => some aluSra
    | 0x26 => some aluSlt | 0x27 => some aluSltn
    | _ => none
  else
    match fld insn 10 5 with
    | 0x01 => some (· + ·) | 0x02 => some (· - ·) | 0x03 => some (· &&& ·) | 0x04 => some (· ||| ·) | 0x05 => some (· ^^^ ·)
    | 0x06 => some (· + ·) | 0x07 => some aluSll | 0x08 => some aluSrl | 0x09 => some aluSra | 0x0B => some (· + ·)
    | _ => none

end Sys2Proof.Machine
end

