-- ==== Sys2Proof/Config.lean ====
section
/-! DEFINITION. What the spec leaves to an implementation or leaves open: opaque constants, of which nothing can be proved.
A constant named free is a free value; the state's freeCount numbers the draws. -/
namespace Sys2Proof

/-- A result, a flag or a register that the spec leaves open (log entry 5). -/
opaque Config.freeWord : Nat → Word

/-- SHA-512 (R265, R28), named and not defined by the spec (log entry 6). -/
opaque Config.sha512 : List Byte → BitVec 512
/-- Ed25519 signing under the attestation key of the part (R27, R28; log entry 6). -/
opaque Config.ed25519Sign : List Byte → BitVec 512
/-- Ed25519 verification of a message and a signature under a public key (R23; log entry 6). -/
opaque Config.ed25519Verifies : List Byte → List Byte → List Byte → Bool
/-- The digest of the root public key in the mask ROM (R23; log entry 6). -/
opaque Config.romDigest : BitVec 512
/-- From the 2,048 bytes of a production key chain, whose layout the spec does not give: the root public key (R23; log entry 6). -/
opaque Config.chainRootKey : List Byte → List Byte
/-- The production public key that the chain's certificate names (R23; log entry 6). -/
opaque Config.chainProductionKey : List Byte → List Byte
/-- The signed bytes of the certificate, and the root key's signature over them (R23; log entry 6). -/
opaque Config.chainCertificate : List Byte → List Byte × List Byte

/-- Where the scheduler's firmware starts again after a take-over (R209): the address is the firmware's (log entry 127). -/
opaque Config.restartEntry : BitVec 64

end Sys2Proof
end

