-- ==== Sys2Proof/Machine/Regs.lean ====
section
/-! DEFINITION. The register blocks of BAR0 (R71, R72): where each register lies, what it holds at reset, and its fields. -/
namespace Sys2Proof.Machine
open Sys2Proof

/-! ## Places (R71) -/

def offHostAp (n : Nat) : Nat := 8 * n
def offHostMap (n : Nat) : Nat := 0x800 + 8 * n
def offHostDrop : Nat := 0xA00
def offGeom : Nat := 0x100000
def offLinkStat (n : Nat) : Nat := 0x100008 + 8 * n
def offRedStale : Nat := 0x100040
def offRedTab (n : Nat) : Nat := 0x101000 + 16 * n
def offXlatCtl : Nat := 0x200000
def offWerr : Nat := 0x200008
def offTxw (n : Nat) : Nat := 0x210000 + 16 * n
def offRxw (n : Nat) : Nat := 0x220000 + 16 * n
def offTxDst (n : Nat) : Nat := 0x300000 + 8 * n
def offMatchCtl : Nat := 0x400000
def offUxMaxLen : Nat := 0x400008
def offTwdog : Nat := 0x400010
def offSnapCtl : Nat := 0x400018
def offSnapId : Nat := 0x400020
def offUetRefused : Nat := 0x400028
def offUetDrop : Nat := 0x400030
def offFlogHead : Nat := 0x400038
def offHlogHead : Nat := 0x400040
def offRlogHead : Nat := 0x400048
def offRlogTail : Nat := 0x400050
def offRlogLost : Nat := 0x400058
def offRptGrp : Nat := 0x400060
def offUetJob (n : Nat) : Nat := 0x400400 + 8 * n
def offCtxLim (n : Nat) : Nat := 0x400600 + 8 * n
def offTgrp (n : Nat) : Nat := 0x400800 + 8 * n
def offCsram (n : Nat) : Nat := 0x400A00 + 8 * n
def offFlog (i : Nat) : Nat := 0x401000 + 16 * i
def offHlog (i : Nat) : Nat := 0x402000 + 16 * i
def offRlog (i : Nat) : Nat := 0x404000 + 16 * i
def offCntCtl (n : Nat) : Nat := 0x410000 + 8 * n
def offCnt (n : Nat) : Nat := 0x430000 + 8 * n
def offRxdc (n : Nat) : Nat := 0x450000 + 8 * n
def offUetPeer (p i : Nat) : Nat := 0x480000 + 0x20000 * p + 32 * i
def offItin (n : Nat) : Nat := 0x500000 + 32 * n
def offPkb (n : Nat) : Nat := 0x502000 + 8 * n
def offSchedCtl : Nat := 0x502020
def offIerr : Nat := 0x502028
def offJbase : Nat := 0x502030
def offJsize : Nat := 0x502038
def offTown (n : Nat) : Nat := 0x503000 + 8 * n
def offArb (n : Nat) : Nat := 0x600000 + 8 * n
def offCengOwn (n : Nat) : Nat := 0x600100 + 8 * n
def offPwrStatus : Nat := 0x600800
def offSlotTab (d n : Nat) : Nat := 0x700000 + 0x10000 * d + 8 * n
def offCtx (c o : Nat) : Nat := 0x800000 + 0x10000 * c + o
def offTile (t n : Nat) : Nat := 0xC00000 + 0x4000 * t + 8 * n

/-- Places in a context's page (R72). -/
def cLIFE : Nat := 0x000
def cPRIVS : Nat := 0x008
def cMSTATE : Nat := 0x010
def cPTROOT : Nat := 0x018
def cLEASE : Nat := 0x020
def cTKEXP : Nat := 0x028
def cRFTMO : Nat := 0x030
def cACQTMO : Nat := 0x038
def cEBUDGET : Nat := 0x040
def cENERGY : Nat := 0x048
def cERATEF : Nat := 0x050
def cTRAPGRP : Nat := 0x058
def cTRAPVEC : Nat := 0x060
def cHANGTMO : Nat := 0x068
def cPRETMO : Nat := 0x070
def cSAVEVA : Nat := 0x078
def cUNDOBASE : Nat := 0x080
def cUNDOCFG : Nat := 0x088
def cUNDOWIN : Nat := 0x090
def cUNDOUSE : Nat := 0x098
def cIVNUM : Nat := 0x0A0
def cIVBASE : Nat := 0x0A8
def cREPLAY : Nat := 0x0B0
def cRPBASE : Nat := 0x0B8
def cRPSIZE : Nat := 0x0C0
def cMEMBERS (i : Nat) : Nat := 0x100 + 8 * i

/-! ## Reset values (R5, R74 and the maps of each block) -/

/-- The reset value of a context-page register. -/
def ctxReset (o : Nat) : Nat :=
  if o = cLEASE then 64 else if o = cTKEXP then 100 else if o = cRFTMO then 1000 else if o = cPRETMO then 10000 else 0

/-- What a register holds at reset; zero where its map says so or says nothing (log entry 3). -/
def regReset (off : Nat) : Word :=
  if 0x800000 ≤ off ∧ off < 0xC00000 then BitVec.ofNat 64 (ctxReset ((off - 0x800000) % 0x10000))
  else if off = offXlatCtl then 100 <<< 1
  else if off = offUxMaxLen then 65536
  else if off = offTwdog then 0x01000000
  else if off = offSchedCtl then 1 <<< 6
  else if off = offJsize then 8192
  else if off = offPwrStatus then 1900 <<< 2
  else if 0x600000 ≤ off ∧ off < 0x600080 then 64 <<< 12
  else 0

/-- Read a register as stored. -/
def State.reg (s : State) (off : Nat) : Word := tget (regReset off) s.regs off

/-- Write a register as stored: no access rules apply. -/
def State.setReg (s : State) (off : Nat) (v : Word) : State := { s with regs := tput (regReset off) s.regs off v }

/-- A field of a register. -/
def State.regF (s : State) (off lo w : Nat) : Nat := fld (s.reg off) lo w

def State.setRegF (s : State) (off lo w x : Nat) : State := s.setReg off (setFld (s.reg off) lo w x)

/-- A 128-bit register. -/
def State.reg128 (s : State) (off : Nat) : BitVec 128 := s.reg (off + 8) ++ s.reg off

def State.setReg128 (s : State) (off : Nat) (v : BitVec 128) : State :=
  (s.setReg off (wordOf v 0)).setReg (off + 8) (wordOf v 1)

/-- A 256-bit register. -/
def State.reg256 (s : State) (off : Nat) : BitVec 256 := s.reg128 (off + 16) ++ s.reg128 off

def State.setReg256 (s : State) (off : Nat) (v : BitVec 256) : State :=
  (s.setReg128 off (v.extractLsb' 0 128)).setReg128 (off + 16) (v.extractLsb' 128 128)

/-- A context register (R72). -/
def State.cx (s : State) (c o : Nat) : Word := s.reg (offCtx c o)

def State.setCx (s : State) (c o : Nat) (v : Word) : State := s.setReg (offCtx c o) v

def State.cxF (s : State) (c o lo w : Nat) : Nat := fld (s.cx c o) lo w

/-! ## Facts that registers hold -/

/-- CTX.LIFE.EXISTS (R73). -/
def State.ctxExists (s : State) (c : Nat) : Bool := bit (s.cx c cLIFE) 0

/-- CTX.PRIVS.SYS (R419). -/
def State.sysPriv (s : State) (c : Nat) : Bool := bit (s.cx c cPRIVS) 0

/-- CTX.MSTATE (R252): 0 RUN, 1 STOPPING, 2 DRAINING, 3 MUSTERED, 4 LOST. -/
def State.mstate (s : State) (c : Nat) : Nat := s.cxF c cMSTATE 0 3

/-- A chip is in CTX.MEMBERS (R109). -/
def State.isMember (s : State) (c chip : Nat) : Bool := bit (s.cx c (cMEMBERS (chip / 64))) (chip % 64)

/-- The members of a context, ascending. -/
def State.members (s : State) (c : Nat) : List Nat := (List.range 1024).filter (s.isMember c)

/-- This chip's id, CX + 8 CY + 64 CZ of STRAIT.GEOM (R29, R30). -/
def State.chip (s : State) : Nat :=
  s.regF offGeom 0 3 + 8 * s.regF offGeom 3 3 + 64 * s.regF offGeom 6 4

/-- The context that owns a tile, by SCHED.TOWN (R201). -/
def State.tileCtx (s : State) (t : Nat) : Option Nat :=
  let v := s.reg (offTown t)
  if bit v 0 then some (fld v 1 6) else none

/-- A counter (R87). -/
def State.cnt (s : State) (n : Nat) : Word := s.reg (offCnt n)

/-- A counter is assigned to a context (R88). -/
def State.ownsCnt (s : State) (c n : Nat) : Bool := bit (s.reg (offCntCtl n)) 0 && s.regF (offCntCtl n) 1 6 == c

/-- Saturating 32-bit count registers (R74). -/
def State.bump (s : State) (off : Nat) : State := s.setRegF off 0 32 (satAdd 0xFFFFFFFF (s.regF off 0 32) 1)

end Sys2Proof.Machine
end

