-- ==== Sys2Proof/WellFormed.lean ====
section
/-! DEFINITION. Well-formed instructions: the fields each form uses are in range and every other field is zero.
An encoding that is not well-formed raises RSV_FIELD (R321 row 5). -/
namespace Sys2Proof

/-- An address register a0-a31 (R318). -/
def aReg (n : BitVec 6) : Bool := n.toNat < 32
/-- lc0-lc3 (R318). -/
def lcReg (n : BitVec 6) : Bool := 32 ≤ n.toNat && n.toNat < 36
/-- A producing queue oq0-oq5 (R365). -/
def inQueue (n : BitVec 6) : Bool := n.toNat < 6
/-- A consuming queue oq6-oq7 (R365). -/
def outQueue (n : BitVec 6) : Bool := n == 6 || n == 7
/-- v0-v31 (R318). -/
def vReg (n : BitVec 6) : Bool := n.toNat < 32
/-- k0-k15 (R318). -/
def kReg (n : BitVec 6) : Bool := n.toNat < 16
/-- cb0-cb3 (R318). -/
def cReg (n : BitVec 6) : Bool := n.toNat < 4
/-- IMM20[1:0], the kind of a system command (R436, R441). -/
def kindBits (imm : BitVec 20) : BitVec 2 := imm.extractLsb' 0 2
/-- IMM20[3:2]. -/
def midBits (imm : BitVec 20) : BitVec 2 := imm.extractLsb' 2 2

/-- PN and PK are used only with PV (R316). -/
def CmdE.predicateUsed (f : CmdE) : Bool := f.pv || (!f.pn && f.pk == 0)
def CmdE.unpredicated (f : CmdE) : Bool := !f.pv && !f.pn && f.pk == 0
def VForm.predicateUsed (f : VForm) : Bool := f.pv || (!f.pn && f.pk == 0)
def VForm.unpredicated (f : VForm) : Bool := !f.pv && !f.pn && f.pk == 0
def MForm.predicateUsed (f : MForm) : Bool := f.pv || (!f.pn && f.pk == 0)
def MForm.unpredicated (f : MForm) : Bool := !f.pv && !f.pn && f.pk == 0

/-- TY and TY2 are not the reserved codes (R319). -/
def VForm.typesOk (f : VForm) : Bool := f.ty.toNat < 14 && f.ty2.toNat < 14
/-- The element width of a type code (R319, R380). -/
def typeWidth (t : BitVec 4) : Nat :=
  match t.toNat with
  | 0 | 9 | 11 => 32
  | 1 | 2 | 10 | 12 => 16
  | 3 | 4 | 6 | 13 => 8
  | 5 | 7 | 8 => 4
  | _ => 0
/-- The width of TY. -/
def VForm.width (f : VForm) : Nat := typeWidth f.ty
/-- TY is INT8, INT32, INT16, UINT32, UINT16 or UINT8 (R385); a type that an entry does not accept raises FMT_MISMATCH when the
instruction runs (R328, R383). -/
def VForm.isInt (f : VForm) : Bool := f.ty.toNat == 6 || (9 ≤ f.ty.toNat && f.ty.toNat < 14)
/-- VCMP of integers has no UNORD and no ORD (R386). -/
def VForm.compareOk (f : VForm) : Bool := !f.isInt || (f.imm.extractLsb' 0 3).toNat < 6
/-- An element number below N (R388). -/
def VForm.elementOk (f : VForm) : Bool := f.width == 0 || f.imm.toNat < 2048 / f.width
/-- VSHL, VSHR, VSRA (R385): IMM7[6] selects the immediate amount in IMM7[5:0], with b zero; else IMM7 is zero. -/
def VForm.shiftOk (f : VForm) : Bool :=
  if f.imm.getLsbD 6 then f.b == 0 && !f.imm.getLsbD 5 && (!f.isInt || (f.imm.extractLsb' 0 5).toNat < f.width) else f.imm == 0
/-- VRED, VSCAN of FP32 and BF16 have no SAT, of INT32 and UINT32 no rounding and flushing (R389); any other type raises FMT_MISMATCH when the
instruction runs (R328). -/
def VForm.reduceOk (f : VForm) : Bool :=
  if f.ty.toNat < 2 then !f.sat else (f.ty.toNat != 9 && f.ty.toNat != 11) || (f.rm == 0 && !f.fzi && !f.fzo)
/-- The least energy class of an MMA of M = 8 (c + 1) rows (R409, R244). -/
def MForm.mmaClassOk (f : MForm) : Bool := (if f.c.toNat < 2 then 0 else if f.c.toNat < 8 then 1 else if f.c.toNat < 32 then 2 else 3) ≤ f.ec.toNat

/-- The system registers of R320. -/
def sysListed (n : Nat) : Bool :=
  n ≤ 2 || (4 ≤ n && n ≤ 0x25) || (0x30 ≤ n && n ≤ 0x4B) || (0x80 ≤ n && n ≤ 0x2BF)

/-- An instruction's fields are as its form allows. -/
def Instr.wf : Instr → Bool
  | .clz f => !f.wb && f.b == 0
  | .ctz f => !f.wb && f.b == 0
  | .popc f => !f.wb && f.b == 0
  | .sext f => !f.wb
  | .zext f => !f.wb
  | .bswap f => !f.wb && f.b == 0
  | .slli f => f.imm.toNat < 64
  | .srli f => f.imm.toNat < 64
  | .srai f => f.imm.toNat < 64
  | .bz f => f.b == 0
  | .bnz f => f.b == 0
  | .bfull f => f.b == 0
  | .bempty f => f.b == 0
  | .j f => f.d == 0
  | .jr f => !f.wb && f.b == 0 && f.d == 0
  | .jalr f => !f.wb && f.b == 0
  | .rel f => !f.wb && f.b == 0
  | .unbind f => !f.wb && f.b == 0
  | .publish f => !f.wb && f.b == 0 && f.d == 0
  | .bar f => !f.wb && f.b == 0 && f.d == 0
  | .flagw f => !f.wb && f.b == 0
  | .flags f => !f.wb && f.b == 0
  | .flagc f => !f.wb && f.b == 0 && !f.wa && f.a == 0
  | .disp f q => f.unpredicated && f.b == 0 && f.imm.toNat < 65536 && q.toNat < 16 && q.extractLsb' 0 2 != 0 && (q.getLsbD 2 && f.imm != 0 || !q.getLsbD 2 && f.c == 0 && f.imm == 0) && (q.getLsbD 3 || f.d == 0)
  | .sysrd f => !f.wa && !f.wb && sysListed (64 * f.a.toNat + f.b.toNat)
  | .syswr f => !f.wa && !f.wb && sysListed (64 * f.d.toNat + f.b.toNat)
  | .trap f => !f.wa && !f.wb && f.d == 0 && f.a == 0
  | .reti f => !f.wb && f.b == 0 && f.d == 0
  | .rdcc f => !f.wb && f.b == 0 && !f.wa && f.a == 0
  | .rdwork f => !f.wb && f.b == 0 && !f.wa && f.a == 0
  | .aadd f => !f.wa && !f.wb && aReg f.d && aReg f.a && aReg f.b
  | .asub f => !f.wa && !f.wb && aReg f.d && aReg f.a && aReg f.b
  | .amul f => !f.wa && !f.wb && aReg f.d && aReg f.a && aReg f.b
  | .ashl f => !f.wa && !f.wb && aReg f.d && aReg f.a && aReg f.b
  | .ashr f => !f.wa && !f.wb && aReg f.d && aReg f.a && aReg f.b
  | .aand f => !f.wa && !f.wb && aReg f.d && aReg f.a && aReg f.b
  | .amov f => !f.wa && !f.wb && (aReg f.d || lcReg f.d) && aReg f.a && f.b == 0
  | .aaddi f => aReg f.d && aReg f.a
  | .ali f => aReg f.d
  | .lq f => inQueue f.d && aReg f.a
  | .lqb f => inQueue f.d && aReg f.a
  | .sq f => outQueue f.d && aReg f.a
  | .sqs f => outQueue f.d && aReg f.a
  | .lqg f => !f.wa && !f.wb && inQueue f.d && aReg f.a && outQueue f.b
  | .lqt f => f.predicateUsed && inQueue f.d && aReg f.a && aReg f.b && f.c == 0 && f.imm.toNat < 8192
  | .sqt f => f.predicateUsed && outQueue f.d && aReg f.a && aReg f.b && f.c == 0 && f.imm.toNat < 8192
  | .tcopy f => f.predicateUsed && f.d == 0 && aReg f.a && f.b == 0 && f.c == 0 && f.imm.toNat < 1024
  | .tgather f => f.predicateUsed && f.d == 0 && aReg f.a && f.b == 0 && f.c == 0 && f.imm.toNat < 1024
  | .tscatter f => f.predicateUsed && f.d == 0 && aReg f.a && f.b == 0 && f.c == 0 && f.imm.toNat < 1024
  | .tfill f => f.predicateUsed && f.d == 0 && aReg f.a && f.b == 0 && f.c == 0 && f.imm.toNat < 1024
  | .rst f => f.predicateUsed && f.d == 0 && aReg f.a && aReg f.b
  | .rstTk f => f.predicateUsed && aReg f.a && aReg f.b
  | .racc f => f.predicateUsed && f.d == 0 && aReg f.a && aReg f.b && f.c == 0
  | .xwait f => !f.wa && !f.wb && f.d == 0 && f.b != 0
  | .sbq f => !f.wa && !f.wb && f.a.toNat < 16 && f.b == 0
  | .qflush f => !f.wa && !f.wb && f.a.toNat < 8 && f.d == 0 && f.b == 0
  | .qmark f => !f.wa && !f.wb && f.a.toNat < 8 && f.b == 0
  | .vadd f => f.typesOk && vReg f.d && vReg f.a && vReg f.b && f.c == 0 && f.predicateUsed && f.ty2 == 0 && f.imm == 0
  | .vsub f => f.typesOk && vReg f.d && vReg f.a && vReg f.b && f.c == 0 && f.predicateUsed && f.ty2 == 0 && f.imm == 0
  | .vmul f => f.typesOk && vReg f.d && vReg f.a && vReg f.b && f.c == 0 && f.predicateUsed && f.ty2 == 0 && f.imm == 0
  | .vfma f => f.typesOk && vReg f.d && vReg f.a && vReg f.b && vReg f.c && f.predicateUsed && f.ty2 == 0 && f.imm == 0
  | .vfms f => f.typesOk && vReg f.d && vReg f.a && vReg f.b && vReg f.c && f.predicateUsed && f.ty2 == 0 && f.imm == 0
  | .vfnma f => f.typesOk && vReg f.d && vReg f.a && vReg f.b && vReg f.c && f.predicateUsed && f.ty2 == 0 && f.imm == 0
  | .vmax f => f.typesOk && vReg f.d && vReg f.a && vReg f.b && f.c == 0 && f.predicateUsed && f.ty2 == 0 && f.imm == 0
  | .vmin f => f.typesOk && vReg f.d && vReg f.a && vReg f.b && f.c == 0 && f.predicateUsed && f.ty2 == 0 && f.imm == 0
  | .vabs f => f.typesOk && vReg f.d && vReg f.a && f.b == 0 && f.c == 0 && f.predicateUsed && f.ty2 == 0 && f.imm == 0
  | .vneg f => f.typesOk && vReg f.d && vReg f.a && f.b == 0 && f.c == 0 && f.predicateUsed && f.ty2 == 0 && f.imm == 0
  | .vrcp f => f.typesOk && vReg f.d && vReg f.a && f.b == 0 && f.c == 0 && f.predicateUsed && f.ty2 == 0 && f.imm == 0
  | .vrsqrt f => f.typesOk && vReg f.d && vReg f.a && f.b == 0 && f.c == 0 && f.predicateUsed && f.ty2 == 0 && f.imm == 0
  | .vsqrt f => f.typesOk && vReg f.d && vReg f.a && f.b == 0 && f.c == 0 && f.predicateUsed && f.ty2 == 0 && f.imm == 0
  | .vexp2 f => f.typesOk && vReg f.d && vReg f.a && f.b == 0 && f.c == 0 && f.predicateUsed && f.ty2 == 0 && f.imm == 0
  | .vlog2 f => f.typesOk && vReg f.d && vReg f.a && f.b == 0 && f.c == 0 && f.predicateUsed && f.ty2 == 0 && f.imm == 0
  | .vdiv f => f.typesOk && vReg f.d && vReg f.a && vReg f.b && f.c == 0 && f.predicateUsed && f.ty2 == 0 && f.imm == 0
  | .vaddi f => f.typesOk && vReg f.d && vReg f.a && vReg f.b && f.c == 0 && f.predicateUsed && f.ty2 == 0 && f.rm == 0 && !f.fzi && !f.fzo && f.imm == 0
  | .vsubi f => f.typesOk && vReg f.d && vReg f.a && vReg f.b && f.c == 0 && f.predicateUsed && f.ty2 == 0 && f.rm == 0 && !f.fzi && !f.fzo && f.imm == 0
  | .vmuli f => f.typesOk && vReg f.d && vReg f.a && vReg f.b && f.c == 0 && f.predicateUsed && f.ty2 == 0 && f.rm == 0 && !f.fzi && !f.fzo && f.imm == 0
  | .vand f => f.typesOk && vReg f.d && vReg f.a && vReg f.b && f.c == 0 && f.predicateUsed && f.ty2 == 0 && f.rm == 0 && !f.fzi && !f.fzo && !f.sat && f.imm == 0
  | .vor f => f.typesOk && vReg f.d && vReg f.a && vReg f.b && f.c == 0 && f.predicateUsed && f.ty2 == 0 && f.rm == 0 && !f.fzi && !f.fzo && !f.sat && f.imm == 0
  | .vxor f => f.typesOk && vReg f.d && vReg f.a && vReg f.b && f.c == 0 && f.predicateUsed && f.ty2 == 0 && f.rm == 0 && !f.fzi && !f.fzo && !f.sat && f.imm == 0
  | .vnot f => f.typesOk && vReg f.d && vReg f.a && f.b == 0 && f.c == 0 && f.predicateUsed && f.ty2 == 0 && f.rm == 0 && !f.fzi && !f.fzo && !f.sat && f.imm == 0
  | .vshl f => f.typesOk && vReg f.d && vReg f.a && vReg f.b && f.c == 0 && f.predicateUsed && f.ty2 == 0 && f.rm == 0 && !f.fzi && !f.fzo && !f.sat && f.shiftOk
  | .vshr f => f.typesOk && vReg f.d && vReg f.a && vReg f.b && f.c == 0 && f.predicateUsed && f.ty2 == 0 && f.rm == 0 && !f.fzi && !f.fzo && !f.sat && f.shiftOk
  | .vsra f => f.typesOk && vReg f.d && vReg f.a && vReg f.b && f.c == 0 && f.predicateUsed && f.ty2 == 0 && f.rm == 0 && !f.fzi && !f.fzo && !f.sat && f.shiftOk
  | .vmaxi f => f.typesOk && vReg f.d && vReg f.a && vReg f.b && f.c == 0 && f.predicateUsed && f.ty2 == 0 && f.rm == 0 && !f.fzi && !f.fzo && !f.sat && f.imm == 0
  | .vmini f => f.typesOk && vReg f.d && vReg f.a && vReg f.b && f.c == 0 && f.predicateUsed && f.ty2 == 0 && f.rm == 0 && !f.fzi && !f.fzo && !f.sat && f.imm == 0
  | .vcmp f => f.typesOk && vReg f.d && vReg f.a && vReg f.b && f.c == 0 && f.predicateUsed && f.ty2 == 0 && f.rm == 0 && !f.sat && !f.fzo && f.compareOk
  | .vsel f => f.typesOk && vReg f.d && vReg f.a && vReg f.b && f.c == 0 && f.predicateUsed && f.ty2 == 0 && !f.fzi && !f.fzo && !f.sat && f.rm == 0 && f.imm == 0
  | .vmov f => f.typesOk && vReg f.d && vReg f.a && f.b == 0 && f.c == 0 && f.predicateUsed && f.ty2 == 0 && !f.fzi && !f.fzo && !f.sat && f.rm == 0 && (f.imm == 0 || (f.imm == 1 && f.a == 0))
  | .vbcast f => f.typesOk && vReg f.d && vReg f.a && f.b == 0 && f.c == 0 && f.predicateUsed && f.ty2 == 0 && !f.fzi && !f.fzo && !f.sat && f.rm == 0 && f.elementOk
  | .vins f => f.typesOk && vReg f.d && vReg f.a && f.b == 0 && f.c == 0 && f.predicateUsed && f.ty2 == 0 && !f.fzi && !f.fzo && !f.sat && f.rm == 0 && f.elementOk
  | .vext f => f.typesOk && vReg f.d && vReg f.a && f.b == 0 && f.c == 0 && f.predicateUsed && f.ty2 == 0 && !f.fzi && !f.fzo && !f.sat && f.rm == 0 && f.elementOk
  | .vperm f => f.typesOk && vReg f.d && vReg f.a && vReg f.b && f.c == 0 && f.predicateUsed && f.ty2 == 0 && !f.fzi && !f.fzo && !f.sat && f.rm == 0 && f.imm == 0
  | .vshuf f => f.typesOk && vReg f.d && vReg f.a && vReg f.b && f.c == 0 && f.predicateUsed && f.ty2 == 0 && !f.fzi && !f.fzo && !f.sat && f.rm == 0 && f.imm.toNat < 4
  | .vrot f => f.typesOk && vReg f.d && vReg f.a && f.b == 0 && f.c == 0 && f.predicateUsed && f.ty2 == 0 && !f.fzi && !f.fzo && !f.sat && f.rm == 0 && f.elementOk
  | .vred f => f.typesOk && vReg f.d && vReg f.a && f.b == 0 && f.c == 0 && f.predicateUsed && f.ty2 == 0 && f.imm.toNat < 3 && f.reduceOk
  | .vscan f => f.typesOk && vReg f.d && vReg f.a && f.b == 0 && f.c == 0 && f.predicateUsed && f.ty2 == 0 && f.imm.toNat < 3 && f.reduceOk
  | .vcvt f => f.typesOk && vReg f.d && vReg f.a && f.b == 0 && f.c == 0 && f.predicateUsed && f.imm.toNat < 8
  | .vquant f => f.typesOk && vReg f.d && vReg f.a && vReg f.b && f.c == 0 && f.predicateUsed && f.imm.extractLsb' 0 2 != 0
  | .vdequant f => f.typesOk && vReg f.d && vReg f.a && vReg f.b && f.c == 0 && f.predicateUsed && f.imm.extractLsb' 0 2 != 0
  | .vscale f => f.typesOk && vReg f.d && vReg f.a && f.b == 0 && f.c == 0 && f.predicateUsed && f.imm.extractLsb' 0 2 != 0 && !f.sat && !f.fzi && !f.fzo && (f.ty == 8 || f.rm == 0)
  | .cpush f => f.typesOk && cReg f.d && vReg f.a && f.b == 0 && f.c == 0 && f.predicateUsed && f.ty2 == 0 && !f.fzi && !f.fzo && !f.sat && f.rm == 0 && f.imm == 0
  | .cpop f => f.typesOk && vReg f.d && cReg f.a && f.b == 0 && f.c == 0 && f.unpredicated && f.ty2 == 0 && !f.fzi && !f.fzo && !f.sat && f.rm == 0 && f.imm.toNat < 16
  | .cbal f => f.typesOk && cReg f.d && f.a == 0 && f.b == 0 && f.c == 0 && f.unpredicated && f.ty2 == 0 && !f.fzi && !f.fzo && !f.sat && f.rm == 0 && f.imm == 0
  | .kand f => f.unpredicated && f.ty == 0 && f.ty2 == 0 && !f.fzi && !f.fzo && !f.sat && f.rm == 0 && f.imm == 0 && f.c == 0 && kReg f.d && f.d != 0 && kReg f.a && kReg f.b
  | .kor f => f.unpredicated && f.ty == 0 && f.ty2 == 0 && !f.fzi && !f.fzo && !f.sat && f.rm == 0 && f.imm == 0 && f.c == 0 && kReg f.d && f.d != 0 && kReg f.a && kReg f.b
  | .kxor f => f.unpredicated && f.ty == 0 && f.ty2 == 0 && !f.fzi && !f.fzo && !f.sat && f.rm == 0 && f.imm == 0 && f.c == 0 && kReg f.d && f.d != 0 && kReg f.a && kReg f.b
  | .knot f => f.unpredicated && f.ty == 0 && f.ty2 == 0 && !f.fzi && !f.fzo && !f.sat && f.rm == 0 && f.imm == 0 && f.c == 0 && kReg f.d && f.d != 0 && kReg f.a && f.b == 0
  | .kpop f => f.unpredicated && f.ty == 0 && f.ty2 == 0 && !f.fzi && !f.fzo && !f.sat && f.rm == 0 && f.imm == 0 && f.c == 0 && kReg f.d && f.d != 0 && kReg f.a && f.b == 0
  | .kmov f => f.unpredicated && f.ty == 0 && f.ty2 == 0 && !f.fzi && !f.fzo && !f.sat && f.rm == 0 && f.imm == 0 && f.c == 0 && kReg f.d && f.d != 0 && kReg f.a && f.b == 0
  | .vpop f => f.ty == 0 && f.ty2 == 0 && !f.fzi && !f.fzo && !f.sat && f.rm == 0 && f.imm == 0 && f.b == 0 && f.c == 0 && f.predicateUsed && vReg f.d && f.a.toNat < 4
  | .vpush f => f.ty == 0 && f.ty2 == 0 && !f.fzi && !f.fzo && !f.sat && f.rm == 0 && f.imm == 0 && f.b == 0 && f.c == 0 && f.unpredicated && outQueue f.d && vReg f.a
  | .mnop f => f.predicateUsed && f.d == 0 && f.a == 0 && f.b == 0 && f.c == 0 && f.rm == 0 && !f.sat && !f.fzo && f.ty == 0
  | .mstamp f => f.unpredicated && f.d == 0 && f.c == 0 && f.dt == 0 && f.rm == 0 && !f.sat && !f.fzo && f.ty == 0
  | .mstampAl f => f.unpredicated && f.d == 1 && f.a != 0 && f.a.toNat < 33 && f.c == 0 && f.dt == 0 && f.rm == 0 && !f.sat && !f.fzo && f.ty == 0
  | .mmode f => f.unpredicated && f.d.toNat < 2 && f.a == 0 && f.b == 0 && f.c == 0 && f.rm == 0 && !f.sat && !f.fzo && f.ty == 0
  | .mwait f => f.unpredicated && f.a == 0 && f.c == 0 && f.rm == 0 && !f.sat && !f.fzo && f.ty == 0
  | .mtscale f => f.predicateUsed && f.d.toNat < 2 && f.c.toNat < 16 && f.rm == 0 && !f.sat && !f.fzo && f.ty == 0
  | .mtscaleQ f => f.predicateUsed && (f.d == 2 || f.d == 3) && f.a.toNat < 2 && f.b == 0 && f.c == 0 && f.rm == 0 && !f.sat && !f.fzo && f.ty == 0
  | .mnstat f => f.predicateUsed && f.a != 0 && f.d.toNat + f.a.toNat < 17 && f.b == 0 && f.c == 0 && f.rm == 0 && !f.sat && !f.fzo && f.ty == 0
  | .mroute f => f.predicateUsed && f.d == 0 && f.a.toNat < 2 && f.b == 0 && f.c == 0 && f.rm == 0 && !f.sat && !f.fzo && f.ty == 0
  | .mwld f => f.predicateUsed && f.a.toNat < 2 && 1 <= 64 * f.c.toNat + f.b.toNat && 64 * f.c.toNat + f.b.toNat <= 1024 && f.ec != 0 && f.rm == 0 && !f.sat && !f.fzo && f.ty == 0
  | .mwsel f => f.predicateUsed && f.a.toNat < 2 && f.b == 0 && f.c == 0 && f.ec != 0 && f.rm == 0 && !f.sat && !f.fzo && f.ty == 0
  | .mma f => f.predicateUsed && f.ty.toNat < 14 && f.rm == 0 && !f.sat && !f.fzo && f.mmaClassOk
  | .mmaz f => f.predicateUsed && f.ty.toNat < 14 && f.rm == 0 && !f.sat && !f.fzo && f.mmaClassOk
  | .mhad f => f.predicateUsed && f.ty.toNat < 14 && !f.sat && !f.fzo && f.ec != 0 && (f.a == 0 || ((f.a == 1 || f.a == 3) && f.d == 0 && f.c == 0))
  | .mquant f => f.predicateUsed && f.ty.toNat < 14 && f.ec != 0 && (f.ty == 8 || f.b.extractLsb' 4 2 == 0)
  | .mdrain f => f.predicateUsed && f.ty.toNat < 14 && f.ec != 0
  | .maccld f => f.predicateUsed && f.a.toNat < 2 && f.b == 0 && f.ec != 0 && f.rm == 0 && !f.sat && !f.fzo && f.ty == 0
  | .maccst f => f.predicateUsed && f.a == 0 && f.ec != 0 && f.rm == 0 && !f.sat && !f.fzo && f.ty == 0
  | .mzero f => f.predicateUsed && f.a == 0 && f.b == 0 && f.rm == 0 && !f.sat && !f.fzo && f.ty == 0
  | .cinc f => f.unpredicated && f.b == 0 && f.c == 0 && f.imm == 0
  | .cset f => f.unpredicated && f.c == 0 && f.imm == 0
  | .cadd f => f.unpredicated && f.c == 0 && f.imm == 0
  | .cread f => f.unpredicated && f.b == 0 && f.c == 0 && f.imm == 0
  | .cwait f => f.unpredicated && f.c == 0 && f.imm == 0
  | .arm f => f.unpredicated && f.b == 0 && f.c == 0 && f.imm.toNat < 2
  | .disarm f => f.unpredicated && f.b == 0 && f.c == 0 && f.imm == 0
  | .armq f => f.unpredicated && f.c == 0 && f.imm == 0
  | .trig f => f.unpredicated && f.b == 0 && f.c == 0 && f.imm == 0
  | .kick f => f.unpredicated && f.imm == 0
  | .launch f => f.unpredicated && f.c == 0 && f.imm.toNat < 8
  | .patch f => f.unpredicated && f.imm == 0
  | .patchM f => f.unpredicated && f.imm == 1
  | .qctlTickets f => f.unpredicated && f.c == 0 && f.imm == 0
  | .qctlFlush f => f.unpredicated && f.c == 0 && f.imm == 1
  | .qctlPreempt f => f.unpredicated && f.c == 0 && f.imm == 2
  | .qctlRead f => f.unpredicated && f.c == 0 && f.imm == 3
  | .coll f => f.unpredicated && f.b == 0 && f.c == 0 && f.imm.toNat < 16
  | .collabort f => f.unpredicated && f.b == 0 && f.c == 0 && f.imm.toNat < 16 && f.a == 0
  | .usend f => f.unpredicated && f.b == 0 && f.c == 0 && f.imm.toNat < 2
  | .uputRma f => f.unpredicated && f.c == 0 && f.imm.toNat < 4
  | .uputHost f => f.unpredicated && f.c == 0 && f.imm.toNat < 4
  | .mrecv f => f.unpredicated
  | .mpoll f => f.unpredicated
  | .mreply f => f.unpredicated && f.c == 0
  | .mdone f => f.unpredicated && f.b == 0 && f.c == 0 && f.imm == 0 && f.a == 0 && f.d == 0
  | .mapVa f => f.unpredicated && f.c == 0 && f.imm.toNat < 4096 && kindBits f.imm == 0 && midBits f.imm == 0
  | .mapTensor f => f.unpredicated && f.c == 0 && f.imm.toNat < 1024 && kindBits f.imm == 1 && midBits f.imm == 0
  | .mapChunk f => f.unpredicated && f.c == 0 && f.imm.toNat < 1024 && kindBits f.imm == 2 && midBits f.imm == 0
  | .unmapVa f => f.unpredicated && f.b == 0 && f.c == 0 && f.imm.toNat < 1024 && kindBits f.imm == 0 && !f.imm.getLsbD 3
  | .unmapTensor f => f.unpredicated && f.b == 0 && f.c == 0 && f.imm.toNat < 1024 && kindBits f.imm == 1 && midBits f.imm == 0
  | .unmapChunk f => f.unpredicated && f.b == 0 && f.c == 0 && f.imm.toNat < 1024 && kindBits f.imm == 2 && midBits f.imm == 0
  | .lease f => f.unpredicated && f.c == 0 && f.imm.toNat < 1024 && kindBits f.imm == 0 && midBits f.imm == 0
  | .sdown f => f.unpredicated && f.b == 0 && f.c == 0 && f.imm.toNat < 1024 && kindBits f.imm == 0 && midBits f.imm == 0
  | .snap f => f.unpredicated && f.b == 0 && f.c == 0 && f.imm == 0 && f.a == 0
  | .muster f => f.unpredicated && f.b == 0 && f.c == 0 && f.imm.toNat < 512 && kindBits f.imm == 0 && !f.imm.getLsbD 8
  | .musterRelease f => f.unpredicated && f.a == 0 && f.b == 0 && f.c == 0 && f.imm.toNat < 512 && kindBits f.imm == 1 && !f.imm.getLsbD 8
  | .musterHamper f => f.unpredicated && f.imm.toNat < 512 && kindBits f.imm == 2
  | .musterRestore f => f.unpredicated && f.a == 0 && f.imm.toNat < 512 && kindBits f.imm == 3 && !f.imm.getLsbD 8
  | .rollcall f => f.unpredicated && f.c == 0 && f.imm == 0
  | .rstepWindow f => f.unpredicated && f.c == 0 && f.imm == 0
  | .rstepCount f => f.unpredicated && f.imm == 1
  | .rstepOpen f => f.unpredicated && f.b == 0 && f.c == 0 && f.imm == 2
  | .mpsetPoint f => f.unpredicated && f.imm == 0
  | .mpsetVec f => f.unpredicated && f.c == 0 && f.imm == 1
  | .stepSend f => f.cm != 3 && !f.wd && !f.ns && !f.fw && !f.iw && !f.tr
  | .stepRecv f => f.cm != 3 && !f.wd && !f.ns && !f.iw && (!f.tr || f.pk == 0)
  | .stepRrs f => f.cm != 3 && !(f.iw && f.tr) && (!f.tr || f.pk == 0) && (f.tr || f.wd || !f.ns)
  | .stepCopy f => f.cm != 3 && !f.wd && !f.ns && !f.fw && !f.iw && !f.tr
  | .stepLoop f => f.len != 0
  | .packageReset => true
  | .resetNRelease _ => true
  | .thermalHot _ _ => true
  | .thermtrip _ => true
  | .powerPeriodEnd _ => true
  | .pkgLimitWrite _ => true
  | .lifetimeRewrite _ => true
  | .attestationRequest _ => true
  | .attestationReportSigned => true
  | .setdasa _ _ => true
  | .entdaa _ => true
  | .flitReceive _ _ => true
  | .nakReceive _ _ => true
  | .nakResendTimeout _ => true
  | .goBackTimeout _ => true
  | .nakExhausted _ => true
  | .lossOfSignal _ => true
  | .trainingAttempt _ => true
  | .trainingEnd _ _ => true
  | .lendPeriodEnd _ => true
  | .lendReceive _ _ => true
  | .packetForward _ => true
  | .rstPacket _ => true
  | .raccPacket _ => true
  | .msgPacket _ => true
  | .redPacket _ => true
  | .ackPacket _ => true
  | .tkqPacket _ => true
  | .tkaPacket _ => true
  | .tkqRetry _ _ => true
  | .tokenExpiry _ => true
  | .holdQueueFull _ => true
  | .tokenTableFull => true
  | .sdownPacket _ => true
  | .sdackPacket _ => true
  | .sdownNodeTimeout _ => true
  | .shootdownRootTimeout _ => true
  | .leaseWaitExpiry _ => true
  | .fencePacket _ => true
  | .fenceClrPacket _ => true
  | .pathrstPacket _ => true
  | .ctsNotice _ => true
  | .acceptNotice _ => true
  | .repeatNotice _ => true
  | .stepokNotice _ => true
  | .abortNotice _ => true
  | .decideNotice _ => true
  | .reportNotice _ => true
  | .alldoneNotice _ => true
  | .musterNotice _ => true
  | .taggedSendArrival _ => true
  | .rmaWriteArrival _ => true
  | .continuationPacket _ _ _ => true
  | .deliveryContextFailure _ => true
  | .uudPacket _ => true
  | .uetDelivery _ _ => true
  | .hostApertureWrite _ _ _ => true
  | .doorbell _ _ _ => true
  | .hostUnsupportedRead _ => true
  | .bar0Access _ _ _ => true
  | .arrivalMatch => true
  | .depositCompletion _ => true
  | .windowDelivery => true
  | .engineSignal => true
  | .counterRegisterWrite _ _ => true
  | .actionLaunch => true
  | .actionCopy => true
  | .actionSend => true
  | .actionRst => true
  | .actionInc => true
  | .actionKick => true
  | .actionThread => true
  | .actionRel => true
  | .threadDispatch _ => true
  | .threadWatchdog _ => true
  | .acqGrant _ _ => true
  | .acqTimeout _ _ => true
  | .fenceRfTimeout _ => true
  | .publishExchange _ => true
  | .variableResultWrite _ _ => true
  | .remoteFlagSignal _ _ => true
  | .lotteryDraw _ => true
  | .taskRetire _ => true
  | .taskRemoval _ => true
  | .rerunSlotEntry _ => true
  | .commandQueueTake _ _ => true
  | .blockComplete _ _ => true
  | .lockstepEntry _ => true
  | .matchPointHit _ _ => true
  | .hangTimeout _ => true
  | .wfeTimeout _ => true
  | .scoreboardStallExpiry _ => true
  | .energyRefill => true
  | .preemptStop _ _ => true
  | .preemptTimeout _ => true
  | .copyPiece _ _ => true
  | .copyResume _ _ => true
  | .copyRetire _ _ => true
  | .pageIn _ _ _ => true
  | .pageMigration _ => true
  | .drainComplete _ _ => true
  | .collectiveStart _ => true
  | .transferTake _ _ => true
  | .collLate _ => true
  | .kickExpand => true
  | .noticeTake => true
  | .schedulerTakeover => true
  | .schedulerStop => true
  | .saveAreaLost _ _ => true
  | .musterDrained _ => true
  | .undoBlockMove _ => true
  | .replayInputInject _ => true
  | .preciseStopReached _ => true
  | .snapshotLatch => true
  | .traceSample _ => true
  | .contextCreate _ => true
  | .contextDestroy _ => true
  | .straitGeomWrite _ => true
  | .windowEntryWrite _ _ _ => true
  | .txdstWrite _ _ => true
  | .xlatCtlWrite _ => true
  | .townWrite _ _ => true
  | .cengOwnWrite _ _ => true
  | .itinWrite _ _ _ => true
  | .undowinOldestWrite _ _ => true
  | .replayPlayClear _ => true
  | .registerWrite _ _ => true
  | .registerReadClear _ => true
  | .blockHeader f => if f.lcv then f.count == 0 else f.lcn == 0
  | .add _ => true
  | .sub _ => true
  | .and _ => true
  | .or _ => true
  | .xor _ => true
  | .andn _ => true
  | .sll _ => true
  | .srl _ => true
  | .sra _ => true
  | .mul _ => true
  | .mulh _ => true
  | .mulhn _ => true
  | .div _ => true
  | .divn _ => true
  | .rem _ => true
  | .remn _ => true
  | .min _ => true
  | .max _ => true
  | .minn _ => true
  | .maxn _ => true
  | .slt _ => true
  | .sltn _ => true
  | .seq _ => true
  | .sne _ => true
  | .sel _ => true
  | .addi _ => true
  | .andi _ => true
  | .ori _ => true
  | .xori _ => true
  | .slti _ => true
  | .sltni _ => true
  | .li _ => true
  | .lih _ => true
  | .beq _ => true
  | .bne _ => true
  | .blt _ => true
  | .bge _ => true
  | .bltn _ => true
  | .bgen _ => true
  | .jal _ => true
  | .ldb _ => true
  | .ldbz _ => true
  | .ldh _ => true
  | .ldhz _ => true
  | .ldw _ => true
  | .ldwz _ => true
  | .ldd _ => true
  | .fill _ => true
  | .stb _ => true
  | .sth _ => true
  | .stw _ => true
  | .std _ => true
  | .spill _ => true
  | .amoadd _ => true
  | .amoand _ => true
  | .amoor _ => true
  | .amoxor _ => true
  | .amomin _ => true
  | .amomax _ => true
  | .amominn _ => true
  | .amomaxn _ => true
  | .amoswap _ => true
  | .amocas _ => true
  | .amoaddI32 _ => true
  | .amoandI32 _ => true
  | .amoorI32 _ => true
  | .amoxorI32 _ => true
  | .amominI32 _ => true
  | .amomaxI32 _ => true
  | .amominnN32 _ => true
  | .amomaxnN32 _ => true
  | .amoswapI32 _ => true
  | .amocasI32 _ => true
  | .amofaddF32 _ => true
  | .acq _ => true
  | .acqt _ => true
  | .bind _ => true
  | .fence => true
  | .fenceRf => true
  | .nop => true
  | .mpret => true
  | .wfe => true
  | .halt => true
  | .etrig => true
  | .tdone => true
  | .mark => true
  | .nopC => true
  | .addC _ => true
  | .subC _ => true
  | .andC _ => true
  | .orC _ => true
  | .xorC _ => true
  | .addiC _ => true
  | .slliC _ => true
  | .srliC _ => true
  | .sraiC _ => true
  | .liC _ => true
  | .addS0C _ => true
  | .lddC _ => true
  | .stdC _ => true
  | .aaddC _ => true
  | .aaddiC _ => true
  | .amovC _ => true
  | .vmovC _ => true
  | .mnopC _ => true
  | .stepWait _ => true
  | .stepEnd => true
  | .unallocatedEncoding _ => true
  | .uncorrectableError _ => true
  | .correctableError _ _ => true
  | .storePerformed _ => true
  | .operandQueueFill _ _ => true
  | .hostWriteAccepted => true
  | .slotTableUpdate _ => true
  | .missedHeartbeats _ => true

end Sys2Proof
end

