-- ==== Sys2Proof/Machine/Base.lean ====
section
/-! DEFINITION. The parties of the machine: their registers, results in flight and issue; reports, translation and the undo log. -/
namespace Sys2Proof

/-! ## Parties and causes -/

/-- The tile of a stream. -/
def Who.tile? : Who → Option Nat
  | .stream t _ => some t
  | _ => none

/-- The stream number of a party; a thread counts as its own control stream. -/
def Who.num : Who → Nat
  | .stream _ k => k
  | _ => 0

def Who.isThread : Who → Bool
  | .thread _ => true
  | _ => false

/-- SRC of an undo record by the party that writes (R273). -/
def Who.src : Who → Nat
  | .stream _ k => k
  | .thread _ => 6
  | .engine _ => 5

def Cause.code (c : Cause) : Nat := c.ctorIdx

def Cause.resumable (c : Cause) : Bool :=
  match c with
  | .feTrap | .divZero | .schedMiss | .scoreboardFull | .acqTimeout | .fenceRfTimeout | .publishConflict | .preempt | .breakTrap
  | .matchpoint | .undoLogFull => true
  | _ => false

/-- A cause that is recorded for system software whether or not it stops a stream. -/
def Cause.reports (c : Cause) : Bool :=
  match c with
  | .rsvField | .relNotHeld | .tokenExpired | .linkDown | .chipFencedOff | .copyPageFault | .windowUnmapped | .migrating
  | .watchdogHang | .taskqFull | .eccUncorrectable | .internal => true
  | _ => false

/-- The tile a party writes its undo records for. -/
def Who.undoTile (w : Who) : Nat := w.tile?.getD 0

end Sys2Proof

namespace Sys2Proof.Machine
open Sys2Proof

/-- What a meaning answers. -/
abbrev Ans := Host.Outcome State Fault Refusal

/-- How far an instruction's checks have come: a value, a stall with the state it leaves, a cause with its INFO, or PERM at an address
whose translation has filled a TLB entry first (R112). -/
inductive Res (α : Type) where
  | ok (v : α)
  | stall (why : Stall) (s : State)
  | raise (c : Cause) (info : Word)
  | denied (va : Word) (w : Who) (e : TlbEntry)
  | fault (f : Fault)
  deriving DecidableEq

def Res.bind {α β : Type} (r : Res α) (k : α → Res β) : Res β :=
  match r with
  | .ok v => k v
  | .stall w s => .stall w s
  | .raise c i => .raise c i
  | .denied va w e => .denied va w e
  | .fault f => .fault f

/-- A check that raises a cause when it fails. -/
def Res.check (ok : Bool) (c : Cause) (info : Word := 0) : Res Unit := if ok then .ok () else .raise c info

/-! ## Tiles, threads, streams -/

def State.tile (s : State) (t : Nat) : Tile := tget Tile.idle s.tiles t
def State.setTile (s : State) (t : Nat) (x : Tile) : State := { s with tiles := tput Tile.idle s.tiles t x }
def State.modTile (s : State) (t : Nat) (f : Tile → Tile) : State := s.setTile t (f (s.tile t))

def State.thr (s : State) (n : Nat) : Thread := tget Thread.idle s.threads n
def State.setThr (s : State) (n : Nat) (x : Thread) : State := { s with threads := tput Thread.idle s.threads n x }
def State.modThr (s : State) (n : Nat) (f : Thread → Thread) : State := s.setThr n (f (s.thr n))

/-- The scalar registers of a party: those of its tile, or of the thread. -/
def State.scal (s : State) (w : Who) : Scalars :=
  match w with
  | .stream t _ => (s.tile t).sc
  | .thread n => (s.thr n).sc
  | .engine _ => .idle

def State.modScal (s : State) (w : Who) (f : Scalars → Scalars) : State :=
  match w with
  | .stream t _ => s.modTile t fun x => { x with sc := f x.sc }
  | .thread n => s.modThr n fun x => { x with sc := f x.sc }
  | .engine _ => s

def Tile.stream (x : Tile) (k : Nat) : Stream := tget Stream.idle x.streams k
def Tile.setStream (x : Tile) (k : Nat) (st : Stream) : Tile := { x with streams := tput Stream.idle x.streams k st }

def State.strm (s : State) (w : Who) : Stream :=
  match w with
  | .stream t k => (s.tile t).stream k
  | .thread n => (s.thr n).st
  | .engine _ => .idle

def State.modStrm (s : State) (w : Who) (f : Stream → Stream) : State :=
  match w with
  | .stream t k => s.modTile t fun x => x.setStream k (f (x.stream k))
  | .thread n => s.modThr n fun x => { x with st := f x.st }
  | .engine _ => s

def CollEng.ctx (e : CollEng) : Nat := (e.run.map (·.c.ctx)).getD 0

def State.coll (s : State) (n : Nat) : CollEng := tget CollEng.idle s.colls n
def State.setColl (s : State) (n : Nat) (e : CollEng) : State := { s with colls := tput CollEng.idle s.colls n e }

/-- The context a tile's task, else its owner, runs in. -/
def State.ctxOfTile (s : State) (t : Nat) : Nat :=
  match (s.tile t).task with
  | some k => k.t.ctx
  | none => (s.tileCtx t).getD 0

def State.ctxOf (s : State) (w : Who) : Nat :=
  match w with
  | .stream t _ => s.ctxOfTile t
  | .thread n => (s.thr n).ctx
  | .engine n => (s.coll n).ctx

def CtxLog.of (s : State) (c : Nat) : CtxLog := tget CtxLog.idle s.logs c
def State.modLog (s : State) (c : Nat) (f : CtxLog → CtxLog) : State := { s with logs := tmod CtxLog.idle s.logs c f }

def State.muster (s : State) (c : Nat) : Muster := tget Muster.idle s.musters c
def State.modMuster (s : State) (c : Nat) (f : Muster → Muster) : State := { s with musters := tmod Muster.idle s.musters c f }

/-- PLAY of a context: recorded inputs enter in place of live ones, and nothing leaves the chip (R285). -/
def State.playing (s : State) (c : Nat) : Bool := bit (s.cx c cREPLAY) 1
def State.recording (s : State) (c : Nat) : Bool := bit (s.cx c cREPLAY) 0 && !s.playing c

/-- A context's threads do not run and its firings are held: it is not in RUN, or its replay has come to where the MUSTER that
ended the recorded interval began (R261, R285). -/
def State.paused (s : State) (c : Nat) : Bool :=
  s.mstate c != 0 ||
    (s.playing c && (CtxLog.of s c).stopWork.any fun e =>
      e.1 == (CtxLog.of s c).playIv && e.2.1 == 256 && decide (e.2.2.headD 0 ≤ (s.ccc - (CtxLog.of s c).playStart).toNat))

/-- The start serial of a party's task or run (R131). -/
def State.runOf (s : State) (w : Who) : Nat :=
  match w with
  | .stream t _ => ((s.tile t).task.map (·.serial.toNat)).getD 0
  | .thread n => (s.thr n).serial.toNat
  | .engine _ => 0

/-- A task or run is over: what it sent needs no answer any more; an answer that it did not report goes (R141). -/
def State.forgetSent (s : State) (w : Who) (run : Nat) : State :=
  let of' (e : Option Who) (r : Nat) : Bool := r == run && (match e with
    | some u => u == w || (u.tile?.isSome && u.tile? == w.tile?)
    | none => false)
  { s with sent := (s.sent.filter fun e => !(of' e.who e.run && e.status.isSome)).map fun e => if of' e.who e.run && e.send.isNone then { e with who := none } else e }

/-- Draw a free value (log entry 5). -/
def State.drawWord (s : State) : Word × State := (Config.freeWord s.freeCount, { s with freeCount := s.freeCount + 1 })

/-- A new identity for an operation. -/
def State.fresh (s : State) : Nat × State := (s.nextId, { s with nextId := s.nextId + 1 })

def State.emit (s : State) (o : Out) : State := { s with out := o :: s.out }

/-! ## Scalar registers and the exposed pipeline (R228, R231) -/

def Scalars.get (c : Scalars) (r : BitVec 6) : Word := if r = 0 then 0 else tget 0 c.regs r.toNat

/-- Write a register; s0 discards. -/
def Scalars.set (c : Scalars) (r : BitVec 6) (v : Word) : Scalars :=
  if r = 0 then c else { c with regs := tput 0 c.regs r.toNat v }

def Scalars.isEmpty (c : Scalars) (r : BitVec 6) : Bool := r != 0 && c.empty.contains r.toNat
def Scalars.markEmpty (c : Scalars) (r : BitVec 6) : Scalars :=
  if r = 0 then c else { c with empty := r.toNat :: c.empty.filter (· != r.toNat) }
def Scalars.markFull (c : Scalars) (r : BitVec 6) : Scalars := { c with empty := c.empty.filter (· != r.toNat) }

/-- Write the results that have no step left, in issue order. -/
def landPends : List Pend → Scalars → Scalars
  | [], c => c
  | p :: ps, c =>
    if p.rem ≤ 1 then landPends ps (c.set p.reg p.val)
    else let c' := landPends ps c; { c' with pend := { p with rem := p.rem - 1 } :: c'.pend }

/-- One issue step passes: results due at the next step are written (R228). -/
def Scalars.age (c : Scalars) : Scalars := landPends c.pend { c with pend := [] }

def State.rd (s : State) (w : Who) (r : BitVec 6) : Word := (s.scal w).get r
def State.isEmpty (s : State) (w : Who) (r : BitVec 6) : Bool := (s.scal w).isEmpty r

/-- The current party's register. -/
def State.rs (s : State) (r : BitVec 6) : Word := s.rd s.cur r

/-- Enter a fixed-latency result of the instruction at issue; s0 takes none. -/
def State.fixed (s : State) (d : BitVec 6) (lat : Nat) (v opa opb : Word) (reread : Bool := false) : State :=
  if d = 0 then s
  else
    let p : Pend :=
      { id := s.nextId, reg := d, val := v, rem := lat, insn := s.curInsn, pc := (s.strm s.cur).pc, opa := opa, opb := opb, reread := reread }
    { s.modScal s.cur (fun c => { c with pend := c.pend ++ [p] }) with nextId := s.nextId + 1 }

/-- Start a variable-latency operation: its destination empties and its value comes later (R231). -/
def State.startOp (s : State) (d : BitVec 6) (what : VarKind) (notBefore : Nat) (command : Bool) (opa opb : Word) : State :=
  let op : VarOp :=
    { id := s.nextId, reg := d, insn := s.curInsn, stream := s.cur.num, pc := (s.strm s.cur).pc, notBefore := s.ccc + BitVec.ofNat 64 notBefore,
      since := s.ccc, what := what, command := command, opa := opa, opb := opb }
  { s.modScal s.cur (fun c => { c.markEmpty d with ops := c.ops ++ [op] }) with nextId := s.nextId + 1 }

/-- Apply a function to the operation of an identity. -/
def State.modOp (s : State) (w : Who) (id : Nat) (f : VarOp → VarOp) : State :=
  s.modScal w fun c => { c with ops := c.ops.map fun o => if o.id = id then f o else o }

/-- Apply a function to every operation in flight, those that a match-point handler holds frozen included. -/
def State.mapOps (s : State) (f : VarOp → VarOp) : State :=
  let on (c : Scalars) : Scalars := { c with ops := c.ops.map f }
  { s with
    tiles := s.tiles.map fun e => (e.1, { e.2 with sc := on e.2.sc, handler := e.2.handler.map fun h => { h with saved := on h.saved } })
    threads := s.threads.map fun e => (e.1, { e.2 with sc := on e.2.sc }) }

/-- The word of an instruction for its frame: a compact one in [15:0] (R249). -/
def insnWord (hs : List (BitVec 16)) : BitVec 32 :=
  let h := hs.headD 0
  if h.getLsbD 15 then h ++ hs.getD 1 0 else h.setWidth 32

/-- The word of the instruction at a place of a stream's block body. -/
def Stream.bodyWord (st : Stream) : BitVec 32 :=
  match st.blk with
  | some b => if b.entered then insnWord ((b.body.drop b.off).take 2) else 0
  | none => 0

/-- The control class is in a match-point handler on this tile (R288). -/
def State.inHandler (s : State) (w : Who) : Bool :=
  match w with
  | .stream t 0 => (s.tile t).handler.isSome
  | _ => false

/-! ## Issue -/

/-- Leave the instruction: inside a block the next halfwords of the body, the next repetition, or the end (R221-R225). -/
def Stream.advance (st : Stream) (bytes : Nat) (control : Bool) : Stream :=
  match st.blk with
  | none => { st with pc := st.pc + BitVec.ofNat 64 bytes }
  | some b =>
    let off := b.off + bytes / 2
    if off < b.body.length then { st with blk := some { b with off := off }, pc := st.pc + BitVec.ofNat 64 bytes }
    else if 0 < b.iter then { st with blk := some { b with off := 0, iter := b.iter - 1 }, pc := b.hdr + 4 }
    else if control then { st with blk := none, pc := b.hdr + BitVec.ofNat 64 (4 + 2 * b.body.length) }
    else { st with blk := some { b with off := off, issued := true }, pc := st.pc + BitVec.ofNat 64 bytes }

/-- A stream is done with the instruction it held. -/
def Stream.settled (st : Stream) : Stream :=
  { st with stall := .none, wfe := none, woken := false, pass := false, free := false, counted := false, fenceSince := none, reached := none }

/-- The instruction at issue has issued without a cause: the work count rises, the pipeline takes a step (R228, R282). -/
def State.retire (s : State) (bytes : Nat) : State :=
  let w := s.cur
  let s1 := s.modStrm w fun st =>
    { (st.advance bytes (w.num == 0)).settled with work := st.work + (if s.inHandler w then 0 else 1) }
  let s2 := if w.num == 0 then s1.modScal w Scalars.age else s1
  match w with
  | .stream t _ => s2.modTile t fun x => { x with lastIssue := s.ccc }
  | _ => s2

/-- A taken branch or jump: two issue steps that issue nothing follow (R341). -/
def State.jump (s : State) (target : Word) (bytes : Nat := 4) : State :=
  (s.retire bytes).modStrm s.cur fun st => { st with pc := target, bubbles := 2 }

/-- The party waits with its instruction; everything in flight is frozen with it (R228). -/
def State.stalled (s : State) (why : Stall) : State := s.modStrm s.cur fun st => { st with stall := why }

/-! ## Reports and the Ferry's logs (R75, R97, R100) -/

/-- Queue a wake request of a thread group (R100). A report's and a trap's request joins a queue that already holds 256 (log entry 115). -/
def State.wake (s : State) (g : Nat) (k : Wake) : State := { s with wakes := tmod [] s.wakes g (· ++ [k]) }

/-- A FERRY.FLOG record (R97); answers its ring index. -/
def State.flog (s : State) (srcix actn : Nat) (c : Cause) (ctx rkind : Nat) : Nat × State :=
  let n := s.regF offFlogHead 0 32
  let v := srcix % 2 ^ 16 + actn % 16 * 2 ^ 16 + c.code * 2 ^ 20 + ctx % 64 * 2 ^ 26 + s.ccc.toNat * 2 ^ 32 + rkind % 4 * 2 ^ 96
  (n % 256, (s.setReg128 (offFlog (n % 256)) (BitVec.ofNat 128 v)).setRegF offFlogHead 0 32 (n + 1))

/-- A report to system software: an RLOG record, an MSI-X message and a wake of the report group (R75). The woken thread starts at pc 0 in
context 0, its other registers zero (log entry 115). -/
def State.report (s : State) (c : Cause) (ctx srck srcix detail : Nat) : State :=
  let h := s.regF offRlogHead 0 32
  let v := c.code + ctx % 64 * 2 ^ 6 + srck % 16 * 2 ^ 12 + srcix % 2 ^ 16 * 2 ^ 16 + detail % 2 ^ 32 * 2 ^ 32 + s.ccc.toNat * 2 ^ 64
  let full := (h + 2 ^ 32 - s.regF offRlogTail 0 32) % 2 ^ 32 = 1024
  let s0 := if full then (s.setRegF offRlogTail 0 32 (s.regF offRlogTail 0 32 + 1)).bump offRlogLost else s
  let s1 := ((s0.setReg128 (offRlog (h % 1024)) (BitVec.ofNat 128 v)).setRegF offRlogHead 0 32 (h + 1)).emit (.msix (ctx % 64))
  let g := s.reg offRptGrp
  if bit g 4 then s1.wake (fld g 0 4) { pc := 0, ctx := 0, regs := tput 0 [] 1 (BitVec.ofNat 64 (h % 1024)), arr := none } else s1

/-! ## The Ferry's cycles (R77, R78) -/

/-- The Ferry cycle of what completes now: the second one of a cycle of the CCC once the event unit is at its second event. -/
def State.ferryCycle (s : State) : Nat := 2 * s.ccc.toNat + (if s.evUsed < 2 then 0 else 1)

/-- The event unit takes an event. -/
def State.accept (s : State) : State := { s with evUsed := s.evUsed + 1 }

/-! ## Translation (R108-R112) -/

/-- A translation entry of a node, by frame and index (R110). -/
def State.pte (s : State) (frame idx : Nat) : Word := mword s.hbm (frame * 65536 + 8 * idx)

def pteFrame (e : Word) : Nat := fld e 16 36

/-- The page-table walk (R110): the level-0 entry and its address, when every upper level is present. -/
def State.walk (s : State) (ctx : Nat) (va : Word) : Option (Word × Nat) :=
  let e3 := s.pte (s.cxF ctx cPTROOT 16 36) (fld va 55 1)
  if !bit e3 0 then none else
  let e2 := s.pte (pteFrame e3) (fld va 42 13)
  if !bit e2 0 then none else
  let e1 := s.pte (pteFrame e2) (fld va 29 13)
  if !bit e1 0 then none else
  some (s.pte (pteFrame e1) (fld va 16 13), pteFrame e1 * 65536 + 8 * fld va 16 13)

/-- HBM is physical 0x0 to 0x7F_FFFF_FFFF (R108). -/
def hbmEnd : Nat := 2 ^ 39

def inHbm (pa : Nat) : Res Nat := if pa < hbmEnd then .ok pa else .fault .hbmHole

/-- The TLB of a party: its tile's, or its Ferry core's (R111). -/
def State.tlbOf (s : State) (w : Who) : List TlbEntry :=
  match w with
  | .stream t _ => (s.tile t).tlb
  | .thread n => tget [] s.coreTlb (n / 16)
  | .engine _ => []

/-- Fill a TLB entry; a full TLB gives up its oldest (log entry 8). -/
def State.fillTlb (s : State) (w : Who) (e : TlbEntry) : State :=
  match w with
  | .stream t _ => s.modTile t fun x => { x with tlb := (e :: x.tlb).take 512 }
  | .thread n => { s with coreTlb := tmod [] s.coreTlb (n / 16) fun l => (e :: l).take 512 }
  | .engine _ => s

/-- Remove entries from every TLB of the chip. -/
def State.dropTlbs (s : State) (gone : TlbEntry → Bool) : State :=
  { s with
    tiles := s.tiles.map fun e => (e.1, { e.2 with tlb := e.2.tlb.filter fun x => !gone x })
    coreTlb := (s.coreTlb.map fun e => (e.1, e.2.filter fun x => !gone x)).filter fun e => !e.2.isEmpty }

/-- A context's entries leave every TLB: it has been destroyed, or restored with empty TLBs (R111, R267). -/
def State.emptyTlbs (s : State) (c : Nat) : State := s.dropTlbs fun e => e.ctx == c

/-- Translate a context address for a scalar or window access (R112); the TLB may fill. -/
def State.translate (s : State) (w : Who) (ctx : Nat) (va : Word) (store : Bool) : Res (Nat × State) :=
  let vpn := fld va 16 40
  let off := fld va 0 16
  match (s.tlbOf w).find? (fun e => e.ctx = ctx ∧ e.vpn = vpn ∧ (!e.lm ∨ s.ccc < e.exp)) with
  | some e => if store && !e.w then .raise .perm va else (inHbm (e.frame * 65536 + off)).bind fun pa => .ok (pa, s)
  | none =>
    match s.walk ctx va with
    | none => .raise .coreUnmapped va
    | some (l, _) =>
      if !bit l 0 || !bit l 3 then .raise .coreUnmapped va
      else if bit l 1 then .stall .migrating s
      else
        let lease := !bit (s.reg offXlatCtl) 0
        let e : TlbEntry :=
          { ctx := ctx, vpn := vpn, frame := pteFrame l, w := bit l 2, lm := lease,
            exp := if lease then s.ccc + BitVec.ofNat 64 (940 * s.cxF ctx cLEASE 0 11) else 0 }
        if store && !e.w then .denied va w e else (inHbm (e.frame * 65536 + off)).bind fun pa => .ok (pa, s.fillTlb w e)

/-- A page of a range of context memory is migrating: walks of its entry wait (R121). -/
def State.rangeMoves (s : State) (ctx : Nat) (va : Word) (n : Nat) : Bool :=
  !s.migrations.isEmpty && (List.range ((fld va 0 16 + n + 65535) / 65536)).any fun i =>
    match s.walk ctx (va + BitVec.ofNat 64 (65536 * i)) with
    | some (l, _) => bit l 0 && bit l 1
    | none => false

/-- Where the save engine, the fetch of stored descriptors and other untranslated accesses reach a context address:
the recorded frame of the page (R122, R272), else the page table's. -/
def State.physOf (s : State) (ctx : Nat) (va : Word) : Option Nat :=
  match s.saveFrames.find? (fun e => e.1 = ctx ∧ e.2.1 = fld va 16 40) with
  | some e => some (e.2.2 * 65536 + fld va 0 16)
  | none =>
    match s.walk ctx va with
    | some (l, _) => if bit l 0 && pteFrame l * 65536 < hbmEnd then some (pteFrame l * 65536 + fld va 0 16) else none
    | none => none

/-- Write bytes at a context address through recorded frames; bytes of an absent page are lost. -/
def State.physWrite (s : State) (ctx : Nat) (va : Word) : List Byte → State
  | [] => s
  | b :: bs =>
    let s' := match s.physOf ctx va with
      | some pa => { s with hbm := tput 0 s.hbm pa b }
      | none => s
    s'.physWrite ctx (va + 1) bs

def State.physRead (s : State) (ctx : Nat) (va : Word) : Nat → List Byte
  | 0 => []
  | n + 1 => ((s.physOf ctx va).map (mread s.hbm)).getD 0 :: s.physRead ctx (va + 1) n

def State.physNat (s : State) (ctx : Nat) (va : Word) (n : Nat) : Nat := leNat (s.physRead ctx va n)

/-! ## The undo log (R272-R276, R456) -/

/-- SIZE of the undo ring in bytes (R272). -/
def State.undoSize (s : State) (c : Nat) : Nat :=
  let u := s.cxF c cUNDOCFG 2 16
  (if u = 0 then 65536 else u) * 65536

def State.undoUse (s : State) (c : Nat) : Nat := s.cxF c cUNDOUSE 0 48

def UndoRec.bytes (r : UndoRec) : Nat := 16 + 8 * r.old.length

/-- A window is open on a tile, or kept for the current and the previous interval (R276, R279). -/
def State.windowKept (s : State) (c : Nat) (w : BitVec 32) : Bool :=
  (CtxLog.of s c).opened.any (fun e => e.2 == w.toNat + 1) ||
    (bit (s.cx c cREPLAY) 0 && (CtxLog.of s c).ivWins.any (fun e => e.2.2 == w))

/-- Records that are removed leave the buffers of their tiles (R274). -/
def State.freeBuffers (s : State) (l : List UndoRec) : State :=
  (l.filter (·.inBuf)).foldl (fun s r => s.modTile r.tile fun x => { x with undoBuf := x.undoBuf - r.bytes }) s

/-- Remove the records of window OLDEST and raise OLDEST by one (R276). -/
def State.dropOldest (s : State) (c : Nat) : State :=
  let old := BitVec.ofNat 32 (s.cxF c cUNDOWIN 0 32)
  let l := CtxLog.of s c
  let gone := l.recs.filter fun r => r.win = old
  let s1 := s.modLog c fun l => { l with recs := l.recs.filter (fun r => r.win ≠ old), full := if gone.isEmpty then l.full else false }
  let s2 := (s1.setCx c cUNDOUSE (BitVec.ofNat 64 (s.undoUse c - (gone.map UndoRec.bytes).sum))).freeBuffers gone
  s2.setCx c cUNDOWIN (setFld (s2.cx c cUNDOWIN) 0 32 (old + 1).toNat)

/-- Make room by policy 1: discard oldest windows while they may go, at most n of them. -/
def State.dropUntil (s : State) (c len : Nat) : Nat → Option State
  | 0 => none
  | n + 1 =>
    if s.undoUse c + len ≤ s.undoSize c then some s
    else if s.cxF c cUNDOWIN 0 32 = s.cxF c cUNDOWIN 32 32 || s.windowKept c (BitVec.ofNat 32 (s.cxF c cUNDOWIN 0 32)) then none
    else (s.dropOldest c).dropUntil c len n

/-- A writer with SRC 5-7 begins to stall on a full undo log: it is reported once under policy 2, and under policy 1 where it acts as 2,
until space has been freed (R276). -/
def State.undoFull (s : State) (c src : Nat) : State :=
  if s.cxF c cUNDOCFG 0 2 = 0 ∨ (CtxLog.of s c).full then s
  else State.report (s.modLog c fun l => { l with full := true }) .undoLogFull c (if src = 5 then 3 else 5) 0 0

/-- Reserve len bytes of the ring for records by a writer of SRC src on a tile (R274, R276, R456). -/
def State.reserveRing (s : State) (src c len : Nat) (va : Word) : Res State :=
  let policy := s.cxF c cUNDOCFG 0 2
  let full : Res State :=
    if src ≥ 5 then .stall .undoLog (s.undoFull c src)
    else if policy = 0 then .stall .undoLog s
    else .raise .undoLogFull va
  let room : Res State :=
    if s.undoUse c + len ≤ s.undoSize c then .ok s
    else if policy = 1 then
      match s.dropUntil c len (2 ^ 12) with
      | some s' => .ok s'
      | none => full
    else full
  room.bind fun s1 =>
    .ok (s1.setCx c cUNDOUSE (BitVec.ofNat 64 (s1.undoUse c + len)))

/-- Reserve len bytes of records, in the ring and in the writer tile's buffer. -/
def State.reserveLen (s : State) (src tile c len : Nat) (va : Word) : Res State :=
  (s.reserveRing src c len va).bind fun s2 =>
    if src ≥ 5 then .ok s2
    else if (s.tile tile).undoBuf + len > 65536 then .stall .undoLog s
    else .ok (s2.modTile tile fun x => { x with undoBuf := x.undoBuf + len })

/-- Reserve the space of one record of nw old words. -/
def State.reserve (s : State) (src tile c nw : Nat) (va : Word) : Res State := s.reserveLen src tile c (16 + 8 * nw) va

/-- The stream whose signature a write updates (R286): the stream itself, the access stream for its copies. -/
def signer (src : Nat) : Option Nat := if src < 4 then some src else if src = 4 then some 1 else none

/-- The window a record carries: the writer's tile's, or the context's newest (R273). -/
def State.winOf (s : State) (src tile c : Nat) : BitVec 32 :=
  if src ≥ 5 then BitVec.ofNat 32 (s.cxF c cUNDOWIN 32 32) - 1 else (s.tile tile).win

/-- A record's bytes (R273). -/
def UndoRec.nat (r : UndoRec) : Nat :=
  r.rtype + r.akind * 2 ^ 4 + (if r.atom then 2 ^ 6 else 0) + r.tile * 2 ^ 8 + r.src * 2 ^ 16 + r.old.length * 2 ^ 19 +
    r.win.toNat * 2 ^ 32 + r.addr.toNat * 2 ^ 64

def UndoRec.out (r : UndoRec) : List Byte := leBytes 16 r.nat ++ r.old.flatMap fun w => leBytes 8 w.toNat

/-- Bytes enter a context's ring in HBM at its place, round its end (R272). -/
def State.ringWrite (s : State) (c : Nat) (bs : List Byte) : State :=
  let l := CtxLog.of s c
  let size := s.undoSize c
  let base := (s.cx c cUNDOBASE).toNat
  let head := min bs.length (size - l.ring)
  let s1 := s.physWrite c (BitVec.ofNat 64 (base + l.ring)) (bs.take head)
  (s1.physWrite c (BitVec.ofNat 64 base) (bs.drop head)).modLog c fun k => { k with ring := (l.ring + bs.length) % size }

/-- The oldest records of a tile's buffer, to a block of 4 KiB. -/
def blockOf (tile : Nat) : Nat → List UndoRec → List UndoRec
  | _, [] => []
  | n, r :: rs =>
    if !r.inBuf || r.tile != tile then blockOf tile n rs
    else if 4096 ≤ n then []
    else r :: blockOf tile (n + r.bytes) rs

/-- Mark the first n in-buffer records of a tile as moved. -/
def markMoved (tile : Nat) : Nat → List UndoRec → List UndoRec
  | _, [] => []
  | 0, l => l
  | n + 1, r :: rs => if r.inBuf && r.tile == tile then { r with inBuf := false } :: markMoved tile n rs else r :: markMoved tile (n + 1) rs

/-- A block of a tile's undo buffer moves to the ring (R274); whole records (log entry 9). -/
def State.moveBlock (s : State) (tile : Nat) : State :=
  let c := s.ctxOfTile tile
  let b := blockOf tile 0 (CtxLog.of s c).recs
  let bs := b.flatMap UndoRec.out
  ((s.ringWrite c bs).modLog c fun l => { l with recs := markMoved tile b.length l.recs }).modTile tile fun x =>
    { x with undoBuf := x.undoBuf - bs.length }

/-- Room in a tile's buffer for a record of an operation under way: blocks move until it fits (R274). -/
def State.takeBuffer (s : State) (tile len : Nat) : State :=
  let room := (List.range 2).foldl (fun s _ => if (s.tile tile).undoBuf + len > 65536 then s.moveBlock tile else s) s
  room.modTile tile fun x => { x with undoBuf := x.undoBuf + len }

/-- A write enters the signature of a stream (R286). -/
def State.sign (s : State) (t k : Nat) (addr : Word) (new : List Byte) : State :=
  s.modTile t fun x =>
    let st := x.stream k
    x.setStream k { st with sig := crc64 (leBytes 8 st.sig.toNat ++ leBytes 8 addr.toNat ++ new) }

/-- Append a record whose space is reserved, with the new bytes for the signature: that of a write, a STORE or a FLAG record (R273, R286). -/
def State.record (s : State) (c : Nat) (r : UndoRec) (new : List Byte) : State :=
  let s0 := s.modLog c fun l => { l with recs := l.recs ++ [r] }
  let s1 := if r.inBuf then s0 else s0.ringWrite c r.out
  match signer r.src with
  | some k => if r.rtype = 1 ∨ r.rtype = 2 then s1.sign r.tile k r.addr new else s1
  | none => s1

/-- How many aligned 8-byte words cover n bytes at an address. -/
def coverWords (a n : Nat) : Nat := (a % 8 + n + 7) / 8

/-- The aligned old words that cover n bytes at an address. -/
def oldWords (m : Mem) (a n : Nat) : List Word := (List.range (coverWords a n)).map fun i => mword m (a / 8 * 8 + 8 * i)

/-- The banks n bytes at an offset lie in (R237). -/
def banksOf (off n : Nat) : List Nat := (List.range (min 16 ((off % 64 + n + 63) / 64))).map fun i => (off / 64 + i) % 16

/-- Write scratchpad bytes with their record (R273, AKIND 0). The capture of the old bytes takes its turn at their banks as requester 11
(R274; log entry 120). -/
def State.spadPut (s : State) (src wtile : Nat) (c : Nat) (win : BitVec 32) (t off : Nat) (bs : List Byte) (atom : Bool := false) : State :=
  let x := s.tile t
  let r : UndoRec :=
    { rtype := 1, akind := 0, atom := atom, tile := if src ≥ 5 then 0 else wtile, src := src, win := win,
      addr := BitVec.ofNat 64 (t + off / 8 * 8 * 256), old := oldWords x.spad off bs.length, inBuf := decide (src < 5) }
  (s.record c r bs).modTile t fun x =>
    { x with spad := mwrites x.spad off bs, captures := if src < 5 then x.captures ++ banksOf off bs.length else x.captures }

/-- Write context memory with its record (R273, AKIND 1). -/
def State.hbmPut (s : State) (src wtile : Nat) (c : Nat) (win : BitVec 32) (va : Word) (pa : Nat) (bs : List Byte) (atom : Bool := false) : State :=
  let r : UndoRec :=
    { rtype := 1, akind := 1, atom := atom, tile := if src ≥ 5 then 0 else wtile, src := src, win := win,
      addr := BitVec.ofNat 64 (va.toNat / 8 * 8), old := oldWords s.hbm pa bs.length, inBuf := decide (src < 5) }
  let s1 := s.record c r bs
  { s1 with hbm := mwrites s1.hbm pa bs }

/-- A HORIZON record (R277); its space is reserved by the caller. -/
def State.horizon (s : State) (src wtile c kind dest : Nat) (pseq : BitVec 32) (bytes : Nat) : State :=
  if s.playing c then s
  else
    s.record c
      { rtype := 4, akind := 0, atom := false, tile := if src ≥ 5 then 0 else wtile, src := src, win := s.winOf src wtile c,
        addr := BitVec.ofNat 64 (kind + dest % 4096 * 16 + pseq.toNat * 2 ^ 32), old := [BitVec.ofNat 64 bytes], inBuf := decide (src < 5) } []

/-- The work count of a tile: the sum over its streams (R282). -/
def Tile.work (x : Tile) : Nat := (x.stream 0).work + (x.stream 1).work + (x.stream 2).work + (x.stream 3).work

/-- Open an undo window on a tile: it takes NEXT, and its record carries a work count of the tile (R275, R456). -/
def State.openWindow (s : State) (t c reason count : Nat) : State :=
  let n := BitVec.ofNat 32 (s.cxF c cUNDOWIN 32 32)
  let s1 := s.setCx c cUNDOWIN (setFld (s.cx c cUNDOWIN) 32 32 (n + 1).toNat)
  let s2 := s1.modTile t fun x => { x with win := n, undoBuf := x.undoBuf + 16 }
  let s3 := s2.setCx c cUNDOUSE (BitVec.ofNat 64 (s2.undoUse c + 16))
  let w := count % 2 ^ 32
  let r : UndoRec :=
    { rtype := 3, akind := 0, atom := false, tile := t, src := 0, win := n,
      addr := BitVec.ofNat 64 (reason + w * 2 ^ 32), old := [], inBuf := true }
  let s4 : State := { s3 with logs := s3.logs.map fun e => (e.1, { e.2 with opened := tput 0 e.2.opened t 0 }) }
  s4.modLog c fun l => { l with recs := l.recs ++ [r], opened := tput 0 l.opened t (n.toNat + 1) }

end Sys2Proof.Machine
end

