-- ==== Sys2Proof/Machine/Number.lean ====
section
/-! DEFINITION. Number formats and rounding (R294-R303): exact values, decoding, RoundTo, Convert and the elementary functions. -/
namespace Sys2Proof.Machine
open Sys2Proof

/-- A NaN, an infinity, or the exact value (-1)^neg m 2^e. -/
inductive Num where
  | nan
  | inf (neg : Bool)
  | fin (neg : Bool) (m : Nat) (e : Int)
  deriving DecidableEq, Repr

def Num.zero : Num := .fin false 0 0

def Num.isNan : Num → Bool
  | .nan => true
  | _ => false

def Num.isInf : Num → Bool
  | .inf _ => true
  | _ => false

def Num.isZero : Num → Bool
  | .fin _ 0 _ => true
  | _ => false

def Num.neg? : Num → Bool
  | .nan => false
  | .inf s => s
  | .fin s _ _ => s

def Num.negate : Num → Num
  | .nan => .nan
  | .inf s => .inf !s
  | .fin s m e => .fin (!s) m e

def Num.abs : Num → Num
  | .nan => .nan
  | .inf _ => .inf false
  | .fin _ m e => .fin false m e

def Num.ofInt (z : Int) : Num := .fin (decide (z < 0)) z.natAbs 0

/-! ## Formats (R294, R319) -/

/-- Bits of an element of type code t. -/
def typeBits (t : Nat) : Nat :=
  match t with
  | 0 | 9 | 11 => 32
  | 1 | 2 | 10 | 12 => 16
  | 3 | 4 | 6 | 13 => 8
  | _ => 4

/-- Fraction bits, exponent bits and bias of a floating-point type. -/
def floatForm (t : Nat) : Option (Nat × Nat × Nat) :=
  match t with
  | 0 => some (23, 8, 127)
  | 1 => some (7, 8, 127)
  | 2 => some (10, 5, 15)
  | 3 => some (3, 4, 7)
  | 4 => some (2, 5, 15)
  | 5 => some (1, 2, 1)
  | _ => none

/-- An IEEE layout or E4M3: a type that FZI, FZO and NaN concern. E2M1 is a grid format (R300). -/
def isFloat (t : Nat) : Bool := t ≤ 4

/-- The range of an integer type. -/
def intRange (t : Nat) : Option (Int × Int) :=
  match t with
  | 6 => some (-128, 127)
  | 7 => some (-8, 7)
  | 9 => some (-2147483648, 2147483647)
  | 10 => some (-32768, 32767)
  | 11 => some (0, 4294967295)
  | 12 => some (0, 65535)
  | 13 => some (0, 255)
  | _ => none

/-- Eight times the value of a typed 4-bit code (R296). -/
def codeValue (ty c : Nat) : Int :=
  let mag : List Int := match ty with
    | 1 => [0, 4, 8, 12, 16, 24, 32, 48]
    | 2 => [0, 1, 2, 4, 8, 16, 32, 64]
    | _ => [0, 8, 16, 24, 32, 48, 64, 96]
  if ty = 0 then (if c < 8 then (c : Int) * 8 else ((c : Int) - 16) * 8)
  else if c < 8 then mag.getD c 0 else -mag.getD (c - 8) 0

/-- The value of a field (R295, R296); ty is the code type of a typed 4-bit code. -/
def decodeNum (t ty v : Nat) : Num :=
  match floatForm t with
  | some (p, eb, bias) =>
    let f := nfld v 0 p
    let e := nfld v p eb
    let s := nfld v (p + eb) 1 = 1
    let top := e = 2 ^ eb - 1
    if top ∧ t ≠ 3 ∧ t ≠ 5 then (if f = 0 then .inf s else .nan)
    else if top ∧ t = 3 ∧ f = 7 then .nan
    else if e = 0 then .fin s f (1 - (bias : Int) - p)
    else .fin s (2 ^ p + f) ((e : Int) - bias - p)
  | none =>
    if t = 8 then .fin (if ty = 0 then decide (8 ≤ v % 16) else decide (8 ≤ v % 16)) (codeValue ty (v % 16)).natAbs (-3)
    else
      let w := typeBits t
      match intRange t with
      | some (lo, _) => .ofInt (if lo < 0 ∧ 2 ^ (w - 1) ≤ v % 2 ^ w then (v % 2 ^ w : Int) - 2 ^ w else (v % 2 ^ w : Int))
      | none => .zero

/-- The canonical NaN (R295); the code of +0 where a format has none (R300). -/
def canonicalNan (t : Nat) : Nat :=
  match t with
  | 0 => 0x7FC00000 | 1 => 0x7FC0 | 2 => 0x7E00 | 3 => 0x7F | 4 => 0x7E | _ => 0

/-- The largest finite magnitude's code. -/
def largest (t : Nat) : Nat :=
  match t with
  | 0 => 0x7F7FFFFF | 1 => 0x7F7F | 2 => 0x7BFF | 3 => 0x7E | 4 => 0x7B | _ => 7

def infCode (t : Nat) : Nat :=
  match t with
  | 0 => 0x7F800000 | 1 => 0x7F80 | 2 => 0x7C00 | 4 => 0x7C | _ => 0

/-- A code with a sign. -/
def signed (t : Nat) (neg : Bool) (c : Nat) : Nat := if neg then c + 2 ^ (typeBits t - 1) else c

/-! ## Rounding (R299, R300) -/

/-- Number of bits of n. -/
def Nat.bits' (n : Nat) : Nat := if n = 0 then 0 else n.log2 + 1

/-- n / 2^d rounded in mode rm; odd ties go to the even quotient. -/
def roundShift (neg : Bool) (n d rm : Nat) : Nat :=
  let q := n >>> d
  let r := n % 2 ^ d
  let up := match rm with
    | 0 => decide (2 ^ d < 2 * r) || (decide (2 ^ d = 2 * r) && q % 2 == 1)
    | 1 => false
    | 2 => neg && r != 0
    | _ => !neg && r != 0
  if up then q + 1 else q

/-- m 2^e as an integer multiple of 2^q, rounded. -/
def toQuantum (neg : Bool) (m : Nat) (e q : Int) (rm : Nat) : Nat :=
  if q ≤ e then m * 2 ^ (e - q).toNat else roundShift neg m (q - e).toNat rm

/-- RoundTo for the integer formats and INT32 conversions. -/
def roundInt (lo hi : Int) (x : Num) (rm : Nat) : Int :=
  match x with
  | .nan => 0
  | .inf s => if s then lo else hi
  | .fin s m e =>
    let q : Int := toQuantum s m e 0 rm
    max lo (min hi (if s then -q else q))

/-- RoundTo for E2M1 and the typed codes: the grid of codeValue (R300). -/
def roundGrid (ty : Nat) (x : Num) (rm : Nat) : Nat :=
  let codes := List.range 16
  let pick (better : Int → Int → Bool) (l : List Nat) : Option Nat :=
    l.foldl (fun b c => match b with
      | none => some c
      | some d => if better (codeValue ty c) (codeValue ty d) then some c else b) none
  let signedZero (neg : Bool) (c : Nat) : Nat := if codeValue ty c = 0 then (if neg && ty != 0 then 8 else 0) else c
  let top := (pick (fun a b => decide (b < a)) codes).getD 0
  let bot := (pick (fun a b => decide (a < b)) codes).getD 0
  match x with
  | .nan => 0
  | .inf s => if s then bot else top
  | .fin s m e =>
    let k := min e (-3)
    let v : Int := m * 2 ^ (e - k).toNat
    let z := if s then -v else v
    let val (c : Nat) : Int := codeValue ty c * 2 ^ (-3 - k).toNat
    let below := pick (fun a b => decide (b < a)) (codes.filter fun c => val c ≤ z)
    let above := pick (fun a b => decide (a < b)) (codes.filter fun c => z ≤ val c)
    match below, above with
    | none, _ => bot
    | _, none => top
    | some a, some b =>
      signedZero s
        (match rm with
         | 0 =>
           let da := z - val a
           let db := val b - z
           if da < db then a else if db < da then b else if a % 2 = 0 then a else b
         | 1 => if s then b else a
         | 2 => a
         | _ => b)

/-- RoundTo (R300): the code of x in format t; ty is the code type of a typed format. -/
def roundTo (x : Num) (t ty rm : Nat) : Nat :=
  if t = 5 then roundGrid 1 x rm
  else if t = 8 then roundGrid ty x rm
  else match floatForm t with
    | none =>
      match intRange t with
      | some (lo, hi) => (roundInt lo hi x rm % 2 ^ typeBits t).toNat
      | none => 0
    | some (p, _, bias) =>
      match x with
      | .nan => canonicalNan t
      | .inf s => if t = 3 then canonicalNan t else signed t s (infCode t)
      | .fin s 0 _ => signed t s 0
      | .fin s m e =>
        let qmin : Int := 1 - (bias : Int) - p
        let q := max qmin (e + (Nat.bits' m : Int) - (p + 1))
        let code := (q - qmin).toNat * 2 ^ p + toQuantum s m e q rm
        if code ≤ largest t then signed t s code
        else if t = 3 then canonicalNan t
        else
          let toInf := match rm with
            | 0 => true
            | 1 => false
            | 2 => s
            | _ => !s
          signed t s (if toInf then infCode t else largest t)

/-- A value below the smallest normal of t becomes a zero of its sign (R301). -/
def flush (x : Num) (t : Nat) : Num :=
  match x, floatForm t with
  | .fin s m e, some (p, _, bias) =>
    let qmin : Int := 1 - (bias : Int) - p
    if isFloat t ∧ e + (Nat.bits' m : Int) < qmin + p + 1 then .fin s 0 0 else x
  | _, _ => x

/-- FZI acts on inputs read in format t. -/
def flushIn (fzi : Bool) (x : Num) (t : Nat) : Num := if fzi then flush x t else x

/-- Convert (R301), its input already flushed. -/
def convert (x : Num) (t ty rm : Nat) (sat fzo : Bool) : Nat :=
  if x.isNan then canonicalNan t
  else
    let limit := signed t x.neg? (largest t)
    if sat && x.isInf && isFloat t then limit
    else
      let y := roundTo x t ty rm
      let v := decodeNum t ty y
      let y1 := if sat && isFloat t && (v.isInf || v.isNan) then limit else y
      if fzo && isFloat t then
        (match decodeNum t ty y1 with
         | .fin s m e => if (flush (.fin s m e) t).isZero then signed t s 0 else y1
         | _ => y1)
      else y1

/-! ## Exact arithmetic (R302) -/

/-- A signed integer multiple of 2^k of a finite value. -/
def scaled (s : Bool) (m : Nat) (e k : Int) : Int :=
  let v : Int := m * 2 ^ (e - k).toNat
  if s then -v else v

/-- The sum; an exact zero sum of operands of opposite sign is -0 only in RDN. -/
def Num.add (rm : Nat) : Num → Num → Num
  | .nan, _ => .nan
  | _, .nan => .nan
  | .inf s, .inf u => if s = u then .inf s else .nan
  | .inf s, _ => .inf s
  | _, .inf s => .inf s
  | .fin s m e, .fin u n f =>
    let k := min e f
    let z := scaled s m e k + scaled u n f k
    if z = 0 then .fin (if s = u then s else rm = 2) 0 0 else .fin (decide (z < 0)) z.natAbs k

def Num.sub (rm : Nat) (x y : Num) : Num := Num.add rm x y.negate

def Num.mul : Num → Num → Num
  | .nan, _ => .nan
  | _, .nan => .nan
  | .inf s, .inf u => .inf (s != u)
  | .inf s, .fin u n _ => if n = 0 then .nan else .inf (s != u)
  | .fin s m _, .inf u => if m = 0 then .nan else .inf (s != u)
  | .fin s m e, .fin u n f => .fin (s != u) (m * n) (e + f)

/-- Bits kept of an inexact result beyond its operands; the last bit is set when bits were lost. -/
def guardBits : Nat := 128

def sticky (q : Nat) (exact : Bool) (e : Int) (s : Bool) : Num := .fin s (2 * q + if exact then 0 else 1) (e - 1)

def Num.div : Num → Num → Num
  | .nan, _ => .nan
  | _, .nan => .nan
  | .inf _, .inf _ => .nan
  | .inf s, .fin u _ _ => .inf (s != u)
  | .fin s _ _, .inf u => .fin (s != u) 0 0
  | .fin s m e, .fin u n f =>
    if n = 0 then (if m = 0 then .nan else .inf (s != u))
    else
      let k := guardBits + Nat.bits' n
      let v := m * 2 ^ k
      sticky (v / n) (v % n == 0) (e - f - k) (s != u)

/-- The integer square root, bit by bit from bit k down. -/
def isqrtFrom (n : Nat) : Nat → Nat → Nat
  | 0, r => if (r + 1) * (r + 1) ≤ n then r + 1 else r
  | k + 1, r => isqrtFrom n k (if (r + 2 ^ (k + 1)) * (r + 2 ^ (k + 1)) ≤ n then r + 2 ^ (k + 1) else r)

def isqrt (n : Nat) : Nat := isqrtFrom n (Nat.bits' n / 2) 0

/-- A finite value with an even exponent. -/
def evenExp (m : Nat) (e : Int) : Nat × Int := if e % 2 = 0 then (m, e) else (2 * m, e - 1)

def Num.sqrt : Num → Num
  | .nan => .nan
  | .inf s => if s then .nan else .inf false
  | .fin s m e =>
    if m = 0 then .fin s 0 0
    else if s then .nan
    else
      let p := evenExp m e
      let v := p.1 * 2 ^ (2 * guardBits)
      let r := isqrt v
      sticky r (r * r == v) (p.2 / 2 - guardBits) false

def Num.rsqrt : Num → Num
  | .nan => .nan
  | .inf s => if s then .nan else .fin false 0 0
  | .fin s m e =>
    if m = 0 then .inf s
    else if s then .nan
    else
      let p := evenExp m e
      let k := guardBits + Nat.bits' p.1
      let r := isqrt (2 ^ (2 * k) / p.1)
      sticky r (r * r * p.1 == 2 ^ (2 * k)) (-(p.2 / 2) - k) false

def Num.rcp (x : Num) : Num := Num.div (.fin false 1 0) x

/-- Bits of the fixed-point work of VEXP2 and VLOG2; enough that no FP32 or BF16 result is misrounded (log entry 11). -/
def workBits : Nat := 320

/-- 2^f for f = n / 2^bits of the bits left, in units of 2^-workBits: a product of repeated square roots of two. -/
def exp2Frac : Nat → Nat → Nat → Nat → Nat
  | 0, _, _, acc => acc
  | k + 1, f, root, acc =>
    let r := isqrt (root * 2 ^ workBits)
    let acc' := if f / 2 ^ k % 2 = 1 then acc * r / 2 ^ workBits else acc
    exp2Frac k f r acc'

def Num.exp2 : Num → Num
  | .nan => .nan
  | .inf s => if s then .fin false 0 0 else .inf false
  | .fin s m e =>
    if 20 < e + (Nat.bits' m : Int) ∧ m ≠ 0 then (if s then sticky 0 false (-2000) false else .fin false 1 2000)
    else
      let fb := (-e).toNat
      let v : Int := m * 2 ^ e.toNat
      let z := if s then -v else v
      let n := z / 2 ^ fb
      let f := (z % 2 ^ fb).toNat
      if f = 0 then .fin false 1 n
      else sticky (exp2Frac fb f (2 * 2 ^ workBits) (2 ^ workBits)) false (n - workBits) false

/-- Bits of log2 of y in [1, 2), y in units of 2^-(2 workBits), by repeated squaring. -/
def log2Frac : Nat → Nat → Nat → Nat
  | 0, _, acc => acc
  | k + 1, y, acc =>
    let q := y * y / 2 ^ (2 * workBits)
    if 2 * 2 ^ (2 * workBits) ≤ q then log2Frac k (q / 2) (2 * acc + 1) else log2Frac k q (2 * acc)

def Num.log2 : Num → Num
  | .nan => .nan
  | .inf s => if s then .nan else .inf false
  | .fin s m e =>
    if m = 0 then .inf true
    else if s then .nan
    else
      let b := Nat.bits' m - 1
      let n := e + b
      if m = 2 ^ b then .ofInt n
      else
        let t : Int := n * 2 ^ 160 + log2Frac 160 (m * 2 ^ (2 * workBits) / 2 ^ b) 0
        let z := 2 * t + 1
        .fin (decide (z < 0)) z.natAbs (-161)

/-! ## Ordering -/

/-- x < y for values that are no NaN; zeros of either sign are equal. -/
def Num.lt : Num → Num → Bool
  | .nan, _ => false
  | _, .nan => false
  | .inf s, .inf u => s && !u
  | .inf s, _ => s
  | _, .inf s => !s
  | .fin s m e, .fin u n f => decide (scaled s m e (min e f) < scaled u n f (min e f))

def Num.eq (x y : Num) : Bool := !x.isNan && !y.isNan && !x.lt y && !y.lt x

/-- Maximum and minimum as R168 compares: NaN wins, and +0 ranks above -0. -/
def Num.max (x y : Num) : Num :=
  if x.isNan || y.isNan then .nan else if x.lt y then y else if y.lt x then x else if x.neg? then y else x

def Num.min (x y : Num) : Num :=
  if x.isNan || y.isNan then .nan else if x.lt y then x else if y.lt x then y else if x.neg? then x else y

/-- The exact sum of products: NaN and opposite infinities as R302; an exact zero is -0 only when every product is -0 (R306). -/
def Num.sumAll (l : List Num) : Num :=
  if l.any Num.isNan || (l.contains (.inf true) && l.contains (.inf false)) then .nan
  else if l.contains (.inf true) then .inf true
  else if l.contains (.inf false) then .inf false
  else
    let k := l.foldl (fun k x => match x with | .fin _ m e => if m = 0 then k else Min.min k e | _ => k) 0
    let z := l.foldl (fun z x => match x with | .fin s m e => if m = 0 then z else z + scaled s m e k | _ => z) (0 : Int)
    if z = 0 then .fin (l.all fun x => x.isZero && x.neg?) 0 0 else .fin (decide (z < 0)) z.natAbs k

/-! ## Scales (R297) -/

/-- Elements of a block by BLK; zero when unscaled (R106). -/
def blockSize (blk : Nat) : Nat := match blk with | 0 => 0 | 1 => 8 | 2 => 16 | _ => 32

/-- A block scale byte of format sfmt. -/
def decodeScale (sfmt v : Nat) : Num :=
  match sfmt with
  | 0 => if v % 64 = 63 then .nan else .fin false 1 ((v % 64 : Int) - 32)
  | 1 => if v % 256 = 255 then .nan else .fin false 1 ((v % 256 : Int) - 127)
  | 2 => decodeNum 4 0 v
  | _ => decodeNum 3 0 v

end Sys2Proof.Machine
end

