-- ==== Sys2Proof/Machine/Weights.lean ====
section
/-! DEFINITION. Weight images (R406, R408): the header, the places of values, indices and scales, and what a plane holds. -/
namespace Sys2Proof.Machine
open Sys2Proof

/-! ## The header of an image, its first 64 bytes as a number -/

def imgFmt (h : Nat) : Nat := nfld h 0 4
def imgBlk (h : Nat) : Nat := nfld h 4 2
def imgSfmt (h : Nat) : Nat := nfld h 6 2
def imgCmp (h : Nat) : Nat := nfld h 8 2

/-- Formats of a B operand. -/
def wFormat (t : Nat) : Bool := t == 1 || (3 ≤ t && t ≤ 8)

/-- The tile depth KT: 64 for BF16, 128 for the 8-bit and 256 for the 4-bit formats. -/
def depth (t : Nat) : Nat := 1024 / typeBits t

/-- Where the scales begin, and the image's length in bytes. -/
def imgScales (h : Nat) : Nat := if imgCmp h = 0 then 64 + 16384 else 64 + 8192 + 16 * depth (imgFmt h)
def imgLen (h : Nat) : Nat := imgScales h + (if imgBlk h = 0 then 0 else 128 * (depth (imgFmt h) / blockSize (imgBlk h)))

/-- The header of an image; image bytes are numbered from its start. -/
def imgHead (m : Mem) : Nat := mval m 0 64

/-- Bits of an image from a bit of a part; a value of at most 16 bits that lies within two bytes. -/
def imgBits (m : Mem) (part b w : Nat) : Nat := nfld (mval m (part + b / 8) 2) (b % 8) w

/-- The index nibble of group g and column j of a compressed image. -/
def imgIndex (m : Mem) (g j : Nat) : Nat := imgBits m (64 + 8192) (4 * (128 * g + j)) 4

/-- The code of element (k, j), decompressed. -/
def imgCode (m : Mem) (k j : Nat) : Nat :=
  let h := imgHead m
  let w := typeBits (imgFmt h)
  if imgCmp h = 0 then imgBits m 64 (128 * w * k + w * j) w
  else
    let x := imgIndex m (k / 4) j
    let kept (t : Nat) : Nat := imgBits m 64 (w * (2 * (128 * (k / 4) + j) + t)) w
    if k % 4 = x % 4 then kept 0 else if k % 4 = x / 4 then kept 1 else 0

/-- The scale byte of block kb of column j. -/
def imgScale (m : Mem) (kb j : Nat) : Nat := (mread m (imgScales (imgHead m) + 128 * kb + j)).toNat

/-- The bytes of a buffer from a slot on, as an image. -/
def imgAt (wb : Mem) (slot : Nat) : Mem := (wb.filter fun e => 4096 * slot ≤ e.1).map fun e => (e.1 - 4096 * slot, e.2)

/-- What MWSEL refuses (R408). -/
def imgBad (m : Mem) (slot : Nat) : Bool :=
  let h := imgHead m
  nfld h 16 16 != 0x4D57 || nfld h 10 6 != 0 || nfld h 32 480 != 0 || !wFormat (imgFmt h) || 2 ≤ imgCmp h ||
    (imgBlk h != 0 && imgFmt h == 1) || (imgFmt h == 8 && (imgBlk h == 0 || imgSfmt h != 0)) ||
    decide (262144 < 4096 * slot + imgLen h) ||
    (imgCmp h == 1 && (List.range (depth (imgFmt h) / 4)).any fun g => (List.range 128).any fun j =>
      imgIndex m g j / 4 ≤ imgIndex m g j % 4)

/-- A plane loaded from a slot: its own copy of the image. -/
def planeOf (wb : Mem) (slot : Nat) (valid : Bool) : Plane :=
  let m := imgAt wb slot
  { slot := slot, valid := valid, img := if valid then m.filter (fun e => e.1 < imgLen (imgHead m)) else [] }

/-- A write of buffer bytes [lo, hi) empties the planes whose images it touches (R407). -/
def Matrix.touch (m : Matrix) (lo hi : Nat) : Matrix :=
  { m with planes := m.planes.map fun e =>
      if e.2.valid && decide (lo < 4096 * e.2.slot + imgLen (imgHead e.2.img)) && decide (4096 * e.2.slot < hi) then (e.1, { e.2 with valid := false })
      else e }

/-- The slots that the n bytes from a slot's start lie in. -/
def slotsOf (slot n : Nat) : List Nat := (List.range ((n + 4095) / 4096)).map (slot + ·)

/-- The element (k, j) of a plane as a number, typed codes by the type of their block's scale. -/
def planeNum (img : Mem) (k j : Nat) : Num :=
  let h := imgHead img
  decodeNum (imgFmt h) (imgScale img (k / max 1 (blockSize (imgBlk h))) j / 64) (imgCode img k j)

end Sys2Proof.Machine
end

