-- ==== Sys2Proof/Machine/Slot.lean ====
section
/-! DEFINITION. The save area (R258): spans of context memory under recorded frames, a tile's slot, its register images and frames (R249). -/
namespace Sys2Proof.Machine
open Sys2Proof

/-! ## Spans of memory -/

/-- The bytes of m that stand from off, n of them, entered into h from a; of two entries for one byte the first counts. -/
def enter (h : Mem) (a n : Nat) (m : Mem) (off : Nat) : Mem :=
  m.foldr (fun e h => if off ≤ e.1 ∧ e.1 < off + n then tput 0 h (e.1 - off + a) e.2 else h) h

/-- Replace the n bytes at a by the bytes of m from off. -/
def putSpan (h : Mem) (a n : Nat) (m : Mem) (off : Nat) : Mem :=
  enter (h.filter fun e => !(decide (a ≤ e.1) && decide (e.1 < a + n))) a n m off

/-- The n bytes at a, as a memory from off. -/
def getSpan (h : Mem) (a n off : Nat) : Mem := enter [] off n h a

def mshift (off : Nat) (m : Mem) : Mem := m.map fun e => (e.1 + off, e.2)

/-- Write len bytes of m, from its byte off, at a context address; the pages are at most fuel. -/
def State.spanWrite (s : State) (ctx : Nat) (m : Mem) : Nat → Nat → Nat → Nat → State
  | 0, _, _, _ => s
  | fuel + 1, va, off, len =>
    if len = 0 then s
    else
      let n := min len (65536 - va % 65536)
      let s' := match s.physOf ctx (BitVec.ofNat 64 va) with
        | some pa => { s with hbm := putSpan s.hbm pa n m off }
        | none => s
      s'.spanWrite ctx m fuel (va + n) (off + n) (len - n)

/-- Read len bytes at a context address into a memory, from its byte off. -/
def State.spanRead (s : State) (ctx : Nat) : Nat → Nat → Nat → Nat → Mem
  | 0, _, _, _ => []
  | fuel + 1, va, off, len =>
    if len = 0 then []
    else
      let n := min len (65536 - va % 65536)
      let here := match s.physOf ctx (BitVec.ofNat 64 va) with
        | some pa => getSpan s.hbm pa n off
        | none => []
      here ++ s.spanRead ctx fuel (va + n) (off + n) (len - n)

/-- n values of size bytes, stride apart. -/
def putAll (base stride size n : Nat) (f : Nat → Nat) (m : Mem) : Mem :=
  (List.range n).foldl (fun m i => mwrites m (base + stride * i) (leBytes size (f i))) m

/-- A table of the values f gives below n. -/
def tabOf {α : Type} [DecidableEq α] (d : α) (n : Nat) (f : Nat → α) : Tab α :=
  (List.range n).filterMap fun i => if f i = d then none else some (i, f i)

/-! ## The slot of a tile (R258) -/

def State.slotVa (s : State) (ctx t : Nat) : Nat := (s.cx ctx cSAVEVA).toNat + 0x10000 + t * 0x2C0000

def slotRegs : Nat := 0x2AA000
def slotTask : Nat := 0x2AD000
/-- The bytes of a slot that the save engine writes. -/
def slotLen : Nat := 0x2AE000

/-- Where the frame of a stream or thread lies. -/
def State.frameVa (s : State) (ctx : Nat) (w : Who) : Nat :=
  match w with
  | .stream t k => s.slotVa ctx t + 0x2AB000 + 0x800 * k
  | .thread n => (s.cx ctx cSAVEVA).toNat + 0x2C010000 + 0x800 * n
  | .engine _ => (s.cx ctx cSAVEVA).toNat

/-- The register image (0x2A_8000 to 0x2A_AFFF); its inner layout is the model's (log entry 9). -/
def Tile.images (x : Tile) : Mem :=
  let v := x.vreg.foldl (fun m e => mwrites m (0x2A8000 + 256 * e.1) (leBytes 256 e.2.toNat)) []
  let m1 := putAll slotRegs 8 8 64 (fun i => (x.sc.get (BitVec.ofNat 6 i)).toNat) v
  let m2 := putAll (slotRegs + 0x200) 1 1 64 (fun i => if x.sc.empty.contains i then 0 else 1) m1
  let m3 := putAll (slotRegs + 0x240) 8 8 32 (fun i => (tget 0 x.areg i).toNat) m2
  let m4 := putAll (slotRegs + 0x340) 8 8 16 (fun i => (tget 0 x.kreg i).toNat) m3
  let m5 := putAll (slotRegs + 0x3C0) 4 4 4 (fun i => (tget 0 x.lc i).toNat) m4
  let m6 := putAll (slotRegs + 0x3D0) 2 2 64 (fun i => (tget 0 x.flags i).toNat) m5
  let m7 := putAll (slotRegs + 0x450) 1 1 16 (fun i => (tget 0 x.nst i).toNat) m6
  let m8 := putAll (slotRegs + 0x460) 8 8 8 (fun i => ((tget OpQueue.idle x.oq i).ents.length + (tget OpQueue.idle x.oq i).entered.toNat * 2 ^ 32)) m7
  let m9 := putAll (slotRegs + 0x4A0) 8 8 4
    (fun i => ((tget CondBuf.idle x.cb i).recs.length + (if (tget CondBuf.idle x.cb i).closed then 2 ^ 32 else 0))) m8
  let sys := [x.flagsat.toNat, x.lockset.toNat, (if x.mx.strict then 1 else 0) + (if x.mx.run then 2 else 0) + x.mx.smiss.toNat * 2 ^ 16,
    x.mx.p.toNat, fld x.mx.mxrt 0 64, fld x.mx.mxrt 64 64, x.ovfptr.toNat, x.ovflim.toNat, x.mx.ta.toNat + x.mx.tb.toNat * 2 ^ 16,
    (x.stream 0).sig.toNat, (x.stream 1).sig.toNat, (x.stream 2).sig.toNat, (x.stream 3).sig.toNat]
  let m10 := putAll (slotRegs + 0x4C0) 8 8 13 (fun i => nth 0 sys i) m9
  let m11 := putAll (slotRegs + 0x528) 1 1 2 (fun i => let p := tget Plane.idle x.mx.planes i; p.slot + (if p.valid then 128 else 0)) m10
  putAll (slotRegs + 0x530) 8 8 16 (fun i => (tget 0 x.shadow i).toNat) m11

/-- Read the images back into a tile. -/
def Tile.loadScalars (x : Tile) (m : Mem) : Tile :=
  { x with sc := { x.sc with
      regs := tabOf 0 64 fun i => if i = 0 then 0 else mword m (slotRegs + 8 * i)
      empty := (List.range 64).filter fun i => i != 0 && mread m (slotRegs + 0x200 + i) == 0 } }

def Tile.loadAddress (x : Tile) (m : Mem) : Tile := { x with areg := tabOf 0 32 fun i => mword m (slotRegs + 0x240 + 8 * i) }

def Tile.loadVector (x : Tile) (m : Mem) : Tile :=
  { x with
    vreg := tabOf 0 32 fun i => BitVec.ofNat 2048 (mval m (0x2A8000 + 256 * i) 256)
    kreg := tabOf 0 16 fun i => mword m (slotRegs + 0x340 + 8 * i) }

/-- The rest of the register image: lc, f, nst, system registers. -/
def Tile.loadRest (x : Tile) (m : Mem) : Tile :=
  let at' (i : Nat) : Nat := mval m (slotRegs + 0x4C0 + 8 * i) 8
  let y : Tile := { x with
    lc := tabOf 0 4 fun i => BitVec.ofNat 32 (mval m (slotRegs + 0x3C0 + 4 * i) 4)
    lcPrev := tabOf 0 4 fun i => BitVec.ofNat 32 (mval m (slotRegs + 0x3C0 + 4 * i) 4)
    flags := tabOf 0 64 fun i => BitVec.ofNat 16 (mval m (slotRegs + 0x3D0 + 2 * i) 2)
    nst := tabOf 0 16 fun i => BitVec.ofNat 3 (mval m (slotRegs + 0x450 + i) 1)
    flagsat := BitVec.ofNat 64 (at' 0), lockset := BitVec.ofNat 4 (at' 1), ovfptr := BitVec.ofNat 57 (at' 6), ovflim := BitVec.ofNat 40 (at' 7)
    shadow := tabOf 0 16 fun i => mword m (slotRegs + 0x530 + 8 * i)
    mx := { x.mx with
      strict := nfld (at' 2) 0 1 = 1, run := nfld (at' 2) 1 1 = 1, smiss := BitVec.ofNat 32 (nfld (at' 2) 16 32), p := BitVec.ofNat 64 (at' 3),
      mxrt := BitVec.ofNat 128 (at' 4 + at' 5 * 2 ^ 64), ta := BitVec.ofNat 16 (nfld (at' 8) 0 16), tb := BitVec.ofNat 16 (nfld (at' 8) 16 16) } }
  (List.range 4).foldl (fun y k => y.setStream k { y.stream k with sig := BitVec.ofNat 64 (at' (9 + k)) }) y

/-- The counts of the operand queues: a count that is lowered drops the youngest entries. -/
def Tile.loadCounts (x : Tile) (m : Mem) : Tile :=
  { x with oq := (x.oq.map fun e =>
      let h := mval m (slotRegs + 0x460 + 8 * e.1) 8
      (e.1, { e.2 with ents := e.2.ents.take (nfld h 0 32), entered := BitVec.ofNat 32 (nfld h 32 32) })).filter fun e => e.2 != OpQueue.idle }

/-- Read a whole register image back. -/
def Tile.loadImage (x : Tile) (m : Mem) : Tile := ((((x.loadScalars m).loadAddress m).loadVector m).loadRest m).loadCounts m

/-- Where the register image lies in a slot, and its length. -/
def slotImage : Nat := 0x2A8000
def imageLen : Nat := 0x3000

/-- A task with its push context, as the slot keeps it. -/
def QTask.put (q : QTask) (at' : Nat) (m : Mem) : Mem :=
  mwrites (mwrites m at' (leBytes 128 q.desc.toNat)) (at' + 128) (leBytes 4 (q.ctx + q.rect.toNat * 2 ^ 8 + (if q.saved then 2 ^ 24 else 0) + 2 ^ 25))

def QTask.get (m : Mem) (at' : Nat) : Option QTask :=
  let v := mval m (at' + 128) 4
  if nfld v 25 1 = 0 then none
  else some { desc := BitVec.ofNat 1024 (mval m at' 128), ctx := nfld v 0 6, rect := BitVec.ofNat 14 (nfld v 8 14), saved := nfld v 24 1 = 1 }

def Disp.nat (d : Disp) : Nat :=
  d.baddr.toNat + (if d.wv then 2 ^ 64 else 0) + d.wf.toNat * 2 ^ 65 + d.wcnt.toNat * 2 ^ 71 + (if d.sv then 2 ^ 87 else 0) + d.sfl.toNat * 2 ^ 88

def Disp.of (v : Nat) : Disp :=
  { baddr := BitVec.ofNat 57 (nfld v 0 57), wv := nfld v 64 1 = 1, wf := BitVec.ofNat 6 (nfld v 65 6), wcnt := BitVec.ofNat 16 (nfld v 71 16),
    sv := nfld v 87 1 = 1, sfl := BitVec.ofNat 6 (nfld v 88 6) }

/-- A block in progress, beside what its stream's frame holds. -/
def Blk.nat (b : Blk) : Nat :=
  b.hdr.toNat + b.count * 2 ^ 64 + (if b.lock then 2 ^ 96 else 0) + (if b.entered then 2 ^ 97 else 0) + (if b.issued then 2 ^ 98 else 0) +
    (match b.sfl with | some f => 2 ^ 99 + f * 2 ^ 100 | none => 0) + 2 ^ 106 + b.body.length * 2 ^ 107 + b.set.toNat * 2 ^ 118

/-- A parked copy, as the slot keeps it: its descriptor, engine, next piece, signal flag and failure. -/
def Copy.out (c : Copy) (engine : Nat) : List Byte :=
  leBytes 128 c.desc.toNat ++ leBytes 8 c.piece ++
    leBytes 8 (engine + (match c.sgf with | some f => 2 ^ 8 + f * 2 ^ 9 | none => 0) + ((c.failed.map Cause.code).getD 0) * 2 ^ 16)

/-- Command queues, task descriptor, scoreboard, parked copies and rerun slot (0x2A_D000); inner layout as log entry 9. -/
def Tile.taskPart (x : Tile) (copies : List (Nat × Copy)) : Mem :=
  let qs := (List.range 3).foldl (fun m k =>
    let q := tget [] x.cq (k + 1)
    putAll (slotTask + 0x100 * k) 16 16 q.length (fun i => (q.map Disp.nat).getD i 0) (mwrites m (slotTask + 0x300 + k) (leBytes 1 q.length))) []
  let b := putAll (slotTask + 0x310) 16 16 4 (fun k => ((x.stream k).blk.map Blk.nat).getD 0) qs
  let sb := putAll (slotTask + 0x350) 8 8 16 (fun i => (tget 0 x.board i).toNat) b
  let tk := match x.task with
    | some k =>
      mwrites (k.t.put (slotTask + 0x400) sb) (slotTask + 0x490)
        (leBytes 16 (k.q + k.serial.toNat * 2 ^ 8 + k.firstWin.toNat * 2 ^ 32 + (if k.etrig then 2 ^ 64 else 0) + k.locks.length * 2 ^ 72)
          ++ (k.locks.take 32).flatMap fun l => leBytes 8 l.toNat)
    | none => sb
  let cp := mwrites tk (slotTask + 0x5A0) (leBytes 8 copies.length ++ (copies.take 14).flatMap fun e => e.2.out e.1)
  match x.rerun with
  | some (q, t, n) => mwrites (t.put (slotTask + 0xE00) cp) (slotTask + 0xE90) (leBytes 24 (q + n.toNat * 2 ^ 8))
  | none => cp

/-- The copies of a task, with their engines. -/
def State.taskCopies (s : State) (t : Nat) (serial : BitVec 16) : List (Nat × Copy) :=
  s.copies.flatMap fun e => (e.2.filter fun c => c.tile == some t && c.serial == serial).map (e.1, ·)

/-- The slot's bytes, the frames apart: they are written when their streams stop. -/
def State.slotBytes (s : State) (t : Nat) : Mem :=
  let x := s.tile t
  let m1 := x.spad ++ mshift 0x200000 x.mx.wb
  let m2 := x.mx.acc.foldl (fun m e => mwrites m (0x240000 + 4 * e.1) (leBytes 4 e.2.toNat)) m1
  let m3 := x.oq.foldl (fun m e => putAll (0x280000 + 0x1000 * e.1) 256 256 e.2.ents.length (fun i => (e.2.ents.getD i 0).toNat) m) m2
  let m4 := x.cb.foldl (fun m e => putAll (0x288000 + 0x4000 * e.1) 4 4 e.2.recs.length (fun i => (e.2.recs.getD i 0).toNat) m) m3
  let recs := (CtxLog.of s (s.ctxOfTile t)).recs.filter fun r => r.inBuf ∧ r.tile = t
  let m5 := mwrites m4 0x298000 (recs.flatMap UndoRec.out)
  let m6 := m5 ++ x.images
  m6 ++ x.taskPart (match x.task with
    | some k => s.taskCopies t k.serial
    | none => [])

/-- Rebuild a tile from its slot's bytes; its scoreboard stays, since other tasks' copies hold entries of it (R119). -/
def Tile.ofSlot (x : Tile) (m : Mem) : Tile :=
  let oq := tabOf OpQueue.idle 8 fun k =>
    let h := mval m (slotRegs + 0x460 + 8 * k) 8
    { ents := (List.range (min 16 (nfld h 0 32))).map fun e => BitVec.ofNat 2048 (mval m (0x280000 + 0x1000 * k + 256 * e) 256),
      loads := [], entered := BitVec.ofNat 32 (nfld h 32 32) }
  let cb := tabOf CondBuf.idle 4 fun k =>
    let h := mval m (slotRegs + 0x4A0 + 8 * k) 8
    { recs := (List.range (min 4096 (nfld h 0 32))).map fun e => BitVec.ofNat 32 (mval m (0x288000 + 0x4000 * k + 4 * e) 4), closed := nfld h 32 1 = 1 }
  let cq := tabOf [] 4 fun k =>
    if k = 0 then []
    else (List.range (min 16 (mval m (slotTask + 0x300 + (k - 1)) 1))).map fun i => Disp.of (mval m (slotTask + 0x100 * (k - 1) + 16 * i) 16)
  let y := (((x.loadScalars m).loadAddress m).loadVector m).loadRest m
  let tv := mval m (slotTask + 0x490) 16
  { y with
    spad := getSpan m 0 0x200000 0
    oq := oq, cb := cb, cq := cq
    rerun := (QTask.get m (slotTask + 0xE00)).map fun t =>
      (mval m (slotTask + 0xE90) 1, t, BitVec.ofNat 128 (mval m (slotTask + 0xE91) 16))
    task := (QTask.get m (slotTask + 0x400)).map fun t =>
      { t := t, q := nfld tv 0 8, serial := BitVec.ofNat 16 (nfld tv 8 16), firstWin := BitVec.ofNat 32 (nfld tv 32 32), etrig := nfld tv 64 1 = 1,
        locks := t.parked.locks, fatal := none }
    mx := { Matrix.idle with
      strict := y.mx.strict, run := y.mx.run, smiss := y.mx.smiss, p := y.mx.p, mxrt := y.mx.mxrt, ta := y.mx.ta, tb := y.mx.tb
      wb := getSpan m 0x200000 0x40000 0
      acc := tabOf 0 65536 fun i => BitVec.ofNat 32 (mval m (0x240000 + 4 * i) 4)
      planes := tabOf Plane.idle 2 fun i =>
        let h := mval m (slotRegs + 0x528 + i) 1
        planeOf (getSpan m 0x200000 0x40000 0) (nfld h 0 7) (nfld h 7 1 = 1) } }

/-! ## Frames (R249, R250) -/

/-- Instructions the control pipeline still holds, as replay entries in issue order (R250, R459). -/
def Pend.nat (p : Pend) : Nat :=
  1 + p.rem * 2 ^ 3 + p.reg.toNat * 2 ^ 10 + p.insn.toNat * 2 ^ 32 + p.pc.toNat * 2 ^ 64 + p.opa.toNat * 2 ^ 128 + p.opb.toNat * 2 ^ 192

def VarOp.nat (o : VarOp) : Nat :=
  1 + 1 * 2 ^ 1 + o.reg.toNat * 2 ^ 10 + o.insn.toNat * 2 ^ 32 + o.pc.toNat * 2 ^ 64 + o.opa.toNat * 2 ^ 128 + o.opb.toNat * 2 ^ 192

/-- An operation a stop does not wait for: a load whose value is not fixed, or one still waiting (R459). -/
def VarKind.replayed (k : VarKind) : Bool :=
  match k with
  | .load .. | .again .. | .reg .. | .acq .. | .cwait .. | .mrecv .. => true
  | _ => false

/-- The operations that a stop does not wait for leave room for each other in a replay queue (R250). -/
def Scalars.fits (c : Scalars) : Bool := decide ((c.ops.filter fun o => o.what.replayed).length ≤ 32)

/-- Insert by issue order. -/
def insertEntry (e : Nat × Nat) : List (Nat × Nat) → List (Nat × Nat)
  | [] => [e]
  | f :: fs => if e.1 < f.1 then e :: f :: fs else f :: insertEntry e fs

def Scalars.entries (c : Scalars) : List (Nat × Nat) :=
  ((c.ops.filter fun o => o.what.replayed).map fun o => (o.id, o.nat)).foldl (fun l e => insertEntry e l) (c.pend.map fun p => (p.id, p.nat))

/-- The frame's bytes (R249). -/
def frameBytes (w : Who) (st : Stream) (k : Stopped) (fatal : Bool) (ents : List Nat) : List Byte :=
  let inb := match st.blk with
    | some b => b.entered && !b.issued
    | none => false
  let boff := (st.blk.map (·.off)).getD 0
  let iter := (st.blk.map (·.iter)).getD 0
  let h := k.cause.code + w.num * 2 ^ 6 + (if w.isThread then 2 ^ 8 else 0) + (if fatal then 2 ^ 9 else 0) + ents.length * 2 ^ 10 +
    (if inb then 2 ^ 16 else 0) + k.insn.toNat * 2 ^ 32 + st.pc.toNat * 2 ^ 64 + k.info.toNat * 2 ^ 128 + k.ccc.toNat * 2 ^ 192 +
    st.work % 2 ^ 64 * 2 ^ 256 + (if inb then boff * 2 ^ 320 + iter * 2 ^ 352 else 0)
  leBytes 64 h ++ (List.range 32).flatMap fun i => leBytes 32 (ents.getD i 0)

end Sys2Proof.Machine
end

