-- ==== Sys2Proof/Machine/Operands.lean ====
section
/-! DEFINITION. Operand forms: register sources and destinations (R231-R233, R335), addresses and the spaces they name
(R102-R104, R342-R344), the scratchpad port (R237) and the range scoreboard (R119, R120). -/
namespace Sys2Proof.Machine
open Sys2Proof

/-! ## Registers -/

/-- A scalar source: an empty register stalls, or raises FE_TRAP when its w bit is set (R232). -/
def State.src (s : State) (r : BitVec 6) (trap : Bool := false) : Res Word :=
  if s.isEmpty s.cur r then (if trap then .raise .feTrap 0 else .stall .emptyReg s) else .ok (s.rs r)

/-- A scalar destination: an empty one is FE_DOUBLE (R233); s16-s63 are not written in a match-point handler (R288). -/
def State.dst (s : State) (d : BitVec 6) : Res Unit :=
  if s.inHandler s.cur && 16 ≤ d.toNat then .raise .priv 0
  else if s.isEmpty s.cur d then .raise .feDouble 0 else .ok ()

/-- The tile of the issuing stream; a Ferry thread is refused with STREAM_CLASS (R321, R359). -/
def State.onTile (s : State) : Res Nat :=
  match s.cur with
  | .stream t _ => .ok t
  | _ => .raise .streamClass 0

/-- The issuing Ferry thread; a tile is refused. -/
def State.onThread (s : State) (c : Cause := .priv) : Res Nat :=
  match s.cur with
  | .thread n => .ok n
  | _ => .raise c 0

/-- Not inside a block body of the control stream (R225). -/
def State.outsideBlock (s : State) : Res Unit := Res.check ((s.strm s.cur).blk.isNone || s.cur.num != 0) .loopbuf

/-- Not inside a match-point handler (R288). -/
def State.outsideHandler (s : State) : Res Unit := Res.check (!s.inHandler s.cur) .priv

/-- An ACQ or ACQT of the issuer has not written its destination (R349). -/
def State.acquiring (s : State) : Bool :=
  (s.scal s.cur).ops.any fun o => fld o.insn 26 6 = 0x37 && fld o.insn 0 6 ≤ 1 && o.insn.getLsbD 31

/-- Instructions that read or write memory, objects, flags or command queues wait behind an ACQ (R349). -/
def State.acqHeld (s : State) : Res Unit := if s.acquiring then .stall .acqHold s else .ok ()

/-- Format TRI with a fixed latency: d takes a function of a and b. -/
def State.triRes (s : State) (d a b : BitVec 6) (wa wb : Bool) (lat bytes : Nat) (op : Word → Word → Word) : Res State :=
  (s.src a wa).bind fun va => (s.src b wb).bind fun vb => (s.dst d).bind fun _ =>
    .ok ((s.fixed d lat (op va vb) va vb).retire bytes)

/-- A single source and an immediate, with latency 1. -/
def State.immRes (s : State) (d a : BitVec 6) (bytes : Nat) (imm : Word) (op : Word → Word → Word) : Res State :=
  (s.src a).bind fun va => (s.dst d).bind fun _ => .ok ((s.fixed d 1 (op va imm) va imm).retire bytes)

/-- A logical operation with a zero-extended immediate: a replay entry captures the sign-extended one (R459). -/
def State.logicRes (s : State) (d a : BitVec 6) (bytes : Nat) (sext zext : Word) (op : Word → Word → Word) : Res State :=
  (s.src a).bind fun va => (s.dst d).bind fun _ => .ok ((s.fixed d 1 (op va zext) va sext).retire bytes)

/-- A result that is no function of two captured values: the entry captures the value (R459). -/
def State.valueRes (s : State) (d : BitVec 6) (lat bytes : Nat) (v : Word) : Res State :=
  (s.dst d).bind fun _ => .ok ((s.fixed d lat v v 0).retire bytes)

/-! ## Spaces (R102-R104) -/

/-- Where an access goes. -/
inductive Loc where
  | spad (tile off : Nat) (causeway : Bool)
  | hbm (va : Word) (pa : Nat) (tx : Option (Nat × Nat)) (rx : Option (Nat × Nat))
  | reg (off : Nat)
  deriving DecidableEq, Repr

/-- The tile a causeway code reaches (R102). -/
def quadTile (t code : Nat) : Nat := t ^^^ (if code = 1 then 1 else if code = 2 then 16 else 17)

/-- Size of a window in bytes (R104). -/
def winSize (e : BitVec 128) : Nat := (if fld e 64 24 = 0 then 2 ^ 24 else fld e 64 24) * 65536

def winBase (e : BitVec 128) : Nat := fld e 16 40 * 65536

/-- The window entry, when it is valid, owned and holds [off, off + n). -/
def State.window (s : State) (rx : Bool) (w ctx off n : Nat) : Option (BitVec 128) :=
  let e := s.reg128 (if rx then offRxw w else offTxw w)
  if bit e 0 && fld e 1 6 == ctx && off + n ≤ winSize e then some e else none

/-- The virtual address that a window offset aliases. -/
def winVa (e : BitVec 128) (off : Nat) : Word := BitVec.ofNat 64 ((winBase e + off) % 2 ^ 56)

/-- Decode an effective address for an access of n bytes (R344, R103). -/
def State.locate (s : State) (w : Who) (ea : Word) (n : Nat) (store : Bool) (atomic : Bool := false) (al : Nat := n) : Res (Loc × State) :=
  let ctx := s.ctxOf w
  let aligned : Res Unit := Res.check (ea.toNat % al == 0) (if atomic then .atomicAlign else .align) ea
  if fld ea 57 7 ≠ 0 then .raise .coreUnmapped ea
  else if !bit ea 56 then
    aligned.bind fun _ => (s.translate w ctx ea store).bind fun r => .ok (.hbm ea r.1 none none, r.2)
  else
    let code := fld ea 52 4
    match w, code with
    | .stream t _, 0 =>
      (Res.check (fld ea 21 31 == 0) .spadRange ea).bind fun _ => aligned.bind fun _ => .ok (.spad t (fld ea 0 21) false, s)
    | .stream t _, 1 | .stream t _, 2 | .stream t _, 3 =>
      (Res.check (fld ea 21 31 == 0) .spadRange ea).bind fun _ =>
      (Res.check (s.tileCtx (quadTile t code) == some ctx) .perm ea).bind fun _ =>
      aligned.bind fun _ => .ok (.spad (quadTile t code) (fld ea 0 21) true, s)
    | _, 4 =>
      (Res.check (!atomic) .perm ea).bind fun _ =>
      aligned.bind fun _ =>
        match s.window false (fld ea 40 12) ctx (fld ea 0 40) n with
        | none => .raise .windowUnmapped ea
        | some e =>
          (s.translate w ctx (winVa e (fld ea 0 40)) store).bind fun r =>
            .ok (.hbm (winVa e (fld ea 0 40)) r.1 (some (fld ea 40 12, fld ea 0 40)) none, r.2)
    | _, 5 =>
      aligned.bind fun _ =>
        match s.window true (fld ea 40 12) ctx (fld ea 0 40) n with
        | none => .raise .windowUnmapped ea
        | some e =>
          (s.translate w ctx (winVa e (fld ea 0 40)) store).bind fun r =>
            .ok (.hbm (winVa e (fld ea 0 40)) r.1 none (some (fld ea 40 12, fld ea 0 40)), r.2)
    | .thread _, 6 =>
      if !s.sysPriv ctx then .raise .priv ea
      else if fld ea 24 28 ≠ 0 then .raise .coreUnmapped ea
      else if n ≠ 8 ∨ atomic ∨ ea.toNat % 8 ≠ 0 then .raise .align ea
      else .ok (.reg (fld ea 0 24), s)
    | _, 6 => .raise .priv ea
    | _, _ => .raise .coreUnmapped ea

/-! ## The scratchpad port (R151, R237, R289) -/

/-- Ask the port of tile t for the banks of an access of the party at issue (R237). The access is made once every bank has granted it; until then
the request stands and the stream stalls (R228). State.arbitrate makes the grants, after every stream has asked, and lets those go on that have
theirs in the same cycle. -/
def State.grant (s : State) (t off n req : Nat) : Res State :=
  let mine (a : PortAsk) : Bool := a.who == s.cur && a.req == req && a.off == off && a.len == n
  match (s.tile t).asks.find? mine with
  | some a =>
    if a.left.isEmpty then .ok (s.modTile t fun x => { x with asks := x.asks.filter fun b => !mine b })
    else .stall .port (s.modTile t fun x => { x with asks := x.asks.map fun b => if mine b then { b with at' := s.ccc.toNat } else b })
  | none =>
    .stall .port (s.modTile t fun x =>
      { x with asks := x.asks ++ [{ who := s.cur, req := req, off := off, len := n, left := banksOf off n, at' := s.ccc.toNat }] })

/-- The requester number of a stream's access to a scratchpad (R237). -/
def requester (w : Who) (own target : Nat) : Nat :=
  if own ≠ target then (match own ^^^ target with | 1 => 4 | 16 => 5 | _ => 6)
  else if w.num = 0 then 0 else 1

/-- Lines [first, last] of a scratchpad touch a scoreboard range that holds the access up (R120). -/
def Tile.boardHit (x : Tile) (off n : Nat) (store : Bool) : Bool :=
  x.board.any fun e =>
    bit e.2 0 && (bit e.2 2 || (store && bit e.2 1)) && decide (fld e.2 3 15 ≤ (off + n - 1) / 64) && decide (off / 64 ≤ fld e.2 18 15)

def State.boardClear (s : State) (t off n : Nat) (store : Bool) : Res Unit :=
  if (s.tile t).boardHit off n store then .stall .scoreboard s else .ok ()

/-! ## Values -/

/-- Sign- or zero-extend an n-byte value. -/
def extend (n : Nat) (signed : Bool) (v : Nat) : Word :=
  if signed then ((BitVec.ofNat 64 v) <<< (64 - 8 * n)).sshiftRight (64 - 8 * n) else BitVec.ofNat 64 (v % 2 ^ (8 * n))

/-- Access size of a MEM load's op (R342), and whether it sign-extends. -/
def loadForm (op : Nat) : Nat × Bool :=
  match op with
  | 0 => (1, true) | 1 => (1, false) | 2 => (2, true) | 3 => (2, false) | 4 => (4, true) | 5 => (4, false) | _ => (8, false)

/-- The form of a load's instruction word; a compact LDD is 8 bytes. -/
def loadFormOf (insn : BitVec 32) : Option (Nat × Bool) :=
  if insn.getLsbD 31 then (if fld insn 26 6 = 0x34 then some (loadForm (fld insn 11 3)) else none)
  else if fld insn 10 5 = 0x0C then some (8, false) else none

end Sys2Proof.Machine
end

