-- ==== Sys2Proof/Machine/Ops.lean ====
section
/-! DEFINITION. Taking an exception and returning from one (R246-R251, R101), and how a meaning's checks become its answer. -/
namespace Sys2Proof.Machine
open Sys2Proof

/-! ## Frames -/

/-- Every instruction a stream has issued has completed, or is held in its frame's replay queue (R250, R459). A stop waits while the queue
cannot hold the operations in flight (log entry 10). -/
def State.quiet (s : State) (w : Who) : Bool :=
  let held (k : Nat) : Bool := (s.scal w).ops.all fun o => o.stream != k || (k == 0 && o.what.replayed)
  match w with
  | .stream t 0 => held 0 && (s.scal w).fits && (s.tile t).handler.isNone
  | .stream t 1 => held 1 && (s.tile t).oq.all fun e => 6 ≤ e.1 || e.2.loads.isEmpty
  | .stream t 3 => (s.tile t).mx.runs.isEmpty && (s.tile t).mx.drains.isEmpty
  | .stream _ _ => true
  | .thread _ => held 0 && (s.scal w).fits
  | .engine _ => true

/-- Write the frame of a stopped stream or thread, with the register image it may resume from; the oldest fixed-latency results that the
32 replay entries cannot hold beside the operations in flight are written to their registers now (R249, R250; log entry 10). -/
def State.writeFrame (s : State) (w : Who) (fatal : Bool) : State :=
  match (s.strm w).stop with
  | none => s
  | some k =>
    let ctx := s.ctxOf w
    let replay := w.num == 0
    let extra := (s.scal w).entries.length - 32
    let s1 := if replay then s.modScal w fun c =>
        let early := c.pend.take extra
        early.foldl (fun c p => c.set p.reg p.val) { c with pend := c.pend.drop extra } else s
    let ents := if replay then ((s1.scal w).entries.map (·.2)).take 32 else []
    let s2 := s1.physWrite ctx (BitVec.ofNat 64 (s1.frameVa ctx w)) (frameBytes w (s1.strm w) k fatal ents)
    let s3 := match w with
      | .stream t _ =>
        let m := (s2.tile t).images
        (s2.spanWrite ctx m 64 (s2.slotVa ctx t + slotImage) slotImage imageLen).modTile t fun x => { x with image := getSpan m slotImage imageLen slotImage }
      | _ => s2
    let s4 := if replay then s3.modScal w fun c => { c with pend := [], ops := c.ops.filter fun o => !o.what.replayed } else s3
    -- a PUBLISH under way has had no effect, and is issued afresh (R350)
    let s5 := s4.modStrm w fun st => { st with stop := some { k with framed := true }, counted := false }
    { s5 with pubs := s5.pubs.filter fun p => p.who != some w }

/-- Dispatch of a trap to the context's thread group (R248). -/
def State.trapDispatch (s : State) (ctx t k : Nat) (c : Cause) : State :=
  let r1 := BitVec.ofNat 64 (t + k * 2 ^ 8 + c.code * 2 ^ 10)
  let regs := tput 0 (tput 0 (tput 0 [] 1 r1) 2 (BitVec.ofNat 64 (s.frameVa ctx (.stream t k)))) 3 s.ccc
  s.wake (s.cxF ctx cTRAPGRP 0 4) { pc := s.cx ctx cTRAPVEC, ctx := ctx, regs := regs, arr := none }

/-- The stopped stream's frame, once every instruction it issued has completed, and then its dispatch (R248, R250). -/
def State.frameIfQuiet (s : State) (t k : Nat) : State :=
  let w : Who := .stream t k
  match (s.strm w).stop with
  | some p =>
    if p.framed || !s.quiet w || !(p.cause.resumable) || ((s.tile t).task.bind (·.fatal)).isSome then s
    else
      let s1 := s.writeFrame w false
      if p.cause = .preempt then s1 else s1.trapDispatch (s.ctxOfTile t) t k p.cause
  | none => s

/-! ## Taking an exception -/

/-- A stream raises a cause (R246, R247): it stops with no effect of the instruction; a resumable cause holds the task and is
dispatched, any other makes the task fatal. -/
def State.raiseStream (s : State) (t k : Nat) (c : Cause) (info : Word) : State :=
  let ctx := s.ctxOfTile t
  let resumes := c.resumable && bit (s.cx ctx cTRAPGRP) 4 && !(k == 0 && (s.tile t).handler.isSome)
  let detail := if c = .windowUnmapped then fld info 40 12 else 0
  let s1 := if c.reports then s.report c ctx 0 t detail else s
  let stop : Stopped := { cause := c, info := info, insn := s.curInsn, ccc := s.ccc, framed := false }
  let s2 := s1.modStrm (.stream t k) fun st => { st with stop := some stop, stall := .none }
  if resumes then (s2.modTile t fun x => { x with held := true }).frameIfQuiet t k
  else s2.modTile t fun x => { x with task := x.task.map fun q => { q with fatal := some (q.fatal.getD c) } }

/-- A thread's run ends: the thread is idle (R101). -/
def State.endRun (s : State) (n : Nat) : State :=
  let s1 := (s.forgetSent (.thread n) (s.thr n).serial.toNat).modThr n fun x => { x with running := false, st := .idle, sc := .idle, arr := none }
  { s1 with pubs := s1.pubs.filter fun p => p.who != some (.thread n) }

/-- A cause raised on a Ferry thread ends its run and writes a FERRY.FLOG record with RKIND 2 (R101, R246). -/
def State.raiseThread (s : State) (n : Nat) (c : Cause) : State :=
  let ctx := (s.thr n).ctx
  let f := s.flog n 0 c ctx 2
  (if c.reports then f.2.report c ctx 1 n f.1 else f.2).endRun n

/-- Taking an exception: the party at issue raises a cause with its INFO. -/
def State.raise (s : State) (c : Cause) (info : Word := 0) : State :=
  match s.cur with
  | .stream t k => s.raiseStream t k c info
  | .thread n => s.raiseThread n c
  | .engine _ => s

/-- An instruction's checks become its answer: its next state; a stall, which leaves the pc; the exception taken; a fault. -/
def Res.finish (r : Res State) (s : State) : Ans :=
  match r with
  | .ok s' => .next s'
  | .stall w s' => .next (s'.stalled w)
  | .raise c i => .next (s.raise c i)
  | .denied va w e => .next ((s.fillTlb w e).raise .perm va)
  | .fault f => .fault f

/-! ## Returning from one -/

/-- A fixed-latency entry's value when its frame resumes (R459). -/
def State.replayValue (s : State) (t : Nat) (insn : BitVec 32) (opa opb : Word) : Word :=
  match loadFormOf insn with
  | some (n, signed) =>
    let target := if fld opa 52 4 = 0 then t else quadTile t (fld opa 52 4)
    extend n signed (mval (s.tile target).spad (fld opa 0 21) n)
  | none => match aluOf insn with
    | some f => f opa opb
    | none => opa

/-- The halfwords of a block body, each translated under R218. -/
def State.bodyAt (s : State) (ctx : Nat) (va : Word) : Nat → Option (List (BitVec 16))
  | 0 => some []
  | n + 1 =>
    if fld va 56 8 ≠ 0 then none
    else match s.walk ctx va with
      | some (l, _) =>
        if bit l 0 && bit l 3 && pteFrame l * 65536 < hbmEnd then
          (s.bodyAt ctx (va + 2) n).map fun r => BitVec.ofNat 16 (mval s.hbm (pteFrame l * 65536 + fld va 0 16) 2) :: r
        else none
      | none => none

/-- What a load waits for once its address is decoded. -/
def State.loadKind (s : State) (w : Who) (n : Nat) (signed : Bool) (l : Loc) : VarKind :=
  match l with
  | .hbm _ pa _ _ => .load (s.ctxOf w) pa n signed
  | .spad t off _ => .value (extend n signed (mval (s.tile t).spad off n))
  | .reg off => .reg off

/-- What a variable-latency entry waits for when it is issued afresh (R459). -/
def State.replayKind (s : State) (w : Who) (insn : BitVec 32) (pc opa opb : Word) : Res VarKind :=
  match loadFormOf insn with
  | some (n, signed) =>
    match s.locate w opa n false with
    | .ok r => .ok (s.loadKind w n signed r.1)
    | .stall _ _ => .ok (.again opa n signed)
    | .raise c i => .raise c i
    | .denied va u e => .denied va u e
    | .fault f => .fault f
  | none =>
    if fld insn 26 6 = 0x37 then .ok (.acq opa (opb.setWidth 32))
    else if fld insn 26 6 = 0x3A then .ok (.cwait (fld opa 0 14) opb)
    else
      -- the third source and the limit of an MRECV stand in its second word
      let w1 : BitVec 32 := match s.bodyAt (s.ctxOf w) (pc + 4) 2 with
        | some [hi, lo] => hi ++ lo
        | _ => 0
      .ok (.mrecv opa opb (s.rd w (w1.extractLsb' 26 6)) (fld w1 0 20))

/-- Re-inject one replay entry: a fixed-latency write at its resumed step, or an operation issued afresh (R251). -/
def State.replayEntry (s : State) (w : Who) (t e : Nat) : State :=
  let insn := BitVec.ofNat 32 (nfld e 32 32)
  let dst := BitVec.ofNat 6 (nfld e 10 6)
  let pc := BitVec.ofNat 64 (nfld e 64 64)
  let opa := BitVec.ofNat 64 (nfld e 128 64)
  let opb := BitVec.ofNat 64 (nfld e 192 64)
  let s1 := { s with nextId := s.nextId + 1 }
  if nfld e 0 1 = 0 then s
  else if nfld e 1 2 = 0 then
    let p : Pend := { id := s.nextId, reg := dst, val := s.replayValue t insn opa opb, rem := nfld e 3 7, insn := insn, pc := pc,
                      opa := opa, opb := opb, reread := (loadFormOf insn).isSome }
    s1.modScal w fun c => { c with pend := c.pend ++ [p] }
  else
    match s.replayKind w insn pc opa opb with
    | .ok what =>
      let o : VarOp := { id := s.nextId, reg := dst, insn := insn, stream := 0, pc := pc, notBefore := s.ccc, since := s.ccc, what := what,
                         command := fld insn 26 6 = 0x3A || fld insn 26 6 = 0x3B, opa := opa, opb := opb }
      s1.modScal w fun c => { c.markEmpty dst with ops := c.ops ++ [o] }
    | .raise c i =>
      match w with
      | .stream t k => s1.raiseStream t k c i
      | .thread n => s1.raiseThread n c
      | .engine _ => s1
    | _ => s1

/-- The bytes of a memory that differ from those of another, laid over a third. -/
def overlay (live old new : Mem) : Mem :=
  let keys := (old.map (·.1) ++ new.map (·.1)).eraseDups.filter fun a => mread old a != mread new a
  keys.foldl (fun m a => tput 0 m a (mread new a)) live

/-- The register image that the trap thread has changed in the slot is loaded: what it left as it was keeps its present value, since the
streams that run on have changed it since (R247, R251; log entry 129). -/
def State.loadChanged (s : State) (ctx t : Nat) : State :=
  let now := getSpan (s.spanRead ctx 64 (s.slotVa ctx t + slotImage) slotImage imageLen) slotImage imageLen slotImage
  let old := (s.tile t).image
  if now = old then s
  else s.modTile t fun x => { x.loadImage (overlay (getSpan x.images slotImage imageLen slotImage) old now) with image := now }

/-- Resume a stopped stream or thread from the bytes of its frame (R251). -/
def State.resumeFrame (s : State) (w : Who) : State :=
  let ctx := s.ctxOf w
  let va := s.frameVa ctx w
  let h := s.physNat ctx (BitVec.ofNat 64 va) 64
  let ents := (List.range (min 32 (nfld h 10 6))).map fun i => s.physNat ctx (BitVec.ofNat 64 (va + 64 + 32 * i)) 32
  let pc := BitVec.ofNat 64 (nfld h 64 64)
  let inb := nfld h 16 1 = 1
  let boff := nfld h 320 32
  let hdrVa := pc - BitVec.ofNat 64 (2 * boff + 4)
  let hdr := match s.bodyAt ctx hdrVa 2 with
    | some [hi, lo] => hi ++ lo
    | _ => 0
  let body := s.bodyAt ctx (hdrVa + 4) (fld hdr 16 10)
  let blk := fun (b : Option Blk) =>
    if inb then
      let b0 := b.getD { hdr := hdrVa, body := [], off := 0, iter := 0, count := 1, lock := bit hdr 15, sfl := none, issued := false,
                              entered := true, set := 0 }
      some { b0 with hdr := hdrVa, body := body.getD [], off := boff, iter := nfld h 352 32, issued := false, entered := true }
    else match b with
      | some b0 => if b0.entered && !b0.issued then none else some { b0 with hdr := if b0.issued then b0.hdr else pc }
      | none => none
  let s1 := match w with
    | .stream t _ => s.loadChanged ctx t
    | _ => s
  let bar := nfld h 58 6 = 0x37 ∧ nfld h 32 6 = 0x08 ∧ nfld h 128 64 = 1
  let s2 := s1.modStrm w fun st =>
    { st with stop := none, stall := .none, pc := pc, work := nfld h 256 64, blk := blk st.blk, bubbles := 0,
              reached := none, free := decide (nfld h 0 6 = Cause.schedMiss.code), pass := decide (nfld h 0 6 = Cause.matchpoint.code), counted := decide bar }
  let t := w.tile?.getD 0
  let s3 := ents.foldl (fun s e => s.replayEntry w t e) s2
  if inb && body.isNone then
    match w with
    | .stream t k => s3.raiseStream t k .coreUnmapped pc
    | .thread n => s3.raiseThread n .coreUnmapped
    | .engine _ => s3
  else s3

/-- RETI's effect on a stream of a tile (R251): refusals, then the resumption; the hold ends with the last trapped stream. -/
def State.returnTo (s : State) (t k : Nat) : Res State :=
  let x := s.tile t
  let w : Who := .stream t k
  let ctx := s.ctxOfTile t
  let va := s.frameVa ctx w
  let trapped (j : Nat) : Bool := match (x.stream j).stop with
    | some p => p.framed && p.cause != .preempt
    | none => false
  let h := s.physNat ctx (BitVec.ofNat 64 va) 64
  let ents := (List.range (min 32 (nfld h 10 6))).map fun i => s.physNat ctx (BitVec.ofNat 64 (va + 64 + 32 * i)) 32
  let bad := nfld h 9 1 = 1 || nfld h 17 15 ≠ 0 || nfld h 384 128 ≠ 0 || 32 < nfld h 10 6 ||
    ents.any fun e => nfld e 0 1 = 1 && (2 ≤ nfld e 1 2 || 96 < nfld e 3 7 || nfld e 16 16 ≠ 0)
  if !x.held || !trapped k || s.mstate ctx ≠ 0 then .raise .perm 0
  else if bad then .raise .rsvField 0
  else
    let s1 := s.resumeFrame w
    let more := (List.range 4).any fun j => j != k && (match ((s1.tile t).stream j).stop with
      | some p => p.cause != .preempt
      | none => false)
    .ok (s1.modTile t fun y => { y with held := more })

end Sys2Proof.Machine
end

