-- ==== Sys2Proof/Machine/Flags.lean ====
section
/-! DEFINITION. Sync flags (R219, R220): their changes, with their FLAG records (R273), and what they wake. -/
namespace Sys2Proof.Machine
open Sys2Proof

/-- An event that ends a WFE of a party (R358). -/
def State.wakeWfe (s : State) (w : Who) : State :=
  if (s.strm w).wfe.isSome then s.modStrm w fun st => { st with woken := true } else s

/-- An event that ends a WFE of a tile's control stream. -/
def Tile.wakeControl (x : Tile) : Tile := if (x.stream 0).wfe.isSome then x.setStream 0 { x.stream 0 with woken := true } else x

/-- The common trigger wakes every tile's control stream (R358). -/
def State.wakeTiles (s : State) : State := { s with tiles := s.tiles.map fun e => (e.1, e.2.wakeControl) }

/-- A change of a counter wakes the threads of its context that wait (R359). -/
def State.wakeThreads (s : State) (n : Nat) : State :=
  { s with threads := s.threads.map fun e =>
      if e.2.st.wfe.isSome && s.ownsCnt e.2.ctx n then (e.1, { e.2 with st := { e.2.st with woken := true } }) else e }

def Tile.flag (x : Tile) (f : Nat) : BitVec 16 := tget 0 x.flags f

/-- Space for a FLAG record (R274). -/
def State.flagReserve (s : State) (src t f : Nat) : Res State := s.reserve src t (s.ctxOfTile t) 0 (BitVec.ofNat 64 f)

/-- Set a flag of a tile, with its record; its space is reserved. -/
def State.flagPut (s : State) (src t f : Nat) (v : BitVec 16) : State :=
  let x := s.tile t
  let r : UndoRec :=
    { rtype := 2, akind := 0, atom := false, tile := t, src := src, win := x.win,
      addr := BitVec.ofNat 64 (f % 64 + (x.flag f).toNat * 2 ^ 6), old := [], inBuf := true }
  ((s.record (s.ctxOfTile t) r (leBytes 2 v.toNat)).modTile t fun y => { y with flags := tput 0 y.flags f v }).wakeWfe (.stream t 0)

/-- Add one to a flag; at 65,535 it stays and its FLAGSAT bit is set (R219). -/
def State.flagAdd (s : State) (src t f : Nat) : State :=
  let v := (s.tile t).flag f
  if v = 0xFFFF then (s.flagPut src t f v).modTile t fun y => { y with flagsat := y.flagsat ||| (1 <<< (f % 64)) }
  else s.flagPut src t f (v + 1)

/-- A waiting stream takes n from a flag that holds at least n, or takes nothing (R216, R219, R352). -/
def State.flagTake (s : State) (src t f n : Nat) : Option State :=
  let v := (s.tile t).flag f
  if n ≤ v.toNat then some (s.flagPut src t f (v - BitVec.ofNat 16 n)) else none

/-! ## Subgroups (R212, R213) -/

/-- The corner and size of a rectangle code. -/
def rectX (c : Nat) : Nat := nfld c 0 4
def rectY (c : Nat) : Nat := nfld c 4 4
def rectW (c : Nat) : Nat := 2 ^ nfld c 8 3
def rectH (c : Nat) : Nat := 2 ^ nfld c 11 3

/-- A rectangle obeys R212. -/
def rectOk (c : Nat) : Bool :=
  decide (nfld c 8 3 ≤ 4) && decide (nfld c 11 3 ≤ 4) && rectX c % rectW c == 0 && rectY c % rectH c == 0 &&
    decide (rectX c + rectW c ≤ 16) && decide (rectY c + rectH c ≤ 16)

/-- The logical tiles of a rectangle, in row order. -/
def rectTiles (c : Nat) : List Nat :=
  (List.range (rectH c)).flatMap fun j => (List.range (rectW c)).map fun i => rectX c + i + 16 * (rectY c + j)

/-- A subgroup code that the issuing tile may name: a rectangle that holds the tile and lies in its launch rectangle (R213). -/
def State.subgroupOk (s : State) (t c : Nat) : Bool :=
  rectOk c && (rectTiles c).contains t &&
    (match (s.tile t).task with
     | some k => (rectTiles c).all fun u => (rectTiles k.t.rect.toNat).contains u
     | none => false)

end Sys2Proof.Machine
end

