-- ==== Sys2Proof/Machine/Memory.lean ====
section
/-! DEFINITION. Scalar loads and stores as shared operations (R342-R345), and when a store is performed (R127, R343). -/
namespace Sys2Proof.Machine
open Sys2Proof

/-- A party's outstanding HBM writes: those of its tile, each range of a store and each line of an RST counted (R203). -/
def State.writesOut (s : State) (w : Who) : Nat :=
  ((s.stores.filter fun e => match e.who with
    | some u => u.tile? == w.tile? && (u.tile?.isSome || u == w)
    | none => false).map fun e => e.segs.length).sum

/-- Valid slots of a TX window, ascending (R137). -/
def State.slots (s : State) (w : Nat) : List Nat := (List.range 16).filter fun i => bit (s.reg (offTxDst (16 * w + i))) 0

def State.slotChip (s : State) (w i : Nat) : Nat := s.regF (offTxDst (16 * w + i)) 1 10
def State.slotRxw (s : State) (w i : Nat) : Nat := s.regF (offTxDst (16 * w + i)) 11 12

/-- HORIZON records a reflected store writes: one for each valid slot but a loop-back (R277, R47). -/
def State.horizonSlots (s : State) (w : Nat) : List Nat := (s.slots w).filter fun i => s.slotChip w i != s.chip

/-- The reflection of a store to a TX window that issues now: it goes to the slots that are valid now (R137). -/
def State.reflectTo (s : State) (w off : Nat) (tok : Option Word) : Reflect :=
  { win := w, off := off, tok := tok, slots := (s.slots w).map fun i => (i, s.slotChip w i, s.slotRxw w i), rop := none }

/-- Reserve a store's record and the HORIZON records of its reflection (R274, R277, R456). -/
def State.reserveStore (s : State) (w : Who) (va : Word) (n : Nat) (tx : Option Nat) : Res State :=
  let c := s.ctxOf w
  let horizons := if s.playing c then 0 else (tx.map fun x => (s.horizonSlots x).length).getD 0
  s.reserveLen w.src w.undoTile c (16 + 8 * coverWords va.toNat n + 24 * horizons) va

/-- A range of context memory to write; an atomic's has no bytes yet. -/
def segAt (va : Word) (pa : Nat) (bs : List Byte) : Seg :=
  { akind := 1, addr := BitVec.ofNat 64 (va.toNat / 8 * 8), pa := pa, len := bs.length, data := bs, keepLow := false, keepHigh := false, src := [] }

/-- A store leaves its party towards HBM; it is performed later, in coherence order (R343). -/
def State.storeOut (s : State) (w : Who) (va : Word) (pa : Nat) (bs : List Byte) (op : Option Nat)
    (refl : Option Reflect) : State :=
  let c := s.ctxOf w
  let e : Store :=
    { who := some w, run := s.runOf w, src := w.src, ctx := c, segs := [segAt va pa bs], op := op, atom := op.isSome, win := s.winOf w.src w.undoTile c,
      tensor := none, refl := refl, adds := [], firing := none, list := none, moved := [], order := s.nextId }
  { s with stores := s.stores ++ [e], nextId := s.nextId + 1 }

/-- A scalar load of n bytes into d (R342-R344). -/
def State.loadRes (s : State) (d : BitVec 6) (ea : Word) (n : Nat) (signed : Bool) (bytes : Nat) : Res State :=
  s.acqHeld.bind fun _ => (s.dst d).bind fun _ => (s.locate s.cur ea n false).bind fun r =>
    match r.1 with
    | .spad t off causeway =>
      (r.2.boardClear t off n false).bind fun _ =>
      (r.2.grant t off n (requester s.cur s.cur.undoTile t)).bind fun s2 =>
        let v := extend n signed (mval (s2.tile t).spad off n)
        .ok ((s2.fixed d (if causeway then 12 else 4) v ea 0 true).retire bytes)
    | .hbm _ pa _ _ => .ok ((r.2.startOp d (.load (s.ctxOf s.cur) pa n signed) 1 false ea 0).retire bytes)
    | .reg off => .ok ((r.2.startOp d (.reg off) 1 false ea 0).retire bytes)

/-- A scalar store of the low n bytes of v (R342-R344): its undo record's space is reserved at issue (R456). -/
def State.storeRes (s : State) (ea : Word) (n : Nat) (v : Word) (bytes : Nat) : Res State :=
  let w := s.cur
  s.acqHeld.bind fun _ => (s.locate w ea n true).bind fun r =>
    match r.1 with
    | .spad t off _ =>
      (r.2.boardClear t off n true).bind fun _ =>
      (r.2.grant t off n (requester w w.undoTile t)).bind fun s1 =>
      (s1.reserve w.src w.undoTile (s.ctxOf w) 1 ea).bind fun s2 =>
        .ok ((s2.spadPut w.src w.undoTile (s.ctxOf w) (s.winOf w.src w.undoTile (s.ctxOf w)) t off (leBytes n v.toNat)).retire bytes)
    | .hbm va pa tx _ =>
      if w.tile?.isSome && 128 ≤ s.writesOut w then .stall .writes s
      else
        (r.2.reserveStore w va n (tx.map (·.1))).bind fun s1 =>
          .ok ((s1.storeOut w va pa (leBytes n v.toNat) none (tx.map fun x => s.reflectTo x.1 x.2 none)).retire bytes)
    | .reg off =>
      .ok ({ r.2 with agenda := .event (.bar0Access off 8 (some v)) :: r.2.agenda }.retire bytes)

/-- The address of a spill slot (R239, R345). -/
def State.spillAddr (s : State) (i : Word) : Res Word :=
  s.onTile.bind fun t =>
    let x := s.tile t
    let carve := ((x.task.map fun k => fld k.t.desc 84 10).getD 0)
    if i.toNat < carve * 512 then .ok (BitVec.ofNat 64 (2 ^ 56 + (2 ^ 21 - carve * 4096 + 8 * i.toNat)))
    else
      let o := 8 * (i.toNat - carve * 512)
      if x.ovflim.toNat ≤ o then .raise .spillOverflow i else .ok (x.ovfptr.setWidth 64 + BitVec.ofNat 64 o)

/-- The effective address of format MEM (R342). -/
def memEa (a : Word) (off : BitVec 11) (n : Nat) : Word := a + off.signExtend 64 * BitVec.ofNat 64 n

/-- A load instruction of op's form. -/
def State.loadInstr (s : State) (f : MemF) (n : Nat) (signed : Bool) : Res State :=
  (s.src f.a).bind fun a => s.loadRes f.d (memEa a f.off n) n signed 4

/-- A store instruction: d is read at issue. -/
def State.storeInstr (s : State) (f : MemF) (n : Nat) : Res State :=
  (s.src f.a).bind fun a => (s.src f.d).bind fun v => s.storeRes (memEa a f.off n) n v 4

end Sys2Proof.Machine
end

