-- ==== Sys2Proof/Machine/Objects.lean ====
section
/-! DEFINITION. Sync objects (R128): who holds one, acquiring and releasing (R131), and who waits. -/
namespace Sys2Proof.Machine
open Sys2Proof

/-- An object's 64 bytes as a number. -/
def State.object (s : State) (pa : Nat) : Nat := mval s.hbm pa 64

def objEvent (v : Nat) : Bool := nfld v 1 1 == 1
def objHeld (v : Nat) : Bool := nfld v 2 1 == 1
def objGen (v : Nat) : BitVec 32 := BitVec.ofNat 32 (nfld v 64 32)

/-- VALID, RSVD and CTX as R128 asks. -/
def objValid (v ctx : Nat) : Bool :=
  nfld v 0 1 == 1 && nfld v 36 28 == 0 && nfld v 96 32 == 0 && nfld v 192 320 == 0 && nfld v 14 6 == ctx

/-- HFERRY, HOLDER and HTASK of a party, in place (R131). -/
def State.holder (s : State) (w : Who) : Nat :=
  match w with
  | .stream t _ => t * 2 ^ 4 + ((s.tile t).task.map (·.serial.toNat)).getD 0 * 2 ^ 20
  | .thread n => 2 ^ 3 + n * 2 ^ 4 + (s.thr n).serial.toNat * 2 ^ 20
  | .engine n => n * 2 ^ 4

/-- The holder fields of an object: HELD, HFERRY, HOLDER and HTASK without CTX. -/
def objHolder (v : Nat) : Nat := nfld v 3 11 * 2 ^ 3 + nfld v 20 16 * 2 ^ 20

def State.holds (s : State) (w : Who) (v : Nat) : Bool := objHeld v && objHolder v == s.holder w

/-- A REL of the party on an object is in flight: in its program order it has given the object up (R131). -/
def State.releasing (s : State) (w : Who) (va : Word) : Bool :=
  (s.scal w).ops.any fun o => match o.what with
    | .rel a => a == va
    | _ => false

/-- An object's address is 64-byte aligned context memory (R128). -/
def objAddressOk (va : Word) : Bool := fld va 0 6 == 0 && fld va 56 8 == 0

/-- Reach an object for a party of the context: its place, its value and the state after translation (R128). -/
def State.reach (s : State) (w : Who) (va : Word) (store : Bool) : Res (Nat × Nat × State) :=
  (Res.check (objAddressOk va) .syncObjInvalid va).bind fun _ =>
  (s.translate w (s.ctxOf w) va store).bind fun r =>
    let v := r.2.object r.1
    (Res.check (objValid v (s.ctxOf w)) .syncObjInvalid va).bind fun _ => .ok (r.1, v, r.2)

/-- An object reached without a TLB, for the tile's and the Ferry's own releases. -/
def State.objectAt (s : State) (ctx : Nat) (va : Word) : Option (Nat × Nat) :=
  if !objAddressOk va then none
  else match s.walk ctx va with
    | some (l, _) =>
      let pa := pteFrame l * 65536 + fld va 0 16
      if bit l 0 && pa < hbmEnd && objValid (s.object pa) ctx then some (pa, s.object pa) else none
    | none => none

/-- Set HELD and the holder; the record's space is reserved. -/
def State.takeLock (s : State) (w : Who) (src : Nat) (va : Word) (pa : Nat) (v : Nat) : State :=
  let c := s.ctxOf w
  let x := v % 2 ^ 2 + 2 ^ 2 + nfld v 14 6 * 2 ^ 14 + s.holder w
  let s1 := s.hbmPut src w.undoTile c (s.winOf src w.undoTile c) va pa (leBytes 8 x) true
  match w with
  | .stream t _ => s1.modTile t fun y => { y with task := y.task.map fun k => { k with locks := va :: k.locks } }
  | _ => s1

/-- Clear HELD, advance GEN and set RCCC (R131); the record's space is reserved. -/
def State.releaseObject (s : State) (src tile ctx : Nat) (win : BitVec 32) (va : Word) (pa : Nat) : State :=
  let v := s.object pa
  let w0 := if objEvent v then nfld v 0 64 else nfld v 0 2 + nfld v 3 61 * 2 ^ 3
  let w1 := ((objGen v) + 1).toNat + nfld v 96 32 * 2 ^ 32
  s.hbmPut src tile ctx win va pa (leBytes 8 w0 ++ leBytes 8 w1 ++ leBytes 8 s.ccc.toNat) true

/-- A task no longer holds a lock. -/
def State.forgetLock (s : State) (w : Who) (va : Word) : State :=
  match w with
  | .stream t _ => s.modTile t fun y => { y with task := y.task.map fun k => { k with locks := k.locks.filter (· != va) } }
  | _ => s

/-- The parties of a context that wait at an object, with their operations, in request order (R131). -/
def State.waiters (s : State) (ctx : Nat) (va : Word) : List (Nat × Who × VarOp) :=
  let at' (w : Who) (c : Scalars) : List (Nat × Who × VarOp) :=
    c.ops.filterMap fun o => match o.what with
      | .acq obj _ => if obj = va ∧ s.ctxOf w = ctx then some (o.id, w, o) else none
      | _ => none
  let all := (s.tiles.flatMap fun e => at' (.stream e.1 0) e.2.sc) ++ s.threads.flatMap fun e => at' (.thread e.1) e.2.sc
  all.foldl (fun l e => l.takeWhile (fun f => f.1 < e.1) ++ e :: l.dropWhile (fun f => f.1 < e.1)) []

/-- Earlier stores of a party are still on their way to coherence order. -/
def State.storesBefore (s : State) (w : Who) (order : Nat) : Bool :=
  s.stores.any fun e => e.order < order && (match e.who with
    | some u => u == w || (u.tile?.isSome && u.tile? == w.tile?)
    | none => false)

/-- Undo the reservation of a record that is not made (an AMOCAS that does not write). -/
def State.unreserve (s : State) (src tile c nw : Nat) : State :=
  let s1 := s.setCx c cUNDOUSE (BitVec.ofNat 64 (s.undoUse c - (16 + 8 * nw)))
  if src < 5 then s1.modTile tile fun x => { x with undoBuf := x.undoBuf - (16 + 8 * nw) } else s1

end Sys2Proof.Machine
end

