-- ==== Sys2Proof/Machine/Task.lean ====
section
/-! DEFINITION. Tasks on a tile (R181-R188, R211) and the trace unit's records (R291, R292). -/
namespace Sys2Proof.Machine
open Sys2Proof

/-! ## Trace records -/

/-- A record header and body at the current place of the ring (R292), with the tile's work count, or a count of its own. -/
def State.traceAt (s : State) (t kind k : Nat) (body : List Byte) (count : Option Nat := none) : State :=
  let x := s.tile t
  let tr := x.trace
  let ctx := s.ctxOfTile t
  let len := 32 + body.length
  let h := kind + t * 2 ^ 8 + len / 8 * 2 ^ 16 + s.cxF ctx cIVNUM 0 32 * 2 ^ 32 + count.getD x.work % 2 ^ 64 * 2 ^ 64 + s.ccc.toNat * 2 ^ 128 + k % 2 ^ 64 * 2 ^ 192
  let va := tr.base.toNat + tr.head.toNat * 65536 + tr.pos
  (s.physWrite ctx (BitVec.ofNat 64 va) (leBytes 32 h ++ body)).modTile t fun y => { y with trace := { y.trace with pos := tr.pos + len } }

/-- The trace unit moves to the next chunk of its ring (R292). -/
def Trace.nextChunk (tr : Trace) : Trace :=
  let size := if tr.size = 0 then 1 else tr.size.toNat
  { tr with head := BitVec.ofNat 32 ((tr.head.toNat + 1) % size), pos := 0 }

/-- Address of the chunk being written. -/
def Trace.chunkVa (tr : Trace) : Word := BitVec.ofNat 64 (tr.base.toNat + tr.head.toNat * 65536)

/-- A chunk's page is mapped. -/
def State.traceMapped (s : State) (c : Nat) (va : Word) : Bool :=
  match s.walk c va with
  | some (l, _) => bit l 0
  | none => false

/-- An unmap or migration waits for the trace unit to leave a page (R123). -/
def State.traceAsked (s : State) (c : Nat) (va : Word) : Bool :=
  s.updates.any fun u => u.applied.isNone && u.ctx == c && fld u.va 16 40 == fld va 16 40

/-- The next chunk of the ring that may be written; those passed over count as skipped (R123). -/
def State.traceSeek (s : State) (c : Nat) : Nat → Trace → Option Trace
  | 0, _ => none
  | n + 1, tr =>
    let tr1 := tr.nextChunk
    if s.traceMapped c tr1.chunkVa && !s.traceAsked c tr1.chunkVa then some tr1
    else s.traceSeek c n { tr1 with skipped := tr1.skipped + 1 }

/-- A record at its place, after a GAP when records were dropped or chunks skipped. -/
def State.traceHere (s : State) (t kind k : Nat) (body : List Byte) (gap : Bool) (count : Option Nat := none) : State :=
  let tr := (s.tile t).trace
  let s1 := if !gap && tr.dropped = 0 && tr.skipped = 0 then s
    else (s.traceAt t 0x0F (tr.dropped.toNat + tr.skipped.toNat * 2 ^ 32) []).modTile t fun y =>
      { y with trace := { y.trace with dropped := 0, skipped := 0 } }
  s1.traceAt t kind k body count

/-- A trace record of a kind that sys.TRCTL enables by bit en (R291). A record that does not fit is preceded by a PAD; one that
finds no chunk that may be written, or no lease, is dropped and counted (R292, R123). -/
def State.trace (s : State) (t en kind k : Nat) (body : List Byte := []) (count : Option Nat := none) : State :=
  let tr := (s.tile t).trace
  let c := s.ctxOfTile t
  let len := 32 + body.length + (if tr.dropped = 0 ∧ tr.skipped = 0 then 0 else 32)
  let drop (s : State) : State := s.modTile t fun y => { y with trace := { y.trace with dropped := y.trace.dropped + 1 } }
  if !bit tr.ctl 0 || !bit tr.ctl en then s
  else if tr.lease ≤ s.ccc then drop s
  else
    let ok := s.traceMapped c tr.chunkVa
    if ok && tr.pos + len ≤ 65536 then s.traceHere t kind k body false count
    else
      let s1 := if ok && tr.pos + 32 ≤ 65536 then s.traceAt t 0 0 [] else s
      match s.traceSeek c tr.size.toNat (s1.tile t).trace with
      | some tr1 => (s1.modTile t fun y => { y with trace := tr1 }).traceHere t kind k body (!ok || s.traceAsked c tr.chunkVa) count
      | none => drop (s1.modTile t fun y => { y with trace := { y.trace with pos := 65536 } })

/-! ## Descriptors (R182) -/

def dEntry (d : BitVec 1024) : Word := BitVec.ofNat 64 (fld d 0 57)
def dBarrier (d : BitVec 1024) : Bool := bit d 64
def dRerun (d : BitVec 1024) : Bool := bit d 65
def dRetries (d : BitVec 1024) : Nat := fld d 66 3
def dDcv (d : BitVec 1024) : Bool := bit d 69
def dDonecnt (d : BitVec 1024) : Nat := fld d 70 14
def dCarve (d : BitVec 1024) : Nat := fld d 84 10
def dReld (d : BitVec 1024) : Bool := bit d 94
def dOsync (d : BitVec 1024) (i : Nat) : Word := BitVec.ofNat 64 (fld d (128 + 64 * i) 57)
def dTagv (d : BitVec 1024) : Bool := bit d 296
def dItin (d : BitVec 1024) : Nat := fld d 256 8
def dNode (d : BitVec 1024) : Nat := fld d 264 16
def dRun (d : BitVec 1024) : Nat := fld d 280 16

/-- A descriptor that a push refuses: a nonzero RSVD bit, RELD set, a CARVE above 512, an odd ENTRY or an OSYNC not 64-byte aligned (R182). -/
def descBad (d : BitVec 1024) : Bool :=
  fld d 57 7 ≠ 0 || bit d 0 || fld d 95 33 ≠ 0 || fld d 185 7 ≠ 0 || fld d 249 7 ≠ 0 || fld d 297 215 ≠ 0 ||
    512 < dCarve d || dReld d || fld (dOsync d 0) 0 6 ≠ 0 || fld (dOsync d 1) 0 6 ≠ 0

/-- The tag fields of a launch push are zero (R182). -/
def descUntagged (d : BitVec 1024) : BitVec 1024 := setFld d 256 41 0

/-- The tag of a scheduler push. -/
def descTagged (d : BitVec 1024) (itin node run : Nat) : BitVec 1024 := setFld d 256 41 (itin + node * 2 ^ 8 + run % 2 ^ 16 * 2 ^ 24 + 2 ^ 40)

/-! ## Notices (R211) -/

def noticeTag (d : BitVec 1024) : Nat :=
  (if dTagv d then 1 else 0) + dItin d * 2 + dNode d * 2 ^ 9 + dRun d * 2 ^ 25

/-- A notice's low word: everything but the CCC at which it is sent. -/
def noticeLow (t : Nat) (q : QTask) (status kind : Nat) : Nat :=
  t + status * 2 ^ 8 + kind * 2 ^ 10 + noticeTag q.desc * 2 ^ 11 + q.ctx * 2 ^ 52 + (if kind = 0 ∧ dReld q.desc then 2 ^ 58 else 0)

/-- A notice enters the Ferry's completion FIFO. -/
def State.notice (s : State) (t : Nat) (q : QTask) (status kind : Nat) : State :=
  let v := noticeLow t q status kind + s.ccc.toNat * 2 ^ 64
  { s with sched := { s.sched with fifo := s.sched.fifo ++ [(BitVec.ofNat 128 v, if dDcv q.desc then some (dDonecnt q.desc) else none)] } }

def State.fifoFull (s : State) : Bool := 4096 ≤ s.sched.fifo.length

/-- A notice of the tile waits: the completion FIFO is full, or an earlier notice of the tile has not entered it (R211). -/
def State.noticeWaits (s : State) (t : Nat) : Bool := s.fifoFull || !(s.tile t).late.isEmpty

/-- The KIND 1 notice of an ETRIG, which does not wait: with no room it waits at the tile, ahead of the tile's later notices (R354, R211). -/
def State.sendNotice (s : State) (t : Nat) (q : QTask) (status kind : Nat) : State :=
  if s.noticeWaits t then s.modTile t fun x => { x with late := x.late ++ [BitVec.ofNat 128 (noticeLow t q status kind)] }
  else s.notice t q status kind

/-! ## Task queues (R188) -/

def Tile.queue (x : Tile) (q : Nat) : TaskQueue := tget TaskQueue.idle x.tq q
def Tile.modQueue (x : Tile) (q : Nat) (f : TaskQueue → TaskQueue) : Tile := { x with tq := tmod TaskQueue.idle x.tq q f }

/-- Push a descriptor into a queue of a tile. -/
def State.push (s : State) (t q : Nat) (k : QTask) : State := s.modTile t fun x => x.modQueue q fun y => { y with tasks := y.tasks ++ [k] }

/-- The head may start (R189, R192): a B task waits until every task pushed earlier into its queue has retired. -/
def Tile.headStarts (x : Tile) (q : Nat) : Bool :=
  match (x.queue q).tasks with
  | [] => false
  | k :: _ => k.saved || !dBarrier k.desc || !(x.left.any (fun l => l.q == q) || x.task.any (fun l => l.q == q))

/-- sys.TQn (R188). -/
def Tile.tqReg (x : Tile) (q : Nat) : Word :=
  let y := x.queue q
  BitVec.ofNat 64 (y.tickets.toNat + y.tasks.length % 128 * 2 ^ 8 + y.starve * 2 ^ 15 +
    (if !y.tasks.isEmpty && !x.headStarts q then 2 ^ 28 else 0))

/-! ## Outstanding work of a task (R181) -/

/-- A window number belongs to a task of the tile: the latest started at or before it. -/
def Tile.owns (x : Tile) (k : Task) (w : BitVec 32) : Bool :=
  passed32 w k.firstWin && !((x.left ++ x.task.toList).any fun j =>
    j.firstWin != k.firstWin && passed32 w j.firstWin && passed32 j.firstWin k.firstWin)

/-- Copies, routed drains, unacknowledged reflected stores and HBM writes of a task. -/
def State.outstanding (s : State) (t : Nat) (k : Task) : Bool :=
  let x := s.tile t
  let mine (w : Option Who) (win : BitVec 32) : Bool := (w.bind Who.tile?) == some t && x.owns k win
  s.stores.any (fun e => mine e.who e.win) || s.sent.any (fun e => e.status.isNone && e.firing.isNone && mine e.who e.win) ||
    s.copies.any (fun e => e.2.any fun c => c.tile == some t && c.serial == k.serial) ||
    x.mx.drains.any (fun d => x.owns k d.win)

/-! ## Starting and leaving -/

/-- A task takes the streams (R183); nothing is carried over from an earlier task but the scratchpad (log entry 12). -/
def Tile.start (x : Tile) (k : QTask) (q : Nat) (win : BitVec 32) : Tile :=
  let serial := x.serial + 1
  let streams : Tab Stream := tput Stream.idle [] 0 { Stream.idle with pc := dEntry k.desc, work := (x.stream 0).work, sig := (x.stream 0).sig }
  let streams' := (List.range 3).foldl (fun l i =>
    tput Stream.idle l (i + 1) { Stream.idle with work := (x.stream (i + 1)).work, sig := (x.stream (i + 1)).sig }) streams
  { x with
    serial := serial
    sc := { Scalars.idle with regs := tabOf 0 9 fun i => if i = 0 then 0 else BitVec.ofNat 64 (fld k.desc (512 + 64 * (i - 1)) 64) }
    streams := streams', cq := [], areg := tabOf 0 9 fun i => if i = 0 then 0 else BitVec.ofNat 64 (fld k.desc (512 + 64 * (i - 1)) 64), abusy := [], vreg := [], vbusy := [], kreg := [(0, 0xFFFFFFFFFFFFFFFF)], kbusy := []
    lc := [], lcPrev := [], flags := [], flagsat := 0, oq := [], cb := [], nst := [], ovfptr := 0, ovflim := 0, lockset := 0, bars := []
    mx := Matrix.idle, board := x.board, boardSince := none, copyFail := [], held := false, collect := none, handler := none, shadow := []
    task := some { t := { k with saved := false, parked := {} }, q := q, serial := serial, firstWin := win, etrig := false, locks := [], fatal := none } }

/-- Start a task, with its undo window (R183, R275). -/
def State.startTask (s : State) (t q : Nat) (k : QTask) : State :=
  let win := BitVec.ofNat 32 (s.cxF k.ctx cUNDOWIN 32 32)
  let s1 := s.modTile t fun x => { x.start k q win with lastIssue := s.ccc }
  (((s1.openWindow t k.ctx 0 (s.tile t).work).trace t 2 2 (noticeTag k.desc * 2 ^ 8)).trace t 3 3 (win.toNat))

/-- The task leaves the streams (R181, R236): queues and conditional buffers are discarded. -/
def State.leave (s : State) (t : Nat) : State :=
  match (s.tile t).task with
  | none => s
  | some k =>
    (s.modTile t fun x =>
      let keep (i : Nat) : Stream := { Stream.idle with pc := (x.stream i).pc, work := (x.stream i).work, sig := (x.stream i).sig }
      { x with
        task := none, left := x.left ++ [k], oq := [], cb := [], cq := [], collect := none, held := false
        streams := tabOf Stream.idle 4 keep, sc := { x.sc with pend := [], ops := [] } }).trace t 2 2 (1 + noticeTag k.t.desc * 2 ^ 8)

/-- A stream has no block and no command waiting. -/
def Tile.idleAt (x : Tile) (k : Nat) : Bool := (x.stream k).blk.isNone && (tget [] x.cq k).isEmpty

/-- Streams 1-3 are idle (R216); one that pre-emption stopped while idle still is (R254). -/
def Tile.workersIdle (x : Tile) : Bool :=
  (List.range 3).all fun i => x.idleAt (i + 1) && (x.stream (i + 1)).stop.all fun p => p.cause == .preempt

/-- A release by the tile for a task, after its stores: no effect on what is no EVENT, with a FLOG record
(R184; ETRIG alike, log entry 13); none: the undo log has no room, or the page is migrating (R121), and it waits. -/
def State.taskRelease (s : State) (t : Nat) (k : Task) (va : Word) : Option State :=
  if va = 0 then some s
  else
    let fail (c : Cause) : Option State := some (s.flog t 0 c k.t.ctx 3).2
    if s.rangeMoves k.t.ctx va 64 then none else
    match s.objectAt k.t.ctx va with
    | none => fail .syncObjInvalid
    | some (pa, v) =>
      if !objEvent v then fail .relNotHeld
      else match s.reserve 0 t k.t.ctx 3 va with
        | .ok s1 => some (s1.releaseObject 0 t k.t.ctx (s1.tile t).win va pa)
        | _ => none

end Sys2Proof.Machine
end

