-- ==== Sys2Proof/Machine/Path.lean ====
section
/-! DEFINITION. Packets on their way: routes (R29, R43, R44), flits (R32, R34), dropping (R52, R53), path order (R46) and
reflection (R137-R142, R277). -/
namespace Sys2Proof

/-! ## The 256 bytes of a flit (R32) -/

/-- The link header. -/
def Flit.header (f : Flit) : Nat :=
  f.ftype.toNat + f.vc.toNat * 2 ^ 4 + (if f.dlc then 2 ^ 6 else 0) + (if f.first then 2 ^ 7 else 0) + (if f.last then 2 ^ 8 else 0) +
    f.rsvd.toNat * 2 ^ 9 + f.seq.toNat * 2 ^ 16 + f.ack.toNat * 2 ^ 32 + f.plen.toNat * 2 ^ 48 + f.cclass.toNat * 2 ^ 56 + f.ccount.toNat * 2 ^ 59

/-- Bytes 0 to 247: the link header, and the body in bytes 8 to 247. -/
def Flit.covered (f : Flit) : List Byte := Machine.leBytes 8 f.header ++ (f.body ++ List.replicate 240 0).take 240

/-- The CRC of R32, over bytes 0 to 247. -/
def Flit.makeCrc (f : Flit) : BitVec 64 := Machine.crc64 f.covered

/-- The CRC of a flit holds. -/
def Flit.crcOk (f : Flit) : Bool := f.crc == f.makeCrc

/-- The flit with its CRC made, as it leaves on a link. -/
def Flit.sealed (f : Flit) : Flit := { f with crc := f.makeCrc }

/-- The 256 bytes on a link, and the flit that 256 bytes are. -/
def Flit.wire (f : Flit) : List Byte := f.covered ++ Machine.leBytes 8 f.crc.toNat

def Flit.ofWire (bs : List Byte) : Flit :=
  let h := BitVec.ofNat 64 (Machine.leNat (bs.take 8))
  { ftype := h.extractLsb' 0 4, vc := h.extractLsb' 4 2, dlc := h.getLsbD 6, first := h.getLsbD 7, last := h.getLsbD 8, rsvd := h.extractLsb' 9 7,
    seq := h.extractLsb' 16 16, ack := h.extractLsb' 32 16, plen := h.extractLsb' 48 8, cclass := h.extractLsb' 56 3, ccount := h.extractLsb' 59 5,
    body := (bs.drop 8).take 240, crc := BitVec.ofNat 64 (Machine.leNat ((bs.drop 248).take 8)) }

end Sys2Proof

namespace Sys2Proof.Machine
open Sys2Proof

/-! ## The torus (R29, R30) -/

def chipX (c : Nat) : Nat := c % 8
def chipY (c : Nat) : Nat := c / 8 % 8
def chipZ (c : Nat) : Nat := c / 64

/-- Sizes of the domain. -/
def State.dimX (s : State) : Nat := s.regF offGeom 10 3 + 1
def State.dimY (s : State) : Nat := s.regF offGeom 13 3 + 1
def State.dimZ (s : State) : Nat := s.regF offGeom 16 4 + 1

/-- STRAIT.GEOM is valid: every coordinate is below its size (R30). -/
def State.geomOk (s : State) : Bool := chipX s.chip < s.dimX && chipY s.chip < s.dimY && chipZ s.chip < s.dimZ

/-- Hop in one dimension (R43): none, or whether it is in the + direction. -/
def hop (k src dst : Nat) : Option Bool :=
  let d := (dst + k - src % k) % k
  if d = 0 then none else some (decide (2 * d ≤ k))

/-- The link a packet for a chip leaves by; none: this chip (R43, R51). -/
def State.linkTo (s : State) (dst : Nat) : Option Nat :=
  match hop s.dimX (chipX s.chip) (chipX dst) with
  | some p => some (if p then 0 else 1)
  | none => match hop s.dimY (chipY s.chip) (chipY dst) with
    | some p => some (if p then 2 else 3)
    | none => match hop s.dimZ (chipZ s.chip) (chipZ dst) with
      | some p => some (if p then 4 else 5)
      | none => none

/-- The chip at the other end of a link. -/
def State.neighbour (s : State) (n : Nat) : Nat :=
  let x := chipX s.chip
  let y := chipY s.chip
  let z := chipZ s.chip
  match n with
  | 0 => (x + 1) % s.dimX + 8 * y + 64 * z
  | 1 => (x + s.dimX - 1) % s.dimX + 8 * y + 64 * z
  | 2 => x + 8 * ((y + 1) % s.dimY) + 64 * z
  | 3 => x + 8 * ((y + s.dimY - 1) % s.dimY) + 64 * z
  | 4 => x + 8 * y + 64 * ((z + 1) % s.dimZ)
  | _ => x + 8 * y + 64 * ((z + s.dimZ - 1) % s.dimZ)

/-- A link is its dimension's dateline in its direction (R44). -/
def State.wraps (s : State) (n : Nat) : Bool :=
  match n with
  | 0 => chipX s.chip + 1 == s.dimX
  | 1 => chipX s.chip == 0
  | 2 => chipY s.chip + 1 == s.dimY
  | 3 => chipY s.chip == 0
  | 4 => chipZ s.chip + 1 == s.dimZ
  | _ => chipZ s.chip == 0

/-- STATE of a link: 0 DOWN, 1 TRAINING, 2 UP, 3 FENCED (R51). -/
def State.linkState (s : State) (n : Nat) : Nat := s.regF (offLinkStat n) 0 2

def State.link (s : State) (n : Nat) : Link := tget Link.idle s.links n
def State.modLink (s : State) (n : Nat) (f : Link → Link) : State := { s with links := tmod Link.idle s.links n f }

/-! ## Flits (R32, R34) -/

def zeroFlit : Flit :=
  { ftype := 0, vc := 0, dlc := false, first := false, last := false, rsvd := 0, seq := 0, ack := 0, plen := 0, cclass := 0, ccount := 0,
    body := List.replicate 240 0, crc := 0 }

/-- A body of 240 bytes. -/
def flitBody (bs : List Byte) : List Byte := (bs ++ List.replicate 240 0).take 240

/-- The 24-byte packet header. -/
def Packet.header (p : Packet) : List Byte :=
  leBytes 8 (p.src % 1024 + p.dst % 1024 * 2 ^ 10 + p.pop % 64 * 2 ^ 20 + p.pseq.toNat * 2 ^ 32) ++ leBytes 8 p.word2.toNat ++ leBytes 8 p.word3.toNat

/-- Continuation flits of up to 240 bytes each. -/
def moreFlits (p : Packet) : Nat → List Byte → List Flit
  | 0, _ => []
  | n + 1, bs =>
    if bs.isEmpty then []
    else
      { zeroFlit with vc := BitVec.ofNat 2 p.vc, dlc := p.dlc, last := (bs.drop 240).isEmpty, plen := BitVec.ofNat 8 (min 240 bs.length), body := flitBody bs }
        :: moreFlits p n (bs.drop 240)

/-- A packet's flits, before they take their SEQ. -/
def Packet.flits (p : Packet) : List Flit :=
  { zeroFlit with vc := BitVec.ofNat 2 p.vc, dlc := p.dlc, first := true, last := (p.data.drop 216).isEmpty,
                  plen := BitVec.ofNat 8 (min 216 p.data.length), body := flitBody (p.header ++ p.data.take 216) }
    :: moreFlits p 18 (p.data.drop 216)

/-- The packet that a run of flits carries. -/
def Packet.ofFlits (fs : List Flit) : Packet :=
  let b := (fs.headD zeroFlit).body
  let h := leNat (b.take 8)
  let data := match fs with
    | [] => []
    | f :: rest => (f.body.drop 24).take f.plen.toNat ++ rest.flatMap fun g => g.body.take g.plen.toNat
  { src := nfld h 0 10, dst := nfld h 10 10, pop := nfld h 20 6, pseq := BitVec.ofNat 32 (nfld h 32 32),
    word2 := BitVec.ofNat 64 (leNat ((b.drop 8).take 8)), word3 := BitVec.ofNat 64 (leNat ((b.drop 16).take 8)),
    vc := (fs.headD zeroFlit).vc.toNat, dlc := (fs.headD zeroFlit).dlc, data := data }

/-- Operations in path order (R46). -/
def Packet.ordered (p : Packet) : Bool := p.pop ≤ 3 && p.pop != 2

/-- The VC of a POP, by whether a token is attached; none: reserved (R35). -/
def popVc (pop : Nat) (tkv : Bool) : Option Nat :=
  if pop = 0 then some (if tkv then 2 else 0)
  else if pop ≤ 3 then some 0
  else if pop = 8 ∨ pop = 9 ∨ pop = 10 then some 1
  else if 0x10 ≤ pop ∧ pop ≤ 0x15 then some 3
  else none

/-! ## Forwarding (R48, R52, R53) -/

/-- A packet waits for a link's output with the input it came by, its DLC set by R44: it keeps the class it came with while it stays in
its dimension. -/
def State.queueOut (s : State) (n inPort : Nat) (p : Packet) : State :=
  let kept := inPort < 6 && inPort / 2 == n / 2 && p.dlc
  s.modLink n fun l => { l with queue := l.queue ++ [(min 6 inPort, { p with dlc := kept || s.wraps n })] }

/-- Route a packet: to the local ejection port, to a link, or dropped with an ACK status (R52, R53). -/
def State.route (s : State) (inPort : Nat) (p : Packet) : State × Option Nat :=
  if s.fences.getLsbD p.src then (s, none)
  else if s.fences.getLsbD p.dst then (s, some 2)
  else match s.linkTo p.dst with
    | none => ({ s with inq := tmod [] s.inq (if inPort < 6 then inPort else 6) (· ++ [p]) }, none)
    | some n =>
      if s.fences.getLsbD (s.neighbour n) then (s, some 2)
      else if s.linkState n = 2 then (s.queueOut n inPort p, none)
      else (s, some 1)

/-- An ACK for one packet or for a path up to a PSEQ: its SRC is the path's destination (R36, R46). -/
def ackPacketOf (path : Packet) (status : Nat) : Packet :=
  { src := path.dst, dst := path.src, pop := 8, pseq := path.pseq, word2 := 0, word3 := 0, vc := 1, dlc := false, data := [BitVec.ofNat 8 status] }

/-- Send a packet, and when it is dropped, its ACK; a dropped ACK is not replaced (R52). -/
def State.inject (s : State) (inPort : Nat) (p : Packet) : State :=
  match s.route inPort p with
  | (s1, none) => s1
  | (s1, some status) => if p.ordered then (s1.route 6 (ackPacketOf p status)).1 else s1

/-- Send a packet in path order: it takes the path's next PSEQ (R46). -/
def State.sendOrdered (s : State) (dst pop vc : Nat) (w2 w3 : Word) (data : List Byte) : BitVec 32 × State :=
  let q := tget 0 s.pseqOut dst
  let s1 := { s with pseqOut := tput 0 s.pseqOut dst (q + 1) }
  (q, s1.inject 6 { src := s.chip, dst := dst, pop := pop, pseq := q, word2 := w2, word3 := w3, vc := vc, dlc := false, data := data })

/-- Send a packet outside path order. -/
def State.sendPlain (s : State) (dst pop vc : Nat) (w2 w3 : Word) (data : List Byte) : State :=
  s.inject 6 { src := s.chip, dst := dst, pop := pop, pseq := 0, word2 := w2, word3 := w3, vc := vc, dlc := false, data := data }

/-! ## Tokens and reflection (R137-R142) -/

def tokenValid (t : Word) : Bool := bit t 63
def tokenOrigin (t : Word) : Nat := fld t 0 10
def tokenLanding (t : Word) : Nat := fld t 10 10
def tokenSeq (t : Word) : BitVec 32 := t.extractLsb' 20 32

def makeToken (origin landing : Nat) (q : BitVec 32) : Word :=
  BitVec.ofNat 64 (origin % 1024 + landing % 1024 * 2 ^ 10 + q.toNat * 2 ^ 20 + 2 ^ 63)

/-- A token operand (R142). -/
def State.checkToken (s : State) (ctx : Nat) (t : Word) : Res Unit :=
  (Res.check (fld t 52 11 == 0) .rsvField t).bind fun _ =>
    Res.check (!tokenValid t || (s.isMember ctx (tokenOrigin t) && s.isMember ctx (tokenLanding t))) .perm t

/-- Pieces of 4,096 bytes (R138). -/
def packetPieces : Nat → Nat → List Byte → List (Nat × List Byte)
  | 0, _, _ => []
  | n + 1, off, bs => if bs.isEmpty then [] else (off, bs.take 4096) :: packetPieces n (off + 4096) (bs.drop 4096)

/-- Whose packets they are: the party or the action, and the store. -/
structure Sender where
  who : Option Who
  run : Nat
  firing : Option (Nat × Nat)
  ctx : Nat
  order : Nat
  win : BitVec 32
  deriving DecidableEq, Repr

/-- Send a packet of a context in path order; under PLAY what would leave the chip takes its PSEQ only (R285). -/
def State.sendPath (s : State) (c dst pop vc : Nat) (w2 w3 : Word) (data : List Byte) : BitVec 32 × State :=
  if s.playing c && dst != s.chip then (tget 0 s.pseqOut dst, { s with pseqOut := tmod 0 s.pseqOut dst (· + 1) })
  else s.sendOrdered dst pop vc w2 w3 data

/-- One packet of a reflected store, or of a remote accumulation of operation rop, leaves and waits for its ACK (R34, R378). -/
def State.sendRst (s : State) (f : Sender) (slot dst rxw off : Nat) (tok : Option Word) (bs : List Byte) (rop : Option Nat := none) : BitVec 32 × State :=
  let t := tok.filter tokenValid
  let w2 := BitVec.ofNat 64 (rxw % 4096 + off % 2 ^ 40 * 2 ^ 12 + rop.getD 0 * 2 ^ 52 + (if t.isSome then 2 ^ 56 else 0))
  let w3 := match t with
    | some v => v &&& 0xFFFFFFFFFFFFF
    | none => 0
  let r := s.sendPath f.ctx dst (if rop.isSome then 1 else 0) (if t.isSome then 2 else 0) w2 w3 bs
  let e : Sent :=
    { who := f.who, run := f.run, firing := f.firing, send := none, ctx := f.ctx, order := f.order, slot := slot, off := off, dst := dst, pseq := r.1,
      status := none, win := f.win }
  (r.1, { r.2 with sent := r.2.sent ++ [e] })

/-- Part 2 of R138: each slot in ascending order. -/
def State.reflect (s : State) (f : Sender) (r : Reflect) (bs : List Byte) : State :=
  r.slots.foldl (fun s i =>
    (packetPieces (bs.length / 4096 + 1) r.off bs).foldl (fun s p => (s.sendRst f i.1 i.2.1 i.2.2 p.1 r.tok p.2 r.rop).2) s) s

/-- The token a reflected store returns: the last packet sent to its lowest slot (R142); s is the state before part 2. -/
def State.tokenOf (s : State) (r : Reflect) (len : Nat) : Word :=
  match r.slots with
  | [] => 0
  | i :: _ => makeToken s.chip i.2.1 (tget 0 s.pseqOut i.2.1 + BitVec.ofNat 32 ((len + 4095) / 4096 - 1))

/-- HORIZON records of a reflection: one for each slot but a loop-back (R277, R47). -/
def State.horizonCount (s : State) (c : Nat) (r : Reflect) : Nat := if s.playing c then 0 else r.slots.countP fun i => i.2.1 != s.chip

/-- The HORIZON records of a reflected store or a remote accumulation (R277), each with its slot's first PSEQ. -/
def State.reflectHorizons (s : State) (src tile c : Nat) (r : Reflect) (len : Nat) : State :=
  let per := BitVec.ofNat 32 ((len + 4095) / 4096)
  (r.slots.foldl (fun (a : Tab (BitVec 32) × State) i =>
    let d := i.2.1
    let q := tget 0 a.1 d
    (tput 0 a.1 d (q + per), if d = s.chip then a.2 else a.2.horizon src tile c (if r.rop.isSome then 4 else 1) d q len)) (s.pseqOut, s)).2

end Sys2Proof.Machine
end

