-- ==== Sys2Proof/Machine/Tensor.lean ====
section
/-! DEFINITION. Tensors (R106-R108): descriptors, the layout unit, and the ranges of memory that element writes make. -/
namespace Sys2Proof.Machine
open Sys2Proof

/-! ## Descriptors (R106) -/

def tdValid (d : BitVec 512) : Bool := bit d 0
def tdShv (d : BitVec 512) : Bool := bit d 1
def tdFmt (d : BitVec 512) : Nat := fld d 2 4
def tdBlk (d : BitVec 512) : Nat := fld d 6 2
def tdSfmt (d : BitVec 512) : Nat := fld d 8 2
def tdNdm1 (d : BitVec 512) : Nat := fld d 10 3
def tdTiled (d : BitVec 512) : Bool := bit d 13
def tdXp (d : BitVec 512) : Bool := bit d 14
def tdTscale (d : BitVec 512) : BitVec 16 := d.extractLsb' 16 16
def tdExt (d : BitVec 512) (i : Nat) : Nat := fld d (64 + 32 * i) 32
def tdCtab (d : BitVec 512) : Nat := fld d 320 52
def tdStab (d : BitVec 512) : Nat := fld d 384 52
def tdSobj (d : BitVec 512) : Word := BitVec.ofNat 64 (fld d 448 57)

/-- Element width in bits. -/
def tdBits (d : BitVec 512) : Nat := typeBits (tdFmt d)

def tdBlock (d : BitVec 512) : Nat := blockSize (tdBlk d)

def tdDims (d : BitVec 512) : Nat := tdNdm1 d + 1

/-- The chunk table an operation uses (R149). -/
def tdTable (d : BitVec 512) (shadow : Bool) : Nat := if shadow then tdStab d else tdCtab d

def State.tensor (s : State) (ctx id : Nat) : BitVec 512 := tget 0 s.tensors (256 * ctx + id)

/-- A valid descriptor. -/
def State.tensorOk (s : State) (ctx id : Nat) : Option (BitVec 512) :=
  let d := s.tensor ctx id
  if tdValid d then some d else none

/-! ## The layout unit (R107) -/

/-- The number of elements. -/
def tdCount (d : BitVec 512) : Nat := ((List.range (tdDims d)).map (tdExt d)).prod

/-- The index of the first coordinate beyond its extent. -/
def tdBeyond (d : BitVec 512) (c : List Nat) : Option Nat :=
  firstBelow (fun i => i < tdDims d && tdExt d i ≤ c.getD i 0) 8 0

/-- Mixed-radix sum of the coordinates from a dimension on. -/
def radix (d : BitVec 512) : Nat → Nat → List Nat → Nat
  | _, _, [] => 0
  | i, m, c :: cs => c * m + radix d (i + 1) (m * tdExt d i) cs

/-- The element index L of coordinates within the extents. -/
def tdIndex (d : BitVec 512) (c : List Nat) : Nat :=
  if tdTiled d then
    let c0 := c.getD 0 0
    let c1 := c.getD 1 0
    let q := c0 / 128 + tdExt d 0 / 128 * (c1 / 128) + radix d 2 (tdExt d 0 / 128 * (tdExt d 1 / 128)) (c.drop 2)
    16384 * q + c0 % 128 + 128 * (c1 % 128)
  else radix d 0 1 c

/-- Bytes of the elements, rounded to chunks: where the scale bytes begin. -/
def tdScale0 (d : BitVec 512) : Nat := 65536 * (((tdCount d * tdBits d + 7) / 8 + 65535) / 65536)

/-- The tensor's total bytes. -/
def tdTotal (d : BitVec 512) : Nat :=
  if tdBlk d = 0 then (tdCount d * tdBits d + 7) / 8 else tdScale0 d + (tdCount d + tdBlock d - 1) / tdBlock d

/-- The nibble at which element L lies, and that of its scale byte. -/
def tdNibble (d : BitVec 512) (l : Nat) : Nat := l * tdBits d / 4
def tdScaleNibble (d : BitVec 512) (l : Nat) : Nat := 2 * (tdScale0 d + l / tdBlock d)

/-! ## Places -/

/-- What a chunk-table or page-table entry answers. -/
inductive Place where
  | found (pa : Nat)
  | absent
  | unpinned (pa : Nat)
  | migrating
  | readOnly
  | hole
  deriving DecidableEq, Repr

/-- Read a translation entry (R108) for an access at an offset of its frame. -/
def entryPlace (e : Word) (off : Nat) (store : Bool) : Place :=
  if !bit e 0 then .absent
  else if bit e 1 then .migrating
  else if store && !bit e 2 then .readOnly
  else if hbmEnd ≤ pteFrame e * 65536 + off then .hole
  else if bit e 3 then .found (pteFrame e * 65536 + off) else .unpinned (pteFrame e * 65536 + off)

/-- The place of a tensor byte through a chunk table. -/
def State.chunkPlace (s : State) (table byte : Nat) (store : Bool) : Place :=
  entryPlace (mword s.hbm (table + 8 * (byte / 65536))) (byte % 65536) store

/-- The place of a byte of context virtual memory. -/
def State.pagePlace (s : State) (ctx : Nat) (va : Word) (store : Bool) : Place :=
  match s.walk ctx va with
  | some (l, _) => entryPlace l (fld va 0 16) store
  | none => .absent

/-- A stream's access by coordinates needs a present, pinned chunk (R117). -/
def Place.forStream (p : Place) (s : State) (info : Word) : Res Nat :=
  match p with
  | .found pa => .ok pa
  | .absent | .unpinned _ => .raise .coreUnmapped info
  | .migrating => .stall .migrating s
  | .readOnly => .raise .perm info
  | .hole => .fault .hbmHole

/-! ## Ranges of nibbles -/

/-- A run of nibbles from a position. -/
abbrev Run := Nat × List Nat

/-- Nibbles of a w-bit value, low first. -/
def nibbles (w v : Nat) : List Nat := (List.range (w / 4)).map fun i => nfld v (4 * i) 4

/-- Join runs that follow one another within a part of the given number of nibbles. -/
def joinRuns (part : Nat) (l : List Run) : List Run :=
  (l.foldl (fun acc r => match acc with
    | a :: rest => if a.1 + a.2.length = r.1 ∧ r.1 % part ≠ 0 then (a.1, a.2 ++ r.2) :: rest else r :: acc
    | [] => [r]) []).reverse

/-- Bytes of nibbles, two by two. -/
def packNibbles : List Nat → List Byte
  | a :: b :: rest => BitVec.ofNat 8 (a + 16 * b) :: packNibbles rest
  | [a] => [BitVec.ofNat 8 a]
  | [] => []

/-- The range a run writes, at byte pa of its space; addr is the record's ADDR of the byte place (R273). -/
def runSeg (akind : Nat) (addr : Nat → Word) (pa : Nat → Nat) (r : Run) : Seg :=
  let odd := r.1 % 2 = 1
  let data := packNibbles (if odd then 0 :: r.2 else r.2)
  let first := pa (r.1 / 2)
  { akind := akind, addr := addr (r.1 / 2 / 8 * 8), pa := first, len := data.length, data := data, keepLow := odd,
    keepHigh := (r.1 + r.2.length) % 2 = 1, src := [] }

/-- ADDR of an AKIND 2 record (R273): tensor, chunk, offset, XP. -/
def tensorAddr (id : Nat) (xp : Bool) (byte : Nat) : Word :=
  BitVec.ofNat 64 (id % 256 + byte / 65536 % 2 ^ 24 * 2 ^ 8 + byte % 65536 * 2 ^ 32 + (if xp then 2 ^ 48 else 0))

/-- ADDR of an AKIND 0 record. -/
def spadAddr (tile off : Nat) : Word := BitVec.ofNat 64 (tile + off * 256)

/-- Bytes of the undo records of ranges. -/
def segsBytes (l : List Seg) : Nat := (l.map fun g => 16 + 8 * coverWords g.pa g.len).sum

/-- The bytes a range writes, with the nibbles it keeps. -/
def Seg.bytes (g : Seg) (m : Mem) : List Byte :=
  let lo := if g.keepLow then (g.data.take 1).map (fun b => (b &&& 0xF0) ||| (mread m g.pa &&& 0x0F)) ++ g.data.drop 1 else g.data
  let last := g.pa + g.data.length - 1
  if g.keepHigh then lo.dropLast ++ (lo.getLast?.map fun b => (b &&& 0x0F) ||| (mread m last &&& 0xF0)).toList else lo

/-- Write a range, with its record unless it is into a shadow (R273, R149). -/
def State.segPut (s : State) (src wtile c : Nat) (win : BitVec 32) (atom log : Bool) (g : Seg) : State :=
  let t := fld g.addr 0 8
  let m := if g.akind = 0 then (s.tile t).spad else s.hbm
  let bs := g.bytes m
  let r : UndoRec :=
    { rtype := 1, akind := g.akind, atom := atom, tile := if src ≥ 5 then 0 else wtile, src := src, win := win, addr := g.addr,
      old := oldWords m g.pa bs.length, inBuf := decide (src < 5) }
  let s1 := if log then s.record c r bs else s
  if g.akind = 0 then s1.modTile t fun x => { x with spad := mwrites x.spad g.pa bs } else { s1 with hbm := mwrites s1.hbm g.pa bs }

end Sys2Proof.Machine
end

