-- ==== Sys2Proof/Machine/Queue.lean ====
section
/-! DEFINITION. The access stream's shared operations: address registers (R360, R361), operand queues (R234, R235, R365),
memory operands of lines (R362), predicates (R317), and moving bytes to HBM. -/
namespace Sys2Proof.Machine
open Sys2Proof

/-! ## Address registers -/

/-- An address register, once every earlier write of it has been made (R361). -/
def State.areg (s : State) (t : Nat) (r : BitVec 6) : Res Word :=
  let x := s.tile t
  if r = 0 then .ok 0
  else if s.ccc.toNat < tget 0 x.abusy r.toNat then .stall .interlock s
  else .ok (tget 0 x.areg r.toNat)

/-- Write an address register, readable lat cycles after issue; a0 discards. -/
def Tile.setA (x : Tile) (now : Word) (r : BitVec 6) (lat : Nat) (v : Word) : Tile :=
  if r = 0 then x
  else { x with areg := tput 0 x.areg r.toNat v, abusy := tput 0 x.abusy r.toNat (max (tget 0 x.abusy r.toNat) (now.toNat + lat)) }

/-- Address arithmetic of two sources. -/
def State.addrRes (s : State) (d a b : BitVec 6) (lat bytes : Nat) (op : Word → Word → Word) : Res State :=
  s.onTile.bind fun t => (s.areg t a).bind fun va => (s.areg t b).bind fun vb =>
    .ok ((s.modTile t fun x => x.setA s.ccc d lat (op va vb)).retire bytes)

/-- Address arithmetic with an immediate. -/
def State.addrImmRes (s : State) (d a : BitVec 6) (bytes : Nat) (imm : Word) (op : Word → Word → Word) : Res State :=
  s.onTile.bind fun t => (s.areg t a).bind fun va => .ok ((s.modTile t fun x => x.setA s.ccc d 1 (op va imm)).retire bytes)

/-! ## Operand queues -/

def Tile.oqueue (x : Tile) (q : Nat) : OpQueue := tget OpQueue.idle x.oq q
def Tile.modOq (x : Tile) (q : Nat) (f : OpQueue → OpQueue) : Tile := { x with oq := tmod OpQueue.idle x.oq q f }

/-- Entries held and reserved. -/
def OpQueue.used (q : OpQueue) : Nat := q.ents.length + q.loads.length

/-- A producing queue of the access stream with room (R365). -/
def State.inRoom (s : State) (t q : Nat) : Res Unit :=
  (Res.check (q ≤ 5) .rsvField).bind fun _ => if 16 ≤ ((s.tile t).oqueue q).used then .stall (.queueFull q) s else .ok ()

/-- The head entry of a consuming queue (R365). -/
def State.outHead (s : State) (t q : Nat) : Res (BitVec 2048) :=
  (Res.check (q = 6 || q = 7) .rsvField).bind fun _ =>
    match ((s.tile t).oqueue q).ents with
    | e :: _ => .ok e
    | [] => .stall (.queueEmpty q) s

/-- The head leaves the queue. -/
def Tile.popOq (x : Tile) (q : Nat) : Tile := x.modOq q fun y => { y with ents := y.ents.drop 1 }

/-- An entry enters a queue. -/
def Tile.pushOq (x : Tile) (q : Nat) (e : BitVec 2048) : Tile := x.modOq q fun y => { y with ents := y.ents ++ [e], entered := y.entered + 1 }

/-- A gather still reads scratchpad lines. -/
def Tile.gathering (x : Tile) : Bool := x.oq.any fun e => e.2.loads.any fun l => !l.port0.isEmpty || !l.port1.isEmpty

/-- A load reserves its place in a queue. -/
def State.reserveLoad (s : State) (t q : Nat) (src : List QSrc) (copies : Nat) (tensor : Option Nat) (p0 p1 : List (Nat × Nat)) : State :=
  let l : QLoad := { src := src, copies := copies, tensor := tensor, order := s.nextId, port0 := p0, port1 := p1 }
  { s.modTile t (fun x => x.modOq q fun y => { y with loads := y.loads ++ [l] }) with nextId := s.nextId + 1 }

/-! ## Memory operands in lines -/

/-- Pieces of n bytes from an address that stay within 64-byte lines: offset and length. -/
def linePieces : Nat → Nat → Nat → Nat → List (Nat × Nat)
  | 0, _, _, _ => []
  | fuel + 1, a, off, n => if n = 0 then [] else let k := min n (64 - (a + off) % 64); (off, k) :: linePieces fuel a (off + k) (n - k)

/-- Locate each piece of an operand, with alignment al (R362). -/
def State.locatePieces (s : State) (w : Who) (ea : Word) (store : Bool) (al : Nat) : List (Nat × Nat) → Res (List (Loc × Nat) × State)
  | [] => .ok ([], s)
  | p :: ps =>
    (s.locate w (ea + BitVec.ofNat 64 p.1) p.2 store false al).bind fun r =>
    (r.2.locatePieces w ea store al ps).bind fun q => .ok ((r.1, p.2) :: q.1, q.2)

/-- An operand of n bytes, whole in its space. -/
def State.operand (s : State) (w : Who) (ea : Word) (n : Nat) (store : Bool) (al : Nat) : Res (List (Loc × Nat) × State) :=
  if bit ea 56 && (fld ea 52 4 == 4 || fld ea 52 4 == 5) && (s.window (fld ea 52 4 == 5) (fld ea 40 12) (s.ctxOf w) (fld ea 0 40) n).isNone &&
      ea.toNat % al == 0 && fld ea 57 7 == 0 then .raise .windowUnmapped ea
  else s.locatePieces w ea store al (linePieces (n / 64 + 2) ea.toNat 0 n)

/-- The scratchpad range an operand lies in, if it does. -/
def spadOf (l : List (Loc × Nat)) : Option (Nat × Nat) :=
  match l with
  | (.spad t off _, _) :: _ => some (t, off)
  | _ => none

/-- Where a piece's bytes come from. -/
def Loc.source (l : Loc) (n : Nat) : QSrc :=
  match l with
  | .spad t off _ => .spad t off n
  | .hbm _ pa _ _ => .mem pa n
  | .reg _ => .zeros 0

/-- The bytes at a source of whole bytes. -/
def State.sourceBytes (s : State) (x : QSrc) : List Byte :=
  match x with
  | .data bs => bs
  | .spad t off n => mreads (s.tile t).spad off n
  | .mem pa n => mreads s.hbm pa n
  | _ => []

/-- The scratchpad line a source still has to be read from. -/
def QSrc.line? : QSrc → Option (Nat × Nat × Nat)
  | .spad t off n => some (t, off, n)
  | _ => none

/-- The sources of a store, in order. -/
def Store.sources (e : Store) : List QSrc := e.segs.flatMap (·.src) ++ e.adds

/-- An RST or RACC of a tile still reads scratchpad lines. -/
def State.lineReading (s : State) (t : Nat) : Bool := s.stores.any fun e => (e.who.bind Who.tile?) == some t && e.sources.any fun x => x.line?.isSome

/-- A gather, an RST or a RACC of the tile's access stream still reads scratchpad lines: the stream's later scratchpad accesses wait, since
they are granted in program order (R151, R379). -/
def State.reading (s : State) (t : Nat) : Bool := (s.tile t).gathering || s.lineReading t

/-- The requester of an access-stream access: load port 0, the store port, or a causeway (R237). -/
def accessPort (own target : Nat) (store : Bool) : Nat :=
  if own ≠ target then requester (.stream own 1) own target else if store then 3 else 1

/-- The ranges of an operand's pieces in HBM; neighbours in one frame make one range, and so one record. -/
def lineSegs : List (Loc × Nat) → List Byte → List Seg
  | [], _ => []
  | (l, n) :: rest, bs =>
    match l with
    | .hbm va pa _ _ =>
      let more := lineSegs rest (bs.drop n)
      match more with
      | g :: gs =>
        if g.pa = pa + n ∧ g.len + n ≤ 4088 then
          { g with addr := BitVec.ofNat 64 (va.toNat / 8 * 8), pa := pa, len := g.len + n, data := bs.take n ++ g.data } :: gs
        else segAt va pa (bs.take n) :: more
      | [] => [segAt va pa (bs.take n)]
    | _ => lineSegs rest (bs.drop n)

/-- The TX window and offset of an operand's first byte. -/
def txOf (l : List (Loc × Nat)) : Option (Nat × Nat) :=
  match l with
  | (.hbm _ _ tx _, _) :: _ => tx
  | _ => none

/-- The ranges leave for HBM as one store (R343); their records' space is reserved. -/
def State.segsOut (s : State) (w : Who) (segs : List Seg) (tensor op : Option Nat) (refl : Option Reflect) (adds : List QSrc := []) : State :=
  let c := s.ctxOf w
  let e : Store :=
    { who := some w, run := s.runOf w, src := w.src, ctx := c, segs := segs, op := op, atom := false, win := s.winOf w.src w.undoTile c,
      tensor := tensor, refl := refl, adds := adds, firing := none, list := none, moved := [], order := s.nextId }
  { s with stores := s.stores ++ [e], nextId := s.nextId + 1 }

/-- Bytes of HORIZON records a reflected store of the window writes. -/
def State.horizonBytes (s : State) (c : Nat) (tx : Option Nat) : Nat :=
  if s.playing c then 0 else 24 * (tx.map fun x => (s.horizonSlots x).length).getD 0

/-- Store bytes at an operand of whole 64-byte lines: SQ and SQS. -/
def State.storeLines (s : State) (t : Nat) (ea : Word) (bs : List Byte) (pop : Tile → Tile) : Res State :=
  let w : Who := .stream t 1
  (s.operand w ea bs.length true 64).bind fun r =>
    match spadOf r.1 with
    | some (u, off) =>
      if r.2.reading t then .stall .port s
      else
        (r.2.boardClear u off bs.length true).bind fun _ =>
        (r.2.grant u off bs.length (accessPort t u true)).bind fun s1 =>
        (s1.reserve 1 t (s.ctxOfTile t) (bs.length / 8) ea).bind fun s2 =>
          .ok (((s2.spadPut 1 t (s.ctxOfTile t) (s.tile t).win u off bs).modTile t pop).retire 4)
    | none =>
      if 128 ≤ s.writesOut w then .stall .writes s
      else
        let segs := lineSegs r.1 bs
        (r.2.reserveLen 1 t (s.ctxOfTile t) (segsBytes segs + s.horizonBytes (s.ctxOfTile t) ((txOf r.1).map (·.1))) ea).bind fun s1 =>
          .ok (((s1.segsOut w segs none none ((txOf r.1).map fun x => s.reflectTo x.1 x.2 none)).modTile t pop).retire 4)

/-- Load n bytes at an operand of whole 64-byte lines into a queue: LQ and LQB. -/
def State.loadLines (s : State) (t q : Nat) (ea : Word) (n copies : Nat) : Res State :=
  let w : Who := .stream t 1
  (s.inRoom t q).bind fun _ => (s.operand w ea n false 64).bind fun r =>
    match spadOf r.1 with
    | some (u, off) =>
      if r.2.reading t then .stall .port s
      else
        (r.2.boardClear u off n false).bind fun _ =>
        (r.2.grant u off n (accessPort t u false)).bind fun s1 =>
          .ok ((s1.reserveLoad t q [.data (mreads (s1.tile u).spad off n)] copies none [] []).retire 4)
    | none =>
      let src := r.1.map fun p => match p.1 with
        | .hbm _ pa _ _ => QSrc.mem pa p.2
        | _ => QSrc.zeros 0
      .ok ((r.2.reserveLoad t q src copies none [] []).retire 4)

/-! ## Predicates (R312, R317) -/

/-- The instruction is suppressed by its nst entry. -/
def Tile.suppressed (x : Tile) (pv pn : Bool) (pk : BitVec 4) : Bool := pv && ((tget 0 x.nst pk.toNat).getLsbD 0 != pn)

/-! ## Tensor operands (R368) -/

/-- The coordinates of a tensor operand: a(b) up. -/
def State.coords (s : State) (t : Nat) (b : BitVec 6) : Nat → Res (List Nat)
  | 0 => .ok []
  | n + 1 => (s.areg t b).bind fun v => (s.coords t (b + 1) n).bind fun r => .ok (v.toNat :: r)

/-- Move the first coordinate. -/
def addFirst (c : List Nat) (k : Nat) : List Nat :=
  match c with
  | [] => []
  | x :: xs => (x + k) :: xs

/-- A descriptor that instructions may use now: valid, and not being published (R150). -/
def State.tensorUse (s : State) (ctx : Nat) (a : Word) : Res (BitVec 512) :=
  if fld a 8 56 ≠ 0 then .raise .tensorDesc a
  else match s.tensorOk ctx a.toNat with
    | none => .raise .tensorDesc a
    | some d => if s.pubs.any (fun p => p.ctx == ctx && p.tensor == a.toNat) then .stall .publish s else .ok d

/-- Check elements k of a run along the first dimension, k below n (R107). -/
def checkRun (d : BitVec 512) (id : Nat) (c : List Nat) (n : Nat) : Res Unit :=
  match tdBeyond d c with
  | some i => .raise .tensorBounds (BitVec.ofNat 64 (id + i * 2 ^ 8))
  | none => Res.check (c.headD 0 + n ≤ tdExt d 0) .tensorBounds (BitVec.ofNat 64 id)

/-- Places of bytes through a chunk table, in order: a chunk that is not present and pinned raises first (R117). -/
def State.chunkPlaces (s : State) (table : Nat) (store : Bool) (info : Word) : List Nat → Res (List Nat)
  | [] => .ok []
  | b :: bs =>
    let e := mword s.hbm (table + 8 * (b / 65536))
    (Res.check (bit e 0 && bit e 3) .coreUnmapped info).bind fun _ =>
    ((s.chunkPlace table b store).forStream s info).bind fun pa => (s.chunkPlaces table store info bs).bind fun r => .ok (pa :: r)

end Sys2Proof.Machine
end

