-- ==== Sys2Proof/Machine/Access.lean ====
section
/-! DEFINITION. Access-class instructions but the copies (R363-R368, R375-R378), and OPERAND_QUEUE_FILL (R365). -/
namespace Sys2Proof.Machine
open Sys2Proof

/-! ## Address arithmetic (R363, R364) -/

/-- AADD (R363). -/
def execAadd (f : Tri) (s : State) : Ans := (s.addrRes f.d f.a f.b 1 4 (· + ·)).finish s

/-- ASUB (R363). -/
def execAsub (f : Tri) (s : State) : Ans := (s.addrRes f.d f.a f.b 1 4 (· - ·)).finish s

/-- AMUL (R363): written three cycles after issue (R361). -/
def execAmul (f : Tri) (s : State) : Ans := (s.addrRes f.d f.a f.b 3 4 (· * ·)).finish s

/-- ASHL (R363). -/
def execAshl (f : Tri) (s : State) : Ans := (s.addrRes f.d f.a f.b 1 4 fun a b => a <<< fld b 0 6).finish s

/-- ASHR (R363). -/
def execAshr (f : Tri) (s : State) : Ans := (s.addrRes f.d f.a f.b 1 4 fun a b => a >>> fld b 0 6).finish s

/-- AAND (R363). -/
def execAand (f : Tri) (s : State) : Ans := (s.addrRes f.d f.a f.b 1 4 (· &&& ·)).finish s

/-- AMOV (R363, R364): d = 32-35 writes lc0-lc3. -/
def execAmov (f : Tri) (s : State) : Ans :=
  (s.onTile.bind fun t => (s.areg t f.a).bind fun v =>
    if 32 ≤ f.d.toNat then
      (Res.check (v.toNat < 2 ^ 32) .lcreg v).bind fun _ =>
        .ok ((s.modTile t fun x => { x with lc := tput 0 x.lc (f.d.toNat - 32) (v.setWidth 32) }).retire 4)
    else .ok ((s.modTile t fun x => x.setA s.ccc f.d 1 v).retire 4)).finish s

/-- AADDI (R363). -/
def execAaddi (f : ImmS) (s : State) : Ans := (s.addrImmRes f.d f.a 4 (imm14s f.imm) (· + ·)).finish s

/-- ALI (R363). -/
def execAli (f : ImmW) (s : State) : Ans := (s.addrImmRes f.d 0 4 (imm20s f.imm) (· + ·)).finish s

/-- Compact AADD x, x, y (R327). -/
def execAaddC (f : C16) (s : State) : Ans := (s.addrRes (f.x.setWidth 6) (f.x.setWidth 6) (f.y.setWidth 6) 1 2 (· + ·)).finish s

/-- Compact AADDI x, x, #y (R327). -/
def execAaddiC (f : C16) (s : State) : Ans := (s.addrImmRes (f.x.setWidth 6) (f.x.setWidth 6) 2 (imm5s f.y) (· + ·)).finish s

/-- Compact AMOV x, y (R327). -/
def execAmovC (f : C16) (s : State) : Ans := (s.addrImmRes (f.x.setWidth 6) (f.y.setWidth 6) 2 0 (· + ·)).finish s

/-! ## Operand-queue transfers (R366) -/

/-- EA of the queue forms: the offset counts 64 bytes. -/
def queueEa (a : Word) (off : BitVec 11) : Word := memEa a off 64

/-- LQ (R366). -/
def execLq (f : MemF) (s : State) : Ans :=
  (s.onTile.bind fun t => (s.areg t f.a).bind fun a => s.loadLines t f.d.toNat (queueEa a f.off) 256 1).finish s

/-- LQB (R366). -/
def execLqb (f : MemF) (s : State) : Ans :=
  (s.onTile.bind fun t => (s.areg t f.a).bind fun a => s.loadLines t f.d.toNat (queueEa a f.off) 64 4).finish s

/-- SQ (R366). -/
def execSq (f : MemF) (s : State) : Ans :=
  (s.onTile.bind fun t => (s.areg t f.a).bind fun a => (s.outHead t f.d.toNat).bind fun e =>
    s.storeLines t (queueEa a f.off) (leBytes 256 e.toNat) fun x => x.popOq f.d.toNat).finish s

/-- SQS (R366): bytes 64-255 of the entry are discarded. -/
def execSqs (f : MemF) (s : State) : Ans :=
  (s.onTile.bind fun t => (s.areg t f.a).bind fun a => (s.outHead t f.d.toNat).bind fun e =>
    s.storeLines t (queueEa a f.off) (leBytes 64 e.toNat) fun x => x.popOq f.d.toNat).finish s

/-! ## LQG (R367) -/

/-- The lanes of a gather, each checked in turn. -/
def State.gatherLanes (s : State) (w : Who) (a : Word) : List Nat → Res (List Loc × State)
  | [] => .ok ([], s)
  | i :: is =>
    (s.locate w (a + BitVec.ofNat 64 (4 * i)) 4 false).bind fun r => (r.2.gatherLanes w a is).bind fun q => .ok (r.1 :: q.1, q.2)

/-- The scratchpad lines of the lanes, each once, in the order of its lowest lane. -/
def gatherLines (l : List Loc) : List (Nat × Nat) :=
  (l.foldl (fun acc x => match x with
    | .spad t off _ => if acc.contains (t, off / 64) then acc else (t, off / 64) :: acc
    | _ => acc) []).reverse

def evens {α : Type} : List α → List α
  | a :: _ :: r => a :: evens r
  | l => l

def odds {α : Type} : List α → List α
  | _ :: b :: r => b :: odds r
  | _ => []

/-- LQG (R367): a lane's cause loses the popped index entry. -/
def execLqg (f : Tri) (s : State) : Ans :=
  (s.onTile.bind fun t => (s.areg t f.a).bind fun a =>
    (s.inRoom t f.d.toNat).bind fun _ => (s.outHead t f.b.toNat).bind fun e =>
    let popped (s : State) : State := s.modTile t fun x => x.popOq f.b.toNat
    let idx := (List.range 64).map fun i => fld e (32 * i) 32
    match s.gatherLanes (.stream t 1) a idx with
    | .raise c i => .ok ((popped s).raise c i)
    | .denied va w e => .ok (((popped s).fillTlb w e).raise .perm va)
    | .stall w s' => .stall w s'
    | .fault x => .fault x
    | .ok (ls, s1) =>
      let lines := gatherLines ls
      let busy := ls.any fun l => match l with
        | .spad u off _ => (s.tile u).boardHit off 4 false
        | _ => false
      if busy then .stall .scoreboard s
      else if s.reading t then .stall .port s
      else
        let src := ls.map fun l => match l with
          | .spad u off _ => QSrc.lane u off
          | .hbm _ pa _ _ => QSrc.mem pa 4
          | .reg _ => QSrc.zeros 32
        .ok (((popped s1).reserveLoad t f.d.toNat src 1 none (evens lines) (odds lines)).retire 4)).finish s

/-! ## LQT and SQT (R368) -/

/-- LQT (R368). -/
def execLqt (f : CmdE) (s : State) : Ans :=
  (s.onTile.bind fun t =>
    let ctx := s.ctxOfTile t
    let q := f.d.toNat
    (s.inRoom t q).bind fun _ =>
    if (s.tile t).suppressed f.pv f.pn f.pk then .ok ((s.reserveLoad t q [.zeros 2048] 1 none [] []).retire 8)
    else
      (s.areg t f.a).bind fun a => (s.tensorUse ctx a).bind fun d =>
      let id := a.toNat
      let w := tdBits d
      let n := if fld f.imm 0 12 = 0 then 2048 / w else fld f.imm 0 12
      let sc := bit f.imm 12
      (Res.check (f.b.toNat + tdNdm1 d ≤ 31 && n ≤ 2048 / w) .rsvField).bind fun _ =>
      (Res.check (!sc || tdBlk d != 0) .tensorDesc a).bind fun _ =>
      (s.coords t f.b (tdDims d)).bind fun c => (checkRun d id c n).bind fun _ =>
      let info := BitVec.ofNat 64 id
      if sc then
        let m := (n + tdBlock d - 1) / tdBlock d
        (Res.check (c.headD 0 + (m - 1) * tdBlock d < tdExt d 0) .tensorBounds info).bind fun _ =>
        let bytes := (List.range m).map fun j => tdScaleNibble d (tdIndex d (addFirst c (j * tdBlock d))) / 2
        (s.chunkPlaces (tdCtab d) false info bytes).bind fun pas =>
          .ok ((s.reserveLoad t q (pas.map fun pa => .elem pa false 8) 1 (some id) [] []).retire 8)
      else
        let nibs := (List.range n).map fun k => tdNibble d (tdIndex d (addFirst c k))
        (s.chunkPlaces (tdCtab d) false info (nibs.map (· / 2))).bind fun pas =>
          .ok ((s.reserveLoad t q ((pas.zip nibs).map fun p => .elem p.1 (p.2 % 2 == 1) w) 1 (some id) [] []).retire 8)).finish s

/-- SQT (R368): its records name the tensor (R273). -/
def execSqt (f : CmdE) (s : State) : Ans :=
  (s.onTile.bind fun t =>
    let ctx := s.ctxOfTile t
    let q := f.d.toNat
    (Res.check (!bit f.imm 12) .rsvField).bind fun _ => (s.outHead t q).bind fun e =>
    if (s.tile t).suppressed f.pv f.pn f.pk then .ok ((s.modTile t fun x => x.popOq q).retire 8)
    else
      (s.areg t f.a).bind fun a => (s.tensorUse ctx a).bind fun d =>
      let id := a.toNat
      let w := tdBits d
      let n := if fld f.imm 0 12 = 0 then 2048 / w else fld f.imm 0 12
      (Res.check (f.b.toNat + tdNdm1 d ≤ 31 && n ≤ 2048 / w) .rsvField).bind fun _ =>
      (s.coords t f.b (tdDims d)).bind fun c => (checkRun d id c n).bind fun _ =>
      if 128 ≤ s.writesOut (.stream t 1) then .stall .writes s
      else
        let info := BitVec.ofNat 64 id
        let runs := joinRuns 131072 ((List.range n).map fun k => (tdNibble d (tdIndex d (addFirst c k)), nibbles w (fld e (k * w) w)))
        (s.chunkPlaces (tdCtab d) true info (runs.map fun r => r.1 / 2)).bind fun pas =>
          let segs := (runs.zip pas).map fun p => runSeg 2 (tensorAddr id (tdXp d)) (fun _ => p.2) p.1
          (s.reserveLen 1 t ctx (segsBytes segs) info).bind fun s1 =>
            .ok (((s1.segsOut (.stream t 1) segs (some id) none none).modTile t fun x => x.popOq q).retire 8)).finish s

/-! ## OPERAND_QUEUE_FILL (R365, R379) -/

/-- A store of the party issued before an order overlaps the words of a range (R126). -/
def State.storeOver (s : State) (w : Who) (order pa n : Nat) : Bool :=
  s.stores.any fun e => e.order < order &&
    (match e.who with
     | some u => u == w || (u.tile?.isSome && u.tile? == w.tile?)
     | none => false) &&
    e.segs.any fun g => g.pa / 8 * 8 < pa + n && pa / 8 * 8 < g.pa + max 8 g.len

/-- A source's value is there to be fixed. -/
def State.srcReady (s : State) (w : Who) (order : Nat) (x : QSrc) : Bool :=
  match x with
  | .data _ | .zeros _ => true
  | .mem pa n => !s.storeOver w order pa n
  | .elem pa _ _ => !s.storeOver w order pa 1
  | .spad .. | .lane .. => false

/-- A source's width in bits and its value. -/
def State.srcValue (s : State) (x : QSrc) : Nat × Nat :=
  match x with
  | .data bs => (8 * bs.length, leNat bs)
  | .spad t off n => (8 * n, mval (s.tile t).spad off n)
  | .mem pa n => (8 * n, mval s.hbm pa n)
  | .elem pa high w => (w, if w < 8 then nfld (mval s.hbm pa 1) (if high then 4 else 0) w else mval s.hbm pa (w / 8))
  | .lane t off => (32, mval (s.tile t).spad off 4)
  | .zeros w => (w, 0)

/-- The entry that a load's sources make. -/
def packSources (l : List (Nat × Nat)) : Nat × Nat := l.foldl (fun a x => (a.1 + x.1, a.2 + x.2 * 2 ^ a.1)) (0, 0)

/-- OPERAND_QUEUE_FILL (R365): the oldest load of a queue has its value, and its entry enters. -/
def execOperandQueueFill (tile queue : Nat) (s : State) : Ans :=
  let w : Who := .stream tile 1
  match ((s.tile tile).oqueue queue).loads with
  | [] => .next s
  | l :: rest =>
    if !l.src.all (s.srcReady w l.order) then .next s
    else
      let v := (packSources (l.src.map s.srcValue)).2
      let e := (List.range l.copies).foldl (fun a i => a + v * 2 ^ (512 * i)) 0
      .next ((s.modTile tile fun x => (x.modOq queue fun y => { y with loads := rest }).pushOq queue (BitVec.ofNat 2048 e)).frameIfQuiet tile 1)

/-! ## Waiting and queries (R375) -/

/-- A scalar destination of the access stream: it waits until the register is full (R360). -/
def State.accDst (s : State) (t : Nat) (d : BitVec 6) : Res Unit := if (s.tile t).sc.isEmpty d then .stall .emptyReg s else .ok ()

/-- A scalar source of the access stream. -/
def State.accSrc (s : State) (t : Nat) (r : BitVec 6) : Res Word :=
  if (s.tile t).sc.isEmpty r then .stall .emptyReg s else .ok ((s.tile t).sc.get r)

/-- XWAIT (R375, R374); a copy of the task that finds the undo log full raises UNDO_LOG_FULL here (R276). -/
def execXwait (f : Tri) (s : State) : Ans :=
  (s.onTile.bind fun t =>
    let n := f.a.toNat
    let x := s.tile t
    if s.copies.any (fun e => e.2.any fun c => c.tile == some t && c.full && x.task.any fun k => k.serial == c.serial) then .raise .undoLogFull 0
    else match tget Cause.none x.copyFail n with
    | .none =>
      if (x.flag n).toNat < f.b.toNat then .stall (.xwait n) s
      else (s.flagReserve 1 t n).bind fun s1 =>
        match s1.flagTake 1 t n f.b.toNat with
        | some s2 => .ok (s2.retire 4)
        | none => .stall (.xwait n) s
    | c => .ok (({ s with tiles := (s.modTile t fun y => { y with copyFail := tput Cause.none y.copyFail n .none }).tiles }).raise c 0)).finish s

/-- SBQ (R375). -/
def execSbq (f : Tri) (s : State) : Ans :=
  (s.onTile.bind fun t => (s.accDst t f.d).bind fun _ =>
    .ok ((s.startOp f.d (.value (tget 0 (s.tile t).board f.a.toNat)) 1 false 0 0).retire 4)).finish s

/-- QFLUSH (R375). -/
def execQflush (f : Tri) (s : State) : Ans :=
  (s.onTile.bind fun t => .ok ((s.modTile t fun x => x.modOq f.a.toNat fun y => { y with ents := [], loads := [] }).retire 4)).finish s

/-- QMARK (R375). -/
def execQmark (f : Tri) (s : State) : Ans :=
  (s.onTile.bind fun t => (s.accDst t f.d).bind fun _ =>
    let q := (s.tile t).oqueue f.a.toNat
    .ok ((s.startOp f.d (.value (BitVec.ofNat 64 (q.used % 32 + q.entered.toNat * 2 ^ 32))) 1 false 0 0).retire 4)).finish s

/-! ## Reflected stores and remote accumulate (R376-R378) -/

/-- The lines of an RST: each destination line with where its bytes come from (R377). -/
def State.rstSegs (s : State) (w : Who) (a : Word) : Nat → List (Loc × Nat) → Res (List Seg × State)
  | _, [] => .ok ([], s)
  | off, (l, n) :: rest =>
    match l with
    | .hbm va pa _ _ =>
      (s.locatePieces w (a + BitVec.ofNat 64 off) false 8 (linePieces 3 (a.toNat + off) 0 n)).bind fun r =>
      (r.2.rstSegs w a (off + n) rest).bind fun q =>
        .ok ({ segAt va pa [] with len := n, src := r.1.map fun p => p.1.source p.2 } :: q.1, q.2)
    | _ => .raise .perm 0

/-- Earlier reads of the tile's scratchpad lines come first, and a copy that writes a source's lines (R120, R151). -/
def State.rstReady (s : State) (t : Nat) (l : List QSrc) : Res Unit :=
  let lines := l.filterMap QSrc.line?
  if !lines.isEmpty && s.reading t then .stall .port s
  else if lines.any (fun p => (s.tile p.1).boardHit p.2.1 p.2.2 false) then .stall .scoreboard s
  else .ok ()

/-- RST and RST.TK (R377). -/
def State.rstRes (s : State) (f : CmdE) (tk : Bool) : Res State :=
  s.onTile.bind fun t =>
    let w : Who := .stream t 1
    let c := s.ctxOfTile t
    let len := f.imm.toNat
    (Res.check (len != 0) .rsvField).bind fun _ =>
    (if tk then s.accDst t f.d else .ok ()).bind fun _ =>
    if (s.tile t).suppressed f.pv f.pn f.pk then .ok ((if tk then s.startOp f.d (.value 0) 1 false 0 0 else s).retire 8)
    else
      (s.areg t f.a).bind fun a => (s.areg t f.b).bind fun b => (s.accSrc t f.c).bind fun tok =>
      (s.operand w a len false 8).bind fun ra =>
      (Res.check (len % 8 == 0) .align a).bind fun _ =>
      (Res.check (bit b 56 || fld b 57 7 != 0) .perm b).bind fun _ =>
      (ra.2.operand w b len true 8).bind fun rb =>
      match txOf rb.1 with
      | none => .raise .perm b
      | some (win, off) =>
        (s.checkToken c tok).bind fun _ =>
        (s.rstReady t (ra.1.map fun p => p.1.source p.2)).bind fun _ =>
        if 128 ≤ s.writesOut w then .stall .writes s
        else
          (rb.2.rstSegs w a 0 rb.1).bind fun q =>
          (q.2.reserveRing 1 c (segsBytes q.1 + s.horizonBytes c (some win)) b).bind fun s1 =>
            let id := s1.nextId
            let s2 := if tk then s1.startOp f.d .token 1 false 0 0 else s1
            .ok ((s2.segsOut w q.1 none (if tk then some id else none) (some (s.reflectTo win off (some tok)))).retire 8)

/-- RST (R377). -/
def execRst (f : CmdE) (s : State) : Ans := (s.rstRes f false).finish s

/-- RST.TK (R377). -/
def execRstTk (f : CmdE) (s : State) : Ans := (s.rstRes f true).finish s

/-- An operation and format that ROP may name (R168). -/
def ropOk (rop : Nat) : Bool := rop % 4 != 3 && rop / 4 != 3

/-- RACC (R378): its source is read like an RST's, line by line, and its packets leave once all of it has been read, in the order of the stream's
reflected stores; the HORIZON record's space is reserved at issue. -/
def execRacc (f : CmdE) (s : State) : Ans :=
  (s.onTile.bind fun t =>
    let w : Who := .stream t 1
    let c := s.ctxOfTile t
    let len := fld f.imm 0 16
    let rop := fld f.imm 16 4
    (Res.check (len != 0 && ropOk rop) .rsvField).bind fun _ =>
    if (s.tile t).suppressed f.pv f.pn f.pk then .ok (s.retire 8)
    else
      (s.areg t f.a).bind fun a => (s.areg t f.b).bind fun b =>
      (Res.check (fld b 62 2 == 0) .rsvField b).bind fun _ =>
      let chip := fld b 0 10
      let off := fld b 22 40
      (s.operand w a len false 8).bind fun ra =>
      (Res.check (s.isMember c chip) .perm b).bind fun _ =>
      (Res.check (len % 8 == 0 && off % 8 == 0) .align b).bind fun _ =>
      let src := ra.1.map fun p => p.1.source p.2
      (s.rstReady t src).bind fun _ =>
        (if chip != s.chip && !s.playing c then ra.2.reserveRing 1 c 24 b else .ok ra.2).bind fun s1 =>
          let r : Reflect := { win := 0, off := off, tok := none, slots := [(0, chip, fld b 10 12)], rop := some rop }
          .ok ((s1.segsOut w [] none none (some r) src).retire 8)).finish s

end Sys2Proof.Machine
end

