-- ==== Sys2Proof/Machine/Ferry.lean ====
section
/-! DEFINITION. The Ferry's event unit (R77-R101): the replay record of inputs (R283), deliveries into RX windows (R94), counters
and firings (R87), the match table (R82-R86), the unexpected list (R89-R91, R427), and the events of R77 in the event order. -/
namespace Sys2Proof.Machine
open Sys2Proof

/-! ## The replay record (R283) -/

def State.replaySize (s : State) (c : Nat) : Nat := s.cxF c cRPSIZE 0 16 * 65536

/-- Bytes enter the replay ring at its place, round its end. -/
def State.replayPut (s : State) (c : Nat) (bs : List Byte) : State :=
  let l := CtxLog.of s c
  let size := s.replaySize c
  let base := (s.cx c cRPBASE).toNat
  let head := min bs.length (size - l.rpos)
  let s1 := s.physWrite c (BitVec.ofNat 64 (base + l.rpos)) (bs.take head)
  (s1.physWrite c (BitVec.ofNat 64 base) (bs.drop head)).modLog c fun k =>
    { k with rpos := (l.rpos + bs.length) % max 1 size, rcur := k.rcur + bs.length }

/-- An entry's bytes; its payload is whole words. -/
def State.replayEntryBytes (s : State) (c ekind k : Nat) (payload : List Byte) : List Byte :=
  let words := (payload.length + 7) / 8
  leBytes 32 (ekind + c % 64 * 2 ^ 4 + words % 2 ^ 16 * 2 ^ 16 + s.cxF c cIVNUM 0 32 * 2 ^ 32 + s.ccc.toNat * 2 ^ 64 + k % 2 ^ 128 * 2 ^ 128) ++
    (payload ++ List.replicate (8 * words - payload.length) 0)

/-- Tiles of a context, ascending. -/
def State.tilesOf (s : State) (c : Nat) : List Nat := (List.range 256).filter fun t => s.tileCtx t == some c

/-- FULL is set: the current interval's recording is incomplete. -/
def State.recordingBreaks (s : State) (c : Nat) : State :=
  (s.setCx c cREPLAY (s.cx c cREPLAY ||| 8)).modLog c fun l => { l with ivComplete := tput false l.ivComplete (s.cxF c cIVNUM 0 32) false }

/-- Record an input; the ring keeps room for the SIG and END entries, and FULL stops the recording. -/
def State.recordInput (s : State) (c ekind k : Nat) (payload : List Byte) : State :=
  if !s.recording c || bit (s.cx c cREPLAY) 3 then s
  else
    let bs := s.replayEntryBytes c ekind k payload
    let l := CtxLog.of s c
    if s.replaySize c < l.rused + l.rcur + bs.length + 64 * (s.tilesOf c).length + 32 then s.recordingBreaks c
    else s.replayPut c bs

/-- Bytes of a later packet enter the data of a recorded arrival in the ring. -/
def State.replayFill (s : State) (c : Nat) (at' : Option Nat) (off : Nat) (bs : List Byte) : State :=
  match at' with
  | none => s
  | some p =>
    let size := max 1 (s.replaySize c)
    let base := (s.cx c cRPBASE).toNat
    let q := (p + off) % size
    let head := min bs.length (size - q)
    (s.physWrite c (BitVec.ofNat 64 (base + q)) (bs.take head)).physWrite c (BitVec.ofNat 64 base) (bs.drop head)

/-! ## Deliveries (R94, R273) -/

/-- Pieces that stay within 4 KiB blocks, so that a record holds each. -/
def blockPieces : Nat → Word → List Byte → List (Word × List Byte)
  | 0, _, _ => []
  | n + 1, va, bs =>
    if bs.isEmpty then []
    else
      let k := 4096 - va.toNat % 4096
      (va, bs.take k) :: blockPieces n (va + BitVec.ofNat 64 k) (bs.drop k)

/-- Write context memory through the page tables or a recorded frame, a record for each piece. -/
def State.writeVa (s : State) (src tile c : Nat) (win : BitVec 32) (va : Word) (bs : List Byte) : State :=
  (blockPieces (bs.length / 4096 + 2) va bs).foldl (fun s p => match s.physOf c p.1 with
    | some pa => s.hbmPut src tile c win p.1 pa p.2
    | none => s) s

/-- Bytes of the records of a write. -/
def vaRecordBytes (va : Word) (bs : List Byte) : Nat :=
  ((blockPieces (bs.length / 4096 + 2) va bs).map fun p => 16 + 8 * coverWords p.1.toNat p.2.length).sum

/-- Bytes enter an RX window: its entry must be valid, and must hold them; a full undo log makes the delivery wait. The packet,
if any, is acknowledged after the window-delivery event. -/
def State.rxWrite (s : State) (rxw off : Nat) (bs : List Byte) (ack : Option (Packet × Nat)) : Res State :=
  let e := s.reg128 (offRxw rxw)
  let c := fld e 1 6
  if !bit e 0 || winSize e < off + bs.length then .raise .windowUnmapped (BitVec.ofNat 64 rxw)
  else
    let va := winVa e off
    if s.rangeMoves c va bs.length then .stall .migrating s
    else (s.reserveRing 7 c (vaRecordBytes va bs) va).bind fun s1 =>
      let s2 := s1.writeVa 7 0 c (s1.winOf 7 0 c) va bs
      .ok { s2 with winDel := s2.winDel ++ [{ rxw := rxw, bytes := bs.length, ack := ack, born := s.ferryCycle }] }

/-- The packets of one message enter an RX window; all of them wait when one has to. -/
def State.rxWrites (s : State) (rxw off : Nat) (l : List (Nat × List Byte)) : Res State :=
  match l.foldl (fun (r : Res State) p => r.bind fun s => s.rxWrite rxw (off + p.1) p.2 none) (.ok s) with
  | .stall .undoLog _ => .stall .undoLog (s.undoFull (fld (s.reg128 (offRxw rxw)) 1 6) 7)
  | .stall w _ => .stall w s
  | r => r

/-! ## Match-table entries (R82) -/

def eValid (e : BitVec 512) : Bool := bit e 0
def eLinked (e : BitVec 512) : Bool := bit e 1
def eTen (e : BitVec 512) : Bool := bit e 2
def eTrig (e : BitVec 512) : Bool := bit e 3
def eCtx (e : BitVec 512) : Nat := fld e 4 6
def eOnce (e : BitVec 512) : Bool := bit e 10
def eAopv (e : BitVec 512) : Bool := bit e 11
def eSkmask (e : BitVec 512) : Nat := fld e 12 8
def eSrcid (e : BitVec 512) : Nat := fld e 20 12
def eSrcany (e : BitVec 512) : Bool := bit e 32
def eDmode (e : BitVec 512) : Nat := fld e 33 2
def eCmode (e : BitVec 512) : Nat := fld e 35 2
def eCnt (e : BitVec 512) : Nat := fld e 37 14
def eDwin (e : BitVec 512) : Nat := fld e 51 12
def eMb (e : BitVec 512) : Word := wordOf e 1
def eIgn (e : BitVec 512) : Word := wordOf e 2
def eDoff (e : BitVec 512) : Nat := fld e 192 40
def eOutst (e : BitVec 512) : Nat := fld e 232 8
def eThr (e : BitVec 512) : Word := wordOf e 4
def ePeriod (e : BitVec 512) : Nat := fld e 320 32
def eOverrun (e : BitVec 512) : Nat := fld e 352 16
def eFires (e : BitVec 512) : Nat := fld e 368 16
def eActaddr (e : BitVec 512) : Nat := fld e 384 26
def eActs (e : BitVec 512) : Nat := fld e 410 4 + 1
def eArmseq (e : BitVec 512) : Nat := fld e 448 64

def State.entry (s : State) (i : Nat) : BitVec 512 := tget 0 s.entries i
def State.setEntry (s : State) (i : Nat) (e : BitVec 512) : State := { s with entries := tput 0 s.entries i e }
def State.modEntry (s : State) (i : Nat) (f : BitVec 512 → BitVec 512) : State := s.setEntry i (f (s.entry i))

/-! ## Counters and firings (R87) -/

/-- A counter value has passed a threshold. -/
def passed64 (v t : Word) : Bool := (v - t).toNat < 2 ^ 63

/-- Queue an entry's action list, which is read now (R95); a context under MUSTER keeps its firings (R261). -/
def State.fire (s : State) (i : Nat) (v : Word) (arr : Option Arrival) : State :=
  let e := s.entry i
  let f : Firing :=
    { id := s.nextId, entry := i, ctx := eCtx e, acts := (List.range (eActs e)).map fun k => BitVec.ofNat 256 (mval s.sram (eActaddr e + 32 * k) 32),
      next := 0, token := none, arr := arr, value := v, ccc := s.ccc }
  let s1 := ({ s with nextId := s.nextId + 1 } : State).setEntry i (setFld e 368 16 (satAdd 0xFFFF (eFires e) 1))
  if !s.paused (eCtx e) then { s1 with actions := s1.actions ++ [f] } else s1.modMuster (eCtx e) fun m => { m with firings := m.firings ++ [f] }

/-- Evaluate one entry against its counter (R87). -/
def State.evaluate (s : State) (i : Nat) (v : Word) (arr : Option Arrival) : State :=
  let e := s.entry i
  if !eTen e || !passed64 v (eThr e) then s
  else
    (s.fire i v arr).modEntry i fun e =>
      if ePeriod e = 0 then setFld e 2 1 0
      else
        let n := (v - eThr e).toNat / ePeriod e + 1
        setFld (setWord e 4 (eThr e + BitVec.ofNat 64 (n * ePeriod e))) 352 16 (satAdd 0xFFFF (eOverrun e) (n - 1))

/-- A waiting CWAIT takes the value at the first event at which it has passed (R421). -/
def VarOp.cwaitAt (o : VarOp) (n : Nat) (v : Word) : VarOp :=
  match o.what with
  | .cwait c t => if c = n && passed64 v t then { o with what := .value v } else o
  | _ => o

def State.cwaits (s : State) (n : Nat) (v : Word) : State := s.mapOps fun o => o.cwaitAt n v

/-- Raise the common trigger; one within 256 cycles of an earlier one is merged into it (R290). It ends a WFE of every tile (R358). -/
def State.trigger (s : State) : State :=
  match s.snapAt with
  | some _ => s
  | none => (({ s with snapAt := some s.ccc } : State).setRegF offSnapId 0 32 (s.regF offSnapId 0 32 + 1)).wakeTiles

/-- A counter takes a value: each entry armed on it is evaluated, by ascending index (R87), and its context's threads wake (R359). -/
def State.setCounter (s : State) (n : Nat) (v : Word) (arr : Option Arrival) : State :=
  if s.cnt n = v then s
  else
    let s0 := s.setReg (offCnt n) v
    let s1 := if bit (s.reg offSnapCtl) 0 && s.regF offSnapCtl 1 14 == n then s0.trigger else s0
    let armed := (s1.entries.filter fun e => eTen e.2 && eCnt e.2 == n).map (·.1)
    ((armed.foldl (fun s i => s.evaluate i v arr) s1).cwaits n v).wakeThreads n

def State.addCounter (s : State) (n : Nat) (d : Word) (arr : Option Arrival) : State := s.setCounter n (s.cnt n + d) arr

/-- The event unit takes no further event in this cycle: it takes one a Ferry cycle (R78), and none while the action queue is full (R97). -/
def State.eventsStall (s : State) : Bool := decide (4096 ≤ s.actions.length) || decide (2 ≤ s.evUsed)

/-! ## Matching (R85, R86) -/

def eMatches (e : BitVec 512) (a : Arrival) : Bool :=
  eValid e && eLinked e && !eTrig e && eCtx e == a.ctx && (eSkmask e).testBit a.skind && eAopv e == a.aop &&
    (eSrcany e || (eSrcid e == a.src && a.src != 0xFFF)) && ((a.mb ^^^ eMb e) &&& ~~~ eIgn e) == 0

/-- The entry that takes an arrival: the lowest ARMSEQ. -/
def State.winner (s : State) (a : Arrival) : Option Nat :=
  ((s.entries.filter fun e => eMatches e.2 a).foldl (fun b e => match b with
    | none => some e
    | some d => if eArmseq e.2 < eArmseq d.2 then some e else some d) none).map (·.1)

/-- The CMODE update of a payload. -/
def cmodeAdd (e : BitVec 512) (len : Nat) : Option Word :=
  match eCmode e with
  | 1 => some 1
  | 2 => some (BitVec.ofNat 64 len)
  | _ => none

/-- A later packet's bytes at their place among the data; what has not come is zero there. -/
def putBytes (data : List Byte) (off : Nat) (bs : List Byte) : List Byte :=
  data.take off ++ List.replicate (off - data.length) 0 ++ bs ++ data.drop (off + bs.length)

/-- The data of an arrival that has come whole. -/
def Arrival.whole (a : Arrival) : List Byte := a.more.foldl (fun d p => putBytes d p.1 p.2) a.data

/-- The packets of an arrival that have come, with their offsets. -/
def Arrival.packets (a : Arrival) : List (Nat × List Byte) := if a.len = 0 then [] else (0, a.data) :: a.more

/-- ONCE: the entry matches no more (R85). -/
def State.unlink (s : State) (i : Nat) : State :=
  if eOnce (s.entry i) then s.modEntry i fun e => setFld e 1 1 0 else s

/-- An entry takes an arrival (R86). A scan of the unexpected list completes the deposit within its event (R90). A stall changes nothing. -/
def State.take (s : State) (i : Nat) (a : Arrival) (scan : Bool) : Res State :=
  let e := s.entry i
  let count (s : State) (arr : Option Arrival) : State := match cmodeAdd e a.len with
    | some d => s.addCounter (eCnt e) d arr
    | none => s
  if a.aop || eDmode e = 0 then .ok (count (s.unlink i) (if scan then none else some a))
  else
    let off := if eDmode e = 3 then fld a.hdata 0 40 else eDoff e
    let w := s.reg128 (offRxw (eDwin e))
    let atOnce := scan && a.left == 0
    if !bit w 0 || fld w 1 6 ≠ eCtx e || winSize w < off + a.len then
      .ok ((s.unlink i).report .windowUnmapped (eCtx e) 5 i (eDwin e))
    else if !atOnce && eOutst e = 255 then .stall .engineFull s
    else
      (s.rxWrites (eDwin e) off a.packets).bind fun s0 =>
        let s1 := s0.unlink i
        let s2 := if eDmode e = 2 then s1.modEntry i fun e => setFld e 192 40 (off + a.len) else s1
        if atOnce then .ok (count s2 none)
        else
          let d : Deposit := { entry := i, rxw := eDwin e, off := off, add := cmodeAdd e a.len, pdc := a.pdc, left := a.left, recAt := a.recAt,
                               born := s.ferryCycle }
          .ok { s2.modEntry i (fun e => setFld e 232 8 (eOutst e + 1)) with deposits := s2.deposits ++ [d] }

/-! ## The unexpected list (R89-R91) -/

def Arrival.granules (a : Arrival) : Nat := if a.aop then 0 else (a.len + 255) / 256

/-- The lowest granules that no record holds. -/
def State.freeGranules (s : State) (n : Nat) : List Nat :=
  if n = 0 then [] else ((List.range 65536).filter fun g => !(s.ux.any fun r => r.grans.contains g)).take n

/-- The list takes the arrival (R91). -/
def State.uxRoom (s : State) (a : Arrival) : Bool :=
  decide (s.ux.length < 8192) && decide (s.ux.countP (fun r => r.a.ctx == a.ctx) < s.regF (offCtxLim a.ctx) 17 14) &&
    decide ((s.ux.map fun r => r.a.granules).sum + a.granules ≤ 65536) &&
    !(1 ≤ a.skind && a.skind ≤ 4 && decide (s.regF offUxMaxLen 0 32 < a.len))

/-- UXCOUNT follows the list. -/
def State.setUx (s : State) (l : List UxRec) : State := { s with ux := l }.setRegF offMatchCtl 2 14 l.length

/-- Count an arrival that is discarded (R79, R91). -/
def State.uxDrop (s : State) : State := s.setRegF offMatchCtl 16 16 (satAdd 0xFFFF (s.regF offMatchCtl 16 16) 1)

/-- A record's 64 bytes, PGRAN and NGRAN zero (R427); CCC is that of its joining the sequence (R89). -/
def UxRec.bytes (r : UxRec) : List Byte :=
  leBytes 64 (r.a.mb.toNat + r.a.hdata.toNat * 2 ^ 64 + r.a.len % 2 ^ 32 * 2 ^ 128 + r.a.src % 4096 * 2 ^ 160 + r.a.skind % 8 * 2 ^ 172 +
    (if r.a.aop then 2 ^ 175 else 0) + r.a.ctx % 64 * 2 ^ 176 + r.aseq.toNat * 2 ^ 256 +
    r.a.born / 2 % 2 ^ 64 * 2 ^ 320)

/-- The first complete record of a context that an MRECV or MPOLL may take (R427). -/
def State.uxFind (s : State) (c : Nat) (mb ign : Word) : Option UxRec :=
  s.ux.find? fun r => r.a.ctx == c && r.a.left == 0 && ((r.a.mb ^^^ mb) &&& ~~~ ign) == 0

/-- What MRECV and MPOLL do with a record (R427): its length into d, or PARTIAL; the bytes go to context memory first. -/
def State.uxTake (s : State) (w : Who) (r : UxRec) (va : Word) (limit : Nat) : Res (Word × State) :=
  if limit < r.a.len && !r.a.aop then .ok (BitVec.ofNat 64 (2 + r.a.len % 2 ^ 48 * 2 ^ 8 + 2 ^ 63), s)
  else
    let c := s.ctxOf w
    let bs := r.bytes ++ (if r.a.aop then [] else r.a.whole)
    let pages := (List.range ((va.toNat % 65536 + bs.length + 65535) / 65536)).map fun i => va + BitVec.ofNat 64 (65536 * i)
    (pages.foldl (fun (q : Res State) p => q.bind fun s => (Res.check (fld p 56 8 == 0) .coreUnmapped p).bind fun _ => (s.translate w c (if p = va then va else p &&& ~~~ 0xFFFF#64) true).bind fun r => .ok r.2)
      (.ok s)).bind fun s1 =>
    (s1.reserveLen w.src w.undoTile c (vaRecordBytes va bs) va).bind fun s2 =>
      let s3 := s2.writeVa w.src w.undoTile c (s2.winOf w.src w.undoTile c) va bs
      .ok (BitVec.ofNat 64 r.a.len, s3.setUx (s3.ux.filter fun q => q.aseq != r.aseq))

/-- A thread's waiting MRECV is evaluated again (R427); a cause ends the thread's run. -/
def State.mrecvAgain (s : State) (n : Nat) : State :=
  let w : Who := .thread n
  match (s.thr n).sc.ops.find? (fun o => match o.what with | .mrecv .. => true | _ => false) with
  | some o =>
    match o.what with
    | .mrecv mb ign va limit =>
      match s.uxFind (s.thr n).ctx mb ign with
      | none => s
      | some r =>
        match s.uxTake w r va limit with
        | .ok (v, s1) => s1.modOp w o.id fun o => { o with what := .value v }
        | .raise c _ => s.raiseThread n c
        | .denied _ w e => (s.fillTlb w e).raiseThread n .perm
        | _ => s
    | _ => s
  | none => s

/-- An arrival joins the list, and the waiting MRECVs are evaluated by ascending thread number. -/
def State.uxAppend (s : State) (a : Arrival) : State :=
  let r : UxRec := { a := a, grans := s.freeGranules a.granules, aseq := s.aseq }
  let s1 := { s with aseq := s.aseq + 1 }.setUx (s.ux ++ [r])
  (s1.threads.map (·.1)).foldl (fun s n => s.mrecvAgain n) s1

/-! ## Arrivals (R54, R55, R79) -/

/-- An arrival's replay entry (R283). Packets of it that are still to come are put into the entry's data as they come. -/
def State.recordArrival (s : State) (a : Arrival) : State :=
  let room := if a.left = 0 then a.whole else a.whole ++ List.replicate (a.len - a.whole.length) 0
  let s1 := s.recordInput a.ctx 1
    (a.mb.toNat + (a.skind % 8 + (if a.aop then 8 else 0) + a.src % 4096 * 2 ^ 4 + a.len % 2 ^ 32 * 2 ^ 16) * 2 ^ 64)
    (leBytes 8 a.hdata.toNat ++ room)
  let l := CtxLog.of s a.ctx
  if a.left = 0 || (CtxLog.of s1 a.ctx).rcur == l.rcur then s1
  else
    let p := some (l.rpos + 40)
    { s1 with deposits := s1.deposits.map fun d => if d.pdc = a.pdc ∧ d.left ≠ 0 then { d with recAt := p } else d
              ux := s1.ux.map fun r => if r.a.pdc = a.pdc ∧ r.a.left ≠ 0 then { r with a := { r.a with recAt := p } } else r }

/-- An arrival is matched, counted or listed (R85-R91). -/
def State.arrive (s : State) (a : Arrival) : Res State :=
  if !s.ctxExists a.ctx then .ok s.uxDrop
  else match s.winner a with
    | some i => (s.take i a false).bind fun s1 => .ok ({ s1 with aseq := s1.aseq + 1 }.recordArrival a)
    | none =>
      if s.uxRoom a then .ok ((s.uxAppend a).recordArrival a)
      else if 1 ≤ a.skind ∧ a.skind ≤ 4 then .ok (s.emit (.nack (a.skind - 1)))
      else .ok (s.uxDrop.report .unexpectedFull a.ctx 5 0 0)

/-! ## The event order (R55, R77, R78) -/

/-- An event that has completed and waits for the event unit. -/
inductive FerryEvent where
  | arrival (a : Arrival)
  | deposit (d : Deposit)
  | delivery (d : WinDel)
  | signal (engine counter born : Nat)
  | command (k : CtrCmd)
  deriving DecidableEq, Repr

/-- The Ferry cycle in which an event completed. -/
def FerryEvent.born : FerryEvent → Nat
  | .arrival a => a.born
  | .deposit d => d.born
  | .delivery d => d.born
  | .signal _ _ b => b
  | .command k => k.born

/-- An event's place among those of its Ferry cycle (R55, R77): its class, and its order in the class. -/
def FerryEvent.rank : FerryEvent → Nat
  | .arrival a => a.skind % 8 * 4096 + a.src % 4096
  | .deposit d => 2 ^ 17 + d.entry
  | .delivery d => 2 * 2 ^ 17 + d.rxw
  | .signal e _ _ => 3 * 2 ^ 17 + e
  | .command _ => 4 * 2 ^ 17

/-- One event goes before another in the event order. -/
def FerryEvent.before (a b : FerryEvent) : Bool := decide (a.born < b.born) || (a.born == b.born && decide (a.rank < b.rank))

/-- The events that wait: arrivals while EN = 1 and but for contexts under PLAY (R93, R285), complete deposits, deliveries, engine
signals and counter writes, each class in order of coming. -/
def State.waiting (s : State) : List FerryEvent :=
  (if bit (s.reg offMatchCtl) 0 then (s.arrivals.filter fun a => !s.playing a.ctx).map .arrival else []) ++
    (s.deposits.filter fun d => d.left == 0).map .deposit ++ s.winDel.map .delivery ++ s.engSig.map (fun e => .signal e.1 e.2.1 e.2.2) ++
    s.ctrCmds.map .command

/-- The first of a list in the event order; of equals, the one that came first. -/
def firstEvent : List FerryEvent → Option FerryEvent
  | [] => none
  | e :: rest => match firstEvent rest with
    | some d => if d.before e then some d else some e
    | none => some e

/-- The event that the unit takes next. -/
def State.nextEvent (s : State) : Option FerryEvent := firstEvent s.waiting

/-- An event that completed in an earlier cycle waits: a thread's command does not pass it (R78). -/
def State.eventsBehind (s : State) : Bool := s.waiting.any fun e => decide (e.born < 2 * s.ccc.toNat)

/-- ARRIVAL_MATCH (R77, R85, R93): the first event, when it is an arrival. One that must wait keeps its place. -/
def execArrivalMatch (s : State) : Ans :=
  if s.eventsStall then .next s
  else match s.nextEvent with
    | some (.arrival a) =>
      let s0 := State.accept { s with arrivals := s.arrivals.erase a }
      match s0.arrive a with
      | .ok s1 => .next s1
      | .stall _ s1 => .next { s1 with arrivals := s.arrivals }
      | .raise c _ => .next (s0.report c a.ctx 5 0 0)
      | .denied _ _ _ => .next s
      | .fault f => .fault f
    | _ => .next s

/-- A deposit of an entry is complete: OUTST falls, the counter takes its update, and a disarmed entry is freed with the last one (R84,
R86); the counter update is no arrival's event. -/
def State.completeDeposit (s : State) (d : Deposit) : State :=
  let s1 := { s with deposits := s.deposits.erase d }.modEntry d.entry fun e => setFld e 232 8 (eOutst e - 1)
  let s2 := match d.add with
    | some v => s1.addCounter (eCnt (s1.entry d.entry)) v none
    | none => s1
  if s2.disarmed.contains d.entry && eOutst (s2.entry d.entry) = 0 then
    { s2.modEntry d.entry (fun e => setFld e 0 1 0) with disarmed := s2.disarmed.filter (· != d.entry) }
  else s2

/-- DEPOSIT_COMPLETION (R86, R84): the first event, when it is a complete deposit of the entry. -/
def execDepositCompletion (entry : Nat) (s : State) : Ans :=
  match s.nextEvent with
  | some (.deposit d) => if d.entry = entry && !s.eventsStall then .next (s.accept.completeDeposit d) else .next s
  | _ => .next s

/-- WINDOW_DELIVERY (R94): the first event, when it is a delivery: its bytes advance the window's counter, and then its packet is
acknowledged. A counter that is not the window's context's advances too (log entry 114). -/
def execWindowDelivery (s : State) : Ans :=
  match s.nextEvent with
  | some (.delivery d) =>
    if s.eventsStall then .next s
    else
      let s1 := State.accept { s with winDel := s.winDel.erase d }
      let v := s.reg (offRxdc d.rxw)
      let s2 := if bit v 0 then s1.addCounter (fld v 1 14) (BitVec.ofNat 64 d.bytes) none else s1
      match d.ack with
      | some (p, status) => .next (s2.inject 6 (ackPacketOf p status))
      | none => .next s2
  | _ => .next s

/-- ENGINE_SIGNAL (R77): the first event, when it is an engine's signal. -/
def execEngineSignal (s : State) : Ans :=
  match s.nextEvent with
  | some (.signal e c b) =>
    if s.eventsStall then .next s else .next ((State.accept { s with engSig := s.engSig.erase (e, c, b) }).addCounter c 1 none)
  | _ => .next s

/-- A counter write takes effect in the event unit. -/
def State.counterWrite (s : State) (k : CtrCmd) : State :=
  if k.set then s.setCounter k.counter k.value none else s.addCounter k.counter k.value none

/-- The waiting counter write that is the first event takes effect. -/
def State.counterCommand (s : State) : State :=
  match s.nextEvent with
  | some (.command k) => if s.eventsStall then s else (State.accept { s with ctrCmds := s.ctrCmds.erase k }).counterWrite k
  | _ => s

/-- A counter write as a new thread-command event (R77, R88, R96): at once when the unit can take it and nothing waits, else in its turn. -/
def State.counterEvent (s : State) (n : Nat) (set : Bool) (v : Word) : State :=
  let k : CtrCmd := { counter := n, set := set, value := v, born := s.ferryCycle }
  if s.eventsStall || !s.waiting.isEmpty then { s with ctrCmds := s.ctrCmds ++ [k] } else s.accept.counterWrite k

/-- COUNTER_REGISTER_WRITE (R88): evaluated like CSET. -/
def execCounterRegisterWrite (counter : Nat) (value : Word) (s : State) : Ans := .next (s.counterEvent (counter % 16384) true value)

/-! ## Multi-packet sends (R60) -/

/-- A later packet of a send: its bytes go to the first match's target, where the last one completes the deposit, or to the arrival that
still waits. -/
def State.morePacket (s : State) (pdc off : Nat) (data : List Byte) : Res State :=
  match s.deposits.find? (fun d => d.pdc == some pdc && d.left != 0) with
  | some d =>
    let c := fld (s.reg128 (offRxw d.rxw)) 1 6
    let bs := data.take d.left
    let fed (s : State) : State :=
      { s with deposits := s.deposits.map fun e => if e = d then { e with left := e.left - bs.length, born := s.ferryCycle } else e }
    match s.rxWrite d.rxw (d.off + off) bs none with
    | .ok s1 => .ok ((fed s1).replayFill c d.recAt off bs)
    | .stall w s1 => .stall w s1
    | _ => .ok (fed s)
  | none =>
    let more (a : Arrival) : Arrival :=
      if a.pdc = some pdc ∧ a.left ≠ 0 then { a with more := a.more ++ [(off, data.take a.left)], left := a.left - data.length } else a
    let filled := s.ux.foldl (fun s r => if r.a.pdc = some pdc ∧ r.a.left ≠ 0 then s.replayFill r.a.ctx r.a.recAt off (data.take r.a.left) else s) s
    let s1 : State := { filled with arrivals := s.arrivals.map more, ux := s.ux.map fun r => { r with a := more r.a } }
    .ok ((s1.threads.map (·.1)).foldl (fun s n => s.mrecvAgain n) s1)

/-- DELIVERY_CONTEXT_FAILURE (R60): the bytes deposited stay, and no counter moves. -/
def execDeliveryContextFailure (pdc : Nat) (s : State) : Ans :=
  let lost (p : Option Nat) (left : Nat) : Bool := p == some pdc && left != 0
  let gone := s.deposits.filter fun d => lost d.pdc d.left
  let s1 := gone.foldl (fun s d => State.completeDeposit s { d with add := none })
    ({ s with heldIn := s.heldIn.filter fun x => match x with | .more p .. => p != pdc | _ => true
              deposits := s.deposits.filter fun d => !lost d.pdc d.left } : State)
  .next (({ s1 with arrivals := s1.arrivals.filter fun a => !lost a.pdc a.left } : State).setUx (s1.ux.filter fun r => !lost r.a.pdc r.a.left))

end Sys2Proof.Machine
end

