-- ==== Sys2Proof/Machine/Sync.lean ====
section
/-! DEFINITION. Synchronisation, major 0x37 (R129-R141, R213, R348-R352); PUBLISH is in Publish.lean. -/
namespace Sys2Proof.Machine
open Sys2Proof

/-- ACQ and ACQT (R131, R349). -/
def State.acquireRes (s : State) (f : Tri) (try' : Bool) : Res State :=
  let w := s.cur
  let c := s.ctxOf w
  s.acqHeld.bind fun _ => (s.src f.a f.wa).bind fun a => (s.src f.b f.wb).bind fun b => (s.dst f.d).bind fun _ =>
  (s.reach w a false).bind fun r =>
    let v := r.2.1
    let s1 := r.2.2
    let g : Word := (objGen v).setWidth 64
    let won : Word := if try' then g ||| (1 <<< 63) else g
    let done (s : State) (x : Word) : State := (s.startOp f.d (.value x) 1 false a b).retire 4
    let wait : Res State := if try' then .ok (done s1 g) else .ok ((s1.startOp f.d (.acq a (b.setWidth 32)) 1 false a b).retire 4)
    if objEvent v then (if passed32 (objGen v) (b.setWidth 32) then .ok (done s1 won) else wait)
    else if s.holds w v && !s.releasing w a then .ok (done s1 won)
    else if objHeld v || !(s.waiters c a).isEmpty then wait
    else
      (s1.translate w c a true).bind fun p =>
      (p.2.reserve w.src w.undoTile c 1 a).bind fun s2 => .ok (done (s2.takeLock w w.src a r.1 v) won)

/-- ACQ (R131). -/
def execAcq (f : Tri) (s : State) : Ans := (s.acquireRes f false).finish s

/-- ACQT (R131): never waits. -/
def execAcqt (f : Tri) (s : State) : Ans := (s.acquireRes f true).finish s

/-- REL (R131): of a LOCK that the party holds and that no earlier REL of its own gives up; it completes, in VARIABLE_RESULT_WRITE, once the
writes it covers have been performed. -/
def execRel (f : Tri) (s : State) : Ans :=
  let w := s.cur
  (s.acqHeld.bind fun _ => (s.src f.a f.wa).bind fun a => (s.dst f.d).bind fun _ =>
    (s.reach w a true).bind fun r =>
    (Res.check (objEvent r.2.1 || (s.holds w r.2.1 && !s.releasing w a)) .relNotHeld a).bind fun _ =>
    (r.2.2.reserve w.src w.undoTile (s.ctxOf w) 3 a).bind fun s1 =>
      .ok ((s1.startOp f.d (.rel a) 1 false a 0).retire 4)).finish s

/-! ## The binding table (R129, R130) -/

/-- The binding table's entries. -/
def bindingEntry (ctx : Nat) (base lines obj : Nat) : BitVec 256 :=
  BitVec.ofNat 256 (1 + ctx * 2 + base / 64 * 2 ^ 7 + lines * 2 ^ 64 + obj / 64 * 2 ^ 128)

def bindBase (e : BitVec 256) : Nat := fld e 7 50 * 64
def bindLen (e : BitVec 256) : Nat := fld e 64 34 * 64

/-- The status BIND writes back: RANGE, then OVERLAP, then FULL, then OK (R129). -/
def State.bindStatus (s : State) (ctx sa sb : Nat) : Nat :=
  if sa % 64 ≠ 0 ∨ sb % 64 ≠ 0 ∨ sb = 0 ∨ 2 ^ 56 < sa + sb then 3
  else if s.bindings.any fun e => fld e.2 1 6 = ctx && decide (bindBase e.2 < sa + sb) && decide (sa < bindBase e.2 + bindLen e.2) then 2
  else if 8192 ≤ s.bindings.length then 1
  else 0

/-- BIND (R129): d supplies the object and KIND, and receives the status. -/
def execBind (f : Tri) (s : State) : Ans :=
  let w := s.cur
  let c := s.ctxOf w
  (s.acqHeld.bind fun _ => (s.src f.a f.wa).bind fun a => (s.src f.b f.wb).bind fun b => (s.src f.d).bind fun d => (s.dst f.d).bind fun _ =>
    let va := d &&& ~~~ 63#64
    let kind := fld d 0 1
    (Res.check (objAddressOk va) .syncObjInvalid va).bind fun _ =>
    (s.translate w c va true).bind fun r =>
      let v := r.2.object r.1
      (Res.check (nfld v 0 1 == 0 || (nfld v 1 1 == kind && nfld v 14 6 == c)) .syncObjInvalid va).bind fun _ =>
      let st := s.bindStatus c a.toNat b.toNat
      let done (s : State) : State := (s.startOp f.d (.value (BitVec.ofNat 64 st)) 1 false a b).retire 4
      if st ≠ 0 then .ok (done r.2)
      else
        let n := (firstBelow (fun i => tget 0 s.bindings i == 0) 8192 0).getD 0
        let enter (s : State) : State :=
          { s with bindings := tput 0 s.bindings n (bindingEntry c a.toNat (b.toNat / 64) va.toNat) }
        if nfld v 0 1 = 1 then .ok (done (enter r.2))
        else
          (r.2.reserve w.src w.undoTile c 2 va).bind fun s1 =>
            let s2 := s1.hbmPut w.src w.undoTile c (s.winOf w.src w.undoTile c) va r.1 (leBytes 8 (1 + kind * 2 + c * 2 ^ 14) ++ leBytes 8 0)
            .ok (done (enter s2))).finish s

/-- UNBIND (R129): status 0, or 4 when the context has no binding that starts at a. -/
def execUnbind (f : Tri) (s : State) : Ans :=
  (s.acqHeld.bind fun _ => (s.src f.a f.wa).bind fun a => (s.dst f.d).bind fun _ =>
    let mine (e : Nat × BitVec 256) : Bool := fld e.2 1 6 == s.ctxOf s.cur && bindBase e.2 == a.toNat
    let st : Word := if s.bindings.any mine then 0 else 4
    .ok ((({ s with bindings := s.bindings.filter fun e => !mine e } : State).startOp f.d (.value st) 1 false a 0).retire 4)).finish s

/-! ## Fences -/

/-- The party's reads have their values and its writes have been performed (R136). -/
def State.performed (s : State) (w : Who) : Bool :=
  !s.storesBefore w s.nextId && (s.scal w).ops.all fun o => match o.what with
    | .load .. | .reg .. | .atomic .. | .rel .. => false
    | _ => true

/-- FENCE (R136). -/
def execFence (s : State) : Ans :=
  (s.acqHeld.bind fun _ => if s.performed s.cur then .ok (s.retire 4) else .stall .fence s).finish s

/-- An answer that FENCE.RF must report, by ACK status (R141). -/
def ackCause (status : Nat) : Option Cause :=
  match status with
  | 1 => some .linkDown
  | 2 => some .chipFencedOff
  | 3 => some .windowUnmapped
  | 4 => some .tokenExpired
  | _ => none

/-- A packet of a reflected store of the party that FENCE.RF waits for: tile order is that of one task, or of one run of a thread (R125). -/
def Sent.isOf (e : Sent) (w : Who) (run : Nat) : Bool :=
  e.run == run && e.firing.isNone && e.send.isNone && (match e.who with
    | some u => u == w || (u.tile?.isSome && u.tile? == w.tile?)
    | none => false)

/-- The first non-OK answer by store, slot and offset (R141). -/
def firstBad (l : List Sent) : Option Sent :=
  (l.filter fun e => (e.status.bind ackCause).isSome).foldl (fun b e => match b with
    | none => some e
    | some d => if (e.order < d.order) || (e.order == d.order && (e.slot < d.slot || (e.slot == d.slot && e.off < d.off))) then some e else some d) none

/-- A party is w, or a stream of its tile. -/
def withParty (w : Who) (p : Option Who) : Bool :=
  match p with
  | some u => u == w || (u.tile?.isSome && u.tile? == w.tile?)
  | none => false

/-- FENCE.RF (R141, R70): reflected stores and host writes of the party. -/
def execFenceRf (s : State) : Ans :=
  let w := s.cur
  (s.acqHeld.bind fun _ =>
    let run := s.runOf w
    let mine := s.sent.filter fun e => e.isOf w run
    let waiting := s.stores.any (fun e => e.refl.isSome && e.run == run && withParty w e.who) ||
      s.hostTlps.any (fun h => h.run == run && withParty w h.who) ||
      mine.any fun e => e.status.isNone
    if waiting then
      .stall .fenceRf (s.modStrm w fun st => { st with fenceSince := some (st.fenceSince.getD s.ccc) })
    else match (firstBad mine).bind fun e => e.status.bind ackCause with
      | some c => .raise c 0
      | none => .ok (({ s with sent := s.sent.filter fun e => !e.isOf w run } : State).retire 4)).finish s

/-! ## Barrier and flags -/

/-- A subgroup operand: a[13:0], with a[63:14] zero, of a rectangle R213 allows. -/
def State.subgroup (s : State) (t : Nat) (a : Word) : Res Nat :=
  (Res.check (fld a 14 50 == 0 && s.subgroupOk t (fld a 0 14)) .rsvField a).bind fun _ => .ok (fld a 0 14)

/-- BAR (R213, R350): counted once, and complete when every tile of the subgroup has issued as many. -/
def execBar (f : Tri) (s : State) : Ans :=
  (s.onTile.bind fun t => s.acqHeld.bind fun _ => (s.src f.a f.wa).bind fun a => (s.subgroup t a).bind fun g =>
    let s1 := if (s.strm s.cur).counted then s
      else (s.modTile t fun x => { x with bars := tput 0 x.bars g (tget 0 x.bars g + 1) }).modStrm s.cur fun st => { st with counted := true }
    let n := tget 0 (s1.tile t).bars g
    if (rectTiles g).all fun u => n ≤ tget 0 (s1.tile u).bars g then .ok (s1.retire 4) else .stall .barrier s1).finish s

/-- FLAGW (R352): d is the flag number. -/
def execFlagw (f : Tri) (s : State) : Ans :=
  (s.onTile.bind fun t => s.acqHeld.bind fun _ => (s.src f.a f.wa).bind fun a =>
    (Res.check (decide (a.toNat ≤ 65535)) .rsvField a).bind fun _ =>
    if a = 0 then .ok (s.retire 4)
    else if ((s.tile t).flag f.d.toNat).toNat < a.toNat then .stall (.flag f.d.toNat) s
    else (s.flagReserve 0 t f.d.toNat).bind fun s1 =>
      match s1.flagTake 0 t f.d.toNat a.toNat with
      | some s2 => .ok (s2.retire 4)
      | none => .stall (.flag f.d.toNat) s).finish s

/-- FLAGS (R352, R220): s0 names the own tile; the signals to other tiles travel on their own. -/
def execFlags (f : Tri) (s : State) : Ans :=
  (s.onTile.bind fun t => s.acqHeld.bind fun _ => (s.src f.a f.wa).bind fun a =>
    (if f.a = 0 then .ok [t] else (s.subgroup t a).bind fun g => .ok (rectTiles g)).bind fun ts =>
    (s.flagReserve 0 t f.d.toNat).bind fun s1 =>
      let others := (ts.filter (· != t)).map fun u => ({ src := t, dst := u, flag := f.d.toNat, win := (s.tile t).win } : RemoteFlag)
      .ok (({ s1.flagAdd 0 t f.d.toNat with remoteFlags := s1.remoteFlags ++ others } : State).retire 4)).finish s

/-- FLAGC (R352). -/
def execFlagc (f : Tri) (s : State) : Ans :=
  (s.onTile.bind fun t => s.acqHeld.bind fun _ => (s.flagReserve 0 t f.d.toNat).bind fun s1 =>
    .ok ((s1.flagPut 0 t f.d.toNat 0).retire 4)).finish s

/-- REMOTE_FLAG_SIGNAL (R220): the oldest signal on its way from source tile n to a tile arrives. -/
def execRemoteFlagSignal (tile n : Nat) (s : State) : Ans :=
  match s.remoteFlags.find? fun e => e.src == n && e.dst == tile with
  | none => .next s
  | some e =>
    let s0 : State := { s with remoteFlags := s.remoteFlags.erase e }
    match s0.flagReserve 0 tile e.flag with
    | .ok s1 => .next (s1.flagAdd 0 tile e.flag)
    | _ => .next s

end Sys2Proof.Machine
end

