-- ==== Sys2Proof/Machine/Command.lean ====
section
/-! DEFINITION. Commands of majors 0x3A-0x3C (R416-R420): their issue, results, privilege and memory operands; and the counter and
match-table commands (R421-R424). -/
namespace Sys2Proof.Machine
open Sys2Proof

/-! ## Issue and results (R417, R418) -/

/-- Commands of one issuer complete in issue order. -/
def State.commandGate (s : State) : Res Unit := if (s.scal s.cur).ops.any (·.command) then .stall .commandOrder s else .ok ()

/-- A command that changes or reads Ferry state is an event of the event unit (R77, R418): it waits while the unit takes none, and behind the events that
completed in earlier cycles (R78). -/
def State.eventGate (s : State) : Res State := if s.eventsStall || s.eventsBehind then .stall .engineFull s else .ok s.accept

/-- A command that has taken effect: its value is written to d later. -/
def State.answer (s : State) (f : CmdE) (v : Word) (a b : Word) : State := (s.startOp f.d (.value v) 1 true a b).retire 8

/-- A command that waits. -/
def State.pending (s : State) (f : CmdE) (k : VarKind) (a b : Word) : State := (s.startOp f.d k 1 true a b).retire 8

/-- A status word (R417). -/
def status (code detail : Nat) : Word := BitVec.ofNat 64 (code % 256 + detail % 2 ^ 48 * 2 ^ 8 + 2 ^ 63)

def stBusy : Word := status 1 0
def stGone : Word := status 3 0
def stNone : Word := status 5 0
def stRefused (detail : Nat) : Word := status 6 detail

/-- The sources a, b and C of a command, and its destination. -/
def State.cmdSrc (s : State) (f : CmdE) : Res (Word × Word × Word) :=
  s.commandGate.bind fun _ => (s.src f.a).bind fun a => (s.src f.b).bind fun b => (s.src f.c).bind fun c => (s.dst f.d).bind fun _ => .ok (a, b, c)

/-- The issuer's context. -/
def State.cmdCtx (s : State) : Nat := s.ctxOf s.cur

/-- "Own" state belongs to the issuer's context, or the issuer has system privilege (R420). -/
def State.own (s : State) (mine : Bool) (info : Word := 0) : Res Unit := Res.check (mine || s.sysPriv s.cmdCtx) .perm info

/-- A command that requires system privilege (R420). -/
def State.needSys (s : State) : Res Unit := Res.check (s.sysPriv s.cmdCtx) .priv

/-! ## Memory operands (R418) -/

/-- Read bytes at a context virtual address, page by page. -/
def State.readPages (s : State) (w : Who) (c : Nat) : Nat → Word → Nat → Res (List Byte × State)
  | 0, _, _ => .ok ([], s)
  | fuel + 1, va, n =>
    if n = 0 then .ok ([], s)
    else if fld va 56 8 ≠ 0 then .raise .coreUnmapped va
    else
      let k := min n (65536 - fld va 0 16)
      (s.translate w c va false).bind fun r => (r.2.readPages w c fuel (va + BitVec.ofNat 64 k) (n - k)).bind fun q =>
        .ok (mreads s.hbm r.1 k ++ q.1, q.2)

/-- A command's memory operand: read once every earlier access of the issuer has been performed, and no ACQ is under way. -/
def State.readOperand (s : State) (va : Word) (n al : Nat) : Res (List Byte × State) :=
  s.acqHeld.bind fun _ => (Res.check (va.toNat % al == 0) .align va).bind fun _ =>
    if !s.performed s.cur then .stall .commandOrder s else s.readPages s.cur s.cmdCtx (n / 65536 + 2) va n

/-- Check that bytes at a context address may be written. -/
def State.writable (s : State) (w : Who) (c : Nat) : Nat → Word → Nat → Res State
  | 0, _, _ => .ok s
  | fuel + 1, va, n =>
    if n = 0 then .ok s
    else if fld va 56 8 ≠ 0 then .raise .coreUnmapped va
    else
      let k := min n (65536 - fld va 0 16)
      (s.translate w c va true).bind fun r => r.2.writable w c fuel (va + BitVec.ofNat 64 k) (n - k)

/-- Write a command's memory result, with its undo records first. -/
def State.writeOperand (s : State) (va : Word) (bs : List Byte) (al : Nat) : Res State :=
  let w := s.cur
  let c := s.cmdCtx
  s.acqHeld.bind fun _ => (Res.check (va.toNat % al == 0) .align va).bind fun _ =>
    if !s.performed w then .stall .commandOrder s
    else
      (s.writable w c (bs.length / 65536 + 2) va bs.length).bind fun s1 =>
      (s1.reserveLen w.src w.undoTile c (vaRecordBytes va bs) va).bind fun s2 =>
        .ok (s2.writeVa w.src w.undoTile c (s2.winOf w.src w.undoTile c) va bs)

/-- A range of the 64 MiB of Ferry SRAM in a context's region (R422); a party with system privilege passes the "own" check (R420; log entry 134). -/
def State.inRegion (s : State) (c addr n : Nat) : Bool :=
  let v := s.reg (offCsram c)
  decide (addr + n ≤ 2 ^ 26) && (s.sysPriv c || (bit v 0 && decide (fld v 1 14 * 4096 ≤ addr) && decide (addr + n ≤ fld v 1 14 * 4096 + fld v 15 15 * 4096)))

/-! ## Counters (R421) -/

/-- The counter an operand names. -/
def State.counterOf (s : State) (a : Word) : Res Nat :=
  let n := fld a 0 14
  (Res.check (fld a 14 50 == 0) .rsvField a).bind fun _ => (Res.check (bit (s.reg (offCntCtl n)) 0) .perm a).bind fun _ =>
    (s.own (s.ownsCnt s.cmdCtx n) a).bind fun _ => .ok n

/-- A counter command: the counter's new value from the old one and b, and what d receives. -/
def State.counterCmd (s : State) (f : CmdE) (new : Word → Word → Word) (before : Bool) : Res State :=
  (s.cmdSrc f).bind fun q => (s.counterOf q.1).bind fun n => s.eventGate.bind fun s0 =>
    let v := s.cnt n
    let v1 := new v q.2.1
    .ok ((s0.setCounter n v1 none).answer f (if before then v else v1) q.1 q.2.1)

/-- CINC (R421). -/
def execCinc (f : CmdE) (s : State) : Ans := (s.counterCmd f (fun v _ => v + 1) false).finish s

/-- CSET (R421): d takes the value before. -/
def execCset (f : CmdE) (s : State) : Ans := (s.counterCmd f (fun _ b => b) true).finish s

/-- CADD (R421). -/
def execCadd (f : CmdE) (s : State) : Ans := (s.counterCmd f (· + ·) false).finish s

/-- CREAD (R421). -/
def execCread (f : CmdE) (s : State) : Ans := (s.counterCmd f (fun v _ => v) false).finish s

/-- CWAIT (R421): completes at the first event at which the counter has passed b. -/
def execCwait (f : CmdE) (s : State) : Ans :=
  ((s.cmdSrc f).bind fun q => (s.counterOf q.1).bind fun n => s.eventGate.bind fun s0 =>
    if passed64 (s.cnt n) q.2.1 then .ok (s0.answer f (s.cnt n) q.1 q.2.1)
    else .ok (s0.pending f (.cwait n q.2.1) (BitVec.ofNat 64 n) q.2.1)).finish s

/-! ## The match table (R82-R84, R423, R424) -/

/-- Bits that the image of an entry must leave zero (R83); a TRIG entry's words 1-3 and the low bits of ACTADDR are counted among them (log
entry 119). -/
def imageBad (e : BitVec 512) (ten : Bool) : Bool :=
  bit e 63 || fld e 240 16 != 0 || fld e 414 34 != 0 || eCmode e == 3 || (eTrig e && !ten) || eActaddr e % 32 != 0 ||
    (eTrig e && (eMb e != 0 || eIgn e != 0 || eDoff e != 0))

/-- The entry ARM installs. -/
def armed (e : BitVec 512) (ten : Bool) (c : Nat) (seq : Word) : BitVec 512 :=
  let e1 := setFld e 0 10 (1 + (if eTrig e then 0 else 2) + (if ten then 4 else 0) + (if eTrig e then 8 else 0) + c % 64 * 2 ^ 4)
  setWord (setFld (setFld e1 232 8 0) 352 32 0) 7 seq

/-- The scan of R90: the context's records in ascending ASEQ. -/
def State.armScan (s : State) (i : Nat) : List UxRec → Res State
  | [] => .ok s
  | r :: rest =>
    if !eMatches (s.entry i) r.a then s.armScan i rest
    else
      (s.take i r.a true).bind fun s1 =>
        let s2 := s1.setUx (s1.ux.filter fun q => q.aseq != r.aseq)
        if eOnce (s.entry i) then .ok s2 else s2.armScan i rest

/-- ARM of an image (R83): the causes in their order, or the entry. A scan that has to wait for undo-log room leaves no part of the ARM done. -/
def State.arm (s : State) (c : Nat) (e : BitVec 512) (ten : Bool) : Res (Nat × State) :=
  let held := s.entries.countP fun x => eValid x.2 && eCtx x.2 == c
  let n := eActs e
  let acts := (List.range n).map fun k => mval s.sram (eActaddr e + 32 * k) 32
  match firstBelow (fun i => !eValid (s.entry i) && eOutst (s.entry i) == 0) 65536 0 with
  | none => .raise .matchTableFull 0
  | some i =>
    (Res.check (held < s.regF (offCtxLim c) 0 17) .matchTableFull).bind fun _ =>
    (Res.check ((bit (s.reg (offCntCtl (eCnt e))) 0 && (s.ownsCnt c (eCnt e) || s.sysPriv c)) && s.inRegion c (eActaddr e) (32 * n)) .perm).bind fun _ =>
    (Res.check (eTrig e || eDmode e == 0 || (bit (s.reg128 (offRxw (eDwin e))) 0 && fld (s.reg128 (offRxw (eDwin e))) 1 6 == c)) .perm).bind fun _ =>
    (Res.check (!imageBad e ten && acts.all fun a => nfld a 0 4 < 8) .rsvField).bind fun _ =>
      let s1 := { s with armSeq := s.armSeq + 1 }.setEntry i (armed e ten c s.armSeq)
      match (if eTrig e then .ok s1 else s1.armScan i s1.ux : Res State) with
      | .ok s2 => .ok (i, s2.evaluate i (s2.cnt (eCnt e)) none)
      | .stall .undoLog _ => .stall .undoLog (s.undoFull c 7)
      | .stall w _ => .stall w s
      | .raise x v => .raise x v
      | .denied va w e => .denied va w e
      | .fault x => .fault x

/-- ARM (R423). -/
def execArm (f : CmdE) (s : State) : Ans :=
  ((s.onThread).bind fun _ => (s.cmdSrc f).bind fun q =>
    if !bit (s.reg offMatchCtl) 1 then .ok (s.answer f stBusy q.1 0)
    else
      (s.readOperand q.1 64 64).bind fun r => r.2.eventGate.bind fun s0 =>
      (s0.arm s.cmdCtx (BitVec.ofNat 512 (leNat r.1)) (bit f.imm 0)).bind fun p =>
        .ok (p.2.answer f (BitVec.ofNat 64 p.1) q.1 0)).finish s

/-- The entry an operand names (R424); under ARMQ one that is not valid belongs to no context (log entry 132). -/
def State.entryOf (s : State) (a : Word) (any : Bool) : Res Nat :=
  let i := fld a 0 16
  (Res.check (fld a 16 48 == 0) .rsvField a).bind fun _ => (Res.check (any || eValid (s.entry i)) .perm a).bind fun _ =>
    (s.own ((any && !eValid (s.entry i)) || eCtx (s.entry i) == s.cmdCtx) a).bind fun _ => .ok i

/-- Disarm an entry (R84): it is freed once no deposit of it is outstanding. -/
def State.disarm (s : State) (i : Nat) : State :=
  let s1 := s.modEntry i fun e => setFld e 1 2 0
  if eOutst (s.entry i) = 0 then s1.modEntry i fun e => setFld e 0 1 0
  else if s1.disarmed.contains i then s1 else { s1 with disarmed := i :: s1.disarmed }

/-- DISARM (R424). -/
def execDisarm (f : CmdE) (s : State) : Ans :=
  ((s.onThread).bind fun _ => (s.cmdSrc f).bind fun q => (s.entryOf q.1 false).bind fun i => s.eventGate.bind fun s0 =>
    .ok ((s0.disarm i).answer f 0 q.1 0)).finish s

/-- ARMQ (R424): the entry's 64 bytes, as they stand. -/
def execArmq (f : CmdE) (s : State) : Ans :=
  ((s.onThread).bind fun _ => (s.cmdSrc f).bind fun q => (s.entryOf q.1 true).bind fun i => s.eventGate.bind fun s0 =>
    (s0.writeOperand q.2.1 (leBytes 64 (s.entry i).toNat) 64).bind fun s1 => .ok (s1.answer f 0 q.1 q.2.1)).finish s

/-- TRIG (R84, R424): fires the list once, whatever TEN and the counter hold. -/
def execTrig (f : CmdE) (s : State) : Ans :=
  ((s.cmdSrc f).bind fun q => (s.entryOf q.1 false).bind fun i => s.eventGate.bind fun s0 =>
    .ok ((s0.fire i (s.cnt (eCnt (s.entry i))) none).answer f 0 q.1 0)).finish s

end Sys2Proof.Machine
end

