-- ==== Sys2Proof/Decode.lean ====
section
/-! DEFINITION. Decoding and encoding, from the formats and maps of R313-R332. A class map names the instruction; it is
well-formed when its fields are in range and its encoding is the word that was read, so that every field the form
does not use is zero. -/
namespace Sys2Proof

/-- Who decodes: each class of R322-R329 has its own map; a Ferry thread shares the control map (R335). -/
inductive Class where
  | control | ferry | access | vector | matrix
  deriving DecidableEq, Repr

/-- The words of an instruction: one compact halfword, one word, two words (R313, R314), or a 64-bit step word (R160). -/
inductive Code where
  | none
  | half (h : BitVec 16)
  | word (w : BitVec 32)
  | cmd (w x : BitVec 32)
  | step (w : BitVec 64)
  deriving DecidableEq, Repr

/-! ## Formats (R315, R316) -/

/-- A field's bits at their place in a word of w bits. -/
def place {n : Nat} (w k : Nat) (x : BitVec n) : BitVec w := x.setWidth w <<< k

/-- Word 0 of format CMD (R315). -/
def cmdWord (m d a b : BitVec 6) (s : BitVec 8) : BitVec 32 :=
  place 32 26 m ||| place 32 20 d ||| place 32 14 a ||| place 32 8 b ||| place 32 0 s

def wordMajor (w : BitVec 32) : Nat := (w.extractLsb' 26 6).toNat
def wordFunc (w : BitVec 32) : Nat := (w.extractLsb' 0 6).toNat
def wordSub (w : BitVec 32) : Nat := (w.extractLsb' 0 8).toNat
def wordB (w : BitVec 32) : Nat := (w.extractLsb' 14 6).toNat
def memOp (w : BitVec 32) : Nat := (w.extractLsb' 11 3).toNat

def readTri (w : BitVec 32) : Tri :=
  { d := w.extractLsb' 20 6, a := w.extractLsb' 14 6, b := w.extractLsb' 8 6, wa := w.getLsbD 7, wb := w.getLsbD 6 }
def packTri (m g : BitVec 6) (f : Tri) : BitVec 32 :=
  place 32 26 m ||| place 32 20 f.d ||| place 32 14 f.a ||| place 32 8 f.b
    ||| place 32 7 (BitVec.ofBool f.wa) ||| place 32 6 (BitVec.ofBool f.wb) ||| place 32 0 g

def readImmS (w : BitVec 32) : ImmS := { d := w.extractLsb' 20 6, a := w.extractLsb' 14 6, imm := w.extractLsb' 0 14 }
def packImmS (m : BitVec 6) (f : ImmS) : BitVec 32 :=
  place 32 26 m ||| place 32 20 f.d ||| place 32 14 f.a ||| place 32 0 f.imm
/-- Major 0x25 of the control class: the kind in imm14[13:12], the amount below (R322). -/
def readShift (w : BitVec 32) : ImmS :=
  { d := w.extractLsb' 20 6, a := w.extractLsb' 14 6, imm := (w.extractLsb' 0 6).zeroExtend 14 }
def packShift (k : BitVec 2) (f : ImmS) : BitVec 32 :=
  place 32 26 0x25#6 ||| place 32 20 f.d ||| place 32 14 f.a ||| place 32 12 k
    ||| place 32 0 (f.imm.extractLsb' 0 6)
def shiftKind (w : BitVec 32) : Nat := (w.extractLsb' 12 2).toNat

def readImmW (w : BitVec 32) : ImmW := { d := w.extractLsb' 20 6, imm := w.extractLsb' 0 20 }
def packImmW (m : BitVec 6) (f : ImmW) : BitVec 32 :=
  place 32 26 m ||| place 32 20 f.d ||| place 32 0 f.imm

def readBraS (w : BitVec 32) : BraS := { a := w.extractLsb' 20 6, b := w.extractLsb' 14 6, off := w.extractLsb' 0 14 }
def packBraS (m : BitVec 6) (f : BraS) : BitVec 32 :=
  place 32 26 m ||| place 32 20 f.a ||| place 32 14 f.b ||| place 32 0 f.off
/-- Major 0x30: the b field selects the branch and is not an operand (R322). -/
def readBraZ (w : BitVec 32) : BraS := { a := w.extractLsb' 20 6, b := 0, off := w.extractLsb' 0 14 }
def packBraZ (k : BitVec 6) (f : BraS) : BitVec 32 :=
  place 32 26 0x30#6 ||| place 32 20 f.a ||| place 32 14 k ||| place 32 0 f.off

def readBraL (w : BitVec 32) : BraL := { d := w.extractLsb' 20 6, off := w.extractLsb' 0 20 }
def packBraL (m : BitVec 6) (f : BraL) : BitVec 32 :=
  place 32 26 m ||| place 32 20 f.d ||| place 32 0 f.off

def readMem (w : BitVec 32) : MemF := { d := w.extractLsb' 20 6, a := w.extractLsb' 14 6, off := w.extractLsb' 0 11 }
def packMem (m : BitVec 6) (o : BitVec 3) (f : MemF) : BitVec 32 :=
  place 32 26 m ||| place 32 20 f.d ||| place 32 14 f.a ||| place 32 11 o
    ||| place 32 0 f.off

def readCmd (w x : BitVec 32) : CmdE :=
  { d := w.extractLsb' 20 6, a := w.extractLsb' 14 6, b := w.extractLsb' 8 6, c := x.extractLsb' 26 6,
    pv := x.getLsbD 25, pn := x.getLsbD 24, pk := x.extractLsb' 20 4, imm := x.extractLsb' 0 20 }
def packCmd1 (f : CmdE) : BitVec 32 :=
  place 32 26 f.c ||| place 32 25 (BitVec.ofBool f.pv) ||| place 32 24 (BitVec.ofBool f.pn) ||| place 32 20 f.pk
    ||| place 32 0 f.imm
def packCmd (m : BitVec 6) (s : BitVec 8) (f : CmdE) : Code := .cmd (cmdWord m f.d f.a f.b s) (packCmd1 f)

def readV (w x : BitVec 32) : VForm :=
  { d := w.extractLsb' 20 6, a := w.extractLsb' 14 6, b := w.extractLsb' 8 6, c := x.extractLsb' 26 6,
    pv := x.getLsbD 25, pn := x.getLsbD 24, pk := x.extractLsb' 20 4, ty := x.extractLsb' 16 4, ty2 := x.extractLsb' 12 4,
    rm := x.extractLsb' 10 2, fzi := x.getLsbD 9, fzo := x.getLsbD 8, sat := x.getLsbD 7, imm := x.extractLsb' 0 7 }
def packV1 (f : VForm) : BitVec 32 :=
  place 32 26 f.c ||| place 32 25 (BitVec.ofBool f.pv) ||| place 32 24 (BitVec.ofBool f.pn) ||| place 32 20 f.pk
    ||| place 32 16 f.ty ||| place 32 12 f.ty2 ||| place 32 10 f.rm ||| place 32 9 (BitVec.ofBool f.fzi)
    ||| place 32 8 (BitVec.ofBool f.fzo) ||| place 32 7 (BitVec.ofBool f.sat) ||| place 32 0 f.imm
def packV (m : BitVec 6) (s : BitVec 8) (f : VForm) : Code := .cmd (cmdWord m f.d f.a f.b s) (packV1 f)

def readM (w x : BitVec 32) : MForm :=
  { d := w.extractLsb' 20 6, a := w.extractLsb' 14 6, b := w.extractLsb' 8 6, c := x.extractLsb' 26 6,
    pv := x.getLsbD 25, pn := x.getLsbD 24, pk := x.extractLsb' 20 4, dt := x.extractLsb' 12 8, ec := x.extractLsb' 10 2,
    rm := x.extractLsb' 8 2, sat := x.getLsbD 7, fzo := x.getLsbD 6, ty := x.extractLsb' 2 4 }
def packM1 (f : MForm) : BitVec 32 :=
  place 32 26 f.c ||| place 32 25 (BitVec.ofBool f.pv) ||| place 32 24 (BitVec.ofBool f.pn) ||| place 32 20 f.pk
    ||| place 32 12 f.dt ||| place 32 10 f.ec ||| place 32 8 f.rm ||| place 32 7 (BitVec.ofBool f.sat)
    ||| place 32 6 (BitVec.ofBool f.fzo) ||| place 32 2 f.ty
def packM (m : BitVec 6) (s : BitVec 8) (f : MForm) : Code := .cmd (cmdWord m f.d f.a f.b s) (packM1 f)

def readHdr (w : BitVec 32) : Hdr :=
  { len := w.extractLsb' 16 10, s := w.getLsbD 15, lcv := w.getLsbD 14, lcn := w.extractLsb' 12 2, count := w.extractLsb' 0 12 }
def packHdr (f : Hdr) : BitVec 32 :=
  place 32 26 0x3F#6 ||| place 32 16 f.len ||| place 32 15 (BitVec.ofBool f.s) ||| place 32 14 (BitVec.ofBool f.lcv)
    ||| place 32 12 f.lcn ||| place 32 0 f.count

def readC (h : BitVec 16) : C16 := { x := h.extractLsb' 5 5, y := h.extractLsb' 0 5 }
def packC (k : BitVec 6) (f : C16) : BitVec 16 :=
  place 16 10 k ||| place 16 5 f.x ||| place 16 0 f.y
def compactCop (h : BitVec 16) : Nat := (h.extractLsb' 10 6).toNat

def readStepData (w : BitVec 64) : StepDataF :=
  { is := w.getLsbD 4, pk := w.extractLsb' 5 11, ck := w.extractLsb' 16 11, cm := w.extractLsb' 27 2, sb := w.extractLsb' 29 2,
    db := w.extractLsb' 31 2, sf := w.getLsbD 33, lr := w.getLsbD 34, wd := w.getLsbD 35, ns := w.getLsbD 36,
    fw := w.getLsbD 37, iw := w.getLsbD 38, tr := w.getLsbD 39 }
def packStepData (o : BitVec 4) (f : StepDataF) : BitVec 64 :=
  place 64 39 (BitVec.ofBool f.tr) ||| place 64 38 (BitVec.ofBool f.iw) ||| place 64 37 (BitVec.ofBool f.fw) ||| place 64 36 (BitVec.ofBool f.ns)
    ||| place 64 35 (BitVec.ofBool f.wd) ||| place 64 34 (BitVec.ofBool f.lr) ||| place 64 33 (BitVec.ofBool f.sf) ||| place 64 31 f.db
    ||| place 64 29 f.sb ||| place 64 27 f.cm ||| place 64 16 f.ck ||| place 64 5 f.pk
    ||| place 64 4 (BitVec.ofBool f.is) ||| place 64 0 o
def readStepWait (w : BitVec 64) : StepWaitF := { cnt := w.extractLsb' 4 14, rb := w.getLsbD 18, thr := w.extractLsb' 19 32 }
def packStepWait (f : StepWaitF) : BitVec 64 :=
  place 64 19 f.thr ||| place 64 18 (BitVec.ofBool f.rb) ||| place 64 4 f.cnt ||| place 64 0 4#4
def readStepLoop (w : BitVec 64) : StepLoopF := { count := w.extractLsb' 4 16, nr := w.getLsbD 20, len := w.extractLsb' 21 10 }
def packStepLoop (f : StepLoopF) : BitVec 64 :=
  place 64 21 f.len ||| place 64 20 (BitVec.ofBool f.nr) ||| place 64 4 f.count ||| place 64 0 5#4

/-! ## The class maps

The maps build instructions of more constructors than compiled code has tags for, so these definitions carry no
compiled code; the kernel evaluates them. -/
noncomputable section

/-- Major 0x20 of the map of selectControl. -/
def selectControl20 (g : Nat) (w : BitVec 32) : Option Instr :=
  match g with
  | 0 => some (.add (readTri w))
  | 1 => some (.sub (readTri w))
  | 2 => some (.and (readTri w))
  | 3 => some (.or (readTri w))
  | 4 => some (.xor (readTri w))
  | 5 => some (.andn (readTri w))
  | 6 => some (.sll (readTri w))
  | 7 => some (.srl (readTri w))
  | 8 => some (.sra (readTri w))
  | 16 => some (.mul (readTri w))
  | 17 => some (.mulh (readTri w))
  | 18 => some (.mulhn (readTri w))
  | 19 => some (.div (readTri w))
  | 20 => some (.divn (readTri w))
  | 21 => some (.rem (readTri w))
  | 22 => some (.remn (readTri w))
  | 24 => some (.min (readTri w))
  | 25 => some (.max (readTri w))
  | 26 => some (.minn (readTri w))
  | 27 => some (.maxn (readTri w))
  | 32 => some (.slt (readTri w))
  | 33 => some (.sltn (readTri w))
  | 34 => some (.seq (readTri w))
  | 35 => some (.sne (readTri w))
  | 36 => some (.sel (readTri w))
  | 40 => some (.clz (readTri w))
  | 41 => some (.ctz (readTri w))
  | 42 => some (.popc (readTri w))
  | 43 => some (.sext (readTri w))
  | 44 => some (.zext (readTri w))
  | 45 => some (.bswap (readTri w))
  | _ => none

/-- Major 0x25 of the map of selectControl. -/
def selectControl25 (g : Nat) (w : BitVec 32) : Option Instr :=
  match g with
  | 0 => some (.slli (readShift w))
  | 1 => some (.srli (readShift w))
  | 2 => some (.srai (readShift w))
  | _ => none

/-- Major 0x30 of the map of selectControl. -/
def selectControl30 (g : Nat) (w : BitVec 32) : Option Instr :=
  match g with
  | 0 => some (.bz (readBraZ w))
  | 1 => some (.bnz (readBraZ w))
  | 2 => some (.bfull (readBraZ w))
  | 3 => some (.bempty (readBraZ w))
  | _ => none

/-- Major 0x33 of the map of selectControl. -/
def selectControl33 (g : Nat) (w : BitVec 32) : Option Instr :=
  match g with
  | 0 => some (.jr (readTri w))
  | 1 => some (.jalr (readTri w))
  | _ => none

/-- Major 0x34 of the map of selectControl. -/
def selectControl34 (g : Nat) (w : BitVec 32) : Option Instr :=
  match g with
  | 0 => some (.ldb (readMem w))
  | 1 => some (.ldbz (readMem w))
  | 2 => some (.ldh (readMem w))
  | 3 => some (.ldhz (readMem w))
  | 4 => some (.ldw (readMem w))
  | 5 => some (.ldwz (readMem w))
  | 6 => some (.ldd (readMem w))
  | 7 => some (.fill (readMem w))
  | _ => none

/-- Major 0x35 of the map of selectControl. -/
def selectControl35 (g : Nat) (w : BitVec 32) : Option Instr :=
  match g with
  | 0 => some (.stb (readMem w))
  | 1 => some (.sth (readMem w))
  | 2 => some (.stw (readMem w))
  | 3 => some (.std (readMem w))
  | 4 => some (.spill (readMem w))
  | _ => none

/-- Major 0x36 of the map of selectControl. -/
def selectControl36 (g : Nat) (w : BitVec 32) : Option Instr :=
  match g with
  | 0 => some (.amoadd (readTri w))
  | 1 => some (.amoand (readTri w))
  | 2 => some (.amoor (readTri w))
  | 3 => some (.amoxor (readTri w))
  | 4 => some (.amomin (readTri w))
  | 5 => some (.amomax (readTri w))
  | 6 => some (.amominn (readTri w))
  | 7 => some (.amomaxn (readTri w))
  | 8 => some (.amoswap (readTri w))
  | 9 => some (.amocas (readTri w))
  | 16 => some (.amoaddI32 (readTri w))
  | 17 => some (.amoandI32 (readTri w))
  | 18 => some (.amoorI32 (readTri w))
  | 19 => some (.amoxorI32 (readTri w))
  | 20 => some (.amominI32 (readTri w))
  | 21 => some (.amomaxI32 (readTri w))
  | 22 => some (.amominnN32 (readTri w))
  | 23 => some (.amomaxnN32 (readTri w))
  | 24 => some (.amoswapI32 (readTri w))
  | 25 => some (.amocasI32 (readTri w))
  | 26 => some (.amofaddF32 (readTri w))
  | _ => none

/-- Major 0x37 of the map of selectControl. -/
def selectControl37 (g : Nat) (w : BitVec 32) : Option Instr :=
  match g with
  | 0 => some (.acq (readTri w))
  | 1 => some (.acqt (readTri w))
  | 2 => some (.rel (readTri w))
  | 3 => some (.bind (readTri w))
  | 4 => some (.unbind (readTri w))
  | 5 => some (.publish (readTri w))
  | 6 => some .fence
  | 7 => some .fenceRf
  | 8 => some (.bar (readTri w))
  | 9 => some (.flagw (readTri w))
  | 10 => some (.flags (readTri w))
  | 11 => some (.flagc (readTri w))
  | _ => none

/-- Major 0x39 of the map of selectControl. -/
def selectControl39 (g : Nat) (w : BitVec 32) : Option Instr :=
  match g with
  | 0 => some .nop
  | 1 => some (.sysrd (readTri w))
  | 2 => some (.syswr (readTri w))
  | 3 => some (.trap (readTri w))
  | 4 => some (.reti (readTri w))
  | 5 => some .mpret
  | 6 => some .wfe
  | 7 => some .halt
  | 8 => some (.rdcc (readTri w))
  | 9 => some (.rdwork (readTri w))
  | 10 => some .etrig
  | 11 => some .tdone
  | 12 => some .mark
  | _ => none

/-- Major 0x3A of the map of selectControl. -/
def selectControl3A (g : Nat) (w x : BitVec 32) : Option Instr :=
  match g with
  | 0 => some (.cinc (readCmd w x))
  | 1 => some (.cset (readCmd w x))
  | 2 => some (.cadd (readCmd w x))
  | 3 => some (.cread (readCmd w x))
  | 4 => some (.cwait (readCmd w x))
  | 8 => some (.arm (readCmd w x))
  | 9 => some (.disarm (readCmd w x))
  | 10 => some (.armq (readCmd w x))
  | 11 => some (.trig (readCmd w x))
  | 16 => some (.kick (readCmd w x))
  | 17 => some (.launch (readCmd w x))
  | 18 =>
      let f := readCmd w x
      some (if f.imm.getLsbD 0 then .patchM f else .patch f)
  | 19 =>
      let f := readCmd w x
      some (match (f.imm.extractLsb' 0 2).toNat with
        | 0 => .qctlTickets f
        | 1 => .qctlFlush f
        | 2 => .qctlPreempt f
        | _ => .qctlRead f)
  | 24 => some (.coll (readCmd w x))
  | 25 => some (.collabort (readCmd w x))
  | _ => none

/-- Major 0x3B of the map of selectControl. -/
def selectControl3B (g : Nat) (w x : BitVec 32) : Option Instr :=
  match g with
  | 0 => some (.usend (readCmd w x))
  | 1 => some (.uputRma (readCmd w x))
  | 2 => some (.mrecv (readCmd w x))
  | 3 => some (.mpoll (readCmd w x))
  | 4 => some (.mreply (readCmd w x))
  | 5 => some (.mdone (readCmd w x))
  | _ => none

/-- Major 0x3C of the map of selectControl. -/
def selectControl3C (g : Nat) (w x : BitVec 32) : Option Instr :=
  match g with
  | 0 =>
      let f := readCmd w x
      some (match (kindBits f.imm).toNat with
        | 1 => .mapTensor f
        | 2 => .mapChunk f
        | _ => .mapVa f)
  | 1 =>
      let f := readCmd w x
      some (match (kindBits f.imm).toNat with
        | 1 => .unmapTensor f
        | 2 => .unmapChunk f
        | _ => .unmapVa f)
  | 2 => some (.lease (readCmd w x))
  | 3 => some (.sdown (readCmd w x))
  | 8 => some (.snap (readCmd w x))
  | 9 =>
      let f := readCmd w x
      some (match (kindBits f.imm).toNat with
        | 0 => .muster f
        | 1 => .musterRelease f
        | 2 => .musterHamper f
        | _ => .musterRestore f)
  | 10 => some (.rollcall (readCmd w x))
  | 11 =>
      let f := readCmd w x
      some (match (kindBits f.imm).toNat with
        | 1 => .rstepCount f
        | 2 => .rstepOpen f
        | _ => .rstepWindow f)
  | 12 =>
      let f := readCmd w x
      some (if f.imm.getLsbD 0 then .mpsetVec f else .mpsetPoint f)
  | _ => none

/-- The control-class map (R322, R323, R325). -/
def selectControl (m : Nat) (w x : BitVec 32) : Option Instr :=
  match m with
  | 0x20 => selectControl20 (wordFunc w) w
  | 0x21 => some (.addi (readImmS w))
  | 0x22 => some (.andi (readImmS w))
  | 0x23 => some (.ori (readImmS w))
  | 0x24 => some (.xori (readImmS w))
  | 0x25 => selectControl25 (shiftKind w) w
  | 0x26 => some (.slti (readImmS w))
  | 0x27 => some (.sltni (readImmS w))
  | 0x28 => some (.li (readImmW w))
  | 0x29 => some (.lih (readImmW w))
  | 0x2A => some (.beq (readBraS w))
  | 0x2B => some (.bne (readBraS w))
  | 0x2C => some (.blt (readBraS w))
  | 0x2D => some (.bge (readBraS w))
  | 0x2E => some (.bltn (readBraS w))
  | 0x2F => some (.bgen (readBraS w))
  | 0x30 => selectControl30 (wordB w) w
  | 0x31 => some (.j (readBraL w))
  | 0x32 => some (.jal (readBraL w))
  | 0x33 => selectControl33 (wordFunc w) w
  | 0x34 => selectControl34 (memOp w) w
  | 0x35 => selectControl35 (memOp w) w
  | 0x36 => selectControl36 (wordFunc w) w
  | 0x37 => selectControl37 (wordFunc w) w
  | 0x38 => some (.disp (readCmd w x) (w.extractLsb' 0 8))
  | 0x39 => selectControl39 (wordFunc w) w
  | 0x3A => selectControl3A (wordSub w) w x
  | 0x3B => selectControl3B (wordSub w) w x
  | 0x3C => selectControl3C (wordSub w) w x
  | 0x3F => some (.blockHeader (readHdr w))
  | _ => none

/-- Major 0x20 of the map of selectAccess. -/
def selectAccess20 (g : Nat) (w : BitVec 32) : Option Instr :=
  match g with
  | 0 => some (.aadd (readTri w))
  | 1 => some (.asub (readTri w))
  | 2 => some (.amul (readTri w))
  | 3 => some (.ashl (readTri w))
  | 4 => some (.ashr (readTri w))
  | 5 => some (.aand (readTri w))
  | 6 => some (.amov (readTri w))
  | _ => none

/-- Major 0x23 of the map of selectAccess. -/
def selectAccess23 (g : Nat) (w : BitVec 32) : Option Instr :=
  match g with
  | 0 => some (.lq (readMem w))
  | 1 => some (.lqb (readMem w))
  | 2 => some (.sq (readMem w))
  | 3 => some (.sqs (readMem w))
  | _ => none

/-- Major 0x24 of the map of selectAccess. -/
def selectAccess24 (g : Nat) (w : BitVec 32) : Option Instr :=
  match g with
  | 0 => some (.lqg (readTri w))
  | _ => none

/-- Major 0x25 of the map of selectAccess. -/
def selectAccess25 (g : Nat) (w x : BitVec 32) : Option Instr :=
  match g with
  | 0 => some (.lqt (readCmd w x))
  | 1 => some (.sqt (readCmd w x))
  | _ => none

/-- Major 0x26 of the map of selectAccess. -/
def selectAccess26 (g : Nat) (w x : BitVec 32) : Option Instr :=
  match g with
  | 0 => some (.tcopy (readCmd w x))
  | 1 => some (.tgather (readCmd w x))
  | 2 => some (.tscatter (readCmd w x))
  | 3 => some (.tfill (readCmd w x))
  | _ => none

/-- Major 0x27 of the map of selectAccess. -/
def selectAccess27 (g : Nat) (w x : BitVec 32) : Option Instr :=
  match g with
  | 0 => some (.rst (readCmd w x))
  | 1 => some (.rstTk (readCmd w x))
  | 2 => some (.racc (readCmd w x))
  | _ => none

/-- Major 0x28 of the map of selectAccess. -/
def selectAccess28 (g : Nat) (w : BitVec 32) : Option Instr :=
  match g with
  | 0 => some (.xwait (readTri w))
  | 1 => some (.sbq (readTri w))
  | 2 => some (.qflush (readTri w))
  | 3 => some (.qmark (readTri w))
  | _ => none

/-- The access-class map (R326). -/
def selectAccess (m : Nat) (w x : BitVec 32) : Option Instr :=
  match m with
  | 0x20 => selectAccess20 (wordFunc w) w
  | 0x21 => some (.aaddi (readImmS w))
  | 0x22 => some (.ali (readImmW w))
  | 0x23 => selectAccess23 (memOp w) w
  | 0x24 => selectAccess24 (wordFunc w) w
  | 0x25 => selectAccess25 (wordSub w) w x
  | 0x26 => selectAccess26 (wordSub w) w x
  | 0x27 => selectAccess27 (wordSub w) w x
  | 0x28 => selectAccess28 (wordFunc w) w
  | 0x3F => some (.blockHeader (readHdr w))
  | _ => none

/-- Major 0x20 of the map of selectVector. -/
def selectVector20 (g : Nat) (w x : BitVec 32) : Option Instr :=
  match g with
  | 0 => some (.vadd (readV w x))
  | 1 => some (.vsub (readV w x))
  | 2 => some (.vmul (readV w x))
  | 3 => some (.vfma (readV w x))
  | 4 => some (.vfms (readV w x))
  | 5 => some (.vfnma (readV w x))
  | 6 => some (.vmax (readV w x))
  | 7 => some (.vmin (readV w x))
  | 8 => some (.vabs (readV w x))
  | 9 => some (.vneg (readV w x))
  | 10 => some (.vrcp (readV w x))
  | 11 => some (.vrsqrt (readV w x))
  | 12 => some (.vsqrt (readV w x))
  | 13 => some (.vexp2 (readV w x))
  | 14 => some (.vlog2 (readV w x))
  | 15 => some (.vdiv (readV w x))
  | _ => none

/-- Major 0x21 of the map of selectVector. -/
def selectVector21 (g : Nat) (w x : BitVec 32) : Option Instr :=
  match g with
  | 0 => some (.vaddi (readV w x))
  | 1 => some (.vsubi (readV w x))
  | 2 => some (.vmuli (readV w x))
  | 3 => some (.vand (readV w x))
  | 4 => some (.vor (readV w x))
  | 5 => some (.vxor (readV w x))
  | 6 => some (.vnot (readV w x))
  | 7 => some (.vshl (readV w x))
  | 8 => some (.vshr (readV w x))
  | 9 => some (.vsra (readV w x))
  | 10 => some (.vmaxi (readV w x))
  | 11 => some (.vmini (readV w x))
  | _ => none

/-- Major 0x22 of the map of selectVector. -/
def selectVector22 (g : Nat) (w x : BitVec 32) : Option Instr :=
  match g with
  | 0 => some (.vcmp (readV w x))
  | 1 => some (.vsel (readV w x))
  | 2 => some (.vmov (readV w x))
  | 3 => some (.vbcast (readV w x))
  | 4 => some (.vins (readV w x))
  | 5 => some (.vext (readV w x))
  | 6 => some (.vperm (readV w x))
  | 7 => some (.vshuf (readV w x))
  | 8 => some (.vrot (readV w x))
  | _ => none

/-- Major 0x23 of the map of selectVector. -/
def selectVector23 (g : Nat) (w x : BitVec 32) : Option Instr :=
  match g with
  | 0 => some (.vred (readV w x))
  | 1 => some (.vscan (readV w x))
  | 8 => some (.vcvt (readV w x))
  | 9 => some (.vquant (readV w x))
  | 10 => some (.vdequant (readV w x))
  | 11 => some (.vscale (readV w x))
  | _ => none

/-- Major 0x24 of the map of selectVector. -/
def selectVector24 (g : Nat) (w x : BitVec 32) : Option Instr :=
  match g with
  | 0 => some (.cpush (readV w x))
  | 1 => some (.cpop (readV w x))
  | 2 => some (.cbal (readV w x))
  | _ => none

/-- Major 0x25 of the map of selectVector. -/
def selectVector25 (g : Nat) (w x : BitVec 32) : Option Instr :=
  match g with
  | 0 => some (.kand (readV w x))
  | 1 => some (.kor (readV w x))
  | 2 => some (.kxor (readV w x))
  | 3 => some (.knot (readV w x))
  | 4 => some (.kpop (readV w x))
  | 5 => some (.kmov (readV w x))
  | _ => none

/-- Major 0x26 of the map of selectVector. -/
def selectVector26 (g : Nat) (w x : BitVec 32) : Option Instr :=
  match g with
  | 0 => some (.vpop (readV w x))
  | 1 => some (.vpush (readV w x))
  | _ => none

/-- The vector-class map (R328). -/
def selectVector (m : Nat) (w x : BitVec 32) : Option Instr :=
  match m with
  | 0x20 => selectVector20 (wordSub w) w x
  | 0x21 => selectVector21 (wordSub w) w x
  | 0x22 => selectVector22 (wordSub w) w x
  | 0x23 => selectVector23 (wordSub w) w x
  | 0x24 => selectVector24 (wordSub w) w x
  | 0x25 => selectVector25 (wordSub w) w x
  | 0x26 => selectVector26 (wordSub w) w x
  | 0x3F => some (.blockHeader (readHdr w))
  | _ => none

/-- Major 0x20 of the map of selectMatrix. -/
def selectMatrix20 (g : Nat) (w x : BitVec 32) : Option Instr :=
  match g with
  | 0 => some (.mnop (readM w x))
  | 1 =>
      let f := readM w x
      some (if f.d == 0 then .mstamp f else .mstampAl f)
  | 2 => some (.mmode (readM w x))
  | 3 => some (.mwait (readM w x))
  | 4 =>
      let f := readM w x
      some (if f.d.toNat < 2 then .mtscale f else .mtscaleQ f)
  | 5 => some (.mnstat (readM w x))
  | 6 => some (.mroute (readM w x))
  | _ => none

/-- Major 0x21 of the map of selectMatrix. -/
def selectMatrix21 (g : Nat) (w x : BitVec 32) : Option Instr :=
  match g with
  | 0 => some (.mwld (readM w x))
  | 1 => some (.mwsel (readM w x))
  | _ => none

/-- Major 0x22 of the map of selectMatrix. -/
def selectMatrix22 (g : Nat) (w x : BitVec 32) : Option Instr :=
  match g with
  | 0 => some (.mma (readM w x))
  | 1 => some (.mmaz (readM w x))
  | 2 => some (.mhad (readM w x))
  | 3 => some (.mquant (readM w x))
  | _ => none

/-- Major 0x23 of the map of selectMatrix. -/
def selectMatrix23 (g : Nat) (w x : BitVec 32) : Option Instr :=
  match g with
  | 0 => some (.mdrain (readM w x))
  | 1 => some (.maccld (readM w x))
  | 2 => some (.maccst (readM w x))
  | 3 => some (.mzero (readM w x))
  | _ => none

/-- The matrix-class map (R329). -/
def selectMatrix (m : Nat) (w x : BitVec 32) : Option Instr :=
  match m with
  | 0x20 => selectMatrix20 (wordSub w) w x
  | 0x21 => selectMatrix21 (wordSub w) w x
  | 0x22 => selectMatrix22 (wordSub w) w x
  | 0x23 => selectMatrix23 (wordSub w) w x
  | 0x3F => some (.blockHeader (readHdr w))
  | _ => none

/-- The compact maps (R327); the matrix class reads dt from x[2:0] and y. -/
def selectCompact (c : Class) (k : Nat) (h : BitVec 16) : Option Instr :=
  match c, k with
  | .matrix, 0 => some (.mnopC { dt := h.extractLsb' 0 8 })
  | .matrix, _ => none
  | _, 0 => some .nopC
  | .vector, 1 => some (.vmovC (readC h))
  | .vector, _ => none
  | .access, 1 => some (.aaddC (readC h))
  | .access, 2 => some (.aaddiC (readC h))
  | .access, 3 => some (.amovC (readC h))
  | .access, _ => none
  | _, 1 => some (.addC (readC h))
  | _, 2 => some (.subC (readC h))
  | _, 3 => some (.andC (readC h))
  | _, 4 => some (.orC (readC h))
  | _, 5 => some (.xorC (readC h))
  | _, 6 => some (.addiC (readC h))
  | _, 7 => some (.slliC (readC h))
  | _, 8 => some (.srliC (readC h))
  | _, 9 => some (.sraiC (readC h))
  | _, 10 => some (.liC (readC h))
  | _, 11 => some (.addS0C (readC h))
  | _, 12 => some (.lddC (readC h))
  | _, 13 => some (.stdC (readC h))
  | _, _ => none

/-- The step words of a collective program (R160, R161). -/
def selectStep (o : Nat) (w : BitVec 64) : Option Instr :=
  match o with
  | 0 => some (.stepSend (readStepData w))
  | 1 => some (.stepRecv (readStepData w))
  | 2 => some (.stepRrs (readStepData w))
  | 3 => some (.stepCopy (readStepData w))
  | 4 => some (.stepWait (readStepWait w))
  | 5 => some (.stepLoop (readStepLoop w))
  | 6 => some .stepEnd
  | _ => none

/-- The map of a class. -/
def select (c : Class) (w x : BitVec 32) : Option Instr :=
  match c with
  | .control | .ferry => selectControl (wordMajor w) w x
  | .access => selectAccess (wordMajor w) w x
  | .vector => selectVector (wordMajor w) w x
  | .matrix => selectMatrix (wordMajor w) w x

end

/-! ## Encoding -/

/-- The words of an instruction; an event has none. -/
def Instr.code : Instr → Code
  | .packageReset => .none
  | .resetNRelease _ => .none
  | .thermalHot _ _ => .none
  | .thermtrip _ => .none
  | .powerPeriodEnd _ => .none
  | .pkgLimitWrite _ => .none
  | .lifetimeRewrite _ => .none
  | .attestationRequest _ => .none
  | .attestationReportSigned => .none
  | .setdasa _ _ => .none
  | .entdaa _ => .none
  | .flitReceive _ _ => .none
  | .nakReceive _ _ => .none
  | .nakResendTimeout _ => .none
  | .goBackTimeout _ => .none
  | .nakExhausted _ => .none
  | .lossOfSignal _ => .none
  | .trainingAttempt _ => .none
  | .trainingEnd _ _ => .none
  | .lendPeriodEnd _ => .none
  | .lendReceive _ _ => .none
  | .packetForward _ => .none
  | .rstPacket _ => .none
  | .raccPacket _ => .none
  | .msgPacket _ => .none
  | .redPacket _ => .none
  | .ackPacket _ => .none
  | .tkqPacket _ => .none
  | .tkaPacket _ => .none
  | .tkqRetry _ _ => .none
  | .tokenExpiry _ => .none
  | .holdQueueFull _ => .none
  | .tokenTableFull => .none
  | .sdownPacket _ => .none
  | .sdackPacket _ => .none
  | .sdownNodeTimeout _ => .none
  | .shootdownRootTimeout _ => .none
  | .leaseWaitExpiry _ => .none
  | .fencePacket _ => .none
  | .fenceClrPacket _ => .none
  | .pathrstPacket _ => .none
  | .ctsNotice _ => .none
  | .acceptNotice _ => .none
  | .repeatNotice _ => .none
  | .stepokNotice _ => .none
  | .abortNotice _ => .none
  | .decideNotice _ => .none
  | .reportNotice _ => .none
  | .alldoneNotice _ => .none
  | .musterNotice _ => .none
  | .taggedSendArrival _ => .none
  | .rmaWriteArrival _ => .none
  | .continuationPacket _ _ _ => .none
  | .deliveryContextFailure _ => .none
  | .uudPacket _ => .none
  | .uetDelivery _ _ => .none
  | .hostApertureWrite _ _ _ => .none
  | .doorbell _ _ _ => .none
  | .hostUnsupportedRead _ => .none
  | .bar0Access _ _ _ => .none
  | .arrivalMatch => .none
  | .depositCompletion _ => .none
  | .windowDelivery => .none
  | .engineSignal => .none
  | .counterRegisterWrite _ _ => .none
  | .actionLaunch => .none
  | .actionCopy => .none
  | .actionSend => .none
  | .actionRst => .none
  | .actionInc => .none
  | .actionKick => .none
  | .actionThread => .none
  | .actionRel => .none
  | .threadDispatch _ => .none
  | .threadWatchdog _ => .none
  | .acqGrant _ _ => .none
  | .acqTimeout _ _ => .none
  | .fenceRfTimeout _ => .none
  | .publishExchange _ => .none
  | .variableResultWrite _ _ => .none
  | .remoteFlagSignal _ _ => .none
  | .lotteryDraw _ => .none
  | .taskRetire _ => .none
  | .taskRemoval _ => .none
  | .rerunSlotEntry _ => .none
  | .commandQueueTake _ _ => .none
  | .blockComplete _ _ => .none
  | .lockstepEntry _ => .none
  | .matchPointHit _ _ => .none
  | .hangTimeout _ => .none
  | .wfeTimeout _ => .none
  | .scoreboardStallExpiry _ => .none
  | .energyRefill => .none
  | .preemptStop _ _ => .none
  | .preemptTimeout _ => .none
  | .copyPiece _ _ => .none
  | .copyResume _ _ => .none
  | .copyRetire _ _ => .none
  | .pageIn _ _ _ => .none
  | .pageMigration _ => .none
  | .drainComplete _ _ => .none
  | .collectiveStart _ => .none
  | .transferTake _ _ => .none
  | .collLate _ => .none
  | .kickExpand => .none
  | .noticeTake => .none
  | .schedulerTakeover => .none
  | .schedulerStop => .none
  | .saveAreaLost _ _ => .none
  | .musterDrained _ => .none
  | .undoBlockMove _ => .none
  | .replayInputInject _ => .none
  | .preciseStopReached _ => .none
  | .snapshotLatch => .none
  | .traceSample _ => .none
  | .contextCreate _ => .none
  | .contextDestroy _ => .none
  | .straitGeomWrite _ => .none
  | .windowEntryWrite _ _ _ => .none
  | .txdstWrite _ _ => .none
  | .xlatCtlWrite _ => .none
  | .townWrite _ _ => .none
  | .cengOwnWrite _ _ => .none
  | .itinWrite _ _ _ => .none
  | .undowinOldestWrite _ _ => .none
  | .replayPlayClear _ => .none
  | .registerWrite _ _ => .none
  | .registerReadClear _ => .none
  | .blockHeader f => .word (packHdr f)
  | .add f => .word (packTri 0x20#6 0x00#6 f)
  | .sub f => .word (packTri 0x20#6 0x01#6 f)
  | .and f => .word (packTri 0x20#6 0x02#6 f)
  | .or f => .word (packTri 0x20#6 0x03#6 f)
  | .xor f => .word (packTri 0x20#6 0x04#6 f)
  | .andn f => .word (packTri 0x20#6 0x05#6 f)
  | .sll f => .word (packTri 0x20#6 0x06#6 f)
  | .srl f => .word (packTri 0x20#6 0x07#6 f)
  | .sra f => .word (packTri 0x20#6 0x08#6 f)
  | .mul f => .word (packTri 0x20#6 0x10#6 f)
  | .mulh f => .word (packTri 0x20#6 0x11#6 f)
  | .mulhn f => .word (packTri 0x20#6 0x12#6 f)
  | .div f => .word (packTri 0x20#6 0x13#6 f)
  | .divn f => .word (packTri 0x20#6 0x14#6 f)
  | .rem f => .word (packTri 0x20#6 0x15#6 f)
  | .remn f => .word (packTri 0x20#6 0x16#6 f)
  | .min f => .word (packTri 0x20#6 0x18#6 f)
  | .max f => .word (packTri 0x20#6 0x19#6 f)
  | .minn f => .word (packTri 0x20#6 0x1A#6 f)
  | .maxn f => .word (packTri 0x20#6 0x1B#6 f)
  | .slt f => .word (packTri 0x20#6 0x20#6 f)
  | .sltn f => .word (packTri 0x20#6 0x21#6 f)
  | .seq f => .word (packTri 0x20#6 0x22#6 f)
  | .sne f => .word (packTri 0x20#6 0x23#6 f)
  | .sel f => .word (packTri 0x20#6 0x24#6 f)
  | .clz f => .word (packTri 0x20#6 0x28#6 f)
  | .ctz f => .word (packTri 0x20#6 0x29#6 f)
  | .popc f => .word (packTri 0x20#6 0x2A#6 f)
  | .sext f => .word (packTri 0x20#6 0x2B#6 f)
  | .zext f => .word (packTri 0x20#6 0x2C#6 f)
  | .bswap f => .word (packTri 0x20#6 0x2D#6 f)
  | .addi f => .word (packImmS 0x21#6 f)
  | .andi f => .word (packImmS 0x22#6 f)
  | .ori f => .word (packImmS 0x23#6 f)
  | .xori f => .word (packImmS 0x24#6 f)
  | .slli f => .word (packShift 0 f)
  | .srli f => .word (packShift 1 f)
  | .srai f => .word (packShift 2 f)
  | .slti f => .word (packImmS 0x26#6 f)
  | .sltni f => .word (packImmS 0x27#6 f)
  | .li f => .word (packImmW 0x28#6 f)
  | .lih f => .word (packImmW 0x29#6 f)
  | .beq f => .word (packBraS 0x2A#6 f)
  | .bne f => .word (packBraS 0x2B#6 f)
  | .blt f => .word (packBraS 0x2C#6 f)
  | .bge f => .word (packBraS 0x2D#6 f)
  | .bltn f => .word (packBraS 0x2E#6 f)
  | .bgen f => .word (packBraS 0x2F#6 f)
  | .bz f => .word (packBraZ 0 f)
  | .bnz f => .word (packBraZ 1 f)
  | .bfull f => .word (packBraZ 2 f)
  | .bempty f => .word (packBraZ 3 f)
  | .j f => .word (packBraL 0x31#6 f)
  | .jal f => .word (packBraL 0x32#6 f)
  | .jr f => .word (packTri 0x33#6 0x00#6 f)
  | .jalr f => .word (packTri 0x33#6 0x01#6 f)
  | .ldb f => .word (packMem 0x34#6 0 f)
  | .ldbz f => .word (packMem 0x34#6 1 f)
  | .ldh f => .word (packMem 0x34#6 2 f)
  | .ldhz f => .word (packMem 0x34#6 3 f)
  | .ldw f => .word (packMem 0x34#6 4 f)
  | .ldwz f => .word (packMem 0x34#6 5 f)
  | .ldd f => .word (packMem 0x34#6 6 f)
  | .fill f => .word (packMem 0x34#6 7 f)
  | .stb f => .word (packMem 0x35#6 0 f)
  | .sth f => .word (packMem 0x35#6 1 f)
  | .stw f => .word (packMem 0x35#6 2 f)
  | .std f => .word (packMem 0x35#6 3 f)
  | .spill f => .word (packMem 0x35#6 4 f)
  | .amoadd f => .word (packTri 0x36#6 0x00#6 f)
  | .amoand f => .word (packTri 0x36#6 0x01#6 f)
  | .amoor f => .word (packTri 0x36#6 0x02#6 f)
  | .amoxor f => .word (packTri 0x36#6 0x03#6 f)
  | .amomin f => .word (packTri 0x36#6 0x04#6 f)
  | .amomax f => .word (packTri 0x36#6 0x05#6 f)
  | .amominn f => .word (packTri 0x36#6 0x06#6 f)
  | .amomaxn f => .word (packTri 0x36#6 0x07#6 f)
  | .amoswap f => .word (packTri 0x36#6 0x08#6 f)
  | .amocas f => .word (packTri 0x36#6 0x09#6 f)
  | .amoaddI32 f => .word (packTri 0x36#6 0x10#6 f)
  | .amoandI32 f => .word (packTri 0x36#6 0x11#6 f)
  | .amoorI32 f => .word (packTri 0x36#6 0x12#6 f)
  | .amoxorI32 f => .word (packTri 0x36#6 0x13#6 f)
  | .amominI32 f => .word (packTri 0x36#6 0x14#6 f)
  | .amomaxI32 f => .word (packTri 0x36#6 0x15#6 f)
  | .amominnN32 f => .word (packTri 0x36#6 0x16#6 f)
  | .amomaxnN32 f => .word (packTri 0x36#6 0x17#6 f)
  | .amoswapI32 f => .word (packTri 0x36#6 0x18#6 f)
  | .amocasI32 f => .word (packTri 0x36#6 0x19#6 f)
  | .amofaddF32 f => .word (packTri 0x36#6 0x1A#6 f)
  | .acq f => .word (packTri 0x37#6 0x00#6 f)
  | .acqt f => .word (packTri 0x37#6 0x01#6 f)
  | .rel f => .word (packTri 0x37#6 0x02#6 f)
  | .bind f => .word (packTri 0x37#6 0x03#6 f)
  | .unbind f => .word (packTri 0x37#6 0x04#6 f)
  | .publish f => .word (packTri 0x37#6 0x05#6 f)
  | .fence => .word 0xDC000006
  | .fenceRf => .word 0xDC000007
  | .bar f => .word (packTri 0x37#6 0x08#6 f)
  | .flagw f => .word (packTri 0x37#6 0x09#6 f)
  | .flags f => .word (packTri 0x37#6 0x0A#6 f)
  | .flagc f => .word (packTri 0x37#6 0x0B#6 f)
  | .disp f q => packCmd 0x38 q f
  | .nop => .word 0xE4000000
  | .sysrd f => .word (packTri 0x39#6 0x01#6 f)
  | .syswr f => .word (packTri 0x39#6 0x02#6 f)
  | .trap f => .word (packTri 0x39#6 0x03#6 f)
  | .reti f => .word (packTri 0x39#6 0x04#6 f)
  | .mpret => .word 0xE4000005
  | .wfe => .word 0xE4000006
  | .halt => .word 0xE4000007
  | .rdcc f => .word (packTri 0x39#6 0x08#6 f)
  | .rdwork f => .word (packTri 0x39#6 0x09#6 f)
  | .etrig => .word 0xE400000A
  | .tdone => .word 0xE400000B
  | .mark => .word 0xE400000C
  | .nopC => .half 0
  | .addC f => .half (packC 0x01#6 f)
  | .subC f => .half (packC 0x02#6 f)
  | .andC f => .half (packC 0x03#6 f)
  | .orC f => .half (packC 0x04#6 f)
  | .xorC f => .half (packC 0x05#6 f)
  | .addiC f => .half (packC 0x06#6 f)
  | .slliC f => .half (packC 0x07#6 f)
  | .srliC f => .half (packC 0x08#6 f)
  | .sraiC f => .half (packC 0x09#6 f)
  | .liC f => .half (packC 0x0A#6 f)
  | .addS0C f => .half (packC 0x0B#6 f)
  | .lddC f => .half (packC 0x0C#6 f)
  | .stdC f => .half (packC 0x0D#6 f)
  | .aadd f => .word (packTri 0x20#6 0x00#6 f)
  | .asub f => .word (packTri 0x20#6 0x01#6 f)
  | .amul f => .word (packTri 0x20#6 0x02#6 f)
  | .ashl f => .word (packTri 0x20#6 0x03#6 f)
  | .ashr f => .word (packTri 0x20#6 0x04#6 f)
  | .aand f => .word (packTri 0x20#6 0x05#6 f)
  | .amov f => .word (packTri 0x20#6 0x06#6 f)
  | .aaddi f => .word (packImmS 0x21#6 f)
  | .ali f => .word (packImmW 0x22#6 f)
  | .aaddC f => .half (packC 0x01#6 f)
  | .aaddiC f => .half (packC 0x02#6 f)
  | .amovC f => .half (packC 0x03#6 f)
  | .lq f => .word (packMem 0x23#6 0 f)
  | .lqb f => .word (packMem 0x23#6 1 f)
  | .sq f => .word (packMem 0x23#6 2 f)
  | .sqs f => .word (packMem 0x23#6 3 f)
  | .lqg f => .word (packTri 0x24#6 0x00#6 f)
  | .lqt f => packCmd 0x25#6 0x00#8 f
  | .sqt f => packCmd 0x25#6 0x01#8 f
  | .tcopy f => packCmd 0x26#6 0x00#8 f
  | .tgather f => packCmd 0x26#6 0x01#8 f
  | .tscatter f => packCmd 0x26#6 0x02#8 f
  | .tfill f => packCmd 0x26#6 0x03#8 f
  | .rst f => packCmd 0x27#6 0x00#8 f
  | .rstTk f => packCmd 0x27#6 0x01#8 f
  | .racc f => packCmd 0x27#6 0x02#8 f
  | .xwait f => .word (packTri 0x28#6 0x00#6 f)
  | .sbq f => .word (packTri 0x28#6 0x01#6 f)
  | .qflush f => .word (packTri 0x28#6 0x02#6 f)
  | .qmark f => .word (packTri 0x28#6 0x03#6 f)
  | .vadd f => packV 0x20#6 0x00#8 f
  | .vsub f => packV 0x20#6 0x01#8 f
  | .vmul f => packV 0x20#6 0x02#8 f
  | .vfma f => packV 0x20#6 0x03#8 f
  | .vfms f => packV 0x20#6 0x04#8 f
  | .vfnma f => packV 0x20#6 0x05#8 f
  | .vmax f => packV 0x20#6 0x06#8 f
  | .vmin f => packV 0x20#6 0x07#8 f
  | .vabs f => packV 0x20#6 0x08#8 f
  | .vneg f => packV 0x20#6 0x09#8 f
  | .vrcp f => packV 0x20#6 0x0A#8 f
  | .vrsqrt f => packV 0x20#6 0x0B#8 f
  | .vsqrt f => packV 0x20#6 0x0C#8 f
  | .vexp2 f => packV 0x20#6 0x0D#8 f
  | .vlog2 f => packV 0x20#6 0x0E#8 f
  | .vdiv f => packV 0x20#6 0x0F#8 f
  | .vaddi f => packV 0x21#6 0x00#8 f
  | .vsubi f => packV 0x21#6 0x01#8 f
  | .vmuli f => packV 0x21#6 0x02#8 f
  | .vand f => packV 0x21#6 0x03#8 f
  | .vor f => packV 0x21#6 0x04#8 f
  | .vxor f => packV 0x21#6 0x05#8 f
  | .vnot f => packV 0x21#6 0x06#8 f
  | .vshl f => packV 0x21#6 0x07#8 f
  | .vshr f => packV 0x21#6 0x08#8 f
  | .vsra f => packV 0x21#6 0x09#8 f
  | .vmaxi f => packV 0x21#6 0x0A#8 f
  | .vmini f => packV 0x21#6 0x0B#8 f
  | .vcmp f => packV 0x22#6 0x00#8 f
  | .vsel f => packV 0x22#6 0x01#8 f
  | .vmov f => packV 0x22#6 0x02#8 f
  | .vmovC f => .half (packC 0x01#6 f)
  | .vbcast f => packV 0x22#6 0x03#8 f
  | .vins f => packV 0x22#6 0x04#8 f
  | .vext f => packV 0x22#6 0x05#8 f
  | .vperm f => packV 0x22#6 0x06#8 f
  | .vshuf f => packV 0x22#6 0x07#8 f
  | .vrot f => packV 0x22#6 0x08#8 f
  | .vred f => packV 0x23#6 0x00#8 f
  | .vscan f => packV 0x23#6 0x01#8 f
  | .vcvt f => packV 0x23#6 0x08#8 f
  | .vquant f => packV 0x23#6 0x09#8 f
  | .vdequant f => packV 0x23#6 0x0A#8 f
  | .vscale f => packV 0x23#6 0x0B#8 f
  | .cpush f => packV 0x24#6 0x00#8 f
  | .cpop f => packV 0x24#6 0x01#8 f
  | .cbal f => packV 0x24#6 0x02#8 f
  | .kand f => packV 0x25#6 0x00#8 f
  | .kor f => packV 0x25#6 0x01#8 f
  | .kxor f => packV 0x25#6 0x02#8 f
  | .knot f => packV 0x25#6 0x03#8 f
  | .kpop f => packV 0x25#6 0x04#8 f
  | .kmov f => packV 0x25#6 0x05#8 f
  | .vpop f => packV 0x26#6 0x00#8 f
  | .vpush f => packV 0x26#6 0x01#8 f
  | .mnop f => packM 0x20#6 0x00#8 f
  | .mnopC f => .half (0#8 ++ f.dt)
  | .mstamp f => packM 0x20#6 0x01#8 f
  | .mstampAl f => packM 0x20#6 0x01#8 f
  | .mmode f => packM 0x20#6 0x02#8 f
  | .mwait f => packM 0x20#6 0x03#8 f
  | .mtscale f => packM 0x20#6 0x04#8 f
  | .mtscaleQ f => packM 0x20#6 0x04#8 f
  | .mnstat f => packM 0x20#6 0x05#8 f
  | .mroute f => packM 0x20#6 0x06#8 f
  | .mwld f => packM 0x21#6 0x00#8 f
  | .mwsel f => packM 0x21#6 0x01#8 f
  | .mma f => packM 0x22#6 0x00#8 f
  | .mmaz f => packM 0x22#6 0x01#8 f
  | .mhad f => packM 0x22#6 0x02#8 f
  | .mquant f => packM 0x22#6 0x03#8 f
  | .mdrain f => packM 0x23#6 0x00#8 f
  | .maccld f => packM 0x23#6 0x01#8 f
  | .maccst f => packM 0x23#6 0x02#8 f
  | .mzero f => packM 0x23#6 0x03#8 f
  | .cinc f => packCmd 0x3A#6 0x00#8 f
  | .cset f => packCmd 0x3A#6 0x01#8 f
  | .cadd f => packCmd 0x3A#6 0x02#8 f
  | .cread f => packCmd 0x3A#6 0x03#8 f
  | .cwait f => packCmd 0x3A#6 0x04#8 f
  | .arm f => packCmd 0x3A#6 0x08#8 f
  | .disarm f => packCmd 0x3A#6 0x09#8 f
  | .armq f => packCmd 0x3A#6 0x0A#8 f
  | .trig f => packCmd 0x3A#6 0x0B#8 f
  | .kick f => packCmd 0x3A#6 0x10#8 f
  | .launch f => packCmd 0x3A#6 0x11#8 f
  | .patch f => packCmd 0x3A#6 0x12#8 f
  | .patchM f => packCmd 0x3A#6 0x12#8 f
  | .qctlTickets f => packCmd 0x3A#6 0x13#8 f
  | .qctlFlush f => packCmd 0x3A#6 0x13#8 f
  | .qctlPreempt f => packCmd 0x3A#6 0x13#8 f
  | .qctlRead f => packCmd 0x3A#6 0x13#8 f
  | .coll f => packCmd 0x3A#6 0x18#8 f
  | .collabort f => packCmd 0x3A#6 0x19#8 f
  | .usend f => packCmd 0x3B#6 0x00#8 f
  | .uputRma f => packCmd 0x3B#6 0x01#8 f
  | .uputHost f => packCmd 0x3B#6 0x01#8 f
  | .mrecv f => packCmd 0x3B#6 0x02#8 f
  | .mpoll f => packCmd 0x3B#6 0x03#8 f
  | .mreply f => packCmd 0x3B#6 0x04#8 f
  | .mdone f => packCmd 0x3B#6 0x05#8 f
  | .mapVa f => packCmd 0x3C#6 0x00#8 f
  | .mapTensor f => packCmd 0x3C#6 0x00#8 f
  | .mapChunk f => packCmd 0x3C#6 0x00#8 f
  | .unmapVa f => packCmd 0x3C#6 0x01#8 f
  | .unmapTensor f => packCmd 0x3C#6 0x01#8 f
  | .unmapChunk f => packCmd 0x3C#6 0x01#8 f
  | .lease f => packCmd 0x3C#6 0x02#8 f
  | .sdown f => packCmd 0x3C#6 0x03#8 f
  | .snap f => packCmd 0x3C#6 0x08#8 f
  | .muster f => packCmd 0x3C#6 0x09#8 f
  | .musterRelease f => packCmd 0x3C#6 0x09#8 f
  | .musterHamper f => packCmd 0x3C#6 0x09#8 f
  | .musterRestore f => packCmd 0x3C#6 0x09#8 f
  | .rollcall f => packCmd 0x3C#6 0x0A#8 f
  | .rstepWindow f => packCmd 0x3C#6 0x0B#8 f
  | .rstepCount f => packCmd 0x3C#6 0x0B#8 f
  | .rstepOpen f => packCmd 0x3C#6 0x0B#8 f
  | .mpsetPoint f => packCmd 0x3C#6 0x0C#8 f
  | .mpsetVec f => packCmd 0x3C#6 0x0C#8 f
  | .stepSend f => .step (packStepData 0 f)
  | .stepRecv f => .step (packStepData 1 f)
  | .stepRrs f => .step (packStepData 2 f)
  | .stepCopy f => .step (packStepData 3 f)
  | .stepWait f => .step (packStepWait f)
  | .stepLoop f => .step (packStepLoop f)
  | .stepEnd => .step 6
  | .unallocatedEncoding _ => .none
  | .uncorrectableError _ => .none
  | .correctableError _ _ => .none
  | .storePerformed _ => .none
  | .operandQueueFill _ _ => .none
  | .hostWriteAccepted => .none
  | .slotTableUpdate _ => .none
  | .missedHeartbeats _ => .none

/-- The class whose map holds an instruction; a block header stands in the access map as in every other. -/
def Instr.cls : Instr → Class
  | .packageReset => .control
  | .resetNRelease _ => .control
  | .thermalHot _ _ => .control
  | .thermtrip _ => .control
  | .powerPeriodEnd _ => .control
  | .pkgLimitWrite _ => .control
  | .lifetimeRewrite _ => .control
  | .attestationRequest _ => .control
  | .attestationReportSigned => .control
  | .setdasa _ _ => .control
  | .entdaa _ => .control
  | .flitReceive _ _ => .control
  | .nakReceive _ _ => .control
  | .nakResendTimeout _ => .control
  | .goBackTimeout _ => .control
  | .nakExhausted _ => .control
  | .lossOfSignal _ => .control
  | .trainingAttempt _ => .control
  | .trainingEnd _ _ => .control
  | .lendPeriodEnd _ => .control
  | .lendReceive _ _ => .control
  | .packetForward _ => .control
  | .rstPacket _ => .control
  | .raccPacket _ => .control
  | .msgPacket _ => .control
  | .redPacket _ => .control
  | .ackPacket _ => .control
  | .tkqPacket _ => .control
  | .tkaPacket _ => .control
  | .tkqRetry _ _ => .control
  | .tokenExpiry _ => .control
  | .holdQueueFull _ => .control
  | .tokenTableFull => .control
  | .sdownPacket _ => .control
  | .sdackPacket _ => .control
  | .sdownNodeTimeout _ => .control
  | .shootdownRootTimeout _ => .control
  | .leaseWaitExpiry _ => .control
  | .fencePacket _ => .control
  | .fenceClrPacket _ => .control
  | .pathrstPacket _ => .control
  | .ctsNotice _ => .control
  | .acceptNotice _ => .control
  | .repeatNotice _ => .control
  | .stepokNotice _ => .control
  | .abortNotice _ => .control
  | .decideNotice _ => .control
  | .reportNotice _ => .control
  | .alldoneNotice _ => .control
  | .musterNotice _ => .control
  | .taggedSendArrival _ => .control
  | .rmaWriteArrival _ => .control
  | .continuationPacket _ _ _ => .control
  | .deliveryContextFailure _ => .control
  | .uudPacket _ => .control
  | .uetDelivery _ _ => .control
  | .hostApertureWrite _ _ _ => .control
  | .doorbell _ _ _ => .control
  | .hostUnsupportedRead _ => .control
  | .bar0Access _ _ _ => .control
  | .arrivalMatch => .control
  | .depositCompletion _ => .control
  | .windowDelivery => .control
  | .engineSignal => .control
  | .counterRegisterWrite _ _ => .control
  | .actionLaunch => .control
  | .actionCopy => .control
  | .actionSend => .control
  | .actionRst => .control
  | .actionInc => .control
  | .actionKick => .control
  | .actionThread => .control
  | .actionRel => .control
  | .threadDispatch _ => .control
  | .threadWatchdog _ => .control
  | .acqGrant _ _ => .control
  | .acqTimeout _ _ => .control
  | .fenceRfTimeout _ => .control
  | .publishExchange _ => .control
  | .variableResultWrite _ _ => .control
  | .remoteFlagSignal _ _ => .control
  | .lotteryDraw _ => .control
  | .taskRetire _ => .control
  | .taskRemoval _ => .control
  | .rerunSlotEntry _ => .control
  | .commandQueueTake _ _ => .control
  | .blockComplete _ _ => .control
  | .lockstepEntry _ => .control
  | .matchPointHit _ _ => .control
  | .hangTimeout _ => .control
  | .wfeTimeout _ => .control
  | .scoreboardStallExpiry _ => .control
  | .energyRefill => .control
  | .preemptStop _ _ => .control
  | .preemptTimeout _ => .control
  | .copyPiece _ _ => .control
  | .copyResume _ _ => .control
  | .copyRetire _ _ => .control
  | .pageIn _ _ _ => .control
  | .pageMigration _ => .control
  | .drainComplete _ _ => .control
  | .collectiveStart _ => .control
  | .transferTake _ _ => .control
  | .collLate _ => .control
  | .kickExpand => .control
  | .noticeTake => .control
  | .schedulerTakeover => .control
  | .schedulerStop => .control
  | .saveAreaLost _ _ => .control
  | .musterDrained _ => .control
  | .undoBlockMove _ => .control
  | .replayInputInject _ => .control
  | .preciseStopReached _ => .control
  | .snapshotLatch => .control
  | .traceSample _ => .control
  | .contextCreate _ => .control
  | .contextDestroy _ => .control
  | .straitGeomWrite _ => .control
  | .windowEntryWrite _ _ _ => .control
  | .txdstWrite _ _ => .control
  | .xlatCtlWrite _ => .control
  | .townWrite _ _ => .control
  | .cengOwnWrite _ _ => .control
  | .itinWrite _ _ _ => .control
  | .undowinOldestWrite _ _ => .control
  | .replayPlayClear _ => .control
  | .registerWrite _ _ => .control
  | .registerReadClear _ => .control
  | .blockHeader _ => .access
  | .add _ => .control
  | .sub _ => .control
  | .and _ => .control
  | .or _ => .control
  | .xor _ => .control
  | .andn _ => .control
  | .sll _ => .control
  | .srl _ => .control
  | .sra _ => .control
  | .mul _ => .control
  | .mulh _ => .control
  | .mulhn _ => .control
  | .div _ => .control
  | .divn _ => .control
  | .rem _ => .control
  | .remn _ => .control
  | .min _ => .control
  | .max _ => .control
  | .minn _ => .control
  | .maxn _ => .control
  | .slt _ => .control
  | .sltn _ => .control
  | .seq _ => .control
  | .sne _ => .control
  | .sel _ => .control
  | .clz _ => .control
  | .ctz _ => .control
  | .popc _ => .control
  | .sext _ => .control
  | .zext _ => .control
  | .bswap _ => .control
  | .addi _ => .control
  | .andi _ => .control
  | .ori _ => .control
  | .xori _ => .control
  | .slli _ => .control
  | .srli _ => .control
  | .srai _ => .control
  | .slti _ => .control
  | .sltni _ => .control
  | .li _ => .control
  | .lih _ => .control
  | .beq _ => .control
  | .bne _ => .control
  | .blt _ => .control
  | .bge _ => .control
  | .bltn _ => .control
  | .bgen _ => .control
  | .bz _ => .control
  | .bnz _ => .control
  | .bfull _ => .control
  | .bempty _ => .control
  | .j _ => .control
  | .jal _ => .control
  | .jr _ => .control
  | .jalr _ => .control
  | .ldb _ => .control
  | .ldbz _ => .control
  | .ldh _ => .control
  | .ldhz _ => .control
  | .ldw _ => .control
  | .ldwz _ => .control
  | .ldd _ => .control
  | .fill _ => .control
  | .stb _ => .control
  | .sth _ => .control
  | .stw _ => .control
  | .std _ => .control
  | .spill _ => .control
  | .amoadd _ => .control
  | .amoand _ => .control
  | .amoor _ => .control
  | .amoxor _ => .control
  | .amomin _ => .control
  | .amomax _ => .control
  | .amominn _ => .control
  | .amomaxn _ => .control
  | .amoswap _ => .control
  | .amocas _ => .control
  | .amoaddI32 _ => .control
  | .amoandI32 _ => .control
  | .amoorI32 _ => .control
  | .amoxorI32 _ => .control
  | .amominI32 _ => .control
  | .amomaxI32 _ => .control
  | .amominnN32 _ => .control
  | .amomaxnN32 _ => .control
  | .amoswapI32 _ => .control
  | .amocasI32 _ => .control
  | .amofaddF32 _ => .control
  | .acq _ => .control
  | .acqt _ => .control
  | .rel _ => .control
  | .bind _ => .control
  | .unbind _ => .control
  | .publish _ => .control
  | .fence => .control
  | .fenceRf => .control
  | .bar _ => .control
  | .flagw _ => .control
  | .flags _ => .control
  | .flagc _ => .control
  | .disp _ _ => .control
  | .nop => .control
  | .sysrd _ => .control
  | .syswr _ => .control
  | .trap _ => .control
  | .reti _ => .ferry
  | .mpret => .control
  | .wfe => .control
  | .halt => .control
  | .rdcc _ => .control
  | .rdwork _ => .control
  | .etrig => .control
  | .tdone => .control
  | .mark => .control
  | .nopC => .control
  | .addC _ => .control
  | .subC _ => .control
  | .andC _ => .control
  | .orC _ => .control
  | .xorC _ => .control
  | .addiC _ => .control
  | .slliC _ => .control
  | .srliC _ => .control
  | .sraiC _ => .control
  | .liC _ => .control
  | .addS0C _ => .control
  | .lddC _ => .control
  | .stdC _ => .control
  | .aadd _ => .access
  | .asub _ => .access
  | .amul _ => .access
  | .ashl _ => .access
  | .ashr _ => .access
  | .aand _ => .access
  | .amov _ => .access
  | .aaddi _ => .access
  | .ali _ => .access
  | .aaddC _ => .access
  | .aaddiC _ => .access
  | .amovC _ => .access
  | .lq _ => .access
  | .lqb _ => .access
  | .sq _ => .access
  | .sqs _ => .access
  | .lqg _ => .access
  | .lqt _ => .access
  | .sqt _ => .access
  | .tcopy _ => .access
  | .tgather _ => .access
  | .tscatter _ => .access
  | .tfill _ => .access
  | .rst _ => .access
  | .rstTk _ => .access
  | .racc _ => .access
  | .xwait _ => .access
  | .sbq _ => .access
  | .qflush _ => .access
  | .qmark _ => .access
  | .vadd _ => .vector
  | .vsub _ => .vector
  | .vmul _ => .vector
  | .vfma _ => .vector
  | .vfms _ => .vector
  | .vfnma _ => .vector
  | .vmax _ => .vector
  | .vmin _ => .vector
  | .vabs _ => .vector
  | .vneg _ => .vector
  | .vrcp _ => .vector
  | .vrsqrt _ => .vector
  | .vsqrt _ => .vector
  | .vexp2 _ => .vector
  | .vlog2 _ => .vector
  | .vdiv _ => .vector
  | .vaddi _ => .vector
  | .vsubi _ => .vector
  | .vmuli _ => .vector
  | .vand _ => .vector
  | .vor _ => .vector
  | .vxor _ => .vector
  | .vnot _ => .vector
  | .vshl _ => .vector
  | .vshr _ => .vector
  | .vsra _ => .vector
  | .vmaxi _ => .vector
  | .vmini _ => .vector
  | .vcmp _ => .vector
  | .vsel _ => .vector
  | .vmov _ => .vector
  | .vmovC _ => .vector
  | .vbcast _ => .vector
  | .vins _ => .vector
  | .vext _ => .vector
  | .vperm _ => .vector
  | .vshuf _ => .vector
  | .vrot _ => .vector
  | .vred _ => .vector
  | .vscan _ => .vector
  | .vcvt _ => .vector
  | .vquant _ => .vector
  | .vdequant _ => .vector
  | .vscale _ => .vector
  | .cpush _ => .vector
  | .cpop _ => .vector
  | .cbal _ => .vector
  | .kand _ => .vector
  | .kor _ => .vector
  | .kxor _ => .vector
  | .knot _ => .vector
  | .kpop _ => .vector
  | .kmov _ => .vector
  | .vpop _ => .vector
  | .vpush _ => .vector
  | .mnop _ => .matrix
  | .mnopC _ => .matrix
  | .mstamp _ => .matrix
  | .mstampAl _ => .matrix
  | .mmode _ => .matrix
  | .mwait _ => .matrix
  | .mtscale _ => .matrix
  | .mtscaleQ _ => .matrix
  | .mnstat _ => .matrix
  | .mroute _ => .matrix
  | .mwld _ => .matrix
  | .mwsel _ => .matrix
  | .mma _ => .matrix
  | .mmaz _ => .matrix
  | .mhad _ => .matrix
  | .mquant _ => .matrix
  | .mdrain _ => .matrix
  | .maccld _ => .matrix
  | .maccst _ => .matrix
  | .mzero _ => .matrix
  | .cinc _ => .control
  | .cset _ => .control
  | .cadd _ => .control
  | .cread _ => .control
  | .cwait _ => .control
  | .arm _ => .control
  | .disarm _ => .control
  | .armq _ => .control
  | .trig _ => .control
  | .kick _ => .control
  | .launch _ => .control
  | .patch _ => .control
  | .patchM _ => .control
  | .qctlTickets _ => .control
  | .qctlFlush _ => .control
  | .qctlPreempt _ => .control
  | .qctlRead _ => .control
  | .coll _ => .control
  | .collabort _ => .control
  | .usend _ => .ferry
  | .uputRma _ => .ferry
  | .uputHost _ => .ferry
  | .mrecv _ => .ferry
  | .mpoll _ => .ferry
  | .mreply _ => .ferry
  | .mdone _ => .ferry
  | .mapVa _ => .control
  | .mapTensor _ => .control
  | .mapChunk _ => .control
  | .unmapVa _ => .control
  | .unmapTensor _ => .control
  | .unmapChunk _ => .control
  | .lease _ => .control
  | .sdown _ => .control
  | .snap _ => .control
  | .muster _ => .control
  | .musterRelease _ => .control
  | .musterHamper _ => .control
  | .musterRestore _ => .control
  | .rollcall _ => .control
  | .rstepWindow _ => .control
  | .rstepCount _ => .control
  | .rstepOpen _ => .control
  | .mpsetPoint _ => .control
  | .mpsetVec _ => .control
  | .stepSend _ => .control
  | .stepRecv _ => .control
  | .stepRrs _ => .control
  | .stepCopy _ => .control
  | .stepWait _ => .control
  | .stepLoop _ => .control
  | .stepEnd => .control
  | .unallocatedEncoding _ => .control
  | .uncorrectableError _ => .control
  | .correctableError _ _ => .control
  | .storePerformed _ => .control
  | .operandQueueFill _ _ => .control
  | .hostWriteAccepted => .control
  | .slotTableUpdate _ => .control
  | .missedHeartbeats _ => .control

noncomputable section

/-- UPUT has one word for both kinds of descriptor; the descriptor it names says which it is (R426). -/
def Instr.asDecoded : Instr → Instr
  | .uputHost f => .uputRma f
  | i => i

end

/-! ## Decoding -/

/-- Format CMD, so that a second word follows (R314). -/
def isCmd (c : Class) (major : Nat) : Bool :=
  match c with
  | .control | .ferry => major == 0x38 || (0x3A ≤ major && major ≤ 0x3C)
  | .access => 0x25 ≤ major && major ≤ 0x27
  | .vector => 0x20 ≤ major && major ≤ 0x26
  | .matrix => 0x20 ≤ major && major ≤ 0x23

/-- Row 3 of R321: an instruction of another class. -/
def foreignClass (c : Class) (w : BitVec 32) : Bool :=
  let m := wordMajor w
  let g := wordFunc w
  match c with
  | .control => m == 0x3B || (m == 0x39 && g == 4)
  | .ferry =>
    m == 0x3F || m == 0x38 || (m == 0x39 && (g == 0x0A || g == 0x0B || g == 0x0C || g == 5)) ||
      (m == 0x37 && 8 ≤ g && g ≤ 0x0B) || (m == 0x35 && memOp w == 4) || (m == 0x34 && memOp w == 7)
  | _ => 0x38 ≤ m && m ≤ 0x3C

/-- Rows 4 and 5 of R321: an unallocated opcode, then a field that is not as its form asks. -/
def checked (i : Option Instr) (code : Code) : Except Cause Instr :=
  match i with
  | none => .error .illOp
  | some i => if i.wf && decide (i.code = code) then .ok i else .error .rsvField

noncomputable section

/-- Decode a compact halfword. -/
def decodeHalf (c : Class) (h : BitVec 16) : Except Cause Instr := checked (selectCompact c (compactCop h) h) (.half h)

/-- Decode a 32-bit word, with the word after it for format CMD. Major 0x30 with b above 3 is a reserved value (R322). -/
def decodeWord (c : Class) (w x : BitVec 32) : Except Cause Instr :=
  if foreignClass c w then .error .streamClass
  else if (c == .control || c == .ferry) && wordMajor w == 0x30 && 4 ≤ wordB w then .error .rsvField
  else checked (select c w x) (if isCmd c (wordMajor w) then .cmd w x else .word w)

/-- Decode a step word. -/
def decodeStep (w : BitVec 64) : Option Instr := (checked (selectStep (w.extractLsb' 0 4).toNat w) (.step w)).toOption

end

/-- The halfwords of an instruction whose first halfword is h (R313, R314). -/
def halfCount (c : Class) (h : BitVec 16) : Nat :=
  if !h.getLsbD 15 then 1 else if isCmd c (0x20 + (h.extractLsb' 10 5).toNat) then 4 else 2

noncomputable section

/-- Decode an instruction from its halfwords in fetch order; the first holds bits [31:16] of its word (R313). -/
def decodeHalves (c : Class) (hs : List (BitVec 16)) : Except Cause Instr :=
  match hs with
  | h0 :: hs' =>
    if !h0.getLsbD 15 then decodeHalf c h0
    else decodeWord c (h0 ++ hs'.getD 0 0) (hs'.getD 1 0 ++ hs'.getD 2 0)
  | [] => .error .illOp

end

/-- The halfwords of an instruction in fetch order. -/
def Code.halves : Code → List (BitVec 16)
  | .none => []
  | .half h => [h]
  | .word w => [w.extractLsb' 16 16, w.extractLsb' 0 16]
  | .cmd w x => [w.extractLsb' 16 16, w.extractLsb' 0 16, x.extractLsb' 16 16, x.extractLsb' 0 16]
  | .step w => [w.extractLsb' 0 16, w.extractLsb' 16 16, w.extractLsb' 32 16, w.extractLsb' 48 16]

/-- The bytes of an instruction as memory holds them: each halfword little-endian (R313). -/
def encode (i : Instr) : List Byte := i.code.halves.flatMap fun h => [h.extractLsb' 0 8, h.extractLsb' 8 8]

/-- The classes in the order in which a bare word is tried: the word alone does not say its stream (R215, log entry 4). -/
def tableClasses : List Class := [.control, .ferry, .access, .vector, .matrix]

/-- The words w holds, numbered as the table numbers them: a word of nbits below 17 is a compact halfword. -/
def tableHalves (nbits w : Nat) : List (BitVec 16) :=
  let v := BitVec.ofNat 64 w
  if nbits ≤ 16 then [v.extractLsb' 0 16]
  else [v.extractLsb' 16 16, v.extractLsb' 0 16, v.extractLsb' 48 16, v.extractLsb' 32 16]

noncomputable section

/-- The class that reads the word, with its instruction. -/
def decodeTable (nbits w : Nat) : Option (Class × Instr) :=
  tableClasses.findSome? fun c =>
    match decodeHalves c (tableHalves nbits w) with
    | .ok i => some (c, i)
    | .error _ => none

/-- The instruction the decoder reads from a word of the opcode table. -/
def decodeTableWord (nbits w : Nat) : Option Instr := (decodeTable nbits w).map (·.2)

end

end Sys2Proof
end

