-- ==== Sys2Proof/Machine/Sysreg.lean ====
section
/-! DEFINITION. System registers of a tile (R320): reads and the task's writes (R355), with the side effects of RC and W1C fields (R5). -/
namespace Sys2Proof.Machine
open Sys2Proof

/-- The die of a logical tile (R9). -/
def dieOf (t : Nat) : Nat := t % 16 / 8 + 2 * (t / 128)

/-- The harvest word of a die, from the device record once the firmware runs (R13, R24). -/
def State.harvest (s : State) (d : Nat) : Word :=
  if s.pkg.boot = 1 then BitVec.ofNat 64 (mval s.pkg.flash (s.pkg.factory * 0x10000 + 0x48 + 4 * d) 4) else 0

/-- The skip row of a column of a die (R10, R13). -/
def skipRow (w : Word) (col : Nat) : Nat := fld w (4 * col) 4

/-- Where logical tile (lx, ly) of a die sits: physical column and row (R10). -/
def physicalPlace (w : Word) (lx ly : Nat) : Nat × Nat := (lx, if ly < skipRow w lx then ly else ly + 1)

/-- Die, column and row of a logical tile of the package (R9, R10). -/
def State.physicalTile (s : State) (t : Nat) : Nat × Nat × Nat := (dieOf t, physicalPlace (s.harvest (dieOf t)) (t % 16 % 8) (t / 16 % 8))

/-- The physical tile in a column's skip row is powered off and takes no part in anything (R10). -/
def State.poweredOff (s : State) (die col row : Nat) : Bool := skipRow (s.harvest die) col == row

def Matrix.status (m : Matrix) : Word :=
  BitVec.ofNat 64 ((if m.strict then 1 else 0) + (if m.run then 2 else 0) + m.smiss.toNat * 2 ^ 16)

/-- Executions not yet begun of a stream's block (R223). -/
def Tile.lcrem (x : Tile) (k : Nat) : Word := BitVec.ofNat 64 ((((x.stream k).blk.map (·.iter)).getD 0) % 2 ^ 32)

/-- What a read of bits m of a register clears: SMISS of sys.MXST and the LOSS counters are RC (R5, R320). -/
def Tile.readClear (x : Tile) (n : Nat) (m : Word) : Tile :=
  if n = 0x11 then { x with mx := { x.mx with smiss := x.mx.smiss &&& ~~~ m.extractLsb' 16 32 } }
  else if 0x200 ≤ n ∧ n < 0x2C0 then { x with loss := tmod 0 x.loss (n - 0x200) (· &&& ~~~ m.setWidth 32) }
  else x

/-- What system register n of a tile reads; none: no such register (R320). -/
def State.sysPeek (s : State) (t n : Nat) : Option Word :=
  let x := s.tile t
  let plain (v : Word) : Option Word := some v
  if n = 0 then plain s.ccc
  else if n = 1 then plain (BitVec.ofNat 64 t)
  else if n = 2 then plain ((x.task.map (·.t.rect.setWidth 64)).getD 0)
  else if 4 ≤ n ∧ n < 8 then plain (s.harvest (n - 4))
  else if 8 ≤ n ∧ n < 12 then plain ((tget 0 x.lc (n - 8)).setWidth 64)
  else if 12 ≤ n ∧ n < 15 then plain (x.lcrem (n - 11))
  else if n = 0x0F then plain x.flagsat
  else if n = 0x10 ∨ n = 0x13 then plain (x.lockset.setWidth 64)
  else if n = 0x11 then plain x.mx.status
  else if n = 0x12 then plain x.mx.p
  else if n = 0x14 then plain (wordOf x.mx.mxrt 0)
  else if n = 0x15 then plain (wordOf x.mx.mxrt 1)
  else if n = 0x16 then plain (x.ovfptr.setWidth 64)
  else if n = 0x17 then plain (x.ovflim.setWidth 64)
  else if 0x18 ≤ n ∧ n < 0x20 then plain (x.tqReg (n - 0x18))
  else if n = 0x20 then plain (x.lotx.setWidth 64)
  else if n = 0x21 then plain (x.mpvec.setWidth 64)
  else if n = 0x22 then plain (x.trace.ctl.setWidth 64)
  else if n = 0x23 then plain (x.trace.base.setWidth 64)
  else if n = 0x24 then plain (x.trace.size.setWidth 64)
  else if n = 0x25 then plain (x.trace.head.setWidth 64)
  else if 0x30 ≤ n ∧ n < 0x40 then plain ((tget 0 x.nst (n - 0x30)).setWidth 64)
  else if 0x40 ≤ n ∧ n < 0x4C then plain (tget 0 x.snap (n - 0x40))
  else if 0x80 ≤ n ∧ n < 0x100 then plain (wordOf (tget 0 x.mp ((n - 0x80) / 2)) (n % 2))
  else if 0x100 ≤ n ∧ n < 0x200 then plain (s.reg (offSlotTab (dieOf t) (n - 0x100)))
  else if 0x200 ≤ n ∧ n < 0x2C0 then
    plain ((tget 0 x.loss (n - 0x200)).setWidth 64)
  else none

/-- Read system register n of a tile, with its RC effects; none: no such register. -/
def State.sysRead (s : State) (t n : Nat) : Option (Word × State) :=
  (s.sysPeek t n).map fun v => (v, s.modTile t fun x => x.readClear n (BitVec.allOnes 64))

/-- Write sys.TRCTL: SPER below 10 sets 10 (R291). -/
def Trace.setCtl (tr : Trace) (v : Word) : Trace :=
  { tr with ctl := BitVec.ofNat 10 (fld v 0 5 + max 10 (fld v 5 5) * 32) }

/-- The registers a task may write (R355); what is written to a reserved field is ignored (R6), as in sys.MXRT (R167). -/
def Tile.sysWrite (x : Tile) (n : Nat) (v : Word) : Option Tile :=
  if 8 ≤ n ∧ n < 12 then some { x with lc := tput 0 x.lc (n - 8) (v.setWidth 32) }
  else if n = 0x0F then some { x with flagsat := x.flagsat &&& ~~~ v }
  else if n = 0x10 then some { x with lockset := v.setWidth 4 }
  else if n = 0x11 then some { x with mx := { x.mx with strict := bit v 0 } }
  else if n = 0x14 then some { x with mx := { x.mx with mxrt := setWord x.mx.mxrt 0 (v &&& 0xFFFFFF) } }
  else if n = 0x15 then some { x with mx := { x.mx with mxrt := setWord x.mx.mxrt 1 (v &&& 0xFFFFFFFFFF) } }
  else if n = 0x16 then some { x with ovfptr := v.setWidth 57 }
  else if n = 0x17 then some { x with ovflim := v.setWidth 40 }
  else if n = 0x22 then some { x with trace := x.trace.setCtl v }
  else if n = 0x23 then some { x with trace := { x.trace with base := v.setWidth 57 } }
  else if n = 0x24 then some { x with trace := { x.trace with size := v.setWidth 17 } }
  else if 0x30 ≤ n ∧ n < 0x40 then some { x with nst := tput 0 x.nst (n - 0x30) (tget 0 x.nst (n - 0x30) &&& ~~~ v.setWidth 3) }
  else none

/-- Register numbers of R320. -/
def sysNumber (n : Nat) : Bool :=
  n ≤ 2 || (4 ≤ n && n ≤ 0x25) || (0x30 ≤ n && n < 0x4C) || (0x80 ≤ n && n < 0x2C0)

end Sys2Proof.Machine
end

