-- ==== Sys2Proof/Machine/System.lean ====
section
/-! DEFINITION. DISP and the system instructions of majors 0x38 and 0x39 (R353-R359). -/
namespace Sys2Proof.Machine
open Sys2Proof

/-- DISP (R353, R216, R324). -/
def execDisp (f : CmdE) (q : BitVec 8) (s : State) : Ans :=
  (s.onTile.bind fun t => s.outsideBlock.bind fun _ => s.outsideHandler.bind fun _ => s.acqHeld.bind fun _ =>
    let k := fld q 0 2
    let wv := bit q 2
    let sv := bit q 3
    let wcnt := fld f.imm 0 16
    (Res.check (k != 0 && (wv || (f.c == 0 && wcnt == 0)) && (sv || f.d == 0) && !(wv && wcnt == 0)) .rsvField 0).bind fun _ =>
    (s.src f.a).bind fun a => (Res.check (!bit a 0) .align a).bind fun _ =>
    let x := s.tile t
    if 16 ≤ (tget [] x.cq k).length then .stall .commandQueue s
    else
      let e : Disp := { baddr := a.setWidth 57, wv := wv, wf := f.c, wcnt := BitVec.ofNat 16 wcnt, sv := sv, sfl := f.d }
      .ok ((s.setTile t { x with cq := tmod [] x.cq k (· ++ [e]) }).retire 8)).finish s

/-- NOP (R358). -/
def execNop (s : State) : Ans := .next (s.retire 4)

/-- SYSRD (R355, R229); a Ferry thread reads only sys.CCC (R359). -/
def execSysrd (f : Tri) (s : State) : Ans :=
  let n := f.a.toNat * 64 + f.b.toNat
  ((Res.check (sysNumber n) .rsvField 0).bind fun _ =>
    match s.cur with
    | .stream t _ =>
      (s.dst f.d).bind fun _ =>
        match s.sysRead t n with
        | none => .raise .rsvField 0
        -- a fixed producer to s0 has no effect: it clears nothing (R335)
        | some (v, s1) => .ok (((if f.d = 0 then s else s1).fixed f.d (if 0x40 ≤ n ∧ n < 0x4C then 96 else 2) v v 0).retire 4)
    | _ => if n = 0 then s.valueRes f.d 2 4 s.ccc else .raise .priv 0).finish s

/-- SYSWR (R355): LCREG for a loop count of 2^32 or more, PRIV for a register the task cannot write. -/
def execSyswr (f : Tri) (s : State) : Ans :=
  let n := f.d.toNat * 64 + f.b.toNat
  ((Res.check (sysNumber n) .rsvField 0).bind fun _ =>
    match s.cur with
    | .stream t _ =>
      (s.src f.a).bind fun v =>
      (Res.check (!(8 ≤ n && n < 12 && 2 ^ 32 ≤ v.toNat)) .lcreg v).bind fun _ =>
        match (s.tile t).sysWrite n v with
        | none => .raise .priv 0
        | some x => .ok ((s.setTile t x).retire 4)
    | _ => .raise .priv 0).finish s

/-- TRAP (R356): raises BREAK with n in INFO; on a thread it ends the run (R359). -/
def execTrap (f : Tri) (s : State) : Ans :=
  (s.outsideBlock.bind fun _ => s.outsideHandler.bind fun _ => (.raise .breakTrap (f.b.setWidth 64) : Res State)).finish s

/-- RETI (R357, R251). -/
def execReti (f : Tri) (s : State) : Ans :=
  ((s.onThread .streamClass).bind fun n => (s.src f.a f.wa).bind fun a =>
    (Res.check (fld a 16 48 == 0) .rsvField a).bind fun _ =>
    (Res.check (s.tileCtx (fld a 0 8) == some (s.thr n).ctx) .perm a).bind fun _ =>
    (s.returnTo (fld a 0 8) (fld a 8 2)).bind fun s1 => .ok (s1.retire 4)).finish s

/-- MPRET (R288): ends the handler and resumes the control pipeline. -/
def execMpret (s : State) : Ans :=
  (s.onTile.bind fun t => s.outsideBlock.bind fun _ =>
    match (s.tile t).handler with
    | none => .raise .priv 0
    | some h =>
      .ok (s.modTile t fun x =>
        let back := x.sc
        let st := x.stream 0
        let y := x.setStream 0 { st with pc := h.retPc, blk := h.retBlk, bubbles := 0, stall := .none, pass := if h.stream = 0 then true else st.pass }
        let z := if h.stream = 0 then y else y.setStream h.stream { y.stream h.stream with pass := true, stall := .none }
        { z with handler := none, shadow := tabOf 0 16 fun i => tget 0 back.regs i, sc := h.saved, lastIssue := s.ccc })).finish s

/-- WFE (R358): waits for an event or its timeout. -/
def execWfe (s : State) : Ans :=
  (s.outsideBlock.bind fun _ => s.outsideHandler.bind fun _ =>
    let st := s.strm s.cur
    if st.woken then .ok (s.retire 4)
    else .stall .wfe (s.modStrm s.cur fun st => { st with wfe := some (st.wfe.getD s.ccc) })).finish s

/-- WFE_TIMEOUT (R358, R359): 940 cycles, which are 1,880 Ferry cycles. -/
def execWfeTimeout (who : Who) (s : State) : Ans :=
  match (s.strm who).wfe with
  | some since => if 940 ≤ (s.ccc - since).toNat then .next (s.modStrm who fun st => { st with woken := true }) else .next s
  | none => .next s

/-- A thread's run ends once its variable-latency results are written; meanwhile every cycle is an issue step (R429, R228). -/
def State.endRunRes (s : State) (n : Nat) : Res State :=
  if (s.thr n).sc.ops.isEmpty then .ok (s.endRun n) else .stall .mdone (s.modScal s.cur Scalars.age)

/-- TDONE on a tile (R354, R236): waits for the results in flight and for streams 1-3. -/
def State.tdoneRes (s : State) : Res State :=
  s.onTile.bind fun t => s.outsideBlock.bind fun _ => s.outsideHandler.bind fun _ =>
    let x := s.tile t
    if x.sc.pend.isEmpty && x.sc.ops.isEmpty && x.workersIdle then .ok ((s.retire 4).leave t)
    else .stall .tdone (s.modScal s.cur Scalars.age)

/-- TDONE (R354). -/
def execTdone (s : State) : Ans := s.tdoneRes.finish s

/-- HALT (R354, R359). -/
def execHalt (s : State) : Ans :=
  match s.cur with
  | .thread n => (s.endRunRes n).finish s
  | _ => s.tdoneRes.finish s

/-- RDCC (R358). -/
def execRdcc (f : Tri) (s : State) : Ans := (s.valueRes f.d 1 4 s.ccc).finish s

/-- RDWORK (R358, R359): the tile's work count as the cycle began, or the thread's. -/
def execRdwork (f : Tri) (s : State) : Ans :=
  let n := match s.cur with
    | .stream t _ => (s.tile t).workPrev
    | w => (s.strm w).work
  (s.valueRes f.d 1 4 (BitVec.ofNat 64 n)).finish s

/-- ETRIG (R354, R193, R152): the releases follow the earlier writes; the first sends a KIND 1 notice. -/
def execEtrig (s : State) : Ans :=
  (s.onTile.bind fun t => s.outsideHandler.bind fun _ => s.acqHeld.bind fun _ =>
    match (s.tile t).task with
    | none => .ok (s.retire 4)
    | some k =>
      if k.etrig then .ok (s.retire 4)
      else
        let s1 := [dOsync k.t.desc 0, dOsync k.t.desc 1].foldl (fun s va => if va = 0 then s else s.startOp 0 (.rel va) 1 false va 0) s
        let s2 := if dTagv k.t.desc && !dReld k.t.desc then s1.sendNotice t k.t 0 1 else s1
        .ok ((s2.modTile t fun x => { x with task := x.task.map fun j => { j with etrig := true } }).retire 4)).finish s

/-- MARK (R354, R275): opens an undo window with reason 1. Its records count the work without the MARK (R456), and without what the streams
that follow the control stream in the count issued in this cycle (R282). -/
def execMark (s : State) : Ans :=
  (s.onTile.bind fun t => (s.reserveLen 0 t (s.ctxOfTile t) 16 0).bind fun s1 =>
    let c := s.ctxOfTile t
    let s2 := s1.unreserve 0 t c 0
    let n := (s.tile t).workPrev
    let s3 := s2.openWindow t c 1 n
    .ok ((s3.trace t 3 3 ((s3.tile t).win.toNat + 2 ^ 32) [] (some n)).retire 4)).finish s

end Sys2Proof.Machine
end

