-- ==== Sys2Proof/Machine/Issue.lean ====
section
/-! DEFINITION. Issue: fetching an instruction's halfwords (R218, R313, R314), blocks and hardware loops (R216-R226),
lockstep, and match points (R287, R288). -/
namespace Sys2Proof

/-- The class a party executes (R215, R99). -/
def Who.cls (w : Who) : Class :=
  match w with
  | .stream _ 0 => .control
  | .stream _ 1 => .access
  | .stream _ 2 => .vector
  | .stream _ _ => .matrix
  | _ => .ferry

end Sys2Proof

namespace Sys2Proof.Machine
open Sys2Proof

/-- n halfwords from an address, each translated (R218). -/
def State.fetch (s : State) (w : Who) (va : Word) : Nat → Res (List (BitVec 16) × State)
  | 0 => .ok ([], s)
  | n + 1 =>
    if fld va 56 8 ≠ 0 then .raise .coreUnmapped va
    else
      (s.translate w (s.ctxOf w) va false).bind fun r =>
      (r.2.fetch w (va + 2) n).bind fun q => .ok (BitVec.ofNat 16 (mval s.hbm r.1 2) :: q.1, q.2)

/-- The halfword opens a block header (R221). -/
def isHeader (h : BitVec 16) : Bool := h.extractLsb' 10 6 == 0x3F

/-- How many instructions a body holds; none: it holds a header, or its last instruction runs past the end (R222). -/
def bodyCount (c : Class) : Nat → List (BitVec 16) → Option Nat
  | _, [] => some 0
  | 0, _ => none
  | n + 1, h :: t =>
    if isHeader h then none
    else if (h :: t).length < halfCount c h then none
    else (bodyCount c n ((h :: t).drop (halfCount c h))).map (· + 1)

/-- The execution count a header gives at its entry (R223). -/
def Tile.blockCount (x : Tile) (lcv : Bool) (lcn : Nat) (count : Nat) : Nat := if lcv then (tget 0 x.lcPrev lcn).toNat else count

/-- The checks of R222 that raise BLK_HEADER, on a header word and the body it names. -/
def Tile.headerBad (x : Tile) (c : Class) (w : BitVec 32) (body : List (BitVec 16)) : Bool :=
  let len := fld w 16 10
  len == 0 || (len == 1023 && 1 < x.blockCount (bit w 14) (fld w 12 2) (fld w 0 12)) || (bodyCount c 1023 body).isNone

/-- The party issues from a block body it has entered. -/
def Stream.inBody (st : Stream) : Option Blk :=
  match st.blk with
  | some b => if b.entered then some b else none
  | none => none

/-- The next instruction's halfwords: from the loop buffer, or fetched at the pc (R218). -/
def State.readInsn (s : State) (w : Who) : Res (List (BitVec 16) × State) :=
  let st := s.strm w
  match st.inBody with
  | some b => .ok ((b.body.drop b.off).take 4, s)
  | none =>
    (s.fetch w st.pc 1).bind fun r =>
      let n := halfCount w.cls (r.1.headD 0)
      (r.2.fetch w st.pc n).bind fun q =>
        if isHeader (q.1.headD 0) && w.cls != .ferry then
          let hw : BitVec 32 := q.1.headD 0 ++ q.1.getD 1 0
          let x := s.tile w.undoTile
          (q.2.fetch w (st.pc + 4) (fld hw 16 10)).bind fun b =>
          (Res.check (!x.headerBad w.cls hw b.1) .blkHeader st.pc).bind fun _ => .ok (q.1, b.2)
        else (Res.check (w.num == 0 || !st.blk.isSome) .blkHeader st.pc).bind fun _ => .ok (q.1, q.2)

/-- The word of the instruction that a stopped party stands at, for its frame (R249). -/
def State.insnAt (s : State) (w : Who) : BitVec 32 :=
  match s.readInsn w with
  | .ok r => insnWord r.1
  | _ => 0

/-- A BAR that waits has been counted (R350). -/
def State.barCounted (s : State) (w : Who) (hw : BitVec 32) : Bool := (s.strm w).counted && fld hw 26 6 == 0x37 && fld hw 0 6 == 8

/-- A stream raises a cause while it does not issue: its frame names the instruction that it stands at. -/
def State.raiseIdle (s : State) (t k : Nat) (c : Cause) (info : Word) : State :=
  State.raiseStream { s with curInsn := s.insnAt (.stream t k) } t k c info

/-- An armed match point at the stream's next instruction (R287, R288). -/
def State.pointAt (s : State) (t k : Nat) : Option Nat :=
  let x := s.tile t
  let st := x.stream k
  if st.pass || (k == 0 && x.handler.isSome) then none
  else firstBelow (fun i => let p := tget 0 x.mp i; bit p 0 && fld p 1 2 == k && fld p 64 57 == st.pc.toNat) 64 0

/-- The streams of the lockstep word that stream k issues in; none outside lockstep (R226). -/
def Tile.lockMates (x : Tile) (k : Nat) : List Nat :=
  match (x.stream k).inBody with
  | some b => if b.set = 0 || b.issued then [] else (List.range 4).filter fun j => b.set.getLsbD j
  | none => []

/-- What a party's issue opportunity comes to before any instruction is read. -/
inductive Ready where
  | no (s : State)       -- nothing issues
  | word                 -- a lockstep word issues
  | one                  -- one instruction is read
  deriving DecidableEq, Repr

/-- A step that issues nothing but counts (R228). -/
def State.bubble (s : State) (w : Who) : State :=
  let s1 := s.modStrm w fun st => { st with bubbles := st.bubbles - 1 }
  if w.num = 0 then s1.modScal w Scalars.age else s1

/-- A stream may not issue: its context is stopping everywhere at once; its tile has reached its precise stop; or the stream has
retired, under PLAY, what it had retired where the recorded interval ended (R285). -/
def State.atPreciseStop (s : State) (t k : Nat) : Bool :=
  let c := s.ctxOfTile t
  let l := CtxLog.of s c
  ((s.muster c).exact && s.mstate c != 0) ||
    (s.playing c && (l.target.any (fun g => g.1 == l.playIv && g.2.1 == t && decide (g.2.2 ≤ (s.tile t).work)) ||
      l.stopWork.any fun e => e.1 == l.playIv && e.2.1 == t && decide (e.2.2.getD k 0 ≤ ((s.tile t).stream k).work)))

/-- Whether a party may issue now (R181, R215, R228, R246, R288); the streams of a task that is being removed issue nothing (R256). -/
def State.ready (s : State) (w : Who) : Ready :=
  let st := s.strm w
  if st.stop.isSome then .no s
  else match w with
    | .engine _ => .no s
    | .thread n => if !(s.thr n).running || s.paused (s.thr n).ctx then .no s else if 0 < st.bubbles then .no (s.bubble w) else .one
    | .stream t k =>
      let x := s.tile t
      if x.task.all (fun j => j.fatal.isSome) || s.atPreciseStop t k then .no s
      else if x.handler.any (fun h => h.stream == k && k != 0) then .no s
      else if 0 < st.bubbles then .no (s.bubble w)
      else if k ≠ 0 && (st.blk.isNone || st.blk.any (fun b => b.issued)) then .no s
      else if st.blk.any (fun b => !b.entered && !b.body.isEmpty) then .no s
      else if !(x.lockMates k).isEmpty then (if (x.lockMates k).head? = some k then .word else .no s)
      else if (s.pointAt t k).isSome then
        .no { s.modStrm w (fun st => { st with stall := .matchPoint }) with agenda := .event (.matchPointHit t k) :: s.agenda }
      else .one

/-! ## Block headers (R221-R226) -/

/-- A header issues: it takes a step and counts no work (R223, R282). -/
def State.passHeader (s : State) (f : Stream → Stream) : State :=
  let s1 := s.modStrm s.cur fun st => (f st).settled
  let s2 := if s.cur.num = 0 then s1.modScal s.cur Scalars.age else s1
  s2.modTile s.cur.undoTile fun x => { x with lastIssue := s.ccc }

/-- BLOCK_HEADER (R221-R226). -/
def execBlockHeader (f : Hdr) (s : State) : Ans :=
  (s.onTile.bind fun t =>
    let w := s.cur
    let x := s.tile t
    let st := s.strm w
    let k := w.num
    let len := f.len.toNat
    let n := x.blockCount f.lcv f.lcn.toNat f.count.toNat
    (Res.check (st.inBody.isNone && len != 0) .blkHeader st.pc).bind fun _ =>
    (s.fetch w (st.pc + 4) len).bind fun b =>
    (Res.check ((bodyCount w.cls 1023 b.1).isSome && !(len == 1023 && 1 < n)) .blkHeader st.pc).bind fun _ =>
    (Res.check (Instr.wf (.blockHeader f)) .rsvField st.pc).bind fun _ =>
      let b0 : Blk := { hdr := st.pc, body := b.1, off := 0, iter := n - 1, count := n, lock := f.s, sfl := st.blk.bind (·.sfl), issued := false,
                        entered := true, set := 0 }
      if f.s && x.lockset.getLsbD k then
        .stall .lockstep (b.2.modStrm w fun st => { st with blk := some { b0 with entered := false } })
      else if n = 0 then
        .ok (b.2.passHeader fun st =>
          if k = 0 then { st with blk := none, pc := st.pc + BitVec.ofNat 64 (4 + 2 * len) }
          else { st with blk := some { b0 with issued := true, iter := 0 } })
      else .ok (b.2.passHeader fun st => { st with blk := some b0, pc := st.pc + 4 })).finish s

/-- A stream sits at an S header with its body loaded. -/
def Stream.atLock (st : Stream) : Option Blk :=
  match st.blk with
  | some b => if b.lock && !b.entered && !b.body.isEmpty && st.stop.isNone then some b else none
  | none => none

/-- A stream of a lockstep set passes its header: it enters its body, or skips it where the counts are zero (R226). -/
def Stream.lockEnter (st : Stream) (k : Nat) (none' : Bool) (set : BitVec 4) : Stream :=
  match st.blk with
  | some b =>
    if none' then
      if k = 0 then { st with blk := none, pc := b.hdr + BitVec.ofNat 64 (4 + 2 * b.body.length) }
      else { st with blk := some { b with entered := true, issued := true, iter := 0, set := set } }
    else { st with blk := some { b with entered := true, set := set }, pc := b.hdr + 4 }
  | none => st

/-- LOCKSTEP_ENTRY (R226): the total counts are compared when every stream of the set sits at an S header. -/
def execLockstepEntry (tile : Nat) (s : State) : Ans :=
  let x := s.tile tile
  let set := (List.range 4).filter fun j => x.lockset.getLsbD j
  if set.isEmpty || x.task.isNone || !set.all (fun k => (x.stream k).atLock.isSome) then .next s
  else
    let total (k : Nat) : Nat := match (x.stream k).atLock with
      | some b => ((bodyCount (Who.stream tile k).cls 1023 b.body).getD 0) * b.count
      | none => 0
    let first : Nat := total (set.headD 0)
    if set.all (fun k => total k == first) then
      .next (set.foldl (fun s k => State.passHeader { s with cur := .stream tile k } (fun st => st.lockEnter k (first == 0) x.lockset)) s)
    else
      .next (set.foldl (fun s k =>
        let hw := match s.fetch (.stream tile k) (s.strm (.stream tile k)).pc 2 with
          | .ok r => insnWord r.1
          | _ => 0
        { s with curInsn := hw }.raiseStream tile k .syncMismatch 0) s)

/-- COMMAND_QUEUE_TAKE (R216): an idle stream takes its next entry once its flag wait is met. -/
def execCommandQueueTake (tile stream : Nat) (s : State) : Ans :=
  let x := s.tile tile
  let st := x.stream stream
  if stream = 0 || 3 < stream || x.task.isNone || st.blk.isSome || st.stop.isSome then .next s
  else match tget [] x.cq stream with
    | [] => .next s
    | e :: rest =>
      let take : Res State :=
        if e.wv then
          if (x.flag e.wf.toNat).toNat < e.wcnt.toNat then .stall (.flag e.wf.toNat) s
          else (s.flagReserve stream tile e.wf.toNat).bind fun s1 =>
            match s1.flagTake stream tile e.wf.toNat e.wcnt.toNat with
            | some s2 => .ok s2
            | none => .stall (.flag e.wf.toNat) s
        else .ok s
      match take with
      | .ok s1 =>
        let b : Blk := { hdr := e.baddr.setWidth 64, body := [], off := 0, iter := 0, count := 0, lock := false,
                         sfl := if e.sv then some e.sfl.toNat else none, issued := false, entered := false, set := 0 }
        .next ((s1.modTile tile fun y =>
          { y.setStream stream { y.stream stream with blk := some b, pc := e.baddr.setWidth 64, stall := .none } with cq := tput [] y.cq stream rest }).wakeWfe
            (.stream tile 0))
      | .stall why _ => .next (s.modStrm (.stream tile stream) fun st => { st with stall := why })
      | .raise c i => .next (s.raiseIdle tile stream c i)
      | .denied _ _ _ => .next s
      | .fault e => .fault e

/-- A LOSS trace record at the exit of a repeating block (R289). -/
def State.lossRecord (s : State) (t k : Nat) (hdr : Word) (count : Nat) : State :=
  if count < 2 || !bit (s.tile t).trace.ctl 1 then s
  else
    let x := s.tile t
    let cells := (List.range 192).flatMap fun i => leBytes 2 (min 0xFFFF ((tget 0 x.loss i) - (tget 0 x.trace.lossPrev i)).toNat)
    (s.trace t 1 1 (k + hdr.toNat % 2 ^ 57 * 4) cells).modTile t fun y => { y with trace := { y.trace with lossPrev := y.loss } }

/-- Every result of a block has been written (R217): queue loads, vector results, matrix work. -/
def State.blockWritten (s : State) (t k : Nat) : Bool :=
  let x := s.tile t
  s.quiet (.stream t k) && (k != 1 || x.abusy.all fun e => e.2 ≤ s.ccc.toNat) &&
    (k != 2 || (x.vbusy.all (fun e => e.2 ≤ s.ccc.toNat) && x.kbusy.all fun e => e.2 ≤ s.ccc.toNat)) &&
    (k != 3 || (x.mx.rowFree.all (fun e => e.2 ≤ s.ccc.toNat) && x.mx.slotFree.all (fun e => e.2 ≤ s.ccc.toNat) &&
      x.mx.planeFree.all fun e => e.2 ≤ s.ccc.toNat))

/-- BLOCK_COMPLETE (R216, R217, R289): the flag is signalled, and the stream may take its next entry. -/
def execBlockComplete (tile stream : Nat) (s : State) : Ans :=
  let st := (s.tile tile).stream stream
  match st.blk with
  | some b =>
    if !b.issued || st.stop.isSome || !s.blockWritten tile stream then .next s
    else
      let signalled : Res State := match b.sfl with
        | some f => (s.flagReserve stream tile f).bind fun s1 => .ok (s1.flagAdd stream tile f)
        | none => .ok s
      match signalled with
      | .ok s1 =>
        .next ((s1.lossRecord tile stream b.hdr b.count).modTile tile fun y => y.setStream stream { y.stream stream with blk := none, stall := .none })
      | .raise c i => .next (s.raiseIdle tile stream c i)
      | _ => .next s
  | none => .next s

/-- The control stream left a hardware loop by its last instruction (R225, R289). -/
def State.loopExit (s before : State) (w : Who) : State :=
  match w, (before.strm w).blk with
  | .stream t 0, some b => if (s.strm w).blk.isNone && b.entered && (s.strm w).stop.isNone then s.lossRecord t 0 b.hdr b.count else s
  | _, _ => s

/-- MATCH_POINT_HIT (R288): MODE 1 raises MATCHPOINT; MODE 0 runs the handler on the control hardware, one at a time. -/
def execMatchPointHit (tile stream : Nat) (s : State) : Ans :=
  let x := s.tile tile
  match s.pointAt tile stream with
  | none => .next s
  | some i =>
    let p := tget 0 x.mp i
    let once (y : Tile) : Tile := if bit p 4 then { y with mp := tput 0 y.mp i (setFld p 0 1 0) } else y
    if (x.stream stream).stop.isSome || x.task.isNone then .next s
    else if bit p 3 then
      .next ((s.modTile tile once).raiseIdle tile stream .matchpoint 0)
    else if x.handler.isSome then .next s
    else
      let st0 := x.stream 0
      let h : Handler := { point := i, stream := stream, retPc := st0.pc, retBlk := st0.blk, saved := x.sc }
      let entry : List Word := [0, BitVec.ofNat 64 i, BitVec.ofNat 64 stream, s.ccc, BitVec.ofNat 64 (x.stream stream).work]
      let regs := tabOf 0 64 fun j => if j < 5 then nth 0 entry j else if j < 16 then tget 0 x.shadow j else tget 0 x.sc.regs j
      .next (s.modTile tile fun y =>
        let y1 := once y
        let y2 := y1.setStream 0 { y1.stream 0 with pc := y1.mpvec.setWidth 64, blk := none, bubbles := 0, stall := .none }
        { y2 with handler := some h, sc := { regs := regs, empty := x.sc.empty.filter (16 ≤ ·), pend := [], ops := [] } })

/-- UNALLOCATED_ENCODING (R321): the fetched encoding raises its cause in the fetching party. -/
def execUnallocatedEncoding (cause : Cause) (s : State) : Ans := .next (s.raise cause 0)

end Sys2Proof.Machine
end

