-- ==== Sys2Proof/Machine/Copy.lean ====
section
/-! DEFINITION. Tensor copies (R118-R120, R369-R374): descriptors and their checks, the copy engines' pieces, and the pager. -/
namespace Sys2Proof.Machine
open Sys2Proof

/-! ## Descriptors (R369) -/

def cpOp (d : BitVec 1024) : Nat := fld d 0 2
def cpDsh (d : BitVec 1024) : Bool := bit d 2
def cpScl (d : BitVec 1024) : Bool := bit d 3
def cpDims (d : BitVec 1024) : Nat := fld d 4 3 + 1
def cpSk (d : BitVec 1024) : Nat := fld d 7 2
def cpDk (d : BitVec 1024) : Bool := bit d 9
def cpStid (d : BitVec 1024) : Nat := fld d 10 8
def cpDtid (d : BitVec 1024) : Nat := fld d 18 8
def cpSaddr (d : BitVec 1024) : Word := wordOf d 1
def cpDaddr (d : BitVec 1024) : Word := wordOf d 2
def cpIaddr (d : BitVec 1024) : Word := wordOf d 3
def cpBox (d : BitVec 1024) (i : Nat) : Nat := fld d (256 + 32 * i) 32
def cpSc (d : BitVec 1024) (i : Nat) : Nat := fld d (512 + 32 * i) 32
def cpDc (d : BitVec 1024) (i : Nat) : Nat := fld d (768 + 32 * i) 32

/-- An index list is used. -/
def cpIndexed (d : BitVec 1024) : Bool := cpOp d == 1 || cpOp d == 2

/-- The number of elements of the box. -/
def cpCount (d : BitVec 1024) : Nat := ((List.range (cpDims d)).map (cpBox d)).prod

/-- The tile a TV field names, else the issuer's. -/
def cpTile (d : BitVec 1024) (lo : Nat) (own : Option Nat) : Option Nat := if bit d lo then some (fld d (lo + 1) 8) else own

/-- The first row of R371. -/
def cpFieldsOk (d : BitVec 1024) : Bool :=
  let n := cpDims d
  let dims := (List.range 8).all fun i => if i < n then cpBox d i != 0 else cpBox d i == 0 && cpSc d i == 0 && cpDc d i == 0
  let src := match cpSk d with
    | 0 => cpSaddr d == 0 && fld d 26 9 == 0
    | 1 => fld (cpSaddr d) 57 7 == 0 && cpStid d == 0
    | 2 => cpStid d == 0 && fld d 26 9 == 0
    | _ => false
  let dst := if cpDk d then fld (cpDaddr d) 57 7 == 0 && cpDtid d == 0 else cpDaddr d == 0 && fld d 35 9 == 0
  let orgs := (cpSk d == 0 || (List.range 8).all fun i => cpSc d i == 0) && (!cpDk d || (List.range 8).all fun i => cpDc d i == 0)
  let tv := (bit d 26 || fld d 27 8 == 0) && (bit d 35 || fld d 36 8 == 0)
  let op := match cpOp d with
    | 0 => cpSk d != 2
    | 1 => cpSk d == 0 && 1 < n
    | 2 => !cpDk d && 1 < n
    | _ => cpSk d == 2
  fld d 44 20 == 0 && dims && src && dst && orgs && tv && op && (if cpIndexed d then fld (cpIaddr d) 57 7 == 0 else cpIaddr d == 0) &&
    !(cpDsh d && cpDk d)

/-- The source tensor's descriptor, and the destination's. -/
def State.cpSrc (s : State) (ctx : Nat) (d : BitVec 1024) : Option (BitVec 512) := if cpSk d = 0 then some (s.tensor ctx (cpStid d)) else none
def State.cpDst (s : State) (ctx : Nat) (d : BitVec 1024) : Option (BitVec 512) := if cpDk d then none else some (s.tensor ctx (cpDtid d))

/-- The element width (R370), by the tensor sides. -/
def cpWidth (d : BitVec 1024) (src dst : Option (BitVec 512)) : Nat :=
  if cpScl d then 8
  else match dst with
    | some t => tdBits t
    | none => match src with
      | some t => tdBits t
      | none => 8

def State.cpBits (s : State) (ctx : Nat) (d : BitVec 1024) : Nat := cpWidth d (s.cpSrc ctx d) (s.cpDst ctx d)

/-- The element width of a copy that has issued. -/
def Copy.bits (c : Copy) : Nat := cpWidth c.desc c.srcT c.dstT

/-- The second row of R371. -/
def State.cpTensorsOk (s : State) (ctx : Nat) (d : BitVec 1024) : Bool :=
  let one (t : Option (BitVec 512)) : Bool := match t with
    | some x => tdValid x && tdDims x == cpDims d && (!cpScl d || tdBlk x != 0)
    | none => true
  let pair : Bool := match s.cpSrc ctx d, s.cpDst ctx d with
    | some x, some y => tdFmt x == tdFmt y && (!cpScl d || (tdBlk x == tdBlk y && tdSfmt x == tdSfmt y))
    | _, _ => true
  one (s.cpSrc ctx d) && one (s.cpDst ctx d) && pair && (!cpDsh d || (match s.cpDst ctx d with
    | some y => tdShv y
    | none => true))

/-- The third row of R371: a side within its extents, the indexed dimension apart. -/
def cpSideIn (d : BitVec 1024) (t : Option (BitVec 512)) (org : Nat → Nat) (indexed : Bool) : Bool :=
  match t with
  | none => true
  | some x => (List.range (cpDims d)).all fun i =>
      (indexed && i == 1) || decide (org i + cpBox d i ≤ (if cpScl d && i == 0 then tdExt x 0 / tdBlock x else tdExt x i))

/-- Where a linear address lies. -/
inductive Lin where
  | spad (tile off : Nat)
  | mem (va : Word)
  deriving DecidableEq, Repr

/-- Decode a linear range of n bytes (R370, R102): base is the tile that scratchpad codes refer to. -/
def State.linear (s : State) (ctx : Nat) (base : Option Nat) (a : Word) (n : Nat) : Res Lin :=
  if fld a 57 7 ≠ 0 then .raise .coreUnmapped a
  else if !bit a 56 then (Res.check (a.toNat + n ≤ 2 ^ 56) .coreUnmapped a).bind fun _ => .ok (.mem a)
  else
    let code := fld a 52 4
    if code < 4 then
      match base with
      | none => .raise .coreUnmapped a
      | some b => (Res.check (fld a 21 31 == 0 && fld a 0 21 + n ≤ 2 ^ 21) .coreUnmapped a).bind fun _ =>
          .ok (.spad (if code = 0 then b else quadTile b code) (fld a 0 21))
    else if code < 6 then
      match s.window (code == 5) (fld a 40 12) ctx (fld a 0 40) n with
      | some e => .ok (.mem (winVa e (fld a 0 40)))
      | none => .raise .windowUnmapped a
    else .raise .coreUnmapped a

/-- A linear address's tile, when a scratchpad code names one. -/
def linTile (base : Option Nat) (a : Word) : Option Nat :=
  if bit a 56 && fld a 52 4 < 4 then base.map fun b => if fld a 52 4 = 0 then b else quadTile b (fld a 52 4) else none

/-- The checks of R371, with the issuing tile. -/
def State.cpCheck (s : State) (ctx : Nat) (own : Option Nat) (d : BitVec 1024) : Res Unit :=
  let id := BitVec.ofNat 64 (if cpSk d = 0 then cpStid d else cpDtid d)
  let stile := cpTile d 26 own
  let dtile := cpTile d 35 own
  let mine (o : Option Nat) : Bool := match o with
    | some t => s.tileCtx t == some ctx
    | none => true
  let w := s.cpBits ctx d
  let bytes := (cpCount d * w + 7) / 8
  let lin (on : Bool) (base : Option Nat) (a : Word) (n : Nat) : Res Unit := if on then (s.linear ctx base a n).bind fun _ => .ok () else .ok ()
  (Res.check (cpFieldsOk d) .rsvField).bind fun _ =>
  (Res.check (s.cpTensorsOk ctx d) .tensorDesc id).bind fun _ =>
  (Res.check (cpSideIn d (s.cpSrc ctx d) (cpSc d) (cpOp d == 1) && cpSideIn d (s.cpDst ctx d) (cpDc d) (cpOp d == 2)) .tensorBounds id).bind fun _ =>
  (Res.check ((!bit d 26 || mine stile) && (!bit d 35 || mine dtile) &&
    (cpSk d != 1 || mine (linTile stile (cpSaddr d))) && (!cpDk d || mine (linTile dtile (cpDaddr d))) &&
    !(cpDk d && bit (cpDaddr d) 56 && fld (cpDaddr d) 52 4 == 4)) .perm (cpDaddr d)).bind fun _ =>
  (lin (cpSk d == 1) stile (cpSaddr d) bytes).bind fun _ =>
  (lin (cpDk d) dtile (cpDaddr d) bytes).bind fun _ =>
  (lin (cpIndexed d) own (cpIaddr d) (4 * cpBox d 1)).bind fun _ =>
  Res.check (w != 4 || (cpSk d == 0 && !cpDk d) || ((cpSk d == 2 && !cpDk d) ||
    (cpBox d 0 % 2 == 0 && cpSc d 0 % 2 == 0 && cpDc d 0 % 2 == 0))) .rsvField

/-! ## The range scoreboard (R119) -/

def boardEntry (rd wr : Bool) (first last eng : Nat) : BitVec 64 :=
  BitVec.ofNat 64 (1 + (if rd then 2 else 0) + (if wr then 4 else 0) + first % 2 ^ 15 * 2 ^ 3 + last % 2 ^ 15 * 2 ^ 18 + eng % 32 * 2 ^ 33)

/-- The scratchpad ranges a copy touches: tile and entry. -/
def State.cpRanges (s : State) (ctx : Nat) (own : Option Nat) (d : BitVec 1024) (eng : Nat) : List (Nat × BitVec 64) :=
  let bytes := (cpCount d * s.cpBits ctx d + 7) / 8
  let one (on : Bool) (base : Option Nat) (a : Word) (n : Nat) (wr : Bool) : List (Nat × BitVec 64) :=
    if !on then []
    else match s.linear ctx base a n with
      | .ok (.spad t off) => [(t, boardEntry (!wr) wr (off / 64) ((off + n - 1) / 64) eng)]
      | _ => []
  one (cpSk d == 1) (cpTile d 26 own) (cpSaddr d) bytes false ++ one (cpDk d) (cpTile d 35 own) (cpDaddr d) bytes true ++
    one (cpIndexed d) own (cpIaddr d) (4 * cpBox d 1) false

/-- Free scoreboard entries of a tile. -/
def Tile.freeBoard (x : Tile) : List Nat := (List.range 16).filter fun i => !bit (tget 0 x.board i) 0

/-- Take the entries; none: a tile has too few. -/
def State.takeBoard (s : State) : List (Nat × BitVec 64) → Option (List (Nat × Nat) × State)
  | [] => some ([], s)
  | (t, e) :: rest =>
    match (s.tile t).freeBoard with
    | [] => none
    | i :: _ => ((s.modTile t fun x => { x with board := tput 0 x.board i e }).takeBoard rest).map fun r => ((t, i) :: r.1, r.2)

/-! ## Issue (R372) -/

def State.engine (s : State) (n : Nat) : List Copy := tget [] s.copies n

/-- A copy's tensors are being published (R150). -/
def State.cpPublishing (s : State) (ctx : Nat) (d : BitVec 1024) : Bool :=
  s.pubs.any fun p => p.ctx == ctx && ((cpSk d == 0 && p.tensor == cpStid d) || (!cpDk d && p.tensor == cpDtid d))

/-- TCOPY, TGATHER, TSCATTER and TFILL. -/
def State.copyRes (s : State) (f : CmdE) (sub : Nat) : Res State :=
  s.onTile.bind fun t =>
    let w : Who := .stream t 1
    let ctx := s.ctxOfTile t
    let eng := 8 * dieOf t + fld f.imm 0 3
    let sgf := if bit f.imm 3 then some (fld f.imm 4 6) else none
    (Res.check (bit f.imm 3 || fld f.imm 4 6 == 0) .rsvField).bind fun _ =>
    if (s.tile t).suppressed f.pv f.pn f.pk then
      match sgf with
      | some n => (s.flagReserve 1 t n).bind fun s1 => .ok ((s1.flagAdd 1 t n).retire 8)
      | none => .ok (s.retire 8)
    else
      (s.areg t f.a).bind fun a => (s.operand w a 128 false 64).bind fun r =>
      let src := r.1.map fun p => p.1.source p.2
      (s.rstReady t src).bind fun _ =>
      if src.any (fun x => x.line?.isNone && !s.srcReady w s.nextId x) then .stall .writes s
      else
        (match spadOf r.1 with
         | some (u, off) => r.2.grant u off 128 (accessPort t u false)
         | none => .ok r.2).bind fun s1 =>
        let d := BitVec.ofNat 1024 (leNat (src.flatMap s1.sourceBytes))
        (Res.check (cpOp d == sub) .rsvField).bind fun _ =>
        (s1.cpCheck ctx (some t) d).bind fun _ =>
        if s.cpPublishing ctx d then .stall .publish s
        else if 32 ≤ (s.engine eng).length then .stall .engineFull s
        else
          match s1.takeBoard (s1.cpRanges ctx (some t) d eng) with
          | none => .stall .scoreboard (s.modTile t fun x => { x with boardSince := some (x.boardSince.getD s.ccc) })
          | some (ents, s2) =>
            let c : Copy :=
              { desc := d, tile := some t, ctx := ctx, serial := ((s.tile t).task.map Task.serial).getD 0, sgf := sgf, dcv := none, entry := 0, act := 0,
                idx := [], piece := 0, parked := none, fault := 0, failed := none, board := ents, lifted := [], srcT := s.cpSrc ctx d,
                dstT := s.cpDst ctx d, beats := none, full := false, win := (s.tile t).win, stopping := false, after := s2.nextId }
            let s3 : State := { s2 with copies := tmod [] s2.copies eng (· ++ [c]), nextId := s2.nextId + 1 }
            .ok ((s3.modTile t fun x => { x with boardSince := none }).retire 8)

/-- TCOPY (R372). -/
def execTcopy (f : CmdE) (s : State) : Ans := (s.copyRes f 0).finish s

/-- TGATHER (R372). -/
def execTgather (f : CmdE) (s : State) : Ans := (s.copyRes f 1).finish s

/-- TSCATTER (R372). -/
def execTscatter (f : CmdE) (s : State) : Ans := (s.copyRes f 2).finish s

/-- TFILL (R372). -/
def execTfill (f : CmdE) (s : State) : Ans := (s.copyRes f 3).finish s

/-! ## Pieces (R370, R373) -/

/-- Why a piece is not moved now: an absent or migrating place, with the address of its translation entry (all ones: an upper
level is absent), or a cause that fails the copy. -/
inductive Block where
  | absent (entry at' : Word)
  | migrating (entry at' : Word)
  | fails (c : Cause)
  | hole

/-- The box position of a linear index. -/
def boxPos (d : BitVec 1024) : Nat → Nat → Nat → List Nat
  | 0, _, _ => []
  | n + 1, i, k => k % cpBox d i :: boxPos d n (i + 1) (k / cpBox d i)

/-- The coordinates of a tensor side at a box position; none: an index beyond its extent. -/
def cpCoords (d : BitVec 1024) (t : BitVec 512) (org : Nat → Nat) (indexed : Bool) (idx p : List Nat) : Option (List Nat) :=
  let c := (List.range (cpDims d)).map fun i =>
    if indexed && i == 1 then idx.getD (p.getD 1 0) 0
    else if cpScl d && i == 0 then (org 0 + p.getD 0 0) * tdBlock t
    else org i + p.getD i 0
  if (tdBeyond t c).isSome then none else some c

/-- A side of a copy: what its element positions count in. -/
inductive Side where
  | tensor (id : Nat) (t : BitVec 512) (shadow : Bool)
  | lin (l : Lin)
  | pattern (v : Word)

/-- The position, in nibbles of its side, of element k. -/
def Side.pos (side : Side) (d : BitVec 1024) (w : Nat) (org : Nat → Nat) (indexed : Bool) (idx : List Nat) (k : Nat) : Option Nat :=
  match side with
  | .tensor _ t _ =>
    (cpCoords d t org indexed idx (boxPos d (cpDims d) 0 k)).map fun c => if cpScl d then tdScaleNibble t (tdIndex t c) else tdNibble t (tdIndex t c)
  | .lin (.spad _ off) => some (2 * off + k * w / 4)
  | .lin (.mem va) => some (2 * va.toNat + k * w / 4)
  | .pattern _ => some (k * w / 4)

/-- Where a byte of a side lies: its tile, or HBM. -/
def State.sidePlace (s : State) (ctx : Nat) (side : Side) (byte : Nat) (store : Bool) : Except Block (Option Nat × Nat) :=
  let at' : Word := match side with
    | .tensor id _ _ => tensorAddr id false byte
    | _ => BitVec.ofNat 64 byte
  let entry : Word := match side with
    | .tensor _ t sh => BitVec.ofNat 64 (tdTable t sh + 8 * (byte / 65536))
    | _ => ((s.walk ctx (BitVec.ofNat 64 byte)).map fun r => BitVec.ofNat 64 r.2).getD (-1)
  let of' (p : Place) : Except Block (Option Nat × Nat) := match p with
    | .found pa | .unpinned pa => .ok (none, pa)
    | .absent => .error (.absent entry at')
    | .migrating => .error (.migrating entry at')
    | .readOnly => .error (.fails .perm)
    | .hole => .error .hole
  match side with
  | .tensor _ t sh => of' (s.chunkPlace (tdTable t sh) byte store)
  | .lin (.spad t _) => .ok (some t, byte)
  | .lin (.mem _) => of' (s.pagePlace ctx (BitVec.ofNat 64 byte) store)
  | .pattern _ => .ok (none, 0)

/-- Nibbles of a byte range. -/
def nibblesOf (bs : List Byte) : List Nat := bs.flatMap fun b => [b.toNat % 16, b.toNat / 16]

/-- Read the runs of a source side. -/
def State.readRuns (s : State) (ctx : Nat) (side : Side) : List (Nat × Nat) → Except Block (List Nat)
  | [] => .ok []
  | (p, n) :: rest =>
    match s.sidePlace ctx side (p / 2) false with
    | .error e => .error e
    | .ok (t, a) =>
      let k := (p % 2 + n + 1) / 2
      let bs := s.sourceBytes (match t with
        | some u => .spad u a k
        | none => .mem a k)
      match s.readRuns ctx side rest with
      | .error e => .error e
      | .ok r => .ok (((nibblesOf bs).drop (p % 2)).take n ++ r)

/-- Runs of positions that follow one another within a part, as position and length. -/
def joinPos (part w : Nat) (l : List Nat) : List (Nat × Nat) :=
  (l.foldl (fun acc p => match acc with
    | a :: rest => if a.1 + a.2 = p ∧ p % part ≠ 0 then (a.1, a.2 + w / 4) :: rest else (p, w / 4) :: acc
    | [] => [(p, w / 4)]) []).reverse

/-- Take the nibbles of each run in turn. -/
def dealNibbles : List (Nat × Nat) → List Nat → List Run
  | [], _ => []
  | (p, n) :: rest, l => (p, l.take n) :: dealNibbles rest (l.drop n)

/-- A run of more than 512 words is cut, so that a record can hold it (R273). -/
def cutRun (r : Run) : List Run :=
  if coverWords (r.1 / 2) ((r.2.length + 1) / 2) ≤ 512 then [r]
  else let n := 8192 - r.1 % 8192; [(r.1, r.2.take n), (r.1 + n, r.2.drop n)]

/-- The ranges that runs write on a destination side. -/
def State.sideSegs (s : State) (ctx : Nat) (side : Side) (xp : Bool) : List Run → Except Block (List Seg)
  | [] => .ok []
  | r :: rest =>
    match s.sidePlace ctx side (r.1 / 2) true with
    | .error e => .error e
    | .ok (t, a) =>
      let g := match side with
        | .tensor id _ _ => runSeg 2 (tensorAddr id xp) (fun _ => a) r
        | _ => match t with
          | some u => runSeg 0 (spadAddr u) (fun _ => a) r
          | none => runSeg 1 (BitVec.ofNat 64) (fun _ => a) r
      match s.sideSegs ctx side xp rest with
      | .error e => .error e
      | .ok l => .ok (g :: l)

/-- The sides of a copy. -/
def State.cpSides (s : State) (c : Copy) : Except Block (Side × Side) :=
  let d := c.desc
  let bytes := (cpCount d * c.bits + 7) / 8
  let lin (base : Option Nat) (a : Word) : Except Block Side := match s.linear c.ctx base a bytes with
    | .ok l => .ok (.lin l)
    | .raise x _ => .error (.fails x)
    | _ => .error (.fails .coreUnmapped)
  let src : Except Block Side :=
    match cpSk d with
    | 0 => .ok (.tensor (cpStid d) (c.srcT.getD 0) false)
    | 1 => lin (cpTile d 26 c.tile) (cpSaddr d)
    | _ => .ok (.pattern (cpSaddr d))
  let dst : Except Block Side :=
    if cpDk d then lin (cpTile d 35 c.tile) (cpDaddr d) else .ok (.tensor (cpDtid d) (c.dstT.getD 0) (cpDsh d))
  match src, dst with
  | .ok a, .ok b => .ok (a, b)
  | .error e, _ => .error e
  | _, .error e => .error e

/-- Nibbles in which a side's runs break: chunks and pages; a scratchpad has none. -/
def Side.part (side : Side) : Nat :=
  match side with
  | .lin (.spad _ _) => 2 ^ 22
  | _ => 131072

/-- Elements of a piece: 4 KiB of the destination (R373). -/
def pieceElems (w : Nat) : Nat := 32768 / w

/-- The elements of a copy's next piece. -/
def Copy.elems (c : Copy) : List Nat :=
  let first := c.piece * pieceElems c.bits
  (List.range (min (pieceElems c.bits) (cpCount c.desc - first))).map (first + ·)

/-- The ranges that a copy's next piece writes. -/
def State.pieceSegs (s : State) (c : Copy) : Except Block (List Seg) :=
  let d := c.desc
  let w := c.bits
  match s.cpSides c with
  | .error e => .error e
  | .ok (src, dst) =>
    let ks := c.elems
    let sp := ks.map (src.pos d w (cpSc d) (cpOp d == 1) c.idx)
    let dp := ks.map (dst.pos d w (cpDc d) (cpOp d == 2) c.idx)
    if sp.any (·.isNone) || dp.any (·.isNone) then .error (.fails .tensorBounds)
    else
      let vals : Except Block (List Nat) := match src with
        | .pattern v =>
          .ok (ks.flatMap fun k => if cpDk d then nibbles 8 (fld v (8 * (k % 8)) 8) else nibbles w (fld v 0 w))
        | _ => s.readRuns c.ctx src (joinPos src.part w (sp.map (·.getD 0)))
      match vals with
      | .error e => .error e
      | .ok l => s.sideSegs c.ctx dst ((c.dstT.map tdXp).getD false) ((dealNibbles (joinPos dst.part w (dp.map (·.getD 0))) l).flatMap cutRun)

/-- The index list (R370). -/
def State.readIndex (s : State) (c : Copy) : Except Block (List Nat) :=
  let n := cpBox c.desc 1
  match s.linear c.ctx c.tile (cpIaddr c.desc) (4 * n) with
  | .ok l =>
    let p0 := match l with
      | .spad _ off => 2 * off
      | .mem va => 2 * va.toNat
    match s.readRuns c.ctx (.lin l) (joinPos (Side.lin l).part 8 ((List.range (4 * n)).map fun i => p0 + 2 * i)) with
    | .ok nibs => .ok ((List.range n).map fun i => leNat (packNibbles ((nibs.drop (8 * i)).take 8)))
    | .error e => .error e
  | .raise x _ => .error (.fails x)
  | _ => .error (.fails .coreUnmapped)

/-- The scratchpad lines of nibble ranges of a side. -/
def Side.lines (side : Side) (write : Bool) (runs : List (Nat × Nat)) : List (Nat × Nat × Bool) :=
  match side with
  | .lin (.spad t _) => (runs.flatMap fun r => (List.range (r.2 / 128 + 2)).filterMap fun i =>
      if r.1 / 128 + i ≤ (r.1 + r.2 - 1) / 128 then some (t, r.1 / 128 + i, write) else none).eraseDups
  | _ => []

/-- The scratchpad lines that a copy's index list, or else its next piece, reads. -/
def State.pieceReads (s : State) (c : Copy) : List (Nat × Nat × Bool) :=
  if cpIndexed c.desc && c.idx.isEmpty then
    match s.linear c.ctx c.tile (cpIaddr c.desc) (4 * cpBox c.desc 1) with
    | .ok (.spad t off) => (Side.lin (.spad t off)).lines false [(2 * off, 8 * cpBox c.desc 1)]
    | _ => []
  else match s.cpSides c with
    | .ok (src, _) => src.lines false (c.elems.filterMap fun k =>
        (src.pos c.desc c.bits (cpSc c.desc) (cpOp c.desc == 1) c.idx k).map fun p => (p, c.bits / 4))
    | .error _ => []

/-- The scratchpad lines that ranges lie in. -/
def segLines (segs : List Seg) : List (Nat × Nat × Bool) :=
  (segs.flatMap fun g => if g.akind = 0 then
      (List.range (g.len / 64 + 2)).filterMap fun i =>
        if g.pa / 64 + i ≤ (g.pa + g.len - 1) / 64 then some (fld g.addr 0 8, g.pa / 64 + i, true) else none
    else []).eraseDups

/-- A piece's beats of 64 bytes (R202), each with the lines that it reads and writes. -/
def beatsOf (n : Nat) (reads writes : List (Nat × Nat × Bool)) : List (List (Nat × Nat × Bool)) :=
  (List.range (max n (max reads.length writes.length))).map fun k => (reads.drop k).take 1 ++ (writes.drop k).take 1

/-- Every access before the copy in tile order has been performed (R373). -/
def State.copyOrdered (s : State) (c : Copy) : Bool :=
  match c.tile with
  | none => true
  | some t =>
    !(s.stores.any fun e => e.order < c.after && (e.who.bind Who.tile?) == some t) &&
      ((s.tile t).sc.ops.all fun o => c.after ≤ o.id || (match o.what with
        | .load .. | .reg .. | .atomic .. => false
        | _ => true)) &&
      (s.tile t).oq.all fun q => q.2.loads.all fun l => c.after ≤ l.order

/-- Replace copy n of an engine. -/
def State.setCopy (s : State) (eng n : Nat) (c : Copy) : State := { s with copies := tmod [] s.copies eng fun l => l.set n c }

/-- SRC and tile of a copy's undo records. -/
def Copy.src (c : Copy) : Nat := if c.tile.isSome then 4 else 6

/-- An engine that has parked four copies stalls at a fifth fault (R118). -/
def engineStalled (l : List Copy) : Bool := l.any fun c => c.parked.isNone && c.fault != 0 && c.failed.isNone

def parkedCount (l : List Copy) : Nat := l.countP fun c => c.parked.isSome

/-- The COPY_PAGE_FAULT signal of a copy: which of its tensors has the entry met, and the chunk; or the page's address (R118). -/
def State.faultSig (s : State) (eng : Nat) (c : Copy) (entry at' : Word) : FaultSig :=
  let chunk := (at' &&& 0xFFFFFF00#64) >>> 8
  let has (t : Option (BitVec 512)) (sh : Bool) : Bool := t.any fun d => BitVec.ofNat 64 (tdTable d sh) + 8 * chunk == entry
  let tensor : Option (Nat × Bool) :=
    if has (s.cpSrc c.ctx c.desc) false then some (cpStid c.desc, false)
    else if has (s.cpDst c.ctx c.desc) (cpDsh c.desc) then some (cpDtid c.desc, cpDsh c.desc)
    else none
  { engine := eng, copy := c.after, ctx := c.ctx, tensor := tensor, place := if tensor.isSome then chunk else at', entry := entry }

/-- A copy meets an absent or migrating place: it parks, or stalls its engine; for an absent one the Ferry is signalled (R118, R121). -/
def State.park (s : State) (eng n : Nat) (c : Copy) (pager : Bool) (entry at' : Word) : State :=
  let f := at' ||| (1 <<< 63)
  if parkedCount (s.engine eng) < 4 || c.parked.isSome then
    let s1 := s.setCopy eng n { c with parked := some (pager, entry), fault := f, beats := none }
    if pager then
      let s2 := s1.report .copyPageFault c.ctx 2 eng 0
      { s2 with faultSigs := s2.faultSigs ++ [s.faultSig eng c entry at'] }
    else s1
  else s.setCopy eng n { c with fault := f }

/-- A copy has all its pieces, or has failed. -/
def Copy.done (c : Copy) : Bool := c.failed.isSome || decide (cpCount c.desc ≤ c.piece * pieceElems c.bits)

/-- Every copy on the chip that has not retired, parked ones in their tasks' queues among them. -/
def State.allCopies (s : State) : List Copy :=
  s.copies.flatMap (·.2) ++ s.tiles.flatMap fun e => e.2.tq.flatMap fun q => q.2.tasks.flatMap fun k => k.parked.copies.map (·.2)

/-- No piece of a copy is under way: one whose beats are over has still to be read and written. -/
def Copy.atPiece (c : Copy) : Bool := c.beats.all List.isEmpty

/-- A copy can be worked on now: it is not parked or stopped, it has pieces left, its engine does not stall, and what comes before it is done. -/
def State.copyRuns (s : State) (engine n : Nat) (c : Copy) : Bool :=
  let others := (s.engine engine).eraseIdx n
  !(c.parked.isSome || (c.stopping && c.atPiece) || c.done || engineStalled others || !s.copyOrdered c || (c.fault != 0 && 4 ≤ parkedCount others))

/-- The copy of an engine that the cycle's beat goes to, and whether the round-robin gives it (R202): the oldest that waits of the slot table's
context, else of the next context in turn. -/
def State.beatOf (s : State) (engine : Nat) : Option (Nat × Copy × Bool) :=
  let waits (n : Nat) : Option (Nat × Copy) := ((s.engine engine)[n]?).bind fun c =>
    if s.copyRuns engine n c && c.beats.any (fun l => !l.isEmpty) then some (n, c) else none
  let l := (List.range (s.engine engine).length).filterMap waits
  let e := s.reg (offSlotTab (engine / 8) (s.ccc.toNat % 256))
  let owned := if bit e 0 then l.find? fun k => k.2.ctx == fld e 1 6 else none
  match owned with
  | some k => some (k.1, k.2, false)
  | none => (List.range 64).findSome? fun i =>
      (l.find? fun k => k.2.ctx == (tget 0 s.ceLast engine + i) % 64).map fun k => (k.1, k.2, true)

/-- The engine's cycle ends: a beat whose lines have all been granted is over. -/
def State.beatEnds (s : State) (engine : Nat) : State :=
  match s.beatOf engine with
  | none => s
  | some (n, c, turn) =>
    match c.beats with
    | some ([] :: rest) =>
      let s1 := s.setCopy engine n { c with beats := some rest }
      if turn then { s1 with ceLast := tput 0 s1.ceLast engine (c.ctx + 1) } else s1
    | _ => s

/-- COPY_PIECE (R373): the next piece begins; once its beats are over, it is read and written. One that finds the undo log full under policy 2
is tried again, and the issuing stream's XWAIT raises UNDO_LOG_FULL meanwhile (R276). -/
def execCopyPiece (engine n : Nat) (s : State) : Ans :=
  match (s.engine engine)[n]? with
  | none => .next s
  | some c =>
    if !s.copyRuns engine n c then .next s
    else
      let c0 := { c with fault := 0 }
      let blocked (e : Block) : Ans := match e with
        | .absent e v => .next (s.park engine n c true e v)
        | .migrating e v => .next (s.park engine n c false e v)
        | .fails x => .next (s.setCopy engine n { c0 with failed := some x })
        | .hole => .fault .hbmHole
      if cpIndexed c.desc && c.idx.isEmpty then
        match s.readIndex c with
        | .ok l => match c.beats with
          | none => .next (s.setCopy engine n { c0 with beats := some (beatsOf ((cpBox c.desc 1 + 15) / 16) (s.pieceReads c) []) })
          | some [] => .next (s.setCopy engine n { c0 with idx := l, beats := none })
          | _ => .next s
        | .error e => blocked e
      else
        match s.pieceSegs c, c.beats with
        | .error e, _ => blocked e
        | .ok segs, none =>
          .next (s.setCopy engine n { c0 with beats := some (beatsOf ((c.elems.length * c.bits + 511) / 512) (s.pieceReads c) (segLines segs)) })
        | .ok _, some (_ :: _) => .next s
        | .ok segs, some [] =>
          let t := c.tile.getD 0
          let done (s : State) : State := s.setCopy engine n { c0 with piece := c.piece + 1, beats := none, full := false }
          if cpDsh c.desc then .next (done (segs.foldl (fun s g => s.segPut c.src t c.ctx c.win false false g) s))
          else
            match s.reserveRing c.src c.ctx (segsBytes segs) 0 with
            | .ok s1 =>
              .next (done (segs.foldl (fun s g =>
                let s2 := if c.src = 4 then s.takeBuffer t (segsBytes [g]) else s
                s2.segPut c.src t c.ctx (if c.src = 4 then c.win else s2.winOf 6 0 c.ctx) false true g) s1))
            | .stall _ s1 => .next s1
            | .fault e => .fault e
            | _ => .next (s.setCopy engine n { c0 with full := true })

/-- COPY_RESUME (R118): the parked copy's piece meets no absent or migrating place any more; one that meets another such place is parked
there. -/
def execCopyResume (engine n : Nat) (s : State) : Ans :=
  match (s.engine engine)[n]? with
  | none => .next s
  | some c =>
    if c.parked.isNone then .next s
    else
      let r : Except Block Unit :=
        if cpIndexed c.desc && c.idx.isEmpty then (s.readIndex c).map fun _ => () else (s.pieceSegs c).map fun _ => ()
      match r with
      | .error (.absent e v) => .next (if c.parked = some (true, e) then s else s.park engine n c true e v)
      | .error (.migrating e v) => .next (if c.parked = some (false, e) then s else s.park engine n c false e v)
      | _ => .next (s.setCopy engine n { c with parked := none, fault := 0 })

/-- COPY_RETIRE (R373, R374): entries free, the flag gains one, and a failure is recorded; an action copy signals DONECNT or
writes its FLOG record. -/
def execCopyRetire (engine n : Nat) (s : State) : Ans :=
  match (s.engine engine)[n]? with
  | none => .next s
  | some c =>
    if !c.done then .next s
    else
      let s0 : State := { s with copies := tmod [] s.copies engine fun l => l.eraseIdx n }
      let s1 := c.board.foldl (fun s e => s.modTile e.1 fun x => { x with board := tput 0 x.board e.2 0 }) s0
      match c.tile with
      | some t =>
        let mine := (s.tile t).task.any fun k => k.serial == c.serial
        match c.sgf with
        | some f =>
          if !mine then .next s1
          else match s1.reserveRing 4 c.ctx 16 0 with
            | .ok s2 =>
              let s3 := ((s2.takeBuffer t 16).flagAdd 4 t f).frameIfQuiet t 1
              .next (match c.failed with
                | some x => s3.modTile t fun y => { y with copyFail := tput Cause.none y.copyFail f x }
                | none => s3)
            | _ => .next s
        | none => .next s1
      | none =>
        match c.failed with
        | some x =>
          let f := s1.flog c.entry c.act x c.ctx 0
          .next (f.2.report x c.ctx 2 engine f.1)
        | none => .next (match c.dcv with
            | some k => { s1 with engSig := s1.engSig ++ [(engine, k, s1.ferryCycle)] }
            | none => s1)

/-- SCOREBOARD_STALL_EXPIRY (R120). -/
def execScoreboardStallExpiry (tile : Nat) (s : State) : Ans :=
  match (s.tile tile).boardSince with
  | some since =>
    if 2 ^ 20 ≤ (s.ccc - since).toNat && ((s.tile tile).stream 1).stop.isNone then
      .next (State.raiseStream { s.modTile tile (fun x => { x with boardSince := none }) with curInsn := ((s.tile tile).stream 1).bodyWord } tile 1
        .scoreboardFull 0)
    else .next s
  | none => .next s

/-! ## The pager (R118) -/

/-- PAGE_IN (R118): the pager sets P on the faulted entry with a frame, or reports that the chunk has no backing. -/
def execPageIn (engine n : Nat) (frame : Option (BitVec 36)) (s : State) : Ans :=
  match (s.engine engine)[n]? with
  | none => .next s
  | some c =>
    match c.parked with
    | some (true, entry) =>
      let served : State := { s with faultSigs := s.faultSigs.filter fun x => !(x.engine == engine && x.copy == c.after) }
      match frame with
      | none => .next (served.setCopy engine n { c with parked := none, fault := 0, failed := some .copyPageFault })
      | some fr =>
        if hbmEnd ≤ fr.toNat * 65536 || hbmEnd ≤ entry.toNat then .next s
        else
          let e := setFld (setFld (mword s.hbm entry.toNat) 0 1 1) 16 36 fr.toNat
          .next { served with hbm := mputw s.hbm entry.toNat e }
    | _ => .next s

end Sys2Proof.Machine
end

