-- ==== Sys2Proof/Machine/Undo.lean ====
section
/-! DEFINITION. Rolling back (R276-R281): applying and removing undo records, OLDEST, and the move of a block to the ring (R274). -/
namespace Sys2Proof.Machine
open Sys2Proof

/-! ## Applying a record -/

/-- Exchange CTAB and STAB and invert XP (R150, R278). -/
def tdExchange (d : BitVec 512) : BitVec 512 :=
  setFld (setFld (setFld d 320 52 (tdStab d)) 384 52 (tdCtab d)) 14 1 (if tdXp d then 0 else 1)

def State.setTensor (s : State) (ctx id : Nat) (d : BitVec 512) : State := { s with tensors := tput 0 s.tensors (256 * ctx + id) d }

/-- The context of the pre-empted task whose slot holds the tile's state, while no task holds the streams (R255). -/
def State.savedCtx (s : State) (t : Nat) : Option Nat :=
  let x := s.tile t
  if x.task.isSome then none
  else ((x.tq.flatMap fun q => q.2.tasks).find? (·.saved)).map (·.ctx)

/-- Restore bytes of a tile's scratchpad, or of its slot. -/
def State.spadBack (s : State) (t off : Nat) (bs : List Byte) : State :=
  match s.savedCtx t with
  | some c => s.physWrite c (BitVec.ofNat 64 (s.slotVa c t + off)) bs
  | none => s.modTile t fun x => { x with spad := mwrites x.spad off bs }

/-- Restore a flag of a tile, or of its slot. -/
def State.flagBack (s : State) (t f : Nat) (v : BitVec 16) : State :=
  match s.savedCtx t with
  | some c => s.physWrite c (BitVec.ofNat 64 (s.slotVa c t + slotRegs + 0x3D0 + 2 * f)) (leBytes 2 v.toNat)
  | none => s.modTile t fun x => { x with flags := tput 0 x.flags f v }

/-- The place that an AKIND 2 record names now (R273); none: no valid descriptor, or no chunk. -/
def State.tensorBack (s : State) (c : Nat) (addr : Word) : Option Nat :=
  match s.tensorOk c (fld addr 0 8) with
  | none => none
  | some d =>
    match s.chunkPlace (if tdXp d = bit addr 48 then tdCtab d else tdStab d) (fld addr 8 24 * 65536 + fld addr 32 16) false with
    | .found pa | .unpinned pa => some pa
    | _ => none

/-- A HORIZON record that is passed goes to FERRY.HLOG (R277). -/
def State.hlog (s : State) (r : UndoRec) : State :=
  let n := s.regF offHlogHead 0 32
  (s.setReg128 (offHlog (n % 256)) (BitVec.ofNat 128 r.nat)).setRegF offHlogHead 0 32 (n + 1)

/-- Apply one record; nothing that it writes is logged. -/
def State.undoOne (s : State) (c : Nat) (r : UndoRec) : State :=
  let bs := r.old.flatMap fun w => leBytes 8 w.toNat
  if r.rtype = 1 then
    if r.akind = 0 then s.spadBack (fld r.addr 0 8) (fld r.addr 8 21) bs
    else if r.akind = 1 then s.physWrite c r.addr bs
    else match s.tensorBack c r.addr with
      | some pa => { s with hbm := mwrites s.hbm pa bs }
      | none => s
  else if r.rtype = 2 then s.flagBack r.tile (fld r.addr 0 6) (BitVec.ofNat 16 (fld r.addr 6 16))
  else if r.rtype = 4 then s.hlog r
  else if r.rtype = 5 then s.setTensor c (fld r.addr 0 8) (tdExchange (s.tensor c (fld r.addr 0 8)))
  else s

/-! ## Removing records -/

/-- Remove records, and free their space in the ring and in their tiles' buffers. -/
def State.dropRecs (s : State) (c : Nat) (gone : UndoRec → Bool) : State :=
  let out := (CtxLog.of s c).recs.filter gone
  let s1 := s.modLog c fun l => { l with recs := l.recs.filter (fun r => !gone r), full := if out.isEmpty then l.full else false }
  let s2 := s1.setCx c cUNDOUSE (BitVec.ofNat 64 (s.undoUse c - (out.map UndoRec.bytes).sum))
  (out.filter (·.inBuf)).foldl (fun s r => s.modTile r.tile fun x => { x with undoBuf := x.undoBuf - r.bytes }) s2

/-- Apply the records that a predicate picks, newest first, and remove them; answers the horizons passed. -/
def State.rollback (s : State) (c : Nat) (p : UndoRec → Bool) : Nat × State :=
  let l := (CtxLog.of s c).recs.filter p
  (l.countP (·.rtype == 4), (l.reverse.foldl (fun s r => s.undoOne c r) s).dropRecs c p)

/-- Records of a tile's own parties at or above a window (R280). -/
def tileRecs (t : Nat) (w : BitVec 32) (r : UndoRec) : Bool := r.tile == t && decide (r.src < 5) && passed32 r.win w

/-- The rollback of a context (R281): per tile, then the Ferry's and the deliveries'. -/
def State.rollbackAll (s : State) (c : Nat) (p : UndoRec → Bool) : Nat × State :=
  let tiles := (List.range 256).foldl (fun (a : Nat × State) t =>
    let r := a.2.rollback c fun r => r.tile == t && decide (r.src < 5) && p r
    (a.1 + r.1, r.2)) (0, s)
  let rest := tiles.2.rollback c fun r => decide (5 ≤ r.src) && p r
  (tiles.1 + rest.1, rest.2)

/-- The window form's effect (R280): the horizons passed. -/
def State.rollWindow (s : State) (t c : Nat) (w : BitVec 32) : Nat × State := s.rollback c (tileRecs t w)

/-! ## Events -/

/-- The lowest window that a write of OLDEST may not pass (R276, R279). -/
def State.oldestLimit (s : State) (c : Nat) : Nat :=
  let l := CtxLog.of s c
  let old := s.cxF c cUNDOWIN 0 32
  let ahead (w : Nat) : Nat := (w + 2 ^ 32 - old) % 2 ^ 32
  let kept := l.opened.map (fun e => e.2 - 1) ++ (if bit (s.cx c cREPLAY) 0 then l.ivWins.map fun e => e.2.2.toNat else [])
  old + (kept.map ahead).foldl min (ahead (s.cxF c cUNDOWIN 32 32))

/-- UNDOWIN_OLDEST_WRITE (R276). -/
def execUndowinOldestWrite (ctx : Nat) (value : BitVec 32) (s : State) : Ans :=
  let old := s.cxF ctx cUNDOWIN 0 32
  let ahead := (value.toNat + 2 ^ 32 - old) % 2 ^ 32
  if 2 ^ 31 ≤ ahead then .next s
  else
    let v := BitVec.ofNat 32 (min (old + ahead) (s.oldestLimit ctx))
    let s1 := s.dropRecs ctx fun r => !passed32 r.win v
    .next (s1.setCx ctx cUNDOWIN (setFld (s1.cx ctx cUNDOWIN) 0 32 v.toNat))

/-- UNDO_BLOCK_MOVE (R274): once a tile's buffer holds a block, or a record waits for room. -/
def execUndoBlockMove (tile : Nat) (s : State) : Ans :=
  if (s.tile tile).undoBuf < 4096 then .next s else .next (s.moveBlock tile)

end Sys2Proof.Machine
end

