-- ==== Sys2Proof/Machine/Trap.lean ====
section
/-! DEFINITION. Tasks on a tile: the lottery (R189, R190), retirement (R184), pre-emption and resumption (R253-R255), removal and
rerun (R186, R187, R256), and hangs (R252). -/
namespace Sys2Proof.Machine
open Sys2Proof

/-- Cycles of a time in µs: 940 a µs (R135, R114). -/
def cyclesOf (us : Nat) : Nat := 940 * us

/-! ## Pre-emption (R253-R255) -/

/-- The engine asked at a stage: matrix, vector, access, control, then the copies. -/
def askedAt (stage : Nat) : Nat := if stage < 4 then 3 - stage else 4

/-- The dt field of a matrix instruction's halfwords (R327, R398). -/
def stampOf (hs : List (BitVec 16)) : Nat :=
  if (hs.headD 0).getLsbD 15 then fld (hs.getD 2 0 ++ hs.getD 3 0) 12 8 else fld (hs.headD 0) 0 8

/-- The matrix stream stands between runs: none is open, it is idle, or its next instruction ends the run (R242, R243). -/
def State.betweenRuns (s : State) (t : Nat) : Bool :=
  let x := s.tile t
  !x.mx.run || x.idleAt 3 || ((x.stream 3).blk.any fun b => b.entered && !b.issued && stampOf ((b.body.drop b.off).take 4) == 0)

/-- A stream has reached its stop point (R253). -/
def State.atStop (s : State) (t k : Nat) : Bool :=
  let x := s.tile t
  let st := x.stream k
  match st.stop with
  | some p => p.framed
  | none =>
    s.quiet (.stream t k) &&
      ((s.muster (s.ctxOfTile t)).exact || match k with
       | 3 => s.betweenRuns t
       | 1 => st.blk.all (fun b => !b.entered || b.issued) || (match st.stall with
          | .queueEmpty _ | .queueFull _ | .flag _ | .xwait _ | .scoreboard => true
          | _ => false)
       | _ => true)

/-- The task's copies, as they stand in the engines. -/
def State.copiesOf (s : State) (t : Nat) (serial : BitVec 16) (f : Copy → Copy) : State :=
  { s with copies := s.copies.map fun e => (e.1, e.2.map fun c => if c.tile = some t ∧ c.serial = serial then f c else c) }

/-- Free scoreboard entries. -/
def State.unboard (s : State) (l : List (Nat × Nat)) : State :=
  l.foldl (fun s e => s.modTile e.1 fun x => { x with board := tput 0 x.board e.2 0 }) s

/-- A copy as it is parked: its next piece begins afresh, and its entries' values are kept (R255). -/
def State.parkedCopy (s : State) (t : Nat) (c : Copy) : Copy :=
  { c with
    parked := none, fault := 0, beats := none, full := false, stopping := false
    lifted := c.board.map fun e => (e.1, tget 0 (s.tile e.1).board e.2), board := c.board.filter fun e => e.1 != t }

/-- A task's copies leave their engines, and its own scoreboard their entries (R255). Entries in a quad neighbour's scoreboard stay. -/
def State.parkCopies (s : State) (t : Nat) (serial : BitVec 16) : State :=
  let mine (c : Copy) : Bool := c.tile == some t && c.serial == serial
  let gone := s.taskCopies t serial
  State.unboard { s with
    copies := (s.copies.map fun e => (e.1, e.2.filter fun c => !mine c)).filter fun e => !e.2.isEmpty
    faultSigs := s.faultSigs.filter fun x => !gone.any fun e => e.1 == x.engine && e.2.after == x.copy }
    ((gone.flatMap (·.2.board)).filter fun e => e.1 == t)

/-- A parked copy's entries are in their scoreboards again, each that has gone in the lowest free place (R119, R255). -/
def State.reboard (s : State) (c : Copy) : State × Copy :=
  c.lifted.foldl (fun a e =>
    match c.board.find? (fun b => b.1 == e.1 && tget 0 (s.tile b.1).board b.2 == e.2) with
    | some b => (a.1, { a.2 with board := a.2.board ++ [b] })
    | none => match firstBelow (fun i => !bit (tget 0 (a.1.tile e.1).board i) 0) 16 0 with
      | some i => (a.1.modTile e.1 fun x => { x with board := tput 0 x.board i e.2 }, { a.2 with board := a.2.board ++ [(e.1, i)] })
      | none => a) (s, { c with lifted := [], board := [] })

/-- The scoreboards have room for the entries of a pre-empted task's copies. -/
def State.boardRoom (s : State) (k : QTask) : Bool :=
  let all := k.parked.copies.flatMap fun e => e.2.lifted
  all.all fun e => decide ((all.countP fun f => f.1 == e.1) ≤ (List.range 16).countP fun i => !bit (tget 0 (s.tile e.1).board i) 0)

/-- Parked copies go back to their engines. -/
def State.unparkCopies (s : State) (k : QTask) : State :=
  k.parked.copies.foldl (fun s e =>
    let r := s.reboard e.2
    { r.1 with copies := tmod [] r.1.copies e.1 (· ++ [r.2]) }) s

/-- A waiting command takes its result. -/
def State.answerWaits (s : State) (p : VarKind → Bool) (v : Word) : State :=
  s.mapOps fun o => if p o.what then { o with what := .value v } else o

/-- The streams' state when no task holds them. -/
def Tile.vacate (x : Tile) : Tile :=
  let keep (i : Nat) : Stream := { Stream.idle with pc := (x.stream i).pc, work := (x.stream i).work, sig := (x.stream i).sig }
  { x with
    task := none, oq := [], cb := [], cq := [], collect := none, held := false, handler := none, boardSince := none
    streams := tabOf Stream.idle 4 keep, sc := { x.sc with pend := [], ops := [] } }

/-- All acknowledgements are held: the task's state goes to its slot, and the task to the head of its queue (R255). -/
def State.saveTask (s : State) (t : Nat) : State :=
  match (s.tile t).task with
  | none => s
  | some k =>
    let s1 := s.spanWrite k.t.ctx (s.slotBytes t) 64 (s.slotVa k.t.ctx t) 0 slotRegs
    let s2 := s1.spanWrite k.t.ctx (s.slotBytes t) 8 (s.slotVa k.t.ctx t + slotRegs) slotRegs 0x1000
    let s3 := s2.spanWrite k.t.ctx (s.slotBytes t) 8 (s.slotVa k.t.ctx t + slotTask) slotTask 0x1000
    let x := s.tile t
    let back : QTask := { k.t with
      saved := true
      parked := { serial := k.serial, locks := k.locks, bars := x.bars, copyFail := x.copyFail
                  copies := (s.taskCopies t k.serial).map fun e => (e.1, s.parkedCopy t e.2) } }
    let s4 := (s3.parkCopies t k.serial).trace t 2 2 (3 + noticeTag k.t.desc * 2 ^ 8)
    (s4.modTile t fun x => (x.modQueue k.q fun y => { y with tasks := back :: y.tasks }).vacate).answerWaits
      (fun w => match w with | .preemption u => u == t | _ => false) 0

/-- The task's copies stop at their next pieces; when all have, the task is saved (R253). -/
def State.stopCopies (s : State) (t : Nat) : State :=
  let serial := ((s.tile t).task.map (·.serial)).getD 0
  let s1 := s.copiesOf t serial fun c => { c with stopping := true }
  if (s1.taskCopies t serial).all (·.2.atPiece) then s1.saveTask t else s1

/-- PREEMPT_STOP (R253-R255): the asked engine stops and acknowledges; the copies' acknowledgement completes the pre-emption. -/
def execPreemptStop (tile engine : Nat) (s : State) : Ans :=
  let x := s.tile tile
  match x.collect with
  | none => .next s
  | some c =>
    if engine ≠ askedAt c.stage || x.task.isNone || (x.task.bind (·.fatal)).isSome then .next s
    else if engine = 4 then .next (s.stopCopies tile)
    else if !s.atStop tile engine then .next s
    else
      let w : Who := .stream tile engine
      let idle := engine != 0 && (x.stream engine).blk.all (fun b => b.issued)
      let hw := if idle then 0 else s.insnAt w
      let stop : Stopped := { cause := .preempt, info := if s.barCounted w hw then 1 else 0, insn := hw, ccc := s.ccc, framed := false }
      let s1 := if (s.strm w).stop.isSome then s else (s.modStrm w fun st => { st with stop := some stop, stall := .none }).writeFrame w false
      .next (s1.modTile tile fun y =>
        { y with collect := some { c with stage := c.stage + 1 }, mx := if engine = 3 then { y.mx with run := false } else y.mx })

/-- Ask a tile's task to stop (R253), which ends a WFE (R358); a collection under way goes on. -/
def State.askPreempt (s : State) (t : Nat) : State :=
  s.modTile t fun x => if x.task.isSome && x.collect.isNone then { x.wakeControl with collect := some { stage := 0, since := s.ccc } } else x

/-- PREEMPT_TIMEOUT (R254). -/
def execPreemptTimeout (tile : Nat) (s : State) : Ans :=
  match (s.tile tile).collect with
  | none => .next s
  | some c =>
    if (s.ccc - c.since).toNat < cyclesOf (s.cxF (s.ctxOfTile tile) cPRETMO 0 20) || ((s.tile tile).task.bind (·.fatal)).isSome then .next s
    else .next (s.raiseIdle tile 0 .watchdogHang 0)

/-- HANG_TIMEOUT (R252): no stream of the task has issued for CTX.HANGTMO. -/
def execHangTimeout (tile : Nat) (s : State) : Ans :=
  let x := s.tile tile
  let us := s.cxF (s.ctxOfTile tile) cHANGTMO 0 20
  if us = 0 || x.task.isNone || (x.task.bind (·.fatal)).isSome || decide ((s.ccc - x.lastIssue).toNat < cyclesOf us) then .next s
  else .next (s.raiseIdle tile 0 .watchdogHang 0)

/-! ## Resumption from the slot (R255, R189) -/

/-- A block as the slot keeps it; its body is fetched again. -/
def Blk.of (v : Nat) : Option Blk :=
  if nfld v 106 1 = 0 then none
  else some { hdr := BitVec.ofNat 64 (nfld v 0 64), body := [], off := 0, iter := 0, count := nfld v 64 32, lock := nfld v 96 1 = 1,
              sfl := if nfld v 99 1 = 1 then some (nfld v 100 6) else none, issued := nfld v 98 1 = 1, entered := nfld v 97 1 = 1,
              set := BitVec.ofNat 4 (nfld v 118 4) }

/-- A stream from its frame: a stream that had trapped stays trapped, any other goes on (R254). -/
def State.resumeStream (s : State) (t k : Nat) : State :=
  let ctx := s.ctxOfTile t
  let h := s.physNat ctx (BitVec.ofNat 64 (s.frameVa ctx (.stream t k))) 64
  let work := (s.strm (.stream t k)).work
  -- the stream's work count stays the tile's: other tasks have issued since (R282)
  if nfld h 0 6 = Cause.preempt.code then (s.resumeFrame (.stream t k)).modStrm (.stream t k) fun st => { st with work := work }
  else
    let c := [Cause.feTrap, .divZero, .schedMiss, .scoreboardFull, .acqTimeout, .fenceRfTimeout, .publishConflict, .breakTrap, .matchpoint].find?
      fun c => c.code == nfld h 0 6
    let stop : Stopped := { cause := c.getD .undoLogFull, info := BitVec.ofNat 64 (nfld h 128 64), insn := BitVec.ofNat 32 (nfld h 32 32),
                            ccc := BitVec.ofNat 64 (nfld h 192 64), framed := true }
    (s.modStrm (.stream t k) fun st => { st with stop := some stop, pc := BitVec.ofNat 64 (nfld h 64 64) }).modTile t
      fun x => { x with held := true }

/-- A pre-empted task resumes from its slot in place of a start. -/
def State.resumeTask (s : State) (t q : Nat) (k : QTask) : State :=
  let m := s.spanRead k.ctx 64 (s.slotVa k.ctx t) 0 slotLen
  let s1 := s.modTile t fun x =>
    let y := x.ofSlot m
    let y1 := (List.range 4).foldl (fun y i => y.setStream i { y.stream i with blk := Blk.of (mval m (slotTask + 0x310 + 16 * i) 16), stop := none }) y
    let y2 : Tile := { y1 with
      serial := x.serial, rerun := x.rerun, collect := none, held := false, lastIssue := s.ccc
      bars := k.parked.bars, copyFail := k.parked.copyFail, image := getSpan m slotImage imageLen slotImage }
    -- the matrix stream's first instruction waits 64 cycles for each plane that is loaded again (R415)
    { y2.setStream 3 { y2.stream 3 with bubbles := 64 * y2.mx.planes.countP fun p => p.2.valid } with
      task := y2.task.map fun j => { j with t := { k with saved := false, parked := {} }, q := q, serial := k.parked.serial, locks := k.parked.locks } }
  let planes := ((s1.tile t).stream 3).bubbles
  let s2 := (List.range 4).foldl (fun s i => s.resumeStream t i) s1
  let s3 := s2.modStrm (.stream t 3) fun st => { st with bubbles := planes }
  s3.unparkCopies k

/-! ## The lottery (R189, R190) -/

/-- A queue may be drawn: its tickets, its head, and a context that is in RUN and not being destroyed (R257, R264). -/
def State.drawable (s : State) (t q : Nat) : Bool :=
  let x := s.tile t
  let y := x.queue q
  y.tickets != 0 && x.headStarts q && (match y.tasks with
    | k :: _ => s.mstate k.ctx == 0 && !s.destroying.contains k.ctx && s.boardRoom k
    | [] => false)

/-- X after a draw. -/
def lotteryNext (x : BitVec 32) : BitVec 32 :=
  let a := x ^^^ (x <<< 13)
  let b := a ^^^ (a >>> 17)
  b ^^^ (b <<< 5)

/-- The queue whose range of tickets holds v. -/
def ticketWalk (x : Tile) (v : Nat) : Nat → List Nat → Option Nat
  | _, [] => none
  | c, q :: qs =>
    let c1 := c + (x.queue q).tickets.toNat
    if v < c1 then some q else ticketWalk x v c1 qs

/-- The winner of a draw among eligible queues, X having advanced to x1. -/
def drawWinner (x : Tile) (x1 : BitVec 32) (el : List Nat) : Option Nat :=
  match el.find? (fun q => (x.queue q).starve == 4096) with
  | some q => some q
  | none => ticketWalk x (x1.toNat % (el.map fun q => (x.queue q).tickets.toNat).sum) 0 el

/-- LOTTERY_DRAW (R189, R190, R275): the winner's head starts with its undo window, or resumes. -/
def execLotteryDraw (tile : Nat) (s : State) : Ans :=
  let x := s.tile tile
  let el := (List.range 8).filter (s.drawable tile)
  if x.task.isSome || 2 ≤ x.left.length || el.isEmpty then .next s
  else
    let x1 := lotteryNext x.lotx
    match drawWinner x x1 el with
    | none => .next s
    | some w =>
      match (x.queue w).tasks with
      | [] => .next s
      | k :: rest =>
        let drawn (s : State) : State := s.modTile tile fun y =>
          let y1 := el.foldl (fun y q => y.modQueue q fun z => { z with starve := if q = w then 0 else min (z.starve + 1) 4096 }) { y with lotx := x1 }
          y1.modQueue w fun z => { z with tasks := rest }
        if k.saved then .next ((drawn s).resumeTask tile w k)
        else match s.reserveLen 0 tile k.ctx 16 0 with
          | .ok s1 => .next ((drawn (s1.unreserve 0 tile k.ctx 0)).startTask tile w k)
          | _ => .next s

/-! ## Retirement (R184) -/

/-- Release of the locks that a task still holds, as by REL; none: the undo log has no room, or a page is migrating (R121). -/
def State.releaseLocks (s : State) (t : Nat) (k : Task) : Option State :=
  k.locks.foldr (fun va (a : Option State) => a.bind fun s =>
    if s.rangeMoves k.t.ctx va 64 then none else
    match s.objectAt k.t.ctx va with
    | some (pa, v) =>
      if objEvent v || !objHeld v || objHolder v != t * 2 ^ 4 + k.serial.toNat * 2 ^ 20 then some s
      else match s.reserve 0 t k.t.ctx 3 va with
        | .ok s1 => some (s1.releaseObject 0 t k.t.ctx (s1.tile t).win va pa)
        | _ => none
    | none => some s) (some s)

/-- TASK_RETIRE (R184, R185, R211): the first left task with nothing outstanding releases its outputs and locks, and sends its notice;
one whose context is lost or being destroyed ends with status 1 (R257, R259). -/
def execTaskRetire (tile : Nat) (s : State) : Ans :=
  match (s.tile tile).left.find? (fun k => !s.outstanding tile k) with
  | none => .next s
  | some k =>
    if s.noticeWaits tile then .next s
    else if k.fatal.isSome then
      match s.releaseLocks tile k with
      | none => .next s
      | some s1 =>
        .next (((s1.forgetSent (.stream tile 0) k.serial.toNat).modTile tile fun x => { x with left := x.left.erase k }).notice tile k.t 1 0)
    else match ((s.taskRelease tile k (dOsync k.t.desc 0)).bind fun s1 => s1.taskRelease tile k (dOsync k.t.desc 1)).bind fun s2 =>
        s2.releaseLocks tile k with
      | none => .next s
      | some s3 =>
        .next ((((s3.forgetSent (.stream tile 0) k.serial.toNat).modTile tile fun x => { x with left := x.left.erase k }).trace tile 2 2 (2 + noticeTag k.t.desc * 2 ^ 8)).notice tile k.t 0 0)

/-! ## Removal and rerun (R186, R187, R256) -/

/-- The removed task's copies: those that have started stop where they are, and none goes on. -/
def State.dropCopies (s : State) (t : Nat) (serial : BitVec 16) : State :=
  let mine (c : Copy) : Bool := c.tile == some t && c.serial == serial
  let ents := s.copies.flatMap fun e => (e.2.filter mine).flatMap (·.board)
  let gone := s.taskCopies t serial
  State.unboard { s with
    copies := (s.copies.map fun e => (e.1, e.2.filter fun c => !mine c)).filter fun e => !e.2.isEmpty
    faultSigs := s.faultSigs.filter fun x => !gone.any fun e => e.1 == x.engine && e.2.after == x.copy } ents

/-- Writes that have left the task are still to be performed, a release waits for them, or a result is still on its way to its register
(R256 step 1). -/
def State.stillWriting (s : State) (t : Nat) (k : Task) : Bool :=
  let x := s.tile t
  s.stores.any (fun e => (e.who.bind Who.tile?) == some t && x.owns k e.win) || !x.mx.drains.isEmpty ||
    x.sc.ops.any fun o => match o.what with
      | .rel _ | .value _ | .load .. | .again .. | .reg _ | .atomic .. | .token => true
      | _ => false

/-- Frames of the stopped streams, with FATAL set. -/
def State.fatalFrames (s : State) (t : Nat) : State :=
  (List.range 4).foldl (fun s k =>
    let w : Who := .stream t k
    match (s.strm w).stop with
    | some p =>
      if p.framed then
        let ctx := s.ctxOfTile t
        let va := BitVec.ofNat 64 (s.frameVa ctx w + 1)
        s.physWrite ctx va [BitVec.ofNat 8 (s.physNat ctx va 1) ||| 2]
      else s.writeFrame w true
    | none => s) s

/-- Every fixed-latency result in flight is written. -/
def Scalars.flush (c : Scalars) : Scalars := { c.pend.foldl (fun c p => c.set p.reg p.val) c with pend := [], ops := [] }

/-- A removed task's notice, and its rerun when it may run again (R186). -/
def State.rerunOrAbort (s : State) (t : Nat) (k : Task) (again : Bool) : State :=
  let d := k.t.desc
  let early := k.etrig && dTagv d
  let d1 := setFld (setFld d 66 3 (dRetries d - 1)) 94 1 (if early || dReld d then 1 else 0)
  let next : QTask := { k.t with desc := d1, saved := false }
  let x := s.tile t
  let abort : State := (s.report .taskAbort k.t.ctx 0 t 0).notice t k.t 1 0
  if !again || !dRerun d || dRetries d = 0 then abort
  else if (x.queue k.q).tasks.length < 64 then (s.push t k.q next).notice t k.t 2 0
  else match x.rerun with
    | some _ => abort
    | none =>
      s.modTile t fun y => { y with rerun := some (k.q, next, BitVec.ofNat 128 (noticeLow t k.t 2 0)) }

/-- Remove the task that holds a tile's streams, after its writes: R256 steps 1 to 6; roll: step 5's rollback is made. -/
def State.removeTask (s : State) (t : Nat) (k : Task) (roll : Bool) : Option State :=
  let c := k.t.ctx
  let s1 := (s.modTile t fun x => { x with sc := x.sc.flush }).fatalFrames t
  let s2 : State := { s1.modTile t (fun x => { x.vacate with flags := [], mx := { x.mx with runs := [] } }) with
    pubs := s1.pubs.filter fun p => (p.who.bind Who.tile?) != some t }
  let gone := !passed32 k.firstWin (BitVec.ofNat 32 (s.cxF c cUNDOWIN 0 32))
  let s3 := if roll then ((s2.forgetSent (.stream t 0) k.serial.toNat).rollWindow t c k.firstWin).2 else s2.forgetSent (.stream t 0) k.serial.toNat
  (s3.releaseLocks t k).map fun s4 =>
    (s4.rerunOrAbort t k (roll && !gone)).answerWaits (fun w => match w with | .preemption u => u == t | _ => false) 0

/-- Tasks of a context that is lost or being destroyed are removed without rollback (R257, R259). -/
def State.rollsBack (s : State) (c : Nat) : Bool := !s.destroying.contains c && s.mstate c != 4

/-- A pre-empted task that waits in a queue of a tile, its context being lost or destroyed. -/
def State.doomed (s : State) (t : Nat) : Option (Nat × QTask) :=
  (List.range 8).findSome? fun q => (((s.tile t).queue q).tasks.find? fun k => k.saved && !s.rollsBack k.ctx).map (q, ·)

/-- A pre-empted task is removed: its copies' entries free, its locks are released, and its notice has status 1 (R257, R259). -/
def State.removeSaved (s : State) (t q : Nat) (k : QTask) : Option State :=
  let j : Task := { t := k, q := q, serial := k.parked.serial, firstWin := 0, etrig := false, locks := k.parked.locks, fatal := some .taskAbort }
  let s1 := (s.modTile t fun x => x.modQueue q fun y => { y with tasks := y.tasks.erase k }).unboard (k.parked.copies.flatMap (·.2.board))
  ((s1.forgetSent (.stream t 0) k.parked.serial.toNat).releaseLocks t j).map fun s2 => (s2.report .taskAbort k.ctx 0 t 0).notice t k 1 0

/-- TASK_REMOVAL (R256): the task's engines are flushed first, and the rest follows when its writes are performed; a lost or destroyed
context's pre-empted tasks are removed from their queues. -/
def execTaskRemoval (tile : Nat) (s : State) : Ans :=
  if s.noticeWaits tile then .next s
  else match s.doomed tile with
  | some (q, k) => .next ((s.removeSaved tile q k).getD s)
  | none => match (s.tile tile).task with
  | none => .next s
  | some k =>
    if k.fatal.isNone then .next s
    else
      let s1 := (s.copiesOf tile k.serial fun c => { c with stopping := true }).modTile tile fun x =>
        { x with cq := [], mx := { x.mx with runs := [] }, oq := [], cb := [] }
      if s1.stillWriting tile k || !(s1.taskCopies tile k.serial).all (·.2.atPiece) then .next s1
      else match (s1.dropCopies tile k.serial).removeTask tile k (s.rollsBack k.t.ctx) with
        | some s2 => .next s2
        | none => .next s1

/-- RERUN_SLOT_ENTRY (R186): the waiting descriptor enters its queue in the first cycle with room, and the notice with status 2 is sent once the
completion FIFO has room. -/
def execRerunSlotEntry (tile : Nat) (s : State) : Ans :=
  let s1 := match (s.tile tile).rerun with
    | some (q, k, n) =>
      if 64 ≤ ((s.tile tile).queue q).tasks.length then s
      else (s.modTile tile fun x => { x with rerun := none, late := x.late ++ [n] }).push tile q k
    | none => s
  match (s1.tile tile).late with
  | [] => .next s1
  | n :: rest =>
    if s1.fifoFull then .next s1
    else
      let s2 := s1.modTile tile fun x => { x with late := rest }
      .next { s2 with sched := { s2.sched with fifo := s2.sched.fifo ++ [(n ||| BitVec.ofNat 128 (s.ccc.toNat * 2 ^ 64), none)] } }

/-! ## Ownership (R201) -/

/-- X of a tile whose owner changes (R190). -/
def lotterySeed (t : Nat) : BitVec 32 := BitVec.ofNat 32 (t * 0x9E3779B9 + 1)

/-- The tile holds a task or a queued descriptor. -/
def Tile.holdsWork (x : Tile) : Bool := x.task.isSome || !x.left.isEmpty || x.rerun.isSome || x.tq.any fun q => !q.2.tasks.isEmpty

/-- TOWN_WRITE (R201, R190): refused while the tile holds work; a register write has no answer that could carry BUSY (log entry 125). -/
def execTownWrite (tile : Nat) (value : BitVec 64) (s : State) : Ans :=
  let old := s.reg (offTown tile)
  let new := value &&& 0x7F
  if bit old 0 && (s.tile tile).holdsWork then .next s
  else
    let s1 := s.setReg (offTown tile) new
    let taken := bit new 0 && (!bit old 0 || fld old 1 6 != fld new 1 6)
    .next (if taken then s1.modTile tile fun x => { x with lotx := lotterySeed tile } else s1)

end Sys2Proof.Machine
end

