-- ==== Sys2Proof/Machine/Sched.lean ====
section
/-! DEFINITION. The scheduler (R194-R200, R207-R210, R454): itineraries, kicks, patch lists, runs, the journal and the take-over;
and the scheduling commands (R430-R433). -/
namespace Sys2Proof.Machine
open Sys2Proof

/-! ## Directory entries (R194) and nodes (R196) -/

def State.itin (s : State) (n : Nat) : BitVec 256 := s.reg256 (offItin n)
def State.modItin (s : State) (n : Nat) (f : BitVec 256 → BitVec 256) : State := s.setReg256 (offItin n) (f (s.itin n))

def iValid (e : BitVec 256) : Bool := bit e 0
def iCtx (e : BitVec 256) : Nat := fld e 1 6
def iRun (e : BitVec 256) : Bool := bit e 7
def iPend (e : BitVec 256) : Bool := bit e 8
def iNodes (e : BitVec 256) : Nat := fld e 16 16 + 1
def iBase (e : BitVec 256) : Nat := fld e 32 26
def iPaddr (e : BitVec 256) : Nat := fld e 64 26
def iPcnt (e : BitVec 256) : Nat := fld e 90 16
def iDonecnt (e : BitVec 256) : Nat := fld e 128 14
def iDcv (e : BitVec 256) : Bool := bit e 142
def iRuns (e : BitVec 256) : Nat := fld e 160 32
def iLeft (e : BitVec 256) : Nat := fld e 192 17

/-- Ferry SRAM bytes. -/
def State.sramNat (s : State) (a n : Nat) : Nat := mval s.sram a n
def State.sramPut (s : State) (a n v : Nat) : State := { s with sram := mwrites s.sram a (leBytes n v) }

def nodeAt (e : BitVec 256) (i : Nat) : Nat := iBase e + 256 * i

/-- A node's template and control word. -/
def State.template (s : State) (a : Nat) : BitVec 1024 := BitVec.ofNat 1024 (s.sramNat a 128)
def State.control (s : State) (a : Nat) : BitVec 256 := BitVec.ofNat 256 (s.sramNat (a + 128) 32)
def State.modControl (s : State) (a : Nat) (f : BitVec 256 → BitVec 256) : State := s.sramPut (a + 128) 32 (f (s.control a)).toNat

def nDeps (v : BitVec 256) : Nat := fld v 0 16
def nRdeps (v : BitVec 256) : Nat := fld v 16 16
def nRect (v : BitVec 256) : Nat := fld v 32 14
def nQ (v : BitVec 256) : Nat := fld v 46 3
def nState (v : BitVec 256) : Nat := fld v 49 3
def nRemrel (v : BitVec 256) : Nat := fld v 64 9
def nRemret (v : BitVec 256) : Nat := fld v 73 9

/-- A node's successors. -/
def State.succs (s : State) (a : Nat) : List Nat :=
  let v := s.control a
  (List.range (fld v 96 16)).map fun j => if j < 48 then s.sramNat (a + 160 + 2 * j) 2 else s.sramNat (fld v 128 26 + 2 * (j - 48)) 2

/-- A range lies in a context's region of Ferry SRAM, whatever the privilege (R422). -/
def State.regionHas (s : State) (c addr n : Nat) : Bool :=
  let v := s.reg (offCsram c)
  bit v 0 && decide (fld v 1 14 * 4096 ≤ addr) && decide (addr + n ≤ fld v 1 14 * 4096 + fld v 15 15 * 4096)

/-- A rectangle of R195 condition 6. -/
def State.rectOwned (s : State) (c code : Nat) : Bool := rectOk code && (rectTiles code).all fun t => s.tileCtx t == some c

/-! ## ITIN_WRITE (R195) -/

/-- Nodes left after removing those that no left node names as a successor, n times. -/
def cycleLeft (succs : Nat → List Nat) : Nat → List Nat → List Nat
  | 0, l => l
  | n + 1, l => cycleLeft succs n (l.filter fun i => l.any fun j => (succs j).contains i)

/-- The first breach: a condition and a node. -/
def State.itinBreach (s : State) (e : BitVec 256) : Option (Nat × Nat) :=
  let n := iNodes e
  let nodes := List.range n
  let first (c : Nat) (bad : Nat → Bool) : Option (Nat × Nat) := (nodes.find? bad).map fun i => (c, i)
  let succs (i : Nat) : List Nat := s.succs (nodeAt e i)
  let ctl (i : Nat) : BitVec 256 := s.control (nodeAt e i)
  (((((first 1 fun i =>
      let a := nodeAt e i
      decide (a < 0x2000000) || decide (0x4000000 < a + 256) || !s.regionHas (iCtx e) a 256).or
    (first 2 fun i => let v := ctl i; fld v 52 12 != 0 || fld v 82 14 != 0 || fld v 112 16 != 0 || fld v 154 102 != 0 ||
      descBad (descUntagged (s.template (nodeAt e i))))).or
    (first 3 fun i => (succs i).any fun j => n ≤ j)).or
    (first 4 fun i => nDeps (ctl i) != (nodes.map fun j => (succs j).count i).sum)).or
    (((cycleLeft succs n nodes).head?).map fun i => (5, i))).or
    (first 6 fun i => !s.rectOwned (iCtx e) (nRect (ctl i)))

/-- The fields of a directory entry that software writes, word by word. -/
def itinMask (word : Nat) : Word :=
  if word = 0 then 0x03FFFFFFFFFF007F else if word = 2 then 0x7FFF else 0

/-- ITIN_WRITE (R194, R195): during a run, or with a kick pending, only DCV and DONECNT change. -/
def execItinWrite (n word : Nat) (value : BitVec 64) (s : State) : Ans :=
  let e := s.itin n
  if 4 ≤ word || ((iRun e || iPend e) && word != 2) then .next s
  else
    let w := (wordOf e word &&& ~~~ itinMask word) ||| (value &&& itinMask word)
    let e1 := setWord e word w
    if word = 0 && bit value 0 then
      match s.itinBreach e1 with
      | some (c, i) =>
        .next ((s.modItin n fun _ => setFld e1 0 1 0).setReg offIerr (BitVec.ofNat 64 (c + n % 256 * 2 ^ 3 + i % 2 ^ 16 * 2 ^ 11)))
      | none => .next (s.modItin n fun _ => e1)
    else .next (s.modItin n fun _ => e1)

/-! ## The journal (R208, R454) -/

/-- Append a record with a SEQ. -/
def State.journalAt (s : State) (kind itin node run tile q : Nat) (seq : Word) (arg : Nat) : State :=
  let w0 := kind + itin % 256 * 2 ^ 4 + node % 2 ^ 16 * 2 ^ 12 + run % 2 ^ 16 * 2 ^ 28 + tile % 256 * 2 ^ 44 + q % 8 * 2 ^ 52
  let k := s.sched
  let s1 := s.sramPut (k.jbase + 32 * (k.jpos % max 1 k.jsize)) 32 (w0 + seq.toNat * 2 ^ 64 + arg % 2 ^ 64 * 2 ^ 128 + s.ccc.toNat * 2 ^ 192)
  { s1 with sched := { s1.sched with jpos := (k.jpos + 1) % max 1 k.jsize, since := k.since + 1 } }

/-- A CKPT record before an intent and its DONE would make more than 4,096 records since the last. Every intent has its DONE then: an intent is
written when its step is made, and only a take-over's repeated pushes wait with theirs, while HOLD keeps every other record away (R208, R209). -/
def State.checkpointJournal (s : State) : State :=
  let k := s.sched
  if k.since < 4094 || k.pushes.any (·.seq.isSome) then s
  else
    let s1 := s.journalAt 8 0 0 0 0 0 k.seq 0
    { s1 with sched := { s1.sched with ckpt := k.seq, seq := k.seq + 1, since := 0 } }

/-- An intent and, after its step, its DONE. -/
def State.journalled (s : State) (kind itin node run tile q arg : Nat) (step : State → State) : State :=
  let s0 := s.checkpointJournal
  let seq := s0.sched.seq
  let s1 := s0.journalAt kind itin node run tile q seq arg
  let s2 := step { s1 with sched := { s1.sched with seq := seq + 1 } }
  s2.journalAt 7 itin node run tile q seq 0

/-! ## Kicks (R197) -/

/-- The pending bit of an itinerary. -/
def State.pending? (s : State) (i : Nat) : Bool := bit (s.reg (offPkb (i / 64))) (i % 64)

def State.setPending (s : State) (i : Nat) (v : Bool) : State :=
  (s.setRegF (offPkb (i / 64)) (i % 64) 1 (if v then 1 else 0)).modItin i fun e => setFld e 8 1 (if v then 1 else 0)

/-- A kick: the pending bit, PADDR and PCNT. -/
def State.kickItin (s : State) (i addr n : Nat) : State :=
  (s.setPending i true).modItin i fun e => setFld (setFld e 64 26 addr) 90 16 n

/-- VALID, and of the context. -/
def State.itinOk (s : State) (c i : Nat) : Bool := iValid (s.itin i) && (iCtx (s.itin i) == c || s.sysPriv c)

/-! ## Patch lists (R198) -/

/-- An entry of a patch list that the list is refused for. -/
def State.patchBad (s : State) (e : BitVec 256) (w0 v : Nat) : Bool :=
  let wide (bits : Nat) : Bool := decide (2 ^ bits ≤ v)
  decide (iNodes e ≤ nfld w0 0 16) || nfld w0 24 40 != 0 ||
    (match nfld w0 16 8 with
     | 0x08 => wide 57 || v % 2 != 0
     | 0x09 => decide (512 < v)
     | 0x0A => wide 3
     | 0x0B => wide 14 || !s.rectOwned (iCtx e) v
     | 0x0C | 0x0D => wide 57 || v % 64 != 0
     | 0x0E => wide 15
     | f => decide (7 < f))

/-- Where a FIELD lies in a node: bit offset and width. -/
def patchField (f : Nat) : Nat × Nat :=
  match f with
  | 0x08 => (0, 57)
  | 0x09 => (84, 10)
  | 0x0A => (1024 + 46, 3)
  | 0x0B => (1024 + 32, 14)
  | 0x0C => (128, 57)
  | 0x0D => (192, 57)
  | 0x0E => (69, 15)
  | _ => (512 + 64 * f, 64)

/-- Entries of a list, as word 0 and word 1. -/
def State.patchList (s : State) (addr n : Nat) : List (Nat × Nat) := (List.range n).map fun i => (s.sramNat (addr + 16 * i) 8, s.sramNat (addr + 16 * i + 8) 8)

/-- Apply one entry; FIELD 0x0E gives DCV in its bit 14 and DONECNT below. -/
def State.patchOne (s : State) (e : BitVec 256) (p : Nat × Nat) : State :=
  let f := nfld p.1 16 8
  let a := nodeAt e (nfld p.1 0 16)
  let v := if f = 0x0E then nfld p.2 14 1 + nfld p.2 0 14 * 2 else p.2
  let place := patchField f
  s.sramPut a 160 (setFld (BitVec.ofNat 1280 (s.sramNat a 160)) place.1 place.2 v).toNat

def State.patchApply (s : State) (e : BitVec 256) (l : List (Nat × Nat)) : State := l.foldl (fun s p => s.patchOne e p) s

/-! ## Runs (R199) -/

/-- Nodes of an itinerary that a predicate picks. -/
def State.nodesWhere (s : State) (e : BitVec 256) (p : BitVec 256 → Bool) : List Nat :=
  (List.range (iNodes e)).filter fun i => p (s.control (nodeAt e i))

/-- Pushes of a node join those to be made: before those of higher nodes of its itinerary, but behind a node whose pushes have begun (R199). -/
def addPushes (new : List Push) (i node : Nat) : List Push → List Push
  | [] => new
  | p :: rest => if p.itin == i && p.seq.isNone && decide (node < p.node) then new ++ p :: rest else p :: addPushes new i node rest

/-- A node becomes READY; its pushes join those to be made, in row order, unless its run is failing (R199, R200). -/
def State.readyNode (s : State) (i node : Nat) : State :=
  let e := s.itin i
  let a := nodeAt e node
  let s1 := s.journalled 3 i node (iRuns e) 0 0 0 fun s => s.modControl a fun v => setFld v 49 3 1
  let v := s1.control a
  let tiles := rectTiles (nRect v)
  let pushes := tiles.map fun t => ({ itin := i, node := node, tile := t, q := nQ v, last := tiles.getLast? == some t, seq := none } : Push)
  if s1.sched.failing.contains i then s1
  else
    let l := s1.sched.pushes
    let begun := match l with
      | p :: _ => if s1.sched.started.any (fun k => k.1 == p.itin && k.2.1 == p.node) then l.takeWhile fun x => x.itin == p.itin && x.node == p.node else []
      | [] => []
    { s1 with sched := { s1.sched with pushes := begun ++ addPushes pushes i node (l.drop begun.length) } }

/-- The task of a push, tagged (R199). -/
def State.pushTask (s : State) (p : Push) : QTask :=
  let e := s.itin p.itin
  let a := nodeAt e p.node
  { desc := descTagged (s.template a) p.itin p.node (iRuns e), ctx := iCtx e, rect := BitVec.ofNat 14 (nRect (s.control a)), saved := false }

/-- The journal's records after the last CKPT, in SEQ order. -/
def State.journalRecords (s : State) : List (Nat × Word × Nat) :=
  let k := s.sched
  let all := (List.range k.jsize).map fun j =>
    let v := s.sramNat (k.jbase + 32 * ((k.jpos + j) % max 1 k.jsize)) 32
    (nfld v 0 64, BitVec.ofNat 64 (nfld v 64 64), nfld v 128 64)
  all.filter fun r => nfld r.1 0 4 != 0 && nfld r.1 0 4 != 8 && decide (0 < (r.2.1 - k.ckpt).toNat) && decide ((r.2.1 - k.ckpt).toNat < 2 ^ 63)

/-- A task with the push's tag stands on the tile, its notice in the FIFO, or a NOTICE record of it after the CKPT (R209). -/
def State.pushRepeated (s : State) (p : Push) : Bool :=
  let x := s.tile p.tile
  let tag := noticeTag (s.pushTask p).desc
  let same (k : QTask) : Bool := noticeTag k.desc == tag
  let noted (w0 : Nat) : Bool := nfld w0 0 4 == 5 && nfld w0 4 8 == p.itin && nfld w0 12 16 == p.node && nfld w0 28 16 == iRuns (s.itin p.itin) % 65536 &&
    nfld w0 44 8 == p.tile
  (x.queue p.q).tasks.any same || x.rerun.any (fun r => same r.2.1) || x.task.any (fun k => same k.t) || x.left.any (fun k => same k.t) ||
    (s.sched.fifo.any fun f => fld f.1 0 8 == p.tile && fld f.1 11 41 == tag) || s.journalRecords.any fun r => noted r.1

/-- A tile of a node is counted out: REMRET falls, and LEFT with the last. -/
def State.countOut (s : State) (i node tile : Nat) (done : Bool) : State :=
  let e := s.itin i
  let a := nodeAt e node
  let n := nRemret (s.control a) - 1
  let s1 := s.modControl a fun v => let v1 := setFld v 73 9 n; if n = 0 && done then setFld v1 49 3 4 else v1
  let s2 := if n = 0 then s1.modItin i fun e => setFld e 192 17 (iLeft e - 1) else s1
  { s2 with sched := { s2.sched with started := s2.sched.started.erase (i, node, tile) } }

/-- R200: the run's tasks that have not started leave the queues and the rerun slots, and are counted out; an intent to push that is dropped
has its DONE. -/
def State.discardRun (s : State) (i : Nat) : State :=
  let e := s.itin i
  let drop := s.sched.pushes.filter fun p => p.itin == i
  let s00 := drop.foldl (fun s p => match p.seq with
    | some q => s.journalAt 7 p.itin p.node (iRuns e) p.tile p.q q 0
    | none => s) s
  let s0 : State := { s00 with sched := { s00.sched with pushes := s00.sched.pushes.filter fun p => p.itin != i } }
  (List.range 256).foldl (fun s t =>
    let x := s.tile t
    let mine (k : QTask) : Bool := dTagv k.desc && dItin k.desc == i && dRun k.desc == iRuns e % 65536 && !k.saved
    let gone := (x.tq.flatMap fun q => q.2.tasks.filter mine) ++ (match x.rerun with
      | some r => if mine r.2.1 then [r.2.1] else []
      | none => [])
    let s1 := s.modTile t fun y =>
      { y with
        tq := (y.tq.map fun q => (q.1, { q.2 with tasks := q.2.tasks.filter fun k => !mine k })).filter fun q => q.2 != TaskQueue.idle
        rerun := match y.rerun with
          | some r => if mine r.2.1 then none else some r
          | none => none }
    gone.foldl (fun s k => s.countOut i (dNode k.desc) t false) s1) s0

/-- The run of an itinerary is failing (R200). -/
def State.failRun (s : State) (i : Nat) : State :=
  { s with sched := { s.sched with failing := if s.sched.failing.contains i then s.sched.failing else i :: s.sched.failing } }

/-- A CINC by the scheduler, on a valid counter. -/
def State.schedInc (s : State) (n : Option Nat) : State :=
  match n with
  | some k => if bit (s.reg (offCntCtl k)) 0 then s.addCounter k 1 none else s
  | none => s

/-- The end of a run (R199 step 5, R200). -/
def State.endItinRun (s : State) (i : Nat) : State :=
  let e := s.itin i
  if !iRun e then s
  else if s.sched.failing.contains i then
    if s.sched.started.any (fun p => p.1 == i) then s
    else
      let s1 := s.journalled 6 i 0 (iRuns e) 0 0 0 fun s => s.modItin i fun e => setFld (setFld e 7 1 0) 9 1 1
      { s1 with sched := { s1.sched with failing := s1.sched.failing.filter (· != i) } }
  else if iLeft e = 0 then
    s.journalled 6 i 0 (iRuns e) 0 0 0 fun s => (s.modItin i fun e => setFld e 7 1 0).schedInc (if iDcv e then some (iDonecnt e) else none)
  else s

/-- A push is refused (R182, R201): its stored template has since been given what a push refuses, or its tile another owner. -/
def State.pushRefused (s : State) (p : Push) : Option Cause :=
  if descBad (descUntagged (s.template (nodeAt (s.itin p.itin) p.node))) then some .rsvField
  else if s.tileCtx p.tile = some (iCtx (s.itin p.itin)) then none
  else some .perm

/-- A refused push: its FLOG record and report; its tile counts as one whose task failed, and the run ends as a failure (log entry 124). -/
def State.refusePush (s : State) (p : Push) (c : Cause) : State :=
  let e := s.itin p.itin
  let f := s.flog 0xFFFF 0 c (iCtx e) 3
  ((((f.2.report c (iCtx e) 6 0 f.1).failRun p.itin).discardRun p.itin).countOut p.itin p.node p.tile false).endItinRun p.itin

/-- Make pushes while their queues have room, each with its intent and its DONE. -/
def State.makePushes (s : State) : Nat → State
  | 0 => s
  | n + 1 =>
    match s.sched.pushes with
    | [] => s
    | p :: rest =>
      let run := iRuns (s.itin p.itin)
      let again := p.seq.isSome && s.pushRepeated p
      let refused := if again then none else s.pushRefused p
      if !again && refused.isNone && decide (64 ≤ ((s.tile p.tile).queue p.q).tasks.length) then s
      else
        let s1 := match p.seq with
          | some _ => s
          | none =>
            let s0 := s.checkpointJournal
            let s1 := s0.journalAt 4 p.itin p.node run p.tile p.q s0.sched.seq 0
            { s1 with sched := { s1.sched with seq := s0.sched.seq + 1, pushes := { p with seq := some s0.sched.seq } :: rest } }
        match refused with
        | some c => (s1.refusePush p c).makePushes n
        | none =>
          let seq := ((s1.sched.pushes.head?).bind (·.seq)).getD 0
          let s2 := if again then s1 else s1.push p.tile p.q (s1.pushTask p)
          let s3 := if p.last then s2.modControl (nodeAt (s2.itin p.itin) p.node) fun v => setFld v 49 3 2 else s2
          let s4 := s3.journalAt 7 p.itin p.node run p.tile p.q seq 0
          let start := (p.itin, p.node, p.tile)
          State.makePushes { s4 with sched := { s4.sched with pushes := rest, started := if s4.sched.started.contains start then s4.sched.started else start :: s4.sched.started } } n

/-- HOLD ends once the journal's pushes are made and the held notices taken (R209). -/
def State.endHold (s : State) : State :=
  if s.regF offSchedCtl 13 1 = 1 && !s.sched.stopped && s.sched.fifo.isEmpty && s.sched.pushes.all (fun p => p.seq.isNone) then
    s.setRegF offSchedCtl 13 1 0
  else s

def State.held (s : State) : Bool := s.regF offSchedCtl 13 1 == 1

/-- The itinerary served next: pending with no run, first after the one last served. -/
def State.nextKick (s : State) : Option Nat :=
  firstBelow (fun j => s.pending? (j % 256) && !iRun (s.itin (j % 256))) 256 (s.sched.served + 1)

/-- KICK_EXPAND (R199 steps 1-3, R198): waiting pushes are tried first. -/
def execKickExpand (s : State) : Ans :=
  if s.sched.stopped then .next s
  else
    let s0 := (s.makePushes s.sched.pushes.length).endHold
    if s0.held then .next s0
    else match s0.nextKick with
      | none => .next s0
      | some j =>
        let i := j % 256
        let e := s0.itin i
        let l := s0.patchList (iPaddr e) (iPcnt e)
        let arg := iPaddr e + iPcnt e * 2 ^ 26
        let run := iRuns e + 1
        let s1 : State := { s0 with sched := { s0.sched with served := i } }
        if l.any fun p => s0.patchBad e p.1 p.2 then
          -- the clearing of the bit is journalled as a patch of no entries (log entry 128)
          let f := (s1.journalled 2 i 0 (iRuns e) 0 0 0 fun s => s.setPending i false).flog 0xFFFF 0 .rsvField (iCtx e) 3
          .next (f.2.report .rsvField (iCtx e) 6 0 f.1)
        else
          let s2 := if l.isEmpty then s1 else s1.journalled 2 i 0 run 0 0 arg fun s => s.patchApply e l
          let s3 := s2.journalled 1 i 0 run 0 0 arg fun s =>
            let s' := (s.setPending i false).modItin i fun e =>
              setFld (setFld (setFld (setFld e 7 1 1) 9 1 0) 160 32 (iRuns e + 1)) 192 17 (iNodes e)
            (List.range (iNodes e)).foldl (fun s k => s.modControl (nodeAt e k) fun v =>
              let tiles := (rectTiles (nRect v)).length
              setFld (setFld (setFld (setFld v 16 16 (nDeps v)) 64 9 tiles) 73 9 tiles) 49 3 0) s'
          let roots := s3.nodesWhere e fun v => nDeps v == 0
          let s4 : State := { s3 with sched := { s3.sched with
            failing := s3.sched.failing.filter (· != i), started := s3.sched.started.filter (fun p => p.1 != i)
            early := s3.sched.early.filter (fun p => p.1 != i) } }
          let s5 := roots.foldl (fun s k => s.readyNode i k) s4
          .next (s5.makePushes s5.sched.pushes.length)

/-! ## Notices (R185, R199, R200) -/

/-- A node whose last predecessor was released becomes READY (R199 step 4). -/
def State.releaseNode (s : State) (i node : Nat) : State :=
  let e := s.itin i
  let a := nodeAt e node
  let s1 := s.modControl a fun v => setFld v 49 3 3
  let s2 := (s.succs a).foldl (fun s j => s.modControl (nodeAt e j) fun v => setFld v 16 16 (nRdeps v - 1)) s1
  let ready := (List.range (iNodes e)).filter fun j => (s.succs a).contains j && nRdeps (s2.control (nodeAt e j)) == 0 && nState (s2.control (nodeAt e j)) == 0
  ready.foldl (fun s j => s.readyNode i j) s2

/-- NOTICE_TAKE (R199 step 4, R185, R187, R200, R454). -/
def execNoticeTake (s : State) : Ans :=
  if s.sched.stopped || s.eventsStall || (s.held && s.sched.pushes.any (·.seq.isSome)) then .next s
  else match s.sched.fifo with
    | [] => .next s.endHold
    | (v, dcv) :: rest =>
      let s0 : State := { s with sched := { s.sched with fifo := rest } }
      let tile := fld v 0 8
      let st := fld v 8 2
      let early := bit v 10
      let i := fld v 12 8
      let node := fld v 20 16
      let e := s.itin i
      let counted (s : State) : State := if !early && st ≤ 1 then s.schedInc dcv else s
      if !bit v 11 || !iRun e || fld v 36 16 ≠ iRuns e % 65536 || iNodes e ≤ node || st = 2 then .next (counted s0).endHold
      else
        let a := nodeAt e node
        let key := (i, node, tile)
        let releases := early || (st = 0 && !bit v 58 && !s.sched.early.contains key)
        let retires := !early
        let c := s.control a
        let rel := nRemrel c - (if releases then 1 else 0)
        let ret := nRemret c - (if retires then 1 else 0)
        let left := iLeft e - (if retires && ret = 0 then 1 else 0)
        let arg := st + (if early then 4 else 0) + rel * 2 ^ 3 + ret * 2 ^ 12 + left * 2 ^ 21
        let s1 := s0.journalled 5 i node (iRuns e) tile 0 arg fun s =>
          let s1 := if st = 1 then s.failRun i else s
          let s2 := if early then { s1 with sched := { s1.sched with early := key :: s1.sched.early } } else s1
          let s3 := if releases then s2.modControl a fun v => setFld v 64 9 rel else s2
          let s4 := if releases && rel = 0 then s3.releaseNode i node else s3
          let s5 := if retires then s4.countOut i node tile (st == 0) else s4
          counted (if st = 1 then s5.discardRun i else s5)
        let s2 := s1.endItinRun i
        .next ((s2.makePushes s2.sched.pushes.length).endHold)

/-! ## Take-wide (R209, R210) -/

/-- Re-apply a record that has its DONE (R454). -/
def State.reapply (s : State) (w0 arg : Nat) : State :=
  let i := nfld w0 4 8
  let node := nfld w0 12 16
  let e := s.itin i
  let a := nodeAt e node
  match nfld w0 0 4 with
  | 2 => s.patchApply e (s.patchList (nfld arg 0 26) (nfld arg 26 16))
  | 1 =>
    let s1 := s.modItin i fun e =>
      let e1 := setFld (setFld (setFld e 7 1 1) 9 1 0) 192 17 (iNodes e)
      if iRuns e % 65536 = nfld w0 28 16 then e1 else setFld e1 160 32 (iRuns e + 1)
    (List.range (iNodes e)).foldl (fun s k => s.modControl (nodeAt e k) fun v =>
      let tiles := (rectTiles (nRect v)).length
      setFld (setFld (setFld (setFld v 16 16 (nDeps v)) 64 9 tiles) 73 9 tiles) 49 3 0) s1
  | 3 => s.modControl a fun v => setFld v 49 3 1
  | 4 => if (rectTiles (nRect (s.control a))).getLast? = some (nfld w0 44 8) then s.modControl a fun v => setFld v 49 3 2 else s
  | 5 =>
    let rel := nfld arg 3 9
    let ret := nfld arg 12 9
    let s1 := s.modControl a fun v =>
      let v1 := setFld (setFld v 64 9 rel) 73 9 ret
      if ret = 0 then setFld v1 49 3 4 else if rel = 0 then setFld v1 49 3 3 else v1
    let s2 := s1.modItin i fun e => setFld e 192 17 (nfld arg 21 16)
    let out (s : State) (j : Nat) : Nat := ((List.range (iNodes e)).filter fun k => 3 ≤ nState (s.control (nodeAt e k)) && (s.succs (nodeAt e k)).contains j).length
    (s2.succs a).foldl (fun s j => s.modControl (nodeAt e j) fun v => setFld v 16 16 (nDeps v - out s j)) s2
  | 6 => s.modItin i fun e => setFld e 7 1 0
  | _ => s

/-- Carry out an intent that has no DONE. -/
def State.carryOut (s : State) (w0 : Nat) (seq : Word) (arg : Nat) : State :=
  let i := nfld w0 4 8
  let node := nfld w0 12 16
  let done (s : State) : State := s.journalAt 7 i node (nfld w0 28 16) (nfld w0 44 8) (nfld w0 52 3) seq 0
  match nfld w0 0 4 with
  | 4 =>
    let tiles := rectTiles (nRect (s.control (nodeAt (s.itin i) node)))
    let p : Push := { itin := i, node := node, tile := nfld w0 44 8, q := nfld w0 52 3, last := tiles.getLast? == some (nfld w0 44 8), seq := some seq }
    { s with sched := { s.sched with pushes := p :: s.sched.pushes.filter fun x => x.seq != some seq } }
  | 1 => done ((s.setPending i false).reapply w0 arg)
  | 5 =>
    let d := s.template (nodeAt (s.itin i) node)
    done ((s.reapply w0 arg).schedInc (if nfld arg 2 1 = 0 && nfld arg 0 2 ≤ 1 && dDcv d then some (dDonecnt d) else none))
  | 2 => done (if nfld arg 26 16 = 0 then s.setPending i false else s.reapply w0 arg)
  | 6 =>
    let e := s.itin i
    done ((s.reapply w0 arg).schedInc (if iDcv e then some (iDonecnt e) else none))
  | _ => done (s.reapply w0 arg)

/-- Replay the journal: intents in SEQ order (R209). -/
def State.replayJournal (s : State) : State :=
  let recs := s.journalRecords
  let intents := recs.filter fun r => nfld r.1 0 4 != 7
  let dones := (recs.filter fun r => nfld r.1 0 4 == 7).map (·.2.1)
  let last := (intents.map fun r => r.2.1.toNat).foldl max s.sched.ckpt.toNat
  let s1 := intents.foldl (fun s r => if dones.contains r.2.1 then s.reapply r.1 r.2.2 else s.carryOut r.1 r.2.1 r.2.2) s
  let s2 := s1.setRegF offSchedCtl 14 12 last
  (({ s2 with sched := { s2.sched with seq := BitVec.ofNat 64 (max s2.sched.seq.toNat (last + 1)) } } : State).makePushes s2.sched.pushes.length).endHold

/-- The scheduler's thread group starts: JBASE and JSIZE take effect, and the journal is replayed (R74, R210). -/
def State.startSched (s : State) : State :=
  State.replayJournal { s with sched := { s.sched with stopped := false, jbase := s.regF offJbase 0 26, jsize := s.regF offJsize 0 17 } }

/-- A write of SCHED.CTL (R207, R210): ACORE, SCORE and SBV; it starts a stopped scheduler again, and a ring that holds no record yet takes its
place and size. -/
def State.putSchedCtl (s : State) (v : Word) : State :=
  let s1 := s.setReg offSchedCtl ((s.reg offSchedCtl &&& ~~~ 0x1FFF) ||| (v &&& 0x1FFF))
  if s.sched.stopped then s1.startSched
  else if s.sched.seq = 0 then { s1 with sched := { s1.sched with jbase := s.regF offJbase 0 26, jsize := s.regF offJsize 0 17 } }
  else s1

/-- A thread of a core, started at the firmware's restart entry with s1 (R209). -/
def State.restartThread (s : State) (n : Nat) (arg : Word) : State :=
  let x := s.thr n
  s.setThr n
    { sc := { Scalars.idle with regs := tput 0 [] 1 arg }, st := { Stream.idle with pc := Config.restartEntry, work := x.st.work, sig := x.st.sig },
      ctx := 0, running := true, serial := x.serial + 1, start := s.ccc, arr := none }

/-- The take-over (R209). -/
def State.takeOver (s : State) : State :=
  let a := s.regF offSchedCtl 0 6
  let b := s.regF offSchedCtl 6 6
  let s1 := (List.range 16).foldl (fun s k => s.endRun (16 * a + k)) (s.setRegF offSchedCtl 13 1 1)
  let s2 := s1.setReg offSchedCtl (setFld (setFld (setFld (s1.reg offSchedCtl) 0 6 b) 6 6 a) 12 1 0)
  (s2.restartThread (16 * b) s.sched.ckpt).startSched

/-- The scheduler stops, and every context that owns an itinerary is told (R210). -/
def State.stopSched (s : State) : State :=
  let s1 := s.setRegF offSchedCtl 13 1 1
  let s2 : State := { s1 with sched := { s1.sched with stopped := true } }
  let owners := (List.range 64).filter fun c => (List.range 256).any fun i => iValid (s.itin i) && iCtx (s.itin i) == c
  owners.foldl (fun s c => (s.report .internal c 6 0 0).report .eccUncorrectable c 6 0 0) s2

/-- What an uncorrectable error in ACORE's instruction memory does: the take-over where a standby core is assigned (R209, R210). -/
def State.schedError (s : State) : State := if s.regF offSchedCtl 12 1 = 1 then s.takeOver else s.stopSched

/-- SCHEDULER_TAKEOVER (R209). -/
def execSchedulerTakeover (s : State) : Ans := if s.regF offSchedCtl 12 1 = 0 then .next s else .next s.takeOver

/-- SCHEDULER_STOP (R210). -/
def execSchedulerStop (s : State) : Ans := if s.regF offSchedCtl 12 1 = 1 then .next s else .next s.stopSched

/-! ## Commands (R430-R433) -/

/-- The itinerary and list of a KICK or PATCH (R430, R432). -/
def State.listOperand (s : State) (a b n : Word) : Res Nat :=
  let c := s.cmdCtx
  (Res.check (b.toNat % 16 == 0 && decide (n.toNat ≤ 65535)) .rsvField b).bind fun _ =>
  (Res.check (n == 0 || s.inRegion c b.toNat (16 * n.toNat)) .perm b).bind fun _ =>
  (Res.check (s.itinOk c (fld a 0 8)) .perm a).bind fun _ => .ok (fld a 0 8)

/-- KICK (R430, R197). -/
def execKick (f : CmdE) (s : State) : Ans :=
  ((s.cmdSrc f).bind fun q => (s.listOperand q.1 q.2.1 q.2.2).bind fun i => s.eventGate.bind fun s0 =>
    if s.pending? i then .ok (s0.answer f stBusy q.1 q.2.1)
    else .ok ((s0.kickItin i q.2.1.toNat q.2.2.toNat).answer f 0 q.1 q.2.1)).finish s

/-- A launch of the descriptor at a Ferry SRAM address: its task, checked, or a cause (R431, R96). -/
def State.launchTask (s : State) (c addr rect : Nat) : Res (BitVec 1024) :=
  let d := s.template addr
  (Res.check (addr % 64 == 0) .rsvField).bind fun _ => (Res.check (s.inRegion c addr 128) .perm).bind fun _ =>
  (Res.check (rectOk rect && !descBad d) .rsvField).bind fun _ =>
  (Res.check ((rectTiles rect).all fun t => s.tileCtx t == some c || (s.sysPriv c && (s.tileCtx t).isSome)) .perm).bind fun _ => .ok (descUntagged d)

/-- Push a launched task into a queue of every tile of its rectangle, in row order; none: some queue is full. -/
def State.launchAll (s : State) (rect q : Nat) (d : BitVec 1024) : Option State :=
  if (rectTiles rect).any fun t => 64 ≤ ((s.tile t).queue q).tasks.length then none
  else some ((rectTiles rect).foldl (fun s t =>
    s.push t q { desc := d, ctx := (s.tileCtx t).getD 0, rect := BitVec.ofNat 14 rect, saved := false }) s)

/-- LAUNCH (R431). -/
def execLaunch (f : CmdE) (s : State) : Ans :=
  ((s.cmdSrc f).bind fun q => (Res.check (fld q.2.1 14 50 == 0) .rsvField q.2.1).bind fun _ =>
    (s.launchTask s.cmdCtx q.1.toNat (fld q.2.1 0 14)).bind fun d => s.eventGate.bind fun s0 =>
      match s0.launchAll (fld q.2.1 0 14) (fld f.imm 0 3) d with
      | some s1 => .ok (s1.answer f 0 q.1 q.2.1)
      | none => .ok (s0.answer f stBusy q.1 q.2.1)).finish s

/-- PATCH (R432): checks and applies a list without a kick. -/
def execPatch (f : CmdE) (s : State) : Ans :=
  ((s.onThread).bind fun _ => (s.cmdSrc f).bind fun q => (s.listOperand q.1 q.2.1 q.2.2).bind fun i => s.eventGate.bind fun s0 =>
    let e := s.itin i
    let l := s.patchList q.2.1.toNat q.2.2.toNat
    if iRun e || iPend e then .ok (s0.answer f stBusy q.1 q.2.1)
    else (Res.check (l.all fun p => !s.patchBad e p.1 p.2) .rsvField q.2.1).bind fun _ => .ok ((s0.patchApply e l).answer f 0 q.1 q.2.1)).finish s

/-- A range of Ferry SRAM overlaps the nodes of an itinerary that runs or has a kick pending. -/
def State.nodesBusy (s : State) (addr n : Nat) : Bool :=
  (List.range 256).any fun i =>
    let e := s.itin i
    iValid e && (iRun e || iPend e) && decide (iBase e < addr + n) && decide (addr < iBase e + 256 * iNodes e)

/-- PATCH.M (R432): copies context memory into Ferry SRAM, whole. -/
def execPatchM (f : CmdE) (s : State) : Ans :=
  ((s.onThread).bind fun _ => (s.cmdSrc f).bind fun q =>
    let n := q.2.2.toNat
    let b := q.2.1.toNat
    (Res.check (q.1.toNat % 16 == 0 && b % 16 == 0 && n % 16 == 0 && decide (16 ≤ n) && decide (n ≤ 65536)) .rsvField).bind fun _ =>
    (Res.check (s.inRegion s.cmdCtx b n) .perm q.2.1).bind fun _ =>
    if s.nodesBusy b n then s.eventGate.bind fun s0 => .ok (s0.answer f stBusy q.1 q.2.1)
    else (s.readOperand q.1 n 16).bind fun r => r.2.eventGate.bind fun s0 =>
      .ok (({ s0 with sram := mwrites s0.sram b r.1 } : State).answer f 0 q.1 q.2.1)).finish s

/-- The tile and queue of a QCTL (R433). -/
def State.queueOperand (s : State) (a : Word) : Res (Nat × Nat) :=
  (Res.check (fld a 11 53 == 0) .rsvField a).bind fun _ =>
  (s.own (s.tileCtx (fld a 0 8) == some s.cmdCtx) a).bind fun _ => .ok (fld a 0 8, fld a 8 3)

/-- QCTL TICKETS (R433). -/
def execQctlTickets (f : CmdE) (s : State) : Ans :=
  ((s.cmdSrc f).bind fun q => (s.queueOperand q.1).bind fun p => (Res.check (fld q.2.1 8 56 == 0) .rsvField q.2.1).bind fun _ =>
    .ok ((s.modTile p.1 fun x => x.modQueue p.2 fun y => { y with tickets := q.2.1.setWidth 8 }).answer f 0 q.1 q.2.1)).finish s

/-- QCTL FLUSH (R433, R187): the descriptors not started, and one in the rerun slot, whose notice is then sent with status 1. -/
def execQctlFlush (f : CmdE) (s : State) : Ans :=
  ((s.cmdSrc f).bind fun q => (s.queueOperand q.1).bind fun p =>
    let x := s.tile p.1
    let n := (x.queue p.2).tasks.countP fun k => !k.saved
    let s1 := s.modTile p.1 fun x => x.modQueue p.2 fun y => { y with tasks := y.tasks.filter (·.saved) }
    match x.rerun with
    | some (rq, k, v) =>
      if rq ≠ p.2 then .ok (s1.answer f (BitVec.ofNat 64 n) q.1 q.2.1)
      else if s.noticeWaits p.1 then .stall .notReady s
      else
        let note := setFld v 8 2 1 ||| BitVec.ofNat 128 (s.ccc.toNat * 2 ^ 64)
        let s2 := s1.modTile p.1 fun x => { x with rerun := none }
        let s3 : State := { s2 with sched := { s2.sched with fifo := s2.sched.fifo ++ [(note, if dDcv k.desc then some (dDonecnt k.desc) else none)] } }
        .ok (s3.answer f (BitVec.ofNat 64 (n + 1)) q.1 q.2.1)
    | none => .ok (s1.answer f (BitVec.ofNat 64 n) q.1 q.2.1)).finish s

/-- QCTL PREEMPT (R433, R253). -/
def execQctlPreempt (f : CmdE) (s : State) : Ans :=
  ((s.cmdSrc f).bind fun q => (s.queueOperand q.1).bind fun p =>
    (Res.check (s.cur.tile? != some p.1) .rsvField q.1).bind fun _ =>
    if (s.tile p.1).task.isNone then .ok (s.answer f stNone q.1 q.2.1)
    else .ok ((s.askPreempt p.1).pending f (.preemption p.1) q.1 q.2.1)).finish s

/-- QCTL READ (R433). -/
def execQctlRead (f : CmdE) (s : State) : Ans :=
  ((s.cmdSrc f).bind fun q => (s.queueOperand q.1).bind fun p => .ok (s.answer f ((s.tile p.1).tqReg p.2) q.1 q.2.1)).finish s

end Sys2Proof.Machine
end

