-- ==== Sys2Proof/Machine/Message.lean ====
section
/-! DEFINITION. Sends, RMA writes and host writes (R61, R69, R425, R426), their completion (R36, R70, R98), and the message commands
(R425-R429). -/
namespace Sys2Proof.Machine
open Sys2Proof

/-! ## Sources -/

/-- Bytes of a context's virtual memory, page by page, through its tables. -/
def State.readVa (s : State) (c : Nat) : Nat → Word → Nat → List Byte
  | 0, _, _ => []
  | fuel + 1, va, n =>
    if n = 0 then []
    else
      let k := min n (65536 - fld va 0 16)
      (match s.physOf c va with
       | some pa => mreads s.hbm pa k
       | none => List.replicate k 0) ++ s.readVa c fuel (va + BitVec.ofNat 64 k) (n - k)

/-- A window entry, RX or TX. -/
def State.winEntry (s : State) (rx : Bool) (w : Nat) : BitVec 128 := s.reg128 (if rx then offRxw w else offTxw w)

/-- Bytes of a window at an offset. -/
def State.windowBytes (s : State) (rx : Bool) (w c off n : Nat) : List Byte :=
  s.readVa c (n / 65536 + 2) (winVa (s.winEntry rx w) off) n

/-- A window's bytes at an offset wait for a migration (R121). -/
def State.windowMoves (s : State) (rx : Bool) (w c off n : Nat) : Bool := s.rangeMoves c (winVa (s.winEntry rx w) off) n

/-- A peer index of a port that the context may send to (R62). -/
def State.peerOk (s : State) (c port peer : Nat) : Bool :=
  let e := s.reg256 (offUetPeer port peer)
  peer != 0xFFF && bit e 0 && fld e 2 6 == c

/-- The context's own counter, or any for a context with system privilege (R97). -/
def State.actionCounter (s : State) (c n : Nat) : Bool := bit (s.reg (offCntCtl n)) 0 && (s.ownsCnt c n || s.sysPriv c)

/-! ## The send descriptor (R95) -/

def sdDk (d : BitVec 256) : Bool := bit d 8
def sdPort (d : BitVec 256) : Nat := fld d 9 2
def sdDest (d : BitVec 256) : Nat := fld d 11 12
def sdWin (d : BitVec 256) : Nat := fld d 23 12
def sdRx (d : BitVec 256) : Bool := !bit d 35
def sdDcv (d : BitVec 256) : Bool := bit d 36
def sdDonecnt (d : BitVec 256) : Nat := fld d 37 14
def sdMb (d : BitVec 256) : Word := wordOf d 1
def sdOff (d : BitVec 256) : Nat := fld d 128 40
def sdLen (d : BitVec 256) : Nat := fld d 168 24
def sdHdata (d : BitVec 256) : Word := wordOf d 3

/-- What a send carries: to a strait chip, or to a peer of a port. -/
structure SendTo where
  port : Option Nat
  dest : Nat
  mb : Word
  hdata : Word
  data : List Byte
  deriving DecidableEq, Repr

/-- The HORIZON record of a send (R277), reserved and written; none within the chip or under PLAY. -/
def State.sendHorizon (s : State) (c kind dest : Nat) (pseq : BitVec 32) (bytes : Nat) (leaves : Bool) : Res State :=
  if !leaves || s.playing c then .ok s else (s.reserve 6 0 c 1 0).bind fun s1 => .ok (s1.horizon 6 0 c kind dest pseq bytes)

/-! ## Completion (R98, R425) -/

/-- A send has ended: delivered, or failed with a cause. Its DONECNT moves as a thread-command event (log entry 118). -/
def State.endSend (s : State) (e : Send) (bad : Option Cause) : State :=
  let s1 : State := { s with sends := s.sends.filter fun x => x.id != e.id }
  match bad, e.firing with
  | none, _ =>
    let s2 := match e.dcv with
      | some k => s1.counterEvent k false 1
      | none => s1
    match e.who with
    | some w => s2.modOp w e.id fun o => { o with what := .value 0 }
    | none => s2
  | some c, some (entry, act) =>
    let f := s1.flog entry act c e.ctx 0
    f.2.report c e.ctx 5 entry f.1
  | some c, none =>
    match e.who with
    | some (.thread n) =>
      if e.wait then (if (s1.thr n).sc.ops.any (fun o => o.id == e.id) then s1.raiseThread n c else s1)
      else
        let f := s1.flog n 0 c e.ctx 2
        f.2.report c e.ctx 1 n f.1
    | _ => s1

/-- The send of an identity ends. -/
def State.sendEnds (s : State) (id : Nat) (bad : Option Cause) : State :=
  match s.sends.find? (fun e => e.id == id) with
  | some e => s.endSend e bad
  | none => s

/-- An Ultra Ethernet send or RMA write leaves, with the job id, endpoint and address of its peer's entry (R62). -/
def State.uetOut (s : State) (port peer : Nat) (write : Bool) (word : Word) (off : Nat) (hdata : Option Word) (data : List Byte) : State :=
  let e := s.reg256 (offUetPeer port peer)
  s.emit (.uet { port := port, peer := peer, job := fld e 8 24, pep := fld e 32 32, v4 := bit e 1,
                 addr := if bit e 1 then fld e 64 32 else fld e 64 128, write := write, word := word, off := off, hdata := hdata, data := data })

/-- Send: a strait MSG in path order, or an Ultra Ethernet tagged send (R81, R61). Under PLAY nothing leaves the chip: a strait MSG
waits for its recorded ACK, and an Ultra Ethernet send counts as delivered. -/
def State.sendOut (s : State) (e : Send) (g : SendTo) : Res State :=
  let begin (s : State) : State := { s with sends := s.sends ++ [e] }
  match g.port with
  | none =>
    let q := tget 0 s.pseqOut g.dest
    (s.sendHorizon e.ctx 5 g.dest q g.data.length (g.dest != s.chip)).bind fun s1 =>
      let r := (begin s1).sendPath e.ctx g.dest 3 0 0 0 (leBytes 8 g.mb.toNat ++ leBytes 8 g.hdata.toNat ++ g.data)
      let k : Sent := { who := e.who, run := (e.who.map s.runOf).getD 0, firing := e.firing, send := some e.id, ctx := e.ctx, order := e.id, slot := 0, off := 0, dst := g.dest,
                        pseq := r.1, status := none, win := 0 }
      .ok { r.2 with sent := r.2.sent ++ [k] }
  | some p =>
    (s.sendHorizon e.ctx 2 g.dest 0 g.data.length true).bind fun s1 =>
      .ok (if s.playing e.ctx then (begin s1).sendEnds e.id none else (begin s1).uetOut p g.dest false g.mb 0 (some g.hdata) g.data)

/-! ## Commands -/

/-- Where a send may go: a member chip, or a peer of the context (R425). -/
def State.destOk (s : State) (c : Nat) (port : Option Nat) (dest : Nat) : Bool :=
  match port with
  | none => decide (dest < 1024) && s.isMember c dest
  | some p => s.peerOk c p dest

/-- The source window of a send holds [off, off + n) (R425). -/
def State.windowHolds (s : State) (rx : Bool) (w c off n : Nat) : Bool := (s.window rx w c off n).isSome

/-- Bits of a SEND descriptor that are not named. -/
def sdBad (d : BitVec 256) : Bool := fld d 0 4 != 2 || fld d 4 4 != 0 || fld d 51 13 != 0

/-- A new send of the thread at issue; NW = 0 waits for its end. -/
def State.newSend (s : State) (f : CmdE) (wait : Bool) (dcv : Option Nat) (a b : Word) : Send × State :=
  let e : Send := { id := s.nextId, who := some s.cur, wait := wait, ctx := s.cmdCtx, firing := none, dcv := dcv }
  (e, if wait then s.pending f (.send s.nextId) a b else s.answer f 0 a b)

/-- USEND (R425). -/
def execUsend (f : CmdE) (s : State) : Ans :=
  ((s.onThread .streamClass).bind fun _ => (s.cmdSrc f).bind fun q => (s.readOperand q.1 32 32).bind fun r =>
    let d := BitVec.ofNat 256 (leNat r.1)
    let s1 := r.2
    let c := s.cmdCtx
    let port := if sdDk d then some (sdPort d) else none
    (Res.check (!sdBad d && (sdDk d || decide (sdLen d ≤ 4080))) .rsvField q.1).bind fun _ =>
    (Res.check (s.destOk c port (sdDest d) && (!sdDcv d || s.actionCounter c (sdDonecnt d))) .perm q.1).bind fun _ =>
    (Res.check (s.windowHolds (sdRx d) (sdWin d) c (sdOff d) (sdLen d)) .windowUnmapped (BitVec.ofNat 64 (sdWin d * 2 ^ 40))).bind fun _ =>
    if s.windowMoves (sdRx d) (sdWin d) c (sdOff d) (sdLen d) then .stall .migrating s
    else
      let data := s1.windowBytes (sdRx d) (sdWin d) c (sdOff d) (sdLen d)
      let e := s1.newSend f (!bit f.imm 0) (if sdDcv d then some (sdDonecnt d) else none) q.1 0
      match e.2.sendOut e.1 { port := port, dest := sdDest d, mb := sdMb d, hdata := sdHdata d, data := data } with
      | .stall w _ => .stall w s
      | x => x).finish s

/-- Bits of an UPUT descriptor that must be zero, its ATYPE, KIND and LEN (R426). -/
def upBad (d : BitVec 256) : Bool :=
  let host := fld d 8 2 == 2
  fld d 0 4 != 2 || fld d 4 4 != 0 || (fld d 8 2 != 1 && !host) || fld d 37 27 != 0 || fld d 232 24 != 0 || fld d 168 24 == 0 ||
    (host && (fld d 10 2 != 0 || fld d 18 6 != 0 || wordOf d 1 != 0))

/-- Size of a HOSTMAP target (R69). -/
def hostSize (e : Word) : Nat := if fld e 1 15 = 0 then 2 ^ 31 else fld e 1 15 * 65536

/-- Posted writes of at most 512 bytes (R63); the last one carries the send. -/
def hostPieces (who : Who) (run : Nat) : Nat → Word → List Byte → Nat → List HostTlp
  | 0, _, _, _ => []
  | n + 1, a, bs, id =>
    if bs.length ≤ 512 then [{ addr := a, data := bs, who := some who, run := run, send := some id }]
    else { addr := a, data := bs.take 512, who := some who, run := run, send := none } :: hostPieces who run n (a + 512) (bs.drop 512) id

/-- UPUT (R426, R59, R69): its descriptor's KIND says whether it is an RMA write or a host write. -/
def State.uputRes (s : State) (f : CmdE) : Res State :=
  (s.onThread .streamClass).bind fun _ => (s.cmdSrc f).bind fun q => (s.readOperand q.1 32 32).bind fun r =>
    let d := BitVec.ofNat 256 (leNat r.1)
    let s1 := r.2
    let c := s.cmdCtx
    let host := fld d 8 2 == 2
    let rx := !bit d 36
    let swin := fld d 24 12
    let tgt := fld d 12 12
    let len := sdLen d
    let off := fld d 192 40
    let map := s.reg (offHostMap (fld d 12 6))
    (Res.check (!upBad d && !(host && bit f.imm 1)) .rsvField q.1).bind fun _ =>
    (Res.check (host || s.peerOk c (fld d 10 2) tgt) .perm q.1).bind fun _ =>
    (Res.check (s.windowHolds rx swin c (sdOff d) len && (!host || (bit map 0 && decide (off + len ≤ hostSize map)))) .windowUnmapped
      (BitVec.ofNat 64 ((if s.windowHolds rx swin c (sdOff d) len then fld d 12 6 else swin) * 2 ^ 40))).bind fun _ =>
    if s.windowMoves rx swin c (sdOff d) len then .stall .migrating s
    else
      let data := s1.windowBytes rx swin c (sdOff d) len
      let e := s1.newSend f (!bit f.imm 0) none q.1 q.2.1
      let s2 : State := { e.2 with sends := e.2.sends ++ [e.1] }
      match s2.sendHorizon c (if host then 6 else 3) (if host then fld d 12 6 else tgt) 0 len true with
      | .ok s3 =>
        if s.playing c then .ok (s3.sendEnds e.1.id none)
        else if host then
          .ok { s3 with hostTlps := s3.hostTlps ++ hostPieces s.cur (s.runOf s.cur) (len / 512 + 1) (BitVec.ofNat 64 (fld map 16 48 * 65536 + off)) data e.1.id }
        else .ok (s3.uetOut (fld d 10 2) tgt true (wordOf d 1) off (if bit f.imm 1 then some q.2.1 else none) data)
      | .stall w _ => .stall w s
      | x => x

/-- UPUT, the RMA write form (R426). -/
def execUputRma (f : CmdE) (s : State) : Ans := (s.uputRes f).finish s

/-- UPUT, the host write form (R426). -/
def execUputHost (f : CmdE) (s : State) : Ans := (s.uputRes f).finish s

/-- MRECV and MPOLL (R427), once the issuer's earlier accesses are performed. -/
def State.recvRes (s : State) (f : CmdE) (wait : Bool) : Res State :=
  (s.onThread .streamClass).bind fun _ => (s.cmdSrc f).bind fun q =>
    let limit := f.imm.toNat
    s.acqHeld.bind fun _ => (Res.check (q.2.2.toNat % 64 == 0) .align q.2.2).bind fun _ =>
    if !s.performed s.cur then .stall .commandOrder s
    else s.eventGate.bind fun s0 => match s.uxFind s.cmdCtx q.1 q.2.1 with
      | none => if wait then .ok (s0.pending f (.mrecv q.1 q.2.1 q.2.2 limit) q.1 q.2.1) else .ok (s0.answer f stNone q.1 q.2.1)
      | some r => (s0.uxTake s.cur r q.2.2 limit).bind fun p => .ok (p.2.answer f p.1 q.1 q.2.1)

/-- MRECV (R427): waits for a record. -/
def execMrecv (f : CmdE) (s : State) : Ans := (s.recvRes f true).finish s

/-- MPOLL (R427). -/
def execMpoll (f : CmdE) (s : State) : Ans := (s.recvRes f false).finish s

/-- MREPLY (R428): goes back to the source of the arrival that dispatched the run. -/
def execMreply (f : CmdE) (s : State) : Ans :=
  ((s.onThread .streamClass).bind fun n => (s.cmdSrc f).bind fun q =>
    let len := f.imm.toNat
    (Res.check (decide (len ≤ 4080)) .rsvField).bind fun _ =>
    match (s.thr n).arr with
    | none => .raise .rsvField 0
    | some a =>
      let port := if a.skind = 0 then none else some (a.skind - 1)
      (Res.check (decide (a.skind < 5)) .rsvField).bind fun _ =>
      (Res.check (s.destOk s.cmdCtx port a.src) .perm).bind fun _ =>
      (s.readOperand q.2.1 len 1).bind fun r =>
        let e := r.2.newSend f true none q.1 q.2.1
        match e.2.sendOut e.1 { port := port, dest := a.src, mb := q.1, hdata := 0, data := r.1 } with
        | .stall w _ => .stall w s
        | x => x).finish s

/-- MDONE (R429, R101): waits for the run's variable-latency results. -/
def execMdone (_ : CmdE) (s : State) : Ans := ((s.onThread .streamClass).bind fun n => s.endRunRes n).finish s

/-! ## Completion events -/

/-- UET_DELIVERY (R61): a send or RMA write has been delivered, or refused or given up. -/
def execUetDelivery (send : Nat) (ok : Bool) (s : State) : Ans := .next (s.sendEnds send (if ok then none else some .uetDelivery))

/-- HOST_WRITE_ACCEPTED (R70): the transmit layer takes the oldest posted write. -/
def execHostWriteAccepted (s : State) : Ans :=
  match s.hostTlps with
  | [] => .next s
  | h :: rest =>
    let s1 := ({ s with hostTlps := rest } : State).emit (.tlp h.addr h.data)
    .next (match h.send with
      | some n => s1.sendEnds n none
      | none => s1)

end Sys2Proof.Machine
end

