-- ==== Sys2Proof/Machine/Actions.lean ====
section
/-! DEFINITION. The action queue (R95-R98) and the dispatch and watchdog of Ferry threads (R99-R101). -/
namespace Sys2Proof.Machine
open Sys2Proof

/-! ## The action queue (R97) -/

def aType (a : BitVec 256) : Nat := fld a 0 4

/-- Bits each word of an action may set beside ATYPE (R95); addresses are aligned. -/
def actionBits (ty : Nat) : Nat × Nat × Nat × Nat :=
  let m (hi lo : Nat) : Nat := 2 ^ (hi + 1) - 2 ^ lo
  match ty with
  | 0 => (m 24 8, m 25 6, 0, 0)
  | 1 => (m 27 8, m 25 6, 0, 0)
  | 2 => (m 50 8, m 63 0, m 63 0, m 63 0)
  | 3 => (m 34 8, m 39 0, m 39 0, m 23 0)
  | 4 => (m 22 8, m 63 0, 0, 0)
  | 5 => (m 31 8, m 25 4, 0, 0)
  | 6 => (m 11 8, m 31 0, m 63 0, 0)
  | 7 => (0, m 56 6, 0, 0)
  | _ => (0, 0, 0, 0)

/-- A reserved ATYPE or a nonzero RSVD bit (R97). -/
def actionBad (a : BitVec 256) : Bool :=
  let m := actionBits (aType a)
  8 ≤ aType a || a &&& ~~~ BitVec.ofNat 256 (m.1 + 15 + m.2.1 * 2 ^ 64 + m.2.2.1 * 2 ^ 128 + m.2.2.2 * 2 ^ 192) != 0

/-- The head's action has issued. -/
def State.actionNext (s : State) : State :=
  match s.actions with
  | [] => s
  | f :: rest => { s with actions := if f.next + 1 < f.acts.length then { f with next := f.next + 1 } :: rest else rest }

/-- The head's action cannot issue: its list stops, with a record and a report (R97). -/
def State.actionStop (s : State) (c : Cause) : State :=
  match s.actions with
  | [] => s
  | f :: rest =>
    let r := ({ s with actions := rest } : State).flog f.entry f.next c f.ctx 0
    r.2.report c f.ctx 5 f.entry r.1

/-- Issue the head's action when it is of the event's kind; one that waits holds the queue. -/
def State.action (s : State) (ty : Nat) (go : Firing → BitVec 256 → Res State) : Ans :=
  match s.actions with
  | [] => .next s
  | f :: _ =>
    let a := nth 0 f.acts f.next
    if aType a < 8 ∧ aType a ≠ ty then .next s
    else match (Res.check (!actionBad a) .rsvField).bind fun _ => go f a with
      | .ok s1 => .next s1.actionNext
      | .stall _ s1 => .next s1
      | .raise c _ => .next (s.actionStop c)
      | .denied _ _ _ => .next (s.actionStop .perm)
      | .fault e => .fault e

/-- A window of the context that holds the range (R97). -/
def State.actionWindow (s : State) (rx : Bool) (w c off n : Nat) : Res Unit :=
  let e := s.winEntry rx w
  (Res.check (!bit e 0 || fld e 1 6 == c) .perm).bind fun _ => Res.check (s.windowHolds rx w c off n) .windowUnmapped

/-- ACTION_LAUNCH (R96). -/
def execActionLaunch (s : State) : Ans :=
  s.action 0 fun f a =>
    (s.launchTask f.ctx (fld a 64 26) (fld a 8 14)).bind fun d =>
      match s.launchAll (fld a 8 14) (fld a 22 3) d with
      | some s1 => .ok s1
      | none => .raise .taskqFull 0

/-- ACTION_COPY (R96): the engine makes the checks of R371, and a full engine holds the queue (R374). -/
def execActionCopy (s : State) : Ans :=
  s.action 1 fun f a =>
    let eng := fld a 8 5
    (Res.check (s.inRegion f.ctx (fld a 64 26) 128 && (!bit a 13 || s.actionCounter f.ctx (fld a 14 14))) .perm).bind fun _ =>
      if 32 ≤ (s.engine eng).length then .stall .engineFull s
      else
        let d := s.template (fld a 64 26)
        if s.cpPublishing f.ctx d then .stall .publish s else
        let failed : Option Cause := match s.cpCheck f.ctx none d with
          | .raise c _ => some c
          | _ => none
        let ents := if failed.isSome then [] else s.cpRanges f.ctx none d eng
        match s.takeBoard ents with
        | none => .stall .scoreboard s
        | some (held, s1) =>
          let c : Copy :=
            { desc := d, tile := none, ctx := f.ctx, serial := 0, sgf := none, dcv := if bit a 13 then some (fld a 14 14) else none,
              entry := f.entry, act := f.next, idx := [], piece := 0, parked := none, fault := 0, failed := failed, board := held, lifted := [],
              srcT := s.cpSrc f.ctx d, dstT := s.cpDst f.ctx d, beats := none, full := false, win := s.winOf 6 0 f.ctx, stopping := false, after := s.nextId }
          .ok { s1 with copies := tmod [] s1.copies eng (· ++ [c]), nextId := s1.nextId + 1 }

/-- ACTION_SEND (R96). -/
def execActionSend (s : State) : Ans :=
  s.action 2 fun f a =>
    let port := if sdDk a then some (sdPort a) else none
    (Res.check (decide (0 < sdLen a) && (sdDk a || decide (sdLen a ≤ 4080))) .rsvField).bind fun _ =>
    (Res.check (s.destOk f.ctx port (sdDest a) && (!sdDcv a || s.actionCounter f.ctx (sdDonecnt a))) .perm).bind fun _ =>
    (s.actionWindow (sdRx a) (sdWin a) f.ctx (sdOff a) (sdLen a)).bind fun _ =>
    if s.windowMoves (sdRx a) (sdWin a) f.ctx (sdOff a) (sdLen a) then .stall .migrating s
    else
      let e : Send := { id := s.nextId, who := none, wait := false, ctx := f.ctx, firing := some (f.entry, f.next),
                        dcv := if sdDcv a then some (sdDonecnt a) else none }
      ({ s with nextId := s.nextId + 1 } : State).sendOut e
        { port := port, dest := sdDest a, mb := sdMb a, hdata := sdHdata a, data := s.windowBytes (sdRx a) (sdWin a) f.ctx (sdOff a) (sdLen a) }

/-- Pieces of a range that stay within 4 KiB blocks. -/
def vaPieces : Nat → Word → Nat → List (Word × Nat)
  | 0, _, _ => []
  | k + 1, va, n =>
    if n = 0 then []
    else
      let m := min n (4096 - va.toNat % 4096)
      (va, m) :: vaPieces k (va + BitVec.ofNat 64 m) (n - m)

/-- The frames a range of context memory lies in. -/
def State.vaPlaces (s : State) (c : Nat) (va : Word) (n : Nat) : Option (List (Nat × Nat)) :=
  (vaPieces (n / 4096 + 2) va n).mapM fun p => (s.physOf c p.1).map fun pa => (pa, p.2)

/-- The ranges an RST action writes, each with where its bytes come from. -/
def State.actionSegs (s : State) (c : Nat) (src dst : Word) (n : Nat) : Option (List Seg) :=
  (vaPieces (n / 4096 + 2) dst n).mapM fun p =>
    (s.physOf c p.1).bind fun pa => (s.vaPlaces c (src + (p.1 - dst)) p.2).map fun l =>
      { segAt p.1 pa [] with len := p.2, src := l.map fun q => .mem q.1 q.2 }

/-- ACTION_RST (R96, R97): a reflected store of the Ferry, performed later; TKI waits for the list's earlier TKO stores. -/
def execActionRst (s : State) : Ans :=
  s.action 3 fun f a =>
    let txw := fld a 8 12
    let n := fld a 192 24
    let soff := fld a 64 40
    let doff := fld a 128 40
    (Res.check (n != 0) .rsvField).bind fun _ =>
    (s.actionWindow (!bit a 32) (fld a 20 12) f.ctx soff n).bind fun _ =>
    (s.actionWindow false txw f.ctx doff n).bind fun _ =>
      if bit a 34 && s.stores.any (fun e => e.list == some f.id) then .stall .notReady s
      else if s.windowMoves (!bit a 32) (fld a 20 12) f.ctx soff n || s.windowMoves false txw f.ctx doff n then .stall .migrating s
      else match s.actionSegs f.ctx (winVa (s.winEntry (!bit a 32) (fld a 20 12)) soff) (winVa (s.winEntry false txw) doff) n with
        | none => .raise .windowUnmapped 0
        | some segs =>
          (s.reserveRing 6 f.ctx (segsBytes segs + s.horizonBytes f.ctx (some txw)) 0).bind fun s1 =>
            let e : Store :=
              { who := none, run := 0, src := 6, ctx := f.ctx, segs := segs, op := none, atom := false, win := s1.winOf 6 0 f.ctx, tensor := none,
                refl := some (s.reflectTo txw doff (if bit a 34 then f.token else none)), adds := [], firing := some (f.entry, f.next),
                list := if bit a 33 then some f.id else none, moved := [], order := s1.nextId }
            .ok { s1 with stores := s1.stores ++ [e], nextId := s1.nextId + 1 }

/-- ACTION_INC (R96): a thread-command event. -/
def execActionInc (s : State) : Ans :=
  s.action 4 fun f a =>
    let n := fld a 8 14
    (Res.check (s.actionCounter f.ctx n) .perm).bind fun _ =>
      .ok (s.counterEvent n (bit a 22) (wordOf a 1))

/-- ACTION_KICK (R96, R197). -/
def execActionKick (s : State) : Ans :=
  s.action 5 fun f a =>
    let i := fld a 8 8
    let addr := fld a 64 26
    let n := fld a 16 16
    (Res.check (s.itinOk f.ctx i && (n == 0 || s.inRegion f.ctx addr (16 * n))) .perm).bind fun _ =>
    (Res.check (!s.pending? i) .taskqFull).bind fun _ => .ok (s.kickItin i addr n)

/-- The arrival's fields in s2-s4 (R100). -/
def wakeRegs (arg : Word) (f : Firing) : Tab Word :=
  let a : List Word := match f.arr with
    | some a => [a.mb, a.hdata, BitVec.ofNat 64 (a.skind % 8 + (if a.aop then 8 else 0) + a.src % 4096 * 2 ^ 4 + a.len % 2 ^ 32 * 2 ^ 16)]
    | none => [0, 0, 0]
  let l : List Word := [0, arg] ++ a ++ [BitVec.ofNat 64 f.entry, f.value, f.ccc]
  (List.range 8).foldl (fun t i => tput 0 t i (nth 0 l i)) []

/-- ACTION_THREAD (R100): the wake request joins the group's queue, from which threads are dispatched; a full queue holds the action. -/
def execActionThread (s : State) : Ans :=
  s.action 6 fun f a =>
    let g := fld a 8 4
    if 256 ≤ (tget [] s.wakes g).length then .stall .engineFull s
    else .ok (s.wake g { pc := BitVec.ofNat 64 (fld a 64 32), ctx := f.ctx, regs := wakeRegs (wordOf a 2) f, arr := f.arr })

/-- The release of a REL action (R96, R131) takes effect once the Ferry's earlier stores are performed; a failure by then is recorded as
one after issue (R98). None: it waits. -/
def State.ferryRelease (s : State) (r : FerryRel) : Res State :=
  let failed (c : Cause) : State :=
    let f := s.flog r.entry r.act c r.ctx 0
    f.2.report c r.ctx 5 r.entry f.1
  if s.stores.any (fun e => e.who.isNone && decide (e.order < r.order)) || s.rangeMoves r.ctx r.va 64 then .stall .commandOrder s
  else match s.objectAt r.ctx r.va with
    | none => .ok (failed .syncObjInvalid)
    | some (pa, v) =>
      if !objEvent v then .ok (failed .relNotHeld)
      else (s.reserve 6 0 r.ctx 3 r.va).bind fun s1 => .ok (s1.releaseObject 6 0 r.ctx (s1.winOf 6 0 r.ctx) r.va pa)

/-- The Ferry's oldest release that waits takes effect, when it can. -/
def State.ferryReleases (s : State) : State :=
  match s.ferryRels with
  | [] => s
  | r :: rest => match State.ferryRelease { s with ferryRels := rest } r with
    | .ok s1 => s1
    | .stall _ s1 => { s1 with ferryRels := s.ferryRels }
    | _ => s

/-- ACTION_REL (R96, R97): a release by the Ferry, which holds no LOCK; it issues without waiting for the Ferry's earlier stores, and takes
effect after them. -/
def execActionRel (s : State) : Ans :=
  s.action 7 fun f a =>
    let va := wordOf a 1
    if s.rangeMoves f.ctx va 64 then .stall .migrating s
    else match s.objectAt f.ctx va with
    | none => .raise .syncObjInvalid va
    | some (_, v) =>
      (Res.check (objEvent v) .relNotHeld va).bind fun _ =>
        let r : FerryRel := { entry := f.entry, act := f.next, ctx := f.ctx, va := va, order := s.nextId }
        let s1 : State := { s with nextId := s.nextId + 1 }
        if s.ferryRels.isEmpty then
          match s1.ferryRelease r with
          | .stall _ s2 => .ok { s2 with ferryRels := [r] }
          | x => x
        else .ok { s1 with ferryRels := s1.ferryRels ++ [r] }

/-! ## Threads -/

/-- The lowest idle thread of a group; the threads of the standby scheduler core run no other work (R100, R207). -/
def State.groupThread (s : State) (g : Nat) : Option Nat :=
  let cores := s.reg (offTgrp g)
  let standby (n : Nat) : Bool := s.regF offSchedCtl 12 1 == 1 && n / 16 == s.regF offSchedCtl 6 6
  firstBelow (fun n => bit cores (n / 16) && !(s.thr n).running && !standby n) 1024 0

/-- The first wake request that may be dispatched: its context runs (R260). -/
def State.wakeReady (s : State) (g : Nat) : Option Wake := (tget [] s.wakes g).find? fun k => !s.paused k.ctx

/-- THREAD_DISPATCH (R100): the lowest-numbered idle thread of the group starts with its registers set. -/
def execThreadDispatch (group : Nat) (s : State) : Ans :=
  match s.wakeReady group, s.groupThread group with
  | some k, some n =>
    let s1 : State := { s with wakes := tmod [] s.wakes group fun l => l.erase k }
    .next (s1.setThr n
      { sc := { Scalars.idle with regs := k.regs }, st := { Stream.idle with pc := k.pc, work := (s.thr n).st.work, sig := (s.thr n).st.sig },
        ctx := k.ctx, running := true, serial := (s.thr n).serial + 1, start := s.ccc, arr := k.arr })
  | _, _ => .next s

/-- THREAD_WATCHDOG (R101): TWDOG counts Ferry cycles, two for each cycle of the CCC, from the start of the run, the time that MUSTER stops
the thread included (log entry 117); zero disables it. -/
def execThreadWatchdog (thread : Nat) (s : State) : Ans :=
  let x := s.thr thread
  if x.running && s.reg offTwdog != 0 && decide ((s.reg offTwdog).toNat < 2 * (s.ccc - x.start).toNat) then
    .next (s.raiseThread thread .watchdogHang)
  else .next s

end Sys2Proof.Machine
end

