-- ==== Sys2Proof/Machine/Atomic.lean ====
section
/-! DEFINITION. Atomics, major 0x36 (R346, R347). -/
namespace Sys2Proof.Machine
open Sys2Proof

/-- Access size of an atomic's func. -/
def amoSize (func : Nat) : Nat := if func < 0x10 then 8 else 4

/-- The value an atomic writes; none: an AMOCAS that does not write. The old value and x are z-byte numbers. -/
def amoNew (func old x expected : Nat) : Option Nat :=
  let z := amoSize func
  let w := 8 * z
  let sg (v : Nat) : Int := (BitVec.ofNat w v).toInt
  match func % 16 with
  | 0 => some ((old + x) % 2 ^ w)
  | 1 => some (Nat.land old x)
  | 2 => some (Nat.lor old x)
  | 3 => some (Nat.xor old x)
  | 4 => some (if sg old ≤ sg x then old else x)
  | 5 => some (if sg old ≤ sg x then x else old)
  | 6 => some (min old x)
  | 7 => some (max old x)
  | 8 => some x
  | 9 => if old = expected then some x else none
  | _ => some (roundTo (Num.add 0 (decodeNum 0 0 old) (decodeNum 0 0 x)) 0 0 0)

/-- What d receives: the old value, sign-extended for the .i32 forms. -/
def amoOld (func old : Nat) : Word := extend (amoSize func) (func ≥ 0x10 && func % 16 ≠ 6 && func % 16 ≠ 7 && func ≠ 0x1A) old

/-- An atomic on a scratchpad, at its port grant; on HBM, a store performed at its place in coherence order (R346, R347).
Its value is written no sooner than six cycles after issue. -/
def State.amoRes (s : State) (f : Tri) (func : Nat) : Res State :=
  let w := s.cur
  let z := amoSize func
  let c := s.ctxOf w
  s.acqHeld.bind fun _ => (s.src f.a f.wa).bind fun a => (s.src f.b f.wb).bind fun b =>
  (if func % 16 = 9 then s.src f.d else .ok 0).bind fun d => (s.dst f.d).bind fun _ =>
  let x := b.toNat % 2 ^ (8 * z)
  let expected := d.toNat % 2 ^ (8 * z)
  (s.locate w a z true true).bind fun r =>
    match r.1 with
    | .spad t off _ =>
      (r.2.boardClear t off z true).bind fun _ =>
      (r.2.grant t off z (requester w w.undoTile t)).bind fun s1 =>
        let old := mval (s1.tile t).spad off z
        match amoNew func old x expected with
        | none => .ok ((s1.startOp f.d (.value (amoOld func old)) 6 false a b).retire 4)
        | some v =>
          (s1.reserve w.src w.undoTile c 1 a).bind fun s2 =>
            .ok (((s2.spadPut w.src w.undoTile c (s.winOf w.src w.undoTile c) t off (leBytes z v) true).startOp f.d
              (.value (amoOld func old)) 6 false a b).retire 4)
    | .hbm va pa _ _ =>
      if w.tile?.isSome && 128 ≤ s.writesOut w then .stall .writes s
      else
        (r.2.reserve w.src w.undoTile c 1 va).bind fun s1 =>
          let id := s1.nextId
          let s2 := s1.startOp f.d (.atomic va (BitVec.ofNat 6 func) (BitVec.ofNat 64 x) (BitVec.ofNat 64 expected)) 6 false a b
          .ok ((s2.storeOut w va pa [] (some id) none).retire 4)
    | .reg _ => .raise .align a

/-- AMOADD (R346). -/
def execAmoadd (f : Tri) (s : State) : Ans := (s.amoRes f 0x0).finish s

/-- AMOAND (R346). -/
def execAmoand (f : Tri) (s : State) : Ans := (s.amoRes f 0x1).finish s

/-- AMOOR (R346). -/
def execAmoor (f : Tri) (s : State) : Ans := (s.amoRes f 0x2).finish s

/-- AMOXOR (R346). -/
def execAmoxor (f : Tri) (s : State) : Ans := (s.amoRes f 0x3).finish s

/-- AMOMIN (R346). -/
def execAmomin (f : Tri) (s : State) : Ans := (s.amoRes f 0x4).finish s

/-- AMOMAX (R346). -/
def execAmomax (f : Tri) (s : State) : Ans := (s.amoRes f 0x5).finish s

/-- AMOMINN (R346). -/
def execAmominn (f : Tri) (s : State) : Ans := (s.amoRes f 0x6).finish s

/-- AMOMAXN (R346). -/
def execAmomaxn (f : Tri) (s : State) : Ans := (s.amoRes f 0x7).finish s

/-- AMOSWAP (R346). -/
def execAmoswap (f : Tri) (s : State) : Ans := (s.amoRes f 0x8).finish s

/-- AMOCAS (R346). -/
def execAmocas (f : Tri) (s : State) : Ans := (s.amoRes f 0x9).finish s

/-- AMOADD.i32 (R346). -/
def execAmoaddI32 (f : Tri) (s : State) : Ans := (s.amoRes f 0x10).finish s

/-- AMOAND.i32 (R346). -/
def execAmoandI32 (f : Tri) (s : State) : Ans := (s.amoRes f 0x11).finish s

/-- AMOOR.i32 (R346). -/
def execAmoorI32 (f : Tri) (s : State) : Ans := (s.amoRes f 0x12).finish s

/-- AMOXOR.i32 (R346). -/
def execAmoxorI32 (f : Tri) (s : State) : Ans := (s.amoRes f 0x13).finish s

/-- AMOMIN.i32 (R346). -/
def execAmominI32 (f : Tri) (s : State) : Ans := (s.amoRes f 0x14).finish s

/-- AMOMAX.i32 (R346). -/
def execAmomaxI32 (f : Tri) (s : State) : Ans := (s.amoRes f 0x15).finish s

/-- AMOMINN.n32 (R346). -/
def execAmominnN32 (f : Tri) (s : State) : Ans := (s.amoRes f 0x16).finish s

/-- AMOMAXN.n32 (R346). -/
def execAmomaxnN32 (f : Tri) (s : State) : Ans := (s.amoRes f 0x17).finish s

/-- AMOSWAP.i32 (R346). -/
def execAmoswapI32 (f : Tri) (s : State) : Ans := (s.amoRes f 0x18).finish s

/-- AMOCAS.i32 (R346). -/
def execAmocasI32 (f : Tri) (s : State) : Ans := (s.amoRes f 0x19).finish s

/-- AMOFADD.f32 (R346): an FP32 sum in RNE. -/
def execAmofaddF32 (f : Tri) (s : State) : Ans := (s.amoRes f 0x1A).finish s

end Sys2Proof.Machine
end

