-- ==== Sys2Proof/Machine/Power.lean ====
section
/-! DEFINITION. Power, temperature and energy budgets (R18, R19, R244, R245), reset and boot (R21-R25), the lifetime part of the device
record (R26, R293), attestation (R28) and management over I3C (R76). -/
namespace Sys2Proof.Machine
open Sys2Proof

/-! ## Energy budgets (R18, R244, R245) -/

/-- The default share of a context that sets no budget (R245). -/
def defaultShare : Nat := 2 ^ 21

/-- The rate in force of a configured rate under a factor (R18): at least 1 when the rate is nonzero. -/
def scaledRate (rate f : Nat) : Nat := if rate = 0 then 0 else max 1 (rate * f / 1024)

/-- The rate in force of a context (R245). -/
def State.rateOf (s : State) (c : Nat) : Nat :=
  if bit (s.cx c cENERGY) 0 then (if s.pkg.limiting then scaledRate (s.cxF c cENERGY 1 24) s.pkg.factor else s.cxF c cENERGY 1 24)
  else if s.pkg.limiting then scaledRate defaultShare s.pkg.factor
  else 0

/-- The ceiling C of a context's budget (R244). -/
def State.ceilingOf (s : State) (c : Nat) : Nat :=
  if bit (s.cx c cENERGY) 0 then s.cxF c cENERGY 32 32 else scaledRate defaultShare (if s.pkg.limiting then s.pkg.factor else 1024)

/-- ERATEF of a context follows its rate; a change is an input of the replay record (R245). -/
def State.setRate (s : State) (c : Nat) : State :=
  let r := s.rateOf c
  if s.playing c || s.cxF c cERATEF 0 24 == r then s
  else (s.setCx c cERATEF (BitVec.ofNat 64 r)).recordInput c 5 r []

/-- ERATEF of every context. -/
def State.setRates (s : State) : State := (List.range 64).foldl (fun s c => if s.ctxExists c then s.setRate c else s) s

/-- ENERGY_REFILL (R244). -/
def execEnergyRefill (s : State) : Ans :=
  if s.ccc.toNat % 1024 ≠ 0 then .next s
  else
    .next ((List.range 64).foldl (fun s c =>
      if s.ctxExists c then s.setRegF (offCtx c cEBUDGET) 0 32 (min (s.cxF c cEBUDGET 0 32 + s.cxF c cERATEF 0 24) (s.ceilingOf c)) else s) s)

/-! ## Temperature and the power limit (R18, R19) -/

def Package.hot (p : Package) : Bool := p.temps.any fun e => 105 ≤ e.2

/-- The effective limit L, in watts (R19); half of an odd PKG_LIMIT is rounded down (DESIGN CHOICE, log entry 112). -/
def Package.limit (p : Package) : Nat := if p.hot then p.pkgLimit.toNat / 2 else p.pkgLimit.toNat

/-- PWR.STATUS (R74). -/
def State.powerStatus (s : State) : State :=
  s.setReg offPwrStatus (BitVec.ofNat 64 ((if s.pkg.limiting then 1 else 0) + (if s.pkg.hot then 2 else 0) + s.pkg.limit % 2 ^ 11 * 2 ^ 2))

/-- Add to a gathered lifetime count (R293). -/
def State.gather (s : State) (off n : Nat) : State :=
  { s with pkg := { s.pkg with gathered := tmod 0 s.pkg.gathered off (· + n) } }

/-- Offsets of counts that are gathered in milliseconds and written in seconds. -/
def inSeconds (off : Nat) : Bool := off == 0x8010 || off == 0x8020 || (0x8030 ≤ off && off < 0x82B0)

/-- Width of a lifetime counter in bytes. -/
def lifeWidth (off : Nat) : Nat := if (0x8030 ≤ off && off < 0x82B0) || 0x8C20 ≤ off then 4 else 8

/-- F at the end of a period while limiting (R18). -/
def nextFactor (f limit power : Nat) : Nat := if power = 0 then 1024 else max 1 (min 1024 (f * 95 * limit / (100 * power)))

/-- One averaging period's counts: powered and throttled time, and each die's temperature (R293). -/
def State.gatherPeriod (s : State) : State :=
  let s1 := s.gather 0x8010 1
  let s2 := if s.pkg.limiting || s.pkg.hot then s1.gather 0x8020 1 else s1
  (List.range 5).foldl (fun s d => s.gather (0x8030 + 128 * d + 4 * min 31 (tget 0 s.pkg.temps d / 4)) 1) s2

/-- POWER_PERIOD_END (R18, R245): the average of a 1 ms period starts limiting, goes on with it, or ends it. -/
def execPowerPeriodEnd (power : Nat) (s : State) : Ans :=
  if s.pkg.boot ≠ 1 then .next s
  else
    let s0 := s.gatherPeriod
    let p := s0.pkg
    let l := p.limit
    if !p.limiting then
      if 97 * l < 100 * power then
        let s1 := ({ s0 with pkg := { p with limiting := true, factor := 1024, quiet := 0 } } : State).setRates.powerStatus
        .next ((List.range 64).foldl (fun s c =>
          if s.ctxExists c && !bit (s.cx c cENERGY) 0 then s.setRegF (offCtx c cEBUDGET) 0 32 (s.ceilingOf c) else s) s1)
      else .next s0
    else
      let quiet := if 100 * power ≤ 90 * l then p.quiet + 1 else 0
      if 10 ≤ quiet then .next ({ s0 with pkg := { p with limiting := false, factor := 1024, quiet := 0 } } : State).setRates.powerStatus
      else .next ({ s0 with pkg := { p with quiet := quiet, factor := nextFactor p.factor l power } } : State).setRates.powerStatus

/-- THERMTRIP_N is asserted, and counted once (R19, R293). -/
def State.trip (s : State) : State :=
  if s.pkg.thermtrip then s else ({ s with pkg := { s.pkg with thermtrip := true } } : State).gather 0x8028 1

/-- A die's junction temperature (R19): the limit is halved while one is at or above 105, and at 115 THERMTRIP_N is asserted. -/
def State.setTemp (s : State) (die degrees : Nat) : State :=
  let s1 := ({ s with pkg := { s.pkg with temps := tput 0 s.pkg.temps die degrees } } : State).powerStatus
  if 115 ≤ degrees then s1.trip else s1

/-- THERMAL_HOT (R19). -/
def execThermalHot (die degrees : Nat) (s : State) : Ans := .next (s.setTemp die degrees)

/-- THERMTRIP (R19). -/
def execThermtrip (die : Nat) (s : State) : Ans := .next (s.setTemp die 115)

/-- PKG_LIMIT_WRITE (R18, R76): ignored outside 600-1,900 W, and in recovery. -/
def execPkgLimitWrite (watts : BitVec 16) (s : State) : Ans :=
  if s.pkg.boot = 1 ∧ 600 ≤ watts.toNat ∧ watts.toNat ≤ 1900 then .next ({ s with pkg := { s.pkg with pkgLimit := watts } } : State).powerStatus
  else .next s

/-! ## Reset and boot (R21-R25) -/

/-- PACKAGE_RESET (R21): the whole package; only the flash keeps its contents. What has left the package stays said. -/
def execPackageReset (s : State) : Ans :=
  .next { State.reset with freeCount := s.freeCount, nextId := s.nextId, out := s.out, pkg := { Package.idle with flash := s.pkg.flash } }

/-- Bytes of a record copy. -/
def Package.copyBytes (p : Package) (i off n : Nat) : List Byte := mreads p.flash (0x10000 * i + off) n

def Package.copyNat (p : Package) (i off n : Nat) : Nat := mval p.flash (0x10000 * i + off) n

/-- A signature over the SHA-512 digest of the signed bytes (R23). -/
def signedBy (key bytes sig : List Byte) : Bool := Config.ed25519Verifies key (leBytes 64 (Config.sha512 bytes).toNat) sig

/-- The production key of a chain that ends at the ROM's digest (R23). -/
def productionKey (chain : List Byte) : Option (List Byte) :=
  let root := Config.chainRootKey chain
  let cert := Config.chainCertificate chain
  if Config.sha512 root = Config.romDigest && signedBy root cert.1 cert.2 then some (Config.chainProductionKey chain) else none

/-- The production key of a copy of the record (R24). -/
def Package.recordKey (p : Package) (i : Nat) : Option (List Byte) := productionKey (p.copyBytes i 0x1000 0x800)

/-- The factory part of a copy verifies: the signature at 0x7FC0 covers bytes 0x0000 to 0x7FBF (R24, R25). -/
def Package.factoryOk (p : Package) (i : Nat) : Bool :=
  (p.recordKey i).any fun k => signedBy k (p.copyBytes i 0 0x7FC0) (p.copyBytes i 0x7FC0 64)

/-- The copy whose factory part verifies first (R25). -/
def Package.factoryCopy (p : Package) : Option Nat := firstBelow p.factoryOk 2 0

/-- The device public key of the factory part in use (R24). -/
def Package.deviceKey (p : Package) (f : Option Nat) : List Byte := p.copyBytes (f.getD 0) 0x28 32

/-- The lifetime part of a copy verifies under the device key: the signature at 0xFFC0 covers bytes 0x8000 to 0xFFBF (R24, R25). -/
def Package.lifetimeOk (p : Package) (key : List Byte) (i : Nat) : Bool :=
  signedBy key (p.copyBytes i 0x8000 0x7FC0) (p.copyBytes i 0xFFC0 64)

/-- The copy whose lifetime part verifies with the highest sequence number (R25); of two with the same number, which the spec does not
order, copy 0 (DESIGN CHOICE, log entry 111). -/
def Package.lifeCopy (p : Package) : Option Nat :=
  let ok (i : Nat) : Bool := p.lifetimeOk (p.deviceKey p.factoryCopy) i
  match ok 0, ok 1 with
  | true, true => some (if p.copyNat 0 0x8000 8 < p.copyNat 1 0x8000 8 then 1 else 0)
  | true, false => some 0
  | false, true => some 1
  | false, false => none

/-- A harvest word holds no skip row above 8 (R11). -/
def harvestOk (w : Nat) : Bool := (List.range 8).all fun i => nfld w (4 * i) 4 ≤ 8

/-- The production key signs the firmware image (R22, R23). -/
def Package.firmwareOk (p : Package) (i : Nat) (b : BootInput) : Bool := (p.recordKey i).any fun k => signedBy k b.fwImage b.fwSig

/-- The status of the first stage that fails, or READY (R22). -/
def Package.bootStatus (p : Package) (f : Option Nat) (floor : Nat) (b : BootInput) : Nat :=
  match f with
  | none => 2
  | some i =>
    if !((List.range 4).all fun d => harvestOk (p.copyNat i (0x48 + 4 * d) 4)) then 3
    else if b.pufKey ≠ p.deviceKey f then 4
    else if !p.firmwareOk i b || decide (b.fwVersion.toNat < floor) || !b.fwLoaded then 5
    else if !b.hbmTrained then 6
    else if !b.linksTrained then 7
    else if !b.pcieTrained then 8
    else 1

/-- RESET_N_RELEASE (R16, R22, R25, R73): the CCC starts at zero, the boot ROM runs its stages, and context 0 then exists with
system privilege. -/
def execResetNRelease (b : BootInput) (s : State) : Ans :=
  if s.pkg.released then .next s
  else
    let p := s.pkg
    let f := p.factoryCopy
    let l := p.lifeCopy
    let num (off : Nat) : Nat := (l.map fun i => p.copyNat i off 8).getD 0
    let st := p.bootStatus f (num 0x8008) b
    let p1 : Package :=
      { p with released := true, boot := st, factory := f.getD 0, life := l, seqNo := BitVec.ofNat 64 (num 0x8000),
               fwFloor := BitVec.ofNat 64 (num 0x8008), fwVersion := b.fwVersion, fwDigest := Config.sha512 b.fwImage, attestFlags := if l.isNone then 1 else 0 }
    let s1 : State := { s with ccc := 0, pkg := p1 }
    .next (if st = 1 then ((s1.setCx 0 cLIFE 1).setCx 0 cPRIVS 1).gather 0x8018 1 else s1)

/-! ## The lifetime part (R26, R293) -/

/-- Bytes 0x8000 to 0xFFBF of the part to write, from the part in force. -/
def Package.lifetimePart (p : Package) (floor : Nat) : List Byte :=
  let old (off n : Nat) : Nat := (p.life.map fun i => p.copyNat i off n).getD 0
  let count (off : Nat) : List Byte :=
    let n := lifeWidth off
    let g := tget 0 p.gathered off
    leBytes n (satAdd (2 ^ (8 * n) - 1) (old off n) (if inSeconds off then g / 1000 else g))
  leBytes 8 (p.seqNo.toNat + 1) ++ leBytes 8 (max p.fwFloor.toNat floor) ++ ((List.range 4).flatMap fun i => count (0x8010 + 8 * i)) ++
    ((List.range 160).flatMap fun i => count (0x8030 + 4 * i)) ++ ((List.range 302).flatMap fun i => count (0x82B0 + 8 * i)) ++
    ((List.range 64).flatMap fun i => count (0x8C20 + 4 * i)) ++ List.replicate 0x72A0 0

/-- LIFETIME_REWRITE (R26): at most once an hour, into the copy with the lower sequence number; FW_FLOOR never falls. -/
def execLifetimeRewrite (floor : BitVec 64) (s : State) : Ans :=
  let p := s.pkg
  if p.boot ≠ 1 ∨ (s.ccc - p.lastRewrite).toNat < 3600 * 940000000 then .next s
  else
    let i := match p.life with
      | some k => 1 - k
      | none => 0
    let part := p.lifetimePart floor.toNat
    let sig := Config.ed25519Sign (leBytes 64 (Config.sha512 part).toNat)
    .next { s with pkg := { p with
      flash := mwrites p.flash (0x10000 * i + 0x8000) (part ++ leBytes 64 sig.toNat)
      life := some i, seqNo := p.seqNo + 1, fwFloor := BitVec.ofNat 64 (max p.fwFloor.toNat floor.toNat), lastRewrite := s.ccc
      gathered := (p.gathered.filter fun e => inSeconds e.1 && e.2 % 1000 != 0).map fun e => (e.1, e.2 % 1000) } }

/-! ## Attestation (R28) -/

/-- The last byte of NONCE is written: a request. -/
def State.attest (s : State) (nonce : List Byte) (i3c : Bool) : State :=
  if s.pkg.boot ≠ 1 then s else { s with pkg := { s.pkg with requests := s.pkg.requests ++ [((nonce ++ List.replicate 32 0).take 32, i3c)] } }

/-- ATTESTATION_REQUEST (R28). -/
def execAttestationRequest (nonce : List Byte) (s : State) : Ans := .next (s.attest nonce true)

/-- Bytes 0x00 to 0xEF of a report. -/
def State.reportBody (s : State) (nonce : List Byte) : List Byte :=
  let p := s.pkg
  leBytes 4 0x5441594B ++ leBytes 2 1 ++ leBytes 2 p.attestFlags.toNat ++ nonce ++ p.copyBytes p.factory 8 32 ++
    leBytes 64 p.fwDigest.toNat ++ leBytes 64 (Config.sha512 (p.copyBytes p.factory 0 0x8000)).toNat ++
    p.copyBytes p.factory 0x48 16 ++ leBytes 8 p.fwVersion.toNat ++ leBytes 8 s.ccc.toNat ++ leBytes 8 p.seqNo.toNat

/-- ATTESTATION_REPORT_SIGNED (R28): the oldest request's report becomes readable. -/
def execAttestationReportSigned (s : State) : Ans :=
  match s.pkg.requests with
  | [] => .next s
  | (nonce, _) :: rest =>
    let b := s.reportBody nonce
    .next { s with pkg := { s.pkg with requests := rest, report := b ++ leBytes 64 (Config.ed25519Sign (leBytes 64 (Config.sha512 b).toNat)).toNat } }

/-! ## I3C (R76) -/

/-- The highest junction temperature, in eight bits. -/
def Package.temp (p : Package) : Nat := min 255 ((p.temps.map (·.2)).foldl max 0)

/-- A byte that an I3C read returns: STATUS, PKG_LIMIT, TEMP and REPORT; in recovery only STATUS answers, and a write-only or absent
register reads as zero (R76). -/
def State.i3cByte (s : State) (off : Nat) : Byte :=
  let p := s.pkg
  if off = 0 then BitVec.ofNat 8 (p.boot % 16)
  else if p.boot ≠ 1 then 0
  else if 4 ≤ off ∧ off < 6 then p.pkgLimit.extractLsb' (8 * (off - 4)) 8
  else if off = 8 then BitVec.ofNat 8 p.temp
  else if 0x40 ≤ off ∧ off < 0x40 + 304 then p.report.getD (off - 0x40) 0
  else 0

/-- The moves that have their effect before the boot is READY, and in recovery: resets, temperatures and what comes over I3C, of which only
STATUS and the addresses answer; every other unit is in reset or waits for the firmware (R22, R76). -/
def State.answers (s : State) (m : Move) : Bool :=
  s.pkg.boot == 1 ||
    match m with
    | .i3cRead .. => true
    | .issue _ | .counterCommand | .ferryRelease | .ingress _ | .arbitrate _ | .retry _ => false
    | .event i =>
      match i with
      | .packageReset | .resetNRelease _ | .thermalHot .. | .thermtrip _ | .setdasa .. | .entdaa _ | .pkgLimitWrite _
      | .attestationRequest _ => true
      | _ => false

/-- An I3C read of n bytes from a 16-bit offset (R76). -/
def State.i3cRead (s : State) (off n : Nat) : State := s.emit (.i3cData ((List.range n).map fun i => s.i3cByte ((off + i) % 2 ^ 16)))

/-- SETDASA (R76): a command for the static address 0x5A. -/
def execSetdasa (static dynamic : BitVec 7) (s : State) : Ans :=
  if static = 0x5A then .next (({ s with pkg := { s.pkg with dynAddr := some dynamic } } : State).emit (.i3c dynamic)) else .next s

/-- ENTDAA (R76): takes part while it has no dynamic address. -/
def execEntdaa (dynamic : BitVec 7) (s : State) : Ans :=
  if s.pkg.dynAddr.isSome then .next s else .next (({ s with pkg := { s.pkg with dynAddr := some dynamic } } : State).emit (.i3c dynamic))

end Sys2Proof.Machine
end

