-- ==== Sys2Proof/Machine/Context.lean ====
section
/-! DEFINITION. Contexts: creation (R73), destruction (R257) and loss (R259); windows and destination slots (R104, R105, R137). -/
namespace Sys2Proof.Machine
open Sys2Proof

/-! ## Pages -/

/-- The frame of a page that is mapped and pinned. -/
def State.pinnedFrame (s : State) (c : Nat) (va : Word) : Option Nat :=
  match s.walk c va with
  | some (l, _) => if bit l 0 && bit l 3 then some (pteFrame l) else none
  | none => none

/-- Pages of an area. -/
def areaPages (va : Word) (n : Nat) : List Word := (List.range (n / 65536)).map fun i => va + BitVec.ofNat 64 (65536 * i)

/-- Every page of an area is mapped and pinned. -/
def State.areaOk (s : State) (c : Nat) (va : Word) (n : Nat) : Bool := (areaPages va n).all fun p => (s.pinnedFrame c p).isSome

/-- The recorded frames of an area (R122, R272). -/
def State.areaFrames (s : State) (c : Nat) (va : Word) (n : Nat) : List (Nat × Nat × Nat) :=
  (areaPages va n).filterMap fun p => (s.pinnedFrame c p).map fun f => (c, fld p 16 40, f)

/-! ## Creation (R73) -/

/-- Sizes of the areas that creation checks (R258, R272, R279). -/
def saveLen : Nat := 0x2C210000
def banksLen : Nat := 0x1BC00000

/-- The areas of a context: save area, undo ring, interval banks, replay ring. -/
def State.areas (s : State) (c : Nat) : List (Word × Nat) :=
  [(s.cx c cSAVEVA, saveLen), (s.cx c cUNDOBASE, s.undoSize c), (s.cx c cIVBASE, banksLen), (s.cx c cRPBASE, s.replaySize c)]

/-- Why a creation is refused: 1 save area, 2 undo ring, 3 interval banks, 4 replay ring, 5 own chip missing; 0 when it is not. -/
def State.createErr (s : State) (c : Nat) : Nat :=
  match firstBelow (fun i => match (s.areas c)[i]? with
      | some (va, n) => !s.areaOk c va n
      | none => !s.isMember c s.chip) 5 0 with
  | some i => i + 1
  | none => 0

/-- CTX.MSTATE takes a value, and the status word at the head of the save area with it (R252, R258; log entry 9). -/
def State.setMstate (s : State) (c v : Nat) : State :=
  (s.setCx c cMSTATE (BitVec.ofNat 64 v)).physWrite c (s.cx c cSAVEVA) (leBytes 8 v)

/-- Counters that CNTCTL assigns to a context. -/
def State.countersOf (s : State) (c : Nat) : List Nat := (List.range 16384).filter (s.ownsCnt c)

/-- CONTEXT_CREATE (R73). -/
def execContextCreate (ctx : Nat) (s : State) : Ans :=
  if s.ctxExists ctx || 64 ≤ ctx then .next s
  else
    let e := s.createErr ctx
    if e ≠ 0 then .next (s.setCx ctx cLIFE (BitVec.ofNat 64 (e * 2)))
    else
      let frames := (s.areas ctx).flatMap fun a => s.areaFrames ctx a.1 a.2
      let s1 := (s.countersOf ctx).foldl (fun s n => s.setReg (offCnt n) 0) s
      let s2 := [cMSTATE, cUNDOWIN, cUNDOUSE, cIVNUM, cREPLAY, cEBUDGET].foldl (fun s o => s.setCx ctx o 0) s1
      let s3 : State := { s2 with
        saveFrames := s2.saveFrames ++ frames, logs := tput CtxLog.idle s2.logs ctx CtxLog.idle, musters := tput Muster.idle s2.musters ctx Muster.idle }
      .next (((s3.setCx ctx cLIFE 1).setMstate ctx 0).setRate ctx)

/-! ## Loss and destruction -/

/-- Every task of a context is to be removed. -/
def State.failTasks (s : State) (c : Nat) (why : Cause) : State :=
  let mark (k : Task) : Task := if k.t.ctx = c then { k with fatal := some (k.fatal.getD why) } else k
  { s with tiles := s.tiles.map fun e => (e.1, { e.2 with task := e.2.task.map mark, left := e.2.left.map mark }) }

/-- SAVE_AREA_LOST (R259): the context is LOST, and its header keeps the CCC and the failing offset. -/
def execSaveAreaLost (ctx off : Nat) (s : State) : Ans :=
  if !s.ctxExists ctx || s.mstate ctx = 4 then .next s
  else
    let s1 := (s.setMstate ctx 4).failTasks ctx .eccUncorrectable
    .next ((s1.physWrite ctx (s.cx ctx cSAVEVA + 8) (leBytes 8 s.ccc.toNat ++ leBytes 8 off)).report .eccUncorrectable ctx 0 0 0)

/-- Clear PIN in the translation entry of a page. -/
def State.unpin (s : State) (c : Nat) (va : Word) : State :=
  match s.walk c va with
  | some (l, pa) => { s with hbm := mputw s.hbm pa (setFld l 3 1 0) }
  | none => s

/-- What is left when a context's tasks are gone: threads, entries, counters, queued work, the save area (R257). -/
def State.dissolve (s : State) (c : Nat) : State :=
  let idle := (s.threads.filter fun e => e.2.running && e.2.ctx == c).map (·.1)
  let s1 := idle.foldl State.endRun s
  let s2 := ((s1.entries.filter fun e => eValid e.2 && eCtx e.2 == c).map (·.1)).foldl State.disarm s1
  let s3 := (s2.countersOf c).foldl (fun s n => s.setReg (offCnt n) 0) s2
  let s4 := (areaPages (s3.cx c cSAVEVA) saveLen).foldl (fun s p => s.unpin c p) s3
  let s5 : State := { s4 with
    tiles := s4.tiles.map fun e => (e.1, { e.2 with
      tq := (e.2.tq.map fun q => (q.1, { q.2 with tasks := q.2.tasks.filter fun k => k.ctx != c })).filter fun q => q.2 != TaskQueue.idle
      rerun := e.2.rerun.filter fun r => r.2.1.ctx != c })
    actions := s4.actions.filter fun f => f.ctx != c
    ferryRels := s4.ferryRels.filter fun r => r.ctx != c
    wakes := (s4.wakes.map fun e => (e.1, e.2.filter fun k => k.ctx != c)).filter fun e => !e.2.isEmpty
    copies := (s4.copies.map fun e => (e.1, e.2.filter fun k => k.ctx != c)).filter fun e => !e.2.isEmpty
    faultSigs := s4.faultSigs.filter fun x => x.ctx != c
    colls := s4.colls.filter fun e => !(s4.regF (offCengOwn e.1) 1 6 == c && bit (s4.reg (offCengOwn e.1)) 0)
    pubs := s4.pubs.filter fun p => p.ctx != c
    saveFrames := s4.saveFrames.filter fun f => f.1 != c
    logs := tput CtxLog.idle s4.logs c CtxLog.idle, musters := tput Muster.idle s4.musters c Muster.idle
    destroying := s4.destroying.filter (· != c) }
  (s5.emptyTlbs c).setCx c cLIFE (setFld (s5.cx c cLIFE) 0 1 0)

/-- CONTEXT_DESTROY (R257): EXISTS reads 1 until the last of the context's tasks has been removed. -/
def execContextDestroy (ctx : Nat) (s : State) : Ans :=
  if !s.ctxExists ctx then .next s
  else
    let s1 := State.failTasks { s with destroying := if s.destroying.contains ctx then s.destroying else ctx :: s.destroying } ctx .taskAbort
    if s1.tiles.any fun e => e.2.task.any (fun k => k.t.ctx == ctx) || e.2.left.any (fun k => k.t.ctx == ctx) ||
        e.2.tq.any fun q => q.2.tasks.any fun k => k.saved && k.ctx == ctx then .next s1
    else .next (s1.dissolve ctx)

/-! ## Windows (R104, R105, R137) -/

/-- XLAT.WERR: a write was ignored; KIND and INDEX keep the first since ERR was clear (R74). -/
def State.windowError (s : State) (kind index : Nat) : State :=
  if bit (s.reg offWerr) 0 then s else s.setReg offWerr (BitVec.ofNat 64 (1 + kind * 2 + index % 2 ^ 16 * 2 ^ 3))

/-- The pages of a window are mapped and pinned. -/
def State.windowPinned (s : State) (e : BitVec 128) : Bool := s.areaOk (fld e 1 6) (winVa e 0) (winSize e)

/-- Bits of a window entry that are not RSVD. -/
def winMask : BitVec 128 := BitVec.ofNat 128 (0x7F + (2 ^ 40 - 1) * 2 ^ 16 + (2 ^ 24 - 1) * 2 ^ 64)

/-- A write of a whole window entry. -/
def State.putWindow (s : State) (rx : Bool) (n : Nat) (v : BitVec 128) : State :=
  let e := v &&& winMask
  if bit e 0 && !s.windowPinned e then s.windowError (if rx then 1 else 0) n else s.setReg128 (if rx then offRxw n else offTxw n) e

/-- WINDOW_ENTRY_WRITE (R105). -/
def execWindowEntryWrite (rx : Bool) (n : Nat) (value : BitVec 128) (s : State) : Ans := .next (s.putWindow rx (n % 4096) value)

/-- A write of a destination slot (R137). -/
def State.putTxdst (s : State) (n : Nat) (v : Word) : State :=
  let e := s.reg128 (offTxw (n / 16))
  if !s.isMember (fld e 1 6) (fld v 1 10) then s.windowError 2 n else s.setReg (offTxDst n) (v &&& 0x7FFFFF)

/-- TXDST_WRITE (R137). -/
def execTxdstWrite (n : Nat) (value : BitVec 64) (s : State) : Ans := .next (s.putTxdst (n % 65536) value)

end Sys2Proof.Machine
end

