-- ==== Sys2Proof/Machine/Bar.lean ====
section
/-! DEFINITION. Registers as system software reaches them (R5, R71, R72, R74): the fields a write sets, what a read clears, and the
registers whose writes have rules of their own. -/
namespace Sys2Proof.Machine
open Sys2Proof

/-! ## Access codes (R5) -/

def lowBits (n : Nat) : Word := BitVec.ofNat 64 (2 ^ n - 1)

/-- RW fields of a register of a context's page that is writable at any time; o is its place in the page. -/
def ctxMask (o : Nat) : Word :=
  if o = cPRIVS then 1
  else if o = cACQTMO ∨ o = cRFTMO then lowBits 17
  else if o = cEBUDGET then lowBits 32
  else if o = cENERGY then 0xFFFFFFFF01FFFFFF
  else if o = cTRAPGRP then lowBits 5
  else if o = cTRAPVEC then lowBits 57
  else if o = cHANGTMO then lowBits 20
  else 0

/-- Fields of the creation-time registers, which are writable while the context does not exist (R73). -/
def ctxCreateMask (o : Nat) : Word :=
  if o = cPTROOT then 0x000FFFFFFFFF0000
  else if o = cSAVEVA ∨ o = cUNDOBASE ∨ o = cIVBASE ∨ o = cRPBASE then lowBits 57
  else if o = cUNDOCFG then 0x3FFFC
  else if o = cRPSIZE then lowBits 16
  else if cMEMBERS 0 ≤ o ∧ o < cMEMBERS 16 then lowBits 64
  else 0

/-- RW fields of a register with no rule of its own. -/
def plainMask (off : Nat) : Word :=
  if off < 0x800 then lowBits 19
  else if off < 0xA00 then lowBits 64
  else if 0x101000 ≤ off ∧ off < 0x102000 then (if off % 16 = 0 then 0xFFFFFFFF1FFFFFFF else 0xFFFFFFFF000003FF)
  else if off = offTwdog then lowBits 64
  else if off = offMatchCtl then 3
  else if off = offSnapCtl then lowBits 15
  else if off = offRlogTail then lowBits 32
  else if off = offRptGrp then lowBits 5
  else if 0x400400 ≤ off ∧ off < 0x400800 then lowBits 31
  else if 0x400800 ≤ off ∧ off < 0x400880 then lowBits 64
  else if 0x400A00 ≤ off ∧ off < 0x400C00 then lowBits 30
  else if 0x410000 ≤ off ∧ off < 0x430000 then lowBits 7
  else if 0x450000 ≤ off ∧ off < 0x458000 then lowBits 15
  else if 0x480000 ≤ off ∧ off < 0x500000 then (if (off - 0x480000) % 0x20000 / 32 < 4095 ∧ off % 32 < 24 then lowBits 64 else 0)
  else if off = offJbase then 0x3FFFFE0
  else if 0x800000 ≤ off ∧ off < 0xC00000 then ctxMask (off % 0x10000)
  else 0

/-- RC fields of a register. -/
def rcMask (off : Nat) : Word :=
  if offLinkStat 0 ≤ off ∧ off ≤ offLinkStat 5 then 0xFFFFFFFFFFFF0000
  else if off = offHostDrop ∨ off = offRedStale ∨ off = offUetRefused ∨ off = offUetDrop ∨ off = offRlogLost then lowBits 32
  else if off = offMatchCtl then 0xFFFF0000
  else if off = offIerr then 7
  else 0

/-- A value kept within its range. -/
def clampTo (lo hi v : Nat) : Word := BitVec.ofNat 64 (max lo (min hi v))

/-! ## Reads -/

/-- What a register reads, without effect. -/
def State.barPeek (s : State) (off : Nat) : Word :=
  if 0xC00 ≤ off ∧ off < 0xC20 then 0
  else if 0xD00 ≤ off ∧ off < 0xE30 then BitVec.ofNat 64 (leNat ((s.pkg.report.drop (off - 0xD00)).take 8))
  else if 0x700000 ≤ off ∧ off < 0x740000 then tget (s.reg off) s.slotNew off
  else if 0xC00000 ≤ off then (s.sysPeek ((off - 0xC00000) / 0x4000) ((off % 0x4000) / 8)).getD 0
  else s.reg off

/-- Read bits m of a register: the bits of its RC fields among them clear, in a tile's registers too (R5). -/
def State.barRead (s : State) (off : Nat) (m : Word) : Word × State :=
  (s.barPeek off,
    if 0xC00000 ≤ off then s.modTile ((off - 0xC00000) / 0x4000) fun x => x.readClear ((off % 0x4000) / 8) m
    else if rcMask off = 0 then s
    else s.setReg off (s.reg off &&& ~~~ (rcMask off &&& m)))

/-! ## Writes with rules of their own -/

/-- STRAIT.GEOM, while every link is DOWN (R30). -/
def State.putGeom (s : State) (v : Word) : State :=
  if (List.range 6).all fun n => s.linkState n == 0 then s.setReg offGeom (v &&& 0xFFFFF) else s

/-- XLAT.CTL (R113): MODE 0 only in a domain of at most 64 packages. -/
def State.putXlatCtl (s : State) (v : Word) : State :=
  let mode := if bit v 0 || decide (64 < s.dimX * s.dimY * s.dimZ) && bit (s.reg offXlatCtl) 0 then 1 else 0
  s.setReg offXlatCtl (BitVec.ofNat 64 (mode + max 1 (fld v 1 10) * 2))

/-- CENG.OWN (R458): V and CTX stay while the engine runs or holds a descriptor. -/
def State.putCengOwn (s : State) (n : Nat) (v : Word) : State :=
  if (s.coll n).run.isSome || !(s.coll n).queue.isEmpty then s else s.setReg (offCengOwn n) (v &&& 0x7F)

/-- PLAY of a context is cleared: the live inputs that wait at their ingresses are applied from the next cycle on, in their order (R285). -/
def State.endPlay (s : State) (c : Nat) : State := s.setCx c cREPLAY (s.cx c cREPLAY &&& ~~~ 2)

/-- CTX.REPLAY (R283, R285): REC needs a ring, and PLAY is cleared only while the context is MUSTERED. -/
def State.putReplay (s : State) (c : Nat) (v : Word) : State :=
  let old := s.cx c cREPLAY
  let rec' := bit v 0 && s.replaySize c != 0
  let play := bit v 1 || bit old 1 && s.mstate c != 3
  let s0 := if bit old 1 && !play then s.endPlay c else s
  let s1 := if rec' then s0 else s0.modLog c fun l => { l with ivComplete := tput false l.ivComplete (s.cxF c cIVNUM 0 32) false }
  s1.setCx c cREPLAY (BitVec.ofNat 64 ((if rec' then 1 else 0) + (if play then 2 else 0) + (if bit v 2 then 4 else 0) + (if bit old 3 then 8 else 0)))

/-- A register of a context's page. -/
def State.putCtx (s : State) (c o : Nat) (v : Word) : State :=
  let off := offCtx c o
  let done (a : Ans) : State := match a with
    | .next s1 => s1
    | _ => s
  if o = cLIFE then done (if bit v 0 then execContextCreate c s else execContextDestroy c s)
  else if o = cLEASE then s.setReg off (clampTo 1 1024 (fld v 0 11))
  else if o = cTKEXP then s.setReg off (clampTo 1 100000 (fld v 0 17))
  else if o = cPRETMO then s.setReg off (BitVec.ofNat 64 (max 1 (fld v 0 20)))
  else if o = cUNDOWIN then done (execUndowinOldestWrite c (v.setWidth 32) s)
  else if o = cREPLAY then s.putReplay c v
  else
    let policy : Word := if o = cUNDOCFG ∧ fld v 0 2 ≠ 3 then 3 else 0
    let m := (if s.ctxExists c then 0 else ctxCreateMask o) ||| policy ||| ctxMask o
    let s1 := if m = 0 then s else s.setReg off ((s.reg off &&& ~~~ m) ||| (v &&& m))
    if o = cENERGY && s.ctxExists c then s1.setRate c else s1

/-- A tile's system register, with the rights of system software (R71, R188, R287). -/
def State.putSys (s : State) (t n : Nat) (v : Word) : State :=
  if 0x18 ≤ n ∧ n < 0x20 then s.modTile t fun x => x.modQueue (n - 0x18) fun q => { q with tickets := v.setWidth 8 }
  else if n = 0x20 then s.modTile t fun x => { x with lotx := v.setWidth 32 }
  else if n = 0x21 then s.modTile t fun x => { x with mpvec := v.setWidth 57 }
  else if 0x80 ≤ n ∧ n < 0x100 then
    s.modTile t fun x => { x with mp := tmod 0 x.mp ((n - 0x80) / 2) fun p => setWord p (n % 2) (v &&& (if n % 2 = 0 then 0x1F else 0x01FFFFFFFFFFFFFE)) }
  else match (s.tile t).sysWrite n v with
    | some x => s.setTile t x
    | none => s

/-- Bytes of NONCE; the last one starts a request over the host port (R28). -/
def State.putNonce (s : State) (at' : Nat) (bs : List Byte) : State :=
  let n := (List.range bs.length).foldl (fun (t : Tab Byte) i => tput 0 t (at' + i) (bs.getD i 0)) s.pkg.nonce
  let s1 : State := { s with pkg := { s.pkg with nonce := n } }
  if at' + bs.length = 32 then s1.attest ((List.range 32).map fun i => tget 0 n i) false else s1

/-! ## A write of a whole register -/

/-- Write a register of BAR0 with system privilege. -/
def State.barWrite (s : State) (off : Nat) (v : Word) : State :=
  let done (a : Ans) : State := match a with
    | .next s1 => s1
    | _ => s
  if off = offGeom then s.putGeom v
  else if off = offXlatCtl then s.putXlatCtl v
  else if off = offWerr then s.setReg off (s.reg off &&& ~~~ (v &&& 1))
  else if 0x210000 ≤ off ∧ off < 0x230000 then
    let e := off / 16 * 16
    s.putWindow (decide (0x220000 ≤ off)) (off % 0x10000 / 16) (setWord (s.reg128 e) (off / 8 % 2) v)
  else if 0x300000 ≤ off ∧ off < 0x380000 then s.putTxdst ((off - 0x300000) / 8) v
  else if off = offUxMaxLen then s.setReg off (BitVec.ofNat 64 (min 1048576 v.toNat))
  else if 0x430000 ≤ off ∧ off < 0x450000 then s.counterEvent ((off - 0x430000) / 8) true v
  else if 0x500000 ≤ off ∧ off < 0x502000 then done (execItinWrite (off % 0x2000 / 32) (off / 8 % 4) v s)
  else if off = offSchedCtl then s.putSchedCtl v
  else if off = offJsize then s.setReg off (clampTo 8192 65536 (fld v 0 17))
  else if 0x503000 ≤ off ∧ off < 0x503800 then done (execTownWrite ((off - 0x503000) / 8) v s)
  else if 0x600000 ≤ off ∧ off < 0x600080 then s.setReg off (BitVec.ofNat 64 (fld v 0 12 + max 1 (fld v 12 12) * 2 ^ 12))
  else if 0x600100 ≤ off ∧ off < 0x600180 then s.putCengOwn ((off - 0x600100) / 8) v
  else if 0x700000 ≤ off ∧ off < 0x740000 then
    if off % 0x10000 < 0x800 then { s with slotNew := (s.slotNew.filter fun e => e.1 != off) ++ [(off, v &&& 0x3FFF)] } else s
  else if 0x800000 ≤ off ∧ off < 0xC00000 then s.putCtx ((off - 0x800000) / 0x10000) (off % 0x10000) v
  else if 0xC00000 ≤ off then s.putSys ((off - 0xC00000) / 0x4000) (off % 0x4000 / 8) v
  else
    let m := plainMask off
    if m = 0 then s else s.setReg off ((s.reg off &&& ~~~ m) ||| (v &&& m))

/-- Registers with W1C fields: a half that is not written clears nothing. -/
def w1cReg (off : Nat) : Bool :=
  off == offWerr || (0xC00000 ≤ off && (off % 0x4000 / 8 == 0x0F || (0x30 ≤ off % 0x4000 / 8 && off % 0x4000 / 8 < 0x40)))

/-- A host access, or a system thread's through VA code 6 (R71, R102). -/
def State.barAccess (s : State) (off size : Nat) (write : Option Word) : State :=
  let reg := off / 8 * 8
  let hi := off % 8 = 4
  if !((size == 4 || size == 8) && off % size == 0 && decide (off + size ≤ 2 ^ 24)) then s.emit .unsupportedRequest
  else match write with
    | none =>
      let m : Word := if size = 8 then lowBits 64 else if hi then lowBits 32 <<< 32 else lowBits 32
      let r := s.barRead reg m
      r.2.emit (.readData (if size = 8 then r.1 else if hi then r.1 >>> 32 else r.1 &&& lowBits 32))
    | some v =>
      if 0xC00 ≤ off ∧ off < 0xC20 then s.putNonce (off - 0xC00) (leBytes size v.toNat)
      else if size = 8 then s.barWrite reg v
      else if hi ∧ reg = offUxMaxLen then s
      else
        let old : Word := if w1cReg reg then 0 else s.barPeek reg
        s.barWrite reg (setFld old (if hi then 32 else 0) 32 (fld v 0 32))

/-! ## The events -/

/-- BAR0_ACCESS (R68, R71). -/
def execBar0Access (off size : Nat) (write : Option (BitVec 64)) (s : State) : Ans := .next (s.barAccess off size write)

/-- STRAIT_GEOM_WRITE (R30). -/
def execStraitGeomWrite (value : BitVec 64) (s : State) : Ans := .next (s.putGeom value)

/-- XLAT_CTL_WRITE (R113). -/
def execXlatCtlWrite (value : BitVec 64) (s : State) : Ans := .next (s.putXlatCtl value)

/-- CENG_OWN_WRITE (R458). -/
def execCengOwnWrite (engine : Nat) (value : BitVec 64) (s : State) : Ans := .next (s.putCengOwn (engine % 16) value)

/-- REPLAY_PLAY_CLEAR (R285). -/
def execReplayPlayClear (ctx : Nat) (s : State) : Ans :=
  if s.playing ctx && s.mstate ctx == 3 then .next (s.endPlay ctx) else .next s

/-- REGISTER_WRITE (R5). -/
def execRegisterWrite (off : Nat) (value : BitVec 64) (s : State) : Ans := .next (s.barAccess (off / 8 * 8) 8 (some value))

/-- REGISTER_READ_CLEAR (R5). -/
def execRegisterReadClear (off : Nat) (s : State) : Ans := .next (s.barRead (off / 8 * 8) (lowBits 64)).2

/-- SLOT_TABLE_UPDATE (R202): a die's new entries take effect where CCC mod 256 = 0. -/
def execSlotTableUpdate (die : Nat) (s : State) : Ans :=
  if s.ccc.toNat % 256 ≠ 0 then .next s
  else
    let mine (e : Nat × Word) : Bool := (e.1 - 0x700000) / 0x10000 == die
    .next { (s.slotNew.filter mine).foldl (fun s e => s.setReg e.1 e.2) s with slotNew := s.slotNew.filter fun e => !mine e }

end Sys2Proof.Machine
end

