-- ==== Sys2Proof/Machine/Branch.lean ====
section
/-! DEFINITION. Branches and jumps (R339-R341). -/
namespace Sys2Proof.Machine
open Sys2Proof

/-- The pc of the issuing party. -/
def State.pc (s : State) : Word := (s.strm s.cur).pc

/-- A conditional branch: taken, fetch goes to PC + 2 sext(off14) and two steps issue nothing (R339, R341). -/
def State.branch (s : State) (off : BitVec 14) (taken : Bool) : State :=
  if taken then s.jump (s.pc + 2 * off.signExtend 64) else s.retire 4

/-- A branch on two values; in a block body it is LOOPBUF (R225). -/
def State.branchRes (s : State) (f : BraS) (p : Word → Word → Bool) : Res State :=
  s.outsideBlock.bind fun _ => (s.src f.a).bind fun a => (s.src f.b).bind fun b => .ok (s.branch f.off (p a b))

/-- A branch on one value. -/
def State.branchOneRes (s : State) (f : BraS) (p : Word → Bool) : Res State :=
  s.outsideBlock.bind fun _ => (s.src f.a).bind fun a => .ok (s.branch f.off (p a))

/-- BEQ (R339). -/
def execBeq (f : BraS) (s : State) : Ans := (s.branchRes f (· == ·)).finish s

/-- BNE (R339). -/
def execBne (f : BraS) (s : State) : Ans := (s.branchRes f (· != ·)).finish s

/-- BLT (R339). -/
def execBlt (f : BraS) (s : State) : Ans := (s.branchRes f (fun a b => decide (a.toInt < b.toInt))).finish s

/-- BGE (R339). -/
def execBge (f : BraS) (s : State) : Ans := (s.branchRes f (fun a b => decide (b.toInt ≤ a.toInt))).finish s

/-- BLTN (R339). -/
def execBltn (f : BraS) (s : State) : Ans := (s.branchRes f (fun a b => decide (a.toNat < b.toNat))).finish s

/-- BGEN (R339). -/
def execBgen (f : BraS) (s : State) : Ans := (s.branchRes f (fun a b => decide (b.toNat ≤ a.toNat))).finish s

/-- BZ (R339). -/
def execBz (f : BraS) (s : State) : Ans := (s.branchOneRes f (· == 0)).finish s

/-- BNZ (R339). -/
def execBnz (f : BraS) (s : State) : Ans := (s.branchOneRes f (· != 0)).finish s

/-- BFULL (R339): tests the full/empty bit and never stalls. -/
def execBfull (f : BraS) (s : State) : Ans :=
  (s.outsideBlock.bind fun _ => .ok (s.branch f.off (!s.isEmpty s.cur f.a))).finish s

/-- BEMPTY (R339). -/
def execBempty (f : BraS) (s : State) : Ans :=
  (s.outsideBlock.bind fun _ => .ok (s.branch f.off (s.isEmpty s.cur f.a))).finish s

/-- J (R340). -/
def execJ (f : BraL) (s : State) : Ans :=
  (s.outsideBlock.bind fun _ => .ok (s.jump (s.pc + 2 * f.off.signExtend 64))).finish s

/-- JAL (R340): d takes PC + 4 at latency 1. -/
def execJal (f : BraL) (s : State) : Ans :=
  (s.outsideBlock.bind fun _ => (s.dst f.d).bind fun _ =>
    .ok ((s.fixed f.d 1 (s.pc + 4) (s.pc + 4) 0).jump (s.pc + 2 * f.off.signExtend 64))).finish s

/-- JR (R340): an odd target is ALIGN. -/
def execJr (f : Tri) (s : State) : Ans :=
  (s.outsideBlock.bind fun _ => (s.src f.a f.wa).bind fun a => (Res.check (!bit a 0) .align a).bind fun _ => .ok (s.jump a)).finish s

/-- JALR (R340): a is read first; on ALIGN the link is not written. -/
def execJalr (f : Tri) (s : State) : Ans :=
  (s.outsideBlock.bind fun _ => (s.src f.a f.wa).bind fun a => (Res.check (!bit a 0) .align a).bind fun _ =>
    (s.dst f.d).bind fun _ => .ok ((s.fixed f.d 1 (s.pc + 4) (s.pc + 4) 0).jump a)).finish s

end Sys2Proof.Machine
end

