-- ==== Sys2Proof/Machine/Complete.lean ====
section
/-! DEFINITION. Completion: stores and atomics reach coherence order (R127, R136), variable-latency results are written (R231), and waits
are granted or time out (R131, R135, R141). -/
namespace Sys2Proof.Machine
open Sys2Proof

/-! ## Stores (R126, R127, R136-R139) -/

/-- Two stores belong to one party: a thread, the streams of one tile, or the Ferry's actions. -/
def sameParty (a b : Option Who) : Bool :=
  match a, b with
  | some u, some w => u == w || (u.tile?.isSome && u.tile? == w.tile?)
  | none, none => true
  | _, _ => false

/-- Two ranges share an aligned 8-byte word. -/
def wordsMeet (pa n qa m : Nat) : Bool := decide (pa / 8 * 8 < qa + m) && decide (qa / 8 * 8 < pa + n)

/-- An HBM range is touched by a store's ranges. -/
def Store.meets (e : Store) (pa n : Nat) : Bool := e.segs.any fun g => wordsMeet pa n g.pa (max 8 g.len)

/-- A load of the party that issued before an order still reads the words of a store. -/
def State.loadBefore (s : State) (e : Store) : Bool :=
  match e.who with
  | none => false
  | some w =>
    ((s.scal w).ops.any fun o => o.id < e.order && (match o.what with
      | .load _ pa n _ => e.meets pa n
      | _ => false)) ||
    (match w.tile? with
     | none => false
     | some t => (s.tile t).oq.any fun q => q.2.loads.any fun l => l.order < e.order && l.src.any fun x => match x with
        | .mem pa n => e.meets pa n
        | .elem pa _ _ => e.meets pa 1
        | _ => false)

/-- An earlier store of the party goes first: one of the same words, or, for a reflected store, an earlier reflected one (R139). -/
def State.storeBefore (s : State) (e : Store) : Bool :=
  s.stores.any fun d => d.order < e.order && sameParty d.who e.who &&
    ((d.refl.isSome && e.refl.isSome) || e.segs.any fun g => d.meets g.pa (max 8 g.len))

/-- The operation an atomic or RST.TK store completes. -/
def State.opOf (s : State) (w : Who) (id : Nat) : Option VarOp :=
  let held := match w with
    | .stream t _ => ((s.tile t).handler.map (·.saved.ops)).getD []
    | _ => []
  ((s.scal w).ops ++ held).find? (·.id == id)

/-- Give an operation its value, wherever it is held. -/
def State.giveOp (s : State) (w : Who) (id : Nat) (v : Word) : State :=
  let on (o : VarOp) : VarOp := if o.id = id then { o with what := .value v } else o
  let s1 := s.modScal w fun c => { c with ops := c.ops.map on }
  match w with
  | .stream t _ => s1.modTile t fun x => { x with handler := x.handler.map fun h => { h with saved := { h.saved with ops := h.saved.ops.map on } } }
  | _ => s1

/-- An atomic reads and writes at its word's place in one step; an AMOCAS that does not write gives its record's room back. -/
def State.performAtomic (s : State) (e : Store) (g : Seg) (w : Who) (id : Nat) : State :=
  match ((s.opOf w id).map VarOp.what : Option VarKind) with
  | some (.atomic va func x expected) =>
    let z := amoSize func.toNat
    let old := mval s.hbm g.pa z
    let s1 := match amoNew func.toNat old x.toNat expected.toNat with
      | some v => s.hbmPut e.src w.undoTile e.ctx e.win va g.pa (leBytes z v) true
      | none => s.unreserve e.src w.undoTile e.ctx 1
    s1.giveOp w id (amoOld func.toNat old)
  | _ => s.unreserve e.src w.undoTile e.ctx 1

/-- A store's bytes can be read: its scratchpad lines have been, and no earlier store of its party to their HBM words is left (R126). -/
def State.sourcesReady (s : State) (e : Store) : Bool :=
  match e.who with
  | none => true
  | some w => e.sources.all (s.srcReady w e.order)

/-- Write the ranges in order; a line that has its bytes from elsewhere reads them now (R377). -/
def State.performSegs (s : State) (e : Store) (tile : Nat) : List Byte × State :=
  e.segs.foldl (fun a g =>
    if g.src.isEmpty then (a.1 ++ g.data, a.2.segPut e.src tile e.ctx e.win e.atom true g)
    else
      let bs := g.src.flatMap a.2.sourceBytes
      let s1 := if e.src < 5 then a.2.takeBuffer tile (segsBytes [g]) else a.2
      (a.1 ++ bs, s1.segPut e.src tile e.ctx e.win e.atom true { g with data := bs })) ([], s)

/-- A store's bytes come from elsewhere: RST, RACC and the RST action. -/
def Store.streams (e : Store) : Bool := !e.sources.isEmpty

/-- Parts 1 and 2 of a store (R138), or the packets of a remote accumulation (R378), with the HORIZON records (R277) and the token (R142). -/
def State.performStore (s : State) (e : Store) : State :=
  let tile := (e.who.map Who.undoTile).getD 0
  match e.refl with
  | none => (s.performSegs e tile).2
  | some f =>
    let adds := e.adds.flatMap s.sourceBytes
    let n := (e.segs.map (·.len)).sum + adds.length
    let s0 := if e.streams && e.src < 5 then s.takeBuffer tile (24 * s.horizonCount e.ctx f) else s
    let r := (s0.reflectHorizons e.src tile e.ctx f n).performSegs e tile
    let t := r.2.tokenOf f n
    let s1 := r.2.reflect { who := e.who, run := e.run, firing := e.firing, ctx := e.ctx, order := e.order, win := e.win } f (r.1 ++ adds)
    let s2 := match e.who, e.op with
      | some p, some id => s1.giveOp p id t
      | _, _ => s1
    { s2 with actions := s2.actions.map fun f => if e.list = some f.id then { f with token := some t } else f }

/-! ### HBM ports (R202): the ports of a tile's die serve its requests; the spec gives them no number and no capacity (log entry 126) -/

/-- The die whose ports serve a store: its tile's; the Ferry's and the engines' stores count as a fifth. -/
def Store.die (e : Store) : Nat := match e.who.bind Who.tile? with
  | some t => dieOf t
  | none => 4

/-- The context whose requests a die's ports serve first in this cycle: HCTX where HV is set. -/
def State.hbmOwner (s : State) (die : Nat) : Option Nat :=
  let e := s.reg (offSlotTab die (s.ccc.toNat % 256))
  if die < 4 ∧ bit e 7 then some (fld e 8 6) else none

/-- Requests in turn over the contexts, starting after the one last served. -/
def inTurn (last : Nat) : Nat → List Store → List Store
  | 0, _ => []
  | n + 1, l =>
    match (List.range 64).findSome? fun i => l.find? fun e => e.ctx == (last + i) % 64 with
    | some e => e :: inTurn (e.ctx + 1) n (l.erase e)
    | none => l

/-- The outstanding stores in the order in which the ports grant them. -/
def State.grantOrder (s : State) : List Store :=
  (List.range 5).flatMap fun d =>
    let l := s.stores.filter fun e => e.die == d
    let own := l.filter fun e => s.hbmOwner d == some e.ctx
    let rest := l.filter fun e => s.hbmOwner d != some e.ctx
    own ++ inTurn (tget 0 s.hbmLast d) rest.length rest

/-- STORE_PERFORMED (R136): the outstanding store of an order number, when no earlier access of its party has to go first. -/
def execStorePerformed (n : Nat) (s : State) : Ans :=
  match s.stores.find? fun e => e.order == n with
  | none => .next s
  | some e =>
    if s.storeBefore e || s.loadBefore e || !s.sourcesReady e then .next s
    else
      let s1 := match e.atom, e.segs, e.who, e.op with
        | true, g :: _, some w, some id => s.performAtomic e g w id
        | _, _, _, _ => s.performStore e
      .next { s1 with
        stores := s.stores.filter fun d => d.order != n
        hbmLast := if s.hbmOwner e.die = some e.ctx then s1.hbmLast else tput 0 s1.hbmLast e.die (e.ctx % 64 + 1) }

/-! ## Variable-latency results (R231) -/

/-- Write a result: the register's bit is set, and streams that stopped before it may frame. -/
def State.writeResult (s : State) (w : Who) (id : Nat) (v : Word) : State :=
  match s.opOf w id with
  | none => s
  | some o =>
    let on (c : Scalars) : Scalars :=
      if c.ops.any (·.id == id) then { (c.set o.reg v).markFull o.reg with ops := c.ops.filter (·.id != id) } else c
    let s1 := (s.modScal w on).wakeWfe w
    match w with
    | .stream t _ =>
      -- a handler that runs reads s16-s63 as the task's registers (R288)
      let live (x : Tile) : Scalars :=
        if 16 ≤ o.reg.toNat && x.handler.any (fun h => h.saved.ops.any (·.id == id)) then (x.sc.set o.reg v).markFull o.reg else x.sc
      let s2 := s1.modTile t fun x => { x with sc := live x, handler := x.handler.map fun h => { h with saved := on h.saved } }
      ((List.range 4).foldl (fun s k => s.frameIfQuiet t k) (s2.wakeWfe (.stream t 0)))
    | _ => s1

/-- A REL takes effect once the writes it covers have been performed (R131, R132); an early trigger's fails as at retirement. -/
def State.performRel (s : State) (w : Who) (o : VarOp) (va : Word) : Option (Word × State) :=
  if s.storesBefore w o.id || s.rangeMoves (s.ctxOf w) va 64 then none
  else if o.reg = 0 ∧ fld o.insn 26 6 = 0x39 then
    match w with
    | .stream t _ => (s.tile t).task.bind fun k => (s.taskRelease t k va).map fun s1 => (0, s1)
    | _ => some (0, s)
  else match s.objectAt (s.ctxOf w) va with
    | some (pa, v) =>
      let s1 := s.releaseObject w.src w.undoTile (s.ctxOf w) (s.winOf w.src w.undoTile (s.ctxOf w)) va pa
      some ((objGen v + 1).setWidth 64, s1.forgetLock w va)
    | none => let d := s.drawWord; some (d.1, d.2.unreserve w.src w.undoTile (s.ctxOf w) 3)

/-- The value an operation has now; none: it waits. -/
def State.valueOf (s : State) (w : Who) (o : VarOp) : Option (Word × State) :=
  match o.what with
  | .value v => some (v, s)
  | .load _ pa n sext =>
    let earlier := (s.scal w).ops.any fun p => p.id < o.id && (match p.what with
      | .load _ qa m _ => wordsMeet pa n qa m
      | _ => false)
    if s.storeOver w o.id pa n || earlier then none else some (extend n sext (mval s.hbm pa n), s)
  | .reg off => some (s.barRead off (lowBits 64))
  | .rel va => s.performRel w o va
  | .preemption t => if (s.tile t).collect.isNone then some (stNone, s) else none
  | _ => none

/-- A party raises a cause for an instruction that it issued earlier, which stays in its replay queue: its frame names the instruction that it
stands at, and a BAR that waits there with INFO = 1 (R249, R350, R459). -/
def State.raiseLate (s : State) (w : Who) (k : Nat) (c : Cause) (info : Word) : State :=
  match w with
  | .stream t _ => s.raiseIdle t k c (if s.barCounted (.stream t k) (s.insnAt (.stream t k)) then 1 else info)
  | .thread n => s.raiseThread n c
  | .engine _ => s

/-- A replayed load whose page was migrating translates again (R121, R459). -/
def State.loadAgain (s : State) (w : Who) (o : VarOp) (ea : Word) (n : Nat) (signed : Bool) : State :=
  match s.locate w ea n false with
  | .ok r => r.2.modOp w o.id fun p => { p with what := r.2.loadKind w n signed r.1 }
  | .raise c i => s.raiseLate w o.stream c i
  | _ => s

/-- VARIABLE_RESULT_WRITE (R231): an operation whose value is there is written, no sooner than its cycle (R347). -/
def execVariableResultWrite (who : Who) (op : Nat) (s : State) : Ans :=
  match s.opOf who op with
  | none => .next s
  | some o =>
    if 2 ^ 63 ≤ (s.ccc - o.notBefore).toNat then .next s
    else match o.what with
      | .again ea n signed => .next (s.loadAgain who o ea n signed)
      | _ => match s.valueOf who o with
        | some (v, s1) => .next (s1.writeResult who op v)
        | none => .next s

/-! ## Waits (R131, R135, R141) -/

/-- ACQ_GRANT (R131): an EVENT's generation, or a LOCK that is free for the first party that asked. -/
def execAcqGrant (who : Who) (op : Nat) (s : State) : Ans :=
  match s.opOf who op with
  | none => .next s
  | some o =>
    match o.what with
    | .acq obj gen =>
      if s.rangeMoves (s.ctxOf who) obj 64 then .next s
      else match s.objectAt (s.ctxOf who) obj with
      | none => .next s
      | some (pa, v) =>
        let g : Word := (objGen v).setWidth 64
        if objEvent v then (if passed32 (objGen v) gen then .next (s.giveOp who op g) else .next s)
        else if s.holds who v && !s.releasing who obj then .next (s.giveOp who op g)
        else if objHeld v || ((s.waiters (s.ctxOf who) obj).head?.map (·.1)) != some op then .next s
        else match s.reserve who.src who.undoTile (s.ctxOf who) 1 obj with
          | .ok s1 => .next ((s1.takeLock who who.src obj pa v).giveOp who op g)
          | _ => .next s
    | _ => .next s

/-- A wait has lasted longer than a limit in µs; zero disables it. -/
def State.waitedOver (s : State) (us : Nat) (since : Word) : Bool := us != 0 && decide (cyclesOf us < (s.ccc - since).toNat)

/-- ACQ_TIMEOUT (R135, R421): the ACQ or CWAIT stays in the frame's replay queue, and is issued afresh. -/
def execAcqTimeout (who : Who) (op : Nat) (s : State) : Ans :=
  match s.opOf who op with
  | none => .next s
  | some o =>
    let late := s.waitedOver (s.cxF (s.ctxOf who) cACQTMO 0 17) o.since && (s.strm who).stop.isNone
    match o.what with
    | .acq obj _ => if late then .next (s.raiseLate who o.stream .acqTimeout obj) else .next s
    | .cwait _ _ => if late then .next (s.raiseLate who o.stream .acqTimeout 0) else .next s
    | _ => .next s

/-- FENCE_RF_TIMEOUT (R141). -/
def execFenceRfTimeout (who : Who) (s : State) : Ans :=
  match (s.strm who).fenceSince with
  | some since =>
    if s.waitedOver (s.cxF (s.ctxOf who) cRFTMO 0 17) since && (s.strm who).stop.isNone then
      .next ((s.modStrm who fun st => { st with fenceSince := none }).raiseLate who who.num .fenceRfTimeout 0)
    else .next s
  | none => .next s

end Sys2Proof.Machine
end

