-- ==== Sys2Proof/Machine/Host.lean ====
section
/-! DEFINITION. What enters through the Ultra Ethernet ports (R56-R62) and the host port (R65-R68). -/
namespace Sys2Proof.Machine
open Sys2Proof

/-- An input joins the arrival sequence in this Ferry cycle (R55, R78). -/
def State.joinArrivals (s : State) (a : Arrival) : State := { s with arrivals := s.arrivals ++ [{ a with born := s.ferryCycle }] }

/-! ## Ultra Ethernet -/

/-- The context of a job id (R79, R80): the lowest valid entry. -/
def State.jobCtx (s : State) (job : Nat) : Option Nat :=
  (firstBelow (fun i => bit (s.reg (offUetJob i)) 30 && s.regF (offUetJob i) 0 24 == job) 64 0).map fun i => s.regF (offUetJob i) 24 6

/-- The index of an initiator in a port's peer table, or 0xFFF (R62). -/
def State.peerIndex (s : State) (port : Nat) (r : UetRequest) : Nat :=
  (firstBelow (fun i =>
    let e := s.reg256 (offUetPeer port i)
    bit e 0 && bit e 1 == r.v4 && fld e 32 32 == r.pep.toNat &&
      (if r.v4 then fld e 64 32 == r.addr.toNat % 2 ^ 32 else fld e 64 128 == r.addr.toNat)) 4095 0).getD 0xFFF

/-- A request is refused with the unsupported-operation or the address-error status (R57, R59). -/
def State.refuse (s : State) (port : Nat) (address : Bool) : State := (s.bump offUetRefused).emit (.uetRefused port address)

/-- Requests of a context that is not in RUN, or that plays, are refused with the resource-unavailable NACK (R261, R285). -/
def State.unavailable (s : State) (c : Nat) : Bool := s.mstate c != 0 || s.playing c

/-- Delivery contexts of a port (R56). -/
def pdcLimit : Nat := 4096

/-- A delivery context of a port among those of all ports. -/
def pdcOf (r : UetRequest) : Nat := r.port % 4 * pdcLimit + r.pdc

/-- A tagged send (R58, R60). -/
def State.taggedSend (s : State) (r : UetRequest) : State :=
  match s.jobCtx r.job.toNat with
  | none => s.refuse r.port false
  | some c =>
    if s.unavailable c then s.emit (.nack r.port)
    else
      let left := r.len - r.data.length
      s.joinArrivals
        { mb := r.tag, skind := r.port % 4 + 1, aop := false, src := s.peerIndex r.port r, hdata := r.hdata.getD 0, len := r.len,
          data := r.data.take r.len, ctx := c, pdc := if left = 0 then none else some (pdcOf r), left := left, more := [], recAt := none, born := 0 }

/-- A host or RMA write's replay entry (R283); bits [14:12] of K hold the bytes of a last word that is not whole. -/
def State.recordWrite (s : State) (rxw off : Nat) (data : List Byte) : State :=
  s.recordInput (fld (s.reg128 (offRxw rxw)) 1 6) 3 (rxw + data.length % 8 * 2 ^ 12 + off * 2 ^ 64) data

/-- An RMA write (R59), whole: the deposit, and with header data the write notice after it. An unknown job is refused before the key is
looked at (log entry 116). -/
def State.rmaWrite (s : State) (r : UetRequest) : Res State :=
  let w := r.tag.toNat
  let e := s.reg128 (offRxw w)
  let c := fld e 1 6
  match s.jobCtx r.job.toNat with
  | none => .ok (s.refuse r.port false)
  | some job =>
    if 4096 ≤ w || !bit e 0 || decide (winSize e < r.off.toNat + r.data.length) then
      .ok ((s.refuse r.port true).report .windowUnmapped (if w < 4096 ∧ bit e 0 then c else 0) 8 r.port (w % 2 ^ 32))
    else if s.unavailable c then .ok (s.emit (.nack r.port))
    else (s.rxWrite w r.off.toNat r.data none).bind fun s1 =>
      let s2 := s1.recordWrite w r.off.toNat r.data
      .ok (match r.hdata with
        | none => s2
        | some h =>
          s2.joinArrivals { mb := r.tag, skind := r.port % 4 + 1, aop := true, src := s.peerIndex r.port r, hdata := h, len := r.data.length,
                            data := [], ctx := job, pdc := none, left := 0, more := [], recAt := none, born := 0 })

/-- A request by its kind and delivery mode (R56, R57): UUD is dropped, RUDI serves RMA writes alone, and a delivery context that the port
does not have gets no resources (log entry 116). -/
def State.uetRequest (s : State) (r : UetRequest) : Res State :=
  if r.mode = .uud then .ok (s.bump offUetDrop)
  else if pdcLimit ≤ r.pdc then .ok (s.emit (.nack r.port))
  else match r.kind with
    | .taggedSend => .ok (if r.mode = .rudi then s.refuse r.port false else s.taggedSend r)
    | .rmaWrite => s.rmaWrite r
    | _ => .ok (s.refuse r.port false)

/-! ## The host port -/

/-- A write into an aperture (R65). One whose aperture names another context than its window is dropped as an unmapped one (log entry 116). -/
def State.apertureWrite (s : State) (i off : Nat) (data : List Byte) : Res State :=
  let h := s.reg (offHostAp i)
  let w := fld h 1 12
  let e := s.reg128 (offRxw w)
  let c := fld h 13 6
  if !bit h 0 || !bit e 0 || fld e 1 6 != c || decide (winSize e < off + data.length) then
    .ok ((s.bump offHostDrop).report .windowUnmapped (if bit h 0 then c else 0) 7 0 (if bit h 0 then w else 0))
  else if s.playing c then .stall .notReady s
  else (s.rxWrite w off data none).bind fun s1 => .ok (s1.recordWrite w off data)

/-- BAR2 writes that are deposited and not yet counted (R67). -/
def State.bar2Pending (s : State) : Bool := s.winDel.any (·.ack.isNone)

/-- The arrival of a doorbell (R66). -/
def doorbellArrival (c : Nat) (data : List Byte) : Arrival :=
  { mb := BitVec.ofNat 64 (leNat (data.take 8)), skind := 5, aop := false, src := c, hdata := BitVec.ofNat 64 (leNat (data.drop 8)), len := 0,
    data := [], ctx := c, pdc := none, left := 0, more := [], recAt := none, born := 0 }

/-! ## Ingresses (R276, R285) -/

/-- The ingress of an input: 0 the host port, 1 to 4 the Ethernet ports. -/
def LiveInput.ingress : LiveInput → Nat
  | .aperture .. | .doorbell .. => 0
  | .request r => r.port % 4 + 1
  | .more pdc .. => pdc / pdcLimit % 4 + 1

/-- An input takes effect, or stalls and must wait. A doorbell waits for the BAR2 writes before it (R67). -/
def State.applyInput (s : State) (x : LiveInput) : Res State :=
  match x with
  | .aperture i off data => s.apertureWrite i off data
  | .doorbell page data => if s.bar2Pending then .stall .notReady s else .ok (s.joinArrivals (doorbellArrival page data))
  | .request r => s.uetRequest r
  | .more pdc off data => s.morePacket pdc off data

/-- An input comes: it waits behind an earlier one of its ingress, and at its head while it cannot take effect. -/
def State.liveInput (s : State) (x : LiveInput) : State :=
  if s.heldIn.any (fun y => y.ingress == x.ingress) then { s with heldIn := s.heldIn ++ [x] }
  else match s.applyInput x with
    | .ok s1 => s1
    | .stall _ s1 => { s1 with heldIn := s1.heldIn ++ [x] }
    | _ => s

/-- The input at the head of an ingress is tried again. -/
def State.retryInput (s : State) (n : Nat) : State :=
  match s.heldIn.find? (fun x => x.ingress == n) with
  | none => s
  | some x => match State.applyInput { s with heldIn := s.heldIn.erase x } x with
    | .ok s1 => s1
    | .stall _ s1 => { s1 with heldIn := s.heldIn }
    | _ => s

/-! ## The events -/

/-- TAGGED_SEND_ARRIVAL (R58, R57): a tagged send, or a request that is refused. -/
def execTaggedSendArrival (r : UetRequest) (s : State) : Ans := .next (s.liveInput (.request r))

/-- RMA_WRITE_ARRIVAL (R59). -/
def execRmaWriteArrival (r : UetRequest) (s : State) : Ans := .next (s.liveInput (.request r))

/-- CONTINUATION_PACKET (R60): a later packet of a multi-packet send, on a delivery context numbered among those of all ports. -/
def execContinuationPacket (pdc off : Nat) (data : List Byte) (s : State) : Ans := .next (s.liveInput (.more pdc off data))

/-- UUD_PACKET (R56): dropped and counted. -/
def execUudPacket (_ : Nat) (s : State) : Ans := .next (s.bump offUetDrop)

/-- HOST_APERTURE_WRITE (R65). -/
def execHostApertureWrite (aperture off : Nat) (data : List Byte) (s : State) : Ans := .next (s.liveInput (.aperture (aperture % 256) off data))

/-- DOORBELL (R66, R67). -/
def execDoorbell (page off : Nat) (data : List Byte) (s : State) : Ans :=
  if data.length ≠ 16 || off % 16 ≠ 0 || 4096 ≤ off || 64 ≤ page || !s.ctxExists page then .next (s.bump offHostDrop)
  else .next (s.liveInput (.doorbell page data))

/-- HOST_UNSUPPORTED_READ (R68): of BAR2 or BAR4. -/
def execHostUnsupportedRead (bar : Nat) (s : State) : Ans := if bar = 2 ∨ bar = 4 then .next (s.emit .unsupportedRequest) else .next s

end Sys2Proof.Machine
end

