-- ==== Sys2Proof/Machine/Link.lean ====
section
/-! DEFINITION. Strait links: the link layer of both directions (R32-R42), arbitration (R45), and a link's going down, training and
fencing (R51-R53). -/
namespace Sys2Proof

/-- Buffer class (R40). -/
def Flit.cls (f : Flit) : Nat := 2 * f.vc.toNat + (if f.dlc then 1 else 0)

def Flit.isData (f : Flit) : Bool := f.ftype == 0

end Sys2Proof

namespace Sys2Proof.Machine
open Sys2Proof

/-! ## Flits (R32-R35) -/

def Packet.cls (p : Packet) : Nat := 2 * (p.vc % 4) + (if p.dlc then 1 else 0)

/-- A packet that the first router to read its header discards (R35): a reserved POP, or a VC that is not the POP's. -/
def Packet.bad (p : Packet) : Bool := popVc p.pop (p.pop == 0 && bit p.word2 56) != some p.vc

/-- Saturating 16-bit counts in a link's status register (R51). -/
def State.bumpLink (s : State) (n lo : Nat) : State :=
  s.setRegF (offLinkStat n) lo 16 (satAdd 0xFFFF (s.regF (offLinkStat n) lo 16) 1)

/-! ## The sender (R38, R40, R45) -/

/-- Whether a flit has credit; a LEND flit needs none (R41). -/
def Link.hasCredit (l : Link) (f : Flit) : Bool := !f.isData || decide (tget 0 l.credits f.cls < tget 64 l.limits f.cls)

/-- Two packets of one path in its order (R46). -/
def Packet.samePath (p q : Packet) : Bool := p.ordered && q.ordered && p.src == q.src && p.dst == q.dst

/-- The first packet of an input and class that waits, unless an earlier packet of its path has to go first (R46). -/
def headFrom (port k : Nat) : List (Nat × Packet) → List (Nat × Packet) → Option (Nat × Packet)
  | _, [] => none
  | before, e :: later =>
    if e.1 == port && e.2.cls == k then (if before.any fun b => b.2.samePath e.2 then none else some e) else headFrom port k (e :: before) later

/-- The packet of a class that is granted the output: the inputs take turns (R45). -/
def Link.grant (l : Link) (k : Nat) : Option (Nat × Packet) :=
  (List.range 7).findSome? fun i => headFrom ((tget 0 l.turnIn k + i) % 7) k [] l.queue

/-- The next new flit and the link after it: the rest of the packet that holds the output, a LEND flit, or the first flit of a packet of
the next class in turn with credit (R45). Where a LEND flit stands in this arbitration the spec does not say: it goes before every
class once no packet holds the output (DESIGN CHOICE, log entry 113). -/
def Link.pick (l : Link) : Option (Flit × Link) :=
  match l.rest, l.lends with
  | f :: more, _ => if l.hasCredit f then some (f, { l with rest := more }) else none
  | [], f :: more => some (f, { l with lends := more })
  | [], [] => (List.range 8).findSome? fun i =>
    let k := (l.turn + 1 + i) % 8
    (l.grant k).bind fun e => match e.2.flits with
      | [] => none
      | f :: more =>
        if l.hasCredit f then some (f, { l with queue := l.queue.erase e, rest := more, turn := k, turnIn := tput 0 l.turnIn k ((e.1 + 1) % 7) }) else none

/-- Count a DATA flit as sent. -/
def Link.count (l : Link) (f : Flit) : Link := if f.isData then { l with credits := tmod 0 l.credits f.cls (· + 1) } else l

/-- The next sequenced flit to leave, and the link after it (R38): first those that a go-back made unsent, in order. -/
def Link.nextFlit (l : Link) : Option (Flit × Link) :=
  match l.resend with
  | f :: rest => if l.hasCredit f then some (f, { l.count f with resend := rest, replay := l.replay ++ [f] }) else none
  | [] =>
    if 1024 ≤ l.replay.length then none
    else l.pick.map fun h =>
      let f : Flit := { h.1 with seq := l.seq }
      (f, { h.2.count f with replay := l.replay ++ [f], seq := l.seq + 1 })

/-- The credits that may be returned: none for the token-VC classes while the harbour queue of the link's input is full (R148). -/
def Link.due (l : Link) (full : Bool) : Tab Nat := l.owe.filter fun e => !(full && e.1 / 2 == 2)

/-- A flit on its way carries E and the credits of one class (R32). -/
def Link.stamp (l : Link) (full : Bool) (f : Flit) : Flit × Link :=
  match l.due full with
  | [] => ({ f with ack := l.expect }, { l with acked := l.expect })
  | (k, n) :: _ =>
    let m := min 31 n
    ({ f with ack := l.expect, cclass := BitVec.ofNat 3 k, ccount := BitVec.ofNat 5 m }, { l with acked := l.expect, owe := tmod 0 l.owe k (· - m) })

/-- The harbour queue of an input is full (R144, R148). -/
def State.harbourFull (s : State) (port : Nat) : Bool := 256 ≤ (tget [] s.harbour port).length

/-- A flit leaves on a link, with its CRC. -/
def State.sendFlit (s : State) (n : Nat) (l : Link) (f : Flit) : State :=
  let r := l.stamp (s.harbourFull n) f
  ({ s with links := tput Link.idle s.links n r.2 } : State).emit (.flit n r.1.sealed)

/-- A NAK flit: E in body bytes 8-9 and the reason in byte 10 (R37). -/
def nakFlit (e : BitVec 16) (reason : Nat) : Flit := { zeroFlit with ftype := 2, body := flitBody (leBytes 2 e.toNat ++ [BitVec.ofNat 8 reason]) }

/-- A LEND flit is still to be sent: a NAK that follows it waits, so that the LEND arrives first (R42). -/
def Link.lending (l : Link) : Bool := !l.lends.isEmpty || l.resend.any fun f => !f.isData

/-- The link goes down as soon as sixteen go-backs in a row resend one SEQ, seen by either end (R39). -/
def State.exhaust (s : State) (n : Nat) : State :=
  if 16 ≤ (s.link n).goCount ∨ 16 ≤ (s.link n).nakCount then { s with agenda := .event (.nakExhausted n) :: s.agenda } else s

/-- A NAK leaves; one behind a LEND flit is due after it. -/
def State.sendNak (s : State) (n reason : Nat) : State :=
  let l := s.link n
  if l.lending then s.modLink n fun l => { l with nak := some reason, nakDue := some reason }
  else
    ((s.sendFlit n { l with nak := some reason, nakDue := none, nakCount := l.nakCount + 1 } (nakFlit l.expect reason)).bumpLink n 16).exhaust n

/-- One flit of an UP link: a sequenced one, or an IDLE flit that carries an ACK or credits. -/
def State.linkSend (s : State) (n : Nat) : State :=
  if s.linkState n ≠ 2 then s
  else
    let l := s.link n
    match (if l.lending then none else l.nakDue), l.nextFlit with
    | some reason, _ => s.sendNak n reason
    | none, some (f, l1) => s.sendFlit n l1 f
    | none, none => if l.acked = l.expect && (l.due (s.harbourFull n)).isEmpty then s else s.sendFlit n l { zeroFlit with ftype := 3 }

/-- Resend from a SEQ: every flit from it on counts as never sent (R38). -/
def Link.goBack (l : Link) (n : BitVec 16) : Link :=
  let later (f : Flit) : Bool := decide ((f.seq - n).toNat < 2 ^ 15)
  let back := l.replay.filter later
  let l1 := back.foldl (fun (l : Link) f => if f.isData then { l with credits := tmod 0 l.credits f.cls (· - 1) } else l) l
  { l1 with replay := l.replay.filter (fun f => !later f), resend := back ++ l.resend, goSeq := n,
            goCount := if l.goSeq = n then l.goCount + 1 else 1 }

/-- The oldest flit that is not acknowledged. -/
def Link.oldest (l : Link) : Option (BitVec 16) := (l.replay ++ l.resend).head?.map (·.seq)

/-- A go-back of a link, counted (R38, R51, R293). -/
def State.goBackTo (s : State) (n : Nat) (q : BitVec 16) : State :=
  if (s.link n).replay.isEmpty && (s.link n).resend.isEmpty then s
  else (((s.modLink n fun l => l.goBack q).bumpLink n 32).gather (0x8BB8 + 8 * n) 1).exhaust n

/-- Flits leave the replay buffer as an ACK passes them; the first flit of a packet that is only partly acknowledged is kept. -/
def Link.dropAcked : Nat → Link → Link
  | 0, l => l
  | k + 1, l =>
    let keep (f : Flit) (m : Link) : Link :=
      if f.isData then { m with first := if f.last then none else if f.first then some f else m.first } else m
    match l.replay, l.resend with
    | f :: rest, _ => Link.dropAcked k (keep f { l with replay := rest })
    | [], f :: rest => Link.dropAcked k (keep f { l.count f with resend := rest })
    | [], [] => l

/-- The ACK and credit fields of a good flit (R33, R38, R40). -/
def Link.applyAck (l : Link) (f : Flit) : Link :=
  let l1 := match l.oldest with
    | none => l
    | some o =>
      let n := (f.ack - o).toNat
      if n ≤ l.replay.length + l.resend.length then Link.dropAcked n l else l
  { l1 with credits := tmod 0 l1.credits f.cclass.toNat (· - f.ccount.toNat) }

/-! ## The receiver (R33, R37, R40, R41) -/

/-- A discard: the first since E last advanced sends a NAK (R37). -/
def State.discardFlit (s : State) (n reason : Nat) : State := if (s.link n).nak.isNone then s.sendNak n reason else s

/-- E advances. -/
def Link.accept (l : Link) : Link := { l with expect := l.expect + 1, nak := none, nakDue := none, nakCount := 0 }

/-- Give back the buffers of flits of a class. -/
def Link.release (l : Link) (k n : Nat) : Link :=
  let m := min n (tget 0 l.rxHeld k)
  { l with rxHeld := tmod 0 l.rxHeld k (· - m), owe := tmod 0 l.owe k (· + m) }

/-- A DATA flit that is accepted; a complete packet waits at its input. -/
def State.takeData (s : State) (n : Nat) (f : Flit) : State :=
  let k := f.cls
  let l := (s.link n).accept
  let had := if f.first then [] else tget [] l.part k
  let l1 : Link := { l with rxHeld := tmod 0 l.rxHeld k (· + 1), rxCount := tmod 0 l.rxCount k (· + 1) }
  if !f.first && had.isEmpty then s.modLink n fun _ => l1.release k 1
  else
    let fs := had ++ [f]
    if f.last then { s.modLink n (fun _ => { l1 with part := tput [] l1.part k [] }) with inq := tmod [] s.inq n (· ++ [Packet.ofFlits fs]) }
    else s.modLink n fun _ => { l1 with part := tput [] l1.part k fs }

/-- The limits that a LEND flit announces (R41). -/
def lendLimits (f : Flit) : Tab Nat :=
  (List.range 8).foldl (fun t i => tput 64 t i (leNat ((f.body.drop (2 + 2 * i)).take 2))) []

/-- A flit arrives on an UP link. -/
def State.receiveFlit (s : State) (n : Nat) (f : Flit) : State :=
  if s.linkState n ≠ 2 then s
  else if !f.crcOk then s.discardFlit n 0
  else if 4 ≤ f.ftype.toNat || f.rsvd != 0 then s.discardFlit n 3
  else
    let s1 := s.modLink n fun l => l.applyAck f
    let l := s1.link n
    if f.ftype = 2 then s1.goBackTo n (BitVec.ofNat 16 (leNat (f.body.take 2)))
    else if f.ftype = 3 then s1
    else if f.seq ≠ l.expect then s1.discardFlit n 2
    else if f.ftype = 1 then s1.modLink n fun l => { l.accept with limits := lendLimits f }
    else if tget 64 l.rxLimits f.cls ≤ tget 0 l.rxHeld f.cls then s1.discardFlit n 1
    else s1.takeData n f

/-- New limits from the flits accepted in a period (R41); none: no flit was. -/
def lendTable (u : Tab Nat) : Option (Tab Nat) :=
  let at_ (i : Nat) : Nat := tget 0 u i
  let sum := ((List.range 8).map at_).sum
  if sum = 0 then none
  else
    let base (i : Nat) : Nat := 4 + 480 * at_ i / sum
    let top := (List.range 8).foldl (fun m i => if at_ m < at_ i then i else m) 0
    let spare := 512 - ((List.range 8).map base).sum
    some ((List.range 8).foldl (fun t i => tput 64 t i (base i + (if i = top then spare else 0))) [])

/-- A LEND flit (R41). -/
def lendFlit (period : BitVec 16) (t : Tab Nat) : Flit :=
  { zeroFlit with ftype := 1, body := flitBody (leBytes 2 period.toNat ++ (List.range 8).flatMap fun i => leBytes 2 (tget 64 t i)) }

/-! ## Down, training, fencing (R39, R51-R53) -/

/-- The packets that a link still holds, whole or by their first flits. -/
def Link.held (l : Link) : List Packet :=
  (l.first.toList ++ (l.replay ++ l.resend).filter fun f => f.isData && f.first).map (fun f => Packet.ofFlits [f]) ++ l.queue.map (·.2)

/-- Drop what a link holds: each packet in path order is answered with a status (R52, R53). -/
def State.dropHeld (s : State) (n status : Nat) : State :=
  let held := (s.link n).held
  let s1 := s.modLink n fun l => { Link.idle with lastAttempt := l.lastAttempt, period := l.period }
  held.foldl (fun s p => if p.ordered then (s.route 6 (ackPacketOf p status)).1 else s) s1

/-- Every link is FENCED or DOWN (R53). -/
def State.cutOff (s : State) : Bool := (List.range 6).all fun n => s.linkState n == 0 || s.linkState n == 3

/-- A link takes a state; a chip whose last link leaves service raises CHIP_FENCED_OFF. -/
def State.setLink (s : State) (n st : Nat) : State :=
  let s1 := s.setRegF (offLinkStat n) 0 2 st
  if s1.cutOff && !s.cutOff then s1.report .chipFencedOff 0 4 n s.chip else s1

/-- A link goes down (R39, R52). -/
def State.linkDown (s : State) (n dcause : Nat) : State :=
  let s1 := ((s.setRegF (offLinkStat n) 2 2 dcause).setLink n 0).dropHeld n 1
  let s2 := if dcause = 1 then s1.report .nakExhausted 0 4 n 0 else s1
  (s2.gather (0x8BE8 + 8 * n) 1).report .linkDown 0 4 n 0

/-- The links to a chip (R53). -/
def State.linksTo (s : State) (c : Nat) : List Nat :=
  (List.range 6).filter fun n => (match n / 2 with
    | 0 => decide (1 < s.dimX)
    | 1 => decide (1 < s.dimY)
    | _ => decide (1 < s.dimZ)) && s.neighbour n == c

/-! ## Events -/

/-- FLIT_RECEIVE (R37, R33). -/
def execFlitReceive (link : Nat) (f : Flit) (s : State) : Ans := .next (s.receiveFlit (link % 6) f)

/-- NAK_RECEIVE (R38). -/
def execNakReceive (link : Nat) (f : Flit) (s : State) : Ans :=
  if f.ftype = 2 then .next (s.receiveFlit (link % 6) f) else .next s

/-- NAK_RESEND_TIMEOUT (R37): the flit that a NAK asked for has not come. -/
def execNakResendTimeout (link : Nat) (s : State) : Ans :=
  match (s.link link).nak with
  | some reason => if s.linkState link = 2 then .next (s.sendNak link reason) else .next s
  | none => .next s

/-- GO_BACK_TIMEOUT (R38): to the oldest flit that is not acknowledged. -/
def execGoBackTimeout (link : Nat) (s : State) : Ans :=
  match (s.link link).oldest with
  | some q => if s.linkState link = 2 then .next (s.goBackTo link q) else .next s
  | none => .next s

/-- NAK_EXHAUSTED (R39): sixteen go-backs to one SEQ, seen by either end; State.exhaust makes it the next move. -/
def execNakExhausted (link : Nat) (s : State) : Ans :=
  if s.linkState link = 2 ∧ (16 ≤ (s.link link).goCount ∨ 16 ≤ (s.link link).nakCount) then .next (s.linkDown link 1) else .next s

/-- LOSS_OF_SIGNAL (R39). -/
def execLossOfSignal (link : Nat) (s : State) : Ans := if link < 6 ∧ s.linkState link = 2 then .next (s.linkDown link 2) else .next s

/-- A link may train: its dimension has a partner, and STRAIT.GEOM is valid (R29, R30). -/
def State.trains (s : State) (n : Nat) : Bool :=
  s.geomOk && decide (n < 6) && (match n / 2 with
    | 0 => decide (1 < s.dimX)
    | 1 => decide (1 < s.dimY)
    | _ => decide (1 < s.dimZ))

/-- TRAINING_ATTEMPT (R52): 100 ms after the start of the one before. -/
def execTrainingAttempt (link : Nat) (s : State) : Ans :=
  let due := match (s.link link).lastAttempt with
    | none => true
    | some c => decide (94000000 ≤ (s.ccc - c).toNat)
  if s.trains link && s.linkState link == 0 && due then
    .next ((s.setRegF (offLinkStat link) 0 2 1).modLink link fun l => { l with lastAttempt := some s.ccc })
  else .next s

/-- TRAINING_END (R52): UP, or DOWN again. -/
def execTrainingEnd (link : Nat) (locked : Bool) (s : State) : Ans :=
  if s.linkState link ≠ 1 then .next s
  else if locked then
    .next ((s.setRegF (offLinkStat link) 0 2 2).modLink link fun l => { Link.idle with lastAttempt := l.lastAttempt })
  else .next (s.setLink link 0)

/-- LEND_PERIOD_END (R41): the new limits hold from now on, and are announced. -/
def execLendPeriodEnd (link : Nat) (s : State) : Ans :=
  if s.linkState link ≠ 2 then .next s
  else
    let l := s.link link
    let l1 : Link := { l with rxCount := [], period := l.period + 1 }
    match lendTable l.rxCount with
    | none => .next (s.modLink link fun _ => l1)
    | some t => .next (s.modLink link fun _ => { l1 with rxLimits := t, lends := l1.lends ++ [lendFlit l.period t] })

/-- LEND_RECEIVE (R41). -/
def execLendReceive (link : Nat) (f : Flit) (s : State) : Ans :=
  if f.ftype = 1 then .next (s.receiveFlit (link % 6) f) else .next s

end Sys2Proof.Machine
end

