-- ==== Sys2Proof/Machine/Strait.lean ====
section
/-! DEFINITION. Packets at a router and at their destination: forwarding (R48, R35), path order (R46), reflected stores and remote
accumulation (R139, R169), messages (R81), acknowledgements (R36, R98), causal tokens (R142-R148) and fences (R53). -/
namespace Sys2Proof.Machine
open Sys2Proof

/-! ## Heads of the inputs (R45, R46) -/

/-- A packet goes before a later one of its class, or of its path. -/
def Packet.ahead (q p : Packet) : Bool :=
  q.cls == p.cls || (q.ordered && p.ordered && q.src == p.src && q.dst == p.dst)

/-- The first packet of a kind that no earlier one goes before; the rest of the input. -/
def headOf (want : Packet → Bool) : List Packet → List Packet → Option (Packet × List Packet)
  | _, [] => none
  | before, p :: rest =>
    if want p && !before.any (fun q => q.ahead p) then some (p, before.reverse ++ rest) else headOf want (p :: before) rest

/-- Take such a packet from an input; its link buffers are free. -/
def State.headAt (s : State) (port : Nat) (want : Packet → Bool) : Option (Packet × State) :=
  (headOf want [] (tget [] s.inq port)).map fun h =>
    let s1 : State := { s with inq := tput [] s.inq port h.2 }
    (h.1, if port < 6 then s1.modLink port fun l => l.release h.1.cls h.1.flits.length else s1)

/-- Take a packet for this chip of a kind, unless a fence drops it (R53). -/
def State.takePacket (s : State) (port : Nat) (want : Packet → Bool) (k : Packet → State → State) : Ans :=
  match s.headAt port (fun p => p.dst == s.chip && !p.bad && want p) with
  | none => .next s
  | some (p, s1) =>
    if s.fences.getLsbD p.src then .next s1
    else if s.fences.getLsbD p.dst && p.pop != 0x13 then .next (if p.ordered then s1.inject 6 (ackPacketOf p 2) else s1)
    else .next (k p s1)

/-- The context that a packet acts in: of its RX window, or of a message's match bits (R79). -/
def State.packetCtx (s : State) (p : Packet) : Nat :=
  if p.pop = 3 then nfld (leNat (p.data.take 8)) 58 6 else fld (s.reg128 (offRxw (fld p.word2 0 12))) 1 6

/-- A packet's replay entry; one that came from this chip itself is no input (R283). -/
def State.recordPacket (s : State) (c : Nat) (p : Packet) : State :=
  if p.src = s.chip then s else s.recordInput c 2 0 (p.header ++ p.data)

/-- A live packet of a context under PLAY waits at its ingress (R285). -/
def State.mustWait (s : State) (c : Nat) (p : Packet) : Bool := s.playing c && p.src != s.chip

/-! ## Tokens (R142-R146) -/

def pktLanding (p : Packet) : Nat := fld p.word3 10 10
def pktOrigin (p : Packet) : Nat := fld p.word3 0 10
def pktSeq (p : Packet) : BitVec 32 := p.word3.extractLsb' 20 32

/-- LHW of an origin: all ones before the first delivery of its path. -/
def State.mark (s : State) (origin : Nat) : BitVec 32 := tget 0xFFFFFFFF#32 s.lhw origin

/-- The token-table entry of a landing chip and an origin. -/
def State.tokenAt (s : State) (landing origin : Nat) : Option (Nat × TokEntry) :=
  s.tokens.findSome? fun e => e.2.bind fun t => if t.landing = landing ∧ t.origin = origin then some (e.1, t) else none

def State.setToken (s : State) (i : Nat) (t : TokEntry) : State :=
  { s with tokens := tput none s.tokens i (some t), tokenUse := s.tokenUse.filter (· != i) ++ [i] }

/-- The mark M of R143 for a landing chip and an origin. -/
def State.tokenMark (s : State) (landing origin : Nat) : Option (BitVec 32) :=
  if landing = s.chip then some (s.mark origin) else (s.tokenAt landing origin).bind (·.2.mark)

/-- An RST's token is satisfied, or it carries none. -/
def State.tokenMet (s : State) (p : Packet) : Bool :=
  p.pop != 0 || !bit p.word2 56 || (match s.tokenMark (pktLanding p) (pktOrigin p) with
    | some m => passed32 m (pktSeq p)
    | none => false)

/-- Packets held, by port. -/
def State.heldAll (s : State) : List (Nat × Held) := (List.range 7).flatMap fun i => (tget [] s.harbour i).map fun h => (i, h)

/-- REFS of a token-table entry: held packets that wait on it. -/
def State.tokenRefs (s : State) (t : TokEntry) : Nat :=
  s.heldAll.countP fun h => !s.tokenMet h.2.p && pktLanding h.2.p == t.landing && pktOrigin h.2.p == t.origin

/-- A place for a new pair: a free entry, or the least recently used one that no packet waits on (R146). -/
def State.tokenPlace (s : State) : Option Nat :=
  match firstBelow (fun i => (tget none s.tokens i).isNone) 1024 0 with
  | some i => some i
  | none => s.tokenUse.find? fun i => (tget none s.tokens i).all fun t => s.tokenRefs t == 0

/-- Send a token query (R145); its bytes 16-23 carry the token's TKO and TKS in the token's places. -/
def State.sendQuery (s : State) (i landing origin : Nat) (mark : Option (BitVec 32)) (q : BitVec 32) : State :=
  (s.setToken i { landing := landing, origin := origin, qout := true, mark := mark, asked := q, short := none }).sendPlain landing 0x10 3
    (makeToken origin landing q &&& 0xFFFFFFFFFFFFF) 0 []

/-- Ask for a held packet's token, unless a query is out, an answer from a full list was too low, or the table is full. -/
def State.ask (s : State) (p : Packet) : State :=
  if s.tokenMet p || pktLanding p == s.chip then s
  else match s.tokenAt (pktLanding p) (pktOrigin p) with
    | some (i, t) => if t.qout || t.short.isSome then s else s.sendQuery i t.landing t.origin t.mark (pktSeq p)
    | none => match s.tokenPlace with
      | some i => s.sendQuery i (pktLanding p) (pktOrigin p) none (pktSeq p)
      | none => s

/-- A TKA answer with this chip's mark. -/
def State.answerQuery (s : State) (asker origin : Nat) : State :=
  s.sendPlain asker 9 1 (BitVec.ofNat 64 (origin % 1024 + (s.mark origin).toNat * 2 ^ 20)) 0 []

/-- A path's mark has moved: the queries that it passes are answered (R145). -/
def State.answerQueries (s : State) (origin : Nat) : State :=
  let met (q : Nat × Nat × BitVec 32) : Bool := q.2.1 == origin && passed32 (s.mark origin) q.2.2
  (s.queries.filter met).foldl (fun s q => s.answerQuery q.1 q.2.1) { s with queries := s.queries.filter fun q => !met q }

/-- A packet of a path has been delivered (R143). -/
def State.landed (s : State) (p : Packet) : State := State.answerQueries { s with lhw := tput 0xFFFFFFFF#32 s.lhw p.src p.pseq } p.src

/-! ## The adder and deliveries (R168, R169, R139, R81) -/

/-- Bytes of an element of a ROP format. -/
def ropBytes (rop : Nat) : Nat := if rop / 4 % 4 = 1 then 2 else 4

/-- Add of R168. -/
def ropAdd (rop m x : Nat) : Nat :=
  if rop / 4 % 4 = 2 then
    let a := (BitVec.ofNat 32 m).toInt
    let b := (BitVec.ofNat 32 x).toInt
    match rop % 4 with
    | 0 => (m + x) % 2 ^ 32
    | 1 => if a < b then x else m
    | _ => if a < b then m else x
  else
    let t := if rop / 4 % 4 = 1 then 1 else 0
    let a := decodeNum t 0 m
    let b := decodeNum t 0 x
    roundTo (match rop % 4 with
      | 0 => Num.add 0 a b
      | 1 => Num.max a b
      | _ => Num.min a b) t 0 0

/-- Element-wise Add of two byte strings. -/
def ropBytesAdd (rop : Nat) : Nat → List Byte → List Byte → List Byte
  | 0, _, _ => []
  | n + 1, a, b =>
    if b.isEmpty then []
    else leBytes (ropBytes rop) (ropAdd rop (leNat (a.take (ropBytes rop))) (leNat (b.take (ropBytes rop)))) ++
      ropBytesAdd rop n (a.drop (ropBytes rop)) (b.drop (ropBytes rop))

/-- What an RST or RACC packet leaves in its window. -/
def State.windowAfter (s : State) (p : Packet) : List Byte :=
  let w := fld p.word2 0 12
  let off := fld p.word2 12 40
  if p.pop = 0 then p.data
  else
    let e := s.reg128 (offRxw w)
    if !bit e 0 || winSize e < off + p.data.length then p.data
    else ropBytesAdd (fld p.word2 52 4) p.data.length (s.windowBytes true w (fld e 1 6) off p.data.length) p.data

/-- A collective's staging window and slot size (R156, R157). -/
def Coll.stgw (c : Coll) : Nat := fld c.desc 36 12
def Coll.slotB (c : Coll) : Nat := 1024 * fld c.desc 301 16

/-- A trailer delivered into a slot that a collective keeps for the packet's source (R164). -/
def CollRun.note (r : CollRun) (p : Packet) : CollRun :=
  if fld p.word2 0 12 ≠ r.c.stgw ∨ p.data.length ≠ 8 then r
  else
    { r with inbound := r.inbound.map fun b =>
        if r.c.rmap[b.src]? = some p.src ∧ fld p.word2 12 40 = b.off + r.c.slotB - 8 then { b with landed := some (BitVec.ofNat 64 (leNat p.data)) } else b }

def State.stageNote (s : State) (p : Packet) : State :=
  if p.pop ≠ 0 then s else { s with colls := s.colls.map fun e => (e.1, { e.2 with run := e.2.run.map (·.note p) }) }

/-- Deliver the next packet of a path, or wait for undo-log space (R46, R276). -/
def State.deliver (s : State) (p : Packet) : Res State :=
  let c := s.packetCtx p
  if p.pop = 3 then
    .ok (((s.joinArrivals
      { mb := BitVec.ofNat 64 (leNat (p.data.take 8)), skind := 0, aop := false, src := p.src,
        hdata := BitVec.ofNat 64 (leNat ((p.data.drop 8).take 8)), len := p.data.length - 16, data := p.data.drop 16, ctx := c, pdc := none,
        left := 0, more := [], recAt := none, born := 0 }).inject 6 (ackPacketOf p 0)).landed p)
  else match s.rxWrite (fld p.word2 0 12) (fld p.word2 12 40) (s.windowAfter p) (some (p, 0)) with
    | .ok s1 => .ok (((s1.recordPacket c p).stageNote p).landed p)
    | .raise _ _ | .denied _ _ _ => .ok ((s.inject 6 (ackPacketOf p 3)).landed p)
    | .stall w s1 => .stall w s1
    | .fault f => .fault f

/-! ## Harbour queues (R144-R148) -/

def State.harbourAt (s : State) (port : Nat) : List Held := tget [] s.harbour port

/-- Replace a harbour queue; one that has room again may report once more. -/
def State.setHarbour (s : State) (port : Nat) (l : List Held) : State :=
  { s with harbour := tput [] s.harbour port l, holdTold := if l.length < 256 then s.holdTold.filter (· != port) else s.holdTold }

/-- The first held packet of each path at a port. -/
def pathHeads : List Nat → List Held → List Held
  | _, [] => []
  | seen, h :: rest => if seen.contains h.p.src then pathHeads seen rest else h :: pathHeads (h.p.src :: seen) rest

/-- Deliver one held packet that may go; a message waits while EN = 0 (R93). -/
def State.releaseOne (s : State) : Option State :=
  (List.range 7).findSome? fun port => (pathHeads [] (s.harbourAt port)).findSome? fun h =>
    if !s.tokenMet h.p || s.mustWait (s.packetCtx h.p) h.p || (h.p.pop == 3 && !bit (s.reg offMatchCtl) 0) then none
    else match s.deliver h.p with
      | .ok s1 => some (s1.setHarbour port ((s1.harbourAt port).erase h))
      | _ => none

def State.releaseHeld : Nat → State → State
  | 0, s => s
  | n + 1, s => match s.releaseOne with
    | some s1 => s1.releaseHeld n
    | none => s

/-- Deliver what may go, and ask for the tokens of what stays. -/
def State.tokensGo (s : State) : State :=
  let s1 := s.releaseHeld s.heldAll.length
  (s1.heldAll.map (·.2.p)).foldl State.ask s1

/-- A packet of a path arrives at its destination (R46, R144): s has it at its input, s1 has it taken. -/
def State.pathPacket (s : State) (port : Nat) (p : Packet) (s1 : State) : State :=
  if s.discarding.contains p.src || p.pseq != tget 0 s.pseqIn p.src then
    State.inject { s1 with discarding := if s.discarding.contains p.src then s.discarding else p.src :: s.discarding } 6 (ackPacketOf p 4)
  else
    let s2 : State := { s1 with pseqIn := tput 0 s1.pseqIn p.src (p.pseq + 1) }
    let q := s.harbourAt port
    if q.any (fun h => h.p.src == p.src) || !s.tokenMet p then
      if 256 ≤ q.length then s else (s2.setHarbour port (q ++ [{ p := p, since := s.ccc }])).tokensGo
    else if p.pop = 3 && !bit (s.reg offMatchCtl) 0 then s
    else match s2.deliver p with
      | .ok s3 => s3.tokensGo
      | .stall _ s3 => { s3 with inq := s.inq, links := s.links, pseqIn := s.pseqIn }
      | _ => s

/-- A packet event of path order. -/
def State.pathEvent (s : State) (port pop : Nat) : Ans :=
  let s0 := s.tokensGo
  match s0.headAt port (fun p => p.dst == s0.chip && !p.bad && p.pop == pop) with
  | none => .next s0
  | some (p, s1) =>
    if s0.mustWait (s0.packetCtx p) p then .next s0
    else if s0.fences.getLsbD p.src then .next s1
    else if s0.fences.getLsbD p.dst then .next (s1.inject 6 (ackPacketOf p 2))
    else .next (s0.pathPacket port p s1)

/-- RST_PACKET (R139, R144, R46). -/
def execRstPacket (port : Nat) (s : State) : Ans := s.pathEvent port 0

/-- RACC_PACKET (R169, R46). -/
def execRaccPacket (port : Nat) (s : State) : Ans := s.pathEvent port 1

/-- MSG_PACKET (R81, R46). -/
def execMsgPacket (port : Nat) (s : State) : Ans := s.pathEvent port 3

/-! ## Forwarding (R48, R35) -/

/-- PACKET_FORWARD (R48): a transit packet goes on or is dropped; a bad one is discarded by the first router that reads it. -/
def execPacketForward (port : Nat) (s : State) : Ans :=
  match s.headAt port (fun p => p.bad || p.dst != s.chip) with
  | none => .next s
  | some (p, s1) =>
    if p.bad then .next (if port < 6 then s1.bumpLink port 48 else s1) else .next (s1.inject port p)

/-! ## Acknowledgements (R36, R98, R141) -/

/-- One answered packet: the waiting send, action, engine or store learns of it; the first failure of an action is recorded. -/
def State.settle (s : State) (e : Sent) (status : Nat) : State :=
  match e.send, e.firing with
  | some id, _ => State.sendEnds { s with sent := s.sent.erase e } id (ackCause status)
  | none, some (entry, act) =>
    let s1 : State := { s with sent := s.sent.erase e }
    match ackCause status with
    | none => s1
    | some c =>
      let f := s1.flog entry act c e.ctx 0
      let s2 := f.2.report c e.ctx 5 entry f.1
      { s2 with sent := s2.sent.map fun x => if x.firing = some (entry, act) ∧ x.order = e.order then { x with firing := none } else x }
  | none, none =>
    -- an engine asks only whether a peer's path has dropped what it sent (R178)
    if e.who.isNone || status = 0 || (3 ≤ status && e.who.any fun w => w.tile?.isNone && !w.isThread) then { s with sent := s.sent.erase e }
    else { s with sent := s.sent.map fun x => if x = e then { x with status := some status } else x }

/-- The packets that an ACK answers: with OK every one up to its PSEQ, else the one that it names. -/
def ackCovers (p : Packet) (status : Nat) (e : Sent) : Bool :=
  e.dst == p.src && e.status.isNone && (if status = 0 then passed32 p.pseq e.pseq else e.pseq == p.pseq)

/-- Apply an ACK to packets that a predicate picks. -/
def State.applyAckPacket (s : State) (p : Packet) (which : Sent → Bool) : State :=
  let status := ((p.data.head?.map BitVec.toNat).getD 0)
  if 5 ≤ status then s
  else
    let l := s.sent.filter fun e => ackCovers p status e && which e
    let cs := (l.map (·.ctx)).eraseDups
    l.foldl (fun s e => s.settle e status) (cs.foldl (fun s c => s.recordPacket c p) s)

/-- ACK_PACKET (R36). -/
def execAckPacket (port : Nat) (s : State) : Ans :=
  s.takePacket port (fun p => p.pop == 8) fun p s1 => s1.applyAckPacket p fun e => !s1.playing e.ctx || p.src == s1.chip

/-! ## Token queries and expiry (R145-R148) -/

/-- TKQ_PACKET (R145). -/
def execTkqPacket (port : Nat) (s : State) : Ans :=
  s.takePacket port (fun p => p.pop == 0x10) fun p s1 =>
    let origin := fld p.word2 0 10
    let q := tokenSeq p.word2
    if passed32 (s1.mark origin) q || 1024 ≤ s1.queries.length then s1.answerQuery p.src origin
    else { s1 with queries := s1.queries ++ [(p.src, origin, q)] }

/-- An answer's effect on the token table. -/
def State.learn (s : State) (landing origin : Nat) (m : BitVec 32) : State :=
  let best (old : Option (BitVec 32)) : BitVec 32 := match old with
    | some o => if passed32 m o then m else o
    | none => m
  match s.tokenAt landing origin with
  | some (i, t) =>
    s.setToken i { t with qout := false, mark := some (best t.mark), short := if t.qout && !passed32 (best t.mark) t.asked then some s.ccc else t.short }
  | none => match s.tokenPlace with
    | some i => s.setToken i { landing := landing, origin := origin, qout := false, mark := some m, asked := m, short := none }
    | none => s

/-- A TKA packet: the table, and every held packet (R145). -/
def State.applyTka (s : State) (p : Packet) : State :=
  let origin := fld p.word2 0 10
  let cs := ((s.heldAll.filter fun h => pktLanding h.2.p == p.src && pktOrigin h.2.p == origin && bit h.2.p.word2 56).map fun h =>
    s.packetCtx h.2.p).eraseDups
  ((cs.foldl (fun s c => s.recordPacket c p) s).learn p.src origin (tokenSeq p.word2)).tokensGo

/-- TKA_PACKET (R145). -/
def execTkaPacket (port : Nat) (s : State) : Ans := s.takePacket port (fun p => p.pop == 9) fun p s1 => s1.applyTka p

/-- TKQ_RETRY (R145): 1 µs after the answer that was too low. -/
def execTkqRetry (landing origin : Nat) (s : State) : Ans :=
  match s.tokenAt landing origin with
  | some (i, t) =>
    match t.short with
    | some c => if 940 ≤ (s.ccc - c).toNat then .next (s.setToken i { t with short := none }).tokensGo else .next s
    | none => .next s
  | none => .next s

/-- Discard held packets of a path from a place in a queue on, each with ACK SEQ_GAP (R147, R46). -/
def State.discardHeld (s : State) (port : Nat) (gone : Held → Bool) : State :=
  let l := s.harbourAt port
  (l.filter gone).foldl (fun s h => s.inject 6 (ackPacketOf h.p 4)) (s.setHarbour port (l.filter fun h => !gone h))

/-- TOKEN_EXPIRY (R147): the first packet of a queue that has been held longer than its context's limit. -/
def execTokenExpiry (port : Nat) (s : State) : Ans :=
  match (s.harbourAt port).find? (fun h => decide (cyclesOf (s.cxF (s.packetCtx h.p) cTKEXP 0 17) < (s.ccc - h.since).toNat)) with
  | none => .next s
  | some h =>
    let c := s.packetCtx h.p
    let s1 := s.discardHeld port fun k => k.p.src == h.p.src && decide ((k.p.pseq - h.p.pseq).toNat < 2 ^ 31)
    let s2 : State := { s1 with discarding := if s1.discarding.contains h.p.src then s1.discarding else h.p.src :: s1.discarding }
    .next (s2.report .tokenExpired c 4 (if port < 6 then port else 0) h.p.src).tokensGo

/-- HOLD_QUEUE_FULL (R148): the queue has stayed full since its last entry came in. -/
def execHoldQueueFull (port : Nat) (s : State) : Ans :=
  let l := s.harbourAt port
  match l.head?, l.getLast? with
  | some oldest, some last =>
    if 256 ≤ l.length && !s.holdTold.contains port && decide (940000 ≤ (s.ccc - last.since).toNat) then
      .next (State.report { s with holdTold := port :: s.holdTold } .holdQueueFull (s.packetCtx oldest.p) 4 (if port < 6 then port else 0) 0)
    else .next s
  | _, _ => .next s

/-- The first held packet that waits without a query, because every entry of the token table is referenced (R146). -/
def State.unasked (s : State) : Option Packet :=
  if s.tokenPlace.isSome then none
  else (s.heldAll.map (·.2.p)).find? fun p => !s.tokenMet p && pktLanding p != s.chip && (s.tokenAt (pktLanding p) (pktOrigin p)).isNone

/-- TOKEN_TABLE_FULL (R146): once a millisecond. -/
def execTokenTableFull (s : State) : Ans :=
  match s.unasked with
  | none => .next s
  | some p =>
    if s.tokenTold.any fun c => (s.ccc - c).toNat < 940000 then .next s
    else .next (State.report { s with tokenTold := some s.ccc } .tokenTableFull (s.packetCtx p) 4 0 0)

/-! ## Fences and path resets (R53, R46) -/

/-- Packets from or for a chip that wait for an output are dropped; those for it in path order are answered with status 2 (R53). -/
def State.dropFenced (s : State) (c n : Nat) : State :=
  let gone (e : Nat × Packet) : Bool := e.2.src == c || e.2.dst == c
  ((s.link n).queue.filter gone).foldl (fun s e => if e.2.ordered && e.2.src != c then (s.route 6 (ackPacketOf e.2 2)).1 else s)
    (s.modLink n fun l => { l with queue := l.queue.filter fun e => !gone e })

/-- A chip is fenced off at this router. -/
def State.fenceChip (s : State) (c : Nat) : State :=
  let s0 : State := { s with fences := s.fences ||| BitVec.ofNat 1024 1 <<< c }
  let s1 := (List.range 6).foldl (fun s n => s.dropFenced c n) s0
  let s2 := (s1.linksTo c).foldl (fun s n => (((s.setRegF (offLinkStat n) 2 2 3).setLink n 3).dropHeld n 2)) s1
  let s3 := (List.range 7).foldl (fun s port => s.setHarbour port ((s.harbourAt port).filter fun h => h.p.src != c)) s2
  if c = s.chip then s3.report .chipFencedOff 0 4 0 c else s3

/-- Chips of the domain. -/
def State.domain (s : State) : List Nat :=
  (List.range 1024).filter fun c => decide (chipX c < s.dimX) && decide (chipY c < s.dimY) && decide (chipZ c < s.dimZ)

/-- Multicast FENCE of a chip over the domain (R53, R116); bytes 16-23 name it. -/
def State.multicastFence (s : State) (c : Nat) : State :=
  ((s.domain.filter (· != s.chip)).foldl (fun s d => s.sendPlain d 0x12 3 (BitVec.ofNat 64 c) 0 []) s).fenceChip c

/-- FENCE_PACKET (R53). -/
def execFencePacket (port : Nat) (s : State) : Ans :=
  s.takePacket port (fun p => p.pop == 0x12) fun p s1 => s1.fenceChip (fld p.word2 0 10)

/-- FENCE_CLR_PACKET (R53): bit 10 says that it comes from a context of system privilege; the links to the chip may train again. -/
def execFenceClrPacket (port : Nat) (s : State) : Ans :=
  s.takePacket port (fun p => p.pop == 0x13) fun p s1 =>
    let c := fld p.word2 0 10
    if !bit p.word2 10 then s1
    else
      let s2 : State := { s1 with fences := s1.fences &&& ~~~ (BitVec.ofNat 1024 1 <<< c) }
      (s2.linksTo c).foldl (fun s n => if s.linkState n = 3 then s.setRegF (offLinkStat n) 0 2 0 else s) s2

/-- PATHRST_PACKET (R46, R143): at the path's destination, and at its source; bytes 16-23 name the path and p as a token would. -/
def execPathrstPacket (port : Nat) (s : State) : Ans :=
  s.takePacket port (fun p => p.pop == 0x14) fun p s1 =>
    let src := fld p.word2 0 10
    let dst := fld p.word2 10 10
    let q := tokenSeq p.word2
    let s2 :=
      if dst ≠ s1.chip then s1
      else
        let s2 := (List.range 7).foldl (fun s i => s.discardHeld i fun h => h.p.src == src) s1
        (State.answerQueries { s2 with pseqIn := tput 0 s2.pseqIn src q, discarding := s2.discarding.filter (· != src),
                                       lhw := tput 0xFFFFFFFF#32 s2.lhw src (q - 1) } src).tokensGo
    if src ≠ s1.chip then s2 else (s2.sent.filter fun e => e.dst == dst && e.status.isNone).foldl (fun s e => s.settle e 1) s2

end Sys2Proof.Machine
end

