-- ==== Sys2Proof/Machine/Wire.lean ====
section
/-! DEFINITION. The wire format of collectives (R173, R174) and the router's reduction table (R49, R50). -/
namespace Sys2Proof.Machine
open Sys2Proof

/-! ## Encoded blocks (R173, R174) -/

/-- 32-bit codes of bytes. -/
def wordsOf : Nat → List Byte → List Nat
  | 0, _ => []
  | n + 1, bs => if bs.isEmpty then [] else leNat (bs.take 4) :: wordsOf n (bs.drop 4)

/-- Biased exponent of an FP32 code. -/
def fpExp (v : Nat) : Nat := nfld v 23 8

/-- Header bytes of a block. -/
def wireHeader (code w : Nat) (ns : Bool) (eb : Nat) : List Byte := leBytes 4 (code + w * 2 ^ 4 + (if ns then 2 ^ 7 else 0) + eb * 2 ^ 8)

/-- Encode a block of 64 elements. -/
def wireEncode (l : List Nat) : List Byte :=
  let exps := l.map fpExp
  let escape (ns : Bool) : List Byte := wireHeader 0xE 0 ns 0 ++ l.flatMap (leBytes 4)
  if exps.contains 255 then escape (l.any fun v => fpExp v == 255 && nfld v 0 23 != 0)
  else
    let eb := exps.foldl min 255
    let spread := exps.foldl max 0 - eb
    let w := if spread = 0 then 0 else spread.log2 + 1
    if w = 8 then escape false
    else
      let field (v : Nat) : Nat := nfld v 0 23 + (fpExp v - eb) * 2 ^ 23 + nfld v 31 1 * 2 ^ (23 + w)
      wireHeader 1 w false eb ++ leBytes (192 + 8 * w) (l.foldr (fun v x => field v + x * 2 ^ (24 + w)) 0)

/-- Decode a block: its 64 elements and the bytes after it. -/
def wireDecode (bs : List Byte) : Option (List Nat × List Byte) :=
  let h := leNat (bs.take 4)
  let w := nfld h 4 3
  let eb := nfld h 8 8
  if bs.length < 4 || nfld h 16 16 ≠ 0 then none
  else if nfld h 0 4 = 0xE then
    if bs.length < 260 then none else some (wordsOf 64 ((bs.drop 4).take 256), bs.drop 260)
  else if nfld h 0 4 = 1 then
    if bs.length < 196 + 8 * w then none
    else
      let x := leNat ((bs.drop 4).take (192 + 8 * w))
      let elem (i : Nat) : Nat :=
        let f := nfld x ((24 + w) * i) (24 + w)
        nfld f 0 23 + (nfld f 23 w + eb) % 256 * 2 ^ 23 + nfld f (23 + w) 1 * 2 ^ 31
      some ((List.range 64).map elem, bs.drop (196 + 8 * w))
  else none

/-- Encode raw FP32 bytes, block by block. -/
def wireBytes : Nat → List Byte → List Byte
  | 0, _ => []
  | n + 1, bs => wireEncode (wordsOf 64 (bs.take 256)) ++ wireBytes n (bs.drop 256)

/-- Decode n blocks to raw bytes. -/
def wireRaw : Nat → List Byte → Option (List Byte)
  | 0, _ => some []
  | n + 1, bs => (wireDecode bs).bind fun r => (wireRaw n r.2).map fun t => r.1.flatMap (leBytes 4) ++ t

/-! ## The reduction table (R49, R50) -/

def rtValid (e : BitVec 128) : Bool := bit e 0
def rtInmask (e : BitVec 128) : Nat := fld e 1 8
def rtParent (e : BitVec 128) : Nat := fld e 9 10
def rtRoot (e : BitVec 128) : Bool := bit e 19
def rtPslot (e : BitVec 128) : Nat := fld e 20 3
def rtOut (e : BitVec 128) : Nat := fld e 23 3
def rtSteps (e : BitVec 128) : Nat := fld e 26 3
def rtEpoch (e : BitVec 128) : BitVec 32 := e.extractLsb' 96 32

/-- Fields of a RED packet (R34). -/
def redRid (p : Packet) : Nat := fld p.word2 0 8
def redEpoch (p : Packet) : BitVec 32 := p.word2.extractLsb' 8 32
def redBlock (p : Packet) : Nat := fld p.word2 40 12 + fld p.word3 0 8 * 4096
def redSlot (p : Packet) : Nat := fld p.word2 52 3

def redWord2 (rid : Nat) (epoch : BitVec 32) (block slot : Nat) : Word :=
  BitVec.ofNat 64 (rid % 256 + epoch.toNat * 2 ^ 8 + block % 4096 * 2 ^ 40 + slot % 8 * 2 ^ 52)

def redWord3 (block : Nat) : Word := BitVec.ofNat 64 (block / 4096 % 256)

/-- A router sends a RED packet on. -/
def State.sendRed (s : State) (dst rid : Nat) (epoch : BitVec 32) (block slot : Nat) (data : List Byte) : State :=
  s.sendPlain dst 2 0 (redWord2 rid epoch block slot) (redWord3 block) data

/-- The collective on this chip that reduces through an entry, and its engine. -/
def State.redRun (s : State) (rid : Nat) : Option (Nat × CollRun) :=
  s.colls.findSome? fun e => e.2.run.bind fun r => if fld r.c.desc 28 8 = rid ∧ fld r.c.desc 20 2 = 1 then some (e.1, r) else none

/-- Elements of a RED payload: raw in the format of ROP, or one encoded block. -/
def redElems (rop : Nat) (bs : List Byte) : Option (List (BitVec 32)) :=
  let z := ropBytes rop
  if bs.length = 64 * z then some ((List.range 64).map fun i => BitVec.ofNat 32 (leNat ((bs.drop (z * i)).take z)))
  else (wireDecode bs).bind fun r => if r.2.isEmpty then some (r.1.map (BitVec.ofNat 32)) else none

/-- The block's sum by the entry's plan. -/
def redSum (e : BitVec 128) (rop : Nat) (slots : Tab (List (BitVec 32))) : List (BitVec 32) :=
  let done := (List.range (rtSteps e)).foldl (fun (t : Tab (List (BitVec 32))) i =>
    let a := fld e (32 + 6 * i) 3
    let b := fld e (35 + 6 * i) 3
    tput [] t a ((List.zip (tget [] t a) (tget [] t b)).map fun p => BitVec.ofNat 32 (ropAdd rop p.1.toNat p.2.toNat))) slots
  tget [] done (rtOut e)

/-- A result of the router reaches the collective engine. -/
def State.redResult (s : State) (engine block : Nat) (raw : List Byte) : State :=
  match (s.coll engine).run with
  | none => s
  | some r => s.setColl engine { s.coll engine with run := some { r with redGot := tput [] r.redGot block raw } }

/-- A RED packet at the router of its DST (R50). -/
def State.applyRed (s : State) (p : Packet) (s1 : State) : State :=
  let rid := redRid p
  let e := s.reg128 (offRedTab rid)
  let run := s.redRun rid
  let rop := (run.map fun r => fld r.2.c.desc 24 4).getD 0
  let mine := s.reds.filter fun b => b.rid == rid
  let cur := mine.find? fun b => b.block == redBlock p
  let slots := (cur.map (·.slots)).getD []
  match redElems rop p.data with
  | none => s1.bump offRedStale
  | some l =>
    if !rtValid e || rtEpoch e != redEpoch p || !(tget [] slots (redSlot p)).isEmpty then s1.bump offRedStale
    else if cur.isNone && 16 ≤ mine.length then s
    else
      let slots1 := tput [] slots (redSlot p) l
      let rest := s1.reds.filter fun b => !(b.rid == rid && b.block == redBlock p)
      if (List.range 8).any (fun i => (rtInmask e).testBit i && (tget [] slots1 i).isEmpty) then
        { s1 with reds := rest ++ [{ rid := rid, block := redBlock p, slots := slots1 }] }
      else
        let out := redSum e rop slots1
        let raw := out.flatMap fun v => leBytes (ropBytes rop) v.toNat
        let wire := if p.data.length = 64 * ropBytes rop then raw else wireEncode (out.map (·.toNat))
        let s2 : State := { s1 with reds := rest }
        if !rtRoot e then (if run.any fun r => s.playing r.2.c.ctx then s2 else s2.sendRed (rtParent e) rid (rtEpoch e) (redBlock p) (rtPslot e) wire)
        else match run with
          | some (k, r) =>
            (s2.recordInput r.c.ctx 2 0 (({ p with data := wire } : Packet).header ++ wire)).redResult k (redBlock p) raw
          | none => s2

/-- RED_PACKET (R50): a contribution for a seventeenth block waits. -/
def execRedPacket (port : Nat) (s : State) : Ans :=
  match s.headAt port (fun p => p.dst == s.chip && !p.bad && p.pop == 2) with
  | none => .next s
  | some (p, s1) =>
    if s.fences.getLsbD p.src || s.fences.getLsbD p.dst then .next s1
    else if (s.redRun (redRid p)).any (fun r => s.mustWait r.2.c.ctx p) then .next s
    else .next (s.applyRed p s1)

end Sys2Proof.Machine
end

