-- ==== Sys2Proof/Machine/Xlat.lean ====
section
/-! DEFINITION. Translation: MAP, UNMAP, LEASE and SDOWN (R436-R439), the shoot-down tree (R114-R116), and migration (R121). -/
namespace Sys2Proof.Machine
open Sys2Proof

/-! ## Page tables (R110) -/

/-- Index of an address in a node of a level. -/
def vaIndex (va : Word) (level : Nat) : Nat :=
  match level with
  | 0 => fld va 16 13
  | 1 => fld va 29 13
  | 2 => fld va 42 13
  | _ => fld va 55 1

/-- The place of the entry of a level on a page's walk, or the level at which the walk ends above it. -/
def State.entryAt (s : State) (c : Nat) (va : Word) (level : Nat) : Sum Nat Nat :=
  (List.range (3 - level)).foldl (fun r i => match r with
    | .inl frame =>
      let e := s.pte frame (vaIndex va (3 - i))
      if bit e 0 then .inl (pteFrame e) else .inr (3 - i)
    | .inr l => .inr l) (.inl (s.cxF c cPTROOT 16 36))

/-- The same as a physical address. -/
def State.entryPa (s : State) (c : Nat) (va : Word) (level : Nat) : Option Nat :=
  match s.entryAt c va level with
  | .inl frame => some (frame * 65536 + 8 * vaIndex va level)
  | .inr _ => none

/-- RSVD bits of a translation entry (R108). -/
def entryRsvd (e : Word) : Bool := fld e 4 12 != 0 || fld e 52 12 != 0

/-- A frame lies outside HBM. -/
def frameOut (e : Word) : Bool := decide (hbmEnd ≤ pteFrame e * 65536)

/-- A range of HBM bytes meets a frame. -/
def inFrame (frame pa n : Nat) : Bool := decide (pa < (frame + 1) * 65536) && decide (frame * 65536 < pa + n)

/-- An access that was translated to a frame has not been performed. -/
def State.frameBusy (s : State) (frame : Nat) : Bool :=
  let ops (c : Scalars) : Bool := c.ops.any fun o => match o.what with
    | .load _ pa n _ => inFrame frame pa n
    | _ => false
  let reads (x : QSrc) : Bool := match x with
    | .mem pa n => inFrame frame pa n
    | .elem pa _ _ => inFrame frame pa 1
    | _ => false
  s.stores.any (fun e => e.adds.any reads || e.segs.any fun g => (g.akind != 0 && inFrame frame g.pa g.len) || g.src.any reads) ||
    s.threads.any (fun e => ops e.2.sc) ||
    s.tiles.any fun e => ops e.2.sc || (e.2.handler.map fun h => ops h.saved).getD false ||
      (e.2.oq.any fun q => q.2.loads.any fun l => l.src.any reads) ||
      e.2.mx.drains.any fun d => d.lines.any fun l => l.any fun g => g.akind != 0 && inFrame frame g.pa g.len

/-- Remove a page from every TLB of the chip. -/
def State.dropTlb (s : State) (c : Nat) (va : Word) : State := s.dropTlbs fun e => e.ctx == c && e.vpn == fld va 16 40

/-! ## The tree (R115) -/

/-- The chips of a tree by rank: the root first. -/
def State.ranked (s : State) (c root : Nat) : List Nat :=
  let ms := s.members c
  if ms.contains root then ms.dropWhile (· != root) ++ ms.takeWhile (· != root) else root :: ms

/-- Ranks below a rank in a tree of n. -/
def treeChildren (n r : Nat) : List Nat := ((List.range 10).filter fun k => decide (r < 2 ^ k) && decide (r + 2 ^ k < n)).map fun k => r + 2 ^ k

/-- Height of a rank's subtree. -/
def treeHeight (n : Nat) : Nat → Nat → Nat
  | 0, _ => 0
  | f + 1, r => (treeChildren n r).foldl (fun h c => max h (1 + treeHeight n f c)) 0

/-- An SDOWN packet: page, context, kind, level, root and whether it is direct, the entry, and the root's identity. -/
def State.sendSdown (s : State) (u : Update) (dst : Nat) (direct : Bool) : State :=
  if s.playing u.ctx then s
  else
    s.sendPlain dst 0x11 3
      (BitVec.ofNat 64 (fld u.va 16 40 + u.ctx % 64 * 2 ^ 40 + u.kind % 4 * 2 ^ 46 + u.level % 4 * 2 ^ 48 + u.origin % 1024 * 2 ^ 50 +
        (if direct then 2 ^ 60 else 0)))
      u.entry (leBytes 8 u.ident)

/-- An SDACK packet: the root, its identity, and the map of the chips that have acknowledged. -/
def State.sendSdack (s : State) (u : Update) : State :=
  if s.playing u.ctx then s
  else s.sendPlain u.parent 0xA 1 (BitVec.ofNat 64 (u.origin % 1024)) 0 (leBytes 8 u.ident ++ leBytes 128 u.got.toNat)

def State.setUpdate (s : State) (u : Update) : State := { s with updates := s.updates.map fun x => if x.id = u.id then u else x }
def State.dropUpdate (s : State) (u : Update) : State := { s with updates := s.updates.filter fun x => x.id != u.id }

/-- Send SDOWN to the children of a rank; they are waited for. -/
def State.sendDown (s : State) (u : Update) : State :=
  let order := s.ranked u.ctx u.origin
  let kids := (treeChildren order.length u.rank).filterMap fun r => order[r]?
  kids.foldl (fun s c => s.sendSdown u c false) (s.setUpdate { u with waits := kids })

/-- In shoot-down mode, or for SDOWN whatever the mode, TLBs are invalidated (R114, R439). -/
def State.shoots (s : State) (u : Update) : Bool := u.kind == 2 || bit (s.reg offXlatCtl) 0

/-- The trace unit of a tile is writing a page (R123). -/
def State.tracing (s : State) (c : Nat) (va : Word) : Bool :=
  s.tiles.any fun e => bit e.2.trace.ctl 0 && decide (s.ccc < e.2.trace.lease) && s.ctxOfTile e.1 == c &&
    fld e.2.trace.chunkVa 16 40 == fld va 16 40 && decide (e.2.trace.pos < 65536) && decide (0 < e.2.trace.pos)

/-- This chip applies an update, unless its trace unit still writes the page. -/
def State.applyUpdate (s : State) (u : Update) : State :=
  if u.applied.isSome || ((u.kind == 0 || u.kind == 3) && s.tracing u.ctx u.va) then s
  else
    let old := match s.entryPa u.ctx u.va 0 with
      | some pa => pteFrame (mword s.hbm pa)
      | none => 0
    let s1 := s.setUpdate { u with applied := some s.ccc, old := old }
    let s2 := match u.kind, s.entryPa u.ctx u.va (if u.kind = 1 then u.level else 0) with
      | 0, some pa => { s1 with hbm := mputw s1.hbm pa (setFld (mword s1.hbm pa) 0 1 0) }
      | 1, some pa => { s1 with hbm := mputw s1.hbm pa u.entry }
      | _, _ => s1
    if u.kind != 1 && s.shoots u then s2.dropTlb u.ctx u.va else s2

/-- This chip may acknowledge (R114): the lease wait is over, or the invalidation is done. -/
def State.mayAck (s : State) (u : Update) : Bool :=
  match u.applied with
  | none => false
  | some c =>
    u.kind == 1 || (!s.frameBusy u.old && (s.shoots u || decide (940 * (s.cxF u.ctx cLEASE 0 11 + 1) ≤ (s.ccc - c).toNat)))

/-- An update is complete at its root. -/
def State.endUpdate (s : State) (u : Update) : State :=
  let s1 := (s.dropUpdate u).mapOps fun o => if o.what = .update u.id then { o with what := .value 0 } else o
  { s1 with migrations := s1.migrations.map fun m => if m.upd = some u.id then { m with upd := none } else m }

/-- Members that have not acknowledged. -/
def State.missing (s : State) (u : Update) : List Nat := (s.ranked u.ctx u.origin).filter fun c => !u.got.getLsbD c

/-- Chips of a rank's subtree, its own among them. -/
def subtree (n : Nat) : Nat → Nat → List Nat
  | 0, r => [r]
  | f + 1, r => r :: (treeChildren n r).flatMap (subtree n f)

/-- Every chip below this node has acknowledged to it, itself among them: nothing more can come. -/
def State.treeDone (s : State) (u : Update) : Bool :=
  let order := s.ranked u.ctx u.origin
  (subtree order.length 10 u.rank).all fun r => (order[r]?).all fun c => u.got.getLsbD c

/-- A node answers its parent: when its children have answered, a leaf at once; and again whenever its map has grown since (R115; log entry
84). -/
def State.answerUp (s : State) (u : Update) : State :=
  if (u.answered && u.got == u.told) || (!u.answered && !u.waits.isEmpty) then s
  else (s.sendSdack u).setUpdate { u with answered := true, told := u.got }

/-- An update's next moves at this chip; once it has been reported, members that are fenced are no longer waited for (R116). -/
def State.updateGo (s : State) (id : Nat) : State :=
  match s.updates.find? (fun u => u.id == id) with
  | none => s
  | some u0 =>
    let s1 := s.applyUpdate u0
    match s1.updates.find? (fun u => u.id == id) with
    | none => s1
    | some u1 =>
      let u := if !u1.acked && s1.mayAck u1 then { u1 with acked := true, got := u1.got ||| BitVec.ofNat 1024 1 <<< s.chip } else u1
      let s2 := s1.setUpdate u
      if u.root then (if (s2.missing u).all (fun c => u.stage == 2 && s2.fences.getLsbD c) then s2.endUpdate u else s2)
      else
        let s3 := s2.answerUp u
        if u.acked && s3.treeDone u then s3.dropUpdate u else s3

/-- Start an update at its root; its identity is the next one. -/
def State.startUpdate (s : State) (ctx : Nat) (va : Word) (kind level : Nat) (entry : Word) : State :=
  let u : Update :=
    { id := s.nextId, origin := s.chip, ident := s.nextId, ctx := ctx, va := va, kind := kind, level := level, entry := entry, root := true,
      parent := s.chip, rank := 0, got := 0, waits := [], applied := none, old := 0, acked := false, answered := false, told := 0, stage := 0, since := s.ccc }
  let s1 : State := { s with nextId := s.nextId + 1, updates := s.updates ++ [u] }
  (s1.sendDown u).updateGo u.id

/-- An SDOWN packet at a member (R115): the tree's, or the root's own. -/
def State.applySdown (s : State) (p : Packet) : State :=
  let c := fld p.word2 40 6
  let origin := fld p.word2 50 10
  let ident := leNat (p.data.take 8)
  let s0 := s.recordPacket c p
  match s0.updates.find? (fun u => !u.root && u.origin == origin && u.ident == ident) with
  | some u => (s0.setUpdate { u with parent := p.src, waits := [], answered := false }).updateGo u.id
  | none =>
    let order := s0.ranked c origin
    let u : Update :=
      { id := s0.nextId, origin := origin, ident := ident, ctx := c, va := BitVec.ofNat 64 (fld p.word2 0 40 * 65536), kind := fld p.word2 46 2,
        level := fld p.word2 48 2, entry := p.word3, root := false, parent := p.src, rank := order.idxOf s0.chip, got := 0, waits := [],
        applied := none, old := 0, acked := false, answered := false, told := 0, stage := 0, since := s0.ccc }
    let s1 : State := { s0 with nextId := s0.nextId + 1, updates := s0.updates ++ [u] }
    (if bit p.word2 60 then s1 else s1.sendDown u).updateGo u.id

/-- SDOWN_PACKET (R115). -/
def execSdownPacket (port : Nat) (s : State) : Ans :=
  s.takePacket port (fun p => p.pop == 0x11 && !s.mustWait (fld p.word2 40 6) p) fun p s1 => s1.applySdown p

/-- An SDACK's effect: its map is merged, and its sender is waited for no more. -/
def State.applySdack (s : State) (p : Packet) : State :=
  let origin := fld p.word2 0 10
  let ident := leNat (p.data.take 8)
  match s.updates.find? (fun u => u.origin == origin && u.ident == ident) with
  | none => s
  | some u =>
    let s0 := s.recordPacket u.ctx p
    (s0.setUpdate { u with got := u.got ||| BitVec.ofNat 1024 (leNat ((p.data.drop 8).take 128)), waits := u.waits.filter (· != p.src) }).updateGo u.id

/-- SDACK_PACKET (R115). -/
def execSdackPacket (port : Nat) (s : State) : Ans := s.takePacket port (fun p => p.pop == 0xA) fun p s1 => s1.applySdack p

/-- SDOWN_NODE_TIMEOUT (R115): the node's map goes to its parent though children are missing. -/
def execSdownNodeTimeout (id : Nat) (s : State) : Ans :=
  match s.updates.find? (fun u => u.id == id) with
  | none => .next s
  | some u =>
    let h := treeHeight (s.ranked u.ctx u.origin).length 10 u.rank
    if u.root || u.answered || h = 0 || (s.ccc - u.since).toNat < 940 * 4 * h then .next s
    else .next ((s.setUpdate { u with waits := [] }).updateGo id)

/-- SHOOTDOWN_ROOT_TIMEOUT (R116). -/
def execShootdownRootTimeout (id : Nat) (s : State) : Ans :=
  match s.updates.find? (fun u => u.id == id) with
  | none => .next s
  | some u =>
    let miss := s.missing u
    if !u.root || 2 ≤ u.stage || (s.ccc - u.since).toNat < 940 * max 1 (s.regF offXlatCtl 1 10) then .next s
    else if u.stage = 0 then
      .next ((miss.filter (· != s.chip)).foldl (fun s c => s.sendSdown u c true) (s.setUpdate { u with stage := 1, since := s.ccc }))
    else
      let s1 := (s.setUpdate { u with stage := 2 }).report .shootdownTimeout u.ctx 9 0 (miss.headD 0)
      .next ((if s.shoots u then (miss.filter (· != s.chip)).foldl State.multicastFence s1 else s1).updateGo id)

/-- LEASE_WAIT_EXPIRY (R114): the wait of this chip is over; an update that waits for the trace unit or for accesses goes on too. -/
def execLeaseWaitExpiry (id : Nat) (s : State) : Ans := .next (s.updateGo id)

/-! ## MAP (R437) -/

/-- The target context of a translation command (R436). -/
def xCtx (f : CmdE) : Nat := fld f.imm 4 6

/-- The issuer and privilege of a translation command, and its sources. -/
def State.xSrc (s : State) (f : CmdE) : Res (Word × Word × Word) :=
  (s.onThread).bind fun _ => (s.cmdSrc f).bind fun q => s.needSys.bind fun _ => .ok q

/-- A page operand. -/
def pageOk (a : Word) : Bool := fld a 0 16 == 0 && fld a 56 8 == 0

/-- MAP, kind 0. -/
def execMapVa (f : CmdE) (s : State) : Ans :=
  ((s.xSrc f).bind fun q =>
    let c := xCtx f
    let level := fld f.imm 10 2
    let e := q.2.1
    (Res.check (pageOk q.1 && !entryRsvd e && bit e 0) .rsvField q.1).bind fun _ =>
    (Res.check (!frameOut e) .perm e).bind fun _ =>
    match s.entryAt c q.1 level with
    | .inr l => .ok (s.answer f (stRefused l) q.1 e)
    | .inl frame =>
      let old := s.pte frame (vaIndex q.1 level)
      (inHbm (frame * 65536)).bind fun _ =>
      (Res.check (!bit old 1) .migrating q.1).bind fun _ =>
        if bit old 0 then .ok (s.answer f stBusy q.1 e)
        else
          let id := s.nextId + 1
          .ok ((s.pending f (.update id) q.1 e).startUpdate c q.1 1 level e)).finish s

/-- A descriptor image that R106 refuses. -/
def tdBad (d : BitVec 512) : Bool :=
  let b := tdBlock d
  9 < tdFmt d || bit d 15 || fld d 32 32 != 0 ||
  (List.range 8).any (fun i => if i ≤ tdNdm1 d then tdExt d i == 0 else tdExt d i != 0) ||
  fld d 320 6 != 0 || fld d 372 12 != 0 || (tdShv d && (fld d 384 6 != 0 || fld d 436 12 != 0)) || fld d 448 6 != 0 || fld d 505 7 != 0 ||
  (tdBlk d != 0 && !(3 ≤ tdFmt d && tdFmt d ≤ 8)) || (tdFmt d == 8 && (tdBlk d == 0 || tdSfmt d != 0)) ||
  (tdBlk d != 0 && !tdTiled d && tdExt d 0 % b != 0) ||
  (tdTiled d && (tdExt d 0 % 128 != 0 || tdExt d 1 % 128 != 0 || tdNdm1 d == 0)) || decide (2 ^ 40 < tdTotal d)

/-- A copy in flight names a tensor (R106). -/
def State.copyNames (s : State) (c id : Nat) : Bool :=
  s.allCopies.any fun k => k.ctx == c && ((cpSk k.desc == 0 && cpStid k.desc == id) || (!cpDk k.desc && cpDtid k.desc == id))

/-- MAP, kind 1: XP is installed as 0 (R106). -/
def execMapTensor (f : CmdE) (s : State) : Ans :=
  ((s.xSrc f).bind fun q =>
    let c := xCtx f
    (Res.check (fld q.1 8 56 == 0) .rsvField q.1).bind fun _ =>
    (s.readOperand q.2.1 64 1).bind fun r =>
      let d := BitVec.ofNat 512 (leNat r.1)
      let id := fld q.1 0 8
      (Res.check (!tdBad d) .tensorDesc q.1).bind fun _ =>
        if tdValid (r.2.tensor c id) && r.2.copyNames c id then .ok (r.2.answer f stBusy q.1 q.2.1)
        else .ok ((r.2.setTensor c id (setFld d 14 1 0)).answer f 0 q.1 q.2.1)).finish s

/-- A chunk operand (R436). -/
def chunkOk (a : Word) : Bool := fld a 9 7 == 0 && fld a 40 24 == 0

/-- The chunk-table entry that an operand names (R436, R437). -/
def State.chunkEntry (s : State) (c : Nat) (a : Word) : Res Nat :=
  (Res.check (chunkOk a) .rsvField a).bind fun _ =>
    let d := s.tensor c (fld a 0 8)
    (Res.check (tdValid d && (!bit a 8 || tdShv d)) .tensorDesc a).bind fun _ =>
    (Res.check (decide (fld a 16 24 < (tdTotal d + 65535) / 65536)) .tensorBounds a).bind fun _ =>
      inHbm (tdTable d (bit a 8) + 8 * fld a 16 24)

/-- MAP, kind 2: an entry may be installed absent (R118). -/
def execMapChunk (f : CmdE) (s : State) : Ans :=
  ((s.xSrc f).bind fun q =>
    let e := q.2.1
    (Res.check (!entryRsvd e && chunkOk q.1) .rsvField q.1).bind fun _ =>
    (Res.check (!(bit e 0 && frameOut e)) .perm e).bind fun _ =>
    (s.chunkEntry (xCtx f) q.1).bind fun pa =>
      let old := mword s.hbm pa
      (Res.check (!bit old 1) .migrating q.1).bind fun _ =>
        if bit old 0 then .ok (s.answer f stBusy q.1 e)
        else .ok (({ s with hbm := mputw s.hbm pa e } : State).answer f 0 q.1 e)).finish s

/-! ## UNMAP, SDOWN, LEASE (R438, R439) -/

/-- A page lies in a valid window of its context (R105). -/
def State.inWindow (s : State) (c : Nat) (va : Word) : Bool :=
  s.regs.any fun e => decide (offTxw 0 ≤ e.1) && decide (e.1 < offRxw 4096) && e.1 % 16 == 0 && bit e.2 0 && fld e.2 1 6 == c &&
    (let w := s.reg128 e.1
     decide ((winVa w 0).toNat ≤ va.toNat) && decide (va.toNat < (winVa w 0).toNat + winSize w))

/-- A page of the save area, the undo ring, or another area whose frames are recorded (R122, R272). -/
def State.frameRecorded (s : State) (c : Nat) (va : Word) : Bool := s.saveFrames.any fun e => e.1 == c && e.2.1 == fld va 16 40

/-- UNMAP, kind 0. -/
def execUnmapVa (f : CmdE) (s : State) : Ans :=
  ((s.xSrc f).bind fun q =>
    let c := xCtx f
    let nw := bit f.imm 2
    (Res.check (pageOk q.1) .rsvField q.1).bind fun _ =>
      if s.inWindow c q.1 || s.frameRecorded c q.1 then .ok (s.answer f stBusy q.1 0)
      else
        (match s.entryPa c q.1 0 with
         | some pa => (inHbm pa).bind fun pa => Res.check (!bit (mword s.hbm pa) 1) .migrating q.1
         | none => .ok ()).bind fun _ =>
          let id := s.nextId + 1
          let s1 :=
            if !nw then s.pending f (.update id) q.1 0
            else if bit (s.reg offXlatCtl) 0 then s.answer f 0 q.1 0
            else s.answer f (status 4 ((s.ccc.toNat + 940 * (s.cxF c cLEASE 0 11 + 1)) % 2 ^ 48)) q.1 0
          .ok (s1.startUpdate c q.1 0 0 0)).finish s

/-- UNMAP, kind 1: clears VALID. -/
def execUnmapTensor (f : CmdE) (s : State) : Ans :=
  ((s.xSrc f).bind fun q =>
    let c := xCtx f
    let id := fld q.1 0 8
    (Res.check (fld q.1 8 56 == 0) .rsvField q.1).bind fun _ =>
      if s.copyNames c id then .ok (s.answer f stBusy q.1 0)
      else .ok ((s.setTensor c id (setFld (s.tensor c id) 0 1 0)).answer f 0 q.1 0)).finish s

/-- UNMAP, kind 2: clears P. -/
def execUnmapChunk (f : CmdE) (s : State) : Ans :=
  ((s.xSrc f).bind fun q =>
    (s.chunkEntry (xCtx f) q.1).bind fun pa =>
      let old := mword s.hbm pa
      (Res.check (!bit old 1) .migrating q.1).bind fun _ =>
        .ok (({ s with hbm := mputw s.hbm pa (setFld old 0 1 0) } : State).answer f 0 q.1 0)).finish s

/-- LEASE (R439): the trace unit's lease on a tile of the named context. -/
def execLease (f : CmdE) (s : State) : Ans :=
  ((s.xSrc f).bind fun q =>
    let t := fld q.1 0 8
    (Res.check (fld q.1 8 56 == 0 && decide (1 ≤ q.2.1.toNat) && decide (q.2.1.toNat ≤ 1024)) .rsvField q.1).bind fun _ =>
    (Res.check (s.tileCtx t == some (xCtx f)) .perm q.1).bind fun _ =>
      let e := s.ccc + BitVec.ofNat 64 (cyclesOf q.2.1.toNat)
      .ok ((s.modTile t fun x => { x with trace := { x.trace with lease := e } }).answer f e q.1 q.2.1)).finish s

/-- SDOWN (R439): every TLB entry of a page on every member, in either mode. -/
def execSdown (f : CmdE) (s : State) : Ans :=
  ((s.xSrc f).bind fun q =>
    (Res.check (fld f.imm 0 2 == 0 && pageOk q.1) .rsvField q.1).bind fun _ =>
      let id := s.nextId + 1
      .ok ((s.pending f (.update id) q.1 0).startUpdate (xCtx f) q.1 2 0 0)).finish s

/-! ## Migration (R121) -/

/-- Move the bytes of a frame. -/
def moveFrame (m : Mem) (old new : Nat) : Mem :=
  let kept := m.filter fun e => !(e.1 / 65536 == new)
  (m.filter fun e => e.1 / 65536 == old).foldl (fun k e => tput 0 k (new * 65536 + e.1 % 65536) e.2) kept

/-- Steps 1 and 2: M is set, and old translations are removed. -/
def State.beginMigration (s : State) (c pa : Nat) (va : Option Word) : State :=
  let e := mword s.hbm pa
  if hbmEnd ≤ pa || !bit e 0 || bit e 1 then s
  else
    let s1 : State := { s with
      hbm := mputw s.hbm pa (setFld e 1 1 1)
      migrations := s.migrations ++ [{ pa := pa, ctx := c, old := pteFrame e, upd := va.map fun _ => s.nextId }] }
    match va with
    | some a => s1.startUpdate c a 3 0 0
    | none => s1

/-- Steps 3 to 5, once the old translations are gone: the frame is copied, FRAME is written and M clears. -/
def State.endMigration (s : State) (m : Migration) (frame : Nat) : State :=
  if m.upd.isSome || s.frameBusy m.old || hbmEnd ≤ frame * 65536 then s
  else
    let h := moveFrame s.hbm m.old frame
    { s with hbm := mputw h m.pa (setFld (setFld (mword h m.pa) 16 36 frame) 1 1 0), migrations := s.migrations.erase m }

/-- PAGE_MIGRATION (R121). A page of a recorded frame is not migrated (R122). -/
def execPageMigration (m : MigrationStep) (s : State) : Ans :=
  match m with
  | .beginPage c va =>
    let a : Word := (va.setWidth 64) &&& ~~~ 0xFFFF#64
    if s.frameRecorded c a then .next s
    else match s.entryPa c a 0 with
      | some pa => .next (s.beginMigration c pa (some a))
      | none => .next s
  | .beginChunk c id shadow chunk =>
    let d := s.tensor c (id % 256)
    if tdValid d && (!shadow || tdShv d) && decide (chunk < (tdTotal d + 65535) / 65536) then
      .next (s.beginMigration c (tdTable d shadow + 8 * chunk) none)
    else .next s
  | .finish n frame =>
    match s.migrations[n]? with
    | some g => .next (s.endMigration g frame.toNat)
    | none => .next s

end Sys2Proof.Machine
end

