-- ==== Sys2Proof/Machine/Collective.lean ====
section
/-! DEFINITION. Collective engines (R155-R180, R434, R449, R450): descriptors and their checks, step programs, transfers, notices,
repeats, and how a collective ends. -/
namespace Sys2Proof.Machine
open Sys2Proof

/-! ## Descriptors (R156) -/

def Coll.ranks (c : Coll) : Nat := if fld c.desc 0 10 = 0 then 1024 else fld c.desc 0 10
def Coll.rank (c : Coll) : Nat := fld c.desc 10 10
def Coll.inRouter (c : Coll) : Bool := fld c.desc 20 2 == 1
def Coll.sh (c : Coll) : Bool := bit c.desc 22
def Coll.zip (c : Coll) : Bool := bit c.desc 23
def Coll.rop (c : Coll) : Nat := fld c.desc 24 4
def Coll.rid (c : Coll) : Nat := fld c.desc 28 8
def Coll.buf (c : Coll) (i : Nat) : Nat := fld c.desc (192 + 8 * i) 8
def Coll.ceb (c : Coll) : Nat := fld c.desc 224 20
def Coll.counter (c : Coll) (i : Nat) : Nat := fld c.desc (256 + 14 * i) 14
def Coll.signals (c : Coll) (i : Nat) : Bool := bit c.desc (298 + i)
def Coll.deadline (c : Coll) : Nat := fld c.desc 320 16
def Coll.maxRepeats (c : Coll) : Nat := fld c.desc 336 4
def Coll.epoch0 (c : Coll) : BitVec 32 := c.desc.extractLsb' 384 32

/-- Words of a program, by count; zero means 1,024. -/
def progLen (d : BitVec 512) : Nat := if fld d 48 10 = 0 then 1024 else fld d 48 10

/-- The first row of R157: bits that must be zero, REDMODE, CEB. -/
def collBad (d : BitVec 512) : Bool :=
  fld d 58 9 != 0 || fld d 121 7 != 0 || fld d 185 7 != 0 || fld d 244 12 != 0 || fld d 317 3 != 0 || fld d 353 31 != 0 ||
    fld d 416 96 != 0 || 2 ≤ fld d 20 2 || fld d 224 20 == 0

/-! ## The tree (R158) -/

/-- The largest power of two that divides a rank above zero. -/
def lowbit : Nat → Nat → Nat
  | 0, _ => 1
  | n + 1, r => if r % 2 = 1 then 1 else 2 * lowbit n (r / 2)

/-- Children of a rank, by ascending child number. -/
def rankKids (n r : Nat) : List Nat :=
  ((List.range 10).filter fun j => r % 2 ^ (j + 1) == 0 && decide (r + 2 ^ j < n)).map fun j => r + 2 ^ j

/-- Parent of a rank above zero. -/
def rankParent (r : Nat) : Nat := r - lowbit 10 r

/-- A rank's child number at its parent. -/
def childNumber (r : Nat) : Nat := (lowbit 10 r).log2 + 1

def Coll.kids (c : Coll) : List Nat := rankKids c.ranks c.rank

/-- Children whose partials come by transfer: all at the endpoint, those past the router's seven slots otherwise (R170). -/
def Coll.kidsIn (c : Coll) : List Nat := if c.inRouter then c.kids.drop 7 else c.kids

/-! ## Step words (R160-R162) -/

def stepOp (w : BitVec 64) : Nat := fld w 0 4

def stepIsData (w : BitVec 64) : Bool := stepOp w < 4

/-- The flags that a data step's OP allows (R162). -/
def stepDataOk (w : BitVec 64) (depth : Nat) : Bool :=
  let f := readStepData w
  let o := stepOp w
  fld w 40 24 == 0 && f.cm != 3 && (o == 2 || !(f.wd || f.ns || f.iw)) && (o == 1 || o == 2 || !f.fw) && !(f.iw && f.tr) &&
    (!f.tr || (f.pk == 0 && o != 0 && o != 3)) && !(o == 2 && !f.tr && f.ns && !f.wd) && (!f.is || depth == 2)

/-- The checks of R162, from a word on; the ends of the loops it lies in, innermost first. -/
def programOk : Nat → List Nat → List (BitVec 64) → Bool
  | _, _, [] => false
  | pos, ends, w :: rest =>
    let inside := ends.dropWhile (· ≤ pos)
    let len := fld w 21 10
    match stepOp w with
    | 0 | 1 | 2 | 3 => stepDataOk w inside.length && programOk (pos + 1) inside rest
    | 4 => fld w 51 13 == 0 && programOk (pos + 1) inside rest
    | 5 => fld w 31 33 == 0 && len != 0 && decide (inside.length < 2) && (match inside with
        | [] => true
        | e :: _ => decide (pos + 1 + len ≤ e)) && programOk (pos + 1) ((pos + 1 + len) :: inside) rest
    | 6 => fld w 4 60 == 0 && inside.isEmpty && rest.isEmpty
    | _ => false

/-- A rank at a signed offset, mod n. -/
def rankAt (n r : Nat) (k : Int) : Nat := ((Int.ofNat r + k) % Int.ofNat (max 1 n)).toNat

/-- Ranks that a step receives from by transfer (R160, R163, R170). -/
def Coll.sources (c : Coll) (w : BitVec 64) : List Nat :=
  let f := readStepData w
  let up := if c.rank = 0 then [] else [rankParent c.rank]
  match stepOp w with
  | 1 => if f.tr then up else [rankAt c.ranks c.rank (-f.pk.toInt)]
  | 2 => if f.tr then c.kidsIn ++ (if f.fw then up else []) else if f.iw then [] else [rankAt c.ranks c.rank (-f.pk.toInt)]
  | _ => []

/-- How often a LOOP word runs its body. -/
def Coll.loopCount (c : Coll) (nr : Bool) (count : Nat) : Nat := if nr then c.ranks - count else count

/-- Transfers that a rank sends this one over the program from a word on; the loops it lies in with the runs of their bodies. -/
def Coll.recvTotal (c : Coll) (src : Nat) : Nat → List (Nat × Nat) → List (BitVec 64) → Nat
  | _, _, [] => 0
  | pos, loops, w :: rest =>
    let inside := loops.dropWhile fun l => l.1 ≤ pos
    let m := (inside.headD (0, 1)).2
    if stepOp w = 5 then c.recvTotal src (pos + 1) ((pos + 1 + fld w 21 10, m * c.loopCount (bit w 20) (fld w 4 16)) :: inside) rest
    else m * (c.sources w).count src + c.recvTotal src (pos + 1) inside rest

/-- Every rank that sends this one transfers. -/
def Coll.allSources (c : Coll) : List Nat := (c.prog.flatMap c.sources).eraseDups

/-- Buffers that the program names, and those that it writes, by tensor id. -/
def Coll.named (c : Coll) : List Nat :=
  (c.prog.flatMap fun w =>
    let f := readStepData w
    if stepIsData w then c.buf f.sb.toNat :: (if stepOp w = 0 then [] else [c.buf f.db.toNat]) else []).eraseDups

def Coll.written (c : Coll) : List Nat :=
  (c.prog.flatMap fun w =>
    let f := readStepData w
    if stepOp w = 1 || stepOp w = 3 || (stepOp w = 2 && f.wd) then [c.buf f.db.toNat] else []).eraseDups

/-- Raw chunk bytes (R157): by the widest named buffer. -/
def State.rawBytes (s : State) (c : Coll) : Nat := 8 * c.ceb * ((c.named.map fun b => tdBits (s.tensor c.ctx b)).foldl max 0)

/-- Data of a buffer travel as encoded blocks: ZIP, and the buffer is FP32 (R173). -/
def State.collWire (s : State) (c : Coll) (buf : Nat) : Bool := c.zip && tdFmt (s.tensor c.ctx buf) == 0

/-- The step that a rank's transfer of a number belongs to, in a run of the program's words. -/
def Coll.recvWord (c : Coll) (src : Nat) : Nat → List (BitVec 64) → Nat → Option (BitVec 64)
  | 0, _, _ => none
  | _ + 1, [], _ => none
  | n + 1, w :: rest, k =>
    if stepOp w = 5 then
      let len := fld w 21 10
      let each := c.recvTotal src 0 [] (rest.take len)
      let all := c.loopCount (bit w 20) (fld w 4 16) * each
      if k < all then c.recvWord src n (rest.take len) (k % each) else c.recvWord src n (rest.drop len) (k - all)
    else
      let here := (c.sources w).count src
      if k < here then some w else c.recvWord src n rest (k - here)

/-- The buffer whose format a step's data have: the one that RECV and COPY write, the source of SEND and RRS. -/
def Coll.dataBuf (c : Coll) (w : BitVec 64) : Nat :=
  let f := readStepData w
  if stepOp w = 1 then c.buf f.db.toNat else c.buf f.sb.toNat

/-- Concurrent inbound transfers of a step at most (R157, R164). -/
def Coll.inboundMax (c : Coll) : Nat :=
  (c.prog.map fun w =>
    let f := readStepData w
    if stepOp w = 2 && f.tr then (if c.inRouter then c.kids.length - 7 else c.kids.length) + 1 else (c.sources w).length).foldl max 0

/-! ## COLL and COLLABORT (R155, R157, R434) -/

/-- The tensor format that a ROP asks for (R168); none: reserved. -/
def ropFmt (rop : Nat) : Option Nat :=
  if rop % 4 = 3 then none else match rop / 4 % 4 with
    | 0 => some 0
    | 1 => some 1
    | 2 => some 9
    | _ => none

/-- The rows of R157 after the first. -/
def State.collCheck (s : State) (c : Coll) (va : Word) : Res Unit :=
  let n := c.ranks
  let tds := c.named.map (s.tensor c.ctx)
  let e := s.reg128 (offRxw c.stgw)
  let waits := (c.prog.filter fun w => stepOp w == 4).map fun w => fld w 4 14
  let told := ((List.range 3).filter c.signals).map c.counter
  let mapOk := c.rmap.all (fun x => decide (x < 1024) && s.isMember c.ctx x) && decide c.rmap.Nodup && c.rmap[c.rank]? == some s.chip
  (Res.check (decide (c.rank < n) && mapOk) .collProgram va).bind fun _ =>
  (Res.check (programOk 0 [] c.prog) .collProgram va).bind fun _ =>
  (Res.check (decide (s.rawBytes c + 8 ≤ c.slotB) && decide (c.inboundMax * c.slotB ≤ winSize e)) .collProgram va).bind fun _ =>
  (Res.check (tds.all fun d => tdValid d && (!c.sh || tdShv d)) .tensorDesc va).bind fun _ =>
  (Res.check ((c.prog.all fun w => stepOp w != 2) || (match ropFmt c.rop with
    | some fmt => tds.all fun d => tdFmt d == fmt && tdBlk d == 0
    | none => false)) .reduceFormat va).bind fun _ =>
  (Res.check (tds.all fun d => decide (n * (64 * c.ceb) ≤ tdCount d)) .tensorBounds va).bind fun _ =>
  Res.check (bit e 0 && fld e 1 6 == c.ctx && (waits ++ told).all fun k => s.ownsCnt c.ctx k) .perm va

/-- An engine's write enters the signature of the control stream that issued its collective (R286). -/
def State.signColl (s : State) (c : Coll) (addr : Word) (new : List Byte) : State :=
  match c.tile with
  | some t => s.sign t 0 addr new
  | none => s

/-- An engine assigned to the issuer's context (R458, R434). -/
def State.ownsEngine (s : State) (c e : Nat) : Bool := bit (s.reg (offCengOwn e)) 0 && s.regF (offCengOwn e) 1 6 == c

/-- COLL (R434). -/
def execColl (f : CmdE) (s : State) : Ans :=
  ((s.cmdSrc f).bind fun q =>
    let e := fld f.imm 0 4
    let ctx := s.cmdCtx
    (s.own (s.ownsEngine ctx e) q.1).bind fun _ => (s.readOperand q.1 64 64).bind fun r =>
    let d := BitVec.ofNat 512 (leNat r.1)
    (Res.check (!collBad d) .rsvField q.1).bind fun _ =>
    let n := if fld d 0 10 = 0 then 1024 else fld d 0 10
    (r.2.readPages s.cur ctx 2 (BitVec.ofNat 64 (fld d 128 57)) (2 * n)).bind fun m =>
    (m.2.readPages s.cur ctx 2 (BitVec.ofNat 64 (fld d 64 57)) (8 * progLen d)).bind fun p =>
    let prog := (List.range (progLen d)).map fun i => BitVec.ofNat 64 (leNat ((p.1.drop (8 * i)).take 8))
    let base := (prog.filter fun w => stepOp w == 4).foldl (fun t w => tput 0 t (fld w 4 14) (s.cnt (fld w 4 14))) []
    let c : Coll :=
      { desc := d, descVa := q.1, ctx := ctx, rmap := (List.range n).map fun i => leNat ((m.1.drop (2 * i)).take 2), prog := prog, base := base, tile := s.cur.tile? }
    (s.collCheck c q.1).bind fun _ =>
    let s1 := p.2
    if 4 ≤ (s1.coll e).queue.length then .ok (s1.answer f stBusy q.1 0)
    else .ok ((s1.setColl e { s1.coll e with queue := (s1.coll e).queue ++ [c] }).answer f 0 q.1 0)).finish s

/-! ## Running state -/

def CollRun.begin (c : Coll) : CollRun :=
  { c := c, pc := 0, loops := [], step := 0, tree := 0, epoch := c.epoch0, ahead := none, phase := 0, start := 0, hz := false, rpt := 0,
    repeats := 0, stale := 0, nan := false, inf := false, inbound := [], owed := [], recvNum := [], sendNum := [], cts := [], xfers := [],
    part := [], redSent := 0, redGot := [], stepok := false, reports := [], ended := false, reported := 0, decided := none,
    published := false, aborted := none, told := false, finish := none, signalled := 0 }

def State.setRun (s : State) (e : Nat) (r : Option CollRun) : State := s.setColl e { s.coll e with run := r }

/-! ## Injection (R180, R277) -/

/-- Flits of a packet with n bytes of payload (R32, R34). -/
def flitCount (n : Nat) : Nat := 1 + (n - 216 + 239) / 240

/-- What a bucket holds at most, in 47ths of a byte: BURST (R180). -/
def State.burst (s : State) (e : Nat) : Nat := 47 * 1024 * s.regF (offArb e) 12 12

/-- RATE of an engine (R180). -/
def State.engRate (s : State) (e : Nat) : Nat := s.regF (offArb e) 0 12

/-- A packet leaves its engine, its step's HORIZON record first; under PLAY no packet leaves the chip (R277, R285). -/
def State.engEmit (s : State) (e : Nat) (o : EngOut) : Res State :=
  let away := o.dst != s.chip
  let noted : Res State := match o.horizon with
    | none => .ok s
    | some (chip, n) =>
      if s.playing o.ctx then .ok s
      else (s.reserveRing 5 o.ctx 24 0).bind fun s1 => .ok (s1.horizon 5 0 o.ctx 8 chip (tget 0 s1.pseqOut chip) n)
  noted.bind fun s1 =>
    match o.rst with
    | some (rxw, off) =>
      let by' : Sender := { who := some (.engine e), run := 0, firing := none, ctx := o.ctx, order := 0, win := s1.winOf 5 0 o.ctx }
      .ok (s1.sendRst by' 0 o.dst rxw off none o.data).2
    | none => .ok (if s.playing o.ctx && away then s1 else s1.sendPlain o.dst o.pop o.vc o.word2 o.word3 o.data)

/-- An engine injects what its bucket lets pass, in order; a packet that finds no room for its HORIZON record stops it (R180). -/
def State.engPump (e : Nat) : Nat → State → State
  | 0, s => s
  | n + 1, s =>
    let g := s.coll e
    match g.outbox with
    | [] => s
    | o :: rest =>
      let flits := flitCount o.data.length
      let paid := if s.engRate e = 0 then flits else min flits (o.paid + (s.burst e - g.used) / (47 * 256))
      let used := if s.engRate e = 0 then g.used else g.used + 47 * 256 * (paid - o.paid)
      let hold (z : State) : State := z.setColl e { z.coll e with used := used, outbox := { o with paid := paid } :: rest }
      if paid < flits then hold s
      else match s.engEmit e o with
        | .ok s1 => engPump e n (s1.setColl e { s1.coll e with used := used, outbox := rest })
        | .stall _ s1 => hold s1
        | _ => hold s

/-- An engine is given packets to inject. -/
def State.engSend (s : State) (e : Nat) (l : List EngOut) : State :=
  let g := s.coll e
  State.engPump e (g.outbox.length + l.length) (s.setColl e { g with outbox := g.outbox ++ l })

/-- A cycle of an engine's bucket: RATE GB/s are 50/47 RATE bytes a cycle (R180, R219). -/
def State.engCycle (s : State) (e : Nat) : State :=
  let g := s.coll e
  State.engPump e g.outbox.length (s.setColl e { g with used := g.used - 50 * s.engRate e })

/-- A saturating count of 16 bits. -/
def satInc (v : BitVec 16) : BitVec 16 := if v = 0xFFFF then v else v + 1

/-- Send a notice (R165) to the engine of the same number on a rank's chip. -/
def State.collNote (s : State) (e : Nat) (r : CollRun) (to' kind : Nat) (epoch : BitVec 32) (operand : Nat) : State :=
  s.engSend e
    [{ ctx := r.c.ctx, dst := nth 0 r.c.rmap to', rst := none, pop := 0x15, vc := 3,
       word2 := BitVec.ofNat 64 (kind + r.c.ctx % 64 * 2 ^ 8 + e % 16 * 2 ^ 14 + epoch.toNat * 2 ^ 18), word3 := BitVec.ofNat 64 operand,
       data := [], horizon := none, paid := 0 }]

/-- Send a notice to every child. -/
def State.noteKids (s : State) (e : Nat) (r : CollRun) (kind operand : Nat) : State :=
  r.c.kids.foldl (fun s k => s.collNote e r k kind r.epoch operand) s

/-- The event of R166: at most once, and not after an abort. -/
def State.collSignal (s : State) (e : Nat) (r : CollRun) (i : Nat) : State × CollRun :=
  if bit r.signalled i || r.decided = some false || (r.aborted.isSome && r.decided.isNone) then (s, r)
  else
    (if r.c.signals i then { s with engSig := s.engSig ++ [(32 + e, r.c.counter i, s.ferryCycle)] } else s, { r with signalled := setFld r.signalled i 1 1 })

/-- LOCAL_READY, with the NaN status of R175. -/
def State.localReady (s : State) (e : Nat) (r : CollRun) : State × CollRun :=
  let status : BitVec 3 := 4 ||| (if r.nan then 1 else 0) ||| (if r.inf then 2 else 0)
  let tag := fld r.c.desc 348 4
  let s1 := if bit r.c.desc 352 && !bit r.signalled 1 then
      s.modTile (fld r.c.desc 340 8) fun x => { x with nst := tput 0 x.nst tag (tget 0 x.nst tag ||| status) } else s
  s1.collSignal e r 1

/-! ## Aborting (R178) -/

/-- A rank reports COLL_ABORT once. -/
def State.tellAbort (s : State) (e : Nat) (r : CollRun) : State × CollRun :=
  if r.told then (s, r) else (s.report .collAbort r.c.ctx 3 e 0, { r with told := true })

/-- The root decides abort, or counts an abort that comes after its decision. -/
def State.rootAbort (s : State) (e : Nat) (r : CollRun) (cause : Cause) : State × CollRun :=
  if r.decided.isSome then (s, { r with stale := satInc r.stale })
  else
    let r1 := { r with aborted := some (r.aborted.getD cause), decided := some false, finish := some false }
    (s.noteKids e r1 0x45 2, r1)

/-- An abort cause on a rank: its program stops, and the root is told. -/
def State.collAborts (s : State) (e : Nat) (r : CollRun) (cause : Cause) : State × CollRun :=
  if r.aborted.isSome || r.decided = some false then (s, r)
  else
    let r1 := if r.decided.isSome then r else { r with aborted := some cause }
    if r.c.rank = 0 then s.rootAbort e r1 cause else (s.collNote e r1 0 0x44 r1.epoch cause.code, r1)

/-- The status word, bits [511:448] of the descriptor (R156). -/
def CollRun.status (r : CollRun) (commit : Bool) : Nat :=
  1 + (if commit then 2 else 4) + (if r.nan then 8 else 0) + (if commit then 0 else (r.aborted.getD .collAbort).code) * 2 ^ 4 +
    r.repeats.toNat * 2 ^ 10 + r.stale.toNat * 2 ^ 26

/-- Write a status word, with its undo records, once the undo log has room. -/
def State.writeStatus (s : State) (c : Coll) (v : Nat) : Res State :=
  let va := c.descVa + 56
  (s.reserveRing 5 c.ctx (vaRecordBytes va (leBytes 8 v)) va).bind fun s1 =>
    .ok ((s1.writeVa 5 0 c.ctx (s1.winOf 5 0 c.ctx) va (leBytes 8 v)).signColl c va (leBytes 8 v))

/-- COLLABORT (R434, R178): queued descriptors of the context end unrun. -/
def execCollabort (f : CmdE) (s : State) : Ans :=
  ((s.cmdSrc f).bind fun q =>
    let e := fld f.imm 0 4
    let ctx := s.cmdCtx
    (s.own (s.ownsEngine ctx e)).bind fun _ =>
    let g := s.coll e
    let gone := g.queue.filter fun c => c.ctx == ctx
    let run := g.run.filter fun r => r.c.ctx == ctx
    if gone.isEmpty && run.isNone then .ok (s.answer f stNone q.1 0)
    else
      let s0 := s.setColl e { g with queue := g.queue.filter fun c => c.ctx != ctx }
      match gone.foldl (fun (o : Res State) c => o.bind fun s => s.writeStatus c (5 + Cause.collAbort.code * 2 ^ 4)) (.ok s0) with
      | .stall _ _ | .raise _ _ | .denied _ _ _ => .stall .undoLog (s.undoFull ctx 5)
      | .fault x => .fault x
      | .ok s1 =>
        let s2 := match run with
          | none => s1
          | some r =>
            let t := if r.decided.isNone then s1.tellAbort e r else (s1, r)
            let a := t.1.collAborts e t.2 .collAbort
            a.1.setRun e (some a.2)
        .ok (s2.answer f 0 q.1 0)).finish s

/-! ## Transfers (R164, R449) -/

/-- Send the CTS of a transfer into the lowest slot that is not kept, or keep it until a slot is free. -/
def State.sendCts (s : State) (e : Nat) (r : CollRun) (src num : Nat) : State × CollRun :=
  if r.c.recvTotal src 0 [] r.c.prog ≤ num then (s, r)
  else
    let w := s.reg128 (offRxw r.c.stgw)
    let kept := (r.inbound.filter fun b => b.data.isNone).map (·.off)
    match firstBelow (fun k => !kept.contains (k * r.c.slotB) && decide ((k + 1) * r.c.slotB ≤ winSize w)) (kept.length + 1) 0 with
    | none => (s, { r with owed := r.owed ++ [(src, num)] })
    | some k =>
      let off := k * r.c.slotB
      (s.collNote e r src 0x40 r.epoch (num % 65536 + off * 65536),
        { r with inbound := r.inbound ++ [{ src := src, num := num, epoch := r.epoch, off := off, landed := none, data := none }] })

/-- The CTS that waited for a slot. -/
def State.retryCts (s : State) (e : Nat) (r : CollRun) : State × CollRun :=
  r.owed.foldl (fun a o => State.sendCts a.1 e a.2 o.1 o.2) (s, { r with owed := [] })

/-- What an earlier collective of an engine sent counts no more against its peers. -/
def State.forgetAnswers (s : State) (e : Nat) : State :=
  { s with sent := s.sent.filter fun x => !(x.who == some (.engine e) && x.status.isSome) }

/-- COLLECTIVE_START (R155, R449). -/
def execCollectiveStart (engine : Nat) (s : State) : Ans :=
  let g := s.coll engine
  match g.queue with
  | [] => .next s
  | c :: rest =>
    if g.run.isSome || g.parked || s.mstate c.ctx != 0 then .next s
    else
      let a := c.allSources.foldl (fun a src => State.sendCts a.1 engine a.2 src 0) (s.forgetAnswers engine, CollRun.begin c)
      .next (a.1.setColl engine { a.1.coll engine with queue := rest, run := some a.2 })

/-- What the staging slot of a rank's transfer holds, decoded; none: a block that is no valid block (R173, R174). -/
def State.stagedData (s : State) (c : Coll) (b : Inbound) : Option (List Byte) :=
  let buf := c.dataBuf ((c.recvWord b.src 4096 c.prog b.num).getD 0)
  if s.collWire c buf then wireRaw c.ceb (s.windowBytes true c.stgw c.ctx b.off (c.slotB - 8))
  else some (s.windowBytes true c.stgw c.ctx b.off (8 * c.ceb * tdBits (s.tensor c.ctx buf)))

/-- TRANSFER_TAKE (R164): the trailer of the expected epoch and number has been delivered; an invalid block is a missing
contribution. -/
def execTransferTake (engine src : Nat) (s : State) : Ans :=
  match (s.coll engine).run with
  | none => .next s
  | some r =>
    if (s.coll engine).parked || r.aborted.isSome || r.decided = some false then .next s
    else match r.inbound.find? (fun b => b.src == src && b.data.isNone &&
        b.landed == some (BitVec.ofNat 64 (b.epoch.toNat + b.num % 65536 * 2 ^ 32))) with
      | none => .next s
      | some b =>
        match s.stagedData r.c b with
        | none => .next (s.setRun engine (some { r with inbound := r.inbound.map fun x => if x = b then { x with landed := none } else x }))
        | some bs =>
          let r1 := { r with inbound := r.inbound.map fun x => if x = b then { x with data := some bs } else x }
          let a := (s.collNote engine r1 src 0x41 b.epoch b.num).retryCts engine r1
          .next (a.1.setRun engine (some a.2))

/-- The data taken for the next transfer of a rank. -/
def CollRun.taken (r : CollRun) (src : Nat) : Option (List Byte) :=
  (r.inbound.find? fun b => b.src == src && b.num == tget 0 r.recvNum src).bind (·.data)

/-- A step has read a transfer: the next CTS of its source goes out (R449). -/
def State.consume (s : State) (e : Nat) (r : CollRun) (src : Nat) : State × CollRun :=
  let n := tget 0 r.recvNum src
  s.sendCts e { r with inbound := r.inbound.filter (fun b => !(b.src == src && b.num == n)), recvNum := tput 0 r.recvNum src (n + 1) } src (n + 1)

/-- The word that the program is at. -/
def CollRun.word (r : CollRun) : BitVec 64 := nth 0 r.c.prog r.pc

/-- Add a transfer for each rank; one that its slot cannot hold aborts the collective (R176). -/
def State.addXfers (s : State) (e : Nat) (r : CollRun) (dests : List Nat) (raw : List Byte) : State × CollRun :=
  let bs := if s.collWire r.c (r.c.dataBuf r.word) then wireBytes r.c.ceb raw else raw
  if !dests.isEmpty && r.c.slotB < bs.length + 8 then s.collAborts e r .escapeOverflow
  else
    (s, dests.foldl (fun r d =>
      let n := tget 0 r.sendNum d
      { r with sendNum := tput 0 r.sendNum d (n + 1), xfers := r.xfers ++ [{ dst := d, num := n % 65536, data := bs, epoch := none, done := false }] }) r)

/-- Send a transfer whose CTS is there at an epoch it has not been sent at: data, then the trailer; the step's HORIZON record goes before
its first packet to another chip (R164, R277). -/
def State.sendXfer (s : State) (e : Nat) (r : CollRun) (x : Xfer) : State × CollRun :=
  match r.cts.find? (fun k => k.1 == x.dst && k.2.1 == x.num) with
  | none => (s, r)
  | some (_, _, ep, off) =>
    if x.done || x.epoch = some ep then (s, r)
    else
      let dst := nth 0 r.c.rmap x.dst
      let first := !r.hz && dst != s.chip
      let pieces := packetPieces (x.data.length / 4096 + 1) off x.data ++
        [(off + r.c.slotB - 8, leBytes 8 (ep.toNat + x.num % 65536 * 2 ^ 32))]
      (s.engSend e (pieces.zipIdx.map fun p =>
        { ctx := r.c.ctx, dst := dst, rst := some (r.c.stgw, p.1.1), pop := 0, vc := 0, word2 := 0, word3 := 0, data := p.1.2,
          horizon := if first && p.2 == 0 then some (dst, x.data.length) else none, paid := 0 }),
        { r with hz := r.hz || first, xfers := r.xfers.map fun y => if y = x then { y with epoch := some ep } else y })

def State.sendXfers (s : State) (e : Nat) (r : CollRun) : State × CollRun := r.xfers.foldl (fun a x => State.sendXfer a.1 e a.2 x) (s, r)

/-! ## Chunks (R157, R163) -/

/-- Bytes of a chunk of a buffer. -/
def State.chunkLen (s : State) (c : Coll) (buf : Nat) : Nat := 8 * c.ceb * tdBits (s.tensor c.ctx buf)

/-- Read bytes of a tensor's visible table; none: a chunk is absent or migrating. -/
def State.readTensor (s : State) (d : BitVec 512) : Nat → Nat → Nat → Option (List Byte)
  | 0, _, _ => some []
  | fuel + 1, byte, n =>
    if n = 0 then some []
    else
      let k := min n (65536 - byte % 65536)
      match s.chunkPlace (tdTable d false) byte false with
      | .found pa | .unpinned pa => (s.readTensor d fuel (byte + k) (n - k)).map fun r => mreads s.hbm pa k ++ r
      | _ => none

/-- Chunk k of a buffer. -/
def State.readChunk (s : State) (c : Coll) (buf k : Nat) : Option (List Byte) :=
  let n := s.chunkLen c buf
  s.readTensor (s.tensor c.ctx buf) (n / 65536 + 2) (k * n) n

/-- Whether elements of a format hold a NaN, or an infinity. -/
def chunkStatus (fmt : Nat) (bs : List Byte) : Bool × Bool :=
  let w := typeBits fmt / 8
  let nums := if w = 0 then [] else (List.range (bs.length / w)).map fun i => decodeNum fmt 0 (leNat ((bs.drop (w * i)).take w))
  (nums.any (fun x => match x with
    | .nan => true
    | _ => false), nums.any fun x => match x with
    | .inf _ => true
    | _ => false)

/-- Ranges of a chunk write; none: a chunk is absent, migrating or read-only. -/
def State.chunkSegs (s : State) (d : BitVec 512) (id : Nat) (shadow : Bool) (byte : Nat) (bs : List Byte) : Option (List Seg) :=
  (blockPieces (bs.length / 4096 + 2) (BitVec.ofNat 64 byte) bs).foldr (fun p acc => acc.bind fun l =>
    match s.chunkPlace (tdTable d shadow) p.1.toNat true with
    | .found pa | .unpinned pa =>
      some ({ akind := 2, addr := tensorAddr id (tdXp d) (p.1.toNat / 8 * 8), pa := pa, len := p.2.length, data := p.2, keepLow := false,
              keepHigh := false, src := [] } :: l)
    | _ => none) (some [])

/-- Write a chunk of a buffer, to the shadow or with undo records, once every page is there and the undo log has room. -/
def State.writeChunk (s : State) (r : CollRun) (buf k : Nat) (bs : List Byte) : Res (State × CollRun) :=
  let c := r.c
  let d := s.tensor c.ctx buf
  let n := s.chunkLen c buf
  let data := bs.take n
  let st := chunkStatus (tdFmt d) data
  let r1 := { r with nan := r.nan || st.1, inf := r.inf || st.2 }
  match s.chunkSegs d buf c.sh (k * n) data with
  | none => .stall .migrating s
  | some segs =>
    let put (log : Bool) (s : State) : State := segs.foldl (fun s g =>
      let s1 := s.segPut 5 0 c.ctx (s.winOf 5 0 c.ctx) false log g
      if log then s1.signColl c g.addr g.data else s1) s
    if c.sh then .ok (put false s, r1) else (s.reserveRing 5 c.ctx (segsBytes segs) 0).bind fun s1 => .ok (put true s1, r1)

/-! ## The reduction table (R49, R170) -/

/-- Its router takes the sum to the engine: at rank 0, past seven children, or where the parent has no slot for it. -/
def Coll.routerRoot (c : Coll) : Bool := c.rank == 0 || 7 < c.kids.length || 8 ≤ childNumber c.rank

/-- The entry that the engine writes. -/
def Coll.redEntry (c : Coll) (epoch : BitVec 32) : BitVec 128 :=
  let m := min 7 c.kids.length
  let plan := ((List.range m).map fun j => (j + 1) * 8 * 2 ^ (6 * j)).sum
  BitVec.ofNat 128 (1 + (2 ^ (m + 1) - 1) * 2 + nth 0 c.rmap (rankParent c.rank) * 2 ^ 9 + (if c.routerRoot then 2 ^ 19 else 0) +
    (if c.rank = 0 then 0 else childNumber c.rank % 8) * 2 ^ 20 + m * 2 ^ 26 + plan * 2 ^ 32 + epoch.toNat * 2 ^ 96)

/-- Write RID through the Ferry; blocks of older epochs are gone. -/
def State.writeRed (s : State) (r : CollRun) : State :=
  State.setReg128 { s with reds := s.reds.filter fun b => b.rid != r.c.rid } (offRedTab r.c.rid) (r.c.redEntry r.epoch)

/-- A block of a chunk as a RED packet's payload. -/
def Coll.redPayload (c : Coll) (raw : List Byte) (i : Nat) : List Byte :=
  let bs := (raw.drop (64 * ropBytes c.rop * i)).take (64 * ropBytes c.rop)
  if c.zip && c.rop / 4 % 4 == 0 then wireEncode (wordsOf 64 bs) else bs

/-- Send blocks of a chunk as RED packets to a router; what the blocks bring to another chip has its HORIZON record first (R164, R277). -/
def State.sendReds (s : State) (e : Nat) (r : CollRun) (dst slot : Nat) (raw : List Byte) (blocks : List Nat) (peer : Option Nat) : State × CollRun :=
  let first := !r.hz && peer.any (· != s.chip)
  let payload (i : Nat) : List Byte := r.c.redPayload raw i
  let total := ((List.range r.c.ceb).map fun i => (payload i).length).sum
  (s.engSend e (blocks.zipIdx.map fun b =>
    { ctx := r.c.ctx, dst := dst, rst := none, pop := 2, vc := 0, word2 := redWord2 r.c.rid r.epoch b.1 slot, word3 := redWord3 b.1,
      data := payload b.1, horizon := if first && b.2 == 0 then peer.map fun p => (p, total) else none, paid := 0 }),
    { r with hz := r.hz || first })

/-- Blocks that the engine may send to its own router now: the router keeps sixteen (R50). -/
def State.redRoom (s : State) (e : Nat) (r : CollRun) : Nat :=
  if (tget [] s.inq 6).any (fun p => p.pop == 2) || (s.coll e).outbox.any fun o => o.pop == 2 then 0
  else 16 - s.reds.countP fun b => b.rid == r.c.rid

/-! ## Repeats (R177) -/

/-- A tree reduction starts again at an epoch: staged and router data of the old one are discarded. -/
def State.restartTree (s : State) (e : Nat) (r : CollRun) (ep : BitVec 32) : State × CollRun :=
  let mine (src num : Nat) : Bool := r.c.kidsIn.contains src && num == tget 0 r.recvNum src
  let r1 : CollRun :=
    { r with
      epoch := ep, phase := 1, start := s.ccc, part := [], redSent := 0, redGot := [], stepok := false, ahead := none,
      repeats := satInc r.repeats,
      sendNum := r.xfers.foldl (fun t x => tput 0 t x.dst (tget 0 t x.dst - 1)) r.sendNum, xfers := [],
      cts := r.cts.filter fun k => !(r.xfers.any (fun x => x.dst == k.1 && x.num == k.2.1)) || passed32 k.2.2.1 ep,
      inbound := r.inbound.filter fun b => !mine b.src b.num, owed := r.owed.filter fun o => !mine o.1 o.2 }
  let s1 := if r.c.inRouter then s.writeRed r1 else s
  let s2 := s1.noteKids e r1 0x42 r.step
  r.c.kidsIn.foldl (fun a k => State.sendCts a.1 e a.2 k (tget 0 r.recvNum k)) (s2, r1)

/-- A peer step repeats: REPEAT and a new CTS to the source. -/
def State.repeatPeer (s : State) (e : Nat) (r : CollRun) (src : Nat) : State × CollRun :=
  let r1 := { r with epoch := r.epoch + 1, start := s.ccc, repeats := satInc r.repeats }
  let s1 := s.collNote e r1 src 0x42 r1.epoch r.step
  match r.inbound.find? (fun b => b.src == src && b.num == tget 0 r.recvNum src && b.data.isNone) with
  | none => (s1, r1)
  | some b =>
    (s1.collNote e r1 src 0x40 r1.epoch (b.num % 65536 + b.off * 65536),
      { r1 with inbound := r1.inbound.map fun x => if x = b then { x with epoch := r1.epoch, landed := none } else x })

/-- The word is a tree reduction. -/
def stepTreeRrs (w : BitVec 64) : Bool := stepOp w == 2 && (readStepData w).tr

/-- A transfer from the parent is late: REPEAT and a new CTS at the next epoch of that transfer (R177; log entry 122). -/
def State.repeatDown (s : State) (e : Nat) (r : CollRun) (src : Nat) : State × CollRun :=
  let r1 := { r with start := s.ccc, repeats := satInc r.repeats }
  match r.inbound.find? (fun b => b.src == src && b.num == tget 0 r.recvNum src && b.data.isNone) with
  | none => (s, r1)
  | some b =>
    ((s.collNote e r1 src 0x42 (b.epoch + 1) r.step).collNote e r1 src 0x40 (b.epoch + 1) (b.num % 65536 + b.off * 65536),
      { r1 with inbound := r1.inbound.map fun x => if x = b then { x with epoch := b.epoch + 1, landed := none } else x })

/-- The step waits for a result of the tree that comes from the parent by transfer. -/
def CollRun.awaitsDown (r : CollRun) : Bool :=
  r.phase == 3 && stepTreeRrs r.word && (readStepData r.word).fw && r.c.rank != 0 && (r.taken (rankParent r.c.rank)).isNone

/-- The step waits for an inbound transfer or tree result that its own rank detects the lack of: the root of a tree reduction, the receiver
of any other transfer (R177). -/
def CollRun.lacking (r : CollRun) : Bool :=
  let w := r.word
  stepIsData w && !r.ended &&
    (r.awaitsDown || (r.phase == 1 &&
      (if stepTreeRrs w then r.c.rank == 0 && (r.c.inRouter || r.c.kidsIn.any fun k => (r.taken k).isNone)
       else (r.c.sources w).any fun k => (r.taken k).isNone)))

/-- COLL_LATE (R177, R450). -/
def execCollLate (engine : Nat) (s : State) : Ans :=
  match (s.coll engine).run with
  | none => .next s
  | some r =>
    let dl := r.c.deadline
    if (s.coll engine).parked || r.aborted.isSome || dl = 0 || !r.lacking || (s.ccc - r.start).toNat < cyclesOf dl then .next s
    else
      let s1 := (s.flog engine 0 .collLate r.c.ctx 1).2
      let r1 := { r with rpt := r.rpt + 1 }
      let a := if r.c.maxRepeats < r1.rpt then s1.collAborts engine r1 .collLate
        else if r.awaitsDown then s1.repeatDown engine r1 (rankParent r.c.rank)
        else if stepTreeRrs r.word then s1.restartTree engine r1 (r.epoch + 1)
        else s1.repeatPeer engine r1 ((r.c.sources r.word).headD 0)
      .next (a.1.setRun engine (some a.2))

/-! ## Data steps (R163) -/

/-- The iteration index that a step uses: of the outer or the inner loop, 0 outside loops. -/
def CollRun.index (r : CollRun) (inner : Bool) : Nat := ((if inner then r.loops.head? else r.loops.getLast?).map fun l => l.2.2.2).getD 0

/-- The chunk of a step. -/
def CollRun.chunk (r : CollRun) (f : StepDataF) : Nat :=
  let m : Int := if f.cm = 1 then 1 else if f.cm = 2 then -1 else 0
  rankAt r.c.ranks r.c.rank (f.ck.toInt + m * Int.ofNat (r.index f.is))

def CollRun.peer (r : CollRun) (f : StepDataF) : Nat := rankAt r.c.ranks r.c.rank f.pk.toInt

/-- The word after a body's end: the body again, or past the loop. -/
def closeLoops (next : Nat) : List (Nat × Nat × Nat × Nat) → Nat × List (Nat × Nat × Nat × Nat)
  | [] => (next, [])
  | (a, z, c, i) :: rest => if next = z then (if i + 1 < c then (a, (a, z, c, i + 1) :: rest) else closeLoops next rest) else (next, (a, z, c, i) :: rest)

/-- The program goes on with another word. -/
def CollRun.goTo (r : CollRun) (next : Nat) : CollRun :=
  let p := closeLoops next r.loops
  { r with pc := p.1, loops := p.2, phase := 0, rpt := 0, hz := false, xfers := [], part := [], stepok := false, redSent := 0, redGot := [] }

/-- A data step has completed: its flags, then the next word (R160, R166). -/
def State.stepDone (s : State) (e : Nat) (r : CollRun) (f : StepDataF) : State × CollRun :=
  let a := if f.sf then s.collSignal e r 0 else (s, r)
  let b := if f.lr && !r.c.sh then a.1.localReady e a.2 else a
  (b.1, { b.2 with step := r.step + 1 }.goTo (r.pc + 1))

/-- The step begins. A tree step takes its own epoch, or that of a repeat already announced. -/
def State.stepBegin (s : State) (e : Nat) (r : CollRun) (op : Nat) (f : StepDataF) : State × CollRun :=
  let r1 := { r with phase := 1, start := s.ccc }
  if !f.tr then (s, r1)
  else
    let r2 := { r1 with tree := r.tree + 1, epoch := r.c.epoch0 + BitVec.ofNat 32 (16 * r.tree) }
    match r.ahead with
    | some (i, ep) => if op = 2 ∧ i = r.step then s.restartTree e r2 ep else (s, r2)
    | none => (if op = 2 ∧ r.c.inRouter then s.writeRed r2 else s, r2)

/-- Sum of a tree reduction at the endpoint: the parts of the children that come by transfer, in ascending order (R170). -/
def CollRun.addKids (r : CollRun) (own : List Byte) : Option (List Byte) :=
  r.c.kidsIn.foldl (fun acc k => acc.bind fun p => (r.taken k).map fun d => ropBytesAdd r.c.rop p.length p d) (some own)

/-- Phase 1 of a tree reduction through the router: send this rank's blocks, then take the result where the router gives it. A router that
passes its sum to the parent makes these blocks the step's sending. -/
def State.routerInput (s : State) (e : Nat) (r : CollRun) (f : StepDataF) : Option (State × CollRun) :=
  let own : Option (List Byte) := if r.redSent = 0 then s.readChunk r.c (r.c.buf f.sb.toNat) (r.chunk f) else some r.part
  own.bind fun bs =>
    let n := min (s.redRoom e r) (r.c.ceb - r.redSent)
    let up := if r.c.routerRoot then none else some (nth 0 r.c.rmap (rankParent r.c.rank))
    if 0 < n then some (s.sendReds e { r with part := bs, redSent := r.redSent + n } s.chip 0 bs ((List.range n).map (r.redSent + ·)) up)
    else if r.redSent < r.c.ceb then none
    else if !r.c.routerRoot then some (s, { r with phase := 3 })
    else if (List.range r.c.ceb).all fun i => !(tget [] r.redGot i).isEmpty then
      (r.addKids ((List.range r.c.ceb).flatMap fun i => tget [] r.redGot i)).map fun p => (s, { r with part := p, phase := 2 })
    else none

/-- Phase 1: the data that the step moves. -/
def State.stepInput (s : State) (e : Nat) (r : CollRun) (op : Nat) (f : StepDataF) : Option (State × CollRun) :=
  let own := s.readChunk r.c (r.c.buf f.sb.toNat) (r.chunk f)
  let src := (r.c.sources r.word).headD 0
  let to' (phase : Nat) (a : State × CollRun) (bs : List Byte) : State × CollRun := (a.1, { a.2 with part := bs, phase := phase })
  match op with
  | 1 =>
    if f.tr then (if r.c.rank = 0 then own else r.taken src).map (to' 4 (s, r))
    else (r.taken src).map (to' 4 (s.consume e r src))
  | 2 =>
    if f.tr then (if r.c.inRouter then s.routerInput e r f else (own.bind r.addKids).map (to' 2 (s, r)))
    else own.bind fun x =>
      if f.iw then some (to' 4 (s, r) (ropBytesAdd r.c.rop x.length (s.windowBytes true r.c.stgw r.c.ctx 0 x.length) x))
      else (r.taken src).map fun d => to' 4 (s.consume e r src) (ropBytesAdd r.c.rop x.length d x)
  | _ => own.map (to' 4 (s, r))

/-- Phase 2 of a tree reduction: the part goes to the parent, by transfer or as RED packets; the root has the result. -/
def State.stepUp (s : State) (e : Nat) (r : CollRun) : State × CollRun :=
  if r.c.rank = 0 then (s, { r with phase := 4 })
  else
    let up := rankParent r.c.rank
    let r1 := { r with phase := 3 }
    if r.c.inRouter && childNumber r.c.rank < 8 then
      s.sendReds e r1 (nth 0 r.c.rmap up) (childNumber r.c.rank) r.part (List.range r.c.ceb) (some (nth 0 r.c.rmap up))
    else s.addXfers e r1 [up] r.part

/-- Phase 3 of a tree reduction away from the root: STEPOK, or the result from the parent. -/
def CollRun.stepResult (r : CollRun) (f : StepDataF) : Option CollRun :=
  if f.fw then (r.taken (rankParent r.c.rank)).map fun bs => { r with part := bs, phase := 4 }
  else if r.stepok then some { r with phase := 6 } else none

/-- Phase 5: who is sent the data, and STEPOK. -/
def State.stepOut (s : State) (e : Nat) (r : CollRun) (op : Nat) (f : StepDataF) : State × CollRun :=
  let dests := match op with
    | 0 => [r.peer f]
    | 1 => if f.tr then r.c.kids else if f.fw then [r.peer f] else []
    | 2 => if f.tr then (if f.fw then r.c.kids else []) else if f.ns then [] else [r.peer f]
    | _ => []
  let s1 := if op = 2 && f.tr && !f.fw then s.noteKids e r 0x43 r.step else s
  s1.addXfers e { r with phase := 6 } dests r.part

/-- The end of a step: a tree step's inputs are done with. -/
def State.stepEnds (s : State) (e : Nat) (r : CollRun) (f : StepDataF) : State × CollRun :=
  let a := if f.tr then (r.c.sources r.word).foldl (fun a k => State.consume a.1 e a.2 k) (s, r) else (s, r)
  a.1.stepDone e a.2 f

/-- What comes, or a wait. -/
def State.orWait {α : Type} (s : State) (o : Option α) : Res α :=
  match o with
  | some v => .ok v
  | none => .stall .notReady s

/-- One phase, or the step's wait. -/
def State.stepPhase (s : State) (e : Nat) (r : CollRun) (op : Nat) (f : StepDataF) : Res (State × CollRun) :=
  match r.phase with
  | 0 => .ok (s.stepBegin e r op f)
  | 1 => s.orWait (s.stepInput e r op f)
  | 2 => .ok (s.stepUp e r)
  | 3 => s.orWait ((r.stepResult f).map fun r1 => (s, r1))
  | 4 =>
    if op = 1 || op = 3 || (op = 2 && f.wd) then
      (s.writeChunk r (r.c.buf f.db.toNat) (r.chunk f) r.part).bind fun a => .ok (a.1, { a.2 with phase := 5 })
    else .ok (s, { r with phase := 5 })
  | 5 => .ok (s.stepOut e r op f)
  | _ => if r.xfers.all (·.done) then .ok (s.stepEnds e r f) else .stall .notReady s

/-- Chips that a step waits on. -/
def CollRun.waitsOn (r : CollRun) : List Nat :=
  let w := r.word
  let up := if r.c.rank = 0 then [] else [rankParent r.c.rank]
  let ins := match r.phase with
    | 1 => ((r.c.sources w).filter fun k => (r.taken k).isNone) ++ (if stepTreeRrs w then r.c.kids else [])
    | 3 => up
    | _ => []
  (ins ++ (r.xfers.filter fun x => !x.done).map (·.dst)).map fun k => nth 0 r.c.rmap k

/-- A chip does not answer: it is fenced, the link towards it is not UP, or a packet to it was dropped (R178). -/
def State.peerLost (s : State) (e c chip : Nat) : Bool :=
  (s.sent.any fun x => x.who == some (.engine e) && x.dst == chip && (x.status == some 1 || x.status == some 2)) ||
    (!s.playing c && (s.fences.getLsbD chip || (match s.linkTo chip with
      | some n => s.linkState n != 2
      | none => false)))

/-- COLL_PEER (R178): raised by an engine that waits on a chip that does not answer. -/
def State.peerCheck (s : State) (e : Nat) (r : CollRun) (on : List Nat) : State × CollRun :=
  if r.aborted.isSome || r.decided.isSome || !on.any (s.peerLost e r.c.ctx) then (s, r)
  else (s.report .collPeer r.c.ctx 3 e 0).collAborts e r .collPeer

/-- A data step at issue on its engine: it does what it can, and sends what has a CTS. -/
def State.stepGo (s : State) (e : Nat) (op : Nat) (f : StepDataF) : Nat → CollRun → State
  | 0, r => s.setRun e (some r)
  | n + 1, r =>
    let again : Option (BitVec 32) := match r.ahead with
      | some (i, ep) => if op = 2 && f.tr && i == r.step && 1 ≤ r.phase && r.phase ≤ 3 && !passed32 r.epoch ep then some ep else none
      | none => none
    let a := match again with
      | some ep => s.restartTree e r ep
      | none => s.sendXfers e r
    if a.2.aborted.isSome then a.1.setRun e (some a.2)
    else match a.1.stepPhase e a.2 op f with
      | .stall _ s1 => let b := s1.peerCheck e a.2 a.2.waitsOn; b.1.setRun e (some b.2)
      | .raise _ _ | .denied _ _ _ | .fault _ => a.1.setRun e (some a.2)
      | .ok b => if b.2.step = r.step && b.2.aborted.isNone then b.1.stepGo e op f n b.2 else b.1.setRun e (some b.2)

/-- The running collective of the engine at issue. -/
def State.engineRun (s : State) : Option (Nat × CollRun) :=
  match s.cur with
  | .engine e => if (s.coll e).parked then none else (s.coll e).run.map fun r => (e, r)
  | _ => none

/-- A data step. -/
def State.dataStep (s : State) (op : Nat) (f : StepDataF) : State :=
  match s.engineRun with
  | some (e, r) => s.stepGo e op f 32 r
  | none => s

/-- STEP.SEND (R163). -/
def execStepSend (f : StepDataF) (s : State) : Ans := .next (s.dataStep 0 f)

/-- STEP.RECV (R163). -/
def execStepRecv (f : StepDataF) (s : State) : Ans := .next (s.dataStep 1 f)

/-- STEP.RRS (R163). -/
def execStepRrs (f : StepDataF) (s : State) : Ans := .next (s.dataStep 2 f)

/-- STEP.COPY (R163). -/
def execStepCopy (f : StepDataF) (s : State) : Ans := .next (s.dataStep 3 f)

/-! ## Control steps (R161) -/

/-- STEP.WAIT: completes when the counter has passed T. -/
def execStepWait (f : StepWaitF) (s : State) : Ans :=
  match s.engineRun with
  | none => .next s
  | some (e, r) =>
    let n := f.cnt.toNat
    let t : Word := f.thr.setWidth 64 + (if f.rb then tget 0 r.c.base n else 0)
    if passed64 (s.cnt n) t then .next (s.setRun e (some ({ r with step := r.step + 1 }.goTo (r.pc + 1)))) else .next s

/-- STEP.LOOP: the body's words, count times; a count of zero skips them. -/
def execStepLoop (f : StepLoopF) (s : State) : Ans :=
  match s.engineRun with
  | none => .next s
  | some (e, r) =>
    let count := r.c.loopCount f.nr f.count.toNat
    let r1 := if count = 0 then r.goTo (r.pc + 1 + f.len.toNat)
      else { r with pc := r.pc + 1, loops := (r.pc + 1, r.pc + 1 + f.len.toNat, count, 0) :: r.loops, phase := 0 }
    .next (s.setRun e (some r1))

/-! ## The end (R178) -/

/-- PUBLISH of the buffers that the program wrote begins. -/
def State.collPublish (s : State) (e : Nat) (r : CollRun) : State × CollRun :=
  ({ s with pubs := s.pubs ++ r.c.written.map fun b => { who := some (.engine e), engine := some e, ctx := r.c.ctx, tensor := b } },
    { r with published := true })

/-- ALLDONE at a rank: its children hear of it, ALL_DONE is signalled, and the collective ends committed. -/
def State.allDone (s : State) (e : Nat) (r : CollRun) : State × CollRun :=
  let a := (s.noteKids e r 0x47 0).collSignal e r 2
  (a.1, { a.2 with finish := some true })

/-- The decision commit at a rank: it is passed on, and the buffers are published; an abort of its own is stale. -/
def State.collCommit (s : State) (e : Nat) (r : CollRun) : State × CollRun :=
  let r1 := { r with decided := some true, stale := if r.aborted.isSome then satInc r.stale else r.stale, reported := 1, reports := [] }
  (s.noteKids e r1 0x45 1).collPublish e r1

/-- REPORT when every child has reported: to the parent, or the root's decision. -/
def State.collReport (s : State) (e : Nat) (r : CollRun) : State × CollRun :=
  let kids := r.c.kids
  if !kids.all (fun k => tget 0 r.reports k != 0) then (s, r)
  else
    let n := 1 + (kids.map fun k => tget 0 r.reports k).sum
    let r1 := { r with reported := r.reported + 1, reports := [] }
    if r.c.rank ≠ 0 then (s.collNote e r1 (rankParent r.c.rank) 0x46 r1.epoch n, r1)
    else if r.c.sh && r.reported = 0 then s.collCommit e r1
    else s.allDone e { r1 with decided := some true }

/-- What a collective at its end does next. -/
def State.collEnds (s : State) (e : Nat) (r : CollRun) : State × CollRun :=
  match r.decided with
  | some true =>
    if !r.c.sh then (s, r)
    else if s.pubs.any (fun p => p.who == some (.engine e)) then (s, r)
    else
      let a := s.localReady e r
      if a.2.reported = 1 then a.1.collReport e a.2 else a
  | some false => (s, r)
  | none =>
    if r.aborted.isSome then (s, r)
    else
      let a := if r.reported = 0 then s.collReport e r else (s, r)
      let on := (if a.2.reported = 0 then a.2.c.kids.filter fun k => tget 0 a.2.reports k == 0
        else if a.2.c.rank = 0 then [] else [rankParent a.2.c.rank]).map fun k => nth 0 a.2.c.rmap k
      a.1.peerCheck e a.2 on

/-- The collective has ended: the status word is written, and the engine is free. -/
def State.collFinish (s : State) (e : Nat) (r : CollRun) : State :=
  match r.finish with
  | none => s.setRun e (some r)
  | some commit => match s.writeStatus r.c (r.status commit) with
    | .ok s1 => s1.setRun e none
    | .stall _ s1 => s1.setRun e (some r)
    | _ => s.setRun e (some r)

/-- STEP.END (R178): the program is complete; an aborted program's engine is here too until it ends. -/
def execStepEnd (s : State) : Ans :=
  match s.engineRun with
  | none => .next s
  | some (e, r) => let a := s.collEnds e { r with ended := true }; .next (a.1.collFinish e a.2)

/-! ## Notices (R165) -/

/-- Causes in code order (R246). -/
def allCauses : List Cause :=
  [.none, .illOp, .rsvField, .blkHeader, .priv, .streamClass, .syncMismatch, .loopbuf, .feTrap, .feDouble, .queueUnder, .queueOver,
   .spillOverflow, .divZero, .align, .lcreg, .schedMiss, .accRange, .wbDecomp, .tensorDesc, .tensorBounds, .fmtMismatch, .hadamardSize,
   .wbFull, .spadRange, .coreUnmapped, .copyPageFault, .perm, .leaseWait, .migrating, .scoreboardFull, .atomicAlign] ++
  [.syncObjInvalid, .acqTimeout, .relNotHeld, .tokenExpired, .tokenTableFull, .holdQueueFull, .fenceRfTimeout, .publishConflict,
   .linkDown, .nakExhausted, .chipFencedOff, .shootdownTimeout, .uetDelivery, .unexpectedFull, .matchTableFull, .windowUnmapped, .collAbort,
   .collLate, .collProgram, .collPeer, .escapeOverflow, .reduceFormat, .watchdogHang, .preempt, .taskAbort, .taskqFull, .breakTrap,
   .matchpoint, .undoLogFull, .replayDiverge, .eccUncorrectable, .internal]

def noticeKind (p : Packet) : Nat := fld p.word2 0 8
def noticeCtx (p : Packet) : Nat := fld p.word2 8 6
def noticeEngine (p : Packet) : Nat := fld p.word2 14 4
def noticeEpoch (p : Packet) : BitVec 32 := p.word2.extractLsb' 18 32

/-- CTS: a newer one of the transfer takes the older one's place. -/
def CollRun.hearCts (r : CollRun) (q : Nat) (p : Packet) : CollRun :=
  let num := fld p.word3 0 16
  let same (k : Nat × Nat × BitVec 32 × Nat) : Bool := k.1 == q && k.2.1 == num
  if r.cts.any fun k => same k && !passed32 (noticeEpoch p) k.2.2.1 then r
  else { r with cts := (r.cts.filter fun k => !same k) ++ [(q, num, noticeEpoch p, fld p.word3 16 40)] }

/-- ACCEPT: the transfer is complete, unless it was sent again since at a newer epoch. -/
def CollRun.hearAccept (r : CollRun) (q : Nat) (p : Packet) : CollRun :=
  let num := fld p.word3 0 16
  let hit (x : Xfer) : Bool := x.dst == q && x.num == num && x.epoch.any fun ep => passed32 (noticeEpoch p) ep
  if r.xfers.any hit then
    { r with xfers := r.xfers.map fun x => if hit x then { x with done := true } else x, cts := r.cts.filter fun k => !(k.1 == q && k.2.1 == num) }
  else r

/-- REPEAT of a tree step, from the parent; a peer step's REPEAT changes nothing, its CTS does. -/
def CollRun.hearRepeat (r : CollRun) (q : Nat) (p : Packet) : CollRun :=
  let ep := noticeEpoch p
  if r.c.rank = 0 || q != rankParent r.c.rank || p.word3.toNat < r.step || (p.word3.toNat == r.step && r.phase != 0 && passed32 r.epoch ep) then r
  else { r with ahead := some (p.word3.toNat, ep) }

/-- The effect of a notice on the collective it names, from rank q. -/
def State.hear (s : State) (e : Nat) (r : CollRun) (q : Nat) (p : Packet) : State × CollRun :=
  match noticeKind p with
  | 0x40 => (s, r.hearCts q p)
  | 0x41 => (s, r.hearAccept q p)
  | 0x42 => (s, r.hearRepeat q p)
  | 0x43 =>
    if p.word3.toNat = r.step && stepTreeRrs r.word && !r.stepok && passed32 (noticeEpoch p) r.epoch then
      (s.noteKids e r 0x43 r.step, { r with stepok := true })
    else (s, r)
  | 0x44 => if r.c.rank = 0 then s.rootAbort e r (nth .collAbort allCauses (p.word3.toNat % 64)) else (s, r)
  | 0x45 =>
    if r.decided.isSome then (s, r)
    else if p.word3 = 1 then s.collCommit e r
    else
      let a := State.tellAbort (s.noteKids e r 0x45 2) e r
      (a.1, { a.2 with decided := some false, finish := some false })
  | 0x46 => (s, { r with reports := tput 0 r.reports q p.word3.toNat })
  | 0x47 =>
    if r.finish.isSome then (s, r)
    else s.allDone e { r with decided := some true, stale := if r.decided.isNone && r.aborted.isSome then satInc r.stale else r.stale }
  | _ => (s, r)

/-- A notice reaches its engine; one that names no running collective of the context is discarded. -/
def State.applyNotice (s : State) (p : Packet) : State :=
  let e := noticeEngine p
  match (s.coll e).run with
  | none => s
  | some r =>
    if r.c.ctx ≠ noticeCtx p then s
    else match firstBelow (fun i => r.c.rmap[i]? == some p.src) r.c.ranks 0 with
      | none => s
      | some q => let a := (s.recordPacket r.c.ctx p).hear e r q p; a.1.setRun e (some a.2)

/-- A notice of a kind at an input. -/
def State.noticeEvent (s : State) (port : Nat) (kind : Nat → Bool) (k : Packet → State → State) : Ans :=
  match s.headAt port (fun p => p.dst == s.chip && !p.bad && p.pop == 0x15 && kind (noticeKind p)) with
  | none => .next s
  | some (p, s1) =>
    if s.fences.getLsbD p.src || s.fences.getLsbD p.dst then .next s1
    else if s.mustWait (noticeCtx p) p then .next s
    else .next (k p s1)

/-- CTS (R164). -/
def execCtsNotice (port : Nat) (s : State) : Ans := s.noticeEvent port (· == 0x40) fun p s1 => s1.applyNotice p

/-- ACCEPT (R164). -/
def execAcceptNotice (port : Nat) (s : State) : Ans := s.noticeEvent port (· == 0x41) fun p s1 => s1.applyNotice p

/-- REPEAT (R177). -/
def execRepeatNotice (port : Nat) (s : State) : Ans := s.noticeEvent port (· == 0x42) fun p s1 => s1.applyNotice p

/-- STEPOK (R166). -/
def execStepokNotice (port : Nat) (s : State) : Ans := s.noticeEvent port (· == 0x43) fun p s1 => s1.applyNotice p

/-- ABORT (R178). -/
def execAbortNotice (port : Nat) (s : State) : Ans := s.noticeEvent port (· == 0x44) fun p s1 => s1.applyNotice p

/-- DECIDE (R178, R179). -/
def execDecideNotice (port : Nat) (s : State) : Ans := s.noticeEvent port (· == 0x45) fun p s1 => s1.applyNotice p

/-- REPORT (R178). -/
def execReportNotice (port : Nat) (s : State) : Ans := s.noticeEvent port (· == 0x46) fun p s1 => s1.applyNotice p

/-- ALLDONE (R166). -/
def execAlldoneNotice (port : Nat) (s : State) : Ans := s.noticeEvent port (· == 0x47) fun p s1 => s1.applyNotice p

end Sys2Proof.Machine
end

