-- ==== Sys2Proof/Machine/Codec.lean ====
section
/-! DEFINITION. The inner layout of the hamper sections and of an interval bank's second part (R267, R279), which the spec leaves open
(log entry 7): each value is written with what it takes to read it back. -/
namespace Sys2Proof.Machine
open Sys2Proof

/-- How a value is written as bytes, and read back from the front of some. -/
structure Codec (α : Type) where
  put : α → List Byte
  get : List Byte → Option (α × List Byte)

/-! ## Shapes -/

/-- A number: how many bytes it takes, and its bytes, the lowest first. -/
def Codec.nat : Codec Nat where
  put n := BitVec.ofNat 8 (n.log2 / 8 + 1) :: leBytes (n.log2 / 8 + 1) n
  get
    | [] => none
    | k :: bs => if bs.length < k.toNat then none else some (leNat (bs.take k.toNat), bs.drop k.toNat)

def Codec.iso {α β : Type} (c : Codec α) (of' : α → β) (as : β → α) : Codec β where
  put b := c.put (as b)
  get bs := (c.get bs).map fun r => (of' r.1, r.2)

def Codec.pair {α β : Type} (a : Codec α) (b : Codec β) : Codec (α × β) where
  put v := a.put v.1 ++ b.put v.2
  get bs := (a.get bs).bind fun r => (b.get r.2).map fun q => ((r.1, q.1), q.2)

/-- n values in a row. -/
def Codec.getN {α : Type} (c : Codec α) : Nat → List Byte → Option (List α × List Byte)
  | 0, bs => some ([], bs)
  | n + 1, bs => (c.get bs).bind fun r => (c.getN n r.2).map fun q => (r.1 :: q.1, q.2)

def Codec.list {α : Type} (c : Codec α) : Codec (List α) where
  put l := Codec.nat.put l.length ++ l.flatMap c.put
  get bs := (Codec.nat.get bs).bind fun r => c.getN r.1 r.2

def Codec.opt {α : Type} (c : Codec α) : Codec (Option α) := c.list.iso List.head? Option.toList

/-- Plain bytes, with their number. -/
def Codec.bytes : Codec (List Byte) where
  put l := Codec.nat.put l.length ++ l
  get bs := (Codec.nat.get bs).bind fun r => if r.2.length < r.1 then none else some (r.2.take r.1, r.2.drop r.1)

def Codec.bv (n : Nat) : Codec (BitVec n) := Codec.nat.iso (BitVec.ofNat n) BitVec.toNat
def Codec.word : Codec Word := .bv 64
def Codec.bool : Codec Bool := Codec.nat.iso (· == 1) Bool.toNat
def Codec.tab {α : Type} (c : Codec α) : Codec (Tab α) := (Codec.nat.pair c).list
def Codec.mem : Codec Mem := (Codec.nat.pair (.bv 8)).list
def Codec.cause : Codec Cause := Codec.nat.iso Cause.ofNat Cause.code

/-! ## The state's structures, field by field -/

def Codec.copy : Codec Copy :=
  ((Codec.bv 1024).pair <| Codec.nat.opt.pair <| Codec.nat.pair <| (Codec.bv 16).pair <| Codec.nat.opt.pair <| Codec.nat.opt.pair <|
    Codec.nat.pair <| Codec.nat.pair <| Codec.nat.list.pair <| Codec.nat.pair <| (Codec.bool.pair .word).opt.pair <| Codec.word.pair <|
    Codec.cause.opt.pair <| (Codec.nat.pair .nat).list.pair <| (Codec.nat.pair (.bv 64)).list.pair <| (Codec.bv 512).opt.pair <|
    (Codec.bv 512).opt.pair <| Codec.bool.pair <| (Codec.bv 32).pair <| Codec.bool.pair .nat).iso
    (fun (desc, tile, ctx, serial, sgf, dcv, entry, act, idx, piece, parked, fault, failed, board, lifted, srcT, dstT, full, win, stopping, after) =>
      { desc, tile, ctx, serial, sgf, dcv, entry, act, idx, piece, parked, fault, failed, board, lifted, srcT, dstT, beats := none, full, win,
        stopping, after })
    (fun c => (c.desc, c.tile, c.ctx, c.serial, c.sgf, c.dcv, c.entry, c.act, c.idx, c.piece, c.parked, c.fault, c.failed, c.board, c.lifted, c.srcT,
      c.dstT, c.full, c.win, c.stopping, c.after))

def Codec.parked : Codec Parked :=
  ((Codec.bv 16).pair <| Codec.word.list.pair <| Codec.nat.tab.pair <| Codec.cause.tab.pair (Codec.nat.pair .copy).list).iso
    (fun (serial, locks, bars, copyFail, copies) => { serial, locks, bars, copyFail, copies })
    (fun p => (p.serial, p.locks, p.bars, p.copyFail, p.copies))

def Codec.qtask : Codec QTask :=
  ((Codec.bv 1024).pair <| Codec.nat.pair <| (Codec.bv 14).pair <| Codec.bool.pair .parked).iso
    (fun (desc, ctx, rect, saved, parked) => { desc, ctx, rect, saved, parked }) (fun q => (q.desc, q.ctx, q.rect, q.saved, q.parked))

def Codec.taskQueue : Codec TaskQueue :=
  ((Codec.bv 8).pair <| Codec.nat.pair Codec.qtask.list).iso (fun (tickets, starve, tasks) => { tickets, starve, tasks })
    (fun q => (q.tickets, q.starve, q.tasks))

def Codec.task : Codec Task :=
  (Codec.qtask.pair <| Codec.nat.pair <| (Codec.bv 16).pair <| (Codec.bv 32).pair <| Codec.bool.pair <| Codec.word.list.pair Codec.cause.opt).iso
    (fun (t, q, serial, firstWin, etrig, locks, fatal) => { t, q, serial, firstWin, etrig, locks, fatal })
    (fun k => (k.t, k.q, k.serial, k.firstWin, k.etrig, k.locks, k.fatal))

def Codec.tileQueues : Codec TileQueues :=
  (Codec.taskQueue.tab.pair <| (Codec.nat.pair (Codec.qtask.pair (.bv 128))).opt.pair <| (Codec.bv 128).list.pair <| (Codec.bv 32).pair <|
    (Codec.bv 16).pair Codec.task.list).iso
    (fun (tq, rerun, late, lotx, serial, left) => { tq, rerun, late, lotx, serial, left })
    (fun x => (x.tq, x.rerun, x.late, x.lotx, x.serial, x.left))

def Codec.arrival : Codec Arrival :=
  (Codec.word.pair <| Codec.nat.pair <| Codec.bool.pair <| Codec.nat.pair <| Codec.word.pair <| Codec.nat.pair <| Codec.bytes.pair <|
    Codec.nat.pair <| Codec.nat.opt.pair <| Codec.nat.pair <| (Codec.nat.pair .bytes).list.pair <| Codec.nat.opt.pair .nat).iso
    (fun (mb, skind, aop, src, hdata, len, data, ctx, pdc, left, more, recAt, born) =>
      { mb, skind, aop, src, hdata, len, data, ctx, pdc, left, more, recAt, born })
    (fun a => (a.mb, a.skind, a.aop, a.src, a.hdata, a.len, a.data, a.ctx, a.pdc, a.left, a.more, a.recAt, a.born))

def Codec.uxRec : Codec UxRec :=
  (Codec.arrival.pair <| Codec.nat.list.pair .word).iso (fun (a, grans, aseq) => { a, grans, aseq }) (fun u => (u.a, u.grans, u.aseq))

def Codec.firing : Codec Firing :=
  (Codec.nat.pair <| Codec.nat.pair <| Codec.nat.pair <| (Codec.bv 256).list.pair <| Codec.nat.pair <| Codec.word.opt.pair <|
    Codec.arrival.opt.pair <| Codec.word.pair .word).iso
    (fun (id, entry, ctx, acts, next, token, arr, value, ccc) => { id, entry, ctx, acts, next, token, arr, value, ccc })
    (fun f => (f.id, f.entry, f.ctx, f.acts, f.next, f.token, f.arr, f.value, f.ccc))

def Codec.wake : Codec Wake :=
  (Codec.word.pair <| Codec.nat.pair <| Codec.word.tab.pair Codec.arrival.opt).iso (fun (pc, ctx, regs, arr) => { pc, ctx, regs, arr })
    (fun k => (k.pc, k.ctx, k.regs, k.arr))

/-- A stopped thread: what its frame holds of it is in its frame. -/
def Codec.thread : Codec Thread :=
  (Codec.word.tab.pair <| Codec.nat.list.pair <| Codec.word.pair <| Codec.nat.pair <| Codec.nat.pair <| Codec.bool.pair <| (Codec.bv 16).pair <|
    Codec.word.pair Codec.arrival.opt).iso
    (fun (regs, empty, pc, work, ctx, running, serial, start, arr) =>
      { sc := { regs, empty, pend := [], ops := [] }
        st := { Stream.idle with pc, work, stop := some { cause := .preempt, info := 0, insn := 0, ccc := 0, framed := true } }
        ctx, running, serial, start, arr })
    (fun x => (x.sc.regs, x.sc.empty, x.st.pc, x.st.work, x.ctx, x.running, x.serial, x.start, x.arr))

def Codec.push : Codec Push :=
  (Codec.nat.pair <| Codec.nat.pair <| Codec.nat.pair <| Codec.nat.pair <| Codec.bool.pair Codec.word.opt).iso
    (fun (itin, node, tile, q, last, seq) => { itin, node, tile, q, last, seq }) (fun p => (p.itin, p.node, p.tile, p.q, p.last, p.seq))

def Codec.coll : Codec Coll :=
  ((Codec.bv 512).pair <| Codec.word.pair <| Codec.nat.pair <| Codec.nat.list.pair <| (Codec.bv 64).list.pair <|
    Codec.word.tab.pair Codec.nat.opt).iso
    (fun (desc, descVa, ctx, rmap, prog, base, tile) => { desc, descVa, ctx, rmap, prog, base, tile })
    (fun c => (c.desc, c.descVa, c.ctx, c.rmap, c.prog, c.base, c.tile))

def Codec.inbound : Codec Inbound :=
  (Codec.nat.pair <| Codec.nat.pair <| (Codec.bv 32).pair <| Codec.nat.pair <| Codec.word.opt.pair Codec.bytes.opt).iso
    (fun (src, num, epoch, off, landed, data) => { src, num, epoch, off, landed, data })
    (fun b => (b.src, b.num, b.epoch, b.off, b.landed, b.data))

def Codec.xfer : Codec Xfer :=
  (Codec.nat.pair <| Codec.nat.pair <| Codec.bytes.pair <| (Codec.bv 32).opt.pair .bool).iso
    (fun (dst, num, data, epoch, done) => { dst, num, data, epoch, done }) (fun x => (x.dst, x.num, x.data, x.epoch, x.done))

/-- The first half of a run: its program and its step. -/
def Codec.runHead : Codec (Coll × Nat × List (Nat × Nat × Nat × Nat) × Nat × Nat × BitVec 32 × Option (Nat × BitVec 32) × Nat × Word × Bool × Nat ×
    BitVec 16 × BitVec 16 × Bool × Bool) :=
  Codec.coll.pair <| Codec.nat.pair <| (Codec.nat.pair <| Codec.nat.pair <| Codec.nat.pair .nat).list.pair <| Codec.nat.pair <| Codec.nat.pair <|
    (Codec.bv 32).pair <| (Codec.nat.pair (.bv 32)).opt.pair <| Codec.nat.pair <| Codec.word.pair <| Codec.bool.pair <| Codec.nat.pair <|
    (Codec.bv 16).pair <| (Codec.bv 16).pair <| Codec.bool.pair .bool

/-- Its transfers. -/
def Codec.runXfers : Codec (List Inbound × List (Nat × Nat) × Tab Nat × Tab Nat × List (Nat × Nat × BitVec 32 × Nat) × List Xfer × List Byte × Nat ×
    Tab (List Byte)) :=
  Codec.inbound.list.pair <| (Codec.nat.pair .nat).list.pair <| Codec.nat.tab.pair <| Codec.nat.tab.pair <|
    (Codec.nat.pair <| Codec.nat.pair <| (Codec.bv 32).pair .nat).list.pair <| Codec.xfer.list.pair <| Codec.bytes.pair <| Codec.nat.pair
    Codec.bytes.tab

/-- Its end. -/
def Codec.runEnd : Codec (Bool × Tab Nat × Bool × Nat × Option Bool × Bool × Option Cause × Bool × Option Bool × BitVec 3) :=
  Codec.bool.pair <| Codec.nat.tab.pair <| Codec.bool.pair <| Codec.nat.pair <| Codec.bool.opt.pair <| Codec.bool.pair <| Codec.cause.opt.pair <|
    Codec.bool.pair <| Codec.bool.opt.pair (.bv 3)

def Codec.collRun : Codec CollRun :=
  (Codec.runHead.pair <| Codec.runXfers.pair .runEnd).iso
    (fun ((c, pc, loops, step, tree, epoch, ahead, phase, start, hz, rpt, repeats, stale, nan, inf),
          (inbound, owed, recvNum, sendNum, cts, xfers, part, redSent, redGot),
          (stepok, reports, ended, reported, decided, published, aborted, told, finish, signalled)) =>
      { c, pc, loops, step, tree, epoch, ahead, phase, start, hz, rpt, repeats, stale, nan, inf, inbound, owed, recvNum, sendNum, cts, xfers, part,
        redSent, redGot, stepok, reports, ended, reported, decided, published, aborted, told, finish, signalled })
    (fun r =>
      ((r.c, r.pc, r.loops, r.step, r.tree, r.epoch, r.ahead, r.phase, r.start, r.hz, r.rpt, r.repeats, r.stale, r.nan, r.inf),
       (r.inbound, r.owed, r.recvNum, r.sendNum, r.cts, r.xfers, r.part, r.redSent, r.redGot),
       (r.stepok, r.reports, r.ended, r.reported, r.decided, r.published, r.aborted, r.told, r.finish, r.signalled)))

/-- An engine at the cut: its outbox is empty (R260). -/
def Codec.collEng : Codec CollEng :=
  (Codec.coll.list.pair <| Codec.collRun.opt.pair .bool).iso
    (fun (queue, run, parked) => { queue, run, parked, outbox := [], used := 0 }) (fun e => (e.queue, e.run, e.parked))

def Codec.undoRec : Codec UndoRec :=
  (Codec.nat.pair <| Codec.nat.pair <| Codec.bool.pair <| Codec.nat.pair <| Codec.nat.pair <| (Codec.bv 32).pair <| Codec.word.pair <|
    Codec.word.list.pair .bool).iso
    (fun (rtype, akind, atom, tile, src, win, addr, old, inBuf) => { rtype, akind, atom, tile, src, win, addr, old, inBuf })
    (fun r => (r.rtype, r.akind, r.atom, r.tile, r.src, r.win, r.addr, r.old, r.inBuf))

/-! ## The sections (R267) -/

/-- FERRY: registers, SRAM, entries, unexpected records, held firings, threads and their frames, wakes, copies. -/
def Codec.ferry : Codec (Tab Word × Mem × Tab (BitVec 512) × List UxRec × List Firing × Tab Thread × Mem × Tab (List Wake) × Tab (List Copy)) :=
  Codec.word.tab.pair <| Codec.mem.pair <| (Codec.bv 512).tab.pair <| Codec.uxRec.list.pair <| Codec.firing.list.pair <| Codec.thread.tab.pair <|
    Codec.mem.pair <| Codec.wake.list.tab.pair Codec.copy.list.tab

/-- SCHED: directory and pending bits, notices, pushes, and what the runs have counted. -/
def Codec.sched : Codec (Tab Word × List (BitVec 128 × Option Nat) × List Push × List (Nat × Nat × Nat) × List (Nat × Nat × Nat) × List Nat) :=
  Codec.word.tab.pair <| ((Codec.bv 128).pair Codec.nat.opt).list.pair <| Codec.push.list.pair <|
    (Codec.nat.pair <| Codec.nat.pair .nat).list.pair <| (Codec.nat.pair <| Codec.nat.pair .nat).list.pair Codec.nat.list

/-- XLAT: windows and destination slots, tensor descriptors. -/
def Codec.xlat : Codec (Tab Word × Tab (BitVec 512)) := Codec.word.tab.pair (Codec.bv 512).tab

/-- CONS: bindings, and per path the PSEQs and LHW marks. -/
def Codec.cons : Codec (List (BitVec 256) × Tab (BitVec 32) × Tab (BitVec 32) × Tab (BitVec 32)) :=
  (Codec.bv 256).list.pair <| (Codec.bv 32).tab.pair <| (Codec.bv 32).tab.pair (Codec.bv 32).tab

/-- CONTEXT: registers of its page, tiles, engines, slot-table entries, task queues. -/
def Codec.context : Codec (Tab Word × List Nat × List Nat × Tab Word × Tab TileQueues) :=
  Codec.word.tab.pair <| Codec.nat.list.pair <| Codec.nat.list.pair <| Codec.word.tab.pair Codec.tileQueues.tab

/-- MEM: pages as (VA, flags, 64 KiB), chunks as (tensor id, table, chunk, flags, 64 KiB). -/
def Codec.memory : Codec (List (Nat × Nat × List Byte) × List (Nat × Bool × Nat × Nat × List Byte)) :=
  (Codec.nat.pair <| Codec.nat.pair .bytes).list.pair (Codec.nat.pair <| Codec.bool.pair <| Codec.nat.pair <| Codec.nat.pair .bytes).list

/-- UNDO: the ring's records and the open windows. -/
def Codec.undo : Codec (List UndoRec × Tab Nat) := Codec.undoRec.list.pair Codec.nat.tab

/-- Read a whole value. -/
def Codec.read {α : Type} (c : Codec α) (bs : List Byte) : Option α := (c.get bs).map (·.1)

end Sys2Proof.Machine
end

