-- ==== Sys2Proof/Machine/Image.lean ====
section
/-! DEFINITION. A context's state on the chip as interval images (R279) and hampers (R267) carry it: taking it, and putting it back. -/
namespace Sys2Proof.Machine
open Sys2Proof

/-! ## Register places of a context (R267) -/

/-- Counters, and their CNTCTL; windows, with RXDC and destination slots; UETJOB; directory entries. -/
def State.ctxPlaces (s : State) (c : Nat) : List Nat :=
  let mine (off : Nat) : Bool := bit (s.reg off) 0 && s.regF off 1 6 == c
  ((s.countersOf c).flatMap fun n => [offCntCtl n, offCnt n]) ++
    (((List.range 4096).filter fun n => mine (offTxw n)).flatMap fun n =>
      [offTxw n, offTxw n + 8] ++ (List.range 16).map fun j => offTxDst (16 * n + j)) ++
    (((List.range 4096).filter fun n => mine (offRxw n)).flatMap fun n => [offRxw n, offRxw n + 8, offRxdc n]) ++
    (((List.range 64).filter fun n => bit (s.reg (offUetJob n)) 30 && s.regF (offUetJob n) 24 6 == c).map offUetJob) ++
    ((List.range 256).filter fun n => mine (offItin n)).flatMap fun n => (List.range 4).map fun j => offItin n + 8 * j

/-- Itineraries of a context. -/
def State.itinsOf (s : State) (c : Nat) : List Nat := (List.range 256).filter fun n => iValid (s.itin n) && iCtx (s.itin n) == c

/-- The pending bits of a context's itineraries, in one of the four words. -/
def State.pkbMask (s : State) (c j : Nat) : Word :=
  BitVec.ofNat 64 (((s.itinsOf c).filter fun n => n / 64 == j).map fun n => 2 ^ (n % 64)).sum

/-- A context's region of Ferry SRAM, and its length (R422). -/
def State.regionOf (s : State) (c : Nat) : Nat × Nat :=
  let v := s.reg (offCsram c)
  if bit v 0 then (fld v 1 14 * 4096, fld v 15 15 * 4096) else (0, 0)

/-- Collective engines assigned to a context (R458). -/
def State.enginesOf (s : State) (c : Nat) : List Nat := (List.range 16).filter (s.ownsEngine c)

def noticeOf (c : Nat) (n : BitVec 128 × Option Nat) : Bool := fld n.1 52 6 == c
def bindingOf (c : Nat) (b : BitVec 256) : Bool := bit b 0 && fld b 1 6 == c

/-- Where the thread frames of a context lie, and their length (R258). -/
def State.threadFrames (s : State) (c : Nat) : Nat := (s.cx c cSAVEVA).toNat + 0x2C010000
def threadFramesLen : Nat := 0x200000

/-- Threads that run in a context and wait for no muster or precise stop of it. -/
def State.threadsOf (s : State) (c : Nat) : Tab Thread :=
  s.threads.filter fun e => e.2.running && e.2.ctx == c && !e.2.sc.ops.any fun o => o.what == .mustering c || o.what == .preciseStop c

/-! ## Taking it -/

def State.tileQueues (s : State) (t : Nat) : TileQueues :=
  let x := s.tile t
  { tq := x.tq, rerun := x.rerun, late := x.late, lotx := x.lotx, serial := x.serial, left := x.left }

/-- The state that the sections FERRY, SCHED, XLAT, CONS and COLL carry, and the task queues. -/
def State.ctxImage (s : State) (c : Nat) : CtxImage :=
  let r := s.regionOf c
  let its := s.itinsOf c
  { regs := (s.ctxPlaces c).foldl (fun t o => tput 0 t o (s.reg o))
      ((List.range 4).foldl (fun t j => tput 0 t (offPkb j) (s.reg (offPkb j) &&& s.pkbMask c j)) [])
    sram := getSpan s.sram r.1 r.2 0
    entries := s.entries.filter fun e => eValid e.2 && eCtx e.2 == c
    ux := s.ux.filter fun u => u.a.ctx == c
    firings := (s.muster c).firings
    threads := s.threadsOf c
    frames := s.spanRead c 64 (s.threadFrames c) 0 threadFramesLen
    notices := s.sched.fifo.filter (noticeOf c)
    pushes := s.sched.pushes.filter fun p => its.contains p.itin
    started := s.sched.started.filter fun p => its.contains p.1
    early := s.sched.early.filter fun p => its.contains p.1
    failing := s.sched.failing.filter its.contains
    tensors := s.tensors.filter fun e => e.1 / 256 == c
    bindings := (s.bindings.filter fun e => bindingOf c e.2).map (·.2)
    pseqOut := s.pseqOut, pseqIn := s.pseqIn, lhw := s.lhw
    colls := s.colls.filter fun e => (s.enginesOf c).contains e.1
    queues := (s.tilesOf c).map fun t => (t, s.tileQueues t)
    wakes := (s.wakes.map fun e => (e.1, e.2.filter fun k => k.ctx == c)).filter fun e => !e.2.isEmpty
    copies := (s.copies.map fun e => (e.1, e.2.filter fun k => k.ctx == c)).filter fun e => !e.2.isEmpty }

/-! ## Its bytes (R267) -/

/-- A register of the SCHED section, and one of the XLAT section; the others of a context's places are FERRY's. -/
def inSched (off : Nat) : Bool := decide (0x500000 ≤ off) && decide (off < 0x503000)
def inXlat (off : Nat) : Bool := (decide (0x210000 ≤ off) && decide (off < 0x230000)) || (decide (0x300000 ≤ off) && decide (off < 0x380000))

def CtxImage.ferryPart (m : CtxImage) : List Byte :=
  Codec.ferry.put (m.regs.filter (fun e => !inSched e.1 && !inXlat e.1), m.sram, m.entries, m.ux, m.firings, m.threads, m.frames, m.wakes, m.copies)

def CtxImage.schedPart (m : CtxImage) : List Byte :=
  Codec.sched.put (m.regs.filter (fun e => inSched e.1), m.notices, m.pushes, m.started, m.early, m.failing)

def CtxImage.xlatPart (m : CtxImage) : List Byte := Codec.xlat.put (m.regs.filter (fun e => inXlat e.1), m.tensors)

def CtxImage.consPart (m : CtxImage) : List Byte := Codec.cons.put (m.bindings, m.pseqOut, m.pseqIn, m.lhw)

/-- The state that the sections' bytes hold. -/
def ctxImageOf (ferry sched xlat cons : List Byte) (colls : Tab CollEng) (queues : Tab TileQueues) : Option CtxImage :=
  (Codec.ferry.read ferry).bind fun (r1, sram, entries, ux, firings, threads, frames, wakes, copies) =>
  (Codec.sched.read sched).bind fun (r2, notices, pushes, started, early, failing) =>
  (Codec.xlat.read xlat).bind fun (r3, tensors) => (Codec.cons.read cons).map fun (bindings, pseqOut, pseqIn, lhw) =>
    { regs := (r2 ++ r3).foldl (fun t e => tput 0 t e.1 e.2) r1, sram, entries, ux, firings, threads, frames, notices, pushes, started, early, failing,
      tensors, bindings, pseqOut, pseqIn, lhw, colls, queues, wakes, copies }

/-- The second part of an interval bank: FERRY, SCHED, XLAT, CONS, COLL and the task queues, each with its length (R279). -/
def Codec.bank : Codec (List Byte × List Byte × List Byte × List Byte × Tab CollEng × Tab TileQueues) :=
  Codec.bytes.pair <| Codec.bytes.pair <| Codec.bytes.pair <| Codec.bytes.pair <| Codec.collEng.tab.pair Codec.tileQueues.tab

def CtxImage.bankPart (m : CtxImage) : List Byte := Codec.bank.put (m.ferryPart, m.schedPart, m.xlatPart, m.consPart, m.colls, m.queues)

def bankImage (bs : List Byte) : Option CtxImage :=
  (Codec.bank.read bs).bind fun (f, d, x, k, e, q) => ctxImageOf f d x k e q

/-! ## Putting it back -/

/-- A thread of an image goes to its own number, or to the lowest idle one when another context's run has that; its frame with it. -/
def State.putThread (s : State) (c : Nat) (m : Mem) (n : Nat) (x : Thread) : State :=
  let place := if (s.thr n).running then firstBelow (fun k => !(s.thr k).running) 1024 0 else some n
  match place with
  | none => s
  | some k => (s.setThr k x).spanWrite c (getSpan m (0x800 * n) 0x800 0) 2 (s.threadFrames c + 0x800 * k) 0 0x800

/-- A binding enters the lowest free place. -/
def State.putBinding (s : State) (b : BitVec 256) : State :=
  match firstBelow (fun i => !bit (tget 0 s.bindings i) 0) 8192 0 with
  | some i => { s with bindings := tput 0 s.bindings i b }
  | none => s

/-- Merge rising tables of disjoint keys. -/
def tmerge {α : Type} [DecidableEq α] (d : α) (a b : Tab α) : Tab α := b.foldl (fun t e => tput d t e.1 e.2) a

/-- Replace a context's state on the chip, the tiles and the undo log apart, by an image of it. -/
def State.putCtxImage (s : State) (c : Nat) (m : CtxImage) : State :=
  let its := s.itinsOf c
  let r := s.regionOf c
  let s0 := (s.ctxPlaces c).foldl (fun s o => s.setReg o (regReset o)) s
  let s1 := (List.range 4).foldl (fun t j => t.setReg (offPkb j) ((s.reg (offPkb j) &&& ~~~ (s.pkbMask c j)) ||| tget 0 m.regs (offPkb j))) s0
  let s2 := (m.regs.filter fun e => !(offPkb 0 ≤ e.1 && e.1 ≤ offPkb 3)).foldl (fun s e => s.setReg e.1 e.2) s1
  let s3 : State := { s2 with
    sram := putSpan s2.sram r.1 r.2 m.sram 0
    entries := tmerge 0 (s2.entries.filter fun e => !(eValid e.2 && eCtx e.2 == c)) m.entries
    disarmed := s2.disarmed.filter fun i => eCtx (s2.entry i) != c
    deposits := s2.deposits.filter fun d => eCtx (s2.entry d.entry) != c
    tensors := tmerge 0 (s2.tensors.filter fun e => e.1 / 256 != c) m.tensors
    bindings := s2.bindings.filter fun e => !bindingOf c e.2
    pseqOut := m.pseqOut, pseqIn := m.pseqIn, lhw := m.lhw
    colls := m.colls.foldl (fun t e => tput CollEng.idle t e.1 e.2) (s2.colls.filter fun e => !(s2.enginesOf c).contains e.1)
    wakes := m.wakes.foldl (fun t e => tmod [] t e.1 (· ++ e.2))
      ((s2.wakes.map fun e => (e.1, e.2.filter fun k => k.ctx != c)).filter fun e => !e.2.isEmpty)
    actions := s2.actions.filter fun f => f.ctx != c
    copies := m.copies.foldl (fun t e => tmod [] t e.1 (· ++ e.2))
      ((s2.copies.map fun e => (e.1, e.2.filter fun k => k.ctx != c)).filter fun e => !e.2.isEmpty)
    sched := { s2.sched with
      fifo := s2.sched.fifo.filter (fun n => !noticeOf c n) ++ m.notices
      pushes := s2.sched.pushes.filter (fun p => !its.contains p.itin) ++ m.pushes
      started := s2.sched.started.filter (fun p => !its.contains p.1) ++ m.started
      early := s2.sched.early.filter (fun p => !its.contains p.1) ++ m.early
      failing := s2.sched.failing.filter (fun i => !its.contains i) ++ m.failing } }
  let s4 := (s3.setUx (s3.ux.filter (fun u => u.a.ctx != c) ++ m.ux)).modMuster c fun k => { k with firings := m.firings }
  let s5 := m.bindings.foldl State.putBinding s4
  let s6 := (s5.threadsOf c).foldl (fun s e => s.setThr e.1 { Thread.idle with serial := e.2.serial }) s5
  m.threads.foldl (fun s e => s.putThread c m.frames e.1 e.2) s6

/-! ## The image of a tile (R279) -/

/-- An interval bank. -/
def State.bankVa (s : State) (c iv : Nat) : Nat := (s.cx c cIVBASE).toNat + iv % 2 * 0xDE00000

/-- The part of a tile's slot that an interval image holds: its two ranges and their places in the image. -/
def tileParts : List (Nat × Nat × Nat) := [(0x200000, 0x98000, 0), (0x2A8000, 0x6000, 0x98000)]

/-- A tile's slot: as saved, or as the tile stands. -/
def State.tileSlot (s : State) (t : Nat) : Mem :=
  match s.savedCtx t with
  | some c => s.spanRead c 64 (s.slotVa c t) 0 slotLen
  | none => s.slotBytes t

/-- Write a tile's interval image. -/
def State.saveTile (s : State) (c iv t : Nat) : State :=
  tileParts.foldl (fun z p => z.spanWrite c (s.tileSlot t) 16 (s.bankVa c iv + 0x9E000 * t + p.2.2) p.1 p.2.1) s

/-- Read a tile's interval image. -/
def State.tileImage (s : State) (c iv t : Nat) : Mem :=
  tileParts.flatMap fun p => s.spanRead c 16 (s.bankVa c iv + 0x9E000 * t + p.2.2) p.1 p.2.1

/-- Every stream's work count and signature is zero. -/
def Tile.zeroWork (x : Tile) : Tile :=
  { (List.range 4).foldl (fun x k => x.setStream k { x.stream k with work := 0, sig := 0 }) x with workPrev := 0 }

/-- Load a tile's image with its queues: its scratchpad, which the undo log restores, stays as it is. -/
def State.loadTile (s : State) (c t : Nat) (m : Mem) (q : TileQueues) : State :=
  let spad := match s.savedCtx t with
    | some d => s.spanRead d 64 (s.slotVa d t) 0 0x200000
    | none => (s.tile t).spad
  let s1 := s.modTile t fun x => { x.vacate.zeroWork with tq := q.tq, rerun := q.rerun, late := q.late, lotx := q.lotx, serial := q.serial, left := q.left }
  match s1.savedCtx t with
  | some _ =>
    let s2 := tileParts.foldl (fun z p => z.spanWrite c m 16 (s.slotVa c t + p.1) p.1 p.2.1) s1
    s2.spanWrite c spad 64 (s.slotVa c t) 0 0x200000
  | none =>
    s1.modTile t fun x => { (x.ofSlot (spad ++ m)) with task := none, rerun := q.rerun }

end Sys2Proof.Machine
end

