-- ==== Sys2Proof/Machine/Muster.lean ====
section
/-! DEFINITION. Interval starts (R279) and ends (R283), MUSTER (R260-R263), its release (R264), and what a precise stop or a replay
does at MUSTERED (R285, R286). -/
namespace Sys2Proof.Machine
open Sys2Proof

/-! ## Interval ends and starts -/

/-- Number of the current interval. -/
def State.interval (s : State) (c : Nat) : Nat := s.cxF c cIVNUM 0 32

/-- The signatures of a tile's streams, as SIG entries hold them. -/
def Tile.sigs (x : Tile) : List Byte := (List.range 4).flatMap fun k => leBytes 8 (x.stream k).sig.toNat

/-- Close the current interval's recording: SIG entries by ascending tile, and END (R283). -/
def State.closeRecording (s : State) (c : Nat) : State :=
  if !s.recording c || (CtxLog.of s c).closed then s
  else
    let tiles := s.tilesOf c
    let s1 := tiles.foldl (fun s t => s.replayPut c (s.replayEntryBytes c 7 t (s.tile t).sigs)) s
    let s2 := s1.replayPut c (s1.replayEntryBytes c 15 (if tget false (CtxLog.of s c).ivComplete (s.interval c) then 0 else 1) [])
    let works := tiles.map fun t => (s.interval c, t, (List.range 4).map fun k => ((s.tile t).stream k).work)
    s2.modLog c fun l =>
      { l with closed := true, stopWork := l.stopWork ++ works ++ [(s.interval c, 256, [((s.muster c).begun - l.ivCcc).toNat])] }

/-- Work counts and signatures start at zero, in the frames and slots of stopped streams too (R282, R286). -/
def State.zeroWorks (s : State) (c : Nat) : State :=
  let zero (s : State) (va n : Nat) : State := s.physWrite c (BitVec.ofNat 64 va) (List.replicate n 0)
  let s1 := (s.tilesOf c).foldl (fun s t =>
    let s1 := s.modTile t Tile.zeroWork
    if s.savedCtx t = some c then
      (List.range 4).foldl (fun s k => zero s (s.frameVa c (.stream t k) + 32) 8) (zero s1 (s1.slotVa c t + slotRegs + 0x4C0 + 72) 32)
    else s1) s
  (s.threadsOf c).foldl (fun s e =>
    zero (s.modThr e.1 fun x => { x with st := { x.st with work := 0 } }) (s.threadFrames c + 0x800 * e.1 + 32) 8) s1

/-- Open a window on a tile whose records' room is not yet taken, with its WIN record (R275, R276, R292). -/
def State.newWindow (s : State) (t c reason : Nat) : Res State :=
  match s.reserveLen 0 t c 16 0 with
  | .ok s1 =>
    let s2 := (s1.unreserve 0 t c 0).openWindow t c reason (s.tile t).work
    .ok (s2.trace t 3 3 ((s2.tile t).win.toNat + reason * 2 ^ 32))
  | _ => .stall .undoLog s

/-- Open an interval window on every tile of a context. -/
def State.intervalWindows (s : State) (c iv : Nat) : Res State :=
  (s.tilesOf c).foldl (fun r t => r.bind fun s => (s.newWindow t c 2).bind fun s1 =>
    .ok (s1.modLog c fun l => { l with ivWins := l.ivWins ++ [(iv, t, (s1.tile t).win)] })) (.ok s)

/-- An interval is the given one or the one before it. -/
def lastTwo (iv i : Nat) : Bool := i == iv || (i + 1) % 2 ^ 32 == iv

/-- A checkpoint interval starts (R279): the ring's place, the windows, the SEED entries and the images. -/
def State.startInterval (s : State) (c : Nat) : Res State :=
  let s0 := s.closeRecording c
  let iv := (s0.interval c + 1) % 2 ^ 32
  let s1 := (s0.setCx c cIVNUM (BitVec.ofNat 64 iv)).setCx c cREPLAY (s0.cx c cREPLAY &&& 7)
  let s2 := (s1.modLog c fun l =>
    { l with
      closed := false, rused := l.rcur, rcur := 0, ivCccOld := l.ivCcc, ivCcc := s.ccc
      ivWins := l.ivWins.filter fun e => lastTwo iv e.1
      stopWork := l.stopWork.filter fun e => lastTwo iv e.1
      rstepWork := l.rstepWork.filter fun e => lastTwo iv (e.1 / 256)
      ivComplete := tput false (l.ivComplete.filter fun e => lastTwo iv e.1) iv (s1.recording c) }).zeroWorks c
  (s2.intervalWindows c iv).bind fun s3 =>
    let s4 := (s3.tilesOf c).foldl (fun s t => s.recordInput c 4 (t + (s.tile t).lotx.toNat * 2 ^ 64) []) s3
    let s5 := (s4.tilesOf c).foldl (fun s t => s.saveTile c iv t) s4
    .ok (s5.physWrite c (BitVec.ofNat 64 (s5.bankVa c iv + 0x9E00000)) ((s5.ctxImage c).bankPart.take 0x4000000))

/-! ## Running again (R263, R264) -/

/-- The step of a run has made a transfer: data sent or delivered, or blocks given to the router (R263). -/
def CollRun.transferred (r : CollRun) : Bool :=
  stepIsData r.word && r.phase != 0 && !r.ended && r.aborted.isNone &&
    (r.xfers.any (fun x => x.epoch.isSome) || r.redSent != 0 || 2 ≤ r.phase ||
      (r.c.sources r.word).any fun k => r.inbound.any fun b => b.src == k && b.num == tget 0 r.recvNum k && (b.data.isSome || b.landed.isSome))

/-- An engine goes on: a step that it abandoned is repeated at the next epoch, and not counted against MAXRPT (R263). Data that were accepted
are staged no more: a step that has taken its input keeps it, and its transfers go out again with their receivers' next CTS (log entry 123). -/
def State.unparkEngine (s : State) (e : Nat) : State :=
  let g := s.coll e
  let s0 := s.setColl e { g with parked := false }
  match g.run with
  | none => s0
  | some r =>
    let late := { r with start := s.ccc }
    let again := { late with epoch := r.epoch + 1, repeats := satInc r.repeats }
    let a : State × CollRun :=
      if !r.transferred then (s0, late)
      else if stepTreeRrs r.word then
        (if r.phase ≤ (if r.c.rank = 0 then 4 else 2) || (r.phase = 3 && r.xfers.any fun x => !x.done) then s0.restartTree e late (r.epoch + 1)
         else if r.awaitsDown then s0.repeatDown e late (rankParent r.c.rank)
         else if r.phase = 3 then (s0, late)
         else (s0, again))
      else match (r.c.sources r.word).filter (fun k => r.phase = 1 && (r.taken k).isNone) with
        | src :: _ => s0.repeatPeer e late src
        | [] => (s0, again)
    a.1.setRun e (some a.2)

/-- A context is in RUN again: held firings are issued in their order, ARM is set, and what was stopped goes on. -/
def State.goOn (s : State) (c : Nat) : State :=
  let m := s.muster c
  let s1 := (s.setMstate c 0).setRegF offMatchCtl 1 1 1
  let s2 : State := { s1 with
    actions := s1.actions ++ m.firings
    copies := s1.copies.map fun e => (e.1, e.2.map fun k => if k.ctx = c then { k with stopping := false } else k) }
  let s3 := s2.modMuster c fun _ => { Muster.idle with notices := m.notices.filter fun e => e.2 != m.id }
  let s4 := (s3.threads.filter fun e => e.2.running && e.2.ctx == c && e.2.st.stop.any fun p => p.framed && p.cause == .preempt).foldl
    (fun s e => s.resumeFrame (.thread e.1)) s3
  let s5 := (s.enginesOf c).foldl State.unparkEngine s4
  s5.modLog c fun l => { l with playStart := l.playStart + (s.ccc - m.ccc) }

/-- The release of a MUSTERED context (R264): it starts an interval, unless it goes on with a replay (R279). -/
def State.release (s : State) (c : Nat) : Res State :=
  (if s.playing c then .ok s else s.startInterval c).bind fun s1 => .ok (s1.goOn c)

/-! ## Going back to an interval's start (R285 steps 2 and 3) -/

/-- The window that an interval opened on a tile. -/
def State.intervalWin (s : State) (c iv t : Nat) : Option (BitVec 32) :=
  ((CtxLog.of s c).ivWins.find? fun e => e.1 == iv && e.2.1 == t).map (·.2.2)

/-- The records of an interval: those at or above its windows, the WOPEN of its own window apart (R281, R457). -/
def State.ofInterval (s : State) (c iv : Nat) (r : UndoRec) : Bool :=
  match if r.src < 5 then s.intervalWin c iv r.tile else ((CtxLog.of s c).ivWins.find? fun e => e.1 == iv).map (·.2.2) with
  | some w => passed32 r.win w && !(r.win == w && r.rtype == 3)
  | none => false

/-- Go back to an interval's start: the records are applied, the images loaded, and the replay is at its first input; the horizons
passed. -/
def State.loadInterval (s : State) (c iv : Nat) : Nat × State :=
  let r := s.rollbackAll c (s.ofInterval c iv)
  let m := (bankImage (r.2.physRead c (BitVec.ofNat 64 (s.bankVa c iv + 0x9E00000)) 0x4000000)).getD default
  let s1 := (s.tilesOf c).foldl (fun z t => z.loadTile c t (s.tileImage c iv t) (tget default m.queues t)) r.2
  let s2 := s1.putCtxImage c m
  let s3 := (s.tilesOf c).foldl (fun z t => match s.intervalWin c iv t with
    | some w => (z.modTile t fun x => { x with win := w }).modLog c fun l => { l with opened := tput 0 l.opened t (w.toNat + 1) }
    | none => z) s2
  let size := max 1 (s.replaySize c)
  (r.1, s3.modLog c fun l =>
    let now := decide (iv = s.interval c)
    { l with
      playPos := (l.rpos + 2 * size - (l.rcur + (if now then 0 else l.rused))) % size
      playIv := iv, playStart := s.ccc, playRec := if now then l.ivCcc else l.ivCccOld, horizons := r.1 })

/-! ## MUSTERED -/

/-- The results that a muster and a precise stop owe. -/
def State.answerMuster (s : State) (c : Nat) : State := s.answerWaits (fun k => k == .mustering c) 0

def State.answerStop (s : State) (c : Nat) : State :=
  (s.answerWaits (fun k => k == .preciseStop c) (BitVec.ofNat 64 (CtxLog.of s c).horizons)).modLog c fun l => { l with after := .nothing, target := none }

/-- A precise stop's run begins (R285 steps 2 to 4). -/
def State.runStop (s : State) (c iv : Nat) : State :=
  let s1 := ((s.closeRecording c).loadInterval c iv).2
  (((s1.setCx c cREPLAY (s1.cx c cREPLAY ||| 2)).modLog c fun l => { l with after := .nothing }).goOn c).modLog c fun l =>
    { l with playStart := s.ccc }

/-- The replay goes on with the next recorded interval. -/
def State.replayNext (s : State) (c : Nat) : State :=
  let iv := ((CtxLog.of s c).playIv + 1) % 2 ^ 32
  let s1 := s.modLog c fun l => { l with after := .nothing, playIv := iv, playStart := s.ccc, ivWins := l.ivWins.filter fun e => e.1 != iv }
  let s2 := s1.zeroWorks c
  let s3 := match s2.intervalWindows c iv with
    | .ok z => z
    | _ => s2
  (s3.goOn c).modLog c fun l => { l with playStart := s.ccc }

/-- The context becomes MUSTERED, and what waited for it follows. -/
def State.mustered (s : State) (c : Nat) : State :=
  let s1 := ((s.setMstate c 3).modMuster c fun m => { m with ccc := s.ccc }).answerMuster c
  let l := CtxLog.of s1 c
  match l.after with
  | .nothing => s1
  | .load => s1.runStop c ((l.target.map (·.1)).getD 0)
  | .stopped => s1.answerStop c
  | .nextInterval => s1.replayNext c
  | .replayEnd => (s1.endPlay c).answerStop c
  | .rewind => (s1.loadInterval c l.playIv).2.answerStop c
  | .checkpoint => (s1.loadInterval c (s1.interval c)).2.modLog c fun l => { l with after := .nothing }

/-! ## STOPPING and DRAINING (R260) -/

/-- A copy of a context that is no running task's: of an action, or of a task that has left its streams. -/
def State.looseCopy (s : State) (c : Nat) (k : Copy) : Bool :=
  k.ctx == c && k.tile.all fun t => (s.tile t).task.all fun j => j.serial != k.serial

/-- MUSTER begins: ARM is cleared, the tasks are pre-empted, and the collective engines stop (R260 step 1, R263). -/
def State.beginMuster (s : State) (c : Nat) (id : Word) (alone exact : Bool) : State :=
  let s1 := (s.setMstate c 1).setRegF offMatchCtl 1 1 0
  let s2 := s1.modMuster c fun m => { m with id := id, alone := alone, exact := exact, drained := false, begun := s.ccc, ccc := s.ccc }
  let s3 := ((List.range 256).filter fun t => (s.tile t).task.any fun k => k.t.ctx == c).foldl State.askPreempt s2
  let s4 := (s.enginesOf c).foldl (fun s e => s.setColl e { s.coll e with parked := true }) s3
  { s4 with copies := s4.copies.map fun e => (e.1, e.2.map fun k => if s.looseCopy c k then { k with stopping := true } else k) }

/-- A thread stops at an instruction, with its replay queue, once what it waits for otherwise has come. -/
def State.stopThread (s : State) (c n : Nat) : State :=
  let x := s.thr n
  let calm := x.sc.fits && x.sc.ops.all fun o => o.what.replayed || o.what == .mustering c || o.what == .preciseStop c
  if !x.running || x.ctx ≠ c || x.st.stop.isSome || !calm then s
  else
    let stop : Stopped := { cause := .preempt, info := 0, insn := s.insnAt (.thread n), ccc := s.ccc, framed := false }
    (s.modStrm (.thread n) fun st => { st with stop := some stop, stall := .none }).writeFrame (.thread n) false

/-- Every engine has acknowledged: no task of the context holds streams, its copies are at a piece, and its threads have their frames. -/
def State.allStopped (s : State) (c : Nat) : Bool :=
  s.copies.all (fun e => e.2.all fun k => k.ctx != c || (k.stopping && k.atPiece)) &&
  s.tiles.all (fun e => e.2.task.all fun k => k.t.ctx != c) &&
    s.threads.all fun e => !e.2.running || e.2.ctx != c || e.2.st.stop.any (·.framed)

/-- What R260 step 2 waits for is done: the context's stores are performed and acknowledged, its updates and migrations complete, its
packets out of the harbour queues, and the actions that were queued before issued. -/
def State.allDrained (s : State) (c : Nat) : Bool :=
  s.stores.all (fun e => e.ctx != c) && s.sent.all (fun e => e.ctx != c || e.status.isSome) &&
    s.updates.all (fun u => !u.root || u.ctx != c) && s.migrations.all (fun m => m.ctx != c) &&
    s.heldAll.all (fun h => s.packetCtx h.2.p != c) && s.colls.all (fun e => e.2.outbox.all fun o => o.ctx != c) && s.actions.all (fun f => f.ctx != c) && s.ferryRels.all (fun r => r.ctx != c) &&
    s.tiles.all fun e => e.2.left.all fun k => k.t.ctx != c || s.outstanding e.1 k

/-- Chips whose notices a muster waits for: every member, or only this chip. -/
def State.musterChips (s : State) (c : Nat) : List Nat := if (s.muster c).alone then [s.chip] else s.members c

/-- With the notices of all, each with the muster's own id, the chip enters MUSTERED (R260 step 3, R441). -/
def State.musterGo (s : State) (c : Nat) : State :=
  let m := s.muster c
  if s.mstate c = 2 && m.drained && (s.musterChips c).all (fun k => m.notices.contains (k, m.id)) then s.mustered c else s

/-- A chip's notice is kept; a later one of the same chip takes its place. -/
def State.keepNotice (s : State) (c chip : Nat) (id : Word) : State :=
  s.modMuster c fun m => { m with notices := m.notices.filter (fun e => e.1 != chip) ++ [(chip, id)] }

/-- Step 2 is complete: the members are told. -/
def State.tellDrained (s : State) (c : Nat) : State :=
  let m := s.muster c
  let s1 := (s.modMuster c fun m => { m with drained := true }).keepNotice c s.chip m.id
  let others := if m.alone then [] else (s.members c).filter (· != s.chip)
  others.foldl (fun s k => s.sendPlain k 0x15 3 (BitVec.ofNat 64 (0x50 + c * 2 ^ 8)) m.id []) s1

/-- MUSTER_DRAINED (R260): STOPPING goes on to DRAINING, and DRAINING to its notices and MUSTERED. -/
def execMusterDrained (ctx : Nat) (s : State) : Ans :=
  if s.mstate ctx ≠ 1 ∧ s.mstate ctx ≠ 2 then .next s
  else
    let s1 := if s.mstate ctx = 1 then (s.threads.map (·.1)).foldl (fun s n => s.stopThread ctx n) s else s
    let s2 := if s1.mstate ctx = 1 && s1.allStopped ctx then s1.setMstate ctx 2 else s1
    let s3 := if s2.mstate ctx = 2 && !(s2.muster ctx).drained && s2.allDrained ctx then s2.tellDrained ctx else s2
    .next (s3.musterGo ctx)

/-- MUSTER_NOTICE (R260, R441): kind 0x50; other kinds of management notice are discarded. -/
def execMusterNotice (port : Nat) (s : State) : Ans :=
  s.noticeEvent port (fun k => k < 0x40 || 0x48 ≤ k) fun p s1 =>
    if noticeKind p ≠ 0x50 || s1.playing (noticeCtx p) then s1
    else ((s1.recordPacket (noticeCtx p) p).keepNotice (noticeCtx p) p.src p.word3).musterGo (noticeCtx p)

/-! ## Commands (R441) -/

/-- The context that a muster command names. -/
def musterCtx (f : CmdE) : Nat := fld f.imm 2 6

/-- A command of MUSTER: a Ferry thread of system privilege. -/
def State.musterSrc (s : State) (f : CmdE) : Res (Word × Word × Word) :=
  (s.onThread).bind fun _ => (s.needSys).bind fun _ => s.cmdSrc f

/-- MUSTER (R260-R262, R264): BUSY for a context that does not run. -/
def execMuster (f : CmdE) (s : State) : Ans :=
  ((s.musterSrc f).bind fun q =>
    let c := musterCtx f
    if !s.ctxExists c || s.mstate c ≠ 0 then .ok (s.answer f stBusy q.1 0)
    else .ok ((s.beginMuster c q.1 false false).pending f (.mustering c) q.1 0)).finish s

/-- RELEASE (R264, R279). -/
def execMusterRelease (f : CmdE) (s : State) : Ans :=
  ((s.musterSrc f).bind fun q =>
    let c := musterCtx f
    if s.mstate c ≠ 3 then .ok (s.answer f stBusy q.1 0)
    else (s.release c).bind fun s1 => .ok (s1.answer f 0 q.1 0)).finish s

end Sys2Proof.Machine
end

