-- ==== Sys2Proof/Machine/Replay.lean ====
section
/-! DEFINITION. RSTEP (R280, R285, R443, R457), the replay of recorded inputs (R283-R286), match points' settings (R444), snapshots
and samples (R290, R291), and errors of memories and packages (R246, R271, R283, R293). -/
namespace Sys2Proof.Machine
open Sys2Proof

/-! ## RSTEP -/

/-- The tile that an RSTEP or MPSET names, with its owner: it belongs to the issuer's context, or the issuer has system privilege. -/
def State.debugTile (s : State) (a : Word) : Res (Nat × Nat) :=
  let t := fld a 0 8
  (s.own (s.tileCtx t == some s.cmdCtx) a).bind fun _ => match s.tileCtx t with
    | some c => .ok (t, c)
    | none => .raise .perm a

/-- An RSTEP's operands. -/
def State.rstepSrc (s : State) (f : CmdE) : Res ((Nat × Nat) × Word × Word × Word) :=
  (s.onThread).bind fun _ => (s.cmdSrc f).bind fun q =>
    (Res.check (fld q.1 8 56 == 0) .rsvField q.1).bind fun _ => (s.debugTile q.1).bind fun r => .ok (r, q)

/-- A tile that RSTEP may work on: trap-held, pre-empted or mustered, and no copy that it issued is in flight (R280). -/
def State.steppable (s : State) (t c : Nat) : Bool :=
  ((s.tile t).held || (s.savedCtx t).isSome || s.mstate c == 3) && !s.allCopies.any fun k => k.tile == some t

/-- The first RSTEP of an interval on a tile bounds its precise stops by the work count at which it is made (R457). -/
def State.boundStops (s : State) (c iv t m : Nat) : State :=
  s.modLog c fun l => if l.rstepWork.any (fun e => e.1 == 256 * iv + t) then l else { l with rstepWork := tput 0 l.rstepWork (256 * iv + t) (m + 1) }

/-- A window's place after OLDEST, modulo 2^32. -/
def State.winAhead (s : State) (c : Nat) (w : BitVec 32) : Nat := (w - BitVec.ofNat 32 (s.cxF c cUNDOWIN 0 32)).toNat

/-- RSTEP, window form (R280, R443). -/
def execRstepWindow (f : CmdE) (s : State) : Ans :=
  ((s.rstepSrc f).bind fun q =>
    let t := q.1.1
    let c := q.1.2
    let w : BitVec 32 := q.2.2.1.setWidth 32
    let done (s : State) (v : Word) : State := s.answer f v q.2.1 q.2.2.1
    if !s.steppable t c then .ok (done s stBusy)
    else if 2 ^ 31 ≤ s.winAhead c w then .ok (done s stGone)
    else if s.winAhead c (BitVec.ofNat 32 (s.cxF c cUNDOWIN 32 32)) ≤ s.winAhead c w then .ok (done s 0)
    else
      let r := (s.boundStops c (s.interval c) t (s.tile t).work).rollWindow t c w
      (r.2.newWindow t c 4).bind fun s1 => .ok (done s1 (BitVec.ofNat 64 r.1))).finish s

/-- RSTEP, open form (R280, R443). -/
def execRstepOpen (f : CmdE) (s : State) : Ans :=
  ((s.rstepSrc f).bind fun q =>
    if !s.steppable q.1.1 q.1.2 then .ok (s.answer f stBusy q.2.1 0)
    else (s.newWindow q.1.1 q.1.2 3).bind fun s1 => .ok (s1.answer f ((s1.tile q.1.1).win.setWidth 64) q.2.1 0)).finish s

/-- The work count up to which a tile's stops in an interval re-execute the recorded run (R457). -/
def State.stopBound (s : State) (c iv t : Nat) : Nat :=
  let l := CtxLog.of s c
  match l.rstepWork.find? (fun e => e.1 == 256 * iv + t), l.stopWork.find? (fun e => e.1 == iv && e.2.1 == t) with
  | some e, _ => e.2 - 1
  | none, some e => e.2.2.sum
  | none, none => (s.tile t).work

/-- An interval that a precise stop cannot go back to: neither the current nor the previous one, without its windows or a complete
recording, or past the bound (R285, R457). -/
def State.stopGone (s : State) (c iv t n : Nat) : Bool :=
  let l := CtxLog.of s c
  !lastTwo (s.interval c) iv || !tget false l.ivComplete iv || !(l.ivWins.any fun e => e.1 == iv) ||
    l.ivWins.any (fun e => e.1 == iv && decide (2 ^ 31 ≤ s.winAhead c e.2.2)) || decide (s.stopBound c iv t < n)

/-- RSTEP, count form: a precise stop (R285). -/
def execRstepCount (f : CmdE) (s : State) : Ans :=
  ((s.rstepSrc f).bind fun q =>
    let t := q.1.1
    let c := q.1.2
    let iv := fld q.2.2.1 0 32
    let n := q.2.2.2.toNat
    if !s.steppable t c || s.mstate c = 1 || s.mstate c = 2 || s.mstate c = 4 then .ok (s.answer f stBusy q.2.1 q.2.2.1)
    else if s.stopGone c iv t n then .ok (s.answer f stGone q.2.1 q.2.2.1)
    else
      let s1 := ((s.boundStops c iv t (s.stopBound c iv t)).modLog c fun l => { l with target := some (iv, t, n), after := .load }).pending f
        (.preciseStop c) q.2.1 q.2.2.1
      if s.mstate c = 3 then .ok (s1.runStop c iv) else .ok (s1.beginMuster c 0 true false)).finish s

/-- PRECISE_STOP_REACHED (R285): the tile's work count has come to n, and the whole context stops. -/
def execPreciseStopReached (ctx : Nat) (s : State) : Ans :=
  let l := CtxLog.of s ctx
  match l.target with
  | none => .next s
  | some (iv, t, n) =>
    if !s.playing ctx || s.mstate ctx ≠ 0 || l.playIv ≠ iv || (s.tile t).work < n then .next s
    else .next ((s.modLog ctx fun l => { l with after := .stopped }).beginMuster ctx 0 true true)

/-! ## Replaying inputs (R283, R285) -/

/-- Bytes of the replay ring, round its end. -/
def State.replayBytes (s : State) (c pos n : Nat) : List Byte :=
  let size := max 1 (s.replaySize c)
  let p := pos % size
  let base := (s.cx c cRPBASE).toNat
  let head := min n (size - p)
  s.physRead c (BitVec.ofNat 64 (base + p)) head ++ s.physRead c (BitVec.ofNat 64 base) (n - head)

/-- A packet as an entry holds it: its header, then its payload in whole words. -/
def packetOfBytes (bs : List Byte) : Packet :=
  let h := leNat (bs.take 8)
  { src := nfld h 0 10, dst := nfld h 10 10, pop := nfld h 20 6, pseq := BitVec.ofNat 32 (nfld h 32 32),
    word2 := BitVec.ofNat 64 (leNat ((bs.drop 8).take 8)), word3 := BitVec.ofNat 64 (leNat ((bs.drop 16).take 8)), vc := 0, dlc := false,
    data := bs.drop 24 }

/-- A recorded packet takes effect; none: it waits for undo-log space. -/
def State.replayPacket (s : State) (c : Nat) (p : Packet) : Option State :=
  if p.pop = 0 ∨ p.pop = 1 then
    match s.rxWrite (fld p.word2 0 12) (fld p.word2 12 40) (s.windowAfter p) none with
    | .ok s1 => some (State.landed { s1.stageNote p with pseqIn := tput 0 s1.pseqIn p.src (p.pseq + 1) } p)
    | .stall .. => none
    | _ => some s
  else if p.pop = 2 then
    some (match s.redRun (redRid p) with
      | some (e, r) =>
        -- an encoded block is padded to whole words
        let z := ropBytes (fld r.c.desc 24 4)
        let raw := if p.data.length = 64 * z then some p.data
          else (wireDecode p.data).map fun d => d.1.flatMap fun v => leBytes z v
        match raw with
        | some bs => s.redResult e (redBlock p) bs
        | none => s
      | none => s)
  else if p.pop = 8 then some (s.applyAckPacket p fun e => e.ctx == c)
  else if p.pop = 9 then some (s.applyTka p)
  else if p.pop = 0xA then some (s.applySdack p)
  else if p.pop = 0x11 then some (s.applySdown p)
  else if p.pop = 0x15 && 0x40 ≤ noticeKind p && noticeKind p < 0x48 then some (s.applyNotice p)
  else some s

/-- The first stream whose signature differs from a SIG entry's. -/
def Tile.sigDiffers (x : Tile) (payload : List Byte) : Option Nat :=
  firstBelow (fun k => leNat ((payload.drop (8 * k)).take 8) != (x.stream k).sig.toNat) 4 0

/-- A SIG entry against its tile (R286): REPLAY_DIVERGE, and what CONT says. -/
def State.compareSig (s : State) (c t : Nat) (payload : List Byte) : State :=
  match (s.tile t).sigDiffers payload with
  | none => s
  | some k =>
    let s1 := s.report .replayDiverge c 0 (t + 256 * k) (CtxLog.of s c).playIv
    if bit (s.cx c cREPLAY) 2 then s1.endPlay c
    else (s1.modLog c fun l => { l with after := .rewind }).beginMuster c 0 true true

/-- The END entry: the end of the replay when it is the last, else the next recorded interval. -/
def State.replayEnds (s : State) (c : Nat) (rec' : Word) : State :=
  let l := CtxLog.of s c
  let last := l.playPos == l.rpos
  (s.modLog c fun l => { l with playRec := rec', after := if last then .replayEnd else .nextInterval }).beginMuster c 0 true true

/-- An entry of the replay ring takes effect; none: it waits. -/
def State.replayEntry' (s : State) (c kind : Nat) (rec' : Word) (k0 k1 : Nat) (payload : List Byte) : Option State :=
  match kind with
  | 1 =>
    let len := nfld k1 16 32
    match s.arrive { mb := BitVec.ofNat 64 k0, skind := nfld k1 0 3, aop := nfld k1 3 1 = 1, src := nfld k1 4 12,
                     hdata := BitVec.ofNat 64 (leNat (payload.take 8)), len := len, data := (payload.drop 8).take len, ctx := c,
                     pdc := none, left := 0, more := [], recAt := none, born := s.ferryCycle } with
    | .ok s1 => some s1
    | .stall .. => none
    | _ => some s
  | 2 => s.replayPacket c (packetOfBytes payload)
  | 3 =>
    let odd := nfld k0 12 3
    match s.rxWrite (nfld k0 0 12) k1 (payload.take (payload.length - (if odd = 0 then 0 else 8 - odd))) none with
    | .ok s1 => some s1
    | .stall .. => none
    | _ => some s
  | 4 => some (s.modTile (k0 % 256) fun x => { x with lotx := BitVec.ofNat 32 k1 })
  | 5 => some (s.setCx c cERATEF (BitVec.ofNat 64 k0))
  | 7 => some (s.compareSig c (k0 % 256) payload)
  | 15 => some (s.replayEnds c rec')
  | _ => some s

/-- Recorded inputs whose CCC has come, at most n of them. -/
def State.dueInputs (s : State) (c : Nat) (upTo : Nat) : Nat → Nat → Nat
  | 0, _ => 0
  | n + 1, pos =>
    let l := CtxLog.of s c
    let h := leNat (s.replayBytes c pos 16)
    if pos = upTo || (s.ccc - l.playStart).toNat < (BitVec.ofNat 64 (nfld h 64 64) - l.playRec).toNat then 0
    else s.dueInputs c upTo n ((pos + 32 + 8 * nfld h 16 16) % max 1 (s.replaySize c)) + 1

/-- REPLAY_INPUT_INJECT (R285): the next recorded input enters at its CCC, counted from the interval start. -/
def execReplayInputInject (ctx : Nat) (s : State) : Ans :=
  let l := CtxLog.of s ctx
  if !s.playing ctx || 3 ≤ s.mstate ctx || l.playPos = l.rpos || l.after != .nothing || s.eventsStall then .next s
  else
    let h := leNat (s.replayBytes ctx l.playPos 32)
    let rec' := BitVec.ofNat 64 (nfld h 64 64)
    let n := 8 * nfld h 16 16
    if (s.ccc - l.playStart).toNat < (rec' - l.playRec).toNat then .next s
    else
      let payload := s.replayBytes ctx (l.playPos + 32) n
      let s1 := s.modLog ctx fun l => { l with playPos := (l.playPos + 32 + n) % max 1 (s.replaySize ctx) }
      match s1.replayEntry' ctx (nfld h 0 4) rec' (nfld h 128 64) (nfld h 192 64) payload with
      | some s2 => .next s2
      | none => .next s

/-! ## Match points (R444) -/

/-- MPSET's operands. -/
def State.mpsetSrc (s : State) (f : CmdE) : Res ((Nat × Nat) × Word × Word × Word) :=
  (s.onThread).bind fun _ => (s.cmdSrc f).bind fun q =>
    (Res.check (fld q.1 14 50 == 0) .rsvField q.1).bind fun _ => (s.debugTile q.1).bind fun r => .ok (r, q)

/-- MPSET, form 0: sys.MPn. -/
def execMpsetPoint (f : CmdE) (s : State) : Ans :=
  ((s.mpsetSrc f).bind fun q =>
    (Res.check (fld q.2.2.1 5 59 == 0 && fld q.2.2.2 0 1 == 0 && fld q.2.2.2 57 7 == 0) .rsvField q.2.2.1).bind fun _ =>
      .ok ((s.modTile q.1.1 fun x => { x with mp := tput 0 x.mp (fld q.2.1 8 6) (q.2.2.2 ++ q.2.2.1) }).answer f 0 q.2.1 q.2.2.1)).finish s

/-- MPSET, form 1: sys.MPVEC. -/
def execMpsetVec (f : CmdE) (s : State) : Ans :=
  ((s.mpsetSrc f).bind fun q =>
    (Res.check (fld q.2.2.1 57 7 == 0) .rsvField q.2.2.1).bind fun _ =>
      .ok ((s.modTile q.1.1 fun x => { x with mpvec := q.2.2.1.setWidth 57 }).answer f 0 q.2.1 q.2.2.1)).finish s

/-! ## Snapshots and samples (R290, R291) -/

/-- SNAP (R440). -/
def execSnap (f : CmdE) (s : State) : Ans :=
  ((s.cmdSrc f).bind fun _ =>
    let s1 := s.trigger
    .ok (s1.answer f (BitVec.ofNat 64 (s1.regF offSnapId 0 32)) 0 0)).finish s

/-- A tile's snapshot set. -/
def State.snapSet (s : State) (t : Nat) : Tab Word :=
  let x := s.tile t
  let queues := ((List.range 8).map fun q => if (x.queue q).tasks.isEmpty then 0 else 2 ^ q).sum
  let v : List Word := [BitVec.ofNat 64 (s.regF offSnapId 0 32), s.ccc] ++ (List.range 4).map (fun k => (x.stream k).pc) ++
    (List.range 4).map (fun k => BitVec.ofNat 64 (x.stream k).work) ++ [x.mx.status, BitVec.ofNat 64 (queues + x.lotx.toNat * 2 ^ 8)]
  tabOf 0 12 fun i => nth 0 v i

/-- The status registers that the chapters of the blocks other than tiles define: host port, links, router, translation, Ferry, scheduler,
collective engines, power. The copy engines and memory controllers have none. -/
def statusRegs : List Nat :=
  [offHostDrop] ++ (List.range 6).map offLinkStat ++ [offRedStale, offWerr, offMatchCtl, offSnapId, offUetRefused, offUetDrop, offFlogHead, offHlogHead,
    offRlogHead, offRlogLost] ++ (List.range 4).map offPkb ++ [offIerr] ++ (List.range 16).map offCengOwn ++ [offPwrStatus]

/-- SNAPSHOT_LATCH (R290): 256 cycles after the trigger every tile and every other block latches its set; a SNAP trace record is written where
tracing is on. -/
def execSnapshotLatch (s : State) : Ans :=
  match s.snapAt with
  | none => .next s
  | some c =>
    if (s.ccc - c).toNat < 256 then .next s
    else
      let s1 := (List.range 256).foldl (fun z t => (z.modTile t fun x => { x with snap := s.snapSet t }).trace t 0 5 (s.regF offSnapId 0 32)) s
      .next { s1 with snapAt := none, unitSnap := statusRegs.foldl (fun t o => tput 0 t o (s.barPeek o)) [] }

/-- TRACE_SAMPLE (R291): one record each 2^SPER cycles. -/
def execTraceSample (tile : Nat) (s : State) : Ans :=
  let x := s.tile tile
  if s.ccc.toNat % 2 ^ fld x.trace.ctl 5 5 ≠ 0 then .next s
  else .next (s.trace tile 4 4 0 ((List.range 4).flatMap fun k => leBytes 8 (x.stream k).pc.toNat))

/-! ## Errors -/

/-- An engine's error is reported for its context. -/
def State.engineError (s : State) (ctx srck srcix : Nat) : State := s.report .eccUncorrectable ctx srck srcix 0

/-- UNCORRECTABLE_ERROR (R246, R293): fatal to what meets it, reported, and counted. -/
def execUncorrectableError (unit : ErrorUnit) (s : State) : Ans :=
  let s1 := s.gather 0x8C18 1
  match unit with
  | .stream t k => .next (if (s1.tile t).task.isSome && k < 4 then s1.raiseIdle t k .eccUncorrectable 0 else s1.report .eccUncorrectable 0 0 t 0)
  | .thread n => .next (if (s1.thr n).running then s1.raiseThread n .eccUncorrectable else s1.report .eccUncorrectable 0 1 n 0)
  | .copyEngine n =>
    match tget [] s1.copies n with
    | k :: rest =>
      .next (({ s1 with copies := tput [] s1.copies n ({ k with failed := some (k.failed.getD .eccUncorrectable) } :: rest) } : State).engineError k.ctx 2 n)
    | [] => .next (s1.engineError 0 2 n)
  | .collEngine n =>
    match (s1.coll n).run with
    | some r =>
      let a := (s1.engineError r.c.ctx 3 n).collAborts n r .eccUncorrectable
      .next (a.1.setRun n (some a.2))
    | none => .next (s1.engineError 0 3 n)
  | .tile t => .next (s1.engineError (s1.ctxOfTile t) 0 t)
  | .hbmController _ => .next (s1.engineError 0 9 0)
  | .ferrySram => .next (s1.engineError 0 5 0)
  | .ferryCore n =>
    let s2 := s1.engineError 0 1 (16 * n)
    .next (if n = s2.regF offSchedCtl 0 6 && !s2.sched.stopped then s2.schedError else s2)

/-- Where a unit's correctable errors are counted (R293), the number that DELAY entries name it by, and the contexts concerned: those whose
accesses the unit serves. -/
def State.errorPlace (s : State) (u : ErrorUnit) : Option Nat × Nat × List Nat :=
  let every := (List.range 64).filter s.ctxExists
  match u with
  | .stream t k => (some (0x82B0 + 8 * t), t + 256 * k, [s.ctxOfTile t])
  | .tile t => (some (0x82B0 + 8 * t), t, [s.ctxOfTile t])
  | .thread n => (some (0x8C20 + 4 * (n / 16)), 0x400 + n / 16, [(s.thr n).ctx])
  | .ferryCore n => (some (0x8C20 + 4 * n), 0x400 + n, every)
  | .hbmController n => (some (0x8AB0 + 8 * n), 0x500 + n, every)
  | .ferrySram => (some 0x8BB0, 0x600, every)
  | .copyEngine n => (none, 0x700 + n, ((tget [] s.copies n).map (·.ctx)).eraseDups)
  | .collEngine n => (none, 0x800 + n, [(s.coll n).ctx])

/-- CORRECTABLE_ERROR (R283, R293): the access is made again after its delay; the delay is an input, recorded for each context concerned. The
model gives it no length in cycles (log entry 130). -/
def execCorrectableError (unit : ErrorUnit) (delay : Nat) (s : State) : Ans :=
  let p := s.errorPlace unit
  let s1 := match p.1 with
    | some off => s.gather off 1
    | none => s
  .next (p.2.2.foldl (fun s c => s.recordInput c 6 (p.2.1 + delay % 2 ^ 64 * 2 ^ 64) []) s1)

/-- MISSED_HEARTBEATS (R270, R271, R53): the package is fenced over the domain, and each context that it was a member of is mustered here, to go
back to its last checkpoint (R281; log entry 131). -/
def execMissedHeartbeats (chip : Nat) (s : State) : Ans :=
  let s1 := s.multicastFence (chip % 1024)
  let hit := (List.range 64).filter fun c => s1.ctxExists c && s1.mstate c == 0 && s1.isMember c (chip % 1024) && chip % 1024 != s1.chip
  .next (hit.foldl (fun s c => (s.modLog c fun l => { l with after := .checkpoint }).beginMuster c 0 true false) s1)

end Sys2Proof.Machine
end

