-- ==== Sys2Proof/Machine/Hamper.lean ====
section
/-! DEFINITION. Hampers (R265-R268, R441): writing and restoring one; and ROLLCALL (R269, R442). -/
namespace Sys2Proof.Machine
open Sys2Proof

/-! ## Writing (R265-R267) -/

/-- A section: TYPE, INDEX and its bytes. -/
abbrev Section := Nat × Nat × List Byte

/-- DEVICE: STRAIT.GEOM, the harvest words, and the firmware version. -/
def State.deviceSection (s : State) : Section :=
  (1, 0, leBytes 8 (s.reg offGeom).toNat ++ (List.range 4).flatMap (fun d => leBytes 4 (s.pkg.copyNat s.pkg.factory (0x48 + 4 * d) 4)) ++ leBytes 8 s.pkg.fwVersion.toNat)

/-- Places of a context's page that a CONTEXT section carries; the others tell of the source's memory. -/
def State.pageRegs (s : State) (c : Nat) : Tab Word :=
  ((List.range 512).map (8 * ·)).foldl (fun t o => if o = cPTROOT ∨ o = cLIFE ∨ o = cMSTATE then t else tput 0 t o (s.cx c o)) []

/-- Slot-table entries that name a context (R202). -/
def State.slotsOf (s : State) (c : Nat) : Tab Word :=
  ((List.range 4).flatMap fun d => (List.range 256).map fun n => offSlotTab d n).foldl (fun t o =>
    let e := s.reg o
    if (bit e 0 && fld e 1 6 == c) || (bit e 7 && fld e 8 6 == c) then tput 0 t o e else t) []

/-- Indices of a table node's present entries. -/
def State.presentIn (s : State) (frame : Nat) : List Nat :=
  ((s.hbm.filter fun e => e.1 / 65536 == frame).map fun e => e.1 % 65536 / 8).eraseDups.filter fun i => bit (s.pte frame i) 0

/-- Every mapped page of a context: VA, flags W and PIN, 64 KiB. -/
def State.pagesOf (s : State) (c : Nat) : List (Nat × Nat × List Byte) :=
  let root := s.cxF c cPTROOT 16 36
  (s.presentIn root).flatMap fun a => let n2 := pteFrame (s.pte root a); (s.presentIn n2).flatMap fun b =>
    let n1 := pteFrame (s.pte n2 b); (s.presentIn n1).flatMap fun d => let n0 := pteFrame (s.pte n1 d); (s.presentIn n0).map fun e =>
      let l := s.pte n0 e
      (a * 2 ^ 39 + b * 2 ^ 26 + d * 2 ^ 13 + e, fld l 2 2, mreads s.hbm (pteFrame l * 65536) 65536)

/-- Every chunk of a context's tensors: tensor id, table, chunk, flags, 64 KiB. -/
def State.chunksOf (s : State) (c : Nat) : List (Nat × Bool × Nat × Nat × List Byte) :=
  (s.tensors.filter fun e => e.1 / 256 == c && bit e.2 0).flatMap fun e =>
    (if tdShv e.2 then [false, true] else [false]).flatMap fun sh =>
      (List.range ((tdTotal e.2 + 65535) / 65536)).filterMap fun n =>
        let l := mword s.hbm (tdTable e.2 sh + 8 * n)
        if bit l 0 then some (e.1 % 256, sh, n, fld l 2 2, mreads s.hbm (pteFrame l * 65536) 65536) else none

/-- Bytes of a tile's trace ring (R291). -/
def State.traceRing (s : State) (c t : Nat) : List Byte :=
  let tr := (s.tile t).trace
  s.physRead c (tr.base.setWidth 64) (65536 * (if tr.size = 0 then 1 else tr.size.toNat))

/-- The sections of a context: a lost one has only LOST, with the CCC, the failing offset and the cause of R259. -/
def State.sectionsOf (s : State) (c : Nat) : List Section :=
  if s.mstate c = 4 then [(0x0B, c, s.physRead c (s.cx c cSAVEVA + 8) 16 ++ leBytes 8 Cause.eccUncorrectable.code)]
  else
    let m := s.ctxImage c
    let l := CtxLog.of s c
    [(2, c, Codec.context.put (s.pageRegs c, s.tilesOf c, s.enginesOf c, s.slotsOf c, m.queues))] ++
      (s.tilesOf c).map (fun t => (3, t, mreads (s.tileSlot t) 0 slotLen)) ++
      [(4, c, m.ferryPart), (5, c, m.schedPart), (6, c, m.xlatPart), (7, c, m.consPart)] ++
      (s.enginesOf c).map (fun e => (8, e, Codec.collEng.put (s.coll e))) ++
      [(9, c, Codec.memory.put (s.pagesOf c, s.chunksOf c)),
       (10, c, Codec.undo.put (l.recs, (s.tilesOf c).map fun t => (t, (s.tile t).win.toNat)))] ++
      ((s.tilesOf c).filter fun t => bit (s.tile t).trace.ctl 0).map fun t => (0x8001, t, s.traceRing c t)

/-- The next multiple of 4 KiB. -/
def align4k (n : Nat) : Nat := (n + 4095) / 4096 * 4096

/-- The section table's entries, from an offset on. -/
def tableBytes : Nat → List Section → List Byte
  | _, [] => []
  | off, (ty, ix, bs) :: rest =>
    leBytes 32 (ty % 2 ^ 16 + ix % 2 ^ 32 * 2 ^ 32 + off * 2 ^ 64 + bs.length * 2 ^ 128) ++ tableBytes (align4k (off + bs.length)) rest

/-- The sections' bytes, each from a multiple of 4 KiB. -/
def placeSections : List Byte → List Section → List Byte
  | acc, [] => acc
  | acc, (_, _, bs) :: rest => placeSections (acc ++ List.replicate (align4k acc.length - acc.length) 0 ++ bs) rest

/-- A hamper (R265): header, section table, sections, trailer. -/
def State.hamper (s : State) (scope : Bool) (c : Nat) (id ccc : Word) (secs : List Section) : List Byte :=
  let start := align4k (128 + 32 * secs.length)
  let table := tableBytes start secs
  let body (total : Nat) : List Byte :=
    leBytes 4 0x4D48594B ++ leBytes 2 1 ++ leBytes 2 0 ++ leBytes 4 (if scope then 1 else c * 2) ++ leBytes 4 secs.length ++ leBytes 8 total ++
      leBytes 8 id.toNat ++ leBytes 8 ccc.toNat ++ s.pkg.copyBytes s.pkg.factory 8 32 ++ List.replicate 56 0
  let len := (placeSections (body 0 ++ table) secs).length + 64
  let all := placeSections (body len ++ table) secs
  all ++ leBytes 64 (Config.sha512 all).toNat

/-- The contexts that a hamper takes, and whether it may be taken of them (R265, R441). -/
def State.hamperOf (s : State) (scope : Bool) (c : Nat) : Bool × List Nat :=
  let still (k : Nat) : Bool := s.mstate k == 3 || s.mstate k == 4
  if !scope then (s.ctxExists c && still c, [c])
  else
    let all := (List.range 64).filter s.ctxExists
    (all.all fun k => still k || k == s.cmdCtx, all.filter still)

/-- HAMPER (R265-R267, R441). -/
def execMusterHamper (f : CmdE) (s : State) : Ans :=
  ((s.musterSrc f).bind fun q =>
    let scope := bit f.imm 8
    let c := musterCtx f
    let h := s.hamperOf scope c
    if !h.1 then .ok (s.answer f stBusy q.1 q.2.1)
    else
      -- a lost context's hamper holds only its LOST section (R259)
      let device := if !scope && s.mstate c = 4 then [] else [s.deviceSection]
      let bs := s.hamper scope c q.1 (s.muster (h.2.headD c)).ccc (device ++ h.2.flatMap s.sectionsOf)
      if q.2.2.toNat < bs.length then .ok (s.answer f (stRefused ((bs.length + 4095) / 4096)) q.1 q.2.1)
      else (s.writeOperand q.2.1 bs 1).bind fun s2 => .ok (s2.answer f (BitVec.ofNat 64 bs.length) q.1 q.2.1)).finish s

/-! ## Restoring (R268) -/

/-- A field of a hamper. -/
def hField (bs : List Byte) (off n : Nat) : Nat := leNat ((bs.drop off).take n)

/-- Entries of the section table: TYPE, INDEX, OFFSET, LENGTH. -/
def hTable (bs : List Byte) : List (Nat × Nat × Nat × Nat) :=
  (List.range (hField bs 0x0C 4)).map fun i =>
    let e := hField bs (128 + 32 * i) 32
    (nfld e 0 16, nfld e 32 32, nfld e 64 64, nfld e 128 64)

/-- The checks of R266: magic, major version, length, digest, and a TYPE that is known or optional. -/
def hamperBad (bs : List Byte) : Bool :=
  let total := hField bs 0x10 8
  hField bs 0 4 != 0x4D48594B || hField bs 4 2 != 1 || decide (bs.length < total) || decide (total < 192) ||
    leBytes 64 (Config.sha512 (bs.take (total - 64))).toNat != (bs.take total).drop (total - 64) ||
    (hTable bs).any fun e => e.1 < 0x8000 && !(1 ≤ e.1 && e.1 ≤ 0x0B)

/-- The bytes of a section. -/
def hSection (bs : List Byte) (type index : Nat) : Option (List Byte) :=
  ((hTable bs).find? fun e => e.1 == type && e.2.1 == index).map fun e => (bs.drop e.2.2.1).take e.2.2.2

/-- What a hamper holds of a context; none: a section is missing, or does not read. -/
def hamperImage (bs : List Byte) (c : Nat) : Option HamperImage :=
  (hSection bs 2 c).bind fun cx => (Codec.context.read cx).bind fun (regs, tiles, engines, slots, queues) =>
  let colls : Tab CollEng := engines.filterMap fun e => ((hSection bs 8 e).bind Codec.collEng.read).map (e, ·)
  (ctxImageOf ((hSection bs 4 c).getD []) ((hSection bs 5 c).getD []) ((hSection bs 6 c).getD []) ((hSection bs 7 c).getD [])
    (colls.filter fun e => e.2 != CollEng.idle) queues).bind fun img =>
  ((hSection bs 9 c).bind Codec.memory.read).bind fun (pages, chunks) => ((hSection bs 10 c).bind Codec.undo.read).map fun (recs, wins) =>
    { geom := BitVec.ofNat 64 (leNat (((hSection bs 1 0).getD []).take 8)), regs, tiles, engines, slots, img, pages, chunks, recs,
      wins := wins.filter fun e => e.2 != 0 }

/-- Frames that some translation entry names. -/
def State.namedFrames (s : State) : List Nat :=
  (((s.hbm.map fun e => e.1 / 8).eraseDups.map fun w => mword s.hbm (8 * w)).filter fun v => bit v 0).map pteFrame ++ s.saveFrames.map (·.2.2)

/-- k frames in a row, from a frame on, that hold nothing and that no entry names. -/
def State.freeRun (s : State) (named : List Nat) (next k : Nat) : Option Nat :=
  let busy (f : Nat) : Bool := named.contains f || s.hbm.any fun e => e.1 / 65536 == f
  firstBelow (fun f => decide (f + k ≤ hbmEnd / 65536) && (List.range k).all fun i => !busy (f + i)) (hbmEnd / 65536 - next) next

/-- Frames being handed out: the state, and the next frame. -/
abbrev Handing := State × Nat

def Handing.take (a : Handing) (named : List Nat) (k : Nat) : Option (Nat × Handing) := (a.1.freeRun named a.2 k).map fun f => (f, (a.1, f + k))

/-- The frame of a node's entry, made when it is absent. -/
def Handing.child (a : Handing) (named : List Nat) (node idx : Nat) : Option (Nat × Handing) :=
  let e := a.1.pte node idx
  if bit e 0 then some (pteFrame e, a)
  else (a.take named 1).map fun r =>
    (r.1, ({ r.2.1 with hbm := mputw r.2.1.hbm (node * 65536 + 8 * idx) (BitVec.ofNat 64 (1 + r.1 * 2 ^ 16)) }, r.2.2))

/-- A frame with contents. -/
def Handing.fill (a : Handing) (named : List Nat) (data : List Byte) : Option (Nat × Handing) :=
  (a.take named 1).map fun r => (r.1, ({ r.2.1 with hbm := mwrites r.2.1.hbm (r.1 * 65536) (data.take 65536) }, r.2.2))

/-- Map a page of a context with contents. -/
def Handing.page (a : Handing) (named : List Nat) (c vpn flags : Nat) (data : List Byte) : Option Handing :=
  let va := BitVec.ofNat 64 (vpn * 65536)
  (a.child named (a.1.cxF c cPTROOT 16 36) (fld va 55 1)).bind fun n2 => (n2.2.child named n2.1 (fld va 42 13)).bind fun n1 =>
  (n1.2.child named n1.1 (fld va 29 13)).bind fun n0 => (n0.2.fill named data).map fun d =>
    ({ d.2.1 with hbm := mputw d.2.1.hbm (n0.1 * 65536 + 8 * fld va 16 13) (BitVec.ofNat 64 (1 + flags % 4 * 4 + d.1 * 2 ^ 16)) }, d.2.2)

/-- Fresh chunk tables for a tensor. -/
def Handing.tables (a : Handing) (named : List Nat) (c id : Nat) : Option Handing :=
  let d := a.1.tensor c id
  let n := ((tdTotal d + 65535) / 65536 * 8 + 65535) / 65536
  (a.take named (max 1 n)).bind fun v =>
    let d1 := setFld d 320 52 (v.1 * 65536)
    if tdShv d then (v.2.take named (max 1 n)).map fun w => (w.2.1.setTensor c id (setFld d1 384 52 (w.1 * 65536)), w.2.2)
    else some (v.2.1.setTensor c id d1, v.2.2)

/-- A chunk with contents, in a tensor's fresh table. -/
def Handing.chunk (a : Handing) (named : List Nat) (c : Nat) (k : Nat × Bool × Nat × Nat × List Byte) : Option Handing :=
  let (id, shadow, n, flags, data) := k
  (a.fill named data).map fun d =>
    ({ d.2.1 with hbm := mputw d.2.1.hbm (tdTable (d.2.1.tensor c id) shadow + 8 * n) (BitVec.ofNat 64 (1 + flags % 4 * 4 + d.1 * 2 ^ 16)) }, d.2.2)

/-- Rebuild a context's memory: pages, tensors' tables and chunks. -/
def State.rebuildMemory (s : State) (c : Nat) (m : HamperImage) : Option State :=
  let named := s.namedFrames
  (Handing.take (s, 0) named 1).bind fun root =>
    let a0 : Handing := (root.2.1.setCx c cPTROOT (BitVec.ofNat 64 (root.1 * 2 ^ 16)), root.2.2)
    (m.pages.foldl (fun (a : Option Handing) p => a.bind fun a => a.page named c p.1 p.2.1 p.2.2) (some a0)).bind fun a1 =>
    ((m.img.tensors.map (·.1 % 256)).foldl (fun (a : Option Handing) id => a.bind fun a => a.tables named c id)
      (some (({ a1.1 with tensors := tmerge 0 a1.1.tensors m.img.tensors } : State), a1.2))).bind fun a2 =>
    (m.chunks.foldl (fun (a : Option Handing) k => a.bind fun a => a.chunk named c k) (some a2)).map (·.1)

/-- A tile's state from its TILE section: to its slot when its task was saved, else to the tile. -/
def State.putTile (s : State) (c t : Nat) (bs : List Byte) (q : TileQueues) (win : Nat) : State :=
  let m := mwrites [] 0 (bs.take slotLen)
  let s1 := s.modTile t fun x => { x.vacate with tq := q.tq, rerun := q.rerun, late := q.late, lotx := q.lotx, serial := q.serial, left := q.left, win := BitVec.ofNat 32 win, undoBuf := 0 }
  match s1.savedCtx t with
  | some _ => s1.spanWrite c m 64 (s.slotVa c t) 0 slotLen
  | none => s1.modTile t fun x => { (x.ofSlot m) with task := none, rerun := q.rerun }

/-- Place a context from a hamper; none: HBM cannot hold it. -/
def State.placeContext (s : State) (c : Nat) (bs : List Byte) (m : HamperImage) : Option State :=
  let s0 := m.regs.foldl (fun s e => s.setCx c e.1 e.2) s
  let s1 := m.tiles.foldl (fun s t => s.setReg (offTown t) (BitVec.ofNat 64 (1 + c * 2))) s0
  let s2 := m.engines.foldl (fun s e => s.setReg (offCengOwn e) (BitVec.ofNat 64 (1 + c * 2))) (m.slots.foldl (fun s e => s.setReg e.1 e.2) s1)
  (s2.rebuildMemory c m).map fun s3 =>
    let s4 := (s3.setCx c cLIFE 1).setMstate c 3
    let tables := s4.tensors
    let s5 : State := { s4.putCtxImage c m.img with tensors := tables }
    let s6 := m.tiles.foldl (fun s t => s.putTile c t ((hSection bs 3 t).getD []) (tget default m.img.queues t) (tget 0 m.wins t)) s5
    let frames := (s6.areas c).flatMap fun a => s6.areaFrames c a.1 a.2
    let log : CtxLog := { CtxLog.idle with
      recs := m.recs.map fun r => { r with inBuf := false }
      ring := (m.recs.map UndoRec.bytes).sum % s6.undoSize c
      opened := m.tiles.map fun t => (t, tget 0 m.wins t + 1) }
    (({ s6.emptyTlbs c with
      saveFrames := s6.saveFrames ++ frames, logs := tput CtxLog.idle s6.logs c log
      musters := tput Muster.idle s6.musters c { Muster.idle with
        id := BitVec.ofNat 64 (hField bs 0x18 8), ccc := BitVec.ofNat 64 (hField bs 0x20 8), firings := m.img.firings } } : State).setCx c cLIFE 1).setMstate c 3

/-- Why a restore is refused, in the order of R441; none: it may go on. -/
def State.restoreRefused (s : State) (c : Nat) (bs : List Byte) : Option Nat :=
  if hamperBad bs then some 1
  else match hamperImage bs c with
    | none => some 1
    | some m =>
      let home := BitVec.ofNat 10 (fld m.geom 0 10)
      let members := (List.range 16).flatMap fun i => ((List.range 64).filter fun j => bit (tget 0 m.regs (cMEMBERS i)) j).map (64 * i + ·)
      if s.ctxExists c then some 2
      else if m.tiles.any (fun t => (s.tileCtx t).any (· != c)) then some 3
      else if home.toNat ≠ s.regF offGeom 0 10 || members.any (fun k =>
          s.dimX ≤ chipX k || s.dimY ≤ chipY k || s.dimZ ≤ chipZ k) then some 4
      else if (s.placeContext c bs m).isNone then some 5
      else none

/-- RESTORE (R268, R441): the context is left MUSTERED. -/
def execMusterRestore (f : CmdE) (s : State) : Ans :=
  ((s.musterSrc f).bind fun q =>
    let c := musterCtx f
    (s.readOperand q.2.1 q.2.2.toNat 1).bind fun r =>
      match r.2.restoreRefused c r.1 with
      | some d => .ok (r.2.answer f (stRefused d) q.1 q.2.1)
      | none =>
        match (hamperImage r.1 c).bind (r.2.placeContext c r.1) with
        -- a scheduler that has stopped goes on (R210)
        | some s1 => .ok ((if s1.sched.stopped then s1.startSched else s1).answer f 0 q.1 q.2.1)
        | none => .ok (r.2.answer f (stRefused 5) q.1 q.2.1)).finish s

/-! ## ROLLCALL (R269, R442) -/

/-- A TLB entry's 20 bytes (R111). -/
def TlbEntry.bytes (e : TlbEntry) : List Byte :=
  leBytes 12 (1 + e.ctx % 64 * 2 + e.vpn % 2 ^ 40 * 2 ^ 7 + e.frame % 2 ^ 36 * 2 ^ 47 + (if e.w then 2 ^ 83 else 0) + (if e.lm then 2 ^ 84 else 0)) ++
    leBytes 8 e.exp.toNat

/-- A token-table entry's 16 bytes (R146). -/
def State.tokenBytes (s : State) (t : TokEntry) : List Byte :=
  leBytes 16 (1 + (if t.qout then 2 else 0) + t.landing % 1024 * 2 ^ 2 + t.origin % 1024 * 2 ^ 12 + s.tokenRefs t % 2048 * 2 ^ 22 +
    (t.mark.getD 0).toNat * 2 ^ 64)

/-- The records of ROLLCALL, kind by kind, for the contexts that a predicate picks. -/
def State.rollRecords (s : State) (pick : Nat → Bool) (everything : Bool) : List (List (List Byte)) :=
  let ctxs := (List.range 64).filter fun c => s.ctxExists c && pick c
  let tiles := (List.range 256).filter fun t => (s.tileCtx t).any pick
  let win (rx : Bool) : List (List Byte) := ((List.range 4096).filter fun n => bit (s.winEntry rx n) 0 && pick (fld (s.winEntry rx n) 1 6)).map fun n =>
    leBytes 4 (if rx then 1 else 0) ++ leBytes 4 n ++ leBytes 16 (s.winEntry rx n).toNat ++ leBytes 8 (if rx then (s.reg (offRxdc n)).toNat else 0)
  let head := s.regF offFlogHead 0 32
  let tlb (k : Nat) (l : List TlbEntry) : List (List Byte) := (l.filter fun e => pick e.ctx).map fun e => leBytes 8 k ++ e.bytes ++ leBytes 4 0
  [ ctxs.map (fun c => leBytes 4 c ++ leBytes 4 (s.mstate c) ++ leBytes 4 (s.members c).length ++ leBytes 4 (s.tilesOf c).length ++
      leBytes 8 (s.cx c cTRAPGRP).toNat ++ leBytes 8 (s.cx c cEBUDGET).toNat ++ leBytes 32 0),
    tiles.flatMap (fun t => (List.range 8).map fun q => leBytes 4 t ++ leBytes 4 q ++ leBytes 8 ((s.tile t).tqReg q).toNat),
    ((List.range 256).filter fun n => iValid (s.itin n) && pick (iCtx (s.itin n))).map (fun n => leBytes 32 (s.itin n).toNat),
    (s.entries.filter fun e => eValid e.2 && pick (eCtx e.2)).map (fun e => leBytes 64 (setFld e.2 448 64 e.1).toNat),
    ((List.range 16384).filter fun n => bit (s.reg (offCntCtl n)) 0 && pick (s.regF (offCntCtl n) 1 6)).map (fun n => leBytes 8 n ++ leBytes 8 (s.cnt n).toNat),
    win false ++ win true,
    (s.tokens.filterMap (·.2)).filterMap (fun t =>
      if everything || s.heldAll.any (fun h => pktLanding h.2.p == t.landing && pktOrigin h.2.p == t.origin && pick (s.packetCtx h.2.p))
      then some (s.tokenBytes t) else none),
    ((List.range (min head 256)).map fun i => s.reg128 (offFlog ((head - min head 256 + i) % 256))).filterMap (fun v =>
      if pick (fld v 26 6) then some (leBytes 16 v.toNat) else none),
    (s.tiles.flatMap fun e => tlb e.1 e.2.tlb) ++ s.coreTlb.flatMap (fun e => tlb (0x100 + e.1) e.2),
    (s.bindings.filter fun e => bit e.2 0 && pick (fld e.2 1 6)).map (fun e => leBytes 32 e.2.toNat) ]

/-- Whole records that fit in n bytes. -/
def wholeRecords : Nat → List (List Byte) → List Byte
  | _, [] => []
  | n, r :: rest => if n < r.length then [] else r ++ wholeRecords (n - r.length) rest

/-- ROLLCALL (R269, R442). -/
def execRollcall (f : CmdE) (s : State) : Ans :=
  ((s.cmdSrc f).bind fun q =>
    let sys := s.sysPriv s.cmdCtx
    let recs := s.rollRecords (fun c => sys || c == s.cmdCtx) sys
    let head := leBytes 4 0x4C52594B ++ leBytes 4 1 ++ leBytes 8 s.ccc.toNat ++ recs.flatMap (fun l => leBytes 4 l.length) ++ List.replicate 72 0
    let out := wholeRecords q.2.1.toNat (head :: recs.flatten)
    let full := (head.length + (recs.flatten.map List.length).sum == out.length : Bool)
    (s.writeOperand q.1 out 64).bind fun s1 =>
      .ok (s1.answer f (if full then BitVec.ofNat 64 out.length else status 2 out.length) q.1 q.2.1)).finish s

end Sys2Proof.Machine
end

