-- ==== Sys2Proof/Machine/Integer.lean ====
section
/-! DEFINITION. Integer operations of the control class: majors 0x20-0x29 and their compact forms (R336-R338, R327). -/
namespace Sys2Proof.Machine
open Sys2Proof

/-- ADD (R336). -/
def execAdd (f : Tri) (s : State) : Ans := (s.triRes f.d f.a f.b f.wa f.wb 1 4 (· + ·)).finish s

/-- SUB (R336). -/
def execSub (f : Tri) (s : State) : Ans := (s.triRes f.d f.a f.b f.wa f.wb 1 4 (· - ·)).finish s

/-- AND (R336). -/
def execAnd (f : Tri) (s : State) : Ans := (s.triRes f.d f.a f.b f.wa f.wb 1 4 (· &&& ·)).finish s

/-- OR (R336). -/
def execOr (f : Tri) (s : State) : Ans := (s.triRes f.d f.a f.b f.wa f.wb 1 4 (· ||| ·)).finish s

/-- XOR (R336). -/
def execXor (f : Tri) (s : State) : Ans := (s.triRes f.d f.a f.b f.wa f.wb 1 4 (· ^^^ ·)).finish s

/-- ANDN (R336). -/
def execAndn (f : Tri) (s : State) : Ans := (s.triRes f.d f.a f.b f.wa f.wb 1 4 (fun a b => a &&& ~~~ b)).finish s

/-- SLL (R336). -/
def execSll (f : Tri) (s : State) : Ans := (s.triRes f.d f.a f.b f.wa f.wb 1 4 aluSll).finish s

/-- SRL (R336). -/
def execSrl (f : Tri) (s : State) : Ans := (s.triRes f.d f.a f.b f.wa f.wb 1 4 aluSrl).finish s

/-- SRA (R336). -/
def execSra (f : Tri) (s : State) : Ans := (s.triRes f.d f.a f.b f.wa f.wb 1 4 aluSra).finish s

/-- MUL (R336). -/
def execMul (f : Tri) (s : State) : Ans := (s.triRes f.d f.a f.b f.wa f.wb 3 4 (· * ·)).finish s

/-- MULH (R336). -/
def execMulh (f : Tri) (s : State) : Ans := (s.triRes f.d f.a f.b f.wa f.wb 3 4 aluMulh).finish s

/-- MULHN (R336). -/
def execMulhn (f : Tri) (s : State) : Ans := (s.triRes f.d f.a f.b f.wa f.wb 3 4 aluMulhn).finish s

/-- MIN (R336). -/
def execMin (f : Tri) (s : State) : Ans := (s.triRes f.d f.a f.b f.wa f.wb 1 4 aluMin).finish s

/-- MAX (R336). -/
def execMax (f : Tri) (s : State) : Ans := (s.triRes f.d f.a f.b f.wa f.wb 1 4 aluMax).finish s

/-- MINN (R336). -/
def execMinn (f : Tri) (s : State) : Ans := (s.triRes f.d f.a f.b f.wa f.wb 1 4 aluMinn).finish s

/-- MAXN (R336). -/
def execMaxn (f : Tri) (s : State) : Ans := (s.triRes f.d f.a f.b f.wa f.wb 1 4 aluMaxn).finish s

/-- SLT (R336). -/
def execSlt (f : Tri) (s : State) : Ans := (s.triRes f.d f.a f.b f.wa f.wb 1 4 aluSlt).finish s

/-- SLTN (R336). -/
def execSltn (f : Tri) (s : State) : Ans := (s.triRes f.d f.a f.b f.wa f.wb 1 4 aluSltn).finish s

/-- SEQ (R336). -/
def execSeq (f : Tri) (s : State) : Ans := (s.triRes f.d f.a f.b f.wa f.wb 1 4 aluSeq).finish s

/-- SNE (R336). -/
def execSne (f : Tri) (s : State) : Ans := (s.triRes f.d f.a f.b f.wa f.wb 1 4 aluSne).finish s

/-- Division (R337): DIV_ZERO is raised at issue. -/
def State.divRes (s : State) (f : Tri) (op : Word → Word → Word) : Res State :=
  (s.src f.a f.wa).bind fun a => (s.src f.b f.wb).bind fun b => (s.dst f.d).bind fun _ =>
    (Res.check (b != 0) .divZero).bind fun _ => .ok ((s.fixed f.d 20 (op a b) a b).retire 4)

/-- DIV (R337). -/
def execDiv (f : Tri) (s : State) : Ans := (s.divRes f aluDiv).finish s

/-- DIVN (R337). -/
def execDivn (f : Tri) (s : State) : Ans := (s.divRes f aluDivn).finish s

/-- REM (R337). -/
def execRem (f : Tri) (s : State) : Ans := (s.divRes f aluRem).finish s

/-- REMN (R337). -/
def execRemn (f : Tri) (s : State) : Ans := (s.divRes f aluRemn).finish s

/-- SEL (R336): d is read at issue; its captured value is the result (R459). -/
def execSel (f : Tri) (s : State) : Ans :=
  ((s.src f.a f.wa).bind fun a => (s.src f.b f.wb).bind fun b => (s.src f.d).bind fun d =>
    s.valueRes f.d 1 4 (if d ≠ 0 then a else b)).finish s

/-- A form of one source, its b field a value or zero. -/
def State.oneRes (s : State) (f : Tri) (op : Word → Word) : Res State :=
  (s.src f.a f.wa).bind fun a => (s.dst f.d).bind fun _ => .ok ((s.fixed f.d 1 (op a) a (f.b.setWidth 64)).retire 4)

/-- CLZ (R336). -/
def execClz (f : Tri) (s : State) : Ans := (s.oneRes f aluClz).finish s

/-- CTZ (R336). -/
def execCtz (f : Tri) (s : State) : Ans := (s.oneRes f aluCtz).finish s

/-- POPC (R336). -/
def execPopc (f : Tri) (s : State) : Ans := (s.oneRes f aluPopc).finish s

/-- BSWAP (R336). -/
def execBswap (f : Tri) (s : State) : Ans := (s.oneRes f aluBswap).finish s

/-- SEXT (R336): p is the b field. -/
def execSext (f : Tri) (s : State) : Ans := (s.oneRes f fun a => aluSext a f.b.toNat).finish s

/-- ZEXT (R336): p is the b field. -/
def execZext (f : Tri) (s : State) : Ans := (s.oneRes f fun a => aluZext a f.b.toNat).finish s

/-- ADDI (R338). -/
def execAddi (f : ImmS) (s : State) : Ans := (s.immRes f.d f.a 4 (imm14s f.imm) (· + ·)).finish s

/-- ANDI (R338). -/
def execAndi (f : ImmS) (s : State) : Ans := (s.logicRes f.d f.a 4 (imm14s f.imm) (imm14z f.imm) (· &&& ·)).finish s

/-- ORI (R338). -/
def execOri (f : ImmS) (s : State) : Ans := (s.logicRes f.d f.a 4 (imm14s f.imm) (imm14z f.imm) (· ||| ·)).finish s

/-- XORI (R338). -/
def execXori (f : ImmS) (s : State) : Ans := (s.logicRes f.d f.a 4 (imm14s f.imm) (imm14z f.imm) (· ^^^ ·)).finish s

/-- SLLI (R338). -/
def execSlli (f : ImmS) (s : State) : Ans := (s.immRes f.d f.a 4 (imm14z f.imm) aluSll).finish s

/-- SRLI (R338). -/
def execSrli (f : ImmS) (s : State) : Ans := (s.immRes f.d f.a 4 (imm14z f.imm) aluSrl).finish s

/-- SRAI (R338). -/
def execSrai (f : ImmS) (s : State) : Ans := (s.immRes f.d f.a 4 (imm14z f.imm) aluSra).finish s

/-- SLTI (R338). -/
def execSlti (f : ImmS) (s : State) : Ans := (s.immRes f.d f.a 4 (imm14s f.imm) aluSlt).finish s

/-- SLTNI (R338). -/
def execSltni (f : ImmS) (s : State) : Ans := (s.immRes f.d f.a 4 (imm14s f.imm) aluSltn).finish s

/-- LI (R338). -/
def execLi (f : ImmW) (s : State) : Ans := (s.valueRes f.d 1 4 (imm20s f.imm)).finish s

/-- LIH (R338): d is read at issue. -/
def execLih (f : ImmW) (s : State) : Ans := ((s.src f.d).bind fun d => s.valueRes f.d 1 4 (aluLih d f.imm)).finish s

/-! ## Compact forms (R327) -/

/-- A compact register number. -/
def reg5 (x : BitVec 5) : BitVec 6 := x.setWidth 6

/-- The NOP of streams 0-2. -/
def execNopC (s : State) : Ans := .next (s.retire 2)

/-- Compact ADD x, x, y. -/
def execAddC (f : C16) (s : State) : Ans := (s.triRes (reg5 f.x) (reg5 f.x) (reg5 f.y) false false 1 2 (· + ·)).finish s

/-- Compact SUB x, x, y. -/
def execSubC (f : C16) (s : State) : Ans := (s.triRes (reg5 f.x) (reg5 f.x) (reg5 f.y) false false 1 2 (· - ·)).finish s

/-- Compact AND x, x, y. -/
def execAndC (f : C16) (s : State) : Ans := (s.triRes (reg5 f.x) (reg5 f.x) (reg5 f.y) false false 1 2 (· &&& ·)).finish s

/-- Compact OR x, x, y. -/
def execOrC (f : C16) (s : State) : Ans := (s.triRes (reg5 f.x) (reg5 f.x) (reg5 f.y) false false 1 2 (· ||| ·)).finish s

/-- Compact XOR x, x, y. -/
def execXorC (f : C16) (s : State) : Ans := (s.triRes (reg5 f.x) (reg5 f.x) (reg5 f.y) false false 1 2 (· ^^^ ·)).finish s

/-- Compact ADDI x, x, #y. -/
def execAddiC (f : C16) (s : State) : Ans := (s.immRes (reg5 f.x) (reg5 f.x) 2 (imm5s f.y) (· + ·)).finish s

/-- Compact SLLI x, x, #y. -/
def execSlliC (f : C16) (s : State) : Ans := (s.immRes (reg5 f.x) (reg5 f.x) 2 (imm5z f.y) aluSll).finish s

/-- Compact SRLI x, x, #y. -/
def execSrliC (f : C16) (s : State) : Ans := (s.immRes (reg5 f.x) (reg5 f.x) 2 (imm5z f.y) aluSrl).finish s

/-- Compact SRAI x, x, #y. -/
def execSraiC (f : C16) (s : State) : Ans := (s.immRes (reg5 f.x) (reg5 f.x) 2 (imm5z f.y) aluSra).finish s

/-- Compact LI x, #y. -/
def execLiC (f : C16) (s : State) : Ans := (s.valueRes (reg5 f.x) 1 2 (imm5s f.y)).finish s

/-- Compact ADD x, y, s0. -/
def execAddS0C (f : C16) (s : State) : Ans := (s.triRes (reg5 f.x) (reg5 f.y) 0 false false 1 2 (· + ·)).finish s

end Sys2Proof.Machine
end

