-- ==== Sys2Proof/Machine/LoadStore.lean ====
section
/-! DEFINITION. Loads, stores, spill and fill (R342-R345), with their compact forms (R327). -/
namespace Sys2Proof.Machine
open Sys2Proof

/-- LDB (R342). -/
def execLdb (f : MemF) (s : State) : Ans := (s.loadInstr f 1 true).finish s

/-- LDBZ (R342). -/
def execLdbz (f : MemF) (s : State) : Ans := (s.loadInstr f 1 false).finish s

/-- LDH (R342). -/
def execLdh (f : MemF) (s : State) : Ans := (s.loadInstr f 2 true).finish s

/-- LDHZ (R342). -/
def execLdhz (f : MemF) (s : State) : Ans := (s.loadInstr f 2 false).finish s

/-- LDW (R342). -/
def execLdw (f : MemF) (s : State) : Ans := (s.loadInstr f 4 true).finish s

/-- LDWZ (R342). -/
def execLdwz (f : MemF) (s : State) : Ans := (s.loadInstr f 4 false).finish s

/-- LDD (R342). -/
def execLdd (f : MemF) (s : State) : Ans := (s.loadInstr f 8 false).finish s

/-- STB (R342, R343). -/
def execStb (f : MemF) (s : State) : Ans := (s.storeInstr f 1).finish s

/-- STH (R342, R343). -/
def execSth (f : MemF) (s : State) : Ans := (s.storeInstr f 2).finish s

/-- STW (R342, R343). -/
def execStw (f : MemF) (s : State) : Ans := (s.storeInstr f 4).finish s

/-- STD (R342, R343). -/
def execStd (f : MemF) (s : State) : Ans := (s.storeInstr f 8).finish s

/-- FILL (R345): a load of the slot a + sext(off11). -/
def execFill (f : MemF) (s : State) : Ans :=
  (s.onTile.bind fun _ => (s.src f.a).bind fun a => s.acqHeld.bind fun _ =>
    (s.spillAddr (a + f.off.signExtend 64)).bind fun ea => s.loadRes f.d ea 8 false 4).finish s

/-- SPILL (R345): a store to the slot. -/
def execSpill (f : MemF) (s : State) : Ans :=
  (s.onTile.bind fun _ => (s.src f.a).bind fun a => (s.src f.d).bind fun v => s.acqHeld.bind fun _ =>
    (s.spillAddr (a + f.off.signExtend 64)).bind fun ea => s.storeRes ea 8 v 4).finish s

/-- Compact LDD x, y, #0. -/
def execLddC (f : C16) (s : State) : Ans :=
  ((s.src (f.y.setWidth 6)).bind fun a => s.loadRes (f.x.setWidth 6) a 8 false 2).finish s

/-- Compact STD x, y, #0. -/
def execStdC (f : C16) (s : State) : Ans :=
  ((s.src (f.y.setWidth 6)).bind fun a => (s.src (f.x.setWidth 6)).bind fun v => s.storeRes a 8 v 2).finish s

end Sys2Proof.Machine
end

