-- ==== Sys2Proof/Machine/Lanes.lean ====
section
/-! DEFINITION. The vector stream's shared operations: registers and interlocks (R382), elements and lanes (R380), predicates (R381). -/
namespace Sys2Proof.Machine
open Sys2Proof

def Tile.v (x : Tile) (r : BitVec 6) : BitVec 2048 := tget 0 x.vreg r.toNat

/-- A mask register; k0 reads all ones. -/
def Tile.k (x : Tile) (n : Nat) : Word := if n = 0 then 0xFFFFFFFFFFFFFFFF else tget 0 x.kreg n

/-- Earlier writes of the registers have been made. -/
def Tile.vReady (x : Tile) (now : Word) (vs : List Nat) (ks : List Nat) : Bool :=
  vs.all (fun r => tget 0 x.vbusy r ≤ now.toNat) && ks.all fun r => tget 0 x.kbusy r ≤ now.toNat

/-- Write a vector register, done lat cycles after issue. -/
def Tile.setV (x : Tile) (now : Word) (r : BitVec 6) (lat : Nat) (v : BitVec 2048) : Tile :=
  { x with vreg := tput 0 x.vreg r.toNat v, vbusy := tput 0 x.vbusy r.toNat (now.toNat + lat) }

/-- Write a mask register. -/
def Tile.setK (x : Tile) (now : Word) (r lat : Nat) (v : Word) : Tile :=
  if r = 0 then x else { x with kreg := tput 0 x.kreg r v, kbusy := tput 0 x.kbusy r (now.toNat + lat) }

/-- The lanes that are active (R317, R381). -/
def vLanes (f : VForm) (x : Tile) : Word :=
  if f.pv then (if f.pn then ~~~ x.k f.pk.toNat else x.k f.pk.toNat) else 0xFFFFFFFFFFFFFFFF

/-- The mask register a predicate reads. -/
def vPreds (f : VForm) : List Nat := if f.pv then [f.pk.toNat] else []

/-! ## Elements (R380) -/

/-- Element width of a type. -/
def vWidth (t : Nat) : Nat := typeBits t

def vCount (w : Nat) : Nat := 2048 / w

/-- Element e of a register. -/
def vElem (v : BitVec 2048) (w e : Nat) : Nat := fld v (w * e) w

def vList (v : BitVec 2048) (w : Nat) : List Nat := (List.range (vCount w)).map (vElem v w)

/-- Elements side by side. -/
def packNat (w : Nat) : List Nat → Nat
  | [] => 0
  | x :: xs => x % 2 ^ w + 2 ^ w * packNat w xs

def vPack (w : Nat) (l : List Nat) : BitVec 2048 := BitVec.ofNat 2048 (packNat w l)

/-- An element's lane is active. -/
def laneOf (m : Word) (w e : Nat) : Bool := m.getLsbD (w * e / 32)

/-- New elements in the active lanes, old ones elsewhere. -/
def vMerge (m : Word) (w : Nat) (old : BitVec 2048) (new : List Nat) : BitVec 2048 :=
  vPack w ((List.range (vCount w)).map fun e => if laneOf m w e then new.getD e 0 else vElem old w e)

/-! ## Issue -/

/-- The type an entry accepts; another one is FMT_MISMATCH (R383). -/
def vType (ok : Bool) : Res Unit := Res.check ok .fmtMismatch

/-- A vector instruction that writes register d, all of it given by its tile; it waits for the registers it reads and writes. -/
def State.vRes (s : State) (d : BitVec 6) (lat bytes : Nat) (reads : List (BitVec 6)) (ks : List Nat) (g : Tile → BitVec 2048) : Res State :=
  s.onTile.bind fun t =>
    let x := s.tile t
    if !x.vReady s.ccc ((d :: reads).map (·.toNat)) ks then .stall .interlock s
    else .ok ((s.setTile t (x.setV s.ccc d lat (g x))).retire bytes)

/-- An elementwise form: op of the elements of the sources, merged under the predicate (R381). -/
def State.vMap (s : State) (f : VForm) (lat : Nat) (srcs : List (BitVec 6)) (op : List Nat → Nat) : Res State :=
  let w := vWidth f.ty.toNat
  s.vRes f.d lat 8 srcs (vPreds f) fun x =>
    vMerge (vLanes f x) w (x.v f.d) ((List.range (vCount w)).map fun e => op (srcs.map fun r => vElem (x.v r) w e))

/-- A form that moves elements: the new elements from the whole sources. -/
def State.vMove (s : State) (f : VForm) (lat : Nat) (srcs : List (BitVec 6)) (op : Tile → List Nat) : Res State :=
  s.vRes f.d lat 8 srcs (vPreds f) fun x => vMerge (vLanes f x) (vWidth f.ty.toNat) (x.v f.d) (op x)

/-! ## Floating point (R384) -/

def vIsFloat (t : Nat) : Bool := t ≤ 2

/-- The integer types of R385. -/
def vIsInt (t : Nat) : Bool := t == 6 || (9 ≤ t && t ≤ 13)

/-- The 16- and 32-bit types of R388. -/
def vIsMove (t : Nat) : Bool := t ≤ 2 || (9 ≤ t && t ≤ 12)

/-- An operand element as a number, flushed under FZI. -/
def vNum (f : VForm) (v : Nat) : Num := flushIn f.fzi (decodeNum f.ty.toNat 0 v) f.ty.toNat

/-- A result rounded once. -/
def vResult (f : VForm) (x : Num) : Nat := convert x f.ty.toNat 0 f.rm.toNat f.sat f.fzo

/-- A floating-point form of its operands. -/
def State.vFloat (s : State) (f : VForm) (lat : Nat) (srcs : List (BitVec 6)) (op : List Num → Num) : Res State :=
  (vType (vIsFloat f.ty.toNat)).bind fun _ => s.vMap f lat srcs fun l => (vResult f) (op (l.map (vNum f)))

/-! ## Integers (R385) -/

/-- An element as an integer of its type. -/
def vInt (t v : Nat) : Int :=
  match intRange t with
  | some (lo, _) => if lo < 0 ∧ 2 ^ (vWidth t - 1) ≤ v then (v : Int) - 2 ^ vWidth t else v
  | none => v

/-- An exact result modulo 2^w, or clamped. -/
def vWrap (t : Nat) (sat : Bool) (z : Int) : Nat :=
  match intRange t with
  | some (lo, hi) => ((if sat then max lo (min hi z) else z) % 2 ^ vWidth t).toNat
  | none => 0

/-- An integer form of elements as bits. -/
def State.vBits (s : State) (f : VForm) (srcs : List (BitVec 6)) (lat : Nat) (op : List Nat → Nat) : Res State :=
  (vType (vIsInt f.ty.toNat)).bind fun _ => s.vMap f lat srcs op

/-- An integer form of elements as integers. -/
def State.vInts (s : State) (f : VForm) (op : Int → Int → Int) : Res State :=
  s.vBits f [f.a, f.b] 4 fun l => vWrap f.ty.toNat f.sat (op (vInt f.ty.toNat (l.getD 0 0)) (vInt f.ty.toNat (l.getD 1 0)))

/-- A shift: the amount from element e of b, or from IMM7 (R385). -/
def State.vShift (s : State) (f : VForm) (op : Nat → Nat → Nat) : Res State :=
  if f.imm.getLsbD 6 then s.vBits f [f.a] 4 fun l => op (l.getD 0 0) (fld f.imm 0 5)
  else s.vBits f [f.a, f.b] 4 fun l => op (l.getD 0 0) (l.getD 1 0)

end Sys2Proof.Machine
end

