-- ==== Sys2Proof/Machine/Vector.lean ====
section
/-! DEFINITION. Vector-class instructions (R384-R397). -/
namespace Sys2Proof.Machine
open Sys2Proof

/-- Operand i of a floating-point form. -/
def opd (l : List Num) (i : Nat) : Num := l.getD i Num.zero

/-! ## Floating point, major 0x20 (R384) -/

/-- VADD (R384). -/
def execVadd (f : VForm) (s : State) : Ans := (s.vFloat f 4 [f.a, f.b] fun l => Num.add f.rm.toNat (opd l 0) (opd l 1)).finish s

/-- VSUB (R384). -/
def execVsub (f : VForm) (s : State) : Ans := (s.vFloat f 4 [f.a, f.b] fun l => Num.sub f.rm.toNat (opd l 0) (opd l 1)).finish s

/-- VMUL (R384). -/
def execVmul (f : VForm) (s : State) : Ans := (s.vFloat f 4 [f.a, f.b] fun l => Num.mul (opd l 0) (opd l 1)).finish s

/-- VFMA (R384, R303): one rounding of a b + c. -/
def execVfma (f : VForm) (s : State) : Ans :=
  (s.vFloat f 4 [f.a, f.b, f.c] fun l => Num.add f.rm.toNat (Num.mul (opd l 0) (opd l 1)) (opd l 2)).finish s

/-- VFMS (R384): a b - c. -/
def execVfms (f : VForm) (s : State) : Ans :=
  (s.vFloat f 4 [f.a, f.b, f.c] fun l => Num.sub f.rm.toNat (Num.mul (opd l 0) (opd l 1)) (opd l 2)).finish s

/-- VFNMA (R384): c - a b. -/
def execVfnma (f : VForm) (s : State) : Ans :=
  (s.vFloat f 4 [f.a, f.b, f.c] fun l => Num.sub f.rm.toNat (opd l 2) (Num.mul (opd l 0) (opd l 1))).finish s

/-- VMAX (R384): NaN wins, and +0 is above -0. -/
def execVmax (f : VForm) (s : State) : Ans := (s.vFloat f 4 [f.a, f.b] fun l => Num.max (opd l 0) (opd l 1)).finish s

/-- VMIN (R384). -/
def execVmin (f : VForm) (s : State) : Ans := (s.vFloat f 4 [f.a, f.b] fun l => Num.min (opd l 0) (opd l 1)).finish s

/-- VABS (R384). -/
def execVabs (f : VForm) (s : State) : Ans := (s.vFloat f 4 [f.a] fun l => (opd l 0).abs).finish s

/-- VNEG (R384). -/
def execVneg (f : VForm) (s : State) : Ans := (s.vFloat f 4 [f.a] fun l => (opd l 0).negate).finish s

/-- VRCP (R384, R303). -/
def execVrcp (f : VForm) (s : State) : Ans := (s.vFloat f 12 [f.a] fun l => (opd l 0).rcp).finish s

/-- VRSQRT (R384, R303). -/
def execVrsqrt (f : VForm) (s : State) : Ans := (s.vFloat f 12 [f.a] fun l => (opd l 0).rsqrt).finish s

/-- VSQRT (R384, R303). -/
def execVsqrt (f : VForm) (s : State) : Ans := (s.vFloat f 20 [f.a] fun l => (opd l 0).sqrt).finish s

/-- VEXP2 (R384, R303). -/
def execVexp2 (f : VForm) (s : State) : Ans := (s.vFloat f 12 [f.a] fun l => (opd l 0).exp2).finish s

/-- VLOG2 (R384, R303). -/
def execVlog2 (f : VForm) (s : State) : Ans := (s.vFloat f 12 [f.a] fun l => (opd l 0).log2).finish s

/-- VDIV (R384, R303). -/
def execVdiv (f : VForm) (s : State) : Ans := (s.vFloat f 20 [f.a, f.b] fun l => Num.div (opd l 0) (opd l 1)).finish s

/-! ## Integer, major 0x21 (R385) -/

/-- VADDI (R385). -/
def execVaddi (f : VForm) (s : State) : Ans := (s.vInts f (· + ·)).finish s

/-- VSUBI (R385). -/
def execVsubi (f : VForm) (s : State) : Ans := (s.vInts f (· - ·)).finish s

/-- VMULI (R385). -/
def execVmuli (f : VForm) (s : State) : Ans := (s.vInts f (· * ·)).finish s

/-- VAND (R385). -/
def execVand (f : VForm) (s : State) : Ans := (s.vBits f [f.a, f.b] 2 fun l => Nat.land (l.getD 0 0) (l.getD 1 0)).finish s

/-- VOR (R385). -/
def execVor (f : VForm) (s : State) : Ans := (s.vBits f [f.a, f.b] 2 fun l => Nat.lor (l.getD 0 0) (l.getD 1 0)).finish s

/-- VXOR (R385). -/
def execVxor (f : VForm) (s : State) : Ans := (s.vBits f [f.a, f.b] 2 fun l => Nat.xor (l.getD 0 0) (l.getD 1 0)).finish s

/-- VNOT (R385). -/
def execVnot (f : VForm) (s : State) : Ans :=
  (s.vBits f [f.a] 2 fun l => 2 ^ vWidth f.ty.toNat - 1 - l.getD 0 0).finish s

/-- VSHL (R385). -/
def execVshl (f : VForm) (s : State) : Ans :=
  (s.vShift f fun a m => if vWidth f.ty.toNat ≤ m then 0 else a * 2 ^ m % 2 ^ vWidth f.ty.toNat).finish s

/-- VSHR (R385). -/
def execVshr (f : VForm) (s : State) : Ans := (s.vShift f fun a m => if vWidth f.ty.toNat ≤ m then 0 else a / 2 ^ m).finish s

/-- VSRA (R385): a is read signed. -/
def execVsra (f : VForm) (s : State) : Ans :=
  (s.vShift f fun a m =>
    let w := vWidth f.ty.toNat
    let z : Int := if 2 ^ (w - 1) ≤ a then (a : Int) - 2 ^ w else a
    (z / 2 ^ min m w % 2 ^ w).toNat).finish s

/-- VMAXI (R385). -/
def execVmaxi (f : VForm) (s : State) : Ans := (s.vInts f max).finish s

/-- VMINI (R385). -/
def execVmini (f : VForm) (s : State) : Ans := (s.vInts f min).finish s

/-! ## Compare, select and data movement, major 0x22 (R386-R388) -/

/-- A condition of VCMP on two values, by their order and whether either is a NaN. -/
def vCond (c : Nat) (nan lt eq : Bool) : Bool :=
  match c with
  | 0 => !nan && eq
  | 1 => nan || !eq
  | 2 => !nan && lt
  | 3 => !nan && (lt || eq)
  | 4 => !nan && !lt && !eq
  | 5 => !nan && !lt
  | 6 => nan
  | _ => !nan

/-- The condition on two elements. -/
def vCompare (f : VForm) (a b : Nat) : Bool :=
  let c := fld f.imm 0 3
  if vIsFloat f.ty.toNat then
    let x := (vNum f) a
    let y := (vNum f) b
    vCond c (x.isNan || y.isNan) (x.lt y) (x.eq y)
  else vCond c false (decide (vInt f.ty.toNat a < vInt f.ty.toNat b)) (a == b)

/-- VCMP (R386): the elements of d, and the named mask. -/
def execVcmp (f : VForm) (s : State) : Ans :=
  ((vType (vIsFloat f.ty.toNat || vIsInt f.ty.toNat)).bind fun _ => s.onTile.bind fun t =>
    let x := s.tile t
    let kd := fld f.imm 3 4
    if !x.vReady s.ccc [f.d.toNat, f.a.toNat, f.b.toNat] (kd :: (vPreds f)) then .stall .interlock s
    else
      let w := vWidth f.ty.toNat
      let m := vLanes f x
      let holds := (List.range (vCount w)).map fun e => (vCompare f) (vElem (x.v f.a) w e) (vElem (x.v f.b) w e)
      let per := 32 / w
      let bits := (List.range 64).map fun l => if m.getLsbD l && (List.range per).all (fun i => holds.getD (l * per + i) false) then 1 else 0
      let y := x.setV s.ccc f.d 4 (vMerge m w (x.v f.d) (holds.map fun h => if h then 2 ^ w - 1 else 0))
      .ok ((s.setTile t (y.setK s.ccc kd 4 (BitVec.ofNat 64 (packNat 1 bits)))).retire 8)).finish s

/-- VSEL (R387). -/
def execVsel (f : VForm) (s : State) : Ans :=
  (s.vRes f.d 2 8 [f.a, f.b] (vPreds f) fun x =>
    let w := vWidth f.ty.toNat
    vMerge (vLanes f x) w (x.v f.b) (vList (x.v f.a) w)).finish s

/-- VMOV (R387): a register, or with IMM7 = 1 the element numbers. -/
def execVmov (f : VForm) (s : State) : Ans :=
  ((vType (f.imm == 0 || vIsInt f.ty.toNat)).bind fun _ =>
    let w := vWidth f.ty.toNat
    if f.imm = 0 then s.vMove f 2 [f.a] fun x => vList (x.v f.a) w
    else s.vMove f 2 [] fun _ => (List.range (vCount w)).map (· % 2 ^ w)).finish s

/-- Compact VMOV x, y (R327). -/
def execVmovC (f : C16) (s : State) : Ans :=
  (s.vRes (f.x.setWidth 6) 2 2 [f.y.setWidth 6] [] fun x => x.v (f.y.setWidth 6)).finish s

/-- A form of R388 that moves elements of a. -/
def State.vElems (s : State) (f : VForm) (srcs : List (BitVec 6)) (op : Nat → (Nat → Nat) → (Nat → Nat) → List Nat) : Res State :=
  (vType (vIsMove f.ty.toNat)).bind fun _ =>
    let w := vWidth f.ty.toNat
    s.vMove f 2 srcs fun x => op (vCount w) (vElem (x.v f.a) w) (vElem (x.v f.b) w)

/-- VBCAST (R388). -/
def execVbcast (f : VForm) (s : State) : Ans :=
  (s.vElems f [f.a] fun n a _ => List.replicate n (a f.imm.toNat)).finish s

/-- VINS (R388): only element e of d changes. -/
def execVins (f : VForm) (s : State) : Ans :=
  ((vType (vIsMove f.ty.toNat)).bind fun _ =>
    let w := vWidth f.ty.toNat
    s.vMove f 2 [f.a] fun x => (vList (x.v f.d) w).set f.imm.toNat (vElem (x.v f.a) w 0)).finish s

/-- VEXT (R388). -/
def execVext (f : VForm) (s : State) : Ans :=
  (s.vElems f [f.a] fun n a _ => a f.imm.toNat :: List.replicate (n - 1) 0).finish s

/-- VPERM (R388). -/
def execVperm (f : VForm) (s : State) : Ans :=
  (s.vElems f [f.a, f.b] fun n a b => (List.range n).map fun i => a (b i % n)).finish s

/-- VSHUF (R388): modes 0 and 1 interleave, 2 and 3 separate. -/
def execVshuf (f : VForm) (s : State) : Ans :=
  (s.vElems f [f.a, f.b] fun n a b =>
    let h := n / 2
    let m := f.imm.toNat
    if m < 2 then (List.range h).flatMap fun i => [a (m * h + i), b (m * h + i)]
    else ((List.range h).map fun i => a (2 * i + (m - 2))) ++ (List.range h).map fun i => b (2 * i + (m - 2))).finish s

/-- VROT (R388). -/
def execVrot (f : VForm) (s : State) : Ans :=
  (s.vElems f [f.a] fun n a _ => (List.range n).map fun i => a ((i + f.imm.toNat) % n)).finish s

/-! ## Reductions (R389, R304) -/

/-- The types of VRED and VSCAN. -/
def vIsReduce (t : Nat) : Bool := t ≤ 1 || t == 9 || t == 11

/-- One node of a floating-point reduction. -/
def vNode (f : VForm) (a b : Nat) : Nat :=
  let x := decodeNum f.ty.toNat 0 a
  let y := decodeNum f.ty.toNat 0 b
  convert (match fld f.imm 0 2 with
    | 0 => Num.add f.rm.toNat x y
    | 1 => Num.max x y
    | _ => Num.min x y) f.ty.toNat 0 f.rm.toNat false f.fzo

/-- A leaf: flushed under FZI, a NaN canonical. -/
def vLeaf (f : VForm) (a : Nat) : Nat := roundTo ((vNum f) a) f.ty.toNat 0 f.rm.toNat

/-- Join neighbours once; none is EMPTY. -/
def treeLevel (op : Nat → Nat → Nat) : List (Option Nat) → List (Option Nat)
  | some a :: some b :: r => some (op a b) :: treeLevel op r
  | some a :: none :: r => some a :: treeLevel op r
  | none :: b :: r => b :: treeLevel op r
  | l => l

/-- The tree of R304, level by level. -/
def treeOf (op : Nat → Nat → Nat) : Nat → List (Option Nat) → Option Nat
  | 0, l => l.headD none
  | n + 1, l => treeOf op n (treeLevel op l)

/-- The result of a reduction with no active element (R389). -/
def vEmpty (f : VForm) : Nat :=
  let t := f.ty.toNat
  match fld f.imm 0 2 with
  | 0 => 0
  | 1 => if vIsFloat t then signed t true (infCode t) else vWrap t false ((intRange t).getD (0, 0)).1
  | _ => if vIsFloat t then infCode t else vWrap t false ((intRange t).getD (0, 0)).2

/-- An integer reduction of two exact values. -/
def vIntOp (f : VForm) (a b : Int) : Int :=
  match fld f.imm 0 2 with
  | 0 => a + b
  | 1 => max a b
  | _ => min a b

/-- VRED (R389). -/
def execVred (f : VForm) (s : State) : Ans :=
  ((vType (vIsReduce f.ty.toNat)).bind fun _ =>
    let t := f.ty.toNat
    let w := vWidth t
    s.vRes f.d 12 8 [f.a] (vPreds f) fun x =>
      let m := vLanes f x
      let act := (List.range (vCount w)).map fun e => if laneOf m w e then some (vElem (x.v f.a) w e) else none
      let r :=
        if vIsFloat t then (treeOf (vNode f) 7 (act.map fun o => o.map (vLeaf f))).getD (vEmpty f)
        else match (act.filterMap id).map (vInt t) with
          | [] => (vEmpty f)
          | z :: zs => vWrap t f.sat (zs.foldl (vIntOp f) z)
      vPack w (r :: List.replicate (vCount w - 1) 0)).finish s

/-- The running results of a scan; the accumulator is none before the first active element. -/
def scanFrom {α : Type} (op : α → α → α) : Option α → List (Option α) → List (Option α)
  | _, [] => []
  | acc, none :: r => acc :: scanFrom op acc r
  | none, some v :: r => some v :: scanFrom op (some v) r
  | some a, some v :: r => some (op a v) :: scanFrom op (some (op a v)) r

/-- VSCAN (R389, R304): elements before the first active one are zero. -/
def execVscan (f : VForm) (s : State) : Ans :=
  ((vType (vIsReduce f.ty.toNat)).bind fun _ =>
    let t := f.ty.toNat
    let w := vWidth t
    s.vRes f.d 16 8 [f.a] (vPreds f) fun x =>
      let m := vLanes f x
      let act := (List.range (vCount w)).map fun e => if laneOf m w e then some (vElem (x.v f.a) w e) else none
      vPack w (if vIsFloat t then (scanFrom (vNode f) none (act.map fun o => o.map (vLeaf f))).map (·.getD 0)
        else (scanFrom (vIntOp f) none (act.map fun o => o.map (vInt t))).map fun o => (o.map (vWrap t f.sat)).getD 0)).finish s

/-! ## Conversions (R390-R394) -/

/-- The slice a conversion names is below the ratio of the widths. -/
def sliceOk (w w2 h : Nat) : Res Unit := Res.check (decide (h < max (w / w2) (w2 / w))) .rsvField

/-- Write a slice of n elements from element lo of d, merged under the predicate. -/
def vSlice (m : Word) (w lo : Nat) (old : BitVec 2048) (new : List Nat) : BitVec 2048 :=
  vPack w ((List.range (vCount w)).map fun e =>
    if lo ≤ e && e < lo + new.length && laneOf m w e then new.getD (e - lo) 0 else vElem old w e)

/-- A conversion (R390): cv gives the element written from its source element and its index in the narrower register. -/
def State.vConvert (s : State) (f : VForm) (h : Nat) (reads : List (BitVec 6)) (cv : Tile → Nat → Nat → Nat) : Res State :=
  let w := vWidth f.ty.toNat
  let w2 := vWidth f.ty2.toNat
  (sliceOk w w2 h).bind fun _ =>
    s.vRes f.d 4 8 reads (vPreds f) fun x =>
      let n := vCount (max w w2)
      if w ≤ w2 then vSlice (vLanes f x) w (h * n) (x.v f.d) ((List.range n).map fun e => cv x (vElem (x.v f.a) w2 e) (h * n + e))
      else vMerge (vLanes f x) w (x.v f.d) ((List.range n).map fun e => cv x (vElem (x.v f.a) w2 (h * n + e)) (h * n + e))

/-- VCVT (R391). -/
def execVcvt (f : VForm) (s : State) : Ans :=
  ((vType (f.ty != 8 && f.ty2 != 8)).bind fun _ =>
    s.vConvert f (fld f.imm 0 3) [f.a] fun _ v _ =>
      (vResult f) (flushIn f.fzi (decodeNum f.ty2.toNat 0 v) f.ty2.toNat)).finish s

/-- Block size, scale format and slice of IMM7 (R392). -/
def vBlock (f : VForm) : Nat := blockSize (fld f.imm 0 2)
def vSfmt (f : VForm) : Nat := fld f.imm 2 2
def vSliceNo (f : VForm) : Nat := fld f.imm 4 3

/-- Element formats that block scales serve. -/
def vIsScaled (t : Nat) : Bool := 3 ≤ t && t ≤ 8

/-- The codes of a scale format's positive finite values, ascending: the first and the last. -/
def scaleCodes (sfmt : Nat) : Nat × Nat := match sfmt with | 0 => (0, 62) | 1 => (0, 254) | 2 => (1, 0x7B) | _ => (1, 0x7E)

def scaleNan (sfmt : Nat) : Nat := match sfmt with | 0 => 63 | 1 => 0xFF | 2 => 0x7E | _ => 0x7F

/-- qmax of R392. -/
def scaleMax (t codeType : Nat) : Nat :=
  match t with
  | 3 => 448 | 4 => 57344 | 5 => 6 | 6 => 127 | 7 => 7
  | _ => match codeType with | 0 => 7 | 1 => 6 | 2 => 8 | _ => 12

/-- The scale of a block of elements (R392). -/
def blockScale (sfmt t codeType : Nat) (l : List Num) : Nat :=
  let amax := l.foldl (fun m x => Num.max m x.abs) Num.zero
  let (lo, hi) := scaleCodes sfmt
  if amax.isNan || amax.isInf then scaleNan sfmt
  else if amax.isZero then lo
  else (firstBelow (fun c => !(Num.mul (decodeScale sfmt c) (.ofInt (scaleMax t codeType))).lt amax) (hi + 1 - lo) lo).getD hi

/-- VSCALE (R392): the predicate selects which elements enter; every byte of the range is written. -/
def execVscale (f : VForm) (s : State) : Ans :=
  ((vType (vIsScaled f.ty.toNat && f.ty2.toNat ≤ 1 && (f.ty != 8 || (vSfmt f) == 0))).bind fun _ =>
    let w2 := vWidth f.ty2.toNat
    (sliceOk (vWidth f.ty.toNat) w2 (vSliceNo f)).bind fun _ =>
    s.vRes f.d 6 8 [f.a] (vPreds f) fun x =>
      let m := vLanes f x
      let n := vCount w2
      let b := (vBlock f)
      let ct := if f.ty = 8 then f.rm.toNat else 0
      let bytes := (List.range (n / b)).map fun j =>
        let l := (List.range b).filterMap fun i =>
          if laneOf m w2 (j * b + i) then some (decodeNum f.ty2.toNat 0 (vElem (x.v f.a) w2 (j * b + i))) else none
        blockScale (vSfmt f) f.ty.toNat ct l + (if (vSfmt f) = 0 then ct * 64 else 0)
      vSlice 0xFFFFFFFFFFFFFFFF 8 ((vSliceNo f) * (n / b)) (x.v f.d) bytes).finish s

/-- VQUANT (R393). -/
def execVquant (f : VForm) (s : State) : Ans :=
  ((vType (vIsScaled f.ty.toNat && f.ty2.toNat ≤ 1 && (f.ty != 8 || (vSfmt f) == 0))).bind fun _ =>
    s.vConvert f (vSliceNo f) [f.a, f.b] fun x v i =>
      let byte := vElem (x.v f.b) 8 (i / (vBlock f))
      convert (Num.div (flushIn f.fzi (decodeNum f.ty2.toNat 0 v) f.ty2.toNat) (decodeScale (vSfmt f) byte)) f.ty.toNat (byte / 64) f.rm.toNat
        f.sat f.fzo).finish s

/-- VDEQUANT (R394). -/
def execVdequant (f : VForm) (s : State) : Ans :=
  ((vType (f.ty.toNat ≤ 1 && vIsScaled f.ty2.toNat && (f.ty2 != 8 || (vSfmt f) == 0))).bind fun _ =>
    s.vConvert f (vSliceNo f) [f.a, f.b] fun x v i =>
      let byte := vElem (x.v f.b) 8 (i / (vBlock f))
      (vResult f) (Num.mul (flushIn f.fzi (decodeNum f.ty2.toNat (byte / 64) v) f.ty2.toNat) (decodeScale (vSfmt f) byte))).finish s

/-! ## Conditional streams, major 0x24 (R395, R240) -/

def Tile.cbuf (x : Tile) (n : Nat) : CondBuf := tget CondBuf.idle x.cb n
def Tile.setCbuf (x : Tile) (n : Nat) (b : CondBuf) : Tile := { x with cb := tput CondBuf.idle x.cb n b }

/-- The types of the conditional forms that move data. -/
def vIsCond (t : Nat) : Bool := t == 0 || t == 9 || t == 11

/-- CPUSH (R395, R240). -/
def execCpush (f : VForm) (s : State) : Ans :=
  ((vType (vIsCond f.ty.toNat)).bind fun _ => s.onTile.bind fun t =>
    let x := s.tile t
    if !x.vReady s.ccc [f.a.toNat] (vPreds f) then .stall .interlock s
    else
      let m := vLanes f x
      let vals := (List.range 64).filterMap fun l => if m.getLsbD l then some (BitVec.ofNat 32 (vElem (x.v f.a) 32 l)) else none
      let b := x.cbuf f.d.toNat
      (Res.check (b.recs.length + vals.length ≤ 4096) .queueOver).bind fun _ =>
        .ok ((s.setTile t (x.setCbuf f.d.toNat { recs := b.recs ++ vals, closed := false })).retire 8)).finish s

/-- CPOP (R395, R240). -/
def execCpop (f : VForm) (s : State) : Ans :=
  ((vType (vIsCond f.ty.toNat)).bind fun _ => s.onTile.bind fun t =>
    let x := s.tile t
    let kd := fld f.imm 0 4
    if !x.vReady s.ccc [f.d.toNat] [kd] then .stall .interlock s
    else
      let b := x.cbuf f.a.toNat
      let n := min 64 b.recs.length
      (Res.check (n == 64 || b.closed) .queueUnder).bind fun _ =>
        let y := x.setCbuf f.a.toNat { recs := b.recs.drop n, closed := b.closed && n == 64 }
        let z := y.setV s.ccc f.d 4 (vPack 32 ((b.recs.take n).map (·.toNat)))
        .ok ((s.setTile t (z.setK s.ccc kd 4 (BitVec.ofNat 64 (2 ^ n - 1)))).retire 8)).finish s

/-- CBAL (R395, R240). -/
def execCbal (f : VForm) (s : State) : Ans :=
  ((vType (f.ty == 0)).bind fun _ => s.onTile.bind fun t =>
    .ok ((s.modTile t fun x => x.setCbuf f.d.toNat { x.cbuf f.d.toNat with closed := true }).retire 8)).finish s

/-! ## Masks, major 0x25 (R396) -/

/-- A mask form. -/
def State.maskRes (s : State) (f : VForm) (reads : List (BitVec 6)) (op : Word → Word → Word) : Res State :=
  s.onTile.bind fun t =>
    let x := s.tile t
    if !x.vReady s.ccc [] ((f.d :: reads).map (·.toNat)) then .stall .interlock s
    else .ok ((s.setTile t (x.setK s.ccc f.d.toNat 2 (op (x.k f.a.toNat) (x.k f.b.toNat)))).retire 8)

/-- KAND (R396). -/
def execKand (f : VForm) (s : State) : Ans := (s.maskRes f [f.a, f.b] (· &&& ·)).finish s

/-- KOR (R396). -/
def execKor (f : VForm) (s : State) : Ans := (s.maskRes f [f.a, f.b] (· ||| ·)).finish s

/-- KXOR (R396). -/
def execKxor (f : VForm) (s : State) : Ans := (s.maskRes f [f.a, f.b] (· ^^^ ·)).finish s

/-- KNOT (R396). -/
def execKnot (f : VForm) (s : State) : Ans := (s.maskRes f [f.a] fun a _ => ~~~ a).finish s

/-- KPOP (R396): 2^p - 1 for the p set bits of a. -/
def execKpop (f : VForm) (s : State) : Ans :=
  (s.maskRes f [f.a] fun a _ => BitVec.ofNat 64 (2 ^ (List.range 64).countP (fun i => a.getLsbD i) - 1)).finish s

/-- KMOV (R396). -/
def execKmov (f : VForm) (s : State) : Ans := (s.maskRes f [f.a] fun a _ => a).finish s

/-! ## Operand queues, major 0x26 (R397) -/

/-- VPOP (R397). -/
def execVpop (f : VForm) (s : State) : Ans :=
  (s.onTile.bind fun t =>
    let x := s.tile t
    let q := f.a.toNat
    if !x.vReady s.ccc [f.d.toNat] (vPreds f) then .stall .interlock s
    else match (x.oqueue q).ents with
      | [] => .stall (.queueEmpty q) s
      | e :: _ =>
        .ok ((s.setTile t ((x.popOq q).setV s.ccc f.d 1 (vMerge (vLanes f x) 32 (x.v f.d) (vList e 32)))).retire 8)).finish s

/-- VPUSH (R397). -/
def execVpush (f : VForm) (s : State) : Ans :=
  (s.onTile.bind fun t =>
    let x := s.tile t
    let q := f.d.toNat
    if !x.vReady s.ccc [f.a.toNat] [] then .stall .interlock s
    else if 16 ≤ (x.oqueue q).used then .stall (.queueFull q) s
    else .ok ((s.setTile t (x.pushOq q (x.v f.a))).retire 8)).finish s

end Sys2Proof.Machine
end

