-- ==== Sys2Proof/Machine/Matrix.lean ====
section
/-! DEFINITION. Matrix-class instructions (R398-R415): stamps and energy (R241-R245), units and rows (R400), multiply,
Hadamard, quantise, drains, and the entries and rows that move after issue. -/
namespace Sys2Proof.Machine
open Sys2Proof

/-! ## Units, rows, planes, slots and queues (R400) -/

def overlaps (a n b m : Nat) : Bool := decide (a < b + m) && decide (b < a + n)

def MatJob.isMma : MatJob → Bool
  | .mma .. => true
  | _ => false

/-- The rows a job still holds. -/
def MatRun.rows (r : MatRun) : Nat × Nat :=
  match r.job with
  | .mma _ _ row _ _ _ _ _ _ => (row, r.left)
  | .maccld _ row pos => (row, (pos + r.left + 1) / 2)
  | .mwld .. => (0, 0)

/-- The queues a job still pops. -/
def MatJob.queues (j : MatJob) : List Nat :=
  match j with
  | .mwld q _ _ _ => [q]
  | .mma q scaled _ _ _ _ _ _ _ => if scaled then [4, 5] else [q]
  | .maccld q _ _ => [q]

def Matrix.arrayIdle (m : Matrix) (now : Nat) : Bool := decide (m.arrayFree ≤ now) && m.runs.all fun r => !r.job.isMma

def Matrix.epiIdle (m : Matrix) (now : Nat) : Bool := decide (m.epiFree ≤ now) && m.drains.isEmpty

/-- Rows are free; an MMA may follow an MMA onto rows still being written (R400). -/
def Matrix.rowsIdle (m : Matrix) (now r0 n : Nat) (mma : Bool) : Bool :=
  (List.range n).all (fun i => tget 0 m.rowFree (r0 + i) ≤ now || (mma && m.rowMma.contains (r0 + i))) &&
    m.runs.all (fun r => !overlaps r.rows.1 r.rows.2 r0 n) && m.drains.all fun d => !overlaps d.r0 d.rows r0 n

def Matrix.planeIdle (m : Matrix) (now p : Nat) : Bool :=
  decide (tget 0 m.planeFree p ≤ now) && m.runs.all fun r => match r.job with
    | .mma _ _ _ _ q _ _ _ _ => q != p
    | _ => true

def Matrix.slotsIdle (m : Matrix) (now : Nat) (l : List Nat) : Bool :=
  l.all fun k => decide (tget 0 m.slotFree k ≤ now) && m.runs.all fun r => match r.job with
    | .mwld _ _ slot n => !(decide (slot ≤ k) && decide (k < slot + n))
    | _ => true

/-- Hold rows until a cycle. -/
def Matrix.holdRows (m : Matrix) (r0 n until' : Nat) (mma : Bool) : Matrix :=
  let rows := (List.range n).map (r0 + ·)
  { m with rowFree := rows.foldl (fun f r => tput 0 f r until') m.rowFree
           rowMma := (m.rowMma.filter fun r => !rows.contains r) ++ (if mma then rows else []) }

def Matrix.holdSlots (m : Matrix) (l : List Nat) (until' : Nat) : Matrix :=
  { m with slotFree := l.foldl (fun f k => tput 0 f k until') m.slotFree }

def Matrix.plane (m : Matrix) (p : Nat) : Plane := tget Plane.idle m.planes p

def Tile.modMx (x : Tile) (f : Matrix → Matrix) : Tile := { x with mx := f x.mx }

/-- The head entry of a queue the matrix stream consumes; earlier instructions pop first. -/
def State.matHead (s : State) (t q : Nat) : Res (BitVec 2048) :=
  let x := s.tile t
  if x.mx.runs.any (fun r => r.job.queues.contains q) then .stall (.queueEmpty q) s
  else match (x.oqueue q).ents with
    | e :: _ => .ok e
    | [] => .stall (.queueEmpty q) s

/-- Not ready until what it needs is free. -/
def State.free (s : State) (ok : Bool) : Res Unit := if ok then .ok () else .stall .notReady s

/-! ## Stamps and energy (R242, R244, R245) -/

/-- The context's matrix instructions debit its budget. -/
def State.debits (s : State) (c : Nat) : Bool := bit (s.cx c cENERGY) 0 || s.pkg.limiting

/-- The stamp registers after an instruction issues now. -/
def Matrix.stamped (m : Matrix) (now : Word) (dt : BitVec 8) (free : Bool) : Matrix :=
  let p' := m.p + dt.setWidth 64
  if dt = 0 then { m with p := now, run := false }
  else if free then { m with p := now }
  else { m with p := now, smiss := if m.run && !m.strict && p' < now then BitVec.ofNat 32 (satAdd 0xFFFFFFFF m.smiss.toNat 1) else m.smiss }

/-- A matrix instruction at its issue opportunity: its stamp, its predicate, its debit, and then what it does; go gets the
tile, whether the instruction runs or is suppressed (R401), and the state in which it issues. One whose scheduled cycle lies at or
before the cycle in which the stream reached it is not ready in that cycle (R402). -/
def State.matrixIssue (s : State) (dt : BitVec 8) (ec : BitVec 2) (pv pn : Bool) (pk : BitVec 4)
    (go : Nat → Bool → State → Res State) : Ans :=
  match s.cur with
  | .stream t _ =>
    let x := s.tile t
    let m := x.mx
    let free := (s.strm s.cur).free
    let p' := m.p + dt.setWidth 64
    let reach := (s.strm s.cur).reached.getD s.ccc
    let c := s.ctxOfTile t
    let debit := if s.debits c then 2 ^ ec.toNat else 0
    let units := s.cxF c cEBUDGET 0 32
    let issue : Res State :=
      if pv && m.drains.any (fun d => d.tag == some pk.toNat) then .stall .notReady s
      else if units < debit then .stall .notReady s
      else go t (!x.suppressed pv pn pk) ((s.setRegF (offCtx c cEBUDGET) 0 32 (units - debit)).modTile t fun y =>
        y.modMx fun k => k.stamped s.ccc dt free)
    let missed : Ans := .next ((s.modTile t fun y => y.modMx fun k => { k with p := p' }).raise .schedMiss)
    let waits (w : Stall) : Ans := .next ((s.modStrm s.cur fun st => { st with reached := some reach }).stalled w)
    let whenReady : Ans := match issue with
      | .stall w _ => waits w
      | r => r.finish s
    if dt = 0 || free || (!m.strict && !m.run) then whenReady
    else if m.strict && !m.run then .next (s.raise .schedMiss)
    else if s.ccc < p' then waits .notReady
    else if m.strict then
      if p' < s.ccc || p' ≤ reach then missed
      else match issue with
        | .stall _ _ => missed
        | r => r.finish s
    else if p' = s.ccc && p' ≤ reach then waits .notReady
    else whenReady
  | _ => .next (s.raise .streamClass)

/-- The common case of layout M. -/
def State.matrixM (s : State) (f : MForm) (go : Nat → Bool → State → Res State) : Ans := s.matrixIssue f.dt f.ec f.pv f.pn f.pk go

/-- Row range of d and C (R398). -/
def mRow (f : MForm) : Nat := 8 * f.d.toNat
def mRows (f : MForm) : Nat := 8 * (f.c.toNat + 1)
def mRowsOk (f : MForm) : Res Unit := Res.check (mRow f + mRows f ≤ 512) .accRange

/-! ## Major 0x20 (R402-R405) -/

/-- MNOP (R402). -/
def execMnop (f : MForm) (s : State) : Ans := s.matrixM f fun _ _ s1 => .ok (s1.retire 8)

/-- The compact MNOP (R327, R399). -/
def execMnopC (f : MnopC) (s : State) : Ans := s.matrixIssue f.dt 0 false false 0 fun _ _ s1 => .ok (s1.retire 2)

/-- Open a stamp run at a cycle. -/
def State.openRun (s : State) (t : Nat) (p : Nat) : State :=
  s.modTile t fun x => x.modMx fun m => { m with p := BitVec.ofNat 64 p, run := true }

/-- MSTAMP (R402). -/
def execMstamp (f : MForm) (s : State) : Ans :=
  s.matrixM f fun t _ s1 => .ok ((s1.openRun t (s.ccc.toNat + (64 * f.a.toNat + f.b.toNat))).retire 8)

/-- MSTAMP.AL (R402). -/
def execMstampAl (f : MForm) (s : State) : Ans :=
  s.matrixM f fun t _ s1 =>
    .ok ((s1.openRun t ((s.ccc.toNat / 2 ^ f.a.toNat + 1) * 2 ^ f.a.toNat + f.b.toNat)).retire 8)

/-- MMODE (R402). -/
def execMmode (f : MForm) (s : State) : Ans :=
  s.matrixM f fun t _ s1 => .ok ((s1.modTile t fun x => x.modMx fun m => { m with strict := f.d = 1 }).retire 8)

/-- MWAIT (R402): takes n from a flag, or waits for the earlier drains. -/
def execMwait (f : MForm) (s : State) : Ans :=
  s.matrixM f fun t _ s1 =>
    if f.b = 0 then (s1.free ((s1.tile t).mx.epiIdle s1.ccc.toNat)).bind fun _ => .ok (s1.retire 8)
    else if ((s1.tile t).flag f.d.toNat).toNat < f.b.toNat then .stall (.flag f.d.toNat) s
    else
      (s1.flagReserve 3 t f.d.toNat).bind fun s2 =>
        match s2.flagTake 3 t f.d.toNat f.b.toNat with
        | some s3 => .ok (s3.retire 8)
        | none => .stall (.flag f.d.toNat) s

/-- Set a tensor scale. -/
def Matrix.setScale (m : Matrix) (w : Bool) (v : BitVec 16) : Matrix := if w then { m with tb := v } else { m with ta := v }

/-- MTSCALE (R403). -/
def execMtscale (f : MForm) (s : State) : Ans :=
  s.matrixM f fun t act s1 =>
    let v := BitVec.ofNat 16 (f.a.toNat * 2 ^ 10 + f.b.toNat * 2 ^ 4 + f.c.toNat % 16)
    .ok ((if act then s1.modTile t fun x => x.modMx fun m => m.setScale (f.d = 1) v else s1).retire 8)

/-- MTSCALE.Q (R403): pops one entry. -/
def execMtscaleQ (f : MForm) (s : State) : Ans :=
  s.matrixM f fun t act s1 =>
    let q := 4 + f.a.toNat
    (s1.matHead t q).bind fun e =>
      .ok ((s1.modTile t fun x =>
        let y := x.popOq q
        if act then y.modMx fun m => m.setScale (f.d = 3) (e.setWidth 16) else y).retire 8)

/-- MNSTAT (R404): clears nst entries once the earlier drains that name them have completed. -/
def execMnstat (f : MForm) (s : State) : Ans :=
  s.matrixM f fun t act s1 =>
    let tags := (List.range f.a.toNat).map (f.d.toNat + ·)
    (s1.free ((s1.tile t).mx.drains.all fun d => match d.tag with
      | some k => !tags.contains k
      | none => true)).bind fun _ =>
      .ok ((if act then s1.modTile t fun x => { x with nst := tags.foldl (fun n k => tput 0 n k 0) x.nst } else s1).retire 8)

/-- MROUTE (R405, R167): a refused write still consumes its entry. -/
def execMroute (f : MForm) (s : State) : Ans :=
  s.matrixM f fun t act s1 =>
    let q := 4 + f.a.toNat
    (s1.matHead t q).bind fun e =>
      let v : BitVec 128 := e.setWidth 128
      let s2 := s1.modTile t fun x => x.popOq q
      let refused := s.modTile t fun x => x.popOq q
      if fld v 24 40 ≠ 0 || fld v 104 24 ≠ 0 then .ok (refused.raise .rsvField)
      else if bit v 0 && !s.isMember (s.ctxOfTile t) (fld v 1 10) then .ok (refused.raise .perm)
      else .ok ((if act then s2.modTile t fun x => x.modMx fun m => { m with mxrt := v } else s2).retire 8)

/-! ## Jobs: one entry or row a cycle (R407, R410, R414) -/

/-- One output element of an MMA row (R305, R306): the sums of the blocks, each rounded once into the accumulator. -/
def mmaElem (img : Mem) (ty blk sfmt ku : Nat) (ea es : BitVec 2048) (j : Nat) (acc : BitVec 32) : BitVec 32 :=
  let h := imgHead img
  let w := typeBits ty
  let bl := if blk ≠ 0 then blockSize blk else if imgBlk h ≠ 0 then blockSize (imgBlk h) else 32
  let one : Num := .fin false 1 0
  (List.range (ku / bl)).foldl (fun acc b =>
    let sa := fld es (8 * b) 8
    let p := Num.sumAll ((List.range bl).map fun i =>
      let k := b * bl + i
      Num.mul (decodeNum ty (sa / 64) (fld ea (w * k) w)) (planeNum img k j))
    let va := if blk = 0 then one else decodeScale sfmt sa
    let vb := if imgBlk h = 0 then one else decodeScale (imgSfmt h) (imgScale img b j)
    BitVec.ofNat 32 (roundTo (Num.add 0 (decodeNum 0 0 acc.toNat) (Num.mul (Num.mul va vb) p)) 0 0 0)) acc

/-- One row of an MMA or MMAZ. -/
def mmaRow (acc : Tab (BitVec 32)) (img : Mem) (ty blk sfmt ku row : Nat) (zero : Bool) (ea es : BitVec 2048) : Tab (BitVec 32) :=
  (List.range 128).foldl (fun a j =>
    let i := 128 * row + j
    tput 0 a i (mmaElem img ty blk sfmt ku ea es j (if zero then 0 else tget 0 a i))) acc

/-- The entries of this cycle, when they are all present; they leave their queues. -/
def Tile.takeEntries (x : Tile) (qs : List Nat) : Option (List (BitVec 2048) × Tile) :=
  let es := qs.filterMap fun q => (x.oqueue q).ents.head?
  if es.length = qs.length then some (es, qs.foldl (fun y q => y.popOq q) x) else none

/-- A job takes its next entry or row in a cycle, or waits (R235, R410). -/
def Tile.runStep (x : Tile) (now : Nat) (r : MatRun) : Option MatRun × Tile :=
  match x.takeEntries r.job.queues with
  | none => (some r, x)
  | some (es, y) =>
    let e := es.headD 0
    let last := r.left ≤ 1
    match r.job with
    | .mwld q addr slot n =>
      let y1 := if r.act then y.modMx fun m => { m with wb := mwrites m.wb addr (leBytes 256 e.toNat) } else y
      if last then (none, y1.modMx fun m => m.holdSlots ((List.range n).map (slot + ·)) (now + 1))
      else (some { r with job := .mwld q (addr + 256) slot n, left := r.left - 1 }, y1)
    | .mma q scaled row ku p ty blk sfmt zero =>
      let y1 := y.modMx fun m =>
        let m1 := if r.act then { m with acc := mmaRow m.acc (m.plane p).img ty blk sfmt ku row zero e (es.getD 1 0) } else m
        m1.holdRows row 1 (now + 13) true
      if last then (none, y1.modMx fun m => { m with arrayFree := now + 1, planeFree := tput 0 m.planeFree p (now + 1) })
      else (some { r with job := .mma q scaled (row + 1) ku p ty blk sfmt zero, left := r.left - 1 }, y1)
    | .maccld q row pos =>
      let y1 := if r.act then y.modMx fun m =>
          { m with acc := (List.range 64).foldl (fun a j =>
              tput 0 a (128 * (row + pos / 2) + 64 * (pos % 2) + j) (BitVec.ofNat 32 (fld e (32 * j) 32))) m.acc } else y
      if last then (none, y1.modMx fun m => m.holdRows row ((pos + 1) / 2) (now + 1) false)
      else (some { r with job := .maccld q row (pos + 1), left := r.left - 1 }, y1)

/-- The jobs of a tile at the end of a cycle: each that issued before it takes its entry. -/
def Tile.matrixCycle (x : Tile) (now : Nat) : Tile :=
  x.mx.runs.foldl (fun y r =>
    if r.born < now then
      let p := (y.modMx fun m => { m with runs := m.runs.filter fun q => q.born != r.born }).runStep now r
      p.2.modMx fun m => { m with runs := m.runs ++ p.1.toList }
    else y) x

/-- A job issues: it takes its first entry now. -/
def State.startRun (s : State) (t : Nat) (r : MatRun) : Res State :=
  let now := s.ccc.toNat
  let x := s.tile t
  if x.mx.runs.any (fun k => k.job.queues.any fun q => r.job.queues.contains q) then .stall .notReady s
  else match x.takeEntries r.job.queues with
    | none => .stall (.queueEmpty (r.job.queues.headD 4)) s
    | some _ =>
      let p := x.runStep now r
      .ok ((s.setTile t (p.2.modMx fun m => { m with runs := m.runs ++ p.1.toList })).retire 8)

/-! ## Major 0x21 (R406-R408) -/

/-- MWLD (R407). -/
def execMwld (f : MForm) (s : State) : Ans :=
  s.matrixM f fun t act s1 =>
    let slot := f.d.toNat
    let n := 64 * f.c.toNat + f.b.toNat
    let slots := slotsOf slot (256 * n)
    (Res.check (4096 * slot + 256 * n ≤ 262144) .wbFull).bind fun _ =>
    (s1.free ((s1.tile t).mx.slotsIdle s1.ccc.toNat slots)).bind fun _ =>
      let s2 := if act then s1.modTile t fun x => x.modMx fun m => m.touch (4096 * slot) (4096 * slot + 256 * n) else s1
      s2.startRun t { job := .mwld (4 + f.a.toNat) (4096 * slot) slot slots.length, left := n, act := act, born := s.ccc.toNat }

/-- MWSEL (R408). -/
def execMwsel (f : MForm) (s : State) : Ans :=
  s.matrixM f fun t act s1 =>
    let m := (s1.tile t).mx
    let now := s1.ccc.toNat
    let slot := f.d.toNat
    let p := f.a.toNat
    let img := imgAt m.wb slot
    let slots := slotsOf slot (imgLen (imgHead img))
    (s1.free (decide (m.loadFree ≤ now) && m.planeIdle now p && m.slotsIdle now [slot])).bind fun _ =>
    (Res.check (!imgBad img slot) .wbDecomp).bind fun _ =>
    (s1.free (m.slotsIdle now slots)).bind fun _ =>
      .ok ((s1.modTile t fun x => x.modMx fun m =>
        let m1 := if act then { m with planes := tput Plane.idle m.planes p (planeOf m.wb slot true) } else m
        { m1.holdSlots slots (now + 64) with loadFree := now + 64, planeFree := tput 0 m1.planeFree p (now + 64) }).retire 8)

/-! ## Major 0x22 (R409-R412) -/

/-- Formats that multiply with one another. -/
def mmaGroup (t : Nat) : Nat := match t with | 1 => 1 | 3 | 4 => 2 | 6 => 3 | 5 | 7 | 8 => 4 | _ => 0

/-- MMA and MMAZ (R409, R410). -/
def State.mma (s : State) (f : MForm) (zero : Bool) : Ans :=
  s.matrixM f fun t act s1 =>
    let m := (s1.tile t).mx
    let now := s1.ccc.toNat
    let o := f.a.toNat
    let p := nfld o 0 1
    let blk := nfld o 2 2
    let sfmt := nfld o 4 2
    let ty := f.ty.toNat
    (mRowsOk f).bind fun _ =>
    (s1.free (m.arrayIdle now && m.planeIdle now p && m.rowsIdle now (mRow f) (mRows f) true)).bind fun _ =>
      let pl := m.plane p
      let h := imgHead pl.img
      let kt := depth (imgFmt h)
      let ku := if f.b = 0 then kt else 32 * f.b.toNat
      (Res.check pl.valid .wbDecomp).bind fun _ =>
      (Res.check (ku ≤ kt) .rsvField).bind fun _ =>
      (Res.check (mmaGroup ty != 0 && mmaGroup ty == mmaGroup (imgFmt h)) .fmtMismatch).bind fun _ =>
      (Res.check (!(blk != 0 && (ty == 1 || ty == 6)) && !(ty == 8 && (blk == 0 || sfmt != 0)) &&
        !(blk != 0 && imgBlk h != 0 && blk != imgBlk h)) .fmtMismatch).bind fun _ =>
      (Res.check (!(blk != 0 && nfld o 1 1 == 1)) .rsvField).bind fun _ =>
        s1.startRun t { job := .mma (4 + nfld o 1 1) (decide (blk ≠ 0)) (mRow f) ku p ty blk sfmt zero, left := mRows f, act := act, born := now }

/-- MMA (R409, R410). -/
def execMma (f : MForm) (s : State) : Ans := s.mma f false

/-- MMAZ (R409, R410). -/
def execMmaz (f : MForm) (s : State) : Ans := s.mma f true

/-- The Hadamard transform of a group, as codes of a format (R308). -/
def hadamard (t rm : Nat) (xs : List Num) : List Nat :=
  let n := xs.length
  let k : Int := if n = 64 then 3 else 2
  if xs.any Num.isNan then List.replicate n (canonicalNan t)
  else (List.range n).map fun i =>
    let terms := (List.range n).map fun j =>
      let x := xs.getD j Num.zero
      if (List.range 6).countP (fun b => (i &&& j).testBit b) % 2 = 1 then x.negate else x
    let y := match Num.sumAll terms with
      | .fin s 0 e => .fin (s || rm == 2) 0 e
      | .fin s m e => .fin s m (e - k)
      | z => z
    roundTo y t 0 rm

/-- A function of groups of n elements applied along a list. -/
def groupwise {α β : Type} (n : Nat) (g : List α → List β) : Nat → List α → List β
  | 0, _ => []
  | fuel + 1, l => if l.isEmpty then [] else g (l.take n) ++ groupwise n g fuel (l.drop n)

/-- The transform of accumulator rows along their columns. -/
def Matrix.hadRows (m : Matrix) (r0 rows n rm : Nat) : Matrix :=
  { m with acc := (List.range rows).foldl (fun a i =>
      let base := 128 * (r0 + i)
      let ys := groupwise n (hadamard 0 rm) 8 ((List.range 128).map fun j => decodeNum 0 0 (tget 0 a (base + j)).toNat)
      (List.range 128).foldl (fun a j => tput 0 a (base + j) (BitVec.ofNat 32 (ys.getD j 0))) a) m.acc }

/-- The transform of a plane's columns, into the plane and its image. -/
def Matrix.hadPlane (m : Matrix) (p n rm : Nat) : Matrix :=
  let pl := m.plane p
  let t := imgFmt (imgHead pl.img)
  let kt := depth t
  let wb := typeBits t / 8
  let cells := (List.range 128).flatMap fun j =>
    let ys := groupwise n (hadamard t rm) 16 ((List.range kt).map fun k => planeNum pl.img k j)
    (List.range kt).map fun k => (64 + 128 * wb * k + wb * j, leBytes wb (ys.getD k 0))
  { m with
    planes := tput Plane.idle m.planes p { pl with img := cells.foldl (fun g c => mwrites g c.1 c.2) pl.img }
    wb := cells.foldl (fun g c => mwrites g (4096 * pl.slot + c.1) c.2) m.wb }

/-- MHAD (R411). -/
def execMhad (f : MForm) (s : State) : Ans :=
  s.matrixM f fun t act s1 =>
    let m := (s1.tile t).mx
    let now := s1.ccc.toNat
    let n := 2 ^ f.b.toNat
    (Res.check (4 ≤ f.b.toNat && f.b.toNat ≤ 6) .hadamardSize).bind fun _ =>
    if f.a = 0 then
      (mRowsOk f).bind fun _ => (Res.check (f.ty == 0) .fmtMismatch).bind fun _ =>
      (s1.free (m.rowsIdle now (mRow f) (mRows f) false)).bind fun _ =>
        .ok ((s1.modTile t fun x => x.modMx fun m =>
          (if act then m.hadRows (mRow f) (mRows f) n f.rm.toNat else m).holdRows (mRow f) (mRows f) (now + mRows f + 8) false).retire 8)
    else
      let p := nfld f.a.toNat 1 1
      let pl := m.plane p
      let h := imgHead pl.img
      let slots := slotsOf pl.slot (imgLen h)
      (s1.free (m.arrayIdle now && m.planeIdle now p)).bind fun _ =>
      (Res.check pl.valid .wbDecomp).bind fun _ =>
      (Res.check (f.ty.toNat == imgFmt h && (f.ty == 1 || f.ty == 3 || f.ty == 4) && imgBlk h == 0 && imgCmp h == 0) .fmtMismatch).bind fun _ =>
      (s1.free (m.slotsIdle now slots)).bind fun _ =>
        .ok ((s1.modTile t fun x => x.modMx fun m =>
          let m1 := if act then m.hadPlane p n f.rm.toNat else m
          { m1.holdSlots slots (now + 64) with arrayFree := now + 64, planeFree := tput 0 m1.planeFree p (now + 64) }).retire 8)

/-- An accumulator element under the tensor scales, exact (R307). -/
def Matrix.scaledAcc (m : Matrix) (i j : Nat) : Num :=
  Num.mul (decodeNum 0 0 (tget 0 m.acc (128 * i + j)).toNat) (Num.mul (decodeNum 1 0 m.ta.toNat) (decodeNum 1 0 m.tb.toNat))

/-- The weight image of an MQUANT (R412). -/
def Matrix.quantImage (m : Matrix) (r0 rows ty blk sfmt qt rm : Nat) (sat fzo : Bool) : List Byte :=
  let kt := depth ty
  let w := typeBits ty
  let b := blockSize blk
  let x (k j : Nat) : Num := if k < rows then m.scaledAcc (r0 + k) j else Num.zero
  let scales : List (List Nat) := if blk = 0 then [] else
    (List.range (kt / b)).map fun kb => (List.range 128).map fun j => blockScale sfmt ty qt ((List.range b).map fun i => x (kb * b + i) j)
  let code (k j : Nat) : Nat :=
    let v := if blk = 0 then x k j else Num.div (x k j) (decodeScale sfmt ((scales.getD (k / b) []).getD j 0))
    convert v ty qt rm sat fzo
  leBytes 64 (ty + blk * 2 ^ 4 + sfmt * 2 ^ 6 + 0x4D57 * 2 ^ 16) ++
    ((List.range kt).flatMap fun k => leBytes (16 * w) (packNat w ((List.range 128).map (code k)))) ++
    scales.flatMap fun r => r.map fun v => BitVec.ofNat 8 (v + (if sfmt = 0 then qt * 64 else 0))

/-- MQUANT (R412). -/
def execMquant (f : MForm) (s : State) : Ans :=
  s.matrixM f fun t act s1 =>
    let m := (s1.tile t).mx
    let now := s1.ccc.toNat
    let slot := f.a.toNat
    let blk := nfld f.b.toNat 0 2
    let sfmt := nfld f.b.toNat 2 2
    let qt := nfld f.b.toNat 4 2
    let ty := f.ty.toNat
    let rows := mRows f
    let len := 64 + 16384 + (if blk = 0 then 0 else 128 * (depth ty / blockSize blk))
    let slots := slotsOf slot len
    (mRowsOk f).bind fun _ =>
    (Res.check (wFormat ty && !(blk != 0 && ty == 1) && !(ty == 8 && (blk == 0 || sfmt != 0)) && decide (rows ≤ depth ty) &&
      (blk == 0 || rows % blockSize blk == 0)) .fmtMismatch).bind fun _ =>
    (Res.check (4096 * slot + len ≤ 262144) .wbFull).bind fun _ =>
    (s1.free (m.epiIdle now && m.rowsIdle now (mRow f) rows false && m.slotsIdle now slots)).bind fun _ =>
      .ok ((s1.modTile t fun x => x.modMx fun m =>
        let m1 := if act then
            { m.touch (4096 * slot) (4096 * slot + len) with
              wb := mwrites m.wb (4096 * slot) (m.quantImage (mRow f) rows ty blk sfmt qt f.rm.toNat f.sat f.fzo) } else m
        { (m1.holdSlots slots (now + rows + 16)).holdRows (mRow f) rows (now + rows + 16) false with epiFree := now + rows + 16 }).retire 8)

/-! ## Major 0x23 (R413, R414) -/

/-- A drained value (R307); FP32 under a product of one and rne keeps the bits of a NaN. -/
def Matrix.drainValue (m : Matrix) (ty rm : Nat) (sat fzo : Bool) (i j : Nat) : Nat :=
  let raw := (tget 0 m.acc (128 * i + j)).toNat
  let k := Num.mul (decodeNum 1 0 m.ta.toNat) (decodeNum 1 0 m.tb.toNat)
  if ty = 0 && rm = 0 && (decodeNum 0 0 raw).isNan && Num.eq k (.fin false 1 0) then raw
  else convert (m.scaledAcc i j) ty 0 rm sat fzo

/-- The values of a drain, row by row. -/
def Matrix.drainRows (m : Matrix) (f : MForm) : List (List Nat) :=
  (List.range (mRows f)).map fun i => (List.range 128).map fun j => m.drainValue f.ty.toNat f.rm.toNat f.sat f.fzo (mRow f + i) j

/-- Types a drain writes. -/
def drainType (t : Nat) : Bool := t ≤ 4 || t == 6 || t == 9

/-- N and I of a drain's values (R311). -/
def drainStatus (ty : Nat) (rows : List (List Nat)) : BitVec 2 :=
  let any (p : Num → Bool) : Bool := isFloat ty && rows.any fun r => r.any fun v => p (decodeNum ty 0 v)
  BitVec.ofNat 2 ((if any Num.isNan then 1 else 0) + (if any Num.isInf then 2 else 0))

/-- The lines of a kind-0 destination entry (R413), in row order. -/
def spadRows (t off stride : Nat) (rows : List (List Byte)) : List (List Seg) :=
  (List.range rows.length).flatMap fun i => (List.range ((rows.getD i []).length / 64)).map fun k =>
    let at' := off + stride * i + 64 * k
    [{ akind := 0, addr := spadAddr t at', pa := at', len := 64, data := ((rows.getD i []).drop (64 * k)).take 64, keepLow := false, keepHigh := false,
       src := [] }]

/-- The checks of a kind-0 entry (R413): its offset and stride. -/
def spadEntry (e : BitVec 2048) (rows rb : Nat) : Res (Nat × Nat) :=
  let off := fld e 0 21
  let stride := fld e 24 24
  (Res.check (fld e 21 3 == 0 && fld e 48 16 == 0 && off % 64 == 0 && stride % 64 == 0 && decide (off + stride * (rows - 1) + rb ≤ 2 ^ 21)) .rsvField).bind
    fun _ => .ok (off, stride)

/-- A drain leaves: the space of its records is reserved (R456), and its rows and the epilogue are held until it completes. A drain that is
suppressed, or routed, has as many lines that write nothing here. -/
def State.startDrain (s : State) (t : Nat) (d : Drain) (lines : Nat) : Res State :=
  let c := s.ctxOfTile t
  let horizon := match d.route with
    | some (chip, _, _) => if chip = s.chip || s.playing c then 0 else 24
    | none => 0
  let segs := d.lines.flatten
  let logged := if d.act then (if d.shadow then 0 else segsBytes segs) + horizon else 0
  (s.reserveRing 3 c (16 + logged) ((segs.map (·.addr)).headD 0)).bind fun s1 =>
    let d1 := { d with lines := if d.act && d.route.isNone then d.lines else List.replicate lines [], due := s.ccc.toNat + 4, win := s.winOf 3 t c }
    .ok ((s1.modTile t fun x => x.modMx fun m =>
      { m with drains := m.drains ++ [d1], rowMma := m.rowMma.filter fun r => !overlaps r 1 d.r0 d.rows }).retire 8)

/-- The elements of a drained row in a tensor, in ranges (R107), for each 64-byte line of the row. -/
def tensorRow (d : BitVec 512) (w : Nat) (c : List Nat) (i : Nat) (vals : List Nat) : List (List Run) :=
  let per := 512 / w
  (List.range ((vals.length + per - 1) / per)).map fun k =>
    joinRuns 131072 (((List.range vals.length).drop (per * k)).take per |>.map fun j =>
      (tdNibble d (tdIndex d (match c with
        | a :: b :: rest => (a + j) :: (b + i) :: rest
        | l => l)), nibbles w (vals.getD j 0)))

/-- The ranges of each line, each with the next place. -/
def dealSegs (f : Run × Nat → Seg) : List (List Run) → List Nat → List (List Seg)
  | [], _ => []
  | l :: rest, pas => (l.zip pas).map f :: dealSegs f rest (pas.drop l.length)

/-- A tensor destination of a drain (R413): the checks, then the ranges of each line with their places. -/
def State.drainTensor (s : State) (t : Nat) (shadow act : Bool) (f : MForm) (e : BitVec 2048) (rows : List (List Nat)) : Res (List (List Seg)) :=
  let ctx := s.ctxOfTile t
  let id := fld e 0 8
  let c := (List.range 8).map fun i => fld e (64 + 32 * i) 32
  (Res.check (fld e 8 56 == 0) .rsvField).bind fun _ =>
  (s.tensorUse ctx (BitVec.ofNat 64 id)).bind fun d =>
    let info := BitVec.ofNat 64 id
    let far := (List.range (tdDims d)).any fun i =>
      decide (tdExt d i ≤ c.getD i 0 + (if i = 0 then 127 else if i = 1 then mRows f - 1 else 0))
    (Res.check (decide (1 ≤ tdNdm1 d) && (!shadow || tdShv d) && !far) .tensorDesc info).bind fun _ =>
    (Res.check (tdFmt d == f.ty.toNat && tdBlk d == 0) .fmtMismatch info).bind fun _ =>
    if !act then .ok []
    else
      let runs := (List.range rows.length).flatMap fun i => tensorRow d (tdBits d) (c.take (tdDims d)) i (rows.getD i [])
      let places := runs.flatten.map fun r => r.1 / 2
      (s.chunkPlaces (tdTable d shadow) false info places).bind fun _ =>
      (s.chunkPlaces (tdTable d shadow) true info places).bind fun pas =>
        .ok (dealSegs (fun p => runSeg 2 (tensorAddr id (tdXp d)) (fun _ => p.2) p.1) runs pas)

/-- MDRAIN (R413). -/
def execMdrain (f : MForm) (s : State) : Ans :=
  s.matrixM f fun t act s1 =>
    let m := (s1.tile t).mx
    let now := s1.ccc.toNat
    let kind := nfld f.a.toNat 4 2
    let ty := f.ty.toNat
    let rb := 16 * typeBits ty
    let n := mRows f
    let lines := n * rb / 64
    (mRowsOk f).bind fun _ => (Res.check (drainType ty) .fmtMismatch).bind fun _ =>
    (s1.free (m.epiIdle now && m.rowsIdle now (mRow f) n false)).bind fun _ =>
      let vals := m.drainRows f
      let bytes := vals.map fun r => leBytes rb (packNat (typeBits ty) r)
      let base : Drain :=
        { r0 := mRow f, rows := n, lines := [], shadow := kind == 2, tensor := none, tag := some (nfld f.a.toNat 0 4), status := drainStatus ty vals,
          flag := f.b.toNat, route := none, data := [], due := 0, act := act, win := 0 }
      if kind = 3 then
        let r := m.mxrt
        (Res.check (bit r 0) .rsvField).bind fun _ =>
          let off := fld r 64 40
          let s2 := if bit r 23 && act then s1.modTile t fun x => x.modMx fun m => { m with mxrt := setFld r 64 40 (off + n * rb) } else s1
          s2.startDrain t { base with route := some (fld r 1 10, fld r 11 12, off), data := bytes.flatten } lines
      else
        (s1.matHead t 5).bind fun e =>
          let s2 := s1.modTile t fun x => x.popOq 5
          if kind = 0 then
            (spadEntry e n rb).bind fun p => s2.startDrain t { base with lines := if act then spadRows t p.1 p.2 bytes else [] } lines
          else
            (s1.drainTensor t (kind == 2) act f e vals).bind fun segs => s2.startDrain t { base with lines := segs, tensor := some (fld e 0 8) } lines

/-- MACCLD (R414): raw bits into rows, half a row an entry. -/
def execMaccld (f : MForm) (s : State) : Ans :=
  s.matrixM f fun t act s1 =>
    (mRowsOk f).bind fun _ =>
    (s1.free ((s1.tile t).mx.rowsIdle s1.ccc.toNat (mRow f) (mRows f) false)).bind fun _ =>
      s1.startRun t { job := .maccld (4 + f.a.toNat) (mRow f) 0, left := 2 * mRows f, act := act, born := s.ccc.toNat }

/-- MACCST (R414): raw bits of rows, as a kind-0 drain of 512-byte rows. -/
def execMaccst (f : MForm) (s : State) : Ans :=
  s.matrixM f fun t act s1 =>
    let m := (s1.tile t).mx
    let n := mRows f
    (mRowsOk f).bind fun _ =>
    (s1.free (m.epiIdle s1.ccc.toNat && m.rowsIdle s1.ccc.toNat (mRow f) n false)).bind fun _ =>
    (s1.matHead t 5).bind fun e => (spadEntry e n 512).bind fun p =>
      let rows := (List.range n).map fun i => (List.range 128).flatMap fun j => leBytes 4 (tget 0 m.acc (128 * (mRow f + i) + j)).toNat
      (s1.modTile t fun x => x.popOq 5).startDrain t
        { r0 := mRow f, rows := n, lines := if act then spadRows t p.1 p.2 rows else [], shadow := false, tensor := none, tag := none, status := 0,
          flag := f.b.toNat, route := none, data := [], due := 0, act := act, win := 0 } (8 * n)

/-- MZERO (R414). -/
def execMzero (f : MForm) (s : State) : Ans :=
  s.matrixM f fun t act s1 =>
    (mRowsOk f).bind fun _ =>
    (s1.free ((s1.tile t).mx.rowsIdle s1.ccc.toNat (mRow f) (mRows f) false)).bind fun _ =>
      .ok ((s1.modTile t fun x => x.modMx fun m =>
        let m1 := if act then { m with acc := m.acc.filter fun e => !overlaps (e.1 / 128) 1 (mRow f) (mRows f) } else m
        m1.holdRows (mRow f) (mRows f) (s.ccc.toNat + mRows f / 8) false).retire 8)

/-! ## Lines and completion of a drain (R311, R413) -/

/-- The ranges of a drain's line are written, with their records first. -/
def State.drainSegs (s : State) (t : Nat) (d : Drain) (l : List Seg) : State :=
  l.foldl (fun s g =>
    let s1 := if d.shadow then s else s.takeBuffer t (16 + 8 * coverWords g.pa g.len)
    s1.segPut 3 t (s.ctxOfTile t) d.win false (!d.shadow) g) s

/-- A routed drain's packets leave with its last line, after their HORIZON record (R167, R277). -/
def State.drainSends (s : State) (t : Nat) (d : Drain) : State :=
  let c := s.ctxOfTile t
  match d.route with
  | some (chip, rxw, off) =>
    let own := chip == s.chip || s.playing c
    let s1 := if own then s else (s.takeBuffer t 24).horizon 3 t c 7 chip (tget 0 s.pseqOut chip) d.data.length
    let f : Sender := { who := some (.stream t 3), run := s.runOf (.stream t 3), firing := none, ctx := c, order := s.nextId, win := d.win }
    (packetPieces (d.data.length / 4096 + 1) off d.data).foldl (fun s p => (s.sendRst f 16 chip rxw p.1 none p.2).2) { s1 with nextId := s1.nextId + 1 }
  | none => s

/-- The drain whose next line may be written now: not before its cycle, nor in a range of the scoreboard (R120), and an HBM line not while the
tile has 128 HBM writes outstanding (R203). -/
def State.drainNext (s : State) (t : Nat) : Option (Drain × List Seg) :=
  match (s.tile t).mx.drains with
  | [] => none
  | d :: _ => match d.lines with
    | [] => none
    | l :: _ =>
      let blocked := l.any fun g => if g.akind = 0 then (s.tile t).boardHit g.pa g.len true else decide (128 ≤ s.writesOut (.stream t 3))
      if s.ccc.toNat < d.due || blocked then none else some (d, l)

/-- A drain's next line has been written, one a cycle. -/
def State.drainAdvance (s : State) (t : Nat) : State :=
  s.modTile t fun x => x.modMx fun m => { m with drains := match m.drains with
    | d :: rest => { d with lines := d.lines.drop 1, due := s.ccc.toNat + 1 } :: rest
    | [] => [] }

/-- A line that needs no bank is written in its cycle. -/
def State.drainCycle (s : State) (t : Nat) : State :=
  match s.drainNext t with
  | some (d, l) => if l.any fun g => g.akind == 0 then s else (s.drainSegs t d l).drainAdvance t
  | none => s

/-- DRAIN_COMPLETE (R413): in the cycle in which the last line is written, the nst entry is set, and the flag is signalled. -/
def execDrainComplete (tile n : Nat) (s : State) : Ans :=
  let x := s.tile tile
  match x.mx.drains[n]? with
  | none => .next s
  | some d =>
    let now := s.ccc.toNat
    if !d.lines.isEmpty then .next s
    else
      let s1 := if d.act then s.drainSends tile d else s
      let s2 := s1.modTile tile fun y =>
        let z := y.modMx fun m => { m.holdRows d.r0 d.rows (now + 1) false with epiFree := now + 1, drains := m.drains.eraseIdx n }
        match d.tag with
        | some k => if d.act then { z with nst := tput 0 z.nst k (tget 0 z.nst k ||| d.status.setWidth 3 ||| 4) } else z
        | none => z
      .next (((s2.takeBuffer tile 16).flagAdd 3 tile d.flag).frameIfQuiet tile 3)

end Sys2Proof.Machine
end

