-- ==== Sys2Proof/Machine/Publish.lean ====
section
/-! DEFINITION. PUBLISH (R150, R348): the exchange of a tensor's visible and shadow tables. -/
namespace Sys2Proof.Machine
open Sys2Proof

/-- A shadow write of a tensor on the chip has not retired: a copy's or a drain's; those of a collective with SH count until its decision has been
carried out (R178; log entry 121). -/
def State.shadowWriting (s : State) (ctx id : Nat) : Bool :=
  (s.allCopies.any fun c => c.ctx == ctx && cpDsh c.desc && !cpDk c.desc && cpDtid c.desc == id) ||
  (s.tiles.any fun e => e.2.mx.drains.any fun d => d.shadow && d.tensor == some id && s.ctxOfTile e.1 == ctx) ||
  s.colls.any fun e => e.2.run.any fun r => r.c.ctx == ctx && r.c.sh && r.c.written.contains id

/-- An operation that fixed a tensor's CTAB has not retired. A collective fixes none: each of its accesses uses the table of that moment. -/
def State.tableInUse (s : State) (ctx id : Nat) : Bool :=
  (s.tiles.any fun e => s.ctxOfTile e.1 == ctx &&
    ((e.2.oq.any fun q => q.2.loads.any fun l => l.tensor == some id) || e.2.mx.drains.any fun d => !d.shadow && d.tensor == some id)) ||
  (s.stores.any fun e => e.ctx == ctx && e.tensor == some id) ||
  s.allCopies.any fun c => c.ctx == ctx &&
    ((cpSk c.desc == 0 && cpStid c.desc == id) || (!cpDk c.desc && cpDtid c.desc == id && !cpDsh c.desc))

/-- Steps 4 and 5: the exchange with its record, and the release of SOBJ; their space is reserved. -/
def State.publishNow (s : State) (src tile ctx id : Nat) (obj : Option Nat) : State :=
  let d := s.tensor ctx id
  let r : UndoRec :=
    { rtype := 5, akind := 0, atom := false, tile := if src ≥ 5 then 0 else tile, src := src, win := s.winOf src tile ctx,
      addr := BitVec.ofNat 64 id, old := [], inBuf := decide (src < 5) }
  let s1 := (s.record ctx r []).setTensor ctx id (tdExchange d)
  match obj with
  | some pa => s1.releaseObject src tile ctx (s.winOf src tile ctx) (tdSobj d) pa
  | none => s1

/-- PUBLISH (R150): steps 1 and 2; the stream stalls until the last step. -/
def execPublish (f : Tri) (s : State) : Ans :=
  let w := s.cur
  let c := s.ctxOf w
  (s.acqHeld.bind fun _ =>
    if (s.strm w).counted then (if s.pubs.any (fun p => p.who == some w) then .stall .publish s else .ok (s.retire 4))
    else
      (s.src f.a f.wa).bind fun a => (s.tensorUse c a).bind fun d =>
      (Res.check (tdShv d) .tensorDesc a).bind fun _ =>
      (Res.check (!s.shadowWriting c a.toNat) .publishConflict a).bind fun _ =>
      (if tdSobj d = 0 then .ok s else (s.reach w (tdSobj d) true).bind fun r =>
        (Res.check (objEvent r.2.1 || (s.holds w r.2.1 && !s.releasing w (tdSobj d))) .relNotHeld (tdSobj d)).bind fun _ => .ok r.2.2).bind fun s1 =>
        let s2 : State := { s1 with pubs := s1.pubs ++ [{ who := some w, engine := none, ctx := c, tensor := a.toNat }] }
        .stall .publish (s2.modStrm w fun st => { st with counted := true })).finish s

/-- PUBLISH_EXCHANGE (R150): once the operations on the old table and the party's earlier writes are done. -/
def execPublishExchange (who : Who) (s : State) : Ans :=
  match s.pubs.find? (fun p => p.who == some who) with
  | none => .next s
  | some p =>
    let obj := if tdSobj (s.tensor p.ctx p.tensor) = 0 then none else s.objectAt p.ctx (tdSobj (s.tensor p.ctx p.tensor))
    if s.tableInUse p.ctx p.tensor || s.storesBefore who s.nextId ||
        (tdSobj (s.tensor p.ctx p.tensor) != 0 && s.rangeMoves p.ctx (tdSobj (s.tensor p.ctx p.tensor)) 64) then .next s
    else match s.reserveLen who.src who.undoTile p.ctx (16 + (obj.map fun _ => 40).getD 0) 0 with
      | .ok s1 =>
        let s2 := s1.publishNow who.src who.undoTile p.ctx p.tensor (obj.map (·.1))
        .next (State.forgetLock { s2 with pubs := s2.pubs.erase p } who (tdSobj (s.tensor p.ctx p.tensor)))
      | _ => .next s

end Sys2Proof.Machine
end

