-- ==== Sys2Proof/Machine/Dispatch.lean ====
section
/-! DEFINITION. One arm per constructor of Instr: a direct call of its meaning, or a rejection by name. -/
namespace Sys2Proof.Machine
open Sys2Proof

/-- The effect of an instruction, step word or event on the package. -/
def exec (i : Instr) (s : State) : Host.Outcome State Fault Refusal :=
  match i with
  | .packageReset => Sys2Proof.Machine.execPackageReset s
  | .resetNRelease b => Sys2Proof.Machine.execResetNRelease b s
  | .thermalHot die degrees => Sys2Proof.Machine.execThermalHot die degrees s
  | .thermtrip die => Sys2Proof.Machine.execThermtrip die s
  | .powerPeriodEnd power => Sys2Proof.Machine.execPowerPeriodEnd power s
  | .pkgLimitWrite watts => Sys2Proof.Machine.execPkgLimitWrite watts s
  | .lifetimeRewrite floor => Sys2Proof.Machine.execLifetimeRewrite floor s
  | .attestationRequest nonce => Sys2Proof.Machine.execAttestationRequest nonce s
  | .attestationReportSigned => Sys2Proof.Machine.execAttestationReportSigned s
  | .setdasa static dynamic => Sys2Proof.Machine.execSetdasa static dynamic s
  | .entdaa dynamic => Sys2Proof.Machine.execEntdaa dynamic s
  | .flitReceive link f => Sys2Proof.Machine.execFlitReceive link f s
  | .nakReceive link f => Sys2Proof.Machine.execNakReceive link f s
  | .nakResendTimeout link => Sys2Proof.Machine.execNakResendTimeout link s
  | .goBackTimeout link => Sys2Proof.Machine.execGoBackTimeout link s
  | .nakExhausted link => Sys2Proof.Machine.execNakExhausted link s
  | .lossOfSignal link => Sys2Proof.Machine.execLossOfSignal link s
  | .trainingAttempt link => Sys2Proof.Machine.execTrainingAttempt link s
  | .trainingEnd link locked => Sys2Proof.Machine.execTrainingEnd link locked s
  | .lendPeriodEnd link => Sys2Proof.Machine.execLendPeriodEnd link s
  | .lendReceive link f => Sys2Proof.Machine.execLendReceive link f s
  | .packetForward port => Sys2Proof.Machine.execPacketForward port s
  | .rstPacket port => Sys2Proof.Machine.execRstPacket port s
  | .raccPacket port => Sys2Proof.Machine.execRaccPacket port s
  | .msgPacket port => Sys2Proof.Machine.execMsgPacket port s
  | .redPacket port => Sys2Proof.Machine.execRedPacket port s
  | .ackPacket port => Sys2Proof.Machine.execAckPacket port s
  | .tkqPacket port => Sys2Proof.Machine.execTkqPacket port s
  | .tkaPacket port => Sys2Proof.Machine.execTkaPacket port s
  | .tkqRetry landing origin => Sys2Proof.Machine.execTkqRetry landing origin s
  | .tokenExpiry port => Sys2Proof.Machine.execTokenExpiry port s
  | .holdQueueFull port => Sys2Proof.Machine.execHoldQueueFull port s
  | .tokenTableFull => Sys2Proof.Machine.execTokenTableFull s
  | .sdownPacket port => Sys2Proof.Machine.execSdownPacket port s
  | .sdackPacket port => Sys2Proof.Machine.execSdackPacket port s
  | .sdownNodeTimeout id => Sys2Proof.Machine.execSdownNodeTimeout id s
  | .shootdownRootTimeout id => Sys2Proof.Machine.execShootdownRootTimeout id s
  | .leaseWaitExpiry id => Sys2Proof.Machine.execLeaseWaitExpiry id s
  | .fencePacket port => Sys2Proof.Machine.execFencePacket port s
  | .fenceClrPacket port => Sys2Proof.Machine.execFenceClrPacket port s
  | .pathrstPacket port => Sys2Proof.Machine.execPathrstPacket port s
  | .ctsNotice port => Sys2Proof.Machine.execCtsNotice port s
  | .acceptNotice port => Sys2Proof.Machine.execAcceptNotice port s
  | .repeatNotice port => Sys2Proof.Machine.execRepeatNotice port s
  | .stepokNotice port => Sys2Proof.Machine.execStepokNotice port s
  | .abortNotice port => Sys2Proof.Machine.execAbortNotice port s
  | .decideNotice port => Sys2Proof.Machine.execDecideNotice port s
  | .reportNotice port => Sys2Proof.Machine.execReportNotice port s
  | .alldoneNotice port => Sys2Proof.Machine.execAlldoneNotice port s
  | .musterNotice port => Sys2Proof.Machine.execMusterNotice port s
  | .taggedSendArrival r => Sys2Proof.Machine.execTaggedSendArrival r s
  | .rmaWriteArrival r => Sys2Proof.Machine.execRmaWriteArrival r s
  | .continuationPacket pdc off data => Sys2Proof.Machine.execContinuationPacket pdc off data s
  | .deliveryContextFailure pdc => Sys2Proof.Machine.execDeliveryContextFailure pdc s
  | .uudPacket port => Sys2Proof.Machine.execUudPacket port s
  | .uetDelivery send ok => Sys2Proof.Machine.execUetDelivery send ok s
  | .hostApertureWrite aperture off data => Sys2Proof.Machine.execHostApertureWrite aperture off data s
  | .doorbell page off data => Sys2Proof.Machine.execDoorbell page off data s
  | .hostUnsupportedRead bar => Sys2Proof.Machine.execHostUnsupportedRead bar s
  | .bar0Access off size write => Sys2Proof.Machine.execBar0Access off size write s
  | .arrivalMatch => Sys2Proof.Machine.execArrivalMatch s
  | .depositCompletion entry => Sys2Proof.Machine.execDepositCompletion entry s
  | .windowDelivery => Sys2Proof.Machine.execWindowDelivery s
  | .engineSignal => Sys2Proof.Machine.execEngineSignal s
  | .counterRegisterWrite counter value => Sys2Proof.Machine.execCounterRegisterWrite counter value s
  | .actionLaunch => Sys2Proof.Machine.execActionLaunch s
  | .actionCopy => Sys2Proof.Machine.execActionCopy s
  | .actionSend => Sys2Proof.Machine.execActionSend s
  | .actionRst => Sys2Proof.Machine.execActionRst s
  | .actionInc => Sys2Proof.Machine.execActionInc s
  | .actionKick => Sys2Proof.Machine.execActionKick s
  | .actionThread => Sys2Proof.Machine.execActionThread s
  | .actionRel => Sys2Proof.Machine.execActionRel s
  | .threadDispatch group => Sys2Proof.Machine.execThreadDispatch group s
  | .threadWatchdog thread => Sys2Proof.Machine.execThreadWatchdog thread s
  | .acqGrant who op => Sys2Proof.Machine.execAcqGrant who op s
  | .acqTimeout who op => Sys2Proof.Machine.execAcqTimeout who op s
  | .fenceRfTimeout who => Sys2Proof.Machine.execFenceRfTimeout who s
  | .publishExchange who => Sys2Proof.Machine.execPublishExchange who s
  | .variableResultWrite who op => Sys2Proof.Machine.execVariableResultWrite who op s
  | .remoteFlagSignal tile n => Sys2Proof.Machine.execRemoteFlagSignal tile n s
  | .lotteryDraw tile => Sys2Proof.Machine.execLotteryDraw tile s
  | .taskRetire tile => Sys2Proof.Machine.execTaskRetire tile s
  | .taskRemoval tile => Sys2Proof.Machine.execTaskRemoval tile s
  | .rerunSlotEntry tile => Sys2Proof.Machine.execRerunSlotEntry tile s
  | .commandQueueTake tile stream => Sys2Proof.Machine.execCommandQueueTake tile stream s
  | .blockComplete tile stream => Sys2Proof.Machine.execBlockComplete tile stream s
  | .lockstepEntry tile => Sys2Proof.Machine.execLockstepEntry tile s
  | .matchPointHit tile stream => Sys2Proof.Machine.execMatchPointHit tile stream s
  | .hangTimeout tile => Sys2Proof.Machine.execHangTimeout tile s
  | .wfeTimeout who => Sys2Proof.Machine.execWfeTimeout who s
  | .scoreboardStallExpiry tile => Sys2Proof.Machine.execScoreboardStallExpiry tile s
  | .energyRefill => Sys2Proof.Machine.execEnergyRefill s
  | .preemptStop tile engine => Sys2Proof.Machine.execPreemptStop tile engine s
  | .preemptTimeout tile => Sys2Proof.Machine.execPreemptTimeout tile s
  | .copyPiece engine n => Sys2Proof.Machine.execCopyPiece engine n s
  | .copyResume engine n => Sys2Proof.Machine.execCopyResume engine n s
  | .copyRetire engine n => Sys2Proof.Machine.execCopyRetire engine n s
  | .pageIn engine n frame => Sys2Proof.Machine.execPageIn engine n frame s
  | .pageMigration m => Sys2Proof.Machine.execPageMigration m s
  | .drainComplete tile n => Sys2Proof.Machine.execDrainComplete tile n s
  | .collectiveStart engine => Sys2Proof.Machine.execCollectiveStart engine s
  | .transferTake engine src => Sys2Proof.Machine.execTransferTake engine src s
  | .collLate engine => Sys2Proof.Machine.execCollLate engine s
  | .kickExpand => Sys2Proof.Machine.execKickExpand s
  | .noticeTake => Sys2Proof.Machine.execNoticeTake s
  | .schedulerTakeover => Sys2Proof.Machine.execSchedulerTakeover s
  | .schedulerStop => Sys2Proof.Machine.execSchedulerStop s
  | .saveAreaLost ctx off => Sys2Proof.Machine.execSaveAreaLost ctx off s
  | .musterDrained ctx => Sys2Proof.Machine.execMusterDrained ctx s
  | .undoBlockMove tile => Sys2Proof.Machine.execUndoBlockMove tile s
  | .replayInputInject ctx => Sys2Proof.Machine.execReplayInputInject ctx s
  | .preciseStopReached ctx => Sys2Proof.Machine.execPreciseStopReached ctx s
  | .snapshotLatch => Sys2Proof.Machine.execSnapshotLatch s
  | .traceSample tile => Sys2Proof.Machine.execTraceSample tile s
  | .contextCreate ctx => Sys2Proof.Machine.execContextCreate ctx s
  | .contextDestroy ctx => Sys2Proof.Machine.execContextDestroy ctx s
  | .straitGeomWrite value => Sys2Proof.Machine.execStraitGeomWrite value s
  | .windowEntryWrite rx n value => Sys2Proof.Machine.execWindowEntryWrite rx n value s
  | .txdstWrite n value => Sys2Proof.Machine.execTxdstWrite n value s
  | .xlatCtlWrite value => Sys2Proof.Machine.execXlatCtlWrite value s
  | .townWrite tile value => Sys2Proof.Machine.execTownWrite tile value s
  | .cengOwnWrite engine value => Sys2Proof.Machine.execCengOwnWrite engine value s
  | .itinWrite n word value => Sys2Proof.Machine.execItinWrite n word value s
  | .undowinOldestWrite ctx value => Sys2Proof.Machine.execUndowinOldestWrite ctx value s
  | .replayPlayClear ctx => Sys2Proof.Machine.execReplayPlayClear ctx s
  | .registerWrite off value => Sys2Proof.Machine.execRegisterWrite off value s
  | .registerReadClear off => Sys2Proof.Machine.execRegisterReadClear off s
  | .blockHeader f => Sys2Proof.Machine.execBlockHeader f s
  | .add f => Sys2Proof.Machine.execAdd f s
  | .sub f => Sys2Proof.Machine.execSub f s
  | .and f => Sys2Proof.Machine.execAnd f s
  | .or f => Sys2Proof.Machine.execOr f s
  | .xor f => Sys2Proof.Machine.execXor f s
  | .andn f => Sys2Proof.Machine.execAndn f s
  | .sll f => Sys2Proof.Machine.execSll f s
  | .srl f => Sys2Proof.Machine.execSrl f s
  | .sra f => Sys2Proof.Machine.execSra f s
  | .mul f => Sys2Proof.Machine.execMul f s
  | .mulh f => Sys2Proof.Machine.execMulh f s
  | .mulhn f => Sys2Proof.Machine.execMulhn f s
  | .div f => Sys2Proof.Machine.execDiv f s
  | .divn f => Sys2Proof.Machine.execDivn f s
  | .rem f => Sys2Proof.Machine.execRem f s
  | .remn f => Sys2Proof.Machine.execRemn f s
  | .min f => Sys2Proof.Machine.execMin f s
  | .max f => Sys2Proof.Machine.execMax f s
  | .minn f => Sys2Proof.Machine.execMinn f s
  | .maxn f => Sys2Proof.Machine.execMaxn f s
  | .slt f => Sys2Proof.Machine.execSlt f s
  | .sltn f => Sys2Proof.Machine.execSltn f s
  | .seq f => Sys2Proof.Machine.execSeq f s
  | .sne f => Sys2Proof.Machine.execSne f s
  | .sel f => Sys2Proof.Machine.execSel f s
  | .clz f => Sys2Proof.Machine.execClz f s
  | .ctz f => Sys2Proof.Machine.execCtz f s
  | .popc f => Sys2Proof.Machine.execPopc f s
  | .sext f => Sys2Proof.Machine.execSext f s
  | .zext f => Sys2Proof.Machine.execZext f s
  | .bswap f => Sys2Proof.Machine.execBswap f s
  | .addi f => Sys2Proof.Machine.execAddi f s
  | .andi f => Sys2Proof.Machine.execAndi f s
  | .ori f => Sys2Proof.Machine.execOri f s
  | .xori f => Sys2Proof.Machine.execXori f s
  | .slli f => Sys2Proof.Machine.execSlli f s
  | .srli f => Sys2Proof.Machine.execSrli f s
  | .srai f => Sys2Proof.Machine.execSrai f s
  | .slti f => Sys2Proof.Machine.execSlti f s
  | .sltni f => Sys2Proof.Machine.execSltni f s
  | .li f => Sys2Proof.Machine.execLi f s
  | .lih f => Sys2Proof.Machine.execLih f s
  | .beq f => Sys2Proof.Machine.execBeq f s
  | .bne f => Sys2Proof.Machine.execBne f s
  | .blt f => Sys2Proof.Machine.execBlt f s
  | .bge f => Sys2Proof.Machine.execBge f s
  | .bltn f => Sys2Proof.Machine.execBltn f s
  | .bgen f => Sys2Proof.Machine.execBgen f s
  | .bz f => Sys2Proof.Machine.execBz f s
  | .bnz f => Sys2Proof.Machine.execBnz f s
  | .bfull f => Sys2Proof.Machine.execBfull f s
  | .bempty f => Sys2Proof.Machine.execBempty f s
  | .j f => Sys2Proof.Machine.execJ f s
  | .jal f => Sys2Proof.Machine.execJal f s
  | .jr f => Sys2Proof.Machine.execJr f s
  | .jalr f => Sys2Proof.Machine.execJalr f s
  | .ldb f => Sys2Proof.Machine.execLdb f s
  | .ldbz f => Sys2Proof.Machine.execLdbz f s
  | .ldh f => Sys2Proof.Machine.execLdh f s
  | .ldhz f => Sys2Proof.Machine.execLdhz f s
  | .ldw f => Sys2Proof.Machine.execLdw f s
  | .ldwz f => Sys2Proof.Machine.execLdwz f s
  | .ldd f => Sys2Proof.Machine.execLdd f s
  | .fill f => Sys2Proof.Machine.execFill f s
  | .stb f => Sys2Proof.Machine.execStb f s
  | .sth f => Sys2Proof.Machine.execSth f s
  | .stw f => Sys2Proof.Machine.execStw f s
  | .std f => Sys2Proof.Machine.execStd f s
  | .spill f => Sys2Proof.Machine.execSpill f s
  | .amoadd f => Sys2Proof.Machine.execAmoadd f s
  | .amoand f => Sys2Proof.Machine.execAmoand f s
  | .amoor f => Sys2Proof.Machine.execAmoor f s
  | .amoxor f => Sys2Proof.Machine.execAmoxor f s
  | .amomin f => Sys2Proof.Machine.execAmomin f s
  | .amomax f => Sys2Proof.Machine.execAmomax f s
  | .amominn f => Sys2Proof.Machine.execAmominn f s
  | .amomaxn f => Sys2Proof.Machine.execAmomaxn f s
  | .amoswap f => Sys2Proof.Machine.execAmoswap f s
  | .amocas f => Sys2Proof.Machine.execAmocas f s
  | .amoaddI32 f => Sys2Proof.Machine.execAmoaddI32 f s
  | .amoandI32 f => Sys2Proof.Machine.execAmoandI32 f s
  | .amoorI32 f => Sys2Proof.Machine.execAmoorI32 f s
  | .amoxorI32 f => Sys2Proof.Machine.execAmoxorI32 f s
  | .amominI32 f => Sys2Proof.Machine.execAmominI32 f s
  | .amomaxI32 f => Sys2Proof.Machine.execAmomaxI32 f s
  | .amominnN32 f => Sys2Proof.Machine.execAmominnN32 f s
  | .amomaxnN32 f => Sys2Proof.Machine.execAmomaxnN32 f s
  | .amoswapI32 f => Sys2Proof.Machine.execAmoswapI32 f s
  | .amocasI32 f => Sys2Proof.Machine.execAmocasI32 f s
  | .amofaddF32 f => Sys2Proof.Machine.execAmofaddF32 f s
  | .acq f => Sys2Proof.Machine.execAcq f s
  | .acqt f => Sys2Proof.Machine.execAcqt f s
  | .rel f => Sys2Proof.Machine.execRel f s
  | .bind f => Sys2Proof.Machine.execBind f s
  | .unbind f => Sys2Proof.Machine.execUnbind f s
  | .publish f => Sys2Proof.Machine.execPublish f s
  | .fence => Sys2Proof.Machine.execFence s
  | .fenceRf => Sys2Proof.Machine.execFenceRf s
  | .bar f => Sys2Proof.Machine.execBar f s
  | .flagw f => Sys2Proof.Machine.execFlagw f s
  | .flags f => Sys2Proof.Machine.execFlags f s
  | .flagc f => Sys2Proof.Machine.execFlagc f s
  | .disp f q => Sys2Proof.Machine.execDisp f q s
  | .nop => Sys2Proof.Machine.execNop s
  | .sysrd f => Sys2Proof.Machine.execSysrd f s
  | .syswr f => Sys2Proof.Machine.execSyswr f s
  | .trap f => Sys2Proof.Machine.execTrap f s
  | .reti f => Sys2Proof.Machine.execReti f s
  | .mpret => Sys2Proof.Machine.execMpret s
  | .wfe => Sys2Proof.Machine.execWfe s
  | .halt => Sys2Proof.Machine.execHalt s
  | .rdcc f => Sys2Proof.Machine.execRdcc f s
  | .rdwork f => Sys2Proof.Machine.execRdwork f s
  | .etrig => Sys2Proof.Machine.execEtrig s
  | .tdone => Sys2Proof.Machine.execTdone s
  | .mark => Sys2Proof.Machine.execMark s
  | .nopC => Sys2Proof.Machine.execNopC s
  | .addC f => Sys2Proof.Machine.execAddC f s
  | .subC f => Sys2Proof.Machine.execSubC f s
  | .andC f => Sys2Proof.Machine.execAndC f s
  | .orC f => Sys2Proof.Machine.execOrC f s
  | .xorC f => Sys2Proof.Machine.execXorC f s
  | .addiC f => Sys2Proof.Machine.execAddiC f s
  | .slliC f => Sys2Proof.Machine.execSlliC f s
  | .srliC f => Sys2Proof.Machine.execSrliC f s
  | .sraiC f => Sys2Proof.Machine.execSraiC f s
  | .liC f => Sys2Proof.Machine.execLiC f s
  | .addS0C f => Sys2Proof.Machine.execAddS0C f s
  | .lddC f => Sys2Proof.Machine.execLddC f s
  | .stdC f => Sys2Proof.Machine.execStdC f s
  | .aadd f => Sys2Proof.Machine.execAadd f s
  | .asub f => Sys2Proof.Machine.execAsub f s
  | .amul f => Sys2Proof.Machine.execAmul f s
  | .ashl f => Sys2Proof.Machine.execAshl f s
  | .ashr f => Sys2Proof.Machine.execAshr f s
  | .aand f => Sys2Proof.Machine.execAand f s
  | .amov f => Sys2Proof.Machine.execAmov f s
  | .aaddi f => Sys2Proof.Machine.execAaddi f s
  | .ali f => Sys2Proof.Machine.execAli f s
  | .aaddC f => Sys2Proof.Machine.execAaddC f s
  | .aaddiC f => Sys2Proof.Machine.execAaddiC f s
  | .amovC f => Sys2Proof.Machine.execAmovC f s
  | .lq f => Sys2Proof.Machine.execLq f s
  | .lqb f => Sys2Proof.Machine.execLqb f s
  | .sq f => Sys2Proof.Machine.execSq f s
  | .sqs f => Sys2Proof.Machine.execSqs f s
  | .lqg f => Sys2Proof.Machine.execLqg f s
  | .lqt f => Sys2Proof.Machine.execLqt f s
  | .sqt f => Sys2Proof.Machine.execSqt f s
  | .tcopy f => Sys2Proof.Machine.execTcopy f s
  | .tgather f => Sys2Proof.Machine.execTgather f s
  | .tscatter f => Sys2Proof.Machine.execTscatter f s
  | .tfill f => Sys2Proof.Machine.execTfill f s
  | .rst f => Sys2Proof.Machine.execRst f s
  | .rstTk f => Sys2Proof.Machine.execRstTk f s
  | .racc f => Sys2Proof.Machine.execRacc f s
  | .xwait f => Sys2Proof.Machine.execXwait f s
  | .sbq f => Sys2Proof.Machine.execSbq f s
  | .qflush f => Sys2Proof.Machine.execQflush f s
  | .qmark f => Sys2Proof.Machine.execQmark f s
  | .vadd f => Sys2Proof.Machine.execVadd f s
  | .vsub f => Sys2Proof.Machine.execVsub f s
  | .vmul f => Sys2Proof.Machine.execVmul f s
  | .vfma f => Sys2Proof.Machine.execVfma f s
  | .vfms f => Sys2Proof.Machine.execVfms f s
  | .vfnma f => Sys2Proof.Machine.execVfnma f s
  | .vmax f => Sys2Proof.Machine.execVmax f s
  | .vmin f => Sys2Proof.Machine.execVmin f s
  | .vabs f => Sys2Proof.Machine.execVabs f s
  | .vneg f => Sys2Proof.Machine.execVneg f s
  | .vrcp f => Sys2Proof.Machine.execVrcp f s
  | .vrsqrt f => Sys2Proof.Machine.execVrsqrt f s
  | .vsqrt f => Sys2Proof.Machine.execVsqrt f s
  | .vexp2 f => Sys2Proof.Machine.execVexp2 f s
  | .vlog2 f => Sys2Proof.Machine.execVlog2 f s
  | .vdiv f => Sys2Proof.Machine.execVdiv f s
  | .vaddi f => Sys2Proof.Machine.execVaddi f s
  | .vsubi f => Sys2Proof.Machine.execVsubi f s
  | .vmuli f => Sys2Proof.Machine.execVmuli f s
  | .vand f => Sys2Proof.Machine.execVand f s
  | .vor f => Sys2Proof.Machine.execVor f s
  | .vxor f => Sys2Proof.Machine.execVxor f s
  | .vnot f => Sys2Proof.Machine.execVnot f s
  | .vshl f => Sys2Proof.Machine.execVshl f s
  | .vshr f => Sys2Proof.Machine.execVshr f s
  | .vsra f => Sys2Proof.Machine.execVsra f s
  | .vmaxi f => Sys2Proof.Machine.execVmaxi f s
  | .vmini f => Sys2Proof.Machine.execVmini f s
  | .vcmp f => Sys2Proof.Machine.execVcmp f s
  | .vsel f => Sys2Proof.Machine.execVsel f s
  | .vmov f => Sys2Proof.Machine.execVmov f s
  | .vmovC f => Sys2Proof.Machine.execVmovC f s
  | .vbcast f => Sys2Proof.Machine.execVbcast f s
  | .vins f => Sys2Proof.Machine.execVins f s
  | .vext f => Sys2Proof.Machine.execVext f s
  | .vperm f => Sys2Proof.Machine.execVperm f s
  | .vshuf f => Sys2Proof.Machine.execVshuf f s
  | .vrot f => Sys2Proof.Machine.execVrot f s
  | .vred f => Sys2Proof.Machine.execVred f s
  | .vscan f => Sys2Proof.Machine.execVscan f s
  | .vcvt f => Sys2Proof.Machine.execVcvt f s
  | .vquant f => Sys2Proof.Machine.execVquant f s
  | .vdequant f => Sys2Proof.Machine.execVdequant f s
  | .vscale f => Sys2Proof.Machine.execVscale f s
  | .cpush f => Sys2Proof.Machine.execCpush f s
  | .cpop f => Sys2Proof.Machine.execCpop f s
  | .cbal f => Sys2Proof.Machine.execCbal f s
  | .kand f => Sys2Proof.Machine.execKand f s
  | .kor f => Sys2Proof.Machine.execKor f s
  | .kxor f => Sys2Proof.Machine.execKxor f s
  | .knot f => Sys2Proof.Machine.execKnot f s
  | .kpop f => Sys2Proof.Machine.execKpop f s
  | .kmov f => Sys2Proof.Machine.execKmov f s
  | .vpop f => Sys2Proof.Machine.execVpop f s
  | .vpush f => Sys2Proof.Machine.execVpush f s
  | .mnop f => Sys2Proof.Machine.execMnop f s
  | .mnopC f => Sys2Proof.Machine.execMnopC f s
  | .mstamp f => Sys2Proof.Machine.execMstamp f s
  | .mstampAl f => Sys2Proof.Machine.execMstampAl f s
  | .mmode f => Sys2Proof.Machine.execMmode f s
  | .mwait f => Sys2Proof.Machine.execMwait f s
  | .mtscale f => Sys2Proof.Machine.execMtscale f s
  | .mtscaleQ f => Sys2Proof.Machine.execMtscaleQ f s
  | .mnstat f => Sys2Proof.Machine.execMnstat f s
  | .mroute f => Sys2Proof.Machine.execMroute f s
  | .mwld f => Sys2Proof.Machine.execMwld f s
  | .mwsel f => Sys2Proof.Machine.execMwsel f s
  | .mma f => Sys2Proof.Machine.execMma f s
  | .mmaz f => Sys2Proof.Machine.execMmaz f s
  | .mhad f => Sys2Proof.Machine.execMhad f s
  | .mquant f => Sys2Proof.Machine.execMquant f s
  | .mdrain f => Sys2Proof.Machine.execMdrain f s
  | .maccld f => Sys2Proof.Machine.execMaccld f s
  | .maccst f => Sys2Proof.Machine.execMaccst f s
  | .mzero f => Sys2Proof.Machine.execMzero f s
  | .cinc f => Sys2Proof.Machine.execCinc f s
  | .cset f => Sys2Proof.Machine.execCset f s
  | .cadd f => Sys2Proof.Machine.execCadd f s
  | .cread f => Sys2Proof.Machine.execCread f s
  | .cwait f => Sys2Proof.Machine.execCwait f s
  | .arm f => Sys2Proof.Machine.execArm f s
  | .disarm f => Sys2Proof.Machine.execDisarm f s
  | .armq f => Sys2Proof.Machine.execArmq f s
  | .trig f => Sys2Proof.Machine.execTrig f s
  | .kick f => Sys2Proof.Machine.execKick f s
  | .launch f => Sys2Proof.Machine.execLaunch f s
  | .patch f => Sys2Proof.Machine.execPatch f s
  | .patchM f => Sys2Proof.Machine.execPatchM f s
  | .qctlTickets f => Sys2Proof.Machine.execQctlTickets f s
  | .qctlFlush f => Sys2Proof.Machine.execQctlFlush f s
  | .qctlPreempt f => Sys2Proof.Machine.execQctlPreempt f s
  | .qctlRead f => Sys2Proof.Machine.execQctlRead f s
  | .coll f => Sys2Proof.Machine.execColl f s
  | .collabort f => Sys2Proof.Machine.execCollabort f s
  | .usend f => Sys2Proof.Machine.execUsend f s
  | .uputRma f => Sys2Proof.Machine.execUputRma f s
  | .uputHost f => Sys2Proof.Machine.execUputHost f s
  | .mrecv f => Sys2Proof.Machine.execMrecv f s
  | .mpoll f => Sys2Proof.Machine.execMpoll f s
  | .mreply f => Sys2Proof.Machine.execMreply f s
  | .mdone f => Sys2Proof.Machine.execMdone f s
  | .mapVa f => Sys2Proof.Machine.execMapVa f s
  | .mapTensor f => Sys2Proof.Machine.execMapTensor f s
  | .mapChunk f => Sys2Proof.Machine.execMapChunk f s
  | .unmapVa f => Sys2Proof.Machine.execUnmapVa f s
  | .unmapTensor f => Sys2Proof.Machine.execUnmapTensor f s
  | .unmapChunk f => Sys2Proof.Machine.execUnmapChunk f s
  | .lease f => Sys2Proof.Machine.execLease f s
  | .sdown f => Sys2Proof.Machine.execSdown f s
  | .snap f => Sys2Proof.Machine.execSnap f s
  | .muster f => Sys2Proof.Machine.execMuster f s
  | .musterRelease f => Sys2Proof.Machine.execMusterRelease f s
  | .musterHamper f => Sys2Proof.Machine.execMusterHamper f s
  | .musterRestore f => Sys2Proof.Machine.execMusterRestore f s
  | .rollcall f => Sys2Proof.Machine.execRollcall f s
  | .rstepWindow f => Sys2Proof.Machine.execRstepWindow f s
  | .rstepCount f => Sys2Proof.Machine.execRstepCount f s
  | .rstepOpen f => Sys2Proof.Machine.execRstepOpen f s
  | .mpsetPoint f => Sys2Proof.Machine.execMpsetPoint f s
  | .mpsetVec f => Sys2Proof.Machine.execMpsetVec f s
  | .stepSend f => Sys2Proof.Machine.execStepSend f s
  | .stepRecv f => Sys2Proof.Machine.execStepRecv f s
  | .stepRrs f => Sys2Proof.Machine.execStepRrs f s
  | .stepCopy f => Sys2Proof.Machine.execStepCopy f s
  | .stepWait f => Sys2Proof.Machine.execStepWait f s
  | .stepLoop f => Sys2Proof.Machine.execStepLoop f s
  | .stepEnd => Sys2Proof.Machine.execStepEnd s
  | .unallocatedEncoding cause => Sys2Proof.Machine.execUnallocatedEncoding cause s
  | .uncorrectableError unit => Sys2Proof.Machine.execUncorrectableError unit s
  | .correctableError unit delay => Sys2Proof.Machine.execCorrectableError unit delay s
  | .storePerformed n => Sys2Proof.Machine.execStorePerformed n s
  | .operandQueueFill tile queue => Sys2Proof.Machine.execOperandQueueFill tile queue s
  | .hostWriteAccepted => Sys2Proof.Machine.execHostWriteAccepted s
  | .slotTableUpdate die => Sys2Proof.Machine.execSlotTableUpdate die s
  | .missedHeartbeats chip => Sys2Proof.Machine.execMissedHeartbeats chip s

end Sys2Proof.Machine
end

