-- ==== Sys2Proof/Machine/Tick.lean ====
section
/-! DEFINITION. The end of a cycle: what every unit does in it without an event of its own, operand-queue deadlocks (R235), the CCC,
and what moves in the next cycle, in which order (R77, R215, R282; log entry 1). -/
namespace Sys2Proof.Machine
open Sys2Proof

/-! ## Gathers (R367) -/

/-- The lanes of a load that lie in a line have been read. -/
def QLoad.fix (s : State) (l : QLoad) (line : Nat × Nat) : QLoad :=
  { l with src := l.src.map fun x => match x with
      | .lane t off => if t = line.1 ∧ off / 64 = line.2 then .data (mreads (s.tile t).spad off 4) else x
      | _ => x }

/-- The oldest load of a tile whose lines on a port are not all read: its queue and place. -/
def Tile.gatherAt (x : Tile) (lines : QLoad → List (Nat × Nat)) : Option (Nat × Nat × (Nat × Nat)) :=
  x.oq.findSome? fun q => (firstBelow (fun i => match q.2.loads[i]? with
    | some l => !(lines l).isEmpty
    | none => false) q.2.loads.length 0).bind fun i => (q.2.loads[i]?).bind fun l => (lines l).head?.map fun h => (q.1, i, h)

/-- The next line that a load port of the access stream reads (R367). -/
def Tile.gatherLine (x : Tile) (port : Nat) : Option (Nat × Nat × (Nat × Nat)) := x.gatherAt fun l => if port = 0 then l.port0 else l.port1

/-- A load port's line has been granted: its lanes are read. -/
def State.gatherRead (s : State) (t port : Nat) : State :=
  match (s.tile t).gatherLine port with
  | none => s
  | some (q, i, line) =>
    let done (l : QLoad) : QLoad :=
      let m := l.fix s line
      if port = 0 then { m with port0 := m.port0.drop 1 } else { m with port1 := m.port1.drop 1 }
    s.modTile t fun x => x.modOq q fun y => { y with loads := y.loads.modify i done }

/-! ## The scratchpad port (R151, R237, R289) -/

/-- What a grant of a bank serves: a stream's access, a gather's line, a line of the oldest RST or RACC that reads, a drain's line, a line of a
copy, or undo capture. -/
inductive PortUse where
  | ask (a : PortAsk)
  | gather (tile port : Nat)
  | source (order : Nat)
  | drain
  | copy (engine n : Nat) (line : Nat × Nat × Bool)
  | capture
  deriving DecidableEq, Repr

/-- The tiles whose access streams reach a tile's scratchpad: its quad (R102). -/
def quadOf (t : Nat) : List Nat := [t, t ^^^ 1, t ^^^ 16, t ^^^ 17]

/-- The oldest store of a tile that still reads scratchpad lines, and its next line. -/
def State.nextSource (s : State) (t : Nat) : Option (Nat × Nat × Nat × Nat) :=
  s.stores.findSome? fun e =>
    if (e.who.bind Who.tile?) == some t then (e.sources.findSome? QSrc.line?).map fun x => (e.order, x) else none

/-- The requests at a tile's port in this cycle: bank, requester, and what is asked for. -/
def State.portWants (s : State) (t : Nat) : List (Nat × Nat × PortUse) :=
  let x := s.tile t
  let banks (off n req : Nat) (u : PortUse) : List (Nat × Nat × PortUse) := (banksOf off n).map fun b => (b, req, u)
  ((x.asks.filter fun a => a.at' == s.ccc.toNat).flatMap fun a => a.left.map fun b => (b, a.req, PortUse.ask a)) ++
    ((quadOf t).flatMap fun u => [0, 1].flatMap fun p => match (s.tile u).gatherLine p with
      | some (_, _, line) => if line.1 = t then banks (64 * line.2) 64 (if u = t then 1 + p else accessPort u t false) (.gather u p) else []
      | none => []) ++
    ((quadOf t).flatMap fun u => match s.nextSource u with
      | some (order, v, off, n) => if v = t then banks off n (accessPort u t false) (.source order) else []
      | none => []) ++
    (match s.drainNext t with
     | some (_, l) => l.flatMap fun g => if g.akind = 0 then banks g.pa g.len 9 .drain else []
     | none => []) ++
    ((List.range 32).flatMap fun e => match s.beatOf e with
      | some (n, c, _) => ((c.beats.getD []).headD []).flatMap fun l =>
          if l.1 = t then banks (64 * l.2.1) 64 (if l.2.2 then 8 else 7) (.copy e n l) else []
      | none => []) ++
    x.captures.eraseDups.map fun b => (b, 11, PortUse.capture)

/-- A bank's grant: round-robin, starting after the requester last granted there. -/
def Tile.bankGrant (x : Tile) (bank : Nat) (l : List (Nat × Nat × PortUse)) : Option (Nat × PortUse) :=
  (List.range 12).findSome? fun i =>
    let r := (tget 0 x.portLast bank + i) % 12
    (l.find? fun w => w.1 == bank && w.2.1 == r).map fun w => (r, w.2.2)

/-- A scratchpad line of a store is read. -/
def Store.fix (s : State) (e : Store) : Store :=
  let rec go : List QSrc → List QSrc
    | [] => []
    | x :: rest => if x.line?.isSome then .data (s.sourceBytes x) :: rest else x :: go rest
  let rec segs : List Seg → List Seg
    | [] => []
    | g :: rest => if g.src.any fun x => x.line?.isSome then { g with src := go g.src } :: rest else g :: segs rest
  if e.segs.any fun g => g.src.any fun x => x.line?.isSome then { e with segs := segs e.segs } else { e with adds := go e.adds }

/-- What a granted access does (R151): it takes effect now. -/
def State.portGranted (s : State) (t bank : Nat) (u : PortUse) : State :=
  match u with
  | .ask a => s.modTile t fun x => { x with asks := x.asks.map fun b =>
      if b.who = a.who ∧ b.req = a.req ∧ b.off = a.off ∧ b.len = a.len then { b with left := b.left.erase bank } else b }
  | .gather v port => s.gatherRead v port
  | .source order => { s with stores := s.stores.map fun e => if e.order = order then e.fix s else e }
  | .drain => match s.drainNext t with
    | some (d, l) => (s.drainSegs t d l).drainAdvance t
    | none => s
  | .copy e n line => match (s.engine e)[n]? with
    | some c => s.setCopy e n { c with beats := match c.beats with
        | some (b :: rest) => some (b.erase line :: rest)
        | x => x }
    | none => s
  | .capture => s.modTile t fun x => { x with captures := x.captures.erase bank }

/-- Arbitration at a tile's port: each bank grants one request, and every other requester of the bank loses a cycle there. -/
def State.arbitrate (s : State) (t : Nat) : State :=
  let s0 := s.drainCycle t
  let l := s0.portWants t
  let x := s0.tile t
  let wins := (List.range 16).filterMap fun b => (x.bankGrant b l).map fun g => (b, g)
  let lost := (l.filter fun w => !wins.any fun g => g.1 == w.1 && g.2.1 == w.2.1).map fun w => 16 * w.2.1 + w.1
  let s1 := s0.modTile t fun y =>
    { y with
      asks := y.asks.filter fun a => a.at' == s0.ccc.toNat
      portLast := wins.foldl (fun p g => tput 0 p g.1 (g.2.1 + 1)) y.portLast
      loss := lost.eraseDups.foldl (fun p i => tput 0 p i (BitVec.ofNat 32 (satAdd 0xFFFFFFFF (tget 0 p i).toNat 1))) y.loss }
  wins.foldl (fun s g => s.portGranted t g.1 g.2.2) s1

/-- A stream whose access the port may have granted tries again in the same cycle. -/
def State.portHeld (s : State) (w : Who) : Bool :=
  match w with
  | .stream t k => (k :: (s.tile t).lockMates k).any fun j => ((s.tile t).stream j).stall == .port
  | _ => false

/-! ## Operand-queue deadlocks (R235) -/

/-- The operand queue that a stream waits on: as consumer of an empty one, or as producer of a full one. -/
def Tile.emptyWait (x : Tile) (k : Nat) : Option Nat :=
  match (x.stream k).stall with
  | .queueEmpty q => some q
  | _ => if k = 3 then x.mx.runs.findSome? fun r => r.job.queues.find? fun q => ((tget OpQueue.idle x.oq q).ents).isEmpty else none

def Tile.fullWait (x : Tile) (k : Nat) : Option Nat :=
  match (x.stream k).stall with
  | .queueFull q => some q
  | _ => none

/-- A stream will not act on a queue: it is idle, or waits on an operand queue itself. -/
def Tile.noHelp (x : Tile) (k : Nat) : Bool := x.idleAt k || (x.emptyWait k).isSome || (x.fullWait k).isSome

/-- The control stream waits for something that the streams would have to do. -/
def Tile.controlWaits (x : Tile) : Bool :=
  match (x.stream 0).stall with
  | .flag _ | .xwait _ | .emptyReg | .commandQueue | .tdone => true
  | _ => false

def producerOf (q : Nat) : Nat := if q < 6 then 1 else 2
def consumerOf (q : Nat) : Nat := if q < 4 then 2 else if q < 6 then 3 else 1

/-- The streams of a tile that no progress can free, with their causes. -/
def Tile.deadlocked (x : Tile) : List (Nat × Cause) :=
  if x.task.isNone || !x.controlWaits then []
  else [1, 2, 3].filterMap fun k =>
    if (x.stream k).stop.isSome then none
    else match x.emptyWait k, x.fullWait k with
      | some q, _ => if (tget OpQueue.idle x.oq q).loads.isEmpty && x.noHelp (producerOf q) then some (k, .queueUnder) else none
      | none, some q => if x.noHelp (consumerOf q) then some (k, .queueOver) else none
      | none, none => none

/-- The deadlocked streams of a tile raise their causes. -/
def State.breakDeadlock (s : State) (t : Nat) : State :=
  (s.tile t).deadlocked.foldl (fun z e => z.raiseIdle t e.1 e.2 0) s

/-! ## The end of a cycle -/

/-- What a tile's units do as the cycle ends. -/
def State.tileCycle (s : State) (t : Nat) : State :=
  let s2 := s.modTile t fun x => x.matrixCycle s.ccc.toNat
  let s3 := s2.breakDeadlock t
  ((List.range 4).foldl (fun z k => z.frameIfQuiet t k) s3).modTile t fun x => { x with lcPrev := x.lc, workPrev := x.work, allow := none }

/-- Every unit's cycle, and the CCC. -/
def State.cycle (s : State) : State :=
  let s1 := (s.tiles.map (·.1)).foldl State.tileCycle s
  let s2 := (List.range 32).foldl State.beatEnds ((List.range 6).foldl State.linkSend ((s1.colls.map (·.1)).foldl State.engCycle s1))
  { s2 with ccc := s2.ccc + 1, evUsed := 0 }

/-! ## What moves in a cycle -/

/-- An event, n times. -/
def times (n : Nat) (i : Instr) : List Move := List.replicate n (.event i)

/-- Retries of the inputs that wait at their ingresses, in order of coming. -/
def State.ingressMoves (s : State) : List Move := s.heldIn.map fun x => .ingress x.ingress

/-- Threads that run. -/
def State.liveThreads (s : State) : List Nat := (s.threads.filter fun e => e.2.running).map (·.1)

/-- Tiles whose streams a task holds. -/
def State.liveTiles (s : State) : List Nat := (s.tiles.filter fun e => e.2.task.isSome).map (·.1)

/-- Tiles that hold anything. -/
def State.anyTiles (s : State) : List Nat := s.tiles.map (·.1)

noncomputable section

/-- Packets at the inputs (R45), notices among them. -/
def State.packetMoves (s : State) : List Move :=
  (List.range 7).flatMap fun p =>
    if (tget [] s.inq p).isEmpty && (s.harbourAt p).isEmpty then []
    else ([.packetForward p, .rstPacket p, .raccPacket p, .msgPacket p, .redPacket p, .ackPacket p, .tkqPacket p, .tkaPacket p, .sdownPacket p,
      .sdackPacket p, .fencePacket p, .fenceClrPacket p, .pathrstPacket p, .ctsNotice p, .acceptNotice p, .repeatNotice p, .stepokNotice p,
      .abortNotice p, .decideNotice p, .reportNotice p, .alldoneNotice p, .musterNotice p] : List Instr).map Move.event

/-- Timers of tokens, harbour queues and translation updates. -/
def State.timerMoves (s : State) : List Move :=
  s.updates.flatMap (fun u => [Move.event (.leaseWaitExpiry u.id), .event (.sdownNodeTimeout u.id), .event (.shootdownRootTimeout u.id)]) ++
    s.tokens.filterMap (fun e => e.2.map fun t => Move.event (.tkqRetry t.landing t.origin)) ++
    (List.range 7).flatMap (fun p => if (s.harbourAt p).isEmpty then [] else [Move.event (.tokenExpiry p), .event (.holdQueueFull p)]) ++
    [.event .tokenTableFull]

/-- The move that takes an event. -/
def FerryEvent.move : FerryEvent → Move
  | .arrival _ => .event .arrivalMatch
  | .deposit d => .event (.depositCompletion d.entry)
  | .delivery _ => .event .windowDelivery
  | .signal .. => .event .engineSignal
  | .command _ => .counterCommand

/-- The first n events of a list in the event order. -/
def firstEvents : Nat → List FerryEvent → List FerryEvent
  | 0, _ => []
  | n + 1, l => match firstEvent l with
    | some e => e :: firstEvents n (l.erase e)
    | none => []

/-- The events of the two Ferry cycles, in the event order (R77, R78), the Ferry's releases, and the action queue. -/
def State.ferryMoves (s : State) : List Move :=
  (firstEvents 2 s.waiting).map FerryEvent.move ++ List.replicate s.ferryRels.length .ferryRelease ++
    (s.actions.flatMap fun _ => ([.actionLaunch, .actionCopy, .actionSend, .actionRst, .actionInc, .actionKick, .actionThread, .actionRel] : List Instr).map
      Move.event) ++
    (s.wakes.flatMap fun e => times e.2.length (.threadDispatch e.1)) ++ s.liveThreads.map fun n => .event (.threadWatchdog n)

/-- Results and waits of a party. -/
def opMoves (w : Who) (ops : List VarOp) : List Move :=
  ops.flatMap fun o => [.event (.acqGrant w o.id), .event (.acqTimeout w o.id), .event (.variableResultWrite w o.id)]

/-- The parties' waits, stores and results. -/
def State.resultMoves (s : State) : List Move :=
  (s.grantOrder.map fun e => .event (.storePerformed e.order)) ++
    s.tiles.flatMap (fun e => opMoves (.stream e.1 0) (e.2.sc.ops ++ (e.2.handler.map (·.saved.ops)).getD [])) ++
    s.threads.flatMap (fun e => opMoves (.thread e.1) e.2.sc.ops) ++
    (s.liveTiles.flatMap fun t => [.event (.fenceRfTimeout (.stream t 0)), .event (.fenceRfTimeout (.stream t 1)), .event (.wfeTimeout (.stream t 0))]) ++
    (s.liveThreads.flatMap fun n => [.event (.fenceRfTimeout (.thread n)), .event (.wfeTimeout (.thread n))]) ++
    s.pubs.filterMap (fun p => p.who.map fun w => .event (.publishExchange w)) ++
    times s.hostTlps.length .hostWriteAccepted

/-- A tile's events before its streams issue: its queues' loads, and its command queues, whose flag waits come first (R219). -/
def State.tileMoves (s : State) (t : Nat) : List Move :=
  (s.tile t).oq.flatMap (fun q => times q.2.loads.length (.operandQueueFill t q.1)) ++
    ([.commandQueueTake t 1, .commandQueueTake t 2, .commandQueueTake t 3, .lockstepEntry t] : List Instr).map Move.event

/-- Signals on their way to a tile, in ascending source tile id (R219, R220). -/
def State.signalMoves (s : State) (t : Nat) : List Move :=
  if s.remoteFlags.isEmpty then []
  else (List.range 256).flatMap fun u => times (s.remoteFlags.countP fun e => e.src == u && e.dst == t) (.remoteFlagSignal t u)

/-- A tile's completions after its streams have issued, in the order of R219. -/
def State.tileCompletions (s : State) (t : Nat) : List Move :=
  [.event (.blockComplete t 1), .event (.blockComplete t 2)] ++
  ((List.range (s.tile t).mx.drains.length).reverse.map fun n => .event (.drainComplete t n)) ++ [.event (.blockComplete t 3)]

/-- Copies that may retire: their flags' additions follow the blocks' completions, in ascending engine number (R373). -/
def State.retireMoves (s : State) : List Move :=
  (List.range 32).flatMap fun e => (List.range (s.engine e).length).reverse.map fun n => .event (.copyRetire e n)

/-- A tile's events once the flags have taken the cycle's changes. -/
def State.tileAfter (t : Nat) : List Move :=
  ([.preemptStop t 3, .preemptStop t 2, .preemptStop t 1, .preemptStop t 0, .preemptStop t 4,
    .preemptTimeout t, .hangTimeout t, .scoreboardStallExpiry t, .taskRetire t, .taskRemoval t, .undoBlockMove t, .traceSample t] : List Instr).map Move.event

/-- Engines. -/
def State.engineMoves (s : State) : List Move :=
  s.copies.flatMap (fun e => (List.range e.2.length).reverse.flatMap fun n => [.event (.copyResume e.1 n), .event (.copyPiece e.1 n)]) ++
    s.colls.flatMap fun e => .event (.collectiveStart e.1) ::
      ((e.2.run.map fun r => r.c.allSources.map fun q => .event (.transferTake e.1 q)).getD [] ++
        [.event (.collLate e.1), .event (.publishExchange (.engine e.1)), .issue (.engine e.1)])

/-- Contexts: destruction, musters and replays. -/
def State.contextMoves (s : State) : List Move :=
  s.destroying.map (fun c => .event (.contextDestroy c)) ++
    s.musters.flatMap (fun e => [.event (.preciseStopReached e.1), .event (.musterDrained e.1)]) ++
    s.logs.flatMap fun e => if s.playing e.1 then Move.event (.preciseStopReached e.1) ::
      times (s.dueInputs e.1 e.2.rpos 65536 e.2.playPos) (.replayInputInject e.1) else []

/-- The streams of a tile in the order of issue: the control stream last, since its flag operations come after the matrix stream's waits
(R219, R402). -/
def issueOrder : List Nat := [1, 2, 3, 0]

/-- The moves of a cycle: timed events, draws over the queues as the cycle finds them (R189), inputs, results, then issue opportunities
(the streams of each tile, then the threads, twice a cycle as the Ferry runs at twice the clock), then what follows issue. -/
def State.plan (s : State) : List Move :=
  ([.energyRefill, .slotTableUpdate 0, .slotTableUpdate 1, .slotTableUpdate 2, .slotTableUpdate 3, .snapshotLatch] : List Instr).map Move.event ++
    s.contextMoves ++ s.anyTiles.flatMap (fun t => [.event (.lotteryDraw t), .event (.rerunSlotEntry t)]) ++ s.ingressMoves ++ s.packetMoves ++ s.timerMoves ++ s.ferryMoves ++ s.resultMoves ++ s.anyTiles.flatMap s.tileMoves ++
    s.liveTiles.flatMap (fun t => issueOrder.map fun k => .issue (.stream t k)) ++ s.anyTiles.map .arbitrate ++
    s.liveTiles.flatMap (fun t => issueOrder.map fun k => .retry (.stream t k)) ++
    s.liveThreads.map (fun n => .issue (.thread n)) ++ s.liveThreads.map (fun n => .issue (.thread n)) ++ s.engineMoves ++
    ([.kickExpand, .noticeTake] : List Instr).map Move.event ++ s.anyTiles.flatMap s.tileCompletions ++ s.retireMoves ++
    s.anyTiles.flatMap s.signalMoves ++ s.anyTiles.flatMap State.tileAfter

/-- A cycle ends and the next one's moves stand. Before RESET_N is released nothing moves, and until the boot is READY only the CCC
does (R21, R22). -/
def State.tick (s : State) : State :=
  if !s.pkg.released then s
  else if s.pkg.boot ≠ 1 then { s with ccc := s.ccc + 1, evUsed := 0 }
  else
    let s1 := s.cycle
    { s1 with agenda := s1.plan }

end

end Sys2Proof.Machine
end

