-- ==== Sys2Proof/Machine/Fetch.lean ====
section
/-! DEFINITION. An issue opportunity (R215, R226, R228, R313): reading the next instruction of a stream, thread or collective engine and
giving it its meaning; lockstep words; and how a bare word of the opcode table is placed to run. -/
namespace Sys2Proof.Machine
open Sys2Proof

noncomputable section

/-! ## One instruction -/

/-- The instruction that a party's halfwords stand for: an encoding that is none raises its cause (R321). -/
def insnOf (c : Class) (hs : List (BitVec 16)) : Instr :=
  match decodeHalves c hs with
  | .ok i => i
  | .error e => .unallocatedEncoding e

/-- What surrounds the meaning of an instruction at issue: a hardware loop's exit (R225, R289). -/
def afterIssue (before : State) (w : Who) (a : Ans) : Ans :=
  match a with
  | .next s => .next (s.loopExit before w)
  | r => r

/-- The party reads its next instruction and issues it. -/
def State.issueOne (s : State) (w : Who) : Ans :=
  match s.readInsn w with
  | .ok r =>
    let s1 : State := { r.2 with curInsn := insnWord r.1 }
    afterIssue s1 w (exec (insnOf w.cls r.1) s1)
  | .stall k s1 => .next (s1.stalled k)
  | .raise c i => .next (State.raise { s with curInsn := 0 } c i)
  | .denied va w e => .next (State.raise (State.fillTlb { s with curInsn := 0 } w e) .perm va)
  | .fault f => .fault f

/-! ## Lockstep words (R226) -/

/-- A stream did not issue: it stalls, or a cause stopped it. -/
def State.heldUp (s : State) (t k : Nat) : Bool := (s.strm (.stream t k)).stop.isSome || (s.strm (.stream t k)).stall != .none

/-- The streams of a word issue in order; the first that does not, with the state it leaves. -/
def State.issueWord (s : State) (t : Nat) : List Nat → Ans × Option Nat
  | [] => (.next s, none)
  | k :: ks =>
    match State.issueOne { s with cur := .stream t k } (.stream t k) with
    | .next z => if z.heldUp t k then (.next z, some k) else z.issueWord t ks
    | r => (r, some k)

/-- A word that another stream holds up makes a strict matrix instruction miss its scheduled cycle (R227, R242). -/
def State.wordMissed (s : State) (t : Nat) (ks : List Nat) (k : Nat) : Bool :=
  let x := s.tile t
  let st := x.stream 3
  let dt := stampOf ((st.blk.map fun b => (b.body.drop b.off).take 4).getD [])
  k != 3 && ks.contains 3 && x.mx.strict && x.mx.run && !st.free && dt != 0 && decide (x.mx.p.toNat + dt ≤ s.ccc.toNat)

/-- The matrix instruction of a held word raises SCHED_MISS at its scheduled cycle. -/
def State.missWord (s : State) (t : Nat) : Ans :=
  let st := (s.tile t).stream 3
  let hs := (st.blk.map fun b => (b.body.drop b.off).take 4).getD []
  .next (State.raise
    { s.modTile t (fun y => y.modMx fun m => { m with p := m.p + BitVec.ofNat 64 (stampOf hs) }) with cur := .stream t 3, curInsn := insnWord hs }
    .schedMiss)

/-- A word issues whole, or not at all: then the stream that held it up shows why. -/
def State.issueLockstep (s : State) (t : Nat) (ks : List Nat) : Ans :=
  match ks.find? fun k => (s.pointAt t k).isSome with
  | some k => .next { s.modStrm (.stream t k) (fun st => { st with stall := .matchPoint }) with agenda := .event (.matchPointHit t k) :: s.agenda }
  | none =>
    if ks.any fun k => (s.strm (.stream t k)).stop.isSome || s.atPreciseStop t k then .next s
    else if ks.any fun k => 0 < (s.strm (.stream t k)).bubbles then
      .next (ks.foldl (fun z k => if 0 < (z.strm (.stream t k)).bubbles then z.bubble (.stream t k) else z) s)
    else match s.issueWord t ks with
      | (a, none) => a
      | (_, some k) => match State.issueOne { s with cur := .stream t k } (.stream t k) with
        | .next z => if (z.strm (.stream t k)).stop.isNone && s.wordMissed t ks k then s.missWord t else .next (if z.heldUp t k then z else s.modStrm (.stream t k) fun st => { st with stall := .lockstep })
        | r => r

/-! ## An opportunity -/

/-- The step word of a collective engine's program; a program that has ended, or is aborted, is at its end (R178). -/
def State.engineStep (s : State) (r : CollRun) : Ans :=
  if r.aborted.isSome || r.ended then exec .stepEnd s
  else match decodeStep r.word with
    | some i => exec i s
    | none => .next s

/-- A party's issue opportunity, a precise stop apart. -/
def State.issueNow (s : State) (w : Who) : Ans :=
  let s0 : State := { s with cur := w }
  match w with
  | .engine _ => match s0.engineRun with
    | some (_, r) => s0.engineStep r
    | none => .next s0
  | _ => match s0.ready w with
    | .no z => .next z
    | .one => s0.issueOne w
    | .word => match w with
      | .stream t k => s0.issueLockstep t ((s0.tile t).lockMates k)
      | _ => .next s0

/-- The instructions that a tile's cycle still lacks to its precise stop, when they are fewer than the streams that may issue (R285). -/
def State.toStop (s : State) (t : Nat) : Option Nat :=
  let c := s.ctxOfTile t
  let l := CtxLog.of s c
  if !s.playing c then none
  else (l.target.filter fun g => g.1 == l.playIv && g.2.1 == t && (s.tile t).work < g.2.2 && g.2.2 < (s.tile t).work + 4).map fun g => g.2.2 - (s.tile t).work

/-- The state with an answer's, or the one before a stop. -/
def Ans.state (a : Ans) (s : State) : State :=
  match a with
  | .next z => z
  | _ => s

/-- What a tile's streams would come to in this cycle. -/
def State.tryCycle (s : State) (t : Nat) : State :=
  let all := issueOrder.foldl (fun z k => (z.issueNow (.stream t k)).state z) s
  issueOrder.foldl (fun z k => if z.portHeld (.stream t k) then (z.issueNow (.stream t k)).state z else z) (all.arbitrate t)

/-- The streams that issue in the cycle of a precise stop: in stream order, a lockstep word whole, until the stop's count is reached. -/
def stopStreams (x z : Tile) (left : Nat) : List Nat :=
  ([0, 1, 2, 3].foldl (fun (a : List Nat × Nat) k =>
    if a.1.contains k || left ≤ a.2 then a
    else
      let word := k :: (x.lockMates k).filter (· != k)
      (a.1 ++ word, a.2 + (word.map fun j => (z.stream j).work - (x.stream j).work).sum)) ([], 0)).1

/-- A party's issue opportunity. In the cycle in which a tile comes to its precise stop, the streams are counted in stream order, and those past
the stop do not issue (R282, R285). -/
def State.opportunity (s : State) (w : Who) : Ans :=
  match w with
  | .stream t k =>
    let s1 := match s.toStop t with
      | some n => if (s.tile t).allow.isSome then s
          else s.modTile t fun x => { x with allow := some (stopStreams x ((s.tryCycle t).tile t) n) }
      | none => s
    if (s1.tile t).allow.any (fun l => !l.contains k) then .next s1 else s1.issueNow w
  | _ => s.issueNow w

/-! ## Placing a word -/

/-- The class that reads a word, if one does. -/
def tableClass (nbits w : Nat) : Class := ((decodeTable nbits w).map (·.1)).getD .control

end

/-- Where a placed word lies: its page's virtual address, and the frames of its page tables and of its page. -/
def placeVa : Nat := 0x10000
def placeFrames : Nat × Nat × Nat × Nat × Nat := (1, 2, 3, 4, 5)

/-- Context 0 runs with its first page mapped, pinned and writable, tile 0 is its own, and the boot is done. -/
def State.prepared (s : State) (bs : List Byte) : State :=
  let (r, a, b, l, f) := placeFrames
  let node (frame : Nat) : Word := BitVec.ofNat 64 (1 + frame * 2 ^ 16)
  let va := BitVec.ofNat 64 placeVa
  let m1 := mputw (mputw (mputw s.hbm (r * 65536) (node a)) (a * 65536) (node b)) (b * 65536) (node l)
  let m2 := mputw m1 (l * 65536 + 8 * fld va 16 13) (BitVec.ofNat 64 (13 + f * 2 ^ 16))
  let s1 := ((s.setCx 0 cLIFE 1).setCx 0 cPRIVS 1).setCx 0 cPTROOT (BitVec.ofNat 64 (r * 2 ^ 16))
  let s2 := ((s1.setCx 0 cMSTATE 0).setCx 0 cREPLAY 0).setReg (offTown 0) 1
  { s2 with hbm := mwrites m2 (f * 65536) bs, pkg := { s2.pkg with released := true, boot := 1 } }

/-- A task of context 0 holds the streams of tile 0. -/
def placedTask : Task :=
  { t := { desc := 0, ctx := 0, rect := 0, saved := false }, q := 0, serial := 0, firstWin := 0, etrig := false, locks := [], fatal := none }

/-- A stream of tile 0 is to issue the halfwords: the control stream at its pc, another from a block's body. -/
def State.placeStream (s : State) (k : Nat) (hs : List (BitVec 16)) : State :=
  let va := BitVec.ofNat 64 placeVa
  let st : Stream :=
    if k = 0 then { Stream.idle with pc := va }
    else { Stream.idle with
      pc := va + 4
      blk := some { hdr := va, body := hs, off := 0, iter := 0, count := 1, lock := false, sfl := none, issued := false, entered := true, set := 0 } }
  { s.modTile 0 (fun x => { x.setStream k st with task := some placedTask, held := false, handler := none, collect := none, mp := [], tlb := [] }) with
    agenda := [.issue (.stream 0 k)] }

/-- Thread 0 runs in context 0 from the pc. -/
def State.placeThread (s : State) : State :=
  { s.setThr 0 { Thread.idle with running := true, st := { Stream.idle with pc := BitVec.ofNat 64 placeVa } } with
    coreTlb := [], agenda := [.issue (.thread 0)] }

noncomputable section

/-- Place an instruction of the opcode table so that the next step runs it. -/
def State.placeWord (s : State) (nbits w : Nat) : State :=
  let hs := tableHalves nbits w
  let hs1 := hs.take (halfCount (tableClass nbits w) (hs.headD 0))
  let s1 := s.prepared ((hs1.flatMap fun h => [h.extractLsb' 0 8, h.extractLsb' 8 8]) ++ List.replicate 8 0)
  match tableClass nbits w with
  | .control => s1.placeStream 0 hs1
  | .access => s1.placeStream 1 hs1
  | .vector => s1.placeStream 2 hs1
  | .matrix => s1.placeStream 3 hs1
  | .ferry => s1.placeThread

end

end Sys2Proof.Machine
end

