-- ==== Sys2Proof/Machine/Step.lean ====
section
/-! DEFINITION. One step of the package, and the placing of an instruction where the next step fetches it. -/
namespace Sys2Proof.Machine
open Sys2Proof

noncomputable section

/-- One step: the next move of the agenda, or, when none is left, the end of the cycle. In recovery, and until the boot is READY, a move that
the Ferry does not answer then is passed over (R22, R76). -/
def step (s : State) : Host.Outcome State Fault Refusal :=
  match s.agenda with
  | [] => .next s.tick
  | m :: rest =>
    let s0 : State := { s with agenda := rest }
    if s.answers m then
      match m with
      | .event i => exec i s0
      | .issue w => s0.opportunity w
      | .i3cRead off n => .next (s0.i3cRead off n)
      | .counterCommand => .next s0.counterCommand
      | .ferryRelease => .next s0.ferryReleases
      | .ingress n => .next (s0.retryInput n)
      | .arbitrate t => .next (s0.arbitrate t)
      | .retry w => if s0.portHeld w then s0.opportunity w else .next s0
    else .next s0

/-- The state whose next step fetches and runs the instruction that the opcode table's numbering gives the word. -/
def State.withFetchWord (s : State) (nbits w : Nat) : State := s.placeWord nbits w

end

end Sys2Proof.Machine
end

