-- ==== Sys2Proof/Laws/Encoding.lean ====
section
/-! SUPPORT. Reading a format back from its packed word gives the format; the opcode fields read as they were packed. -/
set_option Elab.async false
namespace Sys2Proof

theorem getLsbD_place {n : Nat} (w k : Nat) (x : BitVec n) (i : Nat) :
    (place w k x).getLsbD i = (decide (i < w) && (decide (k ≤ i) && x.getLsbD (i - k))) := by
  simp only [place, BitVec.getLsbD_shiftLeft, BitVec.getLsbD_setWidth]
  by_cases h : i < w
  · by_cases h2 : i < k
    · simp [h2]
    · have : i - k < w := by omega
      simp [h, h2, this, Nat.not_lt.mp h2]
  · simp [h]

@[simp] theorem readTri_packTri (m g : BitVec 6) (f : Tri) : readTri (packTri m g f) = f := by
  cases f
  simp only [readTri, packTri, Tri.mk.injEq]
  refine ⟨?_, ?_, ?_, ?_, ?_⟩ <;> (try (apply BitVec.eq_of_getLsbD_eq; intro i hi)) <;>
    simp only [BitVec.getLsbD_extractLsb', BitVec.getLsbD_or, getLsbD_place]
  all_goals first
    | (interval_cases i <;> simp)
    | simp

@[simp] theorem readImmS_packImmS (m : BitVec 6) (f : ImmS) : readImmS (packImmS m f) = f := by
  cases f
  simp only [readImmS, packImmS, ImmS.mk.injEq]
  refine ⟨?_, ?_, ?_⟩ <;> (try (apply BitVec.eq_of_getLsbD_eq; intro i hi)) <;>
    simp only [BitVec.getLsbD_extractLsb', BitVec.getLsbD_or, getLsbD_place]
  all_goals (interval_cases i <;> simp)

@[simp] theorem readImmW_packImmW (m : BitVec 6) (f : ImmW) : readImmW (packImmW m f) = f := by
  cases f
  simp only [readImmW, packImmW, ImmW.mk.injEq]
  refine ⟨?_, ?_⟩ <;> (try (apply BitVec.eq_of_getLsbD_eq; intro i hi)) <;>
    simp only [BitVec.getLsbD_extractLsb', BitVec.getLsbD_or, getLsbD_place]
  all_goals (interval_cases i <;> simp)

@[simp] theorem readBraS_packBraS (m : BitVec 6) (f : BraS) : readBraS (packBraS m f) = f := by
  cases f
  simp only [readBraS, packBraS, BraS.mk.injEq]
  refine ⟨?_, ?_, ?_⟩ <;> (try (apply BitVec.eq_of_getLsbD_eq; intro i hi)) <;>
    simp only [BitVec.getLsbD_extractLsb', BitVec.getLsbD_or, getLsbD_place]
  all_goals (interval_cases i <;> simp)

@[simp] theorem readBraL_packBraL (m : BitVec 6) (f : BraL) : readBraL (packBraL m f) = f := by
  cases f
  simp only [readBraL, packBraL, BraL.mk.injEq]
  refine ⟨?_, ?_⟩ <;> (try (apply BitVec.eq_of_getLsbD_eq; intro i hi)) <;>
    simp only [BitVec.getLsbD_extractLsb', BitVec.getLsbD_or, getLsbD_place]
  all_goals (interval_cases i <;> simp)

@[simp] theorem readMem_packMem (m : BitVec 6) (o : BitVec 3) (f : MemF) : readMem (packMem m o f) = f := by
  cases f
  simp only [readMem, packMem, MemF.mk.injEq]
  refine ⟨?_, ?_, ?_⟩ <;> (try (apply BitVec.eq_of_getLsbD_eq; intro i hi)) <;>
    simp only [BitVec.getLsbD_extractLsb', BitVec.getLsbD_or, getLsbD_place]
  all_goals (interval_cases i <;> simp)

@[simp] theorem readHdr_packHdr (f : Hdr) : readHdr (packHdr f) = f := by
  cases f
  simp only [readHdr, packHdr, Hdr.mk.injEq]
  refine ⟨?_, ?_, ?_, ?_, ?_⟩ <;> (try (apply BitVec.eq_of_getLsbD_eq; intro i hi)) <;>
    simp only [BitVec.getLsbD_extractLsb', BitVec.getLsbD_or, getLsbD_place]
  all_goals first
    | (interval_cases i <;> simp)
    | simp

@[simp] theorem readC_packC (k : BitVec 6) (f : C16) : readC (packC k f) = f := by
  cases f
  simp only [readC, packC, C16.mk.injEq]
  refine ⟨?_, ?_⟩ <;> (try (apply BitVec.eq_of_getLsbD_eq; intro i hi)) <;>
    simp only [BitVec.getLsbD_extractLsb', BitVec.getLsbD_or, getLsbD_place]
  all_goals (interval_cases i <;> simp)

@[simp] theorem readStepData_packStepData (o : BitVec 4) (f : StepDataF) : readStepData (packStepData o f) = f := by
  cases f
  simp only [readStepData, packStepData, StepDataF.mk.injEq]
  refine ⟨?_, ?_, ?_, ?_, ?_, ?_, ?_, ?_, ?_, ?_, ?_, ?_, ?_⟩ <;> (try (apply BitVec.eq_of_getLsbD_eq; intro i hi)) <;>
    simp only [BitVec.getLsbD_extractLsb', BitVec.getLsbD_or, getLsbD_place]
  all_goals first
    | (interval_cases i <;> simp)
    | simp

@[simp] theorem readStepWait_packStepWait (f : StepWaitF) : readStepWait (packStepWait f) = f := by
  cases f
  simp only [readStepWait, packStepWait, StepWaitF.mk.injEq]
  refine ⟨?_, ?_, ?_⟩ <;> (try (apply BitVec.eq_of_getLsbD_eq; intro i hi)) <;>
    simp only [BitVec.getLsbD_extractLsb', BitVec.getLsbD_or, getLsbD_place]
  all_goals first
    | (interval_cases i <;> simp)
    | simp

@[simp] theorem readStepLoop_packStepLoop (f : StepLoopF) : readStepLoop (packStepLoop f) = f := by
  cases f
  simp only [readStepLoop, packStepLoop, StepLoopF.mk.injEq]
  refine ⟨?_, ?_, ?_⟩ <;> (try (apply BitVec.eq_of_getLsbD_eq; intro i hi)) <;>
    simp only [BitVec.getLsbD_extractLsb', BitVec.getLsbD_or, getLsbD_place]
  all_goals first
    | (interval_cases i <;> simp)
    | simp

@[simp] theorem readCmd_packCmd1 (m : BitVec 6) (s : BitVec 8) (f : CmdE) : readCmd (cmdWord m f.d f.a f.b s) (packCmd1 f) = f := by
  cases f
  simp only [readCmd, cmdWord, packCmd1, CmdE.mk.injEq]
  refine ⟨?_, ?_, ?_, ?_, ?_, ?_, ?_, ?_⟩ <;> (try (apply BitVec.eq_of_getLsbD_eq; intro i hi)) <;>
    simp only [BitVec.getLsbD_extractLsb', BitVec.getLsbD_or, getLsbD_place]
  all_goals first
    | (interval_cases i <;> simp)
    | simp

@[simp] theorem readV_packV1 (m : BitVec 6) (s : BitVec 8) (f : VForm) : readV (cmdWord m f.d f.a f.b s) (packV1 f) = f := by
  cases f
  simp only [readV, cmdWord, packV1, VForm.mk.injEq]
  refine ⟨?_, ?_, ?_, ?_, ?_, ?_, ?_, ?_, ?_, ?_, ?_, ?_, ?_, ?_⟩ <;> (try (apply BitVec.eq_of_getLsbD_eq; intro i hi)) <;>
    simp only [BitVec.getLsbD_extractLsb', BitVec.getLsbD_or, getLsbD_place]
  all_goals first
    | (interval_cases i <;> simp)
    | simp

@[simp] theorem readM_packM1 (m : BitVec 6) (s : BitVec 8) (f : MForm) : readM (cmdWord m f.d f.a f.b s) (packM1 f) = f := by
  cases f
  simp only [readM, cmdWord, packM1, MForm.mk.injEq]
  refine ⟨?_, ?_, ?_, ?_, ?_, ?_, ?_, ?_, ?_, ?_, ?_, ?_, ?_⟩ <;> (try (apply BitVec.eq_of_getLsbD_eq; intro i hi)) <;>
    simp only [BitVec.getLsbD_extractLsb', BitVec.getLsbD_or, getLsbD_place]
  all_goals first
    | (interval_cases i <;> simp)
    | simp

@[simp] theorem wordMajor_packTri (m g : BitVec 6) (f : Tri) : wordMajor (packTri m g f) = BitVec.toNat (m) := by
  simp only [wordMajor, packTri]
  congr 1
  apply BitVec.eq_of_getLsbD_eq
  intro i hi
  simp only [BitVec.getLsbD_extractLsb', BitVec.getLsbD_or, getLsbD_place]
  interval_cases i <;> simp

@[simp] theorem wordMajor_packImmS (m : BitVec 6) (f : ImmS) : wordMajor (packImmS m f) = BitVec.toNat (m) := by
  simp only [wordMajor, packImmS]
  congr 1
  apply BitVec.eq_of_getLsbD_eq
  intro i hi
  simp only [BitVec.getLsbD_extractLsb', BitVec.getLsbD_or, getLsbD_place]
  interval_cases i <;> simp

@[simp] theorem wordMajor_packShift (k : BitVec 2) (f : ImmS) : wordMajor (packShift k f) = BitVec.toNat (0x25#6) := by
  simp only [wordMajor, packShift]
  congr 1
  apply BitVec.eq_of_getLsbD_eq
  intro i hi
  simp only [BitVec.getLsbD_extractLsb', BitVec.getLsbD_or, getLsbD_place]
  interval_cases i <;> simp

@[simp] theorem wordMajor_packImmW (m : BitVec 6) (f : ImmW) : wordMajor (packImmW m f) = BitVec.toNat (m) := by
  simp only [wordMajor, packImmW]
  congr 1
  apply BitVec.eq_of_getLsbD_eq
  intro i hi
  simp only [BitVec.getLsbD_extractLsb', BitVec.getLsbD_or, getLsbD_place]
  interval_cases i <;> simp

@[simp] theorem wordMajor_packBraS (m : BitVec 6) (f : BraS) : wordMajor (packBraS m f) = BitVec.toNat (m) := by
  simp only [wordMajor, packBraS]
  congr 1
  apply BitVec.eq_of_getLsbD_eq
  intro i hi
  simp only [BitVec.getLsbD_extractLsb', BitVec.getLsbD_or, getLsbD_place]
  interval_cases i <;> simp

@[simp] theorem wordMajor_packBraZ (k : BitVec 6) (f : BraS) : wordMajor (packBraZ k f) = BitVec.toNat (0x30#6) := by
  simp only [wordMajor, packBraZ]
  congr 1
  apply BitVec.eq_of_getLsbD_eq
  intro i hi
  simp only [BitVec.getLsbD_extractLsb', BitVec.getLsbD_or, getLsbD_place]
  interval_cases i <;> simp

@[simp] theorem wordMajor_packBraL (m : BitVec 6) (f : BraL) : wordMajor (packBraL m f) = BitVec.toNat (m) := by
  simp only [wordMajor, packBraL]
  congr 1
  apply BitVec.eq_of_getLsbD_eq
  intro i hi
  simp only [BitVec.getLsbD_extractLsb', BitVec.getLsbD_or, getLsbD_place]
  interval_cases i <;> simp

@[simp] theorem wordMajor_packMem (m : BitVec 6) (o : BitVec 3) (f : MemF) : wordMajor (packMem m o f) = BitVec.toNat (m) := by
  simp only [wordMajor, packMem]
  congr 1
  apply BitVec.eq_of_getLsbD_eq
  intro i hi
  simp only [BitVec.getLsbD_extractLsb', BitVec.getLsbD_or, getLsbD_place]
  interval_cases i <;> simp

@[simp] theorem wordMajor_packHdr (f : Hdr) : wordMajor (packHdr f) = BitVec.toNat (0x3F#6) := by
  simp only [wordMajor, packHdr]
  congr 1
  apply BitVec.eq_of_getLsbD_eq
  intro i hi
  simp only [BitVec.getLsbD_extractLsb', BitVec.getLsbD_or, getLsbD_place]
  interval_cases i <;> simp

@[simp] theorem wordMajor_cmdWord (m d a b : BitVec 6) (s : BitVec 8) : wordMajor (cmdWord m d a b s) = BitVec.toNat (m) := by
  simp only [wordMajor, cmdWord]
  congr 1
  apply BitVec.eq_of_getLsbD_eq
  intro i hi
  simp only [BitVec.getLsbD_extractLsb', BitVec.getLsbD_or, getLsbD_place]
  interval_cases i <;> simp

@[simp] theorem wordFunc_packTri (m g : BitVec 6) (f : Tri) : wordFunc (packTri m g f) = BitVec.toNat g := by
  simp only [wordFunc, packTri]
  congr 1
  apply BitVec.eq_of_getLsbD_eq
  intro i hi
  simp only [BitVec.getLsbD_extractLsb', BitVec.getLsbD_or, getLsbD_place]
  interval_cases i <;> simp

@[simp] theorem wordSub_cmdWord (m d a b : BitVec 6) (s : BitVec 8) : wordSub (cmdWord m d a b s) = BitVec.toNat s := by
  simp only [wordSub, cmdWord]
  congr 1
  apply BitVec.eq_of_getLsbD_eq
  intro i hi
  simp only [BitVec.getLsbD_extractLsb', BitVec.getLsbD_or, getLsbD_place]
  interval_cases i <;> simp

@[simp] theorem memOp_packMem (m : BitVec 6) (o : BitVec 3) (f : MemF) : memOp (packMem m o f) = BitVec.toNat o := by
  simp only [memOp, packMem]
  congr 1
  apply BitVec.eq_of_getLsbD_eq
  intro i hi
  simp only [BitVec.getLsbD_extractLsb', BitVec.getLsbD_or, getLsbD_place]
  interval_cases i <;> simp

@[simp] theorem wordB_packBraZ (k : BitVec 6) (f : BraS) : wordB (packBraZ k f) = BitVec.toNat k := by
  simp only [wordB, packBraZ]
  congr 1
  apply BitVec.eq_of_getLsbD_eq
  intro i hi
  simp only [BitVec.getLsbD_extractLsb', BitVec.getLsbD_or, getLsbD_place]
  interval_cases i <;> simp

@[simp] theorem shiftKind_packShift (k : BitVec 2) (f : ImmS) : shiftKind (packShift k f) = BitVec.toNat k := by
  simp only [shiftKind, packShift]
  congr 1
  apply BitVec.eq_of_getLsbD_eq
  intro i hi
  simp only [BitVec.getLsbD_extractLsb', BitVec.getLsbD_or, getLsbD_place]
  interval_cases i <;> simp

@[simp] theorem compactCop_packC (k : BitVec 6) (f : C16) : compactCop (packC k f) = BitVec.toNat k := by
  simp only [compactCop, packC]
  congr 1
  apply BitVec.eq_of_getLsbD_eq
  intro i hi
  simp only [BitVec.getLsbD_extractLsb', BitVec.getLsbD_or, getLsbD_place]
  interval_cases i <;> simp

@[simp] theorem dispSub_cmdWord (m d a b : BitVec 6) (s : BitVec 8) : (cmdWord m d a b s).extractLsb' 0 8 = s := by
  apply BitVec.eq_of_getLsbD_eq
  intro i hi
  simp only [BitVec.getLsbD_extractLsb', BitVec.getLsbD_or, getLsbD_place, cmdWord]
  interval_cases i <;> simp

@[simp] theorem stepOp_packStepData (o : BitVec 4) (f : StepDataF) : (packStepData o f).extractLsb' 0 4 = o := by
  apply BitVec.eq_of_getLsbD_eq
  intro i hi
  simp only [BitVec.getLsbD_extractLsb', BitVec.getLsbD_or, getLsbD_place, packStepData]
  interval_cases i <;> simp

@[simp] theorem stepOp_packStepWait (f : StepWaitF) : (packStepWait f).extractLsb' 0 4 = 4#4 := by
  apply BitVec.eq_of_getLsbD_eq
  intro i hi
  simp only [BitVec.getLsbD_extractLsb', BitVec.getLsbD_or, getLsbD_place, packStepWait]
  interval_cases i <;> simp

@[simp] theorem stepOp_packStepLoop (f : StepLoopF) : (packStepLoop f).extractLsb' 0 4 = 5#4 := by
  apply BitVec.eq_of_getLsbD_eq
  intro i hi
  simp only [BitVec.getLsbD_extractLsb', BitVec.getLsbD_or, getLsbD_place, packStepLoop]
  interval_cases i <;> simp

theorem readBraZ_packBraZ (k : BitVec 6) (f : BraS) (h : f.b = 0) : readBraZ (packBraZ k f) = f := by
  obtain ⟨a, b, off⟩ := f
  obtain rfl : b = 0 := h
  simp only [readBraZ, packBraZ, BraS.mk.injEq, true_and]
  refine ⟨?_, ?_⟩ <;> (apply BitVec.eq_of_getLsbD_eq; intro i hi) <;>
    simp only [BitVec.getLsbD_extractLsb', BitVec.getLsbD_or, getLsbD_place]
  all_goals (interval_cases i <;> simp)

theorem readShift_packShift (k : BitVec 2) (f : ImmS) (h : f.imm.toNat < 64) : readShift (packShift k f) = f := by
  obtain ⟨d, a, imm⟩ := f
  have hi : (imm.extractLsb' 0 6).setWidth 14 = imm := by
    apply BitVec.eq_of_toNat_eq
    simp only at h
    simp only [BitVec.extractLsb'_toNat, BitVec.toNat_setWidth, Nat.shiftRight_zero]
    omega
  simp only [readShift, packShift, ImmS.mk.injEq]
  refine ⟨?_, ?_, ?_⟩
  · apply BitVec.eq_of_getLsbD_eq
    intro i hi
    simp only [BitVec.getLsbD_extractLsb', BitVec.getLsbD_or, getLsbD_place]
    interval_cases i <;> simp
  · apply BitVec.eq_of_getLsbD_eq
    intro i hi
    simp only [BitVec.getLsbD_extractLsb', BitVec.getLsbD_or, getLsbD_place]
    interval_cases i <;> simp
  · conv_rhs => rw [← hi]
    congr 1
    apply BitVec.eq_of_getLsbD_eq
    intro i hi
    simp only [BitVec.getLsbD_extractLsb', BitVec.getLsbD_or, getLsbD_place]
    interval_cases i <;> simp

end Sys2Proof
end

