-- ==== Sys2Proof/Laws/PerInstr.lean ====
section
/-! SUPPORT. Per instruction: the words of a well-formed instruction decode, in its class, to that instruction. -/
set_option Elab.async false
namespace Sys2Proof

/-- What the words of an instruction decode to in its class; an event has no words. -/
def Laws.RoundTrip.Statement (i : Instr) : Prop :=
  i.wf = true → i.asDecoded = i →
    match i.code with
    | .none => True
    | .half h => decodeHalf i.cls h = .ok i
    | .word w => ∀ x, decodeWord i.cls w x = .ok i
    | .cmd w x => decodeWord i.cls w x = .ok i
    | .step w => decodeStep w = some i

theorem decodeWord_ok {c : Class} {i : Instr} {w x : BitVec 32} (hf : foreignClass c w = false)
    (hb : wordMajor w ≠ 0x30 ∨ wordB w < 4) (hc : isCmd c (wordMajor w) = false) (hs : select c w x = some i)
    (hw : i.wf = true) (hi : i.code = .word w) : decodeWord c w x = .ok i := by
  have hb' : (wordMajor w == 0x30 && 4 ≤ wordB w) = false := by
    rcases hb with h | h <;> simp [h]
  simp [decodeWord, hf, hc, hs, checked, hw, hi, Bool.and_assoc, hb']

theorem decodeCmd_ok {c : Class} {i : Instr} {w x : BitVec 32} (hf : foreignClass c w = false)
    (hb : wordMajor w ≠ 0x30) (hc : isCmd c (wordMajor w) = true) (hs : select c w x = some i)
    (hw : i.wf = true) (hi : i.code = .cmd w x) : decodeWord c w x = .ok i := by
  simp [decodeWord, hf, hc, hs, checked, hw, hi, hb]

theorem checked_ok {i : Instr} {code : Code} (hw : i.wf = true) (hi : i.code = code) : checked (some i) code = .ok i := by
  simp [checked, hw, hi]

theorem Laws.RoundTrip.packageReset : Laws.RoundTrip.Statement (.packageReset) := by
  intro _ _; trivial
theorem Laws.RoundTrip.resetNRelease (b : BootInput) : Laws.RoundTrip.Statement (.resetNRelease b) := by
  intro _ _; trivial
theorem Laws.RoundTrip.thermalHot (die : Nat) (degrees : Nat) : Laws.RoundTrip.Statement (.thermalHot die degrees) := by
  intro _ _; trivial
theorem Laws.RoundTrip.thermtrip (die : Nat) : Laws.RoundTrip.Statement (.thermtrip die) := by
  intro _ _; trivial
theorem Laws.RoundTrip.powerPeriodEnd (power : Nat) : Laws.RoundTrip.Statement (.powerPeriodEnd power) := by
  intro _ _; trivial
theorem Laws.RoundTrip.pkgLimitWrite (watts : BitVec 16) : Laws.RoundTrip.Statement (.pkgLimitWrite watts) := by
  intro _ _; trivial
theorem Laws.RoundTrip.lifetimeRewrite (floor : BitVec 64) : Laws.RoundTrip.Statement (.lifetimeRewrite floor) := by
  intro _ _; trivial
theorem Laws.RoundTrip.attestationRequest (nonce : List Byte) : Laws.RoundTrip.Statement (.attestationRequest nonce) := by
  intro _ _; trivial
theorem Laws.RoundTrip.attestationReportSigned : Laws.RoundTrip.Statement (.attestationReportSigned) := by
  intro _ _; trivial
theorem Laws.RoundTrip.setdasa (static dynamic : BitVec 7) : Laws.RoundTrip.Statement (.setdasa static dynamic) := by
  intro _ _; trivial
theorem Laws.RoundTrip.entdaa (dynamic : BitVec 7) : Laws.RoundTrip.Statement (.entdaa dynamic) := by
  intro _ _; trivial
theorem Laws.RoundTrip.flitReceive (link : Nat) (f : Flit) : Laws.RoundTrip.Statement (.flitReceive link f) := by
  intro _ _; trivial
theorem Laws.RoundTrip.nakReceive (link : Nat) (f : Flit) : Laws.RoundTrip.Statement (.nakReceive link f) := by
  intro _ _; trivial
theorem Laws.RoundTrip.nakResendTimeout (link : Nat) : Laws.RoundTrip.Statement (.nakResendTimeout link) := by
  intro _ _; trivial
theorem Laws.RoundTrip.goBackTimeout (link : Nat) : Laws.RoundTrip.Statement (.goBackTimeout link) := by
  intro _ _; trivial
theorem Laws.RoundTrip.nakExhausted (link : Nat) : Laws.RoundTrip.Statement (.nakExhausted link) := by
  intro _ _; trivial
theorem Laws.RoundTrip.lossOfSignal (link : Nat) : Laws.RoundTrip.Statement (.lossOfSignal link) := by
  intro _ _; trivial
theorem Laws.RoundTrip.trainingAttempt (link : Nat) : Laws.RoundTrip.Statement (.trainingAttempt link) := by
  intro _ _; trivial
theorem Laws.RoundTrip.trainingEnd (link : Nat) (locked : Bool) : Laws.RoundTrip.Statement (.trainingEnd link locked) := by
  intro _ _; trivial
theorem Laws.RoundTrip.lendPeriodEnd (link : Nat) : Laws.RoundTrip.Statement (.lendPeriodEnd link) := by
  intro _ _; trivial
theorem Laws.RoundTrip.lendReceive (link : Nat) (f : Flit) : Laws.RoundTrip.Statement (.lendReceive link f) := by
  intro _ _; trivial
theorem Laws.RoundTrip.packetForward (port : Nat) : Laws.RoundTrip.Statement (.packetForward port) := by
  intro _ _; trivial
theorem Laws.RoundTrip.rstPacket (port : Nat) : Laws.RoundTrip.Statement (.rstPacket port) := by
  intro _ _; trivial
theorem Laws.RoundTrip.raccPacket (port : Nat) : Laws.RoundTrip.Statement (.raccPacket port) := by
  intro _ _; trivial
theorem Laws.RoundTrip.msgPacket (port : Nat) : Laws.RoundTrip.Statement (.msgPacket port) := by
  intro _ _; trivial
theorem Laws.RoundTrip.redPacket (port : Nat) : Laws.RoundTrip.Statement (.redPacket port) := by
  intro _ _; trivial
theorem Laws.RoundTrip.ackPacket (port : Nat) : Laws.RoundTrip.Statement (.ackPacket port) := by
  intro _ _; trivial
theorem Laws.RoundTrip.tkqPacket (port : Nat) : Laws.RoundTrip.Statement (.tkqPacket port) := by
  intro _ _; trivial
theorem Laws.RoundTrip.tkaPacket (port : Nat) : Laws.RoundTrip.Statement (.tkaPacket port) := by
  intro _ _; trivial
theorem Laws.RoundTrip.tkqRetry (landing origin : Nat) : Laws.RoundTrip.Statement (.tkqRetry landing origin) := by
  intro _ _; trivial
theorem Laws.RoundTrip.tokenExpiry (port : Nat) : Laws.RoundTrip.Statement (.tokenExpiry port) := by
  intro _ _; trivial
theorem Laws.RoundTrip.holdQueueFull (port : Nat) : Laws.RoundTrip.Statement (.holdQueueFull port) := by
  intro _ _; trivial
theorem Laws.RoundTrip.tokenTableFull : Laws.RoundTrip.Statement (.tokenTableFull) := by
  intro _ _; trivial
theorem Laws.RoundTrip.sdownPacket (port : Nat) : Laws.RoundTrip.Statement (.sdownPacket port) := by
  intro _ _; trivial
theorem Laws.RoundTrip.sdackPacket (port : Nat) : Laws.RoundTrip.Statement (.sdackPacket port) := by
  intro _ _; trivial
theorem Laws.RoundTrip.sdownNodeTimeout (id : Nat) : Laws.RoundTrip.Statement (.sdownNodeTimeout id) := by
  intro _ _; trivial
theorem Laws.RoundTrip.shootdownRootTimeout (id : Nat) : Laws.RoundTrip.Statement (.shootdownRootTimeout id) := by
  intro _ _; trivial
theorem Laws.RoundTrip.leaseWaitExpiry (id : Nat) : Laws.RoundTrip.Statement (.leaseWaitExpiry id) := by
  intro _ _; trivial
theorem Laws.RoundTrip.fencePacket (port : Nat) : Laws.RoundTrip.Statement (.fencePacket port) := by
  intro _ _; trivial
theorem Laws.RoundTrip.fenceClrPacket (port : Nat) : Laws.RoundTrip.Statement (.fenceClrPacket port) := by
  intro _ _; trivial
theorem Laws.RoundTrip.pathrstPacket (port : Nat) : Laws.RoundTrip.Statement (.pathrstPacket port) := by
  intro _ _; trivial
theorem Laws.RoundTrip.ctsNotice (port : Nat) : Laws.RoundTrip.Statement (.ctsNotice port) := by
  intro _ _; trivial
theorem Laws.RoundTrip.acceptNotice (port : Nat) : Laws.RoundTrip.Statement (.acceptNotice port) := by
  intro _ _; trivial
theorem Laws.RoundTrip.repeatNotice (port : Nat) : Laws.RoundTrip.Statement (.repeatNotice port) := by
  intro _ _; trivial
theorem Laws.RoundTrip.stepokNotice (port : Nat) : Laws.RoundTrip.Statement (.stepokNotice port) := by
  intro _ _; trivial
theorem Laws.RoundTrip.abortNotice (port : Nat) : Laws.RoundTrip.Statement (.abortNotice port) := by
  intro _ _; trivial
theorem Laws.RoundTrip.decideNotice (port : Nat) : Laws.RoundTrip.Statement (.decideNotice port) := by
  intro _ _; trivial
theorem Laws.RoundTrip.reportNotice (port : Nat) : Laws.RoundTrip.Statement (.reportNotice port) := by
  intro _ _; trivial
theorem Laws.RoundTrip.alldoneNotice (port : Nat) : Laws.RoundTrip.Statement (.alldoneNotice port) := by
  intro _ _; trivial
theorem Laws.RoundTrip.musterNotice (port : Nat) : Laws.RoundTrip.Statement (.musterNotice port) := by
  intro _ _; trivial
theorem Laws.RoundTrip.taggedSendArrival (r : UetRequest) : Laws.RoundTrip.Statement (.taggedSendArrival r) := by
  intro _ _; trivial
theorem Laws.RoundTrip.rmaWriteArrival (r : UetRequest) : Laws.RoundTrip.Statement (.rmaWriteArrival r) := by
  intro _ _; trivial
theorem Laws.RoundTrip.continuationPacket (pdc : Nat) (off : Nat) (data : List Byte) : Laws.RoundTrip.Statement (.continuationPacket pdc off data) := by
  intro _ _; trivial
theorem Laws.RoundTrip.deliveryContextFailure (pdc : Nat) : Laws.RoundTrip.Statement (.deliveryContextFailure pdc) := by
  intro _ _; trivial
theorem Laws.RoundTrip.uudPacket (port : Nat) : Laws.RoundTrip.Statement (.uudPacket port) := by
  intro _ _; trivial
theorem Laws.RoundTrip.uetDelivery (send : Nat) (ok : Bool) : Laws.RoundTrip.Statement (.uetDelivery send ok) := by
  intro _ _; trivial
theorem Laws.RoundTrip.hostApertureWrite (aperture off : Nat) (data : List Byte) : Laws.RoundTrip.Statement (.hostApertureWrite aperture off data) := by
  intro _ _; trivial
theorem Laws.RoundTrip.doorbell (page off : Nat) (data : List Byte) : Laws.RoundTrip.Statement (.doorbell page off data) := by
  intro _ _; trivial
theorem Laws.RoundTrip.hostUnsupportedRead (bar : Nat) : Laws.RoundTrip.Statement (.hostUnsupportedRead bar) := by
  intro _ _; trivial
theorem Laws.RoundTrip.bar0Access (off size : Nat) (write : Option (BitVec 64)) : Laws.RoundTrip.Statement (.bar0Access off size write) := by
  intro _ _; trivial
theorem Laws.RoundTrip.arrivalMatch : Laws.RoundTrip.Statement (.arrivalMatch) := by
  intro _ _; trivial
theorem Laws.RoundTrip.depositCompletion (entry : Nat) : Laws.RoundTrip.Statement (.depositCompletion entry) := by
  intro _ _; trivial
theorem Laws.RoundTrip.windowDelivery : Laws.RoundTrip.Statement (.windowDelivery) := by
  intro _ _; trivial
theorem Laws.RoundTrip.engineSignal : Laws.RoundTrip.Statement (.engineSignal) := by
  intro _ _; trivial
theorem Laws.RoundTrip.counterRegisterWrite (counter : Nat) (value : BitVec 64) : Laws.RoundTrip.Statement (.counterRegisterWrite counter value) := by
  intro _ _; trivial
theorem Laws.RoundTrip.actionLaunch : Laws.RoundTrip.Statement (.actionLaunch) := by
  intro _ _; trivial
theorem Laws.RoundTrip.actionCopy : Laws.RoundTrip.Statement (.actionCopy) := by
  intro _ _; trivial
theorem Laws.RoundTrip.actionSend : Laws.RoundTrip.Statement (.actionSend) := by
  intro _ _; trivial
theorem Laws.RoundTrip.actionRst : Laws.RoundTrip.Statement (.actionRst) := by
  intro _ _; trivial
theorem Laws.RoundTrip.actionInc : Laws.RoundTrip.Statement (.actionInc) := by
  intro _ _; trivial
theorem Laws.RoundTrip.actionKick : Laws.RoundTrip.Statement (.actionKick) := by
  intro _ _; trivial
theorem Laws.RoundTrip.actionThread : Laws.RoundTrip.Statement (.actionThread) := by
  intro _ _; trivial
theorem Laws.RoundTrip.actionRel : Laws.RoundTrip.Statement (.actionRel) := by
  intro _ _; trivial
theorem Laws.RoundTrip.threadDispatch (group : Nat) : Laws.RoundTrip.Statement (.threadDispatch group) := by
  intro _ _; trivial
theorem Laws.RoundTrip.threadWatchdog (thread : Nat) : Laws.RoundTrip.Statement (.threadWatchdog thread) := by
  intro _ _; trivial
theorem Laws.RoundTrip.acqGrant (who : Who) (op : Nat) : Laws.RoundTrip.Statement (.acqGrant who op) := by
  intro _ _; trivial
theorem Laws.RoundTrip.acqTimeout (who : Who) (op : Nat) : Laws.RoundTrip.Statement (.acqTimeout who op) := by
  intro _ _; trivial
theorem Laws.RoundTrip.fenceRfTimeout (who : Who) : Laws.RoundTrip.Statement (.fenceRfTimeout who) := by
  intro _ _; trivial
theorem Laws.RoundTrip.publishExchange (who : Who) : Laws.RoundTrip.Statement (.publishExchange who) := by
  intro _ _; trivial
theorem Laws.RoundTrip.variableResultWrite (who : Who) (op : Nat) : Laws.RoundTrip.Statement (.variableResultWrite who op) := by
  intro _ _; trivial
theorem Laws.RoundTrip.remoteFlagSignal (tile n : Nat) : Laws.RoundTrip.Statement (.remoteFlagSignal tile n) := by
  intro _ _; trivial
theorem Laws.RoundTrip.lotteryDraw (tile : Nat) : Laws.RoundTrip.Statement (.lotteryDraw tile) := by
  intro _ _; trivial
theorem Laws.RoundTrip.taskRetire (tile : Nat) : Laws.RoundTrip.Statement (.taskRetire tile) := by
  intro _ _; trivial
theorem Laws.RoundTrip.taskRemoval (tile : Nat) : Laws.RoundTrip.Statement (.taskRemoval tile) := by
  intro _ _; trivial
theorem Laws.RoundTrip.rerunSlotEntry (tile : Nat) : Laws.RoundTrip.Statement (.rerunSlotEntry tile) := by
  intro _ _; trivial
theorem Laws.RoundTrip.commandQueueTake (tile stream : Nat) : Laws.RoundTrip.Statement (.commandQueueTake tile stream) := by
  intro _ _; trivial
theorem Laws.RoundTrip.blockComplete (tile stream : Nat) : Laws.RoundTrip.Statement (.blockComplete tile stream) := by
  intro _ _; trivial
theorem Laws.RoundTrip.lockstepEntry (tile : Nat) : Laws.RoundTrip.Statement (.lockstepEntry tile) := by
  intro _ _; trivial
theorem Laws.RoundTrip.matchPointHit (tile stream : Nat) : Laws.RoundTrip.Statement (.matchPointHit tile stream) := by
  intro _ _; trivial
theorem Laws.RoundTrip.hangTimeout (tile : Nat) : Laws.RoundTrip.Statement (.hangTimeout tile) := by
  intro _ _; trivial
theorem Laws.RoundTrip.wfeTimeout (who : Who) : Laws.RoundTrip.Statement (.wfeTimeout who) := by
  intro _ _; trivial
theorem Laws.RoundTrip.scoreboardStallExpiry (tile : Nat) : Laws.RoundTrip.Statement (.scoreboardStallExpiry tile) := by
  intro _ _; trivial
theorem Laws.RoundTrip.energyRefill : Laws.RoundTrip.Statement (.energyRefill) := by
  intro _ _; trivial
theorem Laws.RoundTrip.preemptStop (tile engine : Nat) : Laws.RoundTrip.Statement (.preemptStop tile engine) := by
  intro _ _; trivial
theorem Laws.RoundTrip.preemptTimeout (tile : Nat) : Laws.RoundTrip.Statement (.preemptTimeout tile) := by
  intro _ _; trivial
theorem Laws.RoundTrip.copyPiece (engine n : Nat) : Laws.RoundTrip.Statement (.copyPiece engine n) := by
  intro _ _; trivial
theorem Laws.RoundTrip.copyResume (engine n : Nat) : Laws.RoundTrip.Statement (.copyResume engine n) := by
  intro _ _; trivial
theorem Laws.RoundTrip.copyRetire (engine n : Nat) : Laws.RoundTrip.Statement (.copyRetire engine n) := by
  intro _ _; trivial
theorem Laws.RoundTrip.pageIn (engine n : Nat) (frame : Option (BitVec 36)) : Laws.RoundTrip.Statement (.pageIn engine n frame) := by
  intro _ _; trivial
theorem Laws.RoundTrip.pageMigration (m : MigrationStep) : Laws.RoundTrip.Statement (.pageMigration m) := by
  intro _ _; trivial
theorem Laws.RoundTrip.drainComplete (tile n : Nat) : Laws.RoundTrip.Statement (.drainComplete tile n) := by
  intro _ _; trivial
theorem Laws.RoundTrip.collectiveStart (engine : Nat) : Laws.RoundTrip.Statement (.collectiveStart engine) := by
  intro _ _; trivial
theorem Laws.RoundTrip.transferTake (engine src : Nat) : Laws.RoundTrip.Statement (.transferTake engine src) := by
  intro _ _; trivial
theorem Laws.RoundTrip.collLate (engine : Nat) : Laws.RoundTrip.Statement (.collLate engine) := by
  intro _ _; trivial
theorem Laws.RoundTrip.kickExpand : Laws.RoundTrip.Statement (.kickExpand) := by
  intro _ _; trivial
theorem Laws.RoundTrip.noticeTake : Laws.RoundTrip.Statement (.noticeTake) := by
  intro _ _; trivial
theorem Laws.RoundTrip.schedulerTakeover : Laws.RoundTrip.Statement (.schedulerTakeover) := by
  intro _ _; trivial
theorem Laws.RoundTrip.schedulerStop : Laws.RoundTrip.Statement (.schedulerStop) := by
  intro _ _; trivial
theorem Laws.RoundTrip.saveAreaLost (ctx off : Nat) : Laws.RoundTrip.Statement (.saveAreaLost ctx off) := by
  intro _ _; trivial
theorem Laws.RoundTrip.musterDrained (ctx : Nat) : Laws.RoundTrip.Statement (.musterDrained ctx) := by
  intro _ _; trivial
theorem Laws.RoundTrip.undoBlockMove (tile : Nat) : Laws.RoundTrip.Statement (.undoBlockMove tile) := by
  intro _ _; trivial
theorem Laws.RoundTrip.replayInputInject (ctx : Nat) : Laws.RoundTrip.Statement (.replayInputInject ctx) := by
  intro _ _; trivial
theorem Laws.RoundTrip.preciseStopReached (ctx : Nat) : Laws.RoundTrip.Statement (.preciseStopReached ctx) := by
  intro _ _; trivial
theorem Laws.RoundTrip.snapshotLatch : Laws.RoundTrip.Statement (.snapshotLatch) := by
  intro _ _; trivial
theorem Laws.RoundTrip.traceSample (tile : Nat) : Laws.RoundTrip.Statement (.traceSample tile) := by
  intro _ _; trivial
theorem Laws.RoundTrip.contextCreate (ctx : Nat) : Laws.RoundTrip.Statement (.contextCreate ctx) := by
  intro _ _; trivial
theorem Laws.RoundTrip.contextDestroy (ctx : Nat) : Laws.RoundTrip.Statement (.contextDestroy ctx) := by
  intro _ _; trivial
theorem Laws.RoundTrip.straitGeomWrite (value : BitVec 64) : Laws.RoundTrip.Statement (.straitGeomWrite value) := by
  intro _ _; trivial
theorem Laws.RoundTrip.windowEntryWrite (rx : Bool) (n : Nat) (value : BitVec 128) : Laws.RoundTrip.Statement (.windowEntryWrite rx n value) := by
  intro _ _; trivial
theorem Laws.RoundTrip.txdstWrite (n : Nat) (value : BitVec 64) : Laws.RoundTrip.Statement (.txdstWrite n value) := by
  intro _ _; trivial
theorem Laws.RoundTrip.xlatCtlWrite (value : BitVec 64) : Laws.RoundTrip.Statement (.xlatCtlWrite value) := by
  intro _ _; trivial
theorem Laws.RoundTrip.townWrite (tile : Nat) (value : BitVec 64) : Laws.RoundTrip.Statement (.townWrite tile value) := by
  intro _ _; trivial
theorem Laws.RoundTrip.cengOwnWrite (engine : Nat) (value : BitVec 64) : Laws.RoundTrip.Statement (.cengOwnWrite engine value) := by
  intro _ _; trivial
theorem Laws.RoundTrip.itinWrite (n word : Nat) (value : BitVec 64) : Laws.RoundTrip.Statement (.itinWrite n word value) := by
  intro _ _; trivial
theorem Laws.RoundTrip.undowinOldestWrite (ctx : Nat) (value : BitVec 32) : Laws.RoundTrip.Statement (.undowinOldestWrite ctx value) := by
  intro _ _; trivial
theorem Laws.RoundTrip.replayPlayClear (ctx : Nat) : Laws.RoundTrip.Statement (.replayPlayClear ctx) := by
  intro _ _; trivial
theorem Laws.RoundTrip.registerWrite (off : Nat) (value : BitVec 64) : Laws.RoundTrip.Statement (.registerWrite off value) := by
  intro _ _; trivial
theorem Laws.RoundTrip.registerReadClear (off : Nat) : Laws.RoundTrip.Statement (.registerReadClear off) := by
  intro _ _; trivial
theorem Laws.RoundTrip.blockHeader (f : Hdr) : Laws.RoundTrip.Statement (.blockHeader f) := by
  intro h _ x
  refine decodeWord_ok (c := .access) ?_ ?_ ?_ ?_ h rfl
  · simp [foreignClass]
  · simp
  · simp [isCmd]
  · show selectAccess (wordMajor _) _ _ = _
    rw [wordMajor_packHdr]
    show some (Instr.blockHeader (readHdr _)) = _
    rw [readHdr_packHdr]
theorem Laws.RoundTrip.add (f : Tri) : Laws.RoundTrip.Statement (.add f) := by
  intro h _ x
  refine decodeWord_ok (c := .control) ?_ ?_ ?_ ?_ h rfl
  · simp [foreignClass]
  · simp
  · simp [isCmd]
  · show selectControl (wordMajor _) _ _ = _
    rw [wordMajor_packTri]
    show selectControl20 (wordFunc _) _ = _
    rw [wordFunc_packTri]
    show some (Instr.add (readTri _)) = _
    rw [readTri_packTri]
theorem Laws.RoundTrip.sub (f : Tri) : Laws.RoundTrip.Statement (.sub f) := by
  intro h _ x
  refine decodeWord_ok (c := .control) ?_ ?_ ?_ ?_ h rfl
  · simp [foreignClass]
  · simp
  · simp [isCmd]
  · show selectControl (wordMajor _) _ _ = _
    rw [wordMajor_packTri]
    show selectControl20 (wordFunc _) _ = _
    rw [wordFunc_packTri]
    show some (Instr.sub (readTri _)) = _
    rw [readTri_packTri]
theorem Laws.RoundTrip.and (f : Tri) : Laws.RoundTrip.Statement (.and f) := by
  intro h _ x
  refine decodeWord_ok (c := .control) ?_ ?_ ?_ ?_ h rfl
  · simp [foreignClass]
  · simp
  · simp [isCmd]
  · show selectControl (wordMajor _) _ _ = _
    rw [wordMajor_packTri]
    show selectControl20 (wordFunc _) _ = _
    rw [wordFunc_packTri]
    show some (Instr.and (readTri _)) = _
    rw [readTri_packTri]
theorem Laws.RoundTrip.or (f : Tri) : Laws.RoundTrip.Statement (.or f) := by
  intro h _ x
  refine decodeWord_ok (c := .control) ?_ ?_ ?_ ?_ h rfl
  · simp [foreignClass]
  · simp
  · simp [isCmd]
  · show selectControl (wordMajor _) _ _ = _
    rw [wordMajor_packTri]
    show selectControl20 (wordFunc _) _ = _
    rw [wordFunc_packTri]
    show some (Instr.or (readTri _)) = _
    rw [readTri_packTri]
theorem Laws.RoundTrip.xor (f : Tri) : Laws.RoundTrip.Statement (.xor f) := by
  intro h _ x
  refine decodeWord_ok (c := .control) ?_ ?_ ?_ ?_ h rfl
  · simp [foreignClass]
  · simp
  · simp [isCmd]
  · show selectControl (wordMajor _) _ _ = _
    rw [wordMajor_packTri]
    show selectControl20 (wordFunc _) _ = _
    rw [wordFunc_packTri]
    show some (Instr.xor (readTri _)) = _
    rw [readTri_packTri]
theorem Laws.RoundTrip.andn (f : Tri) : Laws.RoundTrip.Statement (.andn f) := by
  intro h _ x
  refine decodeWord_ok (c := .control) ?_ ?_ ?_ ?_ h rfl
  · simp [foreignClass]
  · simp
  · simp [isCmd]
  · show selectControl (wordMajor _) _ _ = _
    rw [wordMajor_packTri]
    show selectControl20 (wordFunc _) _ = _
    rw [wordFunc_packTri]
    show some (Instr.andn (readTri _)) = _
    rw [readTri_packTri]
theorem Laws.RoundTrip.sll (f : Tri) : Laws.RoundTrip.Statement (.sll f) := by
  intro h _ x
  refine decodeWord_ok (c := .control) ?_ ?_ ?_ ?_ h rfl
  · simp [foreignClass]
  · simp
  · simp [isCmd]
  · show selectControl (wordMajor _) _ _ = _
    rw [wordMajor_packTri]
    show selectControl20 (wordFunc _) _ = _
    rw [wordFunc_packTri]
    show some (Instr.sll (readTri _)) = _
    rw [readTri_packTri]
theorem Laws.RoundTrip.srl (f : Tri) : Laws.RoundTrip.Statement (.srl f) := by
  intro h _ x
  refine decodeWord_ok (c := .control) ?_ ?_ ?_ ?_ h rfl
  · simp [foreignClass]
  · simp
  · simp [isCmd]
  · show selectControl (wordMajor _) _ _ = _
    rw [wordMajor_packTri]
    show selectControl20 (wordFunc _) _ = _
    rw [wordFunc_packTri]
    show some (Instr.srl (readTri _)) = _
    rw [readTri_packTri]
theorem Laws.RoundTrip.sra (f : Tri) : Laws.RoundTrip.Statement (.sra f) := by
  intro h _ x
  refine decodeWord_ok (c := .control) ?_ ?_ ?_ ?_ h rfl
  · simp [foreignClass]
  · simp
  · simp [isCmd]
  · show selectControl (wordMajor _) _ _ = _
    rw [wordMajor_packTri]
    show selectControl20 (wordFunc _) _ = _
    rw [wordFunc_packTri]
    show some (Instr.sra (readTri _)) = _
    rw [readTri_packTri]
theorem Laws.RoundTrip.mul (f : Tri) : Laws.RoundTrip.Statement (.mul f) := by
  intro h _ x
  refine decodeWord_ok (c := .control) ?_ ?_ ?_ ?_ h rfl
  · simp [foreignClass]
  · simp
  · simp [isCmd]
  · show selectControl (wordMajor _) _ _ = _
    rw [wordMajor_packTri]
    show selectControl20 (wordFunc _) _ = _
    rw [wordFunc_packTri]
    show some (Instr.mul (readTri _)) = _
    rw [readTri_packTri]
theorem Laws.RoundTrip.mulh (f : Tri) : Laws.RoundTrip.Statement (.mulh f) := by
  intro h _ x
  refine decodeWord_ok (c := .control) ?_ ?_ ?_ ?_ h rfl
  · simp [foreignClass]
  · simp
  · simp [isCmd]
  · show selectControl (wordMajor _) _ _ = _
    rw [wordMajor_packTri]
    show selectControl20 (wordFunc _) _ = _
    rw [wordFunc_packTri]
    show some (Instr.mulh (readTri _)) = _
    rw [readTri_packTri]
theorem Laws.RoundTrip.mulhn (f : Tri) : Laws.RoundTrip.Statement (.mulhn f) := by
  intro h _ x
  refine decodeWord_ok (c := .control) ?_ ?_ ?_ ?_ h rfl
  · simp [foreignClass]
  · simp
  · simp [isCmd]
  · show selectControl (wordMajor _) _ _ = _
    rw [wordMajor_packTri]
    show selectControl20 (wordFunc _) _ = _
    rw [wordFunc_packTri]
    show some (Instr.mulhn (readTri _)) = _
    rw [readTri_packTri]
theorem Laws.RoundTrip.div (f : Tri) : Laws.RoundTrip.Statement (.div f) := by
  intro h _ x
  refine decodeWord_ok (c := .control) ?_ ?_ ?_ ?_ h rfl
  · simp [foreignClass]
  · simp
  · simp [isCmd]
  · show selectControl (wordMajor _) _ _ = _
    rw [wordMajor_packTri]
    show selectControl20 (wordFunc _) _ = _
    rw [wordFunc_packTri]
    show some (Instr.div (readTri _)) = _
    rw [readTri_packTri]
theorem Laws.RoundTrip.divn (f : Tri) : Laws.RoundTrip.Statement (.divn f) := by
  intro h _ x
  refine decodeWord_ok (c := .control) ?_ ?_ ?_ ?_ h rfl
  · simp [foreignClass]
  · simp
  · simp [isCmd]
  · show selectControl (wordMajor _) _ _ = _
    rw [wordMajor_packTri]
    show selectControl20 (wordFunc _) _ = _
    rw [wordFunc_packTri]
    show some (Instr.divn (readTri _)) = _
    rw [readTri_packTri]
theorem Laws.RoundTrip.rem (f : Tri) : Laws.RoundTrip.Statement (.rem f) := by
  intro h _ x
  refine decodeWord_ok (c := .control) ?_ ?_ ?_ ?_ h rfl
  · simp [foreignClass]
  · simp
  · simp [isCmd]
  · show selectControl (wordMajor _) _ _ = _
    rw [wordMajor_packTri]
    show selectControl20 (wordFunc _) _ = _
    rw [wordFunc_packTri]
    show some (Instr.rem (readTri _)) = _
    rw [readTri_packTri]
theorem Laws.RoundTrip.remn (f : Tri) : Laws.RoundTrip.Statement (.remn f) := by
  intro h _ x
  refine decodeWord_ok (c := .control) ?_ ?_ ?_ ?_ h rfl
  · simp [foreignClass]
  · simp
  · simp [isCmd]
  · show selectControl (wordMajor _) _ _ = _
    rw [wordMajor_packTri]
    show selectControl20 (wordFunc _) _ = _
    rw [wordFunc_packTri]
    show some (Instr.remn (readTri _)) = _
    rw [readTri_packTri]
theorem Laws.RoundTrip.min (f : Tri) : Laws.RoundTrip.Statement (.min f) := by
  intro h _ x
  refine decodeWord_ok (c := .control) ?_ ?_ ?_ ?_ h rfl
  · simp [foreignClass]
  · simp
  · simp [isCmd]
  · show selectControl (wordMajor _) _ _ = _
    rw [wordMajor_packTri]
    show selectControl20 (wordFunc _) _ = _
    rw [wordFunc_packTri]
    show some (Instr.min (readTri _)) = _
    rw [readTri_packTri]
theorem Laws.RoundTrip.max (f : Tri) : Laws.RoundTrip.Statement (.max f) := by
  intro h _ x
  refine decodeWord_ok (c := .control) ?_ ?_ ?_ ?_ h rfl
  · simp [foreignClass]
  · simp
  · simp [isCmd]
  · show selectControl (wordMajor _) _ _ = _
    rw [wordMajor_packTri]
    show selectControl20 (wordFunc _) _ = _
    rw [wordFunc_packTri]
    show some (Instr.max (readTri _)) = _
    rw [readTri_packTri]
theorem Laws.RoundTrip.minn (f : Tri) : Laws.RoundTrip.Statement (.minn f) := by
  intro h _ x
  refine decodeWord_ok (c := .control) ?_ ?_ ?_ ?_ h rfl
  · simp [foreignClass]
  · simp
  · simp [isCmd]
  · show selectControl (wordMajor _) _ _ = _
    rw [wordMajor_packTri]
    show selectControl20 (wordFunc _) _ = _
    rw [wordFunc_packTri]
    show some (Instr.minn (readTri _)) = _
    rw [readTri_packTri]
theorem Laws.RoundTrip.maxn (f : Tri) : Laws.RoundTrip.Statement (.maxn f) := by
  intro h _ x
  refine decodeWord_ok (c := .control) ?_ ?_ ?_ ?_ h rfl
  · simp [foreignClass]
  · simp
  · simp [isCmd]
  · show selectControl (wordMajor _) _ _ = _
    rw [wordMajor_packTri]
    show selectControl20 (wordFunc _) _ = _
    rw [wordFunc_packTri]
    show some (Instr.maxn (readTri _)) = _
    rw [readTri_packTri]
theorem Laws.RoundTrip.slt (f : Tri) : Laws.RoundTrip.Statement (.slt f) := by
  intro h _ x
  refine decodeWord_ok (c := .control) ?_ ?_ ?_ ?_ h rfl
  · simp [foreignClass]
  · simp
  · simp [isCmd]
  · show selectControl (wordMajor _) _ _ = _
    rw [wordMajor_packTri]
    show selectControl20 (wordFunc _) _ = _
    rw [wordFunc_packTri]
    show some (Instr.slt (readTri _)) = _
    rw [readTri_packTri]
theorem Laws.RoundTrip.sltn (f : Tri) : Laws.RoundTrip.Statement (.sltn f) := by
  intro h _ x
  refine decodeWord_ok (c := .control) ?_ ?_ ?_ ?_ h rfl
  · simp [foreignClass]
  · simp
  · simp [isCmd]
  · show selectControl (wordMajor _) _ _ = _
    rw [wordMajor_packTri]
    show selectControl20 (wordFunc _) _ = _
    rw [wordFunc_packTri]
    show some (Instr.sltn (readTri _)) = _
    rw [readTri_packTri]
theorem Laws.RoundTrip.seq (f : Tri) : Laws.RoundTrip.Statement (.seq f) := by
  intro h _ x
  refine decodeWord_ok (c := .control) ?_ ?_ ?_ ?_ h rfl
  · simp [foreignClass]
  · simp
  · simp [isCmd]
  · show selectControl (wordMajor _) _ _ = _
    rw [wordMajor_packTri]
    show selectControl20 (wordFunc _) _ = _
    rw [wordFunc_packTri]
    show some (Instr.seq (readTri _)) = _
    rw [readTri_packTri]
theorem Laws.RoundTrip.sne (f : Tri) : Laws.RoundTrip.Statement (.sne f) := by
  intro h _ x
  refine decodeWord_ok (c := .control) ?_ ?_ ?_ ?_ h rfl
  · simp [foreignClass]
  · simp
  · simp [isCmd]
  · show selectControl (wordMajor _) _ _ = _
    rw [wordMajor_packTri]
    show selectControl20 (wordFunc _) _ = _
    rw [wordFunc_packTri]
    show some (Instr.sne (readTri _)) = _
    rw [readTri_packTri]
theorem Laws.RoundTrip.sel (f : Tri) : Laws.RoundTrip.Statement (.sel f) := by
  intro h _ x
  refine decodeWord_ok (c := .control) ?_ ?_ ?_ ?_ h rfl
  · simp [foreignClass]
  · simp
  · simp [isCmd]
  · show selectControl (wordMajor _) _ _ = _
    rw [wordMajor_packTri]
    show selectControl20 (wordFunc _) _ = _
    rw [wordFunc_packTri]
    show some (Instr.sel (readTri _)) = _
    rw [readTri_packTri]
theorem Laws.RoundTrip.clz (f : Tri) : Laws.RoundTrip.Statement (.clz f) := by
  intro h _ x
  refine decodeWord_ok (c := .control) ?_ ?_ ?_ ?_ h rfl
  · simp [foreignClass]
  · simp
  · simp [isCmd]
  · show selectControl (wordMajor _) _ _ = _
    rw [wordMajor_packTri]
    show selectControl20 (wordFunc _) _ = _
    rw [wordFunc_packTri]
    show some (Instr.clz (readTri _)) = _
    rw [readTri_packTri]
theorem Laws.RoundTrip.ctz (f : Tri) : Laws.RoundTrip.Statement (.ctz f) := by
  intro h _ x
  refine decodeWord_ok (c := .control) ?_ ?_ ?_ ?_ h rfl
  · simp [foreignClass]
  · simp
  · simp [isCmd]
  · show selectControl (wordMajor _) _ _ = _
    rw [wordMajor_packTri]
    show selectControl20 (wordFunc _) _ = _
    rw [wordFunc_packTri]
    show some (Instr.ctz (readTri _)) = _
    rw [readTri_packTri]
theorem Laws.RoundTrip.popc (f : Tri) : Laws.RoundTrip.Statement (.popc f) := by
  intro h _ x
  refine decodeWord_ok (c := .control) ?_ ?_ ?_ ?_ h rfl
  · simp [foreignClass]
  · simp
  · simp [isCmd]
  · show selectControl (wordMajor _) _ _ = _
    rw [wordMajor_packTri]
    show selectControl20 (wordFunc _) _ = _
    rw [wordFunc_packTri]
    show some (Instr.popc (readTri _)) = _
    rw [readTri_packTri]
theorem Laws.RoundTrip.sext (f : Tri) : Laws.RoundTrip.Statement (.sext f) := by
  intro h _ x
  refine decodeWord_ok (c := .control) ?_ ?_ ?_ ?_ h rfl
  · simp [foreignClass]
  · simp
  · simp [isCmd]
  · show selectControl (wordMajor _) _ _ = _
    rw [wordMajor_packTri]
    show selectControl20 (wordFunc _) _ = _
    rw [wordFunc_packTri]
    show some (Instr.sext (readTri _)) = _
    rw [readTri_packTri]
theorem Laws.RoundTrip.zext (f : Tri) : Laws.RoundTrip.Statement (.zext f) := by
  intro h _ x
  refine decodeWord_ok (c := .control) ?_ ?_ ?_ ?_ h rfl
  · simp [foreignClass]
  · simp
  · simp [isCmd]
  · show selectControl (wordMajor _) _ _ = _
    rw [wordMajor_packTri]
    show selectControl20 (wordFunc _) _ = _
    rw [wordFunc_packTri]
    show some (Instr.zext (readTri _)) = _
    rw [readTri_packTri]
theorem Laws.RoundTrip.bswap (f : Tri) : Laws.RoundTrip.Statement (.bswap f) := by
  intro h _ x
  refine decodeWord_ok (c := .control) ?_ ?_ ?_ ?_ h rfl
  · simp [foreignClass]
  · simp
  · simp [isCmd]
  · show selectControl (wordMajor _) _ _ = _
    rw [wordMajor_packTri]
    show selectControl20 (wordFunc _) _ = _
    rw [wordFunc_packTri]
    show some (Instr.bswap (readTri _)) = _
    rw [readTri_packTri]
theorem Laws.RoundTrip.addi (f : ImmS) : Laws.RoundTrip.Statement (.addi f) := by
  intro h _ x
  refine decodeWord_ok (c := .control) ?_ ?_ ?_ ?_ h rfl
  · simp [foreignClass]
  · simp
  · simp [isCmd]
  · show selectControl (wordMajor _) _ _ = _
    rw [wordMajor_packImmS]
    show some (Instr.addi (readImmS _)) = _
    rw [readImmS_packImmS]
theorem Laws.RoundTrip.andi (f : ImmS) : Laws.RoundTrip.Statement (.andi f) := by
  intro h _ x
  refine decodeWord_ok (c := .control) ?_ ?_ ?_ ?_ h rfl
  · simp [foreignClass]
  · simp
  · simp [isCmd]
  · show selectControl (wordMajor _) _ _ = _
    rw [wordMajor_packImmS]
    show some (Instr.andi (readImmS _)) = _
    rw [readImmS_packImmS]
theorem Laws.RoundTrip.ori (f : ImmS) : Laws.RoundTrip.Statement (.ori f) := by
  intro h _ x
  refine decodeWord_ok (c := .control) ?_ ?_ ?_ ?_ h rfl
  · simp [foreignClass]
  · simp
  · simp [isCmd]
  · show selectControl (wordMajor _) _ _ = _
    rw [wordMajor_packImmS]
    show some (Instr.ori (readImmS _)) = _
    rw [readImmS_packImmS]
theorem Laws.RoundTrip.xori (f : ImmS) : Laws.RoundTrip.Statement (.xori f) := by
  intro h _ x
  refine decodeWord_ok (c := .control) ?_ ?_ ?_ ?_ h rfl
  · simp [foreignClass]
  · simp
  · simp [isCmd]
  · show selectControl (wordMajor _) _ _ = _
    rw [wordMajor_packImmS]
    show some (Instr.xori (readImmS _)) = _
    rw [readImmS_packImmS]
theorem Laws.RoundTrip.slli (f : ImmS) : Laws.RoundTrip.Statement (.slli f) := by
  intro h _ x
  have hi : f.imm.toNat < 64 := by simpa [Instr.wf] using h
  refine decodeWord_ok (c := .control) ?_ ?_ ?_ ?_ h rfl
  · simp [foreignClass]
  · simp
  · simp [isCmd]
  · show selectControl (wordMajor _) _ _ = _
    rw [wordMajor_packShift]
    show selectControl25 (shiftKind _) _ = _
    rw [shiftKind_packShift]
    show some (Instr.slli (readShift _)) = _
    rw [readShift_packShift _ _ hi]
theorem Laws.RoundTrip.srli (f : ImmS) : Laws.RoundTrip.Statement (.srli f) := by
  intro h _ x
  have hi : f.imm.toNat < 64 := by simpa [Instr.wf] using h
  refine decodeWord_ok (c := .control) ?_ ?_ ?_ ?_ h rfl
  · simp [foreignClass]
  · simp
  · simp [isCmd]
  · show selectControl (wordMajor _) _ _ = _
    rw [wordMajor_packShift]
    show selectControl25 (shiftKind _) _ = _
    rw [shiftKind_packShift]
    show some (Instr.srli (readShift _)) = _
    rw [readShift_packShift _ _ hi]
theorem Laws.RoundTrip.srai (f : ImmS) : Laws.RoundTrip.Statement (.srai f) := by
  intro h _ x
  have hi : f.imm.toNat < 64 := by simpa [Instr.wf] using h
  refine decodeWord_ok (c := .control) ?_ ?_ ?_ ?_ h rfl
  · simp [foreignClass]
  · simp
  · simp [isCmd]
  · show selectControl (wordMajor _) _ _ = _
    rw [wordMajor_packShift]
    show selectControl25 (shiftKind _) _ = _
    rw [shiftKind_packShift]
    show some (Instr.srai (readShift _)) = _
    rw [readShift_packShift _ _ hi]
theorem Laws.RoundTrip.slti (f : ImmS) : Laws.RoundTrip.Statement (.slti f) := by
  intro h _ x
  refine decodeWord_ok (c := .control) ?_ ?_ ?_ ?_ h rfl
  · simp [foreignClass]
  · simp
  · simp [isCmd]
  · show selectControl (wordMajor _) _ _ = _
    rw [wordMajor_packImmS]
    show some (Instr.slti (readImmS _)) = _
    rw [readImmS_packImmS]
theorem Laws.RoundTrip.sltni (f : ImmS) : Laws.RoundTrip.Statement (.sltni f) := by
  intro h _ x
  refine decodeWord_ok (c := .control) ?_ ?_ ?_ ?_ h rfl
  · simp [foreignClass]
  · simp
  · simp [isCmd]
  · show selectControl (wordMajor _) _ _ = _
    rw [wordMajor_packImmS]
    show some (Instr.sltni (readImmS _)) = _
    rw [readImmS_packImmS]
theorem Laws.RoundTrip.li (f : ImmW) : Laws.RoundTrip.Statement (.li f) := by
  intro h _ x
  refine decodeWord_ok (c := .control) ?_ ?_ ?_ ?_ h rfl
  · simp [foreignClass]
  · simp
  · simp [isCmd]
  · show selectControl (wordMajor _) _ _ = _
    rw [wordMajor_packImmW]
    show some (Instr.li (readImmW _)) = _
    rw [readImmW_packImmW]
theorem Laws.RoundTrip.lih (f : ImmW) : Laws.RoundTrip.Statement (.lih f) := by
  intro h _ x
  refine decodeWord_ok (c := .control) ?_ ?_ ?_ ?_ h rfl
  · simp [foreignClass]
  · simp
  · simp [isCmd]
  · show selectControl (wordMajor _) _ _ = _
    rw [wordMajor_packImmW]
    show some (Instr.lih (readImmW _)) = _
    rw [readImmW_packImmW]
theorem Laws.RoundTrip.beq (f : BraS) : Laws.RoundTrip.Statement (.beq f) := by
  intro h _ x
  refine decodeWord_ok (c := .control) ?_ ?_ ?_ ?_ h rfl
  · simp [foreignClass]
  · simp
  · simp [isCmd]
  · show selectControl (wordMajor _) _ _ = _
    rw [wordMajor_packBraS]
    show some (Instr.beq (readBraS _)) = _
    rw [readBraS_packBraS]
theorem Laws.RoundTrip.bne (f : BraS) : Laws.RoundTrip.Statement (.bne f) := by
  intro h _ x
  refine decodeWord_ok (c := .control) ?_ ?_ ?_ ?_ h rfl
  · simp [foreignClass]
  · simp
  · simp [isCmd]
  · show selectControl (wordMajor _) _ _ = _
    rw [wordMajor_packBraS]
    show some (Instr.bne (readBraS _)) = _
    rw [readBraS_packBraS]
theorem Laws.RoundTrip.blt (f : BraS) : Laws.RoundTrip.Statement (.blt f) := by
  intro h _ x
  refine decodeWord_ok (c := .control) ?_ ?_ ?_ ?_ h rfl
  · simp [foreignClass]
  · simp
  · simp [isCmd]
  · show selectControl (wordMajor _) _ _ = _
    rw [wordMajor_packBraS]
    show some (Instr.blt (readBraS _)) = _
    rw [readBraS_packBraS]
theorem Laws.RoundTrip.bge (f : BraS) : Laws.RoundTrip.Statement (.bge f) := by
  intro h _ x
  refine decodeWord_ok (c := .control) ?_ ?_ ?_ ?_ h rfl
  · simp [foreignClass]
  · simp
  · simp [isCmd]
  · show selectControl (wordMajor _) _ _ = _
    rw [wordMajor_packBraS]
    show some (Instr.bge (readBraS _)) = _
    rw [readBraS_packBraS]
theorem Laws.RoundTrip.bltn (f : BraS) : Laws.RoundTrip.Statement (.bltn f) := by
  intro h _ x
  refine decodeWord_ok (c := .control) ?_ ?_ ?_ ?_ h rfl
  · simp [foreignClass]
  · simp
  · simp [isCmd]
  · show selectControl (wordMajor _) _ _ = _
    rw [wordMajor_packBraS]
    show some (Instr.bltn (readBraS _)) = _
    rw [readBraS_packBraS]
theorem Laws.RoundTrip.bgen (f : BraS) : Laws.RoundTrip.Statement (.bgen f) := by
  intro h _ x
  refine decodeWord_ok (c := .control) ?_ ?_ ?_ ?_ h rfl
  · simp [foreignClass]
  · simp
  · simp [isCmd]
  · show selectControl (wordMajor _) _ _ = _
    rw [wordMajor_packBraS]
    show some (Instr.bgen (readBraS _)) = _
    rw [readBraS_packBraS]
theorem Laws.RoundTrip.bz (f : BraS) : Laws.RoundTrip.Statement (.bz f) := by
  intro h _ x
  have hb : f.b = 0 := by simpa [Instr.wf] using h
  refine decodeWord_ok (c := .control) ?_ ?_ ?_ ?_ h rfl
  · simp [foreignClass]
  · simp
  · simp [isCmd]
  · show selectControl (wordMajor _) _ _ = _
    rw [wordMajor_packBraZ]
    show selectControl30 (wordB _) _ = _
    rw [wordB_packBraZ]
    show some (Instr.bz (readBraZ _)) = _
    rw [readBraZ_packBraZ _ _ hb]
theorem Laws.RoundTrip.bnz (f : BraS) : Laws.RoundTrip.Statement (.bnz f) := by
  intro h _ x
  have hb : f.b = 0 := by simpa [Instr.wf] using h
  refine decodeWord_ok (c := .control) ?_ ?_ ?_ ?_ h rfl
  · simp [foreignClass]
  · simp
  · simp [isCmd]
  · show selectControl (wordMajor _) _ _ = _
    rw [wordMajor_packBraZ]
    show selectControl30 (wordB _) _ = _
    rw [wordB_packBraZ]
    show some (Instr.bnz (readBraZ _)) = _
    rw [readBraZ_packBraZ _ _ hb]
theorem Laws.RoundTrip.bfull (f : BraS) : Laws.RoundTrip.Statement (.bfull f) := by
  intro h _ x
  have hb : f.b = 0 := by simpa [Instr.wf] using h
  refine decodeWord_ok (c := .control) ?_ ?_ ?_ ?_ h rfl
  · simp [foreignClass]
  · simp
  · simp [isCmd]
  · show selectControl (wordMajor _) _ _ = _
    rw [wordMajor_packBraZ]
    show selectControl30 (wordB _) _ = _
    rw [wordB_packBraZ]
    show some (Instr.bfull (readBraZ _)) = _
    rw [readBraZ_packBraZ _ _ hb]
theorem Laws.RoundTrip.bempty (f : BraS) : Laws.RoundTrip.Statement (.bempty f) := by
  intro h _ x
  have hb : f.b = 0 := by simpa [Instr.wf] using h
  refine decodeWord_ok (c := .control) ?_ ?_ ?_ ?_ h rfl
  · simp [foreignClass]
  · simp
  · simp [isCmd]
  · show selectControl (wordMajor _) _ _ = _
    rw [wordMajor_packBraZ]
    show selectControl30 (wordB _) _ = _
    rw [wordB_packBraZ]
    show some (Instr.bempty (readBraZ _)) = _
    rw [readBraZ_packBraZ _ _ hb]
theorem Laws.RoundTrip.j (f : BraL) : Laws.RoundTrip.Statement (.j f) := by
  intro h _ x
  refine decodeWord_ok (c := .control) ?_ ?_ ?_ ?_ h rfl
  · simp [foreignClass]
  · simp
  · simp [isCmd]
  · show selectControl (wordMajor _) _ _ = _
    rw [wordMajor_packBraL]
    show some (Instr.j (readBraL _)) = _
    rw [readBraL_packBraL]
theorem Laws.RoundTrip.jal (f : BraL) : Laws.RoundTrip.Statement (.jal f) := by
  intro h _ x
  refine decodeWord_ok (c := .control) ?_ ?_ ?_ ?_ h rfl
  · simp [foreignClass]
  · simp
  · simp [isCmd]
  · show selectControl (wordMajor _) _ _ = _
    rw [wordMajor_packBraL]
    show some (Instr.jal (readBraL _)) = _
    rw [readBraL_packBraL]
theorem Laws.RoundTrip.jr (f : Tri) : Laws.RoundTrip.Statement (.jr f) := by
  intro h _ x
  refine decodeWord_ok (c := .control) ?_ ?_ ?_ ?_ h rfl
  · simp [foreignClass]
  · simp
  · simp [isCmd]
  · show selectControl (wordMajor _) _ _ = _
    rw [wordMajor_packTri]
    show selectControl33 (wordFunc _) _ = _
    rw [wordFunc_packTri]
    show some (Instr.jr (readTri _)) = _
    rw [readTri_packTri]
theorem Laws.RoundTrip.jalr (f : Tri) : Laws.RoundTrip.Statement (.jalr f) := by
  intro h _ x
  refine decodeWord_ok (c := .control) ?_ ?_ ?_ ?_ h rfl
  · simp [foreignClass]
  · simp
  · simp [isCmd]
  · show selectControl (wordMajor _) _ _ = _
    rw [wordMajor_packTri]
    show selectControl33 (wordFunc _) _ = _
    rw [wordFunc_packTri]
    show some (Instr.jalr (readTri _)) = _
    rw [readTri_packTri]
theorem Laws.RoundTrip.ldb (f : MemF) : Laws.RoundTrip.Statement (.ldb f) := by
  intro h _ x
  refine decodeWord_ok (c := .control) ?_ ?_ ?_ ?_ h rfl
  · simp [foreignClass]
  · simp
  · simp [isCmd]
  · show selectControl (wordMajor _) _ _ = _
    rw [wordMajor_packMem]
    show selectControl34 (memOp _) _ = _
    rw [memOp_packMem]
    show some (Instr.ldb (readMem _)) = _
    rw [readMem_packMem]
theorem Laws.RoundTrip.ldbz (f : MemF) : Laws.RoundTrip.Statement (.ldbz f) := by
  intro h _ x
  refine decodeWord_ok (c := .control) ?_ ?_ ?_ ?_ h rfl
  · simp [foreignClass]
  · simp
  · simp [isCmd]
  · show selectControl (wordMajor _) _ _ = _
    rw [wordMajor_packMem]
    show selectControl34 (memOp _) _ = _
    rw [memOp_packMem]
    show some (Instr.ldbz (readMem _)) = _
    rw [readMem_packMem]
theorem Laws.RoundTrip.ldh (f : MemF) : Laws.RoundTrip.Statement (.ldh f) := by
  intro h _ x
  refine decodeWord_ok (c := .control) ?_ ?_ ?_ ?_ h rfl
  · simp [foreignClass]
  · simp
  · simp [isCmd]
  · show selectControl (wordMajor _) _ _ = _
    rw [wordMajor_packMem]
    show selectControl34 (memOp _) _ = _
    rw [memOp_packMem]
    show some (Instr.ldh (readMem _)) = _
    rw [readMem_packMem]
theorem Laws.RoundTrip.ldhz (f : MemF) : Laws.RoundTrip.Statement (.ldhz f) := by
  intro h _ x
  refine decodeWord_ok (c := .control) ?_ ?_ ?_ ?_ h rfl
  · simp [foreignClass]
  · simp
  · simp [isCmd]
  · show selectControl (wordMajor _) _ _ = _
    rw [wordMajor_packMem]
    show selectControl34 (memOp _) _ = _
    rw [memOp_packMem]
    show some (Instr.ldhz (readMem _)) = _
    rw [readMem_packMem]
theorem Laws.RoundTrip.ldw (f : MemF) : Laws.RoundTrip.Statement (.ldw f) := by
  intro h _ x
  refine decodeWord_ok (c := .control) ?_ ?_ ?_ ?_ h rfl
  · simp [foreignClass]
  · simp
  · simp [isCmd]
  · show selectControl (wordMajor _) _ _ = _
    rw [wordMajor_packMem]
    show selectControl34 (memOp _) _ = _
    rw [memOp_packMem]
    show some (Instr.ldw (readMem _)) = _
    rw [readMem_packMem]
theorem Laws.RoundTrip.ldwz (f : MemF) : Laws.RoundTrip.Statement (.ldwz f) := by
  intro h _ x
  refine decodeWord_ok (c := .control) ?_ ?_ ?_ ?_ h rfl
  · simp [foreignClass]
  · simp
  · simp [isCmd]
  · show selectControl (wordMajor _) _ _ = _
    rw [wordMajor_packMem]
    show selectControl34 (memOp _) _ = _
    rw [memOp_packMem]
    show some (Instr.ldwz (readMem _)) = _
    rw [readMem_packMem]
theorem Laws.RoundTrip.ldd (f : MemF) : Laws.RoundTrip.Statement (.ldd f) := by
  intro h _ x
  refine decodeWord_ok (c := .control) ?_ ?_ ?_ ?_ h rfl
  · simp [foreignClass]
  · simp
  · simp [isCmd]
  · show selectControl (wordMajor _) _ _ = _
    rw [wordMajor_packMem]
    show selectControl34 (memOp _) _ = _
    rw [memOp_packMem]
    show some (Instr.ldd (readMem _)) = _
    rw [readMem_packMem]
theorem Laws.RoundTrip.fill (f : MemF) : Laws.RoundTrip.Statement (.fill f) := by
  intro h _ x
  refine decodeWord_ok (c := .control) ?_ ?_ ?_ ?_ h rfl
  · simp [foreignClass]
  · simp
  · simp [isCmd]
  · show selectControl (wordMajor _) _ _ = _
    rw [wordMajor_packMem]
    show selectControl34 (memOp _) _ = _
    rw [memOp_packMem]
    show some (Instr.fill (readMem _)) = _
    rw [readMem_packMem]
theorem Laws.RoundTrip.stb (f : MemF) : Laws.RoundTrip.Statement (.stb f) := by
  intro h _ x
  refine decodeWord_ok (c := .control) ?_ ?_ ?_ ?_ h rfl
  · simp [foreignClass]
  · simp
  · simp [isCmd]
  · show selectControl (wordMajor _) _ _ = _
    rw [wordMajor_packMem]
    show selectControl35 (memOp _) _ = _
    rw [memOp_packMem]
    show some (Instr.stb (readMem _)) = _
    rw [readMem_packMem]
theorem Laws.RoundTrip.sth (f : MemF) : Laws.RoundTrip.Statement (.sth f) := by
  intro h _ x
  refine decodeWord_ok (c := .control) ?_ ?_ ?_ ?_ h rfl
  · simp [foreignClass]
  · simp
  · simp [isCmd]
  · show selectControl (wordMajor _) _ _ = _
    rw [wordMajor_packMem]
    show selectControl35 (memOp _) _ = _
    rw [memOp_packMem]
    show some (Instr.sth (readMem _)) = _
    rw [readMem_packMem]
theorem Laws.RoundTrip.stw (f : MemF) : Laws.RoundTrip.Statement (.stw f) := by
  intro h _ x
  refine decodeWord_ok (c := .control) ?_ ?_ ?_ ?_ h rfl
  · simp [foreignClass]
  · simp
  · simp [isCmd]
  · show selectControl (wordMajor _) _ _ = _
    rw [wordMajor_packMem]
    show selectControl35 (memOp _) _ = _
    rw [memOp_packMem]
    show some (Instr.stw (readMem _)) = _
    rw [readMem_packMem]
theorem Laws.RoundTrip.std (f : MemF) : Laws.RoundTrip.Statement (.std f) := by
  intro h _ x
  refine decodeWord_ok (c := .control) ?_ ?_ ?_ ?_ h rfl
  · simp [foreignClass]
  · simp
  · simp [isCmd]
  · show selectControl (wordMajor _) _ _ = _
    rw [wordMajor_packMem]
    show selectControl35 (memOp _) _ = _
    rw [memOp_packMem]
    show some (Instr.std (readMem _)) = _
    rw [readMem_packMem]
theorem Laws.RoundTrip.spill (f : MemF) : Laws.RoundTrip.Statement (.spill f) := by
  intro h _ x
  refine decodeWord_ok (c := .control) ?_ ?_ ?_ ?_ h rfl
  · simp [foreignClass]
  · simp
  · simp [isCmd]
  · show selectControl (wordMajor _) _ _ = _
    rw [wordMajor_packMem]
    show selectControl35 (memOp _) _ = _
    rw [memOp_packMem]
    show some (Instr.spill (readMem _)) = _
    rw [readMem_packMem]
theorem Laws.RoundTrip.amoadd (f : Tri) : Laws.RoundTrip.Statement (.amoadd f) := by
  intro h _ x
  refine decodeWord_ok (c := .control) ?_ ?_ ?_ ?_ h rfl
  · simp [foreignClass]
  · simp
  · simp [isCmd]
  · show selectControl (wordMajor _) _ _ = _
    rw [wordMajor_packTri]
    show selectControl36 (wordFunc _) _ = _
    rw [wordFunc_packTri]
    show some (Instr.amoadd (readTri _)) = _
    rw [readTri_packTri]
theorem Laws.RoundTrip.amoand (f : Tri) : Laws.RoundTrip.Statement (.amoand f) := by
  intro h _ x
  refine decodeWord_ok (c := .control) ?_ ?_ ?_ ?_ h rfl
  · simp [foreignClass]
  · simp
  · simp [isCmd]
  · show selectControl (wordMajor _) _ _ = _
    rw [wordMajor_packTri]
    show selectControl36 (wordFunc _) _ = _
    rw [wordFunc_packTri]
    show some (Instr.amoand (readTri _)) = _
    rw [readTri_packTri]
theorem Laws.RoundTrip.amoor (f : Tri) : Laws.RoundTrip.Statement (.amoor f) := by
  intro h _ x
  refine decodeWord_ok (c := .control) ?_ ?_ ?_ ?_ h rfl
  · simp [foreignClass]
  · simp
  · simp [isCmd]
  · show selectControl (wordMajor _) _ _ = _
    rw [wordMajor_packTri]
    show selectControl36 (wordFunc _) _ = _
    rw [wordFunc_packTri]
    show some (Instr.amoor (readTri _)) = _
    rw [readTri_packTri]
theorem Laws.RoundTrip.amoxor (f : Tri) : Laws.RoundTrip.Statement (.amoxor f) := by
  intro h _ x
  refine decodeWord_ok (c := .control) ?_ ?_ ?_ ?_ h rfl
  · simp [foreignClass]
  · simp
  · simp [isCmd]
  · show selectControl (wordMajor _) _ _ = _
    rw [wordMajor_packTri]
    show selectControl36 (wordFunc _) _ = _
    rw [wordFunc_packTri]
    show some (Instr.amoxor (readTri _)) = _
    rw [readTri_packTri]
theorem Laws.RoundTrip.amomin (f : Tri) : Laws.RoundTrip.Statement (.amomin f) := by
  intro h _ x
  refine decodeWord_ok (c := .control) ?_ ?_ ?_ ?_ h rfl
  · simp [foreignClass]
  · simp
  · simp [isCmd]
  · show selectControl (wordMajor _) _ _ = _
    rw [wordMajor_packTri]
    show selectControl36 (wordFunc _) _ = _
    rw [wordFunc_packTri]
    show some (Instr.amomin (readTri _)) = _
    rw [readTri_packTri]
theorem Laws.RoundTrip.amomax (f : Tri) : Laws.RoundTrip.Statement (.amomax f) := by
  intro h _ x
  refine decodeWord_ok (c := .control) ?_ ?_ ?_ ?_ h rfl
  · simp [foreignClass]
  · simp
  · simp [isCmd]
  · show selectControl (wordMajor _) _ _ = _
    rw [wordMajor_packTri]
    show selectControl36 (wordFunc _) _ = _
    rw [wordFunc_packTri]
    show some (Instr.amomax (readTri _)) = _
    rw [readTri_packTri]
theorem Laws.RoundTrip.amominn (f : Tri) : Laws.RoundTrip.Statement (.amominn f) := by
  intro h _ x
  refine decodeWord_ok (c := .control) ?_ ?_ ?_ ?_ h rfl
  · simp [foreignClass]
  · simp
  · simp [isCmd]
  · show selectControl (wordMajor _) _ _ = _
    rw [wordMajor_packTri]
    show selectControl36 (wordFunc _) _ = _
    rw [wordFunc_packTri]
    show some (Instr.amominn (readTri _)) = _
    rw [readTri_packTri]
theorem Laws.RoundTrip.amomaxn (f : Tri) : Laws.RoundTrip.Statement (.amomaxn f) := by
  intro h _ x
  refine decodeWord_ok (c := .control) ?_ ?_ ?_ ?_ h rfl
  · simp [foreignClass]
  · simp
  · simp [isCmd]
  · show selectControl (wordMajor _) _ _ = _
    rw [wordMajor_packTri]
    show selectControl36 (wordFunc _) _ = _
    rw [wordFunc_packTri]
    show some (Instr.amomaxn (readTri _)) = _
    rw [readTri_packTri]
theorem Laws.RoundTrip.amoswap (f : Tri) : Laws.RoundTrip.Statement (.amoswap f) := by
  intro h _ x
  refine decodeWord_ok (c := .control) ?_ ?_ ?_ ?_ h rfl
  · simp [foreignClass]
  · simp
  · simp [isCmd]
  · show selectControl (wordMajor _) _ _ = _
    rw [wordMajor_packTri]
    show selectControl36 (wordFunc _) _ = _
    rw [wordFunc_packTri]
    show some (Instr.amoswap (readTri _)) = _
    rw [readTri_packTri]
theorem Laws.RoundTrip.amocas (f : Tri) : Laws.RoundTrip.Statement (.amocas f) := by
  intro h _ x
  refine decodeWord_ok (c := .control) ?_ ?_ ?_ ?_ h rfl
  · simp [foreignClass]
  · simp
  · simp [isCmd]
  · show selectControl (wordMajor _) _ _ = _
    rw [wordMajor_packTri]
    show selectControl36 (wordFunc _) _ = _
    rw [wordFunc_packTri]
    show some (Instr.amocas (readTri _)) = _
    rw [readTri_packTri]
theorem Laws.RoundTrip.amoaddI32 (f : Tri) : Laws.RoundTrip.Statement (.amoaddI32 f) := by
  intro h _ x
  refine decodeWord_ok (c := .control) ?_ ?_ ?_ ?_ h rfl
  · simp [foreignClass]
  · simp
  · simp [isCmd]
  · show selectControl (wordMajor _) _ _ = _
    rw [wordMajor_packTri]
    show selectControl36 (wordFunc _) _ = _
    rw [wordFunc_packTri]
    show some (Instr.amoaddI32 (readTri _)) = _
    rw [readTri_packTri]
theorem Laws.RoundTrip.amoandI32 (f : Tri) : Laws.RoundTrip.Statement (.amoandI32 f) := by
  intro h _ x
  refine decodeWord_ok (c := .control) ?_ ?_ ?_ ?_ h rfl
  · simp [foreignClass]
  · simp
  · simp [isCmd]
  · show selectControl (wordMajor _) _ _ = _
    rw [wordMajor_packTri]
    show selectControl36 (wordFunc _) _ = _
    rw [wordFunc_packTri]
    show some (Instr.amoandI32 (readTri _)) = _
    rw [readTri_packTri]
theorem Laws.RoundTrip.amoorI32 (f : Tri) : Laws.RoundTrip.Statement (.amoorI32 f) := by
  intro h _ x
  refine decodeWord_ok (c := .control) ?_ ?_ ?_ ?_ h rfl
  · simp [foreignClass]
  · simp
  · simp [isCmd]
  · show selectControl (wordMajor _) _ _ = _
    rw [wordMajor_packTri]
    show selectControl36 (wordFunc _) _ = _
    rw [wordFunc_packTri]
    show some (Instr.amoorI32 (readTri _)) = _
    rw [readTri_packTri]
theorem Laws.RoundTrip.amoxorI32 (f : Tri) : Laws.RoundTrip.Statement (.amoxorI32 f) := by
  intro h _ x
  refine decodeWord_ok (c := .control) ?_ ?_ ?_ ?_ h rfl
  · simp [foreignClass]
  · simp
  · simp [isCmd]
  · show selectControl (wordMajor _) _ _ = _
    rw [wordMajor_packTri]
    show selectControl36 (wordFunc _) _ = _
    rw [wordFunc_packTri]
    show some (Instr.amoxorI32 (readTri _)) = _
    rw [readTri_packTri]
theorem Laws.RoundTrip.amominI32 (f : Tri) : Laws.RoundTrip.Statement (.amominI32 f) := by
  intro h _ x
  refine decodeWord_ok (c := .control) ?_ ?_ ?_ ?_ h rfl
  · simp [foreignClass]
  · simp
  · simp [isCmd]
  · show selectControl (wordMajor _) _ _ = _
    rw [wordMajor_packTri]
    show selectControl36 (wordFunc _) _ = _
    rw [wordFunc_packTri]
    show some (Instr.amominI32 (readTri _)) = _
    rw [readTri_packTri]
theorem Laws.RoundTrip.amomaxI32 (f : Tri) : Laws.RoundTrip.Statement (.amomaxI32 f) := by
  intro h _ x
  refine decodeWord_ok (c := .control) ?_ ?_ ?_ ?_ h rfl
  · simp [foreignClass]
  · simp
  · simp [isCmd]
  · show selectControl (wordMajor _) _ _ = _
    rw [wordMajor_packTri]
    show selectControl36 (wordFunc _) _ = _
    rw [wordFunc_packTri]
    show some (Instr.amomaxI32 (readTri _)) = _
    rw [readTri_packTri]
theorem Laws.RoundTrip.amominnN32 (f : Tri) : Laws.RoundTrip.Statement (.amominnN32 f) := by
  intro h _ x
  refine decodeWord_ok (c := .control) ?_ ?_ ?_ ?_ h rfl
  · simp [foreignClass]
  · simp
  · simp [isCmd]
  · show selectControl (wordMajor _) _ _ = _
    rw [wordMajor_packTri]
    show selectControl36 (wordFunc _) _ = _
    rw [wordFunc_packTri]
    show some (Instr.amominnN32 (readTri _)) = _
    rw [readTri_packTri]
theorem Laws.RoundTrip.amomaxnN32 (f : Tri) : Laws.RoundTrip.Statement (.amomaxnN32 f) := by
  intro h _ x
  refine decodeWord_ok (c := .control) ?_ ?_ ?_ ?_ h rfl
  · simp [foreignClass]
  · simp
  · simp [isCmd]
  · show selectControl (wordMajor _) _ _ = _
    rw [wordMajor_packTri]
    show selectControl36 (wordFunc _) _ = _
    rw [wordFunc_packTri]
    show some (Instr.amomaxnN32 (readTri _)) = _
    rw [readTri_packTri]
theorem Laws.RoundTrip.amoswapI32 (f : Tri) : Laws.RoundTrip.Statement (.amoswapI32 f) := by
  intro h _ x
  refine decodeWord_ok (c := .control) ?_ ?_ ?_ ?_ h rfl
  · simp [foreignClass]
  · simp
  · simp [isCmd]
  · show selectControl (wordMajor _) _ _ = _
    rw [wordMajor_packTri]
    show selectControl36 (wordFunc _) _ = _
    rw [wordFunc_packTri]
    show some (Instr.amoswapI32 (readTri _)) = _
    rw [readTri_packTri]
theorem Laws.RoundTrip.amocasI32 (f : Tri) : Laws.RoundTrip.Statement (.amocasI32 f) := by
  intro h _ x
  refine decodeWord_ok (c := .control) ?_ ?_ ?_ ?_ h rfl
  · simp [foreignClass]
  · simp
  · simp [isCmd]
  · show selectControl (wordMajor _) _ _ = _
    rw [wordMajor_packTri]
    show selectControl36 (wordFunc _) _ = _
    rw [wordFunc_packTri]
    show some (Instr.amocasI32 (readTri _)) = _
    rw [readTri_packTri]
theorem Laws.RoundTrip.amofaddF32 (f : Tri) : Laws.RoundTrip.Statement (.amofaddF32 f) := by
  intro h _ x
  refine decodeWord_ok (c := .control) ?_ ?_ ?_ ?_ h rfl
  · simp [foreignClass]
  · simp
  · simp [isCmd]
  · show selectControl (wordMajor _) _ _ = _
    rw [wordMajor_packTri]
    show selectControl36 (wordFunc _) _ = _
    rw [wordFunc_packTri]
    show some (Instr.amofaddF32 (readTri _)) = _
    rw [readTri_packTri]
theorem Laws.RoundTrip.acq (f : Tri) : Laws.RoundTrip.Statement (.acq f) := by
  intro h _ x
  refine decodeWord_ok (c := .control) ?_ ?_ ?_ ?_ h rfl
  · simp [foreignClass]
  · simp
  · simp [isCmd]
  · show selectControl (wordMajor _) _ _ = _
    rw [wordMajor_packTri]
    show selectControl37 (wordFunc _) _ = _
    rw [wordFunc_packTri]
    show some (Instr.acq (readTri _)) = _
    rw [readTri_packTri]
theorem Laws.RoundTrip.acqt (f : Tri) : Laws.RoundTrip.Statement (.acqt f) := by
  intro h _ x
  refine decodeWord_ok (c := .control) ?_ ?_ ?_ ?_ h rfl
  · simp [foreignClass]
  · simp
  · simp [isCmd]
  · show selectControl (wordMajor _) _ _ = _
    rw [wordMajor_packTri]
    show selectControl37 (wordFunc _) _ = _
    rw [wordFunc_packTri]
    show some (Instr.acqt (readTri _)) = _
    rw [readTri_packTri]
theorem Laws.RoundTrip.rel (f : Tri) : Laws.RoundTrip.Statement (.rel f) := by
  intro h _ x
  refine decodeWord_ok (c := .control) ?_ ?_ ?_ ?_ h rfl
  · simp [foreignClass]
  · simp
  · simp [isCmd]
  · show selectControl (wordMajor _) _ _ = _
    rw [wordMajor_packTri]
    show selectControl37 (wordFunc _) _ = _
    rw [wordFunc_packTri]
    show some (Instr.rel (readTri _)) = _
    rw [readTri_packTri]
theorem Laws.RoundTrip.bind (f : Tri) : Laws.RoundTrip.Statement (.bind f) := by
  intro h _ x
  refine decodeWord_ok (c := .control) ?_ ?_ ?_ ?_ h rfl
  · simp [foreignClass]
  · simp
  · simp [isCmd]
  · show selectControl (wordMajor _) _ _ = _
    rw [wordMajor_packTri]
    show selectControl37 (wordFunc _) _ = _
    rw [wordFunc_packTri]
    show some (Instr.bind (readTri _)) = _
    rw [readTri_packTri]
theorem Laws.RoundTrip.unbind (f : Tri) : Laws.RoundTrip.Statement (.unbind f) := by
  intro h _ x
  refine decodeWord_ok (c := .control) ?_ ?_ ?_ ?_ h rfl
  · simp [foreignClass]
  · simp
  · simp [isCmd]
  · show selectControl (wordMajor _) _ _ = _
    rw [wordMajor_packTri]
    show selectControl37 (wordFunc _) _ = _
    rw [wordFunc_packTri]
    show some (Instr.unbind (readTri _)) = _
    rw [readTri_packTri]
theorem Laws.RoundTrip.publish (f : Tri) : Laws.RoundTrip.Statement (.publish f) := by
  intro h _ x
  refine decodeWord_ok (c := .control) ?_ ?_ ?_ ?_ h rfl
  · simp [foreignClass]
  · simp
  · simp [isCmd]
  · show selectControl (wordMajor _) _ _ = _
    rw [wordMajor_packTri]
    show selectControl37 (wordFunc _) _ = _
    rw [wordFunc_packTri]
    show some (Instr.publish (readTri _)) = _
    rw [readTri_packTri]
theorem Laws.RoundTrip.fence : Laws.RoundTrip.Statement (.fence) := by
  intro _ _ x; rfl
theorem Laws.RoundTrip.fenceRf : Laws.RoundTrip.Statement (.fenceRf) := by
  intro _ _ x; rfl
theorem Laws.RoundTrip.bar (f : Tri) : Laws.RoundTrip.Statement (.bar f) := by
  intro h _ x
  refine decodeWord_ok (c := .control) ?_ ?_ ?_ ?_ h rfl
  · simp [foreignClass]
  · simp
  · simp [isCmd]
  · show selectControl (wordMajor _) _ _ = _
    rw [wordMajor_packTri]
    show selectControl37 (wordFunc _) _ = _
    rw [wordFunc_packTri]
    show some (Instr.bar (readTri _)) = _
    rw [readTri_packTri]
theorem Laws.RoundTrip.flagw (f : Tri) : Laws.RoundTrip.Statement (.flagw f) := by
  intro h _ x
  refine decodeWord_ok (c := .control) ?_ ?_ ?_ ?_ h rfl
  · simp [foreignClass]
  · simp
  · simp [isCmd]
  · show selectControl (wordMajor _) _ _ = _
    rw [wordMajor_packTri]
    show selectControl37 (wordFunc _) _ = _
    rw [wordFunc_packTri]
    show some (Instr.flagw (readTri _)) = _
    rw [readTri_packTri]
theorem Laws.RoundTrip.flags (f : Tri) : Laws.RoundTrip.Statement (.flags f) := by
  intro h _ x
  refine decodeWord_ok (c := .control) ?_ ?_ ?_ ?_ h rfl
  · simp [foreignClass]
  · simp
  · simp [isCmd]
  · show selectControl (wordMajor _) _ _ = _
    rw [wordMajor_packTri]
    show selectControl37 (wordFunc _) _ = _
    rw [wordFunc_packTri]
    show some (Instr.flags (readTri _)) = _
    rw [readTri_packTri]
theorem Laws.RoundTrip.flagc (f : Tri) : Laws.RoundTrip.Statement (.flagc f) := by
  intro h _ x
  refine decodeWord_ok (c := .control) ?_ ?_ ?_ ?_ h rfl
  · simp [foreignClass]
  · simp
  · simp [isCmd]
  · show selectControl (wordMajor _) _ _ = _
    rw [wordMajor_packTri]
    show selectControl37 (wordFunc _) _ = _
    rw [wordFunc_packTri]
    show some (Instr.flagc (readTri _)) = _
    rw [readTri_packTri]
theorem Laws.RoundTrip.disp (f : CmdE) (q : BitVec 8) : Laws.RoundTrip.Statement (.disp f q) := by
  intro h _
  refine decodeCmd_ok (c := .control) ?_ ?_ ?_ ?_ h rfl
  · simp [foreignClass]
  · simp
  · simp [isCmd]
  · show selectControl (wordMajor _) _ _ = _
    rw [wordMajor_cmdWord]
    show some (Instr.disp (readCmd _ _) (BitVec.extractLsb' 0 8 _)) = _
    rw [readCmd_packCmd1, dispSub_cmdWord]
theorem Laws.RoundTrip.nop : Laws.RoundTrip.Statement (.nop) := by
  intro _ _ x; rfl
theorem Laws.RoundTrip.sysrd (f : Tri) : Laws.RoundTrip.Statement (.sysrd f) := by
  intro h _ x
  refine decodeWord_ok (c := .control) ?_ ?_ ?_ ?_ h rfl
  · simp [foreignClass]
  · simp
  · simp [isCmd]
  · show selectControl (wordMajor _) _ _ = _
    rw [wordMajor_packTri]
    show selectControl39 (wordFunc _) _ = _
    rw [wordFunc_packTri]
    show some (Instr.sysrd (readTri _)) = _
    rw [readTri_packTri]
theorem Laws.RoundTrip.syswr (f : Tri) : Laws.RoundTrip.Statement (.syswr f) := by
  intro h _ x
  refine decodeWord_ok (c := .control) ?_ ?_ ?_ ?_ h rfl
  · simp [foreignClass]
  · simp
  · simp [isCmd]
  · show selectControl (wordMajor _) _ _ = _
    rw [wordMajor_packTri]
    show selectControl39 (wordFunc _) _ = _
    rw [wordFunc_packTri]
    show some (Instr.syswr (readTri _)) = _
    rw [readTri_packTri]
theorem Laws.RoundTrip.trap (f : Tri) : Laws.RoundTrip.Statement (.trap f) := by
  intro h _ x
  refine decodeWord_ok (c := .control) ?_ ?_ ?_ ?_ h rfl
  · simp [foreignClass]
  · simp
  · simp [isCmd]
  · show selectControl (wordMajor _) _ _ = _
    rw [wordMajor_packTri]
    show selectControl39 (wordFunc _) _ = _
    rw [wordFunc_packTri]
    show some (Instr.trap (readTri _)) = _
    rw [readTri_packTri]
theorem Laws.RoundTrip.reti (f : Tri) : Laws.RoundTrip.Statement (.reti f) := by
  intro h _ x
  refine decodeWord_ok (c := .ferry) ?_ ?_ ?_ ?_ h rfl
  · simp [foreignClass]
  · simp
  · simp [isCmd]
  · show selectControl (wordMajor _) _ _ = _
    rw [wordMajor_packTri]
    show selectControl39 (wordFunc _) _ = _
    rw [wordFunc_packTri]
    show some (Instr.reti (readTri _)) = _
    rw [readTri_packTri]
theorem Laws.RoundTrip.mpret : Laws.RoundTrip.Statement (.mpret) := by
  intro _ _ x; rfl
theorem Laws.RoundTrip.wfe : Laws.RoundTrip.Statement (.wfe) := by
  intro _ _ x; rfl
theorem Laws.RoundTrip.halt : Laws.RoundTrip.Statement (.halt) := by
  intro _ _ x; rfl
theorem Laws.RoundTrip.rdcc (f : Tri) : Laws.RoundTrip.Statement (.rdcc f) := by
  intro h _ x
  refine decodeWord_ok (c := .control) ?_ ?_ ?_ ?_ h rfl
  · simp [foreignClass]
  · simp
  · simp [isCmd]
  · show selectControl (wordMajor _) _ _ = _
    rw [wordMajor_packTri]
    show selectControl39 (wordFunc _) _ = _
    rw [wordFunc_packTri]
    show some (Instr.rdcc (readTri _)) = _
    rw [readTri_packTri]
theorem Laws.RoundTrip.rdwork (f : Tri) : Laws.RoundTrip.Statement (.rdwork f) := by
  intro h _ x
  refine decodeWord_ok (c := .control) ?_ ?_ ?_ ?_ h rfl
  · simp [foreignClass]
  · simp
  · simp [isCmd]
  · show selectControl (wordMajor _) _ _ = _
    rw [wordMajor_packTri]
    show selectControl39 (wordFunc _) _ = _
    rw [wordFunc_packTri]
    show some (Instr.rdwork (readTri _)) = _
    rw [readTri_packTri]
theorem Laws.RoundTrip.etrig : Laws.RoundTrip.Statement (.etrig) := by
  intro _ _ x; rfl
theorem Laws.RoundTrip.tdone : Laws.RoundTrip.Statement (.tdone) := by
  intro _ _ x; rfl
theorem Laws.RoundTrip.mark : Laws.RoundTrip.Statement (.mark) := by
  intro _ _ x; rfl
theorem Laws.RoundTrip.nopC : Laws.RoundTrip.Statement (.nopC) := by
  intro h _; exact checked_ok h rfl
theorem Laws.RoundTrip.addC (f : C16) : Laws.RoundTrip.Statement (.addC f) := by
  intro h _
  show checked (selectCompact _ (compactCop _) _) _ = _
  rw [compactCop_packC]
  show checked (some (Instr.addC (readC _))) _ = _
  rw [readC_packC]
  exact checked_ok h rfl
theorem Laws.RoundTrip.subC (f : C16) : Laws.RoundTrip.Statement (.subC f) := by
  intro h _
  show checked (selectCompact _ (compactCop _) _) _ = _
  rw [compactCop_packC]
  show checked (some (Instr.subC (readC _))) _ = _
  rw [readC_packC]
  exact checked_ok h rfl
theorem Laws.RoundTrip.andC (f : C16) : Laws.RoundTrip.Statement (.andC f) := by
  intro h _
  show checked (selectCompact _ (compactCop _) _) _ = _
  rw [compactCop_packC]
  show checked (some (Instr.andC (readC _))) _ = _
  rw [readC_packC]
  exact checked_ok h rfl
theorem Laws.RoundTrip.orC (f : C16) : Laws.RoundTrip.Statement (.orC f) := by
  intro h _
  show checked (selectCompact _ (compactCop _) _) _ = _
  rw [compactCop_packC]
  show checked (some (Instr.orC (readC _))) _ = _
  rw [readC_packC]
  exact checked_ok h rfl
theorem Laws.RoundTrip.xorC (f : C16) : Laws.RoundTrip.Statement (.xorC f) := by
  intro h _
  show checked (selectCompact _ (compactCop _) _) _ = _
  rw [compactCop_packC]
  show checked (some (Instr.xorC (readC _))) _ = _
  rw [readC_packC]
  exact checked_ok h rfl
theorem Laws.RoundTrip.addiC (f : C16) : Laws.RoundTrip.Statement (.addiC f) := by
  intro h _
  show checked (selectCompact _ (compactCop _) _) _ = _
  rw [compactCop_packC]
  show checked (some (Instr.addiC (readC _))) _ = _
  rw [readC_packC]
  exact checked_ok h rfl
theorem Laws.RoundTrip.slliC (f : C16) : Laws.RoundTrip.Statement (.slliC f) := by
  intro h _
  show checked (selectCompact _ (compactCop _) _) _ = _
  rw [compactCop_packC]
  show checked (some (Instr.slliC (readC _))) _ = _
  rw [readC_packC]
  exact checked_ok h rfl
theorem Laws.RoundTrip.srliC (f : C16) : Laws.RoundTrip.Statement (.srliC f) := by
  intro h _
  show checked (selectCompact _ (compactCop _) _) _ = _
  rw [compactCop_packC]
  show checked (some (Instr.srliC (readC _))) _ = _
  rw [readC_packC]
  exact checked_ok h rfl
theorem Laws.RoundTrip.sraiC (f : C16) : Laws.RoundTrip.Statement (.sraiC f) := by
  intro h _
  show checked (selectCompact _ (compactCop _) _) _ = _
  rw [compactCop_packC]
  show checked (some (Instr.sraiC (readC _))) _ = _
  rw [readC_packC]
  exact checked_ok h rfl
theorem Laws.RoundTrip.liC (f : C16) : Laws.RoundTrip.Statement (.liC f) := by
  intro h _
  show checked (selectCompact _ (compactCop _) _) _ = _
  rw [compactCop_packC]
  show checked (some (Instr.liC (readC _))) _ = _
  rw [readC_packC]
  exact checked_ok h rfl
theorem Laws.RoundTrip.addS0C (f : C16) : Laws.RoundTrip.Statement (.addS0C f) := by
  intro h _
  show checked (selectCompact _ (compactCop _) _) _ = _
  rw [compactCop_packC]
  show checked (some (Instr.addS0C (readC _))) _ = _
  rw [readC_packC]
  exact checked_ok h rfl
theorem Laws.RoundTrip.lddC (f : C16) : Laws.RoundTrip.Statement (.lddC f) := by
  intro h _
  show checked (selectCompact _ (compactCop _) _) _ = _
  rw [compactCop_packC]
  show checked (some (Instr.lddC (readC _))) _ = _
  rw [readC_packC]
  exact checked_ok h rfl
theorem Laws.RoundTrip.stdC (f : C16) : Laws.RoundTrip.Statement (.stdC f) := by
  intro h _
  show checked (selectCompact _ (compactCop _) _) _ = _
  rw [compactCop_packC]
  show checked (some (Instr.stdC (readC _))) _ = _
  rw [readC_packC]
  exact checked_ok h rfl
theorem Laws.RoundTrip.aadd (f : Tri) : Laws.RoundTrip.Statement (.aadd f) := by
  intro h _ x
  refine decodeWord_ok (c := .access) ?_ ?_ ?_ ?_ h rfl
  · simp [foreignClass]
  · simp
  · simp [isCmd]
  · show selectAccess (wordMajor _) _ _ = _
    rw [wordMajor_packTri]
    show selectAccess20 (wordFunc _) _ = _
    rw [wordFunc_packTri]
    show some (Instr.aadd (readTri _)) = _
    rw [readTri_packTri]
theorem Laws.RoundTrip.asub (f : Tri) : Laws.RoundTrip.Statement (.asub f) := by
  intro h _ x
  refine decodeWord_ok (c := .access) ?_ ?_ ?_ ?_ h rfl
  · simp [foreignClass]
  · simp
  · simp [isCmd]
  · show selectAccess (wordMajor _) _ _ = _
    rw [wordMajor_packTri]
    show selectAccess20 (wordFunc _) _ = _
    rw [wordFunc_packTri]
    show some (Instr.asub (readTri _)) = _
    rw [readTri_packTri]
theorem Laws.RoundTrip.amul (f : Tri) : Laws.RoundTrip.Statement (.amul f) := by
  intro h _ x
  refine decodeWord_ok (c := .access) ?_ ?_ ?_ ?_ h rfl
  · simp [foreignClass]
  · simp
  · simp [isCmd]
  · show selectAccess (wordMajor _) _ _ = _
    rw [wordMajor_packTri]
    show selectAccess20 (wordFunc _) _ = _
    rw [wordFunc_packTri]
    show some (Instr.amul (readTri _)) = _
    rw [readTri_packTri]
theorem Laws.RoundTrip.ashl (f : Tri) : Laws.RoundTrip.Statement (.ashl f) := by
  intro h _ x
  refine decodeWord_ok (c := .access) ?_ ?_ ?_ ?_ h rfl
  · simp [foreignClass]
  · simp
  · simp [isCmd]
  · show selectAccess (wordMajor _) _ _ = _
    rw [wordMajor_packTri]
    show selectAccess20 (wordFunc _) _ = _
    rw [wordFunc_packTri]
    show some (Instr.ashl (readTri _)) = _
    rw [readTri_packTri]
theorem Laws.RoundTrip.ashr (f : Tri) : Laws.RoundTrip.Statement (.ashr f) := by
  intro h _ x
  refine decodeWord_ok (c := .access) ?_ ?_ ?_ ?_ h rfl
  · simp [foreignClass]
  · simp
  · simp [isCmd]
  · show selectAccess (wordMajor _) _ _ = _
    rw [wordMajor_packTri]
    show selectAccess20 (wordFunc _) _ = _
    rw [wordFunc_packTri]
    show some (Instr.ashr (readTri _)) = _
    rw [readTri_packTri]
theorem Laws.RoundTrip.aand (f : Tri) : Laws.RoundTrip.Statement (.aand f) := by
  intro h _ x
  refine decodeWord_ok (c := .access) ?_ ?_ ?_ ?_ h rfl
  · simp [foreignClass]
  · simp
  · simp [isCmd]
  · show selectAccess (wordMajor _) _ _ = _
    rw [wordMajor_packTri]
    show selectAccess20 (wordFunc _) _ = _
    rw [wordFunc_packTri]
    show some (Instr.aand (readTri _)) = _
    rw [readTri_packTri]
theorem Laws.RoundTrip.amov (f : Tri) : Laws.RoundTrip.Statement (.amov f) := by
  intro h _ x
  refine decodeWord_ok (c := .access) ?_ ?_ ?_ ?_ h rfl
  · simp [foreignClass]
  · simp
  · simp [isCmd]
  · show selectAccess (wordMajor _) _ _ = _
    rw [wordMajor_packTri]
    show selectAccess20 (wordFunc _) _ = _
    rw [wordFunc_packTri]
    show some (Instr.amov (readTri _)) = _
    rw [readTri_packTri]
theorem Laws.RoundTrip.aaddi (f : ImmS) : Laws.RoundTrip.Statement (.aaddi f) := by
  intro h _ x
  refine decodeWord_ok (c := .access) ?_ ?_ ?_ ?_ h rfl
  · simp [foreignClass]
  · simp
  · simp [isCmd]
  · show selectAccess (wordMajor _) _ _ = _
    rw [wordMajor_packImmS]
    show some (Instr.aaddi (readImmS _)) = _
    rw [readImmS_packImmS]
theorem Laws.RoundTrip.ali (f : ImmW) : Laws.RoundTrip.Statement (.ali f) := by
  intro h _ x
  refine decodeWord_ok (c := .access) ?_ ?_ ?_ ?_ h rfl
  · simp [foreignClass]
  · simp
  · simp [isCmd]
  · show selectAccess (wordMajor _) _ _ = _
    rw [wordMajor_packImmW]
    show some (Instr.ali (readImmW _)) = _
    rw [readImmW_packImmW]
theorem Laws.RoundTrip.aaddC (f : C16) : Laws.RoundTrip.Statement (.aaddC f) := by
  intro h _
  show checked (selectCompact _ (compactCop _) _) _ = _
  rw [compactCop_packC]
  show checked (some (Instr.aaddC (readC _))) _ = _
  rw [readC_packC]
  exact checked_ok h rfl
theorem Laws.RoundTrip.aaddiC (f : C16) : Laws.RoundTrip.Statement (.aaddiC f) := by
  intro h _
  show checked (selectCompact _ (compactCop _) _) _ = _
  rw [compactCop_packC]
  show checked (some (Instr.aaddiC (readC _))) _ = _
  rw [readC_packC]
  exact checked_ok h rfl
theorem Laws.RoundTrip.amovC (f : C16) : Laws.RoundTrip.Statement (.amovC f) := by
  intro h _
  show checked (selectCompact _ (compactCop _) _) _ = _
  rw [compactCop_packC]
  show checked (some (Instr.amovC (readC _))) _ = _
  rw [readC_packC]
  exact checked_ok h rfl
theorem Laws.RoundTrip.lq (f : MemF) : Laws.RoundTrip.Statement (.lq f) := by
  intro h _ x
  refine decodeWord_ok (c := .access) ?_ ?_ ?_ ?_ h rfl
  · simp [foreignClass]
  · simp
  · simp [isCmd]
  · show selectAccess (wordMajor _) _ _ = _
    rw [wordMajor_packMem]
    show selectAccess23 (memOp _) _ = _
    rw [memOp_packMem]
    show some (Instr.lq (readMem _)) = _
    rw [readMem_packMem]
theorem Laws.RoundTrip.lqb (f : MemF) : Laws.RoundTrip.Statement (.lqb f) := by
  intro h _ x
  refine decodeWord_ok (c := .access) ?_ ?_ ?_ ?_ h rfl
  · simp [foreignClass]
  · simp
  · simp [isCmd]
  · show selectAccess (wordMajor _) _ _ = _
    rw [wordMajor_packMem]
    show selectAccess23 (memOp _) _ = _
    rw [memOp_packMem]
    show some (Instr.lqb (readMem _)) = _
    rw [readMem_packMem]
theorem Laws.RoundTrip.sq (f : MemF) : Laws.RoundTrip.Statement (.sq f) := by
  intro h _ x
  refine decodeWord_ok (c := .access) ?_ ?_ ?_ ?_ h rfl
  · simp [foreignClass]
  · simp
  · simp [isCmd]
  · show selectAccess (wordMajor _) _ _ = _
    rw [wordMajor_packMem]
    show selectAccess23 (memOp _) _ = _
    rw [memOp_packMem]
    show some (Instr.sq (readMem _)) = _
    rw [readMem_packMem]
theorem Laws.RoundTrip.sqs (f : MemF) : Laws.RoundTrip.Statement (.sqs f) := by
  intro h _ x
  refine decodeWord_ok (c := .access) ?_ ?_ ?_ ?_ h rfl
  · simp [foreignClass]
  · simp
  · simp [isCmd]
  · show selectAccess (wordMajor _) _ _ = _
    rw [wordMajor_packMem]
    show selectAccess23 (memOp _) _ = _
    rw [memOp_packMem]
    show some (Instr.sqs (readMem _)) = _
    rw [readMem_packMem]
theorem Laws.RoundTrip.lqg (f : Tri) : Laws.RoundTrip.Statement (.lqg f) := by
  intro h _ x
  refine decodeWord_ok (c := .access) ?_ ?_ ?_ ?_ h rfl
  · simp [foreignClass]
  · simp
  · simp [isCmd]
  · show selectAccess (wordMajor _) _ _ = _
    rw [wordMajor_packTri]
    show selectAccess24 (wordFunc _) _ = _
    rw [wordFunc_packTri]
    show some (Instr.lqg (readTri _)) = _
    rw [readTri_packTri]
theorem Laws.RoundTrip.lqt (f : CmdE) : Laws.RoundTrip.Statement (.lqt f) := by
  intro h _
  refine decodeCmd_ok (c := .access) ?_ ?_ ?_ ?_ h rfl
  · simp [foreignClass]
  · simp
  · simp [isCmd]
  · show selectAccess (wordMajor _) _ _ = _
    rw [wordMajor_cmdWord]
    show selectAccess25 (wordSub _) _ _ = _
    rw [wordSub_cmdWord]
    show some (Instr.lqt (readCmd _ _)) = _
    rw [readCmd_packCmd1]
theorem Laws.RoundTrip.sqt (f : CmdE) : Laws.RoundTrip.Statement (.sqt f) := by
  intro h _
  refine decodeCmd_ok (c := .access) ?_ ?_ ?_ ?_ h rfl
  · simp [foreignClass]
  · simp
  · simp [isCmd]
  · show selectAccess (wordMajor _) _ _ = _
    rw [wordMajor_cmdWord]
    show selectAccess25 (wordSub _) _ _ = _
    rw [wordSub_cmdWord]
    show some (Instr.sqt (readCmd _ _)) = _
    rw [readCmd_packCmd1]
theorem Laws.RoundTrip.tcopy (f : CmdE) : Laws.RoundTrip.Statement (.tcopy f) := by
  intro h _
  refine decodeCmd_ok (c := .access) ?_ ?_ ?_ ?_ h rfl
  · simp [foreignClass]
  · simp
  · simp [isCmd]
  · show selectAccess (wordMajor _) _ _ = _
    rw [wordMajor_cmdWord]
    show selectAccess26 (wordSub _) _ _ = _
    rw [wordSub_cmdWord]
    show some (Instr.tcopy (readCmd _ _)) = _
    rw [readCmd_packCmd1]
theorem Laws.RoundTrip.tgather (f : CmdE) : Laws.RoundTrip.Statement (.tgather f) := by
  intro h _
  refine decodeCmd_ok (c := .access) ?_ ?_ ?_ ?_ h rfl
  · simp [foreignClass]
  · simp
  · simp [isCmd]
  · show selectAccess (wordMajor _) _ _ = _
    rw [wordMajor_cmdWord]
    show selectAccess26 (wordSub _) _ _ = _
    rw [wordSub_cmdWord]
    show some (Instr.tgather (readCmd _ _)) = _
    rw [readCmd_packCmd1]
theorem Laws.RoundTrip.tscatter (f : CmdE) : Laws.RoundTrip.Statement (.tscatter f) := by
  intro h _
  refine decodeCmd_ok (c := .access) ?_ ?_ ?_ ?_ h rfl
  · simp [foreignClass]
  · simp
  · simp [isCmd]
  · show selectAccess (wordMajor _) _ _ = _
    rw [wordMajor_cmdWord]
    show selectAccess26 (wordSub _) _ _ = _
    rw [wordSub_cmdWord]
    show some (Instr.tscatter (readCmd _ _)) = _
    rw [readCmd_packCmd1]
theorem Laws.RoundTrip.tfill (f : CmdE) : Laws.RoundTrip.Statement (.tfill f) := by
  intro h _
  refine decodeCmd_ok (c := .access) ?_ ?_ ?_ ?_ h rfl
  · simp [foreignClass]
  · simp
  · simp [isCmd]
  · show selectAccess (wordMajor _) _ _ = _
    rw [wordMajor_cmdWord]
    show selectAccess26 (wordSub _) _ _ = _
    rw [wordSub_cmdWord]
    show some (Instr.tfill (readCmd _ _)) = _
    rw [readCmd_packCmd1]
theorem Laws.RoundTrip.rst (f : CmdE) : Laws.RoundTrip.Statement (.rst f) := by
  intro h _
  refine decodeCmd_ok (c := .access) ?_ ?_ ?_ ?_ h rfl
  · simp [foreignClass]
  · simp
  · simp [isCmd]
  · show selectAccess (wordMajor _) _ _ = _
    rw [wordMajor_cmdWord]
    show selectAccess27 (wordSub _) _ _ = _
    rw [wordSub_cmdWord]
    show some (Instr.rst (readCmd _ _)) = _
    rw [readCmd_packCmd1]
theorem Laws.RoundTrip.rstTk (f : CmdE) : Laws.RoundTrip.Statement (.rstTk f) := by
  intro h _
  refine decodeCmd_ok (c := .access) ?_ ?_ ?_ ?_ h rfl
  · simp [foreignClass]
  · simp
  · simp [isCmd]
  · show selectAccess (wordMajor _) _ _ = _
    rw [wordMajor_cmdWord]
    show selectAccess27 (wordSub _) _ _ = _
    rw [wordSub_cmdWord]
    show some (Instr.rstTk (readCmd _ _)) = _
    rw [readCmd_packCmd1]
theorem Laws.RoundTrip.racc (f : CmdE) : Laws.RoundTrip.Statement (.racc f) := by
  intro h _
  refine decodeCmd_ok (c := .access) ?_ ?_ ?_ ?_ h rfl
  · simp [foreignClass]
  · simp
  · simp [isCmd]
  · show selectAccess (wordMajor _) _ _ = _
    rw [wordMajor_cmdWord]
    show selectAccess27 (wordSub _) _ _ = _
    rw [wordSub_cmdWord]
    show some (Instr.racc (readCmd _ _)) = _
    rw [readCmd_packCmd1]
theorem Laws.RoundTrip.xwait (f : Tri) : Laws.RoundTrip.Statement (.xwait f) := by
  intro h _ x
  refine decodeWord_ok (c := .access) ?_ ?_ ?_ ?_ h rfl
  · simp [foreignClass]
  · simp
  · simp [isCmd]
  · show selectAccess (wordMajor _) _ _ = _
    rw [wordMajor_packTri]
    show selectAccess28 (wordFunc _) _ = _
    rw [wordFunc_packTri]
    show some (Instr.xwait (readTri _)) = _
    rw [readTri_packTri]
theorem Laws.RoundTrip.sbq (f : Tri) : Laws.RoundTrip.Statement (.sbq f) := by
  intro h _ x
  refine decodeWord_ok (c := .access) ?_ ?_ ?_ ?_ h rfl
  · simp [foreignClass]
  · simp
  · simp [isCmd]
  · show selectAccess (wordMajor _) _ _ = _
    rw [wordMajor_packTri]
    show selectAccess28 (wordFunc _) _ = _
    rw [wordFunc_packTri]
    show some (Instr.sbq (readTri _)) = _
    rw [readTri_packTri]
theorem Laws.RoundTrip.qflush (f : Tri) : Laws.RoundTrip.Statement (.qflush f) := by
  intro h _ x
  refine decodeWord_ok (c := .access) ?_ ?_ ?_ ?_ h rfl
  · simp [foreignClass]
  · simp
  · simp [isCmd]
  · show selectAccess (wordMajor _) _ _ = _
    rw [wordMajor_packTri]
    show selectAccess28 (wordFunc _) _ = _
    rw [wordFunc_packTri]
    show some (Instr.qflush (readTri _)) = _
    rw [readTri_packTri]
theorem Laws.RoundTrip.qmark (f : Tri) : Laws.RoundTrip.Statement (.qmark f) := by
  intro h _ x
  refine decodeWord_ok (c := .access) ?_ ?_ ?_ ?_ h rfl
  · simp [foreignClass]
  · simp
  · simp [isCmd]
  · show selectAccess (wordMajor _) _ _ = _
    rw [wordMajor_packTri]
    show selectAccess28 (wordFunc _) _ = _
    rw [wordFunc_packTri]
    show some (Instr.qmark (readTri _)) = _
    rw [readTri_packTri]
theorem Laws.RoundTrip.vadd (f : VForm) : Laws.RoundTrip.Statement (.vadd f) := by
  intro h _
  refine decodeCmd_ok (c := .vector) ?_ ?_ ?_ ?_ h rfl
  · simp [foreignClass]
  · simp
  · simp [isCmd]
  · show selectVector (wordMajor _) _ _ = _
    rw [wordMajor_cmdWord]
    show selectVector20 (wordSub _) _ _ = _
    rw [wordSub_cmdWord]
    show some (Instr.vadd (readV _ _)) = _
    rw [readV_packV1]
theorem Laws.RoundTrip.vsub (f : VForm) : Laws.RoundTrip.Statement (.vsub f) := by
  intro h _
  refine decodeCmd_ok (c := .vector) ?_ ?_ ?_ ?_ h rfl
  · simp [foreignClass]
  · simp
  · simp [isCmd]
  · show selectVector (wordMajor _) _ _ = _
    rw [wordMajor_cmdWord]
    show selectVector20 (wordSub _) _ _ = _
    rw [wordSub_cmdWord]
    show some (Instr.vsub (readV _ _)) = _
    rw [readV_packV1]
theorem Laws.RoundTrip.vmul (f : VForm) : Laws.RoundTrip.Statement (.vmul f) := by
  intro h _
  refine decodeCmd_ok (c := .vector) ?_ ?_ ?_ ?_ h rfl
  · simp [foreignClass]
  · simp
  · simp [isCmd]
  · show selectVector (wordMajor _) _ _ = _
    rw [wordMajor_cmdWord]
    show selectVector20 (wordSub _) _ _ = _
    rw [wordSub_cmdWord]
    show some (Instr.vmul (readV _ _)) = _
    rw [readV_packV1]
theorem Laws.RoundTrip.vfma (f : VForm) : Laws.RoundTrip.Statement (.vfma f) := by
  intro h _
  refine decodeCmd_ok (c := .vector) ?_ ?_ ?_ ?_ h rfl
  · simp [foreignClass]
  · simp
  · simp [isCmd]
  · show selectVector (wordMajor _) _ _ = _
    rw [wordMajor_cmdWord]
    show selectVector20 (wordSub _) _ _ = _
    rw [wordSub_cmdWord]
    show some (Instr.vfma (readV _ _)) = _
    rw [readV_packV1]
theorem Laws.RoundTrip.vfms (f : VForm) : Laws.RoundTrip.Statement (.vfms f) := by
  intro h _
  refine decodeCmd_ok (c := .vector) ?_ ?_ ?_ ?_ h rfl
  · simp [foreignClass]
  · simp
  · simp [isCmd]
  · show selectVector (wordMajor _) _ _ = _
    rw [wordMajor_cmdWord]
    show selectVector20 (wordSub _) _ _ = _
    rw [wordSub_cmdWord]
    show some (Instr.vfms (readV _ _)) = _
    rw [readV_packV1]
theorem Laws.RoundTrip.vfnma (f : VForm) : Laws.RoundTrip.Statement (.vfnma f) := by
  intro h _
  refine decodeCmd_ok (c := .vector) ?_ ?_ ?_ ?_ h rfl
  · simp [foreignClass]
  · simp
  · simp [isCmd]
  · show selectVector (wordMajor _) _ _ = _
    rw [wordMajor_cmdWord]
    show selectVector20 (wordSub _) _ _ = _
    rw [wordSub_cmdWord]
    show some (Instr.vfnma (readV _ _)) = _
    rw [readV_packV1]
theorem Laws.RoundTrip.vmax (f : VForm) : Laws.RoundTrip.Statement (.vmax f) := by
  intro h _
  refine decodeCmd_ok (c := .vector) ?_ ?_ ?_ ?_ h rfl
  · simp [foreignClass]
  · simp
  · simp [isCmd]
  · show selectVector (wordMajor _) _ _ = _
    rw [wordMajor_cmdWord]
    show selectVector20 (wordSub _) _ _ = _
    rw [wordSub_cmdWord]
    show some (Instr.vmax (readV _ _)) = _
    rw [readV_packV1]
theorem Laws.RoundTrip.vmin (f : VForm) : Laws.RoundTrip.Statement (.vmin f) := by
  intro h _
  refine decodeCmd_ok (c := .vector) ?_ ?_ ?_ ?_ h rfl
  · simp [foreignClass]
  · simp
  · simp [isCmd]
  · show selectVector (wordMajor _) _ _ = _
    rw [wordMajor_cmdWord]
    show selectVector20 (wordSub _) _ _ = _
    rw [wordSub_cmdWord]
    show some (Instr.vmin (readV _ _)) = _
    rw [readV_packV1]
theorem Laws.RoundTrip.vabs (f : VForm) : Laws.RoundTrip.Statement (.vabs f) := by
  intro h _
  refine decodeCmd_ok (c := .vector) ?_ ?_ ?_ ?_ h rfl
  · simp [foreignClass]
  · simp
  · simp [isCmd]
  · show selectVector (wordMajor _) _ _ = _
    rw [wordMajor_cmdWord]
    show selectVector20 (wordSub _) _ _ = _
    rw [wordSub_cmdWord]
    show some (Instr.vabs (readV _ _)) = _
    rw [readV_packV1]
theorem Laws.RoundTrip.vneg (f : VForm) : Laws.RoundTrip.Statement (.vneg f) := by
  intro h _
  refine decodeCmd_ok (c := .vector) ?_ ?_ ?_ ?_ h rfl
  · simp [foreignClass]
  · simp
  · simp [isCmd]
  · show selectVector (wordMajor _) _ _ = _
    rw [wordMajor_cmdWord]
    show selectVector20 (wordSub _) _ _ = _
    rw [wordSub_cmdWord]
    show some (Instr.vneg (readV _ _)) = _
    rw [readV_packV1]
theorem Laws.RoundTrip.vrcp (f : VForm) : Laws.RoundTrip.Statement (.vrcp f) := by
  intro h _
  refine decodeCmd_ok (c := .vector) ?_ ?_ ?_ ?_ h rfl
  · simp [foreignClass]
  · simp
  · simp [isCmd]
  · show selectVector (wordMajor _) _ _ = _
    rw [wordMajor_cmdWord]
    show selectVector20 (wordSub _) _ _ = _
    rw [wordSub_cmdWord]
    show some (Instr.vrcp (readV _ _)) = _
    rw [readV_packV1]
theorem Laws.RoundTrip.vrsqrt (f : VForm) : Laws.RoundTrip.Statement (.vrsqrt f) := by
  intro h _
  refine decodeCmd_ok (c := .vector) ?_ ?_ ?_ ?_ h rfl
  · simp [foreignClass]
  · simp
  · simp [isCmd]
  · show selectVector (wordMajor _) _ _ = _
    rw [wordMajor_cmdWord]
    show selectVector20 (wordSub _) _ _ = _
    rw [wordSub_cmdWord]
    show some (Instr.vrsqrt (readV _ _)) = _
    rw [readV_packV1]
theorem Laws.RoundTrip.vsqrt (f : VForm) : Laws.RoundTrip.Statement (.vsqrt f) := by
  intro h _
  refine decodeCmd_ok (c := .vector) ?_ ?_ ?_ ?_ h rfl
  · simp [foreignClass]
  · simp
  · simp [isCmd]
  · show selectVector (wordMajor _) _ _ = _
    rw [wordMajor_cmdWord]
    show selectVector20 (wordSub _) _ _ = _
    rw [wordSub_cmdWord]
    show some (Instr.vsqrt (readV _ _)) = _
    rw [readV_packV1]
theorem Laws.RoundTrip.vexp2 (f : VForm) : Laws.RoundTrip.Statement (.vexp2 f) := by
  intro h _
  refine decodeCmd_ok (c := .vector) ?_ ?_ ?_ ?_ h rfl
  · simp [foreignClass]
  · simp
  · simp [isCmd]
  · show selectVector (wordMajor _) _ _ = _
    rw [wordMajor_cmdWord]
    show selectVector20 (wordSub _) _ _ = _
    rw [wordSub_cmdWord]
    show some (Instr.vexp2 (readV _ _)) = _
    rw [readV_packV1]
theorem Laws.RoundTrip.vlog2 (f : VForm) : Laws.RoundTrip.Statement (.vlog2 f) := by
  intro h _
  refine decodeCmd_ok (c := .vector) ?_ ?_ ?_ ?_ h rfl
  · simp [foreignClass]
  · simp
  · simp [isCmd]
  · show selectVector (wordMajor _) _ _ = _
    rw [wordMajor_cmdWord]
    show selectVector20 (wordSub _) _ _ = _
    rw [wordSub_cmdWord]
    show some (Instr.vlog2 (readV _ _)) = _
    rw [readV_packV1]
theorem Laws.RoundTrip.vdiv (f : VForm) : Laws.RoundTrip.Statement (.vdiv f) := by
  intro h _
  refine decodeCmd_ok (c := .vector) ?_ ?_ ?_ ?_ h rfl
  · simp [foreignClass]
  · simp
  · simp [isCmd]
  · show selectVector (wordMajor _) _ _ = _
    rw [wordMajor_cmdWord]
    show selectVector20 (wordSub _) _ _ = _
    rw [wordSub_cmdWord]
    show some (Instr.vdiv (readV _ _)) = _
    rw [readV_packV1]
theorem Laws.RoundTrip.vaddi (f : VForm) : Laws.RoundTrip.Statement (.vaddi f) := by
  intro h _
  refine decodeCmd_ok (c := .vector) ?_ ?_ ?_ ?_ h rfl
  · simp [foreignClass]
  · simp
  · simp [isCmd]
  · show selectVector (wordMajor _) _ _ = _
    rw [wordMajor_cmdWord]
    show selectVector21 (wordSub _) _ _ = _
    rw [wordSub_cmdWord]
    show some (Instr.vaddi (readV _ _)) = _
    rw [readV_packV1]
theorem Laws.RoundTrip.vsubi (f : VForm) : Laws.RoundTrip.Statement (.vsubi f) := by
  intro h _
  refine decodeCmd_ok (c := .vector) ?_ ?_ ?_ ?_ h rfl
  · simp [foreignClass]
  · simp
  · simp [isCmd]
  · show selectVector (wordMajor _) _ _ = _
    rw [wordMajor_cmdWord]
    show selectVector21 (wordSub _) _ _ = _
    rw [wordSub_cmdWord]
    show some (Instr.vsubi (readV _ _)) = _
    rw [readV_packV1]
theorem Laws.RoundTrip.vmuli (f : VForm) : Laws.RoundTrip.Statement (.vmuli f) := by
  intro h _
  refine decodeCmd_ok (c := .vector) ?_ ?_ ?_ ?_ h rfl
  · simp [foreignClass]
  · simp
  · simp [isCmd]
  · show selectVector (wordMajor _) _ _ = _
    rw [wordMajor_cmdWord]
    show selectVector21 (wordSub _) _ _ = _
    rw [wordSub_cmdWord]
    show some (Instr.vmuli (readV _ _)) = _
    rw [readV_packV1]
theorem Laws.RoundTrip.vand (f : VForm) : Laws.RoundTrip.Statement (.vand f) := by
  intro h _
  refine decodeCmd_ok (c := .vector) ?_ ?_ ?_ ?_ h rfl
  · simp [foreignClass]
  · simp
  · simp [isCmd]
  · show selectVector (wordMajor _) _ _ = _
    rw [wordMajor_cmdWord]
    show selectVector21 (wordSub _) _ _ = _
    rw [wordSub_cmdWord]
    show some (Instr.vand (readV _ _)) = _
    rw [readV_packV1]
theorem Laws.RoundTrip.vor (f : VForm) : Laws.RoundTrip.Statement (.vor f) := by
  intro h _
  refine decodeCmd_ok (c := .vector) ?_ ?_ ?_ ?_ h rfl
  · simp [foreignClass]
  · simp
  · simp [isCmd]
  · show selectVector (wordMajor _) _ _ = _
    rw [wordMajor_cmdWord]
    show selectVector21 (wordSub _) _ _ = _
    rw [wordSub_cmdWord]
    show some (Instr.vor (readV _ _)) = _
    rw [readV_packV1]
theorem Laws.RoundTrip.vxor (f : VForm) : Laws.RoundTrip.Statement (.vxor f) := by
  intro h _
  refine decodeCmd_ok (c := .vector) ?_ ?_ ?_ ?_ h rfl
  · simp [foreignClass]
  · simp
  · simp [isCmd]
  · show selectVector (wordMajor _) _ _ = _
    rw [wordMajor_cmdWord]
    show selectVector21 (wordSub _) _ _ = _
    rw [wordSub_cmdWord]
    show some (Instr.vxor (readV _ _)) = _
    rw [readV_packV1]
theorem Laws.RoundTrip.vnot (f : VForm) : Laws.RoundTrip.Statement (.vnot f) := by
  intro h _
  refine decodeCmd_ok (c := .vector) ?_ ?_ ?_ ?_ h rfl
  · simp [foreignClass]
  · simp
  · simp [isCmd]
  · show selectVector (wordMajor _) _ _ = _
    rw [wordMajor_cmdWord]
    show selectVector21 (wordSub _) _ _ = _
    rw [wordSub_cmdWord]
    show some (Instr.vnot (readV _ _)) = _
    rw [readV_packV1]
theorem Laws.RoundTrip.vshl (f : VForm) : Laws.RoundTrip.Statement (.vshl f) := by
  intro h _
  refine decodeCmd_ok (c := .vector) ?_ ?_ ?_ ?_ h rfl
  · simp [foreignClass]
  · simp
  · simp [isCmd]
  · show selectVector (wordMajor _) _ _ = _
    rw [wordMajor_cmdWord]
    show selectVector21 (wordSub _) _ _ = _
    rw [wordSub_cmdWord]
    show some (Instr.vshl (readV _ _)) = _
    rw [readV_packV1]
theorem Laws.RoundTrip.vshr (f : VForm) : Laws.RoundTrip.Statement (.vshr f) := by
  intro h _
  refine decodeCmd_ok (c := .vector) ?_ ?_ ?_ ?_ h rfl
  · simp [foreignClass]
  · simp
  · simp [isCmd]
  · show selectVector (wordMajor _) _ _ = _
    rw [wordMajor_cmdWord]
    show selectVector21 (wordSub _) _ _ = _
    rw [wordSub_cmdWord]
    show some (Instr.vshr (readV _ _)) = _
    rw [readV_packV1]
theorem Laws.RoundTrip.vsra (f : VForm) : Laws.RoundTrip.Statement (.vsra f) := by
  intro h _
  refine decodeCmd_ok (c := .vector) ?_ ?_ ?_ ?_ h rfl
  · simp [foreignClass]
  · simp
  · simp [isCmd]
  · show selectVector (wordMajor _) _ _ = _
    rw [wordMajor_cmdWord]
    show selectVector21 (wordSub _) _ _ = _
    rw [wordSub_cmdWord]
    show some (Instr.vsra (readV _ _)) = _
    rw [readV_packV1]
theorem Laws.RoundTrip.vmaxi (f : VForm) : Laws.RoundTrip.Statement (.vmaxi f) := by
  intro h _
  refine decodeCmd_ok (c := .vector) ?_ ?_ ?_ ?_ h rfl
  · simp [foreignClass]
  · simp
  · simp [isCmd]
  · show selectVector (wordMajor _) _ _ = _
    rw [wordMajor_cmdWord]
    show selectVector21 (wordSub _) _ _ = _
    rw [wordSub_cmdWord]
    show some (Instr.vmaxi (readV _ _)) = _
    rw [readV_packV1]
theorem Laws.RoundTrip.vmini (f : VForm) : Laws.RoundTrip.Statement (.vmini f) := by
  intro h _
  refine decodeCmd_ok (c := .vector) ?_ ?_ ?_ ?_ h rfl
  · simp [foreignClass]
  · simp
  · simp [isCmd]
  · show selectVector (wordMajor _) _ _ = _
    rw [wordMajor_cmdWord]
    show selectVector21 (wordSub _) _ _ = _
    rw [wordSub_cmdWord]
    show some (Instr.vmini (readV _ _)) = _
    rw [readV_packV1]
theorem Laws.RoundTrip.vcmp (f : VForm) : Laws.RoundTrip.Statement (.vcmp f) := by
  intro h _
  refine decodeCmd_ok (c := .vector) ?_ ?_ ?_ ?_ h rfl
  · simp [foreignClass]
  · simp
  · simp [isCmd]
  · show selectVector (wordMajor _) _ _ = _
    rw [wordMajor_cmdWord]
    show selectVector22 (wordSub _) _ _ = _
    rw [wordSub_cmdWord]
    show some (Instr.vcmp (readV _ _)) = _
    rw [readV_packV1]
theorem Laws.RoundTrip.vsel (f : VForm) : Laws.RoundTrip.Statement (.vsel f) := by
  intro h _
  refine decodeCmd_ok (c := .vector) ?_ ?_ ?_ ?_ h rfl
  · simp [foreignClass]
  · simp
  · simp [isCmd]
  · show selectVector (wordMajor _) _ _ = _
    rw [wordMajor_cmdWord]
    show selectVector22 (wordSub _) _ _ = _
    rw [wordSub_cmdWord]
    show some (Instr.vsel (readV _ _)) = _
    rw [readV_packV1]
theorem Laws.RoundTrip.vmov (f : VForm) : Laws.RoundTrip.Statement (.vmov f) := by
  intro h _
  refine decodeCmd_ok (c := .vector) ?_ ?_ ?_ ?_ h rfl
  · simp [foreignClass]
  · simp
  · simp [isCmd]
  · show selectVector (wordMajor _) _ _ = _
    rw [wordMajor_cmdWord]
    show selectVector22 (wordSub _) _ _ = _
    rw [wordSub_cmdWord]
    show some (Instr.vmov (readV _ _)) = _
    rw [readV_packV1]
theorem Laws.RoundTrip.vmovC (f : C16) : Laws.RoundTrip.Statement (.vmovC f) := by
  intro h _
  show checked (selectCompact _ (compactCop _) _) _ = _
  rw [compactCop_packC]
  show checked (some (Instr.vmovC (readC _))) _ = _
  rw [readC_packC]
  exact checked_ok h rfl
theorem Laws.RoundTrip.vbcast (f : VForm) : Laws.RoundTrip.Statement (.vbcast f) := by
  intro h _
  refine decodeCmd_ok (c := .vector) ?_ ?_ ?_ ?_ h rfl
  · simp [foreignClass]
  · simp
  · simp [isCmd]
  · show selectVector (wordMajor _) _ _ = _
    rw [wordMajor_cmdWord]
    show selectVector22 (wordSub _) _ _ = _
    rw [wordSub_cmdWord]
    show some (Instr.vbcast (readV _ _)) = _
    rw [readV_packV1]
theorem Laws.RoundTrip.vins (f : VForm) : Laws.RoundTrip.Statement (.vins f) := by
  intro h _
  refine decodeCmd_ok (c := .vector) ?_ ?_ ?_ ?_ h rfl
  · simp [foreignClass]
  · simp
  · simp [isCmd]
  · show selectVector (wordMajor _) _ _ = _
    rw [wordMajor_cmdWord]
    show selectVector22 (wordSub _) _ _ = _
    rw [wordSub_cmdWord]
    show some (Instr.vins (readV _ _)) = _
    rw [readV_packV1]
theorem Laws.RoundTrip.vext (f : VForm) : Laws.RoundTrip.Statement (.vext f) := by
  intro h _
  refine decodeCmd_ok (c := .vector) ?_ ?_ ?_ ?_ h rfl
  · simp [foreignClass]
  · simp
  · simp [isCmd]
  · show selectVector (wordMajor _) _ _ = _
    rw [wordMajor_cmdWord]
    show selectVector22 (wordSub _) _ _ = _
    rw [wordSub_cmdWord]
    show some (Instr.vext (readV _ _)) = _
    rw [readV_packV1]
theorem Laws.RoundTrip.vperm (f : VForm) : Laws.RoundTrip.Statement (.vperm f) := by
  intro h _
  refine decodeCmd_ok (c := .vector) ?_ ?_ ?_ ?_ h rfl
  · simp [foreignClass]
  · simp
  · simp [isCmd]
  · show selectVector (wordMajor _) _ _ = _
    rw [wordMajor_cmdWord]
    show selectVector22 (wordSub _) _ _ = _
    rw [wordSub_cmdWord]
    show some (Instr.vperm (readV _ _)) = _
    rw [readV_packV1]
theorem Laws.RoundTrip.vshuf (f : VForm) : Laws.RoundTrip.Statement (.vshuf f) := by
  intro h _
  refine decodeCmd_ok (c := .vector) ?_ ?_ ?_ ?_ h rfl
  · simp [foreignClass]
  · simp
  · simp [isCmd]
  · show selectVector (wordMajor _) _ _ = _
    rw [wordMajor_cmdWord]
    show selectVector22 (wordSub _) _ _ = _
    rw [wordSub_cmdWord]
    show some (Instr.vshuf (readV _ _)) = _
    rw [readV_packV1]
theorem Laws.RoundTrip.vrot (f : VForm) : Laws.RoundTrip.Statement (.vrot f) := by
  intro h _
  refine decodeCmd_ok (c := .vector) ?_ ?_ ?_ ?_ h rfl
  · simp [foreignClass]
  · simp
  · simp [isCmd]
  · show selectVector (wordMajor _) _ _ = _
    rw [wordMajor_cmdWord]
    show selectVector22 (wordSub _) _ _ = _
    rw [wordSub_cmdWord]
    show some (Instr.vrot (readV _ _)) = _
    rw [readV_packV1]
theorem Laws.RoundTrip.vred (f : VForm) : Laws.RoundTrip.Statement (.vred f) := by
  intro h _
  refine decodeCmd_ok (c := .vector) ?_ ?_ ?_ ?_ h rfl
  · simp [foreignClass]
  · simp
  · simp [isCmd]
  · show selectVector (wordMajor _) _ _ = _
    rw [wordMajor_cmdWord]
    show selectVector23 (wordSub _) _ _ = _
    rw [wordSub_cmdWord]
    show some (Instr.vred (readV _ _)) = _
    rw [readV_packV1]
theorem Laws.RoundTrip.vscan (f : VForm) : Laws.RoundTrip.Statement (.vscan f) := by
  intro h _
  refine decodeCmd_ok (c := .vector) ?_ ?_ ?_ ?_ h rfl
  · simp [foreignClass]
  · simp
  · simp [isCmd]
  · show selectVector (wordMajor _) _ _ = _
    rw [wordMajor_cmdWord]
    show selectVector23 (wordSub _) _ _ = _
    rw [wordSub_cmdWord]
    show some (Instr.vscan (readV _ _)) = _
    rw [readV_packV1]
theorem Laws.RoundTrip.vcvt (f : VForm) : Laws.RoundTrip.Statement (.vcvt f) := by
  intro h _
  refine decodeCmd_ok (c := .vector) ?_ ?_ ?_ ?_ h rfl
  · simp [foreignClass]
  · simp
  · simp [isCmd]
  · show selectVector (wordMajor _) _ _ = _
    rw [wordMajor_cmdWord]
    show selectVector23 (wordSub _) _ _ = _
    rw [wordSub_cmdWord]
    show some (Instr.vcvt (readV _ _)) = _
    rw [readV_packV1]
theorem Laws.RoundTrip.vquant (f : VForm) : Laws.RoundTrip.Statement (.vquant f) := by
  intro h _
  refine decodeCmd_ok (c := .vector) ?_ ?_ ?_ ?_ h rfl
  · simp [foreignClass]
  · simp
  · simp [isCmd]
  · show selectVector (wordMajor _) _ _ = _
    rw [wordMajor_cmdWord]
    show selectVector23 (wordSub _) _ _ = _
    rw [wordSub_cmdWord]
    show some (Instr.vquant (readV _ _)) = _
    rw [readV_packV1]
theorem Laws.RoundTrip.vdequant (f : VForm) : Laws.RoundTrip.Statement (.vdequant f) := by
  intro h _
  refine decodeCmd_ok (c := .vector) ?_ ?_ ?_ ?_ h rfl
  · simp [foreignClass]
  · simp
  · simp [isCmd]
  · show selectVector (wordMajor _) _ _ = _
    rw [wordMajor_cmdWord]
    show selectVector23 (wordSub _) _ _ = _
    rw [wordSub_cmdWord]
    show some (Instr.vdequant (readV _ _)) = _
    rw [readV_packV1]
theorem Laws.RoundTrip.vscale (f : VForm) : Laws.RoundTrip.Statement (.vscale f) := by
  intro h _
  refine decodeCmd_ok (c := .vector) ?_ ?_ ?_ ?_ h rfl
  · simp [foreignClass]
  · simp
  · simp [isCmd]
  · show selectVector (wordMajor _) _ _ = _
    rw [wordMajor_cmdWord]
    show selectVector23 (wordSub _) _ _ = _
    rw [wordSub_cmdWord]
    show some (Instr.vscale (readV _ _)) = _
    rw [readV_packV1]
theorem Laws.RoundTrip.cpush (f : VForm) : Laws.RoundTrip.Statement (.cpush f) := by
  intro h _
  refine decodeCmd_ok (c := .vector) ?_ ?_ ?_ ?_ h rfl
  · simp [foreignClass]
  · simp
  · simp [isCmd]
  · show selectVector (wordMajor _) _ _ = _
    rw [wordMajor_cmdWord]
    show selectVector24 (wordSub _) _ _ = _
    rw [wordSub_cmdWord]
    show some (Instr.cpush (readV _ _)) = _
    rw [readV_packV1]
theorem Laws.RoundTrip.cpop (f : VForm) : Laws.RoundTrip.Statement (.cpop f) := by
  intro h _
  refine decodeCmd_ok (c := .vector) ?_ ?_ ?_ ?_ h rfl
  · simp [foreignClass]
  · simp
  · simp [isCmd]
  · show selectVector (wordMajor _) _ _ = _
    rw [wordMajor_cmdWord]
    show selectVector24 (wordSub _) _ _ = _
    rw [wordSub_cmdWord]
    show some (Instr.cpop (readV _ _)) = _
    rw [readV_packV1]
theorem Laws.RoundTrip.cbal (f : VForm) : Laws.RoundTrip.Statement (.cbal f) := by
  intro h _
  refine decodeCmd_ok (c := .vector) ?_ ?_ ?_ ?_ h rfl
  · simp [foreignClass]
  · simp
  · simp [isCmd]
  · show selectVector (wordMajor _) _ _ = _
    rw [wordMajor_cmdWord]
    show selectVector24 (wordSub _) _ _ = _
    rw [wordSub_cmdWord]
    show some (Instr.cbal (readV _ _)) = _
    rw [readV_packV1]
theorem Laws.RoundTrip.kand (f : VForm) : Laws.RoundTrip.Statement (.kand f) := by
  intro h _
  refine decodeCmd_ok (c := .vector) ?_ ?_ ?_ ?_ h rfl
  · simp [foreignClass]
  · simp
  · simp [isCmd]
  · show selectVector (wordMajor _) _ _ = _
    rw [wordMajor_cmdWord]
    show selectVector25 (wordSub _) _ _ = _
    rw [wordSub_cmdWord]
    show some (Instr.kand (readV _ _)) = _
    rw [readV_packV1]
theorem Laws.RoundTrip.kor (f : VForm) : Laws.RoundTrip.Statement (.kor f) := by
  intro h _
  refine decodeCmd_ok (c := .vector) ?_ ?_ ?_ ?_ h rfl
  · simp [foreignClass]
  · simp
  · simp [isCmd]
  · show selectVector (wordMajor _) _ _ = _
    rw [wordMajor_cmdWord]
    show selectVector25 (wordSub _) _ _ = _
    rw [wordSub_cmdWord]
    show some (Instr.kor (readV _ _)) = _
    rw [readV_packV1]
theorem Laws.RoundTrip.kxor (f : VForm) : Laws.RoundTrip.Statement (.kxor f) := by
  intro h _
  refine decodeCmd_ok (c := .vector) ?_ ?_ ?_ ?_ h rfl
  · simp [foreignClass]
  · simp
  · simp [isCmd]
  · show selectVector (wordMajor _) _ _ = _
    rw [wordMajor_cmdWord]
    show selectVector25 (wordSub _) _ _ = _
    rw [wordSub_cmdWord]
    show some (Instr.kxor (readV _ _)) = _
    rw [readV_packV1]
theorem Laws.RoundTrip.knot (f : VForm) : Laws.RoundTrip.Statement (.knot f) := by
  intro h _
  refine decodeCmd_ok (c := .vector) ?_ ?_ ?_ ?_ h rfl
  · simp [foreignClass]
  · simp
  · simp [isCmd]
  · show selectVector (wordMajor _) _ _ = _
    rw [wordMajor_cmdWord]
    show selectVector25 (wordSub _) _ _ = _
    rw [wordSub_cmdWord]
    show some (Instr.knot (readV _ _)) = _
    rw [readV_packV1]
theorem Laws.RoundTrip.kpop (f : VForm) : Laws.RoundTrip.Statement (.kpop f) := by
  intro h _
  refine decodeCmd_ok (c := .vector) ?_ ?_ ?_ ?_ h rfl
  · simp [foreignClass]
  · simp
  · simp [isCmd]
  · show selectVector (wordMajor _) _ _ = _
    rw [wordMajor_cmdWord]
    show selectVector25 (wordSub _) _ _ = _
    rw [wordSub_cmdWord]
    show some (Instr.kpop (readV _ _)) = _
    rw [readV_packV1]
theorem Laws.RoundTrip.kmov (f : VForm) : Laws.RoundTrip.Statement (.kmov f) := by
  intro h _
  refine decodeCmd_ok (c := .vector) ?_ ?_ ?_ ?_ h rfl
  · simp [foreignClass]
  · simp
  · simp [isCmd]
  · show selectVector (wordMajor _) _ _ = _
    rw [wordMajor_cmdWord]
    show selectVector25 (wordSub _) _ _ = _
    rw [wordSub_cmdWord]
    show some (Instr.kmov (readV _ _)) = _
    rw [readV_packV1]
theorem Laws.RoundTrip.vpop (f : VForm) : Laws.RoundTrip.Statement (.vpop f) := by
  intro h _
  refine decodeCmd_ok (c := .vector) ?_ ?_ ?_ ?_ h rfl
  · simp [foreignClass]
  · simp
  · simp [isCmd]
  · show selectVector (wordMajor _) _ _ = _
    rw [wordMajor_cmdWord]
    show selectVector26 (wordSub _) _ _ = _
    rw [wordSub_cmdWord]
    show some (Instr.vpop (readV _ _)) = _
    rw [readV_packV1]
theorem Laws.RoundTrip.vpush (f : VForm) : Laws.RoundTrip.Statement (.vpush f) := by
  intro h _
  refine decodeCmd_ok (c := .vector) ?_ ?_ ?_ ?_ h rfl
  · simp [foreignClass]
  · simp
  · simp [isCmd]
  · show selectVector (wordMajor _) _ _ = _
    rw [wordMajor_cmdWord]
    show selectVector26 (wordSub _) _ _ = _
    rw [wordSub_cmdWord]
    show some (Instr.vpush (readV _ _)) = _
    rw [readV_packV1]
theorem Laws.RoundTrip.mnop (f : MForm) : Laws.RoundTrip.Statement (.mnop f) := by
  intro h _
  refine decodeCmd_ok (c := .matrix) ?_ ?_ ?_ ?_ h rfl
  · simp [foreignClass]
  · simp
  · simp [isCmd]
  · show selectMatrix (wordMajor _) _ _ = _
    rw [wordMajor_cmdWord]
    show selectMatrix20 (wordSub _) _ _ = _
    rw [wordSub_cmdWord]
    show some (Instr.mnop (readM _ _)) = _
    rw [readM_packM1]
theorem Laws.RoundTrip.mnopC (f : MnopC) : Laws.RoundTrip.Statement (.mnopC f) := by
  intro h _
  obtain ⟨dt⟩ := f
  have hc : ∀ dt : BitVec 8, compactCop (0#8 ++ dt) = 0 := by decide
  have hd : ∀ dt : BitVec 8, (0#8 ++ dt).extractLsb' 0 8 = dt := by decide
  show checked (selectCompact _ (compactCop _) _) _ = _
  rw [hc]
  show checked (some (Instr.mnopC (MnopC.mk (BitVec.extractLsb' 0 8 _)))) _ = _
  rw [hd]
  exact checked_ok h rfl
theorem Laws.RoundTrip.mstamp (f : MForm) : Laws.RoundTrip.Statement (.mstamp f) := by
  intro h _
  refine decodeCmd_ok (c := .matrix) ?_ ?_ ?_ ?_ h rfl
  · simp [foreignClass]
  · simp
  · simp [isCmd]
  · show selectMatrix (wordMajor _) _ _ = _
    rw [wordMajor_cmdWord]
    show selectMatrix20 (wordSub _) _ _ = _
    rw [wordSub_cmdWord]
    show selectMatrix20 1 _ _ = _
    have hk : (f.d == 0) = true := by
      simp [Instr.wf] at h
      simp [h]
    simp only [selectMatrix20, readM_packM1, hk]
    simp
theorem Laws.RoundTrip.mstampAl (f : MForm) : Laws.RoundTrip.Statement (.mstampAl f) := by
  intro h _
  refine decodeCmd_ok (c := .matrix) ?_ ?_ ?_ ?_ h rfl
  · simp [foreignClass]
  · simp
  · simp [isCmd]
  · show selectMatrix (wordMajor _) _ _ = _
    rw [wordMajor_cmdWord]
    show selectMatrix20 (wordSub _) _ _ = _
    rw [wordSub_cmdWord]
    show selectMatrix20 1 _ _ = _
    have hk : (f.d == 0) = false := by
      simp [Instr.wf] at h
      simp [h]
    simp only [selectMatrix20, readM_packM1, hk]
    simp
theorem Laws.RoundTrip.mmode (f : MForm) : Laws.RoundTrip.Statement (.mmode f) := by
  intro h _
  refine decodeCmd_ok (c := .matrix) ?_ ?_ ?_ ?_ h rfl
  · simp [foreignClass]
  · simp
  · simp [isCmd]
  · show selectMatrix (wordMajor _) _ _ = _
    rw [wordMajor_cmdWord]
    show selectMatrix20 (wordSub _) _ _ = _
    rw [wordSub_cmdWord]
    show some (Instr.mmode (readM _ _)) = _
    rw [readM_packM1]
theorem Laws.RoundTrip.mwait (f : MForm) : Laws.RoundTrip.Statement (.mwait f) := by
  intro h _
  refine decodeCmd_ok (c := .matrix) ?_ ?_ ?_ ?_ h rfl
  · simp [foreignClass]
  · simp
  · simp [isCmd]
  · show selectMatrix (wordMajor _) _ _ = _
    rw [wordMajor_cmdWord]
    show selectMatrix20 (wordSub _) _ _ = _
    rw [wordSub_cmdWord]
    show some (Instr.mwait (readM _ _)) = _
    rw [readM_packM1]
theorem Laws.RoundTrip.mtscale (f : MForm) : Laws.RoundTrip.Statement (.mtscale f) := by
  intro h _
  refine decodeCmd_ok (c := .matrix) ?_ ?_ ?_ ?_ h rfl
  · simp [foreignClass]
  · simp
  · simp [isCmd]
  · show selectMatrix (wordMajor _) _ _ = _
    rw [wordMajor_cmdWord]
    show selectMatrix20 (wordSub _) _ _ = _
    rw [wordSub_cmdWord]
    show selectMatrix20 4 _ _ = _
    have hk : f.d.toNat < 2 := by
      simp [Instr.wf] at h
      simp [h]
    simp only [selectMatrix20, readM_packM1, hk]
    simp
theorem Laws.RoundTrip.mtscaleQ (f : MForm) : Laws.RoundTrip.Statement (.mtscaleQ f) := by
  intro h _
  refine decodeCmd_ok (c := .matrix) ?_ ?_ ?_ ?_ h rfl
  · simp [foreignClass]
  · simp
  · simp [isCmd]
  · show selectMatrix (wordMajor _) _ _ = _
    rw [wordMajor_cmdWord]
    show selectMatrix20 (wordSub _) _ _ = _
    rw [wordSub_cmdWord]
    show selectMatrix20 4 _ _ = _
    have hk : ¬ f.d.toNat < 2 := by
      simp [Instr.wf] at h
      rcases h.1.1.1.1.1.1.1.2 with h2 | h2 <;> simp [h2]
    simp only [selectMatrix20, readM_packM1, hk]
    simp
theorem Laws.RoundTrip.mnstat (f : MForm) : Laws.RoundTrip.Statement (.mnstat f) := by
  intro h _
  refine decodeCmd_ok (c := .matrix) ?_ ?_ ?_ ?_ h rfl
  · simp [foreignClass]
  · simp
  · simp [isCmd]
  · show selectMatrix (wordMajor _) _ _ = _
    rw [wordMajor_cmdWord]
    show selectMatrix20 (wordSub _) _ _ = _
    rw [wordSub_cmdWord]
    show some (Instr.mnstat (readM _ _)) = _
    rw [readM_packM1]
theorem Laws.RoundTrip.mroute (f : MForm) : Laws.RoundTrip.Statement (.mroute f) := by
  intro h _
  refine decodeCmd_ok (c := .matrix) ?_ ?_ ?_ ?_ h rfl
  · simp [foreignClass]
  · simp
  · simp [isCmd]
  · show selectMatrix (wordMajor _) _ _ = _
    rw [wordMajor_cmdWord]
    show selectMatrix20 (wordSub _) _ _ = _
    rw [wordSub_cmdWord]
    show some (Instr.mroute (readM _ _)) = _
    rw [readM_packM1]
theorem Laws.RoundTrip.mwld (f : MForm) : Laws.RoundTrip.Statement (.mwld f) := by
  intro h _
  refine decodeCmd_ok (c := .matrix) ?_ ?_ ?_ ?_ h rfl
  · simp [foreignClass]
  · simp
  · simp [isCmd]
  · show selectMatrix (wordMajor _) _ _ = _
    rw [wordMajor_cmdWord]
    show selectMatrix21 (wordSub _) _ _ = _
    rw [wordSub_cmdWord]
    show some (Instr.mwld (readM _ _)) = _
    rw [readM_packM1]
theorem Laws.RoundTrip.mwsel (f : MForm) : Laws.RoundTrip.Statement (.mwsel f) := by
  intro h _
  refine decodeCmd_ok (c := .matrix) ?_ ?_ ?_ ?_ h rfl
  · simp [foreignClass]
  · simp
  · simp [isCmd]
  · show selectMatrix (wordMajor _) _ _ = _
    rw [wordMajor_cmdWord]
    show selectMatrix21 (wordSub _) _ _ = _
    rw [wordSub_cmdWord]
    show some (Instr.mwsel (readM _ _)) = _
    rw [readM_packM1]
theorem Laws.RoundTrip.mma (f : MForm) : Laws.RoundTrip.Statement (.mma f) := by
  intro h _
  refine decodeCmd_ok (c := .matrix) ?_ ?_ ?_ ?_ h rfl
  · simp [foreignClass]
  · simp
  · simp [isCmd]
  · show selectMatrix (wordMajor _) _ _ = _
    rw [wordMajor_cmdWord]
    show selectMatrix22 (wordSub _) _ _ = _
    rw [wordSub_cmdWord]
    show some (Instr.mma (readM _ _)) = _
    rw [readM_packM1]
theorem Laws.RoundTrip.mmaz (f : MForm) : Laws.RoundTrip.Statement (.mmaz f) := by
  intro h _
  refine decodeCmd_ok (c := .matrix) ?_ ?_ ?_ ?_ h rfl
  · simp [foreignClass]
  · simp
  · simp [isCmd]
  · show selectMatrix (wordMajor _) _ _ = _
    rw [wordMajor_cmdWord]
    show selectMatrix22 (wordSub _) _ _ = _
    rw [wordSub_cmdWord]
    show some (Instr.mmaz (readM _ _)) = _
    rw [readM_packM1]
theorem Laws.RoundTrip.mhad (f : MForm) : Laws.RoundTrip.Statement (.mhad f) := by
  intro h _
  refine decodeCmd_ok (c := .matrix) ?_ ?_ ?_ ?_ h rfl
  · simp [foreignClass]
  · simp
  · simp [isCmd]
  · show selectMatrix (wordMajor _) _ _ = _
    rw [wordMajor_cmdWord]
    show selectMatrix22 (wordSub _) _ _ = _
    rw [wordSub_cmdWord]
    show some (Instr.mhad (readM _ _)) = _
    rw [readM_packM1]
theorem Laws.RoundTrip.mquant (f : MForm) : Laws.RoundTrip.Statement (.mquant f) := by
  intro h _
  refine decodeCmd_ok (c := .matrix) ?_ ?_ ?_ ?_ h rfl
  · simp [foreignClass]
  · simp
  · simp [isCmd]
  · show selectMatrix (wordMajor _) _ _ = _
    rw [wordMajor_cmdWord]
    show selectMatrix22 (wordSub _) _ _ = _
    rw [wordSub_cmdWord]
    show some (Instr.mquant (readM _ _)) = _
    rw [readM_packM1]
theorem Laws.RoundTrip.mdrain (f : MForm) : Laws.RoundTrip.Statement (.mdrain f) := by
  intro h _
  refine decodeCmd_ok (c := .matrix) ?_ ?_ ?_ ?_ h rfl
  · simp [foreignClass]
  · simp
  · simp [isCmd]
  · show selectMatrix (wordMajor _) _ _ = _
    rw [wordMajor_cmdWord]
    show selectMatrix23 (wordSub _) _ _ = _
    rw [wordSub_cmdWord]
    show some (Instr.mdrain (readM _ _)) = _
    rw [readM_packM1]
theorem Laws.RoundTrip.maccld (f : MForm) : Laws.RoundTrip.Statement (.maccld f) := by
  intro h _
  refine decodeCmd_ok (c := .matrix) ?_ ?_ ?_ ?_ h rfl
  · simp [foreignClass]
  · simp
  · simp [isCmd]
  · show selectMatrix (wordMajor _) _ _ = _
    rw [wordMajor_cmdWord]
    show selectMatrix23 (wordSub _) _ _ = _
    rw [wordSub_cmdWord]
    show some (Instr.maccld (readM _ _)) = _
    rw [readM_packM1]
theorem Laws.RoundTrip.maccst (f : MForm) : Laws.RoundTrip.Statement (.maccst f) := by
  intro h _
  refine decodeCmd_ok (c := .matrix) ?_ ?_ ?_ ?_ h rfl
  · simp [foreignClass]
  · simp
  · simp [isCmd]
  · show selectMatrix (wordMajor _) _ _ = _
    rw [wordMajor_cmdWord]
    show selectMatrix23 (wordSub _) _ _ = _
    rw [wordSub_cmdWord]
    show some (Instr.maccst (readM _ _)) = _
    rw [readM_packM1]
theorem Laws.RoundTrip.mzero (f : MForm) : Laws.RoundTrip.Statement (.mzero f) := by
  intro h _
  refine decodeCmd_ok (c := .matrix) ?_ ?_ ?_ ?_ h rfl
  · simp [foreignClass]
  · simp
  · simp [isCmd]
  · show selectMatrix (wordMajor _) _ _ = _
    rw [wordMajor_cmdWord]
    show selectMatrix23 (wordSub _) _ _ = _
    rw [wordSub_cmdWord]
    show some (Instr.mzero (readM _ _)) = _
    rw [readM_packM1]
theorem Laws.RoundTrip.cinc (f : CmdE) : Laws.RoundTrip.Statement (.cinc f) := by
  intro h _
  refine decodeCmd_ok (c := .control) ?_ ?_ ?_ ?_ h rfl
  · simp [foreignClass]
  · simp
  · simp [isCmd]
  · show selectControl (wordMajor _) _ _ = _
    rw [wordMajor_cmdWord]
    show selectControl3A (wordSub _) _ _ = _
    rw [wordSub_cmdWord]
    show some (Instr.cinc (readCmd _ _)) = _
    rw [readCmd_packCmd1]
theorem Laws.RoundTrip.cset (f : CmdE) : Laws.RoundTrip.Statement (.cset f) := by
  intro h _
  refine decodeCmd_ok (c := .control) ?_ ?_ ?_ ?_ h rfl
  · simp [foreignClass]
  · simp
  · simp [isCmd]
  · show selectControl (wordMajor _) _ _ = _
    rw [wordMajor_cmdWord]
    show selectControl3A (wordSub _) _ _ = _
    rw [wordSub_cmdWord]
    show some (Instr.cset (readCmd _ _)) = _
    rw [readCmd_packCmd1]
theorem Laws.RoundTrip.cadd (f : CmdE) : Laws.RoundTrip.Statement (.cadd f) := by
  intro h _
  refine decodeCmd_ok (c := .control) ?_ ?_ ?_ ?_ h rfl
  · simp [foreignClass]
  · simp
  · simp [isCmd]
  · show selectControl (wordMajor _) _ _ = _
    rw [wordMajor_cmdWord]
    show selectControl3A (wordSub _) _ _ = _
    rw [wordSub_cmdWord]
    show some (Instr.cadd (readCmd _ _)) = _
    rw [readCmd_packCmd1]
theorem Laws.RoundTrip.cread (f : CmdE) : Laws.RoundTrip.Statement (.cread f) := by
  intro h _
  refine decodeCmd_ok (c := .control) ?_ ?_ ?_ ?_ h rfl
  · simp [foreignClass]
  · simp
  · simp [isCmd]
  · show selectControl (wordMajor _) _ _ = _
    rw [wordMajor_cmdWord]
    show selectControl3A (wordSub _) _ _ = _
    rw [wordSub_cmdWord]
    show some (Instr.cread (readCmd _ _)) = _
    rw [readCmd_packCmd1]
theorem Laws.RoundTrip.cwait (f : CmdE) : Laws.RoundTrip.Statement (.cwait f) := by
  intro h _
  refine decodeCmd_ok (c := .control) ?_ ?_ ?_ ?_ h rfl
  · simp [foreignClass]
  · simp
  · simp [isCmd]
  · show selectControl (wordMajor _) _ _ = _
    rw [wordMajor_cmdWord]
    show selectControl3A (wordSub _) _ _ = _
    rw [wordSub_cmdWord]
    show some (Instr.cwait (readCmd _ _)) = _
    rw [readCmd_packCmd1]
theorem Laws.RoundTrip.arm (f : CmdE) : Laws.RoundTrip.Statement (.arm f) := by
  intro h _
  refine decodeCmd_ok (c := .control) ?_ ?_ ?_ ?_ h rfl
  · simp [foreignClass]
  · simp
  · simp [isCmd]
  · show selectControl (wordMajor _) _ _ = _
    rw [wordMajor_cmdWord]
    show selectControl3A (wordSub _) _ _ = _
    rw [wordSub_cmdWord]
    show some (Instr.arm (readCmd _ _)) = _
    rw [readCmd_packCmd1]
theorem Laws.RoundTrip.disarm (f : CmdE) : Laws.RoundTrip.Statement (.disarm f) := by
  intro h _
  refine decodeCmd_ok (c := .control) ?_ ?_ ?_ ?_ h rfl
  · simp [foreignClass]
  · simp
  · simp [isCmd]
  · show selectControl (wordMajor _) _ _ = _
    rw [wordMajor_cmdWord]
    show selectControl3A (wordSub _) _ _ = _
    rw [wordSub_cmdWord]
    show some (Instr.disarm (readCmd _ _)) = _
    rw [readCmd_packCmd1]
theorem Laws.RoundTrip.armq (f : CmdE) : Laws.RoundTrip.Statement (.armq f) := by
  intro h _
  refine decodeCmd_ok (c := .control) ?_ ?_ ?_ ?_ h rfl
  · simp [foreignClass]
  · simp
  · simp [isCmd]
  · show selectControl (wordMajor _) _ _ = _
    rw [wordMajor_cmdWord]
    show selectControl3A (wordSub _) _ _ = _
    rw [wordSub_cmdWord]
    show some (Instr.armq (readCmd _ _)) = _
    rw [readCmd_packCmd1]
theorem Laws.RoundTrip.trig (f : CmdE) : Laws.RoundTrip.Statement (.trig f) := by
  intro h _
  refine decodeCmd_ok (c := .control) ?_ ?_ ?_ ?_ h rfl
  · simp [foreignClass]
  · simp
  · simp [isCmd]
  · show selectControl (wordMajor _) _ _ = _
    rw [wordMajor_cmdWord]
    show selectControl3A (wordSub _) _ _ = _
    rw [wordSub_cmdWord]
    show some (Instr.trig (readCmd _ _)) = _
    rw [readCmd_packCmd1]
theorem Laws.RoundTrip.kick (f : CmdE) : Laws.RoundTrip.Statement (.kick f) := by
  intro h _
  refine decodeCmd_ok (c := .control) ?_ ?_ ?_ ?_ h rfl
  · simp [foreignClass]
  · simp
  · simp [isCmd]
  · show selectControl (wordMajor _) _ _ = _
    rw [wordMajor_cmdWord]
    show selectControl3A (wordSub _) _ _ = _
    rw [wordSub_cmdWord]
    show some (Instr.kick (readCmd _ _)) = _
    rw [readCmd_packCmd1]
theorem Laws.RoundTrip.launch (f : CmdE) : Laws.RoundTrip.Statement (.launch f) := by
  intro h _
  refine decodeCmd_ok (c := .control) ?_ ?_ ?_ ?_ h rfl
  · simp [foreignClass]
  · simp
  · simp [isCmd]
  · show selectControl (wordMajor _) _ _ = _
    rw [wordMajor_cmdWord]
    show selectControl3A (wordSub _) _ _ = _
    rw [wordSub_cmdWord]
    show some (Instr.launch (readCmd _ _)) = _
    rw [readCmd_packCmd1]
theorem Laws.RoundTrip.patch (f : CmdE) : Laws.RoundTrip.Statement (.patch f) := by
  intro h _
  refine decodeCmd_ok (c := .control) ?_ ?_ ?_ ?_ h rfl
  · simp [foreignClass]
  · simp
  · simp [isCmd]
  · show selectControl (wordMajor _) _ _ = _
    rw [wordMajor_cmdWord]
    show selectControl3A (wordSub _) _ _ = _
    rw [wordSub_cmdWord]
    show selectControl3A 18 _ _ = _
    have hk : f.imm.getLsbD 0 = false := by
      simp [Instr.wf] at h
      simp [h]
    simp only [selectControl3A, readCmd_packCmd1, hk]
    rfl
theorem Laws.RoundTrip.patchM (f : CmdE) : Laws.RoundTrip.Statement (.patchM f) := by
  intro h _
  refine decodeCmd_ok (c := .control) ?_ ?_ ?_ ?_ h rfl
  · simp [foreignClass]
  · simp
  · simp [isCmd]
  · show selectControl (wordMajor _) _ _ = _
    rw [wordMajor_cmdWord]
    show selectControl3A (wordSub _) _ _ = _
    rw [wordSub_cmdWord]
    show selectControl3A 18 _ _ = _
    have hk : f.imm.getLsbD 0 = true := by
      simp [Instr.wf] at h
      simp [h]
    simp only [selectControl3A, readCmd_packCmd1, hk]
    rfl
theorem Laws.RoundTrip.qctlTickets (f : CmdE) : Laws.RoundTrip.Statement (.qctlTickets f) := by
  intro h _
  refine decodeCmd_ok (c := .control) ?_ ?_ ?_ ?_ h rfl
  · simp [foreignClass]
  · simp
  · simp [isCmd]
  · show selectControl (wordMajor _) _ _ = _
    rw [wordMajor_cmdWord]
    show selectControl3A (wordSub _) _ _ = _
    rw [wordSub_cmdWord]
    show selectControl3A 19 _ _ = _
    have hk : (f.imm.extractLsb' 0 2).toNat = 0 := by
      simp [Instr.wf] at h
      simp [h]
    simp only [selectControl3A, readCmd_packCmd1, hk]
theorem Laws.RoundTrip.qctlFlush (f : CmdE) : Laws.RoundTrip.Statement (.qctlFlush f) := by
  intro h _
  refine decodeCmd_ok (c := .control) ?_ ?_ ?_ ?_ h rfl
  · simp [foreignClass]
  · simp
  · simp [isCmd]
  · show selectControl (wordMajor _) _ _ = _
    rw [wordMajor_cmdWord]
    show selectControl3A (wordSub _) _ _ = _
    rw [wordSub_cmdWord]
    show selectControl3A 19 _ _ = _
    have hk : (f.imm.extractLsb' 0 2).toNat = 1 := by
      simp [Instr.wf] at h
      simp [h]
    simp only [selectControl3A, readCmd_packCmd1, hk]
theorem Laws.RoundTrip.qctlPreempt (f : CmdE) : Laws.RoundTrip.Statement (.qctlPreempt f) := by
  intro h _
  refine decodeCmd_ok (c := .control) ?_ ?_ ?_ ?_ h rfl
  · simp [foreignClass]
  · simp
  · simp [isCmd]
  · show selectControl (wordMajor _) _ _ = _
    rw [wordMajor_cmdWord]
    show selectControl3A (wordSub _) _ _ = _
    rw [wordSub_cmdWord]
    show selectControl3A 19 _ _ = _
    have hk : (f.imm.extractLsb' 0 2).toNat = 2 := by
      simp [Instr.wf] at h
      simp [h]
    simp only [selectControl3A, readCmd_packCmd1, hk]
theorem Laws.RoundTrip.qctlRead (f : CmdE) : Laws.RoundTrip.Statement (.qctlRead f) := by
  intro h _
  refine decodeCmd_ok (c := .control) ?_ ?_ ?_ ?_ h rfl
  · simp [foreignClass]
  · simp
  · simp [isCmd]
  · show selectControl (wordMajor _) _ _ = _
    rw [wordMajor_cmdWord]
    show selectControl3A (wordSub _) _ _ = _
    rw [wordSub_cmdWord]
    show selectControl3A 19 _ _ = _
    have hk : (f.imm.extractLsb' 0 2).toNat = 3 := by
      simp [Instr.wf] at h
      simp [h]
    simp only [selectControl3A, readCmd_packCmd1, hk]
theorem Laws.RoundTrip.coll (f : CmdE) : Laws.RoundTrip.Statement (.coll f) := by
  intro h _
  refine decodeCmd_ok (c := .control) ?_ ?_ ?_ ?_ h rfl
  · simp [foreignClass]
  · simp
  · simp [isCmd]
  · show selectControl (wordMajor _) _ _ = _
    rw [wordMajor_cmdWord]
    show selectControl3A (wordSub _) _ _ = _
    rw [wordSub_cmdWord]
    show some (Instr.coll (readCmd _ _)) = _
    rw [readCmd_packCmd1]
theorem Laws.RoundTrip.collabort (f : CmdE) : Laws.RoundTrip.Statement (.collabort f) := by
  intro h _
  refine decodeCmd_ok (c := .control) ?_ ?_ ?_ ?_ h rfl
  · simp [foreignClass]
  · simp
  · simp [isCmd]
  · show selectControl (wordMajor _) _ _ = _
    rw [wordMajor_cmdWord]
    show selectControl3A (wordSub _) _ _ = _
    rw [wordSub_cmdWord]
    show some (Instr.collabort (readCmd _ _)) = _
    rw [readCmd_packCmd1]
theorem Laws.RoundTrip.usend (f : CmdE) : Laws.RoundTrip.Statement (.usend f) := by
  intro h _
  refine decodeCmd_ok (c := .ferry) ?_ ?_ ?_ ?_ h rfl
  · simp [foreignClass]
  · simp
  · simp [isCmd]
  · show selectControl (wordMajor _) _ _ = _
    rw [wordMajor_cmdWord]
    show selectControl3B (wordSub _) _ _ = _
    rw [wordSub_cmdWord]
    show some (Instr.usend (readCmd _ _)) = _
    rw [readCmd_packCmd1]
theorem Laws.RoundTrip.uputRma (f : CmdE) : Laws.RoundTrip.Statement (.uputRma f) := by
  intro h _
  refine decodeCmd_ok (c := .ferry) ?_ ?_ ?_ ?_ h rfl
  · simp [foreignClass]
  · simp
  · simp [isCmd]
  · show selectControl (wordMajor _) _ _ = _
    rw [wordMajor_cmdWord]
    show selectControl3B (wordSub _) _ _ = _
    rw [wordSub_cmdWord]
    show some (Instr.uputRma (readCmd _ _)) = _
    rw [readCmd_packCmd1]
theorem Laws.RoundTrip.uputHost (f : CmdE) : Laws.RoundTrip.Statement (.uputHost f) := by
  intro _ h; exact absurd h (by simp [Instr.asDecoded])
theorem Laws.RoundTrip.mrecv (f : CmdE) : Laws.RoundTrip.Statement (.mrecv f) := by
  intro h _
  refine decodeCmd_ok (c := .ferry) ?_ ?_ ?_ ?_ h rfl
  · simp [foreignClass]
  · simp
  · simp [isCmd]
  · show selectControl (wordMajor _) _ _ = _
    rw [wordMajor_cmdWord]
    show selectControl3B (wordSub _) _ _ = _
    rw [wordSub_cmdWord]
    show some (Instr.mrecv (readCmd _ _)) = _
    rw [readCmd_packCmd1]
theorem Laws.RoundTrip.mpoll (f : CmdE) : Laws.RoundTrip.Statement (.mpoll f) := by
  intro h _
  refine decodeCmd_ok (c := .ferry) ?_ ?_ ?_ ?_ h rfl
  · simp [foreignClass]
  · simp
  · simp [isCmd]
  · show selectControl (wordMajor _) _ _ = _
    rw [wordMajor_cmdWord]
    show selectControl3B (wordSub _) _ _ = _
    rw [wordSub_cmdWord]
    show some (Instr.mpoll (readCmd _ _)) = _
    rw [readCmd_packCmd1]
theorem Laws.RoundTrip.mreply (f : CmdE) : Laws.RoundTrip.Statement (.mreply f) := by
  intro h _
  refine decodeCmd_ok (c := .ferry) ?_ ?_ ?_ ?_ h rfl
  · simp [foreignClass]
  · simp
  · simp [isCmd]
  · show selectControl (wordMajor _) _ _ = _
    rw [wordMajor_cmdWord]
    show selectControl3B (wordSub _) _ _ = _
    rw [wordSub_cmdWord]
    show some (Instr.mreply (readCmd _ _)) = _
    rw [readCmd_packCmd1]
theorem Laws.RoundTrip.mdone (f : CmdE) : Laws.RoundTrip.Statement (.mdone f) := by
  intro h _
  refine decodeCmd_ok (c := .ferry) ?_ ?_ ?_ ?_ h rfl
  · simp [foreignClass]
  · simp
  · simp [isCmd]
  · show selectControl (wordMajor _) _ _ = _
    rw [wordMajor_cmdWord]
    show selectControl3B (wordSub _) _ _ = _
    rw [wordSub_cmdWord]
    show some (Instr.mdone (readCmd _ _)) = _
    rw [readCmd_packCmd1]
theorem Laws.RoundTrip.mapVa (f : CmdE) : Laws.RoundTrip.Statement (.mapVa f) := by
  intro h _
  refine decodeCmd_ok (c := .control) ?_ ?_ ?_ ?_ h rfl
  · simp [foreignClass]
  · simp
  · simp [isCmd]
  · show selectControl (wordMajor _) _ _ = _
    rw [wordMajor_cmdWord]
    show selectControl3C (wordSub _) _ _ = _
    rw [wordSub_cmdWord]
    show selectControl3C 0 _ _ = _
    have hk : (kindBits f.imm).toNat = 0 := by
      simp [Instr.wf] at h
      simp [h]
    simp only [selectControl3C, readCmd_packCmd1, hk]
theorem Laws.RoundTrip.mapTensor (f : CmdE) : Laws.RoundTrip.Statement (.mapTensor f) := by
  intro h _
  refine decodeCmd_ok (c := .control) ?_ ?_ ?_ ?_ h rfl
  · simp [foreignClass]
  · simp
  · simp [isCmd]
  · show selectControl (wordMajor _) _ _ = _
    rw [wordMajor_cmdWord]
    show selectControl3C (wordSub _) _ _ = _
    rw [wordSub_cmdWord]
    show selectControl3C 0 _ _ = _
    have hk : (kindBits f.imm).toNat = 1 := by
      simp [Instr.wf] at h
      simp [h]
    simp only [selectControl3C, readCmd_packCmd1, hk]
theorem Laws.RoundTrip.mapChunk (f : CmdE) : Laws.RoundTrip.Statement (.mapChunk f) := by
  intro h _
  refine decodeCmd_ok (c := .control) ?_ ?_ ?_ ?_ h rfl
  · simp [foreignClass]
  · simp
  · simp [isCmd]
  · show selectControl (wordMajor _) _ _ = _
    rw [wordMajor_cmdWord]
    show selectControl3C (wordSub _) _ _ = _
    rw [wordSub_cmdWord]
    show selectControl3C 0 _ _ = _
    have hk : (kindBits f.imm).toNat = 2 := by
      simp [Instr.wf] at h
      simp [h]
    simp only [selectControl3C, readCmd_packCmd1, hk]
theorem Laws.RoundTrip.unmapVa (f : CmdE) : Laws.RoundTrip.Statement (.unmapVa f) := by
  intro h _
  refine decodeCmd_ok (c := .control) ?_ ?_ ?_ ?_ h rfl
  · simp [foreignClass]
  · simp
  · simp [isCmd]
  · show selectControl (wordMajor _) _ _ = _
    rw [wordMajor_cmdWord]
    show selectControl3C (wordSub _) _ _ = _
    rw [wordSub_cmdWord]
    show selectControl3C 1 _ _ = _
    have hk : (kindBits f.imm).toNat = 0 := by
      simp [Instr.wf] at h
      simp [h]
    simp only [selectControl3C, readCmd_packCmd1, hk]
theorem Laws.RoundTrip.unmapTensor (f : CmdE) : Laws.RoundTrip.Statement (.unmapTensor f) := by
  intro h _
  refine decodeCmd_ok (c := .control) ?_ ?_ ?_ ?_ h rfl
  · simp [foreignClass]
  · simp
  · simp [isCmd]
  · show selectControl (wordMajor _) _ _ = _
    rw [wordMajor_cmdWord]
    show selectControl3C (wordSub _) _ _ = _
    rw [wordSub_cmdWord]
    show selectControl3C 1 _ _ = _
    have hk : (kindBits f.imm).toNat = 1 := by
      simp [Instr.wf] at h
      simp [h]
    simp only [selectControl3C, readCmd_packCmd1, hk]
theorem Laws.RoundTrip.unmapChunk (f : CmdE) : Laws.RoundTrip.Statement (.unmapChunk f) := by
  intro h _
  refine decodeCmd_ok (c := .control) ?_ ?_ ?_ ?_ h rfl
  · simp [foreignClass]
  · simp
  · simp [isCmd]
  · show selectControl (wordMajor _) _ _ = _
    rw [wordMajor_cmdWord]
    show selectControl3C (wordSub _) _ _ = _
    rw [wordSub_cmdWord]
    show selectControl3C 1 _ _ = _
    have hk : (kindBits f.imm).toNat = 2 := by
      simp [Instr.wf] at h
      simp [h]
    simp only [selectControl3C, readCmd_packCmd1, hk]
theorem Laws.RoundTrip.lease (f : CmdE) : Laws.RoundTrip.Statement (.lease f) := by
  intro h _
  refine decodeCmd_ok (c := .control) ?_ ?_ ?_ ?_ h rfl
  · simp [foreignClass]
  · simp
  · simp [isCmd]
  · show selectControl (wordMajor _) _ _ = _
    rw [wordMajor_cmdWord]
    show selectControl3C (wordSub _) _ _ = _
    rw [wordSub_cmdWord]
    show some (Instr.lease (readCmd _ _)) = _
    rw [readCmd_packCmd1]
theorem Laws.RoundTrip.sdown (f : CmdE) : Laws.RoundTrip.Statement (.sdown f) := by
  intro h _
  refine decodeCmd_ok (c := .control) ?_ ?_ ?_ ?_ h rfl
  · simp [foreignClass]
  · simp
  · simp [isCmd]
  · show selectControl (wordMajor _) _ _ = _
    rw [wordMajor_cmdWord]
    show selectControl3C (wordSub _) _ _ = _
    rw [wordSub_cmdWord]
    show some (Instr.sdown (readCmd _ _)) = _
    rw [readCmd_packCmd1]
theorem Laws.RoundTrip.snap (f : CmdE) : Laws.RoundTrip.Statement (.snap f) := by
  intro h _
  refine decodeCmd_ok (c := .control) ?_ ?_ ?_ ?_ h rfl
  · simp [foreignClass]
  · simp
  · simp [isCmd]
  · show selectControl (wordMajor _) _ _ = _
    rw [wordMajor_cmdWord]
    show selectControl3C (wordSub _) _ _ = _
    rw [wordSub_cmdWord]
    show some (Instr.snap (readCmd _ _)) = _
    rw [readCmd_packCmd1]
theorem Laws.RoundTrip.muster (f : CmdE) : Laws.RoundTrip.Statement (.muster f) := by
  intro h _
  refine decodeCmd_ok (c := .control) ?_ ?_ ?_ ?_ h rfl
  · simp [foreignClass]
  · simp
  · simp [isCmd]
  · show selectControl (wordMajor _) _ _ = _
    rw [wordMajor_cmdWord]
    show selectControl3C (wordSub _) _ _ = _
    rw [wordSub_cmdWord]
    show selectControl3C 9 _ _ = _
    have hk : (kindBits f.imm).toNat = 0 := by
      simp [Instr.wf] at h
      simp [h]
    simp only [selectControl3C, readCmd_packCmd1, hk]
theorem Laws.RoundTrip.musterRelease (f : CmdE) : Laws.RoundTrip.Statement (.musterRelease f) := by
  intro h _
  refine decodeCmd_ok (c := .control) ?_ ?_ ?_ ?_ h rfl
  · simp [foreignClass]
  · simp
  · simp [isCmd]
  · show selectControl (wordMajor _) _ _ = _
    rw [wordMajor_cmdWord]
    show selectControl3C (wordSub _) _ _ = _
    rw [wordSub_cmdWord]
    show selectControl3C 9 _ _ = _
    have hk : (kindBits f.imm).toNat = 1 := by
      simp [Instr.wf] at h
      simp [h]
    simp only [selectControl3C, readCmd_packCmd1, hk]
theorem Laws.RoundTrip.musterHamper (f : CmdE) : Laws.RoundTrip.Statement (.musterHamper f) := by
  intro h _
  refine decodeCmd_ok (c := .control) ?_ ?_ ?_ ?_ h rfl
  · simp [foreignClass]
  · simp
  · simp [isCmd]
  · show selectControl (wordMajor _) _ _ = _
    rw [wordMajor_cmdWord]
    show selectControl3C (wordSub _) _ _ = _
    rw [wordSub_cmdWord]
    show selectControl3C 9 _ _ = _
    have hk : (kindBits f.imm).toNat = 2 := by
      simp [Instr.wf] at h
      simp [h]
    simp only [selectControl3C, readCmd_packCmd1, hk]
theorem Laws.RoundTrip.musterRestore (f : CmdE) : Laws.RoundTrip.Statement (.musterRestore f) := by
  intro h _
  refine decodeCmd_ok (c := .control) ?_ ?_ ?_ ?_ h rfl
  · simp [foreignClass]
  · simp
  · simp [isCmd]
  · show selectControl (wordMajor _) _ _ = _
    rw [wordMajor_cmdWord]
    show selectControl3C (wordSub _) _ _ = _
    rw [wordSub_cmdWord]
    show selectControl3C 9 _ _ = _
    have hk : (kindBits f.imm).toNat = 3 := by
      simp [Instr.wf] at h
      simp [h]
    simp only [selectControl3C, readCmd_packCmd1, hk]
theorem Laws.RoundTrip.rollcall (f : CmdE) : Laws.RoundTrip.Statement (.rollcall f) := by
  intro h _
  refine decodeCmd_ok (c := .control) ?_ ?_ ?_ ?_ h rfl
  · simp [foreignClass]
  · simp
  · simp [isCmd]
  · show selectControl (wordMajor _) _ _ = _
    rw [wordMajor_cmdWord]
    show selectControl3C (wordSub _) _ _ = _
    rw [wordSub_cmdWord]
    show some (Instr.rollcall (readCmd _ _)) = _
    rw [readCmd_packCmd1]
theorem Laws.RoundTrip.rstepWindow (f : CmdE) : Laws.RoundTrip.Statement (.rstepWindow f) := by
  intro h _
  refine decodeCmd_ok (c := .control) ?_ ?_ ?_ ?_ h rfl
  · simp [foreignClass]
  · simp
  · simp [isCmd]
  · show selectControl (wordMajor _) _ _ = _
    rw [wordMajor_cmdWord]
    show selectControl3C (wordSub _) _ _ = _
    rw [wordSub_cmdWord]
    show selectControl3C 11 _ _ = _
    have hk : (kindBits f.imm).toNat = 0 := by
      simp [Instr.wf] at h
      simp only [h]; rfl
    simp only [selectControl3C, readCmd_packCmd1, hk]
theorem Laws.RoundTrip.rstepCount (f : CmdE) : Laws.RoundTrip.Statement (.rstepCount f) := by
  intro h _
  refine decodeCmd_ok (c := .control) ?_ ?_ ?_ ?_ h rfl
  · simp [foreignClass]
  · simp
  · simp [isCmd]
  · show selectControl (wordMajor _) _ _ = _
    rw [wordMajor_cmdWord]
    show selectControl3C (wordSub _) _ _ = _
    rw [wordSub_cmdWord]
    show selectControl3C 11 _ _ = _
    have hk : (kindBits f.imm).toNat = 1 := by
      simp [Instr.wf] at h
      simp only [h]; rfl
    simp only [selectControl3C, readCmd_packCmd1, hk]
theorem Laws.RoundTrip.rstepOpen (f : CmdE) : Laws.RoundTrip.Statement (.rstepOpen f) := by
  intro h _
  refine decodeCmd_ok (c := .control) ?_ ?_ ?_ ?_ h rfl
  · simp [foreignClass]
  · simp
  · simp [isCmd]
  · show selectControl (wordMajor _) _ _ = _
    rw [wordMajor_cmdWord]
    show selectControl3C (wordSub _) _ _ = _
    rw [wordSub_cmdWord]
    show selectControl3C 11 _ _ = _
    have hk : (kindBits f.imm).toNat = 2 := by
      simp [Instr.wf] at h
      simp only [h]; rfl
    simp only [selectControl3C, readCmd_packCmd1, hk]
theorem Laws.RoundTrip.mpsetPoint (f : CmdE) : Laws.RoundTrip.Statement (.mpsetPoint f) := by
  intro h _
  refine decodeCmd_ok (c := .control) ?_ ?_ ?_ ?_ h rfl
  · simp [foreignClass]
  · simp
  · simp [isCmd]
  · show selectControl (wordMajor _) _ _ = _
    rw [wordMajor_cmdWord]
    show selectControl3C (wordSub _) _ _ = _
    rw [wordSub_cmdWord]
    show selectControl3C 12 _ _ = _
    have hk : f.imm.getLsbD 0 = false := by
      simp [Instr.wf] at h
      simp [h]
    simp only [selectControl3C, readCmd_packCmd1, hk]
    rfl
theorem Laws.RoundTrip.mpsetVec (f : CmdE) : Laws.RoundTrip.Statement (.mpsetVec f) := by
  intro h _
  refine decodeCmd_ok (c := .control) ?_ ?_ ?_ ?_ h rfl
  · simp [foreignClass]
  · simp
  · simp [isCmd]
  · show selectControl (wordMajor _) _ _ = _
    rw [wordMajor_cmdWord]
    show selectControl3C (wordSub _) _ _ = _
    rw [wordSub_cmdWord]
    show selectControl3C 12 _ _ = _
    have hk : f.imm.getLsbD 0 = true := by
      simp [Instr.wf] at h
      simp [h]
    simp only [selectControl3C, readCmd_packCmd1, hk]
    rfl
theorem Laws.RoundTrip.stepSend (f : StepDataF) : Laws.RoundTrip.Statement (.stepSend f) := by
  intro h _
  show (checked (selectStep (BitVec.toNat _) _) _).toOption = _
  rw [stepOp_packStepData]
  show (checked (some (Instr.stepSend (readStepData _))) _).toOption = _
  rw [readStepData_packStepData]
  exact congrArg Except.toOption (checked_ok h rfl)
theorem Laws.RoundTrip.stepRecv (f : StepDataF) : Laws.RoundTrip.Statement (.stepRecv f) := by
  intro h _
  show (checked (selectStep (BitVec.toNat _) _) _).toOption = _
  rw [stepOp_packStepData]
  show (checked (some (Instr.stepRecv (readStepData _))) _).toOption = _
  rw [readStepData_packStepData]
  exact congrArg Except.toOption (checked_ok h rfl)
theorem Laws.RoundTrip.stepRrs (f : StepDataF) : Laws.RoundTrip.Statement (.stepRrs f) := by
  intro h _
  show (checked (selectStep (BitVec.toNat _) _) _).toOption = _
  rw [stepOp_packStepData]
  show (checked (some (Instr.stepRrs (readStepData _))) _).toOption = _
  rw [readStepData_packStepData]
  exact congrArg Except.toOption (checked_ok h rfl)
theorem Laws.RoundTrip.stepCopy (f : StepDataF) : Laws.RoundTrip.Statement (.stepCopy f) := by
  intro h _
  show (checked (selectStep (BitVec.toNat _) _) _).toOption = _
  rw [stepOp_packStepData]
  show (checked (some (Instr.stepCopy (readStepData _))) _).toOption = _
  rw [readStepData_packStepData]
  exact congrArg Except.toOption (checked_ok h rfl)
theorem Laws.RoundTrip.stepWait (f : StepWaitF) : Laws.RoundTrip.Statement (.stepWait f) := by
  intro h _
  show (checked (selectStep (BitVec.toNat _) _) _).toOption = _
  rw [stepOp_packStepWait]
  show (checked (some (Instr.stepWait (readStepWait _))) _).toOption = _
  rw [readStepWait_packStepWait]
  exact congrArg Except.toOption (checked_ok h rfl)
theorem Laws.RoundTrip.stepLoop (f : StepLoopF) : Laws.RoundTrip.Statement (.stepLoop f) := by
  intro h _
  show (checked (selectStep (BitVec.toNat _) _) _).toOption = _
  rw [stepOp_packStepLoop]
  show (checked (some (Instr.stepLoop (readStepLoop _))) _).toOption = _
  rw [readStepLoop_packStepLoop]
  exact congrArg Except.toOption (checked_ok h rfl)
theorem Laws.RoundTrip.stepEnd : Laws.RoundTrip.Statement (.stepEnd) := by
  intro _ _; rfl
theorem Laws.RoundTrip.unallocatedEncoding (cause : Cause) : Laws.RoundTrip.Statement (.unallocatedEncoding cause) := by
  intro _ _; trivial
theorem Laws.RoundTrip.uncorrectableError (unit : ErrorUnit) : Laws.RoundTrip.Statement (.uncorrectableError unit) := by
  intro _ _; trivial
theorem Laws.RoundTrip.correctableError (unit : ErrorUnit) (delay : Nat) : Laws.RoundTrip.Statement (.correctableError unit delay) := by
  intro _ _; trivial
theorem Laws.RoundTrip.storePerformed (n : Nat) : Laws.RoundTrip.Statement (.storePerformed n) := by
  intro _ _; trivial
theorem Laws.RoundTrip.operandQueueFill (tile queue : Nat) : Laws.RoundTrip.Statement (.operandQueueFill tile queue) := by
  intro _ _; trivial
theorem Laws.RoundTrip.hostWriteAccepted : Laws.RoundTrip.Statement (.hostWriteAccepted) := by
  intro _ _; trivial
theorem Laws.RoundTrip.slotTableUpdate (die : Nat) : Laws.RoundTrip.Statement (.slotTableUpdate die) := by
  intro _ _; trivial
theorem Laws.RoundTrip.missedHeartbeats (chip : Nat) : Laws.RoundTrip.Statement (.missedHeartbeats chip) := by
  intro _ _; trivial

end Sys2Proof
end

