-- ==== Sys2Proof/Safety.lean ====
section
/-! DEFINITION. What claims about runs are stated in: steps and runs that do not stop, and what a state of the package keeps. -/
namespace Sys2Proof.Machine
open Sys2Proof

/-- A step that goes on: neither a fault nor a refusal. -/
def State.Steps (s t : State) : Prop := step s = .next t

/-- A run of n steps that goes on. -/
def State.Runs : Nat → State → State → Prop
  | 0, s, t => s = t
  | n + 1, s, t => ∃ u, s.Steps u ∧ u.Runs n t

/-- The memory of HBM, of the Ferry, of every listed tile and of the flash is in canonical form. -/
def State.MemoryWf (s : State) : Prop :=
  Mem.wf s.hbm ∧ Mem.wf s.sram ∧ Mem.wf s.pkg.flash ∧ ∀ t, Mem.wf (s.tile t).spad

/-- The package limit is one that R18 lets a write set, the power factor F is between 1 and 1,024, and it is 1,024 while no limiting
is under way (R18). -/
def State.PowerLimits (s : State) : Prop :=
  600 ≤ s.pkg.pkgLimit.toNat ∧ s.pkg.pkgLimit.toNat ≤ 1900 ∧ 1 ≤ s.pkg.factor ∧ s.pkg.factor ≤ 1024 ∧
    (s.pkg.limiting = false → s.pkg.factor = 1024)

/-! ## The party at issue -/

/-- It is the control stream of a tile or a Ferry thread. -/
def State.IsScalar (s : State) : Prop := (∃ t, s.cur = .stream t 0) ∨ ∃ n, s.cur = .thread n

/-- A scalar source it can read now (R231, R232). -/
def State.Full (s : State) (r : BitVec 6) : Prop := s.isEmpty s.cur r = false

/-- A scalar destination it may write (R233, R288). -/
def State.Free (s : State) (d : BitVec 6) : Prop := s.Full d ∧ (s.inHandler s.cur = true → d.toNat < 16)

/-- It is in no block body and no match-point handler, and no ACQ of its own is under way (R225, R288, R349). -/
def State.Plain (s : State) : Prop :=
  (s.strm s.cur).blk = none ∧ s.inHandler s.cur = false ∧ s.acquiring = false

/-- The party at issue goes on: no cause has stopped its stream or ended its thread's run. -/
def State.GoesOn (s u : State) : Prop := (u.strm s.cur).stop = none ∧ ∀ n, s.cur = .thread n → (u.thr n).running = true

/-- A scalar result of fixed latency enters the pipeline, and the instruction of so many bytes has issued. -/
def State.gives (s : State) (d : BitVec 6) (lat : Nat) (v a b : Word) (bytes : Nat) : State := (s.fixed d lat v a b).retire bytes

/-- A variable-latency operation starts, and the instruction has issued. -/
def State.starts (s : State) (d : BitVec 6) (what : VarKind) (wait : Nat) (a b : Word) (bytes : Nat) (command : Bool := false) : State :=
  (s.startOp d what wait command a b).retire bytes

end Sys2Proof.Machine
end

