-- ==== Sys2Proof/Certificates/Slice0/Obligations.lean ====
section
/-! DEFINITION. The statements about the model that the provers are given. -/

open Sys2Proof Sys2Proof.Machine

/-! ## Integer operations, jumps and the exposed pipeline -/

/-- R336: the two-source forms, each with its value and latency. The value enters the pipeline for d; FixedResultTiming says when d reads it. -/
def IntegerResults : Prop :=
  ∀ (s : State) (f : Tri), s.Full f.a → s.Full f.b → s.Free f.d →
    let a := s.rs f.a
    let b := s.rs f.b
    let n := b.toNat % 64
    ∀ e ∈ ([(.add f, 1, a + b), (.sub f, 1, a - b), (.and f, 1, a &&& b), (.or f, 1, a ||| b), (.xor f, 1, a ^^^ b),
        (.andn f, 1, a &&& ~~~ b), (.sll f, 1, a <<< n), (.srl f, 1, BitVec.ofNat 64 (a.toNat / 2 ^ n)),
        (.sra f, 1, BitVec.ofInt 64 (a.toInt / 2 ^ n)), (.mul f, 3, a * b),
        (.mulh f, 3, BitVec.ofInt 64 (a.toInt * b.toInt / 2 ^ 64)), (.mulhn f, 3, BitVec.ofNat 64 (a.toNat * b.toNat / 2 ^ 64)),
        (.min f, 1, BitVec.ofInt 64 (min a.toInt b.toInt)), (.max f, 1, BitVec.ofInt 64 (max a.toInt b.toInt)),
        (.minn f, 1, BitVec.ofNat 64 (min a.toNat b.toNat)), (.maxn f, 1, BitVec.ofNat 64 (max a.toNat b.toNat)),
        (.slt f, 1, if a.toInt < b.toInt then 1 else 0), (.sltn f, 1, if a.toNat < b.toNat then 1 else 0),
        (.seq f, 1, if a = b then 1 else 0), (.sne f, 1, if a = b then 0 else 1)] : List (Instr × Nat × Word)),
      exec e.1 s = .next (s.gives f.d e.2.1 e.2.2 a b 4)

/-- R336: the one-source forms and SEL. The count of CLZ and CTZ is given by the bits it counts; bit i of SEXT is bit min(i, p) of a;
byte i of BSWAP is byte 7 - i of a. -/
def OneSourceResults : Prop :=
  ∀ (s : State) (f : Tri), s.Full f.a → s.Free f.d →
    let a := s.rs f.a
    let does (i : Instr) (p : Word → Prop) : Prop := ∃ v, p v ∧ exec i s = .next (s.gives f.d 1 v a (f.b.setWidth 64) 4)
    does (.clz f) (fun v => v.toNat ≤ 64 ∧ (∀ i < v.toNat, a.getLsbD (63 - i) = false) ∧ (v.toNat < 64 → a.getLsbD (63 - v.toNat) = true)) ∧
    does (.ctz f) (fun v => v.toNat ≤ 64 ∧ (∀ i < v.toNat, a.getLsbD i = false) ∧ (v.toNat < 64 → a.getLsbD v.toNat = true)) ∧
    does (.popc f) (fun v => v.toNat = ((Finset.range 64).filter fun i => a.getLsbD i = true).card) ∧
    does (.sext f) (fun v => ∀ i < 64, v.getLsbD i = a.getLsbD (min i f.b.toNat)) ∧
    does (.zext f) (fun v => ∀ i < 64, v.getLsbD i = (decide (i ≤ f.b.toNat) && a.getLsbD i)) ∧
    does (.bswap f) (fun v => ∀ i < 8, v.extractLsb' (8 * i) 8 = a.extractLsb' (56 - 8 * i) 8) ∧
    (s.Full f.b → exec (.sel f) s =
      .next (let v := if s.rs f.d = 0 then s.rs f.b else a; s.gives f.d 1 v v 0 4))

/-- R337: division by a nonzero b at latency 20; by zero, DIV_ZERO is raised and nothing is written. -/
def DivisionResults : Prop :=
  ∀ (s : State) (f : Tri), s.Full f.a → s.Full f.b → s.Free f.d →
    let a := s.rs f.a
    let b := s.rs f.b
    (b ≠ 0 → ∀ e ∈ ([(.div f, BitVec.ofInt 64 (a.toInt.tdiv b.toInt)),
        (.rem f, BitVec.ofInt 64 (a.toInt - b.toInt * a.toInt.tdiv b.toInt)),
        (.divn f, BitVec.ofNat 64 (a.toNat / b.toNat)), (.remn f, BitVec.ofNat 64 (a.toNat % b.toNat))] : List (Instr × Word)),
      exec e.1 s = .next (s.gives f.d 20 e.2 a b 4)) ∧
    (b = 0 → ∀ i ∈ ([.div f, .rem f, .divn f, .remn f] : List Instr), exec i s = .next (s.raise .divZero))

/-- R338 and R327: the immediate forms and the compact forms, all of latency 1, and the compact NOP. -/
def Obligations.ImmediateResults : Prop :=
  (∀ (s : State) (f : ImmS), s.Full f.a → s.Free f.d →
    let a := s.rs f.a
    let z : Word := f.imm.setWidth 64
    let x : Word := f.imm.signExtend 64
    let n := f.imm.toNat % 64
    ∀ e ∈ ([(.addi f, x, a + x), (.andi f, x, a &&& z), (.ori f, x, a ||| z), (.xori f, x, a ^^^ z), (.slli f, z, a <<< n),
        (.srli f, z, a >>> n), (.srai f, z, a.sshiftRight n), (.slti f, x, if a.toInt < x.toInt then 1 else 0),
        (.sltni f, x, if a.toNat < x.toNat then 1 else 0)] : List (Instr × Word × Word)),
      exec e.1 s = .next (s.gives f.d 1 e.2.2 a e.2.1 4)) ∧
  (∀ (s : State) (f : ImmW), s.Free f.d →
    (let v : Word := f.imm.signExtend 64; exec (.li f) s = .next (s.gives f.d 1 v v 0 4)) ∧
    (let v : Word := s.rs f.d * 2 ^ 20 + f.imm.setWidth 64; exec (.lih f) s = .next (s.gives f.d 1 v v 0 4))) ∧
  (∀ (s : State) (f : C16), s.Free (f.x.setWidth 6) → s.Full (f.y.setWidth 6) →
    let x := s.rs (f.x.setWidth 6)
    let y := s.rs (f.y.setWidth 6)
    let i : Word := f.y.signExtend 64
    let z : Word := f.y.setWidth 64
    let n := f.y.toNat
    ∀ e ∈ ([(.addC f, x, y, x + y), (.subC f, x, y, x - y), (.andC f, x, y, x &&& y), (.orC f, x, y, x ||| y), (.xorC f, x, y, x ^^^ y),
        (.addiC f, x, i, x + i), (.slliC f, x, z, x <<< n), (.srliC f, x, z, x >>> n), (.sraiC f, x, z, x.sshiftRight n),
        (.liC f, i, 0, i), (.addS0C f, y, 0, y)] : List (Instr × Word × Word × Word)),
      exec e.1 s = .next (s.gives (f.x.setWidth 6) 1 e.2.2.2 e.2.1 e.2.2.1 2)) ∧
  ∀ s : State, exec .nopC s = .next (s.retire 2)

/-- R228, R335: a result of latency L for d is in d after L issue steps, counting its own, and no register differs before; s0 takes none. -/
def FixedResultTiming : Prop :=
  ∀ (s : State) (d : BitVec 6) (lat : Nat) (v a b : Word), s.IsScalar → 1 ≤ lat →
    let c := s.scal s.cur
    let c' := (s.fixed d lat v a b).scal s.cur
    (∀ k < lat, ∀ r, (Scalars.age^[k] c').get r = (Scalars.age^[k] c).get r) ∧
    (d ≠ 0 → (Scalars.age^[lat] c').get d = v) ∧ (Scalars.age^[lat] c').get 0 = 0 ∧
    ∀ r, r ≠ d → (Scalars.age^[lat] c').get r = (Scalars.age^[lat] c).get r

/-- R215, R228, R282: an issue outside a block moves the pc past the instruction, counts one retired instruction (none in a match-point
handler), and takes one step of the party's own pipeline; other tiles and threads are as they were, and so is memory. -/
def IssueAdvances : Prop :=
  ∀ (s : State) (n : Nat), s.IsScalar → (s.strm s.cur).blk = none →
    let t := s.retire n
    (t.strm s.cur).pc = (s.strm s.cur).pc + BitVec.ofNat 64 n ∧
    (t.strm s.cur).work = (s.strm s.cur).work + (if s.inHandler s.cur then 0 else 1) ∧
    t.scal s.cur = (s.scal s.cur).age ∧ t.hbm = s.hbm ∧ t.regs = s.regs ∧
    (∀ u, s.cur.tile? ≠ some u → t.tile u = s.tile u) ∧ (∀ m, s.cur ≠ .thread m → t.thr m = s.thr m) ∧
    ∀ u, (t.tile u).spad = (s.tile u).spad ∧ (t.tile u).flags = (s.tile u).flags ∧ (t.tile u).areg = (s.tile u).areg ∧
      (t.tile u).vreg = (s.tile u).vreg ∧ (t.tile u).mx = (s.tile u).mx

/-- The words of R336: 0x8000_0000 with d, a, b, wa, wb and func filled in. In SEXT and ZEXT the b field is a value and wb is zero; the
other forms of one source have b and wb zero. -/
def IntegerWords : Prop :=
  ∀ f : Tri,
    let word (func : BitVec 32) : Code :=
      .word (0x80000000 + f.d.setWidth 32 * 2 ^ 20 + f.a.setWidth 32 * 2 ^ 14 + f.b.setWidth 32 * 2 ^ 8 + (if f.wa then 2 ^ 7 else 0) +
        (if f.wb then 2 ^ 6 else 0) + func)
    (∀ e ∈ ([(.add f, 0x00), (.sub f, 0x01), (.and f, 0x02), (.or f, 0x03), (.xor f, 0x04), (.andn f, 0x05), (.sll f, 0x06), (.srl f, 0x07),
        (.sra f, 0x08), (.mul f, 0x10), (.mulh f, 0x11), (.mulhn f, 0x12), (.div f, 0x13), (.divn f, 0x14), (.rem f, 0x15), (.remn f, 0x16),
        (.min f, 0x18), (.max f, 0x19), (.minn f, 0x1A), (.maxn f, 0x1B), (.slt f, 0x20), (.sltn f, 0x21), (.seq f, 0x22), (.sne f, 0x23),
        (.sel f, 0x24)] : List (Instr × BitVec 32)), e.1.code = word e.2 ∧ e.1.wf = true) ∧
    (∀ e ∈ ([(.sext f, 0x2B), (.zext f, 0x2C)] : List (Instr × BitVec 32)), e.1.code = word e.2 ∧ e.1.wf = !f.wb) ∧
    ∀ e ∈ ([(.clz f, 0x28), (.ctz f, 0x29), (.popc f, 0x2A), (.bswap f, 0x2D)] : List (Instr × BitVec 32)),
      e.1.code = word e.2 ∧ e.1.wf = (!f.wb && f.b == 0)

/-- R336: every register-register integer form, its word, its value and its latency; the values of division are R337's. -/
def Obligations.IntegerOperations : Prop := IntegerWords ∧ IntegerResults ∧ OneSourceResults ∧ DivisionResults

/-- R339 and, for the two steps a taken branch costs, R341: the word of each conditional branch, when it is taken and where fetch then goes;
a branch on a value stalls while a source is empty, and BFULL and BEMPTY never do; the bit of s0 is always full. -/
def Obligations.Branches : Prop :=
  (∀ f : BraS,
    let low : BitVec 32 := f.a.setWidth 32 * 2 ^ 20 + f.off.setWidth 32
    (∀ e ∈ ([(.beq f, 0xA8000000), (.bne f, 0xAC000000), (.blt f, 0xB0000000), (.bge f, 0xB4000000), (.bltn f, 0xB8000000),
        (.bgen f, 0xBC000000)] : List (Instr × BitVec 32)), e.1.code = .word (e.2 + low + f.b.setWidth 32 * 2 ^ 14)) ∧
    ∀ e ∈ ([(.bz f, 0xC0000000), (.bnz f, 0xC0004000), (.bfull f, 0xC0008000), (.bempty f, 0xC000C000)] : List (Instr × BitVec 32)),
      e.1.code = .word (e.2 + low)) ∧
  (∀ (s : State) (f : BraS), s.IsScalar → (s.strm s.cur).blk = none → (s.strm s.cur).bubbles = 0 →
    let a := s.rs f.a
    let b := s.rs f.b
    let pc := (s.strm s.cur).pc
    let goes (i : Instr) (taken : Bool) : Prop :=
      ∃ t, exec i s = .next t ∧ t.scal s.cur = (s.scal s.cur).age ∧
        (t.strm s.cur).pc = (if taken then pc + 2 * f.off.signExtend 64 else pc + 4) ∧ (t.strm s.cur).bubbles = (if taken then 2 else 0)
    (s.Full f.a → s.Full f.b → ∀ e ∈ ([(.beq f, decide (a = b)), (.bne f, decide (a ≠ b)), (.blt f, decide (a.toInt < b.toInt)),
        (.bge f, decide (b.toInt ≤ a.toInt)), (.bltn f, decide (a.toNat < b.toNat)), (.bgen f, decide (b.toNat ≤ a.toNat))] :
        List (Instr × Bool)), goes e.1 e.2) ∧
    (s.Full f.a → ∀ e ∈ ([(.bz f, decide (a = 0)), (.bnz f, decide (a ≠ 0))] : List (Instr × Bool)), goes e.1 e.2) ∧
    (∀ e ∈ ([(.bfull f, !s.isEmpty s.cur f.a), (.bempty f, s.isEmpty s.cur f.a)] : List (Instr × Bool)), goes e.1 e.2) ∧
    (s.isEmpty s.cur f.a = true ∨ s.isEmpty s.cur f.b = true →
      ∀ i ∈ ([.beq f, .bne f, .blt f, .bge f, .bltn f, .bgen f] : List Instr), exec i s = .next (s.stalled .emptyReg)) ∧
    (s.isEmpty s.cur f.a = true → ∀ i ∈ ([.bz f, .bnz f] : List Instr), exec i s = .next (s.stalled .emptyReg))) ∧
  ∀ s : State, s.isEmpty s.cur 0 = false

/-- R340: the words of the jumps, where fetch continues, the link that JAL and JALR enter at latency 1 (a is read first), and ALIGN where
the target of JR or JALR is odd, which writes no link. -/
def Obligations.Jumps : Prop :=
  (∀ f : BraL, let w : BitVec 32 := f.d.setWidth 32 * 2 ^ 20 + f.off.setWidth 32
    (Instr.j f).code = .word (0xC4000000 + w) ∧ (Instr.j f).wf = (f.d == 0) ∧ (Instr.jal f).code = .word (0xC8000000 + w)) ∧
  (∀ f : Tri, let w : BitVec 32 := 0xCC000000 + f.d.setWidth 32 * 2 ^ 20 + f.a.setWidth 32 * 2 ^ 14 + f.b.setWidth 32 * 2 ^ 8 +
      (if f.wa then 2 ^ 7 else 0) + (if f.wb then 2 ^ 6 else 0)
    (Instr.jr f).code = .word w ∧ (Instr.jr f).wf = (!f.wb && f.b == 0 && f.d == 0) ∧
    (Instr.jalr f).code = .word (w + 1) ∧ (Instr.jalr f).wf = (!f.wb && f.b == 0)) ∧
  (∀ (s : State) (f : BraL), s.IsScalar → (s.strm s.cur).blk = none →
    let pc := (s.strm s.cur).pc
    let to' := pc + 2 * f.off.signExtend 64
    (∃ t, exec (.j f) s = .next t ∧ (t.strm s.cur).pc = to' ∧ (t.strm s.cur).bubbles = 2 ∧ t.scal s.cur = (s.scal s.cur).age) ∧
    (s.Free f.d → ∃ t, exec (.jal f) s = .next t ∧ (t.strm s.cur).pc = to' ∧ (t.strm s.cur).bubbles = 2 ∧
      t.scal s.cur = ((s.fixed f.d 1 (pc + 4) (pc + 4) 0).scal s.cur).age)) ∧
  ∀ (s : State) (f : Tri), s.IsScalar → (s.strm s.cur).blk = none → s.Full f.a →
    let pc := (s.strm s.cur).pc
    let a := s.rs f.a
    (a.getLsbD 0 = false →
      (∃ t, exec (.jr f) s = .next t ∧ (t.strm s.cur).pc = a ∧ (t.strm s.cur).bubbles = 2 ∧ t.scal s.cur = (s.scal s.cur).age) ∧
      (s.Free f.d → ∃ t, exec (.jalr f) s = .next t ∧ (t.strm s.cur).pc = a ∧ (t.strm s.cur).bubbles = 2 ∧
        t.scal s.cur = ((s.fixed f.d 1 (pc + 4) (pc + 4) 0).scal s.cur).age)) ∧
    (a.getLsbD 0 = true → exec (.jr f) s = .next (s.raise .align a) ∧ exec (.jalr f) s = .next (s.raise .align a))

/-! ## Loads, stores and atomics -/

/-- R102, R103: an aligned address of the own scratchpad, with bits [63:57] and [55:52] zero and bit 56 set, is its byte offset there. -/
def ScratchpadAddresses : Prop :=
  ∀ (s : State) (t k n off : Nat) (store atomic : Bool), off < 2 ^ 21 → off % n = 0 → n ∣ 2 ^ 56 →
    s.locate (.stream t k) (BitVec.ofNat 64 (2 ^ 56 + off)) n store atomic = .ok (.spad t off false, s)

/-- R344: what an address raises, in its order: a bit above 56; then, in the scratchpad spaces, an offset of 2 MiB or more; then alignment. -/
def AddressFaults : Prop :=
  ∀ (s : State) (w : Who) (ea : Word) (n : Nat) (store : Bool),
    (ea.toNat / 2 ^ 57 ≠ 0 → s.locate w ea n store = .raise .coreUnmapped ea) ∧
    (ea.toNat / 2 ^ 56 = 0 → ea.toNat % n ≠ 0 → s.locate w ea n store = .raise .align ea) ∧
    (∀ t k, w = .stream t k → ea.toNat / 2 ^ 52 = 16 → ea.toNat % 2 ^ 52 ≥ 2 ^ 21 → s.locate w ea n store = .raise .spadRange ea) ∧
    (∀ t k, w = .stream t k → ea.toNat / 2 ^ 52 = 16 → ea.toNat % 2 ^ 52 < 2 ^ 21 → ea.toNat % n ≠ 0 →
      s.locate w ea n store = .raise .align ea) ∧
    (∀ t k, w = .stream t k → ea.toNat / 2 ^ 52 = 22 → s.locate w ea n store = .raise .priv ea)

/-- What a load of n bytes enters for d: the value extended by its sign or with zeros. -/
def loaded (n : Nat) (signed : Bool) (v : Nat) : Word :=
  if signed then (BitVec.ofNat (8 * n) v).signExtend 64 else (BitVec.ofNat (8 * n) v).setWidth 64

/-- R342-R345: a scalar load, a FILL and a compact LDD, by where the address lies. A scratchpad read is of latency 4, over a causeway 12; a
read of HBM or of a register block is of variable latency. Where it meets them, it rests on the model's own choices: log entries 22 and 23. -/
def Obligations.LoadResults : Prop :=
  ∀ (s : State) (d : BitVec 6) (ea : Word) (n : Nat) (signed : Bool) (bytes : Nat) (i : Instr),
    s.Free d → s.acquiring = false →
    ((∃ f : MemF, f.d = d ∧ bytes = 4 ∧ s.Full f.a ∧ ea = s.rs f.a + f.off.signExtend 64 * BitVec.ofNat 64 n ∧
        (i, n, signed) ∈ ([(.ldb f, 1, true), (.ldbz f, 1, false), (.ldh f, 2, true), (.ldhz f, 2, false), (.ldw f, 4, true), (.ldwz f, 4, false),
          (.ldd f, 8, false)] : List (Instr × Nat × Bool))) ∨
      (∃ f : MemF, f.d = d ∧ bytes = 4 ∧ s.Full f.a ∧ (∃ t k, s.cur = .stream t k) ∧ i = .fill f ∧ n = 8 ∧ signed = false ∧
        s.spillAddr (s.rs f.a + f.off.signExtend 64) = .ok ea) ∨
      (∃ f : C16, f.x.setWidth 6 = d ∧ bytes = 2 ∧ s.Full (f.y.setWidth 6) ∧ ea = s.rs (f.y.setWidth 6) ∧ i = .lddC f ∧ n = 8 ∧ signed = false)) →
    (∀ t off causeway s2, s.locate s.cur ea n false = .ok (.spad t off causeway, s) → (s.tile t).boardHit off n false = false →
      s.grant t off n (requester s.cur s.cur.undoTile t) = .ok s2 →
      exec i s = .next ((s2.fixed d (if causeway then 12 else 4) (loaded n signed (mval (s.tile t).spad off n)) ea 0 true).retire bytes)) ∧
    (∀ va pa tx rx s2, s.locate s.cur ea n false = .ok (.hbm va pa tx rx, s2) →
      exec i s = .next (s2.starts d (.load (s.ctxOf s.cur) pa n signed) 1 ea 0 bytes)) ∧
    (∀ off s2, s.locate s.cur ea n false = .ok (.reg off, s2) → exec i s = .next (s2.starts d (.reg off) 1 ea 0 bytes))

/-- R342-R345: the store instructions, with the bytes they write and their address. -/
def storesTo (s : State) (i : Instr) (ea : Word) (n bytes : Nat) (v : Word) : Prop :=
  (∃ f : MemF, bytes = 4 ∧ s.Full f.a ∧ s.Full f.d ∧ v = s.rs f.d ∧ ea = s.rs f.a + f.off.signExtend 64 * BitVec.ofNat 64 n ∧
    (i, n) ∈ ([(.stb f, 1), (.sth f, 2), (.stw f, 4), (.std f, 8)] : List (Instr × Nat))) ∨
  (∃ f : MemF, bytes = 4 ∧ s.Full f.a ∧ s.Full f.d ∧ v = s.rs f.d ∧ n = 8 ∧ (∃ t k, s.cur = .stream t k) ∧ i = .spill f ∧
    s.spillAddr (s.rs f.a + f.off.signExtend 64) = .ok ea) ∨
  ∃ f : C16, bytes = 2 ∧ s.Full (f.x.setWidth 6) ∧ s.Full (f.y.setWidth 6) ∧ v = s.rs (f.x.setWidth 6) ∧ ea = s.rs (f.y.setWidth 6) ∧ n = 8 ∧ i = .stdC f

/-- R342-R345, R237, R273, R456: a store to a scratchpad whose port and undo log have room writes the low n bytes of its datum there and
no other byte of any scratchpad, no byte of HBM, no scalar register but by results that were due, and appends one undo record. -/
def ScratchpadStores : Prop :=
  ∀ (s : State) (i : Instr) (ea v : Word) (n bytes t off : Nat) (cw : Bool) (s2 s3 : State), storesTo s i ea n bytes v → s.acquiring = false →
    s.IsScalar → s.locate s.cur ea n true = .ok (.spad t off cw, s) → (s.tile t).boardHit off n true = false →
    s.grant t off n (requester s.cur s.cur.undoTile t) = .ok s2 →
    s2.reserve s.cur.src s.cur.undoTile (s.ctxOf s.cur) 1 ea = .ok s3 →
    ∃ u, exec i s = .next u ∧ (∀ j < n, mread (u.tile t).spad (off + j) = v.extractLsb' (8 * j) 8) ∧
      (∀ j, j < off ∨ off + n ≤ j → mread (u.tile t).spad j = mread (s.tile t).spad j) ∧
      (∀ r, r ≠ t → (u.tile r).spad = (s.tile r).spad) ∧ u.stores = s.stores ∧ u.scal s.cur = (s.scal s.cur).age

/-- R343, R456: a store to HBM changes no byte at issue: it is outstanding, with its bytes, its window and slot when it is reflected, until
STORE_PERFORMED. -/
def HbmStoresIssue : Prop :=
  ∀ (s : State) (i : Instr) (ea v : Word) (n bytes : Nat) (va : Word) (pa : Nat) (tx rx : Option (Nat × Nat)) (s2 s3 : State),
    storesTo s i ea n bytes v → s.acquiring = false → s.locate s.cur ea n true = .ok (.hbm va pa tx rx, s2) →
    (s.cur.tile?.isSome = true → s.writesOut s.cur < 128) → s2.reserveStore s.cur va n (tx.map (·.1)) = .ok s3 →
    ∃ u e, exec i s = .next u ∧ u.hbm = s3.hbm ∧ u.stores = s3.stores ++ [(e : Store)] ∧ e.who = some s.cur ∧ e.ctx = s3.ctxOf s.cur ∧
      e.refl = tx.map (fun x => s.reflectTo x.1 x.2 none) ∧ e.atom = false ∧
      ∃ g, e.segs = [g] ∧ g.pa = pa ∧ g.len = n ∧ g.data = (List.range n).map fun j => v.extractLsb' (8 * j) 8

/-- R103: a store by a Ferry thread to a register block is made next, as a BAR0 write of 8 bytes. -/
def RegisterStores : Prop :=
  ∀ (s : State) (i : Instr) (ea v : Word) (bytes off : Nat) (s2 : State), storesTo s i ea 8 bytes v → s.acquiring = false →
    s.locate s.cur ea 8 true = .ok (.reg off, s2) →
    exec i s = .next ({ s2 with agenda := .event (.bar0Access off 8 (some v)) :: s2.agenda }.retire bytes)

/-- R127, R136, R273, R343: performing the only outstanding store of a stream, unreflected and no atomic, writes its bytes at its place in
HBM and no other byte, and its old words go to the undo log under its own window. Where it meets them, it rests on the model's own choices: log entries 18 and 20. -/
def Obligations.StorePerformedWrites : Prop :=
  ∀ (s : State) (e : Store) (g : Seg), s.stores = [e] → e.segs = [g] → g.src = [] → g.akind = 1 → g.keepLow = false → g.keepHigh = false →
    g.data.length = g.len → e.adds = [] → e.refl = none → e.atom = false → e.src < 5 → s.loadBefore e = false →
    ∃ t r, exec (.storePerformed e.order) s = .next t ∧ t.stores = [] ∧
      (∀ j < g.len, mread t.hbm (g.pa + j) = g.data.getD j 0) ∧ (∀ j, j < g.pa ∨ g.pa + g.len ≤ j → mread t.hbm j = mread s.hbm j) ∧
      (CtxLog.of t e.ctx).recs = (CtxLog.of s e.ctx).recs ++ [r] ∧ r.old = oldWords s.hbm g.pa g.len ∧ r.win = e.win

/-- What an atomic writes, from the old value, its operand and AMOCAS's comparand; none: AMOCAS finds another value (R346). -/
def atomicForms (f : Tri) : List (Instr × Nat × Bool × (Nat → Nat → Nat → Option Nat)) :=
  let sg (w v : Nat) : Int := (BitVec.ofNat w v).toInt
  let cas (old x expected : Nat) : Option Nat := if old = expected then some x else none
  [(.amoadd f, 8, false, fun o x _ => some ((o + x) % 2 ^ 64)), (.amoand f, 8, false, fun o x _ => some (Nat.land o x)),
    (.amoor f, 8, false, fun o x _ => some (Nat.lor o x)), (.amoxor f, 8, false, fun o x _ => some (Nat.xor o x)),
    (.amomin f, 8, false, fun o x _ => some (if sg 64 o ≤ sg 64 x then o else x)),
    (.amomax f, 8, false, fun o x _ => some (if sg 64 o ≤ sg 64 x then x else o)),
    (.amominn f, 8, false, fun o x _ => some (min o x)), (.amomaxn f, 8, false, fun o x _ => some (max o x)),
    (.amoswap f, 8, false, fun _ x _ => some x),
    (.amoaddI32 f, 4, true, fun o x _ => some ((o + x) % 2 ^ 32)), (.amoandI32 f, 4, true, fun o x _ => some (Nat.land o x)),
    (.amoorI32 f, 4, true, fun o x _ => some (Nat.lor o x)), (.amoxorI32 f, 4, true, fun o x _ => some (Nat.xor o x)),
    (.amominI32 f, 4, true, fun o x _ => some (if sg 32 o ≤ sg 32 x then o else x)),
    (.amomaxI32 f, 4, true, fun o x _ => some (if sg 32 o ≤ sg 32 x then x else o)),
    (.amominnN32 f, 4, false, fun o x _ => some (min o x)), (.amomaxnN32 f, 4, false, fun o x _ => some (max o x)),
    (.amoswapI32 f, 4, true, fun _ x _ => some x),
    (.amofaddF32 f, 4, false, fun o x _ => some (roundTo (Machine.Num.add 0 (decodeNum 0 0 o) (decodeNum 0 0 x)) 0 0 0)),
    (.amocas f, 8, false, cas), (.amocasI32 f, 4, true, cas)]

/-- R346, R347: an atomic on a scratchpad, at its port grant: d gets the old value by a variable-latency operation no sooner than six cycles
on, and the new value is written, to no other byte; an AMOCAS that finds another value writes nothing. -/
def ScratchpadAtomics : Prop :=
  ∀ (s : State) (f : Tri) (t off : Nat) (cw : Bool) (s2 s3 : State), s.IsScalar → s.acquiring = false → s.Full f.a → s.Full f.b → s.Free f.d →
    ∀ e ∈ atomicForms f, let z := e.2.1
      s.locate s.cur (s.rs f.a) z true true = .ok (.spad t off cw, s) → (s.tile t).boardHit off z true = false →
      s.grant t off z (requester s.cur s.cur.undoTile t) = .ok s2 →
      s2.reserve s.cur.src s.cur.undoTile (s.ctxOf s.cur) 1 (s.rs f.a) = .ok s3 →
      let old := mval (s.tile t).spad off z
      ∃ u op, exec e.1 s = .next u ∧ (u.scal s.cur).ops = (s.scal s.cur).ops ++ [(op : VarOp)] ∧ op.reg = f.d ∧
        op.what = .value (loaded z e.2.2.1 old) ∧ op.notBefore = s.ccc + 6 ∧
        match e.2.2.2 old ((s.rs f.b).toNat % 256 ^ z) ((s.rs f.d).toNat % 256 ^ z) with
        | some v => mval (u.tile t).spad off z = v % 256 ^ z ∧
            ∀ j, j < off ∨ off + z ≤ j → mread (u.tile t).spad j = mread (s.tile t).spad j
        | none => (u.tile t).spad = (s.tile t).spad

/-- R347: an atomic on HBM leaves as an outstanding store that no byte yet shows; performing it alone writes the new value of the word as it
then stands, and gives its operation the old one. -/
def HbmAtomics : Prop :=
  (∀ (s : State) (f : Tri) (va : Word) (pa : Nat) (rx : Option (Nat × Nat)) (s2 s3 : State), s.IsScalar → s.acquiring = false → s.Full f.a → s.Full f.b →
    s.Free f.d → (s.cur.tile?.isSome = true → s.writesOut s.cur < 128) → ∀ e ∈ atomicForms f,
      s.locate s.cur (s.rs f.a) e.2.1 true true = .ok (.hbm va pa none rx, s2) →
      s2.reserve s.cur.src s.cur.undoTile (s.ctxOf s.cur) 1 va = .ok s3 →
      ∃ u op st, exec e.1 s = .next u ∧ u.hbm = s3.hbm ∧ u.stores = s3.stores ++ [(st : Store)] ∧ st.atom = true ∧ st.op = some op.id ∧
        op ∈ (u.scal s.cur).ops ∧ op.reg = f.d ∧ ∃ func x y, op.what = .atomic va func x y) ∧
  ∀ (s : State) (e : Store) (g : Seg) (t id old v : Nat) (op : VarOp) (va : Word) (func : BitVec 6) (x y : Word),
    s.stores = [e] → e.segs = [g] → g.src = [] → e.adds = [] → e.atom = true → e.op = some id → e.who = some (.stream t 0) → e.src < 5 → s.loadBefore e = false →
    s.opOf (.stream t 0) id = some op → op.what = .atomic va func x y → old = mval s.hbm g.pa (amoSize func.toNat) →
    amoNew func.toNat old x.toNat y.toNat = some v →
    ∃ u, exec (.storePerformed e.order) s = .next u ∧ u.stores = [] ∧ u.hbm = mwrites s.hbm g.pa (leBytes (amoSize func.toNat) v) ∧
      ((s.tile t).handler = none → ∀ o ∈ (u.tile t).sc.ops, o.id = id → o.what = .value (amoOld func.toNat old))

/-! ## Sync objects, flags, fences -/

/-- R131: on an EVENT, ACQ and ACQT answer its generation once it has passed the awaited one, ACQT with bit 63; before that ACQ waits as a
variable-latency operation and ACQT answers the generation alone. On a LOCK that the party holds, no REL of its own being in flight, they answer
at once. -/
def AcquireResults : Prop :=
  ∀ (s s1 : State) (f : Tri) (pa v : Nat), s.acquiring = false → s.Full f.a → s.Full f.b → s.Free f.d →
    s.reach s.cur (s.rs f.a) false = .ok (pa, v, s1) →
    let g : Word := (objGen v).setWidth 64
    let a := s.rs f.a
    let b := s.rs f.b
    let past : Prop := (objGen v - b.setWidth 32).toNat < 2 ^ 31
    (objEvent v = true ∧ past ∨ objEvent v = false ∧ s.holds s.cur v = true ∧ s.releasing s.cur a = false →
      exec (.acq f) s = .next (s1.starts f.d (.value g) 1 a b 4) ∧
      exec (.acqt f) s = .next (s1.starts f.d (.value (g ||| 1 <<< 63)) 1 a b 4)) ∧
    (objEvent v = true ∧ ¬ past ∨ objEvent v = false ∧ (s.holds s.cur v = false ∨ s.releasing s.cur a = true) ∧ objHeld v = true →
      exec (.acq f) s = .next (s1.starts f.d (.acq a (b.setWidth 32)) 1 a b 4) ∧
      exec (.acqt f) s = .next (s1.starts f.d (.value g) 1 a b 4))

/-- R128, R131: a control stream takes a free LOCK for which nobody waits: its first word gets HELD and the holder, and keeps VALID, KIND and
CTX; no other byte of HBM changes, and the task holds the lock from now on. -/
def LockIsTaken : Prop :=
  ∀ (s s1 s2 s3 : State) (f : Tri) (t pa pa' v : Nat), s.cur = .stream t 0 → t < 256 → s.acquiring = false → s.Full f.a → s.Full f.b → s.Free f.d →
    s.reach s.cur (s.rs f.a) false = .ok (pa, v, s1) → objEvent v = false → objHeld v = false → s.waiters (s.ctxOf s.cur) (s.rs f.a) = [] →
    s1.translate s.cur (s.ctxOf s.cur) (s.rs f.a) true = .ok (pa', s2) → s2.reserve 0 t (s.ctxOf s.cur) 1 (s.rs f.a) = .ok s3 →
    ∀ i ∈ ([.acq f, .acqt f] : List Instr), ∃ u, exec i s = .next u ∧ u.stores = s.stores ∧
      (∀ j, j < pa ∨ pa + 8 ≤ j → mread u.hbm j = mread s3.hbm j) ∧
      (let w := mval u.hbm pa 8
       nfld w 0 2 = nfld v 0 2 ∧ nfld w 2 1 = 1 ∧ nfld w 3 1 = 0 ∧ nfld w 4 10 = t ∧ nfld w 14 6 = nfld v 14 6) ∧
      ∀ k ∈ (s3.tile t).task, ∃ k' ∈ (u.tile t).task, k'.locks = s.rs f.a :: k.locks

/-- R131, R132: REL starts an operation; once its party's earlier stores are performed it writes GEN + 1 and the cycle to the object, clears
HELD of a LOCK, and d gets the new generation. -/
def ReleaseResults : Prop :=
  (∀ (s s1 s2 : State) (f : Tri) (pa v : Nat), s.acquiring = false → s.Full f.a → s.Free f.d →
    s.reach s.cur (s.rs f.a) true = .ok (pa, v, s1) → objEvent v = true ∨ s.holds s.cur v = true ∧ s.releasing s.cur (s.rs f.a) = false →
    s1.reserve s.cur.src s.cur.undoTile (s.ctxOf s.cur) 3 (s.rs f.a) = .ok s2 →
    exec (.rel f) s = .next (s2.starts f.d (.rel (s.rs f.a)) 1 (s.rs f.a) 0 4)) ∧
  ∀ (s : State) (t id pa v : Nat) (o : VarOp) (obj : Word), s.opOf (.stream t 0) id = some o → o.what = .rel obj → o.id = id →
    fld o.insn 26 6 = 0x37 → (s.ccc - o.notBefore).toNat < 2 ^ 63 → s.storesBefore (.stream t 0) id = false →
    s.objectAt (s.ctxOf (.stream t 0)) obj = some (pa, v) → s.rangeMoves (s.ctxOf (.stream t 0)) obj 64 = false → (s.tile t).handler = none → (∀ k, (s.strm (.stream t k)).stop = none) →
    ∃ u, exec (.variableResultWrite (.stream t 0) id) s = .next u ∧
      u.rd (.stream t 0) o.reg = (if o.reg = 0 then 0 else (objGen v + 1).setWidth 64) ∧ u.isEmpty (.stream t 0) o.reg = false ∧
      (∀ p ∈ (u.tile t).sc.ops, p.id ≠ id) ∧ (∀ j, j < pa ∨ pa + 24 ≤ j → mread u.hbm j = mread s.hbm j) ∧
      let w := mval u.hbm pa 24
      nfld w 0 2 = nfld v 0 2 ∧ (objEvent v = false → nfld w 2 1 = 0) ∧ nfld w 64 32 = (objGen v + 1).toNat ∧ nfld w 128 64 = s.ccc.toNat

/-- R231: a variable-latency value is written once its cycle has come: d is full and reads it, and the operation is gone. A load's value is
that of its bytes then, when no earlier store of its party to those words is outstanding. -/
def VariableResults : Prop :=
  ∀ (s : State) (t id : Nat) (o : VarOp), s.opOf (.stream t 0) id = some o → o.id = id → (s.ccc - o.notBefore).toNat < 2 ^ 63 →
    (s.tile t).handler = none → (∀ k, (s.strm (.stream t k)).stop = none) → ∀ v : Word,
    (o.what = .value v ∨ ∃ c pa n sext, o.what = .load c pa n sext ∧ v = extend n sext (mval s.hbm pa n) ∧ s.storeOver (.stream t 0) id pa n = false ∧
      ∀ p ∈ (s.tile t).sc.ops, p.id < id → ∀ e qa m x, p.what ≠ .load e qa m x) →
    ∃ u, exec (.variableResultWrite (.stream t 0) id) s = .next u ∧ u.rd (.stream t 0) o.reg = (if o.reg = 0 then 0 else v) ∧
      u.isEmpty (.stream t 0) o.reg = false ∧ (∀ p ∈ (u.tile t).sc.ops, p.id ≠ id) ∧
      (∀ r, r ≠ o.reg → u.rd (.stream t 0) r = s.rd (.stream t 0) r) ∧ u.hbm = s.hbm

/-- R131, R135, R141, R348-R350, R358: waits that end. ACQ_GRANT gives a waiting ACQ of an EVENT its generation; ACQ_TIMEOUT and
FENCE_RF_TIMEOUT raise their causes once the context's limit has passed, their frame naming the instruction that the stream stands at; WFE_TIMEOUT
wakes a WFE after 940 cycles. -/
def WaitsEnd : Prop :=
  (∀ (s : State) (w : Who) (id pa v : Nat) (o : VarOp) (obj : Word) (gen : BitVec 32), s.opOf w id = some o → o.what = .acq obj gen →
    s.objectAt (s.ctxOf w) obj = some (pa, v) → s.rangeMoves (s.ctxOf w) obj 64 = false → objEvent v = true → (objGen v - gen).toNat < 2 ^ 31 →
    exec (.acqGrant w id) s = .next (s.giveOp w id ((objGen v).setWidth 64))) ∧
  (∀ (s : State) (t id : Nat) (o : VarOp) (obj : Word) (gen : BitVec 32), s.opOf (.stream t 0) id = some o → o.what = .acq obj gen →
    o.stream = 0 → s.cxF (s.ctxOfTile t) cACQTMO 0 17 ≠ 0 → cyclesOf (s.cxF (s.ctxOfTile t) cACQTMO 0 17) < (s.ccc - o.since).toNat →
    (s.strm (.stream t 0)).stop = none →
    let insn := s.insnAt (.stream t 0)
    exec (.acqTimeout (.stream t 0) id) s =
      .next (State.raiseStream { s with curInsn := insn } t 0 .acqTimeout (if s.barCounted (.stream t 0) insn then 1 else obj))) ∧
  (∀ (s : State) (t : Nat) (since : Word), (s.strm (.stream t 0)).fenceSince = some since → s.cxF (s.ctxOfTile t) cRFTMO 0 17 ≠ 0 →
    cyclesOf (s.cxF (s.ctxOfTile t) cRFTMO 0 17) < (s.ccc - since).toNat → (s.strm (.stream t 0)).stop = none →
    ∃ u p, exec (.fenceRfTimeout (.stream t 0)) s = .next u ∧ (u.strm (.stream t 0)).stop = some p ∧ p.cause = .fenceRfTimeout ∧
      p.insn = s.insnAt (.stream t 0)) ∧
  ∀ (s : State) (t : Nat) (since : Word), (s.strm (.stream t 0)).wfe = some since → 940 ≤ (s.ccc - since).toNat →
    ∃ u, exec (.wfeTimeout (.stream t 0)) s = .next u ∧ (u.strm (.stream t 0)).woken = true ∧ (u.strm (.stream t 0)).pc = (s.strm (.stream t 0)).pc

/-- R129, R130: BIND of a valid object of its context enters the region in the lowest free entry when its status is 0, and d gets the status;
UNBIND removes the binding that starts at a, and answers 4 when there is none. -/
def BindingResults : Prop :=
  (∀ (s s1 : State) (f : Tri) (pa : Nat), s.acquiring = false → s.Full f.a → s.Full f.b → s.Free f.d →
    let c := s.ctxOf s.cur
    let va := s.rs f.d &&& ~~~ 63#64
    let v := s1.object pa
    let st := s.bindStatus c (s.rs f.a).toNat (s.rs f.b).toNat
    objAddressOk va = true → s.translate s.cur c va true = .ok (pa, s1) →
    nfld v 0 1 = 1 → nfld v 1 1 = fld (s.rs f.d) 0 1 → nfld v 14 6 = c →
    ∃ u : State, exec (.bind f) s = .next (u.starts f.d (.value (BitVec.ofNat 64 st)) 1 (s.rs f.a) (s.rs f.b) 4) ∧ u.hbm = s1.hbm ∧
      (st ≠ 0 → u.bindings = s1.bindings) ∧
      (st = 0 → ∃ n, n < 8192 ∧ tget 0 s.bindings n = 0 ∧ u.bindings = tput 0 s1.bindings n
        (BitVec.ofNat 256 (1 + c * 2 + (s.rs f.a).toNat / 64 * 2 ^ 7 + (s.rs f.b).toNat / 64 * 2 ^ 64 + va.toNat / 64 * 2 ^ 128)))) ∧
  ∀ (s : State) (f : Tri), s.acquiring = false → s.Full f.a → s.Free f.d →
    ∃ (u : State) (v : Word), exec (.unbind f) s = .next (u.starts f.d (.value v) 1 (s.rs f.a) 0 4) ∧ (v = 0 ∨ v = 4) ∧
      (v = 4 → u.bindings = s.bindings) ∧
      ∀ e, e ∈ u.bindings ↔ e ∈ s.bindings ∧ ¬ (fld e.2 1 6 = s.ctxOf s.cur ∧ bindBase e.2 = (s.rs f.a).toNat)

/-- R136, R141, R350: FENCE goes on once the party's accesses are performed; FENCE.RF once every packet of its reflected stores is answered OK and its
host writes are accepted (R70);
BAR once every tile of the subgroup has reached it, the issue itself counted once. -/
def FencesAndBarriers : Prop :=
  (∀ s : State, s.acquiring = false → s.performed s.cur = true → exec .fence s = .next (s.retire 4)) ∧
  (∀ s : State, s.acquiring = false → (∀ e ∈ s.stores, e.refl = none) → (∀ h ∈ s.hostTlps, withParty s.cur h.who = false) →
    let run := s.runOf s.cur;
    (∀ e ∈ s.sent, e.isOf s.cur run = true → e.status = some 0) →
    exec .fenceRf s = .next (({ s with sent := s.sent.filter fun e => !e.isOf s.cur run } : State).retire 4)) ∧
  ∀ (s : State) (f : Tri) (t g : Nat), s.cur = .stream t 0 → s.acquiring = false → s.Full f.a → s.rs f.a = BitVec.ofNat 64 g → g < 2 ^ 14 →
    s.subgroupOk t g = true → (s.strm s.cur).counted = false → (∀ u ∈ rectTiles g, u ≠ t → tget 0 (s.tile t).bars g + 1 ≤ tget 0 (s.tile u).bars g) →
    ∃ u, exec (.bar f) s = .next u ∧ tget 0 (u.tile t).bars g = tget 0 (s.tile t).bars g + 1 ∧ (u.strm s.cur).counted = false ∧
      (u.strm s.cur).work = (s.strm s.cur).work + (if s.inHandler s.cur then 0 else 1) ∧ u.hbm = s.hbm

/-- R219, R220, R352: the flag instructions, and a signal that arrives from another tile. FLAGW takes its count from a flag that holds it, FLAGS
adds one to the own flag (and sends one to each other tile of a subgroup), FLAGC clears. -/
def FlagResults : Prop :=
  (∀ (s s1 : State) (f : Tri) (t : Nat), s.cur = .stream t 0 → s.acquiring = false →
    s.reserve 0 t (s.ctxOfTile t) 0 (BitVec.ofNat 64 f.d.toNat) = .ok s1 →
    let v := (s.tile t).flag f.d.toNat
    (s.Full f.a → 0 < (s.rs f.a).toNat → (s.rs f.a).toNat ≤ v.toNat →
      ∃ u, exec (.flagw f) s = .next u ∧ ((u.tile t).flag f.d.toNat).toNat = v.toNat - (s.rs f.a).toNat ∧ u.hbm = s1.hbm ∧
        ∀ j, j ≠ f.d.toNat → (u.tile t).flag j = (s.tile t).flag j) ∧
    (f.a = 0 → v.toNat < 65535 → ∃ u, exec (.flags f) s = .next u ∧ (u.tile t).flag f.d.toNat = v + 1 ∧ u.remoteFlags = s1.remoteFlags ∧
      ∀ j, j ≠ f.d.toNat → (u.tile t).flag j = (s.tile t).flag j) ∧
    (f.a = 0 → v.toNat = 65535 → ∃ u, exec (.flags f) s = .next u ∧ (u.tile t).flag f.d.toNat = v ∧
      (u.tile t).flagsat = (s.tile t).flagsat ||| 1 <<< f.d.toNat) ∧
    (∃ u, exec (.flagc f) s = .next u ∧ (u.tile t).flag f.d.toNat = 0 ∧ ∀ j, j ≠ f.d.toNat → (u.tile t).flag j = (s.tile t).flag j)) ∧
  ∀ (s s1 : State) (e : RemoteFlag), s.remoteFlags = [e] → State.reserve { s with remoteFlags := [] } 0 e.dst (s.ctxOfTile e.dst) 0
      (BitVec.ofNat 64 e.flag) = .ok s1 → ((s.tile e.dst).flag e.flag).toNat < 65535 →
    ∃ u, exec (.remoteFlagSignal e.dst e.src) s = .next u ∧ u.remoteFlags = [] ∧ (u.tile e.dst).flag e.flag = (s.tile e.dst).flag e.flag + 1

/-- R150, R348: PUBLISH of a tensor with a shadow table and no object begins an exchange and the stream waits; PUBLISH_EXCHANGE swaps the tensor's
tables once nothing uses the old one, and then the PUBLISH completes. -/
def PublishSteps : Prop :=
  (∀ (s : State) (f : Tri) (d : BitVec 512), s.acquiring = false → (s.strm s.cur).counted = false → s.Full f.a →
    s.tensorUse (s.ctxOf s.cur) (s.rs f.a) = .ok d → tdShv d = true → tdSobj d = 0 → s.shadowWriting (s.ctxOf s.cur) (s.rs f.a).toNat = false →
    ∃ u, exec (.publish f) s = .next u ∧
      u.pubs = s.pubs ++ [{ who := some s.cur, engine := none, ctx := s.ctxOf s.cur, tensor := (s.rs f.a).toNat }] ∧ u.tensors = s.tensors) ∧
  (∀ (s : State) (f : Tri), s.acquiring = false → (s.strm s.cur).counted = true → (∀ p ∈ s.pubs, p.who ≠ some s.cur) →
    exec (.publish f) s = .next (s.retire 4)) ∧
  ∀ (s s1 : State) (t : Nat) (p : Pub), s.pubs = [p] → p.who = some (.stream t 0) → tdSobj (s.tensor p.ctx p.tensor) = 0 →
    s.tableInUse p.ctx p.tensor = false → s.storesBefore (.stream t 0) s.nextId = false → s.reserveLen 0 t p.ctx 16 0 = .ok s1 →
    ∃ u, exec (.publishExchange (.stream t 0)) s = .next u ∧ u.pubs = [] ∧ u.tensor p.ctx p.tensor = tdExchange (s.tensor p.ctx p.tensor)

/-! ## System instructions -/

/-- R355, R320, R223: NOP, the cycle counter and the work counts, reads of system registers with their latency, and the writes a task may make. Where it meets them, it rests on the model's own choices: log entries 28 and 29. -/
def Obligations.SystemRegisters : Prop :=
  (∀ s : State, exec .nop s = .next (s.retire 4)) ∧
  (∀ (s : State) (f : Tri), s.Free f.d →
    exec (.rdcc f) s = .next (s.gives f.d 1 s.ccc s.ccc 0 4) ∧
    (∀ t k, s.cur = .stream t k → exec (.rdwork f) s =
      .next (s.gives f.d 1 (BitVec.ofNat 64 (s.tile t).workPrev) (BitVec.ofNat 64 (s.tile t).workPrev) 0 4)) ∧
    (∀ n, s.cur = .thread n → exec (.rdwork f) s =
      .next (s.gives f.d 1 (BitVec.ofNat 64 (s.thr n).st.work) (BitVec.ofNat 64 (s.thr n).st.work) 0 4))) ∧
  (∀ (s : State) (t : Nat),
    let x := (s.tileCycle t).tile t
    x.workPrev = (x.stream 0).work + (x.stream 1).work + (x.stream 2).work + (x.stream 3).work) ∧
  (∀ (s s1 : State) (f : Tri) (t k : Nat) (v : Word), s.cur = .stream t k → s.Free f.d →
    let n := f.a.toNat * 64 + f.b.toNat
    sysNumber n = true → s.sysRead t n = some (v, s1) →
    exec (.sysrd f) s = .next (((if f.d = 0 then s else s1).fixed f.d (if 64 ≤ n ∧ n < 76 then 96 else 2) v v 0).retire 4) ∧
    (n = 0 → v = s.ccc) ∧ (n = 1 → v = BitVec.ofNat 64 t) ∧ (∀ i < 4, n = 8 + i → v = (tget 0 (s.tile t).lc i).setWidth 64) ∧
    (n = 15 → v = (s.tile t).flagsat) ∧ (n = 0x17 → v = (s.tile t).ovflim.setWidth 64)) ∧
  (∀ (s : State) (f : Tri) (t k : Nat), s.cur = .stream t k → s.Full f.a →
    let n := f.d.toNat * 64 + f.b.toNat
    let v := s.rs f.a
    (∀ x, (s.tile t).sysWrite n v = some x → (8 ≤ n → n < 12 → v.toNat < 2 ^ 32) → sysNumber n = true →
      exec (.syswr f) s = .next ((s.setTile t x).retire 4)) ∧
    (∀ i < 4, n = 8 + i → v.toNat < 2 ^ 32 → ∃ x, (s.tile t).sysWrite n v = some x ∧ x = { s.tile t with lc := tput 0 (s.tile t).lc i (v.setWidth 32) }) ∧
    (∀ i < 4, n = 8 + i → 2 ^ 32 ≤ v.toNat → exec (.syswr f) s = .next (s.raise .lcreg v)) ∧
    (n = 15 → (s.tile t).sysWrite n v = some { s.tile t with flagsat := (s.tile t).flagsat &&& ~~~ v }) ∧
    (n = 16 → (s.tile t).sysWrite n v = some { s.tile t with lockset := v.setWidth 4 }) ∧
    (n = 0x16 → (s.tile t).sysWrite n v = some { s.tile t with ovfptr := v.setWidth 57 }))

/-- R353, R216: DISP puts an entry at the end of a command queue that has room. -/
def DispatchEntersQueue : Prop :=
  ∀ (s : State) (f : CmdE) (q : BitVec 8) (t : Nat), s.cur = .stream t 0 → s.Plain → (Instr.disp f q).wf = true → s.Full f.a →
    (s.rs f.a).getLsbD 0 = false → (tget [] (s.tile t).cq (q.toNat % 4)).length < 16 →
    ∃ u e, exec (.disp f q) s = .next u ∧ tget [] (u.tile t).cq (q.toNat % 4) = tget [] (s.tile t).cq (q.toNat % 4) ++ [e] ∧
      e.baddr = (s.rs f.a).setWidth 57 ∧ e.wv = q.getLsbD 2 ∧ e.sv = q.getLsbD 3 ∧ e.wf = f.c ∧ e.wcnt.toNat = f.imm.toNat % 65536 ∧ e.sfl = f.d ∧
      (u.strm s.cur).pc = (s.strm s.cur).pc + 8 ∧ ∀ j, j ≠ q.toNat % 4 → tget [] (u.tile t).cq j = tget [] (s.tile t).cq j

/-- R247, R356: TRAP raises BREAK with its number in INFO: the stream stops at the TRAP with the cause, its word and the cycle, its pc and its
registers as they were; where the context dispatches traps its task is held, else the task is fatal. -/
def TrapStopsStream : Prop :=
  ∀ (s : State) (f : Tri) (t : Nat) (k : Task), s.cur = .stream t 0 → s.Plain → (s.tile t).task = some k →
    ∃ u p, exec (.trap f) s = .next u ∧ (u.strm s.cur).stop = some p ∧ p.cause = .breakTrap ∧ p.info = f.b.setWidth 64 ∧ p.insn = s.curInsn ∧
      p.ccc = s.ccc ∧ (u.strm s.cur).pc = (s.strm s.cur).pc ∧
      ((s.tile t).sc.pend.length + (s.tile t).sc.ops.length ≤ 32 → (u.tile t).sc.regs = (s.tile t).sc.regs) ∧
      (bit (s.cx k.t.ctx cTRAPGRP) 4 = true → (u.tile t).held = true ∧ ((u.tile t).task.bind (·.fatal)) = k.fatal) ∧
      (bit (s.cx k.t.ctx cTRAPGRP) 4 = false → ((u.tile t).task.bind (·.fatal)) = some (k.fatal.getD .breakTrap))

/-- R250, R251, R357: RETI by a thread of the tile's context resumes a trapped stream whose frame has no reserved bit, no block and no replay
entry: it goes on at the frame's PC with the frame's work count. -/
def ReturnResumes : Prop :=
  ∀ (s : State) (f : Tri) (n t k h : Nat) (p : Stopped), s.cur = .thread n → (s.strm s.cur).blk = none → s.Full f.a →
    s.rs f.a = BitVec.ofNat 64 (t + k * 2 ^ 8) → t < 256 → k < 4 → s.tileCtx t = some (s.thr n).ctx → (s.tile t).held = true →
    (s.strm (.stream t k)).stop = some p → p.framed = true → p.cause ≠ .preempt → s.mstate (s.ctxOfTile t) = 0 → (s.strm (.stream t k)).blk = none →
    h = s.physNat (s.ctxOfTile t) (BitVec.ofNat 64 (s.frameVa (s.ctxOfTile t) (.stream t k))) 64 →
    nfld h 9 8 = 0 → nfld h 17 15 = 0 → nfld h 384 128 = 0 →
    ∃ u, exec (.reti f) s = .next u ∧ (u.strm (.stream t k)).stop = none ∧ (u.strm (.stream t k)).pc = BitVec.ofNat 64 (nfld h 64 64) ∧
      (u.strm (.stream t k)).work = nfld h 256 64 ∧ (u.thr n).st.pc = (s.thr n).st.pc + 4

/-- R288, R358: MPRET ends a handler that a point of another stream began: the control stream's registers, pc and block are as before it, and the
point's stream passes the instruction it waits at. A WFE waits until an event has come, and then goes on. -/
def HandlerReturnAndWaits : Prop :=
  (∀ (s : State) (t : Nat) (h : Handler), s.cur = .stream t 0 → (s.tile t).handler = some h → (s.strm s.cur).blk = none → h.stream ≠ 0 →
    ∃ u, exec .mpret s = .next u ∧ (u.tile t).handler = none ∧ (u.tile t).sc = h.saved ∧ (u.strm s.cur).pc = h.retPc ∧
      (u.strm s.cur).blk = h.retBlk ∧ (u.strm (.stream t h.stream)).pass = true ∧ u.hbm = s.hbm) ∧
  ∀ s : State, s.IsScalar → s.Plain →
    ((s.strm s.cur).woken = true → exec .wfe s = .next (s.retire 4)) ∧
    ((s.strm s.cur).woken = false → (s.strm s.cur).wfe = none →
      ∃ u, exec .wfe s = .next u ∧ (u.strm s.cur).wfe = some s.ccc ∧ (u.strm s.cur).stall = .wfe ∧ (u.strm s.cur).pc = (s.strm s.cur).pc)

/-- R354, R181: TDONE (and HALT on a tile) with nothing in flight and the other streams idle: the task leaves the streams. HALT on a thread ends
its run. ETRIG marks the task once, and sends its notice when the descriptor is tagged, which waits at the tile, and not the stream, while there is
no room; MARK opens the next undo window. -/
def TaskEnds : Prop :=
  (∀ (s : State) (t : Nat) (k : Task), s.cur = .stream t 0 → s.Plain → (s.tile t).task = some k → (s.tile t).sc.pend = [] → (s.tile t).sc.ops = [] →
    (s.tile t).workersIdle = true →
    ∀ i ∈ ([.tdone, .halt] : List Instr), ∃ u, exec i s = .next u ∧ (u.tile t).task = none ∧ (u.tile t).left = (s.tile t).left ++ [k] ∧
      (u.tile t).spad = (s.tile t).spad ∧ (u.tile t).cq = [] ∧ (u.tile t).oq = [] ∧ (u.strm s.cur).work = (s.strm s.cur).work + 1) ∧
  (∀ (s : State) (n : Nat), s.cur = .thread n → (s.thr n).sc.ops = [] →
    ∃ u, exec .halt s = .next u ∧ (u.thr n).running = false ∧ (u.thr n).sc = .idle ∧ (∀ m, m ≠ n → u.thr m = s.thr m)) ∧
  (∀ (s : State) (t : Nat) (k : Task), s.cur = .stream t 0 → s.Plain → (s.tile t).task = some k → k.etrig = false → t < 256 →
    dOsync k.t.desc 0 = 0 → dOsync k.t.desc 1 = 0 →
    ∃ u, exec .etrig s = .next u ∧ (∃ k' ∈ (u.tile t).task, k'.etrig = true ∧ k'.t = k.t) ∧
      (dTagv k.t.desc = false → u.sched = s.sched) ∧
      (dTagv k.t.desc = true → dReld k.t.desc = false →
        (s.noticeWaits t = false → ∃ e, u.sched.fifo = s.sched.fifo ++ [e] ∧ fld e.1 0 8 = t ∧ fld e.1 8 3 = 4) ∧
        (s.noticeWaits t = true → u.sched = s.sched ∧ ∃ e : BitVec 128, (u.tile t).late = (s.tile t).late ++ [e] ∧ fld e 0 8 = t ∧ fld e 8 3 = 4))) ∧
  ∀ (s s1 : State) (t : Nat), s.cur = .stream t 0 → (s.tile t).trace.ctl = 0 → s.reserveLen 0 t (s.ctxOfTile t) 16 0 = .ok s1 →
    ∃ u r, exec .mark s = .next u ∧ (u.tile t).win = BitVec.ofNat 32 (s1.cxF (s.ctxOfTile t) cUNDOWIN 32 32) ∧
      u.cxF (s.ctxOfTile t) cUNDOWIN 32 32 = (s1.cxF (s.ctxOfTile t) cUNDOWIN 32 32 + 1) % 2 ^ 32 ∧
      (CtxLog.of u (s.ctxOfTile t)).recs = (CtxLog.of s1 (s.ctxOfTile t)).recs ++ [r] ∧ r.rtype = 3 ∧ r.win = (u.tile t).win

/-! ## Blocks, traps and tasks -/

/-- R221-R225: a header of the control stream outside lockstep, its body fetched and whole, starts its loop with its own count or, with LCV,
that of a loop-count register as of the last cycle; with a count of
zero the body is skipped. Each repetition but the last goes back to the first instruction of the body, and the last leaves the body. -/
def HardwareLoops : Prop :=
  (∀ (s s1 : State) (f : Hdr) (t : Nat) (body : List (BitVec 16)), s.cur = .stream t 0 → (s.strm s.cur).blk = none → f.len ≠ 0 →
    (Instr.blockHeader f).wf = true → (f.s = true → (s.tile t).lockset.getLsbD 0 = false) → s.fetch s.cur ((s.strm s.cur).pc + 4) f.len.toNat = .ok (body, s1) → (bodyCount .control 1023 body).isSome = true →
    let n := if f.lcv then (tget 0 (s.tile t).lcPrev f.lcn.toNat).toNat else f.count.toNat
    ¬ (f.len.toNat = 1023 ∧ 1 < n) →
    ∃ u, exec (.blockHeader f) s = .next u ∧ (u.strm s.cur).work = (s1.strm s.cur).work ∧
      (n = 0 → (u.strm s.cur).blk = none ∧ (u.strm s.cur).pc = (s.strm s.cur).pc + BitVec.ofNat 64 (4 + 2 * f.len.toNat)) ∧
      (n ≠ 0 → (u.strm s.cur).pc = (s.strm s.cur).pc + 4 ∧ ∃ b, (u.strm s.cur).blk = some b ∧ b.hdr = (s.strm s.cur).pc ∧ b.body = body ∧
        b.off = 0 ∧ b.iter = n - 1)) ∧
  ∀ (st : Stream) (b : Blk) (n : Nat), st.blk = some b → b.body.length ≤ b.off + n / 2 →
    (0 < b.iter → (st.advance n true).pc = b.hdr + 4 ∧ (st.advance n true).blk = some { b with off := 0, iter := b.iter - 1 }) ∧
    (b.iter = 0 → (st.advance n true).blk = none ∧ (st.advance n true).pc = b.hdr + BitVec.ofNat 64 (4 + 2 * b.body.length))

/-- R216, R217, R226: an idle stream takes the first entry of its command queue; a block whose instructions have issued and whose results are written
ends, with its flag; a lockstep set whose streams all sit at S headers of equal counts enters together. -/
def BlockEvents : Prop :=
  (∀ (s : State) (t k : Nat) (e : Disp) (rest : List Disp), 0 < k → k < 4 → (s.tile t).task.isSome = true → (s.strm (.stream t k)).blk = none →
    (s.strm (.stream t k)).stop = none → tget [] (s.tile t).cq k = e :: rest → e.wv = false →
    ∃ u b, exec (.commandQueueTake t k) s = .next u ∧ (u.strm (.stream t k)).blk = some b ∧ b.hdr = e.baddr.setWidth 64 ∧ b.entered = false ∧
      b.sfl = (if e.sv then some e.sfl.toNat else none) ∧ (u.strm (.stream t k)).pc = e.baddr.setWidth 64 ∧ tget [] (u.tile t).cq k = rest) ∧
  (∀ (s : State) (t k : Nat) (b : Blk), (s.strm (.stream t k)).blk = some b → b.issued = true → b.sfl = none → b.count < 2 →
    (s.strm (.stream t k)).stop = none → s.blockWritten t k = true →
    ∃ u, exec (.blockComplete t k) s = .next u ∧ (u.strm (.stream t k)).blk = none ∧ u.hbm = s.hbm) ∧
  ∀ (s : State) (t : Nat) (b1 b2 : Blk), (s.tile t).lockset = 6 → (s.tile t).task.isSome = true →
    (s.strm (.stream t 1)).atLock = some b1 → (s.strm (.stream t 2)).atLock = some b2 → ∀ n m, bodyCount .access 1023 b1.body = some n →
    bodyCount .vector 1023 b2.body = some m → n * b1.count = m * b2.count → 0 < n * b1.count →
    ∃ u c1 c2, exec (.lockstepEntry t) s = .next u ∧ (u.strm (.stream t 1)).blk = some c1 ∧ c1.entered = true ∧ c1.set = 6 ∧
      (u.strm (.stream t 2)).blk = some c2 ∧ c2.entered = true ∧ c2.set = 6 ∧ (u.strm (.stream t 1)).pc = b1.hdr + 4

/-- R246-R248: taking an exception on a stream whose context dispatches traps and whose instructions have all completed: its frame is written and the
trap thread group is woken at CTX.TRAPVEC with the tile, stream and cause, the frame's address and the cycle. A cause that is not resumable makes
the task fatal instead. -/
def ExceptionEntry : Prop :=
  ∀ (s : State) (t k : Nat) (c : Cause) (info : Word) (kt : Task), (s.tile t).task = some kt → kt.fatal = none → (s.tile t).handler = none →
    k < 4 → c.reports = false → c ≠ .preempt → s.quiet (.stream t k) = true →
    let u := s.raiseStream t k c info
    let g := s.cxF kt.t.ctx cTRAPGRP 0 4
    (∃ p, (u.strm (.stream t k)).stop = some p ∧ p.cause = c ∧ p.info = info ∧ p.insn = s.curInsn ∧ p.ccc = s.ccc) ∧
    (c.resumable = true → bit (s.cx kt.t.ctx cTRAPGRP) 4 = true → (u.tile t).held = true ∧
      ∃ r, tget [] u.wakes g = tget [] s.wakes g ++ [(r : Wake)] ∧ r.pc = s.cx kt.t.ctx cTRAPVEC ∧ r.ctx = kt.t.ctx ∧
        tget 0 r.regs 1 = BitVec.ofNat 64 (t + k * 2 ^ 8 + c.code * 2 ^ 10) ∧
        tget 0 r.regs 2 = BitVec.ofNat 64 (s.frameVa kt.t.ctx (.stream t k)) ∧ tget 0 r.regs 3 = s.ccc) ∧
    (c.resumable = false → (u.tile t).task = some { kt with fatal := some c } ∧ u.wakes = s.wakes)

/-- R249: the fields of a frame: cause, DIRECT and FATAL bits aside, the instruction, PC, INFO, the cycle and the work count. -/
def FrameFields : Prop :=
  ∀ (w : Who) (st : Stream) (p : Stopped) (fatal : Bool), st.work < 2 ^ 64 → w.num < 4 →
    let h := leNat ((frameBytes w st p fatal []).take 64)
    nfld h 0 6 = p.cause.code ∧ nfld h 9 1 = (if fatal then 1 else 0) ∧ nfld h 10 6 = 0 ∧ nfld h 32 32 = p.insn.toNat ∧ nfld h 64 64 = st.pc.toNat ∧
      nfld h 128 64 = p.info.toNat ∧ nfld h 192 64 = p.ccc.toNat ∧ nfld h 256 64 = st.work

/-- R252, R254, R321: a hang, a pre-emption that takes too long, and an encoding that is none raise their causes. -/
def TimedCauses : Prop :=
  (∀ (s : State) (t : Nat) (k : Task), (s.tile t).task = some k → k.fatal = none → s.cxF k.t.ctx cHANGTMO 0 20 ≠ 0 →
    cyclesOf (s.cxF k.t.ctx cHANGTMO 0 20) ≤ (s.ccc - (s.tile t).lastIssue).toNat →
    ∃ u, exec (.hangTimeout t) s = .next u ∧ (∃ p, (u.strm (.stream t 0)).stop = some p ∧ p.cause = .watchdogHang) ∧
      (u.tile t).task = some { k with fatal := some .watchdogHang } ∧ u.hbm = s.hbm) ∧
  (∀ (s : State) (t : Nat) (k : Task) (c : Collect), (s.tile t).task = some k → k.fatal = none → (s.tile t).collect = some c →
    cyclesOf (s.cxF k.t.ctx cPRETMO 0 20) ≤ (s.ccc - c.since).toNat →
    ∃ u, exec (.preemptTimeout t) s = .next u ∧ (u.tile t).task = some { k with fatal := some .watchdogHang }) ∧
  ∀ (s : State) (c : Cause) (t k : Nat), s.cur = .stream t k →
    ∃ u p, exec (.unallocatedEncoding c) s = .next u ∧ (u.strm s.cur).stop = some p ∧ p.cause = c ∧ p.insn = s.curInsn

/-- R287, R288: a match point in handler mode on another stream starts the handler on the control hardware with s0-s4 as R288 gives them; in trap mode
it raises MATCHPOINT; a ONE point is disarmed. -/
def MatchPoints : Prop :=
  ∀ (s : State) (t k i : Nat), s.pointAt t k = some i → (s.strm (.stream t k)).stop = none → (s.tile t).task.isSome = true →
    let p := tget 0 (s.tile t).mp i
    (bit p 3 = false → (s.tile t).handler = none → ∃ u h, exec (.matchPointHit t k) s = .next u ∧ (u.tile t).handler = some h ∧ h.point = i ∧
      h.stream = k ∧ h.retPc = (s.strm (.stream t 0)).pc ∧ h.saved = (s.tile t).sc ∧ (u.strm (.stream t 0)).pc = (s.tile t).mpvec.setWidth 64 ∧
      tget 0 (u.tile t).sc.regs 1 = BitVec.ofNat 64 i ∧ tget 0 (u.tile t).sc.regs 2 = BitVec.ofNat 64 k ∧ tget 0 (u.tile t).sc.regs 3 = s.ccc ∧
      (bit p 4 = true → bit (tget 0 (u.tile t).mp i) 0 = false)) ∧
    (bit p 3 = true → ∃ u q, exec (.matchPointHit t k) s = .next u ∧ (u.strm (.stream t k)).stop = some q ∧ q.cause = .matchpoint)

/-- R183, R189, R190: the lottery starts the head of the only eligible queue on an idle tile: its registers, entry and window are the descriptor's and
the context's, and X advances. -/
def LotteryStartsTask : Prop :=
  ∀ (s s1 : State) (t q : Nat) (k : QTask) (rest : List QTask), (s.tile t).task = none → (s.tile t).left.length < 2 → q < 8 →
    (List.range 8).filter (s.drawable t) = [q] → ((s.tile t).queue q).tasks = k :: rest → k.saved = false → (s.tile t).trace.ctl = 0 →
    s.reserveLen 0 t k.ctx 16 0 = .ok s1 →
    ∃ u j, exec (.lotteryDraw t) s = .next u ∧ (u.tile t).task = some j ∧ j.t = { k with parked := {} } ∧ j.q = q ∧ j.serial = (s.tile t).serial + 1 ∧
      ((u.tile t).queue q).tasks = rest ∧ (u.strm (.stream t 0)).pc = dEntry k.desc ∧ (u.tile t).spad = (s.tile t).spad ∧
      (∀ i, 0 < i → i < 9 → (u.tile t).sc.get (BitVec.ofNat 6 i) = BitVec.ofNat 64 (fld k.desc (512 + 64 * (i - 1)) 64)) ∧
      (u.tile t).lotx = lotteryNext (s.tile t).lotx

/-- R184, R186, R187, R256: a task that left with nothing outstanding, no output object and no lock retires with its notice; a fatal task is removed
and its tile is free; a descriptor that waits for its rerun enters its queue once it has room, its notice waiting on its own for room. -/
def TasksLeave : Prop :=
  (∀ (s : State) (t : Nat) (k : Task), (s.tile t).left = [k] → t < 256 → s.outstanding t k = false → s.noticeWaits t = false → k.fatal = none →
    dOsync k.t.desc 0 = 0 → dOsync k.t.desc 1 = 0 → k.locks = [] → (s.tile t).trace.ctl = 0 →
    ∃ u e, exec (.taskRetire t) s = .next u ∧ (u.tile t).left = [] ∧ u.sched.fifo = s.sched.fifo ++ [e] ∧ fld e.1 0 8 = t ∧ fld e.1 8 2 = 0 ∧
      u.hbm = s.hbm) ∧
  (∀ (s : State) (t : Nat) (k : Task), (s.tile t).task = some k → k.fatal.isSome = true → t < 256 → s.noticeWaits t = false → s.doomed t = none → s.copies = [] → s.stores = [] →
    (s.tile t).mx.drains = [] → (s.tile t).sc.ops = [] → k.locks = [] → s.mstate k.t.ctx = 4 → k.t.ctx < 64 →
    ∃ u e, exec (.taskRemoval t) s = .next u ∧ (u.tile t).task = none ∧ u.sched.fifo = s.sched.fifo ++ [e] ∧ fld e.1 0 8 = t ∧ fld e.1 8 2 = 1) ∧
  ∀ (s : State) (t q : Nat) (k : QTask) (n : BitVec 128), (s.tile t).rerun = some (q, k, n) → ((s.tile t).queue q).tasks.length < 64 →
    ∃ u, exec (.rerunSlotEntry t) s = .next u ∧ (u.tile t).rerun = none ∧ ((u.tile t).queue q).tasks = ((s.tile t).queue q).tasks ++ [k] ∧
      (s.noticeWaits t = false → (u.tile t).late = [] ∧ ∃ e, u.sched.fifo = s.sched.fifo ++ [e]) ∧
      (s.fifoFull = true → (u.tile t).late = (s.tile t).late ++ [n] ∧ u.sched = s.sched)

/-- R253, R255: a stream that is asked to stop and is at its stop point acknowledges, its frame written with the cause PREEMPT; when all have, and no copy of
the task is within a piece, the copies' acknowledgement saves the task, with its locks, and puts it at the head of its queue. Where it meets them, it rests on the model's own choices: log entries 9 and 51. -/
def Obligations.PreemptionSaves : Prop :=
  (∀ (s : State) (t : Nat) (c : Collect) (k : Task), (s.tile t).collect = some c → c.stage = 2 → (s.tile t).task = some k → k.fatal = none →
    (s.strm (.stream t 1)).stop = none → s.atStop t 1 = true →
    ∃ u p, exec (.preemptStop t 1) s = .next u ∧ (u.tile t).collect = some { c with stage := 3 } ∧ (u.strm (.stream t 1)).stop = some p ∧
      p.cause = .preempt ∧ p.framed = true) ∧
  ∀ (s : State) (t : Nat) (c : Collect) (k : Task), (s.tile t).collect = some c → c.stage = 4 → (s.tile t).task = some k → k.fatal = none →
    (s.tile t).trace.ctl = 0 → (∀ e ∈ s.taskCopies t k.serial, e.2.atPiece = true) →
    ∃ u z, exec (.preemptStop t 4) s = .next u ∧ (u.tile t).task = none ∧ z.serial = k.serial ∧ z.locks = k.locks ∧
      ((u.tile t).queue k.q).tasks = { k.t with saved := true, parked := z } :: ((s.tile t).queue k.q).tasks

/-- R201, R190: a tile that holds no work takes its owner, and a new owner's lottery starts from the tile's own seed. -/
def TileOwnership : Prop :=
  ∀ (s : State) (t : Nat) (v : Word), (s.tile t).holdsWork = false →
    ∃ u, exec (.townWrite t v) s = .next u ∧ u.reg (offTown t) = v &&& 0x7F ∧
      (bit v 0 = true → bit (s.reg (offTown t)) 0 = false → (u.tile t).lotx = BitVec.ofNat 32 (t * 0x9E3779B9 + 1)) ∧
      ∀ r, r ≠ t → u.tile r = s.tile r

/-! ## Access class -/

/-- R361, R363, R364: address arithmetic reads its sources once their writes are due and writes d, readable one cycle on (AMUL three); a0 takes
nothing; AMOV with d of 32 to 35 writes a loop count. -/
def AddressArithmetic : Prop :=
  let makes (s : State) (t : Nat) (i : Instr) (d : BitVec 6) (lat n : Nat) (v : Word) : Prop :=
    ∃ u, exec i s = .next u ∧ (u.strm s.cur).pc = (s.strm s.cur).pc + BitVec.ofNat 64 n ∧
      (d ≠ 0 → tget 0 (u.tile t).areg d.toNat = v ∧ s.ccc.toNat + lat ≤ tget 0 (u.tile t).abusy d.toNat) ∧
      (∀ r, r ≠ d.toNat ∨ d = 0 → tget 0 (u.tile t).areg r = tget 0 (s.tile t).areg r) ∧ (u.tile t).sc = (s.tile t).sc ∧ u.hbm = s.hbm
  (∀ (s : State) (t : Nat) (f : Tri) (a b : Word), s.cur = .stream t 1 → (s.strm s.cur).blk = none → s.areg t f.a = .ok a → s.areg t f.b = .ok b →
    makes s t (.aadd f) f.d 1 4 (a + b) ∧ makes s t (.asub f) f.d 1 4 (a - b) ∧ makes s t (.amul f) f.d 3 4 (a * b) ∧
    makes s t (.ashl f) f.d 1 4 (a <<< (b.toNat % 64)) ∧ makes s t (.ashr f) f.d 1 4 (a >>> (b.toNat % 64)) ∧
    makes s t (.aand f) f.d 1 4 (a &&& b) ∧ (f.d.toNat < 32 → makes s t (.amov f) f.d 1 4 a) ∧
    (32 ≤ f.d.toNat → a.toNat < 2 ^ 32 → ∃ u, exec (.amov f) s = .next u ∧ tget 0 (u.tile t).lc (f.d.toNat - 32) = a.setWidth 32)) ∧
  (∀ (s : State) (t : Nat) (f : ImmS) (a : Word), s.cur = .stream t 1 → (s.strm s.cur).blk = none → s.areg t f.a = .ok a →
    makes s t (.aaddi f) f.d 1 4 (a + f.imm.signExtend 64)) ∧
  (∀ (s : State) (t : Nat) (f : ImmW), s.cur = .stream t 1 → (s.strm s.cur).blk = none → makes s t (.ali f) f.d 1 4 (f.imm.signExtend 64)) ∧
  ∀ (s : State) (t : Nat) (f : C16) (x y : Word), s.cur = .stream t 1 → (s.strm s.cur).blk = none → s.areg t (f.x.setWidth 6) = .ok x →
    s.areg t (f.y.setWidth 6) = .ok y →
    makes s t (.aaddC f) (f.x.setWidth 6) 1 2 (x + y) ∧ makes s t (.aaddiC f) (f.x.setWidth 6) 1 2 (x + f.y.signExtend 64) ∧
    makes s t (.amovC f) (f.x.setWidth 6) 1 2 y

/-- R361: an address register that is written for a later cycle stalls its reader until then, and a0 reads zero at once. -/
def AddressInterlock : Prop :=
  ∀ (s : State) (t : Nat) (r : BitVec 6),
    s.areg t 0 = .ok 0 ∧ (r ≠ 0 → s.ccc.toNat < tget 0 (s.tile t).abusy r.toNat → s.areg t r = .stall .interlock s) ∧
    (r ≠ 0 → tget 0 (s.tile t).abusy r.toNat ≤ s.ccc.toNat → s.areg t r = .ok (tget 0 (s.tile t).areg r.toNat))

/-- R365, R366: LQ and LQB of a scratchpad operand, once their line is granted, take their place in the queue with the bytes read then; of HBM, with
the places to read. LQB enters its 64 bytes four times. -/
def QueueLoads : Prop :=
  ∀ (s s1 s2 : State) (t : Nat) (f : MemF) (a : Word) (l : List (Loc × Nat)), s.cur = .stream t 1 → s.areg t f.a = .ok a → f.d.toNat ≤ 5 →
    ((s.tile t).oqueue f.d.toNat).used < 16 → ∀ e ∈ ([(.lq f, 256, 1), (.lqb f, 64, 4)] : List (Instr × Nat × Nat)),
    s.operand (.stream t 1) (a + f.off.signExtend 64 * 64) e.2.1 false 64 = .ok (l, s1) →
    (∀ u off, spadOf l = some (u, off) → s1.reading t = false → (s1.tile u).boardHit off e.2.1 false = false →
      s1.grant u off e.2.1 (accessPort t u false) = .ok s2 →
      exec e.1 s = .next ((s2.reserveLoad t f.d.toNat [.data (mreads (s2.tile u).spad off e.2.1)] e.2.2 none [] []).retire 4)) ∧
    (spadOf l = none → ∃ src, exec e.1 s = .next ((s1.reserveLoad t f.d.toNat src e.2.2 none [] []).retire 4) ∧
      ∀ x ∈ src, ∃ pa n, x = QSrc.mem pa n ∨ x = QSrc.zeros 0)

/-- R366, R375: SQ and SQS write the head entry of their queue, or its first 64 bytes, to the scratchpad, and nothing beside; the entry leaves. To HBM
the bytes leave as one store. -/
def QueueStores : Prop :=
  ∀ (s s1 : State) (t : Nat) (f : MemF) (a : Word) (l : List (Loc × Nat)) (h : BitVec 2048) (rest : List (BitVec 2048)), s.cur = .stream t 1 →
    s.areg t f.a = .ok a → f.d = 6 ∨ f.d = 7 → ((s.tile t).oqueue f.d.toNat).ents = h :: rest →
    ∀ e ∈ ([(.sq f, 256), (.sqs f, 64)] : List (Instr × Nat)),
    s.operand (.stream t 1) (a + f.off.signExtend 64 * 64) e.2 true 64 = .ok (l, s1) →
    (∀ (u off : Nat) (s2 s3 : State), spadOf l = some (u, off) → s1.reading t = false → (s1.tile u).boardHit off e.2 true = false →
      s1.grant u off e.2 (accessPort t u true) = .ok s2 → s2.reserve 1 t (s.ctxOfTile t) (e.2 / 8) (a + f.off.signExtend 64 * 64) = .ok s3 →
      ∃ v, exec e.1 s = .next v ∧ (∀ j < e.2, mread (v.tile u).spad (off + j) = h.extractLsb' (8 * j) 8) ∧
        (∀ j, j < off ∨ off + e.2 ≤ j → mread (v.tile u).spad j = mread (s3.tile u).spad j) ∧ ((v.tile t).oqueue f.d.toNat).ents = rest ∧ v.hbm = s3.hbm) ∧
    (∀ s2, spadOf l = none → txOf l = none → s.writesOut (.stream t 1) < 128 →
      s1.reserveLen 1 t (s.ctxOfTile t) (segsBytes (lineSegs l (leBytes e.2 h.toNat)) + s.horizonBytes (s.ctxOfTile t) none)
        (a + f.off.signExtend 64 * 64) = .ok s2 →
      ∃ v st, exec e.1 s = .next v ∧ v.hbm = s2.hbm ∧ v.stores = s2.stores ++ [(st : Store)] ∧ st.segs = lineSegs l (leBytes e.2 h.toNat) ∧
        ((v.tile t).oqueue f.d.toNat).ents = rest)

/-- R365, R367, R368: a gather takes its index entry and reserves its place with a source for each lane; LQT does so with its elements, and SQT's
elements leave as a store of the tensor; both forms skipped by their predicate enter zeros, or drop the entry. -/
def GatherAndTensorQueues : Prop :=
  (∀ (s s1 : State) (t : Nat) (f : Tri) (a : Word) (ls : List Loc) (h : BitVec 2048) (rest : List (BitVec 2048)), s.cur = .stream t 1 →
    s.areg t f.a = .ok a → f.d.toNat ≤ 5 → ((s.tile t).oqueue f.d.toNat).used < 16 → f.b = 6 ∨ f.b = 7 →
    ((s.tile t).oqueue f.b.toNat).ents = h :: rest →
    s.gatherLanes (.stream t 1) a ((List.range 64).map fun i => (h.extractLsb' (32 * i) 32).toNat) = .ok (ls, s1) → s.reading t = false →
    (∀ x ∈ ls, ∀ u off c, x = .spad u off c → (s.tile u).boardHit off 4 false = false) →
    ∃ v src l, exec (.lqg f) s = .next v ∧ src.length = ls.length ∧ ((v.tile t).oqueue f.b.toNat).ents = rest ∧
      ((v.tile t).oqueue f.d.toNat).loads = ((s1.tile t).oqueue f.d.toNat).loads ++ [l] ∧ l.src = src ∧ l.copies = 1) ∧
  (∀ (s : State) (t : Nat) (f : CmdE) (a : Word) (d : BitVec 512) (c pas : List Nat), s.cur = .stream t 1 → f.d.toNat ≤ 5 →
    ((s.tile t).oqueue f.d.toNat).used < 16 → s.areg t f.a = .ok a → (s.tile t).suppressed f.pv f.pn f.pk = false →
    s.tensorUse (s.ctxOfTile t) a = .ok d → f.imm.getLsbD 12 = false →
    let n := if f.imm.toNat % 4096 = 0 then 2048 / tdBits d else f.imm.toNat % 4096
    f.b.toNat + tdNdm1 d ≤ 31 → n ≤ 2048 / tdBits d → s.coords t f.b (tdDims d) = .ok c → checkRun d a.toNat c n = .ok () →
    let nibs := (List.range n).map fun k => tdNibble d (tdIndex d (addFirst c k))
    s.chunkPlaces (tdCtab d) false (BitVec.ofNat 64 a.toNat) (nibs.map (· / 2)) = .ok pas →
    exec (.lqt f) s = .next ((s.reserveLoad t f.d.toNat ((pas.zip nibs).map fun p => .elem p.1 (p.2 % 2 == 1) (tdBits d)) 1 (some a.toNat) [] []).retire 8)) ∧
  (∀ (s s1 : State) (t : Nat) (f : CmdE) (a : Word) (d : BitVec 512) (c pas : List Nat) (h : BitVec 2048) (rest : List (BitVec 2048)),
    s.cur = .stream t 1 → f.d = 6 ∨ f.d = 7 → ((s.tile t).oqueue f.d.toNat).ents = h :: rest → s.areg t f.a = .ok a →
    (s.tile t).suppressed f.pv f.pn f.pk = false → s.tensorUse (s.ctxOfTile t) a = .ok d → f.imm.getLsbD 12 = false →
    let n := if f.imm.toNat % 4096 = 0 then 2048 / tdBits d else f.imm.toNat % 4096
    f.b.toNat + tdNdm1 d ≤ 31 → n ≤ 2048 / tdBits d → s.coords t f.b (tdDims d) = .ok c → checkRun d a.toNat c n = .ok () →
    s.writesOut (.stream t 1) < 128 →
    let runs := joinRuns 131072 ((List.range n).map fun k =>
      (tdNibble d (tdIndex d (addFirst c k)), nibbles (tdBits d) (fld h (k * tdBits d) (tdBits d))))
    s.chunkPlaces (tdCtab d) true (BitVec.ofNat 64 a.toNat) (runs.map fun r => r.1 / 2) = .ok pas →
    let segs := (runs.zip pas).map fun p => runSeg 2 (tensorAddr a.toNat (tdXp d)) (fun _ => p.2) p.1
    s.reserveLen 1 t (s.ctxOfTile t) (segsBytes segs) (BitVec.ofNat 64 a.toNat) = .ok s1 →
    ∃ v st, exec (.sqt f) s = .next v ∧ v.hbm = s1.hbm ∧ v.stores = s1.stores ++ [(st : Store)] ∧ st.segs = segs ∧ st.tensor = some a.toNat ∧
      ((v.tile t).oqueue f.d.toNat).ents = rest) ∧
  ∀ (s : State) (t : Nat) (f : CmdE), s.cur = .stream t 1 → (s.tile t).suppressed f.pv f.pn f.pk = true →
    (f.d.toNat ≤ 5 → ((s.tile t).oqueue f.d.toNat).used < 16 →
      exec (.lqt f) s = .next ((s.reserveLoad t f.d.toNat [.zeros 2048] 1 none [] []).retire 8)) ∧
    (∀ h rest, f.d = 6 ∨ f.d = 7 → f.imm.getLsbD 12 = false → ((s.tile t).oqueue f.d.toNat).ents = h :: rest →
      exec (.sqt f) s = .next ((s.modTile t fun x => x.popOq f.d.toNat).retire 8))

/-- R365: the oldest load of a queue enters its value when every source has it: the bytes fixed at issue, or those in memory now. -/
def QueueFills : Prop :=
  ∀ (s : State) (t q : Nat) (l : QLoad) (rest : List QLoad), ((s.tile t).oqueue q).loads = l :: rest → l.copies = 1 →
    (∀ k, (s.strm (.stream t k)).stop = none) →
    (∀ bs : List Byte, l.src = [.data bs] → ∃ u, exec (.operandQueueFill t q) s = .next u ∧ ((u.tile t).oqueue q).loads = rest ∧
      ((u.tile t).oqueue q).ents = ((s.tile t).oqueue q).ents ++ [BitVec.ofNat 2048 (leNat bs)] ∧
      ((u.tile t).oqueue q).entered = ((s.tile t).oqueue q).entered + 1) ∧
    (∀ pa n : Nat, l.src = [.mem pa n] → s.storeOver (.stream t 1) l.order pa n = false →
      ∃ u, exec (.operandQueueFill t q) s = .next u ∧
        ((u.tile t).oqueue q).ents = ((s.tile t).oqueue q).ents ++ [BitVec.ofNat 2048 (mval s.hbm pa n)] ∧ u.hbm = s.hbm)

/-- R375: XWAIT takes its count from a flag whose copies have not failed, no copy standing at a full undo log; SBQ and QMARK answer a scoreboard entry and a queue's fill and count; QFLUSH
empties a queue. -/
def Obligations.AccessQueries : Prop :=
  ∀ (s : State) (t : Nat) (f : Tri), s.cur = .stream t 1 →
    (∀ s1, (∀ e ∈ s.copies, ∀ c ∈ e.2, c.full = false) → tget Cause.none (s.tile t).copyFail f.a.toNat = .none → f.b.toNat ≤ ((s.tile t).flag f.a.toNat).toNat →
      s.reserve 1 t (s.ctxOfTile t) 0 (BitVec.ofNat 64 f.a.toNat) = .ok s1 →
      ∃ u, exec (.xwait f) s = .next u ∧ ((u.tile t).flag f.a.toNat).toNat = ((s.tile t).flag f.a.toNat).toNat - f.b.toNat) ∧
    ((s.tile t).sc.isEmpty f.d = false →
      exec (.sbq f) s = .next (s.starts f.d (.value (tget 0 (s.tile t).board f.a.toNat)) 1 0 0 4) ∧
      exec (.qmark f) s = .next (let q := (s.tile t).oqueue f.a.toNat
        s.starts f.d (.value (BitVec.ofNat 64 ((q.ents.length + q.loads.length) % 32 + q.entered.toNat * 2 ^ 32))) 1 0 0 4)) ∧
    ∃ u, exec (.qflush f) s = .next u ∧ ((u.tile t).oqueue f.a.toNat).ents = [] ∧ ((u.tile t).oqueue f.a.toNat).loads = [] ∧
      ∀ q, q ≠ f.a.toNat → (u.tile t).oqueue q = (s.tile t).oqueue q

/-- R138, R141, R142, R376-R378: an RST whose source can be read and whose destination is a TX window leaves as a reflected store with its token, and
RST.TK's d waits for its own; RACC leaves alike with its source still to be read, and performing it sends its packet, here to the own chip; forms
skipped by their predicate only go on, RST.TK with zero. Where it meets them, it rests on the model's own choices: log entries 31, 37 and 63. -/
def Obligations.ReflectedStores : Prop :=
  (∀ (s s1 s2 s3 s4 : State) (t w off : Nat) (f : CmdE) (a b tok : Word) (la lb : List (Loc × Nat)) (segs : List Seg), s.cur = .stream t 1 →
    f.imm ≠ 0 → f.imm.toNat % 8 = 0 → (s.tile t).suppressed f.pv f.pn f.pk = false → s.areg t f.a = .ok a → s.areg t f.b = .ok b →
    s.accSrc t f.c = .ok tok → s.operand (.stream t 1) a f.imm.toNat false 8 = .ok (la, s1) →
    s1.operand (.stream t 1) b f.imm.toNat true 8 = .ok (lb, s2) → txOf lb = some (w, off) → s.checkToken (s.ctxOfTile t) tok = .ok () →
    s.rstReady t (la.map fun p => p.1.source p.2) = .ok () → s.writesOut (.stream t 1) < 128 →
    s2.rstSegs (.stream t 1) a 0 lb = .ok (segs, s3) →
    s3.reserveRing 1 (s.ctxOfTile t) (segsBytes segs + s.horizonBytes (s.ctxOfTile t) (some w)) b = .ok s4 →
    (∃ u st, exec (.rst f) s = .next u ∧ u.hbm = s4.hbm ∧ u.stores = s4.stores ++ [(st : Store)] ∧ st.segs = segs ∧ st.refl = some (s.reflectTo w off (some tok))) ∧
    ((s.tile t).sc.isEmpty f.d = false → ∃ u st op, exec (.rstTk f) s = .next u ∧ u.stores = s4.stores ++ [(st : Store)] ∧ st.refl = some (s.reflectTo w off (some tok)) ∧
      st.op = some op.id ∧ op ∈ (u.tile t).sc.ops ∧ op.what = .token ∧ op.reg = f.d)) ∧
  (∀ (s s1 s2 : State) (t : Nat) (f : CmdE) (a b : Word) (la : List (Loc × Nat)), s.cur = .stream t 1 → (s.tile t).suppressed f.pv f.pn f.pk = false →
    s.areg t f.a = .ok a → s.areg t f.b = .ok b → fld b 62 2 = 0 → s.isMember (s.ctxOfTile t) (fld b 0 10) = true →
    let len := f.imm.toNat % 65536
    let rop := f.imm.toNat / 65536 % 16
    0 < len → len % 8 = 0 → rop % 4 ≠ 3 → rop / 4 ≠ 3 → fld b 22 40 % 8 = 0 → s.operand (.stream t 1) a len false 8 = .ok (la, s1) →
    let src := la.map fun p => p.1.source p.2
    s.rstReady t src = .ok () →
    (if (fld b 0 10 != s.chip && !s.playing (s.ctxOfTile t)) = true then s1.reserveRing 1 (s.ctxOfTile t) 24 b else .ok s1) = .ok s2 →
    ∃ u st r, exec (.racc f) s = .next u ∧ u.hbm = s2.hbm ∧ u.stores = s2.stores ++ [(st : Store)] ∧ st.segs = [] ∧ st.adds = src ∧ st.refl = some r ∧
      r.off = fld b 22 40 ∧ r.rop = some rop ∧ r.slots = [(0, fld b 0 10, fld b 10 12)] ∧ (u.strm s.cur).stall = .none) ∧
  (∀ (s : State) (e : Store) (r : Reflect) (bs : List Byte) (rxw rop : Nat), s.stores = [e] → e.segs = [] → e.adds = [.data bs] → e.refl = some r →
    r.slots = [(0, s.chip, rxw)] → r.rop = some rop → r.tok = none → e.atom = false → e.op = none → s.loadBefore e = false → 0 < bs.length →
    bs.length ≤ 4096 → s.linkTo s.chip = none → s.fences.getLsbD s.chip = false →
    ∃ u p x, exec (.storePerformed e.order) s = .next u ∧ u.stores = [] ∧ u.hbm = s.hbm ∧ tget [] u.inq 6 = tget [] s.inq 6 ++ [p] ∧ p.pop = 1 ∧
      p.dst = s.chip ∧ p.data = bs ∧ p.pseq = tget 0 s.pseqOut s.chip ∧ tget 0 u.pseqOut s.chip = tget 0 s.pseqOut s.chip + 1 ∧
      u.sent = s.sent ++ [(x : Sent)] ∧ x.pseq = p.pseq) ∧
  ∀ (s : State) (t : Nat) (f : CmdE), s.cur = .stream t 1 → (s.tile t).suppressed f.pv f.pn f.pk = true → f.imm ≠ 0 →
    exec (.rst f) s = .next (s.retire 8) ∧
    ((s.tile t).sc.isEmpty f.d = false → exec (.rstTk f) s = .next (s.starts f.d (.value 0) 1 0 0 8)) ∧
    (f.imm.toNat % 65536 ≠ 0 → f.imm.toNat / 65536 % 16 % 4 ≠ 3 → f.imm.toNat / 65536 % 16 / 4 ≠ 3 → exec (.racc f) s = .next (s.retire 8))

/-- R119, R372, R373: a copy instruction whose descriptor is a valid one of its kind joins its engine's queue with its scoreboard entries; skipped by its
predicate it only signals its flag, if it names one. -/
def CopiesIssue : Prop :=
  (∀ (s s1 s2 : State) (t : Nat) (f : CmdE) (a : Word) (l : List (Loc × Nat)) (ents : List (Nat × Nat)), s.cur = .stream t 1 →
    (f.imm.getLsbD 3 = true ∨ f.imm.toNat / 16 % 64 = 0) → (s.tile t).suppressed f.pv f.pn f.pk = false → s.areg t f.a = .ok a →
    s.operand (.stream t 1) a 128 false 64 = .ok (l, s1) → spadOf l = none → s.rstReady t (l.map fun p => p.1.source p.2) = .ok () →
    (∀ p ∈ l.map (fun p => p.1.source p.2), p.line? = none → s.srcReady (.stream t 1) s.nextId p = true) →
    let d := BitVec.ofNat 1024 (leNat ((l.map fun p => p.1.source p.2).flatMap s1.sourceBytes))
    let eng := 8 * dieOf t + f.imm.toNat % 8
    s1.cpCheck (s.ctxOfTile t) (some t) d = .ok () → s.pubs = [] → (tget [] s.copies eng).length < 32 →
    s1.takeBoard (s1.cpRanges (s.ctxOfTile t) (some t) d eng) = some (ents, s2) →
    ∀ e ∈ ([(.tcopy f, 0), (.tgather f, 1), (.tscatter f, 2), (.tfill f, 3)] : List (Instr × Nat)), d.toNat % 4 = e.2 →
      ∃ u c, exec e.1 s = .next u ∧ tget [] u.copies eng = tget [] s2.copies eng ++ [(c : Copy)] ∧ c.desc = d ∧ c.tile = some t ∧ c.piece = 0 ∧ c.board = ents ∧
        c.sgf = (if f.imm.getLsbD 3 then some (f.imm.toNat / 16 % 64) else none) ∧ u.hbm = s2.hbm) ∧
  ∀ (s : State) (t : Nat) (f : CmdE), s.cur = .stream t 1 → (s.tile t).suppressed f.pv f.pn f.pk = true → f.imm.getLsbD 3 = false →
    f.imm.toNat / 16 % 64 = 0 → ∀ i ∈ ([.tcopy f, .tgather f, .tscatter f, .tfill f] : List Instr), exec i s = .next (s.retire 8)

/-- R118-R120, R202, R373, R374: a copy's piece begins with its beats, and once they are over it is written where its ranges say and counted; a parked copy goes on when its piece's places are there; a copy
with all its pieces leaves its engine and its scoreboard entries; a copy waiting for the scoreboard for 2^20 cycles raises SCOREBOARD_FULL. -/
def CopiesProceed : Prop :=
  (∀ (s : State) (eng : Nat) (c : Copy) (g : Seg), tget [] s.copies eng = [c] → s.copyRuns eng 0 c = true → cpIndexed c.desc = false →
    s.pieceSegs c = .ok [g] →
    (c.beats = none → ∃ u l, exec (.copyPiece eng 0) s = .next u ∧ tget [] u.copies eng = [{ c with fault := 0, beats := some l }] ∧ u.hbm = s.hbm) ∧
    ∀ s1, c.beats = some [] → cpDsh c.desc = false → c.tile = none → g.akind = 1 → g.keepLow = false → g.keepHigh = false →
      s.reserveRing 6 c.ctx (segsBytes [g]) 0 = .ok s1 →
      ∃ u, exec (.copyPiece eng 0) s = .next u ∧ tget [] u.copies eng = [{ c with fault := 0, piece := c.piece + 1, beats := none, full := false }] ∧
        ∀ j < g.data.length, mread u.hbm (g.pa + j) = g.data.getD j 0) ∧
  (∀ (s : State) (eng : Nat) (c : Copy) (segs : List Seg), tget [] s.copies eng = [c] → c.parked ≠ none → cpIndexed c.desc = false →
    s.pieceSegs c = .ok segs → ∃ u, exec (.copyResume eng 0) s = .next u ∧ tget [] u.copies eng = [{ c with parked := none, fault := 0 }] ∧ u.hbm = s.hbm) ∧
  (∀ (s : State) (eng : Nat) (c : Copy) (t i : Nat), tget [] s.copies eng = [c] → c.done = true → c.tile = some t → c.sgf = none →
    c.board = [(t, i)] →
    ∃ u, exec (.copyRetire eng 0) s = .next u ∧ tget [] u.copies eng = [] ∧ tget 0 (u.tile t).board i = 0 ∧ u.hbm = s.hbm) ∧
  (∀ (s : State) (t : Nat) (since : Word) (k : Task), (s.tile t).boardSince = some since → 2 ^ 20 ≤ (s.ccc - since).toNat →
    (s.strm (.stream t 1)).stop = none → (s.tile t).task = some k →
    ∃ u p, exec (.scoreboardStallExpiry t) s = .next u ∧ (u.strm (.stream t 1)).stop = some p ∧ p.cause = .scoreboardFull ∧ (u.tile t).boardSince = none) ∧
  ∀ (s : State) (eng : Nat) (c : Copy) (entry : Word) (fr : BitVec 36), tget [] s.copies eng = [c] → c.parked = some (true, entry) →
    fr.toNat * 65536 < 2 ^ 39 → entry.toNat < 2 ^ 39 →
    (∃ u, exec (.pageIn eng 0 (some fr)) s = .next u ∧ (let e := mword u.hbm entry.toNat
        bit e 0 = true ∧ fld e 16 36 = fr.toNat ∧ fld e 1 15 = fld (mword s.hbm entry.toNat) 1 15) ∧
      ∀ j, j < entry.toNat ∨ entry.toNat + 8 ≤ j → mread u.hbm j = mread s.hbm j) ∧
    ∃ u c', exec (.pageIn eng 0 none) s = .next u ∧ tget [] u.copies eng = [c'] ∧ c'.failed = some .copyPageFault

/-! ## Vector class -/

/-- Element e of w bits of a vector register (R380). -/
def velem (x : Tile) (r : BitVec 6) (w e : Nat) : Nat := ((tget 0 x.vreg r.toNat).extractLsb' (w * e) w).toNat

/-- Lane l is active under the predicate of a form (R317, R381). -/
def laneActive (x : Tile) (f : VForm) (l : Nat) : Bool :=
  if f.pv then (if f.pn then !(x.k f.pk.toNat).getLsbD l else (x.k f.pk.toNat).getLsbD l) else true

/-- An instruction on the vector registers, all of whose registers are ready, writes d, done in lat cycles, with a value that p describes. -/
def writesVector (s : State) (t : Nat) (i : Instr) (f : VForm) (lat : Nat) (reads : List (BitVec 6)) (p : BitVec 2048 → Prop) : Prop :=
  (s.tile t).vReady s.ccc ((f.d :: reads).map (·.toNat)) (if f.pv then [f.pk.toNat] else []) = true →
    ∃ v, exec i s = .next ((s.setTile t ((s.tile t).setV s.ccc f.d lat v)).retire 8) ∧ p v

/-- Element e becomes new e where its lane is active, and stays as it was where it is not. -/
def writesElements (s : State) (t : Nat) (i : Instr) (f : VForm) (lat : Nat) (reads : List (BitVec 6)) (new : Nat → Nat) : Prop :=
  let w := typeBits f.ty.toNat
  writesVector s t i f lat reads fun v => ∀ e < 2048 / w, (v.extractLsb' (w * e) w).toNat =
    if laneActive (s.tile t) f (w * e / 32) then new e % 2 ^ w else velem (s.tile t) f.d w e

/-- R384: the floating-point forms, elementwise: operands flushed under FZI, one exact operation, one conversion. -/
def VectorFloats : Prop :=
  ∀ (s : State) (t k : Nat) (f : VForm), s.cur = .stream t k → f.ty.toNat ≤ 2 →
    let x := s.tile t
    let ty := f.ty.toNat
    let num (r : BitVec 6) (e : Nat) : Machine.Num := flushIn f.fzi (decodeNum ty 0 (velem x r (typeBits ty) e)) ty
    let rm := f.rm.toNat
    ∀ e ∈ ([(.vadd f, 4, [f.a, f.b], fun i => Machine.Num.add rm (num f.a i) (num f.b i)),
        (.vsub f, 4, [f.a, f.b], fun i => Machine.Num.sub rm (num f.a i) (num f.b i)),
        (.vmul f, 4, [f.a, f.b], fun i => Machine.Num.mul (num f.a i) (num f.b i)),
        (.vfma f, 4, [f.a, f.b, f.c], fun i => Machine.Num.add rm (Machine.Num.mul (num f.a i) (num f.b i)) (num f.c i)),
        (.vfms f, 4, [f.a, f.b, f.c], fun i => Machine.Num.sub rm (Machine.Num.mul (num f.a i) (num f.b i)) (num f.c i)),
        (.vfnma f, 4, [f.a, f.b, f.c], fun i => Machine.Num.sub rm (num f.c i) (Machine.Num.mul (num f.a i) (num f.b i))),
        (.vmax f, 4, [f.a, f.b], fun i => Machine.Num.max (num f.a i) (num f.b i)),
        (.vmin f, 4, [f.a, f.b], fun i => Machine.Num.min (num f.a i) (num f.b i)),
        (.vabs f, 4, [f.a], fun i => (num f.a i).abs), (.vneg f, 4, [f.a], fun i => (num f.a i).negate),
        (.vrcp f, 12, [f.a], fun i => (num f.a i).rcp), (.vrsqrt f, 12, [f.a], fun i => (num f.a i).rsqrt),
        (.vsqrt f, 20, [f.a], fun i => (num f.a i).sqrt), (.vexp2 f, 12, [f.a], fun i => (num f.a i).exp2),
        (.vlog2 f, 12, [f.a], fun i => (num f.a i).log2), (.vdiv f, 20, [f.a, f.b], fun i => Machine.Num.div (num f.a i) (num f.b i))] :
        List (Instr × Nat × List (BitVec 6) × (Nat → Machine.Num))),
      writesElements s t e.1 f e.2.1 e.2.2.1 fun i => convert (e.2.2.2 i) ty 0 rm f.sat f.fzo

/-- R385: the integer forms, elementwise: exact, then wrapped or clamped; a shift by the element of b, or by IMM7, of the width or more. -/
def VectorIntegers : Prop :=
  ∀ (s : State) (t k : Nat) (f : VForm) (lo hi : Int), s.cur = .stream t k → f.ty = 6 ∨ (9 ≤ f.ty.toNat ∧ f.ty.toNat ≤ 13) →
    intRange f.ty.toNat = some (lo, hi) →
    let x := s.tile t
    let w := typeBits f.ty.toNat
    let el (r : BitVec 6) (e : Nat) : Nat := velem x r w e
    let int (v : Nat) : Int := if lo < 0 then (BitVec.ofNat w v).toInt else v
    let wrap (z : Int) : Nat := ((if f.sat then max lo (min hi z) else z) % 2 ^ w).toNat
    let m (e : Nat) : Nat := if f.imm.toNat < 64 then el f.b e else f.imm.toNat % 32
    let shiftReads := if f.imm.toNat < 64 then [f.a, f.b] else [f.a]
    ∀ e ∈ ([(.vaddi f, 4, [f.a, f.b], fun i => wrap (int (el f.a i) + int (el f.b i))),
        (.vsubi f, 4, [f.a, f.b], fun i => wrap (int (el f.a i) - int (el f.b i))),
        (.vmuli f, 4, [f.a, f.b], fun i => wrap (int (el f.a i) * int (el f.b i))),
        (.vmaxi f, 4, [f.a, f.b], fun i => wrap (max (int (el f.a i)) (int (el f.b i)))),
        (.vmini f, 4, [f.a, f.b], fun i => wrap (min (int (el f.a i)) (int (el f.b i)))),
        (.vand f, 2, [f.a, f.b], fun i => el f.a i &&& el f.b i), (.vor f, 2, [f.a, f.b], fun i => el f.a i ||| el f.b i),
        (.vxor f, 2, [f.a, f.b], fun i => el f.a i ^^^ el f.b i), (.vnot f, 2, [f.a], fun i => 2 ^ w - 1 - el f.a i),
        (.vshl f, 4, shiftReads, fun i => if m i < w then el f.a i * 2 ^ m i else 0),
        (.vshr f, 4, shiftReads, fun i => if m i < w then el f.a i / 2 ^ m i else 0),
        (.vsra f, 4, shiftReads, fun i => ((BitVec.ofNat w (el f.a i)).sshiftRight (m i)).toNat)] :
        List (Instr × Nat × List (BitVec 6) × (Nat → Nat))),
      writesElements s t e.1 f e.2.1 e.2.2.1 e.2.2.2

/-- R384, R385: each elementwise form's latency, sources and value, merged under the predicate. Where it meets them, it rests on the model's own choices: log entry 11. -/
def Obligations.VectorArithmetic : Prop := VectorFloats ∧ VectorIntegers

/-- R386-R388, R327: moves, selection and comparison. -/
def VectorMoves : Prop :=
  (∀ (s : State) (t k : Nat) (f : VForm), s.cur = .stream t k →
    let x := s.tile t
    let w := typeBits f.ty.toNat
    let n := 2048 / w
    let el (r : BitVec 6) (e : Nat) : Nat := velem x r w e
    let j := f.imm.toNat
    (f.imm = 0 → writesElements s t (.vmov f) f 2 [f.a] (el f.a)) ∧
    (f.imm ≠ 0 → f.ty = 6 ∨ (9 ≤ f.ty.toNat ∧ f.ty.toNat ≤ 13) → writesElements s t (.vmov f) f 2 [] id) ∧
    (writesVector s t (.vsel f) f 2 [f.a, f.b] fun v => ∀ e < n, (v.extractLsb' (w * e) w).toNat =
      if laneActive x f (w * e / 32) then el f.a e else el f.b e) ∧
    (f.ty.toNat ≤ 2 ∨ (9 ≤ f.ty.toNat ∧ f.ty.toNat ≤ 12) →
      writesElements s t (.vbcast f) f 2 [f.a] (fun _ => el f.a j) ∧
      writesElements s t (.vins f) f 2 [f.a] (fun e => if e = j then el f.a 0 else el f.d e) ∧
      writesElements s t (.vext f) f 2 [f.a] (fun e => if e = 0 then el f.a j else 0) ∧
      writesElements s t (.vperm f) f 2 [f.a, f.b] (fun e => el f.a (el f.b e % n)) ∧
      writesElements s t (.vrot f) f 2 [f.a] (fun e => el f.a ((e + j) % n)) ∧
      (j < 2 → writesElements s t (.vshuf f) f 2 [f.a, f.b] fun e =>
        if e % 2 = 0 then el f.a (j * (n / 2) + e / 2) else el f.b (j * (n / 2) + e / 2)) ∧
      (2 ≤ j → j < 4 → writesElements s t (.vshuf f) f 2 [f.a, f.b] fun e =>
        if e < n / 2 then el f.a (2 * e + (j - 2)) else el f.b (2 * (e - n / 2) + (j - 2))))) ∧
  (∀ (s : State) (t k : Nat) (f : C16), s.cur = .stream t k →
    let d : BitVec 6 := f.x.setWidth 6
    let a : BitVec 6 := f.y.setWidth 6
    (s.tile t).vReady s.ccc [d.toNat, a.toNat] [] = true →
    exec (.vmovC f) s = .next ((s.setTile t ((s.tile t).setV s.ccc d 2 (tget 0 (s.tile t).vreg a.toNat))).retire 2)) ∧
  ∀ (s : State) (t k : Nat) (f : VForm), s.cur = .stream t k →
    let x := s.tile t
    let w := typeBits f.ty.toNat
    let kd := f.imm.toNat / 8 % 16
    let c := f.imm.toNat % 8
    let el (r : BitVec 6) (e : Nat) : Nat := velem x r w e
    x.vReady s.ccc [f.d.toNat, f.a.toNat, f.b.toNat] (kd :: if f.pv then [f.pk.toNat] else []) = true →
    ∀ holds : Nat → Bool,
      (f.ty.toNat ≤ 2 ∧ (∀ e, let p := flushIn f.fzi (decodeNum f.ty.toNat 0 (el f.a e)) f.ty.toNat
          let q := flushIn f.fzi (decodeNum f.ty.toNat 0 (el f.b e)) f.ty.toNat
          let nan := p.isNan || q.isNan
          holds e = [!nan && p.eq q, nan || !p.eq q, !nan && p.lt q, !nan && (p.lt q || p.eq q), !nan && !p.lt q && !p.eq q, !nan && !p.lt q, nan,
            !nan].getD c false) ∨
        (f.ty = 6 ∨ (9 ≤ f.ty.toNat ∧ f.ty.toNat ≤ 13)) ∧ (∀ e, let p := vInt f.ty.toNat (el f.a e)
          let q := vInt f.ty.toNat (el f.b e)
          holds e = [decide (el f.a e = el f.b e), decide (el f.a e ≠ el f.b e), decide (p < q), decide (p < q) || decide (el f.a e = el f.b e),
            !decide (p < q) && decide (el f.a e ≠ el f.b e), !decide (p < q), false, true].getD c false)) →
      ∃ v m, exec (.vcmp f) s = .next ((s.setTile t ((x.setV s.ccc f.d 4 v).setK s.ccc kd 4 m)).retire 8) ∧
        (∀ e < 2048 / w, (v.extractLsb' (w * e) w).toNat = if laneActive x f (w * e / 32) then (if holds e then 2 ^ w - 1 else 0) else el f.d e) ∧
        ∀ l < 64, m.getLsbD l = (laneActive x f l && (List.range (32 / w)).all fun i => holds (l * (32 / w) + i))

/-- The tree of R304 over neighbours, a missing leaf giving way to its neighbour. -/
def treeNode (op : Nat → Nat → Nat) (leaf : Nat → Option Nat) : Nat → Nat → Option Nat
  | 0, i => leaf i
  | n + 1, i => match treeNode op leaf n (2 * i), treeNode op leaf n (2 * i + 1) with
    | some a, some b => some (op a b)
    | some a, none => some a
    | none, y => y

/-- R389, R304: VRED writes the reduction of the active elements into element 0 and zero above; an integer sum is exact before it is wrapped or
clamped, and a floating-point one is the fixed tree's. VSCAN of an integer sum writes every prefix. -/
def VectorReductions : Prop :=
  ∀ (s : State) (t k : Nat) (f : VForm), s.cur = .stream t k →
    let x := s.tile t
    let ty := f.ty.toNat
    let w := typeBits ty
    let act (e : Nat) : Bool := laneActive x f (w * e / 32)
    let el (e : Nat) : Nat := velem x f.a w e
    (ty ≤ 1 ∨ ty = 9 ∨ ty = 11 →
      (writesVector s t (.vred f) f 12 [f.a] fun v => ∀ e, 0 < e → e < 2048 / w → v.extractLsb' (w * e) w = 0) ∧
      ∃ v, (s.tile t).vReady s.ccc [f.d.toNat, f.a.toNat] (if f.pv then [f.pk.toNat] else []) = true →
        exec (.vscan f) s = .next ((s.setTile t (x.setV s.ccc f.d 16 v)).retire 8)) ∧
    (∀ lo hi, ty = 9 ∨ ty = 11 → f.imm.toNat % 4 = 0 → intRange ty = some (lo, hi) →
      let wrap (z : Int) : Nat := ((if f.sat then max lo (min hi z) else z) % 2 ^ w).toNat
      let sum (n : Nat) : Int := ((List.range n).map fun e => if act e then vInt ty (el e) else 0).sum
      (writesVector s t (.vred f) f 12 [f.a] fun v => (v.extractLsb' 0 w).toNat = wrap (sum 64)) ∧
      writesVector s t (.vscan f) f 16 [f.a] fun v => ∀ e < 64, (v.extractLsb' (w * e) w).toNat = wrap (sum (e + 1))) ∧
    (ty ≤ 1 → f.imm.toNat % 4 ≤ 2 → ∀ r, treeNode (vNode f) (fun e => if e < 2048 / w ∧ act e = true then some (vLeaf f (el e)) else none) 7 0 = some r →
      writesVector s t (.vred f) f 12 [f.a] fun v => (v.extractLsb' 0 w).toNat = r % 2 ^ w)

/-- R390: a conversion's elements: the slice of the wider register is read or written, and cv makes an element from its source and its index in the narrower
one. -/
def converts (s : State) (t : Nat) (i : Instr) (f : VForm) (h : Nat) (reads : List (BitVec 6)) (cv : Nat → Nat → Nat) : Prop :=
  let x := s.tile t
  let w := typeBits f.ty.toNat
  let w2 := typeBits f.ty2.toNat
  let n := 2048 / max w w2
  h < max (w / w2) (w2 / w) → writesVector s t i f 4 reads fun v => ∀ e < 2048 / w, (v.extractLsb' (w * e) w).toNat =
    if laneActive x f (w * e / 32) = true ∧ (w ≤ w2 → h * n ≤ e ∧ e < h * n + n) then
      (if w ≤ w2 then cv (velem x f.a w2 (e - h * n)) e else cv (velem x f.a w2 (h * n + e)) (h * n + e)) % 2 ^ w
    else velem x f.d w e

/-- R390-R394: conversions, quantisation, dequantisation and block scales. -/
def VectorConversions : Prop :=
  ∀ (s : State) (t k : Nat) (f : VForm), s.cur = .stream t k →
    let x := s.tile t
    let src (v : Nat) (ct : Nat) : Machine.Num := flushIn f.fzi (decodeNum f.ty2.toNat ct v) f.ty2.toNat
    let blk := blockSize (f.imm.toNat % 4)
    let sfmt := f.imm.toNat / 4 % 4
    let slice := f.imm.toNat / 16
    let scale (e : Nat) : Nat := velem x f.b 8 (e / blk)
    (f.ty ≠ 8 → f.ty2 ≠ 8 → converts s t (.vcvt f) f (f.imm.toNat % 8) [f.a] fun v _ => convert (src v 0) f.ty.toNat 0 f.rm.toNat f.sat f.fzo) ∧
    (3 ≤ f.ty.toNat → f.ty.toNat ≤ 8 → f.ty2.toNat ≤ 1 → (f.ty = 8 → sfmt = 0) →
      (converts s t (.vquant f) f slice [f.a, f.b] fun v e =>
        convert (Machine.Num.div (src v 0) (decodeScale sfmt (scale e))) f.ty.toNat (scale e / 64) f.rm.toNat f.sat f.fzo) ∧
      let w2 := typeBits f.ty2.toNat
      let n := 2048 / w2 / blk
      let ct := if f.ty = 8 then f.rm.toNat else 0
      (slice < max (typeBits f.ty.toNat / w2) (w2 / typeBits f.ty.toNat) → writesVector s t (.vscale f) f 6 [f.a] fun v =>
        ∀ j < 256, (v.extractLsb' (8 * j) 8).toNat =
          if slice * n ≤ j ∧ j < slice * n + n then
            (blockScale sfmt f.ty.toNat ct ((List.range blk).filterMap fun i =>
              let e := (j - slice * n) * blk + i
              if laneActive x f (w2 * e / 32) then some (decodeNum f.ty2.toNat 0 (velem x f.a w2 e)) else none) + (if sfmt = 0 then ct * 64 else 0)) % 256
          else velem x f.d 8 j)) ∧
    (f.ty.toNat ≤ 1 → 3 ≤ f.ty2.toNat → f.ty2.toNat ≤ 8 → (f.ty2 = 8 → sfmt = 0) →
      converts s t (.vdequant f) f slice [f.a, f.b] fun v e =>
        convert (Machine.Num.mul (src v (scale e / 64)) (decodeScale sfmt (scale e))) f.ty.toNat 0 f.rm.toNat f.sat f.fzo)

/-- R240, R395-R397: conditional buffers, masks and operand queues. -/
def VectorQueuesAndMasks : Prop :=
  ∀ (s : State) (t k : Nat) (f : VForm), s.cur = .stream t k →
    let x := s.tile t
    let preds := if f.pv then [f.pk.toNat] else []
    (f.ty = 0 ∨ f.ty = 9 ∨ f.ty = 11 →
      (let b := x.cbuf f.d.toNat
        let vals := ((List.range 64).filter (laneActive x f)).map fun l => BitVec.ofNat 32 (velem x f.a 32 l)
        x.vReady s.ccc [f.a.toNat] preds = true → b.recs.length + vals.length ≤ 4096 →
        exec (.cpush f) s = .next ((s.setTile t (x.setCbuf f.d.toNat { recs := b.recs ++ vals, closed := false })).retire 8)) ∧
      (let b := x.cbuf f.a.toNat
        let kd := f.imm.toNat % 16
        x.vReady s.ccc [f.d.toNat] [kd] = true → 64 ≤ b.recs.length ∨ b.closed = true →
        ∃ v m c, exec (.cpop f) s = .next ((s.setTile t (((x.setCbuf f.a.toNat c).setV s.ccc f.d 4 v).setK s.ccc kd 4 m)).retire 8) ∧
          c.recs = b.recs.drop 64 ∧ (∀ l < 64, v.extractLsb' (32 * l) 32 = b.recs.getD l 0) ∧
          ∀ l < 64, m.getLsbD l = decide (l < b.recs.length))) ∧
    (f.ty = 0 → exec (.cbal f) s = .next ((s.setTile t (x.setCbuf f.d.toNat { recs := (x.cbuf f.d.toNat).recs, closed := true })).retire 8)) ∧
    (∀ e ∈ ([(.kand f, [f.a, f.b], x.k f.a.toNat &&& x.k f.b.toNat), (.kor f, [f.a, f.b], x.k f.a.toNat ||| x.k f.b.toNat),
        (.kxor f, [f.a, f.b], x.k f.a.toNat ^^^ x.k f.b.toNat), (.knot f, [f.a], ~~~ x.k f.a.toNat), (.kmov f, [f.a], x.k f.a.toNat),
        (.kpop f, [f.a], BitVec.ofNat 64 (2 ^ ((Finset.range 64).filter fun i => (x.k f.a.toNat).getLsbD i = true).card - 1))] :
        List (Instr × List (BitVec 6) × Word)),
      x.vReady s.ccc [] ((f.d :: e.2.1).map (·.toNat)) = true →
      ∃ u, exec e.1 s = .next u ∧ (u.tile t).k f.d.toNat = (if f.d = 0 then 0xFFFFFFFFFFFFFFFF else e.2.2) ∧
        (∀ r, r ≠ f.d.toNat → (u.tile t).k r = x.k r) ∧ (u.tile t).vreg = x.vreg ∧ u.hbm = s.hbm) ∧
    (∀ h rest, (x.oqueue f.a.toNat).ents = h :: rest → x.vReady s.ccc [f.d.toNat] preds = true →
      ∃ v, exec (.vpop f) s = .next ((s.setTile t ((x.popOq f.a.toNat).setV s.ccc f.d 1 v)).retire 8) ∧
        ∀ l < 64, v.extractLsb' (32 * l) 32 = if laneActive x f l then h.extractLsb' (32 * l) 32 else (tget 0 x.vreg f.d.toNat).extractLsb' (32 * l) 32) ∧
    (x.vReady s.ccc [f.a.toNat] [] = true → (x.oqueue f.d.toNat).used < 16 →
      exec (.vpush f) s = .next ((s.setTile t (x.pushOq f.d.toNat (tget 0 x.vreg f.a.toNat))).retire 8))

/-! ## Matrix class -/

/-- A matrix instruction of tile t may issue now: by its stamp, in its mode, with no drain of its predicate's tag under way and its energy in the budget
(R242, R244, R245, R401). -/
def matrixMay (s : State) (t k : Nat) (dt : BitVec 8) (ec : BitVec 2) (pv : Bool) (pk : BitVec 4) : Prop :=
  let m := (s.tile t).mx
  let c := s.ctxOfTile t
  let p := m.p + dt.setWidth 64
  let reach := (s.strm s.cur).reached.getD s.ccc
  s.cur = .stream t k ∧
    (dt = 0 ∨ (s.strm s.cur).free = true ∨ (m.strict = false ∧ m.run = false) ∨ (m.strict = true ∧ m.run = true ∧ s.ccc = p ∧ reach < p) ∨
      (m.strict = false ∧ m.run = true ∧ p ≤ s.ccc ∧ (p = s.ccc → reach < p))) ∧
    (pv = true → ∀ d ∈ m.drains, d.tag ≠ some pk.toNat) ∧ (s.debits c = true → 2 ^ ec.toNat ≤ s.cxF c cEBUDGET 0 32)

/-- The state in which it issues: its energy debited and its stamp taken. -/
def matrixStart (s : State) (t : Nat) (dt : BitVec 8) (ec : BitVec 2) : State :=
  let c := s.ctxOfTile t
  (s.setRegF (offCtx c cEBUDGET) 0 32 (s.cxF c cEBUDGET 0 32 - if s.debits c then 2 ^ ec.toNat else 0)).modTile t fun y =>
    y.modMx fun k => k.stamped s.ccc dt (s.strm s.cur).free

/-- R242-R245, R399, R402: what every issue does, shown by MNOP: P becomes the cycle, a zero dt ends the run, a late elastic issue in a run counts, and the
budget pays 2^EC. A strict instruction in a run whose cycle is not after the one in which the stream reached it raises SCHED_MISS and stays at
its pc, P being its scheduled cycle (R242, R402; what reaching means is log entry 107). -/
def MatrixStamps : Prop :=
  (∀ (s : State) (t k : Nat) (f : MForm), matrixMay s t k f.dt f.ec f.pv f.pk →
    let m := (s.tile t).mx
    let c := s.ctxOfTile t
    ∃ u, exec (.mnop f) s = .next u ∧ u = (matrixStart s t f.dt f.ec).retire 8 ∧ (u.tile t).mx.p = s.ccc ∧
      (u.tile t).mx.run = (if f.dt = 0 then false else m.run) ∧ (u.tile t).mx.acc = m.acc ∧ (u.tile t).mx.wb = m.wb ∧ (u.tile t).mx.planes = m.planes ∧
      (u.tile t).mx.smiss = (if f.dt ≠ 0 ∧ (s.strm s.cur).free = false ∧ m.run = true ∧ m.strict = false ∧ m.p + f.dt.setWidth 64 < s.ccc ∧
        m.smiss ≠ 0xFFFFFFFF then m.smiss + 1 else m.smiss) ∧
      u.cxF c cEBUDGET 0 32 = s.cxF c cEBUDGET 0 32 - (if s.debits c then 2 ^ f.ec.toNat else 0)) ∧
  (∀ (s : State) (t k : Nat) (f : MnopC), matrixMay s t k f.dt 0 false 0 → exec (.mnopC f) s = .next ((matrixStart s t f.dt 0).retire 2)) ∧
  ∀ (s : State) (t k : Nat) (f : MForm), s.cur = .stream t k → f.dt ≠ 0 → (s.strm s.cur).free = false → (s.tile t).mx.strict = true →
    (s.tile t).mx.run = true → (s.tile t).mx.p + f.dt.setWidth 64 ≤ s.ccc →
    (s.tile t).mx.p + f.dt.setWidth 64 ≤ (s.strm s.cur).reached.getD s.ccc →
    ∃ u p, exec (.mnop f) s = .next u ∧ (u.strm s.cur).stop = some p ∧ p.cause = .schedMiss ∧ (u.strm s.cur).pc = (s.strm s.cur).pc ∧
      (u.tile t).mx.p = (s.tile t).mx.p + f.dt.setWidth 64

/-- R402-R405: stamp runs, modes, waits, tensor scales, NaN status and routes, in the state in which each issues. -/
def MatrixControl : Prop :=
  ∀ (s : State) (t k : Nat) (f : MForm), matrixMay s t k f.dt f.ec f.pv f.pk →
    let s1 := matrixStart s t f.dt f.ec
    let now := s.ccc.toNat
    let act := !(s.tile t).suppressed f.pv f.pn f.pk
    (∃ u, exec (.mstamp f) s = .next u ∧ (u.tile t).mx.p = s.ccc + BitVec.ofNat 64 (64 * f.a.toNat + f.b.toNat) ∧ (u.tile t).mx.run = true) ∧
    (∃ u, exec (.mstampAl f) s = .next u ∧ (u.tile t).mx.p = BitVec.ofNat 64 ((now / 2 ^ f.a.toNat + 1) * 2 ^ f.a.toNat + f.b.toNat) ∧
      (u.tile t).mx.run = true) ∧
    (∃ u, exec (.mmode f) s = .next u ∧ (u.tile t).mx.strict = decide (f.d = 1)) ∧
    (f.b = 0 → (s.tile t).mx.drains = [] → (s.tile t).mx.epiFree ≤ now → exec (.mwait f) s = .next (s1.retire 8)) ∧
    (∀ s2, f.b ≠ 0 → f.b.toNat ≤ ((s.tile t).flag f.d.toNat).toNat → s1.flagReserve 3 t f.d.toNat = .ok s2 →
      f.b.toNat ≤ ((s2.tile t).flag f.d.toNat).toNat →
      ∃ u, exec (.mwait f) s = .next u ∧ ((u.tile t).flag f.d.toNat).toNat = ((s2.tile t).flag f.d.toNat).toNat - f.b.toNat) ∧
    (∃ u, exec (.mtscale f) s = .next u ∧
      let v := BitVec.ofNat 16 (f.a.toNat * 2 ^ 10 + f.b.toNat * 2 ^ 4 + f.c.toNat % 16)
      (u.tile t).mx.ta = (if act = true ∧ f.d ≠ 1 then v else (s.tile t).mx.ta) ∧ (u.tile t).mx.tb = if act = true ∧ f.d = 1 then v else (s.tile t).mx.tb) ∧
    (∀ h rest, ((s.tile t).oqueue (4 + f.a.toNat)).ents = h :: rest → (∀ r ∈ (s.tile t).mx.runs, 4 + f.a.toNat ∉ r.job.queues) →
      (∃ u, exec (.mtscaleQ f) s = .next u ∧ ((u.tile t).oqueue (4 + f.a.toNat)).ents = rest ∧
        (u.tile t).mx.ta = (if act = true ∧ f.d ≠ 3 then h.setWidth 16 else (s.tile t).mx.ta) ∧
        (u.tile t).mx.tb = if act = true ∧ f.d = 3 then h.setWidth 16 else (s.tile t).mx.tb) ∧
      (h.extractLsb' 24 40 = 0 → h.extractLsb' 104 24 = 0 → (h.getLsbD 0 = true → s.isMember (s.ctxOfTile t) (h.extractLsb' 1 10).toNat = true) →
        ∃ u, exec (.mroute f) s = .next u ∧ ((u.tile t).oqueue (4 + f.a.toNat)).ents = rest ∧
          (u.tile t).mx.mxrt = if act = true then h.setWidth 128 else (s.tile t).mx.mxrt)) ∧
    ((∀ d ∈ (s.tile t).mx.drains, ∀ j, d.tag = some j → ¬ (f.d.toNat ≤ j ∧ j < f.d.toNat + f.a.toNat)) →
      ∃ u, exec (.mnstat f) s = .next u ∧ ∀ j, tget 0 (u.tile t).nst j =
        if act = true ∧ f.d.toNat ≤ j ∧ j < f.d.toNat + f.a.toNat then 0 else tget 0 (s.tile t).nst j)

/-- R406-R408: an MWLD takes its first entry at issue into its slot; an MWSEL of a good image loads its plane, which is busy for 64 cycles. -/
def MatrixWeights : Prop :=
  ∀ (s : State) (t k : Nat) (f : MForm), matrixMay s t k f.dt f.ec f.pv f.pk →
    let m := (s.tile t).mx
    let now := s.ccc.toNat
    let act := !(s.tile t).suppressed f.pv f.pn f.pk
    (∀ h rest, let n := 64 * f.c.toNat + f.b.toNat
      let q := 4 + f.a.toNat
      1 ≤ n → 4096 * f.d.toNat + 256 * n ≤ 262144 → m.slotsIdle now (slotsOf f.d.toNat (256 * n)) = true → (∀ r ∈ m.runs, q ∉ r.job.queues) →
      ((s.tile t).oqueue q).ents = h :: rest →
      ∃ u, exec (.mwld f) s = .next u ∧ ((u.tile t).oqueue q).ents = rest ∧ (u.tile t).mx.runs.length = m.runs.length + (if n = 1 then 0 else 1) ∧
        (∀ j < 256, mread (u.tile t).mx.wb (4096 * f.d.toNat + j) = if act then h.extractLsb' (8 * j) 8 else mread m.wb (4096 * f.d.toNat + j)) ∧
        ∀ j, j < 4096 * f.d.toNat ∨ 4096 * f.d.toNat + 256 ≤ j → mread (u.tile t).mx.wb j = mread m.wb j) ∧
    (let p := f.a.toNat
      let img := imgAt m.wb f.d.toNat
      m.loadFree ≤ now → m.planeIdle now p = true → m.slotsIdle now [f.d.toNat] = true → imgBad img f.d.toNat = false →
      m.slotsIdle now (slotsOf f.d.toNat (imgLen (imgHead img))) = true →
      ∃ u, exec (.mwsel f) s = .next u ∧ (u.tile t).mx.wb = m.wb ∧ (u.tile t).mx.acc = m.acc ∧ (u.tile t).mx.loadFree = now + 64 ∧
        tget 0 (u.tile t).mx.planeFree p = now + 64 ∧ (u.tile t).mx.plane p = if act then planeOf m.wb f.d.toNat true else m.plane p)

/-- R305, R308-R310, R409-R412, R414: multiplication, the Hadamard transform, quantisation, and raw loads and zeroing of rows. -/
def MatrixArithmetic : Prop :=
  ∀ (s : State) (t k : Nat) (f : MForm), matrixMay s t k f.dt f.ec f.pv f.pk →
    let m := (s.tile t).mx
    let now := s.ccc.toNat
    let act := !(s.tile t).suppressed f.pv f.pn f.pk
    let row := 8 * f.d.toNat
    let rows := 8 * (f.c.toNat + 1)
    let ty := f.ty.toNat
    (∀ h rest hs rests, row + rows ≤ 512 →
      let p := f.a.toNat % 2
      let blk := f.a.toNat / 4 % 4
      let sfmt := f.a.toNat / 16 % 4
      let sel := f.a.toNat / 2 % 2
      let img := (m.plane p).img
      let kt := depth (imgFmt (imgHead img))
      let ku := if f.b = 0 then kt else 32 * f.b.toNat
      m.arrayIdle now = true → m.planeIdle now p = true → m.rowsIdle now row rows true = true → (m.plane p).valid = true → ku ≤ kt →
      mmaGroup ty ≠ 0 → mmaGroup ty = mmaGroup (imgFmt (imgHead img)) → (blk ≠ 0 → ty ≠ 1 ∧ ty ≠ 6 ∧ sel = 0) → (ty = 8 → blk ≠ 0 ∧ sfmt = 0) →
      (blk = 0 ∨ imgBlk (imgHead img) = 0 ∨ blk = imgBlk (imgHead img)) → (∀ r ∈ m.runs, ∀ q ∈ r.job.queues, q ≠ 4 + sel ∧ (blk ≠ 0 → q ≠ 5)) →
      ((s.tile t).oqueue (4 + sel)).ents = h :: rest → (blk ≠ 0 → ((s.tile t).oqueue 5).ents = hs :: rests) →
      ∀ e ∈ ([(.mma f, false), (.mmaz f, true)] : List (Instr × Bool)),
        ∃ u, exec e.1 s = .next u ∧ ((u.tile t).oqueue (4 + sel)).ents = rest ∧ (u.tile t).mx.wb = m.wb ∧
          (∀ j < 128, tget 0 (u.tile t).mx.acc (128 * row + j) = if act then
            mmaElem img ty blk sfmt ku h (if blk = 0 then 0 else hs) j (if e.2 then 0 else tget 0 m.acc (128 * row + j))
            else tget 0 m.acc (128 * row + j)) ∧
          ∀ i, i < 128 * row ∨ 128 * row + 128 ≤ i → tget 0 (u.tile t).mx.acc i = tget 0 m.acc i) ∧
    (let n := 2 ^ f.b.toNat;
      4 ≤ f.b.toNat → f.b.toNat ≤ 6 →
      (f.a = 0 → ty = 0 → row + rows ≤ 512 → m.rowsIdle now row rows false = true →
        ∃ u, exec (.mhad f) s = .next u ∧ ∀ i j, i < 512 → j < 128 → tget 0 (u.tile t).mx.acc (128 * i + j) =
          if act = true ∧ row ≤ i ∧ i < row + rows then
            BitVec.ofNat 32 ((hadamard 0 f.rm.toNat ((List.range n).map fun x => decodeNum 0 0 (tget 0 m.acc (128 * i + (j / n * n + x))).toNat)).getD (j % n) 0)
          else tget 0 m.acc (128 * i + j)) ∧
      (let p := f.a.toNat / 2 % 2
        let img := (m.plane p).img
        let hd := imgHead img
        f.a ≠ 0 → m.arrayIdle now = true → m.planeIdle now p = true → (m.plane p).valid = true → ty = imgFmt hd → ty = 1 ∨ ty = 3 ∨ ty = 4 →
        imgBlk hd = 0 → imgCmp hd = 0 → m.slotsIdle now (slotsOf (m.plane p).slot (imgLen hd)) = true →
        ∃ u, exec (.mhad f) s = .next u ∧ (u.tile t).mx.acc = m.acc ∧ tget 0 (u.tile t).mx.planeFree p = now + 64 ∧
          ∀ i j, i < depth ty → j < 128 →
            let b := typeBits ty / 8
            mval ((u.tile t).mx.plane p).img (64 + b * (128 * i + j)) b = if act then
              (hadamard ty f.rm.toNat ((List.range n).map fun x => planeNum img (i / n * n + x) j)).getD (i % n) 0 % 256 ^ b
              else mval img (64 + b * (128 * i + j)) b)) ∧
    (let slot := f.a.toNat
      let blk := f.b.toNat % 4
      let sfmt := f.b.toNat / 4 % 4
      let qt := f.b.toNat / 16
      let img := m.quantImage row rows ty blk sfmt qt f.rm.toNat f.sat f.fzo
      let len := 64 + 16384 + (if blk = 0 then 0 else 128 * (depth ty / blockSize blk))
      row + rows ≤ 512 → wFormat ty = true → (blk ≠ 0 → ty ≠ 1 ∧ rows % blockSize blk = 0) → (ty = 8 → blk ≠ 0 ∧ sfmt = 0) → rows ≤ depth ty →
      4096 * slot + len ≤ 262144 → m.epiIdle now = true → m.rowsIdle now row rows false = true → m.slotsIdle now (slotsOf slot len) = true →
      ∃ u, exec (.mquant f) s = .next u ∧ (u.tile t).mx.acc = m.acc ∧ img.length = len ∧
        (∀ j < len, mread (u.tile t).mx.wb (4096 * slot + j) = if act then img.getD j 0 else mread m.wb (4096 * slot + j)) ∧
        ∀ j, j < 4096 * slot ∨ 4096 * slot + len ≤ j → mread (u.tile t).mx.wb j = mread m.wb j) ∧
    (row + rows ≤ 512 → m.rowsIdle now row rows false = true →
      (∃ u, exec (.mzero f) s = .next u ∧ (u.tile t).mx.wb = m.wb ∧ ∀ i, tget 0 (u.tile t).mx.acc i =
        if act = true ∧ 128 * row ≤ i ∧ i < 128 * (row + rows) then 0 else tget 0 m.acc i) ∧
      ∀ h rest, let q := 4 + f.a.toNat
        ((s.tile t).oqueue q).ents = h :: rest → (∀ r ∈ m.runs, q ∉ r.job.queues) →
        ∃ u, exec (.maccld f) s = .next u ∧ ((u.tile t).oqueue q).ents = rest ∧
          ∀ i, tget 0 (u.tile t).mx.acc i =
            if act = true ∧ 128 * row ≤ i ∧ i < 128 * row + 64 then h.extractLsb' (32 * (i - 128 * row)) 32 else tget 0 m.acc i)

/-- R307, R311, R413, R414: a drain leaves with its rows as they are then, to its scratchpad ranges, tensor or peer, and writes no byte yet; MACCST likewise
with the raw rows. A line is written when its banks grant it; with the last one, DRAIN_COMPLETE sets the NaN status and signals the flag. -/
def MatrixDrains : Prop :=
  (∀ (s : State) (t k : Nat) (f : MForm), matrixMay s t k f.dt f.ec f.pv f.pk →
    let m := (s.tile t).mx
    let now := s.ccc.toNat
    let act := !(s.tile t).suppressed f.pv f.pn f.pk
    let row := 8 * f.d.toNat
    let rows := 8 * (f.c.toNat + 1)
    let ty := f.ty.toNat
    let kind := f.a.toNat / 16
    let vals := (List.range rows).map fun i => (List.range 128).map fun j => m.drainValue ty f.rm.toNat f.sat f.fzo (row + i) j
    let rb := 16 * typeBits ty
    let bytes := vals.map fun r => leBytes rb (packNat (typeBits ty) r)
    let c := s.ctxOfTile t
    let leaves (i : Instr) (d : Drain → Prop) : Prop := ∃ u x, exec i s = .next u ∧ (u.tile t).mx.drains = m.drains ++ [(x : Drain)] ∧ x.r0 = row ∧ x.rows = rows ∧
      x.flag = f.b.toNat ∧ x.act = act ∧ (u.tile t).mx.acc = m.acc ∧ (u.tile t).spad = (s.tile t).spad ∧ u.hbm = s.hbm ∧ d x
    row + rows ≤ 512 → m.epiIdle now = true → m.rowsIdle now row rows false = true → s.undoUse c + 2 ^ 22 ≤ s.undoSize c →
    (drainType ty = true → kind = 3 → m.mxrt.getLsbD 0 = true → leaves (.mdrain f) fun x => x.tag = some (f.a.toNat % 16) ∧ x.lines.flatten = [] ∧
      x.data = bytes.flatten ∧ x.route = some ((m.mxrt.extractLsb' 1 10).toNat, (m.mxrt.extractLsb' 11 12).toNat, (m.mxrt.extractLsb' 64 40).toNat)) ∧
    ∀ h rest, ((s.tile t).oqueue 5).ents = h :: rest → (∀ r ∈ m.runs, 5 ∉ r.job.queues) →
      (∀ off stride, h.toNat % 2 ^ 64 = off + stride * 2 ^ 24 → stride < 2 ^ 24 → off % 64 = 0 → stride % 64 = 0 →
        (drainType ty = true → kind = 0 → off + stride * (rows - 1) + rb ≤ 2 ^ 21 → leaves (.mdrain f) fun x =>
          x.tag = some (f.a.toNat % 16) ∧ x.route = none ∧ (act = true → x.lines.flatten.flatMap (·.data) = bytes.flatten ∧
            x.lines.flatten.map (·.pa) = (List.range rows).flatMap fun i => (List.range (rb / 64)).map fun k => off + stride * i + 64 * k)) ∧
        (off + stride * (rows - 1) + 512 ≤ 2 ^ 21 → leaves (.maccst f) fun x => x.tag = none ∧ x.route = none ∧ (act = true →
          x.lines.flatten.flatMap (·.data) = ((List.range rows).flatMap fun i =>
            (List.range 128).flatMap fun j => leBytes 4 (tget 0 m.acc (128 * (row + i) + j)).toNat) ∧
          x.lines.flatten.map (·.pa) = (List.range rows).flatMap fun i => (List.range 8).map fun k => off + stride * i + 64 * k))) ∧
      ∀ lines, drainType ty = true → kind = 1 ∨ kind = 2 → s.drainTensor t (kind == 2) act f h vals = .ok lines → segsBytes lines.flatten ≤ 2 ^ 21 →
        leaves (.mdrain f) fun x => (act = true → x.lines = lines) ∧ x.shadow = (kind == 2) ∧ x.tensor = some (h.toNat % 256)) ∧
  (∀ (s : State) (t bank : Nat) (d : Drain) (g : Seg), s.drainNext t = some (d, [g]) → g.akind = 0 → g.addr.toNat % 256 = t → g.keepLow = false →
    g.keepHigh = false → g.data.length = g.len →
    let u := s.portGranted t bank .drain;
    (∀ i < g.len, mread (u.tile t).spad (g.pa + i) = g.data.getD i 0) ∧
    (∀ i, i < g.pa ∨ g.pa + g.len ≤ i → mread (u.tile t).spad i = mread (s.tile t).spad i) ∧
    (u.tile t).mx.drains = { d with lines := d.lines.drop 1, due := s.ccc.toNat + 1 } :: (s.tile t).mx.drains.drop 1) ∧
  ∀ (s : State) (t : Nat) (d : Drain) (j : Nat), (s.tile t).mx.drains = [d] → d.lines = [] → d.act = true → d.route = none → d.tag = some j →
    (s.strm (.stream t 3)).stop = none →
    ∃ u, exec (.drainComplete t 0) s = .next u ∧ (u.tile t).mx.drains = [] ∧ (u.tile t).spad = (s.tile t).spad ∧
      (tget 0 (u.tile t).nst j = tget 0 (s.tile t).nst j ||| d.status.setWidth 3 ||| 4) ∧
      (u.tile t).flag d.flag = (if (s.tile t).flag d.flag = 0xFFFF then 0xFFFF else (s.tile t).flag d.flag + 1)
/-! ## Commands of the engine, message and system classes -/

/-- The event unit takes an event now: it has taken none this Ferry cycle, its action queue has room, and no event that completed earlier waits
(R77, R78, R97). -/
def unitFree (s : State) : Prop := s.actions.length < 4096 ∧ s.evUsed < 2 ∧ s.eventsBehind = false

/-- A command may take its sources and destination now: none of its issuer's is under way (R417). -/
def commandMay (s : State) (f : CmdE) : Prop :=
  (∀ o ∈ (s.scal s.cur).ops, o.command = false) ∧ s.Full f.a ∧ s.Full f.b ∧ s.Full f.c ∧ s.Free f.d

/-- The same of a Ferry thread whose context has system privilege, for what only it may issue. -/
def systemMay (s : State) (f : CmdE) : Prop := commandMay s f ∧ (∃ n, s.cur = .thread n) ∧ s.sysPriv s.cmdCtx = true

/-- A command has taken effect, and its value is on its way to d (R417). -/
def answers (s : State) (f : CmdE) (v a b : Word) : State := s.starts f.d (.value v) 1 a b 8 true

/-- A command goes on waiting as a variable-latency operation of d. -/
def awaits (s : State) (f : CmdE) (k : VarKind) (a b : Word) : State := s.starts f.d k 1 a b 8 true

/-- A status word: CODE, DETAIL and bit 63 (R417). -/
def statusWord (code detail : Nat) : Word := BitVec.ofNat 64 (code + detail % 2 ^ 48 * 256 + 2 ^ 63)

/-- R87, R421: the counter commands on a counter the issuer may name; a CWAIT whose threshold has not passed waits. The counter reads its new value. -/
def CounterCommands : Prop :=
  (∀ (s : State) (f : CmdE) (n : Nat), commandMay s f → unitFree s → s.rs f.a = BitVec.ofNat 64 n → n < 2 ^ 14 → bit (s.reg (offCntCtl n)) 0 = true →
    s.ownsCnt s.cmdCtx n = true ∨ s.sysPriv s.cmdCtx = true →
    let a := s.rs f.a
    let b := s.rs f.b
    let v := s.cnt n
    exec (.cinc f) s = .next (answers (s.accept.setCounter n (v + 1) none) f (v + 1) a b) ∧
    exec (.cset f) s = .next (answers (s.accept.setCounter n b none) f v a b) ∧
    exec (.cadd f) s = .next (answers (s.accept.setCounter n (v + b) none) f (v + b) a b) ∧
    exec (.cread f) s = .next (answers s.accept f v a b) ∧
    ((v - b).toNat < 2 ^ 63 → exec (.cwait f) s = .next (answers s.accept f v a b)) ∧
    (2 ^ 63 ≤ (v - b).toNat → exec (.cwait f) s = .next (awaits s.accept f (.cwait n b) a b))) ∧
  ∀ (s : State) (n : Nat) (v : Word) (arr : Option Arrival), n < 2 ^ 14 → (s.setCounter n v arr).cnt n = v

/-- R83, R84, R423, R424: ARM of a good image installs it in the lowest free entry; DISARM clears LINKED and TEN, and VALID when no deposit is under way; ARMQ
writes the entry's 64 bytes; TRIG queues the entry's list once. -/
def MatchTableCommands : Prop :=
  (∀ (s s1 s2 : State) (f : CmdE) (n i : Nat) (bs : List Byte), s.cur = .thread n → commandMay s f → unitFree s1 → bit (s.reg offMatchCtl) 1 = true →
    s.readOperand (s.rs f.a) 64 64 = .ok (bs, s1) → s1.accept.arm s.cmdCtx (BitVec.ofNat 512 (leNat bs)) (f.imm.getLsbD 0) = .ok (i, s2) →
    exec (.arm f) s = .next (answers s2 f (BitVec.ofNat 64 i) (s.rs f.a) 0)) ∧
  (∀ (s s2 : State) (c i : Nat) (e : BitVec 512), s.ux = [] → s.arm c e false = .ok (i, s2) → c < 64 →
    eValid (s.entry i) = false ∧ eOutst (s.entry i) = 0 ∧ (∀ j < i, eValid (s.entry j) = true ∨ eOutst (s.entry j) ≠ 0) ∧
    eValid (s2.entry i) = true ∧ eLinked (s2.entry i) = !eTrig e ∧ eTen (s2.entry i) = false ∧ eCtx (s2.entry i) = c ∧ eMb (s2.entry i) = eMb e ∧
    eIgn (s2.entry i) = eIgn e ∧ eCnt (s2.entry i) = eCnt e ∧ eArmseq (s2.entry i) = s.armSeq.toNat ∧ (∀ j, j ≠ i → s2.entry j = s.entry j)) ∧
  ∀ (s : State) (f : CmdE) (i : Nat), commandMay s f → unitFree s → s.rs f.a = BitVec.ofNat 64 i → i < 65536 →
    eCtx (s.entry i) = s.cmdCtx ∨ s.sysPriv s.cmdCtx = true →
    (eValid (s.entry i) = true → (∃ n, s.cur = .thread n) → ∃ u, exec (.disarm f) s = .next u ∧ eLinked (u.entry i) = false ∧ eTen (u.entry i) = false ∧
      eValid (u.entry i) = decide (eOutst (s.entry i) ≠ 0) ∧ (∀ j, j ≠ i → u.entry j = s.entry j)) ∧
    (∀ s1, (∃ n, s.cur = .thread n) → s.accept.writeOperand (s.rs f.b) (leBytes 64 (s.entry i).toNat) 64 = .ok s1 →
      exec (.armq f) s = .next (answers s1 f 0 (s.rs f.a) (s.rs f.b))) ∧
    (eValid (s.entry i) = true → s.paused (eCtx (s.entry i)) = false → ∃ u g, exec (.trig f) s = .next u ∧ u.actions = s.actions ++ [(g : Firing)] ∧ g.entry = i ∧
      g.next = 0 ∧ g.acts.length = eActs (s.entry i) ∧ g.value = s.cnt (eCnt (s.entry i)) ∧ (∀ j, j ≠ i → u.entry j = s.entry j))

/-- The counter and match-table commands. Where it meets them, it rests on the model's own choices: log entries 41, 42, 46, 119 and 132. -/
def Obligations.EngineCommands : Prop := CounterCommands ∧ MatchTableCommands

/-- R197, R198, R430-R433: while the event unit takes events (R77, R418), KICK sets an itinerary's pending kick; LAUNCH queues its task on every tile of its rectangle, or on none; PATCH and PATCH.M change
Ferry SRAM; and QCTL's four forms. Where it meets them, it rests on the model's own choices: log entries 54, 55, 56 and 58. -/
def Obligations.SchedulerCommands : Prop :=
  (∀ (s : State) (f : CmdE) (i addr n : Nat), commandMay s f → unitFree s → s.rs f.a = BitVec.ofNat 64 i → i < 256 → s.rs f.b = BitVec.ofNat 64 addr →
    s.rs f.c = BitVec.ofNat 64 n → addr < 2 ^ 26 → addr % 16 = 0 → n < 65536 → (n = 0 ∨ s.inRegion s.cmdCtx addr (16 * n) = true) →
    s.itinOk s.cmdCtx i = true →
    (s.pending? i = true → exec (.kick f) s = .next (answers s.accept f (statusWord 1 0) (s.rs f.a) (s.rs f.b))) ∧
    (s.pending? i = false → ∃ u, exec (.kick f) s = .next u ∧ u.pending? i = true ∧ iPend (u.itin i) = true ∧ iPaddr (u.itin i) = addr ∧
      iPcnt (u.itin i) = n ∧ u.sram = s.sram) ∧
    ((∃ m, s.cur = .thread m) → iRun (s.itin i) = false → iPend (s.itin i) = false →
      (∀ p ∈ s.patchList addr n, s.patchBad (s.itin i) p.1 p.2 = false) →
      exec (.patch f) s = .next (answers (s.accept.patchApply (s.itin i) (s.patchList addr n)) f 0 (s.rs f.a) (s.rs f.b)))) ∧
  (∀ (s : State) (f : CmdE) (d : BitVec 1024) (rect : Nat), commandMay s f → unitFree s → (s.rs f.b).toNat = rect → rect < 2 ^ 14 →
    s.launchTask s.cmdCtx (s.rs f.a).toNat rect = .ok d →
    let q := f.imm.toNat % 8
    ((∃ t ∈ rectTiles rect, 64 ≤ ((s.tile t).queue q).tasks.length) →
      exec (.launch f) s = .next (answers s.accept f (statusWord 1 0) (s.rs f.a) (s.rs f.b))) ∧
    ((∀ t ∈ rectTiles rect, ((s.tile t).queue q).tasks.length < 64) → ∃ u, exec (.launch f) s = .next u ∧
      ∀ t ∈ rectTiles rect, ((u.tile t).queue q).tasks =
        ((s.tile t).queue q).tasks ++ [{ desc := d, ctx := (s.tileCtx t).getD 0, rect := BitVec.ofNat 14 rect, saved := false, parked := {} }])) ∧
  (∀ (s s1 : State) (f : CmdE) (m b n : Nat) (bs : List Byte), s.cur = .thread m → commandMay s f → (s.rs f.a).toNat % 16 = 0 →
    s.rs f.b = BitVec.ofNat 64 b → s.rs f.c = BitVec.ofNat 64 n → b % 16 = 0 → n % 16 = 0 → 16 ≤ n → n ≤ 65536 → b + n ≤ 2 ^ 26 →
    s.inRegion s.cmdCtx b n = true → s.nodesBusy b n = false → s.readOperand (s.rs f.a) n 16 = .ok (bs, s1) → unitFree s1 →
    ∃ u, exec (.patchM f) s = .next u ∧ (∀ j < bs.length, mread u.sram (b + j) = bs.getD j 0) ∧
      ∀ j, j < b ∨ b + bs.length ≤ j → mread u.sram j = mread s1.sram j) ∧
  ∀ (s : State) (f : CmdE) (t q : Nat), commandMay s f → s.rs f.a = BitVec.ofNat 64 (t + 256 * q) → t < 256 → q < 8 →
    s.tileCtx t = some s.cmdCtx ∨ s.sysPriv s.cmdCtx = true →
    (((s.rs f.b).toNat < 256 → ∃ u, exec (.qctlTickets f) s = .next u ∧ ((u.tile t).queue q).tickets = (s.rs f.b).setWidth 8 ∧
      ((u.tile t).queue q).tasks = ((s.tile t).queue q).tasks)) ∧
    ((s.tile t).rerun = none → ∃ u k, exec (.qctlFlush f) s = .next u ∧ ((u.tile t).queue q).tasks = ((s.tile t).queue q).tasks.filter (·.saved) ∧
      k + ((u.tile t).queue q).tasks.length = ((s.tile t).queue q).tasks.length ∧
      ∃ v : State, u = answers v f (BitVec.ofNat 64 k) (s.rs f.a) (s.rs f.b)) ∧
    (s.cur.tile? ≠ some t → (s.tile t).task = none → exec (.qctlPreempt f) s = .next (answers s f (statusWord 5 0) (s.rs f.a) (s.rs f.b))) ∧
    (s.cur.tile? ≠ some t → (s.tile t).task ≠ none → (s.tile t).collect = none → ∃ u, exec (.qctlPreempt f) s = .next u ∧
      (u.tile t).collect = some { stage := 0, since := s.ccc } ∧ ∃ v : State, u = awaits v f (.preemption t) (s.rs f.a) (s.rs f.b)) ∧
    ∃ v, exec (.qctlRead f) s = .next (answers s f v (s.rs f.a) (s.rs f.b)) ∧ v.toNat % 256 = ((s.tile t).queue q).tickets.toNat ∧
      (((s.tile t).queue q).tasks.length < 128 → v.toNat / 256 % 128 = ((s.tile t).queue q).tasks.length)

/-- A strait send of a thread leaves or is queued on its own chip: the last part of USEND and MREPLY. -/
def sendsMessage (s : State) (i : Instr) (s1 : State) (f : CmdE) (wait : Bool) (dcv : Option Nat) (a b : Word) (dst : Nat) (mb hdata : Word)
    (data : List Byte) : Prop :=
  ∀ u, (s1.newSend f wait dcv a b).2.sendOut (s1.newSend f wait dcv a b).1 { port := none, dest := dst, mb := mb, hdata := hdata, data := data } = .ok u →
    exec i s = .next u ∧ ∃ e k, u.sends = s1.sends ++ [(e : Send)] ∧ e.who = some s1.cur ∧ e.wait = wait ∧ e.dcv = dcv ∧ u.sent = s1.sent ++ [(k : Sent)] ∧
      k.send = some e.id ∧ k.dst = dst ∧ k.status = none

/-- R425-R429: a USEND and an MREPLY to a member chip, an UPUT to a peer and to the host, MRECV and MPOLL, while the event unit takes events (R418), with and without a record, and MDONE. Where it meets them, it rests on the model's own choices: log entries 41 and 44. -/
def Obligations.MessageCommands : Prop :=
  (∀ (s s1 : State) (f : CmdE) (n : Nat) (bs : List Byte), s.cur = .thread n → commandMay s f → s.readOperand (s.rs f.a) 32 32 = .ok (bs, s1) →
    let d := BitVec.ofNat 256 (leNat bs)
    let c := s.cmdCtx
    (sdBad d = false → sdDk d = false → sdLen d ≤ 4080 → sdDest d < 1024 → s.isMember c (sdDest d) = true →
      (sdDcv d = true → s.ownsCnt c (sdDonecnt d) = true) → s.windowHolds (sdRx d) (sdWin d) c (sdOff d) (sdLen d) = true →
      s.windowMoves (sdRx d) (sdWin d) c (sdOff d) (sdLen d) = false →
      sendsMessage s (.usend f) s1 f (!f.imm.getLsbD 0) (if sdDcv d then some (sdDonecnt d) else none) (s.rs f.a) 0 (sdDest d) (sdMb d) (sdHdata d)
        (s1.windowBytes (sdRx d) (sdWin d) c (sdOff d) (sdLen d))) ∧
    (let rx := !d.getLsbD 36
      let swin := (d.extractLsb' 24 12).toNat
      let off := (d.extractLsb' 192 40).toNat
      let len := sdLen d
      let e := s1.newSend f (!f.imm.getLsbD 0) none (s.rs f.a) (s.rs f.b)
      let s2 : State := { e.2 with sends := e.2.sends ++ [e.1] }
      upBad d = false → s.windowHolds rx swin c (sdOff d) len = true → s.windowMoves rx swin c (sdOff d) len = false → s.playing c = false →
      (∀ s3, d.extractLsb' 8 2 = 1 → s.peerOk c (d.extractLsb' 10 2).toNat (d.extractLsb' 12 12).toNat = true →
        s2.sendHorizon c 3 (d.extractLsb' 12 12).toNat 0 len true = .ok s3 →
        exec (.uputRma f) s = .next (s3.uetOut (d.extractLsb' 10 2).toNat (d.extractLsb' 12 12).toNat true (wordOf d 1) off
          (if f.imm.getLsbD 1 then some (s.rs f.b) else none) (s1.windowBytes rx swin c (sdOff d) len))) ∧
      (∀ s3, d.extractLsb' 8 2 = 2 → f.imm.getLsbD 1 = false →
        let map := s.reg (offHostMap (d.extractLsb' 12 6).toNat)
        bit map 0 = true → off + len ≤ hostSize map → s2.sendHorizon c 6 (d.extractLsb' 12 6).toNat 0 len true = .ok s3 →
        ∃ u, exec (.uputHost f) s = .next u ∧ u.hostTlps = s3.hostTlps ++ hostPieces s.cur (s.runOf s.cur) (len / 512 + 1)
          (BitVec.ofNat 64 ((map.extractLsb' 16 48).toNat * 65536 + off)) (s1.windowBytes rx swin c (sdOff d) len) e.1.id))) ∧
  (∀ (s : State) (f : CmdE) (n : Nat), s.cur = .thread n → commandMay s f → s.acquiring = false → (s.rs f.c).toNat % 64 = 0 → s.performed s.cur = true → unitFree s →
    (s.uxFind s.cmdCtx (s.rs f.a) (s.rs f.b) = none →
      exec (.mrecv f) s = .next (awaits s.accept f (.mrecv (s.rs f.a) (s.rs f.b) (s.rs f.c) f.imm.toNat) (s.rs f.a) (s.rs f.b)) ∧
      exec (.mpoll f) s = .next (answers s.accept f (statusWord 5 0) (s.rs f.a) (s.rs f.b))) ∧
    ∀ r v s1, s.uxFind s.cmdCtx (s.rs f.a) (s.rs f.b) = some r → s.accept.uxTake s.cur r (s.rs f.c) f.imm.toNat = .ok (v, s1) →
      (∀ i ∈ ([.mrecv f, .mpoll f] : List Instr), exec i s = .next (answers s1 f v (s.rs f.a) (s.rs f.b))) ∧
      (r.a.aop = false → f.imm.toNat < r.a.len → s1 = s.accept ∧ v = statusWord 2 r.a.len) ∧
      (r.a.aop = true ∨ r.a.len ≤ f.imm.toNat → v = BitVec.ofNat 64 r.a.len ∧ s1.ux = s.ux.filter (fun q => q.aseq != r.aseq))) ∧
  (∀ (s s1 : State) (f : CmdE) (n : Nat) (g : Arrival) (bs : List Byte), s.cur = .thread n → commandMay s f → f.imm.toNat ≤ 4080 →
    (s.thr n).arr = some g → g.skind = 0 → g.src < 1024 → s.isMember s.cmdCtx g.src = true → s.readOperand (s.rs f.b) f.imm.toNat 1 = .ok (bs, s1) →
    sendsMessage s (.mreply f) s1 f true none (s.rs f.a) (s.rs f.b) g.src (s.rs f.a) 0 bs) ∧
  ∀ (s : State) (f : CmdE) (n : Nat), s.cur = .thread n → (s.thr n).sc.ops = [] →
    ∃ u, exec (.mdone f) s = .next u ∧ (u.thr n).running = false ∧ (u.thr n).sc = .idle ∧ ∀ m, m ≠ n → u.thr m = s.thr m

/-- R106, R114, R436-R439: MAP and UNMAP of a page and SDOWN start an update that their d waits for (UNMAP with NW answers at once, with the deadline in lease
mode); the tensor and chunk forms take effect at once; LEASE renews the trace unit's lease. Where it meets them, it rests on the model's own choices: log entries 64 and 85. -/
def Obligations.TranslationCommands : Prop :=
  ∀ (s : State) (f : CmdE), systemMay s f →
    let a := s.rs f.a
    let b := s.rs f.b
    let c := f.imm.toNat / 16 % 64
    let page := a.toNat % 65536 = 0 ∧ a.toNat < 2 ^ 56
    (∀ pa, page → entryRsvd b = false → bit b 0 = true → frameOut b = false → s.entryPa c a (f.imm.toNat / 1024 % 4) = some pa → pa < 2 ^ 39 →
      bit (mword s.hbm pa) 1 = false →
      (bit (mword s.hbm pa) 0 = true → exec (.mapVa f) s = .next (answers s f (statusWord 1 0) a b)) ∧
      (bit (mword s.hbm pa) 0 = false → exec (.mapVa f) s =
        .next ((awaits s f (.update (s.nextId + 1)) a b).startUpdate c a 1 (f.imm.toNat / 1024 % 4) b))) ∧
    (∀ bs s1, a.toNat < 256 → s.readOperand b 64 1 = .ok (bs, s1) →
      let d := BitVec.ofNat 512 (leNat bs)
      tdBad d = false → s1.copyNames c a.toNat = false → ∃ u, exec (.mapTensor f) s = .next u ∧ u.tensor c a.toNat = setFld d 14 1 0 ∧ u.hbm = s1.hbm) ∧
    (∀ pa, s.chunkEntry c a = .ok pa → pa < 2 ^ 39 → bit (mword s.hbm pa) 1 = false →
      (entryRsvd b = false → frameOut b = false → bit (mword s.hbm pa) 0 = false →
        ∃ u, exec (.mapChunk f) s = .next u ∧ mword u.hbm pa = b ∧ ∀ j, j < pa ∨ pa + 8 ≤ j → mread u.hbm j = mread s.hbm j) ∧
      ∃ u, exec (.unmapChunk f) s = .next u ∧ bit (mword u.hbm pa) 0 = false ∧ (mword u.hbm pa).toNat / 2 = (mword s.hbm pa).toNat / 2 ∧
        ∀ j, j < pa ∨ pa + 8 ≤ j → mread u.hbm j = mread s.hbm j) ∧
    (a.toNat < 256 → s.copyNames c a.toNat = false → ∃ u, exec (.unmapTensor f) s = .next u ∧ tdValid (u.tensor c a.toNat) = false ∧ u.hbm = s.hbm) ∧
    (page → s.inWindow c a = false → s.frameRecorded c a = false →
      (∀ pa, s.entryPa c a 0 = some pa → pa < 2 ^ 39 ∧ bit (mword s.hbm pa) 1 = false) →
      (f.imm.getLsbD 2 = false → exec (.unmapVa f) s = .next ((awaits s f (.update (s.nextId + 1)) a 0).startUpdate c a 0 0 0)) ∧
      (f.imm.getLsbD 2 = true → ∃ v, exec (.unmapVa f) s = .next ((answers s f v a 0).startUpdate c a 0 0 0) ∧
        v = if bit (s.reg offXlatCtl) 0 then 0 else statusWord 4 (s.ccc.toNat + 940 * (s.cxF c cLEASE 0 11 + 1)))) ∧
    (a.toNat < 256 → 1 ≤ b.toNat → b.toNat ≤ 1024 → s.tileCtx a.toNat = some c →
      ∃ u, exec (.lease f) s = .next u ∧ (u.tile a.toNat).trace.lease = s.ccc + BitVec.ofNat 64 (cyclesOf b.toNat)) ∧
    (page → f.imm.toNat % 4 = 0 → exec (.sdown f) s = .next ((awaits s f (.update (s.nextId + 1)) a 0).startUpdate c a 2 0 0))

/-- R260, R264-R269, R280, R285, R290, R440-R444: SNAP, the forms of MUSTER, ROLLCALL, the forms of RSTEP and of MPSET. Where it meets them, it rests on the model's own choices: log entries 92, 96, 98, 99 and 100. -/
def Obligations.DebugCommands : Prop :=
  (∀ (s : State) (f : CmdE), commandMay s f →
    (s.snapAt = none → ∃ u, exec (.snap f) s = .next u ∧ u.snapAt = some s.ccc ∧ u.regF offSnapId 0 32 = (s.regF offSnapId 0 32 + 1) % 2 ^ 32) ∧
    (∀ c, s.snapAt = some c → exec (.snap f) s = .next (answers s f (BitVec.ofNat 64 (s.regF offSnapId 0 32)) 0 0)) ∧
    ∃ bs, bs.length ≤ (s.rs f.b).toNat ∧ ∀ s1, s.writeOperand (s.rs f.a) bs 64 = .ok s1 →
      ∃ v, exec (.rollcall f) s = .next (answers s1 f v (s.rs f.a) (s.rs f.b)) ∧ (v.toNat < 2 ^ 63 → v = BitVec.ofNat 64 bs.length)) ∧
  (∀ (s : State) (f : CmdE), systemMay s f →
    let c := f.imm.toNat / 4 % 64
    (s.ctxExists c = false ∨ s.mstate c ≠ 0 → exec (.muster f) s = .next (answers s f (statusWord 1 0) (s.rs f.a) 0)) ∧
    (s.ctxExists c = true → s.mstate c = 0 → ∃ u, exec (.muster f) s = .next u ∧ u.mstate c = 1 ∧ (u.muster c).id = s.rs f.a ∧
      u.regF offMatchCtl 1 1 = 0 ∧ ∃ v : State, u = awaits v f (.mustering c) (s.rs f.a) 0) ∧
    (s.mstate c ≠ 3 → exec (.musterRelease f) s = .next (answers s f (statusWord 1 0) (s.rs f.a) 0)) ∧
    (∀ s1, s.mstate c = 3 → s.release c = .ok s1 → exec (.musterRelease f) s = .next (answers s1 f 0 (s.rs f.a) 0)) ∧
    (let h := s.hamperOf (f.imm.getLsbD 8) c;
      h.1 = true → ∃ bs : List Byte,
        ((s.rs f.c).toNat < bs.length → exec (.musterHamper f) s = .next (answers s f (statusWord 6 ((bs.length + 4095) / 4096)) (s.rs f.a) (s.rs f.b))) ∧
        ∀ s2, bs.length ≤ (s.rs f.c).toNat → s.writeOperand (s.rs f.b) bs 1 = .ok s2 →
          exec (.musterHamper f) s = .next (answers s2 f (BitVec.ofNat 64 bs.length) (s.rs f.a) (s.rs f.b))) ∧
    ∀ bs s1, s.readOperand (s.rs f.b) (s.rs f.c).toNat 1 = .ok (bs, s1) →
      (∀ n, s1.restoreRefused c bs = some n → exec (.musterRestore f) s = .next (answers s1 f (statusWord 6 n) (s.rs f.a) (s.rs f.b))) ∧
      ∀ m s2, s1.restoreRefused c bs = none → hamperImage bs c = some m → s1.placeContext c bs m = some s2 →
        exec (.musterRestore f) s = .next (answers (if s2.sched.stopped then s2.startSched else s2) f 0 (s.rs f.a) (s.rs f.b)) ∧ s2.mstate c = 3) ∧
  (∀ (s : State) (f : CmdE) (n t c : Nat), s.cur = .thread n → commandMay s f → s.rs f.a = BitVec.ofNat 64 t → t < 256 → s.tileCtx t = some c →
    c = s.cmdCtx ∨ s.sysPriv s.cmdCtx = true →
    let a := s.rs f.a
    let b := s.rs f.b
    let w : BitVec 32 := b.setWidth 32
    let ahead (v : BitVec 32) : Nat := (v - BitVec.ofNat 32 (s.cxF c cUNDOWIN 0 32)).toNat
    (s.steppable t c = false → exec (.rstepWindow f) s = .next (answers s f (statusWord 1 0) a b) ∧
      exec (.rstepOpen f) s = .next (answers s f (statusWord 1 0) a 0) ∧ exec (.rstepCount f) s = .next (answers s f (statusWord 1 0) a b)) ∧
    (s.steppable t c = true →
      (2 ^ 31 ≤ ahead w → exec (.rstepWindow f) s = .next (answers s f (statusWord 3 0) a b)) ∧
      (ahead w < 2 ^ 31 → ahead (BitVec.ofNat 32 (s.cxF c cUNDOWIN 32 32)) ≤ ahead w → exec (.rstepWindow f) s = .next (answers s f 0 a b)) ∧
      (∀ s1, s.newWindow t c 3 = .ok s1 → exec (.rstepOpen f) s = .next (answers s1 f ((s1.tile t).win.setWidth 64) a 0)) ∧
      (s.mstate c = 0 ∨ s.mstate c = 3 → s.stopGone c (b.toNat % 2 ^ 32) t (s.rs f.c).toNat = true →
        exec (.rstepCount f) s = .next (answers s f (statusWord 3 0) a b)) ∧
      (s.mstate c = 0 → s.stopGone c (b.toNat % 2 ^ 32) t (s.rs f.c).toNat = false → ∃ u, exec (.rstepCount f) s = .next u ∧ u.mstate c = 1 ∧
        (CtxLog.of u c).target = some (b.toNat % 2 ^ 32, t, (s.rs f.c).toNat)) ∧
      ∀ s1, ahead w < ahead (BitVec.ofNat 32 (s.cxF c cUNDOWIN 32 32)) → ahead w < 2 ^ 31 →
        let r := (s.boundStops c (s.interval c) t (s.tile t).work).rollWindow t c w
        r.2.newWindow t c 4 = .ok s1 → exec (.rstepWindow f) s = .next (answers s1 f (BitVec.ofNat 64 r.1) a b))) ∧
  ∀ (s : State) (f : CmdE) (n t m : Nat), s.cur = .thread n → commandMay s f → s.rs f.a = BitVec.ofNat 64 (t + 256 * m) → t < 256 → m < 64 →
    (s.tileCtx t = some s.cmdCtx ∨ (s.sysPriv s.cmdCtx = true ∧ (s.tileCtx t).isSome = true)) →
    ((s.rs f.b).toNat < 32 → (s.rs f.c).toNat % 2 = 0 → (s.rs f.c).toNat < 2 ^ 57 →
      ∃ u, exec (.mpsetPoint f) s = .next u ∧ tget 0 (u.tile t).mp m = s.rs f.c ++ s.rs f.b ∧
        ∀ j, j ≠ m → tget 0 (u.tile t).mp j = tget 0 (s.tile t).mp j) ∧
    ((s.rs f.b).toNat < 2 ^ 57 → ∃ u, exec (.mpsetVec f) s = .next u ∧ (u.tile t).mpvec = (s.rs f.b).setWidth 57)

/-! ## Collectives -/

/-- R155, R157, R434: COLL of a descriptor that passes the checks queues it on its engine, or answers BUSY when four wait; COLLABORT of a context with nothing on the
engine answers NONE, and otherwise ends its queued descriptors unrun and aborts its running collective. -/
def CollectiveCommands : Prop :=
  (∀ (s s1 s2 s3 : State) (f : CmdE) (bs ms ps : List Byte), commandMay s f →
    let e := fld f.imm 0 4
    let ctx := s.cmdCtx
    let a := s.rs f.a
    let d := BitVec.ofNat 512 (leNat bs)
    s.ownsEngine ctx e = true → s.readOperand a 64 64 = .ok (bs, s1) → collBad d = false →
    s1.readPages s.cur ctx 2 (BitVec.ofNat 64 (fld d 128 57)) (2 * (if fld d 0 10 = 0 then 1024 else fld d 0 10)) = .ok (ms, s2) →
    s2.readPages s.cur ctx 2 (BitVec.ofNat 64 (fld d 64 57)) (8 * progLen d) = .ok (ps, s3) →
    ∃ c : Coll, c.desc = d ∧ c.descVa = a ∧ c.ctx = ctx ∧ c.prog.length = progLen d ∧
      (∀ i < progLen d, c.prog[i]? = some (BitVec.ofNat 64 (leNat ((ps.drop (8 * i)).take 8)))) ∧
      (∀ i < c.ranks, c.rmap[i]? = some (leNat ((ms.drop (2 * i)).take 2))) ∧
      (∀ w ∈ c.prog, stepOp w = 4 → tget 0 c.base (fld w 4 14) = s.cnt (fld w 4 14)) ∧
      (s.collCheck c a = .ok () →
        (4 ≤ (s3.coll e).queue.length → exec (.coll f) s = .next (answers s3 f (statusWord 1 0) a 0)) ∧
        ((s3.coll e).queue.length < 4 →
          exec (.coll f) s = .next (answers (s3.setColl e { s3.coll e with queue := (s3.coll e).queue ++ [c] }) f 0 a 0)))) ∧
  ∀ (s : State) (f : CmdE), commandMay s f →
    let e := fld f.imm 0 4
    let ctx := s.cmdCtx
    s.ownsEngine ctx e = true →
    ((∀ c ∈ (s.coll e).queue, c.ctx ≠ ctx) → (∀ r, (s.coll e).run = some r → r.c.ctx ≠ ctx) →
      exec (.collabort f) s = .next (answers s f (statusWord 5 0) (s.rs f.a) 0)) ∧
    (∀ c s1, (s.coll e).queue = [c] → c.ctx = ctx → (s.coll e).run = none →
      (s.setColl e { s.coll e with queue := [] }).writeStatus c (5 + Cause.collAbort.code * 16) = .ok s1 →
      exec (.collabort f) s = .next (answers s1 f 0 (s.rs f.a) 0)) ∧
    ∀ r, (s.coll e).queue = [] → (s.coll e).run = some r → r.c.ctx = ctx → r.decided = none → r.aborted = none →
      ∃ u r1, exec (.collabort f) s = .next u ∧ (u.coll e).run = some r1 ∧ r1.c = r.c ∧ r1.aborted = some .collAbort ∧ r1.told = true ∧
        (r.c.rank = 0 → r1.decided = some false ∧ r1.finish = some false)

/-- R155, R164, R177, R449, R450: a queued collective starts on a free engine and sends its first CTS; a transfer is taken when its trailer is in its slot, and is
accepted; and a step that has waited past the deadline repeats at the next epoch, or aborts past MAXREP repeats. -/
def CollectiveEvents : Prop :=
  (∀ (s : State) (e : Nat) (c : Coll) (rest : List Coll), (s.coll e).queue = c :: rest → (s.coll e).run = none → (s.coll e).parked = false →
    s.mstate c.ctx = 0 → ∃ u r, exec (.collectiveStart e) s = .next u ∧ (u.coll e).queue = rest ∧ (u.coll e).run = some r ∧ r.c = c ∧ r.pc = 0 ∧
      r.step = 0 ∧ r.phase = 0 ∧ r.epoch = c.epoch0 ∧
      ∀ q, c.allSources = [q] → 0 < c.recvTotal q 0 [] c.prog → c.slotB ≤ winSize (s.reg128 (offRxw c.stgw)) →
        r.inbound = [{ src := q, num := 0, epoch := c.epoch0, off := 0, landed := none, data := none }]) ∧
  (∀ (s : State) (e : Nat) (r : CollRun) (b : Inbound) (bs : List Byte), (s.coll e).run = some r → (s.coll e).parked = false → r.aborted = none →
    r.decided ≠ some false → r.owed = [] → r.inbound = [b] → b.data = none →
    b.landed = some (BitVec.ofNat 64 (b.epoch.toNat + b.num % 65536 * 2 ^ 32)) → s.stagedData r.c b = some bs →
    let r1 := { r with inbound := [{ b with data := some bs }] }
    exec (.transferTake e b.src) s = .next ((s.collNote e r1 b.src 0x41 b.epoch b.num).setRun e (some r1))) ∧
  ∀ (s : State) (e : Nat) (r : CollRun), (s.coll e).run = some r → (s.coll e).parked = false → r.aborted = none → r.decided = none →
    r.c.deadline ≠ 0 → r.lacking = true → cyclesOf r.c.deadline ≤ (s.ccc - r.start).toNat →
    ∃ u r1, exec (.collLate e) s = .next u ∧ (u.coll e).run = some r1 ∧ r1.c = r.c ∧ r1.step = r.step ∧
      (r.c.maxRepeats < r.rpt + 1 → r1.aborted = some .collLate ∧ r1.epoch = r.epoch) ∧
      (r.rpt + 1 ≤ r.c.maxRepeats → r1.aborted = none ∧ (r.awaitsDown = false → r1.epoch = r.epoch + 1) ∧ r1.rpt = r.rpt + 1 ∧
        r1.repeats = satInc r.repeats ∧ r1.start = s.ccc)

/-- The engine at issue runs a collective. -/
def engineAt (s : State) (e : Nat) (r : CollRun) : Prop := s.cur = .engine e ∧ (s.coll e).parked = false ∧ (s.coll e).run = some r

/-- A data step begins, with no flag set. -/
def stepFresh (r : CollRun) (f : StepDataF) : Prop :=
  r.phase = 0 ∧ r.xfers = [] ∧ r.aborted = none ∧ f.tr = false ∧ f.fw = false ∧ f.sf = false ∧ f.lr = false

/-- A step that ends with the chunk `bs` written to its destination buffer, from the state `s` and run `r`. -/
def writesChunk (i : Instr) (s0 : State) (e : Nat) (f : StepDataF) (s : State) (r : CollRun) (bs : List Byte) : Prop :=
  ∀ s1 r3, s.writeChunk { r with phase := 4, part := bs } (r.c.buf f.db.toNat) (r.chunk f) bs = .ok (s1, r3) →
    exec i s0 = .next (s1.setRun e (some ({ r3 with step := r.step + 1 }.goTo (r.pc + 1))))

/-- R160-R163, R166: SEND queues its chunk for the peer and ends when it is accepted; RECV writes the peer's chunk, RRS the sum of it and the own chunk, and COPY the own
chunk; a completed step goes on to the next word and signals its flag. -/
def DataSteps : Prop :=
  ∀ (s : State) (e : Nat) (r : CollRun) (f : StepDataF), engineAt s e r →
    let q := rankAt r.c.ranks r.c.rank (-f.pk.toInt)
    let r0 := { r with phase := 1, start := s.ccc }
    (stepFresh r f → ∀ raw, s.readChunk r.c (r.c.buf f.sb.toNat) (r.chunk f) = some raw →
      (readStepData r.word = f → stepOp r.word = 0 → r.cts = [] → s.peerLost e r.c.ctx (nth 0 r.c.rmap (r.peer f)) = false →
        let bs := if s.collWire r.c (r.c.buf f.sb.toNat) then wireBytes r.c.ceb raw else raw
        let n := tget 0 r.sendNum (r.peer f)
        bs.length + 8 ≤ r.c.slotB → exec (.stepSend f) s = .next (s.setRun e (some
          { r0 with phase := 6, part := raw, sendNum := tput 0 r.sendNum (r.peer f) (n + 1),
                    xfers := [{ dst := r.peer f, num := n % 65536, data := bs, epoch := none, done := false }] }))) ∧
      writesChunk (.stepCopy f) s e f s r0 raw ∧
      ∀ d, r.taken q = some d → readStepData r.word = f → stepOp r.word = 2 → f.wd = true → f.ns = true → f.iw = false →
        let a := s.consume e r0 q
        writesChunk (.stepRrs f) s e f a.1 a.2 (ropBytesAdd r.c.rop raw.length d raw)) ∧
    (stepFresh r f → ∀ d, r.taken q = some d → readStepData r.word = f → stepOp r.word = 1 →
      let a := s.consume e r0 q
      writesChunk (.stepRecv f) s e f a.1 a.2 d) ∧
    (r.phase = 6 → r.aborted = none → r.ahead = none → (∀ x ∈ r.xfers, x.done = true) → f.tr = false → f.lr = false →
      ∀ i ∈ ([.stepSend f, .stepRecv f, .stepRrs f, .stepCopy f] : List Instr),
        (f.sf = false → exec i s = .next (s.setRun e (some ({ r with step := r.step + 1 }.goTo (r.pc + 1))))) ∧
        (f.sf = true → r.signalled = 0 → r.decided = none → r.c.signals 0 = true → ∃ u, exec i s = .next u ∧
          u.engSig = s.engSig ++ [(32 + e, r.c.counter 0, s.ferryCycle)]))

/-- R161, R178: WAIT passes when its counter has; LOOP enters or skips its body; END of a rank without children reports it, and at a one-rank root without SH writes
the status and frees the engine. -/
def ControlSteps : Prop :=
  ∀ (s : State) (e : Nat) (r : CollRun), engineAt s e r →
    (∀ f : StepWaitF,
      let t : Word := f.thr.setWidth 64 + (if f.rb then tget 0 r.c.base f.cnt.toNat else 0)
      ((s.cnt f.cnt.toNat - t).toNat < 2 ^ 63 →
        exec (.stepWait f) s = .next (s.setRun e (some ({ r with step := r.step + 1 }.goTo (r.pc + 1))))) ∧
      (2 ^ 63 ≤ (s.cnt f.cnt.toNat - t).toNat → exec (.stepWait f) s = .next s)) ∧
    (∀ f : StepLoopF,
      let n := if f.nr then r.c.ranks - f.count.toNat else f.count.toNat
      let z := r.pc + 1 + f.len.toNat
      (n = 0 → exec (.stepLoop f) s = .next (s.setRun e (some (r.goTo z)))) ∧
      (n ≠ 0 → exec (.stepLoop f) s =
        .next (s.setRun e (some { r with pc := r.pc + 1, loops := (r.pc + 1, z, n, 0) :: r.loops, phase := 0 })))) ∧
    (r.c.kids = [] → r.decided = none → r.aborted = none → r.finish = none → r.reported = 0 →
      (r.c.rank ≠ 0 → ∃ u r1, exec .stepEnd s = .next u ∧ (u.coll e).run = some r1 ∧ r1.c = r.c ∧ r1.ended = true ∧ r1.reported = 1) ∧
      (r.c.rank = 0 → r.c.sh = false →
        let a := s.collSignal e { r with decided := some true, ended := true, reported := 1, reports := [] } 2
        ∀ s1, a.1.writeStatus r.c (r.status true) = .ok s1 → exec .stepEnd s = .next (s1.setRun e none)))

/-- The program steps of a collective engine. -/
def CollectiveSteps : Prop := DataSteps ∧ ControlSteps

/-- A notice is taken from an input. -/
def takesNotice (i : Nat → Instr) (kind : Nat) : Prop :=
  ∀ (s s1 : State) (port : Nat) (p : Packet), s.headAt port (fun p => p.dst == s.chip && !p.bad && p.pop == 0x15 && noticeKind p == kind) = some (p, s1) →
    s.fences.getLsbD p.src = false → s.fences.getLsbD p.dst = false → s.mustWait (noticeCtx p) p = false → exec (i port) s = .next (s1.applyNotice p)

/-- The collective that a notice names is running, and rank `q` of it sent the notice. -/
def noticeFor (s : State) (p : Packet) (r : CollRun) (q : Nat) : Prop :=
  (s.coll (noticeEngine p)).run = some r ∧ r.c.ctx = noticeCtx p ∧ firstBelow (fun i => r.c.rmap[i]? == some p.src) r.c.ranks 0 = some q

/-- R164-R166, R177-R179: the eight notices reach their collective; CTS is kept, ACCEPT ends its transfer, REPEAT is announced, STEPOK ends a tree step, ABORT at the root
decides abort, DECIDE commits or aborts, REPORT counts, and ALLDONE ends. -/
def CollectiveNotices : Prop :=
  (takesNotice .ctsNotice 0x40 ∧ takesNotice .acceptNotice 0x41 ∧ takesNotice .repeatNotice 0x42 ∧ takesNotice .stepokNotice 0x43 ∧
    takesNotice .abortNotice 0x44 ∧ takesNotice .decideNotice 0x45 ∧ takesNotice .reportNotice 0x46 ∧ takesNotice .alldoneNotice 0x47) ∧
  ∀ (s : State) (p : Packet) (r : CollRun) (q : Nat), noticeFor s p r q →
    let e := noticeEngine p
    let num := fld p.word3 0 16
    ∃ r1, ((s.applyNotice p).coll e).run = some r1 ∧ r1.c = r.c ∧ r1.pc = r.pc ∧
      (noticeKind p = 0x40 → (∀ k ∈ r.cts, ¬(k.1 = q ∧ k.2.1 = num)) → r1 = { r with cts := r.cts ++ [(q, num, noticeEpoch p, fld p.word3 16 40)] }) ∧
      (noticeKind p = 0x41 → ∀ x, r.xfers = [x] → x.dst = q → x.num = num → x.epoch = some (noticeEpoch p) → r1.xfers = [{ x with done := true }]) ∧
      (noticeKind p = 0x42 → r.c.rank ≠ 0 → q = rankParent r.c.rank → r.step < p.word3.toNat → r1 = { r with ahead := some (p.word3.toNat, noticeEpoch p) }) ∧
      (noticeKind p = 0x43 → p.word3.toNat = r.step → stepTreeRrs r.word = true → r.stepok = false → passed32 (noticeEpoch p) r.epoch = true →
        r1 = { r with stepok := true }) ∧
      (noticeKind p = 0x44 → r.c.rank = 0 → r.decided = none → r1.decided = some false ∧ r1.finish = some false) ∧
      (noticeKind p = 0x45 → r.decided = none → (p.word3 = 1 → r1.decided = some true ∧ r1.reported = 1 ∧ r1.published = true) ∧
        (p.word3 ≠ 1 → r1.decided = some false ∧ r1.finish = some false)) ∧
      (noticeKind p = 0x46 → r1 = { r with reports := tput 0 r.reports q p.word3.toNat }) ∧
      (noticeKind p = 0x47 → r.finish = none → r1.decided = some true ∧ r1.finish = some true)

/-- The program steps, commands, events and notices of collectives. Where it meets them, it rests on the model's own choices: log entries 88, 89, 90, 91, 122 and 133. -/
def Obligations.Collectives : Prop := CollectiveSteps ∧ CollectiveCommands ∧ CollectiveEvents ∧ CollectiveNotices

/-! ## Packets -/

/-- The first packet for this chip of an operation, at an input; s1 has it taken. -/
def arrives (s : State) (port pop : Nat) (p : Packet) (s1 : State) : Prop :=
  s.headAt port (fun p => p.dst == s.chip && !p.bad && p.pop == pop) = some (p, s1) ∧ s.fences.getLsbD p.src = false ∧ s.fences.getLsbD p.dst = false

/-- R43, R48, R52: a packet for this chip waits at its input; one for another leaves by its link, and when that is not UP is dropped, with ACK status 1 when it is in
path order; PACKET_FORWARD routes a transit packet and discards a bad one. -/
def PacketRouting : Prop :=
  (∀ (s s1 : State) (port : Nat) (p : Packet), s.headAt port (fun p => p.bad || p.dst != s.chip) = some (p, s1) →
    (p.bad = false → exec (.packetForward port) s = .next (s1.inject port p)) ∧
    (p.bad = true → exec (.packetForward port) s = .next (if port < 6 then s1.bumpLink port 48 else s1))) ∧
  ∀ (s : State) (port : Nat) (p : Packet), port ≤ 6 → s.fences = 0 →
    (s.linkTo p.dst = none → s.inject port p = { s with inq := tput [] s.inq port (tget [] s.inq port ++ [p]) }) ∧
    ∀ n, s.linkTo p.dst = some n →
      (s.linkState n = 2 → ∃ d, (s.inject port p).links = tput Link.idle s.links n
        { s.link n with queue := (s.link n).queue ++ [(port, { p with dlc := d })] } ∧ (s.wraps n = true → d = true) ∧
        (port = 6 → d = s.wraps n) ∧ (s.inject port p).inq = s.inq) ∧
      (s.linkState n ≠ 2 → p.ordered = false → s.inject port p = s) ∧
      (s.linkState n ≠ 2 → p.ordered = true → p.src = s.chip → s.linkTo s.chip = none →
        s.inject port p = { s with inq := tput [] s.inq 6 (tget [] s.inq 6 ++ [ackPacketOf p 1]) })

/-- R46, R81, R139, R143, R169: the next packet of a path is delivered and moves the path on: RST writes its data, RACC adds it, MSG is an arrival; one out of order is
discarded with ACK status 4. -/
def PathDelivery : Prop :=
  (∀ (s s1 : State) (port : Nat) (p : Packet) (i : Nat → Instr), (i, p.pop) ∈ [(Instr.rstPacket, 0), (Instr.raccPacket, 1), (Instr.msgPacket, 3)] →
    port < 7 → s.heldAll = [] → arrives s port p.pop p s1 → s.mustWait (s.packetCtx p) p = false → p.src ∉ s.discarding →
    (p.pseq ≠ tget 0 s.pseqIn p.src → exec (i port) s = .next (State.inject { s1 with discarding := p.src :: s.discarding } 6 (ackPacketOf p 4))) ∧
    (p.pseq = tget 0 s.pseqIn p.src → s.tokenMet p = true →
      let s2 : State := { s1 with pseqIn := tput 0 s1.pseqIn p.src (p.pseq + 1) }
      (∀ s3, p.pop ≠ 3 → s2.rxWrite (fld p.word2 0 12) (fld p.word2 12 40) (s2.windowAfter p) (some (p, 0)) = .ok s3 →
        ∃ u, exec (i port) s = .next u ∧ u = ((s3.recordPacket (s2.packetCtx p) p).stageNote p).landed p ∧ tget 0 u.pseqIn p.src = p.pseq + 1 ∧
          tget 0xFFFFFFFF#32 u.lhw p.src = p.pseq) ∧
      (p.pop = 3 → bit (s.reg offMatchCtl) 0 = true →
        ∃ u, exec (i port) s = .next u ∧ u = ((s2.joinArrivals
          { mb := BitVec.ofNat 64 (leNat (p.data.take 8)), skind := 0, aop := false, src := p.src, hdata := BitVec.ofNat 64 (leNat ((p.data.drop 8).take 8)),
            len := p.data.length - 16, data := p.data.drop 16, ctx := nfld (leNat (p.data.take 8)) 58 6, pdc := none, left := 0,
            more := [], recAt := none, born := 0 }).inject 6 (ackPacketOf p 0)).landed p ∧
          tget 0 u.pseqIn p.src = p.pseq + 1 ∧ tget 0xFFFFFFFF#32 u.lhw p.src = p.pseq))) ∧
  ∀ (s : State) (p : Packet),
    (p.pop = 0 → s.windowAfter p = p.data) ∧
    (p.pop = 1 → bit (s.reg128 (offRxw (fld p.word2 0 12))) 0 = true →
      fld p.word2 12 40 + p.data.length ≤ winSize (s.reg128 (offRxw (fld p.word2 0 12))) →
      s.windowAfter p = ropBytesAdd (fld p.word2 52 4) p.data.length
        (s.windowBytes true (fld p.word2 0 12) (fld (s.reg128 (offRxw (fld p.word2 0 12))) 1 6) (fld p.word2 12 40) p.data.length) p.data)

/-- R36, R46: an OK ACK ends the packets of its path up to its PSEQ, another names one; PATHRST resets a path at its destination and fails its packets at its source. -/
def PathAnswers : Prop :=
  (∀ (s s1 : State) (port : Nat) (p : Packet) (e : Sent), arrives s port 8 p s1 → s1.sent = [e] → e.dst = p.src → e.status = none → e.send = none →
    e.firing = none → e.who.isSome = true → (s1.playing e.ctx = false ∨ p.src = s1.chip) →
    (p.data.head? = some 0 → (p.pseq - e.pseq).toNat < 2 ^ 31 → ∃ u, exec (.ackPacket port) s = .next u ∧ u.sent = []) ∧
    (∀ v : Byte, p.data.head? = some v → v ≠ 0 → v.toNat < 5 → p.pseq = e.pseq → (∀ n, e.who ≠ some (.engine n)) → ∃ u, exec (.ackPacket port) s = .next u ∧
      u.sent = [{ e with status := some v.toNat }]) ∧
    (p.data.head? = some 0 → 2 ^ 31 ≤ (p.pseq - e.pseq).toNat → exec (.ackPacket port) s = .next s1)) ∧
  ∀ (s s1 : State) (port : Nat) (p : Packet), arrives s port 0x14 p s1 →
    let src := fld p.word2 0 10
    let dst := fld p.word2 10 10
    let q := tokenSeq p.word2
    (dst = s1.chip → src ≠ s1.chip → s1.heldAll = [] → ∃ u, exec (.pathrstPacket port) s = .next u ∧ tget 0 u.pseqIn src = q ∧
      tget 0xFFFFFFFF#32 u.lhw src = q - 1 ∧ src ∉ u.discarding ∧ ∀ c, c ≠ src → tget 0 u.pseqIn c = tget 0 s.pseqIn c) ∧
    (dst ≠ s1.chip → src = s1.chip → ∀ e, s1.sent = [e] → e.dst = dst → e.status = none → e.send = none → e.firing = none → e.who.isSome = true →
      ∃ u, exec (.pathrstPacket port) s = .next u ∧ u.sent = [{ e with status := some 1 }])

/-- R143-R148: a token query is answered when the mark has passed, else kept; an answer moves the mark; a query is sent again 1 µs after an answer that was too low; a held
packet expires; a full queue and a full table are reported. -/
def CausalTokens : Prop :=
  (∀ (s s1 : State) (port : Nat) (p : Packet), arrives s port 0x10 p s1 →
    let o := fld p.word2 0 10
    let q := tokenSeq p.word2
    (((s1.mark o) - q).toNat < 2 ^ 31 → exec (.tkqPacket port) s = .next (s1.answerQuery p.src o)) ∧
    (2 ^ 31 ≤ ((s1.mark o) - q).toNat → s1.queries.length < 1024 →
      exec (.tkqPacket port) s = .next { s1 with queries := s1.queries ++ [(p.src, o, q)] })) ∧
  (∀ (s s1 : State) (port i : Nat) (p : Packet) (t : TokEntry), arrives s port 9 p s1 → s1.heldAll = [] → s1.tokenAt p.src (fld p.word2 0 10) = some (i, t) →
    t.mark = none → ∃ u t1, exec (.tkaPacket port) s = .next u ∧ tget none u.tokens i = some t1 ∧ t1.mark = some (tokenSeq p.word2) ∧ t1.qout = false ∧
      ∀ j, j ≠ i → tget none u.tokens j = tget none s1.tokens j) ∧
  (∀ (s : State) (landing origin i : Nat) (t : TokEntry) (c : Word), s.heldAll = [] → s.tokenAt landing origin = some (i, t) → t.short = some c →
    (940 ≤ (s.ccc - c).toNat → exec (.tkqRetry landing origin) s = .next (s.setToken i { t with short := none })) ∧
    ((s.ccc - c).toNat < 940 → exec (.tkqRetry landing origin) s = .next s)) ∧
  (∀ (s : State) (port : Nat) (h : Held), s.heldAll = [(port, h)] → s.harbourAt port = [h] → h.p.src ∉ s.discarding →
    (cyclesOf (s.cxF (s.packetCtx h.p) cTKEXP 0 17) < (s.ccc - h.since).toNat → ∃ u, exec (.tokenExpiry port) s = .next u ∧
      u.discarding = h.p.src :: s.discarding ∧ u.heldAll = []) ∧
    ((s.ccc - h.since).toNat ≤ cyclesOf (s.cxF (s.packetCtx h.p) cTKEXP 0 17) → exec (.tokenExpiry port) s = .next s)) ∧
  (∀ (s : State) (port : Nat) (a b : Held), (s.harbourAt port).head? = some a → (s.harbourAt port).getLast? = some b → (s.harbourAt port).length = 256 →
    port ∉ s.holdTold → 940000 ≤ (s.ccc - b.since).toNat → exec (.holdQueueFull port) s =
      .next (State.report { s with holdTold := port :: s.holdTold } .holdQueueFull (s.packetCtx a.p) 4 (if port < 6 then port else 0) 0)) ∧
  ∀ (s : State) (p : Packet), s.unasked = some p →
    (s.tokenTold = none → exec .tokenTableFull s = .next (State.report { s with tokenTold := some s.ccc } .tokenTableFull (s.packetCtx p) 4 0 0)) ∧
    ∀ c, s.tokenTold = some c → (s.ccc - c).toNat < 940000 → exec .tokenTableFull s = .next s

/-- R49, R50: a contribution to an entry of another epoch, or to none, is stale; one that others are still missing beside is kept; and a complete block goes on to the
parent. -/
def ReductionPackets : Prop :=
  ∀ (s s1 : State) (port : Nat) (p : Packet) (l : List (BitVec 32)), arrives s port 2 p s1 →
    let rid := redRid p
    let e := s.reg128 (offRedTab rid)
    let rop := ((s.redRun rid).map fun r => r.2.c.rop).getD 0
    let slots := tput [] [] (redSlot p) l
    (∀ r, s.redRun rid = some r → s.playing r.2.c.ctx = false) → redElems rop p.data = some l → s.reds = [] →
    (rtValid e = false ∨ rtEpoch e ≠ redEpoch p → exec (.redPacket port) s = .next (s1.bump offRedStale)) ∧
    (rtValid e = true → rtEpoch e = redEpoch p →
      (∀ i < 8, i ≠ redSlot p → (rtInmask e).testBit i = true → l ≠ [] →
        exec (.redPacket port) s = .next { s1 with reds := [{ rid := rid, block := redBlock p, slots := slots }] }) ∧
      ((∀ i < 8, (rtInmask e).testBit i = true → i = redSlot p) → l ≠ [] → rtRoot e = false → p.data.length = 64 * ropBytes rop →
        exec (.redPacket port) s = .next (s1.sendRed (rtParent e) rid (rtEpoch e) (redBlock p) (rtPslot e)
          ((redSum e rop slots).flatMap fun v => leBytes (ropBytes rop) v.toNat))))

/-- R53: FENCE of a chip discards its traffic and fences the links to it; FENCE_CLR from a system context ends that. -/
def FencePackets : Prop :=
  (∀ (s s1 : State) (port : Nat) (p : Packet), arrives s port 0x12 p s1 → ∃ u, exec (.fencePacket port) s = .next u ∧
    (∀ c < 1024, u.fences.getLsbD c = (s.fences.getLsbD c || decide (c = fld p.word2 0 10))) ∧
    (∀ n ∈ s1.linksTo (fld p.word2 0 10), u.linkState n = 3) ∧
    ∀ port, ∀ h ∈ u.harbourAt port, port < 7 → h.p.src ≠ fld p.word2 0 10) ∧
  ∀ (s s1 : State) (port : Nat) (p : Packet), arrives s port 0x13 p s1 →
    (bit p.word2 10 = false → exec (.fenceClrPacket port) s = .next s1) ∧
    (bit p.word2 10 = true → ∃ u, exec (.fenceClrPacket port) s = .next u ∧
      ∀ c < 1024, u.fences.getLsbD c = (s.fences.getLsbD c && decide (c ≠ fld p.word2 0 10)))

/-- The packets of the strait. -/
def StraitPackets : Prop := PacketRouting ∧ PathDelivery ∧ PathAnswers ∧ CausalTokens ∧ ReductionPackets ∧ FencePackets

/-- R114-R116: a member applies an update that comes to it and acknowledges; acknowledgements are merged, and the last ends the update at its root; the timeouts of a node
and of the root; and the lease wait. -/
def TranslationTree : Prop :=
  (∀ (s s1 : State) (port : Nat) (p : Packet), arrives s port 0x11 p s1 → s.mustWait (fld p.word2 40 6) p = false →
    let c := fld p.word2 40 6
    let va : Word := BitVec.ofNat 64 (fld p.word2 0 40 * 65536)
    let order := s1.ranked c (fld p.word2 50 10)
    s1.recordPacket c p = s1 → s1.updates = [] → treeChildren order.length (order.idxOf s1.chip) = [] → s1.playing c = false →
    (∀ old, fld p.word2 46 2 = 2 → (∀ pa, s1.entryPa c va 0 = some pa → pteFrame (mword s1.hbm pa) = old) → (s1.entryPa c va 0 = none → old = 0) →
      s1.frameBusy old = false → ∃ u, exec (.sdownPacket port) s = .next u ∧ u.updates = [] ∧ u.hbm = s.hbm ∧
        ∀ t, ∀ e ∈ (u.tile t).tlb, ¬(e.ctx = c ∧ e.vpn = fld p.word2 0 40)) ∧
    (∀ pa, fld p.word2 46 2 = 1 → s1.entryPa c va (fld p.word2 48 2) = some pa → ∃ u, exec (.sdownPacket port) s = .next u ∧ u.updates = [] ∧
      u.hbm = mputw s.hbm pa p.word3)) ∧
  (∀ (s s1 : State) (port : Nat) (p : Packet) (u : Update), arrives s port 0xA p s1 → s1.recordPacket u.ctx p = s1 → s1.updates = [u] →
    u.origin = fld p.word2 0 10 → u.ident = leNat (p.data.take 8) → u.root = true → u.applied.isSome = true → u.acked = true → u.stage = 0 →
    let got := u.got ||| BitVec.ofNat 1024 (leNat ((p.data.drop 8).take 128))
    ((∀ c ∈ s1.ranked u.ctx u.origin, got.getLsbD c = true) → ∃ v, exec (.sdackPacket port) s = .next v ∧ v.updates = []) ∧
    ((∃ c ∈ s1.ranked u.ctx u.origin, got.getLsbD c = false) →
      exec (.sdackPacket port) s = .next { s1 with updates := [{ u with got := got, waits := u.waits.filter (· != p.src) }] })) ∧
  ∀ (s : State) (u : Update), s.updates = [u] →
    (∀ c, u.applied = some c → u.acked = true → u.root = false → u.answered = false →
      let h := treeHeight (s.ranked u.ctx u.origin).length 10 u.rank
      let z : Update := { u with waits := [] }
      h ≠ 0 → 940 * 4 * h ≤ (s.ccc - u.since).toNat → s.treeDone u = false →
        exec (.sdownNodeTimeout u.id) s = .next (((s.setUpdate z).sendSdack z).setUpdate { z with answered := true, told := u.got })) ∧
    (u.root = true → 940 * max 1 (s.regF offXlatCtl 1 10) ≤ (s.ccc - u.since).toNat →
      (u.stage = 0 → ∃ v, exec (.shootdownRootTimeout u.id) s = .next v ∧ v.updates = [{ u with stage := 1, since := s.ccc }]) ∧
      (∀ c, u.stage = 1 → s.missing u = [c] → c ≠ s.chip → c < 1024 → u.applied.isSome = true → u.acked = true → u.kind ≠ 2 →
        bit (s.reg offXlatCtl) 0 = true → ∃ v, exec (.shootdownRootTimeout u.id) s = .next v ∧ v.fences.getLsbD c = true)) ∧
    (∀ c, u.kind = 0 → u.root = true → u.applied = some c → u.acked = false → s.frameBusy u.old = false → bit (s.reg offXlatCtl) 0 = false → s.chip < 1024 →
      (∀ d ∈ s.ranked u.ctx u.origin, u.got.getLsbD d = true ∨ d = s.chip) →
      (940 * (s.cxF u.ctx cLEASE 0 11 + 1) ≤ (s.ccc - c).toNat → ∃ v, exec (.leaseWaitExpiry u.id) s = .next v ∧ v.updates = []) ∧
      ((s.ccc - c).toNat < 940 * (s.cxF u.ctx cLEASE 0 11 + 1) → s.chip ∈ s.ranked u.ctx u.origin → u.got.getLsbD s.chip = false → u.stage = 0 →
        exec (.leaseWaitExpiry u.id) s = .next s))

/-- R121: a migration sets M, and when the old translations are gone copies the frame, writes FRAME and clears M. -/
def Migrations : Prop :=
  (∀ (s : State) (c pa : Nat) (va : BitVec 57),
    let a : Word := (va.setWidth 64) &&& ~~~ 0xFFFF#64
    s.frameRecorded c a = false → s.entryPa c a 0 = some pa → pa < hbmEnd → bit (mword s.hbm pa) 0 = true → bit (mword s.hbm pa) 1 = false →
    ∃ u, exec (.pageMigration (.beginPage c va)) s = .next u ∧ u.hbm = mputw s.hbm pa (setFld (mword s.hbm pa) 1 1 1)) ∧
  ∀ (s : State) (n : Nat) (f : BitVec 36) (g : Migration), s.migrations[n]? = some g → g.upd = none → s.frameBusy g.old = false → f.toNat * 65536 < hbmEnd →
    Mem.wf s.hbm → g.pa % 8 = 0 → g.pa / 65536 ≠ f.toNat →
    ∃ u, exec (.pageMigration (.finish n f)) s = .next u ∧ pteFrame (mword u.hbm g.pa) = f.toNat ∧ bit (mword u.hbm g.pa) 1 = false ∧
      (∀ j < 65536, mread u.hbm (f.toNat * 65536 + j) = mread s.hbm (g.old * 65536 + j)) ∧ u.migrations = s.migrations.erase g

/-- The packets of the strait, and the events of translation. Where it meets them, it rests on the model's own choices: log entries 75, 78, 81, 82, 84 and 87. -/
def Obligations.Packets : Prop := StraitPackets ∧ TranslationTree ∧ Migrations

/-! ## Links, power, boot and the outside ports -/

/-- A good flit reaches an UP link. -/
def goodFlit (s : State) (n : Nat) (f : Flit) : Prop := n < 6 ∧ s.linkState n = 2 ∧ f.crcOk = true ∧ f.rsvd = 0

/-- R33, R37-R41: a flit in sequence is accepted and moves E on, a packet of one flit waits at its input; a bad one is discarded with one NAK; a NAK and a timeout go back;
and LEND sets the limits of the classes. -/
def LinkFlits : Prop :=
  (∀ (s : State) (n : Nat) (f : Flit), goodFlit s n f → f.seq = (s.link n).expect →
    (f.ftype = 0 → f.first = true → f.last = true → tget 0 (s.link n).rxHeld f.cls < tget 64 (s.link n).rxLimits f.cls →
      ∃ u, exec (.flitReceive n f) s = .next u ∧ (u.link n).expect = (s.link n).expect + 1 ∧ (u.link n).nak = none ∧
        tget [] u.inq n = tget [] s.inq n ++ [Packet.ofFlits [f]] ∧ tget 0 (u.link n).rxHeld f.cls = tget 0 (s.link n).rxHeld f.cls + 1) ∧
    (f.ftype = 1 → ∀ i ∈ ([.flitReceive n f, .lendReceive n f] : List Instr), ∃ u, exec i s = .next u ∧ (u.link n).limits = lendLimits f ∧
      (u.link n).expect = (s.link n).expect + 1)) ∧
  (∀ (s : State) (n : Nat) (f : Flit), n < 6 →
    (s.linkState n ≠ 2 → exec (.flitReceive n f) s = .next s) ∧
    (s.linkState n = 2 → f.crcOk = false → (s.link n).nak.isSome = true → exec (.flitReceive n f) s = .next s) ∧
    (s.linkState n = 2 → f.crcOk = false → (s.link n).nak = none → (s.link n).lending = true → ∃ u, exec (.flitReceive n f) s = .next u ∧
      (u.link n).nakDue = some 0 ∧ (u.link n).expect = (s.link n).expect) ∧
    (s.linkState n = 2 → f.crcOk = false → (s.link n).nak = none → (s.link n).lending = false → ∃ u, exec (.flitReceive n f) s = .next u ∧ (u.link n).nak = some 0 ∧
      (u.link n).expect = (s.link n).expect ∧ (u.link n).nakCount = (s.link n).nakCount + 1)) ∧
  (∀ (s : State) (n : Nat) (f : Flit), goodFlit s n f → f.ftype = 2 →
    let l := (s.link n).applyAck f
    let q := BitVec.ofNat 16 (leNat (f.body.take 2))
    l.replay ≠ [] ∨ l.resend ≠ [] → ∃ u, exec (.nakReceive n f) s = .next u ∧ u.link n = l.goBack q) ∧
  (∀ (s : State) (n : Nat), n < 6 → s.linkState n = 2 →
    (∀ r, (s.link n).nak = some r → exec (.nakResendTimeout n) s = .next (s.sendNak n r)) ∧
    (∀ q, (s.link n).oldest = some q → ∃ u, exec (.goBackTimeout n) s = .next u ∧ u.link n = (s.link n).goBack q ∧
      (u.link n).goSeq = q) ∧
    (lendTable (s.link n).rxCount = none → ∃ u, exec (.lendPeriodEnd n) s = .next u ∧ (u.link n).period = (s.link n).period + 1 ∧
      (u.link n).rxLimits = (s.link n).rxLimits) ∧
    (∀ t, lendTable (s.link n).rxCount = some t → ∃ u, exec (.lendPeriodEnd n) s = .next u ∧ (u.link n).rxLimits = t ∧
      (u.link n).lends = (s.link n).lends ++ [lendFlit (s.link n).period t])) ∧
  ∀ (u t : Tab Nat), lendTable u = some t → ((List.range 8).map (tget 64 t)).sum = 512 ∧ ∀ i < 8, 4 ≤ tget 64 t i

/-- R39, R51, R52: sixteen go-backs and a loss of signal bring a link down with its cause; training is tried 100 ms apart, and ends UP with a fresh link or DOWN. -/
def LinkStates : Prop :=
  ∀ (s : State) (n : Nat), n < 6 →
    (s.linkState n = 2 →
      (16 ≤ (s.link n).goCount ∨ 16 ≤ (s.link n).nakCount → exec (.nakExhausted n) s = .next (s.linkDown n 1)) ∧
      exec (.lossOfSignal n) s = .next (s.linkDown n 2)) ∧
    (∀ d < 4, (s.linkDown n d).linkState n = 0 ∧ (s.linkDown n d).regF (offLinkStat n) 2 2 = d ∧
      (s.linkDown n d).link n = { Link.idle with lastAttempt := (s.link n).lastAttempt, period := (s.link n).period }) ∧
    (s.linkState n = 0 → s.trains n = true →
      ((s.link n).lastAttempt = none → ∃ u, exec (.trainingAttempt n) s = .next u ∧ u.linkState n = 1 ∧ (u.link n).lastAttempt = some s.ccc) ∧
      ∀ c, (s.link n).lastAttempt = some c → (s.ccc - c).toNat < 94000000 → exec (.trainingAttempt n) s = .next s) ∧
    (s.linkState n = 1 →
      (∃ u, exec (.trainingEnd n true) s = .next u ∧ u.linkState n = 2 ∧ u.link n = { Link.idle with lastAttempt := (s.link n).lastAttempt }) ∧
      ∃ u, exec (.trainingEnd n false) s = .next u ∧ u.linkState n = 0)

/-- The link layer. Where it meets them, it rests on the model's own choices: log entries 77, 79, 80 and 113. -/
def Obligations.Links : Prop := LinkFlits ∧ LinkStates

/-- R18, R19, R76, R244, R245: the power limit and its factor, the temperatures that halve it, and the refill of energy budgets. -/
def PowerEvents : Prop :=
  (∀ (s : State) (power : Nat), s.pkg.boot = 1 →
    let l := s.pkg.limit
    (s.pkg.limiting = false → 97 * l < 100 * power → ∃ u, exec (.powerPeriodEnd power) s = .next u ∧ u.pkg.limiting = true ∧ u.pkg.factor = 1024) ∧
    (s.pkg.limiting = false → 100 * power ≤ 97 * l → ∃ u, exec (.powerPeriodEnd power) s = .next u ∧ u.pkg.limiting = false ∧ u.regs = s.regs) ∧
    (s.pkg.limiting = true → 100 * power ≤ 90 * l → 9 ≤ s.pkg.quiet → ∃ u, exec (.powerPeriodEnd power) s = .next u ∧ u.pkg.limiting = false) ∧
    (s.pkg.limiting = true → 90 * l < 100 * power → ∃ u, exec (.powerPeriodEnd power) s = .next u ∧ u.pkg.limiting = true ∧ u.pkg.quiet = 0 ∧
      u.pkg.factor = max 1 (min 1024 (s.pkg.factor * 95 * l / (100 * power))))) ∧
  (∀ (s : State) (d t : Nat),
    (105 ≤ t → ∃ u, exec (.thermalHot d t) s = .next u ∧ u.pkg.hot = true ∧ u.pkg.limit = s.pkg.pkgLimit.toNat / 2 ∧ bit (u.reg offPwrStatus) 1 = true) ∧
    (t < 105 → (∀ e ∈ s.pkg.temps, e.2 < 105) → ∃ u, exec (.thermalHot d t) s = .next u ∧ u.pkg.hot = false ∧ u.pkg.limit = s.pkg.pkgLimit.toNat ∧
      bit (u.reg offPwrStatus) 1 = false) ∧
    (115 ≤ t → ∃ u, exec (.thermalHot d t) s = .next u ∧ u.pkg.thermtrip = true) ∧
    ∃ u, exec (.thermtrip d) s = .next u ∧ u.pkg.thermtrip = true ∧ u.pkg.hot = true) ∧
  (∀ (s : State) (w : BitVec 16),
    (s.pkg.boot = 1 → 600 ≤ w.toNat → w.toNat ≤ 1900 → ∃ u, exec (.pkgLimitWrite w) s = .next u ∧ u.pkg.pkgLimit = w) ∧
    (s.pkg.boot ≠ 1 ∨ w.toNat < 600 ∨ 1900 < w.toNat → exec (.pkgLimitWrite w) s = .next s)) ∧
  ∀ (s : State),
    (s.ccc.toNat % 1024 ≠ 0 → exec .energyRefill s = .next s) ∧
    (s.ccc.toNat % 1024 = 0 → s.pkg.factor ≤ 1024 → ∃ u, exec .energyRefill s = .next u ∧ u.hbm = s.hbm ∧
      ∀ c < 64, (s.ctxExists c = true → u.cxF c cEBUDGET 0 32 = min (s.cxF c cEBUDGET 0 32 + s.cxF c cERATEF 0 24) (s.ceilingOf c)) ∧
        (s.ctxExists c = false → u.cx c cEBUDGET = s.cx c cEBUDGET))

/-- R21, R22, R25, R73: a package reset keeps the flash alone; the release of RESET_N starts the CCC at zero, and boots to READY with context 0, or stops at the first stage
that fails. -/
def ResetAndBoot : Prop :=
  (∀ s : State, ∃ u, exec .packageReset s = .next u ∧ u.regs = State.reset.regs ∧ u.hbm = [] ∧ u.sram = [] ∧ u.tiles = [] ∧ u.threads = [] ∧
    u.pkg = { Package.idle with flash := s.pkg.flash }) ∧
  ∀ (s : State) (b : BootInput),
    (s.pkg.released = true → exec (.resetNRelease b) s = .next s) ∧
    (s.pkg.released = false → ∃ u, exec (.resetNRelease b) s = .next u ∧ u.ccc = 0 ∧ u.pkg.released = true ∧
      (s.pkg.factoryCopy = none → u.pkg.boot = 2 ∧ u.regs = s.regs) ∧
      ∀ i, s.pkg.factoryCopy = some i →
        let key := s.pkg.copyBytes i 0x28 32
        let floor := (s.pkg.lifeCopy.map fun k => s.pkg.copyNat k 0x8008 8).getD 0
        ((∃ d < 4, harvestOk (s.pkg.copyNat i (0x48 + 4 * d) 4) = false) → u.pkg.boot = 3) ∧
        ((∀ d < 4, harvestOk (s.pkg.copyNat i (0x48 + 4 * d) 4) = true) →
          (b.pufKey ≠ key → u.pkg.boot = 4) ∧
          (b.pufKey = key → (s.pkg.firmwareOk i b = false ∨ b.fwVersion.toNat < floor ∨ b.fwLoaded = false) → u.pkg.boot = 5) ∧
          (b.pufKey = key → s.pkg.firmwareOk i b = true → floor ≤ b.fwVersion.toNat → b.fwLoaded = true →
            (b.hbmTrained = false → u.pkg.boot = 6) ∧
            (b.hbmTrained = true → b.linksTrained = false → u.pkg.boot = 7) ∧
            (b.hbmTrained = true → b.linksTrained = true → b.pcieTrained = false → u.pkg.boot = 8) ∧
            (b.hbmTrained = true → b.linksTrained = true → b.pcieTrained = true → u.pkg.boot = 1 ∧ u.ctxExists 0 = true ∧ u.sysPriv 0 = true))))

/-- R26, R28, R76: the lifetime part is written to the other copy with the next sequence number and a floor that does not fall; a request for attestation is queued and its
report signed; and the two ways to take a dynamic address. -/
def DeviceRecord : Prop :=
  (∀ (s : State) (floor : BitVec 64), s.pkg.boot = 1 →
    ((s.ccc - s.pkg.lastRewrite).toNat < 3600 * 940000000 → exec (.lifetimeRewrite floor) s = .next s) ∧
    (3600 * 940000000 ≤ (s.ccc - s.pkg.lastRewrite).toNat → ∃ u, exec (.lifetimeRewrite floor) s = .next u ∧ u.pkg.seqNo = s.pkg.seqNo + 1 ∧
      u.pkg.fwFloor.toNat = max s.pkg.fwFloor.toNat floor.toNat ∧ u.pkg.lastRewrite = s.ccc ∧
      ∀ k, s.pkg.life = some k → k < 2 → u.pkg.life = some (1 - k) ∧
        ∀ a, a < 0x10000 * (1 - k) + 0x8000 ∨ 0x10000 * (1 - k) + 0x10000 ≤ a → mread u.pkg.flash a = mread s.pkg.flash a)) ∧
  (∀ (s : State) (nonce : List Byte), nonce.length = 32 →
    (s.pkg.boot = 1 → ∃ u, exec (.attestationRequest nonce) s = .next u ∧ u.pkg.requests = s.pkg.requests ++ [(nonce, true)]) ∧
    ∀ x rest, s.pkg.requests = (nonce, x) :: rest → ∃ u, exec .attestationReportSigned s = .next u ∧ u.pkg.requests = rest ∧
      u.pkg.report.length = 304 ∧ u.pkg.report.take 4 = [0x4B, 0x59, 0x41, 0x54] ∧ (u.pkg.report.drop 8).take 32 = nonce) ∧
  ∀ (s : State) (d : BitVec 7),
    (∃ u, exec (.setdasa 0x5A d) s = .next u ∧ u.pkg.dynAddr = some d) ∧ (∀ a, a ≠ 0x5A → exec (.setdasa a d) s = .next s) ∧
    (s.pkg.dynAddr = none → ∃ u, exec (.entdaa d) s = .next u ∧ u.pkg.dynAddr = some d) ∧
    (s.pkg.dynAddr.isSome = true → exec (.entdaa d) s = .next s)

/-- Power, reset, boot and the device record. Where it meets them, it rests on the model's own choices: log entries 6, 73, 111 and 112. -/
def Obligations.PackageEvents : Prop := PowerEvents ∧ ResetAndBoot ∧ DeviceRecord

/-- R56-R61, R79, R80: a tagged send joins the arrivals of its job's context, an RMA write is deposited in its window and with header data gives a notice; others are refused;
later packets of a send complete it, or its failure ends it; and a delivery ends a send of this chip. -/
def UetInputs : Prop :=
  (∀ (s : State) (r : UetRequest),
    (∀ x ∈ s.heldIn, x.ingress ≠ r.port % 4 + 1) → r.pdc < pdcLimit → r.mode ≠ .uud →
    (r.kind = .taggedSend → r.mode = .rudi → exec (.taggedSendArrival r) s = .next (s.refuse r.port false)) ∧
    (r.kind = .taggedSend → r.mode ≠ .rudi →
      (s.jobCtx r.job.toNat = none → exec (.taggedSendArrival r) s = .next (s.refuse r.port false)) ∧
      ∀ c, s.jobCtx r.job.toNat = some c →
        (s.unavailable c = true → exec (.taggedSendArrival r) s = .next (s.emit (.nack r.port))) ∧
        (s.unavailable c = false → ∃ u a, exec (.taggedSendArrival r) s = .next u ∧ u = { s with arrivals := s.arrivals ++ [(a : Arrival)] } ∧ a.mb = r.tag ∧
          a.skind = r.port % 4 + 1 ∧ a.aop = false ∧ a.src = s.peerIndex r.port r ∧ a.hdata = r.hdata.getD 0 ∧ a.len = r.len ∧ a.ctx = c ∧
          a.data = r.data.take r.len ∧ a.left = r.len - r.data.length ∧ a.born = s.ferryCycle)) ∧
    (r.kind = .rmaWrite →
      (s.jobCtx r.job.toNat = none → exec (.rmaWriteArrival r) s = .next (s.refuse r.port false)) ∧
      ∀ c s1, s.jobCtx r.job.toNat = some c → r.tag.toNat < 4096 → bit (s.reg128 (offRxw r.tag.toNat)) 0 = true →
        r.off.toNat + r.data.length ≤ winSize (s.reg128 (offRxw r.tag.toNat)) → s.unavailable (fld (s.reg128 (offRxw r.tag.toNat)) 1 6) = false →
        s.rxWrite r.tag.toNat r.off.toNat r.data none = .ok s1 →
        (r.hdata = none → exec (.rmaWriteArrival r) s = .next (s1.recordWrite r.tag.toNat r.off.toNat r.data)) ∧
        ∀ h, r.hdata = some h → ∃ u a, exec (.rmaWriteArrival r) s = .next u ∧ u.arrivals = s1.arrivals ++ [(a : Arrival)] ∧ a.aop = true ∧ a.mb = r.tag ∧ a.hdata = h ∧
          a.len = r.data.length ∧ a.ctx = c) ∧
    (r.kind ≠ .taggedSend → r.kind ≠ .rmaWrite → exec (.taggedSendArrival r) s = .next (s.refuse r.port false))) ∧
  (∀ (s : State) (r : UetRequest), (∀ x ∈ s.heldIn, x.ingress ≠ r.port % 4 + 1) → r.mode = .uud →
    ∀ i ∈ ([.taggedSendArrival r, .rmaWriteArrival r] : List Instr), exec i s = .next (s.bump offUetDrop)) ∧
  (∀ (s : State) (p : Nat), exec (.uudPacket p) s = .next (s.bump offUetDrop)) ∧
  (∀ (s : State) (p off : Nat) (data : List Byte) (d : Deposit), s.deposits = [d] → d.pdc = some p → d.left ≠ 0 → d.recAt = none →
    (∀ x ∈ s.heldIn, x.ingress ≠ p / 4096 % 4 + 1) →
    (∀ s1, s.rxWrite d.rxw (d.off + off) (data.take d.left) none = .ok s1 → ∃ u b, exec (.continuationPacket p off data) s = .next u ∧
      u.deposits = [{ d with left := d.left - data.length, born := b }] ∧ u.hbm = s1.hbm) ∧
    (∀ v, s.entry d.entry = v → d.entry ∉ s.disarmed → ∃ u, exec (.deliveryContextFailure p) s = .next u ∧ u.deposits = [] ∧
      u.entry d.entry = setFld v 232 8 (eOutst v - 1) ∧ u.hbm = s.hbm)) ∧
  ∀ (s : State) (id : Nat), exec (.uetDelivery id true) s = .next (s.sendEnds id none) ∧
    exec (.uetDelivery id false) s = .next (s.sendEnds id (some .uetDelivery))

/-- R65-R71: a host write goes to its aperture's window or is counted as dropped; a doorbell is an arrival once earlier writes are in; unsupported reads and accesses are
answered so; registers are read and written under their access codes; and a posted write leaves in order. -/
def HostInputs : Prop :=
  (∀ (s : State) (i off : Nat) (data : List Byte), i < 256 → (∀ x ∈ s.heldIn, x.ingress ≠ 0) →
    let h := s.reg (offHostAp i)
    let w := fld h 1 12
    let e := s.reg128 (offRxw w)
    (∀ s1, bit h 0 = true → bit e 0 = true → fld e 1 6 = fld h 13 6 → off + data.length ≤ winSize e → s.playing (fld h 13 6) = false →
      s.rxWrite w off data none = .ok s1 → exec (.hostApertureWrite i off data) s = .next (s1.recordWrite w off data)) ∧
    (bit h 0 = false → exec (.hostApertureWrite i off data) s = .next ((s.bump offHostDrop).report .windowUnmapped 0 7 0 0))) ∧
  (∀ (s : State) (page off : Nat) (data : List Byte), data.length = 16 → off % 16 = 0 → off < 4096 → page < 64 → s.ctxExists page = true →
    (∀ x ∈ s.heldIn, x.ingress ≠ 0) →
    (s.bar2Pending = false → exec (.doorbell page off data) s = .next { s with arrivals := s.arrivals ++ [
      { mb := BitVec.ofNat 64 (leNat (data.take 8)), skind := 5, aop := false, src := page, hdata := BitVec.ofNat 64 (leNat (data.drop 8)), len := 0,
        data := [], ctx := page, pdc := none, left := 0, more := [], recAt := none, born := s.ferryCycle }] }) ∧
    (s.bar2Pending = true → exec (.doorbell page off data) s = .next { s with heldIn := s.heldIn ++ [.doorbell page data] })) ∧
  (∀ (s : State) (page off : Nat) (data : List Byte), data.length ≠ 16 ∨ off % 16 ≠ 0 ∨ 4096 ≤ off ∨ 64 ≤ page ∨ s.ctxExists page = false →
    exec (.doorbell page off data) s = .next (s.bump offHostDrop)) ∧
  (∀ (s : State), exec (.hostUnsupportedRead 2) s = .next (s.emit .unsupportedRequest) ∧
    exec (.hostUnsupportedRead 4) s = .next (s.emit .unsupportedRequest)) ∧
  (∀ (s : State) (n : Nat) (v : Word), n < 256 →
    let r := offHostAp n
    exec (.bar0Access r 8 none) s = .next (s.emit (.readData (s.reg r))) ∧
    exec (.bar0Access (r + 4) 4 none) s = .next (s.emit (.readData (s.reg r >>> 32))) ∧
    (∀ i ∈ ([.bar0Access r 8 (some v), .registerWrite r v] : List Instr),
      exec i s = .next (s.setReg r ((s.reg r &&& ~~~ 0x7FFFF) ||| (v &&& 0x7FFFF)))) ∧
    exec (.bar0Access (r + 2) 4 none) s = .next (s.emit .unsupportedRequest)) ∧
  (∀ (s : State), ∃ u, exec (.registerReadClear offHostDrop) s = .next u ∧ u.regF offHostDrop 0 32 = 0 ∧ ∀ o, o ≠ offHostDrop → u.reg o = s.reg o) ∧
  ∀ (s : State) (h : HostTlp) (rest : List HostTlp), s.hostTlps = h :: rest →
    ∃ u, exec .hostWriteAccepted s = .next u ∧ u.hostTlps = rest

/-- What enters through the Ethernet and host ports. Where it meets them, it rests on the model's own choices: log entries 18, 66, 69 and 116. -/
def Obligations.OutsideInputs : Prop := UetInputs ∧ HostInputs

/-! ## The event unit, actions and threads of the Ferry, and its scheduler -/

/-- The event unit may take an event (R78, R97). -/
def eventMay (s : State) : Prop := s.actions.length < 4096 ∧ s.evUsed < 2

/-- R77, R79, R85-R91, R93: an arrival that no entry takes joins the unexpected list, or is discarded; one that an entry takes moves its counter, or is deposited. -/
def Arrivals : Prop :=
  (∀ (s : State) (a : Arrival), eventMay s → s.nextEvent = some (.arrival a) →
    let rest := s.arrivals.erase a
    let s0 := State.accept { s with arrivals := rest }
    (s.ctxExists a.ctx = false → exec .arrivalMatch s = .next s0.uxDrop) ∧
    (s.ctxExists a.ctx = true → s0.winner a = none →
      (s0.uxRoom a = true → s.threads = [] → (a.left = 0 ∨ s.recording a.ctx = false) → ∃ u r, exec .arrivalMatch s = .next u ∧ u.ux = s.ux ++ [r] ∧ r.a = a ∧ r.aseq = s.aseq ∧
        r.grans = s.freeGranules a.granules ∧ u.aseq = s.aseq + 1 ∧ u.arrivals = rest) ∧
      (s0.uxRoom a = false → 1 ≤ a.skind → a.skind ≤ 4 → exec .arrivalMatch s = .next (s0.emit (.nack (a.skind - 1)))) ∧
      (s0.uxRoom a = false → a.skind = 0 ∨ 4 < a.skind → exec .arrivalMatch s = .next (s0.uxDrop.report .unexpectedFull a.ctx 5 0 0))) ∧
    ∀ i, s.ctxExists a.ctx = true → s0.winner a = some i →
      let e := s.entry i
      (eDmode e = 0 → eCmode e = 1 → ∃ u, exec .arrivalMatch s = .next u ∧ u.cnt (eCnt e) = s.cnt (eCnt e) + 1 ∧ u.arrivals = rest) ∧
      (eDmode e = 0 → eCmode e = 2 → ∃ u, exec .arrivalMatch s = .next u ∧ u.cnt (eCnt e) = s.cnt (eCnt e) + BitVec.ofNat 64 a.len ∧ u.arrivals = rest) ∧
      ∀ s1, eDmode e = 1 → a.aop = false → a.len ≠ 0 → a.left = 0 → a.more = [] → eOutst e < 255 → eOnce e = false → bit (s.reg128 (offRxw (eDwin e))) 0 = true →
        fld (s.reg128 (offRxw (eDwin e))) 1 6 = eCtx e → eDoff e + a.len ≤ winSize (s.reg128 (offRxw (eDwin e))) →
        s0.rxWrite (eDwin e) (eDoff e) a.data none = .ok s1 →
        ∃ u d, exec .arrivalMatch s = .next u ∧ u.deposits = s.deposits ++ [(d : Deposit)] ∧ d.entry = i ∧ d.rxw = eDwin e ∧ d.off = eDoff e ∧ d.left = 0 ∧
          d.add = cmodeAdd e a.len ∧ eOutst (u.entry i) = eOutst e + 1 ∧ u.cnt (eCnt e) = s.cnt (eCnt e)) ∧
  (∀ (s : State) (a : Arrival) (i : Nat), s.winner a = some i → ∃ e, (i, e) ∈ s.entries ∧ eMatches e a = true ∧
    ∀ x ∈ s.entries, eMatches x.2 a = true → eArmseq e ≤ eArmseq x.2) ∧
  ∀ (e : BitVec 512) (a : Arrival), eMatches e a = true → eValid e = true ∧ eLinked e = true ∧ eTrig e = false ∧ eCtx e = a.ctx ∧ eAopv e = a.aop ∧
    (eSrcany e = true ∨ (eSrcid e = a.src ∧ a.src ≠ 0xFFF)) ∧ (a.mb ^^^ eMb e) &&& ~~~ eIgn e = 0

/-- R77, R84, R86-R88, R94: the end of a deposit, a window's delivery, an engine's signal and a register write move their counters; and an entry fires when its counter has
passed its threshold, once or by its period. -/
def CounterEvents : Prop :=
  (∀ (s : State) (d : Deposit), eventMay s → s.nextEvent = some (.deposit d) → s.deposits = [d] → d.entry ∉ s.disarmed →
    (d.add = none → ∃ u, exec (.depositCompletion d.entry) s = .next u ∧ u.deposits = [] ∧
      u.entry d.entry = setFld (s.entry d.entry) 232 8 (eOutst (s.entry d.entry) - 1)) ∧
    ∀ v, d.add = some v → ∃ u, exec (.depositCompletion d.entry) s = .next u ∧ u.deposits = [] ∧
      u.cnt (eCnt (s.entry d.entry)) = s.cnt (eCnt (s.entry d.entry)) + v) ∧
  (∀ (s : State) (d : WinDel) (rest : List WinDel), eventMay s → s.nextEvent = some (.delivery d) → s.winDel = d :: rest →
    (bit (s.reg (offRxdc d.rxw)) 0 = false →
      (d.ack = none → exec .windowDelivery s = .next (State.accept { s with winDel := rest })) ∧
      ∀ p k, d.ack = some (p, k) → exec .windowDelivery s = .next (State.inject (State.accept { s with winDel := rest }) 6 (ackPacketOf p k))) ∧
    (bit (s.reg (offRxdc d.rxw)) 0 = true → ∃ u, exec .windowDelivery s = .next u ∧ u.winDel = rest ∧
      let n := fld (s.reg (offRxdc d.rxw)) 1 14
      u.cnt n = s.cnt n + BitVec.ofNat 64 d.bytes)) ∧
  (∀ (s : State) (k n b : Nat), eventMay s → s.nextEvent = some (.signal k n b) → s.engSig = [(k, n, b)] → n < 2 ^ 14 → ∃ u, exec .engineSignal s = .next u ∧ u.engSig = [] ∧ u.cnt n = s.cnt n + 1) ∧
  (∀ (s : State) (n : Nat) (v : Word), n < 2 ^ 14 →
    (eventMay s → s.waiting = [] → exec (.counterRegisterWrite n v) s = .next (s.accept.setCounter n v none)) ∧
    (¬eventMay s ∨ s.waiting ≠ [] → exec (.counterRegisterWrite n v) s =
      .next { s with ctrCmds := s.ctrCmds ++ [{ counter := n, set := true, value := v, born := s.ferryCycle }] })) ∧
  ∀ (s : State) (i : Nat) (v : Word), eTen (s.entry i) = true → s.paused (eCtx (s.entry i)) = false →
    let e := s.entry i
    let u := s.evaluate i v none
    (2 ^ 63 ≤ (v - eThr e).toNat → u = s) ∧
    ((v - eThr e).toNat < 2 ^ 63 → (∃ g, u.actions = s.actions ++ [(g : Firing)] ∧ g.entry = i ∧ g.value = v ∧ g.ctx = eCtx e ∧ g.acts.length = eActs e) ∧
      (ePeriod e = 0 → eTen (u.entry i) = false ∧ eThr (u.entry i) = eThr e) ∧
      (ePeriod e ≠ 0 → eTen (u.entry i) = true ∧
        eThr (u.entry i) = eThr e + BitVec.ofNat 64 (((v - eThr e).toNat / ePeriod e + 1) * ePeriod e)))

/-- The action at the head of the action queue. -/
def headAction (s : State) (f : Firing) (a : BitVec 256) (ty : Nat) : Prop := s.actions.head? = some f ∧ f.acts[f.next]? = some a ∧ aType a = ty

/-- R95-R98, R100: the eight actions; one with a reserved type or bit, or that may not be carried out, ends its list with a record and a report. -/
def Actions : Prop :=
  (∀ (s : State) (f : Firing) (a : BitVec 256) (ty : Nat), headAction s f a ty → actionBad a = true → ∀ i : Instr,
    (i, ty) ∈ [(Instr.actionLaunch, 0), (.actionCopy, 1), (.actionSend, 2), (.actionRst, 3), (.actionInc, 4), (.actionKick, 5), (.actionThread, 6),
      (.actionRel, 7)] ∨ (8 ≤ ty ∧ i = .actionInc) → exec i s = .next (s.actionStop .rsvField)) ∧
  (∀ (s : State) (f : Firing) (rest : List Firing), s.actions = f :: rest →
    (f.next + 1 < f.acts.length → s.actionNext = { s with actions := { f with next := f.next + 1 } :: rest }) ∧
    (f.acts.length ≤ f.next + 1 → s.actionNext = { s with actions := rest }) ∧ ∀ c, (s.actionStop c).actions = rest) ∧
  ∀ (s : State) (f : Firing) (a : BitVec 256) (ty : Nat), headAction s f a ty → actionBad a = false →
    (∀ d, ty = 0 → s.launchTask f.ctx (fld a 64 26) (fld a 8 14) = .ok d →
      let q := fld a 22 3
      ((∃ t ∈ rectTiles (fld a 8 14), 64 ≤ ((s.tile t).queue q).tasks.length) → exec .actionLaunch s = .next (s.actionStop .taskqFull)) ∧
      ((∀ t ∈ rectTiles (fld a 8 14), ((s.tile t).queue q).tasks.length < 64) → ∃ u, exec .actionLaunch s = .next u ∧ u.actions = s.actionNext.actions ∧
        ∀ t ∈ rectTiles (fld a 8 14), ((u.tile t).queue q).tasks =
          ((s.tile t).queue q).tasks ++ [{ desc := d, ctx := (s.tileCtx t).getD 0, rect := BitVec.ofNat 14 (fld a 8 14), saved := false, parked := {} }])) ∧
    (ty = 1 → s.inRegion f.ctx (fld a 64 26) 128 = true → (bit a 13 = true → s.actionCounter f.ctx (fld a 14 14) = true) →
      let g := fld a 8 5
      let d := s.template (fld a 64 26)
      (32 ≤ (s.engine g).length → exec .actionCopy s = .next s) ∧
      (∀ x held s1, (s.engine g).length < 32 → s.cpPublishing f.ctx d = false → s.cpCheck f.ctx none d = .ok x → s.takeBoard (s.cpRanges f.ctx none d g) = some (held, s1) →
        ∃ u k, exec .actionCopy s = .next u ∧ u.engine g = s1.engine g ++ [(k : Copy)] ∧ k.desc = d ∧ k.ctx = f.ctx ∧ k.tile = none ∧ k.entry = f.entry ∧
          k.board = held ∧ k.failed = none ∧ u.actions = s1.actionNext.actions)) ∧
    (ty = 2 → 0 < sdLen a → sdDk a = false → sdLen a ≤ 4080 → s.destOk f.ctx none (sdDest a) = true →
      (sdDcv a = true → s.actionCounter f.ctx (sdDonecnt a) = true) → s.windowHolds (sdRx a) (sdWin a) f.ctx (sdOff a) (sdLen a) = true →
      (bit (s.winEntry (sdRx a) (sdWin a)) 0 = true → fld (s.winEntry (sdRx a) (sdWin a)) 1 6 = f.ctx) →
      s.windowMoves (sdRx a) (sdWin a) f.ctx (sdOff a) (sdLen a) = false →
      ∀ s1, ({ s with nextId := s.nextId + 1 } : State).sendOut
        { id := s.nextId, who := none, wait := false, ctx := f.ctx, firing := some (f.entry, f.next), dcv := if sdDcv a then some (sdDonecnt a) else none }
        { port := none, dest := sdDest a, mb := sdMb a, hdata := sdHdata a, data := s.windowBytes (sdRx a) (sdWin a) f.ctx (sdOff a) (sdLen a) } = .ok s1 →
        exec .actionSend s = .next s1.actionNext) ∧
    (∀ segs s1, ty = 3 → fld a 192 24 ≠ 0 → s.actionWindow (!bit a 32) (fld a 20 12) f.ctx (fld a 64 40) (fld a 192 24) = .ok () →
      s.actionWindow false (fld a 8 12) f.ctx (fld a 128 40) (fld a 192 24) = .ok () → (bit a 34 = true → ∀ e ∈ s.stores, e.list ≠ some f.id) →
      s.windowMoves (!bit a 32) (fld a 20 12) f.ctx (fld a 64 40) (fld a 192 24) = false → s.windowMoves false (fld a 8 12) f.ctx (fld a 128 40) (fld a 192 24) = false →
      s.actionSegs f.ctx (winVa (s.winEntry (!bit a 32) (fld a 20 12)) (fld a 64 40)) (winVa (s.winEntry false (fld a 8 12)) (fld a 128 40)) (fld a 192 24) = some segs →
      s.reserveRing 6 f.ctx (segsBytes segs + s.horizonBytes f.ctx (some (fld a 8 12))) 0 = .ok s1 →
      ∃ u e, exec .actionRst s = .next u ∧ u.stores = s1.stores ++ [(e : Store)] ∧ e.who = none ∧ e.ctx = f.ctx ∧ e.segs = segs ∧
        e.refl = some (s.reflectTo (fld a 8 12) (fld a 128 40) (if bit a 34 then f.token else none)) ∧ e.firing = some (f.entry, f.next)) ∧
    (ty = 4 →
      let n := fld a 8 14
      (s.actionCounter f.ctx n = false → exec .actionInc s = .next (s.actionStop .perm)) ∧
      (s.actionCounter f.ctx n = true → eventMay s → s.waiting = [] → ∃ u, exec .actionInc s = .next u ∧ u.cnt n = (if bit a 22 then 0 else s.cnt n) + wordOf a 1)) ∧
    (ty = 5 → s.itinOk f.ctx (fld a 8 8) = true → (fld a 16 16 = 0 ∨ s.inRegion f.ctx (fld a 64 26) (16 * fld a 16 16) = true) →
      let i := fld a 8 8
      (s.pending? i = true → exec .actionKick s = .next (s.actionStop .taskqFull)) ∧
      (s.pending? i = false → ∃ u, exec .actionKick s = .next u ∧ u.pending? i = true ∧ iPaddr (u.itin i) = fld a 64 26 ∧ iPcnt (u.itin i) = fld a 16 16)) ∧
    (ty = 6 →
      let g := fld a 8 4
      (256 ≤ (tget [] s.wakes g).length → exec .actionThread s = .next s) ∧
      ((tget [] s.wakes g).length < 256 → ∃ u k, exec .actionThread s = .next u ∧ tget [] u.wakes g = tget [] s.wakes g ++ [(k : Wake)] ∧
        k.pc = BitVec.ofNat 64 (fld a 64 32) ∧ k.ctx = f.ctx ∧ k.arr = f.arr ∧ tget 0 k.regs 1 = wordOf a 2 ∧ tget 0 k.regs 6 = f.value)) ∧
    (ty = 7 → s.rangeMoves f.ctx (wordOf a 1) 64 = false →
      (s.objectAt f.ctx (wordOf a 1) = none → exec .actionRel s = .next (s.actionStop .syncObjInvalid)) ∧
      ∀ pa v, s.objectAt f.ctx (wordOf a 1) = some (pa, v) →
        (objEvent v = false → exec .actionRel s = .next (s.actionStop .relNotHeld)) ∧
        (∀ s1, objEvent v = true → s.ferryRels = [] → (∀ e ∈ s.stores, e.who.isSome = true) →
          ({ s with nextId := s.nextId + 1 } : State).reserve 6 0 f.ctx 3 (wordOf a 1) = .ok s1 →
          exec .actionRel s = .next (s1.releaseObject 6 0 f.ctx (s1.winOf 6 0 f.ctx) (wordOf a 1) pa).actionNext) ∧
        (objEvent v = true → s.ferryRels ≠ [] ∨ (∃ e ∈ s.stores, e.who = none ∧ e.order < s.nextId) → ∃ u, exec .actionRel s = .next u ∧
          u.actions = s.actionNext.actions ∧ u.hbm = s.hbm ∧
          u.ferryRels = s.ferryRels ++ [{ entry := f.entry, act := f.next, ctx := f.ctx, va := wordOf a 1, order := s.nextId }]))

/-- R99-R101: a wake request starts the lowest idle thread of its group, and a run that is too long ends. -/
def ThreadEvents : Prop :=
  (∀ (s : State) (g n : Nat) (k : Wake), s.wakeReady g = some k → s.groupThread g = some n → ∃ u, exec (.threadDispatch g) s = .next u ∧
    (u.thr n).running = true ∧ (u.thr n).ctx = k.ctx ∧ (u.thr n).st.pc = k.pc ∧ (u.thr n).sc.regs = k.regs ∧ (u.thr n).start = s.ccc ∧ (u.thr n).arr = k.arr ∧
    tget [] u.wakes g = (tget [] s.wakes g).erase k ∧ ∀ m, m ≠ n → u.thr m = s.thr m) ∧
  (∀ (s : State) (g n : Nat), s.groupThread g = some n →
    let standby (k : Nat) : Prop := s.regF offSchedCtl 12 1 = 1 ∧ k / 16 = s.regF offSchedCtl 6 6
    n < 1024 ∧ bit (s.reg (offTgrp g)) (n / 16) = true ∧ (s.thr n).running = false ∧ ¬standby n ∧
      ∀ m < n, bit (s.reg (offTgrp g)) (m / 16) = true → (s.thr m).running = true ∨ standby m) ∧
  ∀ (s : State) (n : Nat), (s.thr n).running = true →
    let tooLong := s.reg offTwdog ≠ 0 ∧ (s.reg offTwdog).toNat < 2 * (s.ccc - (s.thr n).start).toNat
    (tooLong → ∃ u, exec (.threadWatchdog n) s = .next u ∧ (u.thr n).running = false) ∧
    (¬tooLong → exec (.threadWatchdog n) s = .next s)

/-- The event unit, the action queue and the threads. -/
def FerryUnitEvents : Prop := Arrivals ∧ CounterEvents ∧ Actions ∧ ThreadEvents

/-- The journal's area lies apart from a node. -/
def journalApart (s : State) (a : Nat) : Prop := s.sched.jbase + 32 * s.sched.jsize ≤ a ∨ a + 256 ≤ s.sched.jbase

/-- A node whose tasks the tiles of its rectangle take: its template has no reserved field, its tiles are the itinerary's context's, and the
journal does not lie over it (R182, R201). -/
def pushable (s : State) (e : BitVec 256) (k : Nat) : Prop :=
  journalApart s (nodeAt e k) ∧ descBad (descUntagged (s.template (nodeAt e k))) = false ∧
    ∀ t ∈ rectTiles (nRect (s.control (nodeAt e k))), s.tileCtx t = some (iCtx e)

/-- R194, R195, R197-R200, R209, R210, R454: a kick begins a run; a push goes to its queue; the last notice of a run ends it; the scheduler takes over and stops; and the
directory is written as its checks allow. -/
def SchedulerEvents : Prop :=
  (∀ (s : State), s.sched.stopped = false → s.held = false →
    (∀ j, s.sched.pushes = [] → s.nextKick = some j →
      let i := j % 256
      let e := s.itin i
      let l := s.patchList (iPaddr e) (iPcnt e)
      ((∃ p ∈ l, s.patchBad e p.1 p.2 = true) → ∃ u, exec .kickExpand s = .next u ∧ u.pending? i = false ∧ iRun (u.itin i) = false) ∧
      ((∀ p ∈ l, s.patchBad e p.1 p.2 = false) → ∃ u, exec .kickExpand s = .next u ∧ u.pending? i = false ∧
        iRuns (u.itin i) = (iRuns e + 1) % 2 ^ 32 ∧ u.sched.served = i ∧
        (l = [] → 0 < s.sched.jsize → (∀ k < iNodes e, pushable s e k) → iRun (u.itin i) = true ∧ iLeft (u.itin i) = iNodes e))) ∧
    ∀ p q, s.sched.pushes = [p] → p.seq = some q → s.pushRepeated p = false → s.pushRefused p = none → s.nextKick = none →
      (((s.tile p.tile).queue p.q).tasks.length < 64 → ∃ u, exec .kickExpand s = .next u ∧ u.sched.pushes = [] ∧
        ((u.tile p.tile).queue p.q).tasks = ((s.tile p.tile).queue p.q).tasks ++ [s.pushTask p]) ∧
      (64 ≤ ((s.tile p.tile).queue p.q).tasks.length → exec .kickExpand s = .next s)) ∧
  (∀ (s : State) (v : BitVec 128) (dcv : Option Nat) (rest : List (BitVec 128 × Option Nat)), s.sched.stopped = false → s.held = false → eventMay s →
    s.sched.fifo = (v, dcv) :: rest →
    let s0 : State := { s with sched := { s.sched with fifo := rest } }
    (bit v 11 = false → (bit v 10 = true ∨ 2 ≤ fld v 8 2 → exec .noticeTake s = .next s0) ∧
      ∀ n, bit v 10 = false → fld v 8 2 ≤ 1 → dcv = some n → bit (s.reg (offCntCtl n)) 0 = true → n < 2 ^ 14 →
        ∃ u, exec .noticeTake s = .next u ∧ u.cnt n = s.cnt n + 1 ∧ u.sched.fifo = rest) ∧
    let i := fld v 12 8
    let e := s.itin i
    let a := nodeAt e (fld v 20 16)
    (bit v 11 = true → iRun e = true → fld v 36 16 = iRuns e % 65536 → fld v 20 16 < iNodes e → fld v 8 2 = 0 → bit v 10 = false → bit v 58 = true →
      dcv = none → iDcv e = false → nRemret (s.control a) = 1 → 1 ≤ iLeft e → i ∉ s.sched.failing → s.sched.pushes = [] →
      (s.sched.seq - s.sched.ckpt).toNat < 4090 → journalApart s a → 0 < s.sched.jsize →
      ∃ u, exec .noticeTake s = .next u ∧ iLeft (u.itin i) = iLeft e - 1 ∧ iRun (u.itin i) = decide (iLeft e ≠ 1) ∧ nState (u.control a) = 4)) ∧
  (∀ s : State,
    (s.regF offSchedCtl 12 1 = 0 → exec .schedulerTakeover s = .next s ∧ ∃ u, exec .schedulerStop s = .next u ∧ u.sched.stopped = true ∧ u.held = true) ∧
    (s.regF offSchedCtl 12 1 = 1 → exec .schedulerStop s = .next s ∧ ∃ u, exec .schedulerTakeover s = .next u ∧ u.regF offSchedCtl 12 1 = 0 ∧
      u.regF offSchedCtl 0 6 = s.regF offSchedCtl 6 6 ∧ u.regF offSchedCtl 6 6 = s.regF offSchedCtl 0 6 ∧ u.sched.stopped = false)) ∧
  ∀ (s : State) (n w : Nat) (v : Word), n < 256 →
    let e := s.itin n
    let x := (wordOf e w &&& ~~~ itinMask w) ||| (v &&& itinMask w)
    let e1 := setWord e w x
    (w ≠ 2 → iRun e = true ∨ iPend e = true → exec (.itinWrite n w v) s = .next s) ∧
    (w = 2 → exec (.itinWrite n w v) s = .next (s.modItin n fun _ => e1)) ∧
    (w = 0 → iRun e = false → iPend e = false →
      (bit v 0 = false ∨ s.itinBreach e1 = none → exec (.itinWrite n w v) s = .next (s.modItin n fun _ => e1)) ∧
      ∀ c k, bit v 0 = true → s.itinBreach e1 = some (c, k) → c < 8 → k < 65536 → ∃ u, exec (.itinWrite n w v) s = .next u ∧ iValid (u.itin n) = false ∧
        u.regF offIerr 0 3 = c ∧ u.regF offIerr 3 8 = n ∧ u.regF offIerr 11 16 = k)

/-- The events of the Ferry: of its event unit, its threads and its scheduler. Where it meets them, it rests on the model's own choices: log entries 43, 45, 48, 53, 55, 58, 62, 63, 114, 117, 118, 124 and 127. -/
def Obligations.FerryEvents : Prop := FerryUnitEvents ∧ SchedulerEvents
/-! ## Contexts, registers, muster, replay and errors -/

/-- R73, R257, R259: creation refuses a context whose areas are not pinned, or starts it; destruction ends its tasks and then the context; and a lost save area makes it LOST. -/
def ContextLife : Prop :=
  (∀ (s : State) (c : Nat), c < 64 → s.ctxExists c = false →
    (s.createErr c ≠ 0 → exec (.contextCreate c) s = .next (s.setCx c cLIFE (BitVec.ofNat 64 (s.createErr c * 2)))) ∧
    (s.createErr c = 0 → ∃ u, exec (.contextCreate c) s = .next u ∧ u.ctxExists c = true ∧ u.mstate c = 0 ∧ u.cxF c cEBUDGET 0 32 = 0 ∧
      (∀ n < 2 ^ 14, s.ownsCnt c n = true → u.cnt n = 0) ∧
      u.saveFrames = s.saveFrames ++ (s.areas c).flatMap (fun a => s.areaFrames c a.1 a.2))) ∧
  (∀ (s : State) (c : Nat), s.ctxExists c = true → c < 64 →
    ((∀ e ∈ s.tiles, (∀ k, e.2.task = some k → k.t.ctx ≠ c) ∧ (∀ k ∈ e.2.left, k.t.ctx ≠ c) ∧
        ∀ q ∈ e.2.tq, ∀ k ∈ q.2.tasks, k.saved = true → k.ctx ≠ c) → ∃ u, exec (.contextDestroy c) s = .next u ∧
      u.ctxExists c = false ∧ (∀ f ∈ u.saveFrames, f.1 ≠ c) ∧ (∀ f ∈ u.actions, f.ctx ≠ c) ∧ ∀ n < 1024, (u.thr n).running = true → (u.thr n).ctx ≠ c) ∧
    ((∃ e ∈ s.tiles, ∃ k, e.2.task = some k ∧ k.t.ctx = c) → ∃ u, exec (.contextDestroy c) s = .next u ∧ u.ctxExists c = true ∧
      ∀ e ∈ u.tiles, ∀ k, e.2.task = some k → k.t.ctx = c → k.fatal.isSome = true) ∧
    ∀ off, s.mstate c ≠ 4 → ∃ u, exec (.saveAreaLost c off) s = .next u ∧ u.mstate c = 4 ∧
      ∀ e ∈ u.tiles, ∀ k, e.2.task = some k → k.t.ctx = c → k.fatal.isSome = true)

/-- R30, R104, R105, R113, R137, R202, R276, R285, R458: registers whose writes have rules of their own. -/
def RegisterRules : Prop :=
  (∀ (s : State) (v : Word),
    ((∀ n < 6, s.linkState n = 0) → exec (.straitGeomWrite v) s = .next (s.setReg offGeom (v &&& 0xFFFFF))) ∧
    ((∃ n < 6, s.linkState n ≠ 0) → exec (.straitGeomWrite v) s = .next s) ∧
    ∃ u, exec (.xlatCtlWrite v) s = .next u ∧ u.regF offXlatCtl 1 10 = max 1 (fld v 1 10) ∧
      (bit v 0 = true → bit (u.reg offXlatCtl) 0 = true) ∧
      (bit v 0 = false → s.dimX * s.dimY * s.dimZ ≤ 64 → bit (u.reg offXlatCtl) 0 = false) ∧
      (64 < s.dimX * s.dimY * s.dimZ → bit (s.reg offXlatCtl) 0 = true → bit (u.reg offXlatCtl) 0 = true)) ∧
  (∀ (s : State) (rx : Bool) (n : Nat) (v : BitVec 128), n < 4096 →
    let place := if rx then offRxw n else offTxw n
    (bit v 0 = false ∨ s.windowPinned (v &&& winMask) = true → exec (.windowEntryWrite rx n v) s = .next (s.setReg128 place (v &&& winMask))) ∧
    (bit v 0 = true → s.windowPinned (v &&& winMask) = false → exec (.windowEntryWrite rx n v) s = .next (s.windowError (if rx then 1 else 0) n))) ∧
  (∀ (s : State) (n : Nat) (v : Word), n < 65536 →
    let c := fld (s.reg128 (offTxw (n / 16))) 1 6
    (s.isMember c (fld v 1 10) = true → exec (.txdstWrite n v) s = .next (s.setReg (offTxDst n) (v &&& 0x7FFFFF))) ∧
    (s.isMember c (fld v 1 10) = false → exec (.txdstWrite n v) s = .next (s.windowError 2 n))) ∧
  (∀ (s : State) (n : Nat) (v : Word), n < 16 →
    ((s.coll n).run = none → (s.coll n).queue = [] → exec (.cengOwnWrite n v) s = .next (s.setReg (offCengOwn n) (v &&& 0x7F))) ∧
    ((s.coll n).run.isSome = true ∨ (s.coll n).queue ≠ [] → exec (.cengOwnWrite n v) s = .next s)) ∧
  (∀ (s : State) (c : Nat) (v : BitVec 32), c < 64 →
    let old := s.cxF c cUNDOWIN 0 32
    let ahead := (v - BitVec.ofNat 32 old).toNat
    (2 ^ 31 ≤ ahead → exec (.undowinOldestWrite c v) s = .next s) ∧
    (ahead < 2 ^ 31 → ∃ u, exec (.undowinOldestWrite c v) s = .next u ∧
      u.cxF c cUNDOWIN 0 32 = min (old + ahead) (s.oldestLimit c) % 2 ^ 32 ∧
      (∀ r ∈ (CtxLog.of u c).recs, (r.win - BitVec.ofNat 32 (u.cxF c cUNDOWIN 0 32)).toNat < 2 ^ 31) ∧
      ∀ r ∈ (CtxLog.of s c).recs, (r.win - BitVec.ofNat 32 (u.cxF c cUNDOWIN 0 32)).toNat < 2 ^ 31 → r ∈ (CtxLog.of u c).recs)) ∧
  (∀ (s : State) (c : Nat), c < 64 →
    (s.playing c = true → s.mstate c = 3 → exec (.replayPlayClear c) s = .next (s.setCx c cREPLAY (s.cx c cREPLAY &&& ~~~ 2)) ∧
      (s.setCx c cREPLAY (s.cx c cREPLAY &&& ~~~ 2)).playing c = false) ∧
    (s.playing c = false ∨ s.mstate c ≠ 3 → exec (.replayPlayClear c) s = .next s)) ∧
  ∀ (s : State) (d o : Nat) (v : Word), s.slotNew = [(o, v)] → (o - 0x700000) / 0x10000 = d →
    (s.ccc.toNat % 256 = 0 → exec (.slotTableUpdate d) s = .next { s.setReg o v with slotNew := [] }) ∧
    (s.ccc.toNat % 256 ≠ 0 → exec (.slotTableUpdate d) s = .next s)

/-- Contexts and the registers with rules of their own. Where it meets them, it rests on the model's own choices: log entries 64, 65, 67, 68 and 71. -/
def Obligations.ContextsAndRegisters : Prop := ContextLife ∧ RegisterRules

/-- R260, R441: a muster goes from STOPPING to DRAINING when nothing of the context runs, and with every member's notice to MUSTERED. -/
def MusterEvents : Prop :=
  (∀ (s : State) (c : Nat), c < 64 →
    (s.mstate c ≠ 1 → s.mstate c ≠ 2 → exec (.musterDrained c) s = .next s) ∧
    (s.mstate c = 1 → s.threads = [] → s.allStopped c = true → s.allDrained c = false → (s.muster c).drained = false →
      exec (.musterDrained c) s = .next (s.setMstate c 2)) ∧
    (s.mstate c = 2 → (s.muster c).drained = false → s.allDrained c = true → (s.muster c).alone = true → (CtxLog.of s c).after = .nothing →
      ∃ u, exec (.musterDrained c) s = .next u ∧ u.mstate c = 3)) ∧
  ∀ (s s1 : State) (port : Nat) (p : Packet),
    s.headAt port (fun p => p.dst == s.chip && !p.bad && p.pop == 0x15 && (decide (noticeKind p < 0x40) || decide (0x48 ≤ noticeKind p))) = some (p, s1) →
    s.fences.getLsbD p.src = false → s.fences.getLsbD p.dst = false → s.mustWait (noticeCtx p) p = false →
    (noticeKind p ≠ 0x50 → exec (.musterNotice port) s = .next s1) ∧
    (noticeKind p = 0x50 → s1.playing (noticeCtx p) = false → s1.mstate (noticeCtx p) ≠ 2 → ∃ u, exec (.musterNotice port) s = .next u ∧
      (p.src, p.word3) ∈ (u.muster (noticeCtx p)).notices)

/-- R273, R274, R276-R278: a record that is rolled back puts its old bytes, flag or descriptor back; and a full buffer moves a block to the ring. -/
def UndoEvents : Prop :=
  (∀ (s : State) (t : Nat), ((s.tile t).undoBuf < 4096 → exec (.undoBlockMove t) s = .next s) ∧
    (4096 ≤ (s.tile t).undoBuf → ∃ u, exec (.undoBlockMove t) s = .next u ∧ (u.tile t).undoBuf ≤ (s.tile t).undoBuf ∧
      ∀ x, x ≠ t → (u.tile x).undoBuf = (s.tile x).undoBuf)) ∧
  ∀ (s : State) (c : Nat) (r : UndoRec),
    let bs := r.old.flatMap fun w => leBytes 8 w.toNat
    (r.rtype = 1 → r.akind = 0 → s.savedCtx (fld r.addr 0 8) = none →
      s.undoOne c r = s.modTile (fld r.addr 0 8) fun x => { x with spad := mwrites x.spad (fld r.addr 8 21) bs }) ∧
    (r.rtype = 1 → r.akind = 1 → s.undoOne c r = s.physWrite c r.addr bs) ∧
    (∀ pa, r.rtype = 1 → r.akind = 2 → s.tensorBack c r.addr = some pa → s.undoOne c r = { s with hbm := mwrites s.hbm pa bs }) ∧
    (r.rtype = 2 → s.savedCtx r.tile = none →
      s.undoOne c r = s.modTile r.tile fun x => { x with flags := tput 0 x.flags (fld r.addr 0 6) (BitVec.ofNat 16 (fld r.addr 6 16)) }) ∧
    (r.rtype = 5 →
      let d := s.tensor c (fld r.addr 0 8)
      let u := s.undoOne c r
      tdCtab (u.tensor c (fld r.addr 0 8)) = tdStab d ∧ tdStab (u.tensor c (fld r.addr 0 8)) = tdCtab d ∧
      tdXp (u.tensor c (fld r.addr 0 8)) = !tdXp d) ∧
    (r.rtype = 3 → s.undoOne c r = s)

/-- R283, R285, R290, R291: a recorded input enters when its time has come; a precise stop begins a muster at its work count; a snapshot is latched 256 cycles after its
trigger; and samples are taken each 2^SPER cycles. -/
def ReplayEvents : Prop :=
  (∀ (s : State) (c : Nat),
    let l := CtxLog.of s c
    let h := leNat (s.replayBytes c l.playPos 32)
    let n := 8 * nfld h 16 16
    (s.playing c = false → exec (.replayInputInject c) s = .next s) ∧
    (s.playing c = true → s.mstate c < 3 → l.playPos ≠ l.rpos → l.after = .nothing → eventMay s →
      ((s.ccc - l.playStart).toNat < (BitVec.ofNat 64 (nfld h 64 64) - l.playRec).toNat → exec (.replayInputInject c) s = .next s) ∧
      ((BitVec.ofNat 64 (nfld h 64 64) - l.playRec).toNat ≤ (s.ccc - l.playStart).toNat →
        (s.replaySize c ≠ 0 → nfld h 0 4 = 4 → ∃ u, exec (.replayInputInject c) s = .next u ∧
          (u.tile (nfld h 128 64 % 256)).lotx = BitVec.ofNat 32 (nfld h 192 64) ∧ (CtxLog.of u c).playPos = (l.playPos + 32 + n) % s.replaySize c) ∧
        (c < 64 → nfld h 0 4 = 5 → ∃ u, exec (.replayInputInject c) s = .next u ∧ u.cx c cERATEF = BitVec.ofNat 64 (nfld h 128 64))))) ∧
  (∀ (s : State) (c iv t n : Nat), c < 64 → (CtxLog.of s c).target = some (iv, t, n) →
    ((s.tile t).work < n → exec (.preciseStopReached c) s = .next s) ∧
    (s.playing c = true → s.mstate c = 0 → (CtxLog.of s c).playIv = iv → n ≤ (s.tile t).work → ∃ u, exec (.preciseStopReached c) s = .next u ∧
      u.mstate c = 1 ∧ (CtxLog.of u c).after = .stopped ∧ (u.muster c).alone = true)) ∧
  (∀ s : State, (s.snapAt = none → exec .snapshotLatch s = .next s) ∧
    ∀ c, s.snapAt = some c → ((s.ccc - c).toNat < 256 → exec .snapshotLatch s = .next s) ∧
      (256 ≤ (s.ccc - c).toNat → ∃ u, exec .snapshotLatch s = .next u ∧ u.snapAt = none ∧ (∀ o ∈ statusRegs, tget 0 u.unitSnap o = s.barPeek o) ∧
        ((∀ t < 256, bit (s.tile t).trace.ctl 0 = false) → ∀ t < 256, (u.tile t).snap = s.snapSet t))) ∧
  ∀ (s : State) (t : Nat),
    (s.ccc.toNat % 2 ^ fld (s.tile t).trace.ctl 5 5 ≠ 0 ∨ bit (s.tile t).trace.ctl 0 = false ∨ bit (s.tile t).trace.ctl 4 = false →
      exec (.traceSample t) s = .next s) ∧
    (s.ccc.toNat % 2 ^ fld (s.tile t).trace.ctl 5 5 = 0 → exec (.traceSample t) s =
      .next (s.trace t 4 4 0 ((List.range 4).flatMap fun k => leBytes 8 ((s.tile t).stream k).pc.toNat)))

/-- R53, R246, R271, R293: an uncorrectable error is fatal to what meets it; a correctable one is counted; and a package whose heartbeats are missed is fenced. -/
def ErrorEvents : Prop :=
  (∀ (s : State) (t k : Nat),
    let s1 := s.gather 0x8C18 1
    (k < 4 → (s.tile t).task.isSome = true → exec (.uncorrectableError (.stream t k)) s = .next (s1.raiseIdle t k .eccUncorrectable 0)) ∧
    ((s.thr t).running = true → ∃ u, exec (.uncorrectableError (.thread t)) s = .next u ∧ (u.thr t).running = false) ∧
    (∀ c rest, tget [] s.copies t = c :: rest → ∃ u, exec (.uncorrectableError (.copyEngine t)) s = .next u ∧
      tget [] u.copies t = { c with failed := some (c.failed.getD .eccUncorrectable) } :: rest) ∧
    (∀ r, (s.coll t).run = some r → r.aborted = none → r.decided = none → ∃ u r1, exec (.uncorrectableError (.collEngine t)) s = .next u ∧
      (u.coll t).run = some r1 ∧ r1.aborted = some .eccUncorrectable) ∧
    exec (.uncorrectableError .ferrySram) s = .next (s1.report .eccUncorrectable 0 5 0 0) ∧
    (t = s.regF offSchedCtl 0 6 → s.sched.stopped = false → s.regF offSchedCtl 12 1 = 0 → ∃ u, exec (.uncorrectableError (.ferryCore t)) s = .next u ∧
      u.sched.stopped = true)) ∧
  (∀ (s : State) (t d : Nat), s.recording (s.ctxOfTile t) = false → ∃ u, exec (.correctableError (.tile t) d) s = .next u ∧
    tget 0 u.pkg.gathered (0x82B0 + 8 * t) = tget 0 s.pkg.gathered (0x82B0 + 8 * t) + 1 ∧ u.regs = s.regs ∧ u.hbm = s.hbm) ∧
  ∀ (s : State) (c : Nat), c < 1024 → ∃ u, exec (.missedHeartbeats c) s = .next u ∧ u.fences.getLsbD c = true ∧
    ∀ k < 64, s.ctxExists k = true → s.mstate k = 0 → s.isMember k c = true → c ≠ s.chip → u.mstate k = 1

/-- Muster, rollback, replay and errors. Where it meets them, it rests on the model's own choices: log entries 91, 92, 97, 101 and 131. -/
def Obligations.DebugEvents : Prop := MusterEvents ∧ UndoEvents ∧ ReplayEvents ∧ ErrorEvents

/-! ## The whole machine -/

/-- What a package holds at reset: the CCC at zero (R16), PKG_LIMIT at 1,900 W (R18), and every field whose register map gives it a reset
value other than zero (R4). PACKAGE_RESET makes the package so from any state, and keeps only the flash (R21). -/
def Obligations.ResetState : Prop :=
  let blank (s : State) : Prop :=
    s.ccc = 0 ∧ s.pkg.released = false ∧ s.pkg.pkgLimit.toNat = 1900 ∧ s.regF offPwrStatus 2 11 = 1900 ∧
    s.reg offUxMaxLen = 65536 ∧ s.reg offTwdog = 0x01000000 ∧ s.regF offXlatCtl 1 10 = 100 ∧
    s.regF offSchedCtl 0 6 = 0 ∧ s.regF offSchedCtl 6 6 = 1 ∧ s.regF offJsize 0 17 = 8192 ∧ (∀ n < 16, s.regF (offArb n) 12 12 = 64) ∧
    (∀ c < 64, s.cxF c cLEASE 0 11 = 64 ∧ s.cxF c cTKEXP 0 17 = 100 ∧ s.cxF c cRFTMO 0 17 = 1000 ∧ s.cxF c cPRETMO 0 20 = 10000 ∧
      s.ctxExists c = false) ∧
    ∀ t, (s.tile t).task = none ∧ fld (s.tile t).trace.ctl 5 5 = 10 ∧ fld (s.tile t).trace.size 0 17 = 1 ∧ (s.tile t).flagsat = 0 ∧
      ∀ q, ((s.tile t).queue q).tickets = 1 ∧ ((s.tile t).queue q).tasks = []
  blank State.reset ∧ ∀ s : State, ∃ u, exec .packageReset s = .next u ∧ blank u ∧ u.pkg.flash = s.pkg.flash ∧ u.hbm = [] ∧ u.threads = []

/-- One step runs what the agenda names next. An issue opportunity of a stream or thread that is ready reads the halfwords at its pc (R313),
each translated (R218), and runs the instruction they decode to, with the exit of a hardware loop around it (R225, R289); halfwords that decode to none run the
event that raises their cause (R321). An event runs as it stands, an engine runs the step word it stands at (R165), a move that a package
which is not READY does not answer is passed over (R22), and an empty agenda ends the cycle. In the cycle of a precise stop a tile's streams issue only as
far as the stop (R285): the first part is of the other cycles. Where it meets them, it rests on the model's own choices: log entry 1. -/
def Obligations.StepRunsDecoded : Prop :=
  (∀ (s s1 : State) (w : Who) (rest : List Move) (hs : List (BitVec 16)), s.pkg.boot = 1 → (∀ n, w ≠ .engine n) →
    (s.agenda = .issue w :: rest ∨ (s.agenda = .retry w :: rest ∧ ({ s with agenda := rest } : State).portHeld w = true)) →
    (∀ t k, w = .stream t k → s.toStop t = none ∧ (s.tile t).allow = none) →
    (let s0 : State := { s with agenda := rest, cur := w }; s0.ready w = .one ∧ s0.readInsn w = .ok (hs, s1)) →
    let s2 : State := { s1 with curInsn := insnWord hs }
    let around (i : Instr) : Prop :=
      (∀ u, exec i s2 = .next u → step s = .next (u.loopExit s2 w)) ∧ (∀ f, exec i s2 = .fault f → step s = .fault f) ∧
      ∀ r, exec i s2 = .refused r → step s = .refused r
    (∀ i, decodeHalves w.cls hs = .ok i → around i) ∧ ∀ c, decodeHalves w.cls hs = .error c → around (.unallocatedEncoding c)) ∧
  (∀ (s : State) (w : Who) (pa : Nat → Nat), (s.strm w).blk = none →
    (let pc := (s.strm w).pc
     ∀ j < 4, let va := pc + BitVec.ofNat 64 (2 * j); va.toNat < 2 ^ 56 ∧ s.translate w (s.ctxOf w) va false = .ok (pa j, s)) →
    let h (j : Nat) : BitVec 16 := BitVec.ofNat 16 (mval s.hbm (pa j) 2)
    isHeader (h 0) = false → s.readInsn w = .ok ((List.range (halfCount w.cls (h 0))).map h, s)) ∧
  (∀ (s : State) (i : Instr) (rest : List Move), s.agenda = .event i :: rest → s.answers (.event i) = true → step s = exec i { s with agenda := rest }) ∧
  (∀ (s : State) (m : Move) (rest : List Move), s.agenda = m :: rest →
    (s.pkg.boot = 1 → s.answers m = true) ∧ (s.answers m = false → step s = .next { s with agenda := rest })) ∧
  (∀ (s : State) (n e : Nat) (r : CollRun) (rest : List Move), s.pkg.boot = 1 → s.agenda = .issue (.engine n) :: rest →
    (let s0 : State := { s with agenda := rest, cur := .engine n }; s0.engineRun = some (e, r)) →
    let s0 : State := { s with agenda := rest, cur := .engine n }
    (r.aborted.isSome ∨ r.ended = true → step s = exec .stepEnd s0) ∧
    (r.aborted = none → r.ended = false → ∀ i, decodeStep r.word = some i → step s = exec i s0)) ∧
  ∀ s : State, s.agenda = [] → step s = .next s.tick

/-- R313, R315, R316 and the opcode maps: one word of each format and class, written out field by field from its encoding, and the
instruction it stands for. The last is the step word of R332's example. -/
def Obligations.DecodeWords : Prop :=
  -- cop 1, x 5, y 6
  decodeHalves .control [0b0_00001_00101_00110] = .ok (.addC { x := 5, y := 6 }) ∧
  -- TRI: major, d, a, b, wa wb, func
  decodeWord .control 0b100000_000011_000001_000010_10_000001 0 = .ok (.sub { d := 3, a := 1, b := 2, wa := true, wb := false }) ∧
  decodeWord .ferry 0b110110_000011_000001_000010_00_011001 0 = .ok (.amocasI32 { d := 3, a := 1, b := 2, wa := false, wb := false }) ∧
  -- IMM.S: major, d, a, imm14
  decodeWord .control 0b100001_000101_000110_11111111111101 0 = .ok (.addi { d := 5, a := 6, imm := BitVec.ofInt 14 (-3) }) ∧
  -- IMM.W: major, d, imm20
  decodeWord .control 0b101001_000001_10000000000000000001 0 = .ok (.lih { d := 1, imm := 0x80001 }) ∧
  -- BRA.S: major, a, b, off14
  decodeWord .control 0b101100_000001_000010_11111111111110 0 = .ok (.blt { a := 1, b := 2, off := BitVec.ofInt 14 (-2) }) ∧
  -- BRA.L: major, d, off20
  decodeWord .ferry 0b110010_111111_00000000000000000101 0 = .ok (.jal { d := 63, off := 5 }) ∧
  -- MEM: major, d, a, op, off11
  decodeWord .control 0b110100_000100_000101_110_11111111111 0 = .ok (.ldd { d := 4, a := 5, off := BitVec.ofInt 11 (-1) }) ∧
  decodeWord .access 0b100011_000011_000010_000_00000000011 0 = .ok (.lq { d := 3, a := 2, off := 3 }) ∧
  -- HDR: major, LEN, S, LCV, LCN, COUNT
  decodeWord .matrix 0b111111_0000000101_1_1_10_000000000000 0 = .ok (.blockHeader { len := 5, s := true, lcv := true, lcn := 2, count := 0 }) ∧
  -- CMD: major, d, a, b, sub; then C, PV PN PK, and the layout's fields
  decodeWord .control 0b111010_000001_000010_000011_00000001 0 =
    .ok (.cset { d := 1, a := 2, b := 3, c := 0, pv := false, pn := false, pk := 0, imm := 0 }) ∧
  decodeWord .ferry 0b111011_000001_000010_000011_00000010 0b000100_0_0_0000_00000000000001000000 =
    .ok (.mrecv { d := 1, a := 2, b := 3, c := 4, pv := false, pn := false, pk := 0, imm := 64 }) ∧
  -- layout V: TY 0, TY2 0, RM 1, FZI 1, FZO 0, SAT 1, IMM7 0
  decodeWord .vector 0b100000_000001_000010_000011_00000011 0b000100_1_1_0101_0000_0000_01_1_0_1_0000000 =
    .ok (.vfma { d := 1, a := 2, b := 3, c := 4, pv := true, pn := true, pk := 5, ty := 0, ty2 := 0, rm := 1, fzi := true, fzo := false,
                 sat := true, imm := 0 }) ∧
  -- layout M: DT 9, EC 2
  decodeWord .matrix 0b100000_000000_000000_000000_00000000 0b000000_0_0_0000_00001001_10_00_0_0_0000_00 =
    .ok (.mnop { d := 0, a := 0, b := 0, c := 0, pv := false, pn := false, pk := 0, dt := 9, ec := 2, rm := 0, sat := false, fzo := false, ty := 0 }) ∧
  -- step.rrs pk=1, ck=0, db=1, sf, wd
  decodeStep 0x0000000A80000022 =
    some (.stepRrs { is := false, pk := 1, ck := 0, cm := 0, sb := 0, db := 1, sf := true, lr := false, wd := true, ns := false, fw := false,
                     iw := false, tr := false })

/-- R313-R320 and the opcode maps: the halfwords of a well-formed instruction decode, in its class, to that instruction with every operand
as it was, the first halfword gives their number, and a step word decodes to its step. UPUT's one word names either kind of descriptor
(R426), and the decoder answers the first. -/
def Obligations.EncodeDecode : Prop :=
  ∀ i : Instr, i.wf = true → i.asDecoded = i →
    match i.code with
    | .none => True
    | .step w => decodeStep w = some i
    | c => decodeHalves i.cls c.halves = .ok i ∧ halfCount i.cls (c.halves.headD 0) = c.halves.length

/-- R18 at reset: the package limit is one that a write could set, and no limiting is under way. -/
def Obligations.PowerLimitsAtReset : Prop := State.reset.PowerLimits

/-- R18 over every step: PKG_LIMIT stays from 600 to 1,900 W, F stays from 1 to 1,024, and F is 1,024 while no limiting is under way. -/
def Obligations.PowerLimitsKept : Prop := ∀ s t : State, s.PowerLimits → s.Steps t → t.PowerLimits

/-- R16 over every step: an instruction never writes the CCC, and neither does an event other than the two of a reset, which leave it at zero;
the end of a cycle adds one to it once RESET_N is released. -/
def Obligations.CycleCounter : Prop :=
  (∀ (s t : State) (m : Move) (rest : List Move), s.agenda = m :: rest → (∀ i, m ≠ .event i) → s.Steps t → t.ccc = s.ccc) ∧
  (∀ (s t : State) (i : Instr) (rest : List Move), s.agenda = .event i :: rest → s.Steps t → t.ccc = s.ccc ∨ t.ccc = 0) ∧
  (∀ (s t : State) (i : Instr) (rest : List Move), s.agenda = .event i :: rest → i ≠ .packageReset → (∀ b, i ≠ .resetNRelease b) →
    s.Steps t → t.ccc = s.ccc) ∧
  ∀ s t : State, s.agenda = [] → s.Steps t → t.ccc = if s.pkg.released then s.ccc + 1 else s.ccc

/-! ## Frames -/

/-- The forms of the control class that only read scalar registers and write at most d, with d; s0 where the form names none. -/
def registerForm : Instr → Option (BitVec 6)
  | .add f | .sub f | .and f | .or f | .xor f | .andn f | .sll f | .srl f | .sra f | .mul f | .mulh f | .mulhn f | .div f | .divn f | .rem f
  | .remn f | .min f | .max f | .minn f | .maxn f | .slt f | .sltn f | .seq f | .sne f | .sel f | .clz f | .ctz f | .popc f | .sext f
  | .zext f | .bswap f | .jalr f => some f.d
  | .addi f | .andi f | .ori f | .xori f | .slli f | .srli f | .srai f | .slti f | .sltni f => some f.d
  | .li f | .lih f => some f.d
  | .jal f => some f.d
  | .addC f | .subC f | .andC f | .orC f | .xorC f | .addiC f | .slliC f | .srliC f | .sraiC f | .liC f | .addS0C f => some (f.x.setWidth 6)
  | .beq _ | .bne _ | .blt _ | .bge _ | .bltn _ | .bgen _ | .bz _ | .bnz _ | .bfull _ | .bempty _ | .j _ | .jr _ | .nop | .nopC => some 0
  | _ => none

/-- R228, R335, R342: what a register form leaves when it goes on. Of the whole package only the party's own scalar registers and pipeline, its stream's pc
and counts, and the time of its tile's last issue may differ; and of the scalar registers only d does, where no earlier result lands with
this step: the pipeline has taken one step, or none where the instruction stalls. -/
def Obligations.RegisterFormFrame : Prop :=
  ∀ (s u : State) (i : Instr) (d : BitVec 6), s.IsScalar → registerForm i = some d → exec i s = .next u → s.GoesOn u →
    { u with tiles := s.tiles, threads := s.threads, nextId := s.nextId } = s ∧
    (∀ t, s.cur.tile? ≠ some t → u.tile t = s.tile t) ∧ (∀ n, s.cur ≠ .thread n → u.thr n = s.thr n) ∧
    (∀ t, s.cur = .stream t 0 →
      { u.tile t with sc := (s.tile t).sc, streams := (s.tile t).streams, lastIssue := (s.tile t).lastIssue } = s.tile t ∧
      ∀ k, k ≠ 0 → (u.tile t).stream k = (s.tile t).stream k) ∧
    (∀ n, s.cur = .thread n → { u.thr n with sc := (s.thr n).sc, st := (s.thr n).st } = s.thr n) ∧
    ((∀ r, r ≠ d → (u.scal s.cur).get r = (s.scal s.cur).age.get r) ∨ u.scal s.cur = s.scal s.cur)

/-- The loads, and every form of the vector and matrix classes: forms that store to no memory at issue. -/
def storesNothing : Instr → Bool
  | .ldb _ | .ldbz _ | .ldh _ | .ldhz _ | .ldw _ | .ldwz _ | .ldd _ | .lddC _ | .fill _
  | .aadd _ | .asub _ | .amul _ | .ashl _ | .ashr _ | .aand _ | .amov _ | .aaddi _ | .ali _ | .aaddC _ | .aaddiC _ | .amovC _
  | .vadd _ | .vsub _ | .vmul _ | .vfma _ | .vfms _ | .vfnma _ | .vmax _ | .vmin _ | .vabs _ | .vneg _ | .vrcp _ | .vrsqrt _ | .vsqrt _
  | .vexp2 _ | .vlog2 _ | .vdiv _ | .vaddi _ | .vsubi _ | .vmuli _ | .vand _ | .vor _ | .vxor _ | .vnot _ | .vshl _ | .vshr _ | .vsra _
  | .vmaxi _ | .vmini _ | .vcmp _ | .vsel _ | .vmov _ | .vmovC _ | .vbcast _ | .vins _ | .vext _ | .vperm _ | .vshuf _ | .vrot _ | .vred _
  | .vscan _ | .vcvt _ | .vquant _ | .vdequant _ | .vscale _ | .cpush _ | .cpop _ | .cbal _ | .kand _ | .kor _ | .kxor _ | .knot _ | .kpop _
  | .kmov _ | .vpop _ | .vpush _ | .mnop _ | .mnopC _ | .mstamp _ | .mstampAl _ | .mmode _ | .mwait _ | .mtscale _ | .mtscaleQ _ | .mnstat _
  | .mroute _ | .mwld _ | .mwsel _ | .mma _ | .mmaz _ | .mhad _ | .mquant _ | .maccld _ | .mzero _ => true
  | _ => false

/-- What a form that stores nothing leaves when it goes on: every byte of HBM, of the Ferry's memory and of every scratchpad, every sync flag
and every register of BAR0 but the context's energy budget (R244) reads as before; every other tile is as it was but for the accesses
asked of its port (R237), and every other thread as it was. -/
def Obligations.MemoryFrame : Prop :=
  ∀ (s u : State) (i : Instr), storesNothing i = true → exec i s = .next u → s.GoesOn u →
    (∀ a, mread u.hbm a = mread s.hbm a) ∧ (∀ a, mread u.sram a = mread s.sram a) ∧
    (∀ off, off ≠ offCtx (s.ctxOf s.cur) cEBUDGET → u.reg off = s.reg off) ∧
    (∀ t a, mread (u.tile t).spad a = mread (s.tile t).spad a) ∧ (∀ t f, (u.tile t).flag f = (s.tile t).flag f) ∧
    (∀ t, s.cur.tile? ≠ some t → u.tile t = { s.tile t with asks := (u.tile t).asks }) ∧
    ∀ n, s.cur ≠ .thread n → u.thr n = s.thr n
/-! ## Where each form completes: packets -/

/-- R36, R46, R48, R50, R53, R81, R115, R139, R143-R145, R165, R169: a packet that is the first at its input, with no packet held for a token, has its effect. A transit packet goes to its
link and a bad one is discarded; RST and RACC write their window and wait for their delivery event, MSG is an arrival, each moving its path on; RED is kept until its block is complete; an OK
ACK ends what it covers; a token query is answered or kept; an answer, a fence, its clearing, a path reset, an update and its acknowledgement are taken. -/
def inputsComplete : Prop :=
  ∀ (s : State) (port : Nat) (p : Packet) (rest : List Packet), port < 7 → tget [] s.inq port = p :: rest → s.fences.getLsbD p.src = false →
    s.fences.getLsbD p.dst = false → s.heldAll = [] →
    (p.bad = true → ∃ u, exec (.packetForward port) s = .next u ∧ tget [] u.inq port = rest) ∧
    (p.bad = false → p.dst ≠ s.chip → ∀ n, s.linkTo p.dst = some n → s.fences.getLsbD (s.neighbour n) = false → s.linkState n = 2 →
      ∃ u d, exec (.packetForward port) s = .next u ∧ tget [] u.inq port = rest ∧
        (u.link n).queue = (s.link n).queue ++ [(min 6 port, { p with dlc := d })] ∧ (s.wraps n = true → d = true)) ∧
    (p.bad = false → p.dst = s.chip →
      (let w := fld p.word2 0 12
       let off := fld p.word2 12 40
       let e := s.reg128 (offRxw w)
       let c := fld e 1 6
       let va := winVa e off
       let bs := s.windowAfter p
       let done (u : State) : Prop := tget 0 u.pseqIn p.src = p.pseq + 1 ∧ tget 0xFFFFFFFF#32 u.lhw p.src = p.pseq ∧
         u.winDel = s.winDel ++ [{ rxw := w, bytes := bs.length, ack := some (p, 0), born := s.ferryCycle }] ∧
         ∀ pa, (p.src = s.chip ∨ s.recording c = false) → s.physOf c va = some pa → va.toNat % 4096 + bs.length ≤ 4096 →
           ∀ i < bs.length, mread u.hbm (pa + i) = bs.getD i 0
       p.src ∉ s.discarding → p.pseq = tget 0 s.pseqIn p.src → s.tokenMet p = true → (p.src = s.chip ∨ s.playing c = false) → bit e 0 = true →
       off + p.data.length ≤ winSize e → off + bs.length ≤ winSize e → s.rangeMoves c va bs.length = false →
       s.undoUse c + vaRecordBytes va bs ≤ s.undoSize c →
       (p.pop = 0 → bs = p.data ∧ ∃ u, exec (.rstPacket port) s = .next u ∧ done u) ∧
       (p.pop = 1 → bs = ropBytesAdd (fld p.word2 52 4) p.data.length (s.windowBytes true w c off p.data.length) p.data ∧
         ∃ u, exec (.raccPacket port) s = .next u ∧ done u)) ∧
      (p.pop = 3 → p.src ∉ s.discarding → p.pseq = tget 0 s.pseqIn p.src → (p.src = s.chip ∨ s.playing (s.packetCtx p) = false) →
        bit (s.reg offMatchCtl) 0 = true → ∃ u a, exec (.msgPacket port) s = .next u ∧ tget 0 u.pseqIn p.src = p.pseq + 1 ∧
          tget 0xFFFFFFFF#32 u.lhw p.src = p.pseq ∧ u.arrivals = s.arrivals ++ [(a : Arrival)] ∧ a.src = p.src ∧ a.data = p.data.drop 16 ∧
          a.mb = BitVec.ofNat 64 (leNat (p.data.take 8)) ∧ a.hdata = BitVec.ofNat 64 (leNat ((p.data.drop 8).take 8))) ∧
      (let rid := redRid p
       let e := s.reg128 (offRedTab rid)
       let rop := ((s.redRun rid).map fun r => r.2.c.rop).getD 0
       p.pop = 2 → (∀ r, s.redRun rid = some r → p.src = s.chip ∨ s.playing r.2.c.ctx = false) → rtValid e = true → rtEpoch e = redEpoch p →
       (∀ b ∈ s.reds, b.rid = rid → b.block ≠ redBlock p) → (s.reds.filter fun b => b.rid == rid).length < 16 →
       ∀ l, redElems rop p.data = some l → l ≠ [] → (∃ i < 8, i ≠ redSlot p ∧ (rtInmask e).testBit i = true) →
         ∃ u, exec (.redPacket port) s = .next u ∧ tget [] u.inq port = rest ∧
           u.reds = s.reds ++ [{ rid := rid, block := redBlock p, slots := tput [] [] (redSlot p) l }]) ∧
      (p.pop = 8 → p.data.head? = some 0 → (∀ e ∈ s.sent, e.send = none ∧ e.firing = none) →
        ∃ u, exec (.ackPacket port) s = .next u ∧ tget [] u.inq port = rest ∧
          ∀ e, e ∈ u.sent ↔ e ∈ s.sent ∧ ¬ (e.dst = p.src ∧ e.status = none ∧ (p.pseq - e.pseq).toNat < 2 ^ 31 ∧ (p.src = s.chip ∨ s.playing e.ctx = false))) ∧
      (p.pop = 0x10 →
        ((s.mark (fld p.word2 0 10) - tokenSeq p.word2).toNat < 2 ^ 31 → ∃ u, exec (.tkqPacket port) s = .next u ∧ u.queries = s.queries) ∧
        (2 ^ 31 ≤ (s.mark (fld p.word2 0 10) - tokenSeq p.word2).toNat → s.queries.length < 1024 → ∃ u, exec (.tkqPacket port) s = .next u ∧
          u.queries = s.queries ++ [(p.src, fld p.word2 0 10, tokenSeq p.word2)])) ∧
      (p.pop = 9 → ∀ i t, s.tokenAt p.src (fld p.word2 0 10) = some (i, t) → t.mark = none → ∃ u t1, exec (.tkaPacket port) s = .next u ∧
        tget none u.tokens i = some t1 ∧ t1.mark = some (tokenSeq p.word2) ∧ t1.qout = false) ∧
      (p.pop = 0x12 → ∃ u, exec (.fencePacket port) s = .next u ∧ ∀ c < 1024, u.fences.getLsbD c = (s.fences.getLsbD c || decide (c = fld p.word2 0 10))) ∧
      (p.pop = 0x13 → bit p.word2 10 = true → ∃ u, exec (.fenceClrPacket port) s = .next u ∧
        ∀ c < 1024, u.fences.getLsbD c = (s.fences.getLsbD c && decide (c ≠ fld p.word2 0 10))) ∧
      (p.pop = 0x14 → fld p.word2 10 10 = s.chip → fld p.word2 0 10 ≠ s.chip → ∃ u, exec (.pathrstPacket port) s = .next u ∧
        tget 0 u.pseqIn (fld p.word2 0 10) = tokenSeq p.word2 ∧ tget 0xFFFFFFFF#32 u.lhw (fld p.word2 0 10) = tokenSeq p.word2 - 1) ∧
      (let c := fld p.word2 40 6
       let va : Word := BitVec.ofNat 64 (fld p.word2 0 40 * 65536)
       let order := s.ranked c (fld p.word2 50 10)
       p.pop = 0x11 → s.playing c = false → (p.src = s.chip ∨ s.recording c = false) → s.updates = [] → treeChildren order.length (order.idxOf s.chip) = [] →
       ∀ pa, fld p.word2 46 2 = 1 → s.entryPa c va (fld p.word2 48 2) = some pa → ∃ u, exec (.sdownPacket port) s = .next u ∧ u.updates = [] ∧
         u.hbm = mputw s.hbm pa p.word3) ∧
      (p.pop = 0xA → ∀ u : Update, s.updates = [u] → u.origin = fld p.word2 0 10 → u.ident = leNat (p.data.take 8) → u.root = true →
        u.applied.isSome = true → u.acked = true → u.stage = 0 →
        (∀ c ∈ s.ranked u.ctx u.origin, (u.got ||| BitVec.ofNat 1024 (leNat ((p.data.drop 8).take 128))).getLsbD c = true) →
        ∃ v, exec (.sdackPacket port) s = .next v ∧ v.updates = []))

/-- R114-R116, R121, R145-R148: what a token query, a held packet, the token table, a shoot-down or its lease does when its time has come; and a migration begins. -/
def timersComplete : Prop :=
  (∀ (s : State) (landing origin i : Nat) (t : TokEntry) (c : Word), s.heldAll = [] → s.tokenAt landing origin = some (i, t) → t.short = some c →
    940 ≤ (s.ccc - c).toNat → exec (.tkqRetry landing origin) s = .next (s.setToken i { t with short := none })) ∧
  (∀ (s : State) (port : Nat) (h : Held), s.heldAll = [(port, h)] → s.harbourAt port = [h] → h.p.src ∉ s.discarding →
    cyclesOf (s.cxF (s.packetCtx h.p) cTKEXP 0 17) < (s.ccc - h.since).toNat →
    ∃ u, exec (.tokenExpiry port) s = .next u ∧ u.discarding = h.p.src :: s.discarding ∧ u.heldAll = []) ∧
  (∀ (s : State) (port : Nat) (a b : Held), (s.harbourAt port).head? = some a → (s.harbourAt port).getLast? = some b → (s.harbourAt port).length = 256 →
    port ∉ s.holdTold → 940000 ≤ (s.ccc - b.since).toNat →
    ∃ u, exec (.holdQueueFull port) s = .next u ∧ u.holdTold = port :: s.holdTold ∧ u.harbour = s.harbour) ∧
  (∀ (s : State) (p : Packet), s.unasked = some p → s.tokenTold = none →
    ∃ u, exec .tokenTableFull s = .next u ∧ u.tokenTold = some s.ccc ∧ u.tokens = s.tokens) ∧
  (∀ (s : State) (c pa : Nat) (va : BitVec 57),
    let a : Word := (va.setWidth 64) &&& ~~~ 0xFFFF#64
    s.frameRecorded c a = false → s.entryPa c a 0 = some pa → pa < hbmEnd → bit (mword s.hbm pa) 0 = true → bit (mword s.hbm pa) 1 = false →
    ∃ v, exec (.pageMigration (.beginPage c va)) s = .next v ∧ v.hbm = mputw s.hbm pa (setFld (mword s.hbm pa) 1 1 1)) ∧
  ∀ (s : State) (u : Update), s.updates = [u] →
    (∀ c, u.applied = some c → u.acked = true → u.root = false → u.answered = false → s.treeDone u = false →
      treeHeight (s.ranked u.ctx u.origin).length 10 u.rank ≠ 0 →
      940 * 4 * treeHeight (s.ranked u.ctx u.origin).length 10 u.rank ≤ (s.ccc - u.since).toNat →
      ∃ v, exec (.sdownNodeTimeout u.id) s = .next v ∧ v.updates = [{ u with waits := [], answered := true, told := u.got }]) ∧
    (u.root = true → u.stage = 0 → 940 * max 1 (s.regF offXlatCtl 1 10) ≤ (s.ccc - u.since).toNat →
      ∃ v, exec (.shootdownRootTimeout u.id) s = .next v ∧ v.updates = [{ u with stage := 1, since := s.ccc }]) ∧
    (∀ c, u.kind = 0 → u.root = true → u.applied = some c → u.acked = false → s.frameBusy u.old = false → bit (s.reg offXlatCtl) 0 = false →
      (∀ d ∈ s.ranked u.ctx u.origin, u.got.getLsbD d = true ∨ d = s.chip) → 940 * (s.cxF u.ctx cLEASE 0 11 + 1) ≤ (s.ccc - c).toNat →
      ∃ v, exec (.leaseWaitExpiry u.id) s = .next v ∧ v.updates = [])

/-- Where each packet and each timed event of the strait and of translation completes. Where it meets them, it rests on the model's own choices: log entries 75, 81, 82, 84 and 87. -/
def Obligations.PacketsComplete : Prop := inputsComplete ∧ timersComplete

/-! ## Where each form completes: collectives -/

/-- R164-R166, R177-R179: a notice that is the first packet at its input, for the running collective of its context and engine, is heard. -/
def noticesComplete : Prop :=
  ∀ (s : State) (port q : Nat) (p : Packet) (rest : List Packet) (r : CollRun), tget [] s.inq port = p :: rest → p.dst = s.chip → p.bad = false →
    p.pop = 0x15 → s.fences.getLsbD p.src = false → s.fences.getLsbD p.dst = false → (p.src = s.chip ∨ s.playing (noticeCtx p) = false) →
    (s.coll (noticeEngine p)).run = some r → r.c.ctx = noticeCtx p → firstBelow (fun i => r.c.rmap[i]? == some p.src) r.c.ranks 0 = some q →
    let e := noticeEngine p
    let num := fld p.word3 0 16
    (noticeKind p = 0x40 → (∀ k ∈ r.cts, ¬(k.1 = q ∧ k.2.1 = num)) → ∃ u, exec (.ctsNotice port) s = .next u ∧
      (u.coll e).run = some { r with cts := r.cts ++ [(q, num, noticeEpoch p, fld p.word3 16 40)] }) ∧
    (noticeKind p = 0x41 → ∀ x, r.xfers = [x] → x.dst = q → x.num = num → x.epoch = some (noticeEpoch p) → ∃ u r1, exec (.acceptNotice port) s = .next u ∧
      (u.coll e).run = some r1 ∧ r1.xfers = [{ x with done := true }] ∧ r1.step = r.step) ∧
    (noticeKind p = 0x42 → r.c.rank ≠ 0 → q = rankParent r.c.rank → r.step < p.word3.toNat → ∃ u, exec (.repeatNotice port) s = .next u ∧
      (u.coll e).run = some { r with ahead := some (p.word3.toNat, noticeEpoch p) }) ∧
    (noticeKind p = 0x43 → p.word3.toNat = r.step → stepTreeRrs r.word = true → r.stepok = false → noticeEpoch p = r.epoch →
      ∃ u, exec (.stepokNotice port) s = .next u ∧ (u.coll e).run = some { r with stepok := true }) ∧
    (noticeKind p = 0x44 → r.c.rank = 0 → r.decided = none → ∃ u r1, exec (.abortNotice port) s = .next u ∧ (u.coll e).run = some r1 ∧
      r1.decided = some false ∧ r1.finish = some false) ∧
    (noticeKind p = 0x45 → r.decided = none → ∃ u r1, exec (.decideNotice port) s = .next u ∧ (u.coll e).run = some r1 ∧
      r1.decided = some (decide (p.word3 = 1)) ∧ (p.word3 = 1 → r1.published = true) ∧ (p.word3 ≠ 1 → r1.finish = some false)) ∧
    (noticeKind p = 0x46 → ∃ u, exec (.reportNotice port) s = .next u ∧ (u.coll e).run = some { r with reports := tput 0 r.reports q p.word3.toNat }) ∧
    (noticeKind p = 0x47 → r.finish = none → ∃ u r1, exec (.alldoneNotice port) s = .next u ∧ (u.coll e).run = some r1 ∧ r1.decided = some true ∧
      r1.finish = some true)

/-- R155, R157, R164, R177, R178, R434, R449, R450: COLL of a good descriptor whose operands the issuer's TLB reaches is queued; COLLABORT aborts the running collective;
a queued collective starts; a transfer whose trailer has landed is taken; and a step past its deadline repeats. -/
def collectiveEventsComplete : Prop :=
  (∀ (s : State) (f : CmdE) (bs ms ps : List Byte), commandMay s f →
    let e := fld f.imm 0 4
    let ctx := s.cmdCtx
    let a := s.rs f.a
    let d := BitVec.ofNat 512 (leNat bs)
    let n := if fld d 0 10 = 0 then 1024 else fld d 0 10
    let prog := (List.range (progLen d)).map fun i => BitVec.ofNat 64 (leNat ((ps.drop (8 * i)).take 8))
    let c : Coll :=
      { desc := d, descVa := a, ctx := ctx, rmap := (List.range n).map fun i => leNat ((ms.drop (2 * i)).take 2), prog := prog,
        base := (prog.filter fun w => stepOp w == 4).foldl (fun t w => tput 0 t (fld w 4 14) (s.cnt (fld w 4 14))) [], tile := s.cur.tile? }
    s.ownsEngine ctx e = true → s.readOperand a 64 64 = .ok (bs, s) → collBad d = false →
    s.readPages s.cur ctx 2 (BitVec.ofNat 64 (fld d 128 57)) (2 * n) = .ok (ms, s) →
    s.readPages s.cur ctx 2 (BitVec.ofNat 64 (fld d 64 57)) (8 * progLen d) = .ok (ps, s) → s.collCheck c a = .ok () → (s.coll e).queue.length < 4 →
    exec (.coll f) s = .next (answers (s.setColl e { s.coll e with queue := (s.coll e).queue ++ [c] }) f 0 a 0)) ∧
  (∀ (s : State) (f : CmdE) (r : CollRun), commandMay s f →
    let e := fld f.imm 0 4
    s.ownsEngine s.cmdCtx e = true → (s.coll e).queue = [] → (s.coll e).run = some r → r.c.ctx = s.cmdCtx → r.decided = none → r.aborted = none →
    ∃ u r1, exec (.collabort f) s = .next u ∧ (u.coll e).run = some r1 ∧ r1.c = r.c ∧ r1.aborted = some .collAbort ∧ r1.told = true) ∧
  (∀ (s : State) (e : Nat) (c : Coll) (rest : List Coll), (s.coll e).queue = c :: rest → (s.coll e).run = none → (s.coll e).parked = false →
    s.mstate c.ctx = 0 → ∃ u r, exec (.collectiveStart e) s = .next u ∧ (u.coll e).queue = rest ∧ (u.coll e).run = some r ∧ r.c = c ∧ r.pc = 0 ∧
      r.step = 0 ∧ r.phase = 0 ∧ r.epoch = c.epoch0) ∧
  ∀ (s : State) (e : Nat) (r : CollRun), (s.coll e).run = some r → (s.coll e).parked = false → r.aborted = none →
    (∀ (b : Inbound) (bs : List Byte), r.decided ≠ some false → r.inbound = [b] → b.data = none →
      b.landed = some (BitVec.ofNat 64 (b.epoch.toNat + b.num % 65536 * 2 ^ 32)) → s.stagedData r.c b = some bs → r.owed = [] →
      ∃ u, exec (.transferTake e b.src) s = .next u ∧ (u.coll e).run = some { r with inbound := [{ b with data := some bs }] }) ∧
    (r.c.deadline ≠ 0 → r.lacking = true → cyclesOf r.c.deadline ≤ (s.ccc - r.start).toNat → r.rpt + 1 ≤ r.c.maxRepeats →
      ∃ u r1, exec (.collLate e) s = .next u ∧ (u.coll e).run = some r1 ∧ r1.c = r.c ∧ r1.rpt = r.rpt + 1 ∧ r1.repeats = satInc r.repeats ∧
        r1.start = s.ccc)

/-- R160-R163, R178: at an engine that runs a collective, a data step without flags goes from its beginning to its end where its data are there: SEND of a chunk begins, and ends
once accepted; COPY, RECV and RRS with write-down write their chunk. WAIT, LOOP and END complete as their counter, count and rank say. -/
def stepsComplete : Prop :=
  ∀ (s : State) (e : Nat) (r : CollRun), s.cur = .engine e → (s.coll e).parked = false → (s.coll e).run = some r →
    (∀ f : StepDataF, readStepData r.word = f → f.tr = false → f.fw = false → f.sf = false → f.lr = false → r.aborted = none →
      let src := rankAt r.c.ranks r.c.rank (-f.pk.toInt)
      let buf := r.c.buf f.db.toNat
      let ends (i : Instr) (data : List Byte) : Prop :=
        ∀ segs, s.chunkSegs (s.tensor r.c.ctx buf) buf r.c.sh (r.chunk f * s.chunkLen r.c buf) (data.take (s.chunkLen r.c buf)) = some segs →
          (r.c.sh = true ∨ s.undoUse r.c.ctx + segsBytes segs ≤ s.undoSize r.c.ctx) →
          ∃ u r1, exec i s = .next u ∧ (u.coll e).run = some r1 ∧ r1.c = r.c ∧ r1.step = r.step + 1 ∧
            ∀ g, segs = [g] → ∀ i < g.data.length, mread u.hbm (g.pa + i) = g.data.getD i 0
      (r.phase = 6 → r.ahead = none → (∀ x ∈ r.xfers, x.done = true) →
        ∀ i ∈ ([.stepSend f, .stepRecv f, .stepRrs f, .stepCopy f] : List Instr),
          exec i s = .next (s.setRun e (some ({ r with step := r.step + 1 }.goTo (r.pc + 1))))) ∧
      (r.phase = 0 → r.xfers = [] → (s.coll e).outbox = [] →
        (∀ raw, s.readChunk r.c (r.c.buf f.sb.toNat) (r.chunk f) = some raw →
          ends (.stepCopy f) raw ∧
          (∀ d, stepOp r.word = 2 → r.taken src = some d → f.wd = true → f.ns = true → f.iw = false →
            ends (.stepRrs f) (ropBytesAdd r.c.rop raw.length d raw)) ∧
          (stepOp r.word = 0 → r.cts = [] → s.peerLost e r.c.ctx (nth 0 r.c.rmap (r.peer f)) = false → s.collWire r.c (r.c.buf f.sb.toNat) = false →
            raw.length + 8 ≤ r.c.slotB → ∃ u r1, exec (.stepSend f) s = .next u ∧ (u.coll e).run = some r1 ∧ r1.phase = 6 ∧ r1.xfers =
              [{ dst := r.peer f, num := tget 0 r.sendNum (r.peer f) % 65536, data := raw, epoch := none, done := false }])) ∧
        ∀ d, stepOp r.word = 1 → r.taken src = some d → ends (.stepRecv f) d)) ∧
    (∀ f : StepWaitF, (s.cnt f.cnt.toNat - (f.thr.setWidth 64 + (if f.rb then tget 0 r.c.base f.cnt.toNat else 0))).toNat < 2 ^ 63 →
      exec (.stepWait f) s = .next (s.setRun e (some ({ r with step := r.step + 1 }.goTo (r.pc + 1))))) ∧
    (∀ f : StepLoopF,
      let n := if f.nr then r.c.ranks - f.count.toNat else f.count.toNat
      let z := r.pc + 1 + f.len.toNat
      exec (.stepLoop f) s = .next (s.setRun e (some (if n = 0 then r.goTo z else
        { r with pc := r.pc + 1, loops := (r.pc + 1, z, n, 0) :: r.loops, phase := 0 })))) ∧
    (r.c.kids = [] → r.c.rank ≠ 0 → r.decided = none → r.aborted = none → r.finish = none → r.reported = 0 →
      ∃ u r1, exec .stepEnd s = .next u ∧ (u.coll e).run = some r1 ∧ r1.c = r.c ∧ r1.ended = true ∧ r1.reported = 1)

/-- Where each command, event, notice and step of collectives completes. Where it meets them, it rests on the model's own choices: log entries 88, 89, 91, 122 and 133. -/
def Obligations.CollectivesComplete : Prop := noticesComplete ∧ collectiveEventsComplete ∧ stepsComplete

/-! ## Where each form completes: inputs, the Ferry, the scheduler -/

/-- An RX window takes bytes at an offset now: it is valid and holds them, no page of them migrates, and the undo log has room for their records. -/
def windowTakes (s : State) (w off : Nat) (bs : List Byte) : Prop :=
  let e := s.reg128 (offRxw w)
  bit e 0 = true ∧ off + bs.length ≤ winSize e ∧ s.rangeMoves (fld e 1 6) (winVa e off) bs.length = false ∧
    s.undoUse (fld e 1 6) + vaRecordBytes (winVa e off) bs ≤ s.undoSize (fld e 1 6)

/-- It has taken them: they wait for their delivery event, and, unless replay entries are written too, lie in memory where their page is. -/
def windowTook (s u : State) (w off : Nat) (bs : List Byte) : Prop :=
  let e := s.reg128 (offRxw w)
  let c := fld e 1 6
  let va := winVa e off
  u.winDel = s.winDel ++ [{ rxw := w, bytes := bs.length, ack := none, born := s.ferryCycle }] ∧
    ∀ pa, s.recording c = false → s.physOf c va = some pa → va.toNat % 4096 + bs.length ≤ 4096 → ∀ i < bs.length, mread u.hbm (pa + i) = bs.getD i 0

/-- R56-R61, R65-R71, R88: a tagged send is an arrival; an RMA write, a later packet of a send and a host write go to their windows; a lost delivery context ends its deposit; a UUD packet is
counted; a send ends with its delivery; a doorbell is an arrival; reads of BAR2 and BAR4 are answered as unsupported; registers are read, written and read-cleared; and
a posted write leaves. Where it meets them, it rests on the model's own choices: log entries 18, 66 and 69. -/
def Obligations.InputsComplete : Prop :=
  (∀ (s : State) (r : UetRequest), (∀ x ∈ s.heldIn, x.ingress ≠ r.port % 4 + 1) → r.pdc < pdcLimit → r.mode ≠ .uud → ∀ c, s.jobCtx r.job.toNat = some c →
    (r.kind = .taggedSend → r.mode ≠ .rudi → s.unavailable c = false → ∃ u a, exec (.taggedSendArrival r) s = .next u ∧
      u = { s with arrivals := s.arrivals ++ [(a : Arrival)] } ∧ a.mb = r.tag ∧ a.aop = false ∧ a.len = r.len ∧ a.ctx = c ∧ a.data = r.data.take r.len) ∧
    (r.kind = .rmaWrite → r.tag.toNat < 4096 → s.unavailable (fld (s.reg128 (offRxw r.tag.toNat)) 1 6) = false →
      windowTakes s r.tag.toNat r.off.toNat r.data →
      ∃ u, exec (.rmaWriteArrival r) s = .next u ∧ windowTook s u r.tag.toNat r.off.toNat r.data ∧
        (r.hdata = none → u.arrivals = s.arrivals) ∧ ∀ h, r.hdata = some h → ∃ a, u.arrivals = s.arrivals ++ [(a : Arrival)] ∧ a.aop = true ∧ a.hdata = h)) ∧
  (∀ (s : State) (p off : Nat) (data : List Byte) (d : Deposit), s.deposits = [d] → d.pdc = some p → d.left ≠ 0 → d.recAt = none →
    (∀ x ∈ s.heldIn, x.ingress ≠ p / 4096 % 4 + 1) →
    (windowTakes s d.rxw (d.off + off) (data.take d.left) → ∃ u b, exec (.continuationPacket p off data) s = .next u ∧
      windowTook s u d.rxw (d.off + off) (data.take d.left) ∧ u.deposits = [{ d with left := d.left - (data.take d.left).length, born := b }]) ∧
    (d.entry ∉ s.disarmed → ∃ u, exec (.deliveryContextFailure p) s = .next u ∧ u.deposits = [] ∧ u.hbm = s.hbm)) ∧
  (∀ (s : State) (p : Nat), exec (.uudPacket p) s = .next (s.bump offUetDrop)) ∧
  (∀ (s : State) (e : Send) (ok : Bool), s.sends = [e] → ∃ u, exec (.uetDelivery e.id ok) s = .next u ∧ u.sends = []) ∧
  (∀ (s : State) (i off : Nat) (data : List Byte), i < 256 → (∀ x ∈ s.heldIn, x.ingress ≠ 0) →
    let h := s.reg (offHostAp i)
    let w := fld h 1 12
    bit h 0 = true → fld (s.reg128 (offRxw w)) 1 6 = fld h 13 6 → s.playing (fld h 13 6) = false → windowTakes s w off data →
    ∃ u, exec (.hostApertureWrite i off data) s = .next u ∧ windowTook s u w off data) ∧
  (∀ (s : State) (page off : Nat) (data : List Byte), data.length = 16 → off % 16 = 0 → off < 4096 → page < 64 → s.ctxExists page = true →
    (∀ x ∈ s.heldIn, x.ingress ≠ 0) → s.bar2Pending = false → ∃ u a, exec (.doorbell page off data) s = .next u ∧
      u = { s with arrivals := s.arrivals ++ [(a : Arrival)] } ∧ a.mb = BitVec.ofNat 64 (leNat (data.take 8)) ∧ a.hdata = BitVec.ofNat 64 (leNat (data.drop 8)) ∧
      a.skind = 5 ∧ a.src = page ∧ a.ctx = page) ∧
  (∀ (s : State), exec (.hostUnsupportedRead 2) s = .next (s.emit .unsupportedRequest) ∧
    exec (.hostUnsupportedRead 4) s = .next (s.emit .unsupportedRequest)) ∧
  (∀ (s : State) (n : Nat) (v : Word), n < 256 →
    exec (.bar0Access (offHostAp n) 8 none) s = .next (s.emit (.readData (s.reg (offHostAp n)))) ∧
    exec (.bar0Access (offHostAp n) 8 (some v)) s = .next (s.setReg (offHostAp n) ((s.reg (offHostAp n) &&& ~~~ 0x7FFFF) ||| (v &&& 0x7FFFF))) ∧
    exec (.registerWrite (offHostAp n) v) s = .next (s.setReg (offHostAp n) ((s.reg (offHostAp n) &&& ~~~ 0x7FFFF) ||| (v &&& 0x7FFFF)))) ∧
  (∀ (s : State), ∃ u, exec (.registerReadClear offHostDrop) s = .next u ∧ u.regF offHostDrop 0 32 = 0 ∧ ∀ o, o ≠ offHostDrop → u.reg o = s.reg o) ∧
  ∀ (s : State) (h : HostTlp) (rest : List HostTlp), s.hostTlps = h :: rest → ∃ u, exec .hostWriteAccepted s = .next u ∧ u.hostTlps = rest

/-- R77, R84-R88, R94, R101: while the event unit takes events and the action queue has room, the first event of its kind is processed; a register write of a counter takes effect; a wake request
starts the lowest idle thread of its group, and a run that is too long ends. -/
def unitComplete : Prop :=
  (∀ (s : State), s.actions.length < 4096 → s.evUsed < 2 →
    (∀ (a : Arrival) (i : Nat), s.nextEvent = some (.arrival a) → s.ctxExists a.ctx = true →
      (State.accept { s with arrivals := s.arrivals.erase a }).winner a = some i → eDmode (s.entry i) = 0 → eCmode (s.entry i) = 1 →
      ∃ u, exec .arrivalMatch s = .next u ∧ u.cnt (eCnt (s.entry i)) = s.cnt (eCnt (s.entry i)) + 1 ∧ u.arrivals = s.arrivals.erase a) ∧
    (∀ (d : Deposit) (v : Word), s.nextEvent = some (.deposit d) → s.deposits = [d] → d.entry ∉ s.disarmed → d.add = some v →
      ∃ u, exec (.depositCompletion d.entry) s = .next u ∧ u.deposits = [] ∧ u.cnt (eCnt (s.entry d.entry)) = s.cnt (eCnt (s.entry d.entry)) + v) ∧
    (∀ (d : WinDel) (rest : List WinDel), s.nextEvent = some (.delivery d) → s.winDel = d :: rest → bit (s.reg (offRxdc d.rxw)) 0 = true →
      ∃ u, exec .windowDelivery s = .next u ∧ u.winDel = rest ∧
        u.cnt (fld (s.reg (offRxdc d.rxw)) 1 14) = s.cnt (fld (s.reg (offRxdc d.rxw)) 1 14) + BitVec.ofNat 64 d.bytes) ∧
    (∀ (k n b : Nat), s.nextEvent = some (.signal k n b) → s.engSig = [(k, n, b)] → n < 2 ^ 14 →
      ∃ u, exec .engineSignal s = .next u ∧ u.engSig = [] ∧ u.cnt n = s.cnt n + 1) ∧
    ∀ (n : Nat) (v : Word), n < 2 ^ 14 → s.waiting = [] → ∃ u, exec (.counterRegisterWrite n v) s = .next u ∧ u.cnt n = v) ∧
  (∀ (s : State) (g n : Nat) (k : Wake), s.wakeReady g = some k → s.groupThread g = some n → ∃ u, exec (.threadDispatch g) s = .next u ∧
    (u.thr n).running = true ∧ (u.thr n).ctx = k.ctx ∧ (u.thr n).st.pc = k.pc ∧ (u.thr n).sc.regs = k.regs ∧ tget [] u.wakes g = (tget [] s.wakes g).erase k) ∧
  ∀ (s : State) (n : Nat), (s.thr n).running = true → s.reg offTwdog ≠ 0 → (s.reg offTwdog).toNat < 2 * (s.ccc - (s.thr n).start).toNat →
    ∃ u, exec (.threadWatchdog n) s = .next u ∧ (u.thr n).running = false

/-- R95-R98, R100: the action at the head of the action queue, with no reserved bit and what it names in place, is carried out, and the queue goes on. -/
def actionsComplete : Prop :=
  ∀ (s : State) (f : Firing) (rest : List Firing) (a : BitVec 256), s.actions = f :: rest → f.acts[f.next]? = some a → actionBad a = false →
    (∀ d, aType a = 0 → s.launchTask f.ctx (fld a 64 26) (fld a 8 14) = .ok d →
      (∀ t ∈ rectTiles (fld a 8 14), ((s.tile t).queue (fld a 22 3)).tasks.length < 64) → ∃ u, exec .actionLaunch s = .next u ∧
        u.actions = s.actionNext.actions ∧ ∀ t ∈ rectTiles (fld a 8 14), ((u.tile t).queue (fld a 22 3)).tasks =
          ((s.tile t).queue (fld a 22 3)).tasks ++ [{ desc := d, ctx := (s.tileCtx t).getD 0, rect := BitVec.ofNat 14 (fld a 8 14), saved := false, parked := {} }]) ∧
    (aType a = 1 → s.inRegion f.ctx (fld a 64 26) 128 = true → (bit a 13 = true → s.actionCounter f.ctx (fld a 14 14) = true) →
      let g := fld a 8 5
      let d := s.template (fld a 64 26)
      (s.engine g).length < 32 → s.cpPublishing f.ctx d = false → (∃ x, s.cpCheck f.ctx none d = .ok x) → s.cpRanges f.ctx none d g = [] →
      ∃ u k, exec .actionCopy s = .next u ∧ u.engine g = s.engine g ++ [(k : Copy)] ∧ k.desc = d ∧ k.ctx = f.ctx ∧ k.tile = none ∧ k.failed = none ∧
        u.actions = s.actionNext.actions) ∧
    (aType a = 2 → 0 < sdLen a → sdDk a = false → sdLen a ≤ 4080 → s.destOk f.ctx none (sdDest a) = true →
      (sdDcv a = true → s.actionCounter f.ctx (sdDonecnt a) = true) → s.windowHolds (sdRx a) (sdWin a) f.ctx (sdOff a) (sdLen a) = true →
      (bit (s.winEntry (sdRx a) (sdWin a)) 0 = true → fld (s.winEntry (sdRx a) (sdWin a)) 1 6 = f.ctx) →
      s.windowMoves (sdRx a) (sdWin a) f.ctx (sdOff a) (sdLen a) = false → (sdDest a = s.chip ∨ s.undoUse f.ctx + 24 ≤ s.undoSize f.ctx) →
      ∃ u e k, exec .actionSend s = .next u ∧ u.sends = s.sends ++ [(e : Send)] ∧ e.ctx = f.ctx ∧ e.firing = some (f.entry, f.next) ∧
        u.sent = s.sent ++ [(k : Sent)] ∧ k.dst = sdDest a ∧ k.send = some e.id ∧ k.pseq = tget 0 s.pseqOut (sdDest a) ∧ u.actions = s.actionNext.actions) ∧
    (∀ segs, aType a = 3 → fld a 192 24 ≠ 0 → s.actionWindow (!bit a 32) (fld a 20 12) f.ctx (fld a 64 40) (fld a 192 24) = .ok () →
      s.actionWindow false (fld a 8 12) f.ctx (fld a 128 40) (fld a 192 24) = .ok () → bit a 34 = false →
      s.windowMoves (!bit a 32) (fld a 20 12) f.ctx (fld a 64 40) (fld a 192 24) = false →
      s.windowMoves false (fld a 8 12) f.ctx (fld a 128 40) (fld a 192 24) = false →
      s.actionSegs f.ctx (winVa (s.winEntry (!bit a 32) (fld a 20 12)) (fld a 64 40)) (winVa (s.winEntry false (fld a 8 12)) (fld a 128 40)) (fld a 192 24) = some segs →
      s.undoUse f.ctx + segsBytes segs + s.horizonBytes f.ctx (some (fld a 8 12)) ≤ s.undoSize f.ctx →
      ∃ u e, exec .actionRst s = .next u ∧ u.stores = s.stores ++ [(e : Store)] ∧ e.who = none ∧ e.ctx = f.ctx ∧ e.segs = segs ∧
        e.refl = some (s.reflectTo (fld a 8 12) (fld a 128 40) none) ∧ u.actions = s.actionNext.actions) ∧
    (aType a = 4 → s.actionCounter f.ctx (fld a 8 14) = true → s.actions.length < 4096 → s.evUsed < 2 → s.waiting = [] →
      ∃ u, exec .actionInc s = .next u ∧ u.cnt (fld a 8 14) = (if bit a 22 then 0 else s.cnt (fld a 8 14)) + wordOf a 1) ∧
    (aType a = 5 → s.itinOk f.ctx (fld a 8 8) = true → (fld a 16 16 = 0 ∨ s.inRegion f.ctx (fld a 64 26) (16 * fld a 16 16) = true) →
      s.pending? (fld a 8 8) = false → ∃ u, exec .actionKick s = .next u ∧ u.pending? (fld a 8 8) = true ∧ u.actions = s.actionNext.actions) ∧
    (aType a = 6 → (tget [] s.wakes (fld a 8 4)).length < 256 → ∃ u k, exec .actionThread s = .next u ∧
      tget [] u.wakes (fld a 8 4) = tget [] s.wakes (fld a 8 4) ++ [(k : Wake)] ∧ k.pc = BitVec.ofNat 64 (fld a 64 32) ∧ k.ctx = f.ctx ∧
      tget 0 k.regs 1 = wordOf a 2 ∧ u.actions = s.actionNext.actions) ∧
    (∀ pa v, aType a = 7 → s.rangeMoves f.ctx (wordOf a 1) 64 = false → s.objectAt f.ctx (wordOf a 1) = some (pa, v) → objEvent v = true → s.ferryRels = [] →
      (∀ e ∈ s.stores, e.who.isSome = true) → s.undoUse f.ctx + 40 ≤ s.undoSize f.ctx → ∃ u, exec .actionRel s = .next u ∧ u.ferryRels = [] ∧
        nfld (mval u.hbm pa 24) 64 32 = (objGen v + 1).toNat ∧ nfld (mval u.hbm pa 24) 128 64 = s.ccc.toNat ∧ u.actions = s.actionNext.actions)

/-- R194, R197-R200, R209, R210, R454: while scheduling goes on, a kick begins its run; a notice outside runs moves its DONECNT; with a standby core the scheduler moves to it, with none it
stops; and a directory word is written. -/
def schedulerComplete : Prop :=
  (∀ (s : State) (j : Nat), s.sched.stopped = false → s.held = false → s.sched.pushes = [] → s.nextKick = some j →
    (∀ p ∈ s.patchList (iPaddr (s.itin (j % 256))) (iPcnt (s.itin (j % 256))), s.patchBad (s.itin (j % 256)) p.1 p.2 = false) →
    ∃ u, exec .kickExpand s = .next u ∧ u.pending? (j % 256) = false ∧ iRuns (u.itin (j % 256)) = (iRuns (s.itin (j % 256)) + 1) % 2 ^ 32 ∧
      u.sched.served = j % 256) ∧
  (∀ (s : State) (v : BitVec 128) (n : Nat) (rest : List (BitVec 128 × Option Nat)), s.sched.stopped = false → s.held = false → s.actions.length < 4096 →
    s.evUsed < 2 → s.sched.fifo = (v, some n) :: rest → bit v 11 = false → bit v 10 = false → fld v 8 2 ≤ 1 → bit (s.reg (offCntCtl n)) 0 = true → n < 2 ^ 14 →
    ∃ u, exec .noticeTake s = .next u ∧ u.cnt n = s.cnt n + 1 ∧ u.sched.fifo = rest) ∧
  (∀ s : State, s.regF offSchedCtl 12 1 = 0 → ∃ u, exec .schedulerStop s = .next u ∧ u.sched.stopped = true ∧ u.held = true) ∧
  (∀ s : State, s.regF offSchedCtl 12 1 = 1 → ∃ u, exec .schedulerTakeover s = .next u ∧ u.regF offSchedCtl 12 1 = 0 ∧
    u.regF offSchedCtl 0 6 = s.regF offSchedCtl 6 6 ∧ u.regF offSchedCtl 6 6 = s.regF offSchedCtl 0 6 ∧ u.sched.stopped = false) ∧
  ∀ (s : State) (n : Nat) (v : Word), n < 256 →
    exec (.itinWrite n 2 v) s = .next (s.modItin n fun _ => setWord (s.itin n) 2 ((wordOf (s.itin n) 2 &&& ~~~ itinMask 2) ||| (v &&& itinMask 2)))

/-- Where each event of the Ferry completes. Where it meets them, it rests on the model's own choices: log entries 45, 48, 58, 63, 114, 117 and 127. -/
def Obligations.FerryComplete : Prop := unitComplete ∧ actionsComplete ∧ schedulerComplete

/-! ## Where each form completes: contexts, registers, replay, errors, and the matrix stream -/

/-- R30, R53, R73, R104, R105, R113, R137, R202, R246, R257, R259, R260, R271, R274, R276, R283, R285, R290, R291, R441, R458: a context is created, destroyed and lost; the registers with rules of their own take
a good value; a muster notice is kept and a muster whose work has stopped drains; a block of records moves; a recorded input enters; a precise stop begins; a snapshot is latched and a
sample taken; and errors and missed heartbeats have their effect. Where it meets them, it rests on the model's own choices: log entries 64, 65, 67, 68, 91, 92, 101 and 131. -/
def Obligations.RegistersAndDebugComplete : Prop :=
  (∀ (s : State) (c : Nat), c < 64 →
    (s.ctxExists c = false → s.createErr c = 0 → ∃ u, exec (.contextCreate c) s = .next u ∧ u.ctxExists c = true ∧ u.mstate c = 0) ∧
    (s.ctxExists c = true → (∀ e ∈ s.tiles, (∀ k, e.2.task = some k → k.t.ctx ≠ c) ∧ (∀ k ∈ e.2.left, k.t.ctx ≠ c) ∧
        ∀ q ∈ e.2.tq, ∀ k ∈ q.2.tasks, k.saved = true → k.ctx ≠ c) →
      ∃ u, exec (.contextDestroy c) s = .next u ∧ u.ctxExists c = false ∧ (∀ f ∈ u.saveFrames, f.1 ≠ c) ∧ ∀ f ∈ u.actions, f.ctx ≠ c) ∧
    (∀ off, s.ctxExists c = true → s.mstate c ≠ 4 → ∃ u, exec (.saveAreaLost c off) s = .next u ∧ u.mstate c = 4) ∧
    (s.playing c = true → s.mstate c = 3 → exec (.replayPlayClear c) s = .next (s.setCx c cREPLAY (s.cx c cREPLAY &&& ~~~ 2))) ∧
    (∀ v : BitVec 32, (v - BitVec.ofNat 32 (s.cxF c cUNDOWIN 0 32)).toNat < 2 ^ 31 → ∃ u, exec (.undowinOldestWrite c v) s = .next u ∧
      u.cxF c cUNDOWIN 0 32 = min (s.cxF c cUNDOWIN 0 32 + (v - BitVec.ofNat 32 (s.cxF c cUNDOWIN 0 32)).toNat) (s.oldestLimit c) % 2 ^ 32) ∧
    (s.mstate c = 1 → s.threads = [] → s.allStopped c = true → s.allDrained c = false → (s.muster c).drained = false →
      exec (.musterDrained c) s = .next (s.setMstate c 2)) ∧
    (s.playing c = true → s.mstate c < 3 → (CtxLog.of s c).playPos ≠ (CtxLog.of s c).rpos → (CtxLog.of s c).after = .nothing → s.actions.length < 4096 →
      s.evUsed < 2 →
      (let h := leNat (s.replayBytes c (CtxLog.of s c).playPos 32)
       (BitVec.ofNat 64 (nfld h 64 64) - (CtxLog.of s c).playRec).toNat ≤ (s.ccc - (CtxLog.of s c).playStart).toNat → nfld h 0 4 = 5 →
         ∃ u, exec (.replayInputInject c) s = .next u ∧ u.cx c cERATEF = BitVec.ofNat 64 (nfld h 128 64))) ∧
    ∀ iv t n, (CtxLog.of s c).target = some (iv, t, n) → s.playing c = true → s.mstate c = 0 → (CtxLog.of s c).playIv = iv → n ≤ (s.tile t).work →
      ∃ u, exec (.preciseStopReached c) s = .next u ∧ u.mstate c = 1 ∧ (CtxLog.of u c).after = .stopped) ∧
  (∀ (s : State) (v : Word), (∀ n < 6, s.linkState n = 0) → exec (.straitGeomWrite v) s = .next (s.setReg offGeom (v &&& 0xFFFFF))) ∧
  (∀ (s : State) (v : Word), ∃ u, exec (.xlatCtlWrite v) s = .next u ∧ u.regF offXlatCtl 1 10 = max 1 (fld v 1 10) ∧
    (bit v 0 = true → bit (u.reg offXlatCtl) 0 = true)) ∧
  (∀ (s : State) (rx : Bool) (n : Nat) (v : BitVec 128), n < 4096 → s.windowPinned (v &&& winMask) = true →
    exec (.windowEntryWrite rx n v) s = .next (s.setReg128 (if rx then offRxw n else offTxw n) (v &&& winMask))) ∧
  (∀ (s : State) (n : Nat) (v : Word), n < 65536 → s.isMember (fld (s.reg128 (offTxw (n / 16))) 1 6) (fld v 1 10) = true →
    exec (.txdstWrite n v) s = .next (s.setReg (offTxDst n) (v &&& 0x7FFFFF))) ∧
  (∀ (s : State) (n : Nat) (v : Word), n < 16 → (s.coll n).run = none → (s.coll n).queue = [] →
    exec (.cengOwnWrite n v) s = .next (s.setReg (offCengOwn n) (v &&& 0x7F))) ∧
  (∀ (s : State) (d o : Nat) (v : Word), s.slotNew = [(o, v)] → (o - 0x700000) / 0x10000 = d → s.ccc.toNat % 256 = 0 →
    exec (.slotTableUpdate d) s = .next { s.setReg o v with slotNew := [] }) ∧
  (∀ (s : State) (port : Nat) (p : Packet) (rest : List Packet), tget [] s.inq port = p :: rest → p.dst = s.chip → p.bad = false → p.pop = 0x15 →
    noticeKind p = 0x50 → s.fences.getLsbD p.src = false → s.fences.getLsbD p.dst = false → s.playing (noticeCtx p) = false → s.mstate (noticeCtx p) ≠ 2 →
    ∃ u, exec (.musterNotice port) s = .next u ∧ (p.src, p.word3) ∈ (u.muster (noticeCtx p)).notices) ∧
  (∀ (s : State) (t : Nat), 4096 ≤ (s.tile t).undoBuf → ∃ u, exec (.undoBlockMove t) s = .next u ∧ (u.tile t).undoBuf ≤ (s.tile t).undoBuf ∧
    ∀ x, x ≠ t → u.tile x = s.tile x) ∧
  (∀ (s : State) (c : Word), s.snapAt = some c → 256 ≤ (s.ccc - c).toNat → (∀ t < 256, bit (s.tile t).trace.ctl 0 = false) →
    ∃ u, exec .snapshotLatch s = .next u ∧ u.snapAt = none ∧ (∀ o ∈ statusRegs, tget 0 u.unitSnap o = s.barPeek o) ∧ ∀ t < 256, (u.tile t).snap = s.snapSet t) ∧
  (∀ (s : State) (t : Nat), s.ccc.toNat % 2 ^ fld (s.tile t).trace.ctl 5 5 = 0 → exec (.traceSample t) s =
    .next (s.trace t 4 4 0 ((List.range 4).flatMap fun k => leBytes 8 ((s.tile t).stream k).pc.toNat))) ∧
  (∀ (s : State) (t d : Nat),
    ((s.thr t).running = true → ∃ u, exec (.uncorrectableError (.thread t)) s = .next u ∧ (u.thr t).running = false) ∧
    (∀ c rest, tget [] s.copies t = c :: rest → ∃ u, exec (.uncorrectableError (.copyEngine t)) s = .next u ∧
      tget [] u.copies t = { c with failed := some (c.failed.getD .eccUncorrectable) } :: rest) ∧
    (s.recording (s.ctxOfTile t) = false → ∃ u, exec (.correctableError (.tile t) d) s = .next u ∧
      tget 0 u.pkg.gathered (0x82B0 + 8 * t) = tget 0 s.pkg.gathered (0x82B0 + 8 * t) + 1 ∧ u.regs = s.regs ∧ u.hbm = s.hbm)) ∧
  ∀ (s : State) (c : Nat), c < 1024 → ∃ u, exec (.missedHeartbeats c) s = .next u ∧ u.fences.getLsbD c = true

/-- A matrix instruction is at issue that waits for no scheduled cycle: with a zero dt, or in elastic mode outside a stamp run; no drain is to set its predicate, it executes, and the
budget has its energy (R242-R244, R401, R404). -/
def matrixAtIssue (s : State) (t k : Nat) (f : MForm) : Prop :=
  s.cur = .stream t k ∧ (f.dt = 0 ∨ (s.tile t).mx.strict = false ∧ (s.tile t).mx.run = false) ∧
    (f.pv = true → ∀ d ∈ (s.tile t).mx.drains, d.tag ≠ some f.pk.toNat) ∧
    (s.debits (s.ctxOfTile t) = true → 2 ^ f.ec.toNat ≤ s.cxF (s.ctxOfTile t) cEBUDGET 0 32) ∧ (s.tile t).suppressed f.pv f.pn f.pk = false

/-- No matrix instruction of the tile still reads the operand queue. -/
def queueFree (s : State) (t q : Nat) : Prop := ∀ r ∈ (s.tile t).mx.runs, q ∉ r.job.queues

/-- R242, R245, R404: the compact MNOP, and a drain that has read its rows. -/
def compactAndDrainsComplete : Prop :=
  (∀ (s : State) (t k : Nat) (f : MnopC), s.cur = .stream t k → (f.dt = 0 ∨ (s.tile t).mx.strict = false ∧ (s.tile t).mx.run = false) →
    (s.debits (s.ctxOfTile t) = true → 1 ≤ s.cxF (s.ctxOfTile t) cEBUDGET 0 32) →
    ∃ u, exec (.mnopC f) s = .next u ∧ (u.tile t).mx.p = s.ccc ∧ (u.strm s.cur).work = (s.strm s.cur).work + (if s.inHandler s.cur then 0 else 1)) ∧
  (∀ (s : State) (t n j : Nat) (d : Drain), (s.tile t).mx.drains[n]? = some d → d.lines = [] → d.act = true → d.route = none → d.tag = some j →
    (s.strm (.stream t 3)).stop = none →
    ∃ u, exec (.drainComplete t n) s = .next u ∧ (u.tile t).mx.drains = (s.tile t).mx.drains.eraseIdx n ∧
      tget 0 (u.tile t).nst j = tget 0 (s.tile t).nst j ||| d.status.setWidth 3 ||| 4 ∧
      (u.tile t).flag d.flag = (if (s.tile t).flag d.flag = 0xFFFF then 0xFFFF else (s.tile t).flag d.flag + 1))

/-- R242-R244, R401-R406: stamps, the mode, MWAIT, MTSCALE and MNSTAT. -/
def matrixTimingComplete : Prop :=
  ∀ (s : State) (t k : Nat) (f : MForm), matrixAtIssue s t k f →
    let m := (s.tile t).mx
    let now := s.ccc.toNat
    (∃ u, exec (.mnop f) s = .next u ∧ (u.tile t).mx.p = s.ccc ∧ (u.tile t).mx.acc = m.acc ∧ (u.strm s.cur).work = (s.strm s.cur).work + (if s.inHandler s.cur then 0 else 1)) ∧
    (∃ u, exec (.mstamp f) s = .next u ∧ (u.tile t).mx.p = s.ccc + BitVec.ofNat 64 (64 * f.a.toNat + f.b.toNat) ∧ (u.tile t).mx.run = true) ∧
    (∃ u, exec (.mstampAl f) s = .next u ∧ (u.tile t).mx.p = BitVec.ofNat 64 ((now / 2 ^ f.a.toNat + 1) * 2 ^ f.a.toNat + f.b.toNat) ∧
      (u.tile t).mx.run = true) ∧
    (∃ u, exec (.mmode f) s = .next u ∧ (u.tile t).mx.strict = decide (f.d = 1)) ∧
    (f.b = 0 → m.drains = [] → m.epiFree ≤ now → ∃ u, exec (.mwait f) s = .next u ∧ (u.strm s.cur).work = (s.strm s.cur).work + (if s.inHandler s.cur then 0 else 1)) ∧
    (∃ u, exec (.mtscale f) s = .next u ∧ (if f.d = 1 then (u.tile t).mx.tb else (u.tile t).mx.ta) =
      BitVec.ofNat 16 (f.a.toNat * 2 ^ 10 + f.b.toNat * 2 ^ 4 + f.c.toNat % 16)) ∧
    (m.drains = [] → ∃ u, exec (.mnstat f) s = .next u ∧ ∀ j, tget 0 (u.tile t).nst j =
      if f.d.toNat ≤ j ∧ j < f.d.toNat + f.a.toNat then 0 else tget 0 (s.tile t).nst j)

/-- R407-R410: a matrix load, a queued scale and a route take the entry at the head of their queue; MWSEL expands a bank. -/
def matrixLoadsComplete : Prop :=
  ∀ (s : State) (t k : Nat) (f : MForm), matrixAtIssue s t k f →
    let m := (s.tile t).mx
    let now := s.ccc.toNat
    let row := 8 * f.d.toNat
    let rows := 8 * (f.c.toNat + 1)
    (∀ h rest, ((s.tile t).oqueue (4 + f.a.toNat)).ents = h :: rest → queueFree s t (4 + f.a.toNat) →
      (∃ u, exec (.mtscaleQ f) s = .next u ∧ ((u.tile t).oqueue (4 + f.a.toNat)).ents = rest ∧
        (if f.d = 3 then (u.tile t).mx.tb else (u.tile t).mx.ta) = h.setWidth 16) ∧
      (h.extractLsb' 24 40 = 0 → h.extractLsb' 104 24 = 0 → (h.getLsbD 0 = true → s.isMember (s.ctxOfTile t) (h.extractLsb' 1 10).toNat = true) →
        ∃ u, exec (.mroute f) s = .next u ∧ ((u.tile t).oqueue (4 + f.a.toNat)).ents = rest ∧ (u.tile t).mx.mxrt = h.setWidth 128) ∧
      (let n := 64 * f.c.toNat + f.b.toNat
       1 ≤ n → 4096 * f.d.toNat + 256 * n ≤ 262144 → m.slotsIdle now (slotsOf f.d.toNat (256 * n)) = true →
         ∃ u, exec (.mwld f) s = .next u ∧ ((u.tile t).oqueue (4 + f.a.toNat)).ents = rest ∧
           (u.tile t).mx.runs.length = m.runs.length + (if n = 1 then 0 else 1) ∧
           ∀ j < 256, mread (u.tile t).mx.wb (4096 * f.d.toNat + j) = h.extractLsb' (8 * j) 8) ∧
      (row + rows ≤ 512 → m.rowsIdle now row rows false = true → ∃ u, exec (.maccld f) s = .next u ∧ ((u.tile t).oqueue (4 + f.a.toNat)).ents = rest ∧
        ∀ i < 64, tget 0 (u.tile t).mx.acc (128 * row + i) = h.extractLsb' (32 * i) 32)) ∧
    (m.loadFree ≤ now → m.planeIdle now f.a.toNat = true → m.slotsIdle now [f.d.toNat] = true → imgBad (imgAt m.wb f.d.toNat) f.d.toNat = false →
      m.slotsIdle now (slotsOf f.d.toNat (imgLen (imgHead (imgAt m.wb f.d.toNat)))) = true →
      ∃ u, exec (.mwsel f) s = .next u ∧ (u.tile t).mx.plane f.a.toNat = planeOf m.wb f.d.toNat true ∧ (u.tile t).mx.wb = m.wb)

/-- R305-R311, R408, R411: MMA, MMAZ and MHAD. -/
def matrixProductsComplete : Prop :=
  ∀ (s : State) (t k : Nat) (f : MForm), matrixAtIssue s t k f →
    let m := (s.tile t).mx
    let now := s.ccc.toNat
    let row := 8 * f.d.toNat
    let rows := 8 * (f.c.toNat + 1)
    (∀ h rest,
      let p := f.a.toNat % 2
      let img := (m.plane p).img
      let kt := depth (imgFmt (imgHead img))
      let ku := if f.b = 0 then kt else 32 * f.b.toNat
      f.a.toNat / 2 = 0 → row + rows ≤ 512 → m.arrayIdle now = true → m.planeIdle now p = true → m.rowsIdle now row rows true = true →
      (m.plane p).valid = true → ku ≤ kt → mmaGroup f.ty.toNat ≠ 0 → mmaGroup f.ty.toNat = mmaGroup (imgFmt (imgHead img)) → f.ty ≠ 8 → queueFree s t 4 →
      ((s.tile t).oqueue 4).ents = h :: rest →
      ∀ e ∈ ([(.mma f, false), (.mmaz f, true)] : List (Instr × Bool)), ∃ u, exec e.1 s = .next u ∧ ((u.tile t).oqueue 4).ents = rest ∧
        ∀ j < 128, tget 0 (u.tile t).mx.acc (128 * row + j) =
          mmaElem img f.ty.toNat 0 0 ku h 0 j (if e.2 then 0 else tget 0 m.acc (128 * row + j))) ∧
    (4 ≤ f.b.toNat → f.b.toNat ≤ 6 → f.a = 0 → f.ty = 0 → row + rows ≤ 512 → m.rowsIdle now row rows false = true →
      ∃ u, exec (.mhad f) s = .next u ∧ ∀ i j, row ≤ i → i < row + rows → j < 128 → tget 0 (u.tile t).mx.acc (128 * i + j) =
        let n := 2 ^ f.b.toNat
        BitVec.ofNat 32 ((hadamard 0 f.rm.toNat ((List.range n).map fun x => decodeNum 0 0 (tget 0 m.acc (128 * i + (j / n * n + x))).toNat)).getD (j % n) 0))

/-- R412, R414: MQUANT writes its image, and MZERO its rows. -/
def matrixImagesComplete : Prop :=
  ∀ (s : State) (t k : Nat) (f : MForm), matrixAtIssue s t k f →
    let m := (s.tile t).mx
    let now := s.ccc.toNat
    let row := 8 * f.d.toNat
    let rows := 8 * (f.c.toNat + 1)
    (let img := m.quantImage row rows f.ty.toNat 0 (f.b.toNat / 4 % 4) (f.b.toNat / 16) f.rm.toNat f.sat f.fzo
     f.b.toNat % 4 = 0 → row + rows ≤ 512 → wFormat f.ty.toNat = true → f.ty ≠ 8 → rows ≤ depth f.ty.toNat → 4096 * f.a.toNat + 16448 ≤ 262144 →
     m.epiIdle now = true → m.rowsIdle now row rows false = true → m.slotsIdle now (slotsOf f.a.toNat 16448) = true →
     ∃ u, exec (.mquant f) s = .next u ∧ ∀ j < 16448, mread (u.tile t).mx.wb (4096 * f.a.toNat + j) = img.getD j 0) ∧
    (row + rows ≤ 512 → m.rowsIdle now row rows false = true → ∃ u, exec (.mzero f) s = .next u ∧ ∀ i, tget 0 (u.tile t).mx.acc i =
      if 128 * row ≤ i ∧ i < 128 * (row + rows) then 0 else tget 0 m.acc i)

/-- R413, R414: MDRAIN and MACCST begin a drain. -/
def matrixDrainsComplete : Prop :=
  ∀ (s : State) (t k : Nat) (f : MForm), matrixAtIssue s t k f →
    let m := (s.tile t).mx
    let now := s.ccc.toNat
    let row := 8 * f.d.toNat
    let rows := 8 * (f.c.toNat + 1)
    ∀ (h : BitVec 2048) (rest : List (BitVec 2048)), ((s.tile t).oqueue 5).ents = h :: rest → queueFree s t 5 → row + rows ≤ 512 → m.epiIdle now = true →
      m.rowsIdle now row rows false = true → s.undoUse (s.ctxOfTile t) + 2 ^ 22 ≤ s.undoSize (s.ctxOfTile t) → h.toNat % 2 ^ 64 < 2 ^ 21 →
      h.toNat % 64 = 0 →
      let off := h.toNat % 2 ^ 64
      (drainType f.ty.toNat = true → f.a.toNat / 16 = 0 → off + 16 * typeBits f.ty.toNat ≤ 2 ^ 21 →
        ∃ u x, exec (.mdrain f) s = .next u ∧ (u.tile t).mx.drains = m.drains ++ [(x : Drain)] ∧ x.r0 = row ∧ x.rows = rows ∧ x.flag = f.b.toNat ∧
          x.tag = some (f.a.toNat % 16) ∧ ((u.tile t).oqueue 5).ents = rest) ∧
      (off + 512 ≤ 2 ^ 21 → ∃ u x, exec (.maccst f) s = .next u ∧ (u.tile t).mx.drains = m.drains ++ [(x : Drain)] ∧ x.r0 = row ∧ x.rows = rows ∧
        x.flag = f.b.toNat ∧ x.tag = none ∧ ((u.tile t).oqueue 5).ents = rest)

/-- Where each form of the matrix stream completes: a matrix instruction at issue that waits for no scheduled cycle issues as soon as the units, rows, slots, plane and queue entries that
it needs are free, and has its effect. Where it meets them, it rests on the model's own choices: log entries 38 and 49. -/
def Obligations.MatrixComplete : Prop :=
  compactAndDrainsComplete ∧ matrixTimingComplete ∧ matrixLoadsComplete ∧ matrixProductsComplete ∧ matrixImagesComplete ∧ matrixDrainsComplete

/-! ## Statements over several of the above -/

/-- When a result of fixed latency is in its register, and what an issue outside a block moves. -/
def Obligations.ExposedPipeline : Prop := FixedResultTiming ∧ IssueAdvances

/-- A scratchpad address is its byte offset, and the addresses that raise a cause. -/
def Obligations.Addresses : Prop := ScratchpadAddresses ∧ AddressFaults

/-- What each store does at issue, by where its address lies. Where it meets them, it rests on the model's own choices: log entries 23 and 63. -/
def Obligations.StoresIssue : Prop := ScratchpadStores ∧ HbmStoresIssue ∧ RegisterStores

/-- Atomics on a scratchpad and on HBM. Where it meets them, it rests on the model's own choices: log entry 23. -/
def Obligations.Atomics : Prop := ScratchpadAtomics ∧ HbmAtomics

/-- Acquiring a lock and releasing objects. Where it meets them, it rests on the model's own choices: log entries 21 and 24. -/
def Obligations.SyncObjects : Prop := AcquireResults ∧ LockIsTaken ∧ ReleaseResults

/-- Names bound to tensors, and PUBLISH. Where it meets them, it rests on the model's own choices: log entries 103 and 121. -/
def Obligations.BindingsAndPublish : Prop := BindingResults ∧ PublishSteps

/-- Fences, barriers and sync flags. Where it meets them, it rests on the model's own choices: log entry 21. -/
def Obligations.FencesBarriersFlags : Prop := FencesAndBarriers ∧ FlagResults

/-- A variable result is written, and the waits that end. Where it meets them, it rests on the model's own choices: log entries 24 and 104. -/
def Obligations.WaitingResults : Prop := VariableResults ∧ WaitsEnd

/-- Dispatching blocks to the other streams, and the end of a task or run. Where it meets them, it rests on the model's own choices: log entries 12 and 13. -/
def Obligations.TasksDispatchAndEnd : Prop := DispatchEntersQueue ∧ TaskEnds

/-- A trap, the return from one, and the return from a match-point handler. -/
def Obligations.TrapsAndReturns : Prop := TrapStopsStream ∧ ReturnResumes ∧ HandlerReturnAndWaits

/-- Hardware loops of the control stream, and the blocks of the others. Where it meets them, it rests on the model's own choices: log entry 25. -/
def Obligations.Blocks : Prop := HardwareLoops ∧ BlockEvents

/-- Taking an exception and the frame it leaves. Where it meets them, it rests on the model's own choices: log entry 10. -/
def Obligations.Exceptions : Prop := ExceptionEntry ∧ FrameFields

/-- The causes that time raises, and match points. Where it meets them, it rests on the model's own choices: log entry 26. -/
def Obligations.TimedCausesAndMatchPoints : Prop := TimedCauses ∧ MatchPoints

/-- A task starts by lottery, leaves its tile, and tiles change owner. Where it meets them, it rests on the model's own choices: log entries 12, 108 and 125. -/
def Obligations.TaskLifecycle : Prop := LotteryStartsTask ∧ TasksLeave ∧ TileOwnership

/-- The arithmetic of the address registers and their interlock. -/
def Obligations.AddressOperations : Prop := AddressArithmetic ∧ AddressInterlock

/-- Loads into operand queues, stores from them, gathers, tensors, and the queues' fills. Where it meets them, it rests on the model's own choices: log entries 22 and 23. -/
def Obligations.QueueOperations : Prop := QueueLoads ∧ QueueStores ∧ GatherAndTensorQueues ∧ QueueFills

/-- Copies issue, and their engines go on with them. Where it meets them, it rests on the model's own choices: log entries 34 and 126. -/
def Obligations.Copies : Prop := CopiesIssue ∧ CopiesProceed

/-- Moves between lanes, conditional streams, masks and operand queues. -/
def Obligations.VectorMovesAndQueues : Prop := VectorMoves ∧ VectorQueuesAndMasks

/-- Reductions, scans and conversions. Where it meets them, it rests on the model's own choices: log entries 35 and 49. -/
def Obligations.VectorReductionsAndConversions : Prop := VectorReductions ∧ VectorConversions

/-- The stamp of a matrix instruction, and the matrix stream's control forms. Where it meets them, it rests on the model's own choices: log entries 39, 40 and 107. -/
def Obligations.MatrixIssue : Prop := MatrixStamps ∧ MatrixControl

/-- Weights, matrix arithmetic and drains. Where it meets them, it rests on the model's own choices: log entries 18, 38 and 49. -/
def Obligations.MatrixComputation : Prop := MatrixWeights ∧ MatrixArithmetic ∧ MatrixDrains
end

