-- ==== Sys2Proof/Laws/Tables.lean ====
section
/-! SUPPORT. Sparse tables and memories: read after write, and the canonical form that every operation keeps. -/
set_option Elab.async false
namespace Sys2Proof.Machine
open Sys2Proof

section
variable {α : Type}

theorem tget_tins (d : α) (k j : Nat) (v : α) (t : Tab α) : tget d (tins k v t) j = if j = k then v else tget d t j := by
  induction t with
  | nil => simp only [tins, tget, eq_comm]
  | cons e t ih =>
    obtain ⟨i, w⟩ := e
    simp only [tins]
    split
    · simp only [tget, eq_comm]
    · split <;> simp only [tget, ih] <;> by_cases h1 : i = j
      · subst h1; simp_all
      · have h2 : ¬ j = i := fun h => h1 h.symm
        subst_vars; simp [h1, h2]
      · subst h1; simp_all
      · simp [h1]

theorem tget_drop (d : α) (k j : Nat) (t : Tab α) : tget d (t.filter fun e => e.1 != k) j = if j = k then d else tget d t j := by
  induction t with
  | nil => simp [tget]
  | cons e t ih =>
    obtain ⟨i, w⟩ := e
    by_cases h : i = k
    · subst h; simp only [List.filter, bne_self_eq_false, ih, tget]
      by_cases h1 : i = j
      · subst h1; simp
      · simp [h1]
    · simp only [List.filter, bne_iff_ne.2 h, tget, ih]; split <;> simp_all

variable [DecidableEq α]

/-- A key reads what was last put there, and every other key reads as before. -/
theorem tget_tput (d : α) (t : Tab α) (k j : Nat) (v : α) : tget d (tput d t k v) j = if j = k then v else tget d t j := by
  unfold tput
  split
  · next h => rw [tget_drop, h]
  · exact tget_tins d k j v t

@[simp] theorem tget_tput_self (d : α) (t : Tab α) (k : Nat) (v : α) : tget d (tput d t k v) k = v := by simp [tget_tput]

@[simp] theorem tget_tput_ne (d : α) (t : Tab α) {k j : Nat} (v : α) (h : j ≠ k) : tget d (tput d t k v) j = tget d t j := by
  simp [tget_tput, h]

/-- Whatever default a reader of another key has. -/
theorem tget_tput_other (d e : α) (t : Tab α) {k j : Nat} (v : α) (h : j ≠ k) : tget e (tput d t k v) j = tget e t j := by
  unfold tput
  split
  · rw [tget_drop, if_neg h]
  · rw [tget_tins, if_neg h]

theorem tget_tmod (d : α) (t : Tab α) (k j : Nat) (f : α → α) : tget d (tmod d t k f) j = if j = k then f (tget d t k) else tget d t j :=
  tget_tput d t k j _

theorem canon_nil (d : α) : Tab.canon d [] = true := by simp [Tab.canon]

theorem canon_iff (d : α) (t : Tab α) : Tab.canon d t = true ↔ (t.map (·.1)).Pairwise (· < ·) ∧ ∀ e ∈ t, e.2 ≠ d := by
  simp [Tab.canon]

omit [DecidableEq α] in
theorem mem_tins (k : Nat) (v : α) (t : Tab α) (e : Nat × α) (h : e ∈ tins k v t) : e = (k, v) ∨ e ∈ t := by
  induction t with
  | nil => simpa [tins] using h
  | cons x t ih =>
    obtain ⟨i, w⟩ := x
    simp only [tins] at h
    split at h
    · simpa using h
    · split at h
      · rcases List.mem_cons.1 h with h | h
        · exact .inl h
        · exact .inr (List.mem_cons_of_mem _ h)
      · rcases List.mem_cons.1 h with h | h
        · exact .inr (h ▸ List.mem_cons_self)
        · rcases ih h with h | h
          · exact .inl h
          · exact .inr (List.mem_cons_of_mem _ h)

omit [DecidableEq α] in
theorem sorted_tins (k : Nat) (v : α) (t : Tab α) (h : (t.map (·.1)).Pairwise (· < ·)) : ((tins k v t).map (·.1)).Pairwise (· < ·) := by
  induction t with
  | nil => simp [tins]
  | cons x t ih =>
    obtain ⟨i, w⟩ := x
    simp only [List.map_cons, List.pairwise_cons] at h
    simp only [tins]
    split
    · next hk =>
      simp only [List.map_cons, List.pairwise_cons]
      refine ⟨fun j hj => ?_, h⟩
      rcases List.mem_cons.1 hj with rfl | hj
      · exact hk
      · exact lt_trans hk (h.1 j hj)
    · split
      · next hk => subst hk; simpa using h
      · next h1 h2 =>
        simp only [List.map_cons, List.pairwise_cons]
        refine ⟨fun j hj => ?_, ih h.2⟩
        obtain ⟨e, he, rfl⟩ := List.mem_map.1 hj
        rcases mem_tins k v t e he with rfl | he
        · exact lt_of_le_of_ne (Nat.not_lt.1 h1) h2
        · exact h.1 _ (List.mem_map_of_mem he)

/-- Putting a value keeps the canonical form. -/
theorem canon_tput (d : α) (t : Tab α) (k : Nat) (v : α) (h : Tab.canon d t = true) : Tab.canon d (tput d t k v) = true := by
  rw [canon_iff] at h ⊢
  unfold tput
  split
  · exact ⟨h.1.sublist (List.Sublist.map _ List.filter_sublist), fun e he => h.2 e (List.mem_filter.1 he).1⟩
  · next hv =>
    refine ⟨sorted_tins k v t h.1, fun e he => ?_⟩
    rcases mem_tins k v t e he with rfl | he
    · exact hv
    · exact h.2 e he

theorem canon_tmod (d : α) (t : Tab α) (k : Nat) (f : α → α) (h : Tab.canon d t = true) : Tab.canon d (tmod d t k f) = true :=
  canon_tput d t k _ h

end

/-! ## Memory -/

theorem mem_wf_nil : Mem.wf [] := canon_nil 0

theorem mem_wf_mwrites (bs : List Byte) : ∀ (m : Mem) (a : Nat), Mem.wf m → Mem.wf (mwrites m a bs) := by
  induction bs with
  | nil => intro m a h; exact h
  | cons b bs ih => intro m a h; exact ih _ _ (canon_tput 0 m a b h)

theorem mem_wf_mputw (m : Mem) (a : Nat) (v : Word) (h : Mem.wf m) : Mem.wf (mputw m a v) := mem_wf_mwrites _ m a h

/-- Reading a byte after a write of bytes from an address. -/
theorem mread_mwrites (bs : List Byte) : ∀ (m : Mem) (a j : Nat),
    mread (mwrites m a bs) j = if h : a ≤ j ∧ j < a + bs.length then bs[j - a]'(by omega) else mread m j := by
  induction bs with
  | nil => intro m a j; simp only [mwrites, List.length_nil, Nat.add_zero]; rw [dif_neg (by omega)]
  | cons b bs ih =>
    intro m a j
    simp only [mwrites, ih, List.length_cons]
    by_cases h1 : a + 1 ≤ j ∧ j < a + 1 + bs.length
    · rw [dif_pos h1, dif_pos (by omega)]
      have : j - a = (j - (a + 1)) + 1 := by omega
      simp [this]
    · rw [dif_neg h1]
      by_cases h2 : j = a
      · subst h2; simp [mread]
      · rw [dif_neg (by omega)]; simp [mread, h2]

/-- A byte outside the written ones reads as before. -/
theorem mread_mwrites_outside (m : Mem) (a : Nat) (bs : List Byte) (j : Nat) (h : j < a ∨ a + bs.length ≤ j) :
    mread (mwrites m a bs) j = mread m j := by
  rw [mread_mwrites, dif_neg (by omega)]

theorem mreads_length (m : Mem) (a n : Nat) : (mreads m a n).length = n := by
  induction n generalizing a with
  | zero => rfl
  | succ n ih => simp [mreads, ih]

theorem mreads_get (m : Mem) (a n i : Nat) (h : i < (mreads m a n).length) : (mreads m a n)[i] = mread m (a + i) := by
  induction n generalizing a i with
  | zero => simp [mreads] at h
  | succ n ih =>
    cases i with
    | zero => simp [mreads]
    | succ i => simp only [mreads, List.getElem_cons_succ]; rw [ih]; congr 1; omega

/-- The bytes written are the bytes read. -/
theorem mreads_mwrites_self (m : Mem) (a : Nat) (bs : List Byte) : mreads (mwrites m a bs) a bs.length = bs := by
  apply List.ext_getElem (mreads_length _ _ _)
  intro i h1 h2
  rw [mreads_get, mread_mwrites, dif_pos (by omega)]
  simp

theorem mreads_outside (m : Mem) (a n : Nat) (p : Nat) (bs : List Byte) (h : a + n ≤ p ∨ p + bs.length ≤ a) :
    mreads (mwrites m p bs) a n = mreads m a n := by
  apply List.ext_getElem (by simp [mreads_length])
  intro i h1 h2
  rw [mreads_length] at h1
  rw [mreads_get, mreads_get, mread_mwrites_outside _ _ _ _ (by omega)]

theorem leNat_leBytes (n : Nat) : ∀ v, leNat (leBytes n v) = v % 256 ^ n := by
  induction n with
  | zero => intro v; simp [leBytes, leNat, Nat.mod_one]
  | succ n ih =>
    intro v
    rw [leBytes, leNat, ih, BitVec.toNat_ofNat, show (2 : ℕ) ^ 8 = 256 from rfl, Nat.pow_succ', Nat.mod_mul]

@[simp] theorem leBytes_length (n v : Nat) : (leBytes n v).length = n := by
  induction n generalizing v with
  | zero => rfl
  | succ n ih => simp [leBytes, ih]

/-- A value of n bytes reads back as it was written. -/
theorem mval_mwrites (m : Mem) (a n v : Nat) : mval (mwrites m a (leBytes n v)) a n = v % 256 ^ n := by
  have h := mreads_mwrites_self m a (leBytes n v)
  rw [leBytes_length] at h
  rw [mval, h, leNat_leBytes]

end Sys2Proof.Machine
end

