-- ==== Sys2Proof/Laws/State.lean ====
section
/-! SUPPORT. What each update of the state leaves: one lemma per field per update, and what is read back after one. -/
set_option Elab.async false
namespace Sys2Proof.Machine
open Sys2Proof

/-! ### setTile -/

@[simp] theorem State.setTile_agenda (s : State) (t : Nat) (x : Tile) : (s.setTile t x).agenda = s.agenda := rfl
@[simp] theorem State.setTile_cur (s : State) (t : Nat) (x : Tile) : (s.setTile t x).cur = s.cur := rfl
@[simp] theorem State.setTile_curInsn (s : State) (t : Nat) (x : Tile) : (s.setTile t x).curInsn = s.curInsn := rfl
@[simp] theorem State.setTile_freeCount (s : State) (t : Nat) (x : Tile) : (s.setTile t x).freeCount = s.freeCount := rfl
@[simp] theorem State.setTile_nextId (s : State) (t : Nat) (x : Tile) : (s.setTile t x).nextId = s.nextId := rfl
@[simp] theorem State.setTile_ccc (s : State) (t : Nat) (x : Tile) : (s.setTile t x).ccc = s.ccc := rfl
@[simp] theorem State.setTile_hbm (s : State) (t : Nat) (x : Tile) : (s.setTile t x).hbm = s.hbm := rfl
@[simp] theorem State.setTile_sram (s : State) (t : Nat) (x : Tile) : (s.setTile t x).sram = s.sram := rfl
@[simp] theorem State.setTile_regs (s : State) (t : Nat) (x : Tile) : (s.setTile t x).regs = s.regs := rfl
@[simp] theorem State.setTile_threads (s : State) (t : Nat) (x : Tile) : (s.setTile t x).threads = s.threads := rfl
@[simp] theorem State.setTile_coreTlb (s : State) (t : Nat) (x : Tile) : (s.setTile t x).coreTlb = s.coreTlb := rfl
@[simp] theorem State.setTile_entries (s : State) (t : Nat) (x : Tile) : (s.setTile t x).entries = s.entries := rfl
@[simp] theorem State.setTile_armSeq (s : State) (t : Nat) (x : Tile) : (s.setTile t x).armSeq = s.armSeq := rfl
@[simp] theorem State.setTile_aseq (s : State) (t : Nat) (x : Tile) : (s.setTile t x).aseq = s.aseq := rfl
@[simp] theorem State.setTile_arrivals (s : State) (t : Nat) (x : Tile) : (s.setTile t x).arrivals = s.arrivals := rfl
@[simp] theorem State.setTile_ux (s : State) (t : Nat) (x : Tile) : (s.setTile t x).ux = s.ux := rfl
@[simp] theorem State.setTile_deposits (s : State) (t : Nat) (x : Tile) : (s.setTile t x).deposits = s.deposits := rfl
@[simp] theorem State.setTile_disarmed (s : State) (t : Nat) (x : Tile) : (s.setTile t x).disarmed = s.disarmed := rfl
@[simp] theorem State.setTile_winDel (s : State) (t : Nat) (x : Tile) : (s.setTile t x).winDel = s.winDel := rfl
@[simp] theorem State.setTile_engSig (s : State) (t : Nat) (x : Tile) : (s.setTile t x).engSig = s.engSig := rfl
@[simp] theorem State.setTile_ctrCmds (s : State) (t : Nat) (x : Tile) : (s.setTile t x).ctrCmds = s.ctrCmds := rfl
@[simp] theorem State.setTile_evUsed (s : State) (t : Nat) (x : Tile) : (s.setTile t x).evUsed = s.evUsed := rfl
@[simp] theorem State.setTile_ferryRels (s : State) (t : Nat) (x : Tile) : (s.setTile t x).ferryRels = s.ferryRels := rfl
@[simp] theorem State.setTile_heldIn (s : State) (t : Nat) (x : Tile) : (s.setTile t x).heldIn = s.heldIn := rfl
@[simp] theorem State.setTile_actions (s : State) (t : Nat) (x : Tile) : (s.setTile t x).actions = s.actions := rfl
@[simp] theorem State.setTile_wakes (s : State) (t : Nat) (x : Tile) : (s.setTile t x).wakes = s.wakes := rfl
@[simp] theorem State.setTile_tensors (s : State) (t : Nat) (x : Tile) : (s.setTile t x).tensors = s.tensors := rfl
@[simp] theorem State.setTile_bindings (s : State) (t : Nat) (x : Tile) : (s.setTile t x).bindings = s.bindings := rfl
@[simp] theorem State.setTile_stores (s : State) (t : Nat) (x : Tile) : (s.setTile t x).stores = s.stores := rfl
@[simp] theorem State.setTile_sent (s : State) (t : Nat) (x : Tile) : (s.setTile t x).sent = s.sent := rfl
@[simp] theorem State.setTile_sends (s : State) (t : Nat) (x : Tile) : (s.setTile t x).sends = s.sends := rfl
@[simp] theorem State.setTile_pseqOut (s : State) (t : Nat) (x : Tile) : (s.setTile t x).pseqOut = s.pseqOut := rfl
@[simp] theorem State.setTile_pseqIn (s : State) (t : Nat) (x : Tile) : (s.setTile t x).pseqIn = s.pseqIn := rfl
@[simp] theorem State.setTile_discarding (s : State) (t : Nat) (x : Tile) : (s.setTile t x).discarding = s.discarding := rfl
@[simp] theorem State.setTile_lhw (s : State) (t : Nat) (x : Tile) : (s.setTile t x).lhw = s.lhw := rfl
@[simp] theorem State.setTile_harbour (s : State) (t : Nat) (x : Tile) : (s.setTile t x).harbour = s.harbour := rfl
@[simp] theorem State.setTile_tokens (s : State) (t : Nat) (x : Tile) : (s.setTile t x).tokens = s.tokens := rfl
@[simp] theorem State.setTile_tokenUse (s : State) (t : Nat) (x : Tile) : (s.setTile t x).tokenUse = s.tokenUse := rfl
@[simp] theorem State.setTile_tokenTold (s : State) (t : Nat) (x : Tile) : (s.setTile t x).tokenTold = s.tokenTold := rfl
@[simp] theorem State.setTile_holdTold (s : State) (t : Nat) (x : Tile) : (s.setTile t x).holdTold = s.holdTold := rfl
@[simp] theorem State.setTile_queries (s : State) (t : Nat) (x : Tile) : (s.setTile t x).queries = s.queries := rfl
@[simp] theorem State.setTile_links (s : State) (t : Nat) (x : Tile) : (s.setTile t x).links = s.links := rfl
@[simp] theorem State.setTile_inq (s : State) (t : Nat) (x : Tile) : (s.setTile t x).inq = s.inq := rfl
@[simp] theorem State.setTile_fences (s : State) (t : Nat) (x : Tile) : (s.setTile t x).fences = s.fences := rfl
@[simp] theorem State.setTile_reds (s : State) (t : Nat) (x : Tile) : (s.setTile t x).reds = s.reds := rfl
@[simp] theorem State.setTile_updates (s : State) (t : Nat) (x : Tile) : (s.setTile t x).updates = s.updates := rfl
@[simp] theorem State.setTile_migrations (s : State) (t : Nat) (x : Tile) : (s.setTile t x).migrations = s.migrations := rfl
@[simp] theorem State.setTile_copies (s : State) (t : Nat) (x : Tile) : (s.setTile t x).copies = s.copies := rfl
@[simp] theorem State.setTile_ceLast (s : State) (t : Nat) (x : Tile) : (s.setTile t x).ceLast = s.ceLast := rfl
@[simp] theorem State.setTile_hbmLast (s : State) (t : Nat) (x : Tile) : (s.setTile t x).hbmLast = s.hbmLast := rfl
@[simp] theorem State.setTile_faultSigs (s : State) (t : Nat) (x : Tile) : (s.setTile t x).faultSigs = s.faultSigs := rfl
@[simp] theorem State.setTile_colls (s : State) (t : Nat) (x : Tile) : (s.setTile t x).colls = s.colls := rfl
@[simp] theorem State.setTile_pubs (s : State) (t : Nat) (x : Tile) : (s.setTile t x).pubs = s.pubs := rfl
@[simp] theorem State.setTile_remoteFlags (s : State) (t : Nat) (x : Tile) : (s.setTile t x).remoteFlags = s.remoteFlags := rfl
@[simp] theorem State.setTile_sched (s : State) (t : Nat) (x : Tile) : (s.setTile t x).sched = s.sched := rfl
@[simp] theorem State.setTile_logs (s : State) (t : Nat) (x : Tile) : (s.setTile t x).logs = s.logs := rfl
@[simp] theorem State.setTile_musters (s : State) (t : Nat) (x : Tile) : (s.setTile t x).musters = s.musters := rfl
@[simp] theorem State.setTile_slotNew (s : State) (t : Nat) (x : Tile) : (s.setTile t x).slotNew = s.slotNew := rfl
@[simp] theorem State.setTile_hostTlps (s : State) (t : Nat) (x : Tile) : (s.setTile t x).hostTlps = s.hostTlps := rfl
@[simp] theorem State.setTile_snapAt (s : State) (t : Nat) (x : Tile) : (s.setTile t x).snapAt = s.snapAt := rfl
@[simp] theorem State.setTile_unitSnap (s : State) (t : Nat) (x : Tile) : (s.setTile t x).unitSnap = s.unitSnap := rfl
@[simp] theorem State.setTile_saveFrames (s : State) (t : Nat) (x : Tile) : (s.setTile t x).saveFrames = s.saveFrames := rfl
@[simp] theorem State.setTile_destroying (s : State) (t : Nat) (x : Tile) : (s.setTile t x).destroying = s.destroying := rfl
@[simp] theorem State.setTile_pkg (s : State) (t : Nat) (x : Tile) : (s.setTile t x).pkg = s.pkg := rfl
@[simp] theorem State.setTile_out (s : State) (t : Nat) (x : Tile) : (s.setTile t x).out = s.out := rfl

/-! ### modTile -/

@[simp] theorem State.modTile_agenda (s : State) (t : Nat) (g : Tile → Tile) : (s.modTile t g).agenda = s.agenda := rfl
@[simp] theorem State.modTile_cur (s : State) (t : Nat) (g : Tile → Tile) : (s.modTile t g).cur = s.cur := rfl
@[simp] theorem State.modTile_curInsn (s : State) (t : Nat) (g : Tile → Tile) : (s.modTile t g).curInsn = s.curInsn := rfl
@[simp] theorem State.modTile_freeCount (s : State) (t : Nat) (g : Tile → Tile) : (s.modTile t g).freeCount = s.freeCount := rfl
@[simp] theorem State.modTile_nextId (s : State) (t : Nat) (g : Tile → Tile) : (s.modTile t g).nextId = s.nextId := rfl
@[simp] theorem State.modTile_ccc (s : State) (t : Nat) (g : Tile → Tile) : (s.modTile t g).ccc = s.ccc := rfl
@[simp] theorem State.modTile_hbm (s : State) (t : Nat) (g : Tile → Tile) : (s.modTile t g).hbm = s.hbm := rfl
@[simp] theorem State.modTile_sram (s : State) (t : Nat) (g : Tile → Tile) : (s.modTile t g).sram = s.sram := rfl
@[simp] theorem State.modTile_regs (s : State) (t : Nat) (g : Tile → Tile) : (s.modTile t g).regs = s.regs := rfl
@[simp] theorem State.modTile_threads (s : State) (t : Nat) (g : Tile → Tile) : (s.modTile t g).threads = s.threads := rfl
@[simp] theorem State.modTile_coreTlb (s : State) (t : Nat) (g : Tile → Tile) : (s.modTile t g).coreTlb = s.coreTlb := rfl
@[simp] theorem State.modTile_entries (s : State) (t : Nat) (g : Tile → Tile) : (s.modTile t g).entries = s.entries := rfl
@[simp] theorem State.modTile_armSeq (s : State) (t : Nat) (g : Tile → Tile) : (s.modTile t g).armSeq = s.armSeq := rfl
@[simp] theorem State.modTile_aseq (s : State) (t : Nat) (g : Tile → Tile) : (s.modTile t g).aseq = s.aseq := rfl
@[simp] theorem State.modTile_arrivals (s : State) (t : Nat) (g : Tile → Tile) : (s.modTile t g).arrivals = s.arrivals := rfl
@[simp] theorem State.modTile_ux (s : State) (t : Nat) (g : Tile → Tile) : (s.modTile t g).ux = s.ux := rfl
@[simp] theorem State.modTile_deposits (s : State) (t : Nat) (g : Tile → Tile) : (s.modTile t g).deposits = s.deposits := rfl
@[simp] theorem State.modTile_disarmed (s : State) (t : Nat) (g : Tile → Tile) : (s.modTile t g).disarmed = s.disarmed := rfl
@[simp] theorem State.modTile_winDel (s : State) (t : Nat) (g : Tile → Tile) : (s.modTile t g).winDel = s.winDel := rfl
@[simp] theorem State.modTile_engSig (s : State) (t : Nat) (g : Tile → Tile) : (s.modTile t g).engSig = s.engSig := rfl
@[simp] theorem State.modTile_ctrCmds (s : State) (t : Nat) (g : Tile → Tile) : (s.modTile t g).ctrCmds = s.ctrCmds := rfl
@[simp] theorem State.modTile_evUsed (s : State) (t : Nat) (g : Tile → Tile) : (s.modTile t g).evUsed = s.evUsed := rfl
@[simp] theorem State.modTile_ferryRels (s : State) (t : Nat) (g : Tile → Tile) : (s.modTile t g).ferryRels = s.ferryRels := rfl
@[simp] theorem State.modTile_heldIn (s : State) (t : Nat) (g : Tile → Tile) : (s.modTile t g).heldIn = s.heldIn := rfl
@[simp] theorem State.modTile_actions (s : State) (t : Nat) (g : Tile → Tile) : (s.modTile t g).actions = s.actions := rfl
@[simp] theorem State.modTile_wakes (s : State) (t : Nat) (g : Tile → Tile) : (s.modTile t g).wakes = s.wakes := rfl
@[simp] theorem State.modTile_tensors (s : State) (t : Nat) (g : Tile → Tile) : (s.modTile t g).tensors = s.tensors := rfl
@[simp] theorem State.modTile_bindings (s : State) (t : Nat) (g : Tile → Tile) : (s.modTile t g).bindings = s.bindings := rfl
@[simp] theorem State.modTile_stores (s : State) (t : Nat) (g : Tile → Tile) : (s.modTile t g).stores = s.stores := rfl
@[simp] theorem State.modTile_sent (s : State) (t : Nat) (g : Tile → Tile) : (s.modTile t g).sent = s.sent := rfl
@[simp] theorem State.modTile_sends (s : State) (t : Nat) (g : Tile → Tile) : (s.modTile t g).sends = s.sends := rfl
@[simp] theorem State.modTile_pseqOut (s : State) (t : Nat) (g : Tile → Tile) : (s.modTile t g).pseqOut = s.pseqOut := rfl
@[simp] theorem State.modTile_pseqIn (s : State) (t : Nat) (g : Tile → Tile) : (s.modTile t g).pseqIn = s.pseqIn := rfl
@[simp] theorem State.modTile_discarding (s : State) (t : Nat) (g : Tile → Tile) : (s.modTile t g).discarding = s.discarding := rfl
@[simp] theorem State.modTile_lhw (s : State) (t : Nat) (g : Tile → Tile) : (s.modTile t g).lhw = s.lhw := rfl
@[simp] theorem State.modTile_harbour (s : State) (t : Nat) (g : Tile → Tile) : (s.modTile t g).harbour = s.harbour := rfl
@[simp] theorem State.modTile_tokens (s : State) (t : Nat) (g : Tile → Tile) : (s.modTile t g).tokens = s.tokens := rfl
@[simp] theorem State.modTile_tokenUse (s : State) (t : Nat) (g : Tile → Tile) : (s.modTile t g).tokenUse = s.tokenUse := rfl
@[simp] theorem State.modTile_tokenTold (s : State) (t : Nat) (g : Tile → Tile) : (s.modTile t g).tokenTold = s.tokenTold := rfl
@[simp] theorem State.modTile_holdTold (s : State) (t : Nat) (g : Tile → Tile) : (s.modTile t g).holdTold = s.holdTold := rfl
@[simp] theorem State.modTile_queries (s : State) (t : Nat) (g : Tile → Tile) : (s.modTile t g).queries = s.queries := rfl
@[simp] theorem State.modTile_links (s : State) (t : Nat) (g : Tile → Tile) : (s.modTile t g).links = s.links := rfl
@[simp] theorem State.modTile_inq (s : State) (t : Nat) (g : Tile → Tile) : (s.modTile t g).inq = s.inq := rfl
@[simp] theorem State.modTile_fences (s : State) (t : Nat) (g : Tile → Tile) : (s.modTile t g).fences = s.fences := rfl
@[simp] theorem State.modTile_reds (s : State) (t : Nat) (g : Tile → Tile) : (s.modTile t g).reds = s.reds := rfl
@[simp] theorem State.modTile_updates (s : State) (t : Nat) (g : Tile → Tile) : (s.modTile t g).updates = s.updates := rfl
@[simp] theorem State.modTile_migrations (s : State) (t : Nat) (g : Tile → Tile) : (s.modTile t g).migrations = s.migrations := rfl
@[simp] theorem State.modTile_copies (s : State) (t : Nat) (g : Tile → Tile) : (s.modTile t g).copies = s.copies := rfl
@[simp] theorem State.modTile_ceLast (s : State) (t : Nat) (g : Tile → Tile) : (s.modTile t g).ceLast = s.ceLast := rfl
@[simp] theorem State.modTile_hbmLast (s : State) (t : Nat) (g : Tile → Tile) : (s.modTile t g).hbmLast = s.hbmLast := rfl
@[simp] theorem State.modTile_faultSigs (s : State) (t : Nat) (g : Tile → Tile) : (s.modTile t g).faultSigs = s.faultSigs := rfl
@[simp] theorem State.modTile_colls (s : State) (t : Nat) (g : Tile → Tile) : (s.modTile t g).colls = s.colls := rfl
@[simp] theorem State.modTile_pubs (s : State) (t : Nat) (g : Tile → Tile) : (s.modTile t g).pubs = s.pubs := rfl
@[simp] theorem State.modTile_remoteFlags (s : State) (t : Nat) (g : Tile → Tile) : (s.modTile t g).remoteFlags = s.remoteFlags := rfl
@[simp] theorem State.modTile_sched (s : State) (t : Nat) (g : Tile → Tile) : (s.modTile t g).sched = s.sched := rfl
@[simp] theorem State.modTile_logs (s : State) (t : Nat) (g : Tile → Tile) : (s.modTile t g).logs = s.logs := rfl
@[simp] theorem State.modTile_musters (s : State) (t : Nat) (g : Tile → Tile) : (s.modTile t g).musters = s.musters := rfl
@[simp] theorem State.modTile_slotNew (s : State) (t : Nat) (g : Tile → Tile) : (s.modTile t g).slotNew = s.slotNew := rfl
@[simp] theorem State.modTile_hostTlps (s : State) (t : Nat) (g : Tile → Tile) : (s.modTile t g).hostTlps = s.hostTlps := rfl
@[simp] theorem State.modTile_snapAt (s : State) (t : Nat) (g : Tile → Tile) : (s.modTile t g).snapAt = s.snapAt := rfl
@[simp] theorem State.modTile_unitSnap (s : State) (t : Nat) (g : Tile → Tile) : (s.modTile t g).unitSnap = s.unitSnap := rfl
@[simp] theorem State.modTile_saveFrames (s : State) (t : Nat) (g : Tile → Tile) : (s.modTile t g).saveFrames = s.saveFrames := rfl
@[simp] theorem State.modTile_destroying (s : State) (t : Nat) (g : Tile → Tile) : (s.modTile t g).destroying = s.destroying := rfl
@[simp] theorem State.modTile_pkg (s : State) (t : Nat) (g : Tile → Tile) : (s.modTile t g).pkg = s.pkg := rfl
@[simp] theorem State.modTile_out (s : State) (t : Nat) (g : Tile → Tile) : (s.modTile t g).out = s.out := rfl

/-! ### setThr -/

@[simp] theorem State.setThr_agenda (s : State) (n : Nat) (x : Thread) : (s.setThr n x).agenda = s.agenda := rfl
@[simp] theorem State.setThr_cur (s : State) (n : Nat) (x : Thread) : (s.setThr n x).cur = s.cur := rfl
@[simp] theorem State.setThr_curInsn (s : State) (n : Nat) (x : Thread) : (s.setThr n x).curInsn = s.curInsn := rfl
@[simp] theorem State.setThr_freeCount (s : State) (n : Nat) (x : Thread) : (s.setThr n x).freeCount = s.freeCount := rfl
@[simp] theorem State.setThr_nextId (s : State) (n : Nat) (x : Thread) : (s.setThr n x).nextId = s.nextId := rfl
@[simp] theorem State.setThr_ccc (s : State) (n : Nat) (x : Thread) : (s.setThr n x).ccc = s.ccc := rfl
@[simp] theorem State.setThr_hbm (s : State) (n : Nat) (x : Thread) : (s.setThr n x).hbm = s.hbm := rfl
@[simp] theorem State.setThr_sram (s : State) (n : Nat) (x : Thread) : (s.setThr n x).sram = s.sram := rfl
@[simp] theorem State.setThr_regs (s : State) (n : Nat) (x : Thread) : (s.setThr n x).regs = s.regs := rfl
@[simp] theorem State.setThr_tiles (s : State) (n : Nat) (x : Thread) : (s.setThr n x).tiles = s.tiles := rfl
@[simp] theorem State.setThr_coreTlb (s : State) (n : Nat) (x : Thread) : (s.setThr n x).coreTlb = s.coreTlb := rfl
@[simp] theorem State.setThr_entries (s : State) (n : Nat) (x : Thread) : (s.setThr n x).entries = s.entries := rfl
@[simp] theorem State.setThr_armSeq (s : State) (n : Nat) (x : Thread) : (s.setThr n x).armSeq = s.armSeq := rfl
@[simp] theorem State.setThr_aseq (s : State) (n : Nat) (x : Thread) : (s.setThr n x).aseq = s.aseq := rfl
@[simp] theorem State.setThr_arrivals (s : State) (n : Nat) (x : Thread) : (s.setThr n x).arrivals = s.arrivals := rfl
@[simp] theorem State.setThr_ux (s : State) (n : Nat) (x : Thread) : (s.setThr n x).ux = s.ux := rfl
@[simp] theorem State.setThr_deposits (s : State) (n : Nat) (x : Thread) : (s.setThr n x).deposits = s.deposits := rfl
@[simp] theorem State.setThr_disarmed (s : State) (n : Nat) (x : Thread) : (s.setThr n x).disarmed = s.disarmed := rfl
@[simp] theorem State.setThr_winDel (s : State) (n : Nat) (x : Thread) : (s.setThr n x).winDel = s.winDel := rfl
@[simp] theorem State.setThr_engSig (s : State) (n : Nat) (x : Thread) : (s.setThr n x).engSig = s.engSig := rfl
@[simp] theorem State.setThr_ctrCmds (s : State) (n : Nat) (x : Thread) : (s.setThr n x).ctrCmds = s.ctrCmds := rfl
@[simp] theorem State.setThr_evUsed (s : State) (n : Nat) (x : Thread) : (s.setThr n x).evUsed = s.evUsed := rfl
@[simp] theorem State.setThr_ferryRels (s : State) (n : Nat) (x : Thread) : (s.setThr n x).ferryRels = s.ferryRels := rfl
@[simp] theorem State.setThr_heldIn (s : State) (n : Nat) (x : Thread) : (s.setThr n x).heldIn = s.heldIn := rfl
@[simp] theorem State.setThr_actions (s : State) (n : Nat) (x : Thread) : (s.setThr n x).actions = s.actions := rfl
@[simp] theorem State.setThr_wakes (s : State) (n : Nat) (x : Thread) : (s.setThr n x).wakes = s.wakes := rfl
@[simp] theorem State.setThr_tensors (s : State) (n : Nat) (x : Thread) : (s.setThr n x).tensors = s.tensors := rfl
@[simp] theorem State.setThr_bindings (s : State) (n : Nat) (x : Thread) : (s.setThr n x).bindings = s.bindings := rfl
@[simp] theorem State.setThr_stores (s : State) (n : Nat) (x : Thread) : (s.setThr n x).stores = s.stores := rfl
@[simp] theorem State.setThr_sent (s : State) (n : Nat) (x : Thread) : (s.setThr n x).sent = s.sent := rfl
@[simp] theorem State.setThr_sends (s : State) (n : Nat) (x : Thread) : (s.setThr n x).sends = s.sends := rfl
@[simp] theorem State.setThr_pseqOut (s : State) (n : Nat) (x : Thread) : (s.setThr n x).pseqOut = s.pseqOut := rfl
@[simp] theorem State.setThr_pseqIn (s : State) (n : Nat) (x : Thread) : (s.setThr n x).pseqIn = s.pseqIn := rfl
@[simp] theorem State.setThr_discarding (s : State) (n : Nat) (x : Thread) : (s.setThr n x).discarding = s.discarding := rfl
@[simp] theorem State.setThr_lhw (s : State) (n : Nat) (x : Thread) : (s.setThr n x).lhw = s.lhw := rfl
@[simp] theorem State.setThr_harbour (s : State) (n : Nat) (x : Thread) : (s.setThr n x).harbour = s.harbour := rfl
@[simp] theorem State.setThr_tokens (s : State) (n : Nat) (x : Thread) : (s.setThr n x).tokens = s.tokens := rfl
@[simp] theorem State.setThr_tokenUse (s : State) (n : Nat) (x : Thread) : (s.setThr n x).tokenUse = s.tokenUse := rfl
@[simp] theorem State.setThr_tokenTold (s : State) (n : Nat) (x : Thread) : (s.setThr n x).tokenTold = s.tokenTold := rfl
@[simp] theorem State.setThr_holdTold (s : State) (n : Nat) (x : Thread) : (s.setThr n x).holdTold = s.holdTold := rfl
@[simp] theorem State.setThr_queries (s : State) (n : Nat) (x : Thread) : (s.setThr n x).queries = s.queries := rfl
@[simp] theorem State.setThr_links (s : State) (n : Nat) (x : Thread) : (s.setThr n x).links = s.links := rfl
@[simp] theorem State.setThr_inq (s : State) (n : Nat) (x : Thread) : (s.setThr n x).inq = s.inq := rfl
@[simp] theorem State.setThr_fences (s : State) (n : Nat) (x : Thread) : (s.setThr n x).fences = s.fences := rfl
@[simp] theorem State.setThr_reds (s : State) (n : Nat) (x : Thread) : (s.setThr n x).reds = s.reds := rfl
@[simp] theorem State.setThr_updates (s : State) (n : Nat) (x : Thread) : (s.setThr n x).updates = s.updates := rfl
@[simp] theorem State.setThr_migrations (s : State) (n : Nat) (x : Thread) : (s.setThr n x).migrations = s.migrations := rfl
@[simp] theorem State.setThr_copies (s : State) (n : Nat) (x : Thread) : (s.setThr n x).copies = s.copies := rfl
@[simp] theorem State.setThr_ceLast (s : State) (n : Nat) (x : Thread) : (s.setThr n x).ceLast = s.ceLast := rfl
@[simp] theorem State.setThr_hbmLast (s : State) (n : Nat) (x : Thread) : (s.setThr n x).hbmLast = s.hbmLast := rfl
@[simp] theorem State.setThr_faultSigs (s : State) (n : Nat) (x : Thread) : (s.setThr n x).faultSigs = s.faultSigs := rfl
@[simp] theorem State.setThr_colls (s : State) (n : Nat) (x : Thread) : (s.setThr n x).colls = s.colls := rfl
@[simp] theorem State.setThr_pubs (s : State) (n : Nat) (x : Thread) : (s.setThr n x).pubs = s.pubs := rfl
@[simp] theorem State.setThr_remoteFlags (s : State) (n : Nat) (x : Thread) : (s.setThr n x).remoteFlags = s.remoteFlags := rfl
@[simp] theorem State.setThr_sched (s : State) (n : Nat) (x : Thread) : (s.setThr n x).sched = s.sched := rfl
@[simp] theorem State.setThr_logs (s : State) (n : Nat) (x : Thread) : (s.setThr n x).logs = s.logs := rfl
@[simp] theorem State.setThr_musters (s : State) (n : Nat) (x : Thread) : (s.setThr n x).musters = s.musters := rfl
@[simp] theorem State.setThr_slotNew (s : State) (n : Nat) (x : Thread) : (s.setThr n x).slotNew = s.slotNew := rfl
@[simp] theorem State.setThr_hostTlps (s : State) (n : Nat) (x : Thread) : (s.setThr n x).hostTlps = s.hostTlps := rfl
@[simp] theorem State.setThr_snapAt (s : State) (n : Nat) (x : Thread) : (s.setThr n x).snapAt = s.snapAt := rfl
@[simp] theorem State.setThr_unitSnap (s : State) (n : Nat) (x : Thread) : (s.setThr n x).unitSnap = s.unitSnap := rfl
@[simp] theorem State.setThr_saveFrames (s : State) (n : Nat) (x : Thread) : (s.setThr n x).saveFrames = s.saveFrames := rfl
@[simp] theorem State.setThr_destroying (s : State) (n : Nat) (x : Thread) : (s.setThr n x).destroying = s.destroying := rfl
@[simp] theorem State.setThr_pkg (s : State) (n : Nat) (x : Thread) : (s.setThr n x).pkg = s.pkg := rfl
@[simp] theorem State.setThr_out (s : State) (n : Nat) (x : Thread) : (s.setThr n x).out = s.out := rfl

/-! ### modThr -/

@[simp] theorem State.modThr_agenda (s : State) (n : Nat) (g : Thread → Thread) : (s.modThr n g).agenda = s.agenda := rfl
@[simp] theorem State.modThr_cur (s : State) (n : Nat) (g : Thread → Thread) : (s.modThr n g).cur = s.cur := rfl
@[simp] theorem State.modThr_curInsn (s : State) (n : Nat) (g : Thread → Thread) : (s.modThr n g).curInsn = s.curInsn := rfl
@[simp] theorem State.modThr_freeCount (s : State) (n : Nat) (g : Thread → Thread) : (s.modThr n g).freeCount = s.freeCount := rfl
@[simp] theorem State.modThr_nextId (s : State) (n : Nat) (g : Thread → Thread) : (s.modThr n g).nextId = s.nextId := rfl
@[simp] theorem State.modThr_ccc (s : State) (n : Nat) (g : Thread → Thread) : (s.modThr n g).ccc = s.ccc := rfl
@[simp] theorem State.modThr_hbm (s : State) (n : Nat) (g : Thread → Thread) : (s.modThr n g).hbm = s.hbm := rfl
@[simp] theorem State.modThr_sram (s : State) (n : Nat) (g : Thread → Thread) : (s.modThr n g).sram = s.sram := rfl
@[simp] theorem State.modThr_regs (s : State) (n : Nat) (g : Thread → Thread) : (s.modThr n g).regs = s.regs := rfl
@[simp] theorem State.modThr_tiles (s : State) (n : Nat) (g : Thread → Thread) : (s.modThr n g).tiles = s.tiles := rfl
@[simp] theorem State.modThr_coreTlb (s : State) (n : Nat) (g : Thread → Thread) : (s.modThr n g).coreTlb = s.coreTlb := rfl
@[simp] theorem State.modThr_entries (s : State) (n : Nat) (g : Thread → Thread) : (s.modThr n g).entries = s.entries := rfl
@[simp] theorem State.modThr_armSeq (s : State) (n : Nat) (g : Thread → Thread) : (s.modThr n g).armSeq = s.armSeq := rfl
@[simp] theorem State.modThr_aseq (s : State) (n : Nat) (g : Thread → Thread) : (s.modThr n g).aseq = s.aseq := rfl
@[simp] theorem State.modThr_arrivals (s : State) (n : Nat) (g : Thread → Thread) : (s.modThr n g).arrivals = s.arrivals := rfl
@[simp] theorem State.modThr_ux (s : State) (n : Nat) (g : Thread → Thread) : (s.modThr n g).ux = s.ux := rfl
@[simp] theorem State.modThr_deposits (s : State) (n : Nat) (g : Thread → Thread) : (s.modThr n g).deposits = s.deposits := rfl
@[simp] theorem State.modThr_disarmed (s : State) (n : Nat) (g : Thread → Thread) : (s.modThr n g).disarmed = s.disarmed := rfl
@[simp] theorem State.modThr_winDel (s : State) (n : Nat) (g : Thread → Thread) : (s.modThr n g).winDel = s.winDel := rfl
@[simp] theorem State.modThr_engSig (s : State) (n : Nat) (g : Thread → Thread) : (s.modThr n g).engSig = s.engSig := rfl
@[simp] theorem State.modThr_ctrCmds (s : State) (n : Nat) (g : Thread → Thread) : (s.modThr n g).ctrCmds = s.ctrCmds := rfl
@[simp] theorem State.modThr_evUsed (s : State) (n : Nat) (g : Thread → Thread) : (s.modThr n g).evUsed = s.evUsed := rfl
@[simp] theorem State.modThr_ferryRels (s : State) (n : Nat) (g : Thread → Thread) : (s.modThr n g).ferryRels = s.ferryRels := rfl
@[simp] theorem State.modThr_heldIn (s : State) (n : Nat) (g : Thread → Thread) : (s.modThr n g).heldIn = s.heldIn := rfl
@[simp] theorem State.modThr_actions (s : State) (n : Nat) (g : Thread → Thread) : (s.modThr n g).actions = s.actions := rfl
@[simp] theorem State.modThr_wakes (s : State) (n : Nat) (g : Thread → Thread) : (s.modThr n g).wakes = s.wakes := rfl
@[simp] theorem State.modThr_tensors (s : State) (n : Nat) (g : Thread → Thread) : (s.modThr n g).tensors = s.tensors := rfl
@[simp] theorem State.modThr_bindings (s : State) (n : Nat) (g : Thread → Thread) : (s.modThr n g).bindings = s.bindings := rfl
@[simp] theorem State.modThr_stores (s : State) (n : Nat) (g : Thread → Thread) : (s.modThr n g).stores = s.stores := rfl
@[simp] theorem State.modThr_sent (s : State) (n : Nat) (g : Thread → Thread) : (s.modThr n g).sent = s.sent := rfl
@[simp] theorem State.modThr_sends (s : State) (n : Nat) (g : Thread → Thread) : (s.modThr n g).sends = s.sends := rfl
@[simp] theorem State.modThr_pseqOut (s : State) (n : Nat) (g : Thread → Thread) : (s.modThr n g).pseqOut = s.pseqOut := rfl
@[simp] theorem State.modThr_pseqIn (s : State) (n : Nat) (g : Thread → Thread) : (s.modThr n g).pseqIn = s.pseqIn := rfl
@[simp] theorem State.modThr_discarding (s : State) (n : Nat) (g : Thread → Thread) : (s.modThr n g).discarding = s.discarding := rfl
@[simp] theorem State.modThr_lhw (s : State) (n : Nat) (g : Thread → Thread) : (s.modThr n g).lhw = s.lhw := rfl
@[simp] theorem State.modThr_harbour (s : State) (n : Nat) (g : Thread → Thread) : (s.modThr n g).harbour = s.harbour := rfl
@[simp] theorem State.modThr_tokens (s : State) (n : Nat) (g : Thread → Thread) : (s.modThr n g).tokens = s.tokens := rfl
@[simp] theorem State.modThr_tokenUse (s : State) (n : Nat) (g : Thread → Thread) : (s.modThr n g).tokenUse = s.tokenUse := rfl
@[simp] theorem State.modThr_tokenTold (s : State) (n : Nat) (g : Thread → Thread) : (s.modThr n g).tokenTold = s.tokenTold := rfl
@[simp] theorem State.modThr_holdTold (s : State) (n : Nat) (g : Thread → Thread) : (s.modThr n g).holdTold = s.holdTold := rfl
@[simp] theorem State.modThr_queries (s : State) (n : Nat) (g : Thread → Thread) : (s.modThr n g).queries = s.queries := rfl
@[simp] theorem State.modThr_links (s : State) (n : Nat) (g : Thread → Thread) : (s.modThr n g).links = s.links := rfl
@[simp] theorem State.modThr_inq (s : State) (n : Nat) (g : Thread → Thread) : (s.modThr n g).inq = s.inq := rfl
@[simp] theorem State.modThr_fences (s : State) (n : Nat) (g : Thread → Thread) : (s.modThr n g).fences = s.fences := rfl
@[simp] theorem State.modThr_reds (s : State) (n : Nat) (g : Thread → Thread) : (s.modThr n g).reds = s.reds := rfl
@[simp] theorem State.modThr_updates (s : State) (n : Nat) (g : Thread → Thread) : (s.modThr n g).updates = s.updates := rfl
@[simp] theorem State.modThr_migrations (s : State) (n : Nat) (g : Thread → Thread) : (s.modThr n g).migrations = s.migrations := rfl
@[simp] theorem State.modThr_copies (s : State) (n : Nat) (g : Thread → Thread) : (s.modThr n g).copies = s.copies := rfl
@[simp] theorem State.modThr_ceLast (s : State) (n : Nat) (g : Thread → Thread) : (s.modThr n g).ceLast = s.ceLast := rfl
@[simp] theorem State.modThr_hbmLast (s : State) (n : Nat) (g : Thread → Thread) : (s.modThr n g).hbmLast = s.hbmLast := rfl
@[simp] theorem State.modThr_faultSigs (s : State) (n : Nat) (g : Thread → Thread) : (s.modThr n g).faultSigs = s.faultSigs := rfl
@[simp] theorem State.modThr_colls (s : State) (n : Nat) (g : Thread → Thread) : (s.modThr n g).colls = s.colls := rfl
@[simp] theorem State.modThr_pubs (s : State) (n : Nat) (g : Thread → Thread) : (s.modThr n g).pubs = s.pubs := rfl
@[simp] theorem State.modThr_remoteFlags (s : State) (n : Nat) (g : Thread → Thread) : (s.modThr n g).remoteFlags = s.remoteFlags := rfl
@[simp] theorem State.modThr_sched (s : State) (n : Nat) (g : Thread → Thread) : (s.modThr n g).sched = s.sched := rfl
@[simp] theorem State.modThr_logs (s : State) (n : Nat) (g : Thread → Thread) : (s.modThr n g).logs = s.logs := rfl
@[simp] theorem State.modThr_musters (s : State) (n : Nat) (g : Thread → Thread) : (s.modThr n g).musters = s.musters := rfl
@[simp] theorem State.modThr_slotNew (s : State) (n : Nat) (g : Thread → Thread) : (s.modThr n g).slotNew = s.slotNew := rfl
@[simp] theorem State.modThr_hostTlps (s : State) (n : Nat) (g : Thread → Thread) : (s.modThr n g).hostTlps = s.hostTlps := rfl
@[simp] theorem State.modThr_snapAt (s : State) (n : Nat) (g : Thread → Thread) : (s.modThr n g).snapAt = s.snapAt := rfl
@[simp] theorem State.modThr_unitSnap (s : State) (n : Nat) (g : Thread → Thread) : (s.modThr n g).unitSnap = s.unitSnap := rfl
@[simp] theorem State.modThr_saveFrames (s : State) (n : Nat) (g : Thread → Thread) : (s.modThr n g).saveFrames = s.saveFrames := rfl
@[simp] theorem State.modThr_destroying (s : State) (n : Nat) (g : Thread → Thread) : (s.modThr n g).destroying = s.destroying := rfl
@[simp] theorem State.modThr_pkg (s : State) (n : Nat) (g : Thread → Thread) : (s.modThr n g).pkg = s.pkg := rfl
@[simp] theorem State.modThr_out (s : State) (n : Nat) (g : Thread → Thread) : (s.modThr n g).out = s.out := rfl

/-! ### setReg -/

@[simp] theorem State.setReg_agenda (s : State) (o : Nat) (v : Word) : (s.setReg o v).agenda = s.agenda := rfl
@[simp] theorem State.setReg_cur (s : State) (o : Nat) (v : Word) : (s.setReg o v).cur = s.cur := rfl
@[simp] theorem State.setReg_curInsn (s : State) (o : Nat) (v : Word) : (s.setReg o v).curInsn = s.curInsn := rfl
@[simp] theorem State.setReg_freeCount (s : State) (o : Nat) (v : Word) : (s.setReg o v).freeCount = s.freeCount := rfl
@[simp] theorem State.setReg_nextId (s : State) (o : Nat) (v : Word) : (s.setReg o v).nextId = s.nextId := rfl
@[simp] theorem State.setReg_ccc (s : State) (o : Nat) (v : Word) : (s.setReg o v).ccc = s.ccc := rfl
@[simp] theorem State.setReg_hbm (s : State) (o : Nat) (v : Word) : (s.setReg o v).hbm = s.hbm := rfl
@[simp] theorem State.setReg_sram (s : State) (o : Nat) (v : Word) : (s.setReg o v).sram = s.sram := rfl
@[simp] theorem State.setReg_tiles (s : State) (o : Nat) (v : Word) : (s.setReg o v).tiles = s.tiles := rfl
@[simp] theorem State.setReg_threads (s : State) (o : Nat) (v : Word) : (s.setReg o v).threads = s.threads := rfl
@[simp] theorem State.setReg_coreTlb (s : State) (o : Nat) (v : Word) : (s.setReg o v).coreTlb = s.coreTlb := rfl
@[simp] theorem State.setReg_entries (s : State) (o : Nat) (v : Word) : (s.setReg o v).entries = s.entries := rfl
@[simp] theorem State.setReg_armSeq (s : State) (o : Nat) (v : Word) : (s.setReg o v).armSeq = s.armSeq := rfl
@[simp] theorem State.setReg_aseq (s : State) (o : Nat) (v : Word) : (s.setReg o v).aseq = s.aseq := rfl
@[simp] theorem State.setReg_arrivals (s : State) (o : Nat) (v : Word) : (s.setReg o v).arrivals = s.arrivals := rfl
@[simp] theorem State.setReg_ux (s : State) (o : Nat) (v : Word) : (s.setReg o v).ux = s.ux := rfl
@[simp] theorem State.setReg_deposits (s : State) (o : Nat) (v : Word) : (s.setReg o v).deposits = s.deposits := rfl
@[simp] theorem State.setReg_disarmed (s : State) (o : Nat) (v : Word) : (s.setReg o v).disarmed = s.disarmed := rfl
@[simp] theorem State.setReg_winDel (s : State) (o : Nat) (v : Word) : (s.setReg o v).winDel = s.winDel := rfl
@[simp] theorem State.setReg_engSig (s : State) (o : Nat) (v : Word) : (s.setReg o v).engSig = s.engSig := rfl
@[simp] theorem State.setReg_ctrCmds (s : State) (o : Nat) (v : Word) : (s.setReg o v).ctrCmds = s.ctrCmds := rfl
@[simp] theorem State.setReg_evUsed (s : State) (o : Nat) (v : Word) : (s.setReg o v).evUsed = s.evUsed := rfl
@[simp] theorem State.setReg_ferryRels (s : State) (o : Nat) (v : Word) : (s.setReg o v).ferryRels = s.ferryRels := rfl
@[simp] theorem State.setReg_heldIn (s : State) (o : Nat) (v : Word) : (s.setReg o v).heldIn = s.heldIn := rfl
@[simp] theorem State.setReg_actions (s : State) (o : Nat) (v : Word) : (s.setReg o v).actions = s.actions := rfl
@[simp] theorem State.setReg_wakes (s : State) (o : Nat) (v : Word) : (s.setReg o v).wakes = s.wakes := rfl
@[simp] theorem State.setReg_tensors (s : State) (o : Nat) (v : Word) : (s.setReg o v).tensors = s.tensors := rfl
@[simp] theorem State.setReg_bindings (s : State) (o : Nat) (v : Word) : (s.setReg o v).bindings = s.bindings := rfl
@[simp] theorem State.setReg_stores (s : State) (o : Nat) (v : Word) : (s.setReg o v).stores = s.stores := rfl
@[simp] theorem State.setReg_sent (s : State) (o : Nat) (v : Word) : (s.setReg o v).sent = s.sent := rfl
@[simp] theorem State.setReg_sends (s : State) (o : Nat) (v : Word) : (s.setReg o v).sends = s.sends := rfl
@[simp] theorem State.setReg_pseqOut (s : State) (o : Nat) (v : Word) : (s.setReg o v).pseqOut = s.pseqOut := rfl
@[simp] theorem State.setReg_pseqIn (s : State) (o : Nat) (v : Word) : (s.setReg o v).pseqIn = s.pseqIn := rfl
@[simp] theorem State.setReg_discarding (s : State) (o : Nat) (v : Word) : (s.setReg o v).discarding = s.discarding := rfl
@[simp] theorem State.setReg_lhw (s : State) (o : Nat) (v : Word) : (s.setReg o v).lhw = s.lhw := rfl
@[simp] theorem State.setReg_harbour (s : State) (o : Nat) (v : Word) : (s.setReg o v).harbour = s.harbour := rfl
@[simp] theorem State.setReg_tokens (s : State) (o : Nat) (v : Word) : (s.setReg o v).tokens = s.tokens := rfl
@[simp] theorem State.setReg_tokenUse (s : State) (o : Nat) (v : Word) : (s.setReg o v).tokenUse = s.tokenUse := rfl
@[simp] theorem State.setReg_tokenTold (s : State) (o : Nat) (v : Word) : (s.setReg o v).tokenTold = s.tokenTold := rfl
@[simp] theorem State.setReg_holdTold (s : State) (o : Nat) (v : Word) : (s.setReg o v).holdTold = s.holdTold := rfl
@[simp] theorem State.setReg_queries (s : State) (o : Nat) (v : Word) : (s.setReg o v).queries = s.queries := rfl
@[simp] theorem State.setReg_links (s : State) (o : Nat) (v : Word) : (s.setReg o v).links = s.links := rfl
@[simp] theorem State.setReg_inq (s : State) (o : Nat) (v : Word) : (s.setReg o v).inq = s.inq := rfl
@[simp] theorem State.setReg_fences (s : State) (o : Nat) (v : Word) : (s.setReg o v).fences = s.fences := rfl
@[simp] theorem State.setReg_reds (s : State) (o : Nat) (v : Word) : (s.setReg o v).reds = s.reds := rfl
@[simp] theorem State.setReg_updates (s : State) (o : Nat) (v : Word) : (s.setReg o v).updates = s.updates := rfl
@[simp] theorem State.setReg_migrations (s : State) (o : Nat) (v : Word) : (s.setReg o v).migrations = s.migrations := rfl
@[simp] theorem State.setReg_copies (s : State) (o : Nat) (v : Word) : (s.setReg o v).copies = s.copies := rfl
@[simp] theorem State.setReg_ceLast (s : State) (o : Nat) (v : Word) : (s.setReg o v).ceLast = s.ceLast := rfl
@[simp] theorem State.setReg_hbmLast (s : State) (o : Nat) (v : Word) : (s.setReg o v).hbmLast = s.hbmLast := rfl
@[simp] theorem State.setReg_faultSigs (s : State) (o : Nat) (v : Word) : (s.setReg o v).faultSigs = s.faultSigs := rfl
@[simp] theorem State.setReg_colls (s : State) (o : Nat) (v : Word) : (s.setReg o v).colls = s.colls := rfl
@[simp] theorem State.setReg_pubs (s : State) (o : Nat) (v : Word) : (s.setReg o v).pubs = s.pubs := rfl
@[simp] theorem State.setReg_remoteFlags (s : State) (o : Nat) (v : Word) : (s.setReg o v).remoteFlags = s.remoteFlags := rfl
@[simp] theorem State.setReg_sched (s : State) (o : Nat) (v : Word) : (s.setReg o v).sched = s.sched := rfl
@[simp] theorem State.setReg_logs (s : State) (o : Nat) (v : Word) : (s.setReg o v).logs = s.logs := rfl
@[simp] theorem State.setReg_musters (s : State) (o : Nat) (v : Word) : (s.setReg o v).musters = s.musters := rfl
@[simp] theorem State.setReg_slotNew (s : State) (o : Nat) (v : Word) : (s.setReg o v).slotNew = s.slotNew := rfl
@[simp] theorem State.setReg_hostTlps (s : State) (o : Nat) (v : Word) : (s.setReg o v).hostTlps = s.hostTlps := rfl
@[simp] theorem State.setReg_snapAt (s : State) (o : Nat) (v : Word) : (s.setReg o v).snapAt = s.snapAt := rfl
@[simp] theorem State.setReg_unitSnap (s : State) (o : Nat) (v : Word) : (s.setReg o v).unitSnap = s.unitSnap := rfl
@[simp] theorem State.setReg_saveFrames (s : State) (o : Nat) (v : Word) : (s.setReg o v).saveFrames = s.saveFrames := rfl
@[simp] theorem State.setReg_destroying (s : State) (o : Nat) (v : Word) : (s.setReg o v).destroying = s.destroying := rfl
@[simp] theorem State.setReg_pkg (s : State) (o : Nat) (v : Word) : (s.setReg o v).pkg = s.pkg := rfl
@[simp] theorem State.setReg_out (s : State) (o : Nat) (v : Word) : (s.setReg o v).out = s.out := rfl

/-! ### setRegF -/

@[simp] theorem State.setRegF_agenda (s : State) (o lo w x : Nat) : (s.setRegF o lo w x).agenda = s.agenda := rfl
@[simp] theorem State.setRegF_cur (s : State) (o lo w x : Nat) : (s.setRegF o lo w x).cur = s.cur := rfl
@[simp] theorem State.setRegF_curInsn (s : State) (o lo w x : Nat) : (s.setRegF o lo w x).curInsn = s.curInsn := rfl
@[simp] theorem State.setRegF_freeCount (s : State) (o lo w x : Nat) : (s.setRegF o lo w x).freeCount = s.freeCount := rfl
@[simp] theorem State.setRegF_nextId (s : State) (o lo w x : Nat) : (s.setRegF o lo w x).nextId = s.nextId := rfl
@[simp] theorem State.setRegF_ccc (s : State) (o lo w x : Nat) : (s.setRegF o lo w x).ccc = s.ccc := rfl
@[simp] theorem State.setRegF_hbm (s : State) (o lo w x : Nat) : (s.setRegF o lo w x).hbm = s.hbm := rfl
@[simp] theorem State.setRegF_sram (s : State) (o lo w x : Nat) : (s.setRegF o lo w x).sram = s.sram := rfl
@[simp] theorem State.setRegF_tiles (s : State) (o lo w x : Nat) : (s.setRegF o lo w x).tiles = s.tiles := rfl
@[simp] theorem State.setRegF_threads (s : State) (o lo w x : Nat) : (s.setRegF o lo w x).threads = s.threads := rfl
@[simp] theorem State.setRegF_coreTlb (s : State) (o lo w x : Nat) : (s.setRegF o lo w x).coreTlb = s.coreTlb := rfl
@[simp] theorem State.setRegF_entries (s : State) (o lo w x : Nat) : (s.setRegF o lo w x).entries = s.entries := rfl
@[simp] theorem State.setRegF_armSeq (s : State) (o lo w x : Nat) : (s.setRegF o lo w x).armSeq = s.armSeq := rfl
@[simp] theorem State.setRegF_aseq (s : State) (o lo w x : Nat) : (s.setRegF o lo w x).aseq = s.aseq := rfl
@[simp] theorem State.setRegF_arrivals (s : State) (o lo w x : Nat) : (s.setRegF o lo w x).arrivals = s.arrivals := rfl
@[simp] theorem State.setRegF_ux (s : State) (o lo w x : Nat) : (s.setRegF o lo w x).ux = s.ux := rfl
@[simp] theorem State.setRegF_deposits (s : State) (o lo w x : Nat) : (s.setRegF o lo w x).deposits = s.deposits := rfl
@[simp] theorem State.setRegF_disarmed (s : State) (o lo w x : Nat) : (s.setRegF o lo w x).disarmed = s.disarmed := rfl
@[simp] theorem State.setRegF_winDel (s : State) (o lo w x : Nat) : (s.setRegF o lo w x).winDel = s.winDel := rfl
@[simp] theorem State.setRegF_engSig (s : State) (o lo w x : Nat) : (s.setRegF o lo w x).engSig = s.engSig := rfl
@[simp] theorem State.setRegF_ctrCmds (s : State) (o lo w x : Nat) : (s.setRegF o lo w x).ctrCmds = s.ctrCmds := rfl
@[simp] theorem State.setRegF_evUsed (s : State) (o lo w x : Nat) : (s.setRegF o lo w x).evUsed = s.evUsed := rfl
@[simp] theorem State.setRegF_ferryRels (s : State) (o lo w x : Nat) : (s.setRegF o lo w x).ferryRels = s.ferryRels := rfl
@[simp] theorem State.setRegF_heldIn (s : State) (o lo w x : Nat) : (s.setRegF o lo w x).heldIn = s.heldIn := rfl
@[simp] theorem State.setRegF_actions (s : State) (o lo w x : Nat) : (s.setRegF o lo w x).actions = s.actions := rfl
@[simp] theorem State.setRegF_wakes (s : State) (o lo w x : Nat) : (s.setRegF o lo w x).wakes = s.wakes := rfl
@[simp] theorem State.setRegF_tensors (s : State) (o lo w x : Nat) : (s.setRegF o lo w x).tensors = s.tensors := rfl
@[simp] theorem State.setRegF_bindings (s : State) (o lo w x : Nat) : (s.setRegF o lo w x).bindings = s.bindings := rfl
@[simp] theorem State.setRegF_stores (s : State) (o lo w x : Nat) : (s.setRegF o lo w x).stores = s.stores := rfl
@[simp] theorem State.setRegF_sent (s : State) (o lo w x : Nat) : (s.setRegF o lo w x).sent = s.sent := rfl
@[simp] theorem State.setRegF_sends (s : State) (o lo w x : Nat) : (s.setRegF o lo w x).sends = s.sends := rfl
@[simp] theorem State.setRegF_pseqOut (s : State) (o lo w x : Nat) : (s.setRegF o lo w x).pseqOut = s.pseqOut := rfl
@[simp] theorem State.setRegF_pseqIn (s : State) (o lo w x : Nat) : (s.setRegF o lo w x).pseqIn = s.pseqIn := rfl
@[simp] theorem State.setRegF_discarding (s : State) (o lo w x : Nat) : (s.setRegF o lo w x).discarding = s.discarding := rfl
@[simp] theorem State.setRegF_lhw (s : State) (o lo w x : Nat) : (s.setRegF o lo w x).lhw = s.lhw := rfl
@[simp] theorem State.setRegF_harbour (s : State) (o lo w x : Nat) : (s.setRegF o lo w x).harbour = s.harbour := rfl
@[simp] theorem State.setRegF_tokens (s : State) (o lo w x : Nat) : (s.setRegF o lo w x).tokens = s.tokens := rfl
@[simp] theorem State.setRegF_tokenUse (s : State) (o lo w x : Nat) : (s.setRegF o lo w x).tokenUse = s.tokenUse := rfl
@[simp] theorem State.setRegF_tokenTold (s : State) (o lo w x : Nat) : (s.setRegF o lo w x).tokenTold = s.tokenTold := rfl
@[simp] theorem State.setRegF_holdTold (s : State) (o lo w x : Nat) : (s.setRegF o lo w x).holdTold = s.holdTold := rfl
@[simp] theorem State.setRegF_queries (s : State) (o lo w x : Nat) : (s.setRegF o lo w x).queries = s.queries := rfl
@[simp] theorem State.setRegF_links (s : State) (o lo w x : Nat) : (s.setRegF o lo w x).links = s.links := rfl
@[simp] theorem State.setRegF_inq (s : State) (o lo w x : Nat) : (s.setRegF o lo w x).inq = s.inq := rfl
@[simp] theorem State.setRegF_fences (s : State) (o lo w x : Nat) : (s.setRegF o lo w x).fences = s.fences := rfl
@[simp] theorem State.setRegF_reds (s : State) (o lo w x : Nat) : (s.setRegF o lo w x).reds = s.reds := rfl
@[simp] theorem State.setRegF_updates (s : State) (o lo w x : Nat) : (s.setRegF o lo w x).updates = s.updates := rfl
@[simp] theorem State.setRegF_migrations (s : State) (o lo w x : Nat) : (s.setRegF o lo w x).migrations = s.migrations := rfl
@[simp] theorem State.setRegF_copies (s : State) (o lo w x : Nat) : (s.setRegF o lo w x).copies = s.copies := rfl
@[simp] theorem State.setRegF_ceLast (s : State) (o lo w x : Nat) : (s.setRegF o lo w x).ceLast = s.ceLast := rfl
@[simp] theorem State.setRegF_hbmLast (s : State) (o lo w x : Nat) : (s.setRegF o lo w x).hbmLast = s.hbmLast := rfl
@[simp] theorem State.setRegF_faultSigs (s : State) (o lo w x : Nat) : (s.setRegF o lo w x).faultSigs = s.faultSigs := rfl
@[simp] theorem State.setRegF_colls (s : State) (o lo w x : Nat) : (s.setRegF o lo w x).colls = s.colls := rfl
@[simp] theorem State.setRegF_pubs (s : State) (o lo w x : Nat) : (s.setRegF o lo w x).pubs = s.pubs := rfl
@[simp] theorem State.setRegF_remoteFlags (s : State) (o lo w x : Nat) : (s.setRegF o lo w x).remoteFlags = s.remoteFlags := rfl
@[simp] theorem State.setRegF_sched (s : State) (o lo w x : Nat) : (s.setRegF o lo w x).sched = s.sched := rfl
@[simp] theorem State.setRegF_logs (s : State) (o lo w x : Nat) : (s.setRegF o lo w x).logs = s.logs := rfl
@[simp] theorem State.setRegF_musters (s : State) (o lo w x : Nat) : (s.setRegF o lo w x).musters = s.musters := rfl
@[simp] theorem State.setRegF_slotNew (s : State) (o lo w x : Nat) : (s.setRegF o lo w x).slotNew = s.slotNew := rfl
@[simp] theorem State.setRegF_hostTlps (s : State) (o lo w x : Nat) : (s.setRegF o lo w x).hostTlps = s.hostTlps := rfl
@[simp] theorem State.setRegF_snapAt (s : State) (o lo w x : Nat) : (s.setRegF o lo w x).snapAt = s.snapAt := rfl
@[simp] theorem State.setRegF_unitSnap (s : State) (o lo w x : Nat) : (s.setRegF o lo w x).unitSnap = s.unitSnap := rfl
@[simp] theorem State.setRegF_saveFrames (s : State) (o lo w x : Nat) : (s.setRegF o lo w x).saveFrames = s.saveFrames := rfl
@[simp] theorem State.setRegF_destroying (s : State) (o lo w x : Nat) : (s.setRegF o lo w x).destroying = s.destroying := rfl
@[simp] theorem State.setRegF_pkg (s : State) (o lo w x : Nat) : (s.setRegF o lo w x).pkg = s.pkg := rfl
@[simp] theorem State.setRegF_out (s : State) (o lo w x : Nat) : (s.setRegF o lo w x).out = s.out := rfl

/-! ### setReg128 -/

@[simp] theorem State.setReg128_agenda (s : State) (o : Nat) (v : BitVec 128) : (s.setReg128 o v).agenda = s.agenda := rfl
@[simp] theorem State.setReg128_cur (s : State) (o : Nat) (v : BitVec 128) : (s.setReg128 o v).cur = s.cur := rfl
@[simp] theorem State.setReg128_curInsn (s : State) (o : Nat) (v : BitVec 128) : (s.setReg128 o v).curInsn = s.curInsn := rfl
@[simp] theorem State.setReg128_freeCount (s : State) (o : Nat) (v : BitVec 128) : (s.setReg128 o v).freeCount = s.freeCount := rfl
@[simp] theorem State.setReg128_nextId (s : State) (o : Nat) (v : BitVec 128) : (s.setReg128 o v).nextId = s.nextId := rfl
@[simp] theorem State.setReg128_ccc (s : State) (o : Nat) (v : BitVec 128) : (s.setReg128 o v).ccc = s.ccc := rfl
@[simp] theorem State.setReg128_hbm (s : State) (o : Nat) (v : BitVec 128) : (s.setReg128 o v).hbm = s.hbm := rfl
@[simp] theorem State.setReg128_sram (s : State) (o : Nat) (v : BitVec 128) : (s.setReg128 o v).sram = s.sram := rfl
@[simp] theorem State.setReg128_tiles (s : State) (o : Nat) (v : BitVec 128) : (s.setReg128 o v).tiles = s.tiles := rfl
@[simp] theorem State.setReg128_threads (s : State) (o : Nat) (v : BitVec 128) : (s.setReg128 o v).threads = s.threads := rfl
@[simp] theorem State.setReg128_coreTlb (s : State) (o : Nat) (v : BitVec 128) : (s.setReg128 o v).coreTlb = s.coreTlb := rfl
@[simp] theorem State.setReg128_entries (s : State) (o : Nat) (v : BitVec 128) : (s.setReg128 o v).entries = s.entries := rfl
@[simp] theorem State.setReg128_armSeq (s : State) (o : Nat) (v : BitVec 128) : (s.setReg128 o v).armSeq = s.armSeq := rfl
@[simp] theorem State.setReg128_aseq (s : State) (o : Nat) (v : BitVec 128) : (s.setReg128 o v).aseq = s.aseq := rfl
@[simp] theorem State.setReg128_arrivals (s : State) (o : Nat) (v : BitVec 128) : (s.setReg128 o v).arrivals = s.arrivals := rfl
@[simp] theorem State.setReg128_ux (s : State) (o : Nat) (v : BitVec 128) : (s.setReg128 o v).ux = s.ux := rfl
@[simp] theorem State.setReg128_deposits (s : State) (o : Nat) (v : BitVec 128) : (s.setReg128 o v).deposits = s.deposits := rfl
@[simp] theorem State.setReg128_disarmed (s : State) (o : Nat) (v : BitVec 128) : (s.setReg128 o v).disarmed = s.disarmed := rfl
@[simp] theorem State.setReg128_winDel (s : State) (o : Nat) (v : BitVec 128) : (s.setReg128 o v).winDel = s.winDel := rfl
@[simp] theorem State.setReg128_engSig (s : State) (o : Nat) (v : BitVec 128) : (s.setReg128 o v).engSig = s.engSig := rfl
@[simp] theorem State.setReg128_ctrCmds (s : State) (o : Nat) (v : BitVec 128) : (s.setReg128 o v).ctrCmds = s.ctrCmds := rfl
@[simp] theorem State.setReg128_evUsed (s : State) (o : Nat) (v : BitVec 128) : (s.setReg128 o v).evUsed = s.evUsed := rfl
@[simp] theorem State.setReg128_ferryRels (s : State) (o : Nat) (v : BitVec 128) : (s.setReg128 o v).ferryRels = s.ferryRels := rfl
@[simp] theorem State.setReg128_heldIn (s : State) (o : Nat) (v : BitVec 128) : (s.setReg128 o v).heldIn = s.heldIn := rfl
@[simp] theorem State.setReg128_actions (s : State) (o : Nat) (v : BitVec 128) : (s.setReg128 o v).actions = s.actions := rfl
@[simp] theorem State.setReg128_wakes (s : State) (o : Nat) (v : BitVec 128) : (s.setReg128 o v).wakes = s.wakes := rfl
@[simp] theorem State.setReg128_tensors (s : State) (o : Nat) (v : BitVec 128) : (s.setReg128 o v).tensors = s.tensors := rfl
@[simp] theorem State.setReg128_bindings (s : State) (o : Nat) (v : BitVec 128) : (s.setReg128 o v).bindings = s.bindings := rfl
@[simp] theorem State.setReg128_stores (s : State) (o : Nat) (v : BitVec 128) : (s.setReg128 o v).stores = s.stores := rfl
@[simp] theorem State.setReg128_sent (s : State) (o : Nat) (v : BitVec 128) : (s.setReg128 o v).sent = s.sent := rfl
@[simp] theorem State.setReg128_sends (s : State) (o : Nat) (v : BitVec 128) : (s.setReg128 o v).sends = s.sends := rfl
@[simp] theorem State.setReg128_pseqOut (s : State) (o : Nat) (v : BitVec 128) : (s.setReg128 o v).pseqOut = s.pseqOut := rfl
@[simp] theorem State.setReg128_pseqIn (s : State) (o : Nat) (v : BitVec 128) : (s.setReg128 o v).pseqIn = s.pseqIn := rfl
@[simp] theorem State.setReg128_discarding (s : State) (o : Nat) (v : BitVec 128) : (s.setReg128 o v).discarding = s.discarding := rfl
@[simp] theorem State.setReg128_lhw (s : State) (o : Nat) (v : BitVec 128) : (s.setReg128 o v).lhw = s.lhw := rfl
@[simp] theorem State.setReg128_harbour (s : State) (o : Nat) (v : BitVec 128) : (s.setReg128 o v).harbour = s.harbour := rfl
@[simp] theorem State.setReg128_tokens (s : State) (o : Nat) (v : BitVec 128) : (s.setReg128 o v).tokens = s.tokens := rfl
@[simp] theorem State.setReg128_tokenUse (s : State) (o : Nat) (v : BitVec 128) : (s.setReg128 o v).tokenUse = s.tokenUse := rfl
@[simp] theorem State.setReg128_tokenTold (s : State) (o : Nat) (v : BitVec 128) : (s.setReg128 o v).tokenTold = s.tokenTold := rfl
@[simp] theorem State.setReg128_holdTold (s : State) (o : Nat) (v : BitVec 128) : (s.setReg128 o v).holdTold = s.holdTold := rfl
@[simp] theorem State.setReg128_queries (s : State) (o : Nat) (v : BitVec 128) : (s.setReg128 o v).queries = s.queries := rfl
@[simp] theorem State.setReg128_links (s : State) (o : Nat) (v : BitVec 128) : (s.setReg128 o v).links = s.links := rfl
@[simp] theorem State.setReg128_inq (s : State) (o : Nat) (v : BitVec 128) : (s.setReg128 o v).inq = s.inq := rfl
@[simp] theorem State.setReg128_fences (s : State) (o : Nat) (v : BitVec 128) : (s.setReg128 o v).fences = s.fences := rfl
@[simp] theorem State.setReg128_reds (s : State) (o : Nat) (v : BitVec 128) : (s.setReg128 o v).reds = s.reds := rfl
@[simp] theorem State.setReg128_updates (s : State) (o : Nat) (v : BitVec 128) : (s.setReg128 o v).updates = s.updates := rfl
@[simp] theorem State.setReg128_migrations (s : State) (o : Nat) (v : BitVec 128) : (s.setReg128 o v).migrations = s.migrations := rfl
@[simp] theorem State.setReg128_copies (s : State) (o : Nat) (v : BitVec 128) : (s.setReg128 o v).copies = s.copies := rfl
@[simp] theorem State.setReg128_ceLast (s : State) (o : Nat) (v : BitVec 128) : (s.setReg128 o v).ceLast = s.ceLast := rfl
@[simp] theorem State.setReg128_hbmLast (s : State) (o : Nat) (v : BitVec 128) : (s.setReg128 o v).hbmLast = s.hbmLast := rfl
@[simp] theorem State.setReg128_faultSigs (s : State) (o : Nat) (v : BitVec 128) : (s.setReg128 o v).faultSigs = s.faultSigs := rfl
@[simp] theorem State.setReg128_colls (s : State) (o : Nat) (v : BitVec 128) : (s.setReg128 o v).colls = s.colls := rfl
@[simp] theorem State.setReg128_pubs (s : State) (o : Nat) (v : BitVec 128) : (s.setReg128 o v).pubs = s.pubs := rfl
@[simp] theorem State.setReg128_remoteFlags (s : State) (o : Nat) (v : BitVec 128) : (s.setReg128 o v).remoteFlags = s.remoteFlags := rfl
@[simp] theorem State.setReg128_sched (s : State) (o : Nat) (v : BitVec 128) : (s.setReg128 o v).sched = s.sched := rfl
@[simp] theorem State.setReg128_logs (s : State) (o : Nat) (v : BitVec 128) : (s.setReg128 o v).logs = s.logs := rfl
@[simp] theorem State.setReg128_musters (s : State) (o : Nat) (v : BitVec 128) : (s.setReg128 o v).musters = s.musters := rfl
@[simp] theorem State.setReg128_slotNew (s : State) (o : Nat) (v : BitVec 128) : (s.setReg128 o v).slotNew = s.slotNew := rfl
@[simp] theorem State.setReg128_hostTlps (s : State) (o : Nat) (v : BitVec 128) : (s.setReg128 o v).hostTlps = s.hostTlps := rfl
@[simp] theorem State.setReg128_snapAt (s : State) (o : Nat) (v : BitVec 128) : (s.setReg128 o v).snapAt = s.snapAt := rfl
@[simp] theorem State.setReg128_unitSnap (s : State) (o : Nat) (v : BitVec 128) : (s.setReg128 o v).unitSnap = s.unitSnap := rfl
@[simp] theorem State.setReg128_saveFrames (s : State) (o : Nat) (v : BitVec 128) : (s.setReg128 o v).saveFrames = s.saveFrames := rfl
@[simp] theorem State.setReg128_destroying (s : State) (o : Nat) (v : BitVec 128) : (s.setReg128 o v).destroying = s.destroying := rfl
@[simp] theorem State.setReg128_pkg (s : State) (o : Nat) (v : BitVec 128) : (s.setReg128 o v).pkg = s.pkg := rfl
@[simp] theorem State.setReg128_out (s : State) (o : Nat) (v : BitVec 128) : (s.setReg128 o v).out = s.out := rfl

/-! ### setCx -/

@[simp] theorem State.setCx_agenda (s : State) (c o : Nat) (v : Word) : (s.setCx c o v).agenda = s.agenda := rfl
@[simp] theorem State.setCx_cur (s : State) (c o : Nat) (v : Word) : (s.setCx c o v).cur = s.cur := rfl
@[simp] theorem State.setCx_curInsn (s : State) (c o : Nat) (v : Word) : (s.setCx c o v).curInsn = s.curInsn := rfl
@[simp] theorem State.setCx_freeCount (s : State) (c o : Nat) (v : Word) : (s.setCx c o v).freeCount = s.freeCount := rfl
@[simp] theorem State.setCx_nextId (s : State) (c o : Nat) (v : Word) : (s.setCx c o v).nextId = s.nextId := rfl
@[simp] theorem State.setCx_ccc (s : State) (c o : Nat) (v : Word) : (s.setCx c o v).ccc = s.ccc := rfl
@[simp] theorem State.setCx_hbm (s : State) (c o : Nat) (v : Word) : (s.setCx c o v).hbm = s.hbm := rfl
@[simp] theorem State.setCx_sram (s : State) (c o : Nat) (v : Word) : (s.setCx c o v).sram = s.sram := rfl
@[simp] theorem State.setCx_tiles (s : State) (c o : Nat) (v : Word) : (s.setCx c o v).tiles = s.tiles := rfl
@[simp] theorem State.setCx_threads (s : State) (c o : Nat) (v : Word) : (s.setCx c o v).threads = s.threads := rfl
@[simp] theorem State.setCx_coreTlb (s : State) (c o : Nat) (v : Word) : (s.setCx c o v).coreTlb = s.coreTlb := rfl
@[simp] theorem State.setCx_entries (s : State) (c o : Nat) (v : Word) : (s.setCx c o v).entries = s.entries := rfl
@[simp] theorem State.setCx_armSeq (s : State) (c o : Nat) (v : Word) : (s.setCx c o v).armSeq = s.armSeq := rfl
@[simp] theorem State.setCx_aseq (s : State) (c o : Nat) (v : Word) : (s.setCx c o v).aseq = s.aseq := rfl
@[simp] theorem State.setCx_arrivals (s : State) (c o : Nat) (v : Word) : (s.setCx c o v).arrivals = s.arrivals := rfl
@[simp] theorem State.setCx_ux (s : State) (c o : Nat) (v : Word) : (s.setCx c o v).ux = s.ux := rfl
@[simp] theorem State.setCx_deposits (s : State) (c o : Nat) (v : Word) : (s.setCx c o v).deposits = s.deposits := rfl
@[simp] theorem State.setCx_disarmed (s : State) (c o : Nat) (v : Word) : (s.setCx c o v).disarmed = s.disarmed := rfl
@[simp] theorem State.setCx_winDel (s : State) (c o : Nat) (v : Word) : (s.setCx c o v).winDel = s.winDel := rfl
@[simp] theorem State.setCx_engSig (s : State) (c o : Nat) (v : Word) : (s.setCx c o v).engSig = s.engSig := rfl
@[simp] theorem State.setCx_ctrCmds (s : State) (c o : Nat) (v : Word) : (s.setCx c o v).ctrCmds = s.ctrCmds := rfl
@[simp] theorem State.setCx_evUsed (s : State) (c o : Nat) (v : Word) : (s.setCx c o v).evUsed = s.evUsed := rfl
@[simp] theorem State.setCx_ferryRels (s : State) (c o : Nat) (v : Word) : (s.setCx c o v).ferryRels = s.ferryRels := rfl
@[simp] theorem State.setCx_heldIn (s : State) (c o : Nat) (v : Word) : (s.setCx c o v).heldIn = s.heldIn := rfl
@[simp] theorem State.setCx_actions (s : State) (c o : Nat) (v : Word) : (s.setCx c o v).actions = s.actions := rfl
@[simp] theorem State.setCx_wakes (s : State) (c o : Nat) (v : Word) : (s.setCx c o v).wakes = s.wakes := rfl
@[simp] theorem State.setCx_tensors (s : State) (c o : Nat) (v : Word) : (s.setCx c o v).tensors = s.tensors := rfl
@[simp] theorem State.setCx_bindings (s : State) (c o : Nat) (v : Word) : (s.setCx c o v).bindings = s.bindings := rfl
@[simp] theorem State.setCx_stores (s : State) (c o : Nat) (v : Word) : (s.setCx c o v).stores = s.stores := rfl
@[simp] theorem State.setCx_sent (s : State) (c o : Nat) (v : Word) : (s.setCx c o v).sent = s.sent := rfl
@[simp] theorem State.setCx_sends (s : State) (c o : Nat) (v : Word) : (s.setCx c o v).sends = s.sends := rfl
@[simp] theorem State.setCx_pseqOut (s : State) (c o : Nat) (v : Word) : (s.setCx c o v).pseqOut = s.pseqOut := rfl
@[simp] theorem State.setCx_pseqIn (s : State) (c o : Nat) (v : Word) : (s.setCx c o v).pseqIn = s.pseqIn := rfl
@[simp] theorem State.setCx_discarding (s : State) (c o : Nat) (v : Word) : (s.setCx c o v).discarding = s.discarding := rfl
@[simp] theorem State.setCx_lhw (s : State) (c o : Nat) (v : Word) : (s.setCx c o v).lhw = s.lhw := rfl
@[simp] theorem State.setCx_harbour (s : State) (c o : Nat) (v : Word) : (s.setCx c o v).harbour = s.harbour := rfl
@[simp] theorem State.setCx_tokens (s : State) (c o : Nat) (v : Word) : (s.setCx c o v).tokens = s.tokens := rfl
@[simp] theorem State.setCx_tokenUse (s : State) (c o : Nat) (v : Word) : (s.setCx c o v).tokenUse = s.tokenUse := rfl
@[simp] theorem State.setCx_tokenTold (s : State) (c o : Nat) (v : Word) : (s.setCx c o v).tokenTold = s.tokenTold := rfl
@[simp] theorem State.setCx_holdTold (s : State) (c o : Nat) (v : Word) : (s.setCx c o v).holdTold = s.holdTold := rfl
@[simp] theorem State.setCx_queries (s : State) (c o : Nat) (v : Word) : (s.setCx c o v).queries = s.queries := rfl
@[simp] theorem State.setCx_links (s : State) (c o : Nat) (v : Word) : (s.setCx c o v).links = s.links := rfl
@[simp] theorem State.setCx_inq (s : State) (c o : Nat) (v : Word) : (s.setCx c o v).inq = s.inq := rfl
@[simp] theorem State.setCx_fences (s : State) (c o : Nat) (v : Word) : (s.setCx c o v).fences = s.fences := rfl
@[simp] theorem State.setCx_reds (s : State) (c o : Nat) (v : Word) : (s.setCx c o v).reds = s.reds := rfl
@[simp] theorem State.setCx_updates (s : State) (c o : Nat) (v : Word) : (s.setCx c o v).updates = s.updates := rfl
@[simp] theorem State.setCx_migrations (s : State) (c o : Nat) (v : Word) : (s.setCx c o v).migrations = s.migrations := rfl
@[simp] theorem State.setCx_copies (s : State) (c o : Nat) (v : Word) : (s.setCx c o v).copies = s.copies := rfl
@[simp] theorem State.setCx_ceLast (s : State) (c o : Nat) (v : Word) : (s.setCx c o v).ceLast = s.ceLast := rfl
@[simp] theorem State.setCx_hbmLast (s : State) (c o : Nat) (v : Word) : (s.setCx c o v).hbmLast = s.hbmLast := rfl
@[simp] theorem State.setCx_faultSigs (s : State) (c o : Nat) (v : Word) : (s.setCx c o v).faultSigs = s.faultSigs := rfl
@[simp] theorem State.setCx_colls (s : State) (c o : Nat) (v : Word) : (s.setCx c o v).colls = s.colls := rfl
@[simp] theorem State.setCx_pubs (s : State) (c o : Nat) (v : Word) : (s.setCx c o v).pubs = s.pubs := rfl
@[simp] theorem State.setCx_remoteFlags (s : State) (c o : Nat) (v : Word) : (s.setCx c o v).remoteFlags = s.remoteFlags := rfl
@[simp] theorem State.setCx_sched (s : State) (c o : Nat) (v : Word) : (s.setCx c o v).sched = s.sched := rfl
@[simp] theorem State.setCx_logs (s : State) (c o : Nat) (v : Word) : (s.setCx c o v).logs = s.logs := rfl
@[simp] theorem State.setCx_musters (s : State) (c o : Nat) (v : Word) : (s.setCx c o v).musters = s.musters := rfl
@[simp] theorem State.setCx_slotNew (s : State) (c o : Nat) (v : Word) : (s.setCx c o v).slotNew = s.slotNew := rfl
@[simp] theorem State.setCx_hostTlps (s : State) (c o : Nat) (v : Word) : (s.setCx c o v).hostTlps = s.hostTlps := rfl
@[simp] theorem State.setCx_snapAt (s : State) (c o : Nat) (v : Word) : (s.setCx c o v).snapAt = s.snapAt := rfl
@[simp] theorem State.setCx_unitSnap (s : State) (c o : Nat) (v : Word) : (s.setCx c o v).unitSnap = s.unitSnap := rfl
@[simp] theorem State.setCx_saveFrames (s : State) (c o : Nat) (v : Word) : (s.setCx c o v).saveFrames = s.saveFrames := rfl
@[simp] theorem State.setCx_destroying (s : State) (c o : Nat) (v : Word) : (s.setCx c o v).destroying = s.destroying := rfl
@[simp] theorem State.setCx_pkg (s : State) (c o : Nat) (v : Word) : (s.setCx c o v).pkg = s.pkg := rfl
@[simp] theorem State.setCx_out (s : State) (c o : Nat) (v : Word) : (s.setCx c o v).out = s.out := rfl

/-! ### setColl -/

@[simp] theorem State.setColl_agenda (s : State) (n : Nat) (e : CollEng) : (s.setColl n e).agenda = s.agenda := rfl
@[simp] theorem State.setColl_cur (s : State) (n : Nat) (e : CollEng) : (s.setColl n e).cur = s.cur := rfl
@[simp] theorem State.setColl_curInsn (s : State) (n : Nat) (e : CollEng) : (s.setColl n e).curInsn = s.curInsn := rfl
@[simp] theorem State.setColl_freeCount (s : State) (n : Nat) (e : CollEng) : (s.setColl n e).freeCount = s.freeCount := rfl
@[simp] theorem State.setColl_nextId (s : State) (n : Nat) (e : CollEng) : (s.setColl n e).nextId = s.nextId := rfl
@[simp] theorem State.setColl_ccc (s : State) (n : Nat) (e : CollEng) : (s.setColl n e).ccc = s.ccc := rfl
@[simp] theorem State.setColl_hbm (s : State) (n : Nat) (e : CollEng) : (s.setColl n e).hbm = s.hbm := rfl
@[simp] theorem State.setColl_sram (s : State) (n : Nat) (e : CollEng) : (s.setColl n e).sram = s.sram := rfl
@[simp] theorem State.setColl_regs (s : State) (n : Nat) (e : CollEng) : (s.setColl n e).regs = s.regs := rfl
@[simp] theorem State.setColl_tiles (s : State) (n : Nat) (e : CollEng) : (s.setColl n e).tiles = s.tiles := rfl
@[simp] theorem State.setColl_threads (s : State) (n : Nat) (e : CollEng) : (s.setColl n e).threads = s.threads := rfl
@[simp] theorem State.setColl_coreTlb (s : State) (n : Nat) (e : CollEng) : (s.setColl n e).coreTlb = s.coreTlb := rfl
@[simp] theorem State.setColl_entries (s : State) (n : Nat) (e : CollEng) : (s.setColl n e).entries = s.entries := rfl
@[simp] theorem State.setColl_armSeq (s : State) (n : Nat) (e : CollEng) : (s.setColl n e).armSeq = s.armSeq := rfl
@[simp] theorem State.setColl_aseq (s : State) (n : Nat) (e : CollEng) : (s.setColl n e).aseq = s.aseq := rfl
@[simp] theorem State.setColl_arrivals (s : State) (n : Nat) (e : CollEng) : (s.setColl n e).arrivals = s.arrivals := rfl
@[simp] theorem State.setColl_ux (s : State) (n : Nat) (e : CollEng) : (s.setColl n e).ux = s.ux := rfl
@[simp] theorem State.setColl_deposits (s : State) (n : Nat) (e : CollEng) : (s.setColl n e).deposits = s.deposits := rfl
@[simp] theorem State.setColl_disarmed (s : State) (n : Nat) (e : CollEng) : (s.setColl n e).disarmed = s.disarmed := rfl
@[simp] theorem State.setColl_winDel (s : State) (n : Nat) (e : CollEng) : (s.setColl n e).winDel = s.winDel := rfl
@[simp] theorem State.setColl_engSig (s : State) (n : Nat) (e : CollEng) : (s.setColl n e).engSig = s.engSig := rfl
@[simp] theorem State.setColl_ctrCmds (s : State) (n : Nat) (e : CollEng) : (s.setColl n e).ctrCmds = s.ctrCmds := rfl
@[simp] theorem State.setColl_evUsed (s : State) (n : Nat) (e : CollEng) : (s.setColl n e).evUsed = s.evUsed := rfl
@[simp] theorem State.setColl_ferryRels (s : State) (n : Nat) (e : CollEng) : (s.setColl n e).ferryRels = s.ferryRels := rfl
@[simp] theorem State.setColl_heldIn (s : State) (n : Nat) (e : CollEng) : (s.setColl n e).heldIn = s.heldIn := rfl
@[simp] theorem State.setColl_actions (s : State) (n : Nat) (e : CollEng) : (s.setColl n e).actions = s.actions := rfl
@[simp] theorem State.setColl_wakes (s : State) (n : Nat) (e : CollEng) : (s.setColl n e).wakes = s.wakes := rfl
@[simp] theorem State.setColl_tensors (s : State) (n : Nat) (e : CollEng) : (s.setColl n e).tensors = s.tensors := rfl
@[simp] theorem State.setColl_bindings (s : State) (n : Nat) (e : CollEng) : (s.setColl n e).bindings = s.bindings := rfl
@[simp] theorem State.setColl_stores (s : State) (n : Nat) (e : CollEng) : (s.setColl n e).stores = s.stores := rfl
@[simp] theorem State.setColl_sent (s : State) (n : Nat) (e : CollEng) : (s.setColl n e).sent = s.sent := rfl
@[simp] theorem State.setColl_sends (s : State) (n : Nat) (e : CollEng) : (s.setColl n e).sends = s.sends := rfl
@[simp] theorem State.setColl_pseqOut (s : State) (n : Nat) (e : CollEng) : (s.setColl n e).pseqOut = s.pseqOut := rfl
@[simp] theorem State.setColl_pseqIn (s : State) (n : Nat) (e : CollEng) : (s.setColl n e).pseqIn = s.pseqIn := rfl
@[simp] theorem State.setColl_discarding (s : State) (n : Nat) (e : CollEng) : (s.setColl n e).discarding = s.discarding := rfl
@[simp] theorem State.setColl_lhw (s : State) (n : Nat) (e : CollEng) : (s.setColl n e).lhw = s.lhw := rfl
@[simp] theorem State.setColl_harbour (s : State) (n : Nat) (e : CollEng) : (s.setColl n e).harbour = s.harbour := rfl
@[simp] theorem State.setColl_tokens (s : State) (n : Nat) (e : CollEng) : (s.setColl n e).tokens = s.tokens := rfl
@[simp] theorem State.setColl_tokenUse (s : State) (n : Nat) (e : CollEng) : (s.setColl n e).tokenUse = s.tokenUse := rfl
@[simp] theorem State.setColl_tokenTold (s : State) (n : Nat) (e : CollEng) : (s.setColl n e).tokenTold = s.tokenTold := rfl
@[simp] theorem State.setColl_holdTold (s : State) (n : Nat) (e : CollEng) : (s.setColl n e).holdTold = s.holdTold := rfl
@[simp] theorem State.setColl_queries (s : State) (n : Nat) (e : CollEng) : (s.setColl n e).queries = s.queries := rfl
@[simp] theorem State.setColl_links (s : State) (n : Nat) (e : CollEng) : (s.setColl n e).links = s.links := rfl
@[simp] theorem State.setColl_inq (s : State) (n : Nat) (e : CollEng) : (s.setColl n e).inq = s.inq := rfl
@[simp] theorem State.setColl_fences (s : State) (n : Nat) (e : CollEng) : (s.setColl n e).fences = s.fences := rfl
@[simp] theorem State.setColl_reds (s : State) (n : Nat) (e : CollEng) : (s.setColl n e).reds = s.reds := rfl
@[simp] theorem State.setColl_updates (s : State) (n : Nat) (e : CollEng) : (s.setColl n e).updates = s.updates := rfl
@[simp] theorem State.setColl_migrations (s : State) (n : Nat) (e : CollEng) : (s.setColl n e).migrations = s.migrations := rfl
@[simp] theorem State.setColl_copies (s : State) (n : Nat) (e : CollEng) : (s.setColl n e).copies = s.copies := rfl
@[simp] theorem State.setColl_ceLast (s : State) (n : Nat) (e : CollEng) : (s.setColl n e).ceLast = s.ceLast := rfl
@[simp] theorem State.setColl_hbmLast (s : State) (n : Nat) (e : CollEng) : (s.setColl n e).hbmLast = s.hbmLast := rfl
@[simp] theorem State.setColl_faultSigs (s : State) (n : Nat) (e : CollEng) : (s.setColl n e).faultSigs = s.faultSigs := rfl
@[simp] theorem State.setColl_pubs (s : State) (n : Nat) (e : CollEng) : (s.setColl n e).pubs = s.pubs := rfl
@[simp] theorem State.setColl_remoteFlags (s : State) (n : Nat) (e : CollEng) : (s.setColl n e).remoteFlags = s.remoteFlags := rfl
@[simp] theorem State.setColl_sched (s : State) (n : Nat) (e : CollEng) : (s.setColl n e).sched = s.sched := rfl
@[simp] theorem State.setColl_logs (s : State) (n : Nat) (e : CollEng) : (s.setColl n e).logs = s.logs := rfl
@[simp] theorem State.setColl_musters (s : State) (n : Nat) (e : CollEng) : (s.setColl n e).musters = s.musters := rfl
@[simp] theorem State.setColl_slotNew (s : State) (n : Nat) (e : CollEng) : (s.setColl n e).slotNew = s.slotNew := rfl
@[simp] theorem State.setColl_hostTlps (s : State) (n : Nat) (e : CollEng) : (s.setColl n e).hostTlps = s.hostTlps := rfl
@[simp] theorem State.setColl_snapAt (s : State) (n : Nat) (e : CollEng) : (s.setColl n e).snapAt = s.snapAt := rfl
@[simp] theorem State.setColl_unitSnap (s : State) (n : Nat) (e : CollEng) : (s.setColl n e).unitSnap = s.unitSnap := rfl
@[simp] theorem State.setColl_saveFrames (s : State) (n : Nat) (e : CollEng) : (s.setColl n e).saveFrames = s.saveFrames := rfl
@[simp] theorem State.setColl_destroying (s : State) (n : Nat) (e : CollEng) : (s.setColl n e).destroying = s.destroying := rfl
@[simp] theorem State.setColl_pkg (s : State) (n : Nat) (e : CollEng) : (s.setColl n e).pkg = s.pkg := rfl
@[simp] theorem State.setColl_out (s : State) (n : Nat) (e : CollEng) : (s.setColl n e).out = s.out := rfl

/-! ### modLog -/

@[simp] theorem State.modLog_agenda (s : State) (c : Nat) (g : CtxLog → CtxLog) : (s.modLog c g).agenda = s.agenda := rfl
@[simp] theorem State.modLog_cur (s : State) (c : Nat) (g : CtxLog → CtxLog) : (s.modLog c g).cur = s.cur := rfl
@[simp] theorem State.modLog_curInsn (s : State) (c : Nat) (g : CtxLog → CtxLog) : (s.modLog c g).curInsn = s.curInsn := rfl
@[simp] theorem State.modLog_freeCount (s : State) (c : Nat) (g : CtxLog → CtxLog) : (s.modLog c g).freeCount = s.freeCount := rfl
@[simp] theorem State.modLog_nextId (s : State) (c : Nat) (g : CtxLog → CtxLog) : (s.modLog c g).nextId = s.nextId := rfl
@[simp] theorem State.modLog_ccc (s : State) (c : Nat) (g : CtxLog → CtxLog) : (s.modLog c g).ccc = s.ccc := rfl
@[simp] theorem State.modLog_hbm (s : State) (c : Nat) (g : CtxLog → CtxLog) : (s.modLog c g).hbm = s.hbm := rfl
@[simp] theorem State.modLog_sram (s : State) (c : Nat) (g : CtxLog → CtxLog) : (s.modLog c g).sram = s.sram := rfl
@[simp] theorem State.modLog_regs (s : State) (c : Nat) (g : CtxLog → CtxLog) : (s.modLog c g).regs = s.regs := rfl
@[simp] theorem State.modLog_tiles (s : State) (c : Nat) (g : CtxLog → CtxLog) : (s.modLog c g).tiles = s.tiles := rfl
@[simp] theorem State.modLog_threads (s : State) (c : Nat) (g : CtxLog → CtxLog) : (s.modLog c g).threads = s.threads := rfl
@[simp] theorem State.modLog_coreTlb (s : State) (c : Nat) (g : CtxLog → CtxLog) : (s.modLog c g).coreTlb = s.coreTlb := rfl
@[simp] theorem State.modLog_entries (s : State) (c : Nat) (g : CtxLog → CtxLog) : (s.modLog c g).entries = s.entries := rfl
@[simp] theorem State.modLog_armSeq (s : State) (c : Nat) (g : CtxLog → CtxLog) : (s.modLog c g).armSeq = s.armSeq := rfl
@[simp] theorem State.modLog_aseq (s : State) (c : Nat) (g : CtxLog → CtxLog) : (s.modLog c g).aseq = s.aseq := rfl
@[simp] theorem State.modLog_arrivals (s : State) (c : Nat) (g : CtxLog → CtxLog) : (s.modLog c g).arrivals = s.arrivals := rfl
@[simp] theorem State.modLog_ux (s : State) (c : Nat) (g : CtxLog → CtxLog) : (s.modLog c g).ux = s.ux := rfl
@[simp] theorem State.modLog_deposits (s : State) (c : Nat) (g : CtxLog → CtxLog) : (s.modLog c g).deposits = s.deposits := rfl
@[simp] theorem State.modLog_disarmed (s : State) (c : Nat) (g : CtxLog → CtxLog) : (s.modLog c g).disarmed = s.disarmed := rfl
@[simp] theorem State.modLog_winDel (s : State) (c : Nat) (g : CtxLog → CtxLog) : (s.modLog c g).winDel = s.winDel := rfl
@[simp] theorem State.modLog_engSig (s : State) (c : Nat) (g : CtxLog → CtxLog) : (s.modLog c g).engSig = s.engSig := rfl
@[simp] theorem State.modLog_ctrCmds (s : State) (c : Nat) (g : CtxLog → CtxLog) : (s.modLog c g).ctrCmds = s.ctrCmds := rfl
@[simp] theorem State.modLog_evUsed (s : State) (c : Nat) (g : CtxLog → CtxLog) : (s.modLog c g).evUsed = s.evUsed := rfl
@[simp] theorem State.modLog_ferryRels (s : State) (c : Nat) (g : CtxLog → CtxLog) : (s.modLog c g).ferryRels = s.ferryRels := rfl
@[simp] theorem State.modLog_heldIn (s : State) (c : Nat) (g : CtxLog → CtxLog) : (s.modLog c g).heldIn = s.heldIn := rfl
@[simp] theorem State.modLog_actions (s : State) (c : Nat) (g : CtxLog → CtxLog) : (s.modLog c g).actions = s.actions := rfl
@[simp] theorem State.modLog_wakes (s : State) (c : Nat) (g : CtxLog → CtxLog) : (s.modLog c g).wakes = s.wakes := rfl
@[simp] theorem State.modLog_tensors (s : State) (c : Nat) (g : CtxLog → CtxLog) : (s.modLog c g).tensors = s.tensors := rfl
@[simp] theorem State.modLog_bindings (s : State) (c : Nat) (g : CtxLog → CtxLog) : (s.modLog c g).bindings = s.bindings := rfl
@[simp] theorem State.modLog_stores (s : State) (c : Nat) (g : CtxLog → CtxLog) : (s.modLog c g).stores = s.stores := rfl
@[simp] theorem State.modLog_sent (s : State) (c : Nat) (g : CtxLog → CtxLog) : (s.modLog c g).sent = s.sent := rfl
@[simp] theorem State.modLog_sends (s : State) (c : Nat) (g : CtxLog → CtxLog) : (s.modLog c g).sends = s.sends := rfl
@[simp] theorem State.modLog_pseqOut (s : State) (c : Nat) (g : CtxLog → CtxLog) : (s.modLog c g).pseqOut = s.pseqOut := rfl
@[simp] theorem State.modLog_pseqIn (s : State) (c : Nat) (g : CtxLog → CtxLog) : (s.modLog c g).pseqIn = s.pseqIn := rfl
@[simp] theorem State.modLog_discarding (s : State) (c : Nat) (g : CtxLog → CtxLog) : (s.modLog c g).discarding = s.discarding := rfl
@[simp] theorem State.modLog_lhw (s : State) (c : Nat) (g : CtxLog → CtxLog) : (s.modLog c g).lhw = s.lhw := rfl
@[simp] theorem State.modLog_harbour (s : State) (c : Nat) (g : CtxLog → CtxLog) : (s.modLog c g).harbour = s.harbour := rfl
@[simp] theorem State.modLog_tokens (s : State) (c : Nat) (g : CtxLog → CtxLog) : (s.modLog c g).tokens = s.tokens := rfl
@[simp] theorem State.modLog_tokenUse (s : State) (c : Nat) (g : CtxLog → CtxLog) : (s.modLog c g).tokenUse = s.tokenUse := rfl
@[simp] theorem State.modLog_tokenTold (s : State) (c : Nat) (g : CtxLog → CtxLog) : (s.modLog c g).tokenTold = s.tokenTold := rfl
@[simp] theorem State.modLog_holdTold (s : State) (c : Nat) (g : CtxLog → CtxLog) : (s.modLog c g).holdTold = s.holdTold := rfl
@[simp] theorem State.modLog_queries (s : State) (c : Nat) (g : CtxLog → CtxLog) : (s.modLog c g).queries = s.queries := rfl
@[simp] theorem State.modLog_links (s : State) (c : Nat) (g : CtxLog → CtxLog) : (s.modLog c g).links = s.links := rfl
@[simp] theorem State.modLog_inq (s : State) (c : Nat) (g : CtxLog → CtxLog) : (s.modLog c g).inq = s.inq := rfl
@[simp] theorem State.modLog_fences (s : State) (c : Nat) (g : CtxLog → CtxLog) : (s.modLog c g).fences = s.fences := rfl
@[simp] theorem State.modLog_reds (s : State) (c : Nat) (g : CtxLog → CtxLog) : (s.modLog c g).reds = s.reds := rfl
@[simp] theorem State.modLog_updates (s : State) (c : Nat) (g : CtxLog → CtxLog) : (s.modLog c g).updates = s.updates := rfl
@[simp] theorem State.modLog_migrations (s : State) (c : Nat) (g : CtxLog → CtxLog) : (s.modLog c g).migrations = s.migrations := rfl
@[simp] theorem State.modLog_copies (s : State) (c : Nat) (g : CtxLog → CtxLog) : (s.modLog c g).copies = s.copies := rfl
@[simp] theorem State.modLog_ceLast (s : State) (c : Nat) (g : CtxLog → CtxLog) : (s.modLog c g).ceLast = s.ceLast := rfl
@[simp] theorem State.modLog_hbmLast (s : State) (c : Nat) (g : CtxLog → CtxLog) : (s.modLog c g).hbmLast = s.hbmLast := rfl
@[simp] theorem State.modLog_faultSigs (s : State) (c : Nat) (g : CtxLog → CtxLog) : (s.modLog c g).faultSigs = s.faultSigs := rfl
@[simp] theorem State.modLog_colls (s : State) (c : Nat) (g : CtxLog → CtxLog) : (s.modLog c g).colls = s.colls := rfl
@[simp] theorem State.modLog_pubs (s : State) (c : Nat) (g : CtxLog → CtxLog) : (s.modLog c g).pubs = s.pubs := rfl
@[simp] theorem State.modLog_remoteFlags (s : State) (c : Nat) (g : CtxLog → CtxLog) : (s.modLog c g).remoteFlags = s.remoteFlags := rfl
@[simp] theorem State.modLog_sched (s : State) (c : Nat) (g : CtxLog → CtxLog) : (s.modLog c g).sched = s.sched := rfl
@[simp] theorem State.modLog_musters (s : State) (c : Nat) (g : CtxLog → CtxLog) : (s.modLog c g).musters = s.musters := rfl
@[simp] theorem State.modLog_slotNew (s : State) (c : Nat) (g : CtxLog → CtxLog) : (s.modLog c g).slotNew = s.slotNew := rfl
@[simp] theorem State.modLog_hostTlps (s : State) (c : Nat) (g : CtxLog → CtxLog) : (s.modLog c g).hostTlps = s.hostTlps := rfl
@[simp] theorem State.modLog_snapAt (s : State) (c : Nat) (g : CtxLog → CtxLog) : (s.modLog c g).snapAt = s.snapAt := rfl
@[simp] theorem State.modLog_unitSnap (s : State) (c : Nat) (g : CtxLog → CtxLog) : (s.modLog c g).unitSnap = s.unitSnap := rfl
@[simp] theorem State.modLog_saveFrames (s : State) (c : Nat) (g : CtxLog → CtxLog) : (s.modLog c g).saveFrames = s.saveFrames := rfl
@[simp] theorem State.modLog_destroying (s : State) (c : Nat) (g : CtxLog → CtxLog) : (s.modLog c g).destroying = s.destroying := rfl
@[simp] theorem State.modLog_pkg (s : State) (c : Nat) (g : CtxLog → CtxLog) : (s.modLog c g).pkg = s.pkg := rfl
@[simp] theorem State.modLog_out (s : State) (c : Nat) (g : CtxLog → CtxLog) : (s.modLog c g).out = s.out := rfl

/-! ### modMuster -/

@[simp] theorem State.modMuster_agenda (s : State) (c : Nat) (g : Muster → Muster) : (s.modMuster c g).agenda = s.agenda := rfl
@[simp] theorem State.modMuster_cur (s : State) (c : Nat) (g : Muster → Muster) : (s.modMuster c g).cur = s.cur := rfl
@[simp] theorem State.modMuster_curInsn (s : State) (c : Nat) (g : Muster → Muster) : (s.modMuster c g).curInsn = s.curInsn := rfl
@[simp] theorem State.modMuster_freeCount (s : State) (c : Nat) (g : Muster → Muster) : (s.modMuster c g).freeCount = s.freeCount := rfl
@[simp] theorem State.modMuster_nextId (s : State) (c : Nat) (g : Muster → Muster) : (s.modMuster c g).nextId = s.nextId := rfl
@[simp] theorem State.modMuster_ccc (s : State) (c : Nat) (g : Muster → Muster) : (s.modMuster c g).ccc = s.ccc := rfl
@[simp] theorem State.modMuster_hbm (s : State) (c : Nat) (g : Muster → Muster) : (s.modMuster c g).hbm = s.hbm := rfl
@[simp] theorem State.modMuster_sram (s : State) (c : Nat) (g : Muster → Muster) : (s.modMuster c g).sram = s.sram := rfl
@[simp] theorem State.modMuster_regs (s : State) (c : Nat) (g : Muster → Muster) : (s.modMuster c g).regs = s.regs := rfl
@[simp] theorem State.modMuster_tiles (s : State) (c : Nat) (g : Muster → Muster) : (s.modMuster c g).tiles = s.tiles := rfl
@[simp] theorem State.modMuster_threads (s : State) (c : Nat) (g : Muster → Muster) : (s.modMuster c g).threads = s.threads := rfl
@[simp] theorem State.modMuster_coreTlb (s : State) (c : Nat) (g : Muster → Muster) : (s.modMuster c g).coreTlb = s.coreTlb := rfl
@[simp] theorem State.modMuster_entries (s : State) (c : Nat) (g : Muster → Muster) : (s.modMuster c g).entries = s.entries := rfl
@[simp] theorem State.modMuster_armSeq (s : State) (c : Nat) (g : Muster → Muster) : (s.modMuster c g).armSeq = s.armSeq := rfl
@[simp] theorem State.modMuster_aseq (s : State) (c : Nat) (g : Muster → Muster) : (s.modMuster c g).aseq = s.aseq := rfl
@[simp] theorem State.modMuster_arrivals (s : State) (c : Nat) (g : Muster → Muster) : (s.modMuster c g).arrivals = s.arrivals := rfl
@[simp] theorem State.modMuster_ux (s : State) (c : Nat) (g : Muster → Muster) : (s.modMuster c g).ux = s.ux := rfl
@[simp] theorem State.modMuster_deposits (s : State) (c : Nat) (g : Muster → Muster) : (s.modMuster c g).deposits = s.deposits := rfl
@[simp] theorem State.modMuster_disarmed (s : State) (c : Nat) (g : Muster → Muster) : (s.modMuster c g).disarmed = s.disarmed := rfl
@[simp] theorem State.modMuster_winDel (s : State) (c : Nat) (g : Muster → Muster) : (s.modMuster c g).winDel = s.winDel := rfl
@[simp] theorem State.modMuster_engSig (s : State) (c : Nat) (g : Muster → Muster) : (s.modMuster c g).engSig = s.engSig := rfl
@[simp] theorem State.modMuster_ctrCmds (s : State) (c : Nat) (g : Muster → Muster) : (s.modMuster c g).ctrCmds = s.ctrCmds := rfl
@[simp] theorem State.modMuster_evUsed (s : State) (c : Nat) (g : Muster → Muster) : (s.modMuster c g).evUsed = s.evUsed := rfl
@[simp] theorem State.modMuster_ferryRels (s : State) (c : Nat) (g : Muster → Muster) : (s.modMuster c g).ferryRels = s.ferryRels := rfl
@[simp] theorem State.modMuster_heldIn (s : State) (c : Nat) (g : Muster → Muster) : (s.modMuster c g).heldIn = s.heldIn := rfl
@[simp] theorem State.modMuster_actions (s : State) (c : Nat) (g : Muster → Muster) : (s.modMuster c g).actions = s.actions := rfl
@[simp] theorem State.modMuster_wakes (s : State) (c : Nat) (g : Muster → Muster) : (s.modMuster c g).wakes = s.wakes := rfl
@[simp] theorem State.modMuster_tensors (s : State) (c : Nat) (g : Muster → Muster) : (s.modMuster c g).tensors = s.tensors := rfl
@[simp] theorem State.modMuster_bindings (s : State) (c : Nat) (g : Muster → Muster) : (s.modMuster c g).bindings = s.bindings := rfl
@[simp] theorem State.modMuster_stores (s : State) (c : Nat) (g : Muster → Muster) : (s.modMuster c g).stores = s.stores := rfl
@[simp] theorem State.modMuster_sent (s : State) (c : Nat) (g : Muster → Muster) : (s.modMuster c g).sent = s.sent := rfl
@[simp] theorem State.modMuster_sends (s : State) (c : Nat) (g : Muster → Muster) : (s.modMuster c g).sends = s.sends := rfl
@[simp] theorem State.modMuster_pseqOut (s : State) (c : Nat) (g : Muster → Muster) : (s.modMuster c g).pseqOut = s.pseqOut := rfl
@[simp] theorem State.modMuster_pseqIn (s : State) (c : Nat) (g : Muster → Muster) : (s.modMuster c g).pseqIn = s.pseqIn := rfl
@[simp] theorem State.modMuster_discarding (s : State) (c : Nat) (g : Muster → Muster) : (s.modMuster c g).discarding = s.discarding := rfl
@[simp] theorem State.modMuster_lhw (s : State) (c : Nat) (g : Muster → Muster) : (s.modMuster c g).lhw = s.lhw := rfl
@[simp] theorem State.modMuster_harbour (s : State) (c : Nat) (g : Muster → Muster) : (s.modMuster c g).harbour = s.harbour := rfl
@[simp] theorem State.modMuster_tokens (s : State) (c : Nat) (g : Muster → Muster) : (s.modMuster c g).tokens = s.tokens := rfl
@[simp] theorem State.modMuster_tokenUse (s : State) (c : Nat) (g : Muster → Muster) : (s.modMuster c g).tokenUse = s.tokenUse := rfl
@[simp] theorem State.modMuster_tokenTold (s : State) (c : Nat) (g : Muster → Muster) : (s.modMuster c g).tokenTold = s.tokenTold := rfl
@[simp] theorem State.modMuster_holdTold (s : State) (c : Nat) (g : Muster → Muster) : (s.modMuster c g).holdTold = s.holdTold := rfl
@[simp] theorem State.modMuster_queries (s : State) (c : Nat) (g : Muster → Muster) : (s.modMuster c g).queries = s.queries := rfl
@[simp] theorem State.modMuster_links (s : State) (c : Nat) (g : Muster → Muster) : (s.modMuster c g).links = s.links := rfl
@[simp] theorem State.modMuster_inq (s : State) (c : Nat) (g : Muster → Muster) : (s.modMuster c g).inq = s.inq := rfl
@[simp] theorem State.modMuster_fences (s : State) (c : Nat) (g : Muster → Muster) : (s.modMuster c g).fences = s.fences := rfl
@[simp] theorem State.modMuster_reds (s : State) (c : Nat) (g : Muster → Muster) : (s.modMuster c g).reds = s.reds := rfl
@[simp] theorem State.modMuster_updates (s : State) (c : Nat) (g : Muster → Muster) : (s.modMuster c g).updates = s.updates := rfl
@[simp] theorem State.modMuster_migrations (s : State) (c : Nat) (g : Muster → Muster) : (s.modMuster c g).migrations = s.migrations := rfl
@[simp] theorem State.modMuster_copies (s : State) (c : Nat) (g : Muster → Muster) : (s.modMuster c g).copies = s.copies := rfl
@[simp] theorem State.modMuster_ceLast (s : State) (c : Nat) (g : Muster → Muster) : (s.modMuster c g).ceLast = s.ceLast := rfl
@[simp] theorem State.modMuster_hbmLast (s : State) (c : Nat) (g : Muster → Muster) : (s.modMuster c g).hbmLast = s.hbmLast := rfl
@[simp] theorem State.modMuster_faultSigs (s : State) (c : Nat) (g : Muster → Muster) : (s.modMuster c g).faultSigs = s.faultSigs := rfl
@[simp] theorem State.modMuster_colls (s : State) (c : Nat) (g : Muster → Muster) : (s.modMuster c g).colls = s.colls := rfl
@[simp] theorem State.modMuster_pubs (s : State) (c : Nat) (g : Muster → Muster) : (s.modMuster c g).pubs = s.pubs := rfl
@[simp] theorem State.modMuster_remoteFlags (s : State) (c : Nat) (g : Muster → Muster) : (s.modMuster c g).remoteFlags = s.remoteFlags := rfl
@[simp] theorem State.modMuster_sched (s : State) (c : Nat) (g : Muster → Muster) : (s.modMuster c g).sched = s.sched := rfl
@[simp] theorem State.modMuster_logs (s : State) (c : Nat) (g : Muster → Muster) : (s.modMuster c g).logs = s.logs := rfl
@[simp] theorem State.modMuster_slotNew (s : State) (c : Nat) (g : Muster → Muster) : (s.modMuster c g).slotNew = s.slotNew := rfl
@[simp] theorem State.modMuster_hostTlps (s : State) (c : Nat) (g : Muster → Muster) : (s.modMuster c g).hostTlps = s.hostTlps := rfl
@[simp] theorem State.modMuster_snapAt (s : State) (c : Nat) (g : Muster → Muster) : (s.modMuster c g).snapAt = s.snapAt := rfl
@[simp] theorem State.modMuster_unitSnap (s : State) (c : Nat) (g : Muster → Muster) : (s.modMuster c g).unitSnap = s.unitSnap := rfl
@[simp] theorem State.modMuster_saveFrames (s : State) (c : Nat) (g : Muster → Muster) : (s.modMuster c g).saveFrames = s.saveFrames := rfl
@[simp] theorem State.modMuster_destroying (s : State) (c : Nat) (g : Muster → Muster) : (s.modMuster c g).destroying = s.destroying := rfl
@[simp] theorem State.modMuster_pkg (s : State) (c : Nat) (g : Muster → Muster) : (s.modMuster c g).pkg = s.pkg := rfl
@[simp] theorem State.modMuster_out (s : State) (c : Nat) (g : Muster → Muster) : (s.modMuster c g).out = s.out := rfl

/-! ### emit -/

@[simp] theorem State.emit_agenda (s : State) (o : Out) : (s.emit o).agenda = s.agenda := rfl
@[simp] theorem State.emit_cur (s : State) (o : Out) : (s.emit o).cur = s.cur := rfl
@[simp] theorem State.emit_curInsn (s : State) (o : Out) : (s.emit o).curInsn = s.curInsn := rfl
@[simp] theorem State.emit_freeCount (s : State) (o : Out) : (s.emit o).freeCount = s.freeCount := rfl
@[simp] theorem State.emit_nextId (s : State) (o : Out) : (s.emit o).nextId = s.nextId := rfl
@[simp] theorem State.emit_ccc (s : State) (o : Out) : (s.emit o).ccc = s.ccc := rfl
@[simp] theorem State.emit_hbm (s : State) (o : Out) : (s.emit o).hbm = s.hbm := rfl
@[simp] theorem State.emit_sram (s : State) (o : Out) : (s.emit o).sram = s.sram := rfl
@[simp] theorem State.emit_regs (s : State) (o : Out) : (s.emit o).regs = s.regs := rfl
@[simp] theorem State.emit_tiles (s : State) (o : Out) : (s.emit o).tiles = s.tiles := rfl
@[simp] theorem State.emit_threads (s : State) (o : Out) : (s.emit o).threads = s.threads := rfl
@[simp] theorem State.emit_coreTlb (s : State) (o : Out) : (s.emit o).coreTlb = s.coreTlb := rfl
@[simp] theorem State.emit_entries (s : State) (o : Out) : (s.emit o).entries = s.entries := rfl
@[simp] theorem State.emit_armSeq (s : State) (o : Out) : (s.emit o).armSeq = s.armSeq := rfl
@[simp] theorem State.emit_aseq (s : State) (o : Out) : (s.emit o).aseq = s.aseq := rfl
@[simp] theorem State.emit_arrivals (s : State) (o : Out) : (s.emit o).arrivals = s.arrivals := rfl
@[simp] theorem State.emit_ux (s : State) (o : Out) : (s.emit o).ux = s.ux := rfl
@[simp] theorem State.emit_deposits (s : State) (o : Out) : (s.emit o).deposits = s.deposits := rfl
@[simp] theorem State.emit_disarmed (s : State) (o : Out) : (s.emit o).disarmed = s.disarmed := rfl
@[simp] theorem State.emit_winDel (s : State) (o : Out) : (s.emit o).winDel = s.winDel := rfl
@[simp] theorem State.emit_engSig (s : State) (o : Out) : (s.emit o).engSig = s.engSig := rfl
@[simp] theorem State.emit_ctrCmds (s : State) (o : Out) : (s.emit o).ctrCmds = s.ctrCmds := rfl
@[simp] theorem State.emit_evUsed (s : State) (o : Out) : (s.emit o).evUsed = s.evUsed := rfl
@[simp] theorem State.emit_ferryRels (s : State) (o : Out) : (s.emit o).ferryRels = s.ferryRels := rfl
@[simp] theorem State.emit_heldIn (s : State) (o : Out) : (s.emit o).heldIn = s.heldIn := rfl
@[simp] theorem State.emit_actions (s : State) (o : Out) : (s.emit o).actions = s.actions := rfl
@[simp] theorem State.emit_wakes (s : State) (o : Out) : (s.emit o).wakes = s.wakes := rfl
@[simp] theorem State.emit_tensors (s : State) (o : Out) : (s.emit o).tensors = s.tensors := rfl
@[simp] theorem State.emit_bindings (s : State) (o : Out) : (s.emit o).bindings = s.bindings := rfl
@[simp] theorem State.emit_stores (s : State) (o : Out) : (s.emit o).stores = s.stores := rfl
@[simp] theorem State.emit_sent (s : State) (o : Out) : (s.emit o).sent = s.sent := rfl
@[simp] theorem State.emit_sends (s : State) (o : Out) : (s.emit o).sends = s.sends := rfl
@[simp] theorem State.emit_pseqOut (s : State) (o : Out) : (s.emit o).pseqOut = s.pseqOut := rfl
@[simp] theorem State.emit_pseqIn (s : State) (o : Out) : (s.emit o).pseqIn = s.pseqIn := rfl
@[simp] theorem State.emit_discarding (s : State) (o : Out) : (s.emit o).discarding = s.discarding := rfl
@[simp] theorem State.emit_lhw (s : State) (o : Out) : (s.emit o).lhw = s.lhw := rfl
@[simp] theorem State.emit_harbour (s : State) (o : Out) : (s.emit o).harbour = s.harbour := rfl
@[simp] theorem State.emit_tokens (s : State) (o : Out) : (s.emit o).tokens = s.tokens := rfl
@[simp] theorem State.emit_tokenUse (s : State) (o : Out) : (s.emit o).tokenUse = s.tokenUse := rfl
@[simp] theorem State.emit_tokenTold (s : State) (o : Out) : (s.emit o).tokenTold = s.tokenTold := rfl
@[simp] theorem State.emit_holdTold (s : State) (o : Out) : (s.emit o).holdTold = s.holdTold := rfl
@[simp] theorem State.emit_queries (s : State) (o : Out) : (s.emit o).queries = s.queries := rfl
@[simp] theorem State.emit_links (s : State) (o : Out) : (s.emit o).links = s.links := rfl
@[simp] theorem State.emit_inq (s : State) (o : Out) : (s.emit o).inq = s.inq := rfl
@[simp] theorem State.emit_fences (s : State) (o : Out) : (s.emit o).fences = s.fences := rfl
@[simp] theorem State.emit_reds (s : State) (o : Out) : (s.emit o).reds = s.reds := rfl
@[simp] theorem State.emit_updates (s : State) (o : Out) : (s.emit o).updates = s.updates := rfl
@[simp] theorem State.emit_migrations (s : State) (o : Out) : (s.emit o).migrations = s.migrations := rfl
@[simp] theorem State.emit_copies (s : State) (o : Out) : (s.emit o).copies = s.copies := rfl
@[simp] theorem State.emit_ceLast (s : State) (o : Out) : (s.emit o).ceLast = s.ceLast := rfl
@[simp] theorem State.emit_hbmLast (s : State) (o : Out) : (s.emit o).hbmLast = s.hbmLast := rfl
@[simp] theorem State.emit_faultSigs (s : State) (o : Out) : (s.emit o).faultSigs = s.faultSigs := rfl
@[simp] theorem State.emit_colls (s : State) (o : Out) : (s.emit o).colls = s.colls := rfl
@[simp] theorem State.emit_pubs (s : State) (o : Out) : (s.emit o).pubs = s.pubs := rfl
@[simp] theorem State.emit_remoteFlags (s : State) (o : Out) : (s.emit o).remoteFlags = s.remoteFlags := rfl
@[simp] theorem State.emit_sched (s : State) (o : Out) : (s.emit o).sched = s.sched := rfl
@[simp] theorem State.emit_logs (s : State) (o : Out) : (s.emit o).logs = s.logs := rfl
@[simp] theorem State.emit_musters (s : State) (o : Out) : (s.emit o).musters = s.musters := rfl
@[simp] theorem State.emit_slotNew (s : State) (o : Out) : (s.emit o).slotNew = s.slotNew := rfl
@[simp] theorem State.emit_hostTlps (s : State) (o : Out) : (s.emit o).hostTlps = s.hostTlps := rfl
@[simp] theorem State.emit_snapAt (s : State) (o : Out) : (s.emit o).snapAt = s.snapAt := rfl
@[simp] theorem State.emit_unitSnap (s : State) (o : Out) : (s.emit o).unitSnap = s.unitSnap := rfl
@[simp] theorem State.emit_saveFrames (s : State) (o : Out) : (s.emit o).saveFrames = s.saveFrames := rfl
@[simp] theorem State.emit_destroying (s : State) (o : Out) : (s.emit o).destroying = s.destroying := rfl
@[simp] theorem State.emit_pkg (s : State) (o : Out) : (s.emit o).pkg = s.pkg := rfl

/-! ### wake -/

@[simp] theorem State.wake_agenda (s : State) (g : Nat) (k : Wake) : (s.wake g k).agenda = s.agenda := rfl
@[simp] theorem State.wake_cur (s : State) (g : Nat) (k : Wake) : (s.wake g k).cur = s.cur := rfl
@[simp] theorem State.wake_curInsn (s : State) (g : Nat) (k : Wake) : (s.wake g k).curInsn = s.curInsn := rfl
@[simp] theorem State.wake_freeCount (s : State) (g : Nat) (k : Wake) : (s.wake g k).freeCount = s.freeCount := rfl
@[simp] theorem State.wake_nextId (s : State) (g : Nat) (k : Wake) : (s.wake g k).nextId = s.nextId := rfl
@[simp] theorem State.wake_ccc (s : State) (g : Nat) (k : Wake) : (s.wake g k).ccc = s.ccc := rfl
@[simp] theorem State.wake_hbm (s : State) (g : Nat) (k : Wake) : (s.wake g k).hbm = s.hbm := rfl
@[simp] theorem State.wake_sram (s : State) (g : Nat) (k : Wake) : (s.wake g k).sram = s.sram := rfl
@[simp] theorem State.wake_regs (s : State) (g : Nat) (k : Wake) : (s.wake g k).regs = s.regs := rfl
@[simp] theorem State.wake_tiles (s : State) (g : Nat) (k : Wake) : (s.wake g k).tiles = s.tiles := rfl
@[simp] theorem State.wake_threads (s : State) (g : Nat) (k : Wake) : (s.wake g k).threads = s.threads := rfl
@[simp] theorem State.wake_coreTlb (s : State) (g : Nat) (k : Wake) : (s.wake g k).coreTlb = s.coreTlb := rfl
@[simp] theorem State.wake_entries (s : State) (g : Nat) (k : Wake) : (s.wake g k).entries = s.entries := rfl
@[simp] theorem State.wake_armSeq (s : State) (g : Nat) (k : Wake) : (s.wake g k).armSeq = s.armSeq := rfl
@[simp] theorem State.wake_aseq (s : State) (g : Nat) (k : Wake) : (s.wake g k).aseq = s.aseq := rfl
@[simp] theorem State.wake_arrivals (s : State) (g : Nat) (k : Wake) : (s.wake g k).arrivals = s.arrivals := rfl
@[simp] theorem State.wake_ux (s : State) (g : Nat) (k : Wake) : (s.wake g k).ux = s.ux := rfl
@[simp] theorem State.wake_deposits (s : State) (g : Nat) (k : Wake) : (s.wake g k).deposits = s.deposits := rfl
@[simp] theorem State.wake_disarmed (s : State) (g : Nat) (k : Wake) : (s.wake g k).disarmed = s.disarmed := rfl
@[simp] theorem State.wake_winDel (s : State) (g : Nat) (k : Wake) : (s.wake g k).winDel = s.winDel := rfl
@[simp] theorem State.wake_engSig (s : State) (g : Nat) (k : Wake) : (s.wake g k).engSig = s.engSig := rfl
@[simp] theorem State.wake_ctrCmds (s : State) (g : Nat) (k : Wake) : (s.wake g k).ctrCmds = s.ctrCmds := rfl
@[simp] theorem State.wake_evUsed (s : State) (g : Nat) (k : Wake) : (s.wake g k).evUsed = s.evUsed := rfl
@[simp] theorem State.wake_ferryRels (s : State) (g : Nat) (k : Wake) : (s.wake g k).ferryRels = s.ferryRels := rfl
@[simp] theorem State.wake_heldIn (s : State) (g : Nat) (k : Wake) : (s.wake g k).heldIn = s.heldIn := rfl
@[simp] theorem State.wake_actions (s : State) (g : Nat) (k : Wake) : (s.wake g k).actions = s.actions := rfl
@[simp] theorem State.wake_tensors (s : State) (g : Nat) (k : Wake) : (s.wake g k).tensors = s.tensors := rfl
@[simp] theorem State.wake_bindings (s : State) (g : Nat) (k : Wake) : (s.wake g k).bindings = s.bindings := rfl
@[simp] theorem State.wake_stores (s : State) (g : Nat) (k : Wake) : (s.wake g k).stores = s.stores := rfl
@[simp] theorem State.wake_sent (s : State) (g : Nat) (k : Wake) : (s.wake g k).sent = s.sent := rfl
@[simp] theorem State.wake_sends (s : State) (g : Nat) (k : Wake) : (s.wake g k).sends = s.sends := rfl
@[simp] theorem State.wake_pseqOut (s : State) (g : Nat) (k : Wake) : (s.wake g k).pseqOut = s.pseqOut := rfl
@[simp] theorem State.wake_pseqIn (s : State) (g : Nat) (k : Wake) : (s.wake g k).pseqIn = s.pseqIn := rfl
@[simp] theorem State.wake_discarding (s : State) (g : Nat) (k : Wake) : (s.wake g k).discarding = s.discarding := rfl
@[simp] theorem State.wake_lhw (s : State) (g : Nat) (k : Wake) : (s.wake g k).lhw = s.lhw := rfl
@[simp] theorem State.wake_harbour (s : State) (g : Nat) (k : Wake) : (s.wake g k).harbour = s.harbour := rfl
@[simp] theorem State.wake_tokens (s : State) (g : Nat) (k : Wake) : (s.wake g k).tokens = s.tokens := rfl
@[simp] theorem State.wake_tokenUse (s : State) (g : Nat) (k : Wake) : (s.wake g k).tokenUse = s.tokenUse := rfl
@[simp] theorem State.wake_tokenTold (s : State) (g : Nat) (k : Wake) : (s.wake g k).tokenTold = s.tokenTold := rfl
@[simp] theorem State.wake_holdTold (s : State) (g : Nat) (k : Wake) : (s.wake g k).holdTold = s.holdTold := rfl
@[simp] theorem State.wake_queries (s : State) (g : Nat) (k : Wake) : (s.wake g k).queries = s.queries := rfl
@[simp] theorem State.wake_links (s : State) (g : Nat) (k : Wake) : (s.wake g k).links = s.links := rfl
@[simp] theorem State.wake_inq (s : State) (g : Nat) (k : Wake) : (s.wake g k).inq = s.inq := rfl
@[simp] theorem State.wake_fences (s : State) (g : Nat) (k : Wake) : (s.wake g k).fences = s.fences := rfl
@[simp] theorem State.wake_reds (s : State) (g : Nat) (k : Wake) : (s.wake g k).reds = s.reds := rfl
@[simp] theorem State.wake_updates (s : State) (g : Nat) (k : Wake) : (s.wake g k).updates = s.updates := rfl
@[simp] theorem State.wake_migrations (s : State) (g : Nat) (k : Wake) : (s.wake g k).migrations = s.migrations := rfl
@[simp] theorem State.wake_copies (s : State) (g : Nat) (k : Wake) : (s.wake g k).copies = s.copies := rfl
@[simp] theorem State.wake_ceLast (s : State) (g : Nat) (k : Wake) : (s.wake g k).ceLast = s.ceLast := rfl
@[simp] theorem State.wake_hbmLast (s : State) (g : Nat) (k : Wake) : (s.wake g k).hbmLast = s.hbmLast := rfl
@[simp] theorem State.wake_faultSigs (s : State) (g : Nat) (k : Wake) : (s.wake g k).faultSigs = s.faultSigs := rfl
@[simp] theorem State.wake_colls (s : State) (g : Nat) (k : Wake) : (s.wake g k).colls = s.colls := rfl
@[simp] theorem State.wake_pubs (s : State) (g : Nat) (k : Wake) : (s.wake g k).pubs = s.pubs := rfl
@[simp] theorem State.wake_remoteFlags (s : State) (g : Nat) (k : Wake) : (s.wake g k).remoteFlags = s.remoteFlags := rfl
@[simp] theorem State.wake_sched (s : State) (g : Nat) (k : Wake) : (s.wake g k).sched = s.sched := rfl
@[simp] theorem State.wake_logs (s : State) (g : Nat) (k : Wake) : (s.wake g k).logs = s.logs := rfl
@[simp] theorem State.wake_musters (s : State) (g : Nat) (k : Wake) : (s.wake g k).musters = s.musters := rfl
@[simp] theorem State.wake_slotNew (s : State) (g : Nat) (k : Wake) : (s.wake g k).slotNew = s.slotNew := rfl
@[simp] theorem State.wake_hostTlps (s : State) (g : Nat) (k : Wake) : (s.wake g k).hostTlps = s.hostTlps := rfl
@[simp] theorem State.wake_snapAt (s : State) (g : Nat) (k : Wake) : (s.wake g k).snapAt = s.snapAt := rfl
@[simp] theorem State.wake_unitSnap (s : State) (g : Nat) (k : Wake) : (s.wake g k).unitSnap = s.unitSnap := rfl
@[simp] theorem State.wake_saveFrames (s : State) (g : Nat) (k : Wake) : (s.wake g k).saveFrames = s.saveFrames := rfl
@[simp] theorem State.wake_destroying (s : State) (g : Nat) (k : Wake) : (s.wake g k).destroying = s.destroying := rfl
@[simp] theorem State.wake_pkg (s : State) (g : Nat) (k : Wake) : (s.wake g k).pkg = s.pkg := rfl
@[simp] theorem State.wake_out (s : State) (g : Nat) (k : Wake) : (s.wake g k).out = s.out := rfl

/-! ### Operations on the party at issue: they touch tiles and threads only -/

/-- The state differs in tiles and threads only. -/
def State.SameBut (s t : State) : Prop := ∃ T H, t = { s with tiles := T, threads := H }

theorem State.SameBut.refl (s : State) : s.SameBut s := ⟨s.tiles, s.threads, rfl⟩

theorem State.SameBut.trans {s t u : State} (h : s.SameBut t) (g : t.SameBut u) : s.SameBut u := by
  obtain ⟨T, H, rfl⟩ := h
  obtain ⟨T', H', rfl⟩ := g
  exact ⟨T', H', rfl⟩

theorem State.modTile_sameBut (s : State) (t : Nat) (g : Tile → Tile) : s.SameBut (s.modTile t g) := ⟨_, s.threads, rfl⟩

theorem State.modThr_sameBut (s : State) (n : Nat) (g : Thread → Thread) : s.SameBut (s.modThr n g) := ⟨s.tiles, _, rfl⟩

theorem State.modScal_sameBut (s : State) (w : Who) (g : Scalars → Scalars) : s.SameBut (s.modScal w g) := by
  cases w <;> simp only [State.modScal]
  · exact s.modTile_sameBut _ _
  · exact s.modThr_sameBut _ _
  · exact .refl s

theorem State.modStrm_sameBut (s : State) (w : Who) (g : Stream → Stream) : s.SameBut (s.modStrm w g) := by
  cases w <;> simp only [State.modStrm]
  · exact s.modTile_sameBut _ _
  · exact s.modThr_sameBut _ _
  · exact .refl s

theorem State.stalled_sameBut (s : State) (k : Stall) : s.SameBut (s.stalled k) := s.modStrm_sameBut _ _

theorem State.retire_sameBut (s : State) (n : Nat) : s.SameBut (s.retire n) := by
  have h1 (w : Who) (f : Stream → Stream) : s.SameBut (if w.num == 0 then (s.modStrm w f).modScal w Scalars.age else s.modStrm w f) := by
    split
    · exact (s.modStrm_sameBut _ _).trans (State.modScal_sameBut _ _ _)
    · exact s.modStrm_sameBut _ _
  unfold State.retire
  generalize s.cur = w
  cases w <;> dsimp only
  · exact (h1 _ _).trans (State.modTile_sameBut _ _ _)
  · exact h1 _ _
  · exact h1 _ _

theorem State.jump_sameBut (s : State) (a : Word) (n : Nat) : s.SameBut (s.jump a n) := (s.retire_sameBut n).trans (State.modStrm_sameBut _ _ _)

/-! ### modScal -/

@[simp] theorem State.modScal_agenda (s : State) (w : Who) (g : Scalars → Scalars) : (s.modScal w g).agenda = s.agenda := by
  obtain ⟨T, H, h⟩ := s.modScal_sameBut w g; rw [h]
@[simp] theorem State.modScal_cur (s : State) (w : Who) (g : Scalars → Scalars) : (s.modScal w g).cur = s.cur := by
  obtain ⟨T, H, h⟩ := s.modScal_sameBut w g; rw [h]
@[simp] theorem State.modScal_curInsn (s : State) (w : Who) (g : Scalars → Scalars) : (s.modScal w g).curInsn = s.curInsn := by
  obtain ⟨T, H, h⟩ := s.modScal_sameBut w g; rw [h]
@[simp] theorem State.modScal_freeCount (s : State) (w : Who) (g : Scalars → Scalars) : (s.modScal w g).freeCount = s.freeCount := by
  obtain ⟨T, H, h⟩ := s.modScal_sameBut w g; rw [h]
@[simp] theorem State.modScal_nextId (s : State) (w : Who) (g : Scalars → Scalars) : (s.modScal w g).nextId = s.nextId := by
  obtain ⟨T, H, h⟩ := s.modScal_sameBut w g; rw [h]
@[simp] theorem State.modScal_ccc (s : State) (w : Who) (g : Scalars → Scalars) : (s.modScal w g).ccc = s.ccc := by
  obtain ⟨T, H, h⟩ := s.modScal_sameBut w g; rw [h]
@[simp] theorem State.modScal_hbm (s : State) (w : Who) (g : Scalars → Scalars) : (s.modScal w g).hbm = s.hbm := by
  obtain ⟨T, H, h⟩ := s.modScal_sameBut w g; rw [h]
@[simp] theorem State.modScal_sram (s : State) (w : Who) (g : Scalars → Scalars) : (s.modScal w g).sram = s.sram := by
  obtain ⟨T, H, h⟩ := s.modScal_sameBut w g; rw [h]
@[simp] theorem State.modScal_regs (s : State) (w : Who) (g : Scalars → Scalars) : (s.modScal w g).regs = s.regs := by
  obtain ⟨T, H, h⟩ := s.modScal_sameBut w g; rw [h]
@[simp] theorem State.modScal_coreTlb (s : State) (w : Who) (g : Scalars → Scalars) : (s.modScal w g).coreTlb = s.coreTlb := by
  obtain ⟨T, H, h⟩ := s.modScal_sameBut w g; rw [h]
@[simp] theorem State.modScal_entries (s : State) (w : Who) (g : Scalars → Scalars) : (s.modScal w g).entries = s.entries := by
  obtain ⟨T, H, h⟩ := s.modScal_sameBut w g; rw [h]
@[simp] theorem State.modScal_armSeq (s : State) (w : Who) (g : Scalars → Scalars) : (s.modScal w g).armSeq = s.armSeq := by
  obtain ⟨T, H, h⟩ := s.modScal_sameBut w g; rw [h]
@[simp] theorem State.modScal_aseq (s : State) (w : Who) (g : Scalars → Scalars) : (s.modScal w g).aseq = s.aseq := by
  obtain ⟨T, H, h⟩ := s.modScal_sameBut w g; rw [h]
@[simp] theorem State.modScal_arrivals (s : State) (w : Who) (g : Scalars → Scalars) : (s.modScal w g).arrivals = s.arrivals := by
  obtain ⟨T, H, h⟩ := s.modScal_sameBut w g; rw [h]
@[simp] theorem State.modScal_ux (s : State) (w : Who) (g : Scalars → Scalars) : (s.modScal w g).ux = s.ux := by
  obtain ⟨T, H, h⟩ := s.modScal_sameBut w g; rw [h]
@[simp] theorem State.modScal_deposits (s : State) (w : Who) (g : Scalars → Scalars) : (s.modScal w g).deposits = s.deposits := by
  obtain ⟨T, H, h⟩ := s.modScal_sameBut w g; rw [h]
@[simp] theorem State.modScal_disarmed (s : State) (w : Who) (g : Scalars → Scalars) : (s.modScal w g).disarmed = s.disarmed := by
  obtain ⟨T, H, h⟩ := s.modScal_sameBut w g; rw [h]
@[simp] theorem State.modScal_winDel (s : State) (w : Who) (g : Scalars → Scalars) : (s.modScal w g).winDel = s.winDel := by
  obtain ⟨T, H, h⟩ := s.modScal_sameBut w g; rw [h]
@[simp] theorem State.modScal_engSig (s : State) (w : Who) (g : Scalars → Scalars) : (s.modScal w g).engSig = s.engSig := by
  obtain ⟨T, H, h⟩ := s.modScal_sameBut w g; rw [h]
@[simp] theorem State.modScal_ctrCmds (s : State) (w : Who) (g : Scalars → Scalars) : (s.modScal w g).ctrCmds = s.ctrCmds := by
  obtain ⟨T, H, h⟩ := s.modScal_sameBut w g; rw [h]
@[simp] theorem State.modScal_evUsed (s : State) (w : Who) (g : Scalars → Scalars) : (s.modScal w g).evUsed = s.evUsed := by
  obtain ⟨T, H, h⟩ := s.modScal_sameBut w g; rw [h]
@[simp] theorem State.modScal_ferryRels (s : State) (w : Who) (g : Scalars → Scalars) : (s.modScal w g).ferryRels = s.ferryRels := by
  obtain ⟨T, H, h⟩ := s.modScal_sameBut w g; rw [h]
@[simp] theorem State.modScal_heldIn (s : State) (w : Who) (g : Scalars → Scalars) : (s.modScal w g).heldIn = s.heldIn := by
  obtain ⟨T, H, h⟩ := s.modScal_sameBut w g; rw [h]
@[simp] theorem State.modScal_actions (s : State) (w : Who) (g : Scalars → Scalars) : (s.modScal w g).actions = s.actions := by
  obtain ⟨T, H, h⟩ := s.modScal_sameBut w g; rw [h]
@[simp] theorem State.modScal_wakes (s : State) (w : Who) (g : Scalars → Scalars) : (s.modScal w g).wakes = s.wakes := by
  obtain ⟨T, H, h⟩ := s.modScal_sameBut w g; rw [h]
@[simp] theorem State.modScal_tensors (s : State) (w : Who) (g : Scalars → Scalars) : (s.modScal w g).tensors = s.tensors := by
  obtain ⟨T, H, h⟩ := s.modScal_sameBut w g; rw [h]
@[simp] theorem State.modScal_bindings (s : State) (w : Who) (g : Scalars → Scalars) : (s.modScal w g).bindings = s.bindings := by
  obtain ⟨T, H, h⟩ := s.modScal_sameBut w g; rw [h]
@[simp] theorem State.modScal_stores (s : State) (w : Who) (g : Scalars → Scalars) : (s.modScal w g).stores = s.stores := by
  obtain ⟨T, H, h⟩ := s.modScal_sameBut w g; rw [h]
@[simp] theorem State.modScal_sent (s : State) (w : Who) (g : Scalars → Scalars) : (s.modScal w g).sent = s.sent := by
  obtain ⟨T, H, h⟩ := s.modScal_sameBut w g; rw [h]
@[simp] theorem State.modScal_sends (s : State) (w : Who) (g : Scalars → Scalars) : (s.modScal w g).sends = s.sends := by
  obtain ⟨T, H, h⟩ := s.modScal_sameBut w g; rw [h]
@[simp] theorem State.modScal_pseqOut (s : State) (w : Who) (g : Scalars → Scalars) : (s.modScal w g).pseqOut = s.pseqOut := by
  obtain ⟨T, H, h⟩ := s.modScal_sameBut w g; rw [h]
@[simp] theorem State.modScal_pseqIn (s : State) (w : Who) (g : Scalars → Scalars) : (s.modScal w g).pseqIn = s.pseqIn := by
  obtain ⟨T, H, h⟩ := s.modScal_sameBut w g; rw [h]
@[simp] theorem State.modScal_discarding (s : State) (w : Who) (g : Scalars → Scalars) : (s.modScal w g).discarding = s.discarding := by
  obtain ⟨T, H, h⟩ := s.modScal_sameBut w g; rw [h]
@[simp] theorem State.modScal_lhw (s : State) (w : Who) (g : Scalars → Scalars) : (s.modScal w g).lhw = s.lhw := by
  obtain ⟨T, H, h⟩ := s.modScal_sameBut w g; rw [h]
@[simp] theorem State.modScal_harbour (s : State) (w : Who) (g : Scalars → Scalars) : (s.modScal w g).harbour = s.harbour := by
  obtain ⟨T, H, h⟩ := s.modScal_sameBut w g; rw [h]
@[simp] theorem State.modScal_tokens (s : State) (w : Who) (g : Scalars → Scalars) : (s.modScal w g).tokens = s.tokens := by
  obtain ⟨T, H, h⟩ := s.modScal_sameBut w g; rw [h]
@[simp] theorem State.modScal_tokenUse (s : State) (w : Who) (g : Scalars → Scalars) : (s.modScal w g).tokenUse = s.tokenUse := by
  obtain ⟨T, H, h⟩ := s.modScal_sameBut w g; rw [h]
@[simp] theorem State.modScal_tokenTold (s : State) (w : Who) (g : Scalars → Scalars) : (s.modScal w g).tokenTold = s.tokenTold := by
  obtain ⟨T, H, h⟩ := s.modScal_sameBut w g; rw [h]
@[simp] theorem State.modScal_holdTold (s : State) (w : Who) (g : Scalars → Scalars) : (s.modScal w g).holdTold = s.holdTold := by
  obtain ⟨T, H, h⟩ := s.modScal_sameBut w g; rw [h]
@[simp] theorem State.modScal_queries (s : State) (w : Who) (g : Scalars → Scalars) : (s.modScal w g).queries = s.queries := by
  obtain ⟨T, H, h⟩ := s.modScal_sameBut w g; rw [h]
@[simp] theorem State.modScal_links (s : State) (w : Who) (g : Scalars → Scalars) : (s.modScal w g).links = s.links := by
  obtain ⟨T, H, h⟩ := s.modScal_sameBut w g; rw [h]
@[simp] theorem State.modScal_inq (s : State) (w : Who) (g : Scalars → Scalars) : (s.modScal w g).inq = s.inq := by
  obtain ⟨T, H, h⟩ := s.modScal_sameBut w g; rw [h]
@[simp] theorem State.modScal_fences (s : State) (w : Who) (g : Scalars → Scalars) : (s.modScal w g).fences = s.fences := by
  obtain ⟨T, H, h⟩ := s.modScal_sameBut w g; rw [h]
@[simp] theorem State.modScal_reds (s : State) (w : Who) (g : Scalars → Scalars) : (s.modScal w g).reds = s.reds := by
  obtain ⟨T, H, h⟩ := s.modScal_sameBut w g; rw [h]
@[simp] theorem State.modScal_updates (s : State) (w : Who) (g : Scalars → Scalars) : (s.modScal w g).updates = s.updates := by
  obtain ⟨T, H, h⟩ := s.modScal_sameBut w g; rw [h]
@[simp] theorem State.modScal_migrations (s : State) (w : Who) (g : Scalars → Scalars) : (s.modScal w g).migrations = s.migrations := by
  obtain ⟨T, H, h⟩ := s.modScal_sameBut w g; rw [h]
@[simp] theorem State.modScal_copies (s : State) (w : Who) (g : Scalars → Scalars) : (s.modScal w g).copies = s.copies := by
  obtain ⟨T, H, h⟩ := s.modScal_sameBut w g; rw [h]
@[simp] theorem State.modScal_ceLast (s : State) (w : Who) (g : Scalars → Scalars) : (s.modScal w g).ceLast = s.ceLast := by
  obtain ⟨T, H, h⟩ := s.modScal_sameBut w g; rw [h]
@[simp] theorem State.modScal_hbmLast (s : State) (w : Who) (g : Scalars → Scalars) : (s.modScal w g).hbmLast = s.hbmLast := by
  obtain ⟨T, H, h⟩ := s.modScal_sameBut w g; rw [h]
@[simp] theorem State.modScal_faultSigs (s : State) (w : Who) (g : Scalars → Scalars) : (s.modScal w g).faultSigs = s.faultSigs := by
  obtain ⟨T, H, h⟩ := s.modScal_sameBut w g; rw [h]
@[simp] theorem State.modScal_colls (s : State) (w : Who) (g : Scalars → Scalars) : (s.modScal w g).colls = s.colls := by
  obtain ⟨T, H, h⟩ := s.modScal_sameBut w g; rw [h]
@[simp] theorem State.modScal_pubs (s : State) (w : Who) (g : Scalars → Scalars) : (s.modScal w g).pubs = s.pubs := by
  obtain ⟨T, H, h⟩ := s.modScal_sameBut w g; rw [h]
@[simp] theorem State.modScal_remoteFlags (s : State) (w : Who) (g : Scalars → Scalars) : (s.modScal w g).remoteFlags = s.remoteFlags := by
  obtain ⟨T, H, h⟩ := s.modScal_sameBut w g; rw [h]
@[simp] theorem State.modScal_sched (s : State) (w : Who) (g : Scalars → Scalars) : (s.modScal w g).sched = s.sched := by
  obtain ⟨T, H, h⟩ := s.modScal_sameBut w g; rw [h]
@[simp] theorem State.modScal_logs (s : State) (w : Who) (g : Scalars → Scalars) : (s.modScal w g).logs = s.logs := by
  obtain ⟨T, H, h⟩ := s.modScal_sameBut w g; rw [h]
@[simp] theorem State.modScal_musters (s : State) (w : Who) (g : Scalars → Scalars) : (s.modScal w g).musters = s.musters := by
  obtain ⟨T, H, h⟩ := s.modScal_sameBut w g; rw [h]
@[simp] theorem State.modScal_slotNew (s : State) (w : Who) (g : Scalars → Scalars) : (s.modScal w g).slotNew = s.slotNew := by
  obtain ⟨T, H, h⟩ := s.modScal_sameBut w g; rw [h]
@[simp] theorem State.modScal_hostTlps (s : State) (w : Who) (g : Scalars → Scalars) : (s.modScal w g).hostTlps = s.hostTlps := by
  obtain ⟨T, H, h⟩ := s.modScal_sameBut w g; rw [h]
@[simp] theorem State.modScal_snapAt (s : State) (w : Who) (g : Scalars → Scalars) : (s.modScal w g).snapAt = s.snapAt := by
  obtain ⟨T, H, h⟩ := s.modScal_sameBut w g; rw [h]
@[simp] theorem State.modScal_unitSnap (s : State) (w : Who) (g : Scalars → Scalars) : (s.modScal w g).unitSnap = s.unitSnap := by
  obtain ⟨T, H, h⟩ := s.modScal_sameBut w g; rw [h]
@[simp] theorem State.modScal_saveFrames (s : State) (w : Who) (g : Scalars → Scalars) : (s.modScal w g).saveFrames = s.saveFrames := by
  obtain ⟨T, H, h⟩ := s.modScal_sameBut w g; rw [h]
@[simp] theorem State.modScal_destroying (s : State) (w : Who) (g : Scalars → Scalars) : (s.modScal w g).destroying = s.destroying := by
  obtain ⟨T, H, h⟩ := s.modScal_sameBut w g; rw [h]
@[simp] theorem State.modScal_pkg (s : State) (w : Who) (g : Scalars → Scalars) : (s.modScal w g).pkg = s.pkg := by
  obtain ⟨T, H, h⟩ := s.modScal_sameBut w g; rw [h]
@[simp] theorem State.modScal_out (s : State) (w : Who) (g : Scalars → Scalars) : (s.modScal w g).out = s.out := by
  obtain ⟨T, H, h⟩ := s.modScal_sameBut w g; rw [h]

/-! ### modStrm -/

@[simp] theorem State.modStrm_agenda (s : State) (w : Who) (g : Stream → Stream) : (s.modStrm w g).agenda = s.agenda := by
  obtain ⟨T, H, h⟩ := s.modStrm_sameBut w g; rw [h]
@[simp] theorem State.modStrm_cur (s : State) (w : Who) (g : Stream → Stream) : (s.modStrm w g).cur = s.cur := by
  obtain ⟨T, H, h⟩ := s.modStrm_sameBut w g; rw [h]
@[simp] theorem State.modStrm_curInsn (s : State) (w : Who) (g : Stream → Stream) : (s.modStrm w g).curInsn = s.curInsn := by
  obtain ⟨T, H, h⟩ := s.modStrm_sameBut w g; rw [h]
@[simp] theorem State.modStrm_freeCount (s : State) (w : Who) (g : Stream → Stream) : (s.modStrm w g).freeCount = s.freeCount := by
  obtain ⟨T, H, h⟩ := s.modStrm_sameBut w g; rw [h]
@[simp] theorem State.modStrm_nextId (s : State) (w : Who) (g : Stream → Stream) : (s.modStrm w g).nextId = s.nextId := by
  obtain ⟨T, H, h⟩ := s.modStrm_sameBut w g; rw [h]
@[simp] theorem State.modStrm_ccc (s : State) (w : Who) (g : Stream → Stream) : (s.modStrm w g).ccc = s.ccc := by
  obtain ⟨T, H, h⟩ := s.modStrm_sameBut w g; rw [h]
@[simp] theorem State.modStrm_hbm (s : State) (w : Who) (g : Stream → Stream) : (s.modStrm w g).hbm = s.hbm := by
  obtain ⟨T, H, h⟩ := s.modStrm_sameBut w g; rw [h]
@[simp] theorem State.modStrm_sram (s : State) (w : Who) (g : Stream → Stream) : (s.modStrm w g).sram = s.sram := by
  obtain ⟨T, H, h⟩ := s.modStrm_sameBut w g; rw [h]
@[simp] theorem State.modStrm_regs (s : State) (w : Who) (g : Stream → Stream) : (s.modStrm w g).regs = s.regs := by
  obtain ⟨T, H, h⟩ := s.modStrm_sameBut w g; rw [h]
@[simp] theorem State.modStrm_coreTlb (s : State) (w : Who) (g : Stream → Stream) : (s.modStrm w g).coreTlb = s.coreTlb := by
  obtain ⟨T, H, h⟩ := s.modStrm_sameBut w g; rw [h]
@[simp] theorem State.modStrm_entries (s : State) (w : Who) (g : Stream → Stream) : (s.modStrm w g).entries = s.entries := by
  obtain ⟨T, H, h⟩ := s.modStrm_sameBut w g; rw [h]
@[simp] theorem State.modStrm_armSeq (s : State) (w : Who) (g : Stream → Stream) : (s.modStrm w g).armSeq = s.armSeq := by
  obtain ⟨T, H, h⟩ := s.modStrm_sameBut w g; rw [h]
@[simp] theorem State.modStrm_aseq (s : State) (w : Who) (g : Stream → Stream) : (s.modStrm w g).aseq = s.aseq := by
  obtain ⟨T, H, h⟩ := s.modStrm_sameBut w g; rw [h]
@[simp] theorem State.modStrm_arrivals (s : State) (w : Who) (g : Stream → Stream) : (s.modStrm w g).arrivals = s.arrivals := by
  obtain ⟨T, H, h⟩ := s.modStrm_sameBut w g; rw [h]
@[simp] theorem State.modStrm_ux (s : State) (w : Who) (g : Stream → Stream) : (s.modStrm w g).ux = s.ux := by
  obtain ⟨T, H, h⟩ := s.modStrm_sameBut w g; rw [h]
@[simp] theorem State.modStrm_deposits (s : State) (w : Who) (g : Stream → Stream) : (s.modStrm w g).deposits = s.deposits := by
  obtain ⟨T, H, h⟩ := s.modStrm_sameBut w g; rw [h]
@[simp] theorem State.modStrm_disarmed (s : State) (w : Who) (g : Stream → Stream) : (s.modStrm w g).disarmed = s.disarmed := by
  obtain ⟨T, H, h⟩ := s.modStrm_sameBut w g; rw [h]
@[simp] theorem State.modStrm_winDel (s : State) (w : Who) (g : Stream → Stream) : (s.modStrm w g).winDel = s.winDel := by
  obtain ⟨T, H, h⟩ := s.modStrm_sameBut w g; rw [h]
@[simp] theorem State.modStrm_engSig (s : State) (w : Who) (g : Stream → Stream) : (s.modStrm w g).engSig = s.engSig := by
  obtain ⟨T, H, h⟩ := s.modStrm_sameBut w g; rw [h]
@[simp] theorem State.modStrm_ctrCmds (s : State) (w : Who) (g : Stream → Stream) : (s.modStrm w g).ctrCmds = s.ctrCmds := by
  obtain ⟨T, H, h⟩ := s.modStrm_sameBut w g; rw [h]
@[simp] theorem State.modStrm_evUsed (s : State) (w : Who) (g : Stream → Stream) : (s.modStrm w g).evUsed = s.evUsed := by
  obtain ⟨T, H, h⟩ := s.modStrm_sameBut w g; rw [h]
@[simp] theorem State.modStrm_ferryRels (s : State) (w : Who) (g : Stream → Stream) : (s.modStrm w g).ferryRels = s.ferryRels := by
  obtain ⟨T, H, h⟩ := s.modStrm_sameBut w g; rw [h]
@[simp] theorem State.modStrm_heldIn (s : State) (w : Who) (g : Stream → Stream) : (s.modStrm w g).heldIn = s.heldIn := by
  obtain ⟨T, H, h⟩ := s.modStrm_sameBut w g; rw [h]
@[simp] theorem State.modStrm_actions (s : State) (w : Who) (g : Stream → Stream) : (s.modStrm w g).actions = s.actions := by
  obtain ⟨T, H, h⟩ := s.modStrm_sameBut w g; rw [h]
@[simp] theorem State.modStrm_wakes (s : State) (w : Who) (g : Stream → Stream) : (s.modStrm w g).wakes = s.wakes := by
  obtain ⟨T, H, h⟩ := s.modStrm_sameBut w g; rw [h]
@[simp] theorem State.modStrm_tensors (s : State) (w : Who) (g : Stream → Stream) : (s.modStrm w g).tensors = s.tensors := by
  obtain ⟨T, H, h⟩ := s.modStrm_sameBut w g; rw [h]
@[simp] theorem State.modStrm_bindings (s : State) (w : Who) (g : Stream → Stream) : (s.modStrm w g).bindings = s.bindings := by
  obtain ⟨T, H, h⟩ := s.modStrm_sameBut w g; rw [h]
@[simp] theorem State.modStrm_stores (s : State) (w : Who) (g : Stream → Stream) : (s.modStrm w g).stores = s.stores := by
  obtain ⟨T, H, h⟩ := s.modStrm_sameBut w g; rw [h]
@[simp] theorem State.modStrm_sent (s : State) (w : Who) (g : Stream → Stream) : (s.modStrm w g).sent = s.sent := by
  obtain ⟨T, H, h⟩ := s.modStrm_sameBut w g; rw [h]
@[simp] theorem State.modStrm_sends (s : State) (w : Who) (g : Stream → Stream) : (s.modStrm w g).sends = s.sends := by
  obtain ⟨T, H, h⟩ := s.modStrm_sameBut w g; rw [h]
@[simp] theorem State.modStrm_pseqOut (s : State) (w : Who) (g : Stream → Stream) : (s.modStrm w g).pseqOut = s.pseqOut := by
  obtain ⟨T, H, h⟩ := s.modStrm_sameBut w g; rw [h]
@[simp] theorem State.modStrm_pseqIn (s : State) (w : Who) (g : Stream → Stream) : (s.modStrm w g).pseqIn = s.pseqIn := by
  obtain ⟨T, H, h⟩ := s.modStrm_sameBut w g; rw [h]
@[simp] theorem State.modStrm_discarding (s : State) (w : Who) (g : Stream → Stream) : (s.modStrm w g).discarding = s.discarding := by
  obtain ⟨T, H, h⟩ := s.modStrm_sameBut w g; rw [h]
@[simp] theorem State.modStrm_lhw (s : State) (w : Who) (g : Stream → Stream) : (s.modStrm w g).lhw = s.lhw := by
  obtain ⟨T, H, h⟩ := s.modStrm_sameBut w g; rw [h]
@[simp] theorem State.modStrm_harbour (s : State) (w : Who) (g : Stream → Stream) : (s.modStrm w g).harbour = s.harbour := by
  obtain ⟨T, H, h⟩ := s.modStrm_sameBut w g; rw [h]
@[simp] theorem State.modStrm_tokens (s : State) (w : Who) (g : Stream → Stream) : (s.modStrm w g).tokens = s.tokens := by
  obtain ⟨T, H, h⟩ := s.modStrm_sameBut w g; rw [h]
@[simp] theorem State.modStrm_tokenUse (s : State) (w : Who) (g : Stream → Stream) : (s.modStrm w g).tokenUse = s.tokenUse := by
  obtain ⟨T, H, h⟩ := s.modStrm_sameBut w g; rw [h]
@[simp] theorem State.modStrm_tokenTold (s : State) (w : Who) (g : Stream → Stream) : (s.modStrm w g).tokenTold = s.tokenTold := by
  obtain ⟨T, H, h⟩ := s.modStrm_sameBut w g; rw [h]
@[simp] theorem State.modStrm_holdTold (s : State) (w : Who) (g : Stream → Stream) : (s.modStrm w g).holdTold = s.holdTold := by
  obtain ⟨T, H, h⟩ := s.modStrm_sameBut w g; rw [h]
@[simp] theorem State.modStrm_queries (s : State) (w : Who) (g : Stream → Stream) : (s.modStrm w g).queries = s.queries := by
  obtain ⟨T, H, h⟩ := s.modStrm_sameBut w g; rw [h]
@[simp] theorem State.modStrm_links (s : State) (w : Who) (g : Stream → Stream) : (s.modStrm w g).links = s.links := by
  obtain ⟨T, H, h⟩ := s.modStrm_sameBut w g; rw [h]
@[simp] theorem State.modStrm_inq (s : State) (w : Who) (g : Stream → Stream) : (s.modStrm w g).inq = s.inq := by
  obtain ⟨T, H, h⟩ := s.modStrm_sameBut w g; rw [h]
@[simp] theorem State.modStrm_fences (s : State) (w : Who) (g : Stream → Stream) : (s.modStrm w g).fences = s.fences := by
  obtain ⟨T, H, h⟩ := s.modStrm_sameBut w g; rw [h]
@[simp] theorem State.modStrm_reds (s : State) (w : Who) (g : Stream → Stream) : (s.modStrm w g).reds = s.reds := by
  obtain ⟨T, H, h⟩ := s.modStrm_sameBut w g; rw [h]
@[simp] theorem State.modStrm_updates (s : State) (w : Who) (g : Stream → Stream) : (s.modStrm w g).updates = s.updates := by
  obtain ⟨T, H, h⟩ := s.modStrm_sameBut w g; rw [h]
@[simp] theorem State.modStrm_migrations (s : State) (w : Who) (g : Stream → Stream) : (s.modStrm w g).migrations = s.migrations := by
  obtain ⟨T, H, h⟩ := s.modStrm_sameBut w g; rw [h]
@[simp] theorem State.modStrm_copies (s : State) (w : Who) (g : Stream → Stream) : (s.modStrm w g).copies = s.copies := by
  obtain ⟨T, H, h⟩ := s.modStrm_sameBut w g; rw [h]
@[simp] theorem State.modStrm_ceLast (s : State) (w : Who) (g : Stream → Stream) : (s.modStrm w g).ceLast = s.ceLast := by
  obtain ⟨T, H, h⟩ := s.modStrm_sameBut w g; rw [h]
@[simp] theorem State.modStrm_hbmLast (s : State) (w : Who) (g : Stream → Stream) : (s.modStrm w g).hbmLast = s.hbmLast := by
  obtain ⟨T, H, h⟩ := s.modStrm_sameBut w g; rw [h]
@[simp] theorem State.modStrm_faultSigs (s : State) (w : Who) (g : Stream → Stream) : (s.modStrm w g).faultSigs = s.faultSigs := by
  obtain ⟨T, H, h⟩ := s.modStrm_sameBut w g; rw [h]
@[simp] theorem State.modStrm_colls (s : State) (w : Who) (g : Stream → Stream) : (s.modStrm w g).colls = s.colls := by
  obtain ⟨T, H, h⟩ := s.modStrm_sameBut w g; rw [h]
@[simp] theorem State.modStrm_pubs (s : State) (w : Who) (g : Stream → Stream) : (s.modStrm w g).pubs = s.pubs := by
  obtain ⟨T, H, h⟩ := s.modStrm_sameBut w g; rw [h]
@[simp] theorem State.modStrm_remoteFlags (s : State) (w : Who) (g : Stream → Stream) : (s.modStrm w g).remoteFlags = s.remoteFlags := by
  obtain ⟨T, H, h⟩ := s.modStrm_sameBut w g; rw [h]
@[simp] theorem State.modStrm_sched (s : State) (w : Who) (g : Stream → Stream) : (s.modStrm w g).sched = s.sched := by
  obtain ⟨T, H, h⟩ := s.modStrm_sameBut w g; rw [h]
@[simp] theorem State.modStrm_logs (s : State) (w : Who) (g : Stream → Stream) : (s.modStrm w g).logs = s.logs := by
  obtain ⟨T, H, h⟩ := s.modStrm_sameBut w g; rw [h]
@[simp] theorem State.modStrm_musters (s : State) (w : Who) (g : Stream → Stream) : (s.modStrm w g).musters = s.musters := by
  obtain ⟨T, H, h⟩ := s.modStrm_sameBut w g; rw [h]
@[simp] theorem State.modStrm_slotNew (s : State) (w : Who) (g : Stream → Stream) : (s.modStrm w g).slotNew = s.slotNew := by
  obtain ⟨T, H, h⟩ := s.modStrm_sameBut w g; rw [h]
@[simp] theorem State.modStrm_hostTlps (s : State) (w : Who) (g : Stream → Stream) : (s.modStrm w g).hostTlps = s.hostTlps := by
  obtain ⟨T, H, h⟩ := s.modStrm_sameBut w g; rw [h]
@[simp] theorem State.modStrm_snapAt (s : State) (w : Who) (g : Stream → Stream) : (s.modStrm w g).snapAt = s.snapAt := by
  obtain ⟨T, H, h⟩ := s.modStrm_sameBut w g; rw [h]
@[simp] theorem State.modStrm_unitSnap (s : State) (w : Who) (g : Stream → Stream) : (s.modStrm w g).unitSnap = s.unitSnap := by
  obtain ⟨T, H, h⟩ := s.modStrm_sameBut w g; rw [h]
@[simp] theorem State.modStrm_saveFrames (s : State) (w : Who) (g : Stream → Stream) : (s.modStrm w g).saveFrames = s.saveFrames := by
  obtain ⟨T, H, h⟩ := s.modStrm_sameBut w g; rw [h]
@[simp] theorem State.modStrm_destroying (s : State) (w : Who) (g : Stream → Stream) : (s.modStrm w g).destroying = s.destroying := by
  obtain ⟨T, H, h⟩ := s.modStrm_sameBut w g; rw [h]
@[simp] theorem State.modStrm_pkg (s : State) (w : Who) (g : Stream → Stream) : (s.modStrm w g).pkg = s.pkg := by
  obtain ⟨T, H, h⟩ := s.modStrm_sameBut w g; rw [h]
@[simp] theorem State.modStrm_out (s : State) (w : Who) (g : Stream → Stream) : (s.modStrm w g).out = s.out := by
  obtain ⟨T, H, h⟩ := s.modStrm_sameBut w g; rw [h]

/-! ### stalled -/

@[simp] theorem State.stalled_agenda (s : State) (k : Stall) : (s.stalled k).agenda = s.agenda := by
  obtain ⟨T, H, h⟩ := s.stalled_sameBut k; rw [h]
@[simp] theorem State.stalled_cur (s : State) (k : Stall) : (s.stalled k).cur = s.cur := by
  obtain ⟨T, H, h⟩ := s.stalled_sameBut k; rw [h]
@[simp] theorem State.stalled_curInsn (s : State) (k : Stall) : (s.stalled k).curInsn = s.curInsn := by
  obtain ⟨T, H, h⟩ := s.stalled_sameBut k; rw [h]
@[simp] theorem State.stalled_freeCount (s : State) (k : Stall) : (s.stalled k).freeCount = s.freeCount := by
  obtain ⟨T, H, h⟩ := s.stalled_sameBut k; rw [h]
@[simp] theorem State.stalled_nextId (s : State) (k : Stall) : (s.stalled k).nextId = s.nextId := by
  obtain ⟨T, H, h⟩ := s.stalled_sameBut k; rw [h]
@[simp] theorem State.stalled_ccc (s : State) (k : Stall) : (s.stalled k).ccc = s.ccc := by
  obtain ⟨T, H, h⟩ := s.stalled_sameBut k; rw [h]
@[simp] theorem State.stalled_hbm (s : State) (k : Stall) : (s.stalled k).hbm = s.hbm := by
  obtain ⟨T, H, h⟩ := s.stalled_sameBut k; rw [h]
@[simp] theorem State.stalled_sram (s : State) (k : Stall) : (s.stalled k).sram = s.sram := by
  obtain ⟨T, H, h⟩ := s.stalled_sameBut k; rw [h]
@[simp] theorem State.stalled_regs (s : State) (k : Stall) : (s.stalled k).regs = s.regs := by
  obtain ⟨T, H, h⟩ := s.stalled_sameBut k; rw [h]
@[simp] theorem State.stalled_coreTlb (s : State) (k : Stall) : (s.stalled k).coreTlb = s.coreTlb := by
  obtain ⟨T, H, h⟩ := s.stalled_sameBut k; rw [h]
@[simp] theorem State.stalled_entries (s : State) (k : Stall) : (s.stalled k).entries = s.entries := by
  obtain ⟨T, H, h⟩ := s.stalled_sameBut k; rw [h]
@[simp] theorem State.stalled_armSeq (s : State) (k : Stall) : (s.stalled k).armSeq = s.armSeq := by
  obtain ⟨T, H, h⟩ := s.stalled_sameBut k; rw [h]
@[simp] theorem State.stalled_aseq (s : State) (k : Stall) : (s.stalled k).aseq = s.aseq := by
  obtain ⟨T, H, h⟩ := s.stalled_sameBut k; rw [h]
@[simp] theorem State.stalled_arrivals (s : State) (k : Stall) : (s.stalled k).arrivals = s.arrivals := by
  obtain ⟨T, H, h⟩ := s.stalled_sameBut k; rw [h]
@[simp] theorem State.stalled_ux (s : State) (k : Stall) : (s.stalled k).ux = s.ux := by
  obtain ⟨T, H, h⟩ := s.stalled_sameBut k; rw [h]
@[simp] theorem State.stalled_deposits (s : State) (k : Stall) : (s.stalled k).deposits = s.deposits := by
  obtain ⟨T, H, h⟩ := s.stalled_sameBut k; rw [h]
@[simp] theorem State.stalled_disarmed (s : State) (k : Stall) : (s.stalled k).disarmed = s.disarmed := by
  obtain ⟨T, H, h⟩ := s.stalled_sameBut k; rw [h]
@[simp] theorem State.stalled_winDel (s : State) (k : Stall) : (s.stalled k).winDel = s.winDel := by
  obtain ⟨T, H, h⟩ := s.stalled_sameBut k; rw [h]
@[simp] theorem State.stalled_engSig (s : State) (k : Stall) : (s.stalled k).engSig = s.engSig := by
  obtain ⟨T, H, h⟩ := s.stalled_sameBut k; rw [h]
@[simp] theorem State.stalled_ctrCmds (s : State) (k : Stall) : (s.stalled k).ctrCmds = s.ctrCmds := by
  obtain ⟨T, H, h⟩ := s.stalled_sameBut k; rw [h]
@[simp] theorem State.stalled_evUsed (s : State) (k : Stall) : (s.stalled k).evUsed = s.evUsed := by
  obtain ⟨T, H, h⟩ := s.stalled_sameBut k; rw [h]
@[simp] theorem State.stalled_ferryRels (s : State) (k : Stall) : (s.stalled k).ferryRels = s.ferryRels := by
  obtain ⟨T, H, h⟩ := s.stalled_sameBut k; rw [h]
@[simp] theorem State.stalled_heldIn (s : State) (k : Stall) : (s.stalled k).heldIn = s.heldIn := by
  obtain ⟨T, H, h⟩ := s.stalled_sameBut k; rw [h]
@[simp] theorem State.stalled_actions (s : State) (k : Stall) : (s.stalled k).actions = s.actions := by
  obtain ⟨T, H, h⟩ := s.stalled_sameBut k; rw [h]
@[simp] theorem State.stalled_wakes (s : State) (k : Stall) : (s.stalled k).wakes = s.wakes := by
  obtain ⟨T, H, h⟩ := s.stalled_sameBut k; rw [h]
@[simp] theorem State.stalled_tensors (s : State) (k : Stall) : (s.stalled k).tensors = s.tensors := by
  obtain ⟨T, H, h⟩ := s.stalled_sameBut k; rw [h]
@[simp] theorem State.stalled_bindings (s : State) (k : Stall) : (s.stalled k).bindings = s.bindings := by
  obtain ⟨T, H, h⟩ := s.stalled_sameBut k; rw [h]
@[simp] theorem State.stalled_stores (s : State) (k : Stall) : (s.stalled k).stores = s.stores := by
  obtain ⟨T, H, h⟩ := s.stalled_sameBut k; rw [h]
@[simp] theorem State.stalled_sent (s : State) (k : Stall) : (s.stalled k).sent = s.sent := by
  obtain ⟨T, H, h⟩ := s.stalled_sameBut k; rw [h]
@[simp] theorem State.stalled_sends (s : State) (k : Stall) : (s.stalled k).sends = s.sends := by
  obtain ⟨T, H, h⟩ := s.stalled_sameBut k; rw [h]
@[simp] theorem State.stalled_pseqOut (s : State) (k : Stall) : (s.stalled k).pseqOut = s.pseqOut := by
  obtain ⟨T, H, h⟩ := s.stalled_sameBut k; rw [h]
@[simp] theorem State.stalled_pseqIn (s : State) (k : Stall) : (s.stalled k).pseqIn = s.pseqIn := by
  obtain ⟨T, H, h⟩ := s.stalled_sameBut k; rw [h]
@[simp] theorem State.stalled_discarding (s : State) (k : Stall) : (s.stalled k).discarding = s.discarding := by
  obtain ⟨T, H, h⟩ := s.stalled_sameBut k; rw [h]
@[simp] theorem State.stalled_lhw (s : State) (k : Stall) : (s.stalled k).lhw = s.lhw := by
  obtain ⟨T, H, h⟩ := s.stalled_sameBut k; rw [h]
@[simp] theorem State.stalled_harbour (s : State) (k : Stall) : (s.stalled k).harbour = s.harbour := by
  obtain ⟨T, H, h⟩ := s.stalled_sameBut k; rw [h]
@[simp] theorem State.stalled_tokens (s : State) (k : Stall) : (s.stalled k).tokens = s.tokens := by
  obtain ⟨T, H, h⟩ := s.stalled_sameBut k; rw [h]
@[simp] theorem State.stalled_tokenUse (s : State) (k : Stall) : (s.stalled k).tokenUse = s.tokenUse := by
  obtain ⟨T, H, h⟩ := s.stalled_sameBut k; rw [h]
@[simp] theorem State.stalled_tokenTold (s : State) (k : Stall) : (s.stalled k).tokenTold = s.tokenTold := by
  obtain ⟨T, H, h⟩ := s.stalled_sameBut k; rw [h]
@[simp] theorem State.stalled_holdTold (s : State) (k : Stall) : (s.stalled k).holdTold = s.holdTold := by
  obtain ⟨T, H, h⟩ := s.stalled_sameBut k; rw [h]
@[simp] theorem State.stalled_queries (s : State) (k : Stall) : (s.stalled k).queries = s.queries := by
  obtain ⟨T, H, h⟩ := s.stalled_sameBut k; rw [h]
@[simp] theorem State.stalled_links (s : State) (k : Stall) : (s.stalled k).links = s.links := by
  obtain ⟨T, H, h⟩ := s.stalled_sameBut k; rw [h]
@[simp] theorem State.stalled_inq (s : State) (k : Stall) : (s.stalled k).inq = s.inq := by
  obtain ⟨T, H, h⟩ := s.stalled_sameBut k; rw [h]
@[simp] theorem State.stalled_fences (s : State) (k : Stall) : (s.stalled k).fences = s.fences := by
  obtain ⟨T, H, h⟩ := s.stalled_sameBut k; rw [h]
@[simp] theorem State.stalled_reds (s : State) (k : Stall) : (s.stalled k).reds = s.reds := by
  obtain ⟨T, H, h⟩ := s.stalled_sameBut k; rw [h]
@[simp] theorem State.stalled_updates (s : State) (k : Stall) : (s.stalled k).updates = s.updates := by
  obtain ⟨T, H, h⟩ := s.stalled_sameBut k; rw [h]
@[simp] theorem State.stalled_migrations (s : State) (k : Stall) : (s.stalled k).migrations = s.migrations := by
  obtain ⟨T, H, h⟩ := s.stalled_sameBut k; rw [h]
@[simp] theorem State.stalled_copies (s : State) (k : Stall) : (s.stalled k).copies = s.copies := by
  obtain ⟨T, H, h⟩ := s.stalled_sameBut k; rw [h]
@[simp] theorem State.stalled_ceLast (s : State) (k : Stall) : (s.stalled k).ceLast = s.ceLast := by
  obtain ⟨T, H, h⟩ := s.stalled_sameBut k; rw [h]
@[simp] theorem State.stalled_hbmLast (s : State) (k : Stall) : (s.stalled k).hbmLast = s.hbmLast := by
  obtain ⟨T, H, h⟩ := s.stalled_sameBut k; rw [h]
@[simp] theorem State.stalled_faultSigs (s : State) (k : Stall) : (s.stalled k).faultSigs = s.faultSigs := by
  obtain ⟨T, H, h⟩ := s.stalled_sameBut k; rw [h]
@[simp] theorem State.stalled_colls (s : State) (k : Stall) : (s.stalled k).colls = s.colls := by
  obtain ⟨T, H, h⟩ := s.stalled_sameBut k; rw [h]
@[simp] theorem State.stalled_pubs (s : State) (k : Stall) : (s.stalled k).pubs = s.pubs := by
  obtain ⟨T, H, h⟩ := s.stalled_sameBut k; rw [h]
@[simp] theorem State.stalled_remoteFlags (s : State) (k : Stall) : (s.stalled k).remoteFlags = s.remoteFlags := by
  obtain ⟨T, H, h⟩ := s.stalled_sameBut k; rw [h]
@[simp] theorem State.stalled_sched (s : State) (k : Stall) : (s.stalled k).sched = s.sched := by
  obtain ⟨T, H, h⟩ := s.stalled_sameBut k; rw [h]
@[simp] theorem State.stalled_logs (s : State) (k : Stall) : (s.stalled k).logs = s.logs := by
  obtain ⟨T, H, h⟩ := s.stalled_sameBut k; rw [h]
@[simp] theorem State.stalled_musters (s : State) (k : Stall) : (s.stalled k).musters = s.musters := by
  obtain ⟨T, H, h⟩ := s.stalled_sameBut k; rw [h]
@[simp] theorem State.stalled_slotNew (s : State) (k : Stall) : (s.stalled k).slotNew = s.slotNew := by
  obtain ⟨T, H, h⟩ := s.stalled_sameBut k; rw [h]
@[simp] theorem State.stalled_hostTlps (s : State) (k : Stall) : (s.stalled k).hostTlps = s.hostTlps := by
  obtain ⟨T, H, h⟩ := s.stalled_sameBut k; rw [h]
@[simp] theorem State.stalled_snapAt (s : State) (k : Stall) : (s.stalled k).snapAt = s.snapAt := by
  obtain ⟨T, H, h⟩ := s.stalled_sameBut k; rw [h]
@[simp] theorem State.stalled_unitSnap (s : State) (k : Stall) : (s.stalled k).unitSnap = s.unitSnap := by
  obtain ⟨T, H, h⟩ := s.stalled_sameBut k; rw [h]
@[simp] theorem State.stalled_saveFrames (s : State) (k : Stall) : (s.stalled k).saveFrames = s.saveFrames := by
  obtain ⟨T, H, h⟩ := s.stalled_sameBut k; rw [h]
@[simp] theorem State.stalled_destroying (s : State) (k : Stall) : (s.stalled k).destroying = s.destroying := by
  obtain ⟨T, H, h⟩ := s.stalled_sameBut k; rw [h]
@[simp] theorem State.stalled_pkg (s : State) (k : Stall) : (s.stalled k).pkg = s.pkg := by
  obtain ⟨T, H, h⟩ := s.stalled_sameBut k; rw [h]
@[simp] theorem State.stalled_out (s : State) (k : Stall) : (s.stalled k).out = s.out := by
  obtain ⟨T, H, h⟩ := s.stalled_sameBut k; rw [h]

/-! ### retire -/

@[simp] theorem State.retire_agenda (s : State) (n : Nat) : (s.retire n).agenda = s.agenda := by
  obtain ⟨T, H, h⟩ := s.retire_sameBut n; rw [h]
@[simp] theorem State.retire_cur (s : State) (n : Nat) : (s.retire n).cur = s.cur := by
  obtain ⟨T, H, h⟩ := s.retire_sameBut n; rw [h]
@[simp] theorem State.retire_curInsn (s : State) (n : Nat) : (s.retire n).curInsn = s.curInsn := by
  obtain ⟨T, H, h⟩ := s.retire_sameBut n; rw [h]
@[simp] theorem State.retire_freeCount (s : State) (n : Nat) : (s.retire n).freeCount = s.freeCount := by
  obtain ⟨T, H, h⟩ := s.retire_sameBut n; rw [h]
@[simp] theorem State.retire_nextId (s : State) (n : Nat) : (s.retire n).nextId = s.nextId := by
  obtain ⟨T, H, h⟩ := s.retire_sameBut n; rw [h]
@[simp] theorem State.retire_ccc (s : State) (n : Nat) : (s.retire n).ccc = s.ccc := by
  obtain ⟨T, H, h⟩ := s.retire_sameBut n; rw [h]
@[simp] theorem State.retire_hbm (s : State) (n : Nat) : (s.retire n).hbm = s.hbm := by
  obtain ⟨T, H, h⟩ := s.retire_sameBut n; rw [h]
@[simp] theorem State.retire_sram (s : State) (n : Nat) : (s.retire n).sram = s.sram := by
  obtain ⟨T, H, h⟩ := s.retire_sameBut n; rw [h]
@[simp] theorem State.retire_regs (s : State) (n : Nat) : (s.retire n).regs = s.regs := by
  obtain ⟨T, H, h⟩ := s.retire_sameBut n; rw [h]
@[simp] theorem State.retire_coreTlb (s : State) (n : Nat) : (s.retire n).coreTlb = s.coreTlb := by
  obtain ⟨T, H, h⟩ := s.retire_sameBut n; rw [h]
@[simp] theorem State.retire_entries (s : State) (n : Nat) : (s.retire n).entries = s.entries := by
  obtain ⟨T, H, h⟩ := s.retire_sameBut n; rw [h]
@[simp] theorem State.retire_armSeq (s : State) (n : Nat) : (s.retire n).armSeq = s.armSeq := by
  obtain ⟨T, H, h⟩ := s.retire_sameBut n; rw [h]
@[simp] theorem State.retire_aseq (s : State) (n : Nat) : (s.retire n).aseq = s.aseq := by
  obtain ⟨T, H, h⟩ := s.retire_sameBut n; rw [h]
@[simp] theorem State.retire_arrivals (s : State) (n : Nat) : (s.retire n).arrivals = s.arrivals := by
  obtain ⟨T, H, h⟩ := s.retire_sameBut n; rw [h]
@[simp] theorem State.retire_ux (s : State) (n : Nat) : (s.retire n).ux = s.ux := by
  obtain ⟨T, H, h⟩ := s.retire_sameBut n; rw [h]
@[simp] theorem State.retire_deposits (s : State) (n : Nat) : (s.retire n).deposits = s.deposits := by
  obtain ⟨T, H, h⟩ := s.retire_sameBut n; rw [h]
@[simp] theorem State.retire_disarmed (s : State) (n : Nat) : (s.retire n).disarmed = s.disarmed := by
  obtain ⟨T, H, h⟩ := s.retire_sameBut n; rw [h]
@[simp] theorem State.retire_winDel (s : State) (n : Nat) : (s.retire n).winDel = s.winDel := by
  obtain ⟨T, H, h⟩ := s.retire_sameBut n; rw [h]
@[simp] theorem State.retire_engSig (s : State) (n : Nat) : (s.retire n).engSig = s.engSig := by
  obtain ⟨T, H, h⟩ := s.retire_sameBut n; rw [h]
@[simp] theorem State.retire_ctrCmds (s : State) (n : Nat) : (s.retire n).ctrCmds = s.ctrCmds := by
  obtain ⟨T, H, h⟩ := s.retire_sameBut n; rw [h]
@[simp] theorem State.retire_evUsed (s : State) (n : Nat) : (s.retire n).evUsed = s.evUsed := by
  obtain ⟨T, H, h⟩ := s.retire_sameBut n; rw [h]
@[simp] theorem State.retire_ferryRels (s : State) (n : Nat) : (s.retire n).ferryRels = s.ferryRels := by
  obtain ⟨T, H, h⟩ := s.retire_sameBut n; rw [h]
@[simp] theorem State.retire_heldIn (s : State) (n : Nat) : (s.retire n).heldIn = s.heldIn := by
  obtain ⟨T, H, h⟩ := s.retire_sameBut n; rw [h]
@[simp] theorem State.retire_actions (s : State) (n : Nat) : (s.retire n).actions = s.actions := by
  obtain ⟨T, H, h⟩ := s.retire_sameBut n; rw [h]
@[simp] theorem State.retire_wakes (s : State) (n : Nat) : (s.retire n).wakes = s.wakes := by
  obtain ⟨T, H, h⟩ := s.retire_sameBut n; rw [h]
@[simp] theorem State.retire_tensors (s : State) (n : Nat) : (s.retire n).tensors = s.tensors := by
  obtain ⟨T, H, h⟩ := s.retire_sameBut n; rw [h]
@[simp] theorem State.retire_bindings (s : State) (n : Nat) : (s.retire n).bindings = s.bindings := by
  obtain ⟨T, H, h⟩ := s.retire_sameBut n; rw [h]
@[simp] theorem State.retire_stores (s : State) (n : Nat) : (s.retire n).stores = s.stores := by
  obtain ⟨T, H, h⟩ := s.retire_sameBut n; rw [h]
@[simp] theorem State.retire_sent (s : State) (n : Nat) : (s.retire n).sent = s.sent := by
  obtain ⟨T, H, h⟩ := s.retire_sameBut n; rw [h]
@[simp] theorem State.retire_sends (s : State) (n : Nat) : (s.retire n).sends = s.sends := by
  obtain ⟨T, H, h⟩ := s.retire_sameBut n; rw [h]
@[simp] theorem State.retire_pseqOut (s : State) (n : Nat) : (s.retire n).pseqOut = s.pseqOut := by
  obtain ⟨T, H, h⟩ := s.retire_sameBut n; rw [h]
@[simp] theorem State.retire_pseqIn (s : State) (n : Nat) : (s.retire n).pseqIn = s.pseqIn := by
  obtain ⟨T, H, h⟩ := s.retire_sameBut n; rw [h]
@[simp] theorem State.retire_discarding (s : State) (n : Nat) : (s.retire n).discarding = s.discarding := by
  obtain ⟨T, H, h⟩ := s.retire_sameBut n; rw [h]
@[simp] theorem State.retire_lhw (s : State) (n : Nat) : (s.retire n).lhw = s.lhw := by
  obtain ⟨T, H, h⟩ := s.retire_sameBut n; rw [h]
@[simp] theorem State.retire_harbour (s : State) (n : Nat) : (s.retire n).harbour = s.harbour := by
  obtain ⟨T, H, h⟩ := s.retire_sameBut n; rw [h]
@[simp] theorem State.retire_tokens (s : State) (n : Nat) : (s.retire n).tokens = s.tokens := by
  obtain ⟨T, H, h⟩ := s.retire_sameBut n; rw [h]
@[simp] theorem State.retire_tokenUse (s : State) (n : Nat) : (s.retire n).tokenUse = s.tokenUse := by
  obtain ⟨T, H, h⟩ := s.retire_sameBut n; rw [h]
@[simp] theorem State.retire_tokenTold (s : State) (n : Nat) : (s.retire n).tokenTold = s.tokenTold := by
  obtain ⟨T, H, h⟩ := s.retire_sameBut n; rw [h]
@[simp] theorem State.retire_holdTold (s : State) (n : Nat) : (s.retire n).holdTold = s.holdTold := by
  obtain ⟨T, H, h⟩ := s.retire_sameBut n; rw [h]
@[simp] theorem State.retire_queries (s : State) (n : Nat) : (s.retire n).queries = s.queries := by
  obtain ⟨T, H, h⟩ := s.retire_sameBut n; rw [h]
@[simp] theorem State.retire_links (s : State) (n : Nat) : (s.retire n).links = s.links := by
  obtain ⟨T, H, h⟩ := s.retire_sameBut n; rw [h]
@[simp] theorem State.retire_inq (s : State) (n : Nat) : (s.retire n).inq = s.inq := by
  obtain ⟨T, H, h⟩ := s.retire_sameBut n; rw [h]
@[simp] theorem State.retire_fences (s : State) (n : Nat) : (s.retire n).fences = s.fences := by
  obtain ⟨T, H, h⟩ := s.retire_sameBut n; rw [h]
@[simp] theorem State.retire_reds (s : State) (n : Nat) : (s.retire n).reds = s.reds := by
  obtain ⟨T, H, h⟩ := s.retire_sameBut n; rw [h]
@[simp] theorem State.retire_updates (s : State) (n : Nat) : (s.retire n).updates = s.updates := by
  obtain ⟨T, H, h⟩ := s.retire_sameBut n; rw [h]
@[simp] theorem State.retire_migrations (s : State) (n : Nat) : (s.retire n).migrations = s.migrations := by
  obtain ⟨T, H, h⟩ := s.retire_sameBut n; rw [h]
@[simp] theorem State.retire_copies (s : State) (n : Nat) : (s.retire n).copies = s.copies := by
  obtain ⟨T, H, h⟩ := s.retire_sameBut n; rw [h]
@[simp] theorem State.retire_ceLast (s : State) (n : Nat) : (s.retire n).ceLast = s.ceLast := by
  obtain ⟨T, H, h⟩ := s.retire_sameBut n; rw [h]
@[simp] theorem State.retire_hbmLast (s : State) (n : Nat) : (s.retire n).hbmLast = s.hbmLast := by
  obtain ⟨T, H, h⟩ := s.retire_sameBut n; rw [h]
@[simp] theorem State.retire_faultSigs (s : State) (n : Nat) : (s.retire n).faultSigs = s.faultSigs := by
  obtain ⟨T, H, h⟩ := s.retire_sameBut n; rw [h]
@[simp] theorem State.retire_colls (s : State) (n : Nat) : (s.retire n).colls = s.colls := by
  obtain ⟨T, H, h⟩ := s.retire_sameBut n; rw [h]
@[simp] theorem State.retire_pubs (s : State) (n : Nat) : (s.retire n).pubs = s.pubs := by
  obtain ⟨T, H, h⟩ := s.retire_sameBut n; rw [h]
@[simp] theorem State.retire_remoteFlags (s : State) (n : Nat) : (s.retire n).remoteFlags = s.remoteFlags := by
  obtain ⟨T, H, h⟩ := s.retire_sameBut n; rw [h]
@[simp] theorem State.retire_sched (s : State) (n : Nat) : (s.retire n).sched = s.sched := by
  obtain ⟨T, H, h⟩ := s.retire_sameBut n; rw [h]
@[simp] theorem State.retire_logs (s : State) (n : Nat) : (s.retire n).logs = s.logs := by
  obtain ⟨T, H, h⟩ := s.retire_sameBut n; rw [h]
@[simp] theorem State.retire_musters (s : State) (n : Nat) : (s.retire n).musters = s.musters := by
  obtain ⟨T, H, h⟩ := s.retire_sameBut n; rw [h]
@[simp] theorem State.retire_slotNew (s : State) (n : Nat) : (s.retire n).slotNew = s.slotNew := by
  obtain ⟨T, H, h⟩ := s.retire_sameBut n; rw [h]
@[simp] theorem State.retire_hostTlps (s : State) (n : Nat) : (s.retire n).hostTlps = s.hostTlps := by
  obtain ⟨T, H, h⟩ := s.retire_sameBut n; rw [h]
@[simp] theorem State.retire_snapAt (s : State) (n : Nat) : (s.retire n).snapAt = s.snapAt := by
  obtain ⟨T, H, h⟩ := s.retire_sameBut n; rw [h]
@[simp] theorem State.retire_unitSnap (s : State) (n : Nat) : (s.retire n).unitSnap = s.unitSnap := by
  obtain ⟨T, H, h⟩ := s.retire_sameBut n; rw [h]
@[simp] theorem State.retire_saveFrames (s : State) (n : Nat) : (s.retire n).saveFrames = s.saveFrames := by
  obtain ⟨T, H, h⟩ := s.retire_sameBut n; rw [h]
@[simp] theorem State.retire_destroying (s : State) (n : Nat) : (s.retire n).destroying = s.destroying := by
  obtain ⟨T, H, h⟩ := s.retire_sameBut n; rw [h]
@[simp] theorem State.retire_pkg (s : State) (n : Nat) : (s.retire n).pkg = s.pkg := by
  obtain ⟨T, H, h⟩ := s.retire_sameBut n; rw [h]
@[simp] theorem State.retire_out (s : State) (n : Nat) : (s.retire n).out = s.out := by
  obtain ⟨T, H, h⟩ := s.retire_sameBut n; rw [h]

/-! ### jump -/

@[simp] theorem State.jump_agenda (s : State) (a : Word) (n : Nat) : (s.jump a n).agenda = s.agenda := by
  obtain ⟨T, H, h⟩ := s.jump_sameBut a n; rw [h]
@[simp] theorem State.jump_cur (s : State) (a : Word) (n : Nat) : (s.jump a n).cur = s.cur := by
  obtain ⟨T, H, h⟩ := s.jump_sameBut a n; rw [h]
@[simp] theorem State.jump_curInsn (s : State) (a : Word) (n : Nat) : (s.jump a n).curInsn = s.curInsn := by
  obtain ⟨T, H, h⟩ := s.jump_sameBut a n; rw [h]
@[simp] theorem State.jump_freeCount (s : State) (a : Word) (n : Nat) : (s.jump a n).freeCount = s.freeCount := by
  obtain ⟨T, H, h⟩ := s.jump_sameBut a n; rw [h]
@[simp] theorem State.jump_nextId (s : State) (a : Word) (n : Nat) : (s.jump a n).nextId = s.nextId := by
  obtain ⟨T, H, h⟩ := s.jump_sameBut a n; rw [h]
@[simp] theorem State.jump_ccc (s : State) (a : Word) (n : Nat) : (s.jump a n).ccc = s.ccc := by
  obtain ⟨T, H, h⟩ := s.jump_sameBut a n; rw [h]
@[simp] theorem State.jump_hbm (s : State) (a : Word) (n : Nat) : (s.jump a n).hbm = s.hbm := by
  obtain ⟨T, H, h⟩ := s.jump_sameBut a n; rw [h]
@[simp] theorem State.jump_sram (s : State) (a : Word) (n : Nat) : (s.jump a n).sram = s.sram := by
  obtain ⟨T, H, h⟩ := s.jump_sameBut a n; rw [h]
@[simp] theorem State.jump_regs (s : State) (a : Word) (n : Nat) : (s.jump a n).regs = s.regs := by
  obtain ⟨T, H, h⟩ := s.jump_sameBut a n; rw [h]
@[simp] theorem State.jump_coreTlb (s : State) (a : Word) (n : Nat) : (s.jump a n).coreTlb = s.coreTlb := by
  obtain ⟨T, H, h⟩ := s.jump_sameBut a n; rw [h]
@[simp] theorem State.jump_entries (s : State) (a : Word) (n : Nat) : (s.jump a n).entries = s.entries := by
  obtain ⟨T, H, h⟩ := s.jump_sameBut a n; rw [h]
@[simp] theorem State.jump_armSeq (s : State) (a : Word) (n : Nat) : (s.jump a n).armSeq = s.armSeq := by
  obtain ⟨T, H, h⟩ := s.jump_sameBut a n; rw [h]
@[simp] theorem State.jump_aseq (s : State) (a : Word) (n : Nat) : (s.jump a n).aseq = s.aseq := by
  obtain ⟨T, H, h⟩ := s.jump_sameBut a n; rw [h]
@[simp] theorem State.jump_arrivals (s : State) (a : Word) (n : Nat) : (s.jump a n).arrivals = s.arrivals := by
  obtain ⟨T, H, h⟩ := s.jump_sameBut a n; rw [h]
@[simp] theorem State.jump_ux (s : State) (a : Word) (n : Nat) : (s.jump a n).ux = s.ux := by
  obtain ⟨T, H, h⟩ := s.jump_sameBut a n; rw [h]
@[simp] theorem State.jump_deposits (s : State) (a : Word) (n : Nat) : (s.jump a n).deposits = s.deposits := by
  obtain ⟨T, H, h⟩ := s.jump_sameBut a n; rw [h]
@[simp] theorem State.jump_disarmed (s : State) (a : Word) (n : Nat) : (s.jump a n).disarmed = s.disarmed := by
  obtain ⟨T, H, h⟩ := s.jump_sameBut a n; rw [h]
@[simp] theorem State.jump_winDel (s : State) (a : Word) (n : Nat) : (s.jump a n).winDel = s.winDel := by
  obtain ⟨T, H, h⟩ := s.jump_sameBut a n; rw [h]
@[simp] theorem State.jump_engSig (s : State) (a : Word) (n : Nat) : (s.jump a n).engSig = s.engSig := by
  obtain ⟨T, H, h⟩ := s.jump_sameBut a n; rw [h]
@[simp] theorem State.jump_ctrCmds (s : State) (a : Word) (n : Nat) : (s.jump a n).ctrCmds = s.ctrCmds := by
  obtain ⟨T, H, h⟩ := s.jump_sameBut a n; rw [h]
@[simp] theorem State.jump_evUsed (s : State) (a : Word) (n : Nat) : (s.jump a n).evUsed = s.evUsed := by
  obtain ⟨T, H, h⟩ := s.jump_sameBut a n; rw [h]
@[simp] theorem State.jump_ferryRels (s : State) (a : Word) (n : Nat) : (s.jump a n).ferryRels = s.ferryRels := by
  obtain ⟨T, H, h⟩ := s.jump_sameBut a n; rw [h]
@[simp] theorem State.jump_heldIn (s : State) (a : Word) (n : Nat) : (s.jump a n).heldIn = s.heldIn := by
  obtain ⟨T, H, h⟩ := s.jump_sameBut a n; rw [h]
@[simp] theorem State.jump_actions (s : State) (a : Word) (n : Nat) : (s.jump a n).actions = s.actions := by
  obtain ⟨T, H, h⟩ := s.jump_sameBut a n; rw [h]
@[simp] theorem State.jump_wakes (s : State) (a : Word) (n : Nat) : (s.jump a n).wakes = s.wakes := by
  obtain ⟨T, H, h⟩ := s.jump_sameBut a n; rw [h]
@[simp] theorem State.jump_tensors (s : State) (a : Word) (n : Nat) : (s.jump a n).tensors = s.tensors := by
  obtain ⟨T, H, h⟩ := s.jump_sameBut a n; rw [h]
@[simp] theorem State.jump_bindings (s : State) (a : Word) (n : Nat) : (s.jump a n).bindings = s.bindings := by
  obtain ⟨T, H, h⟩ := s.jump_sameBut a n; rw [h]
@[simp] theorem State.jump_stores (s : State) (a : Word) (n : Nat) : (s.jump a n).stores = s.stores := by
  obtain ⟨T, H, h⟩ := s.jump_sameBut a n; rw [h]
@[simp] theorem State.jump_sent (s : State) (a : Word) (n : Nat) : (s.jump a n).sent = s.sent := by
  obtain ⟨T, H, h⟩ := s.jump_sameBut a n; rw [h]
@[simp] theorem State.jump_sends (s : State) (a : Word) (n : Nat) : (s.jump a n).sends = s.sends := by
  obtain ⟨T, H, h⟩ := s.jump_sameBut a n; rw [h]
@[simp] theorem State.jump_pseqOut (s : State) (a : Word) (n : Nat) : (s.jump a n).pseqOut = s.pseqOut := by
  obtain ⟨T, H, h⟩ := s.jump_sameBut a n; rw [h]
@[simp] theorem State.jump_pseqIn (s : State) (a : Word) (n : Nat) : (s.jump a n).pseqIn = s.pseqIn := by
  obtain ⟨T, H, h⟩ := s.jump_sameBut a n; rw [h]
@[simp] theorem State.jump_discarding (s : State) (a : Word) (n : Nat) : (s.jump a n).discarding = s.discarding := by
  obtain ⟨T, H, h⟩ := s.jump_sameBut a n; rw [h]
@[simp] theorem State.jump_lhw (s : State) (a : Word) (n : Nat) : (s.jump a n).lhw = s.lhw := by
  obtain ⟨T, H, h⟩ := s.jump_sameBut a n; rw [h]
@[simp] theorem State.jump_harbour (s : State) (a : Word) (n : Nat) : (s.jump a n).harbour = s.harbour := by
  obtain ⟨T, H, h⟩ := s.jump_sameBut a n; rw [h]
@[simp] theorem State.jump_tokens (s : State) (a : Word) (n : Nat) : (s.jump a n).tokens = s.tokens := by
  obtain ⟨T, H, h⟩ := s.jump_sameBut a n; rw [h]
@[simp] theorem State.jump_tokenUse (s : State) (a : Word) (n : Nat) : (s.jump a n).tokenUse = s.tokenUse := by
  obtain ⟨T, H, h⟩ := s.jump_sameBut a n; rw [h]
@[simp] theorem State.jump_tokenTold (s : State) (a : Word) (n : Nat) : (s.jump a n).tokenTold = s.tokenTold := by
  obtain ⟨T, H, h⟩ := s.jump_sameBut a n; rw [h]
@[simp] theorem State.jump_holdTold (s : State) (a : Word) (n : Nat) : (s.jump a n).holdTold = s.holdTold := by
  obtain ⟨T, H, h⟩ := s.jump_sameBut a n; rw [h]
@[simp] theorem State.jump_queries (s : State) (a : Word) (n : Nat) : (s.jump a n).queries = s.queries := by
  obtain ⟨T, H, h⟩ := s.jump_sameBut a n; rw [h]
@[simp] theorem State.jump_links (s : State) (a : Word) (n : Nat) : (s.jump a n).links = s.links := by
  obtain ⟨T, H, h⟩ := s.jump_sameBut a n; rw [h]
@[simp] theorem State.jump_inq (s : State) (a : Word) (n : Nat) : (s.jump a n).inq = s.inq := by
  obtain ⟨T, H, h⟩ := s.jump_sameBut a n; rw [h]
@[simp] theorem State.jump_fences (s : State) (a : Word) (n : Nat) : (s.jump a n).fences = s.fences := by
  obtain ⟨T, H, h⟩ := s.jump_sameBut a n; rw [h]
@[simp] theorem State.jump_reds (s : State) (a : Word) (n : Nat) : (s.jump a n).reds = s.reds := by
  obtain ⟨T, H, h⟩ := s.jump_sameBut a n; rw [h]
@[simp] theorem State.jump_updates (s : State) (a : Word) (n : Nat) : (s.jump a n).updates = s.updates := by
  obtain ⟨T, H, h⟩ := s.jump_sameBut a n; rw [h]
@[simp] theorem State.jump_migrations (s : State) (a : Word) (n : Nat) : (s.jump a n).migrations = s.migrations := by
  obtain ⟨T, H, h⟩ := s.jump_sameBut a n; rw [h]
@[simp] theorem State.jump_copies (s : State) (a : Word) (n : Nat) : (s.jump a n).copies = s.copies := by
  obtain ⟨T, H, h⟩ := s.jump_sameBut a n; rw [h]
@[simp] theorem State.jump_ceLast (s : State) (a : Word) (n : Nat) : (s.jump a n).ceLast = s.ceLast := by
  obtain ⟨T, H, h⟩ := s.jump_sameBut a n; rw [h]
@[simp] theorem State.jump_hbmLast (s : State) (a : Word) (n : Nat) : (s.jump a n).hbmLast = s.hbmLast := by
  obtain ⟨T, H, h⟩ := s.jump_sameBut a n; rw [h]
@[simp] theorem State.jump_faultSigs (s : State) (a : Word) (n : Nat) : (s.jump a n).faultSigs = s.faultSigs := by
  obtain ⟨T, H, h⟩ := s.jump_sameBut a n; rw [h]
@[simp] theorem State.jump_colls (s : State) (a : Word) (n : Nat) : (s.jump a n).colls = s.colls := by
  obtain ⟨T, H, h⟩ := s.jump_sameBut a n; rw [h]
@[simp] theorem State.jump_pubs (s : State) (a : Word) (n : Nat) : (s.jump a n).pubs = s.pubs := by
  obtain ⟨T, H, h⟩ := s.jump_sameBut a n; rw [h]
@[simp] theorem State.jump_remoteFlags (s : State) (a : Word) (n : Nat) : (s.jump a n).remoteFlags = s.remoteFlags := by
  obtain ⟨T, H, h⟩ := s.jump_sameBut a n; rw [h]
@[simp] theorem State.jump_sched (s : State) (a : Word) (n : Nat) : (s.jump a n).sched = s.sched := by
  obtain ⟨T, H, h⟩ := s.jump_sameBut a n; rw [h]
@[simp] theorem State.jump_logs (s : State) (a : Word) (n : Nat) : (s.jump a n).logs = s.logs := by
  obtain ⟨T, H, h⟩ := s.jump_sameBut a n; rw [h]
@[simp] theorem State.jump_musters (s : State) (a : Word) (n : Nat) : (s.jump a n).musters = s.musters := by
  obtain ⟨T, H, h⟩ := s.jump_sameBut a n; rw [h]
@[simp] theorem State.jump_slotNew (s : State) (a : Word) (n : Nat) : (s.jump a n).slotNew = s.slotNew := by
  obtain ⟨T, H, h⟩ := s.jump_sameBut a n; rw [h]
@[simp] theorem State.jump_hostTlps (s : State) (a : Word) (n : Nat) : (s.jump a n).hostTlps = s.hostTlps := by
  obtain ⟨T, H, h⟩ := s.jump_sameBut a n; rw [h]
@[simp] theorem State.jump_snapAt (s : State) (a : Word) (n : Nat) : (s.jump a n).snapAt = s.snapAt := by
  obtain ⟨T, H, h⟩ := s.jump_sameBut a n; rw [h]
@[simp] theorem State.jump_unitSnap (s : State) (a : Word) (n : Nat) : (s.jump a n).unitSnap = s.unitSnap := by
  obtain ⟨T, H, h⟩ := s.jump_sameBut a n; rw [h]
@[simp] theorem State.jump_saveFrames (s : State) (a : Word) (n : Nat) : (s.jump a n).saveFrames = s.saveFrames := by
  obtain ⟨T, H, h⟩ := s.jump_sameBut a n; rw [h]
@[simp] theorem State.jump_destroying (s : State) (a : Word) (n : Nat) : (s.jump a n).destroying = s.destroying := by
  obtain ⟨T, H, h⟩ := s.jump_sameBut a n; rw [h]
@[simp] theorem State.jump_pkg (s : State) (a : Word) (n : Nat) : (s.jump a n).pkg = s.pkg := by
  obtain ⟨T, H, h⟩ := s.jump_sameBut a n; rw [h]
@[simp] theorem State.jump_out (s : State) (a : Word) (n : Nat) : (s.jump a n).out = s.out := by
  obtain ⟨T, H, h⟩ := s.jump_sameBut a n; rw [h]

theorem State.SameBut.withId {s t : State} (h : s.SameBut t) (k : Nat) : State.SameBut { s with nextId := k } { t with nextId := k } := by
  obtain ⟨T, H, rfl⟩ := h
  exact ⟨T, H, rfl⟩

/-- A result enters the pipeline: tiles, threads and the next identity. -/
theorem State.fixed_sameBut (s : State) (d : BitVec 6) (l : Nat) (v a b : Word) (r : Bool) :
    ∃ k, State.SameBut { s with nextId := k } (s.fixed d l v a b r) := by
  unfold State.fixed
  split
  · exact ⟨s.nextId, .refl s⟩
  · exact ⟨s.nextId + 1, (s.modScal_sameBut _ _).withId _⟩

theorem State.startOp_sameBut (s : State) (d : BitVec 6) (k : VarKind) (n : Nat) (m : Bool) (a b : Word) :
    ∃ k', State.SameBut { s with nextId := k' } (s.startOp d k n m a b) := by
  exact ⟨s.nextId + 1, (s.modScal_sameBut _ _).withId _⟩

/-! ### fixed -/

@[simp] theorem State.fixed_agenda (s : State) (d : BitVec 6) (l : Nat) (v a b : Word) (r : Bool) : (s.fixed d l v a b r).agenda = s.agenda := by
  obtain ⟨_, T, H, h⟩ := s.fixed_sameBut d l v a b r; rw [h]
@[simp] theorem State.fixed_cur (s : State) (d : BitVec 6) (l : Nat) (v a b : Word) (r : Bool) : (s.fixed d l v a b r).cur = s.cur := by
  obtain ⟨_, T, H, h⟩ := s.fixed_sameBut d l v a b r; rw [h]
@[simp] theorem State.fixed_curInsn (s : State) (d : BitVec 6) (l : Nat) (v a b : Word) (r : Bool) : (s.fixed d l v a b r).curInsn = s.curInsn := by
  obtain ⟨_, T, H, h⟩ := s.fixed_sameBut d l v a b r; rw [h]
@[simp] theorem State.fixed_freeCount (s : State) (d : BitVec 6) (l : Nat) (v a b : Word) (r : Bool) : (s.fixed d l v a b r).freeCount = s.freeCount := by
  obtain ⟨_, T, H, h⟩ := s.fixed_sameBut d l v a b r; rw [h]
@[simp] theorem State.fixed_ccc (s : State) (d : BitVec 6) (l : Nat) (v a b : Word) (r : Bool) : (s.fixed d l v a b r).ccc = s.ccc := by
  obtain ⟨_, T, H, h⟩ := s.fixed_sameBut d l v a b r; rw [h]
@[simp] theorem State.fixed_hbm (s : State) (d : BitVec 6) (l : Nat) (v a b : Word) (r : Bool) : (s.fixed d l v a b r).hbm = s.hbm := by
  obtain ⟨_, T, H, h⟩ := s.fixed_sameBut d l v a b r; rw [h]
@[simp] theorem State.fixed_sram (s : State) (d : BitVec 6) (l : Nat) (v a b : Word) (r : Bool) : (s.fixed d l v a b r).sram = s.sram := by
  obtain ⟨_, T, H, h⟩ := s.fixed_sameBut d l v a b r; rw [h]
@[simp] theorem State.fixed_regs (s : State) (d : BitVec 6) (l : Nat) (v a b : Word) (r : Bool) : (s.fixed d l v a b r).regs = s.regs := by
  obtain ⟨_, T, H, h⟩ := s.fixed_sameBut d l v a b r; rw [h]
@[simp] theorem State.fixed_coreTlb (s : State) (d : BitVec 6) (l : Nat) (v a b : Word) (r : Bool) : (s.fixed d l v a b r).coreTlb = s.coreTlb := by
  obtain ⟨_, T, H, h⟩ := s.fixed_sameBut d l v a b r; rw [h]
@[simp] theorem State.fixed_entries (s : State) (d : BitVec 6) (l : Nat) (v a b : Word) (r : Bool) : (s.fixed d l v a b r).entries = s.entries := by
  obtain ⟨_, T, H, h⟩ := s.fixed_sameBut d l v a b r; rw [h]
@[simp] theorem State.fixed_armSeq (s : State) (d : BitVec 6) (l : Nat) (v a b : Word) (r : Bool) : (s.fixed d l v a b r).armSeq = s.armSeq := by
  obtain ⟨_, T, H, h⟩ := s.fixed_sameBut d l v a b r; rw [h]
@[simp] theorem State.fixed_aseq (s : State) (d : BitVec 6) (l : Nat) (v a b : Word) (r : Bool) : (s.fixed d l v a b r).aseq = s.aseq := by
  obtain ⟨_, T, H, h⟩ := s.fixed_sameBut d l v a b r; rw [h]
@[simp] theorem State.fixed_arrivals (s : State) (d : BitVec 6) (l : Nat) (v a b : Word) (r : Bool) : (s.fixed d l v a b r).arrivals = s.arrivals := by
  obtain ⟨_, T, H, h⟩ := s.fixed_sameBut d l v a b r; rw [h]
@[simp] theorem State.fixed_ux (s : State) (d : BitVec 6) (l : Nat) (v a b : Word) (r : Bool) : (s.fixed d l v a b r).ux = s.ux := by
  obtain ⟨_, T, H, h⟩ := s.fixed_sameBut d l v a b r; rw [h]
@[simp] theorem State.fixed_deposits (s : State) (d : BitVec 6) (l : Nat) (v a b : Word) (r : Bool) : (s.fixed d l v a b r).deposits = s.deposits := by
  obtain ⟨_, T, H, h⟩ := s.fixed_sameBut d l v a b r; rw [h]
@[simp] theorem State.fixed_disarmed (s : State) (d : BitVec 6) (l : Nat) (v a b : Word) (r : Bool) : (s.fixed d l v a b r).disarmed = s.disarmed := by
  obtain ⟨_, T, H, h⟩ := s.fixed_sameBut d l v a b r; rw [h]
@[simp] theorem State.fixed_winDel (s : State) (d : BitVec 6) (l : Nat) (v a b : Word) (r : Bool) : (s.fixed d l v a b r).winDel = s.winDel := by
  obtain ⟨_, T, H, h⟩ := s.fixed_sameBut d l v a b r; rw [h]
@[simp] theorem State.fixed_engSig (s : State) (d : BitVec 6) (l : Nat) (v a b : Word) (r : Bool) : (s.fixed d l v a b r).engSig = s.engSig := by
  obtain ⟨_, T, H, h⟩ := s.fixed_sameBut d l v a b r; rw [h]
@[simp] theorem State.fixed_ctrCmds (s : State) (d : BitVec 6) (l : Nat) (v a b : Word) (r : Bool) : (s.fixed d l v a b r).ctrCmds = s.ctrCmds := by
  obtain ⟨_, T, H, h⟩ := s.fixed_sameBut d l v a b r; rw [h]
@[simp] theorem State.fixed_evUsed (s : State) (d : BitVec 6) (l : Nat) (v a b : Word) (r : Bool) : (s.fixed d l v a b r).evUsed = s.evUsed := by
  obtain ⟨_, T, H, h⟩ := s.fixed_sameBut d l v a b r; rw [h]
@[simp] theorem State.fixed_ferryRels (s : State) (d : BitVec 6) (l : Nat) (v a b : Word) (r : Bool) : (s.fixed d l v a b r).ferryRels = s.ferryRels := by
  obtain ⟨_, T, H, h⟩ := s.fixed_sameBut d l v a b r; rw [h]
@[simp] theorem State.fixed_heldIn (s : State) (d : BitVec 6) (l : Nat) (v a b : Word) (r : Bool) : (s.fixed d l v a b r).heldIn = s.heldIn := by
  obtain ⟨_, T, H, h⟩ := s.fixed_sameBut d l v a b r; rw [h]
@[simp] theorem State.fixed_actions (s : State) (d : BitVec 6) (l : Nat) (v a b : Word) (r : Bool) : (s.fixed d l v a b r).actions = s.actions := by
  obtain ⟨_, T, H, h⟩ := s.fixed_sameBut d l v a b r; rw [h]
@[simp] theorem State.fixed_wakes (s : State) (d : BitVec 6) (l : Nat) (v a b : Word) (r : Bool) : (s.fixed d l v a b r).wakes = s.wakes := by
  obtain ⟨_, T, H, h⟩ := s.fixed_sameBut d l v a b r; rw [h]
@[simp] theorem State.fixed_tensors (s : State) (d : BitVec 6) (l : Nat) (v a b : Word) (r : Bool) : (s.fixed d l v a b r).tensors = s.tensors := by
  obtain ⟨_, T, H, h⟩ := s.fixed_sameBut d l v a b r; rw [h]
@[simp] theorem State.fixed_bindings (s : State) (d : BitVec 6) (l : Nat) (v a b : Word) (r : Bool) : (s.fixed d l v a b r).bindings = s.bindings := by
  obtain ⟨_, T, H, h⟩ := s.fixed_sameBut d l v a b r; rw [h]
@[simp] theorem State.fixed_stores (s : State) (d : BitVec 6) (l : Nat) (v a b : Word) (r : Bool) : (s.fixed d l v a b r).stores = s.stores := by
  obtain ⟨_, T, H, h⟩ := s.fixed_sameBut d l v a b r; rw [h]
@[simp] theorem State.fixed_sent (s : State) (d : BitVec 6) (l : Nat) (v a b : Word) (r : Bool) : (s.fixed d l v a b r).sent = s.sent := by
  obtain ⟨_, T, H, h⟩ := s.fixed_sameBut d l v a b r; rw [h]
@[simp] theorem State.fixed_sends (s : State) (d : BitVec 6) (l : Nat) (v a b : Word) (r : Bool) : (s.fixed d l v a b r).sends = s.sends := by
  obtain ⟨_, T, H, h⟩ := s.fixed_sameBut d l v a b r; rw [h]
@[simp] theorem State.fixed_pseqOut (s : State) (d : BitVec 6) (l : Nat) (v a b : Word) (r : Bool) : (s.fixed d l v a b r).pseqOut = s.pseqOut := by
  obtain ⟨_, T, H, h⟩ := s.fixed_sameBut d l v a b r; rw [h]
@[simp] theorem State.fixed_pseqIn (s : State) (d : BitVec 6) (l : Nat) (v a b : Word) (r : Bool) : (s.fixed d l v a b r).pseqIn = s.pseqIn := by
  obtain ⟨_, T, H, h⟩ := s.fixed_sameBut d l v a b r; rw [h]
@[simp] theorem State.fixed_discarding (s : State) (d : BitVec 6) (l : Nat) (v a b : Word) (r : Bool) : (s.fixed d l v a b r).discarding = s.discarding := by
  obtain ⟨_, T, H, h⟩ := s.fixed_sameBut d l v a b r; rw [h]
@[simp] theorem State.fixed_lhw (s : State) (d : BitVec 6) (l : Nat) (v a b : Word) (r : Bool) : (s.fixed d l v a b r).lhw = s.lhw := by
  obtain ⟨_, T, H, h⟩ := s.fixed_sameBut d l v a b r; rw [h]
@[simp] theorem State.fixed_harbour (s : State) (d : BitVec 6) (l : Nat) (v a b : Word) (r : Bool) : (s.fixed d l v a b r).harbour = s.harbour := by
  obtain ⟨_, T, H, h⟩ := s.fixed_sameBut d l v a b r; rw [h]
@[simp] theorem State.fixed_tokens (s : State) (d : BitVec 6) (l : Nat) (v a b : Word) (r : Bool) : (s.fixed d l v a b r).tokens = s.tokens := by
  obtain ⟨_, T, H, h⟩ := s.fixed_sameBut d l v a b r; rw [h]
@[simp] theorem State.fixed_tokenUse (s : State) (d : BitVec 6) (l : Nat) (v a b : Word) (r : Bool) : (s.fixed d l v a b r).tokenUse = s.tokenUse := by
  obtain ⟨_, T, H, h⟩ := s.fixed_sameBut d l v a b r; rw [h]
@[simp] theorem State.fixed_tokenTold (s : State) (d : BitVec 6) (l : Nat) (v a b : Word) (r : Bool) : (s.fixed d l v a b r).tokenTold = s.tokenTold := by
  obtain ⟨_, T, H, h⟩ := s.fixed_sameBut d l v a b r; rw [h]
@[simp] theorem State.fixed_holdTold (s : State) (d : BitVec 6) (l : Nat) (v a b : Word) (r : Bool) : (s.fixed d l v a b r).holdTold = s.holdTold := by
  obtain ⟨_, T, H, h⟩ := s.fixed_sameBut d l v a b r; rw [h]
@[simp] theorem State.fixed_queries (s : State) (d : BitVec 6) (l : Nat) (v a b : Word) (r : Bool) : (s.fixed d l v a b r).queries = s.queries := by
  obtain ⟨_, T, H, h⟩ := s.fixed_sameBut d l v a b r; rw [h]
@[simp] theorem State.fixed_links (s : State) (d : BitVec 6) (l : Nat) (v a b : Word) (r : Bool) : (s.fixed d l v a b r).links = s.links := by
  obtain ⟨_, T, H, h⟩ := s.fixed_sameBut d l v a b r; rw [h]
@[simp] theorem State.fixed_inq (s : State) (d : BitVec 6) (l : Nat) (v a b : Word) (r : Bool) : (s.fixed d l v a b r).inq = s.inq := by
  obtain ⟨_, T, H, h⟩ := s.fixed_sameBut d l v a b r; rw [h]
@[simp] theorem State.fixed_fences (s : State) (d : BitVec 6) (l : Nat) (v a b : Word) (r : Bool) : (s.fixed d l v a b r).fences = s.fences := by
  obtain ⟨_, T, H, h⟩ := s.fixed_sameBut d l v a b r; rw [h]
@[simp] theorem State.fixed_reds (s : State) (d : BitVec 6) (l : Nat) (v a b : Word) (r : Bool) : (s.fixed d l v a b r).reds = s.reds := by
  obtain ⟨_, T, H, h⟩ := s.fixed_sameBut d l v a b r; rw [h]
@[simp] theorem State.fixed_updates (s : State) (d : BitVec 6) (l : Nat) (v a b : Word) (r : Bool) : (s.fixed d l v a b r).updates = s.updates := by
  obtain ⟨_, T, H, h⟩ := s.fixed_sameBut d l v a b r; rw [h]
@[simp] theorem State.fixed_migrations (s : State) (d : BitVec 6) (l : Nat) (v a b : Word) (r : Bool) : (s.fixed d l v a b r).migrations = s.migrations := by
  obtain ⟨_, T, H, h⟩ := s.fixed_sameBut d l v a b r; rw [h]
@[simp] theorem State.fixed_copies (s : State) (d : BitVec 6) (l : Nat) (v a b : Word) (r : Bool) : (s.fixed d l v a b r).copies = s.copies := by
  obtain ⟨_, T, H, h⟩ := s.fixed_sameBut d l v a b r; rw [h]
@[simp] theorem State.fixed_ceLast (s : State) (d : BitVec 6) (l : Nat) (v a b : Word) (r : Bool) : (s.fixed d l v a b r).ceLast = s.ceLast := by
  obtain ⟨_, T, H, h⟩ := s.fixed_sameBut d l v a b r; rw [h]
@[simp] theorem State.fixed_hbmLast (s : State) (d : BitVec 6) (l : Nat) (v a b : Word) (r : Bool) : (s.fixed d l v a b r).hbmLast = s.hbmLast := by
  obtain ⟨_, T, H, h⟩ := s.fixed_sameBut d l v a b r; rw [h]
@[simp] theorem State.fixed_faultSigs (s : State) (d : BitVec 6) (l : Nat) (v a b : Word) (r : Bool) : (s.fixed d l v a b r).faultSigs = s.faultSigs := by
  obtain ⟨_, T, H, h⟩ := s.fixed_sameBut d l v a b r; rw [h]
@[simp] theorem State.fixed_colls (s : State) (d : BitVec 6) (l : Nat) (v a b : Word) (r : Bool) : (s.fixed d l v a b r).colls = s.colls := by
  obtain ⟨_, T, H, h⟩ := s.fixed_sameBut d l v a b r; rw [h]
@[simp] theorem State.fixed_pubs (s : State) (d : BitVec 6) (l : Nat) (v a b : Word) (r : Bool) : (s.fixed d l v a b r).pubs = s.pubs := by
  obtain ⟨_, T, H, h⟩ := s.fixed_sameBut d l v a b r; rw [h]
@[simp] theorem State.fixed_remoteFlags (s : State) (d : BitVec 6) (l : Nat) (v a b : Word) (r : Bool) : (s.fixed d l v a b r).remoteFlags = s.remoteFlags := by
  obtain ⟨_, T, H, h⟩ := s.fixed_sameBut d l v a b r; rw [h]
@[simp] theorem State.fixed_sched (s : State) (d : BitVec 6) (l : Nat) (v a b : Word) (r : Bool) : (s.fixed d l v a b r).sched = s.sched := by
  obtain ⟨_, T, H, h⟩ := s.fixed_sameBut d l v a b r; rw [h]
@[simp] theorem State.fixed_logs (s : State) (d : BitVec 6) (l : Nat) (v a b : Word) (r : Bool) : (s.fixed d l v a b r).logs = s.logs := by
  obtain ⟨_, T, H, h⟩ := s.fixed_sameBut d l v a b r; rw [h]
@[simp] theorem State.fixed_musters (s : State) (d : BitVec 6) (l : Nat) (v a b : Word) (r : Bool) : (s.fixed d l v a b r).musters = s.musters := by
  obtain ⟨_, T, H, h⟩ := s.fixed_sameBut d l v a b r; rw [h]
@[simp] theorem State.fixed_slotNew (s : State) (d : BitVec 6) (l : Nat) (v a b : Word) (r : Bool) : (s.fixed d l v a b r).slotNew = s.slotNew := by
  obtain ⟨_, T, H, h⟩ := s.fixed_sameBut d l v a b r; rw [h]
@[simp] theorem State.fixed_hostTlps (s : State) (d : BitVec 6) (l : Nat) (v a b : Word) (r : Bool) : (s.fixed d l v a b r).hostTlps = s.hostTlps := by
  obtain ⟨_, T, H, h⟩ := s.fixed_sameBut d l v a b r; rw [h]
@[simp] theorem State.fixed_snapAt (s : State) (d : BitVec 6) (l : Nat) (v a b : Word) (r : Bool) : (s.fixed d l v a b r).snapAt = s.snapAt := by
  obtain ⟨_, T, H, h⟩ := s.fixed_sameBut d l v a b r; rw [h]
@[simp] theorem State.fixed_unitSnap (s : State) (d : BitVec 6) (l : Nat) (v a b : Word) (r : Bool) : (s.fixed d l v a b r).unitSnap = s.unitSnap := by
  obtain ⟨_, T, H, h⟩ := s.fixed_sameBut d l v a b r; rw [h]
@[simp] theorem State.fixed_saveFrames (s : State) (d : BitVec 6) (l : Nat) (v a b : Word) (r : Bool) : (s.fixed d l v a b r).saveFrames = s.saveFrames := by
  obtain ⟨_, T, H, h⟩ := s.fixed_sameBut d l v a b r; rw [h]
@[simp] theorem State.fixed_destroying (s : State) (d : BitVec 6) (l : Nat) (v a b : Word) (r : Bool) : (s.fixed d l v a b r).destroying = s.destroying := by
  obtain ⟨_, T, H, h⟩ := s.fixed_sameBut d l v a b r; rw [h]
@[simp] theorem State.fixed_pkg (s : State) (d : BitVec 6) (l : Nat) (v a b : Word) (r : Bool) : (s.fixed d l v a b r).pkg = s.pkg := by
  obtain ⟨_, T, H, h⟩ := s.fixed_sameBut d l v a b r; rw [h]
@[simp] theorem State.fixed_out (s : State) (d : BitVec 6) (l : Nat) (v a b : Word) (r : Bool) : (s.fixed d l v a b r).out = s.out := by
  obtain ⟨_, T, H, h⟩ := s.fixed_sameBut d l v a b r; rw [h]

/-! ### startOp -/

@[simp] theorem State.startOp_agenda (s : State) (d : BitVec 6) (k : VarKind) (n : Nat) (m : Bool) (a b : Word) : (s.startOp d k n m a b).agenda = s.agenda := by
  obtain ⟨_, T, H, h⟩ := s.startOp_sameBut d k n m a b; rw [h]
@[simp] theorem State.startOp_cur (s : State) (d : BitVec 6) (k : VarKind) (n : Nat) (m : Bool) (a b : Word) : (s.startOp d k n m a b).cur = s.cur := by
  obtain ⟨_, T, H, h⟩ := s.startOp_sameBut d k n m a b; rw [h]
@[simp] theorem State.startOp_curInsn (s : State) (d : BitVec 6) (k : VarKind) (n : Nat) (m : Bool) (a b : Word) : (s.startOp d k n m a b).curInsn = s.curInsn := by
  obtain ⟨_, T, H, h⟩ := s.startOp_sameBut d k n m a b; rw [h]
@[simp] theorem State.startOp_freeCount (s : State) (d : BitVec 6) (k : VarKind) (n : Nat) (m : Bool) (a b : Word) : (s.startOp d k n m a b).freeCount = s.freeCount := by
  obtain ⟨_, T, H, h⟩ := s.startOp_sameBut d k n m a b; rw [h]
@[simp] theorem State.startOp_ccc (s : State) (d : BitVec 6) (k : VarKind) (n : Nat) (m : Bool) (a b : Word) : (s.startOp d k n m a b).ccc = s.ccc := by
  obtain ⟨_, T, H, h⟩ := s.startOp_sameBut d k n m a b; rw [h]
@[simp] theorem State.startOp_hbm (s : State) (d : BitVec 6) (k : VarKind) (n : Nat) (m : Bool) (a b : Word) : (s.startOp d k n m a b).hbm = s.hbm := by
  obtain ⟨_, T, H, h⟩ := s.startOp_sameBut d k n m a b; rw [h]
@[simp] theorem State.startOp_sram (s : State) (d : BitVec 6) (k : VarKind) (n : Nat) (m : Bool) (a b : Word) : (s.startOp d k n m a b).sram = s.sram := by
  obtain ⟨_, T, H, h⟩ := s.startOp_sameBut d k n m a b; rw [h]
@[simp] theorem State.startOp_regs (s : State) (d : BitVec 6) (k : VarKind) (n : Nat) (m : Bool) (a b : Word) : (s.startOp d k n m a b).regs = s.regs := by
  obtain ⟨_, T, H, h⟩ := s.startOp_sameBut d k n m a b; rw [h]
@[simp] theorem State.startOp_coreTlb (s : State) (d : BitVec 6) (k : VarKind) (n : Nat) (m : Bool) (a b : Word) : (s.startOp d k n m a b).coreTlb = s.coreTlb := by
  obtain ⟨_, T, H, h⟩ := s.startOp_sameBut d k n m a b; rw [h]
@[simp] theorem State.startOp_entries (s : State) (d : BitVec 6) (k : VarKind) (n : Nat) (m : Bool) (a b : Word) : (s.startOp d k n m a b).entries = s.entries := by
  obtain ⟨_, T, H, h⟩ := s.startOp_sameBut d k n m a b; rw [h]
@[simp] theorem State.startOp_armSeq (s : State) (d : BitVec 6) (k : VarKind) (n : Nat) (m : Bool) (a b : Word) : (s.startOp d k n m a b).armSeq = s.armSeq := by
  obtain ⟨_, T, H, h⟩ := s.startOp_sameBut d k n m a b; rw [h]
@[simp] theorem State.startOp_aseq (s : State) (d : BitVec 6) (k : VarKind) (n : Nat) (m : Bool) (a b : Word) : (s.startOp d k n m a b).aseq = s.aseq := by
  obtain ⟨_, T, H, h⟩ := s.startOp_sameBut d k n m a b; rw [h]
@[simp] theorem State.startOp_arrivals (s : State) (d : BitVec 6) (k : VarKind) (n : Nat) (m : Bool) (a b : Word) : (s.startOp d k n m a b).arrivals = s.arrivals := by
  obtain ⟨_, T, H, h⟩ := s.startOp_sameBut d k n m a b; rw [h]
@[simp] theorem State.startOp_ux (s : State) (d : BitVec 6) (k : VarKind) (n : Nat) (m : Bool) (a b : Word) : (s.startOp d k n m a b).ux = s.ux := by
  obtain ⟨_, T, H, h⟩ := s.startOp_sameBut d k n m a b; rw [h]
@[simp] theorem State.startOp_deposits (s : State) (d : BitVec 6) (k : VarKind) (n : Nat) (m : Bool) (a b : Word) : (s.startOp d k n m a b).deposits = s.deposits := by
  obtain ⟨_, T, H, h⟩ := s.startOp_sameBut d k n m a b; rw [h]
@[simp] theorem State.startOp_disarmed (s : State) (d : BitVec 6) (k : VarKind) (n : Nat) (m : Bool) (a b : Word) : (s.startOp d k n m a b).disarmed = s.disarmed := by
  obtain ⟨_, T, H, h⟩ := s.startOp_sameBut d k n m a b; rw [h]
@[simp] theorem State.startOp_winDel (s : State) (d : BitVec 6) (k : VarKind) (n : Nat) (m : Bool) (a b : Word) : (s.startOp d k n m a b).winDel = s.winDel := by
  obtain ⟨_, T, H, h⟩ := s.startOp_sameBut d k n m a b; rw [h]
@[simp] theorem State.startOp_engSig (s : State) (d : BitVec 6) (k : VarKind) (n : Nat) (m : Bool) (a b : Word) : (s.startOp d k n m a b).engSig = s.engSig := by
  obtain ⟨_, T, H, h⟩ := s.startOp_sameBut d k n m a b; rw [h]
@[simp] theorem State.startOp_ctrCmds (s : State) (d : BitVec 6) (k : VarKind) (n : Nat) (m : Bool) (a b : Word) : (s.startOp d k n m a b).ctrCmds = s.ctrCmds := by
  obtain ⟨_, T, H, h⟩ := s.startOp_sameBut d k n m a b; rw [h]
@[simp] theorem State.startOp_evUsed (s : State) (d : BitVec 6) (k : VarKind) (n : Nat) (m : Bool) (a b : Word) : (s.startOp d k n m a b).evUsed = s.evUsed := by
  obtain ⟨_, T, H, h⟩ := s.startOp_sameBut d k n m a b; rw [h]
@[simp] theorem State.startOp_ferryRels (s : State) (d : BitVec 6) (k : VarKind) (n : Nat) (m : Bool) (a b : Word) : (s.startOp d k n m a b).ferryRels = s.ferryRels := by
  obtain ⟨_, T, H, h⟩ := s.startOp_sameBut d k n m a b; rw [h]
@[simp] theorem State.startOp_heldIn (s : State) (d : BitVec 6) (k : VarKind) (n : Nat) (m : Bool) (a b : Word) : (s.startOp d k n m a b).heldIn = s.heldIn := by
  obtain ⟨_, T, H, h⟩ := s.startOp_sameBut d k n m a b; rw [h]
@[simp] theorem State.startOp_actions (s : State) (d : BitVec 6) (k : VarKind) (n : Nat) (m : Bool) (a b : Word) : (s.startOp d k n m a b).actions = s.actions := by
  obtain ⟨_, T, H, h⟩ := s.startOp_sameBut d k n m a b; rw [h]
@[simp] theorem State.startOp_wakes (s : State) (d : BitVec 6) (k : VarKind) (n : Nat) (m : Bool) (a b : Word) : (s.startOp d k n m a b).wakes = s.wakes := by
  obtain ⟨_, T, H, h⟩ := s.startOp_sameBut d k n m a b; rw [h]
@[simp] theorem State.startOp_tensors (s : State) (d : BitVec 6) (k : VarKind) (n : Nat) (m : Bool) (a b : Word) : (s.startOp d k n m a b).tensors = s.tensors := by
  obtain ⟨_, T, H, h⟩ := s.startOp_sameBut d k n m a b; rw [h]
@[simp] theorem State.startOp_bindings (s : State) (d : BitVec 6) (k : VarKind) (n : Nat) (m : Bool) (a b : Word) : (s.startOp d k n m a b).bindings = s.bindings := by
  obtain ⟨_, T, H, h⟩ := s.startOp_sameBut d k n m a b; rw [h]
@[simp] theorem State.startOp_stores (s : State) (d : BitVec 6) (k : VarKind) (n : Nat) (m : Bool) (a b : Word) : (s.startOp d k n m a b).stores = s.stores := by
  obtain ⟨_, T, H, h⟩ := s.startOp_sameBut d k n m a b; rw [h]
@[simp] theorem State.startOp_sent (s : State) (d : BitVec 6) (k : VarKind) (n : Nat) (m : Bool) (a b : Word) : (s.startOp d k n m a b).sent = s.sent := by
  obtain ⟨_, T, H, h⟩ := s.startOp_sameBut d k n m a b; rw [h]
@[simp] theorem State.startOp_sends (s : State) (d : BitVec 6) (k : VarKind) (n : Nat) (m : Bool) (a b : Word) : (s.startOp d k n m a b).sends = s.sends := by
  obtain ⟨_, T, H, h⟩ := s.startOp_sameBut d k n m a b; rw [h]
@[simp] theorem State.startOp_pseqOut (s : State) (d : BitVec 6) (k : VarKind) (n : Nat) (m : Bool) (a b : Word) : (s.startOp d k n m a b).pseqOut = s.pseqOut := by
  obtain ⟨_, T, H, h⟩ := s.startOp_sameBut d k n m a b; rw [h]
@[simp] theorem State.startOp_pseqIn (s : State) (d : BitVec 6) (k : VarKind) (n : Nat) (m : Bool) (a b : Word) : (s.startOp d k n m a b).pseqIn = s.pseqIn := by
  obtain ⟨_, T, H, h⟩ := s.startOp_sameBut d k n m a b; rw [h]
@[simp] theorem State.startOp_discarding (s : State) (d : BitVec 6) (k : VarKind) (n : Nat) (m : Bool) (a b : Word) : (s.startOp d k n m a b).discarding = s.discarding := by
  obtain ⟨_, T, H, h⟩ := s.startOp_sameBut d k n m a b; rw [h]
@[simp] theorem State.startOp_lhw (s : State) (d : BitVec 6) (k : VarKind) (n : Nat) (m : Bool) (a b : Word) : (s.startOp d k n m a b).lhw = s.lhw := by
  obtain ⟨_, T, H, h⟩ := s.startOp_sameBut d k n m a b; rw [h]
@[simp] theorem State.startOp_harbour (s : State) (d : BitVec 6) (k : VarKind) (n : Nat) (m : Bool) (a b : Word) : (s.startOp d k n m a b).harbour = s.harbour := by
  obtain ⟨_, T, H, h⟩ := s.startOp_sameBut d k n m a b; rw [h]
@[simp] theorem State.startOp_tokens (s : State) (d : BitVec 6) (k : VarKind) (n : Nat) (m : Bool) (a b : Word) : (s.startOp d k n m a b).tokens = s.tokens := by
  obtain ⟨_, T, H, h⟩ := s.startOp_sameBut d k n m a b; rw [h]
@[simp] theorem State.startOp_tokenUse (s : State) (d : BitVec 6) (k : VarKind) (n : Nat) (m : Bool) (a b : Word) : (s.startOp d k n m a b).tokenUse = s.tokenUse := by
  obtain ⟨_, T, H, h⟩ := s.startOp_sameBut d k n m a b; rw [h]
@[simp] theorem State.startOp_tokenTold (s : State) (d : BitVec 6) (k : VarKind) (n : Nat) (m : Bool) (a b : Word) : (s.startOp d k n m a b).tokenTold = s.tokenTold := by
  obtain ⟨_, T, H, h⟩ := s.startOp_sameBut d k n m a b; rw [h]
@[simp] theorem State.startOp_holdTold (s : State) (d : BitVec 6) (k : VarKind) (n : Nat) (m : Bool) (a b : Word) : (s.startOp d k n m a b).holdTold = s.holdTold := by
  obtain ⟨_, T, H, h⟩ := s.startOp_sameBut d k n m a b; rw [h]
@[simp] theorem State.startOp_queries (s : State) (d : BitVec 6) (k : VarKind) (n : Nat) (m : Bool) (a b : Word) : (s.startOp d k n m a b).queries = s.queries := by
  obtain ⟨_, T, H, h⟩ := s.startOp_sameBut d k n m a b; rw [h]
@[simp] theorem State.startOp_links (s : State) (d : BitVec 6) (k : VarKind) (n : Nat) (m : Bool) (a b : Word) : (s.startOp d k n m a b).links = s.links := by
  obtain ⟨_, T, H, h⟩ := s.startOp_sameBut d k n m a b; rw [h]
@[simp] theorem State.startOp_inq (s : State) (d : BitVec 6) (k : VarKind) (n : Nat) (m : Bool) (a b : Word) : (s.startOp d k n m a b).inq = s.inq := by
  obtain ⟨_, T, H, h⟩ := s.startOp_sameBut d k n m a b; rw [h]
@[simp] theorem State.startOp_fences (s : State) (d : BitVec 6) (k : VarKind) (n : Nat) (m : Bool) (a b : Word) : (s.startOp d k n m a b).fences = s.fences := by
  obtain ⟨_, T, H, h⟩ := s.startOp_sameBut d k n m a b; rw [h]
@[simp] theorem State.startOp_reds (s : State) (d : BitVec 6) (k : VarKind) (n : Nat) (m : Bool) (a b : Word) : (s.startOp d k n m a b).reds = s.reds := by
  obtain ⟨_, T, H, h⟩ := s.startOp_sameBut d k n m a b; rw [h]
@[simp] theorem State.startOp_updates (s : State) (d : BitVec 6) (k : VarKind) (n : Nat) (m : Bool) (a b : Word) : (s.startOp d k n m a b).updates = s.updates := by
  obtain ⟨_, T, H, h⟩ := s.startOp_sameBut d k n m a b; rw [h]
@[simp] theorem State.startOp_migrations (s : State) (d : BitVec 6) (k : VarKind) (n : Nat) (m : Bool) (a b : Word) : (s.startOp d k n m a b).migrations = s.migrations := by
  obtain ⟨_, T, H, h⟩ := s.startOp_sameBut d k n m a b; rw [h]
@[simp] theorem State.startOp_copies (s : State) (d : BitVec 6) (k : VarKind) (n : Nat) (m : Bool) (a b : Word) : (s.startOp d k n m a b).copies = s.copies := by
  obtain ⟨_, T, H, h⟩ := s.startOp_sameBut d k n m a b; rw [h]
@[simp] theorem State.startOp_ceLast (s : State) (d : BitVec 6) (k : VarKind) (n : Nat) (m : Bool) (a b : Word) : (s.startOp d k n m a b).ceLast = s.ceLast := by
  obtain ⟨_, T, H, h⟩ := s.startOp_sameBut d k n m a b; rw [h]
@[simp] theorem State.startOp_hbmLast (s : State) (d : BitVec 6) (k : VarKind) (n : Nat) (m : Bool) (a b : Word) : (s.startOp d k n m a b).hbmLast = s.hbmLast := by
  obtain ⟨_, T, H, h⟩ := s.startOp_sameBut d k n m a b; rw [h]
@[simp] theorem State.startOp_faultSigs (s : State) (d : BitVec 6) (k : VarKind) (n : Nat) (m : Bool) (a b : Word) : (s.startOp d k n m a b).faultSigs = s.faultSigs := by
  obtain ⟨_, T, H, h⟩ := s.startOp_sameBut d k n m a b; rw [h]
@[simp] theorem State.startOp_colls (s : State) (d : BitVec 6) (k : VarKind) (n : Nat) (m : Bool) (a b : Word) : (s.startOp d k n m a b).colls = s.colls := by
  obtain ⟨_, T, H, h⟩ := s.startOp_sameBut d k n m a b; rw [h]
@[simp] theorem State.startOp_pubs (s : State) (d : BitVec 6) (k : VarKind) (n : Nat) (m : Bool) (a b : Word) : (s.startOp d k n m a b).pubs = s.pubs := by
  obtain ⟨_, T, H, h⟩ := s.startOp_sameBut d k n m a b; rw [h]
@[simp] theorem State.startOp_remoteFlags (s : State) (d : BitVec 6) (k : VarKind) (n : Nat) (m : Bool) (a b : Word) : (s.startOp d k n m a b).remoteFlags = s.remoteFlags := by
  obtain ⟨_, T, H, h⟩ := s.startOp_sameBut d k n m a b; rw [h]
@[simp] theorem State.startOp_sched (s : State) (d : BitVec 6) (k : VarKind) (n : Nat) (m : Bool) (a b : Word) : (s.startOp d k n m a b).sched = s.sched := by
  obtain ⟨_, T, H, h⟩ := s.startOp_sameBut d k n m a b; rw [h]
@[simp] theorem State.startOp_logs (s : State) (d : BitVec 6) (k : VarKind) (n : Nat) (m : Bool) (a b : Word) : (s.startOp d k n m a b).logs = s.logs := by
  obtain ⟨_, T, H, h⟩ := s.startOp_sameBut d k n m a b; rw [h]
@[simp] theorem State.startOp_musters (s : State) (d : BitVec 6) (k : VarKind) (n : Nat) (m : Bool) (a b : Word) : (s.startOp d k n m a b).musters = s.musters := by
  obtain ⟨_, T, H, h⟩ := s.startOp_sameBut d k n m a b; rw [h]
@[simp] theorem State.startOp_slotNew (s : State) (d : BitVec 6) (k : VarKind) (n : Nat) (m : Bool) (a b : Word) : (s.startOp d k n m a b).slotNew = s.slotNew := by
  obtain ⟨_, T, H, h⟩ := s.startOp_sameBut d k n m a b; rw [h]
@[simp] theorem State.startOp_hostTlps (s : State) (d : BitVec 6) (k : VarKind) (n : Nat) (m : Bool) (a b : Word) : (s.startOp d k n m a b).hostTlps = s.hostTlps := by
  obtain ⟨_, T, H, h⟩ := s.startOp_sameBut d k n m a b; rw [h]
@[simp] theorem State.startOp_snapAt (s : State) (d : BitVec 6) (k : VarKind) (n : Nat) (m : Bool) (a b : Word) : (s.startOp d k n m a b).snapAt = s.snapAt := by
  obtain ⟨_, T, H, h⟩ := s.startOp_sameBut d k n m a b; rw [h]
@[simp] theorem State.startOp_unitSnap (s : State) (d : BitVec 6) (k : VarKind) (n : Nat) (m : Bool) (a b : Word) : (s.startOp d k n m a b).unitSnap = s.unitSnap := by
  obtain ⟨_, T, H, h⟩ := s.startOp_sameBut d k n m a b; rw [h]
@[simp] theorem State.startOp_saveFrames (s : State) (d : BitVec 6) (k : VarKind) (n : Nat) (m : Bool) (a b : Word) : (s.startOp d k n m a b).saveFrames = s.saveFrames := by
  obtain ⟨_, T, H, h⟩ := s.startOp_sameBut d k n m a b; rw [h]
@[simp] theorem State.startOp_destroying (s : State) (d : BitVec 6) (k : VarKind) (n : Nat) (m : Bool) (a b : Word) : (s.startOp d k n m a b).destroying = s.destroying := by
  obtain ⟨_, T, H, h⟩ := s.startOp_sameBut d k n m a b; rw [h]
@[simp] theorem State.startOp_pkg (s : State) (d : BitVec 6) (k : VarKind) (n : Nat) (m : Bool) (a b : Word) : (s.startOp d k n m a b).pkg = s.pkg := by
  obtain ⟨_, T, H, h⟩ := s.startOp_sameBut d k n m a b; rw [h]
@[simp] theorem State.startOp_out (s : State) (d : BitVec 6) (k : VarKind) (n : Nat) (m : Bool) (a b : Word) : (s.startOp d k n m a b).out = s.out := by
  obtain ⟨_, T, H, h⟩ := s.startOp_sameBut d k n m a b; rw [h]

/-! ### What is read back -/

theorem State.tile_setTile (s : State) (t u : Nat) (x : Tile) : (s.setTile t x).tile u = if u = t then x else s.tile u :=
  tget_tput Tile.idle s.tiles t u x

@[simp] theorem State.tile_setTile_self (s : State) (t : Nat) (x : Tile) : (s.setTile t x).tile t = x := by simp [State.tile_setTile]

@[simp] theorem State.tile_setTile_ne (s : State) {t u : Nat} (x : Tile) (h : u ≠ t) : (s.setTile t x).tile u = s.tile u := by
  simp [State.tile_setTile, h]

theorem State.tile_modTile (s : State) (t u : Nat) (g : Tile → Tile) :
    (s.modTile t g).tile u = if u = t then g (s.tile t) else s.tile u := State.tile_setTile s t u _

@[simp] theorem State.tile_modTile_self (s : State) (t : Nat) (g : Tile → Tile) : (s.modTile t g).tile t = g (s.tile t) := by
  simp [State.tile_modTile]

@[simp] theorem State.tile_modTile_ne (s : State) {t u : Nat} (g : Tile → Tile) (h : u ≠ t) : (s.modTile t g).tile u = s.tile u := by
  simp [State.tile_modTile, h]

theorem State.thr_setThr (s : State) (n m : Nat) (x : Thread) : (s.setThr n x).thr m = if m = n then x else s.thr m :=
  tget_tput Thread.idle s.threads n m x

theorem State.thr_modThr (s : State) (n m : Nat) (g : Thread → Thread) :
    (s.modThr n g).thr m = if m = n then g (s.thr n) else s.thr m := State.thr_setThr s n m _

@[simp] theorem State.thr_modThr_self (s : State) (n : Nat) (g : Thread → Thread) : (s.modThr n g).thr n = g (s.thr n) := by
  simp [State.thr_modThr]

theorem State.reg_setReg (s : State) (o p : Nat) (v : Word) : (s.setReg o v).reg p = if p = o then v else s.reg p := by
  unfold State.reg State.setReg
  by_cases h : p = o
  · subst h; simp
  · rw [if_neg h]; exact tget_tput_other _ _ _ _ h

@[simp] theorem State.reg_setReg_self (s : State) (o : Nat) (v : Word) : (s.setReg o v).reg o = v := by simp [State.reg_setReg]

theorem Tile.stream_setStream (x : Tile) (k j : Nat) (st : Stream) :
    (x.setStream k st).stream j = if j = k then st else x.stream j := tget_tput Stream.idle x.streams k j st

@[simp] theorem Tile.stream_setStream_self (x : Tile) (k : Nat) (st : Stream) : (x.setStream k st).stream k = st := by
  simp [Tile.stream_setStream]

theorem CtxLog.of_modLog (s : State) (c e : Nat) (g : CtxLog → CtxLog) :
    CtxLog.of (s.modLog c g) e = if e = c then g (CtxLog.of s c) else CtxLog.of s e := tget_tput CtxLog.idle s.logs c e _

theorem State.muster_modMuster (s : State) (c e : Nat) (g : Muster → Muster) :
    (s.modMuster c g).muster e = if e = c then g (s.muster c) else s.muster e := tget_tput Muster.idle s.musters c e _

@[simp] theorem State.tile_modThr (s : State) (n : Nat) (g : Thread → Thread) (t : Nat) : (s.modThr n g).tile t = s.tile t := rfl

@[simp] theorem State.thr_modTile (s : State) (t : Nat) (g : Tile → Tile) (n : Nat) : (s.modTile t g).thr n = s.thr n := rfl

@[simp] theorem State.tile_setReg (s : State) (o : Nat) (v : Word) (t : Nat) : (s.setReg o v).tile t = s.tile t := rfl

@[simp] theorem State.reg_modTile (s : State) (t : Nat) (g : Tile → Tile) (o : Nat) : (s.modTile t g).reg o = s.reg o := rfl

/-! ### Scalar registers (R231, R335) -/

@[simp] theorem Scalars.get_zero (c : Scalars) : c.get 0 = 0 := by simp [Scalars.get]

/-- s0 discards a write; any other register reads what was written, and the others as before. -/
theorem Scalars.get_set (c : Scalars) (r q : BitVec 6) (v : Word) : (c.set r v).get q = if q = r ∧ r ≠ 0 then v else c.get q := by
  unfold Scalars.set
  by_cases hr : r = 0
  · rw [if_pos hr, if_neg fun h => h.2 hr]
  · rw [if_neg hr]
    unfold Scalars.get
    by_cases hq : q = 0
    · rw [if_pos hq, if_pos hq, if_neg (fun (h : q = r ∧ r ≠ 0) => hr (h.1 ▸ hq))]
    · rw [if_neg hq, if_neg hq]
      by_cases h : q = r
      · subst h; rw [tget_tput, if_pos rfl, if_pos ⟨rfl, hr⟩]
      · rw [tget_tput, if_neg fun e => h (BitVec.eq_of_toNat_eq e), if_neg fun e => h e.1]

end Sys2Proof.Machine
end

