-- ==== Sys2Proof/Laws/Ops.lean ====
section
/-! SUPPORT. What the shared operations answer: each lemma says once all that an operation's answer tells. -/
namespace Sys2Proof.Machine
open Sys2Proof

/-! ## Answers -/

theorem Res.bind_eq_ok {α β : Type} {r : Res α} {k : α → Res β} {b : β} : r.bind k = .ok b ↔ ∃ a, r = .ok a ∧ k a = .ok b := by
  cases r <;> simp [Res.bind]

@[simp] theorem Res.ok_bind {α β : Type} (a : α) (k : α → Res β) : (Res.ok a).bind k = k a := rfl

theorem Res.check_eq_ok {b : Bool} {c : Cause} {i : Word} {u : Unit} : Res.check b c i = .ok u ↔ b = true := by
  cases b <;> simp [Res.check]

@[simp] theorem Res.check_true (c : Cause) (i : Word) : Res.check true c i = .ok () := rfl

@[simp] theorem Res.finish_ok (s t : State) : (Res.ok t).finish s = .next t := rfl

/-- An answer that goes on: it took effect, it stalls, it raised a cause, or its access was denied. -/
theorem Res.finish_eq_next {r : Res State} {s t : State} : r.finish s = .next t ↔
    r = .ok t ∨ (∃ w u, r = .stall w u ∧ t = u.stalled w) ∨ (∃ c i, r = .raise c i ∧ t = s.raise c i) ∨
      ∃ va w e, r = .denied va w e ∧ t = (s.fillTlb w e).raise .perm va := by
  cases r <;> simp [Res.finish, eq_comm]

/-- No meaning built on an answer is refused. -/
theorem Res.finish_ne_refused (r : Res State) (s : State) (x : Refusal) : r.finish s ≠ .refused x := by
  cases r <;> simp [Res.finish]

/-! ## Operands -/

theorem State.src_eq_ok {s : State} {r : BitVec 6} {trap : Bool} {v : Word} :
    s.src r trap = .ok v ↔ s.isEmpty s.cur r = false ∧ v = s.rs r := by
  unfold State.src
  cases s.isEmpty s.cur r <;> cases trap <;> simp [eq_comm]

theorem State.dst_eq_ok {s : State} {d : BitVec 6} {u : Unit} :
    s.dst d = .ok u ↔ (s.inHandler s.cur = true → d.toNat < 16) ∧ s.isEmpty s.cur d = false := by
  unfold State.dst
  cases s.inHandler s.cur <;> cases s.isEmpty s.cur d <;> simp
  split <;> simp

theorem State.onTile_eq_ok {s : State} {t : Nat} : s.onTile = .ok t ↔ ∃ k, s.cur = .stream t k := by
  unfold State.onTile
  split <;> simp_all

theorem State.onThread_eq_ok {s : State} {c : Cause} {n : Nat} : s.onThread c = .ok n ↔ s.cur = .thread n := by
  unfold State.onThread
  split <;> simp_all

theorem State.acqHeld_eq_ok {s : State} {u : Unit} : s.acqHeld = .ok u ↔ s.acquiring = false := by
  unfold State.acqHeld
  cases s.acquiring <;> simp

/-! ## Commands -/

theorem State.commandGate_eq_ok {s : State} {u : Unit} : s.commandGate = .ok u ↔ ∀ o ∈ (s.scal s.cur).ops, o.command = false := by
  unfold State.commandGate
  split <;> simp_all

/-- A command's sources are read when no command of the issuer is in flight, they are full, and d can be written. -/
theorem State.cmdSrc_eq_ok {s : State} {f : CmdE} {q : Word × Word × Word} : s.cmdSrc f = .ok q ↔
    (∀ o ∈ (s.scal s.cur).ops, o.command = false) ∧ s.isEmpty s.cur f.a = false ∧ s.isEmpty s.cur f.b = false ∧ s.isEmpty s.cur f.c = false ∧
      s.dst f.d = .ok () ∧ q = (s.rs f.a, s.rs f.b, s.rs f.c) := by
  simp only [State.cmdSrc, Res.bind_eq_ok, State.commandGate_eq_ok, State.src_eq_ok]
  constructor
  · rintro ⟨_, h0, _, ⟨h1, rfl⟩, _, ⟨h2, rfl⟩, _, ⟨h3, rfl⟩, _, h4, h5⟩
    exact ⟨h0, h1, h2, h3, h4, by simpa using h5.symm⟩
  · rintro ⟨h0, h1, h2, h3, h4, rfl⟩
    exact ⟨(), h0, _, ⟨h1, rfl⟩, _, ⟨h2, rfl⟩, _, ⟨h3, rfl⟩, (), h4, rfl⟩

/-- The event unit takes a command when it has room and nothing of an earlier cycle waits (R77, R78). -/
theorem State.eventGate_eq_ok {s t : State} :
    s.eventGate = .ok t ↔ s.eventsStall = false ∧ s.eventsBehind = false ∧ t = s.accept := by
  unfold State.eventGate
  cases s.eventsStall <;> cases s.eventsBehind <;> simp [eq_comm]

theorem State.own_eq_ok {s : State} {mine : Bool} {i : Word} {u : Unit} :
    s.own mine i = .ok u ↔ mine = true ∨ s.sysPriv s.cmdCtx = true := by
  simp [State.own, Res.check_eq_ok]

theorem State.needSys_eq_ok {s : State} {u : Unit} : s.needSys = .ok u ↔ s.sysPriv s.cmdCtx = true := by
  simp [State.needSys, Res.check_eq_ok]

/-- A counter operand: its high bits are zero, the counter is VALID, and it is the issuer's or the issuer has system privilege (R421). -/
theorem State.counterOf_eq_ok {s : State} {a : Word} {n : Nat} : s.counterOf a = .ok n ↔
    fld a 14 50 = 0 ∧ n = fld a 0 14 ∧ bit (s.reg (offCntCtl n)) 0 = true ∧ (s.ownsCnt s.cmdCtx n = true ∨ s.sysPriv s.cmdCtx = true) := by
  simp only [State.counterOf, Res.bind_eq_ok, Res.check_eq_ok, State.own_eq_ok]
  constructor
  · rintro ⟨_, h0, _, h1, _, h2, h3⟩
    obtain rfl : fld a 0 14 = n := by simpa using h3
    exact ⟨by simpa using h0, rfl, h1, h2⟩
  · rintro ⟨h0, rfl, h1, h2⟩
    exact ⟨(), by simpa using h0, (), h1, (), h2, rfl⟩

/-! ## Translation (R112) -/

theorem inHbm_eq_ok {pa q : Nat} : inHbm pa = .ok q ↔ pa < hbmEnd ∧ q = pa := by
  unfold inHbm
  split <;> simp_all [eq_comm]

/-- A translated address lies in HBM, and at most the party's TLB has changed. -/
theorem State.translate_ok {s t : State} {w : Who} {c : Nat} {va : Word} {store : Bool} {pa : Nat}
    (h : s.translate w c va store = .ok (pa, t)) : pa < hbmEnd ∧ (t = s ∨ ∃ e, t = s.fillTlb w e) := by
  have key (p : Nat) (u : State) (h : ((inHbm p).bind fun q => Res.ok (q, u)) = .ok (pa, t)) : pa < hbmEnd ∧ t = u := by
    obtain ⟨q, hq, e⟩ := Res.bind_eq_ok.1 h
    obtain ⟨hp, rfl⟩ := inHbm_eq_ok.1 hq
    cases e
    exact ⟨hp, rfl⟩
  simp only [State.translate] at h
  cases hf : (s.tlbOf w).find? (fun e => decide (e.ctx = c ∧ e.vpn = fld va 16 40 ∧ ((!e.lm) = true ∨ s.ccc < e.exp))) with
  | some e =>
    simp only [hf] at h
    split at h
    · cases h
    · exact (key _ _ h).imp_right .inl
  | none =>
    simp only [hf] at h
    split at h
    · cases h
    · split at h
      · cases h
      · split at h
        · cases h
        · split at h
          · cases h
          · exact (key _ _ h).imp_right fun e => .inr ⟨_, e⟩

end Sys2Proof.Machine
end

