-- ==== Sys2Proof/Tests/Slice0.lean ====
section
/-! SUPPORT. Tests of the model: the checks of WellFormed, words written out from the spec, and states that meet what the statements assume. -/
set_option maxRecDepth 100000
set_option Elab.async false
set_option exponentiation.threshold 4000

namespace Sys2Proof.Tests
open Sys2Proof Sys2Proof.Machine

/-! ## Ill-formed terms -/

theorem test_wf_refused_0_0 : (([
  .clz { d := 1, a := 35, b := 0, wa := false, wb := true },
  .clz { d := 1, a := 35, b := 3, wa := false, wb := false },
  .slli { d := 35, a := 31, imm := 64 },
  .j { d := 33, off := 36 },
  .flagc { d := 0, a := 0, b := 0, wa := true, wb := false },
  .flagc { d := 4, a := 5, b := 0, wa := false, wb := false },
  .disp { d := 0, a := 15, b := 0, c := 0, pv := false, pn := false, pk := 8, imm := 1023 } 13,
  .disp { d := 9, a := 15, b := 0, c := 0, pv := false, pn := false, pk := 0, imm := 65536 } 13,
  .disp { d := 32, a := 15, b := 0, c := 0, pv := false, pn := false, pk := 0, imm := 4 } 95,
  .disp { d := 9, a := 15, b := 0, c := 0, pv := false, pn := false, pk := 0, imm := 0 } 8,
  .disp { d := 9, a := 15, b := 0, c := 0, pv := false, pn := false, pk := 0, imm := 511 } 11,
  .disp { d := 9, a := 15, b := 0, c := 4, pv := false, pn := false, pk := 0, imm := 4 } 6] : List Instr).all fun i => !i.wf) = true := by decide +kernel

theorem test_wf_refused_0_1 : (([
  .sysrd { d := 2, a := 31, b := 3, wa := false, wb := false },
  .syswr { d := 32, a := 31, b := 15, wa := false, wb := false },
  .aadd { d := 33, a := 0, b := 0, wa := false, wb := false },
  .aadd { d := 2, a := 36, b := 0, wa := false, wb := false },
  .aadd { d := 1, a := 0, b := 32, wa := false, wb := false },
  .amov { d := 36, a := 0, b := 0, wa := false, wb := false },
  .lq { d := 15, a := 6, off := 16 }] : List Instr).all fun i => !i.wf) = true := by decide +kernel

theorem test_wf_accepted_0_0 : (([
  .clz { d := 1, a := 35, b := 0, wa := false, wb := false },
  .slli { d := 16, a := 31, imm := 33 },
  .j { d := 0, off := 9 },
  .flagc { d := 0, a := 0, b := 0, wa := false, wb := false },
  .disp { d := 9, a := 15, b := 0, c := 0, pv := false, pn := false, pk := 0, imm := 4 } 13,
  .sysrd { d := 31, a := 2, b := 33, wa := false, wb := false },
  .syswr { d := 6, a := 33, b := 5, wa := false, wb := false },
  .aadd { d := 2, a := 0, b := 0, wa := false, wb := false },
  .amov { d := 0, a := 0, b := 0, wa := false, wb := false },
  .lq { d := 3, a := 0, off := 16 }] : List Instr).all fun i => i.wf) = true := by decide +kernel

theorem test_wf_refused_1_0 : (([
  .sq { d := 4, a := 0, off := 6 },
  .lqg { d := 5, a := 8, b := 9, wa := false, wb := false },
  .lqt { d := 4, a := 8, b := 6, c := 0, pv := false, pn := true, pk := 0, imm := 9 },
  .lqt { d := 4, a := 0, b := 1, c := 36, pv := false, pn := false, pk := 0, imm := 35 },
  .lqt { d := 0, a := 2, b := 2, c := 0, pv := true, pn := false, pk := 1, imm := 65536 },
  .tcopy { d := 0, a := 5, b := 0, c := 0, pv := true, pn := true, pk := 0, imm := 65536 },
  .xwait { d := 0, a := 2, b := 0, wa := false, wb := false },
  .sbq { d := 0, a := 35, b := 0, wa := false, wb := false },
  .qflush { d := 0, a := 33, b := 0, wa := false, wb := false },
  .vadd { d := 0, a := 31, b := 6, c := 0, pv := false, pn := false, pk := 0, ty := 15, ty2 := 0, rm := 0, fzi := false, fzo := true, sat := false, imm := 0 },
  .vadd { d := 32, a := 31, b := 6, c := 0, pv := false, pn := false, pk := 0, ty := 4, ty2 := 0, rm := 2, fzi := false, fzo := true, sat := false, imm := 0 },
  .vadd { d := 0, a := 36, b := 0, c := 0, pv := false, pn := false, pk := 0, ty := 4, ty2 := 0, rm := 0, fzi := false, fzo := false, sat := false, imm := 0 }] : List Instr).all fun i => !i.wf) = true := by decide +kernel

theorem test_wf_refused_1_1 : (([
  .vadd { d := 0, a := 31, b := 33, c := 0, pv := false, pn := false, pk := 0, ty := 4, ty2 := 0, rm := 3, fzi := false, fzo := true, sat := false, imm := 0 },
  .vadd { d := 6, a := 0, b := 0, c := 0, pv := true, pn := false, pk := 1, ty := 1, ty2 := 1, rm := 0, fzi := true, fzo := false, sat := false, imm := 0 },
  .vadd { d := 6, a := 9, b := 4, c := 0, pv := true, pn := true, pk := 15, ty := 6, ty2 := 0, rm := 0, fzi := true, fzo := false, sat := false, imm := 3 },
  .vfma { d := 2, a := 3, b := 0, c := 63, pv := false, pn := false, pk := 0, ty := 7, ty2 := 0, rm := 0, fzi := false, fzo := false, sat := false, imm := 0 },
  .vaddi { d := 1, a := 0, b := 31, c := 0, pv := false, pn := false, pk := 0, ty := 3, ty2 := 0, rm := 3, fzi := false, fzo := false, sat := true, imm := 0 },
  .vaddi { d := 1, a := 9, b := 31, c := 0, pv := true, pn := false, pk := 0, ty := 3, ty2 := 0, rm := 0, fzi := true, fzo := false, sat := true, imm := 0 },
  .vaddi { d := 1, a := 9, b := 31, c := 0, pv := false, pn := false, pk := 0, ty := 5, ty2 := 0, rm := 0, fzi := false, fzo := true, sat := true, imm := 0 },
  .vand { d := 6, a := 7, b := 7, c := 0, pv := false, pn := false, pk := 0, ty := 2, ty2 := 0, rm := 0, fzi := false, fzo := false, sat := true, imm := 0 }] : List Instr).all fun i => !i.wf) = true := by decide +kernel

theorem test_wf_accepted_1_0 : (([
  .sq { d := 6, a := 3, off := 63 },
  .lqg { d := 3, a := 16, b := 6, wa := false, wb := false },
  .lqt { d := 4, a := 9, b := 2, c := 0, pv := true, pn := false, pk := 1, imm := 64 },
  .tcopy { d := 0, a := 0, b := 0, c := 0, pv := false, pn := false, pk := 0, imm := 3 },
  .xwait { d := 0, a := 2, b := 33, wa := false, wb := false },
  .sbq { d := 0, a := 0, b := 0, wa := false, wb := false },
  .qflush { d := 0, a := 0, b := 0, wa := false, wb := false },
  .vadd { d := 0, a := 31, b := 6, c := 0, pv := false, pn := false, pk := 0, ty := 4, ty2 := 0, rm := 0, fzi := false, fzo := true, sat := false, imm := 0 },
  .vfma { d := 2, a := 3, b := 0, c := 0, pv := false, pn := false, pk := 0, ty := 7, ty2 := 0, rm := 0, fzi := false, fzo := false, sat := false, imm := 0 },
  .vaddi { d := 1, a := 9, b := 31, c := 0, pv := false, pn := false, pk := 0, ty := 3, ty2 := 0, rm := 0, fzi := false, fzo := false, sat := true, imm := 0 },
  .vand { d := 6, a := 7, b := 31, c := 0, pv := false, pn := false, pk := 0, ty := 2, ty2 := 0, rm := 0, fzi := false, fzo := false, sat := false, imm := 0 }] : List Instr).all fun i => i.wf) = true := by decide +kernel

theorem test_wf_refused_2_0 : (([
  .vshl { d := 2, a := 8, b := 7, c := 0, pv := false, pn := false, pk := 0, ty := 0, ty2 := 0, rm := 0, fzi := false, fzo := false, sat := false, imm := 127 },
  .vcmp { d := 2, a := 15, b := 9, c := 0, pv := true, pn := false, pk := 15, ty := 6, ty2 := 0, rm := 0, fzi := false, fzo := false, sat := false, imm := 63 },
  .vmov { d := 5, a := 6, b := 0, c := 0, pv := true, pn := false, pk := 0, ty := 7, ty2 := 0, rm := 0, fzi := false, fzo := false, sat := false, imm := 32 },
  .vbcast { d := 15, a := 9, b := 0, c := 0, pv := true, pn := false, pk := 1, ty := 0, ty2 := 0, rm := 0, fzi := false, fzo := false, sat := false, imm := 127 },
  .vshuf { d := 3, a := 0, b := 2, c := 0, pv := true, pn := false, pk := 4, ty := 8, ty2 := 0, rm := 0, fzi := false, fzo := false, sat := false, imm := 9 },
  .vred { d := 31, a := 4, b := 0, c := 0, pv := true, pn := true, pk := 8, ty := 0, ty2 := 0, rm := 2, fzi := false, fzo := false, sat := false, imm := 3 },
  .vred { d := 9, a := 0, b := 0, c := 0, pv := true, pn := true, pk := 0, ty := 1, ty2 := 0, rm := 1, fzi := false, fzo := false, sat := true, imm := 0 },
  .vcvt { d := 15, a := 2, b := 0, c := 0, pv := false, pn := false, pk := 0, ty := 2, ty2 := 0, rm := 0, fzi := false, fzo := false, sat := false, imm := 64 },
  .vquant { d := 6, a := 4, b := 16, c := 0, pv := true, pn := false, pk := 15, ty := 6, ty2 := 2, rm := 1, fzi := false, fzo := false, sat := false, imm := 8 },
  .vscale { d := 4, a := 4, b := 0, c := 0, pv := false, pn := false, pk := 0, ty := 0, ty2 := 0, rm := 3, fzi := false, fzo := false, sat := false, imm := 1 },
  .cpush { d := 5, a := 1, b := 0, c := 0, pv := true, pn := false, pk := 7, ty := 5, ty2 := 0, rm := 0, fzi := false, fzo := false, sat := false, imm := 0 },
  .cpop { d := 1, a := 33, b := 0, c := 0, pv := false, pn := false, pk := 0, ty := 5, ty2 := 0, rm := 0, fzi := false, fzo := false, sat := false, imm := 4 }] : List Instr).all fun i => !i.wf) = true := by decide +kernel

theorem test_wf_refused_2_1 : (([
  .cpop { d := 15, a := 0, b := 0, c := 0, pv := false, pn := false, pk := 0, ty := 3, ty2 := 0, rm := 0, fzi := false, fzo := false, sat := false, imm := 36 },
  .kand { d := 9, a := 0, b := 0, c := 0, pv := false, pn := false, pk := 0, ty := 7, ty2 := 0, rm := 0, fzi := false, fzo := false, sat := false, imm := 0 },
  .kand { d := 36, a := 0, b := 0, c := 0, pv := false, pn := false, pk := 0, ty := 0, ty2 := 0, rm := 0, fzi := false, fzo := false, sat := false, imm := 0 },
  .kand { d := 0, a := 0, b := 5, c := 0, pv := false, pn := false, pk := 0, ty := 0, ty2 := 0, rm := 0, fzi := false, fzo := false, sat := false, imm := 0 },
  .kand { d := 9, a := 33, b := 0, c := 0, pv := false, pn := false, pk := 0, ty := 0, ty2 := 0, rm := 0, fzi := false, fzo := false, sat := false, imm := 0 },
  .kand { d := 9, a := 0, b := 32, c := 0, pv := false, pn := false, pk := 0, ty := 0, ty2 := 0, rm := 0, fzi := false, fzo := false, sat := false, imm := 0 },
  .vpop { d := 2, a := 35, b := 0, c := 0, pv := false, pn := false, pk := 0, ty := 0, ty2 := 0, rm := 0, fzi := false, fzo := false, sat := false, imm := 0 },
  .mstamp { d := 0, a := 63, b := 3, c := 0, pv := false, pn := false, pk := 0, dt := 1, ec := 1, rm := 0, sat := false, fzo := false, ty := 0 },
  .mstampAl { d := 32, a := 15, b := 8, c := 0, pv := false, pn := false, pk := 0, dt := 0, ec := 0, rm := 0, sat := false, fzo := false, ty := 0 },
  .mstampAl { d := 1, a := 0, b := 8, c := 0, pv := false, pn := false, pk := 0, dt := 0, ec := 0, rm := 0, sat := false, fzo := false, ty := 0 },
  .mstampAl { d := 1, a := 35, b := 0, c := 0, pv := false, pn := false, pk := 0, dt := 0, ec := 0, rm := 0, sat := false, fzo := false, ty := 0 },
  .mmode { d := 4, a := 0, b := 0, c := 0, pv := false, pn := false, pk := 0, dt := 6, ec := 0, rm := 0, sat := false, fzo := false, ty := 0 }] : List Instr).all fun i => !i.wf) = true := by decide +kernel

theorem test_wf_refused_2_2 : (([
  .mtscale { d := 0, a := 36, b := 36, c := 35, pv := true, pn := true, pk := 1, dt := 5, ec := 0, rm := 0, sat := false, fzo := false, ty := 0 },
  .mtscaleQ { d := 0, a := 0, b := 0, c := 0, pv := true, pn := false, pk := 9, dt := 32, ec := 2, rm := 0, sat := false, fzo := false, ty := 0 },
  .mtscaleQ { d := 3, a := 5, b := 0, c := 0, pv := true, pn := true, pk := 0, dt := 1, ec := 2, rm := 0, sat := false, fzo := false, ty := 0 },
  .mnstat { d := 5, a := 15, b := 0, c := 0, pv := true, pn := false, pk := 2, dt := 64, ec := 3, rm := 0, sat := false, fzo := false, ty := 0 }] : List Instr).all fun i => !i.wf) = true := by decide +kernel

theorem test_wf_accepted_2_0 : (([
  .vshl { d := 0, a := 0, b := 1, c := 0, pv := true, pn := false, pk := 0, ty := 1, ty2 := 0, rm := 0, fzi := false, fzo := false, sat := false, imm := 0 },
  .vcmp { d := 7, a := 8, b := 9, c := 0, pv := true, pn := false, pk := 15, ty := 0, ty2 := 0, rm := 0, fzi := false, fzo := false, sat := false, imm := 2 },
  .vmov { d := 1, a := 8, b := 0, c := 0, pv := false, pn := false, pk := 0, ty := 0, ty2 := 0, rm := 0, fzi := false, fzo := false, sat := false, imm := 0 },
  .vbcast { d := 15, a := 9, b := 0, c := 0, pv := false, pn := false, pk := 0, ty := 2, ty2 := 0, rm := 0, fzi := false, fzo := false, sat := false, imm := 0 },
  .vshuf { d := 2, a := 9, b := 15, c := 0, pv := false, pn := false, pk := 0, ty := 8, ty2 := 0, rm := 0, fzi := false, fzo := false, sat := false, imm := 3 },
  .vred { d := 4, a := 1, b := 0, c := 0, pv := true, pn := false, pk := 0, ty := 1, ty2 := 0, rm := 2, fzi := true, fzo := false, sat := false, imm := 0 },
  .vcvt { d := 15, a := 1, b := 0, c := 0, pv := true, pn := false, pk := 7, ty := 9, ty2 := 0, rm := 0, fzi := true, fzo := false, sat := true, imm := 0 },
  .vquant { d := 6, a := 4, b := 1, c := 0, pv := true, pn := false, pk := 4, ty := 6, ty2 := 2, rm := 1, fzi := false, fzo := false, sat := false, imm := 35 },
  .vscale { d := 4, a := 15, b := 0, c := 0, pv := false, pn := false, pk := 0, ty := 0, ty2 := 0, rm := 0, fzi := false, fzo := false, sat := false, imm := 3 },
  .cpush { d := 2, a := 6, b := 0, c := 0, pv := true, pn := false, pk := 5, ty := 5, ty2 := 0, rm := 0, fzi := false, fzo := false, sat := false, imm := 0 },
  .cpop { d := 15, a := 0, b := 0, c := 0, pv := false, pn := false, pk := 0, ty := 1, ty2 := 0, rm := 0, fzi := false, fzo := false, sat := false, imm := 5 },
  .kand { d := 9, a := 0, b := 0, c := 0, pv := false, pn := false, pk := 0, ty := 0, ty2 := 0, rm := 0, fzi := false, fzo := false, sat := false, imm := 0 }] : List Instr).all fun i => i.wf) = true := by decide +kernel

theorem test_wf_accepted_2_1 : (([
  .vpop { d := 15, a := 1, b := 0, c := 0, pv := true, pn := false, pk := 6, ty := 0, ty2 := 0, rm := 0, fzi := false, fzo := false, sat := false, imm := 0 },
  .mstamp { d := 0, a := 32, b := 0, c := 0, pv := false, pn := false, pk := 0, dt := 0, ec := 2, rm := 0, sat := false, fzo := false, ty := 0 },
  .mstampAl { d := 1, a := 6, b := 0, c := 0, pv := false, pn := false, pk := 0, dt := 0, ec := 0, rm := 0, sat := false, fzo := false, ty := 0 },
  .mmode { d := 0, a := 0, b := 0, c := 0, pv := false, pn := false, pk := 0, dt := 64, ec := 0, rm := 0, sat := false, fzo := false, ty := 0 },
  .mtscale { d := 0, a := 36, b := 0, c := 0, pv := true, pn := true, pk := 1, dt := 5, ec := 0, rm := 0, sat := false, fzo := false, ty := 0 },
  .mtscaleQ { d := 3, a := 0, b := 0, c := 0, pv := true, pn := true, pk := 4, dt := 127, ec := 3, rm := 0, sat := false, fzo := false, ty := 0 },
  .mnstat { d := 5, a := 3, b := 0, c := 0, pv := true, pn := false, pk := 2, dt := 64, ec := 0, rm := 0, sat := false, fzo := false, ty := 0 }] : List Instr).all fun i => i.wf) = true := by decide +kernel

theorem test_wf_refused_3_0 : (([
  .mwld { d := 31, a := 0, b := 0, c := 0, pv := true, pn := false, pk := 15, dt := 64, ec := 2, rm := 0, sat := false, fzo := false, ty := 0 },
  .mwld { d := 31, a := 0, b := 15, c := 36, pv := true, pn := false, pk := 15, dt := 31, ec := 2, rm := 0, sat := false, fzo := false, ty := 0 },
  .mwld { d := 0, a := 0, b := 0, c := 8, pv := true, pn := false, pk := 7, dt := 0, ec := 0, rm := 0, sat := false, fzo := false, ty := 0 },
  .mma { d := 31, a := 9, b := 15, c := 31, pv := true, pn := true, pk := 3, dt := 1, ec := 3, rm := 0, sat := false, fzo := false, ty := 15 },
  .mma { d := 31, a := 4, b := 15, c := 31, pv := true, pn := true, pk := 8, dt := 5, ec := 0, rm := 0, sat := false, fzo := false, ty := 2 },
  .mhad { d := 6, a := 2, b := 2, c := 4, pv := false, pn := false, pk := 0, dt := 31, ec := 3, rm := 3, sat := false, fzo := false, ty := 9 },
  .mquant { d := 4, a := 0, b := 36, c := 32, pv := true, pn := false, pk := 5, dt := 0, ec := 1, rm := 2, sat := true, fzo := false, ty := 9 },
  .arm { d := 15, a := 2, b := 0, c := 0, pv := false, pn := false, pk := 0, imm := 511 },
  .patchM { d := 33, a := 31, b := 36, c := 0, pv := false, pn := false, pk := 0, imm := 2 },
  .qctlPreempt { d := 0, a := 5, b := 3, c := 0, pv := false, pn := false, pk := 0, imm := 0 },
  .qctlRead { d := 5, a := 0, b := 63, c := 0, pv := false, pn := false, pk := 0, imm := 1024 },
  .mapVa { d := 16, a := 0, b := 63, c := 0, pv := false, pn := false, pk := 0, imm := 4096 }] : List Instr).all fun i => !i.wf) = true := by decide +kernel

theorem test_wf_refused_3_1 : (([
  .mapVa { d := 7, a := 0, b := 5, c := 0, pv := false, pn := false, pk := 0, imm := 33 },
  .mapVa { d := 7, a := 0, b := 4, c := 0, pv := false, pn := false, pk := 0, imm := 8 },
  .mapTensor { d := 35, a := 6, b := 0, c := 0, pv := false, pn := false, pk := 0, imm := 0 },
  .mapChunk { d := 36, a := 0, b := 6, c := 0, pv := false, pn := false, pk := 0, imm := 64 },
  .unmapVa { d := 32, a := 7, b := 0, c := 0, pv := false, pn := false, pk := 0, imm := 8 }] : List Instr).all fun i => !i.wf) = true := by decide +kernel

theorem test_wf_accepted_3_0 : (([
  .mwld { d := 31, a := 0, b := 15, c := 15, pv := true, pn := false, pk := 15, dt := 64, ec := 2, rm := 0, sat := false, fzo := false, ty := 0 },
  .mma { d := 31, a := 9, b := 15, c := 31, pv := true, pn := true, pk := 8, dt := 1, ec := 3, rm := 0, sat := false, fzo := false, ty := 2 },
  .mhad { d := 1, a := 0, b := 36, c := 3, pv := true, pn := false, pk := 8, dt := 1, ec := 3, rm := 0, sat := false, fzo := false, ty := 0 },
  .mquant { d := 4, a := 0, b := 2, c := 15, pv := true, pn := false, pk := 5, dt := 5, ec := 1, rm := 2, sat := true, fzo := false, ty := 9 },
  .arm { d := 0, a := 3, b := 0, c := 0, pv := false, pn := false, pk := 0, imm := 0 },
  .patchM { d := 6, a := 36, b := 0, c := 0, pv := false, pn := false, pk := 0, imm := 1 },
  .qctlPreempt { d := 3, a := 63, b := 7, c := 0, pv := false, pn := false, pk := 0, imm := 2 },
  .qctlRead { d := 3, a := 0, b := 31, c := 0, pv := false, pn := false, pk := 0, imm := 3 },
  .mapVa { d := 7, a := 0, b := 5, c := 0, pv := false, pn := false, pk := 0, imm := 0 },
  .mapTensor { d := 5, a := 8, b := 32, c := 0, pv := false, pn := false, pk := 0, imm := 33 },
  .mapChunk { d := 0, a := 8, b := 1, c := 0, pv := false, pn := false, pk := 0, imm := 2 },
  .unmapVa { d := 32, a := 9, b := 0, c := 0, pv := false, pn := false, pk := 0, imm := 16 }] : List Instr).all fun i => i.wf) = true := by decide +kernel

theorem test_wf_refused_4_0 : (([
  .muster { d := 36, a := 3, b := 3, c := 4, pv := false, pn := false, pk := 0, imm := 4096 },
  .muster { d := 0, a := 33, b := 33, c := 2, pv := false, pn := false, pk := 0, imm := 256 },
  .musterRestore { d := 32, a := 1, b := 63, c := 63, pv := false, pn := false, pk := 0, imm := 0 },
  .stepSend { is := false, pk := 33, ck := 0, cm := 3, sb := 2, db := 0, sf := true, lr := true, wd := false, ns := false, fw := false, iw := false, tr := false },
  .stepSend { is := false, pk := 33, ck := 2, cm := 1, sb := 0, db := 0, sf := true, lr := true, wd := true, ns := false, fw := false, iw := false, tr := false },
  .stepSend { is := false, pk := 7, ck := 5, cm := 1, sb := 2, db := 3, sf := true, lr := false, wd := false, ns := true, fw := false, iw := false, tr := false },
  .stepSend { is := true, pk := 31, ck := 127, cm := 2, sb := 0, db := 3, sf := false, lr := true, wd := false, ns := false, fw := true, iw := false, tr := false },
  .stepSend { is := false, pk := 33, ck := 33, cm := 1, sb := 0, db := 0, sf := true, lr := true, wd := false, ns := false, fw := false, iw := true, tr := false },
  .stepSend { is := false, pk := 33, ck := 0, cm := 1, sb := 2, db := 0, sf := false, lr := true, wd := false, ns := false, fw := false, iw := false, tr := true },
  .stepRecv { is := false, pk := 36, ck := 16, cm := 1, sb := 0, db := 0, sf := false, lr := false, wd := false, ns := false, fw := false, iw := false, tr := true },
  .stepRrs { is := false, pk := 0, ck := 1024, cm := 1, sb := 0, db := 0, sf := false, lr := false, wd := true, ns := false, fw := false, iw := true, tr := true },
  .stepRrs { is := true, pk := 9, ck := 4, cm := 0, sb := 0, db := 2, sf := false, lr := false, wd := false, ns := true, fw := false, iw := true, tr := false }] : List Instr).all fun i => !i.wf) = true := by decide +kernel

theorem test_wf_refused_4_1 : (([
  .stepLoop { count := 16, nr := false, len := 0 }] : List Instr).all fun i => !i.wf) = true := by decide +kernel

theorem test_wf_accepted_4_0 : (([
  .muster { d := 0, a := 33, b := 0, c := 0, pv := false, pn := false, pk := 0, imm := 0 },
  .musterRestore { d := 0, a := 0, b := 3, c := 0, pv := false, pn := false, pk := 0, imm := 7 },
  .stepSend { is := false, pk := 33, ck := 0, cm := 1, sb := 2, db := 0, sf := true, lr := true, wd := false, ns := false, fw := false, iw := false, tr := false },
  .stepRecv { is := true, pk := 127, ck := 5, cm := 2, sb := 0, db := 0, sf := false, lr := false, wd := false, ns := false, fw := false, iw := false, tr := false },
  .stepRrs { is := false, pk := 0, ck := 1024, cm := 1, sb := 0, db := 0, sf := false, lr := false, wd := true, ns := true, fw := false, iw := true, tr := false },
  .stepLoop { count := 16, nr := false, len := 5 }] : List Instr).all fun i => i.wf) = true := by decide +kernel
theorem test_wf_refused_unused : (([
  .blockHeader { len := 4, s := false, lcv := false, lcn := 1, count := 2 },
  .blockHeader { len := 4, s := false, lcv := true, lcn := 1, count := 2 },
  .muster { d := 0, a := 33, b := 1, c := 0, pv := false, pn := false, pk := 0, imm := 0 },
  .musterRelease { d := 0, a := 1, b := 0, c := 0, pv := false, pn := false, pk := 0, imm := 1 },
  .rstepOpen { d := 0, a := 1, b := 1, c := 0, pv := false, pn := false, pk := 0, imm := 2 },
  .mpsetVec { d := 0, a := 1, b := 1, c := 1, pv := false, pn := false, pk := 0, imm := 1 }] : List Instr).all fun i => !i.wf) = true := by decide +kernel

/-! ## Decoding (words written out from the spec's encodings: R315, R316, R322-R329) -/

theorem test_decode_integer : decodeWord .control 0b100000_000011_000001_000010_01_010011 0 =
    .ok (.div { d := 3, a := 1, b := 2, wa := false, wb := true }) := by decide +kernel
-- the example of R313: 0xD090_B002 is a MEM word of major 0x34
theorem test_decode_load : decodeHalves .control [0xD090, 0xB002] = .ok (.ldd { d := 9, a := 2, off := 2 }) := by decide +kernel
theorem test_decode_immediate : decodeWord .control 0b100101_000001_000010_10_000000_111111 0 =
    .ok (.srai { d := 1, a := 2, imm := 63 }) := by decide +kernel
theorem test_decode_shift_reserved : decodeWord .control 0b100101_000001_000010_11_000000_000001 0 = .error .illOp := by decide +kernel
theorem test_decode_branch : decodeWord .control 0b110000_000101_000011_00000000000100 0 = .ok (.bempty { a := 5, b := 0, off := 4 }) := by decide +kernel
theorem test_decode_branch_reserved : decodeWord .control 0b110000_000101_000100_00000000000100 0 = .error .rsvField := by decide +kernel
theorem test_decode_jump : decodeWord .ferry 0b110011_000111_000101_000000_10_000001 0 =
    .ok (.jalr { d := 7, a := 5, b := 0, wa := true, wb := false }) := by decide +kernel
theorem test_decode_store : decodeWord .ferry 0b110101_000111_000101_010_11111111110 0 =
    .ok (.stw { d := 7, a := 5, off := BitVec.ofInt 11 (-2) }) := by decide +kernel
theorem test_decode_spill_on_ferry : decodeWord .ferry 0b110101_000111_000101_100_00000000000 0 = .error .streamClass := by decide +kernel
theorem test_decode_atomic : decodeWord .control 0b110110_000111_000101_000110_00_011010 0 =
    .ok (.amofaddF32 { d := 7, a := 5, b := 6, wa := false, wb := false }) := by decide +kernel
theorem test_decode_sync : decodeWord .control 0b110111_000111_000101_000000_00_001001 0 =
    .ok (.flagw { d := 7, a := 5, b := 0, wa := false, wb := false }) := by decide +kernel
theorem test_decode_system : decodeWord .control 0b111001_000111_000000_000000_00_001001 0 =
    .ok (.rdwork { d := 7, a := 0, b := 0, wa := false, wb := false }) := by decide +kernel
theorem test_decode_disp : decodeWord .control 0b111000_000101_000110_000000_00001101 0b000111_0_0_0000_00000000000000000010 =
    .ok (.disp { d := 5, a := 6, b := 0, c := 7, pv := false, pn := false, pk := 0, imm := 2 } 13) := by decide +kernel
theorem test_decode_counter_command : decodeWord .ferry 0b111010_000101_000110_000111_00000010 0 =
    .ok (.cadd { d := 5, a := 6, b := 7, c := 0, pv := false, pn := false, pk := 0, imm := 0 }) := by decide +kernel
theorem test_decode_message_command : decodeWord .ferry 0b111011_000101_000110_000000_00000000 1 =
    .ok (.usend { d := 5, a := 6, b := 0, c := 0, pv := false, pn := false, pk := 0, imm := 1 }) := by decide +kernel
theorem test_decode_message_on_tile : decodeWord .control 0b111011_000101_000110_000000_00000000 1 = .error .streamClass := by decide +kernel
theorem test_decode_system_command : decodeWord .ferry 0b111100_000101_000110_000000_00001011 1 =
    .ok (.rstepCount { d := 5, a := 6, b := 0, c := 0, pv := false, pn := false, pk := 0, imm := 1 }) := by decide +kernel
theorem test_decode_unallocated : decodeWord .control 0b111101_000000_000000_000000_00_000000 0 = .error .illOp := by decide +kernel
theorem test_decode_address : decodeWord .access 0b100000_100001_000110_000000_00_000110 0 =
    .ok (.amov { d := 33, a := 6, b := 0, wa := false, wb := false }) := by decide +kernel
theorem test_decode_tensor_queue : decodeWord .access 0b100101_000101_000110_000111_00000000 0b000000_1_0_0011_00000000000000010000 =
    .ok (.lqt { d := 5, a := 6, b := 7, c := 0, pv := true, pn := false, pk := 3, imm := 16 }) := by decide +kernel
theorem test_decode_copy : decodeWord .access 0b100110_000000_000110_000000_00000011 0b000000_0_0_0000_00000000000000011001 =
    .ok (.tfill { d := 0, a := 6, b := 0, c := 0, pv := false, pn := false, pk := 0, imm := 25 }) := by decide +kernel
theorem test_decode_reflect : decodeWord .access 0b100111_000101_000110_000111_00000001 0b001000_0_0_0000_00000000000001000000 =
    .ok (.rstTk { d := 5, a := 6, b := 7, c := 8, pv := false, pn := false, pk := 0, imm := 64 }) := by decide +kernel
theorem test_decode_query : decodeWord .access 0b101000_000101_000110_000000_00_000011 0 =
    .ok (.qmark { d := 5, a := 6, b := 0, wa := false, wb := false }) := by decide +kernel
theorem test_decode_system_on_access : decodeWord .access 0b111000_000000_000000_000000_00000000 0 = .error .streamClass := by decide +kernel
theorem test_decode_vector_float : decodeWord .vector 0b100000_000001_000010_000011_00001111 0b000000_0_0_0000_0001_0000_11_0_1_0_0000000 =
    .ok (.vdiv { d := 1, a := 2, b := 3, c := 0, pv := false, pn := false, pk := 0, ty := 1, ty2 := 0, rm := 3, fzi := false, fzo := true,
                 sat := false, imm := 0 }) := by decide +kernel
theorem test_decode_vector_integer : decodeWord .vector 0b100001_000001_000010_000000_00000111 0b000000_0_0_0000_1001_0000_00_0_0_0_1000101 =
    .ok (.vshl { d := 1, a := 2, b := 0, c := 0, pv := false, pn := false, pk := 0, ty := 9, ty2 := 0, rm := 0, fzi := false, fzo := false,
                 sat := false, imm := 0x45 }) := by decide +kernel
theorem test_decode_vector_move : decodeWord .vector 0b100010_000001_000010_000011_00000110 0b000000_0_0_0000_1001_0000_00_0_0_0_0000000 =
    .ok (.vperm { d := 1, a := 2, b := 3, c := 0, pv := false, pn := false, pk := 0, ty := 9, ty2 := 0, rm := 0, fzi := false, fzo := false,
                  sat := false, imm := 0 }) := by decide +kernel
theorem test_decode_vector_convert : decodeWord .vector 0b100011_000001_000010_000011_00001001 0b000000_0_0_0000_0101_0000_00_0_0_1_0001001 =
    .ok (.vquant { d := 1, a := 2, b := 3, c := 0, pv := false, pn := false, pk := 0, ty := 5, ty2 := 0, rm := 0, fzi := false, fzo := false,
                   sat := true, imm := 9 }) := by decide +kernel
theorem test_decode_conditional : decodeWord .vector 0b100100_000001_000010_000000_00000000 0b000000_1_0_0010_0000_0000_00_0_0_0_0000000 =
    .ok (.cpush { d := 1, a := 2, b := 0, c := 0, pv := true, pn := false, pk := 2, ty := 0, ty2 := 0, rm := 0, fzi := false, fzo := false,
                  sat := false, imm := 0 }) := by decide +kernel
theorem test_decode_mask : decodeWord .vector 0b100101_000001_000010_000011_00000010 0 =
    .ok (.kxor { d := 1, a := 2, b := 3, c := 0, pv := false, pn := false, pk := 0, ty := 0, ty2 := 0, rm := 0, fzi := false, fzo := false,
                 sat := false, imm := 0 }) := by decide +kernel
theorem test_decode_vector_pop : decodeWord .vector 0b100110_000001_000010_000000_00000000 0 =
    .ok (.vpop { d := 1, a := 2, b := 0, c := 0, pv := false, pn := false, pk := 0, ty := 0, ty2 := 0, rm := 0, fzi := false, fzo := false,
                 sat := false, imm := 0 }) := by decide +kernel
theorem test_decode_matrix_mode : decodeWord .matrix 0b100000_000001_000000_000000_00000010 0b000000_0_0_0000_00000011_00_00_0_0_0000_00 =
    .ok (.mmode { d := 1, a := 0, b := 0, c := 0, pv := false, pn := false, pk := 0, dt := 3, ec := 0, rm := 0, sat := false, fzo := false,
                  ty := 0 }) := by decide +kernel
theorem test_decode_matrix_weights : decodeWord .matrix 0b100001_000000_000001_000100_00000000 0b000000_0_0_0000_00000000_01_00_0_0_0000_00 =
    .ok (.mwld { d := 0, a := 1, b := 4, c := 0, pv := false, pn := false, pk := 0, dt := 0, ec := 1, rm := 0, sat := false, fzo := false,
                 ty := 0 }) := by decide +kernel
theorem test_decode_matrix_multiply : decodeWord .matrix 0b100010_000101_000001_000000_00000000 0b000011_0_0_0000_00010000_11_00_0_0_0110_00 =
    .ok (.mma { d := 5, a := 1, b := 0, c := 3, pv := false, pn := false, pk := 0, dt := 16, ec := 3, rm := 0, sat := false, fzo := false,
                ty := 6 }) := by decide +kernel
theorem test_decode_matrix_drain : decodeWord .matrix 0b100011_000101_000000_000000_00000011 0 =
    .ok (.mzero { d := 5, a := 0, b := 0, c := 0, pv := false, pn := false, pk := 0, dt := 0, ec := 0, rm := 0, sat := false, fzo := false,
                  ty := 0 }) := by decide +kernel
theorem test_decode_compact : decodeHalves .control [0b0_01100_00101_00110] = .ok (.lddC { x := 5, y := 6 }) ∧
    decodeHalves .access [0b0_00010_00101_11111] = .ok (.aaddiC { x := 5, y := BitVec.ofInt 5 (-1) }) ∧
    decodeHalves .vector [0b0_00001_00101_00110] = .ok (.vmovC { x := 5, y := 6 }) ∧
    decodeHalves .matrix [0b0_00000_00101_00110] = .ok (.mnopC { dt := 0b10100110 }) ∧
    decodeHalves .control [0] = .ok .nopC ∧ decodeHalves .control [1] = .error .rsvField ∧ decodeHalves .vector [0b0_00010_00000_00000] = .error .illOp := by
  decide
theorem test_decode_header : decodeWord .vector 0b111111_1111111111_0_0_00_000000000001 0 =
    .ok (.blockHeader { len := 1023, s := false, lcv := false, lcn := 0, count := 1 }) := by decide +kernel
-- words as the opcode table numbers their bits
theorem test_decode_table_rows : decodeTableWord 32 0x80000000 = some (.add { d := 0, a := 0, b := 0, wa := false, wb := false }) ∧
    decodeTableWord 16 0x0400 = some (.addC { x := 0, y := 0 }) := by decide +kernel
theorem test_encode_bytes : encode (.ldd { d := 9, a := 2, off := BitVec.ofInt 11 (-1022) }) = [0x90, 0xD0, 0x02, 0xB4] := by decide +kernel

/-! ## States that meet what the statements assume

Context 0 exists with system privilege, owns tile 0, and has one page at 0x10000 in frame 5 (`State.prepared`). -/

def base : State := { State.reset.prepared [] with agenda := [] }

/-- A stream of tile 0 is at issue, of a task of context 0. -/
def wt (k : Nat) (f : Tile → Tile := id) : State := { base with tiles := [(0, f { Tile.idle with task := some placedTask })], cur := .stream 0 k }

/-- Thread 0 is at issue. -/
def wth (f : Thread → Thread := id) : State := { base with threads := [(0, f { Thread.idle with running := true })], cur := .thread 0 }

def regs (l : Tab Word) : Scalars := { Scalars.idle with regs := l }

/-- Registers of the control stream of tile 0. -/
def wr (l : Tab Word) : State := wt 0 fun x => { x with sc := regs l }

/-- Registers of thread 0. -/
def wtr (l : Tab Word) : State := wth fun x => { x with sc := regs l }

def tri (d a b : BitVec 6) : Tri := { d := d, a := a, b := b, wa := false, wb := false }

def memf (d a : BitVec 6) (off : BitVec 11) : MemF := { d := d, a := a, off := off }

def cmde (d a b c : BitVec 6) (imm : BitVec 20) : CmdE := { d := d, a := a, b := b, c := c, pv := false, pn := false, pk := 0, imm := imm }

def isOk {α : Type} : Res α → Bool
  | .ok _ => true
  | _ => false

def okOr {α : Type} (d : α) : Res α → α
  | .ok v => v
  | _ => d

theorem ok_of {r : Res State} (h : isOk r = true) : r = .ok (okOr base r) := by
  cases r <;> first | rfl | exact nomatch h

theorem ok_of_pair {α : Type} {r : Res (α × State)} {a : α} (h : isOk r = true) (e : (okOr (a, base) r).1 = a) : r = .ok (a, (okOr (a, base) r).2) := by
  cases r with
  | ok v => exact congrArg Res.ok (Prod.ext e rfl)
  | _ => exact nomatch h

/-- Bytes at the start of the page. -/
def withMem (s : State) (bs : List Byte) : State := { s with hbm := mwrites s.hbm 0x50000 bs }

/-- An EVENT of context 0, of generation 5, and a LOCK of it, free or held by the task on tile 0. -/
def event5 : List Byte := [3, 0, 0, 0, 0, 0, 0, 0, 5]
def freeLock : List Byte := [1]
def heldLock : List Byte := [5]

/-- A tensor of 64 FP32 elements with a shadow table: CTAB at 0x60000, STAB at 0x61000. -/
def tensor64 : BitVec 512 := 0x61000000000000006000000000000000000000000000000000000000000000000000000000000000000400000000000000003#512

/-- It is tensor 3 of context 0, with its first chunk in frame 5. -/
def withTensor (s : State) : State := { s with tensors := [(3, tensor64)], hbm := mputw s.hbm 0x60000 0x5000D }

theorem ok_any {α : Type} (d : α) {r : Res α} (h : isOk r = true) : r = .ok (okOr d r) := by
  cases r <;> first | rfl | exact nomatch h

theorem ok_two {α β : Type} (d : α × β) {r : Res (α × β)} (h : isOk r = true) : r = .ok ((okOr d r).1, (okOr d r).2) := ok_any d h

/-- The access stream of tile 0 is at issue, with address registers. -/
def wa (l : Tab Word) (f : Tile → Tile := id) : State := wt 1 fun x => f { x with areg := l }

/-- Tile 0 has granted every bank of an access of one of its streams. -/
def portOpen (k req off len : Nat) (x : Tile) : Tile := { x with asks := [{ who := .stream 0 k, req := req, off := off, len := len, left := [], at' := 0 }] }

/-- Registers of the control stream, an access of which has its banks. -/
def wrp (l : Tab Word) (off len : Nat) : State := wt 0 fun x => portOpen 0 0 off len { x with sc := regs l }

/-- TX window 0 and RX window 0 hold the page; this chip is a member of context 0. -/
def windows (s : State) : State :=
  ((s.setReg128 (offTxw 0) 0x10000000000010001).setReg128 (offRxw 0) 0x10000000000010001).setCx 0 (cMEMBERS 0) 1


theorem some_of {α : Type} (d : α) {o : Option α} (h : o.isSome = true) : o = some (o.getD d) := by
  cases o <;> first | rfl | exact nomatch h

theorem some_two {α β : Type} (d : α × β) {o : Option (α × β)} (h : o.isSome = true) : o = some ((o.getD d).1, (o.getD d).2) := by
  cases o <;> first | rfl | exact nomatch h

theorem test_meets_integer : ∃ (s : State) (f : Tri), s.Full f.a ∧ s.Full f.b ∧ s.Free f.d ∧ s.rs f.b ≠ 0 :=
  ⟨wr [(1, 5), (2, 3)], tri 63 1 2, rfl, rfl, ⟨rfl, by decide +kernel⟩, by decide +kernel⟩

theorem test_meets_division_by_zero : ∃ (s : State) (f : Tri), s.Full f.a ∧ s.Full f.b ∧ s.Free f.d ∧ s.rs f.b = 0 :=
  ⟨wtr [(1, 5)], tri 1 1 0, rfl, rfl, ⟨rfl, by decide +kernel⟩, rfl⟩

theorem test_meets_immediate : ∃ (s : State) (f : ImmS), s.Full f.a ∧ s.Free f.d :=
  ⟨wr [(1, 5)], { d := 0, a := 1, imm := BitVec.ofInt 14 (-1) }, rfl, ⟨rfl, by decide +kernel⟩⟩

theorem test_meets_compact : ∃ (s : State) (f : C16), s.Free (f.x.setWidth 6) ∧ s.Full (f.y.setWidth 6) :=
  ⟨wr [(31, 5)], { x := 31, y := 0 }, ⟨rfl, by decide +kernel⟩, rfl⟩

theorem test_meets_exposed_pipeline : ∃ (s : State) (lat : Nat), s.IsScalar ∧ 1 ≤ lat ∧ (s.strm s.cur).blk = none :=
  ⟨wth, 1, .inr ⟨0, rfl⟩, by decide +kernel, rfl⟩

theorem test_meets_branches : ∃ (s : State) (f : BraS), s.IsScalar ∧ (s.strm s.cur).blk = none ∧ (s.strm s.cur).bubbles = 0 ∧ s.Full f.a ∧ s.Full f.b :=
  ⟨wr [(1, 5)], { a := 1, b := 0, off := -1 }, .inl ⟨0, rfl⟩, rfl, rfl, rfl, rfl⟩

theorem test_meets_branches_empty : ∃ (s : State) (f : BraS), s.IsScalar ∧ (s.strm s.cur).blk = none ∧ (s.strm s.cur).bubbles = 0 ∧
    s.isEmpty s.cur f.a = true :=
  ⟨wt 0 fun x => { x with sc := { Scalars.idle with empty := [4] } }, { a := 4, b := 0, off := 2 }, .inl ⟨0, rfl⟩, rfl, rfl, rfl⟩

theorem test_meets_jumps : ∃ (s : State) (f g : Tri), s.IsScalar ∧ (s.strm s.cur).blk = none ∧ s.Full f.a ∧ (s.rs f.a).getLsbD 0 = false ∧ s.Free f.d ∧
    s.Full g.a ∧ (s.rs g.a).getLsbD 0 = true :=
  ⟨wr [(1, 0x10002), (2, 0x10001)], tri 1 1 0, tri 0 2 0, .inl ⟨0, rfl⟩, rfl, rfl, rfl, ⟨rfl, by decide +kernel⟩, rfl, rfl⟩

/-! Loads, stores and atomics -/

theorem test_meets_scratchpad_addresses : ∃ off n : Nat, off < 2 ^ 21 ∧ off % n = 0 ∧ n ∣ 2 ^ 56 := ⟨0x1FFFF8, 8, by decide +kernel, by decide +kernel, by decide +kernel⟩

theorem test_meets_address_faults : (∃ ea : Word, ea.toNat / 2 ^ 57 ≠ 0) ∧ (∃ ea : Word, ea.toNat / 2 ^ 56 = 0 ∧ ea.toNat % 8 ≠ 0) ∧
    (∃ ea : Word, ea.toNat / 2 ^ 52 = 16 ∧ ea.toNat % 2 ^ 52 ≥ 2 ^ 21) ∧
    (∃ ea : Word, ea.toNat / 2 ^ 52 = 16 ∧ ea.toNat % 2 ^ 52 < 2 ^ 21 ∧ ea.toNat % 8 ≠ 0) ∧ ∃ ea : Word, ea.toNat / 2 ^ 52 = 22 :=
  ⟨⟨0x0200000000000000, by decide +kernel⟩, ⟨0x00FFFFFFFFFFFFF9, by decide +kernel⟩, ⟨0x0100000000200000, by decide +kernel⟩, ⟨0x01000000001FFFFF, by decide +kernel⟩,
    ⟨0x0160000000000000, by decide +kernel⟩⟩

theorem test_meets_load_scratchpad : ∃ (s s2 : State) (f : MemF) (off : Nat), s.Free f.d ∧ s.acquiring = false ∧ s.Full f.a ∧
    s.locate s.cur (s.rs f.a + f.off.signExtend 64 * BitVec.ofNat 64 8) 8 false = .ok (.spad 0 off false, s) ∧ (s.tile 0).boardHit off 8 false = false ∧
    s.grant 0 off 8 (requester s.cur s.cur.undoTile 0) = .ok s2 :=
  ⟨wrp [(1, 0x0100000000200000)] 0x1FFFF8 8, _, memf 2 1 (-1), 0x1FFFF8, ⟨rfl, by decide +kernel⟩, rfl, rfl, rfl, rfl, ok_of (by decide +kernel)⟩

theorem test_meets_load_memory : ∃ (s s2 : State) (f : MemF) (va : Word) (pa : Nat), s.Free f.d ∧ s.acquiring = false ∧ s.Full f.a ∧
    s.locate s.cur (s.rs f.a + f.off.signExtend 64 * BitVec.ofNat 64 8) 8 false = .ok (.hbm va pa none none, s2) :=
  ⟨wr [(1, 0x10000)], _, memf 2 1 1, _, _, ⟨rfl, by decide +kernel⟩, rfl, rfl, rfl⟩

theorem test_meets_load_register : ∃ (s s2 : State) (f : MemF), s.Free f.d ∧ s.acquiring = false ∧ s.Full f.a ∧
    s.locate s.cur (s.rs f.a + f.off.signExtend 64 * BitVec.ofNat 64 8) 8 false = .ok (.reg 8, s2) :=
  ⟨wtr [(1, 0x0160000000000000)], _, memf 2 1 1, ⟨rfl, by decide +kernel⟩, rfl, rfl, rfl⟩

theorem test_meets_fill : ∃ (s s2 : State) (f : MemF) (ea : Word) (off : Nat), s.Free f.d ∧ s.acquiring = false ∧ s.Full f.a ∧ (∃ t k, s.cur = .stream t k) ∧
    s.spillAddr (s.rs f.a + f.off.signExtend 64) = .ok ea ∧ s.locate s.cur ea 8 false = .ok (.spad 0 off false, s) ∧
    s.grant 0 off 8 (requester s.cur s.cur.undoTile 0) = .ok s2 :=
  ⟨wt 0 fun x => portOpen 0 0 0x1FF018 8 { x with task := some { placedTask with t := { placedTask.t with desc := 0x1000000000000000000000#1024 } } }, _, memf 2 0 3, 0x01000000001FF018, 0x1FF018, ⟨rfl, by decide +kernel⟩, rfl, rfl,
    ⟨0, 0, rfl⟩, rfl, rfl, ok_of (by decide +kernel)⟩

theorem test_meets_scratchpad_store : ∃ (s s2 s3 : State) (f : MemF) (off : Nat), let ea := s.rs f.a + f.off.signExtend 64 * BitVec.ofNat 64 8
    storesTo s (.std f) ea 8 4 (s.rs f.d) ∧ s.acquiring = false ∧ s.IsScalar ∧ s.locate s.cur ea 8 true = .ok (.spad 0 off false, s) ∧
    (s.tile 0).boardHit off 8 true = false ∧ s.grant 0 off 8 (requester s.cur s.cur.undoTile 0) = .ok s2 ∧
    s2.reserve s.cur.src s.cur.undoTile (s.ctxOf s.cur) 1 ea = .ok s3 :=
  ⟨wrp [(1, 0x0100000000000000), (2, 7)] 0 8, _, _, memf 2 1 0, 0, .inl ⟨memf 2 1 0, rfl, rfl, rfl, rfl, rfl, by simp⟩, rfl, .inl ⟨0, rfl⟩, rfl, rfl, ok_of (by decide +kernel), ok_of (by decide +kernel)⟩

theorem test_meets_memory_store : ∃ (s s2 s3 : State) (f : MemF) (va : Word) (pa : Nat), let ea := s.rs f.a + f.off.signExtend 64 * BitVec.ofNat 64 8
    storesTo s (.std f) ea 8 4 (s.rs f.d) ∧ s.acquiring = false ∧ s.locate s.cur ea 8 true = .ok (.hbm va pa none none, s2) ∧
    s.writesOut s.cur < 128 ∧ s2.reserveStore s.cur va 8 none = .ok s3 :=
  ⟨wr [(1, 0x10000), (2, 7)], _, _, memf 2 1 0, _, _, .inl ⟨memf 2 1 0, rfl, rfl, rfl, rfl, rfl, by simp⟩, rfl, rfl, by decide +kernel, rfl⟩

theorem test_meets_register_store : ∃ (s s2 : State) (f : MemF), let ea := s.rs f.a + f.off.signExtend 64 * BitVec.ofNat 64 8
    storesTo s (.std f) ea 8 4 (s.rs f.d) ∧ s.acquiring = false ∧ s.locate s.cur ea 8 true = .ok (.reg 0, s2) :=
  ⟨wtr [(1, 0x0160000000000000), (2, 7)], _, memf 2 1 0, .inl ⟨memf 2 1 0, rfl, rfl, rfl, rfl, rfl, by simp⟩, rfl, rfl⟩

/-- A store of one word to frame 5, not yet performed. -/
def oneSeg : Seg := { akind := 1, addr := 0x10000, pa := 0x50000, len := 8, data := [1, 2, 3, 4, 5, 6, 7, 8], keepLow := false, keepHigh := false, src := [] }
def oneStore : Store :=
  { who := some (.stream 0 0), run := 0, src := 0, ctx := 0, segs := [oneSeg], op := none, atom := false, win := 0, tensor := none, refl := none, firing := none,
    list := none, moved := [], order := 0, adds := [] }

theorem test_meets_store_performed : ∃ (s : State) (e : Store) (g : Seg), s.stores = [e] ∧ e.segs = [g] ∧ g.src = [] ∧ g.akind = 1 ∧ g.keepLow = false ∧
    g.keepHigh = false ∧ g.data.length = g.len ∧ e.adds = [] ∧ e.refl = none ∧ e.atom = false ∧ e.src < 5 ∧ s.loadBefore e = false :=
  ⟨{ wt 0 with stores := [oneStore] }, oneStore, oneSeg, rfl, rfl, rfl, rfl, rfl, rfl, rfl, rfl, rfl, rfl, by decide +kernel, rfl⟩

theorem test_meets_scratchpad_atomic : ∃ (s s2 s3 : State) (f : Tri), s.IsScalar ∧ s.acquiring = false ∧ s.Full f.a ∧ s.Full f.b ∧ s.Free f.d ∧
    s.locate s.cur (s.rs f.a) 8 true true = .ok (.spad 0 8 false, s) ∧ (s.tile 0).boardHit 8 8 true = false ∧
    s.grant 0 8 8 (requester s.cur s.cur.undoTile 0) = .ok s2 ∧ s2.reserve s.cur.src s.cur.undoTile (s.ctxOf s.cur) 1 (s.rs f.a) = .ok s3 :=
  ⟨wrp [(1, 0x0100000000000008), (2, 7)] 8 8, _, _, tri 3 1 2, .inl ⟨0, rfl⟩, rfl, rfl, rfl, ⟨rfl, by decide +kernel⟩, rfl, rfl, ok_of (by decide +kernel), ok_of (by decide +kernel)⟩

theorem test_meets_memory_atomic : ∃ (s s2 s3 : State) (f : Tri) (va : Word) (pa : Nat), s.IsScalar ∧ s.acquiring = false ∧ s.Full f.a ∧ s.Full f.b ∧
    s.Free f.d ∧ s.writesOut s.cur < 128 ∧ s.locate s.cur (s.rs f.a) 8 true true = .ok (.hbm va pa none none, s2) ∧
    s2.reserve s.cur.src s.cur.undoTile (s.ctxOf s.cur) 1 va = .ok s3 :=
  ⟨wr [(1, 0x10008), (2, 7)], _, _, tri 3 1 2, _, _, .inl ⟨0, rfl⟩, rfl, rfl, rfl, ⟨rfl, by decide +kernel⟩, by decide +kernel, rfl, ok_of (by decide +kernel)⟩

/-- A variable-latency operation of the control stream. -/
def oneOp (what : VarKind) : VarOp :=
  { id := 7, reg := 3, insn := 0xDC000000, stream := 0, pc := 0x10000, notBefore := 0, since := 0, what := what, command := false, opa := 0, opb := 0 }

def withOp (what : VarKind) : State := wt 0 fun x => { x with sc := { Scalars.idle with empty := [3], ops := [oneOp what] } }

theorem test_meets_atomic_performed : ∃ (s : State) (e : Store) (g : Seg) (op : VarOp) (v : Nat), s.stores = [e] ∧ e.segs = [g] ∧ g.src = [] ∧ e.adds = [] ∧ e.atom = true ∧
    e.op = some 7 ∧ e.who = some (.stream 0 0) ∧ e.src < 5 ∧ s.loadBefore e = false ∧ s.opOf (.stream 0 0) 7 = some op ∧ op.what = .atomic 0x10000 0 5 0 ∧
    amoNew 0 (mval s.hbm g.pa (amoSize 0)) 5 0 = some v ∧ (s.tile 0).handler = none :=
  ⟨{ withOp (.atomic 0x10000 0 5 0) with stores := [{ oneStore with atom := true, op := some 7 }] }, { oneStore with atom := true, op := some 7 }, oneSeg,
    oneOp (.atomic 0x10000 0 5 0), _, rfl, rfl, rfl, rfl, rfl, rfl, rfl, by decide +kernel, rfl, rfl, rfl, rfl, rfl⟩

/-! Sync objects, flags, fences -/

theorem test_meets_acquire_event : ∃ (s s1 : State) (f : Tri) (pa v : Nat), s.acquiring = false ∧ s.Full f.a ∧ s.Full f.b ∧ s.Free f.d ∧
    s.reach s.cur (s.rs f.a) false = .ok (pa, v, s1) ∧ objEvent v = true ∧ (objGen v - (s.rs f.b).setWidth 32).toNat < 2 ^ 31 :=
  ⟨withMem (wr [(1, 0x10000), (2, 5)]) event5, _, tri 3 1 2, _, _, rfl, rfl, rfl, ⟨rfl, by decide +kernel⟩, rfl, by decide +kernel, by decide +kernel⟩

theorem test_meets_acquire_event_waits : ∃ (s s1 : State) (f : Tri) (pa v : Nat), s.acquiring = false ∧ s.Full f.a ∧ s.Full f.b ∧ s.Free f.d ∧
    s.reach s.cur (s.rs f.a) false = .ok (pa, v, s1) ∧ objEvent v = true ∧ ¬ (objGen v - (s.rs f.b).setWidth 32).toNat < 2 ^ 31 :=
  ⟨withMem (wr [(1, 0x10000), (2, 6)]) event5, _, tri 3 1 2, _, _, rfl, rfl, rfl, ⟨rfl, by decide +kernel⟩, rfl, by decide +kernel, by decide +kernel⟩

theorem test_meets_acquire_held : ∃ (s s1 : State) (f : Tri) (pa v : Nat), s.acquiring = false ∧ s.Full f.a ∧ s.Full f.b ∧ s.Free f.d ∧
    s.reach s.cur (s.rs f.a) false = .ok (pa, v, s1) ∧ objEvent v = false ∧ s.holds s.cur v = true ∧ s.releasing s.cur (s.rs f.a) = false :=
  ⟨withMem (wr [(1, 0x10000)]) heldLock, _, tri 3 1 2, _, _, rfl, rfl, rfl, ⟨rfl, by decide +kernel⟩, rfl, by decide +kernel, by decide +kernel, by decide +kernel⟩

theorem test_meets_acquire_held_by_other : ∃ (s s1 : State) (f : Tri) (pa v : Nat), s.acquiring = false ∧ s.Full f.a ∧ s.Full f.b ∧ s.Free f.d ∧
    s.reach s.cur (s.rs f.a) false = .ok (pa, v, s1) ∧ objEvent v = false ∧ s.holds s.cur v = false ∧ objHeld v = true :=
  ⟨withMem (wtr [(1, 0x10000)]) heldLock, _, tri 3 1 2, _, _, rfl, rfl, rfl, ⟨rfl, by decide +kernel⟩, rfl, by decide +kernel, by decide +kernel, by decide +kernel⟩

theorem test_meets_lock_taken : ∃ (s s1 s2 s3 : State) (f : Tri) (pa pa' v : Nat), s.cur = .stream 0 0 ∧ s.acquiring = false ∧ s.Full f.a ∧ s.Full f.b ∧
    s.Free f.d ∧ s.reach s.cur (s.rs f.a) false = .ok (pa, v, s1) ∧ objEvent v = false ∧ objHeld v = false ∧
    s.waiters (s.ctxOf s.cur) (s.rs f.a) = [] ∧ s1.translate s.cur (s.ctxOf s.cur) (s.rs f.a) true = .ok (pa', s2) ∧
    s2.reserve 0 0 (s.ctxOf s.cur) 1 (s.rs f.a) = .ok s3 :=
  ⟨withMem (wr [(1, 0x10000)]) freeLock, _, _, _, tri 3 1 2, _, 0x50000, _, rfl, rfl, rfl, rfl, ⟨rfl, by decide +kernel⟩, rfl, by decide +kernel, by decide +kernel, rfl,
    ok_of_pair (by decide +kernel) (by decide +kernel),    ok_of (by decide +kernel)⟩

theorem test_meets_release : ∃ (s s1 s2 : State) (f : Tri) (pa v : Nat), s.acquiring = false ∧ s.Full f.a ∧ s.Free f.d ∧
    s.reach s.cur (s.rs f.a) true = .ok (pa, v, s1) ∧ objEvent v = false ∧ s.holds s.cur v = true ∧ s.releasing s.cur (s.rs f.a) = false ∧
    s1.reserve s.cur.src s.cur.undoTile (s.ctxOf s.cur) 3 (s.rs f.a) = .ok s2 :=
  ⟨withMem (wr [(1, 0x10000)]) heldLock, _, _, tri 3 1 0, _, _, rfl, rfl, ⟨rfl, by decide +kernel⟩, rfl, by decide +kernel, by decide +kernel, by decide +kernel, ok_of (by decide +kernel)⟩

theorem test_meets_release_written : ∃ (s : State) (pa v : Nat) (o : VarOp), s.opOf (.stream 0 0) 7 = some o ∧ o.what = .rel 0x10000 ∧ o.id = 7 ∧
    fld o.insn 26 6 = 0x37 ∧ (s.ccc - o.notBefore).toNat < 2 ^ 63 ∧ s.storesBefore (.stream 0 0) 7 = false ∧
    s.objectAt (s.ctxOf (.stream 0 0)) 0x10000 = some (pa, v) ∧ s.rangeMoves 0 0x10000 64 = false ∧ (s.tile 0).handler = none ∧ ∀ k, (s.strm (.stream 0 k)).stop = none :=
  ⟨withMem (withOp (.rel 0x10000)) event5, _, _, oneOp (.rel 0x10000), rfl, rfl, rfl, by decide +kernel, by decide +kernel, rfl, rfl, by decide +kernel, rfl, fun _ => rfl⟩

theorem test_meets_variable_value : ∃ (s : State) (o : VarOp), s.opOf (.stream 0 0) 7 = some o ∧ o.id = 7 ∧ (s.ccc - o.notBefore).toNat < 2 ^ 63 ∧
    (s.tile 0).handler = none ∧ (∀ k, (s.strm (.stream 0 k)).stop = none) ∧ o.what = .value 9 :=
  ⟨withOp (.value 9), oneOp (.value 9), rfl, rfl, by decide +kernel, rfl, fun _ => rfl, rfl⟩

theorem test_meets_variable_load : ∃ (s : State) (o : VarOp) (v : Word), s.opOf (.stream 0 0) 7 = some o ∧ o.id = 7 ∧ (s.ccc - o.notBefore).toNat < 2 ^ 63 ∧
    (s.tile 0).handler = none ∧ (∀ k, (s.strm (.stream 0 k)).stop = none) ∧ o.what = .load 0 0x50000 8 false ∧ v = extend 8 false (mval s.hbm 0x50000 8) ∧
    s.storeOver (.stream 0 0) 7 0x50000 8 = false ∧ ∀ p ∈ (s.tile 0).sc.ops, p.id < 7 → ∀ e qa m x, p.what ≠ .load e qa m x :=
  ⟨withOp (.load 0 0x50000 8 false), oneOp (.load 0 0x50000 8 false), _, rfl, rfl, by decide +kernel, rfl, fun _ => rfl, rfl, rfl, rfl,
    fun p hp h => absurd (show p.id = 7 from by simp only [withOp, wt, State.tile, tget] at hp; simp_all [oneOp]) (by omega)⟩

theorem test_meets_acq_grant : ∃ (s : State) (pa v : Nat) (o : VarOp), s.opOf (.stream 0 0) 7 = some o ∧ o.what = .acq 0x10000 5 ∧
    s.objectAt (s.ctxOf (.stream 0 0)) 0x10000 = some (pa, v) ∧ s.rangeMoves 0 0x10000 64 = false ∧ objEvent v = true ∧ (objGen v - 5#32).toNat < 2 ^ 31 :=
  ⟨withMem (withOp (.acq 0x10000 5)) event5, _, _, oneOp (.acq 0x10000 5), rfl, rfl, rfl, by decide +kernel, by decide +kernel, by decide +kernel⟩

theorem test_meets_acq_timeout : ∃ (s : State) (o : VarOp), s.opOf (.stream 0 0) 7 = some o ∧ o.what = .acq 0x10000 5 ∧ o.stream = 0 ∧
    s.cxF (s.ctxOfTile 0) cACQTMO 0 17 ≠ 0 ∧ cyclesOf (s.cxF (s.ctxOfTile 0) cACQTMO 0 17) < (s.ccc - o.since).toNat ∧ (s.strm (.stream 0 0)).stop = none :=
  ⟨{ (withOp (.acq 0x10000 5)).setCx 0 cACQTMO 1 with ccc := 941 }, oneOp (.acq 0x10000 5), rfl, rfl, rfl, by decide +kernel, by decide +kernel, rfl⟩

theorem test_meets_fence_timeout : ∃ (s : State) (since : Word), (s.strm (.stream 0 0)).fenceSince = some since ∧ s.cxF (s.ctxOfTile 0) cRFTMO 0 17 ≠ 0 ∧
    cyclesOf (s.cxF (s.ctxOfTile 0) cRFTMO 0 17) < (s.ccc - since).toNat ∧ (s.strm (.stream 0 0)).stop = none :=
  ⟨{ (wt 0 fun x => { x with streams := [(0, { Stream.idle with fenceSince := some 0 })] }) with ccc := 940001 }, 0, rfl, by decide +kernel, by decide +kernel, rfl⟩

theorem test_meets_wfe_timeout : ∃ (s : State) (since : Word), (s.strm (.stream 0 0)).wfe = some since ∧ 940 ≤ (s.ccc - since).toNat :=
  ⟨{ (wt 0 fun x => { x with streams := [(0, { Stream.idle with wfe := some 0 })] }) with ccc := 940 }, 0, rfl, by decide +kernel⟩

theorem test_meets_bind : ∃ (s s1 : State) (f : Tri) (pa : Nat), s.acquiring = false ∧ s.Full f.a ∧ s.Full f.b ∧ s.Free f.d ∧
    (let va := s.rs f.d &&& ~~~ 63#64
     let v := s1.object pa
     objAddressOk va = true ∧ s.translate s.cur (s.ctxOf s.cur) va true = .ok (pa, s1) ∧ nfld v 0 1 = 1 ∧ nfld v 1 1 = fld (s.rs f.d) 0 1 ∧
     nfld v 14 6 = s.ctxOf s.cur ∧ s.bindStatus (s.ctxOf s.cur) (s.rs f.a).toNat (s.rs f.b).toNat = 0) :=
  ⟨withMem (wr [(1, 0x20000), (2, 64), (3, 0x10001)]) event5, _, tri 3 1 2, 0x50000, rfl, rfl, rfl, ⟨rfl, by decide +kernel⟩, by decide +kernel,
    ok_of_pair (by decide +kernel) (by decide +kernel), by decide +kernel, by decide +kernel,
    by decide +kernel, by decide +kernel⟩

theorem test_meets_bind_refused : ∃ (s s1 : State) (f : Tri) (pa : Nat), s.acquiring = false ∧ s.Full f.a ∧ s.Full f.b ∧ s.Free f.d ∧
    (let va := s.rs f.d &&& ~~~ 63#64
     let v := s1.object pa
     objAddressOk va = true ∧ s.translate s.cur (s.ctxOf s.cur) va true = .ok (pa, s1) ∧ nfld v 0 1 = 1 ∧ nfld v 1 1 = fld (s.rs f.d) 0 1 ∧
     nfld v 14 6 = s.ctxOf s.cur ∧ s.bindStatus (s.ctxOf s.cur) (s.rs f.a).toNat (s.rs f.b).toNat = 3) :=
  ⟨withMem (wr [(1, 0x20000), (3, 0x10001)]) event5, _, tri 3 1 2, 0x50000, rfl, rfl, rfl, ⟨rfl, by decide +kernel⟩, by decide +kernel,
    ok_of_pair (by decide +kernel) (by decide +kernel), by decide +kernel, by decide +kernel,
    by decide +kernel, by decide +kernel⟩

theorem test_meets_unbind : ∃ (s : State) (f : Tri), s.acquiring = false ∧ s.Full f.a ∧ s.Free f.d := ⟨wth, tri 3 1 0, rfl, rfl, ⟨rfl, by decide +kernel⟩⟩

theorem test_meets_fence : ∃ s : State, s.acquiring = false ∧ s.performed s.cur = true := ⟨wt 0, rfl, rfl⟩

/-- A packet of a reflected store of the control stream, answered OK. -/
def oneSent : Sent :=
  { who := some (.stream 0 0), run := 0, firing := none, send := none, ctx := 0, order := 0, slot := 0, off := 0, dst := 1, pseq := 0, status := some 0, win := 0 }

theorem test_meets_fence_rf : ∃ s : State, s.acquiring = false ∧ (∀ e ∈ s.stores, e.refl = none) ∧
    (∀ h ∈ s.hostTlps, withParty s.cur h.who = false) ∧ s.sent.length = 1 ∧ ∀ e ∈ s.sent, e.isOf s.cur (s.runOf s.cur) = true → e.status = some 0 :=
  ⟨{ wt 0 with stores := [oneStore], sent := [oneSent] }, rfl, by decide +kernel, by decide +kernel, rfl, by decide +kernel⟩

theorem test_meets_bar : ∃ (s : State) (f : Tri), s.cur = .stream 0 0 ∧ s.acquiring = false ∧ s.Full f.a ∧ s.rs f.a = BitVec.ofNat 64 0 ∧
    s.subgroupOk 0 0 = true ∧ (s.strm s.cur).counted = false ∧ ∀ u ∈ rectTiles 0, u ≠ 0 → tget 0 (s.tile 0).bars 0 + 1 ≤ tget 0 (s.tile u).bars 0 :=
  ⟨wt 0, tri 0 1 0, rfl, rfl, rfl, rfl, by decide +kernel, rfl, by decide +kernel⟩

theorem test_meets_flags : ∃ (s s1 : State) (f : Tri), s.cur = .stream 0 0 ∧ s.acquiring = false ∧
    s.reserve 0 0 (s.ctxOfTile 0) 0 (BitVec.ofNat 64 f.d.toNat) = .ok s1 ∧ s.Full f.a ∧ 0 < (s.rs f.a).toNat ∧ (s.rs f.a).toNat ≤ ((s.tile 0).flag f.d.toNat).toNat :=
  ⟨wt 0 fun x => { x with sc := regs [(1, 2)], flags := [(63, 2)] }, _, tri 63 1 0, rfl, rfl, ok_of (by decide +kernel), rfl, by decide +kernel, by decide +kernel⟩

theorem test_meets_flag_signals : ∃ (s s1 : State) (f g : Tri), s.cur = .stream 0 0 ∧ s.acquiring = false ∧
    s.reserve 0 0 (s.ctxOfTile 0) 0 (BitVec.ofNat 64 f.d.toNat) = .ok s1 ∧ f.a = 0 ∧ ((s.tile 0).flag f.d.toNat).toNat < 65535 ∧
    g.a = 0 ∧ ((s.tile 0).flag g.d.toNat).toNat = 65535 :=
  ⟨wt 0 fun x => { x with flags := [(4, 65534), (5, 65535)] }, _, tri 4 0 0, tri 5 0 0, rfl, rfl, ok_of (by decide +kernel), rfl, by decide +kernel, rfl, by decide +kernel⟩

theorem test_meets_remote_flag : ∃ (s s1 : State) (e : RemoteFlag), s.remoteFlags = [e] ∧
    State.reserve { s with remoteFlags := [] } 0 e.dst (s.ctxOfTile e.dst) 0 (BitVec.ofNat 64 e.flag) = .ok s1 ∧ ((s.tile e.dst).flag e.flag).toNat < 65535 :=
  ⟨{ wt 0 with remoteFlags := [{ src := 1, dst := 0, flag := 4, win := 0 }] }, _, { src := 1, dst := 0, flag := 4, win := 0 }, rfl, ok_of (by decide +kernel), by decide +kernel⟩

theorem test_meets_publish : ∃ (s : State) (f : Tri) (d : BitVec 512), s.acquiring = false ∧ (s.strm s.cur).counted = false ∧ s.Full f.a ∧
    s.tensorUse (s.ctxOf s.cur) (s.rs f.a) = .ok d ∧ tdShv d = true ∧ tdSobj d = 0 ∧ s.shadowWriting (s.ctxOf s.cur) (s.rs f.a).toNat = false :=
  ⟨withTensor (wr [(1, 3)]), tri 0 1 0, tensor64, rfl, rfl, rfl, rfl, by decide +kernel, by decide +kernel, by decide +kernel⟩

theorem test_meets_publish_goes_on : ∃ s : State, s.acquiring = false ∧ (s.strm s.cur).counted = true ∧ ∀ p ∈ s.pubs, p.who ≠ some s.cur :=
  ⟨wt 0 fun x => { x with streams := [(0, { Stream.idle with counted := true })] }, rfl, rfl, by intro p hp; cases hp⟩

theorem test_meets_publish_exchange : ∃ (s s1 : State) (p : Pub), s.pubs = [p] ∧ p.who = some (.stream 0 0) ∧ tdSobj (s.tensor p.ctx p.tensor) = 0 ∧
    s.tableInUse p.ctx p.tensor = false ∧ s.storesBefore (.stream 0 0) s.nextId = false ∧ s.reserveLen 0 0 p.ctx 16 0 = .ok s1 :=
  ⟨{ withTensor (wt 0) with pubs := [{ who := some (.stream 0 0), engine := none, ctx := 0, tensor := 3 }] }, _,
    { who := some (.stream 0 0), engine := none, ctx := 0, tensor := 3 }, rfl, rfl, by decide +kernel, by decide +kernel, rfl, ok_of (by decide +kernel)⟩

/-! System instructions, blocks, traps and tasks -/

theorem test_meets_sysrd : ∃ (s s1 : State) (f : Tri) (v : Word), s.cur = .stream 0 0 ∧ s.Free f.d ∧ sysNumber (f.a.toNat * 64 + f.b.toNat) = true ∧
    s.sysRead 0 (f.a.toNat * 64 + f.b.toNat) = some (v, s1) ∧ f.a.toNat * 64 + f.b.toNat = 64 :=
  ⟨wt 0, _, tri 3 1 0, _, rfl, ⟨rfl, by decide +kernel⟩, by decide +kernel, rfl, by decide +kernel⟩

theorem test_meets_syswr : ∃ (s : State) (f : Tri) (x : Tile), s.cur = .stream 0 0 ∧ s.Full f.a ∧ (s.rs f.a).toNat < 2 ^ 32 ∧
    f.d.toNat * 64 + f.b.toNat = 11 ∧ (s.tile 0).sysWrite 11 (s.rs f.a) = some x ∧ sysNumber 11 = true :=
  ⟨wr [(1, 0xFFFFFFFF)], tri 0 1 11, _, rfl, rfl, by decide +kernel, by decide +kernel, rfl, by decide +kernel⟩

theorem test_meets_syswr_wide_count : ∃ (s : State) (f : Tri), s.cur = .stream 0 0 ∧ s.Full f.a ∧ 2 ^ 32 ≤ (s.rs f.a).toNat ∧
    f.d.toNat * 64 + f.b.toNat = 8 :=
  ⟨wr [(1, 0x100000000)], tri 0 1 8, rfl, rfl, by decide +kernel, by decide +kernel⟩

theorem test_meets_dispatch : ∃ (s : State) (f : CmdE) (q : BitVec 8), s.cur = .stream 0 0 ∧ s.Plain ∧ (Instr.disp f q).wf = true ∧ s.Full f.a ∧
    (s.rs f.a).getLsbD 0 = false ∧ (tget [] (s.tile 0).cq (q.toNat % 4)).length < 16 :=
  ⟨wr [(1, 0x10000)], cmde 9 1 0 0 4, 13, rfl, ⟨rfl, rfl, rfl⟩, by decide +kernel, rfl, by decide +kernel, by decide +kernel⟩

theorem test_meets_trap : ∃ (s : State) (k : Task), s.cur = .stream 0 0 ∧ s.Plain ∧ (s.tile 0).task = some k ∧ bit (s.cx k.t.ctx cTRAPGRP) 4 = true ∧
    (s.tile 0).sc.pend.length + (s.tile 0).sc.ops.length ≤ 32 :=
  ⟨(wt 0).setCx 0 cTRAPGRP 0x10, placedTask, rfl, ⟨rfl, rfl, rfl⟩, rfl, by decide +kernel, by decide +kernel⟩

theorem test_meets_trap_fatal : ∃ (s : State) (k : Task), s.cur = .stream 0 0 ∧ s.Plain ∧ (s.tile 0).task = some k ∧ bit (s.cx k.t.ctx cTRAPGRP) 4 = false :=
  ⟨wt 0, placedTask, rfl, ⟨rfl, rfl, rfl⟩, rfl, by decide +kernel⟩

def stoppedAt : Stopped := { cause := .breakTrap, info := 1, insn := 0, ccc := 0, framed := true }

theorem test_meets_return : ∃ (s : State) (f : Tri) (h : Nat) (p : Stopped), s.cur = .thread 0 ∧ (s.strm s.cur).blk = none ∧ s.Full f.a ∧
    s.rs f.a = BitVec.ofNat 64 0 ∧ s.tileCtx 0 = some (s.thr 0).ctx ∧ (s.tile 0).held = true ∧ (s.strm (.stream 0 0)).stop = some p ∧ p.framed = true ∧
    p.cause ≠ .preempt ∧ s.mstate (s.ctxOfTile 0) = 0 ∧ (s.strm (.stream 0 0)).blk = none ∧
    h = s.physNat (s.ctxOfTile 0) (BitVec.ofNat 64 (s.frameVa (s.ctxOfTile 0) (.stream 0 0))) 64 ∧ nfld h 9 8 = 0 ∧ nfld h 17 15 = 0 ∧ nfld h 384 128 = 0 :=
  ⟨{ wth with tiles := [(0, { Tile.idle with task := some placedTask, held := true, streams := [(0, { Stream.idle with stop := some stoppedAt })] })] },
    tri 0 0 0, _, stoppedAt, rfl, rfl, rfl, rfl, rfl, rfl, rfl, rfl, by decide +kernel, by decide +kernel, rfl, rfl, by decide +kernel, by decide +kernel, by decide +kernel⟩

def oneHandler : Handler := { point := 0, stream := 1, retPc := 0x10010, retBlk := none, saved := regs [(1, 5)] }

theorem test_meets_handler_return : ∃ (s : State) (h : Handler), s.cur = .stream 0 0 ∧ (s.tile 0).handler = some h ∧ (s.strm s.cur).blk = none ∧
    h.stream ≠ 0 :=
  ⟨wt 0 fun x => { x with handler := some oneHandler }, oneHandler, rfl, rfl, rfl, by decide +kernel⟩

theorem test_meets_wfe : (∃ s : State, s.IsScalar ∧ s.Plain ∧ (s.strm s.cur).woken = true) ∧
    ∃ s : State, s.IsScalar ∧ s.Plain ∧ (s.strm s.cur).woken = false ∧ (s.strm s.cur).wfe = none :=
  ⟨⟨wt 0 fun x => { x with streams := [(0, { Stream.idle with woken := true })] }, .inl ⟨0, rfl⟩, ⟨rfl, rfl, rfl⟩, rfl⟩,
    wth, .inr ⟨0, rfl⟩, ⟨rfl, rfl, rfl⟩, rfl, rfl⟩

theorem test_meets_task_ends : ∃ (s : State) (k : Task), s.cur = .stream 0 0 ∧ s.Plain ∧ (s.tile 0).task = some k ∧ (s.tile 0).sc.pend = [] ∧
    (s.tile 0).sc.ops = [] ∧ (s.tile 0).workersIdle = true :=
  ⟨wt 0, placedTask, rfl, ⟨rfl, rfl, rfl⟩, rfl, rfl, rfl, by decide +kernel⟩

theorem test_meets_thread_ends : ∃ s : State, s.cur = .thread 0 ∧ (s.thr 0).sc.ops = [] := ⟨wth, rfl, rfl⟩

/-- A descriptor with TAGV set. -/
def taggedTask : Task := { placedTask with t := { placedTask.t with desc := 1 <<< 296 } }

theorem test_meets_etrig : ∃ (s : State) (k : Task), s.cur = .stream 0 0 ∧ s.Plain ∧ (s.tile 0).task = some k ∧ k.etrig = false ∧
    dOsync k.t.desc 0 = 0 ∧ dOsync k.t.desc 1 = 0 ∧ dTagv k.t.desc = true ∧ dReld k.t.desc = false ∧ s.noticeWaits 0 = false :=
  ⟨wt 0 fun x => { x with task := some taggedTask }, taggedTask, rfl, ⟨rfl, rfl, rfl⟩, rfl, rfl, by decide +kernel, by decide +kernel, by decide +kernel, by decide +kernel, by decide +kernel⟩

theorem test_meets_etrig_waits : ∃ (s : State) (k : Task), s.cur = .stream 0 0 ∧ s.Plain ∧ (s.tile 0).task = some k ∧ k.etrig = false ∧
    dOsync k.t.desc 0 = 0 ∧ dOsync k.t.desc 1 = 0 ∧ dTagv k.t.desc = true ∧ dReld k.t.desc = false ∧ s.noticeWaits 0 = true :=
  ⟨wt 0 fun x => { x with task := some taggedTask, late := [0] }, taggedTask, rfl, ⟨rfl, rfl, rfl⟩, rfl, rfl, by decide +kernel, by decide +kernel, by decide +kernel, by decide +kernel, by decide +kernel⟩

theorem test_meets_etrig_untagged : ∃ (s : State) (k : Task), s.cur = .stream 0 0 ∧ s.Plain ∧ (s.tile 0).task = some k ∧ k.etrig = false ∧
    dOsync k.t.desc 0 = 0 ∧ dOsync k.t.desc 1 = 0 ∧ dTagv k.t.desc = false :=
  ⟨wt 0, placedTask, rfl, ⟨rfl, rfl, rfl⟩, rfl, rfl, by decide +kernel, by decide +kernel, by decide +kernel⟩

/-- The trace unit is off, its period zero. -/
def noTrace (x : Tile) : Tile := { x with trace := { Trace.idle with ctl := 0 } }

theorem test_meets_mark : ∃ s s1 : State, s.cur = .stream 0 0 ∧ (s.tile 0).trace.ctl = 0 ∧ s.reserveLen 0 0 (s.ctxOfTile 0) 16 0 = .ok s1 :=
  ⟨wt 0 noTrace, _, rfl, rfl, ok_of (by decide +kernel)⟩

/-- The control stream is at the start of the page. -/
def atPage : State := wt 0 fun x => { x with streams := [(0, { Stream.idle with pc := 0x10000 })] }

def loopHeader (len : BitVec 10) (count : BitVec 12) : Hdr := { len := len, s := false, lcv := false, lcn := 0, count := count }

theorem test_meets_loop : ∀ count ∈ ([0, 1, 2] : List (BitVec 12)), ∃ (s s1 : State) (f : Hdr) (body : List (BitVec 16)), f.count = count ∧
    s.cur = .stream 0 0 ∧ (s.strm s.cur).blk = none ∧ f.len ≠ 0 ∧ (Instr.blockHeader f).wf = true ∧
    (f.s = true → (s.tile 0).lockset.getLsbD 0 = false) ∧ f.lcv = false ∧
    s.fetch s.cur ((s.strm s.cur).pc + 4) f.len.toNat = .ok (body, s1) ∧ (bodyCount .control 1023 body).isSome = true ∧
    ¬ (f.len.toNat = 1023 ∧ 1 < f.count.toNat) := fun count _ =>
  ⟨atPage, _, loopHeader 2 count, [0, 0], rfl, rfl, rfl, (by decide +kernel : (2 : BitVec 10) ≠ 0), rfl,
    (fun h => nomatch h), rfl,
    ok_of_pair (r := atPage.fetch atPage.cur ((atPage.strm atPage.cur).pc + 4) 2) (by decide +kernel) (by decide +kernel), by decide +kernel,
    fun h => absurd h.1 (by decide +kernel : (2 : BitVec 10).toNat ≠ 1023)⟩

theorem test_meets_loop_register : ∃ (s s1 : State) (f : Hdr) (body : List (BitVec 16)), f.lcv = true ∧ (Instr.blockHeader f).wf = true ∧ f.s = true ∧
    s.cur = .stream 0 0 ∧ (s.strm s.cur).blk = none ∧ f.len ≠ 0 ∧ (s.tile 0).lockset.getLsbD 0 = false ∧ (tget 0 (s.tile 0).lcPrev f.lcn.toNat).toNat = 2 ^ 32 - 1 ∧
    s.fetch s.cur ((s.strm s.cur).pc + 4) f.len.toNat = .ok (body, s1) ∧ (bodyCount .control 1023 body).isSome = true ∧ ¬ f.len.toNat = 1023 :=
  let s := wt 0 fun x => { x with lcPrev := [(3, 0xFFFFFFFF)], streams := [(0, { Stream.idle with pc := 0x10000 })] }
  ⟨s, _, { len := 2, s := true, lcv := true, lcn := 3, count := 0 }, [0, 0], rfl, rfl, rfl, rfl, rfl, (by decide +kernel : (2 : BitVec 10) ≠ 0), by decide +kernel, by decide +kernel,
    ok_of_pair (r := s.fetch s.cur ((s.strm s.cur).pc + 4) 2) (by decide +kernel) (by decide +kernel), by decide +kernel, by decide +kernel⟩

/-- A block whose body is one compact instruction. -/
def oneBlk : Blk :=
  { hdr := 0x10000, body := [0], off := 0, iter := 0, count := 1, lock := false, sfl := none, issued := false, entered := true, set := 0 }

theorem test_meets_loop_end : ∀ iter : Nat, ∃ (st : Stream) (b : Blk), st.blk = some b ∧ b.body.length ≤ b.off + 2 / 2 ∧ b.iter = iter := fun iter =>
  ⟨{ Stream.idle with blk := some { oneBlk with iter := iter } }, _, rfl, Nat.le_refl 1, rfl⟩

def oneDisp : Disp := { baddr := 0x10000, wv := false, wf := 0, wcnt := 0, sv := true, sfl := 3 }

theorem test_meets_queue_take : ∃ s : State, (s.tile 0).task.isSome = true ∧ (s.strm (.stream 0 3)).blk = none ∧ (s.strm (.stream 0 3)).stop = none ∧
    tget [] (s.tile 0).cq 3 = oneDisp :: [] ∧ oneDisp.wv = false :=
  ⟨wt 0 fun x => { x with cq := [(3, [oneDisp])] }, rfl, rfl, rfl, rfl, rfl⟩

theorem test_meets_block_complete : ∃ (s : State) (b : Blk), (s.strm (.stream 0 1)).blk = some b ∧ b.issued = true ∧ b.sfl = none ∧ b.count < 2 ∧
    (s.strm (.stream 0 1)).stop = none ∧ s.blockWritten 0 1 = true :=
  ⟨wt 0 fun x => { x with streams := [(1, { Stream.idle with blk := some { oneBlk with issued := true } })] }, { oneBlk with issued := true }, rfl, rfl, rfl,
    by decide +kernel, rfl, by decide +kernel⟩

def lockBlk : Blk := { oneBlk with lock := true, entered := false }

theorem test_meets_lockstep : ∃ s : State, (s.tile 0).lockset = 6 ∧ (s.tile 0).task.isSome = true ∧ (s.strm (.stream 0 1)).atLock = some lockBlk ∧
    (s.strm (.stream 0 2)).atLock = some lockBlk ∧ bodyCount .access 1023 lockBlk.body = some 1 ∧ bodyCount .vector 1023 lockBlk.body = some 1 ∧
    1 * lockBlk.count = 1 * lockBlk.count ∧ 0 < 1 * lockBlk.count :=
  ⟨wt 0 fun x => { x with lockset := 6, streams := [(1, { Stream.idle with blk := some lockBlk }), (2, { Stream.idle with blk := some lockBlk })] },
    rfl, rfl, rfl, rfl, by decide +kernel, by decide +kernel, rfl, by decide +kernel⟩

theorem test_meets_exception : ∃ (s : State) (c d : Cause), (s.tile 0).task = some placedTask ∧ placedTask.fatal = none ∧ (s.tile 0).handler = none ∧
    s.quiet (.stream 0 3) = true ∧ bit (s.cx 0 cTRAPGRP) 4 = true ∧ c.reports = false ∧ c ≠ .preempt ∧ c.resumable = true ∧ d.reports = false ∧
    d ≠ .preempt ∧ d.resumable = false :=
  ⟨(wt 3).setCx 0 cTRAPGRP 0x10, .breakTrap, .align, rfl, rfl, rfl, by decide +kernel, by decide +kernel, by decide +kernel, by decide +kernel, by decide +kernel, by decide +kernel, by decide +kernel, by decide +kernel⟩

theorem test_meets_frame : Stream.idle.work < 2 ^ 64 ∧ (Who.stream 0 3).num < 4 := by decide +kernel

theorem test_meets_hang : ∃ (s : State) (k : Task), (s.tile 0).task = some k ∧ k.fatal = none ∧ s.cxF k.t.ctx cHANGTMO 0 20 ≠ 0 ∧
    cyclesOf (s.cxF k.t.ctx cHANGTMO 0 20) ≤ (s.ccc - (s.tile 0).lastIssue).toNat :=
  ⟨{ (wt 0).setCx 0 cHANGTMO 1 with ccc := 940 }, placedTask, rfl, rfl, by decide +kernel, by decide +kernel⟩

theorem test_meets_preempt_timeout : ∃ (s : State) (k : Task) (c : Collect), (s.tile 0).task = some k ∧ k.fatal = none ∧ (s.tile 0).collect = some c ∧
    cyclesOf (s.cxF k.t.ctx cPRETMO 0 20) ≤ (s.ccc - c.since).toNat :=
  ⟨{ (wt 0 fun x => { x with collect := some { stage := 0, since := 0 } }) with ccc := 9400000 }, placedTask, { stage := 0, since := 0 }, rfl, rfl, rfl, by decide +kernel⟩

/-- A point on stream 1 at its pc; bit 3 is MODE, bit 4 ONCE. -/
def withPoint (p : BitVec 128) : State := wt 0 fun x => { x with mp := [(63, p)] }

theorem test_meets_match_point : (∃ s : State, s.pointAt 0 1 = some 63 ∧ (s.strm (.stream 0 1)).stop = none ∧ (s.tile 0).task.isSome = true ∧
      bit (tget 0 (s.tile 0).mp 63) 3 = false ∧ (s.tile 0).handler = none ∧ bit (tget 0 (s.tile 0).mp 63) 4 = true) ∧
    ∃ s : State, s.pointAt 0 1 = some 63 ∧ (s.strm (.stream 0 1)).stop = none ∧ (s.tile 0).task.isSome = true ∧ bit (tget 0 (s.tile 0).mp 63) 3 = true :=
  ⟨⟨withPoint 0x13, by decide +kernel, rfl, rfl, by decide +kernel, rfl, by decide +kernel⟩, withPoint 0x0B, by decide +kernel, rfl, rfl, by decide +kernel⟩

/-- A tile without a task; queue 7 holds a descriptor. -/
def queued (f : Tile → Tile) : State :=
  { base with tiles := [(0, f { Tile.idle with tq := [(7, { TaskQueue.idle with tasks := [placedTask.t] })], trace := { Trace.idle with ctl := 0 } })] }

theorem test_meets_lottery : ∃ s s1 : State, (s.tile 0).task = none ∧ (s.tile 0).left.length < 2 ∧ (List.range 8).filter (s.drawable 0) = [7] ∧
    ((s.tile 0).queue 7).tasks = placedTask.t :: [] ∧ placedTask.t.saved = false ∧ (s.tile 0).trace.ctl = 0 ∧ s.reserveLen 0 0 placedTask.t.ctx 16 0 = .ok s1 :=
  ⟨queued id, _, rfl, by decide +kernel, by decide +kernel, rfl, rfl, rfl, ok_of (by decide +kernel)⟩

theorem test_meets_retire : ∃ s : State, (s.tile 0).left = [placedTask] ∧ s.outstanding 0 placedTask = false ∧ s.noticeWaits 0 = false ∧
    placedTask.fatal = none ∧ dOsync placedTask.t.desc 0 = 0 ∧ dOsync placedTask.t.desc 1 = 0 ∧ placedTask.locks = [] ∧ (s.tile 0).trace.ctl = 0 :=
  ⟨queued fun x => { x with left := [placedTask] }, rfl, by decide +kernel, by decide +kernel, rfl, by decide +kernel, by decide +kernel, rfl, rfl⟩

theorem test_meets_removal : ∃ (s : State) (k : Task), (s.tile 0).task = some k ∧ k.fatal.isSome = true ∧ s.noticeWaits 0 = false ∧ s.doomed 0 = none ∧ s.copies = [] ∧ s.stores = [] ∧
    (s.tile 0).mx.drains = [] ∧ (s.tile 0).sc.ops = [] ∧ k.locks = [] ∧ s.mstate k.t.ctx = 4 ∧ k.t.ctx < 64 :=
  ⟨(wt 0 fun x => { x with task := some { placedTask with fatal := some .align } }).setCx 0 cMSTATE 4, { placedTask with fatal := some .align }, rfl, rfl,
    by decide +kernel, by decide +kernel, rfl, rfl, rfl, rfl, rfl, by decide +kernel, by decide +kernel⟩

theorem test_meets_rerun : ∃ s : State, (s.tile 0).rerun = some (7, placedTask.t, 0) ∧ ((s.tile 0).queue 7).tasks.length < 64 ∧ s.noticeWaits 0 = false :=
  ⟨queued fun x => { x with rerun := some (7, placedTask.t, 0) }, rfl, by decide +kernel, by decide +kernel⟩

theorem test_meets_rerun_full : ∃ s : State, (s.tile 0).rerun = some (7, placedTask.t, 0) ∧ ((s.tile 0).queue 7).tasks.length < 64 ∧ s.fifoFull = true :=
  let s := queued fun x => { x with rerun := some (7, placedTask.t, 0) }
  ⟨{ s with sched := { s.sched with fifo := List.replicate 4096 (0, none) } }, rfl, by decide +kernel, by simp [State.fifoFull]⟩

theorem test_meets_preemption : (∃ (s : State) (c : Collect) (k : Task), (s.tile 0).collect = some c ∧ c.stage = 2 ∧ (s.tile 0).task = some k ∧ k.fatal = none ∧
      (s.strm (.stream 0 1)).stop = none ∧ s.atStop 0 1 = true) ∧
    ∃ (s : State) (c : Collect) (k : Task), (s.tile 0).collect = some c ∧ c.stage = 4 ∧ (s.tile 0).task = some k ∧ k.fatal = none ∧ (s.tile 0).trace.ctl = 0 ∧
      ∀ e ∈ s.taskCopies 0 k.serial, e.2.atPiece = true :=
  ⟨⟨wt 0 fun x => { x with collect := some { stage := 2, since := 0 } }, { stage := 2, since := 0 }, placedTask, rfl, rfl, rfl, rfl, rfl, by decide +kernel⟩,
    wt 0 fun x => { noTrace x with collect := some { stage := 4, since := 0 } }, { stage := 4, since := 0 }, placedTask, rfl, rfl, rfl, rfl, rfl, by decide +kernel⟩

theorem test_meets_ownership : ∃ s : State, (s.tile 1).holdsWork = false ∧ bit (s.reg (offTown 1)) 0 = false := ⟨base, by decide +kernel, by decide +kernel⟩

/-! Access class -/

theorem test_meets_address : ∃ (s : State) (f : Tri) (a b : Word), s.cur = .stream 0 1 ∧ (s.strm s.cur).blk = none ∧ s.areg 0 f.a = .ok a ∧
    s.areg 0 f.b = .ok b ∧ f.d.toNat < 32 :=
  ⟨wa [(1, 5)], tri 31 1 0, _, _, rfl, rfl, rfl, rfl, by decide +kernel⟩

theorem test_meets_address_count : ∃ (s : State) (f : Tri) (a : Word), s.cur = .stream 0 1 ∧ (s.strm s.cur).blk = none ∧ s.areg 0 f.a = .ok a ∧
    32 ≤ f.d.toNat ∧ a.toNat < 2 ^ 32 :=
  ⟨wa [(1, 0xFFFFFFFF)], tri 35 1 0, _, rfl, rfl, rfl, by decide +kernel, by decide +kernel⟩

theorem test_meets_address_compact : ∃ (s : State) (f : C16) (x y : Word), s.cur = .stream 0 1 ∧ (s.strm s.cur).blk = none ∧
    s.areg 0 (f.x.setWidth 6) = .ok x ∧ s.areg 0 (f.y.setWidth 6) = .ok y :=
  ⟨wa [(31, 5)], { x := 31, y := 0 }, _, _, rfl, rfl, rfl, rfl⟩

theorem test_meets_interlock : (∃ s : State, s.ccc.toNat < tget 0 (s.tile 0).abusy 1) ∧ ∃ s : State, tget 0 (s.tile 0).abusy 1 = 5 ∧ s.ccc.toNat = 5 :=
  ⟨⟨{ (wa [] fun x => { x with abusy := [(1, 5)] }) with ccc := 4 }, by decide +kernel⟩, { (wa [] fun x => { x with abusy := [(1, 5)] }) with ccc := 5 }, rfl, rfl⟩

theorem test_meets_queue_load : ∃ (s s1 s2 : State) (f : MemF) (a : Word) (l : List (Loc × Nat)), s.cur = .stream 0 1 ∧ s.areg 0 f.a = .ok a ∧ f.d.toNat ≤ 5 ∧
    ((s.tile 0).oqueue f.d.toNat).used < 16 ∧ s.operand (.stream 0 1) (a + f.off.signExtend 64 * 64) 256 false 64 = .ok (l, s1) ∧
    spadOf l = some (0, 64) ∧ s1.reading 0 = false ∧ (s1.tile 0).boardHit 64 256 false = false ∧
    s1.grant 0 64 256 (accessPort 0 0 false) = .ok s2 :=
  ⟨wa [(1, 0x0100000000000000)] (portOpen 1 1 64 256), _, _, memf 5 1 1, _, _, rfl, rfl, by decide +kernel, by decide +kernel, ok_two ([], base) (by decide +kernel), by decide +kernel, by decide +kernel, by decide +kernel,
    ok_of (by decide +kernel)⟩

theorem test_meets_queue_load_memory : ∃ (s s1 : State) (f : MemF) (a : Word) (l : List (Loc × Nat)), s.cur = .stream 0 1 ∧ s.areg 0 f.a = .ok a ∧
    f.d.toNat ≤ 5 ∧ ((s.tile 0).oqueue f.d.toNat).used < 16 ∧ s.operand (.stream 0 1) (a + f.off.signExtend 64 * 64) 64 false 64 = .ok (l, s1) ∧
    spadOf l = none :=
  ⟨wa [(1, 0x10000)], _, memf 5 1 1, _, _, rfl, rfl, by decide +kernel, by decide +kernel, ok_two ([], base) (by decide +kernel), by decide +kernel⟩

/-- Queue 6 holds one entry. -/
def oneEntry (x : Tile) : Tile := { x with oq := [(6, { OpQueue.idle with ents := [0] })] }

theorem test_meets_queue_store : ∃ (s s1 s2 s3 : State) (f : MemF) (a : Word) (l : List (Loc × Nat)), s.cur = .stream 0 1 ∧ s.areg 0 f.a = .ok a ∧ f.d = 6 ∧
    ((s.tile 0).oqueue f.d.toNat).ents = 0 :: [] ∧ s.operand (.stream 0 1) (a + f.off.signExtend 64 * 64) 256 true 64 = .ok (l, s1) ∧
    spadOf l = some (0, 64) ∧ s1.reading 0 = false ∧ (s1.tile 0).boardHit 64 256 true = false ∧
    s1.grant 0 64 256 (accessPort 0 0 true) = .ok s2 ∧ s2.reserve 1 0 (s.ctxOfTile 0) (256 / 8) (a + f.off.signExtend 64 * 64) = .ok s3 :=
  ⟨wa [(1, 0x0100000000000000)] (portOpen 1 3 64 256 ∘ oneEntry), _, _, _, memf 6 1 1, _, _, rfl, rfl, rfl, rfl, ok_two ([], base) (by decide +kernel), by decide +kernel, by decide +kernel, by decide +kernel,
    ok_of (by decide +kernel), ok_of (by decide +kernel)⟩

theorem test_meets_queue_store_memory : ∃ (s s1 s2 : State) (f : MemF) (a : Word) (l : List (Loc × Nat)), s.cur = .stream 0 1 ∧ s.areg 0 f.a = .ok a ∧
    f.d = 6 ∧ ((s.tile 0).oqueue f.d.toNat).ents = 0 :: [] ∧ s.operand (.stream 0 1) (a + f.off.signExtend 64 * 64) 64 true 64 = .ok (l, s1) ∧
    spadOf l = none ∧ txOf l = none ∧ s.writesOut (.stream 0 1) < 128 ∧
    s1.reserveLen 1 0 (s.ctxOfTile 0) (segsBytes (lineSegs l (leBytes 64 (0 : BitVec 2048).toNat)) + s.horizonBytes (s.ctxOfTile 0) none)
      (a + f.off.signExtend 64 * 64) = .ok s2 :=
  ⟨wa [(1, 0x10000)] oneEntry, _, _, memf 6 1 1, _, _, rfl, rfl, rfl, rfl, ok_two ([], base) (by decide +kernel), by decide +kernel, by decide +kernel, by decide +kernel, ok_of (by decide +kernel)⟩

theorem test_meets_gather : ∃ (s s1 : State) (f : Tri) (a : Word) (ls : List Loc), s.cur = .stream 0 1 ∧ s.areg 0 f.a = .ok a ∧ f.d.toNat ≤ 5 ∧
    ((s.tile 0).oqueue f.d.toNat).used < 16 ∧ f.b = 6 ∧ ((s.tile 0).oqueue f.b.toNat).ents = 0 :: [] ∧
    s.gatherLanes (.stream 0 1) a ((List.range 64).map fun i => ((0 : BitVec 2048).extractLsb' (32 * i) 32).toNat) = .ok (ls, s1) ∧
    s.reading 0 = false ∧ ∀ x ∈ ls, ∀ u off c, x = .spad u off c → (s.tile u).boardHit off 4 false = false :=
  ⟨wa [(1, 0x0100000000000000)] oneEntry, _, tri 0 1 6, _, _, rfl, rfl, by decide +kernel, by decide +kernel, rfl, rfl, ok_two ([], base) (by decide +kernel), by decide +kernel,
    fun _ _ u _ _ _ => by rcases u with _ | u <;> rfl⟩

theorem test_meets_tensor_load : ∃ (s : State) (f : CmdE) (c pas : List Nat), s.cur = .stream 0 1 ∧ f.d.toNat ≤ 5 ∧
    ((s.tile 0).oqueue f.d.toNat).used < 16 ∧ s.areg 0 f.a = .ok 3 ∧ (s.tile 0).suppressed f.pv f.pn f.pk = false ∧
    s.tensorUse (s.ctxOfTile 0) 3 = .ok tensor64 ∧ f.imm.getLsbD 12 = false ∧ f.imm.toNat % 4096 = 0 ∧ f.b.toNat + tdNdm1 tensor64 ≤ 31 ∧
    s.coords 0 f.b (tdDims tensor64) = .ok c ∧ checkRun tensor64 3 c 64 = .ok () ∧
    s.chunkPlaces (tdCtab tensor64) false 3 (((List.range 64).map fun k => tdNibble tensor64 (tdIndex tensor64 (addFirst c k))).map (· / 2)) = .ok pas :=
  ⟨withTensor (wa [(1, 3)]), cmde 5 1 31 0 0, _, _, rfl, by decide +kernel, by decide +kernel, rfl, by decide +kernel, rfl, by decide +kernel, by decide +kernel, by decide +kernel, rfl, ok_any () (by decide +kernel),
    ok_any [] (by decide +kernel)⟩

theorem test_meets_tensor_store : ∃ (s s1 : State) (f : CmdE) (c pas : List Nat), s.cur = .stream 0 1 ∧ f.d = 6 ∧
    ((s.tile 0).oqueue f.d.toNat).ents = 0 :: [] ∧ s.areg 0 f.a = .ok 3 ∧ (s.tile 0).suppressed f.pv f.pn f.pk = false ∧
    s.tensorUse (s.ctxOfTile 0) 3 = .ok tensor64 ∧ f.imm.getLsbD 12 = false ∧ f.imm.toNat % 4096 = 64 ∧ f.b.toNat + tdNdm1 tensor64 ≤ 31 ∧
    s.coords 0 f.b (tdDims tensor64) = .ok c ∧ checkRun tensor64 3 c 64 = .ok () ∧ s.writesOut (.stream 0 1) < 128 ∧
    (let runs := joinRuns 131072 ((List.range 64).map fun k =>
      (tdNibble tensor64 (tdIndex tensor64 (addFirst c k)), nibbles (tdBits tensor64) (fld (0 : BitVec 2048) (k * tdBits tensor64) (tdBits tensor64))))
     s.chunkPlaces (tdCtab tensor64) true 3 (runs.map fun r => r.1 / 2) = .ok pas ∧
     s.reserveLen 1 0 (s.ctxOfTile 0) (segsBytes ((runs.zip pas).map fun p => runSeg 2 (tensorAddr 3 (tdXp tensor64)) (fun _ => p.2) p.1)) 3 = .ok s1) :=
  ⟨withTensor (wa [(1, 3)] oneEntry), _, cmde 6 1 31 0 64, _, _, rfl, rfl, rfl, rfl, by decide +kernel, rfl, by decide +kernel, by decide +kernel, by decide +kernel, rfl, ok_any () (by decide +kernel),
    by decide +kernel, ok_any [] (by decide +kernel), ok_of (by decide +kernel)⟩

theorem test_meets_suppressed : ∃ (s : State) (f g : CmdE), s.cur = .stream 0 1 ∧ (s.tile 0).suppressed f.pv f.pn f.pk = true ∧ f.d.toNat ≤ 5 ∧
    ((s.tile 0).oqueue f.d.toNat).used < 16 ∧ (s.tile 0).suppressed g.pv g.pn g.pk = true ∧ g.d = 6 ∧ g.imm.getLsbD 12 = false ∧
    ((s.tile 0).oqueue g.d.toNat).ents = 0 :: [] ∧ g.imm ≠ 0 :=
  ⟨wa [] oneEntry, { cmde 0 1 0 0 0 with pv := true, pn := true }, { cmde 6 1 0 0 8 with pv := true, pn := true }, rfl, by decide +kernel, by decide +kernel, by decide +kernel,
    by decide +kernel, rfl, by decide +kernel, rfl, by decide +kernel⟩

def fills (src : QSrc) : QLoad := { src := [src], copies := 1, tensor := none, order := 0, port0 := [], port1 := [] }

theorem test_meets_fill_queue : (∃ s : State, ((s.tile 0).oqueue 0).loads = fills (.data [7]) :: [] ∧ ∀ k, (s.strm (.stream 0 k)).stop = none) ∧
    ∃ s : State, ((s.tile 0).oqueue 0).loads = fills (.mem 0x50000 256) :: [] ∧ (∀ k, (s.strm (.stream 0 k)).stop = none) ∧
      s.storeOver (.stream 0 1) 0 0x50000 256 = false :=
  ⟨⟨wa [] fun x => { x with oq := [(0, { OpQueue.idle with loads := [fills (.data [7])] })] }, rfl, fun _ => rfl⟩,
    wa [] fun x => { x with oq := [(0, { OpQueue.idle with loads := [fills (.mem 0x50000 256)] })] }, rfl, fun _ => rfl, rfl⟩

theorem test_meets_xwait : ∃ (s s1 : State) (f : Tri), s.cur = .stream 0 1 ∧ (∀ e ∈ s.copies, ∀ c ∈ e.2, c.full = false) ∧ tget Cause.none (s.tile 0).copyFail f.a.toNat = .none ∧
    f.b.toNat ≤ ((s.tile 0).flag f.a.toNat).toNat ∧ s.reserve 1 0 (s.ctxOfTile 0) 0 (BitVec.ofNat 64 f.a.toNat) = .ok s1 ∧ (s.tile 0).sc.isEmpty f.d = false :=
  ⟨wa [] fun x => { x with flags := [(9, 2)] }, _, tri 0 9 2, rfl, by decide +kernel, rfl, by decide +kernel, ok_of (by decide +kernel), rfl⟩

theorem test_meets_rst : ∃ (s s1 s2 s3 s4 : State) (f : CmdE) (la lb : List (Loc × Nat)) (segs : List Seg), s.cur = .stream 0 1 ∧ f.imm = 8 ∧
    (s.tile 0).suppressed f.pv f.pn f.pk = false ∧ s.areg 0 f.a = .ok 0x10000 ∧ s.areg 0 f.b = .ok 0x0140000000000000 ∧ s.accSrc 0 f.c = .ok 0 ∧
    s.operand (.stream 0 1) 0x10000 8 false 8 = .ok (la, s1) ∧ s1.operand (.stream 0 1) 0x0140000000000000 8 true 8 = .ok (lb, s2) ∧
    txOf lb = some (0, 0) ∧ s.checkToken (s.ctxOfTile 0) 0 = .ok () ∧ s.rstReady 0 (la.map fun p => p.1.source p.2) = .ok () ∧
    s.writesOut (.stream 0 1) < 128 ∧ s2.rstSegs (.stream 0 1) 0x10000 0 lb = .ok (segs, s3) ∧
    s3.reserveRing 1 (s.ctxOfTile 0) (segsBytes segs + s.horizonBytes (s.ctxOfTile 0) (some 0)) 0x0140000000000000 = .ok s4 ∧ (s.tile 0).sc.isEmpty f.d = false :=
  ⟨windows (wa [(1, 0x10000), (2, 0x0140000000000000)]), _, _, _, _, cmde 3 1 2 0 8, _, _, _, rfl, rfl, by decide +kernel, rfl, rfl, ok_any 0 (by decide +kernel),
    ok_two ([], base) (by decide +kernel), ok_two ([], base) (by decide +kernel), by decide +kernel, ok_any () (by decide +kernel), ok_any () (by decide +kernel), by decide +kernel,
    ok_two ([], base) (by decide +kernel), ok_of (by decide +kernel), rfl⟩

/-- A remote accumulation of a stream, whose source has been read, to window 5 of chip d. -/
def raccStore (d : Nat) : Store :=
  { oneStore with src := 1, segs := [], adds := [.data [1, 2, 3, 4, 5, 6, 7, 8]], refl := some { win := 0, off := 64, tok := none, slots := [(0, d, 5)], rop := some 0 } }

theorem test_meets_racc : (∃ (s s1 s2 : State) (f : CmdE) (b : Word) (la : List (Loc × Nat)), s.cur = .stream 0 1 ∧ (s.tile 0).suppressed f.pv f.pn f.pk = false ∧
      s.areg 0 f.a = .ok 0x10000 ∧ s.areg 0 f.b = .ok b ∧ fld b 62 2 = 0 ∧ s.isMember (s.ctxOfTile 0) (fld b 0 10) = true ∧
      f.imm.toNat % 65536 = 8 ∧ f.imm.toNat / 65536 % 16 = 0 ∧ fld b 22 40 % 8 = 0 ∧ s.operand (.stream 0 1) 0x10000 8 false 8 = .ok (la, s1) ∧
      s.rstReady 0 (la.map fun p => p.1.source p.2) = .ok () ∧
      (if (fld b 0 10 != s.chip && !s.playing (s.ctxOfTile 0)) = true then s1.reserveRing 1 (s.ctxOfTile 0) 24 b else .ok s1) = .ok s2) ∧
    ∃ (s : State) (e : Store) (r : Reflect) (bs : List Byte), s.stores = [e] ∧ e.segs = [] ∧ e.adds = [.data bs] ∧ e.refl = some r ∧
      r.slots = [(0, s.chip, 5)] ∧ r.rop = some 0 ∧ r.tok = none ∧ e.atom = false ∧ e.op = none ∧ s.loadBefore e = false ∧ 0 < bs.length ∧
      bs.length ≤ 4096 ∧ s.linkTo s.chip = none ∧ s.fences.getLsbD s.chip = false :=
  ⟨⟨windows (wa [(1, 0x10000)]), _, _, cmde 0 1 0 0 8, _, _, rfl, by decide +kernel, rfl, rfl, by decide +kernel, by decide +kernel, by decide +kernel, by decide +kernel, by decide +kernel,
      ok_two ([], base) (by decide +kernel), ok_any () (by decide +kernel), ok_of (by decide +kernel)⟩,
    { wt 0 with stores := [raccStore 0] }, raccStore 0, { win := 0, off := 64, tok := none, slots := [(0, 0, 5)], rop := some 0 }, [1, 2, 3, 4, 5, 6, 7, 8], rfl, rfl,
    rfl, rfl, by decide +kernel, rfl, rfl, rfl, rfl, by decide +kernel, by decide +kernel, by decide +kernel, by decide +kernel, by decide +kernel⟩

theorem test_meets_racc_suppressed : ∃ (s : State) (f : CmdE), s.cur = .stream 0 1 ∧ (s.tile 0).suppressed f.pv f.pn f.pk = true ∧
    (s.tile 0).sc.isEmpty f.d = false ∧ f.imm.toNat % 65536 ≠ 0 ∧ f.imm.toNat / 65536 % 16 % 4 ≠ 3 ∧ f.imm.toNat / 65536 % 16 / 4 ≠ 3 :=
  ⟨wa [], { cmde 0 1 0 0 8 with pv := true, pn := true }, rfl, by decide +kernel, by decide +kernel, by decide +kernel, by decide +kernel, by decide +kernel⟩

/-- A tensor of 64 by 4 FP32 elements: tensor 3 of context 0. -/
def tensor64x4 : BitVec 512 := 0x6000000000000000000000000000000000000000000000000000000000004000000400000000000000401#512

/-- A descriptor of TCOPY on page 0x10000. -/
def copyDesc : BitVec 1024 := 0x80000000000000000000000000001020000000000000101000000000000000280#1024
/-- A descriptor of TGATHER on page 0x10000. -/
def gatherDesc : BitVec 1024 := 0x2000000080000000000010100000000000001020000000000000000000000000000000e11#1024
/-- A descriptor of TSCATTER on page 0x10000. -/
def scatterDesc : BitVec 1024 := 0x20000000800000000000101000000000000000000000000000001020000000000000c0092#1024
/-- A descriptor of TFILL on page 0x10000. -/
def fillDesc : BitVec 1024 := 0x80000000000000000000000000001020000000000000000550000000000000303#1024

def withCopy (d : BitVec 1024) : State := { withMem (wa [(1, 0x10000)]) (leBytes 128 d.toNat) with tensors := [(3, tensor64x4)] }

/-- What the statement of CopiesIssue assumes of a copy with the descriptor d. -/
def CopyMay (d : BitVec 1024) (kind : Nat) : Prop :=
  ∃ (s s1 s2 : State) (f : CmdE) (l : List (Loc × Nat)) (ents : List (Nat × Nat)), s.cur = .stream 0 1 ∧ f.imm.toNat / 16 % 64 = 0 ∧
    (s.tile 0).suppressed f.pv f.pn f.pk = false ∧ s.areg 0 f.a = .ok 0x10000 ∧ s.operand (.stream 0 1) 0x10000 128 false 64 = .ok (l, s1) ∧
    spadOf l = none ∧ s.rstReady 0 (l.map fun p => p.1.source p.2) = .ok () ∧
    (∀ p ∈ l.map (fun p => p.1.source p.2), p.line? = none → s.srcReady (.stream 0 1) s.nextId p = true) ∧
    d = BitVec.ofNat 1024 (leNat ((l.map fun p => p.1.source p.2).flatMap s1.sourceBytes)) ∧ s1.cpCheck (s.ctxOfTile 0) (some 0) d = .ok () ∧ s.pubs = [] ∧
    (tget [] s.copies 0).length < 32 ∧ s1.takeBoard (s1.cpRanges (s.ctxOfTile 0) (some 0) d 0) = some (ents, s2) ∧ d.toNat % 4 = kind

theorem test_meets_tcopy : CopyMay copyDesc 0 :=
  ⟨withCopy copyDesc, _, _, cmde 0 1 0 0 0, _, _, rfl, by decide +kernel, by decide +kernel, rfl, ok_two ([], base) (by decide +kernel), by decide +kernel, ok_any () (by decide +kernel),
    by decide +kernel, by decide +kernel, ok_any () (by decide +kernel), rfl, by decide +kernel, some_two ([], base) (by decide +kernel), by decide +kernel⟩

theorem test_meets_tgather : CopyMay gatherDesc 1 :=
  ⟨withCopy gatherDesc, _, _, cmde 0 1 0 0 0, _, _, rfl, by decide +kernel, by decide +kernel, rfl, ok_two ([], base) (by decide +kernel), by decide +kernel, ok_any () (by decide +kernel),
    by decide +kernel, by decide +kernel, ok_any () (by decide +kernel), rfl, by decide +kernel, some_two ([], base) (by decide +kernel), by decide +kernel⟩

theorem test_meets_tscatter : CopyMay scatterDesc 2 :=
  ⟨withCopy scatterDesc, _, _, cmde 0 1 0 0 0, _, _, rfl, by decide +kernel, by decide +kernel, rfl, ok_two ([], base) (by decide +kernel), by decide +kernel, ok_any () (by decide +kernel),
    by decide +kernel, by decide +kernel, ok_any () (by decide +kernel), rfl, by decide +kernel, some_two ([], base) (by decide +kernel), by decide +kernel⟩

theorem test_meets_tfill : CopyMay fillDesc 3 :=
  ⟨withCopy fillDesc, _, _, cmde 0 1 0 0 0, _, _, rfl, by decide +kernel, by decide +kernel, rfl, ok_two ([], base) (by decide +kernel), by decide +kernel, ok_any () (by decide +kernel),
    by decide +kernel, by decide +kernel, ok_any () (by decide +kernel), rfl, by decide +kernel, some_two ([], base) (by decide +kernel), by decide +kernel⟩

theorem test_meets_copy_suppressed : ∃ (s : State) (f : CmdE), s.cur = .stream 0 1 ∧ (s.tile 0).suppressed f.pv f.pn f.pk = true ∧ f.imm.getLsbD 3 = false ∧
    f.imm.toNat / 16 % 64 = 0 :=
  ⟨wa [], { cmde 0 1 0 0 7 with pv := true, pn := true }, rfl, by decide +kernel, by decide +kernel, by decide +kernel⟩

/-- A copy of an action, on engine 0. -/
def oneCopy (d : BitVec 1024) : Copy :=
  { desc := d, tile := none, ctx := 0, serial := 0, sgf := none, dcv := none, entry := 0, act := 0, idx := [], piece := 0, parked := none, fault := 0,
    failed := none, board := [], lifted := [], srcT := none, dstT := none, beats := none, full := false, win := 0, stopping := false, after := 0 }

def onlySeg : Except Block (List Seg) → Option Seg
  | .ok [g] => some g
  | _ => none

theorem only_seg {r : Except Block (List Seg)} {d : Seg} (h : (onlySeg r).isSome = true) : r = .ok [(onlySeg r).getD d] := by
  rcases r with _ | (_ | ⟨g, _ | _⟩) <;> first | rfl | exact nomatch h

theorem test_meets_copy_piece : ∀ b ∈ ([none, some []] : List (Option (List (List (Nat × Nat × Bool))))), ∃ (s s1 : State) (c : Copy) (g : Seg),
    tget [] s.copies 0 = [c] ∧ s.copyRuns 0 0 c = true ∧ cpIndexed c.desc = false ∧ s.pieceSegs c = .ok [g] ∧ c.beats = b ∧ cpDsh c.desc = false ∧ c.tile = none ∧
    g.akind = 1 ∧ g.keepLow = false ∧ g.keepHigh = false ∧ s.reserveRing 6 c.ctx (segsBytes [g]) 0 = .ok s1 := by
  intro b hb
  rcases List.mem_pair.mp hb with rfl | rfl
  · exact ⟨{ wt 0 with copies := [(0, [oneCopy fillDesc])] }, _, oneCopy fillDesc, _, rfl, by decide +kernel, by decide +kernel, only_seg (d := oneSeg) (by decide +kernel), rfl,
      by decide +kernel, rfl, by decide +kernel, by decide +kernel, by decide +kernel, ok_of (by decide +kernel)⟩
  · exact ⟨{ wt 0 with copies := [(0, [{ oneCopy fillDesc with beats := some [] }])] }, _, { oneCopy fillDesc with beats := some [] }, _, rfl, by decide +kernel, by decide +kernel,
      only_seg (d := oneSeg) (by decide +kernel), rfl, by decide +kernel, rfl, by decide +kernel, by decide +kernel, by decide +kernel, ok_of (by decide +kernel)⟩

theorem test_meets_copy_resume : ∃ (s : State) (c : Copy) (g : Seg), tget [] s.copies 0 = [c] ∧ c.parked ≠ none ∧ cpIndexed c.desc = false ∧
    s.pieceSegs c = .ok [g] :=
  ⟨{ wt 0 with copies := [(0, [{ oneCopy fillDesc with parked := some (true, 0x60000) }])] }, { oneCopy fillDesc with parked := some (true, 0x60000) }, _, rfl,
    by decide +kernel, by decide +kernel, only_seg (d := oneSeg) (by decide +kernel)⟩

theorem test_meets_copy_retire : ∃ (s : State) (c : Copy), tget [] s.copies 0 = [c] ∧ c.done = true ∧ c.tile = some 0 ∧ c.sgf = none ∧ c.board = [(0, 95)] :=
  ⟨{ wt 0 with copies := [(0, [{ oneCopy fillDesc with tile := some 0, piece := 1, board := [(0, 95)] }])] },
    { oneCopy fillDesc with tile := some 0, piece := 1, board := [(0, 95)] }, rfl, by decide +kernel, rfl, rfl, rfl⟩

theorem test_meets_scoreboard_stall : ∃ (s : State) (since : Word) (k : Task), (s.tile 0).boardSince = some since ∧ 2 ^ 20 ≤ (s.ccc - since).toNat ∧
    (s.strm (.stream 0 1)).stop = none ∧ (s.tile 0).task = some k :=
  ⟨{ (wa [] fun x => { x with boardSince := some 0 }) with ccc := 0x100000 }, 0, placedTask, rfl, by decide +kernel, rfl, rfl⟩

theorem test_meets_page_in : ∃ (s : State) (c : Copy) (fr : BitVec 36), tget [] s.copies 0 = [c] ∧ c.parked = some (true, 0x60000) ∧
    fr.toNat * 65536 < 2 ^ 39 ∧ (0x60000 : Word).toNat < 2 ^ 39 :=
  ⟨{ wt 0 with copies := [(0, [{ oneCopy fillDesc with parked := some (true, 0x60000) }])] }, { oneCopy fillDesc with parked := some (true, 0x60000) }, 0x7FFFFF,
    rfl, rfl, by decide +kernel, by decide +kernel⟩

/-! Vector class -/

def vform (d a b : BitVec 6) (ty ty2 : BitVec 4) (imm : BitVec 7) : VForm :=
  { d := d, a := a, b := b, c := 0, pv := false, pn := false, pk := 0, ty := ty, ty2 := ty2, rm := 0, fzi := false, fzo := false, sat := false, imm := imm }

theorem test_meets_vector_float : ∀ ty ∈ ([0, 1, 2] : List (BitVec 4)), ∃ (s : State) (f : VForm), f.ty = ty ∧ s.cur = .stream 0 2 ∧ f.ty.toNat ≤ 2 ∧
    (s.tile 0).vReady s.ccc [f.d.toNat, f.a.toNat, f.b.toNat, f.c.toNat] (if f.pv then [f.pk.toNat] else []) = true := by
  intro ty h
  refine ⟨wt 2, { vform 1 2 3 ty 0 0 with pv := true, pk := 15 }, rfl, rfl, ?_, rfl⟩
  revert ty
  decide

theorem test_meets_vector_integer : ∀ ty ∈ ([6, 9, 10, 11, 12, 13] : List (BitVec 4)), ∃ (s : State) (f : VForm) (lo hi : Int), f.ty = ty ∧
    s.cur = .stream 0 2 ∧ (f.ty = 6 ∨ (9 ≤ f.ty.toNat ∧ f.ty.toNat ≤ 13)) ∧ intRange f.ty.toNat = some (lo, hi) ∧
    (s.tile 0).vReady s.ccc [f.d.toNat, f.a.toNat, f.b.toNat] (if f.pv then [f.pk.toNat] else []) = true := by
  intro ty h
  refine ⟨wt 2, vform 1 2 3 ty 0 0, ((intRange ty.toNat).getD (0, 0)).1, ((intRange ty.toNat).getD (0, 0)).2, rfl, rfl, ?_, ?_, rfl⟩ <;>
    (revert ty; decide)

theorem test_meets_vector_moves : ∃ (s : State) (f g h : VForm), s.cur = .stream 0 2 ∧ f.imm = 0 ∧ f.ty.toNat ≤ 2 ∧ g.imm ≠ 0 ∧ g.ty = 6 ∧
    (9 ≤ h.ty.toNat ∧ h.ty.toNat ≤ 12) ∧ 2 ≤ h.imm.toNat ∧ h.imm.toNat < 4 ∧
    (s.tile 0).vReady s.ccc [1, 2, 3] [] = true :=
  ⟨wt 2, vform 1 2 3 2 0 0, vform 1 2 3 6 0 5, vform 1 2 3 12 0 3, rfl, rfl, by decide +kernel, by decide +kernel, rfl, by decide +kernel, by decide +kernel, by decide +kernel, by decide +kernel⟩

theorem test_meets_vector_compare : ∃ (s : State) (f : VForm) (holds : Nat → Bool), s.cur = .stream 0 2 ∧
    (s.tile 0).vReady s.ccc [f.d.toNat, f.a.toNat, f.b.toNat] ((f.imm.toNat / 8 % 16) :: if f.pv then [f.pk.toNat] else []) = true ∧ f.ty.toNat ≤ 2 ∧
    ∀ e, let p := flushIn f.fzi (decodeNum f.ty.toNat 0 (velem (s.tile 0) f.a 32 e)) f.ty.toNat
      let q := flushIn f.fzi (decodeNum f.ty.toNat 0 (velem (s.tile 0) f.b 32 e)) f.ty.toNat
      let nan := p.isNan || q.isNan
      holds e = [!nan && p.eq q, nan || !p.eq q, !nan && p.lt q, !nan && (p.lt q || p.eq q), !nan && !p.lt q && !p.eq q, !nan && !p.lt q, nan,
        !nan].getD (f.imm.toNat % 8) false :=
  ⟨wt 2, vform 1 2 3 0 0 0x7F, _, rfl, by decide +kernel, by decide +kernel, fun _ => rfl⟩

theorem test_meets_vector_compare_integer : ∃ (s : State) (f : VForm) (holds : Nat → Bool), s.cur = .stream 0 2 ∧
    (s.tile 0).vReady s.ccc [f.d.toNat, f.a.toNat, f.b.toNat] ((f.imm.toNat / 8 % 16) :: if f.pv then [f.pk.toNat] else []) = true ∧ f.ty = 6 ∧
    ∀ e, let p := vInt f.ty.toNat (velem (s.tile 0) f.a 8 e)
      let q := vInt f.ty.toNat (velem (s.tile 0) f.b 8 e)
      holds e = [decide (velem (s.tile 0) f.a 8 e = velem (s.tile 0) f.b 8 e), decide (velem (s.tile 0) f.a 8 e ≠ velem (s.tile 0) f.b 8 e), decide (p < q),
        decide (p < q) || decide (velem (s.tile 0) f.a 8 e = velem (s.tile 0) f.b 8 e),
        !decide (p < q) && decide (velem (s.tile 0) f.a 8 e ≠ velem (s.tile 0) f.b 8 e), !decide (p < q), false, true].getD (f.imm.toNat % 8) false :=
  ⟨wt 2, vform 1 2 3 6 0 2, _, rfl, by decide +kernel, rfl, fun _ => rfl⟩

theorem test_meets_vector_reduction : ∃ (s : State) (f g : VForm) (lo hi : Int) (r : Nat), s.cur = .stream 0 2 ∧
    (s.tile 0).vReady s.ccc [f.d.toNat, f.a.toNat] (if f.pv then [f.pk.toNat] else []) = true ∧ f.ty.toNat = 9 ∧ f.imm.toNat % 4 = 0 ∧
    intRange 9 = some (lo, hi) ∧ (s.tile 0).vReady s.ccc [g.d.toNat, g.a.toNat] (if g.pv then [g.pk.toNat] else []) = true ∧ g.ty.toNat ≤ 1 ∧
    g.imm.toNat % 4 ≤ 2 ∧
    treeNode (vNode g) (fun e => if e < 2048 / 32 ∧ laneActive (s.tile 0) g e = true then some (vLeaf g (velem (s.tile 0) g.a 32 e)) else none) 7 0 = some r :=
  ⟨wt 2 fun x => { x with kreg := [(1, 1)] }, vform 1 2 0 9 0 4, { vform 1 2 0 0 0 2 with pv := true, pk := 1 }, _, _, _, rfl, by decide +kernel, by decide +kernel, by decide +kernel, rfl,
    by decide +kernel, by decide +kernel, by decide +kernel, rfl⟩

theorem test_meets_conversion : ∃ (s : State) (f : VForm), s.cur = .stream 0 2 ∧ f.ty ≠ 8 ∧ f.ty2 ≠ 8 ∧
    f.imm.toNat % 8 < max (typeBits f.ty.toNat / typeBits f.ty2.toNat) (typeBits f.ty2.toNat / typeBits f.ty.toNat) ∧
    (s.tile 0).vReady s.ccc [f.d.toNat, f.a.toNat] (if f.pv then [f.pk.toNat] else []) = true :=
  ⟨wt 2, vform 1 2 0 1 0 1, rfl, by decide +kernel, by decide +kernel, by decide +kernel, by decide +kernel⟩

theorem test_meets_quantise : ∃ (s : State) (f : VForm), s.cur = .stream 0 2 ∧ 3 ≤ f.ty.toNat ∧ f.ty.toNat ≤ 8 ∧ f.ty2.toNat ≤ 1 ∧
    (f.ty = 8 → f.imm.toNat / 4 % 4 = 0) ∧
    f.imm.toNat / 16 < max (typeBits f.ty.toNat / typeBits f.ty2.toNat) (typeBits f.ty2.toNat / typeBits f.ty.toNat) ∧
    (s.tile 0).vReady s.ccc [f.d.toNat, f.a.toNat, f.b.toNat] (if f.pv then [f.pk.toNat] else []) = true :=
  ⟨wt 2, vform 1 2 3 8 0 0x71, rfl, by decide +kernel, by decide +kernel, by decide +kernel, by decide +kernel, by decide +kernel, by decide +kernel⟩

theorem test_meets_dequantise : ∃ (s : State) (f : VForm), s.cur = .stream 0 2 ∧ f.ty.toNat ≤ 1 ∧ 3 ≤ f.ty2.toNat ∧ f.ty2.toNat ≤ 8 ∧
    (f.ty2 = 8 → f.imm.toNat / 4 % 4 = 0) ∧
    f.imm.toNat / 16 < max (typeBits f.ty.toNat / typeBits f.ty2.toNat) (typeBits f.ty2.toNat / typeBits f.ty.toNat) ∧
    (s.tile 0).vReady s.ccc [f.d.toNat, f.a.toNat, f.b.toNat] (if f.pv then [f.pk.toNat] else []) = true :=
  ⟨wt 2, vform 1 2 3 1 8 0x31, rfl, by decide +kernel, by decide +kernel, by decide +kernel, by decide +kernel, by decide +kernel, by decide +kernel⟩

theorem test_meets_conditional_buffers : ∃ (s : State) (f : VForm), s.cur = .stream 0 2 ∧ f.ty = 0 ∧ (s.tile 0).vReady s.ccc [f.a.toNat] [] = true ∧
    ((s.tile 0).cbuf f.d.toNat).recs.length + (((List.range 64).filter (laneActive (s.tile 0) f)).map fun l =>
      BitVec.ofNat 32 (velem (s.tile 0) f.a 32 l)).length ≤ 4096 ∧
    (s.tile 0).vReady s.ccc [f.d.toNat] [f.imm.toNat % 16] = true ∧ ((s.tile 0).cbuf f.a.toNat).closed = true :=
  ⟨wt 2 fun x => { x with cb := [(2, { recs := [7], closed := true })] }, vform 1 2 0 0 0 3, rfl, rfl, by decide +kernel, by decide +kernel, by decide +kernel, rfl⟩

theorem test_meets_masks_and_queues : ∃ (s : State) (f g h : VForm), s.cur = .stream 0 2 ∧
    (s.tile 0).vReady s.ccc [] ([f.d, f.a, f.b].map (·.toNat)) = true ∧ ((s.tile 0).oqueue g.a.toNat).ents = 0 :: [] ∧
    (s.tile 0).vReady s.ccc [g.d.toNat] [] = true ∧ (s.tile 0).vReady s.ccc [h.a.toNat] [] = true ∧ ((s.tile 0).oqueue h.d.toNat).used < 16 :=
  ⟨wt 2 oneEntry, vform 1 2 3 0 0 0, vform 1 6 0 0 0 0, vform 7 1 0 0 0 0, rfl, by decide +kernel, rfl, by decide +kernel, by decide +kernel, by decide +kernel⟩

/-! Matrix class -/

def mform (d a b c : BitVec 6) (ty : BitVec 4) (dt : BitVec 8) : MForm :=
  { d := d, a := a, b := b, c := c, pv := false, pn := false, pk := 0, dt := dt, ec := 0, rm := 0, sat := false, fzo := false, ty := ty }

/-- The matrix stream of tile 0 is at issue. -/
def wm (f : Matrix → Matrix := id) (g : Tile → Tile := id) : State := wt 3 fun x => g { x with mx := f x.mx }

/-- A form with DT = 0 and EC = 0 may issue. -/
theorem may_issue {s : State} (h : s.cur = .stream 0 3) (d : s.debits (s.ctxOfTile 0) = false) (pk : BitVec 4) : matrixMay s 0 3 0 0 false pk :=
  ⟨h, .inl rfl, nofun, fun h => nomatch d.symm.trans h⟩

theorem test_meets_stamps : (∃ s : State, matrixMay s 0 3 0 0 false 0) ∧ (∃ s : State, s.ccc = 9 ∧ (s.tile 0).mx.strict = true ∧ matrixMay s 0 3 5 0 false 0) ∧
    ∃ s : State, s.ccc = 12 ∧ (s.tile 0).mx.strict = false ∧ (s.tile 0).mx.run = true ∧ matrixMay s 0 3 5 0 false 0 :=
  ⟨⟨wm, may_issue rfl rfl 0⟩,
    ⟨{ (wm (fun m => { m with strict := true, run := true, p := 4 }) fun x => { x with streams := [(3, { Stream.idle with reached := some 8 })] }) with ccc := 9 },
      rfl, rfl, rfl, .inr (.inr (.inr (.inl ⟨rfl, rfl, rfl, by decide +kernel⟩))), nofun, fun h => absurd h (by decide +kernel)⟩,
    { (wm fun m => { m with run := true, p := 4 }) with ccc := 12 }, rfl, rfl, rfl, rfl, .inr (.inr (.inr (.inr ⟨rfl, rfl, by decide +kernel, fun h => absurd h (by decide +kernel)⟩))),
    nofun, fun h => absurd h (by decide +kernel)⟩

theorem test_meets_sched_miss : ∃ (s : State) (f : MForm), s.cur = .stream 0 3 ∧ f.dt ≠ 0 ∧ (s.strm s.cur).free = false ∧ (s.tile 0).mx.strict = true ∧
    (s.tile 0).mx.run = true ∧ (s.tile 0).mx.p + f.dt.setWidth 64 ≤ s.ccc ∧ (s.tile 0).mx.p + f.dt.setWidth 64 ≤ (s.strm s.cur).reached.getD s.ccc :=
  ⟨{ (wm fun m => { m with strict := true, run := true, p := 4 }) with ccc := 9 }, mform 0 0 0 0 0 5, rfl, by decide +kernel, rfl, rfl, rfl, by decide +kernel, by decide +kernel⟩

theorem test_meets_matrix_wait : ∃ (s s2 : State) (f g : MForm), matrixMay s 0 3 f.dt f.ec f.pv f.pk ∧ f.b = 0 ∧ (s.tile 0).mx.drains = [] ∧
    (s.tile 0).mx.epiFree ≤ s.ccc.toNat ∧ matrixMay s 0 3 g.dt g.ec g.pv g.pk ∧ g.b ≠ 0 ∧ g.b.toNat ≤ ((s.tile 0).flag g.d.toNat).toNat ∧
    (matrixStart s 0 g.dt g.ec).flagReserve 3 0 g.d.toNat = .ok s2 ∧ g.b.toNat ≤ ((s2.tile 0).flag g.d.toNat).toNat :=
  ⟨wm id fun x => { x with flags := [(9, 2)] }, _, mform 0 0 0 0 0 0, mform 9 0 2 0 0 0, may_issue rfl rfl 0, rfl, rfl, by decide +kernel, may_issue rfl rfl 0, by decide +kernel,
    by decide +kernel, ok_of (by decide +kernel), by decide +kernel⟩

/-- Queue 4 holds one entry of zeros, queue 5 another. -/
def matrixQueues (x : Tile) : Tile := { x with oq := [(4, { OpQueue.idle with ents := [0] }), (5, { OpQueue.idle with ents := [0] })] }

theorem test_meets_matrix_entries : ∃ (s : State) (f : MForm), matrixMay s 0 3 f.dt f.ec f.pv f.pk ∧ ((s.tile 0).oqueue (4 + f.a.toNat)).ents = 0 :: [] ∧
    (∀ r ∈ (s.tile 0).mx.runs, 4 + f.a.toNat ∉ r.job.queues) ∧ (0 : BitVec 2048).extractLsb' 24 40 = 0 ∧ (0 : BitVec 2048).extractLsb' 104 24 = 0 ∧
    ((0 : BitVec 2048).getLsbD 0 = true → s.isMember (s.ctxOfTile 0) ((0 : BitVec 2048).extractLsb' 1 10).toNat = true) ∧
    ∀ d ∈ (s.tile 0).mx.drains, ∀ j, d.tag = some j → ¬ (f.d.toNat ≤ j ∧ j < f.d.toNat + f.a.toNat) :=
  ⟨wm id matrixQueues, mform 3 1 0 0 0 0, may_issue rfl rfl 0, rfl, (by intro r h; cases h), by decide +kernel, by decide +kernel, by decide +kernel, (by intro d h; cases h)⟩

theorem test_meets_weights_load : ∃ (s : State) (f : MForm), matrixMay s 0 3 f.dt f.ec f.pv f.pk ∧ 64 * f.c.toNat + f.b.toNat = 16 ∧
    4096 * f.d.toNat + 256 * 16 ≤ 262144 ∧ (s.tile 0).mx.slotsIdle s.ccc.toNat (slotsOf f.d.toNat (256 * 16)) = true ∧
    (∀ r ∈ (s.tile 0).mx.runs, 4 + f.a.toNat ∉ r.job.queues) ∧ ((s.tile 0).oqueue (4 + f.a.toNat)).ents = 0 :: [] :=
  ⟨wm id matrixQueues, mform 63 1 16 0 0 0, may_issue rfl rfl 0, by decide +kernel, by decide +kernel, by decide +kernel, (by intro r h; cases h), rfl⟩

/-- The header of an FP8 image without scales, its values zero. -/
def fp8Image : Mem := [(0, 3), (2, 0x57), (3, 0x4D)]

theorem test_meets_weights_select : ∃ (s : State) (f : MForm), matrixMay s 0 3 f.dt f.ec f.pv f.pk ∧ (s.tile 0).mx.loadFree ≤ s.ccc.toNat ∧
    (s.tile 0).mx.planeIdle s.ccc.toNat f.a.toNat = true ∧ (s.tile 0).mx.slotsIdle s.ccc.toNat [f.d.toNat] = true ∧
    imgBad (imgAt (s.tile 0).mx.wb f.d.toNat) f.d.toNat = false ∧
    (s.tile 0).mx.slotsIdle s.ccc.toNat (slotsOf f.d.toNat (imgLen (imgHead (imgAt (s.tile 0).mx.wb f.d.toNat)))) = true :=
  ⟨wm fun m => { m with wb := fp8Image }, mform 0 1 0 0 0 0, may_issue rfl rfl 0, by decide +kernel, by decide +kernel, by decide +kernel, by decide +kernel, by decide +kernel⟩

/-- Plane 1 holds that image. -/
def withPlane (m : Matrix) : Matrix := { m with planes := [(1, { slot := 0, valid := true, img := fp8Image })] }

theorem test_meets_multiply : ∃ (s : State) (f : MForm), matrixMay s 0 3 f.dt f.ec f.pv f.pk ∧ 8 * f.d.toNat + 8 * (f.c.toNat + 1) ≤ 512 ∧
    (let m := (s.tile 0).mx
     let p := f.a.toNat % 2
     let img := (m.plane p).img
     m.arrayIdle s.ccc.toNat = true ∧ m.planeIdle s.ccc.toNat p = true ∧ m.rowsIdle s.ccc.toNat (8 * f.d.toNat) (8 * (f.c.toNat + 1)) true = true ∧
     (m.plane p).valid = true ∧ 32 * f.b.toNat ≤ depth (imgFmt (imgHead img)) ∧ mmaGroup f.ty.toNat ≠ 0 ∧
     mmaGroup f.ty.toNat = mmaGroup (imgFmt (imgHead img)) ∧ f.a.toNat / 4 % 4 = 0 ∧ f.a.toNat / 2 % 2 = 0 ∧ f.ty.toNat ≠ 8) ∧
    (∀ r ∈ (s.tile 0).mx.runs, ∀ q ∈ r.job.queues, q ≠ 4) ∧ ((s.tile 0).oqueue 4).ents = 0 :: [] :=
  ⟨wm withPlane matrixQueues, mform 63 1 4 0 4 0, may_issue rfl rfl 0, by decide +kernel,
    ⟨by decide +kernel, by decide +kernel, by decide +kernel, by decide +kernel, by decide +kernel, by decide +kernel, by decide +kernel, by decide +kernel, by decide +kernel, by decide +kernel⟩, (by intro r h; cases h), rfl⟩

theorem test_meets_multiply_scaled : ∃ (s : State) (f : MForm), matrixMay s 0 3 f.dt f.ec f.pv f.pk ∧ 8 * f.d.toNat + 8 * (f.c.toNat + 1) ≤ 512 ∧
    (let m := (s.tile 0).mx
     let p := f.a.toNat % 2
     let img := (m.plane p).img
     let blk := f.a.toNat / 4 % 4
     m.arrayIdle s.ccc.toNat = true ∧ m.planeIdle s.ccc.toNat p = true ∧ m.rowsIdle s.ccc.toNat (8 * f.d.toNat) (8 * (f.c.toNat + 1)) true = true ∧
     (m.plane p).valid = true ∧ f.b = 0 ∧ mmaGroup f.ty.toNat ≠ 0 ∧ mmaGroup f.ty.toNat = mmaGroup (imgFmt (imgHead img)) ∧ blk ≠ 0 ∧ f.ty.toNat ≠ 1 ∧
     f.ty.toNat ≠ 6 ∧ f.a.toNat / 2 % 2 = 0 ∧ f.ty.toNat ≠ 8 ∧ imgBlk (imgHead img) = 0) ∧
    (∀ r ∈ (s.tile 0).mx.runs, ∀ q ∈ r.job.queues, q ≠ 4 ∧ q ≠ 5) ∧ ((s.tile 0).oqueue 4).ents = 0 :: [] ∧ ((s.tile 0).oqueue 5).ents = 0 :: [] :=
  ⟨wm withPlane matrixQueues, mform 0 5 0 63 3 0, may_issue rfl rfl 0, by decide +kernel,
    ⟨by decide +kernel, by decide +kernel, by decide +kernel, by decide +kernel, by decide +kernel, by decide +kernel, by decide +kernel, by decide +kernel, by decide +kernel, by decide +kernel, by decide +kernel, by decide +kernel, by decide +kernel⟩,
    (by intro r h; cases h), rfl, rfl⟩

theorem test_meets_hadamard_rows : ∃ (s : State) (f : MForm), matrixMay s 0 3 f.dt f.ec f.pv f.pk ∧ 4 ≤ f.b.toNat ∧ f.b.toNat ≤ 6 ∧ f.a = 0 ∧ f.ty.toNat = 0 ∧
    8 * f.d.toNat + 8 * (f.c.toNat + 1) ≤ 512 ∧ (s.tile 0).mx.rowsIdle s.ccc.toNat (8 * f.d.toNat) (8 * (f.c.toNat + 1)) false = true :=
  ⟨wm, mform 63 0 6 0 0 0, may_issue rfl rfl 0, by decide +kernel, by decide +kernel, rfl, by decide +kernel, by decide +kernel, by decide +kernel⟩

theorem test_meets_hadamard_plane : ∃ (s : State) (f : MForm), matrixMay s 0 3 f.dt f.ec f.pv f.pk ∧ 4 ≤ f.b.toNat ∧ f.b.toNat ≤ 6 ∧ f.a ≠ 0 ∧
    (let m := (s.tile 0).mx
     let p := f.a.toNat / 2 % 2
     let hd := imgHead (m.plane p).img
     m.arrayIdle s.ccc.toNat = true ∧ m.planeIdle s.ccc.toNat p = true ∧ (m.plane p).valid = true ∧ f.ty.toNat = imgFmt hd ∧ f.ty.toNat = 3 ∧ imgBlk hd = 0 ∧
     imgCmp hd = 0 ∧ m.slotsIdle s.ccc.toNat (slotsOf (m.plane p).slot (imgLen hd)) = true) :=
  ⟨wm withPlane, mform 0 3 4 0 3 0, may_issue rfl rfl 0, by decide +kernel, by decide +kernel, by decide +kernel,
    by decide +kernel, by decide +kernel, by decide +kernel, by decide +kernel, by decide +kernel, by decide +kernel, by decide +kernel, by decide +kernel⟩

theorem test_meets_matrix_quantise : ∃ (s : State) (f : MForm), matrixMay s 0 3 f.dt f.ec f.pv f.pk ∧ 8 * f.d.toNat + 8 * (f.c.toNat + 1) ≤ 512 ∧
    wFormat f.ty.toNat = true ∧ f.b.toNat % 4 = 0 ∧ f.ty.toNat ≠ 8 ∧ 8 * (f.c.toNat + 1) ≤ depth f.ty.toNat ∧
    4096 * f.a.toNat + (64 + 16384) ≤ 262144 ∧ (s.tile 0).mx.epiIdle s.ccc.toNat = true ∧
    (s.tile 0).mx.rowsIdle s.ccc.toNat (8 * f.d.toNat) (8 * (f.c.toNat + 1)) false = true ∧
    (s.tile 0).mx.slotsIdle s.ccc.toNat (slotsOf f.a.toNat (64 + 16384)) = true :=
  ⟨wm, mform 0 59 0 15 3 0, may_issue rfl rfl 0, by decide +kernel, by decide +kernel, by decide +kernel, by decide +kernel, by decide +kernel, by decide +kernel, by decide +kernel, by decide +kernel, by decide +kernel⟩

theorem test_meets_accumulator_rows : ∃ (s : State) (f : MForm), matrixMay s 0 3 f.dt f.ec f.pv f.pk ∧ 8 * f.d.toNat + 8 * (f.c.toNat + 1) ≤ 512 ∧
    (s.tile 0).mx.rowsIdle s.ccc.toNat (8 * f.d.toNat) (8 * (f.c.toNat + 1)) false = true ∧ ((s.tile 0).oqueue (4 + f.a.toNat)).ents = 0 :: [] ∧
    ∀ r ∈ (s.tile 0).mx.runs, 4 + f.a.toNat ∉ r.job.queues :=
  ⟨wm id matrixQueues, mform 63 1 0 0 0 0, may_issue rfl rfl 0, by decide +kernel, by decide +kernel, rfl, (by intro r h; cases h)⟩

/-- Queue 5 holds a drain's scratchpad address: offset 0x1FF000 and stride 512. -/
def drainEntry : BitVec 2048 := 0x2001FF000#2048
def drainQueue (x : Tile) : Tile := { x with oq := [(5, { OpQueue.idle with ents := [drainEntry] })] }

theorem test_meets_drain : ∃ (s : State) (f : MForm), matrixMay s 0 3 f.dt f.ec f.pv f.pk ∧ 8 * f.d.toNat + 8 * (f.c.toNat + 1) ≤ 512 ∧
    (s.tile 0).mx.epiIdle s.ccc.toNat = true ∧ (s.tile 0).mx.rowsIdle s.ccc.toNat (8 * f.d.toNat) (8 * (f.c.toNat + 1)) false = true ∧
    s.undoUse (s.ctxOfTile 0) + 2 ^ 22 ≤ s.undoSize (s.ctxOfTile 0) ∧ ((s.tile 0).oqueue 5).ents = drainEntry :: [] ∧
    (∀ r ∈ (s.tile 0).mx.runs, 5 ∉ r.job.queues) ∧ drainEntry.toNat % 2 ^ 64 = 0x1FF000 + 512 * 2 ^ 24 ∧ drainType f.ty.toNat = true ∧ f.a.toNat / 16 = 0 ∧
    0x1FF000 + 512 * (8 - 1) + 16 * typeBits f.ty.toNat ≤ 2 ^ 21 :=
  ⟨wm id drainQueue, mform 0 15 9 0 0 0, may_issue rfl rfl 0, by decide +kernel, by decide +kernel, by decide +kernel, by decide +kernel, rfl, (by intro r h; cases h), by decide +kernel, by decide +kernel,
    by decide +kernel, by decide +kernel⟩

theorem test_meets_drain_to_peer : ∃ (s : State) (f : MForm), matrixMay s 0 3 f.dt f.ec f.pv f.pk ∧ 8 * f.d.toNat + 8 * (f.c.toNat + 1) ≤ 512 ∧
    (s.tile 0).mx.epiIdle s.ccc.toNat = true ∧ (s.tile 0).mx.rowsIdle s.ccc.toNat (8 * f.d.toNat) (8 * (f.c.toNat + 1)) false = true ∧
    s.undoUse (s.ctxOfTile 0) + 2 ^ 22 ≤ s.undoSize (s.ctxOfTile 0) ∧ drainType f.ty.toNat = true ∧ f.a.toNat / 16 = 3 ∧
    (s.tile 0).mx.mxrt.getLsbD 0 = true :=
  ⟨wm fun m => { m with mxrt := 3 }, mform 0 63 9 0 0 0, may_issue rfl rfl 0, by decide +kernel, by decide +kernel, by decide +kernel, by decide +kernel, by decide +kernel, by decide +kernel, by decide +kernel⟩

/-- A tensor of 128 by 8 FP8 elements with a shadow table: tensor 3 of context 0, its chunks in frame 5. -/
def tensor128x8 : BitVec 512 := 0x6100000000000000600000000000000000000000000000000000000000000000000000000000800000080000000000000040F#512

def drainTensorState : State :=
  let s := wm id fun x => { x with oq := [(5, { OpQueue.idle with ents := [3] })] }
  { s with tensors := [(3, tensor128x8)], hbm := mputw (mputw s.hbm 0x60000 0x5000D) 0x61000 0x5000D }

def drainedLines (shadow : Bool) : Res (List (List Seg)) :=
  drainTensorState.drainTensor 0 shadow true (mform 0 (if shadow then 32 else 16) 9 0 3 0) 3 (List.replicate 8 (List.replicate 128 0))

def drainFits (shadow : Bool) : Bool :=
  match drainedLines shadow with
  | .ok lines => decide (segsBytes lines.flatten ≤ 2 ^ 21)
  | _ => false

theorem drain_fits : (drainFits false && drainFits true) = true := by decide +kernel

theorem drain_fits_some {shadow : Bool} (h : drainFits shadow = true) : ∃ lines, drainedLines shadow = .ok lines ∧ segsBytes lines.flatten ≤ 2 ^ 21 := by
  unfold drainFits at h
  split at h
  · exact ⟨_, ‹_›, of_decide_eq_true h⟩
  · exact nomatch h

theorem test_meets_drain_to_tensor : ∀ shadow : Bool, ∃ (s : State) (f : MForm) (lines : List (List Seg)), matrixMay s 0 3 f.dt f.ec f.pv f.pk ∧
    ((s.tile 0).oqueue 5).ents = 3 :: [] ∧ drainType f.ty.toNat = true ∧
    s.drainTensor 0 shadow true f 3 (List.replicate 8 (List.replicate 128 0)) = .ok lines ∧ segsBytes lines.flatten ≤ 2 ^ 21 := by
  rintro (_ | _)
  · obtain ⟨segs, h, l⟩ := drain_fits_some (Bool.and_eq_true_iff.mp drain_fits).1
    exact ⟨drainTensorState, mform 0 16 9 0 3 0, segs, may_issue rfl rfl 0, rfl, by decide +kernel, h, l⟩
  · obtain ⟨segs, h, l⟩ := drain_fits_some (Bool.and_eq_true_iff.mp drain_fits).2
    exact ⟨drainTensorState, mform 0 32 9 0 3 0, segs, may_issue rfl rfl 0, rfl, by decide +kernel, h, l⟩

def drainSeg : Seg := { akind := 0, addr := 0, pa := 64, len := 2, data := [1, 2], keepLow := false, keepHigh := false, src := [] }
def oneDrain : Drain :=
  { r0 := 0, rows := 8, lines := [[drainSeg]], shadow := false, tensor := none, tag := some 15, status := 1, flag := 9, route := none, data := [], due := 5,
    act := true, win := 0 }

theorem test_meets_drain_line : ∃ (s : State) (d : Drain) (g : Seg), s.drainNext 0 = some (d, [g]) ∧ g.akind = 0 ∧ g.addr.toNat % 256 = 0 ∧
    g.keepLow = false ∧ g.keepHigh = false ∧ g.data.length = g.len :=
  ⟨{ (wm fun m => { m with drains := [oneDrain] }) with ccc := 5 }, oneDrain, drainSeg, by decide +kernel, rfl, by decide +kernel, rfl, rfl, rfl⟩

theorem test_meets_drain_complete : ∃ (s : State) (d : Drain), (s.tile 0).mx.drains = [d] ∧ d.lines = [] ∧ d.act = true ∧ d.route = none ∧ d.tag = some 15 ∧
    (s.strm (.stream 0 3)).stop = none :=
  ⟨wm fun m => { m with drains := [{ oneDrain with lines := [] }] }, { oneDrain with lines := [] }, rfl, rfl, rfl, rfl, rfl, rfl⟩

/-! Commands -/

theorem command_may {s : State} {f : CmdE} (h : (s.scal s.cur).ops = []) (x : s.Full f.a) (y : s.Full f.b) (z : s.Full f.c)
    (d : (s.scal s.cur).isEmpty f.d = false)
    (n : decide (f.d.toNat < 16) = true) : commandMay s f :=
  ⟨fun o m => (by rw [h] at m; cases m), x, y, z, d, fun _ => of_decide_eq_true n⟩

theorem unit_free {s : State} (h : (decide (s.actions.length < 4096) && decide (s.evUsed < 2) && !s.eventsBehind) = true) : unitFree s := by
  simp only [Bool.and_eq_true, decide_eq_true_eq, Bool.not_eq_true'] at h
  exact ⟨h.1.1, h.1.2, h.2⟩

theorem test_meets_counters : ∀ b ∈ ([0, 1] : List Word), ∃ (s : State) (f : CmdE), commandMay s f ∧ unitFree s ∧ s.rs f.a = BitVec.ofNat 64 16383 ∧
    bit (s.reg (offCntCtl 16383)) 0 = true ∧ (s.ownsCnt s.cmdCtx 16383 = true ∨ s.sysPriv s.cmdCtx = true) ∧
    ((s.cnt 16383 - s.rs f.b).toNat < 2 ^ 63 ↔ b = 0) := by
  intro b h
  rcases h with _ | ⟨_, _ | ⟨_, h⟩⟩
  · exact ⟨(wtr [(1, 16383)]).setReg (offCntCtl 16383) 1, cmde 9 1 2 0 0, command_may rfl rfl rfl rfl rfl rfl, unit_free (by decide +kernel), rfl, by decide +kernel,
      .inl (by decide +kernel), by decide +kernel⟩
  · exact ⟨(wtr [(1, 16383), (2, 1)]).setReg (offCntCtl 16383) 1, cmde 9 1 2 0 0, command_may rfl rfl rfl rfl rfl rfl, unit_free (by decide +kernel), rfl, by decide +kernel,
      .inl (by decide +kernel), by decide +kernel⟩
  · cases h

/-- Counter 0 is assigned to context 0, which may hold two entries; ARM is set; the page holds an image of zeros. -/
def mayArm (s : State) : State := ((s.setReg (offCntCtl 0) 1).setReg (offCtxLim 0) 2).setReg offMatchCtl 2

theorem test_meets_arm : (∃ (s s1 s2 : State) (f : CmdE) (i : Nat) (bs : List Byte), s.cur = .thread 0 ∧ commandMay s f ∧ unitFree s1 ∧ bit (s.reg offMatchCtl) 1 = true ∧
      s.readOperand (s.rs f.a) 64 64 = .ok (bs, s1) ∧ s1.accept.arm s.cmdCtx (BitVec.ofNat 512 (leNat bs)) (f.imm.getLsbD 0) = .ok (i, s2)) ∧
    ∃ (s s2 : State) (i : Nat), s.ux = [] ∧ s.arm 0 0 false = .ok (i, s2) :=
  ⟨⟨mayArm (wtr [(1, 0x10000)]), _, _, cmde 9 1 0 0 0, _, _, rfl, command_may rfl rfl rfl rfl rfl rfl, unit_free (by decide +kernel), by decide +kernel, ok_two ([], base) (by decide +kernel),
      ok_two (0, base) (by decide +kernel)⟩, mayArm wth, _, _, rfl, ok_two (0, base) (by decide +kernel)⟩

theorem test_meets_entry_commands : ∃ (s s1 : State) (f : CmdE), s.cur = .thread 0 ∧ commandMay s f ∧ unitFree s ∧ s.rs f.a = BitVec.ofNat 64 65535 ∧
    eCtx (s.entry 65535) = s.cmdCtx ∧ eValid (s.entry 65535) = true ∧ s.accept.writeOperand (s.rs f.b) (leBytes 64 (s.entry 65535).toNat) 64 = .ok s1 ∧
    s.paused (eCtx (s.entry 65535)) = false :=
  ⟨{ (wtr [(1, 65535), (2, 0x10000)]) with entries := [(65535, 1)] }, _, cmde 9 1 2 0 0, rfl, command_may rfl rfl rfl rfl rfl rfl, unit_free (by decide +kernel), rfl,
    by decide +kernel, by decide +kernel, ok_of (by decide +kernel), by decide +kernel⟩

/-- Itinerary 255 is valid and of context 0. -/
def withItin (s : State) : State := s.setReg256 (offItin 255) 1

theorem test_meets_kick : (∃ (s : State) (f : CmdE), commandMay s f ∧ unitFree s ∧ s.rs f.a = BitVec.ofNat 64 255 ∧ s.rs f.b = BitVec.ofNat 64 0x2000010 ∧
      s.rs f.c = BitVec.ofNat 64 1 ∧ s.inRegion s.cmdCtx 0x2000010 16 = true ∧ s.itinOk s.cmdCtx 255 = true ∧ s.pending? 255 = true) ∧
    ∃ (s : State) (f : CmdE), s.cur = .thread 0 ∧ commandMay s f ∧ unitFree s ∧ s.rs f.a = BitVec.ofNat 64 255 ∧ s.rs f.b = BitVec.ofNat 64 0x2000010 ∧
      s.rs f.c = BitVec.ofNat 64 1 ∧ s.inRegion s.cmdCtx 0x2000010 16 = true ∧ s.itinOk s.cmdCtx 255 = true ∧ s.pending? 255 = false ∧
      iRun (s.itin 255) = false ∧ iPend (s.itin 255) = false ∧ ∀ p ∈ s.patchList 0x2000010 1, s.patchBad (s.itin 255) p.1 p.2 = false :=
  ⟨⟨(withItin (wtr [(1, 255), (2, 0x2000010), (3, 1)])).setReg (offPkb 3) 0x8000000000000000, cmde 9 1 2 3 0,
      command_may rfl rfl rfl rfl rfl rfl, unit_free (by decide +kernel), rfl, rfl, rfl, by decide +kernel, by decide +kernel, by decide +kernel⟩,
    withItin (wtr [(1, 255), (2, 0x2000010), (3, 1)]), cmde 9 1 2 3 0, rfl, command_may rfl rfl rfl rfl rfl rfl, unit_free (by decide +kernel), rfl, rfl, rfl, by decide +kernel,
    by decide +kernel, by decide +kernel, by decide +kernel, by decide +kernel, by decide +kernel⟩

/-- Tile 0 with a queue of 64 tasks. -/
def fullQueue (q : Nat) : Tile := { Tile.idle with tq := [(q, { TaskQueue.idle with tasks := List.replicate 64 placedTask.t })] }

theorem test_meets_launch : (∃ (s : State) (f : CmdE) (d : BitVec 1024), commandMay s f ∧ unitFree s ∧ (s.rs f.b).toNat = 0 ∧
      s.launchTask s.cmdCtx (s.rs f.a).toNat 0 = .ok d ∧ ∃ t ∈ rectTiles 0, 64 ≤ ((s.tile t).queue (f.imm.toNat % 8)).tasks.length) ∧
    ∃ (s : State) (f : CmdE) (d : BitVec 1024), commandMay s f ∧ unitFree s ∧ (s.rs f.b).toNat = 0 ∧ s.launchTask s.cmdCtx (s.rs f.a).toNat 0 = .ok d ∧
      ∀ t ∈ rectTiles 0, ((s.tile t).queue (f.imm.toNat % 8)).tasks.length < 64 :=
  ⟨⟨{ (wtr [(1, 0x2000000)]) with tiles := [(0, fullQueue 7)] }, cmde 9 1 2 0 7, _, command_may rfl rfl rfl rfl rfl rfl, unit_free (by decide +kernel), by decide +kernel,
      ok_any 0 (by decide +kernel), 0, by decide +kernel, by decide +kernel⟩,
    wtr [(1, 0x2000000)], cmde 9 1 2 0 7, _, command_may rfl rfl rfl rfl rfl rfl, unit_free (by decide +kernel), by decide +kernel, ok_any 0 (by decide +kernel), by decide +kernel⟩

theorem test_meets_patch_memory : ∃ (s s1 : State) (f : CmdE) (bs : List Byte), s.cur = .thread 0 ∧ commandMay s f ∧ (s.rs f.a).toNat % 16 = 0 ∧
    s.rs f.b = BitVec.ofNat 64 0x2000000 ∧ s.rs f.c = BitVec.ofNat 64 16 ∧ s.inRegion s.cmdCtx 0x2000000 16 = true ∧ s.nodesBusy 0x2000000 16 = false ∧
    s.readOperand (s.rs f.a) 16 16 = .ok (bs, s1) ∧ unitFree s1 :=
  ⟨wtr [(1, 0x10000), (2, 0x2000000), (3, 16)], _, cmde 9 1 2 3 0, _, rfl, command_may rfl rfl rfl rfl rfl rfl, by decide +kernel, rfl, rfl, by decide +kernel,
    by decide +kernel, ok_two ([], base) (by decide +kernel), unit_free (by decide +kernel)⟩

theorem test_meets_queue_control : (∃ (s : State) (f : CmdE), commandMay s f ∧ s.rs f.a = BitVec.ofNat 64 (0 + 256 * 7) ∧
      s.tileCtx 0 = some s.cmdCtx ∧ (s.rs f.b).toNat < 256 ∧ (s.tile 0).rerun = none ∧ s.cur.tile? ≠ some 0 ∧ (s.tile 0).task = none ∧
      ((s.tile 0).queue 7).tasks.length < 128) ∧
    ∃ (s : State) (f : CmdE), commandMay s f ∧ s.rs f.a = BitVec.ofNat 64 (0 + 256 * 7) ∧ s.tileCtx 0 = some s.cmdCtx ∧ s.cur.tile? ≠ some 0 ∧
      (s.tile 0).task ≠ none ∧ (s.tile 0).collect = none :=
  ⟨⟨wtr [(1, 0x700), (2, 255)], cmde 9 1 2 0 0, command_may rfl rfl rfl rfl rfl rfl, rfl, by decide +kernel, by decide +kernel, rfl, by decide +kernel, rfl, by decide +kernel⟩,
    { (wtr [(1, 0x700)]) with tiles := [(0, { Tile.idle with task := some placedTask })] }, cmde 9 1 2 0 0, command_may rfl rfl rfl rfl rfl rfl,
    rfl, by decide +kernel, by decide +kernel, by decide +kernel, rfl⟩

/-- A descriptor at the start of the page: its first two bytes, its LEN 16. -/
def sendDesc (b0 b1 : Byte) : List Byte := [b0, b1] ++ List.replicate 19 0 ++ [16]

theorem test_meets_usend : ∃ (s s1 u : State) (f : CmdE) (bs : List Byte), s.cur = .thread 0 ∧ commandMay s f ∧ s.readOperand (s.rs f.a) 32 32 = .ok (bs, s1) ∧
    (let d := BitVec.ofNat 256 (leNat bs)
     sdBad d = false ∧ sdDk d = false ∧ sdLen d ≤ 4080 ∧ sdDest d < 1024 ∧ s.isMember s.cmdCtx (sdDest d) = true ∧ sdDcv d = false ∧
     s.windowHolds (sdRx d) (sdWin d) s.cmdCtx (sdOff d) (sdLen d) = true ∧ s.windowMoves (sdRx d) (sdWin d) s.cmdCtx (sdOff d) (sdLen d) = false ∧
     (s1.newSend f true none (s.rs f.a) 0).2.sendOut (s1.newSend f true none (s.rs f.a) 0).1
       { port := none, dest := sdDest d, mb := sdMb d, hdata := sdHdata d, data := s1.windowBytes (sdRx d) (sdWin d) s.cmdCtx (sdOff d) (sdLen d) } = .ok u) :=
  ⟨withMem (windows (wtr [(1, 0x10000)])) (sendDesc 2 0), _, _, cmde 9 1 0 0 0, _, rfl, command_may rfl rfl rfl rfl rfl rfl,
    ok_two ([], base) (by decide +kernel), by decide +kernel, by decide +kernel, by decide +kernel, by decide +kernel, by decide +kernel, by decide +kernel, by decide +kernel, by decide +kernel, ok_of (by decide +kernel)⟩

/-- Peer 5 of port 0 and host map 0 may be written to. -/
def mayPut (s : State) : State := (s.setReg256 (offUetPeer 0 5) 1).setReg (offHostMap 0) 1

theorem test_meets_uput : ∃ (s s1 s3 : State) (f : CmdE) (bs : List Byte), s.cur = .thread 0 ∧ commandMay s f ∧ s.readOperand (s.rs f.a) 32 32 = .ok (bs, s1) ∧
    (let d := BitVec.ofNat 256 (leNat bs)
     let c := s.cmdCtx
     let e := s1.newSend f (!f.imm.getLsbD 0) none (s.rs f.a) (s.rs f.b)
     let s2 : State := { e.2 with sends := e.2.sends ++ [e.1] }
     upBad d = false ∧ s.windowHolds (!d.getLsbD 36) (d.extractLsb' 24 12).toNat c (sdOff d) (sdLen d) = true ∧
     s.windowMoves (!d.getLsbD 36) (d.extractLsb' 24 12).toNat c (sdOff d) (sdLen d) = false ∧ s.playing c = false ∧ d.extractLsb' 8 2 = 1 ∧
     s.peerOk c (d.extractLsb' 10 2).toNat (d.extractLsb' 12 12).toNat = true ∧
     s2.sendHorizon c 3 (d.extractLsb' 12 12).toNat 0 (sdLen d) true = .ok s3) :=
  ⟨withMem (mayPut (windows (wtr [(1, 0x10000)]))) (sendDesc 2 0x51), _, _, cmde 9 1 0 0 0, _, rfl, command_may rfl rfl rfl rfl rfl rfl,
    ok_two ([], base) (by decide +kernel), by decide +kernel, by decide +kernel, by decide +kernel, by decide +kernel, by decide +kernel, by decide +kernel, ok_of (by decide +kernel)⟩

theorem test_meets_uput_host : ∃ (s s1 s3 : State) (f : CmdE) (bs : List Byte), s.cur = .thread 0 ∧ commandMay s f ∧
    s.readOperand (s.rs f.a) 32 32 = .ok (bs, s1) ∧
    (let d := BitVec.ofNat 256 (leNat bs)
     let c := s.cmdCtx
     let e := s1.newSend f (!f.imm.getLsbD 0) none (s.rs f.a) (s.rs f.b)
     let s2 : State := { e.2 with sends := e.2.sends ++ [e.1] }
     let map := s.reg (offHostMap (d.extractLsb' 12 6).toNat)
     upBad d = false ∧ s.windowHolds (!d.getLsbD 36) (d.extractLsb' 24 12).toNat c (sdOff d) (sdLen d) = true ∧
     s.windowMoves (!d.getLsbD 36) (d.extractLsb' 24 12).toNat c (sdOff d) (sdLen d) = false ∧ s.playing c = false ∧ d.extractLsb' 8 2 = 2 ∧
     f.imm.getLsbD 1 = false ∧ bit map 0 = true ∧ (d.extractLsb' 192 40).toNat + sdLen d ≤ hostSize map ∧
     s2.sendHorizon c 6 (d.extractLsb' 12 6).toNat 0 (sdLen d) true = .ok s3) :=
  ⟨withMem (mayPut (windows (wtr [(1, 0x10000)]))) (sendDesc 2 2), _, _, cmde 9 1 0 0 0, _, rfl, command_may rfl rfl rfl rfl rfl rfl,
    ok_two ([], base) (by decide +kernel), by decide +kernel, by decide +kernel, by decide +kernel, by decide +kernel, by decide +kernel, rfl, by decide +kernel, by decide +kernel, ok_of (by decide +kernel)⟩

/-- An arrival of context 0 from this chip with eight bytes, and its record. -/
def oneArrival : Arrival :=
  { mb := 7, skind := 0, aop := false, src := 0, hdata := 0, len := 8, data := [1, 2, 3, 4, 5, 6, 7, 8], ctx := 0, pdc := none, left := 0, more := [], recAt := none, born := 0 }

def oneRec : UxRec := { a := oneArrival, grans := [0], aseq := 0 }

theorem test_meets_receive_none : ∃ (s : State) (f : CmdE), s.cur = .thread 0 ∧ commandMay s f ∧ s.acquiring = false ∧ (s.rs f.c).toNat % 64 = 0 ∧
    s.performed s.cur = true ∧ unitFree s ∧ s.uxFind s.cmdCtx (s.rs f.a) (s.rs f.b) = none :=
  ⟨wtr [(3, 0x10000)], cmde 9 1 2 3 8, rfl, command_may rfl rfl rfl rfl rfl rfl, by decide +kernel, by decide +kernel, by decide +kernel, unit_free (by decide +kernel), rfl⟩

theorem test_meets_receive : ∀ limit : BitVec 20, limit = 7 ∨ limit = 8 → ∃ (s s1 : State) (f : CmdE) (v : Word), f.imm = limit ∧ s.cur = .thread 0 ∧
    commandMay s f ∧ s.acquiring = false ∧ (s.rs f.c).toNat % 64 = 0 ∧ s.performed s.cur = true ∧ unitFree s ∧ s.uxFind s.cmdCtx (s.rs f.a) (s.rs f.b) = some oneRec ∧
    s.accept.uxTake s.cur oneRec (s.rs f.c) f.imm.toNat = .ok (v, s1) := by
  rintro _ (rfl | rfl)
  · exact ⟨{ (wtr [(1, 7), (3, 0x10000)]) with ux := [oneRec] }, _, cmde 9 1 2 3 7, _, rfl, rfl, command_may rfl rfl rfl rfl rfl rfl,
      by decide +kernel, by decide +kernel, by decide +kernel, unit_free (by decide +kernel), by decide +kernel, ok_two (0, base) (by decide +kernel)⟩
  · exact ⟨{ (wtr [(1, 7), (3, 0x10000)]) with ux := [oneRec] }, _, cmde 9 1 2 3 8, _, rfl, rfl, command_may rfl rfl rfl rfl rfl rfl,
      by decide +kernel, by decide +kernel, by decide +kernel, unit_free (by decide +kernel), by decide +kernel, ok_two (0, base) (by decide +kernel)⟩

theorem test_meets_reply : ∃ (s s1 u : State) (f : CmdE) (bs : List Byte), s.cur = .thread 0 ∧ commandMay s f ∧ f.imm.toNat ≤ 4080 ∧
    (s.thr 0).arr = some oneArrival ∧ s.isMember s.cmdCtx oneArrival.src = true ∧ s.readOperand (s.rs f.b) f.imm.toNat 1 = .ok (bs, s1) ∧
    (s1.newSend f true none (s.rs f.a) (s.rs f.b)).2.sendOut (s1.newSend f true none (s.rs f.a) (s.rs f.b)).1
      { port := none, dest := 0, mb := s.rs f.a, hdata := 0, data := bs } = .ok u :=
  ⟨windows (wth fun x => { x with sc := regs [(1, 7), (2, 0x10001)], arr := some oneArrival }), _, _, cmde 9 1 2 0 8, _, rfl,
    command_may rfl rfl rfl rfl rfl rfl, by decide +kernel, rfl, by decide +kernel, ok_two ([], base) (by decide +kernel), ok_of (by decide +kernel)⟩

theorem system_may {s : State} {f : CmdE} (n : Nat) (c : commandMay s f) (t : s.cur = .thread n) (p : s.sysPriv s.cmdCtx = true) : systemMay s f :=
  ⟨c, ⟨n, t⟩, p⟩

theorem test_meets_map : ∀ a : Word, a = 0x10000 ∨ a = 0x20000 → ∃ (s : State) (f : CmdE) (pa : Nat), s.rs f.a = a ∧ systemMay s f ∧
    entryRsvd (s.rs f.b) = false ∧ bit (s.rs f.b) 0 = true ∧ frameOut (s.rs f.b) = false ∧ s.entryPa (f.imm.toNat / 16 % 64) a (f.imm.toNat / 1024 % 4) = some pa ∧
    pa < 2 ^ 39 ∧ bit (mword s.hbm pa) 1 = false := by
  rintro _ (rfl | rfl)
  · exact ⟨wtr [(1, 0x10000), (2, 0x6000D)], cmde 9 1 2 0 0, 0x40008, rfl, system_may 0 (command_may rfl rfl rfl rfl rfl rfl) rfl rfl,
      by decide +kernel, by decide +kernel, by decide +kernel, by decide +kernel, by decide +kernel, by decide +kernel⟩
  · exact ⟨wtr [(1, 0x20000), (2, 0x6000D)], cmde 9 1 2 0 0, 0x40010, rfl, system_may 0 (command_may rfl rfl rfl rfl rfl rfl) rfl rfl,
      by decide +kernel, by decide +kernel, by decide +kernel, by decide +kernel, by decide +kernel, by decide +kernel⟩

theorem test_meets_map_tensor : ∃ (s s1 : State) (f : CmdE) (bs : List Byte), systemMay s f ∧ (s.rs f.a).toNat < 256 ∧
    s.readOperand (s.rs f.b) 64 1 = .ok (bs, s1) ∧ tdBad (BitVec.ofNat 512 (leNat bs)) = false ∧ s1.copyNames 0 255 = false :=
  ⟨withMem (wtr [(1, 255), (2, 0x10000)]) (leBytes 64 tensor64.toNat), _, cmde 9 1 2 0 0, _,
    system_may 0 (command_may (by decide +kernel) rfl rfl rfl (by decide +kernel) (by decide +kernel)) (by decide +kernel) (by decide +kernel), by decide +kernel, ok_two ([], base) (by decide +kernel), by decide +kernel, by decide +kernel⟩

/-- The tensor's CTAB entry 0 is absent. -/
theorem test_meets_map_chunk : ∃ (s : State) (f : CmdE) (pa : Nat), systemMay s f ∧ s.chunkEntry 0 (s.rs f.a) = .ok pa ∧ pa < 2 ^ 39 ∧
    bit (mword s.hbm pa) 1 = false ∧ entryRsvd (s.rs f.b) = false ∧ frameOut (s.rs f.b) = false ∧ bit (mword s.hbm pa) 0 = false :=
  ⟨{ (wtr [(1, 3), (2, 0x5000D)]) with tensors := [(3, tensor64)] }, cmde 9 1 2 0 0, _, system_may 0 (command_may rfl rfl rfl rfl rfl rfl) rfl rfl,
    ok_any 0 (by decide +kernel), by decide +kernel, by decide +kernel, by decide +kernel, by decide +kernel, by decide +kernel⟩

theorem test_meets_unmap : ∃ (s : State) (f g : CmdE), systemMay s f ∧ systemMay s g ∧ (s.rs f.a).toNat % 65536 = 0 ∧ (s.rs f.a).toNat < 2 ^ 56 ∧
    s.inWindow 0 (s.rs f.a) = false ∧ s.frameRecorded 0 (s.rs f.a) = false ∧
    (∀ pa, s.entryPa 0 (s.rs f.a) 0 = some pa → pa < 2 ^ 39 ∧ bit (mword s.hbm pa) 1 = false) ∧ f.imm.getLsbD 2 = false ∧ g.imm.getLsbD 2 = true := by
  refine ⟨wtr [(1, 0x10000)], cmde 9 1 0 0 0, cmde 9 1 0 0 4, system_may 0 (command_may rfl rfl rfl rfl rfl rfl) rfl rfl,
    system_may 0 (command_may rfl rfl rfl rfl rfl rfl) rfl rfl, by decide +kernel, by decide +kernel, by decide +kernel, by decide +kernel, fun pa h => ?_, by decide +kernel, by decide +kernel⟩
  have e : (wtr [(1, 0x10000)]).entryPa 0 ((wtr [(1, 0x10000)]).rs (cmde 9 1 0 0 0).a) 0 = some 0x40008 := by decide +kernel
  rw [e] at h
  cases h
  decide

theorem test_meets_lease : ∃ (s : State) (f : CmdE), systemMay s f ∧ (s.rs f.a).toNat < 256 ∧ 1 ≤ (s.rs f.b).toNat ∧ (s.rs f.b).toNat ≤ 1024 ∧
    s.tileCtx (s.rs f.a).toNat = some (f.imm.toNat / 16 % 64) ∧ (s.rs f.a).toNat % 65536 = 0 ∧ f.imm.toNat % 4 = 0 :=
  ⟨wtr [(2, 1024)], cmde 9 1 2 0 0, system_may 0 (command_may rfl rfl rfl rfl rfl rfl) rfl rfl, by decide +kernel, by decide +kernel, by decide +kernel, rfl, by decide +kernel,
    by decide +kernel⟩

theorem test_meets_snap : (∃ (s : State) (f : CmdE), commandMay s f ∧ s.snapAt = none) ∧ ∃ (s : State) (f : CmdE), commandMay s f ∧ s.snapAt = some 9 :=
  ⟨⟨wth, cmde 9 0 0 0 0, command_may rfl rfl rfl rfl rfl rfl, rfl⟩, { wth with snapAt := some 9 }, cmde 9 0 0 0 0,
    command_may rfl rfl rfl rfl rfl rfl, rfl⟩

theorem test_meets_muster : (∃ (s : State) (f : CmdE), systemMay s f ∧ s.ctxExists (f.imm.toNat / 4 % 64) = true ∧ s.mstate (f.imm.toNat / 4 % 64) = 0 ∧
      s.mstate (f.imm.toNat / 4 % 64) ≠ 3) ∧
    ∃ (s s1 : State) (f : CmdE), systemMay s f ∧ s.mstate (f.imm.toNat / 4 % 64) = 3 ∧ s.release (f.imm.toNat / 4 % 64) = .ok s1 ∧
      (s.hamperOf (f.imm.getLsbD 8) (f.imm.toNat / 4 % 64)).1 = false :=
  ⟨⟨wth, cmde 9 0 0 0 0, system_may 0 (command_may rfl rfl rfl rfl rfl rfl) rfl rfl, by decide +kernel, by decide +kernel, by decide +kernel⟩,
    wth.setCx 63 cMSTATE 3, _, cmde 9 0 0 0 252, system_may 0 (command_may rfl rfl rfl rfl rfl rfl) rfl rfl, by decide +kernel, ok_any base (by decide +kernel),
    by decide +kernel⟩

theorem test_meets_hamper : ∃ (s : State) (f : CmdE), systemMay s f ∧ (s.hamperOf (f.imm.getLsbD 8) (f.imm.toNat / 4 % 64)).1 = true :=
  ⟨(wth.setCx 63 cMSTATE 3).setCx 63 cLIFE 1, cmde 9 0 0 0 252, system_may 0 (command_may rfl rfl rfl rfl rfl rfl) rfl rfl, by decide +kernel⟩

/-- Trap-held tile 0; context 0 records. -/
def heldTile : State := wtr [(1, 0), (2, 5)]

theorem test_meets_rstep_busy : ∃ (s : State) (f : CmdE), s.cur = .thread 0 ∧ commandMay s f ∧ s.rs f.a = BitVec.ofNat 64 0 ∧ s.tileCtx 0 = some 0 ∧
    s.cmdCtx = 0 ∧ s.steppable 0 0 = false :=
  ⟨wtr [(2, 5)], cmde 9 1 2 3 0, rfl, command_may rfl rfl rfl rfl rfl rfl, rfl, rfl, rfl, by decide +kernel⟩

/-- The tile is held by a trap; the windows 3 to 7 are in the log. -/
def stepState (b n : Word) : State :=
  ({ (wtr [(2, b), (3, n)]) with tiles := [(0, { Tile.idle with held := true, win := 7 })] } : State).setCx 0 cUNDOWIN 0x700000003

theorem test_meets_rstep : ∀ b : Word, b = 2 ∨ b = 3 ∨ b = 6 ∨ b = 7 → ∃ (s s1 s2 : State) (f : CmdE), s.rs f.b = b ∧ s.cur = .thread 0 ∧ commandMay s f ∧
    s.rs f.a = BitVec.ofNat 64 0 ∧ s.tileCtx 0 = some 0 ∧ s.cmdCtx = 0 ∧ s.steppable 0 0 = true ∧ s.newWindow 0 0 3 = .ok s1 ∧
    (s.mstate 0 = 0 ∨ s.mstate 0 = 3) ∧ s.stopGone 0 (b.toNat % 2 ^ 32) 0 (s.rs f.c).toNat = true ∧
    (((s.boundStops 0 (s.interval 0) 0 (s.tile 0).work).rollWindow 0 0 (b.setWidth 32)).2.newWindow 0 0 4 = .ok s2) := by
  rintro _ (rfl | rfl | rfl | rfl)
  · exact ⟨stepState 2 0, _, _, cmde 9 1 2 3 0, rfl, rfl, command_may rfl rfl rfl rfl rfl rfl, rfl, rfl, rfl, by decide +kernel, ok_any base (by decide +kernel),
      .inl (by decide +kernel), by decide +kernel, ok_any base (by decide +kernel)⟩
  · exact ⟨stepState 3 0, _, _, cmde 9 1 2 3 0, rfl, rfl, command_may rfl rfl rfl rfl rfl rfl, rfl, rfl, rfl, by decide +kernel, ok_any base (by decide +kernel),
      .inl (by decide +kernel), by decide +kernel, ok_any base (by decide +kernel)⟩
  · exact ⟨stepState 6 0, _, _, cmde 9 1 2 3 0, rfl, rfl, command_may rfl rfl rfl rfl rfl rfl, rfl, rfl, rfl, by decide +kernel, ok_any base (by decide +kernel),
      .inl (by decide +kernel), by decide +kernel, ok_any base (by decide +kernel)⟩
  · exact ⟨stepState 7 0, _, _, cmde 9 1 2 3 0, rfl, rfl, command_may rfl rfl rfl rfl rfl rfl, rfl, rfl, rfl, by decide +kernel, ok_any base (by decide +kernel),
      .inl (by decide +kernel), by decide +kernel, ok_any base (by decide +kernel)⟩

theorem test_meets_rstep_count : ∃ (s : State) (f : CmdE), s.cur = .thread 0 ∧ commandMay s f ∧ s.rs f.a = BitVec.ofNat 64 0 ∧ s.tileCtx 0 = some 0 ∧
    s.cmdCtx = 0 ∧ s.steppable 0 0 = true ∧ s.mstate 0 = 0 ∧ s.stopGone 0 ((s.rs f.b).toNat % 2 ^ 32) 0 (s.rs f.c).toNat = false :=
  ⟨{ (stepState 0 0) with logs := [(0, { CtxLog.idle with ivComplete := [(0, true)], ivWins := [(0, 0, 3)] })] }, cmde 9 1 2 3 0, rfl,
    command_may rfl rfl rfl rfl rfl rfl, rfl, rfl, rfl, rfl, by decide +kernel, by decide +kernel⟩

theorem test_meets_match_points : ∃ (s : State) (f : CmdE), s.cur = .thread 0 ∧ commandMay s f ∧ s.rs f.a = BitVec.ofNat 64 (0 + 256 * 63) ∧
    s.tileCtx 0 = some s.cmdCtx ∧ (s.rs f.b).toNat < 32 ∧ (s.rs f.c).toNat % 2 = 0 ∧ (s.rs f.c).toNat < 2 ^ 57 :=
  ⟨wtr [(1, 0x3F00), (2, 31), (3, 0x1FFFFFFFFFFFFFE)], cmde 9 1 2 3 0, rfl, command_may rfl rfl rfl rfl rfl rfl, rfl, rfl, by decide +kernel, by decide +kernel,
    by decide +kernel⟩

/-- A hamper of a context 63 that has nothing: its seven sections share 20 bytes, its digest is zero. -/
def smallHamper : List Byte :=
  leBytes 128 (0x4D48594B + 2 ^ 32 + 7 * 2 ^ 96 + 436 * 2 ^ 128) ++
    [2, 4, 5, 6, 7, 9, 10].flatMap (fun ty => leBytes 32 (ty + 63 * 2 ^ 32 + 352 * 2 ^ 64 + 20 * 2 ^ 128)) ++
    (List.replicate 10 [1, 0]).flatten ++ List.replicate 64 0

theorem ok_of_list {r : Res (List Byte × State)} {l : List Byte} (h : isOk r = true) (e : (okOr (l, base) r).1 = l) : r = .ok (l, (okOr (l, base) r).2) :=
  ok_of_pair h e

theorem small_hamper_good (d : Config.sha512 (smallHamper.take 372) = 0) : hamperBad smallHamper = false := by
  have e : hField smallHamper 0x10 8 = 436 := by decide +kernel
  simp only [hamperBad, e, Nat.reduceSub, d]
  decide

theorem small_hamper_reads : (hamperImage smallHamper 63).isSome = true := by decide +kernel

/-- For a digest that is a free function (log entry 6) and gives this hamper this value. -/
theorem test_meets_restore (d : Config.sha512 (smallHamper.take 372) = 0) :
    ∃ (s s1 s2 : State) (f : CmdE) (bs : List Byte) (m : HamperImage), systemMay s f ∧ s.readOperand (s.rs f.b) (s.rs f.c).toNat 1 = .ok (bs, s1) ∧
      s1.restoreRefused (f.imm.toNat / 4 % 64) bs = none ∧ hamperImage bs (f.imm.toNat / 4 % 64) = some m ∧
      s1.placeContext (f.imm.toNat / 4 % 64) bs m = some s2 := by
  have r : (withMem (wtr [(2, 0x10000), (3, 436)]) smallHamper).readOperand 0x10000 436 1 =
      .ok (smallHamper, (okOr (smallHamper, base) ((withMem (wtr [(2, 0x10000), (3, 436)]) smallHamper).readOperand 0x10000 436 1)).2) :=
    ok_of_list (by decide +kernel) (by decide +kernel)
  refine ⟨withMem (wtr [(2, 0x10000), (3, 436)]) smallHamper, _, _, cmde 9 0 2 3 252, _, _, system_may 0 (command_may rfl rfl rfl rfl rfl rfl) rfl rfl, r, ?_,
    some_of default small_hamper_reads, some_of base (by decide +kernel)⟩
  unfold State.restoreRefused
  rw [small_hamper_good d]
  rw [show hamperImage smallHamper ((cmde 9 0 2 3 252).imm.toNat / 4 % 64) = some ((hamperImage smallHamper 63).getD default) from
    some_of default small_hamper_reads]
  decide

theorem test_meets_restore_refused : ∃ (s s1 : State) (f : CmdE) (bs : List Byte) (n : Nat), systemMay s f ∧
    s.readOperand (s.rs f.b) (s.rs f.c).toNat 1 = .ok (bs, s1) ∧ s1.restoreRefused (f.imm.toNat / 4 % 64) bs = some n :=
  ⟨wtr [(2, 0x10000), (3, 0)], _, cmde 9 0 2 3 252, [], 1, system_may 0 (command_may rfl rfl rfl rfl rfl rfl) rfl rfl, rfl, rfl⟩

/-! Collectives -/

/-- One rank, eight 32-bit lanes, ROP INT32 sum, buffers tensor 3, a slot of 1 KiB in RX window 0; its program is at 0x10100, its map at 0x10200. -/
def collDesc : BitVec 512 := BitVec.ofNat 512
  (1 + 8 * 2 ^ 24 + 2 ^ 48 + 0x10100 * 2 ^ 64 + 0x10200 * 2 ^ 128 + 0x03030303 * 2 ^ 192 + 2 ^ 224 + 2 ^ 298 + 2 ^ 301 + 2 ^ 320)

def oneColl (prog : List (BitVec 64)) : Coll := { desc := collDesc, descVa := 0x10000, ctx := 0, rmap := [0], prog := prog, base := [], tile := none }

/-- The same as rank r of two; the map names chips 0 and 1. -/
def twoColl (r : Nat) (prog : List (BitVec 64)) : Coll :=
  { oneColl prog with desc := collDesc + BitVec.ofNat 512 (1 + r * 2 ^ 10), rmap := [0, 1] }

/-- Engine 0 belongs to context 0; the page holds the descriptor, its program END and its map. -/
def mayCollect (s : State) : State :=
  let s1 := ((windows s).setReg (offCengOwn 0) 1).setReg (offCntCtl 0) 1
  { s1 with hbm := mputw (mwrites s1.hbm 0x50000 (leBytes 64 collDesc.toNat)) 0x50100 6 }

theorem test_meets_coll : ∀ full : Bool, ∃ (s s1 s2 s3 : State) (f : CmdE) (bs ms ps : List Byte) (c : Coll), commandMay s f ∧ s.ownsEngine s.cmdCtx 0 = true ∧
    fld f.imm 0 4 = 0 ∧ s.readOperand (s.rs f.a) 64 64 = .ok (bs, s1) ∧
    (let d := BitVec.ofNat 512 (leNat bs)
     collBad d = false ∧
     s1.readPages s.cur s.cmdCtx 2 (BitVec.ofNat 64 (fld d 128 57)) (2 * (if fld d 0 10 = 0 then 1024 else fld d 0 10)) = .ok (ms, s2) ∧
     s2.readPages s.cur s.cmdCtx 2 (BitVec.ofNat 64 (fld d 64 57)) (8 * progLen d) = .ok (ps, s3) ∧ c.desc = d ∧ c.descVa = s.rs f.a ∧ c.ctx = s.cmdCtx ∧
     c.prog = [BitVec.ofNat 64 (leNat ps)] ∧ c.rmap = [leNat ms]) ∧
    s.collCheck c (s.rs f.a) = .ok () ∧ decide (4 ≤ (s3.coll 0).queue.length) = full := by
  rintro (_ | _)
  · exact ⟨mayCollect (wtr [(1, 0x10000)]), _, _, _, cmde 9 1 0 0 0, _, _, _, oneColl [6], command_may rfl rfl rfl rfl rfl rfl, by decide +kernel, by decide +kernel,
      ok_two ([], base) (by decide +kernel), ⟨by decide +kernel, ok_two ([], base) (by decide +kernel), ok_two ([], base) (by decide +kernel), by decide +kernel, rfl, rfl, by decide +kernel, by decide +kernel⟩,
      ok_any () (by decide +kernel), by decide +kernel⟩
  · exact ⟨{ mayCollect (wtr [(1, 0x10000)]) with colls := [(0, { CollEng.idle with queue := List.replicate 4 (oneColl [6]) })] }, _, _, _, cmde 9 1 0 0 0, _, _, _,
      oneColl [6], command_may rfl rfl rfl rfl rfl rfl, by decide +kernel, by decide +kernel,
      ok_two ([], base) (by decide +kernel), ⟨by decide +kernel, ok_two ([], base) (by decide +kernel), ok_two ([], base) (by decide +kernel), by decide +kernel, rfl, rfl, by decide +kernel, by decide +kernel⟩,
      ok_any () (by decide +kernel), by decide +kernel⟩

theorem test_meets_collabort : (∃ (s : State) (f : CmdE), commandMay s f ∧ s.ownsEngine s.cmdCtx (fld f.imm 0 4) = true ∧
      (s.coll (fld f.imm 0 4)).queue = [] ∧ (s.coll (fld f.imm 0 4)).run = none) ∧
    (∃ (s s1 : State) (f : CmdE) (c : Coll), commandMay s f ∧ s.ownsEngine s.cmdCtx (fld f.imm 0 4) = true ∧ (s.coll (fld f.imm 0 4)).queue = [c] ∧
      c.ctx = s.cmdCtx ∧ (s.coll (fld f.imm 0 4)).run = none ∧
      (s.setColl (fld f.imm 0 4) { s.coll (fld f.imm 0 4) with queue := [] }).writeStatus c (5 + Cause.collAbort.code * 16) = .ok s1) ∧
    ∃ (s : State) (f : CmdE) (r : CollRun), commandMay s f ∧ s.ownsEngine s.cmdCtx (fld f.imm 0 4) = true ∧ (s.coll (fld f.imm 0 4)).queue = [] ∧
      (s.coll (fld f.imm 0 4)).run = some r ∧ r.c.ctx = s.cmdCtx ∧ r.decided = none ∧ r.aborted = none ∧ r.c.rank = 0 :=
  ⟨⟨mayCollect wth, cmde 9 0 0 0 0, command_may rfl rfl rfl rfl rfl rfl, by decide +kernel, rfl, rfl⟩,
    ⟨{ mayCollect wth with colls := [(0, { CollEng.idle with queue := [oneColl [6]] })] }, _, cmde 9 0 0 0 0, oneColl [6],
      command_may rfl rfl rfl rfl rfl rfl, by decide +kernel, rfl, rfl, rfl, ok_of (by decide +kernel)⟩,
    { mayCollect wth with colls := [(0, { CollEng.idle with run := some (.begin (oneColl [6])) })] }, cmde 9 0 0 0 0, _,
    command_may rfl rfl rfl rfl rfl rfl, by decide +kernel, rfl, rfl, rfl, rfl, rfl, by decide +kernel⟩

/-- RECV from the next rank. -/
def recvWord : BitVec 64 := 1 + (1 <<< 5)

theorem test_meets_collective_start : ∃ (s : State) (c : Coll) (q : Nat), (s.coll 0).queue = [c] ∧ (s.coll 0).run = none ∧ (s.coll 0).parked = false ∧
    s.mstate c.ctx = 0 ∧ c.allSources = [q] ∧ 0 < c.recvTotal q 0 [] c.prog ∧ c.slotB ≤ winSize (s.reg128 (offRxw c.stgw)) :=
  ⟨{ mayCollect wth with colls := [(0, { CollEng.idle with queue := [twoColl 0 [recvWord, 6]] })] }, _, 1, rfl, rfl, rfl, by decide +kernel, by decide +kernel, by decide +kernel, by decide +kernel⟩

/-- Engine 0 runs it, and is at issue. -/
def withRun (r : CollRun) : State :=
  let s := withTensor (mayCollect wth)
  { s with colls := [(0, { CollEng.idle with run := some r })], cur := .engine 0 }

def landedSlot : Inbound := { src := 1, num := 5, epoch := 7, off := 0, landed := some 0x500000007, data := none }

theorem test_meets_transfer_take : ∃ (s : State) (r : CollRun) (b : Inbound) (bs : List Byte), (s.coll 0).run = some r ∧ (s.coll 0).parked = false ∧
    r.aborted = none ∧ r.decided ≠ some false ∧ r.owed = [] ∧ r.inbound = [b] ∧ b.data = none ∧
    b.landed = some (BitVec.ofNat 64 (b.epoch.toNat + b.num % 65536 * 2 ^ 32)) ∧ s.stagedData r.c b = some bs :=
  ⟨withRun { CollRun.begin (twoColl 0 [recvWord, 6]) with inbound := [landedSlot] }, _, landedSlot, _, rfl, rfl, rfl, by decide +kernel, rfl, rfl, rfl, by decide +kernel,
    some_of [] (by decide +kernel)⟩

theorem test_meets_coll_late : ∀ rpt : Nat, rpt = 0 ∨ rpt = 16 → ∃ (s : State) (r : CollRun), r.rpt = rpt ∧ (s.coll 0).run = some r ∧ (s.coll 0).parked = false ∧
    r.aborted = none ∧ r.decided = none ∧ r.c.deadline ≠ 0 ∧ r.lacking = true ∧ cyclesOf r.c.deadline ≤ (s.ccc - r.start).toNat := by
  rintro _ (rfl | rfl)
  · exact ⟨{ withRun { CollRun.begin (twoColl 0 [recvWord, 6]) with phase := 1 } with ccc := 940 }, _, rfl, rfl, rfl, rfl, rfl, by decide +kernel, by decide +kernel, by decide +kernel⟩
  · exact ⟨{ withRun { CollRun.begin (twoColl 0 [recvWord, 6]) with phase := 1, rpt := 16 } with ccc := 940 }, _, rfl, rfl, rfl, rfl, rfl, by decide +kernel, by decide +kernel,
      by decide +kernel⟩

def sendStep : StepDataF :=
  { is := false, pk := 0, ck := 0, cm := 0, sb := 0, db := 1, sf := false, lr := false, wd := false, ns := false, fw := false, iw := false, tr := false }

theorem test_meets_step_send : ∃ (s : State) (r : CollRun) (f : StepDataF) (raw : List Byte), engineAt s 0 r ∧ stepFresh r f ∧
    s.readChunk r.c (r.c.buf f.sb.toNat) (r.chunk f) = some raw ∧ r.cts = [] ∧ s.peerLost 0 r.c.ctx (nth 0 r.c.rmap (r.peer f)) = false ∧
    readStepData r.word = f ∧ stepOp r.word = 0 ∧
    (if s.collWire r.c (r.c.buf f.sb.toNat) then wireBytes r.c.ceb raw else raw).length + 8 ≤ r.c.slotB :=
  ⟨withRun (.begin (oneColl [packStepData 0 sendStep, 6])), _, sendStep, _, ⟨rfl, rfl, rfl⟩, ⟨rfl, rfl, rfl, rfl, rfl, rfl, rfl⟩, some_of [] (by decide +kernel), rfl, by decide +kernel,
    by decide +kernel, by decide +kernel, by decide +kernel⟩

/-- A chunk of zeros. -/
def chunk256 : List Byte := List.replicate 256 0

theorem test_meets_step_copy : ∃ (s s1 : State) (r r3 : CollRun) (f : StepDataF) (raw : List Byte), engineAt s 0 r ∧ stepFresh r f ∧
    s.readChunk r.c (r.c.buf f.sb.toNat) (r.chunk f) = some raw ∧
    s.writeChunk { ({ r with phase := 1, start := s.ccc } : CollRun) with phase := 4, part := raw } (r.c.buf f.db.toNat) (r.chunk f) raw = .ok (s1, r3) :=
  ⟨withRun (.begin (oneColl [3, 6])), _, .begin (oneColl [3, 6]), _, sendStep, _, ⟨rfl, rfl, rfl⟩, ⟨rfl, rfl, rfl, rfl, rfl, rfl, rfl⟩, some_of [] (by decide +kernel),
    ok_two (base, .begin (oneColl [])) (by decide +kernel)⟩

def rrsStep : StepDataF := { sendStep with wd := true, ns := true }

/-- What the peer sent has been taken. -/
def takenSlot : Inbound := { src := 0, num := 0, epoch := 0, off := 0, landed := none, data := some chunk256 }

theorem test_meets_step_rrs : ∃ (s s1 : State) (r r3 : CollRun) (f : StepDataF) (raw d : List Byte), engineAt s 0 r ∧ stepFresh r f ∧
    s.readChunk r.c (r.c.buf f.sb.toNat) (r.chunk f) = some raw ∧ r.taken (rankAt r.c.ranks r.c.rank (-f.pk.toInt)) = some d ∧ readStepData r.word = f ∧
    stepOp r.word = 2 ∧ f.wd = true ∧ f.ns = true ∧ f.iw = false ∧
    (let a := s.consume 0 { r with phase := 1, start := s.ccc } (rankAt r.c.ranks r.c.rank (-f.pk.toInt))
     let bs := ropBytesAdd r.c.rop raw.length d raw
     a.1.writeChunk { a.2 with phase := 4, part := bs } (a.2.c.buf f.db.toNat) (a.2.chunk f) bs = .ok (s1, r3)) :=
  ⟨withRun { CollRun.begin (oneColl [packStepData 2 rrsStep, 6]) with inbound := [takenSlot] }, _,
    { CollRun.begin (oneColl [packStepData 2 rrsStep, 6]) with inbound := [takenSlot] }, _, rrsStep, _, chunk256, ⟨rfl, rfl, rfl⟩,
    ⟨rfl, rfl, rfl, rfl, rfl, rfl, rfl⟩, some_of [] (by decide +kernel), by decide +kernel, by decide +kernel, by decide +kernel, rfl, rfl, rfl, ok_two (base, .begin (oneColl [])) (by decide +kernel)⟩

theorem test_meets_step_recv : ∃ (s s1 : State) (r r3 : CollRun) (f : StepDataF) (d : List Byte), engineAt s 0 r ∧ stepFresh r f ∧
    r.taken (rankAt r.c.ranks r.c.rank (-f.pk.toInt)) = some d ∧ readStepData r.word = f ∧ stepOp r.word = 1 ∧
    (let a := s.consume 0 { r with phase := 1, start := s.ccc } (rankAt r.c.ranks r.c.rank (-f.pk.toInt))
     a.1.writeChunk { a.2 with phase := 4, part := d } (a.2.c.buf f.db.toNat) (a.2.chunk f) d = .ok (s1, r3)) :=
  ⟨withRun { CollRun.begin (oneColl [packStepData 1 sendStep, 6]) with inbound := [takenSlot] }, _,
    { CollRun.begin (oneColl [packStepData 1 sendStep, 6]) with inbound := [takenSlot] }, _, sendStep, chunk256, ⟨rfl, rfl, rfl⟩,
    ⟨rfl, rfl, rfl, rfl, rfl, rfl, rfl⟩, by decide +kernel, by decide +kernel, by decide +kernel, ok_two (base, .begin (oneColl [])) (by decide +kernel)⟩

theorem test_meets_step_end_data : ∀ sf : Bool, ∃ (s : State) (r : CollRun) (f : StepDataF), f.sf = sf ∧ engineAt s 0 r ∧ r.phase = 6 ∧ r.aborted = none ∧ r.ahead = none ∧
    (∀ x ∈ r.xfers, x.done = true) ∧ f.tr = false ∧ f.lr = false ∧ r.signalled = 0 ∧ r.decided = none ∧ r.c.signals 0 = true := fun sf =>
  ⟨withRun { CollRun.begin (oneColl [0, 6]) with phase := 6 }, _, { sendStep with sf := sf }, rfl, ⟨rfl, rfl, rfl⟩, rfl, rfl, rfl, by decide +kernel, rfl, rfl, rfl, rfl,
    by decide +kernel⟩

theorem test_meets_control_steps : ∃ (s : State) (r : CollRun) (f g : StepWaitF) (h k : StepLoopF), engineAt s 0 r ∧
    (s.cnt f.cnt.toNat - f.thr.setWidth 64).toNat < 2 ^ 63 ∧ f.rb = false ∧ 2 ^ 63 ≤ (s.cnt g.cnt.toNat - g.thr.setWidth 64).toNat ∧ g.rb = false ∧
    h.nr = true ∧ r.c.ranks - h.count.toNat = 0 ∧ k.nr = false ∧ k.count.toNat ≠ 0 :=
  ⟨withRun (.begin (oneColl [6])), _, { cnt := 5, rb := false, thr := 0 }, { cnt := 5, rb := false, thr := 1 }, { count := 1, nr := true, len := 1 },
    { count := 1, nr := false, len := 1 }, ⟨rfl, rfl, rfl⟩, by decide +kernel, rfl, by decide +kernel, rfl, rfl, by decide +kernel, rfl, by decide +kernel⟩

theorem test_meets_step_end : (∃ (s : State) (r : CollRun), engineAt s 0 r ∧ r.c.kids = [] ∧ r.decided = none ∧ r.aborted = none ∧ r.finish = none ∧
      r.reported = 0 ∧ r.c.rank ≠ 0) ∧
    ∃ (s s1 : State) (r : CollRun), engineAt s 0 r ∧ r.c.kids = [] ∧ r.decided = none ∧ r.aborted = none ∧ r.finish = none ∧ r.reported = 0 ∧ r.c.rank = 0 ∧
      r.c.sh = false ∧ (s.collSignal 0 { r with decided := some true, ended := true, reported := 1, reports := [] } 2).1.writeStatus r.c (r.status true) = .ok s1 :=
  ⟨⟨withRun (.begin (twoColl 1 [6])), _, ⟨rfl, rfl, rfl⟩, by decide +kernel, rfl, rfl, rfl, rfl, by decide +kernel⟩,
    withRun (.begin (oneColl [6])), _, .begin (oneColl [6]), ⟨rfl, rfl, rfl⟩, by decide +kernel, rfl, rfl, rfl, rfl, by decide +kernel, by decide +kernel, ok_of (by decide +kernel)⟩

/-- A packet to this chip. -/
def packet (src pop : Nat) (w2 w3 : Word) (data : List Byte) : Packet :=
  { src := src, dst := 0, pop := pop, pseq := 0, word2 := w2, word3 := w3, vc := (popVc pop (bit w2 56)).getD 0, dlc := false, data := data }

/-- At an input. -/
def atInput (s : State) (port : Nat) (p : Packet) : State := { s with inq := [(port, [p])] }

/-- The packet is at the head, and what is left when it is taken. -/
theorem head_of {s : State} {port : Nat} {want : Packet → Bool} {p : Packet} (h : ((s.headAt port want).map (·.1)) = some p) :
    s.headAt port want = some (p, ((s.headAt port want).getD (p, base)).2) := by
  cases e : s.headAt port want with
  | none => rw [e] at h; cases h
  | some v => rw [e] at h; cases h; rfl

theorem arrives_of {s : State} {port pop : Nat} {p : Packet}
    (h : ((s.headAt port fun p => p.dst == s.chip && !p.bad && p.pop == pop).map (·.1)) = some p) (a : s.fences = 0) :
    arrives s port pop p ((s.headAt port fun p => p.dst == s.chip && !p.bad && p.pop == pop).getD (p, base)).2 :=
  ⟨head_of h, by rw [a]; exact BitVec.getLsbD_zero, by rw [a]; exact BitVec.getLsbD_zero⟩

theorem test_meets_notice : ∀ kind : Word, kind = 0x40 ∨ kind = 0x41 ∨ kind = 0x42 ∨ kind = 0x43 ∨ kind = 0x44 ∨ kind = 0x45 ∨ kind = 0x46 ∨ kind = 0x47 →
    ∃ (s s1 : State) (p : Packet), s.headAt 6 (fun p => p.dst == s.chip && !p.bad && p.pop == 0x15 && noticeKind p == kind.toNat) = some (p, s1) ∧
      s.fences.getLsbD p.src = false ∧ s.fences.getLsbD p.dst = false ∧ s.mustWait (noticeCtx p) p = false := by
  rintro kind (rfl | rfl | rfl | rfl | rfl | rfl | rfl | rfl)
  · exact ⟨atInput wth 6 (packet 1 0x15 0x40 0 []), _, packet 1 0x15 0x40 0 [], head_of (by decide +kernel), by decide +kernel, by decide +kernel, by decide +kernel⟩
  · exact ⟨atInput wth 6 (packet 1 0x15 0x41 0 []), _, packet 1 0x15 0x41 0 [], head_of (by decide +kernel), by decide +kernel, by decide +kernel, by decide +kernel⟩
  · exact ⟨atInput wth 6 (packet 1 0x15 0x42 0 []), _, packet 1 0x15 0x42 0 [], head_of (by decide +kernel), by decide +kernel, by decide +kernel, by decide +kernel⟩
  · exact ⟨atInput wth 6 (packet 1 0x15 0x43 0 []), _, packet 1 0x15 0x43 0 [], head_of (by decide +kernel), by decide +kernel, by decide +kernel, by decide +kernel⟩
  · exact ⟨atInput wth 6 (packet 1 0x15 0x44 0 []), _, packet 1 0x15 0x44 0 [], head_of (by decide +kernel), by decide +kernel, by decide +kernel, by decide +kernel⟩
  · exact ⟨atInput wth 6 (packet 1 0x15 0x45 0 []), _, packet 1 0x15 0x45 0 [], head_of (by decide +kernel), by decide +kernel, by decide +kernel, by decide +kernel⟩
  · exact ⟨atInput wth 6 (packet 1 0x15 0x46 0 []), _, packet 1 0x15 0x46 0 [], head_of (by decide +kernel), by decide +kernel, by decide +kernel, by decide +kernel⟩
  · exact ⟨atInput wth 6 (packet 1 0x15 0x47 0 []), _, packet 1 0x15 0x47 0 [], head_of (by decide +kernel), by decide +kernel, by decide +kernel, by decide +kernel⟩

/-- A transfer to rank 0 that was sent. -/
def oneXfer : Xfer := { dst := 0, num := 5, data := [], epoch := some 0, done := false }

/-- Rank 1 of two, at a tree reduction. -/
def treeRun : CollRun := { CollRun.begin (twoColl 1 [packStepData 2 { sendStep with tr := true, wd := true }, 6]) with phase := 3, xfers := [oneXfer] }

/-- A notice to engine 0 from chip 0. -/
def note (kind word : Word) : Packet := packet 0 0x15 kind word []

theorem test_meets_notice_effects : ∃ (s : State) (r : CollRun), noticeFor s (note 0x40 5) r 0 ∧ r.cts = [] ∧
    noticeFor s (note 0x41 5) r 0 ∧ r.xfers = [oneXfer] ∧ oneXfer.epoch = some (noticeEpoch (note 0x41 5)) ∧ fld (note 0x41 5).word3 0 16 = oneXfer.num ∧
    noticeFor s (note 0x42 1) r 0 ∧ r.c.rank ≠ 0 ∧ 0 = rankParent r.c.rank ∧ r.step < (note 0x42 1).word3.toNat ∧
    noticeFor s (note 0x43 0) r 0 ∧ (note 0x43 0).word3.toNat = r.step ∧ stepTreeRrs r.word = true ∧ r.stepok = false ∧
    passed32 (noticeEpoch (note 0x43 0)) r.epoch = true ∧ noticeFor s (note 0x45 1) r 0 ∧ noticeFor s (note 0x45 2) r 0 ∧ r.decided = none ∧
    noticeFor s (note 0x46 1) r 0 ∧ noticeFor s (note 0x47 0) r 0 ∧ r.finish = none :=
  ⟨withRun treeRun, treeRun, ⟨rfl, rfl, by decide +kernel⟩, rfl, ⟨rfl, rfl, by decide +kernel⟩, rfl, by decide +kernel, by decide +kernel, ⟨rfl, rfl, by decide +kernel⟩, by decide +kernel, by decide +kernel, by decide +kernel,
    ⟨rfl, rfl, by decide +kernel⟩, by decide +kernel, by decide +kernel, rfl, by decide +kernel, ⟨rfl, rfl, by decide +kernel⟩, ⟨rfl, rfl, by decide +kernel⟩, rfl, ⟨rfl, rfl, by decide +kernel⟩, ⟨rfl, rfl, by decide +kernel⟩, rfl⟩

theorem test_meets_notice_abort : ∃ (s : State) (r : CollRun) (p : Packet), noticeFor s p r 0 ∧ noticeKind p = 0x44 ∧ r.c.rank = 0 ∧ r.decided = none :=
  ⟨withRun (.begin (oneColl [6])), _, packet 0 0x15 0x44 0 [], ⟨rfl, rfl, by decide +kernel⟩, by decide +kernel, by decide +kernel, rfl⟩

/-! Packets -/

/-- A ring of two chips in X, link 0 in a state. -/
def pair (state : Word) (s : State) : State := (s.setReg offGeom 0x400).setReg (offLinkStat 0) state

theorem test_meets_forward : ∀ port : Nat, port = 5 ∨ port = 6 → ∃ (s s1 : State) (p : Packet),
    s.headAt port (fun p => p.bad || p.dst != s.chip) = some (p, s1) ∧ p.bad = false := by
  rintro _ (rfl | rfl)
  · exact ⟨atInput (pair 2 wth) 5 { packet 0 3 0 0 [] with dst := 1 }, _, { packet 0 3 0 0 [] with dst := 1 }, head_of (by decide +kernel), by decide +kernel⟩
  · exact ⟨atInput (pair 2 wth) 6 { packet 0 3 0 0 [] with dst := 1 }, _, { packet 0 3 0 0 [] with dst := 1 }, head_of (by decide +kernel), by decide +kernel⟩

theorem test_meets_bad_packet : ∃ (s s1 : State) (p : Packet), s.headAt 5 (fun p => p.bad || p.dst != s.chip) = some (p, s1) ∧ p.bad = true :=
  ⟨atInput wth 5 (packet 0 63 0 0 []), _, packet 0 63 0 0 [], head_of (by decide +kernel), by decide +kernel⟩

theorem test_meets_inject : ∃ (s s2 : State) (p q : Packet), s.fences = 0 ∧ s.linkTo q.dst = none ∧ s.linkTo p.dst = some 0 ∧ s.linkState 0 = 2 ∧ s2.fences = 0 ∧
    s2.linkTo p.dst = some 0 ∧ s2.linkState 0 ≠ 2 ∧ q.ordered = false ∧ p.ordered = true ∧ p.src = s2.chip ∧ s2.linkTo s2.chip = none :=
  ⟨pair 2 wth, pair 1 wth, { packet 0 3 0 0 [] with dst := 1 }, packet 0 8 0 0 [], rfl, by decide +kernel, by decide +kernel, by decide +kernel, rfl, by decide +kernel, by decide +kernel, by decide +kernel, by decide +kernel,
    by decide +kernel, by decide +kernel⟩

theorem test_meets_path_out_of_order : ∃ (s s1 : State) (p : Packet), s.heldAll = [] ∧ arrives s 6 0 p s1 ∧ s.mustWait (s.packetCtx p) p = false ∧
    p.src ∉ s.discarding ∧ p.pseq ≠ tget 0 s.pseqIn p.src :=
  ⟨{ atInput wth 6 (packet 0 0 0 0 []) with pseqIn := [(0, 1)] }, _, packet 0 0 0 0 [], by decide +kernel, arrives_of (by decide +kernel) rfl, by decide +kernel, by decide +kernel, by decide +kernel⟩

theorem test_meets_path_delivery : ∀ pop : Nat, pop = 0 ∨ pop = 1 → ∃ (s s1 s3 : State) (p : Packet), s.heldAll = [] ∧ arrives s 6 pop p s1 ∧
    s.mustWait (s.packetCtx p) p = false ∧ p.src ∉ s.discarding ∧ p.pseq = tget 0 s.pseqIn p.src ∧ s.tokenMet p = true ∧
    (let s2 : State := { s1 with pseqIn := tput 0 s1.pseqIn p.src (p.pseq + 1) }
     s2.rxWrite (fld p.word2 0 12) (fld p.word2 12 40) (s2.windowAfter p) (some (p, 0)) = .ok s3 ∧ bit (s.reg128 (offRxw (fld p.word2 0 12))) 0 = true ∧
     fld p.word2 12 40 + p.data.length ≤ winSize (s.reg128 (offRxw (fld p.word2 0 12)))) := by
  rintro _ (rfl | rfl)
  · exact ⟨atInput (windows wth) 6 (packet 0 0 0 0 [1, 2]), _, _, packet 0 0 0 0 [1, 2], by decide +kernel, arrives_of (by decide +kernel) rfl, by decide +kernel, by decide +kernel, by decide +kernel,
      by decide +kernel, ok_of (by decide +kernel), by decide +kernel, by decide +kernel⟩
  · exact ⟨atInput (windows wth) 6 (packet 0 1 (8 <<< 52) 0 [1, 2, 3, 4]), _, _, packet 0 1 (8 <<< 52) 0 [1, 2, 3, 4], by decide +kernel, arrives_of (by decide +kernel) rfl, by decide +kernel,
      by decide +kernel, by decide +kernel, by decide +kernel, ok_of (by decide +kernel), by decide +kernel, by decide +kernel⟩

theorem test_meets_message : ∃ (s s1 : State) (p : Packet), s.heldAll = [] ∧ arrives s 6 3 p s1 ∧ s.mustWait (s.packetCtx p) p = false ∧ p.src ∉ s.discarding ∧
    p.pseq = tget 0 s.pseqIn p.src ∧ s.tokenMet p = true ∧ bit (s.reg offMatchCtl) 0 = true :=
  ⟨(atInput wth 6 (packet 0 3 0 0 (leBytes 16 0))).setReg offMatchCtl 1, _, packet 0 3 0 0 (leBytes 16 0), by decide +kernel, arrives_of (by decide +kernel) rfl, by decide +kernel, by decide +kernel,
    by decide +kernel, by decide +kernel, by decide +kernel⟩

/-- A packet that thread 0 sent to chip 1. -/
def oneSentPacket : Sent :=
  { who := some (.thread 0), run := 0, firing := none, send := none, ctx := 0, order := 0, slot := 0, off := 0, dst := 1, pseq := 9, status := none, win := 0 }

theorem test_meets_ack : ∀ v q : Nat, (v = 0 ∧ q = 9) ∨ (v = 0 ∧ q = 8) ∨ (v = 4 ∧ q = 9) → ∃ (s s1 : State) (p : Packet), arrives s 0 8 p s1 ∧ s1.sent = [oneSentPacket] ∧
    oneSentPacket.dst = p.src ∧ s1.playing oneSentPacket.ctx = false ∧ p.data.head? = some (BitVec.ofNat 8 v) ∧ p.pseq = BitVec.ofNat 32 q ∧
    ∀ n, oneSentPacket.who ≠ some (.engine n) := by
  rintro _ _ (⟨rfl, rfl⟩ | ⟨rfl, rfl⟩ | ⟨rfl, rfl⟩)
  · exact ⟨{ atInput wth 0 { packet 1 8 0 0 [0] with pseq := 9 } with sent := [oneSentPacket] }, _, { packet 1 8 0 0 [0] with pseq := 9 }, arrives_of (by decide +kernel) rfl, rfl, rfl, by decide +kernel,
      rfl, rfl, fun _ h => nomatch h⟩
  · exact ⟨{ atInput wth 0 { packet 1 8 0 0 [0] with pseq := 8 } with sent := [oneSentPacket] }, _, { packet 1 8 0 0 [0] with pseq := 8 }, arrives_of (by decide +kernel) rfl, rfl, rfl, by decide +kernel,
      rfl, rfl, fun _ h => nomatch h⟩
  · exact ⟨{ atInput wth 0 { packet 1 8 0 0 [4] with pseq := 9 } with sent := [oneSentPacket] }, _, { packet 1 8 0 0 [4] with pseq := 9 }, arrives_of (by decide +kernel) rfl, rfl, rfl, by decide +kernel,
      rfl, rfl, fun _ h => nomatch h⟩

theorem test_meets_pathrst : (∃ (s s1 : State) (p : Packet), arrives s 0 0x14 p s1 ∧ fld p.word2 10 10 = s1.chip ∧ fld p.word2 0 10 ≠ s1.chip ∧ s1.heldAll = []) ∧
    ∃ (s s1 : State) (p : Packet), arrives s 0 0x14 p s1 ∧ fld p.word2 10 10 ≠ s1.chip ∧ fld p.word2 0 10 = s1.chip ∧ s1.sent = [oneSentPacket] ∧
      oneSentPacket.dst = fld p.word2 10 10 :=
  ⟨⟨atInput wth 0 (packet 1 0x14 1 0 []), _, packet 1 0x14 1 0 [], arrives_of (by decide +kernel) rfl, by decide +kernel, by decide +kernel, by decide +kernel⟩,
    { atInput wth 0 (packet 1 0x14 0x400 0 []) with sent := [oneSentPacket] }, _, packet 1 0x14 0x400 0 [], arrives_of (by decide +kernel) rfl, by decide +kernel, by decide +kernel, rfl, by decide +kernel⟩

theorem test_meets_token_query : ∀ q : Word, q = 0 ∨ q = 1 → ∃ (s s1 : State) (p : Packet), arrives s 0 0x10 p s1 ∧ tokenSeq p.word2 = q.setWidth 32 ∧
    s1.mark (fld p.word2 0 10) = 0 ∧ s1.queries.length < 1024 := by
  rintro _ (rfl | rfl)
  · exact ⟨{ atInput wth 0 (packet 1 0x10 2 0 []) with lhw := [(2, 0)] }, _, packet 1 0x10 2 0 [], arrives_of (by decide +kernel) rfl, by decide +kernel, by decide +kernel, by decide +kernel⟩
  · exact ⟨{ atInput wth 0 (packet 1 0x10 0x100002 0 []) with lhw := [(2, 0)] }, _, packet 1 0x10 0x100002 0 [], arrives_of (by decide +kernel) rfl, by decide +kernel, by decide +kernel, by decide +kernel⟩

def oneToken : TokEntry := { landing := 1, origin := 2, qout := true, mark := none, asked := 5, short := none }

theorem test_meets_token_answer : ∃ (s s1 : State) (p : Packet), arrives s 0 9 p s1 ∧ s1.heldAll = [] ∧
    s1.tokenAt p.src (fld p.word2 0 10) = some (1023, oneToken) :=
  ⟨{ atInput wth 0 (packet 1 9 2 0 []) with tokens := [(1023, some oneToken)] }, _, packet 1 9 2 0 [], arrives_of (by decide +kernel) rfl, by decide +kernel, by decide +kernel⟩

theorem test_meets_token_retry : ∀ now : Word, now = 939 ∨ now = 940 → ∃ (s : State) (t : TokEntry), s.ccc = now ∧ s.heldAll = [] ∧ s.tokenAt 1 2 = some (3, t) ∧
    t.short = some 0 := by
  rintro _ (rfl | rfl)
  · exact ⟨{ wth with ccc := 939, tokens := [(3, some { oneToken with short := some 0 })] }, { oneToken with short := some 0 }, rfl, by decide +kernel, by decide +kernel, rfl⟩
  · exact ⟨{ wth with ccc := 940, tokens := [(3, some { oneToken with short := some 0 })] }, { oneToken with short := some 0 }, rfl, by decide +kernel, by decide +kernel, rfl⟩

/-- An RST of chip 1 with a token of chips 2 and 1, held since cycle 0. -/
def heldRst : Held := { p := packet 1 0 (1 <<< 56) 0x500402 [], since := 0 }

theorem test_meets_token_expiry : ∀ now : Word, now = 94000 ∨ now = 94001 → ∃ (s : State) (h : Held), s.ccc = now ∧ s.heldAll = [(6, h)] ∧ s.harbourAt 6 = [h] ∧
    h.p.src ∉ s.discarding ∧ h.since = 0 ∧ cyclesOf (s.cxF (s.packetCtx h.p) cTKEXP 0 17) = 94000 := by
  rintro _ (rfl | rfl)
  · exact ⟨{ wth with ccc := 94000, harbour := [(6, [heldRst])] }, heldRst, rfl, by decide +kernel, rfl, by decide +kernel, rfl, by decide +kernel⟩
  · exact ⟨{ wth with ccc := 94001, harbour := [(6, [heldRst])] }, heldRst, rfl, by decide +kernel, rfl, by decide +kernel, rfl, by decide +kernel⟩

theorem test_meets_hold_queue_full : ∃ s : State, (s.harbourAt 6).head? = some heldRst ∧ (s.harbourAt 6).getLast? = some heldRst ∧ (s.harbourAt 6).length = 256 ∧
    6 ∉ s.holdTold ∧ 940000 ≤ (s.ccc - heldRst.since).toNat :=
  ⟨{ wth with ccc := 940000, harbour := [(6, List.replicate 256 heldRst)] }, by decide +kernel, by decide +kernel, by decide +kernel, by decide +kernel, by decide +kernel⟩

theorem tget_full {α : Type} (d x : α) (n : Nat) : ∀ a i : Nat, a ≤ i → i < a + n → tget d ((List.range' a n).map fun i => (i, x)) i = x := by
  induction n with
  | zero => intro a i h l; omega
  | succ n ih =>
    intro a i h l
    by_cases e : a = i
    · subst e; simp [tget, List.range'_succ]
    · have := ih (a + 1) i (by omega) (by omega)
      simp only [List.range'_succ, List.map_cons, tget]
      simpa [show ¬ i = a by omega, show ¬ i < a by omega, Ne.symm e, e] using this

theorem firstBelow_none {p : Nat → Bool} (n : Nat) : ∀ k, (∀ i, k ≤ i → i < k + n → p i = false) → firstBelow p n k = none := by
  induction n with
  | zero => intro k _; rfl
  | succ n ih =>
    intro k h
    simp only [firstBelow, h k (Nat.le_refl k) (by omega)]
    simpa using ih (k + 1) fun i a b => h i (by omega) (by omega)

/-- The held packet that has no entry. -/
def heldPacket : Packet := { heldRst.p with word3 := 0x500403 }

/-- A token table, and that packet. -/
def tableState (l : Tab (Option TokEntry)) : State := { wth with tokens := l, harbour := [(6, [{ p := heldPacket, since := 0 }])] }

theorem table_place (l : Tab (Option TokEntry)) (h : ∀ i < 1024, (tget none l i).isNone = false) : (tableState l).tokenPlace = none := by
  have e : firstBelow (fun i => (tget none (tableState l).tokens i).isNone) 1024 0 = none := firstBelow_none 1024 0 fun i _ b => h i (by omega)
  unfold State.tokenPlace
  rw [e]
  rfl

theorem table_none (l : Tab (Option TokEntry)) (h : ∀ e ∈ l, e.2 = some oneToken) : (tableState l).tokenAt 1 3 = none := by
  unfold State.tokenAt
  rw [List.findSome?_eq_none_iff]
  intro e m
  rw [h e m]
  rfl

theorem table_chip (l : Tab (Option TokEntry)) : (tableState l).chip = 0 := by
  have h : ∀ s t : State, s.regs = t.regs → s.chip = t.chip := fun s t h => by unfold State.chip State.regF State.reg; rw [h]
  rw [h (tableState l) wth rfl]
  decide

theorem table_unmet (l : Tab (Option TokEntry)) (h : ∀ e ∈ l, e.2 = some oneToken) : (tableState l).tokenMet heldPacket = false := by
  have m : (tableState l).tokenMark (pktLanding heldPacket) (pktOrigin heldPacket) = none := by
    rw [show pktLanding heldPacket = 1 by decide +kernel, show pktOrigin heldPacket = 3 by decide +kernel]
    unfold State.tokenMark
    rw [if_neg (show ¬ 1 = (tableState l).chip by rw [table_chip]; decide), table_none l h]
    rfl
  unfold State.tokenMet
  rw [m]
  rfl

theorem table_unasked (l : Tab (Option TokEntry)) (h : ∀ i < 1024, (tget none l i).isNone = false) (g : ∀ e ∈ l, e.2 = some oneToken) :
    (tableState l).unasked = some heldPacket := by
  unfold State.unasked
  rw [table_place l h, show (tableState l).heldAll = [(6, { p := heldPacket, since := 0 })] from rfl]
  simp only [Option.isSome_none, Bool.false_eq_true, if_false, List.map_cons, List.map_nil, List.find?_cons, table_unmet l g,
    show pktLanding heldPacket = 1 by decide +kernel, show pktOrigin heldPacket = 3 by decide +kernel, table_none l g, table_chip]
  rfl

/-- All 1,024 entries are taken by another pair. -/
theorem test_meets_token_table_full : ∃ (s : State) (p : Packet), s.unasked = some p ∧ s.tokenTold = none :=
  ⟨tableState _, heldPacket, table_unasked ((List.range' 0 1024).map fun i => (i, some oneToken))
    (fun i b => (congrArg Option.isNone (tget_full none (some oneToken) 1024 0 i (Nat.zero_le i) (Nat.lt_of_lt_of_eq b (Nat.zero_add 1024).symm))).trans rfl)
    (fun _ m => by obtain ⟨_, _, rfl⟩ := List.mem_map.mp m; rfl), rfl⟩

theorem test_meets_reduction : ∀ epoch : Word, epoch = 0 ∨ epoch = 1 → ∃ (s s1 : State) (p : Packet) (l : List (BitVec 32)), arrives s 0 2 p s1 ∧ s.redRun (redRid p) = none ∧
    redElems 0 p.data = some l ∧ s.reds = [] ∧ rtValid (s.reg128 (offRedTab (redRid p))) = true ∧ redEpoch p = epoch.setWidth 32 ∧
    rtEpoch (s.reg128 (offRedTab (redRid p))) = 0 ∧ (rtInmask (s.reg128 (offRedTab (redRid p)))).testBit 7 = true ∧ redSlot p = 0 ∧ l ≠ [] := by
  rintro _ (rfl | rfl)
  · exact ⟨(atInput wth 0 (packet 1 2 0 0 (List.replicate 256 0))).setReg128 (offRedTab 0) 0x1FF, _, packet 1 2 0 0 (List.replicate 256 0), List.replicate 64 0,
      arrives_of (by decide +kernel) rfl, rfl, by decide +kernel, rfl, by decide +kernel, by decide +kernel, by decide +kernel, by decide +kernel, by decide +kernel, by decide +kernel⟩
  · exact ⟨(atInput wth 0 (packet 1 2 0x100 0 (List.replicate 256 0))).setReg128 (offRedTab 0) 0x1FF, _, packet 1 2 0x100 0 (List.replicate 256 0), List.replicate 64 0,
      arrives_of (by decide +kernel) rfl, rfl, by decide +kernel, rfl, by decide +kernel, by decide +kernel, by decide +kernel, by decide +kernel, by decide +kernel, by decide +kernel⟩

theorem test_meets_reduction_done : ∃ (s s1 : State) (p : Packet) (l : List (BitVec 32)), arrives s 0 2 p s1 ∧ s.redRun (redRid p) = none ∧
    redElems 0 p.data = some l ∧ s.reds = [] ∧ rtValid (s.reg128 (offRedTab (redRid p))) = true ∧
    rtEpoch (s.reg128 (offRedTab (redRid p))) = redEpoch p ∧ (∀ i < 8, (rtInmask (s.reg128 (offRedTab (redRid p)))).testBit i = true → i = redSlot p) ∧ l ≠ [] ∧
    rtRoot (s.reg128 (offRedTab (redRid p))) = false ∧ p.data.length = 64 * ropBytes 0 :=
  ⟨(atInput wth 0 (packet 1 2 0 0 (List.replicate 256 0))).setReg128 (offRedTab 0) 3, _, packet 1 2 0 0 (List.replicate 256 0), List.replicate 64 0,
    arrives_of (by decide +kernel) rfl, rfl, by decide +kernel, rfl, by decide +kernel, by decide +kernel, by decide +kernel, by decide +kernel, by decide +kernel, by decide +kernel⟩

theorem test_meets_fence_packet : ∀ pop : Nat, pop = 0x12 ∨ pop = 0x13 → ∃ (s s1 : State) (p : Packet), arrives s 0 pop p s1 ∧ bit p.word2 10 = true := by
  rintro _ (rfl | rfl)
  · exact ⟨atInput wth 0 (packet 1 0x12 0x403 0 []), _, packet 1 0x12 0x403 0 [], arrives_of (by decide +kernel) rfl, by decide +kernel⟩
  · exact ⟨atInput wth 0 (packet 1 0x13 0x403 0 []), _, packet 1 0x13 0x403 0 [], arrives_of (by decide +kernel) rfl, by decide +kernel⟩

/-! Translation -/

/-- An update of page 1 of context 0, kind in bits 47:46, from chip 0. -/
def sdown (kind : Word) : Packet := packet 0 0x11 (1 + (kind <<< 46)) 0x6000D (leBytes 8 3)

theorem test_meets_sdown : ∀ kind : Word, kind = 1 ∨ kind = 2 → ∃ (s s1 : State) (p : Packet) (pa old : Nat), arrives s 0 0x11 p s1 ∧
    fld p.word2 46 2 = kind.toNat ∧ s.mustWait (fld p.word2 40 6) p = false ∧ s1.updates = [] ∧
    treeChildren (s1.ranked (fld p.word2 40 6) (fld p.word2 50 10)).length ((s1.ranked (fld p.word2 40 6) (fld p.word2 50 10)).idxOf s1.chip) = [] ∧
    s1.playing (fld p.word2 40 6) = false ∧
    s1.entryPa (fld p.word2 40 6) (BitVec.ofNat 64 (fld p.word2 0 40 * 65536)) (fld p.word2 48 2) = some pa ∧ pteFrame (mword s1.hbm pa) = old ∧
    s1.frameBusy old = false := by
  rintro _ (rfl | rfl)
  · exact ⟨atInput (windows wth) 0 (sdown 1), _, sdown 1, 0x40008, 5, arrives_of (by decide +kernel) rfl, by decide +kernel, by decide +kernel, rfl, by decide +kernel, by decide +kernel, by decide +kernel, by decide +kernel,
      by decide +kernel⟩
  · exact ⟨atInput (windows wth) 0 (sdown 2), _, sdown 2, 0x40008, 5, arrives_of (by decide +kernel) rfl, by decide +kernel, by decide +kernel, rfl, by decide +kernel, by decide +kernel, by decide +kernel, by decide +kernel,
      by decide +kernel⟩

theorem sdown_recorded (s : State) (kind : Word) (h : s.chip = 0) : s.recordPacket 0 (sdown kind) = s := by
  unfold State.recordPacket
  rw [h]
  rfl

/-- The update of page 1 at its root, chip 0, acknowledged here. -/
def rootUpdate : Update :=
  { id := 4, origin := 0, ident := 4, ctx := 0, va := 0x10000, kind := 0, level := 0, entry := 0, root := true, parent := 0, rank := 0, got := 1, waits := [1],
    applied := some 0, old := 5, acked := true, answered := false, told := 0, stage := 0, since := 0 }

/-- Chips 0 and 1 are members. -/
def members2 (s : State) : State := s.setCx 0 (cMEMBERS 0) 3

theorem test_meets_sdack : ∀ ack : Nat, ack = 2 ∨ ack = 0 → ∃ (s s1 : State) (p : Packet), arrives s 0 0xA p s1 ∧ s1.updates = [rootUpdate] ∧
    rootUpdate.origin = fld p.word2 0 10 ∧ rootUpdate.ident = leNat (p.data.take 8) ∧ p.src = s1.chip ∧
    (rootUpdate.got ||| BitVec.ofNat 1024 (leNat ((p.data.drop 8).take 128))).getLsbD 1 = (ack == 2) ∧
    s1.ranked rootUpdate.ctx rootUpdate.origin = [0, 1] := by
  rintro _ (rfl | rfl)
  · exact ⟨{ atInput (members2 wth) 0 (packet 0 0xA 0 0 (leBytes 8 4 ++ leBytes 128 2)) with updates := [rootUpdate] }, _,
      packet 0 0xA 0 0 (leBytes 8 4 ++ leBytes 128 2), arrives_of (by decide +kernel) rfl, rfl, by decide +kernel, by decide +kernel, by decide +kernel, by decide +kernel, by decide +kernel⟩
  · exact ⟨{ atInput (members2 wth) 0 (packet 0 0xA 0 0 (leBytes 8 4 ++ leBytes 128 0)) with updates := [rootUpdate] }, _,
      packet 0 0xA 0 0 (leBytes 8 4 ++ leBytes 128 0), arrives_of (by decide +kernel) rfl, rfl, by decide +kernel, by decide +kernel, by decide +kernel, by decide +kernel, by decide +kernel⟩

/-- The same at a node of rank 0 of the tree of chip 1. -/
def nodeUpdate : Update := { rootUpdate with origin := 1, root := false, parent := 1 }

theorem test_meets_node_timeout : ∃ (s : State) (u : Update), s.updates = [u] ∧ u.applied = some 0 ∧ u.acked = true ∧ u.root = false ∧ u.answered = false ∧
    treeHeight (s.ranked u.ctx u.origin).length 10 u.rank ≠ 0 ∧ s.treeDone u = false ∧
    940 * 4 * treeHeight (s.ranked u.ctx u.origin).length 10 u.rank ≤ (s.ccc - u.since).toNat :=
  ⟨{ members2 wth with updates := [nodeUpdate], ccc := 3760 }, nodeUpdate, rfl, rfl, rfl, rfl, rfl, by decide +kernel, by decide +kernel, by decide +kernel⟩

theorem test_meets_root_timeout : (∃ (s : State) (u : Update), s.updates = [u] ∧ u.root = true ∧ u.stage = 0 ∧
      940 * max 1 (s.regF offXlatCtl 1 10) ≤ (s.ccc - u.since).toNat) ∧
    ∃ (s : State) (u : Update), s.updates = [u] ∧ u.root = true ∧ u.stage = 1 ∧ 940 * max 1 (s.regF offXlatCtl 1 10) ≤ (s.ccc - u.since).toNat ∧ s.missing u = [1] ∧
      1 ≠ s.chip ∧ u.applied.isSome = true ∧ u.acked = true ∧ u.kind ≠ 2 ∧ bit (s.reg offXlatCtl) 0 = true :=
  ⟨⟨{ members2 wth with updates := [rootUpdate], ccc := 94000 }, rootUpdate, rfl, rfl, rfl, by decide +kernel⟩,
    { (members2 wth).setReg offXlatCtl 1 with updates := [{ rootUpdate with stage := 1 }], ccc := 940 }, { rootUpdate with stage := 1 }, rfl, rfl, rfl, by decide +kernel,
    by decide +kernel, by decide +kernel, rfl, rfl, by decide +kernel, by decide +kernel⟩

theorem test_meets_lease_wait : ∀ now : Word, now = 61100 ∨ now = 61099 → ∃ (s : State) (u : Update), s.ccc = now ∧ s.updates = [u] ∧ u.kind = 0 ∧ u.root = true ∧
    u.applied = some 0 ∧ u.acked = false ∧ s.frameBusy u.old = false ∧ bit (s.reg offXlatCtl) 0 = false ∧ s.chip < 1024 ∧
    (∀ d ∈ s.ranked u.ctx u.origin, u.got.getLsbD d = true ∨ d = s.chip) ∧ s.chip ∈ s.ranked u.ctx u.origin ∧ u.got.getLsbD s.chip = false ∧ u.stage = 0 ∧
    940 * (s.cxF u.ctx cLEASE 0 11 + 1) = 61100 := by
  rintro _ (rfl | rfl)
  · exact ⟨{ windows wth with updates := [{ rootUpdate with acked := false, got := 0 }], ccc := 61100 }, { rootUpdate with acked := false, got := 0 }, rfl, rfl, rfl, rfl, rfl, rfl,
      by decide +kernel, by decide +kernel, by decide +kernel, by decide +kernel, by decide +kernel, by decide +kernel, rfl, by decide +kernel⟩
  · exact ⟨{ windows wth with updates := [{ rootUpdate with acked := false, got := 0 }], ccc := 61099 }, { rootUpdate with acked := false, got := 0 }, rfl, rfl, rfl, rfl, rfl, rfl,
      by decide +kernel, by decide +kernel, by decide +kernel, by decide +kernel, by decide +kernel, by decide +kernel, rfl, by decide +kernel⟩

theorem test_meets_migration : (∃ (s : State) (pa : Nat), s.frameRecorded 0 0x10000 = false ∧ s.entryPa 0 0x10000 0 = some pa ∧ pa < hbmEnd ∧
      bit (mword s.hbm pa) 0 = true ∧ bit (mword s.hbm pa) 1 = false) ∧
    ∃ (s : State) (f : BitVec 36) (g : Migration), s.migrations[0]? = some g ∧ g.upd = none ∧ s.frameBusy g.old = false ∧ f.toNat * 65536 < hbmEnd ∧ Mem.wf s.hbm ∧
      g.pa % 8 = 0 ∧ g.pa / 65536 ≠ f.toNat :=
  ⟨⟨wth, 0x40008, by decide +kernel, by decide +kernel, by decide +kernel, by decide +kernel, by decide +kernel⟩,
    { wth with migrations := [{ pa := 0x40008, ctx := 0, old := 5, upd := none }] }, 0x7FFFFF, { pa := 0x40008, ctx := 0, old := 5, upd := none }, rfl, rfl, by decide +kernel,
    by decide +kernel, by decide +kernel, by decide +kernel, by decide +kernel⟩

/-! Links -/

/-- Link 5 is in a state. -/
def linkIn (state : Word) (l : Link := .idle) : State := { base.setReg (offLinkStat 5) state with links := [(5, l)] }

def dataFlit : Flit := Flit.sealed { zeroFlit with first := true, last := true }

theorem sealed_header (f : Flit) : f.sealed.header = f.header := rfl

theorem sealed_covered (f : Flit) : f.sealed.covered = f.covered := by
  unfold Flit.covered
  rw [sealed_header]
  rfl

theorem sealed_make (f : Flit) : f.sealed.makeCrc = f.makeCrc := congrArg crc64 (sealed_covered f)

theorem sealed_crc (f : Flit) : f.sealed.crc = f.makeCrc := by simp only [Flit.sealed]

theorem sealed_ok (f : Flit) : f.sealed.crcOk = true := by
  unfold Flit.crcOk
  rw [sealed_crc, sealed_make]
  generalize f.makeCrc = x
  simp

/-- A flit whose CRC is off by one. -/
def spoiled (f : Flit) : Flit := { f with crc := f.makeCrc + 1 }

theorem spoiled_bad (f : Flit) : (spoiled f).crcOk = false := by
  have h : ∀ x : BitVec 64, (x + 1 == x) = false := fun x => by simp
  exact h f.makeCrc

theorem test_meets_flit : ∃ (s : State) (f : Flit), goodFlit s 5 f ∧ f.seq = (s.link 5).expect ∧ f.ftype = 0 ∧ f.first = true ∧ f.last = true ∧
    tget 0 (s.link 5).rxHeld f.cls < tget 64 (s.link 5).rxLimits f.cls :=
  ⟨linkIn 2 { Link.idle with rxHeld := [(0, 63)] }, dataFlit, ⟨by decide +kernel, by decide +kernel, sealed_ok _, rfl⟩, rfl, rfl, rfl, rfl, by decide +kernel⟩

theorem test_meets_lend : ∃ (s : State) (f : Flit), goodFlit s 5 f ∧ f.seq = (s.link 5).expect ∧ f.ftype = 1 :=
  ⟨linkIn 2, Flit.sealed { zeroFlit with ftype := 1 }, ⟨by decide +kernel, by decide +kernel, sealed_ok _, rfl⟩, rfl, rfl⟩

theorem test_meets_bad_flit : ∀ (nak : Option Nat) (lending : Bool), ∃ (s : State) (f : Flit), s.linkState 5 = 2 ∧ f.crcOk = false ∧ (s.link 5).nak = nak ∧
    (s.link 5).lending = lending := fun nak lending =>
  ⟨linkIn 2 { Link.idle with nak := nak, lends := if lending then [zeroFlit] else [] }, spoiled zeroFlit, (by decide +kernel : (linkIn 2).linkState 5 = 2),
    spoiled_bad _, rfl, by cases lending <;> rfl⟩

theorem test_meets_nak : ∃ (s : State) (f : Flit), goodFlit s 5 f ∧ f.ftype = 2 ∧
    (((s.link 5).applyAck f).replay ≠ [] ∨ ((s.link 5).applyAck f).resend ≠ []) :=
  ⟨linkIn 2 { Link.idle with replay := [dataFlit] }, Flit.sealed { zeroFlit with ftype := 2 }, ⟨by decide +kernel, by decide +kernel, sealed_ok _, rfl⟩, rfl, .inl nofun⟩

theorem test_meets_link_timeouts : ∃ (s : State) (t : Tab Nat), s.linkState 5 = 2 ∧ (s.link 5).nak = some 1 ∧ (s.link 5).oldest = some 0 ∧
    lendTable (s.link 5).rxCount = some t :=
  ⟨linkIn 2 { Link.idle with nak := some 1, replay := [dataFlit], rxCount := [(3, 7)] }, _, by decide +kernel, rfl, rfl, some_of [] (by decide +kernel)⟩

theorem test_meets_idle_period : (linkIn 2).linkState 5 = 2 ∧ lendTable ((linkIn 2).link 5).rxCount = none := ⟨by decide +kernel, by decide +kernel⟩

theorem test_meets_nak_exhausted : ∃ s : State, s.linkState 5 = 2 ∧ (16 ≤ (s.link 5).goCount ∨ 16 ≤ (s.link 5).nakCount) :=
  ⟨linkIn 2 { Link.idle with nakCount := 16 }, by decide +kernel, .inr (by decide +kernel)⟩

theorem test_meets_training : (∃ s : State, s.linkState 5 = 0 ∧ s.trains 5 = true ∧ (s.link 5).lastAttempt = none) ∧
    (∃ s : State, s.linkState 5 = 0 ∧ s.trains 5 = true ∧ (s.link 5).lastAttempt = some 0 ∧ s.ccc = 93999999) ∧ ∃ s : State, s.linkState 5 = 1 :=
  ⟨⟨(linkIn 0).setReg offGeom 0x10000, by decide +kernel, by decide +kernel, rfl⟩,
    ⟨{ (linkIn 0 { Link.idle with lastAttempt := some 0 }).setReg offGeom 0x10000 with ccc := 93999999 }, by decide +kernel, by decide +kernel, rfl, rfl⟩, linkIn 1, by decide +kernel⟩

/-! The package -/

theorem test_meets_power : (∃ (s : State) (p : Nat), s.pkg.boot = 1 ∧ s.pkg.limiting = false ∧ 97 * s.pkg.limit < 100 * p) ∧
    (∃ (s : State) (p : Nat), s.pkg.boot = 1 ∧ s.pkg.limiting = false ∧ 100 * p = 97 * s.pkg.limit) ∧
    (∃ (s : State) (p : Nat), s.pkg.boot = 1 ∧ s.pkg.limiting = true ∧ 100 * p = 90 * s.pkg.limit ∧ s.pkg.quiet = 9) ∧
    ∃ (s : State) (p : Nat), s.pkg.boot = 1 ∧ s.pkg.limiting = true ∧ 90 * s.pkg.limit < 100 * p :=
  ⟨⟨base, 1844, rfl, rfl, by decide +kernel⟩, ⟨base, 1843, rfl, rfl, by decide +kernel⟩, ⟨{ base with pkg := { base.pkg with limiting := true, quiet := 9 } }, 1710, rfl, rfl, by decide +kernel, rfl⟩,
    { base with pkg := { base.pkg with limiting := true } }, 1711, rfl, rfl, by decide +kernel⟩

theorem test_meets_limit_write : base.pkg.boot = 1 ∧ 600 ≤ (600 : BitVec 16).toNat ∧ (600 : BitVec 16).toNat ≤ 1900 ∧ (∀ e ∈ base.pkg.temps, e.2 < 105) :=
  ⟨rfl, by decide +kernel, by decide +kernel, nofun⟩

theorem test_meets_refill : (∃ s : State, s.ccc.toNat % 1024 ≠ 0) ∧ ∃ s : State, s.ccc.toNat % 1024 = 0 ∧ s.pkg.factor ≤ 1024 ∧ s.ctxExists 0 = true ∧
    s.ctxExists 63 = false :=
  ⟨⟨{ base with ccc := 1023 }, by decide +kernel⟩, { base with ccc := 1024 }, by decide +kernel, by decide +kernel, by decide +kernel, by decide +kernel⟩

/-- For a signature check (log entry 6) that nothing passes. -/
theorem test_meets_boot_none (h : ∀ k m g, Config.ed25519Verifies k m g = false) : State.reset.pkg.released = false ∧ State.reset.pkg.factoryCopy = none := by
  have e : ∀ i, State.reset.pkg.factoryOk i = false := fun i => by
    unfold Package.factoryOk signedBy
    cases State.reset.pkg.recordKey i <;> simp [h]
  refine ⟨rfl, ?_⟩
  unfold Package.factoryCopy
  simp [firstBelow, e]

/-- The flash, with the first harvest word of copy 0. -/
def flashOf (harvest : Byte) : Package := { Package.idle with flash := [(0x48, harvest)] }

def goodBoot : BootInput :=
  { pufKey := List.replicate 32 0, fwImage := [], fwSig := [], fwVersion := 0, fwLoaded := true, hbmTrained := true, linksTrained := true, pcieTrained := true }

/-- For a signature check that everything passes, and a digest that is the ROM's: a harvest word that is not good, and good ones; a device key and the keys of
each stage. -/
theorem test_meets_boot (h : ∀ k m g, Config.ed25519Verifies k m g = true) (d : ∀ b, Config.sha512 b = Config.romDigest) :
    (flashOf 9).factoryCopy = some 0 ∧ harvestOk ((flashOf 9).copyNat 0 0x48 4) = false ∧ (flashOf 8).factoryCopy = some 0 ∧
      (∀ d < 4, harvestOk ((flashOf 8).copyNat 0 (0x48 + 4 * d) 4) = true) ∧ [] ≠ (flashOf 8).copyBytes 0 0x28 32 ∧
      goodBoot.pufKey = (flashOf 8).copyBytes 0 0x28 32 ∧ (flashOf 8).firmwareOk 0 goodBoot = true ∧
      (((flashOf 8).lifeCopy.map fun k => (flashOf 8).copyNat k 0x8008 8).getD 0) ≤ goodBoot.fwVersion.toNat := by
  have r : ∀ v i, ∃ k, (flashOf v).recordKey i = some k := fun v i => by
    unfold Package.recordKey productionKey signedBy
    simp [h, d]
  have f : ∀ v i, (flashOf v).factoryOk i = true := fun v i => by
    obtain ⟨k, e⟩ := r v i
    unfold Package.factoryOk signedBy
    simp [e, h]
  have e : ∀ v, (flashOf v).factoryCopy = some 0 := fun v => by
    unfold Package.factoryCopy
    simp [firstBelow, f]
  refine ⟨e 9, by decide +kernel, e 8, by decide +kernel, by decide +kernel, by decide +kernel, ?_, ?_⟩
  · obtain ⟨k, hk⟩ := r 8 0
    unfold Package.firmwareOk signedBy
    rw [hk]
    simp [h]
  · have z : ∀ k < 2, (flashOf 8).copyNat k 0x8008 8 = 0 := by decide +kernel
    have l : (flashOf 8).lifeCopy = some 0 := by
      have ok : ∀ key i, (flashOf 8).lifetimeOk key i = true := fun _ _ => h _ _ _
      have c : ¬ (flashOf 8).copyNat 0 0x8000 8 < (flashOf 8).copyNat 1 0x8000 8 := by decide +kernel
      simp only [Package.lifeCopy, ok]
      rw [if_neg c]
    rw [l]
    exact Nat.le_of_eq (z 0 (by decide +kernel))

theorem test_meets_lifetime : ∀ now : Word, now = 3383999999999 ∨ now = 3384000000000 → ∃ s : State, s.pkg.boot = 1 ∧ s.ccc = now ∧ s.pkg.lastRewrite = 0 ∧
    s.pkg.life = some 1 := fun now _ => ⟨{ base with ccc := now, pkg := { base.pkg with life := some 1 } }, rfl, rfl, rfl, rfl⟩

theorem test_meets_attestation : ∃ (s : State) (nonce : List Byte), nonce.length = 32 ∧ s.pkg.boot = 1 ∧ s.pkg.requests = (nonce, true) :: [] :=
  ⟨{ base with pkg := { base.pkg with requests := [(List.replicate 32 7, true)] } }, List.replicate 32 7, by decide +kernel, rfl, rfl⟩

theorem test_meets_addresses : base.pkg.dynAddr = none ∧ ∃ s : State, s.pkg.dynAddr.isSome = true :=
  ⟨rfl, { base with pkg := { base.pkg with dynAddr := some 9 } }, rfl⟩

/-! Outside ports -/

/-- Job 0 is context 0's; its window 0 holds the page. -/
def withJob : State := (windows base).setReg (offUetJob 63) 0x40000000

def uetRequest (kind : UetKind) (hdata : Option Word) (mode : UetMode := .rod) : UetRequest :=
  { kind := kind, mode := mode, port := 3, addr := 0, v4 := true, pep := 0, job := 0, tag := 0, hdata := hdata, len := 8, off := 0, data := List.replicate 8 1, pdc := 0 }

/-- Requests that no held input is ahead of, over a delivery context that there is. -/
theorem test_meets_tagged_send : (∃ (s : State) (r : UetRequest), (∀ x ∈ s.heldIn, x.ingress ≠ r.port % 4 + 1) ∧ r.pdc < pdcLimit ∧ r.kind = .taggedSend ∧ r.mode = .rudi) ∧
    (∃ (s : State) (r : UetRequest), (∀ x ∈ s.heldIn, x.ingress ≠ r.port % 4 + 1) ∧ r.pdc < pdcLimit ∧ r.mode = .rod ∧ r.kind = .taggedSend ∧
      s.jobCtx r.job.toNat = none) ∧
    (∃ (s : State) (r : UetRequest) (c : Nat), (∀ x ∈ s.heldIn, x.ingress ≠ r.port % 4 + 1) ∧ r.pdc < pdcLimit ∧ r.mode = .rud ∧ r.kind = .taggedSend ∧
      s.jobCtx r.job.toNat = some c ∧ s.unavailable c = true) ∧
    (∃ (s : State) (r : UetRequest) (c : Nat), (∀ x ∈ s.heldIn, x.ingress ≠ r.port % 4 + 1) ∧ r.pdc < pdcLimit ∧ r.mode = .rod ∧ r.kind = .taggedSend ∧
      s.jobCtx r.job.toNat = some c ∧ s.unavailable c = false) ∧
    (∃ (s : State) (r : UetRequest), (∀ x ∈ s.heldIn, x.ingress ≠ r.port % 4 + 1) ∧ r.pdc < pdcLimit ∧ r.mode ≠ .uud ∧ r.kind ≠ .taggedSend ∧ r.kind ≠ .rmaWrite) ∧
    ∃ (s : State) (r : UetRequest), (∀ x ∈ s.heldIn, x.ingress ≠ r.port % 4 + 1) ∧ r.mode = .uud :=
  ⟨⟨base, uetRequest .taggedSend none .rudi, by decide +kernel, by decide +kernel, rfl, rfl⟩, ⟨base, uetRequest .taggedSend none, by decide +kernel, by decide +kernel, rfl, rfl, by decide +kernel⟩,
    ⟨withJob.setCx 0 cMSTATE 3, uetRequest .taggedSend none .rud, 0, by decide +kernel, by decide +kernel, rfl, rfl, by decide +kernel, by decide +kernel⟩,
    ⟨withJob, uetRequest .taggedSend none, 0, by decide +kernel, by decide +kernel, rfl, rfl, by decide +kernel, by decide +kernel⟩,
    ⟨base, uetRequest .rmaRead none, by decide +kernel, by decide +kernel, by decide +kernel, by decide +kernel, by decide +kernel⟩, base, uetRequest .rmaWrite none .uud, by decide +kernel, rfl⟩

theorem test_meets_rma_write : ∀ hdata : Option Word, ∃ (s s1 : State) (r : UetRequest) (c : Nat), s.heldIn = [] ∧ r.pdc < pdcLimit ∧ r.mode ≠ .uud ∧
    r.kind = .rmaWrite ∧ s.jobCtx r.job.toNat = some c ∧ r.tag.toNat < 4096 ∧
    bit (s.reg128 (offRxw r.tag.toNat)) 0 = true ∧ r.off.toNat + r.data.length ≤ winSize (s.reg128 (offRxw r.tag.toNat)) ∧
    s.unavailable (fld (s.reg128 (offRxw r.tag.toNat)) 1 6) = false ∧ s.rxWrite r.tag.toNat r.off.toNat r.data none = .ok s1 ∧ r.hdata = hdata := fun hdata =>
  ⟨withJob, _, uetRequest .rmaWrite hdata, 0, rfl, (by decide +kernel : 0 < pdcLimit), (by decide +kernel : UetMode.rod ≠ .uud), rfl, (by decide +kernel : withJob.jobCtx 0 = some 0), (by decide +kernel : (0 : Word).toNat < 4096),
    (by decide +kernel : bit (withJob.reg128 (offRxw 0)) 0 = true), (by decide +kernel : 0 + 8 ≤ winSize (withJob.reg128 (offRxw 0))),
    (by decide +kernel : withJob.unavailable (fld (withJob.reg128 (offRxw 0)) 1 6) = false),
    ok_of (r := withJob.rxWrite 0 0 (List.replicate 8 1) none) (by decide +kernel), rfl⟩

/-- A deposit of delivery context 5, eight bytes of which are still to come. -/
def oneDeposit : Deposit := { entry := 65535, rxw := 0, off := 16, add := none, pdc := some 5, left := 8, recAt := none, born := 0 }

theorem test_meets_continuation : ∃ (s s1 : State) (d : Deposit), s.deposits = [d] ∧ d.pdc = some 5 ∧ d.left ≠ 0 ∧ d.recAt = none ∧ (∀ x ∈ s.heldIn, x.ingress ≠ 5 / 4096 % 4 + 1) ∧
    s.rxWrite d.rxw (d.off + 0) ((List.replicate 8 1).take d.left) none = .ok s1 ∧ d.entry ∉ s.disarmed :=
  ⟨{ windows base with deposits := [oneDeposit] }, _, oneDeposit, rfl, rfl, by decide +kernel, rfl, by decide +kernel, ok_of (by decide +kernel), by decide +kernel⟩

theorem test_meets_aperture : ∃ (s s1 : State), bit (s.reg (offHostAp 255)) 0 = true ∧ fld (s.reg (offHostAp 255)) 1 12 = 0 ∧ bit (s.reg128 (offRxw 0)) 0 = true ∧
    fld (s.reg128 (offRxw 0)) 1 6 = fld (s.reg (offHostAp 255)) 13 6 ∧ 0 + 8 ≤ winSize (s.reg128 (offRxw 0)) ∧ s.playing (fld (s.reg (offHostAp 255)) 13 6) = false ∧
    s.rxWrite 0 0 (List.replicate 8 1) none = .ok s1 ∧ bit (s.reg (offHostAp 254)) 0 = false ∧ ∀ x ∈ s.heldIn, x.ingress ≠ 0 :=
  ⟨withJob.setReg (offHostAp 255) 1, _, by decide +kernel, by decide +kernel, by decide +kernel, by decide +kernel, by decide +kernel, by decide +kernel, ok_of (by decide +kernel), by decide +kernel, by decide +kernel⟩

/-- A write into window 0 that is not yet counted. -/
def uncounted : State := { base with winDel := [{ rxw := 0, bytes := 8, ack := none, born := 0 }] }

theorem test_meets_doorbell : (List.replicate 16 (0 : Byte)).length = 16 ∧ 4080 % 16 = 0 ∧ base.ctxExists 0 = true ∧ base.bar2Pending = false ∧
    uncounted.ctxExists 0 = true ∧ uncounted.bar2Pending = true ∧ (∀ x ∈ uncounted.heldIn, x.ingress ≠ 0) ∧ ∀ x ∈ base.heldIn, x.ingress ≠ 0 :=
  ⟨by decide +kernel, by decide +kernel, by decide +kernel, by decide +kernel, by decide +kernel, by decide +kernel, by decide +kernel, by decide +kernel⟩

theorem test_meets_host_write : ∃ (s : State) (h : HostTlp), s.hostTlps = h :: [] :=
  ⟨{ base with hostTlps := [{ addr := 8, data := [1], who := none, run := 0, send := none }] }, _, rfl⟩

/-! The event unit, actions and threads -/

/-- The event unit matches the arrival; context 0 may list one record. -/
def matching (a : Arrival) (s : State := wth) : State :=
  { ((windows s).setReg offMatchCtl 1).setReg (offCtxLim 0) 0x20000 with arrivals := [a] }

/-- A linked entry of context 0 that takes every arrival; the DMODE and CMODE are given. -/
def anyEntry (dmode cmode : Nat) : BitVec 512 := BitVec.ofNat 512 (3 + 255 * 2 ^ 12 + 2 ^ 32 + dmode * 2 ^ 33 + cmode * 2 ^ 35 + (2 ^ 64 - 1) * 2 ^ 128)

def ArrivalHyps (s : State) (a : Arrival) : Prop := eventMay s ∧ s.nextEvent = some (.arrival a)

/-- The state in which the arrival has been accepted. -/
def afterArrival (s : State) (a : Arrival) : State := State.accept { s with arrivals := s.arrivals.erase a }

theorem may_of {s : State} (h : decide (s.actions.length < 4096 ∧ s.evUsed < 2) = true) : eventMay s :=
  have x : s.actions.length < 4096 ∧ s.evUsed < 2 := of_decide_eq_true h
  x

theorem arrival_of {s : State} {a : Arrival} (h : decide (s.actions.length < 4096 ∧ s.evUsed < 2) = true) (n : decide (s.nextEvent = some (.arrival a)) = true) :
    ArrivalHyps s a := ⟨may_of h, of_decide_eq_true n⟩

theorem test_meets_arrival_unmatched :
    (∃ (s : State) (a : Arrival), ArrivalHyps s a ∧ s.ctxExists a.ctx = false) ∧
    (∃ (s : State) (a : Arrival), ArrivalHyps s a ∧ s.ctxExists a.ctx = true ∧ (afterArrival s a).winner a = none ∧
      (afterArrival s a).uxRoom a = true ∧ s.threads = [] ∧ a.left = 0) ∧
    (∃ (s : State) (a : Arrival), ArrivalHyps s a ∧ s.ctxExists a.ctx = true ∧ (afterArrival s a).winner a = none ∧
      (afterArrival s a).uxRoom a = true ∧ s.threads = [] ∧ a.left ≠ 0 ∧ s.recording a.ctx = false) ∧
    (∀ k : Nat, k = 1 ∨ k = 4 → ∃ (s : State) (a : Arrival), a.skind = k ∧ ArrivalHyps s a ∧ s.ctxExists a.ctx = true ∧
      (afterArrival s a).winner a = none ∧ (afterArrival s a).uxRoom a = false ∧ 1 ≤ a.skind ∧ a.skind ≤ 4) ∧
    ∀ k : Nat, k = 0 ∨ k = 5 → ∃ (s : State) (a : Arrival), a.skind = k ∧ ArrivalHyps s a ∧ s.ctxExists a.ctx = true ∧
      (afterArrival s a).winner a = none ∧ (afterArrival s a).uxRoom a = false ∧ (a.skind = 0 ∨ 4 < a.skind) := by
  refine ⟨⟨matching { oneArrival with ctx := 63 }, { oneArrival with ctx := 63 }, arrival_of (by decide +kernel) (by decide +kernel), by decide +kernel⟩,
    ⟨matching oneArrival base, oneArrival, arrival_of (by decide +kernel) (by decide +kernel), by decide +kernel, by decide +kernel, by decide +kernel, rfl, rfl⟩,
    ⟨matching { oneArrival with left := 4, len := 12 } base, { oneArrival with left := 4, len := 12 }, arrival_of (by decide +kernel) (by decide +kernel), by decide +kernel, by decide +kernel,
      by decide +kernel, rfl, by decide +kernel, by decide +kernel⟩, ?_, ?_⟩
  · rintro _ (rfl | rfl)
    · exact ⟨{ matching { oneArrival with skind := 1 } with ux := [oneRec] }, { oneArrival with skind := 1 }, rfl, arrival_of (by decide +kernel) (by decide +kernel), by decide +kernel,
        by decide +kernel, by decide +kernel, by decide +kernel, by decide +kernel⟩
    · exact ⟨{ matching { oneArrival with skind := 4 } with ux := [oneRec] }, { oneArrival with skind := 4 }, rfl, arrival_of (by decide +kernel) (by decide +kernel), by decide +kernel,
        by decide +kernel, by decide +kernel, by decide +kernel, by decide +kernel⟩
  · rintro _ (rfl | rfl)
    · exact ⟨{ matching oneArrival with ux := [oneRec] }, oneArrival, rfl, arrival_of (by decide +kernel) (by decide +kernel), by decide +kernel, by decide +kernel, by decide +kernel, .inl rfl⟩
    · exact ⟨{ matching { oneArrival with skind := 5 } with ux := [oneRec] }, { oneArrival with skind := 5 }, rfl, arrival_of (by decide +kernel) (by decide +kernel), by decide +kernel,
        by decide +kernel, by decide +kernel, .inr (by decide +kernel)⟩

theorem test_meets_arrival_taken :
    (∀ k : Nat, k = 1 ∨ k = 2 → ∃ (s : State) (a : Arrival) (i : Nat), ArrivalHyps s a ∧ s.ctxExists a.ctx = true ∧
      (afterArrival s a).winner a = some i ∧ eDmode (s.entry i) = 0 ∧ eCmode (s.entry i) = k) ∧
    ∃ (s s1 : State) (a : Arrival) (i : Nat), ArrivalHyps s a ∧ s.ctxExists a.ctx = true ∧ (afterArrival s a).winner a = some i ∧
      (let e := s.entry i
       eDmode e = 1 ∧ a.aop = false ∧ a.len ≠ 0 ∧ a.left = 0 ∧ a.more = [] ∧ eOutst e < 255 ∧ eOnce e = false ∧ bit (s.reg128 (offRxw (eDwin e))) 0 = true ∧
       fld (s.reg128 (offRxw (eDwin e))) 1 6 = eCtx e ∧ eDoff e + a.len ≤ winSize (s.reg128 (offRxw (eDwin e))) ∧
       (afterArrival s a).rxWrite (eDwin e) (eDoff e) a.data none = .ok s1) := by
  constructor
  · rintro _ (rfl | rfl)
    · exact ⟨{ matching oneArrival with entries := [(65535, anyEntry 0 1)] }, oneArrival, 65535, arrival_of (by decide +kernel) (by decide +kernel), by decide +kernel, by decide +kernel, by decide +kernel,
        by decide +kernel⟩
    · exact ⟨{ matching oneArrival with entries := [(65535, anyEntry 0 2)] }, oneArrival, 65535, arrival_of (by decide +kernel) (by decide +kernel), by decide +kernel, by decide +kernel, by decide +kernel,
        by decide +kernel⟩
  · exact ⟨{ matching oneArrival with entries := [(65535, anyEntry 1 1)] }, _, oneArrival, 65535, arrival_of (by decide +kernel) (by decide +kernel), by decide +kernel, by decide +kernel,
      by decide +kernel, rfl, by decide +kernel, rfl, rfl, by decide +kernel, by decide +kernel, by decide +kernel, by decide +kernel, by decide +kernel, ok_of (by decide +kernel)⟩

/-- With matching off and nothing else waiting, a window's delivery is the next event. -/
theorem delivery_next (s : State) (h : bit (s.reg offMatchCtl) 0 = false) (hd : s.deposits = []) (he : s.engSig = []) (hc : s.ctrCmds = []) (d : WinDel) :
    State.nextEvent { s with winDel := [d] } = some (.delivery d) := by
  have h' : bit (State.reg { s with winDel := [d] } offMatchCtl) 0 = false := h
  unfold State.nextEvent State.waiting
  rw [h']
  simp [hd, he, hc, firstEvent]

theorem deposit_next (s : State) (h : bit (s.reg offMatchCtl) 0 = false) (hd : s.winDel = []) (he : s.engSig = []) (hc : s.ctrCmds = []) (d : Deposit)
    (l : d.left = 0) : State.nextEvent { s with deposits := [d] } = some (.deposit d) := by
  have h' : bit (State.reg { s with deposits := [d] } offMatchCtl) 0 = false := h
  unfold State.nextEvent State.waiting
  rw [h']
  simp [hd, he, hc, l, firstEvent]

theorem test_meets_counter_events :
    (∀ v : Option Word, ∃ (s : State) (d : Deposit), d.add = v ∧ eventMay s ∧ s.nextEvent = some (.deposit d) ∧ s.deposits = [d] ∧ d.entry ∉ s.disarmed) ∧
    (∀ ack : Option (Packet × Nat), ∃ (s : State) (d : WinDel), d.ack = ack ∧ eventMay s ∧ s.nextEvent = some (.delivery d) ∧ s.winDel = d :: [] ∧
      bit (s.reg (offRxdc d.rxw)) 0 = false) ∧
    (∃ (s : State) (d : WinDel), eventMay s ∧ s.nextEvent = some (.delivery d) ∧ s.winDel = d :: [] ∧ bit (s.reg (offRxdc d.rxw)) 0 = true) ∧
    (∃ (s : State), eventMay s ∧ s.nextEvent = some (.signal 15 16383 0) ∧ s.engSig = [(15, 16383, 0)] ∧ 16383 < 2 ^ 14) ∧
    (eventMay base ∧ base.waiting = []) ∧ (∃ s : State, ¬eventMay s) ∧ (∃ s : State, s.waiting ≠ []) ∧
    ∀ p v : Nat, (p = 0 ∨ p = 1) → (v = 2 ^ 63 ∨ v = 2 ^ 63 - 1) →
      ∃ (s : State) (i : Nat) (x : Word), x = BitVec.ofNat 64 v ∧ eTen (s.entry i) = true ∧ s.paused (eCtx (s.entry i)) = false ∧ ePeriod (s.entry i) = p ∧
        (x - eThr (s.entry i)).toNat = v := by
  have off : bit (base.reg offMatchCtl) 0 = false := by decide +kernel
  have quiet : ∀ d : WinDel, State.nextEvent { base with winDel := [d] } = some (.delivery d) := delivery_next base off rfl rfl rfl
  have done : ∀ v : Option Word, State.nextEvent { base with deposits := [{ oneDeposit with add := v, left := 0 }] } =
      some (.deposit { oneDeposit with add := v, left := 0 }) := fun v => deposit_next base off rfl rfl rfl _ rfl
  have may : base.actions.length < 4096 ∧ base.evUsed < 2 := by decide +kernel
  refine ⟨fun v => ⟨{ base with deposits := [{ oneDeposit with add := v, left := 0 }] }, { oneDeposit with add := v, left := 0 }, rfl, may, done v, rfl,
      (by decide +kernel : 65535 ∉ base.disarmed)⟩,
    fun ack => ⟨{ base with winDel := [{ rxw := 4095, bytes := 8, ack := ack, born := 0 }] }, { rxw := 4095, bytes := 8, ack := ack, born := 0 }, rfl, may, quiet _, rfl,
      (by decide +kernel : bit (base.reg (offRxdc 4095)) 0 = false)⟩,
    ⟨{ base.setReg (offRxdc 4095) 1 with winDel := [{ rxw := 4095, bytes := 8, ack := none, born := 0 }] }, { rxw := 4095, bytes := 8, ack := none, born := 0 },
      may_of (by decide +kernel), by decide +kernel, rfl, by decide +kernel⟩,
    ⟨{ base with engSig := [(15, 16383, 0)] }, may_of (by decide +kernel), by decide +kernel, rfl, by decide +kernel⟩, ⟨may_of (by decide +kernel), by decide +kernel⟩,
    ⟨{ base with evUsed := 2 }, fun h => absurd h.2 (by decide +kernel)⟩, ⟨{ base with engSig := [(15, 16383, 0)] }, by decide +kernel⟩, ?_⟩
  rintro _ _ (rfl | rfl) (rfl | rfl)
  · exact ⟨{ base with entries := [(65535, 7)] }, 65535, _, rfl, by decide +kernel, by decide +kernel, by decide +kernel, by decide +kernel⟩
  · exact ⟨{ base with entries := [(65535, 7)] }, 65535, _, rfl, by decide +kernel, by decide +kernel, by decide +kernel, by decide +kernel⟩
  · exact ⟨{ base with entries := [(65535, 7 + 2 ^ 320)] }, 65535, _, rfl, by decide +kernel, by decide +kernel, by decide +kernel, by decide +kernel⟩
  · exact ⟨{ base with entries := [(65535, 7 + 2 ^ 320)] }, 65535, _, rfl, by decide +kernel, by decide +kernel, by decide +kernel, by decide +kernel⟩

/-! Actions -/

/-- A firing of entry 65535 of context 0 with one action. -/
def firingOf (a : Nat) : Firing :=
  { id := 0, entry := 65535, ctx := 0, acts := [BitVec.ofNat 256 a], next := 0, token := none, arr := none, value := 0, ccc := 0 }

def withAction (a : Nat) (s : State := windows wth) : State := { s with actions := [firingOf a] }

theorem test_meets_action_lists : (∀ ty ∈ List.range 9, ∃ (s : State) (f : Firing) (a : BitVec 256), headAction s f a ty ∧ actionBad a = true) ∧
    (∃ (s : State) (f : Firing), s.actions = f :: [] ∧ f.next + 1 < f.acts.length) ∧ ∃ (s : State) (f : Firing), s.actions = f :: [] ∧ f.acts.length ≤ f.next + 1 := by
  refine ⟨fun ty h => ?_, ⟨{ wth with actions := [{ firingOf 0 with acts := [0, 0] }] }, _, rfl, by decide +kernel⟩, withAction 0, _, rfl, by decide +kernel⟩
  have all : ∀ t < 9, headAction (withAction (t + 0x30)) (firingOf (t + 0x30)) (BitVec.ofNat 256 (t + 0x30)) t ∧
      actionBad (BitVec.ofNat 256 (t + 0x30)) = true := fun t ht => ⟨⟨rfl, rfl, by revert t; decide⟩, by revert t; decide⟩
  exact ⟨_, _, _, all ty (List.mem_range.mp h)⟩

/-- A launch of the descriptor of zeros at 0x2000000 on tile 0, to queue 7. -/
def launchWord : Nat := 7 * 2 ^ 22 + 0x2000000 * 2 ^ 64

theorem test_meets_action_launch : (∃ (s : State) (f : Firing) (a : BitVec 256) (d : BitVec 1024), headAction s f a 0 ∧ actionBad a = false ∧
      s.launchTask f.ctx (fld a 64 26) (fld a 8 14) = .ok d ∧ ∃ t ∈ rectTiles (fld a 8 14), 64 ≤ ((s.tile t).queue (fld a 22 3)).tasks.length) ∧
    ∃ (s : State) (f : Firing) (a : BitVec 256) (d : BitVec 1024), headAction s f a 0 ∧ actionBad a = false ∧
      s.launchTask f.ctx (fld a 64 26) (fld a 8 14) = .ok d ∧ ∀ t ∈ rectTiles (fld a 8 14), ((s.tile t).queue (fld a 22 3)).tasks.length < 64 :=
  ⟨⟨{ withAction launchWord with tiles := [(0, fullQueue 7)] }, _, _, _, ⟨rfl, rfl, by decide +kernel⟩, by decide +kernel, ok_any 0 (by decide +kernel), 0, by decide +kernel, by decide +kernel⟩,
    withAction launchWord, _, _, _, ⟨rfl, rfl, by decide +kernel⟩, by decide +kernel, ok_any 0 (by decide +kernel), by decide +kernel⟩

/-- A copy of the descriptor at 0x2000000 by engine 31, with counter 0. -/
def copyWord : Nat := 1 + 31 * 2 ^ 8 + 2 ^ 13 + 0x2000000 * 2 ^ 64

/-- TFILL's descriptor is there. -/
def copyAction (s : State := windows wth) : State :=
  { (withAction copyWord s).setReg (offCntCtl 0) 1 with sram := mwrites [] 0x2000000 (leBytes 128 fillDesc.toNat), tensors := [(3, tensor64x4)] }

theorem test_meets_action_copy : (∃ (s : State) (f : Firing) (a : BitVec 256), headAction s f a 1 ∧ actionBad a = false ∧
      s.inRegion f.ctx (fld a 64 26) 128 = true ∧ s.actionCounter f.ctx (fld a 14 14) = true ∧ 32 ≤ (s.engine (fld a 8 5)).length) ∧
    ∃ (s s1 : State) (f : Firing) (a : BitVec 256) (held : List (Nat × Nat)), headAction s f a 1 ∧ actionBad a = false ∧
      s.inRegion f.ctx (fld a 64 26) 128 = true ∧ s.actionCounter f.ctx (fld a 14 14) = true ∧ (s.engine (fld a 8 5)).length < 32 ∧
      s.cpPublishing f.ctx (s.template (fld a 64 26)) = false ∧ s.cpCheck f.ctx none (s.template (fld a 64 26)) = .ok () ∧
      s.takeBoard (s.cpRanges f.ctx none (s.template (fld a 64 26)) (fld a 8 5)) = some (held, s1) :=
  ⟨⟨{ copyAction with copies := [(31, List.replicate 32 (oneCopy fillDesc))] }, _, _, ⟨rfl, rfl, by decide +kernel⟩, by decide +kernel, by decide +kernel, by decide +kernel, by decide +kernel⟩,
    copyAction, _, _, _, _, ⟨rfl, rfl, by decide +kernel⟩, by decide +kernel, by decide +kernel, by decide +kernel, by decide +kernel, by decide +kernel, ok_any () (by decide +kernel), some_two ([], base) (by decide +kernel)⟩

/-- A send of 16 bytes of TX window 0 to this chip. -/
def sendWord : Nat := leNat (sendDesc 2 0)

theorem test_meets_action_send : ∃ (s s1 : State) (f : Firing) (a : BitVec 256), headAction s f a 2 ∧ actionBad a = false ∧ 0 < sdLen a ∧ sdDk a = false ∧
    sdLen a ≤ 4080 ∧ s.destOk f.ctx none (sdDest a) = true ∧ sdDcv a = false ∧ s.windowHolds (sdRx a) (sdWin a) f.ctx (sdOff a) (sdLen a) = true ∧
    bit (s.winEntry (sdRx a) (sdWin a)) 0 = true ∧ fld (s.winEntry (sdRx a) (sdWin a)) 1 6 = f.ctx ∧
    s.windowMoves (sdRx a) (sdWin a) f.ctx (sdOff a) (sdLen a) = false ∧
    ({ s with nextId := s.nextId + 1 } : State).sendOut
      { id := s.nextId, who := none, wait := false, ctx := f.ctx, firing := some (f.entry, f.next), dcv := none }
      { port := none, dest := sdDest a, mb := sdMb a, hdata := sdHdata a, data := s.windowBytes (sdRx a) (sdWin a) f.ctx (sdOff a) (sdLen a) } = .ok s1 :=
  ⟨withAction sendWord, _, _, _, ⟨rfl, rfl, by decide +kernel⟩, by decide +kernel, by decide +kernel, by decide +kernel, by decide +kernel, by decide +kernel, by decide +kernel, by decide +kernel, by decide +kernel, by decide +kernel,
    by decide +kernel, ok_of (by decide +kernel)⟩

/-- A reflected store of 8 bytes of TX window 0 to itself, at 8; TKI is given. -/
def rstWord (tki : Nat) : Nat := 3 + 2 ^ 32 + tki * 2 ^ 34 + 8 * 2 ^ 128 + 8 * 2 ^ 192

theorem test_meets_action_rst : ∀ tki : Nat, tki = 0 ∨ tki = 1 → ∃ (s s1 : State) (f : Firing) (a : BitVec 256) (segs : List Seg), bit a 34 = decide (tki = 1) ∧
    headAction s f a 3 ∧ actionBad a = false ∧ fld a 192 24 ≠ 0 ∧
    s.actionWindow (!bit a 32) (fld a 20 12) f.ctx (fld a 64 40) (fld a 192 24) = .ok () ∧
    s.actionWindow false (fld a 8 12) f.ctx (fld a 128 40) (fld a 192 24) = .ok () ∧ (∀ e ∈ s.stores, e.list ≠ some f.id) ∧
    s.windowMoves (!bit a 32) (fld a 20 12) f.ctx (fld a 64 40) (fld a 192 24) = false ∧
    s.windowMoves false (fld a 8 12) f.ctx (fld a 128 40) (fld a 192 24) = false ∧
    s.actionSegs f.ctx (winVa (s.winEntry (!bit a 32) (fld a 20 12)) (fld a 64 40)) (winVa (s.winEntry false (fld a 8 12)) (fld a 128 40)) (fld a 192 24) = some segs ∧
    s.reserveRing 6 f.ctx (segsBytes segs + s.horizonBytes f.ctx (some (fld a 8 12))) 0 = .ok s1 := by
  rintro _ (rfl | rfl)
  · exact ⟨withAction (rstWord 0), _, _, _, _, by decide +kernel, ⟨rfl, rfl, by decide +kernel⟩, by decide +kernel, by decide +kernel, ok_any () (by decide +kernel), ok_any () (by decide +kernel), by decide +kernel,
      by decide +kernel, by decide +kernel, some_of [] (by decide +kernel), ok_of (by decide +kernel)⟩
  · exact ⟨withAction (rstWord 1), _, _, _, _, by decide +kernel, ⟨rfl, rfl, by decide +kernel⟩, by decide +kernel, by decide +kernel, ok_any () (by decide +kernel), ok_any () (by decide +kernel), by decide +kernel,
      by decide +kernel, by decide +kernel, some_of [] (by decide +kernel), ok_of (by decide +kernel)⟩

theorem test_meets_action_inc : ∀ owned : Bool, ∃ (s : State) (f : Firing) (a : BitVec 256), headAction s f a 4 ∧ actionBad a = false ∧
    s.actionCounter f.ctx (fld a 8 14) = owned ∧ eventMay s ∧ s.waiting = [] := by
  rintro (_ | _)
  · exact ⟨withAction (4 + 16383 * 2 ^ 8), _, _, ⟨rfl, rfl, by decide +kernel⟩, by decide +kernel, by decide +kernel, may_of (by decide +kernel), by decide +kernel⟩
  · exact ⟨(withAction (4 + 16383 * 2 ^ 8)).setReg (offCntCtl 16383) 1, _, _, ⟨rfl, rfl, by decide +kernel⟩, by decide +kernel, by decide +kernel, may_of (by decide +kernel), by decide +kernel⟩

/-- A kick of itinerary 255 with an empty patch list. -/
def kickWord : Nat := 5 + 255 * 2 ^ 8

theorem test_meets_action_kick : ∀ pending : Bool, ∃ (s : State) (f : Firing) (a : BitVec 256), headAction s f a 5 ∧ actionBad a = false ∧
    s.itinOk f.ctx (fld a 8 8) = true ∧ fld a 16 16 = 0 ∧ s.pending? (fld a 8 8) = pending := by
  rintro (_ | _)
  · exact ⟨withAction kickWord (withItin wth), _, _, ⟨rfl, rfl, by decide +kernel⟩, by decide +kernel, by decide +kernel, by decide +kernel, by decide +kernel⟩
  · exact ⟨withAction kickWord ((withItin wth).setReg (offPkb 3) 0x8000000000000000), _, _, ⟨rfl, rfl, by decide +kernel⟩, by decide +kernel, by decide +kernel, by decide +kernel, by decide +kernel⟩

def oneWake : Wake := { pc := 0x10000, ctx := 0, regs := [(1, 5)], arr := none }

theorem test_meets_action_thread : ∀ full : Bool, ∃ (s : State) (f : Firing) (a : BitVec 256), headAction s f a 6 ∧ actionBad a = false ∧
    decide (256 ≤ (tget [] s.wakes (fld a 8 4)).length) = full := by
  rintro (_ | _)
  · exact ⟨withAction (6 + 15 * 2 ^ 8), _, _, ⟨rfl, rfl, by decide +kernel⟩, by decide +kernel, by decide +kernel⟩
  · exact ⟨{ withAction (6 + 15 * 2 ^ 8) with wakes := [(15, List.replicate 256 oneWake)] }, _, _, ⟨rfl, rfl, by decide +kernel⟩, by decide +kernel, by decide +kernel⟩

/-- A release of the object at 0x10000. -/
def relWord : Nat := 7 + 0x10000 * 2 ^ 64

def RelHyps (s : State) (f : Firing) (a : BitVec 256) : Prop := headAction s f a 7 ∧ actionBad a = false ∧ s.rangeMoves f.ctx (wordOf a 1) 64 = false

theorem test_meets_action_rel : (∃ (s : State) (f : Firing) (a : BitVec 256), RelHyps s f a ∧ s.objectAt f.ctx (wordOf a 1) = none) ∧
    (∃ (s : State) (f : Firing) (a : BitVec 256) (pa v : Nat), RelHyps s f a ∧ s.objectAt f.ctx (wordOf a 1) = some (pa, v) ∧ objEvent v = false) ∧
    (∃ (s s1 : State) (f : Firing) (a : BitVec 256) (pa v : Nat), RelHyps s f a ∧ s.objectAt f.ctx (wordOf a 1) = some (pa, v) ∧ objEvent v = true ∧
      s.ferryRels = [] ∧ (∀ e ∈ s.stores, e.who.isSome = true) ∧ ({ s with nextId := s.nextId + 1 } : State).reserve 6 0 f.ctx 3 (wordOf a 1) = .ok s1) ∧
    ∃ (s : State) (f : Firing) (a : BitVec 256) (pa v : Nat), RelHyps s f a ∧ s.objectAt f.ctx (wordOf a 1) = some (pa, v) ∧ objEvent v = true ∧ s.ferryRels ≠ [] :=
  ⟨⟨withAction relWord, _, _, ⟨⟨rfl, rfl, by decide +kernel⟩, by decide +kernel, by decide +kernel⟩, by decide +kernel⟩,
    ⟨withMem (withAction relWord) freeLock, _, _, _, _, ⟨⟨rfl, rfl, by decide +kernel⟩, by decide +kernel, by decide +kernel⟩, some_two (0, 0) (by decide +kernel), by decide +kernel⟩,
    ⟨withMem (withAction relWord) event5, _, _, _, _, _, ⟨⟨rfl, rfl, by decide +kernel⟩, by decide +kernel, by decide +kernel⟩, some_two (0, 0) (by decide +kernel), by decide +kernel, rfl, by decide +kernel,
      ok_of (by decide +kernel)⟩,
    { withMem (withAction relWord) event5 with ferryRels := [{ entry := 65535, act := 0, ctx := 0, va := 0x10000, order := 0 }] }, _, _, _, _,
    ⟨⟨rfl, rfl, by decide +kernel⟩, by decide +kernel, by decide +kernel⟩, some_two (0, 0) (by decide +kernel), by decide +kernel, by decide +kernel⟩

/-! Threads -/

theorem test_meets_thread_dispatch : ∃ (s : State) (k : Wake), s.wakeReady 15 = some k ∧ s.groupThread 15 = some 1008 :=
  ⟨{ base.setReg (offTgrp 15) 0x8000000000000000 with wakes := [(15, [oneWake])] }, _, some_of oneWake (by decide +kernel), by decide +kernel⟩

theorem test_meets_watchdog : ∀ ccc : Word, ccc = 5 ∨ ccc = 6 → ∃ s : State, (s.thr 0).running = true ∧ (s.thr 0).start = 0 ∧ s.ccc = ccc ∧
    s.reg offTwdog = 10 := by
  rintro _ (rfl | rfl)
  · exact ⟨{ wth.setReg offTwdog 10 with ccc := 5 }, rfl, rfl, rfl, by decide +kernel⟩
  · exact ⟨{ wth.setReg offTwdog 10 with ccc := 6 }, rfl, rfl, rfl, by decide +kernel⟩

/-! The scheduler -/

/-- Itinerary 255 of one node at 0x2000000, with a patch list of one entry at 0x2001000; the entry's low bits and RUNS' neighbours are given. -/
def itinOf (low : Nat) (hi : Nat := 0) : BitVec 256 := BitVec.ofNat 256 (low + 0x2000000 * 2 ^ 32 + 0x2001000 * 2 ^ 64 + 2 ^ 90 + hi)

/-- Itinerary 255 waits for the scheduler; the patch entry's bytes are given. -/
def kicked (list : List Byte) : State :=
  { (wth.setReg256 (offItin 255) (itinOf 0x101)).setReg (offPkb 3) 0x8000000000000000 with sram := mwrites [] 0x2001000 list }

theorem test_meets_kick_expand : ∀ bad : Bool, ∃ (s : State) (j : Nat), s.sched.stopped = false ∧ s.held = false ∧ s.sched.pushes = [] ∧
    s.nextKick = some j ∧ (s.patchList (iPaddr (s.itin (j % 256))) (iPcnt (s.itin (j % 256)))).any (fun p => s.patchBad (s.itin (j % 256)) p.1 p.2) = bad := by
  rintro (_ | _)
  · exact ⟨kicked [0, 0, 7], 511, rfl, by decide +kernel, rfl, by decide +kernel, by decide +kernel⟩
  · exact ⟨kicked [0, 0, 0xF], 511, rfl, by decide +kernel, rfl, by decide +kernel, by decide +kernel⟩

/-- Itinerary 255 waits, with no patch list; its one node, of zeros, is for tile 0. -/
theorem test_meets_kick_whole : ∃ (s : State) (j : Nat), s.sched.stopped = false ∧ s.held = false ∧ s.sched.pushes = [] ∧ s.nextKick = some j ∧
    s.patchList (iPaddr (s.itin (j % 256))) (iPcnt (s.itin (j % 256))) = [] ∧ 0 < s.sched.jsize ∧
    ∀ k < iNodes (s.itin (j % 256)), pushable s (s.itin (j % 256)) k := by
  let s : State := { (wth.setReg256 (offItin 255) (BitVec.ofNat 256 (0x101 + 0x2000000 * 2 ^ 32))).setReg (offPkb 3) 0x8000000000000000 with
    sched := { wth.sched with jbase := 0x2001000, jsize := 1 } }
  refine ⟨s, 511, rfl, by decide +kernel, rfl, by decide +kernel, by decide +kernel, by decide +kernel, fun k h => ?_⟩
  have n : iNodes (s.itin (511 % 256)) = 1 := by decide +kernel
  rw [n] at h
  obtain rfl : k = 0 := by omega
  have a : nodeAt (s.itin (511 % 256)) 0 = 0x2000000 := by decide +kernel
  unfold pushable
  rw [a]
  exact ⟨.inr (by decide +kernel), by decide +kernel, by decide +kernel⟩

def onePush : Push := { itin := 255, node := 0, tile := 0, q := 0, last := true, seq := some 5 }

theorem test_meets_push : ∀ full : Bool, ∃ s : State, s.sched.stopped = false ∧ s.held = false ∧ s.sched.pushes = [onePush] ∧ s.pushRepeated onePush = false ∧
    s.pushRefused onePush = none ∧ s.nextKick = none ∧ decide (64 ≤ ((s.tile 0).queue 0).tasks.length) = full := by
  rintro (_ | _)
  · exact ⟨{ wth with sched := { wth.sched with pushes := [onePush], jsize := 1 } }, rfl, by decide +kernel, rfl, by decide +kernel, by decide +kernel, by decide +kernel, by decide +kernel⟩
  · exact ⟨{ wth with sched := { wth.sched with pushes := [onePush], jsize := 1 }, tiles := [(0, fullQueue 0)] }, rfl, by decide +kernel, rfl, by decide +kernel, by decide +kernel,
      by decide +kernel, by decide +kernel⟩

/-- The notice is in the completion FIFO. -/
def noticed (v : Nat) (dcv : Option Nat) (s : State := wth) : State := { s with sched := { s.sched with fifo := [(BitVec.ofNat 128 v, dcv)] } }

def NoticeHyps (s : State) (v : BitVec 128) (dcv : Option Nat) : Prop :=
  s.sched.stopped = false ∧ s.held = false ∧ eventMay s ∧ s.sched.fifo = [(v, dcv)]

theorem test_meets_notice_untagged :
    (∀ n : Nat, n = 2 ^ 10 ∨ n = 2 * 2 ^ 8 → ∃ (s : State) (v : BitVec 128), NoticeHyps s v none ∧ bit v 11 = false ∧ (bit v 10 = true ∨ 2 ≤ fld v 8 2)) ∧
    ∃ (s : State) (v : BitVec 128) (n : Nat), NoticeHyps s v (some n) ∧ bit v 11 = false ∧ bit v 10 = false ∧ fld v 8 2 ≤ 1 ∧ bit (s.reg (offCntCtl n)) 0 = true ∧
      n < 2 ^ 14 := by
  constructor
  · rintro _ (rfl | rfl)
    · exact ⟨noticed (2 ^ 10) none, _, ⟨rfl, by decide +kernel, may_of (by decide +kernel), rfl⟩, by decide +kernel, by decide +kernel⟩
    · exact ⟨noticed (2 * 2 ^ 8) none, _, ⟨rfl, by decide +kernel, may_of (by decide +kernel), rfl⟩, by decide +kernel, by decide +kernel⟩
  · exact ⟨(noticed (2 ^ 8) (some 16383)).setReg (offCntCtl 16383) 1, _, 16383, ⟨rfl, by decide +kernel, may_of (by decide +kernel), rfl⟩, by decide +kernel, by decide +kernel, by decide +kernel,
      by decide +kernel, by decide +kernel⟩

/-- Itinerary 255 runs, with the given number of nodes left; node 0 waits for one tile; the journal begins where the node ends. -/
def running (left : Nat) : State :=
  { wth.setReg256 (offItin 255) (itinOf 0x81 (left * 2 ^ 192)) with
    sram := mwrites [] (0x2000000 + 128 + 9) [2], sched := { wth.sched with jbase := 0x2000100, jsize := 1 } }

theorem test_meets_notice_tagged : ∀ left : Nat, left = 1 ∨ left = 2 → ∃ (s : State) (v : BitVec 128), NoticeHyps s v none ∧ bit v 11 = true ∧
    (let i := fld v 12 8
     let e := s.itin i
     let a := nodeAt e (fld v 20 16)
     iRun e = true ∧ fld v 36 16 = iRuns e % 65536 ∧ fld v 20 16 < iNodes e ∧ fld v 8 2 = 0 ∧ bit v 10 = false ∧ bit v 58 = true ∧ iDcv e = false ∧
     nRemret (s.control a) = 1 ∧ iLeft e = left ∧ i ∉ s.sched.failing ∧ s.sched.pushes = [] ∧ (s.sched.seq - s.sched.ckpt).toNat < 4090 ∧ journalApart s a ∧
     0 < s.sched.jsize) := by
  have apart (s : State) (h : s.sched.jbase = 0x2000100) : journalApart s 0x2000000 := .inr (Nat.le_of_eq h.symm)
  rintro _ (rfl | rfl)
  · exact ⟨noticed (2 ^ 11 + 255 * 2 ^ 12 + 2 ^ 58) none (running 1), _, ⟨rfl, by decide +kernel, may_of (by decide +kernel), rfl⟩, by decide +kernel, by decide +kernel, by decide +kernel, by decide +kernel,
      by decide +kernel, by decide +kernel, by decide +kernel, by decide +kernel, by decide +kernel, by decide +kernel, by decide +kernel, rfl, by decide +kernel, apart _ rfl, by decide +kernel⟩
  · exact ⟨noticed (2 ^ 11 + 255 * 2 ^ 12 + 2 ^ 58) none (running 2), _, ⟨rfl, by decide +kernel, may_of (by decide +kernel), rfl⟩, by decide +kernel, by decide +kernel, by decide +kernel, by decide +kernel,
      by decide +kernel, by decide +kernel, by decide +kernel, by decide +kernel, by decide +kernel, by decide +kernel, by decide +kernel, rfl, by decide +kernel, apart _ rfl, by decide +kernel⟩

theorem test_meets_takeover : (∃ s : State, s.regF offSchedCtl 12 1 = 0) ∧ ∃ s : State, s.regF offSchedCtl 12 1 = 1 :=
  ⟨⟨base, by decide +kernel⟩, base.setReg offSchedCtl 0x1000, by decide +kernel⟩

/-- What word 0 of an entry becomes. -/
def entryWith (s : State) (n : Nat) (v : Word) : BitVec 256 :=
  setWord (s.itin n) 0 ((wordOf (s.itin n) 0 &&& ~~~ itinMask 0) ||| (v &&& itinMask 0))

/-- Context 0 holds the page of Ferry SRAM at 0x2000000. -/
def withRegion : State := base.setReg (offCsram 0) 0xC000

theorem test_meets_itin_write : (∃ (s : State) (w : Nat), w ≠ 2 ∧ iRun (s.itin 255) = true) ∧ (∃ (s : State) (w : Nat), w ≠ 2 ∧ iPend (s.itin 255) = true) ∧
    (∃ (s : State) (v : Word), iRun (s.itin 255) = false ∧ iPend (s.itin 255) = false ∧ bit v 0 = false) ∧
    (∃ (s : State) (v : Word), iRun (s.itin 255) = false ∧ iPend (s.itin 255) = false ∧ bit v 0 = true ∧ s.itinBreach (entryWith s 255 v) = none) ∧
    ∃ (s : State) (v : Word) (c k : Nat), iRun (s.itin 255) = false ∧ iPend (s.itin 255) = false ∧ bit v 0 = true ∧
      s.itinBreach (entryWith s 255 v) = some (c, k) ∧ c < 8 ∧ k < 65536 :=
  ⟨⟨running 1, 0, by decide +kernel, by decide +kernel⟩, ⟨kicked [], 3, by decide +kernel, by decide +kernel⟩, ⟨base, 0x0200000000000000, by decide +kernel, by decide +kernel, by decide +kernel⟩,
    ⟨withRegion.setReg (offCsram 0) 0xC001, 0x0200000000000001, by decide +kernel, by decide +kernel, by decide +kernel, by decide +kernel⟩, base, 1, 1, 0, by decide +kernel, by decide +kernel, by decide +kernel,
    by decide +kernel, by decide +kernel, by decide +kernel⟩

/-! Contexts and registers -/

/-- A page of page-table entries of a valid, pinned page in frame 0, which is this page. -/
def oneTable : Nat → Nat → Mem
  | 0, _ => []
  | n + 1, k => (8 * k, 9) :: oneTable n (k + 1)

theorem one_table_read (n k a : Nat) : mread (oneTable n k) a = if a % 8 = 0 ∧ k ≤ a / 8 ∧ a / 8 < k + n then 9 else 0 := by
  induction n generalizing k with
  | zero => rw [if_neg (by omega)]; rfl
  | succ n ih =>
    have e : mread (oneTable (n + 1) k) a = if 8 * k = a then 9 else mread (oneTable n (k + 1)) a := by
      simp [oneTable, mread, tget]
    rw [e, ih]
    by_cases h : 8 * k = a
    · rw [if_pos h, if_pos (by omega)]
    · rw [if_neg h]
      congr 1
      exact propext ⟨fun q => by omega, fun q => by omega⟩

theorem mreads_eight (m : Mem) (a : Nat) : mreads m a 8 =
    [mread m a, mread m (a + 1), mread m (a + 2), mread m (a + 3), mread m (a + 4), mread m (a + 5), mread m (a + 6), mread m (a + 7)] := rfl

/-- Its memory is such a page. -/
def IsTable (m : Mem) : Prop := ∀ a, mread m a = if a % 8 = 0 ∧ 0 ≤ a / 8 ∧ a / 8 < 0 + 8192 then 9 else 0

theorem table_word {m : Mem} (t : IsTable m) (i : Nat) (h : i < 8192) : mword m (0 * 65536 + 8 * i) = 9 := by
  have r (j : Nat) (hj : j < 8) : mread m (8 * i + j) = if j = 0 then 9 else 0 := by
    rw [t]
    congr 1
    exact propext ⟨fun q => by omega, fun q => by omega⟩
  have z : mread m (8 * i) = 9 := r 0 (by decide +kernel)
  unfold mword mval
  rw [Nat.zero_mul, Nat.zero_add, mreads_eight, z, r 1 (by decide +kernel), r 2 (by decide +kernel), r 3 (by decide +kernel), r 4 (by decide +kernel), r 5 (by decide +kernel), r 6 (by decide +kernel),
    r 7 (by decide +kernel)]
  rfl

/-- Every address of context 63 is in that page. -/
def allMapped (m : Mem) : State := { State.reset.setCx 63 (cMEMBERS 0) 1 with hbm := m }

theorem all_mapped_pinned {m : Mem} (t : IsTable m) (va : Word) : (allMapped m).pinnedFrame 63 va = some 0 := by
  have root : (allMapped m).cxF 63 cPTROOT 16 36 = 0 := (by decide +kernel : (State.reset.setCx 63 (cMEMBERS 0) 1).cxF 63 cPTROOT 16 36 = 0)
  have pte (i : Nat) (h : i < 8192) : (allMapped m).pte 0 i = 9 := table_word t i h
  have f (a n : Nat) (h : n ≤ 13) : fld va a n < 8192 := Nat.lt_of_lt_of_le (Nat.mod_lt _ (Nat.two_pow_pos n)) (Nat.pow_le_pow_right (by decide +kernel) h)
  have w : ((allMapped m).walk 63 va).map (·.1) = some 9 := by
    unfold State.walk
    rw [root]
    simp only [pte _ (f 55 1 (by decide +kernel)), show pteFrame 9 = 0 from by decide +kernel, pte _ (f 42 13 (by decide +kernel)), pte _ (f 29 13 (by decide +kernel)),
      pte _ (f 16 13 (by decide +kernel))]
    rfl
  unfold State.pinnedFrame
  cases e : (allMapped m).walk 63 va with
  | none => rw [e] at w; cases w
  | some p =>
    rw [e] at w
    have l : p.1 = 9 := Option.some.inj w
    obtain ⟨p1, p2⟩ := p
    subst l
    rfl

theorem all_mapped_created {m : Mem} (t : IsTable m) : (allMapped m).createErr 63 = 0 := by
  have ok (va : Word) (n : Nat) : (allMapped m).areaOk 63 va n = true := by
    unfold State.areaOk
    exact List.all_eq_true.mpr fun p _ => by rw [all_mapped_pinned t]; rfl
  have own : (allMapped m).isMember 63 (allMapped m).chip = true :=
    (by decide +kernel : (State.reset.setCx 63 (cMEMBERS 0) 1).isMember 63 (State.reset.setCx 63 (cMEMBERS 0) 1).chip = true)
  unfold State.createErr
  simp [firstBelow, State.areas, ok, own]

theorem test_meets_context_create : (∃ (s : State), s.ctxExists 63 = false ∧ s.createErr 63 ≠ 0) ∧ ∃ (s : State), s.ctxExists 63 = false ∧ s.createErr 63 = 0 :=
  ⟨⟨base, by decide +kernel, by decide +kernel⟩, allMapped (oneTable 8192 0), (by decide +kernel : (State.reset.setCx 63 (cMEMBERS 0) 1).ctxExists 63 = false),
    all_mapped_created (one_table_read 8192 0)⟩

theorem test_meets_context_destroy : (∃ (s : State), s.ctxExists 0 = true ∧ s.tiles = []) ∧
    (∃ (s : State), s.ctxExists 0 = true ∧ ∃ e ∈ s.tiles, ∃ k, e.2.task = some k ∧ k.t.ctx = 0) ∧ ∃ s : State, s.ctxExists 0 = true ∧ s.mstate 0 ≠ 4 :=
  ⟨⟨base, by decide +kernel, rfl⟩, ⟨wt 0, by decide +kernel, (0, { Tile.idle with task := some placedTask }), .head _, placedTask, rfl, rfl⟩, base, by decide +kernel, by decide +kernel⟩

theorem test_meets_shape_write : (∃ s : State, ∀ n < 6, s.linkState n = 0) ∧ (∃ s : State, ∃ n < 6, s.linkState n ≠ 0) ∧
    (∃ s : State, s.dimX * s.dimY * s.dimZ ≤ 64) ∧ ∃ s : State, 64 < s.dimX * s.dimY * s.dimZ ∧ bit (s.reg offXlatCtl) 0 = true :=
  ⟨⟨base, by decide +kernel⟩, ⟨linkIn 1, 5, by decide +kernel, by decide +kernel⟩, ⟨base.setReg offGeom (0x3F <<< 10), by decide +kernel⟩,
    (base.setReg offGeom (0x7F <<< 10)).setReg offXlatCtl 1, by decide +kernel, by decide +kernel⟩

theorem test_meets_register_rules :
    (∃ (s : State) (v : BitVec 128), bit v 0 = true ∧ s.windowPinned (v &&& winMask) = true) ∧
    (∃ (s : State) (v : BitVec 128), bit v 0 = true ∧ s.windowPinned (v &&& winMask) = false) ∧
    (∀ member : Bool, ∃ (s : State) (v : Word), s.isMember (fld (s.reg128 (offTxw (65535 / 16))) 1 6) (fld v 1 10) = member) ∧
    (∃ s : State, (s.coll 15).run = none ∧ (s.coll 15).queue = []) ∧ (∃ s : State, (s.coll 0).run.isSome = true) ∧ (∃ s : State, (s.coll 0).queue ≠ []) ∧
    (∃ (s : State) (v : BitVec 32), 2 ^ 31 ≤ (v - BitVec.ofNat 32 (s.cxF 0 cUNDOWIN 0 32)).toNat) ∧
    (∃ (s : State) (v : BitVec 32), (v - BitVec.ofNat 32 (s.cxF 0 cUNDOWIN 0 32)).toNat < 2 ^ 31) ∧
    (∃ s : State, s.playing 0 = true ∧ s.mstate 0 = 3) ∧ (∃ s : State, s.playing 0 = false) ∧ (∃ s : State, s.mstate 0 ≠ 3) ∧
    (∃ s : State, s.slotNew = [(0x700000, 5)] ∧ s.ccc.toNat % 256 = 0) ∧ ∃ s : State, s.slotNew = [(0x730000, 5)] ∧ s.ccc.toNat % 256 ≠ 0 := by
  refine ⟨⟨base, 0x10000000000010001, by decide +kernel, by decide +kernel⟩, ⟨base, 0x10000000000020001, by decide +kernel, by decide +kernel⟩, ?_, ⟨base, rfl, rfl⟩,
    ⟨withRun (.begin (oneColl [6])), rfl⟩, ⟨{ base with colls := [(0, { CollEng.idle with queue := [oneColl [6]] })] }, by decide +kernel⟩,
    ⟨base, 0x80000000, by decide +kernel⟩, ⟨base, 0x7FFFFFFF, by decide +kernel⟩, ⟨(base.setCx 0 cREPLAY 2).setCx 0 cMSTATE 3, by decide +kernel, by decide +kernel⟩, ⟨base, by decide +kernel⟩,
    ⟨base, by decide +kernel⟩, ⟨{ base with slotNew := [(0x700000, 5)], ccc := 256 }, rfl, by decide +kernel⟩,
    { base with slotNew := [(0x730000, 5)], ccc := 255 }, rfl, by decide +kernel⟩
  rintro (_ | _)
  · exact ⟨windows base, 2, by decide +kernel⟩
  · exact ⟨windows base, 0, by decide +kernel⟩

/-! Muster, rollback, replay and errors -/

/-- Context 0 is in an MSTATE, with no party of its own at work. -/
def mustering (v : Word) (m : Muster := .idle) : State := { base.setCx 0 cMSTATE v with musters := [(0, m)] }

theorem test_meets_mustering : (∃ s : State, s.mstate 0 ≠ 1 ∧ s.mstate 0 ≠ 2) ∧
    (∃ s : State, s.mstate 0 = 1 ∧ s.threads = [] ∧ s.allStopped 0 = true ∧ s.allDrained 0 = false ∧ (s.muster 0).drained = false) ∧
    ∃ s : State, s.mstate 0 = 2 ∧ (s.muster 0).drained = false ∧ s.allDrained 0 = true ∧ (s.muster 0).alone = true ∧ (CtxLog.of s 0).after = .nothing :=
  ⟨⟨base, by decide +kernel, by decide +kernel⟩, ⟨{ mustering 1 with actions := [firingOf 4] }, by decide +kernel, rfl, by decide +kernel, by decide +kernel, by decide +kernel⟩,
    mustering 2 { Muster.idle with alone := true }, by decide +kernel, by decide +kernel, by decide +kernel, by decide +kernel, by decide +kernel⟩

theorem test_meets_muster_notice : ∀ kind : Word, kind = 0 ∨ kind = 0x3F ∨ kind = 0x48 ∨ kind = 0x50 ∨ kind = 0xFF → ∃ (s s1 : State) (p : Packet),
    s.headAt 6 (fun p => p.dst == s.chip && !p.bad && p.pop == 0x15 && (decide (noticeKind p < 0x40) || decide (0x48 ≤ noticeKind p))) = some (p, s1) ∧
    noticeKind p = kind.toNat ∧ s.fences.getLsbD p.src = false ∧ s.fences.getLsbD p.dst = false ∧ s.mustWait (noticeCtx p) p = false ∧
    ((s.headAt 6 fun p => p.dst == s.chip && !p.bad && p.pop == 0x15 && (decide (noticeKind p < 0x40) || decide (0x48 ≤ noticeKind p))).map fun r =>
      (r.2.playing (noticeCtx p), r.2.mstate (noticeCtx p))) = some (false, 0) := by
  rintro kind (rfl | rfl | rfl | rfl | rfl)
  · exact ⟨atInput wth 6 (packet 1 0x15 0 0 []), _, packet 1 0x15 0 0 [], head_of (by decide +kernel), by decide +kernel, by decide +kernel, by decide +kernel, by decide +kernel, by decide +kernel⟩
  · exact ⟨atInput wth 6 (packet 1 0x15 0x3F 0 []), _, packet 1 0x15 0x3F 0 [], head_of (by decide +kernel), by decide +kernel, by decide +kernel, by decide +kernel, by decide +kernel, by decide +kernel⟩
  · exact ⟨atInput wth 6 (packet 1 0x15 0x48 0 []), _, packet 1 0x15 0x48 0 [], head_of (by decide +kernel), by decide +kernel, by decide +kernel, by decide +kernel, by decide +kernel, by decide +kernel⟩
  · exact ⟨atInput wth 6 (packet 1 0x15 0x50 0 []), _, packet 1 0x15 0x50 0 [], head_of (by decide +kernel), by decide +kernel, by decide +kernel, by decide +kernel, by decide +kernel, by decide +kernel⟩
  · exact ⟨atInput wth 6 (packet 1 0x15 0xFF 0 []), _, packet 1 0x15 0xFF 0 [], head_of (by decide +kernel), by decide +kernel, by decide +kernel, by decide +kernel, by decide +kernel, by decide +kernel⟩

/-- A record of context 0. -/
def recOf (rtype akind : Nat) (addr : Word) : UndoRec :=
  { rtype := rtype, akind := akind, atom := false, tile := 0, src := 0, win := 0, addr := addr, old := [7], inBuf := false }

theorem test_meets_undo : (∃ s : State, (s.tile 0).undoBuf = 4095) ∧ (∃ s : State, (s.tile 0).undoBuf = 4096) ∧
    (∃ (s : State) (r : UndoRec), r.rtype = 1 ∧ r.akind = 0 ∧ s.savedCtx (fld r.addr 0 8) = none) ∧ (recOf 1 1 0).rtype = 1 ∧ (recOf 1 1 0).akind = 1 ∧
    (∃ (s : State) (r : UndoRec) (pa : Nat), r.rtype = 1 ∧ r.akind = 2 ∧ s.tensorBack 0 r.addr = some pa) ∧
    (∃ (s : State) (r : UndoRec), r.rtype = 2 ∧ s.savedCtx r.tile = none) ∧ (recOf 5 0 3).rtype = 5 ∧ (recOf 3 0 0).rtype = 3 :=
  ⟨⟨{ base with tiles := [(0, { Tile.idle with undoBuf := 4095 })] }, rfl⟩, ⟨{ base with tiles := [(0, { Tile.idle with undoBuf := 4096 })] }, rfl⟩,
    ⟨base, recOf 1 0 255, rfl, rfl, by decide +kernel⟩, rfl, rfl, ⟨withTensor base, recOf 1 2 3, _, rfl, rfl, some_of 0 (by decide +kernel)⟩,
    ⟨base, recOf 2 0 0, rfl, by decide +kernel⟩, rfl, rfl⟩

/-- Context 0 replays, from the start of its ring at 0x10000, where an entry of the given kind stands with CCC 0. -/
def replayAt (ekind : Byte) (l : CtxLog) : State :=
  { withMem (((base.setCx 0 cREPLAY 2).setCx 0 cRPBASE 0x10000).setCx 0 cRPSIZE 1) [ekind] with logs := [(0, l)] }

/-- One input has been recorded. -/
def oneInput : CtxLog := { CtxLog.idle with rpos := 48 }

theorem test_meets_replay : base.playing 0 = false ∧
    ∀ k : Byte, k = 4 ∨ k = 5 → ∀ early : Bool, ∃ s : State, s.playing 0 = true ∧ s.mstate 0 < 3 ∧ (CtxLog.of s 0).playPos ≠ (CtxLog.of s 0).rpos ∧
      (CtxLog.of s 0).after = .nothing ∧ eventMay s ∧ s.replaySize 0 ≠ 0 ∧ nfld (leNat (s.replayBytes 0 (CtxLog.of s 0).playPos 32)) 0 4 = k.toNat ∧
      decide ((s.ccc - (CtxLog.of s 0).playStart).toNat <
        (BitVec.ofNat 64 (nfld (leNat (s.replayBytes 0 (CtxLog.of s 0).playPos 32)) 64 64) - (CtxLog.of s 0).playRec).toNat) = early := by
  refine ⟨by decide +kernel, ?_⟩
  rintro _ (rfl | rfl) (_ | _)
  · exact ⟨replayAt 4 oneInput, by decide +kernel, by decide +kernel, by decide +kernel, by decide +kernel, may_of (by decide +kernel), by decide +kernel, by decide +kernel, by decide +kernel⟩
  · exact ⟨replayAt 4 { oneInput with playRec := 1 }, by decide +kernel, by decide +kernel, by decide +kernel, by decide +kernel, may_of (by decide +kernel), by decide +kernel, by decide +kernel, by decide +kernel⟩
  · exact ⟨replayAt 5 oneInput, by decide +kernel, by decide +kernel, by decide +kernel, by decide +kernel, may_of (by decide +kernel), by decide +kernel, by decide +kernel, by decide +kernel⟩
  · exact ⟨replayAt 5 { oneInput with playRec := 1 }, by decide +kernel, by decide +kernel, by decide +kernel, by decide +kernel, may_of (by decide +kernel), by decide +kernel, by decide +kernel, by decide +kernel⟩

theorem test_meets_precise_stop : ∀ work : Nat, work = 4 ∨ work = 5 → ∃ s : State, (CtxLog.of s 0).target = some (3, 0, 5) ∧ (s.tile 0).work = work ∧
    s.playing 0 = true ∧ s.mstate 0 = 0 ∧ (CtxLog.of s 0).playIv = 3 := by
  have h (w : Nat) : ∃ s : State, (CtxLog.of s 0).target = some (3, 0, 5) ∧ (s.tile 0).work = w ∧ s.playing 0 = true ∧ s.mstate 0 = 0 ∧
      (CtxLog.of s 0).playIv = 3 :=
    ⟨{ base.setCx 0 cREPLAY 2 with logs := [(0, { CtxLog.idle with target := some (3, 0, 5), playIv := 3 })],
                                   tiles := [(0, { Tile.idle with streams := [(0, { Stream.idle with work := w })] })] }, rfl, by simp [State.tile, Tile.work, Tile.stream, tget, show Stream.idle.work = 0 from rfl],
      (by decide +kernel : (base.setCx 0 cREPLAY 2).playing 0 = true), (by decide +kernel : (base.setCx 0 cREPLAY 2).mstate 0 = 0), rfl⟩
  rintro _ (rfl | rfl)
  · exact h 4
  · exact h 5

theorem test_meets_snapshot : base.snapAt = none ∧ ∀ now : Word, now = 255 ∨ now = 256 → ∃ s : State, s.snapAt = some 0 ∧ s.ccc = now ∧
    ∀ t < 256, bit (s.tile t).trace.ctl 0 = false :=
  ⟨rfl, fun now _ => ⟨{ base with snapAt := some 0, ccc := now }, rfl, rfl, (by decide +kernel : ∀ t < 256, bit (base.tile t).trace.ctl 0 = false)⟩⟩

/-- Tile 0 with a trace control word. -/
def tracing (ctl : BitVec 10) (now : Word) : State := { base with ccc := now, tiles := [(0, { Tile.idle with trace := { Trace.idle with ctl := ctl } })] }

theorem test_meets_sample : (∃ s : State, s.ccc.toNat % 2 ^ fld (s.tile 0).trace.ctl 5 5 ≠ 0) ∧ (∃ s : State, bit (s.tile 0).trace.ctl 0 = false) ∧
    (∃ s : State, bit (s.tile 0).trace.ctl 4 = false) ∧ ∃ s : State, s.ccc.toNat % 2 ^ fld (s.tile 0).trace.ctl 5 5 = 0 :=
  ⟨⟨tracing 0x151 1, by decide +kernel⟩, ⟨base, by decide +kernel⟩, ⟨tracing 0x141 1024, by decide +kernel⟩, tracing 0x151 1024, by decide +kernel⟩

theorem test_meets_errors : (wt 3).tiles ≠ [] ∧ ((wt 3).tile 0).task.isSome = true ∧ ((wth).thr 0).running = true ∧
    (∃ (s : State) (c : Copy) (rest : List Copy), tget [] s.copies 31 = c :: rest) ∧
    (∃ (s : State) (r : CollRun), (s.coll 0).run = some r ∧ r.aborted = none ∧ r.decided = none) ∧
    (∃ s : State, 0 = s.regF offSchedCtl 0 6 ∧ s.sched.stopped = false ∧ s.regF offSchedCtl 12 1 = 0) ∧ base.recording (base.ctxOfTile 0) = false ∧
    ∃ s : State, s.ctxExists 0 = true ∧ s.mstate 0 = 0 ∧ s.isMember 0 1 = true ∧ 1 ≠ s.chip :=
  ⟨by decide +kernel, rfl, rfl, ⟨{ base with copies := [(31, [oneCopy fillDesc])] }, _, _, rfl⟩, ⟨withRun (.begin (oneColl [6])), _, rfl, rfl, rfl⟩,
    ⟨base, by decide +kernel, by decide +kernel, by decide +kernel⟩, by decide +kernel, members2 base, by decide +kernel, by decide +kernel, by decide +kernel, by decide +kernel⟩

/-! The whole machine -/

def nextOf (a : Ans) : State := match a with
  | .next u => u
  | _ => base

/-- It goes on. -/
def goes (a : Ans) : Bool := match a with
  | .next _ => true
  | _ => false

theorem next_of {a : Ans} (h : goes a = true) : a = .next (nextOf a) := by
  cases a <;> first | rfl | exact nomatch h

theorem test_meets_step_runs : ∀ hw : BitVec 16, hw = 0x0926 ∨ hw = 0 → ∃ (s s1 : State) (hs : List (BitVec 16)), s.pkg.boot = 1 ∧
    s.agenda = .issue (.stream 0 0) :: [] ∧ s.toStop 0 = none ∧ (s.tile 0).allow = none ∧ ({ s with agenda := [], cur := .stream 0 0 } : State).ready (.stream 0 0) = .one ∧
    ({ s with agenda := [], cur := .stream 0 0 } : State).readInsn (.stream 0 0) = .ok (hs, s1) ∧ hs = [hw] := by
  rintro _ (rfl | rfl)
  · exact ⟨{ withMem atPage [0x26, 0x09] with agenda := [.issue (.stream 0 0)] }, _, _, rfl, rfl, by decide +kernel, rfl, rfl, ok_two ([], base) (by decide +kernel), by decide +kernel⟩
  · exact ⟨{ atPage with agenda := [.issue (.stream 0 0)] }, _, _, rfl, rfl, by decide +kernel, rfl, rfl, ok_two ([], base) (by decide +kernel), by decide +kernel⟩

theorem test_meets_retry : ∃ (s : State) (rest : List Move), s.pkg.boot = 1 ∧ s.agenda = .retry (.stream 0 0) :: rest ∧
    ({ s with agenda := rest } : State).portHeld (.stream 0 0) = true :=
  ⟨{ wt 0 fun x => { portOpen 0 0 0 8 x with streams := [(0, { Stream.idle with stall := .port })] } with agenda := [.retry (.stream 0 0)] }, [], rfl, rfl, by decide +kernel⟩

theorem test_meets_read_insn : ∃ (s : State) (w : Who) (pa : Nat → Nat), (s.strm w).blk = none ∧
    (∀ j < 4, ((s.strm w).pc + BitVec.ofNat 64 (2 * j)).toNat < 2 ^ 56 ∧
      s.translate w (s.ctxOf w) ((s.strm w).pc + BitVec.ofNat 64 (2 * j)) false = .ok (pa j, s)) ∧ isHeader (BitVec.ofNat 16 (mval s.hbm (pa 0) 2)) = false := by
  refine ⟨wt 0 fun x => { x with streams := [(0, { Stream.idle with pc := 0x10000 })],
                                 tlb := [{ ctx := 0, vpn := 1, frame := 5, w := true, lm := false, exp := 0 }] }, .stream 0 0, fun j => 0x50000 + 2 * j, rfl, ?_, by decide +kernel⟩
  intro j h
  obtain rfl | rfl | rfl | rfl : j = 0 ∨ j = 1 ∨ j = 2 ∨ j = 3 := by omega
  all_goals exact ⟨by decide +kernel, rfl⟩

theorem test_meets_step_moves : (∃ (s : State) (i : Instr), s.agenda = .event i :: [] ∧ s.answers (.event i) = true) ∧
    (∃ (s : State) (m : Move), s.agenda = m :: [] ∧ s.pkg.boot = 1) ∧ (∃ (s : State) (m : Move), s.agenda = m :: [] ∧ s.answers m = false) ∧
    (∃ (s : State) (r : CollRun), s.pkg.boot = 1 ∧ s.agenda = .issue (.engine 0) :: [] ∧
      ({ s with agenda := [], cur := .engine 0 } : State).engineRun = some (0, r) ∧ r.aborted = none ∧ r.ended = false ∧ (decodeStep r.word).isSome = true) ∧
    (∃ (s : State) (r : CollRun), s.pkg.boot = 1 ∧ s.agenda = .issue (.engine 0) :: [] ∧
      ({ s with agenda := [], cur := .engine 0 } : State).engineRun = some (0, r) ∧ r.ended = true) ∧ State.reset.agenda = [] :=
  ⟨⟨{ State.reset with agenda := [.event .packageReset] }, _, rfl, rfl⟩, ⟨{ base with agenda := [.counterCommand] }, _, rfl, rfl⟩,
    ⟨{ State.reset with agenda := [.counterCommand] }, _, rfl, rfl⟩,
    ⟨{ withRun (.begin (oneColl [6])) with agenda := [.issue (.engine 0)] }, _, rfl, rfl, rfl, rfl, rfl, by decide +kernel⟩,
    ⟨{ withRun { CollRun.begin (oneColl [6]) with ended := true } with agenda := [.issue (.engine 0)] }, _, rfl, rfl, rfl, rfl⟩, rfl⟩

theorem test_meets_encodings : (∃ i : Instr, i.wf = true ∧ i.asDecoded = i ∧ i.code = .none) ∧ (∃ i : Instr, i.wf = true ∧ i.asDecoded = i ∧ i.code = .step 6) ∧
    ∃ i : Instr, i.wf = true ∧ i.asDecoded = i ∧ i.code.halves = [0x04A6] :=
  ⟨⟨.packageReset, by decide +kernel, rfl, rfl⟩, ⟨.stepEnd, by decide +kernel, rfl, by decide +kernel⟩, .addC { x := 5, y := 6 }, by decide +kernel, rfl, by decide +kernel⟩

theorem steps_empty (s : State) (h : s.agenda = []) : s.Steps s.tick := by
  unfold State.Steps step
  rw [h]

theorem steps_passed (s : State) {m : Move} {rest : List Move} (h : s.agenda = m :: rest) (a : s.answers m = false) : s.Steps { s with agenda := rest } := by
  unfold State.Steps step
  rw [h]
  simp [a]

theorem steps_event (s : State) {i : Instr} {rest : List Move} {u : State} (h : s.agenda = .event i :: rest) (a : s.answers (.event i) = true)
    (e : exec i { s with agenda := rest } = .next u) : s.Steps u := by
  unfold State.Steps step
  rw [h]
  simp [a, e]

theorem test_meets_steps : (∃ s t : State, s.PowerLimits ∧ s.Steps t) ∧ (∃ (s t : State) (m : Move), s.agenda = m :: [] ∧ (∀ i, m ≠ .event i) ∧ s.Steps t) ∧
    (∃ (s t : State), s.agenda = .event .packageReset :: [] ∧ s.Steps t) ∧ (∃ (s t : State), s.agenda = .event (.thermtrip 0) :: [] ∧ s.Steps t) ∧
    ∃ s t : State, s.agenda = [] ∧ s.Steps t :=
  ⟨⟨State.reset, State.reset.tick, (by unfold State.PowerLimits; decide), steps_empty _ rfl⟩,
    ⟨{ State.reset with agenda := [.counterCommand] }, _, .counterCommand, rfl, (fun _ h => nomatch h), steps_passed _ rfl rfl⟩,
    ⟨{ State.reset with agenda := [.event .packageReset] }, _, rfl, steps_event _ rfl rfl rfl⟩,
    ⟨{ State.reset with agenda := [.event (.thermtrip 0)] }, _, rfl, steps_event _ rfl rfl rfl⟩, State.reset, _, rfl, steps_empty _ rfl⟩

theorem test_meets_register_frame : ∃ (s u : State) (i : Instr) (d : BitVec 6), s.IsScalar ∧ registerForm i = some d ∧ exec i s = .next u ∧ s.GoesOn u :=
  ⟨wtr [(1, 5)], _, .add (tri 3 1 1), 3, .inr ⟨0, rfl⟩, rfl, next_of (by decide +kernel), by decide +kernel, fun n h => by cases h; decide⟩

theorem test_meets_memory_frame : ∃ (s u : State) (i : Instr), storesNothing i = true ∧ exec i s = .next u ∧ s.GoesOn u :=
  ⟨wt 1, _, .ali { d := 3, imm := 7 }, rfl, next_of (by decide +kernel), by decide +kernel, fun _ h => nomatch h⟩

/-! Where each form completes: packets -/

/-- What is assumed of every packet. -/
def inputReady (s : State) (port : Nat) (p : Packet) : Prop :=
  port < 7 ∧ tget [] s.inq port = [p] ∧ s.fences.getLsbD p.src = false ∧ s.fences.getLsbD p.dst = false ∧ s.heldAll = []

theorem ready_of {s : State} {port : Nat} {p : Packet} (h : decide (port < 7 ∧ tget [] s.inq port = [p] ∧ s.fences.getLsbD p.src = false ∧
    s.fences.getLsbD p.dst = false ∧ s.heldAll = []) = true) : inputReady s port p :=
  have x : port < 7 ∧ tget [] s.inq port = [p] ∧ s.fences.getLsbD p.src = false ∧ s.fences.getLsbD p.dst = false ∧ s.heldAll = [] := of_decide_eq_true h
  x

theorem test_meets_complete_forward : (∃ (s : State) (p : Packet), inputReady s 6 p ∧ p.bad = true) ∧
    ∀ port : Nat, port = 0 ∨ port = 6 → ∃ (s : State) (p : Packet), inputReady s port p ∧ p.bad = false ∧ p.dst ≠ s.chip ∧ s.linkTo p.dst = some 0 ∧
      s.fences.getLsbD (s.neighbour 0) = false ∧ s.linkState 0 = 2 := by
  refine ⟨⟨atInput wth 6 (packet 0 63 0 0 []), packet 0 63 0 0 [], ready_of (by decide +kernel), by decide +kernel⟩, ?_⟩
  rintro _ (rfl | rfl)
  · exact ⟨atInput (pair 2 wth) 0 { packet 0 3 0 0 [] with dst := 1 }, { packet 0 3 0 0 [] with dst := 1 }, ready_of (by decide +kernel), by decide +kernel, by decide +kernel, by decide +kernel,
      by decide +kernel, by decide +kernel⟩
  · exact ⟨atInput (pair 2 wth) 6 { packet 0 3 0 0 [] with dst := 1 }, { packet 0 3 0 0 [] with dst := 1 }, ready_of (by decide +kernel), by decide +kernel, by decide +kernel, by decide +kernel,
      by decide +kernel, by decide +kernel⟩

/-- The last bytes of window 0 of the page. -/
def atEnd (n : Nat) : Nat := 65536 - n

theorem test_meets_complete_delivery : ∀ pop : Nat, pop = 0 ∨ pop = 1 → ∃ (s : State) (p : Packet), inputReady s 6 p ∧ p.bad = false ∧ p.dst = s.chip ∧ p.pop = pop ∧
    (let w := fld p.word2 0 12
     let off := fld p.word2 12 40
     let e := s.reg128 (offRxw w)
     let c := fld e 1 6
     let va := winVa e off
     let bs := s.windowAfter p
     p.src ∉ s.discarding ∧ p.pseq = tget 0 s.pseqIn p.src ∧ s.tokenMet p = true ∧ p.src = s.chip ∧ bit e 0 = true ∧
     off + p.data.length ≤ winSize e ∧ off + bs.length ≤ winSize e ∧ s.rangeMoves c va bs.length = false ∧
     s.undoUse c + vaRecordBytes va bs ≤ s.undoSize c ∧ s.physOf c va = some (0x50000 + off) ∧ va.toNat % 4096 + bs.length ≤ 4096) := by
  rintro _ (rfl | rfl)
  · exact ⟨atInput (windows wth) 6 (packet 0 0 0 0 [1, 2]), packet 0 0 0 0 [1, 2], ready_of (by decide +kernel), by decide +kernel, by decide +kernel, rfl, by decide +kernel, by decide +kernel, by decide +kernel,
      by decide +kernel, by decide +kernel, by decide +kernel, by decide +kernel, by decide +kernel, by decide +kernel, by decide +kernel, by decide +kernel⟩
  · exact ⟨atInput (windows wth) 6 (packet 0 1 (8 <<< 52) 0 [1, 2, 3, 4]), packet 0 1 (8 <<< 52) 0 [1, 2, 3, 4], ready_of (by decide +kernel), by decide +kernel, by decide +kernel, rfl,
      by decide +kernel, by decide +kernel, by decide +kernel, by decide +kernel, by decide +kernel, by decide +kernel, by decide +kernel, by decide +kernel, by decide +kernel, by decide +kernel, by decide +kernel⟩

theorem test_meets_complete_message : ∃ (s : State) (p : Packet), inputReady s 6 p ∧ p.bad = false ∧ p.dst = s.chip ∧ p.pop = 3 ∧ p.src ∉ s.discarding ∧
    p.pseq = tget 0 s.pseqIn p.src ∧ (p.src = s.chip ∨ s.playing (s.packetCtx p) = false) ∧ bit (s.reg offMatchCtl) 0 = true :=
  ⟨(atInput wth 6 (packet 0 3 0 0 (leBytes 16 0))).setReg offMatchCtl 1, packet 0 3 0 0 (leBytes 16 0), ready_of (by decide +kernel), by decide +kernel, by decide +kernel, rfl, by decide +kernel,
    by decide +kernel, by decide +kernel, by decide +kernel⟩

theorem test_meets_complete_red : ∃ (s : State) (p : Packet) (l : List (BitVec 32)), inputReady s 0 p ∧ p.bad = false ∧ p.dst = s.chip ∧ p.pop = 2 ∧
    s.redRun (redRid p) = none ∧ rtValid (s.reg128 (offRedTab (redRid p))) = true ∧ rtEpoch (s.reg128 (offRedTab (redRid p))) = redEpoch p ∧ s.reds = [] ∧
    redElems (((s.redRun (redRid p)).map fun r => r.2.c.rop).getD 0) p.data = some l ∧ l ≠ [] ∧
    ∃ i < 8, i ≠ redSlot p ∧ (rtInmask (s.reg128 (offRedTab (redRid p)))).testBit i = true :=
  ⟨(atInput wth 0 (packet 1 2 0 0 (List.replicate 256 0))).setReg128 (offRedTab 0) 0x1FF, packet 1 2 0 0 (List.replicate 256 0), List.replicate 64 0,
    ready_of (by decide +kernel), by decide +kernel, by decide +kernel, rfl, rfl, by decide +kernel, by decide +kernel, rfl, by decide +kernel, by decide +kernel, 7, by decide +kernel, by decide +kernel, by decide +kernel⟩

theorem test_meets_complete_ack : ∃ (s : State) (p : Packet), inputReady s 0 p ∧ p.bad = false ∧ p.dst = s.chip ∧ p.pop = 8 ∧ p.data.head? = some 0 ∧
    ∀ e ∈ s.sent, e.send = none ∧ e.firing = none :=
  ⟨{ atInput wth 0 { packet 1 8 0 0 [0] with pseq := 9 } with sent := [oneSentPacket] }, { packet 1 8 0 0 [0] with pseq := 9 }, ready_of (by decide +kernel), by decide +kernel,
    by decide +kernel, rfl, rfl, by decide +kernel⟩

theorem test_meets_complete_tokens : (∃ (s : State) (p : Packet), inputReady s 0 p ∧ p.bad = false ∧ p.dst = s.chip ∧ p.pop = 0x10 ∧
      (s.mark (fld p.word2 0 10) - tokenSeq p.word2).toNat < 2 ^ 31) ∧
    (∃ (s : State) (p : Packet), inputReady s 0 p ∧ p.bad = false ∧ p.dst = s.chip ∧ p.pop = 0x10 ∧
      2 ^ 31 ≤ (s.mark (fld p.word2 0 10) - tokenSeq p.word2).toNat ∧ s.queries.length < 1024) ∧
    ∃ (s : State) (p : Packet), inputReady s 0 p ∧ p.bad = false ∧ p.dst = s.chip ∧ p.pop = 9 ∧ s.tokenAt p.src (fld p.word2 0 10) = some (1023, oneToken) ∧
      oneToken.mark = none :=
  ⟨⟨{ atInput wth 0 (packet 1 0x10 2 0 []) with lhw := [(2, 0)] }, packet 1 0x10 2 0 [], ready_of (by decide +kernel), by decide +kernel, by decide +kernel, rfl, by decide +kernel⟩,
    ⟨{ atInput wth 0 (packet 1 0x10 0x100002 0 []) with lhw := [(2, 0)] }, packet 1 0x10 0x100002 0 [], ready_of (by decide +kernel), by decide +kernel, by decide +kernel, rfl, by decide +kernel,
      by decide +kernel⟩,
    { atInput wth 0 (packet 1 9 2 0 []) with tokens := [(1023, some oneToken)] }, packet 1 9 2 0 [], ready_of (by decide +kernel), by decide +kernel, by decide +kernel, rfl, by decide +kernel, rfl⟩

theorem test_meets_complete_control : (∃ (s : State) (p : Packet), inputReady s 0 p ∧ p.bad = false ∧ p.dst = s.chip ∧ p.pop = 0x12) ∧
    (∃ (s : State) (p : Packet), inputReady s 0 p ∧ p.bad = false ∧ p.dst = s.chip ∧ p.pop = 0x13 ∧ bit p.word2 10 = true) ∧
    ∃ (s : State) (p : Packet), inputReady s 0 p ∧ p.bad = false ∧ p.dst = s.chip ∧ p.pop = 0x14 ∧ fld p.word2 10 10 = s.chip ∧ fld p.word2 0 10 ≠ s.chip :=
  ⟨⟨atInput wth 0 (packet 1 0x12 0x403 0 []), packet 1 0x12 0x403 0 [], ready_of (by decide +kernel), by decide +kernel, by decide +kernel, rfl⟩,
    ⟨atInput wth 0 (packet 1 0x13 0x403 0 []), packet 1 0x13 0x403 0 [], ready_of (by decide +kernel), by decide +kernel, by decide +kernel, rfl, by decide +kernel⟩,
    atInput wth 0 (packet 1 0x14 1 0 []), packet 1 0x14 1 0 [], ready_of (by decide +kernel), by decide +kernel, by decide +kernel, rfl, by decide +kernel, by decide +kernel⟩

theorem test_meets_complete_updates : (∃ (s : State) (p : Packet) (pa : Nat), inputReady s 0 p ∧ p.bad = false ∧ p.dst = s.chip ∧ p.pop = 0x11 ∧
      (let c := fld p.word2 40 6
       let order := s.ranked c (fld p.word2 50 10)
       s.playing c = false ∧ p.src = s.chip ∧ s.updates = [] ∧ treeChildren order.length (order.idxOf s.chip) = [] ∧ fld p.word2 46 2 = 1 ∧
       s.entryPa c (BitVec.ofNat 64 (fld p.word2 0 40 * 65536)) (fld p.word2 48 2) = some pa)) ∧
    ∃ (s : State) (p : Packet) (u : Update), inputReady s 0 p ∧ p.bad = false ∧ p.dst = s.chip ∧ p.pop = 0xA ∧ s.updates = [u] ∧ u.origin = fld p.word2 0 10 ∧
      u.ident = leNat (p.data.take 8) ∧ u.root = true ∧ u.applied.isSome = true ∧ u.acked = true ∧ u.stage = 0 ∧
      ∀ c ∈ s.ranked u.ctx u.origin, (u.got ||| BitVec.ofNat 1024 (leNat ((p.data.drop 8).take 128))).getLsbD c = true :=
  ⟨⟨atInput (windows wth) 0 (sdown 1), sdown 1, 0x40008, ready_of (by decide +kernel), by decide +kernel, by decide +kernel, rfl, by decide +kernel, by decide +kernel, rfl, by decide +kernel, by decide +kernel, by decide +kernel⟩,
    { atInput (members2 wth) 0 (packet 0 0xA 0 0 (leBytes 8 4 ++ leBytes 128 2)) with updates := [rootUpdate] }, packet 0 0xA 0 0 (leBytes 8 4 ++ leBytes 128 2),
    rootUpdate, ready_of (by decide +kernel), by decide +kernel, by decide +kernel, rfl, rfl, by decide +kernel, by decide +kernel, rfl, rfl, rfl, rfl, by decide +kernel⟩

theorem test_meets_complete_timers :
    (∃ (s : State) (t : TokEntry), s.heldAll = [] ∧ s.tokenAt 1 2 = some (3, t) ∧ t.short = some 0 ∧ 940 ≤ (s.ccc - 0).toNat) ∧
    (∃ (s : State) (h : Held), s.heldAll = [(6, h)] ∧ s.harbourAt 6 = [h] ∧ h.p.src ∉ s.discarding ∧
      cyclesOf (s.cxF (s.packetCtx h.p) cTKEXP 0 17) < (s.ccc - h.since).toNat) ∧
    (∃ (s : State) (u : Update), s.updates = [u] ∧ u.applied = some 0 ∧ u.acked = true ∧ u.root = false ∧ u.answered = false ∧ s.treeDone u = false ∧
      treeHeight (s.ranked u.ctx u.origin).length 10 u.rank ≠ 0 ∧
      940 * 4 * treeHeight (s.ranked u.ctx u.origin).length 10 u.rank ≤ (s.ccc - u.since).toNat) ∧
    ∃ (s : State) (u : Update), s.updates = [u] ∧ u.kind = 0 ∧ u.root = true ∧ u.applied = some 0 ∧ u.acked = false ∧ s.frameBusy u.old = false ∧
      bit (s.reg offXlatCtl) 0 = false ∧ (∀ d ∈ s.ranked u.ctx u.origin, u.got.getLsbD d = true ∨ d = s.chip) ∧
      940 * (s.cxF u.ctx cLEASE 0 11 + 1) ≤ (s.ccc - 0).toNat :=
  ⟨⟨{ wth with ccc := 940, tokens := [(3, some { oneToken with short := some 0 })] }, { oneToken with short := some 0 }, by decide +kernel, by decide +kernel, rfl, by decide +kernel⟩,
    ⟨{ wth with ccc := 94001, harbour := [(6, [heldRst])] }, heldRst, by decide +kernel, rfl, by decide +kernel, by decide +kernel⟩,
    ⟨{ members2 wth with updates := [nodeUpdate], ccc := 3760 }, nodeUpdate, rfl, rfl, rfl, rfl, rfl, by decide +kernel, by decide +kernel, by decide +kernel⟩,
    { windows wth with updates := [{ rootUpdate with acked := false, got := 0 }], ccc := 61100 }, { rootUpdate with acked := false, got := 0 }, rfl, rfl, rfl, rfl, rfl,
    by decide +kernel, by decide +kernel, by decide +kernel, by decide +kernel⟩

/-! Where each form completes: collectives -/

/-- What is assumed of every notice: it is the first packet at input 6, from rank q of the run of engine 0. -/
def noticeReady (s : State) (p : Packet) (r : CollRun) (q : Nat) : Prop :=
  tget [] s.inq 6 = [p] ∧ p.dst = s.chip ∧ p.bad = false ∧ p.pop = 0x15 ∧ s.fences.getLsbD p.src = false ∧ s.fences.getLsbD p.dst = false ∧
    p.src = s.chip ∧ (s.coll (noticeEngine p)).run = some r ∧ r.c.ctx = noticeCtx p ∧ firstBelow (fun i => r.c.rmap[i]? == some p.src) r.c.ranks 0 = some q

/-- A notice of chip 0 to engine 0, where the run stands. -/
def noticed0 (r : CollRun) (kind word : Word) : State := atInput (withRun r) 6 (note kind word)

theorem notice_of {s : State} {p : Packet} {r : CollRun} {q : Nat}
    (h : decide (tget [] s.inq 6 = [p] ∧ p.dst = s.chip ∧ p.bad = false ∧ p.pop = 0x15 ∧ s.fences.getLsbD p.src = false ∧ s.fences.getLsbD p.dst = false ∧
      p.src = s.chip ∧ r.c.ctx = noticeCtx p ∧ firstBelow (fun i => r.c.rmap[i]? == some p.src) r.c.ranks 0 = some q) = true)
    (run : (s.coll (noticeEngine p)).run = some r) : noticeReady s p r q :=
  have ⟨a, b, c, d, e, f, g, x, y⟩ := of_decide_eq_true h
  ⟨a, b, c, d, e, f, g, run, x, y⟩

theorem test_meets_complete_notices :
    (noticeReady (noticed0 treeRun 0x40 5) (note 0x40 5) treeRun 0 ∧ noticeKind (note 0x40 5) = 0x40 ∧ treeRun.cts = []) ∧
    (noticeReady (noticed0 treeRun 0x41 5) (note 0x41 5) treeRun 0 ∧ noticeKind (note 0x41 5) = 0x41 ∧ treeRun.xfers = [oneXfer] ∧ oneXfer.dst = 0 ∧
      oneXfer.num = fld (note 0x41 5).word3 0 16 ∧ oneXfer.epoch = some (noticeEpoch (note 0x41 5))) ∧
    (noticeReady (noticed0 treeRun 0x42 1) (note 0x42 1) treeRun 0 ∧ noticeKind (note 0x42 1) = 0x42 ∧ treeRun.c.rank ≠ 0 ∧ 0 = rankParent treeRun.c.rank ∧
      treeRun.step < (note 0x42 1).word3.toNat) ∧
    (noticeReady (noticed0 treeRun 0x43 0) (note 0x43 0) treeRun 0 ∧ noticeKind (note 0x43 0) = 0x43 ∧ (note 0x43 0).word3.toNat = treeRun.step ∧
      stepTreeRrs treeRun.word = true ∧ treeRun.stepok = false ∧ noticeEpoch (note 0x43 0) = treeRun.epoch) ∧
    (∃ s r, noticeReady s (note 0x44 0) r 0 ∧ noticeKind (note 0x44 0) = 0x44 ∧ r.c.rank = 0 ∧ r.decided = none) ∧
    (∀ w : Word, w = 1 ∨ w = 2 → noticeReady (noticed0 treeRun 0x45 w) (note 0x45 w) treeRun 0 ∧ noticeKind (note 0x45 w) = 0x45 ∧ treeRun.decided = none) ∧
    (noticeReady (noticed0 treeRun 0x46 1) (note 0x46 1) treeRun 0 ∧ noticeKind (note 0x46 1) = 0x46) ∧
    (noticeReady (noticed0 treeRun 0x47 0) (note 0x47 0) treeRun 0 ∧ noticeKind (note 0x47 0) = 0x47 ∧ treeRun.finish = none) := by
  refine ⟨⟨notice_of (by decide +kernel) rfl, by decide +kernel, rfl⟩,
    ⟨notice_of (by decide +kernel) rfl, by decide +kernel, rfl, rfl, by decide +kernel, by decide +kernel⟩,
    ⟨notice_of (by decide +kernel) rfl, by decide +kernel, by decide +kernel, by decide +kernel, by decide +kernel⟩,
    ⟨notice_of (by decide +kernel) rfl, by decide +kernel, by decide +kernel, by decide +kernel, rfl, by decide +kernel⟩,
    ⟨noticed0 (.begin (oneColl [6])) 0x44 0, .begin (oneColl [6]), notice_of (by decide +kernel) rfl, by decide +kernel,
      by decide +kernel, rfl⟩, ?_, ⟨notice_of (by decide +kernel) rfl, by decide +kernel⟩,
    ⟨notice_of (by decide +kernel) rfl, by decide +kernel, rfl⟩⟩
  rintro _ (rfl | rfl)
  · exact ⟨notice_of (by decide +kernel) rfl, by decide +kernel, rfl⟩
  · exact ⟨notice_of (by decide +kernel) rfl, by decide +kernel, rfl⟩

/-- The page is in the TLB of thread 0's core. -/
def inTlb (s : State) : State := { s with coreTlb := [(0, [{ ctx := 0, vpn := 1, frame := 5, w := true, lm := false, exp := 0 }])] }

theorem ok_same {r : Res (List Byte × State)} {s : State} (h : isOk r = true) (e : (okOr ([], base) r).2 = s) : r = .ok ((okOr ([], base) r).1, s) := by
  cases r with
  | ok v => exact congrArg Res.ok (Prod.ext rfl e)
  | _ => exact nomatch h

theorem test_meets_complete_coll : ∃ (s : State) (f : CmdE) (bs ms ps : List Byte), commandMay s f ∧
    (let e := fld f.imm 0 4
     let ctx := s.cmdCtx
     let a := s.rs f.a
     let d := BitVec.ofNat 512 (leNat bs)
     let n := if fld d 0 10 = 0 then 1024 else fld d 0 10
     let prog := (List.range (progLen d)).map fun i => BitVec.ofNat 64 (leNat ((ps.drop (8 * i)).take 8))
     let c : Coll :=
       { desc := d, descVa := a, ctx := ctx, rmap := (List.range n).map fun i => leNat ((ms.drop (2 * i)).take 2), prog := prog,
         base := (prog.filter fun w => stepOp w == 4).foldl (fun t w => tput 0 t (fld w 4 14) (s.cnt (fld w 4 14))) [], tile := s.cur.tile? }
     s.ownsEngine ctx e = true ∧ s.readOperand a 64 64 = .ok (bs, s) ∧ collBad d = false ∧
     s.readPages s.cur ctx 2 (BitVec.ofNat 64 (fld d 128 57)) (2 * n) = .ok (ms, s) ∧
     s.readPages s.cur ctx 2 (BitVec.ofNat 64 (fld d 64 57)) (8 * progLen d) = .ok (ps, s) ∧ s.collCheck c a = .ok () ∧ (s.coll e).queue.length < 4) :=
  ⟨inTlb (mayCollect (wtr [(1, 0x10000)])), cmde 9 1 0 0 0, _, _, _, command_may rfl rfl rfl rfl rfl rfl, by decide +kernel, ok_same (by decide +kernel) rfl, by decide +kernel,
    ok_same (by decide +kernel) rfl, ok_same (by decide +kernel) rfl, ok_any () (by decide +kernel), by decide +kernel⟩

theorem test_meets_complete_collectives :
    (∃ (s : State) (f : CmdE) (r : CollRun), commandMay s f ∧ s.ownsEngine s.cmdCtx (fld f.imm 0 4) = true ∧ (s.coll (fld f.imm 0 4)).queue = [] ∧
      (s.coll (fld f.imm 0 4)).run = some r ∧ r.c.ctx = s.cmdCtx ∧ r.decided = none ∧ r.aborted = none) ∧
    (∃ (s : State) (c : Coll) (rest : List Coll), (s.coll 0).queue = c :: rest ∧ (s.coll 0).run = none ∧ (s.coll 0).parked = false ∧ s.mstate c.ctx = 0) ∧
    (∃ (s : State) (r : CollRun) (b : Inbound) (bs : List Byte), (s.coll 0).run = some r ∧ (s.coll 0).parked = false ∧ r.aborted = none ∧
      r.decided ≠ some false ∧ r.inbound = [b] ∧ b.data = none ∧ b.landed = some (BitVec.ofNat 64 (b.epoch.toNat + b.num % 65536 * 2 ^ 32)) ∧
      s.stagedData r.c b = some bs ∧ r.owed = []) ∧
    ∃ (s : State) (r : CollRun), (s.coll 0).run = some r ∧ (s.coll 0).parked = false ∧ r.aborted = none ∧ r.c.deadline ≠ 0 ∧ r.lacking = true ∧
      cyclesOf r.c.deadline ≤ (s.ccc - r.start).toNat ∧ r.rpt + 1 ≤ r.c.maxRepeats :=
  ⟨⟨{ mayCollect wth with colls := [(0, { CollEng.idle with run := some (.begin (oneColl [6])) })] }, cmde 9 0 0 0 0, _,
      command_may rfl rfl rfl rfl rfl rfl, by decide +kernel, rfl, rfl, rfl, rfl, rfl⟩,
    ⟨{ mayCollect wth with colls := [(0, { CollEng.idle with queue := [oneColl [6]] })] }, _, _, rfl, rfl, rfl, by decide +kernel⟩,
    ⟨withRun { CollRun.begin (twoColl 0 [recvWord, 6]) with inbound := [landedSlot] }, _, landedSlot, _, rfl, rfl, rfl, by decide +kernel, rfl, rfl, by decide +kernel,
      some_of [] (by decide +kernel), rfl⟩,
    { withRun { CollRun.begin { twoColl 0 [recvWord, 6] with desc := (twoColl 0 []).desc + BitVec.ofNat 512 (2 ^ 336) } with phase := 1 } with ccc := 940 }, _, rfl, rfl, rfl, by decide +kernel, by decide +kernel, by decide +kernel, by decide +kernel⟩

/-- A data step of the run of engine 0, without flags, and what is assumed of it. -/
def stepStands (s : State) (r : CollRun) (f : StepDataF) : Prop :=
  s.cur = .engine 0 ∧ (s.coll 0).parked = false ∧ (s.coll 0).run = some r ∧ readStepData r.word = f ∧ f.tr = false ∧ f.fw = false ∧ f.sf = false ∧ f.lr = false ∧
    r.aborted = none

/-- The step's bytes have their places, and the undo log its room. -/
def placed (s : State) (r : CollRun) (f : StepDataF) (data : List Byte) : Prop :=
  let buf := r.c.buf f.db.toNat
  ∃ segs, s.chunkSegs (s.tensor r.c.ctx buf) buf r.c.sh (r.chunk f * s.chunkLen r.c buf) (data.take (s.chunkLen r.c buf)) = some segs ∧
    s.undoUse r.c.ctx + segsBytes segs ≤ s.undoSize r.c.ctx

theorem placed_of {s : State} {r : CollRun} {f : StepDataF} {data : List Byte}
    (h : ((s.chunkSegs (s.tensor r.c.ctx (r.c.buf f.db.toNat)) (r.c.buf f.db.toNat) r.c.sh (r.chunk f * s.chunkLen r.c (r.c.buf f.db.toNat))
      (data.take (s.chunkLen r.c (r.c.buf f.db.toNat)))).any fun segs => decide (s.undoUse r.c.ctx + segsBytes segs ≤ s.undoSize r.c.ctx)) = true) :
    placed s r f data := by
  unfold placed
  cases e : s.chunkSegs (s.tensor r.c.ctx (r.c.buf f.db.toNat)) (r.c.buf f.db.toNat) r.c.sh (r.chunk f * s.chunkLen r.c (r.c.buf f.db.toNat))
      (data.take (s.chunkLen r.c (r.c.buf f.db.toNat))) with
  | none => rw [e] at h; exact nomatch h
  | some segs => rw [e] at h; exact ⟨segs, e, of_decide_eq_true h⟩

theorem test_meets_complete_steps :
    (∃ (s : State) (r : CollRun) (f : StepDataF), stepStands s r f ∧ r.phase = 6 ∧ r.ahead = none ∧ ∀ x ∈ r.xfers, x.done = true) ∧
    (∃ (s : State) (r : CollRun) (f : StepDataF) (raw : List Byte), stepStands s r f ∧ r.phase = 0 ∧ r.xfers = [] ∧ (s.coll 0).outbox = [] ∧
      s.readChunk r.c (r.c.buf f.sb.toNat) (r.chunk f) = some raw ∧ placed s r f raw) ∧
    (∃ (s : State) (r : CollRun) (f : StepDataF) (raw d : List Byte), stepStands s r f ∧ r.phase = 0 ∧ r.xfers = [] ∧ (s.coll 0).outbox = [] ∧
      s.readChunk r.c (r.c.buf f.sb.toNat) (r.chunk f) = some raw ∧ stepOp r.word = 2 ∧ r.taken (rankAt r.c.ranks r.c.rank (-f.pk.toInt)) = some d ∧
      f.wd = true ∧ f.ns = true ∧ f.iw = false ∧ placed s r f (ropBytesAdd r.c.rop raw.length d raw)) ∧
    (∃ (s : State) (r : CollRun) (f : StepDataF) (raw : List Byte), stepStands s r f ∧ r.phase = 0 ∧ r.xfers = [] ∧ (s.coll 0).outbox = [] ∧
      s.readChunk r.c (r.c.buf f.sb.toNat) (r.chunk f) = some raw ∧ stepOp r.word = 0 ∧ r.cts = [] ∧
      s.peerLost 0 r.c.ctx (nth 0 r.c.rmap (r.peer f)) = false ∧ s.collWire r.c (r.c.buf f.sb.toNat) = false ∧ raw.length + 8 ≤ r.c.slotB) ∧
    (∃ (s : State) (r : CollRun) (f : StepDataF) (d : List Byte), stepStands s r f ∧ r.phase = 0 ∧ r.xfers = [] ∧ (s.coll 0).outbox = [] ∧ stepOp r.word = 1 ∧
      r.taken (rankAt r.c.ranks r.c.rank (-f.pk.toInt)) = some d ∧ placed s r f d) ∧
    ∃ (s : State) (r : CollRun), s.cur = .engine 0 ∧ (s.coll 0).parked = false ∧ (s.coll 0).run = some r ∧ r.c.kids = [] ∧ r.c.rank ≠ 0 ∧ r.decided = none ∧
      r.aborted = none ∧ r.finish = none ∧ r.reported = 0 :=
  ⟨⟨withRun { CollRun.begin (oneColl [packStepData 0 sendStep, 6]) with phase := 6 }, _, sendStep, ⟨rfl, rfl, rfl, by decide +kernel, rfl, rfl, rfl, rfl, rfl⟩, rfl, rfl,
      by decide +kernel⟩,
    ⟨withRun (.begin (oneColl [packStepData 3 sendStep, 6])), _, sendStep, _, ⟨rfl, rfl, rfl, by decide +kernel, rfl, rfl, rfl, rfl, rfl⟩, rfl, rfl, rfl, some_of [] (by decide +kernel),
      placed_of (by decide +kernel)⟩,
    ⟨withRun { CollRun.begin (oneColl [packStepData 2 rrsStep, 6]) with inbound := [takenSlot] }, _, rrsStep, _, chunk256,
      ⟨rfl, rfl, rfl, by decide +kernel, rfl, rfl, rfl, rfl, rfl⟩, rfl, rfl, rfl, some_of [] (by decide +kernel), by decide +kernel, by decide +kernel, rfl, rfl, rfl, placed_of (by decide +kernel)⟩,
    ⟨withRun (.begin (oneColl [packStepData 0 sendStep, 6])), _, sendStep, _, ⟨rfl, rfl, rfl, by decide +kernel, rfl, rfl, rfl, rfl, rfl⟩, rfl, rfl, rfl,
      some_of [] (by decide +kernel), by decide +kernel, rfl, by decide +kernel, by decide +kernel, by decide +kernel⟩,
    ⟨withRun { CollRun.begin (oneColl [packStepData 1 sendStep, 6]) with inbound := [takenSlot] }, _, sendStep, chunk256,
      ⟨rfl, rfl, rfl, by decide +kernel, rfl, rfl, rfl, rfl, rfl⟩, rfl, rfl, rfl, by decide +kernel, by decide +kernel, placed_of (by decide +kernel)⟩,
    withRun (.begin (twoColl 1 [6])), _, rfl, rfl, rfl, by decide +kernel, by decide +kernel, rfl, rfl, rfl, rfl⟩

/-! Where each form completes: inputs, the Ferry and the scheduler -/

/-- Bytes that window 0 of the page takes at an offset. -/
theorem takes_of {s : State} {w off : Nat} {bs : List Byte}
    (h : decide (bit (s.reg128 (offRxw w)) 0 = true ∧ off + bs.length ≤ winSize (s.reg128 (offRxw w)) ∧
      s.rangeMoves (fld (s.reg128 (offRxw w)) 1 6) (winVa (s.reg128 (offRxw w)) off) bs.length = false ∧
      s.undoUse (fld (s.reg128 (offRxw w)) 1 6) + vaRecordBytes (winVa (s.reg128 (offRxw w)) off) bs ≤ s.undoSize (fld (s.reg128 (offRxw w)) 1 6)) = true) :
    windowTakes s w off bs :=
  have x : bit (s.reg128 (offRxw w)) 0 = true ∧ off + bs.length ≤ winSize (s.reg128 (offRxw w)) ∧
      s.rangeMoves (fld (s.reg128 (offRxw w)) 1 6) (winVa (s.reg128 (offRxw w)) off) bs.length = false ∧
      s.undoUse (fld (s.reg128 (offRxw w)) 1 6) + vaRecordBytes (winVa (s.reg128 (offRxw w)) off) bs ≤ s.undoSize (fld (s.reg128 (offRxw w)) 1 6) :=
    of_decide_eq_true h
  x

theorem test_meets_complete_inputs :
    (∃ (s : State) (r : UetRequest), s.heldIn = [] ∧ r.pdc < pdcLimit ∧ r.mode ≠ .uud ∧ s.jobCtx r.job.toNat = some 0 ∧ r.kind = .taggedSend ∧ r.mode ≠ .rudi ∧
      s.unavailable 0 = false) ∧
    (∀ h : Option Word, ∃ (s : State) (r : UetRequest), r.hdata = h ∧ s.heldIn = [] ∧ r.pdc < pdcLimit ∧ r.mode ≠ .uud ∧ s.jobCtx r.job.toNat = some 0 ∧
      r.kind = .rmaWrite ∧ r.tag.toNat < 4096 ∧ s.unavailable (fld (s.reg128 (offRxw r.tag.toNat)) 1 6) = false ∧ windowTakes s r.tag.toNat r.off.toNat r.data) ∧
    (∃ (s : State) (d : Deposit), s.deposits = [d] ∧ d.pdc = some 5 ∧ d.left ≠ 0 ∧ d.recAt = none ∧ s.heldIn = [] ∧
      windowTakes s d.rxw (d.off + 0) ((List.replicate 8 (1 : Byte)).take d.left) ∧ d.entry ∉ s.disarmed) ∧
    (∃ (s : State) (e : Send), s.sends = [e]) ∧
    (∃ s : State, s.heldIn = [] ∧ bit (s.reg (offHostAp 255)) 0 = true ∧
      fld (s.reg128 (offRxw (fld (s.reg (offHostAp 255)) 1 12))) 1 6 = fld (s.reg (offHostAp 255)) 13 6 ∧ s.playing (fld (s.reg (offHostAp 255)) 13 6) = false ∧
      windowTakes s (fld (s.reg (offHostAp 255)) 1 12) 65528 (List.replicate 8 1)) ∧
    (base.ctxExists 0 = true ∧ base.heldIn = [] ∧ base.bar2Pending = false) ∧ ∃ (s : State) (h : HostTlp), s.hostTlps = h :: [] :=
  ⟨⟨withJob, uetRequest .taggedSend none, rfl, by decide +kernel, by decide +kernel, by decide +kernel, rfl, by decide +kernel, by decide +kernel⟩,
    fun h => ⟨withJob, uetRequest .rmaWrite h, rfl, rfl, (by decide +kernel : 0 < pdcLimit), (by decide +kernel : UetMode.rod ≠ .uud), (by decide +kernel : withJob.jobCtx 0 = some 0), rfl,
      (by decide +kernel : (0 : Word).toNat < 4096), (by decide +kernel : withJob.unavailable (fld (withJob.reg128 (offRxw 0)) 1 6) = false),
      (takes_of (by decide +kernel) : windowTakes withJob 0 0 (List.replicate 8 1))⟩,
    ⟨{ windows base with deposits := [oneDeposit] }, oneDeposit, rfl, rfl, by decide +kernel, rfl, rfl, takes_of (by decide +kernel), by decide +kernel⟩,
    ⟨{ base with sends := [{ id := 4, who := none, wait := false, ctx := 0, firing := none, dcv := none }] }, _, rfl⟩,
    ⟨withJob.setReg (offHostAp 255) 1, rfl, by decide +kernel, by decide +kernel, by decide +kernel, takes_of (by decide +kernel)⟩, ⟨by decide +kernel, rfl, by decide +kernel⟩,
    { base with hostTlps := [{ addr := 8, data := [1], who := none, run := 0, send := none }] }, _, rfl⟩

theorem test_meets_complete_unit :
    (∃ (s : State) (a : Arrival), ArrivalHyps s a ∧ s.ctxExists a.ctx = true ∧ (afterArrival s a).winner a = some 65535 ∧ eDmode (s.entry 65535) = 0 ∧
      eCmode (s.entry 65535) = 1) ∧
    (∃ (s : State) (d : Deposit), eventMay s ∧ s.nextEvent = some (.deposit d) ∧ s.deposits = [d] ∧ d.entry ∉ s.disarmed ∧ d.add = some 5) ∧
    (∃ (s : State) (d : WinDel), eventMay s ∧ s.nextEvent = some (.delivery d) ∧ s.winDel = d :: [] ∧ bit (s.reg (offRxdc d.rxw)) 0 = true) ∧
    (∃ s : State, eventMay s ∧ s.nextEvent = some (.signal 15 16383 0) ∧ s.engSig = [(15, 16383, 0)]) ∧ (eventMay base ∧ base.waiting = []) ∧
    (∃ (s : State) (k : Wake), s.wakeReady 15 = some k ∧ s.groupThread 15 = some 1008) ∧
    ∃ s : State, (s.thr 0).running = true ∧ s.reg offTwdog ≠ 0 ∧ (s.reg offTwdog).toNat < 2 * (s.ccc - (s.thr 0).start).toNat :=
  ⟨⟨{ matching oneArrival with entries := [(65535, anyEntry 0 1)] }, oneArrival, arrival_of (by decide +kernel) (by decide +kernel), by decide +kernel, by decide +kernel, by decide +kernel, by decide +kernel⟩,
    ⟨{ base with deposits := [{ oneDeposit with add := some 5, left := 0 }] }, { oneDeposit with add := some 5, left := 0 }, may_of (by decide +kernel), by decide +kernel, rfl,
      by decide +kernel, rfl⟩,
    ⟨{ base.setReg (offRxdc 4095) 1 with winDel := [{ rxw := 4095, bytes := 8, ack := none, born := 0 }] }, { rxw := 4095, bytes := 8, ack := none, born := 0 },
      may_of (by decide +kernel), by decide +kernel, rfl, by decide +kernel⟩,
    ⟨{ base with engSig := [(15, 16383, 0)] }, may_of (by decide +kernel), by decide +kernel, rfl⟩, ⟨may_of (by decide +kernel), by decide +kernel⟩,
    ⟨{ base.setReg (offTgrp 15) 0x8000000000000000 with wakes := [(15, [oneWake])] }, _, some_of oneWake (by decide +kernel), by decide +kernel⟩,
    { wth.setReg offTwdog 10 with ccc := 6 }, rfl, by decide +kernel, by decide +kernel⟩

/-- An action of no reserved bit at the head of a firing of one. -/
def actionReady (s : State) (f : Firing) (a : BitVec 256) (ty : Nat) : Prop := s.actions = [f] ∧ f.acts[f.next]? = some a ∧ actionBad a = false ∧ aType a = ty

theorem test_meets_complete_actions :
    (∃ (s : State) (f : Firing) (a : BitVec 256) (d : BitVec 1024), actionReady s f a 0 ∧ s.launchTask f.ctx (fld a 64 26) (fld a 8 14) = .ok d ∧
      ∀ t ∈ rectTiles (fld a 8 14), ((s.tile t).queue (fld a 22 3)).tasks.length < 64) ∧
    (∃ (s : State) (f : Firing) (a : BitVec 256), actionReady s f a 1 ∧ s.inRegion f.ctx (fld a 64 26) 128 = true ∧ s.actionCounter f.ctx (fld a 14 14) = true ∧
      (s.engine (fld a 8 5)).length < 32 ∧ s.cpPublishing f.ctx (s.template (fld a 64 26)) = false ∧
      (∃ x, s.cpCheck f.ctx none (s.template (fld a 64 26)) = .ok x) ∧ s.cpRanges f.ctx none (s.template (fld a 64 26)) (fld a 8 5) = []) ∧
    (∃ (s : State) (f : Firing) (a : BitVec 256), actionReady s f a 2 ∧ 0 < sdLen a ∧ sdDk a = false ∧ sdLen a ≤ 4080 ∧ s.destOk f.ctx none (sdDest a) = true ∧
      sdDcv a = false ∧ s.windowHolds (sdRx a) (sdWin a) f.ctx (sdOff a) (sdLen a) = true ∧ bit (s.winEntry (sdRx a) (sdWin a)) 0 = true ∧
      fld (s.winEntry (sdRx a) (sdWin a)) 1 6 = f.ctx ∧ s.windowMoves (sdRx a) (sdWin a) f.ctx (sdOff a) (sdLen a) = false ∧ sdDest a = s.chip) ∧
    (∃ (s : State) (f : Firing) (a : BitVec 256) (segs : List Seg), actionReady s f a 3 ∧ fld a 192 24 ≠ 0 ∧
      s.actionWindow (!bit a 32) (fld a 20 12) f.ctx (fld a 64 40) (fld a 192 24) = .ok () ∧
      s.actionWindow false (fld a 8 12) f.ctx (fld a 128 40) (fld a 192 24) = .ok () ∧ bit a 34 = false ∧
      s.windowMoves (!bit a 32) (fld a 20 12) f.ctx (fld a 64 40) (fld a 192 24) = false ∧
      s.windowMoves false (fld a 8 12) f.ctx (fld a 128 40) (fld a 192 24) = false ∧
      s.actionSegs f.ctx (winVa (s.winEntry (!bit a 32) (fld a 20 12)) (fld a 64 40)) (winVa (s.winEntry false (fld a 8 12)) (fld a 128 40)) (fld a 192 24) = some segs ∧
      s.undoUse f.ctx + segsBytes segs + s.horizonBytes f.ctx (some (fld a 8 12)) ≤ s.undoSize f.ctx) ∧
    (∃ (s : State) (f : Firing) (a : BitVec 256), actionReady s f a 4 ∧ s.actionCounter f.ctx (fld a 8 14) = true ∧ s.actions.length < 4096 ∧ s.evUsed < 2 ∧
      s.waiting = []) ∧
    (∃ (s : State) (f : Firing) (a : BitVec 256), actionReady s f a 5 ∧ s.itinOk f.ctx (fld a 8 8) = true ∧ fld a 16 16 = 0 ∧ s.pending? (fld a 8 8) = false) ∧
    (∃ (s : State) (f : Firing) (a : BitVec 256), actionReady s f a 6 ∧ (tget [] s.wakes (fld a 8 4)).length < 256) ∧
    ∃ (s : State) (f : Firing) (a : BitVec 256) (pa v : Nat), actionReady s f a 7 ∧ s.rangeMoves f.ctx (wordOf a 1) 64 = false ∧
      s.objectAt f.ctx (wordOf a 1) = some (pa, v) ∧ objEvent v = true ∧ s.ferryRels = [] ∧ (∀ e ∈ s.stores, e.who.isSome = true) ∧
      s.undoUse f.ctx + 40 ≤ s.undoSize f.ctx :=
  ⟨⟨withAction launchWord, _, _, _, ⟨rfl, rfl, by decide +kernel, by decide +kernel⟩, ok_any 0 (by decide +kernel), by decide +kernel⟩,
    ⟨copyAction, _, _, ⟨rfl, rfl, by decide +kernel, by decide +kernel⟩, by decide +kernel, by decide +kernel, by decide +kernel, by decide +kernel, ⟨_, ok_any () (by decide +kernel)⟩, by decide +kernel⟩,
    ⟨withAction sendWord, _, _, ⟨rfl, rfl, by decide +kernel, by decide +kernel⟩, by decide +kernel, by decide +kernel, by decide +kernel, by decide +kernel, by decide +kernel, by decide +kernel, by decide +kernel, by decide +kernel, by decide +kernel,
      by decide +kernel⟩,
    ⟨withAction (rstWord 0), _, _, _, ⟨rfl, rfl, by decide +kernel, by decide +kernel⟩, by decide +kernel, ok_any () (by decide +kernel), ok_any () (by decide +kernel), by decide +kernel, by decide +kernel, by decide +kernel,
      some_of [] (by decide +kernel), by decide +kernel⟩,
    ⟨(withAction (4 + 16383 * 2 ^ 8)).setReg (offCntCtl 16383) 1, _, _, ⟨rfl, rfl, by decide +kernel, by decide +kernel⟩, by decide +kernel, by decide +kernel, by decide +kernel, by decide +kernel⟩,
    ⟨withAction kickWord (withItin wth), _, _, ⟨rfl, rfl, by decide +kernel, by decide +kernel⟩, by decide +kernel, by decide +kernel, by decide +kernel⟩,
    ⟨withAction (6 + 15 * 2 ^ 8), _, _, ⟨rfl, rfl, by decide +kernel, by decide +kernel⟩, by decide +kernel⟩,
    withMem (withAction relWord) event5, _, _, _, _, ⟨rfl, rfl, by decide +kernel, by decide +kernel⟩, by decide +kernel, some_two (0, 0) (by decide +kernel), by decide +kernel, rfl, by decide +kernel, by decide +kernel⟩

theorem test_meets_complete_scheduler :
    (∃ s : State, s.sched.stopped = false ∧ s.held = false ∧ s.sched.pushes = [] ∧ s.nextKick = some 511 ∧
      ∀ p ∈ s.patchList (iPaddr (s.itin (511 % 256))) (iPcnt (s.itin (511 % 256))), s.patchBad (s.itin (511 % 256)) p.1 p.2 = false) ∧
    (∃ (s : State) (v : BitVec 128) (n : Nat), NoticeHyps s v (some n) ∧ bit v 11 = false ∧ bit v 10 = false ∧ fld v 8 2 ≤ 1 ∧
      bit (s.reg (offCntCtl n)) 0 = true ∧ n < 2 ^ 14) ∧ (∃ s : State, s.regF offSchedCtl 12 1 = 0) ∧ ∃ s : State, s.regF offSchedCtl 12 1 = 1 :=
  ⟨⟨kicked [0, 0, 7], rfl, by decide +kernel, rfl, by decide +kernel, by decide +kernel⟩,
    ⟨(noticed (2 ^ 8) (some 16383)).setReg (offCntCtl 16383) 1, _, 16383, ⟨rfl, by decide +kernel, may_of (by decide +kernel), rfl⟩, by decide +kernel, by decide +kernel, by decide +kernel, by decide +kernel,
      by decide +kernel⟩, ⟨base, by decide +kernel⟩, base.setReg offSchedCtl 0x1000, by decide +kernel⟩

/-! Where each form completes: contexts, registers, replay, errors -/

theorem test_meets_complete_contexts :
    (∃ s : State, s.ctxExists 63 = false ∧ s.createErr 63 = 0) ∧ (∃ s : State, s.ctxExists 0 = true ∧ s.tiles = []) ∧ (base.ctxExists 0 = true ∧ base.mstate 0 ≠ 4) ∧
    (∃ s : State, s.playing 0 = true ∧ s.mstate 0 = 3) ∧
    (∃ (s : State) (v : BitVec 32), (v - BitVec.ofNat 32 (s.cxF 0 cUNDOWIN 0 32)).toNat < 2 ^ 31) ∧
    (∃ s : State, s.mstate 0 = 1 ∧ s.threads = [] ∧ s.allStopped 0 = true ∧ s.allDrained 0 = false ∧ (s.muster 0).drained = false) ∧
    (∃ s : State, s.playing 0 = true ∧ s.mstate 0 < 3 ∧ (CtxLog.of s 0).playPos ≠ (CtxLog.of s 0).rpos ∧ (CtxLog.of s 0).after = .nothing ∧
      s.actions.length < 4096 ∧ s.evUsed < 2 ∧
      (let h := leNat (s.replayBytes 0 (CtxLog.of s 0).playPos 32)
       (BitVec.ofNat 64 (nfld h 64 64) - (CtxLog.of s 0).playRec).toNat ≤ (s.ccc - (CtxLog.of s 0).playStart).toNat ∧ nfld h 0 4 = 5)) ∧
    ∃ s : State, (CtxLog.of s 0).target = some (3, 0, 0) ∧ s.playing 0 = true ∧ s.mstate 0 = 0 ∧ (CtxLog.of s 0).playIv = 3 ∧ 0 ≤ (s.tile 0).work :=
  ⟨⟨allMapped (oneTable 8192 0), (by decide +kernel : (State.reset.setCx 63 (cMEMBERS 0) 1).ctxExists 63 = false), all_mapped_created (one_table_read 8192 0)⟩,
    ⟨base, by decide +kernel, rfl⟩, ⟨by decide +kernel, by decide +kernel⟩, ⟨(base.setCx 0 cREPLAY 2).setCx 0 cMSTATE 3, by decide +kernel, by decide +kernel⟩, ⟨base, 0x7FFFFFFF, by decide +kernel⟩,
    ⟨{ mustering 1 with actions := [firingOf 4] }, by decide +kernel, rfl, by decide +kernel, by decide +kernel, by decide +kernel⟩,
    ⟨replayAt 5 oneInput, by decide +kernel, by decide +kernel, by decide +kernel, by decide +kernel, by decide +kernel, by decide +kernel, by decide +kernel, by decide +kernel⟩,
    { base.setCx 0 cREPLAY 2 with logs := [(0, { CtxLog.idle with target := some (3, 0, 0), playIv := 3 })] }, rfl, by decide +kernel, by decide +kernel, rfl, Nat.zero_le _⟩

theorem test_meets_complete_registers :
    (∀ n < 6, base.linkState n = 0) ∧ base.windowPinned (0x10000000000010001 &&& winMask) = true ∧
    (∃ s : State, s.isMember (fld (s.reg128 (offTxw (65535 / 16))) 1 6) (fld (0 : Word) 1 10) = true) ∧ ((base.coll 15).run = none ∧ (base.coll 15).queue = []) ∧
    (∃ s : State, s.slotNew = [(0x730000, 5)] ∧ (0x730000 - 0x700000) / 0x10000 = 3 ∧ s.ccc.toNat % 256 = 0) ∧
    (∃ (s : State) (p : Packet), tget [] s.inq 6 = [p] ∧ p.dst = s.chip ∧ p.bad = false ∧ p.pop = 0x15 ∧ noticeKind p = 0x50 ∧ s.fences.getLsbD p.src = false ∧
      s.fences.getLsbD p.dst = false ∧ s.playing (noticeCtx p) = false ∧ s.mstate (noticeCtx p) ≠ 2) ∧
    (∃ s : State, 4096 ≤ (s.tile 0).undoBuf) ∧
    (∃ s : State, s.snapAt = some 0 ∧ 256 ≤ (s.ccc - 0).toNat ∧ ∀ t < 256, bit (s.tile t).trace.ctl 0 = false) ∧
    (∃ s : State, s.ccc.toNat % 2 ^ fld (s.tile 0).trace.ctl 5 5 = 0) ∧ (wth.thr 0).running = true ∧
    (∃ (s : State) (c : Copy), tget [] s.copies 31 = [c]) ∧ base.recording (base.ctxOfTile 255) = false :=
  ⟨by decide +kernel, by decide +kernel, ⟨windows base, by decide +kernel⟩, ⟨rfl, rfl⟩, ⟨{ base with slotNew := [(0x730000, 5)], ccc := 256 }, rfl, rfl, by decide +kernel⟩,
    ⟨atInput wth 6 (packet 1 0x15 0x50 0 []), packet 1 0x15 0x50 0 [], rfl, by decide +kernel, by decide +kernel, rfl, by decide +kernel, by decide +kernel, by decide +kernel, by decide +kernel, by decide +kernel⟩,
    ⟨{ base with tiles := [(0, { Tile.idle with undoBuf := 4096 })] }, by decide +kernel⟩,
    ⟨{ base with snapAt := some 0, ccc := 256 }, rfl, by decide +kernel, (by decide +kernel : ∀ t < 256, bit (base.tile t).trace.ctl 0 = false)⟩, ⟨tracing 0x151 1024, by decide +kernel⟩, rfl,
    ⟨{ base with copies := [(31, [oneCopy fillDesc])] }, _, rfl⟩, by decide +kernel⟩

/-! Where each form completes: the matrix stream -/

theorem at_issue {s : State} {f : MForm} (c : s.cur = .stream 0 3) (d : f.dt = 0) (v : f.pv = false) (e : s.debits (s.ctxOfTile 0) = false) : matrixAtIssue s 0 3 f :=
  ⟨c, .inl d, (fun h => nomatch v.symm.trans h), (fun h => nomatch e.symm.trans h), by unfold Tile.suppressed; rw [v]; rfl⟩

theorem test_meets_complete_compact : (∃ (s : State) (f : MnopC), s.cur = .stream 0 3 ∧ f.dt = 0 ∧ s.debits (s.ctxOfTile 0) = false) ∧
    ∃ (s : State) (d : Drain), (s.tile 0).mx.drains[0]? = some d ∧ d.lines = [] ∧ d.act = true ∧ d.route = none ∧ d.tag = some 15 ∧
      (s.strm (.stream 0 3)).stop = none :=
  ⟨⟨wm, { dt := 0 }, rfl, rfl, by decide +kernel⟩, wm fun m => { m with drains := [{ oneDrain with lines := [], tag := some 15 }] }, _, rfl, rfl, rfl, rfl, rfl, rfl⟩

theorem test_meets_complete_timing : ∃ (s : State) (f : MForm), matrixAtIssue s 0 3 f ∧ f.b = 0 ∧ (s.tile 0).mx.drains = [] ∧ (s.tile 0).mx.epiFree ≤ s.ccc.toNat :=
  ⟨wm, mform 0 0 0 0 0 0, at_issue rfl rfl rfl (by decide +kernel), rfl, rfl, by decide +kernel⟩

/-- Entries at the heads of OQ4 and OQ5, with nothing that reads them. -/
theorem test_meets_complete_loads :
    (∃ (s : State) (f : MForm) (h : BitVec 2048), matrixAtIssue s 0 3 f ∧ ((s.tile 0).oqueue (4 + f.a.toNat)).ents = [h] ∧ queueFree s 0 (4 + f.a.toNat) ∧
      h.extractLsb' 24 40 = 0 ∧ h.extractLsb' 104 24 = 0 ∧ h.getLsbD 0 = false ∧ 8 * f.d.toNat + 8 * (f.c.toNat + 1) ≤ 512 ∧
      (s.tile 0).mx.rowsIdle s.ccc.toNat (8 * f.d.toNat) (8 * (f.c.toNat + 1)) false = true) ∧
    (∃ (s : State) (f : MForm) (h : BitVec 2048), matrixAtIssue s 0 3 f ∧ ((s.tile 0).oqueue (4 + f.a.toNat)).ents = [h] ∧ queueFree s 0 (4 + f.a.toNat) ∧
      64 * f.c.toNat + f.b.toNat = 16 ∧ 4096 * f.d.toNat + 256 * 16 ≤ 262144 ∧ (s.tile 0).mx.slotsIdle s.ccc.toNat (slotsOf f.d.toNat (256 * 16)) = true) ∧
    ∃ (s : State) (f : MForm), matrixAtIssue s 0 3 f ∧ (s.tile 0).mx.loadFree ≤ s.ccc.toNat ∧ (s.tile 0).mx.planeIdle s.ccc.toNat f.a.toNat = true ∧
      (s.tile 0).mx.slotsIdle s.ccc.toNat [f.d.toNat] = true ∧ imgBad (imgAt (s.tile 0).mx.wb f.d.toNat) f.d.toNat = false ∧
      (s.tile 0).mx.slotsIdle s.ccc.toNat (slotsOf f.d.toNat (imgLen (imgHead (imgAt (s.tile 0).mx.wb f.d.toNat)))) = true :=
  ⟨⟨wm id matrixQueues, mform 63 1 0 0 0 0, 0, at_issue rfl rfl rfl (by decide +kernel), by decide +kernel, (by intro r h; cases h), by decide +kernel, by decide +kernel, by decide +kernel, by decide +kernel,
      by decide +kernel⟩,
    ⟨wm id matrixQueues, mform 63 1 16 0 0 0, 0, at_issue rfl rfl rfl (by decide +kernel), by decide +kernel, (by intro r h; cases h), by decide +kernel, by decide +kernel, by decide +kernel⟩,
    wm fun m => { m with wb := fp8Image }, mform 0 1 0 0 0 0, at_issue rfl rfl rfl (by decide +kernel), by decide +kernel, by decide +kernel, by decide +kernel, by decide +kernel, by decide +kernel⟩

theorem test_meets_complete_products :
    (∃ (s : State) (f : MForm) (h : BitVec 2048), matrixAtIssue s 0 3 f ∧ f.a.toNat / 2 = 0 ∧ 8 * f.d.toNat + 8 * (f.c.toNat + 1) ≤ 512 ∧
      (s.tile 0).mx.arrayIdle s.ccc.toNat = true ∧ (s.tile 0).mx.planeIdle s.ccc.toNat (f.a.toNat % 2) = true ∧
      (s.tile 0).mx.rowsIdle s.ccc.toNat (8 * f.d.toNat) (8 * (f.c.toNat + 1)) true = true ∧ ((s.tile 0).mx.plane (f.a.toNat % 2)).valid = true ∧
      (let img := ((s.tile 0).mx.plane (f.a.toNat % 2)).img
       (if f.b = 0 then depth (imgFmt (imgHead img)) else 32 * f.b.toNat) ≤ depth (imgFmt (imgHead img)) ∧ mmaGroup f.ty.toNat ≠ 0 ∧
       mmaGroup f.ty.toNat = mmaGroup (imgFmt (imgHead img))) ∧ f.ty ≠ 8 ∧ queueFree s 0 4 ∧ ((s.tile 0).oqueue 4).ents = [h]) ∧
    ∃ (s : State) (f : MForm), matrixAtIssue s 0 3 f ∧ 4 ≤ f.b.toNat ∧ f.b.toNat ≤ 6 ∧ f.a = 0 ∧ f.ty = 0 ∧ 8 * f.d.toNat + 8 * (f.c.toNat + 1) ≤ 512 ∧
      (s.tile 0).mx.rowsIdle s.ccc.toNat (8 * f.d.toNat) (8 * (f.c.toNat + 1)) false = true :=
  ⟨⟨wm withPlane matrixQueues, mform 63 1 4 0 4 0, 0, at_issue rfl rfl rfl (by decide +kernel), by decide +kernel, by decide +kernel, by decide +kernel, by decide +kernel, by decide +kernel, by decide +kernel, by decide +kernel,
      by decide +kernel, (by intro r h; cases h), by decide +kernel⟩,
    wm, mform 63 0 6 0 0 0, at_issue rfl rfl rfl (by decide +kernel), by decide +kernel, by decide +kernel, rfl, rfl, by decide +kernel, by decide +kernel⟩

theorem test_meets_complete_images :
    (∃ (s : State) (f : MForm), matrixAtIssue s 0 3 f ∧ f.b.toNat % 4 = 0 ∧ 8 * f.d.toNat + 8 * (f.c.toNat + 1) ≤ 512 ∧ wFormat f.ty.toNat = true ∧ f.ty ≠ 8 ∧
      8 * (f.c.toNat + 1) ≤ depth f.ty.toNat ∧ 4096 * f.a.toNat + 16448 ≤ 262144 ∧ (s.tile 0).mx.epiIdle s.ccc.toNat = true ∧
      (s.tile 0).mx.rowsIdle s.ccc.toNat (8 * f.d.toNat) (8 * (f.c.toNat + 1)) false = true ∧
      (s.tile 0).mx.slotsIdle s.ccc.toNat (slotsOf f.a.toNat 16448) = true) ∧
    ∃ (s : State) (f : MForm), matrixAtIssue s 0 3 f ∧ 8 * f.d.toNat + 8 * (f.c.toNat + 1) ≤ 512 ∧
      (s.tile 0).mx.rowsIdle s.ccc.toNat (8 * f.d.toNat) (8 * (f.c.toNat + 1)) false = true :=
  ⟨⟨wm, mform 0 59 0 15 3 0, at_issue rfl rfl rfl (by decide +kernel), by decide +kernel, by decide +kernel, by decide +kernel, by decide +kernel, by decide +kernel, by decide +kernel, by decide +kernel, by decide +kernel, by decide +kernel⟩,
    wm, mform 63 0 0 0 0 0, at_issue rfl rfl rfl (by decide +kernel), by decide +kernel, by decide +kernel⟩

theorem test_meets_complete_drains :
    ∃ (s : State) (f : MForm) (h : BitVec 2048), matrixAtIssue s 0 3 f ∧ ((s.tile 0).oqueue 5).ents = [h] ∧ queueFree s 0 5 ∧
      8 * f.d.toNat + 8 * (f.c.toNat + 1) ≤ 512 ∧ (s.tile 0).mx.epiIdle s.ccc.toNat = true ∧
      (s.tile 0).mx.rowsIdle s.ccc.toNat (8 * f.d.toNat) (8 * (f.c.toNat + 1)) false = true ∧
      s.undoUse (s.ctxOfTile 0) + 2 ^ 22 ≤ s.undoSize (s.ctxOfTile 0) ∧ h.toNat % 2 ^ 64 < 2 ^ 21 ∧ h.toNat % 64 = 0 ∧ drainType f.ty.toNat = true ∧
      f.a.toNat / 16 = 0 ∧ h.toNat % 2 ^ 64 + 16 * typeBits f.ty.toNat ≤ 2 ^ 21 ∧ h.toNat % 2 ^ 64 + 512 ≤ 2 ^ 21 :=
  ⟨wm id fun x => { x with oq := [(5, { OpQueue.idle with ents := [0x1FFE00#2048] })] }, mform 63 15 9 0 0 0, 0x1FFE00, at_issue rfl rfl rfl (by decide +kernel), by decide +kernel,
    (by intro r h; cases h), by decide +kernel, by decide +kernel, by decide +kernel, by decide +kernel, by decide +kernel, by decide +kernel, by decide +kernel, by decide +kernel, by decide +kernel, by decide +kernel⟩

end Sys2Proof.Tests
end

section
/-! The reset state (R4, R16, R18, R21): what registers and tiles hold where no table lists them, and PACKAGE_RESET. -/
namespace Sys2Proof.Machine
open Sys2Proof

/-! ### What registers hold at reset -/

/-- A register that no table lists holds its reset value. -/
theorem State.reg_of_regs_nil {s : State} (h : s.regs = []) (off : Nat) : s.reg off = regReset off := by
  rw [State.reg, h, tget]

/-- A context's page lies in its own 64 KiB of the context block (R71), so its place alone decides what it resets to. -/
theorem regReset_offCtx {c o : Nat} (hc : c < 64) (ho : o < 0x10000) : regReset (offCtx c o) = BitVec.ofNat 64 (ctxReset o) := by
  have hrange : 0x800000 ≤ offCtx c o ∧ offCtx c o < 0xC00000 := by unfold offCtx; omega
  have hplace : (offCtx c o - 0x800000) % 0x10000 = o := by unfold offCtx; omega
  rw [regReset, if_pos hrange, hplace]

/-- The sixteen ARB registers reset to a BURST of 64 alone. -/
theorem regReset_offArb : ∀ n < 16, regReset (offArb n) = 64 <<< 12 := by decide

theorem State.cx_of_regs_nil {s : State} (h : s.regs = []) {c o : Nat} (hc : c < 64) (ho : o < 0x10000) :
    s.cx c o = BitVec.ofNat 64 (ctxReset o) := by
  rw [State.cx, State.reg_of_regs_nil h, regReset_offCtx hc ho]

/-- A field of a context register that no table lists. -/
theorem State.cxF_of_regs_nil {s : State} (h : s.regs = []) {c o : Nat} (hc : c < 64) (ho : o < 0x10000) (lo w : Nat) :
    s.cxF c o lo w = fld (BitVec.ofNat 64 (ctxReset o)) lo w := by
  rw [State.cxF, State.cx_of_regs_nil h hc ho]

theorem State.regF_of_regs_nil {s : State} (h : s.regs = []) (off lo w : Nat) : s.regF off lo w = fld (regReset off) lo w := by
  rw [State.regF, State.reg_of_regs_nil h]

/-- No context exists where no context register is listed (R73). -/
theorem State.ctxExists_of_regs_nil {s : State} (h : s.regs = []) {c : Nat} (hc : c < 64) : s.ctxExists c = false := by
  rw [State.ctxExists, State.cx_of_regs_nil h hc (by decide)]; decide

/-! ### Tiles and the event of a reset -/

/-- A tile that no table lists is idle. -/
theorem State.tile_of_tiles_nil {s : State} (h : s.tiles = []) (t : Nat) : s.tile t = Tile.idle := by
  rw [State.tile, h, tget]

/-- PACKAGE_RESET as one instruction of the machine (R21). -/
theorem exec_packageReset (s : State) : exec .packageReset s =
    .next { State.reset with freeCount := s.freeCount, nextId := s.nextId, out := s.out, pkg := { Package.idle with flash := s.pkg.flash } } := by
  rfl

/-- Settles O25: the reset state and the state after PACKAGE_RESET both list no register and no tile, so each holds its reset value. -/
theorem resetState : Obligations.ResetState := by
  unfold Obligations.ResetState
  intro blank
  have blank_of : ∀ s : State, s.ccc = 0 → s.pkg.released = false → s.pkg.pkgLimit = 1900 → s.regs = [] → s.tiles = [] → blank s := by
    intro s hccc hreleased hlimit hregs htiles
    have hreg := State.reg_of_regs_nil hregs
    have hregF := State.regF_of_regs_nil hregs
    have hcxF := fun c o (hc : c < 64) (ho : o < 0x10000) => State.cxF_of_regs_nil hregs hc ho
    refine ⟨hccc, hreleased, by rw [hlimit]; rfl, ?_, ?_, ?_, ?_, ?_, ?_, ?_, fun n hn => ?arb, fun c hc => ?ctx, fun t => ?tile⟩
    case arb => rw [hregF, regReset_offArb n hn]; rfl
    case ctx =>
      refine ⟨?_, ?_, ?_, ?_, State.ctxExists_of_regs_nil hregs hc⟩ <;> rw [hcxF _ _ hc (by decide)] <;> rfl
    case tile =>
      rw [State.tile_of_tiles_nil htiles t]
      exact ⟨rfl, rfl, rfl, rfl, fun q => ⟨rfl, rfl⟩⟩
    -- the registers outside the context block, each at a place of its own
    all_goals simp only [hreg, hregF]; rfl
  refine ⟨blank_of _ rfl rfl rfl rfl rfl, fun s => ?_⟩
  exact ⟨_, exec_packageReset s, blank_of _ rfl rfl rfl rfl rfl, rfl, rfl, rfl⟩

end Sys2Proof.Machine
end

section
/-! The gauges: what R16 and R18 speak of, the CCC and the power limit with its factor. An answer, or a check, keeps the gauges when no
state in it changes them. Below, each operation of the model has one lemma that says so: a rule for `simp` (its name ends in `_gauges`), or
a rule for a chain of checks or for an answer (its name ends in `_keeps`). -/
namespace Sys2Proof.Machine
open Sys2Proof

abbrev Gauges := Word × BitVec 16 × Nat × Bool

def State.gauges (s : State) : Gauges := (s.ccc, s.pkg.pkgLimit, s.pkg.factor, s.pkg.limiting)

theorem State.gauges_of {s t : State} (hc : t.ccc = s.ccc) (hp : t.pkg = s.pkg) : t.gauges = s.gauges := by
  rw [State.gauges, hc, hp, State.gauges]

@[simp] theorem State.gauges_mk (s : State) (agenda cur curInsn freeCount nextId hbm sram regs tiles threads coreTlb entries armSeq aseq arrivals ux
    deposits disarmed winDel engSig ctrCmds evUsed ferryRels heldIn actions wakes tensors bindings stores sent sends pseqOut pseqIn discarding lhw
    harbour tokens tokenUse tokenTold holdTold queries links inq fences reds updates migrations copies ceLast hbmLast faultSigs colls pubs
    remoteFlags sched logs musters slotNew hostTlps snapAt unitSnap saveFrames destroying out) :
    (State.mk agenda cur curInsn freeCount nextId s.ccc hbm sram regs tiles threads coreTlb entries armSeq aseq arrivals ux deposits disarmed winDel
      engSig ctrCmds evUsed ferryRels heldIn actions wakes tensors bindings stores sent sends pseqOut pseqIn discarding lhw harbour tokens tokenUse
      tokenTold holdTold queries links inq fences reds updates migrations copies ceLast hbmLast faultSigs colls pubs remoteFlags sched logs musters
      slotNew hostTlps snapAt unitSnap saveFrames destroying s.pkg out).gauges = s.gauges := State.gauges_of rfl rfl

theorem State.gauges_withPkg (s : State) (p : Package) (hl : p.pkgLimit = s.pkg.pkgLimit) (hf : p.factor = s.pkg.factor)
    (hm : p.limiting = s.pkg.limiting) : State.gauges { s with pkg := p } = s.gauges := by
  simp [State.gauges, hl, hf, hm]

@[simp] theorem State.gauges_ite (c : Prop) [Decidable c] (s t : State) : (if c then s else t).gauges = if c then s.gauges else t.gauges :=
  apply_ite State.gauges c s t

@[simp] theorem gauges_foldl {α : Type} {g : State → α → State} (hg : ∀ s a, (g s a).gauges = s.gauges) (l : List α) (s : State) :
    (l.foldl g s).gauges = s.gauges := by
  induction l generalizing s with
  | nil => rfl
  | cons a l ih => exact (ih _).trans (hg s a)

@[simp] theorem gauges_foldl_snd {α β : Type} {g : β × State → α → β × State} (hg : ∀ p a, (g p a).2.gauges = p.2.gauges) (l : List α)
    (p : β × State) : (l.foldl g p).2.gauges = p.2.gauges := by
  induction l generalizing p with
  | nil => rfl
  | cons a l ih => exact (ih _).trans (hg p a)

@[simp] theorem gauges_foldl_fst {α β : Type} {g : State × β → α → State × β} (hg : ∀ p a, (g p a).1.gauges = p.1.gauges) (l : List α)
    (p : State × β) : (l.foldl g p).1.gauges = p.1.gauges := by
  induction l generalizing p with
  | nil => rfl
  | cons a l ih => exact (ih _).trans (hg p a)

@[simp] theorem gauges_foldr {α : Type} {g : α → State → State} (hg : ∀ s a, (g a s).gauges = s.gauges) (l : List α) (s : State) :
    (l.foldr g s).gauges = s.gauges := by
  induction l with
  | nil => rfl
  | cons a l ih => exact (hg _ a).trans ih

theorem gauges_foldr_option {α : Type} {κ : Gauges} {g : α → Option State → Option State}
    (hg : ∀ o a, (∀ t, o = some t → t.gauges = κ) → ∀ t, g a o = some t → t.gauges = κ) (l : List α) {o : Option State}
    (ho : ∀ t, o = some t → t.gauges = κ) : ∀ t, l.foldr g o = some t → t.gauges = κ := by
  induction l with
  | nil => exact ho
  | cons a l ih => exact hg _ a ih

theorem gauges_some {κ : Gauges} {t r : State} (h : t.gauges = κ) (e : some t = some r) : r.gauges = κ := Option.some.inj e ▸ h

theorem gauges_if {κ : Gauges} {c : Prop} [Decidable c] {s t : State} (hs : s.gauges = κ) (ht : t.gauges = κ) :
    (if c then s else t).gauges = κ := by
  split
  · exact hs
  · exact ht

theorem gauges_getD {κ : Gauges} {o : Option State} {s : State} (ho : ∀ t, o = some t → t.gauges = κ) (hs : s.gauges = κ) :
    (o.getD s).gauges = κ := by
  cases o with
  | none => exact hs
  | some t => exact ho t rfl

theorem gauges_of_fst {β : Type} {κ : Gauges} {x : State × β} {t : State} {b : β} (h : x.1.gauges = κ) (e : x = (t, b)) : t.gauges = κ := by
  subst e; exact h

/-- What is known of checks: a value they answer has the property P, and a state that a stall leaves has the gauges κ. -/
inductive Res.Keeps {α : Type} (κ : Gauges) (P : α → Prop) : Res α → Prop
  | ok {v : α} (h : P v) : Res.Keeps κ P (.ok v)
  | stall {w : Stall} {t : State} (h : t.gauges = κ) : Res.Keeps κ P (.stall w t)
  | raise {c : Cause} {i : Word} : Res.Keeps κ P (.raise c i)
  | denied {va : Word} {w : Who} {e : TlbEntry} : Res.Keeps κ P (.denied va w e)
  | fault {f : Fault} : Res.Keeps κ P (.fault f)

/-- An answer that goes on does so with the gauges κ. -/
inductive Ans.Keeps (κ : Gauges) : Ans → Prop
  | next {t : State} (h : t.gauges = κ) : Ans.Keeps κ (.next t)
  | fault {f : Fault} : Ans.Keeps κ (.fault f)
  | refused {r : Refusal} : Ans.Keeps κ (.refused r)

section
variable {α β : Type} {κ : Gauges} {P : α → Prop} {Q : β → Prop}

theorem Res.Keeps.of_ok {r : Res α} {v : α} (h : r.Keeps κ P) (e : r = .ok v) : P v := by
  subst e; cases h; assumption

theorem Res.Keeps.of_stall {r : Res α} {w : Stall} {t : State} (h : r.Keeps κ P) (e : r = .stall w t) : t.gauges = κ := by
  subst e; cases h; assumption

theorem Ans.Keeps.of_next {a : Ans} {t : State} (h : Ans.Keeps κ a) (e : a = .next t) : t.gauges = κ := by
  subst e; cases h; assumption

@[simp] theorem Res.keeps_ok {v : α} : (Res.ok v).Keeps κ P ↔ P v := ⟨fun h => h.of_ok rfl, .ok⟩
@[simp] theorem Res.keeps_stall {w : Stall} {t : State} : (Res.stall w t : Res α).Keeps κ P ↔ t.gauges = κ := ⟨fun h => h.of_stall rfl, .stall⟩
@[simp] theorem Res.keeps_raise {c : Cause} {i : Word} : (Res.raise c i : Res α).Keeps κ P := .raise
@[simp] theorem Res.keeps_ite {c : Prop} [Decidable c] {r q : Res α} :
    (if c then r else q).Keeps κ P ↔ if c then r.Keeps κ P else q.Keeps κ P := by split <;> rfl
@[simp] theorem Ans.keeps_next {t : State} : Ans.Keeps κ (.next t) ↔ t.gauges = κ := ⟨fun h => h.of_next rfl, .next⟩
@[simp] theorem Ans.keeps_ite {c : Prop} [Decidable c] {a b : Ans} :
    Ans.Keeps κ (if c then a else b) ↔ if c then Ans.Keeps κ a else Ans.Keeps κ b := by split <;> rfl

theorem Ans.keeps_if {c : Prop} [Decidable c] {a b : Ans} (ha : Ans.Keeps κ a) (hb : Ans.Keeps κ b) : Ans.Keeps κ (if c then a else b) := by
  split
  · exact ha
  · exact hb

theorem Res.Keeps.bind {r : Res α} {f : α → Res β} (h : r.Keeps κ P) (hf : ∀ v, P v → (f v).Keeps κ Q) : (r.bind f).Keeps κ Q := by
  cases h with
  | ok h => exact hf _ h
  | stall h => exact .stall h
  | raise => exact .raise
  | denied => exact .denied
  | fault => exact .fault

theorem Res.keeps_foldl {γ : Type} {g : Res α → γ → Res α} (hg : ∀ r a, r.Keeps κ P → (g r a).Keeps κ P) (l : List γ) {r : Res α}
    (h : r.Keeps κ P) : (l.foldl g r).Keeps κ P := by
  induction l generalizing r with
  | nil => exact h
  | cons a l ih => exact ih (hg r a h)

@[simp] theorem Res.check_keeps {b : Bool} {c : Cause} {i : Word} : (Res.check b c i).Keeps κ fun _ => True := by
  unfold Res.check
  split
  · exact .ok trivial
  · exact .raise

end

end Sys2Proof.Machine
end

section
/-! The gauges through the operations of Machine/Regs.lean. -/
namespace Sys2Proof.Machine
open Sys2Proof

@[simp] theorem State.setReg_gauges (s : State) (off v) : (s.setReg off v).gauges = s.gauges := State.gauges_of rfl rfl

@[simp] theorem State.setRegF_gauges (s : State) (off lo w x) : (s.setRegF off lo w x).gauges = s.gauges := State.gauges_of rfl rfl

@[simp] theorem State.setReg128_gauges (s : State) (off v) : (s.setReg128 off v).gauges = s.gauges := State.gauges_of rfl rfl

@[simp] theorem State.setReg256_gauges (s : State) (off v) : (s.setReg256 off v).gauges = s.gauges := by
  simp [State.setReg256]

@[simp] theorem State.setCx_gauges (s : State) (c o v) : (s.setCx c o v).gauges = s.gauges := State.gauges_of rfl rfl

@[simp] theorem State.bump_gauges (s : State) (off) : (s.bump off).gauges = s.gauges := State.gauges_of rfl rfl

end Sys2Proof.Machine
end

section
/-! The gauges through the operations of Machine/Base.lean. -/
namespace Sys2Proof.Machine
open Sys2Proof

@[simp] theorem State.setTile_gauges (s : State) (t x) : (s.setTile t x).gauges = s.gauges := State.gauges_of rfl rfl

@[simp] theorem State.modTile_gauges (s : State) (t f) : (s.modTile t f).gauges = s.gauges := State.gauges_of rfl rfl

@[simp] theorem State.setThr_gauges (s : State) (n x) : (s.setThr n x).gauges = s.gauges := State.gauges_of rfl rfl

@[simp] theorem State.modThr_gauges (s : State) (n f) : (s.modThr n f).gauges = s.gauges := State.gauges_of rfl rfl

@[simp] theorem State.modScal_gauges (s : State) (w f) : (s.modScal w f).gauges = s.gauges := by
  unfold State.modScal
  split <;> simp

@[simp] theorem State.modStrm_gauges (s : State) (w f) : (s.modStrm w f).gauges = s.gauges := by
  unfold State.modStrm
  split <;> simp

@[simp] theorem State.setColl_gauges (s : State) (n e) : (s.setColl n e).gauges = s.gauges := State.gauges_of rfl rfl

@[simp] theorem State.modLog_gauges (s : State) (c f) : (s.modLog c f).gauges = s.gauges := State.gauges_of rfl rfl

@[simp] theorem State.modMuster_gauges (s : State) (c f) : (s.modMuster c f).gauges = s.gauges := State.gauges_of rfl rfl

@[simp] theorem State.forgetSent_gauges (s : State) (w run) : (s.forgetSent w run).gauges = s.gauges := State.gauges_of rfl rfl

@[simp] theorem State.drawWord_gauges (s : State) : (s.drawWord).2.gauges = s.gauges := State.gauges_of rfl rfl

@[simp] theorem State.emit_gauges (s : State) (o) : (s.emit o).gauges = s.gauges := State.gauges_of rfl rfl

@[simp] theorem State.fixed_gauges (s : State) (d lat v opa opb reread) : (s.fixed d lat v opa opb reread).gauges = s.gauges := by
  simp [State.fixed]

@[simp] theorem State.startOp_gauges (s : State) (d what notBefore command opa opb) : (s.startOp d what notBefore command opa opb).gauges = s.gauges := by
  simp [State.startOp]

@[simp] theorem State.modOp_gauges (s : State) (w id f) : (s.modOp w id f).gauges = s.gauges := by
  simp [State.modOp]

@[simp] theorem State.retire_gauges (s : State) (bytes) : (s.retire bytes).gauges = s.gauges := by
  simp only [State.retire]
  split <;> simp

@[simp] theorem State.jump_gauges (s : State) (target bytes) : (s.jump target bytes).gauges = s.gauges := by
  simp [State.jump]

@[simp] theorem State.stalled_gauges (s : State) (why) : (s.stalled why).gauges = s.gauges := by
  simp [State.stalled]

@[simp] theorem State.wake_gauges (s : State) (g k) : (s.wake g k).gauges = s.gauges := State.gauges_of rfl rfl

@[simp] theorem State.flog_gauges (s : State) (srcix actn c ctx rkind) : (s.flog srcix actn c ctx rkind).2.gauges = s.gauges := by
  simp [State.flog]

@[simp] theorem State.report_gauges (s : State) (c ctx srck srcix detail) : (s.report c ctx srck srcix detail).gauges = s.gauges := by
  simp [State.report]

@[simp] theorem State.accept_gauges (s : State) : (s.accept).gauges = s.gauges := State.gauges_of rfl rfl

theorem inHbm_keeps {κ : Gauges} {pa : Nat} : (inHbm pa).Keeps κ fun _ => True := by
  unfold inHbm
  split
  · exact .ok trivial
  · exact .fault

@[simp] theorem State.fillTlb_gauges (s : State) (w e) : (s.fillTlb w e).gauges = s.gauges := by
  unfold State.fillTlb
  split <;> simp

@[simp] theorem State.emptyTlbs_gauges (s : State) (c) : (s.emptyTlbs c).gauges = s.gauges := State.gauges_of rfl rfl

theorem State.translate_keeps {κ : Gauges} {s : State} {w ctx va store} (h : s.gauges = κ) : (s.translate w ctx va store).Keeps κ (·.2.gauges = κ) := by
  unfold State.translate
  dsimp only
  split
  · split
    · exact .raise
    · exact .bind inHbm_keeps fun _ _ => .ok h
  · split
    · exact .raise
    · split
      · exact .raise
      · split
        · exact .stall h
        · split
          · exact .denied
          · exact .bind inHbm_keeps fun _ _ => .ok (by simp [h])

@[simp] theorem State.physWrite_gauges (s : State) (ctx va bs) : (s.physWrite ctx va bs).gauges = s.gauges := by
  induction bs generalizing s va with
  | nil => rfl
  | cons b bs ih =>
    rw [State.physWrite, ih]
    split <;> simp

@[simp] theorem State.freeBuffers_gauges (s : State) (l) : (s.freeBuffers l).gauges = s.gauges := by
  simp [State.freeBuffers]

@[simp] theorem State.dropOldest_gauges (s : State) (c) : (s.dropOldest c).gauges = s.gauges := by
  simp [State.dropOldest]

theorem State.dropUntil_gauges {s t : State} {c len n} (h : s.dropUntil c len n = some t) : t.gauges = s.gauges := by
  induction n generalizing s with
  | zero => cases h
  | succ n ih =>
    rw [State.dropUntil] at h
    split at h
    · cases h; rfl
    · split at h
      · cases h
      · exact (ih h).trans (s.dropOldest_gauges c)

@[simp] theorem State.undoFull_gauges (s : State) (c src) : (s.undoFull c src).gauges = s.gauges := by
  simp [State.undoFull]

theorem State.reserveRing_keeps {κ : Gauges} {s : State} {src c len va} (h : s.gauges = κ) : (s.reserveRing src c len va).Keeps κ (·.gauges = κ) := by
  unfold State.reserveRing
  dsimp only
  refine .bind (P := (·.gauges = κ)) ?_ fun s1 hs1 => ?_
  · split
    · exact .ok h
    · split
      · split
        · exact .ok (by simp [State.dropUntil_gauges ‹_›, h])
        · simp [h]
      · simp [h]
  · exact .ok hs1

theorem State.reserveLen_keeps {κ : Gauges} {s : State} {src tile c len va} (h : s.gauges = κ) : (s.reserveLen src tile c len va).Keeps κ (·.gauges = κ) := by
  unfold State.reserveLen
  exact .bind (State.reserveRing_keeps h) fun s2 hs2 => by simp [hs2, h]

theorem State.reserve_keeps {κ : Gauges} {s : State} {src tile c nw va} (h : s.gauges = κ) : (s.reserve src tile c nw va).Keeps κ (·.gauges = κ) := by
  unfold State.reserve
  exact State.reserveLen_keeps h

@[simp] theorem State.ringWrite_gauges (s : State) (c bs) : (s.ringWrite c bs).gauges = s.gauges := by
  simp [State.ringWrite]

@[simp] theorem State.moveBlock_gauges (s : State) (tile) : (s.moveBlock tile).gauges = s.gauges := by
  simp [State.moveBlock]

@[simp] theorem State.takeBuffer_gauges (s : State) (tile len) : (s.takeBuffer tile len).gauges = s.gauges := by
  simp [State.takeBuffer]

@[simp] theorem State.sign_gauges (s : State) (t k addr new) : (s.sign t k addr new).gauges = s.gauges := State.gauges_of rfl rfl

@[simp] theorem State.record_gauges (s : State) (c r new) : (s.record c r new).gauges = s.gauges := by
  simp only [State.record]
  split <;> simp

@[simp] theorem State.spadPut_gauges (s : State) (src wtile c win t off bs atom) : (s.spadPut src wtile c win t off bs atom).gauges = s.gauges := by
  simp [State.spadPut]

@[simp] theorem State.hbmPut_gauges (s : State) (src wtile c win va pa bs atom) : (s.hbmPut src wtile c win va pa bs atom).gauges = s.gauges := by
  simp [State.hbmPut]

@[simp] theorem State.horizon_gauges (s : State) (src wtile c kind dest pseq bytes) : (s.horizon src wtile c kind dest pseq bytes).gauges = s.gauges := by
  simp [State.horizon]

@[simp] theorem State.openWindow_gauges (s : State) (t c reason count) : (s.openWindow t c reason count).gauges = s.gauges := by
  simp [State.openWindow]

end Sys2Proof.Machine
end

section
/-! The gauges through the operations of Machine/Slot.lean. -/
namespace Sys2Proof.Machine
open Sys2Proof

@[simp] theorem State.spanWrite_gauges (s : State) (ctx m fuel va off len) : (s.spanWrite ctx m fuel va off len).gauges = s.gauges := by
  induction fuel generalizing s va off len with
  | zero => rfl
  | succ fuel ih =>
    rw [State.spanWrite]
    split
    · rfl
    · rw [ih]
      split <;> simp

end Sys2Proof.Machine
end

section
/-! The gauges through the operations of Machine/Operands.lean. -/
namespace Sys2Proof.Machine
open Sys2Proof

theorem State.src_keeps {κ : Gauges} {s : State} {r trap} (h : s.gauges = κ) : (s.src r trap).Keeps κ fun _ => True := by
  unfold State.src
  simp [h]

theorem State.dst_keeps {κ : Gauges} {s : State} {d} (_h : s.gauges = κ) : (s.dst d).Keeps κ fun _ => True := by
  unfold State.dst
  simp

theorem State.onTile_keeps {κ : Gauges} {s : State} (_h : s.gauges = κ) : (s.onTile).Keeps κ fun _ => True := by
  unfold State.onTile
  split
  · exact .ok trivial
  · exact .raise

theorem State.onThread_keeps {κ : Gauges} {s : State} {c} (_h : s.gauges = κ) : (s.onThread c).Keeps κ fun _ => True := by
  unfold State.onThread
  split
  · exact .ok trivial
  · exact .raise

theorem State.outsideBlock_keeps {κ : Gauges} {s : State} (_h : s.gauges = κ) : (s.outsideBlock).Keeps κ fun _ => True := by
  unfold State.outsideBlock
  exact Res.check_keeps

theorem State.outsideHandler_keeps {κ : Gauges} {s : State} (_h : s.gauges = κ) : (s.outsideHandler).Keeps κ fun _ => True := by
  unfold State.outsideHandler
  exact Res.check_keeps

theorem State.acqHeld_keeps {κ : Gauges} {s : State} (h : s.gauges = κ) : (s.acqHeld).Keeps κ fun _ => True := by
  unfold State.acqHeld
  simp [h]

theorem State.triRes_keeps {κ : Gauges} {s : State} {d a b wa wb lat bytes op} (h : s.gauges = κ) : (s.triRes d a b wa wb lat bytes op).Keeps κ (·.gauges = κ) := by
  unfold State.triRes
  exact .bind (State.src_keeps h) fun _ _ => .bind (State.src_keeps h) fun _ _ => .bind (State.dst_keeps h) fun _ _ => .ok (by simp [h])

theorem State.immRes_keeps {κ : Gauges} {s : State} {d a bytes imm op} (h : s.gauges = κ) : (s.immRes d a bytes imm op).Keeps κ (·.gauges = κ) := by
  unfold State.immRes
  exact .bind (State.src_keeps h) fun _ _ => .bind (State.dst_keeps h) fun _ _ => .ok (by simp [h])

theorem State.logicRes_keeps {κ : Gauges} {s : State} {d a bytes sext zext op} (h : s.gauges = κ) : (s.logicRes d a bytes sext zext op).Keeps κ (·.gauges = κ) := by
  unfold State.logicRes
  exact .bind (State.src_keeps h) fun _ _ => .bind (State.dst_keeps h) fun _ _ => .ok (by simp [h])

theorem State.valueRes_keeps {κ : Gauges} {s : State} {d lat bytes v} (h : s.gauges = κ) : (s.valueRes d lat bytes v).Keeps κ (·.gauges = κ) := by
  unfold State.valueRes
  exact .bind (State.dst_keeps h) fun _ _ => .ok (by simp [h])

theorem State.locate_keeps {κ : Gauges} {s : State} {w ea n store atomic al} (h : s.gauges = κ) : (s.locate w ea n store atomic al).Keeps κ (·.2.gauges = κ) := by
  unfold State.locate
  dsimp only
  split
  · exact .raise
  · split
    · exact .bind Res.check_keeps fun _ _ => .bind (State.translate_keeps h) fun r hr => .ok hr
    · split
      · exact .bind Res.check_keeps fun _ _ => .bind Res.check_keeps fun _ _ => .ok h
      · exact .bind Res.check_keeps fun _ _ => .bind Res.check_keeps fun _ _ => .bind Res.check_keeps fun _ _ => .ok h
      · exact .bind Res.check_keeps fun _ _ => .bind Res.check_keeps fun _ _ => .bind Res.check_keeps fun _ _ => .ok h
      · exact .bind Res.check_keeps fun _ _ => .bind Res.check_keeps fun _ _ => .bind Res.check_keeps fun _ _ => .ok h
      · refine .bind Res.check_keeps fun _ _ => .bind Res.check_keeps fun _ _ => ?_
        split
        · exact .raise
        · exact .bind (State.translate_keeps h) fun r hr => .ok hr
      · refine .bind Res.check_keeps fun _ _ => ?_
        split
        · exact .raise
        · exact .bind (State.translate_keeps h) fun r hr => .ok hr
      · simp [h]
      · exact .raise
      · exact .raise

theorem State.grant_keeps {κ : Gauges} {s : State} {t off n req} (h : s.gauges = κ) : (s.grant t off n req).Keeps κ (·.gauges = κ) := by
  unfold State.grant
  dsimp only
  split
  · simp [h]
  · exact .stall h

theorem State.boardClear_keeps {κ : Gauges} {s : State} {t off n store} (h : s.gauges = κ) : (s.boardClear t off n store).Keeps κ fun _ => True := by
  unfold State.boardClear
  simp [h]

end Sys2Proof.Machine
end

section
/-! The gauges through the operations of Machine/Ops.lean. -/
namespace Sys2Proof.Machine
open Sys2Proof

@[simp] theorem State.writeFrame_gauges (s : State) (w fatal) : (s.writeFrame w fatal).gauges = s.gauges := by
  unfold State.writeFrame
  split
  · rfl
  · split <;> simp

@[simp] theorem State.trapDispatch_gauges (s : State) (ctx t k c) : (s.trapDispatch ctx t k c).gauges = s.gauges := State.gauges_of rfl rfl

@[simp] theorem State.frameIfQuiet_gauges (s : State) (t k) : (s.frameIfQuiet t k).gauges = s.gauges := by
  simp only [State.frameIfQuiet]
  split <;> simp

@[simp] theorem State.raiseStream_gauges (s : State) (t k c info) : (s.raiseStream t k c info).gauges = s.gauges := by
  simp [State.raiseStream]

@[simp] theorem State.endRun_gauges (s : State) (n) : (s.endRun n).gauges = s.gauges := State.gauges_of rfl rfl

@[simp] theorem State.raiseThread_gauges (s : State) (n c) : (s.raiseThread n c).gauges = s.gauges := by
  simp [State.raiseThread]

@[simp] theorem State.raise_gauges (s : State) (c info) : (s.raise c info).gauges = s.gauges := by
  unfold State.raise
  split <;> simp

/-- An answer keeps the gauges when its checks do: to raise a cause, or to stall, writes none of them. -/
theorem Ans.Keeps.finish {κ : Gauges} {r : Res State} {s : State} (h : s.gauges = κ) (hr : r.Keeps κ (·.gauges = κ)) : Ans.Keeps κ (r.finish s) := by
  cases hr with
  | ok ht => exact .next ht
  | stall ht => exact .next ((State.stalled_gauges ..).trans ht)
  | raise => exact .next ((State.raise_gauges ..).trans h)
  | denied => exact .next (((State.raise_gauges ..).trans (State.fillTlb_gauges ..)).trans h)
  | fault => exact .fault

@[simp] theorem State.replayEntry_gauges (s : State) (w t e) : (s.replayEntry w t e).gauges = s.gauges := by
  unfold State.replayEntry
  split
  · rfl
  · split
    · simp
    · split
      · dsimp only
        split
        · rfl
        · simp
        · rfl
      · dsimp only
        split
        · rfl
        · simp
        · rfl
      · dsimp only
        split <;> rfl

@[simp] theorem State.loadChanged_gauges (s : State) (ctx t) : (s.loadChanged ctx t).gauges = s.gauges := by
  simp [State.loadChanged]

@[simp] theorem State.resumeFrame_gauges (s : State) (w) : (s.resumeFrame w).gauges = s.gauges := by
  simp only [State.resumeFrame]
  split <;> split <;> split <;> simp

theorem State.returnTo_keeps {κ : Gauges} {s : State} {t k} (h : s.gauges = κ) : (s.returnTo t k).Keeps κ (·.gauges = κ) := by
  unfold State.returnTo
  dsimp only
  simp [h]

end Sys2Proof.Machine
end

section
/-! The gauges through the operations of Machine/Flags.lean. -/
namespace Sys2Proof.Machine
open Sys2Proof

@[simp] theorem State.wakeWfe_gauges (s : State) (w) : (s.wakeWfe w).gauges = s.gauges := by
  simp [State.wakeWfe]

@[simp] theorem State.wakeTiles_gauges (s : State) : (s.wakeTiles).gauges = s.gauges := State.gauges_of rfl rfl

@[simp] theorem State.wakeThreads_gauges (s : State) (n) : (s.wakeThreads n).gauges = s.gauges := State.gauges_of rfl rfl

theorem State.flagReserve_keeps {κ : Gauges} {s : State} {src t f} (h : s.gauges = κ) : (s.flagReserve src t f).Keeps κ (·.gauges = κ) := by
  unfold State.flagReserve
  exact State.reserve_keeps h

@[simp] theorem State.flagPut_gauges (s : State) (src t f v) : (s.flagPut src t f v).gauges = s.gauges := by
  simp [State.flagPut]

@[simp] theorem State.flagAdd_gauges (s : State) (src t f) : (s.flagAdd src t f).gauges = s.gauges := by
  simp [State.flagAdd]

theorem State.flagTake_gauges {s : State} {src t f n} {r : State} (h : s.flagTake src t f n = some r) : r.gauges = s.gauges := by
  revert h
  unfold State.flagTake
  dsimp only
  split
  · rintro ⟨⟩; simp
  · nofun

end Sys2Proof.Machine
end

section
/-! The gauges through the operations of Machine/Memory.lean. -/
namespace Sys2Proof.Machine
open Sys2Proof

theorem State.reserveStore_keeps {κ : Gauges} {s : State} {w va n tx} (h : s.gauges = κ) : (s.reserveStore w va n tx).Keeps κ (·.gauges = κ) := by
  unfold State.reserveStore
  dsimp only
  exact State.reserveLen_keeps h

@[simp] theorem State.storeOut_gauges (s : State) (w va pa bs op refl) : (s.storeOut w va pa bs op refl).gauges = s.gauges := State.gauges_of rfl rfl

theorem State.loadRes_keeps {κ : Gauges} {s : State} {d ea n signed bytes} (h : s.gauges = κ) : (s.loadRes d ea n signed bytes).Keeps κ (·.gauges = κ) := by
  unfold State.loadRes
  refine .bind (State.acqHeld_keeps h) fun _ _ => .bind (State.dst_keeps h) fun _ _ => .bind (State.locate_keeps h) fun r hr => ?_
  split
  · refine .bind (State.boardClear_keeps hr) fun _ _ => .bind (State.grant_keeps hr) fun s2 hs2 => ?_
    dsimp only
    exact .ok (by simp [hs2])
  · exact .ok (by simp [hr])
  · exact .ok (by simp [hr])

theorem State.storeRes_keeps {κ : Gauges} {s : State} {ea n v bytes} (h : s.gauges = κ) : (s.storeRes ea n v bytes).Keeps κ (·.gauges = κ) := by
  unfold State.storeRes
  dsimp only
  refine .bind (State.acqHeld_keeps h) fun _ _ => .bind (State.locate_keeps h) fun r hr => ?_
  split
  · refine .bind (State.boardClear_keeps hr) fun _ _ => .bind (State.grant_keeps hr) fun s1 hs1 => ?_
    exact .bind (State.reserve_keeps hs1) fun s2 hs2 => .ok (by simp [hs2])
  · split
    · exact .stall h
    · exact .bind (State.reserveStore_keeps hr) fun s1 hs1 => .ok (by simp [hs1])
  · exact .ok (by simp [hr])

theorem State.spillAddr_keeps {κ : Gauges} {s : State} {i} (h : s.gauges = κ) : (s.spillAddr i).Keeps κ fun _ => True := by
  unfold State.spillAddr
  refine .bind (State.onTile_keeps h) fun _ _ => ?_
  dsimp only
  simp

theorem State.loadInstr_keeps {κ : Gauges} {s : State} {f n signed} (h : s.gauges = κ) : (s.loadInstr f n signed).Keeps κ (·.gauges = κ) := by
  unfold State.loadInstr
  exact .bind (State.src_keeps h) fun _ _ => State.loadRes_keeps h

theorem State.storeInstr_keeps {κ : Gauges} {s : State} {f n} (h : s.gauges = κ) : (s.storeInstr f n).Keeps κ (·.gauges = κ) := by
  unfold State.storeInstr
  exact .bind (State.src_keeps h) fun _ _ => .bind (State.src_keeps h) fun _ _ => State.storeRes_keeps h

end Sys2Proof.Machine
end

section
/-! The gauges through the operations of Machine/Objects.lean. -/
namespace Sys2Proof.Machine
open Sys2Proof

theorem State.reach_keeps {κ : Gauges} {s : State} {w va store} (h : s.gauges = κ) : (s.reach w va store).Keeps κ (·.2.2.gauges = κ) := by
  unfold State.reach
  refine .bind Res.check_keeps fun _ _ => .bind (State.translate_keeps h) fun r hr => ?_
  dsimp only
  exact .bind Res.check_keeps fun _ _ => .ok hr

@[simp] theorem State.takeLock_gauges (s : State) (w src va pa v) : (s.takeLock w src va pa v).gauges = s.gauges := by
  unfold State.takeLock
  split <;> simp

@[simp] theorem State.releaseObject_gauges (s : State) (src tile ctx win va pa) : (s.releaseObject src tile ctx win va pa).gauges = s.gauges := by
  simp [State.releaseObject]

@[simp] theorem State.forgetLock_gauges (s : State) (w va) : (s.forgetLock w va).gauges = s.gauges := by
  unfold State.forgetLock
  split <;> simp

@[simp] theorem State.unreserve_gauges (s : State) (src tile c nw) : (s.unreserve src tile c nw).gauges = s.gauges := by
  simp [State.unreserve]

end Sys2Proof.Machine
end

section
/-! The gauges through the operations of Machine/Task.lean. -/
namespace Sys2Proof.Machine
open Sys2Proof

@[simp] theorem State.traceAt_gauges (s : State) (t kind k body count) : (s.traceAt t kind k body count).gauges = s.gauges := by
  simp [State.traceAt]

@[simp] theorem State.traceHere_gauges (s : State) (t kind k body gap count) : (s.traceHere t kind k body gap count).gauges = s.gauges := by
  simp [State.traceHere]

@[simp] theorem State.trace_gauges (s : State) (t en kind k body count) : (s.trace t en kind k body count).gauges = s.gauges := by
  unfold State.trace
  dsimp only
  split
  · rfl
  · split
    · rfl
    · split
      · split
        · simp
        · split <;> simp
      · split
        · simp
        · split <;> simp

@[simp] theorem State.notice_gauges (s : State) (t q status kind) : (s.notice t q status kind).gauges = s.gauges := State.gauges_of rfl rfl

@[simp] theorem State.sendNotice_gauges (s : State) (t q status kind) : (s.sendNotice t q status kind).gauges = s.gauges := by
  simp [State.sendNotice]

@[simp] theorem State.push_gauges (s : State) (t q k) : (s.push t q k).gauges = s.gauges := State.gauges_of rfl rfl

@[simp] theorem State.startTask_gauges (s : State) (t q k) : (s.startTask t q k).gauges = s.gauges := by
  simp [State.startTask]

@[simp] theorem State.leave_gauges (s : State) (t) : (s.leave t).gauges = s.gauges := by
  unfold State.leave
  split <;> simp

theorem State.taskRelease_gauges {s : State} {t k va} {r : State} (h : s.taskRelease t k va = some r) : r.gauges = s.gauges := by
  revert h
  unfold State.taskRelease
  split
  · rintro ⟨⟩; rfl
  · split
    · nofun
    · split
      · rintro ⟨⟩; simp
      · split
        · rintro ⟨⟩; simp
        · split
          · rintro ⟨⟩; simp [(State.reserve_keeps rfl).of_ok ‹_›]
          · nofun

end Sys2Proof.Machine
end

section
/-! The gauges through the operations of Machine/Path.lean. -/
namespace Sys2Proof.Machine
open Sys2Proof

@[simp] theorem State.modLink_gauges (s : State) (n f) : (s.modLink n f).gauges = s.gauges := State.gauges_of rfl rfl

@[simp] theorem State.route_gauges (s : State) (inPort p) : (s.route inPort p).1.gauges = s.gauges := by
  unfold State.route
  split
  · rfl
  · split
    · rfl
    · split
      · rfl
      · split
        · rfl
        · split <;> rfl

@[simp] theorem State.inject_gauges (s : State) (inPort p) : (s.inject inPort p).gauges = s.gauges := by
  unfold State.inject
  split <;> simp [gauges_of_fst (State.route_gauges ..) ‹_›]

@[simp] theorem State.sendOrdered_gauges (s : State) (dst pop vc w2 w3 data) : (s.sendOrdered dst pop vc w2 w3 data).2.gauges = s.gauges := by
  simp [State.sendOrdered]

@[simp] theorem State.sendPlain_gauges (s : State) (dst pop vc w2 w3 data) : (s.sendPlain dst pop vc w2 w3 data).gauges = s.gauges := by
  simp [State.sendPlain]

theorem State.checkToken_keeps {κ : Gauges} {s : State} {ctx t} (_h : s.gauges = κ) : (s.checkToken ctx t).Keeps κ fun _ => True := by
  unfold State.checkToken
  exact .bind Res.check_keeps fun _ _ => Res.check_keeps

@[simp] theorem State.sendPath_gauges (s : State) (c dst pop vc w2 w3 data) : (s.sendPath c dst pop vc w2 w3 data).2.gauges = s.gauges := by
  unfold State.sendPath
  split <;> simp

@[simp] theorem State.sendRst_gauges (s : State) (f slot dst rxw off tok bs rop) : (s.sendRst f slot dst rxw off tok bs rop).2.gauges = s.gauges := by
  simp [State.sendRst]

@[simp] theorem State.reflect_gauges (s : State) (f r bs) : (s.reflect f r bs).gauges = s.gauges := by
  simp [State.reflect]

@[simp] theorem State.reflectHorizons_gauges (s : State) (src tile c r len) : (s.reflectHorizons src tile c r len).gauges = s.gauges := by
  have hfold (g : Tab (BitVec 32) × State → Nat × Nat × Nat → Tab (BitVec 32) × State) (hg : ∀ a i, (g a i).2.gauges = a.2.gauges)
      (l : List (Nat × Nat × Nat)) (a : Tab (BitVec 32) × State) : (l.foldl g a).2.gauges = a.2.gauges := by
    induction l generalizing a with
    | nil => rfl
    | cons i l ih => exact (ih _).trans (hg a i)
  exact hfold _ (fun a i => by simp) _ _

end Sys2Proof.Machine
end

section
/-! The gauges through the operations of Machine/Tensor.lean. -/
namespace Sys2Proof.Machine
open Sys2Proof

theorem Place.forStream_keeps {κ : Gauges} {s : State} {p info} (h : s.gauges = κ) : (Place.forStream p s info).Keeps κ fun _ => True := by
  unfold Place.forStream
  split
  · exact .ok trivial
  · exact .raise
  · exact .raise
  · exact .stall h
  · exact .raise
  · exact .fault

@[simp] theorem State.segPut_gauges (s : State) (src wtile c win atom log g) : (s.segPut src wtile c win atom log g).gauges = s.gauges := by
  simp [State.segPut]

end Sys2Proof.Machine
end

section
/-! The gauges through the operations of Machine/Queue.lean. -/
namespace Sys2Proof.Machine
open Sys2Proof

theorem State.areg_keeps {κ : Gauges} {s : State} {t r} (h : s.gauges = κ) : (s.areg t r).Keeps κ fun _ => True := by
  unfold State.areg
  dsimp only
  simp [h]

theorem State.addrRes_keeps {κ : Gauges} {s : State} {d a b lat bytes op} (h : s.gauges = κ) : (s.addrRes d a b lat bytes op).Keeps κ (·.gauges = κ) := by
  unfold State.addrRes
  refine .bind (State.onTile_keeps h) fun _ _ => .bind (State.areg_keeps h) fun _ _ => .bind (State.areg_keeps h) fun _ _ => ?_
  exact .ok (by simp [h])

theorem State.addrImmRes_keeps {κ : Gauges} {s : State} {d a bytes imm op} (h : s.gauges = κ) : (s.addrImmRes d a bytes imm op).Keeps κ (·.gauges = κ) := by
  unfold State.addrImmRes
  exact .bind (State.onTile_keeps h) fun _ _ => .bind (State.areg_keeps h) fun _ _ => .ok (by simp [h])

theorem State.inRoom_keeps {κ : Gauges} {s : State} {t q} (h : s.gauges = κ) : (s.inRoom t q).Keeps κ fun _ => True := by
  unfold State.inRoom
  exact .bind Res.check_keeps fun _ _ => by simp [h]

theorem State.outHead_keeps {κ : Gauges} {s : State} {t q} (h : s.gauges = κ) : (s.outHead t q).Keeps κ fun _ => True := by
  unfold State.outHead
  refine .bind Res.check_keeps fun _ _ => ?_
  split
  · exact .ok trivial
  · exact .stall h

@[simp] theorem State.reserveLoad_gauges (s : State) (t q src copies tensor p0 p1) : (s.reserveLoad t q src copies tensor p0 p1).gauges = s.gauges := State.gauges_of rfl rfl

theorem State.locatePieces_keeps {κ : Gauges} {s : State} {w ea store al l} (h : s.gauges = κ) :
    (s.locatePieces w ea store al l).Keeps κ (·.2.gauges = κ) := by
  induction l generalizing s with
  | nil => exact .ok h
  | cons p ps ih => exact .bind (State.locate_keeps h) fun r hr => .bind (ih hr) fun q hq => .ok hq

theorem State.operand_keeps {κ : Gauges} {s : State} {w ea n store al} (h : s.gauges = κ) : (s.operand w ea n store al).Keeps κ (·.2.gauges = κ) := by
  unfold State.operand
  split
  · exact .raise
  · exact State.locatePieces_keeps h

@[simp] theorem State.segsOut_gauges (s : State) (w segs tensor op refl adds) : (s.segsOut w segs tensor op refl adds).gauges = s.gauges := State.gauges_of rfl rfl

theorem State.storeLines_keeps {κ : Gauges} {s : State} {t ea bs pop} (h : s.gauges = κ) : (s.storeLines t ea bs pop).Keeps κ (·.gauges = κ) := by
  unfold State.storeLines
  dsimp only
  refine .bind (State.operand_keeps h) fun r hr => ?_
  split
  · split
    · exact .stall h
    · refine .bind (State.boardClear_keeps hr) fun _ _ => .bind (State.grant_keeps hr) fun s1 hs1 => ?_
      exact .bind (State.reserve_keeps hs1) fun s2 hs2 => .ok (by simp [hs2])
  · split
    · exact .stall h
    · exact .bind (State.reserveLen_keeps hr) fun s1 hs1 => .ok (by simp [hs1])

theorem State.loadLines_keeps {κ : Gauges} {s : State} {t q ea n copies} (h : s.gauges = κ) : (s.loadLines t q ea n copies).Keeps κ (·.gauges = κ) := by
  unfold State.loadLines
  dsimp only
  refine .bind (State.inRoom_keeps h) fun _ _ => .bind (State.operand_keeps h) fun r hr => ?_
  split
  · split
    · exact .stall h
    · exact .bind (State.boardClear_keeps hr) fun _ _ => .bind (State.grant_keeps hr) fun s1 hs1 => .ok (by simp [hs1])
  · exact .ok (by simp [hr])

theorem State.coords_keeps {κ : Gauges} {s : State} {t b n} (h : s.gauges = κ) : (s.coords t b n).Keeps κ fun _ => True := by
  induction n generalizing b with
  | zero => exact .ok trivial
  | succ n ih => exact .bind (State.areg_keeps h) fun _ _ => .bind ih fun _ _ => .ok trivial

theorem State.tensorUse_keeps {κ : Gauges} {s : State} {ctx a} (h : s.gauges = κ) : (s.tensorUse ctx a).Keeps κ fun _ => True := by
  unfold State.tensorUse
  split
  · exact .raise
  · split
    · exact .raise
    · simp [h]

theorem checkRun_keeps {κ : Gauges} {d id c n} : (checkRun d id c n).Keeps κ fun _ => True := by
  unfold checkRun
  split
  · exact .raise
  · exact Res.check_keeps

theorem State.chunkPlaces_keeps {κ : Gauges} {s : State} {table store info l} (h : s.gauges = κ) :
    (s.chunkPlaces table store info l).Keeps κ fun _ => True := by
  induction l with
  | nil => exact .ok trivial
  | cons b bs ih => exact .bind Res.check_keeps fun _ _ => .bind (Place.forStream_keeps h) fun _ _ => .bind ih fun _ _ => .ok trivial

end Sys2Proof.Machine
end

section
/-! The gauges through the operations of Machine/Access.lean. -/
namespace Sys2Proof.Machine
open Sys2Proof

theorem execAadd_keeps {κ : Gauges} {s : State} {f} (h : s.gauges = κ) : Ans.Keeps κ (execAadd f s) := by
  unfold execAadd
  exact .finish h (State.addrRes_keeps h)

theorem execAsub_keeps {κ : Gauges} {s : State} {f} (h : s.gauges = κ) : Ans.Keeps κ (execAsub f s) := by
  unfold execAsub
  exact .finish h (State.addrRes_keeps h)

theorem execAmul_keeps {κ : Gauges} {s : State} {f} (h : s.gauges = κ) : Ans.Keeps κ (execAmul f s) := by
  unfold execAmul
  exact .finish h (State.addrRes_keeps h)

theorem execAshl_keeps {κ : Gauges} {s : State} {f} (h : s.gauges = κ) : Ans.Keeps κ (execAshl f s) := by
  unfold execAshl
  exact .finish h (State.addrRes_keeps h)

theorem execAshr_keeps {κ : Gauges} {s : State} {f} (h : s.gauges = κ) : Ans.Keeps κ (execAshr f s) := by
  unfold execAshr
  exact .finish h (State.addrRes_keeps h)

theorem execAand_keeps {κ : Gauges} {s : State} {f} (h : s.gauges = κ) : Ans.Keeps κ (execAand f s) := by
  unfold execAand
  exact .finish h (State.addrRes_keeps h)

theorem execAmov_keeps {κ : Gauges} {s : State} {f} (h : s.gauges = κ) : Ans.Keeps κ (execAmov f s) := by
  unfold execAmov
  refine .finish h ?_
  refine .bind (State.onTile_keeps h) fun _ _ => .bind (State.areg_keeps h) fun _ _ => ?_
  split
  · exact .bind Res.check_keeps fun _ _ => .ok (by simp [h])
  · exact .ok (by simp [h])

theorem execAaddi_keeps {κ : Gauges} {s : State} {f} (h : s.gauges = κ) : Ans.Keeps κ (execAaddi f s) := by
  unfold execAaddi
  exact .finish h (State.addrImmRes_keeps h)

theorem execAli_keeps {κ : Gauges} {s : State} {f} (h : s.gauges = κ) : Ans.Keeps κ (execAli f s) := by
  unfold execAli
  exact .finish h (State.addrImmRes_keeps h)

theorem execAaddC_keeps {κ : Gauges} {s : State} {f} (h : s.gauges = κ) : Ans.Keeps κ (execAaddC f s) := by
  unfold execAaddC
  exact .finish h (State.addrRes_keeps h)

theorem execAaddiC_keeps {κ : Gauges} {s : State} {f} (h : s.gauges = κ) : Ans.Keeps κ (execAaddiC f s) := by
  unfold execAaddiC
  exact .finish h (State.addrImmRes_keeps h)

theorem execAmovC_keeps {κ : Gauges} {s : State} {f} (h : s.gauges = κ) : Ans.Keeps κ (execAmovC f s) := by
  unfold execAmovC
  exact .finish h (State.addrImmRes_keeps h)

theorem execLq_keeps {κ : Gauges} {s : State} {f} (h : s.gauges = κ) : Ans.Keeps κ (execLq f s) := by
  unfold execLq
  refine .finish h ?_
  exact .bind (State.onTile_keeps h) fun _ _ => .bind (State.areg_keeps h) fun _ _ => State.loadLines_keeps h

theorem execLqb_keeps {κ : Gauges} {s : State} {f} (h : s.gauges = κ) : Ans.Keeps κ (execLqb f s) := by
  unfold execLqb
  refine .finish h ?_
  exact .bind (State.onTile_keeps h) fun _ _ => .bind (State.areg_keeps h) fun _ _ => State.loadLines_keeps h

theorem execSq_keeps {κ : Gauges} {s : State} {f} (h : s.gauges = κ) : Ans.Keeps κ (execSq f s) := by
  unfold execSq
  refine .finish h ?_
  refine .bind (State.onTile_keeps h) fun _ _ => .bind (State.areg_keeps h) fun _ _ => .bind (State.outHead_keeps h) fun _ _ => ?_
  exact State.storeLines_keeps h

theorem execSqs_keeps {κ : Gauges} {s : State} {f} (h : s.gauges = κ) : Ans.Keeps κ (execSqs f s) := by
  unfold execSqs
  refine .finish h ?_
  refine .bind (State.onTile_keeps h) fun _ _ => .bind (State.areg_keeps h) fun _ _ => .bind (State.outHead_keeps h) fun _ _ => ?_
  exact State.storeLines_keeps h

theorem State.gatherLanes_keeps {κ : Gauges} {s : State} {w a l} (h : s.gauges = κ) : (s.gatherLanes w a l).Keeps κ (·.2.gauges = κ) := by
  induction l generalizing s with
  | nil => exact .ok h
  | cons i is ih => exact .bind (State.locate_keeps h) fun r hr => .bind (ih hr) fun q hq => .ok hq

theorem execLqg_keeps {κ : Gauges} {s : State} {f} (h : s.gauges = κ) : Ans.Keeps κ (execLqg f s) := by
  unfold execLqg
  refine .finish h ?_
  refine .bind (State.onTile_keeps h) fun _ _ => .bind (State.areg_keeps h) fun _ _ => .bind (State.inRoom_keeps h) fun _ _ => ?_
  refine .bind (State.outHead_keeps h) fun _ _ => ?_
  dsimp only
  split
  · exact .ok (by simp [h])
  · exact .ok (by simp [h])
  · exact .stall (by simp [(State.gatherLanes_keeps h).of_stall ‹_›])
  · exact .fault
  · simp [(State.gatherLanes_keeps h).of_ok ‹_›, h]

theorem execLqt_keeps {κ : Gauges} {s : State} {f} (h : s.gauges = κ) : Ans.Keeps κ (execLqt f s) := by
  unfold execLqt
  refine .finish h ?_
  refine .bind (State.onTile_keeps h) fun _ _ => ?_
  dsimp only
  refine .bind (State.inRoom_keeps h) fun _ _ => ?_
  split
  · exact .ok (by simp [h])
  · refine .bind (State.areg_keeps h) fun _ _ => .bind (State.tensorUse_keeps h) fun _ _ => .bind Res.check_keeps fun _ _ => ?_
    refine .bind Res.check_keeps fun _ _ => .bind (State.coords_keeps h) fun _ _ => .bind checkRun_keeps fun _ _ => ?_
    split
    · exact .bind Res.check_keeps fun _ _ => .bind (State.chunkPlaces_keeps h) fun _ _ => .ok (by simp [h])
    · exact .bind (State.chunkPlaces_keeps h) fun _ _ => .ok (by simp [h])

theorem execSqt_keeps {κ : Gauges} {s : State} {f} (h : s.gauges = κ) : Ans.Keeps κ (execSqt f s) := by
  unfold execSqt
  refine .finish h ?_
  refine .bind (State.onTile_keeps h) fun _ _ => ?_
  dsimp only
  refine .bind Res.check_keeps fun _ _ => .bind (State.outHead_keeps h) fun _ _ => ?_
  split
  · exact .ok (by simp [h])
  · refine .bind (State.areg_keeps h) fun _ _ => .bind (State.tensorUse_keeps h) fun _ _ => .bind Res.check_keeps fun _ _ => ?_
    refine .bind (State.coords_keeps h) fun _ _ => .bind checkRun_keeps fun _ _ => ?_
    split
    · exact .stall h
    · exact .bind (State.chunkPlaces_keeps h) fun _ _ => .bind (State.reserveLen_keeps h) fun s1 hs1 => .ok (by simp [hs1])

theorem execOperandQueueFill_keeps {κ : Gauges} {s : State} {tile queue} (h : s.gauges = κ) : Ans.Keeps κ (execOperandQueueFill tile queue s) := by
  unfold execOperandQueueFill
  dsimp only
  split
  · exact .next h
  · simp [h]

theorem State.accDst_keeps {κ : Gauges} {s : State} {t d} (h : s.gauges = κ) : (s.accDst t d).Keeps κ fun _ => True := by
  unfold State.accDst
  simp [h]

theorem State.accSrc_keeps {κ : Gauges} {s : State} {t r} (h : s.gauges = κ) : (s.accSrc t r).Keeps κ fun _ => True := by
  unfold State.accSrc
  simp [h]

theorem execXwait_keeps {κ : Gauges} {s : State} {f} (h : s.gauges = κ) : Ans.Keeps κ (execXwait f s) := by
  unfold execXwait
  refine .finish h ?_
  refine .bind (State.onTile_keeps h) fun _ _ => ?_
  dsimp only
  split
  · exact .raise
  · split
    · split
      · exact .stall h
      · refine .bind (State.flagReserve_keeps h) fun s1 hs1 => ?_
        split
        · exact .ok (by simp [State.flagTake_gauges ‹_›, hs1])
        · exact .stall h
    · exact .ok (by simp [h])

theorem execSbq_keeps {κ : Gauges} {s : State} {f} (h : s.gauges = κ) : Ans.Keeps κ (execSbq f s) := by
  unfold execSbq
  refine .finish h ?_
  exact .bind (State.onTile_keeps h) fun _ _ => .bind (State.accDst_keeps h) fun _ _ => .ok (by simp [h])

theorem execQflush_keeps {κ : Gauges} {s : State} {f} (h : s.gauges = κ) : Ans.Keeps κ (execQflush f s) := by
  unfold execQflush
  refine .finish h ?_
  exact .bind (State.onTile_keeps h) fun _ _ => .ok (by simp [h])

theorem execQmark_keeps {κ : Gauges} {s : State} {f} (h : s.gauges = κ) : Ans.Keeps κ (execQmark f s) := by
  unfold execQmark
  refine .finish h ?_
  refine .bind (State.onTile_keeps h) fun _ _ => .bind (State.accDst_keeps h) fun _ _ => ?_
  dsimp only
  exact .ok (by simp [h])

theorem State.rstSegs_keeps {κ : Gauges} {s : State} {w a off l} (h : s.gauges = κ) : (s.rstSegs w a off l).Keeps κ (·.2.gauges = κ) := by
  induction l generalizing s off with
  | nil => exact .ok h
  | cons p rest ih =>
    unfold State.rstSegs
    split
    · exact .bind (State.locatePieces_keeps h) fun r hr => .bind (ih hr) fun q hq => .ok hq
    · exact .raise

theorem State.rstReady_keeps {κ : Gauges} {s : State} {t l} (h : s.gauges = κ) : (s.rstReady t l).Keeps κ fun _ => True := by
  unfold State.rstReady
  dsimp only
  simp [h]

theorem State.rstRes_keeps {κ : Gauges} {s : State} {f tk} (h : s.gauges = κ) : (s.rstRes f tk).Keeps κ (·.gauges = κ) := by
  unfold State.rstRes
  refine .bind (State.onTile_keeps h) fun _ _ => ?_
  dsimp only
  refine .bind Res.check_keeps fun _ _ => .bind (P := fun _ => True) ?_ fun _ _ => ?_
  · split
    · exact State.accDst_keeps h
    · exact .ok trivial
  · split
    · exact .ok (by simp [h])
    · refine .bind (State.areg_keeps h) fun _ _ => .bind (State.areg_keeps h) fun _ _ => .bind (State.accSrc_keeps h) fun _ _ => ?_
      refine .bind (State.operand_keeps h) fun ra hra => .bind Res.check_keeps fun _ _ => .bind Res.check_keeps fun _ _ => ?_
      refine .bind (State.operand_keeps hra) fun rb hrb => ?_
      split
      · exact .raise
      · refine .bind (State.checkToken_keeps h) fun _ _ => .bind (State.rstReady_keeps h) fun _ _ => ?_
        split
        · exact .stall h
        · exact .bind (State.rstSegs_keeps hrb) fun q hq => .bind (State.reserveRing_keeps hq) fun s1 hs1 => .ok (by simp [hs1])

theorem execRst_keeps {κ : Gauges} {s : State} {f} (h : s.gauges = κ) : Ans.Keeps κ (execRst f s) := by
  unfold execRst
  exact .finish h (State.rstRes_keeps h)

theorem execRstTk_keeps {κ : Gauges} {s : State} {f} (h : s.gauges = κ) : Ans.Keeps κ (execRstTk f s) := by
  unfold execRstTk
  exact .finish h (State.rstRes_keeps h)

theorem execRacc_keeps {κ : Gauges} {s : State} {f} (h : s.gauges = κ) : Ans.Keeps κ (execRacc f s) := by
  unfold execRacc
  refine .finish h ?_
  refine .bind (State.onTile_keeps h) fun _ _ => ?_
  dsimp only
  refine .bind Res.check_keeps fun _ _ => ?_
  split
  · exact .ok (by simp [h])
  · refine .bind (State.areg_keeps h) fun _ _ => .bind (State.areg_keeps h) fun _ _ => .bind Res.check_keeps fun _ _ => ?_
    refine .bind (State.operand_keeps h) fun ra hra => .bind Res.check_keeps fun _ _ => .bind Res.check_keeps fun _ _ => ?_
    refine .bind (State.rstReady_keeps h) fun _ _ => .bind (P := (·.gauges = κ)) ?_ fun s1 hs1 => ?_
    · split
      · exact State.reserveRing_keeps hra
      · exact .ok hra
    · exact .ok (by simp [hs1])

end Sys2Proof.Machine
end

section
/-! The gauges through the operations of Machine/Ferry.lean. -/
namespace Sys2Proof.Machine
open Sys2Proof

@[simp] theorem State.replayPut_gauges (s : State) (c bs) : (s.replayPut c bs).gauges = s.gauges := by
  simp [State.replayPut]

@[simp] theorem State.recordingBreaks_gauges (s : State) (c) : (s.recordingBreaks c).gauges = s.gauges := by
  simp [State.recordingBreaks]

@[simp] theorem State.recordInput_gauges (s : State) (c ekind k payload) : (s.recordInput c ekind k payload).gauges = s.gauges := by
  simp [State.recordInput]

@[simp] theorem State.replayFill_gauges (s : State) (c at' off bs) : (s.replayFill c at' off bs).gauges = s.gauges := by
  unfold State.replayFill
  split <;> simp

@[simp] theorem State.writeVa_gauges (s : State) (src tile c win va bs) : (s.writeVa src tile c win va bs).gauges = s.gauges := by
  unfold State.writeVa
  refine (gauges_foldl (fun s a => ?_) _ _).trans ?_
  · split
    · simp
    · rfl
  · rfl

theorem State.rxWrite_keeps {κ : Gauges} {s : State} {rxw off bs ack} (h : s.gauges = κ) : (s.rxWrite rxw off bs ack).Keeps κ (·.gauges = κ) := by
  unfold State.rxWrite
  dsimp only
  split
  · exact .raise
  · split
    · exact .stall h
    · exact .bind (State.reserveRing_keeps h) fun s1 hs1 => .ok (by simp [hs1])

theorem State.rxWrites_keeps {κ : Gauges} {s : State} {rxw off l} (h : s.gauges = κ) : (s.rxWrites rxw off l).Keeps κ (·.gauges = κ) := by
  unfold State.rxWrites
  split
  · exact .stall (by simp [h])
  · exact .stall h
  · exact Res.keeps_foldl (fun r p hr => .bind hr fun t ht => State.rxWrite_keeps ht) _ (.ok h)

@[simp] theorem State.setEntry_gauges (s : State) (i e) : (s.setEntry i e).gauges = s.gauges := State.gauges_of rfl rfl

@[simp] theorem State.modEntry_gauges (s : State) (i f) : (s.modEntry i f).gauges = s.gauges := State.gauges_of rfl rfl

@[simp] theorem State.fire_gauges (s : State) (i v arr) : (s.fire i v arr).gauges = s.gauges := by
  simp [State.fire]

@[simp] theorem State.evaluate_gauges (s : State) (i v arr) : (s.evaluate i v arr).gauges = s.gauges := by
  simp [State.evaluate]

@[simp] theorem State.cwaits_gauges (s : State) (n v) : (s.cwaits n v).gauges = s.gauges := State.gauges_of rfl rfl

@[simp] theorem State.trigger_gauges (s : State) : (s.trigger).gauges = s.gauges := by
  unfold State.trigger
  split <;> simp

@[simp] theorem State.setCounter_gauges (s : State) (n v arr) : (s.setCounter n v arr).gauges = s.gauges := by
  simp [State.setCounter]

@[simp] theorem State.addCounter_gauges (s : State) (n d arr) : (s.addCounter n d arr).gauges = s.gauges := by
  simp [State.addCounter]

@[simp] theorem State.unlink_gauges (s : State) (i) : (s.unlink i).gauges = s.gauges := by
  simp [State.unlink]

theorem State.take_keeps {κ : Gauges} {s : State} {i a scan} (h : s.gauges = κ) : (s.take i a scan).Keeps κ (·.gauges = κ) := by
  unfold State.take
  dsimp only
  split
  · split <;> exact .ok (by simp [h])
  · split
    · split
      · exact .ok (by simp [h])
      · split
        · exact .stall h
        · refine .bind (State.rxWrites_keeps h) fun s0 hs0 => ?_
          split
          · split <;> exact .ok (by simp [hs0])
          · exact .ok (by simp [hs0])
    · split
      · exact .ok (by simp [h])
      · split
        · exact .stall h
        · refine .bind (State.rxWrites_keeps h) fun s0 hs0 => ?_
          split
          · split <;> exact .ok (by simp [hs0])
          · exact .ok (by simp [hs0])

@[simp] theorem State.setUx_gauges (s : State) (l) : (s.setUx l).gauges = s.gauges := State.gauges_of rfl rfl

@[simp] theorem State.uxDrop_gauges (s : State) : (s.uxDrop).gauges = s.gauges := State.gauges_of rfl rfl

theorem State.uxTake_keeps {κ : Gauges} {s : State} {w r va limit} (h : s.gauges = κ) : (s.uxTake w r va limit).Keeps κ (·.2.gauges = κ) := by
  unfold State.uxTake
  dsimp only
  split
  · exact .ok h
  · refine .bind (Res.keeps_foldl (P := (·.gauges = κ)) (fun q p hq => .bind hq fun t ht => .bind Res.check_keeps fun _ _ => .bind (State.translate_keeps ht) fun r hr =>
      .ok hr) _ (.ok h)) fun s1 h1 => .bind (State.reserveLen_keeps h1) fun s2 h2 => .ok (by simp [h2])

@[simp] theorem State.mrecvAgain_gauges (s : State) (n) : (s.mrecvAgain n).gauges = s.gauges := by
  unfold State.mrecvAgain
  split
  · split
    · split
      · rfl
      · dsimp only
        split
        · simp [(State.uxTake_keeps rfl).of_ok ‹_›]
        · simp
        · simp
        · rfl
    · rfl
  · rfl

@[simp] theorem State.uxAppend_gauges (s : State) (a) : (s.uxAppend a).gauges = s.gauges := by
  simp [State.uxAppend]

@[simp] theorem State.recordArrival_gauges (s : State) (a) : (s.recordArrival a).gauges = s.gauges := by
  simp [State.recordArrival]

theorem State.arrive_keeps {κ : Gauges} {s : State} {a} (h : s.gauges = κ) : (s.arrive a).Keeps κ (·.gauges = κ) := by
  unfold State.arrive
  split
  · exact .ok h
  · split
    · exact .bind (State.take_keeps h) fun s1 hs1 => .ok (by simp [hs1])
    · simp [h]

theorem execArrivalMatch_keeps {κ : Gauges} {s : State} (h : s.gauges = κ) : Ans.Keeps κ (execArrivalMatch s) := by
  unfold execArrivalMatch
  split
  · exact .next h
  · split
    · dsimp only
      split
      · exact .next (by simp [(State.arrive_keeps rfl).of_ok ‹_›, h])
      · exact .next (by simp [(State.arrive_keeps rfl).of_stall ‹_›, h])
      · exact .next (by simp [h])
      · exact .next h
      · exact .fault
    · exact .next h

@[simp] theorem State.completeDeposit_gauges (s : State) (d) : (s.completeDeposit d).gauges = s.gauges := by
  unfold State.completeDeposit
  split <;> simp

theorem execDepositCompletion_keeps {κ : Gauges} {s : State} {entry} (h : s.gauges = κ) : Ans.Keeps κ (execDepositCompletion entry s) := by
  unfold execDepositCompletion
  split
  · simp [h]
  · exact .next h

theorem execWindowDelivery_keeps {κ : Gauges} {s : State} (h : s.gauges = κ) : Ans.Keeps κ (execWindowDelivery s) := by
  unfold execWindowDelivery
  split
  · split
    · exact .next h
    · dsimp only
      split <;> exact .next (by simp [h])
  · exact .next h

theorem execEngineSignal_keeps {κ : Gauges} {s : State} (h : s.gauges = κ) : Ans.Keeps κ (execEngineSignal s) := by
  unfold execEngineSignal
  split
  · simp [h]
  · exact .next h

@[simp] theorem State.counterWrite_gauges (s : State) (k) : (s.counterWrite k).gauges = s.gauges := by
  simp [State.counterWrite]

@[simp] theorem State.counterCommand_gauges (s : State) : (s.counterCommand).gauges = s.gauges := by
  unfold State.counterCommand
  split <;> simp

@[simp] theorem State.counterEvent_gauges (s : State) (n set v) : (s.counterEvent n set v).gauges = s.gauges := by
  simp [State.counterEvent]

theorem execCounterRegisterWrite_keeps {κ : Gauges} {s : State} {counter value} (h : s.gauges = κ) : Ans.Keeps κ (execCounterRegisterWrite counter value s) := by
  unfold execCounterRegisterWrite
  exact .next (by simp [h])

theorem State.morePacket_keeps {κ : Gauges} {s : State} {pdc off data} (h : s.gauges = κ) : (s.morePacket pdc off data).Keeps κ (·.gauges = κ) := by
  unfold State.morePacket
  split
  · dsimp only
    split
    · exact .ok (by simp [(State.rxWrite_keeps h).of_ok ‹_›])
    · exact .stall (by simp [(State.rxWrite_keeps h).of_stall ‹_›])
    · exact .ok h
  · dsimp only
    exact .ok (by simp [h])

theorem execDeliveryContextFailure_keeps {κ : Gauges} {s : State} {pdc} (h : s.gauges = κ) : Ans.Keeps κ (execDeliveryContextFailure pdc s) := by
  unfold execDeliveryContextFailure
  dsimp only
  exact .next (by simp [h])

end Sys2Proof.Machine
end

section
/-! The gauges through the operations of Machine/Sync.lean. -/
namespace Sys2Proof.Machine
open Sys2Proof

theorem State.acquireRes_keeps {κ : Gauges} {s : State} {f more} (h : s.gauges = κ) : (s.acquireRes f more).Keeps κ (·.gauges = κ) := by
  unfold State.acquireRes
  dsimp only
  refine .bind (State.acqHeld_keeps h) fun _ _ => .bind (State.src_keeps h) fun _ _ => .bind (State.src_keeps h) fun _ _ => ?_
  refine .bind (State.dst_keeps h) fun _ _ => .bind (State.reach_keeps h) fun r hr => ?_
  split
  · simp [hr]
  · split
    · exact .ok (by simp [hr])
    · split
      · simp [hr]
      · exact .bind (State.translate_keeps hr) fun p hp => .bind (State.reserve_keeps hp) fun s2 hs2 => .ok (by simp [hs2])

theorem execAcq_keeps {κ : Gauges} {s : State} {f} (h : s.gauges = κ) : Ans.Keeps κ (execAcq f s) := by
  unfold execAcq
  exact .finish h (State.acquireRes_keeps h)

theorem execAcqt_keeps {κ : Gauges} {s : State} {f} (h : s.gauges = κ) : Ans.Keeps κ (execAcqt f s) := by
  unfold execAcqt
  exact .finish h (State.acquireRes_keeps h)

theorem execRel_keeps {κ : Gauges} {s : State} {f} (h : s.gauges = κ) : Ans.Keeps κ (execRel f s) := by
  unfold execRel
  dsimp only
  refine .finish h ?_
  refine .bind (State.acqHeld_keeps h) fun _ _ => .bind (State.src_keeps h) fun _ _ => .bind (State.dst_keeps h) fun _ _ => ?_
  refine .bind (State.reach_keeps h) fun r hr => .bind Res.check_keeps fun _ _ => .bind (State.reserve_keeps hr) fun s1 hs1 => ?_
  exact .ok (by simp [hs1])

theorem execBind_keeps {κ : Gauges} {s : State} {f} (h : s.gauges = κ) : Ans.Keeps κ (execBind f s) := by
  unfold execBind
  dsimp only
  refine .finish h ?_
  refine .bind (State.acqHeld_keeps h) fun _ _ => .bind (State.src_keeps h) fun _ _ => .bind (State.src_keeps h) fun _ _ => ?_
  refine .bind (State.src_keeps h) fun _ _ => .bind (State.dst_keeps h) fun _ _ => .bind Res.check_keeps fun _ _ => ?_
  refine .bind (State.translate_keeps h) fun r hr => .bind Res.check_keeps fun _ _ => ?_
  split
  · exact .ok (by simp [hr])
  · split
    · exact .ok (by simp [hr])
    · exact .bind (State.reserve_keeps hr) fun s1 hs1 => .ok (by simp [hs1])

theorem execUnbind_keeps {κ : Gauges} {s : State} {f} (h : s.gauges = κ) : Ans.Keeps κ (execUnbind f s) := by
  unfold execUnbind
  refine .finish h ?_
  refine .bind (State.acqHeld_keeps h) fun _ _ => .bind (State.src_keeps h) fun _ _ => .bind (State.dst_keeps h) fun _ _ => ?_
  dsimp only
  exact .ok (by simp [h])

theorem execFence_keeps {κ : Gauges} {s : State} (h : s.gauges = κ) : Ans.Keeps κ (execFence s) := by
  unfold execFence
  refine .finish h ?_
  exact .bind (State.acqHeld_keeps h) fun _ _ => by simp [h]

theorem execFenceRf_keeps {κ : Gauges} {s : State} (h : s.gauges = κ) : Ans.Keeps κ (execFenceRf s) := by
  unfold execFenceRf
  dsimp only
  refine .finish h ?_
  refine .bind (State.acqHeld_keeps h) fun _ _ => ?_
  split
  · exact .stall (by simp [h])
  · split
    · exact .raise
    · exact .ok (by simp [h])

theorem State.subgroup_keeps {κ : Gauges} {s : State} {t a} (_h : s.gauges = κ) : (s.subgroup t a).Keeps κ fun _ => True := by
  unfold State.subgroup
  exact .bind Res.check_keeps fun _ _ => .ok trivial

theorem execBar_keeps {κ : Gauges} {s : State} {f} (h : s.gauges = κ) : Ans.Keeps κ (execBar f s) := by
  unfold execBar
  refine .finish h ?_
  refine .bind (State.onTile_keeps h) fun _ _ => .bind (State.acqHeld_keeps h) fun _ _ => .bind (State.src_keeps h) fun _ _ => ?_
  refine .bind (State.subgroup_keeps h) fun _ _ => ?_
  dsimp only
  simp [h]

theorem execFlagw_keeps {κ : Gauges} {s : State} {f} (h : s.gauges = κ) : Ans.Keeps κ (execFlagw f s) := by
  unfold execFlagw
  refine .finish h ?_
  refine .bind (State.onTile_keeps h) fun _ _ => .bind (State.acqHeld_keeps h) fun _ _ => .bind (State.src_keeps h) fun _ _ => ?_
  refine .bind Res.check_keeps fun _ _ => ?_
  split
  · exact .ok (by simp [h])
  · split
    · exact .stall h
    · refine .bind (State.flagReserve_keeps h) fun s1 hs1 => ?_
      split
      · exact .ok (by simp [State.flagTake_gauges ‹_›, hs1])
      · exact .stall h

theorem execFlags_keeps {κ : Gauges} {s : State} {f} (h : s.gauges = κ) : Ans.Keeps κ (execFlags f s) := by
  unfold execFlags
  refine .finish h ?_
  refine .bind (State.onTile_keeps h) fun _ _ => .bind (State.acqHeld_keeps h) fun _ _ => .bind (State.src_keeps h) fun _ _ => ?_
  refine .bind (P := fun _ => True) ?_ fun _ _ => ?_
  · split
    · exact .ok trivial
    · exact .bind (State.subgroup_keeps h) fun _ _ => .ok trivial
  · refine .bind (State.flagReserve_keeps h) fun s1 hs1 => ?_
    dsimp only
    exact .ok (by simp [hs1])

theorem execFlagc_keeps {κ : Gauges} {s : State} {f} (h : s.gauges = κ) : Ans.Keeps κ (execFlagc f s) := by
  unfold execFlagc
  refine .finish h ?_
  refine .bind (State.onTile_keeps h) fun _ _ => .bind (State.acqHeld_keeps h) fun _ _ => .bind (State.flagReserve_keeps h) fun s1 hs1 => ?_
  exact .ok (by simp [hs1])

theorem execRemoteFlagSignal_keeps {κ : Gauges} {s : State} {tile n} (h : s.gauges = κ) : Ans.Keeps κ (execRemoteFlagSignal tile n s) := by
  unfold execRemoteFlagSignal
  split
  · exact .next h
  · dsimp only
    split
    · exact .next (by simp [(State.flagReserve_keeps rfl).of_ok ‹_›, h])
    · exact .next h

end Sys2Proof.Machine
end

section
/-! The gauges through the operations of Machine/Command.lean. -/
namespace Sys2Proof.Machine
open Sys2Proof

theorem State.commandGate_keeps {κ : Gauges} {s : State} (h : s.gauges = κ) : (s.commandGate).Keeps κ fun _ => True := by
  unfold State.commandGate
  simp [h]

theorem State.eventGate_keeps {κ : Gauges} {s : State} (h : s.gauges = κ) : (s.eventGate).Keeps κ (·.gauges = κ) := by
  unfold State.eventGate
  simp [h]

@[simp] theorem State.answer_gauges (s : State) (f v a b) : (s.answer f v a b).gauges = s.gauges := by
  simp [State.answer]

@[simp] theorem State.pending_gauges (s : State) (f k a b) : (s.pending f k a b).gauges = s.gauges := by
  simp [State.pending]

theorem State.cmdSrc_keeps {κ : Gauges} {s : State} {f} (h : s.gauges = κ) : (s.cmdSrc f).Keeps κ fun _ => True := by
  unfold State.cmdSrc
  refine .bind (State.commandGate_keeps h) fun _ _ => .bind (State.src_keeps h) fun _ _ => .bind (State.src_keeps h) fun _ _ => ?_
  exact .bind (State.src_keeps h) fun _ _ => .bind (State.dst_keeps h) fun _ _ => .ok trivial

theorem State.own_keeps {κ : Gauges} {s : State} {mine info} (_h : s.gauges = κ) : (s.own mine info).Keeps κ fun _ => True := by
  unfold State.own
  exact Res.check_keeps

theorem State.needSys_keeps {κ : Gauges} {s : State} (_h : s.gauges = κ) : (s.needSys).Keeps κ fun _ => True := by
  unfold State.needSys
  exact Res.check_keeps

theorem State.readPages_keeps {κ : Gauges} {s : State} {w c fuel va n} (h : s.gauges = κ) :
    (s.readPages w c fuel va n).Keeps κ (·.2.gauges = κ) := by
  induction fuel generalizing s va n with
  | zero => exact .ok h
  | succ fuel ih =>
    unfold State.readPages
    split
    · exact .ok h
    · split
      · exact .raise
      · exact .bind (State.translate_keeps h) fun r hr => .bind (ih hr) fun q hq => .ok hq

theorem State.readOperand_keeps {κ : Gauges} {s : State} {va n al} (h : s.gauges = κ) : (s.readOperand va n al).Keeps κ (·.2.gauges = κ) := by
  unfold State.readOperand
  refine .bind (State.acqHeld_keeps h) fun _ _ => .bind Res.check_keeps fun _ _ => ?_
  split
  · exact .stall h
  · exact State.readPages_keeps h

theorem State.writable_keeps {κ : Gauges} {s : State} {w c fuel va n} (h : s.gauges = κ) : (s.writable w c fuel va n).Keeps κ (·.gauges = κ) := by
  induction fuel generalizing s va n with
  | zero => exact .ok h
  | succ fuel ih =>
    unfold State.writable
    split
    · exact .ok h
    · split
      · exact .raise
      · exact .bind (State.translate_keeps h) fun r hr => ih hr

theorem State.writeOperand_keeps {κ : Gauges} {s : State} {va bs al} (h : s.gauges = κ) : (s.writeOperand va bs al).Keeps κ (·.gauges = κ) := by
  unfold State.writeOperand
  dsimp only
  refine .bind (State.acqHeld_keeps h) fun _ _ => .bind Res.check_keeps fun _ _ => ?_
  split
  · exact .stall h
  · exact .bind (State.writable_keeps h) fun s1 hs1 => .bind (State.reserveLen_keeps hs1) fun s2 hs2 => .ok (by simp [hs2])

theorem State.counterOf_keeps {κ : Gauges} {s : State} {a} (h : s.gauges = κ) : (s.counterOf a).Keeps κ fun _ => True := by
  unfold State.counterOf
  dsimp only
  exact .bind Res.check_keeps fun _ _ => .bind Res.check_keeps fun _ _ => .bind (State.own_keeps h) fun _ _ => .ok trivial

theorem State.counterCmd_keeps {κ : Gauges} {s : State} {f new before} (h : s.gauges = κ) : (s.counterCmd f new before).Keeps κ (·.gauges = κ) := by
  unfold State.counterCmd
  refine .bind (State.cmdSrc_keeps h) fun _ _ => .bind (State.counterOf_keeps h) fun _ _ => .bind (State.eventGate_keeps h) fun s0 hs0 => ?_
  dsimp only
  exact .ok (by simp [hs0])

theorem execCinc_keeps {κ : Gauges} {s : State} {f} (h : s.gauges = κ) : Ans.Keeps κ (execCinc f s) := by
  unfold execCinc
  exact .finish h (State.counterCmd_keeps h)

theorem execCset_keeps {κ : Gauges} {s : State} {f} (h : s.gauges = κ) : Ans.Keeps κ (execCset f s) := by
  unfold execCset
  exact .finish h (State.counterCmd_keeps h)

theorem execCadd_keeps {κ : Gauges} {s : State} {f} (h : s.gauges = κ) : Ans.Keeps κ (execCadd f s) := by
  unfold execCadd
  exact .finish h (State.counterCmd_keeps h)

theorem execCread_keeps {κ : Gauges} {s : State} {f} (h : s.gauges = κ) : Ans.Keeps κ (execCread f s) := by
  unfold execCread
  exact .finish h (State.counterCmd_keeps h)

theorem execCwait_keeps {κ : Gauges} {s : State} {f} (h : s.gauges = κ) : Ans.Keeps κ (execCwait f s) := by
  unfold execCwait
  refine .finish h ?_
  refine .bind (State.cmdSrc_keeps h) fun _ _ => .bind (State.counterOf_keeps h) fun _ _ => .bind (State.eventGate_keeps h) fun s0 hs0 => ?_
  simp [hs0]

theorem State.armScan_keeps {κ : Gauges} {s : State} {i l} (h : s.gauges = κ) : (s.armScan i l).Keeps κ (·.gauges = κ) := by
  induction l generalizing s with
  | nil => exact .ok h
  | cons r rest ih =>
    unfold State.armScan
    split
    · exact ih h
    · refine .bind (State.take_keeps h) fun s1 h1 => ?_
      split
      · exact .ok (by simp [h1])
      · exact ih (by simp [h1])

theorem State.arm_keeps {κ : Gauges} {s : State} {c e ten} (h : s.gauges = κ) : (s.arm c e ten).Keeps κ (·.2.gauges = κ) := by
  unfold State.arm
  dsimp only
  split
  · exact .raise
  · refine .bind Res.check_keeps fun _ _ => .bind Res.check_keeps fun _ _ => .bind Res.check_keeps fun _ _ => ?_
    refine .bind Res.check_keeps fun _ _ => ?_
    split
    · rename_i t1 e1
      have ht1 : t1.gauges = κ := by
        refine Res.Keeps.of_ok (κ := κ) (P := (·.gauges = κ)) ?_ e1
        split
        · exact .ok h
        · exact State.armScan_keeps (by simp [h])
      exact .ok (by simp [ht1])
    · rename_i t1 e1
      have ht1 : t1.gauges = κ := by
        refine Res.Keeps.of_stall (κ := κ) (P := (·.gauges = κ)) ?_ e1
        split
        · exact .ok h
        · exact State.armScan_keeps (by simp [h])
      exact .stall (by simp [h])
    · rename_i t1 _ e1
      have ht1 : t1.gauges = κ := by
        refine Res.Keeps.of_stall (κ := κ) (P := (·.gauges = κ)) ?_ e1
        split
        · exact .ok h
        · exact State.armScan_keeps (by simp [h])
      exact .stall h
    · exact .raise
    · exact .denied
    · exact .fault

theorem execArm_keeps {κ : Gauges} {s : State} {f} (h : s.gauges = κ) : Ans.Keeps κ (execArm f s) := by
  unfold execArm
  refine .finish h ?_
  refine .bind (State.onThread_keeps h) fun _ _ => .bind (State.cmdSrc_keeps h) fun _ _ => ?_
  split
  · exact .ok (by simp [h])
  · refine .bind (State.readOperand_keeps h) fun r hr => .bind (State.eventGate_keeps hr) fun s0 hs0 => ?_
    exact .bind (State.arm_keeps hs0) fun p hp => .ok (by simp [hp])

theorem State.entryOf_keeps {κ : Gauges} {s : State} {a any} (h : s.gauges = κ) : (s.entryOf a any).Keeps κ fun _ => True := by
  unfold State.entryOf
  dsimp only
  exact .bind Res.check_keeps fun _ _ => .bind Res.check_keeps fun _ _ => .bind (State.own_keeps h) fun _ _ => .ok trivial

@[simp] theorem State.disarm_gauges (s : State) (i) : (s.disarm i).gauges = s.gauges := by
  simp [State.disarm]

theorem execDisarm_keeps {κ : Gauges} {s : State} {f} (h : s.gauges = κ) : Ans.Keeps κ (execDisarm f s) := by
  unfold execDisarm
  refine .finish h ?_
  refine .bind (State.onThread_keeps h) fun _ _ => .bind (State.cmdSrc_keeps h) fun _ _ => .bind (State.entryOf_keeps h) fun _ _ => ?_
  exact .bind (State.eventGate_keeps h) fun s0 hs0 => .ok (by simp [hs0])

theorem execArmq_keeps {κ : Gauges} {s : State} {f} (h : s.gauges = κ) : Ans.Keeps κ (execArmq f s) := by
  unfold execArmq
  refine .finish h ?_
  refine .bind (State.onThread_keeps h) fun _ _ => .bind (State.cmdSrc_keeps h) fun _ _ => .bind (State.entryOf_keeps h) fun _ _ => ?_
  exact .bind (State.eventGate_keeps h) fun s0 hs0 => .bind (State.writeOperand_keeps hs0) fun s1 hs1 => .ok (by simp [hs1])

theorem execTrig_keeps {κ : Gauges} {s : State} {f} (h : s.gauges = κ) : Ans.Keeps κ (execTrig f s) := by
  unfold execTrig
  refine .finish h ?_
  refine .bind (State.cmdSrc_keeps h) fun _ _ => .bind (State.entryOf_keeps h) fun _ _ => .bind (State.eventGate_keeps h) fun s0 hs0 => ?_
  exact .ok (by simp [hs0])

end Sys2Proof.Machine
end

section
/-! The gauges through the operations of Machine/Sysreg.lean. -/
namespace Sys2Proof.Machine
open Sys2Proof

theorem State.sysRead_gauges {s : State} {t n} {r} (h : s.sysRead t n = some r) : r.2.gauges = s.gauges := by
  revert h
  unfold State.sysRead
  rw [Option.map_eq_some_iff]
  rintro ⟨v, hv, rfl⟩
  rfl

end Sys2Proof.Machine
end

section
/-! The gauges through the operations of Machine/System.lean. -/
namespace Sys2Proof.Machine
open Sys2Proof

theorem execDisp_keeps {κ : Gauges} {s : State} {f q} (h : s.gauges = κ) : Ans.Keeps κ (execDisp f q s) := by
  unfold execDisp
  refine .finish h ?_
  refine .bind (State.onTile_keeps h) fun _ _ => .bind (State.outsideBlock_keeps h) fun _ _ => ?_
  refine .bind (State.outsideHandler_keeps h) fun _ _ => .bind (State.acqHeld_keeps h) fun _ _ => ?_
  dsimp only
  exact .bind Res.check_keeps fun _ _ => .bind (State.src_keeps h) fun _ _ => .bind Res.check_keeps fun _ _ => by simp [h]

theorem execNop_keeps {κ : Gauges} {s : State} (h : s.gauges = κ) : Ans.Keeps κ (execNop s) := by
  unfold execNop
  exact .next (by simp [h])

theorem execSysrd_keeps {κ : Gauges} {s : State} {f} (h : s.gauges = κ) : Ans.Keeps κ (execSysrd f s) := by
  unfold execSysrd
  dsimp only
  refine .finish h ?_
  refine .bind Res.check_keeps fun _ _ => ?_
  split
  · refine .bind (State.dst_keeps h) fun _ _ => ?_
    split
    · exact .raise
    · exact .ok (by simp [State.sysRead_gauges ‹_›, h])
  · split
    · exact State.valueRes_keeps h
    · exact .raise

theorem execSyswr_keeps {κ : Gauges} {s : State} {f} (h : s.gauges = κ) : Ans.Keeps κ (execSyswr f s) := by
  unfold execSyswr
  dsimp only
  refine .finish h ?_
  refine .bind Res.check_keeps fun _ _ => ?_
  split
  · refine .bind (State.src_keeps h) fun _ _ => .bind Res.check_keeps fun _ _ => ?_
    split
    · exact .raise
    · exact .ok (by simp [h])
  · exact .raise

theorem execTrap_keeps {κ : Gauges} {s : State} {f} (h : s.gauges = κ) : Ans.Keeps κ (execTrap f s) := by
  unfold execTrap
  refine .finish h ?_
  exact .bind (State.outsideBlock_keeps h) fun _ _ => .bind (State.outsideHandler_keeps h) fun _ _ => .raise

theorem execReti_keeps {κ : Gauges} {s : State} {f} (h : s.gauges = κ) : Ans.Keeps κ (execReti f s) := by
  unfold execReti
  refine .finish h ?_
  refine .bind (State.onThread_keeps h) fun _ _ => .bind (State.src_keeps h) fun _ _ => .bind Res.check_keeps fun _ _ => ?_
  exact .bind Res.check_keeps fun _ _ => .bind (State.returnTo_keeps h) fun s1 hs1 => .ok (by simp [hs1])

theorem execMpret_keeps {κ : Gauges} {s : State} (h : s.gauges = κ) : Ans.Keeps κ (execMpret s) := by
  unfold execMpret
  refine .finish h ?_
  refine .bind (State.onTile_keeps h) fun _ _ => .bind (State.outsideBlock_keeps h) fun _ _ => ?_
  split
  · exact .raise
  · exact .ok h

theorem execWfe_keeps {κ : Gauges} {s : State} (h : s.gauges = κ) : Ans.Keeps κ (execWfe s) := by
  unfold execWfe
  refine .finish h ?_
  refine .bind (State.outsideBlock_keeps h) fun _ _ => .bind (State.outsideHandler_keeps h) fun _ _ => ?_
  dsimp only
  simp [h]

theorem execWfeTimeout_keeps {κ : Gauges} {s : State} {who} (h : s.gauges = κ) : Ans.Keeps κ (execWfeTimeout who s) := by
  unfold execWfeTimeout
  split
  · simp [h]
  · exact .next h

theorem State.endRunRes_keeps {κ : Gauges} {s : State} {n} (h : s.gauges = κ) : (s.endRunRes n).Keeps κ (·.gauges = κ) := by
  unfold State.endRunRes
  simp [h]

theorem State.tdoneRes_keeps {κ : Gauges} {s : State} (h : s.gauges = κ) : (s.tdoneRes).Keeps κ (·.gauges = κ) := by
  unfold State.tdoneRes
  refine .bind (State.onTile_keeps h) fun _ _ => .bind (State.outsideBlock_keeps h) fun _ _ => ?_
  refine .bind (State.outsideHandler_keeps h) fun _ _ => ?_
  dsimp only
  simp [h]

theorem execTdone_keeps {κ : Gauges} {s : State} (h : s.gauges = κ) : Ans.Keeps κ (execTdone s) := by
  unfold execTdone
  exact .finish h (State.tdoneRes_keeps h)

theorem execHalt_keeps {κ : Gauges} {s : State} (h : s.gauges = κ) : Ans.Keeps κ (execHalt s) := by
  unfold execHalt
  split
  · exact .finish h (State.endRunRes_keeps h)
  · exact .finish h (State.tdoneRes_keeps h)

theorem execRdcc_keeps {κ : Gauges} {s : State} {f} (h : s.gauges = κ) : Ans.Keeps κ (execRdcc f s) := by
  unfold execRdcc
  exact .finish h (State.valueRes_keeps h)

theorem execRdwork_keeps {κ : Gauges} {s : State} {f} (h : s.gauges = κ) : Ans.Keeps κ (execRdwork f s) := by
  unfold execRdwork
  dsimp only
  exact .finish h (State.valueRes_keeps h)

theorem execEtrig_keeps {κ : Gauges} {s : State} (h : s.gauges = κ) : Ans.Keeps κ (execEtrig s) := by
  unfold execEtrig
  refine .finish h ?_
  refine .bind (State.onTile_keeps h) fun _ _ => .bind (State.outsideHandler_keeps h) fun _ _ => .bind (State.acqHeld_keeps h) fun _ _ => ?_
  split
  · exact .ok (by simp [h])
  · simp [h]

theorem execMark_keeps {κ : Gauges} {s : State} (h : s.gauges = κ) : Ans.Keeps κ (execMark s) := by
  unfold execMark
  refine .finish h ?_
  refine .bind (State.onTile_keeps h) fun _ _ => .bind (State.reserveLen_keeps h) fun s1 hs1 => ?_
  dsimp only
  exact .ok (by simp [hs1])

end Sys2Proof.Machine
end

section
/-! The gauges through the operations of Machine/Issue.lean. -/
namespace Sys2Proof.Machine
open Sys2Proof

theorem State.fetch_keeps {κ : Gauges} {s : State} {w va n} (h : s.gauges = κ) : (s.fetch w va n).Keeps κ (·.2.gauges = κ) := by
  induction n generalizing s va with
  | zero => exact .ok h
  | succ n ih =>
    unfold State.fetch
    split
    · exact .raise
    · exact .bind (State.translate_keeps h) fun r hr => .bind (ih hr) fun q hq => .ok hq

theorem State.readInsn_keeps {κ : Gauges} {s : State} {w} (h : s.gauges = κ) : (s.readInsn w).Keeps κ (·.2.gauges = κ) := by
  unfold State.readInsn
  dsimp only
  split
  · exact .ok h
  · refine .bind (State.fetch_keeps h) fun r hr => .bind (State.fetch_keeps hr) fun q hq => ?_
    split
    · exact .bind (State.fetch_keeps hq) fun b hb => .bind Res.check_keeps fun _ _ => .ok hb
    · exact .bind Res.check_keeps fun _ _ => .ok hq

@[simp] theorem State.raiseIdle_gauges (s : State) (t k c info) : (s.raiseIdle t k c info).gauges = s.gauges := by
  simp [State.raiseIdle]

@[simp] theorem State.bubble_gauges (s : State) (w) : (s.bubble w).gauges = s.gauges := by
  simp [State.bubble]

@[simp] theorem State.passHeader_gauges (s : State) (f) : (s.passHeader f).gauges = s.gauges := by
  simp [State.passHeader]

theorem execBlockHeader_keeps {κ : Gauges} {s : State} {f} (h : s.gauges = κ) : Ans.Keeps κ (execBlockHeader f s) := by
  unfold execBlockHeader
  refine .finish h ?_
  refine .bind (State.onTile_keeps h) fun _ _ => ?_
  dsimp only
  refine .bind Res.check_keeps fun _ _ => .bind (State.fetch_keeps h) fun b hb => .bind Res.check_keeps fun _ _ => ?_
  exact .bind Res.check_keeps fun _ _ => by simp [hb]

theorem execLockstepEntry_keeps {κ : Gauges} {s : State} {tile} (h : s.gauges = κ) : Ans.Keeps κ (execLockstepEntry tile s) := by
  unfold execLockstepEntry
  dsimp only
  simp [h]

theorem execCommandQueueTake_keeps {κ : Gauges} {s : State} {tile stream} (h : s.gauges = κ) : Ans.Keeps κ (execCommandQueueTake tile stream s) := by
  unfold execCommandQueueTake
  dsimp only
  split
  · exact .next h
  · split
    · exact .next h
    · split
      · rename_i t1 e1
        have ht1 : t1.gauges = κ := by
          refine Res.Keeps.of_ok (κ := κ) (P := (·.gauges = κ)) ?_ e1
          split
          · split
            · exact .stall h
            · refine .bind (State.flagReserve_keeps h) fun s1 hs1 => ?_
              split
              · exact .ok (by simp [State.flagTake_gauges ‹_›, hs1])
              · exact .stall h
          · exact .ok h
        exact .next (by simp [ht1])
      · rename_i t1 e1
        have ht1 : t1.gauges = κ := by
          refine Res.Keeps.of_stall (κ := κ) (P := (·.gauges = κ)) ?_ e1
          split
          · split
            · exact .stall h
            · refine .bind (State.flagReserve_keeps h) fun s1 hs1 => ?_
              split
              · exact .ok (by simp [State.flagTake_gauges ‹_›, hs1])
              · exact .stall h
          · exact .ok h
        exact .next h
      · exact .next (by simp [h])
      · exact .next h
      · exact .fault

@[simp] theorem State.lossRecord_gauges (s : State) (t k hdr count) : (s.lossRecord t k hdr count).gauges = s.gauges := by
  simp [State.lossRecord]

theorem execBlockComplete_keeps {κ : Gauges} {s : State} {tile stream} (h : s.gauges = κ) : Ans.Keeps κ (execBlockComplete tile stream s) := by
  unfold execBlockComplete
  dsimp only
  split
  · split
    · exact .next h
    · split
      · rename_i t1 e1
        have ht1 : t1.gauges = κ := by
          refine Res.Keeps.of_ok (κ := κ) (P := (·.gauges = κ)) ?_ e1
          split
          · exact .bind (State.flagReserve_keeps h) fun s1 hs1 => .ok (by simp [hs1])
          · exact .ok h
        exact .next (by simp [ht1])
      · exact .next (by simp [h])
      · exact .next h
  · exact .next h

@[simp] theorem State.loopExit_gauges (s before : State) (w) : (s.loopExit before w).gauges = s.gauges := by
  unfold State.loopExit
  split
  · split <;> simp
  · rfl

theorem execMatchPointHit_keeps {κ : Gauges} {s : State} {tile stream} (h : s.gauges = κ) : Ans.Keeps κ (execMatchPointHit tile stream s) := by
  unfold execMatchPointHit
  dsimp only
  split
  · exact .next h
  · simp [h]

theorem execUnallocatedEncoding_keeps {κ : Gauges} {s : State} {cause} (h : s.gauges = κ) : Ans.Keeps κ (execUnallocatedEncoding cause s) := by
  unfold execUnallocatedEncoding
  exact .next (by simp [h])

end Sys2Proof.Machine
end

section
/-! The gauges through the operations of Machine/Copy.lean. -/
namespace Sys2Proof.Machine
open Sys2Proof

theorem State.linear_keeps {κ : Gauges} {s : State} {ctx base a n} (_h : s.gauges = κ) : (s.linear ctx base a n).Keeps κ fun _ => True := by
  unfold State.linear
  split
  · exact .raise
  · split
    · exact .bind Res.check_keeps fun _ _ => .ok trivial
    · dsimp only
      split
      · split
        · exact .raise
        · exact .bind Res.check_keeps fun _ _ => .ok trivial
      · split
        · split
          · exact .ok trivial
          · exact .raise
        · exact .raise

theorem State.cpCheck_keeps {κ : Gauges} {s : State} {ctx own d} (h : s.gauges = κ) : (s.cpCheck ctx own d).Keeps κ fun _ => True := by
  unfold State.cpCheck
  dsimp only
  refine .bind Res.check_keeps fun _ _ => .bind Res.check_keeps fun _ _ => .bind Res.check_keeps fun _ _ => ?_
  refine .bind Res.check_keeps fun _ _ => .bind (P := fun _ => True) ?_ fun _ _ => ?_
  · split
    · exact .bind (State.linear_keeps h) fun _ _ => .ok trivial
    · exact .ok trivial
  · refine .bind (P := fun _ => True) ?_ fun _ _ => ?_
    · split
      · exact .bind (State.linear_keeps h) fun _ _ => .ok trivial
      · exact .ok trivial
    · refine .bind (P := fun _ => True) ?_ fun _ _ => ?_
      · split
        · exact .bind (State.linear_keeps h) fun _ _ => .ok trivial
        · exact .ok trivial
      · exact Res.check_keeps

theorem State.takeBoard_gauges {s : State} {l r} (h : s.takeBoard l = some r) : r.2.gauges = s.gauges := by
  induction l generalizing s r with
  | nil => cases h; rfl
  | cons p rest ih =>
    rw [State.takeBoard] at h
    split at h
    · cases h
    · obtain ⟨q, hq, rfl⟩ := Option.map_eq_some_iff.mp h
      exact (ih hq).trans (by simp)

theorem State.copyRes_keeps {κ : Gauges} {s : State} {f sub} (h : s.gauges = κ) : (s.copyRes f sub).Keeps κ (·.gauges = κ) := by
  unfold State.copyRes
  refine .bind (State.onTile_keeps h) fun _ _ => ?_
  dsimp only
  refine .bind Res.check_keeps fun _ _ => ?_
  split
  · split
    · exact .bind (State.flagReserve_keeps h) fun s1 hs1 => .ok (by simp [hs1])
    · exact .ok (by simp [h])
  · refine .bind (State.areg_keeps h) fun _ _ => .bind (State.operand_keeps h) fun r hr => .bind (State.rstReady_keeps h) fun _ _ => ?_
    split
    · exact .stall h
    · refine .bind (P := (·.gauges = κ)) ?_ fun s1 hs1 => ?_
      · split
        · exact State.grant_keeps hr
        · exact .ok hr
      · refine .bind Res.check_keeps fun _ _ => .bind (State.cpCheck_keeps hs1) fun _ _ => ?_
        split
        · exact .stall h
        · split
          · exact .stall h
          · split
            · exact .stall h
            · exact .ok (by simp [State.takeBoard_gauges ‹_›, hs1])

theorem execTcopy_keeps {κ : Gauges} {s : State} {f} (h : s.gauges = κ) : Ans.Keeps κ (execTcopy f s) := by
  unfold execTcopy
  exact .finish h (State.copyRes_keeps h)

theorem execTgather_keeps {κ : Gauges} {s : State} {f} (h : s.gauges = κ) : Ans.Keeps κ (execTgather f s) := by
  unfold execTgather
  exact .finish h (State.copyRes_keeps h)

theorem execTscatter_keeps {κ : Gauges} {s : State} {f} (h : s.gauges = κ) : Ans.Keeps κ (execTscatter f s) := by
  unfold execTscatter
  exact .finish h (State.copyRes_keeps h)

theorem execTfill_keeps {κ : Gauges} {s : State} {f} (h : s.gauges = κ) : Ans.Keeps κ (execTfill f s) := by
  unfold execTfill
  exact .finish h (State.copyRes_keeps h)

@[simp] theorem State.setCopy_gauges (s : State) (eng n c) : (s.setCopy eng n c).gauges = s.gauges := State.gauges_of rfl rfl

@[simp] theorem State.park_gauges (s : State) (eng n c pager entry at') : (s.park eng n c pager entry at').gauges = s.gauges := by
  simp [State.park]

@[simp] theorem State.beatEnds_gauges (s : State) (engine) : (s.beatEnds engine).gauges = s.gauges := by
  unfold State.beatEnds
  split
  · rfl
  · split
    · simp
    · rfl

theorem execCopyPiece_keeps {κ : Gauges} {s : State} {engine n} (h : s.gauges = κ) : Ans.Keeps κ (execCopyPiece engine n s) := by
  unfold execCopyPiece
  split
  · exact .next h
  · split
    · exact .next h
    · dsimp only
      split
      · split
        · split <;> exact .next h
        · split
          · exact .next (by simp [h])
          · exact .next (by simp [h])
          · exact .next h
          · exact .fault
      · split
        · split
          · exact .next (by simp [h])
          · exact .next (by simp [h])
          · exact .next h
          · exact .fault
        · exact .next h
        · exact .next h
        · split
          · exact .next (by simp [h])
          · split
            · exact .next (by simp [(State.reserveRing_keeps h).of_ok ‹_›])
            · exact .next (by simp [(State.reserveRing_keeps h).of_stall ‹_›])
            · exact .fault
            · exact .next h

theorem execCopyResume_keeps {κ : Gauges} {s : State} {engine n} (h : s.gauges = κ) : Ans.Keeps κ (execCopyResume engine n s) := by
  unfold execCopyResume
  split
  · exact .next h
  · split
    · exact .next h
    · dsimp only
      split
      · exact .next (by simp [h])
      · exact .next (by simp [h])
      · exact .next h

theorem execCopyRetire_keeps {κ : Gauges} {s : State} {engine n} (h : s.gauges = κ) : Ans.Keeps κ (execCopyRetire engine n s) := by
  unfold execCopyRetire
  split
  · exact .next h
  · rename_i c _
    split
    · exact .next h
    · dsimp only
      generalize hs1 : c.board.foldl _ _ = s1
      have h1 : s1.gauges = κ := by
        rw [← hs1, ← h]
        exact (gauges_foldl (fun s e => State.modTile_gauges ..) _ _).trans (State.gauges_of rfl rfl)
      split
      · split
        · split
          · exact .next h1
          · split
            · have h2 := (State.reserveRing_keeps h1).of_ok ‹_›
              split <;> exact .next (by simp [h2])
            · exact .next h
        · exact .next h1
      · split
        · exact .next (by simp [h1])
        · split <;> exact .next (by simp [h1])

theorem execScoreboardStallExpiry_keeps {κ : Gauges} {s : State} {tile} (h : s.gauges = κ) : Ans.Keeps κ (execScoreboardStallExpiry tile s) := by
  unfold execScoreboardStallExpiry
  split
  · simp [h]
  · exact .next h

theorem execPageIn_keeps {κ : Gauges} {s : State} {engine n frame} (h : s.gauges = κ) : Ans.Keeps κ (execPageIn engine n frame s) := by
  unfold execPageIn
  split
  · exact .next h
  · split
    · dsimp only
      split
      · exact .next h
      · simp [h]
    · exact .next h

end Sys2Proof.Machine
end

section
/-! The gauges through the operations of Machine/Undo.lean. -/
namespace Sys2Proof.Machine
open Sys2Proof

@[simp] theorem State.setTensor_gauges (s : State) (ctx id d) : (s.setTensor ctx id d).gauges = s.gauges := State.gauges_of rfl rfl

@[simp] theorem State.spadBack_gauges (s : State) (t off bs) : (s.spadBack t off bs).gauges = s.gauges := by
  unfold State.spadBack
  split <;> simp

@[simp] theorem State.flagBack_gauges (s : State) (t f v) : (s.flagBack t f v).gauges = s.gauges := by
  unfold State.flagBack
  split <;> simp

@[simp] theorem State.hlog_gauges (s : State) (r) : (s.hlog r).gauges = s.gauges := by
  simp [State.hlog]

@[simp] theorem State.undoOne_gauges (s : State) (c r) : (s.undoOne c r).gauges = s.gauges := by
  unfold State.undoOne
  split
  · split
    · simp
    · split
      · simp
      · split <;> rfl
  · simp

@[simp] theorem State.dropRecs_gauges (s : State) (c gone) : (s.dropRecs c gone).gauges = s.gauges := by
  simp [State.dropRecs]

@[simp] theorem State.rollback_gauges (s : State) (c p) : (s.rollback c p).2.gauges = s.gauges := by
  simp [State.rollback]

@[simp] theorem State.rollbackAll_gauges (s : State) (c p) : (s.rollbackAll c p).2.gauges = s.gauges := by
  simp [State.rollbackAll]

@[simp] theorem State.rollWindow_gauges (s : State) (t c w) : (s.rollWindow t c w).2.gauges = s.gauges := by
  simp [State.rollWindow]

theorem execUndowinOldestWrite_keeps {κ : Gauges} {s : State} {ctx value} (h : s.gauges = κ) : Ans.Keeps κ (execUndowinOldestWrite ctx value s) := by
  unfold execUndowinOldestWrite
  dsimp only
  simp [h]

theorem execUndoBlockMove_keeps {κ : Gauges} {s : State} {tile} (h : s.gauges = κ) : Ans.Keeps κ (execUndoBlockMove tile s) := by
  unfold execUndoBlockMove
  simp [h]

end Sys2Proof.Machine
end

section
/-! The gauges through the operations of Machine/Trap.lean. -/
namespace Sys2Proof.Machine
open Sys2Proof

@[simp] theorem State.copiesOf_gauges (s : State) (t serial f) : (s.copiesOf t serial f).gauges = s.gauges := State.gauges_of rfl rfl

@[simp] theorem State.unboard_gauges (s : State) (l) : (s.unboard l).gauges = s.gauges := by
  simp [State.unboard]

@[simp] theorem State.parkCopies_gauges (s : State) (t serial) : (s.parkCopies t serial).gauges = s.gauges := by
  simp [State.parkCopies]

@[simp] theorem State.reboard_gauges (s : State) (c) : (s.reboard c).1.gauges = s.gauges := by
  unfold State.reboard
  refine (gauges_foldl_fst (fun p a => ?_) _ _).trans ?_
  · split
    · rfl
    · split <;> rfl
  · rfl

@[simp] theorem State.unparkCopies_gauges (s : State) (k) : (s.unparkCopies k).gauges = s.gauges := by
  simp [State.unparkCopies]

@[simp] theorem State.answerWaits_gauges (s : State) (p v) : (s.answerWaits p v).gauges = s.gauges := State.gauges_of rfl rfl

@[simp] theorem State.saveTask_gauges (s : State) (t) : (s.saveTask t).gauges = s.gauges := by
  unfold State.saveTask
  split <;> simp

@[simp] theorem State.stopCopies_gauges (s : State) (t) : (s.stopCopies t).gauges = s.gauges := by
  simp [State.stopCopies]

theorem execPreemptStop_keeps {κ : Gauges} {s : State} {tile engine} (h : s.gauges = κ) : Ans.Keeps κ (execPreemptStop tile engine s) := by
  unfold execPreemptStop
  dsimp only
  split
  · exact .next h
  · simp [h]

@[simp] theorem State.askPreempt_gauges (s : State) (t) : (s.askPreempt t).gauges = s.gauges := State.gauges_of rfl rfl

theorem execPreemptTimeout_keeps {κ : Gauges} {s : State} {tile} (h : s.gauges = κ) : Ans.Keeps κ (execPreemptTimeout tile s) := by
  unfold execPreemptTimeout
  split
  · exact .next h
  · simp [h]

theorem execHangTimeout_keeps {κ : Gauges} {s : State} {tile} (h : s.gauges = κ) : Ans.Keeps κ (execHangTimeout tile s) := by
  unfold execHangTimeout
  dsimp only
  simp [h]

@[simp] theorem State.resumeStream_gauges (s : State) (t k) : (s.resumeStream t k).gauges = s.gauges := by
  simp [State.resumeStream]

@[simp] theorem State.resumeTask_gauges (s : State) (t q k) : (s.resumeTask t q k).gauges = s.gauges := by
  simp [State.resumeTask]

theorem execLotteryDraw_keeps {κ : Gauges} {s : State} {tile} (h : s.gauges = κ) : Ans.Keeps κ (execLotteryDraw tile s) := by
  unfold execLotteryDraw
  dsimp only
  split
  · exact .next h
  · split
    · exact .next h
    · split
      · exact .next h
      · split
        · exact .next (by simp [h])
        · split
          · exact .next (by simp [(State.reserveLen_keeps h).of_ok ‹_›])
          · exact .next h

theorem State.releaseLocks_gauges {s : State} {t k r} (h : s.releaseLocks t k = some r) : r.gauges = s.gauges := by
  refine gauges_foldr_option (κ := s.gauges) (fun o va ho u hu => ?_) _ (by simp) _ h
  obtain ⟨v, rfl, hv⟩ := Option.bind_eq_some_iff.mp hu
  have h := ho v rfl
  split at hv
  · cases hv
  · split at hv
    · split at hv
      · cases hv; exact h
      · split at hv
        · cases hv; simp [(State.reserve_keeps h).of_ok ‹_›]
        · cases hv
    · cases hv; exact h

theorem execTaskRetire_keeps {κ : Gauges} {s : State} {tile} (h : s.gauges = κ) : Ans.Keeps κ (execTaskRetire tile s) := by
  unfold execTaskRetire
  split
  · exact .next h
  · split
    · exact .next h
    · split
      · split
        · exact .next h
        · exact .next (by simp [h, State.releaseLocks_gauges ‹_›])
      · split
        · exact .next h
        · rename_i s3 e3
          obtain ⟨s2, e2, e3⟩ := Option.bind_eq_some_iff.mp e3
          obtain ⟨s1, e1, e2⟩ := Option.bind_eq_some_iff.mp e2
          exact .next (by simp [h, State.releaseLocks_gauges e3, State.taskRelease_gauges e2, State.taskRelease_gauges e1])

@[simp] theorem State.dropCopies_gauges (s : State) (t serial) : (s.dropCopies t serial).gauges = s.gauges := by
  simp [State.dropCopies]

@[simp] theorem State.fatalFrames_gauges (s : State) (t) : (s.fatalFrames t).gauges = s.gauges := by
  unfold State.fatalFrames
  refine (gauges_foldl (fun s a => ?_) _ _).trans ?_
  · dsimp only
    split
    · simp
    · rfl
  · rfl

@[simp] theorem State.rerunOrAbort_gauges (s : State) (t k again) : (s.rerunOrAbort t k again).gauges = s.gauges := by
  unfold State.rerunOrAbort
  dsimp only
  split
  · simp
  · split
    · rfl
    · split
      · simp
      · rfl

theorem State.removeTask_gauges {s : State} {t k roll} {r : State} (h : s.removeTask t k roll = some r) : r.gauges = s.gauges := by
  revert h
  unfold State.removeTask
  split
  · dsimp only
    rw [Option.map_eq_some_iff]
    rintro ⟨v, hv, rfl⟩
    simp [State.releaseLocks_gauges ‹_›]
  · dsimp only
    rw [Option.map_eq_some_iff]
    rintro ⟨v, hv, rfl⟩
    simp [State.releaseLocks_gauges ‹_›]

theorem State.removeSaved_gauges {s : State} {t q k} {r : State} (h : s.removeSaved t q k = some r) : r.gauges = s.gauges := by
  revert h
  unfold State.removeSaved
  dsimp only
  rw [Option.map_eq_some_iff]
  rintro ⟨v, hv, rfl⟩
  simp [State.releaseLocks_gauges ‹_›]

theorem execTaskRemoval_keeps {κ : Gauges} {s : State} {tile} (h : s.gauges = κ) : Ans.Keeps κ (execTaskRemoval tile s) := by
  unfold execTaskRemoval
  split
  · exact .next h
  · split
    · refine .next ?_
      refine gauges_getD (fun t ht => ?_) ?_
      · simp [State.removeSaved_gauges ‹_›, h]
      · exact h
    · split
      · exact .next h
      · split
        · exact .next h
        · dsimp only
          split
          · exact .next h
          · split
            · exact .next (by simp [State.removeTask_gauges ‹_›, h])
            · exact .next h

theorem execRerunSlotEntry_keeps {κ : Gauges} {s : State} {tile} (h : s.gauges = κ) : Ans.Keeps κ (execRerunSlotEntry tile s) := by
  unfold execRerunSlotEntry
  dsimp only
  split <;> split <;> simp [h]

theorem execTownWrite_keeps {κ : Gauges} {s : State} {tile value} (h : s.gauges = κ) : Ans.Keeps κ (execTownWrite tile value s) := by
  unfold execTownWrite
  dsimp only
  simp [h]

end Sys2Proof.Machine
end

section
/-! The gauges through the operations of Machine/Sched.lean. -/
namespace Sys2Proof.Machine
open Sys2Proof

@[simp] theorem State.modItin_gauges (s : State) (n f) : (s.modItin n f).gauges = s.gauges := by
  simp [State.modItin]

@[simp] theorem State.sramPut_gauges (s : State) (a n v) : (s.sramPut a n v).gauges = s.gauges := State.gauges_of rfl rfl

@[simp] theorem State.modControl_gauges (s : State) (a f) : (s.modControl a f).gauges = s.gauges := State.gauges_of rfl rfl

theorem execItinWrite_keeps {κ : Gauges} {s : State} {n word value} (h : s.gauges = κ) : Ans.Keeps κ (execItinWrite n word value s) := by
  unfold execItinWrite
  dsimp only
  split
  · exact .next h
  · split
    · split
      · exact .next (by rw [State.setReg_gauges, State.modItin_gauges, h])
      · exact .next (by simp [h])
    · exact .next (by simp [h])

@[simp] theorem State.journalAt_gauges (s : State) (kind itin node run tile q seq arg) : (s.journalAt kind itin node run tile q seq arg).gauges = s.gauges := by
  simp [State.journalAt]

@[simp] theorem State.checkpointJournal_gauges (s : State) : (s.checkpointJournal).gauges = s.gauges := by
  simp [State.checkpointJournal]

@[simp] theorem State.journalled_gauges (s : State) (kind itin node run tile q arg : Nat) (step : State → State)
    (hstep : ∀ t, (step t).gauges = t.gauges) : (s.journalled kind itin node run tile q arg step).gauges = s.gauges := by
  simp [State.journalled, hstep]

@[simp] theorem State.setPending_gauges (s : State) (i v) : (s.setPending i v).gauges = s.gauges := by
  simp [State.setPending]

@[simp] theorem State.kickItin_gauges (s : State) (i addr n) : (s.kickItin i addr n).gauges = s.gauges := by
  simp [State.kickItin]

@[simp] theorem State.patchOne_gauges (s : State) (e p) : (s.patchOne e p).gauges = s.gauges := State.gauges_of rfl rfl

@[simp] theorem State.patchApply_gauges (s : State) (e l) : (s.patchApply e l).gauges = s.gauges := by
  simp [State.patchApply]

@[simp] theorem State.readyNode_gauges (s : State) (i node) : (s.readyNode i node).gauges = s.gauges := by
  simp [State.readyNode]

@[simp] theorem State.countOut_gauges (s : State) (i node tile done) : (s.countOut i node tile done).gauges = s.gauges := by
  simp [State.countOut]

@[simp] theorem State.discardRun_gauges (s : State) (i) : (s.discardRun i).gauges = s.gauges := by
  unfold State.discardRun
  refine (gauges_foldl (fun s t => by simp) _ _).trans ((State.gauges_mk ..).trans (gauges_foldl (fun s p => ?_) _ _))
  split <;> simp

@[simp] theorem State.failRun_gauges (s : State) (i) : (s.failRun i).gauges = s.gauges := State.gauges_of rfl rfl

@[simp] theorem State.schedInc_gauges (s : State) (n) : (s.schedInc n).gauges = s.gauges := by
  unfold State.schedInc
  split <;> simp

@[simp] theorem State.endItinRun_gauges (s : State) (i) : (s.endItinRun i).gauges = s.gauges := by
  simp [State.endItinRun]

@[simp] theorem State.refusePush_gauges (s : State) (p c) : (s.refusePush p c).gauges = s.gauges := by
  simp [State.refusePush]

@[simp] theorem State.makePushes_gauges (s : State) (n) : (s.makePushes n).gauges = s.gauges := by
  induction n generalizing s with
  | zero => rfl
  | succ n ih =>
    unfold State.makePushes
    split
    · rfl
    · rename_i p rest _
      dsimp only
      generalize (p.seq.isSome && s.pushRepeated p) = again
      generalize (if again = true then none else s.pushRefused p) = refused
      split
      · rfl
      · split
        · rw [ih, State.refusePush_gauges]
          split <;> simp
        · rw [ih, State.gauges_mk, State.journalAt_gauges]
          cases p.seq <;> cases again <;> cases p.last <;> simp

@[simp] theorem State.endHold_gauges (s : State) : (s.endHold).gauges = s.gauges := by
  simp [State.endHold]

theorem execKickExpand_keeps {κ : Gauges} {s : State} (h : s.gauges = κ) : Ans.Keeps κ (execKickExpand s) := by
  unfold execKickExpand
  split
  · exact .next h
  · dsimp only
    split
    · exact .next (by simp [h])
    · split
      · exact .next (by simp [h])
      · simp [h]

@[simp] theorem State.releaseNode_gauges (s : State) (i node) : (s.releaseNode i node).gauges = s.gauges := by
  simp [State.releaseNode]

theorem execNoticeTake_keeps {κ : Gauges} {s : State} (h : s.gauges = κ) : Ans.Keeps κ (execNoticeTake s) := by
  unfold execNoticeTake
  split
  · exact .next h
  · split
    · exact .next (by simp [h])
    · dsimp only
      simp [h]

@[simp] theorem State.reapply_gauges (s : State) (w0 arg) : (s.reapply w0 arg).gauges = s.gauges := by
  unfold State.reapply
  split <;> simp

@[simp] theorem State.carryOut_gauges (s : State) (w0 seq arg) : (s.carryOut w0 seq arg).gauges = s.gauges := by
  unfold State.carryOut
  split <;> simp

@[simp] theorem State.replayJournal_gauges (s : State) : (s.replayJournal).gauges = s.gauges := by
  simp [State.replayJournal]

@[simp] theorem State.startSched_gauges (s : State) : (s.startSched).gauges = s.gauges := by
  simp [State.startSched]

@[simp] theorem State.putSchedCtl_gauges (s : State) (v) : (s.putSchedCtl v).gauges = s.gauges := by
  simp [State.putSchedCtl]

@[simp] theorem State.restartThread_gauges (s : State) (n arg) : (s.restartThread n arg).gauges = s.gauges := State.gauges_of rfl rfl

@[simp] theorem State.takeOver_gauges (s : State) : (s.takeOver).gauges = s.gauges := by
  simp [State.takeOver]

@[simp] theorem State.stopSched_gauges (s : State) : (s.stopSched).gauges = s.gauges := by
  simp [State.stopSched]

@[simp] theorem State.schedError_gauges (s : State) : (s.schedError).gauges = s.gauges := by
  simp [State.schedError]

theorem execSchedulerTakeover_keeps {κ : Gauges} {s : State} (h : s.gauges = κ) : Ans.Keeps κ (execSchedulerTakeover s) := by
  unfold execSchedulerTakeover
  simp [h]

theorem execSchedulerStop_keeps {κ : Gauges} {s : State} (h : s.gauges = κ) : Ans.Keeps κ (execSchedulerStop s) := by
  unfold execSchedulerStop
  simp [h]

theorem State.listOperand_keeps {κ : Gauges} {s : State} {a b n} (_h : s.gauges = κ) : (s.listOperand a b n).Keeps κ fun _ => True := by
  unfold State.listOperand
  dsimp only
  exact .bind Res.check_keeps fun _ _ => .bind Res.check_keeps fun _ _ => .bind Res.check_keeps fun _ _ => .ok trivial

theorem execKick_keeps {κ : Gauges} {s : State} {f} (h : s.gauges = κ) : Ans.Keeps κ (execKick f s) := by
  unfold execKick
  refine .finish h ?_
  refine .bind (State.cmdSrc_keeps h) fun _ _ => .bind (State.listOperand_keeps h) fun _ _ => ?_
  exact .bind (State.eventGate_keeps h) fun s0 hs0 => by simp [hs0]

theorem State.launchTask_keeps {κ : Gauges} {s : State} {c addr rect} (_h : s.gauges = κ) : (s.launchTask c addr rect).Keeps κ fun _ => True := by
  unfold State.launchTask
  dsimp only
  refine .bind Res.check_keeps fun _ _ => .bind Res.check_keeps fun _ _ => .bind Res.check_keeps fun _ _ => ?_
  exact .bind Res.check_keeps fun _ _ => .ok trivial

theorem State.launchAll_gauges {s : State} {rect q d} {r : State} (h : s.launchAll rect q d = some r) : r.gauges = s.gauges := by
  revert h
  unfold State.launchAll
  split
  · nofun
  · rintro ⟨⟩; simp

theorem execLaunch_keeps {κ : Gauges} {s : State} {f} (h : s.gauges = κ) : Ans.Keeps κ (execLaunch f s) := by
  unfold execLaunch
  refine .finish h ?_
  refine .bind (State.cmdSrc_keeps h) fun _ _ => .bind Res.check_keeps fun _ _ => .bind (State.launchTask_keeps h) fun _ _ => ?_
  refine .bind (State.eventGate_keeps h) fun s0 hs0 => ?_
  split
  · exact .ok (by simp [State.launchAll_gauges ‹_›, hs0])
  · exact .ok (by simp [hs0])

theorem execPatch_keeps {κ : Gauges} {s : State} {f} (h : s.gauges = κ) : Ans.Keeps κ (execPatch f s) := by
  unfold execPatch
  refine .finish h ?_
  refine .bind (State.onThread_keeps h) fun _ _ => .bind (State.cmdSrc_keeps h) fun _ _ => .bind (State.listOperand_keeps h) fun _ _ => ?_
  refine .bind (State.eventGate_keeps h) fun s0 hs0 => ?_
  dsimp only
  split
  · exact .ok (by simp [hs0])
  · exact .bind Res.check_keeps fun _ _ => .ok (by simp [hs0])

theorem execPatchM_keeps {κ : Gauges} {s : State} {f} (h : s.gauges = κ) : Ans.Keeps κ (execPatchM f s) := by
  unfold execPatchM
  refine .finish h ?_
  refine .bind (State.onThread_keeps h) fun _ _ => .bind (State.cmdSrc_keeps h) fun _ _ => ?_
  dsimp only
  refine .bind Res.check_keeps fun _ _ => .bind Res.check_keeps fun _ _ => ?_
  split
  · exact .bind (State.eventGate_keeps h) fun s0 hs0 => .ok (by simp [hs0])
  · exact .bind (State.readOperand_keeps h) fun r hr => .bind (State.eventGate_keeps hr) fun s0 hs0 => .ok (by simp [hs0])

theorem State.queueOperand_keeps {κ : Gauges} {s : State} {a} (h : s.gauges = κ) : (s.queueOperand a).Keeps κ fun _ => True := by
  unfold State.queueOperand
  exact .bind Res.check_keeps fun _ _ => .bind (State.own_keeps h) fun _ _ => .ok trivial

theorem execQctlTickets_keeps {κ : Gauges} {s : State} {f} (h : s.gauges = κ) : Ans.Keeps κ (execQctlTickets f s) := by
  unfold execQctlTickets
  refine .finish h ?_
  refine .bind (State.cmdSrc_keeps h) fun _ _ => .bind (State.queueOperand_keeps h) fun _ _ => .bind Res.check_keeps fun _ _ => ?_
  exact .ok (by simp [h])

theorem execQctlFlush_keeps {κ : Gauges} {s : State} {f} (h : s.gauges = κ) : Ans.Keeps κ (execQctlFlush f s) := by
  unfold execQctlFlush
  refine .finish h ?_
  refine .bind (State.cmdSrc_keeps h) fun _ _ => .bind (State.queueOperand_keeps h) fun _ _ => ?_
  dsimp only
  split
  · simp [h]
  · exact .ok (by simp [h])

theorem execQctlPreempt_keeps {κ : Gauges} {s : State} {f} (h : s.gauges = κ) : Ans.Keeps κ (execQctlPreempt f s) := by
  unfold execQctlPreempt
  refine .finish h ?_
  exact .bind (State.cmdSrc_keeps h) fun _ _ => .bind (State.queueOperand_keeps h) fun _ _ => .bind Res.check_keeps fun _ _ => by simp [h]

theorem execQctlRead_keeps {κ : Gauges} {s : State} {f} (h : s.gauges = κ) : Ans.Keeps κ (execQctlRead f s) := by
  unfold execQctlRead
  refine .finish h ?_
  exact .bind (State.cmdSrc_keeps h) fun _ _ => .bind (State.queueOperand_keeps h) fun _ _ => .ok (by simp [h])

end Sys2Proof.Machine
end

section
/-! The gauges through the operations of Machine/Message.lean. -/
namespace Sys2Proof.Machine
open Sys2Proof

theorem State.sendHorizon_keeps {κ : Gauges} {s : State} {c kind dest pseq bytes leaves} (h : s.gauges = κ) : (s.sendHorizon c kind dest pseq bytes leaves).Keeps κ (·.gauges = κ) := by
  unfold State.sendHorizon
  split
  · exact .ok h
  · exact .bind (State.reserve_keeps h) fun s1 hs1 => .ok (by simp [hs1])

@[simp] theorem State.endSend_gauges (s : State) (e bad) : (s.endSend e bad).gauges = s.gauges := by
  unfold State.endSend
  split
  · split
    · split <;> simp
    · split
      · simp
      · rfl
  · simp
  · split
    · simp
    · rfl

@[simp] theorem State.sendEnds_gauges (s : State) (id bad) : (s.sendEnds id bad).gauges = s.gauges := by
  unfold State.sendEnds
  split <;> simp

@[simp] theorem State.uetOut_gauges (s : State) (port peer write word off hdata data) : (s.uetOut port peer write word off hdata data).gauges = s.gauges := State.gauges_of rfl rfl

theorem State.sendOut_keeps {κ : Gauges} {s : State} {e g} (h : s.gauges = κ) : (s.sendOut e g).Keeps κ (·.gauges = κ) := by
  unfold State.sendOut
  dsimp only
  split
  · exact .bind (State.sendHorizon_keeps h) fun s1 hs1 => .ok (by simp [hs1])
  · exact .bind (State.sendHorizon_keeps h) fun s1 hs1 => .ok (by simp [hs1])

@[simp] theorem State.newSend_gauges (s : State) (f wait dcv a b) : (s.newSend f wait dcv a b).2.gauges = s.gauges := by
  simp [State.newSend]

theorem execUsend_keeps {κ : Gauges} {s : State} {f} (h : s.gauges = κ) : Ans.Keeps κ (execUsend f s) := by
  unfold execUsend
  refine .finish h ?_
  refine .bind (State.onThread_keeps h) fun _ _ => .bind (State.cmdSrc_keeps h) fun _ _ => .bind (State.readOperand_keeps h) fun r hr => ?_
  dsimp only
  refine .bind Res.check_keeps fun _ _ => .bind Res.check_keeps fun _ _ => .bind Res.check_keeps fun _ _ => ?_
  split
  · exact .stall h
  · split
    · exact .stall h
    · exact State.sendOut_keeps (by simp [hr])

theorem State.uputRes_keeps {κ : Gauges} {s : State} {f} (h : s.gauges = κ) : (s.uputRes f).Keeps κ (·.gauges = κ) := by
  unfold State.uputRes
  refine .bind (State.onThread_keeps h) fun _ _ => .bind (State.cmdSrc_keeps h) fun _ _ => .bind (State.readOperand_keeps h) fun r hr => ?_
  dsimp only
  refine .bind Res.check_keeps fun _ _ => .bind Res.check_keeps fun _ _ => .bind Res.check_keeps fun _ _ => ?_
  split
  · exact .stall h
  · split
    · simp [(State.sendHorizon_keeps rfl).of_ok ‹_›, hr]
    · exact .stall h
    · exact State.sendHorizon_keeps (by simp [hr])

theorem execUputRma_keeps {κ : Gauges} {s : State} {f} (h : s.gauges = κ) : Ans.Keeps κ (execUputRma f s) := by
  unfold execUputRma
  exact .finish h (State.uputRes_keeps h)

theorem execUputHost_keeps {κ : Gauges} {s : State} {f} (h : s.gauges = κ) : Ans.Keeps κ (execUputHost f s) := by
  unfold execUputHost
  exact .finish h (State.uputRes_keeps h)

theorem State.recvRes_keeps {κ : Gauges} {s : State} {f wait} (h : s.gauges = κ) : (s.recvRes f wait).Keeps κ (·.gauges = κ) := by
  unfold State.recvRes
  refine .bind (State.onThread_keeps h) fun _ _ => .bind (State.cmdSrc_keeps h) fun _ _ => ?_
  dsimp only
  refine .bind (State.acqHeld_keeps h) fun _ _ => .bind Res.check_keeps fun _ _ => ?_
  split
  · exact .stall h
  · refine .bind (State.eventGate_keeps h) fun s0 hs0 => ?_
    split
    · simp [hs0]
    · exact .bind (State.uxTake_keeps hs0) fun p hp => .ok (by simp [hp])

theorem execMrecv_keeps {κ : Gauges} {s : State} {f} (h : s.gauges = κ) : Ans.Keeps κ (execMrecv f s) := by
  unfold execMrecv
  exact .finish h (State.recvRes_keeps h)

theorem execMpoll_keeps {κ : Gauges} {s : State} {f} (h : s.gauges = κ) : Ans.Keeps κ (execMpoll f s) := by
  unfold execMpoll
  exact .finish h (State.recvRes_keeps h)

theorem execMreply_keeps {κ : Gauges} {s : State} {f} (h : s.gauges = κ) : Ans.Keeps κ (execMreply f s) := by
  unfold execMreply
  refine .finish h ?_
  refine .bind (State.onThread_keeps h) fun _ _ => .bind (State.cmdSrc_keeps h) fun _ _ => ?_
  dsimp only
  refine .bind Res.check_keeps fun _ _ => ?_
  split
  · exact .raise
  · refine .bind Res.check_keeps fun _ _ => .bind Res.check_keeps fun _ _ => .bind (State.readOperand_keeps h) fun r hr => ?_
    split
    · exact .stall h
    · exact State.sendOut_keeps (by simp [hr])

theorem execMdone_keeps {κ : Gauges} {s : State} {x0} (h : s.gauges = κ) : Ans.Keeps κ (execMdone x0 s) := by
  unfold execMdone
  refine .finish h ?_
  exact .bind (State.onThread_keeps h) fun _ _ => State.endRunRes_keeps h

theorem execUetDelivery_keeps {κ : Gauges} {s : State} {send ok} (h : s.gauges = κ) : Ans.Keeps κ (execUetDelivery send ok s) := by
  unfold execUetDelivery
  exact .next (by simp [h])

theorem execHostWriteAccepted_keeps {κ : Gauges} {s : State} (h : s.gauges = κ) : Ans.Keeps κ (execHostWriteAccepted s) := by
  unfold execHostWriteAccepted
  split
  · exact .next h
  · dsimp only
    refine .next ?_
    split
    · simp [h]
    · exact h

end Sys2Proof.Machine
end

section
/-! The gauges through the operations of Machine/Actions.lean. -/
namespace Sys2Proof.Machine
open Sys2Proof

@[simp] theorem State.actionNext_gauges (s : State) : (s.actionNext).gauges = s.gauges := by
  unfold State.actionNext
  split <;> simp

@[simp] theorem State.actionStop_gauges (s : State) (c) : (s.actionStop c).gauges = s.gauges := by
  unfold State.actionStop
  split <;> simp

theorem State.action_keeps {κ : Gauges} {s : State} {ty : Nat} {go : Firing → BitVec 256 → Res State} (h : s.gauges = κ)
    (hgo : ∀ f a, (go f a).Keeps κ (·.gauges = κ)) : Ans.Keeps κ (s.action ty go) := by
  unfold State.action
  split
  · exact .next h
  · rename_i f _ _
    have hk : ((Res.check (!actionBad (nth 0 f.acts f.next)) .rsvField).bind fun _ => go f (nth 0 f.acts f.next)).Keeps κ (·.gauges = κ) :=
      .bind Res.check_keeps fun _ _ => hgo _ _
    dsimp only
    split
    · exact .next h
    · split
      · exact .next (by simp [hk.of_ok ‹_›])
      · exact .next (hk.of_stall ‹_›)
      · exact .next (by simp [h])
      · exact .next (by simp [h])
      · exact .fault

theorem State.actionWindow_keeps {κ : Gauges} {s : State} {rx w c off n} (_h : s.gauges = κ) : (s.actionWindow rx w c off n).Keeps κ fun _ => True := by
  unfold State.actionWindow
  dsimp only
  exact .bind Res.check_keeps fun _ _ => Res.check_keeps

theorem execActionLaunch_keeps {κ : Gauges} {s : State} (h : s.gauges = κ) : Ans.Keeps κ (execActionLaunch s) := by
  unfold execActionLaunch
  refine State.action_keeps h fun f a => .bind (State.launchTask_keeps h) fun _ _ => ?_
  split
  · exact .ok (by simp [State.launchAll_gauges ‹_›, h])
  · exact .raise

theorem execActionCopy_keeps {κ : Gauges} {s : State} (h : s.gauges = κ) : Ans.Keeps κ (execActionCopy s) := by
  unfold execActionCopy
  refine State.action_keeps h fun f a => ?_
  dsimp only
  refine .bind Res.check_keeps fun _ _ => ?_
  split
  · exact .stall h
  · split
    · exact .stall h
    · split
      · exact .stall h
      · exact .ok (by simp [State.takeBoard_gauges ‹_›, h])

theorem execActionSend_keeps {κ : Gauges} {s : State} (h : s.gauges = κ) : Ans.Keeps κ (execActionSend s) := by
  unfold execActionSend
  refine State.action_keeps h fun f a => ?_
  dsimp only
  refine .bind Res.check_keeps fun _ _ => .bind Res.check_keeps fun _ _ => .bind (State.actionWindow_keeps h) fun _ _ => ?_
  split
  · exact .stall h
  · exact State.sendOut_keeps (by simp [h])

theorem execActionRst_keeps {κ : Gauges} {s : State} (h : s.gauges = κ) : Ans.Keeps κ (execActionRst s) := by
  unfold execActionRst
  refine State.action_keeps h fun f a => ?_
  dsimp only
  refine .bind Res.check_keeps fun _ _ => .bind (State.actionWindow_keeps h) fun _ _ => .bind (State.actionWindow_keeps h) fun _ _ => ?_
  split
  · exact .stall h
  · split
    · exact .stall h
    · split
      · exact .raise
      · exact .bind (State.reserveRing_keeps h) fun s1 hs1 => .ok hs1

theorem execActionInc_keeps {κ : Gauges} {s : State} (h : s.gauges = κ) : Ans.Keeps κ (execActionInc s) := by
  unfold execActionInc
  refine State.action_keeps h fun f a => ?_
  dsimp only
  exact .bind Res.check_keeps fun _ _ => .ok (by simp [h])

theorem execActionKick_keeps {κ : Gauges} {s : State} (h : s.gauges = κ) : Ans.Keeps κ (execActionKick s) := by
  unfold execActionKick
  exact State.action_keeps h fun f a => .bind Res.check_keeps fun _ _ => .bind Res.check_keeps fun _ _ => .ok (by rw [State.kickItin_gauges, h])

theorem execActionThread_keeps {κ : Gauges} {s : State} (h : s.gauges = κ) : Ans.Keeps κ (execActionThread s) := by
  unfold execActionThread
  refine State.action_keeps h fun f a => ?_
  dsimp only
  simp [h]

theorem State.ferryRelease_keeps {κ : Gauges} {s : State} {r} (h : s.gauges = κ) : (s.ferryRelease r).Keeps κ (·.gauges = κ) := by
  unfold State.ferryRelease
  dsimp only
  split
  · exact .stall h
  · split
    · exact .ok (by simp [h])
    · split
      · exact .ok (by simp [h])
      · exact .bind (State.reserve_keeps h) fun s1 hs1 => .ok (by simp [hs1])

@[simp] theorem State.ferryReleases_gauges (s : State) : (s.ferryReleases).gauges = s.gauges := by
  unfold State.ferryReleases
  split
  · rfl
  · split
    · simp [(State.ferryRelease_keeps rfl).of_ok ‹_›]
    · simp [(State.ferryRelease_keeps rfl).of_stall ‹_›]
    · rfl

theorem execActionRel_keeps {κ : Gauges} {s : State} (h : s.gauges = κ) : Ans.Keeps κ (execActionRel s) := by
  unfold execActionRel
  refine State.action_keeps h fun f a => ?_
  dsimp only
  split
  · exact .stall h
  · split
    · exact .raise
    · refine .bind Res.check_keeps fun _ _ => ?_
      split
      · split
        · exact .ok (by simp [(State.ferryRelease_keeps rfl).of_stall ‹_›, h])
        · exact State.ferryRelease_keeps (by simp [h])
      · exact .ok h

theorem execThreadDispatch_keeps {κ : Gauges} {s : State} {group} (h : s.gauges = κ) : Ans.Keeps κ (execThreadDispatch group s) := by
  unfold execThreadDispatch
  split
  · dsimp only
    exact .next h
  · exact .next h

theorem execThreadWatchdog_keeps {κ : Gauges} {s : State} {thread} (h : s.gauges = κ) : Ans.Keeps κ (execThreadWatchdog thread s) := by
  unfold execThreadWatchdog
  dsimp only
  simp [h]

end Sys2Proof.Machine
end

section
/-! The gauges through the operations of Machine/Atomic.lean. -/
namespace Sys2Proof.Machine
open Sys2Proof

theorem State.amoRes_keeps {κ : Gauges} {s : State} {f func} (h : s.gauges = κ) : (s.amoRes f func).Keeps κ (·.gauges = κ) := by
  unfold State.amoRes
  dsimp only
  refine .bind (State.acqHeld_keeps h) fun _ _ => .bind (State.src_keeps h) fun _ _ => .bind (State.src_keeps h) fun _ _ => ?_
  refine .bind (P := fun _ => True) ?_ fun _ _ => ?_
  · split
    · exact State.src_keeps h
    · exact .ok trivial
  · refine .bind (State.dst_keeps h) fun _ _ => .bind (State.locate_keeps h) fun r hr => ?_
    split
    · refine .bind (State.boardClear_keeps hr) fun _ _ => .bind (State.grant_keeps hr) fun s1 hs1 => ?_
      split
      · exact .ok (by simp [hs1])
      · exact .bind (State.reserve_keeps hs1) fun s2 hs2 => .ok (by simp [hs2])
    · split
      · exact .stall h
      · exact .bind (State.reserve_keeps hr) fun s1 hs1 => .ok (by simp [hs1])
    · exact .raise

theorem execAmoadd_keeps {κ : Gauges} {s : State} {f} (h : s.gauges = κ) : Ans.Keeps κ (execAmoadd f s) := by
  unfold execAmoadd
  exact .finish h (State.amoRes_keeps h)

theorem execAmoand_keeps {κ : Gauges} {s : State} {f} (h : s.gauges = κ) : Ans.Keeps κ (execAmoand f s) := by
  unfold execAmoand
  exact .finish h (State.amoRes_keeps h)

theorem execAmoor_keeps {κ : Gauges} {s : State} {f} (h : s.gauges = κ) : Ans.Keeps κ (execAmoor f s) := by
  unfold execAmoor
  exact .finish h (State.amoRes_keeps h)

theorem execAmoxor_keeps {κ : Gauges} {s : State} {f} (h : s.gauges = κ) : Ans.Keeps κ (execAmoxor f s) := by
  unfold execAmoxor
  exact .finish h (State.amoRes_keeps h)

theorem execAmomin_keeps {κ : Gauges} {s : State} {f} (h : s.gauges = κ) : Ans.Keeps κ (execAmomin f s) := by
  unfold execAmomin
  exact .finish h (State.amoRes_keeps h)

theorem execAmomax_keeps {κ : Gauges} {s : State} {f} (h : s.gauges = κ) : Ans.Keeps κ (execAmomax f s) := by
  unfold execAmomax
  exact .finish h (State.amoRes_keeps h)

theorem execAmominn_keeps {κ : Gauges} {s : State} {f} (h : s.gauges = κ) : Ans.Keeps κ (execAmominn f s) := by
  unfold execAmominn
  exact .finish h (State.amoRes_keeps h)

theorem execAmomaxn_keeps {κ : Gauges} {s : State} {f} (h : s.gauges = κ) : Ans.Keeps κ (execAmomaxn f s) := by
  unfold execAmomaxn
  exact .finish h (State.amoRes_keeps h)

theorem execAmoswap_keeps {κ : Gauges} {s : State} {f} (h : s.gauges = κ) : Ans.Keeps κ (execAmoswap f s) := by
  unfold execAmoswap
  exact .finish h (State.amoRes_keeps h)

theorem execAmocas_keeps {κ : Gauges} {s : State} {f} (h : s.gauges = κ) : Ans.Keeps κ (execAmocas f s) := by
  unfold execAmocas
  exact .finish h (State.amoRes_keeps h)

theorem execAmoaddI32_keeps {κ : Gauges} {s : State} {f} (h : s.gauges = κ) : Ans.Keeps κ (execAmoaddI32 f s) := by
  unfold execAmoaddI32
  exact .finish h (State.amoRes_keeps h)

theorem execAmoandI32_keeps {κ : Gauges} {s : State} {f} (h : s.gauges = κ) : Ans.Keeps κ (execAmoandI32 f s) := by
  unfold execAmoandI32
  exact .finish h (State.amoRes_keeps h)

theorem execAmoorI32_keeps {κ : Gauges} {s : State} {f} (h : s.gauges = κ) : Ans.Keeps κ (execAmoorI32 f s) := by
  unfold execAmoorI32
  exact .finish h (State.amoRes_keeps h)

theorem execAmoxorI32_keeps {κ : Gauges} {s : State} {f} (h : s.gauges = κ) : Ans.Keeps κ (execAmoxorI32 f s) := by
  unfold execAmoxorI32
  exact .finish h (State.amoRes_keeps h)

theorem execAmominI32_keeps {κ : Gauges} {s : State} {f} (h : s.gauges = κ) : Ans.Keeps κ (execAmominI32 f s) := by
  unfold execAmominI32
  exact .finish h (State.amoRes_keeps h)

theorem execAmomaxI32_keeps {κ : Gauges} {s : State} {f} (h : s.gauges = κ) : Ans.Keeps κ (execAmomaxI32 f s) := by
  unfold execAmomaxI32
  exact .finish h (State.amoRes_keeps h)

theorem execAmominnN32_keeps {κ : Gauges} {s : State} {f} (h : s.gauges = κ) : Ans.Keeps κ (execAmominnN32 f s) := by
  unfold execAmominnN32
  exact .finish h (State.amoRes_keeps h)

theorem execAmomaxnN32_keeps {κ : Gauges} {s : State} {f} (h : s.gauges = κ) : Ans.Keeps κ (execAmomaxnN32 f s) := by
  unfold execAmomaxnN32
  exact .finish h (State.amoRes_keeps h)

theorem execAmoswapI32_keeps {κ : Gauges} {s : State} {f} (h : s.gauges = κ) : Ans.Keeps κ (execAmoswapI32 f s) := by
  unfold execAmoswapI32
  exact .finish h (State.amoRes_keeps h)

theorem execAmocasI32_keeps {κ : Gauges} {s : State} {f} (h : s.gauges = κ) : Ans.Keeps κ (execAmocasI32 f s) := by
  unfold execAmocasI32
  exact .finish h (State.amoRes_keeps h)

theorem execAmofaddF32_keeps {κ : Gauges} {s : State} {f} (h : s.gauges = κ) : Ans.Keeps κ (execAmofaddF32 f s) := by
  unfold execAmofaddF32
  exact .finish h (State.amoRes_keeps h)

end Sys2Proof.Machine
end

section
/-! The gauges through the operations of Machine/Power.lean. -/
namespace Sys2Proof.Machine
open Sys2Proof

@[simp] theorem State.setRate_gauges (s : State) (c) : (s.setRate c).gauges = s.gauges := by
  simp [State.setRate]

@[simp] theorem State.setRates_gauges (s : State) : (s.setRates).gauges = s.gauges := by
  simp [State.setRates]

theorem execEnergyRefill_keeps {κ : Gauges} {s : State} (h : s.gauges = κ) : Ans.Keeps κ (execEnergyRefill s) := by
  unfold execEnergyRefill
  simp [h]

@[simp] theorem State.powerStatus_gauges (s : State) : (s.powerStatus).gauges = s.gauges := State.gauges_of rfl rfl

@[simp] theorem State.gather_gauges (s : State) (off n) : (s.gather off n).gauges = s.gauges := by
  unfold State.gather
  rfl

@[simp] theorem State.gatherPeriod_gauges (s : State) : (s.gatherPeriod).gauges = s.gauges := by
  simp [State.gatherPeriod]

@[simp] theorem State.trip_gauges (s : State) : (s.trip).gauges = s.gauges := by
  unfold State.trip
  split <;> rfl

@[simp] theorem State.setTemp_gauges (s : State) (die degrees) : (s.setTemp die degrees).gauges = s.gauges := by
  unfold State.setTemp
  split
  · dsimp only
    refine (State.trip_gauges ..).trans ?_
    rfl
  · rfl

theorem execThermalHot_keeps {κ : Gauges} {s : State} {die degrees} (h : s.gauges = κ) : Ans.Keeps κ (execThermalHot die degrees s) := by
  unfold execThermalHot
  exact .next (by simp [h])

theorem execThermtrip_keeps {κ : Gauges} {s : State} {die} (h : s.gauges = κ) : Ans.Keeps κ (execThermtrip die s) := by
  unfold execThermtrip
  exact .next (by simp [h])

theorem execLifetimeRewrite_keeps {κ : Gauges} {s : State} {floor} (h : s.gauges = κ) : Ans.Keeps κ (execLifetimeRewrite floor s) := by
  unfold execLifetimeRewrite
  extract_lets p
  split
  · exact .next h
  · refine .next (Eq.trans ?_ h)
    refine State.gauges_withPkg s _ ?_ ?_ ?_ <;> rfl

@[simp] theorem State.attest_gauges (s : State) (nonce i3c) : (s.attest nonce i3c).gauges = s.gauges := by
  unfold State.attest
  split <;> rfl

theorem execAttestationRequest_keeps {κ : Gauges} {s : State} {nonce} (h : s.gauges = κ) : Ans.Keeps κ (execAttestationRequest nonce s) := by
  unfold execAttestationRequest
  exact .next (by simp [h])

theorem execAttestationReportSigned_keeps {κ : Gauges} {s : State} (h : s.gauges = κ) : Ans.Keeps κ (execAttestationReportSigned s) := by
  unfold execAttestationReportSigned
  split
  · exact .next h
  · dsimp only
    exact .next h

@[simp] theorem State.i3cRead_gauges (s : State) (off n) : (s.i3cRead off n).gauges = s.gauges := State.gauges_of rfl rfl

theorem execSetdasa_keeps {κ : Gauges} {s : State} {static dynamic} (h : s.gauges = κ) : Ans.Keeps κ (execSetdasa static dynamic s) := by
  unfold execSetdasa
  split <;> exact .next h

theorem execEntdaa_keeps {κ : Gauges} {s : State} {dynamic} (h : s.gauges = κ) : Ans.Keeps κ (execEntdaa dynamic s) := by
  unfold execEntdaa
  split <;> exact .next h

end Sys2Proof.Machine
end

section
/-! The gauges through the operations of Machine/Context.lean. -/
namespace Sys2Proof.Machine
open Sys2Proof

@[simp] theorem State.setMstate_gauges (s : State) (c v) : (s.setMstate c v).gauges = s.gauges := by
  simp [State.setMstate]

theorem execContextCreate_keeps {κ : Gauges} {s : State} {ctx} (h : s.gauges = κ) : Ans.Keeps κ (execContextCreate ctx s) := by
  unfold execContextCreate
  simp [h]

@[simp] theorem State.failTasks_gauges (s : State) (c why) : (s.failTasks c why).gauges = s.gauges := State.gauges_of rfl rfl

theorem execSaveAreaLost_keeps {κ : Gauges} {s : State} {ctx off} (h : s.gauges = κ) : Ans.Keeps κ (execSaveAreaLost ctx off s) := by
  unfold execSaveAreaLost
  simp [h]

@[simp] theorem State.unpin_gauges (s : State) (c va) : (s.unpin c va).gauges = s.gauges := by
  unfold State.unpin
  split <;> simp

@[simp] theorem State.dissolve_gauges (s : State) (c) : (s.dissolve c).gauges = s.gauges := by
  simp [State.dissolve]

theorem execContextDestroy_keeps {κ : Gauges} {s : State} {ctx} (h : s.gauges = κ) : Ans.Keeps κ (execContextDestroy ctx s) := by
  unfold execContextDestroy
  simp [h]

@[simp] theorem State.windowError_gauges (s : State) (kind index) : (s.windowError kind index).gauges = s.gauges := by
  simp [State.windowError]

@[simp] theorem State.putWindow_gauges (s : State) (rx n v) : (s.putWindow rx n v).gauges = s.gauges := by
  simp [State.putWindow]

theorem execWindowEntryWrite_keeps {κ : Gauges} {s : State} {rx n value} (h : s.gauges = κ) : Ans.Keeps κ (execWindowEntryWrite rx n value s) := by
  unfold execWindowEntryWrite
  exact .next (by simp [h])

@[simp] theorem State.putTxdst_gauges (s : State) (n v) : (s.putTxdst n v).gauges = s.gauges := by
  simp [State.putTxdst]

theorem execTxdstWrite_keeps {κ : Gauges} {s : State} {n value} (h : s.gauges = κ) : Ans.Keeps κ (execTxdstWrite n value s) := by
  unfold execTxdstWrite
  exact .next (by simp [h])

end Sys2Proof.Machine
end

section
/-! The gauges through the operations of Machine/Bar.lean. -/
namespace Sys2Proof.Machine
open Sys2Proof

@[simp] theorem State.barRead_gauges (s : State) (off m) : (s.barRead off m).2.gauges = s.gauges := by
  simp [State.barRead]

@[simp] theorem State.putGeom_gauges (s : State) (v) : (s.putGeom v).gauges = s.gauges := by
  simp [State.putGeom]

@[simp] theorem State.putXlatCtl_gauges (s : State) (v) : (s.putXlatCtl v).gauges = s.gauges := State.gauges_of rfl rfl

@[simp] theorem State.putCengOwn_gauges (s : State) (n v) : (s.putCengOwn n v).gauges = s.gauges := by
  simp [State.putCengOwn]

@[simp] theorem State.endPlay_gauges (s : State) (c) : (s.endPlay c).gauges = s.gauges := State.gauges_of rfl rfl

@[simp] theorem State.putReplay_gauges (s : State) (c v) : (s.putReplay c v).gauges = s.gauges := by
  simp [State.putReplay]

@[simp] theorem State.putCtx_gauges (s : State) (c o v) : (s.putCtx c o v).gauges = s.gauges := by
  unfold State.putCtx
  split
  · split
    · dsimp only
      split
      · simp [(execContextCreate_keeps rfl).of_next ‹_›]
      · rfl
    · dsimp only
      split
      · simp [(execContextDestroy_keeps rfl).of_next ‹_›]
      · rfl
  · split
    · rfl
    · split
      · rfl
      · split
        · rfl
        · split
          · dsimp only
            split
            · simp [(execUndowinOldestWrite_keeps rfl).of_next ‹_›]
            · rfl
          · simp

@[simp] theorem State.putSys_gauges (s : State) (t n v) : (s.putSys t n v).gauges = s.gauges := by
  unfold State.putSys
  split
  · rfl
  · split
    · rfl
    · split
      · rfl
      · split
        · rfl
        · split <;> rfl

@[simp] theorem State.putNonce_gauges (s : State) (at' bs) : (s.putNonce at' bs).gauges = s.gauges := by
  unfold State.putNonce
  split
  · dsimp only
    refine (State.attest_gauges ..).trans ?_
    rfl
  · rfl

@[simp] theorem State.barWrite_gauges (s : State) (off v) : (s.barWrite off v).gauges = s.gauges := by
  have done {a : Ans} : Ans.Keeps s.gauges a → State.gauges (match a with
      | .next s1 => s1
      | _ => s) = s.gauges := by
    intro ha
    cases ha with
    | next h => exact h
    | fault => rfl
    | refused => rfl
  unfold State.barWrite
  exact gauges_if (State.putGeom_gauges ..) <| gauges_if (State.putXlatCtl_gauges ..) <| gauges_if (State.setReg_gauges ..) <|
    gauges_if (State.putWindow_gauges ..) <| gauges_if (State.putTxdst_gauges ..) <| gauges_if (State.setReg_gauges ..) <|
    gauges_if (State.counterEvent_gauges ..) <| gauges_if (done (execItinWrite_keeps rfl)) <| gauges_if (State.putSchedCtl_gauges ..) <|
    gauges_if (State.setReg_gauges ..) <| gauges_if (done (execTownWrite_keeps rfl)) <| gauges_if (State.setReg_gauges ..) <|
    gauges_if (State.putCengOwn_gauges ..) <| gauges_if (gauges_if (State.gauges_mk ..) rfl) <| gauges_if (State.putCtx_gauges ..) <|
    gauges_if (State.putSys_gauges ..) <| gauges_if rfl (State.setReg_gauges ..)

@[simp] theorem State.barAccess_gauges (s : State) (off size write) : (s.barAccess off size write).gauges = s.gauges := by
  unfold State.barAccess
  dsimp only
  split
  · rfl
  · split <;> simp

theorem execBar0Access_keeps {κ : Gauges} {s : State} {off size write} (h : s.gauges = κ) : Ans.Keeps κ (execBar0Access off size write s) := by
  unfold execBar0Access
  exact .next (by simp [h])

theorem execStraitGeomWrite_keeps {κ : Gauges} {s : State} {value} (h : s.gauges = κ) : Ans.Keeps κ (execStraitGeomWrite value s) := by
  unfold execStraitGeomWrite
  exact .next (by simp [h])

theorem execXlatCtlWrite_keeps {κ : Gauges} {s : State} {value} (h : s.gauges = κ) : Ans.Keeps κ (execXlatCtlWrite value s) := by
  unfold execXlatCtlWrite
  exact .next h

theorem execCengOwnWrite_keeps {κ : Gauges} {s : State} {engine value} (h : s.gauges = κ) : Ans.Keeps κ (execCengOwnWrite engine value s) := by
  unfold execCengOwnWrite
  exact .next (by simp [h])

theorem execReplayPlayClear_keeps {κ : Gauges} {s : State} {ctx} (h : s.gauges = κ) : Ans.Keeps κ (execReplayPlayClear ctx s) := by
  unfold execReplayPlayClear
  simp [h]

theorem execRegisterWrite_keeps {κ : Gauges} {s : State} {off value} (h : s.gauges = κ) : Ans.Keeps κ (execRegisterWrite off value s) := by
  unfold execRegisterWrite
  exact .next (by simp [h])

theorem execRegisterReadClear_keeps {κ : Gauges} {s : State} {off} (h : s.gauges = κ) : Ans.Keeps κ (execRegisterReadClear off s) := by
  unfold execRegisterReadClear
  exact .next (by simp [h])

theorem execSlotTableUpdate_keeps {κ : Gauges} {s : State} {die} (h : s.gauges = κ) : Ans.Keeps κ (execSlotTableUpdate die s) := by
  unfold execSlotTableUpdate
  simp [h]

end Sys2Proof.Machine
end

section
/-! The gauges through the operations of Machine/Branch.lean. -/
namespace Sys2Proof.Machine
open Sys2Proof

@[simp] theorem State.branch_gauges (s : State) (off taken) : (s.branch off taken).gauges = s.gauges := by
  simp [State.branch]

theorem State.branchRes_keeps {κ : Gauges} {s : State} {f p} (h : s.gauges = κ) : (s.branchRes f p).Keeps κ (·.gauges = κ) := by
  unfold State.branchRes
  refine .bind (State.outsideBlock_keeps h) fun _ _ => .bind (State.src_keeps h) fun _ _ => .bind (State.src_keeps h) fun _ _ => ?_
  exact .ok (by simp [h])

theorem State.branchOneRes_keeps {κ : Gauges} {s : State} {f p} (h : s.gauges = κ) : (s.branchOneRes f p).Keeps κ (·.gauges = κ) := by
  unfold State.branchOneRes
  exact .bind (State.outsideBlock_keeps h) fun _ _ => .bind (State.src_keeps h) fun _ _ => .ok (by simp [h])

theorem execBeq_keeps {κ : Gauges} {s : State} {f} (h : s.gauges = κ) : Ans.Keeps κ (execBeq f s) := by
  unfold execBeq
  exact .finish h (State.branchRes_keeps h)

theorem execBne_keeps {κ : Gauges} {s : State} {f} (h : s.gauges = κ) : Ans.Keeps κ (execBne f s) := by
  unfold execBne
  exact .finish h (State.branchRes_keeps h)

theorem execBlt_keeps {κ : Gauges} {s : State} {f} (h : s.gauges = κ) : Ans.Keeps κ (execBlt f s) := by
  unfold execBlt
  exact .finish h (State.branchRes_keeps h)

theorem execBge_keeps {κ : Gauges} {s : State} {f} (h : s.gauges = κ) : Ans.Keeps κ (execBge f s) := by
  unfold execBge
  exact .finish h (State.branchRes_keeps h)

theorem execBltn_keeps {κ : Gauges} {s : State} {f} (h : s.gauges = κ) : Ans.Keeps κ (execBltn f s) := by
  unfold execBltn
  exact .finish h (State.branchRes_keeps h)

theorem execBgen_keeps {κ : Gauges} {s : State} {f} (h : s.gauges = κ) : Ans.Keeps κ (execBgen f s) := by
  unfold execBgen
  exact .finish h (State.branchRes_keeps h)

theorem execBz_keeps {κ : Gauges} {s : State} {f} (h : s.gauges = κ) : Ans.Keeps κ (execBz f s) := by
  unfold execBz
  exact .finish h (State.branchOneRes_keeps h)

theorem execBnz_keeps {κ : Gauges} {s : State} {f} (h : s.gauges = κ) : Ans.Keeps κ (execBnz f s) := by
  unfold execBnz
  exact .finish h (State.branchOneRes_keeps h)

theorem execBfull_keeps {κ : Gauges} {s : State} {f} (h : s.gauges = κ) : Ans.Keeps κ (execBfull f s) := by
  unfold execBfull
  refine .finish h ?_
  exact .bind (State.outsideBlock_keeps h) fun _ _ => .ok (by simp [h])

theorem execBempty_keeps {κ : Gauges} {s : State} {f} (h : s.gauges = κ) : Ans.Keeps κ (execBempty f s) := by
  unfold execBempty
  refine .finish h ?_
  exact .bind (State.outsideBlock_keeps h) fun _ _ => .ok (by simp [h])

theorem execJ_keeps {κ : Gauges} {s : State} {f} (h : s.gauges = κ) : Ans.Keeps κ (execJ f s) := by
  unfold execJ
  refine .finish h ?_
  exact .bind (State.outsideBlock_keeps h) fun _ _ => .ok (by simp [h])

theorem execJal_keeps {κ : Gauges} {s : State} {f} (h : s.gauges = κ) : Ans.Keeps κ (execJal f s) := by
  unfold execJal
  refine .finish h ?_
  exact .bind (State.outsideBlock_keeps h) fun _ _ => .bind (State.dst_keeps h) fun _ _ => .ok (by simp [h])

theorem execJr_keeps {κ : Gauges} {s : State} {f} (h : s.gauges = κ) : Ans.Keeps κ (execJr f s) := by
  unfold execJr
  refine .finish h ?_
  refine .bind (State.outsideBlock_keeps h) fun _ _ => .bind (State.src_keeps h) fun _ _ => .bind Res.check_keeps fun _ _ => ?_
  exact .ok (by simp [h])

theorem execJalr_keeps {κ : Gauges} {s : State} {f} (h : s.gauges = κ) : Ans.Keeps κ (execJalr f s) := by
  unfold execJalr
  refine .finish h ?_
  refine .bind (State.outsideBlock_keeps h) fun _ _ => .bind (State.src_keeps h) fun _ _ => .bind Res.check_keeps fun _ _ => ?_
  exact .bind (State.dst_keeps h) fun _ _ => .ok (by simp [h])

end Sys2Proof.Machine
end

section
/-! The gauges through the operations of Machine/Complete.lean. -/
namespace Sys2Proof.Machine
open Sys2Proof

@[simp] theorem State.giveOp_gauges (s : State) (w id v) : (s.giveOp w id v).gauges = s.gauges := by
  unfold State.giveOp
  split <;> simp

@[simp] theorem State.performAtomic_gauges (s : State) (e g w id) : (s.performAtomic e g w id).gauges = s.gauges := by
  unfold State.performAtomic
  split
  · dsimp only
    refine (State.giveOp_gauges ..).trans ?_
    split <;> simp
  · simp

@[simp] theorem State.performSegs_gauges (s : State) (e tile) : (s.performSegs e tile).2.gauges = s.gauges := by
  unfold State.performSegs
  refine (gauges_foldl_snd (fun p a => ?_) _ _).trans ?_
  · split <;> simp
  · rfl

@[simp] theorem State.performStore_gauges (s : State) (e) : (s.performStore e).gauges = s.gauges := by
  unfold State.performStore
  split
  · simp
  · split <;> split <;> simp

theorem execStorePerformed_keeps {κ : Gauges} {s : State} {n} (h : s.gauges = κ) : Ans.Keeps κ (execStorePerformed n s) := by
  unfold execStorePerformed
  split
  · exact .next h
  · split
    · exact .next h
    · dsimp only
      refine .next ?_
      refine (State.gauges_mk ..).trans ?_
      split <;> simp [h]

@[simp] theorem State.writeResult_gauges (s : State) (w id v) : (s.writeResult w id v).gauges = s.gauges := by
  unfold State.writeResult
  split
  · rfl
  · split <;> simp

theorem State.performRel_gauges {s : State} {w o va r} (h : s.performRel w o va = some r) : r.2.gauges = s.gauges := by
  revert h
  unfold State.performRel
  split
  · nofun
  · split
    · split
      · intro h
        obtain ⟨k, -, h⟩ := Option.bind_eq_some_iff.mp h
        obtain ⟨s1, h1, rfl⟩ := Option.map_eq_some_iff.mp h
        exact State.taskRelease_gauges h1
      · rintro ⟨⟩; rfl
    · split
      · rintro ⟨⟩; simp
      · rintro ⟨⟩; simp

theorem State.valueOf_gauges {s : State} {w o} {r} (h : s.valueOf w o = some r) : r.2.gauges = s.gauges := by
  revert h
  unfold State.valueOf
  split
  · rintro ⟨⟩; rfl
  · dsimp only
    split
    · nofun
    · rintro ⟨⟩; rfl
  · rintro ⟨⟩; simp
  · exact State.performRel_gauges
  · split
    · rintro ⟨⟩; rfl
    · nofun
  · nofun

@[simp] theorem State.raiseLate_gauges (s : State) (w k c info) : (s.raiseLate w k c info).gauges = s.gauges := by
  unfold State.raiseLate
  split <;> simp

@[simp] theorem State.loadAgain_gauges (s : State) (w o ea n signed) : (s.loadAgain w o ea n signed).gauges = s.gauges := by
  unfold State.loadAgain
  split
  · simp [(State.locate_keeps rfl).of_ok ‹_›]
  · simp
  · rfl

theorem execVariableResultWrite_keeps {κ : Gauges} {s : State} {who op} (h : s.gauges = κ) : Ans.Keeps κ (execVariableResultWrite who op s) := by
  unfold execVariableResultWrite
  split
  · exact .next h
  · split
    · exact .next h
    · split
      · exact .next (by simp [h])
      · split
        · exact .next (by simp [State.valueOf_gauges ‹_›, h])
        · exact .next h

theorem execAcqGrant_keeps {κ : Gauges} {s : State} {who op} (h : s.gauges = κ) : Ans.Keeps κ (execAcqGrant who op s) := by
  unfold execAcqGrant
  split
  · exact .next h
  · split
    · split
      · exact .next h
      · split
        · exact .next h
        · dsimp only
          split
          · simp [h]
          · split
            · exact .next (by simp [h])
            · split
              · exact .next h
              · split
                · exact .next (by simp [(State.reserve_keeps h).of_ok ‹_›])
                · exact .next h
    · exact .next h

theorem execAcqTimeout_keeps {κ : Gauges} {s : State} {who op} (h : s.gauges = κ) : Ans.Keeps κ (execAcqTimeout who op s) := by
  unfold execAcqTimeout
  split
  · exact .next h
  · dsimp only
    split
    · simp [h]
    · simp [h]
    · exact .next h

theorem execFenceRfTimeout_keeps {κ : Gauges} {s : State} {who} (h : s.gauges = κ) : Ans.Keeps κ (execFenceRfTimeout who s) := by
  unfold execFenceRfTimeout
  split
  · simp [h]
  · exact .next h

end Sys2Proof.Machine
end

section
/-! The gauges through the operations of Machine/Host.lean. -/
namespace Sys2Proof.Machine
open Sys2Proof

@[simp] theorem State.joinArrivals_gauges (s : State) (a) : (s.joinArrivals a).gauges = s.gauges := State.gauges_of rfl rfl

@[simp] theorem State.refuse_gauges (s : State) (port address) : (s.refuse port address).gauges = s.gauges := State.gauges_of rfl rfl

@[simp] theorem State.taggedSend_gauges (s : State) (r) : (s.taggedSend r).gauges = s.gauges := by
  unfold State.taggedSend
  split <;> simp

@[simp] theorem State.recordWrite_gauges (s : State) (rxw off data) : (s.recordWrite rxw off data).gauges = s.gauges := by
  simp [State.recordWrite]

theorem State.rmaWrite_keeps {κ : Gauges} {s : State} {r} (h : s.gauges = κ) : (s.rmaWrite r).Keeps κ (·.gauges = κ) := by
  unfold State.rmaWrite
  dsimp only
  split
  · exact .ok h
  · split
    · exact .ok (by simp [h])
    · split
      · exact .ok h
      · refine .bind (State.rxWrite_keeps h) fun s1 hs1 => ?_
        split <;> exact .ok (by simp [hs1])

theorem State.uetRequest_keeps {κ : Gauges} {s : State} {r} (h : s.gauges = κ) : (s.uetRequest r).Keeps κ (·.gauges = κ) := by
  unfold State.uetRequest
  split
  · exact .ok h
  · split
    · exact .ok h
    · split
      · exact .ok (by simp [h])
      · exact State.rmaWrite_keeps h
      · exact .ok h

theorem State.apertureWrite_keeps {κ : Gauges} {s : State} {i off data} (h : s.gauges = κ) : (s.apertureWrite i off data).Keeps κ (·.gauges = κ) := by
  unfold State.apertureWrite
  dsimp only
  split
  · exact .ok (by simp [h])
  · split
    · exact .stall h
    · exact .bind (State.rxWrite_keeps h) fun s1 hs1 => .ok (by simp [hs1])

theorem State.applyInput_keeps {κ : Gauges} {s : State} {x} (h : s.gauges = κ) : (s.applyInput x).Keeps κ (·.gauges = κ) := by
  unfold State.applyInput
  split
  · exact State.apertureWrite_keeps h
  · simp [h]
  · exact State.uetRequest_keeps h
  · exact State.morePacket_keeps h

@[simp] theorem State.liveInput_gauges (s : State) (x) : (s.liveInput x).gauges = s.gauges := by
  unfold State.liveInput
  split
  · rfl
  · split
    · simp [(State.applyInput_keeps rfl).of_ok ‹_›]
    · simp [(State.applyInput_keeps rfl).of_stall ‹_›]
    · rfl

@[simp] theorem State.retryInput_gauges (s : State) (n) : (s.retryInput n).gauges = s.gauges := by
  unfold State.retryInput
  split
  · rfl
  · split
    · simp [(State.applyInput_keeps rfl).of_ok ‹_›]
    · simp [(State.applyInput_keeps rfl).of_stall ‹_›]
    · rfl

theorem execTaggedSendArrival_keeps {κ : Gauges} {s : State} {r} (h : s.gauges = κ) : Ans.Keeps κ (execTaggedSendArrival r s) := by
  unfold execTaggedSendArrival
  exact .next (by simp [h])

theorem execRmaWriteArrival_keeps {κ : Gauges} {s : State} {r} (h : s.gauges = κ) : Ans.Keeps κ (execRmaWriteArrival r s) := by
  unfold execRmaWriteArrival
  exact .next (by simp [h])

theorem execContinuationPacket_keeps {κ : Gauges} {s : State} {pdc off data} (h : s.gauges = κ) : Ans.Keeps κ (execContinuationPacket pdc off data s) := by
  unfold execContinuationPacket
  exact .next (by simp [h])

theorem execUudPacket_keeps {κ : Gauges} {s : State} {x0} (h : s.gauges = κ) : Ans.Keeps κ (execUudPacket x0 s) := by
  unfold execUudPacket
  exact .next h

theorem execHostApertureWrite_keeps {κ : Gauges} {s : State} {aperture off data} (h : s.gauges = κ) : Ans.Keeps κ (execHostApertureWrite aperture off data s) := by
  unfold execHostApertureWrite
  exact .next (by simp [h])

theorem execDoorbell_keeps {κ : Gauges} {s : State} {page off data} (h : s.gauges = κ) : Ans.Keeps κ (execDoorbell page off data s) := by
  unfold execDoorbell
  simp [h]

theorem execHostUnsupportedRead_keeps {κ : Gauges} {s : State} {bar} (h : s.gauges = κ) : Ans.Keeps κ (execHostUnsupportedRead bar s) := by
  unfold execHostUnsupportedRead
  simp [h]

end Sys2Proof.Machine
end

section
/-! The gauges through the operations of Machine/Link.lean. -/
namespace Sys2Proof.Machine
open Sys2Proof

@[simp] theorem State.bumpLink_gauges (s : State) (n lo) : (s.bumpLink n lo).gauges = s.gauges := State.gauges_of rfl rfl

@[simp] theorem State.sendFlit_gauges (s : State) (n l f) : (s.sendFlit n l f).gauges = s.gauges := State.gauges_of rfl rfl

@[simp] theorem State.exhaust_gauges (s : State) (n) : (s.exhaust n).gauges = s.gauges := by
  simp [State.exhaust]

@[simp] theorem State.sendNak_gauges (s : State) (n reason) : (s.sendNak n reason).gauges = s.gauges := by
  simp [State.sendNak]

@[simp] theorem State.linkSend_gauges (s : State) (n) : (s.linkSend n).gauges = s.gauges := by
  unfold State.linkSend
  split
  · rfl
  · dsimp only
    split
    · simp
    · rfl
    · simp

@[simp] theorem State.goBackTo_gauges (s : State) (n q) : (s.goBackTo n q).gauges = s.gauges := by
  simp [State.goBackTo]

@[simp] theorem State.discardFlit_gauges (s : State) (n reason) : (s.discardFlit n reason).gauges = s.gauges := by
  simp [State.discardFlit]

@[simp] theorem State.takeData_gauges (s : State) (n f) : (s.takeData n f).gauges = s.gauges := by
  simp [State.takeData]

@[simp] theorem State.receiveFlit_gauges (s : State) (n f) : (s.receiveFlit n f).gauges = s.gauges := by
  simp [State.receiveFlit]

@[simp] theorem State.dropHeld_gauges (s : State) (n status) : (s.dropHeld n status).gauges = s.gauges := by
  simp [State.dropHeld]

@[simp] theorem State.setLink_gauges (s : State) (n st) : (s.setLink n st).gauges = s.gauges := by
  simp [State.setLink]

@[simp] theorem State.linkDown_gauges (s : State) (n dcause) : (s.linkDown n dcause).gauges = s.gauges := by
  simp [State.linkDown]

theorem execFlitReceive_keeps {κ : Gauges} {s : State} {link f} (h : s.gauges = κ) : Ans.Keeps κ (execFlitReceive link f s) := by
  unfold execFlitReceive
  exact .next (by simp [h])

theorem execNakReceive_keeps {κ : Gauges} {s : State} {link f} (h : s.gauges = κ) : Ans.Keeps κ (execNakReceive link f s) := by
  unfold execNakReceive
  simp [h]

theorem execNakResendTimeout_keeps {κ : Gauges} {s : State} {link} (h : s.gauges = κ) : Ans.Keeps κ (execNakResendTimeout link s) := by
  unfold execNakResendTimeout
  split
  · simp [h]
  · exact .next h

theorem execGoBackTimeout_keeps {κ : Gauges} {s : State} {link} (h : s.gauges = κ) : Ans.Keeps κ (execGoBackTimeout link s) := by
  unfold execGoBackTimeout
  split
  · simp [h]
  · exact .next h

theorem execNakExhausted_keeps {κ : Gauges} {s : State} {link} (h : s.gauges = κ) : Ans.Keeps κ (execNakExhausted link s) := by
  unfold execNakExhausted
  simp [h]

theorem execLossOfSignal_keeps {κ : Gauges} {s : State} {link} (h : s.gauges = κ) : Ans.Keeps κ (execLossOfSignal link s) := by
  unfold execLossOfSignal
  simp [h]

theorem execTrainingAttempt_keeps {κ : Gauges} {s : State} {link} (h : s.gauges = κ) : Ans.Keeps κ (execTrainingAttempt link s) := by
  unfold execTrainingAttempt
  dsimp only
  simp [h]

theorem execTrainingEnd_keeps {κ : Gauges} {s : State} {link locked} (h : s.gauges = κ) : Ans.Keeps κ (execTrainingEnd link locked s) := by
  unfold execTrainingEnd
  simp [h]

theorem execLendPeriodEnd_keeps {κ : Gauges} {s : State} {link} (h : s.gauges = κ) : Ans.Keeps κ (execLendPeriodEnd link s) := by
  unfold execLendPeriodEnd
  split
  · exact .next h
  · dsimp only
    split <;> exact .next h

theorem execLendReceive_keeps {κ : Gauges} {s : State} {link f} (h : s.gauges = κ) : Ans.Keeps κ (execLendReceive link f s) := by
  unfold execLendReceive
  simp [h]

end Sys2Proof.Machine
end

section
/-! The gauges through the operations of Machine/Strait.lean. -/
namespace Sys2Proof.Machine
open Sys2Proof

theorem State.headAt_gauges {s : State} {port want} {r} (h : s.headAt port want = some r) : r.2.gauges = s.gauges := by
  revert h
  unfold State.headAt
  rw [Option.map_eq_some_iff]
  rintro ⟨v, hv, rfl⟩
  simp

theorem State.takePacket_keeps {κ : Gauges} {s : State} {port : Nat} {want : Packet → Bool} {k : Packet → State → State} (h : s.gauges = κ)
    (hk : ∀ p t, t.gauges = κ → (k p t).gauges = κ) : Ans.Keeps κ (s.takePacket port want k) := by
  unfold State.takePacket
  split
  · exact .next h
  · have h1 := (State.headAt_gauges ‹_›).trans h
    split
    · exact .next h1
    · split
      · exact .next (by split <;> simp [h1])
      · exact .next (hk _ _ h1)

@[simp] theorem State.recordPacket_gauges (s : State) (c p) : (s.recordPacket c p).gauges = s.gauges := by
  simp [State.recordPacket]

@[simp] theorem State.setToken_gauges (s : State) (i t) : (s.setToken i t).gauges = s.gauges := State.gauges_of rfl rfl

@[simp] theorem State.sendQuery_gauges (s : State) (i landing origin mark q) : (s.sendQuery i landing origin mark q).gauges = s.gauges := by
  simp [State.sendQuery]

@[simp] theorem State.ask_gauges (s : State) (p) : (s.ask p).gauges = s.gauges := by
  unfold State.ask
  split
  · rfl
  · split
    · simp
    · split
      · simp
      · rfl

@[simp] theorem State.answerQuery_gauges (s : State) (asker origin) : (s.answerQuery asker origin).gauges = s.gauges := by
  simp [State.answerQuery]

@[simp] theorem State.answerQueries_gauges (s : State) (origin) : (s.answerQueries origin).gauges = s.gauges := by
  simp [State.answerQueries]

@[simp] theorem State.landed_gauges (s : State) (p) : (s.landed p).gauges = s.gauges := by
  simp [State.landed]

@[simp] theorem State.stageNote_gauges (s : State) (p) : (s.stageNote p).gauges = s.gauges := by
  simp [State.stageNote]

theorem State.deliver_keeps {κ : Gauges} {s : State} {p} (h : s.gauges = κ) : (s.deliver p).Keeps κ (·.gauges = κ) := by
  unfold State.deliver
  dsimp only
  split
  · exact .ok (by simp [h])
  · split
    · exact .ok (by simp [(State.rxWrite_keeps h).of_ok ‹_›])
    · exact .ok (by simp [h])
    · exact .ok (by simp [h])
    · exact .stall (by simp [(State.rxWrite_keeps h).of_stall ‹_›])
    · exact .fault

@[simp] theorem State.setHarbour_gauges (s : State) (port l) : (s.setHarbour port l).gauges = s.gauges := State.gauges_of rfl rfl

theorem State.releaseOne_gauges {s r : State} (h : s.releaseOne = some r) : r.gauges = s.gauges := by
  obtain ⟨port, -, h⟩ := List.exists_of_findSome?_eq_some h
  obtain ⟨p, -, h⟩ := List.exists_of_findSome?_eq_some h
  split at h
  · cases h
  · split at h
    · cases h; simp [(State.deliver_keeps rfl).of_ok ‹_›]
    · cases h

@[simp] theorem State.releaseHeld_gauges (n) (s : State) : (State.releaseHeld n s).gauges = s.gauges := by
  induction n generalizing s with
  | zero => rfl
  | succ n ih =>
    unfold State.releaseHeld
    split
    · exact (ih _).trans (State.releaseOne_gauges ‹_›)
    · rfl

@[simp] theorem State.tokensGo_gauges (s : State) : (s.tokensGo).gauges = s.gauges := by
  simp [State.tokensGo]

theorem State.pathPacket_gauges {κ : Gauges} {s s1 : State} {port p} (h : s.gauges = κ) (h1 : s1.gauges = κ) :
    (s.pathPacket port p s1).gauges = κ := by
  unfold State.pathPacket
  split
  · simp [h1]
  · dsimp only
    split
    · split
      · exact h
      · simp [h1]
    · split
      · exact h
      · split
        · simp [(State.deliver_keeps rfl).of_ok ‹_›, h1]
        · simp [(State.deliver_keeps rfl).of_stall ‹_›, h1]
        · exact h

theorem State.pathEvent_keeps {κ : Gauges} {s : State} {port pop} (h : s.gauges = κ) : Ans.Keeps κ (s.pathEvent port pop) := by
  have h0 : s.tokensGo.gauges = κ := by rw [State.tokensGo_gauges, h]
  unfold State.pathEvent
  dsimp only
  split
  · exact .next h0
  · have h1 := (State.headAt_gauges ‹_›).trans h0
    split
    · exact .next h0
    · split
      · exact .next h1
      · split
        · exact .next (by simp [h1])
        · exact .next (State.pathPacket_gauges h0 h1)

theorem execRstPacket_keeps {κ : Gauges} {s : State} {port} (h : s.gauges = κ) : Ans.Keeps κ (execRstPacket port s) := by
  unfold execRstPacket
  exact State.pathEvent_keeps h

theorem execRaccPacket_keeps {κ : Gauges} {s : State} {port} (h : s.gauges = κ) : Ans.Keeps κ (execRaccPacket port s) := by
  unfold execRaccPacket
  exact State.pathEvent_keeps h

theorem execMsgPacket_keeps {κ : Gauges} {s : State} {port} (h : s.gauges = κ) : Ans.Keeps κ (execMsgPacket port s) := by
  unfold execMsgPacket
  exact State.pathEvent_keeps h

theorem execPacketForward_keeps {κ : Gauges} {s : State} {port} (h : s.gauges = κ) : Ans.Keeps κ (execPacketForward port s) := by
  unfold execPacketForward
  split
  · exact .next h
  · simp [State.headAt_gauges ‹_›, h]

@[simp] theorem State.settle_gauges (s : State) (e status) : (s.settle e status).gauges = s.gauges := by
  unfold State.settle
  split
  · simp
  · split
    · rfl
    · simp
  · simp

@[simp] theorem State.applyAckPacket_gauges (s : State) (p which) : (s.applyAckPacket p which).gauges = s.gauges := by
  simp [State.applyAckPacket]

theorem execAckPacket_keeps {κ : Gauges} {s : State} {port} (h : s.gauges = κ) : Ans.Keeps κ (execAckPacket port s) := by
  unfold execAckPacket
  exact State.takePacket_keeps h fun p s1 h1 => by simp [h1]

theorem execTkqPacket_keeps {κ : Gauges} {s : State} {port} (h : s.gauges = κ) : Ans.Keeps κ (execTkqPacket port s) := by
  unfold execTkqPacket
  exact State.takePacket_keeps h fun p s1 h1 => by simp [h1]

@[simp] theorem State.learn_gauges (s : State) (landing origin m) : (s.learn landing origin m).gauges = s.gauges := by
  unfold State.learn
  split
  · rfl
  · split <;> rfl

@[simp] theorem State.applyTka_gauges (s : State) (p) : (s.applyTka p).gauges = s.gauges := by
  simp [State.applyTka]

theorem execTkaPacket_keeps {κ : Gauges} {s : State} {port} (h : s.gauges = κ) : Ans.Keeps κ (execTkaPacket port s) := by
  unfold execTkaPacket
  exact State.takePacket_keeps h fun p s1 h1 => by simp [h1]

theorem execTkqRetry_keeps {κ : Gauges} {s : State} {landing origin} (h : s.gauges = κ) : Ans.Keeps κ (execTkqRetry landing origin s) := by
  unfold execTkqRetry
  split
  · split
    · simp [h]
    · exact .next h
  · exact .next h

@[simp] theorem State.discardHeld_gauges (s : State) (port gone) : (s.discardHeld port gone).gauges = s.gauges := by
  simp [State.discardHeld]

theorem execTokenExpiry_keeps {κ : Gauges} {s : State} {port} (h : s.gauges = κ) : Ans.Keeps κ (execTokenExpiry port s) := by
  unfold execTokenExpiry
  split
  · exact .next h
  · dsimp only
    exact .next (by simp [h])

theorem execHoldQueueFull_keeps {κ : Gauges} {s : State} {port} (h : s.gauges = κ) : Ans.Keeps κ (execHoldQueueFull port s) := by
  unfold execHoldQueueFull
  dsimp only
  split
  · simp [h]
  · exact .next h

theorem execTokenTableFull_keeps {κ : Gauges} {s : State} (h : s.gauges = κ) : Ans.Keeps κ (execTokenTableFull s) := by
  unfold execTokenTableFull
  split
  · exact .next h
  · simp [h]

@[simp] theorem State.dropFenced_gauges (s : State) (c n) : (s.dropFenced c n).gauges = s.gauges := by
  simp [State.dropFenced]

@[simp] theorem State.fenceChip_gauges (s : State) (c) : (s.fenceChip c).gauges = s.gauges := by
  simp [State.fenceChip]

@[simp] theorem State.multicastFence_gauges (s : State) (c) : (s.multicastFence c).gauges = s.gauges := by
  simp [State.multicastFence]

theorem execFencePacket_keeps {κ : Gauges} {s : State} {port} (h : s.gauges = κ) : Ans.Keeps κ (execFencePacket port s) := by
  unfold execFencePacket
  exact State.takePacket_keeps h fun p s1 h1 => by simp [h1]

theorem execFenceClrPacket_keeps {κ : Gauges} {s : State} {port} (h : s.gauges = κ) : Ans.Keeps κ (execFenceClrPacket port s) := by
  unfold execFenceClrPacket
  exact State.takePacket_keeps h fun p s1 h1 => by simp [h1]

theorem execPathrstPacket_keeps {κ : Gauges} {s : State} {port} (h : s.gauges = κ) : Ans.Keeps κ (execPathrstPacket port s) := by
  unfold execPathrstPacket
  exact State.takePacket_keeps h fun p s1 h1 => by simp [h1]

end Sys2Proof.Machine
end

section
/-! The gauges through the operations of Machine/Wire.lean. -/
namespace Sys2Proof.Machine
open Sys2Proof

@[simp] theorem State.sendRed_gauges (s : State) (dst rid epoch block slot data) : (s.sendRed dst rid epoch block slot data).gauges = s.gauges := by
  simp [State.sendRed]

@[simp] theorem State.redResult_gauges (s : State) (engine block raw) : (s.redResult engine block raw).gauges = s.gauges := by
  unfold State.redResult
  split <;> simp

theorem State.applyRed_gauges {κ : Gauges} {s s1 : State} {p} (h : s.gauges = κ) (h1 : s1.gauges = κ) : (s.applyRed p s1).gauges = κ := by
  unfold State.applyRed
  dsimp only
  split
  · simp [h1]
  · refine gauges_if (by simp [h1]) <| gauges_if h <| gauges_if (by simp [h1]) <| gauges_if (gauges_if (by simp [h1]) (by simp [h1])) ?_
    split <;> simp [h1]

theorem execRedPacket_keeps {κ : Gauges} {s : State} {port} (h : s.gauges = κ) : Ans.Keeps κ (execRedPacket port s) := by
  unfold execRedPacket
  split
  · exact .next h
  · have h1 := (State.headAt_gauges ‹_›).trans h
    split
    · exact .next h1
    · split
      · exact .next h
      · exact .next (State.applyRed_gauges h h1)

end Sys2Proof.Machine
end

section
/-! The gauges through the operations of Machine/Xlat.lean. -/
namespace Sys2Proof.Machine
open Sys2Proof

@[simp] theorem State.dropTlb_gauges (s : State) (c va) : (s.dropTlb c va).gauges = s.gauges := State.gauges_of rfl rfl

@[simp] theorem State.sendSdown_gauges (s : State) (u dst direct) : (s.sendSdown u dst direct).gauges = s.gauges := by
  simp [State.sendSdown]

@[simp] theorem State.sendSdack_gauges (s : State) (u) : (s.sendSdack u).gauges = s.gauges := by
  simp [State.sendSdack]

@[simp] theorem State.setUpdate_gauges (s : State) (u) : (s.setUpdate u).gauges = s.gauges := State.gauges_of rfl rfl

@[simp] theorem State.dropUpdate_gauges (s : State) (u) : (s.dropUpdate u).gauges = s.gauges := State.gauges_of rfl rfl

@[simp] theorem State.sendDown_gauges (s : State) (u) : (s.sendDown u).gauges = s.gauges := by
  simp [State.sendDown]

@[simp] theorem State.applyUpdate_gauges (s : State) (u) : (s.applyUpdate u).gauges = s.gauges := by
  unfold State.applyUpdate
  split
  · rfl
  · split <;> split <;> simp

@[simp] theorem State.endUpdate_gauges (s : State) (u) : (s.endUpdate u).gauges = s.gauges := State.gauges_of rfl rfl

@[simp] theorem State.answerUp_gauges (s : State) (u) : (s.answerUp u).gauges = s.gauges := by
  simp [State.answerUp]

@[simp] theorem State.updateGo_gauges (s : State) (id) : (s.updateGo id).gauges = s.gauges := by
  unfold State.updateGo
  split
  · rfl
  · dsimp only
    split <;> simp

@[simp] theorem State.startUpdate_gauges (s : State) (ctx va kind level entry) : (s.startUpdate ctx va kind level entry).gauges = s.gauges := by
  simp [State.startUpdate]

@[simp] theorem State.applySdown_gauges (s : State) (p) : (s.applySdown p).gauges = s.gauges := by
  simp only [State.applySdown]
  split
  · simp
  · rw [State.updateGo_gauges]
    refine gauges_if ?_ ((State.sendDown_gauges ..).trans ?_) <;>
    · rw [State.gauges_mk, State.recordPacket_gauges]

theorem execSdownPacket_keeps {κ : Gauges} {s : State} {port} (h : s.gauges = κ) : Ans.Keeps κ (execSdownPacket port s) := by
  unfold execSdownPacket
  exact State.takePacket_keeps h fun p s1 h1 => by simp [h1]

@[simp] theorem State.applySdack_gauges (s : State) (p) : (s.applySdack p).gauges = s.gauges := by
  simp only [State.applySdack]
  split <;> simp

theorem execSdackPacket_keeps {κ : Gauges} {s : State} {port} (h : s.gauges = κ) : Ans.Keeps κ (execSdackPacket port s) := by
  unfold execSdackPacket
  exact State.takePacket_keeps h fun p s1 h1 => by simp [h1]

theorem execSdownNodeTimeout_keeps {κ : Gauges} {s : State} {id} (h : s.gauges = κ) : Ans.Keeps κ (execSdownNodeTimeout id s) := by
  unfold execSdownNodeTimeout
  split
  · exact .next h
  · dsimp only
    simp [h]

theorem execShootdownRootTimeout_keeps {κ : Gauges} {s : State} {id} (h : s.gauges = κ) : Ans.Keeps κ (execShootdownRootTimeout id s) := by
  unfold execShootdownRootTimeout
  split
  · exact .next h
  · dsimp only
    simp [h]

theorem execLeaseWaitExpiry_keeps {κ : Gauges} {s : State} {id} (h : s.gauges = κ) : Ans.Keeps κ (execLeaseWaitExpiry id s) := by
  unfold execLeaseWaitExpiry
  exact .next (by simp [h])

theorem State.xSrc_keeps {κ : Gauges} {s : State} {f} (h : s.gauges = κ) : (s.xSrc f).Keeps κ fun _ => True := by
  unfold State.xSrc
  refine .bind (State.onThread_keeps h) fun _ _ => .bind (State.cmdSrc_keeps h) fun _ _ => .bind (State.needSys_keeps h) fun _ _ => ?_
  exact .ok trivial

theorem execMapVa_keeps {κ : Gauges} {s : State} {f} (h : s.gauges = κ) : Ans.Keeps κ (execMapVa f s) := by
  unfold execMapVa
  refine .finish h ?_
  refine .bind (State.xSrc_keeps h) fun _ _ => ?_
  dsimp only
  refine .bind Res.check_keeps fun _ _ => .bind Res.check_keeps fun _ _ => ?_
  split
  · exact .ok (by simp [h])
  · exact .bind inHbm_keeps fun _ _ => .bind Res.check_keeps fun _ _ => by simp [h]

theorem execMapTensor_keeps {κ : Gauges} {s : State} {f} (h : s.gauges = κ) : Ans.Keeps κ (execMapTensor f s) := by
  unfold execMapTensor
  refine .finish h ?_
  refine .bind (State.xSrc_keeps h) fun _ _ => ?_
  dsimp only
  exact .bind Res.check_keeps fun _ _ => .bind (State.readOperand_keeps h) fun r hr => .bind Res.check_keeps fun _ _ => by simp [hr]

theorem State.chunkEntry_keeps {κ : Gauges} {s : State} {c a} (_h : s.gauges = κ) : (s.chunkEntry c a).Keeps κ fun _ => True := by
  unfold State.chunkEntry
  refine .bind Res.check_keeps fun _ _ => ?_
  dsimp only
  exact .bind Res.check_keeps fun _ _ => .bind Res.check_keeps fun _ _ => inHbm_keeps

theorem execMapChunk_keeps {κ : Gauges} {s : State} {f} (h : s.gauges = κ) : Ans.Keeps κ (execMapChunk f s) := by
  unfold execMapChunk
  refine .finish h ?_
  refine .bind (State.xSrc_keeps h) fun _ _ => ?_
  dsimp only
  refine .bind Res.check_keeps fun _ _ => .bind Res.check_keeps fun _ _ => .bind (State.chunkEntry_keeps h) fun _ _ => ?_
  exact .bind Res.check_keeps fun _ _ => by simp [h]

theorem execUnmapVa_keeps {κ : Gauges} {s : State} {f} (h : s.gauges = κ) : Ans.Keeps κ (execUnmapVa f s) := by
  unfold execUnmapVa
  refine .finish h ?_
  refine .bind (State.xSrc_keeps h) fun _ _ => ?_
  dsimp only
  refine .bind Res.check_keeps fun _ _ => ?_
  split
  · exact .ok (by simp [h])
  · refine .bind (P := fun _ => True) ?_ fun _ _ => ?_
    · split
      · exact .bind inHbm_keeps fun _ _ => Res.check_keeps
      · exact .ok trivial
    · exact .ok (by simp [h])

theorem execUnmapTensor_keeps {κ : Gauges} {s : State} {f} (h : s.gauges = κ) : Ans.Keeps κ (execUnmapTensor f s) := by
  unfold execUnmapTensor
  refine .finish h ?_
  refine .bind (State.xSrc_keeps h) fun _ _ => ?_
  dsimp only
  exact .bind Res.check_keeps fun _ _ => by simp [h]

theorem execUnmapChunk_keeps {κ : Gauges} {s : State} {f} (h : s.gauges = κ) : Ans.Keeps κ (execUnmapChunk f s) := by
  unfold execUnmapChunk
  refine .finish h ?_
  refine .bind (State.xSrc_keeps h) fun _ _ => .bind (State.chunkEntry_keeps h) fun _ _ => ?_
  dsimp only
  exact .bind Res.check_keeps fun _ _ => .ok (by simp [h])

theorem execLease_keeps {κ : Gauges} {s : State} {f} (h : s.gauges = κ) : Ans.Keeps κ (execLease f s) := by
  unfold execLease
  refine .finish h ?_
  refine .bind (State.xSrc_keeps h) fun _ _ => ?_
  dsimp only
  exact .bind Res.check_keeps fun _ _ => .bind Res.check_keeps fun _ _ => .ok (by simp [h])

theorem execSdown_keeps {κ : Gauges} {s : State} {f} (h : s.gauges = κ) : Ans.Keeps κ (execSdown f s) := by
  unfold execSdown
  refine .finish h ?_
  refine .bind (State.xSrc_keeps h) fun _ _ => .bind Res.check_keeps fun _ _ => ?_
  dsimp only
  exact .ok (by simp [h])

@[simp] theorem State.beginMigration_gauges (s : State) (c pa va) : (s.beginMigration c pa va).gauges = s.gauges := by
  unfold State.beginMigration
  split <;> simp

@[simp] theorem State.endMigration_gauges (s : State) (m frame) : (s.endMigration m frame).gauges = s.gauges := by
  simp [State.endMigration]

theorem execPageMigration_keeps {κ : Gauges} {s : State} {m} (h : s.gauges = κ) : Ans.Keeps κ (execPageMigration m s) := by
  unfold execPageMigration
  split
  · dsimp only
    split
    · exact .next h
    · split
      · exact .next (by simp [h])
      · exact .next h
  · dsimp only
    simp [h]
  · split
    · exact .next (by simp [h])
    · exact .next h

end Sys2Proof.Machine
end

section
/-! The gauges through the operations of Machine/Collective.lean. -/
namespace Sys2Proof.Machine
open Sys2Proof

theorem State.collCheck_keeps {κ : Gauges} {s : State} {c va} (_h : s.gauges = κ) : (s.collCheck c va).Keeps κ fun _ => True := by
  unfold State.collCheck
  dsimp only
  refine .bind Res.check_keeps fun _ _ => .bind Res.check_keeps fun _ _ => .bind Res.check_keeps fun _ _ => ?_
  exact .bind Res.check_keeps fun _ _ => .bind Res.check_keeps fun _ _ => .bind Res.check_keeps fun _ _ => Res.check_keeps

@[simp] theorem State.signColl_gauges (s : State) (c addr new) : (s.signColl c addr new).gauges = s.gauges := by
  unfold State.signColl
  split <;> simp

theorem execColl_keeps {κ : Gauges} {s : State} {f} (h : s.gauges = κ) : Ans.Keeps κ (execColl f s) := by
  unfold execColl
  refine .finish h ?_
  refine .bind (State.cmdSrc_keeps h) fun _ _ => ?_
  dsimp only
  refine .bind (State.own_keeps h) fun _ _ => .bind (State.readOperand_keeps h) fun r hr => .bind Res.check_keeps fun _ _ => ?_
  refine .bind (State.readPages_keeps hr) fun m hm => .bind (State.readPages_keeps hm) fun p hp => ?_
  exact .bind (State.collCheck_keeps h) fun _ _ => by simp [hp]

@[simp] theorem State.setRun_gauges (s : State) (e r) : (s.setRun e r).gauges = s.gauges := State.gauges_of rfl rfl

theorem State.engEmit_keeps {κ : Gauges} {s : State} {e o} (h : s.gauges = κ) : (s.engEmit e o).Keeps κ (·.gauges = κ) := by
  unfold State.engEmit
  dsimp only
  refine .bind (P := (·.gauges = κ)) ?_ fun s1 hs1 => ?_
  · split
    · exact .ok h
    · split
      · exact .ok h
      · exact .bind (State.reserveRing_keeps h) fun s1 hs1 => .ok (by simp [hs1])
  · split <;> exact .ok (by simp [hs1])

@[simp] theorem State.engPump_gauges (e n) (s : State) : (State.engPump e n s).gauges = s.gauges := by
  induction n generalizing s with
  | zero => rfl
  | succ n ih =>
    unfold State.engPump
    dsimp only
    split
    · rfl
    · refine gauges_if (by simp) ?_
      split
      · simp [ih, (State.engEmit_keeps rfl).of_ok ‹_›]
      · simp [(State.engEmit_keeps rfl).of_stall ‹_›]
      · simp

@[simp] theorem State.engSend_gauges (s : State) (e l) : (s.engSend e l).gauges = s.gauges := by
  simp [State.engSend]

@[simp] theorem State.engCycle_gauges (s : State) (e) : (s.engCycle e).gauges = s.gauges := by
  simp [State.engCycle]

@[simp] theorem State.collNote_gauges (s : State) (e r to' kind epoch operand) : (s.collNote e r to' kind epoch operand).gauges = s.gauges := by
  simp [State.collNote]

@[simp] theorem State.noteKids_gauges (s : State) (e r kind operand) : (s.noteKids e r kind operand).gauges = s.gauges := by
  simp [State.noteKids]

@[simp] theorem State.collSignal_gauges (s : State) (e r i) : (s.collSignal e r i).1.gauges = s.gauges := by
  unfold State.collSignal
  split <;> simp

@[simp] theorem State.localReady_gauges (s : State) (e r) : (s.localReady e r).1.gauges = s.gauges := by
  simp [State.localReady]

@[simp] theorem State.tellAbort_gauges (s : State) (e r) : (s.tellAbort e r).1.gauges = s.gauges := by
  unfold State.tellAbort
  split <;> simp

@[simp] theorem State.rootAbort_gauges (s : State) (e r cause) : (s.rootAbort e r cause).1.gauges = s.gauges := by
  unfold State.rootAbort
  split <;> simp

@[simp] theorem State.collAborts_gauges (s : State) (e r cause) : (s.collAborts e r cause).1.gauges = s.gauges := by
  unfold State.collAborts
  split
  · rfl
  · split <;> split <;> simp

theorem State.writeStatus_keeps {κ : Gauges} {s : State} {c v} (h : s.gauges = κ) : (s.writeStatus c v).Keeps κ (·.gauges = κ) := by
  unfold State.writeStatus
  dsimp only
  exact .bind (State.reserveRing_keeps h) fun s1 hs1 => .ok (by simp [hs1])

theorem execCollabort_keeps {κ : Gauges} {s : State} {f} (h : s.gauges = κ) : Ans.Keeps κ (execCollabort f s) := by
  unfold execCollabort
  refine .finish h ?_
  refine .bind (State.cmdSrc_keeps h) fun _ _ => ?_
  dsimp only
  refine .bind (State.own_keeps h) fun _ _ => ?_
  split
  · exact .ok (by simp [h])
  · split
    · rename_i t1 e1
      have ht1 : t1.gauges = κ := by
        refine Res.Keeps.of_stall (κ := κ) (P := (·.gauges = κ)) ?_ e1
        refine Res.keeps_foldl (P := fun t : State => t.gauges = κ) (fun o a ho => ?_) _ ?_
        · exact .bind ho fun s hs => State.writeStatus_keeps hs
        · exact .ok h
      exact .stall (by simp [h])
    · exact .stall (by simp [h])
    · exact .stall (by simp [h])
    · exact .fault
    · rename_i t1 e1
      have ht1 : t1.gauges = κ := by
        refine Res.Keeps.of_ok (κ := κ) (P := (·.gauges = κ)) ?_ e1
        refine Res.keeps_foldl (P := fun t : State => t.gauges = κ) (fun o a ho => ?_) _ ?_
        · exact .bind ho fun s hs => State.writeStatus_keeps hs
        · exact .ok h
      split
      · exact .ok (by simp [ht1])
      · split <;> exact .ok (by simp [ht1])

@[simp] theorem State.sendCts_gauges (s : State) (e r src num) : (s.sendCts e r src num).1.gauges = s.gauges := by
  unfold State.sendCts
  split
  · rfl
  · dsimp only
    split
    · rfl
    · simp

@[simp] theorem State.retryCts_gauges (s : State) (e r) : (s.retryCts e r).1.gauges = s.gauges := by
  simp [State.retryCts]

@[simp] theorem State.forgetAnswers_gauges (s : State) (e) : (s.forgetAnswers e).gauges = s.gauges := State.gauges_of rfl rfl

theorem execCollectiveStart_keeps {κ : Gauges} {s : State} {engine} (h : s.gauges = κ) : Ans.Keeps κ (execCollectiveStart engine s) := by
  unfold execCollectiveStart
  dsimp only
  split
  · exact .next h
  · simp [h]

theorem execTransferTake_keeps {κ : Gauges} {s : State} {engine src} (h : s.gauges = κ) : Ans.Keeps κ (execTransferTake engine src s) := by
  unfold execTransferTake
  split
  · exact .next h
  · split
    · exact .next h
    · split
      · exact .next h
      · split
        · exact .next h
        · dsimp only
          exact .next (by simp [h])

@[simp] theorem State.consume_gauges (s : State) (e r src) : (s.consume e r src).1.gauges = s.gauges := by
  simp [State.consume]

@[simp] theorem State.addXfers_gauges (s : State) (e r dests raw) : (s.addXfers e r dests raw).1.gauges = s.gauges := by
  unfold State.addXfers
  split
  · dsimp only
    split
    · simp
    · rfl
  · dsimp only
    split
    · simp
    · rfl

@[simp] theorem State.sendXfer_gauges (s : State) (e r x) : (s.sendXfer e r x).1.gauges = s.gauges := by
  unfold State.sendXfer
  split
  · rfl
  · split
    · rfl
    · simp

@[simp] theorem State.sendXfers_gauges (s : State) (e r) : (s.sendXfers e r).1.gauges = s.gauges := by
  simp [State.sendXfers]

theorem State.writeChunk_keeps {κ : Gauges} {s : State} {r buf k bs} (h : s.gauges = κ) : (s.writeChunk r buf k bs).Keeps κ (·.1.gauges = κ) := by
  unfold State.writeChunk
  dsimp only
  split
  · exact .stall h
  · split
    · exact .ok (by simp [h])
    · exact .bind (State.reserveRing_keeps h) fun s1 hs1 => .ok (by simp [hs1])

@[simp] theorem State.writeRed_gauges (s : State) (r) : (s.writeRed r).gauges = s.gauges := by
  simp [State.writeRed]

@[simp] theorem State.sendReds_gauges (s : State) (e r dst slot raw blocks peer) : (s.sendReds e r dst slot raw blocks peer).1.gauges = s.gauges := by
  simp [State.sendReds]

@[simp] theorem State.restartTree_gauges (s : State) (e r ep) : (s.restartTree e r ep).1.gauges = s.gauges := by
  simp [State.restartTree]

@[simp] theorem State.repeatPeer_gauges (s : State) (e r src) : (s.repeatPeer e r src).1.gauges = s.gauges := by
  unfold State.repeatPeer
  split <;> simp

@[simp] theorem State.repeatDown_gauges (s : State) (e r src) : (s.repeatDown e r src).1.gauges = s.gauges := by
  unfold State.repeatDown
  split <;> simp

theorem execCollLate_keeps {κ : Gauges} {s : State} {engine} (h : s.gauges = κ) : Ans.Keeps κ (execCollLate engine s) := by
  unfold execCollLate
  split
  · exact .next h
  · dsimp only
    split
    · exact .next h
    · refine .next ?_
      refine (State.setRun_gauges ..).trans ?_
      split
      · simp [h]
      · split
        · simp [h]
        · split <;> simp [h]

@[simp] theorem State.stepDone_gauges (s : State) (e r f) : (s.stepDone e r f).1.gauges = s.gauges := by
  unfold State.stepDone
  split
  · split <;> simp
  · split
    · simp
    · rfl

@[simp] theorem State.stepBegin_gauges (s : State) (e r op f) : (s.stepBegin e r op f).1.gauges = s.gauges := by
  unfold State.stepBegin
  split
  · rfl
  · split
    · split
      · simp
      · rfl
    · simp

theorem State.routerInput_gauges {s : State} {e r f} {q} (h : s.routerInput e r f = some q) : q.1.gauges = s.gauges := by
  revert h
  unfold State.routerInput
  split
  · split
    · split
      · dsimp only
        rw [Option.bind_eq_some_iff]
        rintro ⟨v, hv, hw⟩
        revert hw
        split
        · rintro ⟨⟩; simp
        · nofun
      · split
        · dsimp only
          rw [Option.bind_eq_some_iff]
          rintro ⟨v, hv, hw⟩
          revert hw
          split
          · rintro ⟨⟩; simp
          · rintro ⟨⟩; rfl
        · split
          · dsimp only
            rw [Option.bind_eq_some_iff]
            rintro ⟨v, hv, hw⟩
            revert hw
            split
            · rintro ⟨⟩; simp
            · rw [Option.map_eq_some_iff]
              rintro ⟨v, hv, rfl⟩
              rfl
          · dsimp only
            rw [Option.bind_eq_some_iff]
            rintro ⟨v, hv, hw⟩
            revert hw
            split
            · rintro ⟨⟩; simp
            · nofun
    · split
      · dsimp only
        rw [Option.bind_eq_some_iff]
        rintro ⟨v, hv, hw⟩
        revert hw
        split
        · rintro ⟨⟩; simp
        · nofun
      · split
        · dsimp only
          rw [Option.bind_eq_some_iff]
          rintro ⟨v, hv, hw⟩
          revert hw
          split
          · rintro ⟨⟩; simp
          · rintro ⟨⟩; rfl
        · split
          · dsimp only
            rw [Option.bind_eq_some_iff]
            rintro ⟨v, hv, hw⟩
            revert hw
            split
            · rintro ⟨⟩; simp
            · rw [Option.map_eq_some_iff]
              rintro ⟨v, hv, rfl⟩
              rfl
          · dsimp only
            rw [Option.bind_eq_some_iff]
            rintro ⟨v, hv, hw⟩
            revert hw
            split
            · rintro ⟨⟩; simp
            · nofun
  · split
    · split
      · dsimp only
        rw [Option.bind_eq_some_iff]
        rintro ⟨v, hv, hw⟩
        revert hw
        split
        · rintro ⟨⟩; simp
        · nofun
      · split
        · dsimp only
          rw [Option.bind_eq_some_iff]
          rintro ⟨v, hv, hw⟩
          revert hw
          split
          · rintro ⟨⟩; simp
          · rintro ⟨⟩; rfl
        · split
          · dsimp only
            rw [Option.bind_eq_some_iff]
            rintro ⟨v, hv, hw⟩
            revert hw
            split
            · rintro ⟨⟩; simp
            · rw [Option.map_eq_some_iff]
              rintro ⟨v, hv, rfl⟩
              rfl
          · dsimp only
            rw [Option.bind_eq_some_iff]
            rintro ⟨v, hv, hw⟩
            revert hw
            split
            · rintro ⟨⟩; simp
            · nofun
    · split
      · dsimp only
        rw [Option.bind_eq_some_iff]
        rintro ⟨v, hv, hw⟩
        revert hw
        split
        · rintro ⟨⟩; simp
        · nofun
      · split
        · dsimp only
          rw [Option.bind_eq_some_iff]
          rintro ⟨v, hv, hw⟩
          revert hw
          split
          · rintro ⟨⟩; simp
          · rintro ⟨⟩; rfl
        · split
          · dsimp only
            rw [Option.bind_eq_some_iff]
            rintro ⟨v, hv, hw⟩
            revert hw
            split
            · rintro ⟨⟩; simp
            · rw [Option.map_eq_some_iff]
              rintro ⟨v, hv, rfl⟩
              rfl
          · dsimp only
            rw [Option.bind_eq_some_iff]
            rintro ⟨v, hv, hw⟩
            revert hw
            split
            · rintro ⟨⟩; simp
            · nofun

theorem State.stepInput_gauges {s : State} {e r op f} {q} (h : s.stepInput e r op f = some q) : q.1.gauges = s.gauges := by
  revert h
  unfold State.stepInput
  split
  · split
    · split
      · dsimp only
        rw [Option.map_eq_some_iff]
        rintro ⟨v, hv, rfl⟩
        rfl
      · dsimp only
        rw [Option.map_eq_some_iff]
        rintro ⟨v, hv, rfl⟩
        rfl
    · dsimp only
      rw [Option.map_eq_some_iff]
      rintro ⟨v, hv, rfl⟩
      simp
  · split
    · split
      · dsimp only
        exact State.routerInput_gauges
      · dsimp only
        rw [Option.map_eq_some_iff]
        rintro ⟨v, hv, rfl⟩
        rfl
    · split
      · dsimp only
        rw [Option.bind_eq_some_iff]
        rintro ⟨v, hv, hw⟩
        revert hw
        rintro ⟨⟩; rfl
      · dsimp only
        rw [Option.bind_eq_some_iff]
        rintro ⟨v, hv, hw⟩
        revert hw
        rw [Option.map_eq_some_iff]
        rintro ⟨v, hv, rfl⟩
        simp
  · dsimp only
    rw [Option.map_eq_some_iff]
    rintro ⟨v, hv, rfl⟩
    rfl

@[simp] theorem State.stepUp_gauges (s : State) (e r) : (s.stepUp e r).1.gauges = s.gauges := by
  unfold State.stepUp
  split
  · rfl
  · split <;> simp

@[simp] theorem State.stepOut_gauges (s : State) (e r op f) : (s.stepOut e r op f).1.gauges = s.gauges := by
  simp [State.stepOut]

@[simp] theorem State.stepEnds_gauges (s : State) (e r f) : (s.stepEnds e r f).1.gauges = s.gauges := by
  unfold State.stepEnds
  split <;> simp

theorem State.orWait_keeps {α : Type} {κ : Gauges} {P : α → Prop} {s : State} {o : Option α} (h : s.gauges = κ) (ho : ∀ v, o = some v → P v) :
    (s.orWait o).Keeps κ P := by
  unfold State.orWait
  split
  · exact .ok (ho _ rfl)
  · exact .stall h

theorem State.stepPhase_keeps {κ : Gauges} {s : State} {e r op f} (h : s.gauges = κ) : (s.stepPhase e r op f).Keeps κ (·.1.gauges = κ) := by
  unfold State.stepPhase
  split
  · exact .ok (by simp [h])
  · exact State.orWait_keeps h fun v hv => (State.stepInput_gauges hv).trans h
  · exact .ok (by simp [h])
  · refine State.orWait_keeps h fun v hv => ?_
    obtain ⟨r1, -, rfl⟩ := Option.map_eq_some_iff.mp hv
    exact h
  · split
    · exact .bind (State.writeChunk_keeps h) fun a ha => .ok ha
    · exact .ok h
  · exact .ok (by simp [h])
  · split
    · exact .ok (by simp [h])
    · exact .stall h

@[simp] theorem State.peerCheck_gauges (s : State) (e r on) : (s.peerCheck e r on).1.gauges = s.gauges := by
  unfold State.peerCheck
  split <;> simp

@[simp] theorem State.stepGo_gauges (s : State) (e op f n r) : (s.stepGo e op f n r).gauges = s.gauges := by
  induction n generalizing s r with
  | zero => simp [State.stepGo]
  | succ n ih =>
    unfold State.stepGo
    extract_lets again a
    have h : a.1.gauges = s.gauges := by
      dsimp only [a]
      clear_value again
      cases again <;> simp
    clear_value a
    refine gauges_if (by simp [h]) ?_
    split
    · simp [(State.stepPhase_keeps h).of_stall ‹_›]
    · simp [h]
    · simp [h]
    · simp [h]
    · have hb := (State.stepPhase_keeps h).of_ok ‹_›
      exact gauges_if ((ih _ _).trans hb) (by simp [hb])

@[simp] theorem State.dataStep_gauges (s : State) (op f) : (s.dataStep op f).gauges = s.gauges := by
  unfold State.dataStep
  split <;> simp

theorem execStepSend_keeps {κ : Gauges} {s : State} {f} (h : s.gauges = κ) : Ans.Keeps κ (execStepSend f s) := by
  unfold execStepSend
  exact .next (by simp [h])

theorem execStepRecv_keeps {κ : Gauges} {s : State} {f} (h : s.gauges = κ) : Ans.Keeps κ (execStepRecv f s) := by
  unfold execStepRecv
  exact .next (by simp [h])

theorem execStepRrs_keeps {κ : Gauges} {s : State} {f} (h : s.gauges = κ) : Ans.Keeps κ (execStepRrs f s) := by
  unfold execStepRrs
  exact .next (by simp [h])

theorem execStepCopy_keeps {κ : Gauges} {s : State} {f} (h : s.gauges = κ) : Ans.Keeps κ (execStepCopy f s) := by
  unfold execStepCopy
  exact .next (by simp [h])

theorem execStepWait_keeps {κ : Gauges} {s : State} {f} (h : s.gauges = κ) : Ans.Keeps κ (execStepWait f s) := by
  unfold execStepWait
  split
  · exact .next h
  · dsimp only
    simp [h]

theorem execStepLoop_keeps {κ : Gauges} {s : State} {f} (h : s.gauges = κ) : Ans.Keeps κ (execStepLoop f s) := by
  unfold execStepLoop
  split
  · exact .next h
  · dsimp only
    exact .next h

@[simp] theorem State.collPublish_gauges (s : State) (e r) : (s.collPublish e r).1.gauges = s.gauges := State.gauges_of rfl rfl

@[simp] theorem State.allDone_gauges (s : State) (e r) : (s.allDone e r).1.gauges = s.gauges := by
  simp [State.allDone]

@[simp] theorem State.collCommit_gauges (s : State) (e r) : (s.collCommit e r).1.gauges = s.gauges := by
  simp [State.collCommit]

@[simp] theorem State.collReport_gauges (s : State) (e r) : (s.collReport e r).1.gauges = s.gauges := by
  unfold State.collReport
  split
  · dsimp only
    split
    · rfl
    · simp
  · split
    · dsimp only
      split
      · rfl
      · simp
    · dsimp only
      split
      · rfl
      · simp

@[simp] theorem State.collEnds_gauges (s : State) (e r) : (s.collEnds e r).1.gauges = s.gauges := by
  unfold State.collEnds
  split
  · split
    · rfl
    · split
      · rfl
      · dsimp only
        split <;> simp
  · rfl
  · split
    · rfl
    · split <;> simp

@[simp] theorem State.collFinish_gauges (s : State) (e r) : (s.collFinish e r).gauges = s.gauges := by
  unfold State.collFinish
  split
  · rfl
  · split
    · simp [(State.writeStatus_keeps rfl).of_ok ‹_›]
    · simp [(State.writeStatus_keeps rfl).of_stall ‹_›]
    · rfl

theorem execStepEnd_keeps {κ : Gauges} {s : State} (h : s.gauges = κ) : Ans.Keeps κ (execStepEnd s) := by
  unfold execStepEnd
  split
  · exact .next h
  · dsimp only
    exact .next (by simp [h])

@[simp] theorem State.hear_gauges (s : State) (e r q p) : (s.hear e r q p).1.gauges = s.gauges := by
  unfold State.hear
  split
  · rfl
  · rfl
  · rfl
  · split
    · simp
    · rfl
  · split
    · simp
    · rfl
  · split
    · rfl
    · split <;> simp
  · rfl
  · split
    · rfl
    · simp
  · rfl

@[simp] theorem State.applyNotice_gauges (s : State) (p) : (s.applyNotice p).gauges = s.gauges := by
  unfold State.applyNotice
  dsimp only
  split
  · rfl
  · split
    · rfl
    · split
      · rfl
      · simp

theorem State.noticeEvent_keeps {κ : Gauges} {s : State} {port : Nat} {kind : Nat → Bool} {k : Packet → State → State} (h : s.gauges = κ)
    (hk : ∀ p t, t.gauges = κ → (k p t).gauges = κ) : Ans.Keeps κ (s.noticeEvent port kind k) := by
  unfold State.noticeEvent
  split
  · exact .next h
  · have h1 := (State.headAt_gauges ‹_›).trans h
    split
    · exact .next h1
    · split
      · exact .next h
      · exact .next (hk _ _ h1)

theorem execCtsNotice_keeps {κ : Gauges} {s : State} {port} (h : s.gauges = κ) : Ans.Keeps κ (execCtsNotice port s) := by
  unfold execCtsNotice
  exact State.noticeEvent_keeps h fun p s1 h1 => by simp [h1]

theorem execAcceptNotice_keeps {κ : Gauges} {s : State} {port} (h : s.gauges = κ) : Ans.Keeps κ (execAcceptNotice port s) := by
  unfold execAcceptNotice
  exact State.noticeEvent_keeps h fun p s1 h1 => by simp [h1]

theorem execRepeatNotice_keeps {κ : Gauges} {s : State} {port} (h : s.gauges = κ) : Ans.Keeps κ (execRepeatNotice port s) := by
  unfold execRepeatNotice
  exact State.noticeEvent_keeps h fun p s1 h1 => by simp [h1]

theorem execStepokNotice_keeps {κ : Gauges} {s : State} {port} (h : s.gauges = κ) : Ans.Keeps κ (execStepokNotice port s) := by
  unfold execStepokNotice
  exact State.noticeEvent_keeps h fun p s1 h1 => by simp [h1]

theorem execAbortNotice_keeps {κ : Gauges} {s : State} {port} (h : s.gauges = κ) : Ans.Keeps κ (execAbortNotice port s) := by
  unfold execAbortNotice
  exact State.noticeEvent_keeps h fun p s1 h1 => by simp [h1]

theorem execDecideNotice_keeps {κ : Gauges} {s : State} {port} (h : s.gauges = κ) : Ans.Keeps κ (execDecideNotice port s) := by
  unfold execDecideNotice
  exact State.noticeEvent_keeps h fun p s1 h1 => by simp [h1]

theorem execReportNotice_keeps {κ : Gauges} {s : State} {port} (h : s.gauges = κ) : Ans.Keeps κ (execReportNotice port s) := by
  unfold execReportNotice
  exact State.noticeEvent_keeps h fun p s1 h1 => by simp [h1]

theorem execAlldoneNotice_keeps {κ : Gauges} {s : State} {port} (h : s.gauges = κ) : Ans.Keeps κ (execAlldoneNotice port s) := by
  unfold execAlldoneNotice
  exact State.noticeEvent_keeps h fun p s1 h1 => by simp [h1]

end Sys2Proof.Machine
end

section
/-! The gauges through the operations of Machine/Image.lean. -/
namespace Sys2Proof.Machine
open Sys2Proof

@[simp] theorem State.putThread_gauges (s : State) (c m n x) : (s.putThread c m n x).gauges = s.gauges := by
  simp only [State.putThread]
  split <;> simp

@[simp] theorem State.putBinding_gauges (s : State) (b) : (s.putBinding b).gauges = s.gauges := by
  unfold State.putBinding
  split <;> simp

@[simp] theorem State.putCtxImage_gauges (s : State) (c m) : (s.putCtxImage c m).gauges = s.gauges := by
  simp [State.putCtxImage]

@[simp] theorem State.saveTile_gauges (s : State) (c iv t) : (s.saveTile c iv t).gauges = s.gauges := by
  simp [State.saveTile]

@[simp] theorem State.loadTile_gauges (s : State) (c t m q) : (s.loadTile c t m q).gauges = s.gauges := by
  simp only [State.loadTile]
  split <;> simp

end Sys2Proof.Machine
end

section
/-! The gauges through the operations of Machine/Muster.lean. -/
namespace Sys2Proof.Machine
open Sys2Proof

@[simp] theorem State.closeRecording_gauges (s : State) (c) : (s.closeRecording c).gauges = s.gauges := by
  simp [State.closeRecording]

@[simp] theorem State.zeroWorks_gauges (s : State) (c) : (s.zeroWorks c).gauges = s.gauges := by
  simp [State.zeroWorks]

theorem State.newWindow_keeps {κ : Gauges} {s : State} {t c reason} (h : s.gauges = κ) : (s.newWindow t c reason).Keeps κ (·.gauges = κ) := by
  unfold State.newWindow
  split
  · dsimp only
    exact .ok (by simp [(State.reserveLen_keeps h).of_ok ‹_›])
  · exact .stall h

theorem State.intervalWindows_keeps {κ : Gauges} {s : State} {c iv} (h : s.gauges = κ) : (s.intervalWindows c iv).Keeps κ (·.gauges = κ) := by
  unfold State.intervalWindows
  refine Res.keeps_foldl (P := fun t : State => t.gauges = κ) (fun o a ho => ?_) _ ?_
  · exact .bind ho fun s hs => .bind (State.newWindow_keeps hs) fun s1 hs1 => .ok hs1
  · exact .ok h

theorem State.startInterval_keeps {κ : Gauges} {s : State} {c} (h : s.gauges = κ) : (s.startInterval c).Keeps κ (·.gauges = κ) := by
  unfold State.startInterval
  dsimp only
  exact .bind (State.intervalWindows_keeps (by simp [h])) fun s3 hs3 => .ok (by simp [hs3])

@[simp] theorem State.unparkEngine_gauges (s : State) (e) : (s.unparkEngine e).gauges = s.gauges := by
  unfold State.unparkEngine
  dsimp only
  split
  · rfl
  · refine (State.setRun_gauges ..).trans ?_
    split
    · rfl
    · split
      · split
        · split
          · simp
          · split
            · simp
            · split <;> rfl
        · split
          · simp
          · split
            · simp
            · split <;> rfl
      · split
        · simp
        · rfl

@[simp] theorem State.goOn_gauges (s : State) (c) : (s.goOn c).gauges = s.gauges := by
  simp [State.goOn]

theorem State.release_keeps {κ : Gauges} {s : State} {c} (h : s.gauges = κ) : (s.release c).Keeps κ (·.gauges = κ) := by
  unfold State.release
  refine .bind (P := (·.gauges = κ)) ?_ fun s1 hs1 => ?_
  · split
    · exact .ok h
    · exact State.startInterval_keeps h
  · exact .ok (by simp [hs1])

@[simp] theorem State.loadInterval_gauges (s : State) (c iv) : (s.loadInterval c iv).2.gauges = s.gauges := by
  unfold State.loadInterval
  dsimp only
  refine (State.modLog_gauges ..).trans ?_
  refine (gauges_foldl (fun s a => ?_) _ _).trans ?_
  · split <;> rfl
  · simp

@[simp] theorem State.answerMuster_gauges (s : State) (c) : (s.answerMuster c).gauges = s.gauges := State.gauges_of rfl rfl

@[simp] theorem State.answerStop_gauges (s : State) (c) : (s.answerStop c).gauges = s.gauges := State.gauges_of rfl rfl

@[simp] theorem State.runStop_gauges (s : State) (c iv) : (s.runStop c iv).gauges = s.gauges := by
  simp [State.runStop]

@[simp] theorem State.replayNext_gauges (s : State) (c) : (s.replayNext c).gauges = s.gauges := by
  unfold State.replayNext
  dsimp only
  refine (State.modLog_gauges ..).trans ?_
  refine (State.goOn_gauges ..).trans ?_
  split
  · simp [(State.intervalWindows_keeps rfl).of_ok ‹_›]
  · simp

@[simp] theorem State.mustered_gauges (s : State) (c) : (s.mustered c).gauges = s.gauges := by
  unfold State.mustered
  dsimp only
  split <;> simp

@[simp] theorem State.beginMuster_gauges (s : State) (c id alone exact) : (s.beginMuster c id alone exact).gauges = s.gauges := by
  simp [State.beginMuster]

@[simp] theorem State.stopThread_gauges (s : State) (c n) : (s.stopThread c n).gauges = s.gauges := by
  simp [State.stopThread]

@[simp] theorem State.musterGo_gauges (s : State) (c) : (s.musterGo c).gauges = s.gauges := by
  simp [State.musterGo]

@[simp] theorem State.keepNotice_gauges (s : State) (c chip id) : (s.keepNotice c chip id).gauges = s.gauges := State.gauges_of rfl rfl

@[simp] theorem State.tellDrained_gauges (s : State) (c) : (s.tellDrained c).gauges = s.gauges := by
  simp [State.tellDrained]

theorem execMusterDrained_keeps {κ : Gauges} {s : State} {ctx} (h : s.gauges = κ) : Ans.Keeps κ (execMusterDrained ctx s) := by
  unfold execMusterDrained
  simp [h]

theorem execMusterNotice_keeps {κ : Gauges} {s : State} {port} (h : s.gauges = κ) : Ans.Keeps κ (execMusterNotice port s) := by
  unfold execMusterNotice
  exact State.noticeEvent_keeps h fun p s1 h1 => by simp [h1]

theorem State.musterSrc_keeps {κ : Gauges} {s : State} {f} (h : s.gauges = κ) : (s.musterSrc f).Keeps κ fun _ => True := by
  unfold State.musterSrc
  exact .bind (State.onThread_keeps h) fun _ _ => .bind (State.needSys_keeps h) fun _ _ => State.cmdSrc_keeps h

theorem execMuster_keeps {κ : Gauges} {s : State} {f} (h : s.gauges = κ) : Ans.Keeps κ (execMuster f s) := by
  unfold execMuster
  refine .finish h ?_
  refine .bind (State.musterSrc_keeps h) fun _ _ => ?_
  dsimp only
  simp [h]

theorem execMusterRelease_keeps {κ : Gauges} {s : State} {f} (h : s.gauges = κ) : Ans.Keeps κ (execMusterRelease f s) := by
  unfold execMusterRelease
  refine .finish h ?_
  refine .bind (State.musterSrc_keeps h) fun _ _ => ?_
  dsimp only
  split
  · exact .ok (by simp [h])
  · exact .bind (State.release_keeps h) fun s1 hs1 => .ok (by simp [hs1])

end Sys2Proof.Machine
end

section
/-! The gauges through the operations of Machine/Replay.lean. -/
namespace Sys2Proof.Machine
open Sys2Proof

theorem State.debugTile_keeps {κ : Gauges} {s : State} {a} (h : s.gauges = κ) : (s.debugTile a).Keeps κ fun _ => True := by
  unfold State.debugTile
  dsimp only
  refine .bind (State.own_keeps h) fun _ _ => ?_
  split
  · exact .ok trivial
  · exact .raise

theorem State.rstepSrc_keeps {κ : Gauges} {s : State} {f} (h : s.gauges = κ) : (s.rstepSrc f).Keeps κ fun _ => True := by
  unfold State.rstepSrc
  refine .bind (State.onThread_keeps h) fun _ _ => .bind (State.cmdSrc_keeps h) fun _ _ => .bind Res.check_keeps fun _ _ => ?_
  exact .bind (State.debugTile_keeps h) fun _ _ => .ok trivial

@[simp] theorem State.boundStops_gauges (s : State) (c iv t m) : (s.boundStops c iv t m).gauges = s.gauges := State.gauges_of rfl rfl

theorem execRstepWindow_keeps {κ : Gauges} {s : State} {f} (h : s.gauges = κ) : Ans.Keeps κ (execRstepWindow f s) := by
  unfold execRstepWindow
  refine .finish h ?_
  refine .bind (State.rstepSrc_keeps h) fun _ _ => ?_
  dsimp only
  split
  · exact .ok (by simp [h])
  · split
    · exact .ok (by simp [h])
    · split
      · exact .ok (by simp [h])
      · exact .bind (State.newWindow_keeps (by simp [h])) fun s1 hs1 => .ok (by simp [hs1])

theorem execRstepOpen_keeps {κ : Gauges} {s : State} {f} (h : s.gauges = κ) : Ans.Keeps κ (execRstepOpen f s) := by
  unfold execRstepOpen
  refine .finish h ?_
  refine .bind (State.rstepSrc_keeps h) fun _ _ => ?_
  split
  · exact .ok (by simp [h])
  · exact .bind (State.newWindow_keeps h) fun s1 hs1 => .ok (by simp [hs1])

theorem execRstepCount_keeps {κ : Gauges} {s : State} {f} (h : s.gauges = κ) : Ans.Keeps κ (execRstepCount f s) := by
  unfold execRstepCount
  refine .finish h ?_
  refine .bind (State.rstepSrc_keeps h) fun _ _ => ?_
  dsimp only
  simp [h]

theorem execPreciseStopReached_keeps {κ : Gauges} {s : State} {ctx} (h : s.gauges = κ) : Ans.Keeps κ (execPreciseStopReached ctx s) := by
  unfold execPreciseStopReached
  dsimp only
  split
  · exact .next h
  · simp [h]

theorem State.replayPacket_gauges {s : State} {c p} {r : State} (h : s.replayPacket c p = some r) : r.gauges = s.gauges := by
  revert h
  unfold State.replayPacket
  split
  · split
    · exact gauges_some (by simp [(State.rxWrite_keeps rfl).of_ok ‹_›])
    · nofun
    · rintro ⟨⟩; rfl
  · split
    · split
      · dsimp only
        split
        · rintro ⟨⟩; simp
        · rintro ⟨⟩; rfl
      · rintro ⟨⟩; rfl
    · split
      · rintro ⟨⟩; simp
      · split
        · exact gauges_some (by simp)
        · split
          · rintro ⟨⟩; simp
          · split
            · rintro ⟨⟩; simp
            · split
              · rintro ⟨⟩; simp
              · rintro ⟨⟩; rfl

@[simp] theorem State.compareSig_gauges (s : State) (c t payload) : (s.compareSig c t payload).gauges = s.gauges := by
  unfold State.compareSig
  split <;> simp

@[simp] theorem State.replayEnds_gauges (s : State) (c rec') : (s.replayEnds c rec').gauges = s.gauges := by
  simp [State.replayEnds]

theorem State.replayEntry'_gauges {s : State} {c kind rec' k0 k1 payload} {r : State} (h : s.replayEntry' c kind rec' k0 k1 payload = some r) : r.gauges = s.gauges := by
  revert h
  unfold State.replayEntry'
  split
  · dsimp only
    split
    · exact gauges_some (by simp [(State.arrive_keeps rfl).of_ok ‹_›])
    · nofun
    · rintro ⟨⟩; rfl
  · exact State.replayPacket_gauges
  · dsimp only
    split
    · exact gauges_some (by simp [(State.rxWrite_keeps rfl).of_ok ‹_›])
    · nofun
    · rintro ⟨⟩; rfl
  · rintro ⟨⟩; rfl
  · rintro ⟨⟩; rfl
  · rintro ⟨⟩; simp
  · rintro ⟨⟩; simp
  · rintro ⟨⟩; rfl

theorem execReplayInputInject_keeps {κ : Gauges} {s : State} {ctx} (h : s.gauges = κ) : Ans.Keeps κ (execReplayInputInject ctx s) := by
  unfold execReplayInputInject
  dsimp only
  split
  · exact .next h
  · split
    · exact .next h
    · split
      · exact .next (by simp [State.replayEntry'_gauges ‹_›, h])
      · exact .next h

theorem State.mpsetSrc_keeps {κ : Gauges} {s : State} {f} (h : s.gauges = κ) : (s.mpsetSrc f).Keeps κ fun _ => True := by
  unfold State.mpsetSrc
  refine .bind (State.onThread_keeps h) fun _ _ => .bind (State.cmdSrc_keeps h) fun _ _ => .bind Res.check_keeps fun _ _ => ?_
  exact .bind (State.debugTile_keeps h) fun _ _ => .ok trivial

theorem execMpsetPoint_keeps {κ : Gauges} {s : State} {f} (h : s.gauges = κ) : Ans.Keeps κ (execMpsetPoint f s) := by
  unfold execMpsetPoint
  refine .finish h ?_
  exact .bind (State.mpsetSrc_keeps h) fun _ _ => .bind Res.check_keeps fun _ _ => .ok (by simp [h])

theorem execMpsetVec_keeps {κ : Gauges} {s : State} {f} (h : s.gauges = κ) : Ans.Keeps κ (execMpsetVec f s) := by
  unfold execMpsetVec
  refine .finish h ?_
  exact .bind (State.mpsetSrc_keeps h) fun _ _ => .bind Res.check_keeps fun _ _ => .ok (by simp [h])

theorem execSnap_keeps {κ : Gauges} {s : State} {f} (h : s.gauges = κ) : Ans.Keeps κ (execSnap f s) := by
  unfold execSnap
  refine .finish h ?_
  refine .bind (State.cmdSrc_keeps h) fun _ _ => ?_
  dsimp only
  exact .ok (by simp [h])

theorem execSnapshotLatch_keeps {κ : Gauges} {s : State} (h : s.gauges = κ) : Ans.Keeps κ (execSnapshotLatch s) := by
  unfold execSnapshotLatch
  split
  · exact .next h
  · simp [h]

theorem execTraceSample_keeps {κ : Gauges} {s : State} {tile} (h : s.gauges = κ) : Ans.Keeps κ (execTraceSample tile s) := by
  unfold execTraceSample
  dsimp only
  simp [h]

@[simp] theorem State.engineError_gauges (s : State) (ctx srck srcix) : (s.engineError ctx srck srcix).gauges = s.gauges := by
  simp [State.engineError]

theorem execUncorrectableError_keeps {κ : Gauges} {s : State} {unit} (h : s.gauges = κ) : Ans.Keeps κ (execUncorrectableError unit s) := by
  unfold execUncorrectableError
  dsimp only
  split
  · exact .next (by simp [h])
  · exact .next (by simp [h])
  · split <;> exact .next (by simp [h])
  · split <;> exact .next (by simp [h])
  · exact .next (by simp [h])
  · exact .next (by simp [h])
  · exact .next (by simp [h])
  · exact .next (by simp [h])

theorem execCorrectableError_keeps {κ : Gauges} {s : State} {unit delay} (h : s.gauges = κ) : Ans.Keeps κ (execCorrectableError unit delay s) := by
  unfold execCorrectableError
  dsimp only
  refine .next ?_
  refine (gauges_foldl (fun s a => ?_) _ _).trans ?_
  · simp
  · split <;> exact h

theorem execMissedHeartbeats_keeps {κ : Gauges} {s : State} {chip} (h : s.gauges = κ) : Ans.Keeps κ (execMissedHeartbeats chip s) := by
  unfold execMissedHeartbeats
  dsimp only
  exact .next (by simp [h])

end Sys2Proof.Machine
end

section
/-! The gauges through the operations of Machine/Hamper.lean. -/
namespace Sys2Proof.Machine
open Sys2Proof

theorem execMusterHamper_keeps {κ : Gauges} {s : State} {f} (h : s.gauges = κ) : Ans.Keeps κ (execMusterHamper f s) := by
  unfold execMusterHamper
  refine .finish h ?_
  refine .bind (State.musterSrc_keeps h) fun _ _ => ?_
  dsimp only
  split
  · exact .ok (by simp [h])
  · split
    · split
      · exact .ok (by simp [h])
      · exact .bind (State.writeOperand_keeps h) fun s2 hs2 => .ok (by simp [hs2])
    · split
      · exact .ok (by simp [h])
      · exact .bind (State.writeOperand_keeps h) fun s2 hs2 => .ok (by simp [hs2])

theorem foldl_bind_some {α β : Type} {P : β → Prop} {g : β → α → Option β} (hg : ∀ {b a c}, P b → g b a = some c → P c) (l : List α) {b c : β}
    (hb : P b) (h : l.foldl (fun (o : Option β) a => o.bind fun b => g b a) (some b) = some c) : P c := by
  have hnone (l : List α) : l.foldl (fun (o : Option β) a => o.bind fun b => g b a) none = none := by
    induction l with
    | nil => rfl
    | cons a l ih => exact ih
  induction l generalizing b with
  | nil => exact Option.some.inj h ▸ hb
  | cons a l ih =>
    rw [List.foldl_cons, Option.bind_some] at h
    cases hga : g b a with
    | none => rw [hga, hnone] at h; cases h
    | some d => rw [hga] at h; exact ih (hg hb hga) h

theorem Handing.take_gauges {κ : Gauges} {a : Handing} {named k r} (ha : a.1.gauges = κ) (h : a.take named k = some r) : r.2.1.gauges = κ := by
  obtain ⟨f, -, rfl⟩ := Option.map_eq_some_iff.mp h
  exact ha

theorem Handing.child_gauges {κ : Gauges} {a : Handing} {named node idx r} (ha : a.1.gauges = κ) (h : a.child named node idx = some r) :
    r.2.1.gauges = κ := by
  unfold Handing.child at h
  dsimp only at h
  split at h
  · cases h; exact ha
  · obtain ⟨f, hf, rfl⟩ := Option.map_eq_some_iff.mp h
    simp [Handing.take_gauges ha hf]

theorem Handing.fill_gauges {κ : Gauges} {a : Handing} {named data r} (ha : a.1.gauges = κ) (h : a.fill named data = some r) :
    r.2.1.gauges = κ := by
  obtain ⟨f, hf, rfl⟩ := Option.map_eq_some_iff.mp h
  simp [Handing.take_gauges ha hf]

theorem Handing.page_gauges {κ : Gauges} {a : Handing} {named c vpn flags data} {r : Handing} (ha : a.1.gauges = κ)
    (h : a.page named c vpn flags data = some r) : r.1.gauges = κ := by
  obtain ⟨n2, h2, h⟩ := Option.bind_eq_some_iff.mp h
  obtain ⟨n1, h1, h⟩ := Option.bind_eq_some_iff.mp h
  obtain ⟨n0, h0, h⟩ := Option.bind_eq_some_iff.mp h
  obtain ⟨f, hf, rfl⟩ := Option.map_eq_some_iff.mp h
  simp [Handing.fill_gauges (Handing.child_gauges (Handing.child_gauges (Handing.child_gauges ha h2) h1) h0) hf]

theorem Handing.tables_gauges {κ : Gauges} {a : Handing} {named c id} {r : Handing} (ha : a.1.gauges = κ)
    (h : a.tables named c id = some r) : r.1.gauges = κ := by
  obtain ⟨f, hf, h⟩ := Option.bind_eq_some_iff.mp h
  have k := Handing.take_gauges ha hf
  dsimp only at h
  split at h
  · obtain ⟨g, hg, rfl⟩ := Option.map_eq_some_iff.mp h
    simp [Handing.take_gauges k hg]
  · cases h; simp [k]

theorem Handing.chunk_gauges {κ : Gauges} {a : Handing} {named c k} {r : Handing} (ha : a.1.gauges = κ)
    (h : a.chunk named c k = some r) : r.1.gauges = κ := by
  obtain ⟨f, hf, rfl⟩ := Option.map_eq_some_iff.mp h
  simp [Handing.fill_gauges ha hf]

theorem State.rebuildMemory_gauges {s : State} {c m} {r : State} (h : s.rebuildMemory c m = some r) : r.gauges = s.gauges := by
  obtain ⟨root, hroot, h⟩ := Option.bind_eq_some_iff.mp h
  obtain ⟨a1, h1, h⟩ := Option.bind_eq_some_iff.mp h
  obtain ⟨a2, h2, h⟩ := Option.bind_eq_some_iff.mp h
  obtain ⟨a3, h3, rfl⟩ := Option.map_eq_some_iff.mp h
  have hr : root.2.1.gauges = s.gauges := Handing.take_gauges rfl hroot
  have k1 : a1.1.gauges = s.gauges := foldl_bind_some (P := fun a : Handing => a.1.gauges = s.gauges) Handing.page_gauges _ (by simp [hr]) h1
  have k2 : a2.1.gauges = s.gauges := foldl_bind_some (P := fun a : Handing => a.1.gauges = s.gauges) Handing.tables_gauges _ (by simp [k1]) h2
  exact foldl_bind_some (P := fun a : Handing => a.1.gauges = s.gauges) Handing.chunk_gauges _ k2 h3

@[simp] theorem State.putTile_gauges (s : State) (c t bs q win) : (s.putTile c t bs q win).gauges = s.gauges := by
  simp only [State.putTile]
  split <;> simp

theorem State.placeContext_gauges {s : State} {c bs m} {r : State} (h : s.placeContext c bs m = some r) : r.gauges = s.gauges := by
  obtain ⟨s3, h3, rfl⟩ := Option.map_eq_some_iff.mp h
  have k3 := State.rebuildMemory_gauges h3
  simp only [gauges_foldl, State.setReg_gauges, State.setCx_gauges, implies_true] at k3
  simp [k3]

theorem execMusterRestore_keeps {κ : Gauges} {s : State} {f} (h : s.gauges = κ) : Ans.Keeps κ (execMusterRestore f s) := by
  unfold execMusterRestore
  refine .finish h ?_
  refine .bind (State.musterSrc_keeps h) fun _ _ => ?_
  dsimp only
  refine .bind (State.readOperand_keeps h) fun r hr => ?_
  split
  · exact .ok (by simp [hr])
  · split
    · rename_i t1 e1
      have ht1 : t1.gauges = κ := by
        revert e1
        rw [Option.bind_eq_some_iff]
        rintro ⟨v, hv, hw⟩
        revert hw
        exact fun e => (State.placeContext_gauges e).trans hr
      exact .ok (by simp [ht1])
    · exact .ok (by simp [hr])

theorem execRollcall_keeps {κ : Gauges} {s : State} {f} (h : s.gauges = κ) : Ans.Keeps κ (execRollcall f s) := by
  unfold execRollcall
  refine .finish h ?_
  refine .bind (State.cmdSrc_keeps h) fun _ _ => ?_
  dsimp only
  exact .bind (State.writeOperand_keeps h) fun s1 hs1 => .ok (by simp [hs1])

end Sys2Proof.Machine
end

section
/-! The gauges through the operations of Machine/Integer.lean. -/
namespace Sys2Proof.Machine
open Sys2Proof

theorem execAdd_keeps {κ : Gauges} {s : State} {f} (h : s.gauges = κ) : Ans.Keeps κ (execAdd f s) := by
  unfold execAdd
  exact .finish h (State.triRes_keeps h)

theorem execSub_keeps {κ : Gauges} {s : State} {f} (h : s.gauges = κ) : Ans.Keeps κ (execSub f s) := by
  unfold execSub
  exact .finish h (State.triRes_keeps h)

theorem execAnd_keeps {κ : Gauges} {s : State} {f} (h : s.gauges = κ) : Ans.Keeps κ (execAnd f s) := by
  unfold execAnd
  exact .finish h (State.triRes_keeps h)

theorem execOr_keeps {κ : Gauges} {s : State} {f} (h : s.gauges = κ) : Ans.Keeps κ (execOr f s) := by
  unfold execOr
  exact .finish h (State.triRes_keeps h)

theorem execXor_keeps {κ : Gauges} {s : State} {f} (h : s.gauges = κ) : Ans.Keeps κ (execXor f s) := by
  unfold execXor
  exact .finish h (State.triRes_keeps h)

theorem execAndn_keeps {κ : Gauges} {s : State} {f} (h : s.gauges = κ) : Ans.Keeps κ (execAndn f s) := by
  unfold execAndn
  exact .finish h (State.triRes_keeps h)

theorem execSll_keeps {κ : Gauges} {s : State} {f} (h : s.gauges = κ) : Ans.Keeps κ (execSll f s) := by
  unfold execSll
  exact .finish h (State.triRes_keeps h)

theorem execSrl_keeps {κ : Gauges} {s : State} {f} (h : s.gauges = κ) : Ans.Keeps κ (execSrl f s) := by
  unfold execSrl
  exact .finish h (State.triRes_keeps h)

theorem execSra_keeps {κ : Gauges} {s : State} {f} (h : s.gauges = κ) : Ans.Keeps κ (execSra f s) := by
  unfold execSra
  exact .finish h (State.triRes_keeps h)

theorem execMul_keeps {κ : Gauges} {s : State} {f} (h : s.gauges = κ) : Ans.Keeps κ (execMul f s) := by
  unfold execMul
  exact .finish h (State.triRes_keeps h)

theorem execMulh_keeps {κ : Gauges} {s : State} {f} (h : s.gauges = κ) : Ans.Keeps κ (execMulh f s) := by
  unfold execMulh
  exact .finish h (State.triRes_keeps h)

theorem execMulhn_keeps {κ : Gauges} {s : State} {f} (h : s.gauges = κ) : Ans.Keeps κ (execMulhn f s) := by
  unfold execMulhn
  exact .finish h (State.triRes_keeps h)

theorem execMin_keeps {κ : Gauges} {s : State} {f} (h : s.gauges = κ) : Ans.Keeps κ (execMin f s) := by
  unfold execMin
  exact .finish h (State.triRes_keeps h)

theorem execMax_keeps {κ : Gauges} {s : State} {f} (h : s.gauges = κ) : Ans.Keeps κ (execMax f s) := by
  unfold execMax
  exact .finish h (State.triRes_keeps h)

theorem execMinn_keeps {κ : Gauges} {s : State} {f} (h : s.gauges = κ) : Ans.Keeps κ (execMinn f s) := by
  unfold execMinn
  exact .finish h (State.triRes_keeps h)

theorem execMaxn_keeps {κ : Gauges} {s : State} {f} (h : s.gauges = κ) : Ans.Keeps κ (execMaxn f s) := by
  unfold execMaxn
  exact .finish h (State.triRes_keeps h)

theorem execSlt_keeps {κ : Gauges} {s : State} {f} (h : s.gauges = κ) : Ans.Keeps κ (execSlt f s) := by
  unfold execSlt
  exact .finish h (State.triRes_keeps h)

theorem execSltn_keeps {κ : Gauges} {s : State} {f} (h : s.gauges = κ) : Ans.Keeps κ (execSltn f s) := by
  unfold execSltn
  exact .finish h (State.triRes_keeps h)

theorem execSeq_keeps {κ : Gauges} {s : State} {f} (h : s.gauges = κ) : Ans.Keeps κ (execSeq f s) := by
  unfold execSeq
  exact .finish h (State.triRes_keeps h)

theorem execSne_keeps {κ : Gauges} {s : State} {f} (h : s.gauges = κ) : Ans.Keeps κ (execSne f s) := by
  unfold execSne
  exact .finish h (State.triRes_keeps h)

theorem State.divRes_keeps {κ : Gauges} {s : State} {f op} (h : s.gauges = κ) : (s.divRes f op).Keeps κ (·.gauges = κ) := by
  unfold State.divRes
  refine .bind (State.src_keeps h) fun _ _ => .bind (State.src_keeps h) fun _ _ => .bind (State.dst_keeps h) fun _ _ => ?_
  exact .bind Res.check_keeps fun _ _ => .ok (by simp [h])

theorem execDiv_keeps {κ : Gauges} {s : State} {f} (h : s.gauges = κ) : Ans.Keeps κ (execDiv f s) := by
  unfold execDiv
  exact .finish h (State.divRes_keeps h)

theorem execDivn_keeps {κ : Gauges} {s : State} {f} (h : s.gauges = κ) : Ans.Keeps κ (execDivn f s) := by
  unfold execDivn
  exact .finish h (State.divRes_keeps h)

theorem execRem_keeps {κ : Gauges} {s : State} {f} (h : s.gauges = κ) : Ans.Keeps κ (execRem f s) := by
  unfold execRem
  exact .finish h (State.divRes_keeps h)

theorem execRemn_keeps {κ : Gauges} {s : State} {f} (h : s.gauges = κ) : Ans.Keeps κ (execRemn f s) := by
  unfold execRemn
  exact .finish h (State.divRes_keeps h)

theorem execSel_keeps {κ : Gauges} {s : State} {f} (h : s.gauges = κ) : Ans.Keeps κ (execSel f s) := by
  unfold execSel
  refine .finish h ?_
  refine .bind (State.src_keeps h) fun _ _ => .bind (State.src_keeps h) fun _ _ => .bind (State.src_keeps h) fun _ _ => ?_
  exact State.valueRes_keeps h

theorem State.oneRes_keeps {κ : Gauges} {s : State} {f op} (h : s.gauges = κ) : (s.oneRes f op).Keeps κ (·.gauges = κ) := by
  unfold State.oneRes
  exact .bind (State.src_keeps h) fun _ _ => .bind (State.dst_keeps h) fun _ _ => .ok (by simp [h])

theorem execClz_keeps {κ : Gauges} {s : State} {f} (h : s.gauges = κ) : Ans.Keeps κ (execClz f s) := by
  unfold execClz
  exact .finish h (State.oneRes_keeps h)

theorem execCtz_keeps {κ : Gauges} {s : State} {f} (h : s.gauges = κ) : Ans.Keeps κ (execCtz f s) := by
  unfold execCtz
  exact .finish h (State.oneRes_keeps h)

theorem execPopc_keeps {κ : Gauges} {s : State} {f} (h : s.gauges = κ) : Ans.Keeps κ (execPopc f s) := by
  unfold execPopc
  exact .finish h (State.oneRes_keeps h)

theorem execBswap_keeps {κ : Gauges} {s : State} {f} (h : s.gauges = κ) : Ans.Keeps κ (execBswap f s) := by
  unfold execBswap
  exact .finish h (State.oneRes_keeps h)

theorem execSext_keeps {κ : Gauges} {s : State} {f} (h : s.gauges = κ) : Ans.Keeps κ (execSext f s) := by
  unfold execSext
  exact .finish h (State.oneRes_keeps h)

theorem execZext_keeps {κ : Gauges} {s : State} {f} (h : s.gauges = κ) : Ans.Keeps κ (execZext f s) := by
  unfold execZext
  exact .finish h (State.oneRes_keeps h)

theorem execAddi_keeps {κ : Gauges} {s : State} {f} (h : s.gauges = κ) : Ans.Keeps κ (execAddi f s) := by
  unfold execAddi
  exact .finish h (State.immRes_keeps h)

theorem execAndi_keeps {κ : Gauges} {s : State} {f} (h : s.gauges = κ) : Ans.Keeps κ (execAndi f s) := by
  unfold execAndi
  exact .finish h (State.logicRes_keeps h)

theorem execOri_keeps {κ : Gauges} {s : State} {f} (h : s.gauges = κ) : Ans.Keeps κ (execOri f s) := by
  unfold execOri
  exact .finish h (State.logicRes_keeps h)

theorem execXori_keeps {κ : Gauges} {s : State} {f} (h : s.gauges = κ) : Ans.Keeps κ (execXori f s) := by
  unfold execXori
  exact .finish h (State.logicRes_keeps h)

theorem execSlli_keeps {κ : Gauges} {s : State} {f} (h : s.gauges = κ) : Ans.Keeps κ (execSlli f s) := by
  unfold execSlli
  exact .finish h (State.immRes_keeps h)

theorem execSrli_keeps {κ : Gauges} {s : State} {f} (h : s.gauges = κ) : Ans.Keeps κ (execSrli f s) := by
  unfold execSrli
  exact .finish h (State.immRes_keeps h)

theorem execSrai_keeps {κ : Gauges} {s : State} {f} (h : s.gauges = κ) : Ans.Keeps κ (execSrai f s) := by
  unfold execSrai
  exact .finish h (State.immRes_keeps h)

theorem execSlti_keeps {κ : Gauges} {s : State} {f} (h : s.gauges = κ) : Ans.Keeps κ (execSlti f s) := by
  unfold execSlti
  exact .finish h (State.immRes_keeps h)

theorem execSltni_keeps {κ : Gauges} {s : State} {f} (h : s.gauges = κ) : Ans.Keeps κ (execSltni f s) := by
  unfold execSltni
  exact .finish h (State.immRes_keeps h)

theorem execLi_keeps {κ : Gauges} {s : State} {f} (h : s.gauges = κ) : Ans.Keeps κ (execLi f s) := by
  unfold execLi
  exact .finish h (State.valueRes_keeps h)

theorem execLih_keeps {κ : Gauges} {s : State} {f} (h : s.gauges = κ) : Ans.Keeps κ (execLih f s) := by
  unfold execLih
  refine .finish h ?_
  exact .bind (State.src_keeps h) fun _ _ => State.valueRes_keeps h

theorem execNopC_keeps {κ : Gauges} {s : State} (h : s.gauges = κ) : Ans.Keeps κ (execNopC s) := by
  unfold execNopC
  exact .next (by simp [h])

theorem execAddC_keeps {κ : Gauges} {s : State} {f} (h : s.gauges = κ) : Ans.Keeps κ (execAddC f s) := by
  unfold execAddC
  exact .finish h (State.triRes_keeps h)

theorem execSubC_keeps {κ : Gauges} {s : State} {f} (h : s.gauges = κ) : Ans.Keeps κ (execSubC f s) := by
  unfold execSubC
  exact .finish h (State.triRes_keeps h)

theorem execAndC_keeps {κ : Gauges} {s : State} {f} (h : s.gauges = κ) : Ans.Keeps κ (execAndC f s) := by
  unfold execAndC
  exact .finish h (State.triRes_keeps h)

theorem execOrC_keeps {κ : Gauges} {s : State} {f} (h : s.gauges = κ) : Ans.Keeps κ (execOrC f s) := by
  unfold execOrC
  exact .finish h (State.triRes_keeps h)

theorem execXorC_keeps {κ : Gauges} {s : State} {f} (h : s.gauges = κ) : Ans.Keeps κ (execXorC f s) := by
  unfold execXorC
  exact .finish h (State.triRes_keeps h)

theorem execAddiC_keeps {κ : Gauges} {s : State} {f} (h : s.gauges = κ) : Ans.Keeps κ (execAddiC f s) := by
  unfold execAddiC
  exact .finish h (State.immRes_keeps h)

theorem execSlliC_keeps {κ : Gauges} {s : State} {f} (h : s.gauges = κ) : Ans.Keeps κ (execSlliC f s) := by
  unfold execSlliC
  exact .finish h (State.immRes_keeps h)

theorem execSrliC_keeps {κ : Gauges} {s : State} {f} (h : s.gauges = κ) : Ans.Keeps κ (execSrliC f s) := by
  unfold execSrliC
  exact .finish h (State.immRes_keeps h)

theorem execSraiC_keeps {κ : Gauges} {s : State} {f} (h : s.gauges = κ) : Ans.Keeps κ (execSraiC f s) := by
  unfold execSraiC
  exact .finish h (State.immRes_keeps h)

theorem execLiC_keeps {κ : Gauges} {s : State} {f} (h : s.gauges = κ) : Ans.Keeps κ (execLiC f s) := by
  unfold execLiC
  exact .finish h (State.valueRes_keeps h)

theorem execAddS0C_keeps {κ : Gauges} {s : State} {f} (h : s.gauges = κ) : Ans.Keeps κ (execAddS0C f s) := by
  unfold execAddS0C
  exact .finish h (State.triRes_keeps h)

end Sys2Proof.Machine
end

section
/-! The gauges through the operations of Machine/LoadStore.lean. -/
namespace Sys2Proof.Machine
open Sys2Proof

theorem execLdb_keeps {κ : Gauges} {s : State} {f} (h : s.gauges = κ) : Ans.Keeps κ (execLdb f s) := by
  unfold execLdb
  exact .finish h (State.loadInstr_keeps h)

theorem execLdbz_keeps {κ : Gauges} {s : State} {f} (h : s.gauges = κ) : Ans.Keeps κ (execLdbz f s) := by
  unfold execLdbz
  exact .finish h (State.loadInstr_keeps h)

theorem execLdh_keeps {κ : Gauges} {s : State} {f} (h : s.gauges = κ) : Ans.Keeps κ (execLdh f s) := by
  unfold execLdh
  exact .finish h (State.loadInstr_keeps h)

theorem execLdhz_keeps {κ : Gauges} {s : State} {f} (h : s.gauges = κ) : Ans.Keeps κ (execLdhz f s) := by
  unfold execLdhz
  exact .finish h (State.loadInstr_keeps h)

theorem execLdw_keeps {κ : Gauges} {s : State} {f} (h : s.gauges = κ) : Ans.Keeps κ (execLdw f s) := by
  unfold execLdw
  exact .finish h (State.loadInstr_keeps h)

theorem execLdwz_keeps {κ : Gauges} {s : State} {f} (h : s.gauges = κ) : Ans.Keeps κ (execLdwz f s) := by
  unfold execLdwz
  exact .finish h (State.loadInstr_keeps h)

theorem execLdd_keeps {κ : Gauges} {s : State} {f} (h : s.gauges = κ) : Ans.Keeps κ (execLdd f s) := by
  unfold execLdd
  exact .finish h (State.loadInstr_keeps h)

theorem execStb_keeps {κ : Gauges} {s : State} {f} (h : s.gauges = κ) : Ans.Keeps κ (execStb f s) := by
  unfold execStb
  exact .finish h (State.storeInstr_keeps h)

theorem execSth_keeps {κ : Gauges} {s : State} {f} (h : s.gauges = κ) : Ans.Keeps κ (execSth f s) := by
  unfold execSth
  exact .finish h (State.storeInstr_keeps h)

theorem execStw_keeps {κ : Gauges} {s : State} {f} (h : s.gauges = κ) : Ans.Keeps κ (execStw f s) := by
  unfold execStw
  exact .finish h (State.storeInstr_keeps h)

theorem execStd_keeps {κ : Gauges} {s : State} {f} (h : s.gauges = κ) : Ans.Keeps κ (execStd f s) := by
  unfold execStd
  exact .finish h (State.storeInstr_keeps h)

theorem execFill_keeps {κ : Gauges} {s : State} {f} (h : s.gauges = κ) : Ans.Keeps κ (execFill f s) := by
  unfold execFill
  refine .finish h ?_
  refine .bind (State.onTile_keeps h) fun _ _ => .bind (State.src_keeps h) fun _ _ => .bind (State.acqHeld_keeps h) fun _ _ => ?_
  exact .bind (State.spillAddr_keeps h) fun _ _ => State.loadRes_keeps h

theorem execSpill_keeps {κ : Gauges} {s : State} {f} (h : s.gauges = κ) : Ans.Keeps κ (execSpill f s) := by
  unfold execSpill
  refine .finish h ?_
  refine .bind (State.onTile_keeps h) fun _ _ => .bind (State.src_keeps h) fun _ _ => .bind (State.src_keeps h) fun _ _ => ?_
  exact .bind (State.acqHeld_keeps h) fun _ _ => .bind (State.spillAddr_keeps h) fun _ _ => State.storeRes_keeps h

theorem execLddC_keeps {κ : Gauges} {s : State} {f} (h : s.gauges = κ) : Ans.Keeps κ (execLddC f s) := by
  unfold execLddC
  refine .finish h ?_
  exact .bind (State.src_keeps h) fun _ _ => State.loadRes_keeps h

theorem execStdC_keeps {κ : Gauges} {s : State} {f} (h : s.gauges = κ) : Ans.Keeps κ (execStdC f s) := by
  unfold execStdC
  refine .finish h ?_
  exact .bind (State.src_keeps h) fun _ _ => .bind (State.src_keeps h) fun _ _ => State.storeRes_keeps h

end Sys2Proof.Machine
end

section
/-! The gauges through the operations of Machine/Lanes.lean. -/
namespace Sys2Proof.Machine
open Sys2Proof

@[simp] theorem vType_keeps {κ : Gauges} {ok} : (vType ok).Keeps κ fun _ => True := Res.check_keeps

theorem State.vRes_keeps {κ : Gauges} {s : State} {d lat bytes reads ks g} (h : s.gauges = κ) : (s.vRes d lat bytes reads ks g).Keeps κ (·.gauges = κ) := by
  unfold State.vRes
  refine .bind (State.onTile_keeps h) fun _ _ => ?_
  dsimp only
  simp [h]

theorem State.vMap_keeps {κ : Gauges} {s : State} {f lat srcs op} (h : s.gauges = κ) : (s.vMap f lat srcs op).Keeps κ (·.gauges = κ) := by
  unfold State.vMap
  dsimp only
  exact State.vRes_keeps h

theorem State.vMove_keeps {κ : Gauges} {s : State} {f lat srcs op} (h : s.gauges = κ) : (s.vMove f lat srcs op).Keeps κ (·.gauges = κ) := by
  unfold State.vMove
  exact State.vRes_keeps h

theorem State.vFloat_keeps {κ : Gauges} {s : State} {f lat srcs op} (h : s.gauges = κ) : (s.vFloat f lat srcs op).Keeps κ (·.gauges = κ) := by
  unfold State.vFloat
  exact .bind vType_keeps fun _ _ => State.vMap_keeps h

theorem State.vBits_keeps {κ : Gauges} {s : State} {f srcs lat op} (h : s.gauges = κ) : (s.vBits f srcs lat op).Keeps κ (·.gauges = κ) := by
  unfold State.vBits
  exact .bind vType_keeps fun _ _ => State.vMap_keeps h

theorem State.vInts_keeps {κ : Gauges} {s : State} {f op} (h : s.gauges = κ) : (s.vInts f op).Keeps κ (·.gauges = κ) := by
  unfold State.vInts
  exact State.vBits_keeps h

theorem State.vShift_keeps {κ : Gauges} {s : State} {f op} (h : s.gauges = κ) : (s.vShift f op).Keeps κ (·.gauges = κ) := by
  unfold State.vShift
  split <;> exact State.vBits_keeps h

end Sys2Proof.Machine
end

section
/-! The gauges through the operations of Machine/Vector.lean. -/
namespace Sys2Proof.Machine
open Sys2Proof

theorem execVadd_keeps {κ : Gauges} {s : State} {f} (h : s.gauges = κ) : Ans.Keeps κ (execVadd f s) := by
  unfold execVadd
  exact .finish h (State.vFloat_keeps h)

theorem execVsub_keeps {κ : Gauges} {s : State} {f} (h : s.gauges = κ) : Ans.Keeps κ (execVsub f s) := by
  unfold execVsub
  exact .finish h (State.vFloat_keeps h)

theorem execVmul_keeps {κ : Gauges} {s : State} {f} (h : s.gauges = κ) : Ans.Keeps κ (execVmul f s) := by
  unfold execVmul
  exact .finish h (State.vFloat_keeps h)

theorem execVfma_keeps {κ : Gauges} {s : State} {f} (h : s.gauges = κ) : Ans.Keeps κ (execVfma f s) := by
  unfold execVfma
  exact .finish h (State.vFloat_keeps h)

theorem execVfms_keeps {κ : Gauges} {s : State} {f} (h : s.gauges = κ) : Ans.Keeps κ (execVfms f s) := by
  unfold execVfms
  exact .finish h (State.vFloat_keeps h)

theorem execVfnma_keeps {κ : Gauges} {s : State} {f} (h : s.gauges = κ) : Ans.Keeps κ (execVfnma f s) := by
  unfold execVfnma
  exact .finish h (State.vFloat_keeps h)

theorem execVmax_keeps {κ : Gauges} {s : State} {f} (h : s.gauges = κ) : Ans.Keeps κ (execVmax f s) := by
  unfold execVmax
  exact .finish h (State.vFloat_keeps h)

theorem execVmin_keeps {κ : Gauges} {s : State} {f} (h : s.gauges = κ) : Ans.Keeps κ (execVmin f s) := by
  unfold execVmin
  exact .finish h (State.vFloat_keeps h)

theorem execVabs_keeps {κ : Gauges} {s : State} {f} (h : s.gauges = κ) : Ans.Keeps κ (execVabs f s) := by
  unfold execVabs
  exact .finish h (State.vFloat_keeps h)

theorem execVneg_keeps {κ : Gauges} {s : State} {f} (h : s.gauges = κ) : Ans.Keeps κ (execVneg f s) := by
  unfold execVneg
  exact .finish h (State.vFloat_keeps h)

theorem execVrcp_keeps {κ : Gauges} {s : State} {f} (h : s.gauges = κ) : Ans.Keeps κ (execVrcp f s) := by
  unfold execVrcp
  exact .finish h (State.vFloat_keeps h)

theorem execVrsqrt_keeps {κ : Gauges} {s : State} {f} (h : s.gauges = κ) : Ans.Keeps κ (execVrsqrt f s) := by
  unfold execVrsqrt
  exact .finish h (State.vFloat_keeps h)

theorem execVsqrt_keeps {κ : Gauges} {s : State} {f} (h : s.gauges = κ) : Ans.Keeps κ (execVsqrt f s) := by
  unfold execVsqrt
  exact .finish h (State.vFloat_keeps h)

theorem execVexp2_keeps {κ : Gauges} {s : State} {f} (h : s.gauges = κ) : Ans.Keeps κ (execVexp2 f s) := by
  unfold execVexp2
  exact .finish h (State.vFloat_keeps h)

theorem execVlog2_keeps {κ : Gauges} {s : State} {f} (h : s.gauges = κ) : Ans.Keeps κ (execVlog2 f s) := by
  unfold execVlog2
  exact .finish h (State.vFloat_keeps h)

theorem execVdiv_keeps {κ : Gauges} {s : State} {f} (h : s.gauges = κ) : Ans.Keeps κ (execVdiv f s) := by
  unfold execVdiv
  exact .finish h (State.vFloat_keeps h)

theorem execVaddi_keeps {κ : Gauges} {s : State} {f} (h : s.gauges = κ) : Ans.Keeps κ (execVaddi f s) := by
  unfold execVaddi
  exact .finish h (State.vInts_keeps h)

theorem execVsubi_keeps {κ : Gauges} {s : State} {f} (h : s.gauges = κ) : Ans.Keeps κ (execVsubi f s) := by
  unfold execVsubi
  exact .finish h (State.vInts_keeps h)

theorem execVmuli_keeps {κ : Gauges} {s : State} {f} (h : s.gauges = κ) : Ans.Keeps κ (execVmuli f s) := by
  unfold execVmuli
  exact .finish h (State.vInts_keeps h)

theorem execVand_keeps {κ : Gauges} {s : State} {f} (h : s.gauges = κ) : Ans.Keeps κ (execVand f s) := by
  unfold execVand
  exact .finish h (State.vBits_keeps h)

theorem execVor_keeps {κ : Gauges} {s : State} {f} (h : s.gauges = κ) : Ans.Keeps κ (execVor f s) := by
  unfold execVor
  exact .finish h (State.vBits_keeps h)

theorem execVxor_keeps {κ : Gauges} {s : State} {f} (h : s.gauges = κ) : Ans.Keeps κ (execVxor f s) := by
  unfold execVxor
  exact .finish h (State.vBits_keeps h)

theorem execVnot_keeps {κ : Gauges} {s : State} {f} (h : s.gauges = κ) : Ans.Keeps κ (execVnot f s) := by
  unfold execVnot
  exact .finish h (State.vBits_keeps h)

theorem execVshl_keeps {κ : Gauges} {s : State} {f} (h : s.gauges = κ) : Ans.Keeps κ (execVshl f s) := by
  unfold execVshl
  exact .finish h (State.vShift_keeps h)

theorem execVshr_keeps {κ : Gauges} {s : State} {f} (h : s.gauges = κ) : Ans.Keeps κ (execVshr f s) := by
  unfold execVshr
  exact .finish h (State.vShift_keeps h)

theorem execVsra_keeps {κ : Gauges} {s : State} {f} (h : s.gauges = κ) : Ans.Keeps κ (execVsra f s) := by
  unfold execVsra
  exact .finish h (State.vShift_keeps h)

theorem execVmaxi_keeps {κ : Gauges} {s : State} {f} (h : s.gauges = κ) : Ans.Keeps κ (execVmaxi f s) := by
  unfold execVmaxi
  exact .finish h (State.vInts_keeps h)

theorem execVmini_keeps {κ : Gauges} {s : State} {f} (h : s.gauges = κ) : Ans.Keeps κ (execVmini f s) := by
  unfold execVmini
  exact .finish h (State.vInts_keeps h)

theorem execVcmp_keeps {κ : Gauges} {s : State} {f} (h : s.gauges = κ) : Ans.Keeps κ (execVcmp f s) := by
  unfold execVcmp
  refine .finish h ?_
  refine .bind vType_keeps fun _ _ => .bind (State.onTile_keeps h) fun _ _ => ?_
  dsimp only
  simp [h]

theorem execVsel_keeps {κ : Gauges} {s : State} {f} (h : s.gauges = κ) : Ans.Keeps κ (execVsel f s) := by
  unfold execVsel
  exact .finish h (State.vRes_keeps h)

theorem execVmov_keeps {κ : Gauges} {s : State} {f} (h : s.gauges = κ) : Ans.Keeps κ (execVmov f s) := by
  unfold execVmov
  refine .finish h ?_
  refine .bind vType_keeps fun _ _ => ?_
  dsimp only
  split <;> exact State.vMove_keeps h

theorem execVmovC_keeps {κ : Gauges} {s : State} {f} (h : s.gauges = κ) : Ans.Keeps κ (execVmovC f s) := by
  unfold execVmovC
  exact .finish h (State.vRes_keeps h)

theorem State.vElems_keeps {κ : Gauges} {s : State} {f srcs op} (h : s.gauges = κ) : (s.vElems f srcs op).Keeps κ (·.gauges = κ) := by
  unfold State.vElems
  refine .bind vType_keeps fun _ _ => ?_
  dsimp only
  exact State.vMove_keeps h

theorem execVbcast_keeps {κ : Gauges} {s : State} {f} (h : s.gauges = κ) : Ans.Keeps κ (execVbcast f s) := by
  unfold execVbcast
  exact .finish h (State.vElems_keeps h)

theorem execVins_keeps {κ : Gauges} {s : State} {f} (h : s.gauges = κ) : Ans.Keeps κ (execVins f s) := by
  unfold execVins
  refine .finish h ?_
  refine .bind vType_keeps fun _ _ => ?_
  dsimp only
  exact State.vMove_keeps h

theorem execVext_keeps {κ : Gauges} {s : State} {f} (h : s.gauges = κ) : Ans.Keeps κ (execVext f s) := by
  unfold execVext
  exact .finish h (State.vElems_keeps h)

theorem execVperm_keeps {κ : Gauges} {s : State} {f} (h : s.gauges = κ) : Ans.Keeps κ (execVperm f s) := by
  unfold execVperm
  exact .finish h (State.vElems_keeps h)

theorem execVshuf_keeps {κ : Gauges} {s : State} {f} (h : s.gauges = κ) : Ans.Keeps κ (execVshuf f s) := by
  unfold execVshuf
  exact .finish h (State.vElems_keeps h)

theorem execVrot_keeps {κ : Gauges} {s : State} {f} (h : s.gauges = κ) : Ans.Keeps κ (execVrot f s) := by
  unfold execVrot
  exact .finish h (State.vElems_keeps h)

theorem execVred_keeps {κ : Gauges} {s : State} {f} (h : s.gauges = κ) : Ans.Keeps κ (execVred f s) := by
  unfold execVred
  refine .finish h ?_
  refine .bind vType_keeps fun _ _ => ?_
  dsimp only
  exact State.vRes_keeps h

theorem execVscan_keeps {κ : Gauges} {s : State} {f} (h : s.gauges = κ) : Ans.Keeps κ (execVscan f s) := by
  unfold execVscan
  refine .finish h ?_
  refine .bind vType_keeps fun _ _ => ?_
  dsimp only
  exact State.vRes_keeps h

@[simp] theorem sliceOk_keeps {κ : Gauges} {w w2 h} : (sliceOk w w2 h).Keeps κ fun _ => True := Res.check_keeps

theorem State.vConvert_keeps {κ : Gauges} {s : State} {f h' reads cv} (h : s.gauges = κ) : (s.vConvert f h' reads cv).Keeps κ (·.gauges = κ) := by
  unfold State.vConvert
  dsimp only
  exact .bind sliceOk_keeps fun _ _ => State.vRes_keeps h

theorem execVcvt_keeps {κ : Gauges} {s : State} {f} (h : s.gauges = κ) : Ans.Keeps κ (execVcvt f s) := by
  unfold execVcvt
  refine .finish h ?_
  exact .bind vType_keeps fun _ _ => State.vConvert_keeps h

theorem execVscale_keeps {κ : Gauges} {s : State} {f} (h : s.gauges = κ) : Ans.Keeps κ (execVscale f s) := by
  unfold execVscale
  refine .finish h ?_
  refine .bind vType_keeps fun _ _ => ?_
  dsimp only
  exact .bind sliceOk_keeps fun _ _ => State.vRes_keeps h

theorem execVquant_keeps {κ : Gauges} {s : State} {f} (h : s.gauges = κ) : Ans.Keeps κ (execVquant f s) := by
  unfold execVquant
  refine .finish h ?_
  exact .bind vType_keeps fun _ _ => State.vConvert_keeps h

theorem execVdequant_keeps {κ : Gauges} {s : State} {f} (h : s.gauges = κ) : Ans.Keeps κ (execVdequant f s) := by
  unfold execVdequant
  refine .finish h ?_
  exact .bind vType_keeps fun _ _ => State.vConvert_keeps h

theorem execCpush_keeps {κ : Gauges} {s : State} {f} (h : s.gauges = κ) : Ans.Keeps κ (execCpush f s) := by
  unfold execCpush
  refine .finish h ?_
  refine .bind vType_keeps fun _ _ => .bind (State.onTile_keeps h) fun _ _ => ?_
  dsimp only
  split
  · exact .stall h
  · exact .bind Res.check_keeps fun _ _ => .ok (by simp [h])

theorem execCpop_keeps {κ : Gauges} {s : State} {f} (h : s.gauges = κ) : Ans.Keeps κ (execCpop f s) := by
  unfold execCpop
  refine .finish h ?_
  refine .bind vType_keeps fun _ _ => .bind (State.onTile_keeps h) fun _ _ => ?_
  dsimp only
  split
  · exact .stall h
  · exact .bind Res.check_keeps fun _ _ => .ok (by simp [h])

theorem execCbal_keeps {κ : Gauges} {s : State} {f} (h : s.gauges = κ) : Ans.Keeps κ (execCbal f s) := by
  unfold execCbal
  refine .finish h ?_
  exact .bind vType_keeps fun _ _ => .bind (State.onTile_keeps h) fun _ _ => .ok (by simp [h])

theorem State.maskRes_keeps {κ : Gauges} {s : State} {f reads op} (h : s.gauges = κ) : (s.maskRes f reads op).Keeps κ (·.gauges = κ) := by
  unfold State.maskRes
  refine .bind (State.onTile_keeps h) fun _ _ => ?_
  dsimp only
  simp [h]

theorem execKand_keeps {κ : Gauges} {s : State} {f} (h : s.gauges = κ) : Ans.Keeps κ (execKand f s) := by
  unfold execKand
  exact .finish h (State.maskRes_keeps h)

theorem execKor_keeps {κ : Gauges} {s : State} {f} (h : s.gauges = κ) : Ans.Keeps κ (execKor f s) := by
  unfold execKor
  exact .finish h (State.maskRes_keeps h)

theorem execKxor_keeps {κ : Gauges} {s : State} {f} (h : s.gauges = κ) : Ans.Keeps κ (execKxor f s) := by
  unfold execKxor
  exact .finish h (State.maskRes_keeps h)

theorem execKnot_keeps {κ : Gauges} {s : State} {f} (h : s.gauges = κ) : Ans.Keeps κ (execKnot f s) := by
  unfold execKnot
  exact .finish h (State.maskRes_keeps h)

theorem execKpop_keeps {κ : Gauges} {s : State} {f} (h : s.gauges = κ) : Ans.Keeps κ (execKpop f s) := by
  unfold execKpop
  exact .finish h (State.maskRes_keeps h)

theorem execKmov_keeps {κ : Gauges} {s : State} {f} (h : s.gauges = κ) : Ans.Keeps κ (execKmov f s) := by
  unfold execKmov
  exact .finish h (State.maskRes_keeps h)

theorem execVpop_keeps {κ : Gauges} {s : State} {f} (h : s.gauges = κ) : Ans.Keeps κ (execVpop f s) := by
  unfold execVpop
  refine .finish h ?_
  refine .bind (State.onTile_keeps h) fun _ _ => ?_
  dsimp only
  split
  · exact .stall h
  · split
    · exact .stall h
    · exact .ok (by simp [h])

theorem execVpush_keeps {κ : Gauges} {s : State} {f} (h : s.gauges = κ) : Ans.Keeps κ (execVpush f s) := by
  unfold execVpush
  refine .finish h ?_
  refine .bind (State.onTile_keeps h) fun _ _ => ?_
  dsimp only
  simp [h]

end Sys2Proof.Machine
end

section
/-! The gauges through the operations of Machine/Matrix.lean. -/
namespace Sys2Proof.Machine
open Sys2Proof

theorem State.matHead_keeps {κ : Gauges} {s : State} {t q} (h : s.gauges = κ) : (s.matHead t q).Keeps κ fun _ => True := by
  unfold State.matHead
  dsimp only
  split
  · exact .stall h
  · split
    · exact .ok trivial
    · exact .stall h

theorem State.free_keeps {κ : Gauges} {s : State} {ok} (h : s.gauges = κ) : (s.free ok).Keeps κ fun _ => True := by
  unfold State.free
  simp [h]

theorem State.matrixIssue_keeps {κ : Gauges} {s : State} {dt ec pv pn pk} {go : Nat → Bool → State → Res State} (h : s.gauges = κ)
    (hgo : ∀ t x s1, s1.gauges = κ → (go t x s1).Keeps κ (·.gauges = κ)) : Ans.Keeps κ (s.matrixIssue dt ec pv pn pk go) := by
  unfold State.matrixIssue
  split
  · extract_lets x m free p' reach c debit units issue missed waits whenReady
    have hissue : issue.Keeps κ (·.gauges = κ) := by
      dsimp only [issue]
      split
      · exact .stall h
      · split
        · exact .stall h
        · exact hgo _ _ _ (by simp [h])
    clear_value issue
    have hmissed : Ans.Keeps κ missed := .next (by simp [h])
    have hwaits (w) : Ans.Keeps κ (waits w) := .next (by simp [h])
    have hready : Ans.Keeps κ whenReady := by
      dsimp only [whenReady]
      split
      · exact hwaits _
      · exact .finish h hissue
    refine Ans.keeps_if hready <| Ans.keeps_if (.next (by simp [h])) <| Ans.keeps_if (hwaits _) <|
      Ans.keeps_if (Ans.keeps_if hmissed ?_) <| Ans.keeps_if (hwaits _) hready
    split
    · exact hmissed
    · exact .finish h hissue
  · exact .next (by simp [h])

theorem State.matrixM_keeps {κ : Gauges} {s : State} {f} {go : Nat → Bool → State → Res State} (h : s.gauges = κ)
    (hgo : ∀ t x s1, s1.gauges = κ → (go t x s1).Keeps κ (·.gauges = κ)) : Ans.Keeps κ (s.matrixM f go) :=
  State.matrixIssue_keeps h hgo

@[simp] theorem mRowsOk_keeps {κ : Gauges} {f} : (mRowsOk f).Keeps κ fun _ => True := Res.check_keeps

theorem execMnop_keeps {κ : Gauges} {s : State} {f} (h : s.gauges = κ) : Ans.Keeps κ (execMnop f s) := by
  unfold execMnop
  exact State.matrixM_keeps h fun t x s1 h1 => .ok (by simp [h1])

theorem execMnopC_keeps {κ : Gauges} {s : State} {f} (h : s.gauges = κ) : Ans.Keeps κ (execMnopC f s) := by
  unfold execMnopC
  exact State.matrixIssue_keeps h fun t x s1 h1 => .ok (by simp [h1])

@[simp] theorem State.openRun_gauges (s : State) (t p) : (s.openRun t p).gauges = s.gauges := State.gauges_of rfl rfl

theorem execMstamp_keeps {κ : Gauges} {s : State} {f} (h : s.gauges = κ) : Ans.Keeps κ (execMstamp f s) := by
  unfold execMstamp
  exact State.matrixM_keeps h fun t x s1 h1 => .ok (by simp [h1])

theorem execMstampAl_keeps {κ : Gauges} {s : State} {f} (h : s.gauges = κ) : Ans.Keeps κ (execMstampAl f s) := by
  unfold execMstampAl
  exact State.matrixM_keeps h fun t x s1 h1 => .ok (by simp [h1])

theorem execMmode_keeps {κ : Gauges} {s : State} {f} (h : s.gauges = κ) : Ans.Keeps κ (execMmode f s) := by
  unfold execMmode
  exact State.matrixM_keeps h fun t x s1 h1 => .ok (by simp [h1])

theorem execMwait_keeps {κ : Gauges} {s : State} {f} (h : s.gauges = κ) : Ans.Keeps κ (execMwait f s) := by
  unfold execMwait
  refine State.matrixM_keeps h fun t x s1 h1 => ?_
  split
  · exact .bind (State.free_keeps h1) fun _ _ => .ok (by simp [h1])
  · split
    · exact .stall h
    · refine .bind (State.flagReserve_keeps h1) fun s2 hs2 => ?_
      split
      · exact .ok (by simp [State.flagTake_gauges ‹_›, hs2])
      · exact .stall h

theorem execMtscale_keeps {κ : Gauges} {s : State} {f} (h : s.gauges = κ) : Ans.Keeps κ (execMtscale f s) := by
  unfold execMtscale
  refine State.matrixM_keeps h fun t x s1 h1 => ?_
  dsimp only
  exact .ok (by simp [h1])

theorem execMtscaleQ_keeps {κ : Gauges} {s : State} {f} (h : s.gauges = κ) : Ans.Keeps κ (execMtscaleQ f s) := by
  unfold execMtscaleQ
  refine State.matrixM_keeps h fun t x s1 h1 => ?_
  dsimp only
  exact .bind (State.matHead_keeps h1) fun _ _ => .ok (by simp [h1])

theorem execMnstat_keeps {κ : Gauges} {s : State} {f} (h : s.gauges = κ) : Ans.Keeps κ (execMnstat f s) := by
  unfold execMnstat
  refine State.matrixM_keeps h fun t x s1 h1 => ?_
  dsimp only
  exact .bind (State.free_keeps h1) fun _ _ => .ok (by simp [h1])

theorem execMroute_keeps {κ : Gauges} {s : State} {f} (h : s.gauges = κ) : Ans.Keeps κ (execMroute f s) := by
  unfold execMroute
  refine State.matrixM_keeps h fun t x s1 h1 => ?_
  dsimp only
  exact .bind (State.matHead_keeps h1) fun _ _ => by simp [h1, h]

theorem State.startRun_keeps {κ : Gauges} {s : State} {t r} (h : s.gauges = κ) : (s.startRun t r).Keeps κ (·.gauges = κ) := by
  unfold State.startRun
  dsimp only
  split
  · exact .stall h
  · split
    · exact .stall h
    · exact .ok (by simp [h])

theorem execMwld_keeps {κ : Gauges} {s : State} {f} (h : s.gauges = κ) : Ans.Keeps κ (execMwld f s) := by
  unfold execMwld
  refine State.matrixM_keeps h fun t x s1 h1 => ?_
  dsimp only
  exact .bind Res.check_keeps fun _ _ => .bind (State.free_keeps h1) fun _ _ => State.startRun_keeps (by simp [h1])

theorem execMwsel_keeps {κ : Gauges} {s : State} {f} (h : s.gauges = κ) : Ans.Keeps κ (execMwsel f s) := by
  unfold execMwsel
  refine State.matrixM_keeps h fun t x s1 h1 => ?_
  dsimp only
  exact .bind (State.free_keeps h1) fun _ _ => .bind Res.check_keeps fun _ _ => .bind (State.free_keeps h1) fun _ _ => .ok (by simp [h1])

theorem State.mma_keeps {κ : Gauges} {s : State} {f zero} (h : s.gauges = κ) : Ans.Keeps κ (s.mma f zero) := by
  unfold State.mma
  refine State.matrixM_keeps h fun t x s1 h1 => ?_
  dsimp only
  refine .bind mRowsOk_keeps fun _ _ => .bind (State.free_keeps h1) fun _ _ => .bind Res.check_keeps fun _ _ => ?_
  refine .bind Res.check_keeps fun _ _ => .bind Res.check_keeps fun _ _ => .bind Res.check_keeps fun _ _ => ?_
  exact .bind Res.check_keeps fun _ _ => State.startRun_keeps h1

theorem execMma_keeps {κ : Gauges} {s : State} {f} (h : s.gauges = κ) : Ans.Keeps κ (execMma f s) := by
  unfold execMma
  exact State.mma_keeps h

theorem execMmaz_keeps {κ : Gauges} {s : State} {f} (h : s.gauges = κ) : Ans.Keeps κ (execMmaz f s) := by
  unfold execMmaz
  exact State.mma_keeps h

theorem execMhad_keeps {κ : Gauges} {s : State} {f} (h : s.gauges = κ) : Ans.Keeps κ (execMhad f s) := by
  unfold execMhad
  refine State.matrixM_keeps h fun t x s1 h1 => ?_
  dsimp only
  refine .bind Res.check_keeps fun _ _ => ?_
  split
  · exact .bind mRowsOk_keeps fun _ _ => .bind Res.check_keeps fun _ _ => .bind (State.free_keeps h1) fun _ _ => .ok (by simp [h1])
  · refine .bind (State.free_keeps h1) fun _ _ => .bind Res.check_keeps fun _ _ => .bind Res.check_keeps fun _ _ => ?_
    exact .bind (State.free_keeps h1) fun _ _ => .ok (by simp [h1])

theorem execMquant_keeps {κ : Gauges} {s : State} {f} (h : s.gauges = κ) : Ans.Keeps κ (execMquant f s) := by
  unfold execMquant
  refine State.matrixM_keeps h fun t x s1 h1 => ?_
  dsimp only
  refine .bind mRowsOk_keeps fun _ _ => .bind Res.check_keeps fun _ _ => .bind Res.check_keeps fun _ _ => ?_
  exact .bind (State.free_keeps h1) fun _ _ => .ok (by simp [h1])

@[simp] theorem spadEntry_keeps {κ : Gauges} {e rows rb} : (spadEntry e rows rb).Keeps κ fun _ => True :=
  .bind Res.check_keeps fun _ _ => .ok trivial

theorem State.startDrain_keeps {κ : Gauges} {s : State} {t d lines} (h : s.gauges = κ) : (s.startDrain t d lines).Keeps κ (·.gauges = κ) := by
  unfold State.startDrain
  dsimp only
  exact .bind (State.reserveRing_keeps h) fun s1 hs1 => .ok (by simp [hs1])

theorem State.drainTensor_keeps {κ : Gauges} {s : State} {t shadow act f e rows} (h : s.gauges = κ) : (s.drainTensor t shadow act f e rows).Keeps κ fun _ => True := by
  unfold State.drainTensor
  dsimp only
  refine .bind Res.check_keeps fun _ _ => .bind (State.tensorUse_keeps h) fun _ _ => .bind Res.check_keeps fun _ _ => ?_
  refine .bind Res.check_keeps fun _ _ => ?_
  split
  · exact .ok trivial
  · exact .bind (State.chunkPlaces_keeps h) fun _ _ => .bind (State.chunkPlaces_keeps h) fun _ _ => .ok trivial

theorem execMdrain_keeps {κ : Gauges} {s : State} {f} (h : s.gauges = κ) : Ans.Keeps κ (execMdrain f s) := by
  unfold execMdrain
  refine State.matrixM_keeps h fun t x s1 h1 => ?_
  dsimp only
  refine .bind mRowsOk_keeps fun _ _ => .bind Res.check_keeps fun _ _ => .bind (State.free_keeps h1) fun _ _ => ?_
  split
  · exact .bind Res.check_keeps fun _ _ => State.startDrain_keeps (by simp [h1])
  · refine .bind (State.matHead_keeps h1) fun _ _ => ?_
    split
    · exact .bind spadEntry_keeps fun _ _ => State.startDrain_keeps (by simp [h1])
    · exact .bind (State.drainTensor_keeps h1) fun _ _ => State.startDrain_keeps (by simp [h1])

theorem execMaccld_keeps {κ : Gauges} {s : State} {f} (h : s.gauges = κ) : Ans.Keeps κ (execMaccld f s) := by
  unfold execMaccld
  exact State.matrixM_keeps h fun t x s1 h1 => .bind mRowsOk_keeps fun _ _ => .bind (State.free_keeps h1) fun _ _ => State.startRun_keeps h1

theorem execMaccst_keeps {κ : Gauges} {s : State} {f} (h : s.gauges = κ) : Ans.Keeps κ (execMaccst f s) := by
  unfold execMaccst
  refine State.matrixM_keeps h fun t x s1 h1 => ?_
  dsimp only
  refine .bind mRowsOk_keeps fun _ _ => .bind (State.free_keeps h1) fun _ _ => .bind (State.matHead_keeps h1) fun _ _ => ?_
  exact .bind spadEntry_keeps fun _ _ => State.startDrain_keeps (by simp [h1])

theorem execMzero_keeps {κ : Gauges} {s : State} {f} (h : s.gauges = κ) : Ans.Keeps κ (execMzero f s) := by
  unfold execMzero
  exact State.matrixM_keeps h fun t x s1 h1 => .bind mRowsOk_keeps fun _ _ => .bind (State.free_keeps h1) fun _ _ => .ok (by simp [h1])

@[simp] theorem State.drainSegs_gauges (s : State) (t d l) : (s.drainSegs t d l).gauges = s.gauges := by
  simp [State.drainSegs]

@[simp] theorem State.drainSends_gauges (s : State) (t d) : (s.drainSends t d).gauges = s.gauges := by
  unfold State.drainSends
  split <;> simp

@[simp] theorem State.drainAdvance_gauges (s : State) (t) : (s.drainAdvance t).gauges = s.gauges := State.gauges_of rfl rfl

@[simp] theorem State.drainCycle_gauges (s : State) (t) : (s.drainCycle t).gauges = s.gauges := by
  unfold State.drainCycle
  split <;> simp

theorem execDrainComplete_keeps {κ : Gauges} {s : State} {tile n} (h : s.gauges = κ) : Ans.Keeps κ (execDrainComplete tile n s) := by
  unfold execDrainComplete
  dsimp only
  split
  · exact .next h
  · simp [h]

end Sys2Proof.Machine
end

section
/-! The gauges through the operations of Machine/Publish.lean. -/
namespace Sys2Proof.Machine
open Sys2Proof

@[simp] theorem State.publishNow_gauges (s : State) (src tile ctx id obj) : (s.publishNow src tile ctx id obj).gauges = s.gauges := by
  simp only [State.publishNow]
  split <;> simp

theorem execPublish_keeps {κ : Gauges} {s : State} {f} (h : s.gauges = κ) : Ans.Keeps κ (execPublish f s) := by
  unfold execPublish
  dsimp only
  refine .finish h ?_
  refine .bind (State.acqHeld_keeps h) fun _ _ => ?_
  split
  · simp [h]
  · refine .bind (State.src_keeps h) fun _ _ => .bind (State.tensorUse_keeps h) fun _ _ => .bind Res.check_keeps fun _ _ => ?_
    refine .bind Res.check_keeps fun _ _ => .bind (P := (·.gauges = κ)) ?_ fun s1 hs1 => ?_
    · split
      · exact .ok h
      · exact .bind (State.reach_keeps h) fun r hr => .bind Res.check_keeps fun _ _ => .ok hr
    · exact .stall (by simp [hs1])

theorem execPublishExchange_keeps {κ : Gauges} {s : State} {who} (h : s.gauges = κ) : Ans.Keeps κ (execPublishExchange who s) := by
  unfold execPublishExchange
  split
  · exact .next h
  · dsimp only
    split
    · exact .next h
    · split
      · exact .next (by simp [(State.reserveLen_keeps h).of_ok ‹_›])
      · exact .next h

end Sys2Proof.Machine
end

section
/-! The gauges through the operations of Machine/Tick.lean. -/
namespace Sys2Proof.Machine
open Sys2Proof

@[simp] theorem State.gatherRead_gauges (s : State) (t port) : (s.gatherRead t port).gauges = s.gauges := by
  unfold State.gatherRead
  split <;> simp

@[simp] theorem State.portGranted_gauges (s : State) (t bank u) : (s.portGranted t bank u).gauges = s.gauges := by
  unfold State.portGranted
  split
  · simp
  · simp
  · simp
  · split <;> simp
  · split <;> simp
  · simp

@[simp] theorem State.arbitrate_gauges (s : State) (t) : (s.arbitrate t).gauges = s.gauges := by
  simp [State.arbitrate]

@[simp] theorem State.breakDeadlock_gauges (s : State) (t) : (s.breakDeadlock t).gauges = s.gauges := by
  simp [State.breakDeadlock]

@[simp] theorem State.tileCycle_gauges (s : State) (t) : (s.tileCycle t).gauges = s.gauges := by
  simp [State.tileCycle]

end Sys2Proof.Machine
end

section
/-! The gauges through the operations of Machine/Fetch.lean. -/
namespace Sys2Proof.Machine
open Sys2Proof

theorem State.missWord_keeps {κ : Gauges} {s : State} {t} (h : s.gauges = κ) : Ans.Keeps κ (s.missWord t) := by
  unfold State.missWord
  dsimp only
  exact .next (by simp [h])

end Sys2Proof.Machine
end

section
/-! The gauges through every instruction, step word and event but the four that set them. -/
namespace Sys2Proof.Machine
open Sys2Proof

/-- The four events that set the CCC or the power gauges: the resets, the end of a limiting period and the write of PKG_LIMIT. -/
def setsGauges : Instr → Bool
  | .packageReset | .resetNRelease _ | .powerPeriodEnd _ | .pkgLimitWrite _ => true
  | _ => false

theorem exec_keeps {κ : Gauges} {s : State} {i : Instr} (h : s.gauges = κ) (hi : setsGauges i = false) : Ans.Keeps κ (exec i s) := by
  cases i with
  | packageReset => cases hi
  | resetNRelease _ => cases hi
  | thermalHot _ _ => exact execThermalHot_keeps h
  | thermtrip _ => exact execThermtrip_keeps h
  | powerPeriodEnd _ => cases hi
  | pkgLimitWrite _ => cases hi
  | lifetimeRewrite _ => exact execLifetimeRewrite_keeps h
  | attestationRequest _ => exact execAttestationRequest_keeps h
  | attestationReportSigned => exact execAttestationReportSigned_keeps h
  | setdasa _ _ => exact execSetdasa_keeps h
  | entdaa _ => exact execEntdaa_keeps h
  | flitReceive _ _ => exact execFlitReceive_keeps h
  | nakReceive _ _ => exact execNakReceive_keeps h
  | nakResendTimeout _ => exact execNakResendTimeout_keeps h
  | goBackTimeout _ => exact execGoBackTimeout_keeps h
  | nakExhausted _ => exact execNakExhausted_keeps h
  | lossOfSignal _ => exact execLossOfSignal_keeps h
  | trainingAttempt _ => exact execTrainingAttempt_keeps h
  | trainingEnd _ _ => exact execTrainingEnd_keeps h
  | lendPeriodEnd _ => exact execLendPeriodEnd_keeps h
  | lendReceive _ _ => exact execLendReceive_keeps h
  | packetForward _ => exact execPacketForward_keeps h
  | rstPacket _ => exact execRstPacket_keeps h
  | raccPacket _ => exact execRaccPacket_keeps h
  | msgPacket _ => exact execMsgPacket_keeps h
  | redPacket _ => exact execRedPacket_keeps h
  | ackPacket _ => exact execAckPacket_keeps h
  | tkqPacket _ => exact execTkqPacket_keeps h
  | tkaPacket _ => exact execTkaPacket_keeps h
  | tkqRetry _ _ => exact execTkqRetry_keeps h
  | tokenExpiry _ => exact execTokenExpiry_keeps h
  | holdQueueFull _ => exact execHoldQueueFull_keeps h
  | tokenTableFull => exact execTokenTableFull_keeps h
  | sdownPacket _ => exact execSdownPacket_keeps h
  | sdackPacket _ => exact execSdackPacket_keeps h
  | sdownNodeTimeout _ => exact execSdownNodeTimeout_keeps h
  | shootdownRootTimeout _ => exact execShootdownRootTimeout_keeps h
  | leaseWaitExpiry _ => exact execLeaseWaitExpiry_keeps h
  | fencePacket _ => exact execFencePacket_keeps h
  | fenceClrPacket _ => exact execFenceClrPacket_keeps h
  | pathrstPacket _ => exact execPathrstPacket_keeps h
  | ctsNotice _ => exact execCtsNotice_keeps h
  | acceptNotice _ => exact execAcceptNotice_keeps h
  | repeatNotice _ => exact execRepeatNotice_keeps h
  | stepokNotice _ => exact execStepokNotice_keeps h
  | abortNotice _ => exact execAbortNotice_keeps h
  | decideNotice _ => exact execDecideNotice_keeps h
  | reportNotice _ => exact execReportNotice_keeps h
  | alldoneNotice _ => exact execAlldoneNotice_keeps h
  | musterNotice _ => exact execMusterNotice_keeps h
  | taggedSendArrival _ => exact execTaggedSendArrival_keeps h
  | rmaWriteArrival _ => exact execRmaWriteArrival_keeps h
  | continuationPacket _ _ _ => exact execContinuationPacket_keeps h
  | deliveryContextFailure _ => exact execDeliveryContextFailure_keeps h
  | uudPacket port => exact execUudPacket_keeps (x0 := port) h
  | uetDelivery _ _ => exact execUetDelivery_keeps h
  | hostApertureWrite _ _ _ => exact execHostApertureWrite_keeps h
  | doorbell _ _ _ => exact execDoorbell_keeps h
  | hostUnsupportedRead _ => exact execHostUnsupportedRead_keeps h
  | bar0Access _ _ _ => exact execBar0Access_keeps h
  | arrivalMatch => exact execArrivalMatch_keeps h
  | depositCompletion _ => exact execDepositCompletion_keeps h
  | windowDelivery => exact execWindowDelivery_keeps h
  | engineSignal => exact execEngineSignal_keeps h
  | counterRegisterWrite _ _ => exact execCounterRegisterWrite_keeps h
  | actionLaunch => exact execActionLaunch_keeps h
  | actionCopy => exact execActionCopy_keeps h
  | actionSend => exact execActionSend_keeps h
  | actionRst => exact execActionRst_keeps h
  | actionInc => exact execActionInc_keeps h
  | actionKick => exact execActionKick_keeps h
  | actionThread => exact execActionThread_keeps h
  | actionRel => exact execActionRel_keeps h
  | threadDispatch _ => exact execThreadDispatch_keeps h
  | threadWatchdog _ => exact execThreadWatchdog_keeps h
  | acqGrant _ _ => exact execAcqGrant_keeps h
  | acqTimeout _ _ => exact execAcqTimeout_keeps h
  | fenceRfTimeout _ => exact execFenceRfTimeout_keeps h
  | publishExchange _ => exact execPublishExchange_keeps h
  | variableResultWrite _ _ => exact execVariableResultWrite_keeps h
  | remoteFlagSignal _ _ => exact execRemoteFlagSignal_keeps h
  | lotteryDraw _ => exact execLotteryDraw_keeps h
  | taskRetire _ => exact execTaskRetire_keeps h
  | taskRemoval _ => exact execTaskRemoval_keeps h
  | rerunSlotEntry _ => exact execRerunSlotEntry_keeps h
  | commandQueueTake _ _ => exact execCommandQueueTake_keeps h
  | blockComplete _ _ => exact execBlockComplete_keeps h
  | lockstepEntry _ => exact execLockstepEntry_keeps h
  | matchPointHit _ _ => exact execMatchPointHit_keeps h
  | hangTimeout _ => exact execHangTimeout_keeps h
  | wfeTimeout _ => exact execWfeTimeout_keeps h
  | scoreboardStallExpiry _ => exact execScoreboardStallExpiry_keeps h
  | energyRefill => exact execEnergyRefill_keeps h
  | preemptStop _ _ => exact execPreemptStop_keeps h
  | preemptTimeout _ => exact execPreemptTimeout_keeps h
  | copyPiece _ _ => exact execCopyPiece_keeps h
  | copyResume _ _ => exact execCopyResume_keeps h
  | copyRetire _ _ => exact execCopyRetire_keeps h
  | pageIn _ _ _ => exact execPageIn_keeps h
  | pageMigration _ => exact execPageMigration_keeps h
  | drainComplete _ _ => exact execDrainComplete_keeps h
  | collectiveStart _ => exact execCollectiveStart_keeps h
  | transferTake _ _ => exact execTransferTake_keeps h
  | collLate _ => exact execCollLate_keeps h
  | kickExpand => exact execKickExpand_keeps h
  | noticeTake => exact execNoticeTake_keeps h
  | schedulerTakeover => exact execSchedulerTakeover_keeps h
  | schedulerStop => exact execSchedulerStop_keeps h
  | saveAreaLost _ _ => exact execSaveAreaLost_keeps h
  | musterDrained _ => exact execMusterDrained_keeps h
  | undoBlockMove _ => exact execUndoBlockMove_keeps h
  | replayInputInject _ => exact execReplayInputInject_keeps h
  | preciseStopReached _ => exact execPreciseStopReached_keeps h
  | snapshotLatch => exact execSnapshotLatch_keeps h
  | traceSample _ => exact execTraceSample_keeps h
  | contextCreate _ => exact execContextCreate_keeps h
  | contextDestroy _ => exact execContextDestroy_keeps h
  | straitGeomWrite _ => exact execStraitGeomWrite_keeps h
  | windowEntryWrite _ _ _ => exact execWindowEntryWrite_keeps h
  | txdstWrite _ _ => exact execTxdstWrite_keeps h
  | xlatCtlWrite _ => exact execXlatCtlWrite_keeps h
  | townWrite _ _ => exact execTownWrite_keeps h
  | cengOwnWrite _ _ => exact execCengOwnWrite_keeps h
  | itinWrite _ _ _ => exact execItinWrite_keeps h
  | undowinOldestWrite _ _ => exact execUndowinOldestWrite_keeps h
  | replayPlayClear _ => exact execReplayPlayClear_keeps h
  | registerWrite _ _ => exact execRegisterWrite_keeps h
  | registerReadClear _ => exact execRegisterReadClear_keeps h
  | blockHeader _ => exact execBlockHeader_keeps h
  | add _ => exact execAdd_keeps h
  | sub _ => exact execSub_keeps h
  | and _ => exact execAnd_keeps h
  | or _ => exact execOr_keeps h
  | xor _ => exact execXor_keeps h
  | andn _ => exact execAndn_keeps h
  | sll _ => exact execSll_keeps h
  | srl _ => exact execSrl_keeps h
  | sra _ => exact execSra_keeps h
  | mul _ => exact execMul_keeps h
  | mulh _ => exact execMulh_keeps h
  | mulhn _ => exact execMulhn_keeps h
  | div _ => exact execDiv_keeps h
  | divn _ => exact execDivn_keeps h
  | rem _ => exact execRem_keeps h
  | remn _ => exact execRemn_keeps h
  | min _ => exact execMin_keeps h
  | max _ => exact execMax_keeps h
  | minn _ => exact execMinn_keeps h
  | maxn _ => exact execMaxn_keeps h
  | slt _ => exact execSlt_keeps h
  | sltn _ => exact execSltn_keeps h
  | seq _ => exact execSeq_keeps h
  | sne _ => exact execSne_keeps h
  | sel _ => exact execSel_keeps h
  | clz _ => exact execClz_keeps h
  | ctz _ => exact execCtz_keeps h
  | popc _ => exact execPopc_keeps h
  | sext _ => exact execSext_keeps h
  | zext _ => exact execZext_keeps h
  | bswap _ => exact execBswap_keeps h
  | addi _ => exact execAddi_keeps h
  | andi _ => exact execAndi_keeps h
  | ori _ => exact execOri_keeps h
  | xori _ => exact execXori_keeps h
  | slli _ => exact execSlli_keeps h
  | srli _ => exact execSrli_keeps h
  | srai _ => exact execSrai_keeps h
  | slti _ => exact execSlti_keeps h
  | sltni _ => exact execSltni_keeps h
  | li _ => exact execLi_keeps h
  | lih _ => exact execLih_keeps h
  | beq _ => exact execBeq_keeps h
  | bne _ => exact execBne_keeps h
  | blt _ => exact execBlt_keeps h
  | bge _ => exact execBge_keeps h
  | bltn _ => exact execBltn_keeps h
  | bgen _ => exact execBgen_keeps h
  | bz _ => exact execBz_keeps h
  | bnz _ => exact execBnz_keeps h
  | bfull _ => exact execBfull_keeps h
  | bempty _ => exact execBempty_keeps h
  | j _ => exact execJ_keeps h
  | jal _ => exact execJal_keeps h
  | jr _ => exact execJr_keeps h
  | jalr _ => exact execJalr_keeps h
  | ldb _ => exact execLdb_keeps h
  | ldbz _ => exact execLdbz_keeps h
  | ldh _ => exact execLdh_keeps h
  | ldhz _ => exact execLdhz_keeps h
  | ldw _ => exact execLdw_keeps h
  | ldwz _ => exact execLdwz_keeps h
  | ldd _ => exact execLdd_keeps h
  | fill _ => exact execFill_keeps h
  | stb _ => exact execStb_keeps h
  | sth _ => exact execSth_keeps h
  | stw _ => exact execStw_keeps h
  | std _ => exact execStd_keeps h
  | spill _ => exact execSpill_keeps h
  | amoadd _ => exact execAmoadd_keeps h
  | amoand _ => exact execAmoand_keeps h
  | amoor _ => exact execAmoor_keeps h
  | amoxor _ => exact execAmoxor_keeps h
  | amomin _ => exact execAmomin_keeps h
  | amomax _ => exact execAmomax_keeps h
  | amominn _ => exact execAmominn_keeps h
  | amomaxn _ => exact execAmomaxn_keeps h
  | amoswap _ => exact execAmoswap_keeps h
  | amocas _ => exact execAmocas_keeps h
  | amoaddI32 _ => exact execAmoaddI32_keeps h
  | amoandI32 _ => exact execAmoandI32_keeps h
  | amoorI32 _ => exact execAmoorI32_keeps h
  | amoxorI32 _ => exact execAmoxorI32_keeps h
  | amominI32 _ => exact execAmominI32_keeps h
  | amomaxI32 _ => exact execAmomaxI32_keeps h
  | amominnN32 _ => exact execAmominnN32_keeps h
  | amomaxnN32 _ => exact execAmomaxnN32_keeps h
  | amoswapI32 _ => exact execAmoswapI32_keeps h
  | amocasI32 _ => exact execAmocasI32_keeps h
  | amofaddF32 _ => exact execAmofaddF32_keeps h
  | acq _ => exact execAcq_keeps h
  | acqt _ => exact execAcqt_keeps h
  | rel _ => exact execRel_keeps h
  | bind _ => exact execBind_keeps h
  | unbind _ => exact execUnbind_keeps h
  | publish _ => exact execPublish_keeps h
  | fence => exact execFence_keeps h
  | fenceRf => exact execFenceRf_keeps h
  | bar _ => exact execBar_keeps h
  | flagw _ => exact execFlagw_keeps h
  | flags _ => exact execFlags_keeps h
  | flagc _ => exact execFlagc_keeps h
  | disp _ _ => exact execDisp_keeps h
  | nop => exact execNop_keeps h
  | sysrd _ => exact execSysrd_keeps h
  | syswr _ => exact execSyswr_keeps h
  | trap _ => exact execTrap_keeps h
  | reti _ => exact execReti_keeps h
  | mpret => exact execMpret_keeps h
  | wfe => exact execWfe_keeps h
  | halt => exact execHalt_keeps h
  | rdcc _ => exact execRdcc_keeps h
  | rdwork _ => exact execRdwork_keeps h
  | etrig => exact execEtrig_keeps h
  | tdone => exact execTdone_keeps h
  | mark => exact execMark_keeps h
  | nopC => exact execNopC_keeps h
  | addC _ => exact execAddC_keeps h
  | subC _ => exact execSubC_keeps h
  | andC _ => exact execAndC_keeps h
  | orC _ => exact execOrC_keeps h
  | xorC _ => exact execXorC_keeps h
  | addiC _ => exact execAddiC_keeps h
  | slliC _ => exact execSlliC_keeps h
  | srliC _ => exact execSrliC_keeps h
  | sraiC _ => exact execSraiC_keeps h
  | liC _ => exact execLiC_keeps h
  | addS0C _ => exact execAddS0C_keeps h
  | lddC _ => exact execLddC_keeps h
  | stdC _ => exact execStdC_keeps h
  | aadd _ => exact execAadd_keeps h
  | asub _ => exact execAsub_keeps h
  | amul _ => exact execAmul_keeps h
  | ashl _ => exact execAshl_keeps h
  | ashr _ => exact execAshr_keeps h
  | aand _ => exact execAand_keeps h
  | amov _ => exact execAmov_keeps h
  | aaddi _ => exact execAaddi_keeps h
  | ali _ => exact execAli_keeps h
  | aaddC _ => exact execAaddC_keeps h
  | aaddiC _ => exact execAaddiC_keeps h
  | amovC _ => exact execAmovC_keeps h
  | lq _ => exact execLq_keeps h
  | lqb _ => exact execLqb_keeps h
  | sq _ => exact execSq_keeps h
  | sqs _ => exact execSqs_keeps h
  | lqg _ => exact execLqg_keeps h
  | lqt _ => exact execLqt_keeps h
  | sqt _ => exact execSqt_keeps h
  | tcopy _ => exact execTcopy_keeps h
  | tgather _ => exact execTgather_keeps h
  | tscatter _ => exact execTscatter_keeps h
  | tfill _ => exact execTfill_keeps h
  | rst _ => exact execRst_keeps h
  | rstTk _ => exact execRstTk_keeps h
  | racc _ => exact execRacc_keeps h
  | xwait _ => exact execXwait_keeps h
  | sbq _ => exact execSbq_keeps h
  | qflush _ => exact execQflush_keeps h
  | qmark _ => exact execQmark_keeps h
  | vadd _ => exact execVadd_keeps h
  | vsub _ => exact execVsub_keeps h
  | vmul _ => exact execVmul_keeps h
  | vfma _ => exact execVfma_keeps h
  | vfms _ => exact execVfms_keeps h
  | vfnma _ => exact execVfnma_keeps h
  | vmax _ => exact execVmax_keeps h
  | vmin _ => exact execVmin_keeps h
  | vabs _ => exact execVabs_keeps h
  | vneg _ => exact execVneg_keeps h
  | vrcp _ => exact execVrcp_keeps h
  | vrsqrt _ => exact execVrsqrt_keeps h
  | vsqrt _ => exact execVsqrt_keeps h
  | vexp2 _ => exact execVexp2_keeps h
  | vlog2 _ => exact execVlog2_keeps h
  | vdiv _ => exact execVdiv_keeps h
  | vaddi _ => exact execVaddi_keeps h
  | vsubi _ => exact execVsubi_keeps h
  | vmuli _ => exact execVmuli_keeps h
  | vand _ => exact execVand_keeps h
  | vor _ => exact execVor_keeps h
  | vxor _ => exact execVxor_keeps h
  | vnot _ => exact execVnot_keeps h
  | vshl _ => exact execVshl_keeps h
  | vshr _ => exact execVshr_keeps h
  | vsra _ => exact execVsra_keeps h
  | vmaxi _ => exact execVmaxi_keeps h
  | vmini _ => exact execVmini_keeps h
  | vcmp _ => exact execVcmp_keeps h
  | vsel _ => exact execVsel_keeps h
  | vmov _ => exact execVmov_keeps h
  | vmovC _ => exact execVmovC_keeps h
  | vbcast _ => exact execVbcast_keeps h
  | vins _ => exact execVins_keeps h
  | vext _ => exact execVext_keeps h
  | vperm _ => exact execVperm_keeps h
  | vshuf _ => exact execVshuf_keeps h
  | vrot _ => exact execVrot_keeps h
  | vred _ => exact execVred_keeps h
  | vscan _ => exact execVscan_keeps h
  | vcvt _ => exact execVcvt_keeps h
  | vquant _ => exact execVquant_keeps h
  | vdequant _ => exact execVdequant_keeps h
  | vscale _ => exact execVscale_keeps h
  | cpush _ => exact execCpush_keeps h
  | cpop _ => exact execCpop_keeps h
  | cbal _ => exact execCbal_keeps h
  | kand _ => exact execKand_keeps h
  | kor _ => exact execKor_keeps h
  | kxor _ => exact execKxor_keeps h
  | knot _ => exact execKnot_keeps h
  | kpop _ => exact execKpop_keeps h
  | kmov _ => exact execKmov_keeps h
  | vpop _ => exact execVpop_keeps h
  | vpush _ => exact execVpush_keeps h
  | mnop _ => exact execMnop_keeps h
  | mnopC _ => exact execMnopC_keeps h
  | mstamp _ => exact execMstamp_keeps h
  | mstampAl _ => exact execMstampAl_keeps h
  | mmode _ => exact execMmode_keeps h
  | mwait _ => exact execMwait_keeps h
  | mtscale _ => exact execMtscale_keeps h
  | mtscaleQ _ => exact execMtscaleQ_keeps h
  | mnstat _ => exact execMnstat_keeps h
  | mroute _ => exact execMroute_keeps h
  | mwld _ => exact execMwld_keeps h
  | mwsel _ => exact execMwsel_keeps h
  | mma _ => exact execMma_keeps h
  | mmaz _ => exact execMmaz_keeps h
  | mhad _ => exact execMhad_keeps h
  | mquant _ => exact execMquant_keeps h
  | mdrain _ => exact execMdrain_keeps h
  | maccld _ => exact execMaccld_keeps h
  | maccst _ => exact execMaccst_keeps h
  | mzero _ => exact execMzero_keeps h
  | cinc _ => exact execCinc_keeps h
  | cset _ => exact execCset_keeps h
  | cadd _ => exact execCadd_keeps h
  | cread _ => exact execCread_keeps h
  | cwait _ => exact execCwait_keeps h
  | arm _ => exact execArm_keeps h
  | disarm _ => exact execDisarm_keeps h
  | armq _ => exact execArmq_keeps h
  | trig _ => exact execTrig_keeps h
  | kick _ => exact execKick_keeps h
  | launch _ => exact execLaunch_keeps h
  | patch _ => exact execPatch_keeps h
  | patchM _ => exact execPatchM_keeps h
  | qctlTickets _ => exact execQctlTickets_keeps h
  | qctlFlush _ => exact execQctlFlush_keeps h
  | qctlPreempt _ => exact execQctlPreempt_keeps h
  | qctlRead _ => exact execQctlRead_keeps h
  | coll _ => exact execColl_keeps h
  | collabort _ => exact execCollabort_keeps h
  | usend _ => exact execUsend_keeps h
  | uputRma _ => exact execUputRma_keeps h
  | uputHost _ => exact execUputHost_keeps h
  | mrecv _ => exact execMrecv_keeps h
  | mpoll _ => exact execMpoll_keeps h
  | mreply _ => exact execMreply_keeps h
  | mdone f => exact execMdone_keeps (x0 := f) h
  | mapVa _ => exact execMapVa_keeps h
  | mapTensor _ => exact execMapTensor_keeps h
  | mapChunk _ => exact execMapChunk_keeps h
  | unmapVa _ => exact execUnmapVa_keeps h
  | unmapTensor _ => exact execUnmapTensor_keeps h
  | unmapChunk _ => exact execUnmapChunk_keeps h
  | lease _ => exact execLease_keeps h
  | sdown _ => exact execSdown_keeps h
  | snap _ => exact execSnap_keeps h
  | muster _ => exact execMuster_keeps h
  | musterRelease _ => exact execMusterRelease_keeps h
  | musterHamper _ => exact execMusterHamper_keeps h
  | musterRestore _ => exact execMusterRestore_keeps h
  | rollcall _ => exact execRollcall_keeps h
  | rstepWindow _ => exact execRstepWindow_keeps h
  | rstepCount _ => exact execRstepCount_keeps h
  | rstepOpen _ => exact execRstepOpen_keeps h
  | mpsetPoint _ => exact execMpsetPoint_keeps h
  | mpsetVec _ => exact execMpsetVec_keeps h
  | stepSend _ => exact execStepSend_keeps h
  | stepRecv _ => exact execStepRecv_keeps h
  | stepRrs _ => exact execStepRrs_keeps h
  | stepCopy _ => exact execStepCopy_keeps h
  | stepWait _ => exact execStepWait_keeps h
  | stepLoop _ => exact execStepLoop_keeps h
  | stepEnd => exact execStepEnd_keeps h
  | unallocatedEncoding _ => exact execUnallocatedEncoding_keeps h
  | uncorrectableError _ => exact execUncorrectableError_keeps h
  | correctableError _ _ => exact execCorrectableError_keeps h
  | storePerformed _ => exact execStorePerformed_keeps h
  | operandQueueFill _ _ => exact execOperandQueueFill_keeps h
  | hostWriteAccepted => exact execHostWriteAccepted_keeps h
  | slotTableUpdate _ => exact execSlotTableUpdate_keeps h
  | missedHeartbeats _ => exact execMissedHeartbeats_keeps h

end Sys2Proof.Machine
end

section
/-! The gauges through a step (R16, R18): what decodes is none of the four events, what those four write, and the end of a cycle. -/
namespace Sys2Proof.Machine
open Sys2Proof

/-! ## What decodes is none of the four events -/

theorem code_of_setsGauges {i : Instr} (h : setsGauges i = true) : i.code = .none := by
  unfold setsGauges at h
  split at h
  · rfl
  · rfl
  · rfl
  · rfl
  · cases h

theorem code_of_checked {o : Option Instr} {c : Code} {i : Instr} (h : checked o c = .ok i) : i.code = c := by
  unfold checked at h
  split at h
  · cases h
  · split at h
    · rename_i hok
      cases h
      exact of_decide_eq_true (Bool.and_eq_true_iff.mp hok).2
    · cases h

theorem setsGauges_of_checked {o : Option Instr} {c : Code} {i : Instr} (h : checked o c = .ok i) (hc : c ≠ .none) : setsGauges i = false :=
  Bool.eq_false_iff.mpr fun hi => hc ((code_of_checked h).symm.trans (code_of_setsGauges hi))

theorem setsGauges_of_decodeHalves {c : Class} {hs : List (BitVec 16)} {i : Instr} (h : decodeHalves c hs = .ok i) : setsGauges i = false := by
  unfold decodeHalves at h
  split at h
  · split at h
    · exact setsGauges_of_checked h nofun
    · unfold decodeWord at h
      split at h
      · cases h
      · split at h
        · cases h
        · refine setsGauges_of_checked h ?_
          split <;> nofun
  · cases h

theorem setsGauges_of_decodeStep {w : BitVec 64} {i : Instr} (h : decodeStep w = some i) : setsGauges i = false := by
  unfold decodeStep at h
  cases hc : checked (selectStep (w.extractLsb' 0 4).toNat w) (.step w) with
  | error e => rw [hc] at h; cases h
  | ok j => rw [hc] at h; cases h; exact setsGauges_of_checked hc nofun

theorem setsGauges_insnOf (c : Class) (hs : List (BitVec 16)) : setsGauges (insnOf c hs) = false := by
  unfold insnOf
  split
  · exact setsGauges_of_decodeHalves ‹_›
  · rfl

/-! ## An issue opportunity -/

theorem afterIssue_keeps {κ : Gauges} {before : State} {w : Who} {a : Ans} (h : Ans.Keeps κ a) : Ans.Keeps κ (afterIssue before w a) := by
  cases h with
  | next h => exact .next ((State.loopExit_gauges ..).trans h)
  | fault => exact .fault
  | refused => exact .refused

theorem State.issueOne_keeps {κ : Gauges} {s : State} {w : Who} (h : s.gauges = κ) : Ans.Keeps κ (s.issueOne w) := by
  unfold State.issueOne
  split
  · have h1 := (State.readInsn_keeps h).of_ok ‹_›
    exact afterIssue_keeps (exec_keeps ((State.gauges_mk ..).trans h1) (setsGauges_insnOf ..))
  · exact .next ((State.stalled_gauges ..).trans ((State.readInsn_keeps h).of_stall ‹_›))
  · exact .next (by simp [h])
  · exact .next (by simp [h])
  · exact .fault

theorem State.issueWord_keeps {κ : Gauges} {s : State} {t : Nat} {ks : List Nat} (h : s.gauges = κ) : Ans.Keeps κ (s.issueWord t ks).1 := by
  induction ks generalizing s with
  | nil => exact .next h
  | cons k ks ih =>
    have h1 : Ans.Keeps κ (State.issueOne { s with cur := .stream t k } (.stream t k)) := State.issueOne_keeps ((State.gauges_mk ..).trans h)
    unfold State.issueWord
    split
    · have h2 := h1.of_next ‹_›
      split
      · exact .next h2
      · exact ih h2
    · exact h1

theorem State.issueLockstep_keeps {κ : Gauges} {s : State} {t : Nat} {ks : List Nat} (h : s.gauges = κ) : Ans.Keeps κ (s.issueLockstep t ks) := by
  unfold State.issueLockstep
  split
  · exact .next (by simp [h])
  · refine Ans.keeps_if (.next h) (Ans.keeps_if (.next (by simp [h])) ?_)
    split
    · rename_i a ha
      have := State.issueWord_keeps (t := t) (ks := ks) h
      rwa [ha] at this
    · rename_i k _
      have h1 : Ans.Keeps κ (State.issueOne { s with cur := .stream t k } (.stream t k)) := State.issueOne_keeps ((State.gauges_mk ..).trans h)
      split
      · have h2 := h1.of_next ‹_›
        exact Ans.keeps_if (State.missWord_keeps h) (.next (by simp [h, h2]))
      · exact h1

theorem State.engineStep_keeps {κ : Gauges} {s : State} {r : CollRun} (h : s.gauges = κ) : Ans.Keeps κ (s.engineStep r) := by
  unfold State.engineStep
  split
  · exact exec_keeps h rfl
  · split
    · exact exec_keeps h (setsGauges_of_decodeStep ‹_›)
    · exact .next h

theorem Ready.no_of_if {c : Prop} [Decidable c] {a b : Ready} {z : State} {P : Prop} (ha : a = .no z → P) (hb : b = .no z → P)
    (h : (if c then a else b) = .no z) : P := by
  split at h
  · exact ha h
  · exact hb h

theorem State.ready_gauges {s z : State} {w : Who} (h : s.ready w = .no z) : z.gauges = s.gauges := by
  have still : Ready.no s = .no z → z.gauges = s.gauges := fun e => Ready.no.inj e ▸ rfl
  have bubbled : Ready.no (s.bubble w) = .no z → z.gauges = s.gauges := fun e => Ready.no.inj e ▸ State.bubble_gauges ..
  revert h
  unfold State.ready
  cases w with
  | engine n => exact Ready.no_of_if still still
  | thread n => exact Ready.no_of_if still <| Ready.no_of_if still <| Ready.no_of_if bubbled nofun
  | stream t k =>
    refine Ready.no_of_if still <| Ready.no_of_if still <| Ready.no_of_if still <| Ready.no_of_if bubbled <| Ready.no_of_if still <|
      Ready.no_of_if still <| Ready.no_of_if (Ready.no_of_if nofun still) <| Ready.no_of_if (fun e => ?_) nofun
    rw [← Ready.no.inj e]
    simp

theorem State.issueNow_keeps {κ : Gauges} {s : State} {w : Who} (h : s.gauges = κ) : Ans.Keeps κ (s.issueNow w) := by
  have h0 : State.gauges { s with cur := w } = κ := (State.gauges_mk ..).trans h
  unfold State.issueNow
  extract_lets s0
  split
  · split
    · exact State.engineStep_keeps h0
    · exact .next h0
  · split
    · exact .next ((State.ready_gauges ‹_›).trans h0)
    · exact State.issueOne_keeps h0
    · split
      · exact State.issueLockstep_keeps h0
      · exact .next h0

theorem State.opportunity_keeps {κ : Gauges} {s : State} {w : Who} (h : s.gauges = κ) : Ans.Keeps κ (s.opportunity w) := by
  unfold State.opportunity
  split
  · extract_lets s1
    have h1 : s1.gauges = κ := by
      dsimp only [s1]
      split
      · exact gauges_if h ((State.modTile_gauges ..).trans h)
      · exact h
    exact Ans.keeps_if (.next h1) (State.issueNow_keeps h1)
  · exact State.issueNow_keeps h

/-! ## The moves that are no event, and those of events -/

/-- A move that is none of the four events keeps the gauges. -/
theorem step_keeps {s : State} {m : Move} {rest : List Move} (hm : s.agenda = m :: rest) (hi : ∀ i, m = .event i → setsGauges i = false) :
    Ans.Keeps s.gauges (step s) := by
  have h0 : State.gauges { s with agenda := rest } = s.gauges := State.gauges_mk ..
  unfold step
  rw [hm]
  refine Ans.keeps_if ?_ (.next h0)
  cases m with
  | event i => exact exec_keeps h0 (hi i rfl)
  | issue w => exact State.opportunity_keeps h0
  | i3cRead off n => exact .next ((State.i3cRead_gauges ..).trans h0)
  | counterCommand => exact .next ((State.counterCommand_gauges ..).trans h0)
  | ferryRelease => exact .next ((State.ferryReleases_gauges ..).trans h0)
  | ingress n => exact .next ((State.retryInput_gauges ..).trans h0)
  | arbitrate t => exact .next ((State.arbitrate_gauges ..).trans h0)
  | retry w => exact Ans.keeps_if (State.opportunity_keeps h0) (.next h0)

/-- An event runs as it stands, or is passed over while the package does not answer (R22). -/
theorem step_event {s : State} {i : Instr} {rest : List Move} (hm : s.agenda = .event i :: rest) :
    step s = if s.answers (.event i) then exec i { s with agenda := rest } else .next { s with agenda := rest } := by
  unfold step
  rw [hm]

theorem step_nil {s : State} (hm : s.agenda = []) : step s = .next s.tick := by
  unfold step
  rw [hm]

/-! ## The end of a cycle -/

theorem State.gauges_cycle (s : State) : s.cycle.gauges = (s.ccc + 1, s.pkg.pkgLimit, s.pkg.factor, s.pkg.limiting) := by
  unfold State.cycle
  extract_lets s1 s2
  have h : s2.gauges = s.gauges := by simp [s1, s2]
  simp only [State.gauges, Prod.mk.injEq] at h ⊢
  obtain ⟨hc, hl, hf, hm⟩ := h
  exact ⟨congrArg (· + 1) hc, hl, hf, hm⟩

theorem State.gauges_tick (s : State) :
    s.tick.gauges = (if s.pkg.released then s.ccc + 1 else s.ccc, s.pkg.pkgLimit, s.pkg.factor, s.pkg.limiting) := by
  unfold State.tick
  cases s.pkg.released with
  | false => rfl
  | true =>
    rw [if_neg (by simp)]
    exact gauges_if rfl ((State.gauges_mk ..).trans s.gauges_cycle)

/-! ## The four events -/

/-- The power limits are a property of the gauges. -/
def Gauges.Limits (κ : Gauges) : Prop :=
  600 ≤ κ.2.1.toNat ∧ κ.2.1.toNat ≤ 1900 ∧ 1 ≤ κ.2.2.1 ∧ κ.2.2.1 ≤ 1024 ∧ (κ.2.2.2 = false → κ.2.2.1 = 1024)

theorem powerLimits_iff {s : State} : s.PowerLimits ↔ s.gauges.Limits := Iff.rfl

theorem State.gauges_inj {s t : State} : t.gauges = s.gauges ↔
    t.ccc = s.ccc ∧ t.pkg.pkgLimit = s.pkg.pkgLimit ∧ t.pkg.factor = s.pkg.factor ∧ t.pkg.limiting = s.pkg.limiting := by
  simp [State.gauges]

/-- F at a period's end is again between 1 and 1,024. -/
theorem nextFactor_bounds (f limit power : Nat) : 1 ≤ nextFactor f limit power ∧ nextFactor f limit power ≤ 1024 := by
  unfold nextFactor
  split <;> omega

/-- The reset values of R18. -/
theorem idle_limits : Gauges.Limits (0, Package.idle.pkgLimit, Package.idle.factor, Package.idle.limiting) := by
  unfold Gauges.Limits
  decide

theorem execPackageReset_keeps (s : State) :
    Ans.Keeps (0, Package.idle.pkgLimit, Package.idle.factor, Package.idle.limiting) (execPackageReset s) := .next rfl

theorem execResetNRelease_keeps (s : State) (b : BootInput) :
    Ans.Keeps (if s.pkg.released then s.ccc else 0, s.pkg.pkgLimit, s.pkg.factor, s.pkg.limiting) (execResetNRelease b s) := by
  unfold execResetNRelease
  split
  · exact .next rfl
  · refine .next (gauges_if ?_ rfl)
    rw [State.gather_gauges, State.setCx_gauges, State.setCx_gauges]
    rfl

theorem execPkgLimitWrite_keeps (s : State) (watts : BitVec 16) :
    Ans.Keeps (s.ccc, if s.pkg.boot = 1 ∧ 600 ≤ watts.toNat ∧ watts.toNat ≤ 1900 then watts else s.pkg.pkgLimit, s.pkg.factor, s.pkg.limiting)
      (execPkgLimitWrite watts s) := by
  unfold execPkgLimitWrite
  split
  · exact .next (State.powerStatus_gauges _)
  · exact .next rfl

/-- A period's end leaves the CCC, and limits that were met. -/
theorem execPowerPeriodEnd_keeps (s : State) (power : Nat) :
    ∃ κ : Gauges, Ans.Keeps κ (execPowerPeriodEnd power s) ∧ κ.1 = s.ccc ∧ (s.gauges.Limits → κ.Limits) := by
  have factor {f : Nat} {m : Bool} (hf : 1 ≤ f ∧ f ≤ 1024) (hm : m = false → f = 1024) (h : s.gauges.Limits) :
      Gauges.Limits (s.ccc, s.pkg.pkgLimit, f, m) :=
    ⟨h.1, h.2.1, hf.1, hf.2, hm⟩
  unfold execPowerPeriodEnd
  split
  · exact ⟨s.gauges, .next rfl, rfl, id⟩
  · extract_lets s0 p l
    have h0 : s0.gauges = s.gauges := s.gatherPeriod_gauges
    obtain ⟨hccc, hlimit, -, -⟩ := State.gauges_inj.mp h0
    have set (f : Nat) (m : Bool) (q : Nat) :
        State.gauges { s0 with pkg := { p with limiting := m, factor := f, quiet := q } } = (s.ccc, s.pkg.pkgLimit, f, m) :=
      congrArg₂ (fun c (w : BitVec 16) => (c, w, f, m)) hccc hlimit
    split
    · split
      · refine ⟨(s.ccc, s.pkg.pkgLimit, 1024, true), .next ?_, rfl, factor (by decide) nofun⟩
        exact (gauges_foldl (fun s c => gauges_if (State.setRegF_gauges ..) rfl) _ _).trans
          ((State.powerStatus_gauges _).trans ((State.setRates_gauges _).trans (set 1024 true 0)))
      · exact ⟨s.gauges, .next h0, rfl, id⟩
    · rename_i hp
      split
      · exact ⟨(s.ccc, s.pkg.pkgLimit, 1024, false), .next ((State.powerStatus_gauges _).trans ((State.setRates_gauges _).trans (set 1024 false 0))), rfl,
          factor (by decide) fun _ => rfl⟩
      · exact ⟨(s.ccc, s.pkg.pkgLimit, nextFactor p.factor l power, p.limiting),
          .next ((State.powerStatus_gauges _).trans ((State.setRates_gauges _).trans (set (nextFactor p.factor l power) p.limiting _))),
          rfl, factor (nextFactor_bounds ..) fun h => absurd h (by simpa using hp)⟩

/-- R18: each event leaves limits that were met, and those of the resets but leave the CCC. -/
theorem exec_gauges {s t : State} {i : Instr} (h : exec i s = .next t) :
    (s.gauges.Limits → t.gauges.Limits) ∧ (t.ccc = s.ccc ∨ t.ccc = 0) ∧ (i ≠ .packageReset → (∀ b, i ≠ .resetNRelease b) → t.ccc = s.ccc) := by
  cases hi : setsGauges i with
  | false =>
    have hg := (exec_keeps rfl hi).of_next h
    obtain ⟨hc, -⟩ := State.gauges_inj.mp hg
    exact ⟨fun hl => hg ▸ hl, .inl hc, fun _ _ => hc⟩
  | true =>
    unfold setsGauges at hi
    split at hi
    · have hg := (execPackageReset_keeps s).of_next h
      exact ⟨fun _ => hg ▸ idle_limits, .inr (congrArg (·.1) hg), fun hp => absurd rfl hp⟩
    · rename_i b
      have hg := (execResetNRelease_keeps s b).of_next h
      have hc : t.ccc = if s.pkg.released then s.ccc else 0 := congrArg (·.1) hg
      refine ⟨fun hl => hg ▸ hl, ?_, fun _ hb => absurd rfl (hb b)⟩
      rw [hc]
      split
      · exact .inl rfl
      · exact .inr rfl
    · rename_i power
      obtain ⟨κ, hk, hc, hl⟩ := execPowerPeriodEnd_keeps s power
      have hg := hk.of_next h
      have hc' : t.ccc = s.ccc := (congrArg (·.1) hg).trans hc
      exact ⟨fun h => hg ▸ hl h, .inl hc', fun _ _ => hc'⟩
    · rename_i watts
      have hg := (execPkgLimitWrite_keeps s watts).of_next h
      have hc : t.ccc = s.ccc := congrArg (·.1) hg
      refine ⟨fun hl => hg ▸ ?_, .inl hc, fun _ _ => hc⟩
      obtain ⟨h600, h1900, hf⟩ := hl
      unfold Gauges.Limits
      split
      · rename_i hw
        exact ⟨hw.2.1, hw.2.2, hf⟩
      · exact ⟨h600, h1900, hf⟩
    · cases hi

/-! ## The obligations -/

/-- An event of the agenda runs in the state without it, or is passed over. -/
theorem steps_event {s t : State} {i : Instr} {rest : List Move} (hm : s.agenda = .event i :: rest) (h : s.Steps t) :
    exec i { s with agenda := rest } = .next t ∨ t = { s with agenda := rest } := by
  unfold State.Steps at h
  rw [step_event hm] at h
  split at h
  · exact .inl h
  · cases h
    exact .inr rfl

/-- Settles O30: the limits are a property of gauges that only the four events of `setsGauges` write. -/
theorem powerLimitsKept : Obligations.PowerLimitsKept := by
  unfold Obligations.PowerLimitsKept
  intro s t hs h
  rw [powerLimits_iff] at hs ⊢
  cases hm : s.agenda with
  | nil =>
    have ht : t = s.tick := (Host.Outcome.next.inj ((step_nil hm).symm.trans h)).symm
    rw [ht, State.gauges_tick]
    exact hs
  | cons m rest =>
    by_cases he : ∃ i, m = .event i
    · obtain ⟨i, rfl⟩ := he
      obtain ht | rfl := steps_event hm h
      · exact (exec_gauges ht).1 hs
      · exact hs
    · rw [(step_keeps hm fun i hi => absurd ⟨i, hi⟩ he).of_next h]
      exact hs

/-- Settles O31: of the same gauges, the CCC is written by the two resets and the end of a cycle alone. -/
theorem cycleCounter : Obligations.CycleCounter := by
  unfold Obligations.CycleCounter
  refine ⟨fun s t m rest hm he h => ?_, fun s t i rest hm h => ?_, fun s t i rest hm hp hr h => ?_, fun s t hm h => ?_⟩
  · exact (State.gauges_inj.mp ((step_keeps hm fun i hi => absurd hi (he i)).of_next h)).1
  · obtain ht | rfl := steps_event hm h
    · exact (exec_gauges ht).2.1
    · exact .inl rfl
  · obtain ht | rfl := steps_event hm h
    · exact (exec_gauges ht).2.2 hp hr
    · rfl
  · have ht : t = s.tick := (Host.Outcome.next.inj ((step_nil hm).symm.trans h)).symm
    rw [ht]
    exact congrArg (·.1) s.gauges_tick

/-- Settles O29: the reset values of R18, read off the reset state. -/
theorem powerLimitsAtReset : Obligations.PowerLimitsAtReset := by
  unfold Obligations.PowerLimitsAtReset
  exact powerLimits_iff.mpr idle_limits

end Sys2Proof.Machine
end

section
/-! What a step runs (R22, R165, R215, R218, R313). -/
namespace Sys2Proof.Machine
open Sys2Proof

/-! ## Reading an instruction -/

/-- A bit field above all the bits of a value is zero. -/
theorem fld_of_lt {v : Word} {i n : Nat} (h : v.toNat < 2 ^ i) : fld v i n = 0 := by
  unfold fld
  rw [Nat.shiftRight_eq_div_pow, Nat.div_eq_of_lt h, Nat.zero_mod]

/-- Where every halfword is translated and the reads leave the state, a fetch reads the halfwords at their frames (R218, R313). -/
theorem State.fetch_eq {s : State} {w : Who} {pc : Word} {pa : Nat → Nat} {m : Nat}
    (hpa : ∀ j < m, (pc + BitVec.ofNat 64 (2 * j)).toNat < 2 ^ 56 ∧
      s.translate w (s.ctxOf w) (pc + BitVec.ofNat 64 (2 * j)) false = .ok (pa j, s)) {n k : Nat} (hn : k + n ≤ m) :
    s.fetch w (pc + BitVec.ofNat 64 (2 * k)) n = .ok ((List.range' k n).map fun j => BitVec.ofNat 16 (mval s.hbm (pa j) 2), s) := by
  induction n generalizing k with
  | zero => rfl
  | succ n ih =>
    obtain ⟨hlt, htr⟩ := hpa k (by omega)
    have hva : pc + BitVec.ofNat 64 (2 * k) + 2 = pc + BitVec.ofNat 64 (2 * (k + 1)) := by
      rw [BitVec.add_assoc, show 2 * (k + 1) = 2 * k + 2 from rfl, BitVec.ofNat_add]
      rfl
    unfold State.fetch
    rw [if_neg (by simp [fld_of_lt hlt]), htr]
    simp only [Res.bind, hva]
    rw [ih (by omega)]
    rfl

theorem halfCount_pos (c : Class) (h : BitVec 16) : 0 < halfCount c h := by
  unfold halfCount
  split
  · decide
  · split <;> decide

theorem range'_headD (f : Nat → BitVec 16) {n : Nat} (hn : 0 < n) (d : BitVec 16) : ((List.range' 0 n).map f).headD d = f 0 := by
  cases n with
  | zero => omega
  | succ n => rfl

theorem halfCount_le (c : Class) (h : BitVec 16) : halfCount c h ≤ 4 := by
  unfold halfCount
  split
  · decide
  · split <;> decide

/-- R313: outside a block, a party reads the halfwords at its pc, as many as the first one names. -/
theorem State.readInsn_eq {s : State} {w : Who} {pa : Nat → Nat} (hblk : (s.strm w).blk = none)
    (hpa : ∀ j < 4, ((s.strm w).pc + BitVec.ofNat 64 (2 * j)).toNat < 2 ^ 56 ∧
      s.translate w (s.ctxOf w) ((s.strm w).pc + BitVec.ofNat 64 (2 * j)) false = .ok (pa j, s))
    (hh : isHeader (BitVec.ofNat 16 (mval s.hbm (pa 0) 2)) = false) :
    s.readInsn w = .ok ((List.range (halfCount w.cls (BitVec.ofNat 16 (mval s.hbm (pa 0) 2)))).map fun j =>
      BitVec.ofNat 16 (mval s.hbm (pa j) 2), s) := by
  have hbody : (s.strm w).inBody = none := by simp [Stream.inBody, hblk]
  have fetched {n : Nat} (hn : n ≤ 4) :
      s.fetch w (s.strm w).pc n = .ok ((List.range' 0 n).map fun j => BitVec.ofNat 16 (mval s.hbm (pa j) 2), s) := by
    have := State.fetch_eq hpa (n := n) (k := 0) (by omega)
    rwa [Nat.mul_zero, show BitVec.ofNat 64 0 = 0#64 from rfl, BitVec.add_zero] at this
  unfold State.readInsn
  dsimp only
  rw [hbody]
  dsimp only
  rw [fetched (by decide : 1 ≤ 4)]
  dsimp only [Res.bind]
  rw [range'_headD _ Nat.one_pos, fetched (halfCount_le ..)]
  dsimp only [Res.bind]
  rw [range'_headD _ (halfCount_pos ..), hh, hblk, List.range_eq_range']
  simp [Res.check]

/-! ## An issue opportunity's step -/

theorem State.opportunity_eq {s : State} {w : Who} (hstop : ∀ t k, w = .stream t k → s.toStop t = none ∧ (s.tile t).allow = none) :
    s.opportunity w = s.issueNow w := by
  unfold State.opportunity
  cases w with
  | engine n => rfl
  | thread n => rfl
  | stream t k =>
    obtain ⟨hs, ha⟩ := hstop t k rfl
    dsimp only
    rw [hs]
    dsimp only
    rw [ha]
    rfl

theorem answers_of_boot {s : State} (h : s.pkg.boot = 1) (m : Move) : s.answers m = true := by
  simp [State.answers, h]

theorem step_move {s : State} {m : Move} {rest : List Move} (hm : s.agenda = m :: rest) (ha : s.answers m = false) :
    step s = .next { s with agenda := rest } := by
  unfold step
  rw [hm]
  dsimp only
  rw [ha]
  rfl

theorem step_issue {s : State} {w : Who} {rest : List Move} (hb : s.pkg.boot = 1)
    (hm : s.agenda = .issue w :: rest ∨ (s.agenda = .retry w :: rest ∧ ({ s with agenda := rest } : State).portHeld w = true)) :
    step s = State.opportunity { s with agenda := rest } w := by
  unfold step
  obtain hm | ⟨hm, hp⟩ := hm
  · rw [hm]
    dsimp only
    rw [if_pos (answers_of_boot hb _)]
  · rw [hm]
    dsimp only
    rw [if_pos (answers_of_boot hb _), if_pos hp]

theorem State.issueNow_one {s : State} {w : Who} (hw : ∀ n, w ≠ .engine n) (hr : State.ready { s with cur := w } w = .one) :
    s.issueNow w = State.issueOne { s with cur := w } w := by
  unfold State.issueNow
  cases w with
  | engine n => exact absurd rfl (hw n)
  | thread n => dsimp only; rw [hr]
  | stream t k => dsimp only; rw [hr]

theorem State.issueOne_eq {s s1 : State} {w : Who} {hs : List (BitVec 16)} (h : s.readInsn w = .ok (hs, s1)) :
    s.issueOne w = afterIssue { s1 with curInsn := insnWord hs } w (exec (insnOf w.cls hs) { s1 with curInsn := insnWord hs }) := by
  unfold State.issueOne
  rw [h]

theorem insnOf_ok {c : Class} {hs : List (BitVec 16)} {i : Instr} (h : decodeHalves c hs = .ok i) : insnOf c hs = i := by
  unfold insnOf
  rw [h]

theorem insnOf_error {c : Class} {hs : List (BitVec 16)} {e : Cause} (h : decodeHalves c hs = .error e) : insnOf c hs = .unallocatedEncoding e := by
  unfold insnOf
  rw [h]

theorem State.issueNow_engine {s : State} {n e : Nat} {r : CollRun} (h : State.engineRun { s with cur := .engine n } = some (e, r)) :
    s.issueNow (.engine n) = State.engineStep { s with cur := .engine n } r := by
  unfold State.issueNow
  dsimp only
  rw [h]

theorem State.engineStep_end {s : State} {r : CollRun} (h : r.aborted.isSome ∨ r.ended = true) : s.engineStep r = exec .stepEnd s := by
  unfold State.engineStep
  rw [if_pos (by simpa using h)]

theorem State.engineStep_word {s : State} {r : CollRun} {i : Instr} (ha : r.aborted = none) (he : r.ended = false) (hi : decodeStep r.word = some i) :
    s.engineStep r = exec i s := by
  unfold State.engineStep
  rw [if_neg (by simp [ha, he]), hi]

/-- Settles O26: the parts of `step`, one for each kind of move. -/
theorem stepRunsDecoded : Obligations.StepRunsDecoded := by
  unfold Obligations.StepRunsDecoded
  refine ⟨fun s s1 w rest hs hb hw hm hstop hread => ?_, fun s w pa hblk hpa hh => State.readInsn_eq hblk hpa hh, fun s i rest hm ha => ?_,
    fun s m rest hm => ⟨fun hb => answers_of_boot hb m, step_move hm⟩, fun s n e r rest hb hm hr => ?_, fun s hm => step_nil hm⟩
  · obtain ⟨hready, hread⟩ := hread
    have hstep : step s = afterIssue { s1 with curInsn := insnWord hs } w (exec (insnOf w.cls hs) { s1 with curInsn := insnWord hs }) := by
      rw [step_issue hb hm, State.opportunity_eq (s := { s with agenda := rest }) hstop, State.issueNow_one hw hready, State.issueOne_eq hread]
    have around {i : Instr} (hi : insnOf w.cls hs = i) :
        (∀ u, exec i { s1 with curInsn := insnWord hs } = .next u → step s = .next (u.loopExit { s1 with curInsn := insnWord hs } w)) ∧
        (∀ f, exec i { s1 with curInsn := insnWord hs } = .fault f → step s = .fault f) ∧
        ∀ r, exec i { s1 with curInsn := insnWord hs } = .refused r → step s = .refused r := by
      rw [hi] at hstep
      exact ⟨fun u hu => by rw [hstep, hu]; rfl, fun f hf => by rw [hstep, hf]; rfl, fun r hr => by rw [hstep, hr]; rfl⟩
    exact ⟨fun i hi => around (insnOf_ok hi), fun c hc => around (insnOf_error hc)⟩
  · rw [step_event hm, if_pos ha]
  · have hstep : step s = State.engineStep { s with agenda := rest, cur := .engine n } r := by
      rw [step_issue hb (.inl hm), State.opportunity_eq (w := .engine n) nofun]
      exact State.issueNow_engine (s := { s with agenda := rest }) hr
    exact ⟨fun h => hstep.trans (State.engineStep_end h), fun ha he i hi => hstep.trans (State.engineStep_word ha he hi)⟩

end Sys2Proof.Machine
end

section
/-! Power (R18, R19): what its events leave of the package, the averaging period, and temperatures. -/
namespace Sys2Proof.Machine
open Sys2Proof

/-! ## A field of a register, and a table's entries -/

/-- A field that was set reads as what was set, cut to its width. -/
theorem fld_setFld {n : Nat} (v : BitVec n) {lo w : Nat} (x : Nat) (h : lo + w ≤ n) : fld (setFld v lo w x) lo w = x % 2 ^ w := by
  refine Nat.eq_of_testBit_eq fun i => ?_
  unfold fld setFld
  rw [Nat.testBit_mod_two_pow, Nat.testBit_shiftRight, BitVec.testBit_toNat, Nat.testBit_mod_two_pow]
  by_cases hi : i < w
  · have hn : lo + i < n := by omega
    have hni : i < n := by omega
    have hsub : lo + i - lo = i := by omega
    simp only [BitVec.getLsbD_or, BitVec.getLsbD_and, BitVec.getLsbD_not, BitVec.getLsbD_shiftLeft, BitVec.getLsbD_ofNat, hsub,
      Nat.testBit_mod_two_pow, Nat.testBit_two_pow_sub_one]
    simp [hi, hn, hni]
  · simp [hi]

theorem self_mem_tins {α : Type} (k : Nat) (v : α) (t : Tab α) : (k, v) ∈ tins k v t := by
  induction t with
  | nil => exact List.mem_singleton_self _
  | cons p t ih =>
    obtain ⟨j, w⟩ := p
    unfold tins
    split
    · exact List.mem_cons_self
    · split
      · exact List.mem_cons_self
      · exact List.mem_cons_of_mem _ ih

/-! ## What the events of power leave of the package -/

@[simp] theorem State.physWrite_pkg (s : State) (ctx : Nat) (va : Word) (bs : List Byte) : (s.physWrite ctx va bs).pkg = s.pkg := by
  induction bs generalizing s va with
  | nil => rfl
  | cons b bs ih =>
    rw [State.physWrite, ih]
    split <;> rfl

@[simp] theorem State.recordInput_pkg (s : State) (c ekind k : Nat) (payload : List Byte) : (s.recordInput c ekind k payload).pkg = s.pkg := by
  unfold State.recordInput
  split
  · rfl
  · dsimp only
    split
    · rfl
    · simp [State.replayPut]

@[simp] theorem State.setRate_pkg (s : State) (c : Nat) : (s.setRate c).pkg = s.pkg := by
  unfold State.setRate
  dsimp only
  split
  · rfl
  · exact State.recordInput_pkg ..

theorem foldl_pkg {α : Type} {f : State → α → State} (hf : ∀ s a, (f s a).pkg = s.pkg) (l : List α) (s : State) : (l.foldl f s).pkg = s.pkg := by
  induction l generalizing s with
  | nil => rfl
  | cons a l ih => exact (ih _).trans (hf s a)

@[simp] theorem State.setRates_pkg (s : State) : s.setRates.pkg = s.pkg := by
  refine foldl_pkg (fun s c => ?_) _ _
  split
  · exact State.setRate_pkg ..
  · rfl

@[simp] theorem State.powerStatus_pkg (s : State) : s.powerStatus.pkg = s.pkg := rfl

/-- Counts were gathered (R293), and nothing else happened. -/
def State.Gathers (s t : State) : Prop := ∃ g, t = { s with pkg := { s.pkg with gathered := g } }

theorem State.Gathers.trans {s t u : State} (h : s.Gathers t) (k : t.Gathers u) : s.Gathers u := by
  obtain ⟨g, rfl⟩ := h
  obtain ⟨g', rfl⟩ := k
  exact ⟨g', rfl⟩

theorem State.gathers_gather (s : State) (off n : Nat) : s.Gathers (s.gather off n) := ⟨_, rfl⟩

theorem State.gathers_foldl {α : Type} {f : State → α → State} (hf : ∀ (s : State) a, s.Gathers (f s a)) (l : List α) (s : State) : s.Gathers (l.foldl f s) := by
  induction l generalizing s with
  | nil => exact ⟨s.pkg.gathered, rfl⟩
  | cons a l ih => exact (hf s a).trans (ih _)

theorem State.gathers_gatherPeriod (s : State) : s.Gathers s.gatherPeriod := by
  unfold State.gatherPeriod
  extract_lets s1 s2
  have h2 : s.Gathers s2 := by
    dsimp only [s2]
    split
    · exact (s.gathers_gather _ _).trans (s1.gathers_gather _ _)
    · exact s.gathers_gather _ _
  exact h2.trans (State.gathers_foldl (fun t d => t.gathers_gather _ _) _ _)

/-! ## The averaging period (R18) -/

section
variable {s : State} {power : Nat}

/-- What a period's end comes to once the boot is READY: its counts, then limiting that begins, or not, or goes on, or ends. -/
theorem exec_powerPeriodEnd (hb : s.pkg.boot = 1) : ∃ g, let p : Package := { s.pkg with gathered := g }
    exec (.powerPeriodEnd power) s =
      if !s.pkg.limiting then
        if 97 * s.pkg.limit < 100 * power then
          let s1 := State.powerStatus (State.setRates { s with pkg := { p with limiting := true, factor := 1024, quiet := 0 } })
          .next ((List.range 64).foldl (fun s c =>
            if s.ctxExists c && !bit (s.cx c cENERGY) 0 then s.setRegF (offCtx c cEBUDGET) 0 32 (s.ceilingOf c) else s) s1)
        else .next { s with pkg := p }
      else
        let quiet := if 100 * power ≤ 90 * s.pkg.limit then s.pkg.quiet + 1 else 0
        if 10 ≤ quiet then .next (State.powerStatus (State.setRates { s with pkg := { p with limiting := false, factor := 1024, quiet := 0 } }))
        else .next (State.powerStatus (State.setRates { s with pkg := { p with quiet := quiet, factor := nextFactor s.pkg.factor s.pkg.limit power } })) := by
  obtain ⟨g, hg⟩ := s.gathers_gatherPeriod
  refine ⟨g, ?_⟩
  show execPowerPeriodEnd power s = _
  unfold execPowerPeriodEnd
  rw [if_neg (by simp [hb]), hg]
  rfl

theorem limiting_begins (hb : s.pkg.boot = 1) (hm : s.pkg.limiting = false) (hp : 97 * s.pkg.limit < 100 * power) :
    ∃ u, exec (.powerPeriodEnd power) s = .next u ∧ u.pkg.limiting = true ∧ u.pkg.factor = 1024 := by
  obtain ⟨g, h⟩ := exec_powerPeriodEnd (power := power) hb
  dsimp only at h
  rw [if_pos (by simp [hm]), if_pos hp] at h
  refine ⟨_, h, ?_⟩
  rw [foldl_pkg fun s c => by split <;> rfl, State.powerStatus_pkg, State.setRates_pkg]
  exact ⟨rfl, rfl⟩

theorem limiting_waits (hb : s.pkg.boot = 1) (hm : s.pkg.limiting = false) (hp : 100 * power ≤ 97 * s.pkg.limit) :
    ∃ u, exec (.powerPeriodEnd power) s = .next u ∧ u.pkg.limiting = false ∧ u.regs = s.regs := by
  obtain ⟨g, h⟩ := exec_powerPeriodEnd (power := power) hb
  dsimp only at h
  rw [if_pos (by simp [hm]), if_neg (Nat.not_lt.mpr hp)] at h
  exact ⟨_, h, hm, rfl⟩

theorem limiting_ends (hb : s.pkg.boot = 1) (hm : s.pkg.limiting = true) (hp : 100 * power ≤ 90 * s.pkg.limit) (hq : 9 ≤ s.pkg.quiet) :
    ∃ u, exec (.powerPeriodEnd power) s = .next u ∧ u.pkg.limiting = false := by
  obtain ⟨g, h⟩ := exec_powerPeriodEnd (power := power) hb
  dsimp only at h
  rw [if_neg (by simp [hm]), if_pos hp, if_pos (Nat.succ_le_succ hq)] at h
  refine ⟨_, h, ?_⟩
  rw [State.powerStatus_pkg, State.setRates_pkg]

theorem limiting_goes_on (hb : s.pkg.boot = 1) (hm : s.pkg.limiting = true) (hp : 90 * s.pkg.limit < 100 * power) :
    ∃ u, exec (.powerPeriodEnd power) s = .next u ∧ u.pkg.limiting = true ∧ u.pkg.quiet = 0 ∧
      u.pkg.factor = max 1 (min 1024 (s.pkg.factor * 95 * s.pkg.limit / (100 * power))) := by
  obtain ⟨g, h⟩ := exec_powerPeriodEnd (power := power) hb
  dsimp only at h
  rw [if_neg (by simp [hm]), if_neg (Nat.not_le.mpr hp), if_neg (by decide)] at h
  refine ⟨_, h, ?_⟩
  rw [State.powerStatus_pkg, State.setRates_pkg]
  exact ⟨hm, rfl, if_neg (by omega)⟩

end

/-! ## Temperatures (R19) -/

theorem hot_of_tput {p : Package} {d t : Nat} (ht : 105 ≤ t) : ({ p with temps := tput 0 p.temps d t } : Package).hot = true := by
  refine List.any_eq_true.mpr ⟨(d, t), ?_, decide_eq_true ht⟩
  dsimp only [tput]
  rw [if_neg (by omega)]
  exact self_mem_tins d t _

theorem not_hot_of_tput {p : Package} {d t : Nat} (ht : t < 105) (hall : ∀ e ∈ p.temps, e.2 < 105) :
    ({ p with temps := tput 0 p.temps d t } : Package).hot = false := by
  refine List.any_eq_false.mpr fun e he => ?_
  have hlt : e.2 < 105 := by
    dsimp only [tput] at he
    split at he
    · exact hall e (List.mem_filter.mp he).1
    · obtain rfl | he := mem_tins d t _ e he
      · exact ht
      · exact hall e he
  simpa using hlt

theorem limit_of_hot {p : Package} (h : p.hot = true) : p.limit = p.pkgLimit.toNat / 2 := if_pos h

theorem limit_of_not_hot {p : Package} (h : p.hot = false) : p.limit = p.pkgLimit.toNat := by simp [Package.limit, h]

/-- PWR.STATUS bit 1 says whether a die is hot (R74). -/
theorem bit_powerStatus (s : State) : bit (s.powerStatus.reg offPwrStatus) 1 = s.pkg.hot := by
  rw [State.powerStatus, State.reg_setReg_self, bit, BitVec.getLsbD_ofNat, Nat.testBit_eq_decide_div_mod_eq]
  cases s.pkg.limiting <;> cases s.pkg.hot <;> simp <;> omega

@[simp] theorem State.trip_reg (s : State) (off : Nat) : s.trip.reg off = s.reg off := by
  unfold State.trip
  split <;> rfl

theorem State.trip_thermtrip (s : State) : s.trip.pkg.thermtrip = true := by
  unfold State.trip
  split
  · assumption
  · rfl

/-- What a trip leaves: the temperatures and the limits. -/
theorem State.trip_temps (s : State) : s.trip.pkg.temps = s.pkg.temps ∧ s.trip.pkg.pkgLimit = s.pkg.pkgLimit := by
  unfold State.trip
  split <;> exact ⟨rfl, rfl⟩

/-- A temperature stands, with the limits as they were; PWR.STATUS tells whether a die is hot; at 115 THERMTRIP_N is asserted. -/
theorem setTemp_spec (s : State) (d t : Nat) :
    (s.setTemp d t).pkg.temps = tput 0 s.pkg.temps d t ∧ (s.setTemp d t).pkg.pkgLimit = s.pkg.pkgLimit ∧
      bit ((s.setTemp d t).reg offPwrStatus) 1 = ({ s.pkg with temps := tput 0 s.pkg.temps d t } : Package).hot ∧
      (115 ≤ t → (s.setTemp d t).pkg.thermtrip = true) := by
  unfold State.setTemp
  dsimp only
  split
  · refine ⟨(State.trip_temps _).1, (State.trip_temps _).2, ?_, fun _ => State.trip_thermtrip _⟩
    rw [State.trip_reg, bit_powerStatus]
  · exact ⟨rfl, rfl, bit_powerStatus _, fun h => absurd h ‹_›⟩

theorem Package.hot_of_temps {p q : Package} (h : p.temps = q.temps) : p.hot = q.hot := by rw [Package.hot, h, Package.hot]

theorem setTemp_hot {s : State} {d t : Nat} (ht : 105 ≤ t) : (s.setTemp d t).pkg.hot = true ∧
    (s.setTemp d t).pkg.limit = s.pkg.pkgLimit.toNat / 2 ∧ bit ((s.setTemp d t).reg offPwrStatus) 1 = true := by
  obtain ⟨htemps, hlimit, hbit, -⟩ := setTemp_spec s d t
  have hhot : (s.setTemp d t).pkg.hot = true := (Package.hot_of_temps htemps).trans (hot_of_tput (p := s.pkg) ht)
  exact ⟨hhot, by rw [limit_of_hot hhot, hlimit], hbit.trans (hot_of_tput ht)⟩

theorem setTemp_cool {s : State} {d t : Nat} (ht : t < 105) (hall : ∀ e ∈ s.pkg.temps, e.2 < 105) : (s.setTemp d t).pkg.hot = false ∧
    (s.setTemp d t).pkg.limit = s.pkg.pkgLimit.toNat ∧ bit ((s.setTemp d t).reg offPwrStatus) 1 = false := by
  obtain ⟨htemps, hlimit, hbit, -⟩ := setTemp_spec s d t
  have hhot : (s.setTemp d t).pkg.hot = false := (Package.hot_of_temps htemps).trans (not_hot_of_tput (p := s.pkg) ht hall)
  exact ⟨hhot, by rw [limit_of_not_hot hhot, hlimit], hbit.trans (not_hot_of_tput ht hall)⟩

end Sys2Proof.Machine
end

section
/-! The refill of energy budgets (R244), and reset and boot (R21, R22, R25). -/
namespace Sys2Proof.Machine
open Sys2Proof

/-! ## The refill of energy budgets (R244) -/

/-- A context's EBUDGET after a refill. -/
def State.refilled (s : State) (c : Nat) : Word :=
  if s.ctxExists c then setFld (s.cx c cEBUDGET) 0 32 (min (s.cxF c cEBUDGET 0 32 + s.cxF c cERATEF 0 24) (s.ceilingOf c)) else s.cx c cEBUDGET

/-- The refill of one context. -/
def State.refill (s : State) (c : Nat) : State :=
  if s.ctxExists c then s.setRegF (offCtx c cEBUDGET) 0 32 (min (s.cxF c cEBUDGET 0 32 + s.cxF c cERATEF 0 24) (s.ceilingOf c)) else s

theorem State.refill_reg (s : State) (c off : Nat) : (s.refill c).reg off = if off = offCtx c cEBUDGET then s.refilled c else s.reg off := by
  unfold State.refill State.refilled
  split
  · exact s.reg_setReg ..
  · split
    · rename_i h
      rw [h]
      rfl
    · rfl

/-- What a context's refill reads depends on its registers and the package alone. -/
theorem State.refilled_congr {s t : State} {c : Nat} (hpkg : t.pkg = s.pkg) (hcx : ∀ o < 0x10000, t.cx c o = s.cx c o) :
    t.refilled c = s.refilled c := by
  unfold State.refilled State.ctxExists State.ceilingOf State.cxF
  rw [hpkg, hcx cEBUDGET (by decide), hcx cERATEF (by decide), hcx cENERGY (by decide), hcx cLIFE (by decide)]

theorem offCtx_inj {c d o p : Nat} (ho : o < 0x10000) (hp : p < 0x10000) (h : offCtx c o = offCtx d p) : c = d ∧ o = p := by
  unfold offCtx at h
  omega

/-- The refill of the contexts below n: each has its own, from the state before; nothing else changes. -/
theorem State.refill_range (s : State) (n : Nat) :
    let u := (List.range n).foldl State.refill s
    u.pkg = s.pkg ∧ u.hbm = s.hbm ∧ (∀ off, (∀ c < n, off ≠ offCtx c cEBUDGET) → u.reg off = s.reg off) ∧
      ∀ c < n, u.cx c cEBUDGET = s.refilled c := by
  induction n with
  | zero => exact ⟨rfl, rfl, fun _ _ => rfl, nofun⟩
  | succ n ih =>
    rw [List.range_succ, List.foldl_append]
    generalize (List.range n).foldl State.refill s = u at ih
    obtain ⟨hpkg, hhbm, hreg, hcx⟩ := ih
    have hframe (o : Nat) (ho : o < 0x10000) : u.cx n o = s.cx n o :=
      hreg _ fun c hc h => absurd (offCtx_inj ho (by decide) h).1 (by omega)
    have hn : u.refilled n = s.refilled n := State.refilled_congr hpkg hframe
    have hstep (t : State) (c : Nat) : (t.refill c).pkg = t.pkg ∧ (t.refill c).hbm = t.hbm := by
      unfold State.refill
      split <;> exact ⟨rfl, rfl⟩
    refine ⟨(hstep u n).1.trans hpkg, (hstep u n).2.trans hhbm, fun off hoff => ?_, fun c hc => ?_⟩
    · exact (u.refill_reg n off).trans ((if_neg (hoff n (by omega))).trans (hreg off fun c hc => hoff c (by omega)))
    · refine (u.refill_reg n _).trans ?_
      by_cases h : c = n
      · rw [h, if_pos rfl, hn]
      · rw [if_neg fun e => h (offCtx_inj (by decide) (by decide) e).1]
        exact hcx c (by omega)

theorem State.ceilingOf_lt {s : State} (hf : s.pkg.factor ≤ 1024) (c : Nat) : s.ceilingOf c < 2 ^ 32 := by
  unfold State.ceilingOf
  split
  · exact Nat.mod_lt _ (by decide)
  · have hscaled {f : Nat} (h : f ≤ 1024) : scaledRate defaultShare f < 2 ^ 32 := by
      unfold scaledRate defaultShare
      split <;> omega
    split
    · exact hscaled hf
    · exact hscaled le_rfl

theorem exec_energyRefill {s : State} (hc : s.ccc.toNat % 1024 = 0) (hf : s.pkg.factor ≤ 1024) :
    ∃ u, exec .energyRefill s = .next u ∧ u.hbm = s.hbm ∧
      ∀ c < 64, (s.ctxExists c = true → u.cxF c cEBUDGET 0 32 = min (s.cxF c cEBUDGET 0 32 + s.cxF c cERATEF 0 24) (s.ceilingOf c)) ∧
        (s.ctxExists c = false → u.cx c cEBUDGET = s.cx c cEBUDGET) := by
  obtain ⟨-, hhbm, -, hcx⟩ := s.refill_range 64
  refine ⟨(List.range 64).foldl State.refill s, if_neg (by simp [hc]), hhbm, fun c h64 => ⟨fun he => ?_, fun he => ?_⟩⟩
  · rw [State.cxF, hcx c h64, State.refilled, if_pos he, fld_setFld _ _ (by decide)]
    exact Nat.mod_eq_of_lt (Nat.lt_of_le_of_lt (Nat.min_le_right ..) (State.ceilingOf_lt hf c))
  · rw [hcx c h64, State.refilled, if_neg (by simp [he])]

/-! ## Power -/

theorem powerEvents : PowerEvents := by
  refine ⟨fun s power hb => ⟨limiting_begins hb, limiting_waits hb, limiting_ends hb, limiting_goes_on hb⟩, fun s d t => ?_, fun s w => ?_,
    fun s => ⟨fun hc => if_pos hc, exec_energyRefill⟩⟩
  · obtain ⟨hhot, -, -⟩ := setTemp_hot (s := s) (d := d) (t := 115) (by decide)
    exact ⟨fun ht => ⟨_, rfl, setTemp_hot ht⟩, fun ht hall => ⟨_, rfl, setTemp_cool ht hall⟩, fun ht => ⟨_, rfl, (setTemp_spec s d t).2.2.2 ht⟩,
      _, rfl, (setTemp_spec s d 115).2.2.2 le_rfl, hhot⟩
  · refine ⟨fun hb hlo hhi => ⟨_, if_pos ⟨hb, hlo, hhi⟩, rfl⟩, fun h => if_neg ?_⟩
    rintro ⟨hb, hlo, hhi⟩
    omega

/-! ## Reset and boot (R21, R22, R25) -/

theorem State.cx_gather (s : State) (off n c o : Nat) : (s.gather off n).cx c o = s.cx c o := rfl

theorem State.cx_setCx (s : State) (c o : Nat) (v : Word) : (s.setCx c o v).cx c o = v := s.reg_setReg_self ..

theorem State.cx_setCx_ne {s : State} {c o p : Nat} {v : Word} (h : p ≠ o) : (s.setCx c o v).cx c p = s.cx c p :=
  (s.reg_setReg ..).trans (if_neg fun e => h (by unfold offCtx at e; omega))

/-- The release of RESET_N: the CCC starts at zero, the status is that of the boot's stages, and READY comes with context 0. -/
theorem exec_resetNRelease {s : State} (b : BootInput) (hr : s.pkg.released = false) :
    let st := s.pkg.bootStatus s.pkg.factoryCopy ((s.pkg.lifeCopy.map fun k => s.pkg.copyNat k 0x8008 8).getD 0) b
    ∃ u, exec (.resetNRelease b) s = .next u ∧ u.ccc = 0 ∧ u.pkg.released = true ∧ u.pkg.boot = st ∧
      (st ≠ 1 → u.regs = s.regs) ∧ (st = 1 → u.ctxExists 0 = true ∧ u.sysPriv 0 = true) := by
  intro st
  refine ⟨_, if_neg (by simp [hr]), ?_⟩
  by_cases h1 : st = 1
  · rw [if_pos h1]
    refine ⟨rfl, rfl, rfl, fun h => absurd h1 h, fun _ => ⟨?_, ?_⟩⟩
    · unfold State.ctxExists
      rw [State.cx_gather, State.cx_setCx_ne (by decide), State.cx_setCx]
      rfl
    · unfold State.sysPriv
      rw [State.cx_gather, State.cx_setCx]
      rfl
  · rw [if_neg h1]
    exact ⟨rfl, rfl, rfl, fun _ => rfl, fun h => absurd h h1⟩

section
variable {p : Package} {i floor : Nat} {b : BootInput}

theorem bootStatus_harvest (h : ∃ d < 4, harvestOk (p.copyNat i (0x48 + 4 * d) 4) = false) : p.bootStatus (some i) floor b = 3 := by
  obtain ⟨d, hd, hh⟩ := h
  refine if_pos ?_
  rw [Bool.not_eq_true', List.all_eq_false]
  exact ⟨d, List.mem_range.mpr hd, by simp [hh]⟩

/-- The stages after the harvest words. -/
theorem bootStatus_of_harvest (h : ∀ d < 4, harvestOk (p.copyNat i (0x48 + 4 * d) 4) = true) : p.bootStatus (some i) floor b =
    if b.pufKey ≠ p.deviceKey (some i) then 4
    else if !p.firmwareOk i b || decide (b.fwVersion.toNat < floor) || !b.fwLoaded then 5
    else if !b.hbmTrained then 6
    else if !b.linksTrained then 7
    else if !b.pcieTrained then 8
    else 1 := by
  refine if_neg ?_
  rw [Bool.not_eq_true', Bool.not_eq_false, List.all_eq_true]
  exact fun d hd => h d (List.mem_range.mp hd)

end

theorem resetAndBoot : ResetAndBoot := by
  refine ⟨fun s => ⟨_, exec_packageReset s, rfl, rfl, rfl, rfl, rfl, rfl⟩, fun s b => ⟨fun hr => if_pos hr, fun hr => ?_⟩⟩
  obtain ⟨u, hu, hccc, hrel, hboot, hregs, hctx⟩ := exec_resetNRelease b hr
  refine ⟨u, hu, hccc, hrel, fun hf => ?_, fun i hf => ?_⟩
  · rw [hf] at hboot hregs
    exact ⟨hboot, hregs nofun⟩
  · rw [hf] at hboot hctx
    intro key floor
    have hkey : s.pkg.deviceKey (some i) = key := rfl
    refine ⟨fun hh => hboot.trans (bootStatus_harvest hh), fun hh => ?_⟩
    rw [bootStatus_of_harvest hh, hkey] at hboot hctx
    refine ⟨fun hk => by rw [hboot, if_pos hk], fun hk hfw => ?_, fun hk hok hv hl => ?_⟩
    · rw [hboot, if_neg (not_not.mpr hk), if_pos]
      simpa [or_assoc] using hfw
    · rw [if_neg (not_not.mpr hk), if_neg (by simp [hok, hl]; omega)] at hboot hctx
      refine ⟨fun h6 => ?_, fun h6 h7 => ?_, fun h6 h7 h8 => ?_, fun h6 h7 h8 => ?_⟩
      · simpa [h6] using hboot
      · simpa [h6, h7] using hboot
      · simpa [h6, h7, h8] using hboot
      · obtain ⟨hex, hpriv⟩ := hctx (by simp [h6, h7, h8])
        exact ⟨by simpa [h6, h7, h8] using hboot, hex, hpriv⟩

end Sys2Proof.Machine
end

section
/-! The device record (R26), attestation (R28) and dynamic addresses (R76). -/
namespace Sys2Proof.Machine
open Sys2Proof

/-! ## The lifetime part (R26) -/

theorem length_flatMap_of_forall {α β : Type} {l : List α} {f : α → List β} {n : Nat} (h : ∀ x ∈ l, (f x).length = n) :
    (l.flatMap f).length = l.length * n := by
  induction l with
  | nil => simp
  | cons x l ih =>
    rw [List.flatMap_cons, List.length_append, ih fun y hy => h y (List.mem_cons_of_mem _ hy), h x List.mem_cons_self, List.length_cons]
    ring

theorem lifeWidth_four {off : Nat} (h : 0x8030 ≤ off ∧ off < 0x82B0 ∨ 0x8C20 ≤ off) : lifeWidth off = 4 := by
  simp [lifeWidth, h]

theorem lifeWidth_eight {off : Nat} (h : ¬(0x8030 ≤ off ∧ off < 0x82B0 ∨ 0x8C20 ≤ off)) : lifeWidth off = 8 := by
  simp [lifeWidth, h]

/-- The lifetime part is 0x7FC0 bytes long (R293). -/
theorem lifetimePart_length (p : Package) (floor : Nat) : (p.lifetimePart floor).length = 0x7FC0 := by
  unfold Package.lifetimePart
  simp only [List.length_append, leBytes_length, List.length_replicate]
  rw [length_flatMap_of_forall (n := 8), length_flatMap_of_forall (n := 4), length_flatMap_of_forall (n := 8), length_flatMap_of_forall (n := 4)]
  · simp only [List.length_range]
  · intro i hi
    rw [leBytes_length, lifeWidth_four (by rw [List.mem_range] at hi; omega)]
  · intro i hi
    rw [leBytes_length, lifeWidth_eight (by rw [List.mem_range] at hi; omega)]
  · intro i hi
    rw [leBytes_length, lifeWidth_four (by rw [List.mem_range] at hi; omega)]
  · intro i hi
    rw [leBytes_length, lifeWidth_eight (by rw [List.mem_range] at hi; omega)]

/-- The copy that a rewrite goes to (R26). -/
def Package.otherCopy (p : Package) : Nat :=
  match p.life with
  | some k => 1 - k
  | none => 0

/-- LIFETIME_REWRITE writes 32 KiB of the other copy. -/
theorem exec_lifetimeRewrite_eq {s : State} (floor : BitVec 64) (hb : s.pkg.boot = 1)
    (ht : 3600 * 940000000 ≤ (s.ccc - s.pkg.lastRewrite).toNat) :
    ∃ bs g, bs.length = 0x8000 ∧ exec (.lifetimeRewrite floor) s = .next { s with pkg := { s.pkg with
      flash := mwrites s.pkg.flash (0x10000 * s.pkg.otherCopy + 0x8000) bs, life := some s.pkg.otherCopy, seqNo := s.pkg.seqNo + 1
      fwFloor := BitVec.ofNat 64 (max s.pkg.fwFloor.toNat floor.toNat), lastRewrite := s.ccc, gathered := g } } := by
  refine ⟨s.pkg.lifetimePart floor.toNat ++ leBytes 64 (Config.ed25519Sign (leBytes 64 (Config.sha512 (s.pkg.lifetimePart floor.toNat)).toNat)).toNat,
    (s.pkg.gathered.filter fun e => inSeconds e.1 && e.2 % 1000 != 0).map fun e => (e.1, e.2 % 1000), ?_, ?_⟩
  · rw [List.length_append, lifetimePart_length, leBytes_length]
  · show execLifetimeRewrite floor s = _
    unfold execLifetimeRewrite
    exact if_neg (by rintro (h | h) <;> omega)

/-- The rewrite's effect: the next sequence number, and a floor that does not fall. -/
theorem exec_lifetimeRewrite {s : State} (floor : BitVec 64) (hb : s.pkg.boot = 1)
    (ht : 3600 * 940000000 ≤ (s.ccc - s.pkg.lastRewrite).toNat) :
    ∃ u, exec (.lifetimeRewrite floor) s = .next u ∧ u.pkg.seqNo = s.pkg.seqNo + 1 ∧
      u.pkg.fwFloor.toNat = max s.pkg.fwFloor.toNat floor.toNat ∧ u.pkg.lastRewrite = s.ccc ∧
      ∀ k, s.pkg.life = some k → k < 2 → u.pkg.life = some (1 - k) ∧
        ∀ a, a < 0x10000 * (1 - k) + 0x8000 ∨ 0x10000 * (1 - k) + 0x10000 ≤ a → mread u.pkg.flash a = mread s.pkg.flash a := by
  obtain ⟨bs, g, hbs, he⟩ := exec_lifetimeRewrite_eq floor hb ht
  refine ⟨_, he, rfl, ?_, rfl, fun k hk _ => ?_⟩
  · rw [BitVec.toNat_ofNat, Nat.mod_eq_of_lt (Nat.max_lt.mpr ⟨s.pkg.fwFloor.isLt, floor.isLt⟩)]
  · have hother : s.pkg.otherCopy = 1 - k := by rw [Package.otherCopy, hk]
    rw [hother]
    exact ⟨rfl, fun a ha => mread_mwrites_outside _ _ _ _ (by omega)⟩

/-! ## Attestation (R28) -/

theorem reportBody_length (s : State) {nonce : List Byte} (h : nonce.length = 32) : (s.reportBody nonce).length = 240 := by
  unfold State.reportBody Package.copyBytes
  simp only [List.length_append, leBytes_length, mreads_length, h]

theorem reportBody_eq (s : State) (nonce : List Byte) :
    ∃ x y, x.length = 4 ∧ s.reportBody nonce = [0x4B, 0x59, 0x41, 0x54] ++ (x ++ (nonce ++ y)) := by
  refine ⟨leBytes 2 1 ++ leBytes 2 s.pkg.attestFlags.toNat, ?_, by simp, ?_⟩
  case refine_2 =>
    unfold State.reportBody
    simp only [List.append_assoc]
    rfl

theorem exec_attestationRequest {s : State} {nonce : List Byte} (hn : nonce.length = 32) (hb : s.pkg.boot = 1) :
    ∃ u, exec (.attestationRequest nonce) s = .next u ∧ u.pkg.requests = s.pkg.requests ++ [(nonce, true)] := by
  refine ⟨_, rfl, ?_⟩
  rw [State.attest, if_neg (by simp [hb]), List.take_left' hn]

theorem exec_attestationReportSigned {s : State} {nonce : List Byte} {x : Bool} {rest : List (List Byte × Bool)} (hn : nonce.length = 32)
    (hr : s.pkg.requests = (nonce, x) :: rest) :
    ∃ u, exec .attestationReportSigned s = .next u ∧ u.pkg.requests = rest ∧ u.pkg.report.length = 304 ∧
      u.pkg.report.take 4 = [0x4B, 0x59, 0x41, 0x54] ∧ (u.pkg.report.drop 8).take 32 = nonce := by
  have he : exec .attestationReportSigned s = .next { s with pkg := { s.pkg with
      requests := rest
      report := s.reportBody nonce ++ leBytes 64 (Config.ed25519Sign (leBytes 64 (Config.sha512 (s.reportBody nonce)).toNat)).toNat } } := by
    show execAttestationReportSigned s = _
    unfold execAttestationReportSigned
    rw [hr]
  obtain ⟨y, z, hy, hbody⟩ := reportBody_eq s nonce
  refine ⟨_, he, rfl, ?_, ?_, ?_⟩
  · rw [List.length_append, reportBody_length s hn, leBytes_length]
  · dsimp only
    rw [hbody]
    rfl
  · dsimp only
    rw [hbody, ← List.append_assoc, List.append_assoc, List.drop_left' (by simp [hy]), List.append_assoc, List.take_left' hn]

theorem deviceRecord : DeviceRecord := by
  refine ⟨fun s floor hb => ⟨fun ht => if_pos (.inr ht), exec_lifetimeRewrite floor hb⟩,
    fun s nonce hn => ⟨exec_attestationRequest hn, fun x rest => exec_attestationReportSigned hn⟩, fun s d => ?_⟩
  exact ⟨⟨_, (if_pos rfl : execSetdasa 0x5A d s = _), rfl⟩, fun a ha => if_neg ha, fun hd => ⟨_, if_neg (by simp [hd]), rfl⟩, fun hd => if_pos hd⟩

/-- Settles O20: power, then reset and boot, then the device record, event by event. -/
theorem packageEvents : Obligations.PackageEvents := by
  unfold Obligations.PackageEvents
  exact ⟨powerEvents, resetAndBoot, deviceRecord⟩

end Sys2Proof.Machine
end

section
/-! What a report, a packet's way and a recorded input leave of the state (R43, R52, R75, R272, R283): each lemma names the fields that change. -/
namespace Sys2Proof.Machine
open Sys2Proof

/-! ## Reports (R75) -/

/-- A register of FERRY.RLOG. -/
abbrev inRlog (off : Nat) : Prop := 0x400048 ≤ off ∧ off < 0x400060 ∨ 0x404000 ≤ off ∧ off < 0x408000

/-- At most the report log, the report group's wakes and what leaves the package have changed. -/
def State.Reported (s t : State) : Prop :=
  ∃ r o w, t = { s with regs := r, out := o, wakes := w } ∧ ∀ off, ¬ inRlog off → t.reg off = s.reg off

theorem State.Reported.refl (s : State) : s.Reported s := ⟨_, _, _, rfl, fun _ _ => rfl⟩

theorem State.Reported.trans {s t u : State} (h : s.Reported t) (k : t.Reported u) : s.Reported u := by
  obtain ⟨r, o, w, rfl, hr⟩ := h
  obtain ⟨r', o', w', rfl, hr'⟩ := k
  exact ⟨r', o', w', rfl, fun off hoff => (hr' off hoff).trans (hr off hoff)⟩

/-- What a report leaves: every field but the three, by its projection. -/
theorem State.Reported.keeps {s t : State} (h : s.Reported t) {α : Sort*} (f : State → α)
    (hf : ∀ r o w, f { s with regs := r, out := o, wakes := w } = f s) : f t = f s := by
  obtain ⟨r, o, w, rfl, -⟩ := h
  exact hf r o w

theorem State.Reported.reg {s t : State} (h : s.Reported t) {off : Nat} (hoff : ¬ inRlog off) : t.reg off = s.reg off := by
  obtain ⟨r, o, w, -, hr⟩ := h
  exact hr off hoff

theorem State.reg_setReg_ne {s : State} {o p : Nat} {v : Word} (h : p ≠ o) : (s.setReg o v).reg p = s.reg p := (s.reg_setReg ..).trans (if_neg h)

theorem State.reported_setReg {s : State} {o : Nat} {v : Word} (ho : inRlog o) : s.Reported (s.setReg o v) :=
  ⟨_, _, _, rfl, fun _ hoff => State.reg_setReg_ne fun e => hoff (e ▸ ho)⟩

theorem inRlog_rlog (h : Nat) : inRlog (offRlog (h % 1024)) ∧ inRlog (offRlog (h % 1024) + 8) := by
  have hlt : h % 1024 < 1024 := Nat.mod_lt _ (by decide)
  unfold inRlog offRlog
  omega

theorem inRlog_counts : inRlog offRlogHead ∧ inRlog offRlogTail ∧ inRlog offRlogLost := by
  unfold inRlog offRlogHead offRlogTail offRlogLost
  omega

/-- A record enters the log, and its vector leaves. -/
theorem State.reported_record (s : State) (h m : Nat) (v : BitVec 128) (x : Nat) :
    s.Reported (((s.setReg128 (offRlog (h % 1024)) v).setRegF offRlogHead 0 32 x).emit (.msix m)) :=
  ((State.reported_setReg (inRlog_rlog h).1).trans (State.reported_setReg (inRlog_rlog h).2)).trans
    ((State.reported_setReg inRlog_counts.1).trans ⟨_, _, _, rfl, fun _ _ => rfl⟩)

theorem State.reported_wake (s : State) (g : Nat) (k : Wake) : s.Reported (s.wake g k) := ⟨_, _, _, rfl, fun _ _ => rfl⟩

theorem State.reported_full (s : State) (x : Nat) : s.Reported ((s.setRegF offRlogTail 0 32 x).bump offRlogLost) := by
  obtain ⟨-, htail, hlost⟩ := inRlog_counts
  exact (State.reported_setReg htail).trans (State.reported_setReg hlost)

theorem State.reported_report (s : State) (c : Cause) (ctx srck srcix detail : Nat) : s.Reported (s.report c ctx srck srcix detail) := by
  have wakes {s0 s1 : State} {b : Bool} {g : Nat} {k : Wake} (h0 : s.Reported s0) (h1 : s0.Reported s1) :
      s.Reported (if b then s1.wake g k else s1) := by
    split
    · exact (h0.trans h1).trans (s1.reported_wake g k)
    · exact h0.trans h1
  unfold State.report
  refine wakes ?_ (State.reported_record _ _ _ _ _)
  split
  · exact s.reported_full _
  · exact .refl s

/-- No register of a context's page, of a link or of the domain's shape is in the log. -/
theorem not_inRlog_offCtx (c o : Nat) : ¬ inRlog (offCtx c o) := by
  unfold inRlog offCtx
  omega

theorem not_inRlog_of_lt {off : Nat} (h : off < 0x400000) : ¬ inRlog off := by
  unfold inRlog
  omega

theorem not_inRlog_linkStat {n : Nat} (h : n < 6) : ¬ inRlog (offLinkStat n) := not_inRlog_of_lt (by unfold offLinkStat; omega)

/-! ## Packets on their way (R43, R52) -/

/-- At most the inputs and the links have changed. -/
def State.Moved (s t : State) : Prop := ∃ i l, t = { s with inq := i, links := l }

theorem State.Moved.refl (s : State) : s.Moved s := ⟨_, _, rfl⟩

theorem State.Moved.trans {s t u : State} (h : s.Moved t) (k : t.Moved u) : s.Moved u := by
  obtain ⟨i, l, rfl⟩ := h
  obtain ⟨i', l', rfl⟩ := k
  exact ⟨i', l', rfl⟩

/-- What moves of packets leave: every field but the two, by its projection, and every function of the rest. -/
theorem State.Moved.keeps {s t : State} (h : s.Moved t) {α : Sort*} (f : State → α) (hf : ∀ i l, f { s with inq := i, links := l } = f s) :
    f t = f s := by
  obtain ⟨i, l, rfl⟩ := h
  exact hf i l

/-- Packets have gone on their way: of the links, at most those that are UP have changed. -/
def State.Routed (s t : State) : Prop := s.Moved t ∧ ∀ n, s.linkState n ≠ 2 → t.link n = s.link n

theorem State.Routed.refl (s : State) : s.Routed s := ⟨.refl s, fun _ _ => rfl⟩

theorem State.Routed.trans {s t u : State} (h : s.Routed t) (k : t.Routed u) : s.Routed u := by
  refine ⟨h.1.trans k.1, fun n hn => (k.2 n ?_).trans (h.2 n hn)⟩
  rwa [h.1.keeps (·.linkState n) fun _ _ => rfl]

theorem State.Routed.keeps {s t : State} (h : s.Routed t) {α : Sort*} (f : State → α) (hf : ∀ i l, f { s with inq := i, links := l } = f s) :
    f t = f s := h.1.keeps f hf

theorem State.Routed.foldl {α : Type} {f : State → α → State} (hf : ∀ (s : State) a, s.Routed (f s a)) (l : List α) (s : State) : s.Routed (l.foldl f s) :=
  List.foldlRecOn l f (.refl s) fun t ht a _ => ht.trans (hf t a)

theorem State.link_modLink (s : State) (n m : Nat) (f : Link → Link) : (s.modLink n f).link m = if m = n then f (s.link n) else s.link m :=
  tget_tmod ..

@[simp] theorem State.link_modLink_self (s : State) (n : Nat) (f : Link → Link) : (s.modLink n f).link n = f (s.link n) := by
  rw [State.link_modLink, if_pos rfl]

@[simp] theorem State.linkState_modLink (s : State) (n m : Nat) (f : Link → Link) : (s.modLink n f).linkState m = s.linkState m := rfl

theorem State.routed_route (s : State) (port : Nat) (p : Packet) : s.Routed (s.route port p).1 := by
  unfold State.route
  split
  · exact .refl s
  split
  · exact .refl s
  split
  · exact ⟨⟨_, _, rfl⟩, fun _ _ => rfl⟩
  · rename_i n _
    split
    · exact .refl s
    split
    · rename_i hn
      refine ⟨⟨_, _, rfl⟩, fun m hm => (s.link_modLink n m _).trans (if_neg ?_)⟩
      rintro rfl
      exact hm hn
    · exact .refl s

theorem State.routed_inject (s : State) (port : Nat) (p : Packet) : s.Routed (s.inject port p) := by
  have h := s.routed_route port p
  unfold State.inject
  generalize s.route port p = r at h
  obtain ⟨s1, _ | status⟩ := r
  · exact h
  · dsimp only
    split
    · exact State.Routed.trans h (s1.routed_route ..)
    · exact h

theorem State.routed_sendPlain (s : State) (dst pop vc : Nat) (w2 w3 : Word) (data : List Byte) : s.Routed (s.sendPlain dst pop vc w2 w3 data) :=
  s.routed_inject ..

/-! ## Memory through recorded frames (R122, R272), and recorded inputs (R283) -/

/-- At most HBM, the undo logs, and FULL with what else CTX.REPLAY of a context holds have changed. -/
def State.Recorded (c : Nat) (s t : State) : Prop :=
  ∃ h r l, t = { s with hbm := h, regs := r, logs := l } ∧ ∀ off, off ≠ offCtx c cREPLAY → t.reg off = s.reg off

theorem State.Recorded.refl (c : Nat) (s : State) : State.Recorded c s s := ⟨_, _, _, rfl, fun _ _ => rfl⟩

theorem State.Recorded.keeps {c : Nat} {s t : State} (h : State.Recorded c s t) {α : Sort*} (f : State → α)
    (hf : ∀ h r l, f { s with hbm := h, regs := r, logs := l } = f s) : f t = f s := by
  obtain ⟨h, r, l, rfl, -⟩ := h
  exact hf h r l

theorem State.Recorded.reg {c : Nat} {s t : State} (h : State.Recorded c s t) {off : Nat} (hoff : off ≠ offCtx c cREPLAY) : t.reg off = s.reg off := by
  obtain ⟨h, r, l, -, hr⟩ := h
  exact hr off hoff

theorem State.physWrite_eq (s : State) (c : Nat) (va : Word) (bs : List Byte) : ∃ h, s.physWrite c va bs = { s with hbm := h } := by
  induction bs generalizing s va with
  | nil => exact ⟨s.hbm, rfl⟩
  | cons b bs ih =>
    rw [State.physWrite]
    split
    · exact ih _ _
    · exact ih _ _

theorem State.physWrite_keeps (s : State) (c : Nat) (va : Word) (bs : List Byte) {α : Sort*} (f : State → α) (hf : ∀ h, f { s with hbm := h } = f s) :
    f (s.physWrite c va bs) = f s := by
  obtain ⟨h, e⟩ := s.physWrite_eq c va bs
  rw [e]
  exact hf h

theorem State.replayPut_eq (s : State) (c : Nat) (bs : List Byte) : ∃ h l, s.replayPut c bs = { s with hbm := h, logs := l } := by
  unfold State.replayPut
  extract_lets l size base head s1
  obtain ⟨h1, e1⟩ : ∃ h, s1 = { s with hbm := h } := s.physWrite_eq ..
  obtain ⟨h2, e2⟩ := s1.physWrite_eq c (BitVec.ofNat 64 base) (bs.drop head)
  rw [e2, e1]
  exact ⟨h2, _, rfl⟩

theorem State.recorded_recordInput (s : State) (c ekind k : Nat) (payload : List Byte) : State.Recorded c s (s.recordInput c ekind k payload) := by
  unfold State.recordInput
  split
  · exact .refl c s
  · extract_lets bs l
    split
    · exact ⟨_, _, _, rfl, fun off hoff => State.reg_setReg_ne hoff⟩
    · obtain ⟨h, l', e⟩ := s.replayPut_eq c bs
      exact ⟨h, _, l', e, fun off _ => by rw [e]; rfl⟩

theorem State.recorded_recordPacket (s : State) (c : Nat) (p : Packet) : State.Recorded c s (s.recordPacket c p) := by
  unfold State.recordPacket
  split
  · exact .refl c s
  · exact s.recorded_recordInput ..

/-- A context that records nothing has no entry made (R283). -/
theorem State.recordInput_eq_self {s : State} {c : Nat} (h : s.recording c = false) (ekind k : Nat) (payload : List Byte) :
    s.recordInput c ekind k payload = s := if_pos (by simp [h])

theorem State.recordPacket_eq_self {s : State} {c : Nat} {p : Packet} (h : p.src = s.chip ∨ s.recording c = false) : s.recordPacket c p = s := by
  unfold State.recordPacket
  split
  · rfl
  · exact State.recordInput_eq_self (h.resolve_left ‹_›) ..

/-- This chip's id has ten bits (R29). -/
theorem State.chip_lt (s : State) : s.chip < 1024 := by
  have h (lo w : Nat) : s.regF offGeom lo w < 2 ^ w := Nat.mod_lt _ (by positivity)
  have hx := h 0 3
  have hy := h 3 3
  have hz := h 6 4
  unfold State.chip
  omega

end Sys2Proof.Machine
end

section
/-! The link layer (R33, R37-R41): flits that arrive, go-backs, and the limits of the classes. -/
namespace Sys2Proof.Machine
open Sys2Proof

/-! ## What an ACK and a go-back leave of a link -/

theorem Link.dropAcked_eq (k : Nat) (l : Link) :
    ∃ a b c d, Link.dropAcked k l = { l with replay := a, resend := b, first := c, credits := d } := by
  induction k generalizing l with
  | zero => exact ⟨_, _, _, _, rfl⟩
  | succ k ih =>
    have kept (f : Flit) {m : Link} (hm : ∃ a b c d, m = { l with replay := a, resend := b, first := c, credits := d }) :
        ∃ a b c d, Link.dropAcked k
          (if f.isData then { m with first := if f.last then none else if f.first then some f else m.first } else m) =
            { l with replay := a, resend := b, first := c, credits := d } := by
      obtain ⟨a, b, c, d, rfl⟩ := hm
      split
      · exact ih _
      · exact ih _
    unfold Link.dropAcked
    dsimp only
    split
    · exact kept _ ⟨_, _, _, _, rfl⟩
    · rename_i f rest _ _
      refine kept f ?_
      unfold Link.count
      split <;> exact ⟨_, _, _, _, rfl⟩
    · exact ⟨_, _, _, _, rfl⟩

/-- The ACK and credit fields of a flit move the sender's fields alone. -/
theorem Link.applyAck_eq (l : Link) (f : Flit) :
    ∃ a b c d, l.applyAck f = { l with replay := a, resend := b, first := c, credits := d } := by
  unfold Link.applyAck
  dsimp only
  split
  · exact ⟨_, _, _, _, rfl⟩
  · split
    · rename_i o _ _
      obtain ⟨a, b, c, d, e⟩ := Link.dropAcked_eq (f.ack - o).toNat l
      rw [e]
      exact ⟨_, _, _, _, rfl⟩
    · exact ⟨_, _, _, _, rfl⟩

/-- What an ACK leaves of a link, by its projection. -/
theorem Link.applyAck_keeps (l : Link) (f : Flit) {α : Type} (g : Link → α)
    (hg : ∀ a b c d, g { l with replay := a, resend := b, first := c, credits := d } = g l) : g (l.applyAck f) = g l := by
  obtain ⟨a, b, c, d, e⟩ := l.applyAck_eq f
  rw [e]
  exact hg a b c d

@[simp] theorem Link.applyAck_expect (l : Link) (f : Flit) : (l.applyAck f).expect = l.expect := l.applyAck_keeps f (·.expect) fun _ _ _ _ => rfl

@[simp] theorem Link.applyAck_rxHeld (l : Link) (f : Flit) : (l.applyAck f).rxHeld = l.rxHeld := l.applyAck_keeps f (·.rxHeld) fun _ _ _ _ => rfl

@[simp] theorem Link.applyAck_rxLimits (l : Link) (f : Flit) : (l.applyAck f).rxLimits = l.rxLimits :=
  l.applyAck_keeps f (·.rxLimits) fun _ _ _ _ => rfl

/-! ## A change of a link with its counts -/

/-- A NAK or a go-back that has been counted: the link has a new value, and the rest is registers, the package's counts, output and the agenda. -/
theorem State.link_exhaust (s : State) (n m : Nat) : (s.exhaust n).link m = s.link m := by
  unfold State.exhaust
  split <;> rfl

theorem Link.stamp_eq (l : Link) (full : Bool) (f : Flit) : ∃ a o, (l.stamp full f).2 = { l with acked := a, owe := o } := by
  unfold Link.stamp
  split <;> exact ⟨_, _, rfl⟩

/-- A NAK that leaves at once is counted; nothing else of the receiver changes. -/
theorem State.link_sendNak {s : State} {n : Nat} (reason : Nat) (h : (s.link n).lending = false) :
    ∃ a o, (s.sendNak n reason).link n =
      { s.link n with nak := some reason, nakDue := none, nakCount := (s.link n).nakCount + 1, acked := a, owe := o } := by
  unfold State.sendNak
  dsimp only
  rw [if_neg (by simp [h]), State.link_exhaust]
  obtain ⟨a, o, e⟩ := Link.stamp_eq { s.link n with nak := some reason, nakDue := none, nakCount := (s.link n).nakCount + 1 } (s.harbourFull n)
    (nakFlit (s.link n).expect reason)
  exact ⟨a, o, (tget_tput_self Link.idle s.links n _).trans e⟩

/-- A NAK behind a LEND flit waits (R42). -/
theorem State.sendNak_of_lending {s : State} {n : Nat} (reason : Nat) (h : (s.link n).lending = true) :
    s.sendNak n reason = s.modLink n fun l => { l with nak := some reason, nakDue := some reason } := if_pos h

theorem State.link_goBackTo {s : State} {n : Nat} (q : BitVec 16) (h : (s.link n).replay ≠ [] ∨ (s.link n).resend ≠ []) :
    (s.goBackTo n q).link n = (s.link n).goBack q := by
  unfold State.goBackTo
  rw [if_neg (by simpa [imp_iff_or_not, or_comm] using h), State.link_exhaust]
  exact s.link_modLink_self n fun l => l.goBack q

/-! ## Flits that arrive -/

section
variable {s : State} {n : Nat} {f : Flit}

theorem State.receiveFlit_of_not_up (h : s.linkState n ≠ 2) : s.receiveFlit n f = s := if_pos h

theorem State.receiveFlit_of_bad_crc (hup : s.linkState n = 2) (hcrc : f.crcOk = false) : s.receiveFlit n f = s.discardFlit n 0 := by
  unfold State.receiveFlit
  rw [if_neg (not_not.mpr hup), if_pos (by simp [hcrc])]

/-- A good flit of an allocated type: its ACK counts first, then its type says what it does (R33). -/
theorem State.receiveFlit_good (h : goodFlit s n f) (ht : f.ftype.toNat < 4) :
    s.receiveFlit n f =
      let s1 := s.modLink n fun l => l.applyAck f
      let l := s1.link n
      if f.ftype = 2 then s1.goBackTo n (BitVec.ofNat 16 (leNat (f.body.take 2)))
      else if f.ftype = 3 then s1
      else if f.seq ≠ l.expect then s1.discardFlit n 2
      else if f.ftype = 1 then s1.modLink n fun l => { l.accept with limits := lendLimits f }
      else if tget 64 l.rxLimits f.cls ≤ tget 0 l.rxHeld f.cls then s1.discardFlit n 1
      else s1.takeData n f := by
  obtain ⟨-, hup, hcrc, hrsvd⟩ := h
  unfold State.receiveFlit
  rw [if_neg (not_not.mpr hup), if_neg (by simp [hcrc]), if_neg (by simp [hrsvd, ht])]

theorem exec_flitReceive (hn : n < 6) : exec (.flitReceive n f) s = .next (s.receiveFlit n f) := by
  show execFlitReceive n f s = _
  rw [execFlitReceive, Nat.mod_eq_of_lt hn]

theorem exec_lendReceive (hn : n < 6) (ht : f.ftype = 1) : exec (.lendReceive n f) s = .next (s.receiveFlit n f) := by
  show execLendReceive n f s = _
  rw [execLendReceive, if_pos ht, Nat.mod_eq_of_lt hn]

theorem exec_nakReceive (hn : n < 6) (ht : f.ftype = 2) : exec (.nakReceive n f) s = .next (s.receiveFlit n f) := by
  show execNakReceive n f s = _
  rw [execNakReceive, if_pos ht, Nat.mod_eq_of_lt hn]

/-- A link that has accepted a packet of one flit (R33, R40). -/
def Link.took (l : Link) (f : Flit) : Link :=
  { l.accept with rxHeld := tmod 0 l.rxHeld f.cls (· + 1), rxCount := tmod 0 l.rxCount f.cls (· + 1), part := tput [] l.part f.cls [] }

theorem Link.took_expect (l : Link) (f : Flit) : (l.took f).expect = l.expect + 1 := rfl

theorem Link.tget_took_rxHeld (l : Link) (f : Flit) : tget 0 (l.took f).rxHeld f.cls = tget 0 l.rxHeld f.cls + 1 := by
  show tget 0 (tmod 0 l.rxHeld f.cls (· + 1)) f.cls = _
  rw [tget_tmod, if_pos rfl]

/-- A complete packet waits at an input, and its link has accepted it. -/
def State.putPacket (s : State) (n : Nat) (l : Link) (p : Packet) : State :=
  { s.modLink n fun _ => l with inq := tmod [] s.inq n (· ++ [p]) }

theorem State.link_putPacket (s : State) (n : Nat) (l : Link) (p : Packet) : (s.putPacket n l p).link n = l := s.link_modLink_self n fun _ => l

theorem State.tget_inq_putPacket (s : State) (n : Nat) (l : Link) (p : Packet) : tget [] (s.putPacket n l p).inq n = tget [] s.inq n ++ [p] := by
  show tget [] (tmod [] s.inq n (· ++ [p])) n = _
  rw [tget_tmod, if_pos rfl]

theorem State.takeData_single (hf : f.first = true) (hl : f.last = true) :
    s.takeData n f = s.putPacket n ((s.link n).took f) (Packet.ofFlits [f]) := by
  unfold State.takeData
  simp only [hf, hl, if_true, Bool.not_true, Bool.false_and, Bool.false_eq_true, if_false, List.nil_append]
  rfl

/-- A packet of one flit in sequence, with a buffer for it, waits at its input. -/
theorem dataFlit_received (h : goodFlit s n f) (hseq : f.seq = (s.link n).expect) (ht : f.ftype = 0) (hf : f.first = true) (hl : f.last = true)
    (hroom : tget 0 (s.link n).rxHeld f.cls < tget 64 (s.link n).rxLimits f.cls) :
    ((s.receiveFlit n f).link n).expect = (s.link n).expect + 1 ∧ ((s.receiveFlit n f).link n).nak = none ∧
      tget [] (s.receiveFlit n f).inq n = tget [] s.inq n ++ [Packet.ofFlits [f]] ∧
      tget 0 ((s.receiveFlit n f).link n).rxHeld f.cls = tget 0 (s.link n).rxHeld f.cls + 1 := by
  rw [State.receiveFlit_good h (by rw [ht]; decide)]
  dsimp only
  rw [s.link_modLink_self, Link.applyAck_expect, Link.applyAck_rxHeld, Link.applyAck_rxLimits, if_neg (by rw [ht]; decide), if_neg (by rw [ht]; decide),
    if_neg (not_not.mpr hseq), if_neg (by rw [ht]; decide), if_neg (Nat.not_le.mpr hroom), State.takeData_single hf hl]
  have hlink : (s.modLink n fun l => l.applyAck f).link n = (s.link n).applyAck f := s.link_modLink_self ..
  refine ⟨?_, ?_, ?_, ?_⟩
  · rw [State.link_putPacket, hlink, Link.took_expect, Link.applyAck_expect]
  · rw [State.link_putPacket]
    rfl
  · exact State.tget_inq_putPacket ..
  · rw [State.link_putPacket, hlink, Link.tget_took_rxHeld, Link.applyAck_rxHeld]

/-- A LEND flit in sequence sets the limits of the classes (R41). -/
theorem lendFlit_received (h : goodFlit s n f) (hseq : f.seq = (s.link n).expect) (ht : f.ftype = 1) :
    ((s.receiveFlit n f).link n).limits = lendLimits f ∧ ((s.receiveFlit n f).link n).expect = (s.link n).expect + 1 := by
  rw [State.receiveFlit_good h (by rw [ht]; decide)]
  dsimp only
  rw [s.link_modLink_self, Link.applyAck_expect, if_neg (by rw [ht]; decide), if_neg (by rw [ht]; decide), if_neg (not_not.mpr hseq), if_pos ht,
    State.link_modLink_self, s.link_modLink_self]
  exact ⟨rfl, congrArg (· + 1) (Link.applyAck_expect ..)⟩

/-- A NAK goes back to the SEQ that it names (R38). -/
theorem nakFlit_received (h : goodFlit s n f) (ht : f.ftype = 2)
    (hsent : ((s.link n).applyAck f).replay ≠ [] ∨ ((s.link n).applyAck f).resend ≠ []) :
    (s.receiveFlit n f).link n = ((s.link n).applyAck f).goBack (BitVec.ofNat 16 (leNat (f.body.take 2))) := by
  rw [State.receiveFlit_good h (by rw [ht]; decide)]
  dsimp only
  rw [if_pos ht, State.link_goBackTo _ (by rwa [s.link_modLink_self]), s.link_modLink_self]

end

/-! ## A discarded flit (R37) -/

theorem badFlit_received {s : State} {n : Nat} {f : Flit} (hn : n < 6) :
    (s.linkState n ≠ 2 → exec (.flitReceive n f) s = .next s) ∧
    (s.linkState n = 2 → f.crcOk = false → (s.link n).nak.isSome = true → exec (.flitReceive n f) s = .next s) ∧
    (s.linkState n = 2 → f.crcOk = false → (s.link n).nak = none → (s.link n).lending = true → ∃ u, exec (.flitReceive n f) s = .next u ∧
      (u.link n).nakDue = some 0 ∧ (u.link n).expect = (s.link n).expect) ∧
    (s.linkState n = 2 → f.crcOk = false → (s.link n).nak = none → (s.link n).lending = false → ∃ u, exec (.flitReceive n f) s = .next u ∧
      (u.link n).nak = some 0 ∧ (u.link n).expect = (s.link n).expect ∧ (u.link n).nakCount = (s.link n).nakCount + 1) := by
  have discarded (hup : s.linkState n = 2) (hcrc : f.crcOk = false) (hnak : (s.link n).nak = none) :
      exec (.flitReceive n f) s = .next (s.sendNak n 0) := by
    rw [exec_flitReceive hn, State.receiveFlit_of_bad_crc hup hcrc, State.discardFlit, if_pos (by simp [hnak])]
  refine ⟨fun h => by rw [exec_flitReceive hn, State.receiveFlit_of_not_up h], fun hup hcrc hnak => ?_, fun hup hcrc hnak hl => ?_,
    fun hup hcrc hnak hl => ?_⟩
  · rw [exec_flitReceive hn, State.receiveFlit_of_bad_crc hup hcrc, State.discardFlit, if_neg]
    simpa [Option.isSome_iff_ne_none] using hnak
  · refine ⟨_, discarded hup hcrc hnak, ?_⟩
    rw [State.sendNak_of_lending 0 hl, s.link_modLink_self]
    exact ⟨rfl, rfl⟩
  · obtain ⟨a, o, e⟩ := State.link_sendNak 0 hl
    refine ⟨_, discarded hup hcrc hnak, ?_⟩
    rw [e]
    exact ⟨rfl, rfl, rfl⟩

/-! ## Timeouts and LEND periods (R37, R38, R41) -/

theorem Link.oldest_isSome {l : Link} {q : BitVec 16} (h : l.oldest = some q) : l.replay ≠ [] ∨ l.resend ≠ [] := by
  by_contra hc
  rw [not_or, not_not, not_not] at hc
  rw [Link.oldest, hc.1, hc.2] at h
  exact nomatch h

theorem linkTimers {s : State} {n : Nat} (hup : s.linkState n = 2) :
    (∀ r, (s.link n).nak = some r → exec (.nakResendTimeout n) s = .next (s.sendNak n r)) ∧
    (∀ q, (s.link n).oldest = some q → ∃ u, exec (.goBackTimeout n) s = .next u ∧ u.link n = (s.link n).goBack q ∧
      (u.link n).goSeq = q) ∧
    (lendTable (s.link n).rxCount = none → ∃ u, exec (.lendPeriodEnd n) s = .next u ∧ (u.link n).period = (s.link n).period + 1 ∧
      (u.link n).rxLimits = (s.link n).rxLimits) ∧
    (∀ t, lendTable (s.link n).rxCount = some t → ∃ u, exec (.lendPeriodEnd n) s = .next u ∧ (u.link n).rxLimits = t ∧
      (u.link n).lends = (s.link n).lends ++ [lendFlit (s.link n).period t]) := by
  refine ⟨fun r hr => ?_, fun q hq => ?_, fun ht => ?_, fun t ht => ?_⟩
  · show execNakResendTimeout n s = _
    rw [execNakResendTimeout, hr]
    exact if_pos hup
  · have hlink := State.link_goBackTo (s := s) (n := n) q (Link.oldest_isSome hq)
    refine ⟨s.goBackTo n q, ?_, hlink, by rw [hlink]; rfl⟩
    show execGoBackTimeout n s = _
    rw [execGoBackTimeout, hq]
    exact if_pos hup
  · refine ⟨s.modLink n fun _ => { s.link n with rxCount := [], period := (s.link n).period + 1 }, ?_, by rw [s.link_modLink_self], by rw [s.link_modLink_self]⟩
    show execLendPeriodEnd n s = _
    rw [execLendPeriodEnd, if_neg (not_not.mpr hup)]
    dsimp only
    rw [ht]
  · refine ⟨s.modLink n fun _ => { s.link n with rxCount := [], period := (s.link n).period + 1, rxLimits := t
                                                 lends := (s.link n).lends ++ [lendFlit (s.link n).period t] },
      ?_, by rw [s.link_modLink_self], by rw [s.link_modLink_self]⟩
    show execLendPeriodEnd n s = _
    rw [execLendPeriodEnd, if_neg (not_not.mpr hup)]
    dsimp only
    rw [ht]

/-! ## The limits of a period (R41) -/

/-- A table filled below n reads what it was filled with. -/
theorem tget_foldl_tput {α : Type} [DecidableEq α] (d : α) (f : Nat → α) (n : Nat) (t : Tab α) (i : Nat) :
    tget d ((List.range n).foldl (fun t i => tput d t i (f i)) t) i = if i < n then f i else tget d t i := by
  induction n with
  | zero => rfl
  | succ n ih =>
    rw [List.range_succ, List.foldl_append, List.foldl_cons, List.foldl_nil, tget_tput, ih]
    split
    · rename_i h
      rw [h, if_pos (Nat.lt_succ_self n)]
    · by_cases h : i < n
      · rw [if_pos h, if_pos (by omega)]
      · rw [if_neg h, if_neg (by omega)]

/-- Parts of a whole, each rounded down, come to at most the whole. -/
theorem sum_div_le (l : List Nat) (k m : Nat) : (l.map fun a => k * a / m).sum ≤ k * l.sum / m := by
  induction l with
  | nil => simp
  | cons a l ih =>
    rw [List.map_cons, List.sum_cons, List.sum_cons, Nat.mul_add]
    exact (Nat.add_le_add_left ih _).trans (Nat.div_add_div_le_add_div ..)

/-- The class that takes the spare buffers is one of the eight. -/
theorem top_lt (g : Nat → Nat) {l : List Nat} (hl : ∀ i ∈ l, i < 8) : l.foldl (fun m i => if g m < g i then i else m) 0 < 8 := by
  refine List.foldlRecOn (motive := (· < 8)) l _ (by decide : 0 < 8) fun m hm i hi => ?_
  split
  · exact hl i hi
  · exact hm

/-- What is given to one of a list's places is counted once. -/
theorem sum_range_add_spare (base : Nat → Nat) (spare : Nat) {top : Nat} (h : top < 8) :
    ((List.range 8).map fun i => base i + if i = top then spare else 0).sum = ((List.range 8).map base).sum + spare := by
  interval_cases top <;> simp [List.range, List.range.loop] <;> omega

theorem lendTable_spec {u t : Tab Nat} (h : lendTable u = some t) :
    ((List.range 8).map (tget 64 t)).sum = 512 ∧ ∀ i < 8, 4 ≤ tget 64 t i := by
  unfold lendTable at h
  extract_lets g sum base top spare at h
  split at h
  · exact nomatch h
  · rename_i hsum
    rw [Option.some.injEq] at h
    subst h
    have htop : top < 8 := top_lt g fun i hi => List.mem_range.mp hi
    have hread (i : Nat) (hi : i < 8) := (tget_foldl_tput 64 (fun i => base i + if i = top then spare else 0) 8 [] i).trans (if_pos hi)
    have hbase : ((List.range 8).map base).sum ≤ 512 := by
      have hparts := sum_div_le ((List.range 8).map g) 480 sum
      rw [Nat.mul_div_cancel _ (Nat.pos_of_ne_zero hsum), List.map_map] at hparts
      have hsplit : ((List.range 8).map base).sum = ((List.range 8).map fun _ => 4).sum + ((List.range 8).map fun i => 480 * g i / sum).sum :=
        List.sum_map_add
      have hfours : ((List.range 8).map fun _ => 4).sum = 32 := rfl
      rw [hsplit, hfours]
      exact Nat.add_le_add_left hparts 32
    refine ⟨?_, fun i hi => ?_⟩
    · rw [List.map_congr_left fun i hi => hread i (List.mem_range.mp hi), sum_range_add_spare base spare htop]
      exact Nat.add_sub_cancel' hbase
    · rw [hread i hi]
      exact (Nat.le_add_right 4 _).trans (Nat.le_add_right _ _)

theorem linkFlits : LinkFlits := by
  refine ⟨fun s n f h hseq => ⟨fun ht hf hl hroom => ?_, fun ht i hi => ?_⟩, fun s n f hn => badFlit_received hn, fun s n f h ht => ?_,
    fun s n _ hup => linkTimers hup, fun u t h => lendTable_spec h⟩
  · exact ⟨_, exec_flitReceive h.1, dataFlit_received h hseq ht hf hl hroom⟩
  · rw [List.mem_cons, List.mem_singleton] at hi
    obtain rfl | rfl := hi
    · exact ⟨_, exec_flitReceive h.1, lendFlit_received h hseq ht⟩
    · exact ⟨_, exec_lendReceive h.1 ht, lendFlit_received h hseq ht⟩
  · intro l q hsent
    exact ⟨_, exec_nakReceive h.1 ht, nakFlit_received h ht hsent⟩

end Sys2Proof.Machine
end

section
/-! The states of a link (R39, R51, R52): down with a cause, training, UP. -/
namespace Sys2Proof.Machine
open Sys2Proof

/-- A field reads the same when another one that does not meet it is set. -/
theorem fld_setFld_disjoint {n : Nat} (v : BitVec n) {lo w lo' w' : Nat} (x : Nat) (h : lo + w ≤ lo' ∨ lo' + w' ≤ lo) :
    fld (setFld v lo w x) lo' w' = fld v lo' w' := by
  refine Nat.eq_of_testBit_eq fun i => ?_
  unfold fld setFld
  simp only [Nat.testBit_mod_two_pow, Nat.testBit_shiftRight, BitVec.testBit_toNat, BitVec.getLsbD_or, BitVec.getLsbD_and, BitVec.getLsbD_not,
    BitVec.getLsbD_shiftLeft, BitVec.getLsbD_ofNat, Nat.testBit_two_pow_sub_one]
  by_cases hi : i < w'
  · by_cases hlo : lo' + i < lo
    · by_cases hin : lo' + i < n
      · simp [hi, hlo, hin]
      · simp [hin, v.getLsbD_of_ge _ (Nat.le_of_not_lt hin)]
    · have hsub : ¬ lo' + i - lo < w := by omega
      by_cases hin : lo' + i < n
      · simp [hi, hlo, hin, hsub]
      · simp [hin, v.getLsbD_of_ge _ (Nat.le_of_not_lt hin)]
  · simp [hi]

theorem State.regF_setRegF_same (s : State) (off lo w x : Nat) (h : lo + w ≤ 64) : (s.setRegF off lo w x).regF off lo w = x % 2 ^ w := by
  unfold State.regF State.setRegF
  rw [State.reg_setReg_self, fld_setFld _ _ h]

theorem State.regF_setRegF_disjoint (s : State) (off x : Nat) {lo w lo' w' : Nat} (h : lo + w ≤ lo' ∨ lo' + w' ≤ lo) :
    (s.setRegF off lo w x).regF off lo' w' = s.regF off lo' w' := by
  unfold State.regF State.setRegF
  rw [State.reg_setReg_self, fld_setFld_disjoint _ _ h]

theorem State.linkState_setRegF (s : State) (n st : Nat) : (s.setRegF (offLinkStat n) 0 2 st).linkState n = st % 4 :=
  s.regF_setRegF_same _ 0 2 st (by decide)

theorem offLinkStat_inj {n m : Nat} (h : offLinkStat n = offLinkStat m) : n = m := by
  unfold offLinkStat at h
  omega

theorem State.linkState_setRegF_ne (s : State) {n m lo w x : Nat} (h : m ≠ n) :
    (s.setRegF (offLinkStat n) lo w x).linkState m = s.linkState m :=
  congrArg (fld · 0 2) (State.reg_setReg_ne fun e => h (offLinkStat_inj e))

theorem State.Reported.regF {s t : State} (h : s.Reported t) {off : Nat} (hoff : ¬ inRlog off) (lo w : Nat) : t.regF off lo w = s.regF off lo w :=
  congrArg (fld · lo w) (h.reg hoff)

theorem State.Reported.linkState {s t : State} (h : s.Reported t) {n : Nat} (hn : n < 6) : t.linkState n = s.linkState n :=
  h.regF (not_inRlog_linkStat hn) 0 2

/-- A link takes a state; at most a report follows (R53). -/
theorem State.reported_setLink (s : State) (n st : Nat) : (s.setRegF (offLinkStat n) 0 2 st).Reported (s.setLink n st) := by
  unfold State.setLink
  dsimp only
  split
  · exact State.reported_report ..
  · exact .refl _

/-- A link that holds nothing, with its training and LEND periods going on. -/
def Link.fresh (l : Link) : Link := { Link.idle with lastAttempt := l.lastAttempt, period := l.period }

/-- A link drops what it holds: it is fresh, and answers may be on their way (R52, R53). -/
theorem State.routed_dropHeld (s : State) (n status : Nat) : (s.modLink n Link.fresh).Routed (s.dropHeld n status) := by
  refine State.Routed.foldl (fun s p => ?_) _ _
  split
  · exact s.routed_route ..
  · exact .refl s

/-- What a link drops as it leaves service goes with its state unchanged. -/
theorem State.dropHeld_spec (s : State) {n : Nat} (hn : s.linkState n ≠ 2) (status : Nat) :
    (s.dropHeld n status).regs = s.regs ∧ (s.dropHeld n status).link n = (s.link n).fresh := by
  have h := s.routed_dropHeld n status
  exact ⟨h.keeps (·.regs) fun _ _ => rfl, (h.2 n (by rwa [State.linkState_modLink])).trans (s.link_modLink_self ..)⟩

theorem State.reg_of_regs {s t : State} (h : t.regs = s.regs) (off : Nat) : t.reg off = s.reg off := by
  unfold State.reg
  rw [h]

/-- A link that went down (R39, R52). -/
theorem State.linkDown_spec (s : State) {n : Nat} (hn : n < 6) (d : Nat) :
    (s.linkDown n d).linkState n = 0 ∧ (s.linkDown n d).regF (offLinkStat n) 2 2 = d % 4 ∧ (s.linkDown n d).link n = (s.link n).fresh := by
  have hset := (s.setRegF (offLinkStat n) 2 2 d).reported_setLink n 0
  have hstate := (hset.linkState hn).trans (State.linkState_setRegF ..)
  have hcause := (hset.regF (not_inRlog_linkStat hn) 2 2).trans
    ((State.regF_setRegF_disjoint _ _ _ (by decide)).trans (s.regF_setRegF_same _ 2 2 d (by decide)))
  have hlink := hset.keeps (·.link n) fun _ _ _ => rfl
  unfold State.linkDown
  dsimp only
  generalize (s.setRegF (offLinkStat n) 2 2 d).setLink n 0 = s1 at hstate hcause hlink
  obtain ⟨hregs, hfresh⟩ := s1.dropHeld_spec (n := n) (by rw [hstate]; decide) 1
  generalize s1.dropHeld n 1 = s2 at hregs hfresh
  have hrep : s2.Reported (if d = 1 then s2.report .nakExhausted 0 4 n 0 else s2) := by
    split
    · exact State.reported_report ..
    · exact .refl _
  generalize (if d = 1 then s2.report .nakExhausted 0 4 n 0 else s2) = s3 at hrep
  have hlast := (s3.gather (0x8BE8 + 8 * n) 1).reported_report .linkDown 0 4 n 0
  have hstat := (hlast.reg (not_inRlog_linkStat hn)).trans ((hrep.reg (not_inRlog_linkStat hn)).trans (State.reg_of_regs hregs _))
  refine ⟨(congrArg (fld · 0 2) hstat).trans hstate, (congrArg (fld · 2 2) hstat).trans hcause, ?_⟩
  exact (hlast.keeps (·.link n) fun _ _ _ => rfl).trans ((hrep.keeps (·.link n) fun _ _ _ => rfl).trans (hfresh.trans (congrArg Link.fresh hlink)))

/-- A link's status field is set, and the link changes: what they read afterwards. -/
theorem State.link_set_modLink (s : State) (n st : Nat) (f : Link → Link) :
    ((s.setRegF (offLinkStat n) 0 2 st).modLink n f).linkState n = st % 4 ∧ ((s.setRegF (offLinkStat n) 0 2 st).modLink n f).link n = f (s.link n) :=
  ⟨s.linkState_setRegF n st, State.link_modLink_self ..⟩

theorem linkStates : LinkStates := by
  intro s n hn
  refine ⟨fun hup => ⟨fun h => if_pos ⟨hup, h⟩, if_pos ⟨hn, hup⟩⟩, fun d hd => ?_, fun hdown htr => ⟨fun hl => ?_, fun c hl hc => ?_⟩, fun ht => ⟨?_, ?_⟩⟩
  · obtain ⟨hst, hcause, hlink⟩ := s.linkDown_spec hn d
    exact ⟨hst, hcause.trans (Nat.mod_eq_of_lt hd), hlink⟩
  · obtain ⟨hst, hlink⟩ := s.link_set_modLink n 1 fun l => { l with lastAttempt := some s.ccc }
    refine ⟨(s.setRegF (offLinkStat n) 0 2 1).modLink n fun l => { l with lastAttempt := some s.ccc }, ?_, hst, by rw [hlink]⟩
    show execTrainingAttempt n s = _
    rw [execTrainingAttempt, hl]
    exact if_pos (by simp [htr, hdown])
  · show execTrainingAttempt n s = _
    rw [execTrainingAttempt, hl]
    exact if_neg fun h => absurd (of_decide_eq_true (Bool.and_eq_true_iff.mp h).2) (Nat.not_le.mpr hc)
  · obtain ⟨hst, hlink⟩ := s.link_set_modLink n 2 fun l => { Link.idle with lastAttempt := l.lastAttempt }
    refine ⟨(s.setRegF (offLinkStat n) 0 2 2).modLink n fun l => { Link.idle with lastAttempt := l.lastAttempt }, ?_, hst, hlink⟩
    show execTrainingEnd n true s = _
    rw [execTrainingEnd, if_neg (not_not.mpr ht)]
    rfl
  · refine ⟨s.setLink n 0, ?_, ((s.reported_setLink n 0).linkState hn).trans (s.linkState_setRegF n 0)⟩
    show execTrainingEnd n false s = _
    rw [execTrainingEnd, if_neg (not_not.mpr ht)]
    rfl

/-- Settles O19: a flit at its link, then what brings a link down and up. -/
theorem links : Obligations.Links := by
  unfold Obligations.Links
  exact ⟨linkFlits, linkStates⟩

end Sys2Proof.Machine
end

section
/-! The first packet at an input (R45, R46), and where a packet goes from there (R35, R43, R48, R52). -/
namespace Sys2Proof.Machine
open Sys2Proof

/-! ## Taking a packet from an input -/

/-- The input without its first packet of a kind, and that packet's link buffers free. -/
def State.taken (s : State) (port : Nat) (p : Packet) (rest : List Packet) : State :=
  let s1 : State := { s with inq := tput [] s.inq port rest }
  if port < 6 then s1.modLink port fun l => l.release p.cls p.flits.length else s1

theorem State.moved_taken (s : State) (port : Nat) (p : Packet) (rest : List Packet) : s.Moved (s.taken port p rest) := by
  unfold State.taken
  dsimp only
  split <;> exact ⟨_, _, rfl⟩

theorem State.tget_inq_taken (s : State) (port : Nat) (p : Packet) (rest : List Packet) : tget [] (s.taken port p rest).inq port = rest := by
  unfold State.taken
  dsimp only
  split <;> exact tget_tput_self ..

/-- Buffers that are given back leave what waits for the output. -/
theorem State.queue_taken (s : State) (port n : Nat) (p : Packet) (rest : List Packet) :
    ((s.taken port p rest).link n).queue = (s.link n).queue := by
  unfold State.taken
  dsimp only
  split
  · rw [State.link_modLink]
    split
    · rename_i h
      rw [h]
      rfl
    · rfl
  · rfl

theorem headOf_spec {want : Packet → Bool} {before l : List Packet} {p : Packet} {rest : List Packet} (h : headOf want before l = some (p, rest)) :
    want p = true := by
  induction l generalizing before with
  | nil => exact nomatch h
  | cons q l ih =>
    rw [headOf] at h
    split at h
    · rename_i hq
      rw [Option.some.injEq, Prod.mk.injEq] at h
      obtain ⟨rfl, -⟩ := h
      exact (Bool.and_eq_true_iff.mp hq).1
    · exact ih h

/-- A narrower kind finds the same packet, when that packet is of it. -/
theorem headOf_mono {want want' : Packet → Bool} {before l : List Packet} {p : Packet} {rest : List Packet} (hle : ∀ q, want' q = true → want q = true)
    (hp : want' p = true) (h : headOf want before l = some (p, rest)) : headOf want' before l = some (p, rest) := by
  induction l generalizing before with
  | nil => exact nomatch h
  | cons q l ih =>
    rw [headOf] at h ⊢
    split at h
    · rename_i hq
      rw [Option.some.injEq, Prod.mk.injEq] at h
      obtain ⟨rfl, hr⟩ := h
      rw [if_pos (by rw [hp, (Bool.and_eq_true_iff.mp hq).2]; rfl), hr]
    · rename_i hq
      rw [if_neg fun h' => hq ?_]
      · exact ih h
      · obtain ⟨hw, hb⟩ := Bool.and_eq_true_iff.mp h'
        rw [hle q hw, hb]
        rfl

theorem State.headAt_eq_some {s s1 : State} {port : Nat} {want : Packet → Bool} {p : Packet} (h : s.headAt port want = some (p, s1)) :
    want p = true ∧ s.Moved s1 := by
  obtain ⟨⟨q, rest⟩, hq, he⟩ := Option.map_eq_some_iff.mp h
  rw [Prod.mk.injEq] at he
  obtain ⟨rfl, rfl⟩ := he
  exact ⟨headOf_spec hq, s.moved_taken port q rest⟩

theorem State.headAt_mono {s s1 : State} {port : Nat} {want want' : Packet → Bool} {p : Packet} (hle : ∀ q, want' q = true → want q = true)
    (hp : want' p = true) (h : s.headAt port want = some (p, s1)) : s.headAt port want' = some (p, s1) := by
  obtain ⟨⟨q, rest⟩, hq, he⟩ := Option.map_eq_some_iff.mp h
  have hqp : q = p := (Prod.mk.injEq .. ▸ he).1
  subst hqp
  unfold State.headAt
  rw [headOf_mono hle hp hq]
  exact congrArg some he

theorem State.headAt_cons {s : State} {port : Nat} {want : Packet → Bool} {p : Packet} {rest : List Packet} (hq : tget [] s.inq port = p :: rest)
    (hp : want p = true) : s.headAt port want = some (p, s.taken port p rest) := by
  unfold State.headAt
  rw [hq, headOf, if_pos (by rw [hp]; rfl)]
  rfl

/-! ## A packet for this chip -/

section
variable {s s1 : State} {port pop : Nat} {p : Packet}

theorem arrives_moved (h : arrives s port pop p s1) : s.Moved s1 := (State.headAt_eq_some h.1).2

theorem arrives_kind (h : arrives s port pop p s1) : p.dst = s.chip ∧ p.bad = false ∧ p.pop = pop := by
  simpa [and_assoc] using (State.headAt_eq_some h.1).1

/-- What holds of a packet holds of its arrival: it is at its input, and no fence drops it. -/
theorem arrives_of_cons {rest : List Packet} (hq : tget [] s.inq port = p :: rest) (hdst : p.dst = s.chip) (hbad : p.bad = false) (hpop : p.pop = pop)
    (hfs : s.fences.getLsbD p.src = false) (hfd : s.fences.getLsbD p.dst = false) : arrives s port pop p (s.taken port p rest) :=
  ⟨State.headAt_cons hq (by simp [hdst, hbad, hpop]), hfs, hfd⟩

/-- A packet for this chip is taken in, for any narrower kind that it is of (R53). -/
theorem State.takePacket_of_arrives {want : Packet → Bool} {k : Packet → State → State} (h : arrives s port pop p s1)
    (hle : ∀ q, want q = true → (q.pop == pop) = true) (hp : want p = true) : s.takePacket port want k = .next (k p s1) := by
  obtain ⟨hdst, hbad, -⟩ := arrives_kind h
  have hh : s.headAt port (fun p => p.dst == s.chip && !p.bad && want p) = some (p, s1) :=
    State.headAt_mono (fun q hq => by
      obtain ⟨hq1, hq2⟩ := Bool.and_eq_true_iff.mp hq
      rw [hq1, hle q hq2]
      rfl) (by simp [hdst, hbad, hp]) h.1
  unfold State.takePacket
  rw [hh]
  dsimp only
  rw [h.2.1, h.2.2]
  rfl

end

/-! ## Where a packet goes -/

theorem linkTo_self {s : State} {p : Packet} {port : Nat} (hs : s.fences.getLsbD p.src = false) (hd : s.fences.getLsbD p.dst = false)
    (h : s.linkTo p.dst = none) :
    s.inject port p = { s with inq := tput [] s.inq (if port < 6 then port else 6) (tget [] s.inq (if port < 6 then port else 6) ++ [p]) } := by
  unfold State.inject State.route
  rw [hs, hd, h]
  rfl

/-- Toward another chip: queued at an UP link, else dropped, and a packet in path order is answered (R52). -/
theorem inject_toward {s : State} {p : Packet} {port n : Nat} (hs : s.fences.getLsbD p.src = false) (hd : s.fences.getLsbD p.dst = false)
    (h : s.linkTo p.dst = some n) (hf : s.fences.getLsbD (s.neighbour n) = false) :
    (s.linkState n = 2 → s.inject port p = s.queueOut n port p) ∧
    (s.linkState n ≠ 2 → s.inject port p = if p.ordered then s.inject 6 (ackPacketOf p 1) else s) := by
  have hroute : s.route port p = if s.linkState n = 2 then (s.queueOut n port p, none) else (s, some 1) := by
    unfold State.route
    rw [hs, hd, h]
    dsimp only
    rw [hf]
    rfl
  refine ⟨fun hup => ?_, fun hdown => ?_⟩
  · unfold State.inject
    rw [hroute, if_pos hup]
  · conv_lhs => unfold State.inject
    rw [hroute, if_neg hdown]
    dsimp only
    split
    · -- a dropped ACK is not replaced: no packet in path order
      unfold State.inject
      generalize (s.route 6 (ackPacketOf p 1)) = r
      obtain ⟨s1, _ | st⟩ := r
      · rfl
      · rfl
    · rfl

theorem packetRouting : PacketRouting := by
  refine ⟨fun s s1 port p h => ⟨fun hb => ?_, fun hb => ?_⟩, fun s port p hport hf => ?_⟩
  · show execPacketForward port s = _
    rw [execPacketForward, h]
    dsimp only
    rw [hb]
    rfl
  · show execPacketForward port s = _
    rw [execPacketForward, h]
    dsimp only
    rw [hb]
    rfl
  · have hfence (c : Nat) : s.fences.getLsbD c = false := by rw [hf]; exact BitVec.getLsbD_zero
    have hlocal : (if port < 6 then port else 6) = port := by split <;> omega
    refine ⟨fun h => ?_, fun n h => ?_⟩
    · rw [linkTo_self (hfence _) (hfence _) h, hlocal]
    · obtain ⟨hup, hdown⟩ := inject_toward (port := port) (hfence _) (hfence _) h (hfence _)
      refine ⟨fun h2 => ⟨port < 6 && port / 2 == n / 2 && p.dlc || s.wraps n, ?_⟩, fun h2 ho => ?_, fun h2 ho hsrc hself => ?_⟩
      · rw [hup h2]
        refine ⟨?_, fun hw => by rw [hw, Bool.or_true], fun h6 => by rw [h6]; rfl, rfl⟩
        unfold State.queueOut
        dsimp only
        rw [Nat.min_eq_right hport]
        rfl
      · rw [hdown h2, if_neg (by simp [ho])]
      · rw [hdown h2, if_pos ho, linkTo_self (hfence _) (hfence _) (by rwa [show (ackPacketOf p 1).dst = s.chip from hsrc])]
        rfl

end Sys2Proof.Machine
end

section
/-! Packets in path order at their destination (R46, R81, R139, R143, R169). -/
namespace Sys2Proof.Machine
open Sys2Proof

/-! ## Harbours without a packet -/

theorem State.harbourAt_of_heldAll {s : State} (h : s.heldAll = []) {port : Nat} (hp : port < 7) : s.harbourAt port = [] :=
  List.map_eq_nil_iff.mp (List.flatMap_eq_nil_iff.mp h port (List.mem_range.mpr hp))

theorem State.heldAll_congr {s t : State} (h : t.harbour = s.harbour) : t.heldAll = s.heldAll := by
  unfold State.heldAll
  rw [h]

/-- With no packet held, nothing goes and nothing is asked for (R144, R145). -/
theorem State.tokensGo_of_heldAll {s : State} (h : s.heldAll = []) : s.tokensGo = s := by
  have hr : s.releaseHeld s.heldAll.length = s := by
    rw [h]
    rfl
  unfold State.tokensGo
  dsimp only
  rw [hr, h]
  rfl

/-! ## What a delivery leaves -/

/-- At most memory, its undo log and the deliveries have changed. -/
def State.Delivered (s t : State) : Prop := ∃ h r l x w, t = { s with hbm := h, regs := r, logs := l, tiles := x, winDel := w }

theorem State.Delivered.refl (s : State) : s.Delivered s := ⟨_, _, _, _, _, rfl⟩

theorem State.Delivered.trans {s t u : State} (h : s.Delivered t) (k : t.Delivered u) : s.Delivered u := by
  obtain ⟨h, r, l, x, w, rfl⟩ := h
  obtain ⟨h', r', l', x', w', rfl⟩ := k
  exact ⟨h', r', l', x', w', rfl⟩

theorem State.Delivered.keeps {s t : State} (h : s.Delivered t) {α : Sort*} (f : State → α)
    (hf : ∀ h r l x w, f { s with hbm := h, regs := r, logs := l, tiles := x, winDel := w } = f s) : f t = f s := by
  obtain ⟨h, r, l, x, w, rfl⟩ := h
  exact hf h r l x w

theorem State.Delivered.foldl {α : Type} {f : State → α → State} (hf : ∀ (s : State) a, s.Delivered (f s a)) (l : List α) (s : State) :
    s.Delivered (l.foldl f s) :=
  List.foldlRecOn l f (.refl s) fun t ht a _ => ht.trans (hf t a)

theorem State.delivered_freeBuffers (s : State) (l : List UndoRec) : s.Delivered (s.freeBuffers l) :=
  .foldl (fun _ _ => ⟨_, _, _, _, _, rfl⟩) _ _

theorem State.delivered_dropOldest (s : State) (c : Nat) : s.Delivered (s.dropOldest c) := by
  unfold State.dropOldest
  extract_lets old l gone s1 s2
  have h1 : s.Delivered (s1.setCx c cUNDOUSE (BitVec.ofNat 64 (s.undoUse c - (gone.map UndoRec.bytes).sum))) := ⟨_, _, _, _, _, rfl⟩
  have h2 : s.Delivered s2 := h1.trans (State.delivered_freeBuffers ..)
  exact h2.trans ⟨_, _, _, _, _, rfl⟩

theorem State.delivered_dropUntil {s t : State} {c len n : Nat} (h : s.dropUntil c len n = some t) : s.Delivered t := by
  induction n generalizing s with
  | zero => exact nomatch h
  | succ n ih =>
    rw [State.dropUntil] at h
    split at h
    · cases h
      exact .refl _
    · split at h
      · exact nomatch h
      · exact (s.delivered_dropOldest c).trans (ih h)

theorem State.delivered_reserveRing {s t : State} {src c len : Nat} {va : Word} (h : s.reserveRing src c len va = .ok t) : s.Delivered t := by
  have setUse {s1 : State} (h1 : s.Delivered s1) (v : Word) : s.Delivered (s1.setCx c cUNDOUSE v) := h1.trans ⟨_, _, _, _, _, rfl⟩
  unfold State.reserveRing at h
  obtain ⟨s1, hroom, h1⟩ := Res.bind_eq_ok.mp h
  cases h1
  refine setUse ?_ _
  split at hroom
  · cases hroom
    exact .refl s
  · split at hroom
    · split at hroom
      · cases hroom
        exact State.delivered_dropUntil ‹_›
      · split at hroom
        · exact nomatch hroom
        · split at hroom <;> exact nomatch hroom
    · split at hroom
      · exact nomatch hroom
      · split at hroom <;> exact nomatch hroom

/-- At most HBM, the undo log and the tiles' signatures have changed. -/
def State.Logged (s t : State) : Prop := ∃ h l x, t = { s with hbm := h, logs := l, tiles := x }

theorem State.Logged.refl (s : State) : s.Logged s := ⟨_, _, _, rfl⟩

theorem State.Logged.trans {s t u : State} (h : s.Logged t) (k : t.Logged u) : s.Logged u := by
  obtain ⟨h, l, x, rfl⟩ := h
  obtain ⟨h', l', x', rfl⟩ := k
  exact ⟨h', l', x', rfl⟩

theorem State.Logged.keeps {s t : State} (h : s.Logged t) {α : Sort*} (f : State → α) (hf : ∀ h l x, f { s with hbm := h, logs := l, tiles := x } = f s) :
    f t = f s := by
  obtain ⟨h, l, x, rfl⟩ := h
  exact hf h l x

theorem State.Logged.delivered {s t : State} (h : s.Logged t) : s.Delivered t := by
  obtain ⟨h, l, x, rfl⟩ := h
  exact ⟨h, s.regs, l, x, s.winDel, rfl⟩

theorem State.logged_ringWrite (s : State) (c : Nat) (bs : List Byte) : s.Logged (s.ringWrite c bs) := by
  unfold State.ringWrite
  extract_lets l size base head s1
  obtain ⟨h1, e1⟩ : ∃ h, s1 = { s with hbm := h } := s.physWrite_eq ..
  obtain ⟨h2, e2⟩ := s1.physWrite_eq c (BitVec.ofNat 64 base) (bs.drop head)
  rw [e2, e1]
  exact ⟨h2, _, s.tiles, rfl⟩

theorem State.logged_record (s : State) (c : Nat) (r : UndoRec) (new : List Byte) : s.Logged (s.record c r new) := by
  unfold State.record
  extract_lets s0 s1
  have h1 : s.Logged s1 := by
    dsimp only [s1]
    split
    · exact ⟨_, _, _, rfl⟩
    · exact State.Logged.trans ⟨_, _, _, rfl⟩ (s0.logged_ringWrite ..)
  clear_value s1
  split
  · split
    · exact h1.trans ⟨_, _, _, rfl⟩
    · exact h1
  · exact h1

theorem State.logged_hbmPut (s : State) (src wtile c : Nat) (win : BitVec 32) (va : Word) (pa : Nat) (bs : List Byte) (atom : Bool) :
    s.Logged (s.hbmPut src wtile c win va pa bs atom) := by
  unfold State.hbmPut
  extract_lets r s1
  have h1 : s.Logged s1 := s.logged_record ..
  clear_value s1
  exact h1.trans ⟨_, _, _, rfl⟩

theorem State.logged_writeVa (s : State) (src tile c : Nat) (win : BitVec 32) (va : Word) (bs : List Byte) : s.Logged (s.writeVa src tile c win va bs) := by
  refine List.foldlRecOn _ _ (.refl s) fun t ht p _ => ?_
  split
  · exact ht.trans (State.logged_hbmPut ..)
  · exact ht

theorem State.delivered_rxWrite {s t : State} {rxw off : Nat} {bs : List Byte} {ack : Option (Packet × Nat)} (h : s.rxWrite rxw off bs ack = .ok t) :
    s.Delivered t := by
  unfold State.rxWrite at h
  dsimp only at h
  split at h
  · exact nomatch h
  · split at h
    · exact nomatch h
    · obtain ⟨s1, h1, h2⟩ := Res.bind_eq_ok.mp h
      cases h2
      exact ((State.delivered_reserveRing h1).trans (State.logged_writeVa ..).delivered).trans ⟨_, _, _, _, _, rfl⟩

/-! ## A packet that has landed (R143) -/

theorem State.routed_answerQuery (s : State) (asker origin : Nat) : s.Routed (s.answerQuery asker origin) := s.routed_sendPlain ..

/-- The queries that a mark passes are answered, and are kept no more. -/
theorem State.moved_answerQueries (s : State) (origin : Nat) : ∃ q, State.Moved { s with queries := q } (s.answerQueries origin) :=
  ⟨_, (State.Routed.foldl (fun s (q : Nat × Nat × BitVec 32) => s.routed_answerQuery q.1 q.2.1) _ _).1⟩

theorem State.moved_landed (s : State) (p : Packet) :
    ∃ q, State.Moved { s with lhw := tput 0xFFFFFFFF#32 s.lhw p.src p.pseq, queries := q } (s.landed p) :=
  State.moved_answerQueries { s with lhw := tput 0xFFFFFFFF#32 s.lhw p.src p.pseq } p.src

theorem State.landed_keeps (s : State) (p : Packet) {α : Sort*} (f : State → α)
    (hf : ∀ w q i l, f { s with lhw := w, queries := q, inq := i, links := l } = f s) : f (s.landed p) = f s := by
  obtain ⟨q, i, l, e⟩ := s.moved_landed p
  rw [e]
  exact hf _ q i l

theorem State.lhw_landed (s : State) (p : Packet) : tget 0xFFFFFFFF#32 (s.landed p).lhw p.src = p.pseq := by
  obtain ⟨q, h⟩ := s.moved_landed p
  rw [h.keeps (·.lhw) fun _ _ => rfl]
  exact tget_tput_self ..

theorem State.stageNote_keeps (s : State) (p : Packet) {α : Sort*} (f : State → α) (hf : ∀ c, f { s with colls := c } = f s) :
    f (s.stageNote p) = f s := by
  unfold State.stageNote
  split
  · rfl
  · exact hf _

/-! ## Path order (R46) -/

section
variable {s s1 : State} {port pop : Nat} {p : Packet}

theorem State.pathEvent_of_arrives (hheld : s.heldAll = []) (h : arrives s port pop p s1) (hw : s.mustWait (s.packetCtx p) p = false) :
    s.pathEvent port pop = .next (s.pathPacket port p s1) := by
  obtain ⟨hh, hfs, hfd⟩ := h
  unfold State.pathEvent
  rw [State.tokensGo_of_heldAll hheld]
  dsimp only
  rw [hh]
  dsimp only
  rw [hw, hfs, hfd]
  rfl

/-- The three events of path order are one. -/
theorem exec_pathPacket {i : Nat → Instr} (hi : (i, pop) ∈ [(Instr.rstPacket, 0), (Instr.raccPacket, 1), (Instr.msgPacket, 3)]) :
    exec (i port) s = s.pathEvent port pop := by
  simp only [List.mem_cons, Prod.mk.injEq, List.not_mem_nil, or_false] at hi
  obtain ⟨rfl, rfl⟩ | ⟨rfl, rfl⟩ | ⟨rfl, rfl⟩ := hi <;> rfl

theorem State.pathPacket_gap (hd : p.src ∉ s.discarding) (hseq : p.pseq ≠ tget 0 s.pseqIn p.src) :
    s.pathPacket port p s1 = State.inject { s1 with discarding := p.src :: s.discarding } 6 (ackPacketOf p 4) := by
  unfold State.pathPacket
  rw [if_pos (Bool.or_eq_true _ _ ▸ .inr (bne_iff_ne.mpr hseq)), if_neg (by simpa using hd)]

/-- The next packet of a path is delivered, when nothing is held and its token is met. -/
theorem State.pathPacket_deliver {s3 : State} (hport : port < 7) (hheld : s.heldAll = []) (hd : p.src ∉ s.discarding)
    (hseq : p.pseq = tget 0 s.pseqIn p.src) (htok : s.tokenMet p = true) (hen : p.pop = 3 → bit (s.reg offMatchCtl) 0 = true)
    (hdel : State.deliver { s1 with pseqIn := tput 0 s1.pseqIn p.src (p.pseq + 1) } p = .ok s3) (hharb : s3.harbour = s.harbour) :
    s.pathPacket port p s1 = s3 := by
  unfold State.pathPacket
  rw [if_neg (by simp [hseq, hd])]
  dsimp only
  rw [State.harbourAt_of_heldAll hheld hport, if_neg (by simp [htok]), if_neg (by simpa using hen), hdel]
  exact State.tokensGo_of_heldAll ((State.heldAll_congr hharb).trans hheld)

/-- What a delivered packet of data leaves: its path, its mark and what is held. -/
theorem delivered_facts {s2 s3 : State} (c : Nat) (h : s2.Delivered s3) :
    let u := ((s3.recordPacket c p).stageNote p).landed p
    u.harbour = s2.harbour ∧ u.pseqIn = s2.pseqIn ∧ tget 0xFFFFFFFF#32 u.lhw p.src = p.pseq := by
  have hrec := s3.recorded_recordPacket c p
  refine ⟨?_, ?_, State.lhw_landed ..⟩
  · exact (State.landed_keeps _ p (·.harbour) fun _ _ _ _ => rfl).trans ((State.stageNote_keeps _ p (·.harbour) fun _ => rfl).trans
      ((hrec.keeps (·.harbour) fun _ _ _ => rfl).trans (h.keeps (·.harbour) fun _ _ _ _ _ => rfl)))
  · exact (State.landed_keeps _ p (·.pseqIn) fun _ _ _ _ => rfl).trans ((State.stageNote_keeps _ p (·.pseqIn) fun _ => rfl).trans
      ((hrec.keeps (·.pseqIn) fun _ _ _ => rfl).trans (h.keeps (·.pseqIn) fun _ _ _ _ _ => rfl)))

theorem State.deliver_data {s2 s3 : State} (hpop : p.pop ≠ 3)
    (h : s2.rxWrite (fld p.word2 0 12) (fld p.word2 12 40) (s2.windowAfter p) (some (p, 0)) = .ok s3) :
    s2.deliver p = .ok (((s3.recordPacket (s2.packetCtx p) p).stageNote p).landed p) := by
  unfold State.deliver
  dsimp only
  rw [if_neg hpop, h]

/-- The arrival that a message is (R81). -/
def messageArrival (p : Packet) : Arrival :=
  { mb := BitVec.ofNat 64 (leNat (p.data.take 8)), skind := 0, aop := false, src := p.src, hdata := BitVec.ofNat 64 (leNat ((p.data.drop 8).take 8)),
    len := p.data.length - 16, data := p.data.drop 16, ctx := nfld (leNat (p.data.take 8)) 58 6, pdc := none, left := 0, more := [], recAt := none, born := 0 }

theorem State.deliver_message (s2 : State) (hpop : p.pop = 3) :
    s2.deliver p = .ok (((s2.joinArrivals (messageArrival p)).inject 6 (ackPacketOf p 0)).landed p) := by
  unfold State.deliver
  dsimp only
  rw [if_pos hpop]
  unfold State.packetCtx
  rw [if_pos hpop]
  rfl

theorem message_facts (s2 : State) (a : Arrival) :
    let u := ((s2.joinArrivals a).inject 6 (ackPacketOf p 0)).landed p
    u.harbour = s2.harbour ∧ u.pseqIn = s2.pseqIn ∧ tget 0xFFFFFFFF#32 u.lhw p.src = p.pseq := by
  have hroute := (s2.joinArrivals a).routed_inject 6 (ackPacketOf p 0)
  refine ⟨?_, ?_, State.lhw_landed ..⟩
  · exact (State.landed_keeps _ p (·.harbour) fun _ _ _ _ => rfl).trans (hroute.keeps (·.harbour) fun _ _ => rfl)
  · exact (State.landed_keeps _ p (·.pseqIn) fun _ _ _ _ => rfl).trans (hroute.keeps (·.pseqIn) fun _ _ => rfl)

end

/-- What an RST or RACC packet leaves in its window (R139, R169). -/
theorem windowAfter_eq (s : State) (p : Packet) :
    (p.pop = 0 → s.windowAfter p = p.data) ∧
    (p.pop = 1 → bit (s.reg128 (offRxw (fld p.word2 0 12))) 0 = true →
      fld p.word2 12 40 + p.data.length ≤ winSize (s.reg128 (offRxw (fld p.word2 0 12))) →
      s.windowAfter p = ropBytesAdd (fld p.word2 52 4) p.data.length
        (s.windowBytes true (fld p.word2 0 12) (fld (s.reg128 (offRxw (fld p.word2 0 12))) 1 6) (fld p.word2 12 40) p.data.length) p.data) := by
  refine ⟨fun h => if_pos h, fun h hb hl => ?_⟩
  unfold State.windowAfter
  dsimp only
  rw [if_neg (by omega), hb, if_neg (by simpa using hl)]

theorem pathDelivery : PathDelivery := by
  refine ⟨fun s s1 port p i hi hport hheld harr hw hd => ⟨fun hseq => ?_, fun hseq htok => ?_⟩, windowAfter_eq⟩
  · rw [exec_pathPacket hi, State.pathEvent_of_arrives hheld harr hw, State.pathPacket_gap hd hseq]
  · intro s2
    have hmoved := arrives_moved harr
    have hharb : s2.harbour = s.harbour := hmoved.keeps (·.harbour) fun _ _ => rfl
    have hin : tget 0 s2.pseqIn p.src = p.pseq + 1 := tget_tput_self ..
    have run {u : State} (hen : p.pop = 3 → bit (s.reg offMatchCtl) 0 = true) (hdel : s2.deliver p = .ok u)
        (hu : u.harbour = s2.harbour ∧ u.pseqIn = s2.pseqIn ∧ tget 0xFFFFFFFF#32 u.lhw p.src = p.pseq) :
        ∃ v, exec (i port) s = .next v ∧ v = u ∧ tget 0 v.pseqIn p.src = p.pseq + 1 ∧ tget 0xFFFFFFFF#32 v.lhw p.src = p.pseq := by
      obtain ⟨hh, hp, hl⟩ := hu
      refine ⟨u, ?_, rfl, by rw [hp, hin], hl⟩
      rw [exec_pathPacket hi, State.pathEvent_of_arrives hheld harr hw,
        State.pathPacket_deliver hport hheld hd hseq htok hen hdel (hh.trans hharb)]
    refine ⟨fun s3 hpop hrx => ?_, fun hpop hen => ?_⟩
    · exact run (fun h => absurd h hpop) (State.deliver_data hpop hrx) (delivered_facts _ (State.delivered_rxWrite hrx))
    · exact run (fun _ => hen) (State.deliver_message s2 hpop) (message_facts s2 (messageArrival p))

end Sys2Proof.Machine
end

section
/-! Acknowledgements and path resets (R36, R46), and causal tokens (R143-R148). -/
namespace Sys2Proof.Machine
open Sys2Proof

/-! ## Acknowledgements (R36) -/

/-- A packet's replay entries leave every field but memory, registers and logs. -/
theorem State.recordPackets_keeps (s : State) (p : Packet) (cs : List Nat) {α : Sort*} (f : State → α)
    (hf : ∀ (t : State) h r l, f { t with hbm := h, regs := r, logs := l } = f t) : f (cs.foldl (fun s c => s.recordPacket c p) s) = f s :=
  List.foldlRecOn (motive := fun t => f t = f s) cs _ rfl fun t ht c _ => ((t.recorded_recordPacket c p).keeps f (hf t)).trans ht

section
variable {s : State} {e : Sent}

/-- An OK answer ends a packet that no send and no action waits for. -/
theorem State.settle_ok (hsend : e.send = none) (hfire : e.firing = none) : s.settle e 0 = { s with sent := s.sent.erase e } := by
  unfold State.settle
  rw [hsend, hfire]
  dsimp only
  rw [if_pos (by simp)]

/-- Another answer is kept for the party that waits. -/
theorem State.sent_settle_status {v : Nat} (hsend : e.send = none) (hfire : e.firing = none) (hwho : e.who.isSome = true) (hv : v ≠ 0)
    (heng : v < 3 ∨ ∀ n, e.who ≠ some (.engine n)) :
    (s.settle e v).sent = s.sent.map fun x => if x = e then { x with status := some v } else x := by
  obtain ⟨w, hw⟩ := Option.isSome_iff_exists.mp hwho
  have hparty : (decide (3 ≤ v) && (some w).any fun w => w.tile?.isNone && !w.isThread) = false := by
    obtain h | h := heng
    · rw [decide_eq_false (Nat.not_le.mpr h)]
      rfl
    · cases w with
      | engine n => exact absurd hw (h n)
      | stream t k => simp [Who.tile?]
      | thread n => simp [Who.isThread]
  unfold State.settle
  rw [hsend, hfire, hw]
  dsimp only
  rw [if_neg]
  rw [hparty]
  simp [hv]

theorem State.settle_ok_all {l : List Sent} (hl : ∀ e ∈ l, e.send = none ∧ e.firing = none) :
    l.foldl (fun s e => s.settle e 0) s = { s with sent := s.sent.diff l } := by
  induction l generalizing s with
  | nil => rfl
  | cons e l ih =>
    obtain ⟨hsend, hfire⟩ := hl e List.mem_cons_self
    rw [List.foldl_cons, ih fun x hx => hl x (List.mem_cons_of_mem _ hx), State.settle_ok hsend hfire, List.diff_cons]

end

/-- What is left of a list without all that a predicate picks. -/
theorem mem_diff_filter {α : Type} [DecidableEq α] {P : α → Bool} {l : List α} {a : α} : a ∈ l.diff (l.filter P) ↔ a ∈ l ∧ P a = false := by
  rw [← List.count_pos_iff, List.count_diff]
  by_cases h : P a = true
  · rw [List.count_filter h]
    simp [h]
  · rw [List.count_eq_zero.mpr fun hm => h (List.mem_filter.mp hm).2, Nat.sub_zero, List.count_pos_iff]
    simp [h]

section
variable {s s1 : State} {port : Nat} {p : Packet}

/-- The packets that an ACK answers here: none of a context under PLAY, unless it comes from this chip (R285). -/
def State.answered (s1 : State) (p : Packet) (v : Nat) : List Sent :=
  s1.sent.filter fun e => ackCovers p v e && (!s1.playing e.ctx || p.src == s1.chip)

theorem exec_ackPacket {v : Byte} (h : arrives s port 8 p s1) (hv : p.data.head? = some v) (hv5 : v.toNat < 5) :
    ∃ t, t.sent = s1.sent ∧ t.inq = s1.inq ∧ (s1.answered p v.toNat = [] → t = s1) ∧
      exec (.ackPacket port) s = .next ((s1.answered p v.toNat).foldl (fun s e => s.settle e v.toNat) t) := by
  refine ⟨(((s1.answered p v.toNat).map (·.ctx)).eraseDups).foldl (fun s c => s.recordPacket c p) s1,
    State.recordPackets_keeps s1 p _ (·.sent) fun _ _ _ _ => rfl, State.recordPackets_keeps s1 p _ (·.inq) fun _ _ _ _ => rfl, fun hnil => by rw [hnil]; rfl, ?_⟩
  show execAckPacket port s = _
  unfold execAckPacket
  rw [State.takePacket_of_arrives h (fun q hq => hq) (by rw [(arrives_kind h).2.2]; rfl)]
  unfold State.applyAckPacket
  rw [hv]
  dsimp only [Option.map_some, Option.getD_some]
  rw [if_neg (Nat.not_le.mpr hv5)]
  rfl

/-- An OK ACK ends what it covers and nothing else. -/
theorem exec_ackPacket_ok (h : arrives s port 8 p s1) (hv : p.data.head? = some 0)
    (hplain : ∀ e ∈ s1.answered p 0, e.send = none ∧ e.firing = none) :
    ∃ u, exec (.ackPacket port) s = .next u ∧ u.sent = s1.sent.diff (s1.answered p 0) ∧ u.inq = s1.inq := by
  obtain ⟨t, ht, hq, -, he⟩ := exec_ackPacket h hv (by decide)
  have hall := State.settle_ok_all (s := t) hplain
  rw [ht] at hall
  exact ⟨_, he.trans (congrArg Host.Outcome.next hall), rfl, hq⟩

theorem answered_single {e : Sent} (hs : s1.sent = [e]) (v : Nat) :
    s1.answered p v = if ackCovers p v e && (!s1.playing e.ctx || p.src == s1.chip) then [e] else [] := by
  rw [State.answered, hs, List.filter_singleton, Bool.cond_eq_ite]

end

/-! ## Path resets (R46) -/

theorem State.heldAll_eq_nil_iff {s : State} : s.heldAll = [] ↔ ∀ i < 7, s.harbourAt i = [] := by
  refine ⟨fun h i hi => State.harbourAt_of_heldAll h hi, fun h => List.flatMap_eq_nil_iff.mpr fun i hi => ?_⟩
  rw [List.map_eq_nil_iff]
  exact h i (List.mem_range.mp hi)

theorem State.harbourAt_setHarbour (s : State) (i j : Nat) (l : List Held) : (s.setHarbour i l).harbourAt j = if j = i then l else s.harbourAt j :=
  tget_tput ..

/-- Discarding from empty harbours changes nothing that a reader sees of them. -/
theorem State.discardHeld_none {s : State} (h : s.heldAll = []) (gone : Held → Bool) :
    ∃ x y, (List.range 7).foldl (fun s i => s.discardHeld i gone) s = { s with harbour := x, holdTold := y } ∧
      State.heldAll { s with harbour := x, holdTold := y } = [] := by
  suffices hs : (∃ x y, (List.range 7).foldl (fun s i => s.discardHeld i gone) s = { s with harbour := x, holdTold := y }) ∧
      ((List.range 7).foldl (fun s i => s.discardHeld i gone) s).heldAll = [] by
    obtain ⟨⟨x, y, e⟩, hnil⟩ := hs
    exact ⟨x, y, e, e ▸ hnil⟩
  refine List.foldlRecOn (motive := fun t : State => (∃ x y, t = { s with harbour := x, holdTold := y }) ∧ t.heldAll = []) _ _
    ⟨⟨_, _, rfl⟩, h⟩ fun t ht i hi => ?_
  obtain ⟨⟨x, y, rfl⟩, hnil⟩ := ht
  have hi0 := State.harbourAt_of_heldAll hnil (List.mem_range.mp hi)
  have hset : State.discardHeld { s with harbour := x, holdTold := y } i gone = State.setHarbour { s with harbour := x, holdTold := y } i [] := by
    unfold State.discardHeld
    dsimp only
    rw [hi0]
    rfl
  rw [hset]
  refine ⟨⟨_, _, rfl⟩, State.heldAll_eq_nil_iff.mpr fun j hj => ?_⟩
  rw [State.harbourAt_setHarbour]
  split
  · rfl
  · exact State.harbourAt_of_heldAll hnil hj

section
variable {s s1 : State} {port : Nat} {p : Packet}

/-- PATHRST at the path's destination: its source's next PSEQ and mark, and its path is discarded no more. -/
theorem exec_pathrst_dst (h : arrives s port 0x14 p s1) (hdst : fld p.word2 10 10 = s1.chip) (hsrc : fld p.word2 0 10 ≠ s1.chip)
    (hheld : s1.heldAll = []) :
    ∃ u, exec (.pathrstPacket port) s = .next u ∧ u.pseqIn = tput 0 s1.pseqIn (fld p.word2 0 10) (tokenSeq p.word2) ∧
      u.lhw = tput 0xFFFFFFFF#32 s1.lhw (fld p.word2 0 10) (tokenSeq p.word2 - 1) ∧
      u.discarding = s1.discarding.filter (· != fld p.word2 0 10) := by
  obtain ⟨x, y, e, hnil⟩ := State.discardHeld_none hheld fun h => h.p.src == fld p.word2 0 10
  obtain ⟨q, hm⟩ := State.moved_answerQueries
    { s1 with harbour := x, holdTold := y, pseqIn := tput 0 s1.pseqIn (fld p.word2 0 10) (tokenSeq p.word2)
              discarding := s1.discarding.filter (· != fld p.word2 0 10)
              lhw := tput 0xFFFFFFFF#32 s1.lhw (fld p.word2 0 10) (tokenSeq p.word2 - 1) } (fld p.word2 0 10)
  refine ⟨_, ?_, hm.keeps (·.pseqIn) fun _ _ => rfl, hm.keeps (·.lhw) fun _ _ => rfl, hm.keeps (·.discarding) fun _ _ => rfl⟩
  show execPathrstPacket port s = _
  unfold execPathrstPacket
  rw [State.takePacket_of_arrives h (fun q hq => hq) (by rw [(arrives_kind h).2.2]; rfl)]
  dsimp only
  rw [if_neg (not_not.mpr hdst), if_pos hsrc, e]
  exact congrArg _ (State.tokensGo_of_heldAll ((State.heldAll_congr (hm.keeps (·.harbour) fun _ _ => rfl)).trans hnil))

/-- PATHRST at the path's source fails what waits on the path. -/
theorem exec_pathrst_src {e : Sent} (h : arrives s port 0x14 p s1) (hdst : fld p.word2 10 10 ≠ s1.chip) (hsrc : fld p.word2 0 10 = s1.chip)
    (hs : s1.sent = [e]) (hd : e.dst = fld p.word2 10 10) (hst : e.status = none) (hsend : e.send = none) (hfire : e.firing = none)
    (hwho : e.who.isSome = true) : ∃ u, exec (.pathrstPacket port) s = .next u ∧ u.sent = [{ e with status := some 1 }] := by
  refine ⟨s1.settle e 1, ?_, ?_⟩
  · show execPathrstPacket port s = _
    unfold execPathrstPacket
    rw [State.takePacket_of_arrives h (fun q hq => hq) (by rw [(arrives_kind h).2.2]; rfl)]
    dsimp only
    rw [if_pos hdst, if_neg (not_not.mpr hsrc), hs, List.filter_singleton, hd, hst]
    simp
  · rw [State.sent_settle_status hsend hfire hwho (by decide) (.inl (by decide)), hs]
    simp

end

theorem pathAnswers : PathAnswers := by
  refine ⟨fun s s1 port p e h hs hd hst hsend hfire hwho hplay => ?_, fun s s1 port p h => ?_⟩
  · have hwhich : (!s1.playing e.ctx || p.src == s1.chip) = true := by
      obtain h | h := hplay <;> simp [h]
    refine ⟨fun hv hle => ?_, fun v hv hv0 hv5 hq heng => ?_, fun hv hgt => ?_⟩
    · have hpass : passed32 p.pseq e.pseq = true := decide_eq_true hle
      have hc : s1.answered p 0 = [e] := by
        rw [answered_single hs, if_pos]
        simp [ackCovers, hd, hst, hwhich, hpass]
      obtain ⟨u, hu, hsent, -⟩ := exec_ackPacket_ok h hv fun x hx => by
        rw [hc, List.mem_singleton] at hx
        exact hx ▸ ⟨hsend, hfire⟩
      exact ⟨u, hu, by rw [hsent, hc, hs]; simp⟩
    · have hvn : v.toNat ≠ 0 := fun h0 => hv0 (BitVec.eq_of_toNat_eq h0)
      obtain ⟨t, ht, -, -, hu⟩ := exec_ackPacket h hv hv5
      have hc : s1.answered p v.toNat = [e] := by
        rw [answered_single hs, if_pos]
        simp [ackCovers, hd, hst, hwhich, hvn, hq]
      rw [hc] at hu
      refine ⟨_, hu, ?_⟩
      rw [List.foldl_cons, List.foldl_nil, State.sent_settle_status hsend hfire hwho hvn (.inr heng), ht, hs]
      simp
    · obtain ⟨t, -, -, ht, hu⟩ := exec_ackPacket h hv (by decide)
      have hpass : passed32 p.pseq e.pseq = false := decide_eq_false (Nat.not_lt.mpr hgt)
      have hc : s1.answered p (0 : Byte).toNat = [] := by
        rw [answered_single hs, if_neg]
        simp [ackCovers, hpass]
      rw [hu, hc, ht hc]
      rfl
  · intro src dst q
    refine ⟨fun hdst hsrc hheld => ?_, fun hdst hsrc e hs hd hst hsend hfire hwho => exec_pathrst_src h hdst hsrc hs hd hst hsend hfire hwho⟩
    obtain ⟨u, hu, hp, hl, hdis⟩ := exec_pathrst_dst h hdst hsrc hheld
    refine ⟨u, hu, by rw [hp]; exact tget_tput_self .., by rw [hl]; exact tget_tput_self .., by rw [hdis]; simp [src], fun c hc => ?_⟩
    rw [hp, tget_tput_ne _ _ _ hc, (arrives_moved h).keeps (·.pseqIn) fun _ _ => rfl]

end Sys2Proof.Machine
end

section
/-! Causal tokens (R143-R148) and the router's reduction blocks (R49, R50). -/
namespace Sys2Proof.Machine
open Sys2Proof

/-! ## Queries and answers (R145) -/

section
variable {s s1 : State} {port : Nat} {p : Packet}

theorem exec_tkqPacket (h : arrives s port 0x10 p s1) :
    (passed32 (s1.mark (fld p.word2 0 10)) (tokenSeq p.word2) = true →
      exec (.tkqPacket port) s = .next (s1.answerQuery p.src (fld p.word2 0 10))) ∧
    (passed32 (s1.mark (fld p.word2 0 10)) (tokenSeq p.word2) = false → s1.queries.length < 1024 →
      exec (.tkqPacket port) s = .next { s1 with queries := s1.queries ++ [(p.src, fld p.word2 0 10, tokenSeq p.word2)] }) := by
  have he : exec (.tkqPacket port) s = .next (if passed32 (s1.mark (fld p.word2 0 10)) (tokenSeq p.word2) || 1024 ≤ s1.queries.length then
      s1.answerQuery p.src (fld p.word2 0 10) else { s1 with queries := s1.queries ++ [(p.src, fld p.word2 0 10, tokenSeq p.word2)] }) :=
    State.takePacket_of_arrives h (fun q hq => hq) (by rw [(arrives_kind h).2.2]; rfl)
  refine ⟨fun hp => ?_, fun hp hl => ?_⟩
  · rw [he, if_pos (by rw [hp]; rfl)]
  · rw [he, if_neg (by simp [hp, hl])]

/-- An answer moves the mark of its entry, and its query is out no more. -/
theorem exec_tkaPacket {i : Nat} {t : TokEntry} (h : arrives s port 9 p s1) (hheld : s1.heldAll = [])
    (hi : s1.tokenAt p.src (fld p.word2 0 10) = some (i, t)) (hm : t.mark = none) :
    ∃ u t1, exec (.tkaPacket port) s = .next u ∧ u.tokens = tput none s1.tokens i (some t1) ∧ t1.mark = some (tokenSeq p.word2) ∧ t1.qout = false := by
  have hlearn : ∃ t1, s1.learn p.src (fld p.word2 0 10) (tokenSeq p.word2) = s1.setToken i t1 ∧ t1.mark = some (tokenSeq p.word2) ∧ t1.qout = false := by
    unfold State.learn
    dsimp only
    rw [hi]
    dsimp only
    rw [hm]
    exact ⟨_, rfl, rfl, rfl⟩
  obtain ⟨t1, hl, hmark, hq⟩ := hlearn
  refine ⟨s1.setToken i t1, t1, ?_, rfl, hmark, hq⟩
  refine (State.takePacket_of_arrives h (fun q hq => hq) (by rw [(arrives_kind h).2.2]; rfl)).trans (congrArg _ ?_)
  unfold State.applyTka
  dsimp only
  rw [hheld]
  refine Eq.trans ?_ (State.tokensGo_of_heldAll (s := s1.setToken i t1) hheld)
  rw [← hl]
  rfl

/-- A query is sent again 1 µs after an answer that was too low, not before. -/
theorem exec_tkqRetry {landing origin i : Nat} {t : TokEntry} {c : Word} (hheld : s.heldAll = []) (hi : s.tokenAt landing origin = some (i, t))
    (hc : t.short = some c) :
    (940 ≤ (s.ccc - c).toNat → exec (.tkqRetry landing origin) s = .next (s.setToken i { t with short := none })) ∧
    ((s.ccc - c).toNat < 940 → exec (.tkqRetry landing origin) s = .next s) := by
  have he : exec (.tkqRetry landing origin) s =
      if 940 ≤ (s.ccc - c).toNat then .next (s.setToken i { t with short := none }).tokensGo else .next s := by
    show execTkqRetry landing origin s = _
    unfold execTkqRetry
    rw [hi]
    dsimp only
    rw [hc]
  refine ⟨fun h => ?_, fun h => ?_⟩
  · rw [he, if_pos h, State.tokensGo_of_heldAll (s := s.setToken i { t with short := none }) hheld]
  · rw [he, if_neg (Nat.not_le.mpr h)]

end

/-! ## Held packets (R147, R148) -/

section
variable {s : State} {port : Nat} {h : Held}

/-- One packet is held: its port is one of the seven, and the others are empty. -/
theorem harbourAt_of_heldAll_single (hall : s.heldAll = [(port, h)]) : ∀ i < 7, i ≠ port → s.harbourAt i = [] := by
  intro i hi hne
  rw [List.eq_nil_iff_forall_not_mem]
  intro x hx
  have hmem : (i, x) ∈ s.heldAll := List.mem_flatMap.mpr ⟨i, List.mem_range.mpr hi, List.mem_map.mpr ⟨x, hx, rfl⟩⟩
  rw [hall, List.mem_singleton, Prod.mk.injEq] at hmem
  exact hne hmem.1

theorem exec_tokenExpiry_due (hall : s.heldAll = [(port, h)]) (hport : s.harbourAt port = [h]) (hd : h.p.src ∉ s.discarding)
    (hdue : cyclesOf (s.cxF (s.packetCtx h.p) cTKEXP 0 17) < (s.ccc - h.since).toNat) :
    ∃ u, exec (.tokenExpiry port) s = .next u ∧ u.discarding = h.p.src :: s.discarding ∧ u.heldAll = [] := by
  have hmoved := ((s.setHarbour port []).routed_inject 6 (ackPacketOf h.p 4)).1
  have hdisc : s.discardHeld port (fun k => k.p.src == h.p.src && decide ((k.p.pseq - h.p.pseq).toNat < 2 ^ 31)) =
      (s.setHarbour port []).inject 6 (ackPacketOf h.p 4) := by
    have hself : (h.p.src == h.p.src && decide ((h.p.pseq - h.p.pseq).toNat < 2 ^ 31)) = true := by
      rw [BitVec.sub_self]
      simp
    unfold State.discardHeld
    dsimp only
    rw [hport]
    simp only [List.filter_singleton, hself]
    rfl
  generalize hs1 : (s.setHarbour port []).inject 6 (ackPacketOf h.p 4) = s1 at hmoved hdisc
  have hsd : s1.discarding = s.discarding := hmoved.keeps (·.discarding) fun _ _ => rfl
  have hnil : s1.heldAll = [] := by
    rw [hmoved.keeps (·.heldAll) fun _ _ => rfl, State.heldAll_eq_nil_iff]
    intro i hi
    rw [State.harbourAt_setHarbour]
    split
    · rfl
    · exact harbourAt_of_heldAll_single hall i hi ‹_›
  have hrep := State.reported_report { s1 with discarding := h.p.src :: s.discarding } .tokenExpired (s.packetCtx h.p) 4 (if port < 6 then port else 0) h.p.src
  have hnil' := (State.heldAll_congr (hrep.keeps (·.harbour) fun _ _ _ => rfl)).trans hnil
  refine ⟨_, ?_, hrep.keeps (·.discarding) fun _ _ _ => rfl, hnil'⟩
  show execTokenExpiry port s = _
  unfold execTokenExpiry
  rw [hport, List.find?_singleton, if_pos (decide_eq_true hdue)]
  dsimp only
  rw [hdisc, hsd, if_neg (by simpa using hd)]
  exact congrArg _ (State.tokensGo_of_heldAll hnil')

theorem exec_tokenExpiry_early (hport : s.harbourAt port = [h])
    (hearly : (s.ccc - h.since).toNat ≤ cyclesOf (s.cxF (s.packetCtx h.p) cTKEXP 0 17)) : exec (.tokenExpiry port) s = .next s := by
  show execTokenExpiry port s = _
  unfold execTokenExpiry
  rw [hport, List.find?_singleton, if_neg (by simpa using hearly)]

theorem exec_holdQueueFull {a b : Held} (ha : (s.harbourAt port).head? = some a) (hb : (s.harbourAt port).getLast? = some b)
    (hlen : (s.harbourAt port).length = 256) (htold : port ∉ s.holdTold) (hdue : 940000 ≤ (s.ccc - b.since).toNat) :
    exec (.holdQueueFull port) s =
      .next (State.report { s with holdTold := port :: s.holdTold } .holdQueueFull (s.packetCtx a.p) 4 (if port < 6 then port else 0) 0) := by
  show execHoldQueueFull port s = _
  unfold execHoldQueueFull
  dsimp only
  rw [ha, hb]
  exact if_pos (by rw [hlen, decide_eq_true hdue, List.contains_eq_mem, decide_eq_false htold]; rfl)

theorem exec_tokenTableFull {p : Packet} (hp : s.unasked = some p) :
    (s.tokenTold = none → exec .tokenTableFull s = .next (State.report { s with tokenTold := some s.ccc } .tokenTableFull (s.packetCtx p) 4 0 0)) ∧
    ∀ c, s.tokenTold = some c → (s.ccc - c).toNat < 940000 → exec .tokenTableFull s = .next s := by
  refine ⟨fun ht => ?_, fun c ht hc => ?_⟩
  · show execTokenTableFull s = _
    unfold execTokenTableFull
    rw [hp, ht]
    rfl
  · show execTokenTableFull s = _
    unfold execTokenTableFull
    rw [hp, ht]
    exact if_pos (decide_eq_true hc)

end

theorem causalTokens : CausalTokens := by
  refine ⟨fun s s1 port p h => ?_, fun s s1 port i p t h hheld hi hm => ?_, fun s landing origin i t c hheld hi hc => exec_tkqRetry hheld hi hc,
    fun s port h hall hport hd => ⟨exec_tokenExpiry_due hall hport hd, exec_tokenExpiry_early hport⟩,
    fun s port a b ha hb hlen htold hdue => exec_holdQueueFull ha hb hlen htold hdue, fun s p hp => exec_tokenTableFull hp⟩
  · obtain ⟨hpass, hkept⟩ := exec_tkqPacket h
    exact ⟨fun hlt => hpass (decide_eq_true hlt), fun hge => hkept (decide_eq_false (Nat.not_lt.mpr hge))⟩
  · obtain ⟨u, t1, hu, htok, hmark, hq⟩ := exec_tkaPacket h hheld hi hm
    refine ⟨u, t1, hu, by rw [htok]; exact tget_tput_self .., hmark, hq, fun j hj => ?_⟩
    rw [htok, tget_tput_ne _ _ _ hj]

/-! ## Reduction blocks (R49, R50) -/

section
variable {s s1 : State} {port : Nat} {p : Packet} {l : List (BitVec 32)}

/-- The format in which a chip reduces through an entry. -/
def State.redRop (s : State) (rid : Nat) : Nat := ((s.redRun rid).map fun r => r.2.c.rop).getD 0

theorem exec_redPacket (h : arrives s port 2 p s1) (hw : ∀ r, s.redRun (redRid p) = some r → s.mustWait r.2.c.ctx p = false) :
    exec (.redPacket port) s = .next (s.applyRed p s1) := by
  obtain ⟨hh, hfs, hfd⟩ := h
  show execRedPacket port s = _
  unfold execRedPacket
  rw [hh]
  dsimp only
  rw [hfs, hfd, if_neg (by decide), if_neg]
  rw [Bool.not_eq_true, Option.any_eq_false]
  exact fun r hr => by rw [hw r hr]

/-- A contribution of another epoch, or to no entry, is stale. -/
theorem State.applyRed_stale (hl : redElems (s.redRop (redRid p)) p.data = some l)
    (hbad : rtValid (s.reg128 (offRedTab (redRid p))) = false ∨ rtEpoch (s.reg128 (offRedTab (redRid p))) ≠ redEpoch p) :
    s.applyRed p s1 = s1.bump offRedStale := by
  unfold State.redRop Coll.rop at hl
  unfold State.applyRed
  dsimp only
  rw [hl]
  dsimp only
  refine if_pos ?_
  obtain h | h := hbad
  · rw [h]
    rfl
  · rw [bne_iff_ne.mpr h, Bool.or_true]
    rfl

/-- The first contribution of a block: it is kept while another of its entry's inputs is missing, else the block is complete. -/
theorem State.applyRed_first (hl : redElems (s.redRop (redRid p)) p.data = some l)
    (hvalid : rtValid (s.reg128 (offRedTab (redRid p))) = true) (hepoch : rtEpoch (s.reg128 (offRedTab (redRid p))) = redEpoch p)
    (hnew : ∀ b ∈ s.reds, b.rid = redRid p → b.block ≠ redBlock p) (hroom : (s.reds.filter fun b => b.rid == redRid p).length < 16) :
    let e := s.reg128 (offRedTab (redRid p))
    let slots := tput [] [] (redSlot p) l
    let rest := s1.reds.filter fun b => !(b.rid == redRid p && b.block == redBlock p)
    let missing := (List.range 8).any fun i => (rtInmask e).testBit i && (tget [] slots i).isEmpty
    (missing = true → s.applyRed p s1 = { s1 with reds := rest ++ [{ rid := redRid p, block := redBlock p, slots := slots }] }) ∧
    (missing = false → rtRoot e = false → (∀ r, s.redRun (redRid p) = some r → s.playing r.2.c.ctx = false) →
      p.data.length = 64 * ropBytes (s.redRop (redRid p)) →
      s.applyRed p s1 = State.sendRed { s1 with reds := rest } (rtParent e) (redRid p) (rtEpoch e) (redBlock p) (rtPslot e)
        ((redSum e (s.redRop (redRid p)) slots).flatMap fun v => leBytes (ropBytes (s.redRop (redRid p))) v.toNat)) := by
  intro e slots rest missing
  have hcur : ((s.reds.filter fun b => b.rid == redRid p).find? fun b => b.block == redBlock p) = none := by
    rw [List.find?_eq_none]
    intro b hb
    obtain ⟨hb, hr⟩ := List.mem_filter.mp hb
    rw [beq_iff_eq]
    exact hnew b hb (beq_iff_eq.mp hr)
  have hstep : s.applyRed p s1 =
      if missing = true then { s1 with reds := rest ++ [{ rid := redRid p, block := redBlock p, slots := slots }] }
      else
        let out := redSum e (s.redRop (redRid p)) slots
        let raw := out.flatMap fun v => leBytes (ropBytes (s.redRop (redRid p))) v.toNat
        let wire := if p.data.length = 64 * ropBytes (s.redRop (redRid p)) then raw else wireEncode (out.map (·.toNat))
        let s2 : State := { s1 with reds := rest }
        if !rtRoot e then
          (if (s.redRun (redRid p)).any fun r => s.playing r.2.c.ctx then s2 else s2.sendRed (rtParent e) (redRid p) (rtEpoch e) (redBlock p) (rtPslot e) wire)
        else match s.redRun (redRid p) with
          | some (k, r) => (s2.recordInput r.c.ctx 2 0 (({ p with data := wire } : Packet).header ++ wire)).redResult k (redBlock p) raw
          | none => s2 := by
    unfold State.redRop Coll.rop at hl
    conv_lhs => unfold State.applyRed
    dsimp only
    rw [hl, hcur]
    dsimp only
    rw [hvalid, if_neg (by rw [hepoch]; simp [tget]), if_neg (by simpa using hroom)]
    rfl
  refine ⟨fun hm => hstep.trans (if_pos hm), fun hm hroot hplay hlen => ?_⟩
  rw [hstep, if_neg (by rw [hm]; decide)]
  dsimp only
  rw [hroot, if_pos (by rfl), if_neg, if_pos hlen]
  rw [Bool.not_eq_true, Option.any_eq_false]
  exact fun r hr => by rw [hplay r hr]

/-- Inputs of an entry that have not come, when the one at a slot has. -/
theorem red_missing_iff (m slot : Nat) (hl : l ≠ []) :
    ((List.range 8).any fun i => m.testBit i && (tget [] (tput [] [] slot l) i).isEmpty) = true ↔ ∃ i < 8, i ≠ slot ∧ m.testBit i = true := by
  rw [List.any_eq_true]
  refine exists_congr fun i => ?_
  rw [List.mem_range, Bool.and_eq_true, tget_tput]
  by_cases hi : i = slot
  · simp [hi, hl]
  · simp [hi, tget]

end

theorem reductionPackets : ReductionPackets := by
  intro s s1 port p l h rid e rop slots hplay hl hreds
  have hw (r : Nat × CollRun) (hr : s.redRun (redRid p) = some r) : s.mustWait r.2.c.ctx p = false := by
    unfold State.mustWait
    rw [hplay r hr]
    rfl
  have hreds1 : s1.reds = [] := ((arrives_moved h).keeps (·.reds) fun _ _ => rfl).trans hreds
  have hsame : { s1 with reds := [] } = s1 := by rw [← hreds1]
  refine ⟨fun hbad => ?_, fun hvalid hepoch => ?_⟩
  · rw [exec_redPacket h hw, State.applyRed_stale hl hbad]
  · obtain ⟨hkept, hdone⟩ := State.applyRed_first (s1 := s1) hl hvalid hepoch (by simp [hreds]) (by simp [hreds])
    rw [hreds1] at hkept hdone
    refine ⟨fun i hi hne hm hl0 => ?_, fun honly hl0 hroot hlen => ?_⟩
    · rw [exec_redPacket h hw, hkept ((red_missing_iff _ _ hl0).mpr ⟨i, hi, hne, hm⟩)]
      rfl
    · rw [exec_redPacket h hw, hdone (Bool.eq_false_iff.mpr fun hm => ?_) hroot hplay hlen]
      · exact congrArg (fun t : State => Host.Outcome.next (t.sendRed _ _ _ _ _ _)) hsame
      · obtain ⟨i, hi, hne, hm⟩ := (red_missing_iff _ _ hl0).mp hm
        exact hne (honly i hi hm)

end Sys2Proof.Machine
end

section
/-! Fences (R53): the chip that is fenced, its links and its held packets. -/
namespace Sys2Proof.Machine
open Sys2Proof

/-- What one of a list's steps brings about holds after them all, when no step undoes it. -/
theorem foldl_establishes {α : Type} {f : State → α → State} {Q : State → Prop} {l : List α} {a : α} (ha : a ∈ l) (hset : ∀ s, Q (f s a))
    (hkeep : ∀ s, ∀ b ∈ l, Q s → Q (f s b)) (s : State) : Q (l.foldl f s) := by
  obtain ⟨l1, l2, rfl⟩ := List.append_of_mem ha
  rw [List.foldl_append, List.foldl_cons]
  exact List.foldlRecOn _ _ (hset _) fun t ht b hb => hkeep t b (List.mem_append_right _ (List.mem_cons_of_mem _ hb)) ht

/-- At most inputs, links with their states, held packets and the report log have changed. -/
def State.Cut (s t : State) : Prop :=
  ∃ r o w i l h k, t = { s with regs := r, out := o, wakes := w, inq := i, links := l, harbour := h, holdTold := k } ∧
    ∀ off, ¬ inRlog off → (∀ n < 6, off ≠ offLinkStat n) → t.reg off = s.reg off

theorem State.Cut.refl (s : State) : s.Cut s := ⟨_, _, _, _, _, _, _, rfl, fun _ _ _ => rfl⟩

theorem State.Cut.trans {s t u : State} (h : s.Cut t) (k : t.Cut u) : s.Cut u := by
  obtain ⟨r, o, w, i, l, h, k', rfl, hr⟩ := h
  obtain ⟨r', o', w', i', l', h', k'', rfl, hr'⟩ := k
  exact ⟨r', o', w', i', l', h', k'', rfl, fun off hoff hn => (hr' off hoff hn).trans (hr off hoff hn)⟩

theorem State.Cut.keeps {s t : State} (h : s.Cut t) {α : Sort*} (f : State → α)
    (hf : ∀ r o w i l h k, f { s with regs := r, out := o, wakes := w, inq := i, links := l, harbour := h, holdTold := k } = f s) : f t = f s := by
  obtain ⟨r, o, w, i, l, h, k, rfl, -⟩ := h
  exact hf r o w i l h k

theorem State.Cut.reg {s t : State} (h : s.Cut t) {off : Nat} (hoff : ¬ inRlog off) (hn : ∀ n < 6, off ≠ offLinkStat n) : t.reg off = s.reg off := by
  obtain ⟨r, o, w, i, l, h, k, -, hr⟩ := h
  exact hr off hoff hn

theorem State.Cut.foldl {α : Type} {f : State → α → State} {l : List α} (hf : ∀ (s : State), ∀ a ∈ l, s.Cut (f s a)) (s : State) : s.Cut (l.foldl f s) :=
  List.foldlRecOn l f (.refl s) fun t ht a ha => ht.trans (hf t a ha)

theorem State.Moved.cut {s t : State} (h : s.Moved t) : s.Cut t := by
  obtain ⟨i, l, rfl⟩ := h
  exact ⟨_, _, _, i, l, _, _, rfl, fun _ _ _ => rfl⟩

theorem State.Reported.cut {s t : State} (h : s.Reported t) : s.Cut t := by
  obtain ⟨r, o, w, rfl, hr⟩ := h
  exact ⟨r, o, w, _, _, _, _, rfl, fun off hoff _ => hr off hoff⟩

theorem State.cut_setLinkStat (s : State) {n : Nat} (hn : n < 6) (lo w x : Nat) : s.Cut (s.setRegF (offLinkStat n) lo w x) :=
  ⟨_, _, _, _, _, _, _, rfl, fun _ _ hne => State.reg_setReg_ne (hne n hn)⟩

/-! ## A chip is fenced off -/

/-- A link to a fenced chip leaves service (R53). -/
def State.fenceLink (s : State) (n : Nat) : State := ((s.setRegF (offLinkStat n) 2 2 3).setLink n 3).dropHeld n 2

theorem State.cut_fenceLink (s : State) {n : Nat} (hn : n < 6) : s.Cut (s.fenceLink n) :=
  (s.cut_setLinkStat hn 2 2 3).trans ((State.cut_setLinkStat _ hn 0 2 3).trans ((State.reported_setLink ..).cut.trans
    (State.Cut.trans (State.Moved.cut ⟨_, _, rfl⟩) (State.routed_dropHeld ..).1.cut)))

theorem State.Moved.linkState {s t : State} (h : s.Moved t) (n : Nat) : t.linkState n = s.linkState n := h.keeps (·.linkState n) fun _ _ => rfl

theorem State.linkState_fenceLink (s : State) {n m : Nat} (hm : m < 6) : (s.fenceLink n).linkState m = if m = n then 3 else s.linkState m := by
  have hset := (s.setRegF (offLinkStat n) 2 2 3).reported_setLink n 3
  have hdrop := ((s.setRegF (offLinkStat n) 2 2 3).setLink n 3).routed_dropHeld n 2
  unfold State.fenceLink
  rw [hdrop.1.linkState, State.linkState_modLink, hset.linkState hm]
  split
  · rename_i h
    rw [h]
    exact State.linkState_setRegF ..
  · rename_i h
    rw [State.linkState_setRegF_ne _ h, State.linkState_setRegF_ne _ h]

theorem State.linksTo_lt {s : State} {c n : Nat} (h : n ∈ s.linksTo c) : n < 6 := List.mem_range.mp (List.mem_filter.mp h).1

theorem State.moved_dropFenced (s : State) (c n : Nat) : s.Moved (s.dropFenced c n) := by
  refine State.Moved.trans ⟨_, _, rfl⟩ (State.Routed.foldl (fun (s : State) (e : Nat × Packet) => ?_) _ _).1
  split
  · exact s.routed_route ..
  · exact .refl s

/-- What a fence takes from the harbours. -/
def State.clearHarbours (s : State) (c : Nat) : State :=
  (List.range 7).foldl (fun s port => s.setHarbour port ((s.harbourAt port).filter fun h => h.p.src != c)) s

theorem State.fenceChip_eq (s : State) (c : Nat) :
    ∃ s1, State.Moved { s with fences := s.fences ||| BitVec.ofNat 1024 1 <<< c } s1 ∧
      s.fenceChip c = if c = s.chip then (State.clearHarbours ((s.linksTo c).foldl State.fenceLink s1) c).report .chipFencedOff 0 4 0 c
        else State.clearHarbours ((s.linksTo c).foldl State.fenceLink s1) c := by
  have hm : State.Moved { s with fences := s.fences ||| BitVec.ofNat 1024 1 <<< c }
      ((List.range 6).foldl (fun s n => s.dropFenced c n) { s with fences := s.fences ||| BitVec.ofNat 1024 1 <<< c }) :=
    List.foldlRecOn _ _ (.refl _) fun t ht n _ => ht.trans (t.moved_dropFenced c n)
  refine ⟨_, hm, ?_⟩
  have hl : State.linksTo _ c = s.linksTo c := hm.keeps (·.linksTo c) fun _ _ => rfl
  rw [← hl]
  rfl

theorem State.cut_setHarbour (s : State) (port : Nat) (l : List Held) : s.Cut (s.setHarbour port l) :=
  ⟨_, _, _, _, _, _, _, rfl, fun _ _ _ => rfl⟩

theorem State.cut_clearHarbours (s : State) (c : Nat) : s.Cut (s.clearHarbours c) :=
  .foldl (fun s _ _ => s.cut_setHarbour ..) s

theorem State.cut_fenceLinks (s t : State) (c : Nat) : t.Cut ((s.linksTo c).foldl State.fenceLink t) :=
  .foldl (fun t _ hn => t.cut_fenceLink (State.linksTo_lt hn)) t

/-- A fence adds the chip, and cuts. -/
theorem State.cut_fenceChip (s : State) (c : Nat) : State.Cut { s with fences := s.fences ||| BitVec.ofNat 1024 1 <<< c } (s.fenceChip c) := by
  obtain ⟨s1, hm, he⟩ := s.fenceChip_eq c
  have h := hm.cut.trans ((s.cut_fenceLinks s1 c).trans (State.cut_clearHarbours _ c))
  rw [he]
  split
  · exact h.trans (State.reported_report ..).cut
  · exact h

theorem getLsbD_one_shiftLeft {c d : Nat} (hd : d < 1024) : (BitVec.ofNat 1024 1 <<< c).getLsbD d = decide (d = c) := by
  rw [BitVec.getLsbD_shiftLeft, decide_eq_true hd, Bool.true_and]
  by_cases h : d < c
  · rw [decide_eq_true h, decide_eq_false (by omega)]
    rfl
  · rw [decide_eq_false h, BitVec.getLsbD_one]
    simp
    omega

theorem State.fences_fenceChip (s : State) (c : Nat) {d : Nat} (hd : d < 1024) :
    (s.fenceChip c).fences.getLsbD d = (s.fences.getLsbD d || decide (d = c)) := by
  rw [(s.cut_fenceChip c).keeps (·.fences) fun _ _ _ _ _ _ _ => rfl]
  exact (BitVec.getLsbD_or ..).trans (by rw [getLsbD_one_shiftLeft hd])

theorem State.linkState_fenceChip {s : State} {c n : Nat} (hn : n ∈ s.linksTo c) : (s.fenceChip c).linkState n = 3 := by
  have hn6 := State.linksTo_lt hn
  obtain ⟨s1, -, he⟩ := s.fenceChip_eq c
  have hfold : ((s.linksTo c).foldl State.fenceLink s1).linkState n = 3 :=
    foldl_establishes (Q := fun t => t.linkState n = 3) hn (fun t => (t.linkState_fenceLink hn6).trans (if_pos rfl))
      (fun t m _ ht => (t.linkState_fenceLink hn6).trans (by rw [ht, ite_self])) s1
  have hclear (t : State) : (t.clearHarbours c).linkState n = t.linkState n :=
    List.foldlRecOn (motive := fun u : State => u.linkState n = t.linkState n) _ _ rfl fun _ hu _ _ => hu
  rw [he]
  split
  · exact ((State.reported_report ..).linkState hn6).trans ((hclear _).trans hfold)
  · exact (hclear _).trans hfold

theorem State.harbourAt_clearHarbours (s : State) {c port : Nat} (hp : port < 7) : ∀ h ∈ (s.clearHarbours c).harbourAt port, h.p.src ≠ c := by
  refine foldl_establishes (Q := fun t : State => ∀ h ∈ t.harbourAt port, h.p.src ≠ c) (List.mem_range.mpr hp) (fun t h hh => ?_)
    (fun t i _ ht h hh => ?_) s
  · rw [State.harbourAt_setHarbour, if_pos rfl] at hh
    exact bne_iff_ne.mp (List.mem_filter.mp hh).2
  · rw [State.harbourAt_setHarbour] at hh
    split at hh
    · exact bne_iff_ne.mp (List.mem_filter.mp hh).2
    · exact ht h hh

theorem State.harbourAt_fenceChip (s : State) {c port : Nat} (hp : port < 7) : ∀ h ∈ (s.fenceChip c).harbourAt port, h.p.src ≠ c := by
  obtain ⟨s1, -, he⟩ := s.fenceChip_eq c
  rw [he]
  split
  · rw [(State.reported_report ..).keeps (·.harbourAt port) fun _ _ _ => rfl]
    exact State.harbourAt_clearHarbours _ hp
  · exact State.harbourAt_clearHarbours _ hp

/-- A fence that is multicast (R53, R116). -/
theorem State.cut_multicastFence (s : State) (c : Nat) : State.Cut { s with fences := s.fences ||| BitVec.ofNat 1024 1 <<< c } (s.multicastFence c) := by
  have hsent := State.Routed.foldl (fun (s : State) d => s.routed_sendPlain d 0x12 3 (BitVec.ofNat 64 c) 0 []) (s.domain.filter (· != s.chip)) s
  obtain ⟨i, l, e⟩ := hsent.1
  have hcut := State.cut_fenceChip { s with inq := i, links := l } c
  unfold State.multicastFence
  rw [e]
  exact State.Cut.trans ⟨_, _, _, i, l, _, _, rfl, fun _ _ _ => rfl⟩ hcut

theorem State.fences_multicastFence (s : State) {c : Nat} (hc : c < 1024) : (s.multicastFence c).fences.getLsbD c = true := by
  rw [(s.cut_multicastFence c).keeps (·.fences) fun _ _ _ _ _ _ _ => rfl]
  exact (BitVec.getLsbD_or ..).trans (by rw [getLsbD_one_shiftLeft hc, decide_eq_true rfl, Bool.or_true])

/-! ## The packets (R53) -/

section
variable {s s1 : State} {port : Nat} {p : Packet}

theorem exec_fencePacket (h : arrives s port 0x12 p s1) : exec (.fencePacket port) s = .next (s1.fenceChip (fld p.word2 0 10)) :=
  State.takePacket_of_arrives h (fun q hq => hq) (by rw [(arrives_kind h).2.2]; rfl)

theorem exec_fencePacket_fences (h : arrives s port 0x12 p s1) : ∃ u, exec (.fencePacket port) s = .next u ∧
    (∀ c < 1024, u.fences.getLsbD c = (s.fences.getLsbD c || decide (c = fld p.word2 0 10))) ∧
    (∀ n ∈ s1.linksTo (fld p.word2 0 10), u.linkState n = 3) ∧
    ∀ port, ∀ h ∈ u.harbourAt port, port < 7 → h.p.src ≠ fld p.word2 0 10 := by
  refine ⟨_, exec_fencePacket h, fun c hc => ?_, fun n hn => State.linkState_fenceChip hn, fun port x hx hp => State.harbourAt_fenceChip _ hp x hx⟩
  rw [State.fences_fenceChip _ _ hc, (arrives_moved h).keeps (·.fences) fun _ _ => rfl]

theorem exec_fenceClrPacket (h : arrives s port 0x13 p s1) :
    (bit p.word2 10 = false → exec (.fenceClrPacket port) s = .next s1) ∧
    (bit p.word2 10 = true → ∃ u, exec (.fenceClrPacket port) s = .next u ∧
      ∀ c < 1024, u.fences.getLsbD c = (s.fences.getLsbD c && decide (c ≠ fld p.word2 0 10))) := by
  have hwant : (p.pop == 0x13) = true := by rw [(arrives_kind h).2.2]; rfl
  refine ⟨fun hb => (State.takePacket_of_arrives h (fun q hq => hq) hwant).trans ?_,
    fun hb => ⟨_, State.takePacket_of_arrives h (fun q hq => hq) hwant, fun c hc => ?_⟩⟩
  · dsimp only
    rw [hb]
    rfl
  · have hfold (t : State) (l : List Nat) :
        (l.foldl (fun s n => if s.linkState n = 3 then s.setRegF (offLinkStat n) 0 2 0 else s) t).fences = t.fences :=
      List.foldlRecOn (motive := fun u : State => u.fences = t.fences) l _ rfl fun u hu n _ => by
        split <;> exact hu
    dsimp only
    rw [if_neg (by rw [hb]; decide), hfold, (arrives_moved h).keeps (·.fences) fun _ _ => rfl]
    refine (BitVec.getLsbD_and ..).trans ?_
    rw [BitVec.getLsbD_not, getLsbD_one_shiftLeft hc, decide_eq_true hc, Bool.true_and, decide_not]

end

theorem fencePackets : FencePackets :=
  ⟨fun _ _ _ _ h => exec_fencePacket_fences h, fun _ _ _ _ h => exec_fenceClrPacket h⟩

theorem straitPackets : StraitPackets := ⟨packetRouting, pathDelivery, pathAnswers, causalTokens, reductionPackets, fencePackets⟩

end Sys2Proof.Machine
end

section
/-! Tables read through a map or a filter of their entries, bits of a field that was set, and words of memory. -/
namespace Sys2Proof.Machine
open Sys2Proof

/-- A table whose values a function changed, which leaves the default. -/
theorem tget_mapVal {α : Type} {d : α} {f : α → α} (hf : f d = d) (t : Tab α) (k : Nat) : tget d (t.map fun e => (e.1, f e.2)) k = f (tget d t k) := by
  induction t with
  | nil => exact hf.symm
  | cons e t ih =>
    obtain ⟨j, v⟩ := e
    rw [List.map_cons, tget, tget, ih]
    split <;> rfl

/-- A table of which some keys were dropped. -/
theorem tget_filterKey {α : Type} (d : α) (P : Nat → Bool) (t : Tab α) (k : Nat) :
    tget d (t.filter fun e => P e.1) k = if P k then tget d t k else d := by
  induction t with
  | nil => exact (ite_self d).symm
  | cons e t ih =>
    obtain ⟨j, v⟩ := e
    rw [List.filter_cons]
    by_cases hj : j = k
    · subst hj
      by_cases hP : P j = true
      · rw [if_pos hP, if_pos hP, tget, tget, if_pos rfl, if_pos rfl]
      · rw [if_neg hP, ih, if_neg hP, if_neg hP]
    · rw [show tget d ((j, v) :: t) k = tget d t k from if_neg hj, ← ih]
      split
      · exact if_neg hj
      · rfl

theorem fld_one {n : Nat} (v : BitVec n) (i : Nat) : fld v i 1 = (bit v i).toNat := by
  unfold fld bit
  rw [pow_one, Nat.shiftRight_eq_div_pow, ← BitVec.testBit_toNat, Nat.testBit_eq_decide_div_mod_eq]
  rcases Nat.mod_two_eq_zero_or_one (v.toNat / 2 ^ i) with h | h <;> rw [h] <;> rfl

/-- A bit that was set reads as what was set. -/
theorem bit_setFld {n : Nat} (v : BitVec n) {i : Nat} (x : Nat) (h : i < n) : bit (setFld v i 1 x) i = decide (x % 2 = 1) := by
  have hf := fld_setFld v (lo := i) (w := 1) x h
  rw [fld_one, pow_one] at hf
  rcases Nat.mod_two_eq_zero_or_one x with h0 | h1
  · rw [h0] at hf
    rw [h0, Bool.toNat_eq_zero.mp hf]
    rfl
  · rw [h1] at hf
    rw [h1, Bool.toNat_eq_one.mp hf]
    rfl

/-- A bit reads the same when a field that does not hold it is set. -/
theorem bit_setFld_disjoint {n : Nat} (v : BitVec n) {lo w i : Nat} (x : Nat) (h : lo + w ≤ i ∨ i + 1 ≤ lo) : bit (setFld v lo w x) i = bit v i := by
  have hf := fld_setFld_disjoint v (lo := lo) (w := w) (lo' := i) (w' := 1) x h
  rw [fld_one, fld_one] at hf
  exact (by decide : Function.Injective Bool.toNat) hf

theorem mword_mputw (m : Mem) (a : Nat) (v : Word) : mword (mputw m a v) a = v := by
  unfold mword mputw
  rw [mval_mwrites]
  exact BitVec.eq_of_toNat_eq (by rw [BitVec.toNat_ofNat]; omega)

end Sys2Proof.Machine
end

section
/-! Updates of translations on their tree (R114-R116), where a chip knows of one. -/
namespace Sys2Proof.Machine
open Sys2Proof

/-! ## The one update that a chip knows of -/

/-- The state in which an update is the only one. -/
def State.withUpdate (s : State) (u : Update) : State := { s with updates := [u] }

section
variable {s : State} {u z : Update}

/-- The state with another HBM. -/
def State.withHbm (s : State) (m : Mem) : State := { s with hbm := m }

theorem State.withHbm_withUpdate (s : State) (m : Mem) (u : Update) : (s.withHbm m).withUpdate u = (s.withUpdate u).withHbm m := rfl

theorem State.withUpdate_self (h : s.updates = [u]) : s.withUpdate u = s := by
  unfold State.withUpdate
  rw [← h]

theorem State.setUpdate_single (h : s.updates = [u]) (hz : u.id = z.id) : s.setUpdate z = s.withUpdate z := by
  unfold State.setUpdate State.withUpdate
  rw [h]
  simp [hz]

theorem State.updates_dropUpdate_single (h : s.updates = [z]) : (s.dropUpdate z).updates = [] := by
  unfold State.dropUpdate
  rw [h]
  simp

theorem State.updates_endUpdate_single (h : s.updates = [z]) : (s.endUpdate z).updates = [] := State.updates_dropUpdate_single h

theorem State.find_single (h : s.updates = [u]) : s.updates.find? (fun x => x.id == u.id) = some u := by
  rw [h, List.find?_singleton, if_pos (beq_self_eq_true _)]

theorem State.applyUpdate_applied (h : u.applied.isSome = true) : s.applyUpdate u = s := by
  unfold State.applyUpdate
  rw [if_pos (by rw [h]; rfl)]

/-- An update that a chip has acknowledged. -/
def Update.ackedBy (u : Update) (chip : Nat) : Update := { u with acked := true, got := u.got ||| BitVec.ofNat 1024 1 <<< chip }

/-- The update after a chip has acknowledged it where it may. -/
def Update.afterAck (u : Update) (may : Bool) (chip : Nat) : Update := if !u.acked && may then u.ackedBy chip else u

theorem Update.id_afterAck (u : Update) (may : Bool) (chip : Nat) : (u.afterAck may chip).id = u.id := by
  unfold Update.afterAck
  split <;> rfl

theorem Update.root_afterAck (u : Update) (may : Bool) (chip : Nat) : (u.afterAck may chip).root = u.root := by
  unfold Update.afterAck
  split <;> rfl

theorem Update.afterAck_of_acked (h : u.acked = true) (may : Bool) (chip : Nat) : u.afterAck may chip = u :=
  if_neg (by rw [h]; exact Bool.false_ne_true)

theorem Update.afterAck_of_not (u : Update) (chip : Nat) : u.afterAck false chip = u :=
  if_neg (by rw [Bool.and_false]; decide)

theorem Update.afterAck_of_may (h : u.acked = false) (chip : Nat) : u.afterAck true chip = u.ackedBy chip :=
  if_pos (by rw [h]; rfl)

/-- An update's moves once this chip has applied it: u1 is what it became. -/
theorem State.updateGo_single {s1 : State} {u1 : Update} (h : s.updates = [u]) (ha : s.applyUpdate u = s1) (h1 : s1.updates = [u1]) (hid : u1.id = u.id) :
    s.updateGo u.id =
      let v := u1.afterAck (s1.mayAck u1) s.chip
      let s2 := s1.withUpdate v
      if v.root then (if (s2.missing v).all (fun c => v.stage == 2 && s2.fences.getLsbD c) then s2.endUpdate v else s2)
      else if v.acked && (s2.answerUp v).treeDone v then (s2.answerUp v).dropUpdate v else s2.answerUp v := by
  have hfind : s1.updates.find? (fun x => x.id == u.id) = some u1 := by
    rw [← hid]
    exact State.find_single h1
  unfold State.updateGo
  rw [State.find_single h]
  dsimp only
  rw [ha, hfind]
  dsimp only
  have hset : s1.setUpdate (u1.afterAck (s1.mayAck u1) s.chip) = s1.withUpdate (u1.afterAck (s1.mayAck u1) s.chip) :=
    State.setUpdate_single h1 (Update.id_afterAck ..).symm
  rw [← hset]
  rfl

/-- At its root, an update that everyone has acknowledged ends. -/
theorem State.updateGo_root (h : s.updates = [u]) (happ : u.applied.isSome = true) (hroot : u.root = true) :
    s.updateGo u.id =
      let v := u.afterAck (s.mayAck u) s.chip
      let s2 := s.withUpdate v
      if (s2.missing v).all (fun c => v.stage == 2 && s2.fences.getLsbD c) then s2.endUpdate v else s2 := by
  rw [State.updateGo_single h (State.applyUpdate_applied happ) h rfl]
  exact if_pos ((Update.root_afterAck ..).trans hroot)

theorem State.missing_eq_nil_iff : s.missing u = [] ↔ ∀ c ∈ s.ranked u.ctx u.origin, u.got.getLsbD c = true := by
  unfold State.missing
  rw [List.filter_eq_nil_iff]
  simp

/-- Before the root has reported, it waits for every member. -/
theorem State.waits_of_missing {c : Nat} (hstage : u.stage = 0) (hc : c ∈ s.ranked u.ctx u.origin) (hg : u.got.getLsbD c = false) :
    ¬ ((s.missing u).all fun c => u.stage == 2 && s.fences.getLsbD c) = true := by
  have hmem : c ∈ s.missing u := List.mem_filter.mpr ⟨hc, by rw [hg]; rfl⟩
  intro hall
  have := List.all_eq_true.mp hall c hmem
  rw [hstage] at this
  exact Bool.false_ne_true this

/-- The root's answer: with all maps together it ends, and else it waits. -/
theorem State.updateGo_root_acked (h : s.updates = [u]) (happ : u.applied.isSome = true) (hroot : u.root = true) (hack : u.acked = true)
    (hstage : u.stage = 0) :
    ((∀ c ∈ s.ranked u.ctx u.origin, u.got.getLsbD c = true) → (s.updateGo u.id).updates = []) ∧
    ((∃ c ∈ s.ranked u.ctx u.origin, u.got.getLsbD c = false) → s.updateGo u.id = s) := by
  rw [State.updateGo_root h happ hroot, Update.afterAck_of_acked hack]
  dsimp only
  rw [State.withUpdate_self h]
  refine ⟨fun hall => ?_, fun ⟨c, hc, hg⟩ => if_neg (State.waits_of_missing hstage hc hg)⟩
  rw [State.missing_eq_nil_iff.mpr hall]
  exact State.updates_endUpdate_single h

end

/-! ## Messages of the tree -/

theorem State.routed_sendSdown (s : State) (u : Update) (dst : Nat) (direct : Bool) : s.Routed (s.sendSdown u dst direct) := by
  unfold State.sendSdown
  split
  · exact .refl s
  · exact s.routed_sendPlain ..

theorem State.routed_sendSdack (s : State) (u : Update) : s.Routed (s.sendSdack u) := by
  unfold State.sendSdack
  split
  · exact .refl s
  · exact s.routed_sendPlain ..

/-- A node with no child sends nothing down. -/
theorem State.sendDown_leaf {s : State} {u : Update} (h : treeChildren (s.ranked u.ctx u.origin).length u.rank = []) :
    s.sendDown u = s.setUpdate { u with waits := [] } := by
  unfold State.sendDown
  dsimp only
  rw [h]
  rfl

/-- A leaf's subtree is the leaf. -/
theorem subtree_leaf {n r : Nat} (h : treeChildren n r = []) (f : Nat) : subtree n f r = [r] := by
  cases f with
  | zero => rfl
  | succ f =>
    rw [subtree, h]
    rfl

/-- At a leaf, nothing more can come once this chip has acknowledged. -/
theorem State.treeDone_leaf {s : State} {u : Update} (hleaf : treeChildren (s.ranked u.ctx u.origin).length u.rank = [])
    (hrank : u.rank = (s.ranked u.ctx u.origin).idxOf s.chip) (hgot : u.got.getLsbD s.chip = true) : s.treeDone u = true := by
  unfold State.treeDone
  dsimp only
  rw [subtree_leaf hleaf, List.all_cons, List.all_nil, Bool.and_true, Option.all_eq_true]
  intro c hc
  obtain ⟨hlt, rfl⟩ := List.getElem?_eq_some_iff.mp hc
  simp only [hrank, List.getElem_idxOf]
  exact hgot

theorem State.treeDone_withUpdate (s : State) (v u : Update) : (s.withUpdate v).treeDone u = s.treeDone u := rfl

/-- An update whose map the parent has been sent. -/
def Update.toldUp (u : Update) : Update := { u with answered := true, told := u.got }

/-- A node whose children have all answered, and that has not, answers its parent and marks what it told. -/
theorem State.answerUp_first {s : State} {u : Update} (ha : u.answered = false) (hw : u.waits = []) :
    s.answerUp u = (s.sendSdack u).setUpdate u.toldUp := by
  unfold State.answerUp
  rw [if_neg (by simp [ha, hw])]
  rfl

/-! ## SDOWN at a member (R115) -/

/-- The update that an SDOWN packet starts at a member. -/
def State.sdownUpdate (s : State) (p : Packet) : Update :=
  { id := s.nextId, origin := fld p.word2 50 10, ident := leNat (p.data.take 8), ctx := fld p.word2 40 6
    va := BitVec.ofNat 64 (fld p.word2 0 40 * 65536), kind := fld p.word2 46 2, level := fld p.word2 48 2, entry := p.word3, root := false
    parent := p.src, rank := (s.ranked (fld p.word2 40 6) (fld p.word2 50 10)).idxOf s.chip, got := 0, waits := [], applied := none, old := 0
    acked := false, answered := false, told := 0, stage := 0, since := s.ccc }

/-- The state of a member that knew of no update and takes up the packet's. -/
def State.joined (s : State) (p : Packet) : State := State.withUpdate { s with nextId := s.nextId + 1 } (s.sdownUpdate p)

theorem State.sdownUpdate_waits (s : State) (p : Packet) : ({ s.sdownUpdate p with waits := [] } : Update) = s.sdownUpdate p := by
  dsimp only [State.sdownUpdate]

theorem State.ranked_joined (s : State) (p : Packet) (c root : Nat) : (s.joined p).ranked c root = s.ranked c root := rfl

theorem State.leaf_joined {s : State} {p : Packet} (hleaf : treeChildren (s.ranked (fld p.word2 40 6) (fld p.word2 50 10)).length
      ((s.ranked (fld p.word2 40 6) (fld p.word2 50 10)).idxOf s.chip) = []) :
    treeChildren ((s.joined p).ranked (s.sdownUpdate p).ctx (s.sdownUpdate p).origin).length (s.sdownUpdate p).rank = [] := by
  rw [State.ranked_joined]
  dsimp only [State.sdownUpdate]
  exact hleaf

/-- A member that is a leaf and knows of no update takes up the packet's. -/
theorem State.applySdown_leaf {s : State} {p : Packet} (hrec : s.recordPacket (fld p.word2 40 6) p = s) (hnone : s.updates = [])
    (hleaf : treeChildren (s.ranked (fld p.word2 40 6) (fld p.word2 50 10)).length
      ((s.ranked (fld p.word2 40 6) (fld p.word2 50 10)).idxOf s.chip) = []) :
    s.applySdown p = (s.joined p).updateGo (s.sdownUpdate p).id := by
  have hdown : (s.joined p).sendDown (s.sdownUpdate p) = s.joined p := by
    rw [State.sendDown_leaf (State.leaf_joined hleaf), State.sdownUpdate_waits]
    exact State.setUpdate_single (u := s.sdownUpdate p) rfl rfl
  unfold State.applySdown
  dsimp only
  rw [hrec, hnone]
  dsimp only [List.find?_nil, List.nil_append]
  split
  · rfl
  · exact congrArg (fun t : State => t.updateGo s.nextId) hdown

/-- A member's leaf ends its part once it has applied the update and may acknowledge at once. -/
theorem State.updateGo_leaf {s s1 : State} {u u1 : Update} (h : s.updates = [u]) (ha : s.applyUpdate u = s1) (h1 : s1.updates = [u1]) (hid : u1.id = u.id)
    (hchip : s1.chip = s.chip) (hroot : u1.root = false) (hack : u1.acked = false) (hans : u1.answered = false) (hwaits : u1.waits = [])
    (hmay : s1.mayAck u1 = true) (hleaf : treeChildren (s1.ranked u1.ctx u1.origin).length u1.rank = [])
    (hrank : u1.rank = (s1.ranked u1.ctx u1.origin).idxOf s1.chip) :
    (s.updateGo u.id).updates = [] ∧ (s.updateGo u.id).hbm = s1.hbm ∧ (s.updateGo u.id).tiles = s1.tiles := by
  rw [State.updateGo_single h ha h1 hid, hmay, Update.afterAck_of_may hack, ← hchip]
  dsimp only
  have hup : (s1.withUpdate (u1.ackedBy s1.chip)).answerUp (u1.ackedBy s1.chip) = _ := State.answerUp_first hans hwaits
  have hm := ((s1.withUpdate (u1.ackedBy s1.chip)).routed_sendSdack (u1.ackedBy s1.chip)).1
  have hset := State.setUpdate_single (u := u1.ackedBy s1.chip) (z := (u1.ackedBy s1.chip).toldUp) (hm.keeps (·.updates) fun _ _ => rfl) rfl
  have hgot : (u1.got ||| BitVec.ofNat 1024 1 <<< s1.chip).getLsbD s1.chip = true := by
    rw [BitVec.getLsbD_or, getLsbD_one_shiftLeft s1.chip_lt, decide_eq_true rfl, Bool.or_true]
  have hdone := (hm.keeps (fun t : State => t.treeDone (u1.ackedBy s1.chip)) fun _ _ => rfl).trans
    ((s1.treeDone_withUpdate ..).trans (State.treeDone_leaf (u := u1.ackedBy s1.chip) hleaf hrank hgot))
  rw [if_neg (by rw [show (u1.ackedBy s1.chip).root = false from hroot]; decide), hup, hset, if_pos]
  · exact ⟨State.updates_dropUpdate_single (z := (u1.ackedBy s1.chip).toldUp) rfl, hm.keeps (·.hbm) fun _ _ => rfl, hm.keeps (·.tiles) fun _ _ => rfl⟩
  · exact Bool.and_eq_true_iff.mpr ⟨rfl, hdone⟩

/-- An update that this chip has applied. -/
def Update.appliedAt (u : Update) (cycle : Word) (old : Nat) : Update := { u with applied := some cycle, old := old }

/-- The frame that a page has, zero where no entry is reached. -/
def State.pageFrame (s : State) (c : Nat) (va : Word) : Nat :=
  match s.entryPa c va 0 with
  | some pa => pteFrame (mword s.hbm pa)
  | none => 0

/-- The first step of applying the one update: when and to which frame it was. -/
theorem State.setUpdate_appliedAt {s : State} {u : Update} (h : s.updates = [u]) :
    s.setUpdate (u.appliedAt s.ccc (s.pageFrame u.ctx u.va)) = s.withUpdate (u.appliedAt s.ccc (s.pageFrame u.ctx u.va)) := State.setUpdate_single h rfl

/-- MAP's entry is written where the walk leads (R437). -/
theorem State.applyUpdate_map {s : State} {u : Update} {pa : Nat} (h : s.updates = [u]) (happ : u.applied = none) (hkind : u.kind = 1)
    (hpa : s.entryPa u.ctx u.va u.level = some pa) :
    s.applyUpdate u = (s.withHbm (mputw s.hbm pa u.entry)).withUpdate (u.appliedAt s.ccc (s.pageFrame u.ctx u.va)) := by
  rw [State.withHbm_withUpdate, ← State.setUpdate_appliedAt h]
  unfold State.applyUpdate
  rw [if_neg (by simp [happ, hkind])]
  cases u
  dsimp only at hkind hpa ⊢
  subst hkind
  rw [if_neg (by simp), if_pos rfl, hpa]
  rfl

/-- SDOWN drops the page's TLB entries, whatever the mode (R439). -/
theorem State.applyUpdate_sdown {s : State} {u : Update} (h : s.updates = [u]) (happ : u.applied = none) (hkind : u.kind = 2) :
    s.applyUpdate u = (s.withUpdate (u.appliedAt s.ccc (s.pageFrame u.ctx u.va))).dropTlb u.ctx u.va := by
  unfold State.applyUpdate
  rw [if_neg (by simp [happ, hkind]), ← State.setUpdate_appliedAt h]
  cases u
  dsimp only at hkind ⊢
  subst hkind
  rw [if_pos (by simp [State.shoots])]
  rfl

theorem State.frameBusy_dropTlbs (s : State) (gone : TlbEntry → Bool) (frame : Nat) : (s.dropTlbs gone).frameBusy frame = s.frameBusy frame := by
  unfold State.frameBusy State.dropTlbs
  dsimp only
  rw [List.any_map]
  rfl

theorem State.tlb_dropTlbs (s : State) (gone : TlbEntry → Bool) (t : Nat) :
    ((s.dropTlbs gone).tile t).tlb = (s.tile t).tlb.filter fun x => !gone x :=
  congrArg Tile.tlb (tget_mapVal (d := Tile.idle) (f := fun x : Tile => { x with tlb := x.tlb.filter fun x => !gone x }) rfl s.tiles t)

/-- The page number of a page's address. -/
theorem fld_page {n : Nat} (h : n < 2 ^ 40) : fld (BitVec.ofNat 64 (n * 65536)) 16 40 = n := by
  unfold fld
  rw [BitVec.toNat_ofNat, Nat.shiftRight_eq_div_pow]
  omega

section
variable {s s1 : State} {port : Nat} {p : Packet}

theorem exec_sdownPacket (h : arrives s port 0x11 p s1) (hw : s.mustWait (fld p.word2 40 6) p = false) :
    exec (.sdownPacket port) s = .next (s1.applySdown p) :=
  State.takePacket_of_arrives h (fun _ hq => (Bool.and_eq_true_iff.mp hq).1) (by rw [(arrives_kind h).2.2, hw]; rfl)

theorem exec_sdownPacket_map {pa : Nat} (h : arrives s port 0x11 p s1) (hw : s.mustWait (fld p.word2 40 6) p = false)
    (hrec : s1.recordPacket (fld p.word2 40 6) p = s1) (hnone : s1.updates = [])
    (hleaf : treeChildren (s1.ranked (fld p.word2 40 6) (fld p.word2 50 10)).length
      ((s1.ranked (fld p.word2 40 6) (fld p.word2 50 10)).idxOf s1.chip) = [])
    (hkind : fld p.word2 46 2 = 1)
    (hpa : s1.entryPa (fld p.word2 40 6) (BitVec.ofNat 64 (fld p.word2 0 40 * 65536)) (fld p.word2 48 2) = some pa) :
    ∃ u, exec (.sdownPacket port) s = .next u ∧ u.updates = [] ∧ u.hbm = mputw s.hbm pa p.word3 := by
  have ha : (s1.joined p).applyUpdate (s1.sdownUpdate p) = _ := State.applyUpdate_map rfl rfl hkind hpa
  generalize hv : (s1.sdownUpdate p).appliedAt (s1.joined p).ccc ((s1.joined p).pageFrame (s1.sdownUpdate p).ctx (s1.sdownUpdate p).va) = v at ha
  have hmay : (((s1.joined p).withHbm (mputw (s1.joined p).hbm pa (s1.sdownUpdate p).entry)).withUpdate v).mayAck v = true := by
    have hk : v.kind = 1 := by rw [← hv]; exact hkind
    have happ : v.applied = some (s1.joined p).ccc := by rw [← hv]; rfl
    unfold State.mayAck
    rw [happ, hk]
    rfl
  obtain ⟨hu, hh, -⟩ := State.updateGo_leaf rfl ha rfl (by rw [← hv]; rfl) rfl (by rw [← hv]; rfl) (by rw [← hv]; rfl) (by rw [← hv]; rfl)
    (by rw [← hv]; rfl) hmay (by rw [← hv]; dsimp only [Update.appliedAt]; exact State.leaf_joined hleaf)
    (by rw [← hv]; dsimp only [Update.appliedAt, State.sdownUpdate]; rfl)
  refine ⟨_, exec_sdownPacket h hw, ?_, ?_⟩
  · rw [State.applySdown_leaf hrec hnone hleaf]
    exact hu
  · rw [State.applySdown_leaf hrec hnone hleaf, ← (arrives_moved h).keeps (·.hbm) fun _ _ => rfl]
    exact hh

theorem exec_sdownPacket_sdown (h : arrives s port 0x11 p s1) (hw : s.mustWait (fld p.word2 40 6) p = false)
    (hrec : s1.recordPacket (fld p.word2 40 6) p = s1) (hnone : s1.updates = [])
    (hleaf : treeChildren (s1.ranked (fld p.word2 40 6) (fld p.word2 50 10)).length
      ((s1.ranked (fld p.word2 40 6) (fld p.word2 50 10)).idxOf s1.chip) = [])
    (hkind : fld p.word2 46 2 = 2)
    (hbusy : s1.frameBusy (s1.pageFrame (fld p.word2 40 6) (BitVec.ofNat 64 (fld p.word2 0 40 * 65536))) = false) :
    ∃ u, exec (.sdownPacket port) s = .next u ∧ u.updates = [] ∧ u.hbm = s.hbm ∧
      ∀ t, ∀ e ∈ (u.tile t).tlb, ¬(e.ctx = fld p.word2 40 6 ∧ e.vpn = fld p.word2 0 40) := by
  have ha : (s1.joined p).applyUpdate (s1.sdownUpdate p) = _ := State.applyUpdate_sdown rfl rfl hkind
  generalize hv : (s1.sdownUpdate p).appliedAt (s1.joined p).ccc ((s1.joined p).pageFrame (s1.sdownUpdate p).ctx (s1.sdownUpdate p).va) = v at ha
  have hmay : (((s1.joined p).withUpdate v).dropTlb (s1.sdownUpdate p).ctx (s1.sdownUpdate p).va).mayAck v = true := by
    have hk : v.kind = 2 := by rw [← hv]; exact hkind
    have happ : v.applied = some (s1.joined p).ccc := by rw [← hv]; rfl
    have hold : v.old = s1.pageFrame (fld p.word2 40 6) (BitVec.ofNat 64 (fld p.word2 0 40 * 65536)) := by rw [← hv]; rfl
    have hb : (((s1.joined p).withUpdate v).dropTlb (s1.sdownUpdate p).ctx (s1.sdownUpdate p).va).frameBusy v.old = false := by
      rw [hold]
      exact (State.frameBusy_dropTlbs ..).trans hbusy
    unfold State.mayAck
    rw [happ]
    simp [hb, State.shoots, hk]
  obtain ⟨hu, hh, htile⟩ := State.updateGo_leaf rfl ha rfl (by rw [← hv]; rfl) rfl (by rw [← hv]; rfl) (by rw [← hv]; rfl) (by rw [← hv]; rfl)
    (by rw [← hv]; rfl) hmay (by rw [← hv]; dsimp only [Update.appliedAt]; exact State.leaf_joined hleaf)
    (by rw [← hv]; dsimp only [Update.appliedAt, State.sdownUpdate]; rfl)
  refine ⟨_, exec_sdownPacket h hw, ?_, ?_, fun i e he => ?_⟩
  · rw [State.applySdown_leaf hrec hnone hleaf]
    exact hu
  · rw [State.applySdown_leaf hrec hnone hleaf, ← (arrives_moved h).keeps (·.hbm) fun _ _ => rfl]
    exact hh
  · have htl : ((s1.applySdown p).tile i).tlb = ((((s1.joined p).withUpdate v).dropTlb (s1.sdownUpdate p).ctx (s1.sdownUpdate p).va).tile i).tlb := by
      rw [State.applySdown_leaf hrec hnone hleaf]
      exact congrArg (fun x : Tab Tile => (tget Tile.idle x i).tlb) htile
    rw [htl] at he
    have hgone := (List.mem_filter.mp ((State.tlb_dropTlbs ..) ▸ he)).2
    rintro ⟨hc, hp⟩
    have hva : fld (s1.sdownUpdate p).va 16 40 = fld p.word2 0 40 := fld_page (Nat.mod_lt _ (by decide))
    rw [hva, hc, hp] at hgone
    simp [State.sdownUpdate] at hgone

end

end Sys2Proof.Machine
end

section
/-! Answers to updates of translations, and what a node, a root and a member do when a time has come (R114-R116). -/
namespace Sys2Proof.Machine
open Sys2Proof

section
variable {s s1 : State} {u : Update} {port : Nat} {p : Packet}

theorem State.Recorded.ranked {c : Nat} {t : State} (h : State.Recorded c s t) (x root : Nat) : t.ranked x root = s.ranked x root := by
  have hcx (i : Nat) (hi : i < 16) : t.cx x (cMEMBERS i) = s.cx x (cMEMBERS i) := h.reg (by simp only [offCtx, cMEMBERS, cREPLAY]; omega)
  have hm : t.members x = s.members x := List.filter_congr fun k hk => by
    unfold State.isMember
    rw [hcx _ (by have := List.mem_range.mp hk; omega)]
  unfold State.ranked
  rw [hm]

/-! ## SDACK (R115) -/

/-- The update after an answer was merged into it. -/
def Update.merged (u : Update) (p : Packet) : Update :=
  { u with got := u.got ||| BitVec.ofNat 1024 (leNat ((p.data.drop 8).take 128)), waits := u.waits.filter (· != p.src) }

theorem State.applySdack_single (h : s.updates = [u]) (ho : u.origin = fld p.word2 0 10) (hi : u.ident = leNat (p.data.take 8)) :
    s.applySdack p = ((s.recordPacket u.ctx p).withUpdate (u.merged p)).updateGo (u.merged p).id := by
  have hfind : s.updates.find? (fun x => x.origin == fld p.word2 0 10 && x.ident == leNat (p.data.take 8)) = some u := by
    rw [h, List.find?_singleton, if_pos (by rw [ho, hi, beq_self_eq_true, beq_self_eq_true]; rfl)]
  have hset : (s.recordPacket u.ctx p).setUpdate (u.merged p) = (s.recordPacket u.ctx p).withUpdate (u.merged p) :=
    State.setUpdate_single (((s.recorded_recordPacket ..).keeps (·.updates) fun _ _ _ => rfl).trans h) rfl
  unfold State.applySdack
  dsimp only
  rw [hfind, ← hset]
  rfl

/-- An answer at the root, which has applied and acknowledged the update: all maps together end it, and else the root waits. -/
theorem State.applySdack_root (h : s.updates = [u]) (ho : u.origin = fld p.word2 0 10) (hi : u.ident = leNat (p.data.take 8)) (hroot : u.root = true)
    (happ : u.applied.isSome = true) (hack : u.acked = true) (hstage : u.stage = 0) :
    ((∀ c ∈ s.ranked u.ctx u.origin, (u.merged p).got.getLsbD c = true) → (s.applySdack p).updates = []) ∧
    ((∃ c ∈ s.ranked u.ctx u.origin, (u.merged p).got.getLsbD c = false) →
      s.applySdack p = (s.recordPacket u.ctx p).withUpdate (u.merged p)) := by
  have hr : ((s.recordPacket u.ctx p).withUpdate (u.merged p)).ranked (u.merged p).ctx (u.merged p).origin = s.ranked u.ctx u.origin :=
    (s.recorded_recordPacket ..).ranked ..
  obtain ⟨hend, hwait⟩ := State.updateGo_root_acked (s := (s.recordPacket u.ctx p).withUpdate (u.merged p)) (u := u.merged p) rfl happ hroot hack hstage
  rw [State.applySdack_single h ho hi]
  rw [hr] at hend hwait
  exact ⟨hend, hwait⟩

theorem exec_sdackPacket (h : arrives s port 0xA p s1) : exec (.sdackPacket port) s = .next (s1.applySdack p) :=
  State.takePacket_of_arrives h (fun q hq => hq) (by rw [(arrives_kind h).2.2]; rfl)

/-! ## Times (R114-R116) -/

/-- A node that waits for no child any more, has acknowledged, and misses chips of its subtree answers and goes on. -/
theorem State.updateGo_node (h : s.updates = [u]) (happ : u.applied.isSome = true) (hack : u.acked = true) (hroot : u.root = false)
    (hans : u.answered = false) (hwaits : u.waits = []) (hdone : s.treeDone u = false) : s.updateGo u.id = (s.sendSdack u).setUpdate u.toldUp := by
  have hm := (s.routed_sendSdack u).1
  have hset : (s.sendSdack u).setUpdate u.toldUp = (s.sendSdack u).withUpdate u.toldUp :=
    State.setUpdate_single ((hm.keeps (·.updates) fun _ _ => rfl).trans h) rfl
  have hlive : ((s.sendSdack u).withUpdate u.toldUp).treeDone u = false := (hm.keeps (·.treeDone u) fun _ _ => rfl).trans hdone
  rw [State.updateGo_single h (State.applyUpdate_applied happ) h rfl, Update.afterAck_of_acked hack]
  dsimp only
  rw [State.withUpdate_self h, if_neg (by rw [hroot]; decide), State.answerUp_first hans hwaits, hset, hlive, Bool.and_false, if_neg Bool.false_ne_true]

theorem exec_sdownNodeTimeout (h : s.updates = [u]) (happ : u.applied.isSome = true) (hack : u.acked = true) (hroot : u.root = false)
    (hans : u.answered = false) (hh : treeHeight (s.ranked u.ctx u.origin).length 10 u.rank ≠ 0)
    (hdue : 940 * 4 * treeHeight (s.ranked u.ctx u.origin).length 10 u.rank ≤ (s.ccc - u.since).toNat) (hdone : s.treeDone u = false) :
    exec (.sdownNodeTimeout u.id) s =
      .next (((s.setUpdate { u with waits := [] }).sendSdack { u with waits := [] }).setUpdate { u with waits := [], answered := true, told := u.got }) := by
  have hset : s.setUpdate { u with waits := [] } = s.withUpdate { u with waits := [] } := State.setUpdate_single h rfl
  have hgo := State.updateGo_node (s := s.withUpdate { u with waits := [] }) rfl happ hack hroot hans rfl hdone
  change execSdownNodeTimeout u.id s = _
  unfold execSdownNodeTimeout
  rw [State.find_single h]
  dsimp only
  rw [if_neg (by simp only [hroot, hans, Bool.false_or, Bool.or_eq_true, decide_eq_true_eq]; omega), hset]
  exact congrArg Host.Outcome.next hgo

theorem exec_shootdownRootTimeout_first (h : s.updates = [u]) (hroot : u.root = true)
    (hdue : 940 * max 1 (s.regF offXlatCtl 1 10) ≤ (s.ccc - u.since).toNat) (hstage : u.stage = 0) :
    ∃ v, exec (.shootdownRootTimeout u.id) s = .next v ∧ v.updates = [{ u with stage := 1, since := s.ccc }] := by
  have hset : s.setUpdate { u with stage := 1, since := s.ccc } = s.withUpdate { u with stage := 1, since := s.ccc } := State.setUpdate_single h rfl
  refine ⟨((s.missing u).filter (· != s.chip)).foldl (fun s c => s.sendSdown u c true) (s.withUpdate { u with stage := 1, since := s.ccc }), ?_, ?_⟩
  · change execShootdownRootTimeout u.id s = _
    unfold execShootdownRootTimeout
    rw [State.find_single h]
    dsimp only
    rw [if_neg (by simp only [hroot, hstage, Bool.not_true, Bool.false_or, Bool.or_eq_true, decide_eq_true_eq]; omega), if_pos hstage, hset]
  · exact (State.Routed.foldl (fun (s : State) c => s.routed_sendSdown u c true) _ _).1.keeps (·.updates) fun _ _ => rfl

theorem State.fences_updateGo_root (h : s.updates = [u]) (happ : u.applied.isSome = true) (hroot : u.root = true) :
    (s.updateGo u.id).fences = s.fences := by
  rw [State.updateGo_root h happ hroot]
  dsimp only
  split
  · rfl
  · rfl

theorem exec_shootdownRootTimeout_fence {c : Nat} (h : s.updates = [u]) (hroot : u.root = true)
    (hdue : 940 * max 1 (s.regF offXlatCtl 1 10) ≤ (s.ccc - u.since).toNat) (hstage : u.stage = 1) (hmiss : s.missing u = [c]) (hne : c ≠ s.chip)
    (hc : c < 1024) (happ : u.applied.isSome = true) (hshoot : bit (s.reg offXlatCtl) 0 = true) :
    ∃ v, exec (.shootdownRootTimeout u.id) s = .next v ∧ v.fences.getLsbD c = true := by
  have hset : s.setUpdate { u with stage := 2 } = s.withUpdate { u with stage := 2 } := State.setUpdate_single h rfl
  have hfilter : [c].filter (· != s.chip) = [c] := List.filter_cons_of_pos (bne_iff_ne.mpr hne)
  refine ⟨(((s.withUpdate { u with stage := 2 }).report .shootdownTimeout u.ctx 9 0 c).multicastFence c).updateGo u.id, ?_, ?_⟩
  · change execShootdownRootTimeout u.id s = _
    unfold execShootdownRootTimeout
    rw [State.find_single h]
    dsimp only
    rw [if_neg (by simp only [hroot, hstage, Bool.not_true, Bool.false_or, Bool.or_eq_true, decide_eq_true_eq]; omega), if_neg (by rw [hstage]; decide),
      if_pos (by simp [State.shoots, hshoot]), hmiss, hfilter, hset]
    rfl
  · have hu : ((((s.withUpdate { u with stage := 2 }).report .shootdownTimeout u.ctx 9 0 c).multicastFence c).updates) = [{ u with stage := 2 }] :=
      ((State.cut_multicastFence ..).keeps (·.updates) fun _ _ _ _ _ _ _ => rfl).trans ((State.reported_report ..).keeps (·.updates) fun _ _ _ => rfl)
    rw [State.fences_updateGo_root (u := { u with stage := 2 }) hu happ hroot]
    exact State.fences_multicastFence _ hc

/-- An unmap's wait for the leases in lease mode (R114). -/
theorem State.mayAck_lease {c : Word} (hkind : u.kind = 0) (happ : u.applied = some c) (hbusy : s.frameBusy u.old = false)
    (hmode : bit (s.reg offXlatCtl) 0 = false) : s.mayAck u = decide (940 * (s.cxF u.ctx cLEASE 0 11 + 1) ≤ (s.ccc - c).toNat) := by
  unfold State.mayAck
  rw [happ]
  simp [State.shoots, hkind, hbusy, hmode]

theorem exec_leaseWaitExpiry_over {c : Word} (h : s.updates = [u]) (hkind : u.kind = 0) (hroot : u.root = true) (happ : u.applied = some c)
    (hack : u.acked = false) (hbusy : s.frameBusy u.old = false) (hmode : bit (s.reg offXlatCtl) 0 = false)
    (hgot : ∀ d ∈ s.ranked u.ctx u.origin, u.got.getLsbD d = true ∨ d = s.chip)
    (hover : 940 * (s.cxF u.ctx cLEASE 0 11 + 1) ≤ (s.ccc - c).toNat) :
    ∃ v, exec (.leaseWaitExpiry u.id) s = .next v ∧ v.updates = [] := by
  refine ⟨_, rfl, ?_⟩
  have hmiss : (s.withUpdate (u.ackedBy s.chip)).missing (u.ackedBy s.chip) = [] := State.missing_eq_nil_iff.mpr fun d hd => by
    refine (BitVec.getLsbD_or ..).trans ?_
    rcases hgot d hd with hd | rfl
    · rw [hd, Bool.true_or]
    · rw [getLsbD_one_shiftLeft s.chip_lt, decide_eq_true rfl, Bool.or_true]
  rw [State.updateGo_root h (by rw [happ]; rfl) hroot, State.mayAck_lease hkind happ hbusy hmode, decide_eq_true hover, Update.afterAck_of_may hack]
  dsimp only
  rw [hmiss]
  exact State.updates_endUpdate_single (z := u.ackedBy s.chip) rfl

theorem exec_leaseWaitExpiry_early {c : Word} (h : s.updates = [u]) (hkind : u.kind = 0) (hroot : u.root = true) (happ : u.applied = some c)
    (hbusy : s.frameBusy u.old = false) (hmode : bit (s.reg offXlatCtl) 0 = false)
    (hearly : (s.ccc - c).toNat < 940 * (s.cxF u.ctx cLEASE 0 11 + 1)) (hmem : s.chip ∈ s.ranked u.ctx u.origin)
    (hgot : u.got.getLsbD s.chip = false) (hstage : u.stage = 0) : exec (.leaseWaitExpiry u.id) s = .next s := by
  refine congrArg Host.Outcome.next ?_
  rw [State.updateGo_root h (by rw [happ]; rfl) hroot, State.mayAck_lease hkind happ hbusy hmode, decide_eq_false (by omega), Update.afterAck_of_not]
  dsimp only
  rw [State.withUpdate_self h]
  exact if_neg (State.waits_of_missing hstage hmem hgot)

end

theorem translationTree : TranslationTree := by
  refine ⟨?_, ?_, fun s u hu => ⟨?_, ?_, ?_⟩⟩
  · intro s s1 port p h hw c va order hrec hnone hleaf _
    refine ⟨fun old hkind hsome hn hbusy => ?_, fun pa hkind hpa => exec_sdownPacket_map h hw hrec hnone hleaf hkind hpa⟩
    have hold : s1.pageFrame c va = old := by
      unfold State.pageFrame
      split
      · exact hsome _ ‹_›
      · exact (hn ‹_›).symm
    exact exec_sdownPacket_sdown h hw hrec hnone hleaf hkind (by rw [← hold] at hbusy; exact hbusy)
  · intro s s1 port p u h hrec hu ho hi hroot happ hack hstage got
    obtain ⟨hend, hwait⟩ := State.applySdack_root hu ho hi hroot happ hack hstage
    rw [hrec] at hwait
    exact ⟨fun hall => ⟨_, exec_sdackPacket h, hend hall⟩, fun hex => (exec_sdackPacket h).trans (congrArg Host.Outcome.next (hwait hex))⟩
  · intro c happ hack hroot hans h z hh hdue hdone
    exact exec_sdownNodeTimeout hu (by rw [happ]; rfl) hack hroot hans hh hdue hdone
  · exact fun hroot hdue => ⟨fun hstage => exec_shootdownRootTimeout_first hu hroot hdue hstage,
      fun c hstage hmiss hne hc happ _ _ hmode => exec_shootdownRootTimeout_fence hu hroot hdue hstage hmiss hne hc happ hmode⟩
  · exact fun c hkind hroot happ hack hbusy hmode _ hgot => ⟨fun hover => exec_leaseWaitExpiry_over hu hkind hroot happ hack hbusy hmode hgot hover,
      fun hearly hmem hg hstage => exec_leaseWaitExpiry_early hu hkind hroot happ hbusy hmode hearly hmem hg hstage⟩

end Sys2Proof.Machine
end

section
/-! Migrations of pages (R121). -/
namespace Sys2Proof.Machine
open Sys2Proof

/-! ## The moves of an update leave HBM but for what it applies there -/

theorem State.hbm_answerUp (s : State) (u : Update) : (s.answerUp u).hbm = s.hbm := by
  unfold State.answerUp
  split
  · rfl
  · exact (s.routed_sendSdack u).1.keeps (·.hbm) fun _ _ => rfl

theorem State.hbm_updateGo {s : State} {id : Nat} (h : ∀ u, s.updates.find? (fun u => u.id == id) = some u → (s.applyUpdate u).hbm = s.hbm) :
    (s.updateGo id).hbm = s.hbm := by
  unfold State.updateGo
  split
  · rfl
  rename_i u0 h0
  rw [← h u0 h0]
  generalize s.applyUpdate u0 = s1
  dsimp only
  split
  · rfl
  · rename_i u1 _
    generalize (if (!u1.acked && s1.mayAck u1) = true then { u1 with acked := true, got := u1.got ||| BitVec.ofNat 1024 1 <<< s.chip } else u1) = u
    split
    · split
      · rfl
      · rfl
    · split
      · exact State.hbm_answerUp (s1.setUpdate u) u
      · exact State.hbm_answerUp (s1.setUpdate u) u

/-- Only UNMAP and MAP write a page-table entry (R437, R438). -/
theorem State.hbm_applyUpdate {s : State} {u : Update} (h0 : u.kind ≠ 0) (h1 : u.kind ≠ 1) : (s.applyUpdate u).hbm = s.hbm := by
  unfold State.applyUpdate
  dsimp only
  rw [if_neg h1]
  split
  · rfl
  split
  · split
    · contradiction
    · contradiction
    · rfl
  · split
    · contradiction
    · contradiction
    · rfl

theorem State.routed_sendDown (s : State) (u : Update) : ∃ kids, State.Routed (s.setUpdate { u with waits := kids }) (s.sendDown u) :=
  ⟨_, State.Routed.foldl (fun (s : State) c => s.routed_sendSdown u c false) _ _⟩

/-- An update that neither maps nor unmaps starts without a write. -/
theorem State.hbm_startUpdate (s : State) (ctx : Nat) (va : Word) {kind : Nat} (level : Nat) (entry : Word) (h0 : kind ≠ 0) (h1 : kind ≠ 1) :
    (s.startUpdate ctx va kind level entry).hbm = s.hbm := by
  unfold State.startUpdate
  extract_lets u s1
  obtain ⟨kids, hsent, -⟩ := s1.routed_sendDown u
  refine (State.hbm_updateGo fun x hx => ?_).trans (hsent.keeps (·.hbm) fun _ _ => rfl)
  rw [hsent.keeps (·.updates) fun _ _ => rfl] at hx
  have hid : x.id = u.id := beq_iff_eq.mp (List.find?_some (p := fun x : Update => x.id == u.id) hx)
  obtain ⟨y, -, hy⟩ := List.mem_map.mp (List.mem_of_find?_eq_some hx)
  have hxu : x = { u with waits := kids } := by
    split at hy
    · exact hy.symm
    · rename_i hne
      exact absurd (hy ▸ hid) hne
  rw [hxu]
  exact State.hbm_applyUpdate h0 h1

/-! ## A frame is moved -/

theorem tget_eq_default {α : Type} (d : α) {t : Tab α} {k : Nat} (h : ∀ e ∈ t, e.1 ≠ k) : tget d t k = d := by
  induction t with
  | nil => rfl
  | cons e t ih => exact (if_neg (h e List.mem_cons_self)).trans (ih fun x hx => h x (List.mem_cons_of_mem _ hx))

/-- The bytes of a frame, put into a table one after another at the places of another frame. -/
theorem tget_moved (old new : Nat) {l : Tab Byte} (hframe : ∀ e ∈ l, e.1 / 65536 = old) (hkeys : (l.map (·.1)).Pairwise (· < ·)) (k : Mem) (j : Nat) :
    tget 0 (l.foldl (fun k e => tput 0 k (new * 65536 + e.1 % 65536) e.2) k) (new * 65536 + j) = tget (tget 0 k (new * 65536 + j)) l (old * 65536 + j) := by
  induction l generalizing k with
  | nil => rfl
  | cons e l ih =>
    obtain ⟨hlt, hkeys⟩ := List.pairwise_cons.mp hkeys
    have he : e.1 / 65536 = old := hframe e List.mem_cons_self
    rw [List.foldl_cons, ih (fun x hx => hframe x (List.mem_cons_of_mem _ hx)) hkeys]
    by_cases hej : e.1 = old * 65536 + j
    · have hput : new * 65536 + e.1 % 65536 = new * 65536 + j := by omega
      rw [hput, tget_tput_self, tget_eq_default _ fun x hx => ?_]
      · exact (if_pos hej).symm
      · have hlt : e.1 < x.1 := hlt x.1 (List.mem_map_of_mem hx)
        omega
    · rw [tget_tput_ne _ _ _ (by omega)]
      exact (if_neg hej).symm

/-- The bytes of the old frame are read in the new one. -/
theorem mread_moveFrame {m : Mem} (hwf : Mem.wf m) (old new : Nat) {j : Nat} (hj : j < 65536) :
    mread (moveFrame m old new) (new * 65536 + j) = mread m (old * 65536 + j) := by
  have hkeys : ((m.filter fun e => e.1 / 65536 == old).map (·.1)).Pairwise (· < ·) :=
    ((canon_iff 0 m).mp hwf).1.sublist (List.filter_sublist.map _)
  have hframe (n : Nat) : (n * 65536 + j) / 65536 = n := by omega
  unfold mread moveFrame
  dsimp only
  rw [tget_moved old new (fun e he => beq_iff_eq.mp (List.mem_filter.mp he).2) hkeys,
    tget_filterKey 0 (fun k => !(k / 65536 == new)), if_neg (by rw [hframe]; simp), tget_filterKey 0 (fun k => k / 65536 == old), if_pos (by rw [hframe]; simp)]

/-! ## The events (R121) -/

theorem exec_beginPage {s : State} {c pa : Nat} {va : BitVec 57} (hrec : s.frameRecorded c ((va.setWidth 64) &&& ~~~ 0xFFFF#64) = false)
    (hpa : s.entryPa c ((va.setWidth 64) &&& ~~~ 0xFFFF#64) 0 = some pa) (hin : pa < hbmEnd) (hp : bit (mword s.hbm pa) 0 = true)
    (hm : bit (mword s.hbm pa) 1 = false) :
    ∃ u, exec (.pageMigration (.beginPage c va)) s = .next u ∧ u.hbm = mputw s.hbm pa (setFld (mword s.hbm pa) 1 1 1) := by
  refine ⟨s.beginMigration c pa (some ((va.setWidth 64) &&& ~~~ 0xFFFF#64)), ?_, ?_⟩
  · change execPageMigration (.beginPage c va) s = _
    unfold execPageMigration
    dsimp only
    rw [hrec, if_neg Bool.false_ne_true, hpa]
  · unfold State.beginMigration
    dsimp only
    rw [if_neg (by simp [hp, hm, Nat.not_le.mpr hin])]
    exact State.hbm_startUpdate _ _ _ _ _ (by decide) (by decide)

theorem exec_finishMigration {s : State} {n : Nat} {f : BitVec 36} {g : Migration} (hg : s.migrations[n]? = some g) (hupd : g.upd = none)
    (hbusy : s.frameBusy g.old = false) (hf : f.toNat * 65536 < hbmEnd) (hwf : Mem.wf s.hbm) (hpa : g.pa % 8 = 0) (hne : g.pa / 65536 ≠ f.toNat) :
    ∃ u, exec (.pageMigration (.finish n f)) s = .next u ∧ pteFrame (mword u.hbm g.pa) = f.toNat ∧ bit (mword u.hbm g.pa) 1 = false ∧
      (∀ j < 65536, mread u.hbm (f.toNat * 65536 + j) = mread s.hbm (g.old * 65536 + j)) ∧ u.migrations = s.migrations.erase g := by
  have hrun : exec (.pageMigration (.finish n f)) s = .next (s.endMigration g f.toNat) := by
    change execPageMigration (.finish n f) s = _
    unfold execPageMigration
    dsimp only
    rw [hg]
  rw [State.endMigration, if_neg (by simp [hupd, hbusy, hf])] at hrun
  refine ⟨_, hrun, ?_, ?_, fun j hj => ?_, rfl⟩
  · dsimp only
    rw [mword_mputw, pteFrame, fld_setFld_disjoint _ _ (by decide), fld_setFld _ _ (by decide), Nat.mod_eq_of_lt f.isLt]
  · dsimp only
    rw [mword_mputw, bit_setFld _ _ (by decide)]
    rfl
  · dsimp only
    unfold mputw
    rw [mread_mwrites_outside _ _ _ _ (by simp only [leBytes_length]; omega), mread_moveFrame hwf _ _ hj]

theorem migrations : Migrations :=
  ⟨fun _ _ _ _ hrec hpa hin hp hm => exec_beginPage hrec hpa hin hp hm,
    fun _ _ _ _ hg hupd hbusy hf hwf hpa hne => exec_finishMigration hg hupd hbusy hf hwf hpa hne⟩

/-- Settles O18: each packet by the effect it has once it is taken from its input, the updates of translation on their tree, and migrations. -/
theorem packets : Obligations.Packets := ⟨straitPackets, translationTree, migrations⟩

end Sys2Proof.Machine
end

section
/-! Bytes that enter an RX window (R105, R139, R169, R276). -/
namespace Sys2Proof.Machine
open Sys2Proof

/-! ## Untranslated reads of context memory -/

theorem State.physOf_congr {s t : State} {c : Nat} (hm : t.hbm = s.hbm) (hf : t.saveFrames = s.saveFrames) (hr : t.cx c cPTROOT = s.cx c cPTROOT) (va : Word) :
    t.physOf c va = s.physOf c va := by
  have hroot : t.cxF c cPTROOT 16 36 = s.cxF c cPTROOT 16 36 := by
    unfold State.cxF
    rw [hr]
  have hwalk : t.walk c va = s.walk c va := by
    unfold State.walk State.pte
    rw [hm, hroot]
  unfold State.physOf
  rw [hf, hwalk]

theorem State.physOf_setCx (s : State) (c : Nat) {o : Nat} (h : cPTROOT ≠ o) (v va : Word) : (s.setCx c o v).physOf c va = s.physOf c va :=
  State.physOf_congr (s := s) (t := s.setCx c o v) (State.setCx_hbm ..) (State.setCx_saveFrames ..) (State.cx_setCx_ne h) va

theorem State.readVa_congr {s t : State} {c : Nat} (hm : t.hbm = s.hbm) (hp : ∀ va, t.physOf c va = s.physOf c va) (fuel : Nat) (va : Word) (n : Nat) :
    t.readVa c fuel va n = s.readVa c fuel va n := by
  induction fuel generalizing va n with
  | zero => rfl
  | succ fuel ih =>
    unfold State.readVa
    dsimp only
    rw [hp, hm, ih]

/-- What a packet leaves in its window is read from HBM and the tables. -/
theorem State.windowAfter_congr {s t : State} (hm : t.hbm = s.hbm) (hf : t.saveFrames = s.saveFrames) (hr : ∀ off, t.reg off = s.reg off) (p : Packet) :
    t.windowAfter p = s.windowAfter p := by
  have h128 (off : Nat) : t.reg128 off = s.reg128 off := by
    unfold State.reg128
    rw [hr, hr]
  have hread := State.readVa_congr (s := s) (t := t) (c := fld (s.reg128 (offRxw (fld p.word2 0 12))) 1 6) hm fun va => State.physOf_congr hm hf (hr _) va
  unfold State.windowAfter State.windowBytes State.winEntry
  dsimp only
  simp only [if_true, h128, hread]

/-! ## The write -/

theorem blockPieces_one {va : Word} {bs : List Byte} (hfit : va.toNat % 4096 + bs.length ≤ 4096) (hne : bs ≠ []) (n : Nat) :
    blockPieces (n + 2) va bs = [(va, bs)] := by
  have hk : bs.length ≤ 4096 - va.toNat % 4096 := by omega
  have hempty : bs.isEmpty = false := by simpa using hne
  unfold blockPieces
  rw [hempty, if_neg Bool.false_ne_true]
  dsimp only
  rw [List.take_of_length_le hk, List.drop_of_length_le hk]
  rfl

/-- Bytes that stay in one block are read where its page lies. -/
theorem State.mread_writeVa {s : State} {src tile c : Nat} {win : BitVec 32} {va : Word} {bs : List Byte} {pa : Nat} (hpa : s.physOf c va = some pa)
    (hfit : va.toNat % 4096 + bs.length ≤ 4096) {i : Nat} (hi : i < bs.length) : mread (s.writeVa src tile c win va bs).hbm (pa + i) = bs.getD i 0 := by
  unfold State.writeVa
  rw [blockPieces_one hfit (List.ne_nil_of_length_pos (by omega)), List.foldl_cons, List.foldl_nil, hpa]
  refine (mread_mwrites ..).trans ?_
  rw [dif_pos ⟨Nat.le_add_right .., Nat.add_lt_add_left hi pa⟩, List.getD_eq_getElem _ _ hi]
  simp only [Nat.add_sub_cancel_left]

theorem State.reserveRing_fits {s : State} {src c len : Nat} {va : Word} (h : s.undoUse c + len ≤ s.undoSize c) :
    s.reserveRing src c len va = .ok (s.setCx c cUNDOUSE (BitVec.ofNat 64 (s.undoUse c + len))) := by
  unfold State.reserveRing
  dsimp only
  rw [if_pos h]
  rfl

/-- Bytes that a valid window holds enter it, and wait for their delivery event. -/
theorem State.rxWrite_fits {s : State} {w off : Nat} {bs : List Byte} {ack : Option (Packet × Nat)}
    (hvalid : bit (s.reg128 (offRxw w)) 0 = true) (hsize : off + bs.length ≤ winSize (s.reg128 (offRxw w)))
    (hmoves : s.rangeMoves (fld (s.reg128 (offRxw w)) 1 6) (winVa (s.reg128 (offRxw w)) off) bs.length = false)
    (hroom : s.undoUse (fld (s.reg128 (offRxw w)) 1 6) + vaRecordBytes (winVa (s.reg128 (offRxw w)) off) bs ≤ s.undoSize (fld (s.reg128 (offRxw w)) 1 6)) :
    ∃ t, s.rxWrite w off bs ack = .ok t ∧ t.winDel = s.winDel ++ [{ rxw := w, bytes := bs.length, ack := ack, born := s.ferryCycle }] ∧
      (∀ o, o ≠ offCtx (fld (s.reg128 (offRxw w)) 1 6) cUNDOUSE → t.reg o = s.reg o) ∧
      ∀ pa, s.physOf (fld (s.reg128 (offRxw w)) 1 6) (winVa (s.reg128 (offRxw w)) off) = some pa →
        (winVa (s.reg128 (offRxw w)) off).toNat % 4096 + bs.length ≤ 4096 → ∀ i < bs.length, mread t.hbm (pa + i) = bs.getD i 0 := by
  generalize hc : fld (s.reg128 (offRxw w)) 1 6 = c at *
  generalize hva : winVa (s.reg128 (offRxw w)) off = va at *
  let s1 := s.setCx c cUNDOUSE (BitVec.ofNat 64 (s.undoUse c + vaRecordBytes va bs))
  have hw := s1.logged_writeVa 7 0 c (s1.winOf 7 0 c) va bs
  have hphys : s1.physOf c va = s.physOf c va := s.physOf_setCx c (by decide) _ va
  refine ⟨{ s1.writeVa 7 0 c (s1.winOf 7 0 c) va bs with
      winDel := s.winDel ++ [{ rxw := w, bytes := bs.length, ack := ack, born := s.ferryCycle }] }, ?_, rfl, fun o ho => ?_, fun pa hpa hfit i hi => ?_⟩
  · unfold State.rxWrite
    dsimp only
    rw [hc, hva, if_neg (by simp [hvalid, hsize]), hmoves, if_neg Bool.false_ne_true, State.reserveRing_fits hroom]
    refine congrArg (fun d => Res.ok ({ s1.writeVa 7 0 c (s1.winOf 7 0 c) va bs with winDel := d ++ _ } : State)) (hw.keeps (·.winDel) fun _ _ _ => rfl)
  · exact (hw.keeps (·.reg o) fun _ _ _ => rfl).trans (State.reg_setReg_ne ho)
  · refine State.mread_writeVa (hphys.trans hpa) hfit hi

end Sys2Proof.Machine
end

section
/-! Where each packet of the strait completes: the packet that is the first at its input. -/
namespace Sys2Proof.Machine
open Sys2Proof

section
variable {s : State} {port : Nat} {p : Packet} {rest : List Packet}

/-! ## A transit packet (R48) -/

theorem forward_bad (hq : tget [] s.inq port = p :: rest) (hbad : p.bad = true) :
    ∃ u, exec (.packetForward port) s = .next u ∧ tget [] u.inq port = rest := by
  have hrun := (packetRouting.1 s _ port p (State.headAt_cons hq (by rw [hbad]; rfl))).2 hbad
  refine ⟨_, hrun, ?_⟩
  split
  · exact State.tget_inq_taken ..
  · exact State.tget_inq_taken ..

theorem forward_transit {n : Nat} (hq : tget [] s.inq port = p :: rest) (hbad : p.bad = false) (hdst : p.dst ≠ s.chip) (hlink : s.linkTo p.dst = some n)
    (hfs : s.fences.getLsbD p.src = false) (hfd : s.fences.getLsbD p.dst = false) (hfn : s.fences.getLsbD (s.neighbour n) = false)
    (hup : s.linkState n = 2) :
    ∃ u d, exec (.packetForward port) s = .next u ∧ tget [] u.inq port = rest ∧
      (u.link n).queue = (s.link n).queue ++ [(min 6 port, { p with dlc := d })] ∧ (s.wraps n = true → d = true) := by
  have hm := s.moved_taken port p rest
  have hf (c : Nat) : (s.taken port p rest).fences.getLsbD c = s.fences.getLsbD c := hm.keeps (·.fences.getLsbD c) fun _ _ => rfl
  have hrun := (packetRouting.1 s _ port p (State.headAt_cons hq (by simpa [hbad] using hdst))).1 hbad
  rw [(inject_toward (n := n) ((hf _).trans hfs) ((hf _).trans hfd) ((hm.keeps (·.linkTo p.dst) fun _ _ => rfl).trans hlink)
    ((hf _).trans ((congrArg _ (hm.keeps (·.neighbour n) fun _ _ => rfl)).trans hfn))).1 ((hm.linkState n).trans hup)] at hrun
  refine ⟨_, port < 6 && port / 2 == n / 2 && p.dlc || s.wraps n, hrun, State.tget_inq_taken .., ?_, fun hw => by rw [hw, Bool.or_true]⟩
  rw [State.queueOut, State.link_modLink_self, State.queue_taken, hm.keeps (·.wraps n) fun _ _ => rfl]

/-! ## Packets in path order (R46, R81, R139, R169) -/

/-- The state in which a packet of a path is delivered. -/
def State.onPath (s : State) (port : Nat) (p : Packet) (rest : List Packet) : State :=
  { s.taken port p rest with pseqIn := tput 0 (s.taken port p rest).pseqIn p.src (p.pseq + 1) }

theorem State.onPath_keeps (s : State) (port : Nat) (p : Packet) (rest : List Packet) {α : Sort*} (f : State → α)
    (hf : ∀ x i l, f { s with pseqIn := x, inq := i, links := l } = f s) : f (s.onPath port p rest) = f s := by
  obtain ⟨i, l, e⟩ := s.moved_taken port p rest
  unfold State.onPath
  rw [e]
  exact hf _ i l

/-- RST and RACC: the bytes enter the window, wait for their delivery event, and are acknowledged after it. -/
theorem exec_dataPacket {i : Nat → Instr} {pop : Nat} (hi : (i, pop) ∈ [(Instr.rstPacket, 0), (Instr.raccPacket, 1), (Instr.msgPacket, 3)]) (hport : port < 7)
    (hheld : s.heldAll = []) (harr : arrives s port pop p (s.taken port p rest)) (hpop : pop ≠ 3) (hd : p.src ∉ s.discarding)
    (hseq : p.pseq = tget 0 s.pseqIn p.src) (htok : s.tokenMet p = true) :
    let w := fld p.word2 0 12
    let off := fld p.word2 12 40
    let e := s.reg128 (offRxw w)
    let c := fld e 1 6
    let va := winVa e off
    let bs := s.windowAfter p
    (p.src = s.chip ∨ s.playing c = false) → bit e 0 = true → off + bs.length ≤ winSize e → s.rangeMoves c va bs.length = false →
    s.undoUse c + vaRecordBytes va bs ≤ s.undoSize c →
    ∃ u, exec (i port) s = .next u ∧ tget 0 u.pseqIn p.src = p.pseq + 1 ∧ tget 0xFFFFFFFF#32 u.lhw p.src = p.pseq ∧
      u.winDel = s.winDel ++ [{ rxw := w, bytes := bs.length, ack := some (p, 0), born := s.ferryCycle }] ∧
      ∀ pa, (p.src = s.chip ∨ s.recording c = false) → s.physOf c va = some pa → va.toNat % 4096 + bs.length ≤ 4096 →
        ∀ i < bs.length, mread u.hbm (pa + i) = bs.getD i 0 := by
  intro w off e c va bs hplay hvalid hsize hmoves hroom
  have hpop3 : p.pop ≠ 3 := by rw [(arrives_kind harr).2.2]; exact hpop
  have hctx : s.packetCtx p = c := if_neg hpop3
  have hreg (o : Nat) : (s.onPath port p rest).reg o = s.reg o := s.onPath_keeps port p rest (·.reg o) fun _ _ _ => rfl
  have hentry : (s.onPath port p rest).reg128 (offRxw w) = e := s.onPath_keeps port p rest (·.reg128 (offRxw w)) fun _ _ _ => rfl
  have hbs : (s.onPath port p rest).windowAfter p = bs :=
    State.windowAfter_congr (s.onPath_keeps port p rest (·.hbm) fun _ _ _ => rfl) (s.onPath_keeps port p rest (·.saveFrames) fun _ _ _ => rfl) hreg p
  have hphys : (s.onPath port p rest).physOf c va = s.physOf c va := s.onPath_keeps port p rest (·.physOf c va) fun _ _ _ => rfl
  obtain ⟨t, ht, hdel, htreg, hbytes⟩ := State.rxWrite_fits (s := s.onPath port p rest) (w := w) (off := off) (bs := bs) (ack := some (p, 0))
    (by rw [hentry]; exact hvalid) (by rw [hentry]; exact hsize)
    (by rw [hentry, s.onPath_keeps port p rest (·.rangeMoves (fld e 1 6) (winVa e off) bs.length) fun _ _ _ => rfl]; exact hmoves)
    (by
      rw [hentry, s.onPath_keeps port p rest (·.undoUse (fld e 1 6)) fun _ _ _ => rfl, s.onPath_keeps port p rest (·.undoSize (fld e 1 6)) fun _ _ _ => rfl]
      exact hroom)
  rw [hentry] at htreg hbytes
  have hwait : s.mustWait (s.packetCtx p) p = false := by
    unfold State.mustWait
    rw [hctx]
    obtain h | h := hplay <;> simp [h]
  obtain ⟨hharb, hin, hlhw⟩ := delivered_facts (p := p) ((s.onPath port p rest).packetCtx p) (State.delivered_rxWrite ht)
  have hdeliver : State.deliver (s.onPath port p rest) p = .ok (((t.recordPacket ((s.onPath port p rest).packetCtx p) p).stageNote p).landed p) :=
    State.deliver_data hpop3 (by rw [hbs]; exact ht)
  have hctx' : (s.onPath port p rest).packetCtx p = c := (s.onPath_keeps port p rest (·.packetCtx p) fun _ _ _ => rfl).trans hctx
  rw [hctx'] at hdeliver hharb hin hlhw
  refine ⟨((t.recordPacket c p).stageNote p).landed p, ?_, ?_, hlhw, ?_, fun pa hrec hpa hfit j hj => ?_⟩
  · rw [exec_pathPacket hi, State.pathEvent_of_arrives hheld harr hwait]
    exact congrArg _ (State.pathPacket_deliver hport hheld hd hseq htok (fun h => absurd h hpop3) hdeliver
      (hharb.trans (s.onPath_keeps port p rest (·.harbour) fun _ _ _ => rfl)))
  · rw [hin]
    exact tget_tput_self ..
  · rw [State.landed_keeps _ p (·.winDel) fun _ _ _ _ => rfl, State.stageNote_keeps _ p (·.winDel) fun _ => rfl,
      (t.recorded_recordPacket c p).keeps (·.winDel) fun _ _ _ => rfl, hdel, s.onPath_keeps port p rest (·.winDel) fun _ _ _ => rfl,
      s.onPath_keeps port p rest (·.ferryCycle) fun _ _ _ => rfl]
  · have hchip : t.chip = s.chip := by
      unfold State.chip State.regF
      rw [htreg _ (by simp only [offGeom, offCtx]; omega), hreg]
    have hrecording : t.recording c = s.recording c := by
      unfold State.recording State.playing State.cx
      rw [htreg _ (by simp only [offCtx, cREPLAY, cUNDOUSE]; omega), hreg]
    rw [State.landed_keeps _ p (·.hbm) fun _ _ _ _ => rfl, State.stageNote_keeps _ p (·.hbm) fun _ => rfl,
      State.recordPacket_eq_self (by rw [hchip, hrecording]; exact hrec)]
    exact hbytes pa (hphys.trans hpa) hfit j hj

theorem exec_messagePacket (hport : port < 7) (hheld : s.heldAll = []) (harr : arrives s port 3 p (s.taken port p rest)) (hd : p.src ∉ s.discarding)
    (hseq : p.pseq = tget 0 s.pseqIn p.src) (hplay : p.src = s.chip ∨ s.playing (s.packetCtx p) = false) (hen : bit (s.reg offMatchCtl) 0 = true) :
    ∃ u, exec (.msgPacket port) s = .next u ∧ tget 0 u.pseqIn p.src = p.pseq + 1 ∧ tget 0xFFFFFFFF#32 u.lhw p.src = p.pseq ∧
      u.arrivals = s.arrivals ++ [{ messageArrival p with born := s.ferryCycle }] := by
  have hpop : p.pop = 3 := (arrives_kind harr).2.2
  have hwait : s.mustWait (s.packetCtx p) p = false := by
    unfold State.mustWait
    obtain h | h := hplay <;> simp [h]
  have htok : s.tokenMet p = true := by
    unfold State.tokenMet
    rw [hpop]
    rfl
  obtain ⟨hharb, hin, hlhw⟩ := message_facts (p := p) (s.onPath port p rest) (messageArrival p)
  have hsent := ((s.onPath port p rest).joinArrivals (messageArrival p)).routed_inject 6 (ackPacketOf p 0)
  refine ⟨_, ?_, ?_, hlhw, ?_⟩
  · rw [exec_pathPacket (pop := 3) (by simp), State.pathEvent_of_arrives hheld harr hwait]
    exact congrArg _ (State.pathPacket_deliver hport hheld hd hseq htok (fun _ => hen) (State.deliver_message _ hpop)
      (hharb.trans (s.onPath_keeps port p rest (·.harbour) fun _ _ _ => rfl)))
  · rw [hin]
    exact tget_tput_self ..
  · rw [State.landed_keeps _ p (·.arrivals) fun _ _ _ _ => rfl, hsent.keeps (·.arrivals) fun _ _ => rfl]
    exact s.onPath_keeps port p rest (fun t => t.arrivals ++ [{ messageArrival p with born := t.ferryCycle }]) fun _ _ _ => rfl

/-! ## Reduction blocks (R50) and acknowledgements (R36) -/

theorem exec_redPacket_kept {l : List (BitVec 32)} (harr : arrives s port 2 p (s.taken port p rest))
    (hplay : ∀ r, s.redRun (redRid p) = some r → p.src = s.chip ∨ s.playing r.2.c.ctx = false)
    (hvalid : rtValid (s.reg128 (offRedTab (redRid p))) = true) (hepoch : rtEpoch (s.reg128 (offRedTab (redRid p))) = redEpoch p)
    (hnew : ∀ b ∈ s.reds, b.rid = redRid p → b.block ≠ redBlock p) (hroom : (s.reds.filter fun b => b.rid == redRid p).length < 16)
    (hl : redElems (s.redRop (redRid p)) p.data = some l) (hne : l ≠ [])
    (hmiss : ∃ i < 8, i ≠ redSlot p ∧ (rtInmask (s.reg128 (offRedTab (redRid p)))).testBit i = true) :
    ∃ u, exec (.redPacket port) s = .next u ∧ tget [] u.inq port = rest ∧
      u.reds = s.reds ++ [{ rid := redRid p, block := redBlock p, slots := tput [] [] (redSlot p) l }] := by
  have hw (r : Nat × CollRun) (hr : s.redRun (redRid p) = some r) : s.mustWait r.2.c.ctx p = false := by
    unfold State.mustWait
    obtain h | h := hplay r hr <;> simp [h]
  have hkept := (State.applyRed_first (s1 := s.taken port p rest) hl hvalid hepoch hnew hroom).1 ((red_missing_iff _ _ hne).mpr hmiss)
  have hreds : (s.taken port p rest).reds = s.reds := (s.moved_taken port p rest).keeps (·.reds) fun _ _ => rfl
  have hothers : s.reds.filter (fun b => !(b.rid == redRid p && b.block == redBlock p)) = s.reds := by
    rw [List.filter_eq_self]
    intro b hb
    by_cases h : b.rid = redRid p
    · simp [hnew b hb h]
    · simp [h]
  refine ⟨_, (exec_redPacket harr hw).trans (congrArg _ hkept), State.tget_inq_taken .., ?_⟩
  dsimp only
  rw [hreds, hothers]

theorem exec_ackPacket_plain (harr : arrives s port 8 p (s.taken port p rest)) (hv : p.data.head? = some 0)
    (hplain : ∀ e ∈ s.sent, e.send = none ∧ e.firing = none) :
    ∃ u, exec (.ackPacket port) s = .next u ∧ tget [] u.inq port = rest ∧
      ∀ e, e ∈ u.sent ↔ e ∈ s.sent ∧ ¬ (e.dst = p.src ∧ e.status = none ∧ (p.pseq - e.pseq).toNat < 2 ^ 31 ∧ (p.src = s.chip ∨ s.playing e.ctx = false)) := by
  have hm := s.moved_taken port p rest
  have hsent : (s.taken port p rest).sent = s.sent := hm.keeps (·.sent) fun _ _ => rfl
  have hchip : (s.taken port p rest).chip = s.chip := hm.keeps (·.chip) fun _ _ => rfl
  obtain ⟨u, hu, hus, huq⟩ := exec_ackPacket_ok harr hv fun e he => hplain e (hsent ▸ (List.mem_filter.mp he).1)
  refine ⟨u, hu, by rw [huq]; exact State.tget_inq_taken .., fun e => ?_⟩
  have hplay : (s.taken port p rest).playing e.ctx = s.playing e.ctx := hm.keeps (·.playing e.ctx) fun _ _ => rfl
  rw [hus, State.answered, mem_diff_filter, hsent, hchip, hplay, ← Bool.not_eq_true]
  refine and_congr_right fun _ => not_congr ?_
  simp only [ackCovers, passed32, if_true, Bool.and_eq_true, Bool.or_eq_true, beq_iff_eq, decide_eq_true_eq, Option.isNone_iff_eq_none, Bool.not_eq_true',
    and_assoc]
  rw [or_comm]

end

end Sys2Proof.Machine
end

section
/-! Where each packet event and each timed event of the strait and of translation completes. -/
namespace Sys2Proof.Machine
open Sys2Proof

section
variable {s : State} {port : Nat} {p : Packet} {rest : List Packet}

theorem exec_tkqPacket_taken (harr : arrives s port 0x10 p (s.taken port p rest)) :
    ((s.mark (fld p.word2 0 10) - tokenSeq p.word2).toNat < 2 ^ 31 → ∃ u, exec (.tkqPacket port) s = .next u ∧ u.queries = s.queries) ∧
    (2 ^ 31 ≤ (s.mark (fld p.word2 0 10) - tokenSeq p.word2).toNat → s.queries.length < 1024 → ∃ u, exec (.tkqPacket port) s = .next u ∧
      u.queries = s.queries ++ [(p.src, fld p.word2 0 10, tokenSeq p.word2)]) := by
  have hm := s.moved_taken port p rest
  have hqueries : (s.taken port p rest).queries = s.queries := hm.keeps (·.queries) fun _ _ => rfl
  obtain ⟨hpass, hkept⟩ := exec_tkqPacket harr
  rw [hm.keeps (·.mark (fld p.word2 0 10)) fun _ _ => rfl] at hpass hkept
  refine ⟨fun hlt => ⟨_, hpass (decide_eq_true hlt), ?_⟩, fun hge hlen => ⟨_, hkept (decide_eq_false (Nat.not_lt.mpr hge)) (by rwa [hqueries]), ?_⟩⟩
  · exact ((State.routed_answerQuery ..).keeps (·.queries) fun _ _ => rfl).trans hqueries
  · exact congrArg (· ++ _) hqueries

theorem exec_tkaPacket_taken {i : Nat} {t : TokEntry} (harr : arrives s port 9 p (s.taken port p rest)) (hheld : s.heldAll = [])
    (hi : s.tokenAt p.src (fld p.word2 0 10) = some (i, t)) (hmark : t.mark = none) :
    ∃ u t1, exec (.tkaPacket port) s = .next u ∧ tget none u.tokens i = some t1 ∧ t1.mark = some (tokenSeq p.word2) ∧ t1.qout = false := by
  have hm := s.moved_taken port p rest
  obtain ⟨u, t1, hu, htok, hm1, hq⟩ := exec_tkaPacket harr ((hm.keeps (·.heldAll) fun _ _ => rfl).trans hheld)
    ((hm.keeps (·.tokenAt p.src (fld p.word2 0 10)) fun _ _ => rfl).trans hi) hmark
  exact ⟨u, t1, hu, by rw [htok]; exact tget_tput_self .., hm1, hq⟩

theorem exec_pathrst_taken (harr : arrives s port 0x14 p (s.taken port p rest)) (hheld : s.heldAll = []) (hdst : fld p.word2 10 10 = s.chip)
    (hsrc : fld p.word2 0 10 ≠ s.chip) :
    ∃ u, exec (.pathrstPacket port) s = .next u ∧ tget 0 u.pseqIn (fld p.word2 0 10) = tokenSeq p.word2 ∧
      tget 0xFFFFFFFF#32 u.lhw (fld p.word2 0 10) = tokenSeq p.word2 - 1 := by
  have hm := s.moved_taken port p rest
  have hchip : (s.taken port p rest).chip = s.chip := hm.keeps (·.chip) fun _ _ => rfl
  obtain ⟨u, hu, hp, hl, -⟩ := exec_pathrst_dst harr (hdst.trans hchip.symm) (hchip.symm ▸ hsrc) ((hm.keeps (·.heldAll) fun _ _ => rfl).trans hheld)
  exact ⟨u, hu, by rw [hp]; exact tget_tput_self .., by rw [hl]; exact tget_tput_self ..⟩

theorem exec_sdownPacket_taken {pa : Nat} (harr : arrives s port 0x11 p (s.taken port p rest)) (hplay : s.playing (fld p.word2 40 6) = false)
    (hrec : p.src = s.chip ∨ s.recording (fld p.word2 40 6) = false) (hnone : s.updates = [])
    (hleaf : treeChildren (s.ranked (fld p.word2 40 6) (fld p.word2 50 10)).length
      ((s.ranked (fld p.word2 40 6) (fld p.word2 50 10)).idxOf s.chip) = []) (hkind : fld p.word2 46 2 = 1)
    (hpa : s.entryPa (fld p.word2 40 6) (BitVec.ofNat 64 (fld p.word2 0 40 * 65536)) (fld p.word2 48 2) = some pa) :
    ∃ u, exec (.sdownPacket port) s = .next u ∧ u.updates = [] ∧ u.hbm = mputw s.hbm pa p.word3 := by
  have hm := s.moved_taken port p rest
  have hchip : (s.taken port p rest).chip = s.chip := hm.keeps (·.chip) fun _ _ => rfl
  have hranked (c root : Nat) : (s.taken port p rest).ranked c root = s.ranked c root := hm.keeps (·.ranked c root) fun _ _ => rfl
  have hrecording (c : Nat) : (s.taken port p rest).recording c = s.recording c := hm.keeps (·.recording c) fun _ _ => rfl
  have hentry (c : Nat) (va : Word) (l : Nat) : (s.taken port p rest).entryPa c va l = s.entryPa c va l := hm.keeps (·.entryPa c va l) fun _ _ => rfl
  refine exec_sdownPacket_map harr ?_ (State.recordPacket_eq_self ?_) ((hm.keeps (·.updates) fun _ _ => rfl).trans hnone) ?_ hkind ((hentry ..).trans hpa)
  · unfold State.mustWait
    rw [hplay]
    rfl
  · rw [hchip, hrecording]
    exact hrec
  · rw [hranked, hchip]
    exact hleaf

theorem exec_sdackPacket_taken {u : Update} (harr : arrives s port 0xA p (s.taken port p rest)) (hu : s.updates = [u]) (ho : u.origin = fld p.word2 0 10)
    (hi : u.ident = leNat (p.data.take 8)) (hroot : u.root = true) (happ : u.applied.isSome = true) (hack : u.acked = true) (hstage : u.stage = 0)
    (hall : ∀ c ∈ s.ranked u.ctx u.origin, (u.got ||| BitVec.ofNat 1024 (leNat ((p.data.drop 8).take 128))).getLsbD c = true) :
    ∃ v, exec (.sdackPacket port) s = .next v ∧ v.updates = [] := by
  have hm := s.moved_taken port p rest
  have hranked : (s.taken port p rest).ranked u.ctx u.origin = s.ranked u.ctx u.origin := hm.keeps (·.ranked u.ctx u.origin) fun _ _ => rfl
  obtain ⟨hend, -⟩ := State.applySdack_root (p := p) ((hm.keeps (·.updates) fun _ _ => rfl).trans hu) ho hi hroot happ hack hstage
  exact ⟨_, exec_sdackPacket harr, hend (by rw [hranked]; exact hall)⟩

end

theorem eachInputCompletes : inputsComplete := by
  intro s port p rest hport hq hfs hfd hheld
  refine ⟨forward_bad hq, fun hbad hdst n hlink hfn hup => forward_transit hq hbad hdst hlink hfs hfd hfn hup, fun hbad hdst => ?_⟩
  have arr {pop : Nat} (hpop : p.pop = pop) : arrives s port pop p (s.taken port p rest) := arrives_of_cons hq hdst hbad hpop hfs hfd
  refine ⟨?_, fun hpop hd hseq hplay hen => ?_, ?_, fun hpop hv hplain => exec_ackPacket_plain (arr hpop) hv hplain, fun hpop => exec_tkqPacket_taken (arr hpop),
    fun hpop i t hi hmark => exec_tkaPacket_taken (arr hpop) hheld hi hmark, fun hpop => ?_, fun hpop hb => (exec_fenceClrPacket (arr hpop)).2 hb,
    fun hpop hd hsrc => exec_pathrst_taken (arr hpop) hheld hd hsrc, ?_,
    fun hpop u hu ho hi hroot happ hack hstage hall => exec_sdackPacket_taken (arr hpop) hu ho hi hroot happ hack hstage hall⟩
  · intro w off e c va bs done hd hseq htok hplay hvalid hdata hsize hmoves hroom
    refine ⟨fun hpop => ⟨(windowAfter_eq s p).1 hpop, ?_⟩, fun hpop => ⟨(windowAfter_eq s p).2 hpop hvalid hdata, ?_⟩⟩
    · exact exec_dataPacket (i := Instr.rstPacket) (pop := 0) (by simp) hport hheld (arr hpop) (by decide) hd hseq htok hplay hvalid hsize hmoves hroom
    · exact exec_dataPacket (i := Instr.raccPacket) (pop := 1) (by simp) hport hheld (arr hpop) (by decide) hd hseq htok hplay hvalid hsize hmoves hroom
  · obtain ⟨u, hu, hin, hlhw, harrivals⟩ := exec_messagePacket hport hheld (arr hpop) hd hseq hplay hen
    exact ⟨u, _, hu, hin, hlhw, harrivals, rfl, rfl, rfl, rfl⟩
  · intro rid e rop hpop hplay hvalid hepoch hnew hroom l hl hne hmiss
    exact exec_redPacket_kept (arr hpop) hplay hvalid hepoch hnew hroom hl hne hmiss
  · obtain ⟨u, hu, hf, -⟩ := exec_fencePacket_fences (arr hpop)
    exact ⟨u, hu, hf⟩
  · intro c va order hpop hplay hrec hnone hleaf pa hkind hpa
    exact exec_sdownPacket_taken (arr hpop) hplay hrec hnone hleaf hkind hpa

theorem eachTimerCompletes : timersComplete := by
  refine ⟨fun s landing origin i t c hheld hi hc hdue => (exec_tkqRetry hheld hi hc).1 hdue,
    fun s port h hall hport hd hdue => exec_tokenExpiry_due hall hport hd hdue,
    fun s port a b ha hb hlen htold hdue => ⟨_, exec_holdQueueFull ha hb hlen htold hdue, ?_, ?_⟩,
    fun s p hp htold => ⟨_, (exec_tokenTableFull hp).1 htold, ?_, ?_⟩, fun s c pa va => ?_, fun s u hu => ⟨?_, ?_, ?_⟩⟩
  · exact (State.reported_report ..).keeps (·.holdTold) fun _ _ _ => rfl
  · exact (State.reported_report ..).keeps (·.harbour) fun _ _ _ => rfl
  · exact (State.reported_report ..).keeps (·.tokenTold) fun _ _ _ => rfl
  · exact (State.reported_report ..).keeps (·.tokens) fun _ _ _ => rfl
  · intro a hrec hpa hin hp hm
    exact exec_beginPage hrec hpa hin hp hm
  · intro c happ hack hroot hans hdone hh hdue
    refine ⟨_, exec_sdownNodeTimeout hu (by rw [happ]; rfl) hack hroot hans hh hdue hdone, ?_⟩
    have hset : s.setUpdate { u with waits := [] } = s.withUpdate { u with waits := [] } := State.setUpdate_single hu rfl
    have hm := ((s.withUpdate { u with waits := [] }).routed_sendSdack { u with waits := [] }).1
    rw [hset, State.setUpdate_single (u := { u with waits := [] }) (z := { u with waits := [], answered := true, told := u.got }) (hm.keeps (·.updates) fun _ _ => rfl) rfl]
    rfl
  · exact fun hroot hstage hdue => exec_shootdownRootTimeout_first hu hroot hdue hstage
  · exact fun c hkind hroot happ hack hbusy hmode hgot hover => exec_leaseWaitExpiry_over hu hkind hroot happ hack hbusy hmode hgot hover

/-- Settles O34: each packet by what its event does once the packet is taken, each timed event by what it does when its time has come. -/
theorem packetsComplete : Obligations.PacketsComplete := ⟨eachInputCompletes, eachTimerCompletes⟩

end Sys2Proof.Machine
end

section
/-! The life of a context: creation (R73), destruction (R257) and loss (R259). -/
namespace Sys2Proof.Machine
open Sys2Proof

/-! ## MSTATE and the rate -/

theorem State.reg_setMstate {s : State} {c v off : Nat} (h : off ≠ offCtx c cMSTATE) : (s.setMstate c v).reg off = s.reg off :=
  (State.physWrite_keeps _ _ _ _ (·.reg off) fun _ => rfl).trans (State.reg_setReg_ne h)

theorem State.mstate_setMstate (s : State) (c v : Nat) : (s.setMstate c v).mstate c = v % 8 := by
  have hcx : (s.setMstate c v).cx c cMSTATE = BitVec.ofNat 64 v := (State.physWrite_keeps _ _ _ _ (·.cx c cMSTATE) fun _ => rfl).trans (s.cx_setCx ..)
  unfold State.mstate State.cxF
  rw [hcx]
  unfold fld
  rw [BitVec.toNat_ofNat]
  omega

/-- What a change of MSTATE leaves: every field but HBM and the registers. -/
theorem State.setMstate_keeps (s : State) (c v : Nat) {α : Sort*} (f : State → α) (hf : ∀ h r, f { s with hbm := h, regs := r } = f s) :
    f (s.setMstate c v) = f s := by
  obtain ⟨h, e⟩ := (s.setCx c cMSTATE (BitVec.ofNat 64 v)).physWrite_eq c (s.cx c cSAVEVA) (leBytes 8 v)
  unfold State.setMstate
  rw [e]
  exact hf h _

theorem State.mstate_congr {s t : State} {c : Nat} (h : t.reg (offCtx c cMSTATE) = s.reg (offCtx c cMSTATE)) : t.mstate c = s.mstate c := by
  unfold State.mstate State.cxF State.cx
  rw [h]

theorem State.ctxExists_congr {s t : State} {c : Nat} (h : t.reg (offCtx c cLIFE) = s.reg (offCtx c cLIFE)) : t.ctxExists c = s.ctxExists c := by
  unfold State.ctxExists State.cx
  rw [h]

/-- ERATEF takes the rate in force, which is an input of the replay record (R245, R283). -/
theorem State.setRate_cases (s : State) (c : Nat) :
    s.setRate c = s ∨ State.Recorded c (s.setCx c cERATEF (BitVec.ofNat 64 (s.rateOf c))) (s.setRate c) := by
  unfold State.setRate
  dsimp only
  split
  · exact .inl rfl
  · exact .inr (State.recorded_recordInput ..)

theorem State.reg_setRate {s : State} {c off : Nat} (he : off ≠ offCtx c cERATEF) (hr : off ≠ offCtx c cREPLAY) : (s.setRate c).reg off = s.reg off := by
  obtain h | h := s.setRate_cases c
  · rw [h]
  · exact (h.reg hr).trans (State.reg_setReg_ne he)

/-- What a new rate leaves: every field but HBM, the registers and the undo logs. -/
theorem State.setRate_keeps (s : State) (c : Nat) {α : Sort*} (f : State → α) (hf : ∀ (t : State) h r l, f { t with hbm := h, regs := r, logs := l } = f t) :
    f (s.setRate c) = f s := by
  obtain h | h := s.setRate_cases c
  · rw [h]
  · exact (h.keeps f (hf _)).trans (hf s s.hbm _ s.logs)

/-! ## Creation (R73) -/

theorem State.reg_clear_other (l : List Nat) (f : Nat → Nat) {off : Nat} (h : ∀ n ∈ l, off ≠ f n) (s : State) :
    (l.foldl (fun s n => s.setReg (f n) 0) s).reg off = s.reg off :=
  List.foldlRecOn (motive := fun t : State => t.reg off = s.reg off) _ _ rfl fun _ ht n hn => (State.reg_setReg_ne (h n hn)).trans ht

theorem State.reg_clear {l : List Nat} (f : Nat → Nat) {off n : Nat} (hn : n ∈ l) (hoff : off = f n) (s : State) :
    (l.foldl (fun s n => s.setReg (f n) 0) s).reg off = 0 :=
  foldl_establishes (Q := fun t : State => t.reg off = 0) hn (fun t => by rw [hoff]; exact t.reg_setReg_self ..)
    (fun t m _ ht => (t.reg_setReg ..).trans (by rw [ht, ite_self])) s

/-- The registers of a context that its creation clears. -/
def createdRegs : List Nat := [cMSTATE, cUNDOWIN, cUNDOUSE, cIVNUM, cREPLAY, cEBUDGET]

/-- The registers that a creation clears, and the context's counters. -/
def State.cleared (s : State) (c : Nat) : State :=
  createdRegs.foldl (fun s o => s.setReg (offCtx c o) 0) ((s.countersOf c).foldl (fun s n => s.setReg (offCnt n) 0) s)

/-- The state of a context's creation before it runs: cleared, with the frames of its areas recorded. -/
def State.created (s : State) (c : Nat) : State :=
  { s.cleared c with
    saveFrames := (s.cleared c).saveFrames ++ (s.areas c).flatMap fun a => s.areaFrames c a.1 a.2
    logs := tput CtxLog.idle (s.cleared c).logs c CtxLog.idle, musters := tput Muster.idle (s.cleared c).musters c Muster.idle }

theorem exec_contextCreate {s : State} {c : Nat} (hc : c < 64) (hnew : s.ctxExists c = false) :
    (s.createErr c ≠ 0 → exec (.contextCreate c) s = .next (s.setCx c cLIFE (BitVec.ofNat 64 (s.createErr c * 2)))) ∧
    (s.createErr c = 0 → exec (.contextCreate c) s = .next ((((s.created c).setCx c cLIFE 1).setMstate c 0).setRate c)) := by
  have hgo : ¬ (s.ctxExists c || decide (64 ≤ c)) = true := by simp [hnew, Nat.not_le.mpr hc]
  refine ⟨fun h => ?_, fun h => ?_⟩
  · change execContextCreate c s = _
    unfold execContextCreate
    rw [if_neg hgo]
    exact if_pos h
  · change execContextCreate c s = _
    unfold execContextCreate
    rw [if_neg hgo]
    exact if_neg (not_not.mpr h)

theorem offCnt_ne_offCtx {c o n : Nat} (hn : n < 2 ^ 14) : offCnt n ≠ offCtx c o := by
  unfold offCnt offCtx
  omega

/-- What starting a context leaves: it exists and runs, and its other registers and the recorded frames are as they were. -/
theorem State.started_facts (s : State) (c : Nat) :
    (((s.setCx c cLIFE 1).setMstate c 0).setRate c).ctxExists c = true ∧ (((s.setCx c cLIFE 1).setMstate c 0).setRate c).mstate c = 0 ∧
      (((s.setCx c cLIFE 1).setMstate c 0).setRate c).saveFrames = s.saveFrames ∧
      ∀ off, (∀ o ∈ [cERATEF, cREPLAY, cMSTATE, cLIFE], off ≠ offCtx c o) → (((s.setCx c cLIFE 1).setMstate c 0).setRate c).reg off = s.reg off := by
  have hne {o p : Nat} (h : o ≠ p) : offCtx c o ≠ offCtx c p := fun e => h (Nat.add_left_cancel e)
  refine ⟨?_, ?_, ?_, fun off hoff => ?_⟩
  · rw [State.ctxExists_congr (State.reg_setRate (hne (by decide)) (hne (by decide))), State.ctxExists_congr (State.reg_setMstate (hne (by decide)))]
    unfold State.ctxExists
    rw [State.cx_setCx]
    decide
  · rw [State.mstate_congr (State.reg_setRate (hne (by decide)) (hne (by decide))), State.mstate_setMstate]
  · rw [State.setRate_keeps _ c (·.saveFrames) fun _ _ _ _ => rfl, State.setMstate_keeps _ c 0 (·.saveFrames) fun _ _ => rfl, State.setCx_saveFrames]
  · simp only [List.forall_mem_cons, List.not_mem_nil, false_imp_iff, implies_true, and_true] at hoff
    obtain ⟨he, hr, hm, hl⟩ := hoff
    rw [State.reg_setRate he hr, State.reg_setMstate hm]
    exact State.reg_setReg_ne hl

theorem State.reg_created (s : State) (c off : Nat) : (s.created c).reg off = (s.cleared c).reg off := by
  unfold State.created State.reg
  rfl

theorem State.created_counter {s : State} {c n : Nat} (hn : n < 2 ^ 14) (hown : s.ownsCnt c n = true) : (s.created c).reg (offCnt n) = 0 := by
  rw [State.reg_created, State.cleared, State.reg_clear_other createdRegs (offCtx c) fun _ _ => offCnt_ne_offCtx hn]
  exact State.reg_clear offCnt (List.mem_filter.mpr ⟨List.mem_range.mpr hn, hown⟩) rfl s

theorem State.created_budget (s : State) (c : Nat) : (s.created c).reg (offCtx c cEBUDGET) = 0 := by
  rw [State.reg_created, State.cleared]
  exact State.reg_clear (offCtx c) (by decide : cEBUDGET ∈ createdRegs) rfl _

theorem State.saveFrames_cleared (s : State) (c : Nat) : (s.cleared c).saveFrames = s.saveFrames := by
  have hclear (l : List Nat) (f : Nat → Nat) (t : State) : (l.foldl (fun s n => s.setReg (f n) 0) t).saveFrames = t.saveFrames :=
    List.foldlRecOn (motive := fun u : State => u.saveFrames = t.saveFrames) _ _ rfl fun _ hu _ _ => hu
  unfold State.cleared
  rw [hclear createdRegs (offCtx c), hclear (s.countersOf c) offCnt]

theorem State.created_saveFrames (s : State) (c : Nat) :
    (s.created c).saveFrames = s.saveFrames ++ (s.areas c).flatMap fun a => s.areaFrames c a.1 a.2 := by
  unfold State.created
  dsimp only
  rw [s.saveFrames_cleared c]

theorem exec_contextCreate_ok {s : State} {c : Nat} (hc : c < 64) (hnew : s.ctxExists c = false) (hok : s.createErr c = 0) :
    ∃ u, exec (.contextCreate c) s = .next u ∧ u.ctxExists c = true ∧ u.mstate c = 0 ∧ u.cxF c cEBUDGET 0 32 = 0 ∧
      (∀ n < 2 ^ 14, s.ownsCnt c n = true → u.cnt n = 0) ∧
      u.saveFrames = s.saveFrames ++ (s.areas c).flatMap (fun a => s.areaFrames c a.1 a.2) := by
  obtain ⟨hex, hm, hframes, hreg⟩ := (s.created c).started_facts c
  refine ⟨_, (exec_contextCreate hc hnew).2 hok, hex, hm, ?_, fun n hn hown => ?_, hframes.trans (s.created_saveFrames c)⟩
  · unfold State.cxF State.cx
    rw [hreg _ (by simp [offCtx, cEBUDGET, cERATEF, cREPLAY, cMSTATE, cLIFE]), s.created_budget c]
    decide
  · exact (hreg _ fun o _ => offCnt_ne_offCtx hn).trans (State.created_counter hn hown)

/-! ## Tasks that are to be removed -/

/-- A task of a context is marked for its removal. -/
def Task.marked (c : Nat) (why : Cause) (k : Task) : Task := if k.t.ctx = c then { k with fatal := some (k.fatal.getD why) } else k

theorem Task.ctx_marked (c : Nat) (why : Cause) (k : Task) : (k.marked c why).t = k.t := by
  unfold Task.marked
  split <;> rfl

theorem Task.fatal_marked {c : Nat} {k : Task} (h : k.t.ctx = c) (why : Cause) : (k.marked c why).fatal.isSome = true := by
  unfold Task.marked
  rw [if_pos h]
  rfl

theorem State.tiles_failTasks (s : State) (c : Nat) (why : Cause) :
    (s.failTasks c why).tiles = s.tiles.map fun e => (e.1, { e.2 with task := e.2.task.map (Task.marked c why), left := e.2.left.map (Task.marked c why) }) :=
  rfl

/-- Every placed task of the context has its fatal cause. -/
theorem State.fatal_failTasks (s : State) (c : Nat) (why : Cause) :
    ∀ e ∈ (s.failTasks c why).tiles, ∀ k, e.2.task = some k → k.t.ctx = c → k.fatal.isSome = true := by
  rw [State.tiles_failTasks]
  intro e he k hk hctx
  obtain ⟨e0, -, rfl⟩ := List.mem_map.mp he
  obtain ⟨k0, -, rfl⟩ := Option.map_eq_some_iff.mp hk
  exact Task.fatal_marked ((congrArg _ (k0.ctx_marked c why)).symm.trans hctx) why

theorem State.mstate_failTasks (s : State) (c x : Nat) (why : Cause) : (s.failTasks c why).mstate x = s.mstate x := rfl

/-! ## Loss (R259) -/

/-- The header of the save area and the report of its loss leave MSTATE and the tiles. -/
theorem State.lost_facts (s : State) (c x : Nat) (va : Word) (bs : List Byte) (why : Cause) :
    ((s.physWrite x va bs).report why c 0 0 0).mstate c = s.mstate c ∧ ((s.physWrite x va bs).report why c 0 0 0).tiles = s.tiles := by
  have hrep := (s.physWrite x va bs).reported_report why c 0 0 0
  have hreg : (s.physWrite x va bs).reg (offCtx c cMSTATE) = s.reg (offCtx c cMSTATE) := s.physWrite_keeps _ _ _ (·.reg (offCtx c cMSTATE)) fun _ => rfl
  exact ⟨State.mstate_congr ((hrep.reg (not_inRlog_offCtx c cMSTATE)).trans hreg),
    (hrep.keeps (·.tiles) fun _ _ _ => rfl).trans (s.physWrite_keeps _ _ _ (·.tiles) fun _ => rfl)⟩

theorem exec_saveAreaLost {s : State} {c : Nat} (off : Nat) (hex : s.ctxExists c = true) (hm : s.mstate c ≠ 4) :
    ∃ u, exec (.saveAreaLost c off) s = .next u ∧ u.mstate c = 4 ∧ ∀ e ∈ u.tiles, ∀ k, e.2.task = some k → k.t.ctx = c → k.fatal.isSome = true := by
  obtain ⟨hms, htiles⟩ := ((s.setMstate c 4).failTasks c .eccUncorrectable).lost_facts c c (s.cx c cSAVEVA + 8) (leBytes 8 s.ccc.toNat ++ leBytes 8 off)
    .eccUncorrectable
  have hrun : exec (.saveAreaLost c off) s = .next ((((s.setMstate c 4).failTasks c .eccUncorrectable).physWrite c (s.cx c cSAVEVA + 8)
      (leBytes 8 s.ccc.toNat ++ leBytes 8 off)).report .eccUncorrectable c 0 0 0) := by
    change execSaveAreaLost c off s = _
    unfold execSaveAreaLost
    rw [if_neg (by simp [hex, hm])]
  refine ⟨_, hrun, hms.trans ((State.mstate_failTasks ..).trans (s.mstate_setMstate c 4)), ?_⟩
  rw [htiles]
  exact State.fatal_failTasks _ _ _

end Sys2Proof.Machine
end

section
/-! The destruction of a context (R257). -/
namespace Sys2Proof.Machine
open Sys2Proof

/-! ## Its threads -/

theorem State.thr_endRun (s : State) (n m : Nat) :
    (s.endRun n).thr m = if m = n then { s.thr n with running := false, st := .idle, sc := .idle, arr := none } else s.thr m :=
  State.thr_modThr (s.forgetSent (.thread n) (s.thr n).serial.toNat) n m fun x => { x with running := false, st := .idle, sc := .idle, arr := none }

theorem tget_mem {α : Type} {d : α} {t : Tab α} {k : Nat} (h : tget d t k ≠ d) : (k, tget d t k) ∈ t := by
  induction t with
  | nil => exact absurd rfl h
  | cons e t ih =>
    obtain ⟨j, v⟩ := e
    by_cases hj : j = k
    · rw [show tget d ((j, v) :: t) k = v from if_pos hj, hj]
      exact List.mem_cons_self
    · rw [show tget d ((j, v) :: t) k = tget d t k from if_neg hj] at h ⊢
      exact List.mem_cons_of_mem _ (ih h)

/-- The threads of a context that run. -/
def State.runningOf (s : State) (c : Nat) : List Nat := (s.threads.filter fun e => e.2.running && e.2.ctx == c).map (·.1)

theorem State.mem_runningOf {s : State} {c n : Nat} (hr : (s.thr n).running = true) (hc : (s.thr n).ctx = c) : n ∈ s.runningOf c := by
  have hne : s.thr n ≠ Thread.idle := fun h => by
    rw [h] at hr
    exact Bool.false_ne_true hr
  exact List.mem_map.mpr ⟨_, List.mem_filter.mpr ⟨tget_mem hne, Bool.and_eq_true_iff.mpr ⟨hr, beq_iff_eq.mpr hc⟩⟩, rfl⟩

/-- The runs of the context's threads end. -/
def State.endRuns (s : State) (c : Nat) : State := (s.runningOf c).foldl State.endRun s

/-- When their runs have ended, no thread of the context runs. -/
theorem State.not_running_endRuns (s : State) (c n : Nat) (h : ((s.endRuns c).thr n).running = true) : ((s.endRuns c).thr n).ctx ≠ c := by
  by_cases hn : n ∈ s.runningOf c
  · have hidle : ((s.endRuns c).thr n).running = false :=
      foldl_establishes (Q := fun t : State => (t.thr n).running = false) hn (fun t => by rw [State.thr_endRun, if_pos rfl])
        (fun t m _ ht => by
          rw [State.thr_endRun]
          split
          · rfl
          · exact ht) s
    exact absurd (hidle.symm.trans h) Bool.false_ne_true
  · have hsame : (s.endRuns c).thr n = s.thr n :=
      List.foldlRecOn (motive := fun t : State => t.thr n = s.thr n) _ _ rfl fun t ht m hm => by
        rw [State.thr_endRun, if_neg (ne_of_mem_of_not_mem hm hn).symm]
        exact ht
    rw [hsame] at h ⊢
    exact fun hc => hn (State.mem_runningOf h hc)

/-! ## What dissolving leaves -/

/-- The context's entries are disarmed. -/
def State.disarmAll (s : State) (c : Nat) : State := ((s.entries.filter fun e => eValid e.2 && eCtx e.2 == c).map (·.1)).foldl State.disarm s

/-- The context's counters are cleared. -/
def State.zeroCounters (s : State) (c : Nat) : State := (s.countersOf c).foldl (fun s n => s.setReg (offCnt n) 0) s

/-- Pages of a context are unpinned. -/
def State.unpinAll (s : State) (c : Nat) (pages : List Word) : State := pages.foldl (fun s p => s.unpin c p) s

/-- The state once a context's threads, entries, counters and save area are given up. -/
def State.emptied (s : State) (c : Nat) : State :=
  (((s.endRuns c).disarmAll c).zeroCounters c).unpinAll c (areaPages ((((s.endRuns c).disarmAll c).zeroCounters c).cx c cSAVEVA) saveLen)

/-- What is dropped with a context once it is emptied. -/
def State.swept (s : State) (c : Nat) : State :=
  { s with
    tiles := s.tiles.map fun e => (e.1, { e.2 with
      tq := (e.2.tq.map fun q => (q.1, { q.2 with tasks := q.2.tasks.filter fun k => k.ctx != c })).filter fun q => q.2 != TaskQueue.idle
      rerun := e.2.rerun.filter fun r => r.2.1.ctx != c })
    actions := s.actions.filter fun f => f.ctx != c
    ferryRels := s.ferryRels.filter fun r => r.ctx != c
    wakes := (s.wakes.map fun e => (e.1, e.2.filter fun k => k.ctx != c)).filter fun e => !e.2.isEmpty
    copies := (s.copies.map fun e => (e.1, e.2.filter fun k => k.ctx != c)).filter fun e => !e.2.isEmpty
    faultSigs := s.faultSigs.filter fun x => x.ctx != c
    colls := s.colls.filter fun e => !(s.regF (offCengOwn e.1) 1 6 == c && bit (s.reg (offCengOwn e.1)) 0)
    pubs := s.pubs.filter fun p => p.ctx != c
    saveFrames := s.saveFrames.filter fun f => f.1 != c
    logs := tput CtxLog.idle s.logs c CtxLog.idle, musters := tput Muster.idle s.musters c Muster.idle
    destroying := s.destroying.filter (· != c) }

theorem State.dissolve_eq (s : State) (c : Nat) :
    s.dissolve c = (((s.emptied c).swept c).emptyTlbs c).setCx c cLIFE (setFld (((s.emptied c).swept c).cx c cLIFE) 0 1 0) := by
  unfold State.dissolve State.emptied State.unpinAll State.zeroCounters State.disarmAll State.endRuns State.runningOf
  rfl

theorem State.threads_disarm (s : State) (i : Nat) : (s.disarm i).threads = s.threads := by
  unfold State.disarm
  dsimp only
  split
  · rfl
  · split
    · rfl
    · rfl

theorem State.threads_unpin (s : State) (c : Nat) (va : Word) : (s.unpin c va).threads = s.threads := by
  unfold State.unpin
  split <;> rfl

theorem State.threads_foldl {α : Type} {f : State → α → State} (hf : ∀ s a, (f s a).threads = s.threads) (l : List α) (s : State) :
    (l.foldl f s).threads = s.threads :=
  List.foldlRecOn (motive := fun t : State => t.threads = s.threads) l f rfl fun t ht a _ => (hf t a).trans ht

theorem State.threads_emptied (s : State) (c : Nat) : (s.emptied c).threads = (s.endRuns c).threads := by
  have hunpin (t : State) (pages : List Word) : (t.unpinAll c pages).threads = t.threads := State.threads_foldl (fun s p => s.threads_unpin c p) pages t
  have hzero (t : State) : (t.zeroCounters c).threads = t.threads := State.threads_foldl (f := fun s n => s.setReg (offCnt n) 0) (fun _ _ => rfl) _ t
  have hdisarm (t : State) : (t.disarmAll c).threads = t.threads := State.threads_foldl State.threads_disarm _ t
  rw [State.emptied, hunpin, hzero, hdisarm]

/-- What is left of a context once it is emptied. -/
theorem State.swept_facts (s : State) (c : Nat) (v : Word) : ((((s.swept c).emptyTlbs c).setCx c cLIFE v).threads = s.threads) ∧
    (∀ f ∈ (((s.swept c).emptyTlbs c).setCx c cLIFE v).actions, f.ctx ≠ c) ∧ ∀ f ∈ (((s.swept c).emptyTlbs c).setCx c cLIFE v).saveFrames, f.1 ≠ c :=
  ⟨rfl, fun _ hf => bne_iff_ne.mp (List.mem_filter.mp hf).2, fun _ hf => bne_iff_ne.mp (List.mem_filter.mp hf).2⟩

theorem State.ctxExists_setLife (s : State) (c : Nat) (v : Word) : (s.setCx c cLIFE (setFld v 0 1 0)).ctxExists c = false := by
  unfold State.ctxExists
  rw [State.cx_setCx, bit_setFld _ _ (by decide)]
  rfl

theorem State.dissolve_facts (s : State) (c : Nat) : (s.dissolve c).threads = (s.endRuns c).threads ∧ (s.dissolve c).ctxExists c = false ∧
    (∀ f ∈ (s.dissolve c).actions, f.ctx ≠ c) ∧ ∀ f ∈ (s.dissolve c).saveFrames, f.1 ≠ c := by
  obtain ⟨hthreads, hactions, hframes⟩ := (s.emptied c).swept_facts c (setFld (((s.emptied c).swept c).cx c cLIFE) 0 1 0)
  rw [← s.dissolve_eq c] at hthreads hactions hframes
  exact ⟨hthreads.trans (s.threads_emptied c), by rw [s.dissolve_eq c, State.ctxExists_setLife], hactions, hframes⟩

/-! ## The event (R257) -/

section
variable {s : State} {c : Nat}

/-- The state of a destruction that has begun: the context's tasks are marked for their removal. -/
def State.condemned (s : State) (c : Nat) : State :=
  State.failTasks { s with destroying := if s.destroying.contains c then s.destroying else c :: s.destroying } c .taskAbort

/-- A task of the context is placed, left or saved. -/
def State.holdsTask (s : State) (c : Nat) : Bool :=
  s.tiles.any fun e => e.2.task.any (fun k => k.t.ctx == c) || e.2.left.any (fun k => k.t.ctx == c) ||
    e.2.tq.any fun q => q.2.tasks.any fun k => k.saved && k.ctx == c

theorem State.holdsTask_condemned (s : State) (c : Nat) : (s.condemned c).holdsTask c = s.holdsTask c := by
  have hmark (k : Task) : ((k.marked c .taskAbort).t.ctx == c) = (k.t.ctx == c) := by rw [Task.ctx_marked]
  unfold State.holdsTask State.condemned
  rw [State.tiles_failTasks, List.any_map]
  refine congrArg (List.any _) (funext fun e => ?_)
  simp only [Function.comp_apply, Option.any_map, List.any_map, hmark, Function.comp_def]

theorem exec_contextDestroy (hex : s.ctxExists c = true) :
    exec (.contextDestroy c) s = .next (if s.holdsTask c then s.condemned c else (s.condemned c).dissolve c) := by
  rw [← s.holdsTask_condemned c]
  change execContextDestroy c s = _
  unfold execContextDestroy
  rw [if_neg (by simp [hex])]
  exact (apply_ite Host.Outcome.next _ _ _).symm

theorem exec_contextDestroy_done (hex : s.ctxExists c = true)
    (hnone : ∀ e ∈ s.tiles, (∀ k, e.2.task = some k → k.t.ctx ≠ c) ∧ (∀ k ∈ e.2.left, k.t.ctx ≠ c) ∧
      ∀ q ∈ e.2.tq, ∀ k ∈ q.2.tasks, k.saved = true → k.ctx ≠ c) :
    ∃ u, exec (.contextDestroy c) s = .next u ∧ u.ctxExists c = false ∧ (∀ f ∈ u.saveFrames, f.1 ≠ c) ∧ (∀ f ∈ u.actions, f.ctx ≠ c) ∧
      ∀ n < 1024, (u.thr n).running = true → (u.thr n).ctx ≠ c := by
  have hfree : s.holdsTask c = false := by
    unfold State.holdsTask
    rw [List.any_eq_false]
    intro e he
    obtain ⟨htask, hleft, htq⟩ := hnone e he
    rw [Bool.not_eq_true, Bool.or_eq_false_iff, Bool.or_eq_false_iff, Option.any_eq_false, List.any_eq_false, List.any_eq_false]
    refine ⟨⟨fun k hk => ?_, fun k hk => ?_⟩, fun q hq => ?_⟩
    · simpa using htask k hk
    · simpa using hleft k hk
    · rw [List.any_eq_true]
      rintro ⟨k, hk, hs⟩
      rw [Bool.and_eq_true_iff, beq_iff_eq] at hs
      exact htq q hq k hk hs.1 hs.2
  obtain ⟨hthreads, hlife, hactions, hframes⟩ := (s.condemned c).dissolve_facts c
  refine ⟨(s.condemned c).dissolve c, by rw [exec_contextDestroy hex, hfree]; rfl, hlife, hframes, hactions, fun n _ => ?_⟩
  have hthr : ((s.condemned c).dissolve c).thr n = ((s.condemned c).endRuns c).thr n := congrArg (fun t : Tab Thread => tget Thread.idle t n) hthreads
  rw [hthr]
  exact State.not_running_endRuns (s.condemned c) c n

theorem exec_contextDestroy_waits (hex : s.ctxExists c = true) (htask : ∃ e ∈ s.tiles, ∃ k, e.2.task = some k ∧ k.t.ctx = c) :
    ∃ u, exec (.contextDestroy c) s = .next u ∧ u.ctxExists c = true ∧ ∀ e ∈ u.tiles, ∀ k, e.2.task = some k → k.t.ctx = c → k.fatal.isSome = true := by
  have hholds : s.holdsTask c = true := by
    obtain ⟨e, he, k, hk, hc⟩ := htask
    refine List.any_eq_true.mpr ⟨e, he, ?_⟩
    rw [hk, Option.any_some, hc, beq_self_eq_true]
    rfl
  exact ⟨s.condemned c, by rw [exec_contextDestroy hex, hholds]; rfl, hex, State.fatal_failTasks _ c .taskAbort⟩

end

theorem contextLife : ContextLife :=
  ⟨fun _ _ hc hnew => ⟨(exec_contextCreate hc hnew).1, exec_contextCreate_ok hc hnew⟩,
    fun _ _ hex _ => ⟨exec_contextDestroy_done hex, exec_contextDestroy_waits hex, fun off hm => exec_saveAreaLost off hex hm⟩⟩

end Sys2Proof.Machine
end

section
/-! Registers whose writes have rules of their own (R30, R104, R105, R113, R137, R202, R276, R285, R458). -/
namespace Sys2Proof.Machine
open Sys2Proof

section
variable {s : State}

/-! ## STRAIT.GEOM and XLAT.CTL (R30, R113) -/

theorem State.putGeom_eq (s : State) (v : Word) :
    ((∀ n < 6, s.linkState n = 0) → s.putGeom v = s.setReg offGeom (v &&& 0xFFFFF)) ∧ ((∃ n < 6, s.linkState n ≠ 0) → s.putGeom v = s) := by
  unfold State.putGeom
  refine ⟨fun h => if_pos ?_, fun ⟨n, hn, h⟩ => if_neg fun hall => h ?_⟩
  · exact List.all_eq_true.mpr fun n hn => beq_iff_eq.mpr (h n (List.mem_range.mp hn))
  · exact beq_iff_eq.mp (List.all_eq_true.mp hall n (List.mem_range.mpr hn))

/-- MODE after a write: it clears only in a domain of at most 64 packages. -/
def State.xlatMode (s : State) (v : Word) : Bool := bit v 0 || decide (64 < s.dimX * s.dimY * s.dimZ) && bit (s.reg offXlatCtl) 0

theorem State.reg_putXlatCtl (s : State) (v : Word) :
    (s.putXlatCtl v).reg offXlatCtl = BitVec.ofNat 64 ((s.xlatMode v).toNat + max 1 (fld v 1 10) * 2) := by
  unfold State.putXlatCtl State.xlatMode
  dsimp only
  rw [State.reg_setReg_self]
  generalize (bit v 0 || decide (64 < s.dimX * s.dimY * s.dimZ) && bit (s.reg offXlatCtl) 0) = b
  cases b <;> rfl

theorem State.putXlatCtl_facts (s : State) (v : Word) :
    (s.putXlatCtl v).regF offXlatCtl 1 10 = max 1 (fld v 1 10) ∧ bit ((s.putXlatCtl v).reg offXlatCtl) 0 = s.xlatMode v := by
  have hfld : fld v 1 10 < 1024 := Nat.mod_lt _ (by decide)
  have hb : (s.xlatMode v).toNat < 2 := Bool.toNat_lt _
  have hx : max 1 (fld v 1 10) < 1024 := by omega
  unfold State.regF
  rw [State.reg_putXlatCtl]
  generalize max 1 (fld v 1 10) = x at hx
  refine ⟨?_, ?_⟩
  · unfold fld
    rw [BitVec.toNat_ofNat, Nat.shiftRight_eq_div_pow]
    omega
  · unfold bit
    rw [← BitVec.testBit_toNat, BitVec.toNat_ofNat, Nat.testBit_zero]
    cases s.xlatMode v
    · simp
    · simp

/-! ## Windows, slots and engines (R104, R105, R137, R458) -/

theorem exec_windowEntryWrite {rx : Bool} {n : Nat} {v : BitVec 128} (hn : n < 4096) :
    (bit v 0 = false ∨ s.windowPinned (v &&& winMask) = true →
      exec (.windowEntryWrite rx n v) s = .next (s.setReg128 (if rx then offRxw n else offTxw n) (v &&& winMask))) ∧
    (bit v 0 = true → s.windowPinned (v &&& winMask) = false →
      exec (.windowEntryWrite rx n v) s = .next (s.windowError (if rx then 1 else 0) n)) := by
  have hmask : bit (v &&& winMask) 0 = bit v 0 := by
    unfold bit
    rw [BitVec.getLsbD_and, show winMask.getLsbD 0 = true by decide, Bool.and_true]
  have hrun : exec (.windowEntryWrite rx n v) s = .next (s.putWindow rx n v) := by
    change Host.Outcome.next (s.putWindow rx (n % 4096) v) = _
    rw [Nat.mod_eq_of_lt hn]
  rw [hrun]
  unfold State.putWindow
  dsimp only
  rw [hmask]
  refine ⟨fun h => congrArg _ (if_neg ?_), fun hv hp => congrArg _ (if_pos (by rw [hv, hp]; rfl))⟩
  obtain h | h := h <;> simp [h]

theorem exec_txdstWrite {n : Nat} (v : Word) (hn : n < 65536) :
    exec (.txdstWrite n v) s = .next (if s.isMember (fld (s.reg128 (offTxw (n / 16))) 1 6) (fld v 1 10) then s.setReg (offTxDst n) (v &&& 0x7FFFFF)
      else s.windowError 2 n) := by
  change Host.Outcome.next (s.putTxdst (n % 65536) v) = _
  unfold State.putTxdst
  rw [Nat.mod_eq_of_lt hn]
  dsimp only
  cases s.isMember (fld (s.reg128 (offTxw (n / 16))) 1 6) (fld v 1 10) <;> rfl

theorem exec_cengOwnWrite {n : Nat} (v : Word) (hn : n < 16) :
    ((s.coll n).run = none → (s.coll n).queue = [] → exec (.cengOwnWrite n v) s = .next (s.setReg (offCengOwn n) (v &&& 0x7F))) ∧
    ((s.coll n).run.isSome = true ∨ (s.coll n).queue ≠ [] → exec (.cengOwnWrite n v) s = .next s) := by
  have hrun : exec (.cengOwnWrite n v) s = .next (s.putCengOwn n v) := by
    change Host.Outcome.next (s.putCengOwn (n % 16) v) = _
    rw [Nat.mod_eq_of_lt hn]
  rw [hrun]
  unfold State.putCengOwn
  refine ⟨fun hr hq => congrArg _ (if_neg (by simp [hr, hq])), fun h => congrArg _ (if_pos ?_)⟩
  obtain h | h := h <;> simp [h]

/-! ## UNDOWIN (R276) -/

theorem dropRecs_facts (c : Nat) (gone : UndoRec → Bool) :
    (CtxLog.of (s.dropRecs c gone) c).recs = (CtxLog.of s c).recs.filter (fun r => !gone r) ∧
      ∀ off, off ≠ offCtx c cUNDOUSE → (s.dropRecs c gone).reg off = s.reg off := by
  have hfree (l : List UndoRec) (t : State) : (l.foldl (fun s r => s.modTile r.tile fun x => { x with undoBuf := x.undoBuf - r.bytes }) t).logs = t.logs ∧
      (l.foldl (fun s r => s.modTile r.tile fun x => { x with undoBuf := x.undoBuf - r.bytes }) t).regs = t.regs :=
    List.foldlRecOn (motive := fun u : State => u.logs = t.logs ∧ u.regs = t.regs) _ _ ⟨rfl, rfl⟩ fun _ hu _ _ => hu
  unfold State.dropRecs
  extract_lets out s1 s2
  obtain ⟨hlogs, hregs⟩ := hfree (out.filter (·.inBuf)) s2
  refine ⟨?_, fun off hoff => ?_⟩
  · unfold CtxLog.of
    rw [hlogs]
    exact congrArg CtxLog.recs (tget_tput_self ..)
  · exact (State.reg_of_regs hregs off).trans (State.reg_setReg_ne hoff)

theorem exec_undowinOldestWrite {c : Nat} (v : BitVec 32) :
    let old := s.cxF c cUNDOWIN 0 32
    let ahead := (v - BitVec.ofNat 32 old).toNat
    (2 ^ 31 ≤ ahead → exec (.undowinOldestWrite c v) s = .next s) ∧
    (ahead < 2 ^ 31 → ∃ u, exec (.undowinOldestWrite c v) s = .next u ∧ u.cxF c cUNDOWIN 0 32 = min (old + ahead) (s.oldestLimit c) % 2 ^ 32 ∧
      ∀ r, r ∈ (CtxLog.of u c).recs ↔ r ∈ (CtxLog.of s c).recs ∧ (r.win - BitVec.ofNat 32 (u.cxF c cUNDOWIN 0 32)).toNat < 2 ^ 31) := by
  intro old ahead
  have hold : old < 2 ^ 32 := Nat.mod_lt _ (by decide)
  have hahead : (v.toNat + 2 ^ 32 - old) % 2 ^ 32 = ahead := by
    dsimp only [ahead]
    rw [BitVec.toNat_sub, BitVec.toNat_ofNat, Nat.mod_eq_of_lt hold]
    omega
  have hrun : exec (.undowinOldestWrite c v) s = if 2 ^ 31 ≤ ahead then .next s else
      .next ((s.dropRecs c fun r => !passed32 r.win (BitVec.ofNat 32 (min (old + ahead) (s.oldestLimit c)))).setCx c cUNDOWIN
        (setFld ((s.dropRecs c fun r => !passed32 r.win (BitVec.ofNat 32 (min (old + ahead) (s.oldestLimit c)))).cx c cUNDOWIN) 0 32
          (BitVec.ofNat 32 (min (old + ahead) (s.oldestLimit c))).toNat)) := by
    rw [← hahead]
    rfl
  refine ⟨fun h => hrun.trans (if_pos h), fun h => ⟨_, hrun.trans (if_neg (Nat.not_le.mpr h)), ?_⟩⟩
  generalize hw : BitVec.ofNat 32 (min (old + ahead) (s.oldestLimit c)) = w
  have hwin (t : State) (x : Word) : (t.setCx c cUNDOWIN (setFld x 0 32 w.toNat)).cxF c cUNDOWIN 0 32 = w.toNat := by
    unfold State.cxF
    rw [State.cx_setCx, fld_setFld _ _ (by decide), Nat.mod_eq_of_lt w.isLt]
  refine ⟨(hwin ..).trans (by rw [← hw, BitVec.toNat_ofNat]), fun r => ?_⟩
  have hrecs : (CtxLog.of (State.setCx (s.dropRecs c fun r => !passed32 r.win w) c cUNDOWIN
      (setFld ((s.dropRecs c fun r => !passed32 r.win w).cx c cUNDOWIN) 0 32 w.toNat)) c).recs = _ := (dropRecs_facts c fun r => !passed32 r.win w).1
  rw [hwin, hrecs, BitVec.ofNat_toNat, BitVec.setWidth_eq, List.mem_filter, Bool.not_not]
  exact and_congr_right fun _ => decide_eq_true_iff

/-! ## PLAY and the slot tables (R285, R202) -/

theorem exec_replayPlayClear {c : Nat} :
    (s.playing c = true → s.mstate c = 3 → exec (.replayPlayClear c) s = .next (s.setCx c cREPLAY (s.cx c cREPLAY &&& ~~~ 2))) ∧
    (s.playing c = false ∨ s.mstate c ≠ 3 → exec (.replayPlayClear c) s = .next s) := by
  refine ⟨fun hp hm => if_pos (by rw [hp, hm]; rfl), fun h => if_neg ?_⟩
  obtain h | h := h <;> simp [h]

theorem State.playing_endPlay (s : State) (c : Nat) : (s.setCx c cREPLAY (s.cx c cREPLAY &&& ~~~ 2)).playing c = false := by
  unfold State.playing bit
  rw [State.cx_setCx, BitVec.getLsbD_and, show (~~~ (2 : Word)).getLsbD 1 = false by decide, Bool.and_false]

theorem exec_slotTableUpdate {d o : Nat} {v : Word} (hnew : s.slotNew = [(o, v)]) (hd : (o - 0x700000) / 0x10000 = d) :
    (s.ccc.toNat % 256 = 0 → exec (.slotTableUpdate d) s = .next { s.setReg o v with slotNew := [] }) ∧
    (s.ccc.toNat % 256 ≠ 0 → exec (.slotTableUpdate d) s = .next s) := by
  refine ⟨fun hc => ?_, fun hc => if_pos hc⟩
  change execSlotTableUpdate d s = _
  unfold execSlotTableUpdate
  rw [if_neg (not_not.mpr hc)]
  dsimp only
  rw [hnew, List.filter_singleton, List.filter_singleton, hd, beq_self_eq_true]
  rfl

end

theorem registerRules : RegisterRules := by
  refine ⟨fun s v => ⟨fun h => ?_, fun h => ?_, s.putXlatCtl v, rfl, ?_⟩, ?_, ?_, fun s n v hn => exec_cengOwnWrite v hn, ?_,
    fun s c _ => ⟨fun hp hm => ⟨exec_replayPlayClear.1 hp hm, s.playing_endPlay c⟩, exec_replayPlayClear.2⟩,
    fun s d o v hnew hd => exec_slotTableUpdate hnew hd⟩
  · exact congrArg Host.Outcome.next ((s.putGeom_eq v).1 h)
  · exact congrArg Host.Outcome.next ((s.putGeom_eq v).2 h)
  · obtain ⟨htmo, hmode⟩ := s.putXlatCtl_facts v
    rw [hmode]
    refine ⟨htmo, fun h => ?_, fun h hdim => ?_, fun hdim h => ?_⟩
    · rw [State.xlatMode, h, Bool.true_or]
    · rw [State.xlatMode, h, decide_eq_false (Nat.not_lt.mpr hdim)]
      rfl
    · rw [State.xlatMode, h, decide_eq_true hdim, Bool.and_self, Bool.or_true]
  · intro s rx n v hn place
    exact exec_windowEntryWrite hn
  · intro s n v hn c
    rw [exec_txdstWrite v hn]
    exact ⟨fun h => congrArg _ (if_pos h), fun h => congrArg _ (if_neg (Bool.eq_false_iff.mp h))⟩
  · intro s c v _ old ahead
    obtain ⟨hback, hon⟩ := exec_undowinOldestWrite (s := s) (c := c) v
    refine ⟨hback, fun h => ?_⟩
    obtain ⟨u, hu, hw, hrecs⟩ := hon h
    exact ⟨u, hu, hw, fun r hr => ((hrecs r).mp hr).2, fun r hr hp => (hrecs r).mpr ⟨hr, hp⟩⟩

/-- Settles O23: what a context's creation, loss and destruction leave, and each register by what a good and a bad write of it do. -/
theorem contextsAndRegisters : Obligations.ContextsAndRegisters := ⟨contextLife, registerRules⟩

end Sys2Proof.Machine
end

section
/-! Musters (R260, R441). -/
namespace Sys2Proof.Machine
open Sys2Proof

section
variable {s s1 : State} {c : Nat}

/-! ## What a change of MSTATE leaves of a drain -/

theorem offRxw_ne_offCtx {w c o : Nat} (hw : w < 4096) (i : Nat) (hi : i ≤ 8) : offRxw w + i ≠ offCtx c o := by
  unfold offRxw offCtx
  omega

theorem State.packetCtx_setMstate (s : State) (c v : Nat) (p : Packet) : (s.setMstate c v).packetCtx p = s.packetCtx p := by
  have hw : fld p.word2 0 12 < 4096 := Nat.mod_lt _ (by decide)
  have hlow : (s.setMstate c v).reg (offRxw (fld p.word2 0 12)) = s.reg (offRxw (fld p.word2 0 12)) :=
    State.reg_setMstate (offRxw_ne_offCtx hw 0 (by decide))
  unfold State.packetCtx State.reg128
  rw [hlow, State.reg_setMstate (offRxw_ne_offCtx hw 8 (by decide))]

theorem State.allDrained_setMstate (s : State) (c v x : Nat) : (s.setMstate c v).allDrained x = s.allDrained x := by
  have hout (t : Nat) (k : Task) : (s.setMstate c v).outstanding t k = s.outstanding t k := s.setMstate_keeps c v (·.outstanding t k) fun _ _ => rfl
  unfold State.allDrained
  simp only [State.packetCtx_setMstate, hout]
  rw [s.setMstate_keeps c v (·.stores) fun _ _ => rfl, s.setMstate_keeps c v (·.sent) fun _ _ => rfl, s.setMstate_keeps c v (·.updates) fun _ _ => rfl,
    s.setMstate_keeps c v (·.migrations) fun _ _ => rfl, s.setMstate_keeps c v (·.heldAll) fun _ _ => rfl, s.setMstate_keeps c v (·.colls) fun _ _ => rfl,
    s.setMstate_keeps c v (·.actions) fun _ _ => rfl, s.setMstate_keeps c v (·.ferryRels) fun _ _ => rfl, s.setMstate_keeps c v (·.tiles) fun _ _ => rfl]

theorem State.muster_setMstate (s : State) (c v x : Nat) : (s.setMstate c v).muster x = s.muster x := s.setMstate_keeps c v (·.muster x) fun _ _ => rfl

theorem State.muster_modMuster_self (s : State) (c : Nat) (f : Muster → Muster) : (s.modMuster c f).muster c = f (s.muster c) :=
  (s.muster_modMuster ..).trans (if_pos rfl)

theorem State.musterGo_of_mstate (h : s.mstate c ≠ 2) : s.musterGo c = s := by
  unfold State.musterGo
  dsimp only
  rw [if_neg (by simp [h])]

/-! ## From STOPPING to MUSTERED (R260) -/

theorem exec_musterDrained_other (h1 : s.mstate c ≠ 1) (h2 : s.mstate c ≠ 2) : exec (.musterDrained c) s = .next s := if_pos ⟨h1, h2⟩

/-- MUSTER_DRAINED's three steps: threads stop, STOPPING ends, and the members are told. -/
theorem exec_musterDrained_steps {s2 s3 : State} (hm : s.mstate c = 1 ∨ s.mstate c = 2)
    (h1 : (if s.mstate c = 1 then (s.threads.map (·.1)).foldl (fun s n => s.stopThread c n) s else s) = s1)
    (h2 : (if s1.mstate c = 1 && s1.allStopped c then s1.setMstate c 2 else s1) = s2)
    (h3 : (if s2.mstate c = 2 && !(s2.muster c).drained && s2.allDrained c then s2.tellDrained c else s2) = s3) :
    exec (.musterDrained c) s = .next (s3.musterGo c) := by
  subst h1 h2 h3
  exact if_neg fun h => hm.elim h.1 h.2

theorem exec_musterDrained_stopped (hm : s.mstate c = 1) (hthreads : s.threads = []) (hstop : s.allStopped c = true) (hdrain : s.allDrained c = false)
    (htold : (s.muster c).drained = false) : exec (.musterDrained c) s = .next (s.setMstate c 2) := by
  refine (exec_musterDrained_steps (s1 := s) (s2 := s.setMstate c 2) (s3 := s.setMstate c 2) (.inl hm) ?_ ?_ ?_).trans (congrArg _ ?_)
  · rw [if_pos hm, hthreads, List.map_nil, List.foldl_nil]
  · rw [hm, hstop, if_pos (by decide)]
  · rw [State.allDrained_setMstate, hdrain, Bool.and_false, if_neg Bool.false_ne_true]
  · unfold State.musterGo
    dsimp only
    rw [State.muster_setMstate, htold, Bool.and_false, Bool.false_and, if_neg Bool.false_ne_true]

/-- A muster of this chip alone tells nobody else. -/
theorem State.tellDrained_alone (h : (s.muster c).alone = true) :
    s.tellDrained c = (s.modMuster c fun m => { m with drained := true }).keepNotice c s.chip (s.muster c).id := by
  unfold State.tellDrained
  dsimp only
  rw [h, if_pos rfl]
  rfl

theorem State.answerMuster_facts (s : State) (c : Nat) (f : Muster → Muster) :
    ((s.modMuster c f).answerMuster c).logs = s.logs ∧ ((s.modMuster c f).answerMuster c).mstate c = s.mstate c := ⟨rfl, rfl⟩

/-- MUSTERED, with nothing that waits for it. -/
theorem State.mustered_nothing (h : (CtxLog.of s c).after = .nothing) :
    s.mustered c = ((s.setMstate c 3).modMuster c fun m => { m with ccc := s.ccc }).answerMuster c := by
  have hlog : CtxLog.of (((s.setMstate c 3).modMuster c fun m => { m with ccc := s.ccc }).answerMuster c) c = CtxLog.of s c := by
    unfold CtxLog.of
    rw [(State.answerMuster_facts ..).1, s.setMstate_keeps c 3 (·.logs) fun _ _ => rfl]
  unfold State.mustered
  dsimp only
  rw [hlog, h]

theorem exec_musterDrained_alone (hm : s.mstate c = 2) (htold : (s.muster c).drained = false) (hdrain : s.allDrained c = true)
    (halone : (s.muster c).alone = true) (hafter : (CtxLog.of s c).after = .nothing) :
    ∃ u, exec (.musterDrained c) s = .next u ∧ u.mstate c = 3 := by
  have hms : (s.tellDrained c).mstate c = 2 := by
    rw [State.tellDrained_alone halone]
    exact hm
  have hmus : (s.tellDrained c).muster c =
      { s.muster c with drained := true, notices := (s.muster c).notices.filter (fun e => e.1 != s.chip) ++ [(s.chip, (s.muster c).id)] } := by
    rw [State.tellDrained_alone halone, State.keepNotice, State.muster_modMuster_self, State.muster_modMuster_self]
  have hchip : (s.tellDrained c).chip = s.chip := by
    rw [State.tellDrained_alone halone]
    rfl
  have hlog : (CtxLog.of (s.tellDrained c) c).after = .nothing := by
    rw [State.tellDrained_alone halone]
    exact hafter
  refine ⟨(s.tellDrained c).mustered c, ?_, ?_⟩
  · refine (exec_musterDrained_steps (s1 := s) (s2 := s) (s3 := s.tellDrained c) (.inr hm) ?_ ?_ ?_).trans (congrArg _ ?_)
    · rw [if_neg (by omega)]
    · rw [hm, if_neg (by simp)]
    · rw [hm, htold, hdrain, if_pos (by decide)]
    · unfold State.musterGo State.musterChips
      rw [hms, hmus, hchip]
      dsimp only
      rw [halone, if_pos rfl, if_pos (by simp)]
  · rw [State.mustered_nothing hlog]
    exact (State.answerMuster_facts ..).2.trans (State.mstate_setMstate _ c 3)

/-! ## Notices (R441) -/

theorem exec_musterNotice {port : Nat} {p : Packet}
    (h : s.headAt port (fun p => p.dst == s.chip && !p.bad && p.pop == 0x15 && (decide (noticeKind p < 0x40) || decide (0x48 ≤ noticeKind p))) = some (p, s1))
    (hfs : s.fences.getLsbD p.src = false) (hfd : s.fences.getLsbD p.dst = false) (hw : s.mustWait (noticeCtx p) p = false) :
    exec (.musterNotice port) s = .next (if noticeKind p ≠ 0x50 || s1.playing (noticeCtx p) then s1
      else ((s1.recordPacket (noticeCtx p) p).keepNotice (noticeCtx p) p.src p.word3).musterGo (noticeCtx p)) := by
  change execMusterNotice port s = _
  unfold execMusterNotice State.noticeEvent
  rw [h]
  dsimp only
  rw [hfs, hfd, if_neg (by decide), hw, if_neg (by decide)]

theorem mem_notices_keepNotice (s : State) (c chip : Nat) (id : Word) : (chip, id) ∈ ((s.keepNotice c chip id).muster c).notices := by
  unfold State.keepNotice
  rw [State.muster_modMuster_self]
  exact List.mem_append_right _ (List.mem_singleton.mpr rfl)

/-- A muster that is not draining keeps the notice. -/
theorem keepNotice_facts (s : State) (p : Packet) (h : s.mstate (noticeCtx p) ≠ 2) :
    (p.src, p.word3) ∈ ((((s.recordPacket (noticeCtx p) p).keepNotice (noticeCtx p) p.src p.word3).musterGo (noticeCtx p)).muster (noticeCtx p)).notices := by
  have hms : ((s.recordPacket (noticeCtx p) p).keepNotice (noticeCtx p) p.src p.word3).mstate (noticeCtx p) = s.mstate (noticeCtx p) :=
    State.mstate_congr ((s.recorded_recordPacket (noticeCtx p) p).reg (by simp [offCtx, cMSTATE, cREPLAY]))
  rw [State.musterGo_of_mstate (hms ▸ h)]
  exact mem_notices_keepNotice ..

end

theorem musterEvents : MusterEvents := by
  refine ⟨fun s c _ => ⟨exec_musterDrained_other, exec_musterDrained_stopped, exec_musterDrained_alone⟩,
    fun s s1 port p h hfs hfd hw => ⟨fun hk => ?_, fun hk hp hm => ⟨_, exec_musterNotice h hfs hfd hw, ?_⟩⟩⟩
  · rw [exec_musterNotice h hfs hfd hw, if_pos (by simp [hk])]
  · rw [if_neg (by simp [hk, hp])]
    exact keepNotice_facts s1 p hm

end Sys2Proof.Machine
end

section
/-! Undo records (R273, R274, R276-R278): what a record that is rolled back puts back, and the move of a block to the ring. -/
namespace Sys2Proof.Machine
open Sys2Proof

/-! ## A block moves to the ring (R274) -/

theorem State.tiles_ringWrite (s : State) (c : Nat) (bs : List Byte) : (s.ringWrite c bs).tiles = s.tiles := by
  unfold State.ringWrite
  extract_lets l size base head s1
  exact (s1.physWrite_keeps _ _ _ (·.tiles) fun _ => rfl).trans (s.physWrite_keeps _ _ _ (·.tiles) fun _ => rfl)

/-- The tile's buffer gives up the bytes of the block, and no other tile changes. -/
theorem State.tile_moveBlock (s : State) (t x : Nat) :
    ∃ n, (s.moveBlock t).tile x = if x = t then { s.tile t with undoBuf := (s.tile t).undoBuf - n } else s.tile x := by
  unfold State.moveBlock
  extract_lets c b bs
  have htile (y : Nat) : ((s.ringWrite c bs).modLog c fun l => { l with recs := markMoved t b.length l.recs }).tile y = s.tile y :=
    congrArg (fun z : Tab Tile => tget Tile.idle z y) (s.tiles_ringWrite c bs)
  refine ⟨bs.length, ?_⟩
  rw [State.tile_modTile, htile, htile]

theorem exec_undoBlockMove {s : State} {t : Nat} :
    ((s.tile t).undoBuf < 4096 → exec (.undoBlockMove t) s = .next s) ∧
    (4096 ≤ (s.tile t).undoBuf → ∃ u, exec (.undoBlockMove t) s = .next u ∧ (u.tile t).undoBuf ≤ (s.tile t).undoBuf ∧ ∀ x, x ≠ t → u.tile x = s.tile x) := by
  refine ⟨fun h => if_pos h, fun h => ⟨s.moveBlock t, if_neg (Nat.not_lt.mpr h), ?_, fun x hx => ?_⟩⟩
  · obtain ⟨n, e⟩ := s.tile_moveBlock t t
    rw [e, if_pos rfl]
    exact Nat.sub_le ..
  · obtain ⟨n, e⟩ := s.tile_moveBlock t x
    rw [e, if_neg hx]

/-! ## A record is rolled back (R273, R276, R278) -/

section
variable {s : State} {c : Nat} {r : UndoRec}

theorem undoOne_spad (ht : r.rtype = 1) (hk : r.akind = 0) (hs : s.savedCtx (fld r.addr 0 8) = none) :
    s.undoOne c r = s.modTile (fld r.addr 0 8) fun x => { x with spad := mwrites x.spad (fld r.addr 8 21) (r.old.flatMap fun w => leBytes 8 w.toNat) } := by
  unfold State.undoOne State.spadBack
  dsimp only
  rw [if_pos ht, if_pos hk, hs]

theorem undoOne_hbm (ht : r.rtype = 1) (hk : r.akind = 1) : s.undoOne c r = s.physWrite c r.addr (r.old.flatMap fun w => leBytes 8 w.toNat) := by
  unfold State.undoOne
  dsimp only
  rw [if_pos ht, if_neg (by rw [hk]; decide), if_pos hk]

theorem undoOne_tensor {pa : Nat} (ht : r.rtype = 1) (hk : r.akind = 2) (hpa : s.tensorBack c r.addr = some pa) :
    s.undoOne c r = { s with hbm := mwrites s.hbm pa (r.old.flatMap fun w => leBytes 8 w.toNat) } := by
  unfold State.undoOne
  dsimp only
  rw [if_pos ht, if_neg (by rw [hk]; decide), if_neg (by rw [hk]; decide), hpa]

theorem undoOne_flag (ht : r.rtype = 2) (hs : s.savedCtx r.tile = none) :
    s.undoOne c r = s.modTile r.tile fun x => { x with flags := tput 0 x.flags (fld r.addr 0 6) (BitVec.ofNat 16 (fld r.addr 6 16)) } := by
  unfold State.undoOne State.flagBack
  dsimp only
  rw [if_neg (by rw [ht]; decide), if_pos ht, hs]

theorem undoOne_publish (ht : r.rtype = 5) : s.undoOne c r = s.setTensor c (fld r.addr 0 8) (tdExchange (s.tensor c (fld r.addr 0 8))) := by
  unfold State.undoOne
  dsimp only
  rw [if_neg (by rw [ht]; decide), if_neg (by rw [ht]; decide), if_neg (by rw [ht]; decide), if_pos ht]

theorem undoOne_window (ht : r.rtype = 3) : s.undoOne c r = s := by
  unfold State.undoOne
  dsimp only
  rw [if_neg (by rw [ht]; decide), if_neg (by rw [ht]; decide), if_neg (by rw [ht]; decide), if_neg (by rw [ht]; decide)]

end

/-- An exchange swaps the two tables and inverts XP (R150, R278). -/
theorem tdExchange_facts (d : BitVec 512) : tdCtab (tdExchange d) = tdStab d ∧ tdStab (tdExchange d) = tdCtab d ∧ tdXp (tdExchange d) = !tdXp d := by
  have hlt (lo : Nat) : fld d lo 52 < 2 ^ 52 := Nat.mod_lt _ (by decide)
  unfold tdExchange
  refine ⟨?_, ?_, ?_⟩
  · rw [tdCtab, fld_setFld_disjoint _ _ (.inl (by decide)), fld_setFld_disjoint _ _ (.inr (by decide)), fld_setFld _ _ (by decide), tdStab,
      Nat.mod_eq_of_lt (hlt 384)]
  · rw [tdStab, fld_setFld_disjoint _ _ (.inl (by decide)), fld_setFld _ _ (by decide), tdCtab, Nat.mod_eq_of_lt (hlt 320)]
  · rw [tdXp, bit_setFld _ _ (by decide)]
    cases tdXp d <;> rfl

theorem State.tensor_setTensor (s : State) (c id : Nat) (d : BitVec 512) : (s.setTensor c id d).tensor c id = d := tget_tput_self ..

theorem undoEvents : UndoEvents := by
  refine ⟨fun s t => ⟨exec_undoBlockMove.1, fun h => ?_⟩, ?_⟩
  · obtain ⟨u, hu, hbuf, hother⟩ := exec_undoBlockMove.2 h
    exact ⟨u, hu, hbuf, fun x hx => by rw [hother x hx]⟩
  · intro s c r bs
    refine ⟨undoOne_spad, undoOne_hbm, fun pa => undoOne_tensor, undoOne_flag, fun ht => ?_, undoOne_window⟩
    dsimp only
    rw [undoOne_publish ht, State.tensor_setTensor]
    exact tdExchange_facts _

end Sys2Proof.Machine
end

section
/-! Musters that begin (R260), replay (R283, R285), snapshots (R290) and samples (R291). -/
namespace Sys2Proof.Machine
open Sys2Proof

/-! ## A muster begins (R260) -/

/-- The head of a muster: the context is STOPPING, ARM is clear, and its own muster starts. -/
def State.musterHead (s : State) (c : Nat) (id : Word) (alone exact : Bool) : State :=
  ((s.setMstate c 1).setRegF offMatchCtl 1 1 0).modMuster c fun m =>
    { m with id := id, alone := alone, exact := exact, drained := false, begun := s.ccc, ccc := s.ccc }

/-- Beyond its head, a muster's beginning changes tiles, collective engines and copies. -/
theorem State.beginMuster_keeps (s : State) (c : Nat) (id : Word) (alone exact : Bool) {α : Sort*} (f : State → α)
    (hf : ∀ (t : State) x y z, f { t with tiles := x, colls := y, copies := z } = f t) : f (s.beginMuster c id alone exact) = f (s.musterHead c id alone exact) := by
  have hask (l : List Nat) (t : State) : f (l.foldl State.askPreempt t) = f t :=
    List.foldlRecOn (motive := fun u : State => f u = f t) _ _ rfl fun u hu n _ => (hf u _ u.colls u.copies).trans hu
  have hpark (l : List Nat) (t : State) : f (l.foldl (fun s e => s.setColl e { s.coll e with parked := true }) t) = f t :=
    List.foldlRecOn (motive := fun u : State => f u = f t) _ _ rfl fun u hu n _ => (hf u u.tiles _ u.copies).trans hu
  unfold State.beginMuster
  dsimp only
  rw [hf _ _ _ _]
  exact (hpark _ _).trans (hask _ _)

theorem State.reg_modMuster (s : State) (c : Nat) (f : Muster → Muster) (off : Nat) : (s.modMuster c f).reg off = s.reg off := rfl

/-- The head of a muster writes MSTATE in memory and registers, MATCHCTL and its own muster, and nothing else. -/
theorem State.musterHead_keeps (s : State) (c : Nat) (id : Word) (alone exact : Bool) {α : Sort*} (f : State → α)
    (hm : ∀ (t : State) x, f { t with musters := x } = f t) (hf : ∀ (t : State) h x, f { t with hbm := h, regs := x } = f t) :
    f (s.musterHead c id alone exact) = f s := by
  rw [State.musterHead, State.modMuster, hm, State.setRegF, State.setReg]
  exact (hf _ _ _).trans (s.setMstate_keeps c 1 f fun _ _ => hf ..)

theorem State.reg_musterHead {s : State} {c off : Nat} {id : Word} {alone exact : Bool} (hm : off ≠ offCtx c cMSTATE) (ha : off ≠ offMatchCtl) :
    (s.musterHead c id alone exact).reg off = s.reg off := by
  rw [State.musterHead, State.reg_modMuster, State.setRegF, State.reg_setReg_ne ha, State.reg_setMstate hm]

theorem offCtx_ne_offMatchCtl (c o : Nat) : offCtx c o ≠ offMatchCtl := by
  unfold offCtx offMatchCtl
  omega

theorem State.reg_beginMuster {s : State} {c off : Nat} {id : Word} {alone exact : Bool} (hm : off ≠ offCtx c cMSTATE) (ha : off ≠ offMatchCtl) :
    (s.beginMuster c id alone exact).reg off = s.reg off :=
  (s.beginMuster_keeps c id alone exact (·.reg off) fun _ _ _ _ => rfl).trans (State.reg_musterHead hm ha)

theorem State.mstate_beginMuster (s : State) (c : Nat) (id : Word) (alone exact : Bool) : (s.beginMuster c id alone exact).mstate c = 1 := by
  have hhead : (s.musterHead c id alone exact).mstate c = (s.setMstate c 1).mstate c := by
    refine State.mstate_congr ?_
    rw [State.musterHead, State.reg_modMuster, State.setRegF, State.reg_setReg_ne (offCtx_ne_offMatchCtl c cMSTATE)]
  rw [s.beginMuster_keeps c id alone exact (·.mstate c) fun _ _ _ _ => rfl, hhead, State.mstate_setMstate]

theorem State.logs_beginMuster (s : State) (c : Nat) (id : Word) (alone exact : Bool) : (s.beginMuster c id alone exact).logs = s.logs :=
  (s.beginMuster_keeps c id alone exact (·.logs) fun _ _ _ _ => rfl).trans (s.musterHead_keeps c id alone exact (·.logs) (fun _ _ => rfl) fun _ _ _ => rfl)

theorem State.fences_beginMuster (s : State) (c : Nat) (id : Word) (alone exact : Bool) : (s.beginMuster c id alone exact).fences = s.fences :=
  (s.beginMuster_keeps c id alone exact (·.fences) fun _ _ _ _ => rfl).trans (s.musterHead_keeps c id alone exact (·.fences) (fun _ _ => rfl) fun _ _ _ => rfl)

theorem State.alone_beginMuster (s : State) (c : Nat) (id : Word) (alone exact : Bool) : ((s.beginMuster c id alone exact).muster c).alone = alone := by
  rw [s.beginMuster_keeps c id alone exact (·.muster c) fun _ _ _ _ => rfl, State.musterHead, State.muster_modMuster_self]

/-! ## Replay (R285) -/

section
variable {s : State} {c : Nat}

/-- The header of the entry that a replay stands at. -/
def State.playHead (s : State) (c : Nat) : Nat := leNat (s.replayBytes c (CtxLog.of s c).playPos 32)

/-- The entry's CCC has come, counted from the interval's start. -/
def State.playDue (s : State) (c : Nat) : Prop :=
  (BitVec.ofNat 64 (nfld (s.playHead c) 64 64) - (CtxLog.of s c).playRec).toNat ≤ (s.ccc - (CtxLog.of s c).playStart).toNat

/-- The state in which the entry that a replay stands at takes effect. -/
def State.playNext (s : State) (c : Nat) : State :=
  s.modLog c fun l => { l with playPos := (l.playPos + 32 + 8 * nfld (s.playHead c) 16 16) % max 1 (s.replaySize c) }

/-- The state in which a recorded share of the lottery has entered. -/
def State.playShare (s : State) (c : Nat) : State :=
  (s.playNext c).modTile (nfld (s.playHead c) 128 64 % 256) fun x => { x with lotx := BitVec.ofNat 32 (nfld (s.playHead c) 192 64) }

theorem exec_replayInputInject_live (h : s.playing c = false) : exec (.replayInputInject c) s = .next s := if_pos (by simp [h])

theorem exec_replayInputInject (hplay : s.playing c = true) (hm : s.mstate c < 3) (hpos : (CtxLog.of s c).playPos ≠ (CtxLog.of s c).rpos)
    (hafter : (CtxLog.of s c).after = .nothing) (hmay : eventMay s) :
    (¬ s.playDue c → exec (.replayInputInject c) s = .next s) ∧
    ∀ u, s.playDue c → (s.playNext c).replayEntry' c (nfld (s.playHead c) 0 4) (BitVec.ofNat 64 (nfld (s.playHead c) 64 64)) (nfld (s.playHead c) 128 64)
        (nfld (s.playHead c) 192 64) (s.replayBytes c ((CtxLog.of s c).playPos + 32) (8 * nfld (s.playHead c) 16 16)) = some u →
      exec (.replayInputInject c) s = .next u := by
  obtain ⟨hqueue, hused⟩ := hmay
  have hgo : ¬ (!s.playing c || decide (3 ≤ s.mstate c) || decide ((CtxLog.of s c).playPos = (CtxLog.of s c).rpos) || (CtxLog.of s c).after != .nothing ||
      s.eventsStall) = true := by
    rw [hplay, hafter, decide_eq_false (Nat.not_le.mpr hm), decide_eq_false hpos, State.eventsStall, decide_eq_false (Nat.not_le.mpr hqueue),
      decide_eq_false (Nat.not_le.mpr hused)]
    decide
  refine ⟨fun h => ?_, fun u h hu => ?_⟩
  · change execReplayInputInject c s = _
    unfold execReplayInputInject
    rw [if_neg hgo]
    exact if_pos (Nat.not_le.mp h)
  · change execReplayInputInject c s = _
    unfold execReplayInputInject
    rw [if_neg hgo]
    refine (if_neg (Nat.not_lt.mpr h)).trans ?_
    dsimp only
    have hu' := hu
    unfold State.playNext State.playHead at hu'
    rw [hu']

/-- A recorded share of the lottery (R283). -/
theorem replay_share (hplay : s.playing c = true) (hm : s.mstate c < 3) (hpos : (CtxLog.of s c).playPos ≠ (CtxLog.of s c).rpos)
    (hafter : (CtxLog.of s c).after = .nothing) (hmay : eventMay s) (hdue : s.playDue c) (hsize : s.replaySize c ≠ 0) (hkind : nfld (s.playHead c) 0 4 = 4) :
    ∃ u, exec (.replayInputInject c) s = .next u ∧ (u.tile (nfld (s.playHead c) 128 64 % 256)).lotx = BitVec.ofNat 32 (nfld (s.playHead c) 192 64) ∧
      (CtxLog.of u c).playPos = ((CtxLog.of s c).playPos + 32 + 8 * nfld (s.playHead c) 16 16) % s.replaySize c := by
  have hentry : (s.playNext c).replayEntry' c (nfld (s.playHead c) 0 4) (BitVec.ofNat 64 (nfld (s.playHead c) 64 64)) (nfld (s.playHead c) 128 64)
      (nfld (s.playHead c) 192 64) (s.replayBytes c ((CtxLog.of s c).playPos + 32) (8 * nfld (s.playHead c) 16 16)) =
      some (s.playShare c) := by
    rw [hkind]
    rfl
  have hpos1 : (CtxLog.of (s.playNext c) c).playPos = ((CtxLog.of s c).playPos + 32 + 8 * nfld (s.playHead c) 16 16) % s.replaySize c := by
    rw [State.playNext, CtxLog.of_modLog, if_pos rfl, Nat.max_eq_right (Nat.one_le_iff_ne_zero.mpr hsize)]
  refine ⟨s.playShare c, (exec_replayInputInject hplay hm hpos hafter hmay).2 _ hdue hentry, ?_, hpos1⟩
  rw [State.playShare, State.tile_modTile_self]

/-- A recorded rate (R283). -/
theorem replay_rate (hplay : s.playing c = true) (hm : s.mstate c < 3) (hpos : (CtxLog.of s c).playPos ≠ (CtxLog.of s c).rpos)
    (hafter : (CtxLog.of s c).after = .nothing) (hmay : eventMay s) (hdue : s.playDue c) (hkind : nfld (s.playHead c) 0 4 = 5) :
    ∃ u, exec (.replayInputInject c) s = .next u ∧ u.cx c cERATEF = BitVec.ofNat 64 (nfld (s.playHead c) 128 64) :=
  ⟨_, (exec_replayInputInject hplay hm hpos hafter hmay).2 _ hdue (by rw [hkind]; rfl), State.cx_setCx ..⟩

/-! ## A precise stop (R285) -/

theorem exec_preciseStop_early {iv t n : Nat} (ht : (CtxLog.of s c).target = some (iv, t, n)) (hw : (s.tile t).work < n) :
    exec (.preciseStopReached c) s = .next s := by
  change execPreciseStopReached c s = _
  unfold execPreciseStopReached
  dsimp only
  rw [ht]
  dsimp only
  exact if_pos (by simp [hw])

theorem exec_preciseStop {iv t n : Nat} (ht : (CtxLog.of s c).target = some (iv, t, n)) (hplay : s.playing c = true) (hm : s.mstate c = 0)
    (hiv : (CtxLog.of s c).playIv = iv) (hw : n ≤ (s.tile t).work) :
    ∃ u, exec (.preciseStopReached c) s = .next u ∧ u.mstate c = 1 ∧ (CtxLog.of u c).after = .stopped ∧ (u.muster c).alone = true := by
  refine ⟨(s.modLog c fun l => { l with after := .stopped }).beginMuster c 0 true true, ?_, State.mstate_beginMuster .., ?_, State.alone_beginMuster ..⟩
  · change execPreciseStopReached c s = _
    unfold execPreciseStopReached
    dsimp only
    rw [ht]
    dsimp only
    exact if_neg (by simp [hplay, hm, hiv, Nat.not_lt.mpr hw])
  · have hlog : CtxLog.of ((s.modLog c fun l => { l with after := .stopped }).beginMuster c 0 true true) c =
        CtxLog.of (s.modLog c fun l => { l with after := .stopped }) c := congrArg (fun x : Tab CtxLog => tget CtxLog.idle x c) (State.logs_beginMuster ..)
    rw [hlog, CtxLog.of_modLog, if_pos rfl]

/-! ## Snapshots (R290) -/

theorem tget_foldl_tput_of_mem {α : Type} [DecidableEq α] (d : α) (f : Nat → α) {l : List Nat} {k : Nat} (hk : k ∈ l) (t : Tab α) :
    tget d (l.foldl (fun t k => tput d t k (f k)) t) k = f k := by
  induction l generalizing t with
  | nil => exact absurd hk List.not_mem_nil
  | cons a l ih =>
    rw [List.foldl_cons]
    by_cases hl : k ∈ l
    · exact ih hl _
    · obtain rfl : k = a := (List.mem_cons.mp hk).resolve_right hl
      have hkeep (l : List Nat) (hl : k ∉ l) (t : Tab α) : tget d (l.foldl (fun t k => tput d t k (f k)) t) k = tget d t k :=
        List.foldlRecOn (motive := fun u : Tab α => tget d u k = tget d t k) _ _ rfl fun u hu a ha =>
          (tget_tput_ne _ _ _ (ne_of_mem_of_not_mem ha hl).symm).trans hu
      rw [hkeep l hl, tget_tput_self]

/-- A tile latches its set, with a SNAP trace record where tracing is on. -/
def State.latchTile (s z : State) (t : Nat) : State := (z.modTile t fun x => { x with snap := s.snapSet t }).trace t 0 5 (s.regF offSnapId 0 32)

theorem State.trace_off {s : State} {t : Nat} (h : bit (s.tile t).trace.ctl 0 = false) (en kind k : Nat) (body : List Byte) (count : Option Nat) :
    s.trace t en kind k body count = s := if_pos (by simp [h])

/-- With tracing off, each tile holds its set, and is else as it was. -/
theorem State.tile_latchTiles {l : List Nat} {z : State} (h : ∀ t ∈ l, bit (z.tile t).trace.ctl 0 = false) (x : Nat) :
    (l.foldl s.latchTile z).tile x = if x ∈ l then { z.tile x with snap := s.snapSet x } else z.tile x := by
  induction l generalizing z with
  | nil => rfl
  | cons t l ih =>
    have hlatch : s.latchTile z t = z.modTile t fun x => { x with snap := s.snapSet t } :=
      State.trace_off (by rw [State.tile_modTile_self]; exact h t List.mem_cons_self) ..
    rw [List.foldl_cons, hlatch, ih fun y hy => ?_]
    · by_cases hx : x = t
      · rw [hx, State.tile_modTile_self, if_pos List.mem_cons_self, ite_self]
      · rw [State.tile_modTile_ne _ _ hx]
        simp only [List.mem_cons, hx, false_or]
    · rw [State.tile_modTile]
      split
      · exact h t List.mem_cons_self
      · exact h y (List.mem_cons_of_mem _ hy)

/-- The units latch their set, and the SNAP is over. -/
def State.latchUnits (s z : State) : State :=
  { z with snapAt := none, unitSnap := statusRegs.foldl (fun t o => tput 0 t o (s.barPeek o)) [] }

theorem State.tile_latchUnits (s z : State) (t : Nat) : (s.latchUnits z).tile t = z.tile t := rfl

theorem State.snapAt_latchUnits (s z : State) : (s.latchUnits z).snapAt = none := rfl

theorem State.unitSnap_latchUnits (s z : State) {o : Nat} (ho : o ∈ statusRegs) : tget 0 (s.latchUnits z).unitSnap o = s.barPeek o :=
  tget_foldl_tput_of_mem 0 s.barPeek ho []

theorem execSnapshotLatch_eq {a : Word} (ha : s.snapAt = some a) : execSnapshotLatch s =
    if (s.ccc - a).toNat < 256 then .next s else .next (s.latchUnits ((List.range 256).foldl s.latchTile s)) := by
  unfold execSnapshotLatch
  generalize List.range 256 = l
  rw [ha]
  rfl

theorem exec_snapshotLatch {a : Word} (ha : s.snapAt = some a) :
    ((s.ccc - a).toNat < 256 → exec .snapshotLatch s = .next s) ∧
    (256 ≤ (s.ccc - a).toNat → ∃ u, exec .snapshotLatch s = .next u ∧ u.snapAt = none ∧ (∀ o ∈ statusRegs, tget 0 u.unitSnap o = s.barPeek o) ∧
      ((∀ t < 256, bit (s.tile t).trace.ctl 0 = false) → ∀ t < 256, (u.tile t).snap = s.snapSet t)) := by
  have hrun : exec .snapshotLatch s = _ := execSnapshotLatch_eq ha
  refine ⟨fun h => hrun.trans (if_pos h), fun h => ⟨_, hrun.trans (if_neg (Nat.not_lt.mpr h)), State.snapAt_latchUnits .., fun o => State.unitSnap_latchUnits _ _,
    fun hoff t ht => ?_⟩⟩
  rw [State.tile_latchUnits, State.tile_latchTiles fun t ht => hoff t (List.mem_range.mp ht), if_pos (List.mem_range.mpr ht)]

/-! ## Samples (R291) -/

theorem exec_traceSample {t : Nat} :
    (s.ccc.toNat % 2 ^ fld (s.tile t).trace.ctl 5 5 ≠ 0 ∨ bit (s.tile t).trace.ctl 0 = false ∨ bit (s.tile t).trace.ctl 4 = false →
      exec (.traceSample t) s = .next s) ∧
    (s.ccc.toNat % 2 ^ fld (s.tile t).trace.ctl 5 5 = 0 → exec (.traceSample t) s =
      .next (s.trace t 4 4 0 ((List.range 4).flatMap fun k => leBytes 8 ((s.tile t).stream k).pc.toNat))) := by
  have hdue (h : s.ccc.toNat % 2 ^ fld (s.tile t).trace.ctl 5 5 = 0) : exec (.traceSample t) s =
      .next (s.trace t 4 4 0 ((List.range 4).flatMap fun k => leBytes 8 ((s.tile t).stream k).pc.toNat)) := if_neg (not_not.mpr h)
  refine ⟨fun h => ?_, hdue⟩
  by_cases h0 : s.ccc.toNat % 2 ^ fld (s.tile t).trace.ctl 5 5 = 0
  · rw [hdue h0]
    refine congrArg _ (if_pos ?_)
    obtain h | h := h.resolve_left (not_not.mpr h0) <;> simp [h]
  · exact if_pos h0

end

theorem replayEvents : ReplayEvents := by
  refine ⟨?_, fun s c iv t n _ ht => ⟨exec_preciseStop_early ht, fun hplay hm hiv hw => exec_preciseStop ht hplay hm hiv hw⟩,
    fun s => ⟨fun h => ?_, fun a ha => exec_snapshotLatch ha⟩, fun s t => exec_traceSample⟩
  · intro s c l h n
    refine ⟨exec_replayInputInject_live, fun hplay hm hpos hafter hmay => ⟨fun hlt => ?_, fun hdue => ⟨fun hsize hkind => ?_, fun _ hkind => ?_⟩⟩⟩
    · exact (exec_replayInputInject hplay hm hpos hafter hmay).1 (Nat.not_le.mpr hlt)
    · exact replay_share hplay hm hpos hafter hmay hdue hsize hkind
    · exact replay_rate hplay hm hpos hafter hmay hdue hkind
  · change execSnapshotLatch s = _
    unfold execSnapshotLatch
    rw [h]

end Sys2Proof.Machine
end

section
/-! Errors of the units (R246, R293) and missed heartbeats (R53, R271). -/
namespace Sys2Proof.Machine
open Sys2Proof

section
variable {s : State}

/-! ## Uncorrectable errors (R246) -/

theorem exec_uncorrectableError_stream {t k : Nat} (hk : k < 4) (ht : (s.tile t).task.isSome = true) :
    exec (.uncorrectableError (.stream t k)) s = .next ((s.gather 0x8C18 1).raiseIdle t k .eccUncorrectable 0) :=
  congrArg Host.Outcome.next (if_pos (by rw [Bool.and_eq_true]; exact ⟨ht, decide_eq_true hk⟩))

theorem State.running_raiseThread (s : State) (n : Nat) (c : Cause) : ((s.raiseThread n c).thr n).running = false := by
  unfold State.raiseThread
  rw [State.thr_endRun, if_pos rfl]

theorem exec_uncorrectableError_thread {n : Nat} (h : (s.thr n).running = true) :
    ∃ u, exec (.uncorrectableError (.thread n)) s = .next u ∧ (u.thr n).running = false :=
  ⟨_, congrArg Host.Outcome.next (if_pos h), State.running_raiseThread ..⟩

/-- The copy at an engine's head has failed, with the cause it had or this one. -/
def State.failCopy (s : State) (n : Nat) (k : Copy) (rest : List Copy) : State :=
  { s with copies := tput [] s.copies n ({ k with failed := some (k.failed.getD .eccUncorrectable) } :: rest) }

theorem State.copies_failCopy (s : State) (n : Nat) (k : Copy) (rest : List Copy) :
    tget [] (s.failCopy n k rest).copies n = { k with failed := some (k.failed.getD .eccUncorrectable) } :: rest := by
  rw [State.failCopy, tget_tput_self]

theorem exec_uncorrectableError_copyEngine {n : Nat} {k : Copy} {rest : List Copy} (h : tget [] s.copies n = k :: rest) :
    ∃ u, exec (.uncorrectableError (.copyEngine n)) s = .next u ∧
      tget [] u.copies n = { k with failed := some (k.failed.getD .eccUncorrectable) } :: rest := by
  have hrep := ((s.gather 0x8C18 1).failCopy n k rest).reported_report .eccUncorrectable k.ctx 2 n 0
  have h1 : tget [] (s.gather 0x8C18 1).copies n = k :: rest := h
  refine ⟨((s.gather 0x8C18 1).failCopy n k rest).engineError k.ctx 2 n, ?_, ?_⟩
  · change execUncorrectableError (.copyEngine n) s = _
    unfold execUncorrectableError
    dsimp only
    rw [h1]
    rfl
  · rw [State.engineError, hrep.keeps (·.copies) fun _ _ _ => rfl, State.copies_failCopy]

/-- A rank that is neither stopped nor decided is stopped with the cause. -/
theorem aborted_collAborts (s : State) (e : Nat) {r : CollRun} (cause : Cause) (ha : r.aborted = none) (hd : r.decided = none) :
    (s.collAborts e r cause).2.aborted = some cause := by
  have hr1 : (if r.decided.isSome = true then r else { r with aborted := some cause }) = { r with aborted := some cause } := if_neg (by simp [hd])
  unfold State.collAborts
  rw [if_neg (by simp [ha, hd])]
  dsimp only
  rw [hr1]
  split
  · unfold State.rootAbort
    rw [if_neg (by simp [hd])]
    rfl
  · rfl

theorem exec_uncorrectableError_collEngine {n : Nat} {r : CollRun} (h : (s.coll n).run = some r) (ha : r.aborted = none) (hd : r.decided = none) :
    ∃ u r1, exec (.uncorrectableError (.collEngine n)) s = .next u ∧ (u.coll n).run = some r1 ∧ r1.aborted = some .eccUncorrectable := by
  have h1 : ((s.gather 0x8C18 1).coll n).run = some r := h
  have hrun : exec (.uncorrectableError (.collEngine n)) s =
      .next (let a := ((s.gather 0x8C18 1).engineError r.c.ctx 3 n).collAborts n r .eccUncorrectable; a.1.setRun n (some a.2)) := by
    change execUncorrectableError (.collEngine n) s = _
    unfold execUncorrectableError
    dsimp only
    rw [h1]
  refine ⟨_, _, hrun, ?_, aborted_collAborts ((s.gather 0x8C18 1).engineError r.c.ctx 3 n) n _ ha hd⟩
  · exact congrArg CollEng.run (tget_tput_self ..)

/-- A scheduler that stops stays so through its reports (R210). -/
theorem State.stopped_stopSched (s : State) : s.stopSched.sched.stopped = true := by
  unfold State.stopSched
  exact List.foldlRecOn (motive := fun u : State => u.sched.stopped = true) _ _ rfl fun t ht c _ =>
    (congrArg Sched.stopped ((State.Reported.trans (t.reported_report .internal c 6 0 0) (State.reported_report ..)).keeps (·.sched) fun _ _ _ => rfl)).trans ht

theorem exec_uncorrectableError_ferryCore (hstop : s.sched.stopped = false) (hstandby : s.regF offSchedCtl 12 1 = 0) :
    ∃ u, exec (.uncorrectableError (.ferryCore (s.regF offSchedCtl 0 6))) s = .next u ∧ u.sched.stopped = true := by
  let s2 := (s.gather 0x8C18 1).engineError 0 1 (16 * s.regF offSchedCtl 0 6)
  have hrep : (s.gather 0x8C18 1).Reported s2 := State.reported_report ..
  have hreg : s2.reg offSchedCtl = s.reg offSchedCtl := hrep.reg (by unfold inRlog offSchedCtl; omega)
  have hcore : s.regF offSchedCtl 0 6 = s2.regF offSchedCtl 0 6 := congrArg (fld · 0 6) hreg.symm
  have hsched : s2.sched.stopped = false := (congrArg Sched.stopped (hrep.keeps (·.sched) fun _ _ _ => rfl)).trans hstop
  have hnone : ¬ s2.regF offSchedCtl 12 1 = 1 := by
    rw [show s2.regF offSchedCtl 12 1 = 0 from (congrArg (fld · 12 1) hreg).trans hstandby]
    decide
  refine ⟨s2.stopSched, ?_, s2.stopped_stopSched⟩
  have hact : s2.schedError = s2.stopSched := if_neg hnone
  rw [← hact]
  exact congrArg Host.Outcome.next (if_pos (by rw [Bool.and_eq_true, decide_eq_true_iff]; exact ⟨hcore, by rw [hsched]; rfl⟩))

/-! ## Correctable errors (R293) -/

theorem exec_correctableError_tile {t : Nat} (d : Nat) (h : s.recording (s.ctxOfTile t) = false) :
    ∃ u, exec (.correctableError (.tile t) d) s = .next u ∧
      tget 0 u.pkg.gathered (0x82B0 + 8 * t) = tget 0 s.pkg.gathered (0x82B0 + 8 * t) + 1 ∧ u.regs = s.regs ∧ u.hbm = s.hbm := by
  have hrec : (s.gather (0x82B0 + 8 * t) 1).recording (s.ctxOfTile t) = false := h
  refine ⟨s.gather (0x82B0 + 8 * t) 1, congrArg Host.Outcome.next (State.recordInput_eq_self hrec ..), ?_, rfl, rfl⟩
  exact (tget_tmod 0 s.pkg.gathered _ _ (· + 1)).trans (if_pos rfl)

/-! ## Missed heartbeats (R271) -/

/-- A context goes back to its last checkpoint, once it is mustered (R281). -/
def State.fallBack (s : State) (c : Nat) : State := (s.modLog c fun l => { l with after := .checkpoint }).beginMuster c 0 true false

theorem State.mstate_fallBack (s : State) (c k : Nat) : (s.fallBack c).mstate k = if k = c then 1 else s.mstate k := by
  unfold State.fallBack
  split
  · rename_i h
    rw [h, State.mstate_beginMuster]
  · rename_i h
    refine State.mstate_congr ((State.reg_beginMuster (fun e => h (offCtx_inj (by decide) (by decide) e).1) (offCtx_ne_offMatchCtl k cMSTATE)).trans rfl)

theorem State.fences_fallBack (s : State) (c : Nat) : (s.fallBack c).fences = s.fences := State.fences_beginMuster ..

/-- The contexts that a fenced package was a member of. -/
def State.hitBy (s : State) (c : Nat) : List Nat :=
  (List.range 64).filter fun k => s.ctxExists k && s.mstate k == 0 && s.isMember k c && c != s.chip

/-- A fence leaves the contexts' pages and the chip's own place. -/
theorem State.reg_multicastFence {s : State} {c off : Nat} (hoff : ¬ inRlog off) (hn : ∀ n < 6, off ≠ offLinkStat n) :
    (s.multicastFence c).reg off = s.reg off := (s.cut_multicastFence c).reg hoff hn

theorem State.cx_multicastFence (s : State) (c k o : Nat) : (s.multicastFence c).cx k o = s.cx k o :=
  State.reg_multicastFence (not_inRlog_offCtx k o) fun n hn => by
    unfold offCtx offLinkStat
    omega

theorem State.chip_multicastFence (s : State) (c : Nat) : (s.multicastFence c).chip = s.chip := by
  have hreg : (s.multicastFence c).reg offGeom = s.reg offGeom := State.reg_multicastFence (not_inRlog_of_lt (by decide)) fun n hn => by
    unfold offGeom offLinkStat
    omega
  simp only [State.chip, State.regF, hreg]

theorem State.mem_hitBy_multicastFence {c k : Nat} (hk : k < 64) (he : s.ctxExists k = true) (hm : s.mstate k = 0) (hb : s.isMember k c = true) (hc : c ≠ s.chip) :
    k ∈ (s.multicastFence c).hitBy c := by
  have he' : (s.multicastFence c).ctxExists k = true := (congrArg (bit · 0) (s.cx_multicastFence ..)).trans he
  have hm' : (s.multicastFence c).mstate k = 0 := (congrArg (fld · 0 3) (s.cx_multicastFence ..)).trans hm
  have hb' : (s.multicastFence c).isMember k c = true := (congrArg (bit · (c % 64)) (s.cx_multicastFence ..)).trans hb
  refine List.mem_filter.mpr ⟨List.mem_range.mpr hk, ?_⟩
  rw [he', hm', hb', State.chip_multicastFence, bne_iff_ne.mpr hc]
  rfl

theorem exec_missedHeartbeats_eq {c : Nat} (hc : c < 1024) :
    exec (.missedHeartbeats c) s = .next (((s.multicastFence c).hitBy c).foldl State.fallBack (s.multicastFence c)) := by
  change execMissedHeartbeats c s = _
  unfold execMissedHeartbeats
  rw [Nat.mod_eq_of_lt hc]
  rfl

theorem exec_missedHeartbeats {c : Nat} (hc : c < 1024) : ∃ u, exec (.missedHeartbeats c) s = .next u ∧ u.fences.getLsbD c = true ∧
    ∀ k < 64, s.ctxExists k = true → s.mstate k = 0 → s.isMember k c = true → c ≠ s.chip → u.mstate k = 1 := by
  refine ⟨_, exec_missedHeartbeats_eq hc, ?_, fun k hk he hm hb hne => ?_⟩
  · exact List.foldlRecOn (motive := fun u : State => u.fences.getLsbD c = true) _ _ (s.fences_multicastFence hc) fun t ht k _ => by
      rwa [State.fences_fallBack]
  · exact foldl_establishes (Q := fun u : State => u.mstate k = 1) (State.mem_hitBy_multicastFence hk he hm hb hne)
      (fun t => (t.mstate_fallBack ..).trans (if_pos rfl)) (fun t b _ ht => (t.mstate_fallBack ..).trans (by rw [ht, ite_self])) _

end

theorem errorEvents : ErrorEvents := by
  refine ⟨fun s t k => ⟨exec_uncorrectableError_stream, exec_uncorrectableError_thread, fun c rest => exec_uncorrectableError_copyEngine,
    fun r => exec_uncorrectableError_collEngine, rfl, ?_⟩, fun s t d => exec_correctableError_tile d, fun s c => exec_missedHeartbeats⟩
  rintro rfl hstop hstandby
  exact exec_uncorrectableError_ferryCore hstop hstandby

/-- Settles O24: musters, rolled back records, replay with snapshots and samples, and errors, each part by its own events. -/
theorem debugEvents : Obligations.DebugEvents := ⟨musterEvents, undoEvents, replayEvents, errorEvents⟩

end Sys2Proof.Machine
end

section
/-! Where the events of contexts, registers, musters, replay and errors complete: each by the lemma of its own event. -/
namespace Sys2Proof.Machine
open Sys2Proof

/-- A member's notice that its package is drained is kept (R260, R441). -/
theorem exec_musterNotice_drained {s : State} {port : Nat} {p : Packet} {rest : List Packet} (hq : tget [] s.inq port = p :: rest) (hdst : p.dst = s.chip)
    (hbad : p.bad = false) (hpop : p.pop = 0x15) (hkind : noticeKind p = 0x50) (hfs : s.fences.getLsbD p.src = false) (hfd : s.fences.getLsbD p.dst = false)
    (hplay : s.playing (noticeCtx p) = false) (hm : s.mstate (noticeCtx p) ≠ 2) :
    ∃ u, exec (.musterNotice port) s = .next u ∧ (p.src, p.word3) ∈ (u.muster (noticeCtx p)).notices := by
  have hmoved := s.moved_taken port p rest
  have hplay1 : (s.taken port p rest).playing (noticeCtx p) = false := (hmoved.keeps (·.playing (noticeCtx p)) fun _ _ => rfl).trans hplay
  have hm1 : (s.taken port p rest).mstate (noticeCtx p) ≠ 2 := by
    rwa [hmoved.keeps (·.mstate (noticeCtx p)) fun _ _ => rfl]
  have hwait : s.mustWait (noticeCtx p) p = false := by
    unfold State.mustWait
    rw [hplay, Bool.false_and]
  have hhead := State.headAt_cons
    (want := fun p => p.dst == s.chip && !p.bad && p.pop == 0x15 && (decide (noticeKind p < 0x40) || decide (0x48 ≤ noticeKind p))) hq
    (by simp [hdst, hbad, hpop, hkind])
  refine ⟨_, exec_musterNotice hhead hfs hfd hwait, ?_⟩
  rw [if_neg (by simp [hkind, hplay1])]
  exact keepNotice_facts _ p hm1

/-- The events of one context. -/
theorem contextEventsComplete (s : State) (c : Nat) (hc : c < 64) :
    (s.ctxExists c = false → s.createErr c = 0 → ∃ u, exec (.contextCreate c) s = .next u ∧ u.ctxExists c = true ∧ u.mstate c = 0) ∧
    (s.ctxExists c = true → (∀ e ∈ s.tiles, (∀ k, e.2.task = some k → k.t.ctx ≠ c) ∧ (∀ k ∈ e.2.left, k.t.ctx ≠ c) ∧
        ∀ q ∈ e.2.tq, ∀ k ∈ q.2.tasks, k.saved = true → k.ctx ≠ c) →
      ∃ u, exec (.contextDestroy c) s = .next u ∧ u.ctxExists c = false ∧ (∀ f ∈ u.saveFrames, f.1 ≠ c) ∧ ∀ f ∈ u.actions, f.ctx ≠ c) ∧
    (∀ off, s.ctxExists c = true → s.mstate c ≠ 4 → ∃ u, exec (.saveAreaLost c off) s = .next u ∧ u.mstate c = 4) := by
  refine ⟨fun hnew hok => ?_, fun hex hnone => ?_, fun off hex hm => ?_⟩
  · obtain ⟨u, hu, hlife, hmstate, -⟩ := exec_contextCreate_ok hc hnew hok
    exact ⟨u, hu, hlife, hmstate⟩
  · obtain ⟨u, hu, hlife, hframes, hactions, -⟩ := exec_contextDestroy_done hex hnone
    exact ⟨u, hu, hlife, hframes, hactions⟩
  · obtain ⟨u, hu, hmstate, -⟩ := exec_saveAreaLost off hex hm
    exact ⟨u, hu, hmstate⟩

/-- Settles O38: each event completes with its effect, by the lemma that says what the event does. -/
theorem registersAndDebugComplete : Obligations.RegistersAndDebugComplete := by
  refine ⟨fun s c hc => ?_, fun s v h => congrArg Host.Outcome.next ((s.putGeom_eq v).1 h), fun s v => ?_,
    fun s rx n v hn hpin => (exec_windowEntryWrite hn).1 (.inr hpin), fun s n v hn hmem => (exec_txdstWrite v hn).trans (congrArg _ (if_pos hmem)),
    fun s n v hn => (exec_cengOwnWrite v hn).1, fun s d o v hnew hd => (exec_slotTableUpdate hnew hd).1, fun s port p rest => exec_musterNotice_drained,
    fun s t => exec_undoBlockMove.2, fun s a ha hlate hoff => ?_, fun s t => exec_traceSample.2,
    fun s t d => ⟨exec_uncorrectableError_thread, fun c rest => exec_uncorrectableError_copyEngine, exec_correctableError_tile d⟩, fun s c hc => ?_⟩
  · obtain ⟨hcreate, hdestroy, hlost⟩ := contextEventsComplete s c hc
    refine ⟨hcreate, hdestroy, hlost, exec_replayPlayClear.1, fun v hv => ?_, exec_musterDrained_stopped, fun hplay hm hpos hafter hqueue hused => ?_,
      fun iv t n ht hplay hm hiv hw => ?_⟩
    · obtain ⟨u, hu, hwin, -⟩ := (exec_undowinOldestWrite v).2 hv
      exact ⟨u, hu, hwin⟩
    · exact fun hdue hkind => replay_rate hplay hm hpos hafter ⟨hqueue, hused⟩ hdue hkind
    · obtain ⟨u, hu, hmstate, hafter, -⟩ := exec_preciseStop ht hplay hm hiv hw
      exact ⟨u, hu, hmstate, hafter⟩
  · obtain ⟨htmo, hmode⟩ := s.putXlatCtl_facts v
    refine ⟨s.putXlatCtl v, rfl, htmo, fun h => ?_⟩
    rw [hmode, State.xlatMode, h, Bool.true_or]
  · obtain ⟨u, hu, hnone, hunits, htiles⟩ := (exec_snapshotLatch ha).2 hlate
    exact ⟨u, hu, hnone, hunits, htiles hoff⟩
  · obtain ⟨u, hu, hfence, -⟩ := exec_missedHeartbeats (s := s) hc
    exact ⟨u, hu, hfence⟩

end Sys2Proof.Machine
end

section
/-! What issue and the undo log's bookkeeping leave of the state and of its tiles (R228, R274, R282, R286): no flag, no barrier count and no memory. -/
namespace Sys2Proof.Machine
open Sys2Proof

/-! ## The relation -/

/-- At most the bookkeeping of a tile has changed: its streams, its scalar registers, when it last issued, and how full its undo buffer is. -/
def Tile.Kept (x y : Tile) : Prop := ∃ st sc i b, y = { x with streams := st, sc := sc, lastIssue := i, undoBuf := b }

/-- At most registers, undo logs, threads and the bookkeeping of tiles have changed. -/
def State.Booked (s t : State) : Prop :=
  (∃ r l x h, t = { s with regs := r, logs := l, tiles := x, threads := h }) ∧ ∀ n, (s.tile n).Kept (t.tile n)

theorem Tile.Kept.refl (x : Tile) : x.Kept x := ⟨_, _, _, _, rfl⟩

theorem State.Booked.refl (s : State) : s.Booked s := ⟨⟨_, _, _, _, rfl⟩, fun _ => .refl _⟩

theorem State.Booked.trans {s t u : State} (h : s.Booked t) (k : t.Booked u) : s.Booked u := by
  obtain ⟨⟨r, l, x, h, rfl⟩, ht⟩ := h
  obtain ⟨⟨r', l', x', h', rfl⟩, hu⟩ := k
  refine ⟨⟨r', l', x', h', rfl⟩, fun n => ?_⟩
  obtain ⟨st, sc, i, b, e⟩ := ht n
  obtain ⟨st', sc', i', b', e'⟩ := hu n
  exact ⟨st', sc', i', b', by rw [e', e]⟩

/-- What it leaves of the state: every field but the four, by its projection. -/
theorem State.Booked.keeps {s t : State} (h : s.Booked t) {α : Sort*} (f : State → α)
    (hf : ∀ r l x h, f { s with regs := r, logs := l, tiles := x, threads := h } = f s) : f t = f s := by
  obtain ⟨⟨r, l, x, h, rfl⟩, -⟩ := h
  exact hf r l x h

/-- What it leaves of a tile. -/
theorem State.Booked.tile {s t : State} (h : s.Booked t) (n : Nat) {α : Sort*} (f : Tile → α)
    (hf : ∀ x st sc i b, f { x with streams := st, sc := sc, lastIssue := i, undoBuf := b } = f x) : f (t.tile n) = f (s.tile n) := by
  obtain ⟨st, sc, i, b, e⟩ := h.2 n
  rw [e]
  exact hf ..

theorem State.Booked.flag {s t : State} (h : s.Booked t) (n j : Nat) : (t.tile n).flag j = (s.tile n).flag j :=
  h.tile n (·.flag j) fun _ _ _ _ _ => rfl

theorem State.booked_modTile (s : State) (t : Nat) {g : Tile → Tile} (hg : ∀ x : Tile, x.Kept (g x)) : s.Booked (s.modTile t g) := by
  refine ⟨⟨_, _, _, _, rfl⟩, fun n => ?_⟩
  rw [State.tile_modTile]
  split
  · rename_i e
    exact e ▸ hg _
  · exact .refl _

/-! ## The party at issue -/

theorem State.booked_modStrm (s : State) (w : Who) (g : Stream → Stream) : s.Booked (s.modStrm w g) := by
  cases w with
  | stream t k => exact s.booked_modTile t fun x => ⟨_, _, _, _, rfl⟩
  | thread n => exact ⟨⟨_, _, _, _, rfl⟩, fun _ => .refl _⟩
  | engine n => exact .refl s

theorem State.booked_modScal (s : State) (w : Who) (g : Scalars → Scalars) : s.Booked (s.modScal w g) := by
  cases w with
  | stream t k => exact s.booked_modTile t fun x => ⟨_, _, _, _, rfl⟩
  | thread n => exact ⟨⟨_, _, _, _, rfl⟩, fun _ => .refl _⟩
  | engine n => exact .refl s

theorem State.booked_retire (s : State) (bytes : Nat) : s.Booked (s.retire bytes) := by
  unfold State.retire
  extract_lets w s1 s2
  have h1 : s.Booked s1 := s.booked_modStrm ..
  have h2 : s.Booked s2 := by
    dsimp only [s2]
    split
    · exact h1.trans (s1.booked_modScal ..)
    · exact h1
  clear_value s2 s1 w
  split
  · exact h2.trans (s2.booked_modTile _ fun x => ⟨_, _, _, _, rfl⟩)
  · exact h2

theorem State.strm_modStrm_self (s : State) (t k : Nat) (g : Stream → Stream) : (s.modStrm (.stream t k) g).strm (.stream t k) = g (s.strm (.stream t k)) := by
  simp [State.modStrm, State.strm]

theorem State.strm_modTile (s : State) (t k : Nat) {g : Tile → Tile} (hg : ∀ x, (g x).streams = x.streams) :
    (s.modTile t g).strm (.stream t k) = s.strm (.stream t k) := by
  simp [State.strm, Tile.stream, hg]

/-- The stream that has issued: it is settled, and its work count has risen outside a match-point handler (R282). -/
theorem State.strm_retire {s : State} {t k : Nat} (h : s.cur = .stream t k) (bytes : Nat) :
    (s.retire bytes).strm s.cur = { (((s.strm s.cur).advance bytes (k == 0)).settled) with
      work := (s.strm s.cur).work + (if s.inHandler s.cur then 0 else 1) } := by
  unfold State.retire
  rw [h]
  refine (State.strm_modTile _ t k (g := fun x => { x with lastIssue := s.ccc }) fun _ => rfl).trans ?_
  split
  · exact (State.strm_modTile _ t k (g := fun x => { x with sc := x.sc.age }) fun _ => rfl).trans (s.strm_modStrm_self ..)
  · exact s.strm_modStrm_self ..

theorem State.booked_wakeWfe (s : State) (w : Who) : s.Booked (s.wakeWfe w) := by
  unfold State.wakeWfe
  split
  · exact s.booked_modStrm ..
  · exact .refl s

/-! ## Room in the undo log (R274, R276) -/

theorem State.booked_setCx (s : State) (c o : Nat) (v : Word) : s.Booked (s.setCx c o v) := ⟨⟨_, _, _, _, rfl⟩, fun _ => .refl _⟩

theorem State.booked_modLog (s : State) (c : Nat) (g : CtxLog → CtxLog) : s.Booked (s.modLog c g) := ⟨⟨_, _, _, _, rfl⟩, fun _ => .refl _⟩

theorem State.booked_freeBuffers (s : State) (l : List UndoRec) : s.Booked (s.freeBuffers l) :=
  List.foldlRecOn _ _ (.refl s) fun t ht _ _ => ht.trans (t.booked_modTile _ fun _ => ⟨_, _, _, _, rfl⟩)

theorem State.booked_dropOldest (s : State) (c : Nat) : s.Booked (s.dropOldest c) := by
  unfold State.dropOldest
  extract_lets old l gone s1 s2
  have h1 : s.Booked s1 := s.booked_modLog ..
  have h2 : s.Booked s2 := (h1.trans (s1.booked_setCx ..)).trans (State.booked_freeBuffers ..)
  exact h2.trans (s2.booked_setCx ..)

theorem State.booked_dropUntil {s t : State} {c len n : Nat} (h : s.dropUntil c len n = some t) : s.Booked t := by
  induction n generalizing s with
  | zero => exact nomatch h
  | succ n ih =>
    rw [State.dropUntil] at h
    split at h
    · cases h
      exact .refl _
    · split at h
      · exact nomatch h
      · exact (s.booked_dropOldest c).trans (ih h)

/-- Room in a context's ring: there was some, or oldest windows have gone; then USE rises. -/
theorem State.reserveRing_eq_ok {s t : State} {src c len : Nat} {va : Word} (h : s.reserveRing src c len va = .ok t) :
    ∃ s1 v, (s1 = s ∨ s.dropUntil c len (2 ^ 12) = some s1) ∧ t = s1.setCx c cUNDOUSE v := by
  unfold State.reserveRing at h
  extract_lets policy full room at h
  have hfull (u : State) : full ≠ .ok u := by
    dsimp only [full]
    split
    · exact nofun
    · split <;> exact nofun
  obtain ⟨s1, hroom, h1⟩ := Res.bind_eq_ok.mp h
  cases h1
  refine ⟨s1, _, ?_, rfl⟩
  dsimp only [room] at hroom
  split at hroom
  · cases hroom
    exact .inl rfl
  · split at hroom
    · split at hroom
      · cases hroom
        exact .inr ‹_›
      · exact absurd hroom (hfull s1)
    · exact absurd hroom (hfull s1)

theorem State.booked_reserve {s t : State} {src tile c nw : Nat} {va : Word} (h : s.reserve src tile c nw va = .ok t) : s.Booked t := by
  unfold State.reserve State.reserveLen at h
  obtain ⟨s2, hring, h2⟩ := Res.bind_eq_ok.mp h
  obtain ⟨s1, v, hs1, rfl⟩ := State.reserveRing_eq_ok hring
  have hb : s.Booked (s1.setCx c cUNDOUSE v) := by
    obtain rfl | hdrop := hs1
    · exact State.booked_setCx ..
    · exact (State.booked_dropUntil hdrop).trans (State.booked_setCx ..)
  split at h2
  · cases h2
    exact hb
  · split at h2
    · exact nomatch h2
    · cases h2
      exact hb.trans (State.booked_modTile _ _ fun _ => ⟨_, _, _, _, rfl⟩)

/-- A record that stays in its tile's buffer writes no memory (R274, R286). -/
theorem State.booked_record (s : State) (c : Nat) {r : UndoRec} (hr : r.inBuf = true) (new : List Byte) : s.Booked (s.record c r new) := by
  unfold State.record
  extract_lets s0 s1
  have h1 : s.Booked s1 := by
    rw [show s1 = s0 from if_pos hr]
    exact s.booked_modLog ..
  clear_value s1
  split
  · split
    · exact h1.trans (s1.booked_modTile _ fun _ => ⟨_, _, _, _, rfl⟩)
    · exact h1
  · exact h1

end Sys2Proof.Machine
end

section
/-! Sync flags (R219, R220): what a flag becomes, and what its change leaves. -/
namespace Sys2Proof.Machine
open Sys2Proof

/-- What a change of a flag does: its record and its wake are bookkeeping beside it. -/
theorem State.flagPut_booked (s : State) (src t f : Nat) (v : BitVec 16) :
    ∃ s1, s.Booked s1 ∧ (s1.modTile t fun y => { y with flags := tput 0 y.flags f v }).Booked (s.flagPut src t f v) :=
  ⟨_, s.booked_record (s.ctxOfTile t) rfl _, State.booked_wakeWfe ..⟩

theorem State.flagPut_keeps (s : State) (src t f : Nat) (v : BitVec 16) {α : Sort*} (g : State → α)
    (hg : ∀ r l x h, g { s with regs := r, logs := l, tiles := x, threads := h } = g s) : g (s.flagPut src t f v) = g s := by
  obtain ⟨s1, ⟨⟨r, l, x, h, rfl⟩, -⟩, h2⟩ := s.flagPut_booked src t f v
  obtain ⟨⟨r', l', x', h', e⟩, -⟩ := h2
  rw [e]
  exact hg ..

theorem State.flag_flagPut (s : State) (src t f : Nat) (v : BitVec 16) (j : Nat) :
    ((s.flagPut src t f v).tile t).flag j = if j = f then v else (s.tile t).flag j := by
  obtain ⟨s1, h1, h2⟩ := s.flagPut_booked src t f v
  rw [h2.flag, State.tile_modTile_self, ← h1.flag]
  exact tget_tput ..

theorem State.flagsat_flagPut (s : State) (src t f : Nat) (v : BitVec 16) : ((s.flagPut src t f v).tile t).flagsat = (s.tile t).flagsat := by
  obtain ⟨s1, h1, h2⟩ := s.flagPut_booked src t f v
  rw [h2.tile t (·.flagsat) fun _ _ _ _ _ => rfl, State.tile_modTile_self]
  exact h1.tile t (·.flagsat) fun _ _ _ _ _ => rfl

theorem State.flagAdd_eq {s : State} {src t f : Nat} (h : ((s.tile t).flag f).toNat < 65535) :
    s.flagAdd src t f = s.flagPut src t f ((s.tile t).flag f + 1) := if_neg fun e => by
  rw [e] at h
  exact absurd h (by decide)

/-- A flag at 65,535 stays, and its FLAGSAT bit is set (R219). -/
theorem State.flagAdd_full {s : State} {src t f : Nat} (h : ((s.tile t).flag f).toNat = 65535) :
    s.flagAdd src t f = (s.flagPut src t f ((s.tile t).flag f)).modTile t fun y => { y with flagsat := y.flagsat ||| (1 <<< (f % 64)) } :=
  if_pos (BitVec.eq_of_toNat_eq h)

theorem State.remoteFlags_flagAdd (s : State) (src t f : Nat) : (s.flagAdd src t f).remoteFlags = s.remoteFlags := by
  unfold State.flagAdd
  dsimp only
  split
  · exact s.flagPut_keeps src t f _ (·.remoteFlags) fun _ _ _ _ => rfl
  · exact s.flagPut_keeps src t f _ (·.remoteFlags) fun _ _ _ _ => rfl

/-! ## The instructions (R352) -/

section
variable {s s1 : State} {f : Tri} {t : Nat}

/-- A party that waits behind no ACQ goes on to its own checks (R349). -/
theorem State.onTile_acqHeld {α : Type} (hcur : s.cur = .stream t 0) (hacq : s.acquiring = false) (k : Nat → Res α) :
    (s.onTile.bind fun t => s.acqHeld.bind fun _ => k t) = k t := by
  rw [State.onTile_eq_ok.mpr ⟨0, hcur⟩, (State.acqHeld_eq_ok (u := ())).mpr hacq]
  rfl

theorem exec_flagw (hcur : s.cur = .stream t 0) (hacq : s.acquiring = false) (ha : s.Full f.a) (hpos : 0 < (s.rs f.a).toNat)
    (hle : (s.rs f.a).toNat ≤ ((s.tile t).flag f.d.toNat).toNat) (hres : s.flagReserve 0 t f.d.toNat = .ok s1) :
    exec (.flagw f) s = .next ((s1.flagPut 0 t f.d.toNat ((s.tile t).flag f.d.toNat - BitVec.ofNat 16 (s.rs f.a).toNat)).retire 4) := by
  have hlt := ((s.tile t).flag f.d.toNat).isLt
  have hne : s.rs f.a ≠ 0 := fun e => by
    rw [e] at hpos
    exact absurd hpos (by decide)
  have hflag : (s1.tile t).flag f.d.toNat = (s.tile t).flag f.d.toNat := (State.booked_reserve hres).flag ..
  have htake : s1.flagTake 0 t f.d.toNat (s.rs f.a).toNat =
      some (s1.flagPut 0 t f.d.toNat ((s.tile t).flag f.d.toNat - BitVec.ofNat 16 (s.rs f.a).toNat)) := by
    unfold State.flagTake
    dsimp only
    rw [hflag, if_pos hle]
  change execFlagw f s = _
  unfold execFlagw
  rw [State.onTile_acqHeld hcur hacq, State.src_eq_ok.mpr ⟨ha, rfl⟩, Res.ok_bind, decide_eq_true (by omega), Res.check_true, Res.ok_bind, if_neg hne,
    if_neg (by omega), hres, Res.ok_bind, htake]
  rfl

/-- FLAGS of the own tile. -/
theorem exec_flags_own (hcur : s.cur = .stream t 0) (hacq : s.acquiring = false) (ha : f.a = 0) (hres : s.flagReserve 0 t f.d.toNat = .ok s1) :
    exec (.flags f) s = .next ((s1.flagAdd 0 t f.d.toNat).retire 4) := by
  have hfull : s.isEmpty s.cur f.a = false := by
    rw [ha]
    rfl
  change execFlags f s = _
  unfold execFlags
  rw [State.onTile_acqHeld hcur hacq, State.src_eq_ok.mpr ⟨hfull, rfl⟩, Res.ok_bind, if_pos ha, Res.ok_bind, hres, Res.ok_bind]
  dsimp only
  rw [List.filter_cons_of_neg (by simp), List.filter_nil, List.map_nil, List.append_nil,
    ← s1.remoteFlags_flagAdd 0 t f.d.toNat]
  rfl

theorem exec_flagc (hcur : s.cur = .stream t 0) (hacq : s.acquiring = false) (hres : s.flagReserve 0 t f.d.toNat = .ok s1) :
    exec (.flagc f) s = .next ((s1.flagPut 0 t f.d.toNat 0).retire 4) := by
  change execFlagc f s = _
  unfold execFlagc
  rw [State.onTile_acqHeld hcur hacq, hres]
  rfl

end

/-- A signal arrives (R220). -/
theorem exec_remoteFlagSignal {s s1 : State} {e : RemoteFlag} (he : s.remoteFlags = [e])
    (hres : State.flagReserve { s with remoteFlags := [] } 0 e.dst e.flag = .ok s1) :
    exec (.remoteFlagSignal e.dst e.src) s = .next (s1.flagAdd 0 e.dst e.flag) := by
  change execRemoteFlagSignal e.dst e.src s = _
  unfold execRemoteFlagSignal
  rw [he, List.find?_cons_of_pos (by simp)]
  dsimp only
  rw [List.erase_cons_head, hres]

/-! ## What the flags are then -/

section
variable {s s1 : State} {src t f : Nat}

/-- The flags of the tile after the instruction that has changed one. -/
theorem State.flag_retire_flagPut (hb : s.Booked s1) (v : BitVec 16) (j : Nat) :
    (((s1.flagPut src t f v).retire 4).tile t).flag j = if j = f then v else (s.tile t).flag j := by
  rw [(State.booked_retire _ 4).flag, State.flag_flagPut, hb.flag]

/-- One more in a flag that is not full, and its other flags as before. -/
theorem State.flag_flagAdd (hb : s.Booked s1) (h : ((s.tile t).flag f).toNat < 65535) (j : Nat) :
    ((s1.flagAdd src t f).tile t).flag j = if j = f then (s.tile t).flag f + 1 else (s.tile t).flag j := by
  rw [State.flagAdd_eq (by rwa [hb.flag]), State.flag_flagPut, hb.flag, hb.flag]

/-- A full flag stays, and its FLAGSAT bit is set. -/
theorem State.flagAdd_full_facts (hb : s.Booked s1) (hf : f < 64) (h : ((s.tile t).flag f).toNat = 65535) :
    ((s1.flagAdd src t f).tile t).flag f = (s.tile t).flag f ∧
      ((s1.flagAdd src t f).tile t).flagsat = (s.tile t).flagsat ||| 1 <<< f := by
  have hsat : (s1.tile t).flagsat = (s.tile t).flagsat := hb.tile t (·.flagsat) fun _ _ _ _ _ => rfl
  have hput := s1.flag_flagPut src t f ((s1.tile t).flag f) f
  rw [if_pos rfl] at hput
  rw [State.flagAdd_full (by rwa [hb.flag]), State.tile_modTile_self]
  refine ⟨hput.trans (hb.flag ..), ?_⟩
  dsimp only
  rw [State.flagsat_flagPut, hsat, Nat.mod_eq_of_lt hf]

end

/-- FLAGW takes its count (R219, R352). -/
theorem flagw_facts {s s1 : State} {f : Tri} {t : Nat} (hcur : s.cur = .stream t 0) (hacq : s.acquiring = false) (hres : s.flagReserve 0 t f.d.toNat = .ok s1)
    (ha : s.Full f.a) (hpos : 0 < (s.rs f.a).toNat) (hle : (s.rs f.a).toNat ≤ ((s.tile t).flag f.d.toNat).toNat) :
    ∃ u, exec (.flagw f) s = .next u ∧ ((u.tile t).flag f.d.toNat).toNat = ((s.tile t).flag f.d.toNat).toNat - (s.rs f.a).toNat ∧ u.hbm = s1.hbm ∧
      ∀ j, j ≠ f.d.toNat → (u.tile t).flag j = (s.tile t).flag j := by
  have hput := State.flag_retire_flagPut (src := 0) (t := t) (f := f.d.toNat) (State.booked_reserve hres)
  have hlt := ((s.tile t).flag f.d.toNat).isLt
  refine ⟨_, exec_flagw hcur hacq ha hpos hle hres, ?_, ?_, fun j hj => (hput _ j).trans (if_neg hj)⟩
  · rw [hput, if_pos rfl, BitVec.toNat_sub_of_le (BitVec.le_def.mpr (by rw [BitVec.toNat_ofNat]; omega)), BitVec.toNat_ofNat]
    omega
  · rw [State.retire_hbm]
    exact s1.flagPut_keeps 0 t f.d.toNat _ (·.hbm) fun _ _ _ _ => rfl

theorem flags_facts {s s1 : State} {f : Tri} {t : Nat} (hcur : s.cur = .stream t 0) (hacq : s.acquiring = false) (hres : s.flagReserve 0 t f.d.toNat = .ok s1)
    (ha : f.a = 0) (h : ((s.tile t).flag f.d.toNat).toNat < 65535) :
    ∃ u, exec (.flags f) s = .next u ∧ (u.tile t).flag f.d.toNat = (s.tile t).flag f.d.toNat + 1 ∧ u.remoteFlags = s1.remoteFlags ∧
      ∀ j, j ≠ f.d.toNat → (u.tile t).flag j = (s.tile t).flag j := by
  have hadd (j : Nat) := (State.booked_retire (s1.flagAdd 0 t f.d.toNat) 4).flag t j |>.trans (State.flag_flagAdd (State.booked_reserve hres) h j)
  refine ⟨_, exec_flags_own hcur hacq ha hres, (hadd _).trans (if_pos rfl), ?_, fun j hj => (hadd j).trans (if_neg hj)⟩
  rw [State.retire_remoteFlags, State.remoteFlags_flagAdd]

theorem flags_full_facts {s s1 : State} {f : Tri} {t : Nat} (hcur : s.cur = .stream t 0) (hacq : s.acquiring = false)
    (hres : s.flagReserve 0 t f.d.toNat = .ok s1) (ha : f.a = 0) (h : ((s.tile t).flag f.d.toNat).toNat = 65535) :
    ∃ u, exec (.flags f) s = .next u ∧ (u.tile t).flag f.d.toNat = (s.tile t).flag f.d.toNat ∧
      (u.tile t).flagsat = (s.tile t).flagsat ||| 1 <<< f.d.toNat := by
  obtain ⟨hflag, hsat⟩ := State.flagAdd_full_facts (src := 0) (State.booked_reserve hres) f.d.isLt h
  have hb := State.booked_retire (s1.flagAdd 0 t f.d.toNat) 4
  exact ⟨_, exec_flags_own hcur hacq ha hres, (hb.flag ..).trans hflag, (hb.tile t (·.flagsat) fun _ _ _ _ _ => rfl).trans hsat⟩

theorem flagc_facts {s s1 : State} {f : Tri} {t : Nat} (hcur : s.cur = .stream t 0) (hacq : s.acquiring = false)
    (hres : s.flagReserve 0 t f.d.toNat = .ok s1) :
    ∃ u, exec (.flagc f) s = .next u ∧ (u.tile t).flag f.d.toNat = 0 ∧ ∀ j, j ≠ f.d.toNat → (u.tile t).flag j = (s.tile t).flag j := by
  have hput := State.flag_retire_flagPut (src := 0) (t := t) (f := f.d.toNat) (State.booked_reserve hres) 0
  exact ⟨_, exec_flagc hcur hacq hres, (hput _).trans (if_pos rfl), fun j hj => (hput j).trans (if_neg hj)⟩

/-- The signal has left the way, and the flag has one more (R220). -/
theorem remoteFlagSignal_facts {s s1 : State} {e : RemoteFlag} (he : s.remoteFlags = [e])
    (hres : State.flagReserve { s with remoteFlags := [] } 0 e.dst e.flag = .ok s1) (h : ((s.tile e.dst).flag e.flag).toNat < 65535) :
    ∃ u, exec (.remoteFlagSignal e.dst e.src) s = .next u ∧ u.remoteFlags = [] ∧ (u.tile e.dst).flag e.flag = (s.tile e.dst).flag e.flag + 1 := by
  have hb := State.booked_reserve hres
  refine ⟨_, exec_remoteFlagSignal he hres, ?_, (State.flag_flagAdd hb h e.flag).trans (if_pos rfl)⟩
  rw [State.remoteFlags_flagAdd]
  exact hb.keeps (·.remoteFlags) fun _ _ _ _ => rfl

theorem flagResults : FlagResults :=
  ⟨fun _ _ _ _ hcur hacq hres => ⟨flagw_facts hcur hacq hres, flags_facts hcur hacq hres, flags_full_facts hcur hacq hres, flagc_facts hcur hacq hres⟩,
    fun _ _ _ => remoteFlagSignal_facts⟩

end Sys2Proof.Machine
end

section
/-! Fences and barriers (R136, R141, R350), and flags. -/
namespace Sys2Proof.Machine
open Sys2Proof

/-! ## Fences (R136, R141) -/

theorem exec_fence {s : State} (hacq : s.acquiring = false) (hdone : s.performed s.cur = true) : exec .fence s = .next (s.retire 4) := by
  change execFence s = _
  unfold execFence
  rw [(State.acqHeld_eq_ok (u := ())).mpr hacq, Res.ok_bind, if_pos hdone]
  rfl

/-- Answers that are all OK report nothing (R141). -/
theorem firstBad_of_ok {l : List Sent} (h : ∀ e ∈ l, e.status = some 0) : firstBad l = none := by
  have hnone : l.filter (fun e => (e.status.bind ackCause).isSome) = [] := by
    rw [List.filter_eq_nil_iff]
    intro e he
    rw [h e he]
    decide
  unfold firstBad
  rw [hnone]
  rfl

/-- FENCE.RF waits for no store, host write or packet of the party, and its packets are all answered OK. -/
theorem exec_fenceRf {s : State} (hacq : s.acquiring = false) (hstores : ∀ e ∈ s.stores, e.refl = none)
    (htlps : ∀ h ∈ s.hostTlps, withParty s.cur h.who = false) (hok : ∀ e ∈ s.sent, e.isOf s.cur (s.runOf s.cur) = true → e.status = some 0) :
    exec .fenceRf s = .next (({ s with sent := s.sent.filter fun e => !e.isOf s.cur (s.runOf s.cur) } : State).retire 4) := by
  have hmine : ∀ e ∈ s.sent.filter (fun e => e.isOf s.cur (s.runOf s.cur)), e.status = some 0 := fun e he =>
    hok e (List.mem_filter.mp he).1 (List.mem_filter.mp he).2
  have h1 : (s.stores.any fun e => e.refl.isSome && e.run == s.runOf s.cur && withParty s.cur e.who) = false := by
    rw [List.any_eq_false]
    intro e he
    simp [hstores e he]
  have h2 : (s.hostTlps.any fun h => h.run == s.runOf s.cur && withParty s.cur h.who) = false := by
    rw [List.any_eq_false]
    intro h hh
    simp [htlps h hh]
  have h3 : ((s.sent.filter fun e => e.isOf s.cur (s.runOf s.cur)).any fun e => e.status.isNone) = false := by
    rw [List.any_eq_false]
    intro e he
    simp [hmine e he]
  change execFenceRf s = _
  unfold execFenceRf
  dsimp only
  rw [(State.acqHeld_eq_ok (u := ())).mpr hacq, Res.ok_bind, h1, h2, h3, if_neg (by decide), firstBad_of_ok hmine]
  rfl

/-! ## Barriers (R350) -/

/-- A BAR that is counted now: its tile has issued one more for the subgroup. -/
def State.countBar (s : State) (t g : Nat) : State :=
  (s.modTile t fun x => { x with bars := tput 0 x.bars g (tget 0 x.bars g + 1) }).modStrm s.cur fun st => { st with counted := true }

theorem State.subgroup_eq_ok {s : State} {t g : Nat} {a : Word} (ha : a = BitVec.ofNat 64 g) (hg : g < 2 ^ 14) (hok : s.subgroupOk t g = true) :
    s.subgroup t a = .ok g := by
  have hnat : a.toNat = g := by
    rw [ha, BitVec.toNat_ofNat]
    omega
  have hlow : fld a 0 14 = g := by
    unfold fld
    rw [hnat, Nat.shiftRight_zero, Nat.mod_eq_of_lt hg]
  unfold State.subgroup
  rw [fld_of_lt (hnat ▸ hg), hlow, hok]
  rfl

section
variable {s : State} {f : Tri} {t g : Nat}

theorem State.bars_countBar (s : State) (t g u : Nat) :
    tget 0 ((s.countBar t g).tile u).bars g = if u = t then tget 0 (s.tile t).bars g + 1 else tget 0 (s.tile u).bars g := by
  unfold State.countBar
  rw [(State.booked_modStrm _ _ _).tile u (·.bars) fun _ _ _ _ _ => rfl, State.tile_modTile]
  split
  · dsimp only
    exact tget_tput_self 0 (s.tile t).bars g _
  · rfl

/-- The last tile of a subgroup to reach a BAR goes on. -/
theorem exec_bar (hcur : s.cur = .stream t 0) (hacq : s.acquiring = false) (ha : s.Full f.a) (hg : s.rs f.a = BitVec.ofNat 64 g) (hlt : g < 2 ^ 14)
    (hok : s.subgroupOk t g = true) (hnew : (s.strm s.cur).counted = false)
    (hothers : ∀ u ∈ rectTiles g, u ≠ t → tget 0 (s.tile t).bars g + 1 ≤ tget 0 (s.tile u).bars g) :
    exec (.bar f) s = .next ((s.countBar t g).retire 4) := by
  have hall : ((rectTiles g).all fun u => decide (tget 0 ((s.countBar t g).tile t).bars g ≤ tget 0 ((s.countBar t g).tile u).bars g)) = true := by
    rw [List.all_eq_true]
    intro u hu
    rw [decide_eq_true_iff, State.bars_countBar, State.bars_countBar, if_pos rfl]
    split
    · exact le_rfl
    · exact hothers u hu ‹_›
  change execBar f s = _
  unfold execBar
  rw [State.onTile_acqHeld hcur hacq, State.src_eq_ok.mpr ⟨ha, rfl⟩, Res.ok_bind, State.subgroup_eq_ok hg hlt hok, Res.ok_bind, hnew, if_neg Bool.false_ne_true]
  exact congrArg (Res.finish · s) (if_pos hall)

/-- A BAR is counted at its issue, is no more under way, and counts as work outside a handler (R282). -/
theorem State.strm_retire_countBar (h : s.cur = .stream t 0) :
    (((s.countBar t g).retire 4).strm s.cur).counted = false ∧
      (((s.countBar t g).retire 4).strm s.cur).work = (s.strm s.cur).work + (if s.inHandler s.cur then 0 else 1) := by
  have hcur : (s.countBar t g).cur = s.cur := by simp [State.countBar]
  have hstrm : (s.countBar t g).strm s.cur = { s.strm s.cur with counted := true } := by
    rw [State.countBar, h, State.strm_modStrm_self, State.strm_modTile]
    exact fun _ => rfl
  have hhandler : (s.countBar t g).inHandler s.cur = s.inHandler s.cur := by
    rw [State.countBar, h]
    simp [State.inHandler, State.modStrm, Tile.setStream]
  have hretire := State.strm_retire (hcur.trans h) 4
  rw [hcur, hstrm, hhandler] at hretire
  rw [hretire]
  exact ⟨rfl, rfl⟩

end

theorem fencesAndBarriers : FencesAndBarriers := by
  refine ⟨fun s => exec_fence, fun s => exec_fenceRf, fun s f t g hcur hacq ha hg hlt hok hnew hothers => ?_⟩
  obtain ⟨hcounted, hwork⟩ := State.strm_retire_countBar (g := g) hcur
  refine ⟨_, exec_bar hcur hacq ha hg hlt hok hnew hothers, ?_, hcounted, hwork, ?_⟩
  · rw [(State.booked_retire _ 4).tile t (·.bars) fun _ _ _ _ _ => rfl, State.bars_countBar, if_pos rfl]
  · rw [State.retire_hbm, State.countBar, State.modStrm_hbm]
    rfl

/-- Settles O46: fences and barriers by what they wait for, flags by what a change of one leaves. -/
theorem fencesBarriersFlags : Obligations.FencesBarriersFlags := ⟨fencesAndBarriers, flagResults⟩

end Sys2Proof.Machine
end

section
/-! What the end of a send leaves of the other sends and of the posted writes (R61, R70, R98). -/
namespace Sys2Proof.Machine
open Sys2Proof

/-- The sends that await delivery, and the posted writes that await acceptance. -/
def State.outgoing (s : State) : List Send × List HostTlp := (s.sends, s.hostTlps)

theorem State.outgoing_evaluate (s : State) (i : Nat) (v : Word) (arr : Option Arrival) : (s.evaluate i v arr).outgoing = s.outgoing := by
  have hfire : (s.fire i v arr).outgoing = s.outgoing := by
    unfold State.fire
    dsimp only
    split
    · rfl
    · rfl
  unfold State.evaluate
  dsimp only
  split
  · rfl
  · exact hfire

theorem State.outgoing_trigger (s : State) : s.trigger.outgoing = s.outgoing := by
  unfold State.trigger
  split
  · rfl
  · rfl

theorem State.outgoing_setCounter (s : State) (n : Nat) (v : Word) (arr : Option Arrival) : (s.setCounter n v arr).outgoing = s.outgoing := by
  unfold State.setCounter
  split
  · rfl
  · extract_lets s0 s1 armed
    have h1 : s1.outgoing = s.outgoing := by
      dsimp only [s1]
      split
      · exact s0.outgoing_trigger
      · rfl
    exact List.foldlRecOn (motive := fun u : State => u.outgoing = s.outgoing) _ _ h1 fun u hu i _ => (u.outgoing_evaluate ..).trans hu

theorem State.outgoing_counterEvent (s : State) (n : Nat) (set : Bool) (v : Word) : (s.counterEvent n set v).outgoing = s.outgoing := by
  unfold State.counterEvent State.counterWrite
  dsimp only
  split
  · rfl
  · split
    · exact s.accept.outgoing_setCounter ..
    · exact s.accept.outgoing_setCounter ..

theorem State.outgoing_report (s : State) (c : Cause) (ctx srck srcix detail : Nat) : (s.report c ctx srck srcix detail).outgoing = s.outgoing :=
  (s.reported_report ..).keeps State.outgoing fun _ _ _ => rfl

theorem State.outgoing_setReg128 (s : State) (off : Nat) (v : BitVec 128) : (s.setReg128 off v).outgoing = s.outgoing := rfl

theorem State.outgoing_setRegF (s : State) (off lo w x : Nat) : (s.setRegF off lo w x).outgoing = s.outgoing := rfl

theorem State.outgoing_flog (s : State) (srcix actn : Nat) (c : Cause) (ctx rkind : Nat) : (s.flog srcix actn c ctx rkind).2.outgoing = s.outgoing :=
  (State.outgoing_setRegF ..).trans (State.outgoing_setReg128 ..)

theorem State.outgoing_endRun (s : State) (n : Nat) : (s.endRun n).outgoing = s.outgoing := rfl

theorem State.outgoing_raiseThread (s : State) (n : Nat) (c : Cause) : (s.raiseThread n c).outgoing = s.outgoing := by
  unfold State.raiseThread
  extract_lets ctx f
  have hf : f.2.outgoing = s.outgoing := s.outgoing_flog ..
  clear_value f
  rw [State.outgoing_endRun]
  split
  · exact (f.2.outgoing_report ..).trans hf
  · exact hf

theorem State.outgoing_modOp (s : State) (w : Who) (id : Nat) (f : VarOp → VarOp) : (s.modOp w id f).outgoing = s.outgoing := by
  obtain ⟨T, H, h⟩ := s.modScal_sameBut w fun c => { c with ops := c.ops.map fun o => if o.id = id then f o else o }
  exact (congrArg State.outgoing h).trans rfl

/-- The sends of the identity are gone, and the posted writes are as before. -/
theorem State.outgoing_endSend (s : State) (e : Send) (bad : Option Cause) :
    (s.endSend e bad).outgoing = (s.sends.filter fun x => x.id != e.id, s.hostTlps) := by
  have hreport (u : State) (srcix actn : Nat) (c : Cause) (rkind srck : Nat) :
      ((u.flog srcix actn c e.ctx rkind).2.report c e.ctx srck srcix (u.flog srcix actn c e.ctx rkind).1).outgoing = u.outgoing :=
    (State.outgoing_report ..).trans (State.outgoing_flog ..)
  unfold State.endSend
  extract_lets s1
  change _ = s1.outgoing
  clear_value s1
  split
  · rename_i s2 _ _
    have h2 : s2.outgoing = s1.outgoing := by
      dsimp only [s2]
      split
      · exact s1.outgoing_counterEvent ..
      · rfl
    clear_value s2
    split
    · exact (s2.outgoing_modOp ..).trans h2
    · exact h2
  · exact hreport ..
  · split
    · split
      · split
        · exact s1.outgoing_raiseThread ..
        · rfl
      · exact hreport ..
    · rfl

theorem State.sends_sendEnds {s : State} {e : Send} (h : s.sends = [e]) (bad : Option Cause) : (s.sendEnds e.id bad).sends = [] := by
  have hout : (s.sendEnds e.id bad).outgoing = ([], s.hostTlps) := by
    unfold State.sendEnds
    rw [h, List.find?_cons_of_pos (by simp)]
    dsimp only
    rw [State.outgoing_endSend, h, List.filter_cons_of_neg (by simp), List.filter_nil]
  exact congrArg Prod.fst hout

theorem State.hostTlps_sendEnds (s : State) (id : Nat) (bad : Option Cause) : (s.sendEnds id bad).hostTlps = s.hostTlps := by
  unfold State.sendEnds
  split
  · exact congrArg Prod.snd (s.outgoing_endSend ..)
  · rfl

/-- The oldest posted write leaves (R70). -/
theorem exec_hostWriteAccepted {s : State} {h : HostTlp} {rest : List HostTlp} (hq : s.hostTlps = h :: rest) :
    ∃ u, exec .hostWriteAccepted s = .next u ∧ u.hostTlps = rest := by
  change ∃ u, execHostWriteAccepted s = .next u ∧ _
  unfold execHostWriteAccepted
  rw [hq]
  refine ⟨_, rfl, ?_⟩
  split
  · exact State.hostTlps_sendEnds ..
  · rfl

end Sys2Proof.Machine
end

section
/-! Inputs of the Ethernet ports (R56-R62, R79, R80, R261). -/
namespace Sys2Proof.Machine
open Sys2Proof

/-! ## An input that is the first of its ingress (R276, R285) -/

section
variable {s s1 : State} {x : LiveInput}

theorem State.liveInput_ok (hfree : ∀ y ∈ s.heldIn, y.ingress ≠ x.ingress) (h : s.applyInput x = .ok s1) : s.liveInput x = s1 := by
  unfold State.liveInput
  rw [if_neg (by simpa using hfree), h]

theorem State.liveInput_stall {why : Stall} (hfree : ∀ y ∈ s.heldIn, y.ingress ≠ x.ingress) (h : s.applyInput x = .stall why s1) :
    s.liveInput x = { s1 with heldIn := s1.heldIn ++ [x] } := by
  unfold State.liveInput
  rw [if_neg (by simpa using hfree), h]

end

/-! ## Requests (R56-R61) -/

section
variable {s s1 : State} {r : UetRequest} {c : Nat}

/-- A request comes by either of the two events. -/
theorem exec_request (hfree : ∀ x ∈ s.heldIn, x.ingress ≠ r.port % 4 + 1) (h : s.uetRequest r = .ok s1) :
    ∀ i ∈ ([.taggedSendArrival r, .rmaWriteArrival r] : List Instr), exec i s = .next s1 := by
  have hlive : s.liveInput (.request r) = s1 := State.liveInput_ok hfree h
  simp only [List.forall_mem_cons, List.not_mem_nil, false_imp_iff, implies_true, and_true]
  exact ⟨congrArg Host.Outcome.next hlive, congrArg Host.Outcome.next hlive⟩

theorem State.uetRequest_uud (hm : r.mode = .uud) : s.uetRequest r = .ok (s.bump offUetDrop) := if_pos hm

theorem State.uetRequest_tagged (hp : r.pdc < pdcLimit) (hm : r.mode ≠ .uud) (hk : r.kind = .taggedSend) :
    s.uetRequest r = .ok (if r.mode = .rudi then s.refuse r.port false else s.taggedSend r) := by
  unfold State.uetRequest
  rw [if_neg hm, if_neg (by omega), hk]

theorem State.uetRequest_write (hp : r.pdc < pdcLimit) (hm : r.mode ≠ .uud) (hk : r.kind = .rmaWrite) : s.uetRequest r = s.rmaWrite r := by
  unfold State.uetRequest
  rw [if_neg hm, if_neg (by omega), hk]

theorem State.uetRequest_other (hp : r.pdc < pdcLimit) (hm : r.mode ≠ .uud) (hs : r.kind ≠ .taggedSend) (hw : r.kind ≠ .rmaWrite) :
    s.uetRequest r = .ok (s.refuse r.port false) := by
  unfold State.uetRequest
  rw [if_neg hm, if_neg (by omega)]
  split
  · exact absurd ‹_› hs
  · exact absurd ‹_› hw
  · rfl

theorem State.taggedSend_unknown (h : s.jobCtx r.job.toNat = none) : s.taggedSend r = s.refuse r.port false := by
  unfold State.taggedSend
  rw [h]

theorem State.taggedSend_unavailable (h : s.jobCtx r.job.toNat = some c) (hu : s.unavailable c = true) : s.taggedSend r = s.emit (.nack r.port) := by
  unfold State.taggedSend
  rw [h]
  exact if_pos hu

/-- A tagged send of a known job joins the arrivals (R58, R60). -/
theorem State.taggedSend_joins (h : s.jobCtx r.job.toNat = some c) (hu : s.unavailable c = false) :
    ∃ a : Arrival, s.taggedSend r = { s with arrivals := s.arrivals ++ [a] } ∧ a.mb = r.tag ∧ a.skind = r.port % 4 + 1 ∧ a.aop = false ∧
      a.src = s.peerIndex r.port r ∧ a.hdata = r.hdata.getD 0 ∧ a.len = r.len ∧ a.ctx = c ∧ a.data = r.data.take r.len ∧
      a.left = r.len - r.data.length ∧ a.born = s.ferryCycle := by
  unfold State.taggedSend
  rw [h]
  dsimp only
  rw [if_neg (by simp [hu])]
  exact ⟨_, rfl, rfl, rfl, rfl, rfl, rfl, rfl, rfl, rfl, rfl, rfl⟩

/-- A tagged send that comes while its context is available is an arrival. -/
theorem exec_taggedSendArrival_joins (hfree : ∀ x ∈ s.heldIn, x.ingress ≠ r.port % 4 + 1) (hp : r.pdc < pdcLimit) (hm : r.mode ≠ .uud)
    (hk : r.kind = .taggedSend) (hrudi : r.mode ≠ .rudi) (hjob : s.jobCtx r.job.toNat = some c) (hu : s.unavailable c = false) :
    ∃ u a, exec (.taggedSendArrival r) s = .next u ∧ u = { s with arrivals := s.arrivals ++ [(a : Arrival)] } ∧ a.mb = r.tag ∧
      a.skind = r.port % 4 + 1 ∧ a.aop = false ∧ a.src = s.peerIndex r.port r ∧ a.hdata = r.hdata.getD 0 ∧ a.len = r.len ∧ a.ctx = c ∧
      a.data = r.data.take r.len ∧ a.left = r.len - r.data.length ∧ a.born = s.ferryCycle := by
  obtain ⟨a, ha, hfields⟩ := State.taggedSend_joins (r := r) hjob hu
  refine ⟨_, a, exec_request hfree (State.uetRequest_tagged hp hm hk) _ (by simp), ?_, hfields⟩
  rw [if_neg hrudi, ha]

theorem State.rmaWrite_unknown (h : s.jobCtx r.job.toNat = none) : s.rmaWrite r = .ok (s.refuse r.port false) := by
  unfold State.rmaWrite
  rw [h]

/-- An RMA write that its window takes leaves its replay entry, and with header data a notice (R59, R283). -/
theorem State.rmaWrite_deposits (hjob : s.jobCtx r.job.toNat = some c) (hkey : r.tag.toNat < 4096) (hvalid : bit (s.reg128 (offRxw r.tag.toNat)) 0 = true)
    (hsize : r.off.toNat + r.data.length ≤ winSize (s.reg128 (offRxw r.tag.toNat)))
    (hu : s.unavailable (fld (s.reg128 (offRxw r.tag.toNat)) 1 6) = false) (hw : s.rxWrite r.tag.toNat r.off.toNat r.data none = .ok s1) :
    (r.hdata = none → s.rmaWrite r = .ok (s1.recordWrite r.tag.toNat r.off.toNat r.data)) ∧
    ∀ h, r.hdata = some h → ∃ a : Arrival, s.rmaWrite r =
      .ok { s1.recordWrite r.tag.toNat r.off.toNat r.data with arrivals := (s1.recordWrite r.tag.toNat r.off.toNat r.data).arrivals ++ [a] } ∧
        a.aop = true ∧ a.mb = r.tag ∧ a.hdata = h ∧ a.len = r.data.length ∧ a.ctx = c := by
  unfold State.rmaWrite
  dsimp only
  rw [hjob]
  dsimp only
  rw [if_neg (by simp [hkey, hvalid, hsize]), if_neg (by simp [hu]), hw, Res.ok_bind]
  refine ⟨fun h => ?_, fun h hh => ?_⟩
  · rw [h]
  · rw [hh]
    exact ⟨_, rfl, rfl, rfl, rfl, rfl, rfl⟩

theorem State.recordWrite_keeps (s : State) (w off : Nat) (data : List Byte) {α : Sort*} (f : State → α)
    (hf : ∀ h r l, f { s with hbm := h, regs := r, logs := l } = f s) : f (s.recordWrite w off data) = f s :=
  (s.recorded_recordInput _ _ _ _).keeps f hf

end

/-! ## Later packets of a send (R60) -/

section
variable {s s1 : State} {p off : Nat} {data : List Byte} {d : Deposit}

/-- The bytes of a later packet go to the deposit's window. -/
theorem exec_continuationPacket (hd : s.deposits = [d]) (hp : d.pdc = some p) (hleft : d.left ≠ 0) (hrec : d.recAt = none)
    (hfree : ∀ x ∈ s.heldIn, x.ingress ≠ p / 4096 % 4 + 1) (hw : s.rxWrite d.rxw (d.off + off) (data.take d.left) none = .ok s1) :
    exec (.continuationPacket p off data) s =
      .next { s1 with deposits := [{ d with left := d.left - (data.take d.left).length, born := s1.ferryCycle }] } := by
  have hds : s1.deposits = [d] := ((State.delivered_rxWrite hw).keeps (·.deposits) fun _ _ _ _ _ => rfl).trans hd
  have hfill (u : State) (c o : Nat) (bs : List Byte) : u.replayFill c d.recAt o bs = u := by
    rw [hrec]
    rfl
  refine congrArg Host.Outcome.next (State.liveInput_ok hfree ?_)
  change s.morePacket p off data = _
  unfold State.morePacket
  rw [hd, List.find?_cons_of_pos (by simp [hp, hleft])]
  dsimp only
  rw [hw]
  dsimp only
  rw [hfill, hds, List.map_cons, if_pos rfl, List.map_nil]

/-- A deposit without a counter's update is complete: OUTST falls, and nothing else of its entry moves while the entry is armed (R84, R86). -/
theorem State.completeDeposit_uncounted {s : State} {d : Deposit} (hadd : d.add = none) (harmed : d.entry ∉ s.disarmed) :
    s.completeDeposit d = State.modEntry { s with deposits := s.deposits.erase d } d.entry fun e => setFld e 232 8 (eOutst e - 1) := by
  unfold State.completeDeposit
  rw [hadd]
  exact if_neg (by simp [State.modEntry, State.setEntry, harmed])

/-- A deposit whose packets come no more is complete with what has come. -/
theorem exec_deliveryContextFailure (hd : s.deposits = [d]) (hp : d.pdc = some p) (hleft : d.left ≠ 0) (harmed : d.entry ∉ s.disarmed) :
    ∃ u, exec (.deliveryContextFailure p) s = .next u ∧ u.deposits = [] ∧
      u.entry d.entry = setFld (s.entry d.entry) 232 8 (eOutst (s.entry d.entry) - 1) ∧ u.hbm = s.hbm := by
  have hlost : (d.pdc == some p && d.left != 0) = true := by simp [hp, hleft]
  have hgone : [d].filter (fun e => e.pdc == some p && e.left != 0) = [d] := List.filter_cons_of_pos hlost
  have hkept : [d].filter (fun e => !(e.pdc == some p && e.left != 0)) = [] := List.filter_cons_of_neg (by simp [hlost])
  change ∃ u, execDeliveryContextFailure p s = .next u ∧ _
  unfold execDeliveryContextFailure
  generalize s.heldIn.filter _ = held
  extract_lets lost gone s1
  have hs1 : s1 = State.modEntry { s with heldIn := held, deposits := [] } d.entry fun e => setFld e 232 8 (eOutst e - 1) := by
    dsimp only [s1, gone, lost]
    rw [hd, hgone, hkept, List.foldl_cons, List.foldl_nil]
    exact State.completeDeposit_uncounted (d := { d with add := none }) rfl harmed
  refine ⟨_, rfl, ?_, ?_, ?_⟩
  · exact congrArg State.deposits hs1
  · exact (congrArg (State.entry · d.entry) hs1).trans (tget_tput_self ..)
  · exact (congrArg State.hbm hs1).trans rfl

end

theorem uetInputs : UetInputs := by
  refine ⟨fun s r hfree hp hm => ⟨fun hk hrudi => ?_, fun hk hrudi => ⟨fun hjob => ?_, fun c hjob => ⟨fun hu => ?_, fun hu => ?_⟩⟩,
      fun hk => ⟨fun hjob => ?_, fun c s1 hjob hkey hvalid hsize hu hw => ⟨fun hh => ?_, fun h hh => ?_⟩⟩, fun hs hw => ?_⟩,
    fun s r hfree hm => exec_request hfree (State.uetRequest_uud hm), fun s p => rfl,
    fun s p off data d hd hpdc hleft hrec hfree => ⟨fun s1 hw => ?_, fun v hv harmed => ?_⟩, fun s id => ⟨rfl, rfl⟩⟩
  · rw [exec_request hfree (State.uetRequest_tagged hp hm hk) _ (by simp), if_pos hrudi]
  · rw [exec_request hfree (State.uetRequest_tagged hp hm hk) _ (by simp), if_neg hrudi, State.taggedSend_unknown hjob]
  · rw [exec_request hfree (State.uetRequest_tagged hp hm hk) _ (by simp), if_neg hrudi, State.taggedSend_unavailable hjob hu]
  · exact exec_taggedSendArrival_joins hfree hp hm hk hrudi hjob hu
  · exact exec_request hfree ((State.uetRequest_write hp hm hk).trans (State.rmaWrite_unknown hjob)) _ (by simp)
  · obtain ⟨hplain, -⟩ := State.rmaWrite_deposits hjob hkey hvalid hsize hu hw
    exact exec_request hfree ((State.uetRequest_write hp hm hk).trans (hplain hh)) _ (by simp)
  · obtain ⟨-, hnotice⟩ := State.rmaWrite_deposits hjob hkey hvalid hsize hu hw
    obtain ⟨a, ha, hfields⟩ := hnotice h hh
    refine ⟨_, a, exec_request hfree ((State.uetRequest_write hp hm hk).trans ha) _ (by simp), ?_, hfields⟩
    exact congrArg (· ++ [a]) (s1.recordWrite_keeps _ _ _ (·.arrivals) fun _ _ _ => rfl)
  · exact exec_request hfree (State.uetRequest_other hp hm hs hw) _ (by simp)
  · refine ⟨_, s1.ferryCycle, exec_continuationPacket hd hpdc hleft hrec hfree hw, ?_, rfl⟩
    have hleft' : d.left - (data.take d.left).length = d.left - data.length := by
      rw [List.length_take]
      omega
    rw [hleft']
  · subst hv
    exact exec_deliveryContextFailure hd hpdc hleft harmed

end Sys2Proof.Machine
end

section
/-! Inputs of the host port (R65-R68), and registers as it reads and writes them (R5, R71). -/
namespace Sys2Proof.Machine
open Sys2Proof

/-! ## Writes through an aperture (R65) -/

section
variable {s s1 : State} {i off page : Nat} {data : List Byte}

theorem exec_hostApertureWrite (hi : i < 256) (hfree : ∀ x ∈ s.heldIn, x.ingress ≠ 0) (h : s.apertureWrite i off data = .ok s1) :
    exec (.hostApertureWrite i off data) s = .next s1 := by
  change Host.Outcome.next (s.liveInput (.aperture (i % 256) off data)) = _
  rw [Nat.mod_eq_of_lt hi]
  exact congrArg Host.Outcome.next (State.liveInput_ok hfree h)

theorem State.apertureWrite_deposits (hv : bit (s.reg (offHostAp i)) 0 = true) (hw : bit (s.reg128 (offRxw (fld (s.reg (offHostAp i)) 1 12))) 0 = true)
    (hc : fld (s.reg128 (offRxw (fld (s.reg (offHostAp i)) 1 12))) 1 6 = fld (s.reg (offHostAp i)) 13 6)
    (hsize : off + data.length ≤ winSize (s.reg128 (offRxw (fld (s.reg (offHostAp i)) 1 12)))) (hplay : s.playing (fld (s.reg (offHostAp i)) 13 6) = false)
    (h : s.rxWrite (fld (s.reg (offHostAp i)) 1 12) off data none = .ok s1) :
    s.apertureWrite i off data = .ok (s1.recordWrite (fld (s.reg (offHostAp i)) 1 12) off data) := by
  unfold State.apertureWrite
  dsimp only
  rw [if_neg (by simp [hv, hw, hc, hsize]), if_neg (by simp [hplay]), h]
  rfl

/-- A write through an aperture that is not valid is dropped, counted and reported. -/
theorem State.apertureWrite_invalid (hv : bit (s.reg (offHostAp i)) 0 = false) :
    s.apertureWrite i off data = .ok ((s.bump offHostDrop).report .windowUnmapped 0 7 0 0) := by
  unfold State.apertureWrite
  dsimp only
  rw [if_pos (by simp [hv]), hv]
  rfl

/-! ## Doorbells (R66, R67) -/

/-- A doorbell that rings: 16 bytes in their place, in the page of a context that exists. -/
theorem exec_doorbell_live (hlen : data.length = 16) (hal : off % 16 = 0) (hoff : off < 4096) (hpage : page < 64) (hex : s.ctxExists page = true) :
    exec (.doorbell page off data) s = .next (s.liveInput (.doorbell page data)) :=
  if_neg (by simp [hlen, hal, hoff, hpage, hex])

theorem exec_doorbell_dropped (h : data.length ≠ 16 ∨ off % 16 ≠ 0 ∨ 4096 ≤ off ∨ 64 ≤ page ∨ s.ctxExists page = false) :
    exec (.doorbell page off data) s = .next (s.bump offHostDrop) :=
  if_pos (by simpa [or_assoc] using h)

theorem State.liveInput_doorbell (hfree : ∀ x ∈ s.heldIn, x.ingress ≠ 0) (hp : s.bar2Pending = false) :
    s.liveInput (.doorbell page data) = s.joinArrivals (doorbellArrival page data) :=
  State.liveInput_ok hfree (if_neg (by simp [hp]))

/-- A doorbell waits for earlier BAR2 writes at the head of the host port. -/
theorem State.liveInput_doorbell_waits (hfree : ∀ x ∈ s.heldIn, x.ingress ≠ 0) (hp : s.bar2Pending = true) :
    s.liveInput (.doorbell page data) = { s with heldIn := s.heldIn ++ [.doorbell page data] } :=
  State.liveInput_stall hfree (if_pos hp)

end

/-! ## Registers (R5, R68, R71) -/

section
variable {s : State} {off n : Nat}

/-- A read of a register without RC fields. -/
theorem State.barRead_plain (hp : s.barPeek off = s.reg off) (hlow : off < 0xC00000) (hrc : rcMask off = 0) (m : Word) : s.barRead off m = (s.reg off, s) := by
  unfold State.barRead
  rw [hp, if_neg (by omega), if_pos hrc]

theorem State.barPeek_low (h : off < 0xC00) : s.barPeek off = s.reg off := by
  unfold State.barPeek
  rw [if_neg (by omega), if_neg (by omega), if_neg (by omega), if_neg (by omega)]

theorem rcMask_aperture (h : off < 0x800) : rcMask off = 0 := by
  unfold rcMask offLinkStat offHostDrop offRedStale offUetRefused offUetDrop offRlogLost offMatchCtl offIerr
  rw [if_neg (by omega), if_neg (by omega), if_neg (by omega), if_neg (by omega)]

theorem State.barWrite_aperture (h : off < 0x800) (v : Word) :
    s.barWrite off v = s.setReg off ((s.reg off &&& ~~~ 0x7FFFF) ||| (v &&& 0x7FFFF)) := by
  have hmask : plainMask off = 0x7FFFF := if_pos h
  unfold State.barWrite
  extract_lets done
  rw [if_neg (by unfold offGeom; omega), if_neg (by unfold offXlatCtl; omega), if_neg (by unfold offWerr; omega), if_neg (by omega), if_neg (by omega),
    if_neg (by unfold offUxMaxLen; omega), if_neg (by omega), if_neg (by omega), if_neg (by unfold offSchedCtl; omega),
    if_neg (by unfold offJsize; omega), if_neg (by omega), if_neg (by omega), if_neg (by omega), if_neg (by omega), if_neg (by omega), if_neg (by omega)]
  rename_i e m
  rw [show m = 0x7FFFF from hmask]
  exact if_neg (by decide)

/-- An access of 4 or 8 bytes that lies in BAR0 on a boundary of its size (R68, R71). -/
theorem accessSupported {size : Nat} (hsize : size = 4 ∨ size = 8) (hal : off % size = 0) (hlow : off < 0x800) :
    (!((size == 4 || size == 8) && off % size == 0 && decide (off + size ≤ 2 ^ 24))) = false := by
  rw [hal, decide_eq_true (by omega)]
  obtain rfl | rfl := hsize
  · rfl
  · rfl

/-- An access off its boundary is no supported request. -/
theorem State.barAccess_unaligned {size : Nat} (hal : off % size ≠ 0) (write : Option Word) : s.barAccess off size write = s.emit .unsupportedRequest :=
  if_pos (by simp [hal])

theorem State.barRead_aperture (h : off < 0x800) (m : Word) : s.barRead off m = (s.reg off, s) :=
  State.barRead_plain (State.barPeek_low (by omega)) (by omega) (rcMask_aperture h) m

/-- The register of an aperture is read whole, or its upper half. -/
theorem exec_readAperture (hn : n < 256) :
    exec (.bar0Access (offHostAp n) 8 none) s = .next (s.emit (.readData (s.reg (offHostAp n)))) ∧
      exec (.bar0Access (offHostAp n + 4) 4 none) s = .next (s.emit (.readData (s.reg (offHostAp n) >>> 32))) := by
  have hlow : offHostAp n < 0x800 := by unfold offHostAp; omega
  have hreg : offHostAp n / 8 * 8 = offHostAp n := by unfold offHostAp; omega
  have hreg4 : (offHostAp n + 4) / 8 * 8 = offHostAp n := by unfold offHostAp; omega
  have hhi : (offHostAp n + 4) % 8 = 4 := by unfold offHostAp; omega
  refine ⟨congrArg Host.Outcome.next ?_, congrArg Host.Outcome.next ?_⟩
  · unfold State.barAccess
    dsimp only
    rw [accessSupported (.inr rfl) (by unfold offHostAp; omega) hlow, if_neg Bool.false_ne_true, hreg, State.barRead_aperture hlow]
    rfl
  · unfold State.barAccess
    dsimp only
    rw [accessSupported (.inl rfl) (by unfold offHostAp; omega) (by unfold offHostAp; omega), if_neg Bool.false_ne_true, hreg4, State.barRead_aperture hlow]
    exact congrArg (s.emit ∘ Out.readData) (if_pos hhi)

/-- A write of an aperture's register sets its RW fields, by either event. -/
theorem exec_writeAperture (hn : n < 256) (v : Word) : ∀ i ∈ ([.bar0Access (offHostAp n) 8 (some v), .registerWrite (offHostAp n) v] : List Instr),
    exec i s = .next (s.setReg (offHostAp n) ((s.reg (offHostAp n) &&& ~~~ 0x7FFFF) ||| (v &&& 0x7FFFF))) := by
  have hlow : offHostAp n < 0x800 := by unfold offHostAp; omega
  have hreg : offHostAp n / 8 * 8 = offHostAp n := by unfold offHostAp; omega
  have hwrite : s.barAccess (offHostAp n) 8 (some v) = s.setReg (offHostAp n) ((s.reg (offHostAp n) &&& ~~~ 0x7FFFF) ||| (v &&& 0x7FFFF)) := by
    unfold State.barAccess
    dsimp only
    rw [accessSupported (.inr rfl) (by unfold offHostAp; omega) hlow, if_neg Bool.false_ne_true, if_neg (by omega), if_pos rfl, hreg,
      State.barWrite_aperture hlow]
  simp only [List.forall_mem_cons, List.not_mem_nil, false_imp_iff, implies_true, and_true]
  refine ⟨congrArg Host.Outcome.next hwrite, congrArg Host.Outcome.next ?_⟩
  rw [hreg]
  exact hwrite

theorem exec_readUnaligned (n : Nat) : exec (.bar0Access (offHostAp n + 2) 4 none) s = .next (s.emit .unsupportedRequest) :=
  congrArg Host.Outcome.next (State.barAccess_unaligned (by unfold offHostAp; omega) none)

/-- Clearing the low half of a register leaves it zero. -/
theorem fld_and_not_lowBits (v : Word) : fld (v &&& ~~~ (lowBits 32 &&& lowBits 64)) 0 32 = 0 := by
  have hlow : (v &&& ~~~ (lowBits 32 &&& lowBits 64)).setWidth 32 = 0#32 := by
    rw [show lowBits 32 &&& lowBits 64 = (BitVec.allOnes 32).setWidth 64 by decide]
    ext i hi
    simp
  exact congrArg BitVec.toNat hlow

/-- HOST_DROP is read and cleared (R65). -/
theorem exec_readClear_hostDrop (s : State) :
    ∃ u, exec (.registerReadClear offHostDrop) s = .next u ∧ u.regF offHostDrop 0 32 = 0 ∧ ∀ o, o ≠ offHostDrop → u.reg o = s.reg o := by
  refine ⟨s.setReg offHostDrop (s.reg offHostDrop &&& ~~~ (lowBits 32 &&& lowBits 64)), rfl, ?_, fun o ho => State.reg_setReg_ne ho⟩
  rw [State.regF, State.reg_setReg_self]
  exact fld_and_not_lowBits _

end

theorem hostInputs : HostInputs := by
  refine ⟨fun s i off data hi hfree => ⟨fun s1 hv hw hc hsize hplay h => ?_, fun hv => exec_hostApertureWrite hi hfree (State.apertureWrite_invalid hv)⟩,
    fun s page off data hlen hal hoff hpage hex hfree => ⟨fun hp => ?_, fun hp => ?_⟩, fun s page off data => exec_doorbell_dropped, fun s => ⟨rfl, rfl⟩,
    fun s n v hn => ?_, exec_readClear_hostDrop, fun s h rest => exec_hostWriteAccepted⟩
  · exact exec_hostApertureWrite hi hfree (State.apertureWrite_deposits hv hw hc hsize hplay h)
  · rw [exec_doorbell_live hlen hal hoff hpage hex, State.liveInput_doorbell hfree hp]
    rfl
  · rw [exec_doorbell_live hlen hal hoff hpage hex, State.liveInput_doorbell_waits hfree hp]
  · obtain ⟨hread, hhigh⟩ := exec_readAperture (s := s) hn
    exact ⟨hread, hhigh, exec_writeAperture hn v, exec_readUnaligned n⟩

/-- Settles O21: each input by what its port does with it. -/
theorem outsideInputs : Obligations.OutsideInputs := ⟨uetInputs, hostInputs⟩

end Sys2Proof.Machine
end

section
/-! Where each input of the Ethernet and host ports completes: a window that takes bytes has taken them. -/
namespace Sys2Proof.Machine
open Sys2Proof

/-! ## A window that takes bytes (R105, R276) -/

section
variable {s t u : State} {w off : Nat} {bs : List Byte}

/-- What a window has taken shows in its deliveries and in memory. -/
theorem windowTook_congr (h : windowTook s t w off bs) (hw : u.winDel = t.winDel) (hm : u.hbm = t.hbm) : windowTook s u w off bs := by
  obtain ⟨hdel, hbytes⟩ := h
  exact ⟨hw.trans hdel, hm ▸ hbytes⟩

/-- Bytes that a window takes enter it; of the registers, only its context's undo count changes. -/
theorem State.rxWrite_of_takes (h : windowTakes s w off bs) :
    ∃ t, s.rxWrite w off bs none = .ok t ∧ windowTook s t w off bs ∧
      ∀ o, o ≠ offCtx (fld (s.reg128 (offRxw w)) 1 6) cUNDOUSE → t.reg o = s.reg o := by
  obtain ⟨hvalid, hsize, hmoves, hroom⟩ := h
  obtain ⟨t, ht, hdel, hreg, hbytes⟩ := State.rxWrite_fits (ack := none) hvalid hsize hmoves hroom
  exact ⟨t, ht, ⟨hdel, fun pa _ => hbytes pa⟩, hreg⟩

/-- The replay entry of the write leaves what the window took (R283): there is none unless the context records. -/
theorem windowTook_recordWrite (hw : w < 4096) (h : windowTook s t w off bs)
    (hreg : ∀ o, o ≠ offCtx (fld (s.reg128 (offRxw w)) 1 6) cUNDOUSE → t.reg o = s.reg o) : windowTook s (t.recordWrite w off bs) w off bs := by
  obtain ⟨hdel, hbytes⟩ := h
  refine ⟨(t.recordWrite_keeps w off bs (·.winDel) fun _ _ _ => rfl).trans hdel, fun pa hrec => ?_⟩
  have hentry : t.reg128 (offRxw w) = s.reg128 (offRxw w) := by
    unfold State.reg128
    rw [hreg _ (by unfold offRxw offCtx; omega), hreg _ (by unfold offRxw offCtx; omega)]
  have hsame : t.recording (fld (s.reg128 (offRxw w)) 1 6) = s.recording (fld (s.reg128 (offRxw w)) 1 6) := by
    unfold State.recording State.playing State.cx
    rw [hreg _ (by simp only [offCtx, cREPLAY, cUNDOUSE]; omega)]
  have hself : t.recordWrite w off bs = t := by
    unfold State.recordWrite
    rw [hentry]
    exact State.recordInput_eq_self (hsame.trans hrec) ..
  rw [hself]
  exact hbytes pa hrec

end

/-! ## The events -/

section
variable {s : State} {r : UetRequest} {c : Nat}

theorem exec_rmaWriteArrival_takes (hfree : ∀ x ∈ s.heldIn, x.ingress ≠ r.port % 4 + 1) (hp : r.pdc < pdcLimit) (hm : r.mode ≠ .uud)
    (hjob : s.jobCtx r.job.toNat = some c) (hk : r.kind = .rmaWrite) (hkey : r.tag.toNat < 4096)
    (hu : s.unavailable (fld (s.reg128 (offRxw r.tag.toNat)) 1 6) = false) (htakes : windowTakes s r.tag.toNat r.off.toNat r.data) :
    ∃ u, exec (.rmaWriteArrival r) s = .next u ∧ windowTook s u r.tag.toNat r.off.toNat r.data ∧ (r.hdata = none → u.arrivals = s.arrivals) ∧
      ∀ h, r.hdata = some h → ∃ a, u.arrivals = s.arrivals ++ [(a : Arrival)] ∧ a.aop = true ∧ a.hdata = h := by
  obtain ⟨t, ht, htook, hreg⟩ := State.rxWrite_of_takes htakes
  obtain ⟨hvalid, hsize, -⟩ := htakes
  obtain ⟨hplain, hnotice⟩ := State.rmaWrite_deposits hjob hkey hvalid hsize hu ht
  have htook2 := windowTook_recordWrite hkey htook hreg
  have harr : (t.recordWrite r.tag.toNat r.off.toNat r.data).arrivals = s.arrivals :=
    (t.recordWrite_keeps _ _ _ (·.arrivals) fun _ _ _ => rfl).trans ((State.delivered_rxWrite ht).keeps (·.arrivals) fun _ _ _ _ _ => rfl)
  have hexec {v : State} (hv : s.rmaWrite r = .ok v) := exec_request hfree ((State.uetRequest_write hp hm hk).trans hv) (.rmaWriteArrival r) (by simp)
  cases hh : r.hdata with
  | none => exact ⟨_, hexec (hplain hh), htook2, fun _ => harr, nofun⟩
  | some h =>
    obtain ⟨a, ha, haop, -, hhdata, -⟩ := hnotice h hh
    refine ⟨_, hexec ha, windowTook_congr htook2 rfl rfl, nofun, fun h' hh' => ⟨a, congrArg (· ++ [a]) harr, haop, ?_⟩⟩
    rw [hhdata]
    exact Option.some.inj hh'

theorem exec_hostApertureWrite_takes {i off : Nat} {data : List Byte} (hi : i < 256) (hfree : ∀ x ∈ s.heldIn, x.ingress ≠ 0)
    (hv : bit (s.reg (offHostAp i)) 0 = true) (hc : fld (s.reg128 (offRxw (fld (s.reg (offHostAp i)) 1 12))) 1 6 = fld (s.reg (offHostAp i)) 13 6)
    (hplay : s.playing (fld (s.reg (offHostAp i)) 13 6) = false) (htakes : windowTakes s (fld (s.reg (offHostAp i)) 1 12) off data) :
    ∃ u, exec (.hostApertureWrite i off data) s = .next u ∧ windowTook s u (fld (s.reg (offHostAp i)) 1 12) off data := by
  obtain ⟨t, ht, htook, hreg⟩ := State.rxWrite_of_takes htakes
  obtain ⟨hvalid, hsize, -⟩ := htakes
  exact ⟨_, exec_hostApertureWrite hi hfree (State.apertureWrite_deposits hv hvalid hc hsize hplay ht),
    windowTook_recordWrite (Nat.mod_lt _ (by decide)) htook hreg⟩

theorem exec_continuationPacket_takes {p off : Nat} {data : List Byte} {d : Deposit} (hd : s.deposits = [d]) (hp : d.pdc = some p) (hleft : d.left ≠ 0)
    (hrec : d.recAt = none) (hfree : ∀ x ∈ s.heldIn, x.ingress ≠ p / 4096 % 4 + 1)
    (htakes : windowTakes s d.rxw (d.off + off) (data.take d.left)) :
    ∃ u b, exec (.continuationPacket p off data) s = .next u ∧ windowTook s u d.rxw (d.off + off) (data.take d.left) ∧
      u.deposits = [{ d with left := d.left - (data.take d.left).length, born := b }] := by
  obtain ⟨t, ht, htook, -⟩ := State.rxWrite_of_takes htakes
  exact ⟨_, t.ferryCycle, exec_continuationPacket hd hp hleft hrec hfree ht, windowTook_congr htook rfl rfl, rfl⟩

end

/-- Settles O36: each input completes with its effect, by the lemma that says what its port does with it. -/
theorem inputsComplete : Obligations.InputsComplete := by
  refine ⟨fun s r hfree hp hm c hjob => ⟨fun hk hrudi hu => ?_, exec_rmaWriteArrival_takes hfree hp hm hjob⟩,
    fun s p off data d hd hpdc hleft hrec hfree => ⟨exec_continuationPacket_takes hd hpdc hleft hrec hfree, fun harmed => ?_⟩, fun s p => rfl,
    fun s e ok hs => ⟨_, rfl, State.sends_sendEnds hs _⟩, fun s i off data hi hfree => exec_hostApertureWrite_takes hi hfree,
    fun s page off data hlen hal hoff hpage hex hfree hpend => ?_, fun s => ⟨rfl, rfl⟩, fun s n v hn => ?_, exec_readClear_hostDrop,
    fun s h rest => exec_hostWriteAccepted⟩
  · obtain ⟨u, a, hexec, hjoin, hmb, -, haop, -, -, hlen, hctx, hdata, -⟩ := exec_taggedSendArrival_joins hfree hp hm hk hrudi hjob hu
    exact ⟨u, a, hexec, hjoin, hmb, haop, hlen, hctx, hdata⟩
  · obtain ⟨u, hu, hnone, -, hhbm⟩ := exec_deliveryContextFailure hd hpdc hleft harmed
    exact ⟨u, hu, hnone, hhbm⟩
  · refine ⟨_, { doorbellArrival page data with born := s.ferryCycle }, ?_, rfl, rfl, rfl, rfl, rfl, rfl⟩
    rw [exec_doorbell_live hlen hal hoff hpage hex, State.liveInput_doorbell hfree hpend]
    rfl
  · have hwrite := exec_writeAperture (s := s) hn v
    exact ⟨(exec_readAperture hn).1, hwrite _ (by simp), hwrite _ (by simp)⟩

end Sys2Proof.Machine
end

section
/-! Fields of words and wide registers, and what an entry of the directory reads after a write (R194). -/
namespace Sys2Proof.Machine
open Sys2Proof

/-! ## Fields within fields, and words -/

theorem bit_eq_testBit_fld {n : Nat} (v : BitVec n) {lo w k : Nat} (h : k < w) : bit v (lo + k) = (fld v lo w).testBit k := by
  unfold bit fld
  rw [Nat.testBit_mod_two_pow, Nat.testBit_shiftRight, BitVec.testBit_toNat, decide_eq_true h, Bool.true_and]

theorem fld_eq_nfld_fld {n : Nat} (v : BitVec n) {lo w k m : Nat} (h : k + m ≤ w) : fld v (lo + k) m = nfld (fld v lo w) k m := by
  refine Nat.eq_of_testBit_eq fun i => ?_
  unfold fld nfld
  simp only [Nat.testBit_mod_two_pow, Nat.testBit_shiftRight]
  by_cases hi : i < m
  · simp [hi, show k + i < w by omega, Nat.add_assoc]
  · simp [hi]

theorem fld_ofNat {k lo w : Nat} (h : k < 2 ^ 64) : fld (BitVec.ofNat 64 k) lo w = nfld k lo w := by
  unfold fld nfld
  rw [BitVec.toNat_ofNat, Nat.mod_eq_of_lt h]

theorem toNat_wordOf {n : Nat} (v : BitVec n) (i : Nat) : (wordOf v i).toNat = fld v (64 * i) 64 := BitVec.extractLsb'_toNat ..

/-! ## Registers of 256 bits -/

theorem State.reg128_setReg128 (s : State) (o : Nat) (v : BitVec 128) : (s.setReg128 o v).reg128 o = v := by
  unfold State.reg128 State.setReg128
  rw [State.reg_setReg_self, State.reg_setReg_ne (by omega), State.reg_setReg_self]
  exact (BitVec.extractLsb'_append_extractLsb'_eq_extractLsb' rfl).trans BitVec.extractLsb'_eq_self

theorem State.reg_setReg128_ne {s : State} {o p : Nat} {v : BitVec 128} (h : p ≠ o) (h8 : p ≠ o + 8) : (s.setReg128 o v).reg p = s.reg p := by
  unfold State.setReg128
  rw [State.reg_setReg_ne h8, State.reg_setReg_ne h]

theorem State.reg128_setReg128_ne {s : State} {o p : Nat} {v : BitVec 128} (h : p + 16 ≤ o ∨ o + 16 ≤ p) : (s.setReg128 o v).reg128 p = s.reg128 p := by
  unfold State.reg128
  rw [State.reg_setReg128_ne (by omega) (by omega), State.reg_setReg128_ne (by omega) (by omega)]

theorem State.reg256_setReg256 (s : State) (o : Nat) (v : BitVec 256) : (s.setReg256 o v).reg256 o = v := by
  unfold State.reg256 State.setReg256
  rw [State.reg128_setReg128, State.reg128_setReg128_ne (by omega), State.reg128_setReg128]
  exact (BitVec.extractLsb'_append_extractLsb'_eq_extractLsb' rfl).trans BitVec.extractLsb'_eq_self

theorem State.reg_setReg256_ne {s : State} {o p : Nat} {v : BitVec 256} (h : p < o ∨ o + 32 ≤ p) : (s.setReg256 o v).reg p = s.reg p := by
  unfold State.setReg256
  rw [State.reg_setReg128_ne (by omega) (by omega), State.reg_setReg128_ne (by omega) (by omega)]

/-! ## Entries of the directory (R194) -/

@[simp] theorem State.itin_modItin_self (s : State) (n : Nat) (f : BitVec 256 → BitVec 256) : (s.modItin n f).itin n = f (s.itin n) :=
  s.reg256_setReg256 ..

theorem State.reg_modItin_ne {s : State} {n p : Nat} {f : BitVec 256 → BitVec 256} (h : p < offItin n ∨ offItin n + 32 ≤ p) :
    (s.modItin n f).reg p = s.reg p := State.reg_setReg256_ne h

theorem State.itin_congr {s t : State} {n : Nat} (h : ∀ p, offItin n ≤ p → p < offItin n + 32 → t.reg p = s.reg p) : t.itin n = s.itin n := by
  unfold State.itin State.reg256 State.reg128
  rw [h _ (by omega) (by omega), h _ (by omega) (by omega), h _ (by omega) (by omega), h _ (by omega) (by omega)]

theorem State.modItin_eq (s : State) (n : Nat) (f : BitVec 256 → BitVec 256) : ∃ r, s.modItin n f = { s with regs := r } := by
  unfold State.modItin State.setReg256 State.setReg128 State.setReg
  exact ⟨_, rfl⟩

@[simp] theorem State.itin_sched (s : State) (k : Sched) (n : Nat) : State.itin { s with sched := k } n = s.itin n := rfl

theorem State.itin_setRegF_ne {s : State} {n o lo w x : Nat} (h : o < offItin n ∨ offItin n + 32 ≤ o) : (s.setRegF o lo w x).itin n = s.itin n :=
  State.itin_congr fun _ _ _ => State.reg_setReg_ne (by omega)

end Sys2Proof.Machine
end

section
/-! A push for an itinerary that the directory does not hold (R194, R209): entry 257 would lie at SCHED.CTL, which the push's refusal then writes. -/
namespace Sys2Proof.Machine
open Sys2Proof

/-! ## The journal (R208) -/

/-- At most Ferry SRAM and the journal's place and numbers have changed. -/
def State.Noted (s t : State) : Prop :=
  ∃ m p n q c, t = { s with sram := m, sched := { s.sched with jpos := p, since := n, seq := q, ckpt := c } }

theorem State.Noted.refl (s : State) : s.Noted s := ⟨_, _, _, _, _, rfl⟩

theorem State.Noted.trans {s t u : State} (h : s.Noted t) (k : t.Noted u) : s.Noted u := by
  obtain ⟨m, p, n, q, c, rfl⟩ := h
  obtain ⟨m', p', n', q', c', rfl⟩ := k
  exact ⟨m', p', n', q', c', rfl⟩

theorem State.Noted.keeps {s t : State} (h : s.Noted t) {α : Sort*} (f : State → α)
    (hf : ∀ m p n q c, f { s with sram := m, sched := { s.sched with jpos := p, since := n, seq := q, ckpt := c } } = f s) : f t = f s := by
  obtain ⟨m, p, n, q, c, rfl⟩ := h
  exact hf m p n q c

theorem State.Noted.itin {s t : State} (h : s.Noted t) (i : Nat) : t.itin i = s.itin i := by
  have hregs : t.regs = s.regs := h.keeps (·.regs) fun _ _ _ _ _ => rfl
  exact State.itin_congr fun p _ _ => by rw [State.reg, hregs, State.reg]

theorem State.sramPut_eq (s : State) (a n v : Nat) : ∃ m, s.sramPut a n v = { s with sram := m } := ⟨mwrites s.sram a (leBytes n v), rfl⟩

theorem State.modControl_eq (s : State) (a : Nat) (f : BitVec 256 → BitVec 256) : ∃ m, s.modControl a f = { s with sram := m } := by
  unfold State.modControl
  exact s.sramPut_eq ..

theorem State.noted_journalAt (s : State) (kind itin node run tile q : Nat) (seq : Word) (arg : Nat) :
    s.Noted (s.journalAt kind itin node run tile q seq arg) := by
  unfold State.journalAt
  dsimp only
  generalize hput : s.sramPut _ _ _ = s1
  obtain ⟨m, rfl⟩ : ∃ m, s1 = { s with sram := m } := hput ▸ s.sramPut_eq ..
  exact ⟨m, _, _, _, _, rfl⟩

theorem State.noted_seq (s : State) (q : Word) : s.Noted { s with sched := { s.sched with seq := q } } := ⟨_, _, _, _, _, rfl⟩

theorem State.noted_checkpointJournal (s : State) : s.Noted s.checkpointJournal := by
  unfold State.checkpointJournal
  dsimp only
  split
  · exact .refl s
  · exact (s.noted_journalAt ..).trans ⟨_, _, _, _, _, rfl⟩

/-- A journalled step is made between its intent and its DONE. -/
theorem State.journalled_noted (s : State) (kind itin node run tile q arg : Nat) (step : State → State) :
    ∃ s1, s.Noted s1 ∧ (step s1).Noted (s.journalled kind itin node run tile q arg step) :=
  ⟨_, (s.noted_checkpointJournal.trans (State.noted_journalAt ..)).trans (State.noted_seq ..), State.noted_journalAt ..⟩

/-! ## What a refused push leaves of the scheduler -/

/-- The itineraries whose runs fail, and the pushes not counted out. -/
def State.runMarks (s : State) : List Nat × List (Nat × Nat × Nat) := (s.sched.failing, s.sched.started)

theorem State.Noted.runMarks {s t : State} (h : s.Noted t) : t.runMarks = s.runMarks := h.keeps State.runMarks fun _ _ _ _ _ => rfl

theorem State.runMarks_report (s : State) (c : Cause) (ctx srck srcix detail : Nat) : (s.report c ctx srck srcix detail).runMarks = s.runMarks :=
  (s.reported_report ..).keeps State.runMarks fun _ _ _ => rfl

theorem State.runMarks_setReg128 (s : State) (off : Nat) (v : BitVec 128) : (s.setReg128 off v).runMarks = s.runMarks := rfl

theorem State.runMarks_setRegF (s : State) (off lo w x : Nat) : (s.setRegF off lo w x).runMarks = s.runMarks := rfl

theorem State.runMarks_flog (s : State) (srcix actn : Nat) (c : Cause) (ctx rkind : Nat) : (s.flog srcix actn c ctx rkind).2.runMarks = s.runMarks :=
  (State.runMarks_setRegF ..).trans (State.runMarks_setReg128 ..)

/-- A count-out writes its node's control word and its entry, and takes no other push from those not counted out than its own. -/
theorem State.countOut_eq (s : State) (i node tile : Nat) (done : Bool) : ∃ m r,
    s.countOut i node tile done = { s with sram := m, regs := r, sched := { s.sched with started := s.sched.started.erase (i, node, tile) } } := by
  unfold State.countOut
  dsimp only
  generalize hs1 : s.modControl _ _ = s1
  obtain ⟨m, rfl⟩ : ∃ m, s1 = { s with sram := m } := hs1 ▸ s.modControl_eq ..
  split
  · generalize hs2 : State.modItin _ _ _ = s2
    obtain ⟨r, rfl⟩ := hs2 ▸ State.modItin_eq ..
    exact ⟨m, r, rfl⟩
  · exact ⟨m, s.regs, rfl⟩

/-- With no push left to count out, none is after. -/
theorem State.runMarks_countOut_nil {s : State} {l : List Nat} (h : s.runMarks = (l, [])) (i node tile : Nat) (done : Bool) :
    (s.countOut i node tile done).runMarks = (l, []) := by
  obtain ⟨hf, hs⟩ := Prod.mk.inj h
  obtain ⟨m, r, e⟩ := s.countOut_eq i node tile done
  rw [e]
  exact Prod.ext hf (congrArg (List.erase · _) hs)

theorem State.runMarks_discardRun {s : State} {l : List Nat} (h : s.runMarks = (l, [])) (i : Nat) : (s.discardRun i).runMarks = (l, []) := by
  unfold State.discardRun
  extract_lets e drop s00 k s0
  have h00 : s00.runMarks = (l, []) := by
    refine List.foldlRecOn (motive := fun u : State => u.runMarks = (l, [])) _ _ h fun u hu p _ => ?_
    split
    · exact (u.noted_journalAt ..).runMarks.trans hu
    · exact hu
  have h0 : s0.runMarks = (l, []) := h00
  clear_value s0
  refine List.foldlRecOn (motive := fun u : State => u.runMarks = (l, [])) _ _ h0 fun u hu t _ => ?_
  extract_lets mine gone u1
  exact List.foldlRecOn (motive := fun v : State => v.runMarks = (l, [])) _ _ hu fun v hv k _ => State.runMarks_countOut_nil hv ..

/-- A failing run of which no push is left to count out has ended (R200). -/
theorem State.iRun_endItinRun_failing {s : State} {l : List Nat} {i : Nat} (h : s.runMarks = (l, [])) (hi : i ∈ l) :
    iRun ((s.endItinRun i).itin i) = false := by
  obtain ⟨hl, hs⟩ := Prod.mk.inj h
  have hf : i ∈ s.sched.failing := hl ▸ hi
  unfold State.endItinRun
  extract_lets e s1
  split
  · simpa [e] using ‹(!iRun e) = true›
  · rw [if_pos (by simpa using hf), if_neg (by simp [hs])]
    obtain ⟨u, -, hu⟩ := s.journalled_noted 6 i 0 (iRuns e) 0 0 0 fun s => s.modItin i fun e => setFld (setFld e 7 1 0) 9 1 1
    change State.Noted _ s1 at hu
    clear_value s1
    have hend : s1.itin i = setFld (setFld (u.itin i) 7 1 0) 9 1 1 := (hu.itin i).trans (State.itin_modItin_self ..)
    rw [State.itin_sched, hend]
    unfold iRun
    rw [bit_setFld_disjoint _ _ (by omega), bit_setFld _ _ (by omega)]
    rfl

theorem State.runMarks_failReport (s : State) (srcix actn : Nat) (c : Cause) (ctx rkind srck ix : Nat) :
    ((s.flog srcix actn c ctx rkind).2.report c ctx srck ix (s.flog srcix actn c ctx rkind).1).runMarks = s.runMarks :=
  (State.runMarks_report ..).trans (State.runMarks_flog ..)

theorem State.mem_failing_failRun (s : State) (i : Nat) : i ∈ (s.failRun i).sched.failing := by
  dsimp only [State.failRun]
  split
  · rename_i h
    simpa using h
  · exact List.mem_cons_self

/-- A run that fails, with no push left to count out, has ended. -/
theorem State.iRun_failed {s : State} (h : s.runMarks.2 = []) (i node tile : Nat) (done : Bool) :
    iRun (((((s.failRun i).discardRun i).countOut i node tile done).endItinRun i).itin i) = false := by
  have hl : (s.failRun i).runMarks = ((s.failRun i).sched.failing, []) := Prod.ext rfl h
  exact State.iRun_endItinRun_failing (State.runMarks_countOut_nil (State.runMarks_discardRun hl i) i node tile done) (s.mem_failing_failRun i)

theorem State.iRun_refusePush {s : State} (h : s.runMarks.2 = []) (p : Push) (c : Cause) :
    iRun ((s.refusePush p c).itin p.itin) = false :=
  State.iRun_failed ((congrArg Prod.snd (s.runMarks_failReport ..)).trans h) ..

/-- The only push to be made is refused: its run has ended. -/
theorem State.iRun_makePushes_refused {s : State} {p : Push} {c : Cause} (hp : s.sched.pushes = [p]) (hseq : p.seq = none) (hs : s.sched.started = [])
    (hc : s.pushRefused p = some c) : iRun ((s.makePushes 1).itin p.itin) = false := by
  have hnote := s.noted_checkpointJournal.trans (State.noted_journalAt _ 4 p.itin p.node (iRuns (s.itin p.itin)) p.tile p.q s.checkpointJournal.sched.seq 0)
  unfold State.makePushes
  rw [hp]
  dsimp only
  rw [hseq]
  simp only [Option.isSome_none, Bool.false_and, Bool.false_eq_true, if_false, hc, Bool.and_false, Option.isNone_some]
  refine State.iRun_refusePush ?_ p c
  exact (hnote.keeps (·.sched.started) fun _ _ _ _ _ => rfl).trans hs

/-! ## The take-over (R209) -/

theorem State.iRun_itin_stray (s : State) : iRun (s.itin 257) = bit (s.reg offSchedCtl) 7 := by
  unfold iRun State.itin State.reg256 State.reg128 bit
  simp only [BitVec.getLsbD_append]
  rfl

theorem State.tileCtx_setReg_schedCtl (s : State) (v : Word) (t : Nat) : (s.setReg offSchedCtl v).tileCtx t = s.tileCtx t := by
  unfold State.tileCtx
  rw [State.reg_setReg_ne (by unfold offTown offSchedCtl; omega)]

theorem State.pushRefused_of_tileCtx_none {s : State} {p : Push} (h : s.tileCtx p.tile = none) : ∃ c, s.pushRefused p = some c := by
  unfold State.pushRefused
  split
  · exact ⟨_, rfl⟩
  · exact ⟨.perm, if_neg (by simp [h])⟩

theorem State.bit_endHold {s : State} (h : bit (s.reg offSchedCtl) 7 = false) : bit (s.endHold.reg offSchedCtl) 7 = false := by
  unfold State.endHold
  split
  · unfold State.setRegF
    rw [State.reg_setReg_self, bit_setFld_disjoint _ _ (by omega), h]
  · exact h

/-- A stray push that waits with no place in the journal is refused, and bit 7 of SCHED.CTL is cleared with its run. -/
theorem State.bit_makePushes_stray {s : State} {p : Push} (hp : s.sched.pushes = [p]) (hi : p.itin = 257) (hseq : p.seq = none)
    (hs : s.sched.started = []) (ht : s.tileCtx p.tile = none) :
    bit ((s.makePushes s.sched.pushes.length).endHold.reg offSchedCtl) 7 = false := by
  obtain ⟨c, hc⟩ := State.pushRefused_of_tileCtx_none ht
  have hrun := State.iRun_makePushes_refused hp hseq hs hc
  rw [hi, State.iRun_itin_stray] at hrun
  rw [hp]
  exact State.bit_endHold hrun

/-- So it is in a replay with no records. -/
theorem State.bit_replayJournal_stray {s : State} {p : Push} (hj : s.journalRecords = []) (hp : s.sched.pushes = [p]) (hi : p.itin = 257)
    (hseq : p.seq = none) (hs : s.sched.started = []) (ht : s.tileCtx p.tile = none) : bit (s.replayJournal.reg offSchedCtl) 7 = false := by
  unfold State.replayJournal
  rw [hj]
  exact State.bit_makePushes_stray hp hi hseq hs ((State.tileCtx_setReg_schedCtl ..).trans ht)

theorem mval_nil (a n : Nat) : mval [] a n = 0 := by
  unfold mval
  induction n generalizing a with
  | zero => rfl
  | succ n ih => rw [mreads, leNat, ih]; rfl

theorem State.journalRecords_nil {s : State} (h : s.sram = []) : s.journalRecords = [] := by
  unfold State.journalRecords
  simp only [State.sramNat, h, mval_nil]
  refine List.filter_eq_nil_iff.2 fun r hr => ?_
  obtain ⟨_, _, rfl⟩ := List.mem_map.1 hr
  simp [nfld]

/-- The end of a thread's run writes the threads, the packets they sent and what they publish. -/
theorem State.endRun_eq (s : State) (n : Nat) : ∃ a b c, s.endRun n = { s with sent := a, threads := b, pubs := c } := ⟨_, _, _, rfl⟩

theorem State.foldl_endRun_eq (s : State) (l : List Nat) (f : Nat → Nat) :
    ∃ a b c, l.foldl (fun s k => s.endRun (f k)) s = { s with sent := a, threads := b, pubs := c } := by
  induction l generalizing s with
  | nil => exact ⟨s.sent, s.threads, s.pubs, rfl⟩
  | cons k l ih =>
    obtain ⟨_, _, _, h⟩ := s.endRun_eq (f k)
    obtain ⟨a, b, c, h'⟩ := ih (s.endRun (f k))
    exact ⟨a, b, c, by rw [List.foldl_cons, h', h]⟩

theorem State.bit_takeOver_stray {s : State} {p : Push} (hm : s.sram = []) (hp : s.sched.pushes = [p]) (hi : p.itin = 257) (hseq : p.seq = none)
    (hs : s.sched.started = []) (ht : s.tileCtx p.tile = none) : bit (s.takeOver.reg offSchedCtl) 7 = false := by
  unfold State.takeOver
  extract_lets a b s1 s2
  obtain ⟨x, y, z, h1⟩ : ∃ x y z, s1 = { s.setRegF offSchedCtl 13 1 1 with sent := x, threads := y, pubs := z } := State.foldl_endRun_eq ..
  clear_value s1
  subst h1
  unfold State.startSched
  refine State.bit_replayJournal_stray (State.journalRecords_nil hm) hp hi hseq hs ?_
  exact (State.tileCtx_setReg_schedCtl ..).trans ((State.tileCtx_setReg_schedCtl ..).trans ht)

/-- A push of an itinerary 257 of the directory, which has 256. -/
def strayPush : Push := { itin := 257, node := 0, tile := 0, q := 0, last := true, seq := none }

/-- The state after reset with SCORE 0, ACORE 2 and SBV, and the stray push. -/
def strayState : State := { State.reset.setReg offSchedCtl 0x1002 with sched := { Sched.idle with pushes := [strayPush] } }

/-- Its take-over does not give SCORE the active core's number. -/
theorem not_takeOver_swaps_strayState :
    ¬ ∃ u, exec .schedulerTakeover strayState = .next u ∧ u.regF offSchedCtl 12 1 = 0 ∧ u.regF offSchedCtl 0 6 = strayState.regF offSchedCtl 6 6 ∧
      u.regF offSchedCtl 6 6 = strayState.regF offSchedCtl 0 6 ∧ u.sched.stopped = false := by
  rintro ⟨u, hexec, -, -, hscore, -⟩
  have hone : strayState.regF offSchedCtl 12 1 = 1 := by decide
  have hu : strayState.takeOver = u := by
    change execSchedulerTakeover strayState = _ at hexec
    rw [execSchedulerTakeover, hone] at hexec
    exact Host.Outcome.next.inj hexec
  have hbit : bit (u.reg offSchedCtl) 7 = false := hu ▸ State.bit_takeOver_stray rfl (p := strayPush) rfl rfl rfl rfl (by decide)
  have htwo : strayState.regF offSchedCtl 0 6 = 2 := by decide
  have hset : bit (u.reg offSchedCtl) (6 + 1) = (u.regF offSchedCtl 6 6).testBit 1 := bit_eq_testBit_fld _ (by omega)
  rw [hscore, htwo, hbit] at hset
  exact absurd hset (by decide)

/-- Refutes O22: SCHEDULER_TAKEOVER makes a push that waits (R209), and a push of an itinerary 257 is refused with a write of SCHED.CTL itself, where
entry 257 of the directory would lie: SCORE then does not hold the number of the core that was active. -/
theorem not_ferryEvents : ¬ Obligations.FerryEvents := by
  rintro ⟨-, -, -, htakeOver, -⟩
  exact not_takeOver_swaps_strayState ((htakeOver strayState).2 (by decide)).2

/-- Refutes O37, by the take-over that refutes O22. -/
theorem not_ferryComplete : ¬ Obligations.FerryComplete := by
  rintro ⟨-, -, -, -, -, htakeOver, -⟩
  exact not_takeOver_swaps_strayState (htakeOver strayState (by decide))

end Sys2Proof.Machine
end

section
/-! Commands of the Ferry (R417-R424): their operands, the event unit's gate, counters and the match table. -/
namespace Sys2Proof.Machine
open Sys2Proof

/-! ## A command that may issue (R77, R417, R418) -/

section
variable {s : State} {f : CmdE}

theorem State.cmdSrc_of_commandMay (h : commandMay s f) : s.cmdSrc f = .ok (s.rs f.a, s.rs f.b, s.rs f.c) := by
  obtain ⟨hops, ha, hb, hc, hd, hlow⟩ := h
  exact State.cmdSrc_eq_ok.2 ⟨hops, ha, hb, hc, State.dst_eq_ok.2 ⟨hlow, hd⟩, rfl⟩

theorem State.eventGate_of_unitFree (h : unitFree s) : s.eventGate = .ok s.accept := by
  obtain ⟨hroom, hused, hbehind⟩ := h
  refine State.eventGate_eq_ok.2 ⟨?_, hbehind, rfl⟩
  rw [State.eventsStall, decide_eq_false (by omega), decide_eq_false (by omega)]
  rfl

theorem fld_ofNat_of_lt {k w : Nat} (h : k < 2 ^ w) (hw : w ≤ 64) : fld (BitVec.ofNat 64 k) 0 w = k := by
  rw [fld_ofNat (h.trans_le (Nat.pow_le_pow_right (by omega) hw))]
  exact (congrArg (· % 2 ^ w) (Nat.shiftRight_zero ..)).trans (Nat.mod_eq_of_lt h)

theorem fld_ofNat_above {k w n : Nat} (h : k < 2 ^ w) (hw : w ≤ 64) : fld (BitVec.ofNat 64 k) w n = 0 := by
  refine fld_of_lt ?_
  rw [BitVec.toNat_ofNat, Nat.mod_eq_of_lt (h.trans_le (Nat.pow_le_pow_right (by omega) hw))]
  exact h

/-! ## Counters (R421) -/

/-- What the counter commands share: the issuer names counter n, of value v, and the event unit takes the command. -/
def counterReady (s : State) (f : CmdE) (n : Nat) : Prop :=
  s.cmdSrc f = .ok (s.rs f.a, s.rs f.b, s.rs f.c) ∧ s.counterOf (s.rs f.a) = .ok n ∧ s.eventGate = .ok s.accept ∧ BitVec.ofNat 64 n = s.rs f.a

theorem counterReady_of_may {n : Nat} (hmay : commandMay s f) (hfree : unitFree s) (ha : s.rs f.a = BitVec.ofNat 64 n) (hn : n < 2 ^ 14)
    (hvalid : bit (s.reg (offCntCtl n)) 0 = true) (hown : s.ownsCnt s.cmdCtx n = true ∨ s.sysPriv s.cmdCtx = true) : counterReady s f n := by
  refine ⟨State.cmdSrc_of_commandMay hmay, ?_, State.eventGate_of_unitFree hfree, ha.symm⟩
  rw [ha]
  exact State.counterOf_eq_ok.2 ⟨fld_ofNat_above hn (by omega), (fld_ofNat_of_lt hn (by omega)).symm, hvalid, hown⟩

theorem counterCmd_of_ready {n : Nat} (h : counterReady s f n) (new : Word → Word → Word) (before : Bool) :
    (s.counterCmd f new before).finish s = .next (answers (s.accept.setCounter n (new (s.cnt n) (s.rs f.b)) none) f
      (if before then s.cnt n else new (s.cnt n) (s.rs f.b)) (s.rs f.a) (s.rs f.b)) := by
  obtain ⟨hsrc, hcounter, hgate, -⟩ := h
  rw [State.counterCmd, hsrc, Res.ok_bind, hcounter, Res.ok_bind, hgate]
  rfl

theorem execCwait_of_ready {n : Nat} (h : counterReady s f n) : execCwait f s = .next (if passed64 (s.cnt n) (s.rs f.b)
    then answers s.accept f (s.cnt n) (s.rs f.a) (s.rs f.b) else awaits s.accept f (.cwait n (s.rs f.b)) (s.rs f.a) (s.rs f.b)) := by
  obtain ⟨hsrc, hcounter, hgate, hname⟩ := h
  rw [execCwait, hsrc, Res.ok_bind, hcounter, Res.ok_bind, hgate, Res.ok_bind]
  dsimp only
  rw [hname]
  split <;> rfl

theorem State.setCounter_cnt (s : State) (n : Nat) (arr : Option Arrival) : s.setCounter n (s.cnt n) arr = s := if_pos rfl

end

theorem State.regs_fire (s : State) (i : Nat) (v : Word) (arr : Option Arrival) : (s.fire i v arr).regs = s.regs := by
  unfold State.fire
  dsimp only
  split <;> rfl

theorem State.regs_evaluate (s : State) (i : Nat) (v : Word) (arr : Option Arrival) : (s.evaluate i v arr).regs = s.regs := by
  unfold State.evaluate
  dsimp only
  split
  · rfl
  · exact s.regs_fire i v arr

theorem State.cnt_congr {s t : State} (h : t.regs = s.regs) (n : Nat) : t.cnt n = s.cnt n := by
  unfold State.cnt State.reg
  rw [h]

theorem State.cnt_trigger (s : State) (n : Nat) : s.trigger.cnt n = s.cnt n := by
  unfold State.trigger
  split
  · rfl
  · exact State.reg_setReg_ne (by unfold offCnt offSnapId; omega)

/-- A counter that is given a value reads it, whatever its entries and its waiters do. -/
theorem State.cnt_setCounter (s : State) (n : Nat) (v : Word) (arr : Option Arrival) : (s.setCounter n v arr).cnt n = v := by
  unfold State.setCounter
  split
  · assumption
  · extract_lets s0 s1 armed
    have h0 : s0.cnt n = v := State.reg_setReg_self ..
    have h1 : s1.cnt n = s0.cnt n := by
      unfold s1
      split
      · exact s0.cnt_trigger n
      · rfl
    clear_value s1
    have harmed : (armed.foldl (fun s i => s.evaluate i v arr) s1).regs = s1.regs :=
      List.foldlRecOn (motive := fun u : State => u.regs = s1.regs) _ _ rfl fun u hu i _ => (u.regs_evaluate i v arr).trans hu
    exact (State.cnt_congr harmed n).trans (h1.trans h0)

/-- The first part of O12 (R87, R421). -/
theorem counterCommands_take_effect : CounterCommands := by
  refine ⟨fun s f n hmay hfree ha hn hvalid hown => ?_, fun s n v arr _ => s.cnt_setCounter n v arr⟩
  have hready := counterReady_of_may hmay hfree ha hn hvalid hown
  have hcread := counterCmd_of_ready hready (fun v _ => v) false
  have hcwait := execCwait_of_ready hready
  refine ⟨counterCmd_of_ready hready (fun v _ => v + 1) false, counterCmd_of_ready hready (fun _ b => b) true,
    counterCmd_of_ready hready (· + ·) false, ?_, fun hpassed => ?_, fun hnot => ?_⟩
  · exact hcread.trans (congrArg (fun t => Host.Outcome.next (answers t f (s.cnt n) (s.rs f.a) (s.rs f.b))) (s.accept.setCounter_cnt n none))
  · exact hcwait.trans (congrArg Host.Outcome.next (if_pos (decide_eq_true hpassed)))
  · exact hcwait.trans (congrArg Host.Outcome.next (if_neg (by simpa [passed64] using hnot)))

/-! ## Entries -/

@[simp] theorem State.entry_setEntry_self (s : State) (i : Nat) (e : BitVec 512) : (s.setEntry i e).entry i = e := tget_tput_self ..

theorem State.entry_setEntry_ne (s : State) {i j : Nat} (e : BitVec 512) (h : j ≠ i) : (s.setEntry i e).entry j = s.entry j := tget_tput_ne _ _ _ h

theorem wordOf_setWord {n : Nat} (v : BitVec n) {i : Nat} (x : Word) (h : 64 * i + 64 ≤ n) : wordOf (setWord v i x) i = x := by
  refine BitVec.eq_of_toNat_eq ?_
  rw [toNat_wordOf, setWord, fld_setFld _ _ h, Nat.mod_eq_of_lt x.isLt]

/-- The lowest index of those that hold. -/
theorem firstBelow_eq_some {p : Nat → Bool} {n k i : Nat} (h : firstBelow p n k = some i) :
    p i = true ∧ k ≤ i ∧ ∀ j, k ≤ j → j < i → p j = false := by
  induction n generalizing k with
  | zero => cases h
  | succ n ih =>
    rw [firstBelow] at h
    split at h
    next hp =>
      cases h
      exact ⟨hp, le_rfl, fun j _ _ => by omega⟩
    next hp =>
      obtain ⟨hi, hle, hlow⟩ := ih h
      refine ⟨hi, by omega, fun j hk hj => ?_⟩
      rcases hk.eq_or_lt with rfl | hlt
      · simpa using hp
      · exact hlow j hlt hj

/-! ## ARM (R83, R423) -/

/-- What ARM installs in place of an image without TRIG, TEN 0. -/
def installed (e : BitVec 512) (c : Nat) (seq : Word) : BitVec 512 :=
  setWord (setFld (setFld (setFld e 0 10 (3 + 16 * (c % 64))) 232 8 0) 352 32 0) 7 seq

theorem armed_eq_installed {e : BitVec 512} (h : eTrig e = false) (c : Nat) (seq : Word) : armed e false c seq = installed e c seq := by
  unfold armed installed
  simp only [h, Bool.false_eq_true, if_false]
  rw [show 1 + 2 + 0 + 0 + c % 64 * 2 ^ 4 = 3 + 16 * (c % 64) by omega]

/-- The flags and the context stand in the image's low ten bits. -/
theorem fld_installed_low (e : BitVec 512) (c : Nat) (seq : Word) : fld (installed e c seq) 0 10 = 3 + 16 * (c % 64) := by
  unfold installed setWord
  rw [fld_setFld_disjoint _ _ (by omega), fld_setFld_disjoint _ _ (by omega), fld_setFld_disjoint _ _ (by omega), fld_setFld _ _ (by omega)]
  omega

/-- A field that the installation does not write is the image's. -/
theorem fld_installed_of_kept (e : BitVec 512) (c : Nat) (seq : Word) {lo w : Nat}
    (h : 10 ≤ lo ∧ lo + w ≤ 232 ∨ 240 ≤ lo ∧ lo + w ≤ 352 ∨ 384 ≤ lo ∧ lo + w ≤ 448) : fld (installed e c seq) lo w = fld e lo w := by
  unfold installed setWord
  rw [fld_setFld_disjoint _ _ (by omega), fld_setFld_disjoint _ _ (by omega), fld_setFld_disjoint _ _ (by omega),
    fld_setFld_disjoint _ _ (by omega)]

theorem bit_installed {c k : Nat} (e : BitVec 512) (seq : Word) (h : k < 4) : bit (installed e c seq) k = decide (k < 2) := by
  have hbit := bit_eq_testBit_fld (installed e c seq) (lo := 0) (w := 10) (k := k) (by omega)
  rw [Nat.zero_add, fld_installed_low, Nat.add_comm, show 16 * (c % 64) + 3 = 2 ^ 4 * (c % 64) + 3 by omega,
    Nat.testBit_two_pow_mul_add _ (by omega), if_pos h] at hbit
  rw [hbit]
  interval_cases k <;> rfl

theorem eCtx_installed {c : Nat} (e : BitVec 512) (seq : Word) (h : c < 64) : eCtx (installed e c seq) = c := by
  have hfld := fld_eq_nfld_fld (installed e c seq) (lo := 0) (w := 10) (k := 4) (m := 6) (by omega)
  rw [Nat.zero_add, fld_installed_low, nfld, Nat.shiftRight_eq_div_pow] at hfld
  exact hfld.trans (by omega)

theorem eArmseq_installed (e : BitVec 512) (c : Nat) (seq : Word) : eArmseq (installed e c seq) = seq.toNat := by
  have h := congrArg BitVec.toNat (wordOf_setWord (setFld (setFld (setFld e 0 10 (3 + 16 * (c % 64))) 232 8 0) 352 32 0) (i := 7) seq (by omega))
  rwa [toNat_wordOf] at h

theorem wordOf_installed {c i : Nat} (e : BitVec 512) (seq : Word) (h : i = 1 ∨ i = 2) : wordOf (installed e c seq) i = wordOf e i :=
  BitVec.eq_of_toNat_eq (by rw [toNat_wordOf, toNat_wordOf, fld_installed_of_kept _ _ _ (by omega)])

theorem eTrig_of_good_image {e : BitVec 512} (h : imageBad e false = false) : eTrig e = false := by
  cases htrig : eTrig e with
  | false => rfl
  | true => simp [imageBad, htrig] at h

/-- With no record in the unexpected list, an ARM without TEN takes the lowest free entry, and does no more. -/
theorem State.eq_installed_of_arm {s s2 : State} {c i : Nat} {e : BitVec 512} (hux : s.ux = []) (h : s.arm c e false = .ok (i, s2)) :
    firstBelow (fun i => !eValid (s.entry i) && eOutst (s.entry i) == 0) 65536 0 = some i ∧ eTrig e = false ∧
      s2 = ({ s with armSeq := s.armSeq + 1 } : State).setEntry i (installed e c s.armSeq) := by
  unfold State.arm at h
  dsimp only at h
  split at h
  · cases h
  next j hj =>
    obtain ⟨_, -, h⟩ := Res.bind_eq_ok.1 h
    obtain ⟨_, -, h⟩ := Res.bind_eq_ok.1 h
    obtain ⟨_, -, h⟩ := Res.bind_eq_ok.1 h
    obtain ⟨_, hgood, h⟩ := Res.bind_eq_ok.1 h
    have htrig : eTrig e = false := by
      have himage := (Bool.and_eq_true_iff.1 (Res.check_eq_ok.1 hgood)).1
      exact eTrig_of_good_image (by simpa using himage)
    rw [armed_eq_installed htrig, htrig, if_neg Bool.false_ne_true] at h
    generalize hs1 : State.setEntry _ j _ = s1 at h
    have hx : s1.ux = [] := hs1 ▸ hux
    rw [hx, State.armScan] at h
    have hten : eTen (s1.entry j) = false := by
      rw [← hs1, State.entry_setEntry_self]
      exact bit_installed e _ (by omega)
    have hidle (v : Word) : s1.evaluate j v none = s1 := if_pos (by rw [hten]; rfl)
    simp only [hidle] at h
    cases h
    exact ⟨hj, htrig, hs1.symm⟩

/-- ARM answers with the index of the entry it has taken. -/
theorem execArm_of_arm {s s1 s2 : State} {f : CmdE} {n i : Nat} {bs : List Byte} (hthread : s.cur = .thread n) (hmay : commandMay s f)
    (hfree : unitFree s1) (hready : bit (s.reg offMatchCtl) 1 = true) (hread : s.readOperand (s.rs f.a) 64 64 = .ok (bs, s1))
    (harm : s1.accept.arm s.cmdCtx (BitVec.ofNat 512 (leNat bs)) (bit f.imm 0) = .ok (i, s2)) :
    execArm f s = .next (answers s2 f (BitVec.ofNat 64 i) (s.rs f.a) 0) := by
  rw [execArm, State.onThread_eq_ok.2 hthread, Res.ok_bind, State.cmdSrc_of_commandMay hmay, Res.ok_bind]
  dsimp only
  rw [hready, if_neg (by decide), hread, Res.ok_bind]
  dsimp only
  rw [State.eventGate_of_unitFree hfree, Res.ok_bind, harm]
  rfl

/-- The entry ARM has installed, and those beside it. -/
theorem entry_installed_of_arm {s s2 : State} {c i : Nat} {e : BitVec 512} (hux : s.ux = []) (harm : s.arm c e false = .ok (i, s2)) (hc : c < 64) :
    eValid (s.entry i) = false ∧ eOutst (s.entry i) = 0 ∧ (∀ j < i, eValid (s.entry j) = true ∨ eOutst (s.entry j) ≠ 0) ∧
    eValid (s2.entry i) = true ∧ eLinked (s2.entry i) = !eTrig e ∧ eTen (s2.entry i) = false ∧ eCtx (s2.entry i) = c ∧ eMb (s2.entry i) = eMb e ∧
    eIgn (s2.entry i) = eIgn e ∧ eCnt (s2.entry i) = eCnt e ∧ eArmseq (s2.entry i) = s.armSeq.toNat ∧ (∀ j, j ≠ i → s2.entry j = s.entry j) := by
  obtain ⟨hlow, htrig, rfl⟩ := State.eq_installed_of_arm hux harm
  obtain ⟨hfree, -, hbusy⟩ := firstBelow_eq_some hlow
  obtain ⟨hvalid, hout⟩ := Bool.and_eq_true_iff.1 hfree
  rw [State.entry_setEntry_self, htrig]
  refine ⟨by simpa using hvalid, by simpa using hout, fun j hj => ?_, bit_installed _ _ (by omega), bit_installed _ _ (by omega),
    bit_installed _ _ (by omega), eCtx_installed _ _ hc, wordOf_installed _ _ (.inl rfl), wordOf_installed _ _ (.inr rfl),
    fld_installed_of_kept _ _ _ (by omega), eArmseq_installed .., fun j hj => State.entry_setEntry_ne _ _ hj⟩
  have h := hbusy j (Nat.zero_le j) hj
  rw [Bool.and_eq_false_iff] at h
  simpa using h

/-! ## DISARM, ARMQ and TRIG (R84, R424) -/

/-- An operand that names an entry of the issuer's. -/
theorem State.entryOf_of_own {s : State} {a : Word} {i : Nat} {any : Bool} (ha : a = BitVec.ofNat 64 i) (hi : i < 65536)
    (hvalid : any = true ∨ eValid (s.entry i) = true) (hown : eCtx (s.entry i) = s.cmdCtx ∨ s.sysPriv s.cmdCtx = true) :
    s.entryOf a any = .ok i := by
  have hfld : fld a 0 16 = i := ha ▸ fld_ofNat_of_lt hi (by omega)
  have hzero : fld a 16 48 = 0 := ha ▸ fld_ofNat_above hi (by omega)
  have hmine : ((any && !eValid (s.entry i)) || eCtx (s.entry i) == s.cmdCtx) = true ∨ s.sysPriv s.cmdCtx = true :=
    hown.imp_left fun h => by rw [h, beq_self_eq_true, Bool.or_true]
  have hknown : (any || eValid (s.entry i)) = true := by simpa using hvalid
  unfold State.entryOf
  dsimp only
  rw [hfld, hzero, hknown, (State.own_eq_ok (u := ())).2 hmine]
  rfl

theorem State.entry_answer (s : State) (f : CmdE) (v a b : Word) (i : Nat) : (s.answer f v a b).entry i = s.entry i := by
  unfold State.answer State.entry
  rw [State.retire_entries, State.startOp_entries]

theorem State.actions_answer (s : State) (f : CmdE) (v a b : Word) : (s.answer f v a b).actions = s.actions := by
  unfold State.answer
  rw [State.retire_actions, State.startOp_actions]

/-- A disarmed entry: LINKED and TEN are clear, and so is VALID once no deposit is under way. -/
theorem State.entry_disarm (s : State) (i : Nat) : (s.disarm i).entry i =
    if eOutst (s.entry i) = 0 then setFld (setFld (s.entry i) 1 2 0) 0 1 0 else setFld (s.entry i) 1 2 0 := by
  unfold State.disarm State.modEntry
  dsimp only
  split
  · rw [State.entry_setEntry_self, State.entry_setEntry_self]
  · split
    · exact State.entry_setEntry_self ..
    · exact State.entry_setEntry_self ..

theorem State.entry_disarm_ne (s : State) {i j : Nat} (h : j ≠ i) : (s.disarm i).entry j = s.entry j := by
  unfold State.disarm State.modEntry
  dsimp only
  split
  · rw [State.entry_setEntry_ne _ _ h, State.entry_setEntry_ne _ _ h]
  · split
    · exact State.entry_setEntry_ne _ _ h
    · exact State.entry_setEntry_ne _ _ h

theorem bit_setFld_zero {n : Nat} (v : BitVec n) {lo w i : Nat} (h : lo + w ≤ n) (hi : lo ≤ i) (hw : i < lo + w) : bit (setFld v lo w 0) i = false := by
  obtain ⟨k, rfl⟩ := Nat.exists_eq_add_of_le hi
  rw [bit_eq_testBit_fld _ (show k < w by omega), fld_setFld _ _ h, Nat.zero_mod, Nat.zero_testBit]

/-- What DISARM leaves of a valid entry's flags. -/
theorem State.flags_disarm (s : State) {i : Nat} (h : eValid (s.entry i) = true) : eLinked ((s.disarm i).entry i) = false ∧
    eTen ((s.disarm i).entry i) = false ∧ eValid ((s.disarm i).entry i) = decide (eOutst (s.entry i) ≠ 0) := by
  have hlinked : bit (setFld (s.entry i) 1 2 0) 1 = false := bit_setFld_zero _ (by omega) (by omega) (by omega)
  have hten : bit (setFld (s.entry i) 1 2 0) 2 = false := bit_setFld_zero _ (by omega) (by omega) (by omega)
  have hvalid : bit (setFld (s.entry i) 1 2 0) 0 = true := (bit_setFld_disjoint _ _ (by omega)).trans h
  rw [State.entry_disarm]
  split
  next hout =>
    refine ⟨(bit_setFld_disjoint _ _ (by omega)).trans hlinked, (bit_setFld_disjoint _ _ (by omega)).trans hten, ?_⟩
    rw [hout]
    exact bit_setFld _ _ (by omega)
  next hout => exact ⟨hlinked, hten, hvalid.trans (decide_eq_true hout).symm⟩

theorem State.fire_entry_ne (s : State) {i j : Nat} (v : Word) (arr : Option Arrival) (h : j ≠ i) : (s.fire i v arr).entry j = s.entry j := by
  unfold State.fire
  dsimp only
  split
  · exact State.entry_setEntry_ne _ _ h
  · exact State.entry_setEntry_ne _ _ h

/-- The firing of an entry whose context is not under MUSTER joins the action queue. -/
theorem State.fire_actions (s : State) (i : Nat) (v : Word) (arr : Option Arrival) (h : s.paused (eCtx (s.entry i)) = false) :
    ∃ g, (s.fire i v arr).actions = s.actions ++ [(g : Firing)] ∧ g.entry = i ∧ g.next = 0 ∧ g.acts.length = eActs (s.entry i) ∧ g.value = v := by
  unfold State.fire
  dsimp only
  rw [h, Bool.not_false, if_pos rfl]
  exact ⟨_, rfl, rfl, rfl, by rw [List.length_map, List.length_range], rfl⟩

section
variable {s : State} {f : CmdE} {i : Nat} (hmay : commandMay s f) (hfree : unitFree s) (ha : s.rs f.a = BitVec.ofNat 64 i) (hi : i < 65536)
  (hown : eCtx (s.entry i) = s.cmdCtx ∨ s.sysPriv s.cmdCtx = true)
include hmay hfree ha hi hown

theorem execDisarm_of_own (hthread : ∃ n, s.cur = .thread n) (hvalid : eValid (s.entry i) = true) :
    execDisarm f s = .next ((s.accept.disarm i).answer f 0 (s.rs f.a) 0) := by
  obtain ⟨n, hn⟩ := hthread
  rw [execDisarm, State.onThread_eq_ok.2 hn, Res.ok_bind, State.cmdSrc_of_commandMay hmay, Res.ok_bind,
    State.entryOf_of_own ha hi (.inr hvalid) hown, Res.ok_bind, State.eventGate_of_unitFree hfree]
  rfl

theorem execArmq_of_own {s1 : State} (hthread : ∃ n, s.cur = .thread n)
    (hwrite : s.accept.writeOperand (s.rs f.b) (leBytes 64 (s.entry i).toNat) 64 = .ok s1) :
    execArmq f s = .next (answers s1 f 0 (s.rs f.a) (s.rs f.b)) := by
  obtain ⟨n, hn⟩ := hthread
  rw [execArmq, State.onThread_eq_ok.2 hn, Res.ok_bind, State.cmdSrc_of_commandMay hmay, Res.ok_bind,
    State.entryOf_of_own ha hi (.inl rfl) hown, Res.ok_bind, State.eventGate_of_unitFree hfree, Res.ok_bind]
  dsimp only
  rw [hwrite]
  rfl

theorem execTrig_of_own (hvalid : eValid (s.entry i) = true) :
    execTrig f s = .next ((s.accept.fire i (s.cnt (eCnt (s.entry i))) none).answer f 0 (s.rs f.a) 0) := by
  rw [execTrig, State.cmdSrc_of_commandMay hmay, Res.ok_bind, State.entryOf_of_own ha hi (.inr hvalid) hown, Res.ok_bind,
    State.eventGate_of_unitFree hfree]
  rfl

end

/-- The second part of O12 (R83, R84, R423, R424). -/
theorem matchTableCommands_take_effect : MatchTableCommands := by
  refine ⟨fun s s1 s2 f n i bs hthread hmay hfree hready hread harm => execArm_of_arm hthread hmay hfree hready hread harm,
    fun s s2 c i e hux harm hc => entry_installed_of_arm hux harm hc,
    fun s f i hmay hfree ha hi hown => ⟨fun hvalid hthread => ?_, fun s1 hthread hwrite => execArmq_of_own hmay hfree ha hi hown hthread hwrite,
      fun hvalid hrun => ?_⟩⟩
  · obtain ⟨hlinked, hten, hkept⟩ := s.accept.flags_disarm hvalid
    refine ⟨_, execDisarm_of_own hmay hfree ha hi hown hthread hvalid, ?_⟩
    simp only [State.entry_answer]
    exact ⟨hlinked, hten, hkept, fun j hj => State.entry_disarm_ne _ hj⟩
  · obtain ⟨g, hact, hg⟩ := s.accept.fire_actions i (s.cnt (eCnt (s.entry i))) none hrun
    obtain ⟨hentry, hnext, hlen, hvalue⟩ := hg
    refine ⟨_, g, execTrig_of_own hmay hfree ha hi hown hvalid, (State.actions_answer ..).trans hact, hentry, hnext, hlen, hvalue, fun j hj => ?_⟩
    exact (State.entry_answer ..).trans (State.fire_entry_ne _ _ _ hj)

/-- Settles O12: the counter commands by the rule they share, and the match table's command by command. -/
theorem engineCommands : Obligations.EngineCommands := ⟨counterCommands_take_effect, matchTableCommands_take_effect⟩

end Sys2Proof.Machine
end

section
/-! The scheduler's commands (R197, R198, R430-R433): what a command's answer leaves of a tile, the operands they share, and the effect of each. -/
namespace Sys2Proof.Machine
open Sys2Proof

/-! ## What issue leaves of the state (R417) -/

theorem State.Booked.withId {s t : State} (h : s.Booked t) (k : Nat) : State.Booked { s with nextId := k } { t with nextId := k } := by
  obtain ⟨⟨r, l, x, y, rfl⟩, ht⟩ := h
  exact ⟨⟨r, l, x, y, rfl⟩, ht⟩

/-- A command that waits, and so one that is answered, takes the next identity; the rest is bookkeeping. -/
theorem State.booked_pending (s : State) (f : CmdE) (k : VarKind) (a b : Word) : State.Booked { s with nextId := s.nextId + 1 } (s.pending f k a b) :=
  ((s.booked_modScal ..).withId _).trans (State.booked_retire ..)

theorem State.tile_pending (s : State) (f : CmdE) (k : VarKind) (a b : Word) (t : Nat) {α : Sort*} (g : Tile → α)
    (hg : ∀ x st sc i u, g { x with streams := st, sc := sc, lastIssue := i, undoBuf := u } = g x) :
    g ((s.pending f k a b).tile t) = g (s.tile t) := (s.booked_pending f k a b).tile t g hg

theorem State.queue_answer (s : State) (f : CmdE) (v a b : Word) (t q : Nat) : ((s.answer f v a b).tile t).queue q = (s.tile t).queue q :=
  s.tile_pending f (.value v) a b t (·.queue q) fun _ _ _ _ _ => rfl

theorem State.sram_answer (s : State) (f : CmdE) (v a b : Word) : (s.answer f v a b).sram = s.sram := by
  unfold State.answer
  rw [State.retire_sram, State.startOp_sram]

theorem State.reg_answer (s : State) (f : CmdE) (v a b : Word) (o : Nat) : (s.answer f v a b).reg o = s.reg o := by
  unfold State.answer State.reg
  rw [State.retire_regs, State.startOp_regs]

theorem State.itin_answer (s : State) (f : CmdE) (v a b : Word) (i : Nat) : (s.answer f v a b).itin i = s.itin i :=
  State.itin_congr fun _ _ _ => s.reg_answer ..

/-! ## Kicks (R197, R430) -/

/-- The pending registers lie behind the directory. -/
theorem offItin_le_offPkb {i : Nat} (h : i < 256) (k : Nat) : offItin i + 32 ≤ offPkb k := by
  unfold offItin offPkb
  omega

theorem State.pending_setPending (s : State) {i : Nat} (h : i < 256) (v : Bool) : (s.setPending i v).pending? i = v := by
  unfold State.setPending State.pending?
  rw [State.reg_modItin_ne (.inr (offItin_le_offPkb h _))]
  unfold State.setRegF
  rw [State.reg_setReg_self, bit_setFld _ _ (Nat.mod_lt _ (by omega))]
  cases v <;> rfl

theorem State.itin_setPending (s : State) {i : Nat} (h : i < 256) (v : Bool) :
    (s.setPending i v).itin i = setFld (s.itin i) 8 1 (if v then 1 else 0) := by
  unfold State.setPending
  rw [State.itin_modItin_self, State.itin_setRegF_ne (.inr (offItin_le_offPkb h _))]

theorem State.pending_kickItin (s : State) {i : Nat} (h : i < 256) (addr n : Nat) : (s.kickItin i addr n).pending? i = true := by
  have hreg : (s.kickItin i addr n).reg (offPkb (i / 64)) = (s.setPending i true).reg (offPkb (i / 64)) :=
    State.reg_modItin_ne (.inr (offItin_le_offPkb h _))
  unfold State.pending?
  rw [hreg]
  exact s.pending_setPending h true

theorem State.itin_kickItin (s : State) {i : Nat} (h : i < 256) (addr n : Nat) :
    (s.kickItin i addr n).itin i = setFld (setFld (setFld (s.itin i) 8 1 1) 64 26 addr) 90 16 n := by
  unfold State.kickItin
  rw [State.itin_modItin_self, State.itin_setPending _ h]
  rfl

/-- The directory's entry after a kick. -/
theorem State.kickItin_fields (s : State) {i addr n : Nat} (h : i < 256) (haddr : addr < 2 ^ 26) (hn : n < 65536) :
    iPend ((s.kickItin i addr n).itin i) = true ∧ iPaddr ((s.kickItin i addr n).itin i) = addr ∧ iPcnt ((s.kickItin i addr n).itin i) = n := by
  rw [State.itin_kickItin _ h]
  refine ⟨?_, ?_, (fld_setFld _ _ (by omega)).trans (Nat.mod_eq_of_lt hn)⟩
  · exact (bit_setFld_disjoint _ _ (by omega)).trans ((bit_setFld_disjoint _ _ (by omega)).trans (bit_setFld _ _ (by omega)))
  · exact (fld_setFld_disjoint _ _ (by omega)).trans ((fld_setFld _ _ (by omega)).trans (Nat.mod_eq_of_lt haddr))

theorem State.sram_modItin (s : State) (i : Nat) (g : BitVec 256 → BitVec 256) : (s.modItin i g).sram = s.sram := by
  obtain ⟨r, h⟩ := s.modItin_eq i g
  rw [h]

theorem State.sram_kickItin (s : State) (i addr n : Nat) : (s.kickItin i addr n).sram = s.sram :=
  (State.sram_modItin ..).trans (State.sram_modItin ..)

theorem toNat_ofNat_of_lt {k w : Nat} (h : k < 2 ^ w) (hw : w ≤ 64) : (BitVec.ofNat 64 k).toNat = k :=
  (BitVec.toNat_ofNat ..).trans (Nat.mod_eq_of_lt (h.trans_le (Nat.pow_le_pow_right (by omega) hw)))

/-- The list operand of a KICK or a PATCH. -/
theorem State.listOperand_of {s : State} {i addr n : Nat} (hi : i < 256) (haddr : addr < 2 ^ 26) (hal : addr % 16 = 0) (hn : n < 65536)
    (hregion : n = 0 ∨ s.inRegion s.cmdCtx addr (16 * n) = true) (hitin : s.itinOk s.cmdCtx i = true) :
    s.listOperand (BitVec.ofNat 64 i) (BitVec.ofNat 64 addr) (BitVec.ofNat 64 n) = .ok i := by
  have hplace : (addr % 16 == 0 && decide (n ≤ 65535)) = true := by
    rw [hal, decide_eq_true (by omega)]
    rfl
  have hlist : (BitVec.ofNat 64 n == 0 || s.inRegion s.cmdCtx addr (16 * n)) = true := by
    rcases hregion with rfl | h
    · rfl
    · rw [h, Bool.or_true]
  unfold State.listOperand
  dsimp only
  rw [fld_ofNat_of_lt (w := 8) hi (by omega), toNat_ofNat_of_lt haddr (by omega), toNat_ofNat_of_lt (w := 16) hn (by omega), hplace, hlist, hitin]
  rfl

section
variable {s : State} {f : CmdE} {i addr n : Nat} (hmay : commandMay s f) (hfree : unitFree s) (hb : s.rs f.b = BitVec.ofNat 64 addr)
  (hc : s.rs f.c = BitVec.ofNat 64 n) (haddr : addr < 2 ^ 26) (hn : n < 65536) (hlist : s.listOperand (s.rs f.a) (s.rs f.b) (s.rs f.c) = .ok i)
include hmay hfree hlist

theorem execKick_pending (hpend : s.pending? i = true) : execKick f s = .next (s.accept.answer f stBusy (s.rs f.a) (s.rs f.b)) := by
  rw [execKick, State.cmdSrc_of_commandMay hmay, Res.ok_bind, hlist, Res.ok_bind, State.eventGate_of_unitFree hfree, Res.ok_bind]
  dsimp only
  rw [hpend, if_pos rfl]
  rfl

include hb hc haddr hn

theorem execKick_taken (hpend : s.pending? i = false) : execKick f s = .next ((s.accept.kickItin i addr n).answer f 0 (s.rs f.a) (s.rs f.b)) := by
  rw [execKick, State.cmdSrc_of_commandMay hmay, Res.ok_bind, hlist, Res.ok_bind, State.eventGate_of_unitFree hfree, Res.ok_bind]
  dsimp only
  rw [hpend, if_neg Bool.false_ne_true, hb, hc, toNat_ofNat_of_lt haddr (by omega), toNat_ofNat_of_lt (w := 16) hn (by omega)]
  rfl

/-- A PATCH of an itinerary that neither runs nor has a kick pending (R198, R432). -/
theorem execPatch_applied (hthread : ∃ m, s.cur = .thread m) (hrun : iRun (s.itin i) = false) (hpend : iPend (s.itin i) = false)
    (hgood : ∀ p ∈ s.patchList addr n, s.patchBad (s.itin i) p.1 p.2 = false) :
    execPatch f s = .next (answers (s.accept.patchApply (s.itin i) (s.patchList addr n)) f 0 (s.rs f.a) (s.rs f.b)) := by
  obtain ⟨m, hm⟩ := hthread
  have hall : ((s.patchList addr n).all fun p => !s.patchBad (s.itin i) p.1 p.2) = true :=
    List.all_eq_true.2 fun p hp => by rw [hgood p hp]; rfl
  rw [execPatch, State.onThread_eq_ok.2 hm, Res.ok_bind, State.cmdSrc_of_commandMay hmay, Res.ok_bind, hlist, Res.ok_bind,
    State.eventGate_of_unitFree hfree, Res.ok_bind]
  dsimp only
  rw [hrun, hpend, Bool.or_false, if_neg Bool.false_ne_true, hb, hc, toNat_ofNat_of_lt haddr (by omega),
    toNat_ofNat_of_lt (w := 16) hn (by omega), hall]
  rfl

end

/-! ## LAUNCH (R431) -/

theorem mem_rectRow {x w k t : Nat} (h : t ∈ (List.range w).map fun i => x + i + 16 * k) : x + 16 * k ≤ t ∧ t < x + w + 16 * k := by
  obtain ⟨i, hi, rfl⟩ := List.mem_map.1 h
  have := List.mem_range.1 hi
  omega

/-- A rectangle of R212 names each of its tiles once. -/
theorem rectTiles_nodup {c : Nat} (h : rectOk c = true) : (rectTiles c).Nodup := by
  have hx : rectX c + rectW c ≤ 16 := by
    simp only [rectOk, Bool.and_eq_true, decide_eq_true_eq] at h
    exact h.1.2
  unfold rectTiles
  refine List.nodup_flatMap.2 ⟨fun j _ => List.nodup_range.map fun i k hik => by omega, ?_⟩
  refine (List.nodup_range (n := rectH c)).imp fun {j k} hjk t ht htk => hjk ?_
  have h1 := mem_rectRow ht
  have h2 := mem_rectRow htk
  omega

/-- The task that a launch queues on a tile of that owner. -/
def launched (d : BitVec 1024) (rect : Nat) (owner : Option Nat) : QTask :=
  { desc := d, ctx := owner.getD 0, rect := BitVec.ofNat 14 rect, saved := false }

theorem State.tasks_push_self (s : State) (t q : Nat) (k : QTask) : (((s.push t q k).tile t).queue q).tasks = ((s.tile t).queue q).tasks ++ [k] := by
  unfold State.push Tile.modQueue Tile.queue
  rw [State.tile_modTile_self]
  dsimp only
  rw [tget_tmod, if_pos rfl]

theorem State.tile_push_ne (s : State) {t u : Nat} (q : Nat) (k : QTask) (h : u ≠ t) : (s.push t q k).tile u = s.tile u := State.tile_modTile_ne _ _ h

/-- Each tile of a launch has the task at its queue's end. -/
theorem State.tasks_foldl_push (d : BitVec 1024) (rect q : Nat) {l : List Nat} (hl : l.Nodup) (s : State) (t : Nat) :
    (((l.foldl (fun s t => s.push t q (launched d rect (s.tileCtx t))) s).tile t).queue q).tasks =
      ((s.tile t).queue q).tasks ++ if t ∈ l then [launched d rect (s.tileCtx t)] else [] := by
  induction l generalizing s with
  | nil => rw [List.foldl_nil, if_neg List.not_mem_nil, List.append_nil]
  | cons x xs ih =>
    obtain ⟨hx, hxs⟩ := List.nodup_cons.1 hl
    rw [List.foldl_cons, ih hxs]
    by_cases htx : t = x
    · subst htx
      rw [if_neg hx, List.append_nil, State.tasks_push_self, if_pos List.mem_cons_self]
    · rw [State.tile_push_ne _ _ _ htx]
      simp only [List.mem_cons, htx, false_or]
      rfl

theorem State.rectOk_of_launchTask {s : State} {c addr rect : Nat} {d : BitVec 1024} (h : s.launchTask c addr rect = .ok d) : rectOk rect = true := by
  obtain ⟨_, -, h⟩ := Res.bind_eq_ok.1 h
  obtain ⟨_, -, h⟩ := Res.bind_eq_ok.1 h
  obtain ⟨_, hrect, -⟩ := Res.bind_eq_ok.1 h
  exact (Bool.and_eq_true_iff.1 (Res.check_eq_ok.1 hrect)).1

/-- A LAUNCH whose task is good goes by what its queues hold. -/
theorem execLaunch_of_task {s : State} {f : CmdE} {d : BitVec 1024} {rect : Nat} (hmay : commandMay s f) (hfree : unitFree s)
    (hb : (s.rs f.b).toNat = rect) (hrect : rect < 2 ^ 14) (htask : s.launchTask s.cmdCtx (s.rs f.a).toNat rect = .ok d) :
    execLaunch f s = .next (match s.accept.launchAll rect (f.imm.toNat % 8) d with
      | some s1 => s1.answer f 0 (s.rs f.a) (s.rs f.b)
      | none => s.accept.answer f stBusy (s.rs f.a) (s.rs f.b)) := by
  have hlow : fld (s.rs f.b) 0 14 = rect := by
    unfold fld
    rw [hb, Nat.shiftRight_zero, Nat.mod_eq_of_lt hrect]
  have hhigh : fld (s.rs f.b) 14 50 = 0 := fld_of_lt (by omega)
  have hq : fld f.imm 0 3 = f.imm.toNat % 8 := congrArg (· % 8) (Nat.shiftRight_zero ..)
  rw [execLaunch, State.cmdSrc_of_commandMay hmay, Res.ok_bind]
  dsimp only
  rw [hlow, hhigh, hq, htask, State.eventGate_of_unitFree hfree]
  change (match s.accept.launchAll rect (f.imm.toNat % 8) d with
    | some s1 => Res.ok (s1.answer f 0 (s.rs f.a) (s.rs f.b))
    | none => Res.ok (s.accept.answer f stBusy (s.rs f.a) (s.rs f.b))).finish s = _
  split <;> rfl

theorem State.launchAll_full {s : State} {rect q t : Nat} (d : BitVec 1024) (ht : t ∈ rectTiles rect) (hfull : 64 ≤ ((s.tile t).queue q).tasks.length) :
    s.launchAll rect q d = none :=
  if_pos (List.any_eq_true.2 ⟨t, ht, decide_eq_true hfull⟩)

theorem State.launchAll_room {s : State} {rect q : Nat} (d : BitVec 1024) (hroom : ∀ t ∈ rectTiles rect, ((s.tile t).queue q).tasks.length < 64) :
    s.launchAll rect q d = some ((rectTiles rect).foldl (fun s t => s.push t q (launched d rect (s.tileCtx t))) s) :=
  if_neg fun h => by
    obtain ⟨t, ht, hfull⟩ := List.any_eq_true.1 h
    exact absurd (of_decide_eq_true hfull) (by have := hroom t ht; omega)

/-! ## PATCH.M (R432) -/

/-- A PATCH.M whose nodes are free and whose source reads writes the bytes to Ferry SRAM. -/
theorem execPatchM_of_read {s s1 : State} {f : CmdE} {b n : Nat} {bs : List Byte} (hthread : ∃ m, s.cur = .thread m) (hmay : commandMay s f)
    (ha : (s.rs f.a).toNat % 16 = 0) (hb : s.rs f.b = BitVec.ofNat 64 b) (hc : s.rs f.c = BitVec.ofNat 64 n) (hb16 : b % 16 = 0) (hn16 : n % 16 = 0)
    (hlow : 16 ≤ n) (hhigh : n ≤ 65536) (hend : b + n ≤ 2 ^ 26) (hregion : s.inRegion s.cmdCtx b n = true) (hbusy : s.nodesBusy b n = false)
    (hread : s.readOperand (s.rs f.a) n 16 = .ok (bs, s1)) (hfree : unitFree s1) :
    execPatchM f s = .next (({ s1.accept with sram := mwrites s1.sram b bs } : State).answer f 0 (s.rs f.a) (s.rs f.b)) := by
  obtain ⟨m, hm⟩ := hthread
  have hbn : (s.rs f.b).toNat = b := hb ▸ toNat_ofNat_of_lt (w := 26) (by omega) (by omega)
  have hcn : (s.rs f.c).toNat = n := hc ▸ toNat_ofNat_of_lt (w := 17) (by omega) (by omega)
  have hplace : ((s.rs f.a).toNat % 16 == 0 && b % 16 == 0 && n % 16 == 0 && decide (16 ≤ n) && decide (n ≤ 65536)) = true := by
    simp [ha, hb16, hn16, hlow, hhigh]
  rw [execPatchM, State.onThread_eq_ok.2 hm, Res.ok_bind, State.cmdSrc_of_commandMay hmay, Res.ok_bind]
  dsimp only
  rw [hbn, hcn, hplace, Res.check_true, Res.ok_bind, hregion, Res.check_true, Res.ok_bind, hbusy, if_neg Bool.false_ne_true, hread, Res.ok_bind]
  dsimp only
  rw [State.eventGate_of_unitFree hfree]
  rfl

theorem mread_mwrites_inside (m : Mem) (a : Nat) (bs : List Byte) {j : Nat} (h : j < bs.length) : mread (mwrites m a bs) (a + j) = bs.getD j 0 := by
  rw [mread_mwrites, dif_pos (by omega), List.getD_eq_getElem _ _ h]
  congr 1
  omega

/-! ## QCTL (R433) -/

/-- A queue operand: a tile of the issuer's, and one of its queues. -/
theorem State.queueOperand_of {s : State} {a : Word} {t q : Nat} (ha : a = BitVec.ofNat 64 (t + 256 * q)) (ht : t < 256) (hq : q < 8)
    (hown : s.tileCtx t = some s.cmdCtx ∨ s.sysPriv s.cmdCtx = true) : s.queueOperand a = .ok (t, q) := by
  have htile : fld a 0 8 = t := by
    rw [ha, fld_ofNat (by omega), nfld, Nat.shiftRight_zero]
    omega
  have hqueue : fld a 8 3 = q := by
    rw [ha, fld_ofNat (by omega), nfld, Nat.shiftRight_eq_div_pow]
    omega
  have hzero : fld a 11 53 = 0 := ha ▸ fld_ofNat_above (by omega) (by omega)
  have hmine : (s.tileCtx t == some s.cmdCtx) = true ∨ s.sysPriv s.cmdCtx = true := hown.imp_left fun h => by rw [h, beq_self_eq_true]
  unfold State.queueOperand
  rw [htile, hqueue, hzero, (State.own_eq_ok (u := ())).2 hmine]
  rfl

theorem Tile.queue_modQueue (x : Tile) (q : Nat) (g : TaskQueue → TaskQueue) : (x.modQueue q g).queue q = g (x.queue q) := by
  unfold Tile.modQueue Tile.queue
  dsimp only
  rw [tget_tmod, if_pos rfl]

theorem State.queue_modQueue (s : State) (t q : Nat) (g : TaskQueue → TaskQueue) :
    ((s.modTile t fun x => x.modQueue q g).tile t).queue q = g ((s.tile t).queue q) := by
  rw [State.tile_modTile_self, Tile.queue_modQueue]

/-- Whoever asks a tile's task to stop first begins the collection. -/
theorem State.collect_askPreempt {s : State} {t : Nat} (htask : (s.tile t).task ≠ none) (hidle : (s.tile t).collect = none) :
    ((s.askPreempt t).tile t).collect = some { stage := 0, since := s.ccc } := by
  unfold State.askPreempt
  rw [State.tile_modTile_self, hidle, if_pos (by simpa using Option.isSome_iff_ne_none.2 htask)]

/-- The tickets and the number of tasks of sys.TQn (R188). -/
theorem Tile.tqReg_fields (x : Tile) (q : Nat) : (x.tqReg q).toNat % 256 = (x.queue q).tickets.toNat ∧
    (x.tqReg q).toNat / 256 % 128 = (x.queue q).tasks.length % 128 := by
  have hlt := (x.queue q).tickets.isLt
  unfold Tile.tqReg
  dsimp only
  rw [BitVec.toNat_ofNat]
  split <;> omega

section
variable {s : State} {f : CmdE} {t q : Nat} (hmay : commandMay s f) (hqueue : s.queueOperand (s.rs f.a) = .ok (t, q))
include hmay hqueue

theorem execQctlTickets_of (hb : (s.rs f.b).toNat < 256) : execQctlTickets f s =
    .next ((s.modTile t fun x => x.modQueue q fun y => { y with tickets := (s.rs f.b).setWidth 8 }).answer f 0 (s.rs f.a) (s.rs f.b)) := by
  rw [execQctlTickets, State.cmdSrc_of_commandMay hmay, Res.ok_bind, hqueue, Res.ok_bind]
  dsimp only
  rw [fld_of_lt (i := 8) hb]
  rfl

theorem execQctlFlush_of (hrerun : (s.tile t).rerun = none) : execQctlFlush f s =
    .next ((s.modTile t fun x => x.modQueue q fun y => { y with tasks := y.tasks.filter (·.saved) }).answer f
      (BitVec.ofNat 64 (((s.tile t).queue q).tasks.countP fun k => !k.saved)) (s.rs f.a) (s.rs f.b)) := by
  rw [execQctlFlush, State.cmdSrc_of_commandMay hmay, Res.ok_bind, hqueue, Res.ok_bind]
  dsimp only
  rw [hrerun]
  rfl

theorem execQctlPreempt_of (hother : s.cur.tile? ≠ some t) : execQctlPreempt f s = .next (if (s.tile t).task.isNone
    then s.answer f stNone (s.rs f.a) (s.rs f.b) else (s.askPreempt t).pending f (.preemption t) (s.rs f.a) (s.rs f.b)) := by
  rw [execQctlPreempt, State.cmdSrc_of_commandMay hmay, Res.ok_bind, hqueue, Res.ok_bind]
  dsimp only
  rw [bne_iff_ne.2 hother, Res.check_true, Res.ok_bind]
  split <;> rfl

theorem execQctlRead_of : execQctlRead f s = .next (s.answer f ((s.tile t).tqReg q) (s.rs f.a) (s.rs f.b)) := by
  rw [execQctlRead, State.cmdSrc_of_commandMay hmay, Res.ok_bind, hqueue]
  rfl

end

/-! ## The obligation -/

/-- Settles O13, command by command: KICK and PATCH, LAUNCH, PATCH.M, and the forms of QCTL. -/
theorem schedulerCommands : Obligations.SchedulerCommands := by
  refine ⟨fun s f i addr n hmay hfree ha hi hb hc haddr hal hn hregion hitin => ?_, fun s f d rect hmay hfree hb hrect htask => ⟨?_, fun hroom => ?_⟩,
    fun s s1 f m b n bs hm hmay ha hb hc hb16 hn16 hlow hhigh hend hregion hbusy hread hfree => ?_, fun s f t q hmay ha ht hq hown => ?_⟩
  · have hlist : s.listOperand (s.rs f.a) (s.rs f.b) (s.rs f.c) = .ok i := by
      rw [ha, hb, hc]
      exact State.listOperand_of hi haddr hal hn hregion hitin
    refine ⟨fun hpend => execKick_pending hmay hfree hlist hpend, fun hpend => ?_,
      fun hthread hrun hidle hgood => execPatch_applied hmay hfree hb hc haddr hn hlist hthread hrun hidle hgood⟩
    obtain ⟨hbit, hplace, hcount⟩ := s.accept.kickItin_fields hi haddr hn
    refine ⟨_, execKick_taken hmay hfree hb hc haddr hn hlist hpend, ?_⟩
    rw [State.itin_answer, State.sram_answer, State.sram_kickItin]
    exact ⟨(congrArg (bit · (i % 64)) (State.reg_answer ..)).trans (s.accept.pending_kickItin hi addr n), hbit, hplace, hcount, rfl⟩
  · rintro ⟨t, ht, hfull⟩
    have h := execLaunch_of_task hmay hfree hb hrect htask
    rwa [State.launchAll_full (s := s.accept) d ht hfull] at h
  · have h := execLaunch_of_task hmay hfree hb hrect htask
    rw [State.launchAll_room (s := s.accept) d hroom] at h
    refine ⟨_, h, fun t ht => ?_⟩
    rw [State.queue_answer, State.tasks_foldl_push _ _ _ (rectTiles_nodup (State.rectOk_of_launchTask htask)), if_pos ht]
    rfl
  · refine ⟨_, execPatchM_of_read ⟨m, hm⟩ hmay ha hb hc hb16 hn16 hlow hhigh hend hregion hbusy hread hfree, ?_⟩
    rw [State.sram_answer]
    exact ⟨fun j hj => mread_mwrites_inside _ _ _ hj, fun j hj => mread_mwrites_outside _ _ _ _ hj⟩
  · have hqueue := State.queueOperand_of ha ht hq hown
    obtain ⟨htickets, htasks⟩ := (s.tile t).tqReg_fields q
    refine ⟨fun hb => ⟨_, execQctlTickets_of hmay hqueue hb, ?_⟩, fun hrerun => ⟨_, ((s.tile t).queue q).tasks.countP fun k => !k.saved,
      execQctlFlush_of hmay hqueue hrerun, ?_⟩,
      fun hother hnone => ?_, fun hother hsome hidle => ?_, _, execQctlRead_of hmay hqueue, htickets, fun hlen => ?_⟩
    · rw [State.queue_answer, State.queue_modQueue]
      exact ⟨rfl, rfl⟩
    · rw [State.queue_answer, State.queue_modQueue]
      refine ⟨rfl, ?_, _, rfl⟩
      have hparts := ((s.tile t).queue q).tasks.length_eq_countP_add_countP (·.saved)
      rw [← List.countP_eq_length_filter, hparts, add_comm]
      simp
    · have h := execQctlPreempt_of hmay hqueue hother
      rwa [if_pos (by rw [hnone]; rfl)] at h
    · have h := execQctlPreempt_of hmay hqueue hother
      rw [if_neg (by simpa using hsome)] at h
      refine ⟨_, h, ?_, _, rfl⟩
      exact (State.tile_pending _ _ _ _ _ t (·.collect) fun _ _ _ _ _ => rfl).trans (State.collect_askPreempt hsome hidle)
    · rw [htasks, Nat.mod_eq_of_lt hlen]

end Sys2Proof.Machine
end

section
/-! Which byte an address names, and what a bad one raises (R102, R103, R344). -/
namespace Sys2Proof.Machine
open Sys2Proof

/-! ## The space of an address (R344) -/

theorem fld_eq_div_mod {n : Nat} (v : BitVec n) (lo w : Nat) : fld v lo w = v.toNat / 2 ^ lo % 2 ^ w :=
  congrArg (· % 2 ^ w) (Nat.shiftRight_eq_div_pow ..)

theorem bit_eq_decide {n : Nat} (v : BitVec n) (i : Nat) : bit v i = decide (v.toNat / 2 ^ i % 2 = 1) := by
  unfold bit
  rw [← BitVec.testBit_toNat, Nat.testBit_eq_decide_div_mod_eq]

/-- Bits [63:57], bit 56 and the code in [55:52] are the parts of bits [63:52]. -/
theorem space_of {ea : Word} {q : Nat} (h : ea.toNat / 2 ^ 52 = q) :
    fld ea 57 7 = q / 32 ∧ bit ea 56 = decide (q / 16 % 2 = 1) ∧ fld ea 52 4 = q % 16 := by
  have hlt := ea.isLt
  rw [fld_eq_div_mod, bit_eq_decide, fld_eq_div_mod]
  refine ⟨by omega, ?_, by omega⟩
  rw [show ea.toNat / 2 ^ 56 = q / 16 by omega]

section
variable {s : State} {w : Who} {ea : Word} {n al t k : Nat} {store atomic : Bool}

theorem State.locate_above (h : ea.toNat / 2 ^ 57 ≠ 0) : s.locate w ea n store atomic al = .raise .coreUnmapped ea := by
  have hlt := ea.isLt
  have hhigh : fld ea 57 7 ≠ 0 := by
    rw [fld_eq_div_mod]
    omega
  exact if_pos hhigh

/-- A virtual address that is not aligned. -/
theorem State.locate_unaligned (h : ea.toNat / 2 ^ 56 = 0) (hal : ea.toNat % al ≠ 0) :
    s.locate w ea n store atomic al = .raise (if atomic then .atomicAlign else .align) ea := by
  obtain ⟨hhigh, hbit, -⟩ := space_of (ea := ea) rfl
  rw [show ea.toNat / 2 ^ 52 / 32 = 0 by omega] at hhigh
  rw [show ea.toNat / 2 ^ 52 / 16 = 0 by omega] at hbit
  unfold State.locate
  dsimp only
  rw [hhigh, hbit, beq_eq_false_iff_ne.2 hal]
  rfl

/-- An address of the own scratchpad: its offset's range is checked before its alignment. -/
theorem State.locate_ownSpad (h : ea.toNat / 2 ^ 52 = 16) : s.locate (.stream t k) ea n store atomic al =
    (Res.check (fld ea 21 31 == 0) .spadRange ea).bind fun _ =>
      (Res.check (ea.toNat % al == 0) (if atomic then .atomicAlign else .align) ea).bind fun _ => .ok (.spad t (fld ea 0 21) false, s) := by
  obtain ⟨hhigh, hbit, hcode⟩ := space_of h
  unfold State.locate
  dsimp only
  rw [hhigh, hbit, hcode]
  rfl

/-- A stream names no register block (R103). -/
theorem State.locate_stream_reg (h : ea.toNat / 2 ^ 52 = 22) : s.locate (.stream t k) ea n store atomic al = .raise .priv ea := by
  obtain ⟨hhigh, hbit, hcode⟩ := space_of h
  unfold State.locate
  dsimp only
  rw [hhigh, hbit, hcode]
  rfl

/-- Bits [51:21] of an address are zero where its offset lies in a scratchpad's 2 MiB. -/
theorem fld_offset_eq_zero_iff (ea : Word) : fld ea 21 31 = 0 ↔ ea.toNat % 2 ^ 52 < 2 ^ 21 := by
  rw [fld_eq_div_mod]
  omega

end

/-! ## The obligation -/

theorem scratchpadAddresses : ScratchpadAddresses := by
  intro s t k n off store atomic hoff hal hn
  have hea : (BitVec.ofNat 64 (2 ^ 56 + off)).toNat = 2 ^ 56 + off := by
    rw [BitVec.toNat_ofNat]
    omega
  have hrange : fld (BitVec.ofNat 64 (2 ^ 56 + off)) 21 31 = 0 := (fld_offset_eq_zero_iff _).2 (by rw [hea]; omega)
  have hplace : fld (BitVec.ofNat 64 (2 ^ 56 + off)) 0 21 = off := by
    rw [fld_eq_div_mod, hea]
    omega
  have haligned : (2 ^ 56 + off) % n = 0 := Nat.mod_eq_zero_of_dvd (hn.add (Nat.dvd_of_mod_eq_zero hal))
  rw [State.locate_ownSpad (by rw [hea]; omega), hrange, hplace, hea, haligned]
  rfl

theorem addressFaults : AddressFaults := by
  intro s w ea n store
  refine ⟨State.locate_above, State.locate_unaligned, ?_, ?_, ?_⟩
  · rintro t k rfl hspace hout
    have hrange : fld ea 21 31 ≠ 0 := fun h => absurd ((fld_offset_eq_zero_iff ea).1 h) (by omega)
    rw [State.locate_ownSpad hspace, beq_eq_false_iff_ne.2 hrange]
    rfl
  · rintro t k rfl hspace hin hal
    rw [State.locate_ownSpad hspace, (fld_offset_eq_zero_iff ea).2 hin, beq_eq_false_iff_ne.2 hal]
    rfl
  · rintro t k rfl hspace
    exact State.locate_stream_reg hspace

/-- Settles O41: the scratchpad's bytes and the faults of an address, by the space that its high bits name. -/
theorem addresses : Obligations.Addresses := ⟨scratchpadAddresses, addressFaults⟩

end Sys2Proof.Machine
end

section
/-! Commands of translation (R106, R114, R436-R439): MAP, UNMAP, LEASE and SDOWN, each by what it does once its operands are good. -/
namespace Sys2Proof.Machine
open Sys2Proof

/-! ## Operands (R436) -/

theorem xCtx_eq (f : CmdE) : xCtx f = f.imm.toNat / 16 % 64 := fld_eq_div_mod ..

theorem pageOk_of {a : Word} (h : a.toNat % 65536 = 0 ∧ a.toNat < 2 ^ 56) : pageOk a = true := by
  have hlow : fld a 0 16 = 0 := (fld_eq_div_mod ..).trans (by simpa using h.1)
  rw [pageOk, hlow, fld_of_lt h.2]
  rfl

/-- A number of eight bits as an operand: a tensor's or a tile's. -/
theorem fld_byte_of {a : Word} (h : a.toNat < 256) : fld a 0 8 = a.toNat ∧ fld a 8 56 = 0 :=
  ⟨(fld_eq_div_mod ..).trans (by omega), fld_of_lt h⟩

/-- The deadline that UNMAP with NW answers in lease mode (R438). -/
theorem status_deadline (x : Nat) : status 4 (x % 2 ^ 48) = statusWord 4 x := by
  rw [status, statusWord, Nat.mod_mod]
  rfl

theorem State.entryPa_eq_some {s : State} {c level pa : Nat} {va : Word} (h : s.entryPa c va level = some pa) :
    ∃ frame, s.entryAt c va level = .inl frame ∧ pa = frame * 65536 + 8 * vaIndex va level := by
  unfold State.entryPa at h
  split at h
  · exact ⟨_, ‹_›, (Option.some.inj h).symm⟩
  · exact nomatch h

theorem State.chunkOk_of_chunkEntry {s : State} {c pa : Nat} {a : Word} (h : s.chunkEntry c a = .ok pa) : chunkOk a = true := by
  obtain ⟨_, hok, -⟩ := Res.bind_eq_ok.1 h
  exact Res.check_eq_ok.1 hok

theorem Res.bind_of_eq_ok {α β : Type} {r : Res α} {a : α} {k : α → Res β} (h : r = .ok a) : r.bind k = k a := congrArg (·.bind k) h

theorem inHbm_of_lt {pa : Nat} (h : pa < 2 ^ 39) : inHbm pa = .ok pa := inHbm_eq_ok.2 ⟨h, rfl⟩

/-! ## What an answer leaves -/

theorem State.hbm_answer (s : State) (f : CmdE) (v a b : Word) : (s.answer f v a b).hbm = s.hbm := by
  rw [State.answer, State.retire_hbm, State.startOp_hbm]

theorem State.tensor_answer (s : State) (f : CmdE) (v a b : Word) (c id : Nat) : (s.answer f v a b).tensor c id = s.tensor c id := by
  rw [State.answer, State.tensor, State.retire_tensors, State.startOp_tensors]
  rfl

theorem mread_mputw_outside (m : Mem) {a j : Nat} (v : Word) (h : j < a ∨ a + 8 ≤ j) : mread (mputw m a v) j = mread m j :=
  mread_mwrites_outside m a _ j (by rwa [leBytes_length])

/-- Bit 0 cleared, and the other bits as before. -/
theorem setFld_bit_zero {n : Nat} (v : BitVec n) (h : 0 < n) : bit (setFld v 0 1 0) 0 = false ∧ (setFld v 0 1 0).toNat / 2 = v.toNat / 2 := by
  refine ⟨bit_setFld_zero v h le_rfl Nat.one_pos, ?_⟩
  have hrest := fld_setFld_disjoint v (lo := 0) (w := 1) (lo' := 1) (w' := n) 0 (.inl le_rfl)
  have hcut (x : BitVec n) : fld x 1 n = x.toNat / 2 := by
    rw [fld_eq_div_mod, pow_one, Nat.mod_eq_of_lt ((Nat.div_le_self ..).trans_lt x.isLt)]
  rwa [hcut, hcut] at hrest

/-! ## The commands -/

section
variable {s : State} {f : CmdE} (hmay : systemMay s f)
include hmay

theorem State.xSrc_of_systemMay : s.xSrc f = .ok (s.rs f.a, s.rs f.b, s.rs f.c) := by
  obtain ⟨hcommand, ⟨n, hn⟩, hsys⟩ := hmay
  rw [State.xSrc, State.onThread_eq_ok.2 hn, Res.ok_bind, State.cmdSrc_of_commandMay hcommand, Res.ok_bind, State.needSys_eq_ok (u := ()) |>.2 hsys]
  rfl

theorem execMapVa_of {pa : Nat} (hpage : (s.rs f.a).toNat % 65536 = 0 ∧ (s.rs f.a).toNat < 2 ^ 56) (hrsvd : entryRsvd (s.rs f.b) = false)
    (hpresent : bit (s.rs f.b) 0 = true) (hframe : frameOut (s.rs f.b) = false)
    (hentry : s.entryPa (f.imm.toNat / 16 % 64) (s.rs f.a) (f.imm.toNat / 1024 % 4) = some pa) (hpa : pa < 2 ^ 39)
    (hmoves : bit (mword s.hbm pa) 1 = false) :
    execMapVa f s = .next (if bit (mword s.hbm pa) 0 then s.answer f stBusy (s.rs f.a) (s.rs f.b)
      else (s.pending f (.update (s.nextId + 1)) (s.rs f.a) (s.rs f.b)).startUpdate (f.imm.toNat / 16 % 64) (s.rs f.a) 1 (f.imm.toNat / 1024 % 4)
        (s.rs f.b)) := by
  obtain ⟨frame, hat, rfl⟩ := State.entryPa_eq_some hentry
  have hlevel : fld f.imm 10 2 = f.imm.toNat / 1024 % 4 := fld_eq_div_mod ..
  rw [execMapVa, State.xSrc_of_systemMay hmay, Res.ok_bind]
  dsimp only
  rw [xCtx_eq, hlevel, pageOk_of hpage, hrsvd, hpresent, hframe, Bool.not_false, Bool.and_true, Bool.and_true, Res.check_true,
    Res.ok_bind, Res.check_true, Res.ok_bind, hat]
  dsimp only
  rw [inHbm_of_lt ((Nat.le_add_right ..).trans_lt hpa), Res.ok_bind, State.pte, hmoves, Bool.not_false, Res.check_true, Res.ok_bind]
  split <;> rfl

theorem execMapTensor_of {bs : List Byte} {s1 : State} (ha : (s.rs f.a).toNat < 256) (hread : s.readOperand (s.rs f.b) 64 1 = .ok (bs, s1))
    (hgood : tdBad (BitVec.ofNat 512 (leNat bs)) = false) (hfree : s1.copyNames (f.imm.toNat / 16 % 64) (s.rs f.a).toNat = false) :
    execMapTensor f s = .next ((s1.setTensor (f.imm.toNat / 16 % 64) (s.rs f.a).toNat (setFld (BitVec.ofNat 512 (leNat bs)) 14 1 0)).answer f 0
      (s.rs f.a) (s.rs f.b)) := by
  obtain ⟨hid, hhigh⟩ := fld_byte_of ha
  rw [execMapTensor, State.xSrc_of_systemMay hmay, Res.ok_bind]
  dsimp only
  rw [xCtx_eq, hid, hhigh, hread]
  simp only [Res.ok_bind, hgood, hfree, Bool.and_false]
  rfl

theorem execMapChunk_of {pa : Nat} (hentry : s.chunkEntry (f.imm.toNat / 16 % 64) (s.rs f.a) = .ok pa) (hmoves : bit (mword s.hbm pa) 1 = false)
    (hrsvd : entryRsvd (s.rs f.b) = false) (hframe : frameOut (s.rs f.b) = false) (habsent : bit (mword s.hbm pa) 0 = false) :
    execMapChunk f s = .next (({ s with hbm := mputw s.hbm pa (s.rs f.b) } : State).answer f 0 (s.rs f.a) (s.rs f.b)) := by
  rw [execMapChunk, State.xSrc_of_systemMay hmay, Res.ok_bind]
  dsimp only
  rw [xCtx_eq, hentry, hrsvd, hframe, State.chunkOk_of_chunkEntry hentry, Bool.and_false]
  simp only [Bool.not_false, Bool.and_true, Res.check_true, Res.ok_bind, hmoves, habsent]
  rfl

theorem execUnmapChunk_of {pa : Nat} (hentry : s.chunkEntry (f.imm.toNat / 16 % 64) (s.rs f.a) = .ok pa) (hmoves : bit (mword s.hbm pa) 1 = false) :
    execUnmapChunk f s = .next (({ s with hbm := mputw s.hbm pa (setFld (mword s.hbm pa) 0 1 0) } : State).answer f 0 (s.rs f.a) 0) := by
  rw [execUnmapChunk, State.xSrc_of_systemMay hmay, Res.ok_bind, xCtx_eq, hentry, Res.ok_bind]
  dsimp only
  rw [hmoves]
  rfl

theorem execUnmapTensor_of (ha : (s.rs f.a).toNat < 256) (hfree : s.copyNames (f.imm.toNat / 16 % 64) (s.rs f.a).toNat = false) :
    execUnmapTensor f s = .next ((s.setTensor (f.imm.toNat / 16 % 64) (s.rs f.a).toNat
      (setFld (s.tensor (f.imm.toNat / 16 % 64) (s.rs f.a).toNat) 0 1 0)).answer f 0 (s.rs f.a) 0) := by
  obtain ⟨hid, hhigh⟩ := fld_byte_of ha
  rw [execUnmapTensor, State.xSrc_of_systemMay hmay, Res.ok_bind]
  dsimp only
  rw [xCtx_eq, hid, hhigh, hfree]
  rfl

/-- UNMAP of a page starts its update, whether its d waits or not (R438). -/
theorem execUnmapVa_of (hpage : (s.rs f.a).toNat % 65536 = 0 ∧ (s.rs f.a).toNat < 2 ^ 56)
    (hwindow : s.inWindow (f.imm.toNat / 16 % 64) (s.rs f.a) = false) (hrecorded : s.frameRecorded (f.imm.toNat / 16 % 64) (s.rs f.a) = false)
    (hentry : ∀ pa, s.entryPa (f.imm.toNat / 16 % 64) (s.rs f.a) 0 = some pa → pa < 2 ^ 39 ∧ bit (mword s.hbm pa) 1 = false) :
    execUnmapVa f s = .next ((if f.imm.getLsbD 2 = false then s.pending f (.update (s.nextId + 1)) (s.rs f.a) 0
      else s.answer f (if bit (s.reg offXlatCtl) 0 then 0
        else statusWord 4 (s.ccc.toNat + 940 * (s.cxF (f.imm.toNat / 16 % 64) cLEASE 0 11 + 1))) (s.rs f.a) 0).startUpdate
      (f.imm.toNat / 16 % 64) (s.rs f.a) 0 0 0) := by
  have hnw : bit f.imm 2 = f.imm.getLsbD 2 := rfl
  rw [execUnmapVa, State.xSrc_of_systemMay hmay, Res.ok_bind]
  dsimp only
  rw [xCtx_eq, pageOk_of hpage, hwindow, hrecorded, Res.check_true, Res.ok_bind, Bool.or_false, if_neg Bool.false_ne_true, Res.bind_of_eq_ok (a := ())]
  · rw [Res.finish_ok, status_deadline, hnw]
    cases f.imm.getLsbD 2 <;> cases bit (s.reg offXlatCtl) 0 <;> rfl
  · split
    · obtain ⟨hpa, hmoves⟩ := hentry _ ‹_›
      rw [inHbm_of_lt hpa, Res.ok_bind, hmoves]
      rfl
    · rfl

theorem execLease_of (ha : (s.rs f.a).toNat < 256) (hlow : 1 ≤ (s.rs f.b).toNat) (hhigh : (s.rs f.b).toNat ≤ 1024)
    (hown : s.tileCtx (s.rs f.a).toNat = some (f.imm.toNat / 16 % 64)) :
    execLease f s = .next ((s.modTile (s.rs f.a).toNat fun x =>
      { x with trace := { x.trace with lease := s.ccc + BitVec.ofNat 64 (cyclesOf (s.rs f.b).toNat) } }).answer f
        (s.ccc + BitVec.ofNat 64 (cyclesOf (s.rs f.b).toNat)) (s.rs f.a) (s.rs f.b)) := by
  obtain ⟨hid, hzero⟩ := fld_byte_of ha
  rw [execLease, State.xSrc_of_systemMay hmay, Res.ok_bind]
  dsimp only
  rw [xCtx_eq, hid, hzero, hown, decide_eq_true hlow, decide_eq_true hhigh, beq_self_eq_true, beq_self_eq_true]
  rfl

theorem execSdown_of (hpage : (s.rs f.a).toNat % 65536 = 0 ∧ (s.rs f.a).toNat < 2 ^ 56) (hkind : f.imm.toNat % 4 = 0) :
    execSdown f s = .next ((s.pending f (.update (s.nextId + 1)) (s.rs f.a) 0).startUpdate (f.imm.toNat / 16 % 64) (s.rs f.a) 2 0 0) := by
  have hlow : fld f.imm 0 2 = 0 := (fld_eq_div_mod ..).trans (by simpa using hkind)
  rw [execSdown, State.xSrc_of_systemMay hmay, Res.ok_bind, hlow, pageOk_of hpage, xCtx_eq]
  rfl

end

/-! ## The obligation -/

/-- Settles O15, command by command: each issues by the lemma of its own kind. -/
theorem translationCommands : Obligations.TranslationCommands := by
  intro s f hmay a b c page
  refine ⟨fun pa hpage hrsvd hpresent hframe hentry hpa hmoves => ?_, fun bs s1 ha hread => ?_, fun pa hentry _ hmoves => ⟨fun hrsvd hframe habsent => ?_, ?_⟩,
    fun ha hfree => ?_, fun hpage hwindow hrecorded hentry => ?_, fun ha hlow hhigh hown => ?_, fun hpage hkind => execSdown_of hmay hpage hkind⟩
  · have h := execMapVa_of hmay hpage hrsvd hpresent hframe hentry hpa hmoves
    refine ⟨fun hp => h.trans ?_, fun hp => h.trans ?_⟩
    · rw [hp, if_pos rfl]
      rfl
    · rw [hp, if_neg Bool.false_ne_true]
      rfl
  · intro d hgood hfree
    refine ⟨_, execMapTensor_of hmay ha hread hgood hfree, ?_, State.hbm_answer ..⟩
    rw [State.tensor_answer, State.tensor_setTensor]
  · refine ⟨_, execMapChunk_of hmay hentry hmoves hrsvd hframe habsent, ?_⟩
    rw [State.hbm_answer]
    exact ⟨mword_mputw .., fun j hj => mread_mputw_outside _ _ hj⟩
  · refine ⟨_, execUnmapChunk_of hmay hentry hmoves, ?_⟩
    obtain ⟨hclear, hrest⟩ := setFld_bit_zero (mword s.hbm pa) (by decide)
    rw [State.hbm_answer]
    dsimp only
    rw [mword_mputw]
    exact ⟨hclear, hrest, fun j hj => mread_mputw_outside _ _ hj⟩
  · refine ⟨_, execUnmapTensor_of hmay ha hfree, ?_, State.hbm_answer ..⟩
    rw [State.tensor_answer, State.tensor_setTensor]
    exact (setFld_bit_zero _ (by decide)).1
  · have h := execUnmapVa_of hmay hpage hwindow hrecorded hentry
    refine ⟨fun hwait => h.trans ?_, fun hnow => ⟨_, h.trans ?_, rfl⟩⟩
    · rw [if_pos hwait]
      rfl
    · rw [hnow, if_neg (by decide)]
      rfl
  · refine ⟨_, execLease_of hmay ha hlow hhigh hown, ?_⟩
    refine (State.tile_pending _ _ _ _ _ _ (·.trace.lease) fun _ _ _ _ _ => rfl).trans ?_
    rw [State.tile_modTile_self]

end Sys2Proof.Machine
end

section
/-! Stores at issue (R103, R342-R345): where each goes, and what one to a scratchpad leaves of registers and tiles. -/
namespace Sys2Proof.Machine
open Sys2Proof

/-! ## The bytes of a datum (R2) -/

theorem leBytes_eq_map (n v : Nat) : leBytes n v = (List.range n).map fun j => BitVec.ofNat 8 (v >>> (8 * j)) := by
  induction n generalizing v with
  | zero => rfl
  | succ n ih =>
    rw [leBytes, ih, List.range_succ_eq_map, List.map_cons, List.map_map]
    refine congrArg (_ :: ·) (List.map_congr_left fun j _ => congrArg (BitVec.ofNat 8) ?_)
    rw [Nat.mul_succ, Nat.add_comm, Nat.shiftRight_add, Nat.shiftRight_eq_div_pow v]

theorem leBytes_toNat (n : Nat) (v : Word) : leBytes n v.toNat = (List.range n).map fun j => v.extractLsb' (8 * j) 8 := leBytes_eq_map ..

theorem getD_leBytes_toNat {n j : Nat} (v : Word) (h : j < n) : (leBytes n v.toNat).getD j 0 = v.extractLsb' (8 * j) 8 := by
  rw [leBytes_toNat, List.getD_eq_getElem _ _ (by simpa using h), List.getElem_map, List.getElem_range]

/-! ## The registers of a party through the undo log's bookkeeping -/

theorem State.scal_modTile (s : State) (t : Nat) (w : Who) {g : Tile → Tile} (hg : ∀ x, (g x).sc = x.sc := by exact fun _ => rfl) :
    (s.modTile t g).scal w = s.scal w := by
  cases w with
  | stream u k =>
    rw [State.scal, State.scal, State.tile_modTile]
    split
    · rename_i h
      rw [h, hg]
    · rfl
  | thread n => rfl
  | engine n => rfl

theorem State.scal_dropOldest (s : State) (c : Nat) (w : Who) : (s.dropOldest c).scal w = s.scal w := by
  unfold State.dropOldest
  extract_lets old l gone s1 s2
  exact List.foldlRecOn (motive := fun u : State => u.scal w = s.scal w) _ _ rfl
    fun u hu r _ => (u.scal_modTile r.tile w).trans hu

theorem State.scal_dropUntil {s t : State} {c len n : Nat} (h : s.dropUntil c len n = some t) (w : Who) : t.scal w = s.scal w := by
  induction n generalizing s with
  | zero => exact nomatch h
  | succ n ih =>
    rw [State.dropUntil] at h
    split at h
    · cases h
      rfl
    · split at h
      · exact nomatch h
      · exact (ih h).trans (s.scal_dropOldest c w)

theorem State.scal_reserve {s t : State} {src tile c nw : Nat} {va : Word} (h : s.reserve src tile c nw va = .ok t) (w : Who) : t.scal w = s.scal w := by
  unfold State.reserve State.reserveLen at h
  obtain ⟨s2, hring, h2⟩ := Res.bind_eq_ok.1 h
  obtain ⟨s1, v, hs1, rfl⟩ := State.reserveRing_eq_ok hring
  have hscal : (s1.setCx c cUNDOUSE v).scal w = s.scal w := by
    obtain rfl | hdrop := hs1
    · rfl
    · exact State.scal_dropUntil hdrop w
  split at h2
  · cases h2
    exact hscal
  · split at h2
    · exact nomatch h2
    · cases h2
      exact (State.scal_modTile _ tile w).trans hscal

theorem State.scal_sign (s : State) (t k : Nat) (addr : Word) (new : List Byte) (w : Who) : (s.sign t k addr new).scal w = s.scal w := by
  unfold State.sign
  exact s.scal_modTile t w

theorem State.scal_record (s : State) (c : Nat) {r : UndoRec} (hr : r.inBuf = true) (new : List Byte) (w : Who) :
    (s.record c r new).scal w = s.scal w := by
  unfold State.record
  extract_lets s0 s1
  have h1 : s1 = s0 := if_pos hr
  rw [h1]
  split
  · split
    · exact s0.scal_sign r.tile _ r.addr new w
    · rfl
  · rfl

/-- Issue takes the scalar pipeline one step on (R228). -/
theorem State.scal_retire {s : State} (h : s.IsScalar) (bytes : Nat) : (s.retire bytes).scal s.cur = (s.scal s.cur).age := by
  unfold State.retire
  obtain ⟨t, h⟩ | ⟨n, h⟩ := h
  · rw [h]
    refine (State.scal_modTile _ t (.stream t 0)).trans ?_
    simp [State.scal, State.modScal, State.modStrm, Tile.setStream, Who.num]
  · rw [h]
    simp [State.scal, State.modScal, State.modStrm, Who.num]

/-! ## Operands -/

theorem State.src_of_full {s : State} {r : BitVec 6} (h : s.Full r) : s.src r = .ok (s.rs r) := State.src_eq_ok.2 ⟨h, rfl⟩

theorem State.acqHeld_of {s : State} (h : s.acquiring = false) : s.acqHeld = .ok () := State.acqHeld_eq_ok.2 h

/-- A granted request leaves the port; nothing else changes (R237). -/
theorem State.grant_eq_ok {s u : State} {t off n req : Nat} (h : s.grant t off n req = .ok u) :
    ∃ p, u = s.modTile t fun x => { x with asks := x.asks.filter p } := by
  unfold State.grant at h
  dsimp only at h
  split at h
  · split at h
    · exact ⟨_, (Res.ok.inj h).symm⟩
    · exact nomatch h
  · exact nomatch h

theorem Res.bind_ne_ok {α β : Type} {r : Res α} {k : α → Res β} {b : β} (h : ∀ a, k a ≠ .ok b) : r.bind k ≠ .ok b := fun e => by
  obtain ⟨a, -, ha⟩ := Res.bind_eq_ok.1 e
  exact h a ha

/-- Only a stream's address names a scratchpad (R102, R103). -/
theorem State.cur_of_locate_spad {s u : State} {w : Who} {ea : Word} {n t off : Nat} {cw store : Bool}
    (h : s.locate w ea n store = .ok (.spad t off cw, u)) : ∃ x k, w = .stream x k := by
  have hmem {c : Nat} {va va' : Word} {tx rx : Option (Nat × Nat)} :
      ((s.translate w c va store).bind fun r => .ok (Loc.hbm va' r.1 tx rx, r.2)) ≠ .ok (.spad t off cw, u) :=
    Res.bind_ne_ok fun _ h => nomatch (Prod.mk.inj (Res.ok.inj h)).1
  have hwindow {r : Res Unit} {x : Option (BitVec 128)} {k : BitVec 128 → Res (Loc × State)} (hk : ∀ e, k e ≠ .ok (.spad t off cw, u)) :
      (r.bind fun _ => match x with
        | none => .raise .windowUnmapped ea
        | some e => k e) ≠ .ok (.spad t off cw, u) := Res.bind_ne_ok fun _ => by
    split
    · exact nofun
    · exact hk _
  unfold State.locate at h
  dsimp only at h
  split at h
  · exact nomatch h
  split at h
  · exact absurd h (Res.bind_ne_ok fun _ => hmem)
  split at h
  · exact ⟨_, _, rfl⟩
  · exact ⟨_, _, rfl⟩
  · exact ⟨_, _, rfl⟩
  · exact ⟨_, _, rfl⟩
  · obtain ⟨_, -, h⟩ := Res.bind_eq_ok.1 h
    exact absurd h (hwindow fun _ => hmem)
  · exact absurd h (hwindow fun _ => hmem)
  · split at h
    · exact nomatch h
    split at h
    · exact nomatch h
    split at h <;> exact nomatch h
  · exact nomatch h
  · exact nomatch h

section
variable {s s2 s3 : State} {i : Instr} {ea v : Word} {n bytes : Nat}

/-- Each store instruction is the store that they share (R342-R345). -/
theorem exec_storesTo (h : storesTo s i ea n bytes v) (hacq : s.acquiring = false) : exec i s = (s.storeRes ea n v bytes).finish s := by
  obtain ⟨f, rfl, ha, hd, rfl, rfl, hi⟩ | ⟨f, rfl, ha, hd, rfl, rfl, ⟨t, k, hcur⟩, rfl, hslot⟩ | ⟨f, rfl, hx, hy, rfl, rfl, rfl, rfl⟩ := h
  · have hstore : s.storeInstr f n = s.storeRes (s.rs f.a + f.off.signExtend 64 * BitVec.ofNat 64 n) n (s.rs f.d) 4 := by
      rw [State.storeInstr, State.src_of_full ha, Res.ok_bind, State.src_of_full hd]
      rfl
    rw [← hstore]
    simp only [List.mem_cons, List.not_mem_nil, or_false, Prod.mk.injEq] at hi
    obtain ⟨rfl, rfl⟩ | ⟨rfl, rfl⟩ | ⟨rfl, rfl⟩ | ⟨rfl, rfl⟩ := hi <;> rfl
  · change execSpill f s = _
    rw [execSpill, State.onTile_eq_ok.2 ⟨k, hcur⟩, Res.ok_bind, State.src_of_full ha, Res.ok_bind, State.src_of_full hd, Res.ok_bind,
      State.acqHeld_of hacq, Res.ok_bind, hslot]
    rfl
  · change execStdC f s = _
    rw [execStdC, State.src_of_full hy, Res.ok_bind, State.src_of_full hx]
    rfl

/-! ## To a scratchpad -/

theorem State.storeRes_spad {t off : Nat} {cw : Bool} (hacq : s.acquiring = false) (hloc : s.locate s.cur ea n true = .ok (.spad t off cw, s))
    (hboard : (s.tile t).boardHit off n true = false) (hgrant : s.grant t off n (requester s.cur s.cur.undoTile t) = .ok s2)
    (hroom : s2.reserve s.cur.src s.cur.undoTile (s.ctxOf s.cur) 1 ea = .ok s3) :
    s.storeRes ea n v bytes = .ok ((s3.spadPut s.cur.src s.cur.undoTile (s.ctxOf s.cur) (s.winOf s.cur.src s.cur.undoTile (s.ctxOf s.cur)) t off
      (leBytes n v.toNat)).retire bytes) := by
  rw [State.storeRes, State.acqHeld_of hacq, Res.ok_bind, hloc, Res.ok_bind]
  dsimp only
  rw [State.boardClear, hboard, if_neg Bool.false_ne_true, Res.ok_bind, hgrant, Res.ok_bind, hroom]
  rfl

/-- What a store of a stream into a scratchpad leaves of the other tiles, the outstanding stores and the registers. -/
theorem State.spadPut_facts (s : State) {src : Nat} (hsrc : src < 5) (wtile c : Nat) (win : BitVec 32) (t off : Nat) (bs : List Byte) :
    ((s.spadPut src wtile c win t off bs).tile t).spad = mwrites (s.tile t).spad off bs ∧
    (∀ r, r ≠ t → ((s.spadPut src wtile c win t off bs).tile r).spad = (s.tile r).spad) ∧
    (s.spadPut src wtile c win t off bs).stores = s.stores ∧ (s.spadPut src wtile c win t off bs).cur = s.cur ∧
    ∀ w, (s.spadPut src wtile c win t off bs).scal w = s.scal w := by
  unfold State.spadPut
  extract_lets x r
  have hbuf : r.inBuf = true := decide_eq_true hsrc
  have hb := s.booked_record c hbuf bs
  have hspad (q : Nat) : ((s.record c r bs).tile q).spad = (s.tile q).spad := hb.tile q (·.spad) fun _ _ _ _ _ => rfl
  refine ⟨?_, fun q hq => ?_, hb.keeps (·.stores) fun _ _ _ _ => rfl, hb.keeps (·.cur) fun _ _ _ _ => rfl, fun w => ?_⟩
  · rw [State.tile_modTile_self, ← hspad t]
  · rw [State.tile_modTile_ne _ _ hq, hspad]
  · exact (State.scal_modTile _ t w).trans (s.scal_record c hbuf bs w)

end

theorem scratchpadStores : ScratchpadStores := by
  intro s i ea v n bytes t off cw s2 s3 hstore hacq hscalar hloc hboard hgrant hroom
  obtain ⟨p, rfl⟩ := State.grant_eq_ok hgrant
  obtain ⟨x, k, hcur⟩ := State.cur_of_locate_spad hloc
  have hsrc : s.cur.src < 5 := by
    obtain ⟨y, h⟩ | ⟨m, h⟩ := hscalar
    · rw [h]
      exact Nat.zero_lt_succ _
    · exact nomatch hcur.symm.trans h
  have hb := State.booked_reserve hroom
  have hspad (r : Nat) : (s3.tile r).spad = (s.tile r).spad := by
    refine (hb.tile r (·.spad) fun _ _ _ _ _ => rfl).trans ?_
    rw [State.tile_modTile]
    split
    · rename_i h
      rw [h]
    · rfl
  obtain ⟨hself, hother, hstores, hput, hscal⟩ :=
    s3.spadPut_facts hsrc s.cur.undoTile (s.ctxOf s.cur) (s.winOf s.cur.src s.cur.undoTile (s.ctxOf s.cur)) t off (leBytes n v.toNat)
  have hrun := exec_storesTo hstore hacq
  rw [State.storeRes_spad hacq hloc hboard hgrant hroom, Res.finish_ok] at hrun
  generalize s3.spadPut s.cur.src s.cur.undoTile (s.ctxOf s.cur) (s.winOf s.cur.src s.cur.undoTile (s.ctxOf s.cur)) t off (leBytes n v.toNat) = u at *
  have hretire := u.booked_retire bytes
  have hu : u.cur = s.cur := hput.trans (hb.keeps (·.cur) fun _ _ _ _ => rfl)
  have hspad' (r : Nat) : ((u.retire bytes).tile r).spad = (u.tile r).spad := hretire.tile r (·.spad) fun _ _ _ _ _ => rfl
  refine ⟨_, hrun, fun j hj => ?_, fun j hj => ?_, fun r hr => ?_, ?_, ?_⟩
  · rw [hspad', hself, mread_mwrites_inside _ _ _ (by rwa [leBytes_length]), getD_leBytes_toNat v hj]
  · rw [hspad', hself, mread_mwrites_outside _ _ _ _ (by rwa [leBytes_length]), hspad]
  · rw [hspad', hother r hr, hspad]
  · rw [State.retire_stores, hstores]
    exact hb.keeps (·.stores) fun _ _ _ _ => rfl
  · have hage := State.scal_retire (s := u) (by rwa [State.IsScalar, hu]) bytes
    rw [hu, hscal, State.scal_reserve hroom, State.scal_modTile _ t] at hage
    exact hage

/-! ## To HBM and to a register block -/

theorem hbmStoresIssue : HbmStoresIssue := by
  intro s i ea v n bytes va pa tx rx s2 s3 hstore hacq hloc hroom hreserve
  have hfree : ¬ (s.cur.tile?.isSome && decide (128 ≤ s.writesOut s.cur)) = true := by
    rw [Bool.and_eq_true, decide_eq_true_iff]
    rintro ⟨hstream, hfull⟩
    exact absurd (hroom hstream) (Nat.not_lt.2 hfull)
  have hrun : s.storeRes ea n v bytes = .ok ((s3.storeOut s.cur va pa (leBytes n v.toNat) none (tx.map fun x => s.reflectTo x.1 x.2 none)).retire bytes) := by
    rw [State.storeRes, State.acqHeld_of hacq, Res.ok_bind, hloc, Res.ok_bind]
    dsimp only
    rw [if_neg hfree, hreserve]
    rfl
  refine ⟨_, _, (exec_storesTo hstore hacq).trans (congrArg (Res.finish · s) hrun), State.retire_hbm .., State.retire_stores .., rfl, rfl, rfl, rfl,
    _, rfl, rfl, leBytes_length .., leBytes_toNat ..⟩

theorem registerStores : RegisterStores := by
  intro s i ea v bytes off s2 hstore hacq hloc
  rw [exec_storesTo hstore hacq, State.storeRes, State.acqHeld_of hacq, Res.ok_bind, hloc]
  rfl

/-- Settles O42: each store instruction is one shared store, by where its address lies. -/
theorem storesIssue : Obligations.StoresIssue := ⟨scratchpadStores, hbmStoresIssue, registerStores⟩

end Sys2Proof.Machine
end

section
/-! Copies (R118-R120, R202, R372-R374): how a copy joins its engine, its pieces, and how it goes on and retires. -/
namespace Sys2Proof.Machine
open Sys2Proof

/-! ## Issue (R372) -/

/-- The copy that a copy instruction of a tile queues. -/
def State.issuedCopy (s : State) (f : CmdE) (t : Nat) (d : BitVec 1024) (ents : List (Nat × Nat)) (after : Nat) : Copy :=
  { desc := d, tile := some t, ctx := s.ctxOfTile t, serial := ((s.tile t).task.map Task.serial).getD 0,
    sgf := if f.imm.getLsbD 3 then some (f.imm.toNat / 16 % 64) else none, dcv := none, entry := 0, act := 0, idx := [], piece := 0, parked := none,
    fault := 0, failed := none, board := ents, lifted := [], srcT := s.cpSrc (s.ctxOfTile t) d, dstT := s.cpDst (s.ctxOfTile t) d, beats := none,
    full := false, win := (s.tile t).win, stopping := false, after := after }

/-- A copy joins its engine's queue and takes the next identity; its instruction has issued. -/
def State.queueCopy (s : State) (t eng : Nat) (c : Copy) : State :=
  (State.modTile { s with copies := tmod [] s.copies eng (· ++ [c]), nextId := s.nextId + 1 } t fun x => { x with boardSince := none }).retire 8

/-- A copy instruction of a tile from its descriptor on: s as it was at issue, s1 once the descriptor has been read. -/
def State.checkCopy (s s1 : State) (f : CmdE) (t : Nat) (d : BitVec 1024) (sub : Nat) : Res State :=
  let eng := 8 * dieOf t + f.imm.toNat % 8
  (Res.check (cpOp d == sub) .rsvField).bind fun _ => (s1.cpCheck (s.ctxOfTile t) (some t) d).bind fun _ =>
    if s.cpPublishing (s.ctxOfTile t) d then .stall .publish s
    else if 32 ≤ (s.engine eng).length then .stall .engineFull s
    else match s1.takeBoard (s1.cpRanges (s.ctxOfTile t) (some t) d eng) with
      | none => .stall .scoreboard (s.modTile t fun x => { x with boardSince := some (x.boardSince.getD s.ccc) })
      | some (ents, s2) => .ok (s2.queueCopy t eng (s.issuedCopy f t d ents s2.nextId))

theorem State.checkCopy_queued {s s1 s2 : State} {t : Nat} {f : CmdE} {d : BitVec 1024} {ents : List (Nat × Nat)} {sub : Nat} (hsub : d.toNat % 4 = sub)
    (hcheck : s1.cpCheck (s.ctxOfTile t) (some t) d = .ok ()) (hpubs : s.pubs = []) (hroom : (s.engine (8 * dieOf t + f.imm.toNat % 8)).length < 32)
    (hboard : s1.takeBoard (s1.cpRanges (s.ctxOfTile t) (some t) d (8 * dieOf t + f.imm.toNat % 8)) = some (ents, s2)) :
    s.checkCopy s1 f t d sub = .ok (s2.queueCopy t (8 * dieOf t + f.imm.toNat % 8) (s.issuedCopy f t d ents s2.nextId)) := by
  have hop : cpOp d = sub := (fld_eq_div_mod ..).trans (by simpa using hsub)
  have hquiet : s.cpPublishing (s.ctxOfTile t) d = false := by
    rw [State.cpPublishing, hpubs]
    rfl
  rw [State.checkCopy, hop, beq_self_eq_true, Res.check_true, Res.ok_bind, hcheck, Res.ok_bind, hquiet, if_neg Bool.false_ne_true,
    if_neg (Nat.not_le.2 hroom), hboard]

section
variable {s : State} {t : Nat} {f : CmdE} (hcur : s.cur = .stream t 1)
include hcur

/-- The descriptor of a copy instruction that its predicate does not skip is read where no scratchpad holds it. -/
theorem State.copyRes_eq_checkCopy {s1 : State} {a : Word} {l : List (Loc × Nat)} (hflag : f.imm.getLsbD 3 = true ∨ f.imm.toNat / 16 % 64 = 0)
    (hact : (s.tile t).suppressed f.pv f.pn f.pk = false) (ha : s.areg t f.a = .ok a) (hop : s.operand (.stream t 1) a 128 false 64 = .ok (l, s1))
    (hspad : spadOf l = none) (hlines : s.rstReady t (l.map fun p => p.1.source p.2) = .ok ())
    (hready : ∀ p ∈ l.map (fun p => p.1.source p.2), p.line? = none → s.srcReady (.stream t 1) s.nextId p = true) (sub : Nat) :
    s.copyRes f sub = s.checkCopy s1 f t (BitVec.ofNat 1024 (leNat ((l.map fun p => p.1.source p.2).flatMap s1.sourceBytes))) sub := by
  have heng : fld f.imm 0 3 = f.imm.toNat % 8 := (fld_eq_div_mod ..).trans (by simp)
  have hsgf : fld f.imm 4 6 = f.imm.toNat / 16 % 64 := fld_eq_div_mod ..
  have hform : (bit f.imm 3 || fld f.imm 4 6 == 0) = true := by
    rw [Bool.or_eq_true, beq_iff_eq, hsgf]
    exact hflag
  have hwaits : ¬ ((l.map fun p => p.1.source p.2).any fun x => x.line?.isNone && !s.srcReady (.stream t 1) s.nextId x) = true := by
    rw [List.any_eq_true]
    rintro ⟨p, hp, hwait⟩
    rw [Bool.and_eq_true, Option.isNone_iff_eq_none] at hwait
    rw [hready p hp hwait.1] at hwait
    exact Bool.false_ne_true hwait.2
  rw [State.copyRes, State.onTile_eq_ok.2 ⟨1, hcur⟩, Res.ok_bind]
  dsimp only
  rw [hform, Res.check_true, Res.ok_bind, hact, if_neg Bool.false_ne_true, ha, Res.ok_bind, hop, Res.ok_bind]
  dsimp only
  rw [hlines, Res.ok_bind, if_neg hwaits, hspad, Res.ok_bind, heng, hsgf]
  rfl

/-- A copy instruction that its predicate skips, and that names no flag. -/
theorem State.copyRes_suppressed (hskip : (s.tile t).suppressed f.pv f.pn f.pk = true) (hno : f.imm.getLsbD 3 = false) (hzero : f.imm.toNat / 16 % 64 = 0)
    (sub : Nat) : s.copyRes f sub = .ok (s.retire 8) := by
  have hsgf : fld f.imm 4 6 = 0 := (fld_eq_div_mod ..).trans hzero
  rw [State.copyRes, State.onTile_eq_ok.2 ⟨1, hcur⟩, Res.ok_bind]
  dsimp only
  rw [bit, hno, hsgf, hskip]
  rfl

end

theorem copiesIssue : CopiesIssue := by
  refine ⟨?_, fun s t f hcur hskip hno hzero i hi => ?_⟩
  · intro s s1 s2 t f a l ents hcur hflag hact ha hop hspad hlines hready d eng hcheck hpubs hroom hboard e he hsub
    have hrun := (State.copyRes_eq_checkCopy hcur hflag hact ha hop hspad hlines hready e.2).trans
      (State.checkCopy_queued hsub hcheck hpubs hroom hboard)
    have hexec : exec e.1 s = (s.copyRes f e.2).finish s := by
      simp only [List.mem_cons, List.not_mem_nil, or_false] at he
      obtain rfl | rfl | rfl | rfl := he <;> rfl
    refine ⟨_, s.issuedCopy f t d ents s2.nextId, hexec.trans (congrArg (Res.finish · s) hrun), ?_, rfl, rfl, rfl, rfl, rfl, State.retire_hbm ..⟩
    rw [State.queueCopy, State.retire_copies, State.modTile_copies, tget_tmod, if_pos rfl]
  · have hskipped := State.copyRes_suppressed hcur hskip hno hzero
    have hexec : ∃ sub, exec i s = (s.copyRes f sub).finish s := by
      simp only [List.mem_cons, List.not_mem_nil, or_false] at hi
      obtain rfl | rfl | rfl | rfl := hi <;> exact ⟨_, rfl⟩
    obtain ⟨sub, h⟩ := hexec
    rw [h, hskipped]
    rfl

/-! ## A range of context memory is written (R273) -/

theorem Seg.bytes_whole {g : Seg} (hlow : g.keepLow = false) (hhigh : g.keepHigh = false) (m : Mem) : g.bytes m = g.data := by
  rw [Seg.bytes, hlow, hhigh]
  rfl

/-- Whole bytes enter HBM, behind their record. -/
theorem State.segPut_hbm (s : State) (src tile c : Nat) (win : BitVec 32) (atom : Bool) {g : Seg} (hkind : g.akind = 1) (hlow : g.keepLow = false)
    (hhigh : g.keepHigh = false) : ∃ s1, s.Logged s1 ∧ s.segPut src tile c win atom true g = { s1 with hbm := mwrites s1.hbm g.pa g.data } := by
  unfold State.segPut
  extract_lets t m bs r s1
  have hbs : bs = g.data := Seg.bytes_whole hlow hhigh m
  refine ⟨s1, s.logged_record c r bs, ?_⟩
  rw [if_neg (by rw [hkind]; decide), hbs]

/-! ## The events of one copy alone in its engine -/

section
variable {s : State} {eng : Nat} {c : Copy} (hone : tget [] s.copies eng = [c])
include hone

theorem State.engine_head : (s.engine eng)[0]? = some c := congrArg (·[0]?) hone

theorem State.copies_setCopy_head (x : Copy) : tget [] (s.setCopy eng 0 x).copies eng = [x] := by
  rw [State.setCopy, tget_tmod, if_pos rfl, hone]
  rfl

/-- A piece that has not begun does so with its beats (R202, R373). -/
theorem execCopyPiece_begins (hruns : s.copyRuns eng 0 c = true) (hplain : cpIndexed c.desc = false) {segs : List Seg} (hsegs : s.pieceSegs c = .ok segs)
    (hbeats : c.beats = none) : execCopyPiece eng 0 s = .next (s.setCopy eng 0 { c with
      fault := 0, beats := some (beatsOf ((c.elems.length * c.bits + 511) / 512) (s.pieceReads c) (segLines segs)) }) := by
  rw [execCopyPiece, State.engine_head hone]
  dsimp only
  rw [hruns, hplain, hsegs, hbeats]
  rfl

/-- A piece of a Ferry action's copy whose beats are over, and that is one range of HBM (R373). -/
theorem execCopyPiece_writes {g : Seg} {s1 : State} (hruns : s.copyRuns eng 0 c = true) (hplain : cpIndexed c.desc = false)
    (hsegs : s.pieceSegs c = .ok [g]) (hbeats : c.beats = some []) (hshadow : cpDsh c.desc = false) (htile : c.tile = none)
    (hroom : s.reserveRing 6 c.ctx (segsBytes [g]) 0 = .ok s1) :
    execCopyPiece eng 0 s = .next ((s1.segPut 6 0 c.ctx (s1.winOf 6 0 c.ctx) false true g).setCopy eng 0
      { c with fault := 0, piece := c.piece + 1, beats := none, full := false }) := by
  have hsrc : c.src = 6 := by
    rw [Copy.src, htile]
    rfl
  rw [execCopyPiece, State.engine_head hone]
  dsimp only
  rw [hruns, hplain, hsegs, hbeats, Bool.not_true, if_neg Bool.false_ne_true, Bool.false_and, if_neg Bool.false_ne_true]
  dsimp only
  rw [hshadow, if_neg Bool.false_ne_true, hsrc, hroom, htile]
  rfl

theorem execCopyResume_of (hparked : c.parked ≠ none) (hplain : cpIndexed c.desc = false) {segs : List Seg} (hsegs : s.pieceSegs c = .ok segs) :
    execCopyResume eng 0 s = .next (s.setCopy eng 0 { c with parked := none, fault := 0 }) := by
  have hnot : ¬ c.parked.isNone = true := fun h => hparked (Option.isNone_iff_eq_none.1 h)
  rw [execCopyResume, State.engine_head hone]
  dsimp only
  rw [if_neg hnot, hplain, hsegs]
  rfl

/-- A tile's copy that signals no flag leaves, and its scoreboard entry is free (R119, R373). -/
theorem execCopyRetire_of {t i : Nat} (hdone : c.done = true) (htile : c.tile = some t) (hflag : c.sgf = none) (hboard : c.board = [(t, i)]) :
    execCopyRetire eng 0 s = .next (({ s with copies := tmod [] s.copies eng fun l => l.eraseIdx 0 } : State).modTile t
      fun x => { x with board := tput 0 x.board i 0 }) := by
  rw [execCopyRetire, State.engine_head hone]
  dsimp only
  rw [hdone, htile, hflag, hboard]
  rfl

/-- The fault's signal to the pager is answered. -/
def State.servedFault (s : State) (eng : Nat) (c : Copy) : State :=
  { s with faultSigs := s.faultSigs.filter fun x => !(x.engine == eng && x.copy == c.after) }

theorem execPageIn_none {entry : Word} (hparked : c.parked = some (true, entry)) : execPageIn eng 0 none s =
    .next ((s.servedFault eng c).setCopy eng 0 { c with parked := none, fault := 0, failed := some .copyPageFault }) := by
  rw [execPageIn, State.engine_head hone]
  dsimp only
  rw [hparked]
  rfl

theorem execPageIn_some {entry : Word} {fr : BitVec 36} (hparked : c.parked = some (true, entry)) (hframe : fr.toNat * 65536 < 2 ^ 39)
    (hentry : entry.toNat < 2 ^ 39) : execPageIn eng 0 (some fr) s = .next { s.servedFault eng c with
      hbm := mputw s.hbm entry.toNat (setFld (setFld (mword s.hbm entry.toNat) 0 1 1) 16 36 fr.toNat) } := by
  have hin : (decide (hbmEnd ≤ fr.toNat * 65536) || decide (hbmEnd ≤ entry.toNat)) = false := by
    rw [hbmEnd, decide_eq_false (Nat.not_le.2 hframe), decide_eq_false (Nat.not_le.2 hentry)]
    rfl
  rw [execPageIn, State.engine_head hone]
  dsimp only
  rw [hparked]
  dsimp only
  rw [hin]
  rfl

end

/-- An entry that is present in a frame keeps the bits below its frame but for P. -/
theorem presentEntry_fields (e : Word) (fr : BitVec 36) : let x := setFld (setFld e 0 1 1) 16 36 fr.toNat
    bit x 0 = true ∧ fld x 16 36 = fr.toNat ∧ fld x 1 15 = fld e 1 15 := by
  refine ⟨?_, ?_, ?_⟩
  · rw [bit_setFld_disjoint _ _ (.inr (by decide)), bit_setFld _ _ (by decide)]
    rfl
  · rw [fld_setFld _ _ (by decide), Nat.mod_eq_of_lt fr.isLt]
  · rw [fld_setFld_disjoint _ _ (.inr (by decide)), fld_setFld_disjoint _ _ (.inl (by decide))]

/-! ## A stream that raises a cause (R246-R250) -/

theorem State.tiles_spanWrite (s : State) (c : Nat) (m : Mem) (fuel va off len : Nat) : (s.spanWrite c m fuel va off len).tiles = s.tiles := by
  induction fuel generalizing s va off len with
  | zero => rfl
  | succ fuel ih =>
    rw [State.spanWrite]
    split
    · rfl
    · refine (ih ..).trans ?_
      split <;> rfl

theorem State.boardSince_modTile (s : State) (t n : Nat) {g : Tile → Tile} (hg : ∀ x, (g x).boardSince = x.boardSince := by exact fun _ => rfl) :
    ((s.modTile t g).tile n).boardSince = (s.tile n).boardSince := by
  rw [State.tile_modTile]
  split
  · rename_i h
    rw [h, hg]
  · rfl

theorem State.boardSince_writeFrame (s : State) (t k : Nat) (fatal : Bool) (n : Nat) :
    ((s.writeFrame (.stream t k) fatal).tile n).boardSince = (s.tile n).boardSince := by
  unfold State.writeFrame
  split
  · rfl
  extract_lets ctx replay extra s1 ents s2 s3 s4 s5
  have h1 : (s1.tile n).boardSince = (s.tile n).boardSince := by
    dsimp only [s1]
    split
    · exact (s.booked_modScal ..).tile n (·.boardSince) fun _ _ _ _ _ => rfl
    · rfl
  have h2 : (s2.tile n).boardSince = (s1.tile n).boardSince := s1.physWrite_keeps _ _ _ (fun u => (u.tile n).boardSince) fun _ => rfl
  have h3 : (s3.tile n).boardSince = (s2.tile n).boardSince := by
    refine (State.boardSince_modTile _ t n).trans ?_
    unfold State.tile
    rw [State.tiles_spanWrite]
  have h4 : (s4.tile n).boardSince = (s3.tile n).boardSince := by
    dsimp only [s4]
    split
    · exact (s3.booked_modScal ..).tile n (·.boardSince) fun _ _ _ _ _ => rfl
    · rfl
  have h5 : (s5.tile n).boardSince = (s4.tile n).boardSince :=
    (s4.booked_modStrm ..).tile n (·.boardSince) fun _ _ _ _ _ => rfl
  exact h5.trans (h4.trans (h3.trans (h2.trans h1)))

theorem State.stop_writeFrame {s : State} {t k : Nat} {p : Stopped} (h : (s.strm (.stream t k)).stop = some p) (fatal : Bool) :
    ((s.writeFrame (.stream t k) fatal).strm (.stream t k)).stop = some { p with framed := true } := by
  unfold State.writeFrame
  split
  · rename_i hn
    exact nomatch h.symm.trans hn
  · rename_i q hq
    obtain rfl : p = q := Option.some.inj (h.symm.trans hq)
    extract_lets ctx replay extra s1 ents s2 s3 s4 s5
    exact congrArg Stream.stop (s4.strm_modStrm_self t k fun st => { st with stop := some { p with framed := true }, counted := false })

/-- A stopped stream keeps its cause when its frame is written. -/
theorem State.frameIfQuiet_facts {s : State} {t k : Nat} {p : Stopped} (h : (s.strm (.stream t k)).stop = some p) :
    (∃ q, ((s.frameIfQuiet t k).strm (.stream t k)).stop = some q ∧ q.cause = p.cause) ∧
      ((s.frameIfQuiet t k).tile t).boardSince = (s.tile t).boardSince := by
  have hframe : (∃ q, ((s.writeFrame (.stream t k) false).strm (.stream t k)).stop = some q ∧ q.cause = p.cause) ∧
      ((s.writeFrame (.stream t k) false).tile t).boardSince = (s.tile t).boardSince :=
    ⟨⟨_, State.stop_writeFrame h false, rfl⟩, s.boardSince_writeFrame t k false t⟩
  unfold State.frameIfQuiet
  dsimp only
  rw [h]
  dsimp only
  split
  · exact ⟨⟨p, h, rfl⟩, rfl⟩
  · split
    · exact hframe
    · exact hframe

theorem State.raiseStream_facts (s : State) (t k : Nat) (c : Cause) (info : Word) :
    (∃ p, ((s.raiseStream t k c info).strm (.stream t k)).stop = some p ∧ p.cause = c) ∧
      ((s.raiseStream t k c info).tile t).boardSince = (s.tile t).boardSince := by
  unfold State.raiseStream
  extract_lets ctx resumes detail s1 stop s2
  have h1 : (s1.tile t).boardSince = (s.tile t).boardSince := by
    dsimp only [s1]
    split
    · exact (s.reported_report ..).keeps (fun u => (u.tile t).boardSince) fun _ _ _ => rfl
    · rfl
  have hboard : (s2.tile t).boardSince = (s.tile t).boardSince := (s1.boardSince_modTile t t).trans h1
  have hstop : (s2.strm (.stream t k)).stop = some stop := congrArg Stream.stop (s1.strm_modStrm_self ..)
  have hmod {g : Tile → Tile} (hg : ∀ x, (g x).streams = x.streams) (hb : ∀ x, (g x).boardSince = x.boardSince) :
      ((s2.modTile t g).strm (.stream t k)).stop = some stop ∧ ((s2.modTile t g).tile t).boardSince = (s.tile t).boardSince :=
    ⟨(congrArg Stream.stop (s2.strm_modTile t k hg)).trans hstop, (s2.boardSince_modTile t t hb).trans hboard⟩
  split
  · obtain ⟨h, hb⟩ := hmod (g := fun x => { x with held := true }) (fun _ => rfl) fun _ => rfl
    obtain ⟨hcause, hkeep⟩ := State.frameIfQuiet_facts h
    exact ⟨hcause, hkeep.trans hb⟩
  · obtain ⟨h, hb⟩ := hmod (g := fun x => { x with task := x.task.map fun q => { q with fatal := some (q.fatal.getD c) } }) (fun _ => rfl) fun _ => rfl
    exact ⟨⟨stop, h, rfl⟩, hb⟩

/-- The wait for the scoreboard is over with a cause (R120). -/
theorem exec_scoreboardStallExpiry {s : State} {t : Nat} {since : Word} (hsince : (s.tile t).boardSince = some since)
    (htime : 2 ^ 20 ≤ (s.ccc - since).toNat) (hgoes : (s.strm (.stream t 1)).stop = none) :
    ∃ u p, exec (.scoreboardStallExpiry t) s = .next u ∧ (u.strm (.stream t 1)).stop = some p ∧ p.cause = .scoreboardFull ∧
      (u.tile t).boardSince = none := by
  let s1 : State := { s.modTile t (fun x => { x with boardSince := none }) with curInsn := ((s.tile t).stream 1).bodyWord }
  have hnone : (s1.tile t).boardSince = none := congrArg Tile.boardSince (s.tile_modTile_self t fun x => { x with boardSince := none })
  obtain ⟨⟨p, hstop, hcause⟩, hboard⟩ := s1.raiseStream_facts t 1 .scoreboardFull 0
  refine ⟨s1.raiseStream t 1 .scoreboardFull 0, p, ?_, hstop, hcause, hboard.trans hnone⟩
  have hnow : (decide (2 ^ 20 ≤ (s.ccc - since).toNat) && ((s.tile t).stream 1).stop.isNone) = true := by
    rw [decide_eq_true htime, show ((s.tile t).stream 1).stop = none from hgoes]
    rfl
  change execScoreboardStallExpiry t s = _
  rw [execScoreboardStallExpiry, hsince]
  exact if_pos hnow

/-! ## The obligation -/

theorem copiesProceed : CopiesProceed := by
  refine ⟨fun s eng c g hone hruns hplain hsegs => ⟨fun hbeats => ?_, fun s1 hbeats hshadow htile hkind hlow hhigh hroom => ?_⟩,
    fun s eng c segs hone hparked hplain hsegs => ?_, fun s eng c t i hone hdone htile hflag hboard => ?_,
    fun s t since k hsince htime hgoes _ => exec_scoreboardStallExpiry hsince htime hgoes,
    fun s eng c entry fr hone hparked hframe hentry => ⟨?_, ?_⟩⟩
  · exact ⟨_, _, execCopyPiece_begins hone hruns hplain hsegs hbeats, State.copies_setCopy_head hone _, rfl⟩
  · obtain ⟨s2, hlogged, hput⟩ := s1.segPut_hbm 6 0 c.ctx (s1.winOf 6 0 c.ctx) false hkind hlow hhigh
    have hrun := execCopyPiece_writes hone hruns hplain hsegs hbeats hshadow htile hroom
    rw [hput] at hrun
    have hkept : tget [] s2.copies eng = [c] :=
      (congrArg (tget [] · eng) ((hlogged.keeps (·.copies) fun _ _ _ => rfl).trans
        ((State.delivered_reserveRing hroom).keeps (·.copies) fun _ _ _ _ _ => rfl))).trans hone
    exact ⟨_, hrun, State.copies_setCopy_head (s := { s2 with hbm := mwrites s2.hbm g.pa g.data }) hkept _, fun j hj => mread_mwrites_inside _ _ _ hj⟩
  · exact ⟨_, execCopyResume_of hone hparked hplain hsegs, State.copies_setCopy_head hone _, rfl⟩
  · refine ⟨_, execCopyRetire_of hone hdone htile hflag hboard, ?_, ?_, rfl⟩
    · rw [State.modTile_copies, tget_tmod, if_pos rfl, hone]
      rfl
    · rw [State.tile_modTile_self, tget_tput_self]
  · refine ⟨_, execPageIn_some hone hparked hframe hentry, ?_, fun j hj => mread_mputw_outside _ _ hj⟩
    dsimp only
    rw [mword_mputw]
    exact presentEntry_fields _ fr
  · exact ⟨_, _, execPageIn_none hone hparked, State.copies_setCopy_head (s := s.servedFault eng c) hone _, rfl⟩

/-- Settles O56: copies at issue, and the events of their engines. -/
theorem copies : Obligations.Copies := ⟨copiesIssue, copiesProceed⟩

end Sys2Proof.Machine
end

section
/-! The stores that are performed (R127, R136, R273). -/
namespace Sys2Proof.Machine
open Sys2Proof

/-! ## Records that stay in their tile's buffer (R273, R274) -/

/-- Such a record ends its context's log. -/
theorem State.recs_record (s : State) (c : Nat) {r : UndoRec} (hr : r.inBuf = true) (new : List Byte) :
    (CtxLog.of (s.record c r new) c).recs = (CtxLog.of s c).recs ++ [r] := by
  have h0 : (CtxLog.of (s.modLog c fun l => { l with recs := l.recs ++ [r] }) c).recs = (CtxLog.of s c).recs ++ [r] := by
    rw [CtxLog.of_modLog, if_pos rfl]
  unfold State.record
  extract_lets s0 s1
  have h1 : s1 = s0 := if_pos hr
  rw [h1]
  split
  · split <;> exact h0
  · exact h0

/-- A whole range of HBM that a tile's party writes: its record, and its bytes there. -/
theorem State.segPut_logs (s : State) {src : Nat} (hsrc : src < 5) (tile c : Nat) (win : BitVec 32) (atom : Bool) {g : Seg} (hkind : g.akind = 1)
    (hlow : g.keepLow = false) (hhigh : g.keepHigh = false) : ∃ r : UndoRec, r.old = oldWords s.hbm g.pa g.data.length ∧ r.win = win ∧
      (s.segPut src tile c win atom true g).hbm = mwrites s.hbm g.pa g.data ∧
      (CtxLog.of (s.segPut src tile c win atom true g) c).recs = (CtxLog.of s c).recs ++ [r] := by
  have hnot : ¬ g.akind = 0 := by rw [hkind]; decide
  unfold State.segPut
  extract_lets t m bs r s1
  have hbs : bs = g.data := Seg.bytes_whole hlow hhigh m
  have hm : m = s.hbm := if_neg hnot
  have hbuf : r.inBuf = true := decide_eq_true hsrc
  have hhbm : s1.hbm = s.hbm := (s.booked_record c hbuf bs).keeps (·.hbm) fun _ _ _ _ => rfl
  rw [if_neg hnot]
  exact ⟨r, by rw [← hm, ← hbs], rfl, by rw [← hhbm, ← hbs], s.recs_record c hbuf bs⟩

/-! ## One store alone (R136) -/

section
variable {s : State} {e : Store} (hone : s.stores = [e])
include hone

theorem State.storeBefore_of_one : s.storeBefore e = false := by
  rw [State.storeBefore, hone, List.any_cons, decide_eq_false (Nat.lt_irrefl _)]
  rfl

/-- It is performed at once when nothing of its party goes first and its bytes are there. -/
theorem exec_storePerformed_one (hplain : e.atom = false) (hloads : s.loadBefore e = false) (hready : s.sourcesReady e = true) :
    ∃ l, exec (.storePerformed e.order) s = .next { s.performStore e with stores := [], hbmLast := l } := by
  have hfind : s.stores.find? (fun d => d.order == e.order) = some e := by
    rw [hone]
    exact List.find?_cons_of_pos (beq_self_eq_true _)
  have hgone : s.stores.filter (fun d => d.order != e.order) = [] := by
    rw [hone]
    exact List.filter_cons_of_neg (by rw [bne_self_eq_false]; exact Bool.false_ne_true)
  change ∃ l, execStorePerformed e.order s = _
  rw [execStorePerformed, hfind]
  dsimp only
  rw [State.storeBefore_of_one hone, hloads, hready, if_neg (by decide), hplain, hgone]
  exact ⟨_, rfl⟩

end

theorem State.sourcesReady_of_nil {s : State} {e : Store} (h : e.sources = []) : s.sourcesReady e = true := by
  rw [State.sourcesReady, h]
  split <;> rfl

/-- An unreflected store of one range whose bytes it carries. -/
theorem State.performStore_one {s : State} {e : Store} {g : Seg} (hseg : e.segs = [g]) (hsrc : g.src = []) (hplain : e.refl = none) :
    s.performStore e = s.segPut e.src ((e.who.map Who.undoTile).getD 0) e.ctx e.win e.atom true g := by
  rw [State.performStore, hplain]
  dsimp only
  rw [State.performSegs, hseg, List.foldl_cons, hsrc]
  rfl

/-- Settles O6: the store is performed alone, and its one range is written behind its record. -/
theorem storePerformedWrites : Obligations.StorePerformedWrites := by
  intro s e g hone hseg hsrc hkind hlow hhigh hlen hadds hplain hatom hparty hloads
  have hnone : e.sources = [] := by rw [Store.sources, hseg, hadds, List.flatMap_singleton, hsrc]; rfl
  obtain ⟨l, hrun⟩ := exec_storePerformed_one hone hatom hloads (State.sourcesReady_of_nil hnone)
  rw [State.performStore_one hseg hsrc hplain] at hrun
  obtain ⟨r, hold, hwin, hhbm, hrecs⟩ :=
    s.segPut_logs hparty ((e.who.map Who.undoTile).getD 0) e.ctx e.win e.atom hkind hlow hhigh
  rw [hlen] at hold
  refine ⟨_, r, hrun, rfl, fun j hj => ?_, fun j hj => ?_, hrecs, hold, hwin⟩
  · dsimp only
    rw [hhbm, mread_mwrites_inside _ _ _ (hlen ▸ hj)]
  · dsimp only
    rw [hhbm, mread_mwrites_outside _ _ _ _ (hlen ▸ hj)]

end Sys2Proof.Machine
end

section
/-! A remote accumulation that is performed while its tile's undo buffer is overfull (R274, R378). -/
namespace Sys2Proof.Machine
open Sys2Proof

/-- The record of a window that opened on tile 0 (R276), still in its buffer. -/
def bufferedRecord : UndoRec :=
  { rtype := 3, akind := 0, atom := false, tile := 0, src := 0, win := 0, addr := 0, old := [], inBuf := true }

/-- Its destination: window 0 of chip 0. -/
def ownWindow : Reflect := { win := 0, off := 0, tok := none, slots := [(0, 0, 0)], rop := some 0 }

/-- A remote accumulation of the access stream of tile 0 to the own chip 0, of one byte. -/
def ownAccumulate : Store :=
  { who := some (.stream 0 1), run := 0, src := 1, ctx := 0, segs := [], op := none, atom := false, win := 0, tensor := none,
    refl := some ownWindow, adds := [.data [1]], firing := none, list := none, moved := [], order := 0 }

/-- It is outstanding while the tile's buffer is over its 65536 bytes, and context 0's ring lies in the first page of HBM. -/
def overfullBuffer : State :=
  { State.reset with stores := [ownAccumulate], saveFrames := [(0, 0, 0)], logs := [(0, { CtxLog.idle with recs := [bufferedRecord] })],
                     tiles := [(0, { Tile.idle with undoBuf := 65544 })] }

theorem overfullBuffer_spills : mread (overfullBuffer.performStore ownAccumulate).hbm 0 = 3 := by decide +kernel

/-- Refutes O10: performing a remote accumulation makes room in its tile's undo buffer for its HORIZON records (R274, R277), none for the own
chip. Over a full buffer a block of older records then moves to the ring, and so HBM changes: here the record's first byte, at address 0. -/
theorem not_reflectedStores : ¬ Obligations.ReflectedStores := by
  rintro ⟨-, -, hperforms, -⟩
  obtain ⟨l, hrun⟩ := exec_storePerformed_one (s := overfullBuffer) (e := ownAccumulate) rfl rfl (by decide) (by decide)
  obtain ⟨u, _, _, hexec, -, hhbm, -⟩ := hperforms overfullBuffer ownAccumulate ownWindow [1] 0 0
    rfl rfl rfl rfl (by decide) rfl rfl rfl rfl (by decide) (by decide) (by decide) (by decide) (by decide +kernel)
  have hspills : (overfullBuffer.performStore ownAccumulate).hbm = overfullBuffer.hbm := by
    rw [← hhbm, ← Host.Outcome.next.inj (hrun.symm.trans hexec)]
  exact absurd (overfullBuffer_spills.symm.trans (congrArg (mread · 0) hspills)) (by decide)

end Sys2Proof.Machine
end

section
/-! The binding table (R129, R130) and PUBLISH (R150, R348). -/
namespace Sys2Proof.Machine
open Sys2Proof

/-! ## Operands and free entries -/

theorem State.src_of_full_trap {s : State} {r : BitVec 6} (h : s.Full r) (trap : Bool) : s.src r trap = .ok (s.rs r) := State.src_eq_ok.2 ⟨h, rfl⟩

theorem State.dst_of_free {s : State} {d : BitVec 6} (h : s.Free d) : s.dst d = .ok () := State.dst_eq_ok.2 ⟨h.2, h.1⟩

/-- The search finds one when there is one. -/
theorem firstBelow_of_exists {p : Nat → Bool} {n k j : Nat} (hk : k ≤ j) (hj : j < k + n) (hp : p j = true) : ∃ i, firstBelow p n k = some i ∧ i ≤ j := by
  obtain ⟨i, hi⟩ : ∃ i, firstBelow p n k = some i := by
    induction n generalizing k with
    | zero => omega
    | succ n ih =>
      rw [firstBelow]
      split
      · exact ⟨k, rfl⟩
      · next hnot => exact ih (Nat.lt_of_le_of_ne hk fun e => hnot (e ▸ hp)) (by omega)
  refine ⟨i, hi, Nat.le_of_not_lt fun hlt => ?_⟩
  exact absurd ((firstBelow_eq_some hi).2.2 j hk hlt) (by rw [hp]; decide)

theorem mem_keys_of_tget {α : Type} {d : α} {t : Tab α} {k : Nat} (h : tget d t k ≠ d) : k ∈ t.map (·.1) := by
  induction t with
  | nil => exact absurd rfl h
  | cons e t ih =>
    rw [List.map_cons, List.mem_cons]
    rw [tget] at h
    split at h
    · exact .inl (Eq.symm ‹_›)
    · exact .inr (ih h)

/-- A table with fewer than n entries leaves a key below n free. -/
theorem exists_free_key {α : Type} {d : α} {t : Tab α} {n : Nat} (h : t.length < n) : ∃ k < n, tget d t k = d := by
  by_contra hall
  push Not at hall
  have hsub : List.range n ⊆ t.map (·.1) := fun k hk => mem_keys_of_tget (hall k (List.mem_range.1 hk))
  have hle := (List.nodup_range.subperm hsub).length_le
  rw [List.length_range, List.length_map] at hle
  omega

/-! ## BIND and UNBIND (R129) -/

/-- BIND answers OK only while the table has a free entry. -/
theorem State.length_of_bindStatus {s : State} {c sa sb : Nat} (h : s.bindStatus c sa sb = 0) : s.bindings.length < 8192 := by
  unfold State.bindStatus at h
  split at h
  · exact nomatch h
  split at h
  · exact nomatch h
  split at h
  · exact nomatch h
  · omega

/-- The lowest free entry. -/
theorem State.freeBinding {s : State} (h : s.bindings.length < 8192) :
    ∃ n, firstBelow (fun i => tget 0 s.bindings i == 0) 8192 0 = some n ∧ n < 8192 ∧ tget 0 s.bindings n = 0 := by
  obtain ⟨j, hj, hfree⟩ := exists_free_key (d := 0) h
  obtain ⟨n, hn, hle⟩ := firstBelow_of_exists (p := fun i => tget 0 s.bindings i == 0) (n := 8192) (Nat.zero_le j) (by omega) (beq_iff_eq.2 hfree)
  exact ⟨n, hn, by omega, beq_iff_eq.1 (firstBelow_eq_some hn).1⟩

/-- A binding enters the table. -/
def State.enterBinding (s : State) (n : Nat) (e : BitVec 256) : State := { s with bindings := tput 0 s.bindings n e }

@[simp] theorem State.enterBinding_hbm (s : State) (n : Nat) (e : BitVec 256) : (s.enterBinding n e).hbm = s.hbm := rfl

/-- BIND of a valid object of its kind and context. -/
theorem exec_bind {s s1 : State} {f : Tri} {pa : Nat} (hacq : s.acquiring = false) (ha : s.Full f.a) (hb : s.Full f.b) (hd : s.Free f.d)
    (haddr : objAddressOk (s.rs f.d &&& ~~~ 63#64) = true)
    (hreach : s.translate s.cur (s.ctxOf s.cur) (s.rs f.d &&& ~~~ 63#64) true = .ok (pa, s1)) (hvalid : nfld (s1.object pa) 0 1 = 1)
    (hkind : nfld (s1.object pa) 1 1 = fld (s.rs f.d) 0 1) (hctx : nfld (s1.object pa) 14 6 = s.ctxOf s.cur) {st : Nat}
    (hst : s.bindStatus (s.ctxOf s.cur) (s.rs f.a).toNat (s.rs f.b).toNat = st) :
    exec (.bind f) s = .next ((if st = 0 then s1.enterBinding ((firstBelow (fun i => tget 0 s.bindings i == 0) 8192 0).getD 0)
        (bindingEntry (s.ctxOf s.cur) (s.rs f.a).toNat ((s.rs f.b).toNat / 64) (s.rs f.d &&& ~~~ 63#64).toNat) else s1).starts
      f.d (.value (BitVec.ofNat 64 st)) 1 (s.rs f.a) (s.rs f.b) 4) := by
  change execBind f s = _
  rw [execBind, State.acqHeld_of hacq, Res.ok_bind, State.src_of_full_trap ha, Res.ok_bind, State.src_of_full_trap hb, Res.ok_bind,
    State.src_of_full hd.1, Res.ok_bind, State.dst_of_free hd, Res.ok_bind]
  dsimp only
  rw [haddr, Res.check_true, Res.ok_bind, hreach, Res.ok_bind]
  dsimp only
  rw [hkind, hctx, beq_self_eq_true, beq_self_eq_true, Bool.and_self, Bool.or_true, Res.check_true, Res.ok_bind, if_pos hvalid, hst]
  by_cases hok : st = 0
  · rw [if_neg (not_not.2 hok), if_pos hok]
    rfl
  · rw [if_pos hok, if_neg hok]
    rfl

/-- UNBIND takes the context's bindings that start at a out of the table. -/
theorem exec_unbind {s : State} {f : Tri} (hacq : s.acquiring = false) (ha : s.Full f.a) (hd : s.Free f.d) :
    let mine (e : Nat × BitVec 256) : Bool := fld e.2 1 6 == s.ctxOf s.cur && bindBase e.2 == (s.rs f.a).toNat
    exec (.unbind f) s = .next (({ s with bindings := s.bindings.filter fun e => !mine e } : State).starts f.d
      (.value (if s.bindings.any mine then 0 else 4)) 1 (s.rs f.a) 0 4) := by
  intro mine
  change execUnbind f s = _
  rw [execUnbind, State.acqHeld_of hacq, Res.ok_bind, State.src_of_full_trap ha, Res.ok_bind, State.dst_of_free hd]
  rfl

theorem bindingResults : BindingResults := by
  refine ⟨?_, fun s f hacq ha hd => ?_⟩
  · intro s s1 f pa hacq ha hb hd c va v st haddr hreach hvalid hkind hctx
    have hrun := exec_bind hacq ha hb hd haddr hreach hvalid hkind hctx (st := st) rfl
    by_cases hst : st = 0
    · obtain ⟨n, hn, hlt, hfree⟩ := State.freeBinding (State.length_of_bindStatus hst)
      rw [if_pos hst, hn, Option.getD_some] at hrun
      refine ⟨_, hrun, ?_, fun h => absurd hst h, fun _ => ⟨n, hlt, hfree, ?_⟩⟩
      · exact State.enterBinding_hbm ..
      · rw [State.enterBinding, bindingEntry]
    · rw [if_neg hst] at hrun
      exact ⟨_, hrun, rfl, fun _ => rfl, fun h => absurd h hst⟩
  · refine ⟨_, _, exec_unbind hacq ha hd, by split <;> simp, fun hv => ?_, fun e => ?_⟩
    · split at hv
      · exact absurd hv (by decide)
      · next hnone =>
        rw [Bool.not_eq_true, List.any_eq_false] at hnone
        exact List.filter_eq_self.2 fun e he => by dsimp only; rw [Bool.eq_false_iff.2 (hnone e he)]; rfl
    · simp only [List.mem_filter, Bool.not_eq_true', Bool.and_eq_false_iff, beq_eq_false_iff_ne, not_and_or]

/-! ## PUBLISH (R150, R348) -/

/-- An exchange is under way. -/
def State.beginPub (s : State) (p : Pub) : State := { s with pubs := s.pubs ++ [p] }

/-- PUBLISH begins an exchange, and the stream waits. -/
theorem exec_publish_begins {s : State} {f : Tri} {d : BitVec 512} (hacq : s.acquiring = false) (hnew : (s.strm s.cur).counted = false)
    (ha : s.Full f.a) (huse : s.tensorUse (s.ctxOf s.cur) (s.rs f.a) = .ok d) (hshadow : tdShv d = true) (hobj : tdSobj d = 0)
    (hidle : s.shadowWriting (s.ctxOf s.cur) (s.rs f.a).toNat = false) :
    exec (.publish f) s = .next (((s.beginPub { who := some s.cur, engine := none, ctx := s.ctxOf s.cur, tensor := (s.rs f.a).toNat }).modStrm s.cur
      fun st => { st with counted := true }).stalled .publish) := by
  change execPublish f s = _
  rw [execPublish, State.acqHeld_of hacq, Res.ok_bind, hnew, if_neg Bool.false_ne_true, State.src_of_full_trap ha, Res.ok_bind, huse,
    Res.ok_bind, hshadow, Res.check_true, Res.ok_bind, hidle, Bool.not_false, Res.check_true, Res.ok_bind, if_pos hobj]
  rfl

/-- The PUBLISH that has been counted completes once its exchange is over. -/
theorem exec_publish_ends {s : State} {f : Tri} (hacq : s.acquiring = false) (hcounted : (s.strm s.cur).counted = true)
    (hover : ∀ p ∈ s.pubs, p.who ≠ some s.cur) : exec (.publish f) s = .next (s.retire 4) := by
  have hnone : s.pubs.any (fun p => p.who == some s.cur) = false := List.any_eq_false.2 fun p hp => by simpa using hover p hp
  change execPublish f s = _
  rw [execPublish, State.acqHeld_of hacq, Res.ok_bind, if_pos hcounted, hnone]
  rfl

/-- The one exchange under way, of a tensor without an object. -/
theorem exec_publishExchange {s s1 : State} {t : Nat} {p : Pub} (hone : s.pubs = [p]) (hwho : p.who = some (.stream t 0))
    (hobj : tdSobj (s.tensor p.ctx p.tensor) = 0) (hidle : s.tableInUse p.ctx p.tensor = false)
    (hstores : s.storesBefore (.stream t 0) s.nextId = false) (hroom : s.reserve 0 t p.ctx 0 0 = .ok s1) :
    exec (.publishExchange (.stream t 0)) s = .next (State.forgetLock { s1.publishNow 0 t p.ctx p.tensor none with
      pubs := (s1.publishNow 0 t p.ctx p.tensor none).pubs.erase p } (.stream t 0) 0) := by
  have hfind : s.pubs.find? (fun p => p.who == some (.stream t 0)) = some p := by
    rw [hone]
    exact List.find?_cons_of_pos (beq_iff_eq.2 hwho)
  have hlen : s.reserveLen (Who.stream t 0).src (Who.stream t 0).undoTile p.ctx (16 + ((none : Option (Nat × Nat)).map fun _ => 40).getD 0) 0 = .ok s1 := hroom
  change execPublishExchange (.stream t 0) s = _
  rw [execPublishExchange, hfind]
  dsimp only
  rw [hobj, if_pos rfl, hidle, hstores, if_neg (by simp), hlen]
  rfl

/-- The exchange of tables without an object: its record is bookkeeping beside it. -/
theorem State.publishNow_booked (s : State) (t c id : Nat) :
    ∃ s1, s.Booked s1 ∧ s.publishNow 0 t c id none = s1.setTensor c id (tdExchange (s.tensor c id)) :=
  ⟨_, s.booked_record c rfl [], rfl⟩

theorem publishSteps : PublishSteps := by
  refine ⟨fun s f d hacq hnew ha huse hshadow hobj hidle => ?_, fun s f hacq hcounted hover => exec_publish_ends hacq hcounted hover,
    fun s s1 t p hone hwho hobj hidle hstores hroom => ?_⟩
  · refine ⟨_, exec_publish_begins hacq hnew ha huse hshadow hobj hidle, ?_, ?_⟩
    · exact (State.modStrm_pubs ..).trans (State.modStrm_pubs ..)
    · exact (State.modStrm_tensors ..).trans (State.modStrm_tensors ..)
  · have hreserve := State.booked_reserve (nw := 0) hroom
    obtain ⟨s2, hrecord, hnow⟩ := s1.publishNow_booked t p.ctx p.tensor
    have hrun := exec_publishExchange hone hwho hobj hidle hstores hroom
    rw [hnow] at hrun
    have hboth := hreserve.trans hrecord
    refine ⟨_, hrun, ?_, ?_⟩
    · change s2.pubs.erase p = []
      rw [hboth.keeps (·.pubs) fun _ _ _ _ => rfl, hone, List.erase_cons_head]
    · refine (State.tensor_setTensor s2 p.ctx p.tensor _).trans (congrArg tdExchange ?_)
      exact hreserve.keeps (fun u => u.tensor p.ctx p.tensor) fun _ _ _ _ => rfl

/-- Settles O45: BIND and UNBIND by the table's lowest free entry, and PUBLISH by the exchange that it begins. -/
theorem bindingsAndPublish : Obligations.BindingsAndPublish := ⟨bindingResults, publishSteps⟩

end Sys2Proof.Machine
end

section
/-! Sync objects (R128, R131, R132): ACQ, ACQT and REL, and what taking and releasing an object writes. -/
namespace Sys2Proof.Machine
open Sys2Proof

/-! ## Fields of numbers, and numbers of more bytes -/

theorem nfld_eq_div_mod (v lo w : Nat) : nfld v lo w = v / 2 ^ lo % 2 ^ w := by rw [nfld, Nat.shiftRight_eq_div_pow]

theorem leBytes_append (m n : Nat) {a : Nat} (b : Nat) (h : a < 256 ^ m) : leBytes m a ++ leBytes n b = leBytes (m + n) (a + 256 ^ m * b) := by
  induction m generalizing a with
  | zero =>
    obtain rfl : a = 0 := by omega
    simp [leBytes]
  | succ m ih =>
    have hdiv : (a + 256 ^ (m + 1) * b) / 256 = a / 256 + 256 ^ m * b := by
      rw [Nat.pow_succ', Nat.mul_assoc, Nat.add_mul_div_left _ _ (by decide)]
    have hlow : BitVec.ofNat 8 (a + 256 ^ (m + 1) * b) = BitVec.ofNat 8 a := BitVec.eq_of_toNat_eq (by
      rw [BitVec.toNat_ofNat, BitVec.toNat_ofNat, Nat.pow_succ', Nat.mul_assoc]
      exact Nat.add_mul_mod_self_left ..)
    rw [Nat.succ_add, leBytes, leBytes, List.cons_append, ih (Nat.div_lt_of_lt_mul (by rwa [← Nat.pow_succ'])), hdiv, hlow]

/-! ## ACQ and ACQT (R131) -/

section
variable {s s1 : State} {f : Tri} {pa v : Nat} (hacq : s.acquiring = false) (ha : s.Full f.a) (hb : s.Full f.b) (hd : s.Free f.d)
  (hreach : s.reach s.cur (s.rs f.a) false = .ok (pa, v, s1))
include hacq ha hb hd hreach

/-- The object has what is asked for: its generation is the result, for ACQT with bit 63. -/
theorem State.acquireRes_has (h : objEvent v = true ∧ passed32 (objGen v) ((s.rs f.b).setWidth 32) = true ∨
    objEvent v = false ∧ s.holds s.cur v = true ∧ s.releasing s.cur (s.rs f.a) = false) (try' : Bool) :
    s.acquireRes f try' = .ok (s1.starts f.d
      (.value (if try' then (objGen v).setWidth 64 ||| (1 <<< 63) else (objGen v).setWidth 64)) 1 (s.rs f.a) (s.rs f.b) 4) := by
  rw [State.acquireRes, State.acqHeld_of hacq, Res.ok_bind, State.src_of_full_trap ha, Res.ok_bind, State.src_of_full_trap hb, Res.ok_bind,
    State.dst_of_free hd, Res.ok_bind, hreach, Res.ok_bind]
  dsimp only
  obtain ⟨hevent, hpast⟩ | ⟨hlock, hholds, hkeeps⟩ := h
  · rw [if_pos hevent, if_pos hpast]
    rfl
  · rw [hlock, if_neg Bool.false_ne_true, hholds, hkeeps, if_pos (by decide)]
    rfl

/-- It has not: ACQ waits, and ACQT answers the generation alone. -/
theorem State.acquireRes_lacks (h : objEvent v = true ∧ passed32 (objGen v) ((s.rs f.b).setWidth 32) = false ∨
    objEvent v = false ∧ (s.holds s.cur v && !s.releasing s.cur (s.rs f.a)) = false ∧ objHeld v = true) (try' : Bool) :
    s.acquireRes f try' = .ok (s1.starts f.d
      (if try' then .value ((objGen v).setWidth 64) else .acq (s.rs f.a) ((s.rs f.b).setWidth 32)) 1 (s.rs f.a) (s.rs f.b) 4) := by
  rw [State.acquireRes, State.acqHeld_of hacq, Res.ok_bind, State.src_of_full_trap ha, Res.ok_bind, State.src_of_full_trap hb, Res.ok_bind,
    State.dst_of_free hd, Res.ok_bind, hreach, Res.ok_bind]
  dsimp only
  obtain ⟨hevent, hpast⟩ | ⟨hlock, hnot, hheld⟩ := h
  · rw [if_pos hevent, hpast, if_neg Bool.false_ne_true]
    cases try' <;> rfl
  · rw [hlock, if_neg Bool.false_ne_true, hnot, if_neg Bool.false_ne_true, hheld, if_pos (by rfl)]
    cases try' <;> rfl

/-- A free LOCK for which nobody waits is taken. -/
theorem State.acquireRes_takes {s2 s3 : State} {pa' : Nat} (hlock : objEvent v = false) (hfree : objHeld v = false)
    (hwait : s.waiters (s.ctxOf s.cur) (s.rs f.a) = []) (hwrite : s1.translate s.cur (s.ctxOf s.cur) (s.rs f.a) true = .ok (pa', s2))
    (hroom : s2.reserve s.cur.src s.cur.undoTile (s.ctxOf s.cur) 1 (s.rs f.a) = .ok s3) (try' : Bool) :
    s.acquireRes f try' = .ok ((s3.takeLock s.cur s.cur.src (s.rs f.a) pa v).starts f.d
      (.value (if try' then (objGen v).setWidth 64 ||| (1 <<< 63) else (objGen v).setWidth 64)) 1 (s.rs f.a) (s.rs f.b) 4) := by
  have hnot : (s.holds s.cur v && !s.releasing s.cur (s.rs f.a)) = false := by rw [State.holds, hfree]; rfl
  rw [State.acquireRes, State.acqHeld_of hacq, Res.ok_bind, State.src_of_full_trap ha, Res.ok_bind, State.src_of_full_trap hb, Res.ok_bind,
    State.dst_of_free hd, Res.ok_bind, hreach, Res.ok_bind]
  dsimp only
  rw [hlock, if_neg Bool.false_ne_true, hnot, if_neg Bool.false_ne_true, hfree, hwait, if_neg (by decide), hwrite, Res.ok_bind]
  dsimp only
  rw [hroom]
  rfl

end

theorem passed32_eq_true {g h : BitVec 32} : passed32 g h = true ↔ (g - h).toNat < 2 ^ 31 := decide_eq_true_iff

theorem acquireResults : AcquireResults := by
  intro s s1 f pa v hacq ha hb hd hreach g a b past
  refine ⟨fun h => ?_, fun h => ?_⟩
  · have hhas := State.acquireRes_has hacq ha hb hd hreach (h.imp_left fun h => ⟨h.1, passed32_eq_true.2 h.2⟩)
    exact ⟨congrArg (Res.finish · s) (hhas false), congrArg (Res.finish · s) (hhas true)⟩
  · have hlacks := State.acquireRes_lacks hacq ha hb hd hreach (h.imp (fun h => ⟨h.1, Bool.eq_false_iff.2 fun e => h.2 (passed32_eq_true.1 e)⟩)
      fun h => ⟨h.1, by obtain e | e := h.2.1 <;> rw [e] <;> simp, h.2.2⟩)
    exact ⟨congrArg (Res.finish · s) (hlacks false), congrArg (Res.finish · s) (hlacks true)⟩

/-! ## What a write of an object leaves -/

theorem State.stop_modStrm (s : State) (w : Who) {g : Stream → Stream} (hg : ∀ st, (g st).stop = st.stop) (p : Who) :
    ((s.modStrm w g).strm p).stop = (s.strm p).stop := by
  cases w with
  | stream t k =>
    cases p with
    | stream u j =>
      simp only [State.strm, State.modStrm, State.tile_modTile]
      split
      · next h =>
        rw [Tile.stream_setStream, h]
        split
        · next hj => rw [hg, hj]
        · rfl
      · rfl
    | thread n => rfl
    | engine n => rfl
  | thread n =>
    cases p with
    | stream u j => rfl
    | thread m =>
      simp only [State.strm, State.modStrm, State.thr_modThr]
      split
      · next h => rw [hg, h]
      · rfl
    | engine n => rfl
  | engine n => rfl

theorem State.stop_record (s : State) (c : Nat) {r : UndoRec} (hr : r.inBuf = true) (new : List Byte) (p : Who) :
    ((s.record c r new).strm p).stop = (s.strm p).stop := by
  unfold State.record
  extract_lets s0 s1
  have h1 : s1 = s0 := if_pos hr
  rw [h1]
  split
  · next k _ =>
    split
    · exact s0.stop_modStrm (.stream r.tile k) (g := fun st => { st with
        sig := crc64 (leBytes 8 st.sig.toNat ++ leBytes 8 r.addr.toNat ++ new) }) (fun _ => rfl) p
    · rfl
  · rfl

/-- What a write of context memory by a tile's party leaves: its record is bookkeeping beside the bytes. -/
theorem State.hbmPut_facts (s : State) {src : Nat} (hsrc : src < 5) (wtile c : Nat) (win : BitVec 32) (va : Word) (pa : Nat) (bs : List Byte)
    (atom : Bool) : let u := s.hbmPut src wtile c win va pa bs atom
    u.hbm = mwrites s.hbm pa bs ∧ u.stores = s.stores ∧ (∀ n, (s.tile n).Kept (u.tile n)) ∧ (∀ w, u.scal w = s.scal w) ∧
      ∀ w, (u.strm w).stop = (s.strm w).stop := by
  intro u
  let r : UndoRec := { rtype := 1, akind := 1, atom := atom, tile := if src ≥ 5 then 0 else wtile, src := src, win := win,
                       addr := BitVec.ofNat 64 (va.toNat / 8 * 8), old := oldWords s.hbm pa bs.length, inBuf := decide (src < 5) }
  have hbuf : r.inBuf = true := decide_eq_true hsrc
  have hb := s.booked_record c hbuf bs
  exact ⟨congrArg (mwrites · pa bs) (hb.keeps (·.hbm) fun _ _ _ _ => rfl), hb.keeps (·.stores) fun _ _ _ _ => rfl, hb.2, s.scal_record c hbuf bs,
    s.stop_record c hbuf bs⟩

theorem State.task_starts (s : State) (d : BitVec 6) (what : VarKind) (wait : Nat) (a b : Word) (bytes t : Nat) :
    ((s.starts d what wait a b bytes).tile t).task = (s.tile t).task :=
  ((State.booked_retire ..).tile t (·.task) fun _ _ _ _ _ => rfl).trans ((State.booked_modScal ..).tile t (·.task) fun _ _ _ _ _ => rfl)

theorem State.starts_hbm (s : State) (d : BitVec 6) (what : VarKind) (wait : Nat) (a b : Word) (bytes : Nat) :
    (s.starts d what wait a b bytes).hbm = s.hbm := (State.retire_hbm ..).trans (State.startOp_hbm ..)

theorem State.starts_stores (s : State) (d : BitVec 6) (what : VarKind) (wait : Nat) (a b : Word) (bytes : Nat) :
    (s.starts d what wait a b bytes).stores = s.stores := (State.retire_stores ..).trans (State.startOp_stores ..)

/-- An object's first word once a holder has taken it (R128). -/
def lockWord (v holder : Nat) : Nat := v % 2 ^ 2 + 2 ^ 2 + nfld v 14 6 * 2 ^ 14 + holder

theorem State.holder_stream (s : State) (t k : Nat) : ∃ n < 2 ^ 16, s.holder (.stream t k) = t * 2 ^ 4 + n * 2 ^ 20 := by
  refine ⟨((s.tile t).task.map (·.serial.toNat)).getD 0, ?_, by rw [State.holder]⟩
  cases (s.tile t).task with
  | none => exact Nat.two_pow_pos 16
  | some q => exact q.serial.isLt

theorem lockWord_fields (v : Nat) {s : State} {t : Nat} (ht : t < 256) (k : Nat) : let w := lockWord v (s.holder (.stream t k)) % 256 ^ 8
    nfld w 0 2 = nfld v 0 2 ∧ nfld w 2 1 = 1 ∧ nfld w 3 1 = 0 ∧ nfld w 4 10 = t ∧ nfld w 14 6 = nfld v 14 6 := by
  intro w
  obtain ⟨n, hn, hholder⟩ := s.holder_stream t k
  have hctx : nfld v 14 6 < 2 ^ 6 := Nat.mod_lt _ (by decide)
  have hlow : v % 2 ^ 2 = nfld v 0 2 := by rw [nfld_eq_div_mod, Nat.pow_zero, Nat.div_one]
  have hlt : nfld v 0 2 < 2 ^ 2 := Nat.mod_lt _ (by decide)
  have hw : w = nfld v 0 2 + 2 ^ 2 + nfld v 14 6 * 2 ^ 14 + (t * 2 ^ 4 + n * 2 ^ 20) := by
    dsimp only [w, lockWord]
    rw [hlow, hholder]
    omega
  clear_value w
  generalize nfld v 14 6 = c at *
  generalize nfld v 0 2 = k at *
  simp only [nfld_eq_div_mod]
  omega

/-- Taking a lock writes its first word and enters it among those that the task holds. -/
theorem State.takeLock_facts (s : State) (t : Nat) (va : Word) (pa v : Nat) :
    let u := s.takeLock (.stream t 0) (Who.stream t 0).src va pa v
    u.hbm = mwrites s.hbm pa (leBytes 8 (lockWord v (s.holder (.stream t 0)))) ∧ u.stores = s.stores ∧
      (u.tile t).task = (s.tile t).task.map fun k => { k with locks := va :: k.locks } := by
  obtain ⟨hhbm, hstores, hkept, -, -⟩ := s.hbmPut_facts (src := (Who.stream t 0).src) (Nat.zero_lt_succ 4) (Who.stream t 0).undoTile
    (s.ctxOf (.stream t 0)) (s.winOf (Who.stream t 0).src (Who.stream t 0).undoTile (s.ctxOf (.stream t 0))) va pa
    (leBytes 8 (lockWord v (s.holder (.stream t 0)))) true
  unfold State.takeLock
  dsimp only
  rw [← lockWord]
  generalize s.hbmPut _ _ _ _ va pa (leBytes 8 (lockWord v (s.holder (.stream t 0)))) true = u at *
  refine ⟨(State.modTile_hbm ..).trans hhbm, (State.modTile_stores ..).trans hstores, ?_⟩
  obtain ⟨st, sc, i, b, e⟩ := hkept t
  exact (congrArg Tile.task (State.tile_modTile_self ..)).trans (by rw [e])

theorem State.translate_stores {s t : State} {w : Who} {c : Nat} {va : Word} {store : Bool} {pa : Nat} (h : s.translate w c va store = .ok (pa, t)) :
    t.stores = s.stores := by
  obtain ⟨-, rfl | ⟨e, rfl⟩⟩ := State.translate_ok h
  · rfl
  · cases w <;> rfl

theorem State.reach_stores {s s1 : State} {w : Who} {va : Word} {store : Bool} {pa v : Nat} (h : s.reach w va store = .ok (pa, v, s1)) :
    s1.stores = s.stores := by
  obtain ⟨_, -, h⟩ := Res.bind_eq_ok.1 h
  obtain ⟨⟨q, u⟩, htr, h⟩ := Res.bind_eq_ok.1 h
  obtain ⟨_, -, h⟩ := Res.bind_eq_ok.1 h
  obtain ⟨-, hrest⟩ := Prod.mk.inj (Res.ok.inj h)
  obtain ⟨-, rfl⟩ := Prod.mk.inj hrest
  exact State.translate_stores htr

theorem lockIsTaken : LockIsTaken := by
  intro s s1 s2 s3 f t pa pa' v hcur ht hacq ha hb hd hreach hlock hfree hwait hwrite hroom i hi
  have hroom' : s2.reserve s.cur.src s.cur.undoTile (s.ctxOf s.cur) 1 (s.rs f.a) = .ok s3 := by rw [hcur] at hroom ⊢; exact hroom
  have htakes := State.acquireRes_takes hacq ha hb hd hreach hlock hfree hwait hwrite hroom'
  obtain ⟨try', hexec⟩ : ∃ try', exec i s = (s.acquireRes f try').finish s := by
    simp only [List.mem_cons, List.not_mem_nil, or_false] at hi
    obtain rfl | rfl := hi
    · exact ⟨false, rfl⟩
    · exact ⟨true, rfl⟩
  rw [htakes try', Res.finish_ok, hcur] at hexec
  obtain ⟨hhbm, hstores, htask⟩ := s3.takeLock_facts t (s.rs f.a) pa v
  refine ⟨_, hexec, ?_, fun j hj => ?_, ?_, fun k hk => ?_⟩
  · refine (State.starts_stores ..).trans (hstores.trans ?_)
    exact ((State.booked_reserve hroom).keeps (·.stores) fun _ _ _ _ => rfl).trans ((State.translate_stores hwrite).trans (State.reach_stores hreach))
  · rw [State.starts_hbm]
    exact (congrArg (mread · j) hhbm).trans (mread_mwrites_outside _ _ _ _ (by rwa [leBytes_length]))
  · dsimp only
    rw [State.starts_hbm, hhbm, mval_mwrites]
    exact lockWord_fields v ht 0
  · rw [State.task_starts]
    exact ⟨_, htask ▸ Option.mem_map_of_mem _ hk, rfl⟩

/-! ## REL (R131) -/

theorem exec_rel {s s1 s2 : State} {f : Tri} {pa v : Nat} (hacq : s.acquiring = false) (ha : s.Full f.a) (hd : s.Free f.d)
    (hreach : s.reach s.cur (s.rs f.a) true = .ok (pa, v, s1))
    (hmay : objEvent v = true ∨ s.holds s.cur v = true ∧ s.releasing s.cur (s.rs f.a) = false)
    (hroom : s1.reserve s.cur.src s.cur.undoTile (s.ctxOf s.cur) 3 (s.rs f.a) = .ok s2) :
    exec (.rel f) s = .next (s2.starts f.d (.rel (s.rs f.a)) 1 (s.rs f.a) 0 4) := by
  have hok : (objEvent v || (s.holds s.cur v && !s.releasing s.cur (s.rs f.a))) = true := by
    obtain h | ⟨h, h'⟩ := hmay
    · rw [h, Bool.true_or]
    · rw [h, h', Bool.not_false, Bool.and_true, Bool.or_true]
  change execRel f s = _
  rw [execRel, State.acqHeld_of hacq, Res.ok_bind, State.src_of_full_trap ha, Res.ok_bind, State.dst_of_free hd, Res.ok_bind, hreach, Res.ok_bind]
  dsimp only
  rw [hok, Res.check_true, Res.ok_bind, hroom]
  rfl

end Sys2Proof.Machine
end

section
/-! Variable-latency results that are written (R231). -/
namespace Sys2Proof.Machine
open Sys2Proof

/-! ## The registers that take a result -/

/-- The registers once a result has been written: its register is full, and its operation is gone. -/
def Scalars.received (c : Scalars) (r : BitVec 6) (id : Nat) (v : Word) : Scalars :=
  { (c.set r v).markFull r with ops := c.ops.filter (·.id != id) }

theorem Scalars.received_get (c : Scalars) (r : BitVec 6) (id : Nat) (v : Word) (q : BitVec 6) :
    (c.received r id v).get q = if q = r ∧ r ≠ 0 then v else c.get q := c.get_set r q v

theorem Scalars.received_get_self (c : Scalars) (r : BitVec 6) (id : Nat) (v : Word) : (c.received r id v).get r = if r = 0 then 0 else v := by
  rw [Scalars.received_get]
  by_cases h : r = 0
  · rw [if_neg fun k => k.2 h, if_pos h, h, Scalars.get_zero]
  · rw [if_pos ⟨rfl, h⟩, if_neg h]

theorem Scalars.received_full (c : Scalars) (r : BitVec 6) (id : Nat) (v : Word) : (c.received r id v).isEmpty r = false := by
  simp [Scalars.received, Scalars.markFull, Scalars.isEmpty]

theorem Scalars.received_done {c : Scalars} {r : BitVec 6} {id : Nat} {v : Word} {p : VarOp} (h : p ∈ (c.received r id v).ops) : p.id ≠ id :=
  bne_iff_ne.1 (List.mem_filter.1 h).2

theorem State.received_facts {u : State} {t : Nat} {c : Scalars} {r : BitVec 6} {id : Nat} {v : Word} (h : u.scal (.stream t 0) = c.received r id v) :
    u.rd (.stream t 0) r = (if r = 0 then 0 else v) ∧ u.isEmpty (.stream t 0) r = false ∧ ∀ p ∈ (u.tile t).sc.ops, p.id ≠ id := by
  refine ⟨?_, ?_, fun p hp => ?_⟩
  · rw [State.rd, h, Scalars.received_get_self]
  · rw [State.isEmpty, h, Scalars.received_full]
  · have hp : p ∈ (u.scal (.stream t 0)).ops := hp
    rw [h] at hp
    exact Scalars.received_done hp

/-! ## Writing a result -/

/-- A stream that goes on writes no frame. -/
theorem State.frameIfQuiet_going {s : State} {t k : Nat} (h : (s.strm (.stream t k)).stop = none) : s.frameIfQuiet t k = s := by
  unfold State.frameIfQuiet
  dsimp only
  rw [h]

theorem State.framesIfQuiet_going {s : State} {t : Nat} (h : ∀ k, (s.strm (.stream t k)).stop = none) (l : List Nat) :
    l.foldl (fun s k => s.frameIfQuiet t k) s = s :=
  List.foldlRecOn (motive := fun u : State => u = s) l _ rfl fun u hu k _ => by rw [hu, State.frameIfQuiet_going (h k)]

theorem State.stop_wakeWfe (s : State) (w p : Who) : ((s.wakeWfe w).strm p).stop = (s.strm p).stop := by
  unfold State.wakeWfe
  split
  · exact s.stop_modStrm w (g := fun st => { st with woken := true }) (fun _ => rfl) p
  · rfl

theorem State.scal_wakeWfe (s : State) (t k : Nat) (w : Who) : (s.wakeWfe (.stream t k)).scal w = s.scal w := by
  unfold State.wakeWfe
  split
  · exact s.scal_modTile t w
  · rfl

/-- Outside a handler an operation is one of the registers'. -/
theorem State.any_of_opOf {s : State} {t k id : Nat} {o : VarOp} (hop : s.opOf (.stream t k) id = some o) (hout : (s.tile t).handler = none) :
    (s.scal (.stream t k)).ops.any (·.id == id) = true := by
  rw [State.opOf, hout] at hop
  have hop : (s.scal (.stream t k)).ops.find? (·.id == id) = some o := by simpa using hop
  exact List.any_eq_true.2 ⟨o, List.mem_of_find?_eq_some hop, List.find?_some (p := fun p : VarOp => p.id == id) hop⟩

/-- The result of a stream's operation, while no handler runs and no stream of the tile has stopped: its registers alone change. -/
theorem State.writeResult_facts {s : State} {t id : Nat} {o : VarOp} (hop : s.opOf (.stream t 0) id = some o) (hout : (s.tile t).handler = none)
    (hgo : ∀ k, (s.strm (.stream t k)).stop = none) (v : Word) :
    (s.writeResult (.stream t 0) id v).scal (.stream t 0) = (s.scal (.stream t 0)).received o.reg id v ∧
      (s.writeResult (.stream t 0) id v).hbm = s.hbm := by
  unfold State.writeResult
  rw [hop]
  dsimp -zeta only
  extract_lets on s1 live s2
  have hon : on (s.scal (.stream t 0)) = (s.scal (.stream t 0)).received o.reg id v := if_pos (State.any_of_opOf hop hout)
  have hb1 : s.Booked s1 := (s.booked_modScal ..).trans (State.booked_wakeWfe ..)
  have hsc1 : s1.scal (.stream t 0) = on (s.scal (.stream t 0)) :=
    (State.scal_wakeWfe ..).trans (congrArg Tile.sc (s.tile_modTile_self t fun x => { x with sc := on x.sc }))
  have hgo1 (k) : (s1.strm (.stream t k)).stop = none := by
    rw [State.stop_wakeWfe]
    exact (congrArg Stream.stop (s.strm_modTile t k (g := fun x => { x with sc := on x.sc }) fun _ => rfl)).trans (hgo k)
  have hout1 : (s1.tile t).handler = none := (hb1.tile t (·.handler) fun _ _ _ _ _ => rfl).trans hout
  have hlive : live (s1.tile t) = (s1.tile t).sc := if_neg (by rw [hout1]; simp)
  obtain ⟨g, hs2, hg, hgsc⟩ : ∃ g : Tile → Tile, s2 = s1.modTile t g ∧ (∀ x, (g x).streams = x.streams) ∧ ∀ x, (g x).sc = live x :=
    ⟨_, rfl, fun _ => rfl, fun _ => rfl⟩
  clear_value s2 live s1
  have hsc2 : s2.scal (.stream t 0) = s1.scal (.stream t 0) := by
    rw [hs2]
    exact (congrArg Tile.sc (s1.tile_modTile_self t g)).trans ((hgsc _).trans hlive)
  have hgo2 (k) : (s2.strm (.stream t k)).stop = none := by rw [hs2, s1.strm_modTile t k hg, hgo1 k]
  have hhbm2 : s2.hbm = s.hbm := by rw [hs2, State.modTile_hbm, hb1.keeps (·.hbm) fun _ _ _ _ => rfl]
  rw [State.framesIfQuiet_going fun k => (s2.stop_wakeWfe (.stream t 0) _).trans (hgo2 k)]
  exact ⟨(s2.scal_wakeWfe ..).trans (hsc2.trans (hsc1.trans hon)), ((s2.booked_wakeWfe _).keeps (·.hbm) fun _ _ _ _ => rfl).trans hhbm2⟩

/-- An operation whose cycle has come, and which has its value, is written. -/
theorem exec_variableResultWrite {s s1 : State} {w : Who} {id : Nat} {o : VarOp} {v : Word} (hop : s.opOf w id = some o)
    (htime : (s.ccc - o.notBefore).toNat < 2 ^ 63) (hval : s.valueOf w o = some (v, s1)) :
    exec (.variableResultWrite w id) s = .next (s1.writeResult w id v) := by
  change execVariableResultWrite w id s = _
  rw [execVariableResultWrite, hop]
  dsimp only
  rw [if_neg (Nat.not_le.2 htime), hval]
  split
  · next hagain =>
    rw [State.valueOf, hagain] at hval
    exact nomatch hval
  · rfl

/-- A load whose bytes no earlier access of its party may still change has their value. -/
theorem State.valueOf_load {s : State} {t c pa n : Nat} {sext : Bool} {o : VarOp} (hwhat : o.what = .load c pa n sext)
    (hstores : s.storeOver (.stream t 0) o.id pa n = false) (hloads : ∀ p ∈ (s.tile t).sc.ops, p.id < o.id → ∀ e qa m x, p.what ≠ .load e qa m x) :
    s.valueOf (.stream t 0) o = some (extend n sext (mval s.hbm pa n), s) := by
  have hnone (p) (hp : p ∈ (s.scal (.stream t 0)).ops) : (decide (p.id < o.id) && match p.what with
      | .load _ qa m _ => wordsMeet pa n qa m
      | _ => false) = false := by
    by_cases hid : p.id < o.id
    · split
      · next e qa m x h => exact absurd h (hloads p hp hid e qa m x)
      · exact Bool.and_false _
    · rw [decide_eq_false hid, Bool.false_and]
  rw [State.valueOf, hwhat]
  dsimp only
  rw [hstores, Bool.false_or, if_neg]
  rw [Bool.not_eq_true, List.any_eq_false]
  exact fun p hp => Bool.eq_false_iff.1 (hnone p hp)

theorem variableResults : VariableResults := by
  intro s t id o hop hid htime hout hgo v hwhat
  have hval : s.valueOf (.stream t 0) o = some (v, s) := by
    obtain h | ⟨c, pa, n, sext, h, rfl, hstores, hloads⟩ := hwhat
    · rw [State.valueOf, h]
    · subst hid
      exact State.valueOf_load h hstores hloads
  obtain ⟨hscal, hhbm⟩ := State.writeResult_facts hop hout hgo v
  obtain ⟨hread, hfull, hdone⟩ := State.received_facts hscal
  refine ⟨_, exec_variableResultWrite hop htime hval, hread, hfull, hdone, fun r hr => ?_, hhbm⟩
  rw [State.rd, hscal, Scalars.received_get, if_neg fun h => hr h.1]
  rfl

end Sys2Proof.Machine
end

section
/-! REL's result (R131, R132). -/
namespace Sys2Proof.Machine
open Sys2Proof

/-! ## The words of a released object -/

/-- An object's first 24 bytes once it has been released: HELD of a LOCK is clear, GEN has advanced, and RCCC is the cycle (R131). -/
def releasedWords (v c : Nat) : Nat :=
  (if objEvent v then nfld v 0 64 else nfld v 0 2 + nfld v 3 61 * 2 ^ 3) +
    256 ^ 8 * (((objGen v + 1).toNat + nfld v 96 32 * 2 ^ 32) + 256 ^ 8 * c)

theorem releasedWords_low (v : Nat) : (if objEvent v then nfld v 0 64 else nfld v 0 2 + nfld v 3 61 * 2 ^ 3) < 256 ^ 8 := by
  have h0 : nfld v 0 64 < 2 ^ 64 := Nat.mod_lt _ (by decide)
  have h1 : nfld v 0 2 < 2 ^ 2 := Nat.mod_lt _ (by decide)
  have h2 : nfld v 3 61 < 2 ^ 61 := Nat.mod_lt _ (by decide)
  split <;> omega

theorem releasedWords_middle (v : Nat) : (objGen v + 1).toNat + nfld v 96 32 * 2 ^ 32 < 256 ^ 8 := by
  have h0 : (objGen v + 1).toNat < 2 ^ 32 := (objGen v + 1).isLt
  have h1 : nfld v 96 32 < 2 ^ 32 := Nat.mod_lt _ (by decide)
  omega

theorem leBytes_releasedWords (v c : Nat) :
    leBytes 8 (if objEvent v then nfld v 0 64 else nfld v 0 2 + nfld v 3 61 * 2 ^ 3) ++
      leBytes 8 ((objGen v + 1).toNat + nfld v 96 32 * 2 ^ 32) ++ leBytes 8 c = leBytes 24 (releasedWords v c) := by
  rw [List.append_assoc, leBytes_append 8 8 c (releasedWords_middle v), leBytes_append 8 16 _ (releasedWords_low v), releasedWords]

theorem releasedWords_fields (v : Nat) {c : Nat} (hc : c < 2 ^ 64) : let w := releasedWords v c % 256 ^ 24
    nfld w 0 2 = nfld v 0 2 ∧ (objEvent v = false → nfld w 2 1 = 0) ∧ nfld w 64 32 = (objGen v + 1).toNat ∧ nfld w 128 64 = c := by
  have hlow := releasedWords_low v
  have hmid := releasedWords_middle v
  have hgen : (objGen v + 1).toNat < 2 ^ 32 := (objGen v + 1).isLt
  have hkind : (if objEvent v then nfld v 0 64 else nfld v 0 2 + nfld v 3 61 * 2 ^ 3) % 2 ^ 2 = nfld v 0 2 := by
    have h : nfld v 0 2 < 2 ^ 2 := Nat.mod_lt _ (by decide)
    split
    · simp only [nfld_eq_div_mod] at *
      omega
    · omega
  have hheld (h : objEvent v = false) : (if objEvent v then nfld v 0 64 else nfld v 0 2 + nfld v 3 61 * 2 ^ 3) / 2 ^ 2 % 2 = 0 := by
    have hlt : nfld v 0 2 < 2 ^ 2 := Nat.mod_lt _ (by decide)
    rw [h, if_neg Bool.false_ne_true]
    omega
  dsimp only [releasedWords]
  generalize (if objEvent v then nfld v 0 64 else nfld v 0 2 + nfld v 3 61 * 2 ^ 3) = w0 at *
  generalize (objGen v + 1).toNat = g at *
  generalize nfld v 96 32 = x at *
  generalize nfld v 0 2 = y at *
  simp only [nfld_eq_div_mod]
  exact ⟨by omega, fun h => by have := hheld h; omega, by omega, by omega⟩

/-! ## The release of an object by a stream -/

theorem State.object_of_objectAt {s : State} {c pa v : Nat} {va : Word} (h : s.objectAt c va = some (pa, v)) : v = s.object pa := by
  unfold State.objectAt at h
  split at h
  · exact nomatch h
  · split at h
    · dsimp only at h
      split at h
      · obtain ⟨rfl, rfl⟩ := Prod.mk.inj (Option.some.inj h)
        rfl
      · exact nomatch h
    · exact nomatch h

/-- The state in which a tile's control stream has released an object: the object's words are written, and the task forgets the lock. -/
def State.released (s : State) (t : Nat) (va : Word) (pa : Nat) : State :=
  (s.releaseObject 0 t (s.ctxOf (.stream t 0)) (s.winOf 0 t (s.ctxOf (.stream t 0))) va pa).forgetLock (.stream t 0) va

theorem State.releaseObject_eq (s : State) (src tile c : Nat) (win : BitVec 32) (va : Word) (pa : Nat) :
    s.releaseObject src tile c win va pa = s.hbmPut src tile c win va pa (leBytes 24 (releasedWords (s.object pa) s.ccc.toNat)) true := by
  rw [← leBytes_releasedWords]
  rfl

/-- A release leaves the registers, the handler and the streams' stops. -/
theorem State.released_facts (s : State) (t : Nat) (va : Word) (pa : Nat) : let u := s.released t va pa
    u.hbm = mwrites s.hbm pa (leBytes 24 (releasedWords (s.object pa) s.ccc.toNat)) ∧ u.scal (.stream t 0) = s.scal (.stream t 0) ∧
      (u.tile t).handler = (s.tile t).handler ∧ ∀ k, (u.strm (.stream t k)).stop = (s.strm (.stream t k)).stop := by
  obtain ⟨hhbm, -, hkept, hscal, hstop⟩ := s.hbmPut_facts (src := 0) (Nat.zero_lt_succ 4) t (s.ctxOf (.stream t 0)) (s.winOf 0 t (s.ctxOf (.stream t 0)))
    va pa (leBytes 24 (releasedWords (s.object pa) s.ccc.toNat)) true
  unfold State.released State.forgetLock
  rw [State.releaseObject_eq]
  generalize s.hbmPut 0 t _ _ va pa (leBytes 24 (releasedWords (s.object pa) s.ccc.toNat)) true = u at *
  obtain ⟨st, sc, i, b, e⟩ := hkept t
  refine ⟨(State.modTile_hbm ..).trans hhbm, (u.scal_modTile t _).trans (hscal _), ?_, fun k => ?_⟩
  · exact (congrArg Tile.handler (State.tile_modTile_self ..)).trans (by rw [e])
  · refine .trans (congrArg Stream.stop (u.strm_modTile t k ?_)) (hstop _)
    exact fun _ => rfl

theorem State.opOf_congr {s u : State} {t : Nat} (hscal : u.scal (.stream t 0) = s.scal (.stream t 0))
    (hhandler : (u.tile t).handler = (s.tile t).handler) (id : Nat) : u.opOf (.stream t 0) id = s.opOf (.stream t 0) id := by
  rw [State.opOf, State.opOf, hscal, hhandler]

/-- A REL of a stream, once the stores before it are performed. -/
theorem State.valueOf_rel {s : State} {t pa v : Nat} {o : VarOp} {obj : Word} (hwhat : o.what = .rel obj) (hrel : fld o.insn 26 6 = 0x37)
    (hstores : s.storesBefore (.stream t 0) o.id = false) (hobj : s.objectAt (s.ctxOf (.stream t 0)) obj = some (pa, v))
    (hstays : s.rangeMoves (s.ctxOf (.stream t 0)) obj 64 = false) :
    s.valueOf (.stream t 0) o = some ((objGen v + 1).setWidth 64, s.released t obj pa) := by
  have hnot : ¬ (o.reg = 0 ∧ fld o.insn 26 6 = 0x39) := fun h => absurd (hrel.symm.trans h.2) (by decide)
  rw [State.valueOf, hwhat]
  dsimp only
  rw [State.performRel, hstores, hstays, if_neg (by decide), if_neg hnot, hobj]
  rfl

theorem releaseResults : ReleaseResults := by
  refine ⟨fun s s1 s2 f pa v hacq ha hd hreach hmay hroom => exec_rel hacq ha hd hreach hmay hroom, ?_⟩
  intro s t id pa v o obj hop hwhat hid hrel htime hstores hobj hstays hout hgo
  subst hid
  obtain ⟨hhbm, hscal, hhandler, hstop⟩ := s.released_facts t obj pa
  obtain ⟨hreceived, hkeeps⟩ := State.writeResult_facts ((State.opOf_congr hscal hhandler o.id).trans hop) (hhandler.trans hout)
    (fun k => (hstop k).trans (hgo k)) ((objGen v + 1).setWidth 64)
  obtain ⟨hread, hfull, hdone⟩ := State.received_facts hreceived
  rw [hhbm, ← State.object_of_objectAt hobj] at hkeeps
  refine ⟨_, exec_variableResultWrite hop htime (State.valueOf_rel hwhat hrel hstores hobj hstays), hread, hfull, hdone, fun j hj => ?_, ?_⟩
  · rw [hkeeps, mread_mwrites_outside _ _ _ _ (by rwa [leBytes_length])]
  · rw [hkeeps, mval_mwrites]
    exact releasedWords_fields v s.ccc.isLt

/-- Settles O44: what ACQ and ACQT answer, a free LOCK that is taken, and REL from issue to result. -/
theorem syncObjects : Obligations.SyncObjects := ⟨acquireResults, lockIsTaken, releaseResults⟩

end Sys2Proof.Machine
end

section
/-! Waits that end (R131, R135, R141, R358). -/
namespace Sys2Proof.Machine
open Sys2Proof

/-! ## The instruction that a stream stands at, through a change of its bookkeeping -/

/-- Two states in which the streams of a tile reach the same memory: what translation and fetching look at is the same. -/
structure State.SameReach (t : Nat) (s u : State) : Prop where
  hbm : u.hbm = s.hbm
  regs : u.regs = s.regs
  ccc : u.ccc = s.ccc
  tlb : (u.tile t).tlb = (s.tile t).tlb
  ctx : u.ctxOfTile t = s.ctxOfTile t

theorem State.ctxOfTile_congr {s u : State} {t : Nat} (hregs : u.regs = s.regs) (htask : (u.tile t).task = (s.tile t).task) :
    u.ctxOfTile t = s.ctxOfTile t := by
  have hreg (off : Nat) : u.reg off = s.reg off := by rw [State.reg, hregs]; rfl
  rw [State.ctxOfTile, State.ctxOfTile, htask, State.tileCtx, State.tileCtx, hreg]

namespace State.SameReach

variable {s u : State} {t : Nat} (h : s.SameReach t u)
include h

theorem symm : u.SameReach t s := ⟨h.hbm.symm, h.regs.symm, h.ccc.symm, h.tlb.symm, h.ctx.symm⟩

theorem reg (off : Nat) : u.reg off = s.reg off := by rw [State.reg, h.regs]; rfl

theorem walk (c : Nat) (va : Word) : u.walk c va = s.walk c va := by
  have hpte (f i : Nat) : u.pte f i = s.pte f i := by rw [State.pte, h.hbm]; rfl
  unfold State.walk State.cxF State.cx
  simp only [hpte, h.reg]

theorem fillTlb (k : Nat) (e : TlbEntry) : (s.fillTlb (.stream t k) e).SameReach t (u.fillTlb (.stream t k) e) where
  hbm := h.hbm
  regs := h.regs
  ccc := h.ccc
  tlb := by
    refine (congrArg Tile.tlb (State.tile_modTile_self ..)).trans (.trans ?_ (congrArg Tile.tlb (State.tile_modTile_self ..)).symm)
    dsimp only
    rw [h.tlb]
  ctx := by
    have hkeep (z : State) : (z.fillTlb (.stream t k) e).ctxOfTile t = z.ctxOfTile t :=
      State.ctxOfTile_congr rfl (by rw [State.fillTlb, State.tile_modTile_self])
    rw [hkeep, hkeep, h.ctx]

theorem translate {k c : Nat} {va : Word} {store : Bool} {pa : Nat} {s' : State} (htr : s.translate (.stream t k) c va store = .ok (pa, s')) :
    ∃ u', u.translate (.stream t k) c va store = .ok (pa, u') ∧ s'.SameReach t u' := by
  have key (p : Nat) (x y : State) (hxy : x.SameReach t y) (hx : ((inHbm p).bind fun q => Res.ok (q, x)) = .ok (pa, s')) :
      ∃ u', ((inHbm p).bind fun q => Res.ok (q, y)) = .ok (pa, u') ∧ s'.SameReach t u' := by
    obtain ⟨q, hq, e⟩ := Res.bind_eq_ok.1 hx
    cases e
    exact ⟨y, by rw [hq]; rfl, hxy⟩
  have htlb : u.tlbOf (.stream t k) = s.tlbOf (.stream t k) := h.tlb
  unfold State.translate at htr ⊢
  simp only [htlb, h.ccc, h.walk, State.cxF, State.cx, h.reg]
  simp only [State.cxF, State.cx] at htr
  split at htr
  · split at htr
    · exact nomatch htr
    · next hnot =>
      rw [if_neg hnot]
      exact key _ s u h htr
  · split at htr
    · exact nomatch htr
    · split at htr
      · exact nomatch htr
      · next hhere =>
        rw [if_neg hhere]
        split at htr
        · exact nomatch htr
        · next hstays =>
          rw [if_neg hstays]
          split at htr
          · exact nomatch htr
          · next hmay =>
            rw [if_neg hmay]
            exact key _ _ _ (h.fillTlb k _) htr

omit h in
theorem fetch {k : Nat} {va : Word} {n : Nat} {hs : List (BitVec 16)} {s s' u : State} (h : s.SameReach t u)
    (hf : s.fetch (.stream t k) va n = .ok (hs, s')) : ∃ u', u.fetch (.stream t k) va n = .ok (hs, u') ∧ s'.SameReach t u' := by
  induction n generalizing s s' u va hs with
  | zero =>
    cases hf
    exact ⟨u, rfl, h⟩
  | succ n ih =>
    rw [State.fetch] at hf ⊢
    split at hf
    · exact nomatch hf
    · next hva =>
      obtain ⟨⟨pa, s1⟩, htr, hf⟩ := Res.bind_eq_ok.1 hf
      obtain ⟨⟨rest, s2⟩, hrest, hf⟩ := Res.bind_eq_ok.1 hf
      obtain ⟨u1, htr', h1⟩ := h.translate htr
      obtain ⟨u2, hrest', h2⟩ := ih h1 hrest
      cases hf
      refine ⟨u2, ?_, h2⟩
      rw [if_neg hva, show u.ctxOf (.stream t k) = s.ctxOf (.stream t k) from h.ctx, htr', Res.ok_bind]
      dsimp only
      rw [hrest', Res.ok_bind, h.hbm]

/-- What a stream stands at is the same when its place is, and the loop counts a header may name. -/
theorem readInsn {k : Nat} (hpc : (u.strm (.stream t k)).pc = (s.strm (.stream t k)).pc) (hblk : (u.strm (.stream t k)).blk = (s.strm (.stream t k)).blk)
    (hcount : (u.tile t).lcPrev = (s.tile t).lcPrev) {hs : List (BitVec 16)} {s' : State} (hr : s.readInsn (.stream t k) = .ok (hs, s')) :
    ∃ u', u.readInsn (.stream t k) = .ok (hs, u') := by
  have hbad (c : Class) (w : BitVec 32) (b : List (BitVec 16)) :
      (u.tile (Who.stream t k).undoTile).headerBad c w b = (s.tile (Who.stream t k).undoTile).headerBad c w b := by
    rw [Tile.headerBad, Tile.headerBad, Tile.blockCount, Tile.blockCount, show (u.tile (Who.stream t k).undoTile).lcPrev = _ from hcount]
    rfl
  have hbody : (u.strm (.stream t k)).inBody = (s.strm (.stream t k)).inBody := by rw [Stream.inBody, Stream.inBody, hblk]
  unfold State.readInsn at hr ⊢
  dsimp only at hr ⊢
  rw [hbody, hpc, hblk]
  split at hr
  · next hin =>
    cases hr
    exact ⟨u, rfl⟩
  · next hout =>
    obtain ⟨⟨l1, s1⟩, h1, hr⟩ := Res.bind_eq_ok.1 hr
    obtain ⟨⟨l2, s2⟩, h2, hr⟩ := Res.bind_eq_ok.1 hr
    obtain ⟨u1, h1', hsame1⟩ := h.fetch h1
    obtain ⟨u2, h2', hsame2⟩ := hsame1.fetch h2
    dsimp only at hr h2'
    rw [h1', Res.ok_bind, h2', Res.ok_bind]
    dsimp only
    split at hr
    · next hhead =>
      obtain ⟨⟨l3, s3⟩, h3, hr⟩ := Res.bind_eq_ok.1 hr
      obtain ⟨u3, h3', -⟩ := hsame2.fetch h3
      obtain ⟨_, hcheck, hr⟩ := Res.bind_eq_ok.1 hr
      cases hr
      refine ⟨u3, ?_⟩
      rw [if_pos hhead, h3', Res.ok_bind]
      dsimp only at hcheck ⊢
      rw [hbad, hcheck]
      rfl
    · next hnot =>
      obtain ⟨_, hcheck, hr⟩ := Res.bind_eq_ok.1 hr
      cases hr
      rw [if_neg hnot, hcheck]
      exact ⟨u2, rfl⟩

theorem insnAt {k : Nat} (hpc : (u.strm (.stream t k)).pc = (s.strm (.stream t k)).pc) (hblk : (u.strm (.stream t k)).blk = (s.strm (.stream t k)).blk)
    (hcount : (u.tile t).lcPrev = (s.tile t).lcPrev) : u.insnAt (.stream t k) = s.insnAt (.stream t k) := by
  unfold State.insnAt
  split
  · next r hr =>
    obtain ⟨_, hr'⟩ := h.symm.readInsn hpc.symm hblk.symm hcount.symm (hs := r.1) (s' := r.2) hr
    rw [hr']
  · next hnone =>
    split
    · next r hr =>
      obtain ⟨_, hr'⟩ := h.readInsn hpc hblk hcount (hs := r.1) (s' := r.2) hr
      exact absurd hr' (hnone _)
    · rfl

end State.SameReach

/-- A change of a stream's waits leaves the instruction that it stands at. -/
theorem State.insnAt_modStrm (s : State) (t k : Nat) {g : Stream → Stream} (hpc : ∀ st, (g st).pc = st.pc) (hblk : ∀ st, (g st).blk = st.blk) :
    (s.modStrm (.stream t k) g).insnAt (.stream t k) = s.insnAt (.stream t k) := by
  have hb := s.booked_modStrm (.stream t k) g
  have hsame : s.SameReach t (s.modStrm (.stream t k) g) :=
    { hbm := rfl, regs := rfl, ccc := rfl, tlb := hb.tile t (·.tlb) fun _ _ _ _ _ => rfl
      ctx := State.ctxOfTile_congr rfl (hb.tile t (·.task) fun _ _ _ _ _ => rfl) }
  exact hsame.insnAt (by rw [State.strm_modStrm_self, hpc]) (by rw [State.strm_modStrm_self, hblk]) (hb.tile t (·.lcPrev) fun _ _ _ _ _ => rfl)

/-! ## The cause of a wait that has lasted too long (R135, R141) -/

theorem State.stop_frameIfQuiet {s : State} {t k : Nat} {p : Stopped} (h : (s.strm (.stream t k)).stop = some p) :
    ∃ b, ((s.frameIfQuiet t k).strm (.stream t k)).stop = some { p with framed := b } := by
  have hframe := State.stop_writeFrame h false
  unfold State.frameIfQuiet
  dsimp only
  rw [h]
  dsimp only
  split
  · exact ⟨p.framed, h⟩
  · split
    · exact ⟨true, hframe⟩
    · exact ⟨true, hframe⟩

/-- A stream that raises a cause stops with it, at the instruction at hand. -/
theorem State.stop_raiseStream (s : State) (t k : Nat) (c : Cause) (info : Word) :
    ∃ p, ((s.raiseStream t k c info).strm (.stream t k)).stop = some p ∧ p.cause = c ∧ p.insn = s.curInsn := by
  unfold State.raiseStream
  extract_lets ctx resumes detail s1 stop s2
  have hstop : (s2.strm (.stream t k)).stop = some stop := congrArg Stream.stop (s1.strm_modStrm_self ..)
  have hmod {g : Tile → Tile} (hg : ∀ x, (g x).streams = x.streams) : ((s2.modTile t g).strm (.stream t k)).stop = some stop :=
    (congrArg Stream.stop (s2.strm_modTile t k hg)).trans hstop
  split
  · obtain ⟨b, hb⟩ := State.stop_frameIfQuiet (hmod (g := fun x => { x with held := true }) fun _ => rfl)
    exact ⟨_, hb, rfl, rfl⟩
  · exact ⟨stop, hmod (g := fun x => { x with task := x.task.map fun q => { q with fatal := some (q.fatal.getD c) } }) fun _ => rfl, rfl, rfl⟩

theorem State.waitedOver_of {s : State} {us : Nat} {since : Word} (hus : us ≠ 0) (hlong : cyclesOf us < (s.ccc - since).toNat) :
    s.waitedOver us since = true := by
  rw [State.waitedOver, decide_eq_true hlong, bne_iff_ne.2 hus]
  rfl

/-- An ACQ of an EVENT gets its generation (R131). -/
theorem exec_acqGrant_event {s : State} {w : Who} {id pa v : Nat} {o : VarOp} {obj : Word} {gen : BitVec 32} (hop : s.opOf w id = some o)
    (hwhat : o.what = .acq obj gen) (hobj : s.objectAt (s.ctxOf w) obj = some (pa, v)) (hstays : s.rangeMoves (s.ctxOf w) obj 64 = false)
    (hevent : objEvent v = true) (hpast : (objGen v - gen).toNat < 2 ^ 31) :
    exec (.acqGrant w id) s = .next (s.giveOp w id ((objGen v).setWidth 64)) := by
  change execAcqGrant w id s = _
  rw [execAcqGrant, hop]
  dsimp only
  rw [hwhat]
  dsimp only
  rw [hstays, if_neg Bool.false_ne_true, hobj]
  dsimp only
  rw [if_pos hevent, if_pos (passed32_eq_true.2 hpast)]

theorem exec_acqTimeout_late {s : State} {t id : Nat} {o : VarOp} {obj : Word} {gen : BitVec 32} (hop : s.opOf (.stream t 0) id = some o)
    (hwhat : o.what = .acq obj gen) (hover : s.waitedOver (s.cxF (s.ctxOfTile t) cACQTMO 0 17) o.since = true)
    (hgoes : (s.strm (.stream t 0)).stop = none) :
    exec (.acqTimeout (.stream t 0) id) s = .next (s.raiseLate (.stream t 0) o.stream .acqTimeout obj) := by
  change execAcqTimeout (.stream t 0) id s = _
  rw [execAcqTimeout, hop]
  dsimp only
  rw [hwhat, hgoes, show s.ctxOf (.stream t 0) = s.ctxOfTile t from rfl, hover]
  rfl

theorem exec_fenceRfTimeout_late {s : State} {t : Nat} {since : Word} (hfence : (s.strm (.stream t 0)).fenceSince = some since)
    (hover : s.waitedOver (s.cxF (s.ctxOfTile t) cRFTMO 0 17) since = true) (hgoes : (s.strm (.stream t 0)).stop = none) :
    exec (.fenceRfTimeout (.stream t 0)) s =
      .next ((s.modStrm (.stream t 0) fun st => { st with fenceSince := none }).raiseLate (.stream t 0) 0 .fenceRfTimeout 0) := by
  change execFenceRfTimeout (.stream t 0) s = _
  rw [execFenceRfTimeout, hfence]
  dsimp only
  rw [hgoes, show s.ctxOf (.stream t 0) = s.ctxOfTile t from rfl, hover]
  rfl

theorem exec_wfeTimeout_late {s : State} {w : Who} {since : Word} (hwfe : (s.strm w).wfe = some since) (hlong : 940 ≤ (s.ccc - since).toNat) :
    exec (.wfeTimeout w) s = .next (s.modStrm w fun st => { st with woken := true }) := by
  change execWfeTimeout w s = _
  rw [execWfeTimeout, hwfe]
  exact if_pos hlong

theorem waitsEnd : WaitsEnd := by
  refine ⟨fun s w id pa v o obj gen hop hwhat hobj hstays hevent hpast => exec_acqGrant_event hop hwhat hobj hstays hevent hpast, ?_, ?_, ?_⟩
  · intro s t id o obj gen hop hwhat hfirst hus hlong hgoes insn
    rw [exec_acqTimeout_late hop hwhat (State.waitedOver_of hus hlong) hgoes, hfirst]
    rfl
  · intro s t since hfence hus hlong hgoes
    let u := s.modStrm (.stream t 0) fun st => { st with fenceSince := none }
    obtain ⟨p, hstop, hcause, hinsn⟩ := State.stop_raiseStream { u with curInsn := u.insnAt (.stream t 0) } t 0 .fenceRfTimeout
      (if u.barCounted (.stream t 0) (u.insnAt (.stream t 0)) then 1 else 0)
    exact ⟨_, p, exec_fenceRfTimeout_late hfence (State.waitedOver_of hus hlong) hgoes, hstop, hcause,
      hinsn.trans (s.insnAt_modStrm t 0 (fun _ => rfl) fun _ => rfl)⟩
  · intro s t since hwfe hlong
    refine ⟨_, exec_wfeTimeout_late hwfe hlong, ?_, ?_⟩
    · rw [State.strm_modStrm_self]
    · rw [State.strm_modStrm_self]

/-- Settles O47: a result is written once its value is there, and a wait ends with its grant or its cause. -/
theorem waitingResults : Obligations.WaitingResults := ⟨variableResults, waitsEnd⟩

end Sys2Proof.Machine
end
